-- ==== Sys2Proof/Word.lean ====
section
/-! DEFINITION. The word types of the Qorler and their plainest arithmetic (R8, R172, R175). -/

namespace Sys2Proof

abbrev Byte := BitVec 8
abbrev Half := BitVec 16
/-- One lane of a vector register, and one instruction word (R172, R175). -/
abbrev Word := BitVec 32
/-- A uniform register, a virtual address as registers carry it, a program counter (R13, R172). -/
abbrev Dword := BitVec 64
/-- One bit per lane; bit L is lane L (R32). -/
abbrev Mask := BitVec 32
/-- One vector register: 32 lanes of 32 bits (R172). -/
abbrev LaneVec := Vector Word 32

/-- The low 32 bits of a 64-bit value (R172: a uniform b operand). -/
def lo32 (x : Dword) : Word := x.setWidth 32
/-- Bits 63:32. -/
def hi32 (x : Dword) : Word := (x >>> 32).setWidth 32
/-- The 64-bit value of a register pair: the lower-numbered register holds the low bytes (R187). -/
def pair (hi lo : Word) : Dword := hi ++ lo

end Sys2Proof
end

