-- ==== Sys2Proof/Syntax.lean ====
section
/-! DEFINITION. The syntax of the machine: instruction groups (R175 to R181) and every instruction and event of
spec/opcode_table.json, with the plain data that names an event's occurrence. -/

namespace Sys2Proof

/-- HINT.SRC (R179): third source, its last-use bits, and the guard. -/
structure HSrc where
  c : BitVec 6
  lkc : BitVec 2
  gp : BitVec 3
  gn : Bool
  ge : Bool
  deriving DecidableEq, Repr

/-- HINT.MOD (R179): rounding, saturation, cache policy (EFMT for packed instructions, R251) and memory offset. -/
structure HMod where
  rnd : BitVec 3
  sat : Bool
  cpol : BitVec 3
  off16 : BitVec 16
  deriving DecidableEq, Repr

/-- HINT.REP (R179): repetitions minus 1 and the register strides. -/
structure HRep where
  cnt : BitVec 4
  sd : BitVec 3
  sa : BitVec 3
  sb : BitVec 3
  sc : BitVec 3
  deriving DecidableEq, Repr

/-- What an instruction group adds to its base word (R175, R180): the switch marker S and the hints. -/
structure Grp where
  sw : Bool := false
  imms : List (BitVec 23) := []
  src : Option HSrc := none
  mod : Option HMod := none
  rep : Option HRep := none
  deriving DecidableEq, Repr

/-- The scopes of R38, from narrow to wide. -/
inductive Domain where
  | core | cluster | die | package | system
  deriving DecidableEq, Repr

/-- An agent identifier of R68: a local unit of a core (kind 0 core, 1 copy channel, 2 matrix pipe, 3 collective unit)
or a remote device by fabric node. The core is numbered as %core numbers it (R174). -/
inductive Agent where
  | loc (core : Nat) (kind : BitVec 2) (unit : BitVec 3)
  | remote (node : Nat)
  deriving DecidableEq, Repr

/-- A line of device memory, or of a remote device's memory (R25), by its address divided by 64. -/
structure LineId where
  node : Option Nat
  line : Nat
  deriving DecidableEq, Repr

/-- A release token (core, epoch) of R96 and R97. -/
structure Token where
  core : Nat
  epoch : BitVec 16
  deriving DecidableEq, Repr

/-- Where a returning result lands (R147): a register of a warp slot, under the generation tag it was issued with.
`ty` is the M type that extends the value (R258); 4 and 5 stand for 32- and 64-bit read-modify-write results. -/
structure RetDest where
  core : Nat
  slot : Nat
  gen : BitVec 8
  uniform : Bool
  lane : Nat
  reg : Nat
  ty : BitVec 3
  deriving DecidableEq, Repr

/-- A block as the holder of line locks (R272): its core, block slot and GENLS. -/
structure LockKey where
  core : Nat
  bslot : Nat
  gen : BitVec 8
  deriving DecidableEq, Repr

/-- What a request asks of a home (R69). The operation codes of `rmw` are those of R266. -/
inductive HomeOp where
  | read (size : Nat)
  | store (data : List Byte)
  | rmw (op : BitVec 4) (operand : Dword)
  | cas (wide : Bool) (expect new : Dword)
  | trackShared
  | trackExclusive
  deriving DecidableEq, Repr

/-- One request to a home slice (R69): who asks, where, under which key id, and where a result returns. -/
structure HomeReq where
  agent : Agent
  holder : Option LockKey
  pa : Nat
  key : Nat
  op : HomeOp
  ret : Option RetDest
  warp : Option (Nat × Nat)
  deriving DecidableEq, Repr

/-- A trap being raised: code and subcode (R386), and what the fault record and the SYS_T registers say of it
(R390, R392). `rank` is the place of the failed check in R21, by which the earliest check over the lanes is chosen. -/
structure Trap where
  code : BitVec 8
  sub : BitVec 8
  addr : Dword := 0
  lanes : Mask := 0
  level : BitVec 2 := 0
  usub : BitVec 8 := 0
  late : Bool := false
  rank : Nat := 0
  /-- No trap at all: the access waits at a home and the group is performed again (R69, R73). -/
  held : Bool := false
  deriving DecidableEq, Repr

/-- Why a group is not an instruction (R183, R191): the named rejections of the decoder. -/
inductive DecErr where
  /-- 0x01/0x00: the base word's opcode is unassigned (R190). -/
  | unassigned
  /-- 0x01/0x01: a reserved value or a non-zero unused field (R177). -/
  | reservedField
  /-- 0x01/0x02: LK = 11 on a source that is read, or LKb with B = 1 (R177, R186). -/
  | lastUse
  /-- 0x01/0x03: a reserved value or bit in a hint word (R179). -/
  | hintReserved
  /-- 0x01/0x04: an unclaimed opcode in 0xF0 to 0xFF (R190). -/
  | unclaimed
  /-- 0x04/0x00: a hint word has S = 1. -/
  | hintSwitch
  /-- 0x04/0x01: a fourth hint word. -/
  | fourthHint
  /-- 0x04/0x02: a hint followed by a word that is not an instruction. -/
  | hintNoInstr
  /-- 0x04/0x03: a repeated hint, a third HINT.IMM, or two that are not adjacent. -/
  | hintRepeated
  /-- 0x04/0x04: a hint the base format does not accept, or too many HINT.IMM words. -/
  | hintNotAccepted
  /-- 0x04/0x05: a required third source without HINT.SRC (R181). -/
  | missingSource
  /-- No base word within the words given: the decoder needs another word. -/
  | truncated
  deriving DecidableEq, Repr

/-- The agents that a service fault parks (R391, R394). -/
inductive FaultUnit where
  | warp (slot : Nat)
  | chan (c : Nat)
  | job (entry : Nat)
  | ray (slot : Nat) (lane : Fin 32)
  | tile (q : Nat) (tx : Nat) (ty : Nat)
  | coll (cid : Half)
  | member (slot : Nat)
  deriving DecidableEq, Repr

/-- A Frond packet (R317). -/
structure Frond where
  draw : Word
  mslot : BitVec 25
  vis : BitVec 128
  txmin : BitVec 10
  tymin : BitVec 10
  txmax : BitVec 10
  tymax : BitVec 10
  zmin : BitVec 12
  zmax : BitVec 12
  deriving DecidableEq, Repr

/-- A collective packet (R357); `crcOk` says whether its CRC-32C checks. -/
structure CollPacket where
  cid : Half
  tensor : Bool
  fmt : BitVec 2
  frame : Word
  loc : Nat
  spanlo : Nat
  spann : Nat
  pcount : Nat
  firstMiss : Option Nat
  held : Bool
  cover : BitVec 256
  payload : List Byte
  crcOk : Bool
  deriving DecidableEq, Repr

/-- A firmware image (R433, R434) and what its verification finds. -/
structure Firmware where
  sigOk : Bool
  version : Nat
  bytes : List Byte
  deriving DecidableEq, Repr

/-- The arrays of R81 in which a soft error strikes, and who meets it: the owning warp, what accesses the local store, the warp that
waits for the slice or its directory. -/
inductive SoftArray where
  | registers (core : Nat) (slot : Nat)
  | localStore (core : Nat) (unit : FaultUnit)
  | l1 (core : Nat) (line : LineId)
  | slice (pa : Nat) (core : Nat) (slot : Nat)
  | directory (line : Nat) (core : Nat) (slot : Nat)
  deriving DecidableEq, Repr

structure SoftErr where
  arr : SoftArray
  uncorrectable : Bool
  deriving DecidableEq, Repr

/-- The instructions and events of the opcode table, one constructor per row. An encoded instruction carries its
group's hints and switch marker (`gr`) and the operand fields of its base word, by the table's names. An event carries
what names its occurrence. -/
inductive Instr where
  /-- IADD (R197): Adds two 32-bit lane values, with optional saturation. -/
  | iadd (gr : Grp) (d : BitVec 6) (a : BitVec 6) (lka : BitVec 2) (b : BitVec 6) (lkb : BitVec 2) (bu : BitVec 1)
  /-- ISUB (R197): Subtracts two 32-bit lane values, with optional saturation. -/
  | isub (gr : Grp) (d : BitVec 6) (a : BitVec 6) (lka : BitVec 2) (b : BitVec 6) (lkb : BitVec 2) (bu : BitVec 1)
  /-- IMUL (R197): Writes the low 32 bits of the product in each lane. -/
  | imul (gr : Grp) (d : BitVec 6) (a : BitVec 6) (lka : BitVec 2) (b : BitVec 6) (lkb : BitVec 2) (bu : BitVec 1)
  /-- IMULHI_S (R197): Writes the high 32 bits of the signed product. -/
  | imulhiS (gr : Grp) (d : BitVec 6) (a : BitVec 6) (lka : BitVec 2) (b : BitVec 6) (lkb : BitVec 2) (bu : BitVec 1)
  /-- IMULHI_U (R197): Writes the high 32 bits of the unsigned product. -/
  | imulhiU (gr : Grp) (d : BitVec 6) (a : BitVec 6) (lka : BitVec 2) (b : BitVec 6) (lkb : BitVec 2) (bu : BitVec 1)
  /-- IMAD (R197): Multiplies and adds a third source taken from HINT.SRC. -/
  | imad (gr : Grp) (d : BitVec 6) (a : BitVec 6) (lka : BitVec 2) (b : BitVec 6) (lkb : BitVec 2) (bu : BitVec 1)
  /-- IMIN_S (R197): Writes the signed minimum. -/
  | iminS (gr : Grp) (d : BitVec 6) (a : BitVec 6) (lka : BitVec 2) (b : BitVec 6) (lkb : BitVec 2) (bu : BitVec 1)
  /-- IMIN_U (R197): Writes the unsigned minimum. -/
  | iminU (gr : Grp) (d : BitVec 6) (a : BitVec 6) (lka : BitVec 2) (b : BitVec 6) (lkb : BitVec 2) (bu : BitVec 1)
  /-- IMAX_S (R197): Writes the signed maximum. -/
  | imaxS (gr : Grp) (d : BitVec 6) (a : BitVec 6) (lka : BitVec 2) (b : BitVec 6) (lkb : BitVec 2) (bu : BitVec 1)
  /-- IMAX_U (R197): Writes the unsigned maximum. -/
  | imaxU (gr : Grp) (d : BitVec 6) (a : BitVec 6) (lka : BitVec 2) (b : BitVec 6) (lkb : BitVec 2) (bu : BitVec 1)
  /-- IABS (R199): Writes the absolute value of a signed lane value. -/
  | iabs (gr : Grp) (d : BitVec 6) (a : BitVec 6) (lka : BitVec 2)
  /-- AND (R197): Writes the bitwise and. -/
  | andV (gr : Grp) (d : BitVec 6) (a : BitVec 6) (lka : BitVec 2) (b : BitVec 6) (lkb : BitVec 2) (bu : BitVec 1)
  /-- OR (R197): Writes the bitwise or. -/
  | orV (gr : Grp) (d : BitVec 6) (a : BitVec 6) (lka : BitVec 2) (b : BitVec 6) (lkb : BitVec 2) (bu : BitVec 1)
  /-- XOR (R197): Writes the bitwise exclusive or. -/
  | xorV (gr : Grp) (d : BitVec 6) (a : BitVec 6) (lka : BitVec 2) (b : BitVec 6) (lkb : BitVec 2) (bu : BitVec 1)
  /-- SHL (R197): Shifts left by a register amount. -/
  | shl (gr : Grp) (d : BitVec 6) (a : BitVec 6) (lka : BitVec 2) (b : BitVec 6) (lkb : BitVec 2) (bu : BitVec 1)
  /-- SHR (R197): Shifts right with zero fill by a register amount. -/
  | shr (gr : Grp) (d : BitVec 6) (a : BitVec 6) (lka : BitVec 2) (b : BitVec 6) (lkb : BitVec 2) (bu : BitVec 1)
  /-- SAR (R197): Shifts right with sign fill by a register amount. -/
  | sar (gr : Grp) (d : BitVec 6) (a : BitVec 6) (lka : BitVec 2) (b : BitVec 6) (lkb : BitVec 2) (bu : BitVec 1)
  /-- BFE (R198): Extracts a bit field, optionally sign-extended. -/
  | bfe (gr : Grp) (d : BitVec 6) (a : BitVec 6) (lka : BitVec 2) (b : BitVec 6) (lkb : BitVec 2) (bu : BitVec 1)
  /-- BFI (R198): Inserts a bit field into a value. -/
  | bfi (gr : Grp) (d : BitVec 6) (a : BitVec 6) (lka : BitVec 2) (b : BitVec 6) (lkb : BitVec 2) (bu : BitVec 1)
  /-- POPC (R199): Counts set bits. -/
  | popc (gr : Grp) (d : BitVec 6) (a : BitVec 6) (lka : BitVec 2)
  /-- CLZ (R199): Counts leading zero bits. -/
  | clz (gr : Grp) (d : BitVec 6) (a : BitVec 6) (lka : BitVec 2)
  /-- ICMP (R201): Compares integers and writes a predicate bit per lane. -/
  | icmp (gr : Grp) (p : BitVec 3) (c : BitVec 3) (a : BitVec 6) (lka : BitVec 2) (b : BitVec 6) (lkb : BitVec 2) (bu : BitVec 1)
  /-- SEL (R197): Selects between two sources by a predicate. -/
  | sel (gr : Grp) (d : BitVec 6) (a : BitVec 6) (lka : BitVec 2) (b : BitVec 6) (lkb : BitVec 2) (bu : BitVec 1)
  /-- MOV (R199): Copies a vector register. -/
  | mov (gr : Grp) (d : BitVec 6) (a : BitVec 6) (lka : BitVec 2)
  /-- MOVI (R200): Writes an extended immediate to a vector register. -/
  | movi (gr : Grp) (d : BitVec 6) (i : BitVec 9)
  /-- IADDI (R200): Adds an extended immediate. -/
  | iaddi (gr : Grp) (d : BitVec 6) (a : BitVec 6) (lka : BitVec 2) (i : BitVec 9)
  /-- ANDI (R200): Ands with an immediate. -/
  | andi (gr : Grp) (d : BitVec 6) (a : BitVec 6) (lka : BitVec 2) (i : BitVec 7)
  /-- ORI (R200): Ors with an immediate. -/
  | ori (gr : Grp) (d : BitVec 6) (a : BitVec 6) (lka : BitVec 2) (i : BitVec 7)
  /-- XORI (R200): Exclusive-ors with an immediate. -/
  | xori (gr : Grp) (d : BitVec 6) (a : BitVec 6) (lka : BitVec 2) (i : BitVec 7)
  /-- ANDNI (R200): Ands with the complement of an immediate. -/
  | andni (gr : Grp) (d : BitVec 6) (a : BitVec 6) (lka : BitVec 2) (i : BitVec 7)
  /-- SHLI (R200): Shifts left by an immediate. -/
  | shli (gr : Grp) (d : BitVec 6) (a : BitVec 6) (lka : BitVec 2) (i : BitVec 5)
  /-- SHRI (R200): Shifts right with zero fill by an immediate. -/
  | shri (gr : Grp) (d : BitVec 6) (a : BitVec 6) (lka : BitVec 2) (i : BitVec 5)
  /-- SARI (R200): Shifts right with sign fill by an immediate. -/
  | sari (gr : Grp) (d : BitVec 6) (a : BitVec 6) (lka : BitVec 2) (i : BitVec 5)
  /-- ROTI (R200): Rotates left by an immediate. -/
  | roti (gr : Grp) (d : BitVec 6) (a : BitVec 6) (lka : BitVec 2) (i : BitVec 5)
  /-- FADD (R241): Adds F32 values under the group's rounding. -/
  | fadd (gr : Grp) (d : BitVec 6) (a : BitVec 6) (lka : BitVec 2) (b : BitVec 6) (lkb : BitVec 2) (bu : BitVec 1)
  /-- FSUB (R241): Subtracts F32 values. -/
  | fsub (gr : Grp) (d : BitVec 6) (a : BitVec 6) (lka : BitVec 2) (b : BitVec 6) (lkb : BitVec 2) (bu : BitVec 1)
  /-- FMUL (R241): Multiplies F32 values. -/
  | fmul (gr : Grp) (d : BitVec 6) (a : BitVec 6) (lka : BitVec 2) (b : BitVec 6) (lkb : BitVec 2) (bu : BitVec 1)
  /-- FFMA (R241): Fused multiply-add rounded once. -/
  | ffma (gr : Grp) (d : BitVec 6) (a : BitVec 6) (lka : BitVec 2) (b : BitVec 6) (lkb : BitVec 2) (bu : BitVec 1)
  /-- FMIN (R242): Writes the smaller F32 operand under the NaN rules. -/
  | fmin (gr : Grp) (d : BitVec 6) (a : BitVec 6) (lka : BitVec 2) (b : BitVec 6) (lkb : BitVec 2) (bu : BitVec 1)
  /-- FMAX (R242): Writes the larger F32 operand under the NaN rules. -/
  | fmax (gr : Grp) (d : BitVec 6) (a : BitVec 6) (lka : BitVec 2) (b : BitVec 6) (lkb : BitVec 2) (bu : BitVec 1)
  /-- FCMP (R243): Compares F32 values and writes a predicate bit. -/
  | fcmp (gr : Grp) (p : BitVec 3) (c : BitVec 3) (a : BitVec 6) (lka : BitVec 2) (b : BitVec 6) (lkb : BitVec 2) (bu : BitVec 1)
  /-- FCLASS (R244): Writes a one-hot class mask of an F32 value. -/
  | fclass (gr : Grp) (d : BitVec 6) (a : BitVec 6) (lka : BitVec 2)
  /-- FRND (R245): Rounds an F32 value to an integral value. -/
  | frnd (gr : Grp) (d : BitVec 6) (a : BitVec 6) (lka : BitVec 2)
  /-- F2I (R246): Converts F32 to a saturated 32-bit integer. -/
  | f2i (gr : Grp) (d : BitVec 6) (a : BitVec 6) (lka : BitVec 2) (u : BitVec 1)
  /-- I2F (R246): Converts a 32-bit integer to F32. -/
  | i2f (gr : Grp) (d : BitVec 6) (a : BitVec 6) (lka : BitVec 2) (u : BitVec 1)
  /-- FCVT (R247): Converts one element between floating-point formats. -/
  | fcvt (gr : Grp) (d : BitVec 6) (a : BitVec 6) (lka : BitVec 2) (r : BitVec 3) (t : BitVec 3) (q : BitVec 3)
  /-- HADD2 (R252): Adds two packed 16-bit float elements. -/
  | hadd2 (gr : Grp) (d : BitVec 6) (a : BitVec 6) (lka : BitVec 2) (b : BitVec 6) (lkb : BitVec 2) (bu : BitVec 1)
  /-- HMUL2 (R252): Multiplies two packed 16-bit float elements. -/
  | hmul2 (gr : Grp) (d : BitVec 6) (a : BitVec 6) (lka : BitVec 2) (b : BitVec 6) (lkb : BitVec 2) (bu : BitVec 1)
  /-- HFMA2 (R252): Fused multiply-add on two packed 16-bit elements. -/
  | hfma2 (gr : Grp) (d : BitVec 6) (a : BitVec 6) (lka : BitVec 2) (b : BitVec 6) (lkb : BitVec 2) (bu : BitVec 1)
  /-- DOT4 (R253): Four-element byte dot product plus accumulator. -/
  | dot4 (gr : Grp) (d : BitVec 6) (a : BitVec 6) (lka : BitVec 2) (b : BitVec 6) (lkb : BitVec 2) (bu : BitVec 1)
  /-- SFU (R254): Evaluates a special function with a variable-latency result. -/
  | sfu (gr : Grp) (d : BitVec 6) (a : BitVec 6) (lka : BitVec 2) (u : BitVec 3)
  /-- FSCALE (R241): Scales an F32 value by a power of two. -/
  | fscale (gr : Grp) (d : BitVec 6) (a : BitVec 6) (lka : BitVec 2) (b : BitVec 6) (lkb : BitVec 2) (bu : BitVec 1)
  /-- SHFL (R206): Reads a register from another lane of the partition. -/
  | shfl (gr : Grp) (d : BitVec 6) (a : BitVec 6) (lka : BitVec 2) (m : BitVec 2) (r : BitVec 1) (i : BitVec 5)
  /-- VOTE (R207): Votes a predicate across the participants of a partition. -/
  | vote (gr : Grp) (d : BitVec 6) (a : BitVec 6) (lka : BitVec 2) (m : BitVec 2) (n : BitVec 1) (p : BitVec 3)
  /-- MATCH (R208): Finds equal values among the participants. -/
  | matchV (gr : Grp) (d : BitVec 6) (a : BitVec 6) (lka : BitVec 2) (m : BitVec 2)
  /-- REDUX (R209): Reduces a value over the participants of a partition. -/
  | redux (gr : Grp) (d : BitVec 6) (a : BitVec 6) (lka : BitVec 2) (o : BitVec 3)
  /-- PSCAN (R209): Prefix-scans a value over the participants. -/
  | pscan (gr : Grp) (d : BitVec 6) (a : BitVec 6) (lka : BitVec 2) (o : BitVec 3) (e : BitVec 1)
  /-- PART (R210): Sets the warp's partition width. -/
  | part (gr : Grp) (w : BitVec 3)
  /-- SGET (R211): Writes a special value to each lane. -/
  | sget (gr : Grp) (d : BitVec 6) (e : BitVec 5)
  /-- V2S (R212): Moves one lane's value to a uniform register. -/
  | v2s (gr : Grp) (d : BitVec 6) (a : BitVec 6) (lka : BitVec 2) (sx : BitVec 1) (pair : BitVec 1) (first : BitVec 1) (lane : BitVec 5)
  /-- S2V (R212): Broadcasts a uniform register into vector lanes. -/
  | s2v (gr : Grp) (d : BitVec 6) (a : BitVec 6) (p : BitVec 1)
  /-- PMOV_AND (R213): Ands two optionally negated predicates. -/
  | pmovAnd (gr : Grp) (d : BitVec 3) (a : BitVec 3) (n : BitVec 1) (m : BitVec 1) (p : BitVec 3)
  /-- PMOV_OR (R213): Ors two optionally negated predicates. -/
  | pmovOr (gr : Grp) (d : BitVec 3) (a : BitVec 3) (n : BitVec 1) (m : BitVec 1) (p : BitVec 3)
  /-- PMOV_XOR (R213): Exclusive-ors two optionally negated predicates. -/
  | pmovXor (gr : Grp) (d : BitVec 3) (a : BitVec 3) (n : BitVec 1) (m : BitVec 1) (p : BitVec 3)
  /-- PMOV_P2V (R213): Writes a predicate as 0 or 1 into a vector register. -/
  | pmovP2v (gr : Grp) (d : BitVec 6) (a : BitVec 3)
  /-- PMOV_V2P (R213): Sets a predicate from bit 0 of a vector register. -/
  | pmovV2p (gr : Grp) (d : BitVec 3) (a : BitVec 6) (lka : BitVec 2)
  /-- PMOV_P2S (R213): Copies the 32 predicate bits into a uniform register. -/
  | pmovP2s (gr : Grp) (d : BitVec 6) (a : BitVec 3)
  /-- PMOV_S2P (R213): Sets a predicate from bit L of a uniform register. -/
  | pmovS2p (gr : Grp) (d : BitVec 3) (a : BitVec 6)
  /-- SADD (R202): Adds uniform registers. -/
  | sadd (gr : Grp) (d : BitVec 6) (a : BitVec 6) (b : BitVec 6)
  /-- SSUB (R202): Subtracts uniform registers. -/
  | ssub (gr : Grp) (d : BitVec 6) (a : BitVec 6) (b : BitVec 6)
  /-- SMUL (R202): Multiplies uniform registers, low or high half. -/
  | smul (gr : Grp) (d : BitVec 6) (a : BitVec 6) (b : BitVec 6) (f : BitVec 2)
  /-- SAND (R202): Ands uniform registers. -/
  | sand (gr : Grp) (d : BitVec 6) (a : BitVec 6) (b : BitVec 6)
  /-- SOR (R202): Ors uniform registers. -/
  | sor (gr : Grp) (d : BitVec 6) (a : BitVec 6) (b : BitVec 6)
  /-- SXOR (R202): Exclusive-ors uniform registers. -/
  | sxor (gr : Grp) (d : BitVec 6) (a : BitVec 6) (b : BitVec 6)
  /-- SANDN (R202): Ands with the complement of sb. -/
  | sandn (gr : Grp) (d : BitVec 6) (a : BitVec 6) (b : BitVec 6)
  /-- SSHL (R202): Shifts a uniform register left. -/
  | sshl (gr : Grp) (d : BitVec 6) (a : BitVec 6) (b : BitVec 6)
  /-- SSHR (R202): Shifts a uniform register right with zero fill. -/
  | sshr (gr : Grp) (d : BitVec 6) (a : BitVec 6) (b : BitVec 6)
  /-- SSAR (R202): Shifts a uniform register right with sign fill. -/
  | ssar (gr : Grp) (d : BitVec 6) (a : BitVec 6) (b : BitVec 6)
  /-- SROT (R202): Rotates a uniform register left. -/
  | srot (gr : Grp) (d : BitVec 6) (a : BitVec 6) (b : BitVec 6)
  /-- SCMP (R202): Compares uniform registers and writes all ones or zero. -/
  | scmp (gr : Grp) (d : BitVec 6) (a : BitVec 6) (b : BitVec 6) (w : BitVec 1) (c : BitVec 3)
  /-- SMOV (R203): Copies a uniform register. -/
  | smov (gr : Grp) (d : BitVec 6) (a : BitVec 6)
  /-- SMOV_TLO (R203): Writes the low half of a tile handle. -/
  | smovTlo (gr : Grp) (d : BitVec 3) (a : BitVec 6)
  /-- SMOV_THI (R203): Writes the high half of a tile handle. -/
  | smovThi (gr : Grp) (d : BitVec 3) (a : BitVec 6)
  /-- SMOV_SLO (R203): Reads the low half of a tile handle. -/
  | smovSlo (gr : Grp) (d : BitVec 6) (a : BitVec 3)
  /-- SMOV_SHI (R203): Reads the high half of a tile handle. -/
  | smovShi (gr : Grp) (d : BitVec 6) (a : BitVec 3)
  /-- SMOVI (R204): Writes an extended immediate to a uniform register. -/
  | smovi (gr : Grp) (d : BitVec 6) (i : BitVec 11)
  /-- SADDI (R204): Adds an extended immediate to a uniform register. -/
  | saddi (gr : Grp) (d : BitVec 6) (a : BitVec 6) (i : BitVec 11)
  /-- SBFE (R202): Extracts a 64-bit uniform bit field. -/
  | sbfe (gr : Grp) (d : BitVec 6) (a : BitVec 6) (b : BitVec 6) (u : BitVec 1)
  /-- SMIN (R202): Writes the uniform minimum, signed or unsigned. -/
  | smin (gr : Grp) (d : BitVec 6) (a : BitVec 6) (b : BitVec 6) (u : BitVec 1)
  /-- SMAX (R202): Writes the uniform maximum, signed or unsigned. -/
  | smax (gr : Grp) (d : BitVec 6) (a : BitVec 6) (b : BitVec 6) (u : BitVec 1)
  /-- SPOPC (R202): Counts set bits of a uniform register. -/
  | spopc (gr : Grp) (d : BitVec 6) (a : BitVec 6)
  /-- SCLZ (R202): Counts leading zeros of a uniform register. -/
  | sclz (gr : Grp) (d : BitVec 6) (a : BitVec 6)
  /-- SCTZ (R202): Counts trailing zeros of a uniform register. -/
  | sctz (gr : Grp) (d : BitVec 6) (a : BitVec 6)
  /-- SBREV (R202): Reverses the bits of a uniform register. -/
  | sbrev (gr : Grp) (d : BitVec 6) (a : BitVec 6)
  /-- BRA (R214): Sends each lane whose condition holds to the target. -/
  | bra (gr : Grp) (p : BitVec 3) (n : BitVec 1) (o : BitVec 19)
  /-- BRP (R214): Branches every executing lane if any lane's condition holds. -/
  | brp (gr : Grp) (p : BitVec 3) (n : BitVec 1) (o : BitVec 19)
  /-- BRS (R214): Branches every executing lane if all lanes' conditions hold. -/
  | brs (gr : Grp) (p : BitVec 3) (n : BitVec 1) (o : BitVec 19)
  /-- JMPI (R216): Jumps each active lane to a register address. -/
  | jmpi (gr : Grp) (a : BitVec 6) (lka : BitVec 2)
  /-- CALL (R215): Calls a relative target and writes the link. -/
  | call (gr : Grp) (p : BitVec 3) (n : BitVec 1) (o : BitVec 19)
  /-- CALLI (R215): Calls a register address and writes the link. -/
  | calli (gr : Grp) (a : BitVec 6) (lka : BitVec 2)
  /-- RET (R216): Returns each active lane to a register address. -/
  | ret (gr : Grp) (a : BitVec 6) (lka : BitVec 2)
  /-- EXIT (R217): Retires each executing lane whose guard is true. -/
  | exitL (gr : Grp)
  /-- YIELD (R217): Makes the warp leave the active set. -/
  | yield (gr : Grp)
  /-- NOP (R217): Does nothing. -/
  | nop (gr : Grp)
  /-- MCALL (R221): Runs a control-store microprogram on a shadow and commits it. -/
  | mcall (gr : Grp) (ptwo : BitVec 5) (pone : BitVec 6) (pzero : BitVec 6) (slot : BitVec 6)
  /-- MRET (R218): Ends a microprogram. -/
  | mret (gr : Grp)
  /-- LD (R260): Loads per lane, optionally fresh and acquiring. -/
  | ld (gr : Grp) (v : BitVec 6) (b : BitVec 6) (i : BitVec 6) (t : BitVec 3) (f : BitVec 1) (o : BitVec 1)
  /-- ST (R261): Stores per lane, optionally releasing. -/
  | st (gr : Grp) (v : BitVec 6) (b : BitVec 6) (i : BitVec 6) (t : BitVec 3) (o : BitVec 1)
  /-- LDL (R264): Loads from own local store or the cluster window. -/
  | ldl (gr : Grp) (v : BitVec 6) (b : BitVec 6) (i : BitVec 6) (t : BitVec 3) (w : BitVec 1) (o : BitVec 1)
  /-- STL (R264): Stores to own local store or the cluster window. -/
  | stl (gr : Grp) (v : BitVec 6) (b : BitVec 6) (i : BitVec 6) (t : BitVec 3) (w : BitVec 1) (o : BitVec 1)
  /-- LDU (R263): Warp-level load into a uniform register. -/
  | ldu (gr : Grp) (v : BitVec 6) (b : BitVec 6) (t : BitVec 3) (f : BitVec 1) (o : BitVec 1)
  /-- STU (R263): Warp-level store from a uniform register. -/
  | stu (gr : Grp) (v : BitVec 6) (b : BitVec 6) (t : BitVec 3) (o : BitVec 1)
  /-- ATOM (R267): Read-modify-write returning the old value per lane. -/
  | atom (gr : Grp) (v : BitVec 6) (b : BitVec 6) (i : BitVec 6) (c : BitVec 4) (o : BitVec 1)
  /-- CAS (R268): Compare-and-swap per lane. -/
  | cas (gr : Grp) (v : BitVec 6) (b : BitVec 6) (i : BitVec 6) (w : BitVec 1) (o : BitVec 1)
  /-- RED (R269): Reduction without return, buffered as a commutative update where the region allows. -/
  | red (gr : Grp) (v : BitVec 6) (b : BitVec 6) (i : BitVec 6) (c : BitVec 3) (o : BitVec 1)
  /-- RED_HOME (R270): Reduction combined in the core and sent as partials to the home, bypassing L1. -/
  | redHome (gr : Grp) (v : BitVec 6) (b : BitVec 6) (i : BitVec 6) (c : BitVec 3) (o : BitVec 1)
  /-- ATOML (R271): Atomic on the block's own local store. -/
  | atoml (gr : Grp) (v : BitVec 6) (b : BitVec 6) (i : BitVec 6) (c : BitVec 4)
  /-- REDL (R271): Reduction on the block's own local store. -/
  | redl (gr : Grp) (v : BitVec 6) (b : BitVec 6) (i : BitVec 6) (c : BitVec 3)
  /-- FENCE_ACQ (R98): Acquire at the widest domain of the touched set. -/
  | fenceAcq (gr : Grp)
  /-- FENCE_REL (R98): Release at the widest domain of the touched set, then clears it. -/
  | fenceRel (gr : Grp)
  /-- FENCE_SC (R99): Release, wait, then acquire, in the total order of SC fences. -/
  | fenceSc (gr : Grp)
  /-- CFENCE (R276): Discards fetched and cached code for the warp. -/
  | cfence (gr : Grp)
  /-- PUBLISH (R277): Publishes every private line of the launch to their homes. -/
  | publish (gr : Grp)
  /-- PREFETCH (R274): Fills L1 and slice, or slice only, without trapping. -/
  | prefetch (gr : Grp) (b : BitVec 6) (i : BitVec 6) (f : BitVec 1)
  /-- LOCK (R272): Tries to lock a line for the block and returns a status. -/
  | lock (gr : Grp) (v : BitVec 6) (b : BitVec 6) (i : BitVec 6)
  /-- UNLOCK (R272): Unlocks a line held by the block and releases held requests. -/
  | unlock (gr : Grp) (v : BitVec 6) (b : BitVec 6) (i : BitVec 6)
  /-- STASH_MAP (R278): Activates a stash mapping of a global range into local store. -/
  | stashMap (gr : Grp) (d : BitVec 6) (a : BitVec 6) (b : BitVec 6)
  /-- STASH_UNMAP (R279): Writes back dirty stash lines and frees the mapping. -/
  | stashUnmap (gr : Grp) (a : BitVec 6)
  /-- LDP (R265): Loads from the private segment or handler scratch. -/
  | ldp (gr : Grp) (v : BitVec 6) (b : BitVec 6) (i : BitVec 6) (t : BitVec 3) (x : BitVec 1)
  /-- STP (R265): Stores to the private segment or handler scratch. -/
  | stp (gr : Grp) (v : BitVec 6) (b : BitVec 6) (i : BitVec 6) (t : BitVec 3) (x : BitVec 1)
  /-- ACOPY (R119): Issues a linear copy to a channel of the copy engine. -/
  | acopy (gr : Grp) (d : BitVec 6) (a : BitVec 6) (b : BitVec 6)
  /-- AXFORM (R120): Issues a transposing and padding copy into local store. -/
  | axform (gr : Grp) (d : BitVec 6) (a : BitVec 6) (b : BitVec 6)
  /-- AGATHER (R121): Issues an indexed gather copy into local store. -/
  | agather (gr : Grp) (d : BitVec 6) (a : BitVec 6) (b : BitVec 6)
  /-- BCLOSE (R126): Closes the block's open batch. -/
  | bclose (gr : Grp)
  /-- WAITB (R127): Closes the batch and waits until at most n are outstanding. -/
  | waitb (gr : Grp) (n : BitVec 4)
  /-- HWAIT_FULL (R129): Waits until a buffer handle is FULL or DRAINING. -/
  | hwaitFull (gr : Grp) (h : BitVec 5)
  /-- HWAIT_FREE (R129): Waits until a buffer handle is FREE. -/
  | hwaitFree (gr : Grp) (h : BitVec 5)
  /-- HSET_DRAIN (R129): Moves a full handle to DRAINING. -/
  | hsetDrain (gr : Grp) (h : BitVec 5)
  /-- HSET_FREE (R130): Frees a handle after the thread's earlier accesses. -/
  | hsetFree (gr : Grp) (h : BitVec 5)
  /-- WPTR (R123): Reads the write-pointer of the copy bound to a handle. -/
  | wptr (gr : Grp) (d : BitVec 6) (h : BitVec 5)
  /-- BAR (R282): Block barrier arrival of the active lanes. -/
  | bar (gr : Grp)
  /-- CBAR (R284): Collective cohort barrier with cluster release and acquire. -/
  | cbar (gr : Grp)
  /-- NBAR (R283): Named barrier arrival at block or core scope. -/
  | nbar (gr : Grp) (count : BitVec 10) (coreScope : BitVec 1) (id : BitVec 4)
  /-- SIGNAL (R285): Releasing read-modify-write of a signal word that wakes its waiters. -/
  | signal (gr : Grp) (a : BitVec 6) (b : BitVec 6) (o : BitVec 2)
  /-- SOFTINT_Q (R287): Writes QWAKE of a queue after earlier writes are performed. -/
  | softintQ (gr : Grp) (a : BitVec 6) (b : BitVec 6)
  /-- SOFTINT_M (R287): Writes the management core's wake register. -/
  | softintM (gr : Grp) (b : BitVec 6)
  /-- WAITS (R286): Parks until a signal word meets a condition. -/
  | waits (gr : Grp) (d : BitVec 6) (a : BitVec 6) (b : BitVec 6) (c : BitVec 2)
  /-- MJOB (R302): Reads a job card and hands a blocked matrix product to the engine. -/
  | mjob (gr : Grp) (a : BitVec 6)
  /-- MWAIT (R307): Waits for matrix instructions naming the masked accumulators. -/
  | mwait (gr : Grp) (m : BitVec 8)
  /-- MWAIT_ALL (R307): Waits for every matrix instruction of the warp. -/
  | mwaitAll (gr : Grp)
  /-- MZERO (R308): Zeroes the masked accumulators. -/
  | mzero (gr : Grp) (m : BitVec 8)
  /-- MLDA_TILE (R309): Loads an accumulator from a tile. -/
  | mldaTile (gr : Grp) (d : BitVec 3) (a : BitVec 3)
  /-- MLDA_GLOBAL (R309): Loads an accumulator from global memory. -/
  | mldaGlobal (gr : Grp) (d : BitVec 3) (a : BitVec 6) (c : BitVec 2)
  /-- MSTA_TILE (R310): Stores an accumulator to a tile with an epilogue. -/
  | mstaTile (gr : Grp) (d : BitVec 3) (a : BitVec 3) (b : BitVec 6) (n : BitVec 1)
  /-- MSTA_GLOBAL (R310): Stores an accumulator to global memory with an epilogue. -/
  | mstaGlobal (gr : Grp) (d : BitVec 6) (a : BitVec 3) (b : BitVec 6) (n : BitVec 1) (c : BitVec 3)
  /-- MSTREAM_SUB (R311): Subscribes the warp to an operand stream. -/
  | mstreamSub (gr : Grp) (a : BitVec 6)
  /-- MSTREAM_UNSUB (R311): Removes the warp from an operand stream. -/
  | mstreamUnsub (gr : Grp) (a : BitVec 6)
  /-- VISEMIT (R324): Emits a Frond packet per lane to the crossbar. -/
  | visemit (gr : Grp) (d : BitVec 6) (a : BitVec 6) (lka : BitVec 2) (b : BitVec 6)
  /-- LDCL (R326): Loads cluster geometry through a residency map. -/
  | ldcl (gr : Grp) (v : BitVec 6) (b : BitVec 6) (i : BitVec 6) (t : BitVec 3) (f : BitVec 1)
  /-- TEX (R341): Samples or fetches a texture. -/
  | tex (gr : Grp) (d : BitVec 6) (a : BitVec 6) (lka : BitVec 2) (b : BitVec 6)
  /-- TEXFB (R342): Texture lookup with residency status and feedback. -/
  | texfb (gr : Grp) (d : BitVec 6) (a : BitVec 6) (lka : BitVec 2) (b : BitVec 6)
  /-- RTRACE (R346): Traces a ray through a tree in the ray unit. -/
  | rtrace (gr : Grp) (d : BitVec 6) (a : BitVec 6) (lka : BitVec 2) (b : BitVec 6)
  /-- RQUERY (R350): Runs a radius, nearest or range query on a tree. -/
  | rquery (gr : Grp) (d : BitVec 6) (a : BitVec 6) (lka : BitVec 2) (b : BitVec 6)
  /-- RTCONT (R347): Resumes a suspended ray with a candidate decision. -/
  | rtcont (gr : Grp) (d : BitVec 6) (o : BitVec 2)
  /-- HSORT (R351): Regroups the block's threads by key across warps. -/
  | hsort (gr : Grp) (d : BitVec 6) (a : BitVec 6) (lka : BitVec 2)
  /-- RPIX (R339): Writes a pixel through the owner's render-region cache. -/
  | rpix (gr : Grp) (op : BitVec 3) (tgt : BitVec 2) (a : BitVec 6) (lka : BitVec 2) (b : BitVec 6) (lkb : BitVec 2)
  /-- VISRD (R338): Reads the lane's own pixel's resolved identifier and depth. -/
  | visrd (gr : Grp) (d : BitVec 6) (smp : BitVec 2)
  /-- VISRD_PIX (R338): Reads a named pixel's resolved identifier and depth. -/
  | visrdPix (gr : Grp) (d : BitVec 6) (a : BitVec 6) (lka : BitVec 2) (smp : BitVec 2)
  /-- CPOST (R370): Posts a tile contribution to a composite collective. -/
  | cpost (gr : Grp) (a : BitVec 6) (b : BitVec 6)
  /-- CRED (R370): Posts a tensor block to a reduction collective. -/
  | cred (gr : Grp) (a : BitVec 6) (b : BitVec 6)
  /-- CWAIT (R371): Waits for or tests a collective frame's completion. -/
  | cwait (gr : Grp) (d : BitVec 6) (a : BitVec 6) (t : BitVec 1)
  /-- CJOIN (R369): Takes a member slot and joins a collective. -/
  | cjoin (gr : Grp) (d : BitVec 6) (a : BitVec 6)
  /-- CJOIN_LEAVE (R369): Frees a member slot. -/
  | cjoinLeave (gr : Grp) (a : BitVec 6)
  /-- TRAP (R288): Raises trap 0x08 with a code. -/
  | trapI (gr : Grp) (c : BitVec 8)
  /-- RTI (R393): Returns from a handler restoring lpc and mask state. -/
  | rti (gr : Grp)
  /-- BKPT (R288): Raises trap 0x09 with a code. -/
  | bkpt (gr : Grp) (c : BitVec 8)
  /-- SYSRD (R290): Reads a system register into a uniform register. -/
  | sysrd (gr : Grp) (d : BitVec 6) (i : BitVec 11)
  /-- SYSWR (R290): Writes a system register. -/
  | syswr (gr : Grp) (a : BitVec 6) (i : BitVec 11)
  /-- TMASK (R289): Sets or clears trap masking. -/
  | tmask (gr : Grp) (m : BitVec 1)
  /-- TLBINV_PAGE (R291): Shoots down translations covering one address. -/
  | tlbinvPage (gr : Grp) (d : BitVec 6) (a : BitVec 6)
  /-- TLBINV_RANGE (R291): Shoots down translations covering a range. -/
  | tlbinvRange (gr : Grp) (d : BitVec 6) (a : BitVec 6) (b : BitVec 6)
  /-- TLBINV_SPACE (R291): Shoots down every translation of a SPACE. -/
  | tlbinvSpace (gr : Grp) (d : BitVec 6) (a : BitVec 6)
  /-- LICHEN_EMULATION (R376): Performs a claimed or emulated group through a Lichen control-store microprogram. -/
  | lichenEmulation (g : Grp) (word : Word) (cslot : BitVec 6) (psel : Bool)
  /-- RESULT_RETURN (R147): A variable-latency result returns and is written or dropped by its generation tag. -/
  | resultReturn (core : Nat) (slot : Nat)
  /-- PERFORMED_AT_HOME (R83): Acknowledgement that a write is performed at its home reaches the issuing core. -/
  | performedAtHome (core : Nat)
  /-- PROMOTION_RETIRE (R97): A retire message frees promotion entries and sets PROM. -/
  | promotionRetire (core : Nat) (epoch : BitVec 16)
  /-- PROMOTION_QUERY (R96): An acquiring thread asks a tagging core about a release token. -/
  | promotionQuery (core : Nat) (slot : Nat) (lane : Fin 32)
  /-- PROMOTION_ANSWER (R97): A tagging core's answer lets a waiting acquire resolve its promotions. -/
  | promotionAnswer (core : Nat) (slot : Nat) (lane : Fin 32) (t : Token)
  /-- L1_LEASE_EXPIRY (R58): A line tagged wider than core is dropped 65,536 clocks after its fill. -/
  | l1LeaseExpiry (core : Nat) (line : LineId)
  /-- OWNERSHIP_POINT (R104): An engine instruction owns every destination line and held accesses proceed. -/
  | ownershipPoint (core : Nat) (chan : Nat)
  /-- SHOOTDOWN_CORE_COMPLETE (R43): A core counts TLBINV completion once its conditions hold. -/
  | shootdownCoreComplete (core : Nat)
  /-- COPY_ACCEPTED (R116): A waiting copy is accepted when its channel or handle has room. -/
  | copyAccepted (core : Nat) (slot : Nat)
  /-- COPY_DELIVER (R123): A copy writes destination lines and advances its write-pointer. -/
  | copyDeliver (core : Nat) (chan : Nat)
  /-- ACTIVE_SET_ENTRY (R168): The longest-ready pending warp takes a free lane set. -/
  | activeSetEntry (core : Nat) (laneSet : Nat)
  /-- ACTIVE_BOUND (R170): A warp active for 1,024 clocks with a ready rival leaves the active set. -/
  | activeBound (core : Nat) (slot : Nat)
  /-- WARP_EXIT (R151): A warp with no live lanes frees its slot once its returns have landed. -/
  | warpExit (core : Nat) (slot : Nat)
  /-- QWAKE (R155): A write of QWAKE makes the queue engine test the waiting item. -/
  | qwake (q : Nat)
  /-- PASSOPEN (R335): Writing PASSOPEN reads a pass descriptor and opens a pass. -/
  | passopen (q : Nat) (desc : Dword)
  /-- REGISTER_WRITE (R448): A write to a device or management register with no behaviour of its own. -/
  | registerWrite (pa : Nat) (value : Dword)
  /-- LAUNCH_START (R158): The queue engine starts a launch item, checks it and passes it to the distributor. -/
  | launchStart (q : Nat)
  /-- WAIT_ITEM_POLL (R161): Every 4,096 clocks the waiting item is tested again. -/
  | waitItemPoll (q : Nat)
  /-- WAITS_POLL (R286): Every 4,096 clocks a parked WAITS tests its word. -/
  | waitsPoll (core : Nat) (slot : Nat)
  /-- PLACEMENT_PASS (R164): The distributor tries waiting heads in order when resources free or a launch starts. -/
  | placementPass
  /-- LAUNCH_COMPLETE (R161): A launch completes after detached copies and partials and adds 1 to DONESIG. -/
  | launchComplete (launch : Nat)
  /-- JOB_STEP (R300): The matrix engine performs one native step of a job's walk. -/
  | jobStep (core : Nat) (entry : Nat)
  /-- STREAM_BLOCK_FETCH (R312): The distributor fetches a stream block once for every subscriber. -/
  | streamBlockFetch (core : Nat) (entry : Nat)
  /-- RAY_TRAVERSAL_STEP (R345): The ray unit visits nodes and leaves until the ray ends or suspends. -/
  | rayTraversalStep (core : Nat) (slot : Nat) (lane : Fin 32)
  /-- FAULT_RESP_POLL (R391): Every 4,096 clocks a parked agent tests RESP. -/
  | faultRespPoll (core : Nat) (unit : FaultUnit)
  /-- TRAP_QUEUE_POLL (R389): Every 4,096 clocks a full trap queue's RDCOUNT and QLOG are read again. -/
  | trapQueuePoll (q : Nat)
  /-- END_OF_DRAW_TOKEN (R319): A geometry die sends its end-of-draw token once the draw's blocks are done. -/
  | endOfDrawToken (gdie : Nat) (draw : Word)
  /-- TOKEN_ARRIVAL (R320): A token reaches a shading die and may advance its frontier. -/
  | tokenArrival (gdie : Nat) (sdie : Nat) (draw : Word)
  /-- FROND_PACKET_ARRIVAL (R320): A Frond packet reaches a shading die and is binned or held. -/
  | frondPacketArrival (sdie : Nat) (p : Frond)
  /-- FLUSH_AREA_MOVE (R323): After launches drain, flush areas move off a quarantined memory die. -/
  | flushAreaMove
  /-- TILE_LAUNCH (R337): A final tile becomes a block of the pass's launch. -/
  | tileLaunch (q : Nat) (tx : Nat) (ty : Nat)
  /-- PASS_COMPLETE (R336): A pass completes, writes back render lines and raises PASSCOUNT. -/
  | passComplete (q : Nat)
  /-- FRAME_CLOSE (R361): At the close tick a merge point forwards partials and sends close flits. -/
  | frameClose (cid : Half)
  /-- FRAME_COMPLETE (R356): A frame completes after its writes and signal are performed. -/
  | frameComplete (cid : Half) (frame : Word) (status : Word)
  /-- SETTLED_BLOCK_DOWN (R367): A settled block sent down the tree is written on a member. -/
  | settledBlockDown (cid : Half) (frame : Word) (block : Nat) (data : List Byte)
  /-- VERTICAL_BLANK (R366): At vertical blank the head shows the latest completed surface. -/
  | verticalBlank (head : Nat)
  /-- RDMA_READ (R157): An inbound RDMA READ through an inbound window. -/
  | rdmaRead (conn : Nat) (rkey : Word) (va : Dword) (len : Nat)
  /-- RDMA_WRITE (R157): An inbound RDMA WRITE merged granule by granule. -/
  | rdmaWrite (conn : Nat) (rkey : Word) (va : Dword) (data : List Byte)
  /-- RDMA_FETCH_ADD (R157): An inbound FETCH_ADD performed at the home. -/
  | rdmaFetchAdd (conn : Nat) (rkey : Word) (va : Dword) (add : Dword)
  /-- RDMA_CMP_SWAP (R157): An inbound CMP_SWAP performed at the home. -/
  | rdmaCmpSwap (conn : Nat) (rkey : Word) (va : Dword) (compare : Dword) (swap : Dword)
  /-- FABRIC_LEASE_EXPIRY (R111): An expired lease drops remote copies and refuses fabric access. -/
  | fabricLeaseExpiry
  /-- FANOUT_TIMEOUT (R112): An unacknowledged fan-out after 80,000 clocks is reported to the fabric manager. -/
  | fanoutTimeout (line : Nat) (node : Nat)
  /-- FAILURE_NOTICE (R112): The fabric manager's notice reaches the failed node. -/
  | failureNotice
  /-- PATCH_ACTIVATION (R382): A staged patch set takes effect once running launches complete. -/
  | patchActivation
  /-- CORE_DUMP (R432): After a fatal fault the process is pre-empted, dumped and killed. -/
  | coreDump (launch : Nat)
  /-- RESET (R433): Reset runs the ROM boot sequence. -/
  | reset
  /-- RECOVERY_RETRY (R434): A failed recovery read is retried after its wait. -/
  | recoveryRetry
  /-- KEYLOAD (R438): Loads KEYBUF as a memory-encryption key. -/
  | keyload (id : Dword)
  /-- KEYUNLOAD (R23): Writes back lines of a key, invalidates its TLB entries and unloads it. -/
  | keyunload (id : Dword)
  /-- PATCH (R381): Checks a patch image and stages it. -/
  | patch (pa : Dword)
  /-- WITHDRAW (R382): Withdraws a staged patch set. -/
  | withdraw
  /-- ATTEST (R437): Writes a signed attestation report. -/
  | attest (nonce : Dword) (buf : Dword)
  /-- SCANOUT (R439): Configures and trains a scan-out head. -/
  | scanout (head : Dword) (desc : Dword)
  /-- DUMPWIN (R440): Sets the host window for core images. -/
  | dumpwin (idx : Dword)
  /-- STATEREAD (R443): Copies state-map words to a buffer without side effects. -/
  | stateread (addr : Dword) (buf : Dword) (len : Dword)
  /-- OVERTEMP_STOP (R445): Above 105 C the device stops all clusters and asserts replace-me. -/
  | overtempStop
  /-- TEMPO_BOUNDARY (R446): At each 5 us boundary permits refill, grants are made and clusters step down. -/
  | tempoBoundary (powerLow : Bool)
  /-- ILLEGAL_INSTRUCTION (R190): A warp issues a group whose base word is an unassigned opcode or an unclaimed word in 0xF0 to 0xFF, or a hint run with no instruction after it, and raises trap 0x01 or 0x04. -/
  | illegalInstruction (e : DecErr) (hints : Nat)
  /-- INSTRUCTION_FETCH_FAULT (R184): The fetch of a word of a group faults, raising the fetch trap at the first word or trap 0x13 fetch straddle, before any base word is delivered. -/
  | instructionFetchFault (first : Bool) (t : Trap)
  /-- HOME_REQUEST (R69): A home slice serves a request according to the directory state. -/
  | homeRequest (r : HomeReq)
  /-- STASH_RECALL (R54): A home recall reaches a stash line and changes its state. -/
  | stashRecall (core : Nat) (entry : Nat) (line : Nat) (write : Bool)
  /-- UPDATE_LINE_RECALL (R63): A recall reaches a core's update-only line and its partial is sent home. -/
  | updateLineRecall (core : Nat) (line : Nat)
  /-- HOLDER_INVALIDATION (R69): An invalidation fan-out reaches a tracked holder such as a proxy copy. -/
  | holderInvalidation (line : Nat) (holder : Agent)
  /-- TAGGED_WRITE_RETURNED (R96): A tagged write finding its promotion-table set full is returned to its core. -/
  | taggedWriteReturned (core : Nat) (line : Nat)
  /-- MIGRATION_START (R73): A placement block starts moving to an away slice. -/
  | migrationStart (block : Nat) (away : BitVec 7)
  /-- MIGRATION_SWITCH (R73): All lines copied: held requests go to the away slice. -/
  | migrationSwitch (block : Nat)
  /-- MIGRATION_RETURN_START (R73): An away block starts returning home. -/
  | migrationReturnStart (block : Nat)
  /-- MIGRATION_RETURN_COMPLETE (R73): All lines copied back: the block is HOME again. -/
  | migrationReturnComplete (block : Nat)
  /-- BLOCK_KILL (R151): System software kills a block or launch. -/
  | blockKill (launch : Nat) (block : Option Nat)
  /-- QTAIL (R156): A write of QTAIL submits packets as a system release. -/
  | qtail (q : Nat) (value : Dword)
  /-- PREEMPT (R155): Writing PREEMPT pre-empts every resident block of the queue. -/
  | preempt (q : Nat)
  /-- RESUME (R167): Writing RESUME makes the queue's pre-empted blocks eligible to resume. -/
  | resume (q : Nat)
  /-- KILL (R155): Writing KILL kills the queue's launches, drops items and sets STOPPED. -/
  | kill (q : Nat)
  /-- CLEAR (R155): Writing CLEAR clears error state and retries the head item. -/
  | clear (q : Nat)
  /-- JOIN_REQUEST (R355): The root accepts or refuses a joining member. -/
  | joinRequest (node : Nat) (slot : Nat) (desc : List Byte) (rosterNode : Nat)
  /-- JOIN_REPLY (R355): The root's answer completes or traps a waiting CJOIN. -/
  | joinReply (slot : Nat) (ok : Bool)
  /-- OPEN_FLIT (R356): An open flit tells a member or merge point a frame and its close tick. -/
  | openFlit (cid : Half) (frame : Word) (close : Option Nat)
  /-- COLLECTIVE_PACKET (R360): A packet reaches a merge point and is merged, held, forwarded or dropped. -/
  | collectivePacket (p : CollPacket)
  /-- CLOSE_FLIT (R361): A close flit reaches the root and may let it settle tiles. -/
  | closeFlit (cid : Half) (frame : Word)
  /-- LATE_NOTICE (R363): A LATE notice reaches the sender's member slot. -/
  | lateNotice (slot : Nat) (frame : Word)
  /-- FABRIC_LEASE_RENEWAL (R111): The fabric manager renews a device's fabric lease, readmitting a rejoined node. -/
  | fabricLeaseRenewal (node : Nat)
  /-- REROUTE (R112): The fabric manager names another route and the invalidation is resent. -/
  | reroute (line : Nat) (node : Nat)
  /-- NODE_DECLARED_FAILED (R112): A node is declared failed and homes and collectives drop it. -/
  | nodeDeclaredFailed (node : Nat)
  /-- DIE_LINK_FAILURE (R114): A die link whose retry fails for 4,096 clocks quarantines its die. -/
  | dieLinkFailure (socket : Nat)
  /-- RELOCATION (R398): The management core resumes a saved block on another core. -/
  | relocation (launch : Nat) (block : Nat) (core : Nat)
  /-- RECOVERY_READ_COMPLETE (R434): The recovery image arrives, is verified, run and written to flash. -/
  | recoveryReadComplete (fw : Firmware)
  /-- SOFT_ERROR (R81): An array detects a corrected or uncorrectable error. -/
  | softError (e : SoftErr)
  /-- DROOP (R444): A droop detector stretches a cluster's clock. -/
  | droop (cluster : Nat)
  /-- THERMAL_STEP_DOWN (R445): A cluster over 95 C steps its clock down. -/
  | thermalStepDown (cluster : Nat)
  /-- INVALIDATION_ACKNOWLEDGEMENT (R69): An acknowledgement or write-back from a holder reaches the home, ending an RCL entry and letting the waiting request be served. -/
  | invalidationAcknowledgement (line : Nat) (holder : Agent) (data : Option (BitVec 512))
  /-- ROOK_PORT_LINK_FAILURE (R441): A chip-to-chip Rook port's link fails, and the port is quarantined, disabled and routed around. -/
  | rookPortLinkFailure (port : Nat)
  /-- THERMAL_RECOVERY (R445): A cluster that stepped down for temperature becomes cooler and its thermal clock restriction ends. -/
  | thermalRecovery (cluster : Nat)
  /-- DROOP_RECOVERY (R444): A cluster's droop passes and its stretched clock returns from below 4.0 GHz (FREQ 3) to its set clock. -/
  | droopRecovery (cluster : Nat)
deriving DecidableEq, Repr

end Sys2Proof
end

