-- ==== Sys2Proof/Config.lean ====
section
/-! DEFINITION. The values the spec leaves open, as constants with no body, and the fixed values of the configuration the
model starts from. No proof can see what an opaque constant is. -/

namespace Sys2Proof.Config

/-- The results of SFU that R254 and R255 bound but do not fix: by function and operand, as the exact zero-extended bits. -/
opaque sfuFree : Nat → Word → Word
/-- The results of EXP2 (R255), which do not fall as the operand rises: by the operand's place in the order of the numbers. -/
opaque exp2Free : Nat →o Nat
/-- RSA-4096 PSS SHA-512 verification of an image under the Brynkel keys (R380, R433, R435): message, signature. -/
opaque pssVerify : List Byte → List Byte → Bool
/-- SHA-512 of a message (R380, R437), as 64 bytes. -/
opaque sha512 : List Byte → List Byte
/-- The bytes of an attestation report, signature included (R437), from the nonce and the measured state. -/
opaque attestReport : List Byte → List Byte → List Byte
/-- Free choices that a step takes where the spec leaves one of several outcomes: by a counter of the state. -/
opaque freeValue : Nat → Dword
/-- The link rate check of a head (R439): whether the sink trains and the stream fits. -/
opaque headTrains : List Byte → Bool
/-- The 256-bit identifier of the die in a socket (R436). -/
opaque dieId : Nat → BitVec 256
/-- The bytes of a note of a core image whose layout is not given (R432), after its head: by its type and a counter of the state. -/
opaque noteBytes : Nat → Nat → List Byte

end Sys2Proof.Config
end

