-- ==== Sys2Proof/WellFormed.lean ====
section
/-! DEFINITION. When an instruction group is well formed (R176 to R183, R186, R191): the formats of the opcode map, the
hints each accepts, the reserved values of the operand fields, and the order in which a group is rejected (R184). -/

namespace Sys2Proof

/-- The operand formats of R176. -/
inductive Fmt where
  | v3 | v2 | vi | vk | p | u3 | ui | m | ma | b | n
  deriving DecidableEq, Repr

/-- The format of a primary opcode (R189); `none` for the values R190 leaves unassigned or claimable. -/
def Fmt.ofOpc (o : Nat) : Option Fmt :=
  if o ≤ 0x09 then some .v3 else
  if o ≤ 0x0A then some .v2 else
  if o ≤ 0x12 then some .v3 else
  if o ≤ 0x14 then some .v2 else
  if o ≤ 0x15 then some .p else
  if o ≤ 0x16 then some .v3 else
  if o ≤ 0x17 then some .v2 else
  if o ≤ 0x19 then some .vi else
  if o ≤ 0x1B then some .vk else
  if o ≤ 0x1F then none else
  if o ≤ 0x25 then some .v3 else
  if o ≤ 0x26 then some .p else
  if o ≤ 0x2B then some .v2 else
  if o ≤ 0x2F then some .v3 else
  if o ≤ 0x30 then some .v2 else
  if o ≤ 0x31 then some .v3 else
  if o ≤ 0x3F then none else
  if o ≤ 0x49 then some .v2 else
  if o ≤ 0x4F then none else
  if o ≤ 0x56 then some .u3 else
  if o ≤ 0x58 then some .ui else
  if o ≤ 0x5B then some .u3 else
  if o ≤ 0x5F then none else
  if o ≤ 0x62 then some .b else
  if o ≤ 0x63 then some .v2 else
  if o ≤ 0x64 then some .b else
  if o ≤ 0x66 then some .v2 else
  if o ≤ 0x6B then some .n else
  if o ≤ 0x6F then none else
  if o ≤ 0x75 then some .m else
  if o ≤ 0x7A then some .ma else
  if o ≤ 0x7D then some .n else
  if o ≤ 0x7F then some .m else
  if o ≤ 0x80 then some .u3 else
  if o ≤ 0x82 then some .m else
  if o ≤ 0x8F then none else
  if o ≤ 0x92 then some .u3 else
  if o ≤ 0x96 then some .n else
  if o ≤ 0x97 then some .u3 else
  if o ≤ 0x9A then some .n else
  if o ≤ 0x9D then some .u3 else
  if o ≤ 0x9F then none else
  if o ≤ 0xA0 then some .u3 else
  if o ≤ 0xA2 then some .n else
  if o ≤ 0xA5 then some .u3 else
  if o ≤ 0xA7 then none else
  if o ≤ 0xA8 then some .v3 else
  if o ≤ 0xA9 then some .m else
  if o ≤ 0xAD then some .v3 else
  if o ≤ 0xAF then some .v2 else
  if o ≤ 0xB0 then some .v3 else
  if o ≤ 0xB1 then some .v2 else
  if o ≤ 0xB7 then none else
  if o ≤ 0xBB then some .u3 else
  if o ≤ 0xBF then none else
  if o ≤ 0xC2 then some .n else
  if o ≤ 0xC4 then some .ui else
  if o ≤ 0xC5 then some .n else
  if o ≤ 0xC6 then some .u3 else
  none

/-- How many HINT.IMM words the immediate field of an opcode accepts (R178). -/
def immsAccepted (o : Nat) : Nat :=
  if o = 0x18 ∨ o = 0x19 then 1
  else if o = 0x1A ∨ o = 0x57 ∨ o = 0x58 ∨ o = 0xC3 ∨ o = 0xC4 then 2
  else 0

/-- What a group's HINT.SRC supplies besides its guard (R181): nothing, a third source the instruction requires. -/
inductive Third where
  | none | required
  deriving DecidableEq, Repr

/-- The instructions with a third source (R181, R206): `shflSrc` is the SRC bit of SHFL. -/
def Third.ofOpc (o : Nat) (shflSrc : Bool) : Third :=
  if o = 0x05 ∨ o = 0x11 ∨ o = 0x12 ∨ o = 0x16 ∨ o = 0x23 ∨ o = 0x2E ∨ o = 0x2F ∨ o = 0x77 then .required
  else if o = 0x40 ∧ shflSrc then .required
  else .none

/-- Whether the format accepts a HINT.SRC at all, a HINT.MOD, a HINT.REP (R181). -/
def Fmt.takesSrc (f : Fmt) : Bool := f ≠ .b
def Fmt.takesMod (f : Fmt) : Bool := f ≠ .b ∧ f ≠ .n
def Fmt.takesRep (f : Fmt) : Bool := f ≠ .b ∧ f ≠ .n

/-- The third source register of the group, and its LK bits (R179); 0 without HINT.SRC. -/
def Grp.cReg (g : Grp) : BitVec 6 := match g.src with | some h => h.c | none => 0
def Grp.lkc (g : Grp) : BitVec 2 := match g.src with | some h => h.lkc | none => 0
/-- EFMT of the packed instructions (R251); 0 without HINT.MOD. -/
def Grp.efmt (g : Grp) : BitVec 3 := match g.mod with | some h => h.cpol | none => 0

/-- The hints of the group are ones the opcode accepts (R181): otherwise trap 0x04, subcode 0x04. -/
def hintsAccepted (o : Nat) (shflSrc : Bool) (f : Fmt) (g : Grp) : Bool :=
  g.imms.length ≤ immsAccepted o
    && (g.src.isNone || f.takesSrc)
    && (g.mod.isNone || f.takesMod)
    && (g.rep.isNone || f.takesRep)
    && (Third.ofOpc o shflSrc ≠ .none || (g.cReg = 0 && g.lkc = 0))

/-- A required third source is absent (R181, R183 subcode 0x05). -/
def thirdMissing (o : Nat) (shflSrc : Bool) (g : Grp) : Bool :=
  Third.ofOpc o shflSrc = .required && g.src.isNone

/-- The fields of the hint words hold defined values (R179, R188). -/
def hintFieldsOk (f : Fmt) (g : Grp) : Bool :=
  (match g.src with | none => true | some h => h.ge || (h.gp = 0 && !h.gn))
    && (match g.mod with | none => true | some h => h.rnd.toNat ≤ 4 && h.cpol.toNat ≤ 4)
    && (match g.rep with
        | none => true
        | some h => h.cnt ≠ 0 && (f ≠ .m && f ≠ .ma || (h.sb = 0 && h.sc = 0)))

/-- The bits of an element of a floating-point format code of FCVT (R247). -/
def fcvtWidth (c : BitVec 3) : Nat :=
  match c.toNat with | 0 => 32 | 1 => 16 | 2 => 16 | 3 => 8 | 4 => 8 | 5 => 4 | _ => 8
/-- FCVT's FROM, TO and POS (R247). -/
def fcvtOk (pos into frm : BitVec 3) : Bool :=
  frm ≠ 7 && into ≠ 7 && frm ≠ into && (fcvtWidth frm = 32 || pos.toNat < 32 / fcvtWidth frm) && (fcvtWidth into = 32 || pos.toNat < 32 / fcvtWidth into)
/-- The unused fields of each VOTE mode (R207). -/
def voteOk (m : BitVec 2) (d a : BitVec 6) (lka : BitVec 2) (n : BitVec 1) (p : BitVec 3) : Bool :=
  match m.toNat with
  | 0 | 1 => d.toNat < 8 && a = 0 && lka = 0
  | 2 => d.toNat < 8 && n = 0 && p = 0
  | _ => a = 0 && lka = 0
/-- The M types a store takes (R258). -/
def storeTy (t : BitVec 3) : Bool := t ≠ 1 && t ≠ 3 && t ≠ 7
/-- NBAR's COUNT (R283). -/
def nbarOk (count : BitVec 10) (coreScope : BitVec 1) : Bool :=
  1 ≤ count.toNat && count.toNat ≤ (if coreScope = 1 then 16 else 32)
/-- LK bits of a source that is read (R186): 11 is reserved. -/
def lkOk (k : BitVec 2) : Bool := k ≠ 3
/-- LKb of an operand that may be uniform (R177): 00 when B = 1. -/
def lkbOk (k : BitVec 2) (bu : BitVec 1) : Bool := if bu = 1 then k = 0 else k ≠ 3

namespace Instr

/-- The primary opcode of an instruction with an encoding; `none` for an event. -/
def opcode : Instr → Option Nat
  | .iadd _ _ _ _ _ _ _ => some 0x00
  | .isub _ _ _ _ _ _ _ => some 0x01
  | .imul _ _ _ _ _ _ _ => some 0x02
  | .imulhiS _ _ _ _ _ _ _ => some 0x03
  | .imulhiU _ _ _ _ _ _ _ => some 0x04
  | .imad _ _ _ _ _ _ _ => some 0x05
  | .iminS _ _ _ _ _ _ _ => some 0x06
  | .iminU _ _ _ _ _ _ _ => some 0x07
  | .imaxS _ _ _ _ _ _ _ => some 0x08
  | .imaxU _ _ _ _ _ _ _ => some 0x09
  | .iabs _ _ _ _ => some 0x0A
  | .andV _ _ _ _ _ _ _ => some 0x0B
  | .orV _ _ _ _ _ _ _ => some 0x0C
  | .xorV _ _ _ _ _ _ _ => some 0x0D
  | .shl _ _ _ _ _ _ _ => some 0x0E
  | .shr _ _ _ _ _ _ _ => some 0x0F
  | .sar _ _ _ _ _ _ _ => some 0x10
  | .bfe _ _ _ _ _ _ _ => some 0x11
  | .bfi _ _ _ _ _ _ _ => some 0x12
  | .popc _ _ _ _ => some 0x13
  | .clz _ _ _ _ => some 0x14
  | .icmp _ _ _ _ _ _ _ _ => some 0x15
  | .sel _ _ _ _ _ _ _ => some 0x16
  | .mov _ _ _ _ => some 0x17
  | .movi _ _ _ => some 0x18
  | .iaddi _ _ _ _ _ => some 0x19
  | .andi _ _ _ _ _ => some 0x1A
  | .ori _ _ _ _ _ => some 0x1A
  | .xori _ _ _ _ _ => some 0x1A
  | .andni _ _ _ _ _ => some 0x1A
  | .shli _ _ _ _ _ => some 0x1B
  | .shri _ _ _ _ _ => some 0x1B
  | .sari _ _ _ _ _ => some 0x1B
  | .roti _ _ _ _ _ => some 0x1B
  | .fadd _ _ _ _ _ _ _ => some 0x20
  | .fsub _ _ _ _ _ _ _ => some 0x21
  | .fmul _ _ _ _ _ _ _ => some 0x22
  | .ffma _ _ _ _ _ _ _ => some 0x23
  | .fmin _ _ _ _ _ _ _ => some 0x24
  | .fmax _ _ _ _ _ _ _ => some 0x25
  | .fcmp _ _ _ _ _ _ _ _ => some 0x26
  | .fclass _ _ _ _ => some 0x27
  | .frnd _ _ _ _ => some 0x28
  | .f2i _ _ _ _ _ => some 0x29
  | .i2f _ _ _ _ _ => some 0x2A
  | .fcvt _ _ _ _ _ _ _ => some 0x2B
  | .hadd2 _ _ _ _ _ _ _ => some 0x2C
  | .hmul2 _ _ _ _ _ _ _ => some 0x2D
  | .hfma2 _ _ _ _ _ _ _ => some 0x2E
  | .dot4 _ _ _ _ _ _ _ => some 0x2F
  | .sfu _ _ _ _ _ => some 0x30
  | .fscale _ _ _ _ _ _ _ => some 0x31
  | .shfl _ _ _ _ _ _ _ => some 0x40
  | .vote _ _ _ _ _ _ _ => some 0x41
  | .matchV _ _ _ _ _ => some 0x42
  | .redux _ _ _ _ _ => some 0x43
  | .pscan _ _ _ _ _ _ => some 0x44
  | .part _ _ => some 0x45
  | .sget _ _ _ => some 0x46
  | .v2s _ _ _ _ _ _ _ _ => some 0x47
  | .s2v _ _ _ _ => some 0x48
  | .pmovAnd _ _ _ _ _ _ => some 0x49
  | .pmovOr _ _ _ _ _ _ => some 0x49
  | .pmovXor _ _ _ _ _ _ => some 0x49
  | .pmovP2v _ _ _ => some 0x49
  | .pmovV2p _ _ _ _ => some 0x49
  | .pmovP2s _ _ _ => some 0x49
  | .pmovS2p _ _ _ => some 0x49
  | .sadd _ _ _ _ => some 0x50
  | .ssub _ _ _ _ => some 0x51
  | .smul _ _ _ _ _ => some 0x52
  | .sand _ _ _ _ => some 0x53
  | .sor _ _ _ _ => some 0x53
  | .sxor _ _ _ _ => some 0x53
  | .sandn _ _ _ _ => some 0x53
  | .sshl _ _ _ _ => some 0x54
  | .sshr _ _ _ _ => some 0x54
  | .ssar _ _ _ _ => some 0x54
  | .srot _ _ _ _ => some 0x54
  | .scmp _ _ _ _ _ _ => some 0x55
  | .smov _ _ _ => some 0x56
  | .smovTlo _ _ _ => some 0x56
  | .smovThi _ _ _ => some 0x56
  | .smovSlo _ _ _ => some 0x56
  | .smovShi _ _ _ => some 0x56
  | .smovi _ _ _ => some 0x57
  | .saddi _ _ _ _ => some 0x58
  | .sbfe _ _ _ _ _ => some 0x59
  | .smin _ _ _ _ _ => some 0x5A
  | .smax _ _ _ _ _ => some 0x5A
  | .spopc _ _ _ => some 0x5B
  | .sclz _ _ _ => some 0x5B
  | .sctz _ _ _ => some 0x5B
  | .sbrev _ _ _ => some 0x5B
  | .bra _ _ _ _ => some 0x60
  | .brp _ _ _ _ => some 0x61
  | .brs _ _ _ _ => some 0x62
  | .jmpi _ _ _ => some 0x63
  | .call _ _ _ _ => some 0x64
  | .calli _ _ _ => some 0x65
  | .ret _ _ _ => some 0x66
  | .exitL _ => some 0x67
  | .yield _ => some 0x68
  | .nop _ => some 0x69
  | .mcall _ _ _ _ _ => some 0x6A
  | .mret _ => some 0x6B
  | .ld _ _ _ _ _ _ _ => some 0x70
  | .st _ _ _ _ _ _ => some 0x71
  | .ldl _ _ _ _ _ _ _ => some 0x72
  | .stl _ _ _ _ _ _ _ => some 0x73
  | .ldu _ _ _ _ _ _ => some 0x74
  | .stu _ _ _ _ _ => some 0x75
  | .atom _ _ _ _ _ _ => some 0x76
  | .cas _ _ _ _ _ _ => some 0x77
  | .red _ _ _ _ _ _ => some 0x78
  | .redHome _ _ _ _ _ _ => some 0x78
  | .atoml _ _ _ _ _ => some 0x79
  | .redl _ _ _ _ _ => some 0x7A
  | .fenceAcq _ => some 0x7B
  | .fenceRel _ => some 0x7B
  | .fenceSc _ => some 0x7B
  | .cfence _ => some 0x7C
  | .publish _ => some 0x7D
  | .prefetch _ _ _ _ => some 0x7E
  | .lock _ _ _ _ => some 0x7F
  | .unlock _ _ _ _ => some 0x7F
  | .stashMap _ _ _ _ => some 0x80
  | .stashUnmap _ _ => some 0x80
  | .ldp _ _ _ _ _ _ => some 0x81
  | .stp _ _ _ _ _ _ => some 0x82
  | .acopy _ _ _ _ => some 0x90
  | .axform _ _ _ _ => some 0x91
  | .agather _ _ _ _ => some 0x92
  | .bclose _ => some 0x93
  | .waitb _ _ => some 0x94
  | .hwaitFull _ _ => some 0x95
  | .hwaitFree _ _ => some 0x95
  | .hsetDrain _ _ => some 0x96
  | .hsetFree _ _ => some 0x96
  | .wptr _ _ _ => some 0x97
  | .bar _ => some 0x98
  | .cbar _ => some 0x99
  | .nbar _ _ _ _ => some 0x9A
  | .signal _ _ _ _ => some 0x9B
  | .softintQ _ _ _ => some 0x9C
  | .softintM _ _ => some 0x9C
  | .waits _ _ _ _ _ => some 0x9D
  | .mjob _ _ => some 0xA0
  | .mwait _ _ => some 0xA1
  | .mwaitAll _ => some 0xA1
  | .mzero _ _ => some 0xA2
  | .mldaTile _ _ _ => some 0xA3
  | .mldaGlobal _ _ _ _ => some 0xA3
  | .mstaTile _ _ _ _ _ => some 0xA4
  | .mstaGlobal _ _ _ _ _ _ => some 0xA4
  | .mstreamSub _ _ => some 0xA5
  | .mstreamUnsub _ _ => some 0xA5
  | .visemit _ _ _ _ _ => some 0xA8
  | .ldcl _ _ _ _ _ _ => some 0xA9
  | .tex _ _ _ _ _ => some 0xAA
  | .texfb _ _ _ _ _ => some 0xAB
  | .rtrace _ _ _ _ _ => some 0xAC
  | .rquery _ _ _ _ _ => some 0xAD
  | .rtcont _ _ _ => some 0xAE
  | .hsort _ _ _ _ => some 0xAF
  | .rpix _ _ _ _ _ _ _ => some 0xB0
  | .visrd _ _ _ => some 0xB1
  | .visrdPix _ _ _ _ _ => some 0xB1
  | .cpost _ _ _ => some 0xB8
  | .cred _ _ _ => some 0xB9
  | .cwait _ _ _ _ => some 0xBA
  | .cjoin _ _ _ => some 0xBB
  | .cjoinLeave _ _ => some 0xBB
  | .trapI _ _ => some 0xC0
  | .rti _ => some 0xC1
  | .bkpt _ _ => some 0xC2
  | .sysrd _ _ _ => some 0xC3
  | .syswr _ _ _ => some 0xC4
  | .tmask _ _ => some 0xC5
  | .tlbinvPage _ _ _ => some 0xC6
  | .tlbinvRange _ _ _ _ => some 0xC6
  | .tlbinvSpace _ _ _ => some 0xC6
  | .lichenEmulation _ _ _ _ => none
  | .resultReturn _ _ => none
  | .homeRequest _ => none
  | .performedAtHome _ => none
  | .stashRecall _ _ _ _ => none
  | .updateLineRecall _ _ => none
  | .holderInvalidation _ _ => none
  | .taggedWriteReturned _ _ => none
  | .promotionRetire _ _ => none
  | .promotionQuery _ _ _ => none
  | .promotionAnswer _ _ _ _ => none
  | .l1LeaseExpiry _ _ => none
  | .migrationStart _ _ => none
  | .migrationSwitch _ => none
  | .migrationReturnStart _ => none
  | .migrationReturnComplete _ => none
  | .ownershipPoint _ _ => none
  | .shootdownCoreComplete _ => none
  | .copyAccepted _ _ => none
  | .copyDeliver _ _ => none
  | .activeSetEntry _ _ => none
  | .activeBound _ _ => none
  | .warpExit _ _ => none
  | .blockKill _ _ => none
  | .qtail _ _ => none
  | .qwake _ => none
  | .preempt _ => none
  | .resume _ => none
  | .kill _ => none
  | .clear _ => none
  | .passopen _ _ => none
  | .registerWrite _ _ => none
  | .launchStart _ => none
  | .waitItemPoll _ => none
  | .waitsPoll _ _ => none
  | .placementPass => none
  | .launchComplete _ => none
  | .jobStep _ _ => none
  | .streamBlockFetch _ _ => none
  | .rayTraversalStep _ _ _ => none
  | .faultRespPoll _ _ => none
  | .trapQueuePoll _ => none
  | .endOfDrawToken _ _ => none
  | .tokenArrival _ _ _ => none
  | .frondPacketArrival _ _ => none
  | .flushAreaMove => none
  | .tileLaunch _ _ _ => none
  | .passComplete _ => none
  | .joinRequest _ _ _ _ => none
  | .joinReply _ _ => none
  | .openFlit _ _ _ => none
  | .frameClose _ => none
  | .collectivePacket _ => none
  | .closeFlit _ _ => none
  | .frameComplete _ _ _ => none
  | .lateNotice _ _ => none
  | .settledBlockDown _ _ _ _ => none
  | .verticalBlank _ => none
  | .rdmaRead _ _ _ _ => none
  | .rdmaWrite _ _ _ _ => none
  | .rdmaFetchAdd _ _ _ _ => none
  | .rdmaCmpSwap _ _ _ _ _ => none
  | .fabricLeaseRenewal _ => none
  | .fabricLeaseExpiry => none
  | .fanoutTimeout _ _ => none
  | .reroute _ _ => none
  | .nodeDeclaredFailed _ => none
  | .failureNotice => none
  | .dieLinkFailure _ => none
  | .patchActivation => none
  | .relocation _ _ _ => none
  | .coreDump _ => none
  | .reset => none
  | .recoveryRetry => none
  | .recoveryReadComplete _ => none
  | .keyload _ => none
  | .keyunload _ => none
  | .patch _ => none
  | .withdraw => none
  | .attest _ _ => none
  | .scanout _ _ => none
  | .dumpwin _ => none
  | .stateread _ _ _ => none
  | .softError _ => none
  | .droop _ => none
  | .thermalStepDown _ => none
  | .overtempStop => none
  | .tempoBoundary _ => none
  | .illegalInstruction _ _ => none
  | .instructionFetchFault _ _ => none
  | .invalidationAcknowledgement _ _ _ => none
  | .rookPortLinkFailure _ => none
  | .thermalRecovery _ => none
  | .droopRecovery _ => none

/-- The group of an instruction with an encoding (an event has none, and answers the empty group). -/
def grp : Instr → Grp
  | .iadd gr _ _ _ _ _ _ => gr
  | .isub gr _ _ _ _ _ _ => gr
  | .imul gr _ _ _ _ _ _ => gr
  | .imulhiS gr _ _ _ _ _ _ => gr
  | .imulhiU gr _ _ _ _ _ _ => gr
  | .imad gr _ _ _ _ _ _ => gr
  | .iminS gr _ _ _ _ _ _ => gr
  | .iminU gr _ _ _ _ _ _ => gr
  | .imaxS gr _ _ _ _ _ _ => gr
  | .imaxU gr _ _ _ _ _ _ => gr
  | .iabs gr _ _ _ => gr
  | .andV gr _ _ _ _ _ _ => gr
  | .orV gr _ _ _ _ _ _ => gr
  | .xorV gr _ _ _ _ _ _ => gr
  | .shl gr _ _ _ _ _ _ => gr
  | .shr gr _ _ _ _ _ _ => gr
  | .sar gr _ _ _ _ _ _ => gr
  | .bfe gr _ _ _ _ _ _ => gr
  | .bfi gr _ _ _ _ _ _ => gr
  | .popc gr _ _ _ => gr
  | .clz gr _ _ _ => gr
  | .icmp gr _ _ _ _ _ _ _ => gr
  | .sel gr _ _ _ _ _ _ => gr
  | .mov gr _ _ _ => gr
  | .movi gr _ _ => gr
  | .iaddi gr _ _ _ _ => gr
  | .andi gr _ _ _ _ => gr
  | .ori gr _ _ _ _ => gr
  | .xori gr _ _ _ _ => gr
  | .andni gr _ _ _ _ => gr
  | .shli gr _ _ _ _ => gr
  | .shri gr _ _ _ _ => gr
  | .sari gr _ _ _ _ => gr
  | .roti gr _ _ _ _ => gr
  | .fadd gr _ _ _ _ _ _ => gr
  | .fsub gr _ _ _ _ _ _ => gr
  | .fmul gr _ _ _ _ _ _ => gr
  | .ffma gr _ _ _ _ _ _ => gr
  | .fmin gr _ _ _ _ _ _ => gr
  | .fmax gr _ _ _ _ _ _ => gr
  | .fcmp gr _ _ _ _ _ _ _ => gr
  | .fclass gr _ _ _ => gr
  | .frnd gr _ _ _ => gr
  | .f2i gr _ _ _ _ => gr
  | .i2f gr _ _ _ _ => gr
  | .fcvt gr _ _ _ _ _ _ => gr
  | .hadd2 gr _ _ _ _ _ _ => gr
  | .hmul2 gr _ _ _ _ _ _ => gr
  | .hfma2 gr _ _ _ _ _ _ => gr
  | .dot4 gr _ _ _ _ _ _ => gr
  | .sfu gr _ _ _ _ => gr
  | .fscale gr _ _ _ _ _ _ => gr
  | .shfl gr _ _ _ _ _ _ => gr
  | .vote gr _ _ _ _ _ _ => gr
  | .matchV gr _ _ _ _ => gr
  | .redux gr _ _ _ _ => gr
  | .pscan gr _ _ _ _ _ => gr
  | .part gr _ => gr
  | .sget gr _ _ => gr
  | .v2s gr _ _ _ _ _ _ _ => gr
  | .s2v gr _ _ _ => gr
  | .pmovAnd gr _ _ _ _ _ => gr
  | .pmovOr gr _ _ _ _ _ => gr
  | .pmovXor gr _ _ _ _ _ => gr
  | .pmovP2v gr _ _ => gr
  | .pmovV2p gr _ _ _ => gr
  | .pmovP2s gr _ _ => gr
  | .pmovS2p gr _ _ => gr
  | .sadd gr _ _ _ => gr
  | .ssub gr _ _ _ => gr
  | .smul gr _ _ _ _ => gr
  | .sand gr _ _ _ => gr
  | .sor gr _ _ _ => gr
  | .sxor gr _ _ _ => gr
  | .sandn gr _ _ _ => gr
  | .sshl gr _ _ _ => gr
  | .sshr gr _ _ _ => gr
  | .ssar gr _ _ _ => gr
  | .srot gr _ _ _ => gr
  | .scmp gr _ _ _ _ _ => gr
  | .smov gr _ _ => gr
  | .smovTlo gr _ _ => gr
  | .smovThi gr _ _ => gr
  | .smovSlo gr _ _ => gr
  | .smovShi gr _ _ => gr
  | .smovi gr _ _ => gr
  | .saddi gr _ _ _ => gr
  | .sbfe gr _ _ _ _ => gr
  | .smin gr _ _ _ _ => gr
  | .smax gr _ _ _ _ => gr
  | .spopc gr _ _ => gr
  | .sclz gr _ _ => gr
  | .sctz gr _ _ => gr
  | .sbrev gr _ _ => gr
  | .bra gr _ _ _ => gr
  | .brp gr _ _ _ => gr
  | .brs gr _ _ _ => gr
  | .jmpi gr _ _ => gr
  | .call gr _ _ _ => gr
  | .calli gr _ _ => gr
  | .ret gr _ _ => gr
  | .exitL gr => gr
  | .yield gr => gr
  | .nop gr => gr
  | .mcall gr _ _ _ _ => gr
  | .mret gr => gr
  | .ld gr _ _ _ _ _ _ => gr
  | .st gr _ _ _ _ _ => gr
  | .ldl gr _ _ _ _ _ _ => gr
  | .stl gr _ _ _ _ _ _ => gr
  | .ldu gr _ _ _ _ _ => gr
  | .stu gr _ _ _ _ => gr
  | .atom gr _ _ _ _ _ => gr
  | .cas gr _ _ _ _ _ => gr
  | .red gr _ _ _ _ _ => gr
  | .redHome gr _ _ _ _ _ => gr
  | .atoml gr _ _ _ _ => gr
  | .redl gr _ _ _ _ => gr
  | .fenceAcq gr => gr
  | .fenceRel gr => gr
  | .fenceSc gr => gr
  | .cfence gr => gr
  | .publish gr => gr
  | .prefetch gr _ _ _ => gr
  | .lock gr _ _ _ => gr
  | .unlock gr _ _ _ => gr
  | .stashMap gr _ _ _ => gr
  | .stashUnmap gr _ => gr
  | .ldp gr _ _ _ _ _ => gr
  | .stp gr _ _ _ _ _ => gr
  | .acopy gr _ _ _ => gr
  | .axform gr _ _ _ => gr
  | .agather gr _ _ _ => gr
  | .bclose gr => gr
  | .waitb gr _ => gr
  | .hwaitFull gr _ => gr
  | .hwaitFree gr _ => gr
  | .hsetDrain gr _ => gr
  | .hsetFree gr _ => gr
  | .wptr gr _ _ => gr
  | .bar gr => gr
  | .cbar gr => gr
  | .nbar gr _ _ _ => gr
  | .signal gr _ _ _ => gr
  | .softintQ gr _ _ => gr
  | .softintM gr _ => gr
  | .waits gr _ _ _ _ => gr
  | .mjob gr _ => gr
  | .mwait gr _ => gr
  | .mwaitAll gr => gr
  | .mzero gr _ => gr
  | .mldaTile gr _ _ => gr
  | .mldaGlobal gr _ _ _ => gr
  | .mstaTile gr _ _ _ _ => gr
  | .mstaGlobal gr _ _ _ _ _ => gr
  | .mstreamSub gr _ => gr
  | .mstreamUnsub gr _ => gr
  | .visemit gr _ _ _ _ => gr
  | .ldcl gr _ _ _ _ _ => gr
  | .tex gr _ _ _ _ => gr
  | .texfb gr _ _ _ _ => gr
  | .rtrace gr _ _ _ _ => gr
  | .rquery gr _ _ _ _ => gr
  | .rtcont gr _ _ => gr
  | .hsort gr _ _ _ => gr
  | .rpix gr _ _ _ _ _ _ => gr
  | .visrd gr _ _ => gr
  | .visrdPix gr _ _ _ _ => gr
  | .cpost gr _ _ => gr
  | .cred gr _ _ => gr
  | .cwait gr _ _ _ => gr
  | .cjoin gr _ _ => gr
  | .cjoinLeave gr _ => gr
  | .trapI gr _ => gr
  | .rti gr => gr
  | .bkpt gr _ => gr
  | .sysrd gr _ _ => gr
  | .syswr gr _ _ => gr
  | .tmask gr _ => gr
  | .tlbinvPage gr _ _ => gr
  | .tlbinvRange gr _ _ _ => gr
  | .tlbinvSpace gr _ _ => gr
  | .lichenEmulation _ _ _ _ => {}
  | .resultReturn _ _ => {}
  | .homeRequest _ => {}
  | .performedAtHome _ => {}
  | .stashRecall _ _ _ _ => {}
  | .updateLineRecall _ _ => {}
  | .holderInvalidation _ _ => {}
  | .taggedWriteReturned _ _ => {}
  | .promotionRetire _ _ => {}
  | .promotionQuery _ _ _ => {}
  | .promotionAnswer _ _ _ _ => {}
  | .l1LeaseExpiry _ _ => {}
  | .migrationStart _ _ => {}
  | .migrationSwitch _ => {}
  | .migrationReturnStart _ => {}
  | .migrationReturnComplete _ => {}
  | .ownershipPoint _ _ => {}
  | .shootdownCoreComplete _ => {}
  | .copyAccepted _ _ => {}
  | .copyDeliver _ _ => {}
  | .activeSetEntry _ _ => {}
  | .activeBound _ _ => {}
  | .warpExit _ _ => {}
  | .blockKill _ _ => {}
  | .qtail _ _ => {}
  | .qwake _ => {}
  | .preempt _ => {}
  | .resume _ => {}
  | .kill _ => {}
  | .clear _ => {}
  | .passopen _ _ => {}
  | .registerWrite _ _ => {}
  | .launchStart _ => {}
  | .waitItemPoll _ => {}
  | .waitsPoll _ _ => {}
  | .placementPass => {}
  | .launchComplete _ => {}
  | .jobStep _ _ => {}
  | .streamBlockFetch _ _ => {}
  | .rayTraversalStep _ _ _ => {}
  | .faultRespPoll _ _ => {}
  | .trapQueuePoll _ => {}
  | .endOfDrawToken _ _ => {}
  | .tokenArrival _ _ _ => {}
  | .frondPacketArrival _ _ => {}
  | .flushAreaMove => {}
  | .tileLaunch _ _ _ => {}
  | .passComplete _ => {}
  | .joinRequest _ _ _ _ => {}
  | .joinReply _ _ => {}
  | .openFlit _ _ _ => {}
  | .frameClose _ => {}
  | .collectivePacket _ => {}
  | .closeFlit _ _ => {}
  | .frameComplete _ _ _ => {}
  | .lateNotice _ _ => {}
  | .settledBlockDown _ _ _ _ => {}
  | .verticalBlank _ => {}
  | .rdmaRead _ _ _ _ => {}
  | .rdmaWrite _ _ _ _ => {}
  | .rdmaFetchAdd _ _ _ _ => {}
  | .rdmaCmpSwap _ _ _ _ _ => {}
  | .fabricLeaseRenewal _ => {}
  | .fabricLeaseExpiry => {}
  | .fanoutTimeout _ _ => {}
  | .reroute _ _ => {}
  | .nodeDeclaredFailed _ => {}
  | .failureNotice => {}
  | .dieLinkFailure _ => {}
  | .patchActivation => {}
  | .relocation _ _ _ => {}
  | .coreDump _ => {}
  | .reset => {}
  | .recoveryRetry => {}
  | .recoveryReadComplete _ => {}
  | .keyload _ => {}
  | .keyunload _ => {}
  | .patch _ => {}
  | .withdraw => {}
  | .attest _ _ => {}
  | .scanout _ _ => {}
  | .dumpwin _ => {}
  | .stateread _ _ _ => {}
  | .softError _ => {}
  | .droop _ => {}
  | .thermalStepDown _ => {}
  | .overtempStop => {}
  | .tempoBoundary _ => {}
  | .illegalInstruction _ _ => {}
  | .instructionFetchFault _ _ => {}
  | .invalidationAcknowledgement _ _ _ => {}
  | .rookPortLinkFailure _ => {}
  | .thermalRecovery _ => {}
  | .droopRecovery _ => {}

/-- The SRC bit of SHFL (R206), which decides whether it has a third source; false elsewhere. -/
def shflSrc : Instr → Bool
  | .shfl _ _ _ _ _ r _ => r = 1
  | _ => false

/-- The reserved values of the base word's fields (R177): true when every field holds an assigned value. An EFMT of 5 to 7 is a reserved
value of the hint word (R179, R251). -/
def fieldsOk : Instr → Bool
  | .iadd _ _ _ _ _ _ _ => true
  | .isub _ _ _ _ _ _ _ => true
  | .imul _ _ _ _ _ _ _ => true
  | .imulhiS _ _ _ _ _ _ _ => true
  | .imulhiU _ _ _ _ _ _ _ => true
  | .imad _ _ _ _ _ _ _ => true
  | .iminS _ _ _ _ _ _ _ => true
  | .iminU _ _ _ _ _ _ _ => true
  | .imaxS _ _ _ _ _ _ _ => true
  | .imaxU _ _ _ _ _ _ _ => true
  | .iabs _ _ _ _ => true
  | .andV _ _ _ _ _ _ _ => true
  | .orV _ _ _ _ _ _ _ => true
  | .xorV _ _ _ _ _ _ _ => true
  | .shl _ _ _ _ _ _ _ => true
  | .shr _ _ _ _ _ _ _ => true
  | .sar _ _ _ _ _ _ _ => true
  | .bfe _ _ _ _ _ _ _ => true
  | .bfi _ _ _ _ _ _ _ => true
  | .popc _ _ _ _ => true
  | .clz _ _ _ _ => true
  | .icmp _ _ _ _ _ _ _ _ => true
  | .sel gr _ _ _ _ _ _ => decide (gr.cReg.toNat < 8 ∧ gr.lkc = 0)
  | .mov _ _ _ _ => true
  | .movi _ _ _ => true
  | .iaddi _ _ _ _ _ => true
  | .andi _ _ _ _ _ => true
  | .ori _ _ _ _ _ => true
  | .xori _ _ _ _ _ => true
  | .andni _ _ _ _ _ => true
  | .shli _ _ _ _ _ => true
  | .shri _ _ _ _ _ => true
  | .sari _ _ _ _ _ => true
  | .roti _ _ _ _ _ => true
  | .fadd _ _ _ _ _ _ _ => true
  | .fsub _ _ _ _ _ _ _ => true
  | .fmul _ _ _ _ _ _ _ => true
  | .ffma _ _ _ _ _ _ _ => true
  | .fmin _ _ _ _ _ _ _ => true
  | .fmax _ _ _ _ _ _ _ => true
  | .fcmp _ _ _ _ _ _ _ _ => true
  | .fclass _ _ _ _ => true
  | .frnd _ _ _ _ => true
  | .f2i _ _ _ _ _ => true
  | .i2f _ _ _ _ _ => true
  | .fcvt _ _ _ _ r t q => decide (fcvtOk q t r)
  | .hadd2 gr _ _ _ _ _ _ => decide (gr.efmt ≤ 1) || decide (5 ≤ gr.efmt)
  | .hmul2 gr _ _ _ _ _ _ => decide (gr.efmt ≤ 1) || decide (5 ≤ gr.efmt)
  | .hfma2 gr _ _ _ _ _ _ => decide (gr.efmt ≤ 1) || decide (5 ≤ gr.efmt)
  | .dot4 _ _ _ _ _ _ _ => true
  | .sfu _ _ _ _ _ => true
  | .fscale _ _ _ _ _ _ _ => true
  | .shfl _ _ _ _ _ r i => decide (r = 0 ∨ i = 0)
  | .vote _ d a lka m n p => decide (voteOk m d a lka n p)
  | .matchV _ _ _ _ m => decide (m ≠ 3)
  | .redux _ _ _ _ _ => true
  | .pscan _ _ _ _ _ _ => true
  | .part _ w => decide (1 ≤ w.toNat ∧ w.toNat ≤ 5)
  | .sget _ _ e => decide (e.toNat ≤ 0x10)
  | .v2s _ _ _ _ sx pair first lane => decide ((first = 0 ∨ lane = 0) ∧ (pair = 0 ∨ sx = 0))
  | .s2v _ _ _ _ => true
  | .pmovAnd _ _ _ _ _ _ => true
  | .pmovOr _ _ _ _ _ _ => true
  | .pmovXor _ _ _ _ _ _ => true
  | .pmovP2v _ _ _ => true
  | .pmovV2p _ _ _ _ => true
  | .pmovP2s _ _ _ => true
  | .pmovS2p _ _ _ => true
  | .sadd _ _ _ _ => true
  | .ssub _ _ _ _ => true
  | .smul _ _ _ _ f => decide (f ≠ 3)
  | .sand _ _ _ _ => true
  | .sor _ _ _ _ => true
  | .sxor _ _ _ _ => true
  | .sandn _ _ _ _ => true
  | .sshl _ _ _ _ => true
  | .sshr _ _ _ _ => true
  | .ssar _ _ _ _ => true
  | .srot _ _ _ _ => true
  | .scmp _ _ _ _ _ _ => true
  | .smov _ _ _ => true
  | .smovTlo _ _ _ => true
  | .smovThi _ _ _ => true
  | .smovSlo _ _ _ => true
  | .smovShi _ _ _ => true
  | .smovi _ _ _ => true
  | .saddi _ _ _ _ => true
  | .sbfe _ _ _ _ _ => true
  | .smin _ _ _ _ _ => true
  | .smax _ _ _ _ _ => true
  | .spopc _ _ _ => true
  | .sclz _ _ _ => true
  | .sctz _ _ _ => true
  | .sbrev _ _ _ => true
  | .bra _ _ _ _ => true
  | .brp _ _ _ _ => true
  | .brs _ _ _ _ => true
  | .jmpi _ _ _ => true
  | .call _ _ _ _ => true
  | .calli _ _ _ => true
  | .ret _ _ _ => true
  | .exitL _ => true
  | .yield _ => true
  | .nop _ => true
  | .mcall _ _ _ _ _ => true
  | .mret _ => true
  | .ld _ _ _ _ t _ _ => decide (t ≠ 7)
  | .st _ _ _ _ t _ => decide (storeTy t)
  | .ldl _ _ _ _ t _ _ => decide (t ≠ 7)
  | .stl _ _ _ _ t _ _ => decide (storeTy t)
  | .ldu _ _ _ t _ _ => decide (t ≠ 7)
  | .stu _ _ _ t _ => decide (storeTy t)
  | .atom _ _ _ _ c _ => decide (c ≠ 15)
  | .cas _ _ _ _ _ _ => true
  | .red _ _ _ _ _ _ => true
  | .redHome _ _ _ _ _ _ => true
  | .atoml _ _ _ _ c => decide (c ≠ 15)
  | .redl _ _ _ _ _ => true
  | .fenceAcq _ => true
  | .fenceRel _ => true
  | .fenceSc _ => true
  | .cfence _ => true
  | .publish _ => true
  | .prefetch _ _ _ _ => true
  | .lock _ _ _ _ => true
  | .unlock _ _ _ _ => true
  | .stashMap _ _ _ _ => true
  | .stashUnmap _ _ => true
  | .ldp _ _ _ i t x => decide (t ≠ 7 ∧ (x = 1 ∨ i = 0))
  | .stp _ _ _ i t x => decide (storeTy t ∧ (x = 1 ∨ i = 0))
  | .acopy _ _ _ _ => true
  | .axform _ _ _ _ => true
  | .agather _ _ _ _ => true
  | .bclose _ => true
  | .waitb _ _ => true
  | .hwaitFull _ _ => true
  | .hwaitFree _ _ => true
  | .hsetDrain _ _ => true
  | .hsetFree _ _ => true
  | .wptr _ _ _ => true
  | .bar _ => true
  | .cbar _ => true
  | .nbar _ count coreScope _ => decide (nbarOk count coreScope)
  | .signal _ _ _ o => decide (o ≠ 3)
  | .softintQ _ _ _ => true
  | .softintM _ _ => true
  | .waits _ _ _ _ _ => true
  | .mjob _ _ => true
  | .mwait _ _ => true
  | .mwaitAll _ => true
  | .mzero _ _ => true
  | .mldaTile _ _ _ => true
  | .mldaGlobal _ _ _ c => decide (c ≠ 3)
  | .mstaTile _ _ _ b n => decide (n = 0 ∨ b = 0)
  | .mstaGlobal _ _ _ b n c => decide (c.toNat ≤ 7 ∧ (n = 0 ∨ b = 0))
  | .mstreamSub _ _ => true
  | .mstreamUnsub _ _ => true
  | .visemit _ _ _ _ _ => true
  | .ldcl _ _ _ _ t _ => decide (t = 4 ∨ t = 5 ∨ t = 6)
  | .tex _ _ _ _ _ => true
  | .texfb _ _ _ _ _ => true
  | .rtrace _ _ _ _ _ => true
  | .rquery _ _ _ _ _ => true
  | .rtcont _ _ _ => true
  | .hsort _ _ _ _ => true
  | .rpix _ op _ _ _ _ _ => decide (op.toNat ≤ 4)
  | .visrd _ _ _ => true
  | .visrdPix _ _ _ _ _ => true
  | .cpost _ _ _ => true
  | .cred _ _ _ => true
  | .cwait _ _ _ _ => true
  | .cjoin _ _ _ => true
  | .cjoinLeave _ _ => true
  | .trapI _ _ => true
  | .rti _ => true
  | .bkpt _ _ => true
  | .sysrd _ _ _ => true
  | .syswr _ _ _ => true
  | .tmask _ _ => true
  | .tlbinvPage _ _ _ => true
  | .tlbinvRange _ _ _ _ => true
  | .tlbinvSpace _ _ _ => true
  | .lichenEmulation _ _ _ _ => true
  | .resultReturn _ _ => true
  | .homeRequest _ => true
  | .performedAtHome _ => true
  | .stashRecall _ _ _ _ => true
  | .updateLineRecall _ _ => true
  | .holderInvalidation _ _ => true
  | .taggedWriteReturned _ _ => true
  | .promotionRetire _ _ => true
  | .promotionQuery _ _ _ => true
  | .promotionAnswer _ _ _ _ => true
  | .l1LeaseExpiry _ _ => true
  | .migrationStart _ _ => true
  | .migrationSwitch _ => true
  | .migrationReturnStart _ => true
  | .migrationReturnComplete _ => true
  | .ownershipPoint _ _ => true
  | .shootdownCoreComplete _ => true
  | .copyAccepted _ _ => true
  | .copyDeliver _ _ => true
  | .activeSetEntry _ _ => true
  | .activeBound _ _ => true
  | .warpExit _ _ => true
  | .blockKill _ _ => true
  | .qtail _ _ => true
  | .qwake _ => true
  | .preempt _ => true
  | .resume _ => true
  | .kill _ => true
  | .clear _ => true
  | .passopen _ _ => true
  | .registerWrite _ _ => true
  | .launchStart _ => true
  | .waitItemPoll _ => true
  | .waitsPoll _ _ => true
  | .placementPass => true
  | .launchComplete _ => true
  | .jobStep _ _ => true
  | .streamBlockFetch _ _ => true
  | .rayTraversalStep _ _ _ => true
  | .faultRespPoll _ _ => true
  | .trapQueuePoll _ => true
  | .endOfDrawToken _ _ => true
  | .tokenArrival _ _ _ => true
  | .frondPacketArrival _ _ => true
  | .flushAreaMove => true
  | .tileLaunch _ _ _ => true
  | .passComplete _ => true
  | .joinRequest _ _ _ _ => true
  | .joinReply _ _ => true
  | .openFlit _ _ _ => true
  | .frameClose _ => true
  | .collectivePacket _ => true
  | .closeFlit _ _ => true
  | .frameComplete _ _ _ => true
  | .lateNotice _ _ => true
  | .settledBlockDown _ _ _ _ => true
  | .verticalBlank _ => true
  | .rdmaRead _ _ _ _ => true
  | .rdmaWrite _ _ _ _ => true
  | .rdmaFetchAdd _ _ _ _ => true
  | .rdmaCmpSwap _ _ _ _ _ => true
  | .fabricLeaseRenewal _ => true
  | .fabricLeaseExpiry => true
  | .fanoutTimeout _ _ => true
  | .reroute _ _ => true
  | .nodeDeclaredFailed _ => true
  | .failureNotice => true
  | .dieLinkFailure _ => true
  | .patchActivation => true
  | .relocation _ _ _ => true
  | .coreDump _ => true
  | .reset => true
  | .recoveryRetry => true
  | .recoveryReadComplete _ => true
  | .keyload _ => true
  | .keyunload _ => true
  | .patch _ => true
  | .withdraw => true
  | .attest _ _ => true
  | .scanout _ _ => true
  | .dumpwin _ => true
  | .stateread _ _ _ => true
  | .softError _ => true
  | .droop _ => true
  | .thermalStepDown _ => true
  | .overtempStop => true
  | .tempoBoundary _ => true
  | .illegalInstruction _ _ => true
  | .instructionFetchFault _ _ => true
  | .invalidationAcknowledgement _ _ _ => true
  | .rookPortLinkFailure _ => true
  | .thermalRecovery _ => true
  | .droopRecovery _ => true

/-- The LK bits of the sources the base word reads (R177, R186). -/
def lksOk : Instr → Bool
  | .iadd _ _ _ lka _ lkb bu => lkOk lka && lkbOk lkb bu
  | .isub _ _ _ lka _ lkb bu => lkOk lka && lkbOk lkb bu
  | .imul _ _ _ lka _ lkb bu => lkOk lka && lkbOk lkb bu
  | .imulhiS _ _ _ lka _ lkb bu => lkOk lka && lkbOk lkb bu
  | .imulhiU _ _ _ lka _ lkb bu => lkOk lka && lkbOk lkb bu
  | .imad gr _ _ lka _ lkb bu => lkOk lka && lkbOk lkb bu && lkOk gr.lkc
  | .iminS _ _ _ lka _ lkb bu => lkOk lka && lkbOk lkb bu
  | .iminU _ _ _ lka _ lkb bu => lkOk lka && lkbOk lkb bu
  | .imaxS _ _ _ lka _ lkb bu => lkOk lka && lkbOk lkb bu
  | .imaxU _ _ _ lka _ lkb bu => lkOk lka && lkbOk lkb bu
  | .iabs _ _ _ lka => lkOk lka
  | .andV _ _ _ lka _ lkb bu => lkOk lka && lkbOk lkb bu
  | .orV _ _ _ lka _ lkb bu => lkOk lka && lkbOk lkb bu
  | .xorV _ _ _ lka _ lkb bu => lkOk lka && lkbOk lkb bu
  | .shl _ _ _ lka _ lkb bu => lkOk lka && lkbOk lkb bu
  | .shr _ _ _ lka _ lkb bu => lkOk lka && lkbOk lkb bu
  | .sar _ _ _ lka _ lkb bu => lkOk lka && lkbOk lkb bu
  | .bfe gr _ _ lka _ lkb bu => lkOk lka && lkbOk lkb bu && lkOk gr.lkc
  | .bfi gr _ _ lka _ lkb bu => lkOk lka && lkbOk lkb bu && lkOk gr.lkc
  | .popc _ _ _ lka => lkOk lka
  | .clz _ _ _ lka => lkOk lka
  | .icmp _ _ _ _ lka _ lkb bu => lkOk lka && lkbOk lkb bu
  | .sel _ _ _ lka _ lkb bu => lkOk lka && lkbOk lkb bu
  | .mov _ _ _ lka => lkOk lka
  | .movi _ _ _ => true
  | .iaddi _ _ _ lka _ => lkOk lka
  | .andi _ _ _ lka _ => lkOk lka
  | .ori _ _ _ lka _ => lkOk lka
  | .xori _ _ _ lka _ => lkOk lka
  | .andni _ _ _ lka _ => lkOk lka
  | .shli _ _ _ lka _ => lkOk lka
  | .shri _ _ _ lka _ => lkOk lka
  | .sari _ _ _ lka _ => lkOk lka
  | .roti _ _ _ lka _ => lkOk lka
  | .fadd _ _ _ lka _ lkb bu => lkOk lka && lkbOk lkb bu
  | .fsub _ _ _ lka _ lkb bu => lkOk lka && lkbOk lkb bu
  | .fmul _ _ _ lka _ lkb bu => lkOk lka && lkbOk lkb bu
  | .ffma gr _ _ lka _ lkb bu => lkOk lka && lkbOk lkb bu && lkOk gr.lkc
  | .fmin _ _ _ lka _ lkb bu => lkOk lka && lkbOk lkb bu
  | .fmax _ _ _ lka _ lkb bu => lkOk lka && lkbOk lkb bu
  | .fcmp _ _ _ _ lka _ lkb bu => lkOk lka && lkbOk lkb bu
  | .fclass _ _ _ lka => lkOk lka
  | .frnd _ _ _ lka => lkOk lka
  | .f2i _ _ _ lka _ => lkOk lka
  | .i2f _ _ _ lka _ => lkOk lka
  | .fcvt _ _ _ lka _ _ _ => lkOk lka
  | .hadd2 _ _ _ lka _ lkb bu => lkOk lka && lkbOk lkb bu
  | .hmul2 _ _ _ lka _ lkb bu => lkOk lka && lkbOk lkb bu
  | .hfma2 gr _ _ lka _ lkb bu => lkOk lka && lkbOk lkb bu && lkOk gr.lkc
  | .dot4 gr _ _ lka _ lkb bu => lkOk lka && lkbOk lkb bu && lkOk gr.lkc
  | .sfu _ _ _ lka _ => lkOk lka
  | .fscale _ _ _ lka _ lkb bu => lkOk lka && lkbOk lkb bu
  | .shfl gr _ _ lka _ _ _ => lkOk lka && lkOk gr.lkc
  | .vote _ _ _ lka _ _ _ => lkOk lka
  | .matchV _ _ _ lka _ => lkOk lka
  | .redux _ _ _ lka _ => lkOk lka
  | .pscan _ _ _ lka _ _ => lkOk lka
  | .part _ _ => true
  | .sget _ _ _ => true
  | .v2s _ _ _ lka _ _ _ _ => lkOk lka
  | .s2v _ _ _ _ => true
  | .pmovAnd _ _ _ _ _ _ => true
  | .pmovOr _ _ _ _ _ _ => true
  | .pmovXor _ _ _ _ _ _ => true
  | .pmovP2v _ _ _ => true
  | .pmovV2p _ _ _ lka => lkOk lka
  | .pmovP2s _ _ _ => true
  | .pmovS2p _ _ _ => true
  | .sadd _ _ _ _ => true
  | .ssub _ _ _ _ => true
  | .smul _ _ _ _ _ => true
  | .sand _ _ _ _ => true
  | .sor _ _ _ _ => true
  | .sxor _ _ _ _ => true
  | .sandn _ _ _ _ => true
  | .sshl _ _ _ _ => true
  | .sshr _ _ _ _ => true
  | .ssar _ _ _ _ => true
  | .srot _ _ _ _ => true
  | .scmp _ _ _ _ _ _ => true
  | .smov _ _ _ => true
  | .smovTlo _ _ _ => true
  | .smovThi _ _ _ => true
  | .smovSlo _ _ _ => true
  | .smovShi _ _ _ => true
  | .smovi _ _ _ => true
  | .saddi _ _ _ _ => true
  | .sbfe _ _ _ _ _ => true
  | .smin _ _ _ _ _ => true
  | .smax _ _ _ _ _ => true
  | .spopc _ _ _ => true
  | .sclz _ _ _ => true
  | .sctz _ _ _ => true
  | .sbrev _ _ _ => true
  | .bra _ _ _ _ => true
  | .brp _ _ _ _ => true
  | .brs _ _ _ _ => true
  | .jmpi _ _ lka => lkOk lka
  | .call _ _ _ _ => true
  | .calli _ _ lka => lkOk lka
  | .ret _ _ lka => lkOk lka
  | .exitL _ => true
  | .yield _ => true
  | .nop _ => true
  | .mcall _ _ _ _ _ => true
  | .mret _ => true
  | .ld _ _ _ _ _ _ _ => true
  | .st _ _ _ _ _ _ => true
  | .ldl _ _ _ _ _ _ _ => true
  | .stl _ _ _ _ _ _ _ => true
  | .ldu _ _ _ _ _ _ => true
  | .stu _ _ _ _ _ => true
  | .atom _ _ _ _ _ _ => true
  | .cas gr _ _ _ _ _ => lkOk gr.lkc
  | .red _ _ _ _ _ _ => true
  | .redHome _ _ _ _ _ _ => true
  | .atoml _ _ _ _ _ => true
  | .redl _ _ _ _ _ => true
  | .fenceAcq _ => true
  | .fenceRel _ => true
  | .fenceSc _ => true
  | .cfence _ => true
  | .publish _ => true
  | .prefetch _ _ _ _ => true
  | .lock _ _ _ _ => true
  | .unlock _ _ _ _ => true
  | .stashMap _ _ _ _ => true
  | .stashUnmap _ _ => true
  | .ldp _ _ _ _ _ _ => true
  | .stp _ _ _ _ _ _ => true
  | .acopy _ _ _ _ => true
  | .axform _ _ _ _ => true
  | .agather _ _ _ _ => true
  | .bclose _ => true
  | .waitb _ _ => true
  | .hwaitFull _ _ => true
  | .hwaitFree _ _ => true
  | .hsetDrain _ _ => true
  | .hsetFree _ _ => true
  | .wptr _ _ _ => true
  | .bar _ => true
  | .cbar _ => true
  | .nbar _ _ _ _ => true
  | .signal _ _ _ _ => true
  | .softintQ _ _ _ => true
  | .softintM _ _ => true
  | .waits _ _ _ _ _ => true
  | .mjob _ _ => true
  | .mwait _ _ => true
  | .mwaitAll _ => true
  | .mzero _ _ => true
  | .mldaTile _ _ _ => true
  | .mldaGlobal _ _ _ _ => true
  | .mstaTile _ _ _ _ _ => true
  | .mstaGlobal _ _ _ _ _ _ => true
  | .mstreamSub _ _ => true
  | .mstreamUnsub _ _ => true
  | .visemit _ _ _ lka _ => lkOk lka
  | .ldcl _ _ _ _ _ _ => true
  | .tex _ _ _ lka _ => lkOk lka
  | .texfb _ _ _ lka _ => lkOk lka
  | .rtrace _ _ _ lka _ => lkOk lka
  | .rquery _ _ _ lka _ => lkOk lka
  | .rtcont _ _ _ => true
  | .hsort _ _ _ lka => lkOk lka
  | .rpix _ _ _ _ lka _ lkb => lkOk lka && lkOk lkb
  | .visrd _ _ _ => true
  | .visrdPix _ _ _ lka _ => lkOk lka
  | .cpost _ _ _ => true
  | .cred _ _ _ => true
  | .cwait _ _ _ _ => true
  | .cjoin _ _ _ => true
  | .cjoinLeave _ _ => true
  | .trapI _ _ => true
  | .rti _ => true
  | .bkpt _ _ => true
  | .sysrd _ _ _ => true
  | .syswr _ _ _ => true
  | .tmask _ _ => true
  | .tlbinvPage _ _ _ => true
  | .tlbinvRange _ _ _ _ => true
  | .tlbinvSpace _ _ _ => true
  | .lichenEmulation _ _ _ _ => true
  | .resultReturn _ _ => true
  | .homeRequest _ => true
  | .performedAtHome _ => true
  | .stashRecall _ _ _ _ => true
  | .updateLineRecall _ _ => true
  | .holderInvalidation _ _ => true
  | .taggedWriteReturned _ _ => true
  | .promotionRetire _ _ => true
  | .promotionQuery _ _ _ => true
  | .promotionAnswer _ _ _ _ => true
  | .l1LeaseExpiry _ _ => true
  | .migrationStart _ _ => true
  | .migrationSwitch _ => true
  | .migrationReturnStart _ => true
  | .migrationReturnComplete _ => true
  | .ownershipPoint _ _ => true
  | .shootdownCoreComplete _ => true
  | .copyAccepted _ _ => true
  | .copyDeliver _ _ => true
  | .activeSetEntry _ _ => true
  | .activeBound _ _ => true
  | .warpExit _ _ => true
  | .blockKill _ _ => true
  | .qtail _ _ => true
  | .qwake _ => true
  | .preempt _ => true
  | .resume _ => true
  | .kill _ => true
  | .clear _ => true
  | .passopen _ _ => true
  | .registerWrite _ _ => true
  | .launchStart _ => true
  | .waitItemPoll _ => true
  | .waitsPoll _ _ => true
  | .placementPass => true
  | .launchComplete _ => true
  | .jobStep _ _ => true
  | .streamBlockFetch _ _ => true
  | .rayTraversalStep _ _ _ => true
  | .faultRespPoll _ _ => true
  | .trapQueuePoll _ => true
  | .endOfDrawToken _ _ => true
  | .tokenArrival _ _ _ => true
  | .frondPacketArrival _ _ => true
  | .flushAreaMove => true
  | .tileLaunch _ _ _ => true
  | .passComplete _ => true
  | .joinRequest _ _ _ _ => true
  | .joinReply _ _ => true
  | .openFlit _ _ _ => true
  | .frameClose _ => true
  | .collectivePacket _ => true
  | .closeFlit _ _ => true
  | .frameComplete _ _ _ => true
  | .lateNotice _ _ => true
  | .settledBlockDown _ _ _ _ => true
  | .verticalBlank _ => true
  | .rdmaRead _ _ _ _ => true
  | .rdmaWrite _ _ _ _ => true
  | .rdmaFetchAdd _ _ _ _ => true
  | .rdmaCmpSwap _ _ _ _ _ => true
  | .fabricLeaseRenewal _ => true
  | .fabricLeaseExpiry => true
  | .fanoutTimeout _ _ => true
  | .reroute _ _ => true
  | .nodeDeclaredFailed _ => true
  | .failureNotice => true
  | .dieLinkFailure _ => true
  | .patchActivation => true
  | .relocation _ _ _ => true
  | .coreDump _ => true
  | .reset => true
  | .recoveryRetry => true
  | .recoveryReadComplete _ => true
  | .keyload _ => true
  | .keyunload _ => true
  | .patch _ => true
  | .withdraw => true
  | .attest _ _ => true
  | .scanout _ _ => true
  | .dumpwin _ => true
  | .stateread _ _ _ => true
  | .softError _ => true
  | .droop _ => true
  | .thermalStepDown _ => true
  | .overtempStop => true
  | .tempoBoundary _ => true
  | .illegalInstruction _ _ => true
  | .instructionFetchFault _ _ => true
  | .invalidationAcknowledgement _ _ _ => true
  | .rookPortLinkFailure _ => true
  | .thermalRecovery _ => true
  | .droopRecovery _ => true

/-- The first failed check on the complete group, after the base word's opcode is known and its hints are accepted
(R184 step 3): a reserved field value, a reserved LK value, a reserved value in a hint word, in this order (DESIGN CHOICE: R184 does not order the
checks within step 3). -/
def fieldErr (f : Fmt) (i : Instr) : Option DecErr :=
  if !i.fieldsOk then some .reservedField
  else if !i.lksOk then some .lastUse
  else if !hintFieldsOk f i.grp then some .hintReserved
  else none

/-- A group the decoder accepts: at most three hint words (R180), each accepted by the opcode (R181), every field an
assigned value (R177, R179). An event has no encoding and is well formed as it stands. A required third source may be
missing: the group then decodes, and its execution raises trap 0x04, subcode 0x05. -/
def wellFormed (i : Instr) : Bool :=
  match i.opcode with
  | none => true
  | some o =>
    match Fmt.ofOpc o with
    | none => false
    | some f =>
      i.grp.imms.length + i.grp.src.toList.length + i.grp.mod.toList.length + i.grp.rep.toList.length ≤ 3
        && hintsAccepted o i.shflSrc f i.grp && (i.fieldErr f).isNone

/-- The instruction requires a third source that its group does not supply (R181). -/
def missingThird (i : Instr) : Bool :=
  match i.opcode with
  | none => false
  | some o => thirdMissing o i.shflSrc i.grp

end Instr

end Sys2Proof
end

