-- ==== Sys2Proof/Decode.lean ====
section
/-! DEFINITION. Decoding instruction groups, total on any words (R175 to R191), and after it the encoder, written from
the same tables. -/

namespace Sys2Proof

/-- The `len` bits of a word from bit `lo` up. -/
def fld (w : Word) (lo len : Nat) : BitVec len := BitVec.ofNat len (w.toNat / 2 ^ lo)

/-- The primary opcode of a word, bits 30:23 (R175). -/
def opcOf (w : Word) : Nat := (fld w 23 8).toNat
/-- The switch marker S of a word, bit 31 (R175). -/
def swOf (w : Word) : Bool := fld w 31 1 = 1

/-- One row of the opcode map with its entry's encoding: the primary opcode, the kind field that tells the rows of one
opcode apart (`kindLen` is 0 where the opcode has one row), the unused fields that must be zero (R177), and the
instruction the operand fields give. -/
structure Row where
  opc : Nat
  kindLo : Nat
  kindLen : Nat
  kind : Nat
  zeros : List (Nat × Nat)
  make : Grp → Word → Instr

/-- The word carries the row's opcode and kind. -/
def Row.hit (r : Row) (w : Word) : Bool := opcOf w = r.opc && (fld w r.kindLo r.kindLen).toNat = r.kind
/-- The row's unused fields are zero in the word. -/
def Row.clean (r : Row) (w : Word) : Bool := r.zeros.all fun z => fld w z.1 z.2 = 0

def rows0 : List Row := [
  ⟨0x00, 0, 0, 0, [], fun g w => .iadd g (fld w 17 6) (fld w 11 6) (fld w 9 2) (fld w 3 6) (fld w 1 2) (fld w 0 1)⟩,
  ⟨0x01, 0, 0, 0, [], fun g w => .isub g (fld w 17 6) (fld w 11 6) (fld w 9 2) (fld w 3 6) (fld w 1 2) (fld w 0 1)⟩,
  ⟨0x02, 0, 0, 0, [], fun g w => .imul g (fld w 17 6) (fld w 11 6) (fld w 9 2) (fld w 3 6) (fld w 1 2) (fld w 0 1)⟩,
  ⟨0x03, 0, 0, 0, [], fun g w => .imulhiS g (fld w 17 6) (fld w 11 6) (fld w 9 2) (fld w 3 6) (fld w 1 2) (fld w 0 1)⟩,
  ⟨0x04, 0, 0, 0, [], fun g w => .imulhiU g (fld w 17 6) (fld w 11 6) (fld w 9 2) (fld w 3 6) (fld w 1 2) (fld w 0 1)⟩,
  ⟨0x05, 0, 0, 0, [], fun g w => .imad g (fld w 17 6) (fld w 11 6) (fld w 9 2) (fld w 3 6) (fld w 1 2) (fld w 0 1)⟩,
  ⟨0x06, 0, 0, 0, [], fun g w => .iminS g (fld w 17 6) (fld w 11 6) (fld w 9 2) (fld w 3 6) (fld w 1 2) (fld w 0 1)⟩,
  ⟨0x07, 0, 0, 0, [], fun g w => .iminU g (fld w 17 6) (fld w 11 6) (fld w 9 2) (fld w 3 6) (fld w 1 2) (fld w 0 1)⟩,
  ⟨0x08, 0, 0, 0, [], fun g w => .imaxS g (fld w 17 6) (fld w 11 6) (fld w 9 2) (fld w 3 6) (fld w 1 2) (fld w 0 1)⟩,
  ⟨0x09, 0, 0, 0, [], fun g w => .imaxU g (fld w 17 6) (fld w 11 6) (fld w 9 2) (fld w 3 6) (fld w 1 2) (fld w 0 1)⟩,
  ⟨0x0A, 0, 0, 0, [(0, 9)], fun g w => .iabs g (fld w 17 6) (fld w 11 6) (fld w 9 2)⟩,
  ⟨0x0B, 0, 0, 0, [], fun g w => .andV g (fld w 17 6) (fld w 11 6) (fld w 9 2) (fld w 3 6) (fld w 1 2) (fld w 0 1)⟩,
  ⟨0x0C, 0, 0, 0, [], fun g w => .orV g (fld w 17 6) (fld w 11 6) (fld w 9 2) (fld w 3 6) (fld w 1 2) (fld w 0 1)⟩,
  ⟨0x0D, 0, 0, 0, [], fun g w => .xorV g (fld w 17 6) (fld w 11 6) (fld w 9 2) (fld w 3 6) (fld w 1 2) (fld w 0 1)⟩,
  ⟨0x0E, 0, 0, 0, [], fun g w => .shl g (fld w 17 6) (fld w 11 6) (fld w 9 2) (fld w 3 6) (fld w 1 2) (fld w 0 1)⟩,
  ⟨0x0F, 0, 0, 0, [], fun g w => .shr g (fld w 17 6) (fld w 11 6) (fld w 9 2) (fld w 3 6) (fld w 1 2) (fld w 0 1)⟩,
  ⟨0x10, 0, 0, 0, [], fun g w => .sar g (fld w 17 6) (fld w 11 6) (fld w 9 2) (fld w 3 6) (fld w 1 2) (fld w 0 1)⟩,
  ⟨0x11, 0, 0, 0, [], fun g w => .bfe g (fld w 17 6) (fld w 11 6) (fld w 9 2) (fld w 3 6) (fld w 1 2) (fld w 0 1)⟩,
  ⟨0x12, 0, 0, 0, [], fun g w => .bfi g (fld w 17 6) (fld w 11 6) (fld w 9 2) (fld w 3 6) (fld w 1 2) (fld w 0 1)⟩,
  ⟨0x13, 0, 0, 0, [(0, 9)], fun g w => .popc g (fld w 17 6) (fld w 11 6) (fld w 9 2)⟩,
  ⟨0x14, 0, 0, 0, [(0, 9)], fun g w => .clz g (fld w 17 6) (fld w 11 6) (fld w 9 2)⟩,
  ⟨0x15, 0, 0, 0, [], fun g w => .icmp g (fld w 20 3) (fld w 17 3) (fld w 11 6) (fld w 9 2) (fld w 3 6) (fld w 1 2) (fld w 0 1)⟩,
  ⟨0x16, 0, 0, 0, [], fun g w => .sel g (fld w 17 6) (fld w 11 6) (fld w 9 2) (fld w 3 6) (fld w 1 2) (fld w 0 1)⟩,
  ⟨0x17, 0, 0, 0, [(0, 9)], fun g w => .mov g (fld w 17 6) (fld w 11 6) (fld w 9 2)⟩,
  ⟨0x18, 0, 0, 0, [(9, 8)], fun g w => .movi g (fld w 17 6) (fld w 0 9)⟩,
  ⟨0x19, 0, 0, 0, [], fun g w => .iaddi g (fld w 17 6) (fld w 11 6) (fld w 9 2) (fld w 0 9)⟩,
  ⟨0x1A, 7, 2, 0, [], fun g w => .andi g (fld w 17 6) (fld w 11 6) (fld w 9 2) (fld w 0 7)⟩,
  ⟨0x1A, 7, 2, 1, [], fun g w => .ori g (fld w 17 6) (fld w 11 6) (fld w 9 2) (fld w 0 7)⟩,
  ⟨0x1A, 7, 2, 2, [], fun g w => .xori g (fld w 17 6) (fld w 11 6) (fld w 9 2) (fld w 0 7)⟩,
  ⟨0x1A, 7, 2, 3, [], fun g w => .andni g (fld w 17 6) (fld w 11 6) (fld w 9 2) (fld w 0 7)⟩,
  ⟨0x1B, 7, 2, 0, [(5, 2)], fun g w => .shli g (fld w 17 6) (fld w 11 6) (fld w 9 2) (fld w 0 5)⟩,
  ⟨0x1B, 7, 2, 1, [(5, 2)], fun g w => .shri g (fld w 17 6) (fld w 11 6) (fld w 9 2) (fld w 0 5)⟩,
  ⟨0x1B, 7, 2, 2, [(5, 2)], fun g w => .sari g (fld w 17 6) (fld w 11 6) (fld w 9 2) (fld w 0 5)⟩,
  ⟨0x1B, 7, 2, 3, [(5, 2)], fun g w => .roti g (fld w 17 6) (fld w 11 6) (fld w 9 2) (fld w 0 5)⟩,
  ⟨0x20, 0, 0, 0, [], fun g w => .fadd g (fld w 17 6) (fld w 11 6) (fld w 9 2) (fld w 3 6) (fld w 1 2) (fld w 0 1)⟩,
  ⟨0x21, 0, 0, 0, [], fun g w => .fsub g (fld w 17 6) (fld w 11 6) (fld w 9 2) (fld w 3 6) (fld w 1 2) (fld w 0 1)⟩,
  ⟨0x22, 0, 0, 0, [], fun g w => .fmul g (fld w 17 6) (fld w 11 6) (fld w 9 2) (fld w 3 6) (fld w 1 2) (fld w 0 1)⟩,
  ⟨0x23, 0, 0, 0, [], fun g w => .ffma g (fld w 17 6) (fld w 11 6) (fld w 9 2) (fld w 3 6) (fld w 1 2) (fld w 0 1)⟩,
  ⟨0x24, 0, 0, 0, [], fun g w => .fmin g (fld w 17 6) (fld w 11 6) (fld w 9 2) (fld w 3 6) (fld w 1 2) (fld w 0 1)⟩,
  ⟨0x25, 0, 0, 0, [], fun g w => .fmax g (fld w 17 6) (fld w 11 6) (fld w 9 2) (fld w 3 6) (fld w 1 2) (fld w 0 1)⟩]

def rows1 : List Row := [
  ⟨0x26, 0, 0, 0, [], fun g w => .fcmp g (fld w 20 3) (fld w 17 3) (fld w 11 6) (fld w 9 2) (fld w 3 6) (fld w 1 2) (fld w 0 1)⟩,
  ⟨0x27, 0, 0, 0, [(0, 9)], fun g w => .fclass g (fld w 17 6) (fld w 11 6) (fld w 9 2)⟩,
  ⟨0x28, 0, 0, 0, [(0, 9)], fun g w => .frnd g (fld w 17 6) (fld w 11 6) (fld w 9 2)⟩,
  ⟨0x29, 0, 0, 0, [(1, 8)], fun g w => .f2i g (fld w 17 6) (fld w 11 6) (fld w 9 2) (fld w 0 1)⟩,
  ⟨0x2A, 0, 0, 0, [(1, 8)], fun g w => .i2f g (fld w 17 6) (fld w 11 6) (fld w 9 2) (fld w 0 1)⟩,
  ⟨0x2B, 0, 0, 0, [], fun g w => .fcvt g (fld w 17 6) (fld w 11 6) (fld w 9 2) (fld w 6 3) (fld w 3 3) (fld w 0 3)⟩,
  ⟨0x2C, 0, 0, 0, [], fun g w => .hadd2 g (fld w 17 6) (fld w 11 6) (fld w 9 2) (fld w 3 6) (fld w 1 2) (fld w 0 1)⟩,
  ⟨0x2D, 0, 0, 0, [], fun g w => .hmul2 g (fld w 17 6) (fld w 11 6) (fld w 9 2) (fld w 3 6) (fld w 1 2) (fld w 0 1)⟩,
  ⟨0x2E, 0, 0, 0, [], fun g w => .hfma2 g (fld w 17 6) (fld w 11 6) (fld w 9 2) (fld w 3 6) (fld w 1 2) (fld w 0 1)⟩,
  ⟨0x2F, 0, 0, 0, [], fun g w => .dot4 g (fld w 17 6) (fld w 11 6) (fld w 9 2) (fld w 3 6) (fld w 1 2) (fld w 0 1)⟩,
  ⟨0x30, 0, 0, 0, [(3, 6)], fun g w => .sfu g (fld w 17 6) (fld w 11 6) (fld w 9 2) (fld w 0 3)⟩,
  ⟨0x31, 0, 0, 0, [], fun g w => .fscale g (fld w 17 6) (fld w 11 6) (fld w 9 2) (fld w 3 6) (fld w 1 2) (fld w 0 1)⟩,
  ⟨0x40, 0, 0, 0, [(6, 1)], fun g w => .shfl g (fld w 17 6) (fld w 11 6) (fld w 9 2) (fld w 7 2) (fld w 5 1) (fld w 0 5)⟩,
  ⟨0x41, 0, 0, 0, [(4, 3)], fun g w => .vote g (fld w 17 6) (fld w 11 6) (fld w 9 2) (fld w 7 2) (fld w 3 1) (fld w 0 3)⟩,
  ⟨0x42, 0, 0, 0, [(0, 7)], fun g w => .matchV g (fld w 17 6) (fld w 11 6) (fld w 9 2) (fld w 7 2)⟩,
  ⟨0x43, 0, 0, 0, [(0, 6)], fun g w => .redux g (fld w 17 6) (fld w 11 6) (fld w 9 2) (fld w 6 3)⟩,
  ⟨0x44, 0, 0, 0, [(0, 5)], fun g w => .pscan g (fld w 17 6) (fld w 11 6) (fld w 9 2) (fld w 6 3) (fld w 5 1)⟩,
  ⟨0x45, 0, 0, 0, [(3, 20)], fun g w => .part g (fld w 0 3)⟩,
  ⟨0x46, 0, 0, 0, [(5, 12)], fun g w => .sget g (fld w 17 6) (fld w 0 5)⟩,
  ⟨0x47, 0, 0, 0, [(8, 1)], fun g w => .v2s g (fld w 17 6) (fld w 11 6) (fld w 9 2) (fld w 7 1) (fld w 6 1) (fld w 5 1) (fld w 0 5)⟩,
  ⟨0x48, 0, 0, 0, [(0, 6), (7, 4)], fun g w => .s2v g (fld w 17 6) (fld w 11 6) (fld w 6 1)⟩,
  ⟨0x49, 6, 3, 0, [(3, 1), (9, 2), (14, 3), (20, 3)], fun g w => .pmovAnd g (fld w 17 3) (fld w 11 3) (fld w 5 1) (fld w 4 1) (fld w 0 3)⟩,
  ⟨0x49, 6, 3, 1, [(3, 1), (9, 2), (14, 3), (20, 3)], fun g w => .pmovOr g (fld w 17 3) (fld w 11 3) (fld w 5 1) (fld w 4 1) (fld w 0 3)⟩,
  ⟨0x49, 6, 3, 2, [(3, 1), (9, 2), (14, 3), (20, 3)], fun g w => .pmovXor g (fld w 17 3) (fld w 11 3) (fld w 5 1) (fld w 4 1) (fld w 0 3)⟩,
  ⟨0x49, 6, 3, 3, [(0, 6), (9, 2), (14, 3)], fun g w => .pmovP2v g (fld w 17 6) (fld w 11 3)⟩,
  ⟨0x49, 6, 3, 4, [(0, 6), (20, 3)], fun g w => .pmovV2p g (fld w 17 3) (fld w 11 6) (fld w 9 2)⟩,
  ⟨0x49, 6, 3, 5, [(0, 6), (9, 2), (14, 3)], fun g w => .pmovP2s g (fld w 17 6) (fld w 11 3)⟩,
  ⟨0x49, 6, 3, 6, [(0, 6), (9, 2), (20, 3)], fun g w => .pmovS2p g (fld w 17 3) (fld w 11 6)⟩,
  ⟨0x50, 0, 0, 0, [(0, 5)], fun g w => .sadd g (fld w 17 6) (fld w 11 6) (fld w 5 6)⟩,
  ⟨0x51, 0, 0, 0, [(0, 5)], fun g w => .ssub g (fld w 17 6) (fld w 11 6) (fld w 5 6)⟩,
  ⟨0x52, 0, 0, 0, [(2, 3)], fun g w => .smul g (fld w 17 6) (fld w 11 6) (fld w 5 6) (fld w 0 2)⟩,
  ⟨0x53, 0, 2, 0, [(2, 3)], fun g w => .sand g (fld w 17 6) (fld w 11 6) (fld w 5 6)⟩,
  ⟨0x53, 0, 2, 1, [(2, 3)], fun g w => .sor g (fld w 17 6) (fld w 11 6) (fld w 5 6)⟩,
  ⟨0x53, 0, 2, 2, [(2, 3)], fun g w => .sxor g (fld w 17 6) (fld w 11 6) (fld w 5 6)⟩,
  ⟨0x53, 0, 2, 3, [(2, 3)], fun g w => .sandn g (fld w 17 6) (fld w 11 6) (fld w 5 6)⟩,
  ⟨0x54, 0, 2, 0, [(2, 3)], fun g w => .sshl g (fld w 17 6) (fld w 11 6) (fld w 5 6)⟩,
  ⟨0x54, 0, 2, 1, [(2, 3)], fun g w => .sshr g (fld w 17 6) (fld w 11 6) (fld w 5 6)⟩,
  ⟨0x54, 0, 2, 2, [(2, 3)], fun g w => .ssar g (fld w 17 6) (fld w 11 6) (fld w 5 6)⟩,
  ⟨0x54, 0, 2, 3, [(2, 3)], fun g w => .srot g (fld w 17 6) (fld w 11 6) (fld w 5 6)⟩,
  ⟨0x55, 0, 0, 0, [(4, 1)], fun g w => .scmp g (fld w 17 6) (fld w 11 6) (fld w 5 6) (fld w 3 1) (fld w 0 3)⟩]

def rows2 : List Row := [
  ⟨0x56, 0, 3, 0, [(3, 8)], fun g w => .smov g (fld w 17 6) (fld w 11 6)⟩,
  ⟨0x56, 0, 3, 1, [(3, 8), (20, 3)], fun g w => .smovTlo g (fld w 17 3) (fld w 11 6)⟩,
  ⟨0x56, 0, 3, 2, [(3, 8), (20, 3)], fun g w => .smovThi g (fld w 17 3) (fld w 11 6)⟩,
  ⟨0x56, 0, 3, 3, [(3, 8), (14, 3)], fun g w => .smovSlo g (fld w 17 6) (fld w 11 3)⟩,
  ⟨0x56, 0, 3, 4, [(3, 8), (14, 3)], fun g w => .smovShi g (fld w 17 6) (fld w 11 3)⟩,
  ⟨0x57, 0, 0, 0, [(11, 6)], fun g w => .smovi g (fld w 17 6) (fld w 0 11)⟩,
  ⟨0x58, 0, 0, 0, [], fun g w => .saddi g (fld w 17 6) (fld w 11 6) (fld w 0 11)⟩,
  ⟨0x59, 0, 0, 0, [(1, 4)], fun g w => .sbfe g (fld w 17 6) (fld w 11 6) (fld w 5 6) (fld w 0 1)⟩,
  ⟨0x5A, 1, 1, 0, [(2, 3)], fun g w => .smin g (fld w 17 6) (fld w 11 6) (fld w 5 6) (fld w 0 1)⟩,
  ⟨0x5A, 1, 1, 1, [(2, 3)], fun g w => .smax g (fld w 17 6) (fld w 11 6) (fld w 5 6) (fld w 0 1)⟩,
  ⟨0x5B, 0, 2, 0, [(2, 9)], fun g w => .spopc g (fld w 17 6) (fld w 11 6)⟩,
  ⟨0x5B, 0, 2, 1, [(2, 9)], fun g w => .sclz g (fld w 17 6) (fld w 11 6)⟩,
  ⟨0x5B, 0, 2, 2, [(2, 9)], fun g w => .sctz g (fld w 17 6) (fld w 11 6)⟩,
  ⟨0x5B, 0, 2, 3, [(2, 9)], fun g w => .sbrev g (fld w 17 6) (fld w 11 6)⟩,
  ⟨0x60, 0, 0, 0, [], fun g w => .bra g (fld w 20 3) (fld w 19 1) (fld w 0 19)⟩,
  ⟨0x61, 0, 0, 0, [], fun g w => .brp g (fld w 20 3) (fld w 19 1) (fld w 0 19)⟩,
  ⟨0x62, 0, 0, 0, [], fun g w => .brs g (fld w 20 3) (fld w 19 1) (fld w 0 19)⟩,
  ⟨0x63, 0, 0, 0, [(0, 9), (17, 6)], fun g w => .jmpi g (fld w 11 6) (fld w 9 2)⟩,
  ⟨0x64, 0, 0, 0, [], fun g w => .call g (fld w 20 3) (fld w 19 1) (fld w 0 19)⟩,
  ⟨0x65, 0, 0, 0, [(0, 9), (17, 6)], fun g w => .calli g (fld w 11 6) (fld w 9 2)⟩,
  ⟨0x66, 0, 0, 0, [(0, 9), (17, 6)], fun g w => .ret g (fld w 11 6) (fld w 9 2)⟩,
  ⟨0x67, 0, 0, 0, [(0, 23)], fun g _ => .exitL g⟩,
  ⟨0x68, 0, 0, 0, [(0, 23)], fun g _ => .yield g⟩,
  ⟨0x69, 0, 0, 0, [(0, 23)], fun g _ => .nop g⟩,
  ⟨0x6A, 0, 0, 0, [], fun g w => .mcall g (fld w 18 5) (fld w 12 6) (fld w 6 6) (fld w 0 6)⟩,
  ⟨0x6B, 0, 0, 0, [(0, 23)], fun g _ => .mret g⟩,
  ⟨0x70, 0, 0, 0, [], fun g w => .ld g (fld w 17 6) (fld w 11 6) (fld w 5 6) (fld w 2 3) (fld w 1 1) (fld w 0 1)⟩,
  ⟨0x71, 0, 0, 0, [(1, 1)], fun g w => .st g (fld w 17 6) (fld w 11 6) (fld w 5 6) (fld w 2 3) (fld w 0 1)⟩,
  ⟨0x72, 0, 0, 0, [], fun g w => .ldl g (fld w 17 6) (fld w 11 6) (fld w 5 6) (fld w 2 3) (fld w 1 1) (fld w 0 1)⟩,
  ⟨0x73, 0, 0, 0, [], fun g w => .stl g (fld w 17 6) (fld w 11 6) (fld w 5 6) (fld w 2 3) (fld w 1 1) (fld w 0 1)⟩,
  ⟨0x74, 0, 0, 0, [(5, 6)], fun g w => .ldu g (fld w 17 6) (fld w 11 6) (fld w 2 3) (fld w 1 1) (fld w 0 1)⟩,
  ⟨0x75, 0, 0, 0, [(1, 1), (5, 6)], fun g w => .stu g (fld w 17 6) (fld w 11 6) (fld w 2 3) (fld w 0 1)⟩,
  ⟨0x76, 0, 0, 0, [], fun g w => .atom g (fld w 17 6) (fld w 11 6) (fld w 5 6) (fld w 1 4) (fld w 0 1)⟩,
  ⟨0x77, 0, 0, 0, [(2, 3)], fun g w => .cas g (fld w 17 6) (fld w 11 6) (fld w 5 6) (fld w 1 1) (fld w 0 1)⟩,
  ⟨0x78, 4, 1, 0, [], fun g w => .red g (fld w 17 6) (fld w 11 6) (fld w 5 6) (fld w 1 3) (fld w 0 1)⟩,
  ⟨0x78, 4, 1, 1, [], fun g w => .redHome g (fld w 17 6) (fld w 11 6) (fld w 5 6) (fld w 1 3) (fld w 0 1)⟩,
  ⟨0x79, 0, 0, 0, [(0, 1)], fun g w => .atoml g (fld w 17 6) (fld w 11 6) (fld w 5 6) (fld w 1 4)⟩,
  ⟨0x7A, 0, 0, 0, [(0, 1), (4, 1)], fun g w => .redl g (fld w 17 6) (fld w 11 6) (fld w 5 6) (fld w 1 3)⟩,
  ⟨0x7B, 0, 2, 0, [(2, 21)], fun g _ => .fenceAcq g⟩,
  ⟨0x7B, 0, 2, 1, [(2, 21)], fun g _ => .fenceRel g⟩]

def rows3 : List Row := [
  ⟨0x7B, 0, 2, 2, [(2, 21)], fun g _ => .fenceSc g⟩,
  ⟨0x7C, 0, 0, 0, [(0, 23)], fun g _ => .cfence g⟩,
  ⟨0x7D, 0, 0, 0, [(0, 23)], fun g _ => .publish g⟩,
  ⟨0x7E, 0, 0, 0, [(0, 1), (2, 3), (17, 6)], fun g w => .prefetch g (fld w 11 6) (fld w 5 6) (fld w 1 1)⟩,
  ⟨0x7F, 1, 1, 0, [(0, 1), (2, 3)], fun g w => .lock g (fld w 17 6) (fld w 11 6) (fld w 5 6)⟩,
  ⟨0x7F, 1, 1, 1, [(0, 1), (2, 3)], fun g w => .unlock g (fld w 17 6) (fld w 11 6) (fld w 5 6)⟩,
  ⟨0x80, 0, 1, 0, [(1, 4)], fun g w => .stashMap g (fld w 17 6) (fld w 11 6) (fld w 5 6)⟩,
  ⟨0x80, 0, 1, 1, [(1, 10), (17, 6)], fun g w => .stashUnmap g (fld w 11 6)⟩,
  ⟨0x81, 0, 0, 0, [(0, 1)], fun g w => .ldp g (fld w 17 6) (fld w 11 6) (fld w 5 6) (fld w 2 3) (fld w 1 1)⟩,
  ⟨0x82, 0, 0, 0, [(0, 1)], fun g w => .stp g (fld w 17 6) (fld w 11 6) (fld w 5 6) (fld w 2 3) (fld w 1 1)⟩,
  ⟨0x90, 0, 0, 0, [(0, 5)], fun g w => .acopy g (fld w 17 6) (fld w 11 6) (fld w 5 6)⟩,
  ⟨0x91, 0, 0, 0, [(0, 5)], fun g w => .axform g (fld w 17 6) (fld w 11 6) (fld w 5 6)⟩,
  ⟨0x92, 0, 0, 0, [(0, 5)], fun g w => .agather g (fld w 17 6) (fld w 11 6) (fld w 5 6)⟩,
  ⟨0x93, 0, 0, 0, [(0, 23)], fun g _ => .bclose g⟩,
  ⟨0x94, 0, 0, 0, [(4, 19)], fun g w => .waitb g (fld w 0 4)⟩,
  ⟨0x95, 5, 1, 0, [(6, 17)], fun g w => .hwaitFull g (fld w 0 5)⟩,
  ⟨0x95, 5, 1, 1, [(6, 17)], fun g w => .hwaitFree g (fld w 0 5)⟩,
  ⟨0x96, 5, 1, 0, [(6, 17)], fun g w => .hsetDrain g (fld w 0 5)⟩,
  ⟨0x96, 5, 1, 1, [(6, 17)], fun g w => .hsetFree g (fld w 0 5)⟩,
  ⟨0x97, 0, 0, 0, [(5, 12)], fun g w => .wptr g (fld w 17 6) (fld w 0 5)⟩,
  ⟨0x98, 0, 0, 0, [(0, 23)], fun g _ => .bar g⟩,
  ⟨0x99, 0, 0, 0, [(0, 23)], fun g _ => .cbar g⟩,
  ⟨0x9A, 0, 0, 0, [(15, 8)], fun g w => .nbar g (fld w 5 10) (fld w 4 1) (fld w 0 4)⟩,
  ⟨0x9B, 0, 0, 0, [(2, 3), (17, 6)], fun g w => .signal g (fld w 11 6) (fld w 5 6) (fld w 0 2)⟩,
  ⟨0x9C, 0, 1, 0, [(1, 4), (17, 6)], fun g w => .softintQ g (fld w 11 6) (fld w 5 6)⟩,
  ⟨0x9C, 0, 1, 1, [(1, 4), (11, 12)], fun g w => .softintM g (fld w 5 6)⟩,
  ⟨0x9D, 0, 0, 0, [(2, 3)], fun g w => .waits g (fld w 17 6) (fld w 11 6) (fld w 5 6) (fld w 0 2)⟩,
  ⟨0xA0, 0, 0, 0, [(0, 11), (17, 6)], fun g w => .mjob g (fld w 11 6)⟩,
  ⟨0xA1, 8, 1, 0, [(9, 14)], fun g w => .mwait g (fld w 0 8)⟩,
  ⟨0xA1, 8, 1, 1, [(0, 8), (9, 14)], fun g _ => .mwaitAll g⟩,
  ⟨0xA2, 0, 0, 0, [(8, 15)], fun g w => .mzero g (fld w 0 8)⟩,
  ⟨0xA3, 0, 1, 0, [(1, 10), (14, 3), (20, 3)], fun g w => .mldaTile g (fld w 17 3) (fld w 11 3)⟩,
  ⟨0xA3, 0, 1, 1, [(3, 8), (20, 3)], fun g w => .mldaGlobal g (fld w 17 3) (fld w 11 6) (fld w 1 2)⟩,
  ⟨0xA4, 0, 1, 0, [(1, 3), (14, 3), (20, 3)], fun g w => .mstaTile g (fld w 17 3) (fld w 11 3) (fld w 5 6) (fld w 4 1)⟩,
  ⟨0xA4, 0, 1, 1, [(14, 3)], fun g w => .mstaGlobal g (fld w 17 6) (fld w 11 3) (fld w 5 6) (fld w 4 1) (fld w 1 3)⟩,
  ⟨0xA5, 0, 1, 0, [(1, 10), (17, 6)], fun g w => .mstreamSub g (fld w 11 6)⟩,
  ⟨0xA5, 0, 1, 1, [(1, 10), (17, 6)], fun g w => .mstreamUnsub g (fld w 11 6)⟩,
  ⟨0xA8, 0, 1, 1, [(1, 2)], fun g w => .visemit g (fld w 17 6) (fld w 11 6) (fld w 9 2) (fld w 3 6)⟩,
  ⟨0xA9, 0, 0, 0, [(0, 1)], fun g w => .ldcl g (fld w 17 6) (fld w 11 6) (fld w 5 6) (fld w 2 3) (fld w 1 1)⟩,
  ⟨0xAA, 0, 1, 1, [(1, 2)], fun g w => .tex g (fld w 17 6) (fld w 11 6) (fld w 9 2) (fld w 3 6)⟩]

def rows4 : List Row := [
  ⟨0xAB, 0, 1, 1, [(1, 2)], fun g w => .texfb g (fld w 17 6) (fld w 11 6) (fld w 9 2) (fld w 3 6)⟩,
  ⟨0xAC, 0, 1, 1, [(1, 2)], fun g w => .rtrace g (fld w 17 6) (fld w 11 6) (fld w 9 2) (fld w 3 6)⟩,
  ⟨0xAD, 0, 1, 1, [(1, 2)], fun g w => .rquery g (fld w 17 6) (fld w 11 6) (fld w 9 2) (fld w 3 6)⟩,
  ⟨0xAE, 0, 0, 0, [(2, 15)], fun g w => .rtcont g (fld w 17 6) (fld w 0 2)⟩,
  ⟨0xAF, 0, 0, 0, [(0, 9)], fun g w => .hsort g (fld w 17 6) (fld w 11 6) (fld w 9 2)⟩,
  ⟨0xB0, 0, 0, 0, [(0, 1), (22, 1)], fun g w => .rpix g (fld w 19 3) (fld w 17 2) (fld w 11 6) (fld w 9 2) (fld w 3 6) (fld w 1 2)⟩,
  ⟨0xB1, 2, 1, 0, [(3, 14)], fun g w => .visrd g (fld w 17 6) (fld w 0 2)⟩,
  ⟨0xB1, 2, 1, 1, [(3, 6)], fun g w => .visrdPix g (fld w 17 6) (fld w 11 6) (fld w 9 2) (fld w 0 2)⟩,
  ⟨0xB8, 0, 0, 0, [(0, 5), (17, 6)], fun g w => .cpost g (fld w 11 6) (fld w 5 6)⟩,
  ⟨0xB9, 0, 0, 0, [(0, 5), (17, 6)], fun g w => .cred g (fld w 11 6) (fld w 5 6)⟩,
  ⟨0xBA, 0, 0, 0, [(1, 10)], fun g w => .cwait g (fld w 17 6) (fld w 11 6) (fld w 0 1)⟩,
  ⟨0xBB, 0, 1, 0, [(1, 10)], fun g w => .cjoin g (fld w 17 6) (fld w 11 6)⟩,
  ⟨0xBB, 0, 1, 1, [(1, 10), (17, 6)], fun g w => .cjoinLeave g (fld w 11 6)⟩,
  ⟨0xC0, 0, 0, 0, [(8, 15)], fun g w => .trapI g (fld w 0 8)⟩,
  ⟨0xC1, 0, 0, 0, [(0, 23)], fun g _ => .rti g⟩,
  ⟨0xC2, 0, 0, 0, [(8, 15)], fun g w => .bkpt g (fld w 0 8)⟩,
  ⟨0xC3, 0, 0, 0, [(11, 6)], fun g w => .sysrd g (fld w 17 6) (fld w 0 11)⟩,
  ⟨0xC4, 0, 0, 0, [(17, 6)], fun g w => .syswr g (fld w 11 6) (fld w 0 11)⟩,
  ⟨0xC5, 0, 0, 0, [(1, 22)], fun g w => .tmask g (fld w 0 1)⟩,
  ⟨0xC6, 0, 2, 0, [(2, 9)], fun g w => .tlbinvPage g (fld w 17 6) (fld w 11 6)⟩,
  ⟨0xC6, 0, 2, 1, [(2, 3)], fun g w => .tlbinvRange g (fld w 17 6) (fld w 11 6) (fld w 5 6)⟩,
  ⟨0xC6, 0, 2, 2, [(2, 9)], fun g w => .tlbinvSpace g (fld w 17 6) (fld w 11 6)⟩]

/-- The encodings of spec/opcode_table.json, in its order. -/
def rows : List Row := rows0 ++ rows1 ++ rows2 ++ rows3 ++ rows4

/-- The instruction of a base word under the hints of `g`: the row of its opcode and kind, if its unused fields are zero. -/
def decodeBase (g : Grp) (w : Word) : Option Instr :=
  match rows.find? (fun r => r.hit w) with
  | some r => if r.clean w then some (r.make { g with sw := swOf w } w) else none
  | none => none

/-- What the hint words of a group have given so far (R180): the hints, how many words, whether the last word was a
HINT.IMM, and whether a hint word has a reserved bit set (checked on the complete group, R184). -/
structure Scan where
  g : Grp := {}
  n : Nat := 0
  lastImm : Bool := false
  reserved : Bool := false
  deriving DecidableEq, Repr

/-- One hint word joins the group, or is refused (R179, R180, R183): for one word S = 1 is tested first, then a fourth hint word, then a repeated
one (DESIGN CHOICE: R184 orders the steps, not the checks within one). -/
def Scan.hint (c : Scan) (w : Word) : Except DecErr Scan :=
  if swOf w then .error .hintSwitch
  else if c.n = 3 then .error .fourthHint
  else
    let c' := { c with n := c.n + 1, lastImm := false }
    match opcOf w with
    | 0xE0 =>
      if c.g.imms.length ≥ 2 ∨ (c.g.imms.length = 1 ∧ !c.lastImm) then .error .hintRepeated
      else .ok { c' with g := { c.g with imms := c.g.imms ++ [fld w 0 23] }, lastImm := true }
    | 0xE1 =>
      if c.g.src.isSome then .error .hintRepeated
      else .ok { c' with
        g := { c.g with src := some ⟨fld w 17 6, fld w 15 2, fld w 12 3, fld w 11 1 = 1, fld w 10 1 = 1⟩ }
        reserved := c.reserved || fld w 0 10 ≠ 0 }
    | 0xE2 =>
      if c.g.mod.isSome then .error .hintRepeated
      else .ok { c' with g := { c.g with mod := some ⟨fld w 20 3, fld w 19 1 = 1, fld w 16 3, fld w 0 16⟩ } }
    | _ =>
      if c.g.rep.isSome then .error .hintRepeated
      else .ok { c' with
        g := { c.g with rep := some ⟨fld w 19 4, fld w 16 3, fld w 13 3, fld w 10 3, fld w 7 3⟩ }
        reserved := c.reserved || fld w 0 7 ≠ 0 }

/-- A word is a hint word (R179). -/
def isHint (w : Word) : Bool := 0xE0 ≤ opcOf w && opcOf w ≤ 0xE3

/-- VISEMIT, TEX, TEXFB, RTRACE and RQUERY always read a uniform b, so a non-zero LKb with B = 1 is the error of R191
subcode 0x02 there. -/
def lkbOfUniform (w : Word) : Bool :=
  (opcOf w = 0xA8 || (0xAA ≤ opcOf w && opcOf w ≤ 0xAD)) && fld w 0 1 = 1 && fld w 1 2 ≠ 0

/-- The checks on the complete group, once its base word `w` has arrived (R184 steps 2 and 3); the order within step 3 is `fieldErr`'s. A group whose fields are
sound but which lacks a required third source decodes: its execution raises trap 0x04, subcode 0x05. -/
def Scan.finish (c : Scan) (w : Word) : Except DecErr Instr :=
  match Fmt.ofOpc (opcOf w) with
  | none =>
    if c.n > 0 then .error .hintNoInstr
    else if opcOf w ≥ 0xF0 then .error .unclaimed
    else .error .unassigned
  | some f =>
    let shflSrc := fld w 5 1 = 1
    if !hintsAccepted (opcOf w) shflSrc f c.g then .error .hintNotAccepted
    else
      let err (e : DecErr) : Except DecErr Instr :=
        if thirdMissing (opcOf w) shflSrc c.g then .error .missingSource else .error e
      match decodeBase c.g w with
      | none => err (if lkbOfUniform w then .lastUse else .reservedField)
      | some i =>
        match i.fieldErr f with
        | some e => err e
        | none => if c.reserved then err .hintReserved else .ok i

/-- The group that starts at the first of the words given, with the number of words it takes; `truncated` when they end
before a base word. -/
def decodeFrom (c : Scan) : List Word → Except DecErr (Instr × Nat)
  | [] => .error .truncated
  | w :: ws =>
    if isHint w then
      match c.hint w with
      | .error e => .error e
      | .ok c' => decodeFrom c' ws
    else
      match c.finish w with
      | .error e => .error e
      | .ok i => .ok (i, c.n + 1)

/-- Decoding of an instruction group (R180). -/
def decodeGroup (ws : List Word) : Except DecErr (Instr × Nat) := decodeFrom {} ws

/-- The words of a value that has `n` words, first word least significant. -/
def wordsOf : Nat → Nat → List Word
  | 0, _ => []
  | n + 1, w => BitVec.ofNat 32 w :: wordsOf n (w / 2 ^ 32)

/-- The instruction the decoder reads from the bits `w`, numbered as spec/opcode_table.json numbers them. -/
def decodeTableWord (nbits w : Nat) : Option Instr :=
  if nbits = 0 then none
  else match decodeGroup (wordsOf ((nbits + 31) / 32) (w % 2 ^ nbits)) with
    | .ok (i, _) => some i
    | .error _ => none

/-! The encoder. -/

/-- A bit as a number. -/
def bitNat (b : Bool) : Nat := if b then 1 else 0

/-- The words of the hints, in the order the assembler emits them (R194). -/
def encodeHints (g : Grp) : List Word :=
  g.imms.map (fun i => BitVec.ofNat 32 (0xE0 * 2 ^ 23 + i.toNat))
    ++ g.src.toList.map (fun h => BitVec.ofNat 32 (0xE1 * 2 ^ 23 + h.c.toNat * 2 ^ 17 + h.lkc.toNat * 2 ^ 15
        + h.gp.toNat * 2 ^ 12 + bitNat h.gn * 2 ^ 11 + bitNat h.ge * 2 ^ 10))
    ++ g.mod.toList.map (fun h => BitVec.ofNat 32 (0xE2 * 2 ^ 23 + h.rnd.toNat * 2 ^ 20 + bitNat h.sat * 2 ^ 19
        + h.cpol.toNat * 2 ^ 16 + h.off16.toNat))
    ++ g.rep.toList.map (fun h => BitVec.ofNat 32 (0xE3 * 2 ^ 23 + h.cnt.toNat * 2 ^ 19 + h.sd.toNat * 2 ^ 16
        + h.sa.toNat * 2 ^ 13 + h.sb.toNat * 2 ^ 10 + h.sc.toNat * 2 ^ 7))

/-- The number with each value placed at its bit. -/
def packFields : List (Nat × Nat) → Nat
  | [] => 0
  | (x, lo) :: r => x * 2 ^ lo + packFields r

/-- The base word's opcode and operand fields (R176 and each entry) as a number, without the switch marker. -/
def encodeFields : Instr → Nat
  | .iadd _ d a lka b lkb bu => packFields [(0x00, 23), (d.toNat, 17), (a.toNat, 11), (lka.toNat, 9), (b.toNat, 3), (lkb.toNat, 1), (bu.toNat, 0)]
  | .isub _ d a lka b lkb bu => packFields [(0x01, 23), (d.toNat, 17), (a.toNat, 11), (lka.toNat, 9), (b.toNat, 3), (lkb.toNat, 1), (bu.toNat, 0)]
  | .imul _ d a lka b lkb bu => packFields [(0x02, 23), (d.toNat, 17), (a.toNat, 11), (lka.toNat, 9), (b.toNat, 3), (lkb.toNat, 1), (bu.toNat, 0)]
  | .imulhiS _ d a lka b lkb bu => packFields [(0x03, 23), (d.toNat, 17), (a.toNat, 11), (lka.toNat, 9), (b.toNat, 3), (lkb.toNat, 1), (bu.toNat, 0)]
  | .imulhiU _ d a lka b lkb bu => packFields [(0x04, 23), (d.toNat, 17), (a.toNat, 11), (lka.toNat, 9), (b.toNat, 3), (lkb.toNat, 1), (bu.toNat, 0)]
  | .imad _ d a lka b lkb bu => packFields [(0x05, 23), (d.toNat, 17), (a.toNat, 11), (lka.toNat, 9), (b.toNat, 3), (lkb.toNat, 1), (bu.toNat, 0)]
  | .iminS _ d a lka b lkb bu => packFields [(0x06, 23), (d.toNat, 17), (a.toNat, 11), (lka.toNat, 9), (b.toNat, 3), (lkb.toNat, 1), (bu.toNat, 0)]
  | .iminU _ d a lka b lkb bu => packFields [(0x07, 23), (d.toNat, 17), (a.toNat, 11), (lka.toNat, 9), (b.toNat, 3), (lkb.toNat, 1), (bu.toNat, 0)]
  | .imaxS _ d a lka b lkb bu => packFields [(0x08, 23), (d.toNat, 17), (a.toNat, 11), (lka.toNat, 9), (b.toNat, 3), (lkb.toNat, 1), (bu.toNat, 0)]
  | .imaxU _ d a lka b lkb bu => packFields [(0x09, 23), (d.toNat, 17), (a.toNat, 11), (lka.toNat, 9), (b.toNat, 3), (lkb.toNat, 1), (bu.toNat, 0)]
  | .iabs _ d a lka => packFields [(0x0A, 23), (d.toNat, 17), (a.toNat, 11), (lka.toNat, 9)]
  | .andV _ d a lka b lkb bu => packFields [(0x0B, 23), (d.toNat, 17), (a.toNat, 11), (lka.toNat, 9), (b.toNat, 3), (lkb.toNat, 1), (bu.toNat, 0)]
  | .orV _ d a lka b lkb bu => packFields [(0x0C, 23), (d.toNat, 17), (a.toNat, 11), (lka.toNat, 9), (b.toNat, 3), (lkb.toNat, 1), (bu.toNat, 0)]
  | .xorV _ d a lka b lkb bu => packFields [(0x0D, 23), (d.toNat, 17), (a.toNat, 11), (lka.toNat, 9), (b.toNat, 3), (lkb.toNat, 1), (bu.toNat, 0)]
  | .shl _ d a lka b lkb bu => packFields [(0x0E, 23), (d.toNat, 17), (a.toNat, 11), (lka.toNat, 9), (b.toNat, 3), (lkb.toNat, 1), (bu.toNat, 0)]
  | .shr _ d a lka b lkb bu => packFields [(0x0F, 23), (d.toNat, 17), (a.toNat, 11), (lka.toNat, 9), (b.toNat, 3), (lkb.toNat, 1), (bu.toNat, 0)]
  | .sar _ d a lka b lkb bu => packFields [(0x10, 23), (d.toNat, 17), (a.toNat, 11), (lka.toNat, 9), (b.toNat, 3), (lkb.toNat, 1), (bu.toNat, 0)]
  | .bfe _ d a lka b lkb bu => packFields [(0x11, 23), (d.toNat, 17), (a.toNat, 11), (lka.toNat, 9), (b.toNat, 3), (lkb.toNat, 1), (bu.toNat, 0)]
  | .bfi _ d a lka b lkb bu => packFields [(0x12, 23), (d.toNat, 17), (a.toNat, 11), (lka.toNat, 9), (b.toNat, 3), (lkb.toNat, 1), (bu.toNat, 0)]
  | .popc _ d a lka => packFields [(0x13, 23), (d.toNat, 17), (a.toNat, 11), (lka.toNat, 9)]
  | .clz _ d a lka => packFields [(0x14, 23), (d.toNat, 17), (a.toNat, 11), (lka.toNat, 9)]
  | .icmp _ p c a lka b lkb bu => packFields [(0x15, 23), (p.toNat, 20), (c.toNat, 17), (a.toNat, 11), (lka.toNat, 9), (b.toNat, 3), (lkb.toNat, 1), (bu.toNat, 0)]
  | .sel _ d a lka b lkb bu => packFields [(0x16, 23), (d.toNat, 17), (a.toNat, 11), (lka.toNat, 9), (b.toNat, 3), (lkb.toNat, 1), (bu.toNat, 0)]
  | .mov _ d a lka => packFields [(0x17, 23), (d.toNat, 17), (a.toNat, 11), (lka.toNat, 9)]
  | .movi _ d i => packFields [(0x18, 23), (d.toNat, 17), (i.toNat, 0)]
  | .iaddi _ d a lka i => packFields [(0x19, 23), (d.toNat, 17), (a.toNat, 11), (lka.toNat, 9), (i.toNat, 0)]
  | .andi _ d a lka i => packFields [(0x1A, 23), (d.toNat, 17), (a.toNat, 11), (lka.toNat, 9), (i.toNat, 0)]
  | .ori _ d a lka i => packFields [(0x1A, 23), (1, 7), (d.toNat, 17), (a.toNat, 11), (lka.toNat, 9), (i.toNat, 0)]
  | .xori _ d a lka i => packFields [(0x1A, 23), (2, 7), (d.toNat, 17), (a.toNat, 11), (lka.toNat, 9), (i.toNat, 0)]
  | .andni _ d a lka i => packFields [(0x1A, 23), (3, 7), (d.toNat, 17), (a.toNat, 11), (lka.toNat, 9), (i.toNat, 0)]
  | .shli _ d a lka i => packFields [(0x1B, 23), (d.toNat, 17), (a.toNat, 11), (lka.toNat, 9), (i.toNat, 0)]
  | .shri _ d a lka i => packFields [(0x1B, 23), (1, 7), (d.toNat, 17), (a.toNat, 11), (lka.toNat, 9), (i.toNat, 0)]
  | .sari _ d a lka i => packFields [(0x1B, 23), (2, 7), (d.toNat, 17), (a.toNat, 11), (lka.toNat, 9), (i.toNat, 0)]
  | .roti _ d a lka i => packFields [(0x1B, 23), (3, 7), (d.toNat, 17), (a.toNat, 11), (lka.toNat, 9), (i.toNat, 0)]
  | .fadd _ d a lka b lkb bu => packFields [(0x20, 23), (d.toNat, 17), (a.toNat, 11), (lka.toNat, 9), (b.toNat, 3), (lkb.toNat, 1), (bu.toNat, 0)]
  | .fsub _ d a lka b lkb bu => packFields [(0x21, 23), (d.toNat, 17), (a.toNat, 11), (lka.toNat, 9), (b.toNat, 3), (lkb.toNat, 1), (bu.toNat, 0)]
  | .fmul _ d a lka b lkb bu => packFields [(0x22, 23), (d.toNat, 17), (a.toNat, 11), (lka.toNat, 9), (b.toNat, 3), (lkb.toNat, 1), (bu.toNat, 0)]
  | .ffma _ d a lka b lkb bu => packFields [(0x23, 23), (d.toNat, 17), (a.toNat, 11), (lka.toNat, 9), (b.toNat, 3), (lkb.toNat, 1), (bu.toNat, 0)]
  | .fmin _ d a lka b lkb bu => packFields [(0x24, 23), (d.toNat, 17), (a.toNat, 11), (lka.toNat, 9), (b.toNat, 3), (lkb.toNat, 1), (bu.toNat, 0)]
  | .fmax _ d a lka b lkb bu => packFields [(0x25, 23), (d.toNat, 17), (a.toNat, 11), (lka.toNat, 9), (b.toNat, 3), (lkb.toNat, 1), (bu.toNat, 0)]
  | .fcmp _ p c a lka b lkb bu => packFields [(0x26, 23), (p.toNat, 20), (c.toNat, 17), (a.toNat, 11), (lka.toNat, 9), (b.toNat, 3), (lkb.toNat, 1), (bu.toNat, 0)]
  | .fclass _ d a lka => packFields [(0x27, 23), (d.toNat, 17), (a.toNat, 11), (lka.toNat, 9)]
  | .frnd _ d a lka => packFields [(0x28, 23), (d.toNat, 17), (a.toNat, 11), (lka.toNat, 9)]
  | .f2i _ d a lka u => packFields [(0x29, 23), (d.toNat, 17), (a.toNat, 11), (lka.toNat, 9), (u.toNat, 0)]
  | .i2f _ d a lka u => packFields [(0x2A, 23), (d.toNat, 17), (a.toNat, 11), (lka.toNat, 9), (u.toNat, 0)]
  | .fcvt _ d a lka r t q => packFields [(0x2B, 23), (d.toNat, 17), (a.toNat, 11), (lka.toNat, 9), (r.toNat, 6), (t.toNat, 3), (q.toNat, 0)]
  | .hadd2 _ d a lka b lkb bu => packFields [(0x2C, 23), (d.toNat, 17), (a.toNat, 11), (lka.toNat, 9), (b.toNat, 3), (lkb.toNat, 1), (bu.toNat, 0)]
  | .hmul2 _ d a lka b lkb bu => packFields [(0x2D, 23), (d.toNat, 17), (a.toNat, 11), (lka.toNat, 9), (b.toNat, 3), (lkb.toNat, 1), (bu.toNat, 0)]
  | .hfma2 _ d a lka b lkb bu => packFields [(0x2E, 23), (d.toNat, 17), (a.toNat, 11), (lka.toNat, 9), (b.toNat, 3), (lkb.toNat, 1), (bu.toNat, 0)]
  | .dot4 _ d a lka b lkb bu => packFields [(0x2F, 23), (d.toNat, 17), (a.toNat, 11), (lka.toNat, 9), (b.toNat, 3), (lkb.toNat, 1), (bu.toNat, 0)]
  | .sfu _ d a lka u => packFields [(0x30, 23), (d.toNat, 17), (a.toNat, 11), (lka.toNat, 9), (u.toNat, 0)]
  | .fscale _ d a lka b lkb bu => packFields [(0x31, 23), (d.toNat, 17), (a.toNat, 11), (lka.toNat, 9), (b.toNat, 3), (lkb.toNat, 1), (bu.toNat, 0)]
  | .shfl _ d a lka m r i => packFields [(0x40, 23), (d.toNat, 17), (a.toNat, 11), (lka.toNat, 9), (m.toNat, 7), (r.toNat, 5), (i.toNat, 0)]
  | .vote _ d a lka m n p => packFields [(0x41, 23), (d.toNat, 17), (a.toNat, 11), (lka.toNat, 9), (m.toNat, 7), (n.toNat, 3), (p.toNat, 0)]
  | .matchV _ d a lka m => packFields [(0x42, 23), (d.toNat, 17), (a.toNat, 11), (lka.toNat, 9), (m.toNat, 7)]
  | .redux _ d a lka o => packFields [(0x43, 23), (d.toNat, 17), (a.toNat, 11), (lka.toNat, 9), (o.toNat, 6)]
  | .pscan _ d a lka o e => packFields [(0x44, 23), (d.toNat, 17), (a.toNat, 11), (lka.toNat, 9), (o.toNat, 6), (e.toNat, 5)]
  | .part _ w => packFields [(0x45, 23), (w.toNat, 0)]
  | .sget _ d e => packFields [(0x46, 23), (d.toNat, 17), (e.toNat, 0)]
  | .v2s _ d a lka sx pair first lane => packFields [(0x47, 23), (d.toNat, 17), (a.toNat, 11), (lka.toNat, 9), (sx.toNat, 7), (pair.toNat, 6), (first.toNat, 5), (lane.toNat, 0)]
  | .s2v _ d a p => packFields [(0x48, 23), (d.toNat, 17), (a.toNat, 11), (p.toNat, 6)]
  | .pmovAnd _ d a n m p => packFields [(0x49, 23), (d.toNat, 17), (a.toNat, 11), (n.toNat, 5), (m.toNat, 4), (p.toNat, 0)]
  | .pmovOr _ d a n m p => packFields [(0x49, 23), (1, 6), (d.toNat, 17), (a.toNat, 11), (n.toNat, 5), (m.toNat, 4), (p.toNat, 0)]
  | .pmovXor _ d a n m p => packFields [(0x49, 23), (2, 6), (d.toNat, 17), (a.toNat, 11), (n.toNat, 5), (m.toNat, 4), (p.toNat, 0)]
  | .pmovP2v _ d a => packFields [(0x49, 23), (3, 6), (d.toNat, 17), (a.toNat, 11)]
  | .pmovV2p _ d a lka => packFields [(0x49, 23), (4, 6), (d.toNat, 17), (a.toNat, 11), (lka.toNat, 9)]
  | .pmovP2s _ d a => packFields [(0x49, 23), (5, 6), (d.toNat, 17), (a.toNat, 11)]
  | .pmovS2p _ d a => packFields [(0x49, 23), (6, 6), (d.toNat, 17), (a.toNat, 11)]
  | .sadd _ d a b => packFields [(0x50, 23), (d.toNat, 17), (a.toNat, 11), (b.toNat, 5)]
  | .ssub _ d a b => packFields [(0x51, 23), (d.toNat, 17), (a.toNat, 11), (b.toNat, 5)]
  | .smul _ d a b f => packFields [(0x52, 23), (d.toNat, 17), (a.toNat, 11), (b.toNat, 5), (f.toNat, 0)]
  | .sand _ d a b => packFields [(0x53, 23), (d.toNat, 17), (a.toNat, 11), (b.toNat, 5)]
  | .sor _ d a b => packFields [(0x53, 23), (1, 0), (d.toNat, 17), (a.toNat, 11), (b.toNat, 5)]
  | .sxor _ d a b => packFields [(0x53, 23), (2, 0), (d.toNat, 17), (a.toNat, 11), (b.toNat, 5)]
  | .sandn _ d a b => packFields [(0x53, 23), (3, 0), (d.toNat, 17), (a.toNat, 11), (b.toNat, 5)]
  | .sshl _ d a b => packFields [(0x54, 23), (d.toNat, 17), (a.toNat, 11), (b.toNat, 5)]
  | .sshr _ d a b => packFields [(0x54, 23), (1, 0), (d.toNat, 17), (a.toNat, 11), (b.toNat, 5)]
  | .ssar _ d a b => packFields [(0x54, 23), (2, 0), (d.toNat, 17), (a.toNat, 11), (b.toNat, 5)]
  | .srot _ d a b => packFields [(0x54, 23), (3, 0), (d.toNat, 17), (a.toNat, 11), (b.toNat, 5)]
  | .scmp _ d a b w c => packFields [(0x55, 23), (d.toNat, 17), (a.toNat, 11), (b.toNat, 5), (w.toNat, 3), (c.toNat, 0)]
  | .smov _ d a => packFields [(0x56, 23), (d.toNat, 17), (a.toNat, 11)]
  | .smovTlo _ d a => packFields [(0x56, 23), (1, 0), (d.toNat, 17), (a.toNat, 11)]
  | .smovThi _ d a => packFields [(0x56, 23), (2, 0), (d.toNat, 17), (a.toNat, 11)]
  | .smovSlo _ d a => packFields [(0x56, 23), (3, 0), (d.toNat, 17), (a.toNat, 11)]
  | .smovShi _ d a => packFields [(0x56, 23), (4, 0), (d.toNat, 17), (a.toNat, 11)]
  | .smovi _ d i => packFields [(0x57, 23), (d.toNat, 17), (i.toNat, 0)]
  | .saddi _ d a i => packFields [(0x58, 23), (d.toNat, 17), (a.toNat, 11), (i.toNat, 0)]
  | .sbfe _ d a b u => packFields [(0x59, 23), (d.toNat, 17), (a.toNat, 11), (b.toNat, 5), (u.toNat, 0)]
  | .smin _ d a b u => packFields [(0x5A, 23), (d.toNat, 17), (a.toNat, 11), (b.toNat, 5), (u.toNat, 0)]
  | .smax _ d a b u => packFields [(0x5A, 23), (1, 1), (d.toNat, 17), (a.toNat, 11), (b.toNat, 5), (u.toNat, 0)]
  | .spopc _ d a => packFields [(0x5B, 23), (d.toNat, 17), (a.toNat, 11)]
  | .sclz _ d a => packFields [(0x5B, 23), (1, 0), (d.toNat, 17), (a.toNat, 11)]
  | .sctz _ d a => packFields [(0x5B, 23), (2, 0), (d.toNat, 17), (a.toNat, 11)]
  | .sbrev _ d a => packFields [(0x5B, 23), (3, 0), (d.toNat, 17), (a.toNat, 11)]
  | .bra _ p n o => packFields [(0x60, 23), (p.toNat, 20), (n.toNat, 19), (o.toNat, 0)]
  | .brp _ p n o => packFields [(0x61, 23), (p.toNat, 20), (n.toNat, 19), (o.toNat, 0)]
  | .brs _ p n o => packFields [(0x62, 23), (p.toNat, 20), (n.toNat, 19), (o.toNat, 0)]
  | .jmpi _ a lka => packFields [(0x63, 23), (a.toNat, 11), (lka.toNat, 9)]
  | .call _ p n o => packFields [(0x64, 23), (p.toNat, 20), (n.toNat, 19), (o.toNat, 0)]
  | .calli _ a lka => packFields [(0x65, 23), (a.toNat, 11), (lka.toNat, 9)]
  | .ret _ a lka => packFields [(0x66, 23), (a.toNat, 11), (lka.toNat, 9)]
  | .exitL _ => packFields [(0x67, 23)]
  | .yield _ => packFields [(0x68, 23)]
  | .nop _ => packFields [(0x69, 23)]
  | .mcall _ ptwo pone pzero slot => packFields [(0x6A, 23), (ptwo.toNat, 18), (pone.toNat, 12), (pzero.toNat, 6), (slot.toNat, 0)]
  | .mret _ => packFields [(0x6B, 23)]
  | .ld _ v b i t f o => packFields [(0x70, 23), (v.toNat, 17), (b.toNat, 11), (i.toNat, 5), (t.toNat, 2), (f.toNat, 1), (o.toNat, 0)]
  | .st _ v b i t o => packFields [(0x71, 23), (v.toNat, 17), (b.toNat, 11), (i.toNat, 5), (t.toNat, 2), (o.toNat, 0)]
  | .ldl _ v b i t w o => packFields [(0x72, 23), (v.toNat, 17), (b.toNat, 11), (i.toNat, 5), (t.toNat, 2), (w.toNat, 1), (o.toNat, 0)]
  | .stl _ v b i t w o => packFields [(0x73, 23), (v.toNat, 17), (b.toNat, 11), (i.toNat, 5), (t.toNat, 2), (w.toNat, 1), (o.toNat, 0)]
  | .ldu _ v b t f o => packFields [(0x74, 23), (v.toNat, 17), (b.toNat, 11), (t.toNat, 2), (f.toNat, 1), (o.toNat, 0)]
  | .stu _ v b t o => packFields [(0x75, 23), (v.toNat, 17), (b.toNat, 11), (t.toNat, 2), (o.toNat, 0)]
  | .atom _ v b i c o => packFields [(0x76, 23), (v.toNat, 17), (b.toNat, 11), (i.toNat, 5), (c.toNat, 1), (o.toNat, 0)]
  | .cas _ v b i w o => packFields [(0x77, 23), (v.toNat, 17), (b.toNat, 11), (i.toNat, 5), (w.toNat, 1), (o.toNat, 0)]
  | .red _ v b i c o => packFields [(0x78, 23), (v.toNat, 17), (b.toNat, 11), (i.toNat, 5), (c.toNat, 1), (o.toNat, 0)]
  | .redHome _ v b i c o => packFields [(0x78, 23), (1, 4), (v.toNat, 17), (b.toNat, 11), (i.toNat, 5), (c.toNat, 1), (o.toNat, 0)]
  | .atoml _ v b i c => packFields [(0x79, 23), (v.toNat, 17), (b.toNat, 11), (i.toNat, 5), (c.toNat, 1)]
  | .redl _ v b i c => packFields [(0x7A, 23), (v.toNat, 17), (b.toNat, 11), (i.toNat, 5), (c.toNat, 1)]
  | .fenceAcq _ => packFields [(0x7B, 23)]
  | .fenceRel _ => packFields [(0x7B, 23), (1, 0)]
  | .fenceSc _ => packFields [(0x7B, 23), (2, 0)]
  | .cfence _ => packFields [(0x7C, 23)]
  | .publish _ => packFields [(0x7D, 23)]
  | .prefetch _ b i f => packFields [(0x7E, 23), (b.toNat, 11), (i.toNat, 5), (f.toNat, 1)]
  | .lock _ v b i => packFields [(0x7F, 23), (v.toNat, 17), (b.toNat, 11), (i.toNat, 5)]
  | .unlock _ v b i => packFields [(0x7F, 23), (1, 1), (v.toNat, 17), (b.toNat, 11), (i.toNat, 5)]
  | .stashMap _ d a b => packFields [(0x80, 23), (d.toNat, 17), (a.toNat, 11), (b.toNat, 5)]
  | .stashUnmap _ a => packFields [(0x80, 23), (1, 0), (a.toNat, 11)]
  | .ldp _ v b i t x => packFields [(0x81, 23), (v.toNat, 17), (b.toNat, 11), (i.toNat, 5), (t.toNat, 2), (x.toNat, 1)]
  | .stp _ v b i t x => packFields [(0x82, 23), (v.toNat, 17), (b.toNat, 11), (i.toNat, 5), (t.toNat, 2), (x.toNat, 1)]
  | .acopy _ d a b => packFields [(0x90, 23), (d.toNat, 17), (a.toNat, 11), (b.toNat, 5)]
  | .axform _ d a b => packFields [(0x91, 23), (d.toNat, 17), (a.toNat, 11), (b.toNat, 5)]
  | .agather _ d a b => packFields [(0x92, 23), (d.toNat, 17), (a.toNat, 11), (b.toNat, 5)]
  | .bclose _ => packFields [(0x93, 23)]
  | .waitb _ n => packFields [(0x94, 23), (n.toNat, 0)]
  | .hwaitFull _ h => packFields [(0x95, 23), (h.toNat, 0)]
  | .hwaitFree _ h => packFields [(0x95, 23), (1, 5), (h.toNat, 0)]
  | .hsetDrain _ h => packFields [(0x96, 23), (h.toNat, 0)]
  | .hsetFree _ h => packFields [(0x96, 23), (1, 5), (h.toNat, 0)]
  | .wptr _ d h => packFields [(0x97, 23), (d.toNat, 17), (h.toNat, 0)]
  | .bar _ => packFields [(0x98, 23)]
  | .cbar _ => packFields [(0x99, 23)]
  | .nbar _ count coreScope id => packFields [(0x9A, 23), (count.toNat, 5), (coreScope.toNat, 4), (id.toNat, 0)]
  | .signal _ a b o => packFields [(0x9B, 23), (a.toNat, 11), (b.toNat, 5), (o.toNat, 0)]
  | .softintQ _ a b => packFields [(0x9C, 23), (a.toNat, 11), (b.toNat, 5)]
  | .softintM _ b => packFields [(0x9C, 23), (1, 0), (b.toNat, 5)]
  | .waits _ d a b c => packFields [(0x9D, 23), (d.toNat, 17), (a.toNat, 11), (b.toNat, 5), (c.toNat, 0)]
  | .mjob _ a => packFields [(0xA0, 23), (a.toNat, 11)]
  | .mwait _ m => packFields [(0xA1, 23), (m.toNat, 0)]
  | .mwaitAll _ => packFields [(0xA1, 23), (1, 8)]
  | .mzero _ m => packFields [(0xA2, 23), (m.toNat, 0)]
  | .mldaTile _ d a => packFields [(0xA3, 23), (d.toNat, 17), (a.toNat, 11)]
  | .mldaGlobal _ d a c => packFields [(0xA3, 23), (1, 0), (d.toNat, 17), (a.toNat, 11), (c.toNat, 1)]
  | .mstaTile _ d a b n => packFields [(0xA4, 23), (d.toNat, 17), (a.toNat, 11), (b.toNat, 5), (n.toNat, 4)]
  | .mstaGlobal _ d a b n c => packFields [(0xA4, 23), (1, 0), (d.toNat, 17), (a.toNat, 11), (b.toNat, 5), (n.toNat, 4), (c.toNat, 1)]
  | .mstreamSub _ a => packFields [(0xA5, 23), (a.toNat, 11)]
  | .mstreamUnsub _ a => packFields [(0xA5, 23), (1, 0), (a.toNat, 11)]
  | .visemit _ d a lka b => packFields [(0xA8, 23), (1, 0), (d.toNat, 17), (a.toNat, 11), (lka.toNat, 9), (b.toNat, 3)]
  | .ldcl _ v b i t f => packFields [(0xA9, 23), (v.toNat, 17), (b.toNat, 11), (i.toNat, 5), (t.toNat, 2), (f.toNat, 1)]
  | .tex _ d a lka b => packFields [(0xAA, 23), (1, 0), (d.toNat, 17), (a.toNat, 11), (lka.toNat, 9), (b.toNat, 3)]
  | .texfb _ d a lka b => packFields [(0xAB, 23), (1, 0), (d.toNat, 17), (a.toNat, 11), (lka.toNat, 9), (b.toNat, 3)]
  | .rtrace _ d a lka b => packFields [(0xAC, 23), (1, 0), (d.toNat, 17), (a.toNat, 11), (lka.toNat, 9), (b.toNat, 3)]
  | .rquery _ d a lka b => packFields [(0xAD, 23), (1, 0), (d.toNat, 17), (a.toNat, 11), (lka.toNat, 9), (b.toNat, 3)]
  | .rtcont _ d o => packFields [(0xAE, 23), (d.toNat, 17), (o.toNat, 0)]
  | .hsort _ d a lka => packFields [(0xAF, 23), (d.toNat, 17), (a.toNat, 11), (lka.toNat, 9)]
  | .rpix _ op tgt a lka b lkb => packFields [(0xB0, 23), (op.toNat, 19), (tgt.toNat, 17), (a.toNat, 11), (lka.toNat, 9), (b.toNat, 3), (lkb.toNat, 1)]
  | .visrd _ d smp => packFields [(0xB1, 23), (d.toNat, 17), (smp.toNat, 0)]
  | .visrdPix _ d a lka smp => packFields [(0xB1, 23), (1, 2), (d.toNat, 17), (a.toNat, 11), (lka.toNat, 9), (smp.toNat, 0)]
  | .cpost _ a b => packFields [(0xB8, 23), (a.toNat, 11), (b.toNat, 5)]
  | .cred _ a b => packFields [(0xB9, 23), (a.toNat, 11), (b.toNat, 5)]
  | .cwait _ d a t => packFields [(0xBA, 23), (d.toNat, 17), (a.toNat, 11), (t.toNat, 0)]
  | .cjoin _ d a => packFields [(0xBB, 23), (d.toNat, 17), (a.toNat, 11)]
  | .cjoinLeave _ a => packFields [(0xBB, 23), (1, 0), (a.toNat, 11)]
  | .trapI _ c => packFields [(0xC0, 23), (c.toNat, 0)]
  | .rti _ => packFields [(0xC1, 23)]
  | .bkpt _ c => packFields [(0xC2, 23), (c.toNat, 0)]
  | .sysrd _ d i => packFields [(0xC3, 23), (d.toNat, 17), (i.toNat, 0)]
  | .syswr _ a i => packFields [(0xC4, 23), (a.toNat, 11), (i.toNat, 0)]
  | .tmask _ m => packFields [(0xC5, 23), (m.toNat, 0)]
  | .tlbinvPage _ d a => packFields [(0xC6, 23), (d.toNat, 17), (a.toNat, 11)]
  | .tlbinvRange _ d a b => packFields [(0xC6, 23), (1, 0), (d.toNat, 17), (a.toNat, 11), (b.toNat, 5)]
  | .tlbinvSpace _ d a => packFields [(0xC6, 23), (2, 0), (d.toNat, 17), (a.toNat, 11)]
  | .lichenEmulation _ _ _ _ => 0
  | .resultReturn _ _ => 0
  | .homeRequest _ => 0
  | .performedAtHome _ => 0
  | .stashRecall _ _ _ _ => 0
  | .updateLineRecall _ _ => 0
  | .holderInvalidation _ _ => 0
  | .taggedWriteReturned _ _ => 0
  | .promotionRetire _ _ => 0
  | .promotionQuery _ _ _ => 0
  | .promotionAnswer _ _ _ _ => 0
  | .l1LeaseExpiry _ _ => 0
  | .migrationStart _ _ => 0
  | .migrationSwitch _ => 0
  | .migrationReturnStart _ => 0
  | .migrationReturnComplete _ => 0
  | .ownershipPoint _ _ => 0
  | .shootdownCoreComplete _ => 0
  | .copyAccepted _ _ => 0
  | .copyDeliver _ _ => 0
  | .activeSetEntry _ _ => 0
  | .activeBound _ _ => 0
  | .warpExit _ _ => 0
  | .blockKill _ _ => 0
  | .qtail _ _ => 0
  | .qwake _ => 0
  | .preempt _ => 0
  | .resume _ => 0
  | .kill _ => 0
  | .clear _ => 0
  | .passopen _ _ => 0
  | .registerWrite _ _ => 0
  | .launchStart _ => 0
  | .waitItemPoll _ => 0
  | .waitsPoll _ _ => 0
  | .placementPass => 0
  | .launchComplete _ => 0
  | .jobStep _ _ => 0
  | .streamBlockFetch _ _ => 0
  | .rayTraversalStep _ _ _ => 0
  | .faultRespPoll _ _ => 0
  | .trapQueuePoll _ => 0
  | .endOfDrawToken _ _ => 0
  | .tokenArrival _ _ _ => 0
  | .frondPacketArrival _ _ => 0
  | .flushAreaMove => 0
  | .tileLaunch _ _ _ => 0
  | .passComplete _ => 0
  | .joinRequest _ _ _ _ => 0
  | .joinReply _ _ => 0
  | .openFlit _ _ _ => 0
  | .frameClose _ => 0
  | .collectivePacket _ => 0
  | .closeFlit _ _ => 0
  | .frameComplete _ _ _ => 0
  | .lateNotice _ _ => 0
  | .settledBlockDown _ _ _ _ => 0
  | .verticalBlank _ => 0
  | .rdmaRead _ _ _ _ => 0
  | .rdmaWrite _ _ _ _ => 0
  | .rdmaFetchAdd _ _ _ _ => 0
  | .rdmaCmpSwap _ _ _ _ _ => 0
  | .fabricLeaseRenewal _ => 0
  | .fabricLeaseExpiry => 0
  | .fanoutTimeout _ _ => 0
  | .reroute _ _ => 0
  | .nodeDeclaredFailed _ => 0
  | .failureNotice => 0
  | .dieLinkFailure _ => 0
  | .patchActivation => 0
  | .relocation _ _ _ => 0
  | .coreDump _ => 0
  | .reset => 0
  | .recoveryRetry => 0
  | .recoveryReadComplete _ => 0
  | .keyload _ => 0
  | .keyunload _ => 0
  | .patch _ => 0
  | .withdraw => 0
  | .attest _ _ => 0
  | .scanout _ _ => 0
  | .dumpwin _ => 0
  | .stateread _ _ _ => 0
  | .softError _ => 0
  | .droop _ => 0
  | .thermalStepDown _ => 0
  | .overtempStop => 0
  | .tempoBoundary _ => 0
  | .illegalInstruction _ _ => 0
  | .instructionFetchFault _ _ => 0
  | .invalidationAcknowledgement _ _ _ => 0
  | .rookPortLinkFailure _ => 0
  | .thermalRecovery _ => 0
  | .droopRecovery _ => 0

/-- The base word of an instruction with an encoding. -/
def encodeBase (i : Instr) : Word := BitVec.ofNat 32 (bitNat i.grp.sw * 2 ^ 31 + encodeFields i)

/-- The words of an instruction group: its hints, then its base word (R194). An event has no encoding and no words. -/
def encode (i : Instr) : List Word :=
  match i.opcode with
  | none => []
  | some _ => encodeHints i.grp ++ [encodeBase i]

end Sys2Proof
end

