-- ==== Sys2Proof/Machine/State.lean ====
section
/-! DEFINITION. The state of the machine as plain data, unit by unit, and its value after reset. -/

namespace Sys2Proof.Machine

/-- Bytes by address, in canonical form: addresses strictly rising, no byte equal to what an unlisted address reads as. -/
abbrev Memory := List Host.Cell

/-- Bytes held over a home copy, by address, strictly rising; a byte that equals zero is listed like any other (R75, R77). -/
abbrev Overlay := List Host.Cell

/-- Why the machine stops: nothing does. Every trap of the spec is taken, every kill ends a block, and the machine goes on. -/
inductive Fault where
  deriving DecidableEq, Repr

/-- Why the machine refuses an instruction. -/
inductive Refusal where
  /-- The instruction has no meaning in this model yet; only arms of `exec` answer so. Safe: nothing is claimed. -/
  | notModelled (mnemonic : String)
  deriving DecidableEq, Repr

/-! ## Translations -/

/-- A leaf found by a walk: the entry, its level, the entry's physical address (R18, R24). -/
structure Leaf where
  e : Dword
  level : Nat
  at_ : Nat
  deriving DecidableEq, Repr

/-- A translation that a core's TLBs hold (R22, R42): its SPACE, the first byte and the size of its page, and the leaf with the A and D
that it was installed with. -/
structure TlbEntry where
  space : Nat
  va : Nat
  bytes : Nat
  leaf : Leaf
  deriving DecidableEq, Repr

/-! ## Threads, warps and blocks -/

/-- A hit of a ray (R345): the key (t, INSTID, PRIMID), and u and v. -/
structure Hit where
  t : Word := 0
  inst : Word := 0
  prim : Word := 0
  u : Word := 0
  v : Word := 0
  deriving DecidableEq, Repr

/-- Where a ray stands (R346, R347, R349). -/
inductive RayStatus where
  | running | candidate | faulted (resp : Nat) (t : Trap) (polled : Nat) | queueFull (t : Trap)
  deriving DecidableEq, Repr

/-- A node to visit and the instance node whose subtree holds it, or 0 (R348). -/
structure Visit where
  node : Dword
  inst : Dword := 0
  deriving DecidableEq, Repr

/-- The ray of a lane, running or suspended (R345 to R350). `regs` are its operand words. `todo` holds the leaf blocks (2) and
instance nodes (3) to read, `stack` the interior nodes on chip, newest first, `spilled` counts the entries in the private
segment; `xform` is the instance last read and its 13 words; `found` the hits not yet looked at and whether they are opaque;
`best` the accepted hit, `current` the candidate; `items` the least matches of a query, `count` their number. -/
structure Ray where
  query : Option (BitVec 2) := none
  k : Nat := 1
  dst : Nat
  cand : Bool := false
  first : Bool := false
  regs : List Word
  todo : List (BitVec 2 × Visit) := []
  stack : List Visit
  spilled : Nat := 0
  xform : Option (Dword × List Word) := none
  found : List (Hit × Bool) := []
  best : Option Hit := none
  current : Option Hit := none
  items : List (Int × Word) := []
  count : Nat := 0
  status : RayStatus := .running
  deriving DecidableEq, Repr

/-- What travels with a thread (R82, R351): its index in the block, its touched set as the widest domain (R98), the
domain of the FENCE.REL span it is in (R98), its pending promotion set and drained flag (R97), its ray. -/
structure Thread where
  tid : Nat := 0
  touched : Option Domain := none
  span : Option Domain := none
  pending : List Token := []
  drained : Bool := false
  ray : Option Ray := none
  deriving DecidableEq, Repr

/-- A barrier a lane is parked at (R282, R283). -/
inductive BarId where
  | bar | block (id : BitVec 4) | core (id : BitVec 4)
  deriving DecidableEq, Repr

/-- What a warp waits for (R168, R169). -/
inductive Wait where
  /-- It waits for nothing. -/
  | none
  /-- An ordering operation of these lanes waits until their earlier writes are performed (R90). -/
  | order (m : Mask)
  /-- An acquire of these lanes waits for release tokens (R97). -/
  | promote (m : Mask)
  /-- Parked at a switch until its results have landed (R169). -/
  | results
  /-- It gave up its lane set with YIELD and is ready (R169). -/
  | yield
  /-- The group is issued again: what it needed (a performed write, a queue entry, a lane's ray) was not there. -/
  | retry
  | cbar
  | hsort
  /-- WAITS on a word at this place (R286): node of a remote home and address; the condition and the comparand. -/
  | signal (node : Option Nat) (pa : Nat) (key : Nat) (cond : BitVec 2) (cmp : Dword) (polled : Nat)
  /-- It waits until at most `n` batches of the block are outstanding (R127), or one fewer than the limit (R126). -/
  | batch (n : Nat)
  | handleFull (h : Nat)
  | handleFree (h : Nat)
  | handleDrain (h : Nat)
  /-- A copy that waits for its handle (R129). -/
  | copyHandle (h : Nat)
  /-- A copy that waits for room in its channel, or a close that waits for a batch to retire (R116, R126). -/
  | copyRoom
  | matrix (mask : Byte) (all : Bool)
  | jobEntry
  | tlbinv
  /-- The geometry front end has no room for the packets of a VISEMIT (R322, R324). -/
  | frontEnd
  /-- A service fault awaits RESP at this physical address (R391), with the trap to raise again. -/
  | resp (pa : Nat) (t : Trap) (polled : Nat)
  /-- The trap queue is full (R389): the record waits. -/
  | trapQueue (t : Trap)
  | collWait (slot : Nat) (frame : Word)
  | collPost
  | collJoin (slot : Nat)
  deriving DecidableEq, Repr

/-- A microprogram in progress, of an MCALL or an emulation sequence (R221, R376): its slot, its parameters, the executing
lanes of its operations, those of the calling group and the address after it, the operation index, whether it is an
emulation, the rounding and saturation the emulated group gives (R375), its repetitions, and the warp's registers and
state as they were, which a trap restores (R223). -/
structure Micro where
  slot : Nat
  params : Nat × Nat × Nat
  exec : Mask
  caller : Mask
  after : Dword
  sw : Bool
  tmask : Bool := false
  op : Nat := 0
  /-- The operations that the group being performed takes, its hints with it; 0 when it was not fetched. -/
  len : Nat := 0
  emulated : Bool := false
  mods : Option HMod := none
  rep : Nat := 0
  reps : Nat := 1
  strides : Nat × Nat × Nat := (0, 0, 0)
  partw : BitVec 3
  v : Vector LaneVec 64
  p : Vector Mask 7
  s : Vector Dword 64
  t : Vector (BitVec 128) 8
  acc : List (Vector Word 2048)
  deriving DecidableEq, Repr

/-- What the replay of a group keeps (R188, R377, R388): the group's address, the microprogram operation, the repetitions of
the operation and of the emulation it starts from, the lanes performed and the values they returned. -/
structure Resume where
  pc : Dword
  op : Nat := 0
  rep : Nat := 0
  mrep : Nat := 0
  done : Mask := 0
  kept : Vector Dword 32 := Vector.replicate 32 0
  /-- The read-modify-writes of a microprogram's operation that were performed before a trap discarded its registers: the operation, the lanes
  and their old values (R223, R388). -/
  rmw : Option (Nat × Mask × Vector Dword 32) := none
  /-- Late faults that queued read-modify-writes of lanes have met at their homes (R388). -/
  late : List (Nat × Trap) := []
  deriving DecidableEq, Repr

/-- A warp: its context image (R31, R32) and what the warp slot, the ray unit and the barrier unit hold of it. -/
structure Warp where
  present : Bool := false
  slot : Nat := 0
  bslot : Nat := 0
  launch : Word := 0
  block : Word := 0
  idx : Nat := 0
  wait : Wait := .none
  preempted : Bool := false
  tmask : Bool := false
  inhdl : Bool := false
  /-- The running handler is the system handler, and runs in supervisor mode (R392). -/
  sysHdl : Bool := false
  partw : BitVec 3 := 5
  memrev : Bool := true
  supv : Bool := false
  genReg : BitVec 8 := 0
  genAcc : BitVec 8 := 0
  live : Mask := 0
  barpark : Mask := 0
  parkAt : Vector BarId 32 := Vector.replicate 32 .bar
  vgran : Nat := 1
  nacc : Nat := 0
  lpc : Vector Dword 32 := Vector.replicate 32 0
  /-- The interrupted lpc that RTI restores (R392, R393). -/
  slpc : Vector Dword 32 := Vector.replicate 32 0
  v : Vector LaneVec 64 := Vector.replicate 64 (Vector.replicate 32 0)
  p : Vector Mask 7 := Vector.replicate 7 0
  s : Vector Dword 64 := Vector.replicate 64 0
  t : Vector (BitVec 128) 8 := Vector.replicate 8 0
  /-- a0 to a(NACC - 1), each 64 rows of 32 F32 elements (R293). -/
  acc : List (Vector Word 2048) := []
  /-- The handler scratch area: 16 words of 32 lanes (R31). -/
  scratch : Vector LaneVec 16 := Vector.replicate 16 (Vector.replicate 32 0)
  threads : Vector Thread 32 := Vector.ofFn fun l => { tid := l.val }
  ctxBase : Dword := 0
  /-- The completion mask of the group (R388), and that of the group a handler interrupted. -/
  resume : Option Resume := none
  sresume : Option Resume := none
  /-- A failed store merge that an ordering operation waited for (R80). -/
  failed : Option Trap := none
  /-- The delivered base word and the hints of the group being performed (R378). -/
  base : Option Word := none
  grp : Grp := {}
  tcause : Dword := 0
  tpc : Dword := 0
  taddr : Dword := 0
  tlanes : Dword := 0
  /-- The group that waits, its executing lanes (R140), and whether what it waited for has come (R129, R169). -/
  parked : Option Instr := none
  held : Mask := 0
  woken : Bool := false
  /-- The group being performed makes its warp pending when it ends (R169). -/
  leaves : Bool := false
  /-- Its vector registers and accumulators have left for the context image (R48). -/
  away : Bool := false
  /-- An RTI from a handler of trap 0x3F replays the group once without watch and breakpoint checks (R429). -/
  skipWatch : Bool := false
  micro : Option Micro := none
  stalls : Vector Word 16 := Vector.replicate 16 0
  /-- The instruction buffer: words fetched since the last CFENCE, by address, oldest first (R43 to R45, R107, R276). -/
  ibuf : List (Dword × Word) := []
  /-- The previous group's executing set, for the trace (R431). -/
  lastExec : Mask := 0
  /-- The clock from which the warp has been ready (R168). -/
  readyAt : Nat := 0
  /-- The core clocks since it last issued, in which it was active and could issue (R171). -/
  starved : Nat := 0
  /-- Matrix failures not yet raised at an MWAIT: the accumulators the job names and the trap (R306). -/
  jobFails : List (Byte × Trap) := []
  deriving DecidableEq, Repr

/-- One buffer handle (R128). -/
structure Handle where
  state : BitVec 2 := 0
  err : Option Trap := none
  chan : BitVec 2 := 0
  kind : BitVec 2 := 0
  len : Nat := 0
  deliv : Nat := 0
  waitF : Mask := 0
  waitE : Mask := 0
  deriving DecidableEq, Repr

/-- One named barrier (R283): whether a phase is open, its count and the participants that exited since; the arrivals are
the warps or blocks whose live lanes are all parked at it. -/
structure Phase where
  isOpen : Bool := false
  count : Nat := 0
  dropped : Nat := 0
  deriving DecidableEq, Repr

/-- A resident block (R138). Batches are numbered in closing order: `openNo` is the open batch, those below `retired`
have retired. -/
structure Block where
  bslot : Nat
  launch : Word
  index : Word
  rank : Nat := 0
  lsBytes : Nat := 0
  local_ : Memory := []
  genLS : BitVec 8 := 0
  handles : Vector Handle 32 := Vector.replicate 32 {}
  openNo : Nat := 0
  openUsed : Bool := false
  retired : Nat := 0
  batchFails : List (Nat × Trap) := []
  nbar : Vector Phase 16 := Vector.replicate 16 {}
  preempted : Bool := false
  resumable : Bool := false
  start : Dword := 0
  /-- Its number in the order of block placement (R171). -/
  age : Nat := 0
  stalls : Vector Word 16 := Vector.replicate 16 0
  deriving DecidableEq, Repr

/-! ## The core -/

/-- A line of the L1 (R57): its domain tag, its fill time, the tokens it came with (R97). -/
structure L1Line where
  id : LineId
  priv : Bool := false
  dom : Domain
  data : BitVec 512
  key : Nat := 0
  filled : Nat
  tokens : List Token := []
  drained : Bool := false
  /-- How it was filled (R262): 1 .STREAM, 2 .RETAIN, 0 otherwise. -/
  pol : BitVec 2 := 0
  deriving DecidableEq, Repr

/-- One updated element of an update-only line (R61, R62). `acc` is the integer, the F32 of a maximum, or the exact sum
in units of 2^-149. -/
structure Elem where
  idx : Nat
  acc : Int
  nan : Bool := false
  pinf : Bool := false
  ninf : Bool := false
  negZero : Bool := false
  count : Nat := 1
  deriving DecidableEq, Repr

/-- An update-only line (R61 to R64), with the release tag its latest tagged update took (R97). -/
structure UpdLine where
  line : Nat
  /-- A virtual address of it and the size of its page (R63). -/
  va : Nat := 0
  page : Nat := 0x10000
  key : Nat
  cfmt : BitVec 3
  elems : List Elem
  launch : Word
  block : Word := 0
  warp : Nat := 0
  tag : Option (BitVec 16) := none
  /-- The other launches whose updates it holds (R63). -/
  others : List Word := []
  deriving DecidableEq, Repr

/-- A stash map entry (R52) and the states of its lines (R54), by line of the mapping: 0 EMPTY, 1 SHARED, 2 CLEAN,
3 DIRTY. A line not listed is EMPTY. `pa` is the physical line a filled stash line came from. -/
structure StashLine where
  n : Nat
  /-- The size of the page it was translated through (R56). -/
  page : Nat := 0x10000
  state : BitVec 2
  pa : Nat
  key : Nat
  /-- The leaf it was translated through, whose D the first write to it sets (R22). -/
  leaf : Option Leaf := none
  deriving DecidableEq, Repr

structure Stash where
  entry : Nat
  rw : Bool
  bslot : Nat
  loff : Nat
  len : Nat
  gva : Dword
  lines : List StashLine := []
  deriving DecidableEq, Repr

/-- Where an engine operation stands: running, suspended on a fault record (R131, R304), or waiting for trap-queue room. -/
inductive EngStatus where
  | running
  | faulted (resp : Nat) (t : Trap) (polled : Nat)
  | queueFull (t : Trap)
  deriving DecidableEq, Repr

/-- A destination line that an engine owns (R104), with its virtual address and the size of its page. -/
structure Owned where
  id : LineId
  va : Nat
  page : Nat
  deriving DecidableEq, Repr

/-- An accepted copy (R116 to R125, R133). `bslot` is none once it is detached. `genLS` tags a local destination. -/
structure Copy where
  /-- Its number in the core's acceptance order (R116). -/
  no : Nat := 0
  chan : BitVec 2
  kind : BitVec 2
  dst : Dword
  src : Dword
  w0 : Dword
  w1 : Dword := 0
  len : Nat
  deliv : Nat := 0
  owned : Bool := false
  /-- The destination lines it owns and has not yet written (R104). -/
  lines : List Owned := []
  /-- The element of a gather of which only a part is delivered, and its index word (R121). -/
  elem : Option (Nat × Nat) := none
  handle : Option (BitVec 5) := none
  batch : Nat
  bslot : Option Nat
  genLS : BitVec 8
  launch : Word
  block : Word
  rank : Nat
  warp : Nat
  supv : Bool
  status : EngStatus := .running
  /-- The watches that have reported it (R430). -/
  watched : List Nat := []
  /-- The local store of its block as it was when the copy was detached, and its size (R133, R152, R153). -/
  snap : Memory := []
  snapBytes : Nat := 0
  deriving DecidableEq, Repr

/-- What a matrix instruction does (R298, R308 to R310): a card's walk, a zeroing, a load, a store. -/
inductive JobKind where
  | card (words : Vector Dword 16)
  | zero (mask : Byte)
  | load (a : Nat) (base pitch : Dword) (fmt : Nat)
  | store (a : Nat) (base pitch : Dword) (fmt : Nat) (scale : Option Word) (rnd : BitVec 3) (sat : Bool)
  deriving DecidableEq, Repr

/-- An entry of the job table (R293) with its progress register (R303, R304). `order` is the issue order of the warp. -/
structure Job where
  entry : Nat
  slot : Nat
  order : Nat
  kind : JobKind
  accs : Byte
  genAcc : BitVec 8
  launch : Word
  block : Word
  warp : Nat
  idx : Vector Nat 5 := Vector.replicate 5 0
  row : Nat := 0
  /-- The rows of the step staged so far, each its elements' bytes and its scale byte (R304). -/
  staged : List (List Byte × Byte) := []
  /-- The accumulator of a store that outlives its warp (R152). -/
  snap : Option (Vector Word 2048) := none
  status : EngStatus := .running
  watched : List Nat := []
  deriving DecidableEq, Repr

/-- A variable-latency result on its way back to a register (R147, R169), and the clock at which it was issued: the results of one group share
it. -/
structure Return where
  dest : RetDest
  value : Dword
  issued : Nat := 0
  deriving DecidableEq, Repr

/-- A core: its resident blocks and warps, its caches, its engines and its counters. -/
structure Core where
  id : Nat
  warps : List Warp := []
  blocks : List Block := []
  /-- The translations that the core's TLBs hold (R42, R43). -/
  tlb : List TlbEntry := []
  l1 : List L1Line := []
  upd : List UpdLine := []
  stash : List Stash := []
  copies : List Copy := []
  /-- The copies accepted so far (R116). -/
  copyNo : Nat := 0
  jobs : List Job := []
  jobOrder : Nat := 0
  returns : List Return := []
  relEpoch : BitVec 16 := 0
  drEpoch : BitVec 16 := 0
  nbar : List (Word × BitVec 4 × Phase) := []
  /-- Control-store slots 0 to 47 (R218), of the launch that last loaded them (R220). -/
  micro : List (Nat × Vector Dword 32) := []
  microOwner : Option Word := none
  /-- The eight lane sets: the active warp's slot and the core's clock, in fortieths, at which it took the set (R145, R168, R170). -/
  active : Vector (Option (Nat × Nat)) 8 := Vector.replicate 8 none
  /-- Generation tags of slots that hold no warp or block (R147). -/
  gens : List (Nat × BitVec 8 × BitVec 8) := []
  genLSs : List (Nat × BitVec 8) := []
  dropret : Word := 0
  abandlk : Word := 0
  /-- Bytes written to the trace segment (R431). -/
  trwr : Nat := 0
  /-- Where the latest packet began, in bytes written. -/
  trLast : Option Nat := none
  deriving DecidableEq, Repr

/-! ## Launches, queues and placement -/

/-- One valid entry of the region table (R35). `base` is the first byte, sign-extended, as a natural number below 2^64. -/
structure Region where
  idx : Nat
  dom : Domain
  cfmt : BitVec 3
  fresh : Bool
  own : Bool
  pub : Bool
  base : Nat
  bytes : Nat
  deriving DecidableEq, Repr

/-- The fields of a launch packet (R159). -/
structure Packet where
  memrev : Bool := true
  aff : BitVec 3 := 0
  ord : Bool := false
  cores : BitVec 2 := 0
  ntid : Nat := 1
  coh : Nat := 1
  vgran : Nat := 1
  nacc : Nat := 0
  lsg : Nat := 0
  entry : Dword := 0
  args : Dword := 0
  gx : Nat := 1
  gy : Nat := 1
  gz : Nat := 1
  ext : Dword := 0
  handler : Dword := 0
  donesig : Dword := 0
  privsz : Nat := 0
  privb : Dword := 0
  deriving DecidableEq, Repr

/-- A subscriber of an operand stream (R311, R312): its core, block slot and warp, its window in blocks, and the blocks it
has consumed. -/
structure Subscriber where
  core : Nat
  bslot : Nat
  warp : Nat
  window : Nat
  used : Nat := 0
  deriving DecidableEq, Repr

/-- A block of a stream: its number, the address its fetch named, its rows as a job stages them (R304, R312). -/
structure StreamBlock where
  n : Nat
  addr : Dword
  rows : List (List Byte × Byte)
  deriving DecidableEq, Repr

/-- An operand stream of a cohort (R311, R312): its cluster, the count it is open for, its subscribers, and the blocks
fetched and not yet retired. -/
structure Stream where
  cohort : Nat
  id : Nat
  cluster : Nat
  count : Nat
  subs : List Subscriber := []
  fetched : List StreamBlock := []
  deriving DecidableEq, Repr

/-- A private publication line of a launch (R77): its number, a remote home's lines above 2^58, its key id, and who stored to it last, by
virtual address, block and warp, as a failed merge is reported (R80). -/
structure PubLine where
  line : Nat
  key : Nat
  va : Dword := 0
  block : Word := 0
  warp : Nat := 0
  deriving DecidableEq, Repr

/-- A running launch: its packet and extension (R159, R160), what the queue's descriptor gave it (R154), its regions
(R36), its progress in placement (R164) and its publication lines (R77). -/
structure Launch where
  id : Word
  q : Nat
  pkt : Packet
  micro : Dword := 0
  aclu : Nat := 0
  mask : BitVec 128 := 0
  xrow : BitVec 96 := 0
  ptroot : Dword := 0
  regtab : Dword := 0
  trapq : Dword := 0
  sup : Bool := false
  pre : Bool := false
  pvic : Bool := false
  prio : Nat := 0
  nimg : Nat := 1
  ctxpool : Dword := 0
  gen : Word := 0
  regions : List Region := []
  nextCohort : Nat := 0
  /-- Blocks that have exited or been killed. -/
  finished : Nat := 0
  /-- The broken cohorts (R153). -/
  broken : List Nat := []
  draw : Option Word := none
  pass : Option Nat := none
  /-- The die a tile's block goes to (R337). -/
  die : Option Nat := none
  /-- Killed: no further cohort is placed (R155). -/
  killed : Bool := false
  pub : Overlay := []
  /-- Private publication lines, oldest first (R77). -/
  pubLines : List PubLine := []
  streams : List Stream := []
  deriving DecidableEq, Repr

/-- A pass of a queue (R335, R336): its descriptor, its launch packet and the tiles launched and exited. -/
structure Pass where
  q : Nat
  desc : Vector Dword 24
  launch : Option Word := none
  first : Word
  last : Word
  tw : Nat
  th : Nat
  samp : Nat
  clear : Bool
  shadeAll : Bool
  msbase : Dword
  clearz : Word
  targets : Vector (Dword × Nat × Nat) 4
  /-- The tiles that have been cleared, and those launched or skipped. -/
  cleared : List (Nat × Nat) := []
  done : List (Nat × Nat) := []
  /-- The tiles for which a record read has faulted (R332), and the meshlets whose record could not be served. -/
  faults : List ((Nat × Nat) × EngStatus) := []
  lost : List Nat := []
  deriving DecidableEq, Repr

/-- A queue that has been set up: its descriptor (R154), its register page (R155) and pass page (R334). -/
structure Queue where
  q : Nat
  desc : Vector Dword 8 := Vector.replicate 8 0
  qtail : Dword := 0
  qhead : Dword := 0
  lasterr : Byte := 0
  tailerr : Bool := false
  stopped : Bool := false
  passcount : Dword := 0
  /-- When the waiting item was last tested (R161). -/
  polled : Nat := 0
  /-- The waiting item is to be tested again at once (R161). -/
  prompt : Bool := false
  /-- The signal word of the waiting item: node of a remote home and address (R161). -/
  waitOn : Option (Option Nat × Nat) := none
  /-- A home could not serve its latest test, which is tried again from this clock on. -/
  retryAt : Nat := 0
  /-- The item's condition has held, and its acquire waits for these release tokens (R95, R97). -/
  tokens : List Token := []
  deriving DecidableEq, Repr

/-- A completion signal that is to rise (R159, R161, R336): the translation it is made through, the launch, and the word's address. -/
structure DoneSig where
  launch : Word
  ptroot : Dword
  sup : Bool
  regions : List Region := []
  va : Dword
  deriving DecidableEq, Repr

/-- A record that is to be written: a trap record waits for room in its queue (R389), and the unit that waits with it; a block record does not
(R428). -/
structure PendingRecord where
  trapq : Nat
  bytes : List Byte
  core : Nat := 0
  unit : Option FaultUnit := none
  block : Bool := false
  /-- The clock at which the queue was last found full. -/
  tried : Option Nat := none
  /-- The completion signal that rises once the record is written (R159). -/
  done : Option DoneSig := none
  deriving DecidableEq, Repr

/-- An entry of the inbound window table (R157). -/
structure Inbound where
  idx : Nat
  w : Vector Dword 4
  deriving DecidableEq, Repr

/-! ## Homes -/

/-- What a granule of device memory carries beside its bytes (R79, R80, R96): poison, a check value that no longer
matches, the key material it was encrypted under (none: the device key), and PROM. -/
structure Granule where
  poisoned : Bool := false
  corrupt : Bool := false
  material : Option (BitVec 512) := none
  prom : Bool := false
  deriving DecidableEq, Repr

/-- A directory entry (R68): the state (0 INV, 1 SHD, 2 EXC, 3 UPD, 4 RCL), the holders, and for a fan-out or recall in
progress the holders still awaited, the clock it began, whether their copies are only recalled for a read, and who has
been reported to the fabric manager. -/
structure DirEntry where
  line : Nat
  state : BitVec 3
  holders : List Agent := []
  awaited : List Agent := []
  since : Nat := 0
  /-- The recall is for a read: the owner keeps a read-only copy (R69). -/
  keep : Bool := false
  /-- The recall is of an exclusive owner (R113). -/
  excl : Bool := false
  reported : List Nat := []
  deriving DecidableEq, Repr

/-- A placement block that is not at home (R73): 1 MOVING, 2 AWAY, 3 RETURNING. -/
structure Placed where
  block : Nat
  state : BitVec 2
  away : BitVec 7
  since : Nat
  /-- The lines whose away copy has been written (R74). -/
  dirty : List Nat := []
  deriving DecidableEq, Repr

/-- An entry of a promotion table (R96). -/
structure Prom where
  core : Nat
  epoch : BitVec 16
  line : Nat
  deriving DecidableEq, Repr

/-- A home slice's request that waits (R69, R73, R273), with its tag (R96). -/
structure HeldReq where
  req : HomeReq
  tag : Option (BitVec 16) := none
  /-- The remote home, for a fabric-remote page. -/
  node : Option Nat := none
  /-- The lanes of the issuing warp that wait for it, and its logical issuer. -/
  lanes : Mask := 0
  launch : Word := 0
  block : Word := 0
  warpNo : Nat := 0
  va : Dword := 0
  /-- The core's release epoch at issue: it precedes every later epoch (R96). -/
  stamp : BitVec 16 := 0
  /-- A tagged write that was returned and goes again as a drained write (R96). -/
  drain : Bool := false
  /-- It is performed with respect to its core only at the home (R83): an uncached store, a read-modify-write. -/
  slow : Bool := false
  /-- An access to an uncached page (R20). -/
  unc : Bool := false
  /-- The size of its page (R43). -/
  page : Nat := 0x10000
  /-- A read-modify-write whose old value goes to this lane of its warp, and the warp's generation tag (R273, R388). -/
  lane : Option (Nat × BitVec 8) := none
  deriving DecidableEq, Repr

/-- A proxy copy of a fabric-remote line in the local last-level cache (R70), and how it was filled (R262). -/
structure Proxy where
  id : LineId
  data : BitVec 512
  pol : BitVec 2 := 0
  deriving DecidableEq, Repr

/-- The memory system: device memory, its granules, the homes' directories, promotion tables, line locks and waiting
requests. -/
structure Home where
  mem : Memory := []
  gran : List (Nat × Granule) := []
  dir : List DirEntry := []
  /-- The lines with tracked copies, least recently used first (R71). -/
  dirUse : List Nat := []
  prom : List Prom := []
  locks : List (Nat × LockKey) := []
  held : List HeldReq := []
  placed : List Placed := []
  /-- The last change of state of a placement block (R73). -/
  moved : List (Nat × Nat) := []
  /-- Proxy copies of fabric-remote lines in the local last-level cache (R70). -/
  proxies : List Proxy := []
  /-- Lines whose partials from a failed node were lost and not yet reported (R113). -/
  lost : List Nat := []
  deriving DecidableEq, Repr

/-! ## The management core and the device -/

/-- A patch set (R372, R380). -/
structure PatchSet where
  version : Word := 0
  cpres : BitVec 16 := 0
  slots : Vector (BitVec 128) 32 := Vector.replicate 32 0
  micro : Vector (Vector Dword 32) 16 := Vector.replicate 16 (Vector.replicate 32 0)
  digest : BitVec 512 := 0
  deriving DecidableEq, Repr

/-- Where the boot stands (R433, R434). -/
inductive Boot where
  | running | recovery (tries : Nat) | halted
  deriving DecidableEq, Repr

/-- The module record (R435), and what module flash holds beside it: the firmware image, the patch image, the quarantine
list. `ok` says whether a signature verifies. -/
structure Flash where
  recordOk : Bool := true
  code : Word := 2106
  sock : Vector (BitVec 2) 18 := #v[1, 1, 2, 2, 2, 2, 2, 2, 2, 2, 2, 2, 3, 3, 3, 3, 3, 3]
  clen : BitVec 36 := 0xFFFFFFFFF
  gddr : Byte := 1
  fwFloor : Word := 0
  patchFloor : Word := 0
  plimit : Nat := 7500
  raddr : BitVec 128 := 0
  rva : Dword := 0
  rkey : Word := 0
  rlen : Word := 0
  reservedZero : Bool := true
  firmware : Firmware := { sigOk := true, version := 0, bytes := [] }
  patch : Option (List Byte) := none
  badClusters : List Nat := []
  badSockets : List Nat := []
  badSlices : List (Nat × Nat) := []
  badPorts : List Nat := []
  deriving DecidableEq, Repr

/-- SYS_TEMPO of a cluster and what Tempo keeps of it (R446, R447): the claim, the boundary it was made at, the clock
step (0 4.0, 1 4.2, 2 4.4 GHz), the permit, droop, and the thermal restriction (0 none, 1 4.0 GHz, 2 below). -/
structure Tempo where
  claim : BitVec 2 := 0
  age : Option Nat := none
  step : Nat := 0
  grant : Bool := false
  droop : Bool := false
  thermal : Nat := 0
  /-- The cluster's clock (R9): the fortieths of a core clock that each clock of the timebase takes now, and how many it had counted at a clock of the timebase. -/
  rate : Nat := 40
  cycles : Nat := 0
  since : Nat := 0
  deriving DecidableEq, Repr

/-- A scan-out head (R439, R366). -/
structure Head where
  configured : Bool := false
  surf0 : Dword := 0
  surf1 : Dword := 0
  pitch : Nat := 0
  width : Nat := 0
  height : Nat := 0
  fmt : Bool := false
  hz : Nat := 0
  shown : Option Word := none
  /-- The vertical blanks so far, by the clock (R366). -/
  blanks : Nat := 0
  ready : Option Word := none
  deriving DecidableEq, Repr

/-- The management core's state (R433 to R447), the debug registers (R425) and the Lichen fabric (R372, R382). -/
structure Mgmt where
  boot : Boot := .running
  /-- The type that the descriptor of each socket's die gives, 0 with no die (R436). -/
  dies : Vector (BitVec 2) 18 := #v[1, 1, 2, 2, 2, 2, 2, 2, 2, 2, 2, 2, 3, 3, 3, 3, 3, 3]
  flash : Flash := {}
  replace : Bool := false
  stopped : Bool := false
  arg : Vector Dword 4 := Vector.replicate 4 0
  status : Byte := 0
  keybuf : BitVec 512 := 0
  keys : List (Nat × BitVec 512) := []
  sysHandler : Dword := 0
  wake : Dword := 0
  lichen : PatchSet := {}
  staged : Option PatchSet := none
  gen : Word := 0
  heads : Vector Head 2 := Vector.replicate 2 {}
  dumpWin : Option Nat := none
  dumpsSkipped : Nat := 0
  permits : Nat := 64
  tempo : Vector Tempo 36 := Vector.replicate 36 {}
  /-- The latest Tempo boundary acted on, in units of 5 us (R446). -/
  boundary : Nat := 0
  /-- A kill that is to be dumped (R432): its launch and its record. -/
  fatal : Option (Word × List Byte) := none
  dbgctl : Dword := 0
  recq : Dword := 0
  trbase : Dword := 0
  trctl : Dword := 0
  waddr : Vector Dword 4 := Vector.replicate 4 0
  wctl : Vector Dword 4 := Vector.replicate 4 0
  bpaddr : Vector Dword 4 := Vector.replicate 4 0
  /-- Errors counted by unit: the unit's number and the clocks of its recent corrected and uncorrectable errors (R441). -/
  corrected : List (Nat × Nat) := []
  uncorrectable : List (Nat × Nat) := []
  /-- Units withdrawn: clusters, sockets, slices (die, slice), Rook ports. -/
  badClusters : List Nat := []
  badSockets : List Nat := []
  badSlices : List (Nat × Nat) := []
  badPorts : List Nat := []
  /-- The flush areas at the top of installed memory (R323): shading index, base and bytes. -/
  flush : List (Nat × Nat × Nat) := []
  /-- A quarantined memory die's flush areas wait to move (R323). -/
  flushMove : Bool := false
  errs : Nat := 0
  /-- On-die ECC reports counted, by memory die (R67). -/
  eccReports : List (Nat × Nat) := []
  deriving DecidableEq, Repr

/-- A remote device as its memory shows it (R20, R25, R112). -/
structure Node where
  node : Nat
  mem : Memory := []
  /-- The ranges that refuse accesses: first byte and length. -/
  refuses : List (Nat × Nat) := []
  failed : Bool := false
  locks : List (Nat × LockKey) := []
  /-- The lines of which its homes record this device as a holder (R70). -/
  holds : List Nat := []
  deriving DecidableEq, Repr

/-- What leaves the device on its ports: answers to inbound requests, collective packets, reports to the fabric manager. -/
inductive Sent where
  | ack (conn : Nat)
  | data (conn : Nat) (bytes : List Byte)
  | old (conn : Nat) (value : Dword)
  | nakAccess (conn : Nat)
  | nakOper (conn : Nat)
  | invalidate (line : Nat) (node : Nat)
  /-- A copy held here of a remote home's line is gone (R69). -/
  | invalidated (line : Nat) (node : Nat)
  /-- What a home of this device answers a remote device's request (R69), or that it could not serve it. -/
  | served (node : Nat) (pa : Nat) (bytes : List Byte)
  | unserved (node : Nat) (pa : Nat)
  | unacked (line : Nat) (node : Nat)
  | join (root : Nat) (slot : Nat) (desc : List Byte) (rosterNode : Nat)
  | joined (node : Nat) (slot : Nat) (ok : Bool)
  | openFlit (cid : Half) (frame : Word) (close : Option Nat)
  | closeFlit (cid : Half) (frame : Word)
  | packet (p : CollPacket)
  | late (cid : Half) (rank : Nat) (frame : Word)
  | settled (cid : Half) (frame : Word) (block : Nat) (data : List Byte)
  | complete (cid : Half) (frame : Word) (status : Word)
  deriving DecidableEq, Repr

/-- The Rook router, the RoCEv2 engine and what lies behind them (R25, R111, R157). -/
structure Fabric where
  self : Nat := 0
  fwin : List (Nat × BitVec 128) := []
  hwin : List (Nat × BitVec 128) := []
  nodes : List Node := []
  host : Memory := []
  hostRefuses : List (Nat × Nat) := []
  leaseOn : Bool := true
  renewed : Nat := 0
  noticed : Bool := false
  inbound : List Inbound := []
  /-- The requests that matched an entry and have still to be performed, with that entry (R157). -/
  admitted : List (Instr × Inbound) := []
  naks : Nat := 0
  dropped : Nat := 0
  sent : List Sent := []
  deriving DecidableEq, Repr

/-! ## Geometry and shading -/

/-- A draw that is open (R314, R319). -/
structure Draw where
  index : Word
  launch : Word
  placedAll : Bool := false
  tokens : List Nat := []
  /-- Tokens received: shading die and geometry die. -/
  received : List (Nat × Nat) := []
  deriving DecidableEq, Repr

/-- The visibility of one sample of a tile (R331, R333). -/
structure Tile where
  tx : Nat
  ty : Nat
  samples : List (Word × Word)
  flushed : Bool := false
  deriving DecidableEq, Repr

/-- A shading die's binner (R320, R322) and render-region cache (R75). -/
structure ShadeDie where
  socket : Nat
  frontier : Word := 0
  binned : List Frond := []
  held : List Frond := []
  /-- Resolved visibility, by queue of the pass. -/
  tiles : List (Nat × Tile) := []
  render : Overlay := []
  /-- The lines it holds, with their key id, for each launch that has written them. -/
  renderLines : List (Nat × Nat × Word) := []
  discarded : Nat := 0
  deriving DecidableEq, Repr

structure Geom where
  drawCounter : Word := 0
  draws : List Draw := []
  packets : List (Nat × Nat × Frond) := []
  tokens : List (Nat × Nat × Word) := []
  /-- For each token in the crossbar, the packets of its path that left before it and are still there (R321). -/
  passed : List ((Nat × Nat × Word) × Nat) := []
  dies : List ShadeDie := []
  passes : List Pass := []
  badPrims : Nat := 0
  deriving DecidableEq, Repr

/-! ## Collectives -/

/-- A member slot (R353, R370, R371): the launch that holds it, the core whose collective unit serves it, its descriptor and the
root's node; the warp whose CJOIN waits, by core, slot and tag, and the root's answer (R355); the open frame and its close tick (R356); the posts of frames `frame`
and `frame + 1`; the two frames last completed with their RESULT and NPRES; the frames it was late for (R363). -/
structure Member where
  slot : Nat
  launch : Word
  core : Nat
  desc : Vector Dword 8
  root : Nat
  waiter : Option (Nat × Nat × BitVec 8) := none
  answer : Option Bool := none
  frame : Word := 0
  close : Option Nat := none
  posted : List (Word × Nat) := []
  done : List (Word × Dword) := []
  late : List Word := []
  failed : Bool := false
  /-- Its collective unit stands on a fault (R391, R394), with the settled blocks it has still to write. -/
  status : EngStatus := .running
  blocks : List (Word × Nat × List Byte) := []
  deriving DecidableEq, Repr

/-- A collective this device is the root of (R353, R356): the launch of the root's CJOIN as its addresses are translated; members by
node, slot and rank; ranks whose node failed (R364) and ranks that left (R369); the open frame with its open tick, and the packets held for it
and for the next. `points` counts the merge points below it. -/
structure Root where
  cid : Half
  desc : Vector Dword 8
  core : Nat
  lau : Launch
  members : List (Nat × Nat × Nat) := []
  removed : List Nat := []
  left : List Nat := []
  frame : Word := 0
  opened : Nat := 0
  closed : Bool := false
  closeFlits : Nat := 0
  points : Nat := 0
  parts : List CollPacket := []
  early : List CollPacket := []
  /-- The frame's writes stand on a fault (R391, R394); the lines whose writes have failed. -/
  status : EngStatus := .running
  lost : List Nat := []
  deriving DecidableEq, Repr

/-- A merge point on this device for a collective rooted elsewhere, as the fabric manager assigns it (R360): the roster's size, the
nodes of the tree it owns as lowest rank and number of ranks, the open frame with its close tick, the packets held. -/
structure Point where
  cid : Half
  op : Nat
  n : Nat
  owned : List (Nat × Nat)
  frame : Word := 0
  close : Option Nat := none
  closed : Bool := false
  parts : List CollPacket := []
  early : List CollPacket := []
  deriving DecidableEq, Repr

/-- `joins` are the requests that wait for the root's own join (R355): node, slot, descriptor, and the node the roster names. -/
structure Coll where
  members : List Member := []
  roots : List Root := []
  points : List Point := []
  joins : List (Nat × Nat × List Byte × Nat) := []
  crcDropped : Nat := 0
  lateDropped : Nat := 0
  deriving DecidableEq, Repr

/-! ## The machine -/

/-- A TLBINV in progress (R43, R291): its issuer, what it covers (the physical lines are those whose page lies in the
range under the issuing SPACE), the cores still to count and the number addressed. -/
structure Shootdown where
  core : Nat
  slot : Nat
  space : BitVec 12
  lo : Nat
  bytes : Nat
  wait : List Nat
  count : Nat
  deriving DecidableEq, Repr

/-- The choice of one of several allowed outcomes, as data: `late` puts a variable-latency result on its way instead of
landing it at once (R169); `early` forces update-only lines out early (R63); `walk` makes every access walk, as TLBs that hold nothing do
(R42), and every fetch read memory. -/
structure Sched where
  late : Bool := false
  early : Bool := false
  walk : Bool := false
  deriving DecidableEq, Repr

/-- The state of the machine. `cur` is the warp that issues, `core` its core without it, `cores` the other cores that
hold anything. -/
structure State where
  cur : Warp := {}
  core : Core := { id := 0 }
  cores : List Core := []
  launches : List Launch := []
  nextLaunch : Word := 0
  queues : List Queue := []
  records : List PendingRecord := []
  /-- Completion signals that a home could not take yet. -/
  signals : List DoneSig := []
  /-- By priority level, the queue that last started an item (R158). -/
  levels : List (Nat × Nat) := []
  /-- Blocks placed so far (R171). -/
  placedNo : Nat := 0
  rr : Nat := 0
  /-- Resources were freed or a launch started: a placement pass is due (R164). -/
  placeDue : Bool := false
  home : Home := {}
  mgmt : Mgmt := {}
  fabric : Fabric := {}
  geom : Geom := {}
  coll : Coll := {}
  shootdowns : List Shootdown := []
  /-- Inputs from outside, served before anything else, first first. -/
  inputs : List Instr := []
  /-- Requests of the host and commands that a home could not serve yet, in order. -/
  waiting : List Instr := []
  /-- The clock from which those are tried again. -/
  retryAt : Nat := 0
  sched : Sched := {}
  /-- The device timebase in core clocks of 0.25 ns (R9). -/
  clock : Nat := 0
  /-- The model's counter of free values. -/
  free : Nat := 0
  deriving DecidableEq, Repr

/-- Installed memory of an AQM-2106 (R15). -/
def installed : Nat := 0xC000000000

/-- The machine after reset: the state a successful boot of an AQM-2106 leaves (R433), every cluster in service, no
queue set up, memory all zeros under key id 0, nothing running. -/
def State.reset : State :=
  { core := { id := 512 }
    mgmt := { flush := [(0, 0xBFCC000000, 0x34000000), (1, 0xBF98000000, 0x34000000), (2, 0xBF64000000, 0x34000000), (3, 0xBF30000000, 0x34000000),
      (4, 0xBEFC000000, 0x34000000), (5, 0xBEC8000000, 0x34000000), (6, 0xBE94000000, 0x34000000),
      (7, 0xBE60000000, 0x34000000), (8, 0xBE2C000000, 0x34000000), (9, 0xBDF8000000, 0x34000000)] }
    geom := { dies := (List.range 10).map fun i => { socket := i + 2 } } }

end Sys2Proof.Machine
end

