-- ==== Sys2Proof/Machine/Bytes.lean ====
section
/-! DEFINITION. Bytes, words and sparse memories: little-endian values (R8), reading and writing a canonical memory, and
overlays of bytes. -/

namespace Sys2Proof.Machine

/-- The little-endian number of a list of bytes (R8). -/
def leNat : List Byte → Nat
  | [] => 0
  | b :: r => b.toNat + 256 * leNat r

/-- The `n` little-endian bytes of a number (R8). -/
def leBytes : Nat → Nat → List Byte
  | 0, _ => []
  | n + 1, x => BitVec.ofNat 8 x :: leBytes n (x / 256)

/-- Bits `hi` down to `lo` of a number (R8). -/
def bitsOf (x hi lo : Nat) : Nat := x / 2 ^ lo % 2 ^ (hi + 1 - lo)
/-- Bits `hi` down to `lo` of a register value. -/
def bits {w : Nat} (x : BitVec w) (hi lo : Nat) : Nat := bitsOf x.toNat hi lo

/-- The byte at an address; an unlisted address reads 0 (R433). -/
def Memory.get : Memory → Nat → Byte
  | [], _ => 0
  | (x, b) :: r, a => if x = a then b else Memory.get r a

/-- Puts a byte at an address and keeps the canonical form: a zero byte is not listed. -/
def Memory.set : Memory → Nat → Byte → Memory
  | [], a, b => if b = 0 then [] else [(a, b)]
  | (x, c) :: r, a, b =>
    if a < x then (if b = 0 then (x, c) :: r else (a, b) :: (x, c) :: r)
    else if a = x then (if b = 0 then r else (a, b) :: r)
    else (x, c) :: Memory.set r a b

/-- The canonical form: addresses strictly rising, no listed byte zero. -/
def Memory.wf : Memory → Bool
  | [] => true
  | (_, b) :: [] => b ≠ 0
  | (x, b) :: (y, c) :: r => b ≠ 0 && x < y && Memory.wf ((y, c) :: r)

/-- `n` bytes from an address up. -/
def Memory.bytes (m : Memory) (a : Nat) : Nat → List Byte
  | 0 => []
  | n + 1 => m.get a :: Memory.bytes m (a + 1) n

/-- Stores a list of bytes from an address up. -/
def Memory.put (m : Memory) (a : Nat) : List Byte → Memory
  | [] => m
  | b :: r => Memory.put (m.set a b) (a + 1) r

/-- The little-endian value of `n` bytes. -/
def Memory.nat (m : Memory) (a n : Nat) : Nat := leNat (m.bytes a n)

/-- The byte of an overlay, if it holds one. -/
def Overlay.get? : Overlay → Nat → Option Byte
  | [], _ => none
  | (x, b) :: r, a => if x = a then some b else if a < x then none else Overlay.get? r a

/-- Puts a byte in an overlay. -/
def Overlay.set : Overlay → Nat → Byte → Overlay
  | [], a, b => [(a, b)]
  | (x, c) :: r, a, b =>
    if a < x then (a, b) :: (x, c) :: r
    else if a = x then (a, b) :: r
    else (x, c) :: Overlay.set r a b

def Overlay.put (m : Overlay) (a : Nat) : List Byte → Overlay
  | [] => m
  | b :: r => Overlay.put (Overlay.set m a b) (a + 1) r

/-- An overlay without the bytes of a range. -/
def Overlay.drop (m : Overlay) (a n : Nat) : Overlay := m.filter fun c => c.1 < a || a + n ≤ c.1

/-- `n` bytes from an address, the overlay's where it has one. -/
def Overlay.over (o : Overlay) (a : Nat) : List Byte → List Byte
  | [] => []
  | b :: r => (Overlay.get? o a).getD b :: Overlay.over o (a + 1) r

/-- The 64 bytes of a line as a bit vector, byte 0 lowest. -/
def lineOf (l : List Byte) : BitVec 512 := BitVec.ofNat 512 (leNat l)
/-- `n` bytes of a line from an offset. -/
def lineBytes (d : BitVec 512) (off n : Nat) : List Byte := leBytes n (d.toNat / 2 ^ (8 * off))
/-- A line with a list of bytes put at an offset. -/
def linePut (d : BitVec 512) (off : Nat) (l : List Byte) : BitVec 512 :=
  lineOf (lineBytes d 0 off ++ l ++ lineBytes d (off + l.length) (64 - (off + l.length)))

/-- Replaces the elements a test finds. -/
def replaceBy {α : Type} (p : α → Bool) (f : α → α) (l : List α) : List α := l.map fun x => if p x then f x else x

/-- Sets the element a key finds, or appends it. -/
def putBy {α : Type} (p : α → Bool) (x : α) (l : List α) : List α :=
  if l.any p then l.map (fun y => if p y then x else y) else l ++ [x]

/-- The value of a key in an association list. -/
def assoc {α : Type} (k : Nat) : List (Nat × α) → Option α
  | [] => none
  | (x, v) :: r => if x = k then some v else assoc k r

/-- Sets the value of a key, keeping keys rising. -/
def assocSet {α : Type} (k : Nat) (v : α) : List (Nat × α) → List (Nat × α)
  | [] => [(k, v)]
  | (x, u) :: r => if k < x then (k, v) :: (x, u) :: r else if x = k then (k, v) :: r else (x, u) :: assocSet k v r

/-- Inserts by rising key, behind equal keys; and sorts by key. -/
def insertBy {α : Type} (f : α → Nat) (x : α) : List α → List α
  | [] => [x]
  | y :: r => if f x < f y then x :: y :: r else y :: insertBy f x r
def sortBy {α : Type} (f : α → Nat) (l : List α) : List α := l.foldl (fun a x => insertBy f x a) []

/-- The lanes 0 to 31 in ascending order. -/
def lanes : List (Fin 32) := List.finRange 32

/-- The lanes for which a test holds, as a mask. -/
def maskOf (f : Fin 32 → Bool) : Mask :=
  BitVec.ofNat 32 (lanes.foldl (fun a l => if f l then a + 2 ^ l.val else a) 0)

/-- The lanes of a mask in ascending order. -/
def lanesOf (m : Mask) : List (Fin 32) := lanes.filter fun l => m.getLsbD l.val

/-- The lowest lane of a mask, 0 when it is empty. -/
def lowLane (m : Mask) : Fin 32 := (lanesOf m).headD 0

/-- The domain of a region table's DOMAIN value (R35). -/
def domainOf (n : Nat) : Domain :=
  match n with | 0 => .core | 1 => .cluster | 2 => .die | 3 => .package | _ => .system

/-- The first `n` pieces of `k` bytes. -/
def chunks (k : Nat) : Nat → List Byte → List (List Byte)
  | 0, _ => []
  | n + 1, l => l.take k :: chunks k n (l.drop k)

def crcBit (c : Nat) : Nat := if c % 2 = 1 then Nat.xor (c / 2) 0x82F63B78 else c / 2
def crcByte (c : Nat) (b : Byte) : Nat := (List.range 8).foldl (fun c _ => crcBit c) (Nat.xor c b.toNat)
/-- CRC-32C of some bytes (PRESUMED: the reflected Castagnoli polynomial, as the name has it elsewhere). -/
def crc32c (d : List Byte) : Nat := Nat.xor (d.foldl crcByte 0xFFFFFFFF) 0xFFFFFFFF

end Sys2Proof.Machine

namespace Sys2Proof

/-- The order in which domains widen (R38). -/
def Domain.rank : Domain → Nat
  | .core => 0 | .cluster => 1 | .die => 2 | .package => 3 | .system => 4
/-- The wider of two domains (R38). -/
def Domain.max (a b : Domain) : Domain := if a.rank ≤ b.rank then b else a

end Sys2Proof
end

