-- ==== Sys2Proof/Machine/Access.lean ====
section
/-! DEFINITION. Where a unit's state stands in `State`: cores by number, warps by core and slot, blocks, launches, queues;
numbering of cores, clusters and sockets (R174); free values. -/

namespace Sys2Proof.Machine

/-- The core of a number as %core reads it: core in cluster in bits 6:0, cluster in bits 15:7 (R174). -/
def coreNo (cluster core : Nat) : Nat := cluster * 128 + core
def clusterOf (c : Nat) : Nat := c / 128
def socketOf (c : Nat) : Nat := c / 256
/-- The core's number within its die: 0 to 255 (R68). -/
def coreInDie (c : Nat) : Nat := c % 256

namespace State

/-- The core of a number; one that holds nothing has an empty record. The issuing core stands here without its warp. -/
def coreAt (s : State) (c : Nat) : Core :=
  if s.core.id = c then s.core else (s.cores.find? fun k => k.id = c).getD { id := c }

/-- Puts a core's record back. -/
def setCore (s : State) (k : Core) : State :=
  if s.core.id = k.id then { s with core := k } else { s with cores := putBy (fun j => j.id = k.id) k s.cores }

def modCore (s : State) (c : Nat) (f : Core → Core) : State := s.setCore (f (s.coreAt c))

/-- The warp holds a lane set (R168). -/
def isActive (s : State) (c slot : Nat) : Bool := (s.coreAt c).active.any fun x => match x with | some (n, _) => n = slot | none => false

/-- Every core that holds anything. -/
def allCores (s : State) : List Core := s.core :: s.cores

/-- The issuing warp stands at this core and slot. -/
def isCur (s : State) (c slot : Nat) : Bool := s.cur.present && s.core.id = c && s.cur.slot = slot

/-- The warp of a core and slot. -/
def warpAt (s : State) (c slot : Nat) : Option Warp :=
  if s.isCur c slot then some s.cur else (s.coreAt c).warps.find? fun w => w.slot = slot

/-- Puts a warp back at its core. -/
def setWarp (s : State) (c : Nat) (w : Warp) : State :=
  if s.isCur c w.slot then { s with cur := w }
  else s.modCore c fun k => { k with warps := putBy (fun x => x.slot = w.slot) w k.warps }

def modWarp (s : State) (c slot : Nat) (f : Warp → Warp) : State :=
  match s.warpAt c slot with
  | some w => s.setWarp c (f w)
  | none => s

/-- The warps of a core, the issuing one among them, in ascending slot order. -/
def warpsOf (s : State) (c : Nat) : List Warp :=
  let l := (s.coreAt c).warps
  let l := if s.cur.present && s.core.id = c then s.cur :: l else l
  sortBy (fun w => w.slot) l

/-- Applies a function to every warp of a core. -/
def mapWarps (s : State) (c : Nat) (f : Warp → Warp) : State :=
  let s := s.modCore c fun k => { k with warps := k.warps.map f }
  if s.cur.present && s.core.id = c then { s with cur := f s.cur } else s

/-- Applies a function to every warp of the device. -/
def mapAllWarps (s : State) (f : Nat → Warp → Warp) : State :=
  { s with
    cur := if s.cur.present then f s.core.id s.cur else s.cur
    core := { s.core with warps := s.core.warps.map (f s.core.id) }
    cores := s.cores.map fun k => { k with warps := k.warps.map (f k.id) } }

/-- Takes a warp out of its core. -/
def removeWarp (s : State) (c slot : Nat) : State :=
  if s.isCur c slot then { s with cur := {} }
  else s.modCore c fun k => { k with warps := k.warps.filter fun w => w.slot ≠ slot }

def blockAt (s : State) (c b : Nat) : Option Block := (s.coreAt c).blocks.find? fun x => x.bslot = b
def setBlock (s : State) (c : Nat) (b : Block) : State :=
  s.modCore c fun k => { k with blocks := putBy (fun x => x.bslot = b.bslot) b k.blocks }
def modBlock (s : State) (c b : Nat) (f : Block → Block) : State :=
  s.modCore c fun k => { k with blocks := replaceBy (fun x => x.bslot = b) f k.blocks }

/-- The warps of a block. -/
def blockWarps (s : State) (c b : Nat) : List Warp := (s.warpsOf c).filter fun w => w.bslot = b

/-- Warp `v` of a core is older than warp `w` (R171): its block was placed before, or it is a lower warp of the same block. -/
def olderWarp (s : State) (c : Nat) (v w : Warp) : Bool :=
  let age := fun (w : Warp) => match s.blockAt c w.bslot with | some b => b.age | none => 0
  age v < age w || (age v = age w && v.idx < w.idx)

def launchOf (s : State) (id : Word) : Option Launch := s.launches.find? fun l => l.id = id
def setLaunch (s : State) (l : Launch) : State := { s with launches := putBy (fun x => x.id = l.id) l s.launches }
def modLaunch (s : State) (id : Word) (f : Launch → Launch) : State :=
  { s with launches := replaceBy (fun x => x.id = id) f s.launches }

def queueOf (s : State) (q : Nat) : Queue := (s.queues.find? fun x => x.q = q).getD { q := q }
def setQueue (s : State) (x : Queue) : State := { s with queues := putBy (fun y => y.q = x.q) x s.queues }

/-- The block of the issuing warp. -/
def curBlock (s : State) : Option Block := s.core.blocks.find? fun x => x.bslot = s.cur.bslot
/-- The launch of the issuing warp; a default one when it has none. -/
def curLaunch (s : State) : Launch := (s.launchOf s.cur.launch).getD { id := s.cur.launch, q := 0, pkt := {} }

/-- A fresh free value. -/
def fresh (s : State) : Dword × State := (Config.freeValue s.free, { s with free := s.free + 1 })

end State

/-- The fault that a tile of a pass stands on (R332); and its change. -/
def Pass.fault (p : Pass) (tx ty : Nat) : Option EngStatus := (p.faults.find? fun x => x.1 = (tx, ty)).map fun x => x.2
def Pass.setFault (p : Pass) (tx ty : Nat) (st : Option EngStatus) : Pass :=
  { p with faults := (p.faults.filter fun x => x.1 ≠ (tx, ty)) ++ st.toList.map fun x => ((tx, ty), x) }

/-- The sockets that the module record declares as a type: 1 geometry, 2 shading, 3 memory (R435). -/
def Mgmt.socketsOf (m : Mgmt) (ty : BitVec 2) : List Nat :=
  (List.range 18).filter fun n => m.flash.sock.getD n 0 = ty
/-- Memory dies in ascending socket order, quarantined ones included (R65, R66, R436). -/
def Mgmt.memDies (m : Mgmt) : List Nat := m.socketsOf 3
/-- The shading dies in service at boot, in ascending socket order (R316): those not in the flash's quarantine list. -/
def Mgmt.shadeDies (m : Mgmt) : List Nat := (m.socketsOf 2).filter fun n => !m.flash.badSockets.contains n
/-- Geometry dies in service (R319). -/
def Mgmt.geomDies (m : Mgmt) : List Nat := (m.socketsOf 1).filter fun n => !m.badSockets.contains n

/-- A cluster of a die of this type is in service (R163, R436, R441). -/
def Mgmt.clusterUp (m : Mgmt) (cl : Nat) : Bool :=
  let ty := m.flash.sock.getD (cl / 2) 0
  (ty = 2 || (ty = 1 && cl % 2 = 0)) && m.flash.clen.getLsbD cl && !m.badClusters.contains cl && !m.badSockets.contains (cl / 2)

/-- A core is on a shading die and so has a matrix engine (R293). -/
def Mgmt.hasMatrix (m : Mgmt) (c : Nat) : Bool := m.flash.sock.getD (socketOf c) 0 = 2

/-- The clock of a core's cluster in fortieths of a core clock (R9). -/
def State.coreClock (s : State) (c : Nat) : Nat :=
  let x := s.mgmt.tempo.getD (clusterOf c) {}
  x.cycles + x.rate * (s.clock - x.since)

/-- The clusters in service, ascending. -/
def Mgmt.clusters (m : Mgmt) : List Nat := (List.range 36).filter m.clusterUp

end Sys2Proof.Machine
end

