-- ==== Sys2Proof/Machine/Operands.lean ====
section
/-! DEFINITION. Operations on the registers of a warp: executing and active lanes (R140), guards, register ranges (R172,
R187), repetition (R188), last use (R186), the next address of a group. -/

namespace Sys2Proof.Machine

/-- A trap with a code and a subcode (R386) and the place of its check in R21. -/
def trap (code sub : Nat) (rank : Nat := 100) : Trap := { code := BitVec.ofNat 8 code, sub := BitVec.ofNat 8 sub, rank := rank }

/-- The poison value of a last use (R186). -/
def poisonValue : Word := 0x7FD00BAD

namespace Warp

/-- The lanes that are live: LIVE and not BARPARK (R140). -/
def liveMask (w : Warp) : Mask := w.live &&& ~~~w.barpark

/-- The lanes whose group is chosen or performed: those of the group that waits, else the live ones. -/
def chosen (w : Warp) : Mask := if w.held = 0 then w.liveMask else w.held

/-- The minimum program counter over the live lanes (R140), or that of the group that waits; 0 when there is none. -/
def pc (w : Warp) : Dword :=
  match (lanesOf w.chosen).map fun l => w.lpc[l] with
  | [] => 0
  | x :: r => r.foldl (fun a b => if b.toNat < a.toNat then b else a) x

/-- The executing lanes (R140): inside a microprogram those of the calling group (R221). -/
def executing (w : Warp) : Mask :=
  match w.micro with
  | some m => m.exec
  | none => w.chosen &&& maskOf fun l => w.lpc[l] = w.pc

/-- A group waits to be performed again by its own executing lanes (R140). -/
def park (i : Instr) (w : Warp) : Warp := { w with parked := some i, held := if w.micro.isSome then 0 else w.executing }
/-- No group waits. -/
def unpark (w : Warp) : Warp := { w with parked := none, held := 0, woken := false }

/-- A predicate register; p7 reads 1 in every lane (R172). -/
def getP (w : Warp) (n : Nat) : Mask := if h : n < 7 then w.p[n] else 0xFFFFFFFF
/-- Writes lanes of a predicate register; p7 ignores writes (R172). -/
def setP (w : Warp) (n : Nat) (m x : Mask) : Warp :=
  if h : n < 7 then { w with p := w.p.set n ((w.p[n] &&& ~~~m) ||| (x &&& m)) } else w

/-- The lanes whose guard is true (R179, R181). -/
def guardMask (w : Warp) (g : Grp) : Mask :=
  match g.src with
  | some h => if h.ge then (if h.gn then ~~~(w.getP h.gp.toNat) else w.getP h.gp.toNat) else 0xFFFFFFFF
  | none => 0xFFFFFFFF

/-- The active lanes: executing, with their guard true (R140). -/
def active (w : Warp) (g : Grp) : Mask := w.executing &&& w.guardMask g

/-- A vector register, and one lane of it. -/
def vec (w : Warp) (n : Nat) : LaneVec := w.v.getD n (Vector.replicate 32 0)
def getV (w : Warp) (n : Nat) (l : Fin 32) : Word := (w.vec n)[l]
/-- Writes the lanes of a mask of a vector register. -/
def setVec (w : Warp) (n : Nat) (m : Mask) (x : LaneVec) : Warp :=
  if h : n < 64 then { w with v := w.v.set n (Vector.ofFn fun l => if m.getLsbD l.val then x[l] else w.v[n][l]) } else w
def setV (w : Warp) (n : Nat) (l : Fin 32) (x : Word) : Warp :=
  if h : n < 64 then { w with v := w.v.set n (w.v[n].set l x) } else w

/-- A uniform register. -/
def getS (w : Warp) (n : Nat) : Dword := w.s.getD n 0
def setS (w : Warp) (n : Nat) (x : Dword) : Warp := if h : n < 64 then { w with s := w.s.set n x } else w
/-- A tile register. -/
def getT (w : Warp) (n : Nat) : BitVec 128 := w.t.getD n 0
def setT (w : Warp) (n : Nat) (x : BitVec 128) : Warp := if h : n < 8 then { w with t := w.t.set n x } else w

/-- The b operand of a V3 or P instruction: the low half of a uniform register in every lane when B = 1 (R172). -/
def getB (w : Warp) (bu : BitVec 1) (n : Nat) (l : Fin 32) : Word := if bu = 1 then lo32 (w.getS n) else w.getV n l

/-- The partition width W in lanes (R146). -/
def width (w : Warp) : Nat := 2 ^ w.partw.toNat

/-- The registers take the poison value in the executing lanes when the LK bits mark a last use (R186). -/
def lastUse (w : Warp) (m : Mask) (lk : BitVec 2) (regs : List Nat) : Warp :=
  if lk = 1 then regs.foldl (fun w n => w.setVec n m (Vector.replicate 32 poisonValue)) w else w

/-- An address as lpc holds it: its bits 56:2, carried sign-extended with bits 1:0 zero (R13, R31, R175). -/
def pcOf (x : Dword) : Dword := (x.extractLsb' 2 55 ++ (0 : BitVec 2)).signExtend 64

/-- The lanes of a mask continue at an address (R140); a microprogram's operations move no lane (R221). -/
def goto (w : Warp) (m : Mask) (pc : Dword) : Warp :=
  match w.micro with
  | some _ => w
  | none => { w with lpc := Vector.ofFn fun l => if m.getLsbD l.val then pcOf pc else w.lpc[l] }

end Warp

/-- How many hint words the group has. -/
def hintWords (g : Grp) : Nat := g.imms.length + g.src.toList.length + g.mod.toList.length + g.rep.toList.length
/-- The address after the group (R180). -/
def nextPc (w : Warp) (g : Grp) : Dword := w.pc + BitVec.ofNat 64 (4 * (hintWords g + 1))
/-- The address of the group's base word (R176). -/
def basePc (w : Warp) (g : Grp) : Dword := w.pc + BitVec.ofNat 64 (4 * hintWords g)

/-- The repetitions of a group (R188). -/
def reps (g : Grp) : Nat := match g.rep with | some r => r.cnt.toNat + 1 | none => 1
/-- Register numbers of repetition `i` (R188): destination, sources a, b and c. -/
def repD (g : Grp) (n i : Nat) : Nat := match g.rep with | some r => n + i * r.sd.toNat | none => n
def repA (g : Grp) (n i : Nat) : Nat := match g.rep with | some r => n + i * r.sa.toNat | none => n
def repB (g : Grp) (n i : Nat) : Nat := match g.rep with | some r => n + i * r.sb.toNat | none => n
def repC (g : Grp) (n i : Nat) : Nat := match g.rep with | some r => n + i * r.sc.toNat | none => n

/-- RND, SAT, CPOL and OFF16 of the group (R179); 0 without HINT.MOD. -/
def rndOf (g : Grp) : BitVec 3 := match g.mod with | some h => h.rnd | none => 0
def satOf (g : Grp) : Bool := match g.mod with | some h => h.sat | none => false
def cpolOf (g : Grp) : BitVec 3 := match g.mod with | some h => h.cpol | none => 0
def offOf (g : Grp) : Dword := match g.mod with | some h => h.off16.signExtend 64 | none => 0

/-- The value of an extended immediate (R178): the HINT.IMM fields above the base field, sign-extended to 64 bits. -/
def immOf {n : Nat} (g : Grp) (i : BitVec n) : Dword :=
  let x := g.imms.foldl (fun a h => a * 2 ^ 23 + h.toNat) 0 * 2 ^ n + i.toNat
  let w := n + 23 * g.imms.length
  if w ≥ 64 then BitVec.ofNat 64 x else BitVec.signExtend 64 (BitVec.ofNat w x)

/-- A range of vector registers the warp must hold (R172, R187). -/
def vRange (w : Warp) (n count : Nat) : Except Trap Unit :=
  if n + count > 64 then .error (trap 0x01 0x05)
  else if n + count > 8 * w.vgran then .error (trap 0x01 0x06)
  else .ok ()
/-- A range of uniform registers (R187). -/
def sRange (n count : Nat) : Except Trap Unit := if n + count > 64 then .error (trap 0x01 0x05) else .ok ()
/-- A predicate register number (R187). -/
def pRange (n : Nat) : Except Trap Unit := if n > 7 then .error (trap 0x01 0x05) else .ok ()
/-- The b operand's register: uniform when B = 1 (R172). -/
def bRange (w : Warp) (bu : BitVec 1) (n : Nat) : Except Trap Unit := if bu = 1 then sRange n 1 else vRange w n 1

/-- A check for every repetition, before the first is performed (R188). -/
def checkReps (g : Grp) (chk : Nat → Except Trap Unit) : Except Trap Unit := (List.range (reps g)).forM chk

/-- A required third source (R181). -/
def needThird (g : Grp) : Except Trap Unit := if g.src.isNone then .error (trap 0x04 0x05) else .ok ()

/-- Performs the repetitions of a group in sequence (R188). -/
def performReps (g : Grp) (one : Nat → Warp → Warp) (w : Warp) : Warp :=
  (List.range (reps g)).foldl (fun w i => one i w) w

/-- The end of a group: its executing lanes continue after it (R140). -/
def retire (g : Grp) (w0 w : Warp) : Warp := w.goto w0.executing (nextPc w0 g)

/-- A collective instruction's condition (R143), and that it stands in no handler (R393). -/
def collective (g : Grp) (w : Warp) : Except Trap Unit :=
  if w.inhdl then .error (trap 0x02 0x06)
  else if w.liveMask ≠ 0xFFFFFFFF then .error (trap 0x02 0x00)
  else if w.executing ≠ 0xFFFFFFFF then .error (trap 0x02 0x01)
  else if w.guardMask g ≠ 0xFFFFFFFF then .error (trap 0x02 0x02)
  else .ok ()

/-- A V3 instruction that writes one vector register (R176): `f` takes a, b and c. `third` says whether c is read. -/
def runV3 (g : Grp) (d a : BitVec 6) (lka : BitVec 2) (b : BitVec 6) (lkb : BitVec 2) (bu : BitVec 1) (third : Bool)
    (f : Word → Word → Word → Word) (w : Warp) : Except Trap Warp := do
  if third then needThird g
  checkReps g fun i => do
    vRange w (repD g d.toNat i) 1
    vRange w (repA g a.toNat i) 1
    bRange w bu (repB g b.toNat i)
    if third then vRange w (repC g g.cReg.toNat i) 1
  .ok <| retire g w <| performReps g (fun i x =>
    let r : LaneVec := Vector.ofFn fun l =>
      f (x.getV (repA g a.toNat i) l) (x.getB bu (repB g b.toNat i) l) (x.getV (repC g g.cReg.toNat i) l)
    let y := x.lastUse w.executing lka [repA g a.toNat i]
    let y := if bu = 1 then y else y.lastUse w.executing lkb [repB g b.toNat i]
    let y := if third then y.lastUse w.executing g.lkc [repC g g.cReg.toNat i] else y
    y.setVec (repD g d.toNat i) (w.active g) r) w

/-- A V2, VI or VK instruction that writes one vector register from one source: `f` takes a and the old d. -/
def runV2 (g : Grp) (d a : BitVec 6) (lka : BitVec 2) (f : Word → Word → Word) (w : Warp) : Except Trap Warp := do
  checkReps g fun i => do
    vRange w (repD g d.toNat i) 1
    vRange w (repA g a.toNat i) 1
  .ok <| retire g w <| performReps g (fun i x =>
    let r : LaneVec := Vector.ofFn fun l => f (x.getV (repA g a.toNat i) l) (x.getV (repD g d.toNat i) l)
    (x.lastUse w.executing lka [repA g a.toNat i]).setVec (repD g d.toNat i) (w.active g) r) w

/-- An instruction that writes one vector register from no vector source: `f` takes the lane and the old d. -/
def runV1 (g : Grp) (d : BitVec 6) (f : Warp → Fin 32 → Word) (w : Warp) : Except Trap Warp := do
  checkReps g fun i => vRange w (repD g d.toNat i) 1
  .ok <| retire g w <| performReps g (fun i x => x.setVec (repD g d.toNat i) (w.active g) (Vector.ofFn (f x))) w

/-- A P instruction: `f` takes a and b and gives the predicate bit (R176). -/
def runP (g : Grp) (p : BitVec 3) (a : BitVec 6) (lka : BitVec 2) (b : BitVec 6) (lkb : BitVec 2) (bu : BitVec 1)
    (f : Word → Word → Bool) (w : Warp) : Except Trap Warp := do
  checkReps g fun i => do
    pRange (repD g p.toNat i)
    vRange w (repA g a.toNat i) 1
    bRange w bu (repB g b.toNat i)
  .ok <| retire g w <| performReps g (fun i x =>
    let r := maskOf fun l => f (x.getV (repA g a.toNat i) l) (x.getB bu (repB g b.toNat i) l)
    let y := x.lastUse w.executing lka [repA g a.toNat i]
    let y := if bu = 1 then y else y.lastUse w.executing lkb [repB g b.toNat i]
    y.setP (repD g p.toNat i) (w.active g) r) w

/-- A warp-level instruction on uniform registers (R182, R202): performed when some executing lane's guard is true; under
HINT.REP each repetition uses its own registers. `chk` checks the registers of repetition `i`. -/
def runU (g : Grp) (chk : Nat → Except Trap Unit) (one : Nat → Warp → Warp) (w : Warp) : Except Trap Warp := do
  checkReps g chk
  .ok <| retire g w <| if w.active g = 0 then w else performReps g one w

end Sys2Proof.Machine
end

