-- ==== Sys2Proof/Machine/Flags.lean ====
section
/-! DEFINITION. Conditions and clamps of the integer instructions (R196, R201): the Qorler has no flags register; a
comparison writes predicate bits or a uniform mask. -/

namespace Sys2Proof.Machine

/-- The condition field of ICMP and SCMP (R201). -/
def cond {n : Nat} (c : BitVec 3) (a b : BitVec n) : Bool :=
  match c.toNat with
  | 0 => a = b
  | 1 => a ≠ b
  | 2 => a.toInt < b.toInt
  | 3 => a.toInt ≥ b.toInt
  | 4 => a.toNat < b.toNat
  | 5 => a.toNat ≥ b.toNat
  | 6 => a.toInt > b.toInt
  | _ => a.toNat > b.toNat

/-- sat32: an exact integer clamped to the signed 32-bit range (R196). -/
def sat32 (x : Int) : Word :=
  if x < -(2 ^ 31) then 0x80000000 else if x > 2 ^ 31 - 1 then 0x7FFFFFFF else BitVec.ofInt 32 x

/-- Wrapping or saturating, as SAT says (R196). -/
def wrapOrSat (sat : Bool) (x : Int) : Word := if sat then sat32 x else BitVec.ofInt 32 x

/-- The number of set bits. -/
def popcount {n : Nat} (a : BitVec n) : Nat := (List.range n).foldl (fun k i => if a.getLsbD i then k + 1 else k) 0
/-- The number of leading zero bits: the width for 0. -/
def leadingZeros {n : Nat} (a : BitVec n) : Nat := if a.toNat = 0 then n else n - 1 - a.toNat.log2
/-- The number of trailing zero bits: the width for 0. -/
def trailingZeros {n : Nat} (a : BitVec n) : Nat := ((List.range n).find? fun i => a.getLsbD i).getD n
/-- Bit reversal. -/
def bitReverse {n : Nat} (a : BitVec n) : BitVec n :=
  BitVec.ofNat n ((List.range n).foldl (fun k i => if a.getLsbD i then k + 2 ^ (n - 1 - i) else k) 0)

/-- A shift left, right with zero fill and right with sign fill by a count of any size (R197, R202). -/
def shl {n : Nat} (a : BitVec n) (k : Nat) : BitVec n := if k ≥ n then 0 else a <<< k
def shr {n : Nat} (a : BitVec n) (k : Nat) : BitVec n := if k ≥ n then 0 else a >>> k
def sar {n : Nat} (a : BitVec n) (k : Nat) : BitVec n := a.sshiftRight (if k ≥ n then n - 1 else k)

/-- The field of `a` at `pos` of `len` bits, sign-extended when `sgn` (R198). -/
def extractField {n : Nat} (a : BitVec n) (pos len : Nat) (sgn : Bool) : BitVec n :=
  let k := if pos ≥ n then 0 else min len (n - pos)
  let f := a.toNat / 2 ^ pos % 2 ^ k
  if k = 0 then 0
  else if sgn && f / 2 ^ (k - 1) % 2 = 1 then BitVec.ofNat n (f + (2 ^ n - 2 ^ k)) else BitVec.ofNat n f

/-- `a` inserted into `b` at `pos`, `len` bits (R198). -/
def insertField (a b : Word) (pos len : Nat) : Word :=
  let k := if pos ≥ 32 then 0 else min len (32 - pos)
  let mask := BitVec.ofNat 32 ((2 ^ k - 1) * 2 ^ pos)
  (b &&& ~~~mask) ||| (shl a pos &&& mask)

end Sys2Proof.Machine
end

