-- ==== Sys2Proof/Machine/Num.lean ====
section
/-! DEFINITION. The floating-point formats (R231 to R234), rounding (R235, R236), special values (R237 to R239), and the
arithmetic and conversions built on them. Every finite value of every format is an integer multiple of 2^-149; exact
results are integers over a power of two, rounded once. -/

namespace Sys2Proof.Machine

/-- A floating-point format with a sign (R231): the fraction width, the exponent of the smallest normal, and the
magnitude patterns of the largest finite value, of infinity, of the first NaN, of an overflow to infinity, and of the
canonical NaN. -/
structure FFmt where
  width : Nat
  m : Nat
  emin : Int
  max : Nat
  inf : Option Nat
  nanFrom : Nat
  ovf : Nat
  canon : Nat
  deriving DecidableEq, Repr

def f32 : FFmt := ⟨32, 23, -126, 0x7F7FFFFF, some 0x7F800000, 0x7F800001, 0x7F800000, 0x7FC00000⟩
def f16 : FFmt := ⟨16, 10, -14, 0x7BFF, some 0x7C00, 0x7C01, 0x7C00, 0x7E00⟩
def bf16 : FFmt := ⟨16, 7, -126, 0x7F7F, some 0x7F80, 0x7F81, 0x7F80, 0x7FC0⟩
def e4m3 : FFmt := ⟨8, 3, -6, 0x7E, none, 0x7F, 0x7F, 0x7F⟩
def e5m2 : FFmt := ⟨8, 2, -14, 0x7B, some 0x7C, 0x7D, 0x7C, 0x7E⟩
def e2m1 : FFmt := ⟨4, 1, 0, 0x7, none, 0x8, 0x7, 0x0⟩

/-- A value: a NaN with its bits, an infinity, or a finite number in units of 2^-149 with its sign bit (of a zero too). -/
inductive FV where
  | nan (bits : Nat)
  | inf (neg : Bool)
  | fin (neg : Bool) (v : Int)
  deriving DecidableEq, Repr

/-- The sign bit of a format. -/
def FFmt.sgn (f : FFmt) (neg : Bool) : Nat := if neg then 2 ^ (f.width - 1) else 0

/-- The value of a bit pattern (R231). -/
def FFmt.unpack (f : FFmt) (x : Nat) : FV :=
  let x := x % 2 ^ f.width
  let neg := x / 2 ^ (f.width - 1) % 2 = 1
  let mag := x % 2 ^ (f.width - 1)
  if mag ≥ f.nanFrom then .nan x
  else if some mag = f.inf then .inf neg
  else
    let e := (f.emin - f.m + 149).toNat
    let v := if mag < 2 ^ f.m then mag * 2 ^ e else (2 ^ f.m + mag % 2 ^ f.m) * 2 ^ (mag / 2 ^ f.m - 1 + e)
    .fin neg (if neg then -(v : Int) else v)

/-- Quieting a NaN (R232); the E4M3 NaN is quiet already. -/
def FFmt.quiet (f : FFmt) (x : Nat) : Nat :=
  if f.inf.isNone ∨ x / 2 ^ (f.m - 1) % 2 = 1 then x else x + 2 ^ (f.m - 1)

/-- Whether a remainder `r` of `d` above the integer `t` rounds up in magnitude (R235). -/
def roundsUp (rnd : BitVec 3) (neg : Bool) (t r d : Nat) : Bool :=
  match rnd.toNat with
  | 0 => 2 * r > d || (2 * r = d && t % 2 = 1)
  | 1 => false
  | 2 => r ≠ 0 && !neg
  | 3 => r ≠ 0 && neg
  | _ => 2 * r ≥ d

/-- An overflow's magnitude (R236); `clamp` gives the largest finite value in every mode. -/
def FFmt.overflow (f : FFmt) (rnd : BitVec 3) (neg clamp : Bool) : Nat :=
  if clamp then f.max
  else match rnd.toNat with
    | 1 => f.max
    | 2 => if neg then f.max else f.ovf
    | 3 => if neg then f.ovf else f.max
    | _ => f.ovf

/-- The exponent k with 2^k ≤ n/d < 2^(k+1), for n and d not zero. -/
def ilog (n d : Nat) : Int :=
  let k : Int := (n.log2 : Int) - d.log2
  let below := if k ≥ 0 then n < d * 2 ^ k.toNat else n * 2 ^ (-k).toNat < d
  if below then k - 1 else k

/-- The exact magnitude n/d rounded once to the format (R235, R236), as a pattern with its sign. -/
def FFmt.round (f : FFmt) (rnd : BitVec 3) (neg clamp : Bool) (n d : Nat) : Nat :=
  if n = 0 then f.sgn neg
  else
    let k := ilog n d
    let e := if k < f.emin then f.emin else k
    let q := e - f.m
    let num := if q ≥ 0 then n else n * 2 ^ (-q).toNat
    let den := if q ≥ 0 then d * 2 ^ q.toNat else d
    let t := num / den
    let t' := if roundsUp rnd neg t (num % den) den then t + 1 else t
    let mag := (e - f.emin).toNat * 2 ^ f.m + t'
    f.sgn neg + if mag > f.max then f.overflow rnd neg clamp else mag

/-- A signed exact value n/d rounded once; an exact zero takes the sign given (R238). -/
def FFmt.roundInt (f : FFmt) (rnd : BitVec 3) (zeroNeg clamp : Bool) (n : Int) (d : Nat) : Nat :=
  if n = 0 then f.sgn zeroNeg else f.round rnd (n < 0) clamp n.natAbs d

/-- 1.0 in a format. -/
def FFmt.one (f : FFmt) : Nat := (1 - f.emin).toNat * 2 ^ f.m

/-- The clamp of SAT to the range from +0.0 to 1.0 (R239). -/
def FFmt.clamp01 (f : FFmt) (sat : Bool) (x : Nat) : Nat :=
  if !sat then x
  else match f.unpack x with
    | .nan _ => 0
    | .inf neg => if neg then 0 else f.one
    | .fin neg v => if neg then 0 else if v > 2 ^ 149 then f.one else x

/-- The sign of an exact sum of zero (R238). -/
def sumZeroNeg (rnd : BitVec 3) (negs : List Bool) : Bool := negs.all id || rnd = 3

/-- FFMA in a format (R241): a × b + c rounded once. -/
def FFmt.fma (f : FFmt) (rnd : BitVec 3) (a b c : Nat) : Nat :=
  match f.unpack a, f.unpack b, f.unpack c with
  | .nan x, _, _ => f.quiet x
  | _, .nan x, _ => f.quiet x
  | _, _, .nan x => f.quiet x
  | .inf s, y, z =>
    match y with
    | .fin _ 0 => f.canon
    | .fin t _ | .inf t =>
      match z with
      | .inf u => if u = (s != t) then f.sgn u + f.ovf else f.canon
      | _ => f.sgn (s != t) + f.ovf
    | .nan _ => f.canon
  | .fin s v, .inf t, z =>
    if v = 0 then f.canon
    else match z with
      | .inf u => if u = (s != t) then f.sgn u + f.ovf else f.canon
      | _ => f.sgn (s != t) + f.ovf
  | .fin _ _, .fin _ _, .inf u => f.sgn u + f.ovf
  | .fin s v, .fin t w, .fin u z =>
    f.roundInt rnd (sumZeroNeg rnd [s != t, u]) false (v * w + z * 2 ^ 149) (2 ^ 298)

/-- FADD in a format (R241). -/
def FFmt.add (f : FFmt) (rnd : BitVec 3) (a b : Nat) : Nat :=
  match f.unpack a, f.unpack b with
  | .nan x, _ => f.quiet x
  | _, .nan x => f.quiet x
  | .inf s, .inf t => if s = t then f.sgn s + f.ovf else f.canon
  | .inf s, _ => f.sgn s + f.ovf
  | _, .inf s => f.sgn s + f.ovf
  | .fin s v, .fin t w => f.roundInt rnd (sumZeroNeg rnd [s, t]) false (v + w) (2 ^ 149)

/-- The pattern with its sign changed. -/
def FFmt.negate (f : FFmt) (x : Nat) : Nat := if x / 2 ^ (f.width - 1) % 2 = 1 then x - 2 ^ (f.width - 1) else x + 2 ^ (f.width - 1)

/-- FSUB in a format (R241): a NaN source is not negated (R237). -/
def FFmt.sub (f : FFmt) (rnd : BitVec 3) (a b : Nat) : Nat :=
  match f.unpack a, f.unpack b with
  | .nan x, _ => f.quiet x
  | _, .nan x => f.quiet x
  | _, _ => f.add rnd a (f.negate b)

/-- FMUL in a format (R241). -/
def FFmt.mul (f : FFmt) (rnd : BitVec 3) (a b : Nat) : Nat :=
  match f.unpack a, f.unpack b with
  | .nan x, _ => f.quiet x
  | _, .nan x => f.quiet x
  | .inf s, .inf t => f.sgn (s != t) + f.ovf
  | .inf s, .fin t w => if w = 0 then f.canon else f.sgn (s != t) + f.ovf
  | .fin s v, .inf t => if v = 0 then f.canon else f.sgn (s != t) + f.ovf
  | .fin s v, .fin t w => f.roundInt rnd (s != t) false (v * w) (2 ^ 298)

/-- FSCALE (R241): a × 2^n; beyond ±600 the result no longer changes. -/
def FFmt.scale (f : FFmt) (rnd : BitVec 3) (a : Nat) (n : Int) : Nat :=
  match f.unpack a with
  | .nan x => f.quiet x
  | .inf _ => a
  | .fin s v =>
    if v = 0 then a
    else
      let k : Int := if n > 600 then 600 else if n < -600 then -600 else n
      f.roundInt rnd s false (v * 2 ^ (k + 600).toNat) (2 ^ 749)

/-- The order of two values that are no NaNs, −0 below +0: whether a comes before b (R242). -/
def FV.lt (a b : FV) : Bool :=
  match a, b with
  | .inf s, .inf t => s && !t
  | .inf s, _ => s
  | _, .inf t => !t
  | .fin s v, .fin t w => v < w || (v = w && s && !t)
  | _, _ => false

/-- FMIN and FMAX (R242). -/
def FFmt.minmax (f : FFmt) (isMax : Bool) (a b : Nat) : Nat :=
  match f.unpack a, f.unpack b with
  | .nan x, .nan _ => f.quiet x
  | .nan _, _ => b
  | _, .nan _ => a
  | x, y => if isMax then (if FV.lt x y then b else a) else (if FV.lt y x then b else a)

/-- A comparison of two values by the signs of their difference: less, equal; none when unordered (R243). -/
def FV.cmp (a b : FV) : Option (Bool × Bool) :=
  match a, b with
  | .nan _, _ => none
  | _, .nan _ => none
  | .inf s, .inf t => some (s && !t, s = t)
  | .inf s, _ => some (s, false)
  | _, .inf t => some (!t, false)
  | .fin _ v, .fin _ w => some (v < w, v = w)

/-- The condition field of FCMP (R243). -/
def fcond (cc : BitVec 3) (a b : Word) : Bool :=
  match FV.cmp (f32.unpack a.toNat) (f32.unpack b.toNat), cc.toNat with
  | none, 1 => true
  | none, 7 => true
  | none, _ => false
  | some (_, eq), 0 => eq
  | some (_, eq), 1 => !eq
  | some (lt, _), 2 => lt
  | some (lt, eq), 3 => lt || eq
  | some (lt, eq), 4 => !(lt || eq)
  | some (lt, _), 5 => !lt
  | some _, 6 => true
  | some _, _ => false

/-- FCLASS (R244). -/
def fclass (a : Word) : Word :=
  match f32.unpack a.toNat with
  | .nan x => if x / 2 ^ 22 % 2 = 1 then 2 ^ 9 else 2 ^ 8
  | .inf s => if s then 1 else 2 ^ 7
  | .fin s v =>
    if v = 0 then (if s then 2 ^ 3 else 2 ^ 4)
    else if v.natAbs < 2 ^ 23 then (if s then 2 ^ 2 else 2 ^ 5)
    else (if s then 2 else 2 ^ 6)

/-- A value in units of 2^-149 rounded to an integer (R235). -/
def roundToInt (rnd : BitVec 3) (v : Int) : Int :=
  let t := v.natAbs / 2 ^ 149
  let t' := if roundsUp rnd (v < 0) t (v.natAbs % 2 ^ 149) (2 ^ 149) then t + 1 else t
  if v < 0 then -(t' : Int) else t'

/-- FRND (R245). -/
def frnd (rnd : BitVec 3) (a : Nat) : Nat :=
  match f32.unpack a with
  | .nan x => f32.quiet x
  | .inf _ => a
  | .fin s v =>
    if v.natAbs ≥ 2 ^ 172 then a
    else f32.roundInt 0 s false (roundToInt rnd v * 2 ^ 149) (2 ^ 149)

/-- F2I (R246): clamped to the range `lo` to `hi`; a NaN gives 0. -/
def f2iClamp (rnd : BitVec 3) (lo hi : Int) (x : FV) : Int :=
  match x with
  | .nan _ => 0
  | .inf s => if s then lo else hi
  | .fin _ v => let n := roundToInt rnd v; if n < lo then lo else if n > hi then hi else n
def f2i (uns : Bool) (rnd : BitVec 3) (a : Word) : Word :=
  let x := f32.unpack a.toNat
  BitVec.ofInt 32 (if uns then f2iClamp rnd 0 (2 ^ 32 - 1) x else f2iClamp rnd (-(2 ^ 31)) (2 ^ 31 - 1) x)

/-- I2F (R246). -/
def i2f (uns : Bool) (rnd : BitVec 3) (a : Word) : Word :=
  let n : Int := if uns then a.toNat else a.toInt
  BitVec.ofNat 32 (f32.roundInt rnd false false n 1)

/-- The format of an FCVT code below 6 (R247). -/
def fcvtFmt (c : Nat) : FFmt :=
  match c with | 0 => f32 | 1 => f16 | 2 => bf16 | 3 => e4m3 | 4 => e5m2 | _ => e2m1

/-- A NaN converted between formats (R250). -/
def cvtNaN (from_ into : FFmt) (x : Nat) : Nat :=
  let neg := x / 2 ^ (from_.width - 1) % 2 = 1
  if into.width = 4 then 0
  else if into.inf.isNone ∨ from_.inf.isNone then into.sgn neg + into.canon
  else
    let fr := x % 2 ^ from_.m
    let fr := if into.m ≤ from_.m then fr / 2 ^ (from_.m - into.m) else fr * 2 ^ (into.m - from_.m)
    into.quiet (into.sgn neg + into.ovf + fr)

/-- A value stored to a format as FCVT stores it (R248). -/
def storeAs (into : FFmt) (rnd : BitVec 3) (sat : Bool) (from_ : FFmt) (x : FV) : Nat :=
  match x with
  | .nan b => cvtNaN from_ into b
  | .inf s => if sat then into.sgn s + into.max else into.sgn s + into.ovf
  | .fin s v => into.roundInt rnd s sat v (2 ^ 149)

/-- The width of a format's elements by its code (R231, R247). -/
def codeWidth (code : Nat) : Nat := if code = 0 then 32 else if code ≤ 2 then 16 else if code = 5 then 4 else 8

/-- FCVT between codes (R247 to R249), on the source and destination elements; a widening ignores SAT. -/
def fcvt (frm into : Nat) (rnd : BitVec 3) (sat : Bool) (x : Nat) : Nat :=
  if frm = 6 then
    let t := fcvtFmt into
    if x % 256 = 0xFF then t.canon
    else t.round rnd false sat (2 ^ (x % 256 + 22)) (2 ^ 149)
  else
    let f := fcvtFmt frm
    if into = 6 then
      match f.unpack x with
      | .nan _ => 0xFF
      | .inf _ => 0xFF
      | .fin _ v =>
        let n := v.natAbs
        if n < 2 ^ 22 then 0
        else
          let k := n.log2 - 22
          let k := if rnd = 2 ∧ 2 ^ n.log2 ≠ n then k + 1 else k
          if k > 254 then (if sat then 0xFE else 0xFF) else k
    else storeAs (fcvtFmt into) rnd (sat && codeWidth into ≤ codeWidth frm) f (f.unpack x)

/-- The exact sum of values with the rules of the add combine (R62): the pattern after one RNE rounding. -/
def combineAdd (f : FFmt) (xs : List FV) : Nat :=
  if xs.any (fun x => match x with | .nan _ => true | _ => false) then f.canon
  else
    let p := xs.contains (.inf false)
    let n := xs.contains (.inf true)
    if p && n then f.canon
    else if p then f.ovf
    else if n then f.sgn true + f.ovf
    else
      let sum : Int := xs.foldl (fun a x => match x with | .fin _ v => a + v | _ => a) (0 : Int)
      f.roundInt 0 (xs.all fun x => match x with | .fin s _ => s | _ => false) false sum (2 ^ 149)

/-- The F32 maximum and minimum of the commutative formats (R62, R266): any NaN gives the canonical NaN. -/
def combineMax (isMin : Bool) (a b : Nat) : Nat :=
  match f32.unpack a, f32.unpack b with
  | .nan _, _ => f32.canon
  | _, .nan _ => f32.canon
  | x, y => if isMin then (if FV.lt y x then b else a) else (if FV.lt x y then b else a)

/-- The integer square root, by its bits from `n` down. -/
def isqrtFrom (x : Nat) : Nat → Nat → Nat
  | 0, r => r
  | n + 1, r => isqrtFrom x n (if (r + 2 ^ n) * (r + 2 ^ n) ≤ x then r + 2 ^ n else r)
def isqrt (x : Nat) : Nat := isqrtFrom x (x.log2 / 2 + 1) 0

end Sys2Proof.Machine
end

