-- ==== Sys2Proof/Machine/Integer.lean ====
section
/-! DEFINITION. The integer vector instructions (R196 to R201), as operations on a warp. -/

namespace Sys2Proof.Machine

section v3
variable (gr : Grp) (d a : BitVec 6) (lka : BitVec 2) (b : BitVec 6) (lkb : BitVec 2) (bu : BitVec 1)

/-- IADD (R197). -/
def opIadd : Warp → Except Trap Warp := runV3 gr d a lka b lkb bu false fun x y _ => wrapOrSat (satOf gr) (x.toInt + y.toInt)
/-- ISUB (R197). -/
def opIsub : Warp → Except Trap Warp := runV3 gr d a lka b lkb bu false fun x y _ => wrapOrSat (satOf gr) (x.toInt - y.toInt)
/-- IMUL (R197). -/
def opImul : Warp → Except Trap Warp := runV3 gr d a lka b lkb bu false fun x y _ => x * y
/-- IMULHI.S (R197). -/
def opImulhiS : Warp → Except Trap Warp :=
  runV3 gr d a lka b lkb bu false fun x y _ => BitVec.ofInt 32 ((x.toInt * y.toInt) / 2 ^ 32)
/-- IMULHI.U (R197). -/
def opImulhiU : Warp → Except Trap Warp :=
  runV3 gr d a lka b lkb bu false fun x y _ => BitVec.ofNat 32 (x.toNat * y.toNat / 2 ^ 32)
/-- IMAD (R197): exact before clamping. -/
def opImad : Warp → Except Trap Warp :=
  runV3 gr d a lka b lkb bu true fun x y z => wrapOrSat (satOf gr) (x.toInt * y.toInt + z.toInt)
/-- IMIN.S, IMIN.U, IMAX.S, IMAX.U (R197). -/
def opIminS : Warp → Except Trap Warp := runV3 gr d a lka b lkb bu false fun x y _ => if y.toInt < x.toInt then y else x
def opIminU : Warp → Except Trap Warp := runV3 gr d a lka b lkb bu false fun x y _ => if y.toNat < x.toNat then y else x
def opImaxS : Warp → Except Trap Warp := runV3 gr d a lka b lkb bu false fun x y _ => if x.toInt < y.toInt then y else x
def opImaxU : Warp → Except Trap Warp := runV3 gr d a lka b lkb bu false fun x y _ => if x.toNat < y.toNat then y else x
/-- AND, OR, XOR (R197). -/
def opAndV : Warp → Except Trap Warp := runV3 gr d a lka b lkb bu false fun x y _ => x &&& y
def opOrV : Warp → Except Trap Warp := runV3 gr d a lka b lkb bu false fun x y _ => x ||| y
def opXorV : Warp → Except Trap Warp := runV3 gr d a lka b lkb bu false fun x y _ => x ^^^ y
/-- SHL, SHR, SAR (R197): by bits 7:0 of b. -/
def opShl : Warp → Except Trap Warp := runV3 gr d a lka b lkb bu false fun x y _ => shl x (y.toNat % 256)
def opShr : Warp → Except Trap Warp := runV3 gr d a lka b lkb bu false fun x y _ => shr x (y.toNat % 256)
def opSar : Warp → Except Trap Warp := runV3 gr d a lka b lkb bu false fun x y _ => sar x (y.toNat % 256)
/-- BFE (R198). -/
def opBfe : Warp → Except Trap Warp :=
  runV3 gr d a lka b lkb bu true fun x y z => extractField x (y.toNat % 256) (z.toNat % 256) (z.getLsbD 8)
/-- BFI (R198): a into b. -/
def opBfi : Warp → Except Trap Warp :=
  runV3 gr d a lka b lkb bu true fun x y z => insertField x y (z.toNat % 256) (z.toNat / 256 % 256)

/-- SEL (R197): the third source is a predicate number, whose bits 5:3 are zero (R179). -/
def opSel (w : Warp) : Except Trap Warp := do
  needThird gr
  checkReps gr fun i => do
    vRange w (repD gr d.toNat i) 1
    vRange w (repA gr a.toNat i) 1
    bRange w bu (repB gr b.toNat i)
    pRange (repC gr gr.cReg.toNat i)
  .ok <| retire gr w <| performReps gr (fun i x =>
    let c := x.getP (repC gr gr.cReg.toNat i)
    let r : LaneVec := Vector.ofFn fun l =>
      if c.getLsbD l.val then x.getV (repA gr a.toNat i) l else x.getB bu (repB gr b.toNat i) l
    let y := x.lastUse w.executing lka [repA gr a.toNat i]
    let y := if bu = 1 then y else y.lastUse w.executing lkb [repB gr b.toNat i]
    y.setVec (repD gr d.toNat i) (w.active gr) r) w
end v3

/-- ICMP (R201). -/
def opIcmp (gr : Grp) (p c : BitVec 3) (a : BitVec 6) (lka : BitVec 2) (b : BitVec 6) (lkb : BitVec 2) (bu : BitVec 1) :
    Warp → Except Trap Warp := runP gr p a lka b lkb bu fun x y => cond c x y

section v2
variable (gr : Grp) (d a : BitVec 6) (lka : BitVec 2)

/-- IABS (R199). -/
def opIabs : Warp → Except Trap Warp := runV2 gr d a lka fun x _ => wrapOrSat (satOf gr) x.toInt.natAbs
/-- POPC, CLZ, MOV (R199). -/
def opPopc : Warp → Except Trap Warp := runV2 gr d a lka fun x _ => BitVec.ofNat 32 (popcount x)
def opClz : Warp → Except Trap Warp := runV2 gr d a lka fun x _ => BitVec.ofNat 32 (leadingZeros x)
def opMov : Warp → Except Trap Warp := runV2 gr d a lka fun x _ => x
/-- IADDI (R200). -/
def opIaddi (i : BitVec 9) : Warp → Except Trap Warp :=
  runV2 gr d a lka fun x _ => wrapOrSat (satOf gr) (x.toInt + (lo32 (immOf gr i)).toInt)
/-- ANDI, ORI, XORI, ANDNI (R200). -/
def opAndi (i : BitVec 7) : Warp → Except Trap Warp := runV2 gr d a lka fun x _ => x &&& lo32 (immOf gr i)
def opOri (i : BitVec 7) : Warp → Except Trap Warp := runV2 gr d a lka fun x _ => x ||| lo32 (immOf gr i)
def opXori (i : BitVec 7) : Warp → Except Trap Warp := runV2 gr d a lka fun x _ => x ^^^ lo32 (immOf gr i)
def opAndni (i : BitVec 7) : Warp → Except Trap Warp := runV2 gr d a lka fun x _ => x &&& ~~~(lo32 (immOf gr i))
/-- SHLI, SHRI, SARI, ROTI (R200). -/
def opShli (i : BitVec 5) : Warp → Except Trap Warp := runV2 gr d a lka fun x _ => shl x i.toNat
def opShri (i : BitVec 5) : Warp → Except Trap Warp := runV2 gr d a lka fun x _ => shr x i.toNat
def opSari (i : BitVec 5) : Warp → Except Trap Warp := runV2 gr d a lka fun x _ => sar x i.toNat
def opRoti (i : BitVec 5) : Warp → Except Trap Warp := runV2 gr d a lka fun x _ => x.rotateLeft i.toNat
end v2

/-- MOVI (R200). -/
def opMovi (gr : Grp) (d : BitVec 6) (i : BitVec 9) : Warp → Except Trap Warp := runV1 gr d fun _ _ => lo32 (immOf gr i)

end Sys2Proof.Machine
end

