-- ==== Sys2Proof/Machine/Float.lean ====
section
/-! DEFINITION. The floating-point vector instructions and the packed arithmetic (R240 to R253), as operations on a warp. -/

namespace Sys2Proof.Machine

/-- A bit pattern as a lane value. -/
def w32 (x : Nat) : Word := BitVec.ofNat 32 x
/-- The F32 result with SAT's clamp (R239). -/
def satF (gr : Grp) (x : Nat) : Word := w32 (f32.clamp01 (satOf gr) x)

section v3
variable (gr : Grp) (d a : BitVec 6) (lka : BitVec 2) (b : BitVec 6) (lkb : BitVec 2) (bu : BitVec 1)

/-- FADD, FSUB, FMUL, FFMA (R241). -/
def opFadd : Warp → Except Trap Warp :=
  runV3 gr d a lka b lkb bu false fun x y _ => satF gr (f32.add (rndOf gr) x.toNat y.toNat)
def opFsub : Warp → Except Trap Warp :=
  runV3 gr d a lka b lkb bu false fun x y _ => satF gr (f32.sub (rndOf gr) x.toNat y.toNat)
def opFmul : Warp → Except Trap Warp :=
  runV3 gr d a lka b lkb bu false fun x y _ => satF gr (f32.mul (rndOf gr) x.toNat y.toNat)
def opFfma : Warp → Except Trap Warp :=
  runV3 gr d a lka b lkb bu true fun x y z => satF gr (f32.fma (rndOf gr) x.toNat y.toNat z.toNat)
/-- FMIN, FMAX (R242): SAT and RND are ignored. -/
def opFmin : Warp → Except Trap Warp := runV3 gr d a lka b lkb bu false fun x y _ => w32 (f32.minmax false x.toNat y.toNat)
def opFmax : Warp → Except Trap Warp := runV3 gr d a lka b lkb bu false fun x y _ => w32 (f32.minmax true x.toNat y.toNat)
/-- FSCALE (R241). -/
def opFscale : Warp → Except Trap Warp :=
  runV3 gr d a lka b lkb bu false fun x y _ => satF gr (f32.scale (rndOf gr) x.toNat y.toInt)

/-- The element format of a packed instruction (R251). -/
def packedFmt : FFmt := if gr.efmt = 1 then bf16 else f16
/-- A packed result: each half separately (R252). -/
def packed (f : Nat → Nat → Nat → Nat) (x y z : Word) : Word :=
  let g (k : Nat) : Nat := (packedFmt gr).clamp01 (satOf gr) (f (bits x (k + 15) k) (bits y (k + 15) k) (bits z (k + 15) k))
  w32 (g 16 * 2 ^ 16 + g 0)
/-- HADD2, HMUL2, HFMA2 (R252). -/
def opHadd2 : Warp → Except Trap Warp :=
  runV3 gr d a lka b lkb bu false (packed gr fun x y _ => (packedFmt gr).add (rndOf gr) x y)
def opHmul2 : Warp → Except Trap Warp :=
  runV3 gr d a lka b lkb bu false (packed gr fun x y _ => (packedFmt gr).mul (rndOf gr) x y)
def opHfma2 : Warp → Except Trap Warp := runV3 gr d a lka b lkb bu true (packed gr ((packedFmt gr).fma (rndOf gr)))

/-- A product of two finite or infinite values for DOT4 (R253): none when it is 0 × infinity. A finite product is in
units of 2^-298. -/
def dotProduct (x y : FV) : Option FV :=
  match x, y with
  | .inf s, .inf t => some (.inf (s != t))
  | .inf s, .fin t w => if w = 0 then none else some (.inf (s != t))
  | .fin s v, .inf t => if v = 0 then none else some (.inf (s != t))
  | .fin s v, .fin t w => some (.fin (s != t) (v * w))
  | _, _ => none

/-- The float kinds of DOT4 (R253). -/
def dot4Float (f : FFmt) (rnd : BitVec 3) (x y z : Word) : Nat :=
  let el (v : Word) (k : Nat) : FV := f.unpack (bits v (8 * k + 7) (8 * k))
  let isNan (v : FV) : Bool := match v with | .nan _ => true | _ => false
  if (List.range 4).any fun k => isNan (el x k) || isNan (el y k) then f32.canon
  else match f32.unpack z.toNat with
    | .nan q => f32.quiet q
    | c =>
      let ps := (List.range 4).map fun k => dotProduct (el x k) (el y k)
      if ps.any Option.isNone then f32.canon
      else
        let c' := match c with | .fin s v => FV.fin s (v * 2 ^ 149) | o => o
        let ts := ps.filterMap id ++ [c']
        let p := ts.contains (.inf false)
        let n := ts.contains (.inf true)
        if p && n then f32.canon
        else if p then f32.ovf
        else if n then f32.sgn true + f32.ovf
        else
          let sum : Int := ts.foldl (fun a t => match t with | .fin _ v => a + v | _ => a) (0 : Int)
          f32.roundInt rnd (sumZeroNeg rnd (ts.map fun t => match t with | .fin s _ => s | _ => false)) false sum (2 ^ 298)

/-- DOT4 (R253). -/
def dot4 (x y z : Word) : Word :=
  let u (v : Word) (k : Nat) : Int := bits v (8 * k + 7) (8 * k)
  let sg (v : Word) (k : Nat) : Int := (BitVec.ofNat 8 (bits v (8 * k + 7) (8 * k))).toInt
  let sum (f g : Word → Nat → Int) : Int := (List.range 4).foldl (fun t k => t + f x k * g y k) (0 : Int)
  match gr.efmt.toNat with
  | 0 => wrapOrSat (satOf gr) (z.toInt + sum sg sg)
  | 1 =>
    let e := (z.toNat : Int) + sum u u
    if satOf gr then BitVec.ofInt 32 (min e (2 ^ 32 - 1)) else BitVec.ofInt 32 e
  | 2 => wrapOrSat (satOf gr) (z.toInt + sum sg u)
  | 3 => satF gr (dot4Float e4m3 (rndOf gr) x y z)
  | _ => satF gr (dot4Float e5m2 (rndOf gr) x y z)
def opDot4 : Warp → Except Trap Warp := runV3 gr d a lka b lkb bu true (dot4 gr)
end v3

/-- FCMP (R243). -/
def opFcmp (gr : Grp) (p c : BitVec 3) (a : BitVec 6) (lka : BitVec 2) (b : BitVec 6) (lkb : BitVec 2) (bu : BitVec 1) :
    Warp → Except Trap Warp := runP gr p a lka b lkb bu fun x y => fcond c x y

section v2
variable (gr : Grp) (d a : BitVec 6) (lka : BitVec 2)

/-- FCLASS (R244), FRND (R245), F2I, I2F (R246). -/
def opFclass : Warp → Except Trap Warp := runV2 gr d a lka fun x _ => fclass x
def opFrnd : Warp → Except Trap Warp := runV2 gr d a lka fun x _ => satF gr (frnd (rndOf gr) x.toNat)
def opF2i (u : BitVec 1) : Warp → Except Trap Warp := runV2 gr d a lka fun x _ => f2i (u = 1) (rndOf gr) x
def opI2f (u : BitVec 1) : Warp → Except Trap Warp := runV2 gr d a lka fun x _ => i2f (u = 1) (rndOf gr) x
/-- FCVT (R247): one element of a to one element of d, the other bits of d kept. -/
def opFcvt (r t q : BitVec 3) : Warp → Except Trap Warp :=
  runV2 gr d a lka fun x old =>
    let wf := fcvtWidth r
    let wt := fcvtWidth t
    let src := if wf = 32 then x.toNat else bits x (q.toNat * wf + wf - 1) (q.toNat * wf)
    let v := fcvt r.toNat t.toNat (rndOf gr) (satOf gr) src
    if wt = 32 then w32 v
    else
      let lo := q.toNat * wt
      w32 (old.toNat - bits old (lo + wt - 1) lo * 2 ^ lo + v * 2 ^ lo)
end v2

end Sys2Proof.Machine
end

