-- ==== Sys2Proof/Machine/Sfu.lean ====
section
/-! DEFINITION. The special functions (R254 to R256). RCP and SQRT are correctly rounded; of the others the exact cases
and the symmetries are computed, and elsewhere the value is a free value of Config that meets the bound of R255. -/

namespace Sys2Proof.Machine

/-- Fixed-point numbers with 200 fraction bits. -/
def fxOne : Int := 2 ^ 200
def fxPi : Int := 5048344754617993871973410141242436836214643421488662971535368
def fxLn2 : Int := 1113844574712631719546256151097547306333272293549090750737802
def fxMul (a b : Int) : Int := a * b / 2 ^ 200

/-- The sum over k from `k` of x^k / k!, `n` terms, from the term `t`; `step` is 1, or 2 for the alternating series. -/
def fxExp (x : Int) : Nat → Nat → Int → Int
  | 0, _, _ => 0
  | n + 1, k, t => t + fxExp x n (k + 1) (fxMul t x / ((k : Int) + 1))
/-- The alternating series of sine (from k = 1, t = x) and cosine (from k = 0, t = 1), with x2 = x². -/
def fxTrig (x2 : Int) : Nat → Nat → Int → Int
  | 0, _, _ => 0
  | n + 1, k, t => t + fxTrig x2 n (k + 2) (-(fxMul t x2) / (((k : Int) + 1) * ((k : Int) + 2)))
/-- The series of artanh: the sum of z^k / k over odd k. -/
def fxAtanh (z2 : Int) : Nat → Nat → Int → Int
  | 0, _, _ => 0
  | n + 1, k, t => t / (k : Int) + fxAtanh z2 n (k + 2) (fxMul t z2)

/-- A value in units of 2^-149 as fixed point. -/
def toFx (v : Int) : Int := v * 2 ^ 51

/-- One ulp of a magnitude in fixed point (R255): 2^(max(k, -126) - 23). -/
def fxUlp (y : Int) : Int :=
  let k : Int := if y.natAbs = 0 then -127 else (y.natAbs.log2 : Int) - 200
  let e := (if k < -126 then -126 else k) - 23
  2 ^ (e + 200).toNat

/-- A free pattern stands when it is finite and its value lies within the bound of the value y, whose own error is below
2^-180 of its scale; otherwise the nearest value stands. -/
def within (free : Word) (y bound : Int) : Nat :=
  match f32.unpack free.toNat with
  | .fin _ v =>
    let d := toFx v - y
    if (d.natAbs : Int) ≤ bound then free.toNat else f32.roundInt 0 (y < 0) true y (2 ^ 200)
  | _ => f32.roundInt 0 (y < 0) true y (2 ^ 200)

/-- 2^a for a finite and not an integer, between -150 and 128. -/
def exp2Fx (v : Int) : Int :=
  let n := v.fdiv (2 ^ 149)
  let f := toFx (v - n * 2 ^ 149)
  let m := fxExp (fxMul f fxLn2) 60 0 fxOne
  if n ≥ 0 then m * 2 ^ n.toNat else m / 2 ^ (-n).toNat

/-- A number's place in the order of the F32 numbers. -/
def f32Place (a : Nat) : Nat := if a < 2 ^ 31 then 2 ^ 31 + a else 2 ^ 32 - a

/-- The free result of EXP2 (R255) within 2 ulp of y, a value that is no power of two, and on y's side of the powers of two next to it, whose
own results are exact. -/
def exp2Within (free : Nat) (y : Int) : Nat :=
  let k : Int := (y.natAbs.log2 : Int) - 200
  let lo := max (y - 2 * fxUlp y) (if k < -149 then 0 else 2 ^ (k + 200).toNat)
  let hi := min (y + 2 * fxUlp y) (2 ^ ((max (k + 1) (-149)) + 200).toNat)
  max (f32.roundInt 2 false true lo (2 ^ 200)) (min (f32.roundInt 3 false true hi (2 ^ 200)) free)

def sfuExp2 (a : Nat) : Nat :=
  match f32.unpack a with
  | .nan x => f32.quiet x
  | .inf s => if s then 0 else f32.ovf
  | .fin _ v =>
    if v ≥ 128 * 2 ^ 149 then f32.ovf
    else if v ≤ -150 * 2 ^ 149 then 0
    else if v.emod (2 ^ 149) = 0 then f32.round 0 false false (2 ^ (v.fdiv (2 ^ 149) + 150).toNat) (2 ^ 150)
    else exp2Within (Config.exp2Free (f32Place a)) (exp2Fx v)

def sfuLog2 (free : Word) (a : Nat) : Nat :=
  match f32.unpack a with
  | .nan x => f32.quiet x
  | .inf s => if s then f32.canon else f32.ovf
  | .fin s v =>
    if v = 0 then f32.sgn true + f32.ovf
    else if s then f32.canon
    else
      let k := v.natAbs.log2
      let n : Int := (k : Int) - 149
      if v.natAbs = 2 ^ k then f32.roundInt 0 false false n 1
      else
        let m := v * 2 ^ 200 / 2 ^ k
        let z := (m - fxOne) * 2 ^ 200 / (m + fxOne)
        let y := n * fxOne + 2 * fxAtanh (fxMul z z) 90 1 z * 2 ^ 200 / fxLn2
        let b := 2 * fxUlp y
        within free y (if 2 ^ 148 ≤ v ∧ v ≤ 2 ^ 150 then max b (2 ^ 178) else b)

def sfuRcp (rnd : BitVec 3) (a : Nat) : Nat :=
  match f32.unpack a with
  | .nan x => f32.quiet x
  | .inf s => f32.sgn s
  | .fin s v => if v = 0 then f32.sgn s + f32.ovf else f32.round rnd s false (2 ^ 149) v.natAbs

def sfuRsq (free : Word) (a : Nat) : Nat :=
  match f32.unpack a with
  | .nan x => f32.quiet x
  | .inf s => if s then f32.canon else 0
  | .fin s v =>
    if v = 0 then f32.sgn s + f32.ovf
    else if s then f32.canon
    else
      let k := v.natAbs.log2
      if v.natAbs = 2 ^ k ∧ (k + 149) % 2 = 0 then
        let n : Int := ((k : Int) - 149) / 2
        f32.round 0 false false (2 ^ (200 - n).toNat) (2 ^ 200)
      else
        let y : Int := isqrt (2 ^ (549) / v.natAbs)
        within free y (fxUlp y)

def sfuSqrt (rnd : BitVec 3) (a : Nat) : Nat :=
  match f32.unpack a with
  | .nan x => f32.quiet x
  | .inf s => if s then f32.canon else f32.ovf
  | .fin s v =>
    if v = 0 then a
    else if s then f32.canon
    else
      let n := v.natAbs * 2 ^ 351
      let r := isqrt n
      if r * r = n then f32.round rnd false false r (2 ^ 250) else f32.round rnd false false (2 * r + 1) (2 ^ 251)

/-- sin(π x) for x in [0, 2) as fixed point, by reduction to [0, 1/2]. -/
def sinPi (x : Int) : Int :=
  let sgn := x ≥ fxOne
  let x := if sgn then x - fxOne else x
  let x := if 2 * x > fxOne then fxOne - x else x
  let t := fxMul x fxPi
  let y := fxTrig (fxMul t t) 45 1 t
  if sgn then -y else y

/-- The argument of SIN and COS modulo 2 half-turns, as fixed point; a magnitude of 2^24 or more is an even integer or
an odd one exactly. -/
def halfTurns (v : Int) : Int := toFx (v.emod (2 ^ 150))

def sfuSin (free : Word) (a : Nat) : Nat :=
  match f32.unpack a with
  | .nan x => f32.quiet x
  | .inf _ => f32.canon
  | .fin s v =>
    let m : Int := v.natAbs
    if m = 0 then a
    else if m.emod (2 ^ 149) = 0 then f32.sgn s
    else if m.emod (2 ^ 148) = 0 then
      let up := m.emod (2 ^ 150) = 2 ^ 148
      f32.sgn (if up then s else !s) + f32.one
    else
      let y := sinPi (halfTurns m)
      let r := within free y (if m < 2 ^ 145 then 2 * fxUlp y else 2 ^ 178)
      let r := if r % 2 ^ 31 = 0 then 0 else r
      if s then f32.negate r else r

def sfuCos (free : Word) (a : Nat) : Nat :=
  match f32.unpack a with
  | .nan x => f32.quiet x
  | .inf _ => f32.canon
  | .fin _ v =>
    let m : Int := v.natAbs
    if m.emod (2 ^ 149) = 0 then f32.sgn (m.emod (2 ^ 150) ≠ 0) + f32.one
    else if m.emod (2 ^ 148) = 0 then 0
    else
      let x := (halfTurns m + fxOne / 2).emod (2 * fxOne)
      within free (sinPi x) (2 ^ 178)

def sfuTanh (free : Word) (a : Nat) : Nat :=
  match f32.unpack a with
  | .nan x => f32.quiet x
  | .inf s => f32.sgn s + f32.one
  | .fin s v =>
    let m : Int := v.natAbs
    if m < 2 ^ 137 then a
    else if m ≥ 9 * 2 ^ 149 then f32.sgn s + f32.one
    else
      let e := fxExp (2 * toFx m) 120 0 fxOne
      let y := (e - fxOne) * 2 ^ 200 / (e + fxOne)
      let r := within free y (2 * fxUlp y)
      if s then f32.negate r else r

/-- SFU (R254 to R256). The free value of an odd or even function is that of the magnitude. -/
def sfu (fn : BitVec 3) (rnd : BitVec 3) (sat : Bool) (a : Word) : Word :=
  let n := a.toNat
  let mag : Word := a &&& 0x7FFFFFFF
  let r := match fn.toNat with
    | 0 => sfuExp2 n
    | 1 => sfuLog2 (Config.sfuFree 1 a) n
    | 2 => sfuRcp rnd n
    | 3 => sfuRsq (Config.sfuFree 3 a) n
    | 4 => sfuSqrt rnd n
    | 5 => sfuSin (Config.sfuFree 5 mag) n
    | 6 => sfuCos (Config.sfuFree 6 mag) n
    | _ => sfuTanh (Config.sfuFree 7 mag) n
  w32 (f32.clamp01 sat r)

end Sys2Proof.Machine
end

