-- ==== Sys2Proof/Machine/Lane.lean ====
section
/-! DEFINITION. Lane operations (R205 to R213), as operations on a warp. SGET stands with the state it reads. -/

namespace Sys2Proof.Machine

/-- The lanes of the partition of lane `l` (R146). -/
def partLanes (w : Warp) (l : Fin 32) : List (Fin 32) := lanes.filter fun k => k.val / w.width = l.val / w.width
/-- The participants of a lane operation in the partition of lane `l` (R205). -/
def participants (w : Warp) (m : Mask) (l : Fin 32) : List (Fin 32) := (partLanes w l).filter fun k => m.getLsbD k.val
/-- A lane's position in its partition. -/
def position (w : Warp) (l : Fin 32) : Nat := l.val % w.width
/-- The lane of a number, 0 beyond 31. -/
def laneOf (n : Nat) : Fin 32 := Fin.ofNat 32 n

/-- The source lane of SHFL (R206). -/
def shflSource (w : Warp) (mode : BitVec 2) (n : Nat) (l : Fin 32) : Fin 32 :=
  let i := position w l
  let base := l.val - i
  let j := match mode.toNat with
    | 0 => n % w.width
    | 1 => if n ≤ i then i - n else i
    | 2 => if i + n < w.width then i + n else i
    | _ => if Nat.xor i n < w.width then Nat.xor i n else i
  laneOf (base + j)

/-- SHFL (R206). -/
def opShfl (gr : Grp) (d a : BitVec 6) (lka : BitVec 2) (m : BitVec 2) (r : BitVec 1) (i : BitVec 5) (w : Warp) :
    Except Trap Warp := do
  if r = 1 then needThird gr
  checkReps gr fun k => do
    vRange w (repD gr d.toNat k) 1
    vRange w (repA gr a.toNat k) 1
    if r = 1 then vRange w (repC gr gr.cReg.toNat k) 1
  .ok <| retire gr w <| performReps gr (fun k x =>
    let v : LaneVec := Vector.ofFn fun l =>
      let n := if r = 1 then (x.getV (repC gr gr.cReg.toNat k) l).toNat % 32 else i.toNat
      x.getV (repA gr a.toNat k) (shflSource x m n l)
    let y := x.lastUse w.executing lka [repA gr a.toNat k]
    let y := if r = 1 then y.lastUse w.executing gr.lkc [repC gr gr.cReg.toNat k] else y
    y.setVec (repD gr d.toNat k) (w.active gr) v) w

/-- VOTE (R207). VOTE.ALL at width 32 is collective (R143). -/
def opVote (gr : Grp) (d a : BitVec 6) (lka m : BitVec 2) (n : BitVec 1) (p : BitVec 3) (w : Warp) : Except Trap Warp := do
  checkReps gr fun k =>
    if m = 3 then vRange w (repD gr d.toNat k) 1
    else do
      pRange (repD gr d.toNat k)
      if m = 2 then vRange w (repA gr a.toNat k) 1
  if m = 0 ∧ w.width = 32 then collective gr w
  let act := w.active gr
  .ok <| retire gr w <| performReps gr (fun k x =>
    let q (l : Fin 32) : Bool := (x.getP p.toNat).getLsbD l.val != (n = 1)
    match m.toNat with
    | 0 => x.setP (repD gr d.toNat k) act (maskOf fun l => (participants x act l).all q)
    | 1 => x.setP (repD gr d.toNat k) act (maskOf fun l => (participants x act l).any q)
    | 2 =>
      let v := x.vec (repA gr a.toNat k)
      let r := maskOf fun l => (participants x act l).all fun j => (participants x act l).all fun i => v[i] = v[j]
      (x.lastUse w.executing lka [repA gr a.toNat k]).setP (repD gr d.toNat k) act r
    | _ =>
      let r : LaneVec := Vector.ofFn fun l =>
        BitVec.ofNat 32 (((participants x act l).filter q).foldl (fun t i => t + 2 ^ position x i) 0)
      x.setVec (repD gr d.toNat k) act r) w

/-- MATCH (R208): MASK, COUNT or LEADER. -/
def opMatchV (gr : Grp) (d a : BitVec 6) (lka m : BitVec 2) (w : Warp) : Except Trap Warp := do
  checkReps gr fun k => do
    vRange w (repD gr d.toNat k) 1
    vRange w (repA gr a.toNat k) 1
  let act := w.active gr
  .ok <| retire gr w <| performReps gr (fun k x =>
    let v := x.vec (repA gr a.toNat k)
    let r : LaneVec := Vector.ofFn fun l =>
      let same := (participants x act l).filter fun i => v[i] = v[l]
      match m.toNat with
      | 0 => BitVec.ofNat 32 (same.foldl (fun t i => t + 2 ^ position x i) 0)
      | 1 => BitVec.ofNat 32 same.length
      | _ => BitVec.ofNat 32 (position x (same.headD l))
    (x.lastUse w.executing lka [repA gr a.toNat k]).setVec (repD gr d.toNat k) act r) w

/-- The operation of REDUX and PSCAN and its identity (R209). -/
def reduxOp (o : BitVec 3) (x y : Word) : Word :=
  match o.toNat with
  | 0 => x + y
  | 1 => if y.toInt < x.toInt then y else x
  | 2 => if y.toNat < x.toNat then y else x
  | 3 => if x.toInt < y.toInt then y else x
  | 4 => if x.toNat < y.toNat then y else x
  | 5 => x &&& y
  | 6 => x ||| y
  | _ => x ^^^ y
def reduxId (o : BitVec 3) : Word :=
  match o.toNat with
  | 1 => 0x7FFFFFFF | 2 => 0xFFFFFFFF | 3 => 0x80000000 | 5 => 0xFFFFFFFF | _ => 0

/-- REDUX (R209). -/
def opRedux (gr : Grp) (d a : BitVec 6) (lka : BitVec 2) (o : BitVec 3) (w : Warp) : Except Trap Warp := do
  checkReps gr fun k => do
    vRange w (repD gr d.toNat k) 1
    vRange w (repA gr a.toNat k) 1
  let act := w.active gr
  .ok <| retire gr w <| performReps gr (fun k x =>
    let v := x.vec (repA gr a.toNat k)
    let r : LaneVec := Vector.ofFn fun l => (participants x act l).foldl (fun t i => reduxOp o t v[i]) (reduxId o)
    (x.lastUse w.executing lka [repA gr a.toNat k]).setVec (repD gr d.toNat k) act r) w

/-- PSCAN (R209): the participants at lower positions, and the lane's own value unless EXCL. -/
def opPscan (gr : Grp) (d a : BitVec 6) (lka : BitVec 2) (o : BitVec 3) (e : BitVec 1) (w : Warp) : Except Trap Warp := do
  checkReps gr fun k => do
    vRange w (repD gr d.toNat k) 1
    vRange w (repA gr a.toNat k) 1
  let act := w.active gr
  .ok <| retire gr w <| performReps gr (fun k x =>
    let v := x.vec (repA gr a.toNat k)
    let r : LaneVec := Vector.ofFn fun l =>
      ((participants x act l).filter fun i => i < l || (e = 0 && i = l)).foldl (fun t i => reduxOp o t v[i]) (reduxId o)
    (x.lastUse w.executing lka [repA gr a.toNat k]).setVec (repD gr d.toNat k) act r) w

/-- PART (R210): once for the warp. -/
def opPart (gr : Grp) (c : BitVec 3) (w : Warp) : Except Trap Warp :=
  .ok <| retire gr w <| if w.active gr = 0 then w else { w with partw := c }

/-- V2S (R212): once for the warp. -/
def opV2s (gr : Grp) (d a : BitVec 6) (lka : BitVec 2) (sx pair_ first : BitVec 1) (lane : BitVec 5) (w : Warp) :
    Except Trap Warp := do
  checkReps gr fun k => do
    sRange (repD gr d.toNat k) 1
    vRange w (repA gr a.toNat k) (if pair_ = 1 then 2 else 1)
  let act := w.active gr
  .ok <| retire gr w <| if act = 0 then w else performReps gr (fun k x =>
    let l := if first = 1 then lowLane act else laneOf lane.toNat
    let n := repA gr a.toNat k
    let lo := x.getV n l
    let v : Dword := if pair_ = 1 then pair (x.getV (n + 1) l) lo else if sx = 1 then lo.signExtend 64 else lo.setWidth 64
    (x.lastUse w.executing lka (if pair_ = 1 then [n, n + 1] else [n])).setS (repD gr d.toNat k) v) w

/-- S2V (R212). -/
def opS2v (gr : Grp) (d a : BitVec 6) (pair_ : BitVec 1) (w : Warp) : Except Trap Warp := do
  checkReps gr fun k => do
    vRange w (repD gr d.toNat k) (if pair_ = 1 then 2 else 1)
    sRange (repA gr a.toNat k) 1
  .ok <| retire gr w <| performReps gr (fun k x =>
    let v := x.getS (repA gr a.toNat k)
    let n := repD gr d.toNat k
    let y := x.setVec n (w.active gr) (Vector.replicate 32 (lo32 v))
    if pair_ = 1 then y.setVec (n + 1) (w.active gr) (Vector.replicate 32 (hi32 v)) else y) w

/-- PMOV.AND, .OR and .XOR (R213): predicate sources with their complements. -/
def runPmov (gr : Grp) (d a : BitVec 3) (n m : BitVec 1) (p : BitVec 3) (f : Mask → Mask → Mask) (w : Warp) :
    Except Trap Warp := do
  checkReps gr fun k => do
    pRange (repD gr d.toNat k)
    pRange (repA gr a.toNat k)
  .ok <| retire gr w <| performReps gr (fun k x =>
    let xa := x.getP (repA gr a.toNat k)
    let xb := x.getP p.toNat
    x.setP (repD gr d.toNat k) (w.active gr) (f (if n = 1 then ~~~xa else xa) (if m = 1 then ~~~xb else xb))) w
def opPmovAnd (gr : Grp) (d a : BitVec 3) (n m : BitVec 1) (p : BitVec 3) : Warp → Except Trap Warp :=
  runPmov gr d a n m p fun x y => x &&& y
def opPmovOr (gr : Grp) (d a : BitVec 3) (n m : BitVec 1) (p : BitVec 3) : Warp → Except Trap Warp :=
  runPmov gr d a n m p fun x y => x ||| y
def opPmovXor (gr : Grp) (d a : BitVec 3) (n m : BitVec 1) (p : BitVec 3) : Warp → Except Trap Warp :=
  runPmov gr d a n m p fun x y => x ^^^ y

/-- PMOV.P2V, .V2P, .P2S and .S2P (R213). -/
def opPmovP2v (gr : Grp) (d : BitVec 6) (a : BitVec 3) (w : Warp) : Except Trap Warp := do
  checkReps gr fun k => do
    vRange w (repD gr d.toNat k) 1
    pRange (repA gr a.toNat k)
  .ok <| retire gr w <| performReps gr (fun k x =>
    let q := x.getP (repA gr a.toNat k)
    x.setVec (repD gr d.toNat k) (w.active gr) (Vector.ofFn fun l => if q.getLsbD l.val then 1 else 0)) w
def opPmovV2p (gr : Grp) (d : BitVec 3) (a : BitVec 6) (lka : BitVec 2) (w : Warp) : Except Trap Warp := do
  checkReps gr fun k => do
    pRange (repD gr d.toNat k)
    vRange w (repA gr a.toNat k) 1
  .ok <| retire gr w <| performReps gr (fun k x =>
    let q := maskOf fun l => (x.getV (repA gr a.toNat k) l).getLsbD 0
    (x.lastUse w.executing lka [repA gr a.toNat k]).setP (repD gr d.toNat k) (w.active gr) q) w
def opPmovP2s (gr : Grp) (d : BitVec 6) (a : BitVec 3) (w : Warp) : Except Trap Warp := do
  checkReps gr fun k => do
    sRange (repD gr d.toNat k) 1
    pRange (repA gr a.toNat k)
  .ok <| retire gr w <| if w.active gr = 0 then w else performReps gr (fun k x =>
    x.setS (repD gr d.toNat k) ((x.getP (repA gr a.toNat k)).setWidth 64)) w
def opPmovS2p (gr : Grp) (d : BitVec 3) (a : BitVec 6) (w : Warp) : Except Trap Warp := do
  checkReps gr fun k => do
    pRange (repD gr d.toNat k)
    sRange (repA gr a.toNat k) 1
  .ok <| retire gr w <| performReps gr (fun k x =>
    x.setP (repD gr d.toNat k) (w.active gr) (lo32 (x.getS (repA gr a.toNat k)))) w

end Sys2Proof.Machine
end

