-- ==== Sys2Proof/Machine/Translate.lean ====
section
/-! DEFINITION. Addresses: who presents one (R26), canonical form (R13), what one reaches (R20, R27), the physical map with its dies, slices
and interfaces (R15, R65, R66), and the reserved flush areas (R323). -/

namespace Sys2Proof.Machine

/-- Who presents an address: the mode, the context's registers (R26) and the unit's place. -/
structure Ctx where
  core : Nat
  bslot : Option Nat
  launch : Word
  block : Word
  rank : Nat
  coh : Nat
  warpNo : Nat
  sup : Bool
  ptroot : Dword
  regions : List Region
  privBase : Nat
  privBytes : Nat
  vgran : Nat := 8
  nacc : Nat := 8
  /-- It translates through its core's TLBs; a unit of the base die walks each time (R22, R43). -/
  tlb : Bool := true
  deriving DecidableEq, Repr

/-- The kinds of access the checks of R21 tell apart; `data` is a read of data that is no plain load (LDCL, textures, rays, WAITS: R448). -/
inductive Kind where
  | load | data | store | atomic | lock | engRead | engWrite | stashRead | stashWrite | fetch | pixel
  deriving DecidableEq, Repr

def Kind.writes : Kind → Bool
  | .store | .atomic | .lock | .engWrite | .stashWrite | .pixel => true
  | _ => false
def Kind.engine : Kind → Bool
  | .engRead | .engWrite => true
  | _ => false

/-- What an address reaches: device memory (normal or uncached), device register space, a remote device, the host, a
local store by core and block slot, the context image of the issuing warp. -/
inductive Place where
  | mem (pa : Nat) (uncached : Bool)
  | reg (pa : Nat)
  | remote (node addr : Nat)
  | host (conn addr : Nat)
  | loc (core bslot off : Nat)
  | ctx (off : Nat)
  deriving DecidableEq, Repr

/-- One checked access: its parts (a private access of more than four bytes has several, R30), its effective domain,
its region's attributes, its key id. `off` is the part's first byte within the value; a part has the virtual address, the page size, the key
id and the leaf of its own translation. -/
structure Part where
  place : Place
  off : Nat
  n : Nat
  va : Nat := 0
  page : Nat := 0x10000
  key : Nat := 0
  leaf : Option Leaf := none
  deriving DecidableEq, Repr
structure Acc where
  va : Dword
  parts : List Part
  dom : Domain
  key : Nat
  cfmt : BitVec 3 := 0
  fresh : Bool := false
  own : Bool := false
  pub : Bool := false
  priv : Bool := false
  aperture : Bool := false
  /-- The size of the page (R16). -/
  page : Nat := 0x10000
  /-- It obtains write permission, which sets D (R22). -/
  dirties : Bool := false
  deriving DecidableEq, Repr

/-- What an access reaches: its first part's place. -/
def Acc.place (a : Acc) : Place := match a.parts with | p :: _ => p.place | [] => .ctx 0

/-- A trap of an access check with its place in R21 and its address. -/
def trapAt (rank code sub : Nat) (va : Dword) (level : Nat := 0) : Trap :=
  { code := BitVec.ofNat 8 code, sub := BitVec.ofNat 8 sub, addr := va, level := BitVec.ofNat 2 level, rank := rank }

/-- Bits 63:57 all equal bit 56 (R13). -/
def canonical (va : Dword) : Bool := (va.extractLsb' 0 57).signExtend 64 = va

/-- A 57-bit address field, sign-extended (R298, R354). -/
def sext57 (x : Dword) : Dword := (x.extractLsb' 0 57).signExtend 64

/-- The first byte of aperture space (R14). -/
def apertureBase : Nat := 0xFFFFFFF000000000
def inAperture (va : Dword) : Bool := va.toNat ≥ apertureBase

/-- The memory die of a physical address, by logical index (R65). -/
def dieOf (m : Mgmt) (pa : Nat) : Nat := pa / 65536 % m.memDies.length
/-- The slice of a physical address within its die (R65). -/
def sliceOf (m : Mgmt) (pa : Nat) : Nat :=
  let l := pa / 65536 / m.memDies.length * 65536 + pa % 65536
  Nat.xor (Nat.xor (bitsOf l 11 8) (bitsOf l 15 12)) (bitsOf l 19 16)
/-- The interface address of a physical address (R65). -/
def interfaceAddr (m : Mgmt) (pa : Nat) : Nat :=
  let l := pa / 65536 / m.memDies.length * 65536 + pa % 65536
  l / 4096 * 256 + l % 256

/-- Installed memory of the device: 128 GiB a memory die (R4, R15). -/
def installedOf (m : Mgmt) : Nat := m.memDies.length * 0x2000000000

/-- A unit of 64 KiB is withdrawn: its memory die failed (R66). -/
def withdrawn (m : Mgmt) (unit : Nat) : Bool := m.badSockets.contains (m.memDies.getD (unit % m.memDies.length) 99)

/-- The size of a flush area (R323): the most regions one shading die owns on the largest screen, 512 KiB each; of each row's
128 regions a die owns 128 / S, and one more where its first one lies among the first 128 mod S. -/
def flushSize (m : Mgmt) : Nat :=
  let n := m.shadeDies.length
  let odd := fun (i : Nat) => ((List.range 128).filter fun ry => (i + 5 * n * 128 - 5 * ry) % n < 128 % n).length
  let q := 128 * (128 / n) + ((List.range n).map odd).foldl Nat.max 0
  (q * 0x80000 + 0x1FFFFF) / 0x200000 * 0x200000

/-- Bytes of a range that no page may map: beyond installed memory and below register space, withdrawn, or reserved. -/
def backed (m : Mgmt) (pa n : Nat) : Bool :=
  if pa ≥ 0xF000000000000 then pa + n ≤ 0x10000000000000
  else
    pa + n ≤ installedOf m
      && !(m.memDies.any fun d => m.badSockets.contains d
            && (n ≥ 65536 * m.memDies.length || ((List.range ((n + 65535) / 65536)).any fun i => withdrawn m (pa / 65536 + i))))
      && !(m.flush.any fun f => pa < f.2.1 + f.2.2 && f.2.1 < pa + n)

/-- The granule record of a physical address. -/
def Home.granAt (h : Home) (pa : Nat) : Granule := (assoc (pa / 64) h.gran).getD {}

end Sys2Proof.Machine
end

