-- ==== Sys2Proof/Machine/Home.lean ====
section
/-! DEFINITION. Homes: check values and poison (R79, R80), the operations of R266, update-only partials (R61 to R64, R102),
stash recalls (R54), the directory (R69), release tags (R96, R97), line locks (R272, R273), and trap records (R389, R390). -/

namespace Sys2Proof.Machine

/-! ## Trap records -/

/-- The fields of a trap record (R390). -/
structure Rec where
  code : BitVec 8
  sub : BitVec 8
  kind : Nat
  inpatch : Bool := false
  late : Bool := false
  det : Bool := false
  level : Nat := 0
  gen : Word := 0
  addr : Dword := 0
  launch : Word := 0
  block : Word := 0
  warp : Nat := 0
  core : Nat := 0
  lanes : Mask := 0
  pc : Dword := 0
  unit : Nat := 0
  chan : Nat := 0
  handle : Nat := 0
  job : Nat := 0
  opidx : Nat := 0
  usub : BitVec 8 := 0
  dwb : Nat := 0
  dwa : Nat := 0
  deriving DecidableEq, Repr

/-- A core's number as the header's CORE field holds it (R32): the core in its cluster, then the cluster, as %core. -/
def coreField (c : Nat) : Nat := c

def bit (b : Bool) : Nat := if b then 1 else 0

/-- The 64 bytes of a record (R390). RESP is 0. -/
def Rec.bytes (r : Rec) : List Byte :=
  leBytes 4 (r.code.toNat + r.sub.toNat * 2 ^ 8 + r.kind * 2 ^ 16 + bit r.inpatch * 2 ^ 20 + bit r.late * 2 ^ 21
      + bit r.det * 2 ^ 22 + r.level * 2 ^ 23)
    ++ leBytes 4 r.gen.toNat ++ leBytes 8 r.addr.toNat ++ leBytes 4 r.launch.toNat ++ leBytes 4 r.block.toNat
    ++ leBytes 2 r.warp ++ leBytes 2 (coreField r.core) ++ leBytes 4 r.lanes.toNat ++ leBytes 8 r.pc.toNat
    ++ leBytes 8 (r.unit + r.chan * 2 ^ 3 + r.handle * 2 ^ 5 + r.job * 2 ^ 10 + r.opidx * 2 ^ 14 + r.usub.toNat * 2 ^ 19
      + r.dwb % 2 ^ 32 * 2 ^ 32)
    ++ leBytes 8 r.dwa ++ leBytes 8 0

/-- Queues a record for a launch's trap queue; `unit` waits with it (R389), and a completion signal (R159). -/
def queueRecord (s : State) (trapq : Dword) (r : Rec) (unit : Option FaultUnit := none) (done : Option DoneSig := none) : State :=
  { s with records := s.records ++ [{ trapq := trapq.toNat, bytes := r.bytes, core := r.core, unit := unit, done := done }] }

/-- Queues a record of a launch (R390). -/
def launchRecord (s : State) (r : Rec) (unit : Option FaultUnit := none) : State :=
  match s.launchOf r.launch with
  | some l => queueRecord s l.trapq { r with gen := l.gen } unit
  | none => s

/-! ## What the replay of a group keeps (R188, R388) -/

/-- The index of the operation that is performed; 0 outside a microprogram. -/
def Warp.opIdx (w : Warp) : Nat := match w.micro with | some m => m.op | none => 0
/-- What the group's performance resumes from (R188, R388). -/
def Warp.resumed (w : Warp) : Resume :=
  match w.resume with
  | some r =>
    if r.pc = w.pc ∧ r.op = w.opIdx then r
    else if r.pc = w.pc ∧ w.micro.isSome then
      match r.rmw with
      | some (op, done, kept) =>
        if op = w.opIdx then { pc := w.pc, op := op, mrep := r.mrep, done := done, kept := kept } else { pc := w.pc, op := w.opIdx, mrep := r.mrep, rmw := r.rmw }
      | none => { pc := w.pc, op := w.opIdx, mrep := r.mrep }
    else { pc := w.pc, op := w.opIdx, mrep := r.mrep }
  | none => { pc := w.pc, op := w.opIdx }
def Warp.setRep (w : Warp) (n : Nat) : Warp := { w with resume := some { w.resumed with rep := n, done := 0 } }
def Warp.setDone (w : Warp) (m : Mask) (kept : Vector Dword 32) : Warp :=
  { w with resume := some { w.resumed with done := m, kept := kept } }
/-- The group's performance is complete: nothing is kept of it. -/
def Warp.clearResume (w : Warp) : Warp :=
  match w.resume with
  | some r =>
    if r.pc = w.pc ∧ r.op = w.opIdx then
      { w with resume := match r.rmw with | some y => some { pc := r.pc, op := 32, mrep := r.mrep, rmw := some y } | none => none }
    else w
  | none => w

/-- What the replay of a microprogram keeps when a trap discards its registers (R223, R377, R388): the repetition of an emulation, and the
read-modify-writes of an operation that met a late fault. -/
def Warp.microResume (w : Warp) (m : Micro) : Resume :=
  let r := w.resumed
  { pc := w.pc, op := 32, mrep := if m.emulated then m.rep else 0
    rmw := if r.done ≠ 0 ∧ r.rep = 0 then some (m.op, r.done, r.kept) else r.rmw }

/-- The old value that a queued read-modify-write of a lane returned, or the late fault it met, waits for the replay of its group (R273, R388). -/
def Warp.landLane (w : Warp) (l : Nat) (r : Except Trap Dword) : Warp :=
  let x := w.resumed
  match r with
  | .ok v => { w with resume := some { x with done := x.done ||| BitVec.ofNat 32 (2 ^ l), kept := x.kept.setIfInBounds l v } }
  | .error t => { w with resume := some { x with late := x.late ++ [(l, t)] } }

/-! ## Check values -/

/-- The key material a key id names (R23, R78); none is the device key. -/
def Mgmt.material (m : Mgmt) (k : Nat) : Option (BitVec 512) := if k = 0 then none else assoc k m.keys

/-- Sets what a granule carries; a granule that carries nothing is not listed. -/
def Home.setGran (h : Home) (pa : Nat) (g : Granule) : Home :=
  { h with gran := if g = {} then h.gran.filter fun x => x.1 ≠ pa / 64 else assocSet (pa / 64) g h.gran }

/-- Bytes are put at their home; a line of a block whose copy is away is dirty there from then on (R73, R74). -/
def State.homePut (s : State) (pa : Nat) (d : List Byte) : State :=
  let one := fun (p : Placed) =>
    if p.block = pa / 4096 && p.state ≠ 1 && !p.dirty.contains (pa / 64) then { p with dirty := p.dirty ++ [pa / 64] } else p
  { s with home := { s.home with mem := s.home.mem.put pa d, placed := if s.home.placed.isEmpty then [] else s.home.placed.map one } }

/-- An access that waits at a home, as the check of an address answers it: no trap (R69). -/
def waitAtHome : Trap := { code := 0, sub := 0, held := true }

/-- Poisons a granule (R80). -/
def poisonAt (s : State) (pa : Nat) : State :=
  { s with home := s.home.setGran pa { s.home.granAt pa with poisoned := true, corrupt := false } }

/-- The subcode of trap 0x41 that reading a granule under a key id gives (R80): 2 poisoned, 0 a failed check. -/
def granFails (s : State) (pa key : Nat) : Option Nat :=
  let g := s.home.granAt pa
  if g.poisoned then some 2 else if g.corrupt || g.material ≠ s.mgmt.material key then some 0 else none

/-- The check-store word of a granule that is not corrupt (R79, R80): the check value of its bytes, complemented when it is poisoned, and PROM. -/
def checkWordOf (s : State) (pa : Nat) : Dword :=
  let g := s.home.granAt pa
  let v := crc32c (s.home.mem.bytes (pa / 64 * 64) 64)
  BitVec.ofNat 64 ((if g.poisoned then 0xFFFFFFFF - v else v) + bit g.prom * 2 ^ 32)

/-- Reads bytes of one granule at its home; a failed check poisons it (R80). -/
def readGran (s : State) (pa n key : Nat) : State × Except Nat (List Byte) :=
  match granFails s pa key with
  | some sub => (poisonAt s pa, .error sub)
  | none => (s, .ok (s.home.mem.bytes pa n))

/-- Merges a store's bytes within one granule (R79): the whole granule is replaced without a check and cleared of poison; a
part is merged only when the stored check value holds, else the granule is poisoned and the merge fails. -/
def mergeGran (s : State) (pa : Nat) (d : List Byte) (key : Nat) : State × Bool :=
  let g := s.home.granAt pa
  if d.length = 64 then
    ({ s with home := s.home.setGran pa { material := s.mgmt.material key, prom := g.prom } }.homePut pa d, true)
  else
    match granFails s pa key with
    | none => (s.homePut pa d, true)
    | some _ => (poisonAt s pa, false)

/-- Merges bytes of one line, by address, as one store (R79): all 64, or a part of it; false when the merge fails. -/
def mergeCells (s : State) (line : Nat) (cells : List Host.Cell) (key : Nat) : State × Bool :=
  if cells.length = 64 then mergeGran s (line * 64) (cells.map fun c => c.2) key
  else
    match granFails s (line * 64) key with
    | none => (cells.foldl (fun s c => s.homePut c.1 [c.2]) s, true)
    | some _ => (poisonAt s (line * 64), false)

/-! ## Combining -/

/-- The F32 minimum or maximum of two bit patterns, or BF16 pairs added, by the operation codes of R266. -/
def addBf16x2 (m x : Nat) : Nat :=
  combineAdd bf16 [bf16.unpack (m % 65536), bf16.unpack (x % 65536)]
    + 65536 * combineAdd bf16 [bf16.unpack (m / 65536 % 65536), bf16.unpack (x / 65536 % 65536)]

/-- The result at the target of an operation code (R266) on the old value and the operand. 15 stands for SIGNAL's 64-bit unsigned
maximum (R285). -/
def rmwResult (op : BitVec 4) (m x : Nat) : Nat :=
  let sm := (BitVec.ofNat 32 m).toInt
  let sx := (BitVec.ofNat 32 x).toInt
  match op.toNat with
  | 0 => (m + x) % 2 ^ 32
  | 1 => (m + x) % 2 ^ 64
  | 2 => if m < x then x else m
  | 3 => combineAdd f32 [f32.unpack m, f32.unpack x]
  | 4 => combineMax false m x
  | 5 => addBf16x2 m x
  | 6 => if x < m then x else m
  | 7 => Nat.lor m x
  | 8 => if sx < sm then x else m
  | 9 => if sm < sx then x else m
  | 10 => Nat.land m x
  | 11 => Nat.xor m x
  | 14 => combineMax true m x
  | 15 => if m < x then x else m
  | _ => x

/-- The bytes an operation code acts on (R266). -/
def rmwBytes (op : BitVec 4) : Nat := if op = 1 || op = 13 || op = 15 then 8 else 4

/-- The bytes of one element of an update-only line (R61). -/
def elemBytes (cfmt : BitVec 3) : Nat := if cfmt = 2 then 8 else if cfmt = 6 then 2 else 4

/-- An exact accumulator that has taken one more addend (R62). -/
def Elem.addFloat (e : Elem) (x : FV) : Elem :=
  match x with
  | .nan _ => { e with nan := true, negZero := false, count := e.count + 1 }
  | .inf n => { e with pinf := e.pinf || !n, ninf := e.ninf || n, negZero := false, count := e.count + 1 }
  | .fin n v => { e with acc := e.acc + v, negZero := e.negZero && n && v = 0, count := e.count + 1 }

/-- The identity of a format at an element (R61). -/
def Elem.identity (cfmt : BitVec 3) (idx : Nat) : Elem :=
  { idx := idx, acc := if cfmt = 5 then 0xFF800000 else 0, negZero := true, count := 0 }

/-- One update combined into an element of an update-only line (R61, R62); `x` is the operand's bits for the element. -/
def Elem.update (cfmt : BitVec 3) (e : Elem) (x : Nat) : Elem :=
  let m := e.acc.toNat
  match cfmt.toNat with
  | 4 => e.addFloat (f32.unpack x)
  | 6 => e.addFloat (bf16.unpack x)
  | 1 => { e with acc := ((m + x) % 2 ^ 32 : Nat), count := e.count + 1 }
  | 2 => { e with acc := ((m + x) % 2 ^ 64 : Nat), count := e.count + 1 }
  | 5 => { e with acc := (combineMax false m x : Nat), count := e.count + 1 }
  | _ => { e with acc := (if m < x then x else m : Nat), count := e.count + 1 }

/-- The partial an element leaves as (R62): rounded once for the add formats. -/
def Elem.partial_ (cfmt : BitVec 3) (e : Elem) : Nat :=
  let f := if cfmt = 6 then bf16 else f32
  if cfmt = 4 || cfmt = 6 then
    if e.nan || (e.pinf && e.ninf) then f.canon
    else if e.pinf then f.ovf
    else if e.ninf then f.sgn true + f.ovf
    else f.roundInt 0 e.negZero false e.acc (2 ^ 149)
  else e.acc.toNat

/-- One combine step of a format at the home (R102). -/
def combineStep (cfmt : BitVec 3) (m x : Nat) : Nat :=
  match cfmt.toNat with
  | 6 => combineAdd bf16 [bf16.unpack m, bf16.unpack x]
  | n => rmwResult (BitVec.ofNat 4 (n - 1)) m x

/-- The core of a local agent. -/
def agentCore : Agent → Option Nat
  | .loc c _ _ => some c
  | _ => none

/-! ## Release tags -/

/-- The set of a slice's promotion table that a line uses: 512 sets, by the interface address (DESIGN CHOICE). -/
def promSet (m : Mgmt) (pa : Nat) : Nat := interfaceAddr m pa / 64 % 512

/-- The promotion table has no room for a new entry of this line and core (R96). -/
def promFull (s : State) (core line : Nat) : Bool :=
  let pa := line * 64
  !(s.home.prom.any fun e => e.line = line && e.core = core)
    && (s.home.prom.filter fun e => dieOf s.mgmt (e.line * 64) = dieOf s.mgmt pa && sliceOf s.mgmt (e.line * 64) = sliceOf s.mgmt pa
          && promSet s.mgmt (e.line * 64) = promSet s.mgmt pa).length ≥ 8

/-- The tokens a reply for a line carries to a core (R97): those of other cores' entries; and whether PROM is set. -/
def tokensAt (s : State) (line : Nat) (core : Option Nat) : List Token × Bool :=
  ((s.home.prom.filter fun e => e.line = line && some e.core ≠ core).map fun e => ⟨e.core, e.epoch⟩,
    (s.home.granAt (line * 64)).prom)

/-- What a write performed at the home does to the line's entries and PROM (R96, R97). -/
def tagLine (s : State) (line : Nat) (whole : Bool) (tag : Option (Nat × BitVec 16)) (drained : Bool) : State :=
  let s := if whole then
      { s with home := { s.home.setGran (line * 64) { s.home.granAt (line * 64) with prom := false } with
          prom := s.home.prom.filter fun e => e.line ≠ line } }
    else s
  let s := match tag with
    | some (c, e) =>
      { s with home := { s.home with prom := (s.home.prom.filter fun x => !(x.line = line && x.core = c)) ++ [⟨c, e, line⟩] } }
    | none => s
  if drained then { s with home := s.home.setGran (line * 64) { s.home.granAt (line * 64) with prom := true } } else s

/-- The request of a core's drained write for a line whose bytes are home already (R96): it sets PROM. -/
def drainReq (s : State) (core line : Nat) : HeldReq :=
  { req := { agent := .loc core 0 0, holder := none, pa := line * 64, key := 0, op := .store [], ret := none, warp := none }
    stamp := (s.coreAt core).relEpoch, drain := true }

/-- A request for a tracked copy (R69). -/
def opTracks : HomeOp → Bool
  | .trackShared | .trackExclusive => true
  | _ => false

/-- The place of a unit's tracked request among those that wait at the home (R69, R73, R273): the unit asks again, and the request leaves it
then. -/
def HeldReq.isPlace (h : HeldReq) : Bool := opTracks h.req.op && (match h.req.agent with | .loc _ _ _ => true | .remote _ => false)

/-- The release tag of a partial or of an unlock reaches the home (R96): it is entered; with its set full it is returned, and sets PROM once
the core's earlier writes are performed at their homes. -/
def enterTag (s : State) (core line : Nat) (e : BitVec 16) : State :=
  if !promFull s core line then tagLine s line false (some (core, e)) false
  else if s.home.held.any fun h => agentCore h.req.agent = some core && !h.isPlace then
    { s with home := { s.home with held := s.home.held ++ [drainReq s core line] } }
  else tagLine s line false none true

/-- How far an epoch lies beyond the drained epoch, in the open window (R96). -/
def Core.ahead (k : Core) (e : BitVec 16) : Nat := (e - k.drEpoch).toNat
/-- The epoch lies in the core's open window: its token is not yet drained (R96). -/
def Core.isOpen (k : Core) (e : BitVec 16) : Bool := 0 < k.ahead e && k.ahead e ≤ k.ahead k.relEpoch

/-! ## Recalls inside the device -/

/-- Writes a range back and says nothing of its success: the bytes of a stash line (R54). -/
def stashWriteBack (s : State) (k : Core) (st : Stash) (l : StashLine) : State :=
  match k.blocks.find? fun b => b.bslot = st.bslot with
  | some b => (mergeGran s (l.pa * 64) (b.local_.bytes (st.loff * 4096 + l.n * 64) 64) l.key).1
  | none => s

/-- The state of a stash line after a recall (R54). -/
def StashLine.recalled (write : Bool) (l : StashLine) : StashLine :=
  if write then { l with state := 0 } else if l.state = 3 || l.state = 2 then { l with state := 1 } else l

/-- A recall for a line reaches the stash lines of one core (R54). -/
def recallStashAt (s : State) (core line : Nat) (write : Bool) : State :=
  let k := s.coreAt core
  if !(k.stash.any fun st => st.lines.any fun l => l.pa = line && l.state ≠ 0) then s
  else
    let s := k.stash.foldl (fun s st => st.lines.foldl (fun s l =>
      if l.pa = line && l.state = 3 then stashWriteBack s k st l else s) s) s
    s.modCore core fun k => { k with
      stash := k.stash.map fun st => { st with
        lines := (st.lines.map fun l => if l.pa = line then l.recalled write else l).filter fun l => l.state ≠ 0 } }

/-- A recall for a line reaches every core's stash (R54). -/
def recallStash (s : State) (line : Nat) (write : Bool) : State :=
  (s.allCores.map fun k => k.id).foldl (fun s c => recallStashAt s c line write) s

/-- One core's partial for a line reaches its home and is combined element by element (R63, R102); its release tag is entered
as a tagged write (R97). A failed merge is reported on the launch's trap queue (R80). -/
def mergeUpd (s : State) (core line : Nat) : State :=
  match (s.coreAt core).upd.find? fun u => u.line = line with
  | none => s
  | some u =>
    let s := s.modCore core fun k => { k with upd := k.upd.filter fun x => x.line ≠ line }
    match readGran s (line * 64) 64 u.key with
    | (s, .error _) =>
      launchRecord s { code := 0x41, sub := 1, kind := 2, addr := BitVec.ofNat 64 u.va, launch := u.launch,
                       block := u.block, warp := u.warp, core := core }
    | (s, .ok _) =>
      let n := elemBytes u.cfmt
      let s := u.elems.foldl (fun s e =>
        let a := line * 64 + e.idx * n
        s.homePut a (leBytes n (combineStep u.cfmt (s.home.mem.nat a n) (e.partial_ u.cfmt)))) s
      match u.tag with
      | none => s
      | some e => enterTag s core line e

/-- Every core's partial for a line is recalled, in ascending agent order (R63, R102). -/
def mergeAll (s : State) (line : Nat) : State :=
  (sortBy id ((s.allCores.filter fun k => k.upd.any fun u => u.line = line).map fun k => k.id)).foldl
    (fun s c => mergeUpd s c line) s

/-- The recall of a line inside the device: partials are merged, stash lines written back (R54, R59, R63). -/
def recallLine (s : State) (line : Nat) (write : Bool) : State := recallStash (mergeAll s line) line write

/-! ## The directory and what waits at a home -/

/-- Splits a range at granule boundaries: start and length of each part, at most `fuel` parts. -/
def granuleParts : Nat → Nat → Nat → List (Nat × Nat)
  | 0, _, _ => []
  | fuel + 1, a, n =>
    if n = 0 then []
    else
      let k := Nat.min n (64 - a % 64)
      (a, k) :: granuleParts fuel (a + k) (n - k)
def granules (a n : Nat) : List (Nat × Nat) := granuleParts (n / 64 + 2) a n


def dirAt (s : State) (line : Nat) : Option DirEntry := s.home.dir.find? fun e => e.line = line
/-- Puts an entry; INV with no holder has none (R68). -/
def setDir (s : State) (e : DirEntry) : State :=
  { s with home := { s.home with
      dir := if e.state = 0 then s.home.dir.filter fun x => x.line ≠ e.line else putBy (fun x => x.line = e.line) e s.home.dir } }

/-- The node of a remote holder. -/
def agentNode : Agent → Option Nat
  | .remote n => some n
  | _ => none

/-- A request needs copies of remote devices recalled before it is served (R69). -/
def needsRecall (s : State) (line : Nat) (write : Bool) : Option DirEntry :=
  match dirAt s line with
  | some e => if e.state = 2 || (e.state = 1 && write) then some e else none
  | none => none

/-- The fan-out to remote holders begins and the entry goes to RCL (R69). -/
def startRecall (s : State) (line : Nat) (write : Bool) : State :=
  match needsRecall s line write with
  | none => s
  | some e =>
    let s := setDir s { e with state := 4, awaited := e.holders, since := s.clock, keep := !write && e.state = 2, excl := e.state = 2, reported := [] }
    { s with fabric := { s.fabric with
        sent := s.fabric.sent ++ e.holders.filterMap fun h => (agentNode h).map fun n => Sent.invalidate line n } }

def opWrites : HomeOp → Bool
  | .read _ | .trackShared => false
  | _ => true

/-- A copy channel owns a line (R104). -/
def ownedBy (s : State) (id : LineId) : Option Agent :=
  s.allCores.findSome? fun k => (k.copies.find? fun c => c.lines.any fun x => x.id = id).map fun c =>
    Agent.loc k.id 1 (c.chan.setWidth 3)

/-- The table of line locks at a line's home, local or remote (R272). -/
def locksOf (s : State) : Option Nat → List (Nat × LockKey)
  | none => s.home.locks
  | some n => match s.fabric.nodes.find? fun x => x.node = n with | some x => x.locks | none => []

/-- The state of a placement block (R73): 0 HOME, 1 MOVING, 2 AWAY, 3 RETURNING. -/
def placement (s : State) (pa : Nat) : Nat :=
  match s.home.placed.find? fun p => p.block = pa / 4096 with | some p => p.state.toNat | none => 0

/-- A request must wait at the home (R69, R73, R104, R273); `ahead` are the requests that wait already. -/
def mustWait (s : State) (h : HeldReq) (ahead : List HeldReq) : Bool :=
  let line := h.req.pa / 64
  let w := (opWrites h.req.op)
  let lock := assoc line (locksOf s h.node)
  let mine := lock.isSome && lock = h.req.holder
  let owner := ownedBy s ⟨h.node, line⟩
  (h.node.isNone && (((dirAt s line).any fun e => e.state = 4) || (needsRecall s line w).isSome
      || (w && (placement s h.req.pa = 1 || placement s h.req.pa = 3))))
    || (owner.isSome && owner ≠ some h.req.agent)
    || (w && lock.isSome && !mine)
    || (w && ahead.any fun x => x.node = h.node && x.req.pa / 64 = line && (!mine || x.req.holder = h.req.holder))
    || (h.drain && ahead.any fun x => x.req.agent = h.req.agent && !x.isPlace)
    || ahead.any fun x => x.drain && x.req.op = .store [] && x.node = h.node && x.req.pa / 64 = line

/-- What an attempt that has to wait leaves behind: the recalls it has begun (R69); none when it has begun none. -/
def keepRecalls (s t : State) : Option State :=
  if t.home.dir = s.home.dir && t.home.held = s.home.held then none
  else some { s with home := { s.home with dir := t.home.dir, held := t.home.held }, fabric := { s.fabric with sent := t.fabric.sent } }

/-! ## The sets of the directory (R46, R71) -/

/-- The set of a line's directory entry: its die, its slice, and one of 8,192 (DESIGN CHOICE). -/
def dirSet (m : Mgmt) (line : Nat) : Nat × Nat × Nat :=
  (dieOf m (line * 64), sliceOf m (line * 64), interfaceAddr m (line * 64) / 64 % 8192)

/-- The line has a tracked copy, and so an entry (R68). -/
def tracked (s : State) (line : Nat) : Bool :=
  (dirAt s line).isSome || (s.allCores.any fun k => (k.stash.any fun st => st.lines.any fun l => l.pa = line && l.state ≠ 0)
    || (k.upd.any fun u => u.line = line)) || (ownedBy s ⟨none, line⟩).isSome

/-- A line is the most recently used of its set. -/
def useDir (s : State) (line : Nat) : State :=
  { s with home := { s.home with dirUse := (s.home.dirUse.filter fun n => n ≠ line) ++ [line] } }

/-- Room for an entry of a line (R71): one it has, a free way, or that of the least recently used entry which no engine holds exclusively and
which is not in RCL, freed by what a store to its line does. -/
def dirRoom (s : State) (line : Nat) : State × Bool :=
  if tracked s line then (useDir s line, true)
  else
    let used := (s.home.dirUse.filter fun n => dirSet s.mgmt n = dirSet s.mgmt line).filter (tracked s)
    if used.length < 16 then (useDir s line, true)
    else
      match used.find? fun n => (ownedBy s ⟨none, n⟩).isNone && !((dirAt s n).any fun e => e.state = 4) with
      | none => (s, false)
      | some n => if (needsRecall s n true).isSome then (startRecall s n true, false) else (useDir (recallLine s n true) line, true)

/-- The request of a unit of the base die to a home (R24, R389, R433). -/
def physReq (s : State) (pa key : Nat) (op : HomeOp) : HeldReq :=
  { req := { agent := .remote s.fabric.self, holder := none, pa := pa, key := key, op := op, ret := none, warp := none } }

/-- A range that a unit of the base die reads or writes has a line that it must wait for (R69): the recalls begin. -/
def physWaits (s : State) (pa n : Nat) (write : Bool) : Option State :=
  let op := if write then HomeOp.store [] else .read 0
  let ls := (granules pa n).map fun x => x.1
  if ls.any fun a => mustWait s (physReq s a 0 op) s.home.held then some (ls.foldl (fun s a => startRecall s (a / 64) write) s) else none

/-! ## Performing a request -/

/-- A remote device's memory as it is known; a node not listed holds zeros. -/
def nodeOf (s : State) (n : Nat) : Node := (s.fabric.nodes.find? fun x => x.node = n).getD { node := n }
def setNode (s : State) (x : Node) : State :=
  { s with fabric := { s.fabric with nodes := putBy (fun y => y.node = x.node) x s.fabric.nodes } }

/-- The local proxy copy of a remote line is gone, and its home no longer records this device as a holder (R70). -/
def dropProxy (s : State) (id : LineId) : State :=
  let forget := fun (n : Node) => if id.node = some n.node then { n with holds := n.holds.filter fun l => l ≠ id.line } else n
  { s with
    home := { s.home with proxies := s.home.proxies.filter fun p => p.1 ≠ id }
    fabric := { s.fabric with nodes := s.fabric.nodes.map forget } }

/-- The value an operation returns and the bytes it writes, over the old bytes of its word. -/
def opResult (op : HomeOp) (old : Nat) : Nat × Option (List Byte) :=
  match op with
  | .read _ | .trackShared | .trackExclusive => (old, none)
  | .store d => (old, some d)
  | .rmw o x => (old, some (leBytes (rmwBytes o) (rmwResult o old x.toNat)))
  | .cas wide e n =>
    let k := if wide then 8 else 4
    (old, if old = e.toNat % 2 ^ (8 * k) then some (leBytes k n.toNat) else none)
def opBytes : HomeOp → Nat
  | .read n => n
  | .rmw o _ => rmwBytes o
  | .cas wide _ _ => if wide then 8 else 4
  | .store d => d.length
  | _ => 0

/-- The failure of a remote home's request (R111, R112), as `failTrap` reads it. -/
def nodeGone (s : State) (n : Nat) : Option Nat :=
  if s.fabric.noticed then some 0x3002 else if !s.fabric.leaseOn then some 0x3001 else if (nodeOf s n).failed then some 0x3005 else none

/-- The code and subcode that a failed request answers with: the subcode of trap 0x41, or the code above it. -/
def failCode (e : Nat) : Nat × Nat := if e < 256 then (0x41, e) else (e / 256, e % 256)
/-- The late fault of an access whose request failed (R388). -/
def failTrap (e : Nat) (va : Dword) : Trap := { trapAt 100 (failCode e).1 (failCode e).2 va with late := true }

/-- A request is performed at its home, its recalls inside the device first (R69). The error is read by `failCode`. -/
def performReq (s : State) (h : HeldReq) : State × Except Nat Dword :=
  let pa := h.req.pa
  let line := pa / 64
  let n := opBytes h.req.op
  match h.node with
  | some nd =>
    match nodeGone s nd with
    | some e => (s, .error e)
    | none =>
      let x := nodeOf s nd
      let (v, w) := opResult h.req.op (x.mem.nat pa n)
      let s := match w with
        | some d => dropProxy (setNode s { x with mem := x.mem.put pa d }) ⟨some nd, line⟩
        | none => s
      (s, .ok (BitVec.ofNat 64 v))
  | none =>
    let s := recallLine s line (opWrites h.req.op)
    match h.req.op with
    | .trackShared =>
      let e := (dirAt s line).getD { line := line, state := 1 }
      (setDir s { e with state := 1, holders := if e.holders.contains h.req.agent then e.holders else e.holders ++ [h.req.agent] }, .ok 0)
    | .trackExclusive => (setDir s { line := line, state := 2, holders := [h.req.agent] }, .ok 0)
    | .store [] => (tagLine s line false none h.drain, .ok 0)
    | .store d =>
      match mergeGran s pa d h.req.key with
      | (s, true) =>
        (tagLine s line (d.length = 64) (h.tag.bind fun e => (agentCore h.req.agent).map fun c => (c, e)) h.drain, .ok 0)
      | (s, false) => (s, .error 1)
    | op =>
      match readGran s pa n h.req.key with
      | (s, .error sub) => (s, .error sub)
      | (s, .ok b) =>
        let (v, w) := opResult op (leNat b)
        let s := match w with
          | some d => tagLine (s.homePut pa d) line false
              (h.tag.bind fun e => (agentCore h.req.agent).map fun c => (c, e)) h.drain
          | none => s
        (s, .ok (BitVec.ofNat 64 v))

/-- What becomes of a request that reaches its home. -/
inductive HomeRes where
  | wait
  | ok (v : Dword)
  | fail (sub : Nat)
  deriving DecidableEq, Repr

/-- A tagged write that finds its promotion-table set full is returned to its core and comes again as a drained write (R96). -/
def returned (s : State) (h : HeldReq) : HeldReq :=
  match h.tag, agentCore h.req.agent with
  | some _, some c => if h.node.isNone && promFull s c (h.req.pa / 64) then { h with tag := none, drain := true } else h
  | _, _ => h

/-- A request reaches its home behind `ahead`: it waits, or is performed (R69). A returned write goes again when no earlier write of its core
waits (R96); a tracked request needs room in the directory (R71). -/
def attempt (s : State) (h : HeldReq) (ahead : List HeldReq) : State × HomeRes :=
  if mustWait s h ahead then (startRecall s (h.req.pa / 64) (opWrites h.req.op), .wait)
  else if mustWait s (returned s h) ahead then (s, .wait)
  else
    match (if opTracks h.req.op && h.node.isNone then dirRoom s (h.req.pa / 64) else (s, true)) with
    | (s, false) => (s, .wait)
    | (s, true) =>
      match performReq s (returned s h) with
      | (s, .ok v) => (s, .ok v)
      | (s, .error e) => (s, .fail e)
def request (s : State) (h : HeldReq) : State × HomeRes := attempt s h s.home.held

/-- A unit of this device asks for a tracked copy of a line, or for the place it has among the requests that wait (R69, R71, R273): true when
it may be served now. -/
def claim (s : State) (h : HeldReq) : State × Bool :=
  let mine := fun (x : HeldReq) => x.isPlace && x.req.agent = h.req.agent && x.req.op = h.req.op && x.req.holder = h.req.holder
    && x.node = h.node && x.req.pa / 64 = h.req.pa / 64
  let ahead := s.home.held.takeWhile fun x => !mine x
  let waits := fun (s : State) =>
    if s.home.held.any mine then s else { s with home := { s.home with held := s.home.held ++ [h] } }
  if mustWait s h ahead then (waits (startRecall s (h.req.pa / 64) (opWrites h.req.op)), false)
  else
    match (if h.node.isNone then dirRoom s (h.req.pa / 64) else (s, true)) with
    | (s, false) => (waits s, false)
    | (s, true) => ({ s with home := { s.home with held := s.home.held.filter fun x => !mine x } }, true)

/-- The places that a unit holds at the homes are given up: its operation is over or cancelled. -/
def dropPlaces (s : State) (p : HomeReq → Bool) : State :=
  { s with home := { s.home with held := s.home.held.filter fun x => !(x.isPlace && p x.req) } }

/-- The places of a block's stash lines are given up; a warp that still needs its line asks again (R54). -/
def dropBlockPlaces (s : State) (c : Nat) (b : Block) : State := dropPlaces s fun r => r.holder = some ⟨c, b.bslot, b.genLS⟩

/-- A store merge failed (R80): an ordering operation that waits for the store raises trap 0x41, subcode 0x01; else a KIND 2
record is queued. -/
def mergeFailed (s : State) (h : HeldReq) (e : Nat) : State :=
  let code := BitVec.ofNat 8 (failCode e).1
  let sub := if e < 256 then 1 else BitVec.ofNat 8 (failCode e).2
  let t : Trap := { code := code, sub := sub, addr := h.va, lanes := h.lanes }
  let waiting : Bool := match h.req.warp with
    | some (c, slot) =>
      match s.warpAt c slot with
      | some w => (match w.wait with | .order m => decide (m &&& h.lanes ≠ 0) | _ => false)
      | none => false
    | none => false
  match h.req.warp with
  | some (c, slot) =>
    if waiting then s.modWarp c slot fun w => { w with failed := some t }
    else launchRecord s { code := code, sub := sub, kind := 2, addr := h.va, launch := h.launch, block := h.block,
                          warp := h.warpNo, core := c, lanes := h.lanes }
  | none =>
    match agentCore h.req.agent with
    | some c => launchRecord s { code := code, sub := sub, kind := 2, addr := h.va, launch := h.launch, block := h.block,
                                 warp := h.warpNo, core := c, lanes := h.lanes }
    | none => s

/-- A returning value goes on its way to the register that awaits it (R147). -/
def pushReturn (s : State) (d : RetDest) (v : Dword) : State :=
  s.modCore d.core fun k => { k with returns := k.returns ++ [⟨d, v, s.clock⟩] }

/-- What a home sends a remote device for its request (R69). -/
def replyBytes (s : State) (r : HomeReq) (v : Dword) : List Byte :=
  match r.op with
  | .read n => s.home.mem.bytes r.pa n
  | .trackShared | .trackExclusive => s.home.mem.bytes (r.pa / 64 * 64) 64
  | .store _ => []
  | .rmw _ _ | .cas _ _ _ => leBytes 8 v.toNat

/-- The reply to a performed request: a value for a register, dropped and counted when its tag is not the slot's (R147), or an answer to another
device. -/
def reply (s : State) (h : HeldReq) (r : Except Nat Dword) : State :=
  match h.lane, h.req.warp with
  | some (l, gen), some (c, slot) =>
    if (s.warpAt c slot).any fun w => w.genReg = gen then s.modWarp c slot fun w => w.landLane l (r.mapError fun e => failTrap e h.va)
    else s.modCore c fun k => { k with dropret := k.dropret + 1 }
  | _, _ =>
  match h.req.agent, h.req.ret, r with
  | .remote n, _, .ok v =>
    if n = s.fabric.self then s else { s with fabric := { s.fabric with sent := s.fabric.sent ++ [.served n h.req.pa (replyBytes s h.req v)] } }
  | .remote n, _, .error _ =>
    if n = s.fabric.self then s else { s with fabric := { s.fabric with sent := s.fabric.sent ++ [.unserved n h.req.pa] } }
  | _, some d, .ok v => pushReturn s d v
  | _, _, .error e => mergeFailed s h e
  | _, none, .ok _ => s

/-- A store or a reduction without a return reaches its home: it is performed, or held there in arrival order (R69, R273). -/
def submit (s : State) (h : HeldReq) : State :=
  match request s h with
  | (s, .wait) => { s with home := { s.home with held := s.home.held ++ [h] } }
  | (s, .ok v) => reply s h (.ok v)
  | (s, .fail sub) => reply s h (.error sub)

/-- The waiting requests that no longer must wait are served in arrival order (R69, R96, R273). -/
def serveHeldFrom (s : State) (kept : List HeldReq) : List HeldReq → State
  | [] => { s with home := { s.home with held := kept } }
  | h :: r =>
    if h.isPlace then serveHeldFrom s (kept ++ [h]) r
    else
      let more := fun (s : State) => s.home.held.drop (kept.length + r.length)
      match attempt { s with home := { s.home with held := kept ++ r } } h kept with
      | (s, .wait) => serveHeldFrom s (kept ++ [h] ++ more s) r
      | (s, .ok v) => serveHeldFrom (reply s h (.ok v)) (kept ++ more s) r
      | (s, .fail e) => serveHeldFrom (reply s h (.error e)) (kept ++ more s) r
def serveHeld (s : State) : State :=
  if s.home.held.isEmpty then s else serveHeldFrom s [] s.home.held

/-- The wait of a warp's lanes for their earlier writes (R90): requests of theirs still wait at a home. -/
def writesPending (s : State) (c slot : Nat) (m : Mask) : Bool :=
  s.home.held.any fun h => h.req.warp = some (c, slot) && h.lanes &&& m ≠ 0

/-- Their earlier writes are not all performed with respect to the core (R83): uncached stores and reductions still wait. -/
def slowPending (s : State) (c slot : Nat) (m : Mask) : Bool :=
  s.home.held.any fun h => h.slow && h.req.warp = some (c, slot) && h.lanes &&& m ≠ 0

/-! ## Memory by physical address, under key id 0 -/

/-- Reads device memory at its home as a fresh read (R59): recalls first; the error is a failed check's subcode. -/
def physRead (s : State) (pa n key : Nat) : State × Except Nat (List Byte) :=
  (granules pa n).foldl (fun (s, r) (a, k) =>
    match r with
    | .error e => (s, .error e)
    | .ok b =>
      match readGran (recallLine s (a / 64) false) a k key with
      | (s, .error e) => (s, .error e)
      | (s, .ok d) => (s, .ok (b ++ d))) (s, .ok [])

/-- Writes device memory at its home (R79, R83): recalls first; false when some granule's merge failed. -/
def physWrite (s : State) (pa : Nat) (d : List Byte) (key : Nat) : State × Bool :=
  (granules pa d.length).foldl (fun (s, ok) (a, k) =>
    let b := (d.drop (a - pa)).take k
    match mergeGran (recallLine s (a / 64) true) a b key with
    | (s, r) => (if r then tagLine s (a / 64) (k = 64) none false else s, ok && r)) (s, true)

/-- The little-endian number of a fresh read, 0 when its check fails. -/
def physNat (s : State) (pa n : Nat) : State × Nat :=
  match physRead s pa n 0 with
  | (s, .ok b) => (s, leNat b)
  | (s, .error _) => ({ s with mgmt := { s.mgmt with errs := s.mgmt.errs + 1 } }, 0)

/-! ## The trap queue -/

/-- The unit that waits with a record is parked on the record's RESP word (R391). -/
def parkUnit (s : State) (core : Nat) (u : FaultUnit) (resp : Nat) : State :=
  match u with
  | .warp slot => s.modWarp core slot fun w => match w.wait with | .trapQueue t => { w with wait := .resp resp t s.clock } | _ => w
  | .chan c => s.modCore core fun k => { k with
      copies := k.copies.map fun x => if x.chan.toNat = c then
        (match x.status with | .queueFull t => { x with status := .faulted resp t s.clock } | _ => x) else x }
  | .job e => s.modCore core fun k => { k with
      jobs := k.jobs.map fun x => if x.entry = e then
        (match x.status with | .queueFull t => { x with status := .faulted resp t s.clock } | _ => x) else x }
  | .ray slot lane => s.modWarp core slot fun w =>
      { w with threads := w.threads.set lane { w.threads[lane] with
          ray := w.threads[lane].ray.map fun r =>
            (match r.status with | .queueFull t => { r with status := .faulted resp t s.clock } | _ => r) } }
  | .tile q tx ty => { s with geom := { s.geom with passes := s.geom.passes.map fun (p : Pass) =>
      if p.q = q then (match p.fault tx ty with | some (.queueFull t) => p.setFault tx ty (some (.faulted resp t s.clock)) | _ => p)
      else p } }
  | .coll cid => { s with coll := { s.coll with roots := s.coll.roots.map fun (r : Root) =>
      if r.cid = cid then (match r.status with | .queueFull t => { r with status := .faulted resp t s.clock } | _ => r) else r } }
  | .member slot => { s with coll := { s.coll with members := s.coll.members.map fun (m : Member) =>
      if m.slot = slot then (match m.status with | .queueFull t => { m with status := .faulted resp t s.clock } | _ => m) else m } }

/-- The write of a unit of the base die for which nothing waits: it is performed at its homes in order, there at once or later (R69, R83). -/
def physPost (s : State) (pa : Nat) (d : List Byte) : State :=
  (granules pa d.length).foldl (fun s x => submit s (physReq s x.1 0 (.store ((d.drop (x.1 - pa)).take x.2)))) s

/-- A block record is written when its ring has room, else it is lost and counted (R428). -/
def writeBlockRecord (s : State) (q : Nat) (d : List Byte) : State :=
  let (s, wr) := physNat s q 8
  let (s, rd) := physNat s (q + 8) 8
  let (s, lg) := physNat s (q + 16) 8
  let lg := lg % 32
  if lg = 0 || lg > 16 || (wr + 2 ^ 64 - rd) % 2 ^ 64 ≥ 2 ^ lg then
    let (s, lost) := physNat s (q + 32) 8
    (physWrite s (q + 32) (leBytes 8 (lost + 1)) 0).1
  else
    let s := (physWrite s (q + 64 + 128 * (wr % 2 ^ lg)) d 0).1
    (physWrite s q (leBytes 8 (wr + 1)) 0).1

/-- The lines of a record's ring that it needs have to be waited for (R69): its header, or the next slot. -/
def recordWaits (s : State) (r : PendingRecord) : Option State :=
  match physWaits s r.trapq 64 true with
  | some s => some s
  | none =>
    let n := r.bytes.length
    let t := recallLine s (r.trapq / 64) false
    physWaits s (r.trapq + 64 + n * (t.home.mem.nat r.trapq 8 % 2 ^ (t.home.mem.nat (r.trapq + 16) 8 % 32))) n true

/-- A record is written when its ring has room (R389): the record, then WRCOUNT; then QWAKE and the wake register as the
header says. `none` when the ring is full or QLOG is not valid. -/
def writeRecord (s : State) (r : PendingRecord) : State × Bool :=
  if r.block then (writeBlockRecord s r.trapq r.bytes, true) else
  let (s, wr) := physNat s r.trapq 8
  let (s, rd) := physNat s (r.trapq + 8) 8
  let (s, q) := physNat s (r.trapq + 16) 8
  let q := q % 32
  if q = 0 || q > 16 || (wr + 2 ^ 64 - rd) % 2 ^ 64 ≥ 2 ^ q then (s, false)
  else
    let slot := r.trapq + 64 + 64 * (wr % 2 ^ q)
    let (s, _) := physWrite s slot r.bytes 0
    let (s, _) := physWrite s r.trapq (leBytes 8 (wr + 1)) 0
    let (s, c) := physNat s (r.trapq + 24) 8
    let s := if c / 2 ^ 12 % 2 = 1 then { s with inputs := s.inputs ++ [.qwake (c % 2 ^ 12)] } else s
    let s := if c / 2 ^ 13 % 2 = 1 then { s with mgmt := { s.mgmt with wake := BitVec.ofNat 64 (wr + 1) } } else s
    (match r.unit with | some u => parkUnit s r.core u (slot + 56) | none => s, true)

/-- Writes the records that have not been tried yet, each queue's in order (R389); one that finds its ring full waits for
the poll, and so do the later ones of that queue; one whose ring a home holds back is tried at the next step. -/
def pumpRecordsFrom (s : State) (kept : List PendingRecord) : List PendingRecord → State
  | [] => { s with records := kept }
  | r :: rest =>
    if r.tried.isSome then pumpRecordsFrom s (kept ++ [r]) rest
    else
      match kept.find? fun x => x.trapq = r.trapq with
      | some x => pumpRecordsFrom s (kept ++ [{ r with tried := x.tried }]) rest
      | none =>
        match recordWaits s r with
        | some s => pumpRecordsFrom s (kept ++ [r]) rest
        | none =>
          match writeRecord s r with
          | (s, true) => pumpRecordsFrom { s with signals := s.signals ++ r.done.toList } kept rest
          | (s, false) => pumpRecordsFrom s (kept ++ [{ r with tried := some s.clock }]) rest
def pumpRecords (s : State) : State := if s.records.isEmpty then s else pumpRecordsFrom s [] s.records

end Sys2Proof.Machine
end

