-- ==== Sys2Proof/Machine/Registers.lean ====
section
/-! DEFINITION. Device register space as reads see it (R155, R334, R438, R448), and the watches (R427, R429). -/

namespace Sys2Proof.Machine

/-- The first bytes of the queue pages, the pass pages and the mailbox (R155, R334, R438). -/
def queuePages : Nat := 0xF000000000000
def passPages : Nat := 0xF000100000000
def mailboxPage : Nat := 0xF000200000000

/-- The value of an aligned 8-byte read of device register space (R448); it changes nothing. -/
def regRead (s : State) (pa : Nat) : Dword :=
  if queuePages ≤ pa ∧ pa < queuePages + 0x1000000 then
    let q := s.queueOf ((pa - queuePages) / 4096)
    match pa % 4096 with
    | 0 => q.qtail
    | 8 => q.qhead
    | 16 => BitVec.ofNat 64 (q.lasterr.toNat + bit q.tailerr * 256 + bit q.stopped * 512)
    | _ => 0
  else if passPages ≤ pa ∧ pa < passPages + 0x1000000 then
    if pa % 4096 = 8 then (s.queueOf ((pa - passPages) / 4096)).passcount else 0
  else if mailboxPage ≤ pa ∧ pa < mailboxPage + 4096 then
    match pa % 4096 with
    | 8 => s.mgmt.arg[0]
    | 16 => s.mgmt.arg[1]
    | 24 => s.mgmt.arg[2]
    | 32 => s.mgmt.arg[3]
    | 40 => BitVec.ofNat 64 (s.mgmt.status.toNat + bit s.mgmt.replace * 256)
    | _ => 0
  else 0

/-- The lowest byte of an access that a watch covers (R427, R429). -/
def watchAt (m : Mgmt) (k : Nat) (space : Nat) (va : Dword) (size : Nat) (write eng : Bool) : Option Nat :=
  let c := m.wctl.getD k 0
  let n := 2 ^ bits c 8 4
  let base := (sext57 (m.waddr.getD k 0)).toNat / n * n
  if c.getLsbD 0 && (if write then c.getLsbD 2 else c.getLsbD 1) && (!eng || c.getLsbD 3) && bits c 23 12 = space
      && va.toNat < base + n && base < va.toNat + size then some (Nat.max base va.toNat) else none

/-- The watches that an access hits, with the lowest address of each (R429). -/
def watchHits (m : Mgmt) (space : Nat) (va : Dword) (size : Nat) (write eng : Bool) : List (Nat × Nat) :=
  (List.range 4).filterMap fun k => (watchAt m k space va size write eng).map fun a => (k, a)

/-- An address breakpoint lies at a word (R425, R429). -/
def breakAt (m : Mgmt) (pc : Dword) : Bool :=
  m.bpaddr.any fun b => b.getLsbD 0 && bits b 56 2 = bits pc 56 2

end Sys2Proof.Machine
end

