-- ==== Sys2Proof/Machine/Walk.lean ====
section
/-! DEFINITION. Translation: the walk (R16 to R24), the TLBs (R22, R42), the accessed and dirty bits (R22), the region table (R35 to R38), the
windows (R25), the private segment (R30), and the checks of an access in their order (R21). -/

namespace Sys2Proof.Machine

/-- The index bits of a level (R16). -/
def walkIndex (va : Dword) : Nat → Nat
  | 0 => bits va 56 48
  | 1 => bits va 47 30
  | 2 => bits va 29 21
  | _ => bits va 20 16
/-- The size of a page whose leaf stands at a level (R16). -/
def pageSize : Nat → Nat
  | 1 => 0x40000000 | 2 => 0x200000 | _ => 0x10000
/-- The size of the table at a level (R16). -/
def tableSize : Nat → Nat
  | 0 => 4096 | 1 => 0x200000 | 2 => 4096 | _ => 256

/-- The well-formedness of a leaf (R18, R19). -/
def leafOk (e : Dword) (level : Nat) : Bool :=
  level ≠ 0 && bits e 15 9 = 0 && bits e 63 63 = 0 && !(e.getLsbD 2 && e.getLsbD 3)
    && (level ≠ 2 || bits e 20 16 = 0) && (level ≠ 1 || bits e 29 16 = 0)

/-- The memory type of a leaf (R18): 0 normal, 1 uncached, 2 fabric-remote, 3 host. -/
def Leaf.mt (l : Leaf) : Nat := bits l.e 8 7
/-- The key id of a leaf (R18). -/
def Leaf.key (l : Leaf) : Nat := bits l.e 62 52

/-- The 64-bit entry at `at_`, read fresh at its home under key id 0 (R24, R41, R59, R80). One whose address lies in device register space is
read as memory (DESIGN CHOICE: the spec does not say what a walk reads there). -/
def readEntry (s : State) (va : Dword) (level at_ : Nat) : State × Except Trap Dword :=
  if !backed s.mgmt at_ 8 then (s, .error (trapAt 20 0x10 0x04 va level))
  else
    match physWaits s at_ 8 false with
    | some s => (s, .error waitAtHome)
    | none =>
      match physRead s at_ 8 0 with
      | (s, .error sub) => (s, .error (trapAt 20 0x41 sub va level))
      | (s, .ok b) => (s, .ok (BitVec.ofNat 64 (leNat b)))

/-- The walk from an entry at `at_` (R24), with a fuel of one per level. -/
def walkFrom (s : State) (va : Dword) : Nat → Nat → Nat → State × Except Trap Leaf
  | 0, level, _ => (s, .error (trapAt 20 0x10 0x01 va level))
  | fuel + 1, level, at_ =>
    match readEntry s va level at_ with
    | (s, .error t) => (s, .error t)
    | (s, .ok e) =>
      if !e.getLsbD 0 then (s, .error (trapAt 20 0x10 0x00 va level))
      else if e.getLsbD 1 then
        if level = 3 || bits e 7 2 ≠ 0 || bits e 63 52 ≠ 0 || (bits e 51 8 * 256) % tableSize (level + 1) ≠ 0 then
          (s, .error (trapAt 20 0x10 0x01 va level))
        else walkFrom s va fuel (level + 1) (bits e 51 8 * 256 + walkIndex va (level + 1) * 8)
      else if !leafOk e level then (s, .error (trapAt 20 0x10 0x01 va level))
      else if (⟨e, level, at_⟩ : Leaf).mt ≤ 1 && !backed s.mgmt (bits e 51 16 * 65536) (pageSize level) then
        (s, .error (trapAt 20 0x10 0x04 va level))
      else (s, .ok ⟨e, level, at_⟩)

/-- The walk of a virtual address under a SYS_PTROOT value (R24). -/
def walk (s : State) (ptroot va : Dword) : State × Except Trap Leaf :=
  walkFrom s va 4 0 (bits ptroot 51 12 * 4096 + walkIndex va 0 * 8)

/-! ## The TLBs and the A and D bits (R22, R42) -/

/-- What a compare-and-swap of a leaf at its home comes to (R22): it must wait, software has changed the entry, or it is done. -/
inductive Swapped where
  | wait | changed | done
  deriving DecidableEq, Repr

/-- Sets a bit of a leaf, 5 for A and 6 for D, by a compare-and-swap of the whole entry at its home under key id 0 (R22). An entry in which
the hardware has set the bit meanwhile is as it should be. -/
def swapLeaf (s : State) (l : Leaf) (b : Nat) : State × Swapped :=
  let new := l.e ||| BitVec.ofNat 64 (2 ^ b)
  match physWaits s l.at_ 8 true with
  | some s => (s, .wait)
  | none =>
    let s := recallLine s (l.at_ / 64) true
    match readGran s l.at_ 8 0 with
    | (s, .error _) => (s, .changed)
    | (s, .ok x) =>
      let x : Dword := BitVec.ofNat 64 (leNat x)
      if x = l.e then (s.homePut l.at_ (leBytes 8 new.toNat), .done)
      else (s, if x = new then .done else .changed)

/-- The entry of a core's TLBs that translates an address of a SPACE (R22, R42). -/
def tlbFind (k : Core) (space va : Nat) : Option TlbEntry :=
  k.tlb.find? fun x => x.space = space && x.va ≤ va && va < x.va + x.bytes

/-- The TLBs of a core with a change; a unit without TLBs has none. -/
def tlbMod (s : State) (core : Nat) (f : List TlbEntry → List TlbEntry) : State :=
  if (s.coreAt core).tlb.isEmpty then s else s.modCore core fun k => { k with tlb := f k.tlb }
/-- The core's TLBs without the entry of a leaf. -/
def tlbDrop (s : State) (core at_ : Nat) : State := tlbMod s core fun l => l.filter fun x => x.leaf.at_ ≠ at_

/-- A walk that ends in a well-formed leaf of a backed page sets A and installs the translation (R22). A walk that finds its entry changed
by software is made again: the access waits for it. -/
def install (s : State) (c : Ctx) (va : Dword) (l : Leaf) : State × Except Trap Leaf :=
  let new : Leaf := { l with e := l.e ||| 0x20 }
  let size := pageSize l.level
  let keep := fun (s : State) =>
    if !c.tlb || s.sched.walk then s
    else s.modCore c.core fun k => { k with
      tlb := k.tlb ++ [{ space := bits c.ptroot 11 0, va := va.toNat / size * size, bytes := size, leaf := new }] }
  if l.e.getLsbD 5 then (keep s, .ok l)
  else
    match swapLeaf s l 5 with
    | (s, .done) => (keep s, .ok new)
    | (s, _) => (s, .error waitAtHome)

/-- The leaf of an address: the one the TLBs hold, else the one the walk finds (R22, R24, R42). -/
def leafOf (s : State) (c : Ctx) (va : Dword) : State × Except Trap Leaf :=
  match (if c.tlb && !s.sched.walk then tlbFind (s.coreAt c.core) (bits c.ptroot 11 0) va.toNat else none) with
  | some x =>
    if x.leaf.mt ≤ 1 && !backed s.mgmt (bits x.leaf.e 51 16 * 65536) x.bytes then (s, .error (trapAt 20 0x10 0x04 va x.leaf.level))
    else (s, .ok x.leaf)
  | none =>
    match walk s c.ptroot va with
    | (s, .error t) => (s, .error t)
    | (s, .ok l) => install s c va l

/-- Write permission is obtained through a translation whose copy has D = 0 (R22): D is set; false when the translation has to be made
again first. -/
def markLeaf (s : State) (core : Nat) (l : Leaf) : State × Bool :=
  if l.e.getLsbD 6 then (s, true)
  else
    match swapLeaf s l 6 with
    | (s, .done) =>
      (tlbMod s core fun t => t.map fun x => if x.leaf = l then { x with leaf := { l with e := l.e ||| 0x40 } } else x, true)
    | (s, .changed) => (tlbDrop s core l.at_, false)
    | (s, .wait) => (s, false)

/-- The pages of an access that writes are marked dirty (R22). -/
def markParts (s : State) (core : Nat) : List Part → State × Bool
  | [] => (s, true)
  | p :: r =>
    match p.leaf with
    | none => markParts s core r
    | some l =>
      match markLeaf s core l with
      | (s, true) => markParts s core r
      | (s, false) => (s, false)
def markDirty (s : State) (core : Nat) (a : Acc) : State × Bool := if a.dirties then markParts s core a.parts else (s, true)

/-! ## The checks -/

/-- The first valid region that covers an address (R37). -/
def regionOf (rs : List Region) (va : Dword) : Option Region :=
  rs.find? fun r => r.base ≤ va.toNat && va.toNat < r.base + r.bytes

/-- A key id is loaded (R23). -/
def keyLoaded (m : Mgmt) (k : Nat) : Bool := k = 0 || (assoc k m.keys).isSome

/-- Checks of step 4 of R21 against the leaf and the region. -/
def kindCheck (l : Leaf) (r : Option Region) (k : Kind) (va : Dword) : Except Trap Unit :=
  let w := l.e.getLsbD 2
  let own := match r with | some r => r.own | none => false
  match k with
  | .fetch => if l.e.getLsbD 3 then .ok () else .error (trapAt 40 0x12 0x00 va)
  | .store => if !w then .error (trapAt 40 0x11 0x00 va) else if own then .error (trapAt 41 0x11 0x04 va) else .ok ()
  | .atomic => if !w then .error (trapAt 40 0x11 0x01 va) else if own then .error (trapAt 41 0x11 0x04 va) else .ok ()
  | .lock => if !w then .error (trapAt 40 0x11 0x01 va) else .ok ()
  | .engWrite => if !w then .error (trapAt 40 0x11 0x02 va) else if own then .error (trapAt 41 0x11 0x04 va) else .ok ()
  | .stashWrite => if !w then .error (trapAt 40 0x11 0x03 va) else .ok ()
  | .pixel => if !w then .error (trapAt 40 0x11 0x00 va) else .ok ()
  | _ => .ok ()

/-- Whether device register space serves the access (R448): plain loads and stores of eight aligned bytes. -/
def regServes (k : Kind) (size : Nat) : Bool := (k = .load || k = .store) && size = 8

/-- Checks of step 5 of R21: the type, then the key. -/
def typeCheck (m : Mgmt) (l : Leaf) (pa : Nat) (k : Kind) (size : Nat) (va : Dword) : Except Trap Unit := do
  if k = .fetch ∧ l.mt ≠ 0 then .error (trapAt 50 0x12 0x01 va)
  if l.mt ≤ 1 ∧ pa ≥ 0xF000000000000 then
    if l.mt ≠ 1 then .error (trapAt 51 0x10 0x06 va)
    if !regServes k size then .error (trapAt 52 0x10 0x05 va)
  if l.mt = 3 ∧ (k = .atomic ∨ k = .lock) then .error (trapAt 52 0x10 0x05 va)
  if l.mt = 1 ∧ k = .lock then .error (trapAt 52 0x10 0x05 va)
  if (k = .stashRead ∨ k = .stashWrite) ∧ l.mt ≠ 0 then .error (trapAt 52 0x10 0x05 va)
  if l.mt ≤ 1 then
    if !keyLoaded m l.key then .error (trapAt 53 0x15 0x00 va)
  else if l.key ≠ 0 then .error (trapAt 53 0x15 0x01 va)

/-- The window entry of a fabric-remote or host leaf (R25): the target of window offset 0, when the window is valid. An entry with a reserved bit
set is no valid window (DESIGN CHOICE: the spec gives such an entry no effect). -/
def windowOf (f : Fabric) (host : Bool) (idx : Nat) : Option (BitVec 128) :=
  match assoc idx (if host then f.hwin else f.fwin) with
  | some e =>
    if e.getLsbD 0 && e.getLsbD 1 = host && bits e 7 2 = 0 && bits e 31 25 = 0
        && (if host then bits e 24 20 = 0 else bits e 63 32 = 0 && bits e 127 116 = 0) then some e else none
  | none => none

/-- The place of a byte behind a leaf. -/
def placeOf (s : State) (l : Leaf) (va : Dword) : Except Trap Place :=
  let size := pageSize l.level
  let off := va.toNat % size
  match l.mt with
  | 0 => .ok (let pa := bits l.e 51 16 * 65536 + off; if pa ≥ 0xF000000000000 then .reg pa else .mem pa false)
  | 1 => .ok (let pa := bits l.e 51 16 * 65536 + off; if pa ≥ 0xF000000000000 then .reg pa else .mem pa true)
  | t =>
    match windowOf s.fabric (t = 3) (bits l.e 51 40) with
    | none => .error (trapAt 55 0x10 0x07 va)
    | some e =>
      let target := bits e 127 64 + bits l.e 39 16 * 65536 + off
      .ok (if t = 3 then .host (bits e 19 8) target else .remote (bits e 24 8) target)

/-- The write permission that an access obtains sets D (R22): stores, atomics, reductions, engine and pixel writes. LOCK and UNLOCK write
no byte, and a stash line is written only after it is filled. -/
def Kind.dirties : Kind → Bool
  | .store | .atomic | .engWrite | .pixel => true
  | _ => false

/-- Translation and the checks of steps 1 to 5 of R21 for one address that no aperture decodes. -/
def translate (s : State) (c : Ctx) (va : Dword) (size : Nat) (k : Kind) : State × Except Trap Acc :=
  if !canonical va then (s, .error (trapAt 10 0x10 0x02 va))
  else
    match leafOf s c va with
    | (s, .error t) => (s, .error t)
    | (s, .ok l) =>
      let r := regionOf c.regions va
      let chk : Except Trap Acc := do
        if !c.sup ∧ !l.e.getLsbD 4 then .error (trapAt 30 0x14 (if k = .fetch then 1 else 0) va)
        kindCheck l r k va
        typeCheck s.mgmt l (bits l.e 51 16 * 65536) k size va
        let p ← placeOf s l va
        let minDom : Domain := match l.mt with | 0 => .core | 1 => .package | _ => .system
        .ok { va := va, key := l.key, page := pageSize l.level, dirties := k.dirties
              parts := [{ place := p, off := 0, n := size, va := va.toNat, page := pageSize l.level, key := l.key, leaf := some l }]
              dom := (match r with | some r => r.dom | none => .system).max minDom
              cfmt := match r with | some r => r.cfmt | none => 0
              fresh := (match r with | some r => r.fresh | none => false) || l.mt = 1 || l.mt = 3
              own := match r with | some r => r.own | none => false
              pub := match r with | some r => r.pub | none => false }
      (s, chk)

/-- The block of a cohort on a core of the issuing core's cluster (R29). -/
def windowBlock (s : State) (c : Ctx) (core : Nat) : Option Block :=
  if !s.mgmt.clusterUp (clusterOf c.core) then none
  else (s.coreAt (coreNo (clusterOf c.core) core)).blocks.find? fun b =>
    b.launch = c.launch && b.index.toNat / c.coh = c.block.toNat / c.coh

/-- The alignment of an access (R21 step 7): the address is a multiple of the size. -/
def alignCheck (va : Dword) (align : Nat) : Except Trap Unit :=
  if va.toNat % align ≠ 0 then .error (trapAt 70 0x18 0x00 va) else .ok ()

/-- The attributes of the private aperture as a region over everything: domain core, no format, freshness left to the page (R34). -/
def privateRegion : Region := { idx := 0, dom := .core, cfmt := 0, fresh := false, own := false, pub := false, base := 0, bytes := 2 ^ 64 }

/-- A private access at private address `p` of lane `lane` (R30): each of the `words` words it touches, `n` bytes each, is
translated at its own address and keeps its own key id; the domain is the widest of their pages' (R38). -/
def privateParts (s : State) (c : Ctx) (k : Kind) (lane p n : Nat) : Nat → Nat → State × Except Trap (List Part × Domain)
  | 0, _ => (s, .ok ([], .core))
  | words + 1, off =>
    let q := p + off
    let va : Nat := (c.privBase + c.warpNo * 32 * c.privBytes + q / 4 * 128 + lane * 4 + q % 4) % 2 ^ 64
    match translate s c (BitVec.ofNat 64 va) n k with
    | (s, .error t) => (s, .error t)
    | (s, .ok a) =>
      match privateParts s c k lane p n words (off + n) with
      | (s, .error t) => (s, .error t)
      | (s, .ok (ps, d)) => (s, .ok (a.parts.map (fun x => { x with off := off }) ++ ps, a.dom.max d))

end Sys2Proof.Machine
end

