-- ==== Sys2Proof/Machine/Lsu.lean ====
section
/-! DEFINITION. One access of a warp or an engine: the checks of an address, aperture space among them (R21, R27 to R34),
and its load, store or read-modify-write at the place it reaches (R57 to R64, R76, R77, R83, R110). -/

namespace Sys2Proof.Machine

/-! ## Who accesses -/

/-- The issuer of an access: its core, warp slot and lanes, its block as a lock holder, and its logical name (R82, R133). -/
structure Issuer where
  core : Nat
  slot : Nat := 0
  lanes : Mask := 0
  launch : Word
  block : Word := 0
  warp : Nat := 0
  holder : Option LockKey := none
  agent : Agent
  isWarp : Bool := true
  deriving DecidableEq, Repr

/-- The issuer's core, when it stands on one, with a change. -/
def Issuer.modCore (i : Issuer) (s : State) (f : Core → Core) : State := match agentCore i.agent with | some _ => s.modCore i.core f | none => s

/-- The warp runs in supervisor mode: its launch does, or the system handler runs (R139, R392). -/
def Warp.supervisor (w : Warp) : Bool := w.supv || (w.inhdl && w.sysHdl)

/-- The launch's private area (R26). -/
def privBaseOf (l : Launch) : Nat := (sext57 (l.pkt.privb)).toNat

/-- The translation context of a block's access (R26, R30). -/
def ctxOf (s : State) (core : Nat) (l : Launch) (block : Word) (rank warp : Nat) (bslot : Option Nat) (sup : Bool) : Ctx :=
  let perBlock := (l.pkt.ntid + 31) / 32
  { core := core, bslot := bslot, launch := l.id, block := block, rank := rank, coh := l.pkt.coh,
    warpNo := block.toNat * perBlock + warp, sup := sup, ptroot := l.ptroot, regions := l.regions,
    privBase := privBaseOf l, privBytes := l.pkt.privsz * 64, vgran := s.cur.vgran, nacc := s.cur.nacc }

/-- The context of the issuing warp. -/
def curCtx (s : State) : Ctx :=
  ctxOf s s.core.id s.curLaunch s.cur.block (match s.curBlock with | some b => b.rank | none => 0) s.cur.idx (some s.cur.bslot)
    s.cur.supervisor

/-- The context of a block's own engine or stash accesses. -/
def blockCtx (s : State) (core : Nat) (b : Block) : Ctx :=
  let l := (s.launchOf b.launch).getD { id := b.launch, q := 0, pkt := {} }
  ctxOf s core l b.index b.rank 0 (some b.bslot) l.sup

/-- The issuing warp as the issuer of an access of some lanes. -/
def curIssuer (s : State) (m : Mask) : Issuer :=
  { core := s.core.id, slot := s.cur.slot, lanes := m, launch := s.cur.launch, block := s.cur.block, warp := s.cur.idx,
    holder := s.curBlock.map fun b => ⟨s.core.id, b.bslot, b.genLS⟩, agent := .loc s.core.id 0 0 }

/-- The effective domain of an address that an engine instruction names, as it stands at issue (R38, R98): of the region and of the page's type.
A page that no walk finds counts as system. -/
def effDomain (s : State) (c : Ctx) (va : Dword) : Domain :=
  if inAperture va then (if va.toNat - apertureBase < 0x80000 then .core else .cluster)
  else
    let page : Domain := match (leafOf s c va).2 with
      | .ok l => if l.mt = 0 then .core else if l.mt = 1 then .package else .system
      | .error _ => .system
    (match regionOf c.regions va with | some r => r.dom | none => .system).max page

/-- The widest effective domain of a range, page by page; of a range beyond 4 GiB, of its first 4 GiB (DESIGN CHOICE). -/
def rangeDomain (s : State) (c : Ctx) (va : Dword) (n : Nat) : Domain :=
  (List.range (Nat.min 65536 ((va.toNat % 65536 + n + 65535) / 65536))).foldl
    (fun d i => d.max (effDomain s c (if i = 0 then va else BitVec.ofNat 64 ((va.toNat / 65536 + i) * 65536)))) .core

/-! ## The context image (R31 to R33) -/

/-- STATUS of the header (R32): the warp holds a lane set or not. -/
def Warp.status (w : Warp) (active : Bool) : Nat :=
  if w.preempted then 3
  else if w.live = 0 then 5
  else match w.wait with
    | .none | .retry | .yield => if active then 0 else 2
    | .resp _ _ _ | .trapQueue _ => 4
    | _ => 1

/-- A 32-bit word of a warp's context image, by its offset divided by 4. -/
def ctxWord (core : Nat) (active : Bool) (w : Warp) (k : Nat) : Word :=
  let o := 4 * k
  if o < 0x100 then
    match k with
    | 0 => 1
    | 1 => BitVec.ofNat 32 (w.status active + bit w.tmask * 8 + bit w.inhdl * 16 + w.partw.toNat * 32 + bit w.memrev * 256 + bit w.supv * 512)
    | 2 => BitVec.ofNat 32 (w.genReg.toNat + w.genAcc.toNat * 65536)
    | 3 => w.live
    | 4 => w.barpark
    | 5 => BitVec.ofNat 32 (w.vgran + (2 ^ w.nacc - 1) * 256)
    | 6 => w.launch
    | 7 => w.block
    | 8 => BitVec.ofNat 32 (w.idx + coreField core * 65536)
    | _ => 0
  else if o < 0x200 then
    let l : Fin 32 := Fin.ofNat 32 ((o - 0x100) / 8)
    let x : Nat := ((if w.inhdl then w.slpc[l] else w.lpc[l]).toNat % 2 ^ 57) / 4 * 4
    BitVec.ofNat 32 (x / 2 ^ (32 * (k % 2)))
  else if o < 0x220 then w.getP ((o - 0x200) / 4)
  else if o < 0x2A0 then BitVec.ofNat 32 ((w.getT ((o - 0x220) / 16)).toNat / 2 ^ (8 * ((o - 0x220) % 16)))
  else if o < 0x400 then 0
  else if o < 0x600 then BitVec.ofNat 32 ((w.getS ((o - 0x400) / 8)).toNat / 2 ^ (32 * (k % 2)))
  else if o < 0x800 then 0
  else if o < 0x2800 then
    let r := (o - 0x800) / 128
    if r < 8 * w.vgran then w.getV r (Fin.ofNat 32 (k % 32)) else 0
  else if o < 0x3000 then (w.scratch.getD ((o - 0x2800) / 128) (Vector.replicate 32 0))[Fin.ofNat 32 (k % 32)]
  else if o < 0x4000 then 0
  else if o < 0x14000 then
    match w.acc[(o - 0x4000) / 0x2000]? with
    | some a => a.getD ((o - 0x4000) % 0x2000 / 4) 0
    | none => 0
  else 0

/-- The header's GENLS, which the block's slot holds (R32, R147). -/
def ctxWordOf (s : State) (core : Nat) (w : Warp) (k : Nat) : Word :=
  let active := s.isActive core w.slot
  if k = 2 then
    ctxWord core active w 2 ||| BitVec.ofNat 32 ((match s.blockAt core w.bslot with | some b => b.genLS.toNat | none => 0) * 256)
  else ctxWord core active w k

/-- Bytes of the context image of a warp. -/
def ctxBytes (s : State) (core : Nat) (w : Warp) (off n : Nat) : List Byte :=
  (List.range n).map fun i => BitVec.ofNat 8 ((ctxWordOf s core w ((off + i) / 4)).toNat / 2 ^ (8 * ((off + i) % 4)))

/-- One scratch word (R31, R265). -/
def Warp.setScratch (w : Warp) (k : Nat) (l : Fin 32) (x : Word) : Warp :=
  if h : k < 16 then { w with scratch := w.scratch.set k (w.scratch[k].set l x) } else w

/-- A store of one 32-bit word to the context image (R33). -/
def ctxPutWord (w : Warp) (k : Nat) (x : Word) : Warp :=
  let o := 4 * k
  if o < 0x100 then w
  else if o < 0x200 then
    if w.inhdl then
      let l : Fin 32 := Fin.ofNat 32 ((o - 0x100) / 8)
      let old := w.slpc[l].toNat
      let y := if k % 2 = 0 then old / 2 ^ 32 * 2 ^ 32 + x.toNat else old % 2 ^ 32 + x.toNat * 2 ^ 32
      { w with slpc := w.slpc.set l (sext57 (BitVec.ofNat 64 (y / 4 * 4))) }
    else w
  else if o < 0x21C then w.setP ((o - 0x200) / 4) 0xFFFFFFFF x
  else if o < 0x220 then w
  else if o < 0x2A0 then
    let r := (o - 0x220) / 16
    let sh := 8 * ((o - 0x220) % 16)
    let old := (w.getT r).toNat
    w.setT r (BitVec.ofNat 128 (old - old / 2 ^ sh % 2 ^ 32 * 2 ^ sh + x.toNat * 2 ^ sh))
  else if o < 0x400 then w
  else if o < 0x600 then
    let r := (o - 0x400) / 8
    let old := (w.getS r).toNat
    w.setS r (BitVec.ofNat 64 (if k % 2 = 0 then old / 2 ^ 32 * 2 ^ 32 + x.toNat else old % 2 ^ 32 + x.toNat * 2 ^ 32))
  else if o < 0x800 then w
  else if o < 0x2800 then w.setV ((o - 0x800) / 128) (Fin.ofNat 32 (k % 32)) x
  else if o < 0x3000 then w.setScratch ((o - 0x2800) / 128) (Fin.ofNat 32 (k % 32)) x
  else if o < 0x4000 then w
  else if o < 0x14000 then
    let r := (o - 0x4000) / 0x2000
    match w.acc[r]? with
    | some a =>
      let e := (o - 0x4000) % 0x2000 / 4
      if h : e < 2048 then { w with acc := w.acc.set r (a.set e x) } else w
    | none => w
  else w

/-- A store of bytes to the context image, byte by byte over the words. -/
def ctxPut (core : Nat) (w : Warp) (off : Nat) : List Byte → Warp
  | [] => w
  | b :: r =>
    let old := (ctxWord core true w (off / 4)).toNat
    let sh := 8 * (off % 4)
    let x := old - old / 2 ^ sh % 256 * 2 ^ sh + b.toNat * 2 ^ sh
    ctxPut core (ctxPutWord w (off / 4) (BitVec.ofNat 32 x)) (off + 1) r

/-- A store to the area of a register that is not allocated (R33). -/
def ctxUnallocated (c : Ctx) (off n : Nat) : Bool :=
  (off + n > 0x800 + c.vgran * 1024 && off < 0x2800 && off ≥ 0x800) || (off + n > 0x4000 + c.nacc * 0x2000 && off < 0x14000 && off ≥ 0x4000)

/-! ## Local store and the stash (R50 to R55) -/

/-- The stash mapping that covers a byte of a block's allocation, with the line's number in it. -/
def stashAt (k : Core) (bslot off : Nat) : Option (Stash × Nat) :=
  (k.stash.find? fun st => st.bslot = bslot && st.loff * 4096 ≤ off && off < (st.loff + st.len) * 4096).map fun st =>
    (st, (off - st.loff * 4096) / 64)

/-- The state of a stash line: 0 EMPTY, 1 SHARED, 2 CLEAN, 3 DIRTY. -/
def Stash.lineAt (st : Stash) (n : Nat) : Option StashLine := st.lines.find? fun l => l.n = n

/-- Puts a stash line's record. -/
def setStashLine (s : State) (core : Nat) (st : Stash) (l : StashLine) : State :=
  s.modCore core fun k => { k with
    stash := k.stash.map fun x => if x.entry = st.entry then { x with lines := putBy (fun y => y.n = l.n) l x.lines } else x }

/-- The translation that a fill or an upgrade makes (R54), and the trap of a store through a read-only mapping. -/
def stashCheck (s : State) (core : Nat) (b : Block) (off : Nat) (write : Bool) : State × Except Trap (Option Acc) :=
  match stashAt (s.coreAt core) b.bslot off with
  | none => (s, .ok none)
  | some (st, n) =>
    let va := st.gva + BitVec.ofNat 64 (n * 64)
    let state := match st.lineAt n with | some l => l.state.toNat | none => 0
    if write && !st.rw then (s, .error (trapAt 80 0x11 0x03 va))
    else if (if write then state ≥ 2 else state ≥ 1) then (s, .ok none)
    else
      match translate s (blockCtx s core b) va 64 (if st.rw then .stashWrite else .stashRead) with
      | (s, .error t) => (s, .error t)
      | (s, .ok a) => (s, .ok (some a))

/-- The first write to a stash line sets D of its page (R22); false when the translation has to be made again first. -/
def stashDirty (s : State) (core : Nat) (l : Option Leaf) : State × Bool :=
  match l with
  | some l => markLeaf s core l
  | none => (s, true)

/-- What becomes of an access after its checks: it must wait, meets a late fault (R388), or is performed. -/
inductive Done (α : Type) where
  | wait
  | late (t : Trap)
  | ok (v : α)
  deriving DecidableEq, Repr

def Done.map {α β : Type} (f : α → β) : Done α → Done β
  | .wait => .wait
  | .late t => .late t
  | .ok v => .ok (f v)

/-- The trap of a check that a performed access meets, or the wait of one that waits at a home (R69, R388). -/
def lateDone {α : Type} (t : Trap) : Done α := if t.held then .wait else .late t

/-- A CLEAN stash line becomes DIRTY (R54): D of its page is set through the line's own translation, made again where it has changed (R22). -/
def stashClean (s : State) (core : Nat) (b : Block) (st : Stash) (l : StashLine) : State × Done Unit :=
  match stashDirty s core l.leaf with
  | (s, true) => (setStashLine s core st { l with state := 3, leaf := none }, .ok ())
  | (s, false) =>
    match translate s (blockCtx s core b) (st.gva + BitVec.ofNat 64 (l.n * 64)) 64 .stashWrite with
    | (s, .error t) => (s, lateDone t)
    | (s, .ok a) => (setStashLine s core st { l with leaf := (a.parts.head?).bind fun p => p.leaf }, .wait)

/-- The stash line of a byte is filled or upgraded when the access needs it (R54). -/
def stashTouch (s : State) (core : Nat) (b : Block) (off : Nat) (write : Bool) : State × Done Unit :=
  match stashAt (s.coreAt core) b.bslot off with
  | none => (s, .ok ())
  | some (st, n) =>
    let old := st.lineAt n
    let state := match old with | some l => l.state.toNat | none => 0
    if state = 3 || (!write && state ≥ 1) then (s, .ok ())
    else if state = 2 then (match old with | some l => stashClean s core b st l | none => (s, .ok ()))
    else
      match stashCheck s core b off write with
      | (s, .error t) => (s, lateDone t)
      | (s, .ok none) => (s, .ok ())
      | (s, .ok (some a)) =>
        match a.parts with
        | ⟨.mem pa _, _, _, _, _, _, leaf⟩ :: _ =>
          let excl := st.rw
          let h : HeldReq := { req := { agent := .loc core 0 0, holder := some ⟨core, b.bslot, b.genLS⟩, pa := pa, key := a.key,
                                        op := if excl then .trackExclusive else .trackShared, ret := none, warp := none } }
          match claim s h with
          | (s, false) => (s, .wait)
          | (s, true) =>
            match (if write then stashDirty s core leaf else (s, true)) with
            | (s, false) => (s, .wait)
            | (s, true) =>
              let s := recallLine s (pa / 64) excl
              let rest := if write then none else leaf
              if state = 1 then
                (setStashLine s core st { n := n, page := a.page, state := 3, pa := pa / 64, key := a.key, leaf := rest }, .ok ())
              else
                match readGran s pa 64 a.key with
                | (s, .error sub) => (s, .late { trapAt 100 0x41 sub a.va with late := true })
                | (s, .ok d) =>
                  let s := s.modBlock core b.bslot fun b => { b with local_ := b.local_.put (st.loff * 4096 + n * 64) d }
                  (setStashLine s core st
                    { n := n, page := a.page, state := if !excl then 1 else if write then 3 else 2, pa := pa / 64, key := a.key, leaf := rest }, .ok ())
        | _ => (s, .ok ())

/-- A read of a block's local store (R50, R55). -/
def localRead (s : State) (core bslot off n : Nat) : State × Done (List Byte) :=
  match s.blockAt core bslot with
  | none => (s, .ok (List.replicate n 0))
  | some b =>
    match stashTouch s core b off false with
    | (s, .wait) => (s, .wait)
    | (s, .late t) => (s, .late t)
    | (s, .ok _) => (s, .ok ((match s.blockAt core bslot with | some b => b.local_ | none => []).bytes off n))

/-- A write of a block's local store (R50, R55). -/
def localWrite (s : State) (core bslot off : Nat) (d : List Byte) : State × Done Unit :=
  match s.blockAt core bslot with
  | none => (s, .ok ())
  | some b =>
    match stashTouch s core b off true with
    | (s, .wait) => (s, .wait)
    | (s, .late t) => (s, .late t)
    | (s, .ok _) => (s.modBlock core bslot fun b => { b with local_ := b.local_.put off d }, .ok ())

/-! ## The checks of an address -/

/-- The rank of an aperture access to a local store, checked (R27 to R29): `win` for the cluster window. -/
def localPlace (s : State) (c : Ctx) (win : Bool) (va : Dword) (o size align : Nat) (k : Kind) :
    State × Except Trap Acc :=
  let core := if win then coreNo (clusterOf c.core) (o / 0x80000) else c.core
  let off := if win then o % 0x80000 else o
  if k = .lock then (s, .error (trapAt 52 0x10 0x05 va))
  else
    match alignCheck va align with
    | .error t => (s, .error t)
    | .ok _ =>
      match (if win then windowBlock s c (o / 0x80000) else c.bslot.bind fun b => s.blockAt c.core b) with
      | none => (s, .error (if win then trapAt 75 0x1A 0 va else trapAt 75 0x19 0 va))
      | some b =>
        if off + size > b.lsBytes then (s, .error (trapAt 75 0x19 (if win then 1 else 0) va))
        else
          match stashCheck s core b off k.writes with
          | (s, .error t) => (s, .error t)
          | (s, .ok _) =>
            (s, .ok { va := va, parts := [{ place := .loc core b.bslot off, off := 0, n := size }], dom := if win then .cluster else .core, key := 0,
                      aperture := true, fresh := true })

/-- The checks of an access at private address `p` of a lane (R30): the bound, each word's own translation, then the alignment (R21). Its
domain is the widest of its pages' (R34, R38). -/
def privAcc (s : State) (c : Ctx) (lane p : Nat) (va : Dword) (size align : Nat) (k : Kind) (wide : Bool) : State × Except Trap Acc :=
  if p + size > c.privBytes then (s, .error (trapAt 20 0x10 0x03 va))
  else
    match privateParts s { c with regions := [privateRegion] } k lane p (Nat.min size 4) ((size + 3) / 4) 0 with
    | (s, .error t) => (s, .error t)
    | (s, .ok (ps, d)) =>
      if p % align ≠ 0 then (s, .error (trapAt 70 0x18 0x00 va))
      else if wide then (s, .error (trapAt 70 0x18 0x02 va))
      else
        (s, .ok { va := va, parts := ps, dom := d, key := (ps.head?.map fun x => x.key).getD 0, priv := true, aperture := true
                  dirties := k.dirties })

/-- The checks of one access at a virtual address, apertures included (R21, R27 to R34, R258). `lane` is the lane of a private
address; `wide` marks a 64-bit read-modify-write or a signal word (R30); `fmt` is the check of the region's format, which comes before
the alignment. A read-modify-write or a lock at the context image is trap 0x10, subcode 0x05 (DESIGN CHOICE: R33 states loads and stores only). -/
def resolve (s : State) (c : Ctx) (lane : Nat) (va : Dword) (size align : Nat) (k : Kind) (wide : Bool := false)
    (fmt : Acc → Except Trap Unit := fun _ => .ok ()) : State × Except Trap Acc :=
  if !canonical va then (s, .error (trapAt 10 0x10 0x02 va))
  else if inAperture va then
    let o := va.toNat - apertureBase
    if o < 0x80000 then localPlace s c false va o size align k
    else if 0x100000000 ≤ o ∧ o < 0x104000000 then localPlace s c true va (o - 0x100000000) size align k
    else if 0x200000000 ≤ o ∧ o < 0x200100000 then
      if k = .lock then (s, .error (trapAt 52 0x10 0x05 va))
      else privAcc s c lane (o - 0x200000000) va size (Nat.min align 4) k wide
    else if 0x300000000 ≤ o ∧ o < 0x300020000 then
      let p := o - 0x300000000
      if !c.sup then (s, .error (trapAt 30 0x14 0x02 va))
      else if k = .atomic ∨ k = .lock then (s, .error (trapAt 52 0x10 0x05 va))
      else
        match alignCheck va align with
        | .error t => (s, .error t)
        | .ok _ =>
          if k = .store ∧ ctxUnallocated c p size then (s, .error (trapAt 75 0x10 0x0A va))
          else (s, .ok { va := va, parts := [{ place := .ctx p, off := 0, n := size }], dom := .core, key := 0, aperture := true, fresh := true })
    else (s, .error (trapAt 20 0x10 0x09 va))
  else
    match translate s c va size k with
    | (s, .error t) => (s, .error t)
    | (s, .ok a) =>
      match fmt a, alignCheck va align with
      | .error t, _ => (s, .error t)
      | .ok _, .error t => (s, .error t)
      | .ok _, .ok _ => (s, .ok a)

/-! ## The L1 (R57 to R60) -/

/-- The L1 line of an address under a key id. -/
def l1Get (k : Core) (id : LineId) (key : Nat) : Option L1Line := k.l1.find? fun l => l.id = id && l.key = key
/-- The L1 without a line. -/
def l1Drop (k : Core) (id : LineId) : Core := { k with l1 := k.l1.filter fun l => l.id ≠ id }
/-- The set of a line in the L1 (R46): 256 sets by the line's number (DESIGN CHOICE). -/
def l1Set (id : LineId) : Nat := id.line % 256
/-- The L1 frames an update-only line occupies (R61). -/
def updFrames (cfmt : BitVec 3) : Nat := if cfmt = 4 then 10 else if cfmt = 6 then 20 else 1
/-- The update-only lines with a frame in a set: a line's frames lie in its set and in those that follow (DESIGN CHOICE). -/
def updIn (k : Core) (set : Nat) : List UpdLine := k.upd.filter fun u => (set + 256 - u.line % 256) % 256 < updFrames u.cfmt
/-- The readable line that leaves a full set (R262): one filled .STREAM, else the least recently used that is not .RETAIN, else the least
recently used. -/
def l1Victim (l : List L1Line) : Option LineId :=
  ((l.find? fun x => x.pol = 1).or ((l.find? fun x => x.pol ≠ 2).or l.head?)).map fun x => x.id
/-- A set takes no more than its 8 ways, the frames of update-only lines among them (R46, R61). -/
def l1Fit (k : Core) (set : Nat) : Nat → Core
  | 0 => k
  | fuel + 1 =>
    let mine := k.l1.filter fun x => l1Set x.id = set
    if mine.length + (updIn k set).length ≤ 8 then k
    else match l1Victim mine with
      | some id => l1Fit (l1Drop k id) set fuel
      | none => k
/-- A filled line takes its place in its set; one that its set has no way for is not kept. -/
def l1Put (k : Core) (l : L1Line) : Core :=
  let rest := l1Drop k l.id
  if (updIn rest (l1Set l.id)).length ≥ 8 then rest
  else
    let mine := rest.l1.filter fun x => l1Set x.id = l1Set l.id
    let k := if mine.length + (updIn rest (l1Set l.id)).length < 8 then rest
      else match l1Victim mine with | some id => l1Drop rest id | none => rest
    { k with l1 := k.l1 ++ [l] }
/-- A line that is read is the most recently used of its set. -/
def l1Use (k : Core) (l : L1Line) : Core := { k with l1 := (k.l1.filter fun x => x.id ≠ l.id) ++ [l] }
/-- A store updates a present line (R57). -/
def l1Store (k : Core) (id : LineId) (off : Nat) (d : List Byte) : Core :=
  { k with l1 := k.l1.map fun l => if l.id = id then { l with data := linePut l.data off d } else l }
/-- The invalidation of an acquire at a domain (R58). -/
def l1Acquire (k : Core) (d : Domain) : Core :=
  { k with l1 := k.l1.filter fun l => l.priv || (d = .core && l.dom = .core) }

/-- The core's held stores, as its ordering point forwards them to later loads and fills (R83). -/
def forward (s : State) (core : Nat) (id : LineId) (off : Nat) (b : List Byte) : List Byte :=
  s.home.held.foldl (fun b h =>
    if h.node = id.node && h.req.pa / 64 = id.line && agentCore h.req.agent = some core then
      match h.req.op with
      | .store d =>
        (List.range b.length).map fun i =>
          let a := off + i
          let o := h.req.pa % 64
          if o ≤ a && a < o + d.length then d.getD (a - o) 0 else b.getD i 0
      | _ => b
    else b) b

/-- A load of a line must wait for the core's own held request (R84, R86): any for a fresh load, a reduction for any load. -/
def ownHeld (s : State) (core : Nat) (id : LineId) (fresh : Bool) : Bool :=
  s.home.held.any fun h => h.node = id.node && h.req.pa / 64 = id.line && agentCore h.req.agent = some core
    && (fresh || (match h.req.op with | .store _ => false | _ => true))

/-- An earlier access of the same lanes to an uncached page still waits at its home: the next one to an uncached or host page comes after it
(R20, R84). -/
def uncHeld (s : State) (i : Issuer) : Bool :=
  i.isWarp && s.home.held.any fun h => h.unc && h.req.warp = some (i.core, i.slot) && h.lanes &&& i.lanes ≠ 0

/-- The fault of an access that reaches a remote device or the host (R25, R111, R112), raised late (R388). -/
def remoteFault (s : State) (host : Bool) (node addr n : Nat) (va : Dword) : Option Trap :=
  let f := s.fabric
  let refused := fun (l : List (Nat × Nat)) => l.any fun x => addr < x.1 + x.2 && x.1 < addr + n
  if host && f.noticed then some (failTrap 0x3002 va)
  else if host && !f.leaseOn then some (failTrap 0x3001 va)
  else if !host && (nodeGone s node).isSome then (nodeGone s node).map fun e => failTrap e va
  else if refused (if host then f.hostRefuses else (nodeOf s node).refuses) then some { trapAt 100 0x10 0x08 va with late := true }
  else none

/-- Where the bytes of a host connection stand in the host's memory. -/
def hostAddr (conn addr : Nat) : Nat := conn * 2 ^ 64 + addr

/-! ## Loads -/

/-- The launches translate under one SPACE (R26). -/
def sameSpace (s : State) (a b : Word) : Bool :=
  match s.launchOf a, s.launchOf b with
  | some x, some y => bits x.ptroot 11 0 = bits y.ptroot 11 0
  | _, _ => a = b

/-- The destination bytes that an engine instruction has still to own (R104): from, and how many; none where it has reached its
ownership point or writes no global memory. -/
def Copy.unowned (c : Copy) : Option (Nat × Nat) :=
  if c.owned || inAperture c.dst then none else some (c.dst.toNat + c.deliv, c.len - c.deliv)
/-- The bytes of an element by the code of MSTA (R310). -/
def matBytes (fmt : Nat) : Nat := match fmt with | 0 | 7 => 4 | 1 | 2 => 2 | _ => 1
def Job.unowned (j : Job) : Option (Nat × Nat) :=
  match j.kind with
  | .store _ base pitch fmt _ _ _ => if inAperture base then none else some (base.toNat, 63 * pitch.toNat + 32 * matBytes fmt)
  | _ => none

/-- The issuing core holds its warps' accesses to the destination range of an engine instruction until its ownership point (R104). -/
def engineHolds (s : State) (i : Issuer) (va n : Nat) : Bool :=
  let k := s.coreAt i.core
  let hit := fun (r : Option (Nat × Nat)) (launch : Word) =>
    match r with | some (a, m) => va < a + m && a < va + n && sameSpace s i.launch launch | none => false
  i.isWarp && ((k.copies.any fun c => hit c.unowned c.launch) || (k.jobs.any fun j => hit j.unowned j.launch))

/-- What a load brings with its bytes: the release tokens of its reply (R97). -/
structure Loaded where
  bytes : List Byte
  tokens : List Token := []
  drained : Bool := false
  deriving DecidableEq, Repr

/-- How a fill's policy marks its line (R262): 1 .STREAM, 2 .RETAIN. -/
def polOf (cpol : BitVec 3) : BitVec 2 := if cpol = 1 then 1 else if cpol = 2 then 2 else 0

/-- The line an L1 fill brings in, with what the core's held stores make of it (R57, R60, R83). -/
def fillLine (s : State) (i : Issuer) (a : Acc) (id : LineId) (d : List Byte) (tok : List Token) (dr : Bool) (cpol : BitVec 3) : L1Line :=
  { id := id, priv := a.priv, dom := a.dom, data := lineOf (forward s i.core id 0 d), key := a.key, filled := s.clock,
    tokens := tok, drained := dr, pol := polOf cpol }

/-- What a load that reached the home leaves in the L1 (R59, R262): the line refreshed or filled; nothing with .LASTREAD; with .NOALLOC only a line
that was present. An engine's load leaves the L1 alone (R105). -/
def l1Filled (s : State) (i : Issuer) (line : L1Line) (l1 : Bool) (cpol : BitVec 3) : State :=
  let present := (l1Get (s.coreAt i.core) line.id line.key).isSome
  if !i.isWarp then s
  else i.modCore s fun k => if l1 && cpol ≠ 4 && (cpol ≠ 3 || present) then l1Put k line else l1Drop k line.id

/-- A load of a line of device memory at its home, with the L1 filled as the policy says (R59, R60, R262). -/
def loadHome (s : State) (i : Issuer) (a : Acc) (pa n : Nat) (l1 : Bool) (fresh : Bool) (cpol : BitVec 3) : State × Done Loaded :=
  let id : LineId := ⟨none, pa / 64⟩
  let h : HeldReq := { req := { agent := i.agent, holder := i.holder, pa := pa, key := a.key, op := .read n, ret := none, warp := none } }
  if mustWait s h s.home.held then (startRecall s (pa / 64) false, .wait)
  else
    let s := recallLine s (pa / 64) false
    match readGran s (pa / 64 * 64) 64 a.key with
    | (s, .error sub) => (i.modCore s fun k => l1Drop k id, .late { trapAt 100 0x41 sub a.va with late := true })
    | (s, .ok d) =>
      if s.home.lost.contains (pa / 64) then
        ({ s with home := { s.home with lost := s.home.lost.filter fun x => x ≠ pa / 64 } },
          .late { trapAt 100 0x30 0x03 a.va with late := true })
      else
        let (tok, dr) := tokensAt s (pa / 64) (some i.core)
        let s := l1Filled s i (fillLine s i a id d tok dr cpol) l1 cpol
        let b := (d.drop (pa % 64)).take n
        (s, .ok ⟨if fresh then b else forward s i.core id (pa % 64) b, tok, dr⟩)

/-- The place of a byte in a launch's private lines (R77): a remote home's stand above 2^64, by node. -/
def pubAddr (node : Option Nat) (a : Nat) : Nat := match node with | none => a | some n => (n + 1) * 2 ^ 64 + a
/-- The home of a private line, and its line there. -/
def pubHome (line : Nat) : Option Nat × Nat := if line < 2 ^ 58 then (none, line) else (some (line / 2 ^ 58 - 1), line % 2 ^ 58)

/-- The launch's own private bytes over what a load returns (R77). -/
def overPub (s : State) (launch : Word) (pa : Nat) (b : List Byte) : List Byte :=
  match s.launchOf launch with
  | some l => if l.pub.isEmpty then b else Overlay.over l.pub pa b
  | none => b

/-- A hit in the L1 (R60, R97, R262): the line's bytes and tokens; .LASTREAD drops it. -/
def l1Hit (s : State) (i : Issuer) (l : L1Line) (off n : Nat) (cpol : BitVec 3) : State × Done Loaded :=
  (s.modCore i.core fun k => if cpol = 4 then l1Drop k l.id else l1Use k l,
    .ok { bytes := lineBytes l.data off n, tokens := l.tokens, drained := l.drained })

/-- The last-level set that a proxy copy takes (R46, R70): the die, slice and one of 16,384 sets of its target address. -/
def proxySet (m : Mgmt) (id : LineId) : Nat × Nat × Nat :=
  (dieOf m (id.line * 64), sliceOf m (id.line * 64), interfaceAddr m (id.line * 64) / 64 % 16384)

/-- A proxy copy is filled (R70): the remote home records this device as a holder; beyond 16 ways one leaves, a .STREAM line first, a .RETAIN
line last (R46, R262). -/
def proxyFill (s : State) (nd : Nat) (x : Proxy) : State :=
  let rest := s.home.proxies.filter fun p => p.id ≠ x.id
  let mine := rest.filter fun p => proxySet s.mgmt p.id = proxySet s.mgmt x.id
  let out := if mine.length < 16 then none else (mine.find? fun p => p.pol = 1).or ((mine.find? fun p => p.pol ≠ 2).or mine.head?)
  let rest := match out with | some p => rest.filter fun y => y.id ≠ p.id | none => rest
  let n := nodeOf s nd
  let s := setNode s { n with holds := if n.holds.contains x.id.line then n.holds else n.holds ++ [x.id.line] }
  { s with home := { s.home with proxies := rest ++ [x] } }

/-- A load of a line of a remote home (R59, R60, R70): from the proxy copy or, fresh, from the remote home, which an engine of this device that
owns the line keeps waiting (R104). -/
def loadRemote (s : State) (i : Issuer) (a : Acc) (nd addr n : Nat) (l1 fresh : Bool) (cpol : BitVec 3) : State × Done Loaded :=
  let id : LineId := ⟨some nd, addr / 64⟩
  let h : HeldReq := { req := { agent := i.agent, holder := i.holder, pa := addr, key := a.key, op := .read n, ret := none, warp := none },
                       node := some nd }
  match (if fresh then none else s.home.proxies.find? fun x => x.id = id) with
  | some x =>
    let d := lineBytes x.data 0 64
    (l1Filled s i (fillLine s i a id d [] false cpol) l1 cpol, .ok { bytes := forward s i.core id (addr % 64) ((d.drop (addr % 64)).take n) })
  | none =>
    if mustWait s h s.home.held then (s, .wait)
    else
      let d := (nodeOf s nd).mem.bytes (addr / 64 * 64) 64
      let s := proxyFill s nd { id := id, data := lineOf d, pol := polOf cpol }
      let b := (d.drop (addr % 64)).take n
      (l1Filled s i (fillLine s i a id d [] false cpol) l1 cpol, .ok { bytes := if fresh then b else forward s i.core id (addr % 64) b })

/-- The load of one part of an access (R20, R59, R60, R76, R77). -/
def loadPart (s : State) (i : Issuer) (a : Acc) (p : Part) (fresh : Bool) (cpol : BitVec 3) : State × Done Loaded :=
  match p.place with
  | .mem pa unc =>
    let id : LineId := ⟨none, pa / 64⟩
    let fresh := fresh || unc
    if ownHeld s i.core id fresh || (unc && uncHeld s i) then (s, .wait)
    else
      let r := match (if fresh || !i.isWarp then none else l1Get (s.coreAt i.core) id a.key) with
        | some l => l1Hit s i l (pa % 64) p.n cpol
        | none => loadHome s i a pa p.n (i.isWarp && !unc) fresh cpol
      match r with
      | (s, .ok x) => (s, .ok { x with bytes := overPub s i.launch pa x.bytes })
      | r => r
  | .reg pa => if uncHeld s i then (s, .wait) else (s, .ok { bytes := leBytes 8 (regRead s pa).toNat })
  | .remote nd addr =>
    let id : LineId := ⟨some nd, addr / 64⟩
    if ownHeld s i.core id fresh then (s, .wait)
    else
      match remoteFault s false nd addr p.n a.va with
      | some t => (s, .late t)
      | none =>
        let r := match (if fresh || !i.isWarp then none else l1Get (s.coreAt i.core) id a.key) with
          | some l => l1Hit s i l (addr % 64) p.n cpol
          | none => loadRemote s i a nd addr p.n i.isWarp fresh cpol
        match r with
        | (s, .ok x) => (s, .ok { x with bytes := overPub s i.launch (pubAddr (some nd) addr) x.bytes })
        | r => r
  | .host conn addr =>
    if uncHeld s i then (s, .wait)
    else
      match remoteFault s true conn addr p.n a.va with
      | some t => (s, .late t)
      | none => (s, .ok { bytes := s.fabric.host.bytes (hostAddr conn addr) p.n })
  | .loc core b off =>
    match localRead s core b off p.n with
    | (s, .ok d) => (s, .ok { bytes := d })
    | (s, .wait) => (s, .wait)
    | (s, .late t) => (s, .late t)
  | .ctx off => (s, .ok { bytes := ctxBytes s s.core.id s.cur off p.n })

/-- The load of every part of an access, each under its own key id; a B128 is two 8-byte events in one line (R30, R82). -/
def loadAcc (s : State) (i : Issuer) (a : Acc) (fresh : Bool) (cpol : BitVec 3) : State × Done Loaded :=
  if engineHolds s i a.va.toNat 16 then (s, .wait) else
  a.parts.foldl (fun (s, r) p =>
    match r with
    | .ok x =>
      match loadPart s i { a with key := p.key } p fresh cpol with
      | (s, .ok y) => (s, .ok ⟨x.bytes ++ y.bytes, x.tokens ++ y.tokens, x.drained || y.drained⟩)
      | (s, .wait) => (s, .wait)
      | (s, .late t) => (s, .late t)
    | r => (s, r)) (s, .ok { bytes := [] })

/-! ## Publication (R77, R108) -/

/-- The lines that private publication lines may occupy: one eighth of the last-level cache (R77). -/
def pubQuota (m : Mgmt) : Nat := m.memDies.length * 16 * 0x1000000 / 8 / 64

/-- A line is published by a write of the device's own at its home. -/
def pubReq (s : State) (x : PubLine) : HeldReq :=
  { physReq s ((pubHome x.line).2 * 64) x.key (.store []) with node := (pubHome x.line).1 }

/-- A private line leaves its launch. -/
def pubGone (s : State) (launch : Word) (x : PubLine) : State :=
  s.modLaunch launch fun l => { l with pub := l.pub.filter fun c => c.1 / 64 ≠ x.line, pubLines := l.pubLines.filter fun y => y.line ≠ x.line }

/-- What publishing a line comes to: it waits for the acknowledgements of its holders, is done, or its merge failed (R80). -/
inductive Published where
  | wait | done | failed
  deriving DecidableEq, Repr

/-- One private line is published to its home (R77, R108): once every tracked copy is recalled or invalidated and nothing holds the line, its
bytes take effect as one write; copies in the L1s are dropped with it. -/
def publishLine (s : State) (l : Launch) (x : PubLine) : State × Published :=
  let (node, line) := pubHome x.line
  let cells := (l.pub.filter fun c => c.1 / 64 = x.line).map fun c => ((c.1 - (x.line - line) * 64, c.2) : Host.Cell)
  let id : LineId := ⟨node, line⟩
  let drop := fun (s : State) => (s.allCores.map fun k => k.id).foldl (fun s c => s.modCore c fun k => l1Drop k id) s
  if mustWait s (pubReq s x) s.home.held then (startRecall s line true, .wait)
  else
    match node with
    | some nd =>
      if (nodeGone s nd).isSome then (pubGone s l.id x, .failed)
      else
        let n := nodeOf s nd
        (pubGone (drop (dropProxy (setNode s { n with mem := cells.foldl (fun m c => m.set c.1 c.2) n.mem }) id)) l.id x, .done)
    | none =>
      match mergeCells (recallLine s line true) line cells x.key with
      | (s, true) => (pubGone (drop (tagLine s line (cells.length = 64) none false)) l.id x, .done)
      | (s, false) => (pubGone s l.id x, .failed)

/-- The record of a private line whose merge failed and that no operation of its thread waits on (R80). -/
def pubFailed (s : State) (launch : Word) (x : PubLine) : State :=
  launchRecord s { code := 0x41, sub := 1, kind := 2, addr := x.va, launch := launch, block := x.block, warp := x.warp, core := s.core.id }

/-- The home of a private line (R65, R108): a slice of this device, or a remote device. -/
def homeOfPub (s : State) (x : PubLine) : Option Nat × Nat × Nat :=
  match pubHome x.line with
  | (none, l) => (none, dieOf s.mgmt (l * 64), sliceOf s.mgmt (l * 64))
  | (some n, _) => (some n, 0, 0)

/-- Lines of a launch are published, first first. `mine` is the thread's block and warp for whom a failed merge is a trap (R80). -/
def publishLines (s : State) (launch : Word) (mine : Option (Word × Nat)) : List PubLine → State × Option Trap
  | [] => (s, none)
  | x :: r =>
    match s.launchOf launch with
    | none => (s, none)
    | some l =>
      match publishLine s l x with
      | (s, .failed) =>
        let (s, t) := publishLines (if mine = some (x.block, x.warp) then s else pubFailed s launch x) launch mine r
        (s, if mine = some (x.block, x.warp) then some { trapAt 100 0x41 1 x.va with late := true } else t)
      | (s, _) => publishLines s launch mine r

/-- The lines of one home take effect together (R108): all of them when none has to wait there, else none yet. -/
def publishHome (s : State) (launch : Word) (mine : Option (Word × Nat)) (ls : List PubLine) : State × Option Trap :=
  if ls.any fun x => mustWait s (pubReq s x) s.home.held then
    (ls.foldl (fun s x => if (pubHome x.line).1.isNone then startRecall s (pubHome x.line).2 true else s) s, none)
  else publishLines s launch mine ls

/-- Every private line of a launch is published, home by home (R108); the lines of a home that cannot take them yet stay. -/
def publishAll (s : State) (launch : Word) (mine : Option (Word × Nat) := none) : State × Option Trap :=
  match s.launchOf launch with
  | none => (s, none)
  | some l =>
    (l.pubLines.map (homeOfPub s)).eraseDups.foldl (fun (s, t) h =>
      let (s, t') := publishHome s launch mine (l.pubLines.filter fun x => homeOfPub s x = h)
      (s, t.or t')) (s, none)

/-- A write to a region with PUB = 1 (R77): into the launch's private line. Beyond the quota the launch's oldest line, or with none of its own
that of the launch that holds most, is published first (a forced publication), and the write waits for it. -/
def pubWrite (s : State) (i : Issuer) (va : Dword) (pa key : Nat) (d : List Byte) : State × Done Unit :=
  match s.launchOf i.launch with
  | none => (s, .ok ())
  | some l =>
    let isNew := !(l.pubLines.any fun x => x.line = pa / 64)
    let line : PubLine := { line := pa / 64, key := key, va := va, block := i.block, warp := i.warp }
    let put := fun (s : State) =>
      s.modLaunch i.launch fun l => { l with
        pub := Overlay.put l.pub pa d, pubLines := if isNew then l.pubLines ++ [line] else l.pubLines.map fun x => if x.line = pa / 64 then line else x }
    let total := (s.launches.map fun x => x.pubLines.length).foldl (· + ·) 0
    let owner := if l.pubLines.isEmpty then s.launches.foldl (fun b x => if b.pubLines.length < x.pubLines.length then x else b) l else l
    if isNew && total ≥ pubQuota s.mgmt then
      match owner.pubLines with
      | [] => (put s, .ok ())
      | x :: _ =>
        match publishLine s owner x with
        | (s, .wait) => (s, .wait)
        | (s, .done) => (put s, .ok ())
        | (s, .failed) => (put (pubFailed s owner.id x), .ok ())
    else (put s, .ok ())

/-! ## Stores -/

/-- The request of a write to a home (R83). -/
def writeReq (s : State) (i : Issuer) (a : Acc) (p : Part) (node : Option Nat) (pa : Nat) (op : HomeOp) (tag : Option (BitVec 16))
    (slow unc : Bool := false) : HeldReq :=
  { req := { agent := i.agent, holder := i.holder, pa := pa, key := a.key, op := op, ret := none,
             warp := if i.isWarp then some (i.core, i.slot) else none },
    node := node, tag := tag, lanes := i.lanes, launch := i.launch, block := i.block, warpNo := i.warp,
    va := if a.priv then BitVec.ofNat 64 p.va else a.va, stamp := (s.coreAt i.core).relEpoch, slow := slow, unc := unc, page := p.page }

/-- The store of one part of an access (R20, R57, R76, R77, R83). -/
def storePart (s : State) (i : Issuer) (a : Acc) (p : Part) (d : List Byte) (tag : Option (BitVec 16)) : State × Done Unit :=
  match p.place with
  | .mem pa unc =>
    if a.pub then pubWrite s i a.va pa a.key d
    else if unc && uncHeld s i then (s, .wait)
    else
      let s := if unc then s else i.modCore s fun k => l1Store k ⟨none, pa / 64⟩ (pa % 64) d
      (submit s (writeReq s i a p none pa (.store d) tag unc unc), .ok ())
  | .reg pa => if uncHeld s i then (s, .wait) else ({ s with inputs := s.inputs ++ [.registerWrite pa (BitVec.ofNat 64 (leNat d))] }, .ok ())
  | .remote nd addr =>
    match remoteFault s false nd addr p.n a.va with
    | some t => (s, .late t)
    | none =>
      if a.pub then pubWrite s i a.va (pubAddr (some nd) addr) a.key d
      else
        let s := i.modCore s fun k => l1Store k ⟨some nd, addr / 64⟩ (addr % 64) d
        (submit s (writeReq s i a p (some nd) addr (.store d) tag), .ok ())
  | .host conn addr =>
    if uncHeld s i then (s, .wait)
    else
      match remoteFault s true conn addr p.n a.va with
      | some t => (s, .late t)
      | none => ({ s with fabric := { s.fabric with host := s.fabric.host.put (hostAddr conn addr) d } }, .ok ())
  | .loc core b off => localWrite s core b off d
  | .ctx off => ({ s with cur := ctxPut s.core.id s.cur off d }, .ok ())

/-- The store of every part of an access, each under its own key id (R30). -/
def storeAcc (s : State) (i : Issuer) (a : Acc) (d : List Byte) (tag : Option (BitVec 16)) : State × Done Unit :=
  if engineHolds s i a.va.toNat d.length then (s, .wait) else
  a.parts.foldl (fun (s, r) p =>
    match r with
    | .ok _ => storePart s i { a with key := p.key } p ((d.drop p.off).take p.n) tag
    | r => (s, r)) (s, .ok ())

/-! ## Read-modify-writes and commutative updates -/

/-- A read-modify-write of a launch's private bytes (R77, R108). -/
def rmwPub (s : State) (i : Issuer) (a : Acc) (p : Part) (at_ : Nat) (op : HomeOp) : State × Done Dword :=
  match loadPart s i a p true 3 with
  | (s, .ok x) =>
    let (v, w) := opResult op (leNat x.bytes)
    match w with
    | none => (s, .ok (BitVec.ofNat 64 v))
    | some d =>
      match pubWrite s i a.va at_ a.key d with
      | (s, .ok _) => (s, .ok (BitVec.ofNat 64 v))
      | (s, .wait) => (s, .wait)
      | (s, .late t) => (s, .late t)
  | (s, .wait) => (s, .wait)
  | (s, .late t) => (s, .late t)

/-- A read-modify-write reaches its home. With `hold` it is a reduction without a return, which may wait there while the warp goes on (R273); a
failed check that a reduction meets at once is its late fault, one that a commutative partial meets is a failed merge (R80). Otherwise it
waits there in arrival order with its lane, whose old value the replay takes (R273, R388). -/
def rmwHome (s : State) (i : Issuer) (h : HeldReq) (hold : Bool) : State × Done Dword :=
  if hold then
    match request s h with
    | (s, .wait) => ({ s with home := { s.home with held := s.home.held ++ [h] } }, .ok 0)
    | (s, .ok v) => (reply s h (.ok v), .ok 0)
    | (s, .fail e) => if h.slow then (s, .late (failTrap e h.va)) else (reply s h (.error e), .ok 0)
  else
    let gen := match s.warpAt i.core i.slot with | some w => w.genReg | none => 0
    let q := { h with lane := if i.isWarp then some ((lowLane i.lanes).val, gen) else none }
    if i.isWarp && (s.home.held.any fun x => x.lane.isSome && x.lane = q.lane && x.req.warp = q.req.warp) then (s, .wait)
    else
      match request s h with
      | (s, .ok v) => (s, .ok v)
      | (s, .wait) => (if i.isWarp then { s with home := { s.home with held := s.home.held ++ [q] } } else s, .wait)
      | (s, .fail e) => (s, .late (failTrap e h.va))

/-- A read-modify-write of one part: the old value (R100, R266 to R268). `hold` marks a reduction without a return (R273). -/
def rmwPart (s : State) (i : Issuer) (a : Acc) (p : Part) (op : HomeOp) (tag : Option (BitVec 16)) (hold : Bool) : State × Done Dword :=
  if engineHolds s i a.va.toNat 8 then (s, .wait) else
  match p.place with
  | .mem pa unc =>
    let s := i.modCore s fun k => l1Drop k ⟨none, pa / 64⟩
    if a.pub then rmwPub s i a p pa op
    else if unc && uncHeld s i then (s, .wait)
    else rmwHome s i (writeReq s i a p none pa op tag (hold && (unc || a.cfmt = 0)) unc) hold
  | .remote nd addr =>
    match remoteFault s false nd addr p.n a.va with
    | some t => (s, .late t)
    | none =>
      let s := i.modCore s fun k => l1Drop k ⟨some nd, addr / 64⟩
      if a.pub then rmwPub s i a p (pubAddr (some nd) addr) op
      else rmwHome s i (writeReq s i a p (some nd) addr op tag (hold && a.cfmt = 0)) hold
  | .loc core b off =>
    match localRead s core b off (opBytes op) with
    | (s, .ok old) =>
      let (v, w) := opResult op (leNat old)
      match w with
      | none => (s, .ok (BitVec.ofNat 64 v))
      | some d =>
        match localWrite s core b off d with
        | (s, .ok _) => (s, .ok (BitVec.ofNat 64 v))
        | (s, .wait) => (s, .wait)
        | (s, .late t) => (s, .late t)
    | (s, .wait) => (s, .wait)
    | (s, .late t) => (s, .late t)
  | _ => (s, .ok 0)

/-- The oldest update-only lines leave until the frames fit the L1 and its sets (R46, R61, R63); the line just updated stays. -/
def updLimit (s : State) (core line : Nat) : Nat → State
  | 0 => s
  | fuel + 1 =>
    let k := s.coreAt core
    let frames := (k.upd.foldl (fun n u => n + updFrames u.cfmt) 0) > 512
    let full := (List.range 20).any fun j => (updIn k ((line + j) % 256)).length > 8
    let hits := fun (u : UpdLine) => frames || (List.range 20).any fun j => (updIn k ((line + j) % 256)).length > 8 && (updIn k ((line + j) % 256)).contains u
    if !frames && !full then s
    else match k.upd.find? fun u => u.line ≠ line && hits u with
      | some u => updLimit (mergeUpd s core u.line) core line fuel
      | none => s

/-- The sets that an update-only line's frames lie in take no more than their ways: readable lines leave (R46, R61). -/
def updFit (k : Core) (u : UpdLine) : Core := (List.range (updFrames u.cfmt)).foldl (fun k j => l1Fit k ((u.line + j) % 256) 9) k

/-- The elements of an operand: one, or the two halves of a BF16 pair (R61). -/
def operandElems (cfmt : BitVec 3) (off : Nat) (x : Nat) : List (Nat × Nat) :=
  if cfmt = 6 then [(off / 2, x % 65536), (off / 2 + 1, x / 65536 % 65536)] else [(off / elemBytes cfmt, x)]

/-- Updates elements of a list, new ones at the identity (R61), in ascending element order. -/
def updateElems (cfmt : BitVec 3) (es : List Elem) (l : List (Nat × Nat)) : List Elem :=
  l.foldl (fun es (i, x) =>
    let e := ((es.find? fun e => e.idx = i).getD (Elem.identity cfmt i)).update cfmt x
    sortBy (fun e => e.idx) ((es.filter fun y => y.idx ≠ i) ++ [e])) es

/-- A commutative update is combined into the core's update-only line (R61 to R64). It waits while remote copies of the line
are being recalled (R69), and for room in the directory (R71). -/
def redUpdate (s : State) (i : Issuer) (a : Acc) (pa : Nat) (x : Dword) (tag : Option (BitVec 16)) : State × Done Dword :=
  let line := pa / 64
  let k := s.coreAt i.core
  let s := match k.upd.find? fun u => u.line = line with
    | some u => if u.cfmt ≠ a.cfmt ∨ u.key ≠ a.key ∨ u.elems.any (fun e => e.count + 1 ≥ 2 ^ 32) then mergeUpd s i.core line else s
    | none => s
  let old := (s.coreAt i.core).upd.find? fun u => u.line = line
  let h := writeReq s i a (a.parts.headD { place := .mem pa false, off := 0, n := 4 }) none pa (.rmw 0 0) none
  if engineHolds s i a.va.toNat 8 then (s, .wait)
  else if old.isNone && mustWait s h s.home.held then (startRecall s line true, .wait)
  else
    match (if old.isNone then dirRoom s line else (s, true)) with
    | (s, false) => (s, .wait)
    | (s, true) =>
      let s := if old.isNone then recallStash s line true else s
      let u : UpdLine := old.getD { line := line, key := a.key, cfmt := a.cfmt, elems := [], launch := i.launch }
      let u := { u with
        elems := updateElems a.cfmt u.elems (operandElems a.cfmt (pa % 64) (x.toNat % 2 ^ (8 * Nat.max 4 (elemBytes a.cfmt))))
        launch := i.launch, block := i.block, warp := i.warp, va := a.va.toNat, page := a.page
        others := (if u.others.contains u.launch then u.others else u.others ++ [u.launch]).filter fun w => w ≠ i.launch
        tag := tag.orElse fun _ => u.tag }
      let s := s.modCore i.core fun k => updFit { l1Drop k ⟨none, line⟩ with upd := putBy (fun y => y.line = line) u k.upd } u
      let s := updLimit s i.core line 512
      (if s.sched.early then mergeUpd s i.core line else s, .ok 0)

end Sys2Proof.Machine
end

