-- ==== Sys2Proof/Machine/Trace.lean ====
section
/-! DEFINITION. Trace packets (R431) and %clock (R9). -/

namespace Sys2Proof.Machine

/-- %clock: one tick of 1 ns is four core clocks of 4.0 GHz (R9). -/
def State.ticks (s : State) : Nat := s.clock / 4

/-- Bytes of a segment (R425, R431). -/
def traceSeg (m : Mgmt) : Nat := 2 ^ (bits m.trctl 4 1 + 8)

/-- Appends bytes to a core's segment, wrapping (R431). -/
def traceBytes (s : State) (core : Nat) (d : List Byte) : State :=
  let seg := traceSeg s.mgmt
  let base := s.mgmt.trbase.toNat + core * seg
  let at_ := (s.coreAt core).trwr % seg
  let first := d.take (seg - at_)
  let s := physPost (physPost s (base + at_) first) base (d.drop first.length)
  s.modCore core fun k => { k with trwr := k.trwr + d.length, trLast := some (k.trwr) }

/-- The trace covers this launch (R425). -/
def traced (s : State) (launch : Word) : Bool := s.mgmt.trctl.getLsbD 0 && bits s.mgmt.trctl 36 5 = launch.toNat

/-- The SYNC packet of a warp (R431). -/
def syncPacket (w : Warp) : List Byte :=
  [0, BitVec.ofNat 8 w.slot] ++ leBytes 4 w.launch.toNat ++ leBytes 4 w.block.toNat ++ leBytes 2 w.idx ++ leBytes 8 w.pc.toNat
    ++ leBytes 4 w.executing.toNat

/-- A packet of a warp is written when its launch is traced, behind a SYNC at the first packet of each 4 KiB (R431). -/
def emit (s : State) (core : Nat) (w : Warp) (ty : Nat) (payload : List Byte) : State :=
  if !traced s w.launch then s
  else
    let k := s.coreAt core
    let fresh := match k.trLast with | some a => a / 4096 ≠ k.trwr / 4096 | none => true
    let s := if fresh && ty ≠ 0 then traceBytes s core (syncPacket w) else s
    traceBytes s core ([BitVec.ofNat 8 ty, BitVec.ofNat 8 w.slot] ++ payload)

/-- The SYNC of a warp that is created or resumed (R431). -/
def emitSync (s : State) (core : Nat) (w : Warp) : State := if traced s w.launch then traceBytes s core (syncPacket w) else s

/-- A packet of the issuing warp. -/
def emitCur (s : State) (ty : Nat) (payload : List Byte) : State := emit s s.core.id s.cur ty payload

end Sys2Proof.Machine
end

