-- ==== Sys2Proof/Machine/Blocks.lean ====
section
/-! DEFINITION. What waits in a block and how it wakes (R126, R129, R282 to R284), and how warps and blocks end (R132, R133,
R147, R151 to R153, R428). -/

namespace Sys2Proof.Machine

/-! ## Barriers -/

/-- Every live lane of the warp is parked at a barrier, and there is one (R283). -/
def Warp.allAt (w : Warp) (b : BarId) : Bool :=
  w.live ≠ 0 && (lanesOf w.live).all fun l => w.barpark.getLsbD l.val && w.parkAt[l] = b
/-- Some lane of the warp is parked at a barrier. -/
def Warp.someAt (w : Warp) (b : BarId) : Bool := (lanesOf w.barpark).any fun l => w.parkAt[l] = b
/-- The lanes parked at a barrier are released (R282). -/
def Warp.release (b : BarId) (w : Warp) : Warp :=
  { w with barpark := w.barpark &&& ~~~(maskOf fun l => w.barpark.getLsbD l.val && w.parkAt[l] = b) }

/-- Releases a barrier in every warp of a block. -/
def releaseBlock (s : State) (c bs : Nat) (b : BarId) : State := s.mapWarps c fun w => if w.bslot = bs then w.release b else w

/-- BAR completes when every live lane of the block has arrived (R282). -/
def checkBar (s : State) (c bs : Nat) : State :=
  let ws := (s.blockWarps c bs).filter fun w => w.live ≠ 0
  if ws ≠ [] && ws.all fun w => w.allAt .bar then releaseBlock s c bs .bar else s

/-- A block-scope barrier completes when its count of warps has arrived (R283). -/
def checkNbar (s : State) (c bs : Nat) (id : BitVec 4) : State :=
  match s.blockAt c bs with
  | none => s
  | some b =>
    let p := b.nbar.getD id.toNat {}
    let n := ((s.blockWarps c bs).filter fun w => w.allAt (.block id)).length
    if p.isOpen && 0 < n && n + p.dropped ≥ p.count then
      s.modBlock c bs (fun b => { b with nbar := b.nbar.setIfInBounds id.toNat {} }) |> fun s => releaseBlock s c bs (.block id)
    else s

/-- A core-scope barrier of a launch completes when its count of blocks has arrived (R283). -/
def checkCoreBar (s : State) (c : Nat) (launch : Word) (id : BitVec 4) : State :=
  let k := s.coreAt c
  match k.nbar.find? fun x => x.1 = launch && x.2.1 = id with
  | none => s
  | some (_, _, p) =>
    let n := (k.blocks.filter fun b => b.launch = launch && (
      let ws := (s.blockWarps c b.bslot).filter fun w => w.live ≠ 0
      ws ≠ [] && ws.all fun w => w.allAt (.core id))).length
    if p.isOpen && 0 < n && n + p.dropped ≥ p.count then
      let s := s.modCore c fun k => { k with nbar := k.nbar.filter fun x => !(x.1 = launch && x.2.1 = id) }
      s.mapWarps c fun w => if w.launch = launch then w.release (.core id) else w
    else s

/-- Every barrier of a block that an arrival or an exit may complete. -/
def checkBarriers (s : State) (c bs : Nat) (launch : Word) : State :=
  let s := checkBar s c bs
  let s := (List.range 16).foldl (fun s i => checkNbar s c bs (BitVec.ofNat 4 i)) s
  (List.range 16).foldl (fun s i => checkCoreBar s c launch (BitVec.ofNat 4 i)) s

/-- The number of a block's cohort (R137). -/
def cohortOf (l : Launch) (block : Word) : Nat := block.toNat / l.pkt.coh

/-- The resident blocks of a cohort, with their cores. -/
def cohortBlocks (s : State) (l : Launch) (n : Nat) : List (Nat × Block) :=
  s.allCores.flatMap fun k => (k.blocks.filter fun b => b.launch = l.id && cohortOf l b.index = n).map fun b => (k.id, b)

/-- A waiting warp is woken; what it waited for has come (R129). -/
def Warp.wake (w : Warp) : Warp := { w with wait := .retry, woken := true }

/-- CBAR completes when every warp that has not exited has arrived; in a broken cohort every waiting warp issues its CBAR again, which then
traps (R153, R284). -/
def checkCbar (s : State) (l : Launch) (n : Nat) : State :=
  let bs := cohortBlocks s l n
  let ws := bs.flatMap fun (c, b) => (s.blockWarps c b.bslot).filter fun w => w.live ≠ 0
  let isCbar := fun (w : Warp) => match w.wait with | .cbar => true | _ => false
  if l.broken.contains n then
    bs.foldl (fun s (c, b) => s.mapWarps c fun w => if w.bslot = b.bslot && isCbar w then { w with wait := .retry } else w) s
  else if ws ≠ [] && ws.all isCbar then
    bs.foldl (fun s (c, b) => s.mapWarps c fun w => if w.bslot = b.bslot && isCbar w then w.wake else w) s
  else s

/-! ## Context images in memory (R31, R47 to R49) -/

/-- The bytes of a warp's vector registers and of its accumulators as its context image holds them (R31). -/
def Warp.vBytes (w : Warp) : List Byte := (w.v.toList.take (8 * w.vgran)).flatMap fun r => r.toList.flatMap fun x => leBytes 4 x.toNat
def Warp.accBytes (w : Warp) : List Byte := w.acc.flatMap fun a => a.toList.flatMap fun x => leBytes 4 x.toNat

/-- The warp with vector registers and accumulators from the bytes of its image. -/
def Warp.fromImage (w : Warp) (v a : List Byte) : Warp :=
  let words := fun (d : List Byte) => (chunks 4 (d.length / 4) d).map fun x => BitVec.ofNat 32 (leNat x)
  let vs := words v
  let as := words a
  { w with
    v := Vector.ofFn fun k => Vector.ofFn fun l => (vs.drop (32 * k.val)).getD l.val 0
    acc := (List.range w.nacc).map fun k => (let x := (as.drop (2048 * k)).toArray; Vector.ofFn fun n => x.getD n.val 0) }

/-- A warp's lines leave for its context image, under key id 0 (R48, R49). -/
def imageOut (s : State) (c slot : Nat) : State :=
  match s.warpAt c slot with
  | none => s
  | some w => physPost (physPost s (w.ctxBase.toNat + 0x800) w.vBytes) (w.ctxBase.toNat + 0x4000) w.accBytes

/-- A warp as its context image in memory holds it, and the subcode of trap 0x41 that reading it gives (R80); none while a home makes the read
wait. -/
def imageRead (s : State) (w : Warp) : State × Option (Warp × Option Nat) :=
  let (vb, ab) := (w.ctxBase.toNat + 0x800, w.ctxBase.toNat + 0x4000)
  match (physWaits s vb (1024 * w.vgran) false).orElse fun _ => physWaits s ab (8192 * w.nacc) false with
  | some s => (s, none)
  | none =>
    match physRead s vb (1024 * w.vgran) 0, physRead s ab (8192 * w.nacc) 0 with
    | (s, .ok v), (_, .ok a) => (s, some (w.fromImage v a, none))
    | (s, .error e), _ | _, (s, .error e) =>
      (s, some (w.fromImage (s.home.mem.bytes vb (1024 * w.vgran)) (s.home.mem.bytes ab (8192 * w.nacc)), some e))

/-- A warp with the values of its registers wherever they stand. -/
def wholeWarp (s : State) (w : Warp) : Warp :=
  if w.away then (match (imageRead s w).2 with | some x => x.1 | none => w) else w

/-! ## Handles and batches -/

def setHandle (s : State) (c bs h : Nat) (f : Handle → Handle) : State :=
  s.modBlock c bs fun b => { b with handles := b.handles.setIfInBounds h (f (b.handles.getD h {})) }

/-- A handle has entered FULL (R129): the HWAIT.FULL waiters wake, and each waiting HSET.DRAIN is performed. -/
def handleFull (s : State) (c bs h : Nat) : State :=
  let drains := (s.blockWarps c bs).any fun w => w.wait = .handleDrain h
  let s := setHandle s c bs h fun x => { x with waitF := 0, state := if drains then 3 else x.state }
  s.mapWarps c fun w => if w.bslot = bs && (w.wait = .handleFull h || w.wait = .handleDrain h) then w.wake else w

/-- A handle has entered FREE (R129): the HWAIT.FREE waiters wake. A waiting copy is accepted next (COPY_ACCEPTED). -/
def handleFree (s : State) (c bs h : Nat) : State :=
  let waiters := fun (w : Warp) => w.bslot = bs && w.wait = .handleFree h
  let s := setHandle s c bs h fun x => { x with
    waitE := x.waitE &&& ~~~(maskOf fun l => (s.warpsOf c).any fun w => waiters w && w.idx = l.val) }
  s.mapWarps c fun w => if waiters w then w.wake else w

/-- Batches retire in closing order (R126); warps that wait for a batch wake. -/
def retireFrom (s : State) (c bs : Nat) : Nat → State
  | 0 => s
  | fuel + 1 =>
    match s.blockAt c bs with
    | none => s
    | some b =>
      if b.retired < b.openNo && !((s.coreAt c).copies.any fun x => x.bslot = some bs && x.batch = b.retired) then
        retireFrom (s.modBlock c bs fun b => { b with retired := b.retired + 1 }) c bs fuel
      else s
def retireBatches (s : State) (c bs : Nat) : State := retireFrom s c bs 17

/-- A copy leaves its channel (R116), and the places it holds at homes with it. -/
def dropCopy (s : State) (c : Nat) (x : Copy) : State :=
  dropPlaces (s.modCore c fun k => { k with copies := k.copies.filter fun y => y.no ≠ x.no }) fun r => r.agent = .loc c 1 (x.chan.setWidth 3)

/-- The record of a copy's failure or fault (R131, R132, R390). -/
def copyRecord (c : Nat) (x : Copy) (t : Trap) (kind : Nat) : Rec :=
  { code := t.code, sub := t.sub, kind := kind, det := x.bslot.isNone, level := t.level.toNat, addr := t.addr, launch := x.launch,
    block := x.block, warp := x.warp, core := c, unit := 1, chan := x.chan.toNat,
    handle := if x.bslot.isNone then 0 else match x.handle with | some h => h.toNat | none => 0, dwa := x.deliv }

/-- A copy fails (R132): it releases its lines, is reported, its handle goes to FULL with ERR, its batch may retire. -/
def failCopy (s : State) (c : Nat) (x : Copy) (t : Trap) : State :=
  let s := serveHeld (launchRecord (dropCopy s c x) (copyRecord c x t 2))
  match x.bslot with
  | none => s
  | some bs =>
    let s := match x.handle with
      | some h => handleFull (setHandle s c bs h.toNat fun y => { y with state := 2, err := some t, deliv := x.deliv }) c bs h.toNat
      | none => s
    let s := s.modBlock c bs fun b => { b with batchFails := b.batchFails ++ [(x.batch, t)] }
    retireBatches s c bs

/-! ## Records of an ended block -/

/-- The sum of two saturating counters (R428). -/
def satAdd (a b : Word) : Word := BitVec.ofNat 32 (Nat.min (a.toNat + b.toNat) 0xFFFFFFFF)

/-- Adds a warp's stall counters into its block's sums (R428). -/
def sumStalls (s : State) (c : Nat) (w : Warp) : State :=
  s.modBlock c w.bslot fun b => { b with stalls := Vector.ofFn fun i => satAdd b.stalls[i] w.stalls[i] }

/-- The block record of an ended block, when records are on (R428). -/
def blockRecord (s : State) (c : Nat) (b : Block) (killed : Bool) : State :=
  if !s.mgmt.dbgctl.getLsbD 0 || s.mgmt.recq = 0 then s
  else
    let gen := match s.launchOf b.launch with | some l => l.gen.toNat | none => 0
    let d := leBytes 4 b.launch.toNat ++ leBytes 4 b.index.toNat ++ leBytes 4 gen
      ++ leBytes 4 (coreField c + bit killed * 65536) ++ leBytes 8 b.start.toNat ++ leBytes 8 s.ticks ++ List.replicate 32 0
      ++ b.stalls.toList.flatMap fun x => leBytes 4 x.toNat
    { s with records := s.records ++ [{ trapq := s.mgmt.recq.toNat, bytes := d, core := c, block := true }] }

/-! ## The end of a warp and of a block -/

/-- The tags that a slot's next warp starts from (R147). -/
def saveGens (s : State) (c : Nat) (w : Warp) : State :=
  s.modCore c fun k => { k with gens := (k.gens.filter fun x => x.1 ≠ w.slot) ++ [(w.slot, w.genReg + 1, w.genAcc + 1)] }

/-- A lane set that a warp held is free (R168). -/
def leaveActive (s : State) (c slot : Nat) : State :=
  s.modCore c fun k => { k with active := k.active.map fun x => match x with | some (n, t) => if n = slot then none else some (n, t) | none => none }

/-- A warp's slot, granules and accumulators are freed, its tags advance (R147, R151). -/
def freeWarp (s : State) (c : Nat) (w : Warp) : State :=
  leaveActive ((saveGens (sumStalls s c w) c w).removeWarp c w.slot) c w.slot

/-- A stash mapping is unmapped, its DIRTY lines written back (R55, R279). -/
def unmapStash (s : State) (c : Nat) (st : Stash) : State :=
  let k := s.coreAt c
  let s := st.lines.foldl (fun s l => if l.state = 3 then stashWriteBack s k st l else s) s
  s.modCore c fun k => { k with stash := k.stash.filter fun x => x.entry ≠ st.entry }

/-- The lines a block holds are unlocked, their values kept, and counted (R149, R152). -/
def unlockAll (s : State) (c : Nat) (key : LockKey) : State :=
  let here := (s.home.locks.filter fun x => x.2 = key).length
  let away := (s.fabric.nodes.map fun n => (n.locks.filter fun x => x.2 = key).length).foldl (· + ·) 0
  let s := { s with
    home := { s.home with locks := s.home.locks.filter fun x => x.2 ≠ key }
    fabric := { s.fabric with nodes := s.fabric.nodes.map fun (n : Node) => { n with locks := n.locks.filter fun x => x.2 ≠ key } } }
  let s := s.modCore c fun k => { k with abandlk := k.abandlk + BitVec.ofNat 32 (here + away) }
  serveHeld s

/-- The destination of a copy lies in the local store of a block (R133). -/
def copyInto (s : State) (c : Nat) (x : Copy) (core bslot : Nat) : Bool :=
  let o := x.dst.toNat - apertureBase
  if !inAperture x.dst then false
  else if o < 0x80000 then c = core && x.bslot = some bslot
  else if 0x100000000 ≤ o && o < 0x104000000 then
    match s.launchOf x.launch with
    | some l =>
      let tgt := coreNo (clusterOf c) ((o - 0x100000000) / 0x80000)
      tgt = core && (match s.blockAt core bslot with
        | some b => b.launch = x.launch && cohortOf l b.index = cohortOf l x.block
        | none => false)
    | none => false
  else false

/-- What becomes of the copies when a block ends (R133): those into its local store are cancelled, another resident issuer's as a
failure, and count as returns that its core drops (R147); its others are detached. -/
def endCopies (s : State) (c bs : Nat) : State :=
  let (local_, lsBytes) := match s.blockAt c bs with | some b => (b.local_, b.lsBytes) | none => ([], 0)
  let all := s.allCores.flatMap fun k => k.copies.map fun x => (k.id, x)
  all.foldl (fun s (k, x) =>
    if copyInto s k x c bs then
      let s := if x.deliv < x.len then s.modCore c fun y => { y with dropret := y.dropret + 1 } else s
      if x.bslot.isNone || (k = c && x.bslot = some bs) then serveHeld (dropCopy s k x) else failCopy s k x (trapAt 100 0x1A 0 x.dst)
    else if k = c && x.bslot = some bs then
      s.modCore k fun y => { y with copies := y.copies.map fun z => if z.no = x.no then { z with bslot := none, snap := local_, snapBytes := lsBytes } else z }
    else s) s

/-- A warp's matrix jobs at a kill (R152): accepted accumulator stores go on under the launch with their accumulator as it is;
the others stop, and their results for the freed accumulators are dropped and counted (R147). -/
def endJobs (s : State) (c : Nat) (w : Warp) : State :=
  let keep := fun (j : Job) =>
    if j.slot = w.slot ∧ j.snap.isNone then
      match j.kind with
      | .store a _ _ _ _ _ _ => some { j with snap := (wholeWarp s w).acc[a]? }
      | _ => none
    else some j
  s.modCore c fun k => { k with
    jobs := k.jobs.filterMap keep, dropret := k.dropret + BitVec.ofNat 32 (k.jobs.filter fun j => (keep j).isNone).length }

/-- A block's subscriptions to operand streams end (R311); blocks that every other subscriber has consumed are retired (R312). -/
def Stream.leave (c bs : Nat) (x : Stream) : Stream :=
  let gone := (x.subs.filter fun y => y.core = c && y.bslot = bs).length
  { x with count := x.count - gone, subs := x.subs.filter fun y => !(y.core = c && y.bslot = bs) }
def Stream.retire (x : Stream) : Stream := { x with fetched := x.fetched.filter fun b => x.subs.any fun y => y.used ≤ b.n }
def endStreams (s : State) (c bs : Nat) (launch : Word) : State :=
  s.modLaunch launch fun l => { l with
    streams := (l.streams.map fun x => (x.leave c bs).retire).filter fun x => x.count ≠ 0 }

/-- The core-scope barriers count an ended block as arrived and dropped (R152). -/
def dropFromBarriers (s : State) (c : Nat) (launch : Word) : State :=
  s.modCore c fun k => { k with nbar := k.nbar.map fun (l, id, p) => if l = launch && p.isOpen then (l, id, { p with dropped := p.dropped + 1 }) else (l, id, p) }

/-- A block ends (R152), in the order of its table; then its slot is freed and a placement pass is due (R164). -/
def endBlock (s : State) (c : Nat) (b : Block) (killed : Bool) : State :=
  let s := ((s.coreAt c).stash.filter fun st => st.bslot = b.bslot).foldl (fun s st => unmapStash s c st) s
  let s := endCopies s c b.bslot
  let s := if killed then (s.blockWarps c b.bslot).foldl (fun s w => endJobs s c w) s else s
  let s := unlockAll s c ⟨c, b.bslot, b.genLS⟩
  let s := dropFromBarriers s c b.launch
  let s := endStreams s c b.bslot b.launch
  let s := (s.blockWarps c b.bslot).foldl (fun s w => freeWarp s c w) s
  let s := match s.blockAt c b.bslot with | some b => blockRecord s c b killed | none => s
  let s := s.modCore c fun k => { k with
    blocks := k.blocks.filter fun x => x.bslot ≠ b.bslot
    genLSs := assocSet b.bslot (b.genLS + 1) k.genLSs }
  let s := s.modLaunch b.launch fun l => { l with
    finished := l.finished + 1
    broken := if killed && !l.broken.contains (cohortOf l b.index) then l.broken ++ [cohortOf l b.index] else l.broken }
  let s := dropBlockPlaces s c b
  let s := (List.range 16).foldl (fun s i => checkCoreBar s c b.launch (BitVec.ofNat 4 i)) s
  let s := match s.launchOf b.launch with | some l => checkCbar s l (cohortOf l b.index) | none => s
  { s with placeDue := true }

/-- A kill (R151, R152): the end of the block, and last a KIND 1 record. -/
def killBlock (s : State) (c : Nat) (b : Block) (r : Rec) : State :=
  launchRecord (endBlock s c b true) { r with kind := 1, launch := b.launch, block := b.index, core := c }

/-- The record of a kill that no trap caused (R390). -/
def plainKill (sub : Nat) : Rec := { code := 0, sub := BitVec.ofNat 8 sub, kind := 1, warp := 0xFFFF }

/-- Every resident block of a launch is killed and no further cohort is placed (R155). -/
def killLaunch (s : State) (id : Word) (sub : Nat) : State :=
  let s := s.modLaunch id fun l => { l with killed := true }
  let bs := s.allCores.flatMap fun k => (k.blocks.filter fun b => b.launch = id).map fun b => (k.id, b)
  bs.foldl (fun s (c, b) => killBlock s c b (plainKill sub)) s

/-! ## Exit of lanes -/

/-- What exiting lanes may complete: barriers that count live lanes (R282, R283); a warp with none left counts as dropped. -/
def afterExit (s : State) (c : Nat) (w : Warp) : State :=
  let s := if w.live = 0 then
      s.modBlock c w.bslot fun b => { b with nbar := b.nbar.map fun p => if p.isOpen then { p with dropped := p.dropped + 1 } else p }
    else s
  let s := checkBarriers s c w.bslot w.launch
  match s.launchOf w.launch with
  | some l => checkCbar s l (cohortOf l w.block)
  | none => s

/-- The warp's results that have not landed (R151, R169): returns on their way, accumulator loads and stores, and rays that run or stand suspended on a
fault. -/
def outstanding (s : State) (c : Nat) (w : Warp) : Bool :=
  ((s.coreAt c).returns.any fun r => r.dest.core = c && r.dest.slot = w.slot && r.dest.gen = w.genReg)
    || (s.home.held.any fun h => match h.req.ret with | some d => d.core = c && d.slot = w.slot && d.gen = w.genReg | none => false)
    || ((s.coreAt c).jobs.any fun j => j.slot = w.slot && j.snap.isNone
          && match j.kind with | .load .. | .store .. => true | _ => false)
    || (w.threads.any fun t => match t.ray with | some r => r.status ≠ .candidate | none => false)
/-- The warp's matrix jobs. -/
def jobsOf (s : State) (c : Nat) (w : Warp) : List Job := (s.coreAt c).jobs.filter fun j => j.slot = w.slot && j.snap.isNone

/-- The exit of a warp without live lanes once its returns and jobs have landed (R151, R152). -/
def warpEnd (s : State) (c : Nat) (w : Warp) : State :=
  if w.live ≠ 0 || outstanding s c w || jobsOf s c w ≠ [] then s
  else
    let s := { freeWarp s c w with placeDue := true }
    match s.blockAt c w.bslot with
    | some b => if s.blockWarps c w.bslot = [] then endBlock s c b false else s
    | none => s

end Sys2Proof.Machine
end

