-- ==== Sys2Proof/Machine/Ops.lean ====
section
/-! DEFINITION. The shared operations of instructions: taking a trap (R378, R379, R386 to R393) and returning from a handler
(R393), results that return late (R147, R169), releases and acquires (R90, R91, R97, R98), and how a group is performed,
waits, traps and ends (R140, R169, R188). -/

namespace Sys2Proof.Machine

/-! ## Taking a trap -/

/-- How a trap is dealt with (R386). -/
inductive TrapClass where
  | handler | system | service
  deriving DecidableEq, Repr

/-- The class of a trap (R386). -/
def trapClass (code sub : BitVec 8) : TrapClass :=
  match code.toNat with
  | 0x10 | 0x11 | 0x12 | 0x14 | 0x15 => .service
  | 0x13 => if sub = 0x40 ∨ sub = 0x41 then .system else .service
  | 0x03 | 0x30 | 0x38 | 0x3F | 0x40 | 0x41 => .system
  | _ => .handler

/-- A Lichen slot read as a record (R372). -/
structure Slot where
  mtch : Nat
  mask : Nat
  valid : Bool
  fault : Bool
  qu : Bool
  qs : Bool
  qm : Bool
  prio : Nat
  act : Nat
  psel : Bool
  cslot : Nat
  aword : Nat
  deriving DecidableEq, Repr
def slotOf (x : BitVec 128) : Slot :=
  { mtch := bits x 31 0, mask := bits x 63 32, valid := x.getLsbD 64, fault := x.getLsbD 65, qu := x.getLsbD 66, qs := x.getLsbD 67,
    qm := x.getLsbD 68, prio := bits x 71 69, act := bits x 74 72, psel := x.getLsbD 75, cslot := bits x 85 80, aword := bits x 127 96 }

/-- The slot matches a key in a context (R372). -/
def Slot.hits (x : Slot) (fault sup micro : Bool) (key : Nat) : Bool :=
  x.valid && x.fault = fault && Nat.land (Nat.xor key x.mtch) x.mask = 0 && (if sup then x.qs else x.qu) && (!micro || x.qm)

/-- The winner among the slots: lowest PRIO, then lowest index (R373). -/
def winner (p : PatchSet) (fault sup micro : Bool) (key : Nat) : Option Slot :=
  (sortBy (fun x => x.prio) ((p.slots.toList.map slotOf).filter fun x => x.hits fault sup micro key)).head?

/-- The fault key of a trap at a group (R378). -/
def faultKey (t : Trap) (base : Option Word) : Nat :=
  t.code.toNat + t.sub.toNat * 256 + (match base with | some w => bits w 30 23 * 65536 | none => 2 ^ 24)

/-- What the fault path makes of a trap (R379): it goes on, remapped or not, or the group is emulated instead. -/
inductive FaultPath where
  | goes (t : Trap)
  | redirect (cslot : Nat) (psel : Bool)
  deriving DecidableEq, Repr
def faultPath (s : State) (sup emulated : Bool) (base : Option Word) (t : Trap) : FaultPath :=
  if emulated || t.code = 0x38 then .goes t
  else
    match winner s.mgmt.lichen true sup false (faultKey t base) with
    | some x =>
      if x.act ≠ 4 then .goes t
      else if x.aword / 2 ^ 16 % 2 = 1 then (if base.isSome then .redirect x.cslot x.psel else .goes t)
      else .goes { t with code := BitVec.ofNat 8 x.aword, sub := BitVec.ofNat 8 (x.aword / 256) }
    | none => .goes t

/-- The record of a trap at a group of the issuing warp (R390). -/
def trapRecord (s : State) (t : Trap) (kind : Nat) (pc : Dword) (inpatch : Bool) (opidx : Nat) : Rec :=
  { code := t.code, sub := t.sub, kind := kind, inpatch := inpatch, late := t.late, level := t.level.toNat, addr := t.addr,
    launch := s.cur.launch, block := s.cur.block, warp := s.cur.idx, core := s.core.id, lanes := t.lanes, pc := pc,
    opidx := opidx, usub := t.usub }

/-- The block of the issuing warp is killed for a trap (R151, R393); with DUMP set, a core dump may follow (R432). -/
def killCur (s : State) (t : Trap) (pc : Dword) (inpatch : Bool) (opidx : Nat) : State :=
  match s.curBlock with
  | some b =>
    let r := trapRecord s t 1 pc inpatch opidx
    let s := if s.mgmt.dbgctl.getLsbD 1 && s.mgmt.fatal.isNone then
        { s with mgmt := { s.mgmt with fatal := some (s.cur.launch, { r with gen := s.curLaunch.gen }.bytes) } } else s
    killBlock s s.core.id b r
  | none => s

/-- Handler entry (R392): the interrupted lpc goes to the image's area, TMASK and INHDL become 1, every live lane starts at
the entry, and SYS_TCAUSE, SYS_TPC, SYS_TADDR and SYS_TLANES describe the trap of the group at `pc` with its executing lanes. -/
def enterHandler (s : State) (t : Trap) (pc : Dword) (exec : Mask) (entry : Dword) (sys inpatch : Bool) (opidx : Nat) : State :=
  let w := s.cur
  let cause := t.code.toNat + t.sub.toNat * 2 ^ 8 + bit inpatch * 2 ^ 16 + bit t.late * 2 ^ 17 + opidx * 2 ^ 18 + t.usub.toNat * 2 ^ 23
  let s := { s with cur := { w with
    slpc := w.lpc
    tmask := true
    inhdl := true
    sysHdl := sys
    lpc := Vector.ofFn fun l => if w.liveMask.getLsbD l.val then Warp.pcOf entry else w.lpc[l]
    sresume := w.resume
    resume := none
    wait := .none
    parked := none
    held := 0
    woken := false
    tcause := BitVec.ofNat 64 cause
    tpc := BitVec.ofNat 64 (pc.toNat % 2 ^ 57)
    taddr := t.addr
    tlanes := BitVec.ofNat 64 (exec.toNat + t.lanes.toNat * 2 ^ 32) } }
  emitCur s 7 ([t.code, t.sub] ++ leBytes 8 pc.toNat)

/-- The dispatch of a handler trap or a system trap (R386, R392, R393). -/
def dispatchTrap (s : State) (t : Trap) (pc : Dword) (exec : Mask) (handlerOnly inpatch : Bool) (opidx : Nat) : State :=
  let user := s.curLaunch.pkt.handler
  if s.cur.inhdl || s.cur.tmask || (t.code = 0x40 && t.sub = 0) then killCur s t pc inpatch opidx
  else if (handlerOnly || trapClass t.code t.sub = .handler) && user ≠ 0 then enterHandler s t pc exec user false inpatch opidx
  else if s.mgmt.sysHandler = 0 then killCur s t pc inpatch opidx
  else enterHandler s t pc exec s.mgmt.sysHandler true inpatch opidx

/-- The warp's registers and state as they were before the microprogram in progress (R223). -/
def Warp.discard (w : Warp) : Warp :=
  match w.micro with
  | some m => { w with v := m.v, p := m.p, s := m.s, t := m.t, acc := m.acc, partw := m.partw, tmask := m.tmask, micro := none }
  | none => w

/-- A microprogram past the operations of a group (R221). -/
def Micro.past (m : Micro) (g : Grp) : Micro := { m with op := m.op + (if m.len = 0 then hintWords g + 1 else m.len) }

/-- The end of a group (R140, R221): lpc of the executing lanes moves after it, or the next operation follows. -/
def endGroup (g : Grp) (s : State) : State :=
  let w := s.cur
  match w.micro with
  | some m => { s with cur := { w with micro := some (m.past g) } }
  | none => { s with cur := w.goto w.executing (nextPc w g) }

/-- A trap is taken at the group of the issuing warp, whose first word stands at `pc` (R387); with `after`, the interrupted lpc
is that after the group (R288). The shadow of a microprogram is
discarded (R223). The fault path comes first (R378, R379); a service fault parks the warp on its record (R391); any other
runs a handler or kills the block (R392, R393). -/
def takeTrapAt (s : State) (t : Trap) (pc : Dword) (after : Option Grp := none) : State :=
  let inpatch := match s.cur.micro with | some m => m.emulated | none => false
  let opidx := match s.cur.micro with | some m => m.op | none => 0
  let base := s.cur.base
  let sup := s.cur.supervisor
  let s := if s.cur.parked.isSome then (match s.curBlock with | some b => dropBlockPlaces s s.core.id b | none => s) else s
  let w := s.cur.discard
  let exec := w.executing
  let w := { w.unpark with
    wait := .none, failed := none
    resume := match s.cur.micro with | some m => some (s.cur.microResume m) | none => w.resume }
  let s := { s with cur := w }
  match faultPath s sup inpatch base t with
  | .redirect cslot psel =>
    { s with cur := { w with wait := .retry, held := exec, parked := some (.lichenEmulation w.grp (base.getD 0) (BitVec.ofNat 6 cslot) psel) } }
  | .goes t =>
    let s := match after with | some g => endGroup g s | none => s
    let w := s.cur
    if trapClass t.code t.sub = .service then
      let s := { s with cur := { w with wait := .trapQueue t, held := exec } }
      let s := emitCur s 7 ([t.code, t.sub] ++ leBytes 8 pc.toNat)
      launchRecord s (trapRecord s t 0 pc inpatch opidx) (some (.warp s.cur.slot))
    else dispatchTrap s t pc exec false inpatch opidx

/-- A trap is taken at the group the warp issues. -/
def takeTrap (s : State) (t : Trap) : State := takeTrapAt s t s.cur.pc

/-- The trap of a service fault answered as unserviceable is raised again as a handler trap (R391). -/
def takeUnserviced (s : State) (t : Trap) : State := dispatchTrap s t s.cur.pc s.cur.executing true false 0

/-- RTI (R393): lpc comes from the image's area, TMASK and INHDL become 0, the four registers are cleared. -/
def returnFromTrap (w : Warp) : Warp :=
  { w with
    lpc := w.slpc, tmask := false, inhdl := false, sysHdl := false, resume := w.sresume, sresume := none
    skipWatch := bits w.tcause 7 0 = 0x3F, tcause := 0, tpc := 0, taddr := 0, tlanes := 0 }

/-! ## How a group is performed -/

/-- What performing a group comes to. -/
inductive Perf where
  | done
  | wait (w : Wait)
  | trap (t : Trap)
  /-- Performed, with nothing left to do at the end of the group. -/
  | raw
  /-- A trap whose resume address is the one after the group (R288). -/
  | trapAfter (t : Trap)
  deriving DecidableEq, Repr

/-- The group's operations stand inside a microprogram. -/
def Warp.inMicro (w : Warp) : Bool := w.micro.isSome

/-- The instructions that a microprogram may not hold (R222). -/
def microForbids (w : Warp) : Instr → Bool
  | .call .. | .calli .. | .jmpi .. | .ret .. | .exitL .. | .yield .. | .mcall .. | .trapI .. | .rti .. | .bkpt .. => true
  | .bar .. | .cbar .. | .nbar .. | .hwaitFull .. | .hwaitFree .. | .waitb .. | .waits .. | .mwait .. | .mwaitAll .. => true
  | .mjob .. | .hsort .. => true
  | .vote _ _ _ _ m _ _ => m = 0 && w.width = 32
  | _ => false

/-- The repetitions of a group from `i` on, each performed before the next begins (R188); a trap or a wait leaves the
repetition it stopped at, and an acquire that waits for promotions holds back the next one. -/
def runRepsFrom (one : Nat → State → State × Perf) : Nat → Nat → State → State × Perf
  | 0, _, s => (s, .done)
  | n + 1, i, s =>
    match one i s with
    | (s, .done) =>
      if n = 0 then ({ s with cur := s.cur.clearResume }, .done)
      else
        let s := { s with cur := { s.cur.setRep (i + 1) with woken := false } }
        if s.cur.wait ≠ .none then (s, .wait s.cur.wait) else runRepsFrom one n (i + 1) s
    | r => r
def runReps (g : Grp) (one : Nat → State → State × Perf) (s : State) : State × Perf :=
  runRepsFrom one (reps g - s.cur.resumed.rep) s.cur.resumed.rep s

/-- A performance that ends the group when it is done. -/
def ending (g : Grp) : State × Perf → State × Perf
  | (s, .done) => (endGroup g s, .done)
  | r => r

/-- A warp operation that ends its group itself (`Operands`), as a performance. -/
def runWarp (g : Grp) (f : Warp → Except Trap Warp) (s : State) : State × Perf :=
  match f s.cur with
  | .error t => (s, .trap t)
  | .ok w =>
    match w.micro with
    | some m => ({ s with cur := { w with micro := some (m.past g) } }, .done)
    | none => ({ s with cur := w }, .done)

/-- A warp-level instruction (R182): its repetitions are performed when some executing lane's guard is true. -/
def warpLevel (g : Grp) (chk : Nat → Except Trap Unit) (one : Nat → State → State × Perf) (s : State) : State × Perf :=
  match checkReps g chk with
  | .error t => (s, .trap t)
  | .ok _ => ending g (if s.cur.active g = 0 then (s, .done) else runReps g one s)

/-- The instructions that make their warp pending at once, whatever S holds (R169). -/
def leavesActive : Instr → Bool
  | .bar .. | .cbar .. | .nbar .. | .hwaitFull .. | .hwaitFree .. | .waitb .. | .waits .. | .mwait .. | .mwaitAll .. => true
  | _ => false

/-- The group's S bit counts (R169, R221): that of a microprogram's operation does not. -/
def Instr.marks (w : Warp) : Instr → Bool
  | .mret .. => false
  | i => i.grp.sw && !w.inMicro

/-- After a group is performed: the S bit parks the warp while results are outstanding (R169). -/
def afterGroup (i : Instr) (s : State) : State :=
  if !s.cur.present then s
  else
    let w := { s.cur.unpark with resume := if s.cur.inMicro then s.cur.resume else none, skipWatch := false, failed := none }
    let w := if Instr.marks w i && w.wait = .none && outstanding s s.core.id w then { w with wait := .results } else w
    { s with cur := w }

/-- A group that makes its warp pending does so when it is first performed, not when it comes again woken (R169). -/
def leavesNow (i : Instr) (w : Warp) : Bool :=
  leavesActive i && w.active i.grp ≠ 0 && (w.parked.isNone || (w.wait = .retry && !w.woken))

/-- A group is performed by the issuing warp. A group whose executing set is empty does nothing; one whose checks wait at a home (`Trap.held`)
is issued again. -/
def perform (i : Instr) (body : State → State × Perf) (s : State) : Host.Outcome State Fault Refusal :=
  if !s.cur.present || s.cur.executing = 0 then .next s
  else
    let leaves := leavesNow i s.cur
    let s := { s with cur := { s.cur with wait := .none } }
    let s := if s.cur.inMicro then s else { s with cur := { s.cur with base := some (encodeBase i), grp := i.grp } }
    let r :=
      if s.cur.inMicro && microForbids s.cur i then (s, Perf.trap (trap 0x02 0x04))
      else if i.missingThird then (s, Perf.trap (trap 0x04 0x05))
      else body s
    match r with
    | (s, .done) => (let s := afterGroup i s; .next (pumpRecords { s with cur := { s.cur with leaves := leaves && s.cur.present } }))
    | (s, .raw) => .next (pumpRecords s)
    | (s, .wait w) => .next (pumpRecords { s with cur := { s.cur.park i with wait := w } })
    | (s, .trap t) =>
      .next (pumpRecords (if t.held then { s with cur := { s.cur.park i with wait := .retry } } else takeTrap s t))
    | (s, .trapAfter t) => .next (pumpRecords (takeTrapAt s t s.cur.pc (some i.grp)))

/-- Makes a warp the issuing one: the other goes back to its core. -/
def State.focus (s : State) (c slot : Nat) : State :=
  if s.isCur c slot then s
  else
    match s.warpAt c slot with
    | none => s
    | some w =>
      let k := if s.cur.present then { s.core with warps := putBy (fun x => x.slot = s.cur.slot) s.cur s.core.warps } else s.core
      let out := fun (k : Core) => { k with warps := k.warps.filter fun x => x.slot ≠ slot }
      if k.id = c then { s with core := out k, cur := w }
      else { s with core := out (s.coreAt c), cores := (s.cores.filter fun x => x.id ≠ c) ++ [k], cur := w }

/-! ## Variable-latency results -/

/-- A 32-bit result for one lane of a vector register (R147, R169): it lands at once, or goes on its way. -/
def landV (s : State) (reg : Nat) (l : Fin 32) (x : Word) : State :=
  if s.sched.late && !s.cur.inMicro then
    pushReturn s { core := s.core.id, slot := s.cur.slot, gen := s.cur.genReg, uniform := false, lane := l.val, reg := reg, ty := 4 }
      (x.setWidth 64)
  else { s with cur := s.cur.setV reg l x }
/-- The result for the lanes of a mask. On its way the values of the lanes share the clock of their issue, and are counted as one return when they are
dropped (DESIGN CHOICE: R147 does not say what one dropped return is). -/
def landVec (s : State) (reg : Nat) (m : Mask) (x : LaneVec) : State :=
  if s.sched.late && !s.cur.inMicro then (lanesOf m).foldl (fun s l => landV s reg l x[l]) s
  else { s with cur := s.cur.setVec reg m x }
/-- A result for a uniform register. -/
def landS (s : State) (reg : Nat) (x : Dword) : State :=
  if s.sched.late && !s.cur.inMicro then
    pushReturn s { core := s.core.id, slot := s.cur.slot, gen := s.cur.genReg, uniform := true, lane := 0, reg := reg, ty := 5 } x
  else { s with cur := s.cur.setS reg x }

/-! ## Ordering -/

/-- The widest of a list of domains (R38). -/
def widest (l : List Domain) : Domain := l.foldl Domain.max .core

/-- The lanes' touched sets take a domain (R98). -/
def touch (w : Warp) (m : Mask) (d : Domain) : Warp :=
  { w with threads := Vector.ofFn fun l =>
      if m.getLsbD l.val then { w.threads[l] with touched := some (match w.threads[l].touched with | some x => x.max d | none => d) }
      else w.threads[l] }
/-- The widest domain that lanes have touched; core when none (R98, R449). -/
def touchedDomain (w : Warp) (m : Mask) : Domain := widest ((lanesOf m).filterMap fun l => w.threads[l].touched)

/-- What an ordering operation finds. -/
inductive Gate where
  | go
  | wait
  | trap (t : Trap)
  deriving DecidableEq, Repr

/-- The warp's engine instructions have reached their ownership points (R90, R104). -/
def ownershipReached (s : State) : Bool :=
  !(s.core.copies.any fun c => c.bslot = some s.cur.bslot && c.warp = s.cur.idx && !c.owned)
    && !((jobsOf s s.core.id s.cur).any fun j => match j.kind with | .store .. => true | _ => false)

/-- The wait of a release at a domain by some lanes (R90), and the failure of a store it waited for (R80). -/
def releaseGate (s : State) (m : Mask) (d : Domain) : Gate :=
  match s.cur.failed with
  | some t => .trap t
  | none =>
    if !ownershipReached s then .wait
    else if d = .core then (if slowPending s s.core.id s.cur.slot m then .wait else .go)
    else if writesPending s s.core.id s.cur.slot m then .wait
    else .go

/-- A tagged write takes the next release epoch (R96). -/
def newTag (s : State) : State × BitVec 16 :=
  ({ s with core := { s.core with relEpoch := s.core.relEpoch + 1 } }, s.core.relEpoch + 1)

/-- A core's answer to a token (R96): it is not in the open window any more. -/
def tokenDrained (s : State) (t : Token) : Bool := !((s.coreAt t.core).isOpen t.epoch)

/-- A thread's pending tokens that are answered at once leave its set, which it then has to invalidate for (R97). -/
def Thread.answered (s : State) (t : Thread) : Thread :=
  if t.pending.any fun k => tokenDrained s k then
    { t with pending := t.pending.filter fun k => !tokenDrained s k, drained := true }
  else t

/-- The end of an acquire's promotions (R97): when no token is pending, an invalidation is owed if one was, or a drained one. -/
def settlePromotions (s : State) (m : Mask) : State :=
  if (lanesOf m).any fun l => s.cur.threads[l].pending ≠ [] then { s with cur := { s.cur with wait := .promote m } }
  else if (lanesOf m).any fun l => s.cur.threads[l].drained then
    { s with
      core := { s.core with l1 := s.core.l1.filter fun x => x.priv }
      cur := { s.cur with threads := Vector.ofFn fun l => if m.getLsbD l.val then { s.cur.threads[l] with drained := false } else s.cur.threads[l] } }
  else s

/-- An acquire at a domain by some lanes (R91): the invalidation of R58, and the promotions of R97. -/
def acquire (s : State) (m : Mask) (d : Domain) : State :=
  let s := { s with
    core := l1Acquire s.core d
    cur := { s.cur with threads := Vector.ofFn fun l => if m.getLsbD l.val then s.cur.threads[l].answered s else s.cur.threads[l] } }
  settlePromotions s m

/-- A reply's tokens reach a thread (R97): a fifth token resolves the oldest, which must be drained by then. -/
def takeTokens (t : Thread) (tok : List Token) (dr : Bool) : Thread :=
  let p := tok.foldl (fun p k => if p.contains k then p else p ++ [k]) t.pending
  { t with pending := p.drop (p.length - 4), drained := t.drained || dr || p.length > 4 }
/-- A load would add a token to a full set whose oldest is not drained (R97). -/
def tokensWait (s : State) (t : Thread) (tok : List Token) : Bool :=
  let p := tok.foldl (fun p k => if p.contains k then p else p ++ [k]) t.pending
  (p.take (p.length - 4)).any fun k => !tokenDrained s k

/-- The lanes of the warp, live or not, for whose events a warp-level ordering acts (R449). -/
def allLanes : Mask := 0xFFFFFFFF

/-- The address of lane `l` in a memory instruction (R176, R260). -/
def memAddr (w : Warp) (g : Grp) (sb vi : Nat) (l : Fin 32) : Dword := w.getS sb + (w.getV vi l).signExtend 64 + offOf g

/-- The checked accesses that write obtain their permission: D is set on every page of theirs (R22); false when one has to be checked again. -/
def markLanes (s : State) : List (Fin 32 × Acc) → State × Bool
  | [] => (s, true)
  | x :: r =>
    match markDirty s s.core.id x.2 with
    | (s, true) => markLanes s r
    | (s, false) => (s, false)

/-- The checks of several accesses of lanes, each by itself. -/
def checkEach {α : Type} (s : State) (ls : List (Fin 32 × α)) (chk : State → Fin 32 → α → State × Except Trap Acc) :
    State × List (Fin 32 × Except Trap Acc) :=
  ls.foldl (fun (s, rs) (l, x) => let (s, r) := chk s l x; (s, rs ++ [(l, r)])) (s, [])
/-- The checks that failed, and the accesses that passed. -/
def failuresOf (rs : List (Fin 32 × Except Trap Acc)) : List (Fin 32 × Trap) :=
  rs.filterMap fun (l, r) => match r with | .error t => some (l, t) | .ok _ => none
def passedOf (rs : List (Fin 32 × Except Trap Acc)) : List (Fin 32 × Acc) :=
  rs.filterMap fun (l, r) => match r with | .ok a => some (l, a) | .error _ => none

/-- The trap of some failed checks (R259): the earliest in the order of R21 decides; it names the lanes that fail it and the lowest of their
addresses. -/
def earliest : List (Fin 32 × Trap) → Option Trap
  | [] => none
  | e :: more =>
    let best := more.foldl (fun (b : Fin 32 × Trap) x => if x.2.rank < b.2.rank then x else b) e
    let same := (e :: more).filter fun x => x.2.rank = best.2.rank ∧ x.2.code = best.2.code ∧ x.2.sub = best.2.sub
    let low := same.foldl (fun (b : Fin 32 × Trap) x => if x.2.addr.toNat < b.2.addr.toNat then x else b) best
    some { low.2 with lanes := maskOf fun l => same.any fun x => x.1 = l }

/-- Checks a list of lanes' accesses (R259), every address first; `chk` resolves one lane. -/
def checkLanes (s : State) (ls : List (Fin 32)) (chk : State → Fin 32 → State × Except Trap Acc) :
    State × Except Trap (List (Fin 32 × Acc)) :=
  let (s, rs) := checkEach s (ls.map fun l => (l, ())) fun s l _ => chk s l
  match earliest (failuresOf rs) with
  | some t => (s, .error t)
  | none =>
    match markLanes s (passedOf rs) with
    | (s, true) => (s, .ok (passedOf rs))
    | (s, false) => (s, .error waitAtHome)

/-- A checked access that a watch covers raises trap 0x3F after every check of R21 (R429). -/
def watched (s : State) (a : Acc) (size : Nat) (write : Bool) : Except Trap Acc :=
  if a.aperture || s.cur.skipWatch then .ok a
  else
    match watchHits s.mgmt (bits s.curLaunch.ptroot 11 0) a.va size write false with
    | [] => .ok a
    | _ => .error (trapAt 90 0x3F (if write then 1 else 0) a.va)

/-- The context of a lane's access: its private segment is its thread's, wherever HSORT has put the thread (R30, R351). -/
def laneCtx (s : State) (l : Fin 32) : Ctx :=
  ctxOf s s.core.id s.curLaunch s.cur.block (match s.curBlock with | some b => b.rank | none => 0) (s.cur.threads[l].tid / 32)
    (some s.cur.bslot) s.cur.supervisor

/-- One lane's checks in the issuing warp's context, watches last; `more` is the check of the region's format. -/
def checkLane (s : State) (l : Fin 32) (va : Dword) (size align : Nat) (k : Kind) (wide : Bool := false)
    (more : Acc → Except Trap Unit := fun _ => .ok ()) : State × Except Trap Acc :=
  match resolve s (laneCtx s l) (s.cur.threads[l].tid % 32) va size align k wide more with
  | (s, .error t) => (s, .error t)
  | (s, .ok a) => (s, watched s a size k.writes)

/-- Fence-strengthening mode (R110): the launch's loads and stores order at core domain, whatever their order bits. -/
def ordered (w : Warp) (o : BitVec 1) : Bool := !w.memrev || o = 1
def orderDomain (w : Warp) (as : List (Fin 32 × Acc)) : Domain := if w.memrev then widest (as.map fun x => x.2.dom) else .core

/-- A lane's write is tagged (R96, R98): a core-domain release, or in the span of a core-domain fence release. -/
def taggedLane (w : Warp) (l : Fin 32) (rel : Bool) (d : Domain) : Bool := (rel && d = .core) || w.threads[l].span = some .core

end Sys2Proof.Machine
end

