-- ==== Sys2Proof/Machine/Uniform.lean ====
section
/-! DEFINITION. Uniform instructions (R202 to R204), as operations on a warp. -/

namespace Sys2Proof.Machine

/-- A U3 instruction that writes s[d] from s[a] and s[b] (R202). -/
def runU3 (gr : Grp) (d a b : BitVec 6) (f : Dword → Dword → Dword) : Warp → Except Trap Warp :=
  runU gr (fun k => do
      sRange (repD gr d.toNat k) 1
      sRange (repA gr a.toNat k) 1
      sRange (repB gr b.toNat k) 1)
    fun k x => x.setS (repD gr d.toNat k) (f (x.getS (repA gr a.toNat k)) (x.getS (repB gr b.toNat k)))
/-- A uniform instruction that writes s[d] from s[a]. -/
def runU2 (gr : Grp) (d a : BitVec 6) (f : Dword → Dword) : Warp → Except Trap Warp :=
  runU gr (fun k => do
      sRange (repD gr d.toNat k) 1
      sRange (repA gr a.toNat k) 1)
    fun k x => x.setS (repD gr d.toNat k) (f (x.getS (repA gr a.toNat k)))

section u3
variable (gr : Grp) (d a b : BitVec 6)

def opSadd : Warp → Except Trap Warp := runU3 gr d a b fun x y => x + y
def opSsub : Warp → Except Trap Warp := runU3 gr d a b fun x y => x - y
/-- SMUL, SMUL.HI.S, SMUL.HI.U (R202). -/
def opSmul (f : BitVec 2) : Warp → Except Trap Warp := runU3 gr d a b fun x y =>
  match f.toNat with
  | 0 => x * y
  | 1 => BitVec.ofInt 64 (x.toInt * y.toInt / 2 ^ 64)
  | _ => BitVec.ofNat 64 (x.toNat * y.toNat / 2 ^ 64)
def opSand : Warp → Except Trap Warp := runU3 gr d a b fun x y => x &&& y
def opSor : Warp → Except Trap Warp := runU3 gr d a b fun x y => x ||| y
def opSxor : Warp → Except Trap Warp := runU3 gr d a b fun x y => x ^^^ y
def opSandn : Warp → Except Trap Warp := runU3 gr d a b fun x y => x &&& ~~~y
def opSshl : Warp → Except Trap Warp := runU3 gr d a b fun x y => shl x (y.toNat % 256)
def opSshr : Warp → Except Trap Warp := runU3 gr d a b fun x y => shr x (y.toNat % 256)
def opSsar : Warp → Except Trap Warp := runU3 gr d a b fun x y => sar x (y.toNat % 256)
def opSrot : Warp → Except Trap Warp := runU3 gr d a b fun x y => x.rotateLeft (y.toNat % 256 % 64)
/-- SCMP (R202): W32 compares the low halves. -/
def opScmp (w32 : BitVec 1) (c : BitVec 3) : Warp → Except Trap Warp := runU3 gr d a b fun x y =>
  if (if w32 = 1 then cond c (lo32 x) (lo32 y) else cond c x y) then 0xFFFFFFFFFFFFFFFF else 0
/-- SBFE (R202): pos in bits 5:0 of s[b], len in bits 14:8. -/
def opSbfe (u : BitVec 1) : Warp → Except Trap Warp := runU3 gr d a b fun x y =>
  extractField x (bits y 5 0) (bits y 14 8) (u = 1)
/-- SMIN and SMAX (R202): F bit 0 selects unsigned. -/
def opSmin (u : BitVec 1) : Warp → Except Trap Warp := runU3 gr d a b fun x y =>
  if (if u = 1 then y.toNat < x.toNat else y.toInt < x.toInt) then y else x
def opSmax (u : BitVec 1) : Warp → Except Trap Warp := runU3 gr d a b fun x y =>
  if (if u = 1 then x.toNat < y.toNat else x.toInt < y.toInt) then y else x
end u3

section u2
variable (gr : Grp) (d a : BitVec 6)

def opSpopc : Warp → Except Trap Warp := runU2 gr d a fun x => BitVec.ofNat 64 (popcount x)
def opSclz : Warp → Except Trap Warp := runU2 gr d a fun x => BitVec.ofNat 64 (leadingZeros x)
def opSctz : Warp → Except Trap Warp := runU2 gr d a fun x => BitVec.ofNat 64 (trailingZeros x)
def opSbrev : Warp → Except Trap Warp := runU2 gr d a fun x => bitReverse x
/-- SMOV (R203). -/
def opSmov : Warp → Except Trap Warp := runU2 gr d a fun x => x
/-- SADDI (R204). -/
def opSaddi (i : BitVec 11) : Warp → Except Trap Warp := runU2 gr d a fun x => x + immOf gr i
end u2

/-- SMOVI (R204). -/
def opSmovi (gr : Grp) (d : BitVec 6) (i : BitVec 11) : Warp → Except Trap Warp :=
  runU gr (fun k => sRange (repD gr d.toNat k) 1) fun k x => x.setS (repD gr d.toNat k) (immOf gr i)

/-- A tile register number (R172, R187). -/
def tRange (n : Nat) : Except Trap Unit := if n > 7 then .error (trap 0x01 0x05) else .ok ()

/-- SMOV.TLO and SMOV.THI (R203): one half of a tile register. -/
def opSmovTlo (gr : Grp) (d : BitVec 3) (a : BitVec 6) : Warp → Except Trap Warp :=
  runU gr (fun k => do tRange (repD gr d.toNat k); sRange (repA gr a.toNat k) 1) fun k x =>
    let t := x.getT (repD gr d.toNat k)
    x.setT (repD gr d.toNat k) ((t.extractLsb' 64 64) ++ x.getS (repA gr a.toNat k))
def opSmovThi (gr : Grp) (d : BitVec 3) (a : BitVec 6) : Warp → Except Trap Warp :=
  runU gr (fun k => do tRange (repD gr d.toNat k); sRange (repA gr a.toNat k) 1) fun k x =>
    let t := x.getT (repD gr d.toNat k)
    x.setT (repD gr d.toNat k) (x.getS (repA gr a.toNat k) ++ t.extractLsb' 0 64)
/-- SMOV.SLO and SMOV.SHI (R203). -/
def opSmovSlo (gr : Grp) (d : BitVec 6) (a : BitVec 3) : Warp → Except Trap Warp :=
  runU gr (fun k => do sRange (repD gr d.toNat k) 1; tRange (repA gr a.toNat k)) fun k x =>
    x.setS (repD gr d.toNat k) ((x.getT (repA gr a.toNat k)).extractLsb' 0 64)
def opSmovShi (gr : Grp) (d : BitVec 6) (a : BitVec 3) : Warp → Except Trap Warp :=
  runU gr (fun k => do sRange (repD gr d.toNat k) 1; tRange (repA gr a.toNat k)) fun k x =>
    x.setS (repD gr d.toNat k) ((x.getT (repA gr a.toNat k)).extractLsb' 64 64)

end Sys2Proof.Machine
end

