-- ==== Sys2Proof/Machine/Alu.lean ====
section
/-! DEFINITION. The integer, floating-point, lane and uniform instructions as performed by the issuing warp; their operations
stand in Integer, Float, Lane and Uniform. -/

namespace Sys2Proof.Machine

/-- IADD (R197). -/
def execIadd (gr : Grp) (d : BitVec 6) (a : BitVec 6) (lka : BitVec 2) (b : BitVec 6) (lkb : BitVec 2) (bu : BitVec 1) (s : State) : Host.Outcome State Fault Refusal :=
  perform (.iadd gr d a lka b lkb bu) (runWarp gr (opIadd gr d a lka b lkb bu)) s
/-- ISUB (R197). -/
def execIsub (gr : Grp) (d : BitVec 6) (a : BitVec 6) (lka : BitVec 2) (b : BitVec 6) (lkb : BitVec 2) (bu : BitVec 1) (s : State) : Host.Outcome State Fault Refusal :=
  perform (.isub gr d a lka b lkb bu) (runWarp gr (opIsub gr d a lka b lkb bu)) s
/-- IMUL (R197). -/
def execImul (gr : Grp) (d : BitVec 6) (a : BitVec 6) (lka : BitVec 2) (b : BitVec 6) (lkb : BitVec 2) (bu : BitVec 1) (s : State) : Host.Outcome State Fault Refusal :=
  perform (.imul gr d a lka b lkb bu) (runWarp gr (opImul gr d a lka b lkb bu)) s
/-- IMULHI_S (R197). -/
def execImulhiS (gr : Grp) (d : BitVec 6) (a : BitVec 6) (lka : BitVec 2) (b : BitVec 6) (lkb : BitVec 2) (bu : BitVec 1) (s : State) : Host.Outcome State Fault Refusal :=
  perform (.imulhiS gr d a lka b lkb bu) (runWarp gr (opImulhiS gr d a lka b lkb bu)) s
/-- IMULHI_U (R197). -/
def execImulhiU (gr : Grp) (d : BitVec 6) (a : BitVec 6) (lka : BitVec 2) (b : BitVec 6) (lkb : BitVec 2) (bu : BitVec 1) (s : State) : Host.Outcome State Fault Refusal :=
  perform (.imulhiU gr d a lka b lkb bu) (runWarp gr (opImulhiU gr d a lka b lkb bu)) s
/-- IMAD (R197). -/
def execImad (gr : Grp) (d : BitVec 6) (a : BitVec 6) (lka : BitVec 2) (b : BitVec 6) (lkb : BitVec 2) (bu : BitVec 1) (s : State) : Host.Outcome State Fault Refusal :=
  perform (.imad gr d a lka b lkb bu) (runWarp gr (opImad gr d a lka b lkb bu)) s
/-- IMIN_S (R197). -/
def execIminS (gr : Grp) (d : BitVec 6) (a : BitVec 6) (lka : BitVec 2) (b : BitVec 6) (lkb : BitVec 2) (bu : BitVec 1) (s : State) : Host.Outcome State Fault Refusal :=
  perform (.iminS gr d a lka b lkb bu) (runWarp gr (opIminS gr d a lka b lkb bu)) s
/-- IMIN_U (R197). -/
def execIminU (gr : Grp) (d : BitVec 6) (a : BitVec 6) (lka : BitVec 2) (b : BitVec 6) (lkb : BitVec 2) (bu : BitVec 1) (s : State) : Host.Outcome State Fault Refusal :=
  perform (.iminU gr d a lka b lkb bu) (runWarp gr (opIminU gr d a lka b lkb bu)) s
/-- IMAX_S (R197). -/
def execImaxS (gr : Grp) (d : BitVec 6) (a : BitVec 6) (lka : BitVec 2) (b : BitVec 6) (lkb : BitVec 2) (bu : BitVec 1) (s : State) : Host.Outcome State Fault Refusal :=
  perform (.imaxS gr d a lka b lkb bu) (runWarp gr (opImaxS gr d a lka b lkb bu)) s
/-- IMAX_U (R197). -/
def execImaxU (gr : Grp) (d : BitVec 6) (a : BitVec 6) (lka : BitVec 2) (b : BitVec 6) (lkb : BitVec 2) (bu : BitVec 1) (s : State) : Host.Outcome State Fault Refusal :=
  perform (.imaxU gr d a lka b lkb bu) (runWarp gr (opImaxU gr d a lka b lkb bu)) s
/-- IABS (R199). -/
def execIabs (gr : Grp) (d : BitVec 6) (a : BitVec 6) (lka : BitVec 2) (s : State) : Host.Outcome State Fault Refusal :=
  perform (.iabs gr d a lka) (runWarp gr (opIabs gr d a lka)) s
/-- AND (R197). -/
def execAndV (gr : Grp) (d : BitVec 6) (a : BitVec 6) (lka : BitVec 2) (b : BitVec 6) (lkb : BitVec 2) (bu : BitVec 1) (s : State) : Host.Outcome State Fault Refusal :=
  perform (.andV gr d a lka b lkb bu) (runWarp gr (opAndV gr d a lka b lkb bu)) s
/-- OR (R197). -/
def execOrV (gr : Grp) (d : BitVec 6) (a : BitVec 6) (lka : BitVec 2) (b : BitVec 6) (lkb : BitVec 2) (bu : BitVec 1) (s : State) : Host.Outcome State Fault Refusal :=
  perform (.orV gr d a lka b lkb bu) (runWarp gr (opOrV gr d a lka b lkb bu)) s
/-- XOR (R197). -/
def execXorV (gr : Grp) (d : BitVec 6) (a : BitVec 6) (lka : BitVec 2) (b : BitVec 6) (lkb : BitVec 2) (bu : BitVec 1) (s : State) : Host.Outcome State Fault Refusal :=
  perform (.xorV gr d a lka b lkb bu) (runWarp gr (opXorV gr d a lka b lkb bu)) s
/-- SHL (R197). -/
def execShl (gr : Grp) (d : BitVec 6) (a : BitVec 6) (lka : BitVec 2) (b : BitVec 6) (lkb : BitVec 2) (bu : BitVec 1) (s : State) : Host.Outcome State Fault Refusal :=
  perform (.shl gr d a lka b lkb bu) (runWarp gr (opShl gr d a lka b lkb bu)) s
/-- SHR (R197). -/
def execShr (gr : Grp) (d : BitVec 6) (a : BitVec 6) (lka : BitVec 2) (b : BitVec 6) (lkb : BitVec 2) (bu : BitVec 1) (s : State) : Host.Outcome State Fault Refusal :=
  perform (.shr gr d a lka b lkb bu) (runWarp gr (opShr gr d a lka b lkb bu)) s
/-- SAR (R197). -/
def execSar (gr : Grp) (d : BitVec 6) (a : BitVec 6) (lka : BitVec 2) (b : BitVec 6) (lkb : BitVec 2) (bu : BitVec 1) (s : State) : Host.Outcome State Fault Refusal :=
  perform (.sar gr d a lka b lkb bu) (runWarp gr (opSar gr d a lka b lkb bu)) s
/-- BFE (R198). -/
def execBfe (gr : Grp) (d : BitVec 6) (a : BitVec 6) (lka : BitVec 2) (b : BitVec 6) (lkb : BitVec 2) (bu : BitVec 1) (s : State) : Host.Outcome State Fault Refusal :=
  perform (.bfe gr d a lka b lkb bu) (runWarp gr (opBfe gr d a lka b lkb bu)) s
/-- BFI (R198). -/
def execBfi (gr : Grp) (d : BitVec 6) (a : BitVec 6) (lka : BitVec 2) (b : BitVec 6) (lkb : BitVec 2) (bu : BitVec 1) (s : State) : Host.Outcome State Fault Refusal :=
  perform (.bfi gr d a lka b lkb bu) (runWarp gr (opBfi gr d a lka b lkb bu)) s
/-- POPC (R199). -/
def execPopc (gr : Grp) (d : BitVec 6) (a : BitVec 6) (lka : BitVec 2) (s : State) : Host.Outcome State Fault Refusal :=
  perform (.popc gr d a lka) (runWarp gr (opPopc gr d a lka)) s
/-- CLZ (R199). -/
def execClz (gr : Grp) (d : BitVec 6) (a : BitVec 6) (lka : BitVec 2) (s : State) : Host.Outcome State Fault Refusal :=
  perform (.clz gr d a lka) (runWarp gr (opClz gr d a lka)) s
/-- ICMP (R201). -/
def execIcmp (gr : Grp) (p : BitVec 3) (c : BitVec 3) (a : BitVec 6) (lka : BitVec 2) (b : BitVec 6) (lkb : BitVec 2) (bu : BitVec 1) (s : State) : Host.Outcome State Fault Refusal :=
  perform (.icmp gr p c a lka b lkb bu) (runWarp gr (opIcmp gr p c a lka b lkb bu)) s
/-- SEL (R197). -/
def execSel (gr : Grp) (d : BitVec 6) (a : BitVec 6) (lka : BitVec 2) (b : BitVec 6) (lkb : BitVec 2) (bu : BitVec 1) (s : State) : Host.Outcome State Fault Refusal :=
  perform (.sel gr d a lka b lkb bu) (runWarp gr (opSel gr d a lka b lkb bu)) s
/-- MOV (R199). -/
def execMov (gr : Grp) (d : BitVec 6) (a : BitVec 6) (lka : BitVec 2) (s : State) : Host.Outcome State Fault Refusal :=
  perform (.mov gr d a lka) (runWarp gr (opMov gr d a lka)) s
/-- MOVI (R200). -/
def execMovi (gr : Grp) (d : BitVec 6) (i : BitVec 9) (s : State) : Host.Outcome State Fault Refusal :=
  perform (.movi gr d i) (runWarp gr (opMovi gr d i)) s
/-- IADDI (R200). -/
def execIaddi (gr : Grp) (d : BitVec 6) (a : BitVec 6) (lka : BitVec 2) (i : BitVec 9) (s : State) : Host.Outcome State Fault Refusal :=
  perform (.iaddi gr d a lka i) (runWarp gr (opIaddi gr d a lka i)) s
/-- ANDI (R200). -/
def execAndi (gr : Grp) (d : BitVec 6) (a : BitVec 6) (lka : BitVec 2) (i : BitVec 7) (s : State) : Host.Outcome State Fault Refusal :=
  perform (.andi gr d a lka i) (runWarp gr (opAndi gr d a lka i)) s
/-- ORI (R200). -/
def execOri (gr : Grp) (d : BitVec 6) (a : BitVec 6) (lka : BitVec 2) (i : BitVec 7) (s : State) : Host.Outcome State Fault Refusal :=
  perform (.ori gr d a lka i) (runWarp gr (opOri gr d a lka i)) s
/-- XORI (R200). -/
def execXori (gr : Grp) (d : BitVec 6) (a : BitVec 6) (lka : BitVec 2) (i : BitVec 7) (s : State) : Host.Outcome State Fault Refusal :=
  perform (.xori gr d a lka i) (runWarp gr (opXori gr d a lka i)) s
/-- ANDNI (R200). -/
def execAndni (gr : Grp) (d : BitVec 6) (a : BitVec 6) (lka : BitVec 2) (i : BitVec 7) (s : State) : Host.Outcome State Fault Refusal :=
  perform (.andni gr d a lka i) (runWarp gr (opAndni gr d a lka i)) s
/-- SHLI (R200). -/
def execShli (gr : Grp) (d : BitVec 6) (a : BitVec 6) (lka : BitVec 2) (i : BitVec 5) (s : State) : Host.Outcome State Fault Refusal :=
  perform (.shli gr d a lka i) (runWarp gr (opShli gr d a lka i)) s
/-- SHRI (R200). -/
def execShri (gr : Grp) (d : BitVec 6) (a : BitVec 6) (lka : BitVec 2) (i : BitVec 5) (s : State) : Host.Outcome State Fault Refusal :=
  perform (.shri gr d a lka i) (runWarp gr (opShri gr d a lka i)) s
/-- SARI (R200). -/
def execSari (gr : Grp) (d : BitVec 6) (a : BitVec 6) (lka : BitVec 2) (i : BitVec 5) (s : State) : Host.Outcome State Fault Refusal :=
  perform (.sari gr d a lka i) (runWarp gr (opSari gr d a lka i)) s
/-- ROTI (R200). -/
def execRoti (gr : Grp) (d : BitVec 6) (a : BitVec 6) (lka : BitVec 2) (i : BitVec 5) (s : State) : Host.Outcome State Fault Refusal :=
  perform (.roti gr d a lka i) (runWarp gr (opRoti gr d a lka i)) s
/-- FADD (R241). -/
def execFadd (gr : Grp) (d : BitVec 6) (a : BitVec 6) (lka : BitVec 2) (b : BitVec 6) (lkb : BitVec 2) (bu : BitVec 1) (s : State) : Host.Outcome State Fault Refusal :=
  perform (.fadd gr d a lka b lkb bu) (runWarp gr (opFadd gr d a lka b lkb bu)) s
/-- FSUB (R241). -/
def execFsub (gr : Grp) (d : BitVec 6) (a : BitVec 6) (lka : BitVec 2) (b : BitVec 6) (lkb : BitVec 2) (bu : BitVec 1) (s : State) : Host.Outcome State Fault Refusal :=
  perform (.fsub gr d a lka b lkb bu) (runWarp gr (opFsub gr d a lka b lkb bu)) s
/-- FMUL (R241). -/
def execFmul (gr : Grp) (d : BitVec 6) (a : BitVec 6) (lka : BitVec 2) (b : BitVec 6) (lkb : BitVec 2) (bu : BitVec 1) (s : State) : Host.Outcome State Fault Refusal :=
  perform (.fmul gr d a lka b lkb bu) (runWarp gr (opFmul gr d a lka b lkb bu)) s
/-- FFMA (R241). -/
def execFfma (gr : Grp) (d : BitVec 6) (a : BitVec 6) (lka : BitVec 2) (b : BitVec 6) (lkb : BitVec 2) (bu : BitVec 1) (s : State) : Host.Outcome State Fault Refusal :=
  perform (.ffma gr d a lka b lkb bu) (runWarp gr (opFfma gr d a lka b lkb bu)) s
/-- FMIN (R242). -/
def execFmin (gr : Grp) (d : BitVec 6) (a : BitVec 6) (lka : BitVec 2) (b : BitVec 6) (lkb : BitVec 2) (bu : BitVec 1) (s : State) : Host.Outcome State Fault Refusal :=
  perform (.fmin gr d a lka b lkb bu) (runWarp gr (opFmin gr d a lka b lkb bu)) s
/-- FMAX (R242). -/
def execFmax (gr : Grp) (d : BitVec 6) (a : BitVec 6) (lka : BitVec 2) (b : BitVec 6) (lkb : BitVec 2) (bu : BitVec 1) (s : State) : Host.Outcome State Fault Refusal :=
  perform (.fmax gr d a lka b lkb bu) (runWarp gr (opFmax gr d a lka b lkb bu)) s
/-- FCMP (R243). -/
def execFcmp (gr : Grp) (p : BitVec 3) (c : BitVec 3) (a : BitVec 6) (lka : BitVec 2) (b : BitVec 6) (lkb : BitVec 2) (bu : BitVec 1) (s : State) : Host.Outcome State Fault Refusal :=
  perform (.fcmp gr p c a lka b lkb bu) (runWarp gr (opFcmp gr p c a lka b lkb bu)) s
/-- FCLASS (R244). -/
def execFclass (gr : Grp) (d : BitVec 6) (a : BitVec 6) (lka : BitVec 2) (s : State) : Host.Outcome State Fault Refusal :=
  perform (.fclass gr d a lka) (runWarp gr (opFclass gr d a lka)) s
/-- FRND (R245). -/
def execFrnd (gr : Grp) (d : BitVec 6) (a : BitVec 6) (lka : BitVec 2) (s : State) : Host.Outcome State Fault Refusal :=
  perform (.frnd gr d a lka) (runWarp gr (opFrnd gr d a lka)) s
/-- F2I (R246). -/
def execF2i (gr : Grp) (d : BitVec 6) (a : BitVec 6) (lka : BitVec 2) (u : BitVec 1) (s : State) : Host.Outcome State Fault Refusal :=
  perform (.f2i gr d a lka u) (runWarp gr (opF2i gr d a lka u)) s
/-- I2F (R246). -/
def execI2f (gr : Grp) (d : BitVec 6) (a : BitVec 6) (lka : BitVec 2) (u : BitVec 1) (s : State) : Host.Outcome State Fault Refusal :=
  perform (.i2f gr d a lka u) (runWarp gr (opI2f gr d a lka u)) s
/-- FCVT (R247). -/
def execFcvt (gr : Grp) (d : BitVec 6) (a : BitVec 6) (lka : BitVec 2) (r : BitVec 3) (t : BitVec 3) (q : BitVec 3) (s : State) : Host.Outcome State Fault Refusal :=
  perform (.fcvt gr d a lka r t q) (runWarp gr (opFcvt gr d a lka r t q)) s
/-- HADD2 (R252). -/
def execHadd2 (gr : Grp) (d : BitVec 6) (a : BitVec 6) (lka : BitVec 2) (b : BitVec 6) (lkb : BitVec 2) (bu : BitVec 1) (s : State) : Host.Outcome State Fault Refusal :=
  perform (.hadd2 gr d a lka b lkb bu) (runWarp gr (opHadd2 gr d a lka b lkb bu)) s
/-- HMUL2 (R252). -/
def execHmul2 (gr : Grp) (d : BitVec 6) (a : BitVec 6) (lka : BitVec 2) (b : BitVec 6) (lkb : BitVec 2) (bu : BitVec 1) (s : State) : Host.Outcome State Fault Refusal :=
  perform (.hmul2 gr d a lka b lkb bu) (runWarp gr (opHmul2 gr d a lka b lkb bu)) s
/-- HFMA2 (R252). -/
def execHfma2 (gr : Grp) (d : BitVec 6) (a : BitVec 6) (lka : BitVec 2) (b : BitVec 6) (lkb : BitVec 2) (bu : BitVec 1) (s : State) : Host.Outcome State Fault Refusal :=
  perform (.hfma2 gr d a lka b lkb bu) (runWarp gr (opHfma2 gr d a lka b lkb bu)) s
/-- DOT4 (R253). -/
def execDot4 (gr : Grp) (d : BitVec 6) (a : BitVec 6) (lka : BitVec 2) (b : BitVec 6) (lkb : BitVec 2) (bu : BitVec 1) (s : State) : Host.Outcome State Fault Refusal :=
  perform (.dot4 gr d a lka b lkb bu) (runWarp gr (opDot4 gr d a lka b lkb bu)) s
/-- FSCALE (R241). -/
def execFscale (gr : Grp) (d : BitVec 6) (a : BitVec 6) (lka : BitVec 2) (b : BitVec 6) (lkb : BitVec 2) (bu : BitVec 1) (s : State) : Host.Outcome State Fault Refusal :=
  perform (.fscale gr d a lka b lkb bu) (runWarp gr (opFscale gr d a lka b lkb bu)) s
/-- SHFL (R206). -/
def execShfl (gr : Grp) (d : BitVec 6) (a : BitVec 6) (lka : BitVec 2) (m : BitVec 2) (r : BitVec 1) (i : BitVec 5) (s : State) : Host.Outcome State Fault Refusal :=
  perform (.shfl gr d a lka m r i) (runWarp gr (opShfl gr d a lka m r i)) s
/-- VOTE (R207). -/
def execVote (gr : Grp) (d : BitVec 6) (a : BitVec 6) (lka : BitVec 2) (m : BitVec 2) (n : BitVec 1) (p : BitVec 3) (s : State) : Host.Outcome State Fault Refusal :=
  perform (.vote gr d a lka m n p) (runWarp gr (opVote gr d a lka m n p)) s
/-- MATCH (R208). -/
def execMatchV (gr : Grp) (d : BitVec 6) (a : BitVec 6) (lka : BitVec 2) (m : BitVec 2) (s : State) : Host.Outcome State Fault Refusal :=
  perform (.matchV gr d a lka m) (runWarp gr (opMatchV gr d a lka m)) s
/-- REDUX (R209). -/
def execRedux (gr : Grp) (d : BitVec 6) (a : BitVec 6) (lka : BitVec 2) (o : BitVec 3) (s : State) : Host.Outcome State Fault Refusal :=
  perform (.redux gr d a lka o) (runWarp gr (opRedux gr d a lka o)) s
/-- PSCAN (R209). -/
def execPscan (gr : Grp) (d : BitVec 6) (a : BitVec 6) (lka : BitVec 2) (o : BitVec 3) (e : BitVec 1) (s : State) : Host.Outcome State Fault Refusal :=
  perform (.pscan gr d a lka o e) (runWarp gr (opPscan gr d a lka o e)) s
/-- PART (R210). -/
def execPart (gr : Grp) (w : BitVec 3) (s : State) : Host.Outcome State Fault Refusal :=
  perform (.part gr w) (runWarp gr (opPart gr w)) s
/-- V2S (R212). -/
def execV2s (gr : Grp) (d : BitVec 6) (a : BitVec 6) (lka : BitVec 2) (sx : BitVec 1) (pair : BitVec 1) (first : BitVec 1) (lane : BitVec 5) (s : State) : Host.Outcome State Fault Refusal :=
  perform (.v2s gr d a lka sx pair first lane) (runWarp gr (opV2s gr d a lka sx pair first lane)) s
/-- S2V (R212). -/
def execS2v (gr : Grp) (d : BitVec 6) (a : BitVec 6) (p : BitVec 1) (s : State) : Host.Outcome State Fault Refusal :=
  perform (.s2v gr d a p) (runWarp gr (opS2v gr d a p)) s
/-- PMOV_AND (R213). -/
def execPmovAnd (gr : Grp) (d : BitVec 3) (a : BitVec 3) (n : BitVec 1) (m : BitVec 1) (p : BitVec 3) (s : State) : Host.Outcome State Fault Refusal :=
  perform (.pmovAnd gr d a n m p) (runWarp gr (opPmovAnd gr d a n m p)) s
/-- PMOV_OR (R213). -/
def execPmovOr (gr : Grp) (d : BitVec 3) (a : BitVec 3) (n : BitVec 1) (m : BitVec 1) (p : BitVec 3) (s : State) : Host.Outcome State Fault Refusal :=
  perform (.pmovOr gr d a n m p) (runWarp gr (opPmovOr gr d a n m p)) s
/-- PMOV_XOR (R213). -/
def execPmovXor (gr : Grp) (d : BitVec 3) (a : BitVec 3) (n : BitVec 1) (m : BitVec 1) (p : BitVec 3) (s : State) : Host.Outcome State Fault Refusal :=
  perform (.pmovXor gr d a n m p) (runWarp gr (opPmovXor gr d a n m p)) s
/-- PMOV_P2V (R213). -/
def execPmovP2v (gr : Grp) (d : BitVec 6) (a : BitVec 3) (s : State) : Host.Outcome State Fault Refusal :=
  perform (.pmovP2v gr d a) (runWarp gr (opPmovP2v gr d a)) s
/-- PMOV_V2P (R213). -/
def execPmovV2p (gr : Grp) (d : BitVec 3) (a : BitVec 6) (lka : BitVec 2) (s : State) : Host.Outcome State Fault Refusal :=
  perform (.pmovV2p gr d a lka) (runWarp gr (opPmovV2p gr d a lka)) s
/-- PMOV_P2S (R213). -/
def execPmovP2s (gr : Grp) (d : BitVec 6) (a : BitVec 3) (s : State) : Host.Outcome State Fault Refusal :=
  perform (.pmovP2s gr d a) (runWarp gr (opPmovP2s gr d a)) s
/-- PMOV_S2P (R213). -/
def execPmovS2p (gr : Grp) (d : BitVec 3) (a : BitVec 6) (s : State) : Host.Outcome State Fault Refusal :=
  perform (.pmovS2p gr d a) (runWarp gr (opPmovS2p gr d a)) s
/-- SADD (R202). -/
def execSadd (gr : Grp) (d : BitVec 6) (a : BitVec 6) (b : BitVec 6) (s : State) : Host.Outcome State Fault Refusal :=
  perform (.sadd gr d a b) (runWarp gr (opSadd gr d a b)) s
/-- SSUB (R202). -/
def execSsub (gr : Grp) (d : BitVec 6) (a : BitVec 6) (b : BitVec 6) (s : State) : Host.Outcome State Fault Refusal :=
  perform (.ssub gr d a b) (runWarp gr (opSsub gr d a b)) s
/-- SMUL (R202). -/
def execSmul (gr : Grp) (d : BitVec 6) (a : BitVec 6) (b : BitVec 6) (f : BitVec 2) (s : State) : Host.Outcome State Fault Refusal :=
  perform (.smul gr d a b f) (runWarp gr (opSmul gr d a b f)) s
/-- SAND (R202). -/
def execSand (gr : Grp) (d : BitVec 6) (a : BitVec 6) (b : BitVec 6) (s : State) : Host.Outcome State Fault Refusal :=
  perform (.sand gr d a b) (runWarp gr (opSand gr d a b)) s
/-- SOR (R202). -/
def execSor (gr : Grp) (d : BitVec 6) (a : BitVec 6) (b : BitVec 6) (s : State) : Host.Outcome State Fault Refusal :=
  perform (.sor gr d a b) (runWarp gr (opSor gr d a b)) s
/-- SXOR (R202). -/
def execSxor (gr : Grp) (d : BitVec 6) (a : BitVec 6) (b : BitVec 6) (s : State) : Host.Outcome State Fault Refusal :=
  perform (.sxor gr d a b) (runWarp gr (opSxor gr d a b)) s
/-- SANDN (R202). -/
def execSandn (gr : Grp) (d : BitVec 6) (a : BitVec 6) (b : BitVec 6) (s : State) : Host.Outcome State Fault Refusal :=
  perform (.sandn gr d a b) (runWarp gr (opSandn gr d a b)) s
/-- SSHL (R202). -/
def execSshl (gr : Grp) (d : BitVec 6) (a : BitVec 6) (b : BitVec 6) (s : State) : Host.Outcome State Fault Refusal :=
  perform (.sshl gr d a b) (runWarp gr (opSshl gr d a b)) s
/-- SSHR (R202). -/
def execSshr (gr : Grp) (d : BitVec 6) (a : BitVec 6) (b : BitVec 6) (s : State) : Host.Outcome State Fault Refusal :=
  perform (.sshr gr d a b) (runWarp gr (opSshr gr d a b)) s
/-- SSAR (R202). -/
def execSsar (gr : Grp) (d : BitVec 6) (a : BitVec 6) (b : BitVec 6) (s : State) : Host.Outcome State Fault Refusal :=
  perform (.ssar gr d a b) (runWarp gr (opSsar gr d a b)) s
/-- SROT (R202). -/
def execSrot (gr : Grp) (d : BitVec 6) (a : BitVec 6) (b : BitVec 6) (s : State) : Host.Outcome State Fault Refusal :=
  perform (.srot gr d a b) (runWarp gr (opSrot gr d a b)) s
/-- SCMP (R202). -/
def execScmp (gr : Grp) (d : BitVec 6) (a : BitVec 6) (b : BitVec 6) (w : BitVec 1) (c : BitVec 3) (s : State) : Host.Outcome State Fault Refusal :=
  perform (.scmp gr d a b w c) (runWarp gr (opScmp gr d a b w c)) s
/-- SMOV (R203). -/
def execSmov (gr : Grp) (d : BitVec 6) (a : BitVec 6) (s : State) : Host.Outcome State Fault Refusal :=
  perform (.smov gr d a) (runWarp gr (opSmov gr d a)) s
/-- SMOV_TLO (R203). -/
def execSmovTlo (gr : Grp) (d : BitVec 3) (a : BitVec 6) (s : State) : Host.Outcome State Fault Refusal :=
  perform (.smovTlo gr d a) (runWarp gr (opSmovTlo gr d a)) s
/-- SMOV_THI (R203). -/
def execSmovThi (gr : Grp) (d : BitVec 3) (a : BitVec 6) (s : State) : Host.Outcome State Fault Refusal :=
  perform (.smovThi gr d a) (runWarp gr (opSmovThi gr d a)) s
/-- SMOV_SLO (R203). -/
def execSmovSlo (gr : Grp) (d : BitVec 6) (a : BitVec 3) (s : State) : Host.Outcome State Fault Refusal :=
  perform (.smovSlo gr d a) (runWarp gr (opSmovSlo gr d a)) s
/-- SMOV_SHI (R203). -/
def execSmovShi (gr : Grp) (d : BitVec 6) (a : BitVec 3) (s : State) : Host.Outcome State Fault Refusal :=
  perform (.smovShi gr d a) (runWarp gr (opSmovShi gr d a)) s
/-- SMOVI (R204). -/
def execSmovi (gr : Grp) (d : BitVec 6) (i : BitVec 11) (s : State) : Host.Outcome State Fault Refusal :=
  perform (.smovi gr d i) (runWarp gr (opSmovi gr d i)) s
/-- SADDI (R204). -/
def execSaddi (gr : Grp) (d : BitVec 6) (a : BitVec 6) (i : BitVec 11) (s : State) : Host.Outcome State Fault Refusal :=
  perform (.saddi gr d a i) (runWarp gr (opSaddi gr d a i)) s
/-- SBFE (R202). -/
def execSbfe (gr : Grp) (d : BitVec 6) (a : BitVec 6) (b : BitVec 6) (u : BitVec 1) (s : State) : Host.Outcome State Fault Refusal :=
  perform (.sbfe gr d a b u) (runWarp gr (opSbfe gr d a b u)) s
/-- SMIN (R202). -/
def execSmin (gr : Grp) (d : BitVec 6) (a : BitVec 6) (b : BitVec 6) (u : BitVec 1) (s : State) : Host.Outcome State Fault Refusal :=
  perform (.smin gr d a b u) (runWarp gr (opSmin gr d a b u)) s
/-- SMAX (R202). -/
def execSmax (gr : Grp) (d : BitVec 6) (a : BitVec 6) (b : BitVec 6) (u : BitVec 1) (s : State) : Host.Outcome State Fault Refusal :=
  perform (.smax gr d a b u) (runWarp gr (opSmax gr d a b u)) s
/-- SPOPC (R202). -/
def execSpopc (gr : Grp) (d : BitVec 6) (a : BitVec 6) (s : State) : Host.Outcome State Fault Refusal :=
  perform (.spopc gr d a) (runWarp gr (opSpopc gr d a)) s
/-- SCLZ (R202). -/
def execSclz (gr : Grp) (d : BitVec 6) (a : BitVec 6) (s : State) : Host.Outcome State Fault Refusal :=
  perform (.sclz gr d a) (runWarp gr (opSclz gr d a)) s
/-- SCTZ (R202). -/
def execSctz (gr : Grp) (d : BitVec 6) (a : BitVec 6) (s : State) : Host.Outcome State Fault Refusal :=
  perform (.sctz gr d a) (runWarp gr (opSctz gr d a)) s
/-- SBREV (R202). -/
def execSbrev (gr : Grp) (d : BitVec 6) (a : BitVec 6) (s : State) : Host.Outcome State Fault Refusal :=
  perform (.sbrev gr d a) (runWarp gr (opSbrev gr d a)) s

end Sys2Proof.Machine
end

