-- ==== Sys2Proof/Machine/Copies.lean ====
section
/-! DEFINITION. Copy engines, batches and buffer handles (R104, R105, R116 to R135): the instructions, the ownership point, the
delivery of a copy, the acceptance of a waiting copy. -/

namespace Sys2Proof.Machine

/-! ## Parameters and the checks at issue (R119 to R122) -/

/-- An address of a copy, by the place it names (R27, R118). -/
inductive CopyPlace where
  | global | own (o : Nat) | window (core o : Nat) | refused | undecoded
  deriving DecidableEq, Repr
def copyPlace (va : Dword) : CopyPlace :=
  if !inAperture va then .global
  else
    let o := va.toNat - apertureBase
    if o < 0x80000 then .own o
    else if 0x100000000 ≤ o ∧ o < 0x104000000 then .window ((o - 0x100000000) / 0x80000) ((o - 0x100000000) % 0x80000)
    else if (0x200000000 ≤ o ∧ o < 0x200100000) ∨ (0x300000000 ≤ o ∧ o < 0x300020000) then .refused
    else .undecoded

/-- Source rows and columns, and output rows and columns, of an AXFORM (R120). -/
structure Shape where
  rows : Nat
  cols : Nat
  outRows : Nat
  outCols : Nat
  e : Nat
  t : Bool
def shapeOf (w0 : Dword) : Shape :=
  let rows := bits w0 11 0 + 1
  let cols := bits w0 23 12 + 1
  let t := w0.getLsbD 26
  let (r, c) := if t then (cols, rows) else (rows, cols)
  { rows := rows, cols := cols, outRows := r + bits w0 32 27, outCols := c + bits w0 38 33, e := 2 ^ bits w0 25 24, t := t }

/-- The fields of a copy's parameters (R119 to R121): length, handle, channel, and whether a reserved bit is set. -/
structure CopyParams where
  len : Nat
  handle : Option (BitVec 5)
  chan : BitVec 2
  ok : Bool
def copyParams (kind : BitVec 2) (w0 w1 : Dword) : CopyParams :=
  match kind.toNat with
  | 0 => { len := bits w0 31 0, handle := if w0.getLsbD 37 then some (BitVec.ofNat 5 (bits w0 36 32)) else none,
           chan := BitVec.ofNat 2 (bits w0 39 38), ok := bits w0 63 40 = 0 }
  | 1 => { len := (shapeOf w0).outRows * (shapeOf w0).outCols * (shapeOf w0).e,
           handle := if w0.getLsbD 44 then some (BitVec.ofNat 5 (bits w0 43 39)) else none,
           chan := BitVec.ofNat 2 (bits w0 46 45), ok := bits w0 63 47 = 0 }
  | _ => { len := (bits w0 15 0 + 1) * (4 * (bits w0 21 16 + 1)),
           handle := if w0.getLsbD 27 then some (BitVec.ofNat 5 (bits w0 26 22)) else none,
           chan := BitVec.ofNat 2 (bits w0 29 28), ok := bits w0 63 30 = 0 ∧ bits w1 31 19 = 0 }

/-- The source range that is known at issue (R122): its first byte is the source address; of a gather, whose elements are found as it runs, the
base alone (DESIGN CHOICE). -/
def sourceSpan (kind : BitVec 2) (w0 w1 : Dword) : Nat :=
  match kind.toNat with
  | 0 => bits w0 31 0
  | 1 => (shapeOf w0).cols * (shapeOf w0).e + ((shapeOf w0).rows - 1) * bits w1 31 0
  | _ => 1

/-- The local-store range of a copy address lies within its allocation (R28, R29, R122). -/
def localSpanOk (s : State) (va : Dword) (n : Nat) : Except Trap Unit :=
  match copyPlace va with
  | .own o =>
    match s.curBlock with
    | some b => if o + n > b.lsBytes then .error (trapAt 100 0x19 0 va) else .ok ()
    | none => .error (trapAt 100 0x19 0 va)
  | .window c o =>
    match windowBlock s (curCtx s) c with
    | some b => if o + n > b.lsBytes then .error (trapAt 100 0x19 1 va) else .ok ()
    | none => .error (trapAt 100 0x1A 0 va)
  | _ => .ok ()

/-- The alignments of a copy (R119 to R121). -/
def copyAligned (kind : BitVec 2) (dst src w0 w1 : Dword) : Bool :=
  match kind.toNat with
  | 0 => dst.toNat % 4 = 0 && src.toNat % 4 = 0 && bits w0 31 0 % 4 = 0
  | 1 => let e := (shapeOf w0).e; dst.toNat % e = 0 && src.toNat % e = 0 && bits w1 31 0 % e = 0
  | _ => dst.toNat % 4 = 0 && src.toNat % 4 = 0 && bits w1 63 32 % 4 = 0 && bits w1 18 0 % 4 = 0

/-- The checks at issue, in the order of R122's table, a destination before a source; a misalignment and an index array out of bounds name the
destination address (DESIGN CHOICE: the rule orders no checks and names no address). `k` is the number of the parameter register. -/
def copyCheck (s : State) (kind : BitVec 2) (dst src : Dword) (k : Nat) (w0 w1 : Dword) : Except Trap Unit := do
  let p := copyParams kind w0 w1
  let span := sourceSpan kind w0 w1
  if !p.ok ∨ (kind ≠ 0 ∧ k % 2 = 1) then .error (trap 0x01 0x10)
  if copyPlace dst = .refused then .error (trapAt 100 0x10 0x0D dst)
  if copyPlace src = .refused then .error (trapAt 100 0x10 0x0D src)
  if copyPlace dst = .undecoded then .error (trapAt 100 0x10 0x09 dst)
  if copyPlace src = .undecoded then .error (trapAt 100 0x10 0x09 src)
  if kind ≠ 0 ∧ !inAperture dst then .error (trapAt 100 0x19 0x02 dst)
  localSpanOk s dst p.len
  localSpanOk s src span
  if kind = 2 then
    match s.curBlock with
    | some b => if bits w1 18 0 + 4 * (bits w0 15 0 + 1) > b.lsBytes then .error (trapAt 100 0x19 0 dst)
    | none => .error (trapAt 100 0x19 0 dst)
  if !copyAligned kind dst src w0 w1 then .error (trapAt 100 0x18 0 dst)
  if kind = 0 ∧ dst.toNat < src.toNat + p.len ∧ src.toNat < dst.toNat + p.len then .error (trap 0x01 0x11)

/-! ## Acceptance (R116, R126, R129) -/

/-- The copies a channel holds, in acceptance order. -/
def chanCopies (k : Core) (chan : BitVec 2) : List Copy := k.copies.filter fun c => c.chan = chan

/-- The parameters of the copy that a warp is parked on. -/
def Warp.parkedCopy (w : Warp) : Option CopyParams :=
  match w.parked with
  | some (.acopy gr _ _ b) => some (copyParams 0 (w.getS (repB gr b.toNat w.resumed.rep)) 0)
  | some (.axform gr _ _ b) => some (copyParams 1 (w.getS (repB gr b.toNat w.resumed.rep)) 0)
  | some (.agather gr _ _ b) => some (copyParams 2 (w.getS (repB gr b.toNat w.resumed.rep)) 0)
  | _ => none

/-- The warp's bit in a handle's WAITE (R128). -/
def inWaitE (b : Block) (h : Nat) (w : Warp) : Bool := (b.handles.getD h {}).waitE.getLsbD w.idx
/-- A warp that was woken with the handle FREE still waits for room in its copy's channel: its copy comes first at the handle (R129). -/
def wokenFor (b : Block) (h : Nat) (w : Warp) : Bool :=
  w.bslot = b.bslot && w.wait = .copyRoom && inWaitE b h w && (w.parkedCopy.bind fun p => p.handle) = some (BitVec.ofNat 5 h)

/-- Another warp of the block waits with a copy for a handle, and comes first (R129). -/
def handleClaimed (s : State) (b : Block) (h : Nat) : Bool :=
  !(s.cur.woken && inWaitE b h s.cur)
    && s.core.warps.any fun w => wokenFor b h w || (w.bslot = b.bslot && w.wait = .copyHandle h)

/-- What a copy waits for, if anything: its handle, or room in its channel. -/
def copyWait (s : State) (b : Block) (p : CopyParams) : Option Wait :=
  match p.handle with
  | some h =>
    if (b.handles.getD h.toNat {}).state ≠ 0 ∨ handleClaimed s b h.toNat then some (.copyHandle h.toNat)
    else if (chanCopies s.core p.chan).length ≥ 16 then some .copyRoom else none
  | none => if (chanCopies s.core p.chan).length ≥ 16 then some .copyRoom else none

/-- The widest effective domain of what a copy names at issue (R98): the elements of a gather are not known yet, and its base stands for them
(DESIGN CHOICE). -/
def copyDomain (s : State) (dst src : Dword) (n m : Nat) : Domain := (rangeDomain s (curCtx s) dst n).max (rangeDomain s (curCtx s) src m)

/-- A copy is accepted (R116, R126, R129): it joins the open batch, its handle goes to FILLING. -/
def acceptCopy (s : State) (b : Block) (kind : BitVec 2) (dst src w0 w1 : Dword) (p : CopyParams) : State :=
  let c : Copy := { no := s.core.copyNo, chan := p.chan, kind := kind, dst := dst, src := src, w0 := w0, w1 := w1, len := p.len, handle := p.handle,
                    batch := b.openNo, bslot := some b.bslot, genLS := b.genLS, launch := s.cur.launch, block := s.cur.block,
                    rank := b.rank, warp := s.cur.idx, supv := s.cur.supervisor }
  let s := { s with core := { s.core with copies := s.core.copies ++ [c], copyNo := s.core.copyNo + 1 } }
  let s := s.modBlock s.core.id b.bslot fun b => { b with openUsed := true }
  match p.handle with
  | some h =>
    setHandle s s.core.id b.bslot h.toNat fun x =>
      { x with state := 1, err := none, chan := p.chan, kind := kind, len := p.len, deliv := 0,
               waitE := x.waitE &&& ~~~BitVec.ofNat 32 (2 ^ s.cur.idx) }
  | none => s

/-- A copy instruction (R117): its checks, then its acceptance or its wait. -/
def issueCopy (kind : BitVec 2) (dst src : Dword) (k : Nat) (s : State) : State × Perf :=
  let w0 := s.cur.getS k
  let w1 := if kind = 0 then 0 else s.cur.getS (k + 1)
  match copyCheck s kind dst src k w0 w1, s.curBlock with
  | .error t, _ => (s, .trap { t with lanes := s.cur.executing })
  | .ok _, none => (s, .done)
  | .ok _, some b =>
    let p := copyParams kind w0 w1
    match copyWait s b p with
    | some w =>
      let bit := BitVec.ofNat 32 (2 ^ s.cur.idx)
      (match w with
        | .copyHandle h => setHandle s s.core.id b.bslot h fun x => { x with waitE := x.waitE ||| bit }
        | _ => s, .wait w)
    | none =>
      let s := acceptCopy s b kind dst src w0 w1 p
      ({ s with cur := touch s.cur s.cur.executing (copyDomain s dst src p.len (sourceSpan kind w0 w1)) }, .done)

/-- The performance of a copy instruction of format U3 (R280). Its register ranges are checked before its parameters: AXFORM or AGATHER of s63
raises 0x01, subcode 0x05 (R187), not 0x10 (DESIGN CHOICE). -/
def copyBody (gr : Grp) (kind : BitVec 2) (d a b : BitVec 6) : State → State × Perf :=
  warpLevel gr (fun k => do
      sRange (repD gr d.toNat k) 1; sRange (repA gr a.toNat k) 1; sRange (repB gr b.toNat k) (if kind = 0 then 1 else 2)) fun k s =>
    issueCopy kind (s.cur.getS (repD gr d.toNat k)) (s.cur.getS (repA gr a.toNat k)) (repB gr b.toNat k) s

/-- ACOPY (R119). -/
def execAcopy (gr : Grp) (d : BitVec 6) (a : BitVec 6) (b : BitVec 6) (s : State) : Host.Outcome State Fault Refusal :=
  perform (.acopy gr d a b) (copyBody gr 0 d a b) s
/-- AXFORM (R120). -/
def execAxform (gr : Grp) (d : BitVec 6) (a : BitVec 6) (b : BitVec 6) (s : State) : Host.Outcome State Fault Refusal :=
  perform (.axform gr d a b) (copyBody gr 1 d a b) s
/-- AGATHER (R121). -/
def execAgather (gr : Grp) (d : BitVec 6) (a : BitVec 6) (b : BitVec 6) (s : State) : Host.Outcome State Fault Refusal :=
  perform (.agather gr d a b) (copyBody gr 2 d a b) s

/-! ## Batches (R126, R127) -/

def Block.outstandingBatches (b : Block) : Nat := b.openNo - b.retired

/-- Closes the open batch, unless it is empty (R126). -/
def closeBatch (s : State) (b : Block) : State :=
  if !b.openUsed then s
  else retireBatches (s.modBlock s.core.id b.bslot fun b => { b with openNo := b.openNo + 1, openUsed := false }) s.core.id b.bslot

/-- BCLOSE (R126). -/
def execBclose (gr : Grp) (s : State) : Host.Outcome State Fault Refusal :=
  perform (.bclose gr) (fun s =>
    match (if s.cur.active gr = 0 then none else s.curBlock) with
    | none => (endGroup gr s, .done)
    | some b =>
      if b.openUsed && b.outstandingBatches ≥ 16 then (s, .wait (.batch 15))
      else (endGroup gr (closeBatch s b), .done)) s

/-- A waiting WAITB of a lower warp index that the same retirement satisfies raises a failure first (R132). -/
def lowerWaitb (s : State) (b : Block) : Bool :=
  (s.blockWarps s.core.id b.bslot).any fun w => w.idx < s.cur.idx &&
    (match w.wait, w.parked with | .batch n, some (.waitb ..) => b.outstandingBatches ≤ n | _, _ => false)

/-- WAITB (R127, R132). Its close is remembered while it waits. -/
def execWaitb (gr : Grp) (n : BitVec 4) (s : State) : Host.Outcome State Fault Refusal :=
  perform (.waitb gr n) (fun s =>
    match (if s.cur.active gr = 0 then none else s.curBlock) with
    | none => (endGroup gr s, .done)
    | some b =>
      let closed := s.cur.resumed.done = 1
      if !closed && b.openUsed && b.outstandingBatches ≥ 16 then (s, .wait (.batch 15))
      else
        let s := if closed then s else closeBatch s b
        let b := (s.blockAt s.core.id b.bslot).getD b
        if b.outstandingBatches > n.toNat then
          ({ s with cur := s.cur.setDone 1 (Vector.replicate 32 0) }, .wait (.batch n.toNat))
        else
          let s := { s with cur := s.cur.clearResume }
          match (if lowerWaitb s b then none else b.batchFails.find? fun x => x.1 < b.retired) with
          | some (i, t) =>
            let s := s.modBlock s.core.id b.bslot fun b => { b with batchFails := b.batchFails.erase (i, t) }
            (s, .trap { t with lanes := s.cur.executing })
          | none => (endGroup gr s, .done)) s

/-! ## Handles (R128 to R130) -/

/-- HWAIT.FULL (R129, R132). -/
def execHwaitFull (gr : Grp) (h : BitVec 5) (s : State) : Host.Outcome State Fault Refusal :=
  perform (.hwaitFull gr h) (fun s =>
    match (if s.cur.active gr = 0 then none else s.curBlock) with
    | none => (endGroup gr s, .done)
    | some b =>
      let x := b.handles.getD h.toNat {}
      if x.state.toNat ≥ 2 ∨ s.cur.woken then
        match x.err with
        | some t => (s, .trap { t with lanes := s.cur.executing })
        | none => (endGroup gr s, .done)
      else (setHandle s s.core.id b.bslot h.toNat fun x => { x with waitF := x.waitF ||| BitVec.ofNat 32 (2 ^ s.cur.idx) }, .wait (.handleFull h.toNat))) s

/-- HWAIT.FREE (R129). -/
def execHwaitFree (gr : Grp) (h : BitVec 5) (s : State) : Host.Outcome State Fault Refusal :=
  perform (.hwaitFree gr h) (fun s =>
    match (if s.cur.active gr = 0 then none else s.curBlock) with
    | none => (endGroup gr s, .done)
    | some b =>
      if (b.handles.getD h.toNat {}).state = 0 ∨ s.cur.woken then (endGroup gr s, .done)
      else (setHandle s s.core.id b.bslot h.toNat fun x => { x with waitE := x.waitE ||| BitVec.ofNat 32 (2 ^ s.cur.idx) }, .wait (.handleFree h.toNat))) s

/-- HSET.DRAIN (R129). -/
def execHsetDrain (gr : Grp) (h : BitVec 5) (s : State) : Host.Outcome State Fault Refusal :=
  perform (.hsetDrain gr h) (fun s =>
    match (if s.cur.active gr = 0 then none else s.curBlock) with
    | none => (endGroup gr s, .done)
    | some b =>
      if s.cur.woken then (endGroup gr s, .done)
      else
        match (b.handles.getD h.toNat {}).state.toNat with
        | 0 => (s, .trap { trap 0x20 0x01 with lanes := s.cur.executing })
        | 1 =>
          (setHandle s s.core.id b.bslot h.toNat fun x => { x with waitF := x.waitF ||| BitVec.ofNat 32 (2 ^ s.cur.idx) }, .wait (.handleDrain h.toNat))
        | _ => (endGroup gr (setHandle s s.core.id b.bslot h.toNat fun x => { x with state := 3 }), .done)) s

/-- HSET.FREE (R129, R130): it waits for the warp's earlier accesses to be performed with respect to the core. -/
def execHsetFree (gr : Grp) (h : BitVec 5) (s : State) : Host.Outcome State Fault Refusal :=
  perform (.hsetFree gr h) (fun s =>
    match (if s.cur.active gr = 0 then none else s.curBlock) with
    | none => (endGroup gr s, .done)
    | some b =>
      if slowPending s s.core.id s.cur.slot allLanes then (s, .wait .retry)
      else
        match (b.handles.getD h.toNat {}).state.toNat with
        | 0 => (endGroup gr s, .done)
        | 1 => (s, .trap { trap 0x20 0x02 with lanes := s.cur.executing })
        | _ =>
          let s := setHandle s s.core.id b.bslot h.toNat fun x => { x with state := 0, err := none }
          (handleFree (endGroup gr s) s.core.id b.bslot h.toNat, .done)) s

/-- WPTR (R123, R129). -/
def execWptr (gr : Grp) (d : BitVec 6) (h : BitVec 5) (s : State) : Host.Outcome State Fault Refusal :=
  perform (.wptr gr d h) (fun s =>
    warpLevel gr (fun k => sRange (repD gr d.toNat k) 1) (fun k s =>
      let x := match s.curBlock with | some b => b.handles.getD h.toNat {} | none => {}
      match x.err with
      | some t => (s, .trap { t with lanes := s.cur.executing })
      | none =>
        let n := match x.state.toNat with | 0 => 0 | 1 => x.deliv | _ => x.len
        (landS s (repD gr d.toNat k) (BitVec.ofNat 64 n), .done)) s) s

/-! ## The engine -/

/-- What an engine access comes to: a result, a wait, a fault that suspends the operation (R131), a failure (R132). -/
inductive Eng (α : Type) where
  | ok (v : α)
  | wait
  | suspend (t : Trap)
  | fail (t : Trap)

/-- A trap that an engine meets suspends it when service can help, and else fails it (R131, R132, R301, R306). -/
def engTrap {α : Type} (t : Trap) : Eng α :=
  if t.held then .wait else
  match t.code.toNat, t.sub.toNat with
  | 0x10, 0x05 | 0x10, 0x09 | 0x10, 0x0D => .fail t
  | _, _ => if trapClass t.code t.sub = .service then .suspend t else .fail t

/-- The trap that a copy fails with (R132). -/
def copyTrap (t : Trap) : Trap :=
  match t.code.toNat with
  | 0x10 | 0x11 | 0x12 | 0x14 | 0x15 | 0x19 | 0x1A => t
  | 0x41 => { t with sub := 3, late := false }
  | 0x40 => { t with sub := 1, late := false }
  | _ => trapAt 100 0x20 0x05 t.addr

/-- The translation context of a copy: its block's (R117). -/
def copyCtx (s : State) (c : Nat) (x : Copy) : Ctx :=
  ctxOf s c ((s.launchOf x.launch).getD { id := x.launch, q := 0, pkt := {} }) x.block x.rank x.warp x.bslot x.supv
/-- A copy as the issuer of its accesses (R117, R133). -/
def copyIssuer (c : Nat) (x : Copy) : Issuer :=
  { core := c, launch := x.launch, block := x.block, warp := x.warp, holder := x.bslot.map fun b => ⟨c, b, x.genLS⟩,
    agent := .loc c 1 (x.chan.setWidth 3), isWarp := false }

/-- What an access's end is to an engine. -/
def engDone {α : Type} : Done α → Eng α
  | .ok v => .ok v
  | .wait => .wait
  | .late t => engTrap t

/-- An engine's access to a local store (R28, R29, R118, R132). `snap` stands for the own local store of an ended block. -/
def engLocal (s : State) (x : Ctx) (va : Dword) (n : Nat) (snap : Option (Memory × Nat)) : Eng (Nat × Nat × Nat × Option Memory) :=
  match copyPlace va with
  | .own o =>
    match snap, x.bslot.bind fun b => s.blockAt x.core b with
    | some (m, size), _ => if o + n > size then .fail (trapAt 100 0x19 0 va) else .ok (x.core, 0, o, some m)
    | none, some b => if o + n > b.lsBytes then .fail (trapAt 100 0x19 0 va) else .ok (x.core, b.bslot, o, none)
    | none, none => .fail (trapAt 100 0x19 0 va)
  | .window c o =>
    match windowBlock s x c with
    | some b => if o + n > b.lsBytes then .fail (trapAt 100 0x19 1 va) else .ok (coreNo (clusterOf x.core) c, b.bslot, o, none)
    | none => .fail (trapAt 100 0x1A 0 va)
  | .refused => .fail (trapAt 100 0x10 0x0D va)
  | _ => .fail (trapAt 100 0x10 0x09 va)

/-- An engine reads bytes of one line: a global source as a fresh load at its home (R105, R118). -/
def engRead (s : State) (x : Ctx) (i : Issuer) (va : Dword) (n : Nat) (snap : Option (Memory × Nat)) : State × Eng (List Byte) :=
  if inAperture va then
    match engLocal s x va n snap with
    | .ok (_, _, o, some m) => (s, .ok (m.bytes o n))
    | .ok (c, b, o, none) => (match localRead s c b o n with | (s, r) => (s, engDone r))
    | .wait => (s, .wait)
    | .suspend t => (s, .suspend t)
    | .fail t => (s, .fail t)
  else
    match translate s x va n .engRead with
    | (s, .error t) => (s, engTrap t)
    | (s, .ok a) =>
      match loadAcc s i a true 3 with
      | (s, .ok y) => (s, .ok y.bytes)
      | (s, .wait) => (s, .wait)
      | (s, .late t) => (s, engTrap t)

/-- What a place needs of ownership (R77, R104): a line to own, or nothing. -/
def ownPlace (a : Acc) : Option LineId :=
  if a.pub then none
  else match a.place with
    | .mem pa _ => some ⟨none, pa / 64⟩
    | .remote n addr => some ⟨some n, addr / 64⟩
    | _ => none

/-- The request of an engine for a line that it takes or owns. -/
def ownReq (i : Issuer) (id : LineId) (key : Nat) (op : HomeOp) : HeldReq :=
  { req := { agent := i.agent, holder := i.holder, pa := id.line * 64, key := key, op := op, ret := none, warp := none }, node := id.node }

/-- An engine writes bytes of one line (R79, R83, R104); false when they have come to lie in a line that it does not own. -/
def engWrite (s : State) (x : Ctx) (i : Issuer) (lines : List Owned) (va : Dword) (d : List Byte) : State × Eng Bool :=
  if inAperture va then
    match engLocal s x va d.length none with
    | .ok (c, b, o, _) => (match localWrite s c b o d with | (s, r) => (s, engDone (r.map fun _ => true)))
    | .wait => (s, .wait)
    | .suspend t => (s, .suspend t)
    | .fail t => (s, .fail t)
  else
    match translate s x va d.length .engWrite with
    | (s, .error t) => (s, engTrap t)
    | (s, .ok a) =>
      match ownPlace a with
      | none => (match storeAcc s i a d none with | (s, r) => (s, engDone (r.map fun _ => true)))
      | some id =>
        if !lines.any fun l => l.id = id then (s, .ok false)
        else if mustWait s (ownReq i id a.key (.store d)) [] then (s, .wait)
        else
          match a.place with
          | .mem pa _ =>
            match mergeGran s pa d a.key with
            | (s, true) => (tagLine s (pa / 64) (d.length = 64) none false, .ok true)
            | (s, false) => (s, .fail (trapAt 100 0x41 3 va))
          | .remote n addr =>
            match remoteFault s false n addr d.length va with
            | some t => (s, engTrap t)
            | none => (setNode (dropProxy s id) { nodeOf s n with mem := (nodeOf s n).mem.put addr d }, .ok true)
          | _ => (s, .ok true)

/-- An engine takes exclusive ownership of one destination line (R69, R104), as R69 serves an exclusive request; D of its page is set (R22). -/
def engOwn (s : State) (x : Ctx) (i : Issuer) (va : Dword) : State × Eng (Option Owned) :=
  match translate s x va 4 .engWrite with
  | (s, .error t) => (s, engTrap t)
  | (s, .ok a) =>
    match markDirty s x.core a with
    | (s, false) => (s, .wait)
    | (s, true) =>
      match ownPlace a with
      | none => (s, .ok none)
      | some id =>
        let late := match id.node with | some n => remoteFault s false n (id.line * 64) 64 va | none => none
        match late with
        | some t => (s, engTrap t)
        | none =>
          match claim s (ownReq i id a.key .trackExclusive) with
          | (s, false) => (s, .wait)
          | (s, true) =>
            let s := if id.node.isNone then recallLine s id.line true else dropProxy s id
            (s.modCore i.core fun k => l1Drop k id, .ok (some { id := id, va := va.toNat, page := a.page }))

/-- The first bytes of the lines of a range of addresses, ascending. -/
def lineAddrs (va n : Nat) : List Nat := if n = 0 then [] else (List.range ((va + n - 1) / 64 - va / 64 + 1)).map fun i => (va / 64 + i) * 64

/-- Takes lines in address order (R104) up to one that waits or fails; `got` are those taken. -/
def takeLines (s : State) (x : Ctx) (i : Issuer) (got : List Owned) : List Nat → State × List Owned × Eng Unit
  | [] => (s, got, .ok ())
  | a :: r =>
    if got.any fun o => o.va = a then takeLines s x i got r
    else
      match engOwn s x i (BitVec.ofNat 64 a) with
      | (s, .ok (some o)) => takeLines s x i (got ++ [o]) r
      | (s, .ok none) => takeLines s x i got r
      | (s, .wait) => (s, got, .wait)
      | (s, .suspend t) => (s, got, .suspend t)
      | (s, .fail t) => (s, got, .fail t)

/-- Puts a copy's record back in its place in the channel. -/
def setCopy (s : State) (c : Nat) (old new : Copy) : State :=
  s.modCore c fun k => { k with copies := k.copies.map fun y => if y.no = old.no then new else y }

/-- A copy meets a fault that service can help: its channel is suspended, a KIND 0 record is queued (R131, R391). -/
def suspendCopy (s : State) (c : Nat) (x : Copy) (t : Trap) : State :=
  let s := setCopy s c x { x with status := .queueFull t }
  pumpRecords (launchRecord s (copyRecord c x t 0) (some (.chan x.chan.toNat)))

/-- The head of a channel. -/
def chanHead (s : State) (c : Nat) (chan : BitVec 2) : Option Copy := (chanCopies (s.coreAt c) chan).head?

/-- The head copy of a channel takes its destination lines (R104); none when it cannot go on now. -/
def ownStep (s : State) (c : Nat) (chan : BitVec 2) : Option State :=
  match chanHead s c chan with
  | none => none
  | some x =>
    if x.owned || x.status ≠ .running then none
    else
      let todo := if inAperture x.dst then [] else lineAddrs (x.dst.toNat + x.deliv) (x.len - x.deliv)
      match takeLines s (copyCtx s c x) (copyIssuer c x) x.lines todo with
      | (s, got, .ok _) => some (setCopy s c x { x with owned := true, lines := got })
      | (s', got, .wait) => if got = x.lines then keepRecalls s s' else some (setCopy s' c x { x with lines := got })
      | (s, got, .suspend t) => (let y := { x with lines := got }; some (suspendCopy (setCopy s c x y) c y t))
      | (s, got, .fail t) => (let y := { x with lines := got }; some (failCopy (setCopy s c x y) c y (copyTrap t)))

/-- OWNERSHIP_POINT (R104): it also serves what waited at lines that were released meanwhile. -/
def execOwnershipPoint (core : Nat) (chan : Nat) (s : State) : Host.Outcome State Fault Refusal :=
  .next (pumpRecords (serveHeld ((ownStep s core (BitVec.ofNat 2 chan)).getD s)))

/-! ## Delivery (R119 to R125) -/

/-- A piece of a delivered chunk: pad bytes, or source bytes. -/
inductive Piece where
  | pad (d : List Byte)
  | src (va : Dword) (n : Nat)
  /-- Bytes of element `n` of a gather, from byte `off` of it. -/
  | elem (n off len : Nat)

/-- The pad bytes of an element size (R120). -/
def padBytes (v e : Nat) : List Byte := if e = 8 then leBytes 4 v ++ leBytes 4 v else leBytes e v

/-- The pieces that make `n` destination bytes from offset `off`. -/
def piecesOf (x : Copy) (off n : Nat) : List Piece :=
  match x.kind.toNat with
  | 0 => (granuleParts (n / 64 + 2) (x.src.toNat + off) n).map fun (a, k) => .src (BitVec.ofNat 64 a) k
  | 1 =>
    let sh := shapeOf x.w0
    (List.range (n / sh.e)).map fun k =>
      let at_ := off / sh.e + k
      let i := at_ / sh.outCols
      let j := at_ % sh.outCols
      let (si, sj) := if sh.t then (j, i) else (i, j)
      if si < sh.rows ∧ sj < sh.cols then .src (x.src + BitVec.ofNat 64 (si * bits x.w1 31 0 + sj * sh.e)) sh.e
      else .pad (padBytes (bits x.w1 63 32) sh.e)
  | _ =>
    let e := 4 * (bits x.w0 21 16 + 1)
    (List.range (n / 4)).map fun k => .elem ((off + 4 * k) / e) ((off + 4 * k) % e) 4

/-- An engine hit of the watches (R430): one KIND 3 record for the first access of an operation that hits each watch. The
result is the watches that have reported. -/
def engWatch (s : State) (launch : Word) (done : List Nat) (va : Dword) (n : Nat) (write : Bool) (r : Rec) : State × List Nat :=
  let space := match s.launchOf launch with | some l => bits l.ptroot 11 0 | none => 0
  if inAperture va then (s, done)
  else
    (watchHits s.mgmt space va n write true).foldl (fun (s, done) (k, a) =>
      if done.contains k then (s, done)
      else (launchRecord s { r with code := 0x3F, sub := if write then 3 else 2, kind := 3, addr := BitVec.ofNat 64 a }, done ++ [k])) (s, done)

/-- The index word of a gather's element (R121), read once for the element from the block's local store. -/
def gatherIndex (s : State) (c : Nat) (x : Copy) (n : Nat) : State × Eng Nat :=
  match x.elem with
  | some (k, i) => if k = n then (s, .ok i) else read s
  | none => read s
where
  read (s : State) : State × Eng Nat :=
    let o := bits x.w1 18 0 + 4 * n
    let (s, r) := match x.bslot with
      | some b => localRead s c b o 4
      | none => (s, .ok (x.snap.bytes o 4))
    (s, engDone (r.map leNat))

/-- The source of a piece: pad bytes, or an address and a length; the copy holds the index word of a gather's element. -/
def pieceSource (s : State) (c : Nat) (x : Copy) : Piece → State × Copy × Eng (List Byte ⊕ (Dword × Nat))
  | .pad d => (s, x, .ok (.inl d))
  | .src va n => (s, x, .ok (.inr (va, n)))
  | .elem n off len =>
    match gatherIndex s c x n with
    | (s, .ok i) => (s, { x with elem := some (n, i) }, .ok (.inr (x.src + BitVec.ofNat 64 (i * bits x.w1 63 32 + off), len)))
    | (s, .wait) => (s, x, .wait)
    | (s, .suspend t) => (s, x, .suspend t)
    | (s, .fail t) => (s, x, .fail t)

/-- Reads the pieces of a chunk in order. The copy takes the watches that report it (R430). -/
def readPieces (s : State) (c : Nat) (x : Copy) : List Piece → State × Copy × Eng (List Byte)
  | [] => (s, x, .ok [])
  | p :: r =>
    match pieceSource s c x p with
    | (s, x, .ok (.inl d)) =>
      match readPieces s c x r with
      | (s, x, .ok e) => (s, x, .ok (d ++ e))
      | y => y
    | (s, x, .ok (.inr (va, n))) =>
      match engRead s (copyCtx s c x) (copyIssuer c x) va n (if x.bslot.isNone then some (x.snap, x.snapBytes) else none) with
      | (s, .ok d) =>
        let (s, seen) := engWatch s x.launch x.watched va n false (copyRecord c x (trap 0x3F 2) 3)
        match readPieces s c { x with watched := seen } r with
        | (s, x, .ok e) => (s, x, .ok (d ++ e))
        | y => y
      | (s, .wait) => (s, x, .wait)
      | (s, .suspend t) => (s, x, .suspend t)
      | (s, .fail t) => (s, x, .fail t)
    | (s, x, .wait) => (s, x, .wait)
    | (s, x, .suspend t) => (s, x, .suspend t)
    | (s, x, .fail t) => (s, x, .fail t)

/-- A copy completes (R129): its handle goes to FULL, its batch may retire. -/
def finishCopy (s : State) (c : Nat) (x : Copy) : State :=
  let s := serveHeld (dropCopy s c x)
  match x.bslot with
  | none => s
  | some b =>
    let s := match x.handle with
      | some h => handleFull (setHandle s c b h.toNat fun y => { y with state := 2, deliv := x.len }) c b h.toNat
      | none => s
    retireBatches s c b

/-- The write-pointer after the next chunk: a destination address that is a multiple of 64, or LEN (R123). -/
def nextPointer (x : Copy) : Nat := Nat.min x.len (x.deliv + (64 - (x.dst.toNat + x.deliv) % 64))

/-- The head copy of a channel delivers its next chunk (R123); none when it cannot go on now. -/
def deliverStep (s : State) (c : Nat) (chan : BitVec 2) : Option State :=
  match chanHead s c chan with
  | none => none
  | some x =>
    if !x.owned || x.status ≠ .running then none
    else if x.deliv ≥ x.len then some (finishCopy s c x)
    else
      let n := nextPointer x - x.deliv
      let va := x.dst + BitVec.ofNat 64 x.deliv
      match readPieces s c x (piecesOf x x.deliv n) with
      | (t, _, .wait) => keepRecalls s t
      | (s, y, .suspend t) => (let y := { x with watched := y.watched }; some (suspendCopy (setCopy s c x y) c y t))
      | (s, _, .fail t) => some (failCopy s c x (copyTrap t))
      | (s', z, .ok d) =>
        match engWrite s' (copyCtx s' c x) (copyIssuer c x) x.lines va d with
        | (t, .wait) => keepRecalls s t
        | (s, .ok false) => some (setCopy s c x { x with owned := false, lines := x.lines.filter fun o => o.va ≠ va.toNat / 64 * 64 })
        | (s, .suspend t) => (let y := { x with watched := z.watched }; some (suspendCopy (setCopy s c x y) c y t))
        | (s, .fail t) => some (failCopy s c x (copyTrap t))
        | (s, .ok true) =>
          let (s, seen) := engWatch s x.launch z.watched va n true (copyRecord c x (trap 0x3F 3) 3)
          let y := { x with deliv := x.deliv + n, watched := seen, elem := z.elem, lines := x.lines.filter fun o => o.va ≠ va.toNat / 64 * 64 }
          let s := setCopy s c x y
          let s := match y.bslot, y.handle with
            | some b, some h => setHandle s c b h.toNat fun z => { z with deliv := y.deliv }
            | _, _ => s
          let s := serveHeld s
          some (if y.deliv ≥ y.len then finishCopy s c y else s)

/-- COPY_DELIVER (R123). -/
def execCopyDeliver (core : Nat) (chan : Nat) (s : State) : Host.Outcome State Fault Refusal :=
  .next (pumpRecords ((deliverStep s core (BitVec.ofNat 2 chan)).getD s))

/-! ## Acceptance of a waiting copy -/

/-- A warp's parked copy can be accepted now: its handle is FREE and it is the one that comes first there (R129), or its channel has room and
no older warp waits for it (R116, R171). -/
def acceptable (s : State) (c : Nat) (w : Warp) : Bool :=
  let ws := s.warpsOf c
  match w.wait, s.blockAt c w.bslot, w.parkedCopy with
  | .copyHandle h, some b, _ =>
    (b.handles.getD h {}).state = 0
      && ws.all fun v => !(v.bslot = w.bslot && v.wait = .copyHandle h && v.idx < w.idx) && !wokenFor b h v
  | .copyRoom, some _, some p =>
    (chanCopies (s.coreAt c) p.chan).length < 16
      && ws.all fun v => !(v.wait = .copyRoom && (v.parkedCopy.map fun q => q.chan) = some p.chan && s.olderWarp c v w)
  | _, _, _ => false

/-- COPY_ACCEPTED (R116, R129): the parked copy of a warp issues again and is accepted. -/
def execCopyAccepted (core : Nat) (slot : Nat) (s : State) : Host.Outcome State Fault Refusal :=
  let s := s.focus core slot
  if !s.isCur core slot || !acceptable s core s.cur then .next s
  else
    match s.cur.parked with
    | some (.acopy gr d a b) => execAcopy gr d a b { s with cur := { s.cur with woken := true } }
    | some (.axform gr d a b) => execAxform gr d a b { s with cur := { s.cur with woken := true } }
    | some (.agather gr d a b) => execAgather gr d a b { s with cur := { s.cur with woken := true } }
    | _ => .next s

end Sys2Proof.Machine
end

