-- ==== Sys2Proof/Machine/Memory.lean ====
section
/-! DEFINITION. Memory instructions: loads and stores (R258 to R265), atomics and reductions (R266 to R271), line locks (R272,
R273), PREFETCH (R274), fences (R275), CFENCE and PUBLISH (R276, R277), the stash (R278, R279). -/

namespace Sys2Proof.Machine

/-! ## Performing the checked lanes -/

/-- What performing the lanes of an instruction came to: values, late faults, and whether a lane had to wait. -/
structure Swept (α : Type) where
  vals : List (Fin 32 × α) := []
  late : List (Fin 32 × Trap) := []
  waits : Bool := false

/-- The lanes are performed in ascending order (R86, R100) up to one that must wait; a late fault stops no other lane (R388). -/
def sweepFrom {α : Type} (one : State → Fin 32 → Acc → State × Done α) : List (Fin 32 × Acc) → State → Swept α → State × Swept α
  | [], s, r => (s, r)
  | (l, a) :: rest, s, r =>
    match one s l a with
    | (s, .ok v) => sweepFrom one rest s { r with vals := r.vals ++ [(l, v)] }
    | (s, .late t) => sweepFrom one rest s { r with late := r.late ++ [(l, t)] }
    | (s, .wait) => (s, { r with waits := true })

/-- The completion mask and the kept values (R388). -/
def remember (s : State) (ls : List (Fin 32 × Dword)) : State :=
  let kept : Vector Dword 32 := Vector.ofFn fun l => match ls.find? fun x => x.1 = l with | some x => x.2 | none => 0
  { s with cur := s.cur.setDone (maskOf fun l => ls.any fun x => x.1 = l) kept }

/-- The trap of the late faults: the lowest lane's, naming the lanes that meet the same one (R259, R388). -/
def lateTrap (l : Fin 32) (t : Trap) (more : List (Fin 32 × Trap)) : Trap :=
  { t with late := true, lanes := maskOf fun k => k = l || more.any fun x => x.1 = k && x.2.code = t.code && x.2.sub = t.sub }

/-- The late faults that queued lanes have met are raised: none is left. -/
def dropLate (s : State) : State := { s with cur := { s.cur with resume := s.cur.resume.map fun x => { x with late := [] } } }

/-- The end of a sweep: it goes on, waits with the lanes performed so far kept, or raises its late fault with the lanes that
`keep` names kept (R388). -/
def settle {α : Type} (r : State × Swept α) (val : α → Dword) (redo : Bool) (keep : Fin 32 → Bool)
    (k : State → List (Fin 32 × α) → State × Perf) : State × Perf :=
  let (s, r) := r
  let vals := r.vals.map fun (l, v) => (l, val v)
  if r.waits then (if redo then s else remember s vals, .wait .retry)
  else
    match r.late with
    | [] => k s r.vals
    | (l, t) :: more => (if redo then s else remember (dropLate s) (vals.filter fun x => keep x.1), .trap (lateTrap l t more))

/-- The lane has been performed already (R388). -/
def doneLane (s : State) (l : Fin 32) : Bool := s.cur.resumed.done.getLsbD l.val
/-- A read-modify-write of a lane is performed once (R100, R388): the value it has returned already, or the late fault that it met at its home,
else it goes to its home now. -/
def onceLane (s : State) (l : Fin 32) (go : State → State × Done Dword) : State × Done Dword :=
  if doneLane s l then (s, .ok s.cur.resumed.kept[l])
  else match s.cur.resumed.late.find? fun x => x.1 = l.val with
    | some x => (s, .late x.2)
    | none => go s
/-- One lane as a mask. -/
def laneBit (l : Fin 32) : Mask := BitVec.ofNat 32 (2 ^ l.val)

/-- The lanes' accesses enter their threads' touched sets (R98). -/
def touchAll (s : State) (as : List (Fin 32 × Acc)) : State :=
  as.foldl (fun s x => { s with cur := touch s.cur (laneBit x.1) x.2.dom }) s

/-- A lane's reply tokens are taken by its thread (R97). -/
def giveTokens (s : State) (l : Fin 32) (tok : List Token) (dr : Bool) : State :=
  if tok = [] ∧ !dr then s
  else { s with cur := { s.cur with threads := s.cur.threads.set l (takeTokens s.cur.threads[l] tok dr) } }

/-- The tokens that the value of a line of device memory carries to the issuing core (R97). -/
def accTokens (s : State) (a : Acc) : List Token × Bool :=
  match a.parts with
  | ⟨.mem pa _, _, _, _, _, _, _⟩ :: _ => tokensAt s (pa / 64) (some s.core.id)
  | _ => ([], false)

/-- A tagged write takes a release epoch; it waits while that would run 32,768 ahead of the drained epoch, and a write that has to wait and
does not wait at its home gives its epoch back (R96). -/
def tagged {α : Type} (s : State) (on : Bool) (f : State → Option (BitVec 16) → State × Done α) : State × Done α :=
  if !on then f s none
  else if s.core.ahead s.core.relEpoch + 1 ≥ 32768 then (s, .wait)
  else
    let (s', e) := newTag s
    match f s' (some e) with
    | (x, .wait) =>
      (if x.home.held.any fun h => h.tag = some e && agentCore h.req.agent = some s.core.id then x
        else { x with core := { x.core with relEpoch := s.core.relEpoch } }, .wait)
    | r => r
/-- The bound on outstanding epochs lets 64 more tagged writes pass (R96): so many that no lane of a group waits for it. -/
def tagRoom (s : State) : Bool := s.core.ahead s.core.relEpoch + 64 < 32768

/-! ## Types (R258) -/

def tyBytes (t : BitVec 3) : Nat := match t.toNat with | 0 | 1 => 1 | 2 | 3 => 2 | 4 => 4 | 5 => 8 | _ => 16
def tyRegs (t : BitVec 3) : Nat := match t.toNat with | 5 => 2 | 6 | 7 => 4 | _ => 1

/-- The register words a loaded value fills, lowest first (R258). -/
def loadWords (t : BitVec 3) (b : List Byte) : List Word :=
  let x := leNat b
  match t.toNat with
  | 1 => [(BitVec.ofNat 8 x).signExtend 32]
  | 3 => [(BitVec.ofNat 16 x).signExtend 32]
  | _ => (List.range (tyRegs t)).map fun i => BitVec.ofNat 32 (x / 2 ^ (32 * i))

/-- The words of consecutive registers of a lane as a number, and its low bytes. -/
def regNat (w : Warp) (v n : Nat) (l : Fin 32) : Nat :=
  (List.range n).foldl (fun a i => a + (w.getV (v + i) l).toNat * 2 ^ (32 * i)) 0
def regBytes (w : Warp) (v : Nat) (t : BitVec 3) (l : Fin 32) : List Byte := leBytes (tyBytes t) (regNat w v (tyRegs t) l)

/-- Result words of a lane land in consecutive registers. -/
def landWords (s : State) (reg : Nat) (l : Fin 32) (ws : List Word) : State :=
  (ws.zip (List.range ws.length)).foldl (fun s (x, i) => landV s (reg + i) l x) s
/-- A read-modify-write's old value lands in one register or a pair. -/
def landOld (s : State) (reg n : Nat) (l : Fin 32) (x : Dword) : State :=
  landWords s reg l ((List.range n).map fun i => BitVec.ofNat 32 (x.toNat / 2 ^ (32 * i)))

/-- The register ranges of a memory group (R187, R188): `n` registers from v, and the index register. -/
def memRegs (g : Grp) (w : Warp) (v vi : BitVec 6) (n : Nat) : Except Trap Unit :=
  checkReps g fun k => do vRange w (repD g v.toNat k) n; vRange w (repA g vi.toNat k) 1

/-! ## Loads and stores -/

/-- The lanes' loads with their tokens (R59, R60, R97). -/
def loadLanes (fresh : Bool) (cpol : BitVec 3) (as : List (Fin 32 × Acc)) (s : State) : State × Swept Loaded :=
  sweepFrom (fun s l a =>
    match loadAcc s (curIssuer s (laneBit l)) a (fresh || a.fresh) cpol with
    | (s, .ok x) => if tokensWait s s.cur.threads[l] x.tokens then (s, .wait) else (giveTokens s l x.tokens x.drained, .ok x)
    | r => r) as s {}

/-- One repetition of a per-lane load: the checks, the loads, the landing, and the acquire when it is ordered (R260). -/
def loadRep (g : Grp) (reg : Nat) (t : BitVec 3) (fresh : Bool) (o : BitVec 1)
    (chk : State → Fin 32 → State × Except Trap Acc) (s : State) : State × Perf :=
  let m := s.cur.active g
  match checkLanes s (lanesOf m) chk with
  | (s, .error e) => (s, .trap e)
  | (s, .ok as) =>
    settle (loadLanes fresh (cpolOf g) as s) (fun _ => 0) true (fun _ => false) fun s vs =>
      let s := vs.foldl (fun s (l, x) => landWords s reg l (loadWords t x.bytes)) (touchAll s as)
      (if ordered s.cur o && m ≠ 0 then acquire s m (orderDomain s.cur as) else s, .done)

/-- One repetition of a per-lane store: the checks, the release's wait, the stores in ascending lane order (R261). -/
def storeRep (g : Grp) (reg : Nat) (t : BitVec 3) (o : BitVec 1) (chk : State → Fin 32 → State × Except Trap Acc) (s : State) :
    State × Perf :=
  let m := s.cur.active g
  match checkLanes s (lanesOf m) chk with
  | (s, .error e) => (s, .trap e)
  | (s, .ok as) =>
    let rel := ordered s.cur o && m ≠ 0
    let d := orderDomain s.cur as
    match (if rel then releaseGate s m d else .go) with
    | .trap e => (s, .trap e)
    | .wait => (s, .wait (.order m))
    | .go =>
      let one := fun (s : State) (l : Fin 32) (a : Acc) =>
        if doneLane s l then (s, Done.ok ())
        else tagged s (taggedLane s.cur l rel d) fun s e => storeAcc s (curIssuer s (laneBit l)) a (regBytes s.cur reg t l) e
      settle (sweepFrom one as s {}) (fun _ => 0) false (fun _ => false) fun s _ => (touchAll s as, .done)

/-- LD (R260). -/
def execLd (gr : Grp) (v : BitVec 6) (b : BitVec 6) (i : BitVec 6) (t : BitVec 3) (f : BitVec 1) (o : BitVec 1) (s : State) : Host.Outcome State Fault Refusal :=
  perform (.ld gr v b i t f o) (fun s =>
    match memRegs gr s.cur v i (tyRegs t) with
    | .error e => (s, .trap e)
    | .ok _ => ending gr (runReps gr (fun k s =>
        loadRep gr (repD gr v.toNat k) t (f = 1) o (fun s l =>
          checkLane s l (memAddr s.cur gr b.toNat (repA gr i.toNat k) l) (tyBytes t) (tyBytes t) .load) s) s)) s

/-- ST (R261). -/
def execSt (gr : Grp) (v : BitVec 6) (b : BitVec 6) (i : BitVec 6) (t : BitVec 3) (o : BitVec 1) (s : State) : Host.Outcome State Fault Refusal :=
  perform (.st gr v b i t o) (fun s =>
    match memRegs gr s.cur v i (tyRegs t) with
    | .error e => (s, .trap e)
    | .ok _ => ending gr (runReps gr (fun k s =>
        storeRep gr (repD gr v.toNat k) t o (fun s l =>
          checkLane s l (memAddr s.cur gr b.toNat (repA gr i.toNat k) l) (tyBytes t) (tyBytes t) .store) s) s)) s

/-- The aperture address of an LDL, STL, ATOML or REDL lane (R264, R271). -/
def localAddr (w : Warp) (g : Grp) (win : Bool) (sb vi : Nat) (l : Fin 32) : Dword :=
  let o := ((if sb = 0 then 0 else lo32 (w.getS sb)) + w.getV vi l + lo32 (offOf g)).setWidth 64
  BitVec.ofNat 64 (if win then apertureBase + 0x100000000 else apertureBase) + o

/-- One lane's checks in ATOML and REDL (R271): an offset beyond every allocation raises the trap of the bounds. -/
def checkOwn (s : State) (l : Fin 32) (va : Dword) (n : Nat) : State × Except Trap Acc :=
  match alignCheck va n with
  | .error t => (s, .error t)
  | .ok _ => if apertureBase + 0x80000 ≤ va.toNat then (s, .error (trapAt 75 0x19 0 va)) else checkLane s l va n n .atomic

/-- LDL (R264). -/
def execLdl (gr : Grp) (v : BitVec 6) (b : BitVec 6) (i : BitVec 6) (t : BitVec 3) (w : BitVec 1) (o : BitVec 1) (s : State) : Host.Outcome State Fault Refusal :=
  perform (.ldl gr v b i t w o) (fun s =>
    match memRegs gr s.cur v i (tyRegs t) with
    | .error e => (s, .trap e)
    | .ok _ => ending gr (runReps gr (fun k s =>
        loadRep gr (repD gr v.toNat k) t false o (fun s l =>
          checkLane s l (localAddr s.cur gr (w = 1) b.toNat (repA gr i.toNat k) l) (tyBytes t) (tyBytes t) .load) s) s)) s

/-- STL (R264). -/
def execStl (gr : Grp) (v : BitVec 6) (b : BitVec 6) (i : BitVec 6) (t : BitVec 3) (w : BitVec 1) (o : BitVec 1) (s : State) : Host.Outcome State Fault Refusal :=
  perform (.stl gr v b i t w o) (fun s =>
    match memRegs gr s.cur v i (tyRegs t) with
    | .error e => (s, .trap e)
    | .ok _ => ending gr (runReps gr (fun k s =>
        storeRep gr (repD gr v.toNat k) t o (fun s l =>
          checkLane s l (localAddr s.cur gr (w = 1) b.toNat (repA gr i.toNat k) l) (tyBytes t) (tyBytes t) .store) s) s)) s

/-! ## The private segment and the handler scratch area (R265) -/

/-- The private address of a lane (R265). -/
def privAddr (w : Warp) (g : Grp) (sb vi : Nat) (x : Bool) (l : Fin 32) : Nat :=
  ((if sb = 0 then 0 else w.getS sb) + (if x then (w.getV vi l).signExtend 64 else 0) + offOf g).toNat

/-- The access is to the handler's scratch area (R265). -/
def toScratch (w : Warp) (sb : Nat) (x : Bool) : Bool := w.inhdl && sb = 0 && !x

/-- The checks of a private access, or of a scratch access (R265). -/
def checkPrivate (s : State) (l : Fin 32) (scr : Bool) (p : Nat) (t : BitVec 3) (k : Kind) : State × Except Trap Acc :=
  let va := BitVec.ofNat 64 p
  let al := Nat.min (tyBytes t) 4
  if scr then
    if p + tyBytes t > 64 then (s, .error (trapAt 20 0x10 0x03 va))
    else if p % al ≠ 0 then (s, .error (trapAt 70 0x18 0x00 va))
    else (s, .ok { va := va, parts := [], dom := .core, key := 0, aperture := true })
  else privAcc s (laneCtx s l) (s.cur.threads[l].tid % 32) p va (tyBytes t) al k false

/-- Bytes of a lane's scratch area from byte `p`. -/
def scratchBytes (w : Warp) (l : Fin 32) (p n : Nat) : List Byte :=
  ((List.range n).map fun i => BitVec.ofNat 8 (((w.scratch.getD ((p + i) / 4) (Vector.replicate 32 0))[l]).toNat / 2 ^ (8 * ((p + i) % 4))))
/-- Bytes put into a lane's scratch area. -/
def scratchPut (w : Warp) (l : Fin 32) (p : Nat) : List Byte → Warp
  | [] => w
  | b :: r =>
    let old := ((w.scratch.getD (p / 4) (Vector.replicate 32 0))[l]).toNat
    let sh := 8 * (p % 4)
    scratchPut (w.setScratch (p / 4) l (BitVec.ofNat 32 (old - old / 2 ^ sh % 256 * 2 ^ sh + b.toNat * 2 ^ sh))) l (p + 1) r

/-- LDP (R265). -/
def execLdp (gr : Grp) (v : BitVec 6) (b : BitVec 6) (i : BitVec 6) (t : BitVec 3) (x : BitVec 1) (s : State) : Host.Outcome State Fault Refusal :=
  perform (.ldp gr v b i t x) (fun s =>
    match memRegs gr s.cur v i (tyRegs t) with
    | .error e => (s, .trap e)
    | .ok _ => ending gr (runReps gr (fun k s =>
        let scr := toScratch s.cur b.toNat (x = 1)
        let p := fun (w : Warp) l => privAddr w gr b.toNat (repA gr i.toNat k) (x = 1) l
        let chk := fun s l => checkPrivate s l scr (p s.cur l) t .load
        if scr then
          match checkLanes s (lanesOf (s.cur.active gr)) chk with
          | (s, .error e) => (s, .trap e)
          | (s, .ok as) =>
            let w := s.cur
            (as.foldl (fun s (l, _) => landWords s (repD gr v.toNat k) l (loadWords t (scratchBytes w l (p w l) (tyBytes t)))) s, .done)
        else loadRep gr (repD gr v.toNat k) t false 0 chk s) s)) s

/-- STP (R265). -/
def execStp (gr : Grp) (v : BitVec 6) (b : BitVec 6) (i : BitVec 6) (t : BitVec 3) (x : BitVec 1) (s : State) : Host.Outcome State Fault Refusal :=
  perform (.stp gr v b i t x) (fun s =>
    match memRegs gr s.cur v i (tyRegs t) with
    | .error e => (s, .trap e)
    | .ok _ => ending gr (runReps gr (fun k s =>
        let scr := toScratch s.cur b.toNat (x = 1)
        let p := fun (w : Warp) l => privAddr w gr b.toNat (repA gr i.toNat k) (x = 1) l
        let chk := fun s l => checkPrivate s l scr (p s.cur l) t .store
        if scr then
          match checkLanes s (lanesOf (s.cur.active gr)) chk with
          | (s, .error e) => (s, .trap e)
          | (s, .ok as) =>
            (as.foldl (fun s (l, _) => { s with cur := scratchPut s.cur l (p s.cur l) (regBytes s.cur (repD gr v.toNat k) t l) }) s, .done)
        else storeRep gr (repD gr v.toNat k) t 0 chk s) s)) s

/-! ## Uniform loads and stores (R263) -/

/-- The address of a warp-level access (R263). -/
def uniformAddr (w : Warp) (g : Grp) (sb : Nat) : Dword := w.getS sb + offOf g

/-- The uniform registers that a loaded value fills (R263). -/
def uniformWords (t : BitVec 3) (b : List Byte) : List Dword :=
  let x := leNat b
  match t.toNat with
  | 1 => [(BitVec.ofNat 8 x).signExtend 64]
  | 3 => [(BitVec.ofNat 16 x).signExtend 64]
  | 6 | 7 => [BitVec.ofNat 64 x, BitVec.ofNat 64 (x / 2 ^ 64)]
  | _ => [BitVec.ofNat 64 x]
def tySRegs (t : BitVec 3) : Nat := if t.toNat ≥ 6 then 2 else 1

/-- LDU (R263): an event of the lowest active lane, ordering for every lane of the warp (R449). -/
def execLdu (gr : Grp) (v : BitVec 6) (b : BitVec 6) (t : BitVec 3) (f : BitVec 1) (o : BitVec 1) (s : State) : Host.Outcome State Fault Refusal :=
  perform (.ldu gr v b t f o) (fun s =>
    warpLevel gr (fun k => sRange (repD gr v.toNat k) (tySRegs t)) (fun k s =>
      let l := lowLane (s.cur.active gr)
      match checkLanes s [l] (fun s l => checkLane s l (uniformAddr s.cur gr b.toNat) (tyBytes t) (tyBytes t) .load) with
      | (s, .error e) => (s, .trap e)
      | (s, .ok as) =>
        settle (loadLanes (f = 1) (cpolOf gr) as s) (fun _ => 0) true (fun _ => false) fun s vs =>
          let s := vs.foldl (fun s (_, x) =>
            ((uniformWords t x.bytes).zip [0, 1]).foldl (fun s (y, i) => landS s (repD gr v.toNat k + i) y) s) (touchAll s as)
          (if ordered s.cur o then acquire s allLanes (orderDomain s.cur as) else s, .done)) s) s

/-- STU (R263): a store of the lowest active lane; its release waits for every lane of the warp (R449). -/
def execStu (gr : Grp) (v : BitVec 6) (b : BitVec 6) (t : BitVec 3) (o : BitVec 1) (s : State) : Host.Outcome State Fault Refusal :=
  perform (.stu gr v b t o) (fun s =>
    warpLevel gr (fun k => sRange (repD gr v.toNat k) (tySRegs t)) (fun k s =>
      let l := lowLane (s.cur.active gr)
      match checkLanes s [l] (fun s l => checkLane s l (uniformAddr s.cur gr b.toNat) (tyBytes t) (tyBytes t) .store) with
      | (s, .error e) => (s, .trap e)
      | (s, .ok as) =>
        let rel := ordered s.cur o
        let d := orderDomain s.cur as
        match (if rel then releaseGate s allLanes d else .go) with
        | .trap e => (s, .trap e)
        | .wait => (s, .wait (.order allLanes))
        | .go =>
          let r := repD gr v.toNat k
          let x := (s.cur.getS r).toNat + (if t.toNat ≥ 6 then (s.cur.getS (r + 1)).toNat * 2 ^ 64 else 0)
          let one := fun (s : State) (l : Fin 32) (a : Acc) =>
            tagged s (taggedLane s.cur l rel d) fun s e => storeAcc s (curIssuer s allLanes) a (leBytes (tyBytes t) x) e
          settle (sweepFrom one as s {}) (fun _ => 0) true (fun _ => false) fun s _ => (touchAll s as, .done)) s) s

/-! ## Atomics and reductions -/

/-- The part of a read-modify-write's access: one word, or the pair of a 64-bit one. -/
def partOf (a : Acc) : Part := a.parts.headD { place := .ctx 0, off := 0, n := 0 }

/-- One repetition of a read-modify-write that returns its old value (R267, R268, R388): the release's wait, the lanes in
ascending order, each once, the acquire. `op` is the operation of a lane. -/
def rmwRep (g : Grp) (reg size : Nat) (o : BitVec 1) (op : State → Fin 32 → HomeOp) (fin : State → State)
    (chk : State → Fin 32 → State × Except Trap Acc) (s : State) : State × Perf :=
  let m := s.cur.active g
  match checkLanes s (lanesOf m) chk with
  | (s, .error e) => (s, .trap e)
  | (s, .ok as) =>
    let ord := ordered s.cur o && m ≠ 0
    let d := orderDomain s.cur as
    match (if ord then releaseGate s m d else .go) with
    | .trap e => (s, .trap e)
    | .wait => (s, .wait (.order m))
    | .go =>
      let one := fun (s : State) (l : Fin 32) (a : Acc) =>
        onceLane s l fun s =>
          let (tok, dr) := accTokens s a
          if tokensWait s s.cur.threads[l] tok then (s, .wait)
          else
            match tagged s (taggedLane s.cur l ord d) fun s e => rmwPart s (curIssuer s (laneBit l)) a (partOf a) (op s l) e false with
            | (s, .ok x) => (giveTokens s l tok dr, .ok x)
            | r => r
      settle (sweepFrom one as s {}) id false (fun _ => true) fun s vs =>
        let s := fin (touchAll s as)
        let s := vs.foldl (fun s (l, x) => landOld s reg (size / 4) l x) s
        (if ord then acquire s m d else s, .done)

/-- ATOM (R267). -/
def execAtom (gr : Grp) (v : BitVec 6) (b : BitVec 6) (i : BitVec 6) (c : BitVec 4) (o : BitVec 1) (s : State) : Host.Outcome State Fault Refusal :=
  perform (.atom gr v b i c o) (fun s =>
    let n := rmwBytes c
    match memRegs gr s.cur v i (n / 4) with
    | .error e => (s, .trap e)
    | .ok _ => ending gr (runReps gr (fun k s =>
        rmwRep gr (repD gr v.toNat k) n o (fun s l => .rmw c (BitVec.ofNat 64 (regNat s.cur (repD gr v.toNat k) (n / 4) l))) id
          (fun s l => checkLane s l (memAddr s.cur gr b.toNat (repA gr i.toNat k) l) n n .atomic (n = 8)) s) s)) s

/-- CAS (R268). -/
def execCas (gr : Grp) (v : BitVec 6) (b : BitVec 6) (i : BitVec 6) (w : BitVec 1) (o : BitVec 1) (s : State) : Host.Outcome State Fault Refusal :=
  perform (.cas gr v b i w o) (fun s =>
    let n := if w = 1 then 8 else 4
    match needThird gr, memRegs gr s.cur v i (n / 4), vRange s.cur gr.cReg.toNat (n / 4) with
    | .ok _, .ok _, .ok _ => ending gr (runReps gr (fun k s =>
        let r := repD gr v.toNat k
        rmwRep gr r n o
          (fun s l => .cas (w = 1) (BitVec.ofNat 64 (regNat s.cur r (n / 4) l)) (BitVec.ofNat 64 (regNat s.cur gr.cReg.toNat (n / 4) l)))
          (fun s => { s with cur := s.cur.lastUse s.cur.executing gr.lkc ((List.range (n / 4)).map fun j => gr.cReg.toNat + j) })
          (fun s l => checkLane s l (memAddr s.cur gr b.toNat (repA gr i.toNat k) l) n n .atomic (n = 8)) s) s)
    | .error e, _, _ => (s, .trap e)
    | _, .error e, _ => (s, .trap e)
    | _, _, .error e => (s, .trap e)) s

/-- The commutative format a RED code matches (R266); 0 for none. -/
def codeFmt (c : BitVec 3) : BitVec 3 := if c.toNat ≤ 5 then c + 1 else 0

/-- A RED's code must match its region's format (R269). -/
def redMatch (c : BitVec 3) (a : Acc) : Except Trap Unit :=
  if a.cfmt ≠ 0 ∧ a.cfmt ≠ codeFmt c then .error (trapAt 60 0x10 0x0E a.va) else .ok ()

/-- The access is a commutative update (R82): a normal page in a region whose CFMT is not none. -/
def commutes (a : Acc) : Bool :=
  a.cfmt ≠ 0 && !a.pub && (match (partOf a).place with | .mem _ unc => !unc | _ => false)

/-- One lane's reduction (R269). -/
def redLane (s : State) (l : Fin 32) (a : Acc) (c : BitVec 3) (x : Dword) (e : Option (BitVec 16)) : State × Done Dword :=
  let i := curIssuer s (laneBit l)
  match (partOf a).place with
  | .mem pa _ => if commutes a then redUpdate s i a pa x e else rmwPart s i a (partOf a) (.rmw (c.setWidth 4) x) e true
  | _ => rmwPart s i a (partOf a) (.rmw (c.setWidth 4) x) e true

/-- One repetition of a reduction without a return (R269): the release's wait, then the lanes; `one` performs a lane. -/
def redRep (g : Grp) (o : BitVec 1) (chk : State → Fin 32 → State × Except Trap Acc)
    (go : State → List (Fin 32 × Acc) → Bool → Domain → State × Perf) (s : State) : State × Perf :=
  let m := s.cur.active g
  match checkLanes s (lanesOf m) chk with
  | (s, .error e) => (s, .trap e)
  | (s, .ok as) =>
    let ord := ordered s.cur o && m ≠ 0
    let d := orderDomain s.cur as
    match (if ord then releaseGate s m d else .go) with
    | .trap e => (s, .trap e)
    | .wait => (s, .wait (.order m))
    | .go =>
      if as.any fun x => engineHolds s (curIssuer s m) x.2.va.toNat 8 then (s, .wait .retry) else go s as ord d

/-- The end of a reduction: in fence-strengthening mode a read-modify-write is an acquire too (R110). -/
def redEnd (m : Mask) (as : List (Fin 32 × Acc)) (s : State) : State × Perf :=
  let s := touchAll s as
  (if !s.cur.memrev && m ≠ 0 then acquire s m .core else s, .done)

/-- The lanes of a reduction, one by one, each once (R82, R100, R269, R388). -/
def redLanes (c : BitVec 3) (reg n : Nat) (m : Mask) (s : State) (as : List (Fin 32 × Acc)) (ord : Bool) (d : Domain) : State × Perf :=
  let one := fun (s : State) (l : Fin 32) (a : Acc) =>
    if doneLane s l then (s, Done.ok (0 : Dword))
    else tagged s (taggedLane s.cur l ord d) fun s e => redLane s l a c (BitVec.ofNat 64 (regNat s.cur reg (n / 4) l)) e
  settle (sweepFrom one as s {}) id false (fun _ => true) fun s _ => redEnd m as s

/-- RED (R269). -/
def execRed (gr : Grp) (v : BitVec 6) (b : BitVec 6) (i : BitVec 6) (c : BitVec 3) (o : BitVec 1) (s : State) : Host.Outcome State Fault Refusal :=
  perform (.red gr v b i c o) (fun s =>
    let n := rmwBytes (c.setWidth 4)
    match memRegs gr s.cur v i (n / 4) with
    | .error e => (s, .trap e)
    | .ok _ => ending gr (runReps gr (fun k s =>
        redRep gr o (fun s l => checkLane s l (memAddr s.cur gr b.toNat (repA gr i.toNat k) l) n n .atomic (n = 8) (redMatch c))
          (redLanes c (repD gr v.toNat k) n (s.cur.active gr)) s) s)) s

/-- The place of a partial of RED.HOME (R270): the remote node, or none, and the address of its element; none where the
operation is not combined in the core. -/
def homeElem (a : Acc) : Option (Option Nat × Nat) :=
  if a.cfmt = 0 || a.pub then none
  else match (partOf a).place with
    | .mem pa unc => if unc then none else some (none, pa)
    | .remote n addr => some (some n, addr)
    | _ => none

/-- The combined partial of some lanes' operands for one element, or one pair of BF16 elements (R61, R62, R270). -/
def homePartial (cfmt : BitVec 3) (xs : List Nat) : Dword :=
  let es := xs.foldl (fun es x => updateElems cfmt es (operandElems cfmt 0 x)) []
  BitVec.ofNat 64 (es.foldl (fun n e => n + e.partial_ cfmt * 2 ^ (8 * elemBytes cfmt * e.idx)) 0)

/-- RED.HOME's lanes (R270): those of one element are combined and leave as one partial, in ascending element address, under one
release epoch; other lanes are reductions at the home. -/
def redHomeLanes (c : BitVec 3) (reg n : Nat) (m : Mask) (s : State) (as : List (Fin 32 × Acc)) (ord : Bool) (d : Domain) : State × Perf :=
  let todo := as.filter fun x => !doneLane s x.1
  let comb := todo.filterMap fun (l, a) => (homeElem a).map fun p => (p, l, a)
  let elems := sortBy (fun p => p.2) (comb.map fun x => x.1).eraseDups
  let tag := comb.any fun x => taggedLane s.cur x.2.1 ord d
  if tag && s.core.ahead s.core.relEpoch + 1 ≥ 32768 then (s, .wait .retry) else
  let (s, e) := if tag then (let (s, e) := newTag s; (s, some e)) else (s, none)
  let (s, bad) := elems.foldl (fun (s, bad) p =>
    let mine := comb.filter fun x => x.1 = p
    match mine with
    | [] => (s, bad)
    | (_, _, a) :: _ =>
      let i := curIssuer s (maskOf fun k => mine.any fun x => x.2.1 = k)
      let x := homePartial a.cfmt (mine.map fun x => regNat s.cur reg (n / 4) x.2.1)
      match rmwPart s i a (partOf a) (.rmw (c.setWidth 4) x) e true with
      | (s, .late t) => (s, bad ++ mine.map fun x => (x.2.1, t))
      | (s, _) => (s, bad)) (s, ([] : List (Fin 32 × Trap)))
  let rest := as.filter fun x => (homeElem x.2).isNone
  let one := fun (s : State) (l : Fin 32) (a : Acc) =>
    if doneLane s l then (s, Done.ok (0 : Dword))
    else tagged s (taggedLane s.cur l ord d) fun s e => redLane s l a c (BitVec.ofNat 64 (regNat s.cur reg (n / 4) l)) e
  let (s, r) := sweepFrom one rest s {}
  let done := (as.filter fun x => (homeElem x.2).isSome && !bad.any fun y => y.1 = x.1).map fun x => (x.1, (0 : Dword))
  let r := { r with vals := r.vals ++ done, late := sortBy (fun x => x.1.val) (r.late ++ bad) }
  settle (s, r) id false (fun _ => true) fun s _ => redEnd m as s

/-- RED.HOME (R270). -/
def execRedHome (gr : Grp) (v : BitVec 6) (b : BitVec 6) (i : BitVec 6) (c : BitVec 3) (o : BitVec 1) (s : State) : Host.Outcome State Fault Refusal :=
  perform (.redHome gr v b i c o) (fun s =>
    let n := rmwBytes (c.setWidth 4)
    match memRegs gr s.cur v i (n / 4) with
    | .error e => (s, .trap e)
    | .ok _ => ending gr (runReps gr (fun k s =>
        redRep gr o (fun s l => checkLane s l (memAddr s.cur gr b.toNat (repA gr i.toNat k) l) n n .atomic (n = 8) (redMatch c))
          (redHomeLanes c (repD gr v.toNat k) n (s.cur.active gr)) s) s)) s

/-- ATOML (R271). -/
def execAtoml (gr : Grp) (v : BitVec 6) (b : BitVec 6) (i : BitVec 6) (c : BitVec 4) (s : State) : Host.Outcome State Fault Refusal :=
  perform (.atoml gr v b i c) (fun s =>
    let n := rmwBytes c
    match memRegs gr s.cur v i (n / 4) with
    | .error e => (s, .trap e)
    | .ok _ => ending gr (runReps gr (fun k s =>
        rmwRep gr (repD gr v.toNat k) n 0 (fun s l => .rmw c (BitVec.ofNat 64 (regNat s.cur (repD gr v.toNat k) (n / 4) l))) id
          (fun s l => checkOwn s l (localAddr s.cur gr false b.toNat (repA gr i.toNat k) l) n) s) s)) s

/-- REDL (R271). -/
def execRedl (gr : Grp) (v : BitVec 6) (b : BitVec 6) (i : BitVec 6) (c : BitVec 3) (s : State) : Host.Outcome State Fault Refusal :=
  perform (.redl gr v b i c) (fun s =>
    let n := rmwBytes (c.setWidth 4)
    match memRegs gr s.cur v i (n / 4) with
    | .error e => (s, .trap e)
    | .ok _ => ending gr (runReps gr (fun k s =>
        redRep gr 0 (fun s l => checkOwn s l (localAddr s.cur gr false b.toNat (repA gr i.toNat k) l) n)
          (redLanes c (repD gr v.toNat k) n (s.cur.active gr)) s) s)) s

/-! ## Line locks -/

/-- The locked lines of a line's slice and set at its home (R272); a remote device's slices are laid out as this device's (DESIGN CHOICE). -/
def lockSetUsed (s : State) (node : Option Nat) (line : Nat) : Nat :=
  let at_ := fun (k : Nat) => (dieOf s.mgmt (k * 64), sliceOf s.mgmt (k * 64), interfaceAddr s.mgmt (k * 64) / 64 % 64)
  ((locksOf s node).filter fun x => at_ x.1 = at_ line).length

/-- Puts the table of line locks of a home. -/
def setLocks (s : State) (node : Option Nat) (l : List (Nat × LockKey)) : State :=
  match node with
  | none => { s with home := { s.home with locks := l } }
  | some n => setNode s { nodeOf s n with locks := l }

/-- LOCK or UNLOCK of a line at its home (R272): the status. -/
def lockLine (s : State) (node : Option Nat) (line : Nat) (key : LockKey) (unlock : Bool) : State × Dword :=
  let ls := locksOf s node
  match assoc line ls with
  | some k =>
    if unlock then (if k = key then (serveHeld (setLocks s node (ls.filter fun x => x.1 ≠ line)), 1) else (s, 0))
    else (s, if k = key then 3 else 0)
  | none =>
    if unlock then (s, 0)
    else if lockSetUsed s node line ≥ 16 then (s, 2)
    else (setLocks s node (assocSet line key ls), 1)

/-- The lock of one lane, when its home serves it (R69, R272). The release tag of an UNLOCK is entered for its line (R96). -/
def lockLane (s : State) (l : Fin 32) (a : Acc) (unlock : Bool) (tag : Option (BitVec 16)) : State × Done Dword :=
  let i := curIssuer s (laneBit l)
  let key := i.holder.getD ⟨s.core.id, s.cur.bslot, 0⟩
  match (partOf a).place with
  | .mem pa _ =>
    let h : HeldReq := { req := { agent := i.agent, holder := i.holder, pa := pa, key := a.key, op := .read 4, ret := none, warp := none } }
    if mustWait s h s.home.held then (startRecall s (pa / 64) false, .wait)
    else
      let (s, x) := lockLine s none (pa / 64) key unlock
      (match tag with | none => s | some e => enterTag s s.core.id (pa / 64) e, .ok x)
  | .remote nd addr =>
    match remoteFault s false nd addr 4 a.va with
    | some t => (s, .late t)
    | none => (let (s, x) := lockLine s (some nd) (addr / 64) key unlock; (s, .ok x))
  | _ => (s, .ok 0)

/-- LOCK and UNLOCK of the active lanes in ascending order (R272). -/
def lockRep (g : Grp) (reg : Nat) (unlock : Bool) (chk : State → Fin 32 → State × Except Trap Acc) (s : State) : State × Perf :=
  let m := s.cur.active g
  match checkLanes s (lanesOf m) chk with
  | (s, .error e) => (s, .trap e)
  | (s, .ok as) =>
    let d := widest (as.map fun x => x.2.dom)
    let rel := (unlock || !s.cur.memrev) && m ≠ 0
    match (if rel then releaseGate s m d else .go) with
    | .trap e => (s, .trap e)
    | .wait => (s, .wait (.order m))
    | .go =>
      if as.any fun x => engineHolds s (curIssuer s m) x.2.va.toNat 4 then (s, .wait .retry)
      else
        let one := fun (s : State) (l : Fin 32) (a : Acc) =>
          onceLane s l fun s =>
            let (tok, dr) := accTokens s a
            if tokensWait s s.cur.threads[l] tok then (s, .wait)
            else
              match tagged s (taggedLane s.cur l rel (if s.cur.memrev then d else .core)) fun s e => lockLane s l a unlock e with
              | (s, .ok x) => (giveTokens s l tok dr, .ok x)
              | r => r
        settle (sweepFrom one as s {}) id false (fun _ => true) fun s vs =>
          let s := vs.foldl (fun s (l, x) => landV s reg l (lo32 x)) (touchAll s as)
          (if (!unlock || !s.cur.memrev) && m ≠ 0 then acquire s m d else s, .done)

/-- LOCK and UNLOCK are refused in a commutative region (R272). -/
def lockRegion (a : Acc) : Except Trap Unit := if a.cfmt ≠ 0 then .error (trapAt 60 0x10 0x0E a.va) else .ok ()

/-- LOCK (R272). -/
def execLock (gr : Grp) (v : BitVec 6) (b : BitVec 6) (i : BitVec 6) (s : State) : Host.Outcome State Fault Refusal :=
  perform (.lock gr v b i) (fun s =>
    match memRegs gr s.cur v i 1 with
    | .error e => (s, .trap e)
    | .ok _ => ending gr (runReps gr (fun k s =>
        lockRep gr (repD gr v.toNat k) false
          (fun s l => checkLane s l (memAddr s.cur gr b.toNat (repA gr i.toNat k) l) 4 4 .lock false lockRegion) s) s)) s

/-- UNLOCK (R272). -/
def execUnlock (gr : Grp) (v : BitVec 6) (b : BitVec 6) (i : BitVec 6) (s : State) : Host.Outcome State Fault Refusal :=
  perform (.unlock gr v b i) (fun s =>
    match memRegs gr s.cur v i 1 with
    | .error e => (s, .trap e)
    | .ok _ => ending gr (runReps gr (fun k s =>
        lockRep gr (repD gr v.toNat k) true
          (fun s l => checkLane s l (memAddr s.cur gr b.toNat (repA gr i.toNat k) l) 4 4 .lock false lockRegion) s) s)) s

/-! ## PREFETCH, fences, CFENCE, PUBLISH -/

/-- PREFETCH.LLC of a remote line (R274): its proxy copy is filled in this device's last-level cache; nothing where the home would refuse it. -/
def prefetchProxy (s : State) (i : Issuer) (a : Acc) (nd addr : Nat) (cpol : BitVec 3) : State :=
  let h : HeldReq := { req := { agent := i.agent, holder := i.holder, pa := addr, key := a.key, op := .read 64, ret := none, warp := none },
                       node := some nd }
  if (s.home.proxies.any fun x => x.id = ⟨some nd, addr / 64⟩) || (remoteFault s false nd addr 1 a.va).isSome || mustWait s h s.home.held then s
  else proxyFill s nd { id := ⟨some nd, addr / 64⟩, data := lineOf ((nodeOf s nd).mem.bytes (addr / 64 * 64) 64), pol := polOf cpol }

/-- PREFETCH of one lane (R274): fills the L1 as a stale-tolerant load does; nothing where the address would fault. With .LLC a line of device
memory stands in the slice of its home already (R46), and a remote line gets its proxy copy. -/
def prefetchLane (s : State) (l : Fin 32) (va : Dword) (llc : Bool) (cpol : BitVec 3) : State :=
  match resolve s (laneCtx s l) (s.cur.threads[l].tid % 32) va 1 1 .load with
  | (s, .error _) => s
  | (s, .ok a) =>
    let i := curIssuer s (laneBit l)
    match (if a.aperture then none else some (partOf a).place) with
    | some (.mem _ false) => if llc then s else (loadPart s i a (partOf a) false cpol).1
    | some (.remote nd addr) => if llc then prefetchProxy s i a nd addr cpol else (loadPart s i a (partOf a) false cpol).1
    | _ => s

/-- PREFETCH (R274). -/
def execPrefetch (gr : Grp) (b : BitVec 6) (i : BitVec 6) (f : BitVec 1) (s : State) : Host.Outcome State Fault Refusal :=
  perform (.prefetch gr b i f) (fun s =>
    match checkReps gr fun k => vRange s.cur (repA gr i.toNat k) 1 with
    | .error e => (s, .trap e)
    | .ok _ => ending gr (runReps gr (fun k s =>
        ((lanesOf (s.cur.active gr)).foldl (fun s l =>
          prefetchLane s l (memAddr s.cur gr b.toNat (repA gr i.toNat k) l) (f = 1) (cpolOf gr)) s, .done)) s)) s

/-- The release part of a fence (R98): every lane's own domain; then the touched sets are cleared and the spans begin. -/
def fenceRelease (s : State) (m : Mask) : Gate × State :=
  let gates := (lanesOf m).map fun l => releaseGate s (laneBit l) (touchedDomain s.cur (laneBit l))
  let isTrap := fun (g : Gate) => match g with | .trap _ => true | _ => false
  match gates.find? isTrap with
  | some g => (g, s)
  | none =>
    if gates.contains .wait then (.wait, s)
    else
      let open_ := fun (l : Fin 32) =>
        if m.getLsbD l.val then { s.cur.threads[l] with touched := none, span := some (touchedDomain s.cur (laneBit l)) } else s.cur.threads[l]
      (.go, { s with cur := { s.cur with threads := Vector.ofFn open_ } })

/-- FENCE.ACQ (R98). -/
def execFenceAcq (gr : Grp) (s : State) : Host.Outcome State Fault Refusal :=
  perform (.fenceAcq gr) (fun s =>
    let m := s.cur.active gr
    (endGroup gr (if m = 0 then s else acquire s m (touchedDomain s.cur m)), .done)) s

/-- FENCE.REL (R98). -/
def execFenceRel (gr : Grp) (s : State) : Host.Outcome State Fault Refusal :=
  perform (.fenceRel gr) (fun s =>
    let m := s.cur.active gr
    match fenceRelease s m with
    | (.trap t, s) => (s, .trap t)
    | (.wait, s) => (s, .wait (.order m))
    | (.go, s) => (endGroup gr s, .done)) s

/-- FENCE.SC (R98, R99). -/
def execFenceSc (gr : Grp) (s : State) : Host.Outcome State Fault Refusal :=
  perform (.fenceSc gr) (fun s =>
    let m := s.cur.active gr
    let d := touchedDomain s.cur m
    match fenceRelease s m with
    | (.trap t, s) => (s, .trap t)
    | (.wait, s) => (s, .wait (.order m))
    | (.go, s) => (endGroup gr (if m = 0 then s else acquire s m d), .done)) s

/-- CFENCE (R107, R276): the words that the warp has fetched are discarded. -/
def execCfence (gr : Grp) (s : State) : Host.Outcome State Fault Refusal :=
  perform (.cfence gr) (fun s => (endGroup gr { s with cur := { s.cur with ibuf := [] } }, .done)) s

/-- PUBLISH (R108, R277): it completes when every home has taken its lines. -/
def execPublish (gr : Grp) (s : State) : Host.Outcome State Fault Refusal :=
  perform (.publish gr) (fun s =>
    if s.cur.active gr = 0 then (endGroup gr s, .done)
    else
      match releaseGate s allLanes .system with
      | .trap t => (s, .trap t)
      | .wait => (s, .wait (.order allLanes))
      | .go =>
        match publishAll s s.cur.launch (some (s.cur.block, s.cur.idx)) with
        | (s, some t) => (s, .trap { t with lanes := s.cur.executing })
        | (s, none) => if s.curLaunch.pubLines.isEmpty then (endGroup gr s, .done) else (s, .wait .retry)) s

/-! ## The stash -/

/-- The region conditions of a mapping (R53). -/
def stashRegionOk (rs : List Region) (va : Dword) : Bool :=
  match regionOf rs va with
  | some r => r.cfmt = 0 && !r.own && !r.pub
  | none => true

/-- The translations of a mapping's 4 KiB units, first failure first (R278). -/
def stashPages (s : State) (c : Ctx) (rw : Bool) (gva : Dword) : Nat → Nat → State × Except Trap Unit
  | 0, _ => (s, .ok ())
  | n + 1, i =>
    match translate s c (gva + BitVec.ofNat 64 (i * 4096)) 4096 (if rw then .stashWrite else .stashRead) with
    | (s, .error t) => (s, .error t)
    | (s, .ok _) => stashPages s c rw gva n (i + 1)

/-- A parameter word of STASH.MAP is well formed (R278). -/
def stashParamOk (x : Dword) : Bool := !x.getLsbD 7 && bits x 63 17 = 0 && 1 ≤ bits x 15 8 && bits x 15 8 ≤ 128

/-- STASH.MAP's checks and its new entry (R52, R53, R278). -/
def stashMap (s : State) (gva x : Dword) : State × Except Trap Nat :=
  let loff := bits x 6 0
  let len := bits x 15 8
  let rw := x.getLsbD 16
  match s.curBlock with
  | none => (s, .error (trapAt 75 0x19 0 gva))
  | some b =>
    if gva.toNat % 4096 ≠ 0 then (s, .error (trapAt 70 0x18 0 gva))
    else if !stashParamOk x then (s, .error (trapAt 100 0x10 0x0F gva))
    else if (loff + len) * 4096 > b.lsBytes then (s, .error (trapAt 100 0x19 0 gva))
    else if (s.core.stash.any fun st => st.bslot = b.bslot && st.loff < loff + len && loff < st.loff + st.len) then
      (s, .error (trapAt 100 0x10 0x0F gva))
    else if !((List.range len).all fun i => stashRegionOk s.curLaunch.regions (gva + BitVec.ofNat 64 (i * 4096))) then
      (s, .error (trapAt 100 0x10 0x0B gva))
    else
      match stashPages s (curCtx s) rw gva len 0 with
      | (s, .error t) => (s, .error t)
      | (s, .ok _) =>
        match (List.range 16).find? fun e => !s.core.stash.any fun st => st.entry = e with
        | none => (s, .error (trapAt 100 0x10 0x0C gva))
        | some e =>
          ({ s with core := { s.core with stash := s.core.stash ++ [{ entry := e, rw := rw, bslot := b.bslot, loff := loff, len := len, gva := gva }] } },
            .ok e)

/-- STASH.MAP (R278). -/
def execStashMap (gr : Grp) (d : BitVec 6) (a : BitVec 6) (b : BitVec 6) (s : State) : Host.Outcome State Fault Refusal :=
  perform (.stashMap gr d a b) (fun s =>
    warpLevel gr (fun k => do sRange (repD gr d.toNat k) 1; sRange (repA gr a.toNat k) 1; sRange (repB gr b.toNat k) 1) (fun k s =>
      match stashMap s (s.cur.getS (repA gr a.toNat k)) (s.cur.getS (repB gr b.toNat k)) with
      | (s, .error t) => (s, .trap { t with lanes := s.cur.executing })
      | (s, .ok e) => ({ s with cur := s.cur.setS (repD gr d.toNat k) (BitVec.ofNat 64 e) }, .done)) s) s

/-- STASH.UNMAP (R279). -/
def execStashUnmap (gr : Grp) (a : BitVec 6) (s : State) : Host.Outcome State Fault Refusal :=
  perform (.stashUnmap gr a) (fun s =>
    warpLevel gr (fun k => sRange (repA gr a.toNat k) 1) (fun k s =>
      let x := s.cur.getS (repA gr a.toNat k)
      match s.core.stash.find? fun st => st.entry = x.toNat && st.bslot = s.cur.bslot with
      | some st => (unmapStash s s.core.id st, .done)
      | none => (s, .trap { trapAt 100 0x10 0x0F x with lanes := s.cur.executing })) s) s

end Sys2Proof.Machine
end

