-- ==== Sys2Proof/Machine/Sync.lean ====
section
/-! DEFINITION. Barriers (R92, R282 to R284), signal words (R285, R286), SOFTINT (R287). -/

namespace Sys2Proof.Machine

/-! ## Barriers -/

/-- Lanes arrive at a barrier (R282): the group ends, their BARPARK bits are set. -/
def arrive (g : Grp) (m : Mask) (b : BarId) (s : State) : State :=
  let s := endGroup g s
  let w := s.cur
  let at_ := fun (l : Fin 32) => if m.getLsbD l.val then b else w.parkAt[l]
  { s with cur := { w with barpark := w.barpark ||| m, parkAt := Vector.ofFn at_ } }

/-- BAR (R282). -/
def execBar (gr : Grp) (s : State) : Host.Outcome State Fault Refusal :=
  perform (.bar gr) (fun s =>
    let m := s.cur.active gr
    if m = 0 then (endGroup gr s, .done)
    else if s.cur.inhdl then (s, .trap (trap 0x02 0x06))
    else if slowPending s s.core.id s.cur.slot m then (s, .wait .retry)
    else (checkBarriers (arrive gr m .bar s) s.core.id s.cur.bslot s.cur.launch, .done)) s

/-- The phase of a named barrier: a block's, or one that a launch's blocks on the core share (R283). -/
def phaseOf (s : State) (core : Bool) (id : BitVec 4) : Phase :=
  if core then (match s.core.nbar.find? fun x => x.1 = s.cur.launch && x.2.1 = id with | some x => x.2.2 | none => {})
  else match s.curBlock with | some b => b.nbar.getD id.toNat {} | none => {}
def setPhase (s : State) (core : Bool) (id : BitVec 4) (p : Phase) : State :=
  if core then { s with core := { s.core with nbar := putBy (fun x => x.1 = s.cur.launch && x.2.1 = id) (s.cur.launch, id, p) s.core.nbar } }
  else s.modBlock s.core.id s.cur.bslot fun b => { b with nbar := b.nbar.setIfInBounds id.toNat p }

/-- NBAR (R283). -/
def execNbar (gr : Grp) (count : BitVec 10) (coreScope : BitVec 1) (id : BitVec 4) (s : State) : Host.Outcome State Fault Refusal :=
  perform (.nbar gr count coreScope id) (fun s =>
    let m := s.cur.active gr
    let core := coreScope = 1
    let n := count.toNat
    if m = 0 then (endGroup gr s, .done)
    else if n = 0 ∨ n > (if core then 16 else 32) then (s, .trap (trap 0x01 0x01))
    else if s.cur.inhdl then (s, .trap (trap 0x02 0x06))
    else
      let p := phaseOf s core id
      if p.isOpen ∧ p.count ≠ n then (s, .trap (trap 0x02 0x05))
      else if slowPending s s.core.id s.cur.slot m then (s, .wait .retry)
      else
        let s := if p.isOpen then s else setPhase s core id { isOpen := true, count := n }
        (checkBarriers (arrive gr m (if core then .core id else .block id) s) s.core.id s.cur.bslot s.cur.launch, .done)) s

/-- CBAR (R153, R284): a release at cluster domain, the arrival, and an acquire at cluster domain once every warp has arrived. -/
def execCbar (gr : Grp) (s : State) : Host.Outcome State Fault Refusal :=
  perform (.cbar gr) (fun s =>
    match collective gr s.cur with
    | .error t => (s, .trap t)
    | .ok _ =>
      let l := s.curLaunch
      let n := cohortOf l s.cur.block
      if s.cur.woken then (endGroup gr (acquire s allLanes .cluster), .done)
      else if l.broken.contains n then (s, .trap (trap 0x21 0x00))
      else
        match releaseGate s allLanes .cluster with
        | .trap t => (s, .trap t)
        | .wait => (s, .wait (.order allLanes))
        | .go => (checkCbar { s with cur := { s.cur.park (.cbar gr) with wait := .cbar } } l n, .raw)) s

/-! ## Signal words -/

/-- What names a word to its waiters: its remote node and its address; a local-store word by core, block slot and offset, beyond
every physical address. -/
def wordKey (a : Acc) : Option Nat × Nat :=
  match (partOf a).place with
  | .mem pa _ => (none, pa)
  | .remote n addr => (some n, addr)
  | .loc c b off => (none, 2 ^ 60 + c * 2 ^ 40 + b * 2 ^ 20 + off)
  | .host conn addr => (none, 2 ^ 61 + hostAddr conn addr)
  | .reg pa | .ctx pa => (none, pa)

/-- A write that a signal makes on a word wakes its waiters (R161, R286, R391): WAITS, agents that wait on RESP, wait items. -/
def wakeWord (s : State) (key : Option Nat × Nat) : State :=
  let due := fun (pa : Nat) => key = (none, pa)
  let s := s.mapAllWarps fun _ w =>
    match w.wait with
    | .signal n pa _ _ _ _ => if key = (n, pa) then w.wake else w
    | .resp pa t _ => if due pa then { w with wait := .resp pa t 0 } else w
    | _ => w
  let poll := fun (st : EngStatus) => match st with | .faulted r t _ => if due r then .faulted r t 0 else st | _ => st
  let ray := fun (r : Ray) => match r.status with | .faulted x t _ => if due x then { r with status := .faulted x t 0 } else r | _ => r
  let s := s.mapAllWarps fun _ w => if w.threads.any fun t => t.ray.isSome then
    { w with threads := w.threads.map fun t => { t with ray := t.ray.map ray } } else w
  let core := fun (k : Core) => { k with copies := k.copies.map fun c => { c with status := poll c.status }
                                         jobs := k.jobs.map fun j => { j with status := poll j.status } }
  { s with coll := { s.coll with roots := s.coll.roots.map fun (r : Root) => { r with status := poll r.status }
                                 members := s.coll.members.map fun (m : Member) => { m with status := poll m.status } }
           geom := { s.geom with passes := s.geom.passes.map fun (p : Pass) => { p with faults := p.faults.map fun x => (x.1, poll x.2) } }
           core := core s.core, cores := s.cores.map core, queues := s.queues.map fun q => if q.waitOn = some key then { q with prompt := true } else q }

/-- The check of a signal word's address (R285, R286): eight bytes; register space serves neither SIGNAL nor WAITS (R448). -/
def checkWord (s : State) (l : Fin 32) (va : Dword) (k : Kind) : State × Except Trap Acc := checkLane s l va 8 8 k true

/-- SIGNAL (R285). -/
def execSignal (gr : Grp) (a : BitVec 6) (b : BitVec 6) (o : BitVec 2) (s : State) : Host.Outcome State Fault Refusal :=
  perform (.signal gr a b o) (fun s =>
    warpLevel gr (fun k => do sRange (repA gr a.toNat k) 1; sRange (repB gr b.toNat k) 1) (fun k s =>
      let l := lowLane (s.cur.active gr)
      match checkLanes s [l] (fun s l => checkWord s l (s.cur.getS (repA gr a.toNat k)) .atomic) with
      | (s, .error t) => (s, .trap t)
      | (s, .ok as) =>
        let d := widest (as.map fun x => x.2.dom)
        match releaseGate s allLanes d with
        | .trap t => (s, .trap t)
        | .wait => (s, .wait (.order allLanes))
        | .go =>
          let op : BitVec 4 := if o = 0 then 1 else if o = 1 then 13 else 15
          let x := s.cur.getS (repB gr b.toNat k)
          let one := fun (s : State) (l : Fin 32) (acc : Acc) =>
            onceLane s 0 fun s =>
              let (tok, dr) := accTokens s acc
              match tagged s (d = .core || s.cur.threads[l].span = some .core) fun s e => rmwPart s (curIssuer s allLanes) acc (partOf acc) (.rmw op x) e false with
              | (s, .ok y) => (giveTokens s l tok dr, .ok y)
              | r => r
          settle (sweepFrom one as s {}) id false (fun _ => true) fun s _ =>
            (as.foldl (fun s y => wakeWord s (wordKey y.2)) (touchAll s as), .done)) s) s

/-- The conditions of WAITS and of wait items (R161, R286), unsigned. -/
def signalHolds (c : BitVec 2) (x y : Dword) : Bool :=
  match c.toNat with
  | 0 => y.toNat ≤ x.toNat
  | 1 => x = y
  | 2 => x ≠ y
  | _ => x.toNat < y.toNat

/-- WAITS (R286): every issue tests the word once. -/
def execWaits (gr : Grp) (d : BitVec 6) (a : BitVec 6) (b : BitVec 6) (c : BitVec 2) (s : State) : Host.Outcome State Fault Refusal :=
  perform (.waits gr d a b c) (fun s =>
    warpLevel gr (fun k => do sRange (repD gr d.toNat k) 1; sRange (repA gr a.toNat k) 1; sRange (repB gr b.toNat k) 1) (fun k s =>
      let l := lowLane (s.cur.active gr)
      match checkLanes s [l] (fun s l => checkWord s l (s.cur.getS (repA gr a.toNat k)) .data) with
      | (s, .error t) => (s, .trap t)
      | (s, .ok as) =>
        settle (loadLanes true 0 as s) (fun _ => 0) true (fun _ => false) fun s vs =>
          let x : Dword := match vs with | (_, y) :: _ => BitVec.ofNat 64 (leNat y.bytes) | [] => 0
          let y := s.cur.getS (repB gr b.toNat k)
          let key := match as with | (_, acc) :: _ => wordKey acc | [] => (none, 0)
          if signalHolds c x y then
            let s := touchAll { s with cur := s.cur.setS (repD gr d.toNat k) x } as
            (acquire s allLanes (widest (as.map fun x => x.2.dom)), .done)
          else (s, .wait (.signal key.1 key.2 0 c y s.clock))) s) s

/-- WAITS_POLL (R286): a parked WAITS tests its word again. -/
def execWaitsPoll (core : Nat) (slot : Nat) (s : State) : Host.Outcome State Fault Refusal :=
  .next (s.modWarp core slot fun w => match w.wait with | .signal .. => w.wake | _ => w)

/-! ## SOFTINT -/

/-- SOFTINT.Q (R287). -/
def execSoftintQ (gr : Grp) (a : BitVec 6) (b : BitVec 6) (s : State) : Host.Outcome State Fault Refusal :=
  perform (.softintQ gr a b) (fun s =>
    warpLevel gr (fun k => do sRange (repA gr a.toNat k) 1; sRange (repB gr b.toNat k) 1) (fun k s =>
      match releaseGate s allLanes .system with
      | .trap t => (s, .trap t)
      | .wait => (s, .wait (.order allLanes))
      | .go => ({ s with inputs := s.inputs ++ [.qwake (bits (s.cur.getS (repA gr a.toNat k)) 11 0)] }, .done)) s) s

/-- SOFTINT.M (R287). -/
def execSoftintM (gr : Grp) (b : BitVec 6) (s : State) : Host.Outcome State Fault Refusal :=
  perform (.softintM gr b) (fun s =>
    warpLevel gr (fun k => sRange (repB gr b.toNat k) 1) (fun k s =>
      if !s.cur.supervisor then (s, .trap (trap 0x03 0x03))
      else
        match releaseGate s allLanes .system with
        | .trap t => (s, .trap t)
        | .wait => (s, .wait (.order allLanes))
        | .go => ({ s with mgmt := { s.mgmt with wake := s.cur.getS (repB gr b.toNat k) } }, .done)) s) s

end Sys2Proof.Machine
end

