-- ==== Sys2Proof/Machine/Queue.lean ====
section
/-! DEFINITION. Queues and launches (R154 to R161, R35, R36, R219), placement (R137 to R139, R162 to R164, R220, R315),
pre-emption (R166, R167, R397), and the kills that software makes (R151, R155). -/

namespace Sys2Proof.Machine

/-! ## The queue's descriptor (R154) -/

namespace Queue
def word (q : Queue) (k : Nat) : Dword := q.desc.getD k 0
def enabled (q : Queue) : Bool := (q.word 0).getLsbD 0
def prio (q : Queue) : Nat := bits (q.word 0) 4 1
def ring (q : Queue) : Nat := 2 ^ bits (q.word 0) 11 7
def sup (q : Queue) : Bool := (q.word 0).getLsbD 12
def trapq (q : Queue) : Dword := q.word 4
/-- The physical address of the slot of the item at the head. -/
def slotAddr (q : Queue) : Nat := (q.word 1).toNat + 64 * (q.qhead.toNat % q.ring)
end Queue

/-! ## What the queue engine reads -/

/-- A number that no core has: the queue engine and the shading dies' tile units stand on none. -/
def noCore : Nat := 65536
/-- The queue engine as the issuer of an access. -/
def queueIssuer (s : State) (launch : Word) : Issuer :=
  { core := noCore, launch := launch, agent := .remote s.fabric.self, isWarp := false }

/-- The translation of a queue's own reads (R160, R161): it walks each time, having no core's TLBs. -/
def queueCtx (ptroot : Dword) (sup : Bool) (launch : Word := 0) (regions : List Region := []) : Ctx :=
  { core := noCore, tlb := false, bslot := none, launch := launch, block := 0, rank := 0, coh := 1, warpNo := 0, sup := sup, ptroot := ptroot,
    regions := regions, privBase := 0, privBytes := 0 }

def inRegisters (a : Acc) : Bool := a.parts.any fun p => match p.place with | .reg _ => true | _ => false

/-- The checks of an access by a unit of the device (R159, R161): aperture space and device register space are not served. -/
def devCheck (s : State) (c : Ctx) (va : Dword) (n : Nat) (k : Kind) : State × Except Trap Acc :=
  if inAperture va then (s, .error (trapAt 20 0x10 0x09 va))
  else
    match translate s c va n k with
    | (s, .error t) => (s, .error t)
    | (s, .ok a) => (s, if inRegisters a then .error (trapAt 52 0x10 0x05 va) else .ok a)

/-- A fresh read by a unit of the device of bytes of one line; `late` carries whatever keeps it from being performed. -/
def devLoad (s : State) (c : Ctx) (i : Issuer) (va : Dword) (n : Nat) : State × Done (List Byte) :=
  match devCheck s c va n .data with
  | (s, .error t) => (s, lateDone t)
  | (s, .ok a) => (match loadAcc s i a true 3 with | (s, r) => (s, r.map fun x => x.bytes))

/-- A fresh read of a range, line by line. -/
def devBytes (s : State) (c : Ctx) (i : Issuer) (va : Dword) (n : Nat) : State × Done (List Byte) :=
  (granules va.toNat n).foldl (fun (s, r) (a, k) =>
    match r with
    | .ok b => (match devLoad s c i (BitVec.ofNat 64 a) k with | (s, r) => (s, r.map fun d => b ++ d))
    | r => (s, r)) (s, .ok [])

/-- The 64 bytes of the item at a queue's head as a number (R155); an unreadable slot reads as an item of no kind. -/
def headItem (s : State) (q : Queue) : State × Nat :=
  match physRead s q.slotAddr 64 0 with
  | (s, .ok b) => (s, leNat b)
  | (s, .error _) => (s, 0)

/-- The item is a wait item whose every bit is in order (R161). -/
def isWait (x : Nat) : Bool :=
  x % 16 = 2 && bitsOf x 63 7 = 0 && x / 2 ^ 192 = 0 && bitsOf x 6 4 < 4

/-- An item stands at the head and may be looked at (R155, R389). -/
def headDue (s : State) (q : Queue) : Bool :=
  q.enabled && !q.stopped && q.qhead.toNat < q.qtail.toNat
    && !(s.records.any fun r => r.trapq = q.trapq.toNat && r.unit = none && (r.bytes.getD 2 0).toNat % 16 = 4)

/-- The record of a refused item (R390). -/
def refusal (status : Nat) (addr : Nat) (launch : Word) (gen : Word) : Rec :=
  { code := 0, sub := BitVec.ofNat 8 status, kind := 4, gen := gen, addr := BitVec.ofNat 64 addr, launch := launch,
    block := 0xFFFFFFFF, warp := 0xFFFF }

/-- The item at the head is consumed; the next one is at the head (R161), and the queue has had its turn among those of its level (R158). -/
def advanceHead (s : State) (q : Nat) : State :=
  let x := s.queueOf q
  { s.setQueue { x with qhead := x.qhead + 1, polled := s.clock, prompt := true, waitOn := none, retryAt := 0, tokens := [] } with
    levels := assocSet x.prio q s.levels }

/-- Every core's L1 as an acquire at system domain leaves it, private lines of earlier launches with it (R58, R89). -/
def launchAcquire (s : State) : State :=
  { s with core := { s.core with l1 := [] }, cores := s.cores.map fun k => { k with l1 := [] } }

/-- The wait item at a queue's head starts (R158, R161): once the tokens of its acquire are drained (R95, R97). -/
def startWait (s : State) (q : Nat) (tokens : List Token) : State :=
  if tokens.all (tokenDrained s) then launchAcquire (advanceHead s q)
  else s.setQueue { s.queueOf q with tokens := tokens, prompt := true, retryAt := s.clock + 64 }

/-- A wait item is refused (R161). -/
def refuseWait (s : State) (q : Nat) (va : Dword) : State :=
  let x := s.queueOf q
  queueRecord (s.setQueue { x with lasterr := 7, stopped := true, prompt := false, retryAt := 0 }) x.trapq (refusal 7 va.toNat 0 0)

/-- A test of the wait item at the head (R161). One that a home makes wait is made again. -/
def waitTest (s : State) (q : Nat) : State :=
  let x := s.queueOf q
  if !headDue s x then s
  else if x.tokens ≠ [] then startWait s q x.tokens
  else
    let (s, it) := headItem s x
    if !isWait it then s
    else
      let va : Dword := BitVec.ofNat 64 (bitsOf it 127 64)
      let again := s.setQueue { x with prompt := true, retryAt := s.clock + 64 }
      match (if va.toNat % 8 ≠ 0 then (s, .error (trapAt 70 0x18 0x00 va)) else devCheck s (queueCtx (x.word 2) x.sup) va 8 .data) with
      | (t, .error e) => if e.held then (keepRecalls again t).getD again else refuseWait t q va
      | (s, .ok a) =>
        match loadAcc s (queueIssuer s 0) a true 3 with
        | (t, .wait) => (keepRecalls again t).getD again
        | (s, .late _) => refuseWait s q va
        | (s, .ok y) =>
          if signalHolds (BitVec.ofNat 2 (bitsOf it 5 4)) (BitVec.ofNat 64 (leNat y.bytes)) (BitVec.ofNat 64 (bitsOf it 191 128)) then
            startWait s q y.tokens
          else s.setQueue { x with polled := s.clock, prompt := false, retryAt := 0, waitOn := some (wordKey a) }

/-- WAIT_ITEM_POLL (R161). -/
def execWaitItemPoll (q : Nat) (s : State) : Host.Outcome State Fault Refusal := .next (pumpRecords (waitTest s q))

/-- QWAKE (R155, R161). -/
def execQwake (q : Nat) (s : State) : Host.Outcome State Fault Refusal := .next (pumpRecords (waitTest s q))

/-! ## Launch packets (R159, R160, R219, R36) -/

/-- The fields of a launch packet. -/
def packetOf (x : Nat) : Packet :=
  { memrev := x.testBit 4, aff := BitVec.ofNat 3 (bitsOf x 7 5), ord := x.testBit 8, cores := BitVec.ofNat 2 (bitsOf x 10 9)
    ntid := bitsOf x 25 16 + 1, coh := bitsOf x 38 32 + 1, vgran := bitsOf x 42 39, nacc := bitsOf x 46 43, lsg := bitsOf x 54 47
    entry := BitVec.ofNat 64 (bitsOf x 127 64), args := BitVec.ofNat 64 (bitsOf x 191 128)
    gx := bitsOf x 223 192, gy := bitsOf x 239 224, gz := bitsOf x 255 240
    ext := BitVec.ofNat 64 (bitsOf x 319 256), handler := BitVec.ofNat 64 (bitsOf x 383 320)
    donesig := BitVec.ofNat 64 (bitsOf x 447 384), privsz := bitsOf x 462 448
    privb := BitVec.ofNat 64 (bitsOf x 504 464 * 65536) }

/-- The reserved bits of a launch packet are zero. -/
def packetReserved (x : Nat) : Bool :=
  bitsOf x 15 11 = 0 && bitsOf x 31 26 = 0 && bitsOf x 63 55 = 0 && !x.testBit 463 && bitsOf x 511 505 = 0

/-- The blocks of a launch. -/
def Packet.blocks (p : Packet) : Nat := p.gx * p.gy * p.gz
/-- The warps of a block (R137). -/
def Packet.warps (p : Packet) : Nat := (p.ntid + 31) / 32

/-- A packet that status 0x01 refuses, before the extension is read. -/
def badPacket (x : Nat) : Bool :=
  let p := packetOf x
  x % 16 ≠ 1 || !packetReserved x || p.aff.toNat > 2 || p.cores = 3 || p.vgran = 0 || p.vgran > 8 || p.nacc > 8 || p.lsg > 128
    || p.gx = 0 || p.gy = 0 || p.gz = 0 || p.entry.toNat % 4 ≠ 0 || p.ext.toNat % 64 ≠ 0 || (p.aff ≠ 0 && p.ext = 0)
    || p.blocks ≥ 2 ^ 32 || (p.nacc > 0 && p.cores ≠ 0)

/-- An entry of the region table (R35, R36): none when it is not valid; an error when it refuses the launch. -/
def regionEntry (idx x : Nat) : Except Unit (Option Region) :=
  if !x.testBit 0 then .ok none
  else
    let dom := bitsOf x 3 1
    let base := (sext57 (BitVec.ofNat 64 (bitsOf x 56 21 * 0x200000))).toNat
    let n := bitsOf x 99 64 * 0x200000
    let own := x.testBit 8
    let top := if base < 2 ^ 56 then 2 ^ 56 else apertureBase
    if dom > 4 || bitsOf x 6 4 = 7 || bitsOf x 20 10 ≠ 0 || bitsOf x 63 57 ≠ 0 || bitsOf x 127 100 ≠ 0 || n = 0 || base + n > top
        || (bitsOf x 6 4 ≠ 0 && own) || (x.testBit 9 && dom ≠ 4) || (own && dom ≠ 3) then .error ()
    else .ok (some { idx := idx, dom := domainOf dom, cfmt := BitVec.ofNat 3 (bitsOf x 6 4), fresh := x.testBit 7, own := own,
                     pub := x.testBit 9, base := base, bytes := n })

/-- The region table of a launch (R35, R36); none when it is bad. -/
def readRegions (s : State) (regtab : Dword) : State × Option (List Region) :=
  match physRead s (bits regtab 51 10 * 1024) 1024 0 with
  | (s, .error _) => (s, none)
  | (s, .ok b) =>
    let one := fun (n : Nat) => regionEntry n (leNat ((b.drop (16 * n)).take 16))
    (s, (List.range 64).foldl (fun r n => r.bind fun l => match one n with
      | .ok (some x) => some (l ++ [x]) | .ok none => some l | .error _ => none) (some []))

/-- A valid operation entry of the microprogram image breaks R219. -/
def badOp (x : Dword) : Bool := bits x 62 40 ≠ 0 || (bits x 37 36 ≠ 0 && bits x 39 38 ≠ 0)

/-- The slots of a microprogram image (R219), read fresh under the launch's translation. -/
def readImage (s : State) (c : Ctx) (i : Issuer) (va : Dword) : State × Done (List (Nat × Vector Dword 32)) :=
  match devBytes s c i va 64 with
  | (s, .wait) => (s, .wait)
  | (s, .late t) => (s, .late t)
  | (s, .ok h) =>
    let present := (List.range 48).filter fun n => (leNat (h.take 8)).testBit n
    match devBytes s c i (va + 64) (256 * present.length) with
    | (s, .wait) => (s, .wait)
    | (s, .late t) => (s, .late t)
    | (s, .ok d) =>
      let rec_ := fun (k : Nat) => Vector.ofFn fun (j : Fin 32) => BitVec.ofNat 64 (leNat ((d.drop (256 * k + 8 * j.val)).take 8))
      (s, .ok (present.zipIdx.map fun (n, k) => (n, rec_ k)))

/-! ## Where blocks may go (R162, R163, R220) -/

/-- The die of a cluster is of the kind that CORES names (R159). -/
def coresAllow (m : Mgmt) (cores : BitVec 2) (cl : Nat) : Bool :=
  let ty := m.flash.sock.getD (cl / 2) 0
  (ty = 2 && cores ≠ 1) || (ty = 1 && cores ≠ 0)

/-- The cluster is one of the device's (R160). -/
def clusterExists (m : Mgmt) (cl : Nat) : Bool :=
  cl < 36 && (m.flash.sock.getD (cl / 2) 0 = 2 || (m.flash.sock.getD (cl / 2) 0 = 1 && cl % 2 = 0))

/-- The permitted list (R163), as clusters with their permitted cores, ascending. -/
def permitted (m : Mgmt) (p : Packet) (aclu : Nat) (mask : BitVec 128) : List (Nat × List Nat) :=
  let clusters := (m.clusters.filter fun cl => coresAllow m p.cores cl).filter fun cl => p.aff ≠ 2 || cl = aclu
  (clusters.map fun cl => (cl, (List.range 128).filter fun c => p.aff ≠ 2 || mask.getLsbD c)).filter fun x => x.2 ≠ []

/-- What a launch asks of a core for one block (R162). -/
def blockFitsCore (p : Packet) : Bool :=
  p.warps ≤ 64 && p.warps * p.vgran ≤ 256 && p.lsg ≤ 128 && p.warps * p.nacc ≤ 8

/-- The granules and accumulators that a core's warps hold; those of pre-empted warps count as free (R162, R167). -/
def coreHolds (ws : List Warp) : Nat × Nat :=
  ws.foldl (fun (v, a) w => if w.preempted then (v, a) else (v + w.vgran, a + w.nacc)) (0, 0)

/-- A core can hold one more block of a launch (R162, R220). -/
def canHold (s : State) (l : Launch) (c : Nat) : Bool :=
  let k := s.coreAt c
  let ws := s.warpsOf c
  let (v, a) := coreHolds ws
  let w := l.pkt.warps
  k.blocks.length < 16 && ws.length + w ≤ 64 && v + w * l.pkt.vgran ≤ 256 && a + w * l.pkt.nacc ≤ 8
    && (k.blocks.foldl (fun n b => n + b.lsBytes / 4096) 0) + l.pkt.lsg ≤ 128
    && (l.micro = 0 || !(k.blocks.any fun b => b.launch ≠ l.id && match s.launchOf b.launch with | some x => x.micro ≠ 0 | none => false))

/-- The context-image slots of a launch's pool that are taken (R154). -/
def poolTaken (s : State) (l : Launch) : List Nat :=
  let mine := fun (w : Warp) => match s.launchOf w.launch with | some x => x.ctxpool = l.ctxpool && x.nimg = l.nimg | none => false
  s.allCores.flatMap fun k => ((s.warpsOf k.id).filter mine).map fun w => (w.ctxBase.toNat - l.ctxpool.toNat) / 0x20000
/-- The free slots of the pool, ascending, at most `n`. -/
def poolFree (s : State) (l : Launch) (n : Nat) : List Nat :=
  let taken := poolTaken s l
  ((List.range (Nat.min l.nimg (taken.length + n))).filter fun k => !taken.contains k).take n

/-- The parity of the bits that a row selects (R163). -/
def parity (row x : Nat) : Nat := (popcount (BitVec.ofNat 16 (Nat.land row x))) % 2
/-- The hash of a block's coordinates (R163). -/
def xorHash (xrow : BitVec 96) (x : Nat) : Nat :=
  ((List.range 6).map fun i => parity (bits xrow (16 * i + 15) (16 * i)) x * 2 ^ i).foldl (· + ·) 0

/-- Base-die hops between sockets (R72). -/
def hops (n m : Nat) : Nat := (n / 6 - m / 6) + (m / 6 - n / 6) + (n % 6 - m % 6) + (m % 6 - n % 6)

/-- The order in which a cohort's clusters are tried, with the cores of each in order (R163). -/
def clusterOrder (m : Mgmt) (l : Launch) (b : Nat) : List (Nat × List Nat) :=
  let perm := (permitted m l.pkt l.aclu l.mask).filter fun y => match l.die with | some d => y.1 / 2 = d | none => true
  if l.pkt.aff = 1 then
    let x := b / l.pkt.gx % l.pkt.gy % 256 * 256 + b % l.pkt.gx % 256
    let h := xorHash l.xrow x
    let die := m.memDies.getD (h * m.memDies.length / 64) 0
    let slice := h % 16
    let near := fun (c : Nat) => c / 8 = slice
    (sortBy (fun (y : Nat × List Nat) => hops (y.1 / 2) die) perm).map fun y => (y.1, (y.2.filter near) ++ y.2.filter fun c => !near c)
  else
    let n := (perm.map fun y => y.2.length).foldl (· + ·) 0
    let start := if n = 0 then 0 else b % n
    rotate perm start
where
  /-- The list rotated to start at its `k`-th core; the cores of the first cluster before that one come last in the cluster. -/
  rotate : List (Nat × List Nat) → Nat → List (Nat × List Nat)
  | [], _ => []
  | (cl, cs) :: r, k => if k < cs.length then (cl, cs.drop k ++ cs.take k) :: r else rotate r (k - cs.length) ++ [(cl, cs)]

/-- The cores a cohort goes to, rank by rank; none when it must wait (R163). -/
def findPlace (s : State) (l : Launch) (k : Nat) : Option (List Nat) :=
  let c := l.pkt.coh
  if (poolFree s l (c * l.pkt.warps)).length < c * l.pkt.warps then none
  else
    (clusterOrder s.mgmt l (k * c)).findSome? fun (cl, cs) =>
      let free := (cs.map fun i => coreNo cl i).filter fun i => canHold s l i
      if free.length ≥ c then some (free.take c) else none

/-! ## Creating a block (R138, R139, R147) -/

/-- The lowest number that is not taken. -/
def lowestFree (n : Nat) (taken : List Nat) : Nat := ((List.range n).find? fun k => !taken.contains k).getD 0

/-! ## Context images (R31, R47 to R49) -/

/-- The first frames of pre-empted warps that leave a core: granules and accumulators of warps beyond what it has (R47, R166, R167). The highest
slots leave first (DESIGN CHOICE: the spec names no victim line). -/
def makeRoom (s : State) (c : Nat) : State :=
  ((s.warpsOf c).filter fun w => w.preempted).reverse.foldl (fun s w =>
    let ws := (s.warpsOf c).filter fun w => !w.away
    if (ws.foldl (fun n w => n + w.vgran) 0) ≤ 256 && (ws.foldl (fun n w => n + w.nacc) 0) ≤ 8 then s
    else imageOut (s.modWarp c w.slot fun w => { w with away := true }) c w.slot) s

/-- The tags of the returns on their way to a warp slot (R147). -/
def tagsOut (s : State) (c slot : Nat) : List (BitVec 8) :=
  ((s.coreAt c).returns.filter fun r => r.dest.slot = slot).map (fun r => r.dest.gen)
    ++ s.home.held.filterMap fun h => match h.req.ret, h.lane, h.req.warp with
      | some d, _, _ => if d.core = c && d.slot = slot then some d.gen else none
      | none, some x, some w => if w = (c, slot) then some x.2 else none
      | _, _, _ => none

/-- The first tag from `g` on that no outstanding return carries (R147). -/
def freeTag (out : List (BitVec 8)) : Nat → BitVec 8 → BitVec 8
  | 0, g => g
  | n + 1, g => if out.contains g then freeTag out n (g + 1) else g

/-- A new warp (R139). -/
def newWarp (s : State) (l : Launch) (c : Nat) (bslot : Nat) (block : Word) (idx slot image : Nat) : Warp :=
  let g := ((s.coreAt c).gens.find? fun x => x.1 = slot).getD (slot, 0, 0)
  { present := true, slot := slot, bslot := bslot, launch := l.id, block := block, idx := idx
    memrev := l.pkt.memrev, supv := l.sup, genReg := freeTag (tagsOut s c slot) 256 g.2.1, genAcc := g.2.2
    live := maskOf fun x => 32 * idx + x.val < l.pkt.ntid
    vgran := l.pkt.vgran, nacc := l.pkt.nacc
    lpc := Vector.replicate 32 l.pkt.entry
    s := (Vector.replicate 64 0).set 0 l.pkt.args
    acc := List.replicate l.pkt.nacc (Vector.replicate 2048 0)
    threads := Vector.ofFn fun x => { tid := 32 * idx + x.val }
    ctxBase := l.ctxpool + BitVec.ofNat 64 (image * 0x20000)
    readyAt := s.clock }

/-- The warps of a block that have a live lane at creation take the lowest free slots and images (DESIGN CHOICE: R154, R162 leave both open). -/
def addWarps (s : State) (l : Launch) (c bslot : Nat) (block : Word) : List Nat → State
  | [] => s
  | idx :: r =>
    let slot := lowestFree 64 ((s.warpsOf c).map fun w => w.slot)
    let image := (poolFree s l 1).headD 0
    let w := newWarp s l c bslot block idx slot image
    addWarps (emitSync (s.modCore c fun k => { k with warps := k.warps ++ [w] }) c w) l c bslot block r

/-- The launch's microprograms go into a core's control store when its first block comes (R219): none while a home makes the read wait. -/
def loadMicro (s : State) (l : Launch) (c : Nat) : Except State State :=
  if l.micro = 0 || (s.coreAt c).microOwner = some l.id then .ok s
  else
    match readImage s (queueCtx l.ptroot l.sup l.id l.regions) (queueIssuer s l.id) l.micro with
    | (s, .ok x) => .ok (s.modCore c fun k => { k with micro := x, microOwner := some l.id })
    | (t, .wait) => .error ((keepRecalls s t).getD s)
    | (s, .late _) => .ok (s.modCore c fun k => { k with micro := [], microOwner := some l.id })

/-- The microprograms come to each of some cores; none while a home makes a read wait. -/
def loadMicros (s : State) (l : Launch) : List Nat → Except State State
  | [] => .ok s
  | c :: r => match loadMicro s l c with | .ok s => loadMicros s l r | .error s => .error s

/-- A block becomes resident on a core (R138), in the lowest free block slot (DESIGN CHOICE: R162 leaves it open). -/
def placeBlock (s : State) (l : Launch) (c index rank : Nat) : State :=
  let k := s.coreAt c
  let bslot := lowestFree 16 (k.blocks.map fun b => b.bslot)
  let b : Block := { bslot := bslot, launch := l.id, index := BitVec.ofNat 32 index, rank := rank, lsBytes := l.pkt.lsg * 4096
                     genLS := (assoc bslot k.genLSs).getD 0, start := BitVec.ofNat 64 s.ticks, age := s.placedNo }
  addWarps { s.setBlock c b with placedNo := s.placedNo + 1 } l c bslot b.index (List.range l.pkt.warps)

/-- The number of cohorts of a launch. -/
def cohortsOf (l : Launch) : Nat := l.pkt.blocks / l.pkt.coh
/-- A cohort of the launch still waits (R164). -/
def waitsForPlace (l : Launch) : Bool := !l.killed && l.pass.isNone && l.nextCohort < cohortsOf l

/-- A cohort is placed on these cores; a home that makes the read of its microprograms wait keeps it from being placed yet. -/
def placeCohort (s : State) (l : Launch) (cores : List Nat) : Except State State :=
  match loadMicros s l cores with
  | .error s => .error { s with placeDue := true }
  | .ok s =>
    let s := cores.zipIdx.foldl (fun s (c, r) => makeRoom (placeBlock s l c (l.nextCohort * l.pkt.coh + r) r) c) s
    .ok (s.modLaunch l.id fun l => { l with nextCohort := l.nextCohort + 1 })

/-! ## Pre-emption and resumption (R166, R167, R397) -/

/-- The warps of some blocks leave the active and pending sets, or come back. -/
def setPreempted (s : State) (bs : List (Nat × Block)) (on : Bool) : State :=
  bs.foldl (fun s (c, b) =>
    let s := s.modBlock c b.bslot fun b => { b with preempted := on, resumable := false }
    let slots := (s.blockWarps c b.bslot).map fun w => w.slot
    let s := if on then dropBlockPlaces s c b else s
    let s := if on then slots.foldl (fun s n => leaveActive s c n) s else s
    let s := s.modCore c fun k => { k with
      jobs := k.jobs.map fun j => if slots.contains j.slot && j.snap.isNone then { j with row := 0, staged := [] } else j }
    let s := s.mapWarps c fun w => if w.bslot = b.bslot then { w with preempted := on, readyAt := s.clock } else w
    if on then s else (s.blockWarps c b.bslot).foldl (fun s w => emitSync s c w) s) s

/-- The cohorts of a launch with a resident block, ascending. -/
def residentCohorts (s : State) (l : Launch) : List Nat :=
  (sortBy id (s.allCores.flatMap fun k => (k.blocks.filter fun b => b.launch = l.id).map fun b => cohortOf l b.index)).eraseDups

/-- The cohorts with a resident block that a head of a launch may pre-empt, in the order of R166: those of one launch by ascending number (DESIGN
CHOICE: R166 orders launches). A geometry launch is a victim only of a geometry launch of a lower draw index (R315; DESIGN CHOICE for a head that has
none). -/
def victims (s : State) (l : Launch) : List (Launch × Nat) :=
  let ok := fun (x : Launch) => x.pvic && x.prio > l.prio
    && !(match x.draw, l.draw with | some a, some b => (b - a).toNat < 2 ^ 31 | some _, none => true | _, _ => false)
  let ls := (sortBy (fun (x : Launch) => (15 - x.prio) * 2 ^ 32 + (2 ^ 32 - 1 - x.id.toNat)) (s.launches.filter ok))
  ls.flatMap fun x => ((residentCohorts s x).filter fun k => (cohortBlocks s x k).any fun y => !y.2.preempted).map fun k => (x, k)

def preemptAll (s : State) (vs : List (Launch × Nat)) : State :=
  vs.foldl (fun s (x, k) => setPreempted s (cohortBlocks s x k) true) s

/-- The shortest prefix of victims with which the head fits. -/
def enough (s : State) (l : Launch) (taken : List (Launch × Nat)) : List (Launch × Nat) → Option (List (Launch × Nat))
  | [] => none
  | v :: r =>
    let t := taken ++ [v]
    if (findPlace (preemptAll s t) l l.nextCohort).isSome then some t else enough s l t r
/-- Those of a set that are needed. -/
def needed (s : State) (l : Launch) (kept : List (Launch × Nat)) : List (Launch × Nat) → List (Launch × Nat)
  | [] => kept
  | v :: r =>
    if (findPlace (preemptAll s (kept ++ r)) l l.nextCohort).isSome then needed s l kept r else needed s l (kept ++ [v]) r

/-- Pre-emption for a head that does not fit (R166). -/
def preemptFor (s : State) (l : Launch) : State :=
  if !l.pre then s
  else match enough s l [] (victims s l) with
    | some vs => { preemptAll s (needed s l [] vs) with placeDue := true }
    | none => s

/-- A pre-empted cohort's granules and accumulators are free again on each of its cores (R167). -/
def resumeFits (s : State) (bs : List (Nat × Block)) : Bool :=
  bs.all fun (c, b) =>
    let (v, a) := coreHolds (s.warpsOf c)
    let ws := s.blockWarps c b.bslot
    v + (ws.foldl (fun n w => n + w.vgran) 0) ≤ 256 && a + (ws.foldl (fun n w => n + w.nacc) 0) ≤ 8

/-- Resumes the pre-empted cohorts of levels up to `p` that are eligible and fit (R164, R167). -/
def resumeUpTo (s : State) (p : Nat) : State :=
  let ls := sortBy (fun (l : Launch) => l.prio * 2 ^ 32 + l.id.toNat) (s.launches.filter fun l => l.prio ≤ p)
  ls.foldl (fun s l =>
    let higher := s.launches.any fun x => waitsForPlace x && x.prio < l.prio
    (residentCohorts s l).foldl (fun s k =>
      let bs := (cohortBlocks s l k).filter fun y => y.2.preempted
      if bs ≠ [] && (!higher || bs.any fun y => y.2.resumable) && resumeFits s bs then
        (bs.map fun y => y.1).foldl makeRoom (setPreempted s bs false)
      else s) s) s

/-! ## The placement pass (R164, R315) -/

/-- Places the head of a launch, and its later cohorts, as far as they fit. -/
def placeHeads (s : State) (id : Word) : Nat → State
  | 0 => s
  | fuel + 1 =>
    match s.launchOf id with
    | none => s
    | some l =>
      if !waitsForPlace l then s
      else
        let s := if (findPlace s l l.nextCohort).isSome then s else preemptFor s l
        match findPlace s l l.nextCohort with
        | some cores => (match placeCohort s l cores with | .ok s => placeHeads s id fuel | .error s => s)
        | none => s

/-- Waiting launches in the order their heads are tried: geometry launches by draw, then by level and start. -/
def headOrder (s : State) : List Launch :=
  let ls := s.launches.filter waitsForPlace
  let byStart := fun (l : Launch) => l.id.toNat
  sortBy byStart (ls.filter fun l => l.draw.isSome)
    ++ sortBy (fun l => l.prio * 2 ^ 32 + byStart l) (ls.filter fun l => l.draw.isNone)

/-- Marks the draws whose last cohort has been placed (R319). -/
def markPlaced (s : State) : State :=
  let placed := fun (d : Draw) =>
    match s.launchOf d.launch with
    | some l => { d with placedAll := d.placedAll || l.killed || l.nextCohort ≥ cohortsOf l }
    | none => { d with placedAll := true }
  { s with geom := { s.geom with draws := s.geom.draws.map placed } }

def placementPass (s : State) : State :=
  let s := { s with placeDue := false }
  let s := (headOrder s).foldl (fun s l => placeHeads (resumeUpTo s l.prio) l.id (cohortsOf l)) s
  markPlaced (resumeUpTo s 15)

/-- PLACEMENT_PASS (R164). -/
def execPlacementPass (s : State) : Host.Outcome State Fault Refusal := .next (pumpRecords (placementPass s))

/-! ## The start of a launch (R158, R159) -/

/-- What the extension of a launch came to. -/
inductive Ext where
  | none
  | unreadable
  | read (x : Nat) (image : Done (List (Nat × Vector Dword 32)))

def Ext.micro : Ext → Dword
  | .read x _ => BitVec.ofNat 64 (bitsOf x 63 0)
  | _ => 0

/-- Reads the extension and the microprogram image (R160, R219); `wait` when a home cannot answer yet. -/
def readExt (s : State) (p : Packet) (c : Ctx) (i : Issuer) : State × Done Ext :=
  if p.ext = 0 then (s, .ok .none)
  else
    match devLoad s c i p.ext 64 with
    | (s, .wait) => (s, .wait)
    | (s, .late _) => (s, .ok .unreadable)
    | (s, .ok b) =>
      let x := leNat b
      if bitsOf x 63 0 = 0 then (s, .ok (.read x (.ok [])))
      else
        match readImage s c i (BitVec.ofNat 64 (bitsOf x 63 0)) with
        | (s, .wait) => (s, .wait)
        | (s, r) => (s, .ok (.read x r))

/-- The status of a launch whose packet is in order: the lowest number among the conditions that hold (R159). -/
def launchStatus (m : Mgmt) (p : Packet) (e : Ext) (regionsOk : Bool) : Nat :=
  let aclu := match e with | .read x _ => bitsOf x 71 64 | _ => 0
  let mask : BitVec 128 := match e with | .read x _ => BitVec.ofNat 128 (bitsOf x 255 128) | _ => 0
  let known : Bool := match e with | .unreadable => decide (p.aff ≠ 2) | _ => true
  let perm := permitted m p aclu mask
  let bad := match e with
    | .read x r => bitsOf x 127 72 ≠ 0 || bitsOf x 511 352 ≠ 0 || (match r with
        | .ok ops => ops.any fun y => y.2.any badOp
        | _ => false)
    | _ => false
  let lost := match e with
    | .unreadable => true
    | .read _ (.late _) => true
    | .read x _ => p.aff = 2 && !clusterExists m (bitsOf x 71 64)
    | .none => false
  if bad then 1
  else if !regionsOk then 2
  else if p.blocks % p.coh ≠ 0 || (known && perm ≠ [] && perm.all fun y => y.2.length < p.coh) then 3
  else if !blockFitsCore p then 4
  else if lost || (known && perm = []) then 5
  else 0

/-- Adds 1 to a completion signal word (R161): a release at system domain that wakes what waits on the word; false while its home makes it
wait. -/
def addDone (s : State) (x : DoneSig) : State × Bool :=
  if x.va = 0 || x.va.toNat % 8 ≠ 0 then (s, true)
  else
    match devCheck s (queueCtx x.ptroot x.sup x.launch x.regions) x.va 8 .atomic with
    | (t, .error e) => if e.held then ((keepRecalls s t).getD s, false) else (t, true)
    | (s, .ok a) =>
      match markDirty s noCore a with
      | (t, false) => ((keepRecalls s t).getD s, false)
      | (s, true) =>
        match rmwPart s (queueIssuer s x.launch) a (partOf a) (.rmw 1 1) none false with
        | (s, .ok _) => (wakeWord s (wordKey a), true)
        | (t, .wait) => ((keepRecalls s t).getD s, false)
        | (s, .late _) => (s, true)

/-- Completion signals rise, first first; one that a home makes wait stays. -/
def settleSignals (s : State) : State :=
  let go := fun (s : State) (x : DoneSig) => match addDone s x with | (s, true) => s | (s, false) => { s with signals := s.signals ++ [x] }
  s.signals.foldl go { s with signals := [] }

/-- A launch or pass is refused (R159): its status and a record; the completion signal rises when the record is written. -/
def refuse (s : State) (q : Nat) (status : Nat) (addr : Nat) (launch gen : Word) (donesig : Dword) : State :=
  let x := s.queueOf q
  queueRecord (s.setQueue { x with lasterr := BitVec.ofNat 8 status }) x.trapq (refusal status addr launch gen) none
    (some { launch := launch, ptroot := x.word 2, sup := x.sup, va := donesig })

/-- The fields a launch takes from its queue's descriptor (R26, R154). -/
def launchOfPacket (s : State) (q : Queue) (p : Packet) (e : Ext) (regions : List Region) : Launch :=
  let d := q.word 0
  { id := s.nextLaunch, q := q.q, pkt := p, micro := e.micro
    aclu := (match e with | .read x _ => bitsOf x 71 64 | _ => 0)
    mask := (match e with | .read x _ => BitVec.ofNat 128 (bitsOf x 255 128) | _ => 0)
    xrow := (match e with | .read x _ => BitVec.ofNat 96 (bitsOf x 351 256) | _ => 0)
    ptroot := q.word 2, regtab := q.word 3, trapq := q.word 4, sup := q.sup, pre := d.getLsbD 5, pvic := d.getLsbD 6, prio := q.prio
    nimg := bits (q.word 5) 16 0 + 1, ctxpool := BitVec.ofNat 64 (bits (q.word 5) 51 17 * 0x20000)
    gen := s.mgmt.gen, regions := regions }

/-- A launch that passed its checks starts: its acquire, its draw index, its way to the distributor (R158, R314). -/
def admitLaunch (s : State) (l : Launch) : State :=
  let s := launchAcquire { s with launches := s.launches ++ [l], placeDue := true }
  if l.pkt.cores ≠ 1 then s
  else
    let s := s.modLaunch l.id fun l => { l with draw := some s.geom.drawCounter }
    { s with geom := { s.geom with draws := s.geom.draws ++ [{ index := s.geom.drawCounter, launch := l.id }],
                                   drawCounter := s.geom.drawCounter + 1 } }

/-- A launch item may start now: its queue's order (R158), no staged patch set (R382), no flush area to move (R323), room for a
draw (R314). -/
def mayStart (s : State) (q : Nat) (it : Nat) : Bool :=
  let p := packetOf it
  s.mgmt.staged.isNone && !s.mgmt.flushMove && !(it % 16 = 1 && p.ord && s.launches.any fun l => l.q = q)
    && !(it % 16 = 1 && p.cores = 1 && s.geom.draws.length ≥ 4096)

/-- The item at a queue's head, not a wait item, starts (R158, R159); none when it cannot start now. -/
def launchStart (s0 : State) (q : Nat) : Option State :=
  let x := s0.queueOf q
  if !headDue s0 x then none
  else
    let (s, it) := headItem s0 x
    if isWait it || !mayStart s q it then none
    else
      let p := packetOf it
      let id := s.nextLaunch
      let gen := s.mgmt.gen
      if it % 16 ≠ 1 then some (refuse (advanceHead s q) q 1 x.slotAddr 0 0 0)
      else if badPacket it then some (refuse { advanceHead s q with nextLaunch := id + 1 } q 1 x.slotAddr id gen p.donesig)
      else
        let (s, regions) := readRegions s (x.word 3)
        let c := queueCtx (x.word 2) x.sup id (regions.getD [])
        match readExt s p c (queueIssuer s id) with
        | (t, .wait) => keepRecalls s0 t
        | (s, .late _) => some (refuse { advanceHead s q with nextLaunch := id + 1 } q 5 x.slotAddr id gen p.donesig)
        | (s, .ok e) =>
          let status := launchStatus s.mgmt p e regions.isSome
          let s := { advanceHead s q with nextLaunch := id + 1 }
          if status ≠ 0 then some (refuse s q status x.slotAddr id gen p.donesig)
          else some (admitLaunch s { launchOfPacket s x p e (regions.getD []) with id := id })

/-- LAUNCH_START (R158). -/
def execLaunchStart (q : Nat) (s : State) : Host.Outcome State Fault Refusal := .next (pumpRecords ((launchStart s q).getD s))

/-! ## The queue's registers (R155, R156) -/

/-- QTAIL (R156). -/
def writeTail (s : State) (q : Nat) (value : Dword) : State :=
  let x := s.queueOf q
  if !x.enabled then s
  else if value.toNat < x.qtail.toNat || value.toNat > x.qhead.toNat + x.ring then s.setQueue { x with tailerr := true }
  else s.setQueue { x with qtail := value, prompt := x.prompt || x.qhead = x.qtail }
def execQtail (q : Nat) (value : Dword) (s : State) : Host.Outcome State Fault Refusal := .next (writeTail s q value)

/-- The resident blocks of a queue's launches. -/
def queueBlocks (s : State) (q : Nat) : List (Nat × Block) :=
  s.allCores.flatMap fun k => (k.blocks.filter fun b => match s.launchOf b.launch with | some l => l.q = q | none => false).map fun b => (k.id, b)

/-- PREEMPT (R155, R166). -/
def preemptQueue (s : State) (q : Nat) : State :=
  { setPreempted s ((queueBlocks s q).filter fun y => !y.2.preempted) true with placeDue := true }
def execPreempt (q : Nat) (s : State) : Host.Outcome State Fault Refusal := .next (preemptQueue s q)

/-- RESUME (R155, R167). -/
def resumeQueue (s : State) (q : Nat) : State :=
  let s := (queueBlocks s q).foldl (fun s (c, b) => s.modBlock c b.bslot fun b => { b with resumable := b.preempted }) s
  { s with placeDue := true }
def execResume (q : Nat) (s : State) : Host.Outcome State Fault Refusal := .next (resumeQueue s q)

/-- KILL (R155). -/
def killQueue (s : State) (q : Nat) : State :=
  let mine := (s.launches.filter fun l => l.q = q && !l.killed).map fun l => l.id
  let s := mine.foldl (fun s id => killLaunch s id 1) s
  let x := s.queueOf q
  { s.setQueue { x with qhead := x.qtail, stopped := true, lasterr := if mine = [] then x.lasterr else 6 } with placeDue := true }
def execKill (q : Nat) (s : State) : Host.Outcome State Fault Refusal := .next (pumpRecords (killQueue s q))

/-- CLEAR (R155). -/
def clearQueue (s : State) (q : Nat) : State :=
  s.setQueue { s.queueOf q with lasterr := 0, tailerr := false, stopped := false, prompt := true, retryAt := 0 }
def execClear (q : Nat) (s : State) : Host.Outcome State Fault Refusal := .next (clearQueue s q)

/-- BLOCK_KILL (R151): system software kills a block, or a launch. -/
def execBlockKill (launch : Nat) (block : Option Nat) (s : State) : Host.Outcome State Fault Refusal :=
  let id : Word := BitVec.ofNat 32 launch
  match block with
  | none =>
    let q := (s.launchOf id).map fun l => l.q
    let s := killLaunch s id 2
    let s := match q with | some q => s.setQueue { s.queueOf q with lasterr := 6 } | none => s
    .next (pumpRecords { s with placeDue := true })
  | some n =>
    let bs := s.allCores.flatMap fun k => (k.blocks.filter fun b => b.launch = id && b.index.toNat = n).map fun b => (k.id, b)
    .next (pumpRecords (bs.foldl (fun s (c, b) => killBlock s c b (plainKill 2)) s))

end Sys2Proof.Machine
end

