-- ==== Sys2Proof/Machine/Geometry.lean ====
section
/-! DEFINITION. Geometry: VISEMIT (R324), the crossbar, tokens and frontiers (R314 to R321), the bin store and its flush (R322,
R323), and the visibility resolve (R331 to R333). -/

namespace Sys2Proof.Machine

/-! ## Regions and Frond packets -/

/-- The shading die that owns a region of 128 by 128 pixels (R316). -/
def regionOwner (m : Mgmt) (rx ry : Nat) : Nat := m.shadeDies.getD ((rx + 5 * ry) % m.shadeDies.length) 99
/-- The shading die that owns a tile. -/
def tileOwner (m : Mgmt) (tx ty : Nat) : Nat := regionOwner m (tx / 8) (ty / 8)

/-- The numbers from a to b. -/
def fromTo (a b : Nat) : List Nat := (List.range (b + 1 - a)).map fun i => a + i

/-- A die owns a region that a packet's box touches (R318). -/
def frondTouches (m : Mgmt) (p : Frond) (die : Nat) : Bool :=
  (fromTo (p.txmin.toNat / 8) (p.txmax.toNat / 8)).any fun rx =>
    (fromTo (p.tymin.toNat / 8) (p.tymax.toNat / 8)).any fun ry => regionOwner m rx ry = die

/-- A tile lies in a packet's box (R317). -/
def frondHas (p : Frond) (tx ty : Nat) : Bool :=
  p.txmin.toNat ≤ tx && tx ≤ p.txmax.toNat && p.tymin.toNat ≤ ty && ty ≤ p.tymax.toNat

/-- The packet that seven words make, those of packet offsets 0x04 to 0x1C (R317, R324). -/
def frondOf (draw : Word) (w : Nat → Word) : Frond :=
  let vis := (w 1).toNat + (w 2).toNat * 2 ^ 32 + (w 3).toNat * 2 ^ 64 + (w 4).toNat * 2 ^ 96
  let box := (w 5).toNat + (w 6).toNat * 2 ^ 32
  { draw := draw, mslot := BitVec.ofNat 25 (w 0).toNat, vis := BitVec.ofNat 128 vis
    txmin := BitVec.ofNat 10 (bitsOf box 9 0), tymin := BitVec.ofNat 10 (bitsOf box 19 10)
    txmax := BitVec.ofNat 10 (bitsOf box 29 20), tymax := BitVec.ofNat 10 (bitsOf box 39 30)
    zmin := BitVec.ofNat 12 (bitsOf box 51 40), zmax := BitVec.ofNat 12 (bitsOf box 63 52) }

/-- The width and height in tiles, minus 1, of a viewport word (R324). -/
def viewW (v : Dword) : Nat := bits v 9 0
def viewH (v : Dword) : Nat := bits v 19 10

/-- The status of a lane of VISEMIT (R324); `w0` is the word at packet offset 0x04. -/
def visStatus (v : Dword) (w0 : Word) (p : Frond) : Word :=
  if bits w0 31 25 ≠ 0 || p.txmin.toNat > p.txmax.toNat || p.tymin.toNat > p.tymax.toNat || p.zmin.toNat > p.zmax.toNat then 3
  else if p.vis = 0 then 1
  else if p.txmin.toNat > viewW v || p.tymin.toNat > viewH v then 2
  else 0

/-- A packet's box clamped to the viewport (R318). -/
def clampFrond (v : Dword) (p : Frond) : Frond :=
  { p with txmax := BitVec.ofNat 10 (Nat.min p.txmax.toNat (viewW v)), tymax := BitVec.ofNat 10 (Nat.min p.tymax.toNat (viewH v)) }

/-- A shading die's record; and its update. -/
def dieAt (s : State) (d : Nat) : Option ShadeDie := s.geom.dies.find? fun x => x.socket = d
def modDie (s : State) (d : Nat) (f : ShadeDie → ShadeDie) : State :=
  { s with geom := { s.geom with dies := replaceBy (fun x => x.socket = d) f s.geom.dies } }
/-- The shading die is in service. -/
def dieUp (s : State) (d : Nat) : Bool := !s.mgmt.badSockets.contains d && s.mgmt.shadeDies.contains d

/-- A draw index has been assigned when the counter stands at `c` (R314, R320). -/
def drawBefore (x c : Word) : Bool := 0 < (c - x).toNat && (c - x).toNat ≤ 2 ^ 31

/-- The bytes of a packet in the bin store, and what fits (R317, R322). -/
def frondBytes : Nat := 32
def binRoom (d : ShadeDie) : Bool := (d.binned.length + d.held.length + 1) * frondBytes ≤ 0x4000000
def heldRoom (d : ShadeDie) : Bool := (d.held.length + 1) * frondBytes ≤ 0x3000000 && binRoom d

/-- The front end of a geometry die cannot accept the packets of a draw (R322, R324): the crossbar holds back a later-draw packet of the die that
has found no room, and the draw is a later one there too. -/
def frontHolds (s : State) (gdie : Nat) (draw : Word) : Bool :=
  s.geom.dies.any fun d => dieUp s d.socket && drawBefore d.frontier draw && !heldRoom d
    && s.geom.packets.any fun x => x.1 = gdie && x.2.1 = d.socket && drawBefore d.frontier x.2.2.draw

/-- One copy of a packet goes to each shading die that owns a region its clamped box touches (R318). -/
def emitFrond (s : State) (gdie : Nat) (v : Dword) (p : Frond) : State :=
  let p := clampFrond v p
  let dests := s.mgmt.shadeDies.filter fun d => frondTouches s.mgmt p d
  { s with geom := { s.geom with packets := s.geom.packets ++ dests.map fun d => (gdie, d, p) } }

/-- One repetition of VISEMIT: the packets in ascending lane order, then the statuses. -/
def visemitRep (gr : Grp) (draw : Word) (d a b : Nat) (lka : BitVec 2) (s : State) : State :=
  let m := s.cur.active gr
  let v := s.cur.getS b
  let old := s.cur
  let lane := fun (l : Fin 32) => frondOf draw fun i => old.getV (a + i) l
  let status : LaneVec := Vector.ofFn fun l => visStatus v (old.getV a l) (lane l)
  let sent := (lanesOf m).filter fun l => visStatus v (old.getV a l) (lane l) = 0
  let s := sent.foldl (fun s l => emitFrond s (socketOf s.core.id) v (lane l)) s
  { s with cur := (s.cur.lastUse s.cur.executing lka (fromTo a (a + 6))).setVec d m status }

/-- VISEMIT (R324): a group whose packets the front end cannot accept waits. -/
def execVisemit (gr : Grp) (d : BitVec 6) (a : BitVec 6) (lka : BitVec 2) (b : BitVec 6) (s : State) : Host.Outcome State Fault Refusal :=
  perform (.visemit gr d a lka b) (fun s =>
    match checkReps gr fun k => do
        vRange s.cur (repD gr d.toNat k) 1; vRange s.cur (repA gr a.toNat k) 7; sRange (repB gr b.toNat k) 1 with
    | .error t => (s, .trap t)
    | .ok _ =>
      match s.curLaunch.draw with
      | none => (s, .trap (trap 0x03 0x06))
      | some draw => ending gr (runReps gr (fun k s =>
          if frontHolds s (socketOf s.core.id) draw then (s, .wait .frontEnd)
          else (visemitRep gr draw (repD gr d.toNat k) (repA gr a.toNat k) (repB gr b.toNat k) lka s, .done)) s)) s

/-! ## Passes -/

/-- A draw is one of a pass's (R335, R336). -/
def inPass (p : Pass) (draw : Word) : Bool := (draw - p.first).toNat ≤ (p.last - p.first).toNat

/-- Updates a pass of a queue, named by its first draw. -/
def modPass (s : State) (p : Pass) (f : Pass → Pass) : State :=
  { s with geom := { s.geom with passes := replaceBy (fun x => x.q = p.q && x.first = p.first && x.launch = p.launch) f s.geom.passes } }

/-- The block of a tile of a pass (R337). -/
def tileBlock (p : Pass) (tx ty : Nat) : Nat := tx + ty * p.tw

/-- The pass has launched or skipped a tile, and its block there has exited (R336). -/
def tileOver (s : State) (p : Pass) (tx ty : Nat) : Bool :=
  tx ≥ p.tw || ty ≥ p.th ||
  (p.done.contains (tx, ty)
    && !(s.allCores.any fun k => k.blocks.any fun b => some b.launch = p.launch && b.index.toNat = tileBlock p tx ty))

/-- The passes of the queue before this one, in PASSOPEN order, have left a tile (R336). -/
def earlierOver (s : State) (p : Pass) (tx ty : Nat) : Bool :=
  ((s.geom.passes.filter fun x => x.q = p.q).takeWhile fun x => !(x.first = p.first && x.launch = p.launch)).all fun x => tileOver s x tx ty

/-! ## The resolve (R331 to R333) -/

/-- A vertex of a meshlet record: x, y and z. -/
def vertexAt (b : List Byte) (n : Nat) : FV × FV × FV :=
  let c := fun (k : Nat) => f32.unpack (leNat ((b.drop (16 + 12 * n + 4 * k)).take 4))
  (c 0, c 1, c 2)

def FV.isNaN (x : FV) : Bool := match x with | .nan _ => true | _ => false
/-- The integer of a finite value in units of 2^-149. -/
def FV.int? (x : FV) : Option Int := match x with | .fin _ v => some v | _ => none

/-- The three vertices of primitive `i` of a meshlet record; none where it covers nothing (R332). -/
def primAt (b : List Byte) (i : Nat) : Option (List (FV × FV × FV)) :=
  let at_ := fun (k : Nat) => (b.getD k 0).toNat
  let ix := [at_ (0x310 + 3 * i), at_ (0x311 + 3 * i), at_ (0x312 + 3 * i)]
  let vs := ix.map fun n => vertexAt b n
  if i ≥ at_ 1 || ix.any (fun n => n ≥ at_ 0 || n ≥ 64) || vs.any (fun v => FV.isNaN v.1 || FV.isNaN v.2.1 || FV.isNaN v.2.2) then none
  else some vs

/-- The sample offsets in eighths of a pixel (R333). -/
def sampleOffsets (n : Nat) : List (Nat × Nat) :=
  match n with
  | 1 => [(4, 4)]
  | 2 => [(2, 2), (6, 6)]
  | _ => [(3, 1), (7, 3), (1, 5), (5, 7)]

/-- The edge function of a point about an edge, exact (R333). -/
def edgeFn (ax ay bx by_ px py : Int) : Int := (bx - ax) * (py - ay) - (by_ - ay) * (px - ax)
/-- An edge of a triangle of positive area, y downward, is a top or a left edge (R333). -/
def topLeft (ax ay bx by_ : Int) : Bool := (by_ = ay && bx > ax) || by_ < ay

/-- A depth lies in [0, 1] (R333). -/
def depthOk (z : Nat) : Bool := match f32.unpack z with | .fin _ v => 0 ≤ v && v ≤ 2 ^ 149 | _ => false

/-- The weights of the vertices at a point, over the area; none where the point is not covered (R333). -/
def coverAt (x y : Vector Int 3) (px py : Int) : Option (Int × Int × Int × Nat) :=
  let area := edgeFn x[0] y[0] x[1] y[1] x[2] y[2]
  let sg : Int := if area < 0 then -1 else 1
  let e := fun (i j : Fin 3) => sg * edgeFn x[i] y[i] x[j] y[j] px py
  let tl := fun (i j : Fin 3) => if area < 0 then topLeft x[j] y[j] x[i] y[i] else topLeft x[i] y[i] x[j] y[j]
  let inside := fun (i j : Fin 3) => e i j > 0 || (e i j = 0 && tl i j)
  if area ≠ 0 && inside 0 1 && inside 1 2 && inside 2 0 then some (e 1 2, e 2 0, e 0 1, area.natAbs) else none

/-- The depth with which a primitive covers a point given in units of 2^-149; none where it does not (R333). With an infinite
coordinate the spec states no result: `free` decides. -/
def depthAt (vs : List (FV × FV × FV)) (px py : Int) (free : Dword) : Option Word :=
  let unstated : Option Word := if free.getLsbD 0 && depthOk (hi32 free).toNat then some (hi32 free) else none
  let g := fun (k : Nat) => vs.getD k (.inf false, .inf false, .inf false)
  match (g 0).1.int?, (g 1).1.int?, (g 2).1.int?, (g 0).2.1.int?, (g 1).2.1.int?, (g 2).2.1.int? with
  | some x0, some x1, some x2, some y0, some y1, some y2 =>
    match coverAt #v[x0, x1, x2] #v[y0, y1, y2] px py with
    | none => none
    | some (w0, w1, w2, area) =>
      match (g 0).2.2.int?, (g 1).2.2.int?, (g 2).2.2.int? with
      | some z0, some z1, some z2 =>
        let z := f32.roundInt 0 false false (w0 * z0 + w1 * z1 + w2 * z2) (area * 2 ^ 149)
        if depthOk z then some (BitVec.ofNat 32 z) else none
      | _, _, _ => unstated
  | _, _, _, _, _, _ => unstated

/-- A covering primitive replaces a sample's pair when it is less (R333). -/
def nearer (old : Word × Word) (id z : Word) : Bool :=
  match FV.cmp (f32.unpack z.toNat) (f32.unpack old.2.toNat) with
  | some (lt, eq) => lt || (eq && id.toNat < old.1.toNat)
  | none => false

/-- One primitive is resolved into the samples of a tile; `base` numbers its free values. -/
def resolvePrim (tx ty n : Nat) (id : Word) (vs : List (FV × FV × FV)) (base : Nat) (l : List (Word × Word)) : List (Word × Word) :=
  l.zipIdx.map fun (old, k) =>
    let o := (sampleOffsets n).getD (k % n) (4, 4)
    let px : Int := ((16 * tx + k / n % 16) * 8 + o.1 : Nat) * 2 ^ 146
    let py : Int := ((16 * ty + k / n / 16) * 8 + o.2 : Nat) * 2 ^ 146
    match depthAt vs px py (Config.freeValue (base + k)) with
    | some z => if nearer old id z then (id, z) else old
    | none => old

/-- The primitive identifier (R331). -/
def primId (p : Frond) (i : Nat) : Word := BitVec.ofNat 32 (p.mslot.toNat * 128 + i)

/-- The primitives of a packet are resolved into a tile (R332, R333); those that cover nothing are counted. -/
def resolveFrond (s : State) (tx ty n : Nat) (p : Frond) (b : List Byte) (l : List (Word × Word)) : State × List (Word × Word) :=
  ((List.range 128).filter fun i => p.vis.getLsbD i).foldl (fun (s, l) i =>
    match primAt b i with
    | none => ({ s with geom := { s.geom with badPrims := s.geom.badPrims + 1 } }, l)
    | some vs => ({ s with free := s.free + 1024 }, resolvePrim tx ty n (primId p i) vs s.free l)) (s, l)

/-- Every resolved sample lies nearer than the packet's ZMIN, so the binner may drop it from the tile (R317). -/
def mayDrop (p : Frond) (l : List (Word × Word)) : Bool :=
  l.all fun x => match f32.unpack x.2.toNat with | .fin _ v => v * 4095 < (p.zmin.toNat : Int) * 2 ^ 149 | _ => false

/-- What a tile holds before a pass's references are resolved into it (R336): cleared, or as it was left; a tile that no pass of
the queue has resolved with as many samples holds free values. -/
def tileStart (s : State) (p : Pass) (die tx ty : Nat) : State × List (Word × Word) :=
  let n := 256 * p.samp
  let old := (dieAt s die).bind fun d => d.tiles.find? fun x => x.1 = p.q && x.2.tx = tx && x.2.ty = ty
  if p.clear && !p.cleared.contains (tx, ty) then (s, List.replicate n (0xFFFFFFFF, p.clearz))
  else
    match old with
    | some (_, t) =>
      if t.samples.length = n then (s, t.samples)
      else ({ s with free := s.free + n }, (List.range n).map fun k => (lo32 (Config.freeValue (s.free + k)), hi32 (Config.freeValue (s.free + k))))
    | none => ({ s with free := s.free + n }, (List.range n).map fun k => (lo32 (Config.freeValue (s.free + k)), hi32 (Config.freeValue (s.free + k))))

/-- References are resolved into a tile: each meshlet's record is read through the pass's translation (R332). -/
def resolveRefs (p : Pass) (c : Ctx) (i : Issuer) (tx ty : Nat) : List Frond → State → List (Word × Word) → State × Done (List (Word × Word))
  | [], s, l => (s, .ok l)
  | f :: r, s, l =>
    if p.lost.contains f.mslot.toNat || (s.sched.early && mayDrop f l) then resolveRefs p c i tx ty r s l
    else
      match devBytes s c i (p.msbase + BitVec.ofNat 64 (f.mslot.toNat * 2048)) 0x490 with
      | (s, .ok b) => (let (s, l) := resolveFrond s tx ty p.samp f b l; resolveRefs p c i tx ty r s l)
      | (s, .wait) => (s, .wait)
      | (s, .late t) => (s, .late t)

/-- The references of a pass to a tile. -/
def tileRefs (d : ShadeDie) (p : Pass) (tx ty : Nat) : List Frond := d.binned.filter fun f => inPass p f.draw && frondHas f tx ty

/-- The launch of a pass. -/
def passLaunch (s : State) (p : Pass) : Launch := (p.launch.bind fun id => s.launchOf id).getD { id := 0, q := p.q, pkt := {} }

/-- A record read that faults queues a fault record, for which the tile waits (R332). -/
def passFault (s : State) (p : Pass) (tx ty : Nat) (t : Trap) : State :=
  let l := passLaunch s p
  let s := modPass s p fun p => p.setFault tx ty (some (.queueFull t))
  pumpRecords (launchRecord s { code := t.code, sub := t.sub, kind := 0, level := t.level.toNat, addr := t.addr, launch := l.id,
                                block := BitVec.ofNat 32 (tileBlock p tx ty), warp := 0xFFFF } (some (.tile p.q tx ty)))

/-- The binned references of a pass are resolved into a tile (R323, R332, R336); one whose record read stands on a fault waits. -/
def resolveTile (s : State) (p : Pass) (die tx ty : Nat) (flushed : Bool) : State × Done (List (Word × Word)) :=
  match dieAt s die with
  | none => (s, .wait)
  | some d =>
    if (p.fault tx ty).isSome then (s, .wait)
    else
      let l := passLaunch s p
      let (s, start) := tileStart s p die tx ty
      match resolveRefs p (queueCtx l.ptroot l.sup l.id l.regions) (queueIssuer s l.id) tx ty (tileRefs d p tx ty) s start with
      | (s, .ok x) =>
        let s := modDie s die fun d => { d with
          tiles := (d.tiles.filter fun y => !(y.1 = p.q && y.2.tx = tx && y.2.ty = ty)) ++ [(p.q, { tx := tx, ty := ty, samples := x, flushed := flushed })] }
        (modPass s p fun p => { p with cleared := if p.cleared.contains (tx, ty) then p.cleared else p.cleared ++ [(tx, ty)] }, .ok x)
      | (s, .wait) => (s, .wait)
      | (s, .late t) => (s, .late t)

/-- What a tile that could not be resolved leaves behind: recalls that have begun, or a fault record (R69, R332). -/
def unresolved (s : State) (p : Pass) (tx ty : Nat) : State × Done (List (Word × Word)) → State
  | (_, .late t) => passFault s p tx ty t
  | (t, _) => (keepRecalls s t).getD s

/-! ## The bin store (R322, R323) -/

/-- The tiles of a die in which a pass has binned references. -/
def refTiles (s : State) (d : ShadeDie) (p : Pass) : List (Nat × Nat) :=
  ((d.binned.filter fun f => inPass p f.draw).flatMap fun f =>
    (fromTo f.tymin.toNat f.tymax.toNat).flatMap fun ty => (fromTo f.txmin.toNat f.txmax.toNat).filterMap fun tx =>
      if tx < p.tw && ty < p.th && tileOwner s.mgmt tx ty = d.socket && !p.done.contains (tx, ty) then some (tx, ty) else none).eraseDups

/-- A tile's state as its flush area holds it (R323): identifier and depth of each sample. -/
def stateBytes (l : List (Word × Word)) : List Byte := l.flatMap fun x => leBytes 4 x.1.toNat ++ leBytes 4 x.2.toNat

/-- Where a tile's state stands in the flush area of its die (R323): 512 KiB for each region the die owns, in rows of the largest screen, and
8 KiB for each of its tiles (DESIGN CHOICE: the spec gives the size, not the order). -/
def flushAt (m : Mgmt) (die tx ty : Nat) : Option Nat :=
  let (rx, ry) := (tx / 8, ty / 8)
  let before := ((List.range (ry * 128 + rx)).filter fun n => regionOwner m (n % 128) (n / 128) = die).length
  (m.flush.find? fun x => m.shadeDies.getD x.1 99 = die).map fun x => x.2.1 + before * 0x80000 + (ty % 8 * 8 + tx % 8) * 0x2000

/-- A flushed tile's state goes to the flush area under key id 0 (R323). A later resolve starts from the state that the die still shows, which is
the same (DESIGN CHOICE: nothing else reaches the area). -/
def flushPut (s : State) (die tx ty : Nat) (l : List (Word × Word)) : State :=
  match flushAt s.mgmt die tx ty with
  | some pa => physPost s pa (stateBytes l)
  | none => s

/-- The tiles of a mid-draw flush are resolved and written, first first. -/
def flushTiles (die : Nat) : List (Pass × Nat × Nat) → State → Except (Pass × Nat × Nat × (State × Done (List (Word × Word)))) State
  | [], s => .ok s
  | (p, tx, ty) :: r, s =>
    match s.geom.passes.find? fun y => y.q = p.q && y.first = p.first && y.launch = p.launch with
    | none => flushTiles die r s
    | some p =>
      match resolveTile s p die tx ty true with
      | (s, .ok l) => flushTiles die r (flushPut s die tx ty l)
      | x => .error (p, tx, ty, x)

/-- A mid-draw flush (R323): every tile that holds references is resolved into its flush area, unless an earlier pass has still
to leave it (R336); the references resolved everywhere are freed. False, and nothing else done, where a record could not be read. -/
def flushDie (s : State) (die : Nat) : State × Bool :=
  match dieAt s die with
  | none => (s, true)
  | some d =>
    let work := s.geom.passes.flatMap fun p => (refTiles s d p).map fun x => (p, x)
    let (now, later) := work.partition fun (p, x) => earlierOver s p x.1 x.2
    match flushTiles die now s with
    | .error (p, tx, ty, x) => (unresolved s p tx ty x, false)
    | .ok t => (modDie t die fun d => { d with
        binned := d.binned.filter fun f => later.any fun (p, x) => inPass p f.draw && frondHas f x.1 x.2 }, true)

/-- A packet is binned (R320, R323, R331): dropped and counted when its slot is the reserved one; references of a draw that no
open pass holds are never resolved. False where a flush it needs could not be made. -/
def binFrond (s : State) (die : Nat) (p : Frond) : State × Bool :=
  if p.mslot = 0x1FFFFFF then ({ s with geom := { s.geom with badPrims := s.geom.badPrims + 1 } }, true)
  else if !(s.geom.passes.any fun x => inPass x p.draw) then (s, true)
  else
    let room := match dieAt s die with | some d => binRoom d | none => true
    let (s, ok) := if room then (s, true) else flushDie s die
    if ok then (modDie s die fun d => { d with binned := d.binned ++ [p] }, true) else (s, false)

/-- The held packets of the frontier draw are binned in order (R320). -/
def releaseHeld (die : Nat) (f : Word) : List Frond → List Frond → State → State
  | [], kept, s => modDie s die fun d => { d with held := kept }
  | p :: r, kept, s =>
    if p.draw ≠ f then releaseHeld die f r (kept ++ [p]) s
    else
      let s := modDie s die fun d => { d with held := kept ++ r }
      match binFrond s die p with
      | (s, true) => releaseHeld die f r kept s
      | (s, false) => modDie s die fun d => { d with held := kept ++ [p] ++ r }

/-- A shading die has received every token of a draw (R319, R320). -/
def drawComplete (s : State) (die : Nat) (x : Word) : Bool :=
  match s.geom.draws.find? fun d => d.index = x with
  | some d => s.mgmt.geomDies.all fun g => d.received.contains (die, g)
  | none => drawBefore x s.geom.drawCounter

/-- The frontier of a die moves as far as its tokens allow, the held packets of each new frontier draw binned first (R320). -/
def advanceDie (die : Nat) : Nat → State → State
  | 0, s => s
  | fuel + 1, s =>
    match dieAt s die with
    | none => s
    | some d =>
      let s := releaseHeld die d.frontier d.held [] s
      let left := match dieAt s die with | some d => d.held.any fun p => p.draw = d.frontier | none => false
      if !left && drawComplete s die d.frontier then advanceDie die fuel (modDie s die fun d => { d with frontier := d.frontier + 1 }) else s

/-- Every frontier moves, and the draws that every shading die in service has all tokens of are closed (R314, R320, R329). -/
def settleDraws (s : State) : State :=
  let n := s.geom.draws.length + 1
  let s := s.geom.dies.foldl (fun s d => if dieUp s d.socket then advanceDie d.socket n s else s) s
  let isOpen := fun (d : Draw) => s.geom.dies.any fun x => dieUp s x.socket && !(s.mgmt.geomDies.all fun g => d.received.contains (x.socket, g))
  { s with geom := { s.geom with draws := s.geom.draws.filter isOpen } }

/-! ## The crossbar's events -/

/-- A geometry die may send its token of a draw (R319): no block of the draw is left on it, nor a write of one on its way. -/
def tokenDue (s : State) (gdie : Nat) (d : Draw) : Bool :=
  let mine := fun (launch : Word) (c : Nat) => launch = d.launch && socketOf c = gdie
  d.placedAll && !d.tokens.contains gdie && s.mgmt.geomDies.contains gdie
    && !(s.allCores.any fun k => socketOf k.id = gdie && (k.blocks.any (fun b => b.launch = d.launch) || k.copies.any fun c => c.launch = d.launch))
    && !(s.home.held.any fun h => match agentCore h.req.agent with | some c => mine h.launch c | none => false)

/-- The token of a draw leaves a geometry die once the writes of its blocks are performed at their homes (R319): their partials are merged, and
the draw's private publication lines are published. None while that has to wait and nothing changes. -/
def sendToken (s : State) (gdie : Nat) (d : Draw) : Option State :=
  let lines := s.allCores.flatMap fun k => if socketOf k.id = gdie then (k.upd.filter fun u => u.launch = d.launch).map fun u => (k.id, u.line) else []
  let t := (publishAll (lines.foldl (fun s (c, line) => mergeUpd s c line) s) d.launch).1
  if (t.launchOf d.launch).any fun l => l.pubLines ≠ [] then
    if t.launches = s.launches then keepRecalls s t else some t
  else
    let path := fun (x : Nat) => (t.geom.packets.filter fun p => p.1 = gdie && p.2.1 = x).length
    some { t with geom := { t.geom with
      draws := replaceBy (fun x => x.index = d.index) (fun x => { x with tokens := x.tokens ++ [gdie] }) t.geom.draws
      tokens := t.geom.tokens ++ t.mgmt.shadeDies.map fun x => (gdie, x, d.index)
      passed := t.geom.passed ++ t.mgmt.shadeDies.map fun x => ((gdie, x, d.index), path x) } }

/-- END_OF_DRAW_TOKEN (R319). -/
def execEndOfDrawToken (gdie : Nat) (draw : Word) (s : State) : Host.Outcome State Fault Refusal :=
  match s.geom.draws.find? fun d => d.index = draw with
  | none => .next s
  | some d => .next (if tokenDue s gdie d then pumpRecords ((sendToken s gdie d).getD s) else s)

/-- TOKEN_ARRIVAL (R320): one for a quarantined die is discarded and counted (R329). -/
def execTokenArrival (gdie : Nat) (sdie : Nat) (draw : Word) (s : State) : Host.Outcome State Fault Refusal :=
  let s := { s with geom := { s.geom with
    tokens := s.geom.tokens.erase (gdie, sdie, draw), passed := s.geom.passed.filter fun x => x.1 ≠ (gdie, sdie, draw) } }
  if !dieUp s sdie then .next (modDie s sdie fun d => { d with discarded := d.discarded + 1 })
  else
    let take := fun (d : Draw) => if d.received.contains (sdie, gdie) then d else { d with received := d.received ++ [(sdie, gdie)] }
    .next (pumpRecords (settleDraws { s with geom := { s.geom with draws := replaceBy (fun d => d.index = draw) take s.geom.draws } }))

/-- The packet leaves the crossbar; the tokens that left after it have one fewer before them. -/
def dropFrond (s : State) (sdie : Nat) (p : Frond) : State :=
  match s.geom.packets.find? fun x => x.2.1 = sdie && x.2.2 = p with
  | some x =>
    let place := ((s.geom.packets.takeWhile fun y => y ≠ x).filter fun y => y.1 = x.1 && y.2.1 = sdie).length
    { s with geom := { s.geom with
        packets := s.geom.packets.erase x
        passed := s.geom.passed.map fun y => if y.1.1 = x.1 && y.1.2.1 = sdie && place < y.2 then (y.1, y.2 - 1) else y } }
  | none => s

/-- An item of a path of the crossbar: a packet or a token. -/
inductive Crossing where
  | packet (p : Frond)
  | token (draw : Word)
  deriving DecidableEq, Repr
def Crossing.draw : Crossing → Word
  | .packet p => p.draw
  | .token d => d

/-- The items from a geometry die to a shading die, in the order they left (R321). -/
def crossings (s : State) (gdie sdie : Nat) : List Crossing :=
  let ps := (s.geom.packets.filter fun x => x.1 = gdie && x.2.1 = sdie).map fun x => x.2.2
  let ts := s.geom.tokens.filter fun x => x.1 = gdie && x.2.1 = sdie
  (List.range (ps.length + 1)).flatMap fun n =>
    (ts.filter fun x => (((s.geom.passed.find? fun y => y.1 = x).map fun y => y.2).getD 0) = n).map (fun x => Crossing.token x.2.2) ++ (ps[n]?).toList.map .packet

/-- What may arrive next on a path (R321): the first item that is not of a draw after the frontier, which passes later draws, and the first
item. -/
def arrivals (s : State) (gdie sdie : Nat) : List Crossing :=
  let l := crossings s gdie sdie
  match dieAt s sdie with
  | some d => (l.find? fun x => !drawBefore d.frontier x.draw).toList ++ l.head?.toList
  | none => l.head?.toList

/-- The paths with something on them. -/
def crossbarPaths (s : State) : List (Nat × Nat) :=
  (s.geom.packets.map (fun x => (x.1, x.2.1)) ++ s.geom.tokens.map fun x => (x.1, x.2.1)).eraseDups

/-- FROND_PACKET_ARRIVAL (R320, R322, R329): binned, held, or discarded and counted; a packet that finds no room stays in the crossbar. -/
def execFrondPacketArrival (sdie : Nat) (p : Frond) (s : State) : Host.Outcome State Fault Refusal :=
  match dieAt s sdie with
  | none => .next (dropFrond s sdie p)
  | some d =>
    if !dieUp s sdie || drawBefore p.draw d.frontier then .next (modDie (dropFrond s sdie p) sdie fun d => { d with discarded := d.discarded + 1 })
    else if p.draw ≠ d.frontier then
      if heldRoom d then .next (modDie (dropFrond s sdie p) sdie fun d => { d with held := d.held ++ [p] }) else .next s
    else
      let s := releaseHeld sdie d.frontier d.held [] s
      if (match dieAt s sdie with | some d => d.held.any fun x => x.draw = d.frontier | none => false) then .next s
      else
        match binFrond s sdie p with
        | (s, true) => .next (dropFrond s sdie p)
        | (s, false) => .next s

/-! ## Flush areas (R323) -/

/-- The lowest address of an area of `n` units in service taken downward from unit `top`, over at most `fuel` units. -/
def areaBase (m : Mgmt) : Nat → Nat → Nat → Nat
  | 0, top, _ => top
  | _, top, 0 => top
  | fuel + 1, top, n + 1 =>
    if top = 0 then 0 else if withdrawn m (top - 1) then areaBase m fuel (top - 1) (n + 1) else areaBase m fuel (top - 1) n

/-- The flush areas of the shading dies, from the top of installed memory downward over the units in service. -/
def flushAreas (m : Mgmt) : List (Nat × Nat × Nat) :=
  let n := flushSize m / 65536
  ((List.range m.shadeDies.length).foldl (fun (top, l) i =>
    let base := areaBase m (2 * n * m.memDies.length) top n
    (base, l ++ [(i, base * 65536, (top - base) * 65536)])) (installedOf m / 65536, ([] : List (Nat × Nat × Nat)))).2

/-- FLUSH_AREA_MOVE (R323): once every running launch has completed, the areas move to units in service. -/
def execFlushAreaMove (s : State) : Host.Outcome State Fault Refusal :=
  if !s.mgmt.flushMove || s.launches ≠ [] then .next s
  else .next { s with mgmt := { s.mgmt with flush := flushAreas s.mgmt, flushMove := false } }

end Sys2Proof.Machine
end

