-- ==== Sys2Proof/Machine/Shading.lean ====
section
/-! DEFINITION. Passes and tile launches (R334 to R337), VISRD and RPIX (R338, R339), cluster geometry (R325 to R328) and textures
(R340 to R342). -/

namespace Sys2Proof.Machine

/-! ## Passes -/

/-- The bytes of a pixel or a texel by its format (R335, R340). -/
def texelBytes (fmt : Nat) : Nat := match fmt with | 0 | 2 => 4 | 1 => 8 | _ => 16

/-- Target `g` of a pass descriptor (R335): base, pitch and format. -/
def passTarget (x g : Nat) : Dword × Nat × Nat :=
  (sext57 (BitVec.ofNat 64 (bitsOf x (128 * g + 0x120) (128 * g + 0x100))), bitsOf x (128 * g + 0x15F) (128 * g + 0x140),
    bitsOf x (128 * g + 0x162) (128 * g + 0x160))

/-- The first covering region of every byte of a range has OWN = 1 (R37, R335). -/
def allOwned (rs : List Region) (a n : Nat) : Bool :=
  let at_ := fun (b : Nat) => match regionOf rs (BitVec.ofNat 64 b) with | some r => r.own | none => false
  (a :: (rs.flatMap fun r => [r.base, r.base + r.bytes]).filter fun b => a < b && b < a + n).all at_

/-- The pass descriptor breaks R335, apart from its launch packet's own checks; `x` is its 192 bytes. -/
def badPass (x : Nat) (counter : Word) (rs : List Region) : Bool :=
  let tw := bitsOf x 73 64 + 1
  let th := bitsOf x 83 74 + 1
  let p := packetOf (bitsOf x 1535 1024)
  let first := bitsOf x 31 0
  let badTarget := fun (g : Nat) =>
    let t := passTarget x g
    bitsOf x (128 * g + 0x13F) (128 * g + 0x139) ≠ 0 || bitsOf x (128 * g + 0x17F) (128 * g + 0x163) ≠ 0 || t.2.2 > 3
      || (t.1 ≠ 0 && (t.1.toNat % 64 ≠ 0 || t.2.1 % 64 ≠ 0
            || !allOwned rs t.1.toNat (t.2.1 * (16 * th - 1) + 16 * tw * texelBytes t.2.2)))
  first > bitsOf x 63 32 || drawBefore (BitVec.ofNat 32 first) counter || bitsOf x 85 84 = 3 || bitsOf x 127 88 ≠ 0
    || bitsOf x 138 128 ≠ 0 || bitsOf x 191 185 ≠ 0 || bitsOf x 255 224 ≠ 0 || bitsOf x 1023 768 ≠ 0
    || (List.range 4).any badTarget
    || badPacket (bitsOf x 1535 1024) || p.cores ≠ 0 || p.aff ≠ 0 || p.ntid ≠ 256 || p.coh ≠ 1 || p.gx ≠ tw || p.gy ≠ th || p.gz ≠ 1

/-- The pass of a descriptor (R335). -/
def passOf (q x : Nat) (launch : Word) : Pass :=
  { q := q
    desc := Vector.ofFn fun i => BitVec.ofNat 64 (bitsOf x (64 * i.val + 63) (64 * i.val))
    launch := some launch, first := BitVec.ofNat 32 (bitsOf x 31 0), last := BitVec.ofNat 32 (bitsOf x 63 32)
    tw := bitsOf x 73 64 + 1, th := bitsOf x 83 74 + 1, samp := 2 ^ bitsOf x 85 84, clear := x.testBit 86, shadeAll := x.testBit 87
    msbase := sext57 (BitVec.ofNat 64 (bitsOf x 184 128)), clearz := BitVec.ofNat 32 (bitsOf x 223 192)
    targets := Vector.ofFn fun g => passTarget x g.val }

/-- Opens a pass (R335): its launch becomes a running launch that places no cohort by itself (R337). -/
def openPass (s : State) (q : Nat) (desc : Dword) : State :=
  let k := s.queueOf q
  if !k.enabled then s
  else
    let no := fun (s : State) (status : Nat) (sig : Dword) => refuse s q status desc.toNat 0 s.mgmt.gen sig
    match physWaits s desc.toNat 192 false with
    | some s => { s with waiting := s.waiting ++ [.passopen q desc] }
    | none =>
    match (if desc.toNat % 64 ≠ 0 then (s, .error 0) else physRead s desc.toNat 192 0) with
    | (s, .error _) => no s 1 0
    | (s, .ok b) =>
      let x := leNat b
      let p := packetOf (bitsOf x 1535 1024)
      let (s, regions) := readRegions s (k.word 3)
      let id := s.nextLaunch
      if badPass x s.geom.drawCounter (regions.getD []) then no s 1 p.donesig
      else
        match readExt s p (queueCtx (k.word 2) k.sup id (regions.getD [])) (queueIssuer s id) with
        | (s, .ok e) =>
          let status := launchStatus s.mgmt p e regions.isSome
          if status ≠ 0 then no s status p.donesig
          else
            let l := { launchOfPacket s k p e (regions.getD []) with pass := some q }
            let s := launchAcquire { s with nextLaunch := id + 1, launches := s.launches ++ [l] }
            { s with geom := { s.geom with passes := s.geom.passes ++ [passOf q x id] } }
        | (s, .wait) => { s with waiting := s.waiting ++ [.passopen q desc] }
        | (s, .late _) => no s 5 p.donesig

/-- PASSOPEN (R334, R335). -/
def execPassopen (q : Nat) (desc : Dword) (s : State) : Host.Outcome State Fault Refusal := .next (pumpRecords (openPass s q desc))

/-- A tile of a pass is final but for its references (R336): its owner's frontier has passed LAST, and the passes before it have
left the tile. -/
def tileFinal (s : State) (p : Pass) (tx ty : Nat) : Bool :=
  let d := tileOwner s.mgmt tx ty
  tx < p.tw && ty < p.th && !p.done.contains (tx, ty) && (p.fault tx ty).isNone && dieUp s d && earlierOver s p tx ty
    && (match dieAt s d with | some x => drawBefore p.last x.frontier && !(x.held.any fun f => inPass p f.draw) | none => false)

/-- The pass of a queue whose tile may be launched next. -/
def tilePass (s : State) (q tx ty : Nat) : Option Pass := s.geom.passes.find? fun p => p.q = q && tileFinal s p tx ty

/-- A tile's block finds a core of the owner, in R163's order, and its launch's microprograms stand there (R219); pre-emption makes room where the
queue's descriptor lets it (R337). The error is what a placement that cannot be made yet leaves behind. -/
def placeTile (s : State) (l : Launch) (die block : Nat) : Except State State :=
  let l := { l with die := some die, nextCohort := block }
  let t := if (findPlace s l block).isSome then s else preemptFor s l
  match findPlace t l block with
  | some (c :: _) => (loadMicro t l c).map fun s => makeRoom (placeBlock s l c block 0) c
  | _ => .error s

/-- A final tile is resolved and launched, or skipped (R336, R337); one that finds no core is resolved when it does. -/
def tileLaunch (s : State) (q tx ty : Nat) : State :=
  match tilePass s q tx ty with
  | none => s
  | some p =>
    let die := tileOwner s.mgmt tx ty
    let s0 := s
    match resolveTile s p die tx ty false with
    | (s, .ok l) =>
      let clip := fun (s : State) => modDie (modPass s p fun p => { p with done := p.done ++ [(tx, ty)] }) die fun d => { d with
        binned := d.binned.filter fun f => !(inPass p f.draw && frondHas f tx ty && f.txmin = f.txmax && f.tymin = f.tymax) }
      let launch := passLaunch s p
      if launch.killed || !(p.shadeAll || l.any fun x => x.1 ≠ 0xFFFFFFFF) then clip s
      else
        match placeTile s launch die (tileBlock p tx ty) with
        | .ok s => clip s
        | .error t => (keepRecalls s0 t).getD s0
    | x => unresolved s0 p tx ty x

/-- TILE_LAUNCH (R337). -/
def execTileLaunch (q : Nat) (tx : Nat) (ty : Nat) (s : State) : Host.Outcome State Fault Refusal := .next (pumpRecords (tileLaunch s q tx ty))

/-! ## VISRD (R338) -/

/-- The pass, the tile's column and row of the issuing block; none outside a tile launch. -/
def curTile (s : State) : Option (Pass × Nat × Nat) :=
  if s.curLaunch.pass.isNone then none
  else (s.geom.passes.find? fun p => p.launch = some s.cur.launch).map fun p =>
    (p, s.cur.block.toNat % p.tw, s.cur.block.toNat / p.tw)

/-- The identifier and depth of a sample of a pixel of the issuing block's tile. -/
def sampleAt (s : State) (p : Pass) (tx ty pix smp : Nat) : Word × Word :=
  let t := (dieAt s (tileOwner s.mgmt tx ty)).bind fun d => d.tiles.find? fun x => x.1 = p.q && x.2.tx = tx && x.2.ty = ty
  if smp ≥ p.samp then (0xFFFFFFFF, p.clearz)
  else match t with
    | some (_, t) => t.samples.getD (pix * p.samp + smp) (0xFFFFFFFF, p.clearz)
    | none => (0xFFFFFFFF, p.clearz)

/-- One repetition of VISRD: the pixel of each lane, its result. -/
def visrdRep (gr : Grp) (p : Pass) (tx ty d : Nat) (smp : BitVec 2) (pix : Warp → Fin 32 → Nat) (use : Warp → Warp) (s : State) : State × Perf :=
  let w := s.cur
  let s := { s with cur := use w }
  ((lanesOf (w.active gr)).foldl (fun s l =>
    let x := sampleAt s p tx ty (pix w l) smp.toNat
    landWords s d l [x.1, x.2]) s, .done)

/-- VISRD of the lane's own pixel (R337, R338). -/
def execVisrd (gr : Grp) (d : BitVec 6) (smp : BitVec 2) (s : State) : Host.Outcome State Fault Refusal :=
  perform (.visrd gr d smp) (fun s =>
    match checkReps gr fun k => vRange s.cur (repD gr d.toNat k) 2 with
    | .error t => (s, .trap t)
    | .ok _ =>
      match curTile s with
      | none => (s, .trap (trap 0x03 0x07))
      | some (p, tx, ty) => ending gr (runReps gr (fun k s =>
          visrdRep gr p tx ty (repD gr d.toNat k) smp (fun w l => w.threads[l].tid) id s) s)) s

/-- VISRD of a given pixel (R338). -/
def execVisrdPix (gr : Grp) (d : BitVec 6) (a : BitVec 6) (lka : BitVec 2) (smp : BitVec 2) (s : State) : Host.Outcome State Fault Refusal :=
  perform (.visrdPix gr d a lka smp) (fun s =>
    match checkReps gr fun k => do vRange s.cur (repD gr d.toNat k) 2; vRange s.cur (repA gr a.toNat k) 1 with
    | .error t => (s, .trap t)
    | .ok _ =>
      match curTile s with
      | none => (s, .trap (trap 0x03 0x07))
      | some (p, tx, ty) => ending gr (runReps gr (fun k s =>
          visrdRep gr p tx ty (repD gr d.toNat k) smp (fun w l => bits (w.getV (repA gr a.toNat k) l) 7 0)
            (fun w => w.lastUse w.executing lka [repA gr a.toNat k]) s) s)) s

/-! ## Pixels and texels -/

/-- A UNORM byte as F32 (R341). -/
def unorm8 (c : Nat) : Nat := f32.round 0 false false c 255

/-- The channels of a pixel or texel as F32 patterns (R339, R341): red, green, blue, alpha. -/
def unpackTexel (fmt x : Nat) : List Nat :=
  match fmt with
  | 0 => (List.range 4).map fun k => unorm8 (bitsOf x (8 * k + 7) (8 * k))
  | 1 => (List.range 4).map fun k => storeAs f32 0 false f16 (f16.unpack (bitsOf x (16 * k + 15) (16 * k)))
  | 2 => [x % 2 ^ 32, 0, 0, f32.one]
  | _ => (List.range 4).map fun k => bitsOf x (32 * k + 31) (32 * k)

/-- A channel stored as a UNORM byte (R339). -/
def toUnorm8 (x : Nat) : Nat :=
  match f32.unpack (f32.clamp01 true x) with
  | .fin _ v => (roundToInt 0 (v * 255)).toNat
  | _ => 0

/-- The bytes of a pixel from its channels (R339). -/
def packTexel (fmt : Nat) (c : List Nat) : List Byte :=
  match fmt with
  | 0 => c.flatMap fun x => leBytes 1 (toUnorm8 x)
  | 1 => c.flatMap fun x => leBytes 2 (storeAs f16 0 false f32 (f32.unpack x))
  | 2 => leBytes 4 (c.headD 0)
  | _ => c.flatMap fun x => leBytes 4 x

/-- A channel of RPIX's result (R339). -/
def pixelOp (op : BitVec 3) (dst src alpha : Nat) : Nat :=
  match op.toNat with
  | 0 => src
  | 1 => f32.fma 0 dst (f32.sub 0 f32.one alpha) src
  | 2 => f32.add 0 dst src
  | 3 => f32.minmax false dst src
  | _ => f32.minmax true dst src

/-! ## RPIX (R75, R339) -/

/-- The stored bytes of a pixel: the owner's line where it holds them, the home copy below (R75). -/
def pixelRead (s : State) (i : Issuer) (die : Nat) (a : Acc) (n : Nat) : State × Done (List Byte) :=
  match (partOf a).place with
  | .mem pa _ =>
    let o := match dieAt s die with | some d => d.render | none => []
    if (List.range n).all fun k => (Overlay.get? o (pa + k)).isSome then (s, .ok (Overlay.over o pa (List.replicate n 0)))
    else if mustWait s (physReq s pa a.key (.read n)) s.home.held then (startRecall s (pa / 64) false, .wait)
    else
      match readGran (recallLine s (pa / 64) false) pa n a.key with
      | (s, .ok b) => (s, .ok (Overlay.over o pa b))
      | (s, .error sub) => (s, .late { trapAt 100 0x41 sub a.va with late := true })
  | _ =>
    match loadAcc s i a true 3 with
    | (s, .ok x) => (s, .ok x.bytes)
    | (s, .wait) => (s, .wait)
    | (s, .late t) => (s, .late t)

/-- A render-region line is written back to its home (R75): its bytes as one write, whole or byte by byte; false while the home makes it wait
(R69, R83). -/
def writeBackLine (s : State) (launch : Word) (o : Overlay) (line key : Nat) : State × Bool :=
  let cells := o.filter fun c => c.1 / 64 = line
  match physWaits s (line * 64) 64 true with
  | some s => (s, false)
  | none =>
    match mergeCells (recallLine s line true) line cells key with
    | (s, true) => (tagLine s line (cells.length = 64) none false, true)
    | (s, false) =>
      (launchRecord s { code := 0x41, sub := 1, kind := 2, addr := BitVec.ofNat 64 (line * 64), launch := launch, warp := 0xFFFF }, true)

/-- A shading die writes back some of its render-region lines (R75); those whose home makes them wait stay. -/
def writeBackLines (s : State) (d : ShadeDie) (ls : List (Nat × Nat × Word)) : State :=
  ls.foldl (fun s x =>
    match writeBackLine s x.2.2 d.render x.1 x.2.1 with
    | (s, false) => s
    | (s, true) => modDie s d.socket fun d =>
        (let rest := d.renderLines.filter fun y => y ≠ x
         { d with renderLines := rest, render := d.render.filter fun c => rest.any fun y => y.1 = c.1 / 64 })) s

/-- Room for a line in the owner's render-region cache (R46): of a full set of its 16,384 sets of 16 ways, taken by the line's number, the line that
came first is written back and leaves (DESIGN CHOICE: R46 gives the capacity and the ways, no rule says which line makes room); false while its
home makes it wait. -/
def renderRoom (s : State) (die line : Nat) : State × Bool :=
  match dieAt s die with
  | none => (s, true)
  | some d =>
    if d.renderLines.any fun x => x.1 = line then (s, true)
    else
      match ((d.renderLines.map fun x => x.1).filter fun n => n % 16384 = line % 16384).eraseDups with
      | first :: more =>
        if more.length < 15 then (s, true)
        else
          let s := writeBackLines s d (d.renderLines.filter fun x => x.1 = first)
          (s, (dieAt s die).all fun d => d.renderLines.all fun x => x.1 ≠ first)
      | [] => (s, true)

/-- The pixel goes into the owner's render-region cache (R75). -/
def pixelWrite (s : State) (i : Issuer) (die : Nat) (a : Acc) (d : List Byte) : State × Done Unit :=
  match (partOf a).place with
  | .mem pa _ =>
    match renderRoom s die (pa / 64) with
    | (s, false) => (s, .wait)
    | (s, true) =>
      (modDie s die fun x => { x with
        render := Overlay.put x.render pa d
        renderLines := putBy (fun y => y.1 = pa / 64 && y.2.2 = i.launch) (pa / 64, a.key, i.launch) x.renderLines }, .ok ())
  | _ => storeAcc s i a d none

/-- The checks of a lane of RPIX (R259, R339). -/
def checkPixel (s : State) (p : Pass) (tx ty : Nat) (tgt : BitVec 2) (b : Nat) (l : Fin 32) : State × Except Trap Acc :=
  let t := p.targets[tgt.toFin]
  let x := bits (s.cur.getV b l) 13 0
  let y := bits (s.cur.getV b l) 29 16
  let va := t.1 + BitVec.ofNat 64 (y * t.2.1 + x * texelBytes t.2.2)
  if t.1 = 0 then (s, .error (trapAt 40 0x11 0x06 va))
  else if x / 16 ≠ tx || y / 16 ≠ ty then (s, .error (trapAt 40 0x11 0x05 va))
  else
    match translate s (laneCtx s l) va (texelBytes t.2.2) .pixel with
    | (s, .error e) => (s, .error e)
    | (s, .ok a) => (s, watched s a (texelBytes t.2.2) true)

/-- One lane of RPIX. -/
def pixelLane (op : BitVec 3) (fmt die a : Nat) (s : State) (l : Fin 32) (acc : Acc) : State × Done Unit :=
  if doneLane s l then (s, .ok ())
  else
    let i := curIssuer s (laneBit l)
    let n := if fmt = 2 then 1 else 4
    let src := (List.range n).map fun k => (s.cur.getV (a + k) l).toNat
    let alpha := if fmt = 2 then f32.one else src.getD 3 0
    match pixelRead s i die acc (texelBytes fmt) with
    | (s, .wait) => (s, .wait)
    | (s, .late t) => (s, .late t)
    | (s, .ok b) =>
      let dst := (unpackTexel fmt (leNat b)).take n
      pixelWrite s i die acc (packTexel fmt ((dst.zip src).map fun (x, y) => pixelOp op x y alpha))

/-- RPIX (R339). -/
def execRpix (gr : Grp) (op : BitVec 3) (tgt : BitVec 2) (a : BitVec 6) (lka : BitVec 2) (b : BitVec 6) (lkb : BitVec 2) (s : State) : Host.Outcome State Fault Refusal :=
  perform (.rpix gr op tgt a lka b lkb) (fun s =>
    let n := match curTile s with | some (p, _, _) => (if p.targets[tgt.toFin].2.2 = 2 then 1 else 4) | none => 1
    match checkReps gr fun k => do vRange s.cur (repA gr a.toNat k) n; vRange s.cur (repB gr b.toNat k) 1 with
    | .error t => (s, .trap t)
    | .ok _ =>
      match curTile s with
      | none => (s, .trap (trap 0x03 0x07))
      | some (p, tx, ty) => ending gr (runReps gr (fun k s =>
          let ra := repA gr a.toNat k
          match checkLanes s (lanesOf (s.cur.active gr)) fun s l => checkPixel s p tx ty tgt (repB gr b.toNat k) l with
          | (s, .error t) => (s, .trap t)
          | (s, .ok as) =>
            let fmt := p.targets[tgt.toFin].2.2
            settle (sweepFrom (pixelLane op fmt (tileOwner s.mgmt tx ty) ra) as s {}) (fun _ => 0) false (fun _ => true) fun s _ =>
              let w := (s.cur.lastUse s.cur.executing lka (fromTo ra (ra + n - 1))).lastUse s.cur.executing lkb [repB gr b.toNat k]
              (touchAll { s with cur := w } as, .done)) s)) s

/-! ## Loads through maps -/

/-- Checked loads of items, in order: their values as numbers. -/
def loadItems (s : State) (fresh : Bool) (cpol : BitVec 3) (as : List (Fin 32 × Acc)) (k : State → List Nat → State × Perf) : State × Perf :=
  settle (loadLanes fresh cpol as s) (fun _ => 0) true (fun _ => false) fun s vs => k (touchAll s as) (vs.map fun v => leNat v.2.bytes)

/-- A descriptor of 64 bytes, read once for the group by its lowest active lane. -/
def withDesc (s : State) (m : Mask) (va : Dword) (fresh : Bool) (cpol : BitVec 3) (k : State → Nat → State × Perf) : State × Perf :=
  match checkLanes s [lowLane m] fun s l => checkLane s l va 64 64 .data with
  | (s, .error t) => (s, .trap t)
  | (s, .ok as) => loadItems s fresh cpol as fun s v => k s (v.headD 0)

/-- Loads through a map (R259, R326, R342): the map words are read, and what they name is checked; the earliest failed check of both decides, and
then nothing has been performed. -/
def throughMap {α β : Type} (s : State) (fresh : Bool) (cpol : BitVec 3) (maps : List (Fin 32 × α))
    (chkMap : State → Fin 32 → α → State × Except Trap Acc) (named : List ((Fin 32 × α) × Nat) → List (Fin 32 × β))
    (chk : State → Fin 32 → β → State × Except Trap Acc)
    (k : State → List ((Fin 32 × α) × Nat) → List (Fin 32 × Acc) → State × Perf) : State × Perf :=
  let (s, rs) := checkEach s maps chkMap
  let good := ((maps.zip rs).filter fun x => match x.2.2 with | .ok _ => true | .error _ => false).map fun x => x.1
  loadItems s fresh cpol (passedOf rs) fun t ws =>
    let got := good.zip ws
    let (t, more) := checkEach t (named got) chk
    match earliest (failuresOf (rs ++ more)) with
    | some e => (s, .trap e)
    | none =>
      match markLanes t (passedOf more) with
      | (t, true) => k t got (passedOf more)
      | (_, false) => (s, .trap waitAtHome)

/-- The word of page `n` in a residency or feedback map (R325). -/
def mapWord (base : Dword) (n : Nat) : Dword := base + BitVec.ofNat 64 (4 * (n / 32))
def mapBit (x n : Nat) : Bool := x.testBit (n % 32)

/-- The checks of a feedback update (R269, R327). -/
def checkFeedback (s : State) (l : Fin 32) (fmap : Dword) (page : Nat) : State × Except Trap Acc :=
  checkLane s l (mapWord fmap page) 4 4 .atomic false (redMatch 7)

/-- Feedback updates of lanes: those of one bit make one update, with the effect of RED.OR.B32 (R327). -/
def feedback (s : State) (m : Mask) (l : List (Fin 32 × Acc × Nat)) (k : State → State × Perf) : State × Perf :=
  if l = [] then k s
  else
    match (if s.cur.memrev then .go else releaseGate s m .core) with
    | .trap t => (s, .trap t)
    | .wait => (s, .wait (.order m))
    | .go =>
      if !tagRoom s then (s, .wait .retry)
      else
        let once := l.foldl (fun (r : List (Fin 32 × Acc × Nat)) x => if r.any fun y => y.2.1.va = x.2.1.va && y.2.2 = x.2.2 then r else r ++ [x]) []
        let (s, ws) := once.foldl (fun (s, w) (x : Fin 32 × Acc × Nat) =>
          match tagged s (taggedLane s.cur x.1 (!s.cur.memrev) .core) fun s e => redLane s x.1 x.2.1 7 (BitVec.ofNat 64 (2 ^ (x.2.2 % 32))) e with
          | (s, .ok _) => (s, w)
          | (s, .wait) => (s, { w with waits := true })
          | (s, .late t) => (s, { w with late := w.late ++ [(x.1, t)] })) (s, ({} : Swept Dword))
        settle (touchAll s (l.map fun x => (x.1, x.2.1)), ws) id true (fun _ => false) fun s _ => k s

/-- The end of a group of loads: in fence-strengthening mode each is an acquire (R110). -/
def mapsEnd (m : Mask) (s : State) : State × Perf := (if s.cur.memrev then s else acquire s m .core, .done)

/-! ## LDCL (R325, R326) -/

/-- A cluster-geometry descriptor breaks R325. -/
def badCluster (x : Nat) : Bool :=
  bitsOf x 63 57 ≠ 0 || bitsOf x 127 88 ≠ 0 || bitsOf x 191 185 ≠ 0 || bitsOf x 255 249 ≠ 0 || bitsOf x 511 256 ≠ 0
    || bitsOf x 87 64 = 0 || bitsOf x 15 0 ≠ 0 || bitsOf x 129 128 ≠ 0 || bitsOf x 193 192 ≠ 0

/-- The byte offset of a lane in the set (R326), and whether it lies outside. -/
def ldclOffset (w : Warp) (gr : Grp) (vi : Nat) (l : Fin 32) : Int := (w.getV vi l).toNat + (offOf gr).toInt

/-- What LDCL checks of a lane once it knows its map bit (R259, R326). -/
inductive LdclItem where
  | data | misaligned | feedback
  deriving DecidableEq, Repr

/-- One repetition of LDCL (R326). -/
def ldclRep (gr : Grp) (v vi sb : Nat) (t : BitVec 3) (fresh : Bool) (s : State) : State × Perf :=
  let m := s.cur.active gr
  if m = 0 then (s, .done)
  else
    let va := s.cur.getS sb
    let cpol := cpolOf gr
    withDesc s m va fresh cpol fun s x =>
      if badCluster x then (s, .trap { trapAt 60 0x10 0x10 va with lanes := m })
      else
        let size := tyBytes t
        let at_ := fun (k : Nat) => sext57 (BitVec.ofNat 64 (bitsOf x (64 * k + 56) (64 * k)))
        let off := fun (l : Fin 32) => ldclOffset s.cur gr vi l
        let isIn := fun (l : Fin 32) => decide (0 ≤ off l ∧ off l + (size : Int) ≤ (bitsOf x 87 64 * 65536 : Nat))
        let page := fun (l : Fin 32) => (off l).toNat / 65536
        let ins := (lanesOf m).filter isIn
        let data := fun (l : Fin 32) => at_ 0 + BitVec.ofNat 64 (off l).toNat
        let here := fun (got : List ((Fin 32 × Unit) × Nat)) => (got.filter fun y => mapBit y.2 (page y.1.1)).map fun y => y.1.1
        let gone := fun (got : List ((Fin 32 × Unit) × Nat)) => (got.filter fun y => !mapBit y.2 (page y.1.1)).map fun y => y.1.1
        throughMap s fresh cpol (ins.map fun l => (l, ())) (fun s l _ => checkLane s l (mapWord (at_ 2) (page l)) 4 4 .data)
          (fun got => (here got).map (fun l => (l, LdclItem.data)) ++ ((gone got).filter fun l => (data l).toNat % size ≠ 0).map (fun l => (l, .misaligned))
            ++ (if at_ 3 = 0 then [] else gone got).map fun l => (l, .feedback))
          (fun s l x => match x with
            | .data => checkLane s l (data l) size size .data
            | .misaligned => (s, .error (trapAt 70 0x18 0x00 (data l)))
            | .feedback => checkFeedback s l (at_ 3) (page l))
          fun s got as => loadItems s fresh cpol (as.take (here got).length) fun s ds =>
            feedback s m ((as.drop (here got).length).map fun x => (x.1, x.2, page x.1)) fun s =>
              let n := tyRegs t
              let words := fun (l : Fin 32) => match ((here got).zip ds).find? fun y => y.1 = l with
                | some y => 0 :: (List.range n).map fun i => BitVec.ofNat 32 (y.2 / 2 ^ (32 * i))
                | none => (if isIn l then 1 else 2) :: List.replicate n 0
              mapsEnd m ((lanesOf m).foldl (fun s l => landWords s v l (words l)) s)

/-- LDCL (R326). -/
def execLdcl (gr : Grp) (v : BitVec 6) (b : BitVec 6) (i : BitVec 6) (t : BitVec 3) (f : BitVec 1) (s : State) : Host.Outcome State Fault Refusal :=
  perform (.ldcl gr v b i t f) (fun s =>
    match memRegs gr s.cur v i (tyRegs t + 1) with
    | .error e => (s, .trap e)
    | .ok _ => ending gr (runReps gr (fun k s => ldclRep gr (repD gr v.toNat k) (repA gr i.toNat k) b.toNat t (f = 1) s) s)) s

/-! ## Textures (R340 to R342) -/

/-- A texture descriptor (R340). -/
structure Texture where
  base : Dword
  w : Nat
  h : Nat
  lvm1 : Nat
  fmt : Nat
  linear : Bool
  wrapU : Bool
  wrapV : Bool
  rmap : Dword
  fmap : Dword
  deriving DecidableEq, Repr

def textureOf (x : Nat) : Texture :=
  { base := sext57 (BitVec.ofNat 64 (bitsOf x 56 0)), w := bitsOf x 77 64 + 1, h := bitsOf x 91 78 + 1, lvm1 := bitsOf x 95 92
    fmt := bitsOf x 97 96, linear := x.testBit 98, wrapU := x.testBit 99, wrapV := x.testBit 100
    rmap := sext57 (BitVec.ofNat 64 (bitsOf x 184 128)), fmap := sext57 (BitVec.ofNat 64 (bitsOf x 248 192)) }

/-- A texture descriptor breaks R340. -/
def badTexture (x : Nat) : Bool :=
  bitsOf x 63 57 ≠ 0 || bitsOf x 127 101 ≠ 0 || bitsOf x 191 185 ≠ 0 || bitsOf x 255 249 ≠ 0 || bitsOf x 511 256 ≠ 0
    || bitsOf x 95 92 = 15 || bitsOf x 5 0 ≠ 0 || bitsOf x 129 128 ≠ 0 || bitsOf x 193 192 ≠ 0

namespace Texture
/-- The extent, pitch and place of a level (R340). -/
def width (t : Texture) (n : Nat) : Nat := Nat.max 1 (t.w / 2 ^ n)
def height (t : Texture) (n : Nat) : Nat := Nat.max 1 (t.h / 2 ^ n)
def pitch (t : Texture) (n : Nat) : Nat := (t.width n * texelBytes t.fmt + 63) / 64 * 64
def level (t : Texture) (n : Nat) : Nat := (List.range n).foldl (fun a k => a + t.pitch k * t.height k) 0
/-- The offset of a texel from BASE. -/
def texel (t : Texture) (n x y : Nat) : Nat := t.level n + y * t.pitch n + x * texelBytes t.fmt
end Texture

/-- What a lane's lookup needs: nothing, one texel, or the four of a bilinear one with their weights in 1/65536 (R341). -/
inductive Lookup where
  | outside
  | one (off : Nat)
  | four (l : List (Nat × Nat))
  deriving DecidableEq, Repr
def Lookup.offsets : Lookup → List Nat
  | .outside => []
  | .one o => [o]
  | .four l => l.map fun x => x.2

/-- A coordinate in units of 2^-149 (R341): a NaN reads as 0; an infinite one lies beyond every texel, or gives 0 with wrap. -/
def texCoord (wrap : Bool) (x : Word) : Int :=
  match f32.unpack x.toNat with
  | .nan _ => 0
  | .inf neg => if wrap then 0 else if neg then -(2 ^ 290) else 2 ^ 290
  | .fin _ v => v
/-- A texel coordinate wrapped or clamped to the extent. -/
def texAxis (wrap : Bool) (n : Nat) (i : Int) : Nat :=
  if wrap then (i % (n : Int)).toNat else if i < 0 then 0 else Nat.min i.toNat (n - 1)

/-- TEX.SAMPLE's lookup (R341). -/
def texSample (t : Texture) (u v lod : Word) : Lookup :=
  let n : Nat := match f32.unpack lod.toNat with
    | .nan _ => 0
    | .inf neg => if neg then 0 else t.lvm1
    | .fin _ x => Nat.min (roundToInt 0 x).toNat t.lvm1
  let w := t.width n
  let h := t.height n
  let x := texCoord t.wrapU u * w
  let y := texCoord t.wrapV v * h
  if !t.linear then .one (t.texel n (texAxis t.wrapU w (x / 2 ^ 149)) (texAxis t.wrapV h (y / 2 ^ 149)))
  else
    let x := x - 2 ^ 148
    let y := y - 2 ^ 148
    let fx := (x % 2 ^ 149 * 256 / 2 ^ 149).toNat
    let fy := (y % 2 ^ 149 * 256 / 2 ^ 149).toNat
    let at_ := fun (dx dy : Int) => t.texel n (texAxis t.wrapU w (x / 2 ^ 149 + dx)) (texAxis t.wrapV h (y / 2 ^ 149 + dy))
    .four ([((256 - fx) * (256 - fy), at_ 0 0), (fx * (256 - fy), at_ 1 0), ((256 - fx) * fy, at_ 0 1), (fx * fy, at_ 1 1)].filter
      fun e => e.1 ≠ 0)

/-- TEX.FETCH's lookup (R341). -/
def texFetch (t : Texture) (x y level : Word) : Lookup :=
  let n := level.toNat
  if n > t.lvm1 || x.toNat ≥ t.width n || y.toNat ≥ t.height n then .outside else .one (t.texel n x.toNat y.toNat)

/-- The exact weighted sum of a channel, rounded once (R237, R238, R341). -/
def texBlend (l : List (Nat × Nat)) : Nat :=
  let vs := l.map fun e => (e.1, f32.unpack e.2)
  match vs.findSome? fun e => match e.2 with | .nan b => some b | _ => none with
  | some b => f32.quiet b
  | none =>
    let p := vs.any fun e => e.2 = .inf false
    let n := vs.any fun e => e.2 = .inf true
    if p && n then f32.canon
    else if p then f32.ovf
    else if n then f32.sgn true + f32.ovf
    else
      let sum : Int := vs.foldl (fun a e => match e.2 with | .fin _ v => a + e.1 * v | _ => a) 0
      f32.roundInt 0 (sumZeroNeg 0 (vs.map fun e => match e.2 with | .fin s _ => s | _ => false)) false sum (2 ^ 165)

/-- The channels of a lookup from the texels read (R341). -/
def texResult (t : Texture) (k : Lookup) (texels : List Nat) : List Nat :=
  match k with
  | .outside => [0, 0, 0, 0]
  | .one _ => unpackTexel t.fmt (texels.headD 0)
  | .four l =>
    let cs := (l.zip texels).map fun (e, x) => (e.1, unpackTexel t.fmt x)
    (List.range 4).map fun c => texBlend (cs.map fun e => (e.1, e.2.getD c 0))

/-- One repetition of TEX, or of TEXFB (`fb`) (R341, R342). -/
def texRep (gr : Grp) (d a : Nat) (lka : BitVec 2) (sb : Nat) (fb : Bool) (s : State) : State × Perf :=
  let m := s.cur.active gr
  let arg := s.cur.getS sb
  let use := fun (s : State) => { s with cur := s.cur.lastUse s.cur.executing lka (fromTo a (a + 2)) }
  if m = 0 then (use s, .done)
  else if bits arg 5 1 ≠ 0 then (s, .trap (trap 0x01 0x01))
  else
    let va := sext57 (arg - BitVec.ofNat 64 (bits arg 5 0))
    let cpol := cpolOf gr
    withDesc s m va false cpol fun s x =>
      if badTexture x then (s, .trap { trapAt 60 0x10 0x12 va with lanes := m })
      else
        let t := textureOf x
        let w := s.cur
        let look := fun (l : Fin 32) =>
          (if arg.getLsbD 0 then texFetch else texSample) t (w.getV a l) (w.getV (a + 1) l) (w.getV (a + 2) l)
        let need := (lanesOf m).flatMap fun l => (look l).offsets.map fun o => (l, o)
        let goneOf := fun (got : List ((Fin 32 × Nat) × Nat)) =>
          (got.filter fun y => !mapBit y.2 (y.1.2 / 65536)).map fun y => (y.1.1, y.1.2 / 65536)
        let absentIn := fun (got : List ((Fin 32 × Nat) × Nat)) (l : Fin 32) => (goneOf got).any fun y => y.1 = l
        let texelsOf := fun (got : List ((Fin 32 × Nat) × Nat)) => need.filter fun y => !absentIn got y.1
        let backOf := fun (got : List ((Fin 32 × Nat) × Nat)) => if t.fmap = 0 then [] else (goneOf got).eraseDups
        throughMap s false cpol (if fb then need else []) (fun s l o => checkLane s l (mapWord t.rmap (o / 65536)) 4 4 .data)
          (fun got => (texelsOf got).map (fun y => (y.1, y.2, true)) ++ (backOf got).map fun y => (y.1, y.2, false))
          (fun s l (y : Nat × Bool) =>
            if y.2 then checkLane s l (t.base + BitVec.ofNat 64 y.1) (texelBytes t.fmt) (texelBytes t.fmt) .data
            else checkFeedback s l t.fmap y.1)
          fun s got as =>
          let absent := absentIn got
          let texels := texelsOf got
          let back := backOf got
          loadItems s false cpol (as.take texels.length) fun s ds =>
            feedback s m (((as.drop texels.length).zip back).map fun y => (y.1.1, y.1.2, y.2.2)) fun s =>
              let result := fun (l : Fin 32) =>
                let mine := ((texels.zip ds).filter fun y => y.1.1 = l).map fun y => y.2
                let c := if absent l then [0, 0, 0, 0] else texResult t (look l) mine
                let st := if !fb then [] else [if look l = .outside then 2 else if absent l then 1 else 0]
                (c ++ st).map fun y => BitVec.ofNat 32 y
              mapsEnd m ((lanesOf m).foldl (fun s l => landWords s d l (result l)) (use s))

/-- The registers of TEX and TEXFB. -/
def texRegs (gr : Grp) (w : Warp) (d a b : BitVec 6) (n : Nat) : Except Trap Unit :=
  checkReps gr fun k => do vRange w (repD gr d.toNat k) n; vRange w (repA gr a.toNat k) 3; sRange (repB gr b.toNat k) 1

/-- TEX (R341). -/
def execTex (gr : Grp) (d : BitVec 6) (a : BitVec 6) (lka : BitVec 2) (b : BitVec 6) (s : State) : Host.Outcome State Fault Refusal :=
  perform (.tex gr d a lka b) (fun s =>
    match texRegs gr s.cur d a b 4 with
    | .error e => (s, .trap e)
    | .ok _ => ending gr (runReps gr (fun k s => texRep gr (repD gr d.toNat k) (repA gr a.toNat k) lka (repB gr b.toNat k) false s) s)) s

/-- TEXFB (R342). -/
def execTexfb (gr : Grp) (d : BitVec 6) (a : BitVec 6) (lka : BitVec 2) (b : BitVec 6) (s : State) : Host.Outcome State Fault Refusal :=
  perform (.texfb gr d a lka b) (fun s =>
    match texRegs gr s.cur d a b 5 with
    | .error e => (s, .trap e)
    | .ok _ => ending gr (runReps gr (fun k s => texRep gr (repD gr d.toNat k) (repA gr a.toNat k) lka (repB gr b.toNat k) true s) s)) s

end Sys2Proof.Machine
end

