-- ==== Sys2Proof/Machine/Collectives.lean ====
section
/-! DEFINITION. Composite and reduction collectives: join descriptors, packets and the canonical tree (R353 to R360), frames and their
writes (R356, R361 to R367), and the instructions CPOST, CRED, CWAIT and CJOIN (R368 to R371). -/

namespace Sys2Proof.Machine

/-! ## The join descriptor (R354, R355) -/

/-- The fields of a join descriptor (R354), the counts with their 1 added. -/
structure JoinDesc where
  cid : Half
  op : Nat
  late : Nat
  dest : Nat
  fmt : Nat
  rank : Nat
  n : Nat
  deadline : Nat
  tw : Nat
  th : Nat
  blocks : Nat
  roster : Dword
  daddr : Dword
  statAddr : Dword
  pbMap : Dword
  sigAddr : Dword
  holdBase : Dword
  deriving DecidableEq, Repr
def joinDesc (w : Vector Dword 8) : JoinDesc :=
  { cid := BitVec.ofNat 16 (bits w[0] 15 0), op := bits w[0] 18 16, late := bits w[0] 20 19, dest := bits w[0] 22 21
    fmt := bits w[0] 24 23, rank := bits w[0] 43 32, n := bits w[0] 55 44 + 1, deadline := bits w[1] 23 0
    tw := bits w[1] 33 24 + 1, th := bits w[1] 43 34 + 1, blocks := bits w[1] 63 44 + 1
    roster := sext57 w[2], daddr := sext57 w[3], statAddr := sext57 w[4], pbMap := sext57 w[5], sigAddr := sext57 w[6]
    holdBase := sext57 w[7] }
def descOf (b : List Byte) : Vector Dword 8 := Vector.ofFn fun k => BitVec.ofNat 64 (leNat ((b.drop (8 * k.val)).take 8))
def descBytes (w : Vector Dword 8) : List Byte := w.toList.flatMap fun x => leBytes 8 x.toNat

namespace JoinDesc
/-- The operation merges tiles, not tensor blocks. -/
def tiles (j : JoinDesc) : Bool := j.op < 3
/-- The tiles or blocks of a frame. -/
def count (j : JoinDesc) : Nat := if j.tiles then j.tw * j.th else j.blocks
/-- The WHERE field of a tile or block (R357). -/
def place (j : JoinDesc) (i : Nat) : Nat := if j.tiles then i / j.tw * 1024 + i % j.tw else i
/-- The tile or block index of a WHERE field (R362, R365). -/
def index (j : JoinDesc) (w : Nat) : Nat := if j.tiles then w / 1024 * j.tw + w % 1024 else w
/-- The payload of a packet (R357). -/
def payload (j : JoinDesc) : Nat := if !j.tiles then 4096 else if j.fmt = 0 then 3072 else 2048
end JoinDesc

/-- The join descriptor breaks R355, apart from the roster's entries and the head. -/
def badJoin (w : Vector Dword 8) : Bool :=
  let j := joinDesc w
  let addrs := [j.roster, j.daddr, j.statAddr, j.pbMap, j.sigAddr, j.holdBase]
  bits w[0] 31 25 ≠ 0 || bits w[0] 63 56 ≠ 0 || [w[2], w[3], w[4], w[5], w[6], w[7]].any (fun x => bits x 63 57 ≠ 0)
    || j.op > 5 || j.late = 3 || j.fmt > 1 || j.rank ≥ j.n
    || (j.tiles && j.blocks ≠ 1)
    || (!j.tiles && (j.fmt ≠ 0 || j.dest < 2 || j.late = 1 || j.tw ≠ 1 || j.th ≠ 1))
    || (j.op = 2 && j.fmt ≠ 1) || (j.op < 2 && j.fmt ≠ 0)
    || (j.dest ≥ 2 && j.daddr = 0) || (j.late = 1 && j.holdBase = 0) || addrs.any inAperture

/-- Two descriptors agree in every field but MYRANK (R355). -/
def sameDesc (a b : Vector Dword 8) : Bool :=
  (List.finRange 8).all fun k => if k.val = 0 then bits a[0] 31 0 = bits b[0] 31 0 && bits a[0] 63 44 = bits b[0] 63 44 else a[k] = b[k]

/-! ## Packets (R357) -/

/-- The header of a packet up to its CRC (R357). -/
def headerBytes (p : CollPacket) : List Byte :=
  leBytes 4 (p.cid.toNat + bit p.tensor * 2 ^ 16 + p.fmt.toNat * 2 ^ 18) ++ leBytes 4 p.frame.toNat ++ leBytes 4 p.loc
    ++ leBytes 4 (p.spanlo + p.spann * 2 ^ 12)
    ++ leBytes 4 (p.pcount + bit p.firstMiss.isSome * 2 ^ 13 + p.firstMiss.getD 0 * 2 ^ 14 + bit p.held * 2 ^ 26)
    ++ leBytes 4 0 ++ leBytes 32 p.cover.toNat ++ leBytes 4 0
/-- The packet as it stands in the hold store (R362): header and payload. -/
def packetBytes (p : CollPacket) : List Byte :=
  headerBytes p ++ leBytes 4 (crc32c (headerBytes p ++ p.payload)) ++ p.payload

/-- The bytes of a packet in whole flits (R357). -/
def flitBytes (p : CollPacket) : Nat := (64 + p.payload.length + 255) / 256 * 256

/-! ## Merging (R359) -/

/-- A pixel of a tile: covered, its colour's bytes, its depth. -/
structure Pixel where
  cov : Bool
  color : List Byte
  depth : Nat
  deriving DecidableEq, Repr

/-- What a packet carries: pixels, or elements. -/
inductive Body where
  | tile (px : List Pixel)
  | block (es : List Nat)
  deriving DecidableEq, Repr

/-- The elements of a tensor block have this many bytes (R357). -/
def tensorBytes (op : Nat) : Nat := if op = 4 then 2 else 4

/-- The body of a packet; a leaf pixel whose depth is a NaN counts as uncovered (R359). -/
def bodyOf (op : Nat) (p : CollPacket) : Body :=
  if op < 3 then
    let colors := chunks 8 256 p.payload
    let depths := if p.fmt = 0 then (chunks 4 256 (p.payload.drop 2048)).map leNat else List.replicate 256 0
    let nan := fun (d : Nat) => match f32.unpack d with | .nan _ => true | _ => false
    .tile (((colors.zip depths).zipIdx).map fun x =>
      { cov := p.cover.getLsbD x.2 && !(p.spann = 1 && p.fmt = 0 && nan x.1.2), color := x.1.1, depth := x.1.2 })
  else .block ((chunks (tensorBytes op) (4096 / tensorBytes op) p.payload).map leNat)

/-- A 16-bit channel as F32. -/
def halfToF32 (x : Nat) : Nat := fcvt 1 0 0 false x

/-- OVER on the channels of two colours (R359): the first lies in front. -/
def overColor (x y : List Byte) : List Byte :=
  let xs := (chunks 2 4 x).map fun c => halfToF32 (leNat c)
  let ys := (chunks 2 4 y).map fun c => halfToF32 (leNat c)
  let k := f32.sub 0 f32.one (xs.getD 3 0)
  (xs.zip ys).flatMap fun (a, b) => leBytes 2 (fcvt 0 1 0 false (f32.fma 0 b k a))

/-- One depth wins over another: not above it, or not below it (R359). -/
def depthWins (far : Bool) (x y : Nat) : Bool :=
  match FV.cmp (f32.unpack x) (f32.unpack y) with
  | some (lt, eq) => eq || (if far then !lt else lt)
  | none => false

/-- The merge of two pixels (R359). -/
def mergePixel (op : Nat) (x y : Pixel) : Pixel :=
  if !y.cov then x
  else if !x.cov then y
  else match op with
    | 0 => if depthWins false x.depth y.depth then x else y
    | 1 => if depthWins true x.depth y.depth then x else y
    | _ => { x with color := overColor x.color y.color }

/-- The merge of two elements (R359). -/
def mergeElem (op x y : Nat) : Nat :=
  match op with
  | 3 => f32.add 0 x y
  | 4 => bf16.add 0 x y
  | _ => f32.minmax true x y

def mergeBody (op : Nat) : Body → Body → Body
  | .tile a, .tile b => .tile (List.zipWith (mergePixel op) a b)
  | .block a, .block b => .block (List.zipWith (mergeElem op) a b)
  | a, _ => a

/-- The depth of an uncovered pixel (R362). -/
def emptyDepth (op : Nat) : Nat := if op = 0 then 0x7F800000 else 0
/-- The empty tile or block (R362). -/
def emptyBody (op : Nat) : Body :=
  if op < 3 then .tile (List.replicate 256 { cov := false, color := List.replicate 8 0, depth := emptyDepth op })
  else .block (List.replicate (4096 / tensorBytes op) 0)

/-- The payload of a body; an uncovered pixel takes the empty tile's values (R357, R362). -/
def bodyBytes (op fmt : Nat) : Body → List Byte
  | .tile px =>
    (px.flatMap fun x => if x.cov then x.color else List.replicate 8 0)
      ++ (if fmt = 0 then px.flatMap fun x => leBytes 4 (if x.cov then x.depth else emptyDepth op) else [])
  | .block es => es.flatMap fun x => leBytes (tensorBytes op) x
/-- The coverage of a body. -/
def bodyCover : Body → BitVec 256
  | .tile px => BitVec.ofNat 256 ((px.zipIdx.map fun x => if x.1.cov then 2 ^ x.2 else 0).foldl (· + ·) 0)
  | .block _ => 0

/-! ## The canonical tree (R358) -/

/-- The value of a node: its counts, and what it carries unless it is absent. -/
structure NodeVal where
  pcount : Nat
  firstMiss : Option Nat
  held : Bool := false
  body : Option Body
  deriving DecidableEq, Repr

/-- The counts and the contents combined (R358). -/
def combineNode (op : Nat) (x y : NodeVal) : NodeVal :=
  { pcount := x.pcount + y.pcount
    firstMiss := x.firstMiss.or y.firstMiss
    held := x.held || y.held
    body := match x.body, y.body with
      | none, b => b
      | a, none => a
      | some a, some b => some (mergeBody op a b) }

/-- The value of a packet. -/
def packetVal (op : Nat) (p : CollPacket) : NodeVal :=
  { pcount := p.pcount, firstMiss := p.firstMiss, held := p.held, body := some (bodyOf op p) }

/-- node(lo, n) over the packets of one tile or block (R358); `sub` answers for a leaf that is absent (R362). The fuel is the depth
of the tree. -/
def nodeVal (op : Nat) (ps : List CollPacket) (sub : Nat → Option Body) : Nat → Nat → Nat → NodeVal
  | 0, lo, _ => { pcount := 0, firstMiss := some lo, body := none }
  | fuel + 1, lo, n =>
    match ps.find? fun p => p.spanlo = lo && p.spann = n with
    | some p => packetVal op p
    | none =>
      if n ≤ 1 then
        match sub lo with
        | some b => { pcount := 0, firstMiss := some lo, held := true, body := some b }
        | none => { pcount := 0, firstMiss := some lo, body := none }
      else
        let h := (n + 1) / 2
        combineNode op (nodeVal op ps sub fuel lo h) (nodeVal op ps sub fuel (lo + h) (n - h))

/-- The parent of a node of the tree below node(plo, pn), and the node's sibling (R358). -/
def parentOf : Nat → Nat × Nat → Nat × Nat → Option ((Nat × Nat) × (Nat × Nat))
  | 0, _, _ => none
  | fuel + 1, (plo, pn), (lo, n) =>
    let h := (pn + 1) / 2
    if pn ≤ 1 then none
    else if lo = plo && n = h then some ((plo, pn), (plo + h, pn - h))
    else if lo = plo + h && n = pn - h then some ((plo, pn), (plo, h))
    else if lo < plo + h then parentOf fuel (plo, h) (lo, n)
    else parentOf fuel (plo + h, pn - h) (lo, n)

/-! ## Members and the root -/

/-- One frame comes before another, modulo 2^32 (R356). -/
def frameBefore (a b : Word) : Bool := drawBefore a b

/-- The fabric clock, in ticks of 100 ns (R354, R356). -/
def State.fabricTick (s : State) : Nat := s.clock / 400

def memberAt (s : State) (slot : Nat) : Option Member := s.coll.members.find? fun m => m.slot = slot
def setMember (s : State) (m : Member) : State :=
  { s with coll := { s.coll with members := putBy (fun x => x.slot = m.slot) m s.coll.members } }
def modMembers (s : State) (f : Member → Member) : State := { s with coll := { s.coll with members := s.coll.members.map f } }
def Member.cid (m : Member) : Half := (joinDesc m.desc).cid
def collRoot (s : State) (cid : Half) : Option Root := s.coll.roots.find? fun r => r.cid = cid
def setRoot (s : State) (r : Root) : State :=
  { s with coll := { s.coll with roots := putBy (fun x => x.cid = r.cid) r s.coll.roots } }
def modRoot (s : State) (cid : Half) (f : Root → Root) : State :=
  { s with coll := { s.coll with roots := s.coll.roots.map fun r => if r.cid = cid then f r else r } }
def pointOf (s : State) (cid : Half) : Option Point := s.coll.points.find? fun p => p.cid = cid
def setPoint (s : State) (p : Point) : State :=
  { s with coll := { s.coll with points := putBy (fun x => x.cid = p.cid) p s.coll.points } }
/-- Packets and flits leave by the Rook router, which refuses them all once the device's lease has expired (R111). -/
def sendOut (s : State) (l : List Sent) : State :=
  if s.fabric.leaseOn then { s with fabric := { s.fabric with sent := s.fabric.sent ++ l } } else s

/-- The warp slot's number names a member slot bound to the issuing launch (R353, R369). -/
def boundMember (s : State) (slot : Nat) : Option Member :=
  (memberAt s slot).filter fun m => m.launch = s.cur.launch && m.waiter.isNone

/-- Warps that wait for something of a collective issue again. -/
def wakeColl (s : State) (p : Wait → Bool) : State := s.mapAllWarps fun _ w => if p w.wait then w.wake else w
/-- Those that wait for a member slot's frame, or for a frame to open before they post. -/
def wakeSlots (s : State) (slots : List Nat) : State :=
  wakeColl s fun w => match w with | .collWait n _ => slots.contains n | .collPost => true | _ => false

/-- The members of a collective on this device learn the open frame and its close tick (R356). -/
def openMembers (s : State) (cid : Half) (frame : Word) (close : Option Nat) : State :=
  let s := modMembers s fun m => if m.cid = cid then { m with
      frame := frame, close := close, posted := m.posted.filter fun x => !frameBefore x.1 frame } else m
  wakeColl s fun w => w = .collPost

/-- The close tick of a frame that opened at a tick (R356). -/
def closeTick (j : JoinDesc) (opened : Nat) : Option Nat := if j.deadline = 0 then none else some (opened + j.deadline)
def Root.close (r : Root) : Option Nat := closeTick (joinDesc r.desc) r.opened

/-! ## The collective unit's accesses -/

/-- The translation of a root's writes: the launch of its CJOIN. Its writes are performed at their homes (R356), so no region's PUB
applies to them. -/
def unitCtx (core : Nat) (l : Launch) : Ctx :=
  { queueCtx l.ptroot l.sup l.id (l.regions.map fun r => { r with pub := false }) with core := core, tlb := true }
def unitIssuer (core : Nat) (launch : Word) : Issuer :=
  { core := core, launch := launch, agent := .loc core 3 0, isWarp := false }

/-- The collective unit reads a source of the issuing warp (R105, R369, R370). -/
def unitRead (s : State) (va : Dword) (n : Nat) : State × Eng (List Byte) :=
  (granules va.toNat n).foldl (fun (s, r) (a, k) =>
    match r with
    | .ok b =>
      match engRead s (curCtx s) (unitIssuer s.core.id s.cur.launch) (BitVec.ofNat 64 a) k none with
      | (s, .ok d) => (s, .ok (b ++ d))
      | (s, .wait) => (s, .wait)
      | (s, .suspend t) => (s, .suspend t)
      | (s, .fail t) => (s, .fail t)
    | r => (s, r)) (s, .ok [])

/-- A source address that can never be served (R369, R370). -/
def unservable (va : Dword) : Option Trap :=
  match copyPlace va with
  | .refused => some (trapAt 100 0x10 0x0D va)
  | .undecoded => some (trapAt 100 0x10 0x09 va)
  | _ => none

/-- A write of one granule, which the unit owns while it writes it (R104, R365). -/
def unitPut (s : State) (c : Ctx) (i : Issuer) (va : Dword) (d : List Byte) : State × Eng Unit :=
  let put := fun (s : State) (l : List Owned) =>
    match engWrite s c i l va d with
    | (s, .ok true) => (s, .ok ())
    | (s, .ok false) | (s, .wait) => (s, .wait)
    | (s, .suspend t) => (s, .suspend t)
    | (s, .fail t) => (s, .fail t)
  match engOwn s c i va with
  | (s, .ok o) => put s o.toList
  | (s, .wait) => (s, .wait)
  | (s, .suspend t) => (s, .suspend t)
  | (s, .fail t) => (s, .fail t)

/-- A write of one granule of a scan-out surface, at its physical address (R366). -/
def surfacePut (s : State) (core pa : Nat) (d : List Byte) : State × Eng Unit :=
  let h : HeldReq := { req := { agent := .loc core 3 0, holder := none, pa := pa, key := 0, op := .trackExclusive, ret := none, warp := none } }
  match claim s h with
  | (s, false) => (s, .wait)
  | (s, true) =>
    match mergeGran ((recallLine s (pa / 64) true).modCore core fun k => l1Drop k ⟨none, pa / 64⟩) pa d 0 with
    | (s, true) => (tagLine s (pa / 64) (d.length = 64) none false, .ok ())
    | (s, false) => (s, .fail (trapAt 100 0x41 3 (BitVec.ofNat 64 pa)))

/-- The record of a collective unit's fault or failure (R390, R394). -/
def unitRecord (core : Nat) (launch : Word) (t : Trap) (kind : Nat) : Rec :=
  { code := t.code, sub := t.sub, kind := kind, level := t.level.toNat, addr := t.addr, launch := launch, core := core, unit := 4 }

/-! ## Joining (R355, R356, R362, R369) -/

/-- The node of a rank, as the roster in memory gives it. -/
def rosterEntry (s : State) (c : Ctx) (i : Issuer) (j : JoinDesc) (rank : Nat) : State × Eng Nat :=
  let va := j.roster + BitVec.ofNat 64 (4 * rank)
  if va.toNat % 4 ≠ 0 then (s, .fail (trapAt 70 0x18 0x00 va))
  else
    match engRead s c i va 4 none with
    | (s, .ok d) => (s, .ok (leNat d))
    | (s, .wait) => (s, .wait)
    | (s, .suspend t) => (s, .suspend t)
    | (s, .fail t) => (s, .fail t)
def rosterValid (e : Nat) : Bool := e.testBit 31
def rosterNode (e : Nat) : Nat := e % 2 ^ 17

/-- The root answers a join (R355), and sends an accepted member the open frame (R356). -/
def answerJoin (s : State) (node slot : Nat) (r : Root) (ok : Bool) : State :=
  if node = s.fabric.self then
    let s := modMembers s fun m => if m.slot = slot then { m with
        answer := some ok, frame := if ok then r.frame else m.frame, close := if ok then r.close else m.close } else m
    wakeColl s fun w => w = .collJoin slot
  else
    sendOut s ([Sent.joined node slot ok] ++ (if ok then [Sent.openFlit r.cid r.frame r.close] else []))

/-- The root accepts or refuses a member (R355); the request waits while the root has not joined. -/
def serveJoin (s : State) (node slot : Nat) (desc : List Byte) (entry : Nat) : State :=
  let w := descOf desc
  let j := joinDesc w
  match collRoot s j.cid with
  | none => { s with coll := { s.coll with joins := s.coll.joins ++ [(node, slot, desc, entry)] } }
  | some r =>
    let ok := sameDesc w r.desc && entry = node && !(r.members.any fun m => m.2.2 = j.rank)
    let s := if ok then setRoot s { r with members := r.members ++ [(node, slot, j.rank)], left := r.left.filter fun x => x ≠ j.rank } else s
    answerJoin s node slot r ok

/-- JOIN_REQUEST (R355). -/
def execJoinRequest (node : Nat) (slot : Nat) (desc : List Byte) (rosterNode : Nat) (s : State) : Host.Outcome State Fault Refusal :=
  .next (serveJoin s node slot desc rosterNode)

/-- JOIN_REPLY (R355): the waiting CJOIN issues again. -/
def execJoinReply (slot : Nat) (ok : Bool) (s : State) : Host.Outcome State Fault Refusal :=
  let s := modMembers s fun m => if m.slot = slot && m.waiter.isSome && m.answer.isNone then { m with answer := some ok } else m
  .next (wakeColl s fun w => w = .collJoin slot)

/-- The first address of a hold-store entry (R362). -/
def holdAddr (j : JoinDesc) (rank tile : Nat) : Dword := j.holdBase + BitVec.ofNat 64 ((rank * j.count + tile) * 4096)

/-- The root marks every entry of its hold store as no leaf: KIND 3 (R362). -/
def clearHold (s : State) (c : Ctx) (i : Issuer) (j : JoinDesc) : State × Eng Unit :=
  if j.late ≠ 1 then (s, .ok ())
  else
    let word := leBytes 4 (j.cid.toNat + 3 * 2 ^ 16 + j.fmt * 2 ^ 18)
    (List.range (j.n * j.count)).foldl (fun (s, r) k =>
      match r with
      | .ok _ => unitPut s c i (holdAddr j 0 k) word
      | r => (s, r)) (s, .ok ())

/-- The root of a collective joins: frame 0 opens, and the requests that waited for it are served (R355, R356). -/
def createRoot (s : State) (slot : Nat) (w : Vector Dword 8) : State :=
  let j := joinDesc w
  let r : Root := { cid := j.cid, desc := w, core := s.core.id, lau := s.curLaunch, members := [(s.fabric.self, slot, 0)], opened := s.fabricTick }
  let s := sendOut (setRoot s r) [Sent.openFlit j.cid 0 r.close]
  let s := answerJoin s s.fabric.self slot r true
  let mine := s.coll.joins.filter fun x => (joinDesc (descOf x.2.2.1)).cid = j.cid
  let s := { s with coll := { s.coll with joins := s.coll.joins.filter fun x => (joinDesc (descOf x.2.2.1)).cid ≠ j.cid } }
  mine.foldl (fun s x => serveJoin s x.1 x.2.1 x.2.2.1 x.2.2.2) s

/-- A trap of a collective instruction, with every executing lane. -/
def collTrap (s : State) (t : Trap) : Perf := .trap { t with lanes := s.cur.executing }
/-- A member slot is freed, and its rank leaves the collective (R353, R369); with the last member the collective ends. -/
def leaveSlot (s : State) (slot : Nat) : State :=
  match memberAt s slot with
  | none => s
  | some m =>
    let s := { s with coll := { s.coll with members := s.coll.members.filter fun x => x.slot ≠ slot
                                            joins := s.coll.joins.filter fun x => !(x.1 = s.fabric.self && x.2.1 = slot) } }
    let gone := fun (r : Root) => if r.cid = m.cid then { r with
        left := r.left ++ (r.members.filter fun x => x.1 = s.fabric.self && x.2.1 = slot).map fun x => x.2.2
        members := r.members.filter fun x => !(x.1 = s.fabric.self && x.2.1 = slot) } else r
    { s with coll := { s.coll with roots := (s.coll.roots.map gone).filter fun r => r.members ≠ [] } }

/-- A joining member whose descriptor is in order takes its slot and asks the root (R355, R369). -/
def askRoot (s : State) (slot : Nat) (w : Vector Dword 8) (r0 me : Nat) : State × Eng Unit :=
  let j := joinDesc w
  let m : Member := { slot := slot, launch := s.cur.launch, core := s.core.id, desc := w, root := rosterNode r0, waiter := some (s.core.id, s.cur.slot, s.cur.genReg) }
  if rosterNode r0 ≠ s.fabric.self then
    (sendOut (setMember s m) [Sent.join (rosterNode r0) slot (descBytes w) (rosterNode me)], .ok ())
  else if j.rank ≠ 0 || (collRoot s j.cid).isSome then
    (serveJoin (setMember s m) s.fabric.self slot (descBytes w) (rosterNode me), .ok ())
  else
    match clearHold s (unitCtx s.core.id s.curLaunch) (unitIssuer s.core.id s.cur.launch) j with
    | (s, .ok _) => (createRoot (setMember s m) slot w, .ok ())
    | r => r

/-- The slot that a waiting CJOIN of the issuing warp has taken. -/
def joining (s : State) : Option Member := s.coll.members.find? fun m => m.waiter = some (s.core.id, s.cur.slot, s.cur.genReg)

/-- What a CJOIN that has asked the root comes to (R355, R369). -/
def endJoin (s : State) (d : Nat) : State × Perf :=
  match joining s with
  | none => (s, .done)
  | some m =>
    match m.answer with
    | none => (s, .wait (.collJoin m.slot))
    | some true => (let s := setMember s { m with waiter := none }; { s with cur := s.cur.setS d (BitVec.ofNat 64 m.slot) }, .done)
    | some false =>
      let s := { s with coll := { s.coll with members := s.coll.members.filter fun x => x.slot ≠ m.slot } }
      (s, collTrap s (trap 0x31 0x03))

/-- The descriptor's address is served: it can be reached, and is a multiple of 64 (R21, R369). -/
def descPlace (s : State) (va : Dword) : State × Except Trap Unit :=
  let aligned : Except Trap Unit := if va.toNat % 64 ≠ 0 then .error (trapAt 70 0x18 0x00 va) else .ok ()
  match unservable va with
  | some t => (s, .error t)
  | none =>
    if inAperture va then (s, aligned)
    else
      match translate s (curCtx s) va 64 .engRead with
      | (s, .error t) => (s, .error t)
      | (s, .ok a) => (s, if inRegisters a then .error (trapAt 52 0x10 0x05 va) else aligned)

/-- The lanes that issue a collective instruction have touched the domains of the ranges that it has read (R98). -/
def touchRead (s : State) (va : Dword) (n : Nat) : State :=
  { s with cur := touch s.cur s.cur.executing (rangeDomain s (curCtx s) va n) }

/-- What follows an engine access of a collective instruction; one that ends short ends the instruction (R370). -/
def engThen {α : Type} (x : State × Eng α) (k : State → α → State × Perf) : State × Perf :=
  match x with
  | (s, .ok v) => k s v
  | (s, .wait) => (s, .wait .retry)
  | (s, .suspend t) => (s, collTrap s t)
  | (s, .fail t) => (s, collTrap s t)

/-- One CJOIN: the descriptor's address and its read, the slot, the descriptor's checks, the root's answer (R355, R369). -/
def joinOnce (d : Nat) (va : Dword) (s : State) : State × Perf :=
  if (joining s).isSome then endJoin s d
  else
    match descPlace s va with
    | (s, .error t) => (s, collTrap s t)
    | (s, .ok _) =>
      engThen (unitRead s va 64) fun s b =>
        let w := descOf b
        let j := joinDesc w
        let c := curCtx s
        let i := unitIssuer s.core.id s.cur.launch
        if s.coll.members.length ≥ 64 then (s, collTrap s (trap 0x31 0x03))
        else if badJoin w then (s, collTrap s (trap 0x31 0x00))
        else
          engThen (rosterEntry s c i j 0) fun s r0 => engThen (rosterEntry s c i j j.rank) fun s me =>
            let noHead : Bool := j.dest < 2 && j.rank = 0 && !(s.mgmt.heads.toList.getD j.dest {}).configured
            if !rosterValid r0 || !rosterValid me || noHead then (s, collTrap s (trap 0x31 0x00))
            else
              let s := touchRead (touchRead s va 64) j.roster (4 * j.n)
              engThen (askRoot s (lowestFree 64 (s.coll.members.map fun m => m.slot)) w r0 me) fun s _ => endJoin s d

/-- CJOIN (R355, R368, R369). -/
def execCjoin (gr : Grp) (d : BitVec 6) (a : BitVec 6) (s : State) : Host.Outcome State Fault Refusal :=
  perform (.cjoin gr d a) (warpLevel gr (fun k => do sRange (repD gr d.toNat k) 1; sRange (repA gr a.toNat k) 1) fun k s =>
    joinOnce (repD gr d.toNat k) (s.cur.getS (repA gr a.toNat k)) s) s

/-- CJOIN.LEAVE (R368, R369). -/
def execCjoinLeave (gr : Grp) (a : BitVec 6) (s : State) : Host.Outcome State Fault Refusal :=
  perform (.cjoinLeave gr a) (warpLevel gr (fun k => sRange (repA gr a.toNat k) 1) fun k s =>
    let x := s.cur.getS (repA gr a.toNat k)
    if bits x 63 6 ≠ 0 then (s, collTrap s (trap 0x31 0x00))
    else if (boundMember s x.toNat).isNone then (s, collTrap s (trap 0x31 0x02))
    else (leaveSlot s x.toNat, .done)) s

/-! ## Packets at a merge point (R356, R357, R360, R361, R363) -/

/-- A LATE notice goes to the sender of a leaf (R363). -/
def noticeLate (s : State) (cid : Half) (rank : Nat) (frame : Word) : State :=
  let mine := fun (m : Member) => m.cid = cid && (joinDesc m.desc).rank = rank
  let s := { s with coll := { s.coll with lateDropped := s.coll.lateDropped + 1 } }
  if s.coll.members.any mine then modMembers s fun m => if mine m && !m.late.contains frame then { m with late := m.late ++ [frame] } else m
  else sendOut s [Sent.late cid rank frame]

/-- A packet is dropped as late: its contribution, and a leaf's sender is told (R363). -/
def dropLatePacket (s : State) (p : CollPacket) : State :=
  if p.spann = 1 then noticeLate s p.cid p.spanlo p.frame else { s with coll := { s.coll with lateDropped := s.coll.lateDropped + 1 } }

def overlaps (p q : CollPacket) : Bool := p.loc = q.loc && p.spanlo < q.spanlo + q.spann && q.spanlo < p.spanlo + p.spann

/-- A packet reaches the root (R356, R361, R363). -/
def rootPacket (s : State) (r : Root) (p : CollPacket) : State :=
  let out := p.spann = 1 && (r.removed.contains p.spanlo || r.left.contains p.spanlo)
  if frameBefore p.frame r.frame then dropLatePacket s p
  else if p.frame = r.frame then
    if r.closed && p.spann = 1 && r.points = 0 then dropLatePacket s p
    else if out || r.parts.any (overlaps p) then s
    else setRoot s { r with parts := r.parts ++ [p] }
  else if p.frame = r.frame + 1 then
    if out || r.early.any (overlaps p) then s else setRoot s { r with early := r.early ++ [p] }
  else s

/-- The bytes that the packets held at this device's merge points take (R360). -/
def bufferUsed (s : State) : Nat :=
  (s.coll.points.map fun x => ((x.parts ++ x.early).map flitBytes).foldl (· + ·) 0).foldl (· + ·) 0

/-- A packet of a node as a merge point sends it on. -/
def valPacket (p : CollPacket) (op lo n : Nat) (v : NodeVal) : CollPacket :=
  let b := v.body.getD (emptyBody op)
  { p with spanlo := lo, spann := n, pcount := v.pcount, firstMiss := v.firstMiss, held := v.held, cover := bodyCover b
           payload := bodyBytes op p.fmt.toNat b, crcOk := true }

/-- A packet of the open frame at a merge point below the root (R360): merged with its sibling when the point owns their parent and
holds it, held when it owns the parent, else sent on. -/
def pointMerge (s : State) (x : Point) (p : CollPacket) : Nat → State
  | 0 => sendOut (setPoint s x) [Sent.packet p]
  | fuel + 1 =>
    match parentOf 13 (0, x.n) (p.spanlo, p.spann) with
    | none => sendOut (setPoint s x) [Sent.packet p]
    | some (up, sib) =>
      if !x.owned.contains up then sendOut (setPoint s x) [Sent.packet p]
      else
        match x.parts.find? fun q => q.loc = p.loc && q.spanlo = sib.1 && q.spann = sib.2 with
        | some q =>
          let (a, b) := if p.spanlo < q.spanlo then (p, q) else (q, p)
          let y := valPacket p x.op up.1 up.2 (combineNode x.op (packetVal x.op a) (packetVal x.op b))
          pointMerge s { x with parts := x.parts.filter fun z => z ≠ q } y fuel
        | none =>
          if bufferUsed s + flitBytes p > 0x2000000 then sendOut (setPoint s x) [Sent.packet p]
          else setPoint s { x with parts := x.parts ++ [p] }

/-- A packet reaches a merge point below the root (R356, R360, R361, R363). -/
def pointPacket (s : State) (x : Point) (p : CollPacket) : State :=
  let owns := match parentOf 13 (0, x.n) (p.spanlo, p.spann) with | some (up, _) => x.owned.contains up | none => false
  if frameBefore p.frame x.frame || (p.frame = x.frame && x.closed) then
    (if p.spann = 1 && owns then dropLatePacket s p else sendOut s [Sent.packet p])
  else if p.frame = x.frame then pointMerge s x p 13
  else if bufferUsed s + flitBytes p > 0x2000000 then sendOut s [Sent.packet p]
  else setPoint s { x with early := x.early ++ [p] }

/-- A packet reaches this device (R357, R360): its root, its merge point, or the router that passes it on. -/
def packetArrives (s : State) (p : CollPacket) : State :=
  if !p.crcOk then { s with coll := { s.coll with crcDropped := s.coll.crcDropped + 1 } }
  else
    match collRoot s p.cid, pointOf s p.cid with
    | some r, _ => rootPacket s r p
    | none, some x => pointPacket s x p
    | none, none => sendOut s [Sent.packet p]

/-- COLLECTIVE_PACKET (R360). -/
def execCollectivePacket (p : CollPacket) (s : State) : Host.Outcome State Fault Refusal := .next (packetArrives s p)

/-- LATE_NOTICE (R363). -/
def execLateNotice (slot : Nat) (frame : Word) (s : State) : Host.Outcome State Fault Refusal :=
  .next (modMembers s fun m => if m.slot = slot && !m.late.contains frame then { m with late := m.late ++ [frame] } else m)

/-- A merge point below the root learns the open frame; the packets that waited for it are taken (R356). -/
def openPoint (s : State) (cid : Half) (frame : Word) (close : Option Nat) : State :=
  match pointOf s cid with
  | none => s
  | some x =>
    let s := setPoint s { x with frame := frame, close := close, closed := false, parts := [], early := [] }
    x.early.foldl (fun s p => packetArrives s p) s

/-- OPEN_FLIT (R356). -/
def execOpenFlit (cid : Half) (frame : Word) (close : Option Nat) (s : State) : Host.Outcome State Fault Refusal :=
  .next (openPoint (openMembers s cid frame close) cid frame close)

/-- The close tick of a frame is reached (R361): a merge point forwards what it holds, then a close flit for each node it owns. -/
def closeFrame (s : State) (cid : Half) : State :=
  let s := modRoot s cid fun r => match r.close with | some t => if s.fabricTick ≥ t then { r with closed := true } else r | none => r
  match pointOf s cid with
  | none => s
  | some x =>
    match x.close with
    | none => s
    | some t =>
      if s.fabricTick < t || x.closed then s
      else sendOut (setPoint s { x with closed := true, parts := [] })
        ((x.parts.map Sent.packet) ++ x.owned.map fun _ => Sent.closeFlit cid x.frame)
/-- FRAME_CLOSE (R361). -/
def execFrameClose (cid : Half) (s : State) : Host.Outcome State Fault Refusal := .next (closeFrame s cid)

/-- CLOSE_FLIT (R361): the root counts it, another router passes it on. -/
def execCloseFlit (cid : Half) (frame : Word) (s : State) : Host.Outcome State Fault Refusal :=
  match collRoot s cid with
  | some r => .next (if r.frame = frame then setRoot s { r with closeFlits := r.closeFlits + 1 } else s)
  | none => .next (sendOut s [Sent.closeFlit cid frame])

/-! ## Settling a frame (R362, R365 to R367) -/

/-- The packets of a tile or block. -/
def partsAt (r : Root) (i : Nat) : List CollPacket := r.parts.filter fun p => (joinDesc r.desc).index p.loc = i

/-- The ranks that contribute no more (R364, R369). -/
def Root.gone (r : Root) (k : Nat) : Bool := r.removed.contains k || r.left.contains k

/-- Every contribution to a tile or block has arrived (R356). -/
def allArrived (r : Root) (i : Nat) : Bool :=
  let ps := partsAt r i
  let missing := ((List.range (joinDesc r.desc).n).filter fun k => r.gone k && !(ps.any fun p => p.spanlo ≤ k && k < p.spanlo + p.spann)).length
  (ps.map fun p => p.pcount).foldl (· + ·) 0 + missing = (joinDesc r.desc).n

/-- The head shows the frame before this one, or none was sent to it (R366). -/
def headReady (s : State) (r : Root) : Bool :=
  let j := joinDesc r.desc
  j.dest ≥ 2 || r.frame = 0 || (match (s.mgmt.heads.toList.getD j.dest {}).shown with | some x => !frameBefore x (r.frame - 1) | none => false)

/-- The open frame may settle (R356, R361, R366). -/
def frameReady (s : State) (r : Root) : Bool :=
  r.status = .running && headReady s r
    && ((r.closed && r.closeFlits ≥ r.points) || (List.range (joinDesc r.desc).count).all fun i => allArrived r i)

/-- A hold-store entry read back as a held tile of the frame before (R362). -/
def heldTile (r : Root) (rank i : Nat) (b : List Byte) : Option Body :=
  let j := joinDesc r.desc
  let w := fun (k : Nat) => leNat ((b.drop (4 * k)).take 4)
  let payload := (b.drop 64).take j.payload
  if r.frame ≠ 0 && w 0 = j.cid.toNat + j.fmt * 2 ^ 18 && w 2 = j.place i && w 3 = rank + 2 ^ 12 && w 1 = (r.frame - 1).toNat
      && w 15 = crc32c (b.take 60 ++ payload) then
    some (bodyOf j.op { cid := j.cid, tensor := false, fmt := BitVec.ofNat 2 j.fmt, frame := r.frame - 1, loc := j.place i, spanlo := rank, spann := 1
                        pcount := 1, firstMiss := none, held := false, cover := BitVec.ofNat 256 (leNat ((b.drop 24).take 32))
                        payload := payload, crcOk := true })
  else none

/-- The held tiles that stand in for the absent leaves of a tile under HOLD (R362); an entry that cannot be read leaves its leaf
absent. -/
def heldTiles (s : State) (r : Root) (i : Nat) : State × List (Nat × Body) :=
  let j := joinDesc r.desc
  if j.late ≠ 1 || r.frame = 0 then (s, [])
  else
    let ps := partsAt r i
    ((List.range j.n).filter fun k => !(ps.any fun p => p.spanlo = k)).foldl (fun (s, l) k =>
      let a := holdAddr j k i
      let rd := (granules a.toNat (64 + j.payload)).foldl (fun (s, x) (a, n) =>
        match x with
        | some b =>
          match engRead s (unitCtx r.core r.lau) (unitIssuer r.core r.lau.id) (BitVec.ofNat 64 a) n none with
          | (s, .ok d) => (s, some (b ++ d))
          | (s, _) => (s, none)
        | none => (s, none)) (s, some [])
      match rd with
      | (s, some b) => (s, match heldTile r k i b with | some x => l ++ [(k, x)] | none => l)
      | (s, none) => (s, l)) (s, [])

/-- The settled result of a tile or block (R358, R362). -/
def settleAt (s : State) (r : Root) (i : Nat) : State × NodeVal :=
  let j := joinDesc r.desc
  let (s, hs) := heldTiles s r i
  (s, nodeVal j.op (partsAt r i) (fun k => assoc k hs) 14 0 j.n)

/-- The result is not written (R362): ABORT with a leaf absent. -/
def incomplete (j : JoinDesc) (v : NodeVal) : Bool := j.late = 2 && v.pcount ≠ j.n

/-- The status record of a tile or block (R365). -/
def statusRecord (j : JoinDesc) (v : NodeVal) : Nat :=
  v.pcount + bit v.firstMiss.isSome * 2 ^ 13 + v.firstMiss.getD 0 * 2 ^ 14 + bit v.held * 2 ^ 26 + bit (incomplete j v) * 2 ^ 27

/-- Whether a rank's contribution to a tile or block is in the packets held: none where a partial does not tell. -/
def presentAt (ps : List CollPacket) (k : Nat) : Option Bool :=
  match ps.find? fun p => p.spanlo ≤ k && k < p.spanlo + p.spann with
  | none => some false
  | some p =>
    match p.firstMiss with
    | none => some true
    | some m => if k < m then some true else if k = m then some false else if p.pcount + 1 = p.spann then some true
        else if p.pcount + p.spanlo = m then some false else none

/-- The present bitmap (R365); a bit that no packet tells is free. -/
def presentMap (s : State) (r : Root) : State × List Bool :=
  let j := joinDesc r.desc
  (List.range j.n).foldl (fun (s, l) k =>
    let at_ := (List.range j.count).map fun i => presentAt (partsAt r i) k
    if at_.contains (some false) then (s, l ++ [false])
    else if at_.contains none then (let (x, s) := s.fresh; (s, l ++ [x.getLsbD 0]))
    else (s, l ++ [true])) (s, [])

/-- A write of a frame: an address and its bytes, virtual for a context or physical. -/
inductive FrameWrite where
  | virt (core : Nat) (l : Launch) (va : Dword) (d : List Byte)
  | phys (pa : Nat) (d : List Byte)

/-- The rows of a tile in a scan-out surface (R366, R439): physical address of each row's first pixel, the row's first pixel in the
tile, and its pixels on the screen. -/
def surfaceRows (h : Head) (surf : Nat) (tx ty : Nat) : List (Nat × Nat × Nat) :=
  let px := if h.fmt then 8 else 4
  let w := Nat.min 16 (h.width - 16 * tx)
  ((List.range 16).filter fun y => 16 * ty + y < h.height && 0 < w).map fun y =>
    (surf + (16 * ty + y) * h.pitch + 16 * tx * px, 16 * y, w)

/-- A colour converted to the head's pixel format as RPIX converts it (R339, R366). -/
def headPixel (h : Head) (c : List Byte) : List Byte := packTexel (if h.fmt then 1 else 0) (unpackTexel 1 (leNat c))

/-- The writes of one settled tile or block at its destination (R365 to R367), and what is sent to remote members. -/
def destWrites (s : State) (r : Root) (i : Nat) (v : NodeVal) : List FrameWrite × List Sent :=
  let j := joinDesc r.desc
  let d := bodyBytes j.op j.fmt (v.body.getD (emptyBody j.op))
  let skip := incomplete j v
  if j.dest < 2 then
    let h := s.mgmt.heads.toList.getD j.dest {}
    let (this, other) := if r.frame.toNat % 2 = 0 then (h.surf0.toNat, h.surf1.toNat) else (h.surf1.toNat, h.surf0.toNat)
    let px := if h.fmt then 8 else 4
    let cs := chunks 8 256 d
    let row := fun (x : (Nat × Nat × Nat) × (Nat × Nat × Nat)) =>
      FrameWrite.phys x.1.1 (if skip then s.home.mem.bytes x.2.1 (px * x.1.2.2) else ((cs.drop x.1.2.1).take x.1.2.2).flatMap (headPixel h))
    (((surfaceRows h this (i % j.tw) (i / j.tw)).zip (surfaceRows h other (i % j.tw) (i / j.tw))).map row, [])
  else if skip then ([], [])
  else if j.dest = 2 then ([.virt r.core r.lau (j.daddr + BitVec.ofNat 64 (i * j.payload)) d], [])
  else
    let here := s.coll.members.filter fun m => m.cid = r.cid && m.root = s.fabric.self && m.answer = some true
    (here.filterMap fun m => (s.launchOf m.launch).map fun l => .virt m.core l ((joinDesc m.desc).daddr + BitVec.ofNat 64 (4096 * i)) d,
      if r.members.any fun m => m.1 ≠ s.fabric.self then [Sent.settled r.cid r.frame i d] else [])

/-- The on-time leaves of a tile go to the hold store (R362). -/
def holdWrites (r : Root) (i : Nat) : List FrameWrite :=
  let j := joinDesc r.desc
  if j.late ≠ 1 then []
  else ((partsAt r i).filter fun p => p.spann = 1).map fun p => .virt r.core r.lau (holdAddr j p.spanlo i) (packetBytes p)

/-- Performs the writes of a frame in order, a granule at a time. A write that fails is reported and dropped (R394). -/
def putAll (s : State) (r : Root) : List FrameWrite → State × Eng Unit
  | [] => (s, .ok ())
  | w :: ws =>
    let (at_, d, one) : Nat × List Byte × (State → Nat → List Byte → State × Eng Unit) :=
      match w with
      | .virt c l va d => (va.toNat, d, fun s a b => unitPut s (unitCtx c l) (unitIssuer c l.id) (BitVec.ofNat 64 a) b)
      | .phys pa d => (pa, d, fun s a b => surfacePut s r.core a b)
    let res := (granules at_ d.length).foldl (fun (s, e) (a, n) =>
      match e with
      | .ok _ =>
        if r.lost.contains (a / 64) then (s, .ok ())
        else
          match one s a ((d.drop (a - at_)).take n) with
          | (s, .fail t) => (launchRecord s (unitRecord r.core r.lau.id (copyTrap t) 2), .ok ())
          | x => x
      | e => (s, e)) (s, (Eng.ok () : Eng Unit))
    match res with
    | (s, .ok _) => putAll s r ws
    | x => x

/-- SIGNAL.ADD of 1 on the frame's signal word, as a release at system domain (R285, R365). -/
def signalFrame (s : State) (r : Root) : State × Eng Unit :=
  let va := (joinDesc r.desc).sigAddr
  if va = 0 || va.toNat % 8 ≠ 0 then (s, .ok ())
  else
    match translate s (unitCtx r.core r.lau) va 8 .atomic with
    | (s, .error t) => (s, engTrap t)
    | (s, .ok a) =>
      if inRegisters a then (s, .fail (trapAt 52 0x10 0x05 va))
      else
        match rmwPart s (unitIssuer r.core r.lau.id) a (partOf a) (.rmw 1 1) none false with
        | (s, .ok _) => (wakeWord s (wordKey a), .ok ())
        | (s, .wait) => (s, .wait)
        | (s, .late t) => (s, engTrap t)

/-- RESULT and NPRES of a frame (R371). -/
def frameStatus (j : JoinDesc) (vs : List NodeVal) (present : List Bool) : Dword :=
  let result := if vs.any (incomplete j) then 2 else if vs.any fun v => v.pcount ≠ j.n || v.held then 1 else 0
  BitVec.ofNat 64 (result + (present.filter id).length * 2 ^ 16)

/-- Members of this device learn that a frame is complete; a slot keeps two (R371). -/
def completeMembers (s : State) (cid : Half) (frame : Word) (status : Dword) : State :=
  let s := modMembers s fun m => if m.cid = cid then
      (let done := (m.done ++ [(frame, status)]).drop (m.done.length - 1)
       { m with done := done, late := m.late.filter fun f => (done.any fun x => x.1 = f) || frameBefore frame f }) else m
  wakeSlots s ((s.coll.members.filter fun m => m.cid = cid).map fun m => m.slot)

/-- The bytes of the present bitmap. -/
def bitmapBytes (present : List Bool) : List Byte :=
  leBytes 512 ((present.zipIdx.map fun x => if x.1 then 2 ^ x.2 else 0).foldl (· + ·) 0)

/-- Changes a head (R439). -/
def modHead (s : State) (n : Nat) (f : Head → Head) : State :=
  { s with mgmt := { s.mgmt with heads := Vector.ofFn fun (k : Fin 2) => if k.val = n then f s.mgmt.heads[k] else s.mgmt.heads[k] } }

/-- The open frame of a collective rooted here settles and completes, and the next one opens (R356, R362, R365 to R367); none while a
home makes its writes wait. A service fault stops it as it was, on its record (R391, R394). -/
def completeFrame (s0 : State) (r : Root) : Option State :=
  let j := joinDesc r.desc
  let (s, vs) := (List.range j.count).foldl (fun (s, l) i => let (s, v) := settleAt s r i; (s, l ++ [v])) (s0, [])
  let (s, present) := presentMap s r
  let at_ := fun (va : Dword) (d : List Byte) => FrameWrite.virt r.core r.lau va d
  let dest := (vs.zipIdx).map fun x => destWrites s r x.2 x.1
  let writes := (vs.zipIdx.map fun x => at_ (j.statAddr + BitVec.ofNat 64 (4 * x.2)) (leBytes 4 (statusRecord j x.1)))
    ++ [at_ j.pbMap (bitmapBytes present)] ++ dest.flatMap (fun x => x.1) ++ (List.range j.count).flatMap (holdWrites r)
  let park := fun (t : Trap) =>
    some (pumpRecords (launchRecord (setRoot s0 { r with status := .queueFull t }) (unitRecord r.core r.lau.id t 0) (some (.coll r.cid))))
  let finish := fun (s : State) =>
    let status := frameStatus j vs present
    let next : Root := { r with frame := r.frame + 1, opened := s.fabricTick, closed := false, closeFlits := 0, parts := [], early := [], lost := [] }
    let s := setRoot s next
    let s := if j.dest < 2 then modHead s j.dest fun h => { h with ready := some r.frame } else s
    let s := sendOut s ((dest.flatMap fun x => x.2) ++ [Sent.complete r.cid r.frame (status.setWidth 32), Sent.openFlit r.cid next.frame next.close])
    let s := openMembers (completeMembers s r.cid r.frame status) r.cid next.frame next.close
    r.early.foldl (fun s p => packetArrives s p) s
  match putAll s r writes with
  | (t, .wait) => keepRecalls s0 t
  | (_, .suspend t) => park t
  | (s, _) =>
    match signalFrame s r with
    | (t, .wait) => keepRecalls s0 t
    | (_, .suspend t) => if r.lost.contains (j.sigAddr.toNat / 64) then some (finish s) else park t
    | (s, .fail t) => some (finish (launchRecord s (unitRecord r.core r.lau.id (copyTrap t) 2)))
    | (s, .ok _) => some (finish s)

/-- FRAME_COMPLETE (R356): at the root, when the frame may settle; at a member, the root's word that it has. -/
def execFrameComplete (cid : Half) (frame : Word) (status : Word) (s : State) : Host.Outcome State Fault Refusal :=
  match collRoot s cid with
  | some r => .next (if r.frame = frame && frameReady s r then pumpRecords ((completeFrame s r).getD s) else s)
  | none => .next (completeMembers s cid frame (status.setWidth 64))

/-- A settled block is written on the members of this device whose root is another (R367); what a home keeps from being written comes
again, what a service fault keeps waits with its member. -/
def settledDown (s : State) (cid : Half) (frame : Word) (block : Nat) (data : List Byte) : State :=
  let again := Instr.settledBlockDown cid frame block data
  (s.coll.members.filter fun m => m.cid = cid && m.root ≠ s.fabric.self).foldl (fun s m =>
    match s.launchOf m.launch with
    | none => s
    | some l =>
      if m.status ≠ .running then setMember s { m with blocks := m.blocks ++ [(frame, block, data)] }
      else
        let va := (joinDesc m.desc).daddr + BitVec.ofNat 64 (4096 * block)
        let res := (granules va.toNat data.length).foldl (fun (s, e) (a, n) =>
          match e with
          | .ok _ => unitPut s (unitCtx m.core l) (unitIssuer m.core l.id) (BitVec.ofNat 64 a) ((data.drop (a - va.toNat)).take n)
          | e => (s, e)) (s, (Eng.ok () : Eng Unit))
        match res with
        | (s, .ok _) => s
        | (s, .wait) => if s.waiting.contains again then s else { s with waiting := s.waiting ++ [again] }
        | (s, .suspend t) =>
          launchRecord (setMember s { m with status := .queueFull t, blocks := m.blocks ++ [(frame, block, data)] })
            (unitRecord m.core l.id t 0) (some (.member m.slot))
        | (s, .fail t) => launchRecord s (unitRecord m.core l.id (copyTrap t) 2)) s

/-- SETTLED_BLOCK_DOWN (R367). -/
def execSettledBlockDown (cid : Half) (frame : Word) (block : Nat) (data : List Byte) (s : State) : Host.Outcome State Fault Refusal :=
  .next (pumpRecords (serveHeld (settledDown s cid frame block data)))

/-- VERTICAL_BLANK (R366): the head shows the latest frame that has completed. -/
def execVerticalBlank (head : Nat) (s : State) : Host.Outcome State Fault Refusal :=
  .next (modHead s head fun h => { h with shown := h.ready.or h.shown, blanks := s.clock * h.hz / 400000000000 })

/-! ## Posting (R370) -/

/-- The checks of a post up to its source's address, in R370's order: the member, its descriptor, the WHERE field. -/
def postCheck (s : State) (tensor : Bool) (x va : Dword) : Except Trap (Member × JoinDesc × Nat) := do
  if (if tensor then bits x 31 26 ≠ 0 else bits x 9 6 ≠ 0 || bits x 31 30 ≠ 0) then .error (trap 0x31 0x00)
  match boundMember s (bits x 5 0) with
  | none => .error (trap 0x31 0x02)
  | some m =>
    if m.failed then .error (trap 0x30 0x04)
    let j := joinDesc m.desc
    if j.tiles = tensor then .error (trap 0x31 0x01)
    let w := if tensor then bits x 25 6 else bits x 29 20 * 1024 + bits x 19 10
    if (if tensor then w ≥ j.blocks else bits x 19 10 ≥ j.tw || bits x 29 20 ≥ j.th) then .error (trap 0x31 0x05)
    if va.toNat % 64 ≠ 0 then .error (trapAt 70 0x18 0x00 va)
    match unservable va with
    | some t => .error t
    | none => .ok (m, j, w)

/-- The post's frame has closed, as the member knows it (R356, R363). -/
def postLate (s : State) (m : Member) (frame : Word) : Bool :=
  frameBefore frame m.frame || (frame = m.frame && match m.close with | some t => t ≤ s.fabricTick | none => false)

/-- The leaf packet of a post (R357, R370). -/
def leafPacket (j : JoinDesc) (frame : Word) (w : Nat) (b : List Byte) : CollPacket :=
  { cid := j.cid, tensor := !j.tiles, fmt := BitVec.ofNat 2 j.fmt, frame := frame, loc := w, spanlo := j.rank, spann := 1, pcount := 1
    firstMiss := none, held := false, cover := if j.tiles then BitVec.ofNat 256 (leNat ((b.drop j.payload).take 32)) else 0
    payload := b.take j.payload, crcOk := true }

/-- One post (R356, R363, R370). -/
def postOnce (tensor : Bool) (va x : Dword) (s : State) : State × Perf :=
  match postCheck s tensor x va with
  | .error t => (s, collTrap s t)
  | .ok (m, j, w) =>
    let frame : Word := BitVec.ofNat 32 (bits x 63 32)
    if frameBefore (m.frame + 1) frame then (s, .wait .collPost)
    else
      engThen (unitRead s va (j.payload + if tensor then 0 else 32)) fun s b =>
        if m.posted.contains (frame, w) then (s, collTrap s (trap 0x31 0x06))
        else
          let s := touchRead s va (j.payload + if tensor then 0 else 32)
          if postLate s m frame then (noticeLate s j.cid j.rank frame, .done)
          else (packetArrives (setMember s { m with posted := m.posted ++ [(frame, w)] }) (leafPacket j frame w b), .done)

/-- The performance of a post: its source in s[sa], its parameter in s[sb] (R368, R370). -/
def postBody (gr : Grp) (tensor : Bool) (a b : BitVec 6) : State → State × Perf :=
  warpLevel gr (fun k => do sRange (repA gr a.toNat k) 1; sRange (repB gr b.toNat k) 1) fun k s =>
    postOnce tensor (s.cur.getS (repA gr a.toNat k)) (s.cur.getS (repB gr b.toNat k)) s

/-- CPOST (R368, R370). -/
def execCpost (gr : Grp) (a : BitVec 6) (b : BitVec 6) (s : State) : Host.Outcome State Fault Refusal :=
  perform (.cpost gr a b) (postBody gr false a b) s
/-- CRED (R368, R370). -/
def execCred (gr : Grp) (a : BitVec 6) (b : BitVec 6) (s : State) : Host.Outcome State Fault Refusal :=
  perform (.cred gr a b) (postBody gr true a b) s

/-! ## CWAIT (R371) -/

/-- The status that CWAIT returns (R371): RESULT and NPRES, LATE, DONE, the frame. -/
def waitStatus (m : Member) (frame : Word) (st : Dword) (done : Bool) : Dword :=
  BitVec.ofNat 64 (bits st 1 0 + bit (m.late.contains frame) * 4 + bit done * 8 + bits st 28 16 * 2 ^ 16 + frame.toNat * 2 ^ 32)

/-- One CWAIT (R364, R371). A frame that is not complete has no RESULT or NPRES yet: .TEST returns free values there. -/
def waitOnce (test : Bool) (d : Nat) (x : Dword) (s : State) : State × Perf :=
  if bits x 31 6 ≠ 0 then (s, collTrap s (trap 0x31 0x00))
  else
    match boundMember s (bits x 5 0) with
    | none => (s, collTrap s (trap 0x31 0x02))
    | some m =>
      let frame : Word := BitVec.ofNat 32 (bits x 63 32)
      if m.failed then
        if s.cur.woken && !test then
          (acquire { s with cur := s.cur.setS d (waitStatus m frame 3 true) } allLanes .system, .done)
        else (s, collTrap s (trap 0x30 0x04))
      else
        match m.done.find? fun y => y.1 = frame with
        | some (_, st) => (acquire { s with cur := s.cur.setS d (waitStatus m frame st true) } allLanes .system, .done)
        | none =>
          if frameBefore frame m.frame then (s, collTrap s (trap 0x31 0x04))
          else if test then
            let (st, s) := s.fresh
            ({ s with cur := s.cur.setS d (waitStatus m frame st false) }, .done)
          else (s, .wait (.collWait m.slot frame))

/-- CWAIT (R368, R371). -/
def execCwait (gr : Grp) (d : BitVec 6) (a : BitVec 6) (t : BitVec 1) (s : State) : Host.Outcome State Fault Refusal :=
  perform (.cwait gr d a t) (warpLevel gr (fun k => do sRange (repD gr d.toNat k) 1; sRange (repA gr a.toNat k) 1) fun k s =>
    waitOnce (t = 1) (repD gr d.toNat k) (s.cur.getS (repA gr a.toNat k)) s) s

end Sys2Proof.Machine
end

