-- ==== Sys2Proof/Machine/Complete.lean ====
section
/-! DEFINITION. The completion of a launch (R161) and of a pass (R336). -/

namespace Sys2Proof.Machine

/-- Work of a launch is still under way: resident blocks, copies, matrix jobs, writes that wait at a home (R89, R133, R161). -/
def launchBusy (s : State) (id : Word) : Bool :=
  s.allCores.any (fun k => k.blocks.any (fun b => b.launch = id) || k.copies.any (fun c => c.launch = id) || k.jobs.any fun j => j.launch = id)
    || s.home.held.any fun h => h.launch = id && (agentCore h.req.agent).isSome

/-- A launch has placed every cohort and nothing of it runs (R161). A pass's launch completes with its pass. -/
def launchDone (s : State) (l : Launch) : Bool :=
  l.pass.isNone && (l.killed || l.nextCohort ≥ cohortsOf l) && !launchBusy s l.id

/-- A shading die writes back the render-region lines that a launch has written (R336). -/
def writeBackDie (s : State) (launch : Word) (d : ShadeDie) : State := writeBackLines s d (d.renderLines.filter fun x => x.2.2 = launch)

/-- What a launch has still to bring home at its end (R63, R75, R77). -/
def unfinished (s : State) (id : Word) : Nat :=
  (match s.launchOf id with | some l => l.pubLines.length | none => 0)
    + (s.geom.dies.map fun d => (d.renderLines.filter fun x => x.2.2 = id).length).foldl (· + ·) 0

/-- A launch brings home what it has left (R63, R75, R77, R89): its partials are performed, its private lines published, its render lines written
back. -/
def closeLaunch (s : State) (id : Word) : State :=
  let lines := s.allCores.flatMap fun k => (k.upd.filter fun u => u.launch = id || u.others.contains id).map fun u => (k.id, u.line)
  let s := lines.foldl (fun s (c, n) => mergeUpd s c n) s
  let s := (publishAll s id).1
  s.geom.dies.foldl (fun s d => writeBackDie s id d) s

/-- A launch ends (R89, R161, R353): its member slots are freed; then its completion signal rises. -/
def finishLaunch (s : State) (l : Launch) : State :=
  let s := ((s.coll.members.filter fun m => m.launch = l.id).map fun m => m.slot).foldl leaveSlot s
  settleSignals { s with
    signals := s.signals ++ [{ launch := l.id, ptroot := l.ptroot, sup := l.sup, regions := l.regions, va := l.pkt.donesig }]
    launches := s.launches.filter fun x => x.id ≠ l.id
    geom := { s.geom with draws := s.geom.draws.map fun d => if d.launch = l.id then { d with placedAll := true } else d }
    placeDue := true }

/-- A launch is brought to its end as far as the homes let it: none when nothing changes. -/
def endLaunch (s : State) (l : Launch) : Option (State × Bool) :=
  let t := closeLaunch s l.id
  if unfinished t l.id = 0 then some (finishLaunch t l, true)
  else if unfinished t l.id < unfinished s l.id || t.home.dir ≠ s.home.dir then some (t, false)
  else none

/-- LAUNCH_COMPLETE (R161). -/
def execLaunchComplete (launch : Nat) (s : State) : Host.Outcome State Fault Refusal :=
  match s.launchOf (BitVec.ofNat 32 launch) with
  | some l => .next (if launchDone s l then pumpRecords (match endLaunch s l with | some (t, _) => t | none => s) else s)
  | none => .next s

/-- Every tile of a pass on the dies in service is over, and nothing of its launch runs (R329, R336). -/
def passDone (s : State) (p : Pass) : Bool :=
  p.faults = []
    && (List.range p.th).all (fun ty => (List.range p.tw).all fun tx => !dieUp s (tileOwner s.mgmt tx ty) || p.done.contains (tx, ty))
    && (match p.launch with | some id => !launchBusy s id | none => true)

/-- A pass completes (R336): its launch ends, its references are freed, PASSCOUNT rises; none while the homes hold its launch back and nothing
changes. -/
def endPass (s : State) (p : Pass) : Option State :=
  let gone := fun (s : State) =>
    let s := { s with geom := { s.geom with passes := s.geom.passes.filter fun x => !(x.q = p.q && x.launch = p.launch) } }
    let used := fun (f : Frond) => !inPass p f.draw || s.geom.passes.any fun x => inPass x f.draw
    let s := { s with geom := { s.geom with dies := s.geom.dies.map fun (d : ShadeDie) => { d with binned := d.binned.filter used } } }
    let x := s.queueOf p.q
    s.setQueue { x with passcount := x.passcount + 1 }
  match p.launch.bind s.launchOf with
  | none => some (gone s)
  | some l =>
    match endLaunch s l with
    | some (t, true) => some (gone t)
    | some (t, false) => some t
    | none => none

/-- PASS_COMPLETE (R336). -/
def execPassComplete (q : Nat) (s : State) : Host.Outcome State Fault Refusal :=
  match s.geom.passes.find? fun p => p.q = q && passDone s p with
  | some p => .next (pumpRecords ((endPass s p).getD s))
  | none => .next s

end Sys2Proof.Machine
end

