-- ==== Sys2Proof/Machine/Coherence.lean ====
section
/-! DEFINITION. What reaches homes and holders (R54, R58, R63, R69, R70, R83), promotion (R96, R97), placement migration (R73, R74),
the fabric's lease, failures and reroutes (R111 to R113, R364), and quarantine (R114, R329, R441, R442). -/

namespace Sys2Proof.Machine

/-! ## Homes and holders -/

/-- HOME_REQUEST (R69): a request that comes from outside the issue of an instruction. One of a failed node, or to an address that
nothing backs, is not served (R15, R112). -/
def execHomeRequest (r : HomeReq) (s : State) : Host.Outcome State Fault Refusal :=
  match r.agent with
  | .remote n =>
    if (nodeOf s n).failed || !backed s.mgmt r.pa 1 then
      .next { s with fabric := { s.fabric with sent := s.fabric.sent ++ [.unserved n r.pa] } }
    else .next (pumpRecords (submit s { req := r }))
  | .loc _ _ _ => .next (if backed s.mgmt r.pa 1 then pumpRecords (submit s { req := r }) else s)

/-- The drained epoch a core may have: the least stamp among its writes that wait at a home, else its release epoch (R96). -/
def drainedEpoch (s : State) (core : Nat) : BitVec 16 :=
  let k := s.coreAt core
  let mine := s.home.held.filter fun h => agentCore h.req.agent = some core && !h.isPlace
  k.drEpoch + BitVec.ofNat 16 (mine.foldl (fun n h => Nat.min n (k.ahead h.stamp)) (k.ahead k.relEpoch))

/-- PERFORMED_AT_HOME (R83, R96): the core learns which of its writes are performed, and its drained epoch moves. -/
def execPerformedAtHome (core : Nat) (s : State) : Host.Outcome State Fault Refusal :=
  .next (s.modCore core fun k => { k with drEpoch := drainedEpoch s core })

/-- STASH_RECALL (R54): a recall reaches one line of a stash entry. -/
def execStashRecall (core : Nat) (entry : Nat) (line : Nat) (write : Bool) (s : State) : Host.Outcome State Fault Refusal :=
  let l := ((s.coreAt core).stash.find? fun st => st.entry = entry).bind fun st => st.lineAt line
  .next (match l with | some l => recallStashAt s core l.pa write | none => s)

/-- UPDATE_LINE_RECALL (R63). -/
def execUpdateLineRecall (core : Nat) (line : Nat) (s : State) : Host.Outcome State Fault Refusal := .next (pumpRecords (mergeUpd s core line))

/-- HOLDER_INVALIDATION (R69, R70): for a remote home it drops the proxy copy here and is acknowledged; for a home of this device it
reaches a core's stash. -/
def execHolderInvalidation (line : Nat) (holder : Agent) (s : State) : Host.Outcome State Fault Refusal :=
  match holder with
  | .remote node =>
    let s := dropProxy s ⟨some node, line⟩
    .next { s with fabric := { s.fabric with sent := s.fabric.sent ++ [.invalidated line node] } }
  | .loc core _ _ => .next (recallStashAt s core line true)

/-- The entry of a line once a holder has answered (R69, R112): a recall that awaits nobody ends, a reader's owner staying as a
holder. -/
def holderGone (s : State) (e : DirEntry) (holder : Agent) (stays : Bool) : State :=
  let e := { e with awaited := e.awaited.filter fun a => a ≠ holder, holders := if stays then e.holders else e.holders.filter fun a => a ≠ holder }
  if e.awaited ≠ [] then setDir s e
  else setDir s { e with state := if e.keep && e.holders ≠ [] then 1 else 0, holders := if e.keep then e.holders else [], excl := false }

/-- A line written back by a holder replaces the home's (R69). -/
def writeBack (s : State) (line : Nat) (d : BitVec 512) : State :=
  let g := s.home.granAt (line * 64)
  let h := s.home.setGran (line * 64) { g with poisoned := false, corrupt := false }
  tagLine { s with home := { h with mem := h.mem.put (line * 64) (lineBytes d 0 64) } } line true none false

/-- INVALIDATION_ACKNOWLEDGEMENT (R69): what waits on the line is then served. -/
def execInvalidationAcknowledgement (line : Nat) (holder : Agent) (data : Option (BitVec 512)) (s : State) : Host.Outcome State Fault Refusal :=
  match dirAt s line with
  | none => .next s
  | some e =>
    if e.state ≠ 4 || !e.awaited.contains holder then .next s
    else
      let s := match data with | some d => writeBack s line d | none => s
      .next (pumpRecords (serveHeld (holderGone s e holder e.keep)))

/-- L1_LEASE_EXPIRY (R58). -/
def execL1LeaseExpiry (core : Nat) (line : LineId) (s : State) : Host.Outcome State Fault Refusal :=
  .next (s.modCore core fun k => { k with l1 := k.l1.filter fun l => !(l.id = line && l.dom ≠ .core) })

/-! ## Promotion -/

/-- TAGGED_WRITE_RETURNED (R96): the waiting write of a core becomes a drained write, and goes when no earlier one waits. -/
def execTaggedWriteReturned (core : Nat) (line : Nat) (s : State) : Host.Outcome State Fault Refusal :=
  let one := fun (h : HeldReq) => if agentCore h.req.agent = some core && h.req.pa / 64 = line then returned s h else h
  .next (pumpRecords (serveHeld { s with home := { s.home with held := s.home.held.map one } }))

/-- PROMOTION_RETIRE (R96, R97): the entries of a core that its drained epoch covers leave, and PROM of their lines is set. -/
def execPromotionRetire (core : Nat) (epoch : BitVec 16) (s : State) : Host.Outcome State Fault Refusal :=
  let k := s.coreAt core
  let out := fun (e : Prom) => e.core = core && (epoch - e.epoch).toNat < 32768 && !k.isOpen e.epoch
  let gone := s.home.prom.filter out
  let s := { s with home := { s.home with prom := s.home.prom.filter fun e => !out e } }
  .next (gone.foldl (fun s e => { s with home := s.home.setGran (e.line * 64) { s.home.granAt (e.line * 64) with prom := true } }) s)

/-- An acquire that waited for promotions goes on when none is pending (R97). -/
def promotionsDone (s : State) (core slot : Nat) : State :=
  match s.warpAt core slot with
  | some w =>
    match w.wait with
    | .promote m => (let s := s.focus core slot; settlePromotions { s with cur := { s.cur with wait := .none } } m)
    | _ => s
  | none => s

/-- PROMOTION_QUERY (R96): the tokens of a lane that their cores answer at once. -/
def execPromotionQuery (core : Nat) (slot : Nat) (lane : Fin 32) (s : State) : Host.Outcome State Fault Refusal :=
  .next (promotionsDone (s.modWarp core slot fun w => { w with threads := w.threads.set lane (w.threads[lane].answered s) }) core slot)

/-- PROMOTION_ANSWER (R97): one token's core has drained its epoch. -/
def execPromotionAnswer (core : Nat) (slot : Nat) (lane : Fin 32) (t : Token) (s : State) : Host.Outcome State Fault Refusal :=
  let one := fun (x : Thread) => if tokenDrained s t && x.pending.contains t then { x with pending := x.pending.filter fun y => y ≠ t, drained := true } else x
  .next (promotionsDone (s.modWarp core slot fun w => { w with threads := w.threads.set lane (one w.threads[lane]) }) core slot)

/-! ## Placement migration (R73, R74) -/

/-- A block may change its state: not again within 1,048,576 clocks (R73). -/
def mayMove (s : State) (block : Nat) : Bool :=
  match assoc block s.home.moved with | some t => s.clock - t ≥ 1048576 | none => true

/-- The block has lines that do not migrate (R74, R273): update-only lines, region-owned ones, those of a page that some core's TLBs hold as
uncached, locked ones. -/
def neverMoves (s : State) (block : Nat) : Bool :=
  (s.allCores.any fun k => (k.upd.any fun u => u.line / 64 = block)
      || k.tlb.any fun x => x.leaf.mt = 1 && bits x.leaf.e 51 16 * 65536 ≤ block * 4096 && block * 4096 < bits x.leaf.e 51 16 * 65536 + x.bytes)
    || (s.geom.dies.any fun d => d.renderLines.any fun x => x.1 / 64 = block)
    || s.home.locks.any fun x => x.1 / 64 = block

/-- The memory dies in service, with their logical indices. -/
def memDiesUp (m : Mgmt) : List (Nat × Nat) := m.memDies.zipIdx.filter fun x => !m.badSockets.contains x.1

/-- The logical index of the memory die nearest a user's socket, ties going to the lower socket (R72, R73). -/
def nearestDie (m : Mgmt) (user : Nat) : Option Nat := ((sortBy (fun (x : Nat × Nat) => hops user x.1) (memDiesUp m)).head?).map fun x => x.2

/-- A destination that a block may move to (R73): the memory die nearest some user, in service, and the slice with the index of the block's first
line; each other line goes to the slice with its own home's index (DESIGN CHOICE: R65 spreads a block over the slices of its die). -/
def mayHost (m : Mgmt) (block : Nat) (away : BitVec 7) : Bool :=
  away.toNat % 16 = sliceOf m (block * 4096) && !m.badSlices.contains (away.toNat / 16, away.toNat % 16)
    && (List.range 18).any fun u => nearestDie m u = some (away.toNat / 16)

/-- The block's placement becomes a state, or HOME. -/
def setPlaced (s : State) (block : Nat) (p : Option Placed) : State :=
  let rest := s.home.placed.filter fun x => x.block ≠ block
  { s with home := { s.home with placed := rest ++ p.toList, moved := assocSet block s.clock s.home.moved } }

/-- The block's record in a state, when it may leave it. -/
def placedIn (s : State) (block : Nat) (st : BitVec 2) : Option Placed :=
  if mayMove s block then s.home.placed.find? fun p => p.block = block && p.state = st else none

/-- MIGRATION_START (R73); to a destination that R73 does not give it does nothing. -/
def execMigrationStart (block : Nat) (away : BitVec 7) (s : State) : Host.Outcome State Fault Refusal :=
  .next (if placement s (block * 4096) ≠ 0 || !mayMove s block || neverMoves s block || !mayHost s.mgmt block away then s
    else setPlaced s block (some { block := block, state := 1, away := away, since := s.clock }))
/-- MIGRATION_SWITCH (R73): the held requests are performed in arrival order. -/
def execMigrationSwitch (block : Nat) (s : State) : Host.Outcome State Fault Refusal :=
  match placedIn s block 1 with
  | some p => .next (pumpRecords (serveHeld (setPlaced s block (some { p with state := 2, since := s.clock }))))
  | none => .next s
/-- MIGRATION_RETURN_START (R73). -/
def execMigrationReturnStart (block : Nat) (s : State) : Host.Outcome State Fault Refusal :=
  match placedIn s block 2 with
  | some p => .next (setPlaced s block (some { p with state := 3, since := s.clock }))
  | none => .next s
/-- MIGRATION_RETURN_COMPLETE (R73). -/
def execMigrationReturnComplete (block : Nat) (s : State) : Host.Outcome State Fault Refusal :=
  match placedIn s block 3 with
  | some _ => .next (pumpRecords (serveHeld (setPlaced s block none)))
  | none => .next s

/-! ## The fabric -/

/-- Every proxy copy and every L1 line of a fabric-remote page is invalidated (R111). -/
def dropRemote (s : State) : State :=
  let core := fun (k : Core) => { k with l1 := k.l1.filter fun l => l.id.node.isNone }
  { s with home := { s.home with proxies := [] }, core := core s.core, cores := s.cores.map core }

/-- FABRIC_LEASE_RENEWAL (R111, R112): of this device, which rejoins with its remote copies gone; of another, which is in service
again. -/
def execFabricLeaseRenewal (node : Nat) (s : State) : Host.Outcome State Fault Refusal :=
  if node = s.fabric.self then
    let s := if s.fabric.noticed || !s.fabric.leaseOn then dropRemote s else s
    .next { s with fabric := { s.fabric with leaseOn := true, renewed := s.clock, noticed := false } }
  else .next (setNode s { nodeOf s node with failed := false })

/-- FABRIC_LEASE_EXPIRY (R111): 200,000 clocks after the last renewal. -/
def execFabricLeaseExpiry (s : State) : Host.Outcome State Fault Refusal :=
  if !s.fabric.leaseOn || s.clock - s.fabric.renewed < 200000 then .next s
  else
    let s := dropRemote s
    .next { s with fabric := { s.fabric with leaseOn := false } }

/-- FANOUT_TIMEOUT (R112): after 80,000 clocks the holder is reported, once. -/
def execFanoutTimeout (line : Nat) (node : Nat) (s : State) : Host.Outcome State Fault Refusal :=
  match dirAt s line with
  | none => .next s
  | some e =>
    if e.state ≠ 4 || !e.awaited.contains (.remote node) || e.reported.contains node || s.clock - e.since < 80000 then .next s
    else
      let s := setDir s { e with reported := e.reported ++ [node] }
      .next { s with fabric := { s.fabric with sent := s.fabric.sent ++ [.unacked line node] } }

/-- REROUTE (R112): the invalidation goes out again. -/
def execReroute (line : Nat) (node : Nat) (s : State) : Host.Outcome State Fault Refusal :=
  match dirAt s line with
  | none => .next s
  | some e =>
    if e.state ≠ 4 || !e.awaited.contains (.remote node) then .next s
    else
      let s := setDir s { e with reported := e.reported.filter fun n => n ≠ node, since := s.clock }
      .next { s with fabric := { s.fabric with sent := s.fabric.sent ++ [.invalidate line node] } }

/-- Agents leave one directory entry (R112 to R114): a line one of them owned exclusively is poisoned, their partials of a line are lost. -/
def agentsLeave (s : State) (gone : Agent → Bool) (e : DirEntry) : State :=
  if !((e.holders ++ e.awaited).any gone) then s
  else
    let s := if e.state = 2 || (e.state = 4 && e.excl) then poisonAt s (e.line * 64) else s
    let s := if e.state = 3 then { s with home := { s.home with lost := s.home.lost ++ [e.line] } } else s
    if e.state = 4 then ((e.holders ++ e.awaited).filter gone).foldl (fun s a => match dirAt s e.line with | some e => holderGone s e a false | none => s) s
    else
      let rest := e.holders.filter fun x => !gone x
      setDir s { e with holders := rest, state := if rest = [] then 0 else e.state }
def nodeLeaves (s : State) (node : Nat) (e : DirEntry) : State := agentsLeave s (fun a => a = .remote node) e

/-- The requests of a failed node that wait at homes are gone; its updates among them are lost (R113). -/
def dropRequests (s : State) (node : Nat) : State :=
  let mine := fun (h : HeldReq) => h.req.agent = .remote node
  let lost := (s.home.held.filter fun h => mine h && (match h.req.op with | .rmw _ _ => true | _ => false)).map fun h => h.req.pa / 64
  { s with home := { s.home with held := s.home.held.filter (fun h => !mine h), lost := s.home.lost ++ lost.filter fun l => !s.home.lost.contains l } }

/-- The ranks of a collective that a node holds, by its members and by the roster in memory (R364). -/
def ranksOf (s : State) (r : Root) (node : Nat) : List Nat :=
  let j := joinDesc r.desc
  (List.range j.n).filter fun k =>
    (r.members.any fun m => m.1 = node && m.2.2 = k)
      || (match rosterEntry s (unitCtx r.core r.lau) (unitIssuer r.core r.lau.id) j k with
          | (_, .ok e) => rosterValid e && rosterNode e = node
          | _ => false)

/-- A failed node's ranks leave the collectives rooted here; collectives rooted there fail (R364). -/
def collectivesLose (s : State) (node : Nat) : State :=
  let lose := fun (r : Root) =>
    let gone := ranksOf s r node
    let keep := fun (p : CollPacket) => !(p.spann = 1 && gone.contains p.spanlo)
    { r with removed := r.removed ++ gone, members := r.members.filter fun m => m.1 ≠ node, parts := r.parts.filter keep, early := r.early.filter keep }
  let roots := s.coll.roots.map lose
  let s := { s with coll := { s.coll with roots := roots, joins := s.coll.joins.filter fun x => x.1 ≠ node } }
  let hit := fun (m : Member) => m.root = node && node ≠ s.fabric.self
  let slots := (s.coll.members.filter hit).map fun m => m.slot
  let s := modMembers s fun m => if hit m then { m with failed := true, answer := m.answer.or (some false) } else m
  wakeColl (wakeSlots s slots) fun w => match w with | .collJoin n => slots.contains n | _ => false

/-- NODE_DECLARED_FAILED (R112, R113, R364): homes and collectives drop the node, and what waited is served. -/
def execNodeDeclaredFailed (node : Nat) (s : State) : Host.Outcome State Fault Refusal :=
  if node = s.fabric.self then .next s
  else
    let s := setNode s { nodeOf s node with failed := true }
    let s := s.home.dir.foldl (fun s e => nodeLeaves s node e) (dropRequests s node)
    .next (pumpRecords (serveHeld (collectivesLose s node)))

/-- FAILURE_NOTICE (R112): the fabric manager tells this device that it was declared failed. -/
def execFailureNotice (s : State) : Host.Outcome State Fault Refusal := .next { s with fabric := { s.fabric with noticed := true } }

/-! ## Quarantine (R114, R329, R441, R442) -/

/-- The first quarantine sets REPLACE; module flash takes the list for the next boot (R442, `execReset`). -/
def replaceMe (s : State) : State := { s with mgmt := { s.mgmt with replace := true } }

/-- The blocks on cores that a test names are killed (R114, R151). -/
def killOn (s : State) (p : Nat → Bool) : State :=
  let bs := s.allCores.flatMap fun k => if p k.id then k.blocks.map fun b => (k.id, b) else []
  bs.foldl (fun s (c, b) => killBlock s c b (plainKill 3)) s

/-- The cores that a shootdown no longer waits for (R291). -/
def dropShootdowns (s : State) (p : Nat → Bool) : State :=
  { s with shootdowns := s.shootdowns.map fun x => { x with wait := x.wait.filter fun c => !p c } }

/-- The clusters that a test names hold no claim any more (R447). -/
def dropClaims (s : State) (p : Nat → Bool) : State :=
  { s with mgmt := { s.mgmt with tempo := Vector.ofFn fun n => if p n.val then { s.mgmt.tempo[n] with claim := 0, age := none } else s.mgmt.tempo[n] } }

/-- A cluster is quarantined (R441). -/
def quarantineCluster (s : State) (cl : Nat) : State :=
  if s.mgmt.badClusters.contains cl then s
  else
    let s := replaceMe { s with mgmt := { s.mgmt with badClusters := s.mgmt.badClusters ++ [cl] } }
    let s := dropClaims s fun n => n = cl
    pumpRecords (dropShootdowns (killOn s fun c => clusterOf c = cl) fun c => clusterOf c = cl)

/-- What a lost core held exclusively is poisoned, its partials and its engines' work are gone (R114). -/
def loseCore (s : State) (k : Core) : State :=
  let stash := k.stash.flatMap fun st => (st.lines.filter fun l => l.state ≠ 1).map fun l => l.pa
  let owned := k.copies.flatMap fun c => (c.lines.filter fun o => o.id.node.isNone).map fun o => o.id.line
  let s := (stash ++ owned).foldl (fun s n => poisonAt s (n * 64)) s
  s.modCore k.id fun k => { k with stash := [], copies := [], jobs := [], upd := [], returns := [] }

/-- Where the proxy copy of a remote line lies: memory die and slice (R65, R70). -/
def proxyPlace (m : Mgmt) (id : LineId) : Nat × Nat := (dieOf m (id.line * 64), sliceOf m (id.line * 64))

/-- The proxy copies in slices that a test names are gone. -/
def loseProxies (s : State) (gone : Nat × Nat → Bool) : State :=
  (s.home.proxies.filter fun p => gone (proxyPlace s.mgmt p.id)).foldl (fun s p => dropProxy s p.id) s

/-- A slice to which placement blocks have moved is lost (R74): a block that is moving stays at home; another returns, and its dirty lines there
are poisoned. -/
def losePlaced (s : State) (die : Nat) (gone : Nat → Bool) : State :=
  let hit := s.home.placed.filter fun p => p.away.toNat / 16 = die && (List.range 64).any fun n => gone (sliceOf s.mgmt (p.block * 4096 + 64 * n))
  let lost := hit.flatMap fun p => p.dirty.filter fun l => gone (sliceOf s.mgmt (l * 64))
  let s := lost.foldl (fun s l => poisonAt s (l * 64)) s
  hit.foldl (fun s p => setPlaced s p.block none) s

/-- A die is quarantined (R114, R329, R441): its blocks are killed; a memory die's units are withdrawn and its flush areas have to
move (R66, R323). -/
def quarantineDie (s : State) (n : Nat) : State :=
  if s.mgmt.badSockets.contains n then s
  else
    let s := replaceMe { s with mgmt := { s.mgmt with badSockets := s.mgmt.badSockets ++ [n] } }
    let s := dropClaims s fun k => k / 2 = n
    let mine := fun (c : Nat) => socketOf c = n
    let s := (s.allCores.filter fun k => mine k.id).foldl loseCore s
    let s := dropShootdowns (killOn s mine) mine
    let s := { s with geom := { s.geom with
      packets := s.geom.packets.filter fun x => x.1 ≠ n
      tokens := s.geom.tokens.filter fun x => x.1 ≠ n
      passed := s.geom.passed.filter fun x => x.1.1 ≠ n } }
    let die := (s.mgmt.memDies.findIdx? fun x => x = n).getD 99
    let s := loseProxies (losePlaced s die fun _ => true) fun x => x.1 = die
    let s := if s.mgmt.memDies.contains n then { s with mgmt := { s.mgmt with flushMove := true } } else s
    let s := s.home.dir.foldl (fun s e => agentsLeave s (fun a => (agentCore a).any mine) e) s
    pumpRecords (serveHeld (settleDraws s))

/-- A last-level slice is quarantined (R74, R441): what it held of other homes' lines is gone, and a stand-in of its die fronts its lines; with the last slice of a die the die goes. -/
def quarantineSlice (s : State) (die slice : Nat) : State :=
  if s.mgmt.badSlices.contains (die, slice) then s
  else
    let s := replaceMe { s with mgmt := { s.mgmt with badSlices := s.mgmt.badSlices ++ [(die, slice)] } }
    let s := loseProxies (losePlaced s die fun x => x = slice) fun x => x = (die, slice)
    if (s.mgmt.badSlices.filter fun x => x.1 = die).length ≥ 16 then quarantineDie s (s.mgmt.memDies.getD die 99) else pumpRecords (serveHeld s)

/-- A Rook port is quarantined (R441): the port is disabled, and the fabric manager reroutes. -/
def quarantinePort (s : State) (port : Nat) : State :=
  if s.mgmt.badPorts.contains port then s
  else replaceMe { s with mgmt := { s.mgmt with badPorts := s.mgmt.badPorts ++ [port] } }

/-- DIE_LINK_FAILURE (R114). -/
def execDieLinkFailure (socket : Nat) (s : State) : Host.Outcome State Fault Refusal := .next (quarantineDie s socket)

/-- ROOK_PORT_LINK_FAILURE (R441). -/
def execRookPortLinkFailure (port : Nat) (s : State) : Host.Outcome State Fault Refusal := .next (quarantinePort s port)

end Sys2Proof.Machine
end

