-- ==== Sys2Proof/Machine/Matrix.lean ====
section
/-! DEFINITION. The matrix engine (R293 to R313): job cards and their walk, the native step, accumulator loads and stores,
operand streams, and the instructions that name them. -/

namespace Sys2Proof.Machine

/-! ## The native step (R294 to R297) -/

/-- The elements along K of one step, by format. -/
def matK (fmt : Nat) : Nat := match fmt with | 0 | 1 => 1 | 2 | 3 | 4 => 2 | _ => 4
def matMx (fmt : Nat) : Bool := fmt = 4 || fmt = 5
def matElem (fmt : Nat) : FFmt := match fmt with | 0 => bf16 | 1 => f16 | 2 | 4 => e4m3 | 3 => e5m2 | _ => e2m1

/-- A scaled operand: its sign bit, and its value with finite ones in units of 2^-276. -/
structure Operand where
  neg : Bool
  v : FV
  deriving DecidableEq, Repr

/-- The operands of a row of a slice from its two bytes and its scale (R233, R294). -/
def operandsOf (fmt : Nat) (b : List Byte) (scale : Byte) : List Operand :=
  let f := matElem fmt
  (List.range (matK fmt)).map fun t =>
    let x := leNat b / 2 ^ (f.width * t) % 2 ^ f.width
    let neg := x / 2 ^ (f.width - 1) % 2 = 1
    let v := match f.unpack x with
      | .fin n v => if matMx fmt then (if scale = 0xFF then FV.nan 0 else .fin n (v * 2 ^ scale.toNat)) else .fin n (v * 2 ^ 127)
      | v => if matMx fmt && scale = 0xFF then FV.nan 0 else v
    ⟨neg, v⟩

def Operand.isZero (x : Operand) : Bool := match x.v with | .fin _ v => v = 0 | _ => false
def Operand.isSpecial (x : Operand) : Bool := match x.v with | .fin _ _ => false | _ => true

/-- One element of C after a step (R295). -/
def stepElement (c : Nat) (a b : List Operand) : Nat :=
  match f32.unpack c with
  | .nan x => f32.quiet x
  | cv =>
    let ps := List.zipWith (fun (x y : Operand) => dotProduct x.v y.v) a b
    if ps.any fun p => p.isNone then f32.canon
    else
      let all := cv :: ps.filterMap id
      let inf := fun (s : Bool) => all.any fun x => match x with | .inf t => s = t | _ => false
      if inf true && inf false then f32.canon
      else if inf false then f32.ovf
      else if inf true then f32.sgn true + f32.ovf
      else
        let part := fun (x : FV) => match x with | .fin _ v => v | _ => 0
        let sum : Int := part cv * 2 ^ 403 + (ps.filterMap id).foldl (fun n x => n + part x) 0
        let neg := all.all fun x => match x with | .fin n _ => n | _ => false
        f32.roundInt 0 neg false sum (2 ^ 552)

/-- One element of C after a skipped step with ZSNS (R296, R297): products of a zero are zeros with their sign. -/
def stepSkipped (c : Nat) (a b : List Operand) : Nat :=
  match f32.unpack c with
  | .nan x => f32.quiet x
  | .fin n v =>
    if v ≠ 0 then c
    else if n && (List.zipWith (fun (x y : Operand) => x.neg != y.neg) a b).all id then f32.sgn true else 0
  | .inf _ => c

/-- A native step on an accumulator (R294 to R297): 64 rows of A, 32 rows of B. -/
def nativeStep (nospecial : Bool) (a b : List (List Operand)) (acc : Vector Word 2048) : Vector Word 2048 :=
  let zero := fun (x : List (List Operand)) => x.all fun r => r.all Operand.isZero
  let skip := nospecial && (zero a || zero b)
  Vector.ofFn fun (e : Fin 2048) =>
    let ra := a.getD (e.val / 32) []
    let rb := b.getD (e.val % 32) []
    BitVec.ofNat 32 (if skip then stepSkipped acc[e].toNat ra rb else stepElement acc[e].toNat ra rb)

/-! ## Job cards (R298, R299) -/

abbrev Card := Vector Dword 16

/-- One operand of a card: base, pitch, scale base and pitch, format, stream. -/
structure Side where
  base : Dword
  pitch : Nat
  sbase : Dword
  spitch : Nat
  fmt : Nat
  strm : Bool
  sid : Nat
  deriving DecidableEq, Repr
namespace Card
def word (w : Card) (k : Nat) : Dword := w.getD k 0
def sideA (w : Card) : Side :=
  { base := sext57 (w.word 0), pitch := bits (w.word 4) 31 0, sbase := sext57 (w.word 2), spitch := bits (w.word 5) 31 0
    fmt := bits (w.word 6) 2 0, strm := (w.word 6).getLsbD 8, sid := bits (w.word 6) 12 9 }
def sideB (w : Card) : Side :=
  { base := sext57 (w.word 1), pitch := bits (w.word 4) 63 32, sbase := sext57 (w.word 3), spitch := bits (w.word 5) 63 32
    fmt := bits (w.word 6) 5 3, strm := (w.word 6).getLsbD 13, sid := bits (w.word 6) 17 14 }
def nospecial (w : Card) : Bool := !(w.word 6).getLsbD 6 && (w.word 6).getLsbD 7
def accBase (w : Card) : Nat := bits (w.word 6) 20 18
def extent (w : Card) (l : Nat) : Nat := bits (w.word (7 + l)) 15 0
def role (w : Card) (l : Nat) : Nat := bits (w.word (7 + l)) 17 16
def accStep (w : Card) (l : Nat) : Nat := bits (w.word (7 + l)) 20 18
def stride (w : Card) (l : Nat) : Int := (BitVec.ofNat 32 (bits (w.word (7 + l)) 63 32)).toInt
/-- The start indices. -/
def start (w : Card) : Vector Nat 5 :=
  Vector.ofFn fun (l : Fin 5) => if l.val < 4 then bits (w.word 12) (16 * l.val + 15) (16 * l.val) else bits (w.word 13) 15 0
/-- An address that the card may not name (R299). -/
def refusedPlace (va : Dword) : Bool := match copyPlace va with | .refused => true | _ => false

/-- The first failing check of R299, by its subcode; `subscribed` tells the streams of the issuing warp. -/
def check (w : Card) (subscribed : Nat → Bool) : Option Nat :=
  let a := w.sideA
  let b := w.sideB
  let ls := List.range 5
  let reserved : Bool :=
    (List.range 4).any (fun k => bits (w.word k) 63 57 ≠ 0) || bits (w.word 6) 63 21 ≠ 0
      || ls.any (fun l => bits (w.word (7 + l)) 31 21 ≠ 0) || bits (w.word 13) 63 23 ≠ 0 || w.word 14 ≠ 0 || w.word 15 ≠ 0
      || a.fmt > 5 || b.fmt > 5 || (!a.strm && a.sid ≠ 0) || (!b.strm && b.sid ≠ 0)
  let badLevel := ls.any fun l =>
    (w.role l = 0 && (w.extent l ≠ 0 || w.accStep l ≠ 0 || w.stride l ≠ 0))
      || (w.role l = 1 && (w.accStep l ≠ 0 || w.stride l ≤ 0 || w.stride l % (matK a.fmt : Int) ≠ 0))
  if reserved then some 0
  else if matK a.fmt ≠ matK b.fmt then some 1
  else if badLevel then some 2
  else if a.base.toNat % 2 ≠ 0 || b.base.toNat % 2 ≠ 0 || a.pitch % 2 ≠ 0 || b.pitch % 2 ≠ 0 then some 3
  else if (List.finRange 5).any (fun l => w.start[l] > w.extent l.val) || bits (w.word 13) 22 16 ≠ 0 then some 4
  else if (a.strm && !subscribed a.sid) || (b.strm && !subscribed b.sid) then some 5
  else if refusedPlace a.base || refusedPlace b.base || (matMx a.fmt && refusedPlace a.sbase) || (matMx b.fmt && refusedPlace b.sbase) then some 6
  else none

/-- The highest accumulator that the walk names (R299). -/
def topAcc (w : Card) : Nat := w.accBase + ((List.range 5).map fun l => w.extent l * w.accStep l).foldl (· + ·) 0

/-- The sums of accumulator steps over a level's indices from `lo` to its extent. -/
def levelSums (w : Card) (l lo : Nat) : List Nat :=
  if lo > w.extent l then [] else if w.accStep l = 0 then [0] else (List.range (w.extent l + 1 - lo)).map fun i => (lo + i) * w.accStep l
/-- The accumulators that the walk from the card's start names. -/
def accs (w : Card) : Byte :=
  let fixed := fun (l : Nat) => (((List.range 5).filter fun k => k > l).map fun k => w.start.getD k 0 * w.accStep k).foldl (· + ·) 0
  let free := fun (l : Nat) => ((List.range 5).filter fun k => k < l).foldl (fun xs k => xs.flatMap fun x => (w.levelSums k 0).map fun y => x + y) [0]
  let later := (List.range 5).flatMap fun l =>
    (w.levelSums l (w.start.getD l 0 + 1)).flatMap fun x => (free l).map fun y => x + y + fixed l
  let here := ((List.range 5).map fun k => w.start.getD k 0 * w.accStep k).foldl (· + ·) 0
  BitVec.ofNat 8 (((List.range 8).filter fun a => (here :: later).any fun x => w.accBase + x = a).foldl (fun n a => n + 2 ^ a) 0)

/-- The point of the walk at some indices (R300): K index, first A row, first B row, accumulator. -/
def point (w : Card) (idx : Vector Nat 5) : Nat × Int × Int × Nat :=
  let sum := fun (r : Nat) => (((List.range 5).filter fun l => w.role l = r).map fun l => (idx.getD l 0 : Int) * w.stride l).foldl (· + ·) 0
  ((sum 1).toNat, sum 2, sum 3, w.accBase + ((List.range 5).map fun l => idx.getD l 0 * w.accStep l).foldl (· + ·) 0)

/-- The indices after a step; none at the end of the walk (R300). -/
def next (w : Card) (idx : Vector Nat 5) : Option (Vector Nat 5) :=
  match (List.finRange 5).find? fun l => idx[l] ≠ w.extent l.val with
  | none => none
  | some l => some (Vector.ofFn fun k => if k < l then 0 else if k = l then idx[k] + 1 else idx[k])
end Card

/-! ## Jobs in the table -/

/-- The trap that a job fails with (R306). -/
def matTrapFail (t : Trap) : Trap := if t.code = 0x41 then { t with sub := 4, late := false } else t

/-- The record of a job's fault or failure (R304, R306, R390). -/
def jobRecord (c : Nat) (j : Job) (t : Trap) (kind : Nat) : Rec :=
  let row := match j.kind with | .card _ => j.staged.length | _ => j.row
  { code := t.code, sub := t.sub, kind := kind, det := j.snap.isSome, level := t.level.toNat, addr := t.addr, launch := j.launch,
    block := j.block, warp := j.warp, core := c, unit := 2, job := j.entry
    dwa := j.idx[0] + j.idx[1] * 2 ^ 16 + j.idx[2] * 2 ^ 32 + j.idx[3] * 2 ^ 48, dwb := j.idx[4] + row * 2 ^ 16 }

def setJob (s : State) (c : Nat) (old new : Job) : State :=
  s.modCore c fun k => { k with jobs := k.jobs.map fun x => if x = old then new else x }

/-- Matrix instructions of a warp that an MWAIT covers (R307). -/
def coversJob (mask : Byte) (all : Bool) (accs : Byte) : Bool := all || accs &&& mask ≠ 0

/-- Warps that waited for an entry, or for matrix instructions that have completed, go on (R293, R307). -/
def wakeMatrix (s : State) (c : Nat) : State :=
  let k := s.coreAt c
  let free := fun (w : Warp) =>
    match w.wait with
    | .jobEntry => true
    | .matrix m all => !(k.jobs.any fun j => j.slot = w.slot && j.snap.isNone && coversJob m all j.accs)
    | _ => false
  s.mapWarps c fun w => if free w then w.wake else w

/-- An entry is freed (R293). -/
def dropJob (s : State) (c : Nat) (j : Job) : State :=
  wakeMatrix (s.modCore c fun k => { k with jobs := k.jobs.filter fun x => x ≠ j }) c

/-- A job fails (R306): a record, and a failure that the first MWAIT on its accumulators raises. -/
def failJob (s : State) (c : Nat) (j : Job) (t : Trap) : State :=
  let t := matTrapFail t
  let s := launchRecord s (jobRecord c j t 2)
  let s := if j.snap.isSome then s else s.modWarp c j.slot fun w => { w with jobFails := w.jobFails ++ [(j.accs, t)] }
  dropJob s c j

/-- A job meets a fault that service can help (R304). -/
def suspendJob (s : State) (c : Nat) (old new : Job) (t : Trap) : State :=
  let s := setJob s c old { new with status := .queueFull t }
  pumpRecords (launchRecord s (jobRecord c new t 0) (some (.job new.entry)))

/-- The translation context and the issuer of a job's accesses (R105, R301). -/
def jobCtx (s : State) (c : Nat) (j : Job) : Ctx :=
  let l := (s.launchOf j.launch).getD { id := j.launch, q := 0, pkt := {} }
  let w := if j.snap.isSome then none else s.warpAt c j.slot
  let b := w.bind fun w => s.blockAt c w.bslot
  ctxOf s c l j.block (match b with | some b => b.rank | none => j.block.toNat % l.pkt.coh) j.warp (b.map fun b => b.bslot)
    (match w with | some w => w.supervisor | none => l.sup)
def jobIssuer (s : State) (c : Nat) (j : Job) : Issuer :=
  let b := (if j.snap.isSome then none else s.warpAt c j.slot).bind fun w => s.blockAt c w.bslot
  { core := c, launch := j.launch, block := j.block, warp := j.warp, holder := b.map fun b => ⟨c, b.bslot, b.genLS⟩,
    agent := .loc c 2 0, isWarp := false }

/-- An earlier matrix instruction of the warp names one of these accumulators, or has still to store (R303). -/
def matBlocked (k : Core) (j : Job) (accs : Byte) (reads : Bool) : Bool :=
  k.jobs.any fun x => x.slot = j.slot && x.snap.isNone && j.snap.isNone && x.order < j.order
    && (x.accs &&& accs ≠ 0 || (reads && match x.kind with | .store .. => true | _ => false))

def accBit (a : Nat) : Byte := BitVec.ofNat 8 (2 ^ a)

/-! ## Staging (R300, R301, R304, R312) -/

/-- The address of a row's elements, and of its scale. -/
def rowAddr (x : Side) (r : Int) (kk : Nat) : Dword :=
  x.base + BitVec.ofInt 64 (r * x.pitch) + BitVec.ofNat 64 (kk / matK x.fmt * 2)
def scaleAddr (x : Side) (r : Int) (kk : Nat) : Dword := x.sbase + BitVec.ofInt 64 (r * x.spitch) + BitVec.ofNat 64 (kk / 32)

/-- One engine read with its watches (R430). -/
def jobRead (s : State) (c : Nat) (j : Job) (va : Dword) (n : Nat) : State × Job × Eng (List Byte) :=
  match engRead s (jobCtx s c j) (jobIssuer s c j) va n none with
  | (s, .ok d) =>
    let (s, seen) := engWatch s j.launch j.watched va n false (jobRecord c j (trap 0x3F 2) 3)
    (s, { j with watched := seen }, .ok d)
  | (s, r) => (s, j, r)

/-- Stages rows `r` onward, `n` of them, behind those staged. -/
def stageRows (s : State) (c : Nat) (x : Side) (kk : Nat) : Job → Int → Nat → State × Job × Eng Unit
  | j, _, 0 => (s, j, .ok ())
  | j, r, n + 1 =>
    match jobRead s c j (rowAddr x r kk) 2 with
    | (s, j, .ok d) =>
      if matMx x.fmt then
        match jobRead s c j (scaleAddr x r kk) 1 with
        | (s, j, .ok e) => stageRows s c x kk { j with staged := j.staged ++ [(d, e.getD 0 0)] } (r + 1) n
        | (s, j, .wait) => (s, j, .wait)
        | (s, j, .suspend t) => (s, j, .suspend t)
        | (s, j, .fail t) => (s, j, .fail t)
      else stageRows s c x kk { j with staged := j.staged ++ [(d, 0)] } (r + 1) n
    | (s, j, .wait) => (s, j, .wait)
    | (s, j, .suspend t) => (s, j, .suspend t)
    | (s, j, .fail t) => (s, j, .fail t)

/-- The stream of a job's cohort with its warp's subscription. -/
def streamOf (s : State) (c : Nat) (j : Job) (sid : Nat) : Option (Stream × Subscriber) :=
  match s.launchOf j.launch, s.warpAt c j.slot with
  | some l, some w =>
    (l.streams.find? fun x => x.id = sid && x.cohort = cohortOf l j.block).bind fun x =>
      (x.subs.find? fun y => y.core = c && y.bslot = w.bslot && y.warp = w.idx).map fun y => (x, y)
  | _, _ => none

/-- Changes a stream of a launch. -/
def modStream (s : State) (launch : Word) (cohort sid : Nat) (f : Stream → Stream) : State :=
  s.modLaunch launch fun l => { l with streams := replaceBy (fun x => x.id = sid && x.cohort = cohort) f l.streams }

/-- A subscriber has consumed its next block (R312). -/
def consume (s : State) (c : Nat) (j : Job) (sid : Nat) : State :=
  match streamOf s c j sid with
  | some (x, y) => modStream s j.launch x.cohort sid fun x =>
      Stream.retire { x with subs := x.subs.map fun z => if z = y then { z with used := z.used + 1 } else z }
  | none => s

/-- The rows of one slice are staged, by the job itself or from its stream (R304, R312): `from_` rows stand before them. -/
def stageSide (s : State) (c : Nat) (j : Job) (x : Side) (r : Int) (kk from_ n : Nat) : State × Job × Eng Unit :=
  if j.staged.length ≥ from_ + n then (s, j, .ok ())
  else if !x.strm then
    let k := j.staged.length - from_
    stageRows s c x kk j (r + k) (n - k)
  else
    match streamOf s c j x.sid with
    | none => (s, j, .wait)
    | some (st, y) =>
      match st.fetched.find? fun b => b.n = y.used with
      | none => (s, j, .wait)
      | some b =>
        if b.addr ≠ rowAddr x r kk then (consume s c j x.sid, j, .fail (trapAt 100 0x28 8 (rowAddr x r kk)))
        else (s, { j with staged := j.staged.take from_ ++ b.rows }, .ok ())

/-! ## Steps -/

/-- The bytes of an accumulator's row as MSTA delivers them (R310). -/
def mstaElement (c : Word) (scale : Option Word) (fmt : Nat) (rnd : BitVec 3) (sat : Bool) : Nat :=
  let cv := f32.unpack c.toNat
  let x : FV × Nat :=
    match scale with
    | none => (cv, 149)
    | some k =>
      match cv, f32.unpack k.toNat with
      | .nan b, _ => (.nan b, 149)
      | _, .nan b => (.nan b, 149)
      | a, b => (match dotProduct a b with | some p => p | none => .nan f32.canon, 298)
  let f := match fmt with | 0 => f32 | 1 => f16 | 2 => bf16 | 3 => e4m3 | _ => e5m2
  if fmt ≥ 5 then
    let lo : Int := if fmt = 5 then -128 else if fmt = 6 then 0 else -(2 ^ 31)
    let hi : Int := if fmt = 5 then 127 else if fmt = 6 then 255 else 2 ^ 31 - 1
    let n : Int := match x.1 with
      | .nan _ => 0
      | .inf t => if t then lo else hi
      | .fin _ v =>
        let d := 2 ^ x.2
        let t := v.natAbs / d
        let t := if roundsUp rnd (v < 0) t (v.natAbs % d) d then t + 1 else t
        if v < 0 then -(t : Int) else t
    (BitVec.ofInt (8 * matBytes fmt) (if n < lo then lo else if n > hi then hi else n)).toNat
  else
    match x.1 with
    | .fin t v => f.roundInt rnd t sat v (2 ^ x.2)
    | v => storeAs f rnd sat f32 v

/-- An F32 from an element that MLDA reads (R309). -/
def mldaElement (fmt : Nat) (x : Nat) : Word :=
  BitVec.ofNat 32 (match fmt with
    | 0 => x
    | 1 => storeAs f32 0 false f16 (f16.unpack x)
    | _ => storeAs f32 0 false bf16 (bf16.unpack x))

/-- A row of a load or a store. -/
def matRowAddr (base pitch : Dword) (i : Nat) : Dword := base + BitVec.ofNat 64 (i * pitch.toNat)

/-- Reads a range line by line. -/
def jobBytes (s : State) (c : Nat) (j : Job) : List (Nat × Nat) → State × Job × Eng (List Byte)
  | [] => (s, j, .ok [])
  | (a, n) :: r =>
    match jobRead s c j (BitVec.ofNat 64 a) n with
    | (s, j, .ok d) =>
      match jobBytes s c j r with
      | (s, j, .ok e) => (s, j, .ok (d ++ e))
      | y => y
    | y => y

/-- Stages the rows of MLDA from row `j.row` on (R309). -/
def loadRows (s : State) (c : Nat) (base pitch : Dword) (fmt : Nat) : Nat → Job → State × Job × Eng Unit
  | 0, j => (s, j, .ok ())
  | n + 1, j =>
    match jobBytes s c j (granules (matRowAddr base pitch j.row).toNat (32 * matBytes fmt)) with
    | (s, j, .ok d) => loadRows s c base pitch fmt n { j with row := j.row + 1, staged := j.staged ++ [(d, 0)] }
    | (s, j, .wait) => (s, j, .wait)
    | (s, j, .suspend t) => (s, j, .suspend t)
    | (s, j, .fail t) => (s, j, .fail t)

/-- The accumulator that staged rows make (R309). -/
def loadedAcc (fmt : Nat) (rows : List (List Byte × Byte)) : Vector Word 2048 :=
  Vector.ofFn fun (e : Fin 2048) =>
    mldaElement fmt (leNat (((rows.getD (e.val / 32) ([], 0)).1.drop (e.val % 32 * matBytes fmt)).take (matBytes fmt)))

/-- The bytes of row `i` of an accumulator store. -/
def storedRow (acc : Vector Word 2048) (i fmt : Nat) (scale : Option Word) (rnd : BitVec 3) (sat : Bool) : List Byte :=
  (List.range 32).flatMap fun k => leBytes (matBytes fmt) (mstaElement (acc.getD (32 * i + k) 0) scale fmt rnd sat)

/-- Writes the pieces of a range that are owned. -/
def jobWrite (s : State) (c : Nat) (j : Job) (got : List Owned) (va : Nat) (d : List Byte) : List (Nat × Nat) → State × Job × Eng Unit
  | [] => (s, j, .ok ())
  | (a, n) :: r =>
    match engWrite s (jobCtx s c j) (jobIssuer s c j) got (BitVec.ofNat 64 a) ((d.drop (a - va)).take n) with
    | (s, .ok true) =>
      let (s, seen) := engWatch s j.launch j.watched (BitVec.ofNat 64 a) n true (jobRecord c j (trap 0x3F 3) 3)
      jobWrite s c { j with watched := seen } got va d r
    | (s, .ok false) | (s, .wait) => (s, j, .wait)
    | (s, .suspend t) => (s, j, .suspend t)
    | (s, .fail t) => (s, j, .fail t)

/-- Stores rows `row` onward, each in turn: its lines are taken in address order and written (R104, R310). -/
def storeRows (s : State) (c : Nat) (acc : Vector Word 2048) (base pitch : Dword) (fmt : Nat) (scale : Option Word)
    (rnd : BitVec 3) (sat : Bool) : Nat → Job → State × Job × Eng Unit
  | 0, j => (s, j, .ok ())
  | n + 1, j =>
    let va := (matRowAddr base pitch j.row).toNat
    let len := 32 * matBytes fmt
    match if inAperture base then (s, [], Eng.ok ()) else takeLines s (jobCtx s c j) (jobIssuer s c j) [] (lineAddrs va len) with
    | (s, got, .ok _) =>
      match jobWrite s c j got va (storedRow acc j.row fmt scale rnd sat) (granules va len) with
      | (s, j, .ok _) => storeRows s c acc base pitch fmt scale rnd sat n { j with row := j.row + 1 }
      | (s, j, r) => (s, j, r)
    | (s, _, r) => (s, j, r)

/-- What an attempt comes to for the job that stood as `old`: on, suspended, failed; none when it waits and has neither moved nor begun a
recall or taken a place. -/
def jobEnd (s : State) (c : Nat) (old : Job) (done : State → Job → Option State) : State × Job × Eng Unit → Option State
  | (s', j, .ok _) => done (setJob s' c old j) j
  | (s', j, .wait) => if j = old ∧ (keepRecalls s s').isNone then none else some (setJob s' c old j)
  | (s', j, .suspend t) => some (suspendJob s' c old j t)
  | (s', j, .fail t) => some (failJob (setJob s' c old j) c j t)

/-- The warp's accumulator is set when the tag still matches; else the result is dropped and counted (R147). -/
def putAcc (s : State) (c : Nat) (j : Job) (a : Nat) (x : Vector Word 2048) : State :=
  match s.warpAt c j.slot with
  | some w =>
    if w.genAcc = j.genAcc then s.setWarp c { w with acc := w.acc.set a x } else s.modCore c fun k => { k with dropret := k.dropret + 1 }
  | none => s.modCore c fun k => { k with dropret := k.dropret + 1 }

/-- A card's next native step (R300): the slices are staged, then the accumulator is updated and the walk goes on. -/
def cardStep (s : State) (c : Nat) (j : Job) (w : Card) (acc : List (Vector Word 2048)) : Option State :=
  let (kk, m0, n0, a) := w.point j.idx
  if matBlocked (s.coreAt c) j (accBit a) true then none
  else
    let staged := match stageSide s c j w.sideA m0 kk 0 64 with
      | (s, j, .ok _) => stageSide s c j w.sideB n0 kk 64 32
      | r => r
    jobEnd s c j (fun s j =>
      let rows := j.staged
      let ra := (rows.take 64).map fun (d, e) => operandsOf w.sideA.fmt d e
      let rb := (rows.drop 64).map fun (d, e) => operandsOf w.sideB.fmt d e
      let s := match acc[a]? with | some x => putAcc s c j a (nativeStep w.nospecial ra rb x) | none => s
      let s := if w.sideA.strm then consume s c j w.sideA.sid else s
      let s := if w.sideB.strm then consume s c j w.sideB.sid else s
      match w.next j.idx with
      | some idx => some (setJob s c j { j with idx := idx, staged := [] })
      | none => some (dropJob s c j)) staged

/-- An accumulator store (R310): it goes on at the row that stopped. -/
def storeStep (s : State) (c : Nat) (j : Job) (acc : Vector Word 2048) (base pitch : Dword) (fmt : Nat) (scale : Option Word)
    (rnd : BitVec 3) (sat : Bool) : Option State :=
  let gone := j.snap.isSome && (match copyPlace base with | .own _ => true | _ => false)
  if gone then some (dropJob (s.modCore c fun k => { k with dropret := k.dropret + 1 }) c j)
  else jobEnd s c j (fun s j => some (serveHeld (dropJob s c j))) (storeRows s c acc base pitch fmt scale rnd sat (64 - j.row) j)

/-- The matrix engine performs the next step of an entry (R300, R303); none when it cannot go on now. -/
def jobStep (s : State) (c entry : Nat) : Option State :=
  match (s.coreAt c).jobs.find? fun j => j.entry = entry with
  | none => none
  | some j =>
    let w := if j.snap.isSome then none else s.warpAt c j.slot
    if j.status ≠ .running || (match w with | some w => w.preempted | none => false) then none
    else
      let acc := match w with | some w => w.acc | none => []
      match j.kind with
      | .card words => cardStep s c j words acc
      | .zero mask =>
        if matBlocked (s.coreAt c) j mask false then none
        else
          let s := ((List.range 8).filter fun a => mask.getLsbD a).foldl (fun s a => putAcc s c j a (Vector.replicate 2048 0)) s
          some (dropJob s c j)
      | .load a base pitch fmt =>
        if matBlocked (s.coreAt c) j (accBit a) true then none
        else jobEnd s c j (fun s j => some (dropJob (putAcc s c j a (loadedAcc fmt j.staged)) c j))
          (loadRows s c base pitch fmt (64 - j.row) j)
      | .store a base pitch fmt scale rnd sat =>
        if matBlocked (s.coreAt c) j (accBit a) false then none
        else
          match j.snap, acc[a]? with
          | some x, _ => storeStep s c j x base pitch fmt scale rnd sat
          | none, some x => storeStep s c j x base pitch fmt scale rnd sat
          | none, none => some (dropJob s c j)

/-- JOB_STEP (R300). -/
def execJobStep (core : Nat) (entry : Nat) (s : State) : Host.Outcome State Fault Refusal :=
  .next (pumpRecords ((jobStep s core entry).getD s))

/-- The distributor fetches the block that a job needs (R312); none when it may not, or need not. -/
def streamFetch (s : State) (c entry : Nat) : Option State :=
  match (s.coreAt c).jobs.find? fun j => j.entry = entry with
  | none => none
  | some j =>
    match j.kind, s.warpAt c j.slot with
    | .card w, some wp =>
      let w : Card := w
      let (kk, m0, n0, a) := w.point j.idx
      let (x, r, from_, n) := if j.staged.length < 64 then (w.sideA, m0, 0, 64) else (w.sideB, n0, 64, 32)
      if j.status ≠ .running || wp.preempted || !x.strm || j.staged.length ≥ 96 || matBlocked (s.coreAt c) j (accBit a) true then none
      else
        match streamOf s c j x.sid with
        | none => none
        | some (st, y) =>
          if st.subs.length ≠ st.count || !(st.subs.all fun z => y.used < z.used + z.window) || st.fetched.any (fun b => b.n = y.used) then none
          else
            let k := j.staged.length - from_
            jobEnd s c j (fun s j => some (modStream s j.launch st.cohort x.sid fun st =>
              { st with fetched := st.fetched ++ [{ n := y.used, addr := rowAddr x r kk, rows := j.staged.drop from_ }] }))
              (stageRows s c x kk j (r + k) (n - k))
    | _, _ => none

/-- STREAM_BLOCK_FETCH (R312). -/
def execStreamBlockFetch (core : Nat) (entry : Nat) (s : State) : Host.Outcome State Fault Refusal :=
  .next (pumpRecords ((streamFetch s core entry).getD s))

/-! ## Issue -/

/-- The number of a register with a matrix engine behind it, held by the warp (R172, R293). -/
def accHeld (s : State) (a : Nat) : Bool := s.mgmt.hasMatrix s.core.id && a < s.cur.nacc
def maskHeld (s : State) (m : Byte) : Bool := (List.range 8).all fun a => !m.getLsbD a || accHeld s a

/-- Takes a job-table entry, or waits (R293); the executing lanes' touched sets take the domain. -/
def issueJob (s : State) (kind : JobKind) (accs : Byte) (idx : Vector Nat 5) (d : Domain) : State × Perf :=
  let used := s.core.jobs.map fun j => j.entry
  if used.length ≥ 16 || (jobsOf s s.core.id s.cur).length ≥ 4 then (s, .wait .jobEntry)
  else
    let j : Job := { entry := lowest used, slot := s.cur.slot, order := s.core.jobOrder, kind := kind, accs := accs, genAcc := s.cur.genAcc,
                     launch := s.cur.launch, block := s.cur.block, warp := s.cur.idx, idx := idx }
    let k := { s.core with jobs := s.core.jobs ++ [j], jobOrder := s.core.jobOrder + 1 }
    ({ s with core := k, cur := touch s.cur s.cur.executing d }, .done)
where
  lowest (used : List Nat) : Nat := ((List.range 16).find? fun k => !used.contains k).getD 0

/-- Reads a 128-byte card (R302). -/
def readCard (s : State) (va : Dword) : State × Done Card :=
  match copyPlace va with
  | .refused => (s, .late (trapAt 100 0x28 6 va))
  | _ =>
    match resolve s (curCtx s) 0 va 128 128 .load with
    | (s, .error t) => (s, lateDone t)
    | (s, .ok a) =>
      if a.parts.any fun p => match p.place with | .reg _ => true | _ => false then (s, .late (trapAt 52 0x10 5 va))
      else
        match watched s a 128 false with
        | .error t => (s, .late t)
        | .ok a =>
          let half := fun (k : Nat) => { a with parts := a.parts.map fun p => { p with n := 64, place := shift p.place (64 * k) } }
          match loadAcc s (curIssuer s allLanes) (half 0) true 0 with
          | (s, .ok x) =>
            match loadAcc s (curIssuer s allLanes) (half 1) true 0 with
            | (s, .ok y) => (s, .ok (Vector.ofFn fun (k : Fin 16) => BitVec.ofNat 64 (leNat (((x.bytes ++ y.bytes).drop (8 * k.val)).take 8))))
            | (s, .wait) => (s, .wait)
            | (s, .late t) => (s, .late t)
          | (s, .wait) => (s, .wait)
          | (s, .late t) => (s, .late t)
where
  shift (p : Place) (n : Nat) : Place :=
    match p with
    | .mem pa u => .mem (pa + n) u
    | .reg pa => .reg (pa + n)
    | .remote d a => .remote d (a + n)
    | .host c a => .host c (a + n)
    | .loc c b o => .loc c b (o + n)
    | .ctx o => .ctx (o + n)

/-- The lowest and highest sums of a role's levels over the walk of a card (R299, R300). -/
def Card.span (w : Card) (role : Nat) : Int × Int :=
  (((List.range 5).filter fun l => w.role l = role).map fun l => (w.extent l : Int) * w.stride l).foldl (fun (a, b) x => (a + min x 0, b + max x 0)) (0, 0)

/-- The effective domain of the elements and scales of one side of a card (R98): from the first to the last of its rows. -/
def sideDomain (s : State) (w : Card) (x : Side) (role rows : Nat) : Domain :=
  let (lo, hi) := w.span role
  let k := (w.span 1).2.toNat
  let n := fun (pitch last : Nat) => (hi - lo).toNat * pitch + (rows - 1) * pitch + last
  let d := rangeDomain s (curCtx s) (rowAddr x lo 0) (n x.pitch (k / matK x.fmt * 2 + 2))
  if matMx x.fmt then d.max (rangeDomain s (curCtx s) (scaleAddr x lo 0) (n x.spitch (k / 32 + 1))) else d

/-- The effective domain of the rows of an accumulator load or store (R98). -/
def rowsDomain (s : State) (base pitch : Dword) (fmt : Nat) : Domain :=
  widest ((List.range 64).map fun i => rangeDomain s (curCtx s) (matRowAddr base pitch i) (32 * matBytes fmt))

/-- The streams of the cohort that the issuing warp subscribes to (R311). -/
def subscribed (s : State) (sid : Nat) : Bool :=
  let l := s.curLaunch
  l.streams.any fun x => x.id = sid && x.cohort = cohortOf l s.cur.block
    && x.subs.any fun y => y.core = s.core.id && y.bslot = s.cur.bslot && y.warp = s.cur.idx

/-- MJOB (R302). -/
def execMjob (gr : Grp) (a : BitVec 6) (s : State) : Host.Outcome State Fault Refusal :=
  perform (.mjob gr a) (fun s =>
    match checkReps gr (fun k => sRange (repA gr a.toNat k) 1), collective gr s.cur with
    | .error t, _ => (s, .trap t)
    | .ok _, .error t => (s, .trap t)
    | .ok _, .ok _ =>
      warpLevel gr (fun k => sRange (repA gr a.toNat k) 1) (fun k s =>
        match readCard s (s.cur.getS (repA gr a.toNat k)) with
        | (s, .wait) => (s, .wait .retry)
        | (s, .late t) => (s, .trap { t with lanes := s.cur.executing })
        | (s, .ok w) =>
          match w.check (subscribed s) with
          | some n => (s, .trap (trap 0x28 n))
          | none =>
            if w.topAcc > 7 || !accHeld s w.topAcc then (s, .trap (trap 0x29 0))
            else
              issueJob s (.card w) w.accs w.start ((sideDomain s w w.sideA 2 64).max (sideDomain s w w.sideB 3 32))) s) s

/-- MWAIT and MWAIT.ALL (R306, R307). -/
def matWait (gr : Grp) (m : Byte) (all : Bool) (s : State) : State × Perf :=
  if s.cur.active gr = 0 then (endGroup gr s, .done)
  else if !maskHeld s m then (s, .trap (trap 0x29 0))
  else if (jobsOf s s.core.id s.cur).any fun j => coversJob m all j.accs then (s, .wait (.matrix m all))
  else
    match s.cur.jobFails.find? fun x => coversJob m all x.1 with
    | some x => ({ s with cur := { s.cur with jobFails := s.cur.jobFails.erase x } }, .trap { x.2 with lanes := s.cur.executing })
    | none => (endGroup gr s, .done)
def execMwait (gr : Grp) (m : BitVec 8) (s : State) : Host.Outcome State Fault Refusal := perform (.mwait gr m) (matWait gr m false) s
def execMwaitAll (gr : Grp) (s : State) : Host.Outcome State Fault Refusal := perform (.mwaitAll gr) (matWait gr 0 true) s

/-- MZERO (R308). -/
def execMzero (gr : Grp) (m : BitVec 8) (s : State) : Host.Outcome State Fault Refusal :=
  perform (.mzero gr m) (fun s =>
    warpLevel gr (fun _ => .ok ()) (fun _ s =>
      if !maskHeld s m then (s, .trap (trap 0x29 0))
      else if m = 0 then (s, .done)
      else issueJob s (.zero m) m (Vector.replicate 5 0) .core) s) s

/-- A tile handle's use by MLDA or MSTA (R173, R309, R310): the address of row 0, the pitch, the code of its format. -/
def tileOf (s : State) (t : BitVec 128) (load : Bool) : Except Trap (Dword × Dword × Nat) := do
  let fmt := bits t 59 56
  let off := bits t 25 0
  let pitch := bits t 95 64
  if fmt > 9 ∨ bits t 31 27 ≠ 0 ∨ bits t 63 60 ≠ 0 ∨ bits t 127 96 ≠ 0 then .error (trap 0x01 0x08)
  let win := t.getLsbD 26
  let base : Dword := BitVec.ofNat 64 (apertureBase + (if win then 0x100000000 else 0) + off)
  if off % 64 ≠ 0 ∨ pitch % 64 ≠ 0 then .error (trapAt 100 0x18 0 base)
  if bits t 43 32 + 1 < 64 ∨ bits t 55 44 + 1 < 32 then .error (trap 0x28 9)
  if (if load then fmt > 2 else fmt = 5 ∨ fmt = 6) then .error (trap 0x28 0x0A)
  let code := if fmt > 6 then fmt - 2 else fmt
  (List.range 64).forM fun i => do
    let o := off + i * pitch
    let va := base + BitVec.ofNat 64 (i * pitch)
    if win then
      if o ≥ 0x4000000 then .error (trapAt 100 0x19 1 va)
    else if o ≥ 0x80000 then .error (trapAt 100 0x19 0 va)
    localSpanOk s va (32 * matBytes code)
  .ok (base, BitVec.ofNat 64 pitch, code)

/-- The base and pitch of a global matrix (R309, R310). -/
def globalOf (s : State) (n : Nat) : Except Trap (Dword × Dword) :=
  let base := s.cur.getS n
  let pitch := s.cur.getS (n + 1)
  if base.toNat % 64 ≠ 0 ∨ pitch.toNat % 64 ≠ 0 then .error (trapAt 100 0x18 0 base) else .ok (base, pitch)

/-- The issue of MLDA. -/
def issueLoad (s : State) (a : Nat) (src : Except Trap (Dword × Dword × Nat)) : State × Perf :=
  if !accHeld s a then (s, .trap (trap 0x29 0))
  else
    match src with
    | .error t => (s, .trap { t with lanes := s.cur.executing })
    | .ok (base, pitch, fmt) => issueJob s (.load a base pitch fmt) (accBit a) (Vector.replicate 5 0) (rowsDomain s base pitch fmt)

/-- MLDA from a tile (R309). -/
def execMldaTile (gr : Grp) (d : BitVec 3) (a : BitVec 3) (s : State) : Host.Outcome State Fault Refusal :=
  perform (.mldaTile gr d a) (fun s =>
    warpLevel gr (fun k => tRange (repA gr a.toNat k)) (fun k s =>
      issueLoad s (repD gr d.toNat k) (tileOf s (s.cur.getT (repA gr a.toNat k)) true)) s) s
/-- MLDA from global memory (R309). -/
def execMldaGlobal (gr : Grp) (d : BitVec 3) (a : BitVec 6) (c : BitVec 2) (s : State) : Host.Outcome State Fault Refusal :=
  perform (.mldaGlobal gr d a c) (fun s =>
    warpLevel gr (fun k => sRange (repA gr a.toNat k) 2) (fun k s =>
      issueLoad s (repD gr d.toNat k) ((globalOf s (repA gr a.toNat k)).map fun x => (x.1, x.2, c.toNat))) s) s

/-- The issue of MSTA: a region-owned destination traps (R310). -/
def issueStore (s : State) (a : Nat) (gr : Grp) (scale : Option Word) (dst : Except Trap (Dword × Dword × Nat)) : State × Perf :=
  if !accHeld s a then (s, .trap (trap 0x29 0))
  else
    match dst with
    | .error t => (s, .trap { t with lanes := s.cur.executing })
    | .ok (base, pitch, fmt) =>
      let ends := (List.range 64).flatMap fun i => [matRowAddr base pitch i, matRowAddr base pitch i + BitVec.ofNat 64 (32 * matBytes fmt - 1)]
      let owned := fun (va : Dword) => !inAperture va && (match regionOf s.curLaunch.regions va with | some r => r.own | none => false)
      match ends.find? owned with
      | some va => (s, .trap { trapAt 100 0x11 4 va with lanes := s.cur.executing })
      | none => issueJob s (.store a base pitch fmt scale (rndOf gr) (satOf gr)) (accBit a) (Vector.replicate 5 0) (rowsDomain s base pitch fmt)

/-- The scale of MSTA, read at issue (R310). -/
def scaleOf (s : State) (n : BitVec 1) (b : Nat) : Option Word := if n = 1 then none else some (lo32 (s.cur.getS b))

/-- MSTA to a tile (R310). -/
def execMstaTile (gr : Grp) (d : BitVec 3) (a : BitVec 3) (b : BitVec 6) (n : BitVec 1) (s : State) : Host.Outcome State Fault Refusal :=
  perform (.mstaTile gr d a b n) (fun s =>
    warpLevel gr (fun k => do tRange (repD gr d.toNat k); sRange (repB gr b.toNat k) 1) (fun k s =>
      issueStore s (repA gr a.toNat k) gr (scaleOf s n (repB gr b.toNat k)) (tileOf s (s.cur.getT (repD gr d.toNat k)) false)) s) s
/-- MSTA to global memory (R310). -/
def execMstaGlobal (gr : Grp) (d : BitVec 6) (a : BitVec 3) (b : BitVec 6) (n : BitVec 1) (c : BitVec 3) (s : State) :
    Host.Outcome State Fault Refusal :=
  perform (.mstaGlobal gr d a b n c) (fun s =>
    warpLevel gr (fun k => do sRange (repD gr d.toNat k) 2; sRange (repB gr b.toNat k) 1) (fun k s =>
      issueStore s (repA gr a.toNat k) gr (scaleOf s n (repB gr b.toNat k))
        ((globalOf s (repD gr d.toNat k)).map fun x => (x.1, x.2, c.toNat))) s) s

/-! ## Operand streams (R311) -/

/-- The streams open in a cluster. -/
def clusterStreams (s : State) (cl : Nat) : Nat :=
  (s.launches.map fun l => (l.streams.filter fun x => x.cluster = cl).length).foldl (· + ·) 0

/-- MSTREAM.SUB (R311). -/
def execMstreamSub (gr : Grp) (a : BitVec 6) (s : State) : Host.Outcome State Fault Refusal :=
  perform (.mstreamSub gr a) (fun s =>
    warpLevel gr (fun k => sRange (repA gr a.toNat k) 1) (fun k s =>
      let x := s.cur.getS (repA gr a.toNat k)
      let sid := bits x 3 0
      let count := bits x 10 4 + 1
      let l := s.curLaunch
      let n := cohortOf l s.cur.block
      let bad : State × Perf := (s, .trap (trap 0x28 0x0B))
      let sub : Subscriber := { core := s.core.id, bslot := s.cur.bslot, warp := s.cur.idx, window := 64 * bits x 16 11 }
      if !s.mgmt.hasMatrix s.core.id then (s, .trap (trap 0x29 1))
      else if bits x 63 17 ≠ 0 || bits x 16 11 = 0 || subscribed s sid then bad
      else
        match l.streams.find? fun y => y.id = sid && y.cohort = n with
        | some y =>
          if y.count ≠ count then bad else (modStream s l.id n sid fun y => { y with subs := y.subs ++ [sub] }, .done)
        | none =>
          let cl := clusterOf s.core.id
          if clusterStreams s cl ≥ 64 then bad
          else (s.modLaunch l.id fun l => { l with streams := l.streams ++ [{ cohort := n, id := sid, cluster := cl, count := count, subs := [sub] }] }, .done)) s) s

/-- MSTREAM.UNSUB (R311). -/
def execMstreamUnsub (gr : Grp) (a : BitVec 6) (s : State) : Host.Outcome State Fault Refusal :=
  perform (.mstreamUnsub gr a) (fun s =>
    warpLevel gr (fun k => sRange (repA gr a.toNat k) 1) (fun k s =>
      let sid := bits (s.cur.getS (repA gr a.toNat k)) 3 0
      let l := s.curLaunch
      let n := cohortOf l s.cur.block
      if !s.mgmt.hasMatrix s.core.id then (s, .trap (trap 0x29 1))
      else if !subscribed s sid then (s, .trap (trap 0x28 0x0C))
      else
        let mine := fun (y : Subscriber) => y.core = s.core.id && y.bslot = s.cur.bslot && y.warp = s.cur.idx
        let s := modStream s l.id n sid fun y => Stream.retire { y with count := y.count - 1, subs := y.subs.filter fun z => !mine z }
        (s.modLaunch l.id fun l => { l with streams := l.streams.filter fun y => y.count ≠ 0 }, .done)) s) s

end Sys2Proof.Machine
end

