-- ==== Sys2Proof/Machine/Rays.lean ====
section
/-! DEFINITION. Rays and tree queries (R343 to R350), and HSORT (R351). -/

namespace Sys2Proof.Machine

/-! ## Geometry, exact -/

/-- The F32 words of a list of bytes from an offset. -/
def f32s (b : List Byte) (off n : Nat) : List Word := (List.range n).map fun k => BitVec.ofNat 32 (leNat ((b.drop (off + 4 * k)).take 4))
/-- Their values in units of 2^-149; none where one is not finite. -/
def ints (l : List Word) : Option (List Int) := l.mapM fun x => (f32.unpack x.toNat).int?

/-- A vector of three integers. -/
structure V3 where
  x : Int
  y : Int
  z : Int
  deriving DecidableEq, Repr
def v3At (l : List Int) (k : Nat) : V3 := ⟨l.getD k 0, l.getD (k + 1) 0, l.getD (k + 2) 0⟩
def V3.sub (a b : V3) : V3 := ⟨a.x - b.x, a.y - b.y, a.z - b.z⟩
def V3.neg (a : V3) : V3 := ⟨-a.x, -a.y, -a.z⟩
/-- The determinant of three columns. -/
def det3 (a b c : V3) : Int := a.x * (b.y * c.z - b.z * c.y) - a.y * (b.x * c.z - b.z * c.x) + a.z * (b.x * c.y - b.y * c.x)

/-- A value lies between two (R345, R350). -/
def between (lo x hi : Word) : Bool :=
  let le := fun (a b : Word) => match FV.cmp (f32.unpack a.toNat) (f32.unpack b.toNat) with | some (lt, eq) => lt || eq | none => false
  le lo x && le x hi

/-- An exact ratio as F32 (R345). -/
def ratio (n d : Int) : Word := BitVec.ofNat 32 (f32.roundInt 0 false false (if d < 0 then -n else n) d.natAbs)

/-- The triangle test (R345): t, u and v of a hit. `ray` is origin and direction, `vtx` three vertices. With a coordinate that is
not finite the spec states no result: the free values decide. -/
def triTest (ray vtx : List Word) (tmin tmax : Word) (free : Nat) : Option (Word × Word × Word) :=
  match ints ray, ints vtx with
  | some r, some p =>
    let e1 := (v3At p 3).sub (v3At p 0)
    let e2 := (v3At p 6).sub (v3At p 0)
    let q := (v3At r 0).sub (v3At p 0)
    let d := (v3At r 3).neg
    let dd := det3 d e1 e2
    let sg : Int := if dd < 0 then -1 else 1
    let u := det3 d q e2
    let v := det3 d e1 q
    let t := ratio (det3 q e1 e2) dd
    if dd ≠ 0 && 0 ≤ sg * u && 0 ≤ sg * v && sg * (u + v) ≤ sg * dd && between tmin t tmax then some (t, ratio u dd, ratio v dd) else none
  | _, _ =>
    let t := lo32 (Config.freeValue free)
    if (hi32 (Config.freeValue free)).getLsbD 0 && between tmin t tmax then
      some (t, lo32 (Config.freeValue (free + 1)), hi32 (Config.freeValue (free + 1)))
    else none

/-- A ray in an instance's object space (R345): each component the exact sum rounded once; `m` is the 3 by 4 matrix. -/
def objectRay (m ray : List Word) : List Word :=
  let row := fun (i : Nat) (x : List Word) (w : Bool) =>
    match ints ((m.drop (4 * i)).take 4), ints x with
    | some a, some b =>
      let t := a.getD 0 0 * b.getD 0 0 + a.getD 1 0 * b.getD 1 0 + a.getD 2 0 * b.getD 2 0 + (if w then a.getD 3 0 * 2 ^ 149 else 0)
      BitVec.ofNat 32 (f32.roundInt 0 false false t (2 ^ 298))
    | _, _ => (0x7FC00000 : Word)
  (List.range 3).map (fun i => row i (ray.take 3) true) ++ (List.range 3).map fun i => row i (ray.drop 3) false

/-- The bounds of child `i` of an interior node on the three axes (R343), in units of 2^-149; none when the origin is not finite. -/
def childBox (b : List Byte) (i : Nat) : Option (List (Int × Int)) :=
  let box := leNat ((b.drop (0x20 + 3 * i)).take 3)
  (ints (f32s b 0 3)).map fun o => (List.range 3).map fun a =>
    let e : Int := (b.getD (0x0C + a) 0).toInt
    let unit : Int := 2 ^ (e + 149).toNat
    let x := o.getD a 0
    (x + (bitsOf box (4 * a + 3) (4 * a) : Int) * unit, x + ((bitsOf box (4 * a + 15) (4 * a + 12) : Int) + 1) * unit)

/-- The ray's interval may meet a box (R345): exact over an interval widened by one unit in the last place. -/
def meetsBox (ray : List Word) (tmin tmax : Word) (box : Option (List (Int × Int))) : Bool :=
  match ints ray, box with
  | some r, some bs =>
    let axis := (List.range 3).map fun a => (r.getD a 0, r.getD (a + 3) 0, bs.getD a (0, 0))
    let out := axis.any fun (o, d, b) => d = 0 && (o < b.1 || b.2 < o)
    let lows := axis.filterMap fun (o, d, b) => if d > 0 then some (b.1 - o, d) else if d < 0 then some (o - b.2, -d) else none
    let highs := axis.filterMap fun (o, d, b) => if d > 0 then some (b.2 - o, d) else if d < 0 then some (o - b.1, -d) else none
    let ulp := fun (v : Int) => (v.natAbs / 2 ^ 23 : Nat) + (1 : Int)
    let lows := match (f32.unpack tmin.toNat).int? with | some v => (v - ulp v, (2 ^ 149 : Int)) :: lows | none => lows
    let highs := match (f32.unpack tmax.toNat).int? with | some v => (v + ulp v, (2 ^ 149 : Int)) :: highs | none => highs
    !out && lows.all fun l => highs.all fun h => l.1 * h.2 ≤ h.1 * l.2
  | _, _ => true

/-- The exact squared distance of two points, in units of 2^-298. -/
def dist2 (a b : List Int) : Int := (List.range 3).foldl (fun t k => t + (a.getD k 0 - b.getD k 0) * (a.getD k 0 - b.getD k 0)) 0

/-- A query may have matches in a box (R350). -/
def queryMeets (kind : BitVec 2) (regs : List Word) (box : Option (List (Int × Int))) : Bool :=
  match box with
  | none => true
  | some bs =>
    if kind = 2 then
      let lo := (f32.unpack (regs.getD 0 0).toNat).int?
      let hi := (f32.unpack (regs.getD 1 0).toNat).int?
      (match lo with | some v => v ≤ (bs.getD 0 (0, 0)).2 | none => true) && (match hi with | some v => (bs.getD 0 (0, 0)).1 ≤ v | none => true)
    else
      match ints (regs.take 4) with
      | some q =>
        let near := (List.range 3).map fun k =>
          let x := q.getD k 0
          let b := bs.getD k (0, 0)
          if x < b.1 then b.1 else if b.2 < x then b.2 else x
        dist2 near q ≤ q.getD 3 0 * q.getD 3 0
      | none => true

/-- An item matches a query (R350), with its place in the order. A point or a centre that is not finite leaves it to a free value. -/
def queryItem (kind : BitVec 2) (regs item : List Word) (free : Nat) : Option Int :=
  let coin : Option Int := if (Config.freeValue free).getLsbD 0 then some (Config.freeValue free).toNat else none
  if kind = 2 then
    if between (regs.getD 0 0) (item.getD 0 0) (regs.getD 1 0) then
      some (match f32.unpack (item.getD 0 0).toNat with | .fin _ v => v | .inf neg => if neg then -(2 ^ 290) else 2 ^ 290 | .nan _ => 0)
    else none
  else
    let place := fun (d : Int) => if kind = 0 then 0 else d
    match f32.unpack (regs.getD 3 0).toNat with
    | .nan _ => none
    | .inf neg =>
      if neg then none
      else match ints (regs.take 3), ints item with | some q, some p => some (place (dist2 p q)) | _, _ => coin
    | .fin _ r =>
      if r < 0 then none
      else match ints (regs.take 3), ints item with
        | some q, some p => if dist2 p q ≤ r * r then some (place (dist2 p q)) else none
        | _, _ => coin

/-- A match takes its place among the first `k` (R350). -/
def putItem (k : Nat) (l : List (Int × Word)) (x : Int × Word) : List (Int × Word) :=
  let before := fun (a b : Int × Word) => a.1 < b.1 || (a.1 = b.1 && a.2.toNat < b.2.toNat)
  ((l.filter fun y => !before x y) ++ [x] ++ l.filter fun y => before x y).take k

/-- The order of hits (R345): t, INSTID, PRIMID. -/
def Hit.before (a b : Hit) : Bool :=
  match FV.cmp (f32.unpack a.t.toNat) (f32.unpack b.t.toNat) with
  | some (lt, eq) => lt || (eq && (a.inst.toNat < b.inst.toNat || (a.inst = b.inst && a.prim.toNat < b.prim.toNat)))
  | none => false

/-! ## The ray unit's state -/

/-- The ray of a lane of the issuing warp is set. -/
def setRay (s : State) (l : Fin 32) (r : Option Ray) : State :=
  { s with cur := { s.cur with threads := s.cur.threads.set l { s.cur.threads[l] with ray := r } } }

/-- Free values for registers that a result does not define. -/
def landFree (s : State) (reg n : Nat) (l : Fin 32) : State :=
  landWords { s with free := s.free + n } reg l ((List.range n).map fun k => lo32 (Config.freeValue (s.free + k)))

/-- The result registers of a ray (R346): with a hit all six, else the status alone is defined. -/
def rayResult (s : State) (l : Fin 32) (dst status : Nat) (h : Option Hit) : State :=
  match h with
  | some h => landWords s dst l [BitVec.ofNat 32 status, h.prim, h.t, h.u, h.v, h.inst]
  | none => landFree (landWords s dst l [BitVec.ofNat 32 status]) (dst + 1) 5 l

/-- A ray ends: its result lands (R346, R350). -/
def rayEnd (s : State) (l : Fin 32) (r : Ray) : State :=
  let s := setRay s l none
  match r.query with
  | some _ => landWords s r.dst l (BitVec.ofNat 32 r.count :: (List.range r.k).map fun i => match r.items[i]? with | some x => x.2 | none => 0xFFFFFFFF)
  | none => rayResult s l r.dst (if r.best.isSome then 1 else 0) r.best
/-- The tree is malformed (R346, R350). -/
def rayMalformed (s : State) (l : Fin 32) (r : Ray) : State :=
  let s := setRay s l none
  match r.query with
  | some _ => landWords s r.dst l (List.replicate (r.k + 1) 0xFFFFFFFF)
  | none => rayResult s l r.dst 3 none

/-- The record of a ray (R349, R390), by the thread's logical name. -/
def rayRecord (s : State) (l : Fin 32) (t : Trap) (kind : Nat) : Rec :=
  let tid := s.cur.threads[l].tid
  { code := t.code, sub := t.sub, kind := kind, level := t.level.toNat, addr := t.addr, launch := s.cur.launch, block := s.cur.block,
    warp := tid / 32, core := s.core.id, lanes := BitVec.ofNat 32 (2 ^ (tid % 32)), unit := 3 }

/-- A ray fails (R346): its fault goes on the trap queue; a query's registers are not stated. -/
def rayFail (s : State) (l : Fin 32) (r : Ray) (t : Trap) : State :=
  let s := pumpRecords (launchRecord (setRay s l none) (rayRecord s l t 2))
  match r.query with
  | some _ => landFree s r.dst (r.k + 1) l
  | none => rayResult s l r.dst 5 none

/-- A ray meets a fault: one that service can help suspends it (R349). -/
def rayMeets (s : State) (l : Fin 32) (r : Ray) (t : Trap) : State :=
  if trapClass t.code t.sub = .service then
    pumpRecords (launchRecord (setRay s l (some { r with status := .queueFull t })) (rayRecord s l t 0) (some (.ray s.cur.slot l)))
  else rayFail s l r t

/-- What a part of a ray's work came to. -/
inductive RayOut (α : Type) where
  | ok (v : α)
  | malformed
  | meets (t : Trap)
  | wait
  deriving DecidableEq, Repr

/-- The trap of a ray's check, or the wait of one that waits at a home. -/
def rayTrap {α : Type} (t : Trap) : RayOut α := if t.held then .wait else .meets t

/-- A checked access of a ray as a stale-tolerant load of its lane (R345). -/
def rayLoad (l : Fin 32) (r : State × Except Trap Acc) : State × RayOut (List Byte) :=
  match r with
  | (s, .error t) => (s, rayTrap t)
  | (s, .ok a) =>
    match loadAcc s (curIssuer s (laneBit l)) a a.fresh 0 with
    | (s, .wait) => (s, .wait)
    | (s, .late t) => (s, .meets t)
    | (s, .ok x) =>
      if tokensWait s s.cur.threads[l] x.tokens then (s, .wait) else (touchAll (giveTokens s l x.tokens x.drained) [(l, a)], .ok x.bytes)

/-- A node, leaf block or instance node of 64 bytes. -/
def rayRead (s : State) (l : Fin 32) (va : Dword) : State × RayOut (List Byte) :=
  rayLoad l (resolve s (laneCtx s l) (s.cur.threads[l].tid % 32) va 64 64 .data)

/-! ## The stack (R348) -/

/-- The private address of stack entry `e`, where the segment has room for it. -/
def entryAt (s : State) (l : Fin 32) (e : Nat) : Option Nat :=
  let p := (laneCtx s l).privBytes
  if p < 1024 || e ≥ 64 then none else some (p - 1024 + 16 * e)

def entryAcc (s : State) (l : Fin 32) (p : Nat) (k : Kind) : State × Except Trap Acc :=
  privAcc s (laneCtx s l) (s.cur.threads[l].tid % 32) p (BitVec.ofNat 64 (apertureBase + 0x200000000 + p)) 16 4 k false

/-- Entries are spilled, oldest first. -/
def spill (l : Fin 32) : List Visit → Nat → State → State × RayOut Nat
  | [], e, s => (s, .ok e)
  | v :: r, e, s =>
    match entryAt s l e with
    | none => (s, .malformed)
    | some p =>
      match entryAcc s l p .store with
      | (s, .error t) => (s, rayTrap t)
      | (s, .ok a) =>
        match markDirty s s.core.id a with
        | (s, false) => (s, .wait)
        | (s, true) =>
          match storeAcc s (curIssuer s (laneBit l)) a (leBytes 8 (bits v.node 56 0) ++ leBytes 8 (bits v.inst 56 0)) none with
          | (s, .ok _) => spill l r (e + 1) (touchAll s [(l, a)])
          | (s, .wait) => (s, .wait)
          | (s, .late t) => (s, .meets t)

/-- A node is pushed; a full stack spills its 8 oldest entries first. -/
def pushVisit (s : State) (l : Fin 32) (r : Ray) (v : Visit) : State × RayOut Ray :=
  if r.stack.length < 16 then (s, .ok { r with stack := v :: r.stack })
  else
    match spill l (r.stack.drop 8).reverse r.spilled s with
    | (s, .ok n) => (s, .ok { r with stack := v :: r.stack.take 8, spilled := n })
    | (s, .malformed) => (s, .malformed)
    | (s, .meets t) => (s, .meets t)
    | (s, .wait) => (s, .wait)
def pushVisits (s : State) (l : Fin 32) (r : Ray) (vs : List Visit) : State × RayOut Ray :=
  vs.foldl (fun (s, o) v => match o with | .ok r => pushVisit s l r v | o => (s, o)) (s, .ok r)

/-- Refills `n` entries, the most recently spilled first. -/
def refill (l : Fin 32) : Nat → State → Ray → State × RayOut Ray
  | 0, s, r => (s, .ok r)
  | n + 1, s, r =>
    match entryAt s l (r.spilled - 1) with
    | none => (s, .malformed)
    | some p =>
      match rayLoad l (entryAcc s l p .data) with
      | (s, .ok b) =>
        let node := leNat (b.take 8)
        let inst := leNat (b.drop 8)
        if node ≥ 2 ^ 57 || inst ≥ 2 ^ 57 || node % 64 ≠ 0 || inst % 64 ≠ 0 then (s, .malformed)
        else refill l n s { r with spilled := r.spilled - 1, stack := r.stack ++ [{ node := sext57 (BitVec.ofNat 64 node), inst := sext57 (BitVec.ofNat 64 inst) }] }
      | (s, .malformed) => (s, .malformed)
      | (s, .meets t) => (s, .meets t)
      | (s, .wait) => (s, .wait)

/-! ## Nodes and leaves (R343, R344) -/

/-- An interior node breaks R343. -/
def badNode (b : List Byte) : Bool :=
  b.getD 0x0F 0 ≠ 0 || bitsOf (leNat ((b.drop 0x10).take 8)) 63 57 ≠ 0 || leNat ((b.drop 0x10).take 8) % 64 ≠ 0
    || leNat ((b.drop 0x1A).take 6) ≠ 0 || leNat (b.drop 0x38) ≠ 0
/-- A triangle leaf block breaks R344. -/
def badLeaf (b : List Byte) : Bool := leNat ((b.drop 0x28).take 4) ≥ 4 || leNat (b.drop 0x2C) ≠ 0
/-- A user leaf block breaks R344. -/
def badUser (b : List Byte) : Bool := leNat (b.drop 0x10) ≠ 0 && leNat (b.drop 0x10) ≠ 2
/-- An instance node breaks R344. -/
def badInstance (b : List Byte) : Bool :=
  leNat ((b.drop 0x30).take 8) ≥ 2 ^ 57 || leNat ((b.drop 0x30).take 8) % 64 ≠ 0 || leNat (b.drop 0x3C) ≠ 0

/-- The ray's origin and direction in the space of a visit, and its INSTID (R345). -/
def rayIn (r : Ray) (v : Visit) : List Word × Word :=
  let o := r.regs.take 3 ++ (r.regs.drop 4).take 3
  if v.inst = 0 then (o, 0xFFFFFFFF)
  else match r.xform with | some (_, m) => (objectRay (m.take 12) o, m.getD 12 0) | none => (o, 0xFFFFFFFF)

/-- The transform of a visit's instance is the one the ray holds. -/
def hasXform (r : Ray) (v : Visit) : Bool := v.inst = 0 || (match r.xform with | some (i, _) => i = v.inst | none => false)

/-- A child of an interior node is visited (R345, R350). -/
def visits (r : Ray) (v : Visit) (b : List Byte) (i : Nat) : Bool :=
  match r.query with
  | some k => queryMeets k r.regs (childBox b i)
  | none => meetsBox (rayIn r v).1 (r.regs.getD 3 0) (r.regs.getD 7 0) (childBox b i)

/-- An interior node's children join the work: interior ones the stack, the others the list of blocks to read. -/
def visitNode (s : State) (l : Fin 32) (r : Ray) (v : Visit) (b : List Byte) : State × RayOut Ray :=
  if badNode b then (s, .malformed)
  else
    let base := sext57 (BitVec.ofNat 64 (leNat ((b.drop 0x10).take 8)))
    let types := leNat ((b.drop 0x18).take 2)
    let kids := ((List.range 8).filter fun i => bitsOf types (2 * i + 1) (2 * i) ≠ 0 && visits r v b i).map fun i =>
      (BitVec.ofNat 2 (bitsOf types (2 * i + 1) (2 * i)), { v with node := base + BitVec.ofNat 64 (64 * i) })
    pushVisits s l { r with todo := r.todo ++ kids.filter fun k => k.1 ≠ 1 } ((kids.filter fun k => k.1 = 1).map fun k => k.2)

/-- A leaf block: its triangle is tested, or its item matched (R344, R345, R350). -/
def visitLeaf (s : State) (r : Ray) (v : Visit) (b : List Byte) : State × RayOut Ray :=
  let next := fun (r : Ray) (more : Bool) => if more then { r with todo := (2, { v with node := v.node + 64 }) :: r.todo } else r
  match r.query with
  | some k =>
    if badUser b then (s, .malformed)
    else
      let r := next r (leNat (b.drop 0x10) = 2)
      let s' := { s with free := s.free + 1 }
      match queryItem k r.regs (f32s b 0 3) s.free with
      | some key => (s', .ok { r with items := putItem r.k r.items (key, (f32s b 0x0C 1).headD 0), count := r.count + 1 })
      | none => (s', .ok r)
  | none =>
    if badLeaf b then (s, .malformed)
    else
      let flags := leNat ((b.drop 0x28).take 4)
      let r := next r (flags.testBit 1)
      let (ray, inst) := rayIn r v
      let s' := { s with free := s.free + 2 }
      match triTest ray (f32s b 0 9) (r.regs.getD 3 0) (r.regs.getD 7 0) s.free with
      | some (t, u, w) =>
        (s', .ok { r with found := r.found ++ [({ t := t, inst := inst, prim := (f32s b 0x24 1).headD 0, u := u, v := w }, flags.testBit 0)] })
      | none => (s', .ok r)

/-- One read of the ray: the block at an address, and what is made of it. -/
def rayTake (s : State) (l : Fin 32) (r : Ray) (va : Dword) (k : State → List Byte → State × RayOut Ray) : State :=
  match rayRead s l va with
  | (s, .wait) => s
  | (s, .meets t) => rayMeets s l r t
  | (s, .malformed) => rayMalformed s l r
  | (s, .ok b) =>
    match k s b with
    | (s, .ok r) => setRay s l (some r)
    | (s, .malformed) => rayMalformed s l r
    | (s, .meets t) => rayMeets s l r t
    | (s, .wait) => s

/-- The instance of a visit is read for its transform (R345, R348). -/
def rayInstance (s : State) (l : Fin 32) (r : Ray) (inst : Dword) : State :=
  rayTake s l r inst fun s b =>
    if badInstance b then (s, .malformed) else (s, .ok { r with xform := some (inst, f32s b 0 12 ++ f32s b 0x38 1) })

/-- A hit is accepted, presented or passed over (R345 to R347). -/
def rayHit (s : State) (l : Fin 32) (r : Ray) (h : Hit) (opaq : Bool) : State :=
  if !(match r.best with | some b => h.before b | none => true) then setRay s l (some r)
  else if r.cand && !opaq then
    rayResult (setRay s l (some { r with current := some h, status := .candidate })) l r.dst 2 (some h)
  else if r.first then rayEnd s l { r with best := some h }
  else setRay s l (some { r with best := some h })

/-- One unit of a running ray's work: a hit, a leaf block or an instance node, an interior node, a refill, or its end. -/
def rayStep (s : State) (l : Fin 32) (r : Ray) : State :=
  match r.found, r.todo, r.stack with
  | (h, o) :: f, _, _ => rayHit s l { r with found := f } h o
  | [], (kind, v) :: rest, _ =>
    let r' := { r with todo := rest }
    if kind = 2 then
      if !hasXform r v then rayInstance s l r v.inst else rayTake s l r v.node fun s b => visitLeaf s r' v b
    else if r.query.isSome || v.inst ≠ 0 then rayMalformed s l r
    else rayTake s l r v.node fun s b =>
      if badInstance b then (s, .malformed)
      else pushVisit s l { r' with xform := some (v.node, f32s b 0 12 ++ f32s b 0x38 1) }
        { node := sext57 (BitVec.ofNat 64 (leNat ((b.drop 0x30).take 8))), inst := v.node }
  | [], [], v :: rest =>
    if !hasXform r v then rayInstance s l r v.inst else rayTake s l r v.node fun s b => visitNode s l { r with stack := rest } v b
  | [], [], [] =>
    if r.spilled = 0 then rayEnd s l r
    else
      match refill l (Nat.min 8 r.spilled) s r with
      | (s, .ok r) => setRay s l (some r)
      | (s, .malformed) => rayMalformed s l r
      | (s, .meets t) => rayMeets s l r t
      | (s, .wait) => s

/-- RAY_TRAVERSAL_STEP (R345, R349): a running ray of a warp that is not pre-empted. -/
def execRayTraversalStep (core : Nat) (slot : Nat) (lane : Fin 32) (s : State) : Host.Outcome State Fault Refusal :=
  match s.warpAt core slot with
  | none => .next s
  | some w =>
    match w.threads[lane].ray with
    | some r => if r.status = .running && !w.preempted then .next (rayStep (s.focus core slot) lane r) else .next s
    | none => .next s

/-! ## RTRACE, RQUERY, RTCONT -/

/-- Some lane of a mask holds a ray that runs or stands suspended on a fault (R347). -/
def raysBusy (w : Warp) (m : Mask) : Bool :=
  (lanesOf m).any fun l => match w.threads[l].ray with | some r => r.status ≠ .candidate | none => false

/-- The root that a uniform register names (R346, R350). -/
def rootOf (x : Dword) : Dword := sext57 (x - BitVec.ofNat 64 (bits x 5 0))

/-- A ray that is a miss without traversal (R346). -/
def rayMisses (regs : List Word) : Bool :=
  regs.any (fun x => FV.isNaN (f32.unpack x.toNat))
    || ((regs.drop 4).take 3).all (fun x => match f32.unpack x.toNat with | .fin _ v => v = 0 | _ => false)
    || (match FV.cmp (f32.unpack (regs.getD 3 0).toNat) (f32.unpack (regs.getD 7 0).toNat) with | some (lt, _) => !lt | none => true)

/-- The registers of an instruction that starts a ray: `d` results and `a` operands. -/
def rayRegs (gr : Grp) (w : Warp) (d a b : BitVec 6) (nd : Nat → Nat) (na : Nat) : Except Trap Unit :=
  checkReps gr fun k => do vRange w (repD gr d.toNat k) (nd k); vRange w (repA gr a.toNat k) na; sRange (repB gr b.toNat k) 1

/-- RTRACE (R346). -/
def execRtrace (gr : Grp) (d : BitVec 6) (a : BitVec 6) (lka : BitVec 2) (b : BitVec 6) (s : State) : Host.Outcome State Fault Refusal :=
  perform (.rtrace gr d a lka b) (fun s =>
    match rayRegs gr s.cur d a b (fun _ => 6) 8 with
    | .error t => (s, .trap t)
    | .ok _ => ending gr (runReps gr (fun k s =>
        let m := s.cur.active gr
        let arg := s.cur.getS (repB gr b.toNat k)
        let ra := repA gr a.toNat k
        let rd := repD gr d.toNat k
        if m ≠ 0 ∧ bits arg 5 2 ≠ 0 then (s, .trap (trap 0x01 0x01))
        else if raysBusy s.cur m then (s, .wait .retry)
        else
          let w := s.cur
          let s := { s with cur := w.lastUse w.executing lka (fromTo ra (ra + 7)) }
          ((lanesOf m).foldl (fun s l =>
            let regs := (List.range 8).map fun i => w.getV (ra + i) l
            if rayMisses regs then rayResult (setRay s l none) l rd 0 none
            else setRay s l (some { dst := rd, cand := arg.getLsbD 0, first := arg.getLsbD 1, regs := regs, stack := [{ node := rootOf arg }] })) s, .done)) s)) s

/-- RQUERY (R350). -/
def execRquery (gr : Grp) (d : BitVec 6) (a : BitVec 6) (lka : BitVec 2) (b : BitVec 6) (s : State) : Host.Outcome State Fault Refusal :=
  perform (.rquery gr d a lka b) (fun s =>
    let arg := fun (k : Nat) => s.cur.getS (repB gr b.toNat k)
    let nk := fun (k : Nat) => bits (arg k) 5 2 + 1
    match rayRegs gr s.cur d a b (fun k => nk k + 1) 4 with
    | .error t => (s, .trap t)
    | .ok _ => ending gr (runReps gr (fun k s =>
        let m := s.cur.active gr
        let ra := repA gr a.toNat k
        if m ≠ 0 ∧ bits (arg k) 1 0 = 3 then (s, .trap (trap 0x01 0x01))
        else if raysBusy s.cur m then (s, .wait .retry)
        else
          let w := s.cur
          let s := { s with cur := w.lastUse w.executing lka (fromTo ra (ra + 3)) }
          ((lanesOf m).foldl (fun s l =>
            setRay s l (some { query := some (BitVec.ofNat 2 (bits (arg k) 1 0)), k := nk k, dst := repD gr d.toNat k
                               regs := (List.range 4).map fun i => w.getV (ra + i) l, stack := [{ node := rootOf (arg k) }] })) s, .done)) s)) s

/-- RTCONT's decision on a suspended ray (R347). -/
def rayContinue (s : State) (l : Fin 32) (r : Ray) (o : BitVec 2) : State :=
  match o.toNat with
  | 0 => setRay s l (some { r with current := none, status := .running })
  | 1 => if r.first then rayEnd s l { r with best := r.current } else setRay s l (some { r with best := r.current, current := none, status := .running })
  | 2 => rayEnd s l { r with best := r.current }
  | _ => rayEnd s l r

/-- RTCONT (R347). -/
def execRtcont (gr : Grp) (d : BitVec 6) (o : BitVec 2) (s : State) : Host.Outcome State Fault Refusal :=
  perform (.rtcont gr d o) (fun s =>
    match checkReps gr fun k => vRange s.cur (repD gr d.toNat k) 6 with
    | .error t => (s, .trap t)
    | .ok _ => ending gr (runReps gr (fun k s =>
        let m := s.cur.active gr
        if raysBusy s.cur m then (s, .wait .retry)
        else
          ((lanesOf m).foldl (fun s l =>
            match s.cur.threads[l].ray with
            | some r => rayContinue s l { r with dst := repD gr d.toNat k } o
            | none => rayResult s l (repD gr d.toNat k) 4 none) s, .done)) s)) s

/-! ## HSORT (R351) -/

/-- A thread in an HSORT: its key, its warp and lane. -/
structure Sorted where
  key : Nat
  w : Warp
  l : Fin 32

/-- The HSORT that a warp is parked at: its group, d and a of the repetition, LKa, and whether it is the last one. -/
def hsortOf (w : Warp) : Option (Grp × Nat × Nat × BitVec 2 × Bool) :=
  match w.parked with
  | some (.hsort gr d a lka) =>
    let k := w.resumed.rep
    some (gr, repD gr d.toNat k, repA gr a.toNat k, lka, k + 1 ≥ reps gr)
  | _ => none

/-- The threads in their new order: by key, then by old linear index. -/
def hsortOrder (ws : List Warp) : List Sorted :=
  let key := fun (w : Warp) (l : Fin 32) => match hsortOf w with | some (_, _, a, _, _) => (w.getV a l).toNat | none => 0
  sortBy (fun x => x.key) (ws.flatMap fun w => lanes.map fun l => { key := key w l, w := w, l := l })

/-- A source warp as its threads leave it: last uses applied, lpc after the group. -/
def hsortLeave (w : Warp) : Warp :=
  match hsortOf w with
  | some (gr, _, a, lka, last) =>
    let w' := w.lastUse 0xFFFFFFFF lka [a]
    if last then { w' with lpc := Vector.replicate 32 (Warp.pcOf (nextPc w gr)) } else w'
  | none => w

/-- Warp `i` after the regrouping: its lanes hold the threads of ranks 32i to 32i + 31. -/
def hsortFill (order : List Sorted) (i : Nat) (w : Warp) : Warp :=
  let src : Fin 32 → Warp × Fin 32 := fun l => match order[32 * i + l.val]? with | some x => (hsortLeave x.w, x.l) | none => (w, l)
  let d := match hsortOf w with | some (_, d, _, _, _) => d | none => 64
  let last := match hsortOf w with | some (_, _, _, _, last) => last | none => true
  let w' := { w with
    v := Vector.ofFn fun n => Vector.ofFn fun l => (src l).1.v[n][(src l).2]
    p := Vector.ofFn fun n => maskOf fun l => (src l).1.p[n].getLsbD (src l).2.val
    lpc := Vector.ofFn fun l => (src l).1.lpc[(src l).2]
    threads := Vector.ofFn fun l => (src l).1.threads[(src l).2] }
  let w' := w'.setVec d 0xFFFFFFFF (Vector.ofFn fun l => match order[32 * i + l.val]? with
    | some x => BitVec.ofNat 32 (32 * x.w.idx + x.l.val) | none => 0)
  let w' := { w' with wait := .none, woken := false, skipWatch := false, failed := none }
  if last then { w'.unpark with resume := none }
  else { w' with wait := .retry, resume := some { w.resumed with pc := w'.pc, rep := w.resumed.rep + 1, done := 0 } }

/-- Where a thread of a slot and lane has gone. -/
def hsortMoved (ws : List Warp) (order : List Sorted) (slot : Nat) (l : Fin 32) : Option (Warp × Fin 32) :=
  (order.findIdx? fun x => x.w.slot = slot && x.l = l).bind fun r => (ws[r / 32]?).map fun w => (w, Fin.ofNat 32 r)

/-- What is on its way to a thread, or waits for it, follows it: results, stores at a home, fault records of its ray. -/
def hsortFollow (s : State) (ws : List Warp) (order : List Sorted) : State :=
  let c := s.core.id
  let dest := fun (d : RetDest) =>
    if d.core = c && !d.uniform then
      match hsortMoved ws order d.slot (Fin.ofNat 32 d.lane) with
      | some (w, l) => { d with slot := w.slot, lane := l.val, gen := if (ws.any fun x => x.slot = d.slot && x.genReg = d.gen) then w.genReg else d.gen }
      | none => d
    else d
  let held := fun (h : HeldReq) =>
    match h.req.warp with
    | some (k, slot) =>
      if k ≠ c then h
      else match hsortMoved ws order slot (lowLane h.lanes) with
        | some (w, l) => { h with req := { h.req with warp := some (c, w.slot), ret := h.req.ret.map dest }, lanes := laneBit l }
        | none => h
    | none => h
  let record := fun (r : PendingRecord) =>
    match r.unit with
    | some (.ray slot l) =>
      if r.core ≠ c then r
      else match hsortMoved ws order slot l with | some (w, l) => { r with unit := some (.ray w.slot l) } | none => r
    | _ => r
  { s with
    core := { s.core with returns := s.core.returns.map fun r => { r with dest := dest r.dest } }
    home := { s.home with held := s.home.held.map held }
    records := s.records.map record }

/-- Every warp of the block that has not exited waits at HSORT. -/
def hsortReady (s : State) (c bs : Nat) : Bool :=
  ((s.blockWarps c bs).filter fun w => w.live ≠ 0).all fun w => w.wait = .hsort && !w.away

/-- The threads of the block are regrouped; then each warp whose group carries S waits for its results (R169). -/
def hsortRun (s : State) : State :=
  let c := s.core.id
  let ws := sortBy (fun (w : Warp) => w.idx) ((s.blockWarps c s.cur.bslot).filter fun w => w.live ≠ 0)
  let order := hsortOrder ws
  let s := hsortFollow s ws order
  let sw := fun (w : Warp) => match hsortOf w with | some (gr, _, _, _, last) => gr.sw && last | none => false
  ws.zipIdx.foldl (fun s (w, i) =>
    let n := { hsortFill order i w with readyAt := s.clock }
    let s := s.setWarp c n
    let n := if sw w && outstanding s c n then { n with wait := .results } else n
    let old := lanes.flatMap fun l => leBytes 2 (match order[32 * i + l.val]? with | some x => 32 * x.w.idx + x.l.val | none => 0)
    emit (s.setWarp c n) c n 5 old) s

/-- HSORT (R351): it waits for the other warps of the block; the last to arrive regroups them. -/
def execHsort (gr : Grp) (d : BitVec 6) (a : BitVec 6) (lka : BitVec 2) (s : State) : Host.Outcome State Fault Refusal :=
  perform (.hsort gr d a lka) (fun s =>
    match collective gr s.cur, checkReps gr fun k => do vRange s.cur (repD gr d.toNat k) 1; vRange s.cur (repA gr a.toNat k) 1 with
    | .error t, _ => (s, .trap t)
    | _, .error t => (s, .trap t)
    | .ok _, .ok _ =>
      let c := s.core.id
      let mine := fun (h : HeldReq) => match h.req.warp with | some (k, slot) => k = c && (s.blockWarps c s.cur.bslot).any fun w => w.slot = slot | none => false
      if slowPending s c s.cur.slot allLanes || s.home.held.any fun h => mine h && popcount h.lanes ≠ 1 then (s, .wait .retry)
      else
        let s := { s with cur := { s.cur.park (.hsort gr d a lka) with wait := .hsort } }
        (if hsortReady s c s.cur.bslot then hsortRun s else s, .raw)) s

end Sys2Proof.Machine
end

