-- ==== Sys2Proof/Machine/Issue.lean ====
section
/-! DEFINITION. Which warps are ready and active (R145, R168, R170), warps that exit (R151), results that land (R147, R169), and the
polls of RESP and of full trap queues (R389, R391). -/

namespace Sys2Proof.Machine

/-! ## Readiness (R168) -/

/-- The engine instructions of a warp have reached their ownership points (R104). -/
def ownershipOf (k : Core) (w : Warp) : Bool :=
  !(k.copies.any fun c => c.bslot = some w.bslot && c.warp = w.idx && !c.owned)
    && !(k.jobs.any fun j => j.slot = w.slot && j.snap.isNone && match j.kind with | .store .. => true | _ => false)

/-- What a warp waits for has come, so that its group may be issued, or issued again. -/
def waitOver (s : State) (c : Nat) (w : Warp) : Bool :=
  match w.wait with
  | .none | .retry | .yield => true
  | .order m => w.failed.isSome || (ownershipOf (s.coreAt c) w && !slowPending s c w.slot m)
  | .results => !outstanding s c w
  | .batch n => (match s.blockAt c w.bslot with | some b => b.outstandingBatches ≤ n | none => true)
  | .hsort => hsortReady s c w.bslot
  | .frontEnd => (match s.launchOf w.launch with | some l => !frontHolds s (socketOf c) (l.draw.getD 0) | none => true)
  | _ => false

/-- A resident warp that may issue: not pre-empted, its registers on chip, with executing lanes, waiting for nothing. -/
def warpReady (s : State) (c : Nat) (w : Warp) : Bool := w.present && !w.preempted && !w.away && w.executing ≠ 0 && waitOver s c w

/-- A warp that would take a lane set (R168): none of its results is outstanding. -/
def warpWaits (s : State) (c : Nat) (w : Warp) : Bool := warpReady s c w && !outstanding s c w

/-- The ready pending warps of a core, longest ready first, then by slot (R168). -/
def readyPending (s : State) (c : Nat) : List Warp :=
  sortBy (fun (w : Warp) => w.readyAt) ((s.warpsOf c).filter fun w => warpWaits s c w && !s.isActive c w.slot)

/-- ACTIVE_SET_ENTRY (R168). -/
def execActiveSetEntry (core : Nat) (laneSet : Nat) (s : State) : Host.Outcome State Fault Refusal :=
  if laneSet ≥ 8 || ((s.coreAt core).active.toList.getD laneSet none).isSome then .next s
  else
    match readyPending s core with
    | [] => .next s
    | w :: _ =>
      let s := s.modCore core fun k => { k with active := k.active.setIfInBounds laneSet (some (w.slot, s.coreClock core)) }
      .next (s.modWarp core w.slot fun w => if w.wait = .yield then { w with wait := .none } else w)

/-- The warp has held its lane set for 1,024 clocks of its core while another is ready (R9, R170). -/
def boundDue (s : State) (core slot : Nat) : Bool :=
  ((s.coreAt core).active.any fun x => match x with | some (n, t) => n = slot && s.coreClock core - t ≥ 1024 * 40 | none => false)
    && readyPending s core ≠ []

/-- A warp leaves the active set, and is as long ready as it is pending. -/
def goPending (s : State) (core slot : Nat) : State := leaveActive (s.modWarp core slot fun w => { w with readyAt := s.clock }) core slot

/-- The registers of a warp come back from its context image (R47, R48); a granule that fails its check is a trap of the warp, as the stash fill of
R80's table (DESIGN CHOICE: the table names no register fill). -/
def refillWarp (s : State) (c slot : Nat) : State :=
  match s.warpAt c slot with
  | none => s
  | some w =>
    match imageRead s w with
    | (t, none) => (keepRecalls s t).getD s
    | (s, some (w, e)) =>
      let s := s.setWarp c { w with away := false }
      match e with
      | none => s
      | some sub => let s := s.focus c slot; takeTrap s { trapAt 100 0x41 sub (w.ctxBase + 0x800) with lanes := s.cur.executing }

/-- ACTIVE_BOUND (R170). -/
def execActiveBound (core : Nat) (slot : Nat) (s : State) : Host.Outcome State Fault Refusal :=
  .next (if boundDue s core slot then goPending s core slot else s)

/-- WARP_EXIT (R151). -/
def execWarpExit (core : Nat) (slot : Nat) (s : State) : Host.Outcome State Fault Refusal :=
  .next (match s.warpAt core slot with | some w => pumpRecords (warpEnd s core w) | none => s)

/-! ## Results that land (R147, R169) -/

/-- A returning value lands in its register (R147), or in the warp's context image when the register's line has left (R48). -/
def landReturn (s : State) (c : Nat) (w : Warp) (r : Return) : State :=
  let ws := (loadWords r.dest.ty (leBytes 8 r.value.toNat)).zipIdx
  if r.dest.uniform then s.setWarp c (w.setS r.dest.reg r.value)
  else if w.away then
    ws.foldl (fun s x => physPost s (w.ctxBase.toNat + 0x800 + 128 * (r.dest.reg + x.2) + 4 * r.dest.lane) (leBytes 4 x.1.toNat)) s
  else s.setWarp c (ws.foldl (fun w x => w.setV (r.dest.reg + x.2) (Fin.ofNat 32 r.dest.lane) x.1) w)

/-- The result of one group, of which a core drops a return, is dropped and counted once (R147, R148). -/
def Core.dropReturn (k : Core) (r : Return) : Core :=
  { k with
    returns := k.returns.filter fun x => !(x.dest.slot = r.dest.slot && x.dest.gen = r.dest.gen && x.issued = r.issued)
    dropret := k.dropret + 1 }

/-- RESULT_RETURN (R147): the oldest return for a warp slot is written, or dropped and counted when its tag is not the slot's. -/
def execResultReturn (core : Nat) (slot : Nat) (s : State) : Host.Outcome State Fault Refusal :=
  match (s.coreAt core).returns.find? fun r => r.dest.slot = slot with
  | none => .next s
  | some r =>
    match s.warpAt core slot with
    | some w =>
      if w.genReg = r.dest.gen then .next (landReturn (s.modCore core fun k => { k with returns := k.returns.erase r }) core w r)
      else .next (s.modCore core fun k => k.dropReturn r)
    | none => .next (s.modCore core fun k => k.dropReturn r)

/-! ## The polls of RESP (R391) -/

/-- What a test of RESP says: to wait on, to replay, to fail (R391). -/
inductive Resp where
  | pending | replay | fail
  deriving DecidableEq, Repr

/-- A test of RESP (R391): a read that fails counts as 0, and so does one that its home makes wait (R69). -/
def testResp (s : State) (pa : Nat) : State × Resp :=
  match physWaits s pa 8 false with
  | some s => (s, .pending)
  | none =>
    match physNat s pa 8 with
    | (s, 0) => (s, .pending)
    | (s, 1) => (s, .replay)
    | (s, _) => (s, .fail)

/-- The test of a parked engine's status: its new status, or that it fails with its trap; none when it stands on no record. -/
def pollStatus (s : State) (st : EngStatus) : Option (State × (EngStatus ⊕ Trap)) :=
  match st with
  | .faulted pa t _ =>
    match testResp s pa with
    | (s, .pending) => some (s, .inl (.faulted pa t s.clock))
    | (s, .replay) => some (s, .inl .running)
    | (s, .fail) => some (s, .inr t)
  | _ => none

/-- A parked warp tests RESP (R391): a test that sees a value is an acquire at system domain; then the group replays, or the trap is
raised again as a handler trap. -/
def pollWarp (s : State) (core slot : Nat) : State :=
  match s.warpAt core slot with
  | none => s
  | some w =>
    match w.wait with
    | .resp pa t _ =>
      if w.preempted then s
      else
        match testResp s pa with
        | (s, .pending) => s.modWarp core slot fun w => { w with wait := .resp pa t s.clock }
        | (s, r) =>
          let s := s.focus core slot
          let s := acquire { s with cur := { s.cur with wait := .none } } allLanes .system
          if r = .replay then s else takeUnserviced s t
    | _ => s

/-- A parked ray tests RESP (R349, R391). -/
def pollRay (s : State) (core slot : Nat) (lane : Fin 32) : State :=
  match (s.warpAt core slot).bind fun w => w.threads[lane].ray with
  | none => s
  | some r =>
    match r.status with
    | .faulted pa t _ =>
      let s := s.focus core slot
      match testResp s pa with
      | (s, .pending) => setRay s lane (some { r with status := .faulted pa t s.clock })
      | (s, .replay) => setRay s lane (some { r with status := .running })
      | (s, .fail) => rayFail s lane r t
    | _ => s

/-- The parked copy of a channel tests RESP (R131, R391): it resumes by translating again, or fails. -/
def pollCopy (s : State) (core c : Nat) : State :=
  match (s.coreAt core).copies.find? fun x => x.chan.toNat = c && x.status ≠ .running with
  | none => s
  | some x =>
    match pollStatus s x.status with
    | some (s, .inl st) => setCopy s core x { x with status := st }
    | some (s, .inr t) => failCopy s core x (trapAt 100 0x20 0x05 t.addr)
    | none => s

/-- A parked matrix job tests RESP (R304, R391). -/
def pollJob (s : State) (core e : Nat) : State :=
  match (s.coreAt core).jobs.find? fun x => x.entry = e with
  | none => s
  | some j =>
    match pollStatus s j.status with
    | some (s, .inl st) => setJob s core j { j with status := st }
    | some (s, .inr t) => failJob s core j (trapAt 100 0x28 0x07 t.addr)
    | none => s

/-- A tile whose record read stands on a fault tests RESP (R332, R391): a record that cannot be served drops out. -/
def pollTile (s : State) (q tx ty : Nat) : State :=
  match s.geom.passes.find? fun p => p.q = q && (p.fault tx ty).isSome with
  | none => s
  | some p =>
    match pollStatus s ((p.fault tx ty).getD .running) with
    | some (s, .inl .running) => modPass s p fun p => p.setFault tx ty none
    | some (s, .inl st) => modPass s p fun p => p.setFault tx ty (some st)
    | some (s, .inr t) => modPass s p fun p => { p.setFault tx ty none with lost := p.lost ++ [(t.addr.toNat - p.msbase.toNat) / 2048] }
    | none => s

/-- The collective unit of a root tests RESP (R391, R394): a write that cannot be served is reported and dropped. -/
def pollRoot (s : State) (cid : Half) : State :=
  match collRoot s cid with
  | none => s
  | some r =>
    match pollStatus s r.status with
    | some (s, .inl st) => setRoot s { r with status := st }
    | some (s, .inr t) =>
      launchRecord (setRoot s { r with status := .running, lost := r.lost ++ [t.addr.toNat / 64] }) (unitRecord r.core r.lau.id (copyTrap t) 2)
    | none => s

/-- The collective unit of a member tests RESP (R391, R394): the settled blocks it holds come again, or are dropped. -/
def pollMember (s : State) (slot : Nat) : State :=
  match memberAt s slot with
  | none => s
  | some m =>
    match pollStatus s m.status with
    | some (s, .inl .running) =>
      let again := m.blocks.map fun x => Instr.settledBlockDown m.cid x.1 x.2.1 x.2.2
      { setMember s { m with status := .running, blocks := [] } with inputs := s.inputs ++ again }
    | some (s, .inl st) => setMember s { m with status := st }
    | some (s, .inr t) => launchRecord (setMember s { m with status := .running, blocks := [] }) (unitRecord m.core m.launch (copyTrap t) 2)
    | none => s

/-- FAULT_RESP_POLL (R391). -/
def execFaultRespPoll (core : Nat) (unit : FaultUnit) (s : State) : Host.Outcome State Fault Refusal :=
  .next (pumpRecords (match unit with
    | .warp slot => pollWarp s core slot
    | .chan c => pollCopy s core c
    | .job e => pollJob s core e
    | .ray slot lane => pollRay s core slot lane
    | .tile q tx ty => pollTile s q tx ty
    | .coll cid => pollRoot s cid
    | .member slot => pollMember s slot))

/-- TRAP_QUEUE_POLL (R389): the records that wait for room in a queue's trap queue are tried again. -/
def execTrapQueuePoll (q : Nat) (s : State) : Host.Outcome State Fault Refusal :=
  let mine := (s.queueOf q).trapq.toNat :: (s.launches.filter fun l => l.q = q).map fun l => l.trapq.toNat
  .next (pumpRecords { s with records := s.records.map fun (r : PendingRecord) => if mine.contains r.trapq then { r with tried := none } else r })

end Sys2Proof.Machine
end

