-- ==== Sys2Proof/Machine/Boot.lean ====
section
/-! DEFINITION. Patch images (R380 to R382), and the boot: reset, recovery, what firmware sets up (R433 to R436, R442). -/

namespace Sys2Proof.Machine

/-! ## Patch images -/

/-- The codes of the trap table (R386). -/
def trapCodes : List Nat :=
  [0x01, 0x02, 0x03, 0x04, 0x08, 0x09, 0x10, 0x11, 0x12, 0x13, 0x14, 0x15, 0x18, 0x19, 0x1A, 0x20, 0x21, 0x28, 0x29, 0x30, 0x31, 0x38,
   0x3F, 0x40, 0x41]

/-- What a patch image comes to (R381): its set, or the mailbox status that reports the refusal. -/
def patchOf (b : List Byte) (floor active : Word) : Except Byte PatchSet :=
  let at_ := fun (o n : Nat) => leNat ((b.drop o).take n)
  let slot := fun (k : Nat) => BitVec.ofNat 128 (at_ (0x40 + 16 * k) 16)
  let op := fun (n j : Nat) => BitVec.ofNat 64 (at_ (0x240 + 256 * n + 8 * j) 8)
  let badSlot := fun (x : BitVec 128) =>
    let y := slotOf x
    let remap : Bool := y.act = 4 && y.aword / 2 ^ 16 % 2 = 0
    bits x 79 76 ≠ 0 || bits x 95 86 ≠ 0 || y.act > 4
      || (!x.getLsbD 65 && y.act = 4) || (x.getLsbD 65 && 1 ≤ y.act && y.act ≤ 3)
      || ((y.act = 3 || (y.act = 4 && !remap)) && y.cslot < 48)
      || (y.act = 1 && y.aword / 2 ^ 8 ≠ 0) || (y.act = 4 && y.aword / 2 ^ 17 ≠ 0)
      || (remap && !trapCodes.contains (y.aword % 256))
  if b.length ≠ 5184 || !Config.pssVerify (b.take 0x1240) (b.drop 0x1240) then .error 3
  else if at_ 0 4 ≠ 0x4C434E31 || at_ 4 4 ≠ 1 || at_ 14 2 ≠ 0 || at_ 16 48 ≠ 0
      || (List.range 32).any (fun k => badSlot (slot k)) || (List.range 16).any (fun n => (List.range 32).any fun j => bits (op n j) 62 40 ≠ 0) then .error 6
  else if at_ 8 4 < floor.toNat || at_ 8 4 < active.toNat then .error 4
  else .ok { version := BitVec.ofNat 32 (at_ 8 4), cpres := BitVec.ofNat 16 (at_ 12 2), slots := Vector.ofFn fun k => slot k.val,
             micro := Vector.ofFn fun n => Vector.ofFn fun j => op n.val j.val,
             digest := BitVec.ofNat 512 (leNat (Config.sha512 (b.take 0x1240))) }

/-- PATCH_ACTIVATION (R382): once no launch that started under the active set runs, the staged set takes effect on every core. -/
def execPatchActivation (s : State) : Host.Outcome State Fault Refusal :=
  match s.mgmt.staged with
  | none => .next s
  | some p =>
    if s.launches ≠ [] then .next s
    else .next { s with mgmt := { s.mgmt with lichen := p, staged := none, gen := s.mgmt.gen + 1 } }

/-! ## Boot -/

/-- Sockets that the boot quarantines (R436): the die is absent, or of another type than the record declares. -/
def bootQuarantine (m : Mgmt) (f : Flash) : List Nat := (List.range 18).filter fun n => m.dies.getD n 0 ≠ f.sock.getD n 0

/-- The lists joined, without repeats. -/
def join {α : Type} [DecidableEq α] (a b : List α) : List α := a ++ b.filter fun x => !a.contains x

/-- Module flash as the boot finds it: the quarantine list holds the units quarantined so far (R442). -/
def flashNow (m : Mgmt) : Flash :=
  { m.flash with
    badClusters := join m.flash.badClusters m.badClusters, badSockets := join m.flash.badSockets m.badSockets
    badSlices := join m.flash.badSlices m.badSlices, badPorts := join m.flash.badPorts m.badPorts }

/-- The machine as reset leaves it before the ROM runs: what lies outside the package and module flash stay, and the record's floors
with it; nothing else does. What the host has sent and the device has not yet taken stays on its way. -/
def held (s : State) (f : Flash) (b : Boot) : State :=
  let outside := fun (i : Instr) => match i with | .registerWrite _ _ | .qwake _ | .settledBlockDown _ _ _ _ => false | _ => true
  { mgmt := { flash := f, dies := s.mgmt.dies, boot := b }
    fabric := { self := s.fabric.self, nodes := s.fabric.nodes, host := s.fabric.host, hostRefuses := s.fabric.hostRefuses, sent := s.fabric.sent }
    inputs := s.inputs.filter outside
    free := s.free }

/-- The firmware runs (R433): the dies are enumerated, memory is zero under key id 0, flush areas are reserved (R323), a patch image in
flash that verifies is staged. -/
def runFirmware (s : State) : State :=
  let f := s.mgmt.flash
  let f := { f with badSockets := join f.badSockets (bootQuarantine s.mgmt f) }
  let any : Bool := f.badClusters ≠ [] || f.badSockets ≠ [] || f.badSlices ≠ [] || f.badPorts ≠ []
  let staged := f.patch.bind fun b => match patchOf b f.patchFloor 0 with | .ok p => some p | .error _ => none
  let m := { s.mgmt with
    boot := .running, flash := f, replace := any, staged := staged, badClusters := f.badClusters, badSockets := f.badSockets
    badSlices := f.badSlices, badPorts := f.badPorts }
  { s with
    mgmt := { m with flush := flushAreas m }
    geom := { dies := m.shadeDies.map fun n => { socket := n } } }

/-- The firmware image passes step 2 of the boot (R433). -/
def firmwareOk (f : Flash) (x : Firmware) : Bool := x.sigOk && x.version ≥ f.fwFloor.toNat

/-- RESET (R433, R434): a record that does not verify halts the device; a firmware image that does not starts recovery. -/
def execReset (s : State) : Host.Outcome State Fault Refusal :=
  let f := flashNow s.mgmt
  if !f.recordOk || f.gddr ≠ 1 || !f.reservedZero then
    let s := held s f .halted
    .next { s with mgmt := { s.mgmt with replace := true } }
  else if !firmwareOk f f.firmware then .next (held s f (.recovery 0))
  else .next (runFirmware (held s f .running))

/-- A recovery read has failed (R434): three retries, then the attempt begins again. -/
def recoveryFails (s : State) : State :=
  match s.mgmt.boot with
  | .recovery n => { s with mgmt := { s.mgmt with boot := .recovery (if n ≥ 3 then 0 else n + 1) } }
  | _ => s

/-- RECOVERY_RETRY (R434). -/
def execRecoveryRetry (s : State) : Host.Outcome State Fault Refusal := .next (recoveryFails s)

/-- RECOVERY_READ_COMPLETE (R434): an image that verifies is written to flash and run. -/
def execRecoveryReadComplete (fw : Firmware) (s : State) : Host.Outcome State Fault Refusal :=
  match s.mgmt.boot with
  | .recovery _ =>
    if firmwareOk s.mgmt.flash fw then .next (runFirmware { s with mgmt := { s.mgmt with flash := { s.mgmt.flash with firmware := fw } } })
    else .next (recoveryFails s)
  | _ => .next s

end Sys2Proof.Machine
end

