-- ==== Sys2Proof/Machine/Control.lean ====
section
/-! DEFINITION. SFU, SGET, branches, calls, exits and microprograms (R174, R211, R214 to R223, R254, R375, R376). -/

namespace Sys2Proof.Machine

/-! ## SFU and SGET -/

/-- SFU (R254): a variable-latency result (R169). -/
def execSfu (gr : Grp) (d : BitVec 6) (a : BitVec 6) (lka : BitVec 2) (u : BitVec 3) (s : State) : Host.Outcome State Fault Refusal :=
  perform (.sfu gr d a lka u) (fun s =>
    match checkReps gr fun k => do vRange s.cur (repD gr d.toNat k) 1; vRange s.cur (repA gr a.toNat k) 1 with
    | .error t => (s, .trap t)
    | .ok _ => ending gr <| runReps gr (fun k s =>
        let x : LaneVec := Vector.ofFn fun l => sfu u (rndOf gr) (satOf gr) (s.cur.getV (repA gr a.toNat k) l)
        let s := { s with cur := s.cur.lastUse s.cur.executing lka [repA gr a.toNat k] }
        (landVec s (repD gr d.toNat k) (s.cur.active gr) x, .done)) s) s

/-- The special values of SGET (R174). -/
def special (s : State) (e : Nat) (l : Fin 32) : Nat :=
  let w := s.cur
  let p := s.curLaunch.pkt
  let b := w.block.toNat
  match e with
  | 0 => l.val
  | 1 => w.idx
  | 2 => b % p.gx
  | 3 => b / p.gx % p.gy
  | 4 => b / p.gx / p.gy
  | 5 => p.ntid
  | 6 => p.gx
  | 7 => p.gy
  | 8 => p.gz
  | 9 => s.core.id
  | 10 => clusterOf s.core.id
  | 11 => socketOf s.core.id
  | 12 => match s.curBlock with | some b => b.rank | none => 0
  | 13 => w.launch.toNat
  | 14 => w.width
  | 15 => bit w.memrev
  | _ => s.ticks

/-- SGET (R211). -/
def execSget (gr : Grp) (d : BitVec 6) (e : BitVec 5) (s : State) : Host.Outcome State Fault Refusal :=
  perform (.sget gr d e) (fun s =>
    let n := if e = 16 then 2 else 1
    match checkReps gr fun k => vRange s.cur (repD gr d.toNat k) n with
    | .error t => (s, .trap t)
    | .ok _ => ending gr <| runReps gr (fun k s =>
        let v : LaneVec := Vector.ofFn fun l => BitVec.ofNat 32 (special s e.toNat l)
        let w := s.cur.setVec (repD gr d.toNat k) (s.cur.active gr) v
        let w := if e = 16 then w.setVec (repD gr d.toNat k + 1) (s.cur.active gr) (Vector.replicate 32 (BitVec.ofNat 32 (s.ticks / 2 ^ 32))) else w
        ({ s with cur := w }, .done)) s) s

/-! ## Branches, calls and returns -/

/-- The lanes whose condition p[p] xor N is 1 (R176, R214). -/
def branchCond (w : Warp) (p : BitVec 3) (n : BitVec 1) : Mask :=
  w.executing &&& (if n = 1 then ~~~(w.getP p.toNat) else w.getP p.toNat)

/-- The target of a B-format word (R176). -/
def branchTarget (w : Warp) (g : Grp) (o : BitVec 19) : Dword := basePc w g + 4 * o.signExtend 64

/-- A branch of the issuing warp: the lanes of `taken` go to the target, the other executing lanes to the next group. -/
def branchTo (g : Grp) (o : BitVec 19) (taken : Mask) (s : State) : State × Perf :=
  let w := s.cur
  let x := w.executing
  let s := emitCur s 1 (leBytes 4 taken.toNat)
  ({ s with cur := (w.goto (x &&& ~~~taken) (nextPc w g)).goto (x &&& taken) (branchTarget w g o) }, .done)

/-- A branch inside a microprogram (R221, R222): its offset counts operations. -/
def branchMicro (g : Grp) (m : Micro) (o : BitVec 19) (taken : Bool) (s : State) : State × Perf :=
  let k : Int := m.op + hintWords g + o.toInt
  if k < 0 ∨ k > 31 then (s, .trap (trap 0x02 0x04))
  else if taken then ({ s with cur := { s.cur with micro := some { m with op := k.toNat } } }, .done)
  else (endGroup g s, .done)

/-- BRA (R214); inside a microprogram all active lanes must agree (R222). -/
def execBra (gr : Grp) (p : BitVec 3) (n : BitVec 1) (o : BitVec 19) (s : State) : Host.Outcome State Fault Refusal :=
  perform (.bra gr p n o) (fun s =>
    let c := branchCond s.cur p n
    match s.cur.micro with
    | some m =>
      if c ≠ 0 ∧ c ≠ s.cur.executing then (s, .trap (trap 0x02 0x03)) else branchMicro gr m o (c ≠ 0) s
    | none => branchTo gr o c s) s

/-- BRP (R214). -/
def execBrp (gr : Grp) (p : BitVec 3) (n : BitVec 1) (o : BitVec 19) (s : State) : Host.Outcome State Fault Refusal :=
  perform (.brp gr p n o) (fun s =>
    let c := branchCond s.cur p n
    match s.cur.micro with
    | some m => branchMicro gr m o (c ≠ 0) s
    | none => branchTo gr o (if c ≠ 0 then s.cur.executing else 0) s) s

/-- BRS (R214). -/
def execBrs (gr : Grp) (p : BitVec 3) (n : BitVec 1) (o : BitVec 19) (s : State) : Host.Outcome State Fault Refusal :=
  perform (.brs gr p n o) (fun s =>
    let c := branchCond s.cur p n
    match s.cur.micro with
    | some m => branchMicro gr m o (c = s.cur.executing) s
    | none => branchTo gr o (if c = s.cur.executing then s.cur.executing else 0) s) s

/-- The link that a call writes to the lanes of a mask (R215). -/
def writeLink (w : Warp) (m : Mask) (link : Dword) : Warp :=
  (w.setVec 14 m (Vector.replicate 32 (lo32 (Warp.pcOf link)))).setVec 15 m (Vector.replicate 32 (hi32 (Warp.pcOf link)))

/-- CALL (R215). -/
def execCall (gr : Grp) (p : BitVec 3) (n : BitVec 1) (o : BitVec 19) (s : State) : Host.Outcome State Fault Refusal :=
  perform (.call gr p n o) (fun s =>
    if s.cur.vgran < 2 then (s, .trap (trap 0x01 0x06))
    else
      let c := branchCond s.cur p n
      let link := nextPc s.cur gr
      match branchTo gr o c s with
      | (s, r) => ({ s with cur := writeLink s.cur c link }, r)) s

/-- The address that a lane's register pair names. -/
def jumpTarget (w : Warp) (a : Nat) (l : Fin 32) : Dword := pair (w.getV (a + 1) l) (w.getV a l)

/-- The checks of every jumping lane's target (R216). -/
def checkTargets (w : Warp) (a : Nat) (m : Mask) : Except Trap Unit :=
  let bad := (lanesOf m).filter fun l => !canonical (jumpTarget w a l)
  let odd := (lanesOf m).filter fun l => (jumpTarget w a l).toNat % 4 ≠ 0
  match bad, odd with
  | l :: _, _ => .error { trapAt 10 0x10 0x02 (jumpTarget w a l) with lanes := maskOf fun x => bad.contains x }
  | [], l :: _ => .error { trapAt 70 0x18 0x01 (jumpTarget w a l) with lanes := maskOf fun x => odd.contains x }
  | [], [] => .ok ()

/-- The payload of an INDIRECT packet (R431): the kind, then each target with its lanes. -/
def indirectPacket (w : Warp) (kind a : Nat) (m : Mask) : List Byte :=
  let ts := ((lanesOf m).map fun l => jumpTarget w a l).eraseDups
  BitVec.ofNat 8 kind :: BitVec.ofNat 8 ts.length ::
    ts.flatMap fun t => leBytes 8 t.toNat ++ leBytes 4 (maskOf fun l => m.getLsbD l.val && jumpTarget w a l = t).toNat

/-- The lanes whose guard is true go where their register pair names, the others after the group (R216). -/
def jumpLanes (g : Grp) (r : Nat) (w : Warp) : Vector Dword 32 :=
  let m := w.active g
  Vector.ofFn fun l =>
    if m.getLsbD l.val then Warp.pcOf (jumpTarget w r l) else if w.executing.getLsbD l.val then Warp.pcOf (nextPc w g) else w.lpc[l]

/-- An indirect transfer of the lanes whose guard is true (R215, R216). Under HINT.REP each repetition checks its targets and writes its link
before the next, and the lanes go where the last one's registers name (R188). -/
def jumpTo (g : Grp) (a : BitVec 6) (lka : BitVec 2) (kind : Nat) (link : Bool) (s : State) : State × Perf :=
  match checkReps g fun k => do
      vRange s.cur (repA g a.toNat k) 2
      if link && s.cur.vgran < 2 then .error (trap 0x01 0x06) with
  | .error t => (s, .trap t)
  | .ok _ => runReps g (fun k s =>
      let w := s.cur
      let r := repA g a.toNat k
      let m := w.active g
      match checkTargets w r m with
      | .error t => (s, .trap t)
      | .ok _ =>
        let w' := w.lastUse w.executing lka [r, r + 1]
        let w' := if link then writeLink w' m (nextPc w g) else w'
        if k + 1 < reps g then ({ s with cur := w' }, .done)
        else
          let s := emitCur s 2 (indirectPacket w kind r m)
          ({ s with cur := { w' with lpc := jumpLanes g r w } }, .done)) s

/-- JMPI (R216). -/
def execJmpi (gr : Grp) (a : BitVec 6) (lka : BitVec 2) (s : State) : Host.Outcome State Fault Refusal :=
  perform (.jmpi gr a lka) (jumpTo gr a lka 0 false) s
/-- CALLI (R215). -/
def execCalli (gr : Grp) (a : BitVec 6) (lka : BitVec 2) (s : State) : Host.Outcome State Fault Refusal :=
  perform (.calli gr a lka) (jumpTo gr a lka 1 true) s
/-- RET (R216). -/
def execRet (gr : Grp) (a : BitVec 6) (lka : BitVec 2) (s : State) : Host.Outcome State Fault Refusal :=
  perform (.ret gr a lka) (jumpTo gr a lka 2 false) s

/-- EXIT (R217): the executing lanes whose guard is true retire. -/
def execExitL (gr : Grp) (s : State) : Host.Outcome State Fault Refusal :=
  perform (.exitL gr) (fun s =>
    let m := s.cur.active gr
    let s := emitCur s 9 (leBytes 4 m.toNat)
    let s := endGroup gr s
    let gone := fun (l : Fin 32) => if m.getLsbD l.val then { s.cur.threads[l] with ray := none } else s.cur.threads[l]
    let s := { s with cur := { s.cur with live := s.cur.live &&& ~~~m, threads := Vector.ofFn gone } }
    (afterExit s s.core.id s.cur, .done)) s

/-- YIELD (R217): the warp leaves the active set, pending and ready. -/
def execYield (gr : Grp) (s : State) : Host.Outcome State Fault Refusal :=
  perform (.yield gr) (fun s =>
    let on := s.cur.active gr ≠ 0
    let s := endGroup gr s
    (if on then { s with cur := { s.cur with wait := .yield } } else s, .done)) s

/-- NOP (R217). -/
def execNop (gr : Grp) (s : State) : Host.Outcome State Fault Refusal := perform (.nop gr) (fun s => (endGroup gr s, .done)) s

/-! ## Microprograms -/

/-- The operations of a control-store slot as the issuing warp's core holds them for its launch (R218, R220, R372). -/
def microSlot (s : State) (n : Nat) : Option (Vector Dword 32) :=
  if n < 48 then (if s.core.microOwner = some s.cur.launch then assoc n s.core.micro else none)
  else if s.mgmt.lichen.cpres.getLsbD (n - 48) then s.mgmt.lichen.micro[n - 48]? else none

/-- The warp enters a microprogram (R221); what a trap restores is kept. -/
def enterMicro (w : Warp) (g : Grp) (slot : Nat) (params : Nat × Nat × Nat) : Micro :=
  { slot := slot, params := params, exec := w.active g, caller := w.executing, after := nextPc w g, sw := g.sw,
    tmask := w.tmask, partw := w.partw, v := w.v, p := w.p, s := w.s, t := w.t, acc := w.acc }

/-- MCALL (R218, R221): the warp's next groups are the microprogram's operations, until MRET commits. -/
def execMcall (gr : Grp) (ptwo : BitVec 5) (pone : BitVec 6) (pzero : BitVec 6) (slot : BitVec 6) (s : State) : Host.Outcome State Fault Refusal :=
  perform (.mcall gr ptwo pone pzero slot) (fun s =>
    if s.cur.active gr = 0 then (endGroup gr s, .done)
    else if slot.toNat ≥ 48 then (s, .trap (trap 0x03 0x02))
    else if (microSlot s slot.toNat).isNone then (s, .trap (trap 0x01 0x01))
    else ({ s with cur := { s.cur with micro := some (enterMicro s.cur gr slot.toNat (pzero.toNat, pone.toNat, ptwo.toNat)) } }, .done)) s

/-- The commit of a microprogram (R221, R376): the next repetition of an emulation begins, or the caller's lanes go on. -/
def commitMicro (s : State) (m : Micro) : State :=
  let w := s.cur
  if m.rep + 1 < m.reps then
    let (x, y, z) := m.params
    let (dx, dy, dz) := m.strides
    { s with cur := { w with resume := none, micro := some { m with
        rep := m.rep + 1, op := 0, params := (x + dx, y + dy, z + dz), tmask := w.tmask, partw := w.partw, v := w.v, p := w.p, s := w.s, t := w.t, acc := w.acc } } }
  else
    let w := { w with micro := none, resume := none }.goto m.caller m.after
    { s with cur := if m.sw && outstanding s s.core.id w then { w with wait := .results } else w }

/-- MRET (R218): ends a microprogram; outside one trap 0x01, subcode 0x07. -/
def execMret (gr : Grp) (s : State) : Host.Outcome State Fault Refusal :=
  perform (.mret gr) (fun s =>
    match s.cur.micro with
    | none => if s.cur.active gr = 0 then (endGroup gr s, .done) else (s, .trap (trap 0x01 0x07))
    | some m => if s.cur.active gr = 0 then (endGroup gr s, .done) else (commitMicro s m, .done)) s

/-- The parameters of an emulated base word (R375). -/
def emulationParams (g : Grp) (word : Word) (psel : Bool) : Nat × Nat × Nat :=
  (bits word 22 17, bits word 16 11, if psel then g.cReg.toNat else bits word 8 3)

/-- The checks of a group that is emulated, in the order of R184: of its hints as R375 puts them, then of their fields (R179). -/
def emulationErr (g : Grp) (psel : Bool) : Option Trap :=
  if g.imms ≠ [] then some (trap 0x04 0x04)
  else if !psel && (g.cReg ≠ 0 || g.lkc ≠ 0) then some (trap 0x04 0x04)
  else if psel && g.src.isNone then some (trap 0x04 0x05)
  else if !hintFieldsOk .v3 g then some (trap 0x01 0x03)
  else none

/-- LICHEN_EMULATION (R375, R376): a claimed or emulated group is performed by its control-store slot. -/
def execLichenEmulation (g : Grp) (word : Word) (cslot : BitVec 6) (psel : Bool) (s : State) : Host.Outcome State Fault Refusal :=
  if !s.cur.present || s.cur.executing = 0 then .next s
  else
    let s := { s with cur := { s.cur with wait := .none, base := some word, grp := g } }
    match emulationErr g psel <|> (if cslot.toNat < 48 || (microSlot s cslot.toNat).isNone then some (trap 0x38 0x80) else none) with
    | some t => .next (pumpRecords (takeTrap s t))
    | none =>
      if s.cur.active g = 0 then (let s := endGroup g s; .next { s with cur := s.cur.unpark })
      else
        let w := s.cur
        let d := match g.rep with | some r => (r.sd.toNat, r.sa.toNat, r.sb.toNat) | none => (0, 0, 0)
        let r0 := match w.resume with | some r => if r.pc = w.pc then r.mrep else 0 | none => 0
        let (x, y, z) := emulationParams g word psel
        let m := { enterMicro w g cslot.toNat (x + r0 * d.1, y + r0 * d.2.1, z + r0 * d.2.2) with
          emulated := true, mods := g.mod.map fun h => { h with cpol := 0, off16 := 0 }, rep := r0, reps := reps g, strides := d }
        let s := emitCur s 6 (leBytes 8 (basePc w g).toNat ++ leBytes 4 word.toNat ++ [3])
        .next { s with cur := { w.unpark with micro := some m } }

/-! ## Fetch traps -/

/-- The trap of a group that is not an instruction (R183, R191). -/
def decTrap : DecErr → Trap
  | .unassigned => trap 0x01 0x00
  | .reservedField => trap 0x01 0x01
  | .lastUse => trap 0x01 0x02
  | .hintReserved => trap 0x01 0x03
  | .unclaimed => trap 0x01 0x04
  | .hintSwitch => trap 0x04 0x00
  | .fourthHint => trap 0x04 0x01
  | .hintNoInstr => trap 0x04 0x02
  | .hintRepeated => trap 0x04 0x03
  | .hintNotAccepted => trap 0x04 0x04
  | .missingSource => trap 0x04 0x05
  | .truncated => trap 0x04 0x02

/-- ILLEGAL_INSTRUCTION (R183, R190, R191): the group's trap, precisely. -/
def execIllegalInstruction (e : DecErr) (_hints : Nat) (s : State) : Host.Outcome State Fault Refusal :=
  if !s.cur.present || s.cur.executing = 0 then .next s else .next (pumpRecords (takeTrap s (decTrap e)))

/-- INSTRUCTION_FETCH_FAULT (R184): the first word's own trap, or fetch straddle with the underlying code and subcode. No base
word was delivered (R378). -/
def execInstructionFetchFault (first : Bool) (t : Trap) (s : State) : Host.Outcome State Fault Refusal :=
  if !s.cur.present || s.cur.executing = 0 then .next s
  else
    let s := if s.cur.inMicro then s else { s with cur := { s.cur with base := none, grp := {} } }
    let t := { t with lanes := s.cur.executing }
    .next (pumpRecords (takeTrap s (if first then t else { t with code := 0x13, sub := t.code, usub := t.sub })))

end Sys2Proof.Machine
end

