-- ==== Sys2Proof/Machine/System.lean ====
section
/-! DEFINITION. System instructions: TRAP, BKPT, RTI, TMASK, SYSRD, SYSWR, TLBINV (R43, R56, R288 to R291, R396, R425, R447). -/

namespace Sys2Proof.Machine

/-- TRAP (R288). -/
def execTrapI (gr : Grp) (c : BitVec 8) (s : State) : Host.Outcome State Fault Refusal :=
  perform (.trapI gr c) (fun s =>
    if s.cur.active gr = 0 then (endGroup gr s, .done)
    else (s, .trapAfter { trap 0x08 c.toNat with lanes := s.cur.executing })) s

/-- BKPT (R288). -/
def execBkpt (gr : Grp) (c : BitVec 8) (s : State) : Host.Outcome State Fault Refusal :=
  perform (.bkpt gr c) (fun s =>
    if s.cur.active gr = 0 then (endGroup gr s, .done)
    else (s, .trapAfter { trap 0x09 c.toNat with lanes := s.cur.executing })) s

/-- RTI (R289, R393). -/
def execRti (gr : Grp) (s : State) : Host.Outcome State Fault Refusal :=
  perform (.rti gr) (fun s =>
    if s.cur.active gr = 0 then (endGroup gr s, .done)
    else if !s.cur.inhdl then (s, .trap (trap 0x03 0x05))
    else
      let s := emitCur s 8 []
      ({ s with cur := { (returnFromTrap s.cur).unpark with failed := none } }, .raw)) s

/-- TMASK (R289). -/
def execTmask (gr : Grp) (m : BitVec 1) (s : State) : Host.Outcome State Fault Refusal :=
  perform (.tmask gr m) (fun s =>
    if s.cur.active gr = 0 then (endGroup gr s, .done)
    else if !s.cur.supervisor then (s, .trap (trap 0x03 0x00))
    else (endGroup gr { s with cur := { s.cur with tmask := m = 1 } }, .done)) s

/-! ## System registers -/

/-- SYS_TEMPO of a cluster as it reads (R447). -/
def tempoRead (x : Tempo) : Dword :=
  let freq := if x.droop || x.thermal = 2 then 3 else if x.thermal = 1 then 0 else x.step
  BitVec.ofNat 64 (x.claim.toNat + freq * 4 + bit x.grant * 16)

/-- The value SYSRD reads (R26, R290, R383, R392, R425); none for a number that names no register. -/
def sysRead (s : State) (n : Nat) : Option Dword :=
  let w := s.cur
  let l := s.curLaunch
  let m := s.mgmt
  match n with
  | 0x000 => some (BitVec.ofNat 64 (bits l.ptroot 51 0))
  | 0x001 => some (BitVec.ofNat 64 (bits l.regtab 51 10 * 1024))
  | 0x002 => some (BitVec.ofNat 64 (bits l.pkt.privb 56 0))
  | 0x003 => some (BitVec.ofNat 64 l.pkt.privsz)
  | 0x004 => some w.ctxBase
  | 0x010 => some (s.core.dropret.setWidth 64)
  | 0x011 => some (s.core.abandlk.setWidth 64)
  | 0x012 => some (tempoRead (m.tempo.getD (clusterOf s.core.id) {}))
  | 0x020 => some w.tcause
  | 0x021 => some w.tpc
  | 0x022 => some w.taddr
  | 0x023 => some w.tlanes
  | 0x030 => some (BitVec.ofNat 64 (m.gen.toNat + m.lichen.version.toNat * 2 ^ 32))
  | 0x040 => some m.dbgctl
  | 0x041 => some m.recq
  | 0x042 => some m.trbase
  | 0x043 => some m.trctl
  | 0x044 => some (BitVec.ofNat 64 s.core.trwr)
  | _ =>
    if 0x038 ≤ n ∧ n < 0x040 then some (BitVec.ofNat 64 (m.lichen.digest.toNat / 2 ^ (64 * (n - 0x38))))
    else if 0x048 ≤ n ∧ n < 0x050 then some (if n % 2 = 0 then m.waddr.getD ((n - 0x48) / 2) 0 else m.wctl.getD ((n - 0x48) / 2) 0)
    else if 0x050 ≤ n ∧ n < 0x054 then some (m.bpaddr.getD (n - 0x50) 0)
    else if 0x058 ≤ n ∧ n < 0x060 then
      let k := 2 * (n - 0x58)
      some (BitVec.ofNat 64 ((w.stalls.getD k 0).toNat + (w.stalls.getD (k + 1) 0).toNat * 2 ^ 32))
    else none

/-- SYSRD (R290): a variable-latency result. -/
def execSysrd (gr : Grp) (d : BitVec 6) (i : BitVec 11) (s : State) : Host.Outcome State Fault Refusal :=
  perform (.sysrd gr d i) (fun s =>
    warpLevel gr (fun k => sRange (repD gr d.toNat k) 1) (fun k s =>
      match (if (immOf gr i).toNat < 0x60 then sysRead s (immOf gr i).toNat else none) with
      | none => (s, .trap (trap 0x01 0x01))
      | some x => (landS s (repD gr d.toNat k) x, .done)) s) s

/-- A write of SYS_TEMPO's claim (R447). -/
def tempoWrite (m : Mgmt) (cluster : Nat) (claim : BitVec 2) : Mgmt :=
  let x := m.tempo.getD cluster {}
  let x := { x with claim := claim, age := if claim = 0 then none else x.age }
  { m with tempo := m.tempo.setIfInBounds cluster x }

/-- The effect of SYSWR on a register, or its trap (R26, R290, R425, R427, R447). -/
def sysWrite (s : State) (n : Nat) (x : Dword) : Except Trap State :=
  let m := s.mgmt
  let readOnly : Except Trap State := .error (trap 0x03 0x01)
  let sup := s.cur.supervisor
  let set := fun (m : Mgmt) => (if sup then .ok { s with mgmt := m } else .error (trap 0x03 0x01) : Except Trap State)
  if (sysRead s n).isNone then .error (trap 0x01 0x01)
  else
    match n with
    | 0x010 => if sup then .ok { s with core := { s.core with dropret := lo32 x } } else readOnly
    | 0x011 => if sup then .ok { s with core := { s.core with abandlk := lo32 x } } else readOnly
    | 0x012 =>
      if !sup then readOnly
      else if bits x 63 5 ≠ 0 ∨ bits x 1 0 = 3 then .error (trap 0x01 0x01)
      else .ok { s with mgmt := tempoWrite m (clusterOf s.core.id) (x.setWidth 2) }
    | 0x040 => set { m with dbgctl := x &&& 3 }
    | 0x041 => set { m with recq := BitVec.ofNat 64 (x.toNat / 64 * 64) }
    | 0x042 => set { m with trbase := BitVec.ofNat 64 (x.toNat / 4096 * 4096) }
    | 0x043 => set { m with trctl := BitVec.ofNat 64 (bits x 36 0) }
    | _ =>
      if 0x048 ≤ n ∧ n < 0x050 then
        if n % 2 = 0 then set { m with waddr := m.waddr.setIfInBounds ((n - 0x48) / 2) (BitVec.ofNat 64 (bits x 56 0)) }
        else if !sup then readOnly
        else if bits x 11 9 ≠ 0 ∨ bits x 63 24 ≠ 0 ∨ bits x 8 4 < 2 ∨ bits x 8 4 > 21 then .error (trap 0x01 0x01)
        else set { m with wctl := m.wctl.setIfInBounds ((n - 0x48) / 2) x }
      else if 0x050 ≤ n ∧ n < 0x054 then
        set { m with bpaddr := m.bpaddr.setIfInBounds (n - 0x50) (BitVec.ofNat 64 (bits x 56 2 * 4 + bits x 0 0)) }
      else readOnly

/-- SYSWR (R290). -/
def execSyswr (gr : Grp) (a : BitVec 6) (i : BitVec 11) (s : State) : Host.Outcome State Fault Refusal :=
  perform (.syswr gr a i) (fun s =>
    warpLevel gr (fun k => sRange (repA gr a.toNat k) 1) (fun k s =>
      if (immOf gr i).toNat ≥ 0x60 then (s, .trap (trap 0x01 0x01))
      else
        match sysWrite s (immOf gr i).toNat (s.cur.getS (repA gr a.toNat k)) with
        | .error t => (s, .trap t)
        | .ok s => (s, .done)) s) s

/-! ## Shootdowns -/

/-- A page of a virtual address is covered by a shootdown (R291). -/
def Shootdown.covers (x : Shootdown) (va page : Nat) : Bool :=
  x.bytes ≠ 0 && x.lo < va / page * page + page && va / page * page < x.lo + x.bytes

/-- The launch runs under the space of a shootdown. -/
def Shootdown.inSpace (s : State) (x : Shootdown) (launch : Word) : Bool :=
  match s.launchOf launch with | some l => bits l.ptroot 11 0 = x.space.toNat | none => false

/-- A translation of a core that a shootdown invalidates (R43, R291). -/
def Shootdown.hits (x : Shootdown) (e : TlbEntry) : Bool := e.space = x.space.toNat && x.covers e.va e.bytes

/-- A core may count a shootdown's completion (R43): no access of its warps through a page of the range waits at a home, and no line of a
running engine operation is still owned in it. Those of suspended operations are released (R396). -/
def shootdownReady (s : State) (core : Nat) (x : Shootdown) : Bool :=
  !(s.home.held.any fun h => agentCore h.req.agent = some core && x.inSpace s h.launch && x.covers h.va.toNat h.page)
    && !((s.coreAt core).copies.any fun c => c.status = .running && x.inSpace s c.launch && c.lines.any fun l => x.covers l.va l.page)

/-- What a core does before it counts (R43, R56, R63, R396): its TLBs drop their entries of the pages, its stash lines of the pages are written back and emptied, its
update-only lines of the pages leave, and owned lines of suspended operations are released. -/
def shootdownCore (s : State) (core : Nat) (x : Shootdown) : State :=
  let k := s.coreAt core
  let lines := k.stash.flatMap fun st => (st.lines.filter fun l =>
    x.covers (st.gva.toNat + l.n * 64) l.page && (match k.blocks.find? fun b => b.bslot = st.bslot with
      | some b => x.inSpace s b.launch | none => false)).map fun l => (st, l)
  let s := lines.foldl (fun s (st, l) => if l.state = 3 then stashWriteBack s k st l else s) s
  let s := s.modCore core fun k => { k with
    tlb := k.tlb.filter fun e => !x.hits e
    stash := k.stash.map fun st => { st with lines := st.lines.filter fun l => !(lines.any fun y => y.1.entry = st.entry && y.2.n = l.n) } }
  let upd := (k.upd.filter fun u => x.covers u.va u.page && x.inSpace s u.launch).map fun u => u.line
  let s := upd.foldl (fun s l => mergeUpd s core l) s
  let release := fun (c : Copy) =>
    if c.status ≠ .running ∧ x.inSpace s c.launch then { c with lines := c.lines.filter fun l => !x.covers l.va l.page, owned := c.owned && !(c.lines.any fun l => x.covers l.va l.page) } else c
  serveHeld (s.modCore core fun k => { k with copies := k.copies.map release })

/-- A core counts every shootdown that waits for it and whose conditions hold; the issuer of one that all have counted wakes
(R43, R291). -/
def shootdownComplete (s : State) (core : Nat) : State :=
  let due := s.shootdowns.filter fun x => x.wait.contains core && shootdownReady s core x
  let s := due.foldl (fun s x => shootdownCore s core x) s
  let s := { s with shootdowns := s.shootdowns.map fun x => if due.contains x then { x with wait := x.wait.filter fun c => c ≠ core } else x }
  due.foldl (fun s x =>
    if x.wait = [core] then s.modWarp x.core x.slot fun w => if w.wait = .tlbinv then w.wake else w else s) s

/-- SHOOTDOWN_CORE_COMPLETE (R43). -/
def execShootdownCoreComplete (core : Nat) (s : State) : Host.Outcome State Fault Refusal :=
  .next (pumpRecords (shootdownComplete s core))

/-- The cores that hold anything a shootdown acts on; every other core of the package counts at once. -/
def busyCores (s : State) : List Nat := (s.allCores.filter fun k => s.mgmt.clusterUp (clusterOf k.id)).map fun k => k.id

/-- TLBINV (R291): legal in supervisor mode; parks until every core addressed has counted, then writes their number. -/
def tlbinv (gr : Grp) (d : BitVec 6) (regs : Nat → Except Trap Unit) (range : Nat → Warp → Nat × Nat × Option Nat) (s : State) : State × Perf :=
  warpLevel gr (fun k => do sRange (repD gr d.toNat k) 1; regs k) (fun k s =>
    if !s.cur.supervisor then (s, .trap (trap 0x03 0x00))
    else if s.cur.woken then
      let mine := fun (x : Shootdown) => x.core = s.core.id && x.slot = s.cur.slot
      let n := match s.shootdowns.find? mine with | some x => x.count | none => 0
      ({ s with shootdowns := s.shootdowns.filter fun x => !mine x, cur := s.cur.setS (repD gr d.toNat k) (BitVec.ofNat 64 n) }, .done)
    else if releaseGate s allLanes .system = .wait then (s, .wait (.order allLanes))
    else
      let (lo, n, sp) := range k s.cur
      let x : Shootdown := { core := s.core.id, slot := s.cur.slot, space := BitVec.ofNat 12 (sp.getD (bits s.curLaunch.ptroot 11 0)),
                             lo := lo, bytes := n, wait := busyCores s, count := 128 * s.mgmt.clusters.length }
      ({ s with shootdowns := s.shootdowns ++ [x] }, .wait .tlbinv)) s

/-- TLBINV.PAGE (R291). -/
def execTlbinvPage (gr : Grp) (d : BitVec 6) (a : BitVec 6) (s : State) : Host.Outcome State Fault Refusal :=
  perform (.tlbinvPage gr d a) (tlbinv gr d (fun k => sRange (repA gr a.toNat k) 1)
    fun k w => ((w.getS (repA gr a.toNat k)).toNat, 1, none)) s
/-- TLBINV.RANGE (R291): a length of 0 invalidates nothing. -/
def execTlbinvRange (gr : Grp) (d : BitVec 6) (a : BitVec 6) (b : BitVec 6) (s : State) : Host.Outcome State Fault Refusal :=
  perform (.tlbinvRange gr d a b) (tlbinv gr d (fun k => do sRange (repA gr a.toNat k) 1; sRange (repB gr b.toNat k) 1)
    fun k w => ((w.getS (repA gr a.toNat k)).toNat, (w.getS (repB gr b.toNat k)).toNat, none)) s
/-- TLBINV.SPACE (R291). -/
def execTlbinvSpace (gr : Grp) (d : BitVec 6) (a : BitVec 6) (s : State) : Host.Outcome State Fault Refusal :=
  perform (.tlbinvSpace gr d a) (tlbinv gr d (fun k => sRange (repA gr a.toNat k) 1)
    fun k w => (0, 2 ^ 64, some (bits (w.getS (repA gr a.toNat k)) 11 0))) s

end Sys2Proof.Machine
end

