-- ==== Sys2Proof/Machine/StateMap.lean ====
section
/-! DEFINITION. What the management core reads through the state map (R443): the entries whose maps the spec fixes (R52, R68, R96, R128, R154, R372,
R447), computed from the state. Where the spec gives an area no layout of units and offsets, the one here is the model's (DESIGN CHOICE), and
what has no map reads as a free value. -/

namespace Sys2Proof.Machine

/-- The 64 bits of a map from bit `n` on. -/
def mapBits (x n : Nat) : Dword := BitVec.ofNat 64 (x / 2 ^ n)

/-- An agent identifier (R68). -/
def agentId : Agent → Nat
  | .loc c kind unit => socketOf c * 2 ^ 13 + coreInDie c * 2 ^ 5 + kind.toNat * 2 ^ 3 + unit.toNat
  | .remote n => 2 ^ 19 + n % 2 ^ 17

/-- A stash entry (R52). -/
def stashMapEntry (st : Stash) : Nat :=
  1 + bit st.rw * 2 + st.bslot * 2 ^ 4 + st.loff * 2 ^ 8 + st.len * 2 ^ 16 + bits st.gva 56 12 * 2 ^ 64

/-! ## Directory entries (R68) -/

/-- The local agents with a tracked copy of a line: cores for a stash copy or a partial, copy channels for a line they own. -/
def localHolders (s : State) (line : Nat) : List Agent :=
  s.allCores.flatMap fun k =>
    (if (k.stash.any fun st => st.lines.any fun l => l.pa = line && l.state ≠ 0) || k.upd.any (fun u => u.line = line) then [Agent.loc k.id 0 0] else [])
      ++ (k.copies.filter fun c => c.lines.any fun o => o.id = ⟨none, line⟩).map fun c => Agent.loc k.id 1 (c.chan.setWidth 3)

/-- The state of a line in its directory: 0 INV, 1 SHD, 2 EXC, 3 UPD, 4 RCL. -/
def dirState (s : State) (line : Nat) : Nat :=
  match dirAt s line with
  | some e => e.state.toNat
  | none =>
    if s.allCores.any fun k => k.upd.any fun u => u.line = line then 3
    else if (ownedBy s ⟨none, line⟩).isSome || s.allCores.any (fun k => k.stash.any fun st => st.lines.any fun l => l.pa = line && 2 ≤ l.state) then 2
    else if localHolders s line ≠ [] then 1
    else 0

/-- A directory entry (R68); a line with no tracked copy has none. -/
def dirMapEntry (s : State) (line : Nat) : Nat :=
  let here := localHolders s line
  let there := ((match dirAt s line with | some e => e.holders | none => []).filter fun a => !here.contains a)
  let ovf := here.length + there.length > 3 && here ≠ []
  let pointed := if ovf then there else here ++ there
  let ptrs := pointed.take 3
  let ptr := fun (n : Nat) => match ptrs[n]? with | some a => agentId a | none => 0
  let away := match s.home.placed.find? fun p => p.block = line / 64 with | some p => p.away.toNat / 16 * 16 + sliceOf s.mgmt (line * 64) | none => 0
  let moving := placement s (line * 64)
  let marks := if ovf then ((here.filterMap agentCore).map clusterOf).eraseDups else []
  dirState s line + bit (moving = 1 || moving = 3) * 2 ^ 3 + bit (moving ≥ 2) * 2 ^ 4 + bit ovf * 2 ^ 5 + ptrs.length * 2 ^ 6
    + away * 2 ^ 8 + bit (pointed.length > 3) * 2 ^ 15 + ptr 0 * 2 ^ 16 + ptr 1 * 2 ^ 36 + ptr 2 * 2 ^ 56
    + (marks.map fun c => 2 ^ (76 + c)).foldl (· + ·) 0

/-- The lines with a tracked copy. -/
def trackedLines (s : State) : List Nat :=
  (s.home.dir.map (fun e => e.line) ++ s.allCores.flatMap fun k =>
    (k.stash.flatMap fun st => (st.lines.filter fun l => l.state ≠ 0).map fun l => l.pa) ++ k.upd.map (fun u => u.line)
      ++ k.copies.flatMap fun c => (c.lines.filter fun o => o.id.node.isNone).map fun o => o.id.line).eraseDups

/-- Entry `n` of a slice's directory: way `n % 16` of set `n / 16`, the lines of a set in ascending order. -/
def dirMapAt (s : State) (die slice n : Nat) : Nat :=
  match (sortBy id ((trackedLines s).filter fun l => dirSet s.mgmt l = (die, slice, n / 16)))[n % 16]? with
  | some l => dirMapEntry s l
  | none => 0

/-! ## Promotion tables and handles (R96, R128) -/

/-- Entry `n` of a slice's promotion table: way `n % 8` of set `n / 8`. -/
def promMapAt (s : State) (die slice n : Nat) : Nat :=
  let mine := fun (e : Prom) =>
    dieOf s.mgmt (e.line * 64) = die && sliceOf s.mgmt (e.line * 64) = slice && promSet s.mgmt (e.line * 64) = n / 8
  match (s.home.prom.filter mine)[n % 8]? with
  | some e => 1 + coreInDie e.core * 2 + socketOf e.core * 2 ^ 9 + e.epoch.toNat * 2 ^ 16 + e.line % 2 ^ 46 * 2 ^ 64
  | none => 0

/-- An entry of a handle table (R128). -/
def handleMapEntry (h : Handle) : Nat :=
  h.state.toNat + bit h.err.isSome * 2 ^ 2 + h.chan.toNat * 2 ^ 3 + h.kind.toNat * 2 ^ 5 + h.len * 2 ^ 32 + h.deliv * 2 ^ 64
    + h.waitF.toNat * 2 ^ 96 + h.waitE.toNat * 2 ^ 128

/-- The 1,024 bytes of a block's handle table (R128). -/
def handleBytes (b : Block) : List Byte := b.handles.toList.flatMap fun h => leBytes 32 (handleMapEntry h)

/-! ## The areas -/

/-- A queue's descriptor as it reads back (R154). -/
def descWord (q : Queue) : Nat → Dword
  | 0 => BitVec.ofNat 64 (bits (q.word 0) 12 0)
  | 5 => BitVec.ofNat 64 (bits (q.word 5) 51 0)
  | n => if n < 6 then q.word n else 0

/-- A word of a core's Lichen slots, from offset 0, and of its control store, from offset 0x4000 (R218, R372). -/
def lichenWord (s : State) (core off : Nat) : Dword :=
  let p := s.mgmt.lichen
  let op := (off - 0x4000) / 8
  if off < 512 then mapBits (p.slots.toList.getD (off / 16) 0).toNat (off % 16 * 8)
  else if off < 0x4000 ∨ 0x8000 ≤ off then 0
  else if op / 32 < 48 then (((assoc (op / 32) (s.coreAt core).micro).getD (Vector.replicate 32 0)).toList.getD (op % 32) 0)
  else (p.micro.toList.getD (op / 32 - 48) (Vector.replicate 32 0)).toList.getD (op % 32) 0

/-- A bit for each unit of a list. -/
def unitMask (l : List Nat) : Dword := BitVec.ofNat 64 ((l.eraseDups.map fun n => 2 ^ n).foldl (· + ·) 0)

/-- A word of area 0x08: the errors counted of a unit (R441), the reports of a memory die at unit 0x1000 and the die (R67), the quarantine list at
unit 0x2000. -/
def errorWord (s : State) (unit word : Nat) : Option Dword :=
  let m := s.mgmt
  let recent := fun (l : List (Nat × Nat)) => BitVec.ofNat 64 (l.filter fun x => x.1 = unit && s.ticks - x.2 < 2 ^ 30).length
  if unit < 0x1000 then (match word with | 0 => some (recent m.corrected) | 1 => some (recent m.uncorrectable) | _ => none)
  else if unit < 0x2000 then (if word = 0 then some (BitVec.ofNat 64 ((assoc (unit - 0x1000) m.eccReports).getD 0)) else none)
  else if unit ≠ 0x2000 then none
  else match word with
    | 0 => some (unitMask m.badClusters)
    | 1 => some (unitMask m.badSockets)
    | 2 => some (unitMask m.badPorts)
    | _ => if 8 ≤ word && word < 24 then some (unitMask ((m.badSlices.filter fun x => x.1 = word - 8).map fun x => x.2)) else none

/-- A word of area 0x09: a cluster's register, and the permits at unit 36 (R446, R447). -/
def tempoWord (s : State) (unit : Nat) : Option Dword :=
  if unit < 36 then some (tempoRead (s.mgmt.tempo.getD unit {}))
  else if unit = 36 then some (BitVec.ofNat 64 s.mgmt.permits)
  else none

/-- A word of the context images held on chip: 128 KiB for each warp slot (R31). -/
def imageWord (s : State) (core off : Nat) : Dword :=
  match s.warpAt core (off / 0x20000) with
  | some w => BitVec.ofNat 64 (leNat (ctxBytes s core w (off % 0x20000) 8))
  | none => 0

/-- A word of the state map for which the model has a map. -/
def mapped (s : State) (area unit off : Nat) : Option Dword :=
  let entry := fun (x : Nat) => some (mapBits x (off % 16 * 8))
  match area with
  | 1 => if unit < 4096 && off < 64 then some (descWord (s.queueOf unit) (off / 8)) else none
  | 2 => some (lichenWord s unit off)
  | 3 =>
    if off < 256 then entry (match (s.coreAt unit).stash.find? fun st => st.entry = off / 16 with | some st => stashMapEntry st | none => 0) else none
  | 4 => if off < 0x200000 then entry (dirMapAt s (unit / 16) (unit % 16) (off / 16)) else none
  | 5 => if off < 0x10000 then entry (promMapAt s (unit / 16) (unit % 16) (off / 16)) else none
  | 6 =>
    if off < 0x4000 then
      some (match s.blockAt unit (off / 1024) with
        | some b => mapBits (handleMapEntry (b.handles.toList.getD (off % 1024 / 32) {})) (off % 32 * 8)
        | none => 0)
    else none
  | 7 => if off < 0x800000 then some (imageWord s unit off) else none
  | 8 => errorWord s unit (off / 8)
  | _ => if off < 8 then tempoWord s unit else none

/-- One word of the state map (R443); a free value where there is no map. -/
def stateWord (s : State) (area unit off : Nat) : State × Dword :=
  match mapped s area unit off with
  | some x => (s, x)
  | none => (let (x, s) := s.fresh; (s, x))

/-- The words of a range of the state map. -/
def stateWords (s : State) (area unit off : Nat) : Nat → State × List Byte
  | 0 => (s, [])
  | n + 1 =>
    let (s, x) := stateWord s area unit off
    let (s, r) := stateWords s area unit (off + 8) n
    (s, leBytes 8 x.toNat ++ r)

end Sys2Proof.Machine
end

