-- ==== Sys2Proof/Machine/Device.lean ====
section
/-! DEFINITION. The host's requests through inbound windows (R157), writes of device register space (R448), the mailbox and its commands
(R23, R438 to R443), relocation (R398), soft errors (R81, R441), and clocks and power (R444 to R447). -/

namespace Sys2Proof.Machine

/-! ## Register writes (R155, R334, R438, R448) -/

/-- A mailbox command is taken (R438): it runs as a step of its own, STATUS reading 1 until it ends. -/
def mailboxCommand (s : State) (cmd : Nat) : State :=
  let a := s.mgmt.arg
  let i : Option Instr := match cmd with
    | 1 => some (.keyload a[0])
    | 2 => some (.keyunload a[0])
    | 3 => some (.patch a[0])
    | 4 => some .withdraw
    | 5 => some (.attest a[0] a[1])
    | 6 => some (.scanout a[0] a[1])
    | 7 => some (.dumpwin a[0])
    | 8 => some (.stateread a[0] a[1] a[2])
    | _ => none
  match i with
  | some i => { s with mgmt := { s.mgmt with status := 1 }, inputs := s.inputs ++ [i] }
  | none => { s with mgmt := { s.mgmt with status := 2, keybuf := 0 } }

/-- A command ends with a status; KEYBUF is zeroed (R438). -/
def commandEnds (s : State) (status : Byte) : State := { s with mgmt := { s.mgmt with status := status, keybuf := 0 } }

/-- A write of the mailbox page (R438). -/
def writeMailbox (s : State) (o : Nat) (x : Dword) : State :=
  if o = 0 then (if s.mgmt.status = 1 then s else mailboxCommand s (bits x 7 0))
  else if 8 ≤ o ∧ o < 0x28 then { s with mgmt := { s.mgmt with arg := s.mgmt.arg.setIfInBounds (o / 8 - 1) x } }
  else if 0x100 ≤ o ∧ o < 0x140 then
    { s with mgmt := { s.mgmt with keybuf := linePut s.mgmt.keybuf (o - 0x100) (leBytes 8 x.toNat) } }
  else s

/-- A write of a queue's control register (R155): its bits in ascending order. -/
def writeControl (s : State) (q : Nat) (x : Dword) : State :=
  let s := if x.getLsbD 0 then preemptQueue s q else s
  let s := if x.getLsbD 1 then resumeQueue s q else s
  let s := if x.getLsbD 2 then killQueue s q else s
  if x.getLsbD 3 then clearQueue s q else s

/-- A write of eight bytes of device register space (R448); offsets that are reserved ignore it. -/
def regWrite (s : State) (pa : Nat) (x : Dword) : State :=
  if s.mgmt.boot ≠ .running then s
  else if queuePages ≤ pa ∧ pa < queuePages + 0x1000000 then
    let q := (pa - queuePages) / 4096
    match pa % 4096 with
    | 0 => writeTail s q x
    | 0x18 => writeControl s q x
    | 0x20 => waitTest s q
    | _ => s
  else if passPages ≤ pa ∧ pa < passPages + 0x1000000 then
    if pa % 4096 = 0 then openPass s ((pa - passPages) / 4096) x else s
  else if mailboxPage ≤ pa ∧ pa < mailboxPage + 4096 then writeMailbox s (pa % 4096) x
  else s

/-- REGISTER_WRITE (R448). -/
def execRegisterWrite (pa : Nat) (value : Dword) (s : State) : Host.Outcome State Fault Refusal := .next (pumpRecords (regWrite s pa value))

/-! ## Inbound requests (R157) -/

namespace Inbound
def at_ (e : Inbound) (k : Nat) : Dword := e.w.getD k 0
def reg (e : Inbound) : Bool := (e.at_ 0).getLsbD 4
def key (e : Inbound) : Nat := bits (e.at_ 0) 42 32
def rkey (e : Inbound) : Nat := bits (e.at_ 1) 31 0
def len (e : Inbound) : Nat := bits (e.at_ 1) 63 32
def hva (e : Inbound) : Nat := (e.at_ 2).toNat
def base (e : Inbound) : Nat := (e.at_ 3).toNat
/-- The entry is valid, and breaks no condition of its map. -/
def ok (e : Inbound) : Bool :=
  (e.at_ 0).getLsbD 0 && !(e.reg && ((e.at_ 0).getLsbD 3 || e.key ≠ 0)) && e.len ≠ 0 && e.hva % 4096 = 0 && e.base % 4096 = 0
    && bits (e.at_ 0) 15 6 = 0 && bits (e.at_ 0) 31 28 = 0 && bits (e.at_ 0) 63 43 = 0 && bits (e.at_ 3) 63 52 = 0
end Inbound

/-- The entry that a remote key names: the valid one with the lowest index (R157). -/
def inboundOf (f : Fabric) (rkey : Word) : Option Inbound :=
  (sortBy (fun (e : Inbound) => e.idx) (f.inbound.filter fun e => e.ok && e.rkey = rkey.toNat)).head?

/-- The kind of an inbound request. -/
inductive Rdma where
  | read (len : Nat)
  | write (d : List Byte)
  | add (x : Dword)
  | cas (e n : Dword)
  deriving DecidableEq, Repr
def Rdma.len : Rdma → Nat
  | .read n => n
  | .write d => d.length
  | _ => 8
/-- The permission bit a request needs. -/
def Rdma.bit : Rdma → Nat
  | .read _ => 1
  | .write _ => 2
  | _ => 3
def Rdma.atomic : Rdma → Bool
  | .add _ | .cas _ _ => true
  | _ => false

/-- What the checks of an inbound request come to (R157): it is refused, with which NAK, or served at a target. -/
inductive Admitted where
  | access
  | oper
  | memory (pa key : Nat)
  | register (pa : Nat)
  deriving DecidableEq, Repr

/-- The registers that inbound windows reach (R157). -/
def inboundRegister (pa : Nat) : Bool :=
  (queuePages ≤ pa && pa < queuePages + 0x1000000) || (passPages ≤ pa && pa < passPages + 0x1000000)
    || (mailboxPage ≤ pa && pa < mailboxPage + 4096)

/-- The checks of an inbound request against the entry that it matches (R157). -/
def admitRdma (s : State) (conn : Nat) (e : Option Inbound) (va : Dword) (r : Rdma) : Admitted :=
  match e with
  | none => .access
  | some e =>
    let off := va.toNat - e.hva
    let pa := e.base + off
    if !(e.at_ 0).getLsbD r.bit || !((e.at_ 0).getLsbD 5 || bits (e.at_ 0) 27 16 = conn) || va.toNat < e.hva
        || off + r.len > e.len * 4096 then .access
    else if e.reg then
      if r.len = 8 && pa % 8 = 0 && inboundRegister pa then .register pa else .access
    else if pa + r.len > 0xF000000000000 || !backed s.mgmt pa r.len || (r.atomic && pa % 8 ≠ 0) then .access
    else if !keyLoaded s.mgmt e.key then .oper
    else .memory pa e.key

/-- A refused request is counted and answered (R157). -/
def nak (s : State) (a : Sent) : State := { s with fabric := { s.fabric with naks := s.fabric.naks + 1, sent := s.fabric.sent ++ [a] } }

/-- An answer leaves by the Ethernet port (R157). -/
def answerHost (s : State) (a : Sent) : State := { s with fabric := { s.fabric with sent := s.fabric.sent ++ [a] } }

/-- The request of a part of an inbound operation to its home (R83). -/
def rdmaReq (s : State) (pa key : Nat) (op : HomeOp) : HeldReq :=
  { req := { agent := .remote s.fabric.self, holder := none, pa := pa, key := key, op := op, ret := none, warp := none } }

/-- The parts of an inbound operation. -/
def rdmaParts (s : State) (pa key : Nat) : Rdma → List HeldReq
  | .read n => (granules pa n).map fun x => rdmaReq s x.1 key (.read x.2)
  | .write d => (granules pa d.length).map fun x => rdmaReq s x.1 key (.store ((d.drop (x.1 - pa)).take x.2))
  | .add x => [rdmaReq s pa key (.rmw 1 x)]
  | .cas e n => [rdmaReq s pa key (.cas true e n)]

/-- An inbound operation on device memory is performed (R157): each part at its home; what it answers. -/
def rdmaPerform (s : State) (conn pa key : Nat) (r : Rdma) : State × Sent :=
  match r with
  | .read n =>
    match physRead s pa n key with
    | (s, .ok d) => (s, .data conn d)
    | (s, .error _) => (s, .nakOper conn)
  | .write _ =>
    let (s, ok) := (rdmaParts s pa key r).foldl (fun (s, ok) h =>
      match performReq s h with | (s, .ok _) => (s, ok) | (s, .error _) => (s, false)) (s, true)
    (s, if ok then .ack conn else .nakOper conn)
  | _ =>
    match (rdmaParts s pa key r).head? with
    | none => (s, .nakOper conn)
    | some h =>
      match performReq s h with
      | (s, .ok v) => (s, .old conn v)
      | (s, .error _) => (s, .nakOper conn)

/-- The instruction is an inbound request of a connection. -/
def ofConn (conn : Nat) : Instr → Bool
  | .rdmaRead c _ _ _ | .rdmaWrite c _ _ _ | .rdmaFetchAdd c _ _ _ | .rdmaCmpSwap c _ _ _ _ => c = conn
  | _ => false

/-- The entry of an inbound request: the one it matched when it came, while it waits (R157), else the one its remote key names now. -/
def entryOf (s : State) (i : Instr) (rkey : Word) : Option Inbound :=
  match s.fabric.admitted.find? fun x => x.1 = i with
  | some x => some x.2
  | none => inboundOf s.fabric rkey

/-- An inbound request waits, with the entry it matched. -/
def holdRdma (s : State) (i : Instr) (e : Option Inbound) : State :=
  { s with waiting := s.waiting ++ [i], fabric := { s.fabric with
      admitted := if s.fabric.admitted.any fun x => x.1 = i then s.fabric.admitted else s.fabric.admitted ++ e.toList.map fun e => (i, e) } }

/-- An inbound request has been performed or refused. -/
def dropRdma (s : State) (i : Instr) : State :=
  { s with fabric := { s.fabric with admitted := s.fabric.admitted.filter fun x => x.1 ≠ i } }

/-- An inbound request (R157). Requests of one connection are performed in order: one that a home cannot serve yet, and those after it,
wait. While the Ethernet port is disabled nothing is served (R433). -/
def rdma (i : Instr) (conn : Nat) (rkey : Word) (va : Dword) (r : Rdma) (s : State) : State :=
  if s.mgmt.boot ≠ .running then s
  else if s.waiting.any (ofConn conn) then { s with waiting := s.waiting ++ [i] }
  else
    let e := entryOf s i rkey
    let s := dropRdma s i
    match admitRdma s conn e va r with
    | .access => nak s (.nakAccess conn)
    | .oper => nak s (.nakOper conn)
    | .register pa =>
      match r with
      | .write d => answerHost (regWrite s pa (BitVec.ofNat 64 (leNat d))) (.ack conn)
      | _ => answerHost s (.data conn (leBytes 8 (regRead s pa).toNat))
    | .memory pa key =>
      let held := (rdmaParts s pa key r).filter fun h => mustWait s h s.home.held
      if held ≠ [] then holdRdma (held.foldl (fun s h => startRecall s (h.req.pa / 64) (opWrites h.req.op)) s) i e
      else
        let (s, a) := rdmaPerform s conn pa key r
        serveHeld (answerHost s a)

/-- RDMA_READ (R157). -/
def execRdmaRead (conn : Nat) (rkey : Word) (va : Dword) (len : Nat) (s : State) : Host.Outcome State Fault Refusal :=
  .next (pumpRecords (rdma (.rdmaRead conn rkey va len) conn rkey va (.read len) s))
/-- RDMA_WRITE (R157). -/
def execRdmaWrite (conn : Nat) (rkey : Word) (va : Dword) (data : List Byte) (s : State) : Host.Outcome State Fault Refusal :=
  .next (pumpRecords (rdma (.rdmaWrite conn rkey va data) conn rkey va (.write data) s))
/-- RDMA_FETCH_ADD (R157). -/
def execRdmaFetchAdd (conn : Nat) (rkey : Word) (va : Dword) (add : Dword) (s : State) : Host.Outcome State Fault Refusal :=
  .next (pumpRecords (rdma (.rdmaFetchAdd conn rkey va add) conn rkey va (.add add) s))
/-- RDMA_CMP_SWAP (R157). -/
def execRdmaCmpSwap (conn : Nat) (rkey : Word) (va : Dword) (compare : Dword) (swap : Dword) (s : State) : Host.Outcome State Fault Refusal :=
  .next (pumpRecords (rdma (.rdmaCmpSwap conn rkey va compare swap) conn rkey va (.cas compare swap) s))

/-! ## Keys (R23, R438) -/

/-- KEYLOAD (R438). -/
def execKeyload (id : Dword) (s : State) : Host.Outcome State Fault Refusal :=
  .next (if id.toNat ≥ 2048 then commandEnds s 6
    else if keyLoaded s.mgmt id.toNat then commandEnds s 5
    else commandEnds { s with mgmt := { s.mgmt with keys := assocSet id.toNat s.mgmt.keybuf s.mgmt.keys } } 0)

/-- Cached lines under a key are written back and dropped on one core (R23, R63). -/
def dropKeyAt (s : State) (key core : Nat) : State :=
  let k := s.coreAt core
  let dirty := k.stash.flatMap fun st => (st.lines.filter fun l => l.key = key && l.state = 3).map fun l => (st, l)
  let s := dirty.foldl (fun s (st, l) => stashWriteBack s k st l) s
  let s := (k.upd.filter fun u => u.key = key).foldl (fun s u => mergeUpd s core u.line) s
  s.modCore core fun k => { k with
    l1 := k.l1.filter fun l => l.key ≠ key
    stash := k.stash.map fun st => { st with lines := st.lines.filter fun l => l.key ≠ key } }

/-- The private publication lines of a launch under a key are published (R23, R77). -/
def publishKey (s : State) (key : Nat) (l : Launch) : State :=
  (publishLines s l.id none (l.pubLines.filter fun x => x.key = key)).1

/-- The render-region lines of a die under a key are written back (R23, R75). -/
def writeBackKey (s : State) (key : Nat) (d : ShadeDie) : State := writeBackLines s d (d.renderLines.filter fun x => x.2.1 = key)

/-- A cached line under a key is left, which a home holds back. -/
def keyCached (s : State) (key : Nat) : Bool :=
  (s.launches.any fun l => l.pubLines.any fun x => x.key = key) || s.geom.dies.any fun d => d.renderLines.any fun x => x.2.1 = key

/-- Every cached line under a key is written back and dropped (R23): in the cores, in private publication lines, in render-region
caches. -/
def dropKey (s : State) (key : Nat) : State :=
  let s := (s.allCores.map fun k => k.id).foldl (fun s c => dropKeyAt s key c) s
  let s := s.launches.foldl (fun s l => publishKey s key l) s
  s.geom.dies.foldl (fun s d => writeBackKey s key d) s

/-- The cores' translations that carry a key are gone (R23). -/
def dropKeyEntries (s : State) (key : Nat) : State :=
  let drop := fun (k : Core) => { k with tlb := k.tlb.filter fun x => x.leaf.key ≠ key }
  { s with core := drop s.core, cores := s.cores.map drop }

/-- KEYUNLOAD (R23, R438): accesses already on their way to a home complete under the key first, and the lines go home before the
translations. -/
def execKeyunload (id : Dword) (s : State) : Host.Outcome State Fault Refusal :=
  let wait := fun (s : State) => { s with waiting := s.waiting ++ [.keyunload id] }
  .next (pumpRecords (
    if id = 0 || !keyLoaded s.mgmt id.toNat then commandEnds s 5
    else if s.home.held.any fun h => h.node.isNone && h.req.key = id.toNat then wait s
    else
      let s := dropKey s id.toNat
      if keyCached s id.toNat then wait s
      else
        let s := dropKeyEntries s id.toNat
        commandEnds { s with mgmt := { s.mgmt with keys := s.mgmt.keys.filter fun k => k.1 ≠ id.toNat } } 0))

/-! ## The other commands (R381, R382, R437 to R440, R443) -/

/-- A command goes on once the homes of a range can serve it; until then it waits, STATUS reading 1 (R69, R438). -/
def whenServed (s : State) (i : Instr) (pa n : Nat) (write : Bool) (go : State → State) : State :=
  match physWaits s pa n write with
  | some s => { s with waiting := s.waiting ++ [i] }
  | none => go s

/-- PATCH (R381, R382). -/
def execPatch (pa : Dword) (s : State) : Host.Outcome State Fault Refusal :=
  if pa.toNat ≥ 0xF000000000000 || !backed s.mgmt pa.toNat 5184 then .next (commandEnds s 6)
  else .next (whenServed s (.patch pa) pa.toNat 5184 false fun s =>
    match physRead s pa.toNat 5184 0 with
    | (s, .error _) => commandEnds s 6
    | (s, .ok b) =>
      match patchOf b s.mgmt.flash.patchFloor s.mgmt.lichen.version with
      | .error status => commandEnds s status
      | .ok p => commandEnds { s with mgmt := { s.mgmt with staged := some p } } 0)

/-- WITHDRAW (R382). -/
def execWithdraw (s : State) : Host.Outcome State Fault Refusal := .next (commandEnds { s with mgmt := { s.mgmt with staged := none } } 0)

/-- What an attestation report measures besides the ROM and the record (R437): the firmware's digest, the patch generation and digest, the
die identifiers, the quarantine list. -/
def measured (m : Mgmt) : List Byte :=
  Config.sha512 m.flash.firmware.bytes ++ leBytes 4 m.gen.toNat ++ leBytes 64 m.lichen.digest.toNat
    ++ (List.range 18).flatMap (fun n => leBytes 32 (Config.dieId n).toNat)
    ++ (m.badClusters ++ m.badSockets ++ m.badSlices.flatMap (fun x => [x.1, x.2]) ++ m.badPorts).flatMap (leBytes 2)

/-- ATTEST (R437): the report on the 64-byte nonce is written to the buffer. -/
def execAttest (nonce : Dword) (buf : Dword) (s : State) : Host.Outcome State Fault Refusal :=
  if nonce.toNat ≥ 0xF000000000000 || !backed s.mgmt nonce.toNat 64 then .next (commandEnds s 6)
  else .next (whenServed s (.attest nonce buf) nonce.toNat 64 false fun s =>
    match physRead s nonce.toNat 64 0 with
    | (s, .error _) => commandEnds s 6
    | (s, .ok n) =>
      let d := Config.attestReport n (measured s.mgmt)
      if buf.toNat ≥ 0xF000000000000 || !backed s.mgmt buf.toNat d.length then commandEnds s 6
      else whenServed s (.attest nonce buf) buf.toNat d.length true fun s => commandEnds (physWrite s buf.toNat d 0).1 0)

/-- The head that a descriptor configures (R439). -/
def headOf (x : Nat) : Head :=
  { configured := true, surf0 := BitVec.ofNat 64 (bitsOf x 51 0), surf1 := BitVec.ofNat 64 (bitsOf x 115 64), pitch := bitsOf x 159 128
    width := bitsOf x 173 160 + 1, height := bitsOf x 187 174 + 1, fmt := x.testBit 188, hz := bitsOf x 207 192 }

/-- The reserved bits of a head descriptor are zero, its surfaces and pitch aligned (R439). -/
def headSound (x : Nat) : Bool :=
  bitsOf x 63 52 = 0 && bitsOf x 127 116 = 0 && bitsOf x 191 189 = 0 && x / 2 ^ 208 = 0
    && bitsOf x 51 0 % 64 = 0 && bitsOf x 115 64 % 64 = 0 && bitsOf x 159 128 % 64 = 0

/-- SCANOUT (R439). -/
def execScanout (head : Dword) (desc : Dword) (s : State) : Host.Outcome State Fault Refusal :=
  if head.toNat ≥ 2 || desc.toNat ≥ 0xF000000000000 || !backed s.mgmt desc.toNat 64 then .next (commandEnds s 6)
  else .next (whenServed s (.scanout head desc) desc.toNat 64 false fun s =>
    match physRead s desc.toNat 64 0 with
    | (s, .error _) => commandEnds s 6
    | (s, .ok b) =>
      let h := headOf (leNat b)
      let h := { h with blanks := s.clock * h.hz / 400000000000 }
      if !headSound (leNat b) || h.hz = 0 || !Config.headTrains b then commandEnds s 6
      else commandEnds { s with mgmt := { s.mgmt with heads := s.mgmt.heads.setIfInBounds head.toNat h } } 0)

/-- DUMPWIN (R440). -/
def execDumpwin (idx : Dword) (s : State) : Host.Outcome State Fault Refusal :=
  .next (if idx.toNat ≥ 4096 then commandEnds s 6
    else commandEnds { s with mgmt := { s.mgmt with dumpWin := some idx.toNat } } 0)

/-- STATEREAD (R443): the words are read without a side effect on what they describe. -/
def execStateread (addr : Dword) (buf : Dword) (len : Dword) (s : State) : Host.Outcome State Fault Refusal :=
  let area := bits addr 47 40
  let off := bits addr 23 0
  if bits addr 63 48 ≠ 0 || area = 0 || area > 9 || off % 8 ≠ 0 || len.toNat % 8 ≠ 0 || off + len.toNat > 0x1000000
      || buf.toNat ≥ 0xF000000000000 || !backed s.mgmt buf.toNat len.toNat then .next (commandEnds s 6)
  else .next (whenServed s (.stateread addr buf len) buf.toNat len.toNat true fun s =>
    let (s, d) := stateWords s area (bits addr 39 24) off (len.toNat / 8)
    commandEnds (physWrite s buf.toNat d 0).1 0)

/-! ## Relocation (R398) -/

/-- A warp may be relocated (R398). -/
def mayLeave (s : State) (c : Nat) (w : Warp) : Bool :=
  !w.inhdl && w.resume.isNone && w.sresume.isNone && w.micro.isNone && !outstanding s c w && jobsOf s c w = []
    && !w.threads.any fun t => t.ray.isSome

/-- A block may be relocated (R398): its images are saved, and nothing of it is outstanding. -/
def mayRelocate (s : State) (c : Nat) (b : Block) : Bool :=
  let k := s.coreAt c
  b.preempted && (s.blockWarps c b.bslot).all (mayLeave s c) && !(k.copies.any fun x => x.bslot = some b.bslot)
    && !(k.stash.any fun st => st.bslot = b.bslot) && !(s.home.locks.any fun x => x.2 = ⟨c, b.bslot, b.genLS⟩)
    && !(s.fabric.nodes.any fun n => n.locks.any fun x => x.2 = ⟨c, b.bslot, b.genLS⟩)

/-- The warps of a relocated block take slots on their new core, their tags advanced (R147, R398). -/
def moveWarps (s : State) (c bslot : Nat) : List Warp → State
  | [] => s
  | w :: r =>
    let slot := lowestFree 64 ((s.warpsOf c).map fun x => x.slot)
    let w := { w with slot := slot, bslot := bslot, away := true, genReg := freeTag (tagsOut s c slot) 256 (w.genReg + 1), genAcc := w.genAcc + 1, readyAt := s.clock }
    moveWarps (s.modCore c fun k => { k with warps := k.warps ++ [w] }) c bslot r

/-- RELOCATION (R398): a saved block's images go to another core that can hold it, where it may resume. -/
def execRelocation (launch : Nat) (block : Nat) (core : Nat) (s : State) : Host.Outcome State Fault Refusal :=
  let id : Word := BitVec.ofNat 32 launch
  let at_ := s.allCores.findSome? fun k => (k.blocks.find? fun b => b.launch = id && b.index.toNat = block).map fun b => (k.id, b)
  match at_, s.launchOf id with
  | some (c, b), some l =>
    if c = core || !mayRelocate s c b || !s.mgmt.clusterUp (clusterOf core) || !canHold s l core
        || (s.warpsOf core).length + (s.blockWarps c b.bslot).length > 64 then .next s
    else
      match loadMicro s l core with
      | .error s => .next s
      | .ok s =>
      let ws := s.blockWarps c b.bslot
      let s := ws.foldl (fun s w => if w.away then s else imageOut s c w.slot) s
      let s := ws.foldl (fun s w => leaveActive ((saveGens s c w).removeWarp c w.slot) c w.slot) s
      let s := s.modCore c fun k => { k with
        blocks := k.blocks.filter fun x => x.bslot ≠ b.bslot, genLSs := assocSet b.bslot (b.genLS + 1) k.genLSs }
      let bslot := lowestFree 16 ((s.coreAt core).blocks.map fun x => x.bslot)
      let s := s.setBlock core { b with bslot := bslot, genLS := b.genLS + 1, resumable := true }
      .next { moveWarps s core bslot ws with placeDue := true }
  | _, _ => .next s

/-! ## Soft errors (R81, R441) -/

/-- The number by which the errors of a unit are counted: a cluster, or a slice (die, slice). -/
def errorUnit (m : Mgmt) : SoftArray → Nat
  | .registers c _ | .localStore c _ | .l1 c _ => clusterOf c
  | .slice pa _ _ => 64 + dieOf m pa * 16 + sliceOf m pa
  | .directory line _ _ => 64 + dieOf m (line * 64) * 16 + sliceOf m (line * 64)

/-- An error is counted; a unit with too many in 2^30 ticks is quarantined (R441). -/
def countError (s : State) (unit : Nat) (uncorrectable : Bool) : State :=
  let now := s.ticks
  let recent := fun (l : List (Nat × Nat)) => l.filter (fun x => now - x.2 < 2 ^ 30) ++ [(unit, now)]
  let s := if uncorrectable then { s with mgmt := { s.mgmt with uncorrectable := recent s.mgmt.uncorrectable } }
    else { s with mgmt := { s.mgmt with corrected := recent s.mgmt.corrected } }
  let n := ((if uncorrectable then s.mgmt.uncorrectable else s.mgmt.corrected).filter fun x => x.1 = unit).length
  if n < (if uncorrectable then 2 else 1024) then s
  else if unit < 64 then quarantineCluster s unit
  else quarantineSlice s ((unit - 64) / 16) ((unit - 64) % 16)

/-- A warp takes trap 0x40 at its group. -/
def softTrap (s : State) (c slot : Nat) (sub : BitVec 8) : State :=
  match s.warpAt c slot with
  | some _ => let s := s.focus c slot; takeTrap s (trap 0x40 sub.toNat)
  | none => s

/-- What an uncorrectable error does (R81). -/
def uncorrectable (s : State) : SoftArray → State
  | .registers c slot => softTrap s c slot 0
  | .localStore c (.warp slot) => softTrap s c slot 1
  | .localStore c (.chan n) =>
    match (s.coreAt c).copies.find? fun x => x.chan.toNat = n with
    | some x => failCopy s c x (trapAt 100 0x40 1 x.dst)
    | none => s
  | .localStore c (.job e) =>
    match (s.coreAt c).jobs.find? fun j => j.entry = e with
    | some j => failJob s c j (trap 0x40 1)
    | none => s
  | .localStore c (.ray slot l) =>
    match (s.warpAt c slot).bind fun w => w.threads[l].ray with
    | some r => let s := s.focus c slot; rayFail s l r (trap 0x40 1)
    | none => s
  | .localStore _ _ => s
  | .l1 c line => s.modCore c fun k => l1Drop k line
  | .slice pa c slot => softTrap (poisonAt s pa) c slot 2
  | .directory line c slot =>
    let e := (dirAt s line).getD { line := line, state := 0 }
    let holders := join e.holders (join (localHolders s line) (s.fabric.nodes.map fun n => Agent.remote n.node))
    let s := recallLine (poisonAt s (line * 64)) line true
    let s := setDir s { e with state := 4, holders := holders, awaited := holders.filter (fun a => (agentNode a).isSome), since := s.clock, keep := false, reported := [] }
    let s := sendOut s (holders.filterMap fun h => (agentNode h).map fun n => Sent.invalidate line n)
    let s := match dirAt s line with
      | some e => if e.awaited = [] then setDir s { e with state := 0, holders := [] } else s
      | none => s
    softTrap s c slot 2

/-- SOFT_ERROR (R81, R441). -/
def execSoftError (e : SoftErr) (s : State) : Host.Outcome State Fault Refusal :=
  let s := if e.uncorrectable then uncorrectable s e.arr else s
  .next (pumpRecords (countError s (errorUnit s.mgmt e.arr) e.uncorrectable))

/-! ## Clocks and power (R444 to R447) -/

/-- The clock of a cluster at its step from now on (R444 to R446): 4.0, 4.2 or 4.4 GHz; under droop or heat a rate between 3.2 and 4.0 GHz
(`slow`, in fortieths of the timebase). What it has counted stays. -/
def Tempo.retime (now slow : Nat) (x : Tempo) : Tempo :=
  { x with
    cycles := x.cycles + x.rate * (now - x.since), since := now
    rate := if x.droop || x.thermal = 2 then slow else if x.thermal = 1 then 40 else 40 + 2 * x.step }

/-- The clock control of a cluster changes (R444, R445): how slow it runs under droop or heat is a free value. -/
def modTempo (s : State) (cl : Nat) (f : Tempo → Tempo) : State :=
  let (x, s) := s.fresh
  { s with mgmt := { s.mgmt with
      tempo := s.mgmt.tempo.setIfInBounds cl ((f (s.mgmt.tempo.getD cl {})).retime s.clock (32 + x.toNat % 8)) } }

/-- DROOP and DROOP_RECOVERY (R444). -/
def execDroop (cluster : Nat) (s : State) : Host.Outcome State Fault Refusal := .next (modTempo s cluster fun x => { x with droop := true })
def execDroopRecovery (cluster : Nat) (s : State) : Host.Outcome State Fault Refusal :=
  .next (modTempo s cluster fun x => { x with droop := false })

/-- THERMAL_STEP_DOWN (R445): to 4.0 GHz, then below. -/
def execThermalStepDown (cluster : Nat) (s : State) : Host.Outcome State Fault Refusal :=
  .next (modTempo s cluster fun x => { x with thermal := Nat.min 2 (x.thermal + 1) })
/-- THERMAL_RECOVERY (R445). -/
def execThermalRecovery (cluster : Nat) (s : State) : Host.Outcome State Fault Refusal :=
  .next (modTempo s cluster fun x => { x with thermal := 0 })

/-- OVERTEMP_STOP (R445). -/
def execOvertempStop (s : State) : Host.Outcome State Fault Refusal :=
  .next (replaceMe { s with mgmt := { s.mgmt with stopped := true } })

/-- One cluster at a boundary (R446): a claim that finds a permit runs its clock; any other steps down one step. -/
def tempoCluster (p : Nat × Vector Tempo 36) (n : Nat) : Nat × Vector Tempo 36 :=
  let x := p.2.getD n {}
  if x.claim ≠ 0 && p.1 > 0 then (p.1 - 1, p.2.setIfInBounds n { x with grant := true, step := x.claim.toNat })
  else (p.1, p.2.setIfInBounds n { x with grant := false, step := x.step - 1 })

/-- The boundary (R446), the clocks following the steps: refill, grants, oldest claim first, and step-down. -/
def tempoBoundary (m : Mgmt) (now b : Nat) (powerLow : Bool) : Mgmt :=
  let permits := if powerLow then Nat.min 64 (m.permits + 1) else m.permits
  let tempo := m.tempo.map fun x => if x.claim ≠ 0 && x.age.isNone then { x with age := some b } else x
  let order := sortBy (fun n => ((tempo.getD n {}).age.getD b) * 64 + n) (List.range 36)
  let (permits, tempo) := order.foldl tempoCluster (permits, tempo)
  { m with permits := permits, tempo := tempo.map fun x => x.retime now x.rate, boundary := b }

/-- The reports of the memory devices' on-die ECC since the last boundary, a free number for each memory die, are counted (R67): they raise no
trap. -/
def countReports (s : State) : State :=
  (List.range s.mgmt.memDies.length).foldl (fun s n =>
    let (x, s) := s.fresh
    { s with mgmt := { s.mgmt with eccReports := assocSet n ((assoc n s.mgmt.eccReports).getD 0 + x.toNat) s.mgmt.eccReports } }) s

/-- TEMPO_BOUNDARY (R446), every 5 us of %clock. -/
def execTempoBoundary (powerLow : Bool) (s : State) : Host.Outcome State Fault Refusal :=
  .next (countReports { s with mgmt := tempoBoundary s.mgmt s.clock (s.ticks / 5000) powerLow })

end Sys2Proof.Machine
end

