-- ==== Sys2Proof/Machine/Dump.lean ====
section
/-! DEFINITION. Core images of a killed process (R432, R440). -/

namespace Sys2Proof.Machine

/-- An ELF note (R432): its head of three words, the owner name ROISK, and its bytes, each padded to a multiple of 4. -/
def elfNote (ty : Nat) (d : List Byte) : List Byte :=
  leBytes 4 6 ++ leBytes 4 d.length ++ leBytes 4 ty ++ [0x52, 0x4F, 0x49, 0x53, 0x4B, 0, 0, 0] ++ d ++ List.replicate ((4 - d.length % 4) % 4) 0

/-- What every note begins with: LAUNCH, BLOCK and WARP (R432). -/
def noteHead (launch block : Word) (warp : Nat) : List Byte := leBytes 4 launch.toNat ++ leBytes 4 block.toNat ++ leBytes 2 warp

/-- A note whose layout is not given: free bytes after its head. -/
def freeNote (s : State) (ty : Nat) (head : List Byte) : State × List Byte :=
  ({ s with free := s.free + 1 }, elfNote ty (head ++ Config.noteBytes ty s.free))

/-- The notes of a warp: its context image, with the running handler's lpc in a handler, and its stall counters (R432). -/
def warpNotes (s : State) (c : Nat) (w : Warp) : List Byte :=
  let h := noteHead w.launch w.block w.idx
  let lpc := if w.inhdl then w.lpc.toList.flatMap fun x => leBytes 8 x.toNat else []
  elfNote 1 (h ++ ctxBytes s c (wholeWarp s w) 0 0x20000 ++ lpc) ++ elfNote 6 (h ++ w.stalls.toList.flatMap fun x => leBytes 4 x.toNat)

/-- The notes of a block and of its warps (R432). -/
def blockNotes (s : State) (c : Nat) (b : Block) : State × List Byte :=
  let h := noteHead b.launch b.index 0xFFFF
  let (s, n4) := freeNote s 4 h
  let (s, n5) := freeNote s 5 h
  (s, elfNote 2 (h ++ b.local_.bytes 0 b.lsBytes) ++ elfNote 3 (h ++ handleBytes b) ++ n4 ++ n5 ++ (s.blockWarps c b.bslot).flatMap fun w => warpNotes s c w)

/-- The ELF64 header and the one PT_NOTE program header of a core image whose notes take `n` bytes (R432). -/
def elfHeader (n : Nat) : List Byte :=
  [0x7F, 0x45, 0x4C, 0x46, 2, 1, 1, 0] ++ List.replicate 8 0 ++ leBytes 2 4 ++ leBytes 2 0xB2A9 ++ leBytes 4 1 ++ leBytes 8 0 ++ leBytes 8 64
    ++ leBytes 8 0 ++ leBytes 4 0 ++ leBytes 2 64 ++ leBytes 2 56 ++ leBytes 2 1 ++ leBytes 2 0 ++ leBytes 2 0 ++ leBytes 2 0
    ++ leBytes 4 4 ++ leBytes 4 4 ++ leBytes 8 120 ++ leBytes 8 0 ++ leBytes 8 0 ++ leBytes 8 n ++ leBytes 8 0 ++ leBytes 8 4

/-- The launches of the process of a launch (R432): those of the queues that have its PTROOT. None when no other queue has it. -/
def processOf (s : State) (l : Launch) : List Launch :=
  if s.queues.any fun q => q.q ≠ l.q && q.enabled && q.word 2 = l.ptroot then s.launches.filter fun x => x.ptroot = l.ptroot else []

/-- The blocks of some launches, with their cores. -/
def blocksOf (s : State) (ls : List Launch) : List (Nat × Block) :=
  s.allCores.flatMap fun k => (k.blocks.filter fun b => ls.any fun l => l.id = b.launch).map fun b => (k.id, b)

/-- The core image of a process, with the record that caused the dump (R432). -/
def coreImage (s : State) (ls : List Launch) (cause : Word × List Byte) : State × List Byte :=
  let (s, notes) := (blocksOf s ls).foldl (fun (s, d) (c, b) => let (s, n) := blockNotes s c b; (s, d ++ n)) (s, ([] : List Byte))
  let notes := elfNote 7 (noteHead cause.1 (BitVec.ofNat 32 (leNat ((cause.2.drop 20).take 4))) (leNat ((cause.2.drop 24).take 2)) ++ cause.2) ++ notes
  (s, elfHeader notes.length ++ notes)

/-- A core image goes to the dump window (R440): at offset 8, then its length at offset 0. A window whose length is not 0 takes none. -/
def writeDump (s : State) (image : List Byte) : State :=
  match s.mgmt.dumpWin.bind fun k => windowOf s.fabric true k with
  | none => s
  | some e =>
    let base := hostAddr (bits e 19 8) (bits e 127 64)
    if s.fabric.host.nat base 8 ≠ 0 then { s with mgmt := { s.mgmt with dumpsSkipped := s.mgmt.dumpsSkipped + 1 } }
    else { s with fabric := { s.fabric with host := (s.fabric.host.put (base + 8) image).put base (leBytes 8 image.length) } }

/-- A launch of the process is killed with status 0x06 (R159, R432). -/
def killProcess (s : State) (l : Launch) : State :=
  let s := killLaunch s l.id 4
  s.setQueue { s.queueOf l.q with lasterr := 6 }

/-- CORE_DUMP (R432): after a fatal fault with DUMP set, every block of the process is pre-empted, its image is written, and its
launches are killed. -/
def execCoreDump (launch : Nat) (s : State) : Host.Outcome State Fault Refusal :=
  match s.mgmt.fatal with
  | none => .next s
  | some cause =>
    if cause.1.toNat ≠ launch then .next s
    else
      let s := { s with mgmt := { s.mgmt with fatal := none } }
      let ls := match s.launchOf cause.1 with | some l => processOf s l | none => []
      if ls = [] || !s.mgmt.dbgctl.getLsbD 1 then .next s
      else
        let s := setPreempted s ((blocksOf s ls).filter fun y => !y.2.preempted) true
        let (s, image) := coreImage s ls cause
        .next (pumpRecords { (ls.foldl killProcess (writeDump s image)) with placeDue := true })

end Sys2Proof.Machine
end

