-- ==== Sys2Proof/Machine/Dispatch.lean ====
section
/-! DEFINITION. The meaning of every instruction, one direct call each. -/

namespace Sys2Proof.Machine

def exec (i : Instr) (s : State) : Host.Outcome State Fault Refusal :=
  match i with
  | .iadd gr d a lka b lkb bu => Sys2Proof.Machine.execIadd gr d a lka b lkb bu s
  | .isub gr d a lka b lkb bu => Sys2Proof.Machine.execIsub gr d a lka b lkb bu s
  | .imul gr d a lka b lkb bu => Sys2Proof.Machine.execImul gr d a lka b lkb bu s
  | .imulhiS gr d a lka b lkb bu => Sys2Proof.Machine.execImulhiS gr d a lka b lkb bu s
  | .imulhiU gr d a lka b lkb bu => Sys2Proof.Machine.execImulhiU gr d a lka b lkb bu s
  | .imad gr d a lka b lkb bu => Sys2Proof.Machine.execImad gr d a lka b lkb bu s
  | .iminS gr d a lka b lkb bu => Sys2Proof.Machine.execIminS gr d a lka b lkb bu s
  | .iminU gr d a lka b lkb bu => Sys2Proof.Machine.execIminU gr d a lka b lkb bu s
  | .imaxS gr d a lka b lkb bu => Sys2Proof.Machine.execImaxS gr d a lka b lkb bu s
  | .imaxU gr d a lka b lkb bu => Sys2Proof.Machine.execImaxU gr d a lka b lkb bu s
  | .iabs gr d a lka => Sys2Proof.Machine.execIabs gr d a lka s
  | .andV gr d a lka b lkb bu => Sys2Proof.Machine.execAndV gr d a lka b lkb bu s
  | .orV gr d a lka b lkb bu => Sys2Proof.Machine.execOrV gr d a lka b lkb bu s
  | .xorV gr d a lka b lkb bu => Sys2Proof.Machine.execXorV gr d a lka b lkb bu s
  | .shl gr d a lka b lkb bu => Sys2Proof.Machine.execShl gr d a lka b lkb bu s
  | .shr gr d a lka b lkb bu => Sys2Proof.Machine.execShr gr d a lka b lkb bu s
  | .sar gr d a lka b lkb bu => Sys2Proof.Machine.execSar gr d a lka b lkb bu s
  | .bfe gr d a lka b lkb bu => Sys2Proof.Machine.execBfe gr d a lka b lkb bu s
  | .bfi gr d a lka b lkb bu => Sys2Proof.Machine.execBfi gr d a lka b lkb bu s
  | .popc gr d a lka => Sys2Proof.Machine.execPopc gr d a lka s
  | .clz gr d a lka => Sys2Proof.Machine.execClz gr d a lka s
  | .icmp gr p c a lka b lkb bu => Sys2Proof.Machine.execIcmp gr p c a lka b lkb bu s
  | .sel gr d a lka b lkb bu => Sys2Proof.Machine.execSel gr d a lka b lkb bu s
  | .mov gr d a lka => Sys2Proof.Machine.execMov gr d a lka s
  | .movi gr d imm => Sys2Proof.Machine.execMovi gr d imm s
  | .iaddi gr d a lka ix => Sys2Proof.Machine.execIaddi gr d a lka ix s
  | .andi gr d a lka ix => Sys2Proof.Machine.execAndi gr d a lka ix s
  | .ori gr d a lka ix => Sys2Proof.Machine.execOri gr d a lka ix s
  | .xori gr d a lka ix => Sys2Proof.Machine.execXori gr d a lka ix s
  | .andni gr d a lka ix => Sys2Proof.Machine.execAndni gr d a lka ix s
  | .shli gr d a lka ix => Sys2Proof.Machine.execShli gr d a lka ix s
  | .shri gr d a lka ix => Sys2Proof.Machine.execShri gr d a lka ix s
  | .sari gr d a lka ix => Sys2Proof.Machine.execSari gr d a lka ix s
  | .roti gr d a lka ix => Sys2Proof.Machine.execRoti gr d a lka ix s
  | .fadd gr d a lka b lkb bu => Sys2Proof.Machine.execFadd gr d a lka b lkb bu s
  | .fsub gr d a lka b lkb bu => Sys2Proof.Machine.execFsub gr d a lka b lkb bu s
  | .fmul gr d a lka b lkb bu => Sys2Proof.Machine.execFmul gr d a lka b lkb bu s
  | .ffma gr d a lka b lkb bu => Sys2Proof.Machine.execFfma gr d a lka b lkb bu s
  | .fmin gr d a lka b lkb bu => Sys2Proof.Machine.execFmin gr d a lka b lkb bu s
  | .fmax gr d a lka b lkb bu => Sys2Proof.Machine.execFmax gr d a lka b lkb bu s
  | .fcmp gr p c a lka b lkb bu => Sys2Proof.Machine.execFcmp gr p c a lka b lkb bu s
  | .fclass gr d a lka => Sys2Proof.Machine.execFclass gr d a lka s
  | .frnd gr d a lka => Sys2Proof.Machine.execFrnd gr d a lka s
  | .f2i gr d a lka u => Sys2Proof.Machine.execF2i gr d a lka u s
  | .i2f gr d a lka u => Sys2Proof.Machine.execI2f gr d a lka u s
  | .fcvt gr d a lka r t q => Sys2Proof.Machine.execFcvt gr d a lka r t q s
  | .hadd2 gr d a lka b lkb bu => Sys2Proof.Machine.execHadd2 gr d a lka b lkb bu s
  | .hmul2 gr d a lka b lkb bu => Sys2Proof.Machine.execHmul2 gr d a lka b lkb bu s
  | .hfma2 gr d a lka b lkb bu => Sys2Proof.Machine.execHfma2 gr d a lka b lkb bu s
  | .dot4 gr d a lka b lkb bu => Sys2Proof.Machine.execDot4 gr d a lka b lkb bu s
  | .sfu gr d a lka u => Sys2Proof.Machine.execSfu gr d a lka u s
  | .fscale gr d a lka b lkb bu => Sys2Proof.Machine.execFscale gr d a lka b lkb bu s
  | .shfl gr d a lka m r ix => Sys2Proof.Machine.execShfl gr d a lka m r ix s
  | .vote gr d a lka m n p => Sys2Proof.Machine.execVote gr d a lka m n p s
  | .matchV gr d a lka m => Sys2Proof.Machine.execMatchV gr d a lka m s
  | .redux gr d a lka o => Sys2Proof.Machine.execRedux gr d a lka o s
  | .pscan gr d a lka o e => Sys2Proof.Machine.execPscan gr d a lka o e s
  | .part gr w => Sys2Proof.Machine.execPart gr w s
  | .sget gr d e => Sys2Proof.Machine.execSget gr d e s
  | .v2s gr d a lka sx pair first lane => Sys2Proof.Machine.execV2s gr d a lka sx pair first lane s
  | .s2v gr d a p => Sys2Proof.Machine.execS2v gr d a p s
  | .pmovAnd gr d a n m p => Sys2Proof.Machine.execPmovAnd gr d a n m p s
  | .pmovOr gr d a n m p => Sys2Proof.Machine.execPmovOr gr d a n m p s
  | .pmovXor gr d a n m p => Sys2Proof.Machine.execPmovXor gr d a n m p s
  | .pmovP2v gr d a => Sys2Proof.Machine.execPmovP2v gr d a s
  | .pmovV2p gr d a lka => Sys2Proof.Machine.execPmovV2p gr d a lka s
  | .pmovP2s gr d a => Sys2Proof.Machine.execPmovP2s gr d a s
  | .pmovS2p gr d a => Sys2Proof.Machine.execPmovS2p gr d a s
  | .sadd gr d a b => Sys2Proof.Machine.execSadd gr d a b s
  | .ssub gr d a b => Sys2Proof.Machine.execSsub gr d a b s
  | .smul gr d a b f => Sys2Proof.Machine.execSmul gr d a b f s
  | .sand gr d a b => Sys2Proof.Machine.execSand gr d a b s
  | .sor gr d a b => Sys2Proof.Machine.execSor gr d a b s
  | .sxor gr d a b => Sys2Proof.Machine.execSxor gr d a b s
  | .sandn gr d a b => Sys2Proof.Machine.execSandn gr d a b s
  | .sshl gr d a b => Sys2Proof.Machine.execSshl gr d a b s
  | .sshr gr d a b => Sys2Proof.Machine.execSshr gr d a b s
  | .ssar gr d a b => Sys2Proof.Machine.execSsar gr d a b s
  | .srot gr d a b => Sys2Proof.Machine.execSrot gr d a b s
  | .scmp gr d a b w c => Sys2Proof.Machine.execScmp gr d a b w c s
  | .smov gr d a => Sys2Proof.Machine.execSmov gr d a s
  | .smovTlo gr d a => Sys2Proof.Machine.execSmovTlo gr d a s
  | .smovThi gr d a => Sys2Proof.Machine.execSmovThi gr d a s
  | .smovSlo gr d a => Sys2Proof.Machine.execSmovSlo gr d a s
  | .smovShi gr d a => Sys2Proof.Machine.execSmovShi gr d a s
  | .smovi gr d imm => Sys2Proof.Machine.execSmovi gr d imm s
  | .saddi gr d a ix => Sys2Proof.Machine.execSaddi gr d a ix s
  | .sbfe gr d a b u => Sys2Proof.Machine.execSbfe gr d a b u s
  | .smin gr d a b u => Sys2Proof.Machine.execSmin gr d a b u s
  | .smax gr d a b u => Sys2Proof.Machine.execSmax gr d a b u s
  | .spopc gr d a => Sys2Proof.Machine.execSpopc gr d a s
  | .sclz gr d a => Sys2Proof.Machine.execSclz gr d a s
  | .sctz gr d a => Sys2Proof.Machine.execSctz gr d a s
  | .sbrev gr d a => Sys2Proof.Machine.execSbrev gr d a s
  | .bra gr p n o => Sys2Proof.Machine.execBra gr p n o s
  | .brp gr p n o => Sys2Proof.Machine.execBrp gr p n o s
  | .brs gr p n o => Sys2Proof.Machine.execBrs gr p n o s
  | .jmpi gr a lka => Sys2Proof.Machine.execJmpi gr a lka s
  | .call gr p n o => Sys2Proof.Machine.execCall gr p n o s
  | .calli gr a lka => Sys2Proof.Machine.execCalli gr a lka s
  | .ret gr a lka => Sys2Proof.Machine.execRet gr a lka s
  | .exitL gr => Sys2Proof.Machine.execExitL gr s
  | .yield gr => Sys2Proof.Machine.execYield gr s
  | .nop gr => Sys2Proof.Machine.execNop gr s
  | .mcall gr ptwo pone pzero slot => Sys2Proof.Machine.execMcall gr ptwo pone pzero slot s
  | .mret gr => Sys2Proof.Machine.execMret gr s
  | .ld gr v b ix t f o => Sys2Proof.Machine.execLd gr v b ix t f o s
  | .st gr v b ix t o => Sys2Proof.Machine.execSt gr v b ix t o s
  | .ldl gr v b ix t w o => Sys2Proof.Machine.execLdl gr v b ix t w o s
  | .stl gr v b ix t w o => Sys2Proof.Machine.execStl gr v b ix t w o s
  | .ldu gr v b t f o => Sys2Proof.Machine.execLdu gr v b t f o s
  | .stu gr v b t o => Sys2Proof.Machine.execStu gr v b t o s
  | .atom gr v b ix c o => Sys2Proof.Machine.execAtom gr v b ix c o s
  | .cas gr v b ix w o => Sys2Proof.Machine.execCas gr v b ix w o s
  | .red gr v b ix c o => Sys2Proof.Machine.execRed gr v b ix c o s
  | .redHome gr v b ix c o => Sys2Proof.Machine.execRedHome gr v b ix c o s
  | .atoml gr v b ix c => Sys2Proof.Machine.execAtoml gr v b ix c s
  | .redl gr v b ix c => Sys2Proof.Machine.execRedl gr v b ix c s
  | .fenceAcq gr => Sys2Proof.Machine.execFenceAcq gr s
  | .fenceRel gr => Sys2Proof.Machine.execFenceRel gr s
  | .fenceSc gr => Sys2Proof.Machine.execFenceSc gr s
  | .cfence gr => Sys2Proof.Machine.execCfence gr s
  | .publish gr => Sys2Proof.Machine.execPublish gr s
  | .prefetch gr b ix f => Sys2Proof.Machine.execPrefetch gr b ix f s
  | .lock gr v b ix => Sys2Proof.Machine.execLock gr v b ix s
  | .unlock gr v b ix => Sys2Proof.Machine.execUnlock gr v b ix s
  | .stashMap gr d a b => Sys2Proof.Machine.execStashMap gr d a b s
  | .stashUnmap gr a => Sys2Proof.Machine.execStashUnmap gr a s
  | .ldp gr v b ix t x => Sys2Proof.Machine.execLdp gr v b ix t x s
  | .stp gr v b ix t x => Sys2Proof.Machine.execStp gr v b ix t x s
  | .acopy gr d a b => Sys2Proof.Machine.execAcopy gr d a b s
  | .axform gr d a b => Sys2Proof.Machine.execAxform gr d a b s
  | .agather gr d a b => Sys2Proof.Machine.execAgather gr d a b s
  | .bclose gr => Sys2Proof.Machine.execBclose gr s
  | .waitb gr n => Sys2Proof.Machine.execWaitb gr n s
  | .hwaitFull gr h => Sys2Proof.Machine.execHwaitFull gr h s
  | .hwaitFree gr h => Sys2Proof.Machine.execHwaitFree gr h s
  | .hsetDrain gr h => Sys2Proof.Machine.execHsetDrain gr h s
  | .hsetFree gr h => Sys2Proof.Machine.execHsetFree gr h s
  | .wptr gr d h => Sys2Proof.Machine.execWptr gr d h s
  | .bar gr => Sys2Proof.Machine.execBar gr s
  | .cbar gr => Sys2Proof.Machine.execCbar gr s
  | .nbar gr count coreScope id => Sys2Proof.Machine.execNbar gr count coreScope id s
  | .signal gr a b o => Sys2Proof.Machine.execSignal gr a b o s
  | .softintQ gr a b => Sys2Proof.Machine.execSoftintQ gr a b s
  | .softintM gr b => Sys2Proof.Machine.execSoftintM gr b s
  | .waits gr d a b c => Sys2Proof.Machine.execWaits gr d a b c s
  | .mjob gr a => Sys2Proof.Machine.execMjob gr a s
  | .mwait gr m => Sys2Proof.Machine.execMwait gr m s
  | .mwaitAll gr => Sys2Proof.Machine.execMwaitAll gr s
  | .mzero gr m => Sys2Proof.Machine.execMzero gr m s
  | .mldaTile gr d a => Sys2Proof.Machine.execMldaTile gr d a s
  | .mldaGlobal gr d a c => Sys2Proof.Machine.execMldaGlobal gr d a c s
  | .mstaTile gr d a b n => Sys2Proof.Machine.execMstaTile gr d a b n s
  | .mstaGlobal gr d a b n c => Sys2Proof.Machine.execMstaGlobal gr d a b n c s
  | .mstreamSub gr a => Sys2Proof.Machine.execMstreamSub gr a s
  | .mstreamUnsub gr a => Sys2Proof.Machine.execMstreamUnsub gr a s
  | .visemit gr d a lka b => Sys2Proof.Machine.execVisemit gr d a lka b s
  | .ldcl gr v b ix t f => Sys2Proof.Machine.execLdcl gr v b ix t f s
  | .tex gr d a lka b => Sys2Proof.Machine.execTex gr d a lka b s
  | .texfb gr d a lka b => Sys2Proof.Machine.execTexfb gr d a lka b s
  | .rtrace gr d a lka b => Sys2Proof.Machine.execRtrace gr d a lka b s
  | .rquery gr d a lka b => Sys2Proof.Machine.execRquery gr d a lka b s
  | .rtcont gr d o => Sys2Proof.Machine.execRtcont gr d o s
  | .hsort gr d a lka => Sys2Proof.Machine.execHsort gr d a lka s
  | .rpix gr op tgt a lka b lkb => Sys2Proof.Machine.execRpix gr op tgt a lka b lkb s
  | .visrd gr d smp => Sys2Proof.Machine.execVisrd gr d smp s
  | .visrdPix gr d a lka smp => Sys2Proof.Machine.execVisrdPix gr d a lka smp s
  | .cpost gr a b => Sys2Proof.Machine.execCpost gr a b s
  | .cred gr a b => Sys2Proof.Machine.execCred gr a b s
  | .cwait gr d a t => Sys2Proof.Machine.execCwait gr d a t s
  | .cjoin gr d a => Sys2Proof.Machine.execCjoin gr d a s
  | .cjoinLeave gr a => Sys2Proof.Machine.execCjoinLeave gr a s
  | .trapI gr c => Sys2Proof.Machine.execTrapI gr c s
  | .rti gr => Sys2Proof.Machine.execRti gr s
  | .bkpt gr c => Sys2Proof.Machine.execBkpt gr c s
  | .sysrd gr d ix => Sys2Proof.Machine.execSysrd gr d ix s
  | .syswr gr a ix => Sys2Proof.Machine.execSyswr gr a ix s
  | .tmask gr m => Sys2Proof.Machine.execTmask gr m s
  | .tlbinvPage gr d a => Sys2Proof.Machine.execTlbinvPage gr d a s
  | .tlbinvRange gr d a b => Sys2Proof.Machine.execTlbinvRange gr d a b s
  | .tlbinvSpace gr d a => Sys2Proof.Machine.execTlbinvSpace gr d a s
  | .lichenEmulation g word cslot psel => Sys2Proof.Machine.execLichenEmulation g word cslot psel s
  | .resultReturn core slot => Sys2Proof.Machine.execResultReturn core slot s
  | .homeRequest r => Sys2Proof.Machine.execHomeRequest r s
  | .performedAtHome core => Sys2Proof.Machine.execPerformedAtHome core s
  | .stashRecall core entry line write => Sys2Proof.Machine.execStashRecall core entry line write s
  | .updateLineRecall core line => Sys2Proof.Machine.execUpdateLineRecall core line s
  | .holderInvalidation line holder => Sys2Proof.Machine.execHolderInvalidation line holder s
  | .taggedWriteReturned core line => Sys2Proof.Machine.execTaggedWriteReturned core line s
  | .promotionRetire core epoch => Sys2Proof.Machine.execPromotionRetire core epoch s
  | .promotionQuery core slot lane => Sys2Proof.Machine.execPromotionQuery core slot lane s
  | .promotionAnswer core slot lane t => Sys2Proof.Machine.execPromotionAnswer core slot lane t s
  | .l1LeaseExpiry core line => Sys2Proof.Machine.execL1LeaseExpiry core line s
  | .migrationStart block away => Sys2Proof.Machine.execMigrationStart block away s
  | .migrationSwitch block => Sys2Proof.Machine.execMigrationSwitch block s
  | .migrationReturnStart block => Sys2Proof.Machine.execMigrationReturnStart block s
  | .migrationReturnComplete block => Sys2Proof.Machine.execMigrationReturnComplete block s
  | .ownershipPoint core chan => Sys2Proof.Machine.execOwnershipPoint core chan s
  | .shootdownCoreComplete core => Sys2Proof.Machine.execShootdownCoreComplete core s
  | .copyAccepted core slot => Sys2Proof.Machine.execCopyAccepted core slot s
  | .copyDeliver core chan => Sys2Proof.Machine.execCopyDeliver core chan s
  | .activeSetEntry core laneSet => Sys2Proof.Machine.execActiveSetEntry core laneSet s
  | .activeBound core slot => Sys2Proof.Machine.execActiveBound core slot s
  | .warpExit core slot => Sys2Proof.Machine.execWarpExit core slot s
  | .blockKill launch block => Sys2Proof.Machine.execBlockKill launch block s
  | .qtail q value => Sys2Proof.Machine.execQtail q value s
  | .qwake q => Sys2Proof.Machine.execQwake q s
  | .preempt q => Sys2Proof.Machine.execPreempt q s
  | .resume q => Sys2Proof.Machine.execResume q s
  | .kill q => Sys2Proof.Machine.execKill q s
  | .clear q => Sys2Proof.Machine.execClear q s
  | .passopen q desc => Sys2Proof.Machine.execPassopen q desc s
  | .registerWrite pa value => Sys2Proof.Machine.execRegisterWrite pa value s
  | .launchStart q => Sys2Proof.Machine.execLaunchStart q s
  | .waitItemPoll q => Sys2Proof.Machine.execWaitItemPoll q s
  | .waitsPoll core slot => Sys2Proof.Machine.execWaitsPoll core slot s
  | .placementPass => Sys2Proof.Machine.execPlacementPass s
  | .launchComplete launch => Sys2Proof.Machine.execLaunchComplete launch s
  | .jobStep core entry => Sys2Proof.Machine.execJobStep core entry s
  | .streamBlockFetch core entry => Sys2Proof.Machine.execStreamBlockFetch core entry s
  | .rayTraversalStep core slot lane => Sys2Proof.Machine.execRayTraversalStep core slot lane s
  | .faultRespPoll core unit => Sys2Proof.Machine.execFaultRespPoll core unit s
  | .trapQueuePoll q => Sys2Proof.Machine.execTrapQueuePoll q s
  | .endOfDrawToken gdie draw => Sys2Proof.Machine.execEndOfDrawToken gdie draw s
  | .tokenArrival gdie sdie draw => Sys2Proof.Machine.execTokenArrival gdie sdie draw s
  | .frondPacketArrival sdie p => Sys2Proof.Machine.execFrondPacketArrival sdie p s
  | .flushAreaMove => Sys2Proof.Machine.execFlushAreaMove s
  | .tileLaunch q tx ty => Sys2Proof.Machine.execTileLaunch q tx ty s
  | .passComplete q => Sys2Proof.Machine.execPassComplete q s
  | .joinRequest node slot desc rosterNode => Sys2Proof.Machine.execJoinRequest node slot desc rosterNode s
  | .joinReply slot ok => Sys2Proof.Machine.execJoinReply slot ok s
  | .openFlit cid frame close => Sys2Proof.Machine.execOpenFlit cid frame close s
  | .frameClose cid => Sys2Proof.Machine.execFrameClose cid s
  | .collectivePacket p => Sys2Proof.Machine.execCollectivePacket p s
  | .closeFlit cid frame => Sys2Proof.Machine.execCloseFlit cid frame s
  | .frameComplete cid frame status => Sys2Proof.Machine.execFrameComplete cid frame status s
  | .lateNotice slot frame => Sys2Proof.Machine.execLateNotice slot frame s
  | .settledBlockDown cid frame block data => Sys2Proof.Machine.execSettledBlockDown cid frame block data s
  | .verticalBlank head => Sys2Proof.Machine.execVerticalBlank head s
  | .rdmaRead conn rkey va len => Sys2Proof.Machine.execRdmaRead conn rkey va len s
  | .rdmaWrite conn rkey va data => Sys2Proof.Machine.execRdmaWrite conn rkey va data s
  | .rdmaFetchAdd conn rkey va add => Sys2Proof.Machine.execRdmaFetchAdd conn rkey va add s
  | .rdmaCmpSwap conn rkey va compare swap => Sys2Proof.Machine.execRdmaCmpSwap conn rkey va compare swap s
  | .fabricLeaseRenewal node => Sys2Proof.Machine.execFabricLeaseRenewal node s
  | .fabricLeaseExpiry => Sys2Proof.Machine.execFabricLeaseExpiry s
  | .fanoutTimeout line node => Sys2Proof.Machine.execFanoutTimeout line node s
  | .reroute line node => Sys2Proof.Machine.execReroute line node s
  | .nodeDeclaredFailed node => Sys2Proof.Machine.execNodeDeclaredFailed node s
  | .failureNotice => Sys2Proof.Machine.execFailureNotice s
  | .dieLinkFailure socket => Sys2Proof.Machine.execDieLinkFailure socket s
  | .patchActivation => Sys2Proof.Machine.execPatchActivation s
  | .relocation launch block core => Sys2Proof.Machine.execRelocation launch block core s
  | .coreDump launch => Sys2Proof.Machine.execCoreDump launch s
  | .reset => Sys2Proof.Machine.execReset s
  | .recoveryRetry => Sys2Proof.Machine.execRecoveryRetry s
  | .recoveryReadComplete fw => Sys2Proof.Machine.execRecoveryReadComplete fw s
  | .keyload id => Sys2Proof.Machine.execKeyload id s
  | .keyunload id => Sys2Proof.Machine.execKeyunload id s
  | .patch pa => Sys2Proof.Machine.execPatch pa s
  | .withdraw => Sys2Proof.Machine.execWithdraw s
  | .attest nonce buf => Sys2Proof.Machine.execAttest nonce buf s
  | .scanout head desc => Sys2Proof.Machine.execScanout head desc s
  | .dumpwin idx => Sys2Proof.Machine.execDumpwin idx s
  | .stateread addr buf len => Sys2Proof.Machine.execStateread addr buf len s
  | .softError e => Sys2Proof.Machine.execSoftError e s
  | .droop cluster => Sys2Proof.Machine.execDroop cluster s
  | .thermalStepDown cluster => Sys2Proof.Machine.execThermalStepDown cluster s
  | .overtempStop => Sys2Proof.Machine.execOvertempStop s
  | .tempoBoundary powerLow => Sys2Proof.Machine.execTempoBoundary powerLow s
  | .illegalInstruction e hints => Sys2Proof.Machine.execIllegalInstruction e hints s
  | .instructionFetchFault first t => Sys2Proof.Machine.execInstructionFetchFault first t s
  | .invalidationAcknowledgement line holder data => Sys2Proof.Machine.execInvalidationAcknowledgement line holder data s
  | .rookPortLinkFailure port => Sys2Proof.Machine.execRookPortLinkFailure port s
  | .thermalRecovery cluster => Sys2Proof.Machine.execThermalRecovery cluster s
  | .droopRecovery cluster => Sys2Proof.Machine.execDroopRecovery cluster s

end Sys2Proof.Machine
end

