-- ==== Sys2Proof/Machine/Fetch.lean ====
section
/-! DEFINITION. How the group that a warp issues is formed (R140, R180, R184): from memory, through the Lichen fetch slots (R373, R374) and
past the breakpoints (R429), or from the operations of a control-store slot (R221, R372, R375). -/

namespace Sys2Proof.Machine

/-- What forming a group comes to: an instruction to perform; a trap; a home that cannot serve the
fetch yet. -/
inductive Fetched where
  | run (i : Instr)
  | trap (t : Trap)
  | wait
  deriving DecidableEq, Repr

/-- What a fetch slot makes of a word (R373, R374). -/
inductive Delivered where
  | word (w : Word) (rewritten : Bool)
  | trap (sub : Nat)
  | emulate (cslot : Nat) (psel : Bool)
  deriving DecidableEq, Repr
def deliver (s : State) (micro : Bool) (w : Word) : Delivered :=
  match winner s.mgmt.lichen false s.cur.supervisor micro w.toNat with
  | none => .word w false
  | some x =>
    match x.act with
    | 1 => .trap (x.aword % 256)
    | 2 => .word (BitVec.ofNat 32 (x.aword % 2 ^ 31 + bits w 31 31 * 2 ^ 31)) true
    | 3 => .emulate x.cslot x.psel
    | _ => .word w false

/-- A group in the making: the hints so far, the words fetched, the PATCH packets they gave. -/
structure Forming where
  scan : Scan := {}
  n : Nat := 0
  packets : List (List Byte) := []
  deriving DecidableEq, Repr

/-- A delivered word joins the group: it goes on, or the group is complete or illegal (R180, R183, R184). -/
def Forming.take (f : Forming) (w : Word) : Forming ⊕ Instr :=
  if isHint w then
    match f.scan.hint w with
    | .ok c => .inl { f with scan := c, n := f.n + 1 }
    | .error e => .inr (.illegalInstruction e f.scan.n)
  else
    match f.scan.finish w with
    | .ok i => .inr i
    | .error e => .inr (.illegalInstruction e f.scan.n)

/-- An emulated base word (R374, R375): the group that EMULATE names, or the trap of an EMULATE winner on a hint word. -/
def Forming.emulated (f : Forming) (w : Word) (cslot : Nat) (psel : Bool) : Fetched :=
  if isHint w then .trap (trap 0x38 0x81)
  else if f.scan.reserved && (match emulationErr f.scan.g psel with | some t => t.code ≠ 4 | none => true) then
    .run (.illegalInstruction .hintReserved f.scan.n)
  else .run (.lichenEmulation { f.scan.g with sw := swOf w } w (BitVec.ofNat 6 cslot) psel)

/-! ## From memory -/

/-- The address of the `n`-th word of the group of a warp. -/
def wordAddr (w : Warp) (n : Nat) : Dword := Warp.pcOf (w.pc + BitVec.ofNat 64 (4 * n))

/-- The word of an address that the warp's instruction buffer holds (R43, R44, R107). -/
def buffered (s : State) (va : Dword) : Option Word :=
  if s.sched.walk then none else (s.cur.ibuf.find? fun x => x.1 = va).map fun x => x.2

/-- A fetched word enters the warp's instruction buffer, whose oldest of 16 words leaves (DESIGN CHOICE). -/
def keepWord (s : State) (va : Dword) (w : Word) : State :=
  if s.sched.walk then s
  else { s with cur := { s.cur with ibuf := s.cur.ibuf.drop (s.cur.ibuf.length - 15) ++ [(va, w)] } }

/-- A fetch of one word (R13, R21, R44, R80): from the instruction buffer, else its checks and a read at the home. -/
def fetchWord (s : State) (va : Dword) : State × Done Word :=
  if inAperture va then (s, .late (trapAt 20 0x12 0x02 va))
  else
    match buffered s va with
    | some w => (s, .ok w)
    | none =>
      match translate s (curCtx s) va 4 .fetch with
      | (s, .error t) => (s, lateDone t)
      | (s, .ok a) =>
        match loadAcc s (curIssuer s allLanes) a true 3 with
        | (s, .ok x) => (keepWord s va (BitVec.ofNat 32 (leNat x.bytes)), .ok (BitVec.ofNat 32 (leNat x.bytes)))
        | (s, .wait) => (s, .wait)
        | (s, .late t) => (s, .late { t with late := false })

/-- The PATCH packets of a group are written when its words have been delivered (R431). -/
def emitPatches (s : State) (f : Forming) : State := f.packets.foldl (fun s d => emitCur s 6 d) s

/-- The group at the warp's program counter, word by word (R180, R184, R373), at most `fuel` words. -/
def fetchGroup : Nat → Forming → State → State × Fetched
  | 0, _, s => (s, .run (.illegalInstruction .truncated 0))
  | fuel + 1, f, s =>
    let va := wordAddr s.cur f.n
    match fetchWord s va with
    | (s, .wait) => (s, .wait)
    | (s, .late t) => (s, .run (.instructionFetchFault (f.n = 0) t))
    | (s, .ok w) =>
      if breakAt s.mgmt va && !s.cur.skipWatch then (s, .trap { trap 0x3F 0x04 with addr := va })
      else
        match deliver s false w with
        | .trap sub => (emitPatches s f, .trap (trap 0x38 sub))
        | .emulate cslot psel => (emitPatches s f, f.emulated w cslot psel)
        | .word w' rewritten =>
          let f := if rewritten then { f with packets := f.packets ++ [leBytes 8 va.toNat ++ leBytes 4 w.toNat ++ [2]] } else f
          match f.take w' with
          | .inl f => fetchGroup fuel f s
          | .inr i => (emitPatches s f, .run i)

/-! ## From the control store -/

/-- The word of an operation with its parameters substituted (R219). -/
def substitute (x : Dword) (params : Nat × Nat × Nat) : Word :=
  let p := fun (sel : Nat) => match sel with | 1 => params.1 | 2 => params.2.1 | _ => params.2.2
  let put := fun (w lo sel : Nat) => if sel = 0 then w else w - bitsOf w (lo + 5) lo * 2 ^ lo + (bitsOf w (lo + 5) lo + p sel) % 64 * 2 ^ lo
  BitVec.ofNat 32 (put (put (put (put (bits x 31 0) 17 (bits x 33 32)) 11 (bits x 35 34)) 5 (bits x 37 36)) 3 (bits x 39 38))

/-- The format takes a HINT.MOD. -/
def takesMod (i : Instr) : Bool := match i.opcode.bind Fmt.ofOpc with | some f => f.takesMod | none => false

/-- An instruction with the rounding and saturation of the group it emulates (R375), when it has none of its own. -/
def inherit (mods : Option HMod) (i : Instr) : Instr :=
  if i.grp.mod.isNone && mods.isSome && takesMod i then (decodeBase { i.grp with mod := mods } (encodeBase i)).getD i else i

/-- The group of operations from `m.op` on (R221, R222, R374), at most `fuel` words, with how many it takes; the first entry that is not
valid ends the program. -/
def microGroup (s : State) (m : Micro) (ops : Vector Dword 32) : Nat → Forming → Fetched × Nat
  | 0, f => (.run (.illegalInstruction .truncated f.scan.n), f.n)
  | fuel + 1, f =>
    let k := m.op + f.n
    let x := ops.getD k 0
    if k ≥ 32 || !x.getLsbD 63 then (if f.n = 0 then .run (.mret {}) else .run (.illegalInstruction .hintNoInstr f.scan.n), f.n + 1)
    else
      let w := substitute x m.params
      match (if m.slot < 48 then deliver s true w else .word w false) with
      | .trap sub => (.trap (trap 0x38 sub), f.n + 1)
      | .emulate _ _ => (.trap (trap 0x02 0x04), f.n + 1)
      | .word w _ =>
        match f.take w with
        | .inl f => microGroup s m ops fuel f
        | .inr i => (.run (inherit m.mods i), f.n + 1)

/-! ## The group that is performed next -/

/-- The MASK and RECONV packets of a group's executing set (R431). -/
def traceMask (s : State) : State :=
  if s.cur.inMicro then s
  else
    let old := s.cur.lastExec
    let now := s.cur.executing
    let d := leBytes 8 s.cur.pc.toNat ++ leBytes 4 now.toNat
    let s := if old = 0 || now = old then s else emitCur s (if old &&& now = old then 4 else 3) d
    { s with cur := { s.cur with lastExec := now } }

/-- A trap that the forming of a group raises is taken at its first word; no base word was delivered (R374, R378, R429). -/
def trapForming (s : State) (t : Trap) : State :=
  let s := if s.cur.inMicro then s else { s with cur := { s.cur with base := none, grp := {} } }
  pumpRecords (takeTrap s { t with lanes := s.cur.executing })

/-- The group of the issuing warp: the one that waits to be performed again, the next of its microprogram, or the one at its program counter. -/
def nextGroup (s : State) : State × Fetched :=
  match s.cur.parked with
  | some i => (s, .run i)
  | none =>
    match s.cur.micro with
    | some m =>
      let (r, n) := microGroup s m ((microSlot s m.slot).getD (Vector.replicate 32 0)) 5 {}
      ({ s with cur := { s.cur with micro := some { m with len := n } } }, r)
    | none => fetchGroup 5 {} s

end Sys2Proof.Machine
end

