-- ==== Sys2Proof/Machine/Schedule.lean ====
section
/-! DEFINITION. What happens next when nothing comes from outside: the events of the engines, homes, queues, routers and of the management
core, each when it is due, and the warp that issues (R140, R145, R168); and what a clock does to the warps that issue nothing (R168,
R426). -/

namespace Sys2Proof.Machine

/-- The warps of the device with their cores. -/
def allWarps (s : State) : List (Nat × Warp) := s.allCores.flatMap fun k => (s.warpsOf k.id).map fun w => (k.id, w)

/-- The first of the device's warps for which an event is due. -/
def fromWarps (f : State → Nat → Warp → Option Instr) (s : State) : Option Instr := (allWarps s).findSome? fun x => f s x.1 x.2
/-- The first of the device's cores for which an event is due. -/
def fromCores (f : State → Core → Option Instr) (s : State) : Option Instr := s.allCores.findSome? (f s)

/-- The clocks between two polls (R161, R286, R389, R391). -/
def pollClocks : Nat := 4096
/-- A poll last made at a clock, or never, is due. -/
def pollDue (s : State) (at_ : Nat) : Bool := at_ = 0 || s.clock - at_ ≥ pollClocks

/-! ## Events of the cores -/

/-- COPY_ACCEPTED (R116, R129). -/
def copyAccepted : State → Option Instr :=
  fromWarps fun s c w => if !w.preempted && !w.away && acceptable s c w then some (.copyAccepted c w.slot) else none

/-- OWNERSHIP_POINT, then COPY_DELIVER, of each channel (R104, R123). -/
def copyEvents : State → Option Instr :=
  fromCores fun s k => if k.copies = [] then none else (List.range 4).findSome? fun n =>
    if (ownStep s k.id (BitVec.ofNat 2 n)).isSome then some (.ownershipPoint k.id n)
    else if (deliverStep s k.id (BitVec.ofNat 2 n)).isSome then some (.copyDeliver k.id n)
    else none

/-- JOB_STEP and STREAM_BLOCK_FETCH of each job (R300, R312). -/
def jobEvents : State → Option Instr :=
  fromCores fun s k => k.jobs.findSome? fun j =>
    if (jobStep s k.id j.entry).isSome then some (.jobStep k.id j.entry)
    else if (streamFetch s k.id j.entry).isSome then some (.streamBlockFetch k.id j.entry)
    else none

/-- RAY_TRAVERSAL_STEP of a running ray (R345). -/
def rayEvents : State → Option Instr :=
  fromWarps fun s c w => if w.preempted then none else lanes.findSome? fun l =>
    match w.threads[l].ray with
    | some r => if r.status = .running && !rayStuck s c w l r then some (.rayTraversalStep c w.slot l) else none
    | none => none
where
  /-- The ray's next access waits at a home: a step would change nothing. -/
  rayStuck (s : State) (c : Nat) (w : Warp) (l : Fin 32) (r : Ray) : Bool :=
    let t := rayStep (s.focus c w.slot) l r
    t.cur.threads[l].ray = some r && t.home.dir = s.home.dir

/-- RESULT_RETURN (R147). -/
def returnEvents : State → Option Instr :=
  fromCores fun _ k => k.returns.head?.map fun r => .resultReturn k.id r.dest.slot

/-- PROMOTION_QUERY of a lane whose token is drained (R96). -/
def promotionEvents : State → Option Instr :=
  fromWarps fun s c w => match w.wait with
    | .promote _ => lanes.findSome? fun l =>
        if w.threads[l].pending.any fun t => tokenDrained s t then some (.promotionQuery c w.slot l) else none
    | _ => none

/-- PERFORMED_AT_HOME when a core's drained epoch can move (R83, R96). -/
def performedEvents : State → Option Instr :=
  fromCores fun s k => if drainedEpoch s k.id ≠ k.drEpoch then some (.performedAtHome k.id) else none

/-- PROMOTION_RETIRE of an entry whose epoch is drained (R96). -/
def retireEvents (s : State) : Option Instr :=
  s.home.prom.findSome? fun e => if (s.coreAt e.core).isOpen e.epoch then none else some (.promotionRetire e.core e.epoch)

/-- SHOOTDOWN_CORE_COMPLETE (R43). -/
def shootdownEvents (s : State) : Option Instr :=
  s.shootdowns.findSome? fun x => (x.wait.find? fun c => shootdownReady s c x).map fun c => .shootdownCoreComplete c

/-- WARP_EXIT (R151). -/
def exitEvents : State → Option Instr :=
  fromWarps fun s c w => if w.live = 0 && !outstanding s c w && jobsOf s c w = [] then some (.warpExit c w.slot) else none

/-- L1_LEASE_EXPIRY (R58). -/
def leaseEvents : State → Option Instr :=
  fromCores fun s k => k.l1.findSome? fun l =>
    if l.dom ≠ .core && s.clock - l.filled ≥ 65536 then some (.l1LeaseExpiry k.id l.id) else none

/-- The engine stands on a fault record that is to be tested. -/
def engDue (s : State) (st : EngStatus) : Bool := match st with | .faulted _ _ p => pollDue s p | _ => false

/-- FAULT_RESP_POLL of the parked warps and units (R391). -/
def respEvents (s : State) : Option Instr :=
  (fromWarps (fun s c w =>
    if w.preempted then none
    else match w.wait with
      | .resp _ _ p => if pollDue s p then some (.faultRespPoll c (.warp w.slot)) else none
      | _ => lanes.findSome? fun l => match w.threads[l].ray with
          | some r => (match r.status with | .faulted _ _ p => if pollDue s p then some (.faultRespPoll c (.ray w.slot l)) else none | _ => none)
          | none => none) s)
  <|> fromCores (fun s k =>
    ((k.copies.find? fun x => engDue s x.status).map fun x => .faultRespPoll k.id (.chan x.chan.toNat))
    <|> ((k.jobs.find? fun j => engDue s j.status).map fun j => .faultRespPoll k.id (.job j.entry))) s

/-- WAITS_POLL (R286). -/
def waitsEvents : State → Option Instr :=
  fromWarps fun s c w => match w.wait with
    | .signal _ _ _ _ _ p => if !w.preempted && s.clock - p ≥ pollClocks then some (.waitsPoll c w.slot) else none
    | _ => none

/-- ACTIVE_BOUND, and ACTIVE_SET_ENTRY of a ready warp in a free lane set (R168, R170). -/
def activeEvents : State → Option Instr :=
  fromCores fun s k =>
    match k.active.toList.findSome? fun x => match x with | some (n, _) => if boundDue s k.id n then some n else none | none => none with
    | some n => some (.activeBound k.id n)
    | none =>
      match (List.range 8).find? fun n => (k.active.toList.getD n none).isNone with
      | some n => if readyPending s k.id ≠ [] then some (.activeSetEntry k.id n) else none
      | none => none

/-- The events of the cores and their engines, in the order they are looked for. None while the clusters stand (R445). -/
def coreEvent (s : State) : Option Instr :=
  if s.mgmt.stopped then none
  else [copyAccepted, copyEvents, jobEvents, rayEvents, returnEvents, promotionEvents, performedEvents, retireEvents, shootdownEvents,
    exitEvents, leaseEvents, respEvents, waitsEvents, activeEvents].findSome? fun f => f s

/-! ## Events of the device -/

/-- The next state of an event, when it ends in one. -/
def after (i : Host.Outcome State Fault Refusal) (s : State) : State := match i with | .next t => t | _ => s

/-- CORE_DUMP, PATCH_ACTIVATION, FLUSH_AREA_MOVE (R323, R382, R432). -/
def managementEvents (s : State) : Option Instr :=
  match s.mgmt.fatal with
  | some x => some (.coreDump x.1.toNat)
  | none =>
    if s.launches ≠ [] then none
    else if s.mgmt.staged.isSome then some .patchActivation
    else if s.mgmt.flushMove then some .flushAreaMove
    else none

/-- LAUNCH_COMPLETE and PASS_COMPLETE (R161, R336). -/
def completionEvents (s : State) : Option Instr :=
  (s.launches.findSome? fun l => if launchDone s l && (endLaunch s l).isSome then some (.launchComplete l.id.toNat) else none)
  <|> (s.geom.passes.findSome? fun p => if passDone s p && (endPass s p).isSome then some (.passComplete p.q) else none)

/-- PLACEMENT_PASS (R164). -/
def placementEvents (s : State) : Option Instr := if s.placeDue then some .placementPass else none

/-- The queues in the order the engine looks at them: by level, and round from the one of its level that last started an item (R158). -/
def queueOrder (s : State) : List Queue :=
  sortBy (fun (q : Queue) => q.prio * 4096 + (q.q + 4095 - (assoc q.prio s.levels).getD 4095) % 4096) s.queues

/-- The wait item at a queue's head is to be tested (R161). -/
def testDue (s : State) (q : Queue) : Bool :=
  if q.retryAt = 0 then q.prompt || s.clock - q.polled ≥ pollClocks else s.clock ≥ q.retryAt

/-- WAIT_ITEM_POLL of a wait item at the head, LAUNCH_START of any other item (R158, R161). -/
def queueEvents (s : State) : Option Instr :=
  (queueOrder s).findSome? fun q =>
    if !headDue s q then none
    else if isWait (headItem s q).2 then (if testDue s q then some (.waitItemPoll q.q) else none)
    else if (launchStart s q.q).isSome then some (.launchStart q.q)
    else none

/-- TRAP_QUEUE_POLL of a queue whose records found no room (R389). -/
def trapQueueEvents (s : State) : Option Instr :=
  s.records.findSome? fun r =>
    match r.tried with
    | some t => if s.clock - t < pollClocks then none
        else (s.queues.find? fun q => q.trapq.toNat = r.trapq || s.launches.any fun l => l.q = q.q && l.trapq.toNat = r.trapq).map fun q => .trapQueuePoll q.q
    | none => none

/-- Something of the geometry, of the records or of what homes have begun changes. -/
def moves (s t : State) : Bool := t.geom ≠ s.geom || t.records ≠ s.records || (keepRecalls s t).isSome

/-- What arrives next on a path of the crossbar (R320, R321): a token, or a packet that finds room. -/
def arrivalOf (s : State) (gdie sdie : Nat) : Option Instr :=
  (arrivals s gdie sdie).findSome? fun x => match x with
    | .token d => some (.tokenArrival gdie sdie d)
    | .packet p => if moves s (after (execFrondPacketArrival sdie p s) s) then some (.frondPacketArrival sdie p) else none

/-- FROND_PACKET_ARRIVAL and TOKEN_ARRIVAL, then END_OF_DRAW_TOKEN (R319 to R321). -/
def crossbarEvents (s : State) : Option Instr :=
  ((crossbarPaths s).findSome? fun x => arrivalOf s x.1 x.2)
  <|> (s.geom.draws.findSome? fun d =>
    (s.mgmt.geomDies.find? fun g => tokenDue s g d && (sendToken s g d).isSome).map fun g => .endOfDrawToken g d.index)

/-- TILE_LAUNCH of a final tile that can be resolved and placed (R336, R337). -/
def tileEvents (s : State) : Option Instr :=
  s.geom.passes.findSome? fun p => (List.range p.th).findSome? fun ty => (List.range p.tw).findSome? fun tx =>
    if !tileFinal s p tx ty then none
    else
      let t := tileLaunch s p.q tx ty
      if t.geom.passes ≠ s.geom.passes || (keepRecalls s t).isSome then some (.tileLaunch p.q tx ty) else none

/-- FAULT_RESP_POLL of the units outside the cores (R391). -/
def unitRespEvents (s : State) : Option Instr :=
  (s.geom.passes.findSome? fun p => (p.faults.find? fun x => engDue s x.2).map fun x => .faultRespPoll 0 (.tile p.q x.1.1 x.1.2))
  <|> ((s.coll.roots.find? fun r => engDue s r.status).map fun r => .faultRespPoll r.core (.coll r.cid))
  <|> ((s.coll.members.find? fun m => engDue s m.status).map fun m => .faultRespPoll m.core (.member m.slot))

/-- FRAME_CLOSE at the close tick, FRAME_COMPLETE of a frame that may settle (R356, R361). -/
def frameEvents (s : State) : Option Instr :=
  (s.coll.roots.findSome? fun r =>
    if !r.closed && (match r.close with | some t => s.fabricTick ≥ t | none => false) then some (.frameClose r.cid)
    else if frameReady s r && (completeFrame s r).isSome then some (.frameComplete r.cid r.frame 0)
    else none)
  <|> (s.coll.points.find? fun x => !x.closed && (match x.close with | some t => s.fabricTick ≥ t | none => false)).map fun x => .frameClose x.cid

/-- FABRIC_LEASE_EXPIRY and FANOUT_TIMEOUT (R111, R112). -/
def fabricEvents (s : State) : Option Instr :=
  if s.fabric.leaseOn && s.clock - s.fabric.renewed ≥ 200000 then some .fabricLeaseExpiry
  else s.home.dir.findSome? fun e =>
    if e.state ≠ 4 || s.clock - e.since < 80000 then none
    else e.awaited.findSome? fun a => match a with
      | .remote n => if e.reported.contains n then none else some (.fanoutTimeout e.line n)
      | _ => none

/-- TEMPO_BOUNDARY and VERTICAL_BLANK (R366, R446): the package's power is not known, so whether it was low is a free choice. -/
def timerEvents (s : State) : Option Instr :=
  if s.ticks / 5000 > s.mgmt.boundary then some (.tempoBoundary ((Config.freeValue s.free).getLsbD 0))
  else (List.range 2).findSome? fun n =>
    let h := s.mgmt.heads.toList.getD n {}
    if h.configured && s.clock * h.hz / 400000000000 > h.blanks then some (.verticalBlank n) else none

/-- The events of the device outside the cores, in the order they are looked for. None before the boot has ended (R433). -/
def deviceEvent (s : State) : Option Instr :=
  if s.mgmt.boot ≠ .running then none
  else [managementEvents, completionEvents, placementEvents, queueEvents, trapQueueEvents, crossbarEvents, tileEvents,
    unitRespEvents, frameEvents, fabricEvents, timerEvents].findSome? fun f => f s

/-- The event that happens next. -/
def nextEvent (s : State) : Option Instr := match coreEvent s with | some i => some i | none => deviceEvent s

/-! ## The warp that issues -/

/-- The warps that may issue a group: those of the lane sets, and pre-empted ones inside a microprogram (R145, R221, R376). -/
def issuers (s : State) : List (Nat × Nat) :=
  if s.mgmt.stopped then []
  else s.allCores.flatMap fun k =>
    let may := fun (w : Warp) => w.present && !w.away && w.executing ≠ 0 && waitOver s k.id w
    ((k.active.toList.filterMap fun x => x.map fun y => y.1).filter fun n =>
      match s.warpAt k.id n with | some w => may w && !w.preempted | none => false).map (fun n => (k.id, n))
    ++ ((s.warpsOf k.id).filter fun w => may w && w.preempted && w.micro.isSome).map fun w => (k.id, w.slot)

/-- One request of a core's pipes is served before another (R171): it has waited 64 of the core's turns and the other has not, or the other's group
waits at a home and its own does not, or it is the older. -/
def servedBefore (s : State) (c : Nat) (v w : Warp) : Bool :=
  let starved := fun (w : Warp) => decide (w.starved ≥ 64)
  let again := fun (w : Warp) => w.wait = .retry && !w.woken
  if starved v != starved w then starved v
  else if !starved v && again v != again w then again w
  else s.olderWarp c v w

/-- The request that a core's pipes serve first. -/
def firstServed (s : State) (c : Nat) : List Warp → Option Warp
  | [] => none
  | w :: r => some (r.foldl (fun b x => if servedBefore s c x b then x else b) w)

/-- The warp that issues: the cores take turns, and each serves its requests in the order of R171. -/
def issuer (s : State) : Option (Nat × Nat) :=
  let l := issuers s
  let cores := (l.map fun x => x.1).eraseDups
  let least := fun (l : List Nat) => match l with | [] => none | c :: r => some (r.foldl Nat.min c)
  ((least (cores.filter fun c => s.rr < c)).orElse fun _ => least cores).bind fun c =>
    (firstServed s c ((l.filter fun x => x.1 = c).filterMap fun x => s.warpAt c x.2)).map fun w => (c, w.slot)

/-! ## A clock -/

/-- Why a warp starts no beat (R426). -/
def stallReason (w : Warp) : Nat :=
  if w.inhdl then 15
  else if w.away then 11
  else match w.wait with
    | .resp .. | .trapQueue _ => 14
    | _ =>
      if (match w.micro with | some m => m.emulated | none => false) then 13
      else match w.wait with
        | .matrix .. | .jobEntry => 8
        | .batch _ | .copyRoom => 7
        | .handleFull _ | .handleFree _ | .handleDrain _ | .copyHandle _ => 6
        | .cbar => 5
        | .results => 1
        | .frontEnd => 2
        | .retry => if w.woken || w.parked.isNone then 0 else 2
        | .order _ | .promote _ | .hsort | .signal .. | .tlbinv | .collWait .. | .collPost | .collJoin _ => 2
        | _ => if w.liveMask = 0 && w.barpark ≠ 0 then 4 else 0

/-- A clock in which a warp starts no beat: one stall counter advances, with saturation (R426); a pending warp that is not ready is not
waiting for a lane set (R168). -/
def Warp.idle (ready : Bool) (now : Nat) (w : Warp) : Warp :=
  if w.preempted then w
  else
    let n := stallReason w
    { w with stalls := w.stalls.setIfInBounds n (satAdd (w.stalls.getD n 0) 1), readyAt := if ready then w.readyAt else now }

/-- A shading die has packets of its frontier draw that a flush kept from being binned (R320, R323). -/
def releaseDue (s : State) : Bool := s.geom.dies.any fun d => dieUp s d.socket && d.held.any fun p => p.draw = d.frontier

/-- What a home kept from being done is tried again: records, completion signals, releases, and the registers of warps that have resumed (R47,
R159, R320, R389). -/
def settleWaits (s : State) : State :=
  let s := if s.records.any fun r => r.tried.isNone then pumpRecords s else s
  let s := if s.signals.isEmpty then s else settleSignals s
  let s := if releaseDue s then pumpRecords (settleDraws s) else s
  ((allWarps s).filter fun x => x.2.away && !x.2.preempted).foldl (fun s x => refillWarp s x.1 x.2.slot) s

/-- The clock advances; the warps but the one that issued were idle. -/
def tick (who : Option (Nat × Nat)) (s : State) : State :=
  let s := settleWaits s
  let s := if (allWarps s).isEmpty then s
    else s.mapAllWarps fun c w => if who = some (c, w.slot) then w else w.idle (warpWaits s c w) s.clock
  { s with clock := s.clock + 1 }

/-- What has waited for a home is tried again, now and then, when nothing comes from outside. -/
def retryDue (s : State) : Bool := s.waiting ≠ [] && s.clock ≥ s.retryAt
def retry (s : State) : State :=
  { s with inputs := s.waiting, waiting := [], retryAt := s.clock + 2 * s.waiting.length + 64 }

/-- After a group the requests that it was served before have waited one more turn (R171). -/
def countTurn (s0 : State) (c slot : Nat) (s : State) : State :=
  let lost := (issuers s0).filter fun x => x.1 = c && x.2 ≠ slot
  { s.mapWarps c fun w => { w with starved := if lost.contains (c, w.slot) then w.starved + 1 else 0 } with rr := c }

/-- After a group a warp that waits, has no lane to execute, or has performed an instruction that gives up its lane set, is pending (R169). -/
def afterIssue (c slot : Nat) (s : State) : State :=
  match s.warpAt c slot with
  | some w =>
    if w.executing = 0 || w.leaves || (w.wait ≠ .none && w.wait ≠ .retry) then goPending (s.setWarp c { w with leaves := false }) c slot else s
  | none => s

/-! ## A program's first instruction -/

/-- The physical addresses of the root table, of the level-1 table and of the code that `placed` sets up; the code's virtual address is its
physical one. -/
def rootAt : Nat := 0x2000
def tableAt : Nat := 0x200000
def codeAt : Nat := 0x10000

/-- Memory with a 1 GiB page at address 0 that can be fetched, and words of code in it (R16 to R18). -/
def placedMemory (code : List Byte) : Memory :=
  ((Memory.put [] rootAt (leBytes 8 (tableAt + 3))).put tableAt (leBytes 8 0x39)).put codeAt code

/-- The launch, block and warp that a program placed by hand runs in. -/
def placedLaunch : Launch :=
  { id := 0, q := 0, pkt := { ntid := 32, vgran := 8, nacc := 8, lsg := 1, entry := 0x10000 }, ptroot := 0x2000, sup := true, nextCohort := 1 }
def placedBlock : Block := { bslot := 0, launch := 0, index := 0, lsBytes := 4096 }
def placedWarp : Warp :=
  { present := true, supv := true, live := 0xFFFFFFFF, vgran := 8, nacc := 8, lpc := Vector.replicate 32 0x10000
    acc := List.replicate 8 (Vector.replicate 2048 0) }

/-- A state whose next step fetches and runs the code: a launch of one block of one warp, active in lane set 0 of a core, and nothing else
that could happen first. -/
def placed (s : State) (code : List Byte) : State :=
  { s with
    cur := placedWarp
    core := { id := 512, blocks := [placedBlock], active := (Vector.replicate 8 none).set 0 (some (0, s.coreClock 512)) }
    cores := [], launches := [placedLaunch], queues := [], records := [], signals := [], placeDue := false, shootdowns := [], inputs := [], waiting := []
    home := { mem := placedMemory code }
    mgmt := { flash := s.mgmt.flash, flush := s.mgmt.flush, boundary := s.ticks / 5000, tempo := s.mgmt.tempo }
    fabric := { s.fabric with leaseOn := true, renewed := s.clock }
    geom := { dies := s.geom.dies }
    coll := {} }

end Sys2Proof.Machine
end

