-- ==== Sys2Proof/Machine/Run.lean ====
section
/-! DEFINITION. How the machine goes on by one step: what comes from outside first, then the event that is due, then the group of the
warp whose turn it is, else a clock passes. -/

namespace Sys2Proof.Machine

/-- What follows every step: a state it reaches goes on. -/
def finish (f : State → State) : Host.Outcome State Fault Refusal → Host.Outcome State Fault Refusal
  | .next s => .next (f s)
  | .fault r => .fault r
  | .refused r => .refused r

/-- The warp of a core and slot issues its next group (R140). -/
def issue (c slot : Nat) (s : State) : Host.Outcome State Fault Refusal :=
  match nextGroup (traceMask (s.focus c slot)) with
  | (s, .run i) => exec i s
  | (s, .trap t) => .next (trapForming s t)
  | (s, .wait) => .next s

/-- A clock in which a warp issues. -/
def issueStep (c slot : Nat) (s : State) : Host.Outcome State Fault Refusal :=
  finish (fun t => tick (some (c, slot)) (afterIssue c slot (countTurn s c slot t))) (issue c slot s)

/-- A clock in which nothing comes from outside. -/
def inner (s : State) : Host.Outcome State Fault Refusal :=
  match nextEvent s with
  | some i => finish (tick none) (exec i s)
  | none =>
    match issuer s with
    | some (c, slot) => issueStep c slot s
    | none => .next (tick none s)

/-- One clock. -/
def advance (s : State) : Host.Outcome State Fault Refusal :=
  match s.inputs with
  | i :: r => finish (tick none) (exec i { s with inputs := r })
  | [] => if retryDue s then .next (tick none (retry s)) else inner s

/-- The bytes of an instruction of `nbits` bits `w` as memory holds them, and zeros above them up to the longest instruction. -/
def codeBytes (nbits w : Nat) : List Byte := (wordsOf 4 (w % 2 ^ nbits)).flatMap fun x => leBytes 4 x.toNat

end Sys2Proof.Machine
end

