-- ==== Sys2Proof/Machine/Step.lean ====
section
/-! DEFINITION. One step of the machine, and a state that runs a given instruction next. -/

namespace Sys2Proof.Machine

/-- One step. -/
def step (s : State) : Host.Outcome State Fault Refusal := advance s

/-- The state with the instruction of `nbits` bits `w`, and zeros above them, where the next step fetches: a program placed by hand. -/
def State.withFetchWord (s : State) (nbits w : Nat) : State := placed s (codeBytes nbits w)

end Sys2Proof.Machine
end

