-- ==== Sys2Proof/Safety.lean ====
section
/-! DEFINITION. The terms in which claims speak of a run: when the issuing warp performs a group, what it leaves, the registers of
a warp as functions, the repetitions of a group, and the canonical form of every memory. -/

namespace Sys2Proof.Safety

open Sys2Proof.Machine

/-! ## A group that is performed -/

/-- The issuing warp performs the group: it is there, some lane executes, a required third source is given (R181), and a
microprogram's operation is none of those it may not hold (R222). -/
def Runs (i : Instr) (s : State) : Prop :=
  s.cur.present = true ∧ s.cur.executing ≠ 0 ∧ i.missingThird = false ∧ (s.cur.inMicro = true → microForbids s.cur i = false)

/-- The state in which a group's performance begins: the warp waits for nothing and, outside a microprogram, its delivered base
word and hints are known (R378). -/
def begun (i : Instr) (s : State) : State :=
  if s.cur.inMicro then { s with cur := { s.cur with wait := .none } }
  else { s with cur := { s.cur with wait := .none, base := some (encodeBase i), grp := i.grp } }

/-- The state that a group performed from `s` leaves: parked when S asks for it, pending when the instruction says so (R169), trap records
that wait for room tried again (R389). -/
def ended (i : Instr) (s t : State) : State :=
  let u := afterGroup i t
  pumpRecords { u with cur := { u.cur with leaves := leavesNow i s.cur && u.cur.present } }

/-- The lanes that executed stand after the group, the others where they stood (R140, R180); a microprogram goes on by the words of
the operation (R221). -/
def Advanced (gr : Grp) (s t : State) : Prop :=
  match s.cur.micro with
  | none => t.cur.micro = none ∧ ∀ l : Fin 32,
      t.cur.lpc[l] = if s.cur.executing.getLsbD l.val then Warp.pcOf (nextPc s.cur gr) else s.cur.lpc[l]
  | some m => t.cur.micro = some (m.past gr) ∧ t.cur.lpc = s.cur.lpc

/-- Nothing of the machine differs between the states but the issuing warp, and of that warp only its registers v, p, s and t, its
lanes' addresses, and what the warp slot keeps of the group it performs. -/
def OnlyRegisters (s t : State) : Prop :=
  t = { s with cur := { s.cur with
    v := t.cur.v, p := t.cur.p, s := t.cur.s, t := t.cur.t, lpc := t.cur.lpc, micro := t.cur.micro, wait := t.cur.wait, base := t.cur.base
    grp := t.cur.grp, resume := t.cur.resume, parked := t.cur.parked, held := t.cur.held, woken := t.cur.woken, failed := t.cur.failed
    leaves := t.cur.leaves, skipWatch := t.cur.skipWatch } }

/-! ## Registers as functions -/

/-- The registers of a warp (R172): vector, predicate, uniform and tile registers by number. -/
structure Regs where
  v : Nat → Fin 32 → Word
  p : Nat → Mask
  s : Nat → Dword
  t : Nat → BitVec 128

/-- The registers that a warp holds. -/
def regsOf (w : Warp) : Regs := ⟨w.getV, w.getP, w.getS, w.getT⟩

/-- Lanes of a vector register are written. -/
def Regs.putV (r : Regs) (n : Nat) (m : Mask) (x : Fin 32 → Word) : Regs :=
  { r with v := fun k l => if k = n ∧ m.getLsbD l.val = true then x l else r.v k l }
/-- Lanes of a predicate register are written; p7 ignores it (R172). -/
def Regs.putP (r : Regs) (n : Nat) (m x : Mask) : Regs :=
  { r with p := fun k => if k = n ∧ n < 7 then (r.p k &&& ~~~m) ||| (x &&& m) else r.p k }
/-- A uniform register is written. -/
def Regs.putS (r : Regs) (n : Nat) (x : Dword) : Regs := { r with s := fun k => if k = n then x else r.s k }
/-- A tile register is written. -/
def Regs.putT (r : Regs) (n : Nat) (x : BitVec 128) : Regs := { r with t := fun k => if k = n then x else r.t k }
/-- Registers whose last use an LK field marks take the poison value 0x7FD00BAD in the executing lanes (R186). -/
def Regs.lastUse (r : Regs) (m : Mask) (lk : BitVec 2) (ns : List Nat) : Regs :=
  if lk = 1 then ns.foldl (fun r n => r.putV n m fun _ => 0x7FD00BAD) r else r
/-- The b operand of a lane (R172): a vector register's lane, or the low half of a uniform register. -/
def Regs.b (r : Regs) (bu : BitVec 1) (n : Nat) (l : Fin 32) : Word := if bu = 1 then lo32 (r.s n) else r.v n l

/-- The registers after the first `n` repetitions of a group (R188), `f` being one repetition. -/
def repeated (f : Nat → Regs → Regs) : Nat → Regs → Regs
  | 0, r => r
  | n + 1, r => f n (repeated f n r)

/-- The warp holds a vector register (R172, R187). -/
def HasV (w : Warp) (n : Nat) : Prop := n < 64 ∧ n < 8 * w.vgran

/-- A group that only writes registers runs to its end: `f` says what one repetition makes of the registers; the lanes advance and
nothing else of the machine changes, memory included, but that waiting trap records are tried again. -/
def Writes (i : Instr) (gr : Grp) (s : State) (f : Nat → Regs → Regs) : Prop :=
  ∃ t, exec i s = .next (pumpRecords t) ∧ Advanced gr s t ∧ OnlyRegisters s t ∧ regsOf t.cur = repeated f (reps gr) (regsOf s.cur)
    ∧ (s.records = [] → pumpRecords t = t ∧ ∀ a, t.home.mem.get a = s.home.mem.get a)

/-! ## One repetition, by the shapes of the operand formats (R176, R188) -/

/-- A lane result of a V3 instruction: `f` takes a, b and c of the lane; c only where the instruction has a third source. -/
def v3Rep (w : Warp) (gr : Grp) (d a : BitVec 6) (lka : BitVec 2) (b : BitVec 6) (lkb : BitVec 2) (bu : BitVec 1) (third : Bool)
    (f : Word → Word → Word → Word) (k : Nat) (r : Regs) : Regs :=
  let ra := repA gr a.toNat k
  let rb := repB gr b.toNat k
  let rc := repC gr gr.cReg.toNat k
  (((r.lastUse w.executing lka [ra]).lastUse w.executing (if bu = 1 then 0 else lkb) [rb]).lastUse w.executing
    (if third then gr.lkc else 0) [rc]).putV (repD gr d.toNat k) (w.active gr) fun l => f (r.v ra l) (r.b bu rb l) (r.v rc l)
/-- The registers a V3 instruction names are ones the warp holds (R187). -/
def v3Has (w : Warp) (gr : Grp) (d a b : BitVec 6) (bu : BitVec 1) (third : Bool) : Prop :=
  (third = true → gr.src.isSome = true) ∧ ∀ k < reps gr, HasV w (repD gr d.toNat k) ∧ HasV w (repA gr a.toNat k)
    ∧ (if bu = 1 then repB gr b.toNat k < 64 else HasV w (repB gr b.toNat k)) ∧ (third = true → HasV w (repC gr gr.cReg.toNat k))

/-- A lane result of a V2, VI or VK instruction: `f` takes a and the old d of the lane. -/
def v2Rep (w : Warp) (gr : Grp) (d a : BitVec 6) (lka : BitVec 2) (f : Word → Word → Word) (k : Nat) (r : Regs) : Regs :=
  let ra := repA gr a.toNat k
  let rd := repD gr d.toNat k
  (r.lastUse w.executing lka [ra]).putV rd (w.active gr) fun l => f (r.v ra l) (r.v rd l)
def v2Has (w : Warp) (gr : Grp) (d a : BitVec 6) : Prop := ∀ k < reps gr, HasV w (repD gr d.toNat k) ∧ HasV w (repA gr a.toNat k)

/-- The bit that a P instruction gives each lane: `f` takes a and b of the lane. -/
def pRep (w : Warp) (gr : Grp) (p : BitVec 3) (a : BitVec 6) (lka : BitVec 2) (b : BitVec 6) (lkb : BitVec 2) (bu : BitVec 1)
    (f : Word → Word → Bool) (k : Nat) (r : Regs) : Regs :=
  let ra := repA gr a.toNat k
  let rb := repB gr b.toNat k
  ((r.lastUse w.executing lka [ra]).lastUse w.executing (if bu = 1 then 0 else lkb) [rb]).putP (repD gr p.toNat k) (w.active gr)
    (maskOf fun l => f (r.v ra l) (r.b bu rb l))
def pHas (w : Warp) (gr : Grp) (p : BitVec 3) (a b : BitVec 6) (bu : BitVec 1) : Prop :=
  ∀ k < reps gr, repD gr p.toNat k ≤ 7 ∧ HasV w (repA gr a.toNat k)
    ∧ (if bu = 1 then repB gr b.toNat k < 64 else HasV w (repB gr b.toNat k))

/-- A warp-level repetition (R182, R202): performed only when some executing lane's guard is true. -/
def uRep (w : Warp) (gr : Grp) (f : Nat → Regs → Regs) (k : Nat) (r : Regs) : Regs := if w.active gr = 0 then r else f k r
/-- A U3 instruction: s[d] from s[a] and s[b]. -/
def u3Rep (w : Warp) (gr : Grp) (d a b : BitVec 6) (f : Dword → Dword → Dword) : Nat → Regs → Regs :=
  uRep w gr fun k r => r.putS (repD gr d.toNat k) (f (r.s (repA gr a.toNat k)) (r.s (repB gr b.toNat k)))
def u3Has (gr : Grp) (d a b : BitVec 6) : Prop :=
  ∀ k < reps gr, repD gr d.toNat k < 64 ∧ repA gr a.toNat k < 64 ∧ repB gr b.toNat k < 64
/-- A uniform instruction with one source. -/
def u2Rep (w : Warp) (gr : Grp) (d a : BitVec 6) (f : Dword → Dword) : Nat → Regs → Regs :=
  uRep w gr fun k r => r.putS (repD gr d.toNat k) (f (r.s (repA gr a.toNat k)))
def u2Has (gr : Grp) (d a : BitVec 6) : Prop := ∀ k < reps gr, repD gr d.toNat k < 64 ∧ repA gr a.toNat k < 64

/-- One repetition of an instruction whose lanes' results depend on the whole of v[a] (R205 to R209). -/
def laneRep (w : Warp) (gr : Grp) (d a : BitVec 6) (lka : BitVec 2) (f : (Fin 32 → Word) → Fin 32 → Word) (k : Nat) (r : Regs) : Regs :=
  (r.lastUse w.executing lka [repA gr a.toNat k]).putV (repD gr d.toNat k) (w.active gr) (f (r.v (repA gr a.toNat k)))

/-! ## What the instructions of each shape give -/

/-- The V3 instruction writes `f` of a, b and c to each active lane of v[d], in every repetition, and changes nothing else. -/
def V3Gives (mk : Grp → BitVec 6 → BitVec 6 → BitVec 2 → BitVec 6 → BitVec 2 → BitVec 1 → Instr) (third : Bool)
    (f : Grp → Word → Word → Word → Word) : Prop :=
  ∀ gr d a lka b lkb bu s, Runs (mk gr d a lka b lkb bu) s → v3Has s.cur gr d a b bu third →
    Writes (mk gr d a lka b lkb bu) gr s (v3Rep s.cur gr d a lka b lkb bu third (f gr))
/-- The V2, VI or VK instruction writes `f` of a and the old d to each active lane of v[d], in every repetition. -/
def V2Gives (mk : Grp → BitVec 6 → BitVec 6 → BitVec 2 → Instr) (f : Grp → Word → Word → Word) : Prop :=
  ∀ gr d a lka s, Runs (mk gr d a lka) s → v2Has s.cur gr d a → Writes (mk gr d a lka) gr s (v2Rep s.cur gr d a lka (f gr))
/-- The P instruction writes `f` of a and b to each active lane's bit of p[pd]; a write to p7 is ignored. -/
def PGives (mk : Grp → BitVec 3 → BitVec 6 → BitVec 2 → BitVec 6 → BitVec 2 → BitVec 1 → Instr) (f : Word → Word → Bool) : Prop :=
  ∀ gr p a lka b lkb bu s, Runs (mk gr p a lka b lkb bu) s → pHas s.cur gr p a b bu →
    Writes (mk gr p a lka b lkb bu) gr s (pRep s.cur gr p a lka b lkb bu f)
/-- The lane operation writes `f` of v[a] as the whole warp holds it to each active lane of v[d]. -/
def LanesGive (mk : Grp → BitVec 6 → BitVec 6 → BitVec 2 → Instr) (f : Warp → Grp → (Fin 32 → Word) → Fin 32 → Word) : Prop :=
  ∀ gr d a lka s, Runs (mk gr d a lka) s → v2Has s.cur gr d a → Writes (mk gr d a lka) gr s (laneRep s.cur gr d a lka (f s.cur gr))
/-- The uniform instruction writes `f` of s[a] and s[b] to s[d], once for the warp in every repetition. -/
def U3Gives (mk : Grp → BitVec 6 → BitVec 6 → BitVec 6 → Instr) (f : Dword → Dword → Dword) : Prop :=
  ∀ gr d a b s, Runs (mk gr d a b) s → u3Has gr d a b → Writes (mk gr d a b) gr s (u3Rep s.cur gr d a b f)
def U2Gives (mk : Grp → BitVec 6 → BitVec 6 → Instr) (f : Grp → Dword → Dword) : Prop :=
  ∀ gr d a s, Runs (mk gr d a) s → u2Has gr d a → Writes (mk gr d a) gr s (u2Rep s.cur gr d a (f gr))

/-- An exact integer as a 32-bit result (R196): with SAT clamped to the signed range, else its low 32 bits. -/
def result32 (gr : Grp) (x : Int) : Word :=
  if satOf gr then BitVec.ofInt 32 (max (-(2 ^ 31)) (min x (2 ^ 31 - 1))) else BitVec.ofInt 32 x
/-- The value of an extended immediate (R178): the hints' fields above the base field, as a two's complement number of that width. -/
def immediate {n : Nat} (gr : Grp) (i : BitVec n) : Int :=
  Int.bmod ((gr.imms.foldl (fun a h => a * 2 ^ 23 + h.toNat) 0 * 2 ^ n + i.toNat : Nat) : Int) (2 ^ (n + 23 * gr.imms.length))
/-- The field that BFE and SBFE extract (R198), `width` being the register's: an integer, negative when it is sign-extended. -/
def fieldOf (width a pos len : Nat) (sgn : Bool) : Int :=
  let n := if pos ≥ width then 0 else min len (width - pos)
  let f := a / 2 ^ pos % 2 ^ n
  if sgn = true ∧ 0 < n ∧ 2 ^ (n - 1) ≤ f then (f : Int) - 2 ^ n else f
/-- The condition field of ICMP and SCMP on two operands as signed and unsigned numbers (R201). -/
def holdsInt (c : BitVec 3) (sa sb : Int) (ua ub : Nat) : Bool :=
  [decide (ua = ub), decide (ua ≠ ub), decide (sa < sb), decide (sb ≤ sa), decide (ua < ub), decide (ub ≤ ua), decide (sb < sa),
    decide (ub < ua)].getD c.toNat false

/-- Lane `k` is a participant of the partition of lane `l` (R205). -/
def joins (w : Warp) (gr : Grp) (l k : Fin 32) : Bool := (w.active gr).getLsbD k.val && k.val / w.width = l.val / w.width
/-- The lane at position `j` of the partition of lane `l` (R206). -/
def laneAt (w : Warp) (l : Fin 32) (j : Nat) : Fin 32 := Fin.ofNat 32 (l.val / w.width * w.width + j)
/-- The source lane of SHFL (R206). -/
def shuffled (w : Warp) (mode : BitVec 2) (n : Nat) (l : Fin 32) : Fin 32 :=
  let i := l.val % w.width
  laneAt w l (if mode = 0 then n % w.width
    else if mode = 1 then (if i < n then i else i - n)
    else if mode = 2 then (if i + n ≥ w.width then i else i + n)
    else (if i ^^^ n ≥ w.width then i else i ^^^ n))
/-- The word whose bit i, below W, says a test of the lane at position i of the partition of lane `l`, participants only. -/
def ballotOf (w : Warp) (gr : Grp) (l : Fin 32) (q : Fin 32 → Bool) : Word :=
  maskOf fun i => i.val < w.width && joins w gr l (laneAt w l i.val) && q (laneAt w l i.val)
/-- The operation and the identity of REDUX and PSCAN (R209). -/
def combine (o : BitVec 3) (x y : Word) : Word :=
  if o = 0 then BitVec.ofNat 32 (x.toNat + y.toNat)
  else if o = 1 then BitVec.ofInt 32 (min x.toInt y.toInt)
  else if o = 2 then BitVec.ofNat 32 (min x.toNat y.toNat)
  else if o = 3 then BitVec.ofInt 32 (max x.toInt y.toInt)
  else if o = 4 then BitVec.ofNat 32 (max x.toNat y.toNat)
  else if o = 5 then x &&& y else if o = 6 then x ||| y else x ^^^ y
def identity (o : BitVec 3) : Word :=
  if o = 1 then 0x7FFFFFFF else if o = 2 then 0xFFFFFFFF else if o = 3 then 0x80000000 else if o = 5 then 0xFFFFFFFF else 0
/-- The combination of v over the participants that a test selects, from the highest lane down. -/
def combined (w : Warp) (gr : Grp) (o : BitVec 3) (v : Fin 32 → Word) (l : Fin 32) (p : Fin 32 → Bool) : Word :=
  ((List.finRange 32).filter fun k => joins w gr l k && p k).foldr (fun k t => combine o (v k) t) (identity o)

/-- The conditions of a collective group (R143, R393): every lane live, executing and with its guard true, and no handler. -/
def Together (w : Warp) (gr : Grp) : Prop :=
  w.inhdl = false ∧ w.liveMask = 0xFFFFFFFF ∧ w.executing = 0xFFFFFFFF ∧ w.guardMask gr = 0xFFFFFFFF

/-! ## Groups that act on the machine -/

/-- The group is performed to its end, in the state `t` that its own effect leaves. -/
def Ends (i : Instr) (s t : State) : Prop := exec i s = .next (ended i s t)

/-- The state past a group (R140, R180, R221): its executing lanes stand after it, the others where they stood; inside a
microprogram the next operation follows. -/
def past (gr : Grp) (s : State) : State :=
  match s.cur.micro with
  | none => { s with cur := { s.cur with
      lpc := Vector.ofFn fun l => if s.cur.executing.getLsbD l.val then Warp.pcOf (nextPc s.cur gr) else s.cur.lpc[l] } }
  | some m => { s with cur := { s.cur with micro := some (m.past gr) } }

/-- The lanes of `go` stand at the addresses `dest` names, the other executing lanes after the group, the rest where they stood. -/
def jumped (w : Warp) (gr : Grp) (go : Mask) (dest : Fin 32 → Dword) : Vector Dword 32 := Vector.ofFn fun l =>
  if go.getLsbD l.val = true then Warp.pcOf (dest l) else if w.executing.getLsbD l.val then Warp.pcOf (nextPc w gr) else w.lpc[l]

/-- The executing lanes in which p[p] xor N is 1 (R176). -/
def branches (w : Warp) (p : BitVec 3) (n : BitVec 1) : Mask :=
  maskOf fun l => w.executing.getLsbD l.val && ((w.getP p.toNat).getLsbD l.val != decide (n = 1))
/-- The target of a B-format word: the base word's address plus 4 times the signed offset (R176). -/
def branchAddress (w : Warp) (gr : Grp) (o : BitVec 19) : Dword := BitVec.ofInt 64 ((basePc w gr).toNat + 4 * o.toInt)
/-- The address that a pair of vector registers names in a lane. -/
def pairOf (r : Regs) (n : Nat) (l : Fin 32) : Dword := BitVec.ofNat 64 ((r.v n l).toNat + 2 ^ 32 * (r.v (n + 1) l).toNat)
/-- The link that CALL and CALLI write: the address after the group, in v14 and v15 (R215). -/
def linked (w : Warp) (gr : Grp) (m : Mask) (r : Regs) : Regs :=
  (r.putV 14 m fun _ => lo32 (Warp.pcOf (nextPc w gr))).putV 15 m fun _ => hi32 (Warp.pcOf (nextPc w gr))
/-- What one repetition of JMPI, RET or CALLI makes of the registers (R188, R215): the last use of its pair and, for a call, the link. -/
def transferred (w : Warp) (gr : Grp) (a : BitVec 6) (lka : BitVec 2) (link : Bool) (k : Nat) (r : Regs) : Regs :=
  let r := r.lastUse w.executing lka [repA gr a.toNat k, repA gr a.toNat k + 1]
  if link then linked w gr (w.active gr) r else r

/-- The special values of SGET for a lane, by selector (R174). -/
def specials (s : State) (l : Fin 32) : List Nat :=
  let p := s.curLaunch.pkt
  let b := s.cur.block.toNat
  [l.val, s.cur.idx, b % p.gx, b / p.gx % p.gy, b / p.gx / p.gy, p.ntid, p.gx, p.gy, p.gz, s.core.id, s.core.id / 128, s.core.id / 256,
    (match s.curBlock with | some b => b.rank | none => 0), s.cur.launch.toNat, 2 ^ s.cur.partw.toNat, if s.cur.memrev then 1 else 0,
    s.clock / 4]

/-- Results go on their way, one for each active lane of every repetition, instead of landing at once (R147, R169). -/
def lateReturns (s : State) (gr : Grp) (reg : Nat → Nat) (f : Nat → Fin 32 → Dword) : List Return :=
  (List.range (reps gr)).flatMap fun k => (lanesOf (s.cur.active gr)).map fun l =>
    ⟨{ core := s.core.id, slot := s.cur.slot, gen := s.cur.genReg, uniform := false, lane := l.val, reg := reg k, ty := 4 }, f k l, s.clock⟩

/-! ## Groups whose repetitions act on the whole machine -/

/-- The repetitions of a group from number `k` on, `n` of them, lead from one state to the other, `R` being one repetition (R188):
between two the warp's replay record moves on. -/
def Repeats (R : Nat → State → State → Prop) : Nat → Nat → State → State → Prop
  | 0, _, s, t => t = s
  | 1, k, s, t => ∃ u, R k s u ∧ t = { u with cur := u.cur.clearResume }
  | n + 2, k, s, t => ∃ u, R k s u ∧ u.cur.wait = .none
      ∧ Repeats R (n + 1) (k + 1) { u with cur := { u.cur.setRep (k + 1) with woken := false } } t

/-- The repetitions of a group that are still to be performed. -/
def Performs (gr : Grp) (R : Nat → State → State → Prop) (s t : State) : Prop :=
  Repeats R (reps gr - s.cur.resumed.rep) s.cur.resumed.rep s t

/-! ## Memory groups -/

/-- The checked lanes are performed in ascending order, none waiting and none faulting late (R86, R100): `one` is a lane's part. -/
def Sweeps {α : Type} (one : State → Fin 32 → Acc → State → α → Prop) : List (Fin 32 × Acc) → State → State → List (Fin 32 × α) → Prop
  | [], s, t, vs => t = s ∧ vs = []
  | (l, a) :: r, s, t, vs => ∃ u v ws, one s l a u v ∧ Sweeps one r u t ws ∧ vs = (l, v) :: ws

/-- An acquire when the group is ordered and some lane is active (R91, R110, R260). -/
def orderedAfter (m : Mask) (o : BitVec 1) (as : List (Fin 32 × Acc)) (s : State) : State :=
  if ordered s.cur o = true ∧ m ≠ 0 then acquire s m (orderDomain s.cur as) else s
/-- The release of an ordered group has nothing to wait for (R90, R110, R261). -/
def orderedBefore (m : Mask) (o : BitVec 1) (as : List (Fin 32 × Acc)) (s : State) : Prop :=
  ordered s.cur o = true → m ≠ 0 → releaseGate s m (orderDomain s.cur as) = .go
/-- Which lanes' writes take a release tag (R96, R98), in a group that began with the warp `w0`. -/
def tags (w0 : Warp) (m : Mask) (o : BitVec 1) (as : List (Fin 32 × Acc)) (w : Warp) (l : Fin 32) : Bool :=
  taggedLane w l (ordered w0 o && m ≠ 0) (orderDomain w0 as)

/-- A lane's load (R59, R60, R97): the bytes, and the release tokens that came with them. -/
def LoadsLane (fresh : Bool) (cpol : BitVec 3) (s : State) (l : Fin 32) (a : Acc) (t : State) (x : Loaded) : Prop :=
  ∃ u, loadAcc s (curIssuer s (laneBit l)) a (fresh || a.fresh) cpol = (u, .ok x) ∧ tokensWait u u.cur.threads[l] x.tokens = false
    ∧ t = giveTokens u l x.tokens x.drained
/-- One repetition of a per-lane load (R258, R260): the checks of every lane, the loads, the landing in registers from `reg` on,
the acquire. -/
def LoadsOnce (gr : Grp) (reg : Nat) (ty : BitVec 3) (fresh : Bool) (o : BitVec 1) (chk : State → Fin 32 → State × Except Trap Acc)
    (s t : State) : Prop :=
  ∃ s1 as s2 vs, checkLanes s (lanesOf (s.cur.active gr)) chk = (s1, .ok as) ∧ Sweeps (LoadsLane fresh (cpolOf gr)) as s1 s2 vs
    ∧ t = orderedAfter (s.cur.active gr) o as (vs.foldl (fun s x => landWords s reg x.1 (loadWords ty x.2.bytes)) (touchAll s2 as))

/-- A lane's store (R83, R96), unless the lane was performed before the group's replay (R388). -/
def StoresLane (reg : Nat) (ty : BitVec 3) (tag : Warp → Fin 32 → Bool) (s : State) (l : Fin 32) (a : Acc) (t : State) (_ : Unit) : Prop :=
  if doneLane s l = true then t = s
  else tagged s (tag s.cur l) (fun s e => storeAcc s (curIssuer s (laneBit l)) a (regBytes s.cur reg ty l) e) = (t, .ok ())
/-- One repetition of a per-lane store (R261). -/
def StoresOnce (gr : Grp) (reg : Nat) (ty : BitVec 3) (o : BitVec 1) (chk : State → Fin 32 → State × Except Trap Acc) (s t : State) : Prop :=
  ∃ s1 as s2 vs, checkLanes s (lanesOf (s.cur.active gr)) chk = (s1, .ok as) ∧ orderedBefore (s.cur.active gr) o as s1
    ∧ Sweeps (StoresLane reg ty (tags s1.cur (s.cur.active gr) o as)) as s1 s2 vs ∧ t = touchAll s2 as

/-- A lane's read-modify-write (R100, R266, R267): its old value. A lane performed before the group's replay keeps the value it
returned (R388). -/
def UpdatesLane (op : State → Fin 32 → HomeOp) (tag : Warp → Fin 32 → Bool) (s : State) (l : Fin 32) (a : Acc) (t : State) (x : Dword) : Prop :=
  if doneLane s l = true then t = s ∧ x = s.cur.resumed.kept[l]
  else s.cur.resumed.late = [] ∧ tokensWait s s.cur.threads[l] (accTokens s a).1 = false
    ∧ ∃ u, tagged s (tag s.cur l) (fun s e => rmwPart s (curIssuer s (laneBit l)) a (partOf a) (op s l) e false) = (u, .ok x)
      ∧ t = giveTokens u l (accTokens s a).1 (accTokens s a).2
/-- One repetition of ATOM, CAS and ATOML (R267, R268, R271): the release, each lane once in ascending order, the old values in `n`
registers from `reg` on, the acquire; `fin` is the last use of the third source. -/
def UpdatesOnce (gr : Grp) (reg n : Nat) (o : BitVec 1) (op : State → Fin 32 → HomeOp) (fin : State → State)
    (chk : State → Fin 32 → State × Except Trap Acc) (s t : State) : Prop :=
  ∃ s1 as s2 vs, checkLanes s (lanesOf (s.cur.active gr)) chk = (s1, .ok as) ∧ orderedBefore (s.cur.active gr) o as s1
    ∧ Sweeps (UpdatesLane op (tags s1.cur (s.cur.active gr) o as)) as s1 s2 vs
    ∧ (let u := vs.foldl (fun s x => landOld s reg n x.1 x.2) (fin (touchAll s2 as))
       t = if ordered s1.cur o = true ∧ s.cur.active gr ≠ 0 then acquire u (s.cur.active gr) (orderDomain s1.cur as) else u)

/-- The checks, the release and the ownership points that a reduction needs (R90, R104, R269). -/
def ReducesFrom (gr : Grp) (o : BitVec 1) (chk : State → Fin 32 → State × Except Trap Acc) (s s1 : State) (as : List (Fin 32 × Acc)) : Prop :=
  checkLanes s (lanesOf (s.cur.active gr)) chk = (s1, .ok as) ∧ orderedBefore (s.cur.active gr) o as s1
    ∧ ∀ x ∈ as, engineHolds s1 (curIssuer s1 (s.cur.active gr)) x.2.va.toNat 8 = false
/-- A lane's reduction (R269), unless the lane was performed before the group's replay (R388). -/
def ReducesLane (c : BitVec 3) (reg n : Nat) (tag : Warp → Fin 32 → Bool) (s : State) (l : Fin 32) (a : Acc) (t : State) (x : Dword) : Prop :=
  if doneLane s l = true then t = s ∧ x = 0
  else tagged s (tag s.cur l) (fun s e => redLane s l a c (BitVec.ofNat 64 (regNat s.cur reg (n / 4) l)) e) = (t, .ok x)
/-- One repetition of RED and REDL (R269, R271). -/
def ReducesOnce (gr : Grp) (c : BitVec 3) (reg n : Nat) (o : BitVec 1) (chk : State → Fin 32 → State × Except Trap Acc) (s t : State) : Prop :=
  ∃ s1 as s2 vs, ReducesFrom gr o chk s s1 as ∧ Sweeps (ReducesLane c reg n (tags s1.cur (s.cur.active gr) o as)) as s1 s2 vs
    ∧ (let u := touchAll s2 as
       t = if u.cur.memrev = false ∧ s.cur.active gr ≠ 0 then acquire u (s.cur.active gr) .core else u)

/-- A lane's LOCK or UNLOCK (R272): its status. -/
def LocksLane (unlock : Bool) (tag : Warp → Fin 32 → Bool) (s : State) (l : Fin 32) (a : Acc) (t : State) (x : Dword) : Prop :=
  if doneLane s l = true then t = s ∧ x = s.cur.resumed.kept[l]
  else s.cur.resumed.late = [] ∧ tokensWait s s.cur.threads[l] (accTokens s a).1 = false
    ∧ ∃ u, tagged s (tag s.cur l) (fun s e => lockLane s l a unlock e) = (u, .ok x)
      ∧ t = giveTokens u l (accTokens s a).1 (accTokens s a).2
/-- One repetition of LOCK, an acquire, or of UNLOCK, a release (R272). -/
def LocksOnce (gr : Grp) (reg : Nat) (unlock : Bool) (chk : State → Fin 32 → State × Except Trap Acc) (s t : State) : Prop :=
  ∃ s1 as s2 vs,
    let m := s.cur.active gr
    let d := widest (as.map fun x => x.2.dom)
    let rel := (unlock || !s1.cur.memrev) && m ≠ 0
    checkLanes s (lanesOf m) chk = (s1, .ok as) ∧ (rel = true → releaseGate s1 m d = .go)
    ∧ (∀ x ∈ as, engineHolds s1 (curIssuer s1 m) x.2.va.toNat 4 = false)
    ∧ Sweeps (LocksLane unlock fun w l => taggedLane w l rel (if s1.cur.memrev then d else .core)) as s1 s2 vs
    ∧ (let u := vs.foldl (fun s x => landV s reg x.1 (lo32 x.2)) (touchAll s2 as)
       t = if (unlock = false ∨ u.cur.memrev = false) ∧ m ≠ 0 then acquire u m d else u)

/-- The one access of a warp-level memory instruction: the lowest active lane's (R182, R263). -/
def theLane (gr : Grp) (s : State) : List (Fin 32) := [lowLane (s.cur.active gr)]

/-- The release part of a fence (R98): the lanes' touched sets are empty, and a span of the domain each had touched begins. -/
def spanned (m : Mask) (s : State) : State :=
  let open_ := fun (l : Fin 32) =>
    if m.getLsbD l.val then { s.cur.threads[l] with touched := none, span := some (touchedDomain s.cur (laneBit l)) } else s.cur.threads[l]
  { s with cur := { s.cur with threads := Vector.ofFn open_ } }

/-- The repetitions of a warp-level instruction (R182): none is performed when no executing lane's guard is true. -/
def PerformsOnce (gr : Grp) (R : Nat → State → State → Prop) (s t : State) : Prop :=
  if s.cur.active gr = 0 then t = s else Performs gr R s t

/-! ## Accesses to memory that nothing holds -/

/-- Nothing holds a line of device memory: no request waits at a home, no remote copy, no moving block, no release tag, no private
line, no granule carries anything, no core holds partials, stash lines, copies or jobs, and no store of the warp has failed. -/
def Quiet (s : State) : Prop :=
  s.home.held = [] ∧ s.home.dir = [] ∧ s.home.placed = [] ∧ s.home.prom = [] ∧ s.home.gran = [] ∧ s.home.lost = []
    ∧ (∀ l ∈ s.launches, l.pub = []) ∧ (∀ k ∈ s.allCores, k.upd = [] ∧ k.stash = [] ∧ k.copies = [] ∧ k.jobs = [])
    ∧ s.cur.failed = none ∧ tagRoom s = true
/-- The group is performed once, from its beginning, and its results land at once. -/
def Single (gr : Grp) (s : State) : Prop := reps gr = 1 ∧ s.cur.resume = none ∧ (s.sched.late = false ∨ s.cur.inMicro = true)
/-- A lane's access passes its checks without a change to the machine: its pages' translations stand in the TLBs, with D set where it writes
(R22). It reaches normal device memory, a granule at a time. -/
def ServedLane (s : State) (l : Fin 32) (chk : State → Fin 32 → State × Except Trap Acc) (a : Acc) : Prop :=
  chk s l = (s, .ok a) ∧ markDirty s s.core.id a = (s, true) ∧ a.pub = false ∧ s.mgmt.material a.key = none ∧ s.cur.threads[l].pending.length ≤ 4
    ∧ ∀ p ∈ a.parts, s.mgmt.material p.key = none ∧ ∃ pa, p.place = .mem pa false ∧ pa % 64 + p.n ≤ 64
/-- Every active lane's access is served so. -/
def Served (s : State) (gr : Grp) (chk : State → Fin 32 → State × Except Trap Acc) (acc : Fin 32 → Acc) : Prop :=
  ∀ l, (s.cur.active gr).getLsbD l.val = true → ServedLane s l chk (acc l)
/-- Every active lane's access is to one word of `n` bytes at the place that `pa` names. -/
def ServedWord (s : State) (gr : Grp) (chk : State → Fin 32 → State × Except Trap Acc) (n : Nat) (pa : Fin 32 → Nat) : Prop :=
  ∃ acc : Fin 32 → Acc, Served s gr chk acc
    ∧ ∀ l, (s.cur.active gr).getLsbD l.val = true → (∃ p, (acc l).parts = [p] ∧ p.place = .mem (pa l) false ∧ p.off = 0 ∧ p.n = n ∧ p.key = (acc l).key) ∧ (acc l).cfmt = 0
/-- An access is to one doubleword of device memory. -/
def AtDword (x : Acc) (pa : Nat) : Prop := ∃ p, x.parts = [p] ∧ p.place = .mem pa false ∧ p.off = 0 ∧ p.n = 8 ∧ p.key = x.key
/-- Every active lane's access is to `n` bytes of the local store of a block, at the offset that `off` names. -/
def ServedLocal (s : State) (gr : Grp) (chk : State → Fin 32 → State × Except Trap Acc) (core bslot n : Nat) (off : Fin 32 → Nat) : Prop :=
  ∀ l, (s.cur.active gr).getLsbD l.val = true → s.cur.threads[l].pending.length ≤ 4
    ∧ ∃ a p, chk s l = (s, .ok a) ∧ markDirty s s.core.id a = (s, true) ∧ a.parts = [p] ∧ p.place = .loc core bslot (off l) ∧ p.off = 0 ∧ p.n = n
/-- No active lane's write takes a release tag. -/
def Untagged (gr : Grp) (s : State) : Prop :=
  s.cur.memrev = true ∧ ∀ l : Fin 32, (s.cur.active gr).getLsbD l.val = true → s.cur.threads[l].span ≠ some .core

/-- The bytes of an access to device memory. -/
def bytesAt (m : Memory) (a : Acc) : List Byte :=
  a.parts.flatMap fun p => match p.place with | .mem pa _ => m.bytes pa p.n | _ => []
/-- Device memory with the bytes of an access put. -/
def putAt (m : Memory) (a : Acc) (d : List Byte) : Memory :=
  a.parts.foldl (fun m p => match p.place with | .mem pa _ => m.put pa ((d.drop p.off).take p.n) | _ => m) m
/-- Word `j` of a loaded value of a type (R258). -/
def loadedWord (ty : BitVec 3) (x j : Nat) : Word :=
  if ty = 1 then BitVec.ofInt 32 (if x < 128 then (x : Int) else x - 256)
  else if ty = 3 then BitVec.ofInt 32 (if x < 32768 then (x : Int) else x - 65536)
  else BitVec.ofNat 32 (x / 2 ^ (32 * j))
/-- Doubleword `j` of a value that LDU loads (R263). -/
def loadedDword (ty : BitVec 3) (x j : Nat) : Dword :=
  if ty = 1 then BitVec.ofInt 64 (if x < 128 then (x : Int) else x - 256)
  else if ty = 3 then BitVec.ofInt 64 (if x < 32768 then (x : Int) else x - 65536)
  else BitVec.ofNat 64 (x / 2 ^ (64 * j))
/-- The words of `n` consecutive registers from `v` in a lane, as a number. -/
def Regs.wide (r : Regs) (v n : Nat) (l : Fin 32) : Nat := ((List.range n).map fun j => (r.v (v + j) l).toNat * 2 ^ (32 * j)).sum
/-- The `n` registers from `v` take words in the lanes of a mask. -/
def Regs.putWide (r : Regs) (v n : Nat) (m : Mask) (x : Fin 32 → Nat → Word) : Regs :=
  (List.range n).foldl (fun r j => r.putV (v + j) m fun l => x l j) r

/-- Read-modify-writes of words of `n` bytes, lane after lane: the memory they leave and each lane's old value. `step` gives what a lane
writes over an old value, if it writes. -/
def serially (n : Nat) (at_ : Fin 32 → Nat) (step : Fin 32 → Nat → Option Nat) : List (Fin 32) → Memory → Memory × (Fin 32 → Nat)
  | [], m => (m, fun _ => 0)
  | l :: r, m =>
    let old := m.nat (at_ l) n
    let later := serially n at_ step r (match step l old with | some x => m.put (at_ l) (leBytes n x) | none => m)
    (later.1, fun k => if k = l then old else later.2 k)

/-- LOCK or UNLOCK of lines, lane after lane (R272): the table they leave and each lane's status. `full` says that a line's set holds
16 locked lines. -/
def lockSerially (key : LockKey) (unlock : Bool) (full : List (Nat × LockKey) → Nat → Bool) (at_ : Fin 32 → Nat) :
    List (Fin 32) → List (Nat × LockKey) → List (Nat × LockKey) × (Fin 32 → Nat)
  | [], t => (t, fun _ => 0)
  | l :: r, t =>
    let held := assoc (at_ l / 64) t
    let (t', status) :=
      if unlock then (if held = some key then (t.filter fun x => x.1 ≠ at_ l / 64, 1) else (t, 0))
      else if held = some key then (t, 3)
      else if held.isSome then (t, 0)
      else if full t (at_ l / 64) then (t, 2)
      else (assocSet (at_ l / 64) key t, 1)
    let later := lockSerially key unlock full at_ r t'
    (later.1, fun k => if k = l then status else later.2 k)

/-- Nothing of the machine differs between the states but device memory and the L1 cache of the core, and of the issuing warp only its
registers v and s, what its lanes have touched, and what the warp slot keeps of the group: no predicate or tile register, no accumulator,
no address of a lane, no mode, no trap register, no special register. -/
def OnlyMemory (s t : State) : Prop :=
  t = { s with
    home := t.home, core := { s.core with l1 := t.core.l1 }
    cur := { s.cur with
      v := t.cur.v, s := t.cur.s, threads := t.cur.threads, wait := t.cur.wait, base := t.cur.base, grp := t.cur.grp, resume := t.cur.resume } }
/-- The same, but for the bytes of local stores and the caches of the cores they stand on: those of one block differ, no other block. -/
def OnlyLocal (core bslot : Nat) (s t : State) : Prop :=
  OnlyMemory { s with core := { s.core with blocks := t.core.blocks }, cores := t.cores } t
    ∧ ∀ c b, (c, b) ≠ (core, bslot) → t.blockAt c b = s.blockAt c b
/-- A byte of device memory that an access does not reach. -/
def Outside (a : Acc) (k : Nat) : Prop := ∀ p ∈ a.parts, ∀ pa st, p.place = .mem pa st → k < pa ∨ pa + p.n ≤ k
/-- A byte that no active lane's `n` bytes contain. -/
def Apart (m : Mask) (n : Nat) (at_ : Fin 32 → Nat) (k : Nat) : Prop := ∀ l, m.getLsbD l.val = true → k < at_ l ∨ at_ l + n ≤ k

/-- Performing the group raises a trap at it (R387). -/
def Traps (i : Instr) (s : State) (t : Trap) : Prop := exec i s = .next (pumpRecords (takeTrap (begun i s) t))
/-- The group waits: its warp is parked with it, and `u` says what its attempt has left. -/
def WaitsIn (i : Instr) (s u : State) (w : Wait) : Prop :=
  exec i s = .next (pumpRecords { u with cur := { u.cur.park i with wait := w } })

/-! ## Barriers, copies, handles -/

/-- The active lanes stand past the group, parked at a barrier (R282). -/
def arrived (gr : Grp) (b : BarId) (s : State) : State :=
  let u := past gr s
  { u with cur := { u.cur with
      barpark := s.cur.barpark ||| s.cur.active gr
      parkAt := Vector.ofFn fun l => if (s.cur.active gr).getLsbD l.val then b else s.cur.parkAt[l] } }

/-- The length, the handle and the channel that a copy's first parameter word names (R119, R120, R121). -/
def copyFields (kind : BitVec 2) (w0 : Dword) : Nat × Option Nat × Nat :=
  let x := w0.toNat
  if kind = 0 then (x % 2 ^ 32, if w0.getLsbD 37 then some (x / 2 ^ 32 % 32) else none, x / 2 ^ 38 % 4)
  else if kind = 1 then
    let r := x % 4096 + 1
    let c := x / 2 ^ 12 % 4096 + 1
    let t := w0.getLsbD 26
    (((if t then c else r) + x / 2 ^ 27 % 64) * ((if t then r else c) + x / 2 ^ 33 % 64) * 2 ^ (x / 2 ^ 24 % 4),
      if w0.getLsbD 44 then some (x / 2 ^ 39 % 32) else none, x / 2 ^ 45 % 4)
  else ((x % 65536 + 1) * (4 * (x / 2 ^ 16 % 64 + 1)), if w0.getLsbD 27 then some (x / 2 ^ 22 % 32) else none, x / 2 ^ 28 % 4)

/-- One repetition of an accepted copy (R116, R126, R129): the copy stands last in its channel with its parameters, in the block's
open batch; its handle goes from FREE to FILLING; the executing lanes have touched its domain. -/
def AcceptsCopy (kind : BitVec 2) (rd ra rk : Nat) (s t : State) : Prop :=
  let dst := s.cur.getS rd
  let src := s.cur.getS ra
  let w0 := s.cur.getS rk
  let w1 := if kind = 0 then 0 else s.cur.getS (rk + 1)
  let f := copyFields kind w0
  ∃ b, s.curBlock = some b ∧ copyCheck s kind dst src rk w0 w1 = .ok ()
    ∧ (∀ h, f.2.1 = some h → (b.handles.getD h {}).state = 0 ∧ handleClaimed s b h = false)
    ∧ (s.core.copies.filter fun c => c.chan = BitVec.ofNat 2 f.2.2).length < 16
    ∧ (let c : Copy := { no := s.core.copyNo, chan := BitVec.ofNat 2 f.2.2, kind := kind, dst := dst, src := src, w0 := w0, w1 := w1, len := f.1
                         handle := f.2.1.map fun h => BitVec.ofNat 5 h, batch := b.openNo, bslot := some b.bslot, genLS := b.genLS
                         launch := s.cur.launch, block := s.cur.block, rank := b.rank, warp := s.cur.idx, supv := s.cur.supervisor }
       let filling := fun (x : Handle) => { x with
         state := 1, err := none, chan := c.chan, kind := kind, len := c.len, deliv := 0, waitE := x.waitE &&& ~~~BitVec.ofNat 32 (2 ^ s.cur.idx) }
       let open_ := fun (b : Block) => { b with
         openUsed := true
         handles := match f.2.1 with | some h => b.handles.setIfInBounds h (filling (b.handles.getD h {})) | none => b.handles }
       let u : State := { s with
         core := { s.core with
           copies := s.core.copies ++ [c]
           copyNo := s.core.copyNo + 1
           blocks := s.core.blocks.map fun (x : Block) => if x.bslot = b.bslot then open_ x else x } }
       t = { u with cur := touch s.cur s.cur.executing (copyDomain u dst src f.1 (sourceSpan kind w0 w1)) })

/-- The block of the issuing warp with a change. -/
def withBlock (s : State) (b : Block) (f : Block → Block) : State :=
  { s with core := { s.core with blocks := s.core.blocks.map fun x => if x.bslot = b.bslot then f x else x } }
/-- A handle of a block with a change. -/
def withHandle (h : BitVec 5) (f : Handle → Handle) (b : Block) : Block :=
  { b with handles := b.handles.setIfInBounds h.toNat (f (b.handles.getD h.toNat {})) }

/-! ## The matrix engine, geometry, shading, rays -/

/-- A matrix instruction takes the lowest free entry of the job table (R293, R303). -/
def TakesJob (kind : JobKind) (accs : Byte) (idx : Vector Nat 5) (d : Domain) (s t : State) : Prop :=
  s.core.jobs.length < 16 ∧ (s.core.jobs.filter fun j => j.slot = s.cur.slot && j.snap.isNone).length < 4
    ∧ ∃ e < 16, (∀ j ∈ s.core.jobs, j.entry ≠ e) ∧ (∀ k < e, ∃ j ∈ s.core.jobs, j.entry = k)
      ∧ (let j : Job := { entry := e, slot := s.cur.slot, order := s.core.jobOrder, kind := kind, accs := accs, genAcc := s.cur.genAcc
                          launch := s.cur.launch, block := s.cur.block, warp := s.cur.idx, idx := idx }
         t = { s with
           core := { s.core with jobs := s.core.jobs ++ [j], jobOrder := s.core.jobOrder + 1 }
           cur := touch s.cur s.cur.executing d })
/-- The warp holds the accumulator, on a core with a matrix engine (R172, R293). -/
def HasAcc (s : State) (a : Nat) : Prop := s.mgmt.hasMatrix s.core.id = true ∧ a < s.cur.nacc

/-- Items that lanes access pass their checks, made in order (R259). -/
def ChecksItems {α : Type} (items : List (Fin 32 × α)) (chk : State → Fin 32 → α → State × Except Trap Acc) (s t : State)
    (as : List (Fin 32 × Acc)) : Prop :=
  ∃ rs, checkEach s items chk = (t, rs) ∧ failuresOf rs = [] ∧ as = passedOf rs
/-- Checked items are loaded in order: their values. -/
def LoadsAll (fresh : Bool) (cpol : BitVec 3) (as : List (Fin 32 × Acc)) (s t : State) (vs : List Nat) : Prop :=
  ∃ s2 ws, Sweeps (LoadsLane fresh cpol) as s s2 ws ∧ t = touchAll s2 as ∧ vs = ws.map fun x => leNat x.2.bytes
/-- Map words that lanes need are checked in order and loaded in order: their values (R259). -/
def ReadsMaps {α : Type} (fresh : Bool) (cpol : BitVec 3) (items : List (Fin 32 × α)) (chk : State → Fin 32 → α → State × Except Trap Acc)
    (s t : State) (vs : List Nat) : Prop :=
  ∃ s1 as, ChecksItems items chk s s1 as ∧ LoadsAll fresh cpol as s1 t vs
/-- Items that lanes access, checked in order, then loaded in order: their values. -/
def LoadsItems {α : Type} (fresh : Bool) (cpol : BitVec 3) (items : List (Fin 32 × α)) (chk : State → Fin 32 → α → State × Except Trap Acc)
    (s t : State) (vs : List Nat) : Prop :=
  ∃ s1 as s2, ChecksItems items chk s s1 as ∧ markLanes s1 as = (s2, true) ∧ LoadsAll fresh cpol as s2 t vs
/-- A descriptor of 64 bytes, read once for the group by its lowest active lane. -/
def LoadsDescriptor (m : Mask) (va : Dword) (fresh : Bool) (cpol : BitVec 3) (s t : State) (x : Nat) : Prop :=
  ∃ s1 as s2 ws, checkLanes s [lowLane m] (fun s l => checkLane s l va 64 64 .data) = (s1, .ok as) ∧ Sweeps (LoadsLane fresh cpol) as s1 s2 ws
    ∧ t = touchAll s2 as ∧ x = (ws.map fun y => leNat y.2.bytes).headD 0
/-- Each loaded value of an item, by lane and item. -/
def valuesOf {α : Type} (items : List (Fin 32 × α)) (vs : List Nat) (l : Fin 32) : List Nat :=
  ((items.zip vs).filter fun y => y.1.1 = l).map fun y => y.2

/-- One repetition of TEX, or of TEXFB where no page is missing: the descriptor, the lookups, the texels (R340, R341, R342). -/
def TexturesOnce (gr : Grp) (d a : Nat) (lka : BitVec 2) (sb : Nat) (fb : Bool) (s t : State) : Prop :=
  let m := s.cur.active gr
  let arg := s.cur.getS sb
  let va := sext57 (arg - BitVec.ofNat 64 (arg.toNat % 64))
  let use := fun (s : State) => { s with cur := s.cur.lastUse s.cur.executing lka [a, a + 1, a + 2] }
  if m = 0 then t = use s
  else arg.toNat / 2 % 32 = 0 ∧ ∃ s1 x s2 ws s3 vs,
    LoadsDescriptor m va false (cpolOf gr) s s1 x ∧ badTexture x = false
    ∧ (let tx := textureOf x
       let look := fun (l : Fin 32) =>
         (if arg.getLsbD 0 then texFetch else texSample) tx (s1.cur.getV a l) (s1.cur.getV (a + 1) l) (s1.cur.getV (a + 2) l)
       let need := (lanesOf m).flatMap fun l => (look l).offsets.map fun o => (l, o)
       ReadsMaps false (cpolOf gr) (if fb then need else []) (fun s l o => checkLane s l (mapWord tx.rmap (o / 65536)) 4 4 .data) s1 s2 ws
       ∧ (∀ y ∈ (if fb then need else []).zip ws, mapBit y.2 (y.1.2 / 65536) = true)
       ∧ LoadsItems false (cpolOf gr) need
           (fun s l o => checkLane s l (tx.base + BitVec.ofNat 64 o) (texelBytes tx.fmt) (texelBytes tx.fmt) .data) s2 s3 vs
       ∧ (let result := fun (l : Fin 32) => (texResult tx (look l) (valuesOf need vs l)
            ++ (if fb then [if look l = Lookup.outside then 2 else 0] else [])).map fun y => BitVec.ofNat 32 y
          let u := (lanesOf m).foldl (fun s l => landWords s d l (result l)) (use s3)
          t = if u.cur.memrev then u else acquire u m .core))

/-- One repetition of LDCL where no page of the set is missing (R325, R326): a status and the loaded words for every active lane. -/
def ClustersOnce (gr : Grp) (v vi sb : Nat) (ty : BitVec 3) (fresh : Bool) (s t : State) : Prop :=
  let m := s.cur.active gr
  if m = 0 then t = s
  else ∃ s1 x s2 ws s3 vs,
    LoadsDescriptor m (s.cur.getS sb) fresh (cpolOf gr) s s1 x ∧ badCluster x = false
    ∧ (let at_ := fun (k : Nat) => sext57 (BitVec.ofNat 64 (x / 2 ^ (64 * k) % 2 ^ 57))
       let off := fun (l : Fin 32) => ((s1.cur.getV vi l).toNat : Int) + (offOf gr).toInt
       let isIn := fun (l : Fin 32) => decide (0 ≤ off l ∧ off l + (tyBytes ty : Int) ≤ (x / 2 ^ 64 % 2 ^ 24 * 65536 : Nat))
       let page := fun (l : Fin 32) => (off l).toNat / 65536
       let ins := (lanesOf m).filter isIn
       ReadsMaps fresh (cpolOf gr) (ins.map fun l => (l, ())) (fun s l _ => checkLane s l (mapWord (at_ 2) (page l)) 4 4 .data) s1 s2 ws
       ∧ (∀ y ∈ ins.zip ws, mapBit y.2 (page y.1) = true)
       ∧ LoadsItems fresh (cpolOf gr) (ins.map fun l => (l, ()))
           (fun s l _ => checkLane s l (at_ 0 + BitVec.ofNat 64 (off l).toNat) (tyBytes ty) (tyBytes ty) .data) s2 s3 vs
       ∧ (let words := fun (l : Fin 32) =>
            if isIn l then 0 :: (List.range (tyRegs ty)).map fun i =>
              BitVec.ofNat 32 ((valuesOf (ins.map fun l => (l, ())) vs l).headD 0 / 2 ^ (32 * i))
            else 2 :: List.replicate (tyRegs ty) 0
          let u := (lanesOf m).foldl (fun s l => landWords s v l (words l)) s3
          t = if u.cur.memrev then u else acquire u m .core))

/-- A lane's RPIX (R75, R339), unless the lane was performed before the group's replay (R388). -/
def PaintsLane (op : BitVec 3) (fmt die a : Nat) (s : State) (l : Fin 32) (acc : Acc) (t : State) (_ : Unit) : Prop :=
  if doneLane s l = true then t = s
  else
    let n := if fmt = 2 then 1 else 4
    let src := (List.range n).map fun k => (s.cur.getV (a + k) l).toNat
    ∃ u b, pixelRead s (curIssuer s (laneBit l)) die acc (texelBytes fmt) = (u, .ok b)
      ∧ pixelWrite u (curIssuer s (laneBit l)) die acc (packTexel fmt ((((unpackTexel fmt (leNat b)).take n).zip src).map fun x =>
          pixelOp op x.1 x.2 (if fmt = 2 then f32.one else src.getD 3 0))) = (t, .ok ())

/-- The permutation by which HSORT moves the threads of a block of one warp (R351): by key, then by old lane. -/
def Sorts (key : Fin 32 → Word) (f : Fin 32 → Fin 32) : Prop :=
  ∀ i j : Fin 32, i < j → (key (f i)).toNat < (key (f j)).toNat ∨ (key (f i) = key (f j) ∧ f i < f j)

/-- The writes of a settled frame, in order (R362, R365 to R367): a status record for every tile or block, the present bitmap, the
results at their destination, the hold store. -/
def frameWrites (s : State) (r : Root) (vs : List NodeVal) (present : List Bool) : List FrameWrite :=
  let j := joinDesc r.desc
  (vs.zipIdx.map fun x => .virt r.core r.lau (j.statAddr + BitVec.ofNat 64 (4 * x.2)) (leBytes 4 (statusRecord j x.1)))
    ++ [.virt r.core r.lau j.pbMap (bitmapBytes present)] ++ (vs.zipIdx.map fun x => destWrites s r x.2 x.1).flatMap (fun x => x.1)
    ++ (List.range j.count).flatMap (holdWrites r)

/-! ## Fetching and traps -/

/-- The words at a warp's program counter from number `n` on are fetched one after another (R180, R184): no word faults or waits, none meets
a breakpoint (R429), none is rewritten by a Lichen slot (R373). -/
def Fetches : State → Nat → List Word → State → Prop
  | s, _, [], t => t = s
  | s, n, w :: r, t => ∃ u, fetchWord s (wordAddr s.cur n) = (u, .ok w)
      ∧ (breakAt u.mgmt (wordAddr s.cur n) = true → u.cur.skipWatch = true) ∧ deliver u false w = .word w false ∧ Fetches u (n + 1) r t

/-- The codes of handler traps, of system traps and of service faults (R386); fetch straddle is one or another by its subcode. -/
def handlerCodes : List (BitVec 8) := [0x01, 0x02, 0x04, 0x08, 0x09, 0x18, 0x19, 0x1A, 0x20, 0x21, 0x28, 0x29, 0x31]
def systemCodes : List (BitVec 8) := [0x03, 0x30, 0x38, 0x3F, 0x40, 0x41]
def serviceCodes : List (BitVec 8) := [0x10, 0x11, 0x12, 0x14, 0x15]

/-- The warp as a trap's handler finds it (R392), entered at an address: the interrupted addresses saved, every live lane at the entry, the
four registers describing the trap of the group at `pc` with the executing lanes `e`; nothing else of it changed but what its slot keeps of the group. -/
def HandlerAt (w : Warp) (pc : Dword) (e : Mask) (t : Trap) (entry : Dword) (sys : Bool) (x : Warp) : Prop :=
  x.slpc = w.lpc ∧ x.tmask = true ∧ x.inhdl = true ∧ x.sysHdl = sys ∧ x.wait = .none ∧ x.parked = none ∧ x.held = 0
    ∧ (∀ l : Fin 32, x.lpc[l] = if w.liveMask.getLsbD l.val then Warp.pcOf entry else w.lpc[l])
    ∧ x.tcause.toNat = t.code.toNat + 2 ^ 8 * t.sub.toNat + (if t.late then 2 ^ 17 else 0) + 2 ^ 23 * t.usub.toNat
    ∧ x.tpc.toNat = pc.toNat % 2 ^ 57 ∧ x.taddr = t.addr ∧ x.tlanes.toNat = e.toNat + 2 ^ 32 * t.lanes.toNat
    ∧ x = { w with
        slpc := x.slpc, tmask := x.tmask, inhdl := x.inhdl, sysHdl := x.sysHdl, wait := x.wait, parked := x.parked, held := x.held, lpc := x.lpc
        tcause := x.tcause, tpc := x.tpc, taddr := x.taddr, tlanes := x.tlanes
        resume := x.resume, sresume := x.sresume, woken := x.woken, failed := x.failed }

/-! ## Memories and numbers -/

/-- Core numbers, and the slots of the warps on a core, are each used once. -/
def Distinct (s : State) : Prop :=
  (s.allCores.map fun k => k.id).Nodup ∧ ∀ k ∈ s.allCores, ((s.warpsOf k.id).map fun w => w.slot).Nodup

/-- Every byte memory of the machine has the canonical form: device memory, the host's, each node's, each block's local store, and what a detached
copy keeps of one. -/
def memoriesWf (s : State) : Prop :=
  s.home.mem.wf = true ∧ s.fabric.host.wf = true ∧ (∀ n ∈ s.fabric.nodes, n.mem.wf = true)
    ∧ (∀ k ∈ s.allCores, (∀ b ∈ k.blocks, b.local_.wf = true) ∧ ∀ c ∈ k.copies, c.snap.wf = true)

end Sys2Proof.Safety
end

