-- ==== Sys2Proof/Certificates/Slice0/Obligations.lean ====
section
/-! DEFINITION. The statements for the provers. -/

open Sys2Proof Sys2Proof.Machine Sys2Proof.Safety

/-! ## The integer instructions -/

/-- R178, R196 to R200: the integer instructions of formats V3, V2, VI and VK, but SEL and the comparisons, give every active lane their
result, and change nothing else. -/
def Obligations.IntegerInstructions : Prop :=
  (V3Gives .iadd false (fun gr a b _ => result32 gr (a.toInt + b.toInt))
  ∧ V3Gives .isub false (fun gr a b _ => result32 gr (a.toInt - b.toInt))
  ∧ V3Gives .imul false (fun _ a b _ => BitVec.ofNat 32 (a.toNat * b.toNat))
  ∧ V3Gives .imulhiS false (fun _ a b _ => BitVec.ofInt 32 ((a.toInt * b.toInt) >>> 32))
  ∧ V3Gives .imulhiU false (fun _ a b _ => BitVec.ofNat 32 ((a.toNat * b.toNat) >>> 32))
  ∧ V3Gives .imad true (fun gr a b c => result32 gr (a.toInt * b.toInt + c.toInt))
  ∧ V3Gives .iminS false (fun _ a b _ => BitVec.ofInt 32 (min a.toInt b.toInt))
  ∧ V3Gives .iminU false (fun _ a b _ => BitVec.ofNat 32 (min a.toNat b.toNat))
  ∧ V3Gives .imaxS false (fun _ a b _ => BitVec.ofInt 32 (max a.toInt b.toInt))
  ∧ V3Gives .imaxU false (fun _ a b _ => BitVec.ofNat 32 (max a.toNat b.toNat))
  ∧ V3Gives .andV false (fun _ a b _ => maskOf fun i => a.getLsbD i.val && b.getLsbD i.val)
  ∧ V3Gives .orV false (fun _ a b _ => maskOf fun i => a.getLsbD i.val || b.getLsbD i.val)
  ∧ V3Gives .xorV false (fun _ a b _ => maskOf fun i => a.getLsbD i.val != b.getLsbD i.val)
  ∧ V3Gives .shl false (fun _ a b _ => BitVec.ofNat 32 (a.toNat * 2 ^ (b.toNat % 256)))
  ∧ V3Gives .shr false (fun _ a b _ => BitVec.ofNat 32 (a.toNat / 2 ^ (b.toNat % 256)))
  ∧ V3Gives .sar false (fun _ a b _ => BitVec.ofInt 32 (a.toInt / 2 ^ (b.toNat % 256)))
  ∧ V3Gives .bfe true (fun _ a b c => BitVec.ofInt 32 (fieldOf 32 a.toNat (b.toNat % 256) (c.toNat % 256) (c.getLsbD 8)))
  ∧ V3Gives .bfi true (fun _ a b c => maskOf fun i =>
      let pos := c.toNat % 256
      if pos ≤ i.val ∧ i.val < pos + c.toNat / 256 % 256 then a.getLsbD (i.val - pos) else b.getLsbD i.val))
  ∧ (V2Gives .iabs (fun gr a _ => result32 gr (max a.toInt (-a.toInt)))
  ∧ V2Gives .popc (fun _ a _ => BitVec.ofNat 32 ((List.range 32).filter fun i => a.getLsbD i).length)
  ∧ V2Gives .clz (fun _ a _ => BitVec.ofNat 32 ((List.range 32).filter fun i => a.toNat < 2 ^ i).length)
  ∧ V2Gives .mov (fun _ a _ => a)
  ∧ (∀ i, V2Gives (fun gr d a lka => .iaddi gr d a lka i) fun gr a _ => result32 gr (a.toInt + (BitVec.ofInt 32 (immediate gr i)).toInt))
  ∧ (∀ i, V2Gives (fun gr d a lka => .andi gr d a lka i) fun gr a _ => a &&& BitVec.ofInt 32 (immediate gr i))
  ∧ (∀ i, V2Gives (fun gr d a lka => .ori gr d a lka i) fun gr a _ => a ||| BitVec.ofInt 32 (immediate gr i))
  ∧ (∀ i, V2Gives (fun gr d a lka => .xori gr d a lka i) fun gr a _ => a ^^^ BitVec.ofInt 32 (immediate gr i))
  ∧ (∀ i, V2Gives (fun gr d a lka => .andni gr d a lka i) fun gr a _ => a &&& BitVec.ofInt 32 (-1 - immediate gr i))
  ∧ (∀ i, V2Gives (fun gr d a lka => .shli gr d a lka i) fun _ a _ => BitVec.ofNat 32 (a.toNat * 2 ^ i.toNat))
  ∧ (∀ i, V2Gives (fun gr d a lka => .shri gr d a lka i) fun _ a _ => BitVec.ofNat 32 (a.toNat / 2 ^ i.toNat))
  ∧ (∀ i, V2Gives (fun gr d a lka => .sari gr d a lka i) fun _ a _ => BitVec.ofInt 32 (a.toInt / 2 ^ i.toNat))
  ∧ (∀ i, V2Gives (fun gr d a lka => .roti gr d a lka i)
      fun _ a _ => BitVec.ofNat 32 (a.toNat * 2 ^ i.toNat % 2 ^ 32 + a.toNat * 2 ^ i.toNat / 2 ^ 32))
  ∧ ∀ gr d i s, Runs (.movi gr d i) s → (∀ k < reps gr, HasV s.cur (repD gr d.toNat k)) →
      Writes (.movi gr d i) gr s fun k r => r.putV (repD gr d.toNat k) (s.cur.active gr) fun _ => BitVec.ofInt 32 (immediate gr i))

/-- R197, R201, R243: comparisons write predicate bits, and SEL chooses by them; R172: p7 reads 1 and ignores a write. -/
def Obligations.ComparesAndSelect : Prop :=
  (∀ c, PGives (fun gr p => .icmp gr p c) fun a b => holdsInt c a.toInt b.toInt a.toNat b.toNat)
  ∧ (∀ c, PGives (fun gr p => .fcmp gr p c) fun a b => fcond c a b)
  ∧ ∀ gr d a lka b lkb bu s, Runs (.sel gr d a lka b lkb bu) s → v3Has s.cur gr d a b bu false →
      (∀ k < reps gr, repC gr gr.cReg.toNat k ≤ 7) →
      Writes (.sel gr d a lka b lkb bu) gr s fun k r =>
        ((r.lastUse s.cur.executing lka [repA gr a.toNat k]).lastUse s.cur.executing (if bu = 1 then 0 else lkb) [repB gr b.toNat k]).putV
          (repD gr d.toNat k) (s.cur.active gr) fun l =>
            if (r.p (repC gr gr.cReg.toNat k)).getLsbD l.val then r.v (repA gr a.toNat k) l else r.b bu (repB gr b.toNat k) l

/-! ## The floating-point instructions -/

/-- R239, R241 to R253: the floating-point and packed instructions give every active lane the result by the rounded operations of their
formats, and change nothing else; FCVT keeps the other elements of the old d. -/
def Obligations.FloatInstructions : Prop :=
  (V3Gives .fadd false (fun gr a b _ => satF gr (f32.add (rndOf gr) a.toNat b.toNat))
  ∧ V3Gives .fsub false (fun gr a b _ => satF gr (f32.sub (rndOf gr) a.toNat b.toNat))
  ∧ V3Gives .fmul false (fun gr a b _ => satF gr (f32.mul (rndOf gr) a.toNat b.toNat))
  ∧ V3Gives .ffma true (fun gr a b c => satF gr (f32.fma (rndOf gr) a.toNat b.toNat c.toNat))
  ∧ V3Gives .fmin false (fun _ a b _ => w32 (f32.minmax false a.toNat b.toNat))
  ∧ V3Gives .fmax false (fun _ a b _ => w32 (f32.minmax true a.toNat b.toNat))
  ∧ V3Gives .fscale false (fun gr a b _ => satF gr (f32.scale (rndOf gr) a.toNat b.toInt))
  ∧ V3Gives .hadd2 false (fun gr a b _ =>
      let h x := (packedFmt gr).clamp01 (satOf gr) x
      BitVec.ofNat 32 (h ((packedFmt gr).add (rndOf gr) (a.toNat / 65536) (b.toNat / 65536)) * 65536
        + h ((packedFmt gr).add (rndOf gr) (a.toNat % 65536) (b.toNat % 65536))))
  ∧ V3Gives .hmul2 false (fun gr a b _ =>
      let h x := (packedFmt gr).clamp01 (satOf gr) x
      BitVec.ofNat 32 (h ((packedFmt gr).mul (rndOf gr) (a.toNat / 65536) (b.toNat / 65536)) * 65536
        + h ((packedFmt gr).mul (rndOf gr) (a.toNat % 65536) (b.toNat % 65536))))
  ∧ V3Gives .hfma2 true (fun gr a b c =>
      let h x := (packedFmt gr).clamp01 (satOf gr) x
      BitVec.ofNat 32 (h ((packedFmt gr).fma (rndOf gr) (a.toNat / 65536) (b.toNat / 65536) (c.toNat / 65536)) * 65536
        + h ((packedFmt gr).fma (rndOf gr) (a.toNat % 65536) (b.toNat % 65536) (c.toNat % 65536))))
  ∧ V3Gives .dot4 true (fun gr a b c => dot4 gr a b c))
  ∧ (V2Gives .fclass (fun _ a _ => fclass a)
  ∧ V2Gives .frnd (fun gr a _ => satF gr (frnd (rndOf gr) a.toNat))
  ∧ (∀ u, V2Gives (fun gr d a lka => .f2i gr d a lka u) fun gr a _ => f2i (u = 1) (rndOf gr) a)
  ∧ (∀ u, V2Gives (fun gr d a lka => .i2f gr d a lka u) fun gr a _ => i2f (u = 1) (rndOf gr) a)
  ∧ ∀ f t q, fcvtWidth f * (q.toNat + 1) ≤ 32 ∨ fcvtWidth f = 32 → fcvtWidth t * (q.toNat + 1) ≤ 32 ∨ fcvtWidth t = 32 →
      V2Gives (fun gr d a lka => .fcvt gr d a lka f t q) fun gr a old =>
        let v := fcvt f.toNat t.toNat (rndOf gr) (satOf gr)
          (if fcvtWidth f = 32 then a.toNat else a.toNat / 2 ^ (q.toNat * fcvtWidth f) % 2 ^ fcvtWidth f)
        if fcvtWidth t = 32 then BitVec.ofNat 32 v
        else maskOf fun i =>
          if i.val / fcvtWidth t = q.toNat then v.testBit (i.val % fcvtWidth t) else old.getLsbD i.val)

/-- R235, R236: an exact magnitude n/d within the range of F32 is rounded toward zero to the largest F32 value not above it, away
from zero to the smallest not below it, and to nearest to whichever of the two is nearer; a tie goes to the even pattern
under RNE and away from zero under RNA. -/
def Obligations.RoundingToF32 : Prop :=
  ∀ n d : Nat, 0 < n → 0 < d → n ≤ (2 ^ 24 - 1) * 2 ^ 104 * d →
    ∃ lo hi : Nat, ∃ vlo vhi : Int, f32.round 1 false false n d = lo ∧ f32.round 2 false false n d = hi
      ∧ f32.unpack lo = .fin false vlo ∧ f32.unpack hi = .fin false vhi
      ∧ vlo * d ≤ n * 2 ^ 149 ∧ n * 2 ^ 149 ≤ vhi * d
      ∧ (hi = lo + 1 ∨ (hi = lo ∧ vlo * d = n * 2 ^ 149))
      ∧ f32.round 3 false false n d = lo ∧ f32.round 3 true false n d = 0x80000000 + hi ∧ f32.round 2 true false n d = 0x80000000 + lo
      ∧ f32.round 0 false false n d = (if (n * 2 ^ 149 : Int) * 2 < (vlo + vhi) * d then lo
          else if (vlo + vhi) * d < (n * 2 ^ 149 : Int) * 2 then hi else if lo % 2 = 0 then lo else hi)
      ∧ f32.round 4 false false n d = (if (n * 2 ^ 149 : Int) * 2 < (vlo + vhi) * d then lo else hi)

/-! ## The lane operations -/

/-- R206, R208, R209, R210: SHFL, MATCH, REDUX and PSCAN by the participants of each lane's partition, and PART. -/
def Obligations.LaneExchange : Prop :=
  (∀ m i, LanesGive (fun gr d a lka => .shfl gr d a lka m 0 i) fun w _ v l => v (shuffled w m i.toNat l))
  ∧ (∀ m i gr d a lka s, Runs (.shfl gr d a lka m 1 i) s → v2Has s.cur gr d a → (∀ k < reps gr, HasV s.cur (repC gr gr.cReg.toNat k)) →
      Writes (.shfl gr d a lka m 1 i) gr s fun k r =>
        ((r.lastUse s.cur.executing lka [repA gr a.toNat k]).lastUse s.cur.executing gr.lkc [repC gr gr.cReg.toNat k]).putV
          (repD gr d.toNat k) (s.cur.active gr) fun l =>
            r.v (repA gr a.toNat k) (shuffled s.cur m ((r.v (repC gr gr.cReg.toNat k) l).toNat % 32) l))
  ∧ LanesGive (fun gr d a lka => .matchV gr d a lka 0) (fun w gr v l => ballotOf w gr l fun k => v k = v l)
  ∧ LanesGive (fun gr d a lka => .matchV gr d a lka 1)
      (fun w gr v l => BitVec.ofNat 32 ((List.finRange 32).filter fun k => joins w gr l k && v k = v l).length)
  ∧ LanesGive (fun gr d a lka => .matchV gr d a lka 2)
      (fun w gr v l => BitVec.ofNat 32 (((List.range 32).find? fun i => (ballotOf w gr l fun k => v k = v l).getLsbD i).getD 0))
  ∧ (∀ o, LanesGive (fun gr d a lka => .redux gr d a lka o) fun w gr v l => combined w gr o v l fun _ => true)
  ∧ (∀ o, LanesGive (fun gr d a lka => .pscan gr d a lka o 0) fun w gr v l => combined w gr o v l fun k => k ≤ l)
  ∧ (∀ o, LanesGive (fun gr d a lka => .pscan gr d a lka o 1) fun w gr v l => combined w gr o v l fun k => k < l)
  ∧ ∀ gr c s, Runs (.part gr c) s →
      ∃ t, exec (.part gr c) s = .next (pumpRecords t) ∧ Advanced gr s t ∧ regsOf t.cur = regsOf s.cur
        ∧ t.cur.partw = (if s.cur.active gr = 0 then s.cur.partw else c)
        ∧ OnlyRegisters { s with cur := { s.cur with partw := t.cur.partw } } t

/-- R143, R205, R207, R222: VOTE in its four modes performs and completes; VOTE.ALL of a whole warp that is not together, or that stands in a handler or
in a microprogram, traps. -/
def Obligations.Votes : Prop :=
  (∀ gr d n p s, Runs (.vote gr d 0 0 0 n p) s → (∀ k < reps gr, repD gr d.toNat k ≤ 7) → (s.cur.width = 32 → Together s.cur gr) →
    Writes (.vote gr d 0 0 0 n p) gr s fun k r => r.putP (repD gr d.toNat k) (s.cur.active gr)
      (maskOf fun l => decide (∀ j, joins s.cur gr l j = true → (r.p p.toNat).getLsbD j.val = decide (n = 0))))
  ∧ (∀ gr d n p s, Runs (.vote gr d 0 0 1 n p) s → (∀ k < reps gr, repD gr d.toNat k ≤ 7) →
    Writes (.vote gr d 0 0 1 n p) gr s fun k r => r.putP (repD gr d.toNat k) (s.cur.active gr)
      (maskOf fun l => decide (∃ j, joins s.cur gr l j = true ∧ (r.p p.toNat).getLsbD j.val = decide (n = 0))))
  ∧ (∀ gr d a lka s, Runs (.vote gr d a lka 2 0 0) s → (∀ k < reps gr, repD gr d.toNat k ≤ 7 ∧ HasV s.cur (repA gr a.toNat k)) →
    Writes (.vote gr d a lka 2 0 0) gr s fun k r =>
      (r.lastUse s.cur.executing lka [repA gr a.toNat k]).putP (repD gr d.toNat k) (s.cur.active gr)
        (maskOf fun l => decide (∀ i j, joins s.cur gr l i = true → joins s.cur gr l j = true →
          r.v (repA gr a.toNat k) i = r.v (repA gr a.toNat k) j)))
  ∧ (∀ gr d n p s, Runs (.vote gr d 0 0 3 n p) s → (∀ k < reps gr, HasV s.cur (repD gr d.toNat k)) →
    Writes (.vote gr d 0 0 3 n p) gr s fun k r => r.putV (repD gr d.toNat k) (s.cur.active gr) fun l =>
      ballotOf s.cur gr l fun j => (r.p p.toNat).getLsbD j.val = decide (n = 0))
  ∧ ∀ gr d n p s, s.cur.present = true → s.cur.executing ≠ 0 → s.cur.width = 32 → (∀ k < reps gr, repD gr d.toNat k ≤ 7) →
    let raises := fun (sub : Nat) => Traps (.vote gr d 0 0 0 n p) s (trap 0x02 sub)
    let w := s.cur
    (w.micro.isSome = true → raises 4)
    ∧ (w.micro = none → w.inhdl = true → raises 6)
    ∧ (w.micro = none → w.inhdl = false → w.liveMask ≠ 0xFFFFFFFF → raises 0)
    ∧ (w.micro = none → w.inhdl = false → w.liveMask = 0xFFFFFFFF → w.executing ≠ 0xFFFFFFFF → raises 1)
    ∧ (w.micro = none → w.inhdl = false → w.liveMask = 0xFFFFFFFF → w.executing = 0xFFFFFFFF → w.guardMask gr ≠ 0xFFFFFFFF → raises 2)

/-! ## The uniform instructions -/

/-- R178, R182, R202 to R204: the uniform instructions, the tile moves and the immediate forms act once for the warp. -/
def Obligations.UniformInstructions : Prop :=
  (U3Gives .sadd (fun a b => BitVec.ofNat 64 (a.toNat + b.toNat))
  ∧ U3Gives .ssub (fun a b => BitVec.ofInt 64 (a.toInt - b.toInt))
  ∧ U3Gives (fun gr d a b => .smul gr d a b 0) (fun a b => BitVec.ofNat 64 (a.toNat * b.toNat))
  ∧ U3Gives (fun gr d a b => .smul gr d a b 1) (fun a b => BitVec.ofInt 64 ((a.toInt * b.toInt) >>> 64))
  ∧ U3Gives (fun gr d a b => .smul gr d a b 2) (fun a b => BitVec.ofNat 64 ((a.toNat * b.toNat) >>> 64))
  ∧ U3Gives .sand (fun a b => BitVec.ofNat 64 (a.toNat &&& b.toNat))
  ∧ U3Gives .sor (fun a b => BitVec.ofNat 64 (a.toNat ||| b.toNat))
  ∧ U3Gives .sxor (fun a b => BitVec.ofNat 64 (a.toNat ^^^ b.toNat))
  ∧ U3Gives .sandn (fun a b => BitVec.ofNat 64 (a.toNat - (a.toNat &&& b.toNat)))
  ∧ U3Gives .sshl (fun a b => BitVec.ofNat 64 (a.toNat * 2 ^ (b.toNat % 256)))
  ∧ U3Gives .sshr (fun a b => BitVec.ofNat 64 (a.toNat / 2 ^ (b.toNat % 256)))
  ∧ U3Gives .ssar (fun a b => BitVec.ofInt 64 (a.toInt / 2 ^ (b.toNat % 256)))
  ∧ U3Gives .srot (fun a b => BitVec.ofNat 64 (a.toNat * 2 ^ (b.toNat % 64) % 2 ^ 64 + a.toNat * 2 ^ (b.toNat % 64) / 2 ^ 64))
  ∧ (∀ c, U3Gives (fun gr d a b => .scmp gr d a b 0 c)
      fun a b => if holdsInt c a.toInt b.toInt a.toNat b.toNat then BitVec.ofInt 64 (-1) else 0)
  ∧ (∀ c, U3Gives (fun gr d a b => .scmp gr d a b 1 c) fun a b =>
      if holdsInt c (Int.bmod a.toNat (2 ^ 32)) (Int.bmod b.toNat (2 ^ 32)) (a.toNat % 2 ^ 32) (b.toNat % 2 ^ 32) then BitVec.ofInt 64 (-1) else 0)
  ∧ (∀ u, U3Gives (fun gr d a b => .sbfe gr d a b u)
      fun a b => BitVec.ofInt 64 (fieldOf 64 a.toNat (b.toNat % 64) (b.toNat / 256 % 128) (u = 1)))
  ∧ U3Gives (fun gr d a b => .smin gr d a b 0) (fun a b => BitVec.ofInt 64 (min a.toInt b.toInt))
  ∧ U3Gives (fun gr d a b => .smin gr d a b 1) (fun a b => BitVec.ofNat 64 (min a.toNat b.toNat))
  ∧ U3Gives (fun gr d a b => .smax gr d a b 0) (fun a b => BitVec.ofInt 64 (max a.toInt b.toInt))
  ∧ U3Gives (fun gr d a b => .smax gr d a b 1) (fun a b => BitVec.ofNat 64 (max a.toNat b.toNat)))
  ∧ (U2Gives .spopc (fun _ a => BitVec.ofNat 64 ((List.range 64).filter fun i => a.getLsbD i).length)
  ∧ U2Gives .sclz (fun _ a => BitVec.ofNat 64 ((List.range 64).filter fun i => a.toNat < 2 ^ i).length)
  ∧ U2Gives .sctz (fun _ a => BitVec.ofNat 64 (((List.range 64).find? fun i => a.toNat % 2 ^ (i + 1) ≠ 0).getD 64))
  ∧ U2Gives .sbrev (fun _ a => BitVec.ofNat 64 (((List.range 64).map fun i => if a.getLsbD i then 2 ^ (63 - i) else 0).sum))
  ∧ U2Gives .smov (fun _ a => a)
  ∧ (∀ i, U2Gives (fun gr d a => .saddi gr d a i) fun gr a => BitVec.ofInt 64 (a.toInt + immediate gr i))
  ∧ (∀ gr d i s, Runs (.smovi gr d i) s → (∀ k < reps gr, repD gr d.toNat k < 64) →
    Writes (.smovi gr d i) gr s (uRep s.cur gr fun k r => r.putS (repD gr d.toNat k) (BitVec.ofInt 64 (immediate gr i))))
  ∧ (∀ gr d a s, Runs (.smovTlo gr d a) s → (∀ k < reps gr, repD gr d.toNat k < 8 ∧ repA gr a.toNat k < 64) →
    Writes (.smovTlo gr d a) gr s (uRep s.cur gr fun k r => r.putT (repD gr d.toNat k)
      (BitVec.ofNat 128 ((r.t (repD gr d.toNat k)).toNat / 2 ^ 64 * 2 ^ 64 + (r.s (repA gr a.toNat k)).toNat))))
  ∧ (∀ gr d a s, Runs (.smovThi gr d a) s → (∀ k < reps gr, repD gr d.toNat k < 8 ∧ repA gr a.toNat k < 64) →
    Writes (.smovThi gr d a) gr s (uRep s.cur gr fun k r => r.putT (repD gr d.toNat k)
      (BitVec.ofNat 128 ((r.s (repA gr a.toNat k)).toNat * 2 ^ 64 + (r.t (repD gr d.toNat k)).toNat % 2 ^ 64))))
  ∧ (∀ gr d a s, Runs (.smovSlo gr d a) s → (∀ k < reps gr, repD gr d.toNat k < 64 ∧ repA gr a.toNat k < 8) →
    Writes (.smovSlo gr d a) gr s (uRep s.cur gr fun k r => r.putS (repD gr d.toNat k)
      (BitVec.ofNat 64 ((r.t (repA gr a.toNat k)).toNat % 2 ^ 64))))
  ∧ ∀ gr d a s, Runs (.smovShi gr d a) s → (∀ k < reps gr, repD gr d.toNat k < 64 ∧ repA gr a.toNat k < 8) →
    Writes (.smovShi gr d a) gr s (uRep s.cur gr fun k r => r.putS (repD gr d.toNat k)
      (BitVec.ofNat 64 ((r.t (repA gr a.toNat k)).toNat / 2 ^ 64))))

/-! ## SFU, SGET and control flow -/

/-- R147, R169, R239, R254: SFU's results by lane. Where results land at once it writes them; where they go on their way, each active
lane's is among the core's returns, and only last uses change a register. -/
def Obligations.SpecialFunctions : Prop :=
  (∀ u gr d a lka s, Runs (.sfu gr d a lka u) s → v2Has s.cur gr d a → s.cur.resumed.rep = 0 → (s.sched.late = false ∨ s.cur.inMicro = true) →
    Writes (.sfu gr d a lka u) gr s (v2Rep s.cur gr d a lka fun x _ => sfu u (rndOf gr) (satOf gr) x))
  ∧ ∀ u gr d a lka s, Runs (.sfu gr d a lka u) s → v2Has s.cur gr d a → s.cur.resumed.rep = 0 → s.sched.late = true → s.cur.inMicro = false →
    let used := fun k (r : Regs) => r.lastUse s.cur.executing lka [repA gr a.toNat k]
    ∃ t, Ends (.sfu gr d a lka u) s t ∧ Advanced gr s t ∧ regsOf t.cur = repeated used (reps gr) (regsOf s.cur)
      ∧ t.core = { s.core with returns := s.core.returns ++ lateReturns s gr (fun k => repD gr d.toNat k) fun k l =>
          (sfu u (rndOf gr) (satOf gr) ((repeated used k (regsOf s.cur)).v (repA gr a.toNat k) l)).setWidth 64 }
      ∧ OnlyRegisters { s with core := t.core } t

/-- R172, R174, R211 to R213: SGET writes the selected special value to the active lanes, %clock a pair; V2S and S2V move values between lanes
and uniform registers; PMOV in its seven kinds, a write to p7 ignored. -/
def Obligations.SpecialValuesAndMoves : Prop :=
  ((∀ gr d e s, e.toNat < 16 → Runs (.sget gr d e) s → s.cur.resumed.rep = 0 → (∀ k < reps gr, HasV s.cur (repD gr d.toNat k)) →
    Writes (.sget gr d e) gr s fun k r => r.putV (repD gr d.toNat k) (s.cur.active gr) fun l => BitVec.ofNat 32 ((specials s l).getD e.toNat 0))
  ∧ ∀ gr d s, Runs (.sget gr d 16) s → s.cur.resumed.rep = 0 →
    (∀ k < reps gr, HasV s.cur (repD gr d.toNat k) ∧ HasV s.cur (repD gr d.toNat k + 1)) →
    Writes (.sget gr d 16) gr s fun k r => (r.putV (repD gr d.toNat k) (s.cur.active gr) fun _ => BitVec.ofNat 32 (s.clock / 4)).putV
      (repD gr d.toNat k + 1) (s.cur.active gr) fun _ => BitVec.ofNat 32 (s.clock / 4 / 2 ^ 32))
  ∧ ((∀ gr d a lka sx first lane s, Runs (.v2s gr d a lka sx 0 first lane) s →
    (∀ k < reps gr, repD gr d.toNat k < 64 ∧ HasV s.cur (repA gr a.toNat k)) →
    Writes (.v2s gr d a lka sx 0 first lane) gr s (uRep s.cur gr fun k r =>
      let l : Fin 32 := if first = 1 then lowLane (s.cur.active gr) else Fin.ofNat 32 lane.toNat
      (r.lastUse s.cur.executing lka [repA gr a.toNat k]).putS (repD gr d.toNat k)
        (if sx = 1 then BitVec.ofInt 64 (r.v (repA gr a.toNat k) l).toInt else BitVec.ofNat 64 (r.v (repA gr a.toNat k) l).toNat)))
  ∧ (∀ gr d a lka first lane s, Runs (.v2s gr d a lka 0 1 first lane) s →
    (∀ k < reps gr, repD gr d.toNat k < 64 ∧ HasV s.cur (repA gr a.toNat k) ∧ HasV s.cur (repA gr a.toNat k + 1)) →
    Writes (.v2s gr d a lka 0 1 first lane) gr s (uRep s.cur gr fun k r =>
      let l : Fin 32 := if first = 1 then lowLane (s.cur.active gr) else Fin.ofNat 32 lane.toNat
      (r.lastUse s.cur.executing lka [repA gr a.toNat k, repA gr a.toNat k + 1]).putS (repD gr d.toNat k)
        (BitVec.ofNat 64 ((r.v (repA gr a.toNat k) l).toNat + 2 ^ 32 * (r.v (repA gr a.toNat k + 1) l).toNat))))
  ∧ (∀ gr d a s, Runs (.s2v gr d a 0) s → (∀ k < reps gr, HasV s.cur (repD gr d.toNat k) ∧ repA gr a.toNat k < 64) →
    Writes (.s2v gr d a 0) gr s fun k r => r.putV (repD gr d.toNat k) (s.cur.active gr) fun _ => lo32 (r.s (repA gr a.toNat k)))
  ∧ ∀ gr d a s, Runs (.s2v gr d a 1) s →
    (∀ k < reps gr, HasV s.cur (repD gr d.toNat k) ∧ HasV s.cur (repD gr d.toNat k + 1) ∧ repA gr a.toNat k < 64) →
    Writes (.s2v gr d a 1) gr s fun k r => (r.putV (repD gr d.toNat k) (s.cur.active gr) fun _ => lo32 (r.s (repA gr a.toNat k))).putV
      (repD gr d.toNat k + 1) (s.cur.active gr) fun _ => hi32 (r.s (repA gr a.toNat k)))
  ∧ ((∀ gr d a n m p s, Runs (.pmovAnd gr d a n m p) s → (∀ k < reps gr, repD gr d.toNat k ≤ 7 ∧ repA gr a.toNat k ≤ 7) →
    Writes (.pmovAnd gr d a n m p) gr s fun k r => r.putP (repD gr d.toNat k) (s.cur.active gr)
      (maskOf fun l => ((r.p (repA gr a.toNat k)).getLsbD l.val != decide (n = 1)) && ((r.p p.toNat).getLsbD l.val != decide (m = 1))))
  ∧ (∀ gr d a n m p s, Runs (.pmovOr gr d a n m p) s → (∀ k < reps gr, repD gr d.toNat k ≤ 7 ∧ repA gr a.toNat k ≤ 7) →
    Writes (.pmovOr gr d a n m p) gr s fun k r => r.putP (repD gr d.toNat k) (s.cur.active gr)
      (maskOf fun l => ((r.p (repA gr a.toNat k)).getLsbD l.val != decide (n = 1)) || ((r.p p.toNat).getLsbD l.val != decide (m = 1))))
  ∧ (∀ gr d a n m p s, Runs (.pmovXor gr d a n m p) s → (∀ k < reps gr, repD gr d.toNat k ≤ 7 ∧ repA gr a.toNat k ≤ 7) →
    Writes (.pmovXor gr d a n m p) gr s fun k r => r.putP (repD gr d.toNat k) (s.cur.active gr)
      (maskOf fun l => ((r.p (repA gr a.toNat k)).getLsbD l.val != decide (n = 1)) != ((r.p p.toNat).getLsbD l.val != decide (m = 1))))
  ∧ (∀ gr d a s, Runs (.pmovP2v gr d a) s → (∀ k < reps gr, HasV s.cur (repD gr d.toNat k) ∧ repA gr a.toNat k ≤ 7) →
    Writes (.pmovP2v gr d a) gr s fun k r => r.putV (repD gr d.toNat k) (s.cur.active gr) fun l =>
      if (r.p (repA gr a.toNat k)).getLsbD l.val then 1 else 0)
  ∧ (∀ gr d a lka s, Runs (.pmovV2p gr d a lka) s → (∀ k < reps gr, repD gr d.toNat k ≤ 7 ∧ HasV s.cur (repA gr a.toNat k)) →
    Writes (.pmovV2p gr d a lka) gr s fun k r => (r.lastUse s.cur.executing lka [repA gr a.toNat k]).putP (repD gr d.toNat k)
      (s.cur.active gr) (maskOf fun l => (r.v (repA gr a.toNat k) l).getLsbD 0))
  ∧ (∀ gr d a s, Runs (.pmovP2s gr d a) s → (∀ k < reps gr, repD gr d.toNat k < 64 ∧ repA gr a.toNat k ≤ 7) →
    Writes (.pmovP2s gr d a) gr s (uRep s.cur gr fun k r => r.putS (repD gr d.toNat k) (BitVec.ofNat 64 (r.p (repA gr a.toNat k)).toNat)))
  ∧ ∀ gr d a s, Runs (.pmovS2p gr d a) s → (∀ k < reps gr, repD gr d.toNat k ≤ 7 ∧ repA gr a.toNat k < 64) →
    Writes (.pmovS2p gr d a) gr s fun k r => r.putP (repD gr d.toNat k) (s.cur.active gr) (lo32 (r.s (repA gr a.toNat k))))

/-- R176, R214, R215, R221, R222: BRA, BRP, BRS and CALL complete, outside a microprogram, where a BRANCH packet is the only other effect and without
a trace there is none (R431); inside one a branch's offset counts operations, BRA needs its active lanes to agree, and a target outside
operations 0 to 31, and a BRA that splits the lanes, raise trap 0x02. A CALL inside a microprogram, or without v14 and v15, traps. -/
def Obligations.Branches : Prop :=
  ((∀ s ty d, traced s s.cur.launch = false → emitCur s ty d = s)
  ∧ (∀ gr p n o s, Runs (.bra gr p n o) s → s.cur.micro = none →
      let c := branches s.cur p n
      let b := begun (.bra gr p n o) s
      Ends (.bra gr p n o) s { emitCur b 1 (leBytes 4 c.toNat) with cur := { b.cur with lpc := jumped s.cur gr c fun _ => branchAddress s.cur gr o } })
  ∧ (∀ gr p n o s, Runs (.brp gr p n o) s → s.cur.micro = none →
      let c := if branches s.cur p n = 0 then 0 else s.cur.executing
      let b := begun (.brp gr p n o) s
      Ends (.brp gr p n o) s { emitCur b 1 (leBytes 4 c.toNat) with cur := { b.cur with lpc := jumped s.cur gr c fun _ => branchAddress s.cur gr o } })
  ∧ (∀ gr p n o s, Runs (.brs gr p n o) s → s.cur.micro = none →
      let c := if branches s.cur p n = s.cur.executing then s.cur.executing else 0
      let b := begun (.brs gr p n o) s
      Ends (.brs gr p n o) s { emitCur b 1 (leBytes 4 c.toNat) with cur := { b.cur with lpc := jumped s.cur gr c fun _ => branchAddress s.cur gr o } })
  ∧ ∀ gr p n o s, Runs (.call gr p n o) s → 2 ≤ s.cur.vgran →
      let c := branches s.cur p n
      let b := begun (.call gr p n o) s
      ∃ t, Ends (.call gr p n o) s t ∧ t = { emitCur b 1 (leBytes 4 c.toNat) with cur := t.cur }
        ∧ t.cur = { b.cur with v := t.cur.v, lpc := jumped s.cur gr c fun _ => branchAddress s.cur gr o }
        ∧ regsOf t.cur = linked s.cur gr c (regsOf s.cur))
  ∧ (∀ gr p n o s m, s.cur.micro = some m →
    let c := branches s.cur p n
    let k : Int := m.op + hintWords gr + o.toInt
    let goes (i : Instr) (taken : Prop) [Decidable taken] : State :=
      if taken then { begun i s with cur := { (begun i s).cur with micro := some { m with op := k.toNat } } } else past gr (begun i s)
    (Runs (.bra gr p n o) s → (c = 0 ∨ c = s.cur.executing) → 0 ≤ k → k ≤ 31 → Ends (.bra gr p n o) s (goes (.bra gr p n o) (c ≠ 0)))
    ∧ (Runs (.brp gr p n o) s → 0 ≤ k → k ≤ 31 → Ends (.brp gr p n o) s (goes (.brp gr p n o) (c ≠ 0)))
    ∧ (Runs (.brs gr p n o) s → 0 ≤ k → k ≤ 31 → Ends (.brs gr p n o) s (goes (.brs gr p n o) (c = s.cur.executing)))
    ∧ (Runs (.bra gr p n o) s → c ≠ 0 → c ≠ s.cur.executing → Traps (.bra gr p n o) s (trap 0x02 0x03))
    ∧ (Runs (.bra gr p n o) s → (c = 0 ∨ c = s.cur.executing) → (k < 0 ∨ 31 < k) → Traps (.bra gr p n o) s (trap 0x02 0x04))
    ∧ (Runs (.brp gr p n o) s → (k < 0 ∨ 31 < k) → Traps (.brp gr p n o) s (trap 0x02 0x04))
    ∧ (Runs (.brs gr p n o) s → (k < 0 ∨ 31 < k) → Traps (.brs gr p n o) s (trap 0x02 0x04))
    ∧ (s.cur.present = true → s.cur.executing ≠ 0 → Traps (.call gr p n o) s (trap 0x02 0x04)))
  ∧ ∀ gr p n o s, Runs (.call gr p n o) s → s.cur.vgran < 2 → Traps (.call gr p n o) s (trap 0x01 0x06)

/-- R188, R215, R216: JMPI, CALLI and RET complete and take each active lane to the address its register pair names. Under HINT.REP each repetition
checks the addresses that its pair then holds, uses it last and, in CALLI, writes the link; the lanes go where the last one's names (log 10).
An address that is not canonical, or no multiple of 4, traps before any lane moves; inside a microprogram each of the three traps. -/
def Obligations.IndirectTransfers : Prop :=
  ∀ gr a lka s, s.cur.resumed.rep = 0 →
    (∀ k < reps gr, HasV s.cur (repA gr a.toNat k) ∧ HasV s.cur (repA gr a.toNat k + 1)) →
    let m := s.cur.active gr
    let last := repA gr a.toNat (reps gr - 1)
    let goes (i : Instr) (kind : Nat) (link : Bool) : Prop :=
      let before := fun (k : Nat) => repeated (transferred s.cur gr a lka link) k (regsOf s.cur)
      let b := begun i s
      (∀ k < reps gr, ∀ l, m.getLsbD l.val = true →
        canonical (pairOf (before k) (repA gr a.toNat k) l) = true ∧ (pairOf (before k) (repA gr a.toNat k) l).toNat % 4 = 0) →
      ∃ t x, regsOf x = before (reps gr - 1) ∧ Ends i s t ∧ t = { emitCur b 2 (indirectPacket x kind last m) with cur := t.cur }
        ∧ t.cur = { b.cur with v := t.cur.v, lpc := jumped s.cur gr m fun l => pairOf (before (reps gr - 1)) last l }
        ∧ regsOf t.cur = before (reps gr)
    let address := fun (l : Fin 32) => pairOf (regsOf s.cur) (repA gr a.toNat 0) l
    let refuses (i : Instr) : Prop :=
      (∀ l : Fin 32, m.getLsbD l.val = true → canonical (address l) = false → (∀ j < l, m.getLsbD j.val = true → canonical (address j) = true) →
        Traps i s { trapAt 10 0x10 0x02 (address l) with lanes := maskOf fun j => m.getLsbD j.val && !canonical (address j) })
      ∧ ∀ l : Fin 32, (∀ j : Fin 32, m.getLsbD j.val = true → canonical (address j) = true) → m.getLsbD l.val = true → (address l).toNat % 4 ≠ 0 →
        (∀ j < l, m.getLsbD j.val = true → (address j).toNat % 4 = 0) →
        Traps i s { trapAt 70 0x18 0x01 (address l) with lanes := maskOf fun j => m.getLsbD j.val && decide ((address j).toNat % 4 ≠ 0) }
    (Runs (.jmpi gr a lka) s → goes (.jmpi gr a lka) 0 false ∧ refuses (.jmpi gr a lka))
    ∧ (Runs (.ret gr a lka) s → goes (.ret gr a lka) 2 false ∧ refuses (.ret gr a lka))
    ∧ (Runs (.calli gr a lka) s → 2 ≤ s.cur.vgran → goes (.calli gr a lka) 1 true ∧ refuses (.calli gr a lka))
    ∧ (s.cur.present = true → s.cur.executing ≠ 0 → s.cur.micro.isSome = true →
        Traps (.jmpi gr a lka) s (trap 0x02 0x04) ∧ Traps (.ret gr a lka) s (trap 0x02 0x04) ∧ Traps (.calli gr a lka) s (trap 0x02 0x04))

/-- R151, R169, R217: EXIT retires its active lanes, which may complete barriers; YIELD gives up the lane set; NOP only advances. -/
def Obligations.ExitYieldNop : Prop :=
  (∀ gr s, Runs (.exitL gr) s →
    let m := s.cur.active gr
    let u := past gr (emitCur (begun (.exitL gr) s) 9 (leBytes 4 m.toNat))
    let u := { u with cur := { u.cur with
      live := maskOf fun l => s.cur.live.getLsbD l.val && !m.getLsbD l.val
      threads := Vector.ofFn fun l => if m.getLsbD l.val then { u.cur.threads[l] with ray := none } else u.cur.threads[l] } }
    Ends (.exitL gr) s (afterExit u u.core.id u.cur))
  ∧ (∀ gr s, Runs (.yield gr) s →
    let u := past gr (begun (.yield gr) s)
    Ends (.yield gr) s (if s.cur.active gr = 0 then u else { u with cur := { u.cur with wait := .yield } }))
  ∧ ∀ gr s, Runs (.nop gr) s → Ends (.nop gr) s (past gr (begun (.nop gr) s))

/-- R218, R221, R375, R376, R377: MCALL enters a microprogram of the control store with its parameters and the calling lanes; MRET
commits it, or begins an emulation's next repetition; a claimed or emulated group enters its slot. Groups with no active lane only
pass. -/
def Obligations.Microprograms : Prop :=
  (∀ gr p2 p1 p0 slot s, Runs (.mcall gr p2 p1 p0 slot) s → s.cur.active gr ≠ 0 → slot.toNat < 48 → (microSlot s slot.toNat).isSome = true →
    let b := begun (.mcall gr p2 p1 p0 slot) s
    let m : Micro :=
      { slot := slot.toNat, params := (p0.toNat, p1.toNat, p2.toNat), exec := s.cur.active gr, caller := s.cur.executing
        after := nextPc s.cur gr, sw := gr.sw, tmask := s.cur.tmask, partw := s.cur.partw, v := s.cur.v, p := s.cur.p, s := s.cur.s, t := s.cur.t, acc := s.cur.acc }
    Ends (.mcall gr p2 p1 p0 slot) s { b with cur := { b.cur with micro := some m } })
  ∧ (∀ gr p2 p1 p0 slot s, Runs (.mcall gr p2 p1 p0 slot) s → s.cur.active gr = 0 →
    Ends (.mcall gr p2 p1 p0 slot) s (past gr (begun (.mcall gr p2 p1 p0 slot) s)))
  ∧ (∀ gr s m, Runs (.mret gr) s → s.cur.micro = some m → s.cur.active gr ≠ 0 → m.reps ≤ m.rep + 1 →
    let b := begun (.mret gr) s
    let w := { b.cur with
      micro := none, resume := none
      lpc := Vector.ofFn fun l => if m.caller.getLsbD l.val then Warp.pcOf m.after else s.cur.lpc[l] }
    Ends (.mret gr) s { b with cur := if m.sw = true ∧ outstanding b b.core.id w = true then { w with wait := .results } else w })
  ∧ (∀ gr s m, Runs (.mret gr) s → s.cur.micro = some m → s.cur.active gr ≠ 0 → m.rep + 1 < m.reps →
    let b := begun (.mret gr) s
    let m' : Micro := { m with
      rep := m.rep + 1, op := 0, params := (m.params.1 + m.strides.1, m.params.2.1 + m.strides.2.1, m.params.2.2 + m.strides.2.2)
      tmask := s.cur.tmask, partw := s.cur.partw, v := s.cur.v, p := s.cur.p, s := s.cur.s, t := s.cur.t, acc := s.cur.acc }
    Ends (.mret gr) s { b with cur := { b.cur with micro := some m', resume := none } })
  ∧ (∀ gr s, Runs (.mret gr) s → s.cur.active gr = 0 → Ends (.mret gr) s (past gr (begun (.mret gr) s)))
  ∧ ∀ g word cslot psel s, s.cur.present = true → s.cur.executing ≠ 0 → s.cur.active g ≠ 0 → s.cur.resume = none →
      g.imms = [] → (psel = false → g.cReg = 0 ∧ g.lkc = 0) → (psel = true → g.src.isSome = true) → hintFieldsOk .v3 g = true →
      48 ≤ cslot.toNat → (microSlot s cslot.toNat).isSome = true →
      let b := { s.cur with wait := .none, base := some word, grp := g }
      let third := if psel then g.cReg.toNat else word.toNat / 8 % 64
      let m : Micro :=
        { slot := cslot.toNat, params := (word.toNat / 2 ^ 17 % 64, word.toNat / 2 ^ 11 % 64, third), exec := s.cur.active g
          caller := s.cur.executing, after := nextPc s.cur g, sw := g.sw, emulated := true
          mods := g.mod.map fun h => { rnd := h.rnd, sat := h.sat, cpol := 0, off16 := 0 }, reps := reps g
          strides := (repD g 0 1, repA g 0 1, repB g 0 1)
          tmask := s.cur.tmask, partw := s.cur.partw, v := s.cur.v, p := s.cur.p, s := s.cur.s, t := s.cur.t, acc := s.cur.acc }
      exec (.lichenEmulation g word cslot psel) s = .next
        { emitCur { s with cur := b } 6 (leBytes 8 (basePc s.cur g).toNat ++ leBytes 4 word.toNat ++ [3]) with
          cur := { b.unpark with micro := some m } }

/-! ## Memory instructions -/

/-- R258, R260, R263, R264, R265: the loads. When the register ranges are held and every repetition's accesses are served, the group
ends past itself with the loaded values landed. -/
def Obligations.Loads : Prop :=
  (∀ gr v b i ty f o s t, Runs (.ld gr v b i ty f o) s →
    (∀ k < reps gr, (∀ j < tyRegs ty, HasV s.cur (repD gr v.toNat k + j)) ∧ HasV s.cur (repA gr i.toNat k)) →
    Performs gr (fun k => LoadsOnce gr (repD gr v.toNat k) ty (f = 1) o fun s l =>
      checkLane s l (memAddr s.cur gr b.toNat (repA gr i.toNat k) l) (tyBytes ty) (tyBytes ty) .load) (begun (.ld gr v b i ty f o) s) t →
    Ends (.ld gr v b i ty f o) s (past gr t))
  ∧ (∀ gr v b i ty w o s t, Runs (.ldl gr v b i ty w o) s →
    (∀ k < reps gr, (∀ j < tyRegs ty, HasV s.cur (repD gr v.toNat k + j)) ∧ HasV s.cur (repA gr i.toNat k)) →
    Performs gr (fun k => LoadsOnce gr (repD gr v.toNat k) ty false o fun s l =>
      checkLane s l (localAddr s.cur gr (w = 1) b.toNat (repA gr i.toNat k) l) (tyBytes ty) (tyBytes ty) .load)
      (begun (.ldl gr v b i ty w o) s) t →
    Ends (.ldl gr v b i ty w o) s (past gr t))
  ∧ (∀ gr v b i ty x s t, Runs (.ldp gr v b i ty x) s → toScratch s.cur b.toNat (x = 1) = false →
    (∀ k < reps gr, (∀ j < tyRegs ty, HasV s.cur (repD gr v.toNat k + j)) ∧ HasV s.cur (repA gr i.toNat k)) →
    Performs gr (fun k s t => toScratch s.cur b.toNat (x = 1) = false ∧ LoadsOnce gr (repD gr v.toNat k) ty false 0 (fun s l =>
      checkPrivate s l false (privAddr s.cur gr b.toNat (repA gr i.toNat k) (x = 1) l) ty .load) s t) (begun (.ldp gr v b i ty x) s) t →
    Ends (.ldp gr v b i ty x) s (past gr t))
  ∧ ∀ gr v b ty f o s t, Runs (.ldu gr v b ty f o) s → (∀ k < reps gr, ∀ j < tySRegs ty, repD gr v.toNat k + j < 64) →
    PerformsOnce gr (fun k s t => ∃ s1 as s2 vs,
      checkLanes s (theLane gr s) (fun s l => checkLane s l (uniformAddr s.cur gr b.toNat) (tyBytes ty) (tyBytes ty) .load) = (s1, .ok as)
      ∧ Sweeps (LoadsLane (f = 1) (cpolOf gr)) as s1 s2 vs
      ∧ (let u := vs.foldl (fun s x => ((uniformWords ty x.2.bytes).zip [0, 1]).foldl (fun s y => landS s (repD gr v.toNat k + y.2) y.1) s)
           (touchAll s2 as)
         t = if ordered u.cur o = true then acquire u allLanes (orderDomain u.cur as) else u)) (begun (.ldu gr v b ty f o) s) t →
    Ends (.ldu gr v b ty f o) s (past gr t)

/-- R258, R261, R263, R264, R265: the stores, each lane's bytes taken from its own registers. -/
def Obligations.Stores : Prop :=
  (∀ gr v b i ty o s t, Runs (.st gr v b i ty o) s →
    (∀ k < reps gr, (∀ j < tyRegs ty, HasV s.cur (repD gr v.toNat k + j)) ∧ HasV s.cur (repA gr i.toNat k)) →
    Performs gr (fun k => StoresOnce gr (repD gr v.toNat k) ty o fun s l =>
      checkLane s l (memAddr s.cur gr b.toNat (repA gr i.toNat k) l) (tyBytes ty) (tyBytes ty) .store) (begun (.st gr v b i ty o) s) t →
    Ends (.st gr v b i ty o) s (past gr t))
  ∧ (∀ gr v b i ty w o s t, Runs (.stl gr v b i ty w o) s →
    (∀ k < reps gr, (∀ j < tyRegs ty, HasV s.cur (repD gr v.toNat k + j)) ∧ HasV s.cur (repA gr i.toNat k)) →
    Performs gr (fun k => StoresOnce gr (repD gr v.toNat k) ty o fun s l =>
      checkLane s l (localAddr s.cur gr (w = 1) b.toNat (repA gr i.toNat k) l) (tyBytes ty) (tyBytes ty) .store)
      (begun (.stl gr v b i ty w o) s) t →
    Ends (.stl gr v b i ty w o) s (past gr t))
  ∧ (∀ gr v b i ty x s t, Runs (.stp gr v b i ty x) s → toScratch s.cur b.toNat (x = 1) = false →
    (∀ k < reps gr, (∀ j < tyRegs ty, HasV s.cur (repD gr v.toNat k + j)) ∧ HasV s.cur (repA gr i.toNat k)) →
    Performs gr (fun k s t => toScratch s.cur b.toNat (x = 1) = false ∧ StoresOnce gr (repD gr v.toNat k) ty 0 (fun s l =>
      checkPrivate s l false (privAddr s.cur gr b.toNat (repA gr i.toNat k) (x = 1) l) ty .store) s t) (begun (.stp gr v b i ty x) s) t →
    Ends (.stp gr v b i ty x) s (past gr t))
  ∧ ∀ gr v b ty o s t, Runs (.stu gr v b ty o) s → (∀ k < reps gr, ∀ j < tySRegs ty, repD gr v.toNat k + j < 64) →
    PerformsOnce gr (fun k s t => ∃ s1 as s2 vs,
      checkLanes s (theLane gr s) (fun s l => checkLane s l (uniformAddr s.cur gr b.toNat) (tyBytes ty) (tyBytes ty) .store) = (s1, .ok as)
      ∧ orderedBefore allLanes o as s1
      ∧ (let r := repD gr v.toNat k
         let x := (s1.cur.getS r).toNat + (if 6 ≤ ty.toNat then (s1.cur.getS (r + 1)).toNat * 2 ^ 64 else 0)
         Sweeps (fun s l a t (_ : Unit) => tagged s (tags s1.cur allLanes o as s.cur l)
           (fun s e => storeAcc s (curIssuer s allLanes) a (leBytes (tyBytes ty) x) e) = (t, .ok ())) as s1 s2 vs)
      ∧ t = touchAll s2 as) (begun (.stu gr v b ty o) s) t →
    Ends (.stu gr v b ty o) s (past gr t)

/-- R266, R267, R268, R271: ATOM, CAS and ATOML perform each active lane's read-modify-write once and return the old values. -/
def Obligations.ReadModifyWrites : Prop :=
  (∀ gr v b i c o s t, Runs (.atom gr v b i c o) s →
    (∀ k < reps gr, (∀ j < rmwBytes c / 4, HasV s.cur (repD gr v.toNat k + j)) ∧ HasV s.cur (repA gr i.toNat k)) →
    Performs gr (fun k => UpdatesOnce gr (repD gr v.toNat k) (rmwBytes c / 4) o
      (fun s l => .rmw c (BitVec.ofNat 64 (regNat s.cur (repD gr v.toNat k) (rmwBytes c / 4) l))) id
      fun s l => checkLane s l (memAddr s.cur gr b.toNat (repA gr i.toNat k) l) (rmwBytes c) (rmwBytes c) .atomic (rmwBytes c = 8))
      (begun (.atom gr v b i c o) s) t →
    Ends (.atom gr v b i c o) s (past gr t))
  ∧ (∀ gr v b i w o s t, Runs (.cas gr v b i w o) s →
    let n := if w = 1 then 8 else 4
    (∀ k < reps gr, (∀ j < n / 4, HasV s.cur (repD gr v.toNat k + j)) ∧ HasV s.cur (repA gr i.toNat k)) →
    (∀ j < n / 4, HasV s.cur (gr.cReg.toNat + j)) →
    Performs gr (fun k => UpdatesOnce gr (repD gr v.toNat k) (n / 4) o
      (fun s l => .cas (w = 1) (BitVec.ofNat 64 (regNat s.cur (repD gr v.toNat k) (n / 4) l)) (BitVec.ofNat 64 (regNat s.cur gr.cReg.toNat (n / 4) l)))
      (fun s => { s with cur := s.cur.lastUse s.cur.executing gr.lkc ((List.range (n / 4)).map fun j => gr.cReg.toNat + j) })
      fun s l => checkLane s l (memAddr s.cur gr b.toNat (repA gr i.toNat k) l) n n .atomic (n = 8)) (begun (.cas gr v b i w o) s) t →
    Ends (.cas gr v b i w o) s (past gr t))
  ∧ ∀ gr v b i c s t, Runs (.atoml gr v b i c) s →
    (∀ k < reps gr, (∀ j < rmwBytes c / 4, HasV s.cur (repD gr v.toNat k + j)) ∧ HasV s.cur (repA gr i.toNat k)) →
    Performs gr (fun k => UpdatesOnce gr (repD gr v.toNat k) (rmwBytes c / 4) 0
      (fun s l => .rmw c (BitVec.ofNat 64 (regNat s.cur (repD gr v.toNat k) (rmwBytes c / 4) l))) id
      fun s l => checkOwn s l (localAddr s.cur gr false b.toNat (repA gr i.toNat k) l) (rmwBytes c))
      (begun (.atoml gr v b i c) s) t →
    Ends (.atoml gr v b i c) s (past gr t)

/-- R269, R270, R271: the reductions without a return. -/
def Obligations.Reductions : Prop :=
  (∀ gr v b i c o s t, Runs (.red gr v b i c o) s →
    let n := rmwBytes (c.setWidth 4)
    (∀ k < reps gr, (∀ j < n / 4, HasV s.cur (repD gr v.toNat k + j)) ∧ HasV s.cur (repA gr i.toNat k)) →
    Performs gr (fun k => ReducesOnce gr c (repD gr v.toNat k) n o fun s l =>
      checkLane s l (memAddr s.cur gr b.toNat (repA gr i.toNat k) l) n n .atomic (n = 8) (redMatch c)) (begun (.red gr v b i c o) s) t →
    Ends (.red gr v b i c o) s (past gr t))
  ∧ (∀ gr v b i c s t, Runs (.redl gr v b i c) s →
    let n := rmwBytes (c.setWidth 4)
    (∀ k < reps gr, (∀ j < n / 4, HasV s.cur (repD gr v.toNat k + j)) ∧ HasV s.cur (repA gr i.toNat k)) →
    Performs gr (fun k => ReducesOnce gr c (repD gr v.toNat k) n 0 fun s l =>
      checkOwn s l (localAddr s.cur gr false b.toNat (repA gr i.toNat k) l) n) (begun (.redl gr v b i c) s) t →
    Ends (.redl gr v b i c) s (past gr t))
  ∧ ∀ gr v b i c o s t, Runs (.redHome gr v b i c o) s →
    let n := rmwBytes (c.setWidth 4)
    (∀ k < reps gr, (∀ j < n / 4, HasV s.cur (repD gr v.toNat k + j)) ∧ HasV s.cur (repA gr i.toNat k)) →
    Performs gr (fun k s t => ∃ s1 as,
      ReducesFrom gr o (fun s l => checkLane s l (memAddr s.cur gr b.toNat (repA gr i.toNat k) l) n n .atomic (n = 8) (redMatch c)) s s1 as
      ∧ redHomeLanes c (repD gr v.toNat k) n (s.cur.active gr) s1 as (ordered s1.cur o && s.cur.active gr ≠ 0) (orderDomain s1.cur as) = (t, .done))
      (begun (.redHome gr v b i c o) s) t →
    Ends (.redHome gr v b i c o) s (past gr t)

/-- R272: LOCK and UNLOCK of each active lane's line, the status in v[d]. -/
def Obligations.LineLocks : Prop :=
  (∀ gr v b i s t, Runs (.lock gr v b i) s →
    (∀ k < reps gr, HasV s.cur (repD gr v.toNat k) ∧ HasV s.cur (repA gr i.toNat k)) →
    Performs gr (fun k => LocksOnce gr (repD gr v.toNat k) false fun s l =>
      checkLane s l (memAddr s.cur gr b.toNat (repA gr i.toNat k) l) 4 4 .lock false lockRegion) (begun (.lock gr v b i) s) t →
    Ends (.lock gr v b i) s (past gr t))
  ∧ ∀ gr v b i s t, Runs (.unlock gr v b i) s →
    (∀ k < reps gr, HasV s.cur (repD gr v.toNat k) ∧ HasV s.cur (repA gr i.toNat k)) →
    Performs gr (fun k => LocksOnce gr (repD gr v.toNat k) true fun s l =>
      checkLane s l (memAddr s.cur gr b.toNat (repA gr i.toNat k) l) 4 4 .lock false lockRegion) (begun (.unlock gr v b i) s) t →
    Ends (.unlock gr v b i) s (past gr t)

/-- R52, R53, R97, R98, R274, R276 to R279: PREFETCH changes no register and traps on no address; the fences over the active lanes' touched
domains; CFENCE discards the fetched words; PUBLISH, once its release has nothing to wait for, ends when every home has taken its lines; STASH.MAP of a
well-formed parameter word takes the lowest free entry and returns its number; STASH.UNMAP writes the mapping's dirty lines back and frees the entry. -/
def Obligations.FencesPrefetchStash : Prop :=
  ((∀ gr b i f s, Runs (.prefetch gr b i f) s → s.cur.resumed.rep = 0 → (∀ k < reps gr, HasV s.cur (repA gr i.toNat k)) →
    ∃ t, Ends (.prefetch gr b i f) s (past gr t) ∧ regsOf t.cur = regsOf s.cur)
  ∧ (∀ gr s, Runs (.fenceAcq gr) s →
    let b := begun (.fenceAcq gr) s
    Ends (.fenceAcq gr) s (past gr (if s.cur.active gr = 0 then b else acquire b (s.cur.active gr) (touchedDomain s.cur (s.cur.active gr)))))
  ∧ (∀ gr s, Runs (.fenceRel gr) s → (∀ l ∈ lanesOf (s.cur.active gr),
      releaseGate (begun (.fenceRel gr) s) (laneBit l) (touchedDomain s.cur (laneBit l)) = .go) →
    Ends (.fenceRel gr) s (past gr (spanned (s.cur.active gr) (begun (.fenceRel gr) s))))
  ∧ (∀ gr s, Runs (.fenceSc gr) s → (∀ l ∈ lanesOf (s.cur.active gr),
      releaseGate (begun (.fenceSc gr) s) (laneBit l) (touchedDomain s.cur (laneBit l)) = .go) →
    let u := spanned (s.cur.active gr) (begun (.fenceSc gr) s)
    Ends (.fenceSc gr) s (past gr (if s.cur.active gr = 0 then u else acquire u (s.cur.active gr) (touchedDomain s.cur (s.cur.active gr)))))
  ∧ (∀ gr s, Runs (.cfence gr) s →
      let b := begun (.cfence gr) s
      Ends (.cfence gr) s (past gr { b with cur := { b.cur with ibuf := [] } }))
  ∧ ∀ gr s, Runs (.publish gr) s →
      let b := begun (.publish gr) s
      (s.cur.active gr = 0 → Ends (.publish gr) s (past gr b))
      ∧ (s.cur.active gr ≠ 0 → releaseGate b allLanes .system = .go →
          ∀ u r, publishAll b s.cur.launch (some (s.cur.block, s.cur.idx)) = (u, r) → match r with
            | none => if u.curLaunch.pubLines = [] then Ends (.publish gr) s (past gr u) else WaitsIn (.publish gr) s u .retry
            | some t => t.held = false →
                exec (.publish gr) s = .next (pumpRecords (takeTrap u { t with lanes := u.cur.executing }))))
  ∧ ((∀ gr d a b s t, Runs (.stashMap gr d a b) s → u3Has gr d a b →
    PerformsOnce gr (fun k s t => ∃ bl e s1,
      let gva := s.cur.getS (repA gr a.toNat k)
      let x := (s.cur.getS (repB gr b.toNat k)).toNat
      let loff := x % 128
      let len := x / 256 % 256
      s.curBlock = some bl ∧ gva.toNat % 4096 = 0 ∧ x / 128 % 2 = 0 ∧ x / 2 ^ 17 = 0 ∧ 1 ≤ len ∧ len ≤ 128
      ∧ (loff + len) * 4096 ≤ bl.lsBytes
      ∧ (∀ st ∈ s.core.stash, st.bslot = bl.bslot → st.loff + st.len ≤ loff ∨ loff + len ≤ st.loff)
      ∧ (∀ i < len, stashRegionOk s.curLaunch.regions (gva + BitVec.ofNat 64 (i * 4096)) = true)
      ∧ stashPages s (curCtx s) (x / 2 ^ 16 = 1) gva len 0 = (s1, .ok ())
      ∧ e < 16 ∧ (∀ st ∈ s.core.stash, st.entry ≠ e) ∧ (∀ j < e, ∃ st ∈ s.core.stash, st.entry = j)
      ∧ t = { s1 with
          core := { s1.core with stash := s1.core.stash ++ [{ entry := e, rw := x / 2 ^ 16 = 1, bslot := bl.bslot, loff := loff, len := len, gva := gva }] }
          cur := s1.cur.setS (repD gr d.toNat k) (BitVec.ofNat 64 e) }) (begun (.stashMap gr d a b) s) t →
    Ends (.stashMap gr d a b) s (past gr t))
  ∧ ∀ gr a s t, Runs (.stashUnmap gr a) s → (∀ k < reps gr, repA gr a.toNat k < 64) →
    PerformsOnce gr (fun k s t => ∃ st, (s.core.stash.find? fun x =>
        decide (x.entry = (s.cur.getS (repA gr a.toNat k)).toNat) && decide (x.bslot = s.cur.bslot)) = some st
      ∧ t = unmapStash s s.core.id st) (begun (.stashUnmap gr a) s) t →
    Ends (.stashUnmap gr a) s (past gr t))

/-! ## Memory that nothing holds -/

/-- R258, R260, R263, R264, R265: the loads of memory that nothing else holds give the bytes at the addresses their groups name,
whatever the type, and leave memory alone; LDP in a handler reads the scratch area. -/
def Obligations.LoadsOfQuietMemory : Prop :=
  (∀ gr v b i ty f s acc, Runs (.ld gr v b i ty f 0) s → Quiet s → Single gr s → s.cur.memrev = true → (f = 1 ∨ s.core.l1 = []) →
    (∀ j < tyRegs ty, HasV s.cur (v.toNat + j)) → HasV s.cur i.toNat →
    Served (begun (.ld gr v b i ty f 0) s) gr
      (fun s l => checkLane s l (memAddr s.cur gr b.toNat i.toNat l) (tyBytes ty) (tyBytes ty) .load) acc →
    ∃ t, Ends (.ld gr v b i ty f 0) s (past gr t) ∧ OnlyMemory s t ∧ t.home = s.home
      ∧ regsOf t.cur = (regsOf s.cur).putWide v.toNat (tyRegs ty) (s.cur.active gr)
          fun l j => loadedWord ty (leNat (bytesAt s.home.mem (acc l))) j)
  ∧ (∀ gr v b ty f s a, Runs (.ldu gr v b ty f 0) s → Quiet s → Single gr s → s.cur.memrev = true → (f = 1 ∨ s.core.l1 = []) →
    (∀ j < tySRegs ty, v.toNat + j < 64) → s.cur.active gr ≠ 0 →
    ServedLane (begun (.ldu gr v b ty f 0) s) (lowLane (s.cur.active gr))
      (fun s l => checkLane s l (uniformAddr s.cur gr b.toNat) (tyBytes ty) (tyBytes ty) .load) a →
    ∃ t, Ends (.ldu gr v b ty f 0) s (past gr t) ∧ OnlyMemory s t ∧ t.home = s.home
      ∧ regsOf t.cur = (List.range (tySRegs ty)).foldl
          (fun r j => r.putS (v.toNat + j) (loadedDword ty (leNat (bytesAt s.home.mem a)) j)) (regsOf s.cur))
  ∧ (∀ gr v b i ty w s core bslot off blk, Runs (.ldl gr v b i ty w 0) s → Quiet s → Single gr s → s.cur.memrev = true →
    (∀ j < tyRegs ty, HasV s.cur (v.toNat + j)) → HasV s.cur i.toNat → s.blockAt core bslot = some blk →
    ServedLocal (begun (.ldl gr v b i ty w 0) s) gr
      (fun s l => checkLane s l (localAddr s.cur gr (w = 1) b.toNat i.toNat l) (tyBytes ty) (tyBytes ty) .load) core bslot (tyBytes ty) off →
    ∃ t, Ends (.ldl gr v b i ty w 0) s (past gr t) ∧ OnlyLocal core bslot s t ∧ t.home = s.home ∧ t.blockAt core bslot = some blk
      ∧ regsOf t.cur = (regsOf s.cur).putWide v.toNat (tyRegs ty) (s.cur.active gr)
          fun l j => loadedWord ty (blk.local_.nat (off l) (tyBytes ty)) j)
  ∧ ∀ gr v b i ty x s, Runs (.ldp gr v b i ty x) s → Single gr s → toScratch s.cur b.toNat (x = 1) = true →
    (∀ j < tyRegs ty, HasV s.cur (v.toNat + j)) → HasV s.cur i.toNat →
    (offOf gr).toNat + tyBytes ty ≤ 64 → (offOf gr).toNat % min (tyBytes ty) 4 = 0 →
    ∃ t, Ends (.ldp gr v b i ty x) s (past gr t) ∧ OnlyMemory s t ∧ t.home = s.home
      ∧ regsOf t.cur = (regsOf s.cur).putWide v.toNat (tyRegs ty) (s.cur.active gr)
          fun l j => loadedWord ty (leNat ((List.range (tyBytes ty)).map fun n =>
            BitVec.ofNat 8 (((s.cur.scratch.getD (((offOf gr).toNat + n) / 4) (Vector.replicate 32 0))[l]).toNat
              / 2 ^ (8 * (((offOf gr).toNat + n) % 4))))) j

/-- R258, R261, R263, R264, R265: the stores to memory that nothing else holds put each active lane's bytes at the addresses their
groups name, lane after lane, and change no other byte of memory and no register. -/
def Obligations.StoresToQuietMemory : Prop :=
  (∀ gr v b i ty s acc, Runs (.st gr v b i ty 0) s → Quiet s → s.home.locks = [] → Single gr s → Untagged gr s →
    (∀ j < tyRegs ty, HasV s.cur (v.toNat + j)) → HasV s.cur i.toNat →
    Served (begun (.st gr v b i ty 0) s) gr
      (fun s l => checkLane s l (memAddr s.cur gr b.toNat i.toNat l) (tyBytes ty) (tyBytes ty) .store) acc →
    ∃ t, Ends (.st gr v b i ty 0) s (past gr t) ∧ OnlyMemory s t ∧ regsOf t.cur = regsOf s.cur
      ∧ (∀ k, (∀ l : Fin 32, (s.cur.active gr).getLsbD l.val = true → Outside (acc l) k) → t.home.mem.get k = s.home.mem.get k)
      ∧ t.home = { s.home with mem := (lanesOf (s.cur.active gr)).foldl (fun m l =>
          putAt m (acc l) (leBytes (tyBytes ty) ((regsOf s.cur).wide v.toNat (tyRegs ty) l))) s.home.mem })
  ∧ (∀ gr v b i ty x s acc, Runs (.stp gr v b i ty x) s → Quiet s → s.home.locks = [] → Single gr s → Untagged gr s →
    toScratch s.cur b.toNat (x = 1) = false → (∀ j < tyRegs ty, HasV s.cur (v.toNat + j)) → HasV s.cur i.toNat →
    Served (begun (.stp gr v b i ty x) s) gr
      (fun s l => checkPrivate s l false (privAddr s.cur gr b.toNat i.toNat (x = 1) l) ty .store) acc →
    ∃ t, Ends (.stp gr v b i ty x) s (past gr t) ∧ OnlyMemory s t ∧ regsOf t.cur = regsOf s.cur
      ∧ (∀ k, (∀ l : Fin 32, (s.cur.active gr).getLsbD l.val = true → Outside (acc l) k) → t.home.mem.get k = s.home.mem.get k)
      ∧ t.home = { s.home with mem := (lanesOf (s.cur.active gr)).foldl (fun m l =>
          putAt m (acc l) (leBytes (tyBytes ty) ((regsOf s.cur).wide v.toNat (tyRegs ty) l))) s.home.mem })
  ∧ (∀ gr v b ty s a, Runs (.stu gr v b ty 0) s → Quiet s → s.home.locks = [] → Single gr s → Untagged gr s →
    (∀ j < tySRegs ty, v.toNat + j < 64) → s.cur.active gr ≠ 0 →
    ServedLane (begun (.stu gr v b ty 0) s) (lowLane (s.cur.active gr))
      (fun s l => checkLane s l (uniformAddr s.cur gr b.toNat) (tyBytes ty) (tyBytes ty) .store) a →
    ∃ t, Ends (.stu gr v b ty 0) s (past gr t) ∧ OnlyMemory s t ∧ regsOf t.cur = regsOf s.cur
      ∧ (∀ k, Outside a k → t.home.mem.get k = s.home.mem.get k)
      ∧ t.home = { s.home with mem := putAt s.home.mem a (leBytes (tyBytes ty)
          ((s.cur.getS v.toNat).toNat + (if tySRegs ty = 2 then (s.cur.getS (v.toNat + 1)).toNat * 2 ^ 64 else 0))) })
  ∧ ∀ gr v b i ty w s core bslot off blk, Runs (.stl gr v b i ty w 0) s → Quiet s → Single gr s → Untagged gr s →
    (∀ j < tyRegs ty, HasV s.cur (v.toNat + j)) → HasV s.cur i.toNat → s.blockAt core bslot = some blk →
    ServedLocal (begun (.stl gr v b i ty w 0) s) gr
      (fun s l => checkLane s l (localAddr s.cur gr (w = 1) b.toNat i.toNat l) (tyBytes ty) (tyBytes ty) .store) core bslot (tyBytes ty) off →
    ∃ t, Ends (.stl gr v b i ty w 0) s (past gr t) ∧ OnlyLocal core bslot s t ∧ regsOf t.cur = regsOf s.cur ∧ t.home = s.home
      ∧ t.blockAt core bslot = some { blk with local_ := (lanesOf (s.cur.active gr)).foldl (fun m l =>
          m.put (off l) (leBytes (tyBytes ty) ((regsOf s.cur).wide v.toNat (tyRegs ty) l))) blk.local_ }

/-- R266: what each operation code makes of the old value and the operand. -/
def Obligations.AtomicOperations : Prop :=
  ∀ m x : Nat, m < 2 ^ 32 → x < 2 ^ 32 →
    let sm := (BitVec.ofNat 32 m).toInt
    let sx := (BitVec.ofNat 32 x).toInt
    rmwResult 0 m x = (m + x) % 2 ^ 32 ∧ rmwResult 2 m x = max m x ∧ rmwResult 3 m x = combineAdd f32 [f32.unpack m, f32.unpack x]
    ∧ rmwResult 4 m x = combineMax false m x ∧ rmwResult 5 m x = addBf16x2 m x ∧ rmwResult 6 m x = min m x
    ∧ (BitVec.ofNat 32 (rmwResult 7 m x) = BitVec.ofNat 32 m ||| BitVec.ofNat 32 x)
    ∧ (BitVec.ofNat 32 (rmwResult 8 m x)).toInt = min sm sx ∧ (BitVec.ofNat 32 (rmwResult 9 m x)).toInt = max sm sx
    ∧ (BitVec.ofNat 32 (rmwResult 10 m x) = BitVec.ofNat 32 m &&& BitVec.ofNat 32 x)
    ∧ (BitVec.ofNat 32 (rmwResult 11 m x) = BitVec.ofNat 32 m ^^^ BitVec.ofNat 32 x)
    ∧ rmwResult 12 m x = x ∧ rmwResult 14 m x = combineMax true m x
    ∧ (∀ m x : Nat, rmwResult 1 m x = (m + x) % 2 ^ 64 ∧ rmwResult 13 m x = x)

/-- R266 to R271: read-modify-writes and reductions of memory that nothing else holds are performed lane after lane in ascending
order, each once; ATOM, CAS and ATOML return the old values, RED, RED.HOME and REDL change no register. -/
def Obligations.AtomicsOnQuietMemory : Prop :=
  (∀ gr v b i c s pa, Runs (.atom gr v b i c 0) s → Quiet s → s.home.locks = [] → Single gr s → Untagged gr s →
    (∀ j < rmwBytes c / 4, HasV s.cur (v.toNat + j)) → HasV s.cur i.toNat →
    ServedWord (begun (.atom gr v b i c 0) s) gr
      (fun s l => checkLane s l (memAddr s.cur gr b.toNat i.toNat l) (rmwBytes c) (rmwBytes c) .atomic (rmwBytes c = 8)) (rmwBytes c) pa →
    let run := serially (rmwBytes c) pa (fun l m => some (rmwResult c m ((regsOf s.cur).wide v.toNat (rmwBytes c / 4) l)))
      (lanesOf (s.cur.active gr)) s.home.mem
    ∃ t, Ends (.atom gr v b i c 0) s (past gr t) ∧ OnlyMemory s t ∧ (∀ k, Apart (s.cur.active gr) (rmwBytes c) pa k → t.home.mem.get k = s.home.mem.get k)
      ∧ t.home = { s.home with mem := run.1 }
      ∧ regsOf t.cur = (regsOf s.cur).putWide v.toNat (rmwBytes c / 4) (s.cur.active gr) fun l j => BitVec.ofNat 32 (run.2 l / 2 ^ (32 * j)))
  ∧ (∀ gr v b i w s pa, Runs (.cas gr v b i w 0) s → Quiet s → s.home.locks = [] → Single gr s → Untagged gr s →
    let n := if w = 1 then 8 else 4
    (∀ j < n / 4, HasV s.cur (v.toNat + j) ∧ HasV s.cur (gr.cReg.toNat + j)) → HasV s.cur i.toNat →
    ServedWord (begun (.cas gr v b i w 0) s) gr (fun s l => checkLane s l (memAddr s.cur gr b.toNat i.toNat l) n n .atomic (n = 8)) n pa →
    let run := serially n pa (fun l m => if m = (regsOf s.cur).wide v.toNat (n / 4) l then some ((regsOf s.cur).wide gr.cReg.toNat (n / 4) l) else none)
      (lanesOf (s.cur.active gr)) s.home.mem
    ∃ t, Ends (.cas gr v b i w 0) s (past gr t) ∧ OnlyMemory s t ∧ (∀ k, Apart (s.cur.active gr) n pa k → t.home.mem.get k = s.home.mem.get k)
      ∧ t.home = { s.home with mem := run.1 }
      ∧ regsOf t.cur = ((regsOf s.cur).lastUse s.cur.executing gr.lkc ((List.range (n / 4)).map fun j => gr.cReg.toNat + j)).putWide
          v.toNat (n / 4) (s.cur.active gr) fun l j => BitVec.ofNat 32 (run.2 l / 2 ^ (32 * j)))
  ∧ (∀ gr v b i c s pa, Runs (.red gr v b i c 0) s → Quiet s → s.home.locks = [] → Single gr s → Untagged gr s →
    let n := rmwBytes (c.setWidth 4)
    (∀ j < n / 4, HasV s.cur (v.toNat + j)) → HasV s.cur i.toNat →
    ServedWord (begun (.red gr v b i c 0) s) gr
      (fun s l => checkLane s l (memAddr s.cur gr b.toNat i.toNat l) n n .atomic (n = 8) (redMatch c)) n pa →
    ∃ t, Ends (.red gr v b i c 0) s (past gr t) ∧ OnlyMemory s t ∧ regsOf t.cur = regsOf s.cur
      ∧ (∀ k, Apart (s.cur.active gr) n pa k → t.home.mem.get k = s.home.mem.get k)
      ∧ t.home = { s.home with mem := (serially n pa (fun l m => some (rmwResult (c.setWidth 4) m ((regsOf s.cur).wide v.toNat (n / 4) l)))
          (lanesOf (s.cur.active gr)) s.home.mem).1 })
  ∧ (∀ gr v b i c s pa, Runs (.redHome gr v b i c 0) s → Quiet s → s.home.locks = [] → Single gr s → Untagged gr s →
    let n := rmwBytes (c.setWidth 4)
    (∀ j < n / 4, HasV s.cur (v.toNat + j)) → HasV s.cur i.toNat →
    ServedWord (begun (.redHome gr v b i c 0) s) gr
      (fun s l => checkLane s l (memAddr s.cur gr b.toNat i.toNat l) n n .atomic (n = 8) (redMatch c)) n pa →
    ∃ t, Ends (.redHome gr v b i c 0) s (past gr t) ∧ OnlyMemory s t ∧ regsOf t.cur = regsOf s.cur
      ∧ (∀ k, Apart (s.cur.active gr) n pa k → t.home.mem.get k = s.home.mem.get k)
      ∧ t.home = { s.home with mem := (serially n pa (fun l m => some (rmwResult (c.setWidth 4) m ((regsOf s.cur).wide v.toNat (n / 4) l)))
          (lanesOf (s.cur.active gr)) s.home.mem).1 })
  ∧ (∀ gr v b i c s core bslot off blk, Runs (.atoml gr v b i c) s → Quiet s → Single gr s → Untagged gr s →
    (∀ j < rmwBytes c / 4, HasV s.cur (v.toNat + j)) → HasV s.cur i.toNat → s.blockAt core bslot = some blk →
    ServedLocal (begun (.atoml gr v b i c) s) gr
      (fun s l => checkOwn s l (localAddr s.cur gr false b.toNat i.toNat l) (rmwBytes c)) core bslot (rmwBytes c) off →
    let run := serially (rmwBytes c) off (fun l m => some (rmwResult c m ((regsOf s.cur).wide v.toNat (rmwBytes c / 4) l)))
      (lanesOf (s.cur.active gr)) blk.local_
    ∃ t, Ends (.atoml gr v b i c) s (past gr t) ∧ OnlyLocal core bslot s t ∧ t.home = s.home ∧ t.blockAt core bslot = some { blk with local_ := run.1 }
      ∧ regsOf t.cur = (regsOf s.cur).putWide v.toNat (rmwBytes c / 4) (s.cur.active gr) fun l j => BitVec.ofNat 32 (run.2 l / 2 ^ (32 * j)))
  ∧ ∀ gr v b i c s core bslot off blk, Runs (.redl gr v b i c) s → Quiet s → Single gr s → Untagged gr s →
    let n := rmwBytes (c.setWidth 4)
    (∀ j < n / 4, HasV s.cur (v.toNat + j)) → HasV s.cur i.toNat → s.blockAt core bslot = some blk →
    ServedLocal (begun (.redl gr v b i c) s) gr
      (fun s l => checkOwn s l (localAddr s.cur gr false b.toNat i.toNat l) n) core bslot n off →
    ∃ t, Ends (.redl gr v b i c) s (past gr t) ∧ OnlyLocal core bslot s t ∧ t.home = s.home ∧ regsOf t.cur = regsOf s.cur
      ∧ t.blockAt core bslot = some { blk with local_ := (serially n off
          (fun l m => some (rmwResult (c.setWidth 4) m ((regsOf s.cur).wide v.toNat (n / 4) l))) (lanesOf (s.cur.active gr)) blk.local_).1 }

/-- R272: LOCK and UNLOCK of lines that no other request waits for, lane after lane: the status of each lane and the lines locked. -/
def Obligations.LocksOnQuietLines : Prop :=
  ∀ gr v b i s pa blk, Quiet s → Single gr s → s.cur.memrev = true → s.curBlock = some blk → HasV s.cur v.toNat → HasV s.cur i.toNat →
    let key : LockKey := ⟨s.core.id, blk.bslot, blk.genLS⟩
    let full := fun ls line => decide (16 ≤ lockSetUsed { s with home := { s.home with locks := ls } } none line)
    let run := fun unlock => lockSerially key unlock full pa (lanesOf (s.cur.active gr)) s.home.locks
    let ends := fun (i' : Instr) unlock => Runs i' s →
      ServedWord (begun i' s) gr (fun s l => checkLane s l (memAddr s.cur gr b.toNat i.toNat l) 4 4 .lock false lockRegion) 4 pa →
      ∃ t, Ends i' s (past gr t) ∧ OnlyMemory s t ∧ t.home.mem = s.home.mem ∧ t.home.locks = (run unlock).1
        ∧ regsOf t.cur = (regsOf s.cur).putV v.toNat (s.cur.active gr) fun l => BitVec.ofNat 32 ((run unlock).2 l)
    ends (.lock gr v b i) false ∧ ends (.unlock gr v b i) true

/-! ## Barriers and signals -/

/-- R282, R283, R284: BAR, NBAR and CBAR. The arriving lanes stand past the group and are parked; a barrier whose last lane has
arrived releases its lanes, in every warp of the block. -/
def Obligations.Barriers : Prop :=
  (∀ gr s, Runs (.bar gr) s → s.cur.active gr = 0 → Ends (.bar gr) s (past gr (begun (.bar gr) s)))
  ∧ (∀ gr s, Runs (.bar gr) s → s.cur.active gr ≠ 0 → s.cur.inhdl = false → slowPending s s.core.id s.cur.slot (s.cur.active gr) = false →
    Ends (.bar gr) s (checkBarriers (arrived gr .bar (begun (.bar gr) s)) s.core.id s.cur.bslot s.cur.launch))
  ∧ (∀ gr s, Runs (.bar gr) s → s.cur.active gr ≠ 0 → s.cur.inhdl = true → Traps (.bar gr) s (trap 0x02 0x06))
  ∧ (∀ gr count core id s, Runs (.nbar gr count core id) s → s.cur.active gr ≠ 0 → s.cur.inhdl = false →
      slowPending s s.core.id s.cur.slot (s.cur.active gr) = false → 1 ≤ count.toNat → count.toNat ≤ (if core = 1 then 16 else 32) →
      let b := begun (.nbar gr count core id) s
      let p := phaseOf s (core = 1) id
      let at_ := if core = 1 then BarId.core id else .block id
      let opened := if p.isOpen then b else setPhase b (core = 1) id { isOpen := true, count := count.toNat }
      (p.isOpen = true → p.count = count.toNat) →
      Ends (.nbar gr count core id) s (checkBarriers (arrived gr at_ opened) s.core.id s.cur.bslot s.cur.launch))
  ∧ (∀ gr count core id s, Runs (.nbar gr count core id) s → s.cur.active gr ≠ 0 →
      count = 0 ∨ (if core = 1 then 16 else 32) < count.toNat → Traps (.nbar gr count core id) s (trap 0x01 0x01))
  ∧ (∀ gr s, Runs (.cbar gr) s → Together s.cur gr →
      let b := begun (.cbar gr) s
      let broken := s.curLaunch.broken.contains (cohortOf s.curLaunch s.cur.block)
      (s.cur.woken = true → Ends (.cbar gr) s (past gr (acquire b allLanes .cluster)))
      ∧ (s.cur.woken = false → broken = true → Traps (.cbar gr) s (trap 0x21 0x00))
      ∧ (s.cur.woken = false → broken = false → releaseGate b allLanes .cluster = .go →
          exec (.cbar gr) s = .next (pumpRecords (checkCbar { b with cur := { b.cur.park (.cbar gr) with wait := .cbar } }
            s.curLaunch (cohortOf s.curLaunch s.cur.block)))))
  ∧ (∀ s c bs,
      ((∃ w ∈ s.blockWarps c bs, w.live ≠ 0) ∧ (∀ w ∈ s.blockWarps c bs, w.live ≠ 0 → w.allAt .bar = true) →
        ∀ w ∈ (checkBar s c bs).blockWarps c bs, ∀ l : Fin 32, w.barpark.getLsbD l.val = true → w.parkAt[l] ≠ .bar)
      ∧ ((∃ w ∈ s.blockWarps c bs, w.live ≠ 0 ∧ w.allAt .bar = false) → checkBar s c bs = s))

/-- R285 to R287: on a word of memory that nothing holds SIGNAL combines s[b] into it; WAITS takes its value when the condition holds, else its
warp waits for the word. SOFTINT.Q writes a queue's QWAKE, SOFTINT.M the wake register in supervisor mode; in user mode it traps. -/
def Obligations.SignalsAndInterrupts : Prop :=
  ((∀ gr a b o s pa x, Runs (.signal gr a b o) s → Quiet s → s.home.locks = [] → Single gr s → s.cur.active gr ≠ 0 →
    ServedLane (begun (.signal gr a b o) s) (lowLane (s.cur.active gr)) (fun s l => checkWord s l (s.cur.getS a.toNat) .atomic) x →
    AtDword x pa →
    let old := s.home.mem.nat pa 8
    let y := (s.cur.getS b.toNat).toNat
    ∃ t, Ends (.signal gr a b o) s (past gr t) ∧ OnlyMemory { s with core := t.core, cores := t.cores, geom := t.geom, coll := t.coll, queues := t.queues } t
      ∧ regsOf t.cur = regsOf s.cur
      ∧ t.home.mem = s.home.mem.put pa (leBytes 8 (if o = 0 then (old + y) % 2 ^ 64 else if o = 1 then y else max old y))
      ∧ ∀ c slot w key cond cmp p, s.isCur c slot = false → s.warpAt c slot = some w → w.wait = .signal none pa key cond cmp p →
          ∃ w', t.warpAt c slot = some w' ∧ w'.woken = true ∧ w'.wait = .retry)
  ∧ ∀ gr d a b c s pa x, Runs (.waits gr d a b c) s → Quiet s → Single gr s → s.cur.active gr ≠ 0 →
    ServedLane (begun (.waits gr d a b c) s) (lowLane (s.cur.active gr)) (fun s l => checkWord s l (s.cur.getS a.toNat) .data) x →
    AtDword x pa →
    let v := s.home.mem.nat pa 8
    let y := (s.cur.getS b.toNat).toNat
    let holds := [decide (y ≤ v), decide (v = y), decide (v ≠ y), decide (v < y)].getD c.toNat false
    (holds = true → ∃ t, Ends (.waits gr d a b c) s (past gr t) ∧ OnlyMemory s t ∧ t.home = s.home
      ∧ regsOf t.cur = (regsOf s.cur).putS d.toNat (BitVec.ofNat 64 v))
    ∧ (holds = false → ∃ u, WaitsIn (.waits gr d a b c) s u (.signal none pa 0 c (s.cur.getS b.toNat) s.clock) ∧ u.home = s.home
      ∧ regsOf u.cur = regsOf s.cur ∧ u.cur.lpc = s.cur.lpc))
  ∧ ((∀ gr a b s t, Runs (.softintQ gr a b) s → (∀ k < reps gr, repA gr a.toNat k < 64 ∧ repB gr b.toNat k < 64) →
    PerformsOnce gr (fun k s t => releaseGate s allLanes .system = .go
      ∧ t = { s with inputs := s.inputs ++ [.qwake ((s.cur.getS (repA gr a.toNat k)).toNat % 4096)] }) (begun (.softintQ gr a b) s) t →
    Ends (.softintQ gr a b) s (past gr t))
  ∧ (∀ gr b s t, Runs (.softintM gr b) s → s.cur.supervisor = true → (∀ k < reps gr, repB gr b.toNat k < 64) →
    PerformsOnce gr (fun k s t => releaseGate s allLanes .system = .go
      ∧ t = { s with mgmt := { s.mgmt with wake := s.cur.getS (repB gr b.toNat k) } }) (begun (.softintM gr b) s) t →
    Ends (.softintM gr b) s (past gr t))
  ∧ ∀ gr b s, Runs (.softintM gr b) s → s.cur.supervisor = false → s.cur.active gr ≠ 0 → (∀ k < reps gr, repB gr b.toNat k < 64) →
    Traps (.softintM gr b) s (trap 0x03 0x03))

/-! ## Copies -/

/-- R116, R119 to R122, R126, R129: ACOPY, AXFORM and AGATHER whose checks pass and whose handle and channel have room are accepted;
a set reserved bit and misaligned addresses trap. -/
def Obligations.Copies : Prop :=
  (∀ gr d a b s t, Runs (.acopy gr d a b) s → u3Has gr d a b →
    PerformsOnce gr (fun k => AcceptsCopy 0 (repD gr d.toNat k) (repA gr a.toNat k) (repB gr b.toNat k)) (begun (.acopy gr d a b) s) t →
    Ends (.acopy gr d a b) s (past gr t))
  ∧ (∀ gr d a b s t, Runs (.axform gr d a b) s → u3Has gr d a b → (∀ k < reps gr, repB gr b.toNat k < 63) →
    PerformsOnce gr (fun k => AcceptsCopy 1 (repD gr d.toNat k) (repA gr a.toNat k) (repB gr b.toNat k)) (begun (.axform gr d a b) s) t →
    Ends (.axform gr d a b) s (past gr t))
  ∧ (∀ gr d a b s t, Runs (.agather gr d a b) s → u3Has gr d a b → (∀ k < reps gr, repB gr b.toNat k < 63) →
    PerformsOnce gr (fun k => AcceptsCopy 2 (repD gr d.toNat k) (repA gr a.toNat k) (repB gr b.toNat k)) (begun (.agather gr d a b) s) t →
    Ends (.agather gr d a b) s (past gr t))
  ∧ (∀ gr d a b s, Runs (.acopy gr d a b) s → Single gr s → s.cur.active gr ≠ 0 →
    2 ^ 40 ≤ (s.cur.getS b.toNat).toNat → Traps (.acopy gr d a b) s { trap 0x01 0x10 with lanes := s.cur.executing })
  ∧ ∀ gr d a b s, Runs (.acopy gr d a b) s → Single gr s → s.cur.active gr ≠ 0 →
    (s.cur.getS b.toNat).toNat < 2 ^ 40 → inAperture (s.cur.getS d.toNat) = false → inAperture (s.cur.getS a.toNat) = false →
    ((s.cur.getS d.toNat).toNat % 4 ≠ 0 ∨ (s.cur.getS a.toNat).toNat % 4 ≠ 0 ∨ (s.cur.getS b.toNat).toNat % 4 ≠ 0) →
    Traps (.acopy gr d a b) s { trapAt 100 0x18 0x00 (s.cur.getS d.toNat) with lanes := s.cur.executing }

/-- R126, R127, R132: BCLOSE and WAITB. Batches retire in closing order, those without a copy left in a channel. -/
def Obligations.Batches : Prop :=
  (∀ gr s b, Runs (.bclose gr) s → s.cur.active gr ≠ 0 → s.curBlock = some b →
    let u := begun (.bclose gr) s
    (b.openUsed = false → Ends (.bclose gr) s (past gr u))
    ∧ (b.openUsed = true → b.openNo - b.retired < 16 → Ends (.bclose gr) s (past gr
        (retireBatches (withBlock u b fun x => { x with openNo := x.openNo + 1, openUsed := false }) s.core.id b.bslot)))
    ∧ (b.openUsed = true → 16 ≤ b.openNo - b.retired → WaitsIn (.bclose gr) s u (.batch 15)))
  ∧ (∀ gr n s b, Runs (.waitb gr n) s → s.cur.active gr ≠ 0 → s.curBlock = some b → s.cur.resume = none →
      (b.openUsed = true → b.openNo - b.retired < 16) →
      let u := begun (.waitb gr n) s
      let u := if b.openUsed = true then
          retireBatches (withBlock u b fun x => { x with openNo := x.openNo + 1, openUsed := false }) s.core.id b.bslot else u
      ∀ b', u.curBlock = some b' →
        (b'.openNo - b'.retired ≤ n.toNat → (∀ x ∈ b'.batchFails, b'.retired ≤ x.1) → Ends (.waitb gr n) s (past gr u))
        ∧ (n.toNat < b'.openNo - b'.retired →
            WaitsIn (.waitb gr n) s { u with cur := u.cur.setDone 1 (Vector.replicate 32 0) } (.batch n.toNat)))
  ∧ ∀ s c bs b, s.blockAt c bs = some b → b.retired ≤ b.openNo → b.openNo ≤ b.retired + 17 →
      ∃ r, b.retired ≤ r ∧ r ≤ b.openNo ∧ (∀ n, b.retired ≤ n → n < r → ∀ x ∈ (s.coreAt c).copies, ¬(x.bslot = some bs ∧ x.batch = n))
        ∧ (r = b.openNo ∨ ∃ x ∈ (s.coreAt c).copies, x.bslot = some bs ∧ x.batch = r)
        ∧ (retireBatches s c bs).blockAt c bs = some { b with retired := r }

/-- R123, R128, R129, R130: the handle operations in each state of the handle. -/
def Obligations.Handles : Prop :=
  ∀ gr h s b, s.curBlock = some b → s.cur.active gr ≠ 0 → s.cur.woken = false →
    let x := b.handles.getD h.toNat {}
    let st := x.state.toNat
    let mine := BitVec.ofNat 32 (2 ^ s.cur.idx)
    (Runs (.hwaitFull gr h) s → let u := begun (.hwaitFull gr h) s
      (2 ≤ st → x.err = none → Ends (.hwaitFull gr h) s (past gr u))
      ∧ (∀ t, 2 ≤ st → x.err = some t → Traps (.hwaitFull gr h) s { t with lanes := s.cur.executing })
      ∧ (st < 2 → WaitsIn (.hwaitFull gr h) s (withBlock u b (withHandle h fun x => { x with waitF := x.waitF ||| mine })) (.handleFull h.toNat)))
    ∧ (Runs (.hwaitFree gr h) s → let u := begun (.hwaitFree gr h) s
      (st = 0 → Ends (.hwaitFree gr h) s (past gr u))
      ∧ (st ≠ 0 → WaitsIn (.hwaitFree gr h) s (withBlock u b (withHandle h fun x => { x with waitE := x.waitE ||| mine })) (.handleFree h.toNat)))
    ∧ (Runs (.hsetDrain gr h) s → let u := begun (.hsetDrain gr h) s
      (st = 0 → Traps (.hsetDrain gr h) s { trap 0x20 0x01 with lanes := s.cur.executing })
      ∧ (st = 1 → WaitsIn (.hsetDrain gr h) s (withBlock u b (withHandle h fun x => { x with waitF := x.waitF ||| mine })) (.handleDrain h.toNat))
      ∧ (2 ≤ st → Ends (.hsetDrain gr h) s (past gr (withBlock u b (withHandle h fun x => { x with state := 3 })))))
    ∧ (Runs (.hsetFree gr h) s → slowPending s s.core.id s.cur.slot allLanes = false → let u := begun (.hsetFree gr h) s
      (st = 0 → Ends (.hsetFree gr h) s (past gr u))
      ∧ (st = 1 → Traps (.hsetFree gr h) s { trap 0x20 0x02 with lanes := s.cur.executing })
      ∧ (2 ≤ st → Ends (.hsetFree gr h) s
          (handleFree (past gr (withBlock u b (withHandle h fun x => { x with state := 0, err := none }))) s.core.id b.bslot h.toNat)))
    ∧ ∀ d, Runs (.wptr gr d h) s → Single gr s →
        (∀ t, x.err = some t → Traps (.wptr gr d h) s { t with lanes := s.cur.executing })
        ∧ (x.err = none → ∃ t, Ends (.wptr gr d h) s (past gr t)
            ∧ t = { begun (.wptr gr d h) s with cur := t.cur }
            ∧ regsOf t.cur = (regsOf s.cur).putS d.toNat (BitVec.ofNat 64 (if st = 0 then 0 else if st = 1 then x.deliv else x.len)))

/-! ## System instructions -/

/-- R288, R289, R393: TRAP and BKPT take their trap with the address after the group to resume at; RTI returns from a handler
and traps outside one; TMASK writes the mask in supervisor mode and traps in user mode. -/
def Obligations.TrapInstructions : Prop :=
  (∀ gr c s l (code : BitVec 8), s.launchOf s.cur.launch = some l → s.cur.active gr ≠ 0 → s.cur.micro = none → s.cur.parked = none → s.mgmt.trctl = 0 →
    let t : Trap := { code := code, sub := c.setWidth 8, lanes := s.cur.executing }
    let enters := fun (i : Instr) =>
      winner s.mgmt.lichen true s.cur.supervisor false (faultKey t (some (encodeBase i))) = none →
      s.cur.inhdl = false → s.cur.tmask = false → (l.pkt.handler ≠ 0 ∨ s.mgmt.sysHandler ≠ 0) →
      ∃ x, exec i s = .next (pumpRecords { s with cur := x })
        ∧ HandlerAt (past gr (begun i s)).cur s.cur.pc s.cur.executing t (if l.pkt.handler ≠ 0 then l.pkt.handler else s.mgmt.sysHandler)
            (l.pkt.handler = 0) x
    (Runs (.trapI gr c) s → code = 0x08 → enters (.trapI gr c)) ∧ (Runs (.bkpt gr c) s → code = 0x09 → enters (.bkpt gr c)))
  ∧ (∀ gr s, Runs (.rti gr) s → s.cur.active gr ≠ 0 → s.cur.inhdl = true →
    ∃ t, exec (.rti gr) s = .next (pumpRecords t) ∧ t.cur.lpc = s.cur.slpc ∧ t.cur.tmask = false ∧ t.cur.inhdl = false
      ∧ (t.cur.tcause, t.cur.tpc, t.cur.taddr, t.cur.tlanes) = (0, 0, 0, 0) ∧ t.cur.supervisor = s.cur.supv ∧ regsOf t.cur = regsOf s.cur)
  ∧ (∀ gr s, Runs (.rti gr) s → s.cur.active gr ≠ 0 → s.cur.inhdl = false → Traps (.rti gr) s (trap 0x03 0x05))
  ∧ (∀ gr m s, Runs (.tmask gr m) s → s.cur.active gr ≠ 0 → s.cur.supervisor = true →
    let b := begun (.tmask gr m) s
    Ends (.tmask gr m) s (past gr { b with cur := { b.cur with tmask := m = 1 } }))
  ∧ ∀ gr m s, Runs (.tmask gr m) s → s.cur.active gr ≠ 0 → s.cur.supervisor = false → Traps (.tmask gr m) s (trap 0x03 0x00)

/-- R26, R290, R392, R425, R427: SYSRD reads and SYSWR writes the system registers; user mode may write none, and a number that names
no register traps. -/
def Obligations.SystemRegisters : Prop :=
  (∀ gr d i s, Runs (.sysrd gr d i) s → Single gr s → s.cur.active gr ≠ 0 →
    let n := immediate gr i
    (∀ x, 0 ≤ n → n < 0x60 → sysRead (begun (.sysrd gr d i) s) n.toNat = some x →
      ∃ t, Ends (.sysrd gr d i) s (past gr t) ∧ t = { begun (.sysrd gr d i) s with cur := t.cur }
        ∧ regsOf t.cur = (regsOf s.cur).putS d.toNat x)
    ∧ ((n < 0 ∨ 0x60 ≤ n ∨ sysRead (begun (.sysrd gr d i) s) n.toNat = none) → gr.imms.length ≤ 2 → Traps (.sysrd gr d i) s (trap 0x01 0x01)))
  ∧ (∀ s, sysRead s 0x020 = some s.cur.tcause ∧ sysRead s 0x021 = some s.cur.tpc ∧ sysRead s 0x022 = some s.cur.taddr
      ∧ sysRead s 0x023 = some s.cur.tlanes ∧ sysRead s 0x040 = some s.mgmt.dbgctl ∧ sysRead s 0x041 = some s.mgmt.recq
      ∧ sysRead s 0x042 = some s.mgmt.trbase ∧ sysRead s 0x043 = some s.mgmt.trctl ∧ sysRead s 0x004 = some s.cur.ctxBase
      ∧ sysRead s 0x010 = some (BitVec.ofNat 64 s.core.dropret.toNat) ∧ sysRead s 0x011 = some (BitVec.ofNat 64 s.core.abandlk.toNat)
      ∧ ∀ n, 0x060 ≤ n ∨ (0x005 ≤ n ∧ n < 0x010) ∨ (0x024 ≤ n ∧ n < 0x030) → sysRead s n = none)
  ∧ (∀ gr a i s n, Runs (.syswr gr a i) s → Single gr s → s.cur.active gr ≠ 0 → immediate gr i = (n : Nat) →
      s.cur.supervisor = true →
      let b := begun (.syswr gr a i) s
      let x := s.cur.getS a.toNat
      (n = 0x010 → Ends (.syswr gr a i) s (past gr { b with core := { b.core with dropret := x.setWidth 32 }, cur := b.cur.clearResume }))
      ∧ (n = 0x011 → Ends (.syswr gr a i) s (past gr { b with core := { b.core with abandlk := x.setWidth 32 }, cur := b.cur.clearResume }))
      ∧ (n = 0x040 → Ends (.syswr gr a i) s (past gr { b with mgmt := { b.mgmt with dbgctl := x &&& 3 }, cur := b.cur.clearResume }))
      ∧ (n = 0x041 → Ends (.syswr gr a i) s
          (past gr { b with mgmt := { b.mgmt with recq := BitVec.ofNat 64 (x.toNat / 64 * 64) }, cur := b.cur.clearResume })))
  ∧ ∀ gr a i s n, Runs (.syswr gr a i) s → Single gr s → s.cur.active gr ≠ 0 → immediate gr i = (n : Nat) → n < 0x60 →
      (sysRead (begun (.syswr gr a i) s) n).isSome = true → s.cur.supervisor = false → Traps (.syswr gr a i) s (trap 0x03 0x01)

/-- R43, R291: TLBINV in user mode traps; in supervisor mode it addresses every core of the clusters in service and waits, and once
every core has counted it writes their number to s[d]. -/
def Obligations.TranslationInvalidation : Prop :=
  ∀ gr d s, Single gr s → s.cur.active gr ≠ 0 →
    let acts := fun (i : Instr) (lo bytes : Nat) (space : BitVec 12) => Runs i s →
      let b := begun i s
      (s.cur.supervisor = false → Traps i s (trap 0x03 0x00))
      ∧ (s.cur.supervisor = true → s.cur.woken = false → releaseGate b allLanes .system = .go →
          WaitsIn i s { b with shootdowns := s.shootdowns ++ [{ core := s.core.id, slot := s.cur.slot, space := space, lo := lo, bytes := bytes
                                                                wait := busyCores s, count := 128 * s.mgmt.clusters.length }] } .tlbinv)
      ∧ (∀ x, s.cur.supervisor = true → s.cur.woken = true → s.shootdowns.find? (fun x => x.core = s.core.id && x.slot = s.cur.slot) = some x →
          ∃ t, Ends i s (past gr t) ∧ t = { b with shootdowns := t.shootdowns, cur := t.cur }
            ∧ t.shootdowns = s.shootdowns.filter (fun x => !(x.core = s.core.id && x.slot = s.cur.slot))
            ∧ regsOf t.cur = (regsOf s.cur).putS d.toNat (BitVec.ofNat 64 x.count))
    (∀ a, acts (.tlbinvPage gr d a) (s.cur.getS a.toNat).toNat 1 (BitVec.ofNat 12 s.curLaunch.ptroot.toNat))
    ∧ (∀ a b, acts (.tlbinvRange gr d a b) (s.cur.getS a.toNat).toNat (s.cur.getS b.toNat).toNat
        (BitVec.ofNat 12 s.curLaunch.ptroot.toNat))
    ∧ ∀ a, acts (.tlbinvSpace gr d a) 0 (2 ^ 64) (BitVec.ofNat 12 (s.cur.getS a.toNat).toNat)

/-! ## Matrix engine -/

/-- R293, R302, R303, R307 to R310: MJOB, MZERO, MLDA and MSTA take an entry of the job table with their walk, mask or matrix; MWAIT and
MWAIT.ALL return when nothing they cover is left, and wait or raise a covered failure else. -/
def Obligations.MatrixInstructions : Prop :=
  (∀ gr a s t, Runs (.mjob gr a) s → Together s.cur gr → (∀ k < reps gr, repA gr a.toNat k < 64) →
    PerformsOnce gr (fun k s t => ∃ s1 w, readCard s (s.cur.getS (repA gr a.toNat k)) = (s1, .ok w) ∧ w.check (subscribed s1) = none
      ∧ w.topAcc ≤ 7 ∧ HasAcc s1 w.topAcc
      ∧ TakesJob (.card w) w.accs w.start
          (Domain.max (sideDomain s1 w w.sideA 2 64) (sideDomain s1 w w.sideB 3 32)) s1 t) (begun (.mjob gr a) s) t →
    Ends (.mjob gr a) s (past gr t))
  ∧ (∀ gr m s t, Runs (.mzero gr m) s → (∀ i < 8, m.getLsbD i = true → HasAcc s i) →
    PerformsOnce gr (fun _ s t => if m = 0 then t = s else TakesJob (.zero m) m (Vector.replicate 5 0) .core s t) (begun (.mzero gr m) s) t →
    Ends (.mzero gr m) s (past gr t))
  ∧ (∀ gr m s i, Runs (.mzero gr m) s → s.cur.active gr ≠ 0 → i < 8 → m.getLsbD i = true → ¬HasAcc s i → Traps (.mzero gr m) s (trap 0x29 0x00))
  ∧ (∀ gr m s, Runs (.mwait gr m) s → s.cur.active gr ≠ 0 → (∀ i < 8, m.getLsbD i = true → HasAcc s i) →
      let mine := s.core.jobs.filter fun j => j.slot = s.cur.slot && j.snap.isNone
      ((∀ j ∈ mine, j.accs &&& m = 0) → (∀ x ∈ s.cur.jobFails, x.1 &&& m = 0) → Ends (.mwait gr m) s (past gr (begun (.mwait gr m) s)))
      ∧ ((∃ j ∈ mine, j.accs &&& m ≠ 0) → WaitsIn (.mwait gr m) s (begun (.mwait gr m) s) (.matrix m false))
      ∧ (∀ x r, s.cur.jobFails = x :: r → (∀ j ∈ mine, j.accs &&& m = 0) → x.1 &&& m ≠ 0 →
          exec (.mwait gr m) s = .next (pumpRecords (takeTrap
            (let b := begun (.mwait gr m) s; { b with cur := { b.cur with jobFails := r } }) { x.2 with lanes := s.cur.executing }))))
  ∧ (∀ gr s, Runs (.mwaitAll gr) s → s.cur.active gr ≠ 0 →
      let mine := s.core.jobs.filter fun j => j.slot = s.cur.slot && j.snap.isNone
      (mine = [] → s.cur.jobFails = [] → Ends (.mwaitAll gr) s (past gr (begun (.mwaitAll gr) s)))
      ∧ (mine ≠ [] → WaitsIn (.mwaitAll gr) s (begun (.mwaitAll gr) s) (.matrix 0 true)))
  ∧ (∀ gr d a s t, Runs (.mldaTile gr d a) s → (∀ k < reps gr, repA gr a.toNat k < 8) →
    PerformsOnce gr (fun k s t => HasAcc s (repD gr d.toNat k) ∧ ∃ base pitch fmt,
      tileOf s (s.cur.getT (repA gr a.toNat k)) true = .ok (base, pitch, fmt)
      ∧ TakesJob (.load (repD gr d.toNat k) base pitch fmt) (accBit (repD gr d.toNat k)) (Vector.replicate 5 0) (rowsDomain s base pitch fmt) s t)
      (begun (.mldaTile gr d a) s) t →
    Ends (.mldaTile gr d a) s (past gr t))
  ∧ (∀ gr d a c s t, Runs (.mldaGlobal gr d a c) s → (∀ k < reps gr, repA gr a.toNat k < 63) →
    PerformsOnce gr (fun k s t => HasAcc s (repD gr d.toNat k) ∧ (let base := s.cur.getS (repA gr a.toNat k)
      let pitch := s.cur.getS (repA gr a.toNat k + 1)
      base.toNat % 64 = 0 ∧ pitch.toNat % 64 = 0
      ∧ TakesJob (.load (repD gr d.toNat k) base pitch c.toNat) (accBit (repD gr d.toNat k)) (Vector.replicate 5 0) (rowsDomain s base pitch c.toNat) s t))
      (begun (.mldaGlobal gr d a c) s) t →
    Ends (.mldaGlobal gr d a c) s (past gr t))
  ∧ (∀ gr d a b n s t, Runs (.mstaTile gr d a b n) s → (∀ k < reps gr, repD gr d.toNat k < 8 ∧ repB gr b.toNat k < 64) →
    PerformsOnce gr (fun k s t => HasAcc s (repA gr a.toNat k) ∧ ∃ base pitch fmt,
      tileOf s (s.cur.getT (repD gr d.toNat k)) false = .ok (base, pitch, fmt) ∧ inAperture base = true
      ∧ (∀ i < 64, inAperture (matRowAddr base pitch i) = true
          ∧ inAperture (matRowAddr base pitch i + BitVec.ofNat 64 (32 * matBytes fmt - 1)) = true)
      ∧ TakesJob (.store (repA gr a.toNat k) base pitch fmt (if n = 1 then none else some ((s.cur.getS (repB gr b.toNat k)).setWidth 32))
          (rndOf gr) (satOf gr)) (accBit (repA gr a.toNat k)) (Vector.replicate 5 0) (rowsDomain s base pitch fmt) s t)
      (begun (.mstaTile gr d a b n) s) t →
    Ends (.mstaTile gr d a b n) s (past gr t))
  ∧ ∀ gr d a b n c s t, Runs (.mstaGlobal gr d a b n c) s → (∀ k < reps gr, repD gr d.toNat k < 63 ∧ repB gr b.toNat k < 64) →
    (∀ r ∈ s.curLaunch.regions, r.own = false) →
    PerformsOnce gr (fun k s t => HasAcc s (repA gr a.toNat k) ∧ (let base := s.cur.getS (repD gr d.toNat k)
      let pitch := s.cur.getS (repD gr d.toNat k + 1)
      base.toNat % 64 = 0 ∧ pitch.toNat % 64 = 0
      ∧ TakesJob (.store (repA gr a.toNat k) base pitch c.toNat (if n = 1 then none else some ((s.cur.getS (repB gr b.toNat k)).setWidth 32))
          (rndOf gr) (satOf gr)) (accBit (repA gr a.toNat k)) (Vector.replicate 5 0) (rowsDomain s base pitch c.toNat) s t))
      (begun (.mstaGlobal gr d a b n c) s) t →
    Ends (.mstaGlobal gr d a b n c) s (past gr t)

/-- R311, R312: MSTREAM.SUB completes and opens a stream or joins one whose count agrees; it traps on a reserved bit, a window of 0, another count, a second
subscription and a full table. MSTREAM.UNSUB completes and leaves the stream, whose count falls by one; a stream whose count reaches 0 closes; without a
subscription it traps. -/
def Obligations.OperandStreams : Prop :=
  (∀ gr a s, Runs (.mstreamSub gr a) s → Single gr s → s.cur.active gr ≠ 0 → s.mgmt.hasMatrix s.core.id = true →
    let b := begun (.mstreamSub gr a) s
    let x := (s.cur.getS a.toNat).toNat
    let l := s.curLaunch
    let sub : Subscriber := { core := s.core.id, bslot := s.cur.bslot, warp := s.cur.idx, window := 64 * (x / 2 ^ 11) }
    (x < 2 ^ 17 → x / 2 ^ 11 ≠ 0 → (∀ y ∈ l.streams, ¬(y.id = x % 16 ∧ y.cohort = cohortOf l s.cur.block)) →
      clusterStreams s (s.core.id / 128) < 64 →
      Ends (.mstreamSub gr a) s (past gr { b with launches := s.launches.map fun z => if z.id = l.id then { z with
        streams := z.streams ++ [{ cohort := cohortOf l s.cur.block, id := x % 16, cluster := s.core.id / 128, count := x / 16 % 128 + 1
                                   subs := [sub] }] } else z }))
    ∧ (∀ y, x < 2 ^ 17 → x / 2 ^ 11 ≠ 0 → subscribed s (x % 16) = false →
      l.streams.find? (fun y => y.id = x % 16 && y.cohort = cohortOf l s.cur.block) = some y →
      (y.count = x / 16 % 128 + 1 → Ends (.mstreamSub gr a) s (past gr { b with launches := s.launches.map fun z => if z.id = l.id then { z with
        streams := z.streams.map fun y => if y.id = x % 16 ∧ y.cohort = cohortOf l s.cur.block then { y with subs := y.subs ++ [sub] } else y } else z }))
      ∧ (y.count ≠ x / 16 % 128 + 1 → Traps (.mstreamSub gr a) s (trap 0x28 0x0B)))
    ∧ ((2 ^ 17 ≤ x ∨ x / 2 ^ 11 % 64 = 0 ∨ subscribed s (x % 16) = true
        ∨ ((∀ y ∈ l.streams, ¬(y.id = x % 16 ∧ y.cohort = cohortOf l s.cur.block)) ∧ 64 ≤ clusterStreams s (s.core.id / 128))) →
        Traps (.mstreamSub gr a) s (trap 0x28 0x0B)))
  ∧ ∀ gr a s, Runs (.mstreamUnsub gr a) s → Single gr s → s.cur.active gr ≠ 0 → s.mgmt.hasMatrix s.core.id = true →
    let id := (s.cur.getS a.toNat).toNat % 16
    (subscribed s id = false → Traps (.mstreamUnsub gr a) s (trap 0x28 0x0C))
    ∧ (subscribed s id = true →
        let leaves := fun (y : Stream) => if y.id = id ∧ y.cohort = cohortOf s.curLaunch s.cur.block then Stream.retire { y with
          count := y.count - 1, subs := y.subs.filter fun w => !(w.core = s.core.id && w.bslot = s.cur.bslot && w.warp = s.cur.idx) } else y
        Ends (.mstreamUnsub gr a) s (past gr { begun (.mstreamUnsub gr a) s with launches := s.launches.map fun z =>
          if z.id = s.curLaunch.id then { z with streams := (z.streams.map leaves).filter fun y => y.count ≠ 0 } else z }))

/-! ## Geometry, shading, textures -/

/-- R318, R324: VISEMIT sends the packets of the lanes whose status is 0, in ascending lane order, to the dies that own a region their
clamped box touches, and writes the statuses; it waits while the front end cannot accept them. -/
def Obligations.VisibilityEmission : Prop :=
  (∀ gr d a lka b s draw, Runs (.visemit gr d a lka b) s → Single gr s → s.curLaunch.draw = some draw → HasV s.cur d.toNat →
    (∀ j < 7, HasV s.cur (a.toNat + j)) →
    (frontHolds s (s.core.id / 256) draw = true → WaitsIn (.visemit gr d a lka b) s (begun (.visemit gr d a lka b) s) .frontEnd)
    ∧ (frontHolds s (s.core.id / 256) draw = false →
    let v := s.cur.getS b.toNat
    let packet := fun (l : Fin 32) => frondOf draw fun i => s.cur.getV (a.toNat + i) l
    let status := fun (l : Fin 32) => visStatus v (s.cur.getV a.toNat l) (packet l)
    ∃ t, Ends (.visemit gr d a lka b) s (past gr t) ∧ t = { begun (.visemit gr d a lka b) s with geom := t.geom, cur := t.cur }
      ∧ regsOf t.cur = ((regsOf s.cur).lastUse s.cur.executing lka ((List.range 7).map fun j => a.toNat + j)).putV d.toNat (s.cur.active gr) status
      ∧ t.geom = { s.geom with packets := s.geom.packets ++ ((lanesOf (s.cur.active gr)).filter fun l => status l = 0).flatMap fun l =>
          let p := { packet l with
            txmax := BitVec.ofNat 10 (min (packet l).txmax.toNat (v.toNat % 1024)), tymax := BitVec.ofNat 10 (min (packet l).tymax.toNat (v.toNat / 1024 % 1024)) }
          (s.mgmt.shadeDies.filter fun d => frondTouches s.mgmt p d).map fun d => (s.core.id / 256, d, p) }))
  ∧ (∀ v w0 p, visStatus v w0 p =
      if 2 ^ 25 ≤ w0.toNat ∨ p.txmax.toNat < p.txmin.toNat ∨ p.tymax.toNat < p.tymin.toNat ∨ p.zmax.toNat < p.zmin.toNat then 3
      else if p.vis = 0 then 1
      else if v.toNat % 1024 < p.txmin.toNat ∨ v.toNat / 1024 % 1024 < p.tymin.toNat then 2 else 0)
  ∧ ∀ gr d a lka b s, Runs (.visemit gr d a lka b) s → Single gr s → s.curLaunch.draw = none → HasV s.cur d.toNat →
      (∀ j < 7, HasV s.cur (a.toNat + j)) → Traps (.visemit gr d a lka b) s (trap 0x03 0x06)

/-- R338, R339: VISRD reads the identifier and the depth of a sample of the tile's pixels; RPIX performs its operation on the pixels its
lanes name; outside a tile launch each of the three traps, and RPIX traps when its target is absent or its lanes' pixels lie outside the tile. -/
def Obligations.TilePixels : Prop :=
  (∀ gr d smp s p tx ty, Runs (.visrd gr d smp) s → Single gr s → curTile s = some (p, tx, ty) → HasV s.cur d.toNat → HasV s.cur (d.toNat + 1) →
    ∃ t, Ends (.visrd gr d smp) s (past gr t) ∧ t = { begun (.visrd gr d smp) s with cur := t.cur }
      ∧ regsOf t.cur = ((regsOf s.cur).putV d.toNat (s.cur.active gr) fun l => (sampleAt s p tx ty s.cur.threads[l].tid smp.toNat).1).putV
          (d.toNat + 1) (s.cur.active gr) fun l => (sampleAt s p tx ty s.cur.threads[l].tid smp.toNat).2)
  ∧ (∀ gr d a lka smp s p tx ty, Runs (.visrdPix gr d a lka smp) s → Single gr s → curTile s = some (p, tx, ty) →
      HasV s.cur d.toNat → HasV s.cur (d.toNat + 1) → HasV s.cur a.toNat →
    let pix := fun (l : Fin 32) => (s.cur.getV a.toNat l).toNat % 256
    ∃ t, Ends (.visrdPix gr d a lka smp) s (past gr t) ∧ t = { begun (.visrdPix gr d a lka smp) s with cur := t.cur }
      ∧ regsOf t.cur = (((regsOf s.cur).lastUse s.cur.executing lka [a.toNat]).putV d.toNat (s.cur.active gr) fun l =>
            (sampleAt s p tx ty (pix l) smp.toNat).1).putV (d.toNat + 1) (s.cur.active gr) fun l => (sampleAt s p tx ty (pix l) smp.toNat).2)
  ∧ (∀ gr op tgt a lka b lkb s t p tx ty, Runs (.rpix gr op tgt a lka b lkb) s → curTile s = some (p, tx, ty) →
    let fmt := p.targets[tgt.toFin].2.2
    let n := if fmt = 2 then 1 else 4
    (∀ k < reps gr, (∀ j < n, HasV s.cur (repA gr a.toNat k + j)) ∧ HasV s.cur (repB gr b.toNat k)) →
    Performs gr (fun k s t => ∃ s1 as s2 vs,
      checkLanes s (lanesOf (s.cur.active gr)) (fun s l => checkPixel s p tx ty tgt (repB gr b.toNat k) l) = (s1, .ok as)
      ∧ Sweeps (PaintsLane op fmt (tileOwner s1.mgmt tx ty) (repA gr a.toNat k)) as s1 s2 vs
      ∧ (let w := (s2.cur.lastUse s2.cur.executing lka ((List.range n).map fun j => repA gr a.toNat k + j)).lastUse s2.cur.executing lkb
           [repB gr b.toNat k]
         t = touchAll { s2 with cur := w } as)) (begun (.rpix gr op tgt a lka b lkb) s) t →
    Ends (.rpix gr op tgt a lka b lkb) s (past gr t))
  ∧ (∀ gr s, curTile s = none →
      (∀ d smp, Runs (.visrd gr d smp) s → (∀ k < reps gr, HasV s.cur (repD gr d.toNat k) ∧ HasV s.cur (repD gr d.toNat k + 1)) →
        Traps (.visrd gr d smp) s (trap 0x03 0x07))
      ∧ (∀ d a lka smp, Runs (.visrdPix gr d a lka smp) s →
        (∀ k < reps gr, HasV s.cur (repD gr d.toNat k) ∧ HasV s.cur (repD gr d.toNat k + 1) ∧ HasV s.cur (repA gr a.toNat k)) →
        Traps (.visrdPix gr d a lka smp) s (trap 0x03 0x07))
      ∧ ∀ op tgt a lka b lkb, Runs (.rpix gr op tgt a lka b lkb) s → (∀ k < reps gr, HasV s.cur (repA gr a.toNat k) ∧ HasV s.cur (repB gr b.toNat k)) →
        Traps (.rpix gr op tgt a lka b lkb) s (trap 0x03 0x07))
  ∧ (∀ gr op tgt a lka b lkb s p tx ty l, Runs (.rpix gr op tgt a lka b lkb) s → Single gr s → curTile s = some (p, tx, ty) →
    let t := p.targets[tgt.toFin]
    (∀ j < 4, HasV s.cur (a.toNat + j)) → HasV s.cur b.toNat →
    let m := s.cur.active gr
    let x := fun (l : Fin 32) => (s.cur.getV b.toNat l).toNat % 2 ^ 14
    let y := fun (l : Fin 32) => (s.cur.getV b.toNat l).toNat / 2 ^ 16 % 2 ^ 14
    let va := fun (l : Fin 32) => t.1 + BitVec.ofNat 64 (y l * t.2.1 + x l * texelBytes t.2.2)
    m.getLsbD l.val = true → (∀ j : Fin 32, m.getLsbD j.val = true → (va l).toNat ≤ (va j).toNat) →
    let raises := fun (sub : Nat) => Traps (.rpix gr op tgt a lka b lkb) s { trapAt 40 0x11 sub (va l) with lanes := m }
    (t.1 = 0 → raises 6)
    ∧ (t.1 ≠ 0 → (∀ j : Fin 32, m.getLsbD j.val = true → x j / 16 ≠ tx ∨ y j / 16 ≠ ty) → raises 5))
  ∧ ∀ op dst src alpha : Nat, op < 5 → pixelOp (BitVec.ofNat 3 op) dst src alpha =
      [src, f32.fma 0 dst (f32.sub 0 f32.one alpha) src, f32.add 0 dst src, f32.minmax false dst src, f32.minmax true dst src].getD op 0

/-- R325, R326, R340, R341, R342: LDCL, TEX and TEXFB, when every access is served and no page is missing. -/
def Obligations.MapsAndTextures : Prop :=
  (∀ gr v b i ty f s t, Runs (.ldcl gr v b i ty f) s →
    (∀ k < reps gr, (∀ j < tyRegs ty + 1, HasV s.cur (repD gr v.toNat k + j)) ∧ HasV s.cur (repA gr i.toNat k)) →
    Performs gr (fun k => ClustersOnce gr (repD gr v.toNat k) (repA gr i.toNat k) b.toNat ty (f = 1)) (begun (.ldcl gr v b i ty f) s) t →
    Ends (.ldcl gr v b i ty f) s (past gr t))
  ∧ (∀ gr d a lka b s t, Runs (.tex gr d a lka b) s →
    (∀ k < reps gr, (∀ j < 4, HasV s.cur (repD gr d.toNat k + j)) ∧ (∀ j < 3, HasV s.cur (repA gr a.toNat k + j)) ∧ repB gr b.toNat k < 64) →
    Performs gr (fun k => TexturesOnce gr (repD gr d.toNat k) (repA gr a.toNat k) lka (repB gr b.toNat k) false) (begun (.tex gr d a lka b) s) t →
    Ends (.tex gr d a lka b) s (past gr t))
  ∧ ∀ gr d a lka b s t, Runs (.texfb gr d a lka b) s →
    (∀ k < reps gr, (∀ j < 5, HasV s.cur (repD gr d.toNat k + j)) ∧ (∀ j < 3, HasV s.cur (repA gr a.toNat k + j)) ∧ repB gr b.toNat k < 64) →
    Performs gr (fun k => TexturesOnce gr (repD gr d.toNat k) (repA gr a.toNat k) lka (repB gr b.toNat k) true) (begun (.texfb gr d a lka b) s) t →
    Ends (.texfb gr d a lka b) s (past gr t)

/-! ## Rays and the hit-group sort -/

/-- R346, R347, R350: RTRACE and RQUERY complete and start a ray in each active lane, RTRACE gives a lane whose ray cannot hit its miss at once; RTCONT goes on
with, accepts or ends each active lane's suspended ray. Reserved bits trap; an active lane whose ray still runs makes the group wait. -/
def Obligations.Rays : Prop :=
  (∀ gr d a lka b s, Runs (.rtrace gr d a lka b) s → Single gr s → (∀ j < 6, HasV s.cur (d.toNat + j)) → (∀ j < 8, HasV s.cur (a.toNat + j)) →
    let m := s.cur.active gr
    let arg := s.cur.getS b.toNat
    let regs := fun (l : Fin 32) => (List.range 8).map fun i => s.cur.getV (a.toNat + i) l
    let used := (regsOf s.cur).lastUse s.cur.executing lka ((List.range 8).map fun j => a.toNat + j)
    let misses := fun (l : Fin 32) => m.getLsbD l.val = true ∧ rayMisses (regs l) = true
    (m ≠ 0 → arg.toNat / 4 % 16 ≠ 0 → Traps (.rtrace gr d a lka b) s (trap 0x01 0x01))
    ∧ (m ≠ 0 → arg.toNat / 4 % 16 = 0 → raysBusy s.cur m = true → WaitsIn (.rtrace gr d a lka b) s (begun (.rtrace gr d a lka b) s) .retry)
    ∧ (raysBusy s.cur m = false → (m = 0 ∨ arg.toNat / 4 % 16 = 0) →
    ∃ t, Ends (.rtrace gr d a lka b) s (past gr t) ∧ t = { begun (.rtrace gr d a lka b) s with cur := t.cur, free := t.free }
      ∧ (∀ l, misses l → t.cur.getV d.toNat l = 0 ∧ t.cur.threads[l] = { s.cur.threads[l] with ray := none })
      ∧ (∀ n l, (¬misses l ∨ n < d.toNat ∨ d.toNat + 6 ≤ n) → t.cur.getV n l = used.v n l)
      ∧ (t.cur.p, t.cur.s, t.cur.t) = (s.cur.p, s.cur.s, s.cur.t)
      ∧ ∀ l : Fin 32, ¬misses l → t.cur.threads[l] = if m.getLsbD l.val = true then { s.cur.threads[l] with
          ray := some { dst := d.toNat, cand := arg.getLsbD 0, first := arg.getLsbD 1, regs := regs l
                        stack := [{ node := sext57 (BitVec.ofNat 64 (arg.toNat / 64 * 64)) }] } } else s.cur.threads[l]))
  ∧ (∀ gr d a lka b s, Runs (.rquery gr d a lka b) s → Single gr s →
    let m := s.cur.active gr
    let arg := s.cur.getS b.toNat
    let n := arg.toNat / 4 % 16 + 1
    (∀ j < n + 1, HasV s.cur (d.toNat + j)) → (∀ j < 4, HasV s.cur (a.toNat + j)) →
    (m ≠ 0 → arg.toNat % 4 = 3 → Traps (.rquery gr d a lka b) s (trap 0x01 0x01))
    ∧ (m ≠ 0 → arg.toNat % 4 ≠ 3 → raysBusy s.cur m = true → WaitsIn (.rquery gr d a lka b) s (begun (.rquery gr d a lka b) s) .retry)
    ∧ (raysBusy s.cur m = false → (m = 0 ∨ arg.toNat % 4 ≠ 3) →
    ∃ t, Ends (.rquery gr d a lka b) s (past gr t) ∧ t = { begun (.rquery gr d a lka b) s with cur := t.cur }
      ∧ regsOf t.cur = (regsOf s.cur).lastUse s.cur.executing lka ((List.range 4).map fun j => a.toNat + j)
      ∧ ∀ l : Fin 32, t.cur.threads[l] = if m.getLsbD l.val = true then { s.cur.threads[l] with
          ray := some { query := some (BitVec.ofNat 2 arg.toNat), k := n, dst := d.toNat, regs := (List.range 4).map fun i => s.cur.getV (a.toNat + i) l
                        stack := [{ node := sext57 (BitVec.ofNat 64 (arg.toNat / 64 * 64)) }] } } else s.cur.threads[l]))
  ∧ (∀ gr d o s, Runs (.rtcont gr d o) s → Single gr s → (∀ j < 6, HasV s.cur (d.toNat + j)) → raysBusy s.cur (s.cur.active gr) = true →
    WaitsIn (.rtcont gr d o) s (begun (.rtcont gr d o) s) .retry)
  ∧ ∀ gr d o s, Runs (.rtcont gr d o) s → Single gr s → (∀ j < 6, HasV s.cur (d.toNat + j)) → raysBusy s.cur (s.cur.active gr) = false →
    ∃ t, Ends (.rtcont gr d o) s (past gr t)
      ∧ (∀ l : Fin 32, (s.cur.active gr).getLsbD l.val = false → t.cur.threads[l] = s.cur.threads[l])
      ∧ ∀ l : Fin 32, (s.cur.active gr).getLsbD l.val = true →
          (∀ r, s.cur.threads[l].ray = some r → r.query = none →
            (o = 0 → t.cur.threads[l].ray = some { r with dst := d.toNat, current := none, status := .running })
            ∧ (o = 1 → r.first = false →
                t.cur.threads[l].ray = some { r with dst := d.toNat, best := r.current, current := none, status := .running })
            ∧ (o = 2 ∨ (o = 1 ∧ r.first = true) → t.cur.threads[l].ray = none ∧ ∀ h, r.current = some h →
                (List.range 6).map (fun j => t.cur.getV (d.toNat + j) l) = [1, h.prim, h.t, h.u, h.v, h.inst])
            ∧ (o = 3 → t.cur.threads[l].ray = none ∧ t.cur.getV d.toNat l = if r.best.isSome then 1 else 0))
          ∧ (s.cur.threads[l].ray = none → t.cur.getV d.toNat l = 4)

/-- R351: HSORT in a block of one warp moves the threads to the lanes in the order of their keys, old lanes deciding among equal ones,
and writes each thread's old index; a warp that is not the last of its block to arrive waits. -/
def Obligations.HitSort : Prop :=
  (∀ gr d a lka s, Runs (.hsort gr d a lka) s → Single gr s → Together s.cur gr → HasV s.cur d.toNat → HasV s.cur a.toNat →
    s.cur.away = false → s.home.held = [] → (∀ w ∈ s.core.warps, w.bslot = s.cur.bslot → w.live = 0) →
    ∃ t f, exec (.hsort gr d a lka) s = .next (pumpRecords t) ∧ Sorts (fun l => s.cur.getV a.toNat l) f
      ∧ (let used := (regsOf s.cur).lastUse 0xFFFFFFFF lka [a.toNat]
         ∀ l : Fin 32, t.cur.getV d.toNat l = BitVec.ofNat 32 (32 * s.cur.idx + (f l).val)
          ∧ (∀ n < 64, n ≠ d.toNat → t.cur.getV n l = used.v n (f l))
          ∧ (∀ n < 7, (t.cur.getP n).getLsbD l.val = (s.cur.getP n).getLsbD (f l).val)
          ∧ t.cur.threads[l] = s.cur.threads[f l] ∧ t.cur.lpc[l] = Warp.pcOf (nextPc s.cur gr))
      ∧ t.cur.s = s.cur.s ∧ t.cur.t = s.cur.t)
  ∧ ∀ gr d a lka s w, Runs (.hsort gr d a lka) s → Single gr s → Together s.cur gr → HasV s.cur d.toNat → HasV s.cur a.toNat →
    s.home.held = [] → w ∈ s.core.warps → w.bslot = s.cur.bslot → w.live ≠ 0 → w.wait ≠ .hsort →
    let b := begun (.hsort gr d a lka) s
    exec (.hsort gr d a lka) s = .next (pumpRecords { b with cur := { b.cur.park (.hsort gr d a lka) with wait := .hsort } })

/-! ## Collectives -/

/-- R355, R356, R368 to R371: CPOST and CRED hand their tile or block to the tree, and have touched the domains of what they read; CWAIT returns a complete frame's status with an acquire,
and waits for one that is not complete; CJOIN returns the slot once the root has accepted, or traps; CJOIN.LEAVE frees it. -/
def Obligations.CollectiveInstructions : Prop :=
  (∀ gr a b s t, Runs (.cpost gr a b) s → (∀ k < reps gr, repA gr a.toNat k < 64 ∧ repB gr b.toNat k < 64) →
    PerformsOnce gr (fun k s t => ∃ m j w s1 d,
      let va := s.cur.getS (repA gr a.toNat k)
      let x := s.cur.getS (repB gr b.toNat k)
      let frame : Word := BitVec.ofNat 32 (x.toNat / 2 ^ 32)
      postCheck s false x va = .ok (m, j, w) ∧ frameBefore (m.frame + 1) frame = false
      ∧ unitRead s va (j.payload + 32) = (s1, .ok d) ∧ (frame, w) ∉ m.posted ∧ postLate s1 m frame = false
      ∧ t = packetArrives (setMember (touchRead s1 va (j.payload + 32)) { m with posted := m.posted ++ [(frame, w)] }) (leafPacket j frame w d))
      (begun (.cpost gr a b) s) t →
    Ends (.cpost gr a b) s (past gr t))
  ∧ (∀ gr a b s t, Runs (.cred gr a b) s → (∀ k < reps gr, repA gr a.toNat k < 64 ∧ repB gr b.toNat k < 64) →
    PerformsOnce gr (fun k s t => ∃ m j w s1 d,
      let va := s.cur.getS (repA gr a.toNat k)
      let x := s.cur.getS (repB gr b.toNat k)
      let frame : Word := BitVec.ofNat 32 (x.toNat / 2 ^ 32)
      postCheck s true x va = .ok (m, j, w) ∧ frameBefore (m.frame + 1) frame = false
      ∧ unitRead s va j.payload = (s1, .ok d) ∧ (frame, w) ∉ m.posted ∧ postLate s1 m frame = false
      ∧ t = packetArrives (setMember (touchRead s1 va j.payload) { m with posted := m.posted ++ [(frame, w)] }) (leafPacket j frame w d))
      (begun (.cred gr a b) s) t →
    Ends (.cred gr a b) s (past gr t))
  ∧ (∀ gr d a test s m st, Runs (.cwait gr d a test) s → Single gr s → s.cur.active gr ≠ 0 →
    let x := (s.cur.getS a.toNat).toNat
    let frame : Word := BitVec.ofNat 32 (x / 2 ^ 32)
    x % 2 ^ 32 < 64 → boundMember s (x % 64) = some m → m.failed = false →
    (m.done.find? (fun y => y.1 = frame) = some (frame, st) →
      let b := begun (.cwait gr d a test) s
      let status := st.toNat % 4 + (if frame ∈ m.late then 4 else 0) + 8 + st.toNat / 2 ^ 16 % 2 ^ 13 * 2 ^ 16 + frame.toNat * 2 ^ 32
      Ends (.cwait gr d a test) s (past gr
        (let u := acquire { b with cur := b.cur.setS d.toNat (BitVec.ofNat 64 status) } allLanes .system; { u with cur := u.cur.clearResume })))
    ∧ (m.done.find? (fun y => y.1 = frame) = none → frameBefore frame m.frame = false → test = 0 →
      WaitsIn (.cwait gr d a test) s (begun (.cwait gr d a test) s) (.collWait m.slot frame))
    ∧ (m.done.find? (fun y => y.1 = frame) = none → frameBefore frame m.frame = true →
      Traps (.cwait gr d a test) s { trap 0x31 0x04 with lanes := s.cur.executing }))
  ∧ (∀ gr d a s m, Runs (.cjoin gr d a) s → Single gr s → s.cur.active gr ≠ 0 → joining s = some m →
    let b := begun (.cjoin gr d a) s
    (m.answer = some true → Ends (.cjoin gr d a) s (past gr
      (let u := setMember b { m with waiter := none }
       { u with cur := (b.cur.setS d.toNat (BitVec.ofNat 64 m.slot)).clearResume })))
    ∧ (m.answer = none → WaitsIn (.cjoin gr d a) s b (.collJoin m.slot))
    ∧ (m.answer = some false → exec (.cjoin gr d a) s = .next (pumpRecords (takeTrap
        { b with coll := { b.coll with members := b.coll.members.filter fun x => x.slot ≠ m.slot } }
        { trap 0x31 0x03 with lanes := s.cur.executing }))))
  ∧ ∀ gr a s m, Runs (.cjoinLeave gr a) s → Single gr s → s.cur.active gr ≠ 0 → (s.cur.getS a.toNat).toNat < 64 →
    boundMember s (s.cur.getS a.toNat).toNat = some m →
    let t := leaveSlot (begun (.cjoinLeave gr a) s) (s.cur.getS a.toNat).toNat
    Ends (.cjoinLeave gr a) s (past gr t) ∧ (∀ x ∈ t.coll.members, x.slot ≠ (s.cur.getS a.toNat).toNat)

/-! ## Events: homes, the fabric, failures, power -/

/-- R54, R58, R63, R69, R70, R73, R74, R96, R97, R147: what homes, holders and cores do with what reaches them. -/
def Obligations.HomeEvents : Prop :=
  (∀ c slot s r w, (s.coreAt c).returns.find? (fun r => r.dest.slot = slot) = some r → s.warpAt c slot = some w →
    let u := s.modCore c fun k => { k with returns := k.returns.erase r }
    (w.genReg ≠ r.dest.gen → exec (.resultReturn c slot) s = .next (s.modCore c fun k => { k with
        returns := k.returns.filter fun x => x.dest.slot ≠ slot ∨ x.dest.gen ≠ r.dest.gen ∨ x.issued ≠ r.issued
        dropret := k.dropret + 1 }))
    ∧ (w.genReg = r.dest.gen → w.away = true → r.dest.uniform = false → r.value.toNat < 256 ^ tyBytes r.dest.ty →
        exec (.resultReturn c slot) s = .next ((List.range (tyRegs r.dest.ty)).foldl (fun s j =>
          physPost s (w.ctxBase.toNat + 0x800 + 128 * (r.dest.reg + j) + 4 * r.dest.lane) (leBytes 4 (loadedWord r.dest.ty r.value.toNat j).toNat)) u))
    ∧ (w.genReg = r.dest.gen → (w.away = false ∨ r.dest.uniform = true) →
        ∃ w', exec (.resultReturn c slot) s = .next (u.setWarp c w') ∧ w' = { w with v := w'.v, s := w'.s }
        ∧ (r.dest.uniform = true → r.dest.reg < 64 → regsOf w' = (regsOf w).putS r.dest.reg r.value)
        ∧ (r.dest.uniform = false → r.dest.lane < 32 → r.value.toNat < 256 ^ tyBytes r.dest.ty →
            (∀ k < tyRegs r.dest.ty, HasV w (r.dest.reg + k)) →
            regsOf w' = (regsOf w).putWide r.dest.reg (tyRegs r.dest.ty) (laneBit (Fin.ofNat 32 r.dest.lane)) fun _ j =>
              loadedWord r.dest.ty r.value.toNat j)))
  ∧ (∀ n pa op s, (nodeOf s n).failed = true ∨ backed s.mgmt pa 1 = false →
      exec (.homeRequest ⟨.remote n, none, pa, 0, op, none, none⟩) s
        = .next { s with fabric := { s.fabric with sent := s.fabric.sent ++ [.unserved n pa] } })
  ∧ (∀ n pa s, Quiet s → assoc (pa / 64) s.home.locks = none → n ≠ s.fabric.self → (nodeOf s n).failed = false → backed s.mgmt pa 1 = true →
      let used := (s.home.dirUse.filter fun l => l ≠ pa / 64) ++ [pa / 64]
      let asks := fun op => exec (.homeRequest ⟨.remote n, none, pa, 0, op, none, none⟩) s
      let tells := fun (t : State) b => { t with fabric := { t.fabric with sent := t.fabric.sent ++ [.served n pa b] } }
      (∀ k, asks (.read k) = .next (pumpRecords (tells s (s.home.mem.bytes pa k))))
      ∧ (∀ d, pa % 64 + d.length ≤ 64 →
          asks (.store d) = .next (pumpRecords (tells { s with home := { s.home with mem := s.home.mem.put pa d } } [])))
      ∧ asks .trackShared = .next (pumpRecords (tells
          { s with home := { s.home with dir := [{ line := pa / 64, state := 1, holders := [.remote n] }], dirUse := used } } (s.home.mem.bytes (pa / 64 * 64) 64)))
      ∧ asks .trackExclusive = .next (pumpRecords (tells
          { s with home := { s.home with dir := [{ line := pa / 64, state := 2, holders := [.remote n] }], dirUse := used } } (s.home.mem.bytes (pa / 64 * 64) 64))))
  ∧ (∀ c s, let k := s.coreAt c
      ∃ e, exec (.performedAtHome c) s = .next (s.modCore c fun k => { k with drEpoch := e })
        ∧ (∀ h ∈ s.home.held, agentCore h.req.agent = some c → h.isPlace = false → k.ahead e ≤ k.ahead h.stamp) ∧ k.ahead e ≤ k.ahead k.relEpoch
        ∧ (e = k.relEpoch ∨ ∃ h ∈ s.home.held, agentCore h.req.agent = some c ∧ h.isPlace = false ∧ e = h.stamp))
  ∧ (∀ c entry n wr s st l, (s.coreAt c).stash.find? (fun x => x.entry = entry) = some st → st.lineAt n = some l → l.state ≠ 0 →
      ∃ t, exec (.stashRecall c entry n wr) s = .next t
        ∧ (t.coreAt c).stash = (s.coreAt c).stash.map (fun st => { st with
            lines := (st.lines.map fun x => if x.pa = l.pa then { x with state := if wr then 0 else if x.state = 0 then 0 else 1 } else x).filter
              fun x => x.state ≠ 0 })
        ∧ (∀ a, a / 64 ≠ l.pa → t.home.mem.get a = s.home.mem.get a)
        ∧ ((∀ st ∈ (s.coreAt c).stash, ∀ x ∈ st.lines, x.pa = l.pa → x.state ≠ 3) → t.home.mem = s.home.mem)
        ∧ (∀ b, (s.coreAt c).stash = [st] → (∀ x ∈ st.lines, x.pa = l.pa → x = l) → l.state = 3 →
            (s.coreAt c).blocks.find? (fun b => b.bslot = st.bslot) = some b →
            t.home.mem.bytes (l.pa * 64) 64 = b.local_.bytes (st.loff * 4096 + l.n * 64) 64))
  ∧ (∀ c line s u, (s.coreAt c).upd.find? (fun u => u.line = line) = some u → granFails s (line * 64) u.key = none → u.tag = none →
      u.elems.Pairwise (fun a b => a.idx ≠ b.idx) → (∀ e ∈ u.elems, (e.idx + 1) * elemBytes u.cfmt ≤ 64) →
      ∃ t, exec (.updateLineRecall c line) s = .next (pumpRecords t)
        ∧ (t.coreAt c).upd = (s.coreAt c).upd.filter (fun x => x.line ≠ line)
        ∧ (∀ e ∈ u.elems, let a := line * 64 + e.idx * elemBytes u.cfmt
            t.home.mem.nat a (elemBytes u.cfmt) = combineStep u.cfmt (s.home.mem.nat a (elemBytes u.cfmt)) (e.partial_ u.cfmt) % 2 ^ (8 * elemBytes u.cfmt))
        ∧ ∀ a, (∀ e ∈ u.elems, let x := line * 64 + e.idx * elemBytes u.cfmt; ¬(x ≤ a ∧ a < x + elemBytes u.cfmt)) →
            t.home.mem.get a = s.home.mem.get a)
  ∧ (∀ line n s, exec (.holderInvalidation line (.remote n)) s = .next { s with
      home := { s.home with proxies := s.home.proxies.filter fun p => p.id ≠ ⟨some n, line⟩ }
      fabric := { s.fabric with
        nodes := s.fabric.nodes.map fun x => if x.node = n then { x with holds := x.holds.filter fun l => l ≠ line } else x
        sent := s.fabric.sent ++ [.invalidated line n] } })
  ∧ (∀ line c x y s, ∃ t, exec (.holderInvalidation line (.loc c x y)) s = .next t
      ∧ ∀ st ∈ (t.coreAt c).stash, ∀ x ∈ st.lines, x.pa = line → x.state = 0)
  ∧ (∀ line h data s e, s.home.held = [] → dirAt s line = some e → e.state = 4 → e.awaited.contains h = true →
      ∃ t, exec (.invalidationAcknowledgement line h data) s = .next (pumpRecords t)
        ∧ (let left := e.awaited.filter fun a => a ≠ h
           let rest := if e.keep then e.holders else e.holders.filter fun a => a ≠ h
           dirAt t line = if left ≠ [] then some { e with awaited := left, holders := rest }
             else if e.keep = true ∧ e.holders ≠ [] then some { e with awaited := [], holders := e.holders, state := 1, excl := false } else none)
        ∧ (∀ a, a / 64 ≠ line → t.home.mem.get a = s.home.mem.get a) ∧ (data = none → t.home.mem = s.home.mem)
        ∧ ∀ d, data = some d → t.home.mem.bytes (line * 64) 64 = lineBytes d 0 64)
  ∧ (∀ c line s, exec (.taggedWriteReturned c line) s = .next (pumpRecords (serveHeld { s with home := { s.home with
      held := s.home.held.map fun h =>
        if agentCore h.req.agent = some c ∧ h.req.pa / 64 = line ∧ h.tag.isSome = true ∧ h.node = none ∧ promFull s c line = true
        then { h with tag := none, drain := true } else h } })))
  ∧ (∀ c e s, ∃ t, exec (.promotionRetire c e) s = .next t
      ∧ (let out := fun (x : Prom) => decide (x.core = c ∧ (e - x.epoch).toNat < 32768 ∧ (s.coreAt c).isOpen x.epoch = false)
         t.home.prom = s.home.prom.filter (fun x => !out x) ∧ ∀ x ∈ s.home.prom, out x = true → (t.home.granAt (x.line * 64)).prom = true)
      ∧ t.home.mem = s.home.mem ∧ t.cur = s.cur ∧ t.core = s.core)
  ∧ (∀ c slot l m s w, s.warpAt c slot = some w → w.present = true → w.wait = .promote m →
      ∃ t w', exec (.promotionQuery c slot l) s = .next t ∧ t.warpAt c slot = some w' ∧ t.home = s.home
        ∧ (∀ k : Fin 32, w'.threads[k].pending =
            if k = l then w.threads[k].pending.filter (fun x => !tokenDrained s x) else w.threads[k].pending)
        ∧ w'.wait = if (lanesOf m).any fun k => w'.threads[k].pending ≠ [] then .promote m else .none)
  ∧ (∀ c slot l tok m s w, s.warpAt c slot = some w → w.present = true → w.wait = .promote m → tokenDrained s tok = true →
      tok ∈ w.threads[l].pending →
      ∃ t w', exec (.promotionAnswer c slot l tok) s = .next t ∧ t.warpAt c slot = some w' ∧ t.home = s.home
        ∧ (∀ k : Fin 32, w'.threads[k].pending = if k = l then w.threads[k].pending.filter (fun x => x ≠ tok) else w.threads[k].pending)
        ∧ w'.wait = if (lanesOf m).any fun k => w'.threads[k].pending ≠ [] then .promote m else .none)
  ∧ (∀ c line s, exec (.l1LeaseExpiry c line) s
      = .next (s.modCore c fun k => { k with l1 := k.l1.filter fun l => decide ¬(l.id = line ∧ l.dom ≠ .core) }))
  ∧ ∀ block s, s.home.held = [] → (∀ t, assoc block s.home.moved = some t → s.clock ≥ t + 1048576) →
      let at_ := fun (st : BitVec 2) => s.home.placed.find? fun p => p.block = block && p.state = st
      let goes := fun (p : Option Placed) => Host.Outcome.next (pumpRecords { s with home := { s.home with
        placed := (s.home.placed.filter fun x => x.block ≠ block) ++ p.toList, moved := assocSet block s.clock s.home.moved } })
      (∀ away, s.records = [] → (∀ p ∈ s.home.placed, p.block ≠ block) → exec (.migrationStart block away) s =
        if neverMoves s block = false ∧ mayHost s.mgmt block away = true then goes (some { block := block, state := 1, away := away, since := s.clock })
        else .next s)
      ∧ (∀ p, at_ 1 = some p → exec (.migrationSwitch block) s = goes (some { p with state := 2, since := s.clock }))
      ∧ (∀ p, s.records = [] → at_ 2 = some p → exec (.migrationReturnStart block) s = goes (some { p with state := 3, since := s.clock }))
      ∧ (∀ p, at_ 3 = some p → exec (.migrationReturnComplete block) s = goes none)

/-- R111 to R114, R364, R441, R445, R446: the fabric's lease, failures, withdrawn units, clocks and power. -/
def Obligations.FabricAndPowerEvents : Prop :=
  (∀ s, exec (.fabricLeaseRenewal s.fabric.self) s = .next
      (let dropped := fun (k : Core) => { k with l1 := k.l1.filter fun l => l.id.node.isNone }
       let t := if s.fabric.noticed = true ∨ s.fabric.leaseOn = false then
           { s with home := { s.home with proxies := [] }, core := dropped s.core, cores := s.cores.map dropped } else s
       { t with fabric := { t.fabric with leaseOn := true, renewed := s.clock, noticed := false } }))
  ∧ (∀ n s, n ≠ s.fabric.self → ∃ t, exec (.fabricLeaseRenewal n) s = .next t ∧ nodeOf t n = { nodeOf s n with failed := false }
      ∧ ∀ m, m ≠ n → nodeOf t m = nodeOf s m)
  ∧ (∀ s, s.fabric.leaseOn = true → s.clock ≥ s.fabric.renewed + 200000 → ∃ t, exec .fabricLeaseExpiry s = .next t
      ∧ t.fabric = { s.fabric with leaseOn := false } ∧ t.home = { s.home with proxies := [] } ∧ t.cur = s.cur
      ∧ ∀ k ∈ t.allCores, ∀ l ∈ k.l1, l.id.node = none)
  ∧ (∀ s, s.clock < s.fabric.renewed + 200000 → exec .fabricLeaseExpiry s = .next s)
  ∧ (∀ line n s e, dirAt s line = some e → e.state = 4 → e.awaited.contains (.remote n) = true →
      (e.reported.contains n = false → s.clock ≥ e.since + 80000 → ∃ t, exec (.fanoutTimeout line n) s = .next t
        ∧ dirAt t line = some { e with reported := e.reported ++ [n] } ∧ t.fabric = { s.fabric with sent := s.fabric.sent ++ [.unacked line n] })
      ∧ (e.reported.contains n = true ∨ s.clock < e.since + 80000 → exec (.fanoutTimeout line n) s = .next s)
      ∧ ∃ t, exec (.reroute line n) s = .next t
        ∧ dirAt t line = some { e with reported := e.reported.filter fun x => x ≠ n, since := s.clock }
        ∧ t.fabric = { s.fabric with sent := s.fabric.sent ++ [.invalidate line n] })
  ∧ (∀ n s e, n ≠ s.fabric.self → s.home.held = [] → s.coll = {} → s.home.dir = [e] → e.holders = [.remote n] → e.awaited = [] →
      (e.state = 1 ∨ e.state = 2 ∨ e.state = 3) →
      ∃ t, exec (.nodeDeclaredFailed n) s = .next (pumpRecords t) ∧ (nodeOf t n).failed = true ∧ t.home.dir = [] ∧ t.home.mem = s.home.mem
        ∧ (if e.state = 2 then (t.home.granAt (e.line * 64)).poisoned = true else t.home.gran = s.home.gran)
        ∧ t.home.lost = if e.state = 3 then s.home.lost ++ [e.line] else s.home.lost)
  ∧ (∀ s, exec .failureNotice s = .next { s with fabric := { s.fabric with noticed := true } })
  ∧ (∀ n s, Distinct s → s.mgmt.badSockets.contains n = false → ∃ t, exec (.dieLinkFailure n) s = .next t
      ∧ t.mgmt.badSockets = s.mgmt.badSockets ++ [n] ∧ t.mgmt.replace = true
      ∧ (∀ k ∈ t.allCores, socketOf k.id = n → k.blocks = [])
      ∧ (s.mgmt.memDies.contains n = true → t.mgmt.flushMove = true))
  ∧ (∀ n s, s.mgmt.badPorts.contains n = false → exec (.rookPortLinkFailure n) s
      = .next { s with mgmt := { s.mgmt with badPorts := s.mgmt.badPorts ++ [n], replace := true } })
  ∧ (∀ arr s, (∀ x ∈ s.mgmt.corrected, x.1 ≠ errorUnit s.mgmt arr) → ∃ t, exec (.softError ⟨arr, false⟩) s = .next (pumpRecords t)
      ∧ t = { s with mgmt := { s.mgmt with
          corrected := (s.mgmt.corrected.filter fun x => s.ticks < x.2 + 2 ^ 30) ++ [(errorUnit s.mgmt arr, s.ticks)] } })
  ∧ (∀ c line s, (∀ x ∈ s.mgmt.uncorrectable, x.1 ≠ clusterOf c) → ∃ t, exec (.softError ⟨.l1 c line, true⟩) s = .next (pumpRecords t)
      ∧ (∀ l ∈ (t.coreAt c).l1, l.id ≠ line) ∧ t.cur = s.cur ∧ t.home = s.home)
  ∧ (∀ s, ∃ t, exec .overtempStop s = .next t ∧ t = { s with mgmt := { s.mgmt with stopped := true, replace := true } })
  ∧ (∀ n : Fin 36, ∀ s,
      let x := s.mgmt.tempo[n]
      let goes := fun (i : Instr) (y : Tempo) => ∃ t slow, exec i s = .next t ∧ 32 ≤ slow ∧ slow < 40 ∧ t = { s with
        free := t.free
        mgmt := { s.mgmt with tempo := s.mgmt.tempo.set n { y with
          cycles := x.cycles + x.rate * (s.clock - x.since), since := s.clock
          rate := if y.droop = true ∨ y.thermal = 2 then slow else if y.thermal = 1 then 40 else 40 + 2 * y.step } } }
      goes (.droop n.val) { x with droop := true } ∧ goes (.droopRecovery n.val) { x with droop := false }
      ∧ goes (.thermalStepDown n.val) { x with thermal := if x.thermal = 0 then 1 else 2 }
      ∧ goes (.thermalRecovery n.val) { x with thermal := 0 })
  ∧ (∀ low s, ∃ t, exec (.tempoBoundary low) s = .next t ∧ t = { s with mgmt := t.mgmt, free := t.free } ∧ t.mgmt.boundary = s.ticks / 5000
      ∧ (let free := if low then min 64 (s.mgmt.permits + 1) else s.mgmt.permits
         let granted := (List.finRange 36).filter fun n => t.mgmt.tempo[n].grant
         (∀ n : Fin 36, (t.mgmt.tempo[n].grant = true → s.mgmt.tempo[n].claim ≠ 0)
           ∧ t.mgmt.tempo[n].step = if t.mgmt.tempo[n].grant then s.mgmt.tempo[n].claim.toNat else s.mgmt.tempo[n].step - 1)
         ∧ t.mgmt.permits + granted.length = free
         ∧ (0 < t.mgmt.permits → ∀ n : Fin 36, s.mgmt.tempo[n].claim ≠ 0 → t.mgmt.tempo[n].grant = true)))

/-! ## Events: cores and their engines -/

/-- R104, R123, R129: a copy owns its lines, delivers a chunk up to the next multiple of 64, ends with its handle FULL; a waiting copy is
accepted by issuing again. -/
def Obligations.CopyEvents : Prop :=
  (∀ c (ch : BitVec 2) s x s1 got, chanHead s c ch = some x → x.owned = false → x.status = .running →
    takeLines s (copyCtx s c x) (copyIssuer c x) x.lines (if inAperture x.dst then [] else lineAddrs (x.dst.toNat + x.deliv) (x.len - x.deliv))
      = (s1, got, .ok ()) →
    exec (.ownershipPoint c ch.toNat) s = .next (pumpRecords (serveHeld (s1.modCore c fun k => { k with
      copies := k.copies.map fun y => if y.no = x.no then { x with owned := true, lines := got } else y }))))
  ∧ (∀ c (ch : BitVec 2) s x s1 z d s2, chanHead s c ch = some x → x.owned = true → x.status = .running → x.deliv < x.len →
      let n := min (x.len - x.deliv) (64 - (x.dst.toNat + x.deliv) % 64)
      let va := x.dst + BitVec.ofNat 64 x.deliv
      readPieces s c x (piecesOf x x.deliv n) = (s1, z, .ok d) →
      engWrite s1 (copyCtx s1 c x) (copyIssuer c x) x.lines va d = (s2, .ok true) →
      ∃ t seen', exec (.copyDeliver c ch.toNat) s = .next (pumpRecords t)
        ∧ (let y := { x with deliv := x.deliv + n, watched := seen', elem := z.elem, lines := x.lines.filter fun o => o.va ≠ va.toNat / 64 * 64 }
           let moved := (s2.coreAt c).copies.map fun z => if z.no = x.no then y else z
           (t.coreAt c).copies = if x.deliv + n < x.len then moved else moved.filter fun z => z.no ≠ x.no)
        ∧ (s2.home.held = [] → t.home = s2.home)
        ∧ ∀ b h B, x.bslot = some b → x.handle = some h → s2.blockAt c b = some B →
            (∀ w ∈ s2.blockWarps c b, w.wait ≠ .handleDrain h.toNat) →
            ∃ B', t.blockAt c b = some B' ∧ B'.local_ = B.local_ ∧ (B'.handles.getD h.toNat {}).deliv = x.deliv + n
              ∧ (x.deliv + n = x.len → (B'.handles.getD h.toNat {}).state = 2))
  ∧ ∀ c slot s i, (∃ gr d a b, i = .acopy gr d a b ∨ i = .axform gr d a b ∨ i = .agather gr d a b) →
      let f := s.focus c slot
      f.isCur c slot = true → acceptable f c f.cur = true → f.cur.parked = some i →
      ∃ t, exec (.copyAccepted c slot) s = .next t ∧ exec i { f with cur := { f.cur with woken := true } } = .next t

/-- R43, R145, R151, R168, R170, R286, R291: lane sets, with the bound of 1,024 of the core's clocks (R9), warps that exit, polls of WAITS, and the
counting of a shootdown, which drops the core's translations of the pages. -/
def Obligations.WarpEvents : Prop :=
  (∀ c n s w r, Distinct s → n < 8 → (s.coreAt c).active.toList.getD n none = none → readyPending s c = w :: r →
    ∃ t, exec (.activeSetEntry c n) s = .next t ∧ (t.coreAt c).active.toList.getD n none = some (w.slot, s.coreClock c)
      ∧ (∀ v ∈ t.warpsOf c, v.slot = w.slot → v.wait ≠ .yield) ∧ w ∈ s.warpsOf c ∧ warpReady s c w = true ∧ outstanding s c w = false
      ∧ ∀ v ∈ s.warpsOf c, warpReady s c v = true → outstanding s c v = false → s.isActive c v.slot = false → w.readyAt ≤ v.readyAt)
  ∧ (∀ c slot s at_, Distinct s → some (slot, at_) ∈ (s.coreAt c).active.toList → at_ + 40960 ≤ s.coreClock c → readyPending s c ≠ [] →
      ∃ t, exec (.activeBound c slot) s = .next t ∧ (∀ at_, some (slot, at_) ∉ (t.coreAt c).active.toList)
        ∧ (∀ v ∈ t.warpsOf c, v.slot = slot → v.readyAt = s.clock) ∧ t.home = s.home)
  ∧ (∀ c slot s, (∀ at_, some (slot, at_) ∈ (s.coreAt c).active.toList → s.coreClock c < at_ + 40960) → exec (.activeBound c slot) s = .next s)
  ∧ (∀ c slot s w, Distinct s → s.warpAt c slot = some w → w.live = 0 → outstanding s c w = false → jobsOf s c w = [] →
      ∃ t, exec (.warpExit c slot) s = .next (pumpRecords t) ∧ t.placeDue = true ∧ (∀ v ∈ t.warpsOf c, v.slot ≠ slot)
        ∧ ((∀ v ∈ s.warpsOf c, v.bslot = w.bslot → v.slot = slot) → t.blockAt c w.bslot = none)
        ∧ ((∃ v ∈ s.warpsOf c, v.bslot = w.bslot ∧ v.slot ≠ slot) → (t.blockAt c w.bslot).isSome = (s.blockAt c w.bslot).isSome))
  ∧ (∀ c slot s w n pa key cond cmp p, s.warpAt c slot = some w → w.wait = .signal n pa key cond cmp p →
      ∃ t, exec (.waitsPoll c slot) s = .next t ∧ t.warpAt c slot = some { w with wait := .retry, woken := true } ∧ t.home = s.home)
  ∧ ∀ c s x w, s.shootdowns = [x] → c ∈ x.wait → shootdownReady s c x = true → s.home.held = [] →
      (s.coreAt c).stash = [] → (s.coreAt c).upd = [] → (s.coreAt c).copies = [] → s.warpAt x.core x.slot = some w → w.wait = .tlbinv →
      ∃ t, exec (.shootdownCoreComplete c) s = .next (pumpRecords t) ∧ t.shootdowns = [{ x with wait := x.wait.filter fun y => y ≠ c }]
        ∧ t.home = s.home ∧ (t.coreAt c).tlb = (s.coreAt c).tlb.filter (fun e => !x.hits e) ∧ (t.warpAt x.core x.slot).map (fun w => w.wait) = some (if x.wait = [c] then .retry else .tlbinv)

/-- R300 to R312: a step of a job sets accumulators by its kind and frees its entry at its end; a stream's next block is fetched once
for every subscriber. -/
def Obligations.JobEvents : Prop :=
  (∀ c e s j w, (s.coreAt c).jobs.find? (fun j => j.entry = e) = some j → j.status = .running → j.snap = none →
    s.warpAt c j.slot = some w → w.preempted = false → w.genAcc = j.genAcc →
    let ends := fun (t : State) (acc : List (Vector Word 2048)) =>
      exec (.jobStep c e) s = .next (pumpRecords t) ∧ (t.warpAt c j.slot).map (fun w => w.acc) = some acc
        ∧ ∀ x ∈ (t.coreAt c).jobs, x.entry = e → x ∈ (s.coreAt c).jobs
    (∀ m, j.kind = .zero m → matBlocked (s.coreAt c) j m false = false →
      ∃ t acc, ends t acc ∧ t.home = s.home ∧ (t.coreAt c).jobs = (s.coreAt c).jobs.filter (fun x => x ≠ j)
        ∧ ∀ a : Nat, acc[a]? = if a < 8 ∧ m.getLsbD a = true then w.acc[a]?.map fun _ => Vector.replicate 2048 0 else w.acc[a]?)
    ∧ (∀ a base pitch fmt s1 j1 w1, j.kind = .load a base pitch fmt → matBlocked (s.coreAt c) j (accBit a) true = false →
        loadRows s c base pitch fmt (64 - j.row) j = (s1, j1, .ok ()) → s1.warpAt c j.slot = some w1 → w1.genAcc = j.genAcc →
        ∃ t, exec (.jobStep c e) s = .next (pumpRecords t) ∧ t.home = s1.home
          ∧ (t.warpAt c j.slot).map (fun w => w.acc) = some (w1.acc.set a (loadedAcc fmt j1.staged))
          ∧ (t.coreAt c).jobs = ((s1.coreAt c).jobs.map fun x => if x = j then j1 else x).filter fun x => x ≠ j1)
    ∧ (∀ a base pitch fmt k rnd sat x s1 j1, j.kind = .store a base pitch fmt k rnd sat →
        matBlocked (s.coreAt c) j (accBit a) false = false → w.acc[a]? = some x →
        storeRows s c x base pitch fmt k rnd sat (64 - j.row) j = (s1, j1, .ok ()) → s1.home.held = [] →
        ∃ t, exec (.jobStep c e) s = .next (pumpRecords t) ∧ t.home = s1.home
          ∧ (t.coreAt c).jobs = ((s1.coreAt c).jobs.map fun x => if x = j then j1 else x).filter fun x => x ≠ j1)
    ∧ ∀ (words : Card) kk m0 n0 a x s1 j1 s2 j2 w2, j.kind = .card words → Card.point words j.idx = (kk, m0, n0, a) →
        (Card.sideA words).strm = false → (Card.sideB words).strm = false →
        matBlocked (s.coreAt c) j (accBit a) true = false → w.acc[a]? = some x →
        stageSide s c j (Card.sideA words) m0 kk 0 64 = (s1, j1, .ok ()) → stageSide s1 c j1 (Card.sideB words) n0 kk 64 32 = (s2, j2, .ok ()) →
        s2.warpAt c j.slot = some w2 → w2.genAcc = j.genAcc →
        let ra := (j2.staged.take 64).map fun y => operandsOf (Card.sideA words).fmt y.1 y.2
        let rb := (j2.staged.drop 64).map fun y => operandsOf (Card.sideB words).fmt y.1 y.2
        let jobs := (s2.coreAt c).jobs.map fun x => if x = j then j2 else x
        ∃ t, exec (.jobStep c e) s = .next (pumpRecords t) ∧ t.home = s2.home
          ∧ (t.warpAt c j.slot).map (fun w => w.acc) = some (w2.acc.set a (nativeStep (Card.nospecial words) ra rb x))
          ∧ (t.coreAt c).jobs = match Card.next words j.idx with
            | some idx => jobs.map fun x => if x = j2 then { j2 with idx := idx, staged := [] } else x
            | none => jobs.filter fun x => x ≠ j2)
  ∧ ∀ c e s j wp (words : Card) kk m0 n0 a st y s1 j1 st1, (s.coreAt c).jobs.find? (fun j => j.entry = e) = some j → j.status = .running →
      j.kind = .card words → j.staged = [] → s.warpAt c j.slot = some wp → wp.preempted = false → Card.point words j.idx = (kk, m0, n0, a) →
      (Card.sideA words).strm = true → matBlocked (s.coreAt c) j (accBit a) true = false →
      streamOf s c j (Card.sideA words).sid = some (st, y) → st.subs.length = st.count → (∀ z ∈ st.subs, y.used < z.used + z.window) →
      (∀ b ∈ st.fetched, b.n ≠ y.used) → stageRows s c (Card.sideA words) kk j m0 64 = (s1, j1, .ok ()) →
      streamOf s1 c j (Card.sideA words).sid = some (st1, y) → st1.cohort = st.cohort →
      ∃ t, exec (.streamBlockFetch c e) s = .next (pumpRecords t)
        ∧ streamOf t c j (Card.sideA words).sid = some ({ st1 with fetched := st1.fetched ++ [⟨y.used, rowAddr (Card.sideA words) m0 kk, j1.staged⟩] }, y)

/-- R345 to R350: what a running ray does next with a hit, and how it ends; the results land in its registers. -/
def Obligations.RayEvents : Prop :=
  ∀ c slot (l : Fin 32) s w r, s.warpAt c slot = some w → w.present = true → w.preempted = false → w.threads[l].ray = some r →
    r.status = .running → s.sched.late = false →
    let goes := fun (w' : Warp) (ray : Option Ray) => w'.threads[l].ray = ray
      ∧ ∃ t, exec (.rayTraversalStep c slot l) s = .next t ∧ t.warpAt c slot = some w' ∧ t.home = s.home
    let reads := fun (w' : Warp) (xs : List Word) => ∀ i x, xs[i]? = some x → w'.getV (r.dst + i) l = x
    let held := fun n => ∀ i < n, HasV w (r.dst + i)
    let of_ := fun (h : Hit) => [h.prim, h.t, h.u, h.v, h.inst]
    (r.found = [] → r.todo = [] → r.stack = [] → r.spilled = 0 →
      (r.query = none → held 6 → ∃ w', goes w' none ∧ reads w' (match r.best with | some h => 1 :: of_ h | none => [0]))
      ∧ (∀ q, r.query = some q → held (r.k + 1) → ∃ w', goes w' none
          ∧ reads w' (BitVec.ofNat 32 r.count :: (List.range r.k).map fun i => match r.items[i]? with | some x => x.2 | none => 0xFFFFFFFF)))
    ∧ ∀ h o f, r.found = (h, o) :: f → r.query = none →
        let near := ∀ b, r.best = some b → h.before b = true
        (¬near → ∃ w', goes w' (some { r with found := f }))
        ∧ (near → r.cand = true → o = false → held 6 → ∃ w', goes w' (some { r with found := f, current := some h, status := .candidate })
            ∧ reads w' (2 :: of_ h))
        ∧ (near → (r.cand = false ∨ o = true) → r.first = true → held 6 → ∃ w', goes w' none ∧ reads w' (1 :: of_ h))
        ∧ (near → (r.cand = false ∨ o = true) → r.first = false → ∃ w', goes w' (some { r with found := f, best := some h }))

/-- R131, R304, R391: a test of RESP that reads 0 waits on, 1 replays, any other value fails: a copy with trap 0x20/05 (R135), a job with 0x28/07
(R313). A test that the word's home makes wait (R69) waits on as well. -/
def Obligations.FaultResponses : Prop :=
  ∀ c s pa tr p s1 v, (physWaits s pa 8 false = none ∧ physNat s pa 8 = (s1, v)) ∨ (physWaits s pa 8 false = some s1 ∧ v = 0) →
    (∀ slot w, s.warpAt c slot = some w → w.wait = .resp pa tr p → w.preempted = false →
      let goes := fun (u : State) => exec (.faultRespPoll c (.warp slot)) s = .next (pumpRecords u)
      let f := s1.focus c slot
      let a := acquire { f with cur := { f.cur with wait := .none } } allLanes .system
      (v = 0 → goes (s1.modWarp c slot fun w => { w with wait := .resp pa tr s1.clock })) ∧ (v = 1 → goes a) ∧ (1 < v → goes (takeUnserviced a tr)))
    ∧ (∀ n x, (s.coreAt c).copies.find? (fun x => x.chan.toNat = n && x.status ≠ .running) = some x → x.status = .faulted pa tr p →
      let goes := fun (u : State) => exec (.faultRespPoll c (.chan n)) s = .next (pumpRecords u)
      let becomes := fun (st : EngStatus) => goes (s1.modCore c fun k => { k with copies := k.copies.map fun y => if y.no = x.no then { x with status := st } else y })
      (v = 0 → becomes (.faulted pa tr s1.clock)) ∧ (v = 1 → becomes .running) ∧ (1 < v → goes (failCopy s1 c x (trapAt 100 0x20 0x05 tr.addr))))
    ∧ ∀ e j, (s.coreAt c).jobs.find? (fun j => j.entry = e) = some j → j.status = .faulted pa tr p →
      let goes := fun (u : State) => exec (.faultRespPoll c (.job e)) s = .next (pumpRecords u)
      let becomes := fun (st : EngStatus) => goes (s1.modCore c fun k => { k with jobs := k.jobs.map fun y => if y = j then { j with status := st } else y })
      (v = 0 → becomes (.faulted pa tr s1.clock)) ∧ (v = 1 → becomes .running) ∧ (1 < v → goes (failJob s1 c j (trapAt 100 0x28 0x07 tr.addr)))

/-! ## Events: queues and launches -/

/-- R137 to R139, R151 to R167, R389, R448: the queue registers, the start of items, placement, the end of a launch, kills, and the records
that wait for room. -/
def Obligations.QueueEvents : Prop :=
  (∀ q v s, let x := s.queueOf q
    (x.enabled = false → exec (.qtail q v) s = .next s)
    ∧ (x.enabled = true → x.qtail.toNat ≤ v.toNat → v.toNat ≤ x.qhead.toNat + x.ring →
        exec (.qtail q v) s = .next (s.setQueue { x with qtail := v, prompt := x.prompt || x.qhead = x.qtail }))
    ∧ (x.enabled = true → (v.toNat < x.qtail.toNat ∨ x.qhead.toNat + x.ring < v.toNat) →
        exec (.qtail q v) s = .next (s.setQueue { x with tailerr := true }))
    ∧ exec (.clear q) s = .next (s.setQueue { x with lasterr := 0, tailerr := false, stopped := false, prompt := true, retryAt := 0 }))
  ∧ (∀ q v s, q < 4096 → s.mgmt.boot = .running →
      (∀ t, exec (.qtail q v) s = .next t → exec (.registerWrite (queuePages + 4096 * q) v) s = .next (pumpRecords t))
      ∧ (exec (.registerWrite (queuePages + 4096 * q + 0x20) v) s = exec (.qwake q) s)
      ∧ (exec (.registerWrite (passPages + 4096 * q) v) s = exec (.passopen q v) s)
      ∧ (∀ t, exec (.clear q) s = .next t → exec (.registerWrite (queuePages + 4096 * q + 0x18) 8) s = .next (pumpRecords t))
      ∧ (∀ t, exec (.preempt q) s = .next t → exec (.registerWrite (queuePages + 4096 * q + 0x18) 1) s = .next (pumpRecords t))
      ∧ (∀ t, exec (.resume q) s = .next t → exec (.registerWrite (queuePages + 4096 * q + 0x18) 2) s = .next (pumpRecords t))
      ∧ exec (.registerWrite (queuePages + 4096 * q + 0x18) 4) s = exec (.kill q) s
      ∧ (∀ k : Fin 4, exec (.registerWrite (mailboxPage + 8 + 8 * k.val) v) s
          = .next (pumpRecords { s with mgmt := { s.mgmt with arg := s.mgmt.arg.set k v } })))
  ∧ (∀ q s, Distinct s → (∀ y ∈ queueBlocks s q, y.2.preempted = false) → ∃ t, exec (.preempt q) s = .next t ∧ t.placeDue = true ∧ t.home.mem = s.home.mem
      ∧ ∀ y ∈ queueBlocks t q, y.2.preempted = true
        ∧ ∀ w ∈ t.blockWarps y.1 y.2.bslot, w.preempted = true ∧ t.isActive y.1 w.slot = false)
  ∧ (∀ q s, Distinct s → ∃ t, exec (.resume q) s = .next t ∧ t.placeDue = true ∧ t.home = s.home
      ∧ ∀ y ∈ queueBlocks t q, y.2.resumable = y.2.preempted)
  ∧ (∀ q s, Distinct s → (∀ l ∈ s.launches, l.q = q → l.killed = false) → ∃ t, exec (.kill q) s = .next (pumpRecords t)
      ∧ queueBlocks t q = [] ∧ (∀ l ∈ t.launches, l.q = q → l.killed = true) ∧ (t.queueOf q).stopped = true
      ∧ (t.queueOf q).qhead = (s.queueOf q).qtail
      ∧ (t.queueOf q).lasterr = if ∃ l ∈ s.launches, l.q = q then 6 else (s.queueOf q).lasterr)
  ∧ (∀ launch n s, Distinct s → ∃ t, exec (.blockKill launch (some n)) s = .next (pumpRecords t)
      ∧ ∀ k ∈ t.allCores, ∀ b ∈ k.blocks, ¬(b.launch = BitVec.ofNat 32 launch ∧ b.index.toNat = n))
  ∧ (∀ launch s l, Distinct s → s.launchOf (BitVec.ofNat 32 launch) = some l → ∃ t, exec (.blockKill launch none) s = .next (pumpRecords t)
      ∧ (∀ k ∈ t.allCores, ∀ b ∈ k.blocks, b.launch ≠ BitVec.ofNat 32 launch) ∧ (t.queueOf l.q).lasterr = 6
      ∧ ∃ l', t.launchOf (BitVec.ofNat 32 launch) = some l' ∧ l'.killed = true)
  ∧ (∀ q s s1 it s2 a s3 y, headDue s (s.queueOf q) = true → (s.queueOf q).tokens = [] → headItem s (s.queueOf q) = (s1, it) → isWait it = true →
      bitsOf it 127 64 % 8 = 0 →
      devCheck s1 (queueCtx ((s.queueOf q).word 2) (s.queueOf q).sup) (BitVec.ofNat 64 (bitsOf it 127 64)) 8 .data = (s2, .ok a) →
      loadAcc s2 (queueIssuer s2 0) a true 3 = (s3, .ok y) →
      let met := signalHolds (BitVec.ofNat 2 (bitsOf it 5 4)) (BitVec.ofNat 64 (leNat y.bytes)) (BitVec.ofNat 64 (bitsOf it 191 128))
      ∃ t, exec (.waitItemPoll q) s = .next (pumpRecords t) ∧ exec (.qwake q) s = .next (pumpRecords t) ∧ t.home = s3.home
        ∧ (met = true → (∀ k ∈ y.tokens, tokenDrained s3 k = true) → (t.queueOf q).qhead = (s3.queueOf q).qhead + 1 ∧ ∀ k ∈ t.allCores, k.l1 = [])
        ∧ (met = true → (∃ k ∈ y.tokens, tokenDrained s3 k = false) → (t.queueOf q).qhead = (s3.queueOf q).qhead ∧ (t.queueOf q).tokens = y.tokens)
        ∧ (met = false → t = s3.setQueue { s.queueOf q with polled := s3.clock, prompt := false, retryAt := 0, waitOn := some (wordKey a) }))
  ∧ (∀ q s, headDue s (s.queueOf q) = true → (s.queueOf q).tokens ≠ [] → ∃ t, exec (.waitItemPoll q) s = .next (pumpRecords t) ∧ t.home = s.home
      ∧ (t.queueOf q).qhead = (s.queueOf q).qhead + if (s.queueOf q).tokens.all (tokenDrained s) then 1 else 0)
  ∧ (∀ q s, headDue s (s.queueOf q) = false → exec (.waitItemPoll q) s = .next (pumpRecords s) ∧ exec (.launchStart q) s = .next (pumpRecords s))
  ∧ (∀ q s s1 it, headDue s (s.queueOf q) = true → headItem s (s.queueOf q) = (s1, it) → isWait it = false → mayStart s1 q it = true →
      (it % 16 ≠ 1 → ∃ t, exec (.launchStart q) s = .next (pumpRecords t) ∧ t.launches = s1.launches ∧ t.nextLaunch = s1.nextLaunch
        ∧ (t.queueOf q).lasterr = 1 ∧ (t.queueOf q).qhead = (s1.queueOf q).qhead + 1
        ∧ ∃ r : Rec, r.kind = 4 ∧ r.sub = 1 ∧ r.addr = BitVec.ofNat 64 (s.queueOf q).slotAddr ∧ (t.records.map fun x => x.bytes) = (s1.records.map fun x => x.bytes) ++ [r.bytes])
      ∧ (∀ s2 rs, it % 16 = 1 → badPacket it = false → (packetOf it).ext = 0 → readRegions s1 ((s.queueOf q).word 3) = (s2, some rs) →
          launchStatus s2.mgmt (packetOf it) .none true = 0 → (∀ l ∈ s2.launches, l.id ≠ s1.nextLaunch) →
          ∃ t l, exec (.launchStart q) s = .next (pumpRecords t) ∧ t.launches = s2.launches ++ [l] ∧ t.nextLaunch = s1.nextLaunch + 1
            ∧ t.placeDue = true ∧ (t.queueOf q).qhead = (s2.queueOf q).qhead + 1 ∧ (∀ k ∈ t.allCores, k.l1 = [])
            ∧ (l.id, l.q, l.pkt, l.regions, l.gen) = (s1.nextLaunch, q, packetOf it, rs, s2.mgmt.gen)
            ∧ (l.ptroot, l.trapq, l.prio, l.sup) = ((s.queueOf q).word 2, (s.queueOf q).word 4, (s.queueOf q).prio, (s.queueOf q).sup)
            ∧ (if (packetOf it).cores = 1 then l.draw = some s2.geom.drawCounter ∧ t.geom.drawCounter = s2.geom.drawCounter + 1
                else l.draw = none ∧ t.geom = s2.geom)))
  ∧ (∀ s l cores, s.launches = [l] → waitsForPlace l = true → l.nextCohort = 0 → cohortsOf l = 1 → l.micro = 0 → l.pkt.lsg ≤ 128 →
      (∀ k ∈ s.allCores, k.blocks = []) → (∀ c, ∀ w ∈ s.warpsOf c, w.preempted = false) → findPlace { s with placeDue := false } l 0 = some cores →
      ∃ t, exec .placementPass s = .next (pumpRecords t) ∧ t.placeDue = false ∧ t.home.dir = s.home.dir
        ∧ (t.launchOf l.id).map (fun x => x.nextCohort) = some 1
        ∧ ∀ r c, cores[r]? = some c → ∃ b ∈ (t.coreAt c).blocks,
            (b.launch, b.index, b.rank, b.lsBytes, b.local_) = (l.id, BitVec.ofNat 32 r, r, 4096 * l.pkt.lsg, [])
            ∧ ∀ i < (l.pkt.ntid + 31) / 32, ∃ w ∈ t.blockWarps c b.bslot,
                (w.launch, w.block, w.idx, w.vgran, w.nacc) = (l.id, b.index, i, l.pkt.vgran, l.pkt.nacc)
                ∧ w.lpc = Vector.replicate 32 l.pkt.entry ∧ w.live = maskOf (fun x => 32 * i + x.val < l.pkt.ntid) ∧ w.getS 0 = l.pkt.args)
  ∧ (∀ id s l, s.launchOf (BitVec.ofNat 32 id) = some l → launchDone s l = false → exec (.launchComplete id) s = .next s)
  ∧ (∀ id s l, s.launchOf (BitVec.ofNat 32 id) = some l → launchDone s l = true → s.signals = [] → (∀ k ∈ s.allCores, ∀ u ∈ k.upd, u.launch ≠ l.id ∧ l.id ∉ u.others) →
      l.pubLines = [] → (∀ d ∈ s.geom.dies, ∀ x ∈ d.renderLines, x.2.2 ≠ l.id) → (∀ m ∈ s.coll.members, m.launch ≠ l.id) → l.pkt.donesig = 0 →
      ∃ t, exec (.launchComplete id) s = .next (pumpRecords t) ∧ (∀ x ∈ t.launches, x.id ≠ l.id) ∧ t.placeDue = true ∧ t.home.mem = s.home.mem)
  ∧ ∀ q s (r : PendingRecord), Quiet s → s.home.locks = [] → s.records = [r] → r.unit = none → r.done = none → r.block = false → r.bytes.length = 64 → r.trapq % 64 = 0 →
      (r.trapq = (s.queueOf q).trapq.toNat ∨ ∃ l ∈ s.launches, l.q = q ∧ l.trapq.toNat = r.trapq) →
      let word := fun k => s.home.mem.nat (r.trapq + 8 * k) 8
      let n := word 2 % 32
      1 ≤ n → n ≤ 16 → (word 0 + 2 ^ 64 - word 1) % 2 ^ 64 < 2 ^ n → word 3 / 2 ^ 12 % 4 = 0 →
      exec (.trapQueuePoll q) s = .next { s with records := [], home := { s.home with
        mem := (s.home.mem.put (r.trapq + 64 + 64 * (word 0 % 2 ^ n)) r.bytes).put r.trapq (leBytes 8 (word 0 + 1)) } }

/-! ## Events: geometry and shading -/

/-- R314 to R337: tokens, packets, flush areas, the tiles of a pass, its opening and its end. -/
def Obligations.GraphicsEvents : Prop :=
  (∀ g draw s d, s.geom.draws.find? (fun d => d.index = draw) = some d → d.placedAll = true → g ∉ d.tokens → s.mgmt.geomDies.contains g = true →
    (∀ k ∈ s.allCores, socketOf k.id = g → (∀ b ∈ k.blocks, b.launch ≠ d.launch) ∧ (∀ x ∈ k.copies, x.launch ≠ d.launch)
      ∧ ∀ u ∈ k.upd, u.launch ≠ d.launch) →
    s.home.held = [] → (∀ l, s.launchOf d.launch = some l → l.pubLines = []) →
    ∃ t, exec (.endOfDrawToken g draw) s = .next (pumpRecords t) ∧ t = { s with geom := t.geom }
      ∧ t.geom.tokens = s.geom.tokens ++ s.mgmt.shadeDies.map (fun x => (g, x, draw))
      ∧ t.geom.passed = s.geom.passed ++ s.mgmt.shadeDies.map (fun x => ((g, x, draw),
          (s.geom.packets.filter fun p => p.1 = g && p.2.1 = x).length))
      ∧ t.geom.draws.find? (fun d => d.index = draw) = some { d with tokens := d.tokens ++ [g] })
  ∧ (∀ g n draw s x, dieAt s n = some x → dieUp s n = false → ∃ t, exec (.tokenArrival g n draw) s = .next t
      ∧ t.geom.tokens = s.geom.tokens.erase (g, n, draw) ∧ dieAt t n = some { x with discarded := x.discarded + 1 })
  ∧ (∀ g g' n draw s d x, dieAt s n = some x → dieUp s n = true → s.geom.draws.find? (fun d => d.index = draw) = some d →
      (n, g) ∉ d.received → (n, g') ∉ d.received → g' ≠ g → s.mgmt.geomDies.contains g' = true →
      ∃ t, exec (.tokenArrival g n draw) s = .next (pumpRecords t) ∧ t.geom.tokens = s.geom.tokens.erase (g, n, draw)
        ∧ t.geom.draws.find? (fun d => d.index = draw) = some { d with received := d.received ++ [(n, g)] })
  ∧ (∀ n p s d x, dieAt s n = some d → s.geom.packets.find? (fun x => x.2.1 = n && x.2.2 = p) = some x →
      let goes := fun (f : ShadeDie → ShadeDie) => ∃ t, exec (.frondPacketArrival n p) s = .next t
        ∧ t.geom.packets = s.geom.packets.erase x ∧ dieAt t n = some (f d)
      (dieUp s n = false ∨ drawBefore p.draw d.frontier = true → goes fun d => { d with discarded := d.discarded + 1 })
      ∧ (dieUp s n = true → drawBefore p.draw d.frontier = false → p.draw ≠ d.frontier → heldRoom d = true → goes fun d => { d with held := d.held ++ [p] })
      ∧ (dieUp s n = true → p.draw = d.frontier → d.held = [] → binRoom d = true → p.mslot ≠ 0x1FFFFFF →
          (∃ y ∈ s.geom.passes, inPass y p.draw = true) → goes fun d => { d with binned := d.binned ++ [p] }))
  ∧ (∀ s, s.mgmt.flushMove = true → s.launches = [] → exec .flushAreaMove s
      = .next { s with mgmt := { s.mgmt with flush := flushAreas s.mgmt, flushMove := false } })
  ∧ (∀ s, s.launches ≠ [] → exec .flushAreaMove s = .next s)
  ∧ (∀ q tx ty s p s1 l, tilePass s q tx ty = some p → resolveTile s p (tileOwner s.mgmt tx ty) tx ty false = (s1, .ok l) →
      let shaded := (passLaunch s1 p).killed = false ∧ (p.shadeAll = true ∨ ∃ x ∈ l, x.1 ≠ 0xFFFFFFFF)
      let finished := fun (u : State) => ∃ t, exec (.tileLaunch q tx ty) s = .next (pumpRecords t) ∧ t = { u with geom := t.geom }
        ∧ t.geom.passes = (modPass u p fun p => { p with done := p.done ++ [(tx, ty)] }).geom.passes
      (¬shaded → finished s1) ∧ ∀ s2, shaded → placeTile s1 (passLaunch s1 p) (tileOwner s.mgmt tx ty) (tileBlock p tx ty) = .ok s2 → finished s2)
  ∧ (∀ q s p, s.geom.passes.find? (fun p => p.q = q && passDone s p) = some p →
      (∀ id l, p.launch = some id → s.launchOf id = some l →
        l.pubLines = [] ∧ ∀ d ∈ s.geom.dies, ∀ x ∈ d.renderLines, x.2.2 ≠ id) →
      ∃ t, exec (.passComplete q) s = .next (pumpRecords t) ∧ p ∉ t.geom.passes ∧ (t.queueOf q).passcount = (s.queueOf q).passcount + 1
        ∧ ∀ id l, p.launch = some id → s.launchOf id = some l → ∀ x ∈ t.launches, x.id ≠ id)
  ∧ (∀ q va s, (s.queueOf q).enabled = false → exec (.passopen q va) s = .next (pumpRecords s))
  ∧ ∀ q va s s1 b s2 rs, (s.queueOf q).enabled = true → va.toNat % 64 = 0 → physWaits s va.toNat 192 false = none → physRead s va.toNat 192 0 = (s1, .ok b) →
      readRegions s1 ((s.queueOf q).word 3) = (s2, some rs) → badPass (leNat b) s2.geom.drawCounter rs = false →
      let p := packetOf (bitsOf (leNat b) 1535 1024)
      p.ext = 0 → launchStatus s2.mgmt p .none true = 0 →
      ∃ t l, exec (.passopen q va) s = .next (pumpRecords t) ∧ t.launches = s2.launches ++ [l] ∧ (l.id, l.q, l.pkt, l.pass) = (s2.nextLaunch, q, p, some q)
        ∧ t.nextLaunch = s2.nextLaunch + 1 ∧ t.geom.passes = s2.geom.passes ++ [passOf q (leNat b) s2.nextLaunch] ∧ ∀ k ∈ t.allCores, k.l1 = []

/-! ## Events: collectives -/

/-- R355 to R367: joins, frames that open and close, packets at the root and at merge points, settled frames, and the heads. -/
def Obligations.CollectiveEvents : Prop :=
  (∀ n slot desc entry s, let w := descOf desc
    let j := joinDesc w
    (collRoot s j.cid = none → exec (.joinRequest n slot desc entry) s
      = .next { s with coll := { s.coll with joins := s.coll.joins ++ [(n, slot, desc, entry)] } })
    ∧ ∀ r, collRoot s j.cid = some r → n ≠ s.fabric.self →
      let ok := sameDesc w r.desc = true ∧ entry = n ∧ ∀ m ∈ r.members, m.2.2 ≠ j.rank
      (ok → ∃ t, exec (.joinRequest n slot desc entry) s = .next t
        ∧ collRoot t j.cid = some { r with members := r.members ++ [(n, slot, j.rank)], left := r.left.filter fun x => x ≠ j.rank }
        ∧ t.fabric = { s.fabric with sent := s.fabric.sent ++ [.joined n slot true, .openFlit r.cid r.frame r.close] })
      ∧ (¬ok → exec (.joinRequest n slot desc entry) s = .next { s with fabric := { s.fabric with sent := s.fabric.sent ++ [.joined n slot false] } }))
  ∧ (∀ slot ok s m, memberAt s slot = some m → m.waiter.isSome = true → m.answer = none → ∃ t, exec (.joinReply slot ok) s = .next t
      ∧ memberAt t slot = some { m with answer := some ok } ∧ (s.cur.present = true → t.cur.wait ≠ .collJoin slot) ∧ t.home = s.home)
  ∧ (∀ cid frame close s, pointOf s cid = none → ∃ t, exec (.openFlit cid frame close) s = .next t ∧ t.home = s.home
      ∧ t.coll.members = s.coll.members.map fun m => if m.cid = cid then { m with
          frame := frame, close := close, posted := m.posted.filter fun x => !frameBefore x.1 frame } else m)
  ∧ (∀ cid frame close s x, pointOf s cid = some x → x.early = [] → ∃ t, exec (.openFlit cid frame close) s = .next t
      ∧ pointOf t cid = some { x with frame := frame, close := close, closed := false, parts := [] })
  ∧ (∀ cid s r tk, collRoot s cid = some r → pointOf s cid = none → r.close = some tk → ∃ t, exec (.frameClose cid) s = .next t
      ∧ collRoot t cid = some (if s.fabricTick ≥ tk then { r with closed := true } else r))
  ∧ (∀ cid s x tk, collRoot s cid = none → pointOf s cid = some x → x.close = some tk → tk ≤ s.fabricTick → x.closed = false →
      ∃ t, exec (.frameClose cid) s = .next t ∧ pointOf t cid = some { x with closed := true, parts := [] }
        ∧ t.fabric.sent = s.fabric.sent ++ x.parts.map Sent.packet ++ x.owned.map fun _ => Sent.closeFlit cid x.frame)
  ∧ (∀ p s, p.crcOk = false → exec (.collectivePacket p) s = .next { s with coll := { s.coll with crcDropped := s.coll.crcDropped + 1 } })
  ∧ (∀ p s, p.crcOk = true → collRoot s p.cid = none → pointOf s p.cid = none → exec (.collectivePacket p) s
      = .next { s with fabric := { s.fabric with sent := s.fabric.sent ++ [.packet p] } })
  ∧ (∀ p s r, p.crcOk = true → collRoot s p.cid = some r →
      let mine := p.spann = 1 ∧ (p.spanlo ∈ r.removed ∨ p.spanlo ∈ r.left)
      let goes := fun (r' : Root) => ∃ t, exec (.collectivePacket p) s = .next t ∧ collRoot t p.cid = some r' ∧ t.fabric = s.fabric
      (p.frame = r.frame → r.closed = false → ¬mine → (∀ q ∈ r.parts, overlaps p q = false) → goes { r with parts := r.parts ++ [p] })
      ∧ (p.frame = r.frame + 1 → ¬mine → (∀ q ∈ r.early, overlaps p q = false) → goes { r with early := r.early ++ [p] })
      ∧ (frameBefore p.frame r.frame = true → p.spann = 1 → (∀ m ∈ s.coll.members, m.cid ≠ p.cid) → ∃ t, exec (.collectivePacket p) s = .next t
          ∧ t = { s with coll := { s.coll with lateDropped := s.coll.lateDropped + 1 },
                         fabric := { s.fabric with sent := s.fabric.sent ++ [.late p.cid p.spanlo p.frame] } }))
  ∧ (∀ p s x up sib, p.crcOk = true → collRoot s p.cid = none → pointOf s p.cid = some x → p.frame = x.frame → x.closed = false →
      frameBefore p.frame x.frame = false → parentOf 13 (0, x.n) (p.spanlo, p.spann) = some (up, sib) →
      let goes := fun (x' : Point) sent => ∃ t, exec (.collectivePacket p) s = .next t ∧ pointOf t p.cid = some x'
        ∧ t.fabric.sent = s.fabric.sent ++ sent
      (up ∉ x.owned → goes x [.packet p])
      ∧ (up ∈ x.owned → x.parts.find? (fun q => q.loc = p.loc && q.spanlo = sib.1 && q.spann = sib.2) = none →
          bufferUsed s + flitBytes p ≤ 0x2000000 → goes { x with parts := x.parts ++ [p] } [])
      ∧ ∀ q, up ∈ x.owned → x.parts.find? (fun q => q.loc = p.loc && q.spanlo = sib.1 && q.spann = sib.2) = some q →
          (∀ z, parentOf 13 (0, x.n) up = some z → z.1 ∉ x.owned) →
          let a := if p.spanlo < q.spanlo then p else q
          let b := if p.spanlo < q.spanlo then q else p
          goes { x with parts := x.parts.filter fun z => z ≠ q }
            [.packet (valPacket p x.op up.1 up.2 (combineNode x.op (packetVal x.op a) (packetVal x.op b)))])
  ∧ (∀ cid frame s, (collRoot s cid = none → exec (.closeFlit cid frame) s
        = .next { s with fabric := { s.fabric with sent := s.fabric.sent ++ [.closeFlit cid frame] } })
      ∧ ∀ r, collRoot s cid = some r → ∃ t, exec (.closeFlit cid frame) s = .next t
        ∧ collRoot t cid = some (if r.frame = frame then { r with closeFlits := r.closeFlits + 1 } else r))
  ∧ (∀ cid frame status s, collRoot s cid = none → ∃ t, exec (.frameComplete cid frame status) s = .next t ∧ t.home = s.home
      ∧ ∀ slot m, memberAt s slot = some m → ∃ m', memberAt t slot = some m'
        ∧ m'.done = if m.cid = cid then (m.done ++ [(frame, status.setWidth 64)]).drop (m.done.length - 1) else m.done)
  ∧ (∀ cid s r s1 vs s2 ps s3 s4, collRoot s cid = some r → frameReady s r = true → r.early = [] →
      (List.range (joinDesc r.desc).count).foldl (fun (x : State × List NodeVal) i => ((settleAt x.1 r i).1, x.2 ++ [(settleAt x.1 r i).2])) (s, []) = (s1, vs) →
      presentMap s1 r = (s2, ps) → putAll s2 r (frameWrites s2 r vs ps) = (s3, .ok ()) → signalFrame s3 r = (s4, .ok ()) →
      let open_ : Root := { r with frame := r.frame + 1, opened := s4.fabricTick, closed := false, closeFlits := 0, parts := [], lost := [] }
      ∃ t st, exec (.frameComplete cid r.frame 0) s = .next (pumpRecords t) ∧ t.home = s4.home ∧ collRoot t cid = some open_
        ∧ st = frameStatus (joinDesc r.desc) vs ps
        ∧ [.complete cid r.frame (st.setWidth 32), .openFlit cid open_.frame open_.close] <:+ t.fabric.sent)
  ∧ (∀ slot frame s m, memberAt s slot = some m → ∃ t, exec (.lateNotice slot frame) s = .next t
      ∧ memberAt t slot = some (if m.late.contains frame then m else { m with late := m.late ++ [frame] }))
  ∧ (∀ cid frame block data s, (∀ m ∈ s.coll.members, m.cid = cid → m.root = s.fabric.self) →
      exec (.settledBlockDown cid frame block data) s = .next (pumpRecords (serveHeld s)))
  ∧ (∀ cid frame block data s m l s1, s.coll.members = [m] → m.cid = cid → m.root ≠ s.fabric.self → s.launchOf m.launch = some l → m.status = .running →
      (let va := ((joinDesc m.desc).daddr + BitVec.ofNat 64 (4096 * block)).toNat
       (granules va data.length).foldl (fun (x : State × Eng Unit) (y : Nat × Nat) => match x.2 with
         | .ok _ => unitPut x.1 (unitCtx m.core l) (unitIssuer m.core l.id) (BitVec.ofNat 64 y.1) ((data.drop (y.1 - va)).take y.2)
         | _ => x) (s, .ok ()) = (s1, .ok ())) →
      exec (.settledBlockDown cid frame block data) s = .next (pumpRecords (serveHeld s1)))
  ∧ ∀ (n : Fin 2) s, ∃ t, exec (.verticalBlank n.val) s = .next t ∧ t = { s with mgmt := { s.mgmt with heads := t.mgmt.heads } }
      ∧ ∀ k : Fin 2, t.mgmt.heads[k] = if k = n then
          { s.mgmt.heads[n] with shown := s.mgmt.heads[n].ready.or s.mgmt.heads[n].shown, blanks := s.clock * s.mgmt.heads[n].hz / 400000000000 }
          else s.mgmt.heads[k]

/-! ## Events: the host, the mailbox, the boot, words that are no instruction -/

/-- R23, R157, R180, R183, R184, R191, R381 to R398, R432 to R440, R443: inbound requests, the mailbox's commands, relocation, core images, reset and
recovery, groups that are no instruction, fetches that fault. -/
def Obligations.DeviceEvents : Prop :=
  (∀ conn rkey va s pa key, Quiet s → s.home.locks = [] → s.waiting = [] → s.fabric.admitted = [] → s.mgmt.boot = .running → s.mgmt.material key = none →
      let admits := fun (r : Rdma) => admitRdma s conn (inboundOf s.fabric rkey) va r = .memory pa key
      let gives := fun (i : Instr) (mem : Memory) (a : Sent) => ∃ t, exec i s = .next (pumpRecords t) ∧ t.home.mem = mem
        ∧ t.fabric.sent = s.fabric.sent ++ [a] ∧ t.fabric.naks = s.fabric.naks
      (∀ n, admits (.read n) → gives (.rdmaRead conn rkey va n) s.home.mem (.data conn (s.home.mem.bytes pa n)))
      ∧ (∀ d, admits (.write d) → gives (.rdmaWrite conn rkey va d) (s.home.mem.put pa d) (.ack conn))
      ∧ (∀ x, admits (.add x) →
          gives (.rdmaFetchAdd conn rkey va x) (s.home.mem.put pa (leBytes 8 ((s.home.mem.nat pa 8 + x.toNat) % 2 ^ 64)))
            (.old conn (BitVec.ofNat 64 (s.home.mem.nat pa 8))))
      ∧ ∀ e n, admits (.cas e n) →
          gives (.rdmaCmpSwap conn rkey va e n) (if s.home.mem.nat pa 8 = e.toNat then s.home.mem.put pa (leBytes 8 n.toNat) else s.home.mem)
            (.old conn (BitVec.ofNat 64 (s.home.mem.nat pa 8))))
  ∧ (∀ conn rkey va s, s.waiting = [] → s.fabric.admitted = [] → s.mgmt.boot = .running → (∀ e ∈ s.fabric.inbound, e.rkey ≠ rkey.toNat ∨ e.ok = false) →
      let no : Host.Outcome State Fault Refusal := .next (pumpRecords { s with fabric := { s.fabric with
        naks := s.fabric.naks + 1, sent := s.fabric.sent ++ [.nakAccess conn] } })
      (∀ n, exec (.rdmaRead conn rkey va n) s = no) ∧ (∀ d, exec (.rdmaWrite conn rkey va d) s = no)
      ∧ (∀ x, exec (.rdmaFetchAdd conn rkey va x) s = no) ∧ ∀ e n, exec (.rdmaCmpSwap conn rkey va e n) s = no)
  ∧ (∀ conn rkey va s e (r : Rdma), s.fabric.inbound = [e] → e.ok = true → e.rkey = rkey.toNat → e.hva ≤ va.toNat →
      let w := e.w[0]
      let pa := e.base + (va.toNat - e.hva)
      admitRdma s conn (inboundOf s.fabric rkey) va r =
        if w.getLsbD r.bit = false ∨ (w.getLsbD 5 = false ∧ w.toNat / 2 ^ 16 % 4096 ≠ conn) ∨ e.hva + e.len * 4096 < va.toNat + r.len then .access
        else if w.getLsbD 4 = true then (if r.len = 8 ∧ pa % 8 = 0 ∧ inboundRegister pa = true then .register pa else .access)
        else if 0xF000000000000 < pa + r.len ∨ backed s.mgmt pa r.len = false ∨ (r.atomic = true ∧ pa % 8 ≠ 0) then .access
        else if w.toNat / 2 ^ 32 % 2048 ≠ 0 ∧ assoc (w.toNat / 2 ^ 32 % 2048) s.mgmt.keys = none then .oper else .memory pa (w.toNat / 2 ^ 32 % 2048))
  ∧ (∀ v s, s.mgmt.boot = .running →
      let takes := fun (i : Instr) => Host.Outcome.next (pumpRecords { s with mgmt := { s.mgmt with status := 1 }, inputs := s.inputs ++ [i] })
      let a := s.mgmt.arg
      exec (.registerWrite mailboxPage v) s =
        if s.mgmt.status = 1 then .next (pumpRecords s)
        else match v.toNat % 256 with
          | 1 => takes (.keyload a[0]) | 2 => takes (.keyunload a[0]) | 3 => takes (.patch a[0]) | 4 => takes .withdraw
          | 5 => takes (.attest a[0] a[1]) | 6 => takes (.scanout a[0] a[1]) | 7 => takes (.dumpwin a[0]) | 8 => takes (.stateread a[0] a[1] a[2])
          | _ => .next (pumpRecords { s with mgmt := { s.mgmt with status := 2, keybuf := 0 } }))
  ∧ (∀ id s, let ends := fun (m : Mgmt) status => Host.Outcome.next { s with mgmt := { m with status := status, keybuf := 0 } }
      exec (.keyload id) s = if 2048 ≤ id.toNat then ends s.mgmt 6
        else if id = 0 ∨ assoc id.toNat s.mgmt.keys ≠ none then ends s.mgmt 5
        else ends { s.mgmt with keys := assocSet id.toNat s.mgmt.keybuf s.mgmt.keys } 0)
  ∧ (∀ id s, ((id = 0 ∨ assoc id.toNat s.mgmt.keys = none) →
        exec (.keyunload id) s = .next (pumpRecords { s with mgmt := { s.mgmt with status := 5, keybuf := 0 } }))
      ∧ (id ≠ 0 → assoc id.toNat s.mgmt.keys ≠ none → Distinct s → (∀ h ∈ s.home.held, h.node ≠ none ∨ h.req.key ≠ id.toNat) →
          (∀ l ∈ s.launches, ∀ x ∈ l.pubLines, x.key ≠ id.toNat) → (∀ d ∈ s.geom.dies, ∀ x ∈ d.renderLines, x.2.1 ≠ id.toNat) →
          ∃ t, exec (.keyunload id) s = .next (pumpRecords t) ∧ assoc id.toNat t.mgmt.keys = none ∧ t.mgmt.status = 0 ∧ t.mgmt.keybuf = 0
            ∧ (∀ n ≠ id.toNat, assoc n t.mgmt.keys = assoc n s.mgmt.keys)
            ∧ ∀ k ∈ t.allCores, (∀ l ∈ k.l1, l.key ≠ id.toNat) ∧ (∀ x ∈ k.tlb, x.leaf.key ≠ id.toNat) ∧ ∀ st ∈ k.stash, ∀ l ∈ st.lines, l.key ≠ id.toNat))
  ∧ (∀ id s, id ≠ 0 → assoc id.toNat s.mgmt.keys ≠ none → (∃ h ∈ s.home.held, h.node = none ∧ h.req.key = id.toNat) →
      exec (.keyunload id) s = .next (pumpRecords { s with waiting := s.waiting ++ [.keyunload id] }))
  ∧ (∀ pa s, let ends := fun (m : Mgmt) status => exec (.patch pa) s = .next { s with mgmt := { m with status := status, keybuf := 0 } }
      ((pa.toNat ≥ 0xF000000000000 ∨ backed s.mgmt pa.toNat 5184 = false) → ends s.mgmt 6)
      ∧ (Quiet s → s.mgmt.material 0 = none → pa.toNat < 0xF000000000000 → backed s.mgmt pa.toNat 5184 = true →
          let b := s.home.mem.bytes pa.toNat 5184
          (Config.pssVerify (b.take 0x1240) (b.drop 0x1240) = false → ends s.mgmt 3)
          ∧ (∀ status, patchOf b s.mgmt.flash.patchFloor s.mgmt.lichen.version = .error status → ends s.mgmt status)
          ∧ ∀ p, patchOf b s.mgmt.flash.patchFloor s.mgmt.lichen.version = .ok p → ends { s.mgmt with staged := some p } 0))
  ∧ (∀ s, exec .withdraw s = .next { s with mgmt := { s.mgmt with staged := none, status := 0, keybuf := 0 } })
  ∧ (∀ s, exec .patchActivation s = .next (match s.mgmt.staged with
      | some p => if s.launches = [] then { s with mgmt := { s.mgmt with lichen := p, staged := none, gen := s.mgmt.gen + 1 } } else s
      | none => s))
  ∧ (∀ nonce buf s, Quiet s → s.home.locks = [] → s.mgmt.material 0 = none →
      let d := Config.attestReport (s.home.mem.bytes nonce.toNat 64) (measured s.mgmt)
      nonce.toNat < 0xF000000000000 → backed s.mgmt nonce.toNat 64 = true → buf.toNat < 0xF000000000000 → backed s.mgmt buf.toNat d.length = true →
      ∃ t, exec (.attest nonce buf) s = .next t ∧ t.home.mem = s.home.mem.put buf.toNat d ∧ t.mgmt.status = 0)
  ∧ (∀ (head : Fin 2) desc s, Quiet s → s.mgmt.material 0 = none → desc.toNat < 0xF000000000000 → backed s.mgmt desc.toNat 64 = true →
      let b := s.home.mem.bytes desc.toNat 64
      let x := leNat b
      headSound x = true → Config.headTrains b = true → x / 2 ^ 192 % 65536 ≠ 0 →
      ∃ t h, exec (.scanout (BitVec.ofNat 64 head.val) desc) s = .next t ∧ t.mgmt.status = 0 ∧ t.mgmt.heads = s.mgmt.heads.set head h
        ∧ h.configured = true ∧ (h.surf0.toNat, h.surf1.toNat, h.pitch) = (x % 2 ^ 52, x / 2 ^ 64 % 2 ^ 52, x / 2 ^ 128 % 2 ^ 32)
        ∧ (h.width, h.height, h.fmt, h.hz) = (x / 2 ^ 160 % 2 ^ 14 + 1, x / 2 ^ 174 % 2 ^ 14 + 1, x.testBit 188, x / 2 ^ 192 % 65536))
  ∧ (∀ idx s, exec (.dumpwin idx) s = .next { s with mgmt := { s.mgmt with
      dumpWin := if idx.toNat < 4096 then some idx.toNat else s.mgmt.dumpWin, status := if idx.toNat < 4096 then 0 else 6, keybuf := 0 } })
  ∧ (∀ q k buf s, Quiet s → s.home.locks = [] → s.mgmt.material 0 = none → q < 4096 → k < 8 → buf.toNat < 0xF000000000000 → backed s.mgmt buf.toNat 8 = true →
      ∃ t, exec (.stateread (BitVec.ofNat 64 (2 ^ 40 + q * 2 ^ 24 + 8 * k)) buf 8) s = .next t ∧ t.mgmt.status = 0
        ∧ t.home.mem = s.home.mem.put buf.toNat (leBytes 8 (descWord (s.queueOf q) k).toNat))
  ∧ (∀ launch block core s c b l, Distinct s → b ∈ (s.coreAt c).blocks → s.launchOf (BitVec.ofNat 32 launch) = some l →
      (∀ k ∈ s.allCores, ∀ y ∈ k.blocks, (y.launch = BitVec.ofNat 32 launch ∧ y.index.toNat = block) ↔ (k.id = c ∧ y = b)) →
      (∃ k ∈ s.allCores, k.id = c) → (∀ y ∈ (s.coreAt c).blocks, y.bslot = b.bslot → y = b) →
      ((mayRelocate s c b = false ∨ core = c) → exec (.relocation launch block core) s = .next s)
      ∧ (mayRelocate s c b = true → core ≠ c → s.mgmt.clusterUp (clusterOf core) = true → canHold s l core = true →
          (s.warpsOf core).length + (s.blockWarps c b.bslot).length ≤ 64 → (l.micro = 0 ∨ (s.coreAt core).microOwner = some l.id) →
          ∃ t b', exec (.relocation launch block core) s = .next t ∧ t.placeDue = true ∧ b ∉ (t.coreAt c).blocks ∧ b' ∈ (t.coreAt core).blocks
            ∧ b' = { b with bslot := b'.bslot, genLS := b.genLS + 1, resumable := true }
            ∧ (∀ w ∈ s.blockWarps c b.bslot, ∃ w' ∈ t.blockWarps core b'.bslot, w' = { w with
                slot := w'.slot, bslot := b'.bslot, away := true, genReg := w'.genReg, genAcc := w.genAcc + 1, readyAt := w'.readyAt }
                ∧ (tagsOut s core w'.slot = [] → w'.genReg = w.genReg + 1))))
  ∧ (∀ launch s, (∀ x, s.mgmt.fatal = some x → x.1.toNat ≠ launch) → exec (.coreDump launch) s = .next s)
  ∧ (∀ launch s x, s.mgmt.fatal = some x → x.1.toNat = launch →
      (s.launchOf x.1 = none ∨ s.mgmt.dbgctl.getLsbD 1 = false) → exec (.coreDump launch) s = .next { s with mgmt := { s.mgmt with fatal := none } })
  ∧ (∀ launch s x l q, Distinct s → s.mgmt.fatal = some x → x.1.toNat = launch → s.launchOf x.1 = some l → s.mgmt.dbgctl.getLsbD 1 = true →
      q ∈ s.queues → q.q ≠ l.q → q.enabled = true → q.word 2 = l.ptroot →
      ∃ t, exec (.coreDump launch) s = .next (pumpRecords t) ∧ t.mgmt.fatal = none
        ∧ (∀ y ∈ t.launches, y.ptroot = l.ptroot → y.killed = true ∧ (∀ k ∈ t.allCores, ∀ b ∈ k.blocks, b.launch ≠ y.id) ∧ (t.queueOf y.q).lasterr = 6)
        ∧ (s.mgmt.dumpWin = none → t.fabric.host = s.fabric.host)
        ∧ ∀ k e, s.mgmt.dumpWin = some k → windowOf s.fabric true k = some e →
            let at_ := hostAddr (e.toNat / 2 ^ 8 % 4096) (e.toNat / 2 ^ 64)
            if s.fabric.host.nat at_ 8 = 0 then ∃ image : List Byte, image.take 8 = [0x7F, 0x45, 0x4C, 0x46, 2, 1, 1, 0]
              ∧ t.fabric.host = (s.fabric.host.put (at_ + 8) image).put at_ (leBytes 8 image.length)
            else t.fabric.host = s.fabric.host ∧ t.mgmt.dumpsSkipped = s.mgmt.dumpsSkipped + 1)
  ∧ (∀ s, ∃ t, exec .reset s = .next t ∧ t.launches = [] ∧ t.queues = [] ∧ t.home = {} ∧ t.records = [] ∧ (∀ k ∈ t.allCores, k.blocks = [])
      ∧ t.cur.present = false ∧ t.mgmt.keys = [] ∧ t.mgmt.gen = 0 ∧ t.mgmt.lichen = {} ∧ t.mgmt.sysHandler = 0 ∧ t.mgmt.dbgctl = 0
      ∧ (let f := s.mgmt.flash
         let record := f.recordOk = true ∧ f.gddr = 1 ∧ f.reservedZero = true
         let image := f.firmware.sigOk = true ∧ f.fwFloor.toNat ≤ f.firmware.version
         (¬record → t.mgmt.boot = .halted ∧ t.mgmt.replace = true) ∧ (record → ¬image → t.mgmt.boot = .recovery 0)
         ∧ (record → image → t.mgmt.boot = .running)))
  ∧ (∀ s, exec .recoveryRetry s = .next (match s.mgmt.boot with
      | .recovery n => { s with mgmt := { s.mgmt with boot := .recovery (if n < 3 then n + 1 else 0) } }
      | _ => s))
  ∧ (∀ fw s n, s.mgmt.boot = .recovery n →
      ((fw.sigOk = true ∧ s.mgmt.flash.fwFloor.toNat ≤ fw.version) → ∃ t, exec (.recoveryReadComplete fw) s = .next t ∧ t.mgmt.boot = .running
        ∧ t.mgmt.flash.firmware = fw)
      ∧ (¬(fw.sigOk = true ∧ s.mgmt.flash.fwFloor.toNat ≤ fw.version) → exec (.recoveryReadComplete fw) s = exec .recoveryRetry s))
  ∧ (∀ e n s code sub, s.cur.present = true → s.cur.executing ≠ 0 →
      (e, code, sub) ∈ [(.unassigned, 0x01, 0x00), (.reservedField, 0x01, 0x01), (.lastUse, 0x01, 0x02), (.hintReserved, 0x01, 0x03),
        (.unclaimed, 0x01, 0x04), (.hintSwitch, 0x04, 0x00), (.fourthHint, 0x04, 0x01), (.hintNoInstr, 0x04, 0x02), (.hintRepeated, 0x04, 0x03),
        (.hintNotAccepted, 0x04, 0x04), (.missingSource, 0x04, 0x05), (DecErr.truncated, 0x04, 0x02)] →
      exec (.illegalInstruction e n) s = .next (pumpRecords (takeTrap s (trap code sub))))
  ∧ ∀ first t s, s.cur.present = true → s.cur.executing ≠ 0 → s.cur.micro = none →
      let t' := { t with lanes := s.cur.executing }
      exec (.instructionFetchFault first t) s = .next (pumpRecords (takeTrap { s with cur := { s.cur with base := none, grp := {} } }
        (if first = true then t' else { t' with code := 0x13, sub := t.code, usub := t.sub })))

/-! ## Taking a trap, fetching, a step -/

/-- R386, R387, R391, R392, R393: a handler trap runs the launch's handler, or the system handler when the launch names none; a system trap runs
the system handler; a service fault parks the warp on its record; a trap in a handler or while traps are masked, and one whose handler is
not set, kills the block with a KIND 1 record, which follows those of its end (R152). No Lichen slot matches, no trace is on, no microprogram runs. The
places that a parked group of the block had taken at homes are given up. -/
def Obligations.TakingATrap : Prop :=
  ∀ s l (t : Trap), s.launchOf s.cur.launch = some l → s.cur.micro = none → s.mgmt.trctl = 0 →
    winner s.mgmt.lichen true s.cur.supervisor false (faultKey t s.cur.base) = none →
    let handlerTrap := t.code ∈ handlerCodes
    let systemTrap := t.code ∈ systemCodes ∨ (t.code = 0x13 ∧ (t.sub = 0x40 ∨ t.sub = 0x41))
    let serviceFault := t.code ∈ serviceCodes ∨ (t.code = 0x13 ∧ t.sub ≠ 0x40 ∧ t.sub ≠ 0x41)
    let u := match s.cur.parked, s.curBlock with | some _, some b => dropBlockPlaces s s.core.id b | _, _ => s
    let enters := fun entry sys => ∃ x, takeTrap s t = { u with cur := x } ∧ HandlerAt s.cur s.cur.pc s.cur.executing t entry sys x
    let record := fun (kind : Nat) => ({ code := t.code, sub := t.sub, kind := kind, late := t.late, level := t.level.toNat, addr := t.addr
                                         launch := s.cur.launch, block := s.cur.block, warp := s.cur.idx, core := s.core.id, lanes := t.lanes
                                         pc := s.cur.pc, usub := t.usub, gen := l.gen } : Rec).bytes
    let dies := ∀ b, s.curBlock = some b → Distinct s →
      (∀ b' ∈ ((takeTrap s t).coreAt s.core.id).blocks, b'.bslot ≠ b.bslot)
      ∧ (b.launch = s.cur.launch → b.index = s.cur.block → ∃ more, (takeTrap s t).records = s.records ++ more ++ [{ trapq := l.trapq.toNat, bytes := record 1, core := s.core.id }])
    let unmasked := s.cur.inhdl = false ∧ s.cur.tmask = false ∧ ¬(t.code = 0x40 ∧ t.sub = 0)
    (unmasked → handlerTrap → l.pkt.handler ≠ 0 → enters l.pkt.handler false)
    ∧ (unmasked → handlerTrap → l.pkt.handler = 0 → s.mgmt.sysHandler ≠ 0 → enters s.mgmt.sysHandler true)
    ∧ (unmasked → systemTrap → s.mgmt.sysHandler ≠ 0 → enters s.mgmt.sysHandler true)
    ∧ (unmasked → (systemTrap ∨ (handlerTrap ∧ l.pkt.handler = 0)) → s.mgmt.sysHandler = 0 → dies)
    ∧ (¬unmasked → (handlerTrap ∨ systemTrap) → dies)
    ∧ (serviceFault → ∃ x, takeTrap s t = { u with cur := x, records := s.records ++ [{
            trapq := l.trapq.toNat, bytes := record 0, core := s.core.id, unit := some (.warp s.cur.slot) }] }
        ∧ x.wait = .trapQueue t ∧ x.held = s.cur.executing
        ∧ x = { s.cur with wait := x.wait, parked := x.parked, held := x.held, woken := x.woken, failed := x.failed, resume := x.resume })

/-- R180, R184: a step fetches the group at the program counter of the warp whose turn it is, word by word, and performs the instruction that its
words decode to; an input, an event that is due and a parked group are performed likewise; a word of memory that nothing holds is fetched as
its four bytes read, and stays in the warp's instruction buffer (R44, R107). -/
def Obligations.StepRunsTheDecodedInstruction : Prop :=
  (∀ s c slot ws i t, s.inputs = [] → retryDue s = false → nextEvent s = none → issuer s = some (c, slot) →
    let u := traceMask (s.focus c slot)
    u.cur.parked = none → u.cur.micro = none → Fetches u 0 ws t → decodeGroup ws = .ok (i, ws.length) → i.wellFormed = true →
    step s = finish (fun x => tick (some (c, slot)) (afterIssue c slot (countTurn s c slot x))) (exec i t))
  ∧ (∀ s c slot i, s.inputs = [] → retryDue s = false → nextEvent s = none → issuer s = some (c, slot) →
    let u := traceMask (s.focus c slot)
    u.cur.parked = some i → step s = finish (fun x => tick (some (c, slot)) (afterIssue c slot (countTurn s c slot x))) (exec i u))
  ∧ (∀ s i, s.inputs = [] → retryDue s = false → nextEvent s = some i → step s = finish (tick none) (exec i s))
  ∧ (∀ s i r, s.inputs = i :: r → step s = finish (tick none) (exec i { s with inputs := r }))
  ∧ (∀ s, s.inputs = [] → retryDue s = false → nextEvent s = none → issuer s = none → step s = .next (tick none s))
  ∧ (∀ s va pa a p, Quiet s → s.mgmt.material p.key = none → inAperture va = false → buffered s va = none →
    translate s (curCtx s) va 4 .fetch = (s, .ok a) → a.parts = [p] → p.place = .mem pa false → p.n = 4 → pa % 64 + 4 ≤ 64 →
    ∃ t, fetchWord s va = (t, .ok (BitVec.ofNat 32 (s.home.mem.nat pa 4)))
      ∧ t = { s with core := { s.core with l1 := t.core.l1 }, cur := { s.cur with ibuf := t.cur.ibuf } }
      ∧ (s.sched.walk = false → (va, BitVec.ofNat 32 (s.home.mem.nat pa 4)) ∈ t.cur.ibuf))
  ∧ (∀ s va w, inAperture va = false → buffered s va = some w → fetchWord s va = (s, .ok w))
  ∧ ∀ nbits w i, nbits ≠ 0 → nbits ≤ 128 → decodeTableWord nbits w = some i → ∃ n,
    decodeGroup ((List.range ((nbits + 31) / 32)).map fun k =>
      BitVec.ofNat 32 ((State.reset.withFetchWord nbits w).home.mem.nat (codeAt + 4 * k) 4)) = .ok (i, n)

/-- Every step answers a next state: no instruction and no event stops the machine. -/
def Obligations.EveryStepGoesOn : Prop :=
  (∀ i s, ∃ t, exec i s = .next t) ∧ ∀ s, ∃ t, step s = .next t

/-- R176 to R181, R194: a well-formed instruction decodes from its words, whatever words follow them. -/
def Obligations.EncodingRoundTrip : Prop :=
  ∀ (i : Instr) (rest : List Word), i.opcode ≠ none → i.wellFormed = true → decodeGroup (encode i ++ rest) = .ok (i, (encode i).length)

/-- R177 to R184: whatever words are given, what decodes is a well-formed instruction of the table, from at most four of the words, and only
its own words matter. -/
def Obligations.DecodedInstructionsAreWellFormed : Prop :=
  ∀ ws i n, decodeGroup ws = .ok (i, n) → i.opcode ≠ none ∧ i.wellFormed = true ∧ 1 ≤ n ∧ n ≤ 4 ∧ n ≤ ws.length
    ∧ ∀ rest, decodeGroup (ws.take n ++ rest) = .ok (i, n)

/-- The words that the spec prints decode to the instructions it prints beside them (R222, R235, R239, R275, R391, R401). -/
def Obligations.DecodedWords : Prop :=
  decodeGroup [0x3A040014] = .ok (.ldu {} 2 0 5 0 0, 1)
  ∧ decodeGroup [0x71000008, 0xBA060014] = .ok (.ldu { sw := true, mod := some ⟨0, false, 0, 8⟩ } 3 0 5 0 0, 2)
  ∧ decodeGroup [0x23060002] = .ok (.sget {} 3 2, 1)
  ∧ decodeGroup [0x0D881005] = .ok (.shli {} 4 2 0 5, 1)
  ∧ decodeGroup [0xB80A11A0] = .ok (.ld { sw := true } 5 2 13 0 0 0, 1)
  ∧ decodeGroup [0x210E2900] = .ok (.matchV {} 7 5 0 2, 1)
  ∧ decodeGroup [0x0AA251F9] = .ok (.icmp {} 2 1 10 0 63 0 1, 1)
  ∧ decodeGroup [0x70801400, 0x3C900120] = .ok (.atoml { src := some ⟨0, 0, 1, false, true⟩ } 8 0 9 0, 2)
  ∧ decodeGroup [0x70802400, 0x3C141970] = .ok (.redHome { src := some ⟨0, 0, 2, false, true⟩ } 10 3 11 0 0, 2)
  ∧ decodeGroup [0x71400000, 0x10021018] = .ok (.fadd { mod := some ⟨4, false, 0, 0⟩ } 1 2 0 3 0 0, 2)
  ∧ decodeGroup [0x70860000, 0x11880810] = .ok (.ffma { src := some ⟨3, 0, 0, false, false⟩ } 4 1 0 2 0 0, 2)
  ∧ decodeGroup [0x3D800002] = .ok (.fenceSc {}, 1)
  ∧ decodeGroup [0x4D805161] = .ok (.signal {} 10 11 1, 1)
  ∧ decodeGroup [0x35004243] = .ok (.mcall {} 0 4 9 3, 1)
  ∧ decodeGroup [0x33800000] = .ok (.exitL {}, 1)
  ∧ decodeGroup [0x4C000000] = .ok (.bar {}, 1)

/-- Every memory of the machine keeps its canonical form at every step. -/
def Obligations.MemoriesStayCanonical : Prop := ∀ s t, memoriesWf s → step s = .next t → memoriesWf t

/-- R138, R139, R174: at every step the numbers of cores stay distinct, and so do the slots of the warps of a core. -/
def Obligations.NumbersStayDistinct : Prop := ∀ s t, Distinct s → step s = .next t → Distinct t

/-- R154, R157, R372, R382, R392, R425, R438: what reset leaves. That reset is the end of a successful boot of an AQM-2106 is the model's
choice (assumption 2). -/
def Obligations.ResetState : Prop :=
  let s := State.reset
  s.launches = [] ∧ (∀ q, (s.queueOf q).enabled = false ∧ (s.queueOf q).qhead = 0 ∧ (s.queueOf q).qtail = 0 ∧ (s.queueOf q).lasterr = 0)
  ∧ s.cur.present = false ∧ (∀ k ∈ s.allCores, k.blocks = [] ∧ k.warps = []) ∧ s.mgmt.gen = 0 ∧ s.mgmt.staged = none
  ∧ (∀ x ∈ s.mgmt.lichen.slots.toList, (slotOf x).valid = false) ∧ s.mgmt.sysHandler = 0 ∧ s.mgmt.status = 0 ∧ s.mgmt.keybuf = 0
  ∧ (s.mgmt.dbgctl, s.mgmt.recq, s.mgmt.trbase, s.mgmt.trctl) = (0, 0, 0, 0)
  ∧ (∀ k : Fin 4, s.mgmt.wctl[k] = 0 ∧ s.mgmt.waddr[k] = 0 ∧ s.mgmt.bpaddr[k] = 0) ∧ s.fabric.inbound = [] ∧ s.fabric.naks = 0
  ∧ keyLoaded s.mgmt 0 = true ∧ (∀ n ≠ 0, keyLoaded s.mgmt n = false) ∧ (∀ a, s.home.mem.get a = 0)
  ∧ memoriesWf s ∧ Distinct s
end

