-- ==== Sys2Proof/Laws/State.lean ====
section
/-! SUPPORT. What each named update leaves alone: one lemma per field, so that no later proof unfolds a record update. -/

namespace Sys2Proof.Machine

/-! ### setVec -/

@[simp] theorem Warp.setVec_present (w : Warp) (n : Nat) (m : Mask) (x : LaneVec) : (w.setVec n m x).present = w.present := by
  unfold setVec; split <;> rfl
@[simp] theorem Warp.setVec_slot (w : Warp) (n : Nat) (m : Mask) (x : LaneVec) : (w.setVec n m x).slot = w.slot := by
  unfold setVec; split <;> rfl
@[simp] theorem Warp.setVec_bslot (w : Warp) (n : Nat) (m : Mask) (x : LaneVec) : (w.setVec n m x).bslot = w.bslot := by
  unfold setVec; split <;> rfl
@[simp] theorem Warp.setVec_launch (w : Warp) (n : Nat) (m : Mask) (x : LaneVec) : (w.setVec n m x).launch = w.launch := by
  unfold setVec; split <;> rfl
@[simp] theorem Warp.setVec_block (w : Warp) (n : Nat) (m : Mask) (x : LaneVec) : (w.setVec n m x).block = w.block := by
  unfold setVec; split <;> rfl
@[simp] theorem Warp.setVec_idx (w : Warp) (n : Nat) (m : Mask) (x : LaneVec) : (w.setVec n m x).idx = w.idx := by
  unfold setVec; split <;> rfl
@[simp] theorem Warp.setVec_wait (w : Warp) (n : Nat) (m : Mask) (x : LaneVec) : (w.setVec n m x).wait = w.wait := by
  unfold setVec; split <;> rfl
@[simp] theorem Warp.setVec_preempted (w : Warp) (n : Nat) (m : Mask) (x : LaneVec) : (w.setVec n m x).preempted = w.preempted := by
  unfold setVec; split <;> rfl
@[simp] theorem Warp.setVec_tmask (w : Warp) (n : Nat) (m : Mask) (x : LaneVec) : (w.setVec n m x).tmask = w.tmask := by
  unfold setVec; split <;> rfl
@[simp] theorem Warp.setVec_inhdl (w : Warp) (n : Nat) (m : Mask) (x : LaneVec) : (w.setVec n m x).inhdl = w.inhdl := by
  unfold setVec; split <;> rfl
@[simp] theorem Warp.setVec_sysHdl (w : Warp) (n : Nat) (m : Mask) (x : LaneVec) : (w.setVec n m x).sysHdl = w.sysHdl := by
  unfold setVec; split <;> rfl
@[simp] theorem Warp.setVec_partw (w : Warp) (n : Nat) (m : Mask) (x : LaneVec) : (w.setVec n m x).partw = w.partw := by
  unfold setVec; split <;> rfl
@[simp] theorem Warp.setVec_memrev (w : Warp) (n : Nat) (m : Mask) (x : LaneVec) : (w.setVec n m x).memrev = w.memrev := by
  unfold setVec; split <;> rfl
@[simp] theorem Warp.setVec_supv (w : Warp) (n : Nat) (m : Mask) (x : LaneVec) : (w.setVec n m x).supv = w.supv := by
  unfold setVec; split <;> rfl
@[simp] theorem Warp.setVec_genReg (w : Warp) (n : Nat) (m : Mask) (x : LaneVec) : (w.setVec n m x).genReg = w.genReg := by
  unfold setVec; split <;> rfl
@[simp] theorem Warp.setVec_genAcc (w : Warp) (n : Nat) (m : Mask) (x : LaneVec) : (w.setVec n m x).genAcc = w.genAcc := by
  unfold setVec; split <;> rfl
@[simp] theorem Warp.setVec_live (w : Warp) (n : Nat) (m : Mask) (x : LaneVec) : (w.setVec n m x).live = w.live := by
  unfold setVec; split <;> rfl
@[simp] theorem Warp.setVec_barpark (w : Warp) (n : Nat) (m : Mask) (x : LaneVec) : (w.setVec n m x).barpark = w.barpark := by
  unfold setVec; split <;> rfl
@[simp] theorem Warp.setVec_parkAt (w : Warp) (n : Nat) (m : Mask) (x : LaneVec) : (w.setVec n m x).parkAt = w.parkAt := by
  unfold setVec; split <;> rfl
@[simp] theorem Warp.setVec_vgran (w : Warp) (n : Nat) (m : Mask) (x : LaneVec) : (w.setVec n m x).vgran = w.vgran := by
  unfold setVec; split <;> rfl
@[simp] theorem Warp.setVec_nacc (w : Warp) (n : Nat) (m : Mask) (x : LaneVec) : (w.setVec n m x).nacc = w.nacc := by
  unfold setVec; split <;> rfl
@[simp] theorem Warp.setVec_lpc (w : Warp) (n : Nat) (m : Mask) (x : LaneVec) : (w.setVec n m x).lpc = w.lpc := by
  unfold setVec; split <;> rfl
@[simp] theorem Warp.setVec_slpc (w : Warp) (n : Nat) (m : Mask) (x : LaneVec) : (w.setVec n m x).slpc = w.slpc := by
  unfold setVec; split <;> rfl
@[simp] theorem Warp.setVec_p (w : Warp) (n : Nat) (m : Mask) (x : LaneVec) : (w.setVec n m x).p = w.p := by
  unfold setVec; split <;> rfl
@[simp] theorem Warp.setVec_s (w : Warp) (n : Nat) (m : Mask) (x : LaneVec) : (w.setVec n m x).s = w.s := by
  unfold setVec; split <;> rfl
@[simp] theorem Warp.setVec_t (w : Warp) (n : Nat) (m : Mask) (x : LaneVec) : (w.setVec n m x).t = w.t := by
  unfold setVec; split <;> rfl
@[simp] theorem Warp.setVec_acc (w : Warp) (n : Nat) (m : Mask) (x : LaneVec) : (w.setVec n m x).acc = w.acc := by
  unfold setVec; split <;> rfl
@[simp] theorem Warp.setVec_scratch (w : Warp) (n : Nat) (m : Mask) (x : LaneVec) : (w.setVec n m x).scratch = w.scratch := by
  unfold setVec; split <;> rfl
@[simp] theorem Warp.setVec_threads (w : Warp) (n : Nat) (m : Mask) (x : LaneVec) : (w.setVec n m x).threads = w.threads := by
  unfold setVec; split <;> rfl
@[simp] theorem Warp.setVec_ctxBase (w : Warp) (n : Nat) (m : Mask) (x : LaneVec) : (w.setVec n m x).ctxBase = w.ctxBase := by
  unfold setVec; split <;> rfl
@[simp] theorem Warp.setVec_resume (w : Warp) (n : Nat) (m : Mask) (x : LaneVec) : (w.setVec n m x).resume = w.resume := by
  unfold setVec; split <;> rfl
@[simp] theorem Warp.setVec_sresume (w : Warp) (n : Nat) (m : Mask) (x : LaneVec) : (w.setVec n m x).sresume = w.sresume := by
  unfold setVec; split <;> rfl
@[simp] theorem Warp.setVec_failed (w : Warp) (n : Nat) (m : Mask) (x : LaneVec) : (w.setVec n m x).failed = w.failed := by
  unfold setVec; split <;> rfl
@[simp] theorem Warp.setVec_base (w : Warp) (n : Nat) (m : Mask) (x : LaneVec) : (w.setVec n m x).base = w.base := by
  unfold setVec; split <;> rfl
@[simp] theorem Warp.setVec_grp (w : Warp) (n : Nat) (m : Mask) (x : LaneVec) : (w.setVec n m x).grp = w.grp := by
  unfold setVec; split <;> rfl
@[simp] theorem Warp.setVec_tcause (w : Warp) (n : Nat) (m : Mask) (x : LaneVec) : (w.setVec n m x).tcause = w.tcause := by
  unfold setVec; split <;> rfl
@[simp] theorem Warp.setVec_tpc (w : Warp) (n : Nat) (m : Mask) (x : LaneVec) : (w.setVec n m x).tpc = w.tpc := by
  unfold setVec; split <;> rfl
@[simp] theorem Warp.setVec_taddr (w : Warp) (n : Nat) (m : Mask) (x : LaneVec) : (w.setVec n m x).taddr = w.taddr := by
  unfold setVec; split <;> rfl
@[simp] theorem Warp.setVec_tlanes (w : Warp) (n : Nat) (m : Mask) (x : LaneVec) : (w.setVec n m x).tlanes = w.tlanes := by
  unfold setVec; split <;> rfl
@[simp] theorem Warp.setVec_parked (w : Warp) (n : Nat) (m : Mask) (x : LaneVec) : (w.setVec n m x).parked = w.parked := by
  unfold setVec; split <;> rfl
@[simp] theorem Warp.setVec_held (w : Warp) (n : Nat) (m : Mask) (x : LaneVec) : (w.setVec n m x).held = w.held := by
  unfold setVec; split <;> rfl
@[simp] theorem Warp.setVec_woken (w : Warp) (n : Nat) (m : Mask) (x : LaneVec) : (w.setVec n m x).woken = w.woken := by
  unfold setVec; split <;> rfl
@[simp] theorem Warp.setVec_leaves (w : Warp) (n : Nat) (m : Mask) (x : LaneVec) : (w.setVec n m x).leaves = w.leaves := by
  unfold setVec; split <;> rfl
@[simp] theorem Warp.setVec_away (w : Warp) (n : Nat) (m : Mask) (x : LaneVec) : (w.setVec n m x).away = w.away := by
  unfold setVec; split <;> rfl
@[simp] theorem Warp.setVec_skipWatch (w : Warp) (n : Nat) (m : Mask) (x : LaneVec) : (w.setVec n m x).skipWatch = w.skipWatch := by
  unfold setVec; split <;> rfl
@[simp] theorem Warp.setVec_micro (w : Warp) (n : Nat) (m : Mask) (x : LaneVec) : (w.setVec n m x).micro = w.micro := by
  unfold setVec; split <;> rfl
@[simp] theorem Warp.setVec_stalls (w : Warp) (n : Nat) (m : Mask) (x : LaneVec) : (w.setVec n m x).stalls = w.stalls := by
  unfold setVec; split <;> rfl
@[simp] theorem Warp.setVec_ibuf (w : Warp) (n : Nat) (m : Mask) (x : LaneVec) : (w.setVec n m x).ibuf = w.ibuf := by
  unfold setVec; split <;> rfl
@[simp] theorem Warp.setVec_lastExec (w : Warp) (n : Nat) (m : Mask) (x : LaneVec) : (w.setVec n m x).lastExec = w.lastExec := by
  unfold setVec; split <;> rfl
@[simp] theorem Warp.setVec_readyAt (w : Warp) (n : Nat) (m : Mask) (x : LaneVec) : (w.setVec n m x).readyAt = w.readyAt := by
  unfold setVec; split <;> rfl
@[simp] theorem Warp.setVec_starved (w : Warp) (n : Nat) (m : Mask) (x : LaneVec) : (w.setVec n m x).starved = w.starved := by
  unfold setVec; split <;> rfl
@[simp] theorem Warp.setVec_jobFails (w : Warp) (n : Nat) (m : Mask) (x : LaneVec) : (w.setVec n m x).jobFails = w.jobFails := by
  unfold setVec; split <;> rfl

/-! ### setV -/

@[simp] theorem Warp.setV_present (w : Warp) (n : Nat) (l : Fin 32) (x : Word) : (w.setV n l x).present = w.present := by
  unfold setV; split <;> rfl
@[simp] theorem Warp.setV_slot (w : Warp) (n : Nat) (l : Fin 32) (x : Word) : (w.setV n l x).slot = w.slot := by
  unfold setV; split <;> rfl
@[simp] theorem Warp.setV_bslot (w : Warp) (n : Nat) (l : Fin 32) (x : Word) : (w.setV n l x).bslot = w.bslot := by
  unfold setV; split <;> rfl
@[simp] theorem Warp.setV_launch (w : Warp) (n : Nat) (l : Fin 32) (x : Word) : (w.setV n l x).launch = w.launch := by
  unfold setV; split <;> rfl
@[simp] theorem Warp.setV_block (w : Warp) (n : Nat) (l : Fin 32) (x : Word) : (w.setV n l x).block = w.block := by
  unfold setV; split <;> rfl
@[simp] theorem Warp.setV_idx (w : Warp) (n : Nat) (l : Fin 32) (x : Word) : (w.setV n l x).idx = w.idx := by
  unfold setV; split <;> rfl
@[simp] theorem Warp.setV_wait (w : Warp) (n : Nat) (l : Fin 32) (x : Word) : (w.setV n l x).wait = w.wait := by
  unfold setV; split <;> rfl
@[simp] theorem Warp.setV_preempted (w : Warp) (n : Nat) (l : Fin 32) (x : Word) : (w.setV n l x).preempted = w.preempted := by
  unfold setV; split <;> rfl
@[simp] theorem Warp.setV_tmask (w : Warp) (n : Nat) (l : Fin 32) (x : Word) : (w.setV n l x).tmask = w.tmask := by
  unfold setV; split <;> rfl
@[simp] theorem Warp.setV_inhdl (w : Warp) (n : Nat) (l : Fin 32) (x : Word) : (w.setV n l x).inhdl = w.inhdl := by
  unfold setV; split <;> rfl
@[simp] theorem Warp.setV_sysHdl (w : Warp) (n : Nat) (l : Fin 32) (x : Word) : (w.setV n l x).sysHdl = w.sysHdl := by
  unfold setV; split <;> rfl
@[simp] theorem Warp.setV_partw (w : Warp) (n : Nat) (l : Fin 32) (x : Word) : (w.setV n l x).partw = w.partw := by
  unfold setV; split <;> rfl
@[simp] theorem Warp.setV_memrev (w : Warp) (n : Nat) (l : Fin 32) (x : Word) : (w.setV n l x).memrev = w.memrev := by
  unfold setV; split <;> rfl
@[simp] theorem Warp.setV_supv (w : Warp) (n : Nat) (l : Fin 32) (x : Word) : (w.setV n l x).supv = w.supv := by
  unfold setV; split <;> rfl
@[simp] theorem Warp.setV_genReg (w : Warp) (n : Nat) (l : Fin 32) (x : Word) : (w.setV n l x).genReg = w.genReg := by
  unfold setV; split <;> rfl
@[simp] theorem Warp.setV_genAcc (w : Warp) (n : Nat) (l : Fin 32) (x : Word) : (w.setV n l x).genAcc = w.genAcc := by
  unfold setV; split <;> rfl
@[simp] theorem Warp.setV_live (w : Warp) (n : Nat) (l : Fin 32) (x : Word) : (w.setV n l x).live = w.live := by
  unfold setV; split <;> rfl
@[simp] theorem Warp.setV_barpark (w : Warp) (n : Nat) (l : Fin 32) (x : Word) : (w.setV n l x).barpark = w.barpark := by
  unfold setV; split <;> rfl
@[simp] theorem Warp.setV_parkAt (w : Warp) (n : Nat) (l : Fin 32) (x : Word) : (w.setV n l x).parkAt = w.parkAt := by
  unfold setV; split <;> rfl
@[simp] theorem Warp.setV_vgran (w : Warp) (n : Nat) (l : Fin 32) (x : Word) : (w.setV n l x).vgran = w.vgran := by
  unfold setV; split <;> rfl
@[simp] theorem Warp.setV_nacc (w : Warp) (n : Nat) (l : Fin 32) (x : Word) : (w.setV n l x).nacc = w.nacc := by
  unfold setV; split <;> rfl
@[simp] theorem Warp.setV_lpc (w : Warp) (n : Nat) (l : Fin 32) (x : Word) : (w.setV n l x).lpc = w.lpc := by
  unfold setV; split <;> rfl
@[simp] theorem Warp.setV_slpc (w : Warp) (n : Nat) (l : Fin 32) (x : Word) : (w.setV n l x).slpc = w.slpc := by
  unfold setV; split <;> rfl
@[simp] theorem Warp.setV_p (w : Warp) (n : Nat) (l : Fin 32) (x : Word) : (w.setV n l x).p = w.p := by
  unfold setV; split <;> rfl
@[simp] theorem Warp.setV_s (w : Warp) (n : Nat) (l : Fin 32) (x : Word) : (w.setV n l x).s = w.s := by
  unfold setV; split <;> rfl
@[simp] theorem Warp.setV_t (w : Warp) (n : Nat) (l : Fin 32) (x : Word) : (w.setV n l x).t = w.t := by
  unfold setV; split <;> rfl
@[simp] theorem Warp.setV_acc (w : Warp) (n : Nat) (l : Fin 32) (x : Word) : (w.setV n l x).acc = w.acc := by
  unfold setV; split <;> rfl
@[simp] theorem Warp.setV_scratch (w : Warp) (n : Nat) (l : Fin 32) (x : Word) : (w.setV n l x).scratch = w.scratch := by
  unfold setV; split <;> rfl
@[simp] theorem Warp.setV_threads (w : Warp) (n : Nat) (l : Fin 32) (x : Word) : (w.setV n l x).threads = w.threads := by
  unfold setV; split <;> rfl
@[simp] theorem Warp.setV_ctxBase (w : Warp) (n : Nat) (l : Fin 32) (x : Word) : (w.setV n l x).ctxBase = w.ctxBase := by
  unfold setV; split <;> rfl
@[simp] theorem Warp.setV_resume (w : Warp) (n : Nat) (l : Fin 32) (x : Word) : (w.setV n l x).resume = w.resume := by
  unfold setV; split <;> rfl
@[simp] theorem Warp.setV_sresume (w : Warp) (n : Nat) (l : Fin 32) (x : Word) : (w.setV n l x).sresume = w.sresume := by
  unfold setV; split <;> rfl
@[simp] theorem Warp.setV_failed (w : Warp) (n : Nat) (l : Fin 32) (x : Word) : (w.setV n l x).failed = w.failed := by
  unfold setV; split <;> rfl
@[simp] theorem Warp.setV_base (w : Warp) (n : Nat) (l : Fin 32) (x : Word) : (w.setV n l x).base = w.base := by
  unfold setV; split <;> rfl
@[simp] theorem Warp.setV_grp (w : Warp) (n : Nat) (l : Fin 32) (x : Word) : (w.setV n l x).grp = w.grp := by
  unfold setV; split <;> rfl
@[simp] theorem Warp.setV_tcause (w : Warp) (n : Nat) (l : Fin 32) (x : Word) : (w.setV n l x).tcause = w.tcause := by
  unfold setV; split <;> rfl
@[simp] theorem Warp.setV_tpc (w : Warp) (n : Nat) (l : Fin 32) (x : Word) : (w.setV n l x).tpc = w.tpc := by
  unfold setV; split <;> rfl
@[simp] theorem Warp.setV_taddr (w : Warp) (n : Nat) (l : Fin 32) (x : Word) : (w.setV n l x).taddr = w.taddr := by
  unfold setV; split <;> rfl
@[simp] theorem Warp.setV_tlanes (w : Warp) (n : Nat) (l : Fin 32) (x : Word) : (w.setV n l x).tlanes = w.tlanes := by
  unfold setV; split <;> rfl
@[simp] theorem Warp.setV_parked (w : Warp) (n : Nat) (l : Fin 32) (x : Word) : (w.setV n l x).parked = w.parked := by
  unfold setV; split <;> rfl
@[simp] theorem Warp.setV_held (w : Warp) (n : Nat) (l : Fin 32) (x : Word) : (w.setV n l x).held = w.held := by
  unfold setV; split <;> rfl
@[simp] theorem Warp.setV_woken (w : Warp) (n : Nat) (l : Fin 32) (x : Word) : (w.setV n l x).woken = w.woken := by
  unfold setV; split <;> rfl
@[simp] theorem Warp.setV_leaves (w : Warp) (n : Nat) (l : Fin 32) (x : Word) : (w.setV n l x).leaves = w.leaves := by
  unfold setV; split <;> rfl
@[simp] theorem Warp.setV_away (w : Warp) (n : Nat) (l : Fin 32) (x : Word) : (w.setV n l x).away = w.away := by
  unfold setV; split <;> rfl
@[simp] theorem Warp.setV_skipWatch (w : Warp) (n : Nat) (l : Fin 32) (x : Word) : (w.setV n l x).skipWatch = w.skipWatch := by
  unfold setV; split <;> rfl
@[simp] theorem Warp.setV_micro (w : Warp) (n : Nat) (l : Fin 32) (x : Word) : (w.setV n l x).micro = w.micro := by
  unfold setV; split <;> rfl
@[simp] theorem Warp.setV_stalls (w : Warp) (n : Nat) (l : Fin 32) (x : Word) : (w.setV n l x).stalls = w.stalls := by
  unfold setV; split <;> rfl
@[simp] theorem Warp.setV_ibuf (w : Warp) (n : Nat) (l : Fin 32) (x : Word) : (w.setV n l x).ibuf = w.ibuf := by
  unfold setV; split <;> rfl
@[simp] theorem Warp.setV_lastExec (w : Warp) (n : Nat) (l : Fin 32) (x : Word) : (w.setV n l x).lastExec = w.lastExec := by
  unfold setV; split <;> rfl
@[simp] theorem Warp.setV_readyAt (w : Warp) (n : Nat) (l : Fin 32) (x : Word) : (w.setV n l x).readyAt = w.readyAt := by
  unfold setV; split <;> rfl
@[simp] theorem Warp.setV_starved (w : Warp) (n : Nat) (l : Fin 32) (x : Word) : (w.setV n l x).starved = w.starved := by
  unfold setV; split <;> rfl
@[simp] theorem Warp.setV_jobFails (w : Warp) (n : Nat) (l : Fin 32) (x : Word) : (w.setV n l x).jobFails = w.jobFails := by
  unfold setV; split <;> rfl

/-! ### setP -/

@[simp] theorem Warp.setP_present (w : Warp) (n : Nat) (m x : Mask) : (w.setP n m x).present = w.present := by
  unfold setP; split <;> rfl
@[simp] theorem Warp.setP_slot (w : Warp) (n : Nat) (m x : Mask) : (w.setP n m x).slot = w.slot := by
  unfold setP; split <;> rfl
@[simp] theorem Warp.setP_bslot (w : Warp) (n : Nat) (m x : Mask) : (w.setP n m x).bslot = w.bslot := by
  unfold setP; split <;> rfl
@[simp] theorem Warp.setP_launch (w : Warp) (n : Nat) (m x : Mask) : (w.setP n m x).launch = w.launch := by
  unfold setP; split <;> rfl
@[simp] theorem Warp.setP_block (w : Warp) (n : Nat) (m x : Mask) : (w.setP n m x).block = w.block := by
  unfold setP; split <;> rfl
@[simp] theorem Warp.setP_idx (w : Warp) (n : Nat) (m x : Mask) : (w.setP n m x).idx = w.idx := by
  unfold setP; split <;> rfl
@[simp] theorem Warp.setP_wait (w : Warp) (n : Nat) (m x : Mask) : (w.setP n m x).wait = w.wait := by
  unfold setP; split <;> rfl
@[simp] theorem Warp.setP_preempted (w : Warp) (n : Nat) (m x : Mask) : (w.setP n m x).preempted = w.preempted := by
  unfold setP; split <;> rfl
@[simp] theorem Warp.setP_tmask (w : Warp) (n : Nat) (m x : Mask) : (w.setP n m x).tmask = w.tmask := by
  unfold setP; split <;> rfl
@[simp] theorem Warp.setP_inhdl (w : Warp) (n : Nat) (m x : Mask) : (w.setP n m x).inhdl = w.inhdl := by
  unfold setP; split <;> rfl
@[simp] theorem Warp.setP_sysHdl (w : Warp) (n : Nat) (m x : Mask) : (w.setP n m x).sysHdl = w.sysHdl := by
  unfold setP; split <;> rfl
@[simp] theorem Warp.setP_partw (w : Warp) (n : Nat) (m x : Mask) : (w.setP n m x).partw = w.partw := by
  unfold setP; split <;> rfl
@[simp] theorem Warp.setP_memrev (w : Warp) (n : Nat) (m x : Mask) : (w.setP n m x).memrev = w.memrev := by
  unfold setP; split <;> rfl
@[simp] theorem Warp.setP_supv (w : Warp) (n : Nat) (m x : Mask) : (w.setP n m x).supv = w.supv := by
  unfold setP; split <;> rfl
@[simp] theorem Warp.setP_genReg (w : Warp) (n : Nat) (m x : Mask) : (w.setP n m x).genReg = w.genReg := by
  unfold setP; split <;> rfl
@[simp] theorem Warp.setP_genAcc (w : Warp) (n : Nat) (m x : Mask) : (w.setP n m x).genAcc = w.genAcc := by
  unfold setP; split <;> rfl
@[simp] theorem Warp.setP_live (w : Warp) (n : Nat) (m x : Mask) : (w.setP n m x).live = w.live := by
  unfold setP; split <;> rfl
@[simp] theorem Warp.setP_barpark (w : Warp) (n : Nat) (m x : Mask) : (w.setP n m x).barpark = w.barpark := by
  unfold setP; split <;> rfl
@[simp] theorem Warp.setP_parkAt (w : Warp) (n : Nat) (m x : Mask) : (w.setP n m x).parkAt = w.parkAt := by
  unfold setP; split <;> rfl
@[simp] theorem Warp.setP_vgran (w : Warp) (n : Nat) (m x : Mask) : (w.setP n m x).vgran = w.vgran := by
  unfold setP; split <;> rfl
@[simp] theorem Warp.setP_nacc (w : Warp) (n : Nat) (m x : Mask) : (w.setP n m x).nacc = w.nacc := by
  unfold setP; split <;> rfl
@[simp] theorem Warp.setP_lpc (w : Warp) (n : Nat) (m x : Mask) : (w.setP n m x).lpc = w.lpc := by
  unfold setP; split <;> rfl
@[simp] theorem Warp.setP_slpc (w : Warp) (n : Nat) (m x : Mask) : (w.setP n m x).slpc = w.slpc := by
  unfold setP; split <;> rfl
@[simp] theorem Warp.setP_v (w : Warp) (n : Nat) (m x : Mask) : (w.setP n m x).v = w.v := by
  unfold setP; split <;> rfl
@[simp] theorem Warp.setP_s (w : Warp) (n : Nat) (m x : Mask) : (w.setP n m x).s = w.s := by
  unfold setP; split <;> rfl
@[simp] theorem Warp.setP_t (w : Warp) (n : Nat) (m x : Mask) : (w.setP n m x).t = w.t := by
  unfold setP; split <;> rfl
@[simp] theorem Warp.setP_acc (w : Warp) (n : Nat) (m x : Mask) : (w.setP n m x).acc = w.acc := by
  unfold setP; split <;> rfl
@[simp] theorem Warp.setP_scratch (w : Warp) (n : Nat) (m x : Mask) : (w.setP n m x).scratch = w.scratch := by
  unfold setP; split <;> rfl
@[simp] theorem Warp.setP_threads (w : Warp) (n : Nat) (m x : Mask) : (w.setP n m x).threads = w.threads := by
  unfold setP; split <;> rfl
@[simp] theorem Warp.setP_ctxBase (w : Warp) (n : Nat) (m x : Mask) : (w.setP n m x).ctxBase = w.ctxBase := by
  unfold setP; split <;> rfl
@[simp] theorem Warp.setP_resume (w : Warp) (n : Nat) (m x : Mask) : (w.setP n m x).resume = w.resume := by
  unfold setP; split <;> rfl
@[simp] theorem Warp.setP_sresume (w : Warp) (n : Nat) (m x : Mask) : (w.setP n m x).sresume = w.sresume := by
  unfold setP; split <;> rfl
@[simp] theorem Warp.setP_failed (w : Warp) (n : Nat) (m x : Mask) : (w.setP n m x).failed = w.failed := by
  unfold setP; split <;> rfl
@[simp] theorem Warp.setP_base (w : Warp) (n : Nat) (m x : Mask) : (w.setP n m x).base = w.base := by
  unfold setP; split <;> rfl
@[simp] theorem Warp.setP_grp (w : Warp) (n : Nat) (m x : Mask) : (w.setP n m x).grp = w.grp := by
  unfold setP; split <;> rfl
@[simp] theorem Warp.setP_tcause (w : Warp) (n : Nat) (m x : Mask) : (w.setP n m x).tcause = w.tcause := by
  unfold setP; split <;> rfl
@[simp] theorem Warp.setP_tpc (w : Warp) (n : Nat) (m x : Mask) : (w.setP n m x).tpc = w.tpc := by
  unfold setP; split <;> rfl
@[simp] theorem Warp.setP_taddr (w : Warp) (n : Nat) (m x : Mask) : (w.setP n m x).taddr = w.taddr := by
  unfold setP; split <;> rfl
@[simp] theorem Warp.setP_tlanes (w : Warp) (n : Nat) (m x : Mask) : (w.setP n m x).tlanes = w.tlanes := by
  unfold setP; split <;> rfl
@[simp] theorem Warp.setP_parked (w : Warp) (n : Nat) (m x : Mask) : (w.setP n m x).parked = w.parked := by
  unfold setP; split <;> rfl
@[simp] theorem Warp.setP_held (w : Warp) (n : Nat) (m x : Mask) : (w.setP n m x).held = w.held := by
  unfold setP; split <;> rfl
@[simp] theorem Warp.setP_woken (w : Warp) (n : Nat) (m x : Mask) : (w.setP n m x).woken = w.woken := by
  unfold setP; split <;> rfl
@[simp] theorem Warp.setP_leaves (w : Warp) (n : Nat) (m x : Mask) : (w.setP n m x).leaves = w.leaves := by
  unfold setP; split <;> rfl
@[simp] theorem Warp.setP_away (w : Warp) (n : Nat) (m x : Mask) : (w.setP n m x).away = w.away := by
  unfold setP; split <;> rfl
@[simp] theorem Warp.setP_skipWatch (w : Warp) (n : Nat) (m x : Mask) : (w.setP n m x).skipWatch = w.skipWatch := by
  unfold setP; split <;> rfl
@[simp] theorem Warp.setP_micro (w : Warp) (n : Nat) (m x : Mask) : (w.setP n m x).micro = w.micro := by
  unfold setP; split <;> rfl
@[simp] theorem Warp.setP_stalls (w : Warp) (n : Nat) (m x : Mask) : (w.setP n m x).stalls = w.stalls := by
  unfold setP; split <;> rfl
@[simp] theorem Warp.setP_ibuf (w : Warp) (n : Nat) (m x : Mask) : (w.setP n m x).ibuf = w.ibuf := by
  unfold setP; split <;> rfl
@[simp] theorem Warp.setP_lastExec (w : Warp) (n : Nat) (m x : Mask) : (w.setP n m x).lastExec = w.lastExec := by
  unfold setP; split <;> rfl
@[simp] theorem Warp.setP_readyAt (w : Warp) (n : Nat) (m x : Mask) : (w.setP n m x).readyAt = w.readyAt := by
  unfold setP; split <;> rfl
@[simp] theorem Warp.setP_starved (w : Warp) (n : Nat) (m x : Mask) : (w.setP n m x).starved = w.starved := by
  unfold setP; split <;> rfl
@[simp] theorem Warp.setP_jobFails (w : Warp) (n : Nat) (m x : Mask) : (w.setP n m x).jobFails = w.jobFails := by
  unfold setP; split <;> rfl

/-! ### setS -/

@[simp] theorem Warp.setS_present (w : Warp) (n : Nat) (x : Dword) : (w.setS n x).present = w.present := by
  unfold setS; split <;> rfl
@[simp] theorem Warp.setS_slot (w : Warp) (n : Nat) (x : Dword) : (w.setS n x).slot = w.slot := by
  unfold setS; split <;> rfl
@[simp] theorem Warp.setS_bslot (w : Warp) (n : Nat) (x : Dword) : (w.setS n x).bslot = w.bslot := by
  unfold setS; split <;> rfl
@[simp] theorem Warp.setS_launch (w : Warp) (n : Nat) (x : Dword) : (w.setS n x).launch = w.launch := by
  unfold setS; split <;> rfl
@[simp] theorem Warp.setS_block (w : Warp) (n : Nat) (x : Dword) : (w.setS n x).block = w.block := by
  unfold setS; split <;> rfl
@[simp] theorem Warp.setS_idx (w : Warp) (n : Nat) (x : Dword) : (w.setS n x).idx = w.idx := by
  unfold setS; split <;> rfl
@[simp] theorem Warp.setS_wait (w : Warp) (n : Nat) (x : Dword) : (w.setS n x).wait = w.wait := by
  unfold setS; split <;> rfl
@[simp] theorem Warp.setS_preempted (w : Warp) (n : Nat) (x : Dword) : (w.setS n x).preempted = w.preempted := by
  unfold setS; split <;> rfl
@[simp] theorem Warp.setS_tmask (w : Warp) (n : Nat) (x : Dword) : (w.setS n x).tmask = w.tmask := by
  unfold setS; split <;> rfl
@[simp] theorem Warp.setS_inhdl (w : Warp) (n : Nat) (x : Dword) : (w.setS n x).inhdl = w.inhdl := by
  unfold setS; split <;> rfl
@[simp] theorem Warp.setS_sysHdl (w : Warp) (n : Nat) (x : Dword) : (w.setS n x).sysHdl = w.sysHdl := by
  unfold setS; split <;> rfl
@[simp] theorem Warp.setS_partw (w : Warp) (n : Nat) (x : Dword) : (w.setS n x).partw = w.partw := by
  unfold setS; split <;> rfl
@[simp] theorem Warp.setS_memrev (w : Warp) (n : Nat) (x : Dword) : (w.setS n x).memrev = w.memrev := by
  unfold setS; split <;> rfl
@[simp] theorem Warp.setS_supv (w : Warp) (n : Nat) (x : Dword) : (w.setS n x).supv = w.supv := by
  unfold setS; split <;> rfl
@[simp] theorem Warp.setS_genReg (w : Warp) (n : Nat) (x : Dword) : (w.setS n x).genReg = w.genReg := by
  unfold setS; split <;> rfl
@[simp] theorem Warp.setS_genAcc (w : Warp) (n : Nat) (x : Dword) : (w.setS n x).genAcc = w.genAcc := by
  unfold setS; split <;> rfl
@[simp] theorem Warp.setS_live (w : Warp) (n : Nat) (x : Dword) : (w.setS n x).live = w.live := by
  unfold setS; split <;> rfl
@[simp] theorem Warp.setS_barpark (w : Warp) (n : Nat) (x : Dword) : (w.setS n x).barpark = w.barpark := by
  unfold setS; split <;> rfl
@[simp] theorem Warp.setS_parkAt (w : Warp) (n : Nat) (x : Dword) : (w.setS n x).parkAt = w.parkAt := by
  unfold setS; split <;> rfl
@[simp] theorem Warp.setS_vgran (w : Warp) (n : Nat) (x : Dword) : (w.setS n x).vgran = w.vgran := by
  unfold setS; split <;> rfl
@[simp] theorem Warp.setS_nacc (w : Warp) (n : Nat) (x : Dword) : (w.setS n x).nacc = w.nacc := by
  unfold setS; split <;> rfl
@[simp] theorem Warp.setS_lpc (w : Warp) (n : Nat) (x : Dword) : (w.setS n x).lpc = w.lpc := by
  unfold setS; split <;> rfl
@[simp] theorem Warp.setS_slpc (w : Warp) (n : Nat) (x : Dword) : (w.setS n x).slpc = w.slpc := by
  unfold setS; split <;> rfl
@[simp] theorem Warp.setS_v (w : Warp) (n : Nat) (x : Dword) : (w.setS n x).v = w.v := by
  unfold setS; split <;> rfl
@[simp] theorem Warp.setS_p (w : Warp) (n : Nat) (x : Dword) : (w.setS n x).p = w.p := by
  unfold setS; split <;> rfl
@[simp] theorem Warp.setS_t (w : Warp) (n : Nat) (x : Dword) : (w.setS n x).t = w.t := by
  unfold setS; split <;> rfl
@[simp] theorem Warp.setS_acc (w : Warp) (n : Nat) (x : Dword) : (w.setS n x).acc = w.acc := by
  unfold setS; split <;> rfl
@[simp] theorem Warp.setS_scratch (w : Warp) (n : Nat) (x : Dword) : (w.setS n x).scratch = w.scratch := by
  unfold setS; split <;> rfl
@[simp] theorem Warp.setS_threads (w : Warp) (n : Nat) (x : Dword) : (w.setS n x).threads = w.threads := by
  unfold setS; split <;> rfl
@[simp] theorem Warp.setS_ctxBase (w : Warp) (n : Nat) (x : Dword) : (w.setS n x).ctxBase = w.ctxBase := by
  unfold setS; split <;> rfl
@[simp] theorem Warp.setS_resume (w : Warp) (n : Nat) (x : Dword) : (w.setS n x).resume = w.resume := by
  unfold setS; split <;> rfl
@[simp] theorem Warp.setS_sresume (w : Warp) (n : Nat) (x : Dword) : (w.setS n x).sresume = w.sresume := by
  unfold setS; split <;> rfl
@[simp] theorem Warp.setS_failed (w : Warp) (n : Nat) (x : Dword) : (w.setS n x).failed = w.failed := by
  unfold setS; split <;> rfl
@[simp] theorem Warp.setS_base (w : Warp) (n : Nat) (x : Dword) : (w.setS n x).base = w.base := by
  unfold setS; split <;> rfl
@[simp] theorem Warp.setS_grp (w : Warp) (n : Nat) (x : Dword) : (w.setS n x).grp = w.grp := by
  unfold setS; split <;> rfl
@[simp] theorem Warp.setS_tcause (w : Warp) (n : Nat) (x : Dword) : (w.setS n x).tcause = w.tcause := by
  unfold setS; split <;> rfl
@[simp] theorem Warp.setS_tpc (w : Warp) (n : Nat) (x : Dword) : (w.setS n x).tpc = w.tpc := by
  unfold setS; split <;> rfl
@[simp] theorem Warp.setS_taddr (w : Warp) (n : Nat) (x : Dword) : (w.setS n x).taddr = w.taddr := by
  unfold setS; split <;> rfl
@[simp] theorem Warp.setS_tlanes (w : Warp) (n : Nat) (x : Dword) : (w.setS n x).tlanes = w.tlanes := by
  unfold setS; split <;> rfl
@[simp] theorem Warp.setS_parked (w : Warp) (n : Nat) (x : Dword) : (w.setS n x).parked = w.parked := by
  unfold setS; split <;> rfl
@[simp] theorem Warp.setS_held (w : Warp) (n : Nat) (x : Dword) : (w.setS n x).held = w.held := by
  unfold setS; split <;> rfl
@[simp] theorem Warp.setS_woken (w : Warp) (n : Nat) (x : Dword) : (w.setS n x).woken = w.woken := by
  unfold setS; split <;> rfl
@[simp] theorem Warp.setS_leaves (w : Warp) (n : Nat) (x : Dword) : (w.setS n x).leaves = w.leaves := by
  unfold setS; split <;> rfl
@[simp] theorem Warp.setS_away (w : Warp) (n : Nat) (x : Dword) : (w.setS n x).away = w.away := by
  unfold setS; split <;> rfl
@[simp] theorem Warp.setS_skipWatch (w : Warp) (n : Nat) (x : Dword) : (w.setS n x).skipWatch = w.skipWatch := by
  unfold setS; split <;> rfl
@[simp] theorem Warp.setS_micro (w : Warp) (n : Nat) (x : Dword) : (w.setS n x).micro = w.micro := by
  unfold setS; split <;> rfl
@[simp] theorem Warp.setS_stalls (w : Warp) (n : Nat) (x : Dword) : (w.setS n x).stalls = w.stalls := by
  unfold setS; split <;> rfl
@[simp] theorem Warp.setS_ibuf (w : Warp) (n : Nat) (x : Dword) : (w.setS n x).ibuf = w.ibuf := by
  unfold setS; split <;> rfl
@[simp] theorem Warp.setS_lastExec (w : Warp) (n : Nat) (x : Dword) : (w.setS n x).lastExec = w.lastExec := by
  unfold setS; split <;> rfl
@[simp] theorem Warp.setS_readyAt (w : Warp) (n : Nat) (x : Dword) : (w.setS n x).readyAt = w.readyAt := by
  unfold setS; split <;> rfl
@[simp] theorem Warp.setS_starved (w : Warp) (n : Nat) (x : Dword) : (w.setS n x).starved = w.starved := by
  unfold setS; split <;> rfl
@[simp] theorem Warp.setS_jobFails (w : Warp) (n : Nat) (x : Dword) : (w.setS n x).jobFails = w.jobFails := by
  unfold setS; split <;> rfl

/-! ### setT -/

@[simp] theorem Warp.setT_present (w : Warp) (n : Nat) (x : BitVec 128) : (w.setT n x).present = w.present := by
  unfold setT; split <;> rfl
@[simp] theorem Warp.setT_slot (w : Warp) (n : Nat) (x : BitVec 128) : (w.setT n x).slot = w.slot := by
  unfold setT; split <;> rfl
@[simp] theorem Warp.setT_bslot (w : Warp) (n : Nat) (x : BitVec 128) : (w.setT n x).bslot = w.bslot := by
  unfold setT; split <;> rfl
@[simp] theorem Warp.setT_launch (w : Warp) (n : Nat) (x : BitVec 128) : (w.setT n x).launch = w.launch := by
  unfold setT; split <;> rfl
@[simp] theorem Warp.setT_block (w : Warp) (n : Nat) (x : BitVec 128) : (w.setT n x).block = w.block := by
  unfold setT; split <;> rfl
@[simp] theorem Warp.setT_idx (w : Warp) (n : Nat) (x : BitVec 128) : (w.setT n x).idx = w.idx := by
  unfold setT; split <;> rfl
@[simp] theorem Warp.setT_wait (w : Warp) (n : Nat) (x : BitVec 128) : (w.setT n x).wait = w.wait := by
  unfold setT; split <;> rfl
@[simp] theorem Warp.setT_preempted (w : Warp) (n : Nat) (x : BitVec 128) : (w.setT n x).preempted = w.preempted := by
  unfold setT; split <;> rfl
@[simp] theorem Warp.setT_tmask (w : Warp) (n : Nat) (x : BitVec 128) : (w.setT n x).tmask = w.tmask := by
  unfold setT; split <;> rfl
@[simp] theorem Warp.setT_inhdl (w : Warp) (n : Nat) (x : BitVec 128) : (w.setT n x).inhdl = w.inhdl := by
  unfold setT; split <;> rfl
@[simp] theorem Warp.setT_sysHdl (w : Warp) (n : Nat) (x : BitVec 128) : (w.setT n x).sysHdl = w.sysHdl := by
  unfold setT; split <;> rfl
@[simp] theorem Warp.setT_partw (w : Warp) (n : Nat) (x : BitVec 128) : (w.setT n x).partw = w.partw := by
  unfold setT; split <;> rfl
@[simp] theorem Warp.setT_memrev (w : Warp) (n : Nat) (x : BitVec 128) : (w.setT n x).memrev = w.memrev := by
  unfold setT; split <;> rfl
@[simp] theorem Warp.setT_supv (w : Warp) (n : Nat) (x : BitVec 128) : (w.setT n x).supv = w.supv := by
  unfold setT; split <;> rfl
@[simp] theorem Warp.setT_genReg (w : Warp) (n : Nat) (x : BitVec 128) : (w.setT n x).genReg = w.genReg := by
  unfold setT; split <;> rfl
@[simp] theorem Warp.setT_genAcc (w : Warp) (n : Nat) (x : BitVec 128) : (w.setT n x).genAcc = w.genAcc := by
  unfold setT; split <;> rfl
@[simp] theorem Warp.setT_live (w : Warp) (n : Nat) (x : BitVec 128) : (w.setT n x).live = w.live := by
  unfold setT; split <;> rfl
@[simp] theorem Warp.setT_barpark (w : Warp) (n : Nat) (x : BitVec 128) : (w.setT n x).barpark = w.barpark := by
  unfold setT; split <;> rfl
@[simp] theorem Warp.setT_parkAt (w : Warp) (n : Nat) (x : BitVec 128) : (w.setT n x).parkAt = w.parkAt := by
  unfold setT; split <;> rfl
@[simp] theorem Warp.setT_vgran (w : Warp) (n : Nat) (x : BitVec 128) : (w.setT n x).vgran = w.vgran := by
  unfold setT; split <;> rfl
@[simp] theorem Warp.setT_nacc (w : Warp) (n : Nat) (x : BitVec 128) : (w.setT n x).nacc = w.nacc := by
  unfold setT; split <;> rfl
@[simp] theorem Warp.setT_lpc (w : Warp) (n : Nat) (x : BitVec 128) : (w.setT n x).lpc = w.lpc := by
  unfold setT; split <;> rfl
@[simp] theorem Warp.setT_slpc (w : Warp) (n : Nat) (x : BitVec 128) : (w.setT n x).slpc = w.slpc := by
  unfold setT; split <;> rfl
@[simp] theorem Warp.setT_v (w : Warp) (n : Nat) (x : BitVec 128) : (w.setT n x).v = w.v := by
  unfold setT; split <;> rfl
@[simp] theorem Warp.setT_p (w : Warp) (n : Nat) (x : BitVec 128) : (w.setT n x).p = w.p := by
  unfold setT; split <;> rfl
@[simp] theorem Warp.setT_s (w : Warp) (n : Nat) (x : BitVec 128) : (w.setT n x).s = w.s := by
  unfold setT; split <;> rfl
@[simp] theorem Warp.setT_acc (w : Warp) (n : Nat) (x : BitVec 128) : (w.setT n x).acc = w.acc := by
  unfold setT; split <;> rfl
@[simp] theorem Warp.setT_scratch (w : Warp) (n : Nat) (x : BitVec 128) : (w.setT n x).scratch = w.scratch := by
  unfold setT; split <;> rfl
@[simp] theorem Warp.setT_threads (w : Warp) (n : Nat) (x : BitVec 128) : (w.setT n x).threads = w.threads := by
  unfold setT; split <;> rfl
@[simp] theorem Warp.setT_ctxBase (w : Warp) (n : Nat) (x : BitVec 128) : (w.setT n x).ctxBase = w.ctxBase := by
  unfold setT; split <;> rfl
@[simp] theorem Warp.setT_resume (w : Warp) (n : Nat) (x : BitVec 128) : (w.setT n x).resume = w.resume := by
  unfold setT; split <;> rfl
@[simp] theorem Warp.setT_sresume (w : Warp) (n : Nat) (x : BitVec 128) : (w.setT n x).sresume = w.sresume := by
  unfold setT; split <;> rfl
@[simp] theorem Warp.setT_failed (w : Warp) (n : Nat) (x : BitVec 128) : (w.setT n x).failed = w.failed := by
  unfold setT; split <;> rfl
@[simp] theorem Warp.setT_base (w : Warp) (n : Nat) (x : BitVec 128) : (w.setT n x).base = w.base := by
  unfold setT; split <;> rfl
@[simp] theorem Warp.setT_grp (w : Warp) (n : Nat) (x : BitVec 128) : (w.setT n x).grp = w.grp := by
  unfold setT; split <;> rfl
@[simp] theorem Warp.setT_tcause (w : Warp) (n : Nat) (x : BitVec 128) : (w.setT n x).tcause = w.tcause := by
  unfold setT; split <;> rfl
@[simp] theorem Warp.setT_tpc (w : Warp) (n : Nat) (x : BitVec 128) : (w.setT n x).tpc = w.tpc := by
  unfold setT; split <;> rfl
@[simp] theorem Warp.setT_taddr (w : Warp) (n : Nat) (x : BitVec 128) : (w.setT n x).taddr = w.taddr := by
  unfold setT; split <;> rfl
@[simp] theorem Warp.setT_tlanes (w : Warp) (n : Nat) (x : BitVec 128) : (w.setT n x).tlanes = w.tlanes := by
  unfold setT; split <;> rfl
@[simp] theorem Warp.setT_parked (w : Warp) (n : Nat) (x : BitVec 128) : (w.setT n x).parked = w.parked := by
  unfold setT; split <;> rfl
@[simp] theorem Warp.setT_held (w : Warp) (n : Nat) (x : BitVec 128) : (w.setT n x).held = w.held := by
  unfold setT; split <;> rfl
@[simp] theorem Warp.setT_woken (w : Warp) (n : Nat) (x : BitVec 128) : (w.setT n x).woken = w.woken := by
  unfold setT; split <;> rfl
@[simp] theorem Warp.setT_leaves (w : Warp) (n : Nat) (x : BitVec 128) : (w.setT n x).leaves = w.leaves := by
  unfold setT; split <;> rfl
@[simp] theorem Warp.setT_away (w : Warp) (n : Nat) (x : BitVec 128) : (w.setT n x).away = w.away := by
  unfold setT; split <;> rfl
@[simp] theorem Warp.setT_skipWatch (w : Warp) (n : Nat) (x : BitVec 128) : (w.setT n x).skipWatch = w.skipWatch := by
  unfold setT; split <;> rfl
@[simp] theorem Warp.setT_micro (w : Warp) (n : Nat) (x : BitVec 128) : (w.setT n x).micro = w.micro := by
  unfold setT; split <;> rfl
@[simp] theorem Warp.setT_stalls (w : Warp) (n : Nat) (x : BitVec 128) : (w.setT n x).stalls = w.stalls := by
  unfold setT; split <;> rfl
@[simp] theorem Warp.setT_ibuf (w : Warp) (n : Nat) (x : BitVec 128) : (w.setT n x).ibuf = w.ibuf := by
  unfold setT; split <;> rfl
@[simp] theorem Warp.setT_lastExec (w : Warp) (n : Nat) (x : BitVec 128) : (w.setT n x).lastExec = w.lastExec := by
  unfold setT; split <;> rfl
@[simp] theorem Warp.setT_readyAt (w : Warp) (n : Nat) (x : BitVec 128) : (w.setT n x).readyAt = w.readyAt := by
  unfold setT; split <;> rfl
@[simp] theorem Warp.setT_starved (w : Warp) (n : Nat) (x : BitVec 128) : (w.setT n x).starved = w.starved := by
  unfold setT; split <;> rfl
@[simp] theorem Warp.setT_jobFails (w : Warp) (n : Nat) (x : BitVec 128) : (w.setT n x).jobFails = w.jobFails := by
  unfold setT; split <;> rfl

/-! ### goto -/

@[simp] theorem Warp.goto_present (w : Warp) (m : Mask) (pc : Dword) : (w.goto m pc).present = w.present := by
  unfold goto; split <;> rfl
@[simp] theorem Warp.goto_slot (w : Warp) (m : Mask) (pc : Dword) : (w.goto m pc).slot = w.slot := by
  unfold goto; split <;> rfl
@[simp] theorem Warp.goto_bslot (w : Warp) (m : Mask) (pc : Dword) : (w.goto m pc).bslot = w.bslot := by
  unfold goto; split <;> rfl
@[simp] theorem Warp.goto_launch (w : Warp) (m : Mask) (pc : Dword) : (w.goto m pc).launch = w.launch := by
  unfold goto; split <;> rfl
@[simp] theorem Warp.goto_block (w : Warp) (m : Mask) (pc : Dword) : (w.goto m pc).block = w.block := by
  unfold goto; split <;> rfl
@[simp] theorem Warp.goto_idx (w : Warp) (m : Mask) (pc : Dword) : (w.goto m pc).idx = w.idx := by
  unfold goto; split <;> rfl
@[simp] theorem Warp.goto_wait (w : Warp) (m : Mask) (pc : Dword) : (w.goto m pc).wait = w.wait := by
  unfold goto; split <;> rfl
@[simp] theorem Warp.goto_preempted (w : Warp) (m : Mask) (pc : Dword) : (w.goto m pc).preempted = w.preempted := by
  unfold goto; split <;> rfl
@[simp] theorem Warp.goto_tmask (w : Warp) (m : Mask) (pc : Dword) : (w.goto m pc).tmask = w.tmask := by
  unfold goto; split <;> rfl
@[simp] theorem Warp.goto_inhdl (w : Warp) (m : Mask) (pc : Dword) : (w.goto m pc).inhdl = w.inhdl := by
  unfold goto; split <;> rfl
@[simp] theorem Warp.goto_sysHdl (w : Warp) (m : Mask) (pc : Dword) : (w.goto m pc).sysHdl = w.sysHdl := by
  unfold goto; split <;> rfl
@[simp] theorem Warp.goto_partw (w : Warp) (m : Mask) (pc : Dword) : (w.goto m pc).partw = w.partw := by
  unfold goto; split <;> rfl
@[simp] theorem Warp.goto_memrev (w : Warp) (m : Mask) (pc : Dword) : (w.goto m pc).memrev = w.memrev := by
  unfold goto; split <;> rfl
@[simp] theorem Warp.goto_supv (w : Warp) (m : Mask) (pc : Dword) : (w.goto m pc).supv = w.supv := by
  unfold goto; split <;> rfl
@[simp] theorem Warp.goto_genReg (w : Warp) (m : Mask) (pc : Dword) : (w.goto m pc).genReg = w.genReg := by
  unfold goto; split <;> rfl
@[simp] theorem Warp.goto_genAcc (w : Warp) (m : Mask) (pc : Dword) : (w.goto m pc).genAcc = w.genAcc := by
  unfold goto; split <;> rfl
@[simp] theorem Warp.goto_live (w : Warp) (m : Mask) (pc : Dword) : (w.goto m pc).live = w.live := by
  unfold goto; split <;> rfl
@[simp] theorem Warp.goto_barpark (w : Warp) (m : Mask) (pc : Dword) : (w.goto m pc).barpark = w.barpark := by
  unfold goto; split <;> rfl
@[simp] theorem Warp.goto_parkAt (w : Warp) (m : Mask) (pc : Dword) : (w.goto m pc).parkAt = w.parkAt := by
  unfold goto; split <;> rfl
@[simp] theorem Warp.goto_vgran (w : Warp) (m : Mask) (pc : Dword) : (w.goto m pc).vgran = w.vgran := by
  unfold goto; split <;> rfl
@[simp] theorem Warp.goto_nacc (w : Warp) (m : Mask) (pc : Dword) : (w.goto m pc).nacc = w.nacc := by
  unfold goto; split <;> rfl
@[simp] theorem Warp.goto_slpc (w : Warp) (m : Mask) (pc : Dword) : (w.goto m pc).slpc = w.slpc := by
  unfold goto; split <;> rfl
@[simp] theorem Warp.goto_v (w : Warp) (m : Mask) (pc : Dword) : (w.goto m pc).v = w.v := by
  unfold goto; split <;> rfl
@[simp] theorem Warp.goto_p (w : Warp) (m : Mask) (pc : Dword) : (w.goto m pc).p = w.p := by
  unfold goto; split <;> rfl
@[simp] theorem Warp.goto_s (w : Warp) (m : Mask) (pc : Dword) : (w.goto m pc).s = w.s := by
  unfold goto; split <;> rfl
@[simp] theorem Warp.goto_t (w : Warp) (m : Mask) (pc : Dword) : (w.goto m pc).t = w.t := by
  unfold goto; split <;> rfl
@[simp] theorem Warp.goto_acc (w : Warp) (m : Mask) (pc : Dword) : (w.goto m pc).acc = w.acc := by
  unfold goto; split <;> rfl
@[simp] theorem Warp.goto_scratch (w : Warp) (m : Mask) (pc : Dword) : (w.goto m pc).scratch = w.scratch := by
  unfold goto; split <;> rfl
@[simp] theorem Warp.goto_threads (w : Warp) (m : Mask) (pc : Dword) : (w.goto m pc).threads = w.threads := by
  unfold goto; split <;> rfl
@[simp] theorem Warp.goto_ctxBase (w : Warp) (m : Mask) (pc : Dword) : (w.goto m pc).ctxBase = w.ctxBase := by
  unfold goto; split <;> rfl
@[simp] theorem Warp.goto_resume (w : Warp) (m : Mask) (pc : Dword) : (w.goto m pc).resume = w.resume := by
  unfold goto; split <;> rfl
@[simp] theorem Warp.goto_sresume (w : Warp) (m : Mask) (pc : Dword) : (w.goto m pc).sresume = w.sresume := by
  unfold goto; split <;> rfl
@[simp] theorem Warp.goto_failed (w : Warp) (m : Mask) (pc : Dword) : (w.goto m pc).failed = w.failed := by
  unfold goto; split <;> rfl
@[simp] theorem Warp.goto_base (w : Warp) (m : Mask) (pc : Dword) : (w.goto m pc).base = w.base := by
  unfold goto; split <;> rfl
@[simp] theorem Warp.goto_grp (w : Warp) (m : Mask) (pc : Dword) : (w.goto m pc).grp = w.grp := by
  unfold goto; split <;> rfl
@[simp] theorem Warp.goto_tcause (w : Warp) (m : Mask) (pc : Dword) : (w.goto m pc).tcause = w.tcause := by
  unfold goto; split <;> rfl
@[simp] theorem Warp.goto_tpc (w : Warp) (m : Mask) (pc : Dword) : (w.goto m pc).tpc = w.tpc := by
  unfold goto; split <;> rfl
@[simp] theorem Warp.goto_taddr (w : Warp) (m : Mask) (pc : Dword) : (w.goto m pc).taddr = w.taddr := by
  unfold goto; split <;> rfl
@[simp] theorem Warp.goto_tlanes (w : Warp) (m : Mask) (pc : Dword) : (w.goto m pc).tlanes = w.tlanes := by
  unfold goto; split <;> rfl
@[simp] theorem Warp.goto_parked (w : Warp) (m : Mask) (pc : Dword) : (w.goto m pc).parked = w.parked := by
  unfold goto; split <;> rfl
@[simp] theorem Warp.goto_held (w : Warp) (m : Mask) (pc : Dword) : (w.goto m pc).held = w.held := by
  unfold goto; split <;> rfl
@[simp] theorem Warp.goto_woken (w : Warp) (m : Mask) (pc : Dword) : (w.goto m pc).woken = w.woken := by
  unfold goto; split <;> rfl
@[simp] theorem Warp.goto_leaves (w : Warp) (m : Mask) (pc : Dword) : (w.goto m pc).leaves = w.leaves := by
  unfold goto; split <;> rfl
@[simp] theorem Warp.goto_away (w : Warp) (m : Mask) (pc : Dword) : (w.goto m pc).away = w.away := by
  unfold goto; split <;> rfl
@[simp] theorem Warp.goto_skipWatch (w : Warp) (m : Mask) (pc : Dword) : (w.goto m pc).skipWatch = w.skipWatch := by
  unfold goto; split <;> rfl
@[simp] theorem Warp.goto_micro (w : Warp) (m : Mask) (pc : Dword) : (w.goto m pc).micro = w.micro := by
  unfold goto; split <;> rfl
@[simp] theorem Warp.goto_stalls (w : Warp) (m : Mask) (pc : Dword) : (w.goto m pc).stalls = w.stalls := by
  unfold goto; split <;> rfl
@[simp] theorem Warp.goto_ibuf (w : Warp) (m : Mask) (pc : Dword) : (w.goto m pc).ibuf = w.ibuf := by
  unfold goto; split <;> rfl
@[simp] theorem Warp.goto_lastExec (w : Warp) (m : Mask) (pc : Dword) : (w.goto m pc).lastExec = w.lastExec := by
  unfold goto; split <;> rfl
@[simp] theorem Warp.goto_readyAt (w : Warp) (m : Mask) (pc : Dword) : (w.goto m pc).readyAt = w.readyAt := by
  unfold goto; split <;> rfl
@[simp] theorem Warp.goto_starved (w : Warp) (m : Mask) (pc : Dword) : (w.goto m pc).starved = w.starved := by
  unfold goto; split <;> rfl
@[simp] theorem Warp.goto_jobFails (w : Warp) (m : Mask) (pc : Dword) : (w.goto m pc).jobFails = w.jobFails := by
  unfold goto; split <;> rfl

/-! ### clearResume -/

@[simp] theorem Warp.clearResume_present (w : Warp) : (w.clearResume).present = w.present := by
  unfold clearResume
  split
  · split <;> rfl
  · rfl
@[simp] theorem Warp.clearResume_slot (w : Warp) : (w.clearResume).slot = w.slot := by
  unfold clearResume
  split
  · split <;> rfl
  · rfl
@[simp] theorem Warp.clearResume_bslot (w : Warp) : (w.clearResume).bslot = w.bslot := by
  unfold clearResume
  split
  · split <;> rfl
  · rfl
@[simp] theorem Warp.clearResume_launch (w : Warp) : (w.clearResume).launch = w.launch := by
  unfold clearResume
  split
  · split <;> rfl
  · rfl
@[simp] theorem Warp.clearResume_block (w : Warp) : (w.clearResume).block = w.block := by
  unfold clearResume
  split
  · split <;> rfl
  · rfl
@[simp] theorem Warp.clearResume_idx (w : Warp) : (w.clearResume).idx = w.idx := by
  unfold clearResume
  split
  · split <;> rfl
  · rfl
@[simp] theorem Warp.clearResume_wait (w : Warp) : (w.clearResume).wait = w.wait := by
  unfold clearResume
  split
  · split <;> rfl
  · rfl
@[simp] theorem Warp.clearResume_preempted (w : Warp) : (w.clearResume).preempted = w.preempted := by
  unfold clearResume
  split
  · split <;> rfl
  · rfl
@[simp] theorem Warp.clearResume_tmask (w : Warp) : (w.clearResume).tmask = w.tmask := by
  unfold clearResume
  split
  · split <;> rfl
  · rfl
@[simp] theorem Warp.clearResume_inhdl (w : Warp) : (w.clearResume).inhdl = w.inhdl := by
  unfold clearResume
  split
  · split <;> rfl
  · rfl
@[simp] theorem Warp.clearResume_sysHdl (w : Warp) : (w.clearResume).sysHdl = w.sysHdl := by
  unfold clearResume
  split
  · split <;> rfl
  · rfl
@[simp] theorem Warp.clearResume_partw (w : Warp) : (w.clearResume).partw = w.partw := by
  unfold clearResume
  split
  · split <;> rfl
  · rfl
@[simp] theorem Warp.clearResume_memrev (w : Warp) : (w.clearResume).memrev = w.memrev := by
  unfold clearResume
  split
  · split <;> rfl
  · rfl
@[simp] theorem Warp.clearResume_supv (w : Warp) : (w.clearResume).supv = w.supv := by
  unfold clearResume
  split
  · split <;> rfl
  · rfl
@[simp] theorem Warp.clearResume_genReg (w : Warp) : (w.clearResume).genReg = w.genReg := by
  unfold clearResume
  split
  · split <;> rfl
  · rfl
@[simp] theorem Warp.clearResume_genAcc (w : Warp) : (w.clearResume).genAcc = w.genAcc := by
  unfold clearResume
  split
  · split <;> rfl
  · rfl
@[simp] theorem Warp.clearResume_live (w : Warp) : (w.clearResume).live = w.live := by
  unfold clearResume
  split
  · split <;> rfl
  · rfl
@[simp] theorem Warp.clearResume_barpark (w : Warp) : (w.clearResume).barpark = w.barpark := by
  unfold clearResume
  split
  · split <;> rfl
  · rfl
@[simp] theorem Warp.clearResume_parkAt (w : Warp) : (w.clearResume).parkAt = w.parkAt := by
  unfold clearResume
  split
  · split <;> rfl
  · rfl
@[simp] theorem Warp.clearResume_vgran (w : Warp) : (w.clearResume).vgran = w.vgran := by
  unfold clearResume
  split
  · split <;> rfl
  · rfl
@[simp] theorem Warp.clearResume_nacc (w : Warp) : (w.clearResume).nacc = w.nacc := by
  unfold clearResume
  split
  · split <;> rfl
  · rfl
@[simp] theorem Warp.clearResume_lpc (w : Warp) : (w.clearResume).lpc = w.lpc := by
  unfold clearResume
  split
  · split <;> rfl
  · rfl
@[simp] theorem Warp.clearResume_slpc (w : Warp) : (w.clearResume).slpc = w.slpc := by
  unfold clearResume
  split
  · split <;> rfl
  · rfl
@[simp] theorem Warp.clearResume_v (w : Warp) : (w.clearResume).v = w.v := by
  unfold clearResume
  split
  · split <;> rfl
  · rfl
@[simp] theorem Warp.clearResume_p (w : Warp) : (w.clearResume).p = w.p := by
  unfold clearResume
  split
  · split <;> rfl
  · rfl
@[simp] theorem Warp.clearResume_s (w : Warp) : (w.clearResume).s = w.s := by
  unfold clearResume
  split
  · split <;> rfl
  · rfl
@[simp] theorem Warp.clearResume_t (w : Warp) : (w.clearResume).t = w.t := by
  unfold clearResume
  split
  · split <;> rfl
  · rfl
@[simp] theorem Warp.clearResume_acc (w : Warp) : (w.clearResume).acc = w.acc := by
  unfold clearResume
  split
  · split <;> rfl
  · rfl
@[simp] theorem Warp.clearResume_scratch (w : Warp) : (w.clearResume).scratch = w.scratch := by
  unfold clearResume
  split
  · split <;> rfl
  · rfl
@[simp] theorem Warp.clearResume_threads (w : Warp) : (w.clearResume).threads = w.threads := by
  unfold clearResume
  split
  · split <;> rfl
  · rfl
@[simp] theorem Warp.clearResume_ctxBase (w : Warp) : (w.clearResume).ctxBase = w.ctxBase := by
  unfold clearResume
  split
  · split <;> rfl
  · rfl
@[simp] theorem Warp.clearResume_sresume (w : Warp) : (w.clearResume).sresume = w.sresume := by
  unfold clearResume
  split
  · split <;> rfl
  · rfl
@[simp] theorem Warp.clearResume_failed (w : Warp) : (w.clearResume).failed = w.failed := by
  unfold clearResume
  split
  · split <;> rfl
  · rfl
@[simp] theorem Warp.clearResume_base (w : Warp) : (w.clearResume).base = w.base := by
  unfold clearResume
  split
  · split <;> rfl
  · rfl
@[simp] theorem Warp.clearResume_grp (w : Warp) : (w.clearResume).grp = w.grp := by
  unfold clearResume
  split
  · split <;> rfl
  · rfl
@[simp] theorem Warp.clearResume_tcause (w : Warp) : (w.clearResume).tcause = w.tcause := by
  unfold clearResume
  split
  · split <;> rfl
  · rfl
@[simp] theorem Warp.clearResume_tpc (w : Warp) : (w.clearResume).tpc = w.tpc := by
  unfold clearResume
  split
  · split <;> rfl
  · rfl
@[simp] theorem Warp.clearResume_taddr (w : Warp) : (w.clearResume).taddr = w.taddr := by
  unfold clearResume
  split
  · split <;> rfl
  · rfl
@[simp] theorem Warp.clearResume_tlanes (w : Warp) : (w.clearResume).tlanes = w.tlanes := by
  unfold clearResume
  split
  · split <;> rfl
  · rfl
@[simp] theorem Warp.clearResume_parked (w : Warp) : (w.clearResume).parked = w.parked := by
  unfold clearResume
  split
  · split <;> rfl
  · rfl
@[simp] theorem Warp.clearResume_held (w : Warp) : (w.clearResume).held = w.held := by
  unfold clearResume
  split
  · split <;> rfl
  · rfl
@[simp] theorem Warp.clearResume_woken (w : Warp) : (w.clearResume).woken = w.woken := by
  unfold clearResume
  split
  · split <;> rfl
  · rfl
@[simp] theorem Warp.clearResume_leaves (w : Warp) : (w.clearResume).leaves = w.leaves := by
  unfold clearResume
  split
  · split <;> rfl
  · rfl
@[simp] theorem Warp.clearResume_away (w : Warp) : (w.clearResume).away = w.away := by
  unfold clearResume
  split
  · split <;> rfl
  · rfl
@[simp] theorem Warp.clearResume_skipWatch (w : Warp) : (w.clearResume).skipWatch = w.skipWatch := by
  unfold clearResume
  split
  · split <;> rfl
  · rfl
@[simp] theorem Warp.clearResume_micro (w : Warp) : (w.clearResume).micro = w.micro := by
  unfold clearResume
  split
  · split <;> rfl
  · rfl
@[simp] theorem Warp.clearResume_stalls (w : Warp) : (w.clearResume).stalls = w.stalls := by
  unfold clearResume
  split
  · split <;> rfl
  · rfl
@[simp] theorem Warp.clearResume_ibuf (w : Warp) : (w.clearResume).ibuf = w.ibuf := by
  unfold clearResume
  split
  · split <;> rfl
  · rfl
@[simp] theorem Warp.clearResume_lastExec (w : Warp) : (w.clearResume).lastExec = w.lastExec := by
  unfold clearResume
  split
  · split <;> rfl
  · rfl
@[simp] theorem Warp.clearResume_readyAt (w : Warp) : (w.clearResume).readyAt = w.readyAt := by
  unfold clearResume
  split
  · split <;> rfl
  · rfl
@[simp] theorem Warp.clearResume_starved (w : Warp) : (w.clearResume).starved = w.starved := by
  unfold clearResume
  split
  · split <;> rfl
  · rfl
@[simp] theorem Warp.clearResume_jobFails (w : Warp) : (w.clearResume).jobFails = w.jobFails := by
  unfold clearResume
  split
  · split <;> rfl
  · rfl

/-! ### setRep -/

@[simp] theorem Warp.setRep_present (w : Warp) (n : Nat) : (w.setRep n).present = w.present := rfl
@[simp] theorem Warp.setRep_slot (w : Warp) (n : Nat) : (w.setRep n).slot = w.slot := rfl
@[simp] theorem Warp.setRep_bslot (w : Warp) (n : Nat) : (w.setRep n).bslot = w.bslot := rfl
@[simp] theorem Warp.setRep_launch (w : Warp) (n : Nat) : (w.setRep n).launch = w.launch := rfl
@[simp] theorem Warp.setRep_block (w : Warp) (n : Nat) : (w.setRep n).block = w.block := rfl
@[simp] theorem Warp.setRep_idx (w : Warp) (n : Nat) : (w.setRep n).idx = w.idx := rfl
@[simp] theorem Warp.setRep_wait (w : Warp) (n : Nat) : (w.setRep n).wait = w.wait := rfl
@[simp] theorem Warp.setRep_preempted (w : Warp) (n : Nat) : (w.setRep n).preempted = w.preempted := rfl
@[simp] theorem Warp.setRep_tmask (w : Warp) (n : Nat) : (w.setRep n).tmask = w.tmask := rfl
@[simp] theorem Warp.setRep_inhdl (w : Warp) (n : Nat) : (w.setRep n).inhdl = w.inhdl := rfl
@[simp] theorem Warp.setRep_sysHdl (w : Warp) (n : Nat) : (w.setRep n).sysHdl = w.sysHdl := rfl
@[simp] theorem Warp.setRep_partw (w : Warp) (n : Nat) : (w.setRep n).partw = w.partw := rfl
@[simp] theorem Warp.setRep_memrev (w : Warp) (n : Nat) : (w.setRep n).memrev = w.memrev := rfl
@[simp] theorem Warp.setRep_supv (w : Warp) (n : Nat) : (w.setRep n).supv = w.supv := rfl
@[simp] theorem Warp.setRep_genReg (w : Warp) (n : Nat) : (w.setRep n).genReg = w.genReg := rfl
@[simp] theorem Warp.setRep_genAcc (w : Warp) (n : Nat) : (w.setRep n).genAcc = w.genAcc := rfl
@[simp] theorem Warp.setRep_live (w : Warp) (n : Nat) : (w.setRep n).live = w.live := rfl
@[simp] theorem Warp.setRep_barpark (w : Warp) (n : Nat) : (w.setRep n).barpark = w.barpark := rfl
@[simp] theorem Warp.setRep_parkAt (w : Warp) (n : Nat) : (w.setRep n).parkAt = w.parkAt := rfl
@[simp] theorem Warp.setRep_vgran (w : Warp) (n : Nat) : (w.setRep n).vgran = w.vgran := rfl
@[simp] theorem Warp.setRep_nacc (w : Warp) (n : Nat) : (w.setRep n).nacc = w.nacc := rfl
@[simp] theorem Warp.setRep_lpc (w : Warp) (n : Nat) : (w.setRep n).lpc = w.lpc := rfl
@[simp] theorem Warp.setRep_slpc (w : Warp) (n : Nat) : (w.setRep n).slpc = w.slpc := rfl
@[simp] theorem Warp.setRep_v (w : Warp) (n : Nat) : (w.setRep n).v = w.v := rfl
@[simp] theorem Warp.setRep_p (w : Warp) (n : Nat) : (w.setRep n).p = w.p := rfl
@[simp] theorem Warp.setRep_s (w : Warp) (n : Nat) : (w.setRep n).s = w.s := rfl
@[simp] theorem Warp.setRep_t (w : Warp) (n : Nat) : (w.setRep n).t = w.t := rfl
@[simp] theorem Warp.setRep_acc (w : Warp) (n : Nat) : (w.setRep n).acc = w.acc := rfl
@[simp] theorem Warp.setRep_scratch (w : Warp) (n : Nat) : (w.setRep n).scratch = w.scratch := rfl
@[simp] theorem Warp.setRep_threads (w : Warp) (n : Nat) : (w.setRep n).threads = w.threads := rfl
@[simp] theorem Warp.setRep_ctxBase (w : Warp) (n : Nat) : (w.setRep n).ctxBase = w.ctxBase := rfl
@[simp] theorem Warp.setRep_sresume (w : Warp) (n : Nat) : (w.setRep n).sresume = w.sresume := rfl
@[simp] theorem Warp.setRep_failed (w : Warp) (n : Nat) : (w.setRep n).failed = w.failed := rfl
@[simp] theorem Warp.setRep_base (w : Warp) (n : Nat) : (w.setRep n).base = w.base := rfl
@[simp] theorem Warp.setRep_grp (w : Warp) (n : Nat) : (w.setRep n).grp = w.grp := rfl
@[simp] theorem Warp.setRep_tcause (w : Warp) (n : Nat) : (w.setRep n).tcause = w.tcause := rfl
@[simp] theorem Warp.setRep_tpc (w : Warp) (n : Nat) : (w.setRep n).tpc = w.tpc := rfl
@[simp] theorem Warp.setRep_taddr (w : Warp) (n : Nat) : (w.setRep n).taddr = w.taddr := rfl
@[simp] theorem Warp.setRep_tlanes (w : Warp) (n : Nat) : (w.setRep n).tlanes = w.tlanes := rfl
@[simp] theorem Warp.setRep_parked (w : Warp) (n : Nat) : (w.setRep n).parked = w.parked := rfl
@[simp] theorem Warp.setRep_held (w : Warp) (n : Nat) : (w.setRep n).held = w.held := rfl
@[simp] theorem Warp.setRep_woken (w : Warp) (n : Nat) : (w.setRep n).woken = w.woken := rfl
@[simp] theorem Warp.setRep_leaves (w : Warp) (n : Nat) : (w.setRep n).leaves = w.leaves := rfl
@[simp] theorem Warp.setRep_away (w : Warp) (n : Nat) : (w.setRep n).away = w.away := rfl
@[simp] theorem Warp.setRep_skipWatch (w : Warp) (n : Nat) : (w.setRep n).skipWatch = w.skipWatch := rfl
@[simp] theorem Warp.setRep_micro (w : Warp) (n : Nat) : (w.setRep n).micro = w.micro := rfl
@[simp] theorem Warp.setRep_stalls (w : Warp) (n : Nat) : (w.setRep n).stalls = w.stalls := rfl
@[simp] theorem Warp.setRep_ibuf (w : Warp) (n : Nat) : (w.setRep n).ibuf = w.ibuf := rfl
@[simp] theorem Warp.setRep_lastExec (w : Warp) (n : Nat) : (w.setRep n).lastExec = w.lastExec := rfl
@[simp] theorem Warp.setRep_readyAt (w : Warp) (n : Nat) : (w.setRep n).readyAt = w.readyAt := rfl
@[simp] theorem Warp.setRep_starved (w : Warp) (n : Nat) : (w.setRep n).starved = w.starved := rfl
@[simp] theorem Warp.setRep_jobFails (w : Warp) (n : Nat) : (w.setRep n).jobFails = w.jobFails := rfl

/-! ### setDone -/

@[simp] theorem Warp.setDone_present (w : Warp) (m : Mask) (kept : Vector Dword 32) : (w.setDone m kept).present = w.present := rfl
@[simp] theorem Warp.setDone_slot (w : Warp) (m : Mask) (kept : Vector Dword 32) : (w.setDone m kept).slot = w.slot := rfl
@[simp] theorem Warp.setDone_bslot (w : Warp) (m : Mask) (kept : Vector Dword 32) : (w.setDone m kept).bslot = w.bslot := rfl
@[simp] theorem Warp.setDone_launch (w : Warp) (m : Mask) (kept : Vector Dword 32) : (w.setDone m kept).launch = w.launch := rfl
@[simp] theorem Warp.setDone_block (w : Warp) (m : Mask) (kept : Vector Dword 32) : (w.setDone m kept).block = w.block := rfl
@[simp] theorem Warp.setDone_idx (w : Warp) (m : Mask) (kept : Vector Dword 32) : (w.setDone m kept).idx = w.idx := rfl
@[simp] theorem Warp.setDone_wait (w : Warp) (m : Mask) (kept : Vector Dword 32) : (w.setDone m kept).wait = w.wait := rfl
@[simp] theorem Warp.setDone_preempted (w : Warp) (m : Mask) (kept : Vector Dword 32) : (w.setDone m kept).preempted = w.preempted := rfl
@[simp] theorem Warp.setDone_tmask (w : Warp) (m : Mask) (kept : Vector Dword 32) : (w.setDone m kept).tmask = w.tmask := rfl
@[simp] theorem Warp.setDone_inhdl (w : Warp) (m : Mask) (kept : Vector Dword 32) : (w.setDone m kept).inhdl = w.inhdl := rfl
@[simp] theorem Warp.setDone_sysHdl (w : Warp) (m : Mask) (kept : Vector Dword 32) : (w.setDone m kept).sysHdl = w.sysHdl := rfl
@[simp] theorem Warp.setDone_partw (w : Warp) (m : Mask) (kept : Vector Dword 32) : (w.setDone m kept).partw = w.partw := rfl
@[simp] theorem Warp.setDone_memrev (w : Warp) (m : Mask) (kept : Vector Dword 32) : (w.setDone m kept).memrev = w.memrev := rfl
@[simp] theorem Warp.setDone_supv (w : Warp) (m : Mask) (kept : Vector Dword 32) : (w.setDone m kept).supv = w.supv := rfl
@[simp] theorem Warp.setDone_genReg (w : Warp) (m : Mask) (kept : Vector Dword 32) : (w.setDone m kept).genReg = w.genReg := rfl
@[simp] theorem Warp.setDone_genAcc (w : Warp) (m : Mask) (kept : Vector Dword 32) : (w.setDone m kept).genAcc = w.genAcc := rfl
@[simp] theorem Warp.setDone_live (w : Warp) (m : Mask) (kept : Vector Dword 32) : (w.setDone m kept).live = w.live := rfl
@[simp] theorem Warp.setDone_barpark (w : Warp) (m : Mask) (kept : Vector Dword 32) : (w.setDone m kept).barpark = w.barpark := rfl
@[simp] theorem Warp.setDone_parkAt (w : Warp) (m : Mask) (kept : Vector Dword 32) : (w.setDone m kept).parkAt = w.parkAt := rfl
@[simp] theorem Warp.setDone_vgran (w : Warp) (m : Mask) (kept : Vector Dword 32) : (w.setDone m kept).vgran = w.vgran := rfl
@[simp] theorem Warp.setDone_nacc (w : Warp) (m : Mask) (kept : Vector Dword 32) : (w.setDone m kept).nacc = w.nacc := rfl
@[simp] theorem Warp.setDone_lpc (w : Warp) (m : Mask) (kept : Vector Dword 32) : (w.setDone m kept).lpc = w.lpc := rfl
@[simp] theorem Warp.setDone_slpc (w : Warp) (m : Mask) (kept : Vector Dword 32) : (w.setDone m kept).slpc = w.slpc := rfl
@[simp] theorem Warp.setDone_v (w : Warp) (m : Mask) (kept : Vector Dword 32) : (w.setDone m kept).v = w.v := rfl
@[simp] theorem Warp.setDone_p (w : Warp) (m : Mask) (kept : Vector Dword 32) : (w.setDone m kept).p = w.p := rfl
@[simp] theorem Warp.setDone_s (w : Warp) (m : Mask) (kept : Vector Dword 32) : (w.setDone m kept).s = w.s := rfl
@[simp] theorem Warp.setDone_t (w : Warp) (m : Mask) (kept : Vector Dword 32) : (w.setDone m kept).t = w.t := rfl
@[simp] theorem Warp.setDone_acc (w : Warp) (m : Mask) (kept : Vector Dword 32) : (w.setDone m kept).acc = w.acc := rfl
@[simp] theorem Warp.setDone_scratch (w : Warp) (m : Mask) (kept : Vector Dword 32) : (w.setDone m kept).scratch = w.scratch := rfl
@[simp] theorem Warp.setDone_threads (w : Warp) (m : Mask) (kept : Vector Dword 32) : (w.setDone m kept).threads = w.threads := rfl
@[simp] theorem Warp.setDone_ctxBase (w : Warp) (m : Mask) (kept : Vector Dword 32) : (w.setDone m kept).ctxBase = w.ctxBase := rfl
@[simp] theorem Warp.setDone_sresume (w : Warp) (m : Mask) (kept : Vector Dword 32) : (w.setDone m kept).sresume = w.sresume := rfl
@[simp] theorem Warp.setDone_failed (w : Warp) (m : Mask) (kept : Vector Dword 32) : (w.setDone m kept).failed = w.failed := rfl
@[simp] theorem Warp.setDone_base (w : Warp) (m : Mask) (kept : Vector Dword 32) : (w.setDone m kept).base = w.base := rfl
@[simp] theorem Warp.setDone_grp (w : Warp) (m : Mask) (kept : Vector Dword 32) : (w.setDone m kept).grp = w.grp := rfl
@[simp] theorem Warp.setDone_tcause (w : Warp) (m : Mask) (kept : Vector Dword 32) : (w.setDone m kept).tcause = w.tcause := rfl
@[simp] theorem Warp.setDone_tpc (w : Warp) (m : Mask) (kept : Vector Dword 32) : (w.setDone m kept).tpc = w.tpc := rfl
@[simp] theorem Warp.setDone_taddr (w : Warp) (m : Mask) (kept : Vector Dword 32) : (w.setDone m kept).taddr = w.taddr := rfl
@[simp] theorem Warp.setDone_tlanes (w : Warp) (m : Mask) (kept : Vector Dword 32) : (w.setDone m kept).tlanes = w.tlanes := rfl
@[simp] theorem Warp.setDone_parked (w : Warp) (m : Mask) (kept : Vector Dword 32) : (w.setDone m kept).parked = w.parked := rfl
@[simp] theorem Warp.setDone_held (w : Warp) (m : Mask) (kept : Vector Dword 32) : (w.setDone m kept).held = w.held := rfl
@[simp] theorem Warp.setDone_woken (w : Warp) (m : Mask) (kept : Vector Dword 32) : (w.setDone m kept).woken = w.woken := rfl
@[simp] theorem Warp.setDone_leaves (w : Warp) (m : Mask) (kept : Vector Dword 32) : (w.setDone m kept).leaves = w.leaves := rfl
@[simp] theorem Warp.setDone_away (w : Warp) (m : Mask) (kept : Vector Dword 32) : (w.setDone m kept).away = w.away := rfl
@[simp] theorem Warp.setDone_skipWatch (w : Warp) (m : Mask) (kept : Vector Dword 32) : (w.setDone m kept).skipWatch = w.skipWatch := rfl
@[simp] theorem Warp.setDone_micro (w : Warp) (m : Mask) (kept : Vector Dword 32) : (w.setDone m kept).micro = w.micro := rfl
@[simp] theorem Warp.setDone_stalls (w : Warp) (m : Mask) (kept : Vector Dword 32) : (w.setDone m kept).stalls = w.stalls := rfl
@[simp] theorem Warp.setDone_ibuf (w : Warp) (m : Mask) (kept : Vector Dword 32) : (w.setDone m kept).ibuf = w.ibuf := rfl
@[simp] theorem Warp.setDone_lastExec (w : Warp) (m : Mask) (kept : Vector Dword 32) : (w.setDone m kept).lastExec = w.lastExec := rfl
@[simp] theorem Warp.setDone_readyAt (w : Warp) (m : Mask) (kept : Vector Dword 32) : (w.setDone m kept).readyAt = w.readyAt := rfl
@[simp] theorem Warp.setDone_starved (w : Warp) (m : Mask) (kept : Vector Dword 32) : (w.setDone m kept).starved = w.starved := rfl
@[simp] theorem Warp.setDone_jobFails (w : Warp) (m : Mask) (kept : Vector Dword 32) : (w.setDone m kept).jobFails = w.jobFails := rfl

/-! ### wake -/

@[simp] theorem Warp.wake_present (w : Warp) : (w.wake).present = w.present := rfl
@[simp] theorem Warp.wake_slot (w : Warp) : (w.wake).slot = w.slot := rfl
@[simp] theorem Warp.wake_bslot (w : Warp) : (w.wake).bslot = w.bslot := rfl
@[simp] theorem Warp.wake_launch (w : Warp) : (w.wake).launch = w.launch := rfl
@[simp] theorem Warp.wake_block (w : Warp) : (w.wake).block = w.block := rfl
@[simp] theorem Warp.wake_idx (w : Warp) : (w.wake).idx = w.idx := rfl
@[simp] theorem Warp.wake_preempted (w : Warp) : (w.wake).preempted = w.preempted := rfl
@[simp] theorem Warp.wake_tmask (w : Warp) : (w.wake).tmask = w.tmask := rfl
@[simp] theorem Warp.wake_inhdl (w : Warp) : (w.wake).inhdl = w.inhdl := rfl
@[simp] theorem Warp.wake_sysHdl (w : Warp) : (w.wake).sysHdl = w.sysHdl := rfl
@[simp] theorem Warp.wake_partw (w : Warp) : (w.wake).partw = w.partw := rfl
@[simp] theorem Warp.wake_memrev (w : Warp) : (w.wake).memrev = w.memrev := rfl
@[simp] theorem Warp.wake_supv (w : Warp) : (w.wake).supv = w.supv := rfl
@[simp] theorem Warp.wake_genReg (w : Warp) : (w.wake).genReg = w.genReg := rfl
@[simp] theorem Warp.wake_genAcc (w : Warp) : (w.wake).genAcc = w.genAcc := rfl
@[simp] theorem Warp.wake_live (w : Warp) : (w.wake).live = w.live := rfl
@[simp] theorem Warp.wake_barpark (w : Warp) : (w.wake).barpark = w.barpark := rfl
@[simp] theorem Warp.wake_parkAt (w : Warp) : (w.wake).parkAt = w.parkAt := rfl
@[simp] theorem Warp.wake_vgran (w : Warp) : (w.wake).vgran = w.vgran := rfl
@[simp] theorem Warp.wake_nacc (w : Warp) : (w.wake).nacc = w.nacc := rfl
@[simp] theorem Warp.wake_lpc (w : Warp) : (w.wake).lpc = w.lpc := rfl
@[simp] theorem Warp.wake_slpc (w : Warp) : (w.wake).slpc = w.slpc := rfl
@[simp] theorem Warp.wake_v (w : Warp) : (w.wake).v = w.v := rfl
@[simp] theorem Warp.wake_p (w : Warp) : (w.wake).p = w.p := rfl
@[simp] theorem Warp.wake_s (w : Warp) : (w.wake).s = w.s := rfl
@[simp] theorem Warp.wake_t (w : Warp) : (w.wake).t = w.t := rfl
@[simp] theorem Warp.wake_acc (w : Warp) : (w.wake).acc = w.acc := rfl
@[simp] theorem Warp.wake_scratch (w : Warp) : (w.wake).scratch = w.scratch := rfl
@[simp] theorem Warp.wake_threads (w : Warp) : (w.wake).threads = w.threads := rfl
@[simp] theorem Warp.wake_ctxBase (w : Warp) : (w.wake).ctxBase = w.ctxBase := rfl
@[simp] theorem Warp.wake_resume (w : Warp) : (w.wake).resume = w.resume := rfl
@[simp] theorem Warp.wake_sresume (w : Warp) : (w.wake).sresume = w.sresume := rfl
@[simp] theorem Warp.wake_failed (w : Warp) : (w.wake).failed = w.failed := rfl
@[simp] theorem Warp.wake_base (w : Warp) : (w.wake).base = w.base := rfl
@[simp] theorem Warp.wake_grp (w : Warp) : (w.wake).grp = w.grp := rfl
@[simp] theorem Warp.wake_tcause (w : Warp) : (w.wake).tcause = w.tcause := rfl
@[simp] theorem Warp.wake_tpc (w : Warp) : (w.wake).tpc = w.tpc := rfl
@[simp] theorem Warp.wake_taddr (w : Warp) : (w.wake).taddr = w.taddr := rfl
@[simp] theorem Warp.wake_tlanes (w : Warp) : (w.wake).tlanes = w.tlanes := rfl
@[simp] theorem Warp.wake_parked (w : Warp) : (w.wake).parked = w.parked := rfl
@[simp] theorem Warp.wake_held (w : Warp) : (w.wake).held = w.held := rfl
@[simp] theorem Warp.wake_leaves (w : Warp) : (w.wake).leaves = w.leaves := rfl
@[simp] theorem Warp.wake_away (w : Warp) : (w.wake).away = w.away := rfl
@[simp] theorem Warp.wake_skipWatch (w : Warp) : (w.wake).skipWatch = w.skipWatch := rfl
@[simp] theorem Warp.wake_micro (w : Warp) : (w.wake).micro = w.micro := rfl
@[simp] theorem Warp.wake_stalls (w : Warp) : (w.wake).stalls = w.stalls := rfl
@[simp] theorem Warp.wake_ibuf (w : Warp) : (w.wake).ibuf = w.ibuf := rfl
@[simp] theorem Warp.wake_lastExec (w : Warp) : (w.wake).lastExec = w.lastExec := rfl
@[simp] theorem Warp.wake_readyAt (w : Warp) : (w.wake).readyAt = w.readyAt := rfl
@[simp] theorem Warp.wake_starved (w : Warp) : (w.wake).starved = w.starved := rfl
@[simp] theorem Warp.wake_jobFails (w : Warp) : (w.wake).jobFails = w.jobFails := rfl

/-! ### park -/

@[simp] theorem Warp.park_present (w : Warp) (i : Instr) : (w.park i).present = w.present := rfl
@[simp] theorem Warp.park_slot (w : Warp) (i : Instr) : (w.park i).slot = w.slot := rfl
@[simp] theorem Warp.park_bslot (w : Warp) (i : Instr) : (w.park i).bslot = w.bslot := rfl
@[simp] theorem Warp.park_launch (w : Warp) (i : Instr) : (w.park i).launch = w.launch := rfl
@[simp] theorem Warp.park_block (w : Warp) (i : Instr) : (w.park i).block = w.block := rfl
@[simp] theorem Warp.park_idx (w : Warp) (i : Instr) : (w.park i).idx = w.idx := rfl
@[simp] theorem Warp.park_wait (w : Warp) (i : Instr) : (w.park i).wait = w.wait := rfl
@[simp] theorem Warp.park_preempted (w : Warp) (i : Instr) : (w.park i).preempted = w.preempted := rfl
@[simp] theorem Warp.park_tmask (w : Warp) (i : Instr) : (w.park i).tmask = w.tmask := rfl
@[simp] theorem Warp.park_inhdl (w : Warp) (i : Instr) : (w.park i).inhdl = w.inhdl := rfl
@[simp] theorem Warp.park_sysHdl (w : Warp) (i : Instr) : (w.park i).sysHdl = w.sysHdl := rfl
@[simp] theorem Warp.park_partw (w : Warp) (i : Instr) : (w.park i).partw = w.partw := rfl
@[simp] theorem Warp.park_memrev (w : Warp) (i : Instr) : (w.park i).memrev = w.memrev := rfl
@[simp] theorem Warp.park_supv (w : Warp) (i : Instr) : (w.park i).supv = w.supv := rfl
@[simp] theorem Warp.park_genReg (w : Warp) (i : Instr) : (w.park i).genReg = w.genReg := rfl
@[simp] theorem Warp.park_genAcc (w : Warp) (i : Instr) : (w.park i).genAcc = w.genAcc := rfl
@[simp] theorem Warp.park_live (w : Warp) (i : Instr) : (w.park i).live = w.live := rfl
@[simp] theorem Warp.park_barpark (w : Warp) (i : Instr) : (w.park i).barpark = w.barpark := rfl
@[simp] theorem Warp.park_parkAt (w : Warp) (i : Instr) : (w.park i).parkAt = w.parkAt := rfl
@[simp] theorem Warp.park_vgran (w : Warp) (i : Instr) : (w.park i).vgran = w.vgran := rfl
@[simp] theorem Warp.park_nacc (w : Warp) (i : Instr) : (w.park i).nacc = w.nacc := rfl
@[simp] theorem Warp.park_lpc (w : Warp) (i : Instr) : (w.park i).lpc = w.lpc := rfl
@[simp] theorem Warp.park_slpc (w : Warp) (i : Instr) : (w.park i).slpc = w.slpc := rfl
@[simp] theorem Warp.park_v (w : Warp) (i : Instr) : (w.park i).v = w.v := rfl
@[simp] theorem Warp.park_p (w : Warp) (i : Instr) : (w.park i).p = w.p := rfl
@[simp] theorem Warp.park_s (w : Warp) (i : Instr) : (w.park i).s = w.s := rfl
@[simp] theorem Warp.park_t (w : Warp) (i : Instr) : (w.park i).t = w.t := rfl
@[simp] theorem Warp.park_acc (w : Warp) (i : Instr) : (w.park i).acc = w.acc := rfl
@[simp] theorem Warp.park_scratch (w : Warp) (i : Instr) : (w.park i).scratch = w.scratch := rfl
@[simp] theorem Warp.park_threads (w : Warp) (i : Instr) : (w.park i).threads = w.threads := rfl
@[simp] theorem Warp.park_ctxBase (w : Warp) (i : Instr) : (w.park i).ctxBase = w.ctxBase := rfl
@[simp] theorem Warp.park_resume (w : Warp) (i : Instr) : (w.park i).resume = w.resume := rfl
@[simp] theorem Warp.park_sresume (w : Warp) (i : Instr) : (w.park i).sresume = w.sresume := rfl
@[simp] theorem Warp.park_failed (w : Warp) (i : Instr) : (w.park i).failed = w.failed := rfl
@[simp] theorem Warp.park_base (w : Warp) (i : Instr) : (w.park i).base = w.base := rfl
@[simp] theorem Warp.park_grp (w : Warp) (i : Instr) : (w.park i).grp = w.grp := rfl
@[simp] theorem Warp.park_tcause (w : Warp) (i : Instr) : (w.park i).tcause = w.tcause := rfl
@[simp] theorem Warp.park_tpc (w : Warp) (i : Instr) : (w.park i).tpc = w.tpc := rfl
@[simp] theorem Warp.park_taddr (w : Warp) (i : Instr) : (w.park i).taddr = w.taddr := rfl
@[simp] theorem Warp.park_tlanes (w : Warp) (i : Instr) : (w.park i).tlanes = w.tlanes := rfl
@[simp] theorem Warp.park_woken (w : Warp) (i : Instr) : (w.park i).woken = w.woken := rfl
@[simp] theorem Warp.park_leaves (w : Warp) (i : Instr) : (w.park i).leaves = w.leaves := rfl
@[simp] theorem Warp.park_away (w : Warp) (i : Instr) : (w.park i).away = w.away := rfl
@[simp] theorem Warp.park_skipWatch (w : Warp) (i : Instr) : (w.park i).skipWatch = w.skipWatch := rfl
@[simp] theorem Warp.park_micro (w : Warp) (i : Instr) : (w.park i).micro = w.micro := rfl
@[simp] theorem Warp.park_stalls (w : Warp) (i : Instr) : (w.park i).stalls = w.stalls := rfl
@[simp] theorem Warp.park_ibuf (w : Warp) (i : Instr) : (w.park i).ibuf = w.ibuf := rfl
@[simp] theorem Warp.park_lastExec (w : Warp) (i : Instr) : (w.park i).lastExec = w.lastExec := rfl
@[simp] theorem Warp.park_readyAt (w : Warp) (i : Instr) : (w.park i).readyAt = w.readyAt := rfl
@[simp] theorem Warp.park_starved (w : Warp) (i : Instr) : (w.park i).starved = w.starved := rfl
@[simp] theorem Warp.park_jobFails (w : Warp) (i : Instr) : (w.park i).jobFails = w.jobFails := rfl

/-! ### unpark -/

@[simp] theorem Warp.unpark_present (w : Warp) : (w.unpark).present = w.present := rfl
@[simp] theorem Warp.unpark_slot (w : Warp) : (w.unpark).slot = w.slot := rfl
@[simp] theorem Warp.unpark_bslot (w : Warp) : (w.unpark).bslot = w.bslot := rfl
@[simp] theorem Warp.unpark_launch (w : Warp) : (w.unpark).launch = w.launch := rfl
@[simp] theorem Warp.unpark_block (w : Warp) : (w.unpark).block = w.block := rfl
@[simp] theorem Warp.unpark_idx (w : Warp) : (w.unpark).idx = w.idx := rfl
@[simp] theorem Warp.unpark_wait (w : Warp) : (w.unpark).wait = w.wait := rfl
@[simp] theorem Warp.unpark_preempted (w : Warp) : (w.unpark).preempted = w.preempted := rfl
@[simp] theorem Warp.unpark_tmask (w : Warp) : (w.unpark).tmask = w.tmask := rfl
@[simp] theorem Warp.unpark_inhdl (w : Warp) : (w.unpark).inhdl = w.inhdl := rfl
@[simp] theorem Warp.unpark_sysHdl (w : Warp) : (w.unpark).sysHdl = w.sysHdl := rfl
@[simp] theorem Warp.unpark_partw (w : Warp) : (w.unpark).partw = w.partw := rfl
@[simp] theorem Warp.unpark_memrev (w : Warp) : (w.unpark).memrev = w.memrev := rfl
@[simp] theorem Warp.unpark_supv (w : Warp) : (w.unpark).supv = w.supv := rfl
@[simp] theorem Warp.unpark_genReg (w : Warp) : (w.unpark).genReg = w.genReg := rfl
@[simp] theorem Warp.unpark_genAcc (w : Warp) : (w.unpark).genAcc = w.genAcc := rfl
@[simp] theorem Warp.unpark_live (w : Warp) : (w.unpark).live = w.live := rfl
@[simp] theorem Warp.unpark_barpark (w : Warp) : (w.unpark).barpark = w.barpark := rfl
@[simp] theorem Warp.unpark_parkAt (w : Warp) : (w.unpark).parkAt = w.parkAt := rfl
@[simp] theorem Warp.unpark_vgran (w : Warp) : (w.unpark).vgran = w.vgran := rfl
@[simp] theorem Warp.unpark_nacc (w : Warp) : (w.unpark).nacc = w.nacc := rfl
@[simp] theorem Warp.unpark_lpc (w : Warp) : (w.unpark).lpc = w.lpc := rfl
@[simp] theorem Warp.unpark_slpc (w : Warp) : (w.unpark).slpc = w.slpc := rfl
@[simp] theorem Warp.unpark_v (w : Warp) : (w.unpark).v = w.v := rfl
@[simp] theorem Warp.unpark_p (w : Warp) : (w.unpark).p = w.p := rfl
@[simp] theorem Warp.unpark_s (w : Warp) : (w.unpark).s = w.s := rfl
@[simp] theorem Warp.unpark_t (w : Warp) : (w.unpark).t = w.t := rfl
@[simp] theorem Warp.unpark_acc (w : Warp) : (w.unpark).acc = w.acc := rfl
@[simp] theorem Warp.unpark_scratch (w : Warp) : (w.unpark).scratch = w.scratch := rfl
@[simp] theorem Warp.unpark_threads (w : Warp) : (w.unpark).threads = w.threads := rfl
@[simp] theorem Warp.unpark_ctxBase (w : Warp) : (w.unpark).ctxBase = w.ctxBase := rfl
@[simp] theorem Warp.unpark_resume (w : Warp) : (w.unpark).resume = w.resume := rfl
@[simp] theorem Warp.unpark_sresume (w : Warp) : (w.unpark).sresume = w.sresume := rfl
@[simp] theorem Warp.unpark_failed (w : Warp) : (w.unpark).failed = w.failed := rfl
@[simp] theorem Warp.unpark_base (w : Warp) : (w.unpark).base = w.base := rfl
@[simp] theorem Warp.unpark_grp (w : Warp) : (w.unpark).grp = w.grp := rfl
@[simp] theorem Warp.unpark_tcause (w : Warp) : (w.unpark).tcause = w.tcause := rfl
@[simp] theorem Warp.unpark_tpc (w : Warp) : (w.unpark).tpc = w.tpc := rfl
@[simp] theorem Warp.unpark_taddr (w : Warp) : (w.unpark).taddr = w.taddr := rfl
@[simp] theorem Warp.unpark_tlanes (w : Warp) : (w.unpark).tlanes = w.tlanes := rfl
@[simp] theorem Warp.unpark_leaves (w : Warp) : (w.unpark).leaves = w.leaves := rfl
@[simp] theorem Warp.unpark_away (w : Warp) : (w.unpark).away = w.away := rfl
@[simp] theorem Warp.unpark_skipWatch (w : Warp) : (w.unpark).skipWatch = w.skipWatch := rfl
@[simp] theorem Warp.unpark_micro (w : Warp) : (w.unpark).micro = w.micro := rfl
@[simp] theorem Warp.unpark_stalls (w : Warp) : (w.unpark).stalls = w.stalls := rfl
@[simp] theorem Warp.unpark_ibuf (w : Warp) : (w.unpark).ibuf = w.ibuf := rfl
@[simp] theorem Warp.unpark_lastExec (w : Warp) : (w.unpark).lastExec = w.lastExec := rfl
@[simp] theorem Warp.unpark_readyAt (w : Warp) : (w.unpark).readyAt = w.readyAt := rfl
@[simp] theorem Warp.unpark_starved (w : Warp) : (w.unpark).starved = w.starved := rfl
@[simp] theorem Warp.unpark_jobFails (w : Warp) : (w.unpark).jobFails = w.jobFails := rfl

/-! ### discard -/

@[simp] theorem Warp.discard_present (w : Warp) : (w.discard).present = w.present := by
  unfold discard; split <;> rfl
@[simp] theorem Warp.discard_slot (w : Warp) : (w.discard).slot = w.slot := by
  unfold discard; split <;> rfl
@[simp] theorem Warp.discard_bslot (w : Warp) : (w.discard).bslot = w.bslot := by
  unfold discard; split <;> rfl
@[simp] theorem Warp.discard_launch (w : Warp) : (w.discard).launch = w.launch := by
  unfold discard; split <;> rfl
@[simp] theorem Warp.discard_block (w : Warp) : (w.discard).block = w.block := by
  unfold discard; split <;> rfl
@[simp] theorem Warp.discard_idx (w : Warp) : (w.discard).idx = w.idx := by
  unfold discard; split <;> rfl
@[simp] theorem Warp.discard_wait (w : Warp) : (w.discard).wait = w.wait := by
  unfold discard; split <;> rfl
@[simp] theorem Warp.discard_preempted (w : Warp) : (w.discard).preempted = w.preempted := by
  unfold discard; split <;> rfl
@[simp] theorem Warp.discard_inhdl (w : Warp) : (w.discard).inhdl = w.inhdl := by
  unfold discard; split <;> rfl
@[simp] theorem Warp.discard_sysHdl (w : Warp) : (w.discard).sysHdl = w.sysHdl := by
  unfold discard; split <;> rfl
@[simp] theorem Warp.discard_memrev (w : Warp) : (w.discard).memrev = w.memrev := by
  unfold discard; split <;> rfl
@[simp] theorem Warp.discard_supv (w : Warp) : (w.discard).supv = w.supv := by
  unfold discard; split <;> rfl
@[simp] theorem Warp.discard_genReg (w : Warp) : (w.discard).genReg = w.genReg := by
  unfold discard; split <;> rfl
@[simp] theorem Warp.discard_genAcc (w : Warp) : (w.discard).genAcc = w.genAcc := by
  unfold discard; split <;> rfl
@[simp] theorem Warp.discard_live (w : Warp) : (w.discard).live = w.live := by
  unfold discard; split <;> rfl
@[simp] theorem Warp.discard_barpark (w : Warp) : (w.discard).barpark = w.barpark := by
  unfold discard; split <;> rfl
@[simp] theorem Warp.discard_parkAt (w : Warp) : (w.discard).parkAt = w.parkAt := by
  unfold discard; split <;> rfl
@[simp] theorem Warp.discard_vgran (w : Warp) : (w.discard).vgran = w.vgran := by
  unfold discard; split <;> rfl
@[simp] theorem Warp.discard_nacc (w : Warp) : (w.discard).nacc = w.nacc := by
  unfold discard; split <;> rfl
@[simp] theorem Warp.discard_lpc (w : Warp) : (w.discard).lpc = w.lpc := by
  unfold discard; split <;> rfl
@[simp] theorem Warp.discard_slpc (w : Warp) : (w.discard).slpc = w.slpc := by
  unfold discard; split <;> rfl
@[simp] theorem Warp.discard_scratch (w : Warp) : (w.discard).scratch = w.scratch := by
  unfold discard; split <;> rfl
@[simp] theorem Warp.discard_threads (w : Warp) : (w.discard).threads = w.threads := by
  unfold discard; split <;> rfl
@[simp] theorem Warp.discard_ctxBase (w : Warp) : (w.discard).ctxBase = w.ctxBase := by
  unfold discard; split <;> rfl
@[simp] theorem Warp.discard_resume (w : Warp) : (w.discard).resume = w.resume := by
  unfold discard; split <;> rfl
@[simp] theorem Warp.discard_sresume (w : Warp) : (w.discard).sresume = w.sresume := by
  unfold discard; split <;> rfl
@[simp] theorem Warp.discard_failed (w : Warp) : (w.discard).failed = w.failed := by
  unfold discard; split <;> rfl
@[simp] theorem Warp.discard_base (w : Warp) : (w.discard).base = w.base := by
  unfold discard; split <;> rfl
@[simp] theorem Warp.discard_grp (w : Warp) : (w.discard).grp = w.grp := by
  unfold discard; split <;> rfl
@[simp] theorem Warp.discard_tcause (w : Warp) : (w.discard).tcause = w.tcause := by
  unfold discard; split <;> rfl
@[simp] theorem Warp.discard_tpc (w : Warp) : (w.discard).tpc = w.tpc := by
  unfold discard; split <;> rfl
@[simp] theorem Warp.discard_taddr (w : Warp) : (w.discard).taddr = w.taddr := by
  unfold discard; split <;> rfl
@[simp] theorem Warp.discard_tlanes (w : Warp) : (w.discard).tlanes = w.tlanes := by
  unfold discard; split <;> rfl
@[simp] theorem Warp.discard_parked (w : Warp) : (w.discard).parked = w.parked := by
  unfold discard; split <;> rfl
@[simp] theorem Warp.discard_held (w : Warp) : (w.discard).held = w.held := by
  unfold discard; split <;> rfl
@[simp] theorem Warp.discard_woken (w : Warp) : (w.discard).woken = w.woken := by
  unfold discard; split <;> rfl
@[simp] theorem Warp.discard_leaves (w : Warp) : (w.discard).leaves = w.leaves := by
  unfold discard; split <;> rfl
@[simp] theorem Warp.discard_away (w : Warp) : (w.discard).away = w.away := by
  unfold discard; split <;> rfl
@[simp] theorem Warp.discard_skipWatch (w : Warp) : (w.discard).skipWatch = w.skipWatch := by
  unfold discard; split <;> rfl
@[simp] theorem Warp.discard_stalls (w : Warp) : (w.discard).stalls = w.stalls := by
  unfold discard; split <;> rfl
@[simp] theorem Warp.discard_ibuf (w : Warp) : (w.discard).ibuf = w.ibuf := by
  unfold discard; split <;> rfl
@[simp] theorem Warp.discard_lastExec (w : Warp) : (w.discard).lastExec = w.lastExec := by
  unfold discard; split <;> rfl
@[simp] theorem Warp.discard_readyAt (w : Warp) : (w.discard).readyAt = w.readyAt := by
  unfold discard; split <;> rfl
@[simp] theorem Warp.discard_starved (w : Warp) : (w.discard).starved = w.starved := by
  unfold discard; split <;> rfl
@[simp] theorem Warp.discard_jobFails (w : Warp) : (w.discard).jobFails = w.jobFails := by
  unfold discard; split <;> rfl

/-! ### lastUse -/

@[simp] theorem Warp.lastUse_present (w : Warp) (m : Mask) (lk : BitVec 2) (ns : List Nat) : (w.lastUse m lk ns).present = w.present := by
  unfold lastUse
  split
  · induction ns generalizing w with
    | nil => rfl
    | cons n ns ih => rw [List.foldl_cons, ih, Warp.setVec_present]
  · rfl
@[simp] theorem Warp.lastUse_slot (w : Warp) (m : Mask) (lk : BitVec 2) (ns : List Nat) : (w.lastUse m lk ns).slot = w.slot := by
  unfold lastUse
  split
  · induction ns generalizing w with
    | nil => rfl
    | cons n ns ih => rw [List.foldl_cons, ih, Warp.setVec_slot]
  · rfl
@[simp] theorem Warp.lastUse_bslot (w : Warp) (m : Mask) (lk : BitVec 2) (ns : List Nat) : (w.lastUse m lk ns).bslot = w.bslot := by
  unfold lastUse
  split
  · induction ns generalizing w with
    | nil => rfl
    | cons n ns ih => rw [List.foldl_cons, ih, Warp.setVec_bslot]
  · rfl
@[simp] theorem Warp.lastUse_launch (w : Warp) (m : Mask) (lk : BitVec 2) (ns : List Nat) : (w.lastUse m lk ns).launch = w.launch := by
  unfold lastUse
  split
  · induction ns generalizing w with
    | nil => rfl
    | cons n ns ih => rw [List.foldl_cons, ih, Warp.setVec_launch]
  · rfl
@[simp] theorem Warp.lastUse_block (w : Warp) (m : Mask) (lk : BitVec 2) (ns : List Nat) : (w.lastUse m lk ns).block = w.block := by
  unfold lastUse
  split
  · induction ns generalizing w with
    | nil => rfl
    | cons n ns ih => rw [List.foldl_cons, ih, Warp.setVec_block]
  · rfl
@[simp] theorem Warp.lastUse_idx (w : Warp) (m : Mask) (lk : BitVec 2) (ns : List Nat) : (w.lastUse m lk ns).idx = w.idx := by
  unfold lastUse
  split
  · induction ns generalizing w with
    | nil => rfl
    | cons n ns ih => rw [List.foldl_cons, ih, Warp.setVec_idx]
  · rfl
@[simp] theorem Warp.lastUse_wait (w : Warp) (m : Mask) (lk : BitVec 2) (ns : List Nat) : (w.lastUse m lk ns).wait = w.wait := by
  unfold lastUse
  split
  · induction ns generalizing w with
    | nil => rfl
    | cons n ns ih => rw [List.foldl_cons, ih, Warp.setVec_wait]
  · rfl
@[simp] theorem Warp.lastUse_preempted (w : Warp) (m : Mask) (lk : BitVec 2) (ns : List Nat) : (w.lastUse m lk ns).preempted = w.preempted := by
  unfold lastUse
  split
  · induction ns generalizing w with
    | nil => rfl
    | cons n ns ih => rw [List.foldl_cons, ih, Warp.setVec_preempted]
  · rfl
@[simp] theorem Warp.lastUse_tmask (w : Warp) (m : Mask) (lk : BitVec 2) (ns : List Nat) : (w.lastUse m lk ns).tmask = w.tmask := by
  unfold lastUse
  split
  · induction ns generalizing w with
    | nil => rfl
    | cons n ns ih => rw [List.foldl_cons, ih, Warp.setVec_tmask]
  · rfl
@[simp] theorem Warp.lastUse_inhdl (w : Warp) (m : Mask) (lk : BitVec 2) (ns : List Nat) : (w.lastUse m lk ns).inhdl = w.inhdl := by
  unfold lastUse
  split
  · induction ns generalizing w with
    | nil => rfl
    | cons n ns ih => rw [List.foldl_cons, ih, Warp.setVec_inhdl]
  · rfl
@[simp] theorem Warp.lastUse_sysHdl (w : Warp) (m : Mask) (lk : BitVec 2) (ns : List Nat) : (w.lastUse m lk ns).sysHdl = w.sysHdl := by
  unfold lastUse
  split
  · induction ns generalizing w with
    | nil => rfl
    | cons n ns ih => rw [List.foldl_cons, ih, Warp.setVec_sysHdl]
  · rfl
@[simp] theorem Warp.lastUse_partw (w : Warp) (m : Mask) (lk : BitVec 2) (ns : List Nat) : (w.lastUse m lk ns).partw = w.partw := by
  unfold lastUse
  split
  · induction ns generalizing w with
    | nil => rfl
    | cons n ns ih => rw [List.foldl_cons, ih, Warp.setVec_partw]
  · rfl
@[simp] theorem Warp.lastUse_memrev (w : Warp) (m : Mask) (lk : BitVec 2) (ns : List Nat) : (w.lastUse m lk ns).memrev = w.memrev := by
  unfold lastUse
  split
  · induction ns generalizing w with
    | nil => rfl
    | cons n ns ih => rw [List.foldl_cons, ih, Warp.setVec_memrev]
  · rfl
@[simp] theorem Warp.lastUse_supv (w : Warp) (m : Mask) (lk : BitVec 2) (ns : List Nat) : (w.lastUse m lk ns).supv = w.supv := by
  unfold lastUse
  split
  · induction ns generalizing w with
    | nil => rfl
    | cons n ns ih => rw [List.foldl_cons, ih, Warp.setVec_supv]
  · rfl
@[simp] theorem Warp.lastUse_genReg (w : Warp) (m : Mask) (lk : BitVec 2) (ns : List Nat) : (w.lastUse m lk ns).genReg = w.genReg := by
  unfold lastUse
  split
  · induction ns generalizing w with
    | nil => rfl
    | cons n ns ih => rw [List.foldl_cons, ih, Warp.setVec_genReg]
  · rfl
@[simp] theorem Warp.lastUse_genAcc (w : Warp) (m : Mask) (lk : BitVec 2) (ns : List Nat) : (w.lastUse m lk ns).genAcc = w.genAcc := by
  unfold lastUse
  split
  · induction ns generalizing w with
    | nil => rfl
    | cons n ns ih => rw [List.foldl_cons, ih, Warp.setVec_genAcc]
  · rfl
@[simp] theorem Warp.lastUse_live (w : Warp) (m : Mask) (lk : BitVec 2) (ns : List Nat) : (w.lastUse m lk ns).live = w.live := by
  unfold lastUse
  split
  · induction ns generalizing w with
    | nil => rfl
    | cons n ns ih => rw [List.foldl_cons, ih, Warp.setVec_live]
  · rfl
@[simp] theorem Warp.lastUse_barpark (w : Warp) (m : Mask) (lk : BitVec 2) (ns : List Nat) : (w.lastUse m lk ns).barpark = w.barpark := by
  unfold lastUse
  split
  · induction ns generalizing w with
    | nil => rfl
    | cons n ns ih => rw [List.foldl_cons, ih, Warp.setVec_barpark]
  · rfl
@[simp] theorem Warp.lastUse_parkAt (w : Warp) (m : Mask) (lk : BitVec 2) (ns : List Nat) : (w.lastUse m lk ns).parkAt = w.parkAt := by
  unfold lastUse
  split
  · induction ns generalizing w with
    | nil => rfl
    | cons n ns ih => rw [List.foldl_cons, ih, Warp.setVec_parkAt]
  · rfl
@[simp] theorem Warp.lastUse_vgran (w : Warp) (m : Mask) (lk : BitVec 2) (ns : List Nat) : (w.lastUse m lk ns).vgran = w.vgran := by
  unfold lastUse
  split
  · induction ns generalizing w with
    | nil => rfl
    | cons n ns ih => rw [List.foldl_cons, ih, Warp.setVec_vgran]
  · rfl
@[simp] theorem Warp.lastUse_nacc (w : Warp) (m : Mask) (lk : BitVec 2) (ns : List Nat) : (w.lastUse m lk ns).nacc = w.nacc := by
  unfold lastUse
  split
  · induction ns generalizing w with
    | nil => rfl
    | cons n ns ih => rw [List.foldl_cons, ih, Warp.setVec_nacc]
  · rfl
@[simp] theorem Warp.lastUse_lpc (w : Warp) (m : Mask) (lk : BitVec 2) (ns : List Nat) : (w.lastUse m lk ns).lpc = w.lpc := by
  unfold lastUse
  split
  · induction ns generalizing w with
    | nil => rfl
    | cons n ns ih => rw [List.foldl_cons, ih, Warp.setVec_lpc]
  · rfl
@[simp] theorem Warp.lastUse_slpc (w : Warp) (m : Mask) (lk : BitVec 2) (ns : List Nat) : (w.lastUse m lk ns).slpc = w.slpc := by
  unfold lastUse
  split
  · induction ns generalizing w with
    | nil => rfl
    | cons n ns ih => rw [List.foldl_cons, ih, Warp.setVec_slpc]
  · rfl
@[simp] theorem Warp.lastUse_p (w : Warp) (m : Mask) (lk : BitVec 2) (ns : List Nat) : (w.lastUse m lk ns).p = w.p := by
  unfold lastUse
  split
  · induction ns generalizing w with
    | nil => rfl
    | cons n ns ih => rw [List.foldl_cons, ih, Warp.setVec_p]
  · rfl
@[simp] theorem Warp.lastUse_s (w : Warp) (m : Mask) (lk : BitVec 2) (ns : List Nat) : (w.lastUse m lk ns).s = w.s := by
  unfold lastUse
  split
  · induction ns generalizing w with
    | nil => rfl
    | cons n ns ih => rw [List.foldl_cons, ih, Warp.setVec_s]
  · rfl
@[simp] theorem Warp.lastUse_t (w : Warp) (m : Mask) (lk : BitVec 2) (ns : List Nat) : (w.lastUse m lk ns).t = w.t := by
  unfold lastUse
  split
  · induction ns generalizing w with
    | nil => rfl
    | cons n ns ih => rw [List.foldl_cons, ih, Warp.setVec_t]
  · rfl
@[simp] theorem Warp.lastUse_acc (w : Warp) (m : Mask) (lk : BitVec 2) (ns : List Nat) : (w.lastUse m lk ns).acc = w.acc := by
  unfold lastUse
  split
  · induction ns generalizing w with
    | nil => rfl
    | cons n ns ih => rw [List.foldl_cons, ih, Warp.setVec_acc]
  · rfl
@[simp] theorem Warp.lastUse_scratch (w : Warp) (m : Mask) (lk : BitVec 2) (ns : List Nat) : (w.lastUse m lk ns).scratch = w.scratch := by
  unfold lastUse
  split
  · induction ns generalizing w with
    | nil => rfl
    | cons n ns ih => rw [List.foldl_cons, ih, Warp.setVec_scratch]
  · rfl
@[simp] theorem Warp.lastUse_threads (w : Warp) (m : Mask) (lk : BitVec 2) (ns : List Nat) : (w.lastUse m lk ns).threads = w.threads := by
  unfold lastUse
  split
  · induction ns generalizing w with
    | nil => rfl
    | cons n ns ih => rw [List.foldl_cons, ih, Warp.setVec_threads]
  · rfl
@[simp] theorem Warp.lastUse_ctxBase (w : Warp) (m : Mask) (lk : BitVec 2) (ns : List Nat) : (w.lastUse m lk ns).ctxBase = w.ctxBase := by
  unfold lastUse
  split
  · induction ns generalizing w with
    | nil => rfl
    | cons n ns ih => rw [List.foldl_cons, ih, Warp.setVec_ctxBase]
  · rfl
@[simp] theorem Warp.lastUse_resume (w : Warp) (m : Mask) (lk : BitVec 2) (ns : List Nat) : (w.lastUse m lk ns).resume = w.resume := by
  unfold lastUse
  split
  · induction ns generalizing w with
    | nil => rfl
    | cons n ns ih => rw [List.foldl_cons, ih, Warp.setVec_resume]
  · rfl
@[simp] theorem Warp.lastUse_sresume (w : Warp) (m : Mask) (lk : BitVec 2) (ns : List Nat) : (w.lastUse m lk ns).sresume = w.sresume := by
  unfold lastUse
  split
  · induction ns generalizing w with
    | nil => rfl
    | cons n ns ih => rw [List.foldl_cons, ih, Warp.setVec_sresume]
  · rfl
@[simp] theorem Warp.lastUse_failed (w : Warp) (m : Mask) (lk : BitVec 2) (ns : List Nat) : (w.lastUse m lk ns).failed = w.failed := by
  unfold lastUse
  split
  · induction ns generalizing w with
    | nil => rfl
    | cons n ns ih => rw [List.foldl_cons, ih, Warp.setVec_failed]
  · rfl
@[simp] theorem Warp.lastUse_base (w : Warp) (m : Mask) (lk : BitVec 2) (ns : List Nat) : (w.lastUse m lk ns).base = w.base := by
  unfold lastUse
  split
  · induction ns generalizing w with
    | nil => rfl
    | cons n ns ih => rw [List.foldl_cons, ih, Warp.setVec_base]
  · rfl
@[simp] theorem Warp.lastUse_grp (w : Warp) (m : Mask) (lk : BitVec 2) (ns : List Nat) : (w.lastUse m lk ns).grp = w.grp := by
  unfold lastUse
  split
  · induction ns generalizing w with
    | nil => rfl
    | cons n ns ih => rw [List.foldl_cons, ih, Warp.setVec_grp]
  · rfl
@[simp] theorem Warp.lastUse_tcause (w : Warp) (m : Mask) (lk : BitVec 2) (ns : List Nat) : (w.lastUse m lk ns).tcause = w.tcause := by
  unfold lastUse
  split
  · induction ns generalizing w with
    | nil => rfl
    | cons n ns ih => rw [List.foldl_cons, ih, Warp.setVec_tcause]
  · rfl
@[simp] theorem Warp.lastUse_tpc (w : Warp) (m : Mask) (lk : BitVec 2) (ns : List Nat) : (w.lastUse m lk ns).tpc = w.tpc := by
  unfold lastUse
  split
  · induction ns generalizing w with
    | nil => rfl
    | cons n ns ih => rw [List.foldl_cons, ih, Warp.setVec_tpc]
  · rfl
@[simp] theorem Warp.lastUse_taddr (w : Warp) (m : Mask) (lk : BitVec 2) (ns : List Nat) : (w.lastUse m lk ns).taddr = w.taddr := by
  unfold lastUse
  split
  · induction ns generalizing w with
    | nil => rfl
    | cons n ns ih => rw [List.foldl_cons, ih, Warp.setVec_taddr]
  · rfl
@[simp] theorem Warp.lastUse_tlanes (w : Warp) (m : Mask) (lk : BitVec 2) (ns : List Nat) : (w.lastUse m lk ns).tlanes = w.tlanes := by
  unfold lastUse
  split
  · induction ns generalizing w with
    | nil => rfl
    | cons n ns ih => rw [List.foldl_cons, ih, Warp.setVec_tlanes]
  · rfl
@[simp] theorem Warp.lastUse_parked (w : Warp) (m : Mask) (lk : BitVec 2) (ns : List Nat) : (w.lastUse m lk ns).parked = w.parked := by
  unfold lastUse
  split
  · induction ns generalizing w with
    | nil => rfl
    | cons n ns ih => rw [List.foldl_cons, ih, Warp.setVec_parked]
  · rfl
@[simp] theorem Warp.lastUse_held (w : Warp) (m : Mask) (lk : BitVec 2) (ns : List Nat) : (w.lastUse m lk ns).held = w.held := by
  unfold lastUse
  split
  · induction ns generalizing w with
    | nil => rfl
    | cons n ns ih => rw [List.foldl_cons, ih, Warp.setVec_held]
  · rfl
@[simp] theorem Warp.lastUse_woken (w : Warp) (m : Mask) (lk : BitVec 2) (ns : List Nat) : (w.lastUse m lk ns).woken = w.woken := by
  unfold lastUse
  split
  · induction ns generalizing w with
    | nil => rfl
    | cons n ns ih => rw [List.foldl_cons, ih, Warp.setVec_woken]
  · rfl
@[simp] theorem Warp.lastUse_leaves (w : Warp) (m : Mask) (lk : BitVec 2) (ns : List Nat) : (w.lastUse m lk ns).leaves = w.leaves := by
  unfold lastUse
  split
  · induction ns generalizing w with
    | nil => rfl
    | cons n ns ih => rw [List.foldl_cons, ih, Warp.setVec_leaves]
  · rfl
@[simp] theorem Warp.lastUse_away (w : Warp) (m : Mask) (lk : BitVec 2) (ns : List Nat) : (w.lastUse m lk ns).away = w.away := by
  unfold lastUse
  split
  · induction ns generalizing w with
    | nil => rfl
    | cons n ns ih => rw [List.foldl_cons, ih, Warp.setVec_away]
  · rfl
@[simp] theorem Warp.lastUse_skipWatch (w : Warp) (m : Mask) (lk : BitVec 2) (ns : List Nat) : (w.lastUse m lk ns).skipWatch = w.skipWatch := by
  unfold lastUse
  split
  · induction ns generalizing w with
    | nil => rfl
    | cons n ns ih => rw [List.foldl_cons, ih, Warp.setVec_skipWatch]
  · rfl
@[simp] theorem Warp.lastUse_micro (w : Warp) (m : Mask) (lk : BitVec 2) (ns : List Nat) : (w.lastUse m lk ns).micro = w.micro := by
  unfold lastUse
  split
  · induction ns generalizing w with
    | nil => rfl
    | cons n ns ih => rw [List.foldl_cons, ih, Warp.setVec_micro]
  · rfl
@[simp] theorem Warp.lastUse_stalls (w : Warp) (m : Mask) (lk : BitVec 2) (ns : List Nat) : (w.lastUse m lk ns).stalls = w.stalls := by
  unfold lastUse
  split
  · induction ns generalizing w with
    | nil => rfl
    | cons n ns ih => rw [List.foldl_cons, ih, Warp.setVec_stalls]
  · rfl
@[simp] theorem Warp.lastUse_ibuf (w : Warp) (m : Mask) (lk : BitVec 2) (ns : List Nat) : (w.lastUse m lk ns).ibuf = w.ibuf := by
  unfold lastUse
  split
  · induction ns generalizing w with
    | nil => rfl
    | cons n ns ih => rw [List.foldl_cons, ih, Warp.setVec_ibuf]
  · rfl
@[simp] theorem Warp.lastUse_lastExec (w : Warp) (m : Mask) (lk : BitVec 2) (ns : List Nat) : (w.lastUse m lk ns).lastExec = w.lastExec := by
  unfold lastUse
  split
  · induction ns generalizing w with
    | nil => rfl
    | cons n ns ih => rw [List.foldl_cons, ih, Warp.setVec_lastExec]
  · rfl
@[simp] theorem Warp.lastUse_readyAt (w : Warp) (m : Mask) (lk : BitVec 2) (ns : List Nat) : (w.lastUse m lk ns).readyAt = w.readyAt := by
  unfold lastUse
  split
  · induction ns generalizing w with
    | nil => rfl
    | cons n ns ih => rw [List.foldl_cons, ih, Warp.setVec_readyAt]
  · rfl
@[simp] theorem Warp.lastUse_starved (w : Warp) (m : Mask) (lk : BitVec 2) (ns : List Nat) : (w.lastUse m lk ns).starved = w.starved := by
  unfold lastUse
  split
  · induction ns generalizing w with
    | nil => rfl
    | cons n ns ih => rw [List.foldl_cons, ih, Warp.setVec_starved]
  · rfl
@[simp] theorem Warp.lastUse_jobFails (w : Warp) (m : Mask) (lk : BitVec 2) (ns : List Nat) : (w.lastUse m lk ns).jobFails = w.jobFails := by
  unfold lastUse
  split
  · induction ns generalizing w with
    | nil => rfl
    | cons n ns ih => rw [List.foldl_cons, ih, Warp.setVec_jobFails]
  · rfl

/-! ### setCore -/

@[simp] theorem State.setCore_cur (s : State) (k : Core) : (s.setCore k).cur = s.cur := by
  unfold setCore; split <;> rfl
@[simp] theorem State.setCore_launches (s : State) (k : Core) : (s.setCore k).launches = s.launches := by
  unfold setCore; split <;> rfl
@[simp] theorem State.setCore_nextLaunch (s : State) (k : Core) : (s.setCore k).nextLaunch = s.nextLaunch := by
  unfold setCore; split <;> rfl
@[simp] theorem State.setCore_queues (s : State) (k : Core) : (s.setCore k).queues = s.queues := by
  unfold setCore; split <;> rfl
@[simp] theorem State.setCore_records (s : State) (k : Core) : (s.setCore k).records = s.records := by
  unfold setCore; split <;> rfl
@[simp] theorem State.setCore_signals (s : State) (k : Core) : (s.setCore k).signals = s.signals := by
  unfold setCore; split <;> rfl
@[simp] theorem State.setCore_levels (s : State) (k : Core) : (s.setCore k).levels = s.levels := by
  unfold setCore; split <;> rfl
@[simp] theorem State.setCore_placedNo (s : State) (k : Core) : (s.setCore k).placedNo = s.placedNo := by
  unfold setCore; split <;> rfl
@[simp] theorem State.setCore_rr (s : State) (k : Core) : (s.setCore k).rr = s.rr := by
  unfold setCore; split <;> rfl
@[simp] theorem State.setCore_placeDue (s : State) (k : Core) : (s.setCore k).placeDue = s.placeDue := by
  unfold setCore; split <;> rfl
@[simp] theorem State.setCore_home (s : State) (k : Core) : (s.setCore k).home = s.home := by
  unfold setCore; split <;> rfl
@[simp] theorem State.setCore_mgmt (s : State) (k : Core) : (s.setCore k).mgmt = s.mgmt := by
  unfold setCore; split <;> rfl
@[simp] theorem State.setCore_fabric (s : State) (k : Core) : (s.setCore k).fabric = s.fabric := by
  unfold setCore; split <;> rfl
@[simp] theorem State.setCore_geom (s : State) (k : Core) : (s.setCore k).geom = s.geom := by
  unfold setCore; split <;> rfl
@[simp] theorem State.setCore_coll (s : State) (k : Core) : (s.setCore k).coll = s.coll := by
  unfold setCore; split <;> rfl
@[simp] theorem State.setCore_shootdowns (s : State) (k : Core) : (s.setCore k).shootdowns = s.shootdowns := by
  unfold setCore; split <;> rfl
@[simp] theorem State.setCore_inputs (s : State) (k : Core) : (s.setCore k).inputs = s.inputs := by
  unfold setCore; split <;> rfl
@[simp] theorem State.setCore_waiting (s : State) (k : Core) : (s.setCore k).waiting = s.waiting := by
  unfold setCore; split <;> rfl
@[simp] theorem State.setCore_retryAt (s : State) (k : Core) : (s.setCore k).retryAt = s.retryAt := by
  unfold setCore; split <;> rfl
@[simp] theorem State.setCore_sched (s : State) (k : Core) : (s.setCore k).sched = s.sched := by
  unfold setCore; split <;> rfl
@[simp] theorem State.setCore_clock (s : State) (k : Core) : (s.setCore k).clock = s.clock := by
  unfold setCore; split <;> rfl
@[simp] theorem State.setCore_free (s : State) (k : Core) : (s.setCore k).free = s.free := by
  unfold setCore; split <;> rfl

/-! ### modCore -/

@[simp] theorem State.modCore_cur (s : State) (c : Nat) (f : Core → Core) : (s.modCore c f).cur = s.cur := by
  unfold modCore; simp
@[simp] theorem State.modCore_launches (s : State) (c : Nat) (f : Core → Core) : (s.modCore c f).launches = s.launches := by
  unfold modCore; simp
@[simp] theorem State.modCore_nextLaunch (s : State) (c : Nat) (f : Core → Core) : (s.modCore c f).nextLaunch = s.nextLaunch := by
  unfold modCore; simp
@[simp] theorem State.modCore_queues (s : State) (c : Nat) (f : Core → Core) : (s.modCore c f).queues = s.queues := by
  unfold modCore; simp
@[simp] theorem State.modCore_records (s : State) (c : Nat) (f : Core → Core) : (s.modCore c f).records = s.records := by
  unfold modCore; simp
@[simp] theorem State.modCore_signals (s : State) (c : Nat) (f : Core → Core) : (s.modCore c f).signals = s.signals := by
  unfold modCore; simp
@[simp] theorem State.modCore_levels (s : State) (c : Nat) (f : Core → Core) : (s.modCore c f).levels = s.levels := by
  unfold modCore; simp
@[simp] theorem State.modCore_placedNo (s : State) (c : Nat) (f : Core → Core) : (s.modCore c f).placedNo = s.placedNo := by
  unfold modCore; simp
@[simp] theorem State.modCore_rr (s : State) (c : Nat) (f : Core → Core) : (s.modCore c f).rr = s.rr := by
  unfold modCore; simp
@[simp] theorem State.modCore_placeDue (s : State) (c : Nat) (f : Core → Core) : (s.modCore c f).placeDue = s.placeDue := by
  unfold modCore; simp
@[simp] theorem State.modCore_home (s : State) (c : Nat) (f : Core → Core) : (s.modCore c f).home = s.home := by
  unfold modCore; simp
@[simp] theorem State.modCore_mgmt (s : State) (c : Nat) (f : Core → Core) : (s.modCore c f).mgmt = s.mgmt := by
  unfold modCore; simp
@[simp] theorem State.modCore_fabric (s : State) (c : Nat) (f : Core → Core) : (s.modCore c f).fabric = s.fabric := by
  unfold modCore; simp
@[simp] theorem State.modCore_geom (s : State) (c : Nat) (f : Core → Core) : (s.modCore c f).geom = s.geom := by
  unfold modCore; simp
@[simp] theorem State.modCore_coll (s : State) (c : Nat) (f : Core → Core) : (s.modCore c f).coll = s.coll := by
  unfold modCore; simp
@[simp] theorem State.modCore_shootdowns (s : State) (c : Nat) (f : Core → Core) : (s.modCore c f).shootdowns = s.shootdowns := by
  unfold modCore; simp
@[simp] theorem State.modCore_inputs (s : State) (c : Nat) (f : Core → Core) : (s.modCore c f).inputs = s.inputs := by
  unfold modCore; simp
@[simp] theorem State.modCore_waiting (s : State) (c : Nat) (f : Core → Core) : (s.modCore c f).waiting = s.waiting := by
  unfold modCore; simp
@[simp] theorem State.modCore_retryAt (s : State) (c : Nat) (f : Core → Core) : (s.modCore c f).retryAt = s.retryAt := by
  unfold modCore; simp
@[simp] theorem State.modCore_sched (s : State) (c : Nat) (f : Core → Core) : (s.modCore c f).sched = s.sched := by
  unfold modCore; simp
@[simp] theorem State.modCore_clock (s : State) (c : Nat) (f : Core → Core) : (s.modCore c f).clock = s.clock := by
  unfold modCore; simp
@[simp] theorem State.modCore_free (s : State) (c : Nat) (f : Core → Core) : (s.modCore c f).free = s.free := by
  unfold modCore; simp

/-! ### setWarp -/

@[simp] theorem State.setWarp_launches (s : State) (c : Nat) (w : Warp) : (s.setWarp c w).launches = s.launches := by
  unfold setWarp; split <;> simp
@[simp] theorem State.setWarp_nextLaunch (s : State) (c : Nat) (w : Warp) : (s.setWarp c w).nextLaunch = s.nextLaunch := by
  unfold setWarp; split <;> simp
@[simp] theorem State.setWarp_queues (s : State) (c : Nat) (w : Warp) : (s.setWarp c w).queues = s.queues := by
  unfold setWarp; split <;> simp
@[simp] theorem State.setWarp_records (s : State) (c : Nat) (w : Warp) : (s.setWarp c w).records = s.records := by
  unfold setWarp; split <;> simp
@[simp] theorem State.setWarp_signals (s : State) (c : Nat) (w : Warp) : (s.setWarp c w).signals = s.signals := by
  unfold setWarp; split <;> simp
@[simp] theorem State.setWarp_levels (s : State) (c : Nat) (w : Warp) : (s.setWarp c w).levels = s.levels := by
  unfold setWarp; split <;> simp
@[simp] theorem State.setWarp_placedNo (s : State) (c : Nat) (w : Warp) : (s.setWarp c w).placedNo = s.placedNo := by
  unfold setWarp; split <;> simp
@[simp] theorem State.setWarp_rr (s : State) (c : Nat) (w : Warp) : (s.setWarp c w).rr = s.rr := by
  unfold setWarp; split <;> simp
@[simp] theorem State.setWarp_placeDue (s : State) (c : Nat) (w : Warp) : (s.setWarp c w).placeDue = s.placeDue := by
  unfold setWarp; split <;> simp
@[simp] theorem State.setWarp_home (s : State) (c : Nat) (w : Warp) : (s.setWarp c w).home = s.home := by
  unfold setWarp; split <;> simp
@[simp] theorem State.setWarp_mgmt (s : State) (c : Nat) (w : Warp) : (s.setWarp c w).mgmt = s.mgmt := by
  unfold setWarp; split <;> simp
@[simp] theorem State.setWarp_fabric (s : State) (c : Nat) (w : Warp) : (s.setWarp c w).fabric = s.fabric := by
  unfold setWarp; split <;> simp
@[simp] theorem State.setWarp_geom (s : State) (c : Nat) (w : Warp) : (s.setWarp c w).geom = s.geom := by
  unfold setWarp; split <;> simp
@[simp] theorem State.setWarp_coll (s : State) (c : Nat) (w : Warp) : (s.setWarp c w).coll = s.coll := by
  unfold setWarp; split <;> simp
@[simp] theorem State.setWarp_shootdowns (s : State) (c : Nat) (w : Warp) : (s.setWarp c w).shootdowns = s.shootdowns := by
  unfold setWarp; split <;> simp
@[simp] theorem State.setWarp_inputs (s : State) (c : Nat) (w : Warp) : (s.setWarp c w).inputs = s.inputs := by
  unfold setWarp; split <;> simp
@[simp] theorem State.setWarp_waiting (s : State) (c : Nat) (w : Warp) : (s.setWarp c w).waiting = s.waiting := by
  unfold setWarp; split <;> simp
@[simp] theorem State.setWarp_retryAt (s : State) (c : Nat) (w : Warp) : (s.setWarp c w).retryAt = s.retryAt := by
  unfold setWarp; split <;> simp
@[simp] theorem State.setWarp_sched (s : State) (c : Nat) (w : Warp) : (s.setWarp c w).sched = s.sched := by
  unfold setWarp; split <;> simp
@[simp] theorem State.setWarp_clock (s : State) (c : Nat) (w : Warp) : (s.setWarp c w).clock = s.clock := by
  unfold setWarp; split <;> simp
@[simp] theorem State.setWarp_free (s : State) (c : Nat) (w : Warp) : (s.setWarp c w).free = s.free := by
  unfold setWarp; split <;> simp

/-! ### modWarp -/

@[simp] theorem State.modWarp_launches (s : State) (c slot : Nat) (f : Warp → Warp) : (s.modWarp c slot f).launches = s.launches := by
  unfold modWarp; split <;> simp
@[simp] theorem State.modWarp_nextLaunch (s : State) (c slot : Nat) (f : Warp → Warp) : (s.modWarp c slot f).nextLaunch = s.nextLaunch := by
  unfold modWarp; split <;> simp
@[simp] theorem State.modWarp_queues (s : State) (c slot : Nat) (f : Warp → Warp) : (s.modWarp c slot f).queues = s.queues := by
  unfold modWarp; split <;> simp
@[simp] theorem State.modWarp_records (s : State) (c slot : Nat) (f : Warp → Warp) : (s.modWarp c slot f).records = s.records := by
  unfold modWarp; split <;> simp
@[simp] theorem State.modWarp_signals (s : State) (c slot : Nat) (f : Warp → Warp) : (s.modWarp c slot f).signals = s.signals := by
  unfold modWarp; split <;> simp
@[simp] theorem State.modWarp_levels (s : State) (c slot : Nat) (f : Warp → Warp) : (s.modWarp c slot f).levels = s.levels := by
  unfold modWarp; split <;> simp
@[simp] theorem State.modWarp_placedNo (s : State) (c slot : Nat) (f : Warp → Warp) : (s.modWarp c slot f).placedNo = s.placedNo := by
  unfold modWarp; split <;> simp
@[simp] theorem State.modWarp_rr (s : State) (c slot : Nat) (f : Warp → Warp) : (s.modWarp c slot f).rr = s.rr := by
  unfold modWarp; split <;> simp
@[simp] theorem State.modWarp_placeDue (s : State) (c slot : Nat) (f : Warp → Warp) : (s.modWarp c slot f).placeDue = s.placeDue := by
  unfold modWarp; split <;> simp
@[simp] theorem State.modWarp_home (s : State) (c slot : Nat) (f : Warp → Warp) : (s.modWarp c slot f).home = s.home := by
  unfold modWarp; split <;> simp
@[simp] theorem State.modWarp_mgmt (s : State) (c slot : Nat) (f : Warp → Warp) : (s.modWarp c slot f).mgmt = s.mgmt := by
  unfold modWarp; split <;> simp
@[simp] theorem State.modWarp_fabric (s : State) (c slot : Nat) (f : Warp → Warp) : (s.modWarp c slot f).fabric = s.fabric := by
  unfold modWarp; split <;> simp
@[simp] theorem State.modWarp_geom (s : State) (c slot : Nat) (f : Warp → Warp) : (s.modWarp c slot f).geom = s.geom := by
  unfold modWarp; split <;> simp
@[simp] theorem State.modWarp_coll (s : State) (c slot : Nat) (f : Warp → Warp) : (s.modWarp c slot f).coll = s.coll := by
  unfold modWarp; split <;> simp
@[simp] theorem State.modWarp_shootdowns (s : State) (c slot : Nat) (f : Warp → Warp) : (s.modWarp c slot f).shootdowns = s.shootdowns := by
  unfold modWarp; split <;> simp
@[simp] theorem State.modWarp_inputs (s : State) (c slot : Nat) (f : Warp → Warp) : (s.modWarp c slot f).inputs = s.inputs := by
  unfold modWarp; split <;> simp
@[simp] theorem State.modWarp_waiting (s : State) (c slot : Nat) (f : Warp → Warp) : (s.modWarp c slot f).waiting = s.waiting := by
  unfold modWarp; split <;> simp
@[simp] theorem State.modWarp_retryAt (s : State) (c slot : Nat) (f : Warp → Warp) : (s.modWarp c slot f).retryAt = s.retryAt := by
  unfold modWarp; split <;> simp
@[simp] theorem State.modWarp_sched (s : State) (c slot : Nat) (f : Warp → Warp) : (s.modWarp c slot f).sched = s.sched := by
  unfold modWarp; split <;> simp
@[simp] theorem State.modWarp_clock (s : State) (c slot : Nat) (f : Warp → Warp) : (s.modWarp c slot f).clock = s.clock := by
  unfold modWarp; split <;> simp
@[simp] theorem State.modWarp_free (s : State) (c slot : Nat) (f : Warp → Warp) : (s.modWarp c slot f).free = s.free := by
  unfold modWarp; split <;> simp

/-! ### setBlock -/

@[simp] theorem State.setBlock_cur (s : State) (c : Nat) (b : Block) : (s.setBlock c b).cur = s.cur := by
  unfold setBlock; simp
@[simp] theorem State.setBlock_launches (s : State) (c : Nat) (b : Block) : (s.setBlock c b).launches = s.launches := by
  unfold setBlock; simp
@[simp] theorem State.setBlock_nextLaunch (s : State) (c : Nat) (b : Block) : (s.setBlock c b).nextLaunch = s.nextLaunch := by
  unfold setBlock; simp
@[simp] theorem State.setBlock_queues (s : State) (c : Nat) (b : Block) : (s.setBlock c b).queues = s.queues := by
  unfold setBlock; simp
@[simp] theorem State.setBlock_records (s : State) (c : Nat) (b : Block) : (s.setBlock c b).records = s.records := by
  unfold setBlock; simp
@[simp] theorem State.setBlock_signals (s : State) (c : Nat) (b : Block) : (s.setBlock c b).signals = s.signals := by
  unfold setBlock; simp
@[simp] theorem State.setBlock_levels (s : State) (c : Nat) (b : Block) : (s.setBlock c b).levels = s.levels := by
  unfold setBlock; simp
@[simp] theorem State.setBlock_placedNo (s : State) (c : Nat) (b : Block) : (s.setBlock c b).placedNo = s.placedNo := by
  unfold setBlock; simp
@[simp] theorem State.setBlock_rr (s : State) (c : Nat) (b : Block) : (s.setBlock c b).rr = s.rr := by
  unfold setBlock; simp
@[simp] theorem State.setBlock_placeDue (s : State) (c : Nat) (b : Block) : (s.setBlock c b).placeDue = s.placeDue := by
  unfold setBlock; simp
@[simp] theorem State.setBlock_home (s : State) (c : Nat) (b : Block) : (s.setBlock c b).home = s.home := by
  unfold setBlock; simp
@[simp] theorem State.setBlock_mgmt (s : State) (c : Nat) (b : Block) : (s.setBlock c b).mgmt = s.mgmt := by
  unfold setBlock; simp
@[simp] theorem State.setBlock_fabric (s : State) (c : Nat) (b : Block) : (s.setBlock c b).fabric = s.fabric := by
  unfold setBlock; simp
@[simp] theorem State.setBlock_geom (s : State) (c : Nat) (b : Block) : (s.setBlock c b).geom = s.geom := by
  unfold setBlock; simp
@[simp] theorem State.setBlock_coll (s : State) (c : Nat) (b : Block) : (s.setBlock c b).coll = s.coll := by
  unfold setBlock; simp
@[simp] theorem State.setBlock_shootdowns (s : State) (c : Nat) (b : Block) : (s.setBlock c b).shootdowns = s.shootdowns := by
  unfold setBlock; simp
@[simp] theorem State.setBlock_inputs (s : State) (c : Nat) (b : Block) : (s.setBlock c b).inputs = s.inputs := by
  unfold setBlock; simp
@[simp] theorem State.setBlock_waiting (s : State) (c : Nat) (b : Block) : (s.setBlock c b).waiting = s.waiting := by
  unfold setBlock; simp
@[simp] theorem State.setBlock_retryAt (s : State) (c : Nat) (b : Block) : (s.setBlock c b).retryAt = s.retryAt := by
  unfold setBlock; simp
@[simp] theorem State.setBlock_sched (s : State) (c : Nat) (b : Block) : (s.setBlock c b).sched = s.sched := by
  unfold setBlock; simp
@[simp] theorem State.setBlock_clock (s : State) (c : Nat) (b : Block) : (s.setBlock c b).clock = s.clock := by
  unfold setBlock; simp
@[simp] theorem State.setBlock_free (s : State) (c : Nat) (b : Block) : (s.setBlock c b).free = s.free := by
  unfold setBlock; simp

/-! ### modBlock -/

@[simp] theorem State.modBlock_cur (s : State) (c b : Nat) (f : Block → Block) : (s.modBlock c b f).cur = s.cur := by
  unfold modBlock; simp
@[simp] theorem State.modBlock_launches (s : State) (c b : Nat) (f : Block → Block) : (s.modBlock c b f).launches = s.launches := by
  unfold modBlock; simp
@[simp] theorem State.modBlock_nextLaunch (s : State) (c b : Nat) (f : Block → Block) : (s.modBlock c b f).nextLaunch = s.nextLaunch := by
  unfold modBlock; simp
@[simp] theorem State.modBlock_queues (s : State) (c b : Nat) (f : Block → Block) : (s.modBlock c b f).queues = s.queues := by
  unfold modBlock; simp
@[simp] theorem State.modBlock_records (s : State) (c b : Nat) (f : Block → Block) : (s.modBlock c b f).records = s.records := by
  unfold modBlock; simp
@[simp] theorem State.modBlock_signals (s : State) (c b : Nat) (f : Block → Block) : (s.modBlock c b f).signals = s.signals := by
  unfold modBlock; simp
@[simp] theorem State.modBlock_levels (s : State) (c b : Nat) (f : Block → Block) : (s.modBlock c b f).levels = s.levels := by
  unfold modBlock; simp
@[simp] theorem State.modBlock_placedNo (s : State) (c b : Nat) (f : Block → Block) : (s.modBlock c b f).placedNo = s.placedNo := by
  unfold modBlock; simp
@[simp] theorem State.modBlock_rr (s : State) (c b : Nat) (f : Block → Block) : (s.modBlock c b f).rr = s.rr := by
  unfold modBlock; simp
@[simp] theorem State.modBlock_placeDue (s : State) (c b : Nat) (f : Block → Block) : (s.modBlock c b f).placeDue = s.placeDue := by
  unfold modBlock; simp
@[simp] theorem State.modBlock_home (s : State) (c b : Nat) (f : Block → Block) : (s.modBlock c b f).home = s.home := by
  unfold modBlock; simp
@[simp] theorem State.modBlock_mgmt (s : State) (c b : Nat) (f : Block → Block) : (s.modBlock c b f).mgmt = s.mgmt := by
  unfold modBlock; simp
@[simp] theorem State.modBlock_fabric (s : State) (c b : Nat) (f : Block → Block) : (s.modBlock c b f).fabric = s.fabric := by
  unfold modBlock; simp
@[simp] theorem State.modBlock_geom (s : State) (c b : Nat) (f : Block → Block) : (s.modBlock c b f).geom = s.geom := by
  unfold modBlock; simp
@[simp] theorem State.modBlock_coll (s : State) (c b : Nat) (f : Block → Block) : (s.modBlock c b f).coll = s.coll := by
  unfold modBlock; simp
@[simp] theorem State.modBlock_shootdowns (s : State) (c b : Nat) (f : Block → Block) : (s.modBlock c b f).shootdowns = s.shootdowns := by
  unfold modBlock; simp
@[simp] theorem State.modBlock_inputs (s : State) (c b : Nat) (f : Block → Block) : (s.modBlock c b f).inputs = s.inputs := by
  unfold modBlock; simp
@[simp] theorem State.modBlock_waiting (s : State) (c b : Nat) (f : Block → Block) : (s.modBlock c b f).waiting = s.waiting := by
  unfold modBlock; simp
@[simp] theorem State.modBlock_retryAt (s : State) (c b : Nat) (f : Block → Block) : (s.modBlock c b f).retryAt = s.retryAt := by
  unfold modBlock; simp
@[simp] theorem State.modBlock_sched (s : State) (c b : Nat) (f : Block → Block) : (s.modBlock c b f).sched = s.sched := by
  unfold modBlock; simp
@[simp] theorem State.modBlock_clock (s : State) (c b : Nat) (f : Block → Block) : (s.modBlock c b f).clock = s.clock := by
  unfold modBlock; simp
@[simp] theorem State.modBlock_free (s : State) (c b : Nat) (f : Block → Block) : (s.modBlock c b f).free = s.free := by
  unfold modBlock; simp

/-! ### mapWarps -/

@[simp] theorem State.mapWarps_launches (s : State) (c : Nat) (f : Warp → Warp) : (s.mapWarps c f).launches = s.launches := by
  unfold mapWarps; dsimp only; split <;> simp
@[simp] theorem State.mapWarps_nextLaunch (s : State) (c : Nat) (f : Warp → Warp) : (s.mapWarps c f).nextLaunch = s.nextLaunch := by
  unfold mapWarps; dsimp only; split <;> simp
@[simp] theorem State.mapWarps_queues (s : State) (c : Nat) (f : Warp → Warp) : (s.mapWarps c f).queues = s.queues := by
  unfold mapWarps; dsimp only; split <;> simp
@[simp] theorem State.mapWarps_records (s : State) (c : Nat) (f : Warp → Warp) : (s.mapWarps c f).records = s.records := by
  unfold mapWarps; dsimp only; split <;> simp
@[simp] theorem State.mapWarps_signals (s : State) (c : Nat) (f : Warp → Warp) : (s.mapWarps c f).signals = s.signals := by
  unfold mapWarps; dsimp only; split <;> simp
@[simp] theorem State.mapWarps_levels (s : State) (c : Nat) (f : Warp → Warp) : (s.mapWarps c f).levels = s.levels := by
  unfold mapWarps; dsimp only; split <;> simp
@[simp] theorem State.mapWarps_placedNo (s : State) (c : Nat) (f : Warp → Warp) : (s.mapWarps c f).placedNo = s.placedNo := by
  unfold mapWarps; dsimp only; split <;> simp
@[simp] theorem State.mapWarps_rr (s : State) (c : Nat) (f : Warp → Warp) : (s.mapWarps c f).rr = s.rr := by
  unfold mapWarps; dsimp only; split <;> simp
@[simp] theorem State.mapWarps_placeDue (s : State) (c : Nat) (f : Warp → Warp) : (s.mapWarps c f).placeDue = s.placeDue := by
  unfold mapWarps; dsimp only; split <;> simp
@[simp] theorem State.mapWarps_home (s : State) (c : Nat) (f : Warp → Warp) : (s.mapWarps c f).home = s.home := by
  unfold mapWarps; dsimp only; split <;> simp
@[simp] theorem State.mapWarps_mgmt (s : State) (c : Nat) (f : Warp → Warp) : (s.mapWarps c f).mgmt = s.mgmt := by
  unfold mapWarps; dsimp only; split <;> simp
@[simp] theorem State.mapWarps_fabric (s : State) (c : Nat) (f : Warp → Warp) : (s.mapWarps c f).fabric = s.fabric := by
  unfold mapWarps; dsimp only; split <;> simp
@[simp] theorem State.mapWarps_geom (s : State) (c : Nat) (f : Warp → Warp) : (s.mapWarps c f).geom = s.geom := by
  unfold mapWarps; dsimp only; split <;> simp
@[simp] theorem State.mapWarps_coll (s : State) (c : Nat) (f : Warp → Warp) : (s.mapWarps c f).coll = s.coll := by
  unfold mapWarps; dsimp only; split <;> simp
@[simp] theorem State.mapWarps_shootdowns (s : State) (c : Nat) (f : Warp → Warp) : (s.mapWarps c f).shootdowns = s.shootdowns := by
  unfold mapWarps; dsimp only; split <;> simp
@[simp] theorem State.mapWarps_inputs (s : State) (c : Nat) (f : Warp → Warp) : (s.mapWarps c f).inputs = s.inputs := by
  unfold mapWarps; dsimp only; split <;> simp
@[simp] theorem State.mapWarps_waiting (s : State) (c : Nat) (f : Warp → Warp) : (s.mapWarps c f).waiting = s.waiting := by
  unfold mapWarps; dsimp only; split <;> simp
@[simp] theorem State.mapWarps_retryAt (s : State) (c : Nat) (f : Warp → Warp) : (s.mapWarps c f).retryAt = s.retryAt := by
  unfold mapWarps; dsimp only; split <;> simp
@[simp] theorem State.mapWarps_sched (s : State) (c : Nat) (f : Warp → Warp) : (s.mapWarps c f).sched = s.sched := by
  unfold mapWarps; dsimp only; split <;> simp
@[simp] theorem State.mapWarps_clock (s : State) (c : Nat) (f : Warp → Warp) : (s.mapWarps c f).clock = s.clock := by
  unfold mapWarps; dsimp only; split <;> simp
@[simp] theorem State.mapWarps_free (s : State) (c : Nat) (f : Warp → Warp) : (s.mapWarps c f).free = s.free := by
  unfold mapWarps; dsimp only; split <;> simp

/-! ### mapAllWarps -/

@[simp] theorem State.mapAllWarps_launches (s : State) (f : Nat → Warp → Warp) : (s.mapAllWarps f).launches = s.launches := rfl
@[simp] theorem State.mapAllWarps_nextLaunch (s : State) (f : Nat → Warp → Warp) : (s.mapAllWarps f).nextLaunch = s.nextLaunch := rfl
@[simp] theorem State.mapAllWarps_queues (s : State) (f : Nat → Warp → Warp) : (s.mapAllWarps f).queues = s.queues := rfl
@[simp] theorem State.mapAllWarps_records (s : State) (f : Nat → Warp → Warp) : (s.mapAllWarps f).records = s.records := rfl
@[simp] theorem State.mapAllWarps_signals (s : State) (f : Nat → Warp → Warp) : (s.mapAllWarps f).signals = s.signals := rfl
@[simp] theorem State.mapAllWarps_levels (s : State) (f : Nat → Warp → Warp) : (s.mapAllWarps f).levels = s.levels := rfl
@[simp] theorem State.mapAllWarps_placedNo (s : State) (f : Nat → Warp → Warp) : (s.mapAllWarps f).placedNo = s.placedNo := rfl
@[simp] theorem State.mapAllWarps_rr (s : State) (f : Nat → Warp → Warp) : (s.mapAllWarps f).rr = s.rr := rfl
@[simp] theorem State.mapAllWarps_placeDue (s : State) (f : Nat → Warp → Warp) : (s.mapAllWarps f).placeDue = s.placeDue := rfl
@[simp] theorem State.mapAllWarps_home (s : State) (f : Nat → Warp → Warp) : (s.mapAllWarps f).home = s.home := rfl
@[simp] theorem State.mapAllWarps_mgmt (s : State) (f : Nat → Warp → Warp) : (s.mapAllWarps f).mgmt = s.mgmt := rfl
@[simp] theorem State.mapAllWarps_fabric (s : State) (f : Nat → Warp → Warp) : (s.mapAllWarps f).fabric = s.fabric := rfl
@[simp] theorem State.mapAllWarps_geom (s : State) (f : Nat → Warp → Warp) : (s.mapAllWarps f).geom = s.geom := rfl
@[simp] theorem State.mapAllWarps_coll (s : State) (f : Nat → Warp → Warp) : (s.mapAllWarps f).coll = s.coll := rfl
@[simp] theorem State.mapAllWarps_shootdowns (s : State) (f : Nat → Warp → Warp) : (s.mapAllWarps f).shootdowns = s.shootdowns := rfl
@[simp] theorem State.mapAllWarps_inputs (s : State) (f : Nat → Warp → Warp) : (s.mapAllWarps f).inputs = s.inputs := rfl
@[simp] theorem State.mapAllWarps_waiting (s : State) (f : Nat → Warp → Warp) : (s.mapAllWarps f).waiting = s.waiting := rfl
@[simp] theorem State.mapAllWarps_retryAt (s : State) (f : Nat → Warp → Warp) : (s.mapAllWarps f).retryAt = s.retryAt := rfl
@[simp] theorem State.mapAllWarps_sched (s : State) (f : Nat → Warp → Warp) : (s.mapAllWarps f).sched = s.sched := rfl
@[simp] theorem State.mapAllWarps_clock (s : State) (f : Nat → Warp → Warp) : (s.mapAllWarps f).clock = s.clock := rfl
@[simp] theorem State.mapAllWarps_free (s : State) (f : Nat → Warp → Warp) : (s.mapAllWarps f).free = s.free := rfl

/-! ### removeWarp -/

@[simp] theorem State.removeWarp_launches (s : State) (c slot : Nat) : (s.removeWarp c slot).launches = s.launches := by
  unfold removeWarp; split <;> simp
@[simp] theorem State.removeWarp_nextLaunch (s : State) (c slot : Nat) : (s.removeWarp c slot).nextLaunch = s.nextLaunch := by
  unfold removeWarp; split <;> simp
@[simp] theorem State.removeWarp_queues (s : State) (c slot : Nat) : (s.removeWarp c slot).queues = s.queues := by
  unfold removeWarp; split <;> simp
@[simp] theorem State.removeWarp_records (s : State) (c slot : Nat) : (s.removeWarp c slot).records = s.records := by
  unfold removeWarp; split <;> simp
@[simp] theorem State.removeWarp_signals (s : State) (c slot : Nat) : (s.removeWarp c slot).signals = s.signals := by
  unfold removeWarp; split <;> simp
@[simp] theorem State.removeWarp_levels (s : State) (c slot : Nat) : (s.removeWarp c slot).levels = s.levels := by
  unfold removeWarp; split <;> simp
@[simp] theorem State.removeWarp_placedNo (s : State) (c slot : Nat) : (s.removeWarp c slot).placedNo = s.placedNo := by
  unfold removeWarp; split <;> simp
@[simp] theorem State.removeWarp_rr (s : State) (c slot : Nat) : (s.removeWarp c slot).rr = s.rr := by
  unfold removeWarp; split <;> simp
@[simp] theorem State.removeWarp_placeDue (s : State) (c slot : Nat) : (s.removeWarp c slot).placeDue = s.placeDue := by
  unfold removeWarp; split <;> simp
@[simp] theorem State.removeWarp_home (s : State) (c slot : Nat) : (s.removeWarp c slot).home = s.home := by
  unfold removeWarp; split <;> simp
@[simp] theorem State.removeWarp_mgmt (s : State) (c slot : Nat) : (s.removeWarp c slot).mgmt = s.mgmt := by
  unfold removeWarp; split <;> simp
@[simp] theorem State.removeWarp_fabric (s : State) (c slot : Nat) : (s.removeWarp c slot).fabric = s.fabric := by
  unfold removeWarp; split <;> simp
@[simp] theorem State.removeWarp_geom (s : State) (c slot : Nat) : (s.removeWarp c slot).geom = s.geom := by
  unfold removeWarp; split <;> simp
@[simp] theorem State.removeWarp_coll (s : State) (c slot : Nat) : (s.removeWarp c slot).coll = s.coll := by
  unfold removeWarp; split <;> simp
@[simp] theorem State.removeWarp_shootdowns (s : State) (c slot : Nat) : (s.removeWarp c slot).shootdowns = s.shootdowns := by
  unfold removeWarp; split <;> simp
@[simp] theorem State.removeWarp_inputs (s : State) (c slot : Nat) : (s.removeWarp c slot).inputs = s.inputs := by
  unfold removeWarp; split <;> simp
@[simp] theorem State.removeWarp_waiting (s : State) (c slot : Nat) : (s.removeWarp c slot).waiting = s.waiting := by
  unfold removeWarp; split <;> simp
@[simp] theorem State.removeWarp_retryAt (s : State) (c slot : Nat) : (s.removeWarp c slot).retryAt = s.retryAt := by
  unfold removeWarp; split <;> simp
@[simp] theorem State.removeWarp_sched (s : State) (c slot : Nat) : (s.removeWarp c slot).sched = s.sched := by
  unfold removeWarp; split <;> simp
@[simp] theorem State.removeWarp_clock (s : State) (c slot : Nat) : (s.removeWarp c slot).clock = s.clock := by
  unfold removeWarp; split <;> simp
@[simp] theorem State.removeWarp_free (s : State) (c slot : Nat) : (s.removeWarp c slot).free = s.free := by
  unfold removeWarp; split <;> simp

/-! ### setLaunch -/

@[simp] theorem State.setLaunch_cur (s : State) (l : Launch) : (s.setLaunch l).cur = s.cur := rfl
@[simp] theorem State.setLaunch_core (s : State) (l : Launch) : (s.setLaunch l).core = s.core := rfl
@[simp] theorem State.setLaunch_cores (s : State) (l : Launch) : (s.setLaunch l).cores = s.cores := rfl
@[simp] theorem State.setLaunch_nextLaunch (s : State) (l : Launch) : (s.setLaunch l).nextLaunch = s.nextLaunch := rfl
@[simp] theorem State.setLaunch_queues (s : State) (l : Launch) : (s.setLaunch l).queues = s.queues := rfl
@[simp] theorem State.setLaunch_records (s : State) (l : Launch) : (s.setLaunch l).records = s.records := rfl
@[simp] theorem State.setLaunch_signals (s : State) (l : Launch) : (s.setLaunch l).signals = s.signals := rfl
@[simp] theorem State.setLaunch_levels (s : State) (l : Launch) : (s.setLaunch l).levels = s.levels := rfl
@[simp] theorem State.setLaunch_placedNo (s : State) (l : Launch) : (s.setLaunch l).placedNo = s.placedNo := rfl
@[simp] theorem State.setLaunch_rr (s : State) (l : Launch) : (s.setLaunch l).rr = s.rr := rfl
@[simp] theorem State.setLaunch_placeDue (s : State) (l : Launch) : (s.setLaunch l).placeDue = s.placeDue := rfl
@[simp] theorem State.setLaunch_home (s : State) (l : Launch) : (s.setLaunch l).home = s.home := rfl
@[simp] theorem State.setLaunch_mgmt (s : State) (l : Launch) : (s.setLaunch l).mgmt = s.mgmt := rfl
@[simp] theorem State.setLaunch_fabric (s : State) (l : Launch) : (s.setLaunch l).fabric = s.fabric := rfl
@[simp] theorem State.setLaunch_geom (s : State) (l : Launch) : (s.setLaunch l).geom = s.geom := rfl
@[simp] theorem State.setLaunch_coll (s : State) (l : Launch) : (s.setLaunch l).coll = s.coll := rfl
@[simp] theorem State.setLaunch_shootdowns (s : State) (l : Launch) : (s.setLaunch l).shootdowns = s.shootdowns := rfl
@[simp] theorem State.setLaunch_inputs (s : State) (l : Launch) : (s.setLaunch l).inputs = s.inputs := rfl
@[simp] theorem State.setLaunch_waiting (s : State) (l : Launch) : (s.setLaunch l).waiting = s.waiting := rfl
@[simp] theorem State.setLaunch_retryAt (s : State) (l : Launch) : (s.setLaunch l).retryAt = s.retryAt := rfl
@[simp] theorem State.setLaunch_sched (s : State) (l : Launch) : (s.setLaunch l).sched = s.sched := rfl
@[simp] theorem State.setLaunch_clock (s : State) (l : Launch) : (s.setLaunch l).clock = s.clock := rfl
@[simp] theorem State.setLaunch_free (s : State) (l : Launch) : (s.setLaunch l).free = s.free := rfl

/-! ### modLaunch -/

@[simp] theorem State.modLaunch_cur (s : State) (id : Word) (f : Launch → Launch) : (s.modLaunch id f).cur = s.cur := rfl
@[simp] theorem State.modLaunch_core (s : State) (id : Word) (f : Launch → Launch) : (s.modLaunch id f).core = s.core := rfl
@[simp] theorem State.modLaunch_cores (s : State) (id : Word) (f : Launch → Launch) : (s.modLaunch id f).cores = s.cores := rfl
@[simp] theorem State.modLaunch_nextLaunch (s : State) (id : Word) (f : Launch → Launch) : (s.modLaunch id f).nextLaunch = s.nextLaunch := rfl
@[simp] theorem State.modLaunch_queues (s : State) (id : Word) (f : Launch → Launch) : (s.modLaunch id f).queues = s.queues := rfl
@[simp] theorem State.modLaunch_records (s : State) (id : Word) (f : Launch → Launch) : (s.modLaunch id f).records = s.records := rfl
@[simp] theorem State.modLaunch_signals (s : State) (id : Word) (f : Launch → Launch) : (s.modLaunch id f).signals = s.signals := rfl
@[simp] theorem State.modLaunch_levels (s : State) (id : Word) (f : Launch → Launch) : (s.modLaunch id f).levels = s.levels := rfl
@[simp] theorem State.modLaunch_placedNo (s : State) (id : Word) (f : Launch → Launch) : (s.modLaunch id f).placedNo = s.placedNo := rfl
@[simp] theorem State.modLaunch_rr (s : State) (id : Word) (f : Launch → Launch) : (s.modLaunch id f).rr = s.rr := rfl
@[simp] theorem State.modLaunch_placeDue (s : State) (id : Word) (f : Launch → Launch) : (s.modLaunch id f).placeDue = s.placeDue := rfl
@[simp] theorem State.modLaunch_home (s : State) (id : Word) (f : Launch → Launch) : (s.modLaunch id f).home = s.home := rfl
@[simp] theorem State.modLaunch_mgmt (s : State) (id : Word) (f : Launch → Launch) : (s.modLaunch id f).mgmt = s.mgmt := rfl
@[simp] theorem State.modLaunch_fabric (s : State) (id : Word) (f : Launch → Launch) : (s.modLaunch id f).fabric = s.fabric := rfl
@[simp] theorem State.modLaunch_geom (s : State) (id : Word) (f : Launch → Launch) : (s.modLaunch id f).geom = s.geom := rfl
@[simp] theorem State.modLaunch_coll (s : State) (id : Word) (f : Launch → Launch) : (s.modLaunch id f).coll = s.coll := rfl
@[simp] theorem State.modLaunch_shootdowns (s : State) (id : Word) (f : Launch → Launch) : (s.modLaunch id f).shootdowns = s.shootdowns := rfl
@[simp] theorem State.modLaunch_inputs (s : State) (id : Word) (f : Launch → Launch) : (s.modLaunch id f).inputs = s.inputs := rfl
@[simp] theorem State.modLaunch_waiting (s : State) (id : Word) (f : Launch → Launch) : (s.modLaunch id f).waiting = s.waiting := rfl
@[simp] theorem State.modLaunch_retryAt (s : State) (id : Word) (f : Launch → Launch) : (s.modLaunch id f).retryAt = s.retryAt := rfl
@[simp] theorem State.modLaunch_sched (s : State) (id : Word) (f : Launch → Launch) : (s.modLaunch id f).sched = s.sched := rfl
@[simp] theorem State.modLaunch_clock (s : State) (id : Word) (f : Launch → Launch) : (s.modLaunch id f).clock = s.clock := rfl
@[simp] theorem State.modLaunch_free (s : State) (id : Word) (f : Launch → Launch) : (s.modLaunch id f).free = s.free := rfl

/-! ### setQueue -/

@[simp] theorem State.setQueue_cur (s : State) (x : Queue) : (s.setQueue x).cur = s.cur := rfl
@[simp] theorem State.setQueue_core (s : State) (x : Queue) : (s.setQueue x).core = s.core := rfl
@[simp] theorem State.setQueue_cores (s : State) (x : Queue) : (s.setQueue x).cores = s.cores := rfl
@[simp] theorem State.setQueue_launches (s : State) (x : Queue) : (s.setQueue x).launches = s.launches := rfl
@[simp] theorem State.setQueue_nextLaunch (s : State) (x : Queue) : (s.setQueue x).nextLaunch = s.nextLaunch := rfl
@[simp] theorem State.setQueue_records (s : State) (x : Queue) : (s.setQueue x).records = s.records := rfl
@[simp] theorem State.setQueue_signals (s : State) (x : Queue) : (s.setQueue x).signals = s.signals := rfl
@[simp] theorem State.setQueue_levels (s : State) (x : Queue) : (s.setQueue x).levels = s.levels := rfl
@[simp] theorem State.setQueue_placedNo (s : State) (x : Queue) : (s.setQueue x).placedNo = s.placedNo := rfl
@[simp] theorem State.setQueue_rr (s : State) (x : Queue) : (s.setQueue x).rr = s.rr := rfl
@[simp] theorem State.setQueue_placeDue (s : State) (x : Queue) : (s.setQueue x).placeDue = s.placeDue := rfl
@[simp] theorem State.setQueue_home (s : State) (x : Queue) : (s.setQueue x).home = s.home := rfl
@[simp] theorem State.setQueue_mgmt (s : State) (x : Queue) : (s.setQueue x).mgmt = s.mgmt := rfl
@[simp] theorem State.setQueue_fabric (s : State) (x : Queue) : (s.setQueue x).fabric = s.fabric := rfl
@[simp] theorem State.setQueue_geom (s : State) (x : Queue) : (s.setQueue x).geom = s.geom := rfl
@[simp] theorem State.setQueue_coll (s : State) (x : Queue) : (s.setQueue x).coll = s.coll := rfl
@[simp] theorem State.setQueue_shootdowns (s : State) (x : Queue) : (s.setQueue x).shootdowns = s.shootdowns := rfl
@[simp] theorem State.setQueue_inputs (s : State) (x : Queue) : (s.setQueue x).inputs = s.inputs := rfl
@[simp] theorem State.setQueue_waiting (s : State) (x : Queue) : (s.setQueue x).waiting = s.waiting := rfl
@[simp] theorem State.setQueue_retryAt (s : State) (x : Queue) : (s.setQueue x).retryAt = s.retryAt := rfl
@[simp] theorem State.setQueue_sched (s : State) (x : Queue) : (s.setQueue x).sched = s.sched := rfl
@[simp] theorem State.setQueue_clock (s : State) (x : Queue) : (s.setQueue x).clock = s.clock := rfl
@[simp] theorem State.setQueue_free (s : State) (x : Queue) : (s.setQueue x).free = s.free := rfl

end Sys2Proof.Machine
end

