-- ==== Sys2Proof/Laws/Registers.lean ====
section
/-! SUPPORT. The registers of a warp read as functions: what each write of a register makes of them, and the repetitions of a group
that only writes registers. -/

namespace Sys2Proof.Laws

open Sys2Proof.Machine Sys2Proof.Safety

theorem getD_set {α : Type} {n : Nat} (v : Vector α n) (i : Nat) (x d : α) (h : i < n) (k : Nat) :
    (v.set i x h).getD k d = if k = i then x else v.getD k d := by
  have h1 : ∀ u : Vector α n, u.getD k d = if hk : k < n then u[k] else d := by
    intro u
    obtain ⟨a, rfl⟩ := u
    simp only [Vector.getD, Array.getD, Vector.getElem_mk]
    rfl
  rw [h1, h1]
  by_cases hk : k < n
  · simp only [hk, dite_true, Vector.getElem_set, eq_comm (a := i)]
  · have : k ≠ i := by omega
    simp [hk, this]

theorem v_setVec (w : Warp) {n : Nat} (h : n < 64) (m : Mask) (x : LaneVec) :
    (w.setVec n m x).v = w.v.set n (Vector.ofFn fun l : Fin 32 => if m.getLsbD l.val then x[l] else w.v[n][l]) := by
  unfold Warp.setVec; rw [dif_pos h]
theorem p_setP (w : Warp) {n : Nat} (h : n < 7) (m x : Mask) : (w.setP n m x).p = w.p.set n ((w.p[n] &&& ~~~m) ||| (x &&& m)) := by
  unfold Warp.setP; rw [dif_pos h]
theorem s_setS (w : Warp) {n : Nat} (h : n < 64) (x : Dword) : (w.setS n x).s = w.s.set n x := by
  unfold Warp.setS; rw [dif_pos h]
theorem t_setT (w : Warp) {n : Nat} (h : n < 8) (x : BitVec 128) : (w.setT n x).t = w.t.set n x := by
  unfold Warp.setT; rw [dif_pos h]

/-- A lane of a vector register after lanes of one are written. -/
theorem getV_setVec (w : Warp) (n : Nat) (m : Mask) (x : LaneVec) (k : Nat) (l : Fin 32) :
    (w.setVec n m x).getV k l = if k = n ∧ n < 64 ∧ m.getLsbD l.val = true then x[l] else w.getV k l := by
  by_cases h : n < 64
  · unfold Warp.getV Warp.vec
    rw [v_setVec w h, getD_set]
    by_cases hk : k = n
    · subst hk
      have e : w.v.getD k (Vector.replicate 32 0) = w.v[k] := by simp [Vector.getD, h]
      rw [e]
      simp [h]
    · simp [hk]
  · unfold Warp.setVec
    rw [dif_neg h]
    simp [h]

theorem getP_setP (w : Warp) (n : Nat) (m x : Mask) (k : Nat) :
    (w.setP n m x).getP k = if k = n ∧ n < 7 then (w.getP k &&& ~~~m) ||| (x &&& m) else w.getP k := by
  by_cases h : n < 7
  · unfold Warp.getP
    simp only [p_setP w h]
    by_cases hk : k = n
    · subst hk; simp [h]
    · by_cases hk2 : k < 7
      · simp [hk2, hk, Ne.symm hk]
      · simp [hk2, hk]
  · unfold Warp.setP
    rw [dif_neg h]
    simp [h]

theorem getS_setS (w : Warp) (n : Nat) (x : Dword) (k : Nat) : (w.setS n x).getS k = if k = n ∧ n < 64 then x else w.getS k := by
  by_cases h : n < 64
  · unfold Warp.getS; rw [s_setS w h, getD_set]; simp [h]
  · unfold Warp.setS; rw [dif_neg h]; simp [h]

theorem getT_setT (w : Warp) (n : Nat) (x : BitVec 128) (k : Nat) : (w.setT n x).getT k = if k = n ∧ n < 8 then x else w.getT k := by
  by_cases h : n < 8
  · unfold Warp.getT; rw [t_setT w h, getD_set]; simp [h]
  · unfold Warp.setT; rw [dif_neg h]; simp [h]

theorem regsOf_congr {w x : Warp} (hv : x.v = w.v) (hp : x.p = w.p) (hs : x.s = w.s) (ht : x.t = w.t) : regsOf x = regsOf w := by
  unfold regsOf Warp.getV Warp.vec Warp.getP Warp.getS Warp.getT
  rw [hv, hp, hs, ht]

theorem regsOf_setVec (w : Warp) {n : Nat} (hn : n < 64) (m : Mask) (x : LaneVec) :
    regsOf (w.setVec n m x) = (regsOf w).putV n m fun l => x[l] := by
  simp only [regsOf, Regs.putV, Regs.mk.injEq]
  refine ⟨?_, ?_, ?_, ?_⟩
  · funext k l; rw [getV_setVec]; simp [hn]
  · funext k; simp [Warp.getP]
  · funext k; simp [Warp.getS]
  · funext k; simp [Warp.getT]

theorem regsOf_setP (w : Warp) (n : Nat) (m x : Mask) : regsOf (w.setP n m x) = (regsOf w).putP n m x := by
  simp only [regsOf, Regs.putP, Regs.mk.injEq]
  refine ⟨?_, ?_, ?_, ?_⟩
  · funext k l; simp [Warp.getV, Warp.vec]
  · funext k; rw [getP_setP]
  · funext k; simp [Warp.getS]
  · funext k; simp [Warp.getT]

theorem regsOf_setS (w : Warp) {n : Nat} (hn : n < 64) (x : Dword) : regsOf (w.setS n x) = (regsOf w).putS n x := by
  simp only [regsOf, Regs.putS, Regs.mk.injEq]
  refine ⟨?_, ?_, ?_, ?_⟩
  · funext k l; simp [Warp.getV, Warp.vec]
  · funext k; simp [Warp.getP]
  · funext k; rw [getS_setS]; simp [hn]
  · funext k; simp [Warp.getT]

theorem regsOf_setT (w : Warp) {n : Nat} (hn : n < 8) (x : BitVec 128) : regsOf (w.setT n x) = (regsOf w).putT n x := by
  simp only [regsOf, Regs.putT, Regs.mk.injEq]
  refine ⟨?_, ?_, ?_, ?_⟩
  · funext k l; simp [Warp.getV, Warp.vec]
  · funext k; simp [Warp.getP]
  · funext k; simp [Warp.getS]
  · funext k; rw [getT_setT]; simp [hn]

theorem regsOf_lastUse (w : Warp) (m : Mask) (lk : BitVec 2) (ns : List Nat) (h : ∀ n ∈ ns, n < 64) :
    regsOf (w.lastUse m lk ns) = (regsOf w).lastUse m lk ns := by
  unfold Warp.lastUse Regs.lastUse
  split
  · induction ns generalizing w with
    | nil => rfl
    | cons n ns ih =>
      rw [List.foldl_cons, List.foldl_cons, ih _ fun k hk => h k (List.mem_cons_of_mem _ hk), regsOf_setVec _ (h n (List.mem_cons_self ..))]
      congr 2
      funext l
      simp [poisonValue]
  · rfl

theorem regsOf_goto (w : Warp) (m : Mask) (pc : Dword) : regsOf (w.goto m pc) = regsOf w :=
  regsOf_congr (by simp) (by simp) (by simp) (by simp)

/-- Two warps differ in their registers v, p, s and t at most. -/
def SameRest (w x : Warp) : Prop := x = { w with v := x.v, p := x.p, s := x.s, t := x.t }

theorem SameRest.refl (w : Warp) : SameRest w w := rfl
theorem SameRest.trans {w x y : Warp} (h : SameRest w x) (k : SameRest x y) : SameRest w y := by
  unfold SameRest at *
  rw [k, h]
theorem SameRest.setVec {w x : Warp} (h : SameRest w x) (n : Nat) (m : Mask) (y : LaneVec) : SameRest w (x.setVec n m y) :=
  h.trans (by unfold SameRest Warp.setVec; split <;> rfl)
theorem SameRest.setP {w x : Warp} (h : SameRest w x) (n : Nat) (m y : Mask) : SameRest w (x.setP n m y) :=
  h.trans (by unfold SameRest Warp.setP; split <;> rfl)
theorem SameRest.setS {w x : Warp} (h : SameRest w x) (n : Nat) (y : Dword) : SameRest w (x.setS n y) :=
  h.trans (by unfold SameRest Warp.setS; split <;> rfl)
theorem SameRest.setT {w x : Warp} (h : SameRest w x) (n : Nat) (y : BitVec 128) : SameRest w (x.setT n y) :=
  h.trans (by unfold SameRest Warp.setT; split <;> rfl)
theorem SameRest.lastUse {w x : Warp} (h : SameRest w x) (m : Mask) (lk : BitVec 2) (ns : List Nat) : SameRest w (x.lastUse m lk ns) := by
  unfold Warp.lastUse
  split
  · induction ns generalizing x with
    | nil => exact h
    | cons n ns ih => exact ih (h.setVec ..)
  · exact h

/-- The repetitions of a group that writes registers only: each keeps the rest of the warp and does to the registers what `F` says. -/
theorem performReps_spec {g : Grp} {one : Nat → Warp → Warp} {F : Nat → Regs → Regs} {w : Warp}
    (h : ∀ k < reps g, ∀ x, SameRest w x → SameRest w (one k x) ∧ regsOf (one k x) = F k (regsOf x)) :
    SameRest w (performReps g one w) ∧ regsOf (performReps g one w) = repeated F (reps g) (regsOf w) := by
  unfold performReps
  have key : ∀ n ≤ reps g, SameRest w ((List.range n).foldl (fun w i => one i w) w)
      ∧ regsOf ((List.range n).foldl (fun w i => one i w) w) = repeated F n (regsOf w) := by
    intro n hn
    induction n with
    | zero => exact ⟨.refl w, rfl⟩
    | succ n ih =>
      obtain ⟨h1, h2⟩ := ih (by omega)
      rw [List.range_succ, List.foldl_append]
      obtain ⟨h3, h4⟩ := h n (by omega) _ h1
      exact ⟨h3, by simp only [List.foldl_cons, List.foldl_nil, repeated, h4, h2]⟩
  exact key _ (Nat.le_refl _)

/-- A check of every repetition succeeds when each does (R188). -/
theorem checkReps_ok {g : Grp} {chk : Nat → Except Trap Unit} (h : ∀ k < reps g, chk k = .ok ()) : checkReps g chk = .ok () := by
  unfold checkReps
  have key : ∀ l : List Nat, (∀ k ∈ l, chk k = .ok ()) → l.forM chk = .ok () := by
    intro l hl
    induction l with
    | nil => rfl
    | cons a l ih =>
      show (chk a >>= fun _ => l.forM chk) = _
      rw [hl a (List.mem_cons_self ..)]
      exact ih fun k hk => hl k (List.mem_cons_of_mem _ hk)
  exact key _ fun k hk => h k (List.mem_range.1 hk)

theorem vRange_ok {w : Warp} {n : Nat} (h : HasV w n) : vRange w n 1 = .ok () := by
  unfold vRange
  have := h.1; have := h.2
  rw [if_neg (by omega), if_neg (by omega)]
theorem sRange_ok {n : Nat} (h : n < 64) : sRange n 1 = .ok () := by
  unfold sRange
  rw [if_neg (by omega)]
theorem pRange_ok {n : Nat} (h : n ≤ 7) : pRange n = .ok () := by
  unfold pRange
  rw [if_neg (by omega)]
theorem bRange_ok {w : Warp} {bu : BitVec 1} {n : Nat} (h : if bu = 1 then n < 64 else HasV w n) : bRange w bu n = .ok () := by
  unfold bRange
  split
  · rename_i e; rw [if_pos e] at h; exact sRange_ok h
  · rename_i e; rw [if_neg e] at h; exact vRange_ok h

end Sys2Proof.Laws
end

