-- ==== Sys2Proof/Laws/Perform.lean ====
section
/-! SUPPORT. What performing a group comes to: its end, its wait, its trap; a group that only writes registers; the repetitions of a
group. -/

namespace Sys2Proof.Laws

open Sys2Proof.Machine Sys2Proof.Safety

/-- A group that the issuing warp performs: what becomes of what its body answers. -/
theorem perform_runs {i : Instr} {body : State → State × Perf} {s : State} (h : Runs i s) :
    perform i body s = match body (begun i s) with
      | (t, .done) => .next (ended i s t)
      | (s, .raw) => .next (pumpRecords s)
      | (s, .wait w) => .next (pumpRecords { s with cur := { s.cur.park i with wait := w } })
      | (s, .trap t) => .next (pumpRecords (if t.held then { s with cur := { s.cur.park i with wait := .retry } } else takeTrap s t))
      | (s, .trapAfter t) => .next (pumpRecords (takeTrapAt s t s.cur.pc (some i.grp))) := by
  obtain ⟨h1, h2, h3, h4⟩ := h
  unfold perform
  have e : (!s.cur.present || decide (s.cur.executing = 0)) = false := by
    rw [h1, decide_eq_false h2]; rfl
  rw [e]
  simp only [Bool.false_eq_true, if_false]
  have hm : ({ s with cur := { s.cur with wait := Wait.none } } : State).cur.inMicro = s.cur.inMicro := rfl
  by_cases hi : s.cur.inMicro = true
  · have hf : microForbids { s.cur with wait := .none } i = false := h4 hi
    have hb : begun i s = { s with cur := { s.cur with wait := .none } } := by unfold begun; rw [if_pos hi]
    simp only [hm, hi, if_true, hf, Bool.and_false, Bool.false_eq_true, if_false, h3, hb]
    rfl
  · have hb : begun i s = { s with cur := { s.cur with wait := .none, base := some (encodeBase i), grp := i.grp } } := by
      unfold begun; rw [if_neg hi]
    have hi' : s.cur.inMicro = false := by simpa using hi
    have hm' : ({ s with cur := { s.cur with wait := Wait.none, base := some (encodeBase i), grp := i.grp } } : State).cur.inMicro = false := hi'
    simp only [hm, hi', Bool.false_eq_true, if_false, hm', Bool.false_and, h3, hb]
    rfl

theorem perform_done {i : Instr} {body : State → State × Perf} {s t : State} (h : Runs i s) (hb : body (begun i s) = (t, .done)) :
    perform i body s = .next (ended i s t) := by rw [perform_runs h, hb]
theorem perform_raw {i : Instr} {body : State → State × Perf} {s t : State} (h : Runs i s) (hb : body (begun i s) = (t, .raw)) :
    perform i body s = .next (pumpRecords t) := by rw [perform_runs h, hb]
theorem perform_wait {i : Instr} {body : State → State × Perf} {s t : State} {w : Wait} (h : Runs i s) (hb : body (begun i s) = (t, .wait w)) :
    perform i body s = .next (pumpRecords { t with cur := { t.cur.park i with wait := w } }) := by rw [perform_runs h, hb]
theorem perform_trap {i : Instr} {body : State → State × Perf} {s t : State} {x : Trap} (h : Runs i s) (hx : x.held = false)
    (hb : body (begun i s) = (t, .trap x)) :
    perform i body s = .next (pumpRecords (takeTrap t x)) := by rw [perform_runs h, hb]; simp only [hx, Bool.false_eq_true, if_false]
/-- A check that a home holds back makes the group come again (R69). -/
theorem perform_held {i : Instr} {body : State → State × Perf} {s t : State} {x : Trap} (h : Runs i s) (hx : x.held = true)
    (hb : body (begun i s) = (t, .trap x)) :
    perform i body s = .next (pumpRecords { t with cur := { t.cur.park i with wait := .retry } }) := by
  rw [perform_runs h, hb]; simp only [hx, if_true]
theorem perform_trapAfter {i : Instr} {body : State → State × Perf} {s t : State} {x : Trap} (h : Runs i s)
    (hb : body (begun i s) = (t, .trapAfter x)) :
    perform i body s = .next (pumpRecords (takeTrapAt t x t.cur.pc (some i.grp))) := by rw [perform_runs h, hb]

/-- Performing a group always leads to a next state. -/
theorem perform_next (i : Instr) (body : State → State × Perf) (s : State) : ∃ t, perform i body s = .next t := by
  unfold perform
  split
  · exact ⟨_, rfl⟩
  · dsimp only
    split <;> exact ⟨_, rfl⟩

/-! ### What the beginning of a performance leaves alone -/

theorem begun_cur (i : Instr) (s : State) : ∃ b g, (begun i s).cur = { s.cur with wait := .none, base := b, grp := g } := by
  unfold begun
  split
  · exact ⟨s.cur.base, s.cur.grp, rfl⟩
  · exact ⟨_, _, rfl⟩
theorem begun_eq (i : Instr) (s : State) : begun i s = { s with cur := (begun i s).cur } := by unfold begun; split <;> rfl
theorem begun_regs (i : Instr) (s : State) : regsOf (begun i s).cur = regsOf s.cur := by
  obtain ⟨b, g, h⟩ := begun_cur i s; rw [h]; rfl
theorem begun_executing (i : Instr) (s : State) : (begun i s).cur.executing = s.cur.executing := by
  obtain ⟨b, g, h⟩ := begun_cur i s; rw [h]; rfl
theorem begun_active (i : Instr) (s : State) (gr : Grp) : (begun i s).cur.active gr = s.cur.active gr := by
  obtain ⟨b, g, h⟩ := begun_cur i s; rw [h]; rfl
theorem begun_micro (i : Instr) (s : State) : (begun i s).cur.micro = s.cur.micro := by
  obtain ⟨b, g, h⟩ := begun_cur i s; rw [h]
theorem begun_vgran (i : Instr) (s : State) : (begun i s).cur.vgran = s.cur.vgran := by
  obtain ⟨b, g, h⟩ := begun_cur i s; rw [h]
theorem begun_nextPc (i : Instr) (s : State) (gr : Grp) : nextPc (begun i s).cur gr = nextPc s.cur gr := by
  obtain ⟨b, g, h⟩ := begun_cur i s; rw [h]; rfl

/-- The pump changes nothing when no record waits. -/
theorem pumpRecords_nil {s : State} (h : s.records = []) : pumpRecords s = s := by
  unfold pumpRecords; rw [h]; rfl

/-! ### Groups that only write registers -/

theorem goto_micro {w : Warp} {m : Micro} (h : w.micro = some m) (x : Mask) (pc : Dword) : w.goto x pc = w := by
  unfold Warp.goto; rw [h]
theorem goto_none {w : Warp} (h : w.micro = none) (x : Mask) (pc : Dword) :
    w.goto x pc = { w with lpc := Vector.ofFn fun l => if x.getLsbD l.val then Warp.pcOf pc else w.lpc[l] } := by
  unfold Warp.goto; rw [h]

/-- What the end of a group keeps of the warp slot's records. -/
theorem afterGroup_cur (i : Instr) (s : State) : ∃ a b c d e f g, afterGroup i s =
    { s with cur := { s.cur with parked := a, held := b, woken := c, resume := d, skipWatch := e, failed := f, wait := g } } := by
  unfold afterGroup
  split
  · exact ⟨s.cur.parked, s.cur.held, s.cur.woken, s.cur.resume, s.cur.skipWatch, s.cur.failed, s.cur.wait, rfl⟩
  · dsimp only
    generalize (_ && _ && outstanding _ _ _) = c
    cases c
    · exact ⟨_, _, _, _, _, _, s.cur.wait, rfl⟩
    · exact ⟨_, _, _, _, _, _, _, rfl⟩
/-- What a group performed leaves (R169): what its effect left, but for the warp slot's records and whether the warp leaves its lane set. -/
theorem ended_cur (i : Instr) (s t : State) : ∃ a b c d e f g h, ended i s t =
    pumpRecords { t with cur := { t.cur with parked := a, held := b, woken := c, resume := d, skipWatch := e, failed := f, wait := g, leaves := h } } := by
  obtain ⟨a, b, c, d, e, f, g, h⟩ := afterGroup_cur i t
  refine ⟨a, b, c, d, e, f, g, leavesNow i s.cur && t.cur.present, ?_⟩
  unfold ended
  rw [h]

/-- A warp operation that ends its group, having written registers only, is a group that runs to its end (R140, R188). -/
theorem writes_of {i : Instr} {gr : Grp} {s : State} {f : Warp → Except Trap Warp} {F : Nat → Regs → Regs}
    (he : exec i s = perform i (runWarp gr f) s) (hr : Runs i s) {w : Warp}
    (hf : f (begun i s).cur = .ok (retire gr (begun i s).cur w)) (hw : SameRest (begun i s).cur w)
    (hg : regsOf w = repeated F (reps gr) (regsOf (begun i s).cur)) : Writes i gr s F := by
  obtain ⟨b0, g0, hc⟩ := begun_cur i s
  have hmw : w.micro = s.cur.micro := by rw [hw]; show (begun i s).cur.micro = _; exact begun_micro i s
  cases hm : s.cur.micro with
  | none =>
    have hmw' : w.micro = none := hmw.trans hm
    have hret : retire gr (begun i s).cur w
        = { w with lpc := Vector.ofFn fun l => if s.cur.executing.getLsbD l.val then Warp.pcOf (nextPc s.cur gr) else w.lpc[l] } := by
      unfold retire
      rw [goto_none hmw', begun_executing, begun_nextPc]
    have hb : runWarp gr f (begun i s) = ({ begun i s with cur := retire gr (begun i s).cur w }, .done) := by
      unfold runWarp
      rw [hf]
      dsimp only
      have : (retire gr (begun i s).cur w).micro = none := by rw [hret]; exact hmw'
      rw [this]
    have hd := perform_done hr hb
    obtain ⟨a, b, c, d, e, k, k', k'', ha⟩ := ended_cur i s { begun i s with cur := retire gr (begun i s).cur w }
    have hn := he.trans (hd.trans (congrArg _ ha))
    refine ⟨_, hn, ?_, ?_, ?_, ?_⟩
    · unfold Advanced
      rw [hm, hret]
      refine ⟨hmw', fun l => ?_⟩
      simp only [Fin.getElem_fin, Vector.getElem_ofFn]
      split
      · rfl
      · rw [hw, hc]
    · unfold OnlyRegisters
      rw [hret, begun_eq, hw, hc]
    · rw [hret, ← begun_regs i s, ← hg]
      exact regsOf_congr rfl rfl rfl rfl
    · intro hrec
      refine ⟨pumpRecords_nil ?_, fun a => ?_⟩
      · show (begun i s).records = []
        rw [begun_eq]; exact hrec
      · show (begun i s).home.mem.get a = _
        rw [begun_eq]
  | some m =>
    have hmw' : w.micro = some m := hmw.trans hm
    have hret : retire gr (begun i s).cur w = w := by unfold retire; exact goto_micro hmw' _ _
    have hb : runWarp gr f (begun i s) = ({ begun i s with cur := { w with micro := some (m.past gr) } }, .done) := by
      unfold runWarp
      rw [hf, hret]
      dsimp only
      rw [hmw']
    have hd := perform_done hr hb
    obtain ⟨a, b, c, d, e, k, k', k'', ha⟩ := ended_cur i s { begun i s with cur := { w with micro := some (m.past gr) } }
    have hn := he.trans (hd.trans (congrArg _ ha))
    refine ⟨_, hn, ?_, ?_, ?_, ?_⟩
    · unfold Advanced
      rw [hm]
      refine ⟨rfl, ?_⟩
      show w.lpc = _
      rw [hw, hc]
    · unfold OnlyRegisters
      rw [begun_eq, hw, hc]
    · rw [← begun_regs i s, ← hg]
      exact regsOf_congr rfl rfl rfl rfl
    · intro hrec
      refine ⟨pumpRecords_nil ?_, fun a => ?_⟩
      · show (begun i s).records = []
        rw [begun_eq]; exact hrec
      · show (begun i s).home.mem.get a = _
        rw [begun_eq]

/-! ### The repetitions of a group -/

/-- Repetitions that are each performed lead on, as `Repeats` says (R188). -/
theorem runRepsFrom_of {one : Nat → State → State × Perf} {R : Nat → State → State → Prop} (h : ∀ k s t, R k s t → one k s = (t, .done)) :
    ∀ n k s t, Repeats R n k s t → runRepsFrom one n k s = (t, .done) := by
  intro n
  induction n with
  | zero => intro k s t hr; rw [show t = s from hr]; rfl
  | succ n ih =>
    intro k s t hr
    cases n with
    | zero =>
      obtain ⟨u, h1, rfl⟩ := hr
      simp only [runRepsFrom, h k s u h1, if_true]
    | succ n =>
      obtain ⟨u, h1, h2, h3⟩ := hr
      rw [runRepsFrom, h k s u h1]
      dsimp only
      rw [if_neg (by omega)]
      have hw : ({ u.cur.setRep (k + 1) with woken := false } : Warp).wait = .none := h2
      rw [if_neg (by simpa using hw)]
      exact ih _ _ _ h3

theorem runReps_of {gr : Grp} {one : Nat → State → State × Perf} {R : Nat → State → State → Prop} {s t : State}
    (h : ∀ k s t, R k s t → one k s = (t, .done)) (hp : Performs gr R s t) : runReps gr one s = (t, .done) :=
  runRepsFrom_of h _ _ _ _ hp

end Sys2Proof.Laws
end

