-- ==== Sys2Proof/Laws/Ends.lean ====
section
/-! SUPPORT. How a group that acts on the machine ends, and the masks of lanes. -/

namespace Sys2Proof.Laws

open Sys2Proof.Machine Sys2Proof.Safety

/-- A group whose body is done ends in the state the body leaves. -/
theorem ends_done {i : Instr} {body : State → State × Perf} {s t : State} (he : exec i s = perform i body s) (h : Runs i s)
    (hb : body (begun i s) = (t, .done)) : Ends i s t := he.trans (perform_done h hb)

theorem past_none {g : Grp} {s : State} (h : s.cur.micro = none) : past g s = { s with cur := { s.cur with
    lpc := Vector.ofFn fun l => if s.cur.executing.getLsbD l.val then Warp.pcOf (nextPc s.cur g) else s.cur.lpc[l] } } := by
  unfold past; split
  · rfl
  · rename_i e; rw [h] at e; cases e
theorem past_some {g : Grp} {s : State} {m : Micro} (h : s.cur.micro = some m) :
    past g s = { s with cur := { s.cur with micro := some (m.past g) } } := by
  unfold past; split
  · rename_i e; rw [h] at e; cases e
  · rename_i e; rw [h] at e; cases e; rfl
theorem endGroup_past (g : Grp) : endGroup g = past g := by
  funext s
  cases h : s.cur.micro with
  | none =>
    rw [past_none h]; unfold endGroup; dsimp only
    split
    · rename_i e; rw [h] at e; cases e
    · rw [goto_none h]
  | some m =>
    rw [past_some h]; unfold endGroup; dsimp only
    split
    · rename_i e; rw [h] at e; cases e; rfl
    · rename_i e; rw [h] at e; cases e

theorem foldl_bits (f : Fin 32 → Bool) (l : List (Fin 32)) (hl : l.Pairwise (fun a b => a.val < b.val)) (a n : Nat) (ha : a < 2 ^ n)
    (hn : ∀ x ∈ l, n ≤ x.val) (k : Nat) :
    (l.foldl (fun a l => if f l then a + 2 ^ l.val else a) a).testBit k = (a.testBit k || l.any fun x => x.val = k && f x) := by
  induction l generalizing a n with
  | nil => simp
  | cons x l ih =>
    have hx := hn x (List.mem_cons_self ..)
    have hp := List.pairwise_cons.1 hl
    have h2 : 2 ^ n ≤ 2 ^ x.val := Nat.pow_le_pow_right (by omega) hx
    have h3 : 2 ^ (x.val + 1) = 2 ^ x.val + 2 ^ x.val := by rw [Nat.pow_succ]; omega
    rw [List.foldl_cons, ih hp.2 _ (x.val + 1) (by split <;> omega) fun y hy => hp.1 y hy]
    simp only [List.any_cons]
    cases hf : f x
    · simp
    · simp only [if_true, Bool.and_true]
      rw [Nat.add_comm]
      rcases Nat.lt_trichotomy k x.val with h | h | h
      · rw [Nat.testBit_two_pow_add_gt h, decide_eq_false (by omega)]; simp
      · subst h
        rw [Nat.testBit_two_pow_add_eq, Nat.testBit_lt_two_pow (Nat.lt_of_lt_of_le ha h2)]; simp
      · have h4 : 2 ^ (x.val + 1) ≤ 2 ^ k := Nat.pow_le_pow_right (by omega) h
        rw [Nat.testBit_lt_two_pow (by omega), Nat.testBit_lt_two_pow (by omega), decide_eq_false (by omega)]; simp

/-- A bit of a mask of lanes is its lane's test. -/
theorem getLsbD_maskOf (f : Fin 32 → Bool) (k : Nat) (h : k < 32) : (maskOf f).getLsbD k = f ⟨k, h⟩ := by
  unfold maskOf
  rw [BitVec.getLsbD_ofNat, foldl_bits f lanes (by decide) 0 0 (by decide) (by simp) k]
  simp only [h, decide_true, Nat.zero_testBit, Bool.false_or, Bool.true_and]
  rw [Bool.eq_iff_iff, List.any_eq_true]
  constructor
  · rintro ⟨x, -, hx⟩
    simp only [Bool.and_eq_true, decide_eq_true_eq] at hx
    obtain ⟨rfl, h2⟩ := hx
    exact h2
  · intro hf
    exact ⟨⟨k, h⟩, by simp [lanes], by simpa using hf⟩
/-- A mask of lanes is given by its bits. -/
theorem eq_maskOf {m : Mask} {f : Fin 32 → Bool} (h : ∀ l : Fin 32, m.getLsbD l.val = f l) : m = maskOf f := by
  apply BitVec.eq_of_getLsbD_eq
  intro i hi
  rw [getLsbD_maskOf f i hi]; exact h ⟨i, hi⟩

end Sys2Proof.Laws
end

