-- ==== Sys2Proof/Laws/Memory.lean ====
section
/-! SUPPORT. Memories: what a byte reads after a store, that stores keep the canonical form, that equal bytes are equal data; little-endian
numbers and their bytes. -/

namespace Sys2Proof.Laws

open Sys2Proof.Machine

/-! ## Little-endian numbers -/

@[simp] theorem leBytes_length (n x : Nat) : (leBytes n x).length = n := by
  induction n generalizing x with
  | zero => rfl
  | succ n ih => simp [leBytes, ih]

theorem leNat_leBytes (n x : Nat) : leNat (leBytes n x) = x % 256 ^ n := by
  induction n generalizing x with
  | zero => simp [leBytes, leNat, Nat.mod_one]
  | succ n ih =>
    have h : (BitVec.ofNat 8 x).toNat = x % 256 := BitVec.toNat_ofNat x 8
    simp only [leBytes, leNat, ih, h]
    rw [Nat.pow_succ, Nat.mul_comm (256 ^ n) 256, Nat.mod_mul]

theorem leNat_lt (l : List Byte) : leNat l < 256 ^ l.length := by
  induction l with
  | nil => simp [leNat]
  | cons b r ih =>
    have hb := b.isLt
    simp only [leNat, List.length_cons, Nat.pow_succ]
    omega

theorem leBytes_leNat (l : List Byte) : leBytes l.length (leNat l) = l := by
  induction l with
  | nil => rfl
  | cons b r ih =>
    have hb := b.isLt
    have h1 : (b.toNat + 256 * leNat r) / 256 = leNat r := by omega
    simp only [leNat, List.length_cons, leBytes, h1, ih, List.cons.injEq, and_true]
    apply BitVec.eq_of_toNat_eq
    rw [BitVec.toNat_ofNat]; omega

/-! ## One byte -/

/-- Another byte than the stored one reads as before, in any memory. -/
theorem get_set_other {m : Memory} {a k : Nat} (b : Byte) (h : k ≠ a) : (m.set a b).get k = m.get k := by
  induction m with
  | nil =>
    simp only [Memory.set]
    split
    · rfl
    · simp [Memory.get, Ne.symm h]
  | cons c r ih =>
    obtain ⟨x, c⟩ := c
    simp only [Memory.set]
    split
    · split
      · rfl
      · simp [Memory.get, Ne.symm h]
    · split
      · rename_i hx; subst hx
        split
        · simp [Memory.get, Ne.symm h]
        · simp [Memory.get, Ne.symm h]
      · simp only [Memory.get, ih]

/-- Everything listed in a canonical memory stands at the first address or above it. -/
theorem get_below {m : Memory} {x : Nat} {b : Byte} (h : Memory.wf ((x, b) :: m) = true) {k : Nat} (hk : k ≤ x) : m.get k = 0 := by
  induction m generalizing x b with
  | nil => rfl
  | cons c r ih =>
    obtain ⟨y, c⟩ := c
    simp only [Memory.wf, Bool.and_eq_true, decide_eq_true_eq] at h
    simp only [Memory.get]
    rw [if_neg (by omega)]
    exact ih h.2 (by omega)

theorem wf_tail {m : Memory} {x : Nat} {b : Byte} (h : Memory.wf ((x, b) :: m) = true) : m.wf = true := by
  cases m with
  | nil => rfl
  | cons c r => obtain ⟨y, c⟩ := c; simp only [Memory.wf, Bool.and_eq_true] at h; exact h.2
theorem wf_head {m : Memory} {x : Nat} {b : Byte} (h : Memory.wf ((x, b) :: m) = true) : b ≠ 0 := by
  cases m with
  | nil => simpa [Memory.wf] using h
  | cons c r => obtain ⟨y, c⟩ := c; simp only [Memory.wf, Bool.and_eq_true, decide_eq_true_eq] at h; exact h.1.1
/-- A canonical memory behind a lower listed byte is canonical. -/
theorem wf_cons {m : Memory} {x : Nat} {b : Byte} (hb : b ≠ 0) (hm : m.wf = true) (h : ∀ c ∈ m, x < c.1) : Memory.wf ((x, b) :: m) = true := by
  cases m with
  | nil => exact decide_eq_true hb
  | cons c r =>
    obtain ⟨y, c⟩ := c
    have := h (y, c) (List.mem_cons_self ..)
    simp only [Memory.wf, Bool.and_eq_true, decide_eq_true_eq]
    exact ⟨⟨hb, this⟩, hm⟩
theorem wf_above {m : Memory} {x : Nat} {b : Byte} (h : Memory.wf ((x, b) :: m) = true) : ∀ c ∈ m, x < c.1 := by
  induction m generalizing x b with
  | nil => intro c hc; cases hc
  | cons e r ih =>
    obtain ⟨y, e⟩ := e
    simp only [Memory.wf, Bool.and_eq_true, decide_eq_true_eq] at h
    intro c hc
    rcases List.mem_cons.1 hc with rfl | hc
    · exact h.1.2
    · exact Nat.lt_trans h.1.2 (ih h.2 c hc)

/-- The stored byte reads back. -/
theorem get_set_same {m : Memory} (hm : m.wf = true) (a : Nat) (b : Byte) : (m.set a b).get a = b := by
  induction m with
  | nil =>
    simp only [Memory.set]
    split
    · rename_i h; simp [Memory.get, h]
    · simp [Memory.get]
  | cons c r ih =>
    obtain ⟨x, c⟩ := c
    simp only [Memory.set]
    split
    · rename_i hx
      split
      · rename_i hb
        simp only [Memory.get]
        rw [if_neg (by omega), get_below hm (by omega), hb]
      · simp [Memory.get]
    · split
      · rename_i hx; subst hx
        split
        · rename_i hb; rw [get_below hm (Nat.le_refl _), hb]
        · simp [Memory.get]
      · rename_i h1 h2
        simp only [Memory.get]
        rw [if_neg (fun e => h2 e.symm)]
        exact ih (wf_tail hm)

theorem mem_set {m : Memory} {a : Nat} {b : Byte} {c : Nat × Byte} (h : c ∈ m.set a b) : c ∈ m ∨ (c = (a, b) ∧ b ≠ 0) := by
  induction m with
  | nil =>
    simp only [Memory.set] at h
    split at h
    · cases h
    · rename_i hb; exact .inr ⟨by simpa using h, hb⟩
  | cons e r ih =>
    obtain ⟨x, e⟩ := e
    simp only [Memory.set] at h
    split at h
    · split at h
      · exact .inl h
      · rename_i hb
        rcases List.mem_cons.1 h with h | h
        · exact .inr ⟨h, hb⟩
        · exact .inl h
    · split at h
      · split at h
        · exact .inl (List.mem_cons_of_mem _ h)
        · rename_i hb
          rcases List.mem_cons.1 h with h | h
          · exact .inr ⟨h, hb⟩
          · exact .inl (List.mem_cons_of_mem _ h)
      · rcases List.mem_cons.1 h with h | h
        · exact .inl (h ▸ List.mem_cons_self ..)
        · rcases ih h with h | h
          · exact .inl (List.mem_cons_of_mem _ h)
          · exact .inr h

/-- A store of a byte keeps the canonical form. -/
theorem set_wf {m : Memory} (hm : m.wf = true) (a : Nat) (b : Byte) : (m.set a b).wf = true := by
  induction m with
  | nil =>
    simp only [Memory.set]
    split
    · rfl
    · rename_i h; exact decide_eq_true h
  | cons c r ih =>
    obtain ⟨x, c⟩ := c
    simp only [Memory.set]
    split
    · rename_i hx
      split
      · exact hm
      · rename_i hb
        refine wf_cons hb hm fun e he => ?_
        rcases List.mem_cons.1 he with rfl | he
        · exact hx
        · exact Nat.lt_trans hx (wf_above hm e he)
    · split
      · rename_i hx; subst hx
        split
        · exact wf_tail hm
        · rename_i hb; exact wf_cons hb (wf_tail hm) (wf_above hm)
      · rename_i h1 h2
        refine wf_cons (wf_head hm) (ih (wf_tail hm)) fun e he => ?_
        rcases mem_set he with he | ⟨rfl, _⟩
        · exact wf_above hm e he
        · dsimp only; omega

/-! ## Ranges -/

@[simp] theorem put_nil (m : Memory) (a : Nat) : m.put a [] = m := rfl

/-- A store keeps the canonical form. -/
theorem put_wf {m : Memory} (hm : m.wf = true) (a : Nat) (d : List Byte) : (m.put a d).wf = true := by
  induction d generalizing m a with
  | nil => exact hm
  | cons b r ih => exact ih (set_wf hm a b) (a + 1)

/-- A byte outside the stored range reads as before, in any memory. -/
theorem get_put_other {m : Memory} {a k : Nat} (d : List Byte) (h : k < a ∨ a + d.length ≤ k) : (m.put a d).get k = m.get k := by
  induction d generalizing m a with
  | nil => rfl
  | cons b r ih =>
    simp only [List.length_cons] at h
    simp only [Memory.put]
    rw [ih (by omega), get_set_other b (by omega)]

/-- A byte of the stored range reads as it was stored. -/
theorem get_put_same {m : Memory} (hm : m.wf = true) (a : Nat) (d : List Byte) (k : Nat) (h : k < d.length) :
    (m.put a d).get (a + k) = d[k] := by
  induction d generalizing m a k with
  | nil => cases h
  | cons b r ih =>
    simp only [Memory.put]
    cases k with
    | zero => rw [get_put_other r (by omega)]; exact get_set_same hm a b
    | succ k =>
      rw [show a + (k + 1) = a + 1 + k by omega, ih (set_wf hm a b) (a + 1) k (by simpa using h)]
      rfl

/-- Two stores side by side are one. -/
theorem put_append (m : Memory) (a : Nat) (d e : List Byte) : m.put a (d ++ e) = (m.put a d).put (a + d.length) e := by
  induction d generalizing m a with
  | nil => rfl
  | cons b r ih =>
    simp only [List.cons_append, Memory.put, List.length_cons, ih]
    rw [show a + 1 + r.length = a + (r.length + 1) by omega]

@[simp] theorem bytes_length (m : Memory) (a n : Nat) : (m.bytes a n).length = n := by
  induction n generalizing a with
  | zero => rfl
  | succ n ih => simp [Memory.bytes, ih]

theorem bytes_append (m : Memory) (a n k : Nat) : m.bytes a (n + k) = m.bytes a n ++ m.bytes (a + n) k := by
  induction n generalizing a with
  | zero => simp [Memory.bytes]
  | succ n ih =>
    rw [show n + 1 + k = (n + k) + 1 by omega]
    simp only [Memory.bytes, ih, List.cons_append]
    rw [show a + 1 + n = a + (n + 1) by omega]

/-- Memories that agree on a range give the same bytes of it. -/
theorem bytes_congr {m m' : Memory} {a n : Nat} (h : ∀ k, a ≤ k → k < a + n → m.get k = m'.get k) : m.bytes a n = m'.bytes a n := by
  induction n generalizing a with
  | zero => rfl
  | succ n ih =>
    simp only [Memory.bytes]
    rw [h a (by omega) (by omega), ih fun k h1 h2 => h k (by omega) (by omega)]

/-- What was stored reads back. -/
theorem bytes_put_same {m : Memory} (hm : m.wf = true) (a : Nat) (d : List Byte) : (m.put a d).bytes a d.length = d := by
  induction d generalizing m a with
  | nil => rfl
  | cons b r ih =>
    simp only [Memory.put, List.length_cons, Memory.bytes]
    rw [ih (set_wf hm a b) (a + 1), get_put_other r (by omega), get_set_same hm a b]

/-- A range that a store does not touch reads as before. -/
theorem bytes_put_other {m : Memory} {a k n : Nat} (d : List Byte) (h : k + n ≤ a ∨ a + d.length ≤ k) : (m.put a d).bytes k n = m.bytes k n :=
  bytes_congr fun x h1 h2 => get_put_other d (by omega)

theorem nat_put_same {m : Memory} (hm : m.wf = true) (a n x : Nat) : (m.put a (leBytes n x)).nat a n = x % 256 ^ n := by
  have := bytes_put_same hm a (leBytes n x)
  rw [leBytes_length] at this
  rw [Memory.nat, this, leNat_leBytes]
theorem nat_put_other {m : Memory} {a k n : Nat} (d : List Byte) (h : k + n ≤ a ∨ a + d.length ≤ k) : (m.put a d).nat k n = m.nat k n := by
  simp only [Memory.nat, bytes_put_other d h]

/-- Storing bytes that a memory already holds leaves it as it is. -/
theorem set_self {m : Memory} (hm : m.wf = true) {a : Nat} {b : Byte} (h : m.get a = b) : m.set a b = m := by
  induction m with
  | nil => simp only [Memory.get] at h; simp [Memory.set, h.symm]
  | cons c r ih =>
    obtain ⟨x, c⟩ := c
    simp only [Memory.get] at h
    simp only [Memory.set]
    split
    · rename_i hx
      rw [if_neg (by omega), get_below hm (by omega)] at h
      rw [if_pos h.symm]
    · split
      · rename_i hx; subst hx
        rw [if_pos rfl] at h; subst h
        rw [if_neg (wf_head hm)]
      · rename_i h1 h2
        rw [if_neg (fun e => h2 e.symm)] at h
        rw [ih (wf_tail hm) h]

/-- Canonical memories with equal bytes are equal. -/
theorem memory_ext {m n : Memory} (hm : m.wf = true) (hn : n.wf = true) (h : ∀ a, m.get a = n.get a) : m = n := by
  induction m generalizing n with
  | nil =>
    cases n with
    | nil => rfl
    | cons c r =>
      obtain ⟨x, c⟩ := c
      have := h x
      simp only [Memory.get, if_pos] at this
      exact absurd this.symm (wf_head hn)
  | cons c r ih =>
    obtain ⟨x, c⟩ := c
    cases n with
    | nil =>
      have := h x
      simp only [Memory.get, if_pos] at this
      exact absurd this (wf_head hm)
    | cons e q =>
      obtain ⟨y, e⟩ := e
      have hxy : x = y := by
        rcases Nat.lt_trichotomy x y with hl | hl | hl
        · have := h x
          simp only [Memory.get, if_pos] at this
          rw [if_neg (by omega), get_below hn (by omega)] at this
          exact absurd this (wf_head hm)
        · exact hl
        · have := h y
          simp only [Memory.get, if_pos] at this
          rw [if_neg (by omega), get_below hm (by omega)] at this
          exact absurd this.symm (wf_head hn)
      subst hxy
      have hce : c = e := by have := h x; simpa [Memory.get] using this
      subst hce
      rw [ih (wf_tail hm) (wf_tail hn) fun a => ?_]
      rcases Nat.lt_trichotomy a x with hl | hl | hl
      · rw [get_below hm (by omega), get_below hn (by omega)]
      · subst hl; rw [get_below hm (by omega), get_below hn (by omega)]
      · have := h a
        simpa only [Memory.get, if_neg (show ¬ x = a by omega)] using this

end Sys2Proof.Laws
end

