-- ==== Sys2Proof/Laws/Operands.lean ====
section
/-! SUPPORT. The operand shapes: what the operation of each does to a warp's registers when its registers are ones the warp holds, and
the group that performs it. -/

namespace Sys2Proof.Laws

open Sys2Proof.Machine Sys2Proof.Safety

theorem lastUse_zero (r : Regs) (m : Mask) (ns : List Nat) : r.lastUse m 0 ns = r := rfl

theorem getB_regs (w : Warp) (bu : BitVec 1) (n : Nat) (l : Fin 32) : w.getB bu n l = (regsOf w).b bu n l := rfl

theorem getV_regs (w : Warp) (n : Nat) (l : Fin 32) : w.getV n l = (regsOf w).v n l := rfl

theorem lt64_of_hasV {w : Warp} {n : Nat} (h : HasV w n) : n < 64 := h.1

theorem single_lt {n m : Nat} (h : n < 64) : m ∈ [n] → m < 64 := by
  intro hm; rw [List.mem_singleton.1 hm]; exact h

/-- A V3 operation (R176). -/
theorem runV3_ok {gr : Grp} {d a : BitVec 6} {lka : BitVec 2} {b : BitVec 6} {lkb : BitVec 2} {bu : BitVec 1} {third : Bool}
    {f : Word → Word → Word → Word} {w : Warp} (h : v3Has w gr d a b bu third) :
    ∃ x, runV3 gr d a lka b lkb bu third f w = .ok (retire gr w x) ∧ SameRest w x
      ∧ regsOf x = repeated (v3Rep w gr d a lka b lkb bu third f) (reps gr) (regsOf w) := by
  obtain ⟨h3, hk⟩ := h
  refine ⟨performReps gr (fun i x =>
    let r : LaneVec := Vector.ofFn fun l =>
      f (x.getV (repA gr a.toNat i) l) (x.getB bu (repB gr b.toNat i) l) (x.getV (repC gr gr.cReg.toNat i) l)
    let y := x.lastUse w.executing lka [repA gr a.toNat i]
    let y := if bu = 1 then y else y.lastUse w.executing lkb [repB gr b.toNat i]
    let y := if third then y.lastUse w.executing gr.lkc [repC gr gr.cReg.toNat i] else y
    y.setVec (repD gr d.toNat i) (w.active gr) r) w, ?_, ?_⟩
  · have c : (checkReps gr fun i => do
        vRange w (repD gr d.toNat i) 1
        vRange w (repA gr a.toNat i) 1
        bRange w bu (repB gr b.toNat i)
        if third then vRange w (repC gr gr.cReg.toNat i) 1) = .ok () := by
      refine checkReps_ok fun k hlt => ?_
      obtain ⟨k1, k2, k3, k4⟩ := hk k hlt
      rw [vRange_ok k1, vRange_ok k2, bRange_ok k3]
      cases third
      · rfl
      · simp only [if_true]; rw [vRange_ok (k4 rfl)]; rfl
    unfold runV3
    cases third
    · simp only [Bool.false_eq_true, if_false] at c ⊢
      rw [c]; rfl
    · have hn : needThird gr = .ok () := by
        unfold needThird
        rw [if_neg (by have := h3 rfl; cases hs : gr.src <;> simp_all)]
      simp only [if_true] at c ⊢
      rw [hn, c]; rfl
  · refine performReps_spec fun k hlt x hx => ?_
    obtain ⟨k1, k2, k3, k4⟩ := hk k hlt
    dsimp only
    constructor
    · refine SameRest.setVec ?_ _ _ _
      have s1 : SameRest w (x.lastUse w.executing lka [repA gr a.toNat k]) := hx.lastUse ..
      have s2 : SameRest w (if bu = 1 then x.lastUse w.executing lka [repA gr a.toNat k]
          else (x.lastUse w.executing lka [repA gr a.toNat k]).lastUse w.executing lkb [repB gr b.toNat k]) := by
        split
        · exact s1
        · exact s1.lastUse ..
      split
      · exact s2.lastUse ..
      · exact s2
    · rw [regsOf_setVec _ k1.1]
      unfold v3Rep
      dsimp only
      have e1 : regsOf (x.lastUse w.executing lka [repA gr a.toNat k]) = (regsOf x).lastUse w.executing lka [repA gr a.toNat k] :=
        regsOf_lastUse _ _ _ _ fun n => single_lt k2.1
      have e3 : (fun l : Fin 32 => (Vector.ofFn fun l => f (x.getV (repA gr a.toNat k) l) (x.getB bu (repB gr b.toNat k) l)
          (x.getV (repC gr gr.cReg.toNat k) l))[l]) = fun l => f ((regsOf x).v (repA gr a.toNat k) l)
            ((regsOf x).b bu (repB gr b.toNat k) l) ((regsOf x).v (repC gr gr.cReg.toNat k) l) := by
        funext l
        simp only [Fin.getElem_fin, Vector.getElem_ofFn, getB_regs, getV_regs]
      rw [e3]
      refine congrArg (fun r => Regs.putV r _ _ _) ?_
      have e2 : regsOf (if bu = 1 then x.lastUse w.executing lka [repA gr a.toNat k]
          else (x.lastUse w.executing lka [repA gr a.toNat k]).lastUse w.executing lkb [repB gr b.toNat k])
          = ((regsOf x).lastUse w.executing lka [repA gr a.toNat k]).lastUse w.executing (if bu = 1 then 0 else lkb) [repB gr b.toNat k] := by
        by_cases hb : bu = 1
        · rw [if_pos hb, if_pos hb, e1]; rfl
        · rw [if_neg hb] at k3 ⊢
          rw [if_neg hb, regsOf_lastUse _ _ _ _ fun n => single_lt k3.1, e1]
      cases third
      · simp only [Bool.false_eq_true, if_false]; exact e2
      · simp only [if_true]
        rw [regsOf_lastUse _ _ _ _ fun n => single_lt (k4 rfl).1, e2]

/-- A V2, VI or VK operation (R176). -/
theorem runV2_ok {gr : Grp} {d a : BitVec 6} {lka : BitVec 2} {f : Word → Word → Word} {w : Warp} (h : v2Has w gr d a) :
    ∃ x, runV2 gr d a lka f w = .ok (retire gr w x) ∧ SameRest w x
      ∧ regsOf x = repeated (v2Rep w gr d a lka f) (reps gr) (regsOf w) := by
  refine ⟨performReps gr (fun i x =>
    let r : LaneVec := Vector.ofFn fun l => f (x.getV (repA gr a.toNat i) l) (x.getV (repD gr d.toNat i) l)
    (x.lastUse w.executing lka [repA gr a.toNat i]).setVec (repD gr d.toNat i) (w.active gr) r) w, ?_, ?_⟩
  · have c : (checkReps gr fun i => do
        vRange w (repD gr d.toNat i) 1
        vRange w (repA gr a.toNat i) 1) = .ok () := by
      refine checkReps_ok fun k hlt => ?_
      rw [vRange_ok (h k hlt).1, vRange_ok (h k hlt).2]; rfl
    unfold runV2
    rw [c]; rfl
  · refine performReps_spec fun k hlt x hx => ?_
    obtain ⟨k1, k2⟩ := h k hlt
    dsimp only
    refine ⟨(hx.lastUse ..).setVec .., ?_⟩
    rw [regsOf_setVec _ k1.1, regsOf_lastUse _ _ _ _ fun n => single_lt k2.1]
    unfold v2Rep
    refine congrArg (Regs.putV _ _ _) (funext fun l => ?_)
    simp only [Fin.getElem_fin, Vector.getElem_ofFn, getV_regs]

/-- An operation with no vector source (R176). -/
theorem runV1_ok {gr : Grp} {d : BitVec 6} {x : Word} {w : Warp} (h : ∀ k < reps gr, HasV w (repD gr d.toNat k)) :
    ∃ y, runV1 gr d (fun _ _ => x) w = .ok (retire gr w y) ∧ SameRest w y
      ∧ regsOf y = repeated (fun k r => r.putV (repD gr d.toNat k) (w.active gr) fun _ => x) (reps gr) (regsOf w) := by
  refine ⟨performReps gr (fun i y => y.setVec (repD gr d.toNat i) (w.active gr) (Vector.ofFn fun _ => x)) w, ?_, ?_⟩
  · have c : (checkReps gr fun i => vRange w (repD gr d.toNat i) 1) = .ok () := checkReps_ok fun k hlt => vRange_ok (h k hlt)
    unfold runV1
    rw [c]; rfl
  · refine performReps_spec fun k hlt y hy => ⟨hy.setVec .., ?_⟩
    rw [regsOf_setVec _ (h k hlt).1]
    refine congrArg (Regs.putV _ _ _) (funext fun l => ?_)
    simp only [Fin.getElem_fin, Vector.getElem_ofFn]

/-- A P operation (R176). -/
theorem runP_ok {gr : Grp} {p : BitVec 3} {a : BitVec 6} {lka : BitVec 2} {b : BitVec 6} {lkb : BitVec 2} {bu : BitVec 1}
    {f : Word → Word → Bool} {w : Warp} (h : pHas w gr p a b bu) :
    ∃ x, runP gr p a lka b lkb bu f w = .ok (retire gr w x) ∧ SameRest w x
      ∧ regsOf x = repeated (pRep w gr p a lka b lkb bu f) (reps gr) (regsOf w) := by
  refine ⟨performReps gr (fun i x =>
    let r := maskOf fun l => f (x.getV (repA gr a.toNat i) l) (x.getB bu (repB gr b.toNat i) l)
    let y := x.lastUse w.executing lka [repA gr a.toNat i]
    let y := if bu = 1 then y else y.lastUse w.executing lkb [repB gr b.toNat i]
    y.setP (repD gr p.toNat i) (w.active gr) r) w, ?_, ?_⟩
  · have c : (checkReps gr fun i => do
        pRange (repD gr p.toNat i)
        vRange w (repA gr a.toNat i) 1
        bRange w bu (repB gr b.toNat i)) = .ok () := by
      refine checkReps_ok fun k hlt => ?_
      obtain ⟨k1, k2, k3⟩ := h k hlt
      rw [pRange_ok k1, vRange_ok k2, bRange_ok k3]; rfl
    unfold runP
    rw [c]; rfl
  · refine performReps_spec fun k hlt x hx => ?_
    obtain ⟨k1, k2, k3⟩ := h k hlt
    dsimp only
    have s1 : SameRest w (x.lastUse w.executing lka [repA gr a.toNat k]) := hx.lastUse ..
    have e1 : regsOf (x.lastUse w.executing lka [repA gr a.toNat k]) = (regsOf x).lastUse w.executing lka [repA gr a.toNat k] :=
      regsOf_lastUse _ _ _ _ fun n => single_lt k2.1
    constructor
    · refine SameRest.setP ?_ _ _ _
      split
      · exact s1
      · exact s1.lastUse ..
    · rw [regsOf_setP]
      unfold pRep
      dsimp only
      congr 1
      by_cases hb : bu = 1
      · rw [if_pos hb, if_pos hb, e1]; rfl
      · rw [if_neg hb] at k3
        rw [if_neg hb, if_neg hb, regsOf_lastUse _ _ _ _ fun n => single_lt k3.1, e1]

/-- Repetitions of which none is performed leave the registers. -/
theorem repeated_id {f : Nat → Regs → Regs} (h : ∀ k r, f k r = r) (n : Nat) (r : Regs) : repeated f n r = r := by
  induction n with
  | zero => rfl
  | succ n ih => rw [repeated, h, ih]
theorem repeated_congr {f g : Nat → Regs → Regs} {n : Nat} (h : ∀ k < n, ∀ r, f k r = g k r) (r : Regs) : repeated f n r = repeated g n r := by
  induction n with
  | zero => rfl
  | succ n ih => rw [repeated, repeated, h n (by omega), ih fun k hk => h k (by omega)]

/-- A warp-level operation on registers (R182, R202). -/
theorem runU_ok {gr : Grp} {chk : Nat → Except Trap Unit} {one : Nat → Warp → Warp} {w : Warp} {f : Nat → Regs → Regs}
    (hc : ∀ k < reps gr, chk k = .ok ())
    (h : ∀ k < reps gr, ∀ x, SameRest w x → SameRest w (one k x) ∧ regsOf (one k x) = f k (regsOf x)) :
    ∃ x, runU gr chk one w = .ok (retire gr w x) ∧ SameRest w x ∧ regsOf x = repeated (uRep w gr f) (reps gr) (regsOf w) := by
  refine ⟨if w.active gr = 0 then w else performReps gr one w, ?_, ?_⟩
  · unfold runU
    rw [checkReps_ok hc]; rfl
  · by_cases ha : w.active gr = 0
    · rw [if_pos ha]
      exact ⟨.refl w, (repeated_id (fun k r => if_pos ha) _ _).symm⟩
    · rw [if_neg ha]
      refine performReps_spec fun k hk x hx => ?_
      obtain ⟨h1, h2⟩ := h k hk x hx
      exact ⟨h1, h2.trans (if_neg ha).symm⟩

theorem runU3_ok {gr : Grp} {d a b : BitVec 6} {f : Dword → Dword → Dword} {w : Warp} (h : u3Has gr d a b) :
    ∃ x, runU3 gr d a b f w = .ok (retire gr w x) ∧ SameRest w x ∧ regsOf x = repeated (u3Rep w gr d a b f) (reps gr) (regsOf w) := by
  refine runU_ok (fun k hk => ?_) fun k hk x hx => ⟨hx.setS .., ?_⟩
  · obtain ⟨h1, h2, h3⟩ := h k hk
    rw [sRange_ok h1, sRange_ok h2, sRange_ok h3]; rfl
  · rw [regsOf_setS _ (h k hk).1]; rfl

theorem runU2_ok {gr : Grp} {d a : BitVec 6} {f : Dword → Dword} {w : Warp} (h : u2Has gr d a) :
    ∃ x, runU2 gr d a f w = .ok (retire gr w x) ∧ SameRest w x ∧ regsOf x = repeated (u2Rep w gr d a f) (reps gr) (regsOf w) := by
  refine runU_ok (fun k hk => ?_) fun k hk x hx => ⟨hx.setS .., ?_⟩
  · obtain ⟨h1, h2⟩ := h k hk
    rw [sRange_ok h1, sRange_ok h2]; rfl
  · rw [regsOf_setS _ (h k hk).1]; rfl

/-! ### The groups -/

theorem v3Rep_begun (i : Instr) (s : State) : v3Rep (begun i s).cur = v3Rep s.cur := by
  obtain ⟨b, g, h⟩ := begun_cur i s; rw [h]; rfl
theorem v2Rep_begun (i : Instr) (s : State) : v2Rep (begun i s).cur = v2Rep s.cur := by
  obtain ⟨b, g, h⟩ := begun_cur i s; rw [h]; rfl
theorem pRep_begun (i : Instr) (s : State) : pRep (begun i s).cur = pRep s.cur := by
  obtain ⟨b, g, h⟩ := begun_cur i s; rw [h]; rfl
theorem uRep_begun (i : Instr) (s : State) : uRep (begun i s).cur = uRep s.cur := by
  obtain ⟨b, g, h⟩ := begun_cur i s; rw [h]; rfl
theorem hasV_begun (i : Instr) (s : State) : HasV (begun i s).cur = HasV s.cur := by
  obtain ⟨b, g, h⟩ := begun_cur i s; rw [h]; rfl

theorem v3_writes {i : Instr} {gr : Grp} {d a : BitVec 6} {lka : BitVec 2} {b : BitVec 6} {lkb : BitVec 2} {bu : BitVec 1} {third : Bool}
    {f : Word → Word → Word → Word} {s : State} (he : exec i s = perform i (runWarp gr (runV3 gr d a lka b lkb bu third f)) s)
    (hr : Runs i s) (h : v3Has s.cur gr d a b bu third) : Writes i gr s (v3Rep s.cur gr d a lka b lkb bu third f) := by
  have h' : v3Has (begun i s).cur gr d a b bu third := by unfold v3Has at *; rw [hasV_begun]; exact h
  obtain ⟨x, h1, h2, h3⟩ := runV3_ok (lka := lka) (lkb := lkb) (f := f) h'
  exact writes_of he hr h1 h2 (by rw [h3, v3Rep_begun])
theorem v2_writes {i : Instr} {gr : Grp} {d a : BitVec 6} {lka : BitVec 2} {f : Word → Word → Word} {s : State}
    (he : exec i s = perform i (runWarp gr (runV2 gr d a lka f)) s)
    (hr : Runs i s) (h : v2Has s.cur gr d a) : Writes i gr s (v2Rep s.cur gr d a lka f) := by
  have h' : v2Has (begun i s).cur gr d a := by unfold v2Has at *; rw [hasV_begun]; exact h
  obtain ⟨x, h1, h2, h3⟩ := runV2_ok (lka := lka) (f := f) h'
  exact writes_of he hr h1 h2 (by rw [h3, v2Rep_begun])
theorem v1_writes {i : Instr} {gr : Grp} {d : BitVec 6} {x : Word} {s : State}
    (he : exec i s = perform i (runWarp gr (runV1 gr d fun _ _ => x)) s)
    (hr : Runs i s) (h : ∀ k < reps gr, HasV s.cur (repD gr d.toNat k)) :
    Writes i gr s fun k r => r.putV (repD gr d.toNat k) (s.cur.active gr) fun _ => x := by
  obtain ⟨y, h1, h2, h3⟩ := runV1_ok (w := (begun i s).cur) (x := x) (d := d) (gr := gr) (by rw [hasV_begun]; exact h)
  exact writes_of he hr h1 h2 (by rw [h3, begun_active])
theorem p_writes {i : Instr} {gr : Grp} {p : BitVec 3} {a : BitVec 6} {lka : BitVec 2} {b : BitVec 6} {lkb : BitVec 2} {bu : BitVec 1}
    {f : Word → Word → Bool} {s : State} (he : exec i s = perform i (runWarp gr (runP gr p a lka b lkb bu f)) s)
    (hr : Runs i s) (h : pHas s.cur gr p a b bu) : Writes i gr s (pRep s.cur gr p a lka b lkb bu f) := by
  have h' : pHas (begun i s).cur gr p a b bu := by unfold pHas at *; rw [hasV_begun]; exact h
  obtain ⟨x, h1, h2, h3⟩ := runP_ok (lka := lka) (lkb := lkb) (f := f) h'
  exact writes_of he hr h1 h2 (by rw [h3, pRep_begun])
theorem u3_writes {i : Instr} {gr : Grp} {d a b : BitVec 6} {f : Dword → Dword → Dword} {s : State}
    (he : exec i s = perform i (runWarp gr (runU3 gr d a b f)) s) (hr : Runs i s) (h : u3Has gr d a b) :
    Writes i gr s (u3Rep s.cur gr d a b f) := by
  obtain ⟨x, h1, h2, h3⟩ := runU3_ok (w := (begun i s).cur) (f := f) h
  exact writes_of he hr h1 h2 (by rw [h3]; unfold u3Rep; rw [uRep_begun])
theorem u2_writes {i : Instr} {gr : Grp} {d a : BitVec 6} {f : Dword → Dword} {s : State}
    (he : exec i s = perform i (runWarp gr (runU2 gr d a f)) s) (hr : Runs i s) (h : u2Has gr d a) :
    Writes i gr s (u2Rep s.cur gr d a f) := by
  obtain ⟨x, h1, h2, h3⟩ := runU2_ok (w := (begun i s).cur) (f := f) h
  exact writes_of he hr h1 h2 (by rw [h3]; unfold u2Rep; rw [uRep_begun])

end Sys2Proof.Laws
end

