-- ==== Sys2Proof/Laws/Words.lean ====
section
/-! SUPPORT. What the fields of an encoded base word are: one lemma for each arrangement of operand fields (R176), and how the row
of an opcode and kind is found. -/

namespace Sys2Proof.Laws

/-- Two rows cannot both match a word: their opcodes differ, or their kinds do. -/
def rowsApart (r x : Row) : Bool := r.opc ≠ x.opc || (r.kindLo = x.kindLo && r.kindLen = x.kindLen && r.kind ≠ x.kind)

theorem rowsApart_hit {r x : Row} {w : Word} (h : rowsApart r x = true) (hr : r.hit w = true) : x.hit w = false := by
  simp only [rowsApart, Row.hit, Bool.or_eq_true, Bool.and_eq_true, decide_eq_true_eq] at h hr
  obtain h | ⟨⟨h1, h2⟩, h3⟩ := h
  · have hx : opcOf w ≠ x.opc := fun e => h (hr.1.symm.trans e)
    simp [Row.hit, hx]
  · simp only [Row.hit, Bool.and_eq_false_imp, decide_eq_true_eq, decide_eq_false_iff_not]
    intro _
    rw [← h1, ← h2]
    exact fun hx => h3 (hr.2.symm.trans hx)

set_option maxRecDepth 100000 in
/-- No two rows of the opcode table match one word (R189, R190). -/
theorem rows_apart : rows.Pairwise fun r x => rowsApart r x = true := by decide +kernel

theorem find_row {l : List Row} {r : Row} {w : Word} (hl : l.Pairwise fun r x => rowsApart r x = true) (hm : r ∈ l) (hr : r.hit w = true) :
    l.find? (fun r => r.hit w) = some r := by
  induction l with
  | nil => cases hm
  | cons a l ih =>
    rw [List.pairwise_cons] at hl
    rcases List.mem_cons.1 hm with rfl | hm
    · simp [hr]
    · have ha : a.hit w = false := by
        cases h : a.hit w with
        | false => rfl
        | true => have := rowsApart_hit (hl.1 r hm) h; simp [hr] at this
      simp [ha, ih hl.2 hm]

/-- A word that matches a row, with its unused fields zero, decodes to what the row makes of it. -/
theorem decodeBase_row {r : Row} {w : Word} (g : Grp) (hm : r ∈ rows) (hr : r.hit w = true) (hc : r.clean w = true) :
    decodeBase g w = some (r.make { g with sw := swOf w } w) := by
  simp [decodeBase, find_row rows_apart hm hr, hc]

/-- Fields in descending order, each in its own bits: value, lowest bit, width. -/
def Placed (top : Nat) : List (Nat × Nat × Nat) → Prop
  | [] => True
  | f :: r => f.2.1 + f.2.2 ≤ top ∧ f.1 < 2 ^ f.2.2 ∧ Placed f.2.1 r

/-- The number that holds each value at its bit. -/
def pack : List (Nat × Nat × Nat) → Nat
  | [] => 0
  | f :: r => f.1 * 2 ^ f.2.1 + pack r

theorem pack_lt {l : List (Nat × Nat × Nat)} {top : Nat} (h : Placed top l) : pack l < 2 ^ top := by
  induction l generalizing top with
  | nil => exact Nat.two_pow_pos top
  | cons f r ih =>
    obtain ⟨h1, h2, h3⟩ := h
    have h4 := ih h3
    have h5 : (f.1 + 1) * 2 ^ f.2.1 ≤ 2 ^ top := by
      refine Nat.le_trans (Nat.mul_le_mul_right _ h2) ?_
      rw [← Nat.pow_add]
      exact Nat.pow_le_pow_right (by decide) (by omega)
    rw [Nat.succ_mul] at h5
    simp only [pack]
    omega

theorem pack_fld {l : List (Nat × Nat × Nat)} {top : Nat} (h : Placed top l) {f : Nat × Nat × Nat} (hf : f ∈ l) :
    pack l / 2 ^ f.2.1 % 2 ^ f.2.2 = f.1 := by
  induction hf generalizing top with
  | head r =>
    obtain ⟨h1, h2, h3⟩ := h
    rw [pack, Nat.mul_comm, Nat.mul_add_div (Nat.two_pow_pos _), Nat.div_eq_of_lt (pack_lt h3), Nat.add_zero, Nat.mod_eq_of_lt h2]
  | @tail g r hm ih =>
    obtain ⟨h1, h2, h3⟩ := h
    have h4 : f.2.1 + f.2.2 ≤ g.2.1 := by
      clear ih h1 h2
      induction hm generalizing g with
      | head r => exact h3.1
      | @tail x r hm ih => exact Nat.le_trans (ih (g := x) h3.2.2) (by have := h3.1; omega)
    obtain ⟨k, hk⟩ := Nat.exists_eq_add_of_le h4
    have h5 : g.1 * 2 ^ g.2.1 = 2 ^ f.2.1 * (2 ^ f.2.2 * (g.1 * 2 ^ k)) := by
      rw [hk, Nat.pow_add, Nat.pow_add]
      simp only [Nat.mul_assoc, Nat.mul_left_comm, Nat.mul_comm]
    rw [pack, h5, Nat.mul_add_div (Nat.two_pow_pos _), Nat.mul_add_mod]
    exact ih h3

theorem clean_cons {w : Word} {z : Nat × Nat} {zs : List (Nat × Nat)} (h : fld w z.1 z.2 = 0)
    (t : (zs.all fun z => fld w z.1 z.2 = 0) = true) : ((z :: zs).all fun z => fld w z.1 z.2 = 0) = true := by
  rw [List.all_cons, t, decide_eq_true h, Bool.and_true]

theorem fld_placed {l : List (Nat × Nat × Nat)} (h : Placed 32 l) {x : Nat} (lo len : Nat) (hf : (x, lo, len) ∈ l) :
    (fld (BitVec.ofNat 32 (pack l)) lo len).toNat = x := by
  have h1 := pack_fld h hf
  simp only [fld, BitVec.toNat_ofNat, Nat.mod_eq_of_lt (pack_lt h)]
  exact h1
theorem fld_placed_eq {l : List (Nat × Nat × Nat)} (h : Placed 32 l) {lo len : Nat} {x : BitVec len} (hf : (x.toNat, lo, len) ∈ l) :
    fld (BitVec.ofNat 32 (pack l)) lo len = x := BitVec.eq_of_toNat_eq (fld_placed h lo len hf)
theorem le_of {a b : Nat} (h : Nat.ble a b = true) : a ≤ b := Nat.le_of_ble_eq_true h
theorem fld_none (w : Word) (lo : Nat) : (fld w lo 0).toNat = 0 := by have := (fld w lo 0).isLt; omega
theorem bitNat_lt (b : Bool) : bitNat b < 2 ^ 1 := by cases b <;> decide
theorem swOf_placed {l : List (Nat × Nat × Nat)} (h : Placed 32 l) {b : Bool} (hf : (bitNat b, 31, 1) ∈ l) :
    swOf (BitVec.ofNat 32 (pack l)) = b := by
  have h1 : fld (BitVec.ofNat 32 (pack l)) 31 1 = BitVec.ofNat 1 (bitNat b) :=
    BitVec.eq_of_toNat_eq ((fld_placed h 31 1 hf).trans (by cases b <;> rfl))
  simp only [swOf, h1]
  cases b <;> decide

theorem word0 (o : Nat) (x0 : BitVec 6) (x1 : BitVec 6) (x2 : BitVec 2) (x3 : BitVec 6) (x4 : BitVec 2) (x5 : BitVec 1) (sw : Bool) (ho : o < 256) :
    ∀ w, w = BitVec.ofNat 32 (bitNat sw * 2 ^ 31 + packFields [(o, 23), (x0.toNat, 17), (x1.toNat, 11), (x2.toNat, 9), (x3.toNat, 3), (x4.toNat, 1), (x5.toNat, 0)]) →
    opcOf w = o ∧ swOf w = sw ∧ (fld w 0 0).toNat = 0 ∧ fld w 17 6 = x0 ∧ fld w 11 6 = x1 ∧ fld w 9 2 = x2 ∧ fld w 3 6 = x3 ∧ fld w 1 2 = x4 ∧ fld w 0 1 = x5 := by
  intro w hw
  have h : Placed 32 [(bitNat sw, 31, 1), (o, 23, 8), (x0.toNat, 17, 6), (x1.toNat, 11, 6), (x2.toNat, 9, 2), (x3.toNat, 3, 6), (x4.toNat, 1, 2), (x5.toNat, 0, 1)] :=
    ⟨le_of rfl, bitNat_lt sw, le_of rfl, ho, le_of rfl, x0.isLt, le_of rfl, x1.isLt, le_of rfl, x2.isLt, le_of rfl, x3.isLt, le_of rfl, x4.isLt, le_of rfl, x5.isLt, trivial⟩
  have e : bitNat sw * 2 ^ 31 + packFields [(o, 23), (x0.toNat, 17), (x1.toNat, 11), (x2.toNat, 9), (x3.toNat, 3), (x4.toNat, 1), (x5.toNat, 0)] = pack [(bitNat sw, 31, 1), (o, 23, 8), (x0.toNat, 17, 6), (x1.toNat, 11, 6), (x2.toNat, 9, 2), (x3.toNat, 3, 6), (x4.toNat, 1, 2), (x5.toNat, 0, 1)] := by
    simp only [packFields, pack]
  rw [e] at hw
  subst hw
  exact ⟨fld_placed h 23 8 (.tail _ (.head _)), swOf_placed h (.head _), fld_none _ _, fld_placed_eq h (.tail _ (.tail _ (.head _))), fld_placed_eq h (.tail _ (.tail _ (.tail _ (.head _)))), fld_placed_eq h (.tail _ (.tail _ (.tail _ (.tail _ (.head _))))), fld_placed_eq h (.tail _ (.tail _ (.tail _ (.tail _ (.tail _ (.head _)))))), fld_placed_eq h (.tail _ (.tail _ (.tail _ (.tail _ (.tail _ (.tail _ (.head _))))))), fld_placed_eq h (.tail _ (.tail _ (.tail _ (.tail _ (.tail _ (.tail _ (.tail _ (.head _))))))))⟩

theorem word1 (o : Nat) (x0 : BitVec 6) (x1 : BitVec 6) (x2 : BitVec 2) (sw : Bool) (ho : o < 256) :
    ∀ w, w = BitVec.ofNat 32 (bitNat sw * 2 ^ 31 + packFields [(o, 23), (x0.toNat, 17), (x1.toNat, 11), (x2.toNat, 9)]) →
    opcOf w = o ∧ swOf w = sw ∧ (fld w 0 0).toNat = 0 ∧ fld w 17 6 = x0 ∧ fld w 11 6 = x1 ∧ fld w 9 2 = x2 ∧ fld w 0 9 = 0 := by
  intro w hw
  have h : Placed 32 [(bitNat sw, 31, 1), (o, 23, 8), (x0.toNat, 17, 6), (x1.toNat, 11, 6), (x2.toNat, 9, 2), (0, 0, 9)] :=
    ⟨le_of rfl, bitNat_lt sw, le_of rfl, ho, le_of rfl, x0.isLt, le_of rfl, x1.isLt, le_of rfl, x2.isLt, le_of rfl, Nat.two_pow_pos _, trivial⟩
  have e : bitNat sw * 2 ^ 31 + packFields [(o, 23), (x0.toNat, 17), (x1.toNat, 11), (x2.toNat, 9)] = pack [(bitNat sw, 31, 1), (o, 23, 8), (x0.toNat, 17, 6), (x1.toNat, 11, 6), (x2.toNat, 9, 2), (0, 0, 9)] := by
    simp only [packFields, pack]; omega
  rw [e] at hw
  subst hw
  exact ⟨fld_placed h 23 8 (.tail _ (.head _)), swOf_placed h (.head _), fld_none _ _, fld_placed_eq h (.tail _ (.tail _ (.head _))), fld_placed_eq h (.tail _ (.tail _ (.tail _ (.head _)))), fld_placed_eq h (.tail _ (.tail _ (.tail _ (.tail _ (.head _))))), fld_placed_eq (x := 0) h (.tail _ (.tail _ (.tail _ (.tail _ (.tail _ (.head _))))))⟩

theorem word2 (o : Nat) (x0 : BitVec 3) (x1 : BitVec 3) (x2 : BitVec 6) (x3 : BitVec 2) (x4 : BitVec 6) (x5 : BitVec 2) (x6 : BitVec 1) (sw : Bool) (ho : o < 256) :
    ∀ w, w = BitVec.ofNat 32 (bitNat sw * 2 ^ 31 + packFields [(o, 23), (x0.toNat, 20), (x1.toNat, 17), (x2.toNat, 11), (x3.toNat, 9), (x4.toNat, 3), (x5.toNat, 1), (x6.toNat, 0)]) →
    opcOf w = o ∧ swOf w = sw ∧ (fld w 0 0).toNat = 0 ∧ fld w 20 3 = x0 ∧ fld w 17 3 = x1 ∧ fld w 11 6 = x2 ∧ fld w 9 2 = x3 ∧ fld w 3 6 = x4 ∧ fld w 1 2 = x5 ∧ fld w 0 1 = x6 := by
  intro w hw
  have h : Placed 32 [(bitNat sw, 31, 1), (o, 23, 8), (x0.toNat, 20, 3), (x1.toNat, 17, 3), (x2.toNat, 11, 6), (x3.toNat, 9, 2), (x4.toNat, 3, 6), (x5.toNat, 1, 2), (x6.toNat, 0, 1)] :=
    ⟨le_of rfl, bitNat_lt sw, le_of rfl, ho, le_of rfl, x0.isLt, le_of rfl, x1.isLt, le_of rfl, x2.isLt, le_of rfl, x3.isLt, le_of rfl, x4.isLt, le_of rfl, x5.isLt, le_of rfl, x6.isLt, trivial⟩
  have e : bitNat sw * 2 ^ 31 + packFields [(o, 23), (x0.toNat, 20), (x1.toNat, 17), (x2.toNat, 11), (x3.toNat, 9), (x4.toNat, 3), (x5.toNat, 1), (x6.toNat, 0)] = pack [(bitNat sw, 31, 1), (o, 23, 8), (x0.toNat, 20, 3), (x1.toNat, 17, 3), (x2.toNat, 11, 6), (x3.toNat, 9, 2), (x4.toNat, 3, 6), (x5.toNat, 1, 2), (x6.toNat, 0, 1)] := by
    simp only [packFields, pack]
  rw [e] at hw
  subst hw
  exact ⟨fld_placed h 23 8 (.tail _ (.head _)), swOf_placed h (.head _), fld_none _ _, fld_placed_eq h (.tail _ (.tail _ (.head _))), fld_placed_eq h (.tail _ (.tail _ (.tail _ (.head _)))), fld_placed_eq h (.tail _ (.tail _ (.tail _ (.tail _ (.head _))))), fld_placed_eq h (.tail _ (.tail _ (.tail _ (.tail _ (.tail _ (.head _)))))), fld_placed_eq h (.tail _ (.tail _ (.tail _ (.tail _ (.tail _ (.tail _ (.head _))))))), fld_placed_eq h (.tail _ (.tail _ (.tail _ (.tail _ (.tail _ (.tail _ (.tail _ (.head _)))))))), fld_placed_eq h (.tail _ (.tail _ (.tail _ (.tail _ (.tail _ (.tail _ (.tail _ (.tail _ (.head _)))))))))⟩

theorem word3 (o : Nat) (x0 : BitVec 6) (x1 : BitVec 9) (sw : Bool) (ho : o < 256) :
    ∀ w, w = BitVec.ofNat 32 (bitNat sw * 2 ^ 31 + packFields [(o, 23), (x0.toNat, 17), (x1.toNat, 0)]) →
    opcOf w = o ∧ swOf w = sw ∧ (fld w 0 0).toNat = 0 ∧ fld w 17 6 = x0 ∧ fld w 0 9 = x1 ∧ fld w 9 8 = 0 := by
  intro w hw
  have h : Placed 32 [(bitNat sw, 31, 1), (o, 23, 8), (x0.toNat, 17, 6), (0, 9, 8), (x1.toNat, 0, 9)] :=
    ⟨le_of rfl, bitNat_lt sw, le_of rfl, ho, le_of rfl, x0.isLt, le_of rfl, Nat.two_pow_pos _, le_of rfl, x1.isLt, trivial⟩
  have e : bitNat sw * 2 ^ 31 + packFields [(o, 23), (x0.toNat, 17), (x1.toNat, 0)] = pack [(bitNat sw, 31, 1), (o, 23, 8), (x0.toNat, 17, 6), (0, 9, 8), (x1.toNat, 0, 9)] := by
    simp only [packFields, pack]; omega
  rw [e] at hw
  subst hw
  exact ⟨fld_placed h 23 8 (.tail _ (.head _)), swOf_placed h (.head _), fld_none _ _, fld_placed_eq h (.tail _ (.tail _ (.head _))), fld_placed_eq h (.tail _ (.tail _ (.tail _ (.tail _ (.head _))))), fld_placed_eq (x := 0) h (.tail _ (.tail _ (.tail _ (.head _))))⟩

theorem word4 (o : Nat) (x0 : BitVec 6) (x1 : BitVec 6) (x2 : BitVec 2) (x3 : BitVec 9) (sw : Bool) (ho : o < 256) :
    ∀ w, w = BitVec.ofNat 32 (bitNat sw * 2 ^ 31 + packFields [(o, 23), (x0.toNat, 17), (x1.toNat, 11), (x2.toNat, 9), (x3.toNat, 0)]) →
    opcOf w = o ∧ swOf w = sw ∧ (fld w 0 0).toNat = 0 ∧ fld w 17 6 = x0 ∧ fld w 11 6 = x1 ∧ fld w 9 2 = x2 ∧ fld w 0 9 = x3 := by
  intro w hw
  have h : Placed 32 [(bitNat sw, 31, 1), (o, 23, 8), (x0.toNat, 17, 6), (x1.toNat, 11, 6), (x2.toNat, 9, 2), (x3.toNat, 0, 9)] :=
    ⟨le_of rfl, bitNat_lt sw, le_of rfl, ho, le_of rfl, x0.isLt, le_of rfl, x1.isLt, le_of rfl, x2.isLt, le_of rfl, x3.isLt, trivial⟩
  have e : bitNat sw * 2 ^ 31 + packFields [(o, 23), (x0.toNat, 17), (x1.toNat, 11), (x2.toNat, 9), (x3.toNat, 0)] = pack [(bitNat sw, 31, 1), (o, 23, 8), (x0.toNat, 17, 6), (x1.toNat, 11, 6), (x2.toNat, 9, 2), (x3.toNat, 0, 9)] := by
    simp only [packFields, pack]
  rw [e] at hw
  subst hw
  exact ⟨fld_placed h 23 8 (.tail _ (.head _)), swOf_placed h (.head _), fld_none _ _, fld_placed_eq h (.tail _ (.tail _ (.head _))), fld_placed_eq h (.tail _ (.tail _ (.tail _ (.head _)))), fld_placed_eq h (.tail _ (.tail _ (.tail _ (.tail _ (.head _))))), fld_placed_eq h (.tail _ (.tail _ (.tail _ (.tail _ (.tail _ (.head _))))))⟩

theorem word5 (o : Nat) (x0 : BitVec 6) (x1 : BitVec 6) (x2 : BitVec 2) (x3 : BitVec 7) (sw : Bool) (ho : o < 256) :
    ∀ w, w = BitVec.ofNat 32 (bitNat sw * 2 ^ 31 + packFields [(o, 23), (x0.toNat, 17), (x1.toNat, 11), (x2.toNat, 9), (x3.toNat, 0)]) →
    opcOf w = o ∧ swOf w = sw ∧ (fld w 7 2).toNat = 0 ∧ fld w 17 6 = x0 ∧ fld w 11 6 = x1 ∧ fld w 9 2 = x2 ∧ fld w 0 7 = x3 := by
  intro w hw
  have h : Placed 32 [(bitNat sw, 31, 1), (o, 23, 8), (x0.toNat, 17, 6), (x1.toNat, 11, 6), (x2.toNat, 9, 2), (0, 7, 2), (x3.toNat, 0, 7)] :=
    ⟨le_of rfl, bitNat_lt sw, le_of rfl, ho, le_of rfl, x0.isLt, le_of rfl, x1.isLt, le_of rfl, x2.isLt, le_of rfl, by decide, le_of rfl, x3.isLt, trivial⟩
  have e : bitNat sw * 2 ^ 31 + packFields [(o, 23), (x0.toNat, 17), (x1.toNat, 11), (x2.toNat, 9), (x3.toNat, 0)] = pack [(bitNat sw, 31, 1), (o, 23, 8), (x0.toNat, 17, 6), (x1.toNat, 11, 6), (x2.toNat, 9, 2), (0, 7, 2), (x3.toNat, 0, 7)] := by
    simp only [packFields, pack]; omega
  rw [e] at hw
  subst hw
  exact ⟨fld_placed h 23 8 (.tail _ (.head _)), swOf_placed h (.head _), fld_placed h 7 2 (.tail _ (.tail _ (.tail _ (.tail _ (.tail _ (.head _)))))), fld_placed_eq h (.tail _ (.tail _ (.head _))), fld_placed_eq h (.tail _ (.tail _ (.tail _ (.head _)))), fld_placed_eq h (.tail _ (.tail _ (.tail _ (.tail _ (.head _))))), fld_placed_eq h (.tail _ (.tail _ (.tail _ (.tail _ (.tail _ (.tail _ (.head _)))))))⟩

theorem word6 (o : Nat) (k : Nat) (x0 : BitVec 6) (x1 : BitVec 6) (x2 : BitVec 2) (x3 : BitVec 7) (sw : Bool) (ho : o < 256) (hk : k < 4) :
    ∀ w, w = BitVec.ofNat 32 (bitNat sw * 2 ^ 31 + packFields [(o, 23), (k, 7), (x0.toNat, 17), (x1.toNat, 11), (x2.toNat, 9), (x3.toNat, 0)]) →
    opcOf w = o ∧ swOf w = sw ∧ (fld w 7 2).toNat = k ∧ fld w 17 6 = x0 ∧ fld w 11 6 = x1 ∧ fld w 9 2 = x2 ∧ fld w 0 7 = x3 := by
  intro w hw
  have h : Placed 32 [(bitNat sw, 31, 1), (o, 23, 8), (x0.toNat, 17, 6), (x1.toNat, 11, 6), (x2.toNat, 9, 2), (k, 7, 2), (x3.toNat, 0, 7)] :=
    ⟨le_of rfl, bitNat_lt sw, le_of rfl, ho, le_of rfl, x0.isLt, le_of rfl, x1.isLt, le_of rfl, x2.isLt, le_of rfl, hk, le_of rfl, x3.isLt, trivial⟩
  have e : bitNat sw * 2 ^ 31 + packFields [(o, 23), (k, 7), (x0.toNat, 17), (x1.toNat, 11), (x2.toNat, 9), (x3.toNat, 0)] = pack [(bitNat sw, 31, 1), (o, 23, 8), (x0.toNat, 17, 6), (x1.toNat, 11, 6), (x2.toNat, 9, 2), (k, 7, 2), (x3.toNat, 0, 7)] := by
    simp only [packFields, pack]; omega
  rw [e] at hw
  subst hw
  exact ⟨fld_placed h 23 8 (.tail _ (.head _)), swOf_placed h (.head _), fld_placed h 7 2 (.tail _ (.tail _ (.tail _ (.tail _ (.tail _ (.head _)))))), fld_placed_eq h (.tail _ (.tail _ (.head _))), fld_placed_eq h (.tail _ (.tail _ (.tail _ (.head _)))), fld_placed_eq h (.tail _ (.tail _ (.tail _ (.tail _ (.head _))))), fld_placed_eq h (.tail _ (.tail _ (.tail _ (.tail _ (.tail _ (.tail _ (.head _)))))))⟩

theorem word7 (o : Nat) (x0 : BitVec 6) (x1 : BitVec 6) (x2 : BitVec 2) (x3 : BitVec 5) (sw : Bool) (ho : o < 256) :
    ∀ w, w = BitVec.ofNat 32 (bitNat sw * 2 ^ 31 + packFields [(o, 23), (x0.toNat, 17), (x1.toNat, 11), (x2.toNat, 9), (x3.toNat, 0)]) →
    opcOf w = o ∧ swOf w = sw ∧ (fld w 7 2).toNat = 0 ∧ fld w 17 6 = x0 ∧ fld w 11 6 = x1 ∧ fld w 9 2 = x2 ∧ fld w 0 5 = x3 ∧ fld w 5 2 = 0 := by
  intro w hw
  have h : Placed 32 [(bitNat sw, 31, 1), (o, 23, 8), (x0.toNat, 17, 6), (x1.toNat, 11, 6), (x2.toNat, 9, 2), (0, 7, 2), (0, 5, 2), (x3.toNat, 0, 5)] :=
    ⟨le_of rfl, bitNat_lt sw, le_of rfl, ho, le_of rfl, x0.isLt, le_of rfl, x1.isLt, le_of rfl, x2.isLt, le_of rfl, by decide, le_of rfl, Nat.two_pow_pos _, le_of rfl, x3.isLt, trivial⟩
  have e : bitNat sw * 2 ^ 31 + packFields [(o, 23), (x0.toNat, 17), (x1.toNat, 11), (x2.toNat, 9), (x3.toNat, 0)] = pack [(bitNat sw, 31, 1), (o, 23, 8), (x0.toNat, 17, 6), (x1.toNat, 11, 6), (x2.toNat, 9, 2), (0, 7, 2), (0, 5, 2), (x3.toNat, 0, 5)] := by
    simp only [packFields, pack]; omega
  rw [e] at hw
  subst hw
  exact ⟨fld_placed h 23 8 (.tail _ (.head _)), swOf_placed h (.head _), fld_placed h 7 2 (.tail _ (.tail _ (.tail _ (.tail _ (.tail _ (.head _)))))), fld_placed_eq h (.tail _ (.tail _ (.head _))), fld_placed_eq h (.tail _ (.tail _ (.tail _ (.head _)))), fld_placed_eq h (.tail _ (.tail _ (.tail _ (.tail _ (.head _))))), fld_placed_eq h (.tail _ (.tail _ (.tail _ (.tail _ (.tail _ (.tail _ (.tail _ (.head _)))))))), fld_placed_eq (x := 0) h (.tail _ (.tail _ (.tail _ (.tail _ (.tail _ (.tail _ (.head _)))))))⟩

theorem word8 (o : Nat) (k : Nat) (x0 : BitVec 6) (x1 : BitVec 6) (x2 : BitVec 2) (x3 : BitVec 5) (sw : Bool) (ho : o < 256) (hk : k < 4) :
    ∀ w, w = BitVec.ofNat 32 (bitNat sw * 2 ^ 31 + packFields [(o, 23), (k, 7), (x0.toNat, 17), (x1.toNat, 11), (x2.toNat, 9), (x3.toNat, 0)]) →
    opcOf w = o ∧ swOf w = sw ∧ (fld w 7 2).toNat = k ∧ fld w 17 6 = x0 ∧ fld w 11 6 = x1 ∧ fld w 9 2 = x2 ∧ fld w 0 5 = x3 ∧ fld w 5 2 = 0 := by
  intro w hw
  have h : Placed 32 [(bitNat sw, 31, 1), (o, 23, 8), (x0.toNat, 17, 6), (x1.toNat, 11, 6), (x2.toNat, 9, 2), (k, 7, 2), (0, 5, 2), (x3.toNat, 0, 5)] :=
    ⟨le_of rfl, bitNat_lt sw, le_of rfl, ho, le_of rfl, x0.isLt, le_of rfl, x1.isLt, le_of rfl, x2.isLt, le_of rfl, hk, le_of rfl, Nat.two_pow_pos _, le_of rfl, x3.isLt, trivial⟩
  have e : bitNat sw * 2 ^ 31 + packFields [(o, 23), (k, 7), (x0.toNat, 17), (x1.toNat, 11), (x2.toNat, 9), (x3.toNat, 0)] = pack [(bitNat sw, 31, 1), (o, 23, 8), (x0.toNat, 17, 6), (x1.toNat, 11, 6), (x2.toNat, 9, 2), (k, 7, 2), (0, 5, 2), (x3.toNat, 0, 5)] := by
    simp only [packFields, pack]; omega
  rw [e] at hw
  subst hw
  exact ⟨fld_placed h 23 8 (.tail _ (.head _)), swOf_placed h (.head _), fld_placed h 7 2 (.tail _ (.tail _ (.tail _ (.tail _ (.tail _ (.head _)))))), fld_placed_eq h (.tail _ (.tail _ (.head _))), fld_placed_eq h (.tail _ (.tail _ (.tail _ (.head _)))), fld_placed_eq h (.tail _ (.tail _ (.tail _ (.tail _ (.head _))))), fld_placed_eq h (.tail _ (.tail _ (.tail _ (.tail _ (.tail _ (.tail _ (.tail _ (.head _)))))))), fld_placed_eq (x := 0) h (.tail _ (.tail _ (.tail _ (.tail _ (.tail _ (.tail _ (.head _)))))))⟩

theorem word9 (o : Nat) (x0 : BitVec 6) (x1 : BitVec 6) (x2 : BitVec 2) (x3 : BitVec 1) (sw : Bool) (ho : o < 256) :
    ∀ w, w = BitVec.ofNat 32 (bitNat sw * 2 ^ 31 + packFields [(o, 23), (x0.toNat, 17), (x1.toNat, 11), (x2.toNat, 9), (x3.toNat, 0)]) →
    opcOf w = o ∧ swOf w = sw ∧ (fld w 0 0).toNat = 0 ∧ fld w 17 6 = x0 ∧ fld w 11 6 = x1 ∧ fld w 9 2 = x2 ∧ fld w 0 1 = x3 ∧ fld w 1 8 = 0 := by
  intro w hw
  have h : Placed 32 [(bitNat sw, 31, 1), (o, 23, 8), (x0.toNat, 17, 6), (x1.toNat, 11, 6), (x2.toNat, 9, 2), (0, 1, 8), (x3.toNat, 0, 1)] :=
    ⟨le_of rfl, bitNat_lt sw, le_of rfl, ho, le_of rfl, x0.isLt, le_of rfl, x1.isLt, le_of rfl, x2.isLt, le_of rfl, Nat.two_pow_pos _, le_of rfl, x3.isLt, trivial⟩
  have e : bitNat sw * 2 ^ 31 + packFields [(o, 23), (x0.toNat, 17), (x1.toNat, 11), (x2.toNat, 9), (x3.toNat, 0)] = pack [(bitNat sw, 31, 1), (o, 23, 8), (x0.toNat, 17, 6), (x1.toNat, 11, 6), (x2.toNat, 9, 2), (0, 1, 8), (x3.toNat, 0, 1)] := by
    simp only [packFields, pack]; omega
  rw [e] at hw
  subst hw
  exact ⟨fld_placed h 23 8 (.tail _ (.head _)), swOf_placed h (.head _), fld_none _ _, fld_placed_eq h (.tail _ (.tail _ (.head _))), fld_placed_eq h (.tail _ (.tail _ (.tail _ (.head _)))), fld_placed_eq h (.tail _ (.tail _ (.tail _ (.tail _ (.head _))))), fld_placed_eq h (.tail _ (.tail _ (.tail _ (.tail _ (.tail _ (.tail _ (.head _))))))), fld_placed_eq (x := 0) h (.tail _ (.tail _ (.tail _ (.tail _ (.tail _ (.head _))))))⟩

theorem word10 (o : Nat) (x0 : BitVec 6) (x1 : BitVec 6) (x2 : BitVec 2) (x3 : BitVec 3) (x4 : BitVec 3) (x5 : BitVec 3) (sw : Bool) (ho : o < 256) :
    ∀ w, w = BitVec.ofNat 32 (bitNat sw * 2 ^ 31 + packFields [(o, 23), (x0.toNat, 17), (x1.toNat, 11), (x2.toNat, 9), (x3.toNat, 6), (x4.toNat, 3), (x5.toNat, 0)]) →
    opcOf w = o ∧ swOf w = sw ∧ (fld w 0 0).toNat = 0 ∧ fld w 17 6 = x0 ∧ fld w 11 6 = x1 ∧ fld w 9 2 = x2 ∧ fld w 6 3 = x3 ∧ fld w 3 3 = x4 ∧ fld w 0 3 = x5 := by
  intro w hw
  have h : Placed 32 [(bitNat sw, 31, 1), (o, 23, 8), (x0.toNat, 17, 6), (x1.toNat, 11, 6), (x2.toNat, 9, 2), (x3.toNat, 6, 3), (x4.toNat, 3, 3), (x5.toNat, 0, 3)] :=
    ⟨le_of rfl, bitNat_lt sw, le_of rfl, ho, le_of rfl, x0.isLt, le_of rfl, x1.isLt, le_of rfl, x2.isLt, le_of rfl, x3.isLt, le_of rfl, x4.isLt, le_of rfl, x5.isLt, trivial⟩
  have e : bitNat sw * 2 ^ 31 + packFields [(o, 23), (x0.toNat, 17), (x1.toNat, 11), (x2.toNat, 9), (x3.toNat, 6), (x4.toNat, 3), (x5.toNat, 0)] = pack [(bitNat sw, 31, 1), (o, 23, 8), (x0.toNat, 17, 6), (x1.toNat, 11, 6), (x2.toNat, 9, 2), (x3.toNat, 6, 3), (x4.toNat, 3, 3), (x5.toNat, 0, 3)] := by
    simp only [packFields, pack]
  rw [e] at hw
  subst hw
  exact ⟨fld_placed h 23 8 (.tail _ (.head _)), swOf_placed h (.head _), fld_none _ _, fld_placed_eq h (.tail _ (.tail _ (.head _))), fld_placed_eq h (.tail _ (.tail _ (.tail _ (.head _)))), fld_placed_eq h (.tail _ (.tail _ (.tail _ (.tail _ (.head _))))), fld_placed_eq h (.tail _ (.tail _ (.tail _ (.tail _ (.tail _ (.head _)))))), fld_placed_eq h (.tail _ (.tail _ (.tail _ (.tail _ (.tail _ (.tail _ (.head _))))))), fld_placed_eq h (.tail _ (.tail _ (.tail _ (.tail _ (.tail _ (.tail _ (.tail _ (.head _))))))))⟩

theorem word11 (o : Nat) (x0 : BitVec 6) (x1 : BitVec 6) (x2 : BitVec 2) (x3 : BitVec 3) (sw : Bool) (ho : o < 256) :
    ∀ w, w = BitVec.ofNat 32 (bitNat sw * 2 ^ 31 + packFields [(o, 23), (x0.toNat, 17), (x1.toNat, 11), (x2.toNat, 9), (x3.toNat, 0)]) →
    opcOf w = o ∧ swOf w = sw ∧ (fld w 0 0).toNat = 0 ∧ fld w 17 6 = x0 ∧ fld w 11 6 = x1 ∧ fld w 9 2 = x2 ∧ fld w 0 3 = x3 ∧ fld w 3 6 = 0 := by
  intro w hw
  have h : Placed 32 [(bitNat sw, 31, 1), (o, 23, 8), (x0.toNat, 17, 6), (x1.toNat, 11, 6), (x2.toNat, 9, 2), (0, 3, 6), (x3.toNat, 0, 3)] :=
    ⟨le_of rfl, bitNat_lt sw, le_of rfl, ho, le_of rfl, x0.isLt, le_of rfl, x1.isLt, le_of rfl, x2.isLt, le_of rfl, Nat.two_pow_pos _, le_of rfl, x3.isLt, trivial⟩
  have e : bitNat sw * 2 ^ 31 + packFields [(o, 23), (x0.toNat, 17), (x1.toNat, 11), (x2.toNat, 9), (x3.toNat, 0)] = pack [(bitNat sw, 31, 1), (o, 23, 8), (x0.toNat, 17, 6), (x1.toNat, 11, 6), (x2.toNat, 9, 2), (0, 3, 6), (x3.toNat, 0, 3)] := by
    simp only [packFields, pack]; omega
  rw [e] at hw
  subst hw
  exact ⟨fld_placed h 23 8 (.tail _ (.head _)), swOf_placed h (.head _), fld_none _ _, fld_placed_eq h (.tail _ (.tail _ (.head _))), fld_placed_eq h (.tail _ (.tail _ (.tail _ (.head _)))), fld_placed_eq h (.tail _ (.tail _ (.tail _ (.tail _ (.head _))))), fld_placed_eq h (.tail _ (.tail _ (.tail _ (.tail _ (.tail _ (.tail _ (.head _))))))), fld_placed_eq (x := 0) h (.tail _ (.tail _ (.tail _ (.tail _ (.tail _ (.head _))))))⟩

theorem word12 (o : Nat) (x0 : BitVec 6) (x1 : BitVec 6) (x2 : BitVec 2) (x3 : BitVec 2) (x4 : BitVec 1) (x5 : BitVec 5) (sw : Bool) (ho : o < 256) :
    ∀ w, w = BitVec.ofNat 32 (bitNat sw * 2 ^ 31 + packFields [(o, 23), (x0.toNat, 17), (x1.toNat, 11), (x2.toNat, 9), (x3.toNat, 7), (x4.toNat, 5), (x5.toNat, 0)]) →
    opcOf w = o ∧ swOf w = sw ∧ (fld w 0 0).toNat = 0 ∧ fld w 17 6 = x0 ∧ fld w 11 6 = x1 ∧ fld w 9 2 = x2 ∧ fld w 7 2 = x3 ∧ fld w 5 1 = x4 ∧ fld w 0 5 = x5 ∧ fld w 6 1 = 0 := by
  intro w hw
  have h : Placed 32 [(bitNat sw, 31, 1), (o, 23, 8), (x0.toNat, 17, 6), (x1.toNat, 11, 6), (x2.toNat, 9, 2), (x3.toNat, 7, 2), (0, 6, 1), (x4.toNat, 5, 1), (x5.toNat, 0, 5)] :=
    ⟨le_of rfl, bitNat_lt sw, le_of rfl, ho, le_of rfl, x0.isLt, le_of rfl, x1.isLt, le_of rfl, x2.isLt, le_of rfl, x3.isLt, le_of rfl, Nat.two_pow_pos _, le_of rfl, x4.isLt, le_of rfl, x5.isLt, trivial⟩
  have e : bitNat sw * 2 ^ 31 + packFields [(o, 23), (x0.toNat, 17), (x1.toNat, 11), (x2.toNat, 9), (x3.toNat, 7), (x4.toNat, 5), (x5.toNat, 0)] = pack [(bitNat sw, 31, 1), (o, 23, 8), (x0.toNat, 17, 6), (x1.toNat, 11, 6), (x2.toNat, 9, 2), (x3.toNat, 7, 2), (0, 6, 1), (x4.toNat, 5, 1), (x5.toNat, 0, 5)] := by
    simp only [packFields, pack]; omega
  rw [e] at hw
  subst hw
  exact ⟨fld_placed h 23 8 (.tail _ (.head _)), swOf_placed h (.head _), fld_none _ _, fld_placed_eq h (.tail _ (.tail _ (.head _))), fld_placed_eq h (.tail _ (.tail _ (.tail _ (.head _)))), fld_placed_eq h (.tail _ (.tail _ (.tail _ (.tail _ (.head _))))), fld_placed_eq h (.tail _ (.tail _ (.tail _ (.tail _ (.tail _ (.head _)))))), fld_placed_eq h (.tail _ (.tail _ (.tail _ (.tail _ (.tail _ (.tail _ (.tail _ (.head _)))))))), fld_placed_eq h (.tail _ (.tail _ (.tail _ (.tail _ (.tail _ (.tail _ (.tail _ (.tail _ (.head _))))))))), fld_placed_eq (x := 0) h (.tail _ (.tail _ (.tail _ (.tail _ (.tail _ (.tail _ (.head _)))))))⟩

theorem word13 (o : Nat) (x0 : BitVec 6) (x1 : BitVec 6) (x2 : BitVec 2) (x3 : BitVec 2) (x4 : BitVec 1) (x5 : BitVec 3) (sw : Bool) (ho : o < 256) :
    ∀ w, w = BitVec.ofNat 32 (bitNat sw * 2 ^ 31 + packFields [(o, 23), (x0.toNat, 17), (x1.toNat, 11), (x2.toNat, 9), (x3.toNat, 7), (x4.toNat, 3), (x5.toNat, 0)]) →
    opcOf w = o ∧ swOf w = sw ∧ (fld w 0 0).toNat = 0 ∧ fld w 17 6 = x0 ∧ fld w 11 6 = x1 ∧ fld w 9 2 = x2 ∧ fld w 7 2 = x3 ∧ fld w 3 1 = x4 ∧ fld w 0 3 = x5 ∧ fld w 4 3 = 0 := by
  intro w hw
  have h : Placed 32 [(bitNat sw, 31, 1), (o, 23, 8), (x0.toNat, 17, 6), (x1.toNat, 11, 6), (x2.toNat, 9, 2), (x3.toNat, 7, 2), (0, 4, 3), (x4.toNat, 3, 1), (x5.toNat, 0, 3)] :=
    ⟨le_of rfl, bitNat_lt sw, le_of rfl, ho, le_of rfl, x0.isLt, le_of rfl, x1.isLt, le_of rfl, x2.isLt, le_of rfl, x3.isLt, le_of rfl, Nat.two_pow_pos _, le_of rfl, x4.isLt, le_of rfl, x5.isLt, trivial⟩
  have e : bitNat sw * 2 ^ 31 + packFields [(o, 23), (x0.toNat, 17), (x1.toNat, 11), (x2.toNat, 9), (x3.toNat, 7), (x4.toNat, 3), (x5.toNat, 0)] = pack [(bitNat sw, 31, 1), (o, 23, 8), (x0.toNat, 17, 6), (x1.toNat, 11, 6), (x2.toNat, 9, 2), (x3.toNat, 7, 2), (0, 4, 3), (x4.toNat, 3, 1), (x5.toNat, 0, 3)] := by
    simp only [packFields, pack]; omega
  rw [e] at hw
  subst hw
  exact ⟨fld_placed h 23 8 (.tail _ (.head _)), swOf_placed h (.head _), fld_none _ _, fld_placed_eq h (.tail _ (.tail _ (.head _))), fld_placed_eq h (.tail _ (.tail _ (.tail _ (.head _)))), fld_placed_eq h (.tail _ (.tail _ (.tail _ (.tail _ (.head _))))), fld_placed_eq h (.tail _ (.tail _ (.tail _ (.tail _ (.tail _ (.head _)))))), fld_placed_eq h (.tail _ (.tail _ (.tail _ (.tail _ (.tail _ (.tail _ (.tail _ (.head _)))))))), fld_placed_eq h (.tail _ (.tail _ (.tail _ (.tail _ (.tail _ (.tail _ (.tail _ (.tail _ (.head _))))))))), fld_placed_eq (x := 0) h (.tail _ (.tail _ (.tail _ (.tail _ (.tail _ (.tail _ (.head _)))))))⟩

theorem word14 (o : Nat) (x0 : BitVec 6) (x1 : BitVec 6) (x2 : BitVec 2) (x3 : BitVec 2) (sw : Bool) (ho : o < 256) :
    ∀ w, w = BitVec.ofNat 32 (bitNat sw * 2 ^ 31 + packFields [(o, 23), (x0.toNat, 17), (x1.toNat, 11), (x2.toNat, 9), (x3.toNat, 7)]) →
    opcOf w = o ∧ swOf w = sw ∧ (fld w 0 0).toNat = 0 ∧ fld w 17 6 = x0 ∧ fld w 11 6 = x1 ∧ fld w 9 2 = x2 ∧ fld w 7 2 = x3 ∧ fld w 0 7 = 0 := by
  intro w hw
  have h : Placed 32 [(bitNat sw, 31, 1), (o, 23, 8), (x0.toNat, 17, 6), (x1.toNat, 11, 6), (x2.toNat, 9, 2), (x3.toNat, 7, 2), (0, 0, 7)] :=
    ⟨le_of rfl, bitNat_lt sw, le_of rfl, ho, le_of rfl, x0.isLt, le_of rfl, x1.isLt, le_of rfl, x2.isLt, le_of rfl, x3.isLt, le_of rfl, Nat.two_pow_pos _, trivial⟩
  have e : bitNat sw * 2 ^ 31 + packFields [(o, 23), (x0.toNat, 17), (x1.toNat, 11), (x2.toNat, 9), (x3.toNat, 7)] = pack [(bitNat sw, 31, 1), (o, 23, 8), (x0.toNat, 17, 6), (x1.toNat, 11, 6), (x2.toNat, 9, 2), (x3.toNat, 7, 2), (0, 0, 7)] := by
    simp only [packFields, pack]; omega
  rw [e] at hw
  subst hw
  exact ⟨fld_placed h 23 8 (.tail _ (.head _)), swOf_placed h (.head _), fld_none _ _, fld_placed_eq h (.tail _ (.tail _ (.head _))), fld_placed_eq h (.tail _ (.tail _ (.tail _ (.head _)))), fld_placed_eq h (.tail _ (.tail _ (.tail _ (.tail _ (.head _))))), fld_placed_eq h (.tail _ (.tail _ (.tail _ (.tail _ (.tail _ (.head _)))))), fld_placed_eq (x := 0) h (.tail _ (.tail _ (.tail _ (.tail _ (.tail _ (.tail _ (.head _)))))))⟩

theorem word15 (o : Nat) (x0 : BitVec 6) (x1 : BitVec 6) (x2 : BitVec 2) (x3 : BitVec 3) (sw : Bool) (ho : o < 256) :
    ∀ w, w = BitVec.ofNat 32 (bitNat sw * 2 ^ 31 + packFields [(o, 23), (x0.toNat, 17), (x1.toNat, 11), (x2.toNat, 9), (x3.toNat, 6)]) →
    opcOf w = o ∧ swOf w = sw ∧ (fld w 0 0).toNat = 0 ∧ fld w 17 6 = x0 ∧ fld w 11 6 = x1 ∧ fld w 9 2 = x2 ∧ fld w 6 3 = x3 ∧ fld w 0 6 = 0 := by
  intro w hw
  have h : Placed 32 [(bitNat sw, 31, 1), (o, 23, 8), (x0.toNat, 17, 6), (x1.toNat, 11, 6), (x2.toNat, 9, 2), (x3.toNat, 6, 3), (0, 0, 6)] :=
    ⟨le_of rfl, bitNat_lt sw, le_of rfl, ho, le_of rfl, x0.isLt, le_of rfl, x1.isLt, le_of rfl, x2.isLt, le_of rfl, x3.isLt, le_of rfl, Nat.two_pow_pos _, trivial⟩
  have e : bitNat sw * 2 ^ 31 + packFields [(o, 23), (x0.toNat, 17), (x1.toNat, 11), (x2.toNat, 9), (x3.toNat, 6)] = pack [(bitNat sw, 31, 1), (o, 23, 8), (x0.toNat, 17, 6), (x1.toNat, 11, 6), (x2.toNat, 9, 2), (x3.toNat, 6, 3), (0, 0, 6)] := by
    simp only [packFields, pack]; omega
  rw [e] at hw
  subst hw
  exact ⟨fld_placed h 23 8 (.tail _ (.head _)), swOf_placed h (.head _), fld_none _ _, fld_placed_eq h (.tail _ (.tail _ (.head _))), fld_placed_eq h (.tail _ (.tail _ (.tail _ (.head _)))), fld_placed_eq h (.tail _ (.tail _ (.tail _ (.tail _ (.head _))))), fld_placed_eq h (.tail _ (.tail _ (.tail _ (.tail _ (.tail _ (.head _)))))), fld_placed_eq (x := 0) h (.tail _ (.tail _ (.tail _ (.tail _ (.tail _ (.tail _ (.head _)))))))⟩

theorem word16 (o : Nat) (x0 : BitVec 6) (x1 : BitVec 6) (x2 : BitVec 2) (x3 : BitVec 3) (x4 : BitVec 1) (sw : Bool) (ho : o < 256) :
    ∀ w, w = BitVec.ofNat 32 (bitNat sw * 2 ^ 31 + packFields [(o, 23), (x0.toNat, 17), (x1.toNat, 11), (x2.toNat, 9), (x3.toNat, 6), (x4.toNat, 5)]) →
    opcOf w = o ∧ swOf w = sw ∧ (fld w 0 0).toNat = 0 ∧ fld w 17 6 = x0 ∧ fld w 11 6 = x1 ∧ fld w 9 2 = x2 ∧ fld w 6 3 = x3 ∧ fld w 5 1 = x4 ∧ fld w 0 5 = 0 := by
  intro w hw
  have h : Placed 32 [(bitNat sw, 31, 1), (o, 23, 8), (x0.toNat, 17, 6), (x1.toNat, 11, 6), (x2.toNat, 9, 2), (x3.toNat, 6, 3), (x4.toNat, 5, 1), (0, 0, 5)] :=
    ⟨le_of rfl, bitNat_lt sw, le_of rfl, ho, le_of rfl, x0.isLt, le_of rfl, x1.isLt, le_of rfl, x2.isLt, le_of rfl, x3.isLt, le_of rfl, x4.isLt, le_of rfl, Nat.two_pow_pos _, trivial⟩
  have e : bitNat sw * 2 ^ 31 + packFields [(o, 23), (x0.toNat, 17), (x1.toNat, 11), (x2.toNat, 9), (x3.toNat, 6), (x4.toNat, 5)] = pack [(bitNat sw, 31, 1), (o, 23, 8), (x0.toNat, 17, 6), (x1.toNat, 11, 6), (x2.toNat, 9, 2), (x3.toNat, 6, 3), (x4.toNat, 5, 1), (0, 0, 5)] := by
    simp only [packFields, pack]; omega
  rw [e] at hw
  subst hw
  exact ⟨fld_placed h 23 8 (.tail _ (.head _)), swOf_placed h (.head _), fld_none _ _, fld_placed_eq h (.tail _ (.tail _ (.head _))), fld_placed_eq h (.tail _ (.tail _ (.tail _ (.head _)))), fld_placed_eq h (.tail _ (.tail _ (.tail _ (.tail _ (.head _))))), fld_placed_eq h (.tail _ (.tail _ (.tail _ (.tail _ (.tail _ (.head _)))))), fld_placed_eq h (.tail _ (.tail _ (.tail _ (.tail _ (.tail _ (.tail _ (.head _))))))), fld_placed_eq (x := 0) h (.tail _ (.tail _ (.tail _ (.tail _ (.tail _ (.tail _ (.tail _ (.head _))))))))⟩

theorem word17 (o : Nat) (x0 : BitVec 3) (sw : Bool) (ho : o < 256) :
    ∀ w, w = BitVec.ofNat 32 (bitNat sw * 2 ^ 31 + packFields [(o, 23), (x0.toNat, 0)]) →
    opcOf w = o ∧ swOf w = sw ∧ (fld w 0 0).toNat = 0 ∧ fld w 0 3 = x0 ∧ fld w 3 20 = 0 := by
  intro w hw
  have h : Placed 32 [(bitNat sw, 31, 1), (o, 23, 8), (0, 3, 20), (x0.toNat, 0, 3)] :=
    ⟨le_of rfl, bitNat_lt sw, le_of rfl, ho, le_of rfl, Nat.two_pow_pos _, le_of rfl, x0.isLt, trivial⟩
  have e : bitNat sw * 2 ^ 31 + packFields [(o, 23), (x0.toNat, 0)] = pack [(bitNat sw, 31, 1), (o, 23, 8), (0, 3, 20), (x0.toNat, 0, 3)] := by
    simp only [packFields, pack]; omega
  rw [e] at hw
  subst hw
  exact ⟨fld_placed h 23 8 (.tail _ (.head _)), swOf_placed h (.head _), fld_none _ _, fld_placed_eq h (.tail _ (.tail _ (.tail _ (.head _)))), fld_placed_eq (x := 0) h (.tail _ (.tail _ (.head _)))⟩

theorem word18 (o : Nat) (x0 : BitVec 6) (x1 : BitVec 5) (sw : Bool) (ho : o < 256) :
    ∀ w, w = BitVec.ofNat 32 (bitNat sw * 2 ^ 31 + packFields [(o, 23), (x0.toNat, 17), (x1.toNat, 0)]) →
    opcOf w = o ∧ swOf w = sw ∧ (fld w 0 0).toNat = 0 ∧ fld w 17 6 = x0 ∧ fld w 0 5 = x1 ∧ fld w 5 12 = 0 := by
  intro w hw
  have h : Placed 32 [(bitNat sw, 31, 1), (o, 23, 8), (x0.toNat, 17, 6), (0, 5, 12), (x1.toNat, 0, 5)] :=
    ⟨le_of rfl, bitNat_lt sw, le_of rfl, ho, le_of rfl, x0.isLt, le_of rfl, Nat.two_pow_pos _, le_of rfl, x1.isLt, trivial⟩
  have e : bitNat sw * 2 ^ 31 + packFields [(o, 23), (x0.toNat, 17), (x1.toNat, 0)] = pack [(bitNat sw, 31, 1), (o, 23, 8), (x0.toNat, 17, 6), (0, 5, 12), (x1.toNat, 0, 5)] := by
    simp only [packFields, pack]; omega
  rw [e] at hw
  subst hw
  exact ⟨fld_placed h 23 8 (.tail _ (.head _)), swOf_placed h (.head _), fld_none _ _, fld_placed_eq h (.tail _ (.tail _ (.head _))), fld_placed_eq h (.tail _ (.tail _ (.tail _ (.tail _ (.head _))))), fld_placed_eq (x := 0) h (.tail _ (.tail _ (.tail _ (.head _))))⟩

theorem word19 (o : Nat) (x0 : BitVec 6) (x1 : BitVec 6) (x2 : BitVec 2) (x3 : BitVec 1) (x4 : BitVec 1) (x5 : BitVec 1) (x6 : BitVec 5) (sw : Bool) (ho : o < 256) :
    ∀ w, w = BitVec.ofNat 32 (bitNat sw * 2 ^ 31 + packFields [(o, 23), (x0.toNat, 17), (x1.toNat, 11), (x2.toNat, 9), (x3.toNat, 7), (x4.toNat, 6), (x5.toNat, 5), (x6.toNat, 0)]) →
    opcOf w = o ∧ swOf w = sw ∧ (fld w 0 0).toNat = 0 ∧ fld w 17 6 = x0 ∧ fld w 11 6 = x1 ∧ fld w 9 2 = x2 ∧ fld w 7 1 = x3 ∧ fld w 6 1 = x4 ∧ fld w 5 1 = x5 ∧ fld w 0 5 = x6 ∧ fld w 8 1 = 0 := by
  intro w hw
  have h : Placed 32 [(bitNat sw, 31, 1), (o, 23, 8), (x0.toNat, 17, 6), (x1.toNat, 11, 6), (x2.toNat, 9, 2), (0, 8, 1), (x3.toNat, 7, 1), (x4.toNat, 6, 1), (x5.toNat, 5, 1), (x6.toNat, 0, 5)] :=
    ⟨le_of rfl, bitNat_lt sw, le_of rfl, ho, le_of rfl, x0.isLt, le_of rfl, x1.isLt, le_of rfl, x2.isLt, le_of rfl, Nat.two_pow_pos _, le_of rfl, x3.isLt, le_of rfl, x4.isLt, le_of rfl, x5.isLt, le_of rfl, x6.isLt, trivial⟩
  have e : bitNat sw * 2 ^ 31 + packFields [(o, 23), (x0.toNat, 17), (x1.toNat, 11), (x2.toNat, 9), (x3.toNat, 7), (x4.toNat, 6), (x5.toNat, 5), (x6.toNat, 0)] = pack [(bitNat sw, 31, 1), (o, 23, 8), (x0.toNat, 17, 6), (x1.toNat, 11, 6), (x2.toNat, 9, 2), (0, 8, 1), (x3.toNat, 7, 1), (x4.toNat, 6, 1), (x5.toNat, 5, 1), (x6.toNat, 0, 5)] := by
    simp only [packFields, pack]; omega
  rw [e] at hw
  subst hw
  exact ⟨fld_placed h 23 8 (.tail _ (.head _)), swOf_placed h (.head _), fld_none _ _, fld_placed_eq h (.tail _ (.tail _ (.head _))), fld_placed_eq h (.tail _ (.tail _ (.tail _ (.head _)))), fld_placed_eq h (.tail _ (.tail _ (.tail _ (.tail _ (.head _))))), fld_placed_eq h (.tail _ (.tail _ (.tail _ (.tail _ (.tail _ (.tail _ (.head _))))))), fld_placed_eq h (.tail _ (.tail _ (.tail _ (.tail _ (.tail _ (.tail _ (.tail _ (.head _)))))))), fld_placed_eq h (.tail _ (.tail _ (.tail _ (.tail _ (.tail _ (.tail _ (.tail _ (.tail _ (.head _))))))))), fld_placed_eq h (.tail _ (.tail _ (.tail _ (.tail _ (.tail _ (.tail _ (.tail _ (.tail _ (.tail _ (.head _)))))))))), fld_placed_eq (x := 0) h (.tail _ (.tail _ (.tail _ (.tail _ (.tail _ (.head _))))))⟩

theorem word20 (o : Nat) (x0 : BitVec 6) (x1 : BitVec 6) (x2 : BitVec 1) (sw : Bool) (ho : o < 256) :
    ∀ w, w = BitVec.ofNat 32 (bitNat sw * 2 ^ 31 + packFields [(o, 23), (x0.toNat, 17), (x1.toNat, 11), (x2.toNat, 6)]) →
    opcOf w = o ∧ swOf w = sw ∧ (fld w 0 0).toNat = 0 ∧ fld w 17 6 = x0 ∧ fld w 11 6 = x1 ∧ fld w 6 1 = x2 ∧ fld w 0 6 = 0 ∧ fld w 7 4 = 0 := by
  intro w hw
  have h : Placed 32 [(bitNat sw, 31, 1), (o, 23, 8), (x0.toNat, 17, 6), (x1.toNat, 11, 6), (0, 7, 4), (x2.toNat, 6, 1), (0, 0, 6)] :=
    ⟨le_of rfl, bitNat_lt sw, le_of rfl, ho, le_of rfl, x0.isLt, le_of rfl, x1.isLt, le_of rfl, Nat.two_pow_pos _, le_of rfl, x2.isLt, le_of rfl, Nat.two_pow_pos _, trivial⟩
  have e : bitNat sw * 2 ^ 31 + packFields [(o, 23), (x0.toNat, 17), (x1.toNat, 11), (x2.toNat, 6)] = pack [(bitNat sw, 31, 1), (o, 23, 8), (x0.toNat, 17, 6), (x1.toNat, 11, 6), (0, 7, 4), (x2.toNat, 6, 1), (0, 0, 6)] := by
    simp only [packFields, pack]; omega
  rw [e] at hw
  subst hw
  exact ⟨fld_placed h 23 8 (.tail _ (.head _)), swOf_placed h (.head _), fld_none _ _, fld_placed_eq h (.tail _ (.tail _ (.head _))), fld_placed_eq h (.tail _ (.tail _ (.tail _ (.head _)))), fld_placed_eq h (.tail _ (.tail _ (.tail _ (.tail _ (.tail _ (.head _)))))), fld_placed_eq (x := 0) h (.tail _ (.tail _ (.tail _ (.tail _ (.tail _ (.tail _ (.head _))))))), fld_placed_eq (x := 0) h (.tail _ (.tail _ (.tail _ (.tail _ (.head _)))))⟩

theorem word21 (o : Nat) (x0 : BitVec 3) (x1 : BitVec 3) (x2 : BitVec 1) (x3 : BitVec 1) (x4 : BitVec 3) (sw : Bool) (ho : o < 256) :
    ∀ w, w = BitVec.ofNat 32 (bitNat sw * 2 ^ 31 + packFields [(o, 23), (x0.toNat, 17), (x1.toNat, 11), (x2.toNat, 5), (x3.toNat, 4), (x4.toNat, 0)]) →
    opcOf w = o ∧ swOf w = sw ∧ (fld w 6 3).toNat = 0 ∧ fld w 17 3 = x0 ∧ fld w 11 3 = x1 ∧ fld w 5 1 = x2 ∧ fld w 4 1 = x3 ∧ fld w 0 3 = x4 ∧ fld w 3 1 = 0 ∧ fld w 9 2 = 0 ∧ fld w 14 3 = 0 ∧ fld w 20 3 = 0 := by
  intro w hw
  have h : Placed 32 [(bitNat sw, 31, 1), (o, 23, 8), (0, 20, 3), (x0.toNat, 17, 3), (0, 14, 3), (x1.toNat, 11, 3), (0, 9, 2), (0, 6, 3), (x2.toNat, 5, 1), (x3.toNat, 4, 1), (0, 3, 1), (x4.toNat, 0, 3)] :=
    ⟨le_of rfl, bitNat_lt sw, le_of rfl, ho, le_of rfl, Nat.two_pow_pos _, le_of rfl, x0.isLt, le_of rfl, Nat.two_pow_pos _, le_of rfl, x1.isLt, le_of rfl, Nat.two_pow_pos _, le_of rfl, by decide, le_of rfl, x2.isLt, le_of rfl, x3.isLt, le_of rfl, Nat.two_pow_pos _, le_of rfl, x4.isLt, trivial⟩
  have e : bitNat sw * 2 ^ 31 + packFields [(o, 23), (x0.toNat, 17), (x1.toNat, 11), (x2.toNat, 5), (x3.toNat, 4), (x4.toNat, 0)] = pack [(bitNat sw, 31, 1), (o, 23, 8), (0, 20, 3), (x0.toNat, 17, 3), (0, 14, 3), (x1.toNat, 11, 3), (0, 9, 2), (0, 6, 3), (x2.toNat, 5, 1), (x3.toNat, 4, 1), (0, 3, 1), (x4.toNat, 0, 3)] := by
    simp only [packFields, pack]; omega
  rw [e] at hw
  subst hw
  exact ⟨fld_placed h 23 8 (.tail _ (.head _)), swOf_placed h (.head _), fld_placed h 6 3 (.tail _ (.tail _ (.tail _ (.tail _ (.tail _ (.tail _ (.tail _ (.head _)))))))), fld_placed_eq h (.tail _ (.tail _ (.tail _ (.head _)))), fld_placed_eq h (.tail _ (.tail _ (.tail _ (.tail _ (.tail _ (.head _)))))), fld_placed_eq h (.tail _ (.tail _ (.tail _ (.tail _ (.tail _ (.tail _ (.tail _ (.tail _ (.head _))))))))), fld_placed_eq h (.tail _ (.tail _ (.tail _ (.tail _ (.tail _ (.tail _ (.tail _ (.tail _ (.tail _ (.head _)))))))))), fld_placed_eq h (.tail _ (.tail _ (.tail _ (.tail _ (.tail _ (.tail _ (.tail _ (.tail _ (.tail _ (.tail _ (.tail _ (.head _)))))))))))), fld_placed_eq (x := 0) h (.tail _ (.tail _ (.tail _ (.tail _ (.tail _ (.tail _ (.tail _ (.tail _ (.tail _ (.tail _ (.head _))))))))))), fld_placed_eq (x := 0) h (.tail _ (.tail _ (.tail _ (.tail _ (.tail _ (.tail _ (.head _))))))), fld_placed_eq (x := 0) h (.tail _ (.tail _ (.tail _ (.tail _ (.head _))))), fld_placed_eq (x := 0) h (.tail _ (.tail _ (.head _)))⟩

theorem word22 (o : Nat) (k : Nat) (x0 : BitVec 3) (x1 : BitVec 3) (x2 : BitVec 1) (x3 : BitVec 1) (x4 : BitVec 3) (sw : Bool) (ho : o < 256) (hk : k < 8) :
    ∀ w, w = BitVec.ofNat 32 (bitNat sw * 2 ^ 31 + packFields [(o, 23), (k, 6), (x0.toNat, 17), (x1.toNat, 11), (x2.toNat, 5), (x3.toNat, 4), (x4.toNat, 0)]) →
    opcOf w = o ∧ swOf w = sw ∧ (fld w 6 3).toNat = k ∧ fld w 17 3 = x0 ∧ fld w 11 3 = x1 ∧ fld w 5 1 = x2 ∧ fld w 4 1 = x3 ∧ fld w 0 3 = x4 ∧ fld w 3 1 = 0 ∧ fld w 9 2 = 0 ∧ fld w 14 3 = 0 ∧ fld w 20 3 = 0 := by
  intro w hw
  have h : Placed 32 [(bitNat sw, 31, 1), (o, 23, 8), (0, 20, 3), (x0.toNat, 17, 3), (0, 14, 3), (x1.toNat, 11, 3), (0, 9, 2), (k, 6, 3), (x2.toNat, 5, 1), (x3.toNat, 4, 1), (0, 3, 1), (x4.toNat, 0, 3)] :=
    ⟨le_of rfl, bitNat_lt sw, le_of rfl, ho, le_of rfl, Nat.two_pow_pos _, le_of rfl, x0.isLt, le_of rfl, Nat.two_pow_pos _, le_of rfl, x1.isLt, le_of rfl, Nat.two_pow_pos _, le_of rfl, hk, le_of rfl, x2.isLt, le_of rfl, x3.isLt, le_of rfl, Nat.two_pow_pos _, le_of rfl, x4.isLt, trivial⟩
  have e : bitNat sw * 2 ^ 31 + packFields [(o, 23), (k, 6), (x0.toNat, 17), (x1.toNat, 11), (x2.toNat, 5), (x3.toNat, 4), (x4.toNat, 0)] = pack [(bitNat sw, 31, 1), (o, 23, 8), (0, 20, 3), (x0.toNat, 17, 3), (0, 14, 3), (x1.toNat, 11, 3), (0, 9, 2), (k, 6, 3), (x2.toNat, 5, 1), (x3.toNat, 4, 1), (0, 3, 1), (x4.toNat, 0, 3)] := by
    simp only [packFields, pack]; omega
  rw [e] at hw
  subst hw
  exact ⟨fld_placed h 23 8 (.tail _ (.head _)), swOf_placed h (.head _), fld_placed h 6 3 (.tail _ (.tail _ (.tail _ (.tail _ (.tail _ (.tail _ (.tail _ (.head _)))))))), fld_placed_eq h (.tail _ (.tail _ (.tail _ (.head _)))), fld_placed_eq h (.tail _ (.tail _ (.tail _ (.tail _ (.tail _ (.head _)))))), fld_placed_eq h (.tail _ (.tail _ (.tail _ (.tail _ (.tail _ (.tail _ (.tail _ (.tail _ (.head _))))))))), fld_placed_eq h (.tail _ (.tail _ (.tail _ (.tail _ (.tail _ (.tail _ (.tail _ (.tail _ (.tail _ (.head _)))))))))), fld_placed_eq h (.tail _ (.tail _ (.tail _ (.tail _ (.tail _ (.tail _ (.tail _ (.tail _ (.tail _ (.tail _ (.tail _ (.head _)))))))))))), fld_placed_eq (x := 0) h (.tail _ (.tail _ (.tail _ (.tail _ (.tail _ (.tail _ (.tail _ (.tail _ (.tail _ (.tail _ (.head _))))))))))), fld_placed_eq (x := 0) h (.tail _ (.tail _ (.tail _ (.tail _ (.tail _ (.tail _ (.head _))))))), fld_placed_eq (x := 0) h (.tail _ (.tail _ (.tail _ (.tail _ (.head _))))), fld_placed_eq (x := 0) h (.tail _ (.tail _ (.head _)))⟩

theorem word23 (o : Nat) (k : Nat) (x0 : BitVec 6) (x1 : BitVec 3) (sw : Bool) (ho : o < 256) (hk : k < 8) :
    ∀ w, w = BitVec.ofNat 32 (bitNat sw * 2 ^ 31 + packFields [(o, 23), (k, 6), (x0.toNat, 17), (x1.toNat, 11)]) →
    opcOf w = o ∧ swOf w = sw ∧ (fld w 6 3).toNat = k ∧ fld w 17 6 = x0 ∧ fld w 11 3 = x1 ∧ fld w 0 6 = 0 ∧ fld w 9 2 = 0 ∧ fld w 14 3 = 0 := by
  intro w hw
  have h : Placed 32 [(bitNat sw, 31, 1), (o, 23, 8), (x0.toNat, 17, 6), (0, 14, 3), (x1.toNat, 11, 3), (0, 9, 2), (k, 6, 3), (0, 0, 6)] :=
    ⟨le_of rfl, bitNat_lt sw, le_of rfl, ho, le_of rfl, x0.isLt, le_of rfl, Nat.two_pow_pos _, le_of rfl, x1.isLt, le_of rfl, Nat.two_pow_pos _, le_of rfl, hk, le_of rfl, Nat.two_pow_pos _, trivial⟩
  have e : bitNat sw * 2 ^ 31 + packFields [(o, 23), (k, 6), (x0.toNat, 17), (x1.toNat, 11)] = pack [(bitNat sw, 31, 1), (o, 23, 8), (x0.toNat, 17, 6), (0, 14, 3), (x1.toNat, 11, 3), (0, 9, 2), (k, 6, 3), (0, 0, 6)] := by
    simp only [packFields, pack]; omega
  rw [e] at hw
  subst hw
  exact ⟨fld_placed h 23 8 (.tail _ (.head _)), swOf_placed h (.head _), fld_placed h 6 3 (.tail _ (.tail _ (.tail _ (.tail _ (.tail _ (.tail _ (.head _))))))), fld_placed_eq h (.tail _ (.tail _ (.head _))), fld_placed_eq h (.tail _ (.tail _ (.tail _ (.tail _ (.head _))))), fld_placed_eq (x := 0) h (.tail _ (.tail _ (.tail _ (.tail _ (.tail _ (.tail _ (.tail _ (.head _)))))))), fld_placed_eq (x := 0) h (.tail _ (.tail _ (.tail _ (.tail _ (.tail _ (.head _)))))), fld_placed_eq (x := 0) h (.tail _ (.tail _ (.tail _ (.head _))))⟩

theorem word24 (o : Nat) (k : Nat) (x0 : BitVec 3) (x1 : BitVec 6) (x2 : BitVec 2) (sw : Bool) (ho : o < 256) (hk : k < 8) :
    ∀ w, w = BitVec.ofNat 32 (bitNat sw * 2 ^ 31 + packFields [(o, 23), (k, 6), (x0.toNat, 17), (x1.toNat, 11), (x2.toNat, 9)]) →
    opcOf w = o ∧ swOf w = sw ∧ (fld w 6 3).toNat = k ∧ fld w 17 3 = x0 ∧ fld w 11 6 = x1 ∧ fld w 9 2 = x2 ∧ fld w 0 6 = 0 ∧ fld w 20 3 = 0 := by
  intro w hw
  have h : Placed 32 [(bitNat sw, 31, 1), (o, 23, 8), (0, 20, 3), (x0.toNat, 17, 3), (x1.toNat, 11, 6), (x2.toNat, 9, 2), (k, 6, 3), (0, 0, 6)] :=
    ⟨le_of rfl, bitNat_lt sw, le_of rfl, ho, le_of rfl, Nat.two_pow_pos _, le_of rfl, x0.isLt, le_of rfl, x1.isLt, le_of rfl, x2.isLt, le_of rfl, hk, le_of rfl, Nat.two_pow_pos _, trivial⟩
  have e : bitNat sw * 2 ^ 31 + packFields [(o, 23), (k, 6), (x0.toNat, 17), (x1.toNat, 11), (x2.toNat, 9)] = pack [(bitNat sw, 31, 1), (o, 23, 8), (0, 20, 3), (x0.toNat, 17, 3), (x1.toNat, 11, 6), (x2.toNat, 9, 2), (k, 6, 3), (0, 0, 6)] := by
    simp only [packFields, pack]; omega
  rw [e] at hw
  subst hw
  exact ⟨fld_placed h 23 8 (.tail _ (.head _)), swOf_placed h (.head _), fld_placed h 6 3 (.tail _ (.tail _ (.tail _ (.tail _ (.tail _ (.tail _ (.head _))))))), fld_placed_eq h (.tail _ (.tail _ (.tail _ (.head _)))), fld_placed_eq h (.tail _ (.tail _ (.tail _ (.tail _ (.head _))))), fld_placed_eq h (.tail _ (.tail _ (.tail _ (.tail _ (.tail _ (.head _)))))), fld_placed_eq (x := 0) h (.tail _ (.tail _ (.tail _ (.tail _ (.tail _ (.tail _ (.tail _ (.head _)))))))), fld_placed_eq (x := 0) h (.tail _ (.tail _ (.head _)))⟩

theorem word25 (o : Nat) (k : Nat) (x0 : BitVec 3) (x1 : BitVec 6) (sw : Bool) (ho : o < 256) (hk : k < 8) :
    ∀ w, w = BitVec.ofNat 32 (bitNat sw * 2 ^ 31 + packFields [(o, 23), (k, 6), (x0.toNat, 17), (x1.toNat, 11)]) →
    opcOf w = o ∧ swOf w = sw ∧ (fld w 6 3).toNat = k ∧ fld w 17 3 = x0 ∧ fld w 11 6 = x1 ∧ fld w 0 6 = 0 ∧ fld w 9 2 = 0 ∧ fld w 20 3 = 0 := by
  intro w hw
  have h : Placed 32 [(bitNat sw, 31, 1), (o, 23, 8), (0, 20, 3), (x0.toNat, 17, 3), (x1.toNat, 11, 6), (0, 9, 2), (k, 6, 3), (0, 0, 6)] :=
    ⟨le_of rfl, bitNat_lt sw, le_of rfl, ho, le_of rfl, Nat.two_pow_pos _, le_of rfl, x0.isLt, le_of rfl, x1.isLt, le_of rfl, Nat.two_pow_pos _, le_of rfl, hk, le_of rfl, Nat.two_pow_pos _, trivial⟩
  have e : bitNat sw * 2 ^ 31 + packFields [(o, 23), (k, 6), (x0.toNat, 17), (x1.toNat, 11)] = pack [(bitNat sw, 31, 1), (o, 23, 8), (0, 20, 3), (x0.toNat, 17, 3), (x1.toNat, 11, 6), (0, 9, 2), (k, 6, 3), (0, 0, 6)] := by
    simp only [packFields, pack]; omega
  rw [e] at hw
  subst hw
  exact ⟨fld_placed h 23 8 (.tail _ (.head _)), swOf_placed h (.head _), fld_placed h 6 3 (.tail _ (.tail _ (.tail _ (.tail _ (.tail _ (.tail _ (.head _))))))), fld_placed_eq h (.tail _ (.tail _ (.tail _ (.head _)))), fld_placed_eq h (.tail _ (.tail _ (.tail _ (.tail _ (.head _))))), fld_placed_eq (x := 0) h (.tail _ (.tail _ (.tail _ (.tail _ (.tail _ (.tail _ (.tail _ (.head _)))))))), fld_placed_eq (x := 0) h (.tail _ (.tail _ (.tail _ (.tail _ (.tail _ (.head _)))))), fld_placed_eq (x := 0) h (.tail _ (.tail _ (.head _)))⟩

theorem word26 (o : Nat) (x0 : BitVec 6) (x1 : BitVec 6) (x2 : BitVec 6) (sw : Bool) (ho : o < 256) :
    ∀ w, w = BitVec.ofNat 32 (bitNat sw * 2 ^ 31 + packFields [(o, 23), (x0.toNat, 17), (x1.toNat, 11), (x2.toNat, 5)]) →
    opcOf w = o ∧ swOf w = sw ∧ (fld w 0 0).toNat = 0 ∧ fld w 17 6 = x0 ∧ fld w 11 6 = x1 ∧ fld w 5 6 = x2 ∧ fld w 0 5 = 0 := by
  intro w hw
  have h : Placed 32 [(bitNat sw, 31, 1), (o, 23, 8), (x0.toNat, 17, 6), (x1.toNat, 11, 6), (x2.toNat, 5, 6), (0, 0, 5)] :=
    ⟨le_of rfl, bitNat_lt sw, le_of rfl, ho, le_of rfl, x0.isLt, le_of rfl, x1.isLt, le_of rfl, x2.isLt, le_of rfl, Nat.two_pow_pos _, trivial⟩
  have e : bitNat sw * 2 ^ 31 + packFields [(o, 23), (x0.toNat, 17), (x1.toNat, 11), (x2.toNat, 5)] = pack [(bitNat sw, 31, 1), (o, 23, 8), (x0.toNat, 17, 6), (x1.toNat, 11, 6), (x2.toNat, 5, 6), (0, 0, 5)] := by
    simp only [packFields, pack]; omega
  rw [e] at hw
  subst hw
  exact ⟨fld_placed h 23 8 (.tail _ (.head _)), swOf_placed h (.head _), fld_none _ _, fld_placed_eq h (.tail _ (.tail _ (.head _))), fld_placed_eq h (.tail _ (.tail _ (.tail _ (.head _)))), fld_placed_eq h (.tail _ (.tail _ (.tail _ (.tail _ (.head _))))), fld_placed_eq (x := 0) h (.tail _ (.tail _ (.tail _ (.tail _ (.tail _ (.head _))))))⟩

theorem word27 (o : Nat) (x0 : BitVec 6) (x1 : BitVec 6) (x2 : BitVec 6) (x3 : BitVec 2) (sw : Bool) (ho : o < 256) :
    ∀ w, w = BitVec.ofNat 32 (bitNat sw * 2 ^ 31 + packFields [(o, 23), (x0.toNat, 17), (x1.toNat, 11), (x2.toNat, 5), (x3.toNat, 0)]) →
    opcOf w = o ∧ swOf w = sw ∧ (fld w 0 0).toNat = 0 ∧ fld w 17 6 = x0 ∧ fld w 11 6 = x1 ∧ fld w 5 6 = x2 ∧ fld w 0 2 = x3 ∧ fld w 2 3 = 0 := by
  intro w hw
  have h : Placed 32 [(bitNat sw, 31, 1), (o, 23, 8), (x0.toNat, 17, 6), (x1.toNat, 11, 6), (x2.toNat, 5, 6), (0, 2, 3), (x3.toNat, 0, 2)] :=
    ⟨le_of rfl, bitNat_lt sw, le_of rfl, ho, le_of rfl, x0.isLt, le_of rfl, x1.isLt, le_of rfl, x2.isLt, le_of rfl, Nat.two_pow_pos _, le_of rfl, x3.isLt, trivial⟩
  have e : bitNat sw * 2 ^ 31 + packFields [(o, 23), (x0.toNat, 17), (x1.toNat, 11), (x2.toNat, 5), (x3.toNat, 0)] = pack [(bitNat sw, 31, 1), (o, 23, 8), (x0.toNat, 17, 6), (x1.toNat, 11, 6), (x2.toNat, 5, 6), (0, 2, 3), (x3.toNat, 0, 2)] := by
    simp only [packFields, pack]; omega
  rw [e] at hw
  subst hw
  exact ⟨fld_placed h 23 8 (.tail _ (.head _)), swOf_placed h (.head _), fld_none _ _, fld_placed_eq h (.tail _ (.tail _ (.head _))), fld_placed_eq h (.tail _ (.tail _ (.tail _ (.head _)))), fld_placed_eq h (.tail _ (.tail _ (.tail _ (.tail _ (.head _))))), fld_placed_eq h (.tail _ (.tail _ (.tail _ (.tail _ (.tail _ (.tail _ (.head _))))))), fld_placed_eq (x := 0) h (.tail _ (.tail _ (.tail _ (.tail _ (.tail _ (.head _))))))⟩

theorem word28 (o : Nat) (x0 : BitVec 6) (x1 : BitVec 6) (x2 : BitVec 6) (sw : Bool) (ho : o < 256) :
    ∀ w, w = BitVec.ofNat 32 (bitNat sw * 2 ^ 31 + packFields [(o, 23), (x0.toNat, 17), (x1.toNat, 11), (x2.toNat, 5)]) →
    opcOf w = o ∧ swOf w = sw ∧ (fld w 0 2).toNat = 0 ∧ fld w 17 6 = x0 ∧ fld w 11 6 = x1 ∧ fld w 5 6 = x2 ∧ fld w 2 3 = 0 := by
  intro w hw
  have h : Placed 32 [(bitNat sw, 31, 1), (o, 23, 8), (x0.toNat, 17, 6), (x1.toNat, 11, 6), (x2.toNat, 5, 6), (0, 2, 3), (0, 0, 2)] :=
    ⟨le_of rfl, bitNat_lt sw, le_of rfl, ho, le_of rfl, x0.isLt, le_of rfl, x1.isLt, le_of rfl, x2.isLt, le_of rfl, Nat.two_pow_pos _, le_of rfl, by decide, trivial⟩
  have e : bitNat sw * 2 ^ 31 + packFields [(o, 23), (x0.toNat, 17), (x1.toNat, 11), (x2.toNat, 5)] = pack [(bitNat sw, 31, 1), (o, 23, 8), (x0.toNat, 17, 6), (x1.toNat, 11, 6), (x2.toNat, 5, 6), (0, 2, 3), (0, 0, 2)] := by
    simp only [packFields, pack]; omega
  rw [e] at hw
  subst hw
  exact ⟨fld_placed h 23 8 (.tail _ (.head _)), swOf_placed h (.head _), fld_placed h 0 2 (.tail _ (.tail _ (.tail _ (.tail _ (.tail _ (.tail _ (.head _))))))), fld_placed_eq h (.tail _ (.tail _ (.head _))), fld_placed_eq h (.tail _ (.tail _ (.tail _ (.head _)))), fld_placed_eq h (.tail _ (.tail _ (.tail _ (.tail _ (.head _))))), fld_placed_eq (x := 0) h (.tail _ (.tail _ (.tail _ (.tail _ (.tail _ (.head _))))))⟩

theorem word29 (o : Nat) (k : Nat) (x0 : BitVec 6) (x1 : BitVec 6) (x2 : BitVec 6) (sw : Bool) (ho : o < 256) (hk : k < 4) :
    ∀ w, w = BitVec.ofNat 32 (bitNat sw * 2 ^ 31 + packFields [(o, 23), (k, 0), (x0.toNat, 17), (x1.toNat, 11), (x2.toNat, 5)]) →
    opcOf w = o ∧ swOf w = sw ∧ (fld w 0 2).toNat = k ∧ fld w 17 6 = x0 ∧ fld w 11 6 = x1 ∧ fld w 5 6 = x2 ∧ fld w 2 3 = 0 := by
  intro w hw
  have h : Placed 32 [(bitNat sw, 31, 1), (o, 23, 8), (x0.toNat, 17, 6), (x1.toNat, 11, 6), (x2.toNat, 5, 6), (0, 2, 3), (k, 0, 2)] :=
    ⟨le_of rfl, bitNat_lt sw, le_of rfl, ho, le_of rfl, x0.isLt, le_of rfl, x1.isLt, le_of rfl, x2.isLt, le_of rfl, Nat.two_pow_pos _, le_of rfl, hk, trivial⟩
  have e : bitNat sw * 2 ^ 31 + packFields [(o, 23), (k, 0), (x0.toNat, 17), (x1.toNat, 11), (x2.toNat, 5)] = pack [(bitNat sw, 31, 1), (o, 23, 8), (x0.toNat, 17, 6), (x1.toNat, 11, 6), (x2.toNat, 5, 6), (0, 2, 3), (k, 0, 2)] := by
    simp only [packFields, pack]; omega
  rw [e] at hw
  subst hw
  exact ⟨fld_placed h 23 8 (.tail _ (.head _)), swOf_placed h (.head _), fld_placed h 0 2 (.tail _ (.tail _ (.tail _ (.tail _ (.tail _ (.tail _ (.head _))))))), fld_placed_eq h (.tail _ (.tail _ (.head _))), fld_placed_eq h (.tail _ (.tail _ (.tail _ (.head _)))), fld_placed_eq h (.tail _ (.tail _ (.tail _ (.tail _ (.head _))))), fld_placed_eq (x := 0) h (.tail _ (.tail _ (.tail _ (.tail _ (.tail _ (.head _))))))⟩

theorem word30 (o : Nat) (x0 : BitVec 6) (x1 : BitVec 6) (x2 : BitVec 6) (x3 : BitVec 1) (x4 : BitVec 3) (sw : Bool) (ho : o < 256) :
    ∀ w, w = BitVec.ofNat 32 (bitNat sw * 2 ^ 31 + packFields [(o, 23), (x0.toNat, 17), (x1.toNat, 11), (x2.toNat, 5), (x3.toNat, 3), (x4.toNat, 0)]) →
    opcOf w = o ∧ swOf w = sw ∧ (fld w 0 0).toNat = 0 ∧ fld w 17 6 = x0 ∧ fld w 11 6 = x1 ∧ fld w 5 6 = x2 ∧ fld w 3 1 = x3 ∧ fld w 0 3 = x4 ∧ fld w 4 1 = 0 := by
  intro w hw
  have h : Placed 32 [(bitNat sw, 31, 1), (o, 23, 8), (x0.toNat, 17, 6), (x1.toNat, 11, 6), (x2.toNat, 5, 6), (0, 4, 1), (x3.toNat, 3, 1), (x4.toNat, 0, 3)] :=
    ⟨le_of rfl, bitNat_lt sw, le_of rfl, ho, le_of rfl, x0.isLt, le_of rfl, x1.isLt, le_of rfl, x2.isLt, le_of rfl, Nat.two_pow_pos _, le_of rfl, x3.isLt, le_of rfl, x4.isLt, trivial⟩
  have e : bitNat sw * 2 ^ 31 + packFields [(o, 23), (x0.toNat, 17), (x1.toNat, 11), (x2.toNat, 5), (x3.toNat, 3), (x4.toNat, 0)] = pack [(bitNat sw, 31, 1), (o, 23, 8), (x0.toNat, 17, 6), (x1.toNat, 11, 6), (x2.toNat, 5, 6), (0, 4, 1), (x3.toNat, 3, 1), (x4.toNat, 0, 3)] := by
    simp only [packFields, pack]; omega
  rw [e] at hw
  subst hw
  exact ⟨fld_placed h 23 8 (.tail _ (.head _)), swOf_placed h (.head _), fld_none _ _, fld_placed_eq h (.tail _ (.tail _ (.head _))), fld_placed_eq h (.tail _ (.tail _ (.tail _ (.head _)))), fld_placed_eq h (.tail _ (.tail _ (.tail _ (.tail _ (.head _))))), fld_placed_eq h (.tail _ (.tail _ (.tail _ (.tail _ (.tail _ (.tail _ (.head _))))))), fld_placed_eq h (.tail _ (.tail _ (.tail _ (.tail _ (.tail _ (.tail _ (.tail _ (.head _)))))))), fld_placed_eq (x := 0) h (.tail _ (.tail _ (.tail _ (.tail _ (.tail _ (.head _))))))⟩

theorem word31 (o : Nat) (x0 : BitVec 6) (x1 : BitVec 6) (sw : Bool) (ho : o < 256) :
    ∀ w, w = BitVec.ofNat 32 (bitNat sw * 2 ^ 31 + packFields [(o, 23), (x0.toNat, 17), (x1.toNat, 11)]) →
    opcOf w = o ∧ swOf w = sw ∧ (fld w 0 3).toNat = 0 ∧ fld w 17 6 = x0 ∧ fld w 11 6 = x1 ∧ fld w 3 8 = 0 := by
  intro w hw
  have h : Placed 32 [(bitNat sw, 31, 1), (o, 23, 8), (x0.toNat, 17, 6), (x1.toNat, 11, 6), (0, 3, 8), (0, 0, 3)] :=
    ⟨le_of rfl, bitNat_lt sw, le_of rfl, ho, le_of rfl, x0.isLt, le_of rfl, x1.isLt, le_of rfl, Nat.two_pow_pos _, le_of rfl, by decide, trivial⟩
  have e : bitNat sw * 2 ^ 31 + packFields [(o, 23), (x0.toNat, 17), (x1.toNat, 11)] = pack [(bitNat sw, 31, 1), (o, 23, 8), (x0.toNat, 17, 6), (x1.toNat, 11, 6), (0, 3, 8), (0, 0, 3)] := by
    simp only [packFields, pack]; omega
  rw [e] at hw
  subst hw
  exact ⟨fld_placed h 23 8 (.tail _ (.head _)), swOf_placed h (.head _), fld_placed h 0 3 (.tail _ (.tail _ (.tail _ (.tail _ (.tail _ (.head _)))))), fld_placed_eq h (.tail _ (.tail _ (.head _))), fld_placed_eq h (.tail _ (.tail _ (.tail _ (.head _)))), fld_placed_eq (x := 0) h (.tail _ (.tail _ (.tail _ (.tail _ (.head _)))))⟩

theorem word32 (o : Nat) (k : Nat) (x0 : BitVec 3) (x1 : BitVec 6) (sw : Bool) (ho : o < 256) (hk : k < 8) :
    ∀ w, w = BitVec.ofNat 32 (bitNat sw * 2 ^ 31 + packFields [(o, 23), (k, 0), (x0.toNat, 17), (x1.toNat, 11)]) →
    opcOf w = o ∧ swOf w = sw ∧ (fld w 0 3).toNat = k ∧ fld w 17 3 = x0 ∧ fld w 11 6 = x1 ∧ fld w 3 8 = 0 ∧ fld w 20 3 = 0 := by
  intro w hw
  have h : Placed 32 [(bitNat sw, 31, 1), (o, 23, 8), (0, 20, 3), (x0.toNat, 17, 3), (x1.toNat, 11, 6), (0, 3, 8), (k, 0, 3)] :=
    ⟨le_of rfl, bitNat_lt sw, le_of rfl, ho, le_of rfl, Nat.two_pow_pos _, le_of rfl, x0.isLt, le_of rfl, x1.isLt, le_of rfl, Nat.two_pow_pos _, le_of rfl, hk, trivial⟩
  have e : bitNat sw * 2 ^ 31 + packFields [(o, 23), (k, 0), (x0.toNat, 17), (x1.toNat, 11)] = pack [(bitNat sw, 31, 1), (o, 23, 8), (0, 20, 3), (x0.toNat, 17, 3), (x1.toNat, 11, 6), (0, 3, 8), (k, 0, 3)] := by
    simp only [packFields, pack]; omega
  rw [e] at hw
  subst hw
  exact ⟨fld_placed h 23 8 (.tail _ (.head _)), swOf_placed h (.head _), fld_placed h 0 3 (.tail _ (.tail _ (.tail _ (.tail _ (.tail _ (.tail _ (.head _))))))), fld_placed_eq h (.tail _ (.tail _ (.tail _ (.head _)))), fld_placed_eq h (.tail _ (.tail _ (.tail _ (.tail _ (.head _))))), fld_placed_eq (x := 0) h (.tail _ (.tail _ (.tail _ (.tail _ (.tail _ (.head _)))))), fld_placed_eq (x := 0) h (.tail _ (.tail _ (.head _)))⟩

theorem word33 (o : Nat) (k : Nat) (x0 : BitVec 6) (x1 : BitVec 3) (sw : Bool) (ho : o < 256) (hk : k < 8) :
    ∀ w, w = BitVec.ofNat 32 (bitNat sw * 2 ^ 31 + packFields [(o, 23), (k, 0), (x0.toNat, 17), (x1.toNat, 11)]) →
    opcOf w = o ∧ swOf w = sw ∧ (fld w 0 3).toNat = k ∧ fld w 17 6 = x0 ∧ fld w 11 3 = x1 ∧ fld w 3 8 = 0 ∧ fld w 14 3 = 0 := by
  intro w hw
  have h : Placed 32 [(bitNat sw, 31, 1), (o, 23, 8), (x0.toNat, 17, 6), (0, 14, 3), (x1.toNat, 11, 3), (0, 3, 8), (k, 0, 3)] :=
    ⟨le_of rfl, bitNat_lt sw, le_of rfl, ho, le_of rfl, x0.isLt, le_of rfl, Nat.two_pow_pos _, le_of rfl, x1.isLt, le_of rfl, Nat.two_pow_pos _, le_of rfl, hk, trivial⟩
  have e : bitNat sw * 2 ^ 31 + packFields [(o, 23), (k, 0), (x0.toNat, 17), (x1.toNat, 11)] = pack [(bitNat sw, 31, 1), (o, 23, 8), (x0.toNat, 17, 6), (0, 14, 3), (x1.toNat, 11, 3), (0, 3, 8), (k, 0, 3)] := by
    simp only [packFields, pack]; omega
  rw [e] at hw
  subst hw
  exact ⟨fld_placed h 23 8 (.tail _ (.head _)), swOf_placed h (.head _), fld_placed h 0 3 (.tail _ (.tail _ (.tail _ (.tail _ (.tail _ (.tail _ (.head _))))))), fld_placed_eq h (.tail _ (.tail _ (.head _))), fld_placed_eq h (.tail _ (.tail _ (.tail _ (.tail _ (.head _))))), fld_placed_eq (x := 0) h (.tail _ (.tail _ (.tail _ (.tail _ (.tail _ (.head _)))))), fld_placed_eq (x := 0) h (.tail _ (.tail _ (.tail _ (.head _))))⟩

theorem word34 (o : Nat) (x0 : BitVec 6) (x1 : BitVec 11) (sw : Bool) (ho : o < 256) :
    ∀ w, w = BitVec.ofNat 32 (bitNat sw * 2 ^ 31 + packFields [(o, 23), (x0.toNat, 17), (x1.toNat, 0)]) →
    opcOf w = o ∧ swOf w = sw ∧ (fld w 0 0).toNat = 0 ∧ fld w 17 6 = x0 ∧ fld w 0 11 = x1 ∧ fld w 11 6 = 0 := by
  intro w hw
  have h : Placed 32 [(bitNat sw, 31, 1), (o, 23, 8), (x0.toNat, 17, 6), (0, 11, 6), (x1.toNat, 0, 11)] :=
    ⟨le_of rfl, bitNat_lt sw, le_of rfl, ho, le_of rfl, x0.isLt, le_of rfl, Nat.two_pow_pos _, le_of rfl, x1.isLt, trivial⟩
  have e : bitNat sw * 2 ^ 31 + packFields [(o, 23), (x0.toNat, 17), (x1.toNat, 0)] = pack [(bitNat sw, 31, 1), (o, 23, 8), (x0.toNat, 17, 6), (0, 11, 6), (x1.toNat, 0, 11)] := by
    simp only [packFields, pack]; omega
  rw [e] at hw
  subst hw
  exact ⟨fld_placed h 23 8 (.tail _ (.head _)), swOf_placed h (.head _), fld_none _ _, fld_placed_eq h (.tail _ (.tail _ (.head _))), fld_placed_eq h (.tail _ (.tail _ (.tail _ (.tail _ (.head _))))), fld_placed_eq (x := 0) h (.tail _ (.tail _ (.tail _ (.head _))))⟩

theorem word35 (o : Nat) (x0 : BitVec 6) (x1 : BitVec 6) (x2 : BitVec 11) (sw : Bool) (ho : o < 256) :
    ∀ w, w = BitVec.ofNat 32 (bitNat sw * 2 ^ 31 + packFields [(o, 23), (x0.toNat, 17), (x1.toNat, 11), (x2.toNat, 0)]) →
    opcOf w = o ∧ swOf w = sw ∧ (fld w 0 0).toNat = 0 ∧ fld w 17 6 = x0 ∧ fld w 11 6 = x1 ∧ fld w 0 11 = x2 := by
  intro w hw
  have h : Placed 32 [(bitNat sw, 31, 1), (o, 23, 8), (x0.toNat, 17, 6), (x1.toNat, 11, 6), (x2.toNat, 0, 11)] :=
    ⟨le_of rfl, bitNat_lt sw, le_of rfl, ho, le_of rfl, x0.isLt, le_of rfl, x1.isLt, le_of rfl, x2.isLt, trivial⟩
  have e : bitNat sw * 2 ^ 31 + packFields [(o, 23), (x0.toNat, 17), (x1.toNat, 11), (x2.toNat, 0)] = pack [(bitNat sw, 31, 1), (o, 23, 8), (x0.toNat, 17, 6), (x1.toNat, 11, 6), (x2.toNat, 0, 11)] := by
    simp only [packFields, pack]
  rw [e] at hw
  subst hw
  exact ⟨fld_placed h 23 8 (.tail _ (.head _)), swOf_placed h (.head _), fld_none _ _, fld_placed_eq h (.tail _ (.tail _ (.head _))), fld_placed_eq h (.tail _ (.tail _ (.tail _ (.head _)))), fld_placed_eq h (.tail _ (.tail _ (.tail _ (.tail _ (.head _)))))⟩

theorem word36 (o : Nat) (x0 : BitVec 6) (x1 : BitVec 6) (x2 : BitVec 6) (x3 : BitVec 1) (sw : Bool) (ho : o < 256) :
    ∀ w, w = BitVec.ofNat 32 (bitNat sw * 2 ^ 31 + packFields [(o, 23), (x0.toNat, 17), (x1.toNat, 11), (x2.toNat, 5), (x3.toNat, 0)]) →
    opcOf w = o ∧ swOf w = sw ∧ (fld w 0 0).toNat = 0 ∧ fld w 17 6 = x0 ∧ fld w 11 6 = x1 ∧ fld w 5 6 = x2 ∧ fld w 0 1 = x3 ∧ fld w 1 4 = 0 := by
  intro w hw
  have h : Placed 32 [(bitNat sw, 31, 1), (o, 23, 8), (x0.toNat, 17, 6), (x1.toNat, 11, 6), (x2.toNat, 5, 6), (0, 1, 4), (x3.toNat, 0, 1)] :=
    ⟨le_of rfl, bitNat_lt sw, le_of rfl, ho, le_of rfl, x0.isLt, le_of rfl, x1.isLt, le_of rfl, x2.isLt, le_of rfl, Nat.two_pow_pos _, le_of rfl, x3.isLt, trivial⟩
  have e : bitNat sw * 2 ^ 31 + packFields [(o, 23), (x0.toNat, 17), (x1.toNat, 11), (x2.toNat, 5), (x3.toNat, 0)] = pack [(bitNat sw, 31, 1), (o, 23, 8), (x0.toNat, 17, 6), (x1.toNat, 11, 6), (x2.toNat, 5, 6), (0, 1, 4), (x3.toNat, 0, 1)] := by
    simp only [packFields, pack]; omega
  rw [e] at hw
  subst hw
  exact ⟨fld_placed h 23 8 (.tail _ (.head _)), swOf_placed h (.head _), fld_none _ _, fld_placed_eq h (.tail _ (.tail _ (.head _))), fld_placed_eq h (.tail _ (.tail _ (.tail _ (.head _)))), fld_placed_eq h (.tail _ (.tail _ (.tail _ (.tail _ (.head _))))), fld_placed_eq h (.tail _ (.tail _ (.tail _ (.tail _ (.tail _ (.tail _ (.head _))))))), fld_placed_eq (x := 0) h (.tail _ (.tail _ (.tail _ (.tail _ (.tail _ (.head _))))))⟩

theorem word37 (o : Nat) (x0 : BitVec 6) (x1 : BitVec 6) (x2 : BitVec 6) (x3 : BitVec 1) (sw : Bool) (ho : o < 256) :
    ∀ w, w = BitVec.ofNat 32 (bitNat sw * 2 ^ 31 + packFields [(o, 23), (x0.toNat, 17), (x1.toNat, 11), (x2.toNat, 5), (x3.toNat, 0)]) →
    opcOf w = o ∧ swOf w = sw ∧ (fld w 1 1).toNat = 0 ∧ fld w 17 6 = x0 ∧ fld w 11 6 = x1 ∧ fld w 5 6 = x2 ∧ fld w 0 1 = x3 ∧ fld w 2 3 = 0 := by
  intro w hw
  have h : Placed 32 [(bitNat sw, 31, 1), (o, 23, 8), (x0.toNat, 17, 6), (x1.toNat, 11, 6), (x2.toNat, 5, 6), (0, 2, 3), (0, 1, 1), (x3.toNat, 0, 1)] :=
    ⟨le_of rfl, bitNat_lt sw, le_of rfl, ho, le_of rfl, x0.isLt, le_of rfl, x1.isLt, le_of rfl, x2.isLt, le_of rfl, Nat.two_pow_pos _, le_of rfl, by decide, le_of rfl, x3.isLt, trivial⟩
  have e : bitNat sw * 2 ^ 31 + packFields [(o, 23), (x0.toNat, 17), (x1.toNat, 11), (x2.toNat, 5), (x3.toNat, 0)] = pack [(bitNat sw, 31, 1), (o, 23, 8), (x0.toNat, 17, 6), (x1.toNat, 11, 6), (x2.toNat, 5, 6), (0, 2, 3), (0, 1, 1), (x3.toNat, 0, 1)] := by
    simp only [packFields, pack]; omega
  rw [e] at hw
  subst hw
  exact ⟨fld_placed h 23 8 (.tail _ (.head _)), swOf_placed h (.head _), fld_placed h 1 1 (.tail _ (.tail _ (.tail _ (.tail _ (.tail _ (.tail _ (.head _))))))), fld_placed_eq h (.tail _ (.tail _ (.head _))), fld_placed_eq h (.tail _ (.tail _ (.tail _ (.head _)))), fld_placed_eq h (.tail _ (.tail _ (.tail _ (.tail _ (.head _))))), fld_placed_eq h (.tail _ (.tail _ (.tail _ (.tail _ (.tail _ (.tail _ (.tail _ (.head _)))))))), fld_placed_eq (x := 0) h (.tail _ (.tail _ (.tail _ (.tail _ (.tail _ (.head _))))))⟩

theorem word38 (o : Nat) (k : Nat) (x0 : BitVec 6) (x1 : BitVec 6) (x2 : BitVec 6) (x3 : BitVec 1) (sw : Bool) (ho : o < 256) (hk : k < 2) :
    ∀ w, w = BitVec.ofNat 32 (bitNat sw * 2 ^ 31 + packFields [(o, 23), (k, 1), (x0.toNat, 17), (x1.toNat, 11), (x2.toNat, 5), (x3.toNat, 0)]) →
    opcOf w = o ∧ swOf w = sw ∧ (fld w 1 1).toNat = k ∧ fld w 17 6 = x0 ∧ fld w 11 6 = x1 ∧ fld w 5 6 = x2 ∧ fld w 0 1 = x3 ∧ fld w 2 3 = 0 := by
  intro w hw
  have h : Placed 32 [(bitNat sw, 31, 1), (o, 23, 8), (x0.toNat, 17, 6), (x1.toNat, 11, 6), (x2.toNat, 5, 6), (0, 2, 3), (k, 1, 1), (x3.toNat, 0, 1)] :=
    ⟨le_of rfl, bitNat_lt sw, le_of rfl, ho, le_of rfl, x0.isLt, le_of rfl, x1.isLt, le_of rfl, x2.isLt, le_of rfl, Nat.two_pow_pos _, le_of rfl, hk, le_of rfl, x3.isLt, trivial⟩
  have e : bitNat sw * 2 ^ 31 + packFields [(o, 23), (k, 1), (x0.toNat, 17), (x1.toNat, 11), (x2.toNat, 5), (x3.toNat, 0)] = pack [(bitNat sw, 31, 1), (o, 23, 8), (x0.toNat, 17, 6), (x1.toNat, 11, 6), (x2.toNat, 5, 6), (0, 2, 3), (k, 1, 1), (x3.toNat, 0, 1)] := by
    simp only [packFields, pack]; omega
  rw [e] at hw
  subst hw
  exact ⟨fld_placed h 23 8 (.tail _ (.head _)), swOf_placed h (.head _), fld_placed h 1 1 (.tail _ (.tail _ (.tail _ (.tail _ (.tail _ (.tail _ (.head _))))))), fld_placed_eq h (.tail _ (.tail _ (.head _))), fld_placed_eq h (.tail _ (.tail _ (.tail _ (.head _)))), fld_placed_eq h (.tail _ (.tail _ (.tail _ (.tail _ (.head _))))), fld_placed_eq h (.tail _ (.tail _ (.tail _ (.tail _ (.tail _ (.tail _ (.tail _ (.head _)))))))), fld_placed_eq (x := 0) h (.tail _ (.tail _ (.tail _ (.tail _ (.tail _ (.head _))))))⟩

theorem word39 (o : Nat) (x0 : BitVec 6) (x1 : BitVec 6) (sw : Bool) (ho : o < 256) :
    ∀ w, w = BitVec.ofNat 32 (bitNat sw * 2 ^ 31 + packFields [(o, 23), (x0.toNat, 17), (x1.toNat, 11)]) →
    opcOf w = o ∧ swOf w = sw ∧ (fld w 0 2).toNat = 0 ∧ fld w 17 6 = x0 ∧ fld w 11 6 = x1 ∧ fld w 2 9 = 0 := by
  intro w hw
  have h : Placed 32 [(bitNat sw, 31, 1), (o, 23, 8), (x0.toNat, 17, 6), (x1.toNat, 11, 6), (0, 2, 9), (0, 0, 2)] :=
    ⟨le_of rfl, bitNat_lt sw, le_of rfl, ho, le_of rfl, x0.isLt, le_of rfl, x1.isLt, le_of rfl, Nat.two_pow_pos _, le_of rfl, by decide, trivial⟩
  have e : bitNat sw * 2 ^ 31 + packFields [(o, 23), (x0.toNat, 17), (x1.toNat, 11)] = pack [(bitNat sw, 31, 1), (o, 23, 8), (x0.toNat, 17, 6), (x1.toNat, 11, 6), (0, 2, 9), (0, 0, 2)] := by
    simp only [packFields, pack]; omega
  rw [e] at hw
  subst hw
  exact ⟨fld_placed h 23 8 (.tail _ (.head _)), swOf_placed h (.head _), fld_placed h 0 2 (.tail _ (.tail _ (.tail _ (.tail _ (.tail _ (.head _)))))), fld_placed_eq h (.tail _ (.tail _ (.head _))), fld_placed_eq h (.tail _ (.tail _ (.tail _ (.head _)))), fld_placed_eq (x := 0) h (.tail _ (.tail _ (.tail _ (.tail _ (.head _)))))⟩

theorem word40 (o : Nat) (k : Nat) (x0 : BitVec 6) (x1 : BitVec 6) (sw : Bool) (ho : o < 256) (hk : k < 4) :
    ∀ w, w = BitVec.ofNat 32 (bitNat sw * 2 ^ 31 + packFields [(o, 23), (k, 0), (x0.toNat, 17), (x1.toNat, 11)]) →
    opcOf w = o ∧ swOf w = sw ∧ (fld w 0 2).toNat = k ∧ fld w 17 6 = x0 ∧ fld w 11 6 = x1 ∧ fld w 2 9 = 0 := by
  intro w hw
  have h : Placed 32 [(bitNat sw, 31, 1), (o, 23, 8), (x0.toNat, 17, 6), (x1.toNat, 11, 6), (0, 2, 9), (k, 0, 2)] :=
    ⟨le_of rfl, bitNat_lt sw, le_of rfl, ho, le_of rfl, x0.isLt, le_of rfl, x1.isLt, le_of rfl, Nat.two_pow_pos _, le_of rfl, hk, trivial⟩
  have e : bitNat sw * 2 ^ 31 + packFields [(o, 23), (k, 0), (x0.toNat, 17), (x1.toNat, 11)] = pack [(bitNat sw, 31, 1), (o, 23, 8), (x0.toNat, 17, 6), (x1.toNat, 11, 6), (0, 2, 9), (k, 0, 2)] := by
    simp only [packFields, pack]; omega
  rw [e] at hw
  subst hw
  exact ⟨fld_placed h 23 8 (.tail _ (.head _)), swOf_placed h (.head _), fld_placed h 0 2 (.tail _ (.tail _ (.tail _ (.tail _ (.tail _ (.head _)))))), fld_placed_eq h (.tail _ (.tail _ (.head _))), fld_placed_eq h (.tail _ (.tail _ (.tail _ (.head _)))), fld_placed_eq (x := 0) h (.tail _ (.tail _ (.tail _ (.tail _ (.head _)))))⟩

theorem word41 (o : Nat) (x0 : BitVec 3) (x1 : BitVec 1) (x2 : BitVec 19) (sw : Bool) (ho : o < 256) :
    ∀ w, w = BitVec.ofNat 32 (bitNat sw * 2 ^ 31 + packFields [(o, 23), (x0.toNat, 20), (x1.toNat, 19), (x2.toNat, 0)]) →
    opcOf w = o ∧ swOf w = sw ∧ (fld w 0 0).toNat = 0 ∧ fld w 20 3 = x0 ∧ fld w 19 1 = x1 ∧ fld w 0 19 = x2 := by
  intro w hw
  have h : Placed 32 [(bitNat sw, 31, 1), (o, 23, 8), (x0.toNat, 20, 3), (x1.toNat, 19, 1), (x2.toNat, 0, 19)] :=
    ⟨le_of rfl, bitNat_lt sw, le_of rfl, ho, le_of rfl, x0.isLt, le_of rfl, x1.isLt, le_of rfl, x2.isLt, trivial⟩
  have e : bitNat sw * 2 ^ 31 + packFields [(o, 23), (x0.toNat, 20), (x1.toNat, 19), (x2.toNat, 0)] = pack [(bitNat sw, 31, 1), (o, 23, 8), (x0.toNat, 20, 3), (x1.toNat, 19, 1), (x2.toNat, 0, 19)] := by
    simp only [packFields, pack]
  rw [e] at hw
  subst hw
  exact ⟨fld_placed h 23 8 (.tail _ (.head _)), swOf_placed h (.head _), fld_none _ _, fld_placed_eq h (.tail _ (.tail _ (.head _))), fld_placed_eq h (.tail _ (.tail _ (.tail _ (.head _)))), fld_placed_eq h (.tail _ (.tail _ (.tail _ (.tail _ (.head _)))))⟩

theorem word42 (o : Nat) (x0 : BitVec 6) (x1 : BitVec 2) (sw : Bool) (ho : o < 256) :
    ∀ w, w = BitVec.ofNat 32 (bitNat sw * 2 ^ 31 + packFields [(o, 23), (x0.toNat, 11), (x1.toNat, 9)]) →
    opcOf w = o ∧ swOf w = sw ∧ (fld w 0 0).toNat = 0 ∧ fld w 11 6 = x0 ∧ fld w 9 2 = x1 ∧ fld w 0 9 = 0 ∧ fld w 17 6 = 0 := by
  intro w hw
  have h : Placed 32 [(bitNat sw, 31, 1), (o, 23, 8), (0, 17, 6), (x0.toNat, 11, 6), (x1.toNat, 9, 2), (0, 0, 9)] :=
    ⟨le_of rfl, bitNat_lt sw, le_of rfl, ho, le_of rfl, Nat.two_pow_pos _, le_of rfl, x0.isLt, le_of rfl, x1.isLt, le_of rfl, Nat.two_pow_pos _, trivial⟩
  have e : bitNat sw * 2 ^ 31 + packFields [(o, 23), (x0.toNat, 11), (x1.toNat, 9)] = pack [(bitNat sw, 31, 1), (o, 23, 8), (0, 17, 6), (x0.toNat, 11, 6), (x1.toNat, 9, 2), (0, 0, 9)] := by
    simp only [packFields, pack]; omega
  rw [e] at hw
  subst hw
  exact ⟨fld_placed h 23 8 (.tail _ (.head _)), swOf_placed h (.head _), fld_none _ _, fld_placed_eq h (.tail _ (.tail _ (.tail _ (.head _)))), fld_placed_eq h (.tail _ (.tail _ (.tail _ (.tail _ (.head _))))), fld_placed_eq (x := 0) h (.tail _ (.tail _ (.tail _ (.tail _ (.tail _ (.head _)))))), fld_placed_eq (x := 0) h (.tail _ (.tail _ (.head _)))⟩

theorem word43 (o : Nat)  (sw : Bool) (ho : o < 256) :
    ∀ w, w = BitVec.ofNat 32 (bitNat sw * 2 ^ 31 + packFields [(o, 23)]) →
    opcOf w = o ∧ swOf w = sw ∧ (fld w 0 0).toNat = 0 ∧ fld w 0 23 = 0 := by
  intro w hw
  have h : Placed 32 [(bitNat sw, 31, 1), (o, 23, 8), (0, 0, 23)] :=
    ⟨le_of rfl, bitNat_lt sw, le_of rfl, ho, le_of rfl, Nat.two_pow_pos _, trivial⟩
  have e : bitNat sw * 2 ^ 31 + packFields [(o, 23)] = pack [(bitNat sw, 31, 1), (o, 23, 8), (0, 0, 23)] := by
    simp only [packFields, pack]; omega
  rw [e] at hw
  subst hw
  exact ⟨fld_placed h 23 8 (.tail _ (.head _)), swOf_placed h (.head _), fld_none _ _, fld_placed_eq (x := 0) h (.tail _ (.tail _ (.head _)))⟩

theorem word44 (o : Nat) (x0 : BitVec 5) (x1 : BitVec 6) (x2 : BitVec 6) (x3 : BitVec 6) (sw : Bool) (ho : o < 256) :
    ∀ w, w = BitVec.ofNat 32 (bitNat sw * 2 ^ 31 + packFields [(o, 23), (x0.toNat, 18), (x1.toNat, 12), (x2.toNat, 6), (x3.toNat, 0)]) →
    opcOf w = o ∧ swOf w = sw ∧ (fld w 0 0).toNat = 0 ∧ fld w 18 5 = x0 ∧ fld w 12 6 = x1 ∧ fld w 6 6 = x2 ∧ fld w 0 6 = x3 := by
  intro w hw
  have h : Placed 32 [(bitNat sw, 31, 1), (o, 23, 8), (x0.toNat, 18, 5), (x1.toNat, 12, 6), (x2.toNat, 6, 6), (x3.toNat, 0, 6)] :=
    ⟨le_of rfl, bitNat_lt sw, le_of rfl, ho, le_of rfl, x0.isLt, le_of rfl, x1.isLt, le_of rfl, x2.isLt, le_of rfl, x3.isLt, trivial⟩
  have e : bitNat sw * 2 ^ 31 + packFields [(o, 23), (x0.toNat, 18), (x1.toNat, 12), (x2.toNat, 6), (x3.toNat, 0)] = pack [(bitNat sw, 31, 1), (o, 23, 8), (x0.toNat, 18, 5), (x1.toNat, 12, 6), (x2.toNat, 6, 6), (x3.toNat, 0, 6)] := by
    simp only [packFields, pack]
  rw [e] at hw
  subst hw
  exact ⟨fld_placed h 23 8 (.tail _ (.head _)), swOf_placed h (.head _), fld_none _ _, fld_placed_eq h (.tail _ (.tail _ (.head _))), fld_placed_eq h (.tail _ (.tail _ (.tail _ (.head _)))), fld_placed_eq h (.tail _ (.tail _ (.tail _ (.tail _ (.head _))))), fld_placed_eq h (.tail _ (.tail _ (.tail _ (.tail _ (.tail _ (.head _))))))⟩

theorem word45 (o : Nat) (x0 : BitVec 6) (x1 : BitVec 6) (x2 : BitVec 6) (x3 : BitVec 3) (x4 : BitVec 1) (x5 : BitVec 1) (sw : Bool) (ho : o < 256) :
    ∀ w, w = BitVec.ofNat 32 (bitNat sw * 2 ^ 31 + packFields [(o, 23), (x0.toNat, 17), (x1.toNat, 11), (x2.toNat, 5), (x3.toNat, 2), (x4.toNat, 1), (x5.toNat, 0)]) →
    opcOf w = o ∧ swOf w = sw ∧ (fld w 0 0).toNat = 0 ∧ fld w 17 6 = x0 ∧ fld w 11 6 = x1 ∧ fld w 5 6 = x2 ∧ fld w 2 3 = x3 ∧ fld w 1 1 = x4 ∧ fld w 0 1 = x5 := by
  intro w hw
  have h : Placed 32 [(bitNat sw, 31, 1), (o, 23, 8), (x0.toNat, 17, 6), (x1.toNat, 11, 6), (x2.toNat, 5, 6), (x3.toNat, 2, 3), (x4.toNat, 1, 1), (x5.toNat, 0, 1)] :=
    ⟨le_of rfl, bitNat_lt sw, le_of rfl, ho, le_of rfl, x0.isLt, le_of rfl, x1.isLt, le_of rfl, x2.isLt, le_of rfl, x3.isLt, le_of rfl, x4.isLt, le_of rfl, x5.isLt, trivial⟩
  have e : bitNat sw * 2 ^ 31 + packFields [(o, 23), (x0.toNat, 17), (x1.toNat, 11), (x2.toNat, 5), (x3.toNat, 2), (x4.toNat, 1), (x5.toNat, 0)] = pack [(bitNat sw, 31, 1), (o, 23, 8), (x0.toNat, 17, 6), (x1.toNat, 11, 6), (x2.toNat, 5, 6), (x3.toNat, 2, 3), (x4.toNat, 1, 1), (x5.toNat, 0, 1)] := by
    simp only [packFields, pack]
  rw [e] at hw
  subst hw
  exact ⟨fld_placed h 23 8 (.tail _ (.head _)), swOf_placed h (.head _), fld_none _ _, fld_placed_eq h (.tail _ (.tail _ (.head _))), fld_placed_eq h (.tail _ (.tail _ (.tail _ (.head _)))), fld_placed_eq h (.tail _ (.tail _ (.tail _ (.tail _ (.head _))))), fld_placed_eq h (.tail _ (.tail _ (.tail _ (.tail _ (.tail _ (.head _)))))), fld_placed_eq h (.tail _ (.tail _ (.tail _ (.tail _ (.tail _ (.tail _ (.head _))))))), fld_placed_eq h (.tail _ (.tail _ (.tail _ (.tail _ (.tail _ (.tail _ (.tail _ (.head _))))))))⟩

theorem word46 (o : Nat) (x0 : BitVec 6) (x1 : BitVec 6) (x2 : BitVec 6) (x3 : BitVec 3) (x4 : BitVec 1) (sw : Bool) (ho : o < 256) :
    ∀ w, w = BitVec.ofNat 32 (bitNat sw * 2 ^ 31 + packFields [(o, 23), (x0.toNat, 17), (x1.toNat, 11), (x2.toNat, 5), (x3.toNat, 2), (x4.toNat, 0)]) →
    opcOf w = o ∧ swOf w = sw ∧ (fld w 0 0).toNat = 0 ∧ fld w 17 6 = x0 ∧ fld w 11 6 = x1 ∧ fld w 5 6 = x2 ∧ fld w 2 3 = x3 ∧ fld w 0 1 = x4 ∧ fld w 1 1 = 0 := by
  intro w hw
  have h : Placed 32 [(bitNat sw, 31, 1), (o, 23, 8), (x0.toNat, 17, 6), (x1.toNat, 11, 6), (x2.toNat, 5, 6), (x3.toNat, 2, 3), (0, 1, 1), (x4.toNat, 0, 1)] :=
    ⟨le_of rfl, bitNat_lt sw, le_of rfl, ho, le_of rfl, x0.isLt, le_of rfl, x1.isLt, le_of rfl, x2.isLt, le_of rfl, x3.isLt, le_of rfl, Nat.two_pow_pos _, le_of rfl, x4.isLt, trivial⟩
  have e : bitNat sw * 2 ^ 31 + packFields [(o, 23), (x0.toNat, 17), (x1.toNat, 11), (x2.toNat, 5), (x3.toNat, 2), (x4.toNat, 0)] = pack [(bitNat sw, 31, 1), (o, 23, 8), (x0.toNat, 17, 6), (x1.toNat, 11, 6), (x2.toNat, 5, 6), (x3.toNat, 2, 3), (0, 1, 1), (x4.toNat, 0, 1)] := by
    simp only [packFields, pack]; omega
  rw [e] at hw
  subst hw
  exact ⟨fld_placed h 23 8 (.tail _ (.head _)), swOf_placed h (.head _), fld_none _ _, fld_placed_eq h (.tail _ (.tail _ (.head _))), fld_placed_eq h (.tail _ (.tail _ (.tail _ (.head _)))), fld_placed_eq h (.tail _ (.tail _ (.tail _ (.tail _ (.head _))))), fld_placed_eq h (.tail _ (.tail _ (.tail _ (.tail _ (.tail _ (.head _)))))), fld_placed_eq h (.tail _ (.tail _ (.tail _ (.tail _ (.tail _ (.tail _ (.tail _ (.head _)))))))), fld_placed_eq (x := 0) h (.tail _ (.tail _ (.tail _ (.tail _ (.tail _ (.tail _ (.head _)))))))⟩

theorem word47 (o : Nat) (x0 : BitVec 6) (x1 : BitVec 6) (x2 : BitVec 3) (x3 : BitVec 1) (x4 : BitVec 1) (sw : Bool) (ho : o < 256) :
    ∀ w, w = BitVec.ofNat 32 (bitNat sw * 2 ^ 31 + packFields [(o, 23), (x0.toNat, 17), (x1.toNat, 11), (x2.toNat, 2), (x3.toNat, 1), (x4.toNat, 0)]) →
    opcOf w = o ∧ swOf w = sw ∧ (fld w 0 0).toNat = 0 ∧ fld w 17 6 = x0 ∧ fld w 11 6 = x1 ∧ fld w 2 3 = x2 ∧ fld w 1 1 = x3 ∧ fld w 0 1 = x4 ∧ fld w 5 6 = 0 := by
  intro w hw
  have h : Placed 32 [(bitNat sw, 31, 1), (o, 23, 8), (x0.toNat, 17, 6), (x1.toNat, 11, 6), (0, 5, 6), (x2.toNat, 2, 3), (x3.toNat, 1, 1), (x4.toNat, 0, 1)] :=
    ⟨le_of rfl, bitNat_lt sw, le_of rfl, ho, le_of rfl, x0.isLt, le_of rfl, x1.isLt, le_of rfl, Nat.two_pow_pos _, le_of rfl, x2.isLt, le_of rfl, x3.isLt, le_of rfl, x4.isLt, trivial⟩
  have e : bitNat sw * 2 ^ 31 + packFields [(o, 23), (x0.toNat, 17), (x1.toNat, 11), (x2.toNat, 2), (x3.toNat, 1), (x4.toNat, 0)] = pack [(bitNat sw, 31, 1), (o, 23, 8), (x0.toNat, 17, 6), (x1.toNat, 11, 6), (0, 5, 6), (x2.toNat, 2, 3), (x3.toNat, 1, 1), (x4.toNat, 0, 1)] := by
    simp only [packFields, pack]; omega
  rw [e] at hw
  subst hw
  exact ⟨fld_placed h 23 8 (.tail _ (.head _)), swOf_placed h (.head _), fld_none _ _, fld_placed_eq h (.tail _ (.tail _ (.head _))), fld_placed_eq h (.tail _ (.tail _ (.tail _ (.head _)))), fld_placed_eq h (.tail _ (.tail _ (.tail _ (.tail _ (.tail _ (.head _)))))), fld_placed_eq h (.tail _ (.tail _ (.tail _ (.tail _ (.tail _ (.tail _ (.head _))))))), fld_placed_eq h (.tail _ (.tail _ (.tail _ (.tail _ (.tail _ (.tail _ (.tail _ (.head _)))))))), fld_placed_eq (x := 0) h (.tail _ (.tail _ (.tail _ (.tail _ (.head _)))))⟩

theorem word48 (o : Nat) (x0 : BitVec 6) (x1 : BitVec 6) (x2 : BitVec 3) (x3 : BitVec 1) (sw : Bool) (ho : o < 256) :
    ∀ w, w = BitVec.ofNat 32 (bitNat sw * 2 ^ 31 + packFields [(o, 23), (x0.toNat, 17), (x1.toNat, 11), (x2.toNat, 2), (x3.toNat, 0)]) →
    opcOf w = o ∧ swOf w = sw ∧ (fld w 0 0).toNat = 0 ∧ fld w 17 6 = x0 ∧ fld w 11 6 = x1 ∧ fld w 2 3 = x2 ∧ fld w 0 1 = x3 ∧ fld w 1 1 = 0 ∧ fld w 5 6 = 0 := by
  intro w hw
  have h : Placed 32 [(bitNat sw, 31, 1), (o, 23, 8), (x0.toNat, 17, 6), (x1.toNat, 11, 6), (0, 5, 6), (x2.toNat, 2, 3), (0, 1, 1), (x3.toNat, 0, 1)] :=
    ⟨le_of rfl, bitNat_lt sw, le_of rfl, ho, le_of rfl, x0.isLt, le_of rfl, x1.isLt, le_of rfl, Nat.two_pow_pos _, le_of rfl, x2.isLt, le_of rfl, Nat.two_pow_pos _, le_of rfl, x3.isLt, trivial⟩
  have e : bitNat sw * 2 ^ 31 + packFields [(o, 23), (x0.toNat, 17), (x1.toNat, 11), (x2.toNat, 2), (x3.toNat, 0)] = pack [(bitNat sw, 31, 1), (o, 23, 8), (x0.toNat, 17, 6), (x1.toNat, 11, 6), (0, 5, 6), (x2.toNat, 2, 3), (0, 1, 1), (x3.toNat, 0, 1)] := by
    simp only [packFields, pack]; omega
  rw [e] at hw
  subst hw
  exact ⟨fld_placed h 23 8 (.tail _ (.head _)), swOf_placed h (.head _), fld_none _ _, fld_placed_eq h (.tail _ (.tail _ (.head _))), fld_placed_eq h (.tail _ (.tail _ (.tail _ (.head _)))), fld_placed_eq h (.tail _ (.tail _ (.tail _ (.tail _ (.tail _ (.head _)))))), fld_placed_eq h (.tail _ (.tail _ (.tail _ (.tail _ (.tail _ (.tail _ (.tail _ (.head _)))))))), fld_placed_eq (x := 0) h (.tail _ (.tail _ (.tail _ (.tail _ (.tail _ (.tail _ (.head _))))))), fld_placed_eq (x := 0) h (.tail _ (.tail _ (.tail _ (.tail _ (.head _)))))⟩

theorem word49 (o : Nat) (x0 : BitVec 6) (x1 : BitVec 6) (x2 : BitVec 6) (x3 : BitVec 4) (x4 : BitVec 1) (sw : Bool) (ho : o < 256) :
    ∀ w, w = BitVec.ofNat 32 (bitNat sw * 2 ^ 31 + packFields [(o, 23), (x0.toNat, 17), (x1.toNat, 11), (x2.toNat, 5), (x3.toNat, 1), (x4.toNat, 0)]) →
    opcOf w = o ∧ swOf w = sw ∧ (fld w 0 0).toNat = 0 ∧ fld w 17 6 = x0 ∧ fld w 11 6 = x1 ∧ fld w 5 6 = x2 ∧ fld w 1 4 = x3 ∧ fld w 0 1 = x4 := by
  intro w hw
  have h : Placed 32 [(bitNat sw, 31, 1), (o, 23, 8), (x0.toNat, 17, 6), (x1.toNat, 11, 6), (x2.toNat, 5, 6), (x3.toNat, 1, 4), (x4.toNat, 0, 1)] :=
    ⟨le_of rfl, bitNat_lt sw, le_of rfl, ho, le_of rfl, x0.isLt, le_of rfl, x1.isLt, le_of rfl, x2.isLt, le_of rfl, x3.isLt, le_of rfl, x4.isLt, trivial⟩
  have e : bitNat sw * 2 ^ 31 + packFields [(o, 23), (x0.toNat, 17), (x1.toNat, 11), (x2.toNat, 5), (x3.toNat, 1), (x4.toNat, 0)] = pack [(bitNat sw, 31, 1), (o, 23, 8), (x0.toNat, 17, 6), (x1.toNat, 11, 6), (x2.toNat, 5, 6), (x3.toNat, 1, 4), (x4.toNat, 0, 1)] := by
    simp only [packFields, pack]
  rw [e] at hw
  subst hw
  exact ⟨fld_placed h 23 8 (.tail _ (.head _)), swOf_placed h (.head _), fld_none _ _, fld_placed_eq h (.tail _ (.tail _ (.head _))), fld_placed_eq h (.tail _ (.tail _ (.tail _ (.head _)))), fld_placed_eq h (.tail _ (.tail _ (.tail _ (.tail _ (.head _))))), fld_placed_eq h (.tail _ (.tail _ (.tail _ (.tail _ (.tail _ (.head _)))))), fld_placed_eq h (.tail _ (.tail _ (.tail _ (.tail _ (.tail _ (.tail _ (.head _)))))))⟩

theorem word50 (o : Nat) (x0 : BitVec 6) (x1 : BitVec 6) (x2 : BitVec 6) (x3 : BitVec 1) (x4 : BitVec 1) (sw : Bool) (ho : o < 256) :
    ∀ w, w = BitVec.ofNat 32 (bitNat sw * 2 ^ 31 + packFields [(o, 23), (x0.toNat, 17), (x1.toNat, 11), (x2.toNat, 5), (x3.toNat, 1), (x4.toNat, 0)]) →
    opcOf w = o ∧ swOf w = sw ∧ (fld w 0 0).toNat = 0 ∧ fld w 17 6 = x0 ∧ fld w 11 6 = x1 ∧ fld w 5 6 = x2 ∧ fld w 1 1 = x3 ∧ fld w 0 1 = x4 ∧ fld w 2 3 = 0 := by
  intro w hw
  have h : Placed 32 [(bitNat sw, 31, 1), (o, 23, 8), (x0.toNat, 17, 6), (x1.toNat, 11, 6), (x2.toNat, 5, 6), (0, 2, 3), (x3.toNat, 1, 1), (x4.toNat, 0, 1)] :=
    ⟨le_of rfl, bitNat_lt sw, le_of rfl, ho, le_of rfl, x0.isLt, le_of rfl, x1.isLt, le_of rfl, x2.isLt, le_of rfl, Nat.two_pow_pos _, le_of rfl, x3.isLt, le_of rfl, x4.isLt, trivial⟩
  have e : bitNat sw * 2 ^ 31 + packFields [(o, 23), (x0.toNat, 17), (x1.toNat, 11), (x2.toNat, 5), (x3.toNat, 1), (x4.toNat, 0)] = pack [(bitNat sw, 31, 1), (o, 23, 8), (x0.toNat, 17, 6), (x1.toNat, 11, 6), (x2.toNat, 5, 6), (0, 2, 3), (x3.toNat, 1, 1), (x4.toNat, 0, 1)] := by
    simp only [packFields, pack]; omega
  rw [e] at hw
  subst hw
  exact ⟨fld_placed h 23 8 (.tail _ (.head _)), swOf_placed h (.head _), fld_none _ _, fld_placed_eq h (.tail _ (.tail _ (.head _))), fld_placed_eq h (.tail _ (.tail _ (.tail _ (.head _)))), fld_placed_eq h (.tail _ (.tail _ (.tail _ (.tail _ (.head _))))), fld_placed_eq h (.tail _ (.tail _ (.tail _ (.tail _ (.tail _ (.tail _ (.head _))))))), fld_placed_eq h (.tail _ (.tail _ (.tail _ (.tail _ (.tail _ (.tail _ (.tail _ (.head _)))))))), fld_placed_eq (x := 0) h (.tail _ (.tail _ (.tail _ (.tail _ (.tail _ (.head _))))))⟩

theorem word51 (o : Nat) (x0 : BitVec 6) (x1 : BitVec 6) (x2 : BitVec 6) (x3 : BitVec 3) (x4 : BitVec 1) (sw : Bool) (ho : o < 256) :
    ∀ w, w = BitVec.ofNat 32 (bitNat sw * 2 ^ 31 + packFields [(o, 23), (x0.toNat, 17), (x1.toNat, 11), (x2.toNat, 5), (x3.toNat, 1), (x4.toNat, 0)]) →
    opcOf w = o ∧ swOf w = sw ∧ (fld w 4 1).toNat = 0 ∧ fld w 17 6 = x0 ∧ fld w 11 6 = x1 ∧ fld w 5 6 = x2 ∧ fld w 1 3 = x3 ∧ fld w 0 1 = x4 := by
  intro w hw
  have h : Placed 32 [(bitNat sw, 31, 1), (o, 23, 8), (x0.toNat, 17, 6), (x1.toNat, 11, 6), (x2.toNat, 5, 6), (0, 4, 1), (x3.toNat, 1, 3), (x4.toNat, 0, 1)] :=
    ⟨le_of rfl, bitNat_lt sw, le_of rfl, ho, le_of rfl, x0.isLt, le_of rfl, x1.isLt, le_of rfl, x2.isLt, le_of rfl, by decide, le_of rfl, x3.isLt, le_of rfl, x4.isLt, trivial⟩
  have e : bitNat sw * 2 ^ 31 + packFields [(o, 23), (x0.toNat, 17), (x1.toNat, 11), (x2.toNat, 5), (x3.toNat, 1), (x4.toNat, 0)] = pack [(bitNat sw, 31, 1), (o, 23, 8), (x0.toNat, 17, 6), (x1.toNat, 11, 6), (x2.toNat, 5, 6), (0, 4, 1), (x3.toNat, 1, 3), (x4.toNat, 0, 1)] := by
    simp only [packFields, pack]; omega
  rw [e] at hw
  subst hw
  exact ⟨fld_placed h 23 8 (.tail _ (.head _)), swOf_placed h (.head _), fld_placed h 4 1 (.tail _ (.tail _ (.tail _ (.tail _ (.tail _ (.head _)))))), fld_placed_eq h (.tail _ (.tail _ (.head _))), fld_placed_eq h (.tail _ (.tail _ (.tail _ (.head _)))), fld_placed_eq h (.tail _ (.tail _ (.tail _ (.tail _ (.head _))))), fld_placed_eq h (.tail _ (.tail _ (.tail _ (.tail _ (.tail _ (.tail _ (.head _))))))), fld_placed_eq h (.tail _ (.tail _ (.tail _ (.tail _ (.tail _ (.tail _ (.tail _ (.head _))))))))⟩

theorem word52 (o : Nat) (k : Nat) (x0 : BitVec 6) (x1 : BitVec 6) (x2 : BitVec 6) (x3 : BitVec 3) (x4 : BitVec 1) (sw : Bool) (ho : o < 256) (hk : k < 2) :
    ∀ w, w = BitVec.ofNat 32 (bitNat sw * 2 ^ 31 + packFields [(o, 23), (k, 4), (x0.toNat, 17), (x1.toNat, 11), (x2.toNat, 5), (x3.toNat, 1), (x4.toNat, 0)]) →
    opcOf w = o ∧ swOf w = sw ∧ (fld w 4 1).toNat = k ∧ fld w 17 6 = x0 ∧ fld w 11 6 = x1 ∧ fld w 5 6 = x2 ∧ fld w 1 3 = x3 ∧ fld w 0 1 = x4 := by
  intro w hw
  have h : Placed 32 [(bitNat sw, 31, 1), (o, 23, 8), (x0.toNat, 17, 6), (x1.toNat, 11, 6), (x2.toNat, 5, 6), (k, 4, 1), (x3.toNat, 1, 3), (x4.toNat, 0, 1)] :=
    ⟨le_of rfl, bitNat_lt sw, le_of rfl, ho, le_of rfl, x0.isLt, le_of rfl, x1.isLt, le_of rfl, x2.isLt, le_of rfl, hk, le_of rfl, x3.isLt, le_of rfl, x4.isLt, trivial⟩
  have e : bitNat sw * 2 ^ 31 + packFields [(o, 23), (k, 4), (x0.toNat, 17), (x1.toNat, 11), (x2.toNat, 5), (x3.toNat, 1), (x4.toNat, 0)] = pack [(bitNat sw, 31, 1), (o, 23, 8), (x0.toNat, 17, 6), (x1.toNat, 11, 6), (x2.toNat, 5, 6), (k, 4, 1), (x3.toNat, 1, 3), (x4.toNat, 0, 1)] := by
    simp only [packFields, pack]; omega
  rw [e] at hw
  subst hw
  exact ⟨fld_placed h 23 8 (.tail _ (.head _)), swOf_placed h (.head _), fld_placed h 4 1 (.tail _ (.tail _ (.tail _ (.tail _ (.tail _ (.head _)))))), fld_placed_eq h (.tail _ (.tail _ (.head _))), fld_placed_eq h (.tail _ (.tail _ (.tail _ (.head _)))), fld_placed_eq h (.tail _ (.tail _ (.tail _ (.tail _ (.head _))))), fld_placed_eq h (.tail _ (.tail _ (.tail _ (.tail _ (.tail _ (.tail _ (.head _))))))), fld_placed_eq h (.tail _ (.tail _ (.tail _ (.tail _ (.tail _ (.tail _ (.tail _ (.head _))))))))⟩

theorem word53 (o : Nat) (x0 : BitVec 6) (x1 : BitVec 6) (x2 : BitVec 6) (x3 : BitVec 4) (sw : Bool) (ho : o < 256) :
    ∀ w, w = BitVec.ofNat 32 (bitNat sw * 2 ^ 31 + packFields [(o, 23), (x0.toNat, 17), (x1.toNat, 11), (x2.toNat, 5), (x3.toNat, 1)]) →
    opcOf w = o ∧ swOf w = sw ∧ (fld w 0 0).toNat = 0 ∧ fld w 17 6 = x0 ∧ fld w 11 6 = x1 ∧ fld w 5 6 = x2 ∧ fld w 1 4 = x3 ∧ fld w 0 1 = 0 := by
  intro w hw
  have h : Placed 32 [(bitNat sw, 31, 1), (o, 23, 8), (x0.toNat, 17, 6), (x1.toNat, 11, 6), (x2.toNat, 5, 6), (x3.toNat, 1, 4), (0, 0, 1)] :=
    ⟨le_of rfl, bitNat_lt sw, le_of rfl, ho, le_of rfl, x0.isLt, le_of rfl, x1.isLt, le_of rfl, x2.isLt, le_of rfl, x3.isLt, le_of rfl, Nat.two_pow_pos _, trivial⟩
  have e : bitNat sw * 2 ^ 31 + packFields [(o, 23), (x0.toNat, 17), (x1.toNat, 11), (x2.toNat, 5), (x3.toNat, 1)] = pack [(bitNat sw, 31, 1), (o, 23, 8), (x0.toNat, 17, 6), (x1.toNat, 11, 6), (x2.toNat, 5, 6), (x3.toNat, 1, 4), (0, 0, 1)] := by
    simp only [packFields, pack]; omega
  rw [e] at hw
  subst hw
  exact ⟨fld_placed h 23 8 (.tail _ (.head _)), swOf_placed h (.head _), fld_none _ _, fld_placed_eq h (.tail _ (.tail _ (.head _))), fld_placed_eq h (.tail _ (.tail _ (.tail _ (.head _)))), fld_placed_eq h (.tail _ (.tail _ (.tail _ (.tail _ (.head _))))), fld_placed_eq h (.tail _ (.tail _ (.tail _ (.tail _ (.tail _ (.head _)))))), fld_placed_eq (x := 0) h (.tail _ (.tail _ (.tail _ (.tail _ (.tail _ (.tail _ (.head _)))))))⟩

theorem word54 (o : Nat) (x0 : BitVec 6) (x1 : BitVec 6) (x2 : BitVec 6) (x3 : BitVec 3) (sw : Bool) (ho : o < 256) :
    ∀ w, w = BitVec.ofNat 32 (bitNat sw * 2 ^ 31 + packFields [(o, 23), (x0.toNat, 17), (x1.toNat, 11), (x2.toNat, 5), (x3.toNat, 1)]) →
    opcOf w = o ∧ swOf w = sw ∧ (fld w 0 0).toNat = 0 ∧ fld w 17 6 = x0 ∧ fld w 11 6 = x1 ∧ fld w 5 6 = x2 ∧ fld w 1 3 = x3 ∧ fld w 0 1 = 0 ∧ fld w 4 1 = 0 := by
  intro w hw
  have h : Placed 32 [(bitNat sw, 31, 1), (o, 23, 8), (x0.toNat, 17, 6), (x1.toNat, 11, 6), (x2.toNat, 5, 6), (0, 4, 1), (x3.toNat, 1, 3), (0, 0, 1)] :=
    ⟨le_of rfl, bitNat_lt sw, le_of rfl, ho, le_of rfl, x0.isLt, le_of rfl, x1.isLt, le_of rfl, x2.isLt, le_of rfl, Nat.two_pow_pos _, le_of rfl, x3.isLt, le_of rfl, Nat.two_pow_pos _, trivial⟩
  have e : bitNat sw * 2 ^ 31 + packFields [(o, 23), (x0.toNat, 17), (x1.toNat, 11), (x2.toNat, 5), (x3.toNat, 1)] = pack [(bitNat sw, 31, 1), (o, 23, 8), (x0.toNat, 17, 6), (x1.toNat, 11, 6), (x2.toNat, 5, 6), (0, 4, 1), (x3.toNat, 1, 3), (0, 0, 1)] := by
    simp only [packFields, pack]; omega
  rw [e] at hw
  subst hw
  exact ⟨fld_placed h 23 8 (.tail _ (.head _)), swOf_placed h (.head _), fld_none _ _, fld_placed_eq h (.tail _ (.tail _ (.head _))), fld_placed_eq h (.tail _ (.tail _ (.tail _ (.head _)))), fld_placed_eq h (.tail _ (.tail _ (.tail _ (.tail _ (.head _))))), fld_placed_eq h (.tail _ (.tail _ (.tail _ (.tail _ (.tail _ (.tail _ (.head _))))))), fld_placed_eq (x := 0) h (.tail _ (.tail _ (.tail _ (.tail _ (.tail _ (.tail _ (.tail _ (.head _)))))))), fld_placed_eq (x := 0) h (.tail _ (.tail _ (.tail _ (.tail _ (.tail _ (.head _))))))⟩

theorem word55 (o : Nat)  (sw : Bool) (ho : o < 256) :
    ∀ w, w = BitVec.ofNat 32 (bitNat sw * 2 ^ 31 + packFields [(o, 23)]) →
    opcOf w = o ∧ swOf w = sw ∧ (fld w 0 2).toNat = 0 ∧ fld w 2 21 = 0 := by
  intro w hw
  have h : Placed 32 [(bitNat sw, 31, 1), (o, 23, 8), (0, 2, 21), (0, 0, 2)] :=
    ⟨le_of rfl, bitNat_lt sw, le_of rfl, ho, le_of rfl, Nat.two_pow_pos _, le_of rfl, by decide, trivial⟩
  have e : bitNat sw * 2 ^ 31 + packFields [(o, 23)] = pack [(bitNat sw, 31, 1), (o, 23, 8), (0, 2, 21), (0, 0, 2)] := by
    simp only [packFields, pack]; omega
  rw [e] at hw
  subst hw
  exact ⟨fld_placed h 23 8 (.tail _ (.head _)), swOf_placed h (.head _), fld_placed h 0 2 (.tail _ (.tail _ (.tail _ (.head _)))), fld_placed_eq (x := 0) h (.tail _ (.tail _ (.head _)))⟩

theorem word56 (o : Nat) (k : Nat)  (sw : Bool) (ho : o < 256) (hk : k < 4) :
    ∀ w, w = BitVec.ofNat 32 (bitNat sw * 2 ^ 31 + packFields [(o, 23), (k, 0)]) →
    opcOf w = o ∧ swOf w = sw ∧ (fld w 0 2).toNat = k ∧ fld w 2 21 = 0 := by
  intro w hw
  have h : Placed 32 [(bitNat sw, 31, 1), (o, 23, 8), (0, 2, 21), (k, 0, 2)] :=
    ⟨le_of rfl, bitNat_lt sw, le_of rfl, ho, le_of rfl, Nat.two_pow_pos _, le_of rfl, hk, trivial⟩
  have e : bitNat sw * 2 ^ 31 + packFields [(o, 23), (k, 0)] = pack [(bitNat sw, 31, 1), (o, 23, 8), (0, 2, 21), (k, 0, 2)] := by
    simp only [packFields, pack]; omega
  rw [e] at hw
  subst hw
  exact ⟨fld_placed h 23 8 (.tail _ (.head _)), swOf_placed h (.head _), fld_placed h 0 2 (.tail _ (.tail _ (.tail _ (.head _)))), fld_placed_eq (x := 0) h (.tail _ (.tail _ (.head _)))⟩

theorem word57 (o : Nat) (x0 : BitVec 6) (x1 : BitVec 6) (x2 : BitVec 1) (sw : Bool) (ho : o < 256) :
    ∀ w, w = BitVec.ofNat 32 (bitNat sw * 2 ^ 31 + packFields [(o, 23), (x0.toNat, 11), (x1.toNat, 5), (x2.toNat, 1)]) →
    opcOf w = o ∧ swOf w = sw ∧ (fld w 0 0).toNat = 0 ∧ fld w 11 6 = x0 ∧ fld w 5 6 = x1 ∧ fld w 1 1 = x2 ∧ fld w 0 1 = 0 ∧ fld w 2 3 = 0 ∧ fld w 17 6 = 0 := by
  intro w hw
  have h : Placed 32 [(bitNat sw, 31, 1), (o, 23, 8), (0, 17, 6), (x0.toNat, 11, 6), (x1.toNat, 5, 6), (0, 2, 3), (x2.toNat, 1, 1), (0, 0, 1)] :=
    ⟨le_of rfl, bitNat_lt sw, le_of rfl, ho, le_of rfl, Nat.two_pow_pos _, le_of rfl, x0.isLt, le_of rfl, x1.isLt, le_of rfl, Nat.two_pow_pos _, le_of rfl, x2.isLt, le_of rfl, Nat.two_pow_pos _, trivial⟩
  have e : bitNat sw * 2 ^ 31 + packFields [(o, 23), (x0.toNat, 11), (x1.toNat, 5), (x2.toNat, 1)] = pack [(bitNat sw, 31, 1), (o, 23, 8), (0, 17, 6), (x0.toNat, 11, 6), (x1.toNat, 5, 6), (0, 2, 3), (x2.toNat, 1, 1), (0, 0, 1)] := by
    simp only [packFields, pack]; omega
  rw [e] at hw
  subst hw
  exact ⟨fld_placed h 23 8 (.tail _ (.head _)), swOf_placed h (.head _), fld_none _ _, fld_placed_eq h (.tail _ (.tail _ (.tail _ (.head _)))), fld_placed_eq h (.tail _ (.tail _ (.tail _ (.tail _ (.head _))))), fld_placed_eq h (.tail _ (.tail _ (.tail _ (.tail _ (.tail _ (.tail _ (.head _))))))), fld_placed_eq (x := 0) h (.tail _ (.tail _ (.tail _ (.tail _ (.tail _ (.tail _ (.tail _ (.head _)))))))), fld_placed_eq (x := 0) h (.tail _ (.tail _ (.tail _ (.tail _ (.tail _ (.head _)))))), fld_placed_eq (x := 0) h (.tail _ (.tail _ (.head _)))⟩

theorem word58 (o : Nat) (x0 : BitVec 6) (x1 : BitVec 6) (x2 : BitVec 6) (sw : Bool) (ho : o < 256) :
    ∀ w, w = BitVec.ofNat 32 (bitNat sw * 2 ^ 31 + packFields [(o, 23), (x0.toNat, 17), (x1.toNat, 11), (x2.toNat, 5)]) →
    opcOf w = o ∧ swOf w = sw ∧ (fld w 1 1).toNat = 0 ∧ fld w 17 6 = x0 ∧ fld w 11 6 = x1 ∧ fld w 5 6 = x2 ∧ fld w 0 1 = 0 ∧ fld w 2 3 = 0 := by
  intro w hw
  have h : Placed 32 [(bitNat sw, 31, 1), (o, 23, 8), (x0.toNat, 17, 6), (x1.toNat, 11, 6), (x2.toNat, 5, 6), (0, 2, 3), (0, 1, 1), (0, 0, 1)] :=
    ⟨le_of rfl, bitNat_lt sw, le_of rfl, ho, le_of rfl, x0.isLt, le_of rfl, x1.isLt, le_of rfl, x2.isLt, le_of rfl, Nat.two_pow_pos _, le_of rfl, by decide, le_of rfl, Nat.two_pow_pos _, trivial⟩
  have e : bitNat sw * 2 ^ 31 + packFields [(o, 23), (x0.toNat, 17), (x1.toNat, 11), (x2.toNat, 5)] = pack [(bitNat sw, 31, 1), (o, 23, 8), (x0.toNat, 17, 6), (x1.toNat, 11, 6), (x2.toNat, 5, 6), (0, 2, 3), (0, 1, 1), (0, 0, 1)] := by
    simp only [packFields, pack]; omega
  rw [e] at hw
  subst hw
  exact ⟨fld_placed h 23 8 (.tail _ (.head _)), swOf_placed h (.head _), fld_placed h 1 1 (.tail _ (.tail _ (.tail _ (.tail _ (.tail _ (.tail _ (.head _))))))), fld_placed_eq h (.tail _ (.tail _ (.head _))), fld_placed_eq h (.tail _ (.tail _ (.tail _ (.head _)))), fld_placed_eq h (.tail _ (.tail _ (.tail _ (.tail _ (.head _))))), fld_placed_eq (x := 0) h (.tail _ (.tail _ (.tail _ (.tail _ (.tail _ (.tail _ (.tail _ (.head _)))))))), fld_placed_eq (x := 0) h (.tail _ (.tail _ (.tail _ (.tail _ (.tail _ (.head _))))))⟩

theorem word59 (o : Nat) (k : Nat) (x0 : BitVec 6) (x1 : BitVec 6) (x2 : BitVec 6) (sw : Bool) (ho : o < 256) (hk : k < 2) :
    ∀ w, w = BitVec.ofNat 32 (bitNat sw * 2 ^ 31 + packFields [(o, 23), (k, 1), (x0.toNat, 17), (x1.toNat, 11), (x2.toNat, 5)]) →
    opcOf w = o ∧ swOf w = sw ∧ (fld w 1 1).toNat = k ∧ fld w 17 6 = x0 ∧ fld w 11 6 = x1 ∧ fld w 5 6 = x2 ∧ fld w 0 1 = 0 ∧ fld w 2 3 = 0 := by
  intro w hw
  have h : Placed 32 [(bitNat sw, 31, 1), (o, 23, 8), (x0.toNat, 17, 6), (x1.toNat, 11, 6), (x2.toNat, 5, 6), (0, 2, 3), (k, 1, 1), (0, 0, 1)] :=
    ⟨le_of rfl, bitNat_lt sw, le_of rfl, ho, le_of rfl, x0.isLt, le_of rfl, x1.isLt, le_of rfl, x2.isLt, le_of rfl, Nat.two_pow_pos _, le_of rfl, hk, le_of rfl, Nat.two_pow_pos _, trivial⟩
  have e : bitNat sw * 2 ^ 31 + packFields [(o, 23), (k, 1), (x0.toNat, 17), (x1.toNat, 11), (x2.toNat, 5)] = pack [(bitNat sw, 31, 1), (o, 23, 8), (x0.toNat, 17, 6), (x1.toNat, 11, 6), (x2.toNat, 5, 6), (0, 2, 3), (k, 1, 1), (0, 0, 1)] := by
    simp only [packFields, pack]; omega
  rw [e] at hw
  subst hw
  exact ⟨fld_placed h 23 8 (.tail _ (.head _)), swOf_placed h (.head _), fld_placed h 1 1 (.tail _ (.tail _ (.tail _ (.tail _ (.tail _ (.tail _ (.head _))))))), fld_placed_eq h (.tail _ (.tail _ (.head _))), fld_placed_eq h (.tail _ (.tail _ (.tail _ (.head _)))), fld_placed_eq h (.tail _ (.tail _ (.tail _ (.tail _ (.head _))))), fld_placed_eq (x := 0) h (.tail _ (.tail _ (.tail _ (.tail _ (.tail _ (.tail _ (.tail _ (.head _)))))))), fld_placed_eq (x := 0) h (.tail _ (.tail _ (.tail _ (.tail _ (.tail _ (.head _))))))⟩

theorem word60 (o : Nat) (x0 : BitVec 6) (x1 : BitVec 6) (x2 : BitVec 6) (sw : Bool) (ho : o < 256) :
    ∀ w, w = BitVec.ofNat 32 (bitNat sw * 2 ^ 31 + packFields [(o, 23), (x0.toNat, 17), (x1.toNat, 11), (x2.toNat, 5)]) →
    opcOf w = o ∧ swOf w = sw ∧ (fld w 0 1).toNat = 0 ∧ fld w 17 6 = x0 ∧ fld w 11 6 = x1 ∧ fld w 5 6 = x2 ∧ fld w 1 4 = 0 := by
  intro w hw
  have h : Placed 32 [(bitNat sw, 31, 1), (o, 23, 8), (x0.toNat, 17, 6), (x1.toNat, 11, 6), (x2.toNat, 5, 6), (0, 1, 4), (0, 0, 1)] :=
    ⟨le_of rfl, bitNat_lt sw, le_of rfl, ho, le_of rfl, x0.isLt, le_of rfl, x1.isLt, le_of rfl, x2.isLt, le_of rfl, Nat.two_pow_pos _, le_of rfl, by decide, trivial⟩
  have e : bitNat sw * 2 ^ 31 + packFields [(o, 23), (x0.toNat, 17), (x1.toNat, 11), (x2.toNat, 5)] = pack [(bitNat sw, 31, 1), (o, 23, 8), (x0.toNat, 17, 6), (x1.toNat, 11, 6), (x2.toNat, 5, 6), (0, 1, 4), (0, 0, 1)] := by
    simp only [packFields, pack]; omega
  rw [e] at hw
  subst hw
  exact ⟨fld_placed h 23 8 (.tail _ (.head _)), swOf_placed h (.head _), fld_placed h 0 1 (.tail _ (.tail _ (.tail _ (.tail _ (.tail _ (.tail _ (.head _))))))), fld_placed_eq h (.tail _ (.tail _ (.head _))), fld_placed_eq h (.tail _ (.tail _ (.tail _ (.head _)))), fld_placed_eq h (.tail _ (.tail _ (.tail _ (.tail _ (.head _))))), fld_placed_eq (x := 0) h (.tail _ (.tail _ (.tail _ (.tail _ (.tail _ (.head _))))))⟩

theorem word61 (o : Nat) (k : Nat) (x0 : BitVec 6) (sw : Bool) (ho : o < 256) (hk : k < 2) :
    ∀ w, w = BitVec.ofNat 32 (bitNat sw * 2 ^ 31 + packFields [(o, 23), (k, 0), (x0.toNat, 11)]) →
    opcOf w = o ∧ swOf w = sw ∧ (fld w 0 1).toNat = k ∧ fld w 11 6 = x0 ∧ fld w 1 10 = 0 ∧ fld w 17 6 = 0 := by
  intro w hw
  have h : Placed 32 [(bitNat sw, 31, 1), (o, 23, 8), (0, 17, 6), (x0.toNat, 11, 6), (0, 1, 10), (k, 0, 1)] :=
    ⟨le_of rfl, bitNat_lt sw, le_of rfl, ho, le_of rfl, Nat.two_pow_pos _, le_of rfl, x0.isLt, le_of rfl, Nat.two_pow_pos _, le_of rfl, hk, trivial⟩
  have e : bitNat sw * 2 ^ 31 + packFields [(o, 23), (k, 0), (x0.toNat, 11)] = pack [(bitNat sw, 31, 1), (o, 23, 8), (0, 17, 6), (x0.toNat, 11, 6), (0, 1, 10), (k, 0, 1)] := by
    simp only [packFields, pack]; omega
  rw [e] at hw
  subst hw
  exact ⟨fld_placed h 23 8 (.tail _ (.head _)), swOf_placed h (.head _), fld_placed h 0 1 (.tail _ (.tail _ (.tail _ (.tail _ (.tail _ (.head _)))))), fld_placed_eq h (.tail _ (.tail _ (.tail _ (.head _)))), fld_placed_eq (x := 0) h (.tail _ (.tail _ (.tail _ (.tail _ (.head _))))), fld_placed_eq (x := 0) h (.tail _ (.tail _ (.head _)))⟩

theorem word62 (o : Nat) (x0 : BitVec 6) (x1 : BitVec 6) (x2 : BitVec 6) (x3 : BitVec 3) (x4 : BitVec 1) (sw : Bool) (ho : o < 256) :
    ∀ w, w = BitVec.ofNat 32 (bitNat sw * 2 ^ 31 + packFields [(o, 23), (x0.toNat, 17), (x1.toNat, 11), (x2.toNat, 5), (x3.toNat, 2), (x4.toNat, 1)]) →
    opcOf w = o ∧ swOf w = sw ∧ (fld w 0 0).toNat = 0 ∧ fld w 17 6 = x0 ∧ fld w 11 6 = x1 ∧ fld w 5 6 = x2 ∧ fld w 2 3 = x3 ∧ fld w 1 1 = x4 ∧ fld w 0 1 = 0 := by
  intro w hw
  have h : Placed 32 [(bitNat sw, 31, 1), (o, 23, 8), (x0.toNat, 17, 6), (x1.toNat, 11, 6), (x2.toNat, 5, 6), (x3.toNat, 2, 3), (x4.toNat, 1, 1), (0, 0, 1)] :=
    ⟨le_of rfl, bitNat_lt sw, le_of rfl, ho, le_of rfl, x0.isLt, le_of rfl, x1.isLt, le_of rfl, x2.isLt, le_of rfl, x3.isLt, le_of rfl, x4.isLt, le_of rfl, Nat.two_pow_pos _, trivial⟩
  have e : bitNat sw * 2 ^ 31 + packFields [(o, 23), (x0.toNat, 17), (x1.toNat, 11), (x2.toNat, 5), (x3.toNat, 2), (x4.toNat, 1)] = pack [(bitNat sw, 31, 1), (o, 23, 8), (x0.toNat, 17, 6), (x1.toNat, 11, 6), (x2.toNat, 5, 6), (x3.toNat, 2, 3), (x4.toNat, 1, 1), (0, 0, 1)] := by
    simp only [packFields, pack]; omega
  rw [e] at hw
  subst hw
  exact ⟨fld_placed h 23 8 (.tail _ (.head _)), swOf_placed h (.head _), fld_none _ _, fld_placed_eq h (.tail _ (.tail _ (.head _))), fld_placed_eq h (.tail _ (.tail _ (.tail _ (.head _)))), fld_placed_eq h (.tail _ (.tail _ (.tail _ (.tail _ (.head _))))), fld_placed_eq h (.tail _ (.tail _ (.tail _ (.tail _ (.tail _ (.head _)))))), fld_placed_eq h (.tail _ (.tail _ (.tail _ (.tail _ (.tail _ (.tail _ (.head _))))))), fld_placed_eq (x := 0) h (.tail _ (.tail _ (.tail _ (.tail _ (.tail _ (.tail _ (.tail _ (.head _))))))))⟩

theorem word63 (o : Nat) (x0 : BitVec 4) (sw : Bool) (ho : o < 256) :
    ∀ w, w = BitVec.ofNat 32 (bitNat sw * 2 ^ 31 + packFields [(o, 23), (x0.toNat, 0)]) →
    opcOf w = o ∧ swOf w = sw ∧ (fld w 0 0).toNat = 0 ∧ fld w 0 4 = x0 ∧ fld w 4 19 = 0 := by
  intro w hw
  have h : Placed 32 [(bitNat sw, 31, 1), (o, 23, 8), (0, 4, 19), (x0.toNat, 0, 4)] :=
    ⟨le_of rfl, bitNat_lt sw, le_of rfl, ho, le_of rfl, Nat.two_pow_pos _, le_of rfl, x0.isLt, trivial⟩
  have e : bitNat sw * 2 ^ 31 + packFields [(o, 23), (x0.toNat, 0)] = pack [(bitNat sw, 31, 1), (o, 23, 8), (0, 4, 19), (x0.toNat, 0, 4)] := by
    simp only [packFields, pack]; omega
  rw [e] at hw
  subst hw
  exact ⟨fld_placed h 23 8 (.tail _ (.head _)), swOf_placed h (.head _), fld_none _ _, fld_placed_eq h (.tail _ (.tail _ (.tail _ (.head _)))), fld_placed_eq (x := 0) h (.tail _ (.tail _ (.head _)))⟩

theorem word64 (o : Nat) (x0 : BitVec 5) (sw : Bool) (ho : o < 256) :
    ∀ w, w = BitVec.ofNat 32 (bitNat sw * 2 ^ 31 + packFields [(o, 23), (x0.toNat, 0)]) →
    opcOf w = o ∧ swOf w = sw ∧ (fld w 5 1).toNat = 0 ∧ fld w 0 5 = x0 ∧ fld w 6 17 = 0 := by
  intro w hw
  have h : Placed 32 [(bitNat sw, 31, 1), (o, 23, 8), (0, 6, 17), (0, 5, 1), (x0.toNat, 0, 5)] :=
    ⟨le_of rfl, bitNat_lt sw, le_of rfl, ho, le_of rfl, Nat.two_pow_pos _, le_of rfl, by decide, le_of rfl, x0.isLt, trivial⟩
  have e : bitNat sw * 2 ^ 31 + packFields [(o, 23), (x0.toNat, 0)] = pack [(bitNat sw, 31, 1), (o, 23, 8), (0, 6, 17), (0, 5, 1), (x0.toNat, 0, 5)] := by
    simp only [packFields, pack]; omega
  rw [e] at hw
  subst hw
  exact ⟨fld_placed h 23 8 (.tail _ (.head _)), swOf_placed h (.head _), fld_placed h 5 1 (.tail _ (.tail _ (.tail _ (.head _)))), fld_placed_eq h (.tail _ (.tail _ (.tail _ (.tail _ (.head _))))), fld_placed_eq (x := 0) h (.tail _ (.tail _ (.head _)))⟩

theorem word65 (o : Nat) (k : Nat) (x0 : BitVec 5) (sw : Bool) (ho : o < 256) (hk : k < 2) :
    ∀ w, w = BitVec.ofNat 32 (bitNat sw * 2 ^ 31 + packFields [(o, 23), (k, 5), (x0.toNat, 0)]) →
    opcOf w = o ∧ swOf w = sw ∧ (fld w 5 1).toNat = k ∧ fld w 0 5 = x0 ∧ fld w 6 17 = 0 := by
  intro w hw
  have h : Placed 32 [(bitNat sw, 31, 1), (o, 23, 8), (0, 6, 17), (k, 5, 1), (x0.toNat, 0, 5)] :=
    ⟨le_of rfl, bitNat_lt sw, le_of rfl, ho, le_of rfl, Nat.two_pow_pos _, le_of rfl, hk, le_of rfl, x0.isLt, trivial⟩
  have e : bitNat sw * 2 ^ 31 + packFields [(o, 23), (k, 5), (x0.toNat, 0)] = pack [(bitNat sw, 31, 1), (o, 23, 8), (0, 6, 17), (k, 5, 1), (x0.toNat, 0, 5)] := by
    simp only [packFields, pack]; omega
  rw [e] at hw
  subst hw
  exact ⟨fld_placed h 23 8 (.tail _ (.head _)), swOf_placed h (.head _), fld_placed h 5 1 (.tail _ (.tail _ (.tail _ (.head _)))), fld_placed_eq h (.tail _ (.tail _ (.tail _ (.tail _ (.head _))))), fld_placed_eq (x := 0) h (.tail _ (.tail _ (.head _)))⟩

theorem word66 (o : Nat) (x0 : BitVec 10) (x1 : BitVec 1) (x2 : BitVec 4) (sw : Bool) (ho : o < 256) :
    ∀ w, w = BitVec.ofNat 32 (bitNat sw * 2 ^ 31 + packFields [(o, 23), (x0.toNat, 5), (x1.toNat, 4), (x2.toNat, 0)]) →
    opcOf w = o ∧ swOf w = sw ∧ (fld w 0 0).toNat = 0 ∧ fld w 5 10 = x0 ∧ fld w 4 1 = x1 ∧ fld w 0 4 = x2 ∧ fld w 15 8 = 0 := by
  intro w hw
  have h : Placed 32 [(bitNat sw, 31, 1), (o, 23, 8), (0, 15, 8), (x0.toNat, 5, 10), (x1.toNat, 4, 1), (x2.toNat, 0, 4)] :=
    ⟨le_of rfl, bitNat_lt sw, le_of rfl, ho, le_of rfl, Nat.two_pow_pos _, le_of rfl, x0.isLt, le_of rfl, x1.isLt, le_of rfl, x2.isLt, trivial⟩
  have e : bitNat sw * 2 ^ 31 + packFields [(o, 23), (x0.toNat, 5), (x1.toNat, 4), (x2.toNat, 0)] = pack [(bitNat sw, 31, 1), (o, 23, 8), (0, 15, 8), (x0.toNat, 5, 10), (x1.toNat, 4, 1), (x2.toNat, 0, 4)] := by
    simp only [packFields, pack]; omega
  rw [e] at hw
  subst hw
  exact ⟨fld_placed h 23 8 (.tail _ (.head _)), swOf_placed h (.head _), fld_none _ _, fld_placed_eq h (.tail _ (.tail _ (.tail _ (.head _)))), fld_placed_eq h (.tail _ (.tail _ (.tail _ (.tail _ (.head _))))), fld_placed_eq h (.tail _ (.tail _ (.tail _ (.tail _ (.tail _ (.head _)))))), fld_placed_eq (x := 0) h (.tail _ (.tail _ (.head _)))⟩

theorem word67 (o : Nat) (x0 : BitVec 6) (x1 : BitVec 6) (x2 : BitVec 2) (sw : Bool) (ho : o < 256) :
    ∀ w, w = BitVec.ofNat 32 (bitNat sw * 2 ^ 31 + packFields [(o, 23), (x0.toNat, 11), (x1.toNat, 5), (x2.toNat, 0)]) →
    opcOf w = o ∧ swOf w = sw ∧ (fld w 0 0).toNat = 0 ∧ fld w 11 6 = x0 ∧ fld w 5 6 = x1 ∧ fld w 0 2 = x2 ∧ fld w 2 3 = 0 ∧ fld w 17 6 = 0 := by
  intro w hw
  have h : Placed 32 [(bitNat sw, 31, 1), (o, 23, 8), (0, 17, 6), (x0.toNat, 11, 6), (x1.toNat, 5, 6), (0, 2, 3), (x2.toNat, 0, 2)] :=
    ⟨le_of rfl, bitNat_lt sw, le_of rfl, ho, le_of rfl, Nat.two_pow_pos _, le_of rfl, x0.isLt, le_of rfl, x1.isLt, le_of rfl, Nat.two_pow_pos _, le_of rfl, x2.isLt, trivial⟩
  have e : bitNat sw * 2 ^ 31 + packFields [(o, 23), (x0.toNat, 11), (x1.toNat, 5), (x2.toNat, 0)] = pack [(bitNat sw, 31, 1), (o, 23, 8), (0, 17, 6), (x0.toNat, 11, 6), (x1.toNat, 5, 6), (0, 2, 3), (x2.toNat, 0, 2)] := by
    simp only [packFields, pack]; omega
  rw [e] at hw
  subst hw
  exact ⟨fld_placed h 23 8 (.tail _ (.head _)), swOf_placed h (.head _), fld_none _ _, fld_placed_eq h (.tail _ (.tail _ (.tail _ (.head _)))), fld_placed_eq h (.tail _ (.tail _ (.tail _ (.tail _ (.head _))))), fld_placed_eq h (.tail _ (.tail _ (.tail _ (.tail _ (.tail _ (.tail _ (.head _))))))), fld_placed_eq (x := 0) h (.tail _ (.tail _ (.tail _ (.tail _ (.tail _ (.head _)))))), fld_placed_eq (x := 0) h (.tail _ (.tail _ (.head _)))⟩

theorem word68 (o : Nat) (x0 : BitVec 6) (x1 : BitVec 6) (sw : Bool) (ho : o < 256) :
    ∀ w, w = BitVec.ofNat 32 (bitNat sw * 2 ^ 31 + packFields [(o, 23), (x0.toNat, 11), (x1.toNat, 5)]) →
    opcOf w = o ∧ swOf w = sw ∧ (fld w 0 1).toNat = 0 ∧ fld w 11 6 = x0 ∧ fld w 5 6 = x1 ∧ fld w 1 4 = 0 ∧ fld w 17 6 = 0 := by
  intro w hw
  have h : Placed 32 [(bitNat sw, 31, 1), (o, 23, 8), (0, 17, 6), (x0.toNat, 11, 6), (x1.toNat, 5, 6), (0, 1, 4), (0, 0, 1)] :=
    ⟨le_of rfl, bitNat_lt sw, le_of rfl, ho, le_of rfl, Nat.two_pow_pos _, le_of rfl, x0.isLt, le_of rfl, x1.isLt, le_of rfl, Nat.two_pow_pos _, le_of rfl, by decide, trivial⟩
  have e : bitNat sw * 2 ^ 31 + packFields [(o, 23), (x0.toNat, 11), (x1.toNat, 5)] = pack [(bitNat sw, 31, 1), (o, 23, 8), (0, 17, 6), (x0.toNat, 11, 6), (x1.toNat, 5, 6), (0, 1, 4), (0, 0, 1)] := by
    simp only [packFields, pack]; omega
  rw [e] at hw
  subst hw
  exact ⟨fld_placed h 23 8 (.tail _ (.head _)), swOf_placed h (.head _), fld_placed h 0 1 (.tail _ (.tail _ (.tail _ (.tail _ (.tail _ (.tail _ (.head _))))))), fld_placed_eq h (.tail _ (.tail _ (.tail _ (.head _)))), fld_placed_eq h (.tail _ (.tail _ (.tail _ (.tail _ (.head _))))), fld_placed_eq (x := 0) h (.tail _ (.tail _ (.tail _ (.tail _ (.tail _ (.head _)))))), fld_placed_eq (x := 0) h (.tail _ (.tail _ (.head _)))⟩

theorem word69 (o : Nat) (k : Nat) (x0 : BitVec 6) (sw : Bool) (ho : o < 256) (hk : k < 2) :
    ∀ w, w = BitVec.ofNat 32 (bitNat sw * 2 ^ 31 + packFields [(o, 23), (k, 0), (x0.toNat, 5)]) →
    opcOf w = o ∧ swOf w = sw ∧ (fld w 0 1).toNat = k ∧ fld w 5 6 = x0 ∧ fld w 1 4 = 0 ∧ fld w 11 12 = 0 := by
  intro w hw
  have h : Placed 32 [(bitNat sw, 31, 1), (o, 23, 8), (0, 11, 12), (x0.toNat, 5, 6), (0, 1, 4), (k, 0, 1)] :=
    ⟨le_of rfl, bitNat_lt sw, le_of rfl, ho, le_of rfl, Nat.two_pow_pos _, le_of rfl, x0.isLt, le_of rfl, Nat.two_pow_pos _, le_of rfl, hk, trivial⟩
  have e : bitNat sw * 2 ^ 31 + packFields [(o, 23), (k, 0), (x0.toNat, 5)] = pack [(bitNat sw, 31, 1), (o, 23, 8), (0, 11, 12), (x0.toNat, 5, 6), (0, 1, 4), (k, 0, 1)] := by
    simp only [packFields, pack]; omega
  rw [e] at hw
  subst hw
  exact ⟨fld_placed h 23 8 (.tail _ (.head _)), swOf_placed h (.head _), fld_placed h 0 1 (.tail _ (.tail _ (.tail _ (.tail _ (.tail _ (.head _)))))), fld_placed_eq h (.tail _ (.tail _ (.tail _ (.head _)))), fld_placed_eq (x := 0) h (.tail _ (.tail _ (.tail _ (.tail _ (.head _))))), fld_placed_eq (x := 0) h (.tail _ (.tail _ (.head _)))⟩

theorem word70 (o : Nat) (x0 : BitVec 6) (sw : Bool) (ho : o < 256) :
    ∀ w, w = BitVec.ofNat 32 (bitNat sw * 2 ^ 31 + packFields [(o, 23), (x0.toNat, 11)]) →
    opcOf w = o ∧ swOf w = sw ∧ (fld w 0 0).toNat = 0 ∧ fld w 11 6 = x0 ∧ fld w 0 11 = 0 ∧ fld w 17 6 = 0 := by
  intro w hw
  have h : Placed 32 [(bitNat sw, 31, 1), (o, 23, 8), (0, 17, 6), (x0.toNat, 11, 6), (0, 0, 11)] :=
    ⟨le_of rfl, bitNat_lt sw, le_of rfl, ho, le_of rfl, Nat.two_pow_pos _, le_of rfl, x0.isLt, le_of rfl, Nat.two_pow_pos _, trivial⟩
  have e : bitNat sw * 2 ^ 31 + packFields [(o, 23), (x0.toNat, 11)] = pack [(bitNat sw, 31, 1), (o, 23, 8), (0, 17, 6), (x0.toNat, 11, 6), (0, 0, 11)] := by
    simp only [packFields, pack]; omega
  rw [e] at hw
  subst hw
  exact ⟨fld_placed h 23 8 (.tail _ (.head _)), swOf_placed h (.head _), fld_none _ _, fld_placed_eq h (.tail _ (.tail _ (.tail _ (.head _)))), fld_placed_eq (x := 0) h (.tail _ (.tail _ (.tail _ (.tail _ (.head _))))), fld_placed_eq (x := 0) h (.tail _ (.tail _ (.head _)))⟩

theorem word71 (o : Nat) (x0 : BitVec 8) (sw : Bool) (ho : o < 256) :
    ∀ w, w = BitVec.ofNat 32 (bitNat sw * 2 ^ 31 + packFields [(o, 23), (x0.toNat, 0)]) →
    opcOf w = o ∧ swOf w = sw ∧ (fld w 8 1).toNat = 0 ∧ fld w 0 8 = x0 ∧ fld w 9 14 = 0 := by
  intro w hw
  have h : Placed 32 [(bitNat sw, 31, 1), (o, 23, 8), (0, 9, 14), (0, 8, 1), (x0.toNat, 0, 8)] :=
    ⟨le_of rfl, bitNat_lt sw, le_of rfl, ho, le_of rfl, Nat.two_pow_pos _, le_of rfl, by decide, le_of rfl, x0.isLt, trivial⟩
  have e : bitNat sw * 2 ^ 31 + packFields [(o, 23), (x0.toNat, 0)] = pack [(bitNat sw, 31, 1), (o, 23, 8), (0, 9, 14), (0, 8, 1), (x0.toNat, 0, 8)] := by
    simp only [packFields, pack]; omega
  rw [e] at hw
  subst hw
  exact ⟨fld_placed h 23 8 (.tail _ (.head _)), swOf_placed h (.head _), fld_placed h 8 1 (.tail _ (.tail _ (.tail _ (.head _)))), fld_placed_eq h (.tail _ (.tail _ (.tail _ (.tail _ (.head _))))), fld_placed_eq (x := 0) h (.tail _ (.tail _ (.head _)))⟩

theorem word72 (o : Nat) (k : Nat)  (sw : Bool) (ho : o < 256) (hk : k < 2) :
    ∀ w, w = BitVec.ofNat 32 (bitNat sw * 2 ^ 31 + packFields [(o, 23), (k, 8)]) →
    opcOf w = o ∧ swOf w = sw ∧ (fld w 8 1).toNat = k ∧ fld w 0 8 = 0 ∧ fld w 9 14 = 0 := by
  intro w hw
  have h : Placed 32 [(bitNat sw, 31, 1), (o, 23, 8), (0, 9, 14), (k, 8, 1), (0, 0, 8)] :=
    ⟨le_of rfl, bitNat_lt sw, le_of rfl, ho, le_of rfl, Nat.two_pow_pos _, le_of rfl, hk, le_of rfl, Nat.two_pow_pos _, trivial⟩
  have e : bitNat sw * 2 ^ 31 + packFields [(o, 23), (k, 8)] = pack [(bitNat sw, 31, 1), (o, 23, 8), (0, 9, 14), (k, 8, 1), (0, 0, 8)] := by
    simp only [packFields, pack]; omega
  rw [e] at hw
  subst hw
  exact ⟨fld_placed h 23 8 (.tail _ (.head _)), swOf_placed h (.head _), fld_placed h 8 1 (.tail _ (.tail _ (.tail _ (.head _)))), fld_placed_eq (x := 0) h (.tail _ (.tail _ (.tail _ (.tail _ (.head _))))), fld_placed_eq (x := 0) h (.tail _ (.tail _ (.head _)))⟩

theorem word73 (o : Nat) (x0 : BitVec 8) (sw : Bool) (ho : o < 256) :
    ∀ w, w = BitVec.ofNat 32 (bitNat sw * 2 ^ 31 + packFields [(o, 23), (x0.toNat, 0)]) →
    opcOf w = o ∧ swOf w = sw ∧ (fld w 0 0).toNat = 0 ∧ fld w 0 8 = x0 ∧ fld w 8 15 = 0 := by
  intro w hw
  have h : Placed 32 [(bitNat sw, 31, 1), (o, 23, 8), (0, 8, 15), (x0.toNat, 0, 8)] :=
    ⟨le_of rfl, bitNat_lt sw, le_of rfl, ho, le_of rfl, Nat.two_pow_pos _, le_of rfl, x0.isLt, trivial⟩
  have e : bitNat sw * 2 ^ 31 + packFields [(o, 23), (x0.toNat, 0)] = pack [(bitNat sw, 31, 1), (o, 23, 8), (0, 8, 15), (x0.toNat, 0, 8)] := by
    simp only [packFields, pack]; omega
  rw [e] at hw
  subst hw
  exact ⟨fld_placed h 23 8 (.tail _ (.head _)), swOf_placed h (.head _), fld_none _ _, fld_placed_eq h (.tail _ (.tail _ (.tail _ (.head _)))), fld_placed_eq (x := 0) h (.tail _ (.tail _ (.head _)))⟩

theorem word74 (o : Nat) (x0 : BitVec 3) (x1 : BitVec 3) (sw : Bool) (ho : o < 256) :
    ∀ w, w = BitVec.ofNat 32 (bitNat sw * 2 ^ 31 + packFields [(o, 23), (x0.toNat, 17), (x1.toNat, 11)]) →
    opcOf w = o ∧ swOf w = sw ∧ (fld w 0 1).toNat = 0 ∧ fld w 17 3 = x0 ∧ fld w 11 3 = x1 ∧ fld w 1 10 = 0 ∧ fld w 14 3 = 0 ∧ fld w 20 3 = 0 := by
  intro w hw
  have h : Placed 32 [(bitNat sw, 31, 1), (o, 23, 8), (0, 20, 3), (x0.toNat, 17, 3), (0, 14, 3), (x1.toNat, 11, 3), (0, 1, 10), (0, 0, 1)] :=
    ⟨le_of rfl, bitNat_lt sw, le_of rfl, ho, le_of rfl, Nat.two_pow_pos _, le_of rfl, x0.isLt, le_of rfl, Nat.two_pow_pos _, le_of rfl, x1.isLt, le_of rfl, Nat.two_pow_pos _, le_of rfl, by decide, trivial⟩
  have e : bitNat sw * 2 ^ 31 + packFields [(o, 23), (x0.toNat, 17), (x1.toNat, 11)] = pack [(bitNat sw, 31, 1), (o, 23, 8), (0, 20, 3), (x0.toNat, 17, 3), (0, 14, 3), (x1.toNat, 11, 3), (0, 1, 10), (0, 0, 1)] := by
    simp only [packFields, pack]; omega
  rw [e] at hw
  subst hw
  exact ⟨fld_placed h 23 8 (.tail _ (.head _)), swOf_placed h (.head _), fld_placed h 0 1 (.tail _ (.tail _ (.tail _ (.tail _ (.tail _ (.tail _ (.tail _ (.head _)))))))), fld_placed_eq h (.tail _ (.tail _ (.tail _ (.head _)))), fld_placed_eq h (.tail _ (.tail _ (.tail _ (.tail _ (.tail _ (.head _)))))), fld_placed_eq (x := 0) h (.tail _ (.tail _ (.tail _ (.tail _ (.tail _ (.tail _ (.head _))))))), fld_placed_eq (x := 0) h (.tail _ (.tail _ (.tail _ (.tail _ (.head _))))), fld_placed_eq (x := 0) h (.tail _ (.tail _ (.head _)))⟩

theorem word75 (o : Nat) (k : Nat) (x0 : BitVec 3) (x1 : BitVec 6) (x2 : BitVec 2) (sw : Bool) (ho : o < 256) (hk : k < 2) :
    ∀ w, w = BitVec.ofNat 32 (bitNat sw * 2 ^ 31 + packFields [(o, 23), (k, 0), (x0.toNat, 17), (x1.toNat, 11), (x2.toNat, 1)]) →
    opcOf w = o ∧ swOf w = sw ∧ (fld w 0 1).toNat = k ∧ fld w 17 3 = x0 ∧ fld w 11 6 = x1 ∧ fld w 1 2 = x2 ∧ fld w 3 8 = 0 ∧ fld w 20 3 = 0 := by
  intro w hw
  have h : Placed 32 [(bitNat sw, 31, 1), (o, 23, 8), (0, 20, 3), (x0.toNat, 17, 3), (x1.toNat, 11, 6), (0, 3, 8), (x2.toNat, 1, 2), (k, 0, 1)] :=
    ⟨le_of rfl, bitNat_lt sw, le_of rfl, ho, le_of rfl, Nat.two_pow_pos _, le_of rfl, x0.isLt, le_of rfl, x1.isLt, le_of rfl, Nat.two_pow_pos _, le_of rfl, x2.isLt, le_of rfl, hk, trivial⟩
  have e : bitNat sw * 2 ^ 31 + packFields [(o, 23), (k, 0), (x0.toNat, 17), (x1.toNat, 11), (x2.toNat, 1)] = pack [(bitNat sw, 31, 1), (o, 23, 8), (0, 20, 3), (x0.toNat, 17, 3), (x1.toNat, 11, 6), (0, 3, 8), (x2.toNat, 1, 2), (k, 0, 1)] := by
    simp only [packFields, pack]; omega
  rw [e] at hw
  subst hw
  exact ⟨fld_placed h 23 8 (.tail _ (.head _)), swOf_placed h (.head _), fld_placed h 0 1 (.tail _ (.tail _ (.tail _ (.tail _ (.tail _ (.tail _ (.tail _ (.head _)))))))), fld_placed_eq h (.tail _ (.tail _ (.tail _ (.head _)))), fld_placed_eq h (.tail _ (.tail _ (.tail _ (.tail _ (.head _))))), fld_placed_eq h (.tail _ (.tail _ (.tail _ (.tail _ (.tail _ (.tail _ (.head _))))))), fld_placed_eq (x := 0) h (.tail _ (.tail _ (.tail _ (.tail _ (.tail _ (.head _)))))), fld_placed_eq (x := 0) h (.tail _ (.tail _ (.head _)))⟩

theorem word76 (o : Nat) (x0 : BitVec 3) (x1 : BitVec 3) (x2 : BitVec 6) (x3 : BitVec 1) (sw : Bool) (ho : o < 256) :
    ∀ w, w = BitVec.ofNat 32 (bitNat sw * 2 ^ 31 + packFields [(o, 23), (x0.toNat, 17), (x1.toNat, 11), (x2.toNat, 5), (x3.toNat, 4)]) →
    opcOf w = o ∧ swOf w = sw ∧ (fld w 0 1).toNat = 0 ∧ fld w 17 3 = x0 ∧ fld w 11 3 = x1 ∧ fld w 5 6 = x2 ∧ fld w 4 1 = x3 ∧ fld w 1 3 = 0 ∧ fld w 14 3 = 0 ∧ fld w 20 3 = 0 := by
  intro w hw
  have h : Placed 32 [(bitNat sw, 31, 1), (o, 23, 8), (0, 20, 3), (x0.toNat, 17, 3), (0, 14, 3), (x1.toNat, 11, 3), (x2.toNat, 5, 6), (x3.toNat, 4, 1), (0, 1, 3), (0, 0, 1)] :=
    ⟨le_of rfl, bitNat_lt sw, le_of rfl, ho, le_of rfl, Nat.two_pow_pos _, le_of rfl, x0.isLt, le_of rfl, Nat.two_pow_pos _, le_of rfl, x1.isLt, le_of rfl, x2.isLt, le_of rfl, x3.isLt, le_of rfl, Nat.two_pow_pos _, le_of rfl, by decide, trivial⟩
  have e : bitNat sw * 2 ^ 31 + packFields [(o, 23), (x0.toNat, 17), (x1.toNat, 11), (x2.toNat, 5), (x3.toNat, 4)] = pack [(bitNat sw, 31, 1), (o, 23, 8), (0, 20, 3), (x0.toNat, 17, 3), (0, 14, 3), (x1.toNat, 11, 3), (x2.toNat, 5, 6), (x3.toNat, 4, 1), (0, 1, 3), (0, 0, 1)] := by
    simp only [packFields, pack]; omega
  rw [e] at hw
  subst hw
  exact ⟨fld_placed h 23 8 (.tail _ (.head _)), swOf_placed h (.head _), fld_placed h 0 1 (.tail _ (.tail _ (.tail _ (.tail _ (.tail _ (.tail _ (.tail _ (.tail _ (.tail _ (.head _)))))))))), fld_placed_eq h (.tail _ (.tail _ (.tail _ (.head _)))), fld_placed_eq h (.tail _ (.tail _ (.tail _ (.tail _ (.tail _ (.head _)))))), fld_placed_eq h (.tail _ (.tail _ (.tail _ (.tail _ (.tail _ (.tail _ (.head _))))))), fld_placed_eq h (.tail _ (.tail _ (.tail _ (.tail _ (.tail _ (.tail _ (.tail _ (.head _)))))))), fld_placed_eq (x := 0) h (.tail _ (.tail _ (.tail _ (.tail _ (.tail _ (.tail _ (.tail _ (.tail _ (.head _))))))))), fld_placed_eq (x := 0) h (.tail _ (.tail _ (.tail _ (.tail _ (.head _))))), fld_placed_eq (x := 0) h (.tail _ (.tail _ (.head _)))⟩

theorem word77 (o : Nat) (k : Nat) (x0 : BitVec 6) (x1 : BitVec 3) (x2 : BitVec 6) (x3 : BitVec 1) (x4 : BitVec 3) (sw : Bool) (ho : o < 256) (hk : k < 2) :
    ∀ w, w = BitVec.ofNat 32 (bitNat sw * 2 ^ 31 + packFields [(o, 23), (k, 0), (x0.toNat, 17), (x1.toNat, 11), (x2.toNat, 5), (x3.toNat, 4), (x4.toNat, 1)]) →
    opcOf w = o ∧ swOf w = sw ∧ (fld w 0 1).toNat = k ∧ fld w 17 6 = x0 ∧ fld w 11 3 = x1 ∧ fld w 5 6 = x2 ∧ fld w 4 1 = x3 ∧ fld w 1 3 = x4 ∧ fld w 14 3 = 0 := by
  intro w hw
  have h : Placed 32 [(bitNat sw, 31, 1), (o, 23, 8), (x0.toNat, 17, 6), (0, 14, 3), (x1.toNat, 11, 3), (x2.toNat, 5, 6), (x3.toNat, 4, 1), (x4.toNat, 1, 3), (k, 0, 1)] :=
    ⟨le_of rfl, bitNat_lt sw, le_of rfl, ho, le_of rfl, x0.isLt, le_of rfl, Nat.two_pow_pos _, le_of rfl, x1.isLt, le_of rfl, x2.isLt, le_of rfl, x3.isLt, le_of rfl, x4.isLt, le_of rfl, hk, trivial⟩
  have e : bitNat sw * 2 ^ 31 + packFields [(o, 23), (k, 0), (x0.toNat, 17), (x1.toNat, 11), (x2.toNat, 5), (x3.toNat, 4), (x4.toNat, 1)] = pack [(bitNat sw, 31, 1), (o, 23, 8), (x0.toNat, 17, 6), (0, 14, 3), (x1.toNat, 11, 3), (x2.toNat, 5, 6), (x3.toNat, 4, 1), (x4.toNat, 1, 3), (k, 0, 1)] := by
    simp only [packFields, pack]; omega
  rw [e] at hw
  subst hw
  exact ⟨fld_placed h 23 8 (.tail _ (.head _)), swOf_placed h (.head _), fld_placed h 0 1 (.tail _ (.tail _ (.tail _ (.tail _ (.tail _ (.tail _ (.tail _ (.tail _ (.head _))))))))), fld_placed_eq h (.tail _ (.tail _ (.head _))), fld_placed_eq h (.tail _ (.tail _ (.tail _ (.tail _ (.head _))))), fld_placed_eq h (.tail _ (.tail _ (.tail _ (.tail _ (.tail _ (.head _)))))), fld_placed_eq h (.tail _ (.tail _ (.tail _ (.tail _ (.tail _ (.tail _ (.head _))))))), fld_placed_eq h (.tail _ (.tail _ (.tail _ (.tail _ (.tail _ (.tail _ (.tail _ (.head _)))))))), fld_placed_eq (x := 0) h (.tail _ (.tail _ (.tail _ (.head _))))⟩

theorem word78 (o : Nat) (x0 : BitVec 6) (sw : Bool) (ho : o < 256) :
    ∀ w, w = BitVec.ofNat 32 (bitNat sw * 2 ^ 31 + packFields [(o, 23), (x0.toNat, 11)]) →
    opcOf w = o ∧ swOf w = sw ∧ (fld w 0 1).toNat = 0 ∧ fld w 11 6 = x0 ∧ fld w 1 10 = 0 ∧ fld w 17 6 = 0 := by
  intro w hw
  have h : Placed 32 [(bitNat sw, 31, 1), (o, 23, 8), (0, 17, 6), (x0.toNat, 11, 6), (0, 1, 10), (0, 0, 1)] :=
    ⟨le_of rfl, bitNat_lt sw, le_of rfl, ho, le_of rfl, Nat.two_pow_pos _, le_of rfl, x0.isLt, le_of rfl, Nat.two_pow_pos _, le_of rfl, by decide, trivial⟩
  have e : bitNat sw * 2 ^ 31 + packFields [(o, 23), (x0.toNat, 11)] = pack [(bitNat sw, 31, 1), (o, 23, 8), (0, 17, 6), (x0.toNat, 11, 6), (0, 1, 10), (0, 0, 1)] := by
    simp only [packFields, pack]; omega
  rw [e] at hw
  subst hw
  exact ⟨fld_placed h 23 8 (.tail _ (.head _)), swOf_placed h (.head _), fld_placed h 0 1 (.tail _ (.tail _ (.tail _ (.tail _ (.tail _ (.head _)))))), fld_placed_eq h (.tail _ (.tail _ (.tail _ (.head _)))), fld_placed_eq (x := 0) h (.tail _ (.tail _ (.tail _ (.tail _ (.head _))))), fld_placed_eq (x := 0) h (.tail _ (.tail _ (.head _)))⟩

theorem word79 (o : Nat) (k : Nat) (x0 : BitVec 6) (x1 : BitVec 6) (x2 : BitVec 2) (x3 : BitVec 6) (sw : Bool) (ho : o < 256) (hk : k < 2) :
    ∀ w, w = BitVec.ofNat 32 (bitNat sw * 2 ^ 31 + packFields [(o, 23), (k, 0), (x0.toNat, 17), (x1.toNat, 11), (x2.toNat, 9), (x3.toNat, 3)]) →
    opcOf w = o ∧ swOf w = sw ∧ (fld w 0 1).toNat = k ∧ fld w 17 6 = x0 ∧ fld w 11 6 = x1 ∧ fld w 9 2 = x2 ∧ fld w 3 6 = x3 ∧ fld w 1 2 = 0 := by
  intro w hw
  have h : Placed 32 [(bitNat sw, 31, 1), (o, 23, 8), (x0.toNat, 17, 6), (x1.toNat, 11, 6), (x2.toNat, 9, 2), (x3.toNat, 3, 6), (0, 1, 2), (k, 0, 1)] :=
    ⟨le_of rfl, bitNat_lt sw, le_of rfl, ho, le_of rfl, x0.isLt, le_of rfl, x1.isLt, le_of rfl, x2.isLt, le_of rfl, x3.isLt, le_of rfl, Nat.two_pow_pos _, le_of rfl, hk, trivial⟩
  have e : bitNat sw * 2 ^ 31 + packFields [(o, 23), (k, 0), (x0.toNat, 17), (x1.toNat, 11), (x2.toNat, 9), (x3.toNat, 3)] = pack [(bitNat sw, 31, 1), (o, 23, 8), (x0.toNat, 17, 6), (x1.toNat, 11, 6), (x2.toNat, 9, 2), (x3.toNat, 3, 6), (0, 1, 2), (k, 0, 1)] := by
    simp only [packFields, pack]; omega
  rw [e] at hw
  subst hw
  exact ⟨fld_placed h 23 8 (.tail _ (.head _)), swOf_placed h (.head _), fld_placed h 0 1 (.tail _ (.tail _ (.tail _ (.tail _ (.tail _ (.tail _ (.tail _ (.head _)))))))), fld_placed_eq h (.tail _ (.tail _ (.head _))), fld_placed_eq h (.tail _ (.tail _ (.tail _ (.head _)))), fld_placed_eq h (.tail _ (.tail _ (.tail _ (.tail _ (.head _))))), fld_placed_eq h (.tail _ (.tail _ (.tail _ (.tail _ (.tail _ (.head _)))))), fld_placed_eq (x := 0) h (.tail _ (.tail _ (.tail _ (.tail _ (.tail _ (.tail _ (.head _)))))))⟩

theorem word80 (o : Nat) (x0 : BitVec 6) (x1 : BitVec 2) (sw : Bool) (ho : o < 256) :
    ∀ w, w = BitVec.ofNat 32 (bitNat sw * 2 ^ 31 + packFields [(o, 23), (x0.toNat, 17), (x1.toNat, 0)]) →
    opcOf w = o ∧ swOf w = sw ∧ (fld w 0 0).toNat = 0 ∧ fld w 17 6 = x0 ∧ fld w 0 2 = x1 ∧ fld w 2 15 = 0 := by
  intro w hw
  have h : Placed 32 [(bitNat sw, 31, 1), (o, 23, 8), (x0.toNat, 17, 6), (0, 2, 15), (x1.toNat, 0, 2)] :=
    ⟨le_of rfl, bitNat_lt sw, le_of rfl, ho, le_of rfl, x0.isLt, le_of rfl, Nat.two_pow_pos _, le_of rfl, x1.isLt, trivial⟩
  have e : bitNat sw * 2 ^ 31 + packFields [(o, 23), (x0.toNat, 17), (x1.toNat, 0)] = pack [(bitNat sw, 31, 1), (o, 23, 8), (x0.toNat, 17, 6), (0, 2, 15), (x1.toNat, 0, 2)] := by
    simp only [packFields, pack]; omega
  rw [e] at hw
  subst hw
  exact ⟨fld_placed h 23 8 (.tail _ (.head _)), swOf_placed h (.head _), fld_none _ _, fld_placed_eq h (.tail _ (.tail _ (.head _))), fld_placed_eq h (.tail _ (.tail _ (.tail _ (.tail _ (.head _))))), fld_placed_eq (x := 0) h (.tail _ (.tail _ (.tail _ (.head _))))⟩

theorem word81 (o : Nat) (x0 : BitVec 3) (x1 : BitVec 2) (x2 : BitVec 6) (x3 : BitVec 2) (x4 : BitVec 6) (x5 : BitVec 2) (sw : Bool) (ho : o < 256) :
    ∀ w, w = BitVec.ofNat 32 (bitNat sw * 2 ^ 31 + packFields [(o, 23), (x0.toNat, 19), (x1.toNat, 17), (x2.toNat, 11), (x3.toNat, 9), (x4.toNat, 3), (x5.toNat, 1)]) →
    opcOf w = o ∧ swOf w = sw ∧ (fld w 0 0).toNat = 0 ∧ fld w 19 3 = x0 ∧ fld w 17 2 = x1 ∧ fld w 11 6 = x2 ∧ fld w 9 2 = x3 ∧ fld w 3 6 = x4 ∧ fld w 1 2 = x5 ∧ fld w 0 1 = 0 ∧ fld w 22 1 = 0 := by
  intro w hw
  have h : Placed 32 [(bitNat sw, 31, 1), (o, 23, 8), (0, 22, 1), (x0.toNat, 19, 3), (x1.toNat, 17, 2), (x2.toNat, 11, 6), (x3.toNat, 9, 2), (x4.toNat, 3, 6), (x5.toNat, 1, 2), (0, 0, 1)] :=
    ⟨le_of rfl, bitNat_lt sw, le_of rfl, ho, le_of rfl, Nat.two_pow_pos _, le_of rfl, x0.isLt, le_of rfl, x1.isLt, le_of rfl, x2.isLt, le_of rfl, x3.isLt, le_of rfl, x4.isLt, le_of rfl, x5.isLt, le_of rfl, Nat.two_pow_pos _, trivial⟩
  have e : bitNat sw * 2 ^ 31 + packFields [(o, 23), (x0.toNat, 19), (x1.toNat, 17), (x2.toNat, 11), (x3.toNat, 9), (x4.toNat, 3), (x5.toNat, 1)] = pack [(bitNat sw, 31, 1), (o, 23, 8), (0, 22, 1), (x0.toNat, 19, 3), (x1.toNat, 17, 2), (x2.toNat, 11, 6), (x3.toNat, 9, 2), (x4.toNat, 3, 6), (x5.toNat, 1, 2), (0, 0, 1)] := by
    simp only [packFields, pack]; omega
  rw [e] at hw
  subst hw
  exact ⟨fld_placed h 23 8 (.tail _ (.head _)), swOf_placed h (.head _), fld_none _ _, fld_placed_eq h (.tail _ (.tail _ (.tail _ (.head _)))), fld_placed_eq h (.tail _ (.tail _ (.tail _ (.tail _ (.head _))))), fld_placed_eq h (.tail _ (.tail _ (.tail _ (.tail _ (.tail _ (.head _)))))), fld_placed_eq h (.tail _ (.tail _ (.tail _ (.tail _ (.tail _ (.tail _ (.head _))))))), fld_placed_eq h (.tail _ (.tail _ (.tail _ (.tail _ (.tail _ (.tail _ (.tail _ (.head _)))))))), fld_placed_eq h (.tail _ (.tail _ (.tail _ (.tail _ (.tail _ (.tail _ (.tail _ (.tail _ (.head _))))))))), fld_placed_eq (x := 0) h (.tail _ (.tail _ (.tail _ (.tail _ (.tail _ (.tail _ (.tail _ (.tail _ (.tail _ (.head _)))))))))), fld_placed_eq (x := 0) h (.tail _ (.tail _ (.head _)))⟩

theorem word82 (o : Nat) (x0 : BitVec 6) (x1 : BitVec 2) (sw : Bool) (ho : o < 256) :
    ∀ w, w = BitVec.ofNat 32 (bitNat sw * 2 ^ 31 + packFields [(o, 23), (x0.toNat, 17), (x1.toNat, 0)]) →
    opcOf w = o ∧ swOf w = sw ∧ (fld w 2 1).toNat = 0 ∧ fld w 17 6 = x0 ∧ fld w 0 2 = x1 ∧ fld w 3 14 = 0 := by
  intro w hw
  have h : Placed 32 [(bitNat sw, 31, 1), (o, 23, 8), (x0.toNat, 17, 6), (0, 3, 14), (0, 2, 1), (x1.toNat, 0, 2)] :=
    ⟨le_of rfl, bitNat_lt sw, le_of rfl, ho, le_of rfl, x0.isLt, le_of rfl, Nat.two_pow_pos _, le_of rfl, by decide, le_of rfl, x1.isLt, trivial⟩
  have e : bitNat sw * 2 ^ 31 + packFields [(o, 23), (x0.toNat, 17), (x1.toNat, 0)] = pack [(bitNat sw, 31, 1), (o, 23, 8), (x0.toNat, 17, 6), (0, 3, 14), (0, 2, 1), (x1.toNat, 0, 2)] := by
    simp only [packFields, pack]; omega
  rw [e] at hw
  subst hw
  exact ⟨fld_placed h 23 8 (.tail _ (.head _)), swOf_placed h (.head _), fld_placed h 2 1 (.tail _ (.tail _ (.tail _ (.tail _ (.head _))))), fld_placed_eq h (.tail _ (.tail _ (.head _))), fld_placed_eq h (.tail _ (.tail _ (.tail _ (.tail _ (.tail _ (.head _)))))), fld_placed_eq (x := 0) h (.tail _ (.tail _ (.tail _ (.head _))))⟩

theorem word83 (o : Nat) (k : Nat) (x0 : BitVec 6) (x1 : BitVec 6) (x2 : BitVec 2) (x3 : BitVec 2) (sw : Bool) (ho : o < 256) (hk : k < 2) :
    ∀ w, w = BitVec.ofNat 32 (bitNat sw * 2 ^ 31 + packFields [(o, 23), (k, 2), (x0.toNat, 17), (x1.toNat, 11), (x2.toNat, 9), (x3.toNat, 0)]) →
    opcOf w = o ∧ swOf w = sw ∧ (fld w 2 1).toNat = k ∧ fld w 17 6 = x0 ∧ fld w 11 6 = x1 ∧ fld w 9 2 = x2 ∧ fld w 0 2 = x3 ∧ fld w 3 6 = 0 := by
  intro w hw
  have h : Placed 32 [(bitNat sw, 31, 1), (o, 23, 8), (x0.toNat, 17, 6), (x1.toNat, 11, 6), (x2.toNat, 9, 2), (0, 3, 6), (k, 2, 1), (x3.toNat, 0, 2)] :=
    ⟨le_of rfl, bitNat_lt sw, le_of rfl, ho, le_of rfl, x0.isLt, le_of rfl, x1.isLt, le_of rfl, x2.isLt, le_of rfl, Nat.two_pow_pos _, le_of rfl, hk, le_of rfl, x3.isLt, trivial⟩
  have e : bitNat sw * 2 ^ 31 + packFields [(o, 23), (k, 2), (x0.toNat, 17), (x1.toNat, 11), (x2.toNat, 9), (x3.toNat, 0)] = pack [(bitNat sw, 31, 1), (o, 23, 8), (x0.toNat, 17, 6), (x1.toNat, 11, 6), (x2.toNat, 9, 2), (0, 3, 6), (k, 2, 1), (x3.toNat, 0, 2)] := by
    simp only [packFields, pack]; omega
  rw [e] at hw
  subst hw
  exact ⟨fld_placed h 23 8 (.tail _ (.head _)), swOf_placed h (.head _), fld_placed h 2 1 (.tail _ (.tail _ (.tail _ (.tail _ (.tail _ (.tail _ (.head _))))))), fld_placed_eq h (.tail _ (.tail _ (.head _))), fld_placed_eq h (.tail _ (.tail _ (.tail _ (.head _)))), fld_placed_eq h (.tail _ (.tail _ (.tail _ (.tail _ (.head _))))), fld_placed_eq h (.tail _ (.tail _ (.tail _ (.tail _ (.tail _ (.tail _ (.tail _ (.head _)))))))), fld_placed_eq (x := 0) h (.tail _ (.tail _ (.tail _ (.tail _ (.tail _ (.head _))))))⟩

theorem word84 (o : Nat) (x0 : BitVec 6) (x1 : BitVec 6) (sw : Bool) (ho : o < 256) :
    ∀ w, w = BitVec.ofNat 32 (bitNat sw * 2 ^ 31 + packFields [(o, 23), (x0.toNat, 11), (x1.toNat, 5)]) →
    opcOf w = o ∧ swOf w = sw ∧ (fld w 0 0).toNat = 0 ∧ fld w 11 6 = x0 ∧ fld w 5 6 = x1 ∧ fld w 0 5 = 0 ∧ fld w 17 6 = 0 := by
  intro w hw
  have h : Placed 32 [(bitNat sw, 31, 1), (o, 23, 8), (0, 17, 6), (x0.toNat, 11, 6), (x1.toNat, 5, 6), (0, 0, 5)] :=
    ⟨le_of rfl, bitNat_lt sw, le_of rfl, ho, le_of rfl, Nat.two_pow_pos _, le_of rfl, x0.isLt, le_of rfl, x1.isLt, le_of rfl, Nat.two_pow_pos _, trivial⟩
  have e : bitNat sw * 2 ^ 31 + packFields [(o, 23), (x0.toNat, 11), (x1.toNat, 5)] = pack [(bitNat sw, 31, 1), (o, 23, 8), (0, 17, 6), (x0.toNat, 11, 6), (x1.toNat, 5, 6), (0, 0, 5)] := by
    simp only [packFields, pack]; omega
  rw [e] at hw
  subst hw
  exact ⟨fld_placed h 23 8 (.tail _ (.head _)), swOf_placed h (.head _), fld_none _ _, fld_placed_eq h (.tail _ (.tail _ (.tail _ (.head _)))), fld_placed_eq h (.tail _ (.tail _ (.tail _ (.tail _ (.head _))))), fld_placed_eq (x := 0) h (.tail _ (.tail _ (.tail _ (.tail _ (.tail _ (.head _)))))), fld_placed_eq (x := 0) h (.tail _ (.tail _ (.head _)))⟩

theorem word85 (o : Nat) (x0 : BitVec 6) (x1 : BitVec 6) (x2 : BitVec 1) (sw : Bool) (ho : o < 256) :
    ∀ w, w = BitVec.ofNat 32 (bitNat sw * 2 ^ 31 + packFields [(o, 23), (x0.toNat, 17), (x1.toNat, 11), (x2.toNat, 0)]) →
    opcOf w = o ∧ swOf w = sw ∧ (fld w 0 0).toNat = 0 ∧ fld w 17 6 = x0 ∧ fld w 11 6 = x1 ∧ fld w 0 1 = x2 ∧ fld w 1 10 = 0 := by
  intro w hw
  have h : Placed 32 [(bitNat sw, 31, 1), (o, 23, 8), (x0.toNat, 17, 6), (x1.toNat, 11, 6), (0, 1, 10), (x2.toNat, 0, 1)] :=
    ⟨le_of rfl, bitNat_lt sw, le_of rfl, ho, le_of rfl, x0.isLt, le_of rfl, x1.isLt, le_of rfl, Nat.two_pow_pos _, le_of rfl, x2.isLt, trivial⟩
  have e : bitNat sw * 2 ^ 31 + packFields [(o, 23), (x0.toNat, 17), (x1.toNat, 11), (x2.toNat, 0)] = pack [(bitNat sw, 31, 1), (o, 23, 8), (x0.toNat, 17, 6), (x1.toNat, 11, 6), (0, 1, 10), (x2.toNat, 0, 1)] := by
    simp only [packFields, pack]; omega
  rw [e] at hw
  subst hw
  exact ⟨fld_placed h 23 8 (.tail _ (.head _)), swOf_placed h (.head _), fld_none _ _, fld_placed_eq h (.tail _ (.tail _ (.head _))), fld_placed_eq h (.tail _ (.tail _ (.tail _ (.head _)))), fld_placed_eq h (.tail _ (.tail _ (.tail _ (.tail _ (.tail _ (.head _)))))), fld_placed_eq (x := 0) h (.tail _ (.tail _ (.tail _ (.tail _ (.head _)))))⟩

theorem word86 (o : Nat) (x0 : BitVec 6) (x1 : BitVec 6) (sw : Bool) (ho : o < 256) :
    ∀ w, w = BitVec.ofNat 32 (bitNat sw * 2 ^ 31 + packFields [(o, 23), (x0.toNat, 17), (x1.toNat, 11)]) →
    opcOf w = o ∧ swOf w = sw ∧ (fld w 0 1).toNat = 0 ∧ fld w 17 6 = x0 ∧ fld w 11 6 = x1 ∧ fld w 1 10 = 0 := by
  intro w hw
  have h : Placed 32 [(bitNat sw, 31, 1), (o, 23, 8), (x0.toNat, 17, 6), (x1.toNat, 11, 6), (0, 1, 10), (0, 0, 1)] :=
    ⟨le_of rfl, bitNat_lt sw, le_of rfl, ho, le_of rfl, x0.isLt, le_of rfl, x1.isLt, le_of rfl, Nat.two_pow_pos _, le_of rfl, by decide, trivial⟩
  have e : bitNat sw * 2 ^ 31 + packFields [(o, 23), (x0.toNat, 17), (x1.toNat, 11)] = pack [(bitNat sw, 31, 1), (o, 23, 8), (x0.toNat, 17, 6), (x1.toNat, 11, 6), (0, 1, 10), (0, 0, 1)] := by
    simp only [packFields, pack]; omega
  rw [e] at hw
  subst hw
  exact ⟨fld_placed h 23 8 (.tail _ (.head _)), swOf_placed h (.head _), fld_placed h 0 1 (.tail _ (.tail _ (.tail _ (.tail _ (.tail _ (.head _)))))), fld_placed_eq h (.tail _ (.tail _ (.head _))), fld_placed_eq h (.tail _ (.tail _ (.tail _ (.head _)))), fld_placed_eq (x := 0) h (.tail _ (.tail _ (.tail _ (.tail _ (.head _)))))⟩

theorem word87 (o : Nat) (x0 : BitVec 6) (x1 : BitVec 11) (sw : Bool) (ho : o < 256) :
    ∀ w, w = BitVec.ofNat 32 (bitNat sw * 2 ^ 31 + packFields [(o, 23), (x0.toNat, 11), (x1.toNat, 0)]) →
    opcOf w = o ∧ swOf w = sw ∧ (fld w 0 0).toNat = 0 ∧ fld w 11 6 = x0 ∧ fld w 0 11 = x1 ∧ fld w 17 6 = 0 := by
  intro w hw
  have h : Placed 32 [(bitNat sw, 31, 1), (o, 23, 8), (0, 17, 6), (x0.toNat, 11, 6), (x1.toNat, 0, 11)] :=
    ⟨le_of rfl, bitNat_lt sw, le_of rfl, ho, le_of rfl, Nat.two_pow_pos _, le_of rfl, x0.isLt, le_of rfl, x1.isLt, trivial⟩
  have e : bitNat sw * 2 ^ 31 + packFields [(o, 23), (x0.toNat, 11), (x1.toNat, 0)] = pack [(bitNat sw, 31, 1), (o, 23, 8), (0, 17, 6), (x0.toNat, 11, 6), (x1.toNat, 0, 11)] := by
    simp only [packFields, pack]; omega
  rw [e] at hw
  subst hw
  exact ⟨fld_placed h 23 8 (.tail _ (.head _)), swOf_placed h (.head _), fld_none _ _, fld_placed_eq h (.tail _ (.tail _ (.tail _ (.head _)))), fld_placed_eq h (.tail _ (.tail _ (.tail _ (.tail _ (.head _))))), fld_placed_eq (x := 0) h (.tail _ (.tail _ (.head _)))⟩

theorem word88 (o : Nat) (x0 : BitVec 1) (sw : Bool) (ho : o < 256) :
    ∀ w, w = BitVec.ofNat 32 (bitNat sw * 2 ^ 31 + packFields [(o, 23), (x0.toNat, 0)]) →
    opcOf w = o ∧ swOf w = sw ∧ (fld w 0 0).toNat = 0 ∧ fld w 0 1 = x0 ∧ fld w 1 22 = 0 := by
  intro w hw
  have h : Placed 32 [(bitNat sw, 31, 1), (o, 23, 8), (0, 1, 22), (x0.toNat, 0, 1)] :=
    ⟨le_of rfl, bitNat_lt sw, le_of rfl, ho, le_of rfl, Nat.two_pow_pos _, le_of rfl, x0.isLt, trivial⟩
  have e : bitNat sw * 2 ^ 31 + packFields [(o, 23), (x0.toNat, 0)] = pack [(bitNat sw, 31, 1), (o, 23, 8), (0, 1, 22), (x0.toNat, 0, 1)] := by
    simp only [packFields, pack]; omega
  rw [e] at hw
  subst hw
  exact ⟨fld_placed h 23 8 (.tail _ (.head _)), swOf_placed h (.head _), fld_none _ _, fld_placed_eq h (.tail _ (.tail _ (.tail _ (.head _)))), fld_placed_eq (x := 0) h (.tail _ (.tail _ (.head _)))⟩

theorem rows0_length : rows0.length = 40 := rfl
theorem rows0_mem {r : Row} (h : r ∈ rows0) : r ∈ rows := by
  simp only [rows, List.mem_append]
  exact .inl (.inl (.inl (.inl h)))

theorem rows1_length : rows1.length = 40 := rfl
theorem rows1_mem {r : Row} (h : r ∈ rows1) : r ∈ rows := by
  simp only [rows, List.mem_append]
  exact .inl (.inl (.inl (.inr h)))

theorem rows2_length : rows2.length = 40 := rfl
theorem rows2_mem {r : Row} (h : r ∈ rows2) : r ∈ rows := by
  simp only [rows, List.mem_append]
  exact .inl (.inl (.inr h))

theorem rows3_length : rows3.length = 40 := rfl
theorem rows3_mem {r : Row} (h : r ∈ rows3) : r ∈ rows := by
  simp only [rows, List.mem_append]
  exact .inl (.inr h)

theorem rows4_length : rows4.length = 22 := rfl
theorem rows4_mem {r : Row} (h : r ∈ rows4) : r ∈ rows := by
  simp only [rows, List.mem_append]
  exact .inr h

end Sys2Proof.Laws
end

