-- ==== Sys2Proof/Laws/PerInstr.lean ====
section
/-! SUPPORT. Statements made instruction by instruction. Encoding: the base word of an instruction carries its opcode and its
switch marker and decodes to it, for every value of its operand fields; an event has no words. -/

namespace Sys2Proof.Laws.Encoding

/-- The base word of an instruction with an encoding decodes to it (R175 to R177, R189). -/
def Statement (i : Instr) : Prop :=
  match i.opcode with
  | none => encode i = []
  | some o => opcOf (encodeBase i) = o ∧ swOf (encodeBase i) = i.grp.sw ∧ decodeBase i.grp (encodeBase i) = some i ∧
      (o = 0x40 → (fld (encodeBase i) 5 1 = 1 ↔ i.shflSrc = true))

theorem iadd (gr : Grp) (d : BitVec 6) (a : BitVec 6) (lka : BitVec 2) (b : BitVec 6) (lkb : BitVec 2) (bu : BitVec 1) : Statement (.iadd gr d a lka b lkb bu) := by
  obtain ⟨ho, hs, hk, h0, h1, h2, h3, h4, h5⟩ := word0 0x00 d a lka b lkb bu gr.sw (by decide) (encodeBase (.iadd gr d a lka b lkb bu)) rfl
  refine ⟨ho, hs, ?_, fun h => absurd h (by decide)⟩
  · refine (decodeBase_row (r := rows0[0]'(Nat.lt_of_lt_of_eq (by decide) rows0_length.symm)) gr (rows0_mem (List.getElem_mem _)) ?_ ?_).trans ?_
    · exact Bool.and_eq_true _ _ ▸ ⟨decide_eq_true ho, decide_eq_true hk⟩
    · rfl
    · show some (Instr.iadd _ _ _ _ _ _ _) = _
      simp only [hs, h0, h1, h2, h3, h4, h5]
theorem isub (gr : Grp) (d : BitVec 6) (a : BitVec 6) (lka : BitVec 2) (b : BitVec 6) (lkb : BitVec 2) (bu : BitVec 1) : Statement (.isub gr d a lka b lkb bu) := by
  obtain ⟨ho, hs, hk, h0, h1, h2, h3, h4, h5⟩ := word0 0x01 d a lka b lkb bu gr.sw (by decide) (encodeBase (.isub gr d a lka b lkb bu)) rfl
  refine ⟨ho, hs, ?_, fun h => absurd h (by decide)⟩
  · refine (decodeBase_row (r := rows0[1]'(Nat.lt_of_lt_of_eq (by decide) rows0_length.symm)) gr (rows0_mem (List.getElem_mem _)) ?_ ?_).trans ?_
    · exact Bool.and_eq_true _ _ ▸ ⟨decide_eq_true ho, decide_eq_true hk⟩
    · rfl
    · show some (Instr.isub _ _ _ _ _ _ _) = _
      simp only [hs, h0, h1, h2, h3, h4, h5]
theorem imul (gr : Grp) (d : BitVec 6) (a : BitVec 6) (lka : BitVec 2) (b : BitVec 6) (lkb : BitVec 2) (bu : BitVec 1) : Statement (.imul gr d a lka b lkb bu) := by
  obtain ⟨ho, hs, hk, h0, h1, h2, h3, h4, h5⟩ := word0 0x02 d a lka b lkb bu gr.sw (by decide) (encodeBase (.imul gr d a lka b lkb bu)) rfl
  refine ⟨ho, hs, ?_, fun h => absurd h (by decide)⟩
  · refine (decodeBase_row (r := rows0[2]'(Nat.lt_of_lt_of_eq (by decide) rows0_length.symm)) gr (rows0_mem (List.getElem_mem _)) ?_ ?_).trans ?_
    · exact Bool.and_eq_true _ _ ▸ ⟨decide_eq_true ho, decide_eq_true hk⟩
    · rfl
    · show some (Instr.imul _ _ _ _ _ _ _) = _
      simp only [hs, h0, h1, h2, h3, h4, h5]
theorem imulhiS (gr : Grp) (d : BitVec 6) (a : BitVec 6) (lka : BitVec 2) (b : BitVec 6) (lkb : BitVec 2) (bu : BitVec 1) : Statement (.imulhiS gr d a lka b lkb bu) := by
  obtain ⟨ho, hs, hk, h0, h1, h2, h3, h4, h5⟩ := word0 0x03 d a lka b lkb bu gr.sw (by decide) (encodeBase (.imulhiS gr d a lka b lkb bu)) rfl
  refine ⟨ho, hs, ?_, fun h => absurd h (by decide)⟩
  · refine (decodeBase_row (r := rows0[3]'(Nat.lt_of_lt_of_eq (by decide) rows0_length.symm)) gr (rows0_mem (List.getElem_mem _)) ?_ ?_).trans ?_
    · exact Bool.and_eq_true _ _ ▸ ⟨decide_eq_true ho, decide_eq_true hk⟩
    · rfl
    · show some (Instr.imulhiS _ _ _ _ _ _ _) = _
      simp only [hs, h0, h1, h2, h3, h4, h5]
theorem imulhiU (gr : Grp) (d : BitVec 6) (a : BitVec 6) (lka : BitVec 2) (b : BitVec 6) (lkb : BitVec 2) (bu : BitVec 1) : Statement (.imulhiU gr d a lka b lkb bu) := by
  obtain ⟨ho, hs, hk, h0, h1, h2, h3, h4, h5⟩ := word0 0x04 d a lka b lkb bu gr.sw (by decide) (encodeBase (.imulhiU gr d a lka b lkb bu)) rfl
  refine ⟨ho, hs, ?_, fun h => absurd h (by decide)⟩
  · refine (decodeBase_row (r := rows0[4]'(Nat.lt_of_lt_of_eq (by decide) rows0_length.symm)) gr (rows0_mem (List.getElem_mem _)) ?_ ?_).trans ?_
    · exact Bool.and_eq_true _ _ ▸ ⟨decide_eq_true ho, decide_eq_true hk⟩
    · rfl
    · show some (Instr.imulhiU _ _ _ _ _ _ _) = _
      simp only [hs, h0, h1, h2, h3, h4, h5]
theorem imad (gr : Grp) (d : BitVec 6) (a : BitVec 6) (lka : BitVec 2) (b : BitVec 6) (lkb : BitVec 2) (bu : BitVec 1) : Statement (.imad gr d a lka b lkb bu) := by
  obtain ⟨ho, hs, hk, h0, h1, h2, h3, h4, h5⟩ := word0 0x05 d a lka b lkb bu gr.sw (by decide) (encodeBase (.imad gr d a lka b lkb bu)) rfl
  refine ⟨ho, hs, ?_, fun h => absurd h (by decide)⟩
  · refine (decodeBase_row (r := rows0[5]'(Nat.lt_of_lt_of_eq (by decide) rows0_length.symm)) gr (rows0_mem (List.getElem_mem _)) ?_ ?_).trans ?_
    · exact Bool.and_eq_true _ _ ▸ ⟨decide_eq_true ho, decide_eq_true hk⟩
    · rfl
    · show some (Instr.imad _ _ _ _ _ _ _) = _
      simp only [hs, h0, h1, h2, h3, h4, h5]
theorem iminS (gr : Grp) (d : BitVec 6) (a : BitVec 6) (lka : BitVec 2) (b : BitVec 6) (lkb : BitVec 2) (bu : BitVec 1) : Statement (.iminS gr d a lka b lkb bu) := by
  obtain ⟨ho, hs, hk, h0, h1, h2, h3, h4, h5⟩ := word0 0x06 d a lka b lkb bu gr.sw (by decide) (encodeBase (.iminS gr d a lka b lkb bu)) rfl
  refine ⟨ho, hs, ?_, fun h => absurd h (by decide)⟩
  · refine (decodeBase_row (r := rows0[6]'(Nat.lt_of_lt_of_eq (by decide) rows0_length.symm)) gr (rows0_mem (List.getElem_mem _)) ?_ ?_).trans ?_
    · exact Bool.and_eq_true _ _ ▸ ⟨decide_eq_true ho, decide_eq_true hk⟩
    · rfl
    · show some (Instr.iminS _ _ _ _ _ _ _) = _
      simp only [hs, h0, h1, h2, h3, h4, h5]
theorem iminU (gr : Grp) (d : BitVec 6) (a : BitVec 6) (lka : BitVec 2) (b : BitVec 6) (lkb : BitVec 2) (bu : BitVec 1) : Statement (.iminU gr d a lka b lkb bu) := by
  obtain ⟨ho, hs, hk, h0, h1, h2, h3, h4, h5⟩ := word0 0x07 d a lka b lkb bu gr.sw (by decide) (encodeBase (.iminU gr d a lka b lkb bu)) rfl
  refine ⟨ho, hs, ?_, fun h => absurd h (by decide)⟩
  · refine (decodeBase_row (r := rows0[7]'(Nat.lt_of_lt_of_eq (by decide) rows0_length.symm)) gr (rows0_mem (List.getElem_mem _)) ?_ ?_).trans ?_
    · exact Bool.and_eq_true _ _ ▸ ⟨decide_eq_true ho, decide_eq_true hk⟩
    · rfl
    · show some (Instr.iminU _ _ _ _ _ _ _) = _
      simp only [hs, h0, h1, h2, h3, h4, h5]
theorem imaxS (gr : Grp) (d : BitVec 6) (a : BitVec 6) (lka : BitVec 2) (b : BitVec 6) (lkb : BitVec 2) (bu : BitVec 1) : Statement (.imaxS gr d a lka b lkb bu) := by
  obtain ⟨ho, hs, hk, h0, h1, h2, h3, h4, h5⟩ := word0 0x08 d a lka b lkb bu gr.sw (by decide) (encodeBase (.imaxS gr d a lka b lkb bu)) rfl
  refine ⟨ho, hs, ?_, fun h => absurd h (by decide)⟩
  · refine (decodeBase_row (r := rows0[8]'(Nat.lt_of_lt_of_eq (by decide) rows0_length.symm)) gr (rows0_mem (List.getElem_mem _)) ?_ ?_).trans ?_
    · exact Bool.and_eq_true _ _ ▸ ⟨decide_eq_true ho, decide_eq_true hk⟩
    · rfl
    · show some (Instr.imaxS _ _ _ _ _ _ _) = _
      simp only [hs, h0, h1, h2, h3, h4, h5]
theorem imaxU (gr : Grp) (d : BitVec 6) (a : BitVec 6) (lka : BitVec 2) (b : BitVec 6) (lkb : BitVec 2) (bu : BitVec 1) : Statement (.imaxU gr d a lka b lkb bu) := by
  obtain ⟨ho, hs, hk, h0, h1, h2, h3, h4, h5⟩ := word0 0x09 d a lka b lkb bu gr.sw (by decide) (encodeBase (.imaxU gr d a lka b lkb bu)) rfl
  refine ⟨ho, hs, ?_, fun h => absurd h (by decide)⟩
  · refine (decodeBase_row (r := rows0[9]'(Nat.lt_of_lt_of_eq (by decide) rows0_length.symm)) gr (rows0_mem (List.getElem_mem _)) ?_ ?_).trans ?_
    · exact Bool.and_eq_true _ _ ▸ ⟨decide_eq_true ho, decide_eq_true hk⟩
    · rfl
    · show some (Instr.imaxU _ _ _ _ _ _ _) = _
      simp only [hs, h0, h1, h2, h3, h4, h5]
theorem iabs (gr : Grp) (d : BitVec 6) (a : BitVec 6) (lka : BitVec 2) : Statement (.iabs gr d a lka) := by
  obtain ⟨ho, hs, hk, h0, h1, h2, h3⟩ := word1 0x0A d a lka gr.sw (by decide) (encodeBase (.iabs gr d a lka)) rfl
  refine ⟨ho, hs, ?_, fun h => absurd h (by decide)⟩
  · refine (decodeBase_row (r := rows0[10]'(Nat.lt_of_lt_of_eq (by decide) rows0_length.symm)) gr (rows0_mem (List.getElem_mem _)) ?_ ?_).trans ?_
    · exact Bool.and_eq_true _ _ ▸ ⟨decide_eq_true ho, decide_eq_true hk⟩
    · exact clean_cons (z := (0, 9)) (zs := []) h3 rfl
    · show some (Instr.iabs _ _ _ _) = _
      simp only [hs, h0, h1, h2]
theorem andV (gr : Grp) (d : BitVec 6) (a : BitVec 6) (lka : BitVec 2) (b : BitVec 6) (lkb : BitVec 2) (bu : BitVec 1) : Statement (.andV gr d a lka b lkb bu) := by
  obtain ⟨ho, hs, hk, h0, h1, h2, h3, h4, h5⟩ := word0 0x0B d a lka b lkb bu gr.sw (by decide) (encodeBase (.andV gr d a lka b lkb bu)) rfl
  refine ⟨ho, hs, ?_, fun h => absurd h (by decide)⟩
  · refine (decodeBase_row (r := rows0[11]'(Nat.lt_of_lt_of_eq (by decide) rows0_length.symm)) gr (rows0_mem (List.getElem_mem _)) ?_ ?_).trans ?_
    · exact Bool.and_eq_true _ _ ▸ ⟨decide_eq_true ho, decide_eq_true hk⟩
    · rfl
    · show some (Instr.andV _ _ _ _ _ _ _) = _
      simp only [hs, h0, h1, h2, h3, h4, h5]
theorem orV (gr : Grp) (d : BitVec 6) (a : BitVec 6) (lka : BitVec 2) (b : BitVec 6) (lkb : BitVec 2) (bu : BitVec 1) : Statement (.orV gr d a lka b lkb bu) := by
  obtain ⟨ho, hs, hk, h0, h1, h2, h3, h4, h5⟩ := word0 0x0C d a lka b lkb bu gr.sw (by decide) (encodeBase (.orV gr d a lka b lkb bu)) rfl
  refine ⟨ho, hs, ?_, fun h => absurd h (by decide)⟩
  · refine (decodeBase_row (r := rows0[12]'(Nat.lt_of_lt_of_eq (by decide) rows0_length.symm)) gr (rows0_mem (List.getElem_mem _)) ?_ ?_).trans ?_
    · exact Bool.and_eq_true _ _ ▸ ⟨decide_eq_true ho, decide_eq_true hk⟩
    · rfl
    · show some (Instr.orV _ _ _ _ _ _ _) = _
      simp only [hs, h0, h1, h2, h3, h4, h5]
theorem xorV (gr : Grp) (d : BitVec 6) (a : BitVec 6) (lka : BitVec 2) (b : BitVec 6) (lkb : BitVec 2) (bu : BitVec 1) : Statement (.xorV gr d a lka b lkb bu) := by
  obtain ⟨ho, hs, hk, h0, h1, h2, h3, h4, h5⟩ := word0 0x0D d a lka b lkb bu gr.sw (by decide) (encodeBase (.xorV gr d a lka b lkb bu)) rfl
  refine ⟨ho, hs, ?_, fun h => absurd h (by decide)⟩
  · refine (decodeBase_row (r := rows0[13]'(Nat.lt_of_lt_of_eq (by decide) rows0_length.symm)) gr (rows0_mem (List.getElem_mem _)) ?_ ?_).trans ?_
    · exact Bool.and_eq_true _ _ ▸ ⟨decide_eq_true ho, decide_eq_true hk⟩
    · rfl
    · show some (Instr.xorV _ _ _ _ _ _ _) = _
      simp only [hs, h0, h1, h2, h3, h4, h5]
theorem shl (gr : Grp) (d : BitVec 6) (a : BitVec 6) (lka : BitVec 2) (b : BitVec 6) (lkb : BitVec 2) (bu : BitVec 1) : Statement (.shl gr d a lka b lkb bu) := by
  obtain ⟨ho, hs, hk, h0, h1, h2, h3, h4, h5⟩ := word0 0x0E d a lka b lkb bu gr.sw (by decide) (encodeBase (.shl gr d a lka b lkb bu)) rfl
  refine ⟨ho, hs, ?_, fun h => absurd h (by decide)⟩
  · refine (decodeBase_row (r := rows0[14]'(Nat.lt_of_lt_of_eq (by decide) rows0_length.symm)) gr (rows0_mem (List.getElem_mem _)) ?_ ?_).trans ?_
    · exact Bool.and_eq_true _ _ ▸ ⟨decide_eq_true ho, decide_eq_true hk⟩
    · rfl
    · show some (Instr.shl _ _ _ _ _ _ _) = _
      simp only [hs, h0, h1, h2, h3, h4, h5]
theorem shr (gr : Grp) (d : BitVec 6) (a : BitVec 6) (lka : BitVec 2) (b : BitVec 6) (lkb : BitVec 2) (bu : BitVec 1) : Statement (.shr gr d a lka b lkb bu) := by
  obtain ⟨ho, hs, hk, h0, h1, h2, h3, h4, h5⟩ := word0 0x0F d a lka b lkb bu gr.sw (by decide) (encodeBase (.shr gr d a lka b lkb bu)) rfl
  refine ⟨ho, hs, ?_, fun h => absurd h (by decide)⟩
  · refine (decodeBase_row (r := rows0[15]'(Nat.lt_of_lt_of_eq (by decide) rows0_length.symm)) gr (rows0_mem (List.getElem_mem _)) ?_ ?_).trans ?_
    · exact Bool.and_eq_true _ _ ▸ ⟨decide_eq_true ho, decide_eq_true hk⟩
    · rfl
    · show some (Instr.shr _ _ _ _ _ _ _) = _
      simp only [hs, h0, h1, h2, h3, h4, h5]
theorem sar (gr : Grp) (d : BitVec 6) (a : BitVec 6) (lka : BitVec 2) (b : BitVec 6) (lkb : BitVec 2) (bu : BitVec 1) : Statement (.sar gr d a lka b lkb bu) := by
  obtain ⟨ho, hs, hk, h0, h1, h2, h3, h4, h5⟩ := word0 0x10 d a lka b lkb bu gr.sw (by decide) (encodeBase (.sar gr d a lka b lkb bu)) rfl
  refine ⟨ho, hs, ?_, fun h => absurd h (by decide)⟩
  · refine (decodeBase_row (r := rows0[16]'(Nat.lt_of_lt_of_eq (by decide) rows0_length.symm)) gr (rows0_mem (List.getElem_mem _)) ?_ ?_).trans ?_
    · exact Bool.and_eq_true _ _ ▸ ⟨decide_eq_true ho, decide_eq_true hk⟩
    · rfl
    · show some (Instr.sar _ _ _ _ _ _ _) = _
      simp only [hs, h0, h1, h2, h3, h4, h5]
theorem bfe (gr : Grp) (d : BitVec 6) (a : BitVec 6) (lka : BitVec 2) (b : BitVec 6) (lkb : BitVec 2) (bu : BitVec 1) : Statement (.bfe gr d a lka b lkb bu) := by
  obtain ⟨ho, hs, hk, h0, h1, h2, h3, h4, h5⟩ := word0 0x11 d a lka b lkb bu gr.sw (by decide) (encodeBase (.bfe gr d a lka b lkb bu)) rfl
  refine ⟨ho, hs, ?_, fun h => absurd h (by decide)⟩
  · refine (decodeBase_row (r := rows0[17]'(Nat.lt_of_lt_of_eq (by decide) rows0_length.symm)) gr (rows0_mem (List.getElem_mem _)) ?_ ?_).trans ?_
    · exact Bool.and_eq_true _ _ ▸ ⟨decide_eq_true ho, decide_eq_true hk⟩
    · rfl
    · show some (Instr.bfe _ _ _ _ _ _ _) = _
      simp only [hs, h0, h1, h2, h3, h4, h5]
theorem bfi (gr : Grp) (d : BitVec 6) (a : BitVec 6) (lka : BitVec 2) (b : BitVec 6) (lkb : BitVec 2) (bu : BitVec 1) : Statement (.bfi gr d a lka b lkb bu) := by
  obtain ⟨ho, hs, hk, h0, h1, h2, h3, h4, h5⟩ := word0 0x12 d a lka b lkb bu gr.sw (by decide) (encodeBase (.bfi gr d a lka b lkb bu)) rfl
  refine ⟨ho, hs, ?_, fun h => absurd h (by decide)⟩
  · refine (decodeBase_row (r := rows0[18]'(Nat.lt_of_lt_of_eq (by decide) rows0_length.symm)) gr (rows0_mem (List.getElem_mem _)) ?_ ?_).trans ?_
    · exact Bool.and_eq_true _ _ ▸ ⟨decide_eq_true ho, decide_eq_true hk⟩
    · rfl
    · show some (Instr.bfi _ _ _ _ _ _ _) = _
      simp only [hs, h0, h1, h2, h3, h4, h5]
theorem popc (gr : Grp) (d : BitVec 6) (a : BitVec 6) (lka : BitVec 2) : Statement (.popc gr d a lka) := by
  obtain ⟨ho, hs, hk, h0, h1, h2, h3⟩ := word1 0x13 d a lka gr.sw (by decide) (encodeBase (.popc gr d a lka)) rfl
  refine ⟨ho, hs, ?_, fun h => absurd h (by decide)⟩
  · refine (decodeBase_row (r := rows0[19]'(Nat.lt_of_lt_of_eq (by decide) rows0_length.symm)) gr (rows0_mem (List.getElem_mem _)) ?_ ?_).trans ?_
    · exact Bool.and_eq_true _ _ ▸ ⟨decide_eq_true ho, decide_eq_true hk⟩
    · exact clean_cons (z := (0, 9)) (zs := []) h3 rfl
    · show some (Instr.popc _ _ _ _) = _
      simp only [hs, h0, h1, h2]
theorem clz (gr : Grp) (d : BitVec 6) (a : BitVec 6) (lka : BitVec 2) : Statement (.clz gr d a lka) := by
  obtain ⟨ho, hs, hk, h0, h1, h2, h3⟩ := word1 0x14 d a lka gr.sw (by decide) (encodeBase (.clz gr d a lka)) rfl
  refine ⟨ho, hs, ?_, fun h => absurd h (by decide)⟩
  · refine (decodeBase_row (r := rows0[20]'(Nat.lt_of_lt_of_eq (by decide) rows0_length.symm)) gr (rows0_mem (List.getElem_mem _)) ?_ ?_).trans ?_
    · exact Bool.and_eq_true _ _ ▸ ⟨decide_eq_true ho, decide_eq_true hk⟩
    · exact clean_cons (z := (0, 9)) (zs := []) h3 rfl
    · show some (Instr.clz _ _ _ _) = _
      simp only [hs, h0, h1, h2]
theorem icmp (gr : Grp) (p : BitVec 3) (c : BitVec 3) (a : BitVec 6) (lka : BitVec 2) (b : BitVec 6) (lkb : BitVec 2) (bu : BitVec 1) : Statement (.icmp gr p c a lka b lkb bu) := by
  obtain ⟨ho, hs, hk, h0, h1, h2, h3, h4, h5, h6⟩ := word2 0x15 p c a lka b lkb bu gr.sw (by decide) (encodeBase (.icmp gr p c a lka b lkb bu)) rfl
  refine ⟨ho, hs, ?_, fun h => absurd h (by decide)⟩
  · refine (decodeBase_row (r := rows0[21]'(Nat.lt_of_lt_of_eq (by decide) rows0_length.symm)) gr (rows0_mem (List.getElem_mem _)) ?_ ?_).trans ?_
    · exact Bool.and_eq_true _ _ ▸ ⟨decide_eq_true ho, decide_eq_true hk⟩
    · rfl
    · show some (Instr.icmp _ _ _ _ _ _ _ _) = _
      simp only [hs, h0, h1, h2, h3, h4, h5, h6]
theorem sel (gr : Grp) (d : BitVec 6) (a : BitVec 6) (lka : BitVec 2) (b : BitVec 6) (lkb : BitVec 2) (bu : BitVec 1) : Statement (.sel gr d a lka b lkb bu) := by
  obtain ⟨ho, hs, hk, h0, h1, h2, h3, h4, h5⟩ := word0 0x16 d a lka b lkb bu gr.sw (by decide) (encodeBase (.sel gr d a lka b lkb bu)) rfl
  refine ⟨ho, hs, ?_, fun h => absurd h (by decide)⟩
  · refine (decodeBase_row (r := rows0[22]'(Nat.lt_of_lt_of_eq (by decide) rows0_length.symm)) gr (rows0_mem (List.getElem_mem _)) ?_ ?_).trans ?_
    · exact Bool.and_eq_true _ _ ▸ ⟨decide_eq_true ho, decide_eq_true hk⟩
    · rfl
    · show some (Instr.sel _ _ _ _ _ _ _) = _
      simp only [hs, h0, h1, h2, h3, h4, h5]
theorem mov (gr : Grp) (d : BitVec 6) (a : BitVec 6) (lka : BitVec 2) : Statement (.mov gr d a lka) := by
  obtain ⟨ho, hs, hk, h0, h1, h2, h3⟩ := word1 0x17 d a lka gr.sw (by decide) (encodeBase (.mov gr d a lka)) rfl
  refine ⟨ho, hs, ?_, fun h => absurd h (by decide)⟩
  · refine (decodeBase_row (r := rows0[23]'(Nat.lt_of_lt_of_eq (by decide) rows0_length.symm)) gr (rows0_mem (List.getElem_mem _)) ?_ ?_).trans ?_
    · exact Bool.and_eq_true _ _ ▸ ⟨decide_eq_true ho, decide_eq_true hk⟩
    · exact clean_cons (z := (0, 9)) (zs := []) h3 rfl
    · show some (Instr.mov _ _ _ _) = _
      simp only [hs, h0, h1, h2]
theorem movi (gr : Grp) (d : BitVec 6) (i : BitVec 9) : Statement (.movi gr d i) := by
  obtain ⟨ho, hs, hk, h0, h1, h2⟩ := word3 0x18 d i gr.sw (by decide) (encodeBase (.movi gr d i)) rfl
  refine ⟨ho, hs, ?_, fun h => absurd h (by decide)⟩
  · refine (decodeBase_row (r := rows0[24]'(Nat.lt_of_lt_of_eq (by decide) rows0_length.symm)) gr (rows0_mem (List.getElem_mem _)) ?_ ?_).trans ?_
    · exact Bool.and_eq_true _ _ ▸ ⟨decide_eq_true ho, decide_eq_true hk⟩
    · exact clean_cons (z := (9, 8)) (zs := []) h2 rfl
    · show some (Instr.movi _ _ _) = _
      simp only [hs, h0, h1]
theorem iaddi (gr : Grp) (d : BitVec 6) (a : BitVec 6) (lka : BitVec 2) (i : BitVec 9) : Statement (.iaddi gr d a lka i) := by
  obtain ⟨ho, hs, hk, h0, h1, h2, h3⟩ := word4 0x19 d a lka i gr.sw (by decide) (encodeBase (.iaddi gr d a lka i)) rfl
  refine ⟨ho, hs, ?_, fun h => absurd h (by decide)⟩
  · refine (decodeBase_row (r := rows0[25]'(Nat.lt_of_lt_of_eq (by decide) rows0_length.symm)) gr (rows0_mem (List.getElem_mem _)) ?_ ?_).trans ?_
    · exact Bool.and_eq_true _ _ ▸ ⟨decide_eq_true ho, decide_eq_true hk⟩
    · rfl
    · show some (Instr.iaddi _ _ _ _ _) = _
      simp only [hs, h0, h1, h2, h3]
theorem andi (gr : Grp) (d : BitVec 6) (a : BitVec 6) (lka : BitVec 2) (i : BitVec 7) : Statement (.andi gr d a lka i) := by
  obtain ⟨ho, hs, hk, h0, h1, h2, h3⟩ := word5 0x1A d a lka i gr.sw (by decide) (encodeBase (.andi gr d a lka i)) rfl
  refine ⟨ho, hs, ?_, fun h => absurd h (by decide)⟩
  · refine (decodeBase_row (r := rows0[26]'(Nat.lt_of_lt_of_eq (by decide) rows0_length.symm)) gr (rows0_mem (List.getElem_mem _)) ?_ ?_).trans ?_
    · exact Bool.and_eq_true _ _ ▸ ⟨decide_eq_true ho, decide_eq_true hk⟩
    · rfl
    · show some (Instr.andi _ _ _ _ _) = _
      simp only [hs, h0, h1, h2, h3]
theorem ori (gr : Grp) (d : BitVec 6) (a : BitVec 6) (lka : BitVec 2) (i : BitVec 7) : Statement (.ori gr d a lka i) := by
  obtain ⟨ho, hs, hk, h0, h1, h2, h3⟩ := word6 0x1A 1 d a lka i gr.sw (by decide) (by decide) (encodeBase (.ori gr d a lka i)) rfl
  refine ⟨ho, hs, ?_, fun h => absurd h (by decide)⟩
  · refine (decodeBase_row (r := rows0[27]'(Nat.lt_of_lt_of_eq (by decide) rows0_length.symm)) gr (rows0_mem (List.getElem_mem _)) ?_ ?_).trans ?_
    · exact Bool.and_eq_true _ _ ▸ ⟨decide_eq_true ho, decide_eq_true hk⟩
    · rfl
    · show some (Instr.ori _ _ _ _ _) = _
      simp only [hs, h0, h1, h2, h3]
theorem xori (gr : Grp) (d : BitVec 6) (a : BitVec 6) (lka : BitVec 2) (i : BitVec 7) : Statement (.xori gr d a lka i) := by
  obtain ⟨ho, hs, hk, h0, h1, h2, h3⟩ := word6 0x1A 2 d a lka i gr.sw (by decide) (by decide) (encodeBase (.xori gr d a lka i)) rfl
  refine ⟨ho, hs, ?_, fun h => absurd h (by decide)⟩
  · refine (decodeBase_row (r := rows0[28]'(Nat.lt_of_lt_of_eq (by decide) rows0_length.symm)) gr (rows0_mem (List.getElem_mem _)) ?_ ?_).trans ?_
    · exact Bool.and_eq_true _ _ ▸ ⟨decide_eq_true ho, decide_eq_true hk⟩
    · rfl
    · show some (Instr.xori _ _ _ _ _) = _
      simp only [hs, h0, h1, h2, h3]
theorem andni (gr : Grp) (d : BitVec 6) (a : BitVec 6) (lka : BitVec 2) (i : BitVec 7) : Statement (.andni gr d a lka i) := by
  obtain ⟨ho, hs, hk, h0, h1, h2, h3⟩ := word6 0x1A 3 d a lka i gr.sw (by decide) (by decide) (encodeBase (.andni gr d a lka i)) rfl
  refine ⟨ho, hs, ?_, fun h => absurd h (by decide)⟩
  · refine (decodeBase_row (r := rows0[29]'(Nat.lt_of_lt_of_eq (by decide) rows0_length.symm)) gr (rows0_mem (List.getElem_mem _)) ?_ ?_).trans ?_
    · exact Bool.and_eq_true _ _ ▸ ⟨decide_eq_true ho, decide_eq_true hk⟩
    · rfl
    · show some (Instr.andni _ _ _ _ _) = _
      simp only [hs, h0, h1, h2, h3]
theorem shli (gr : Grp) (d : BitVec 6) (a : BitVec 6) (lka : BitVec 2) (i : BitVec 5) : Statement (.shli gr d a lka i) := by
  obtain ⟨ho, hs, hk, h0, h1, h2, h3, h4⟩ := word7 0x1B d a lka i gr.sw (by decide) (encodeBase (.shli gr d a lka i)) rfl
  refine ⟨ho, hs, ?_, fun h => absurd h (by decide)⟩
  · refine (decodeBase_row (r := rows0[30]'(Nat.lt_of_lt_of_eq (by decide) rows0_length.symm)) gr (rows0_mem (List.getElem_mem _)) ?_ ?_).trans ?_
    · exact Bool.and_eq_true _ _ ▸ ⟨decide_eq_true ho, decide_eq_true hk⟩
    · exact clean_cons (z := (5, 2)) (zs := []) h4 rfl
    · show some (Instr.shli _ _ _ _ _) = _
      simp only [hs, h0, h1, h2, h3]
theorem shri (gr : Grp) (d : BitVec 6) (a : BitVec 6) (lka : BitVec 2) (i : BitVec 5) : Statement (.shri gr d a lka i) := by
  obtain ⟨ho, hs, hk, h0, h1, h2, h3, h4⟩ := word8 0x1B 1 d a lka i gr.sw (by decide) (by decide) (encodeBase (.shri gr d a lka i)) rfl
  refine ⟨ho, hs, ?_, fun h => absurd h (by decide)⟩
  · refine (decodeBase_row (r := rows0[31]'(Nat.lt_of_lt_of_eq (by decide) rows0_length.symm)) gr (rows0_mem (List.getElem_mem _)) ?_ ?_).trans ?_
    · exact Bool.and_eq_true _ _ ▸ ⟨decide_eq_true ho, decide_eq_true hk⟩
    · exact clean_cons (z := (5, 2)) (zs := []) h4 rfl
    · show some (Instr.shri _ _ _ _ _) = _
      simp only [hs, h0, h1, h2, h3]
theorem sari (gr : Grp) (d : BitVec 6) (a : BitVec 6) (lka : BitVec 2) (i : BitVec 5) : Statement (.sari gr d a lka i) := by
  obtain ⟨ho, hs, hk, h0, h1, h2, h3, h4⟩ := word8 0x1B 2 d a lka i gr.sw (by decide) (by decide) (encodeBase (.sari gr d a lka i)) rfl
  refine ⟨ho, hs, ?_, fun h => absurd h (by decide)⟩
  · refine (decodeBase_row (r := rows0[32]'(Nat.lt_of_lt_of_eq (by decide) rows0_length.symm)) gr (rows0_mem (List.getElem_mem _)) ?_ ?_).trans ?_
    · exact Bool.and_eq_true _ _ ▸ ⟨decide_eq_true ho, decide_eq_true hk⟩
    · exact clean_cons (z := (5, 2)) (zs := []) h4 rfl
    · show some (Instr.sari _ _ _ _ _) = _
      simp only [hs, h0, h1, h2, h3]
theorem roti (gr : Grp) (d : BitVec 6) (a : BitVec 6) (lka : BitVec 2) (i : BitVec 5) : Statement (.roti gr d a lka i) := by
  obtain ⟨ho, hs, hk, h0, h1, h2, h3, h4⟩ := word8 0x1B 3 d a lka i gr.sw (by decide) (by decide) (encodeBase (.roti gr d a lka i)) rfl
  refine ⟨ho, hs, ?_, fun h => absurd h (by decide)⟩
  · refine (decodeBase_row (r := rows0[33]'(Nat.lt_of_lt_of_eq (by decide) rows0_length.symm)) gr (rows0_mem (List.getElem_mem _)) ?_ ?_).trans ?_
    · exact Bool.and_eq_true _ _ ▸ ⟨decide_eq_true ho, decide_eq_true hk⟩
    · exact clean_cons (z := (5, 2)) (zs := []) h4 rfl
    · show some (Instr.roti _ _ _ _ _) = _
      simp only [hs, h0, h1, h2, h3]
theorem fadd (gr : Grp) (d : BitVec 6) (a : BitVec 6) (lka : BitVec 2) (b : BitVec 6) (lkb : BitVec 2) (bu : BitVec 1) : Statement (.fadd gr d a lka b lkb bu) := by
  obtain ⟨ho, hs, hk, h0, h1, h2, h3, h4, h5⟩ := word0 0x20 d a lka b lkb bu gr.sw (by decide) (encodeBase (.fadd gr d a lka b lkb bu)) rfl
  refine ⟨ho, hs, ?_, fun h => absurd h (by decide)⟩
  · refine (decodeBase_row (r := rows0[34]'(Nat.lt_of_lt_of_eq (by decide) rows0_length.symm)) gr (rows0_mem (List.getElem_mem _)) ?_ ?_).trans ?_
    · exact Bool.and_eq_true _ _ ▸ ⟨decide_eq_true ho, decide_eq_true hk⟩
    · rfl
    · show some (Instr.fadd _ _ _ _ _ _ _) = _
      simp only [hs, h0, h1, h2, h3, h4, h5]
theorem fsub (gr : Grp) (d : BitVec 6) (a : BitVec 6) (lka : BitVec 2) (b : BitVec 6) (lkb : BitVec 2) (bu : BitVec 1) : Statement (.fsub gr d a lka b lkb bu) := by
  obtain ⟨ho, hs, hk, h0, h1, h2, h3, h4, h5⟩ := word0 0x21 d a lka b lkb bu gr.sw (by decide) (encodeBase (.fsub gr d a lka b lkb bu)) rfl
  refine ⟨ho, hs, ?_, fun h => absurd h (by decide)⟩
  · refine (decodeBase_row (r := rows0[35]'(Nat.lt_of_lt_of_eq (by decide) rows0_length.symm)) gr (rows0_mem (List.getElem_mem _)) ?_ ?_).trans ?_
    · exact Bool.and_eq_true _ _ ▸ ⟨decide_eq_true ho, decide_eq_true hk⟩
    · rfl
    · show some (Instr.fsub _ _ _ _ _ _ _) = _
      simp only [hs, h0, h1, h2, h3, h4, h5]
theorem fmul (gr : Grp) (d : BitVec 6) (a : BitVec 6) (lka : BitVec 2) (b : BitVec 6) (lkb : BitVec 2) (bu : BitVec 1) : Statement (.fmul gr d a lka b lkb bu) := by
  obtain ⟨ho, hs, hk, h0, h1, h2, h3, h4, h5⟩ := word0 0x22 d a lka b lkb bu gr.sw (by decide) (encodeBase (.fmul gr d a lka b lkb bu)) rfl
  refine ⟨ho, hs, ?_, fun h => absurd h (by decide)⟩
  · refine (decodeBase_row (r := rows0[36]'(Nat.lt_of_lt_of_eq (by decide) rows0_length.symm)) gr (rows0_mem (List.getElem_mem _)) ?_ ?_).trans ?_
    · exact Bool.and_eq_true _ _ ▸ ⟨decide_eq_true ho, decide_eq_true hk⟩
    · rfl
    · show some (Instr.fmul _ _ _ _ _ _ _) = _
      simp only [hs, h0, h1, h2, h3, h4, h5]
theorem ffma (gr : Grp) (d : BitVec 6) (a : BitVec 6) (lka : BitVec 2) (b : BitVec 6) (lkb : BitVec 2) (bu : BitVec 1) : Statement (.ffma gr d a lka b lkb bu) := by
  obtain ⟨ho, hs, hk, h0, h1, h2, h3, h4, h5⟩ := word0 0x23 d a lka b lkb bu gr.sw (by decide) (encodeBase (.ffma gr d a lka b lkb bu)) rfl
  refine ⟨ho, hs, ?_, fun h => absurd h (by decide)⟩
  · refine (decodeBase_row (r := rows0[37]'(Nat.lt_of_lt_of_eq (by decide) rows0_length.symm)) gr (rows0_mem (List.getElem_mem _)) ?_ ?_).trans ?_
    · exact Bool.and_eq_true _ _ ▸ ⟨decide_eq_true ho, decide_eq_true hk⟩
    · rfl
    · show some (Instr.ffma _ _ _ _ _ _ _) = _
      simp only [hs, h0, h1, h2, h3, h4, h5]
theorem fmin (gr : Grp) (d : BitVec 6) (a : BitVec 6) (lka : BitVec 2) (b : BitVec 6) (lkb : BitVec 2) (bu : BitVec 1) : Statement (.fmin gr d a lka b lkb bu) := by
  obtain ⟨ho, hs, hk, h0, h1, h2, h3, h4, h5⟩ := word0 0x24 d a lka b lkb bu gr.sw (by decide) (encodeBase (.fmin gr d a lka b lkb bu)) rfl
  refine ⟨ho, hs, ?_, fun h => absurd h (by decide)⟩
  · refine (decodeBase_row (r := rows0[38]'(Nat.lt_of_lt_of_eq (by decide) rows0_length.symm)) gr (rows0_mem (List.getElem_mem _)) ?_ ?_).trans ?_
    · exact Bool.and_eq_true _ _ ▸ ⟨decide_eq_true ho, decide_eq_true hk⟩
    · rfl
    · show some (Instr.fmin _ _ _ _ _ _ _) = _
      simp only [hs, h0, h1, h2, h3, h4, h5]
theorem fmax (gr : Grp) (d : BitVec 6) (a : BitVec 6) (lka : BitVec 2) (b : BitVec 6) (lkb : BitVec 2) (bu : BitVec 1) : Statement (.fmax gr d a lka b lkb bu) := by
  obtain ⟨ho, hs, hk, h0, h1, h2, h3, h4, h5⟩ := word0 0x25 d a lka b lkb bu gr.sw (by decide) (encodeBase (.fmax gr d a lka b lkb bu)) rfl
  refine ⟨ho, hs, ?_, fun h => absurd h (by decide)⟩
  · refine (decodeBase_row (r := rows0[39]'(Nat.lt_of_lt_of_eq (by decide) rows0_length.symm)) gr (rows0_mem (List.getElem_mem _)) ?_ ?_).trans ?_
    · exact Bool.and_eq_true _ _ ▸ ⟨decide_eq_true ho, decide_eq_true hk⟩
    · rfl
    · show some (Instr.fmax _ _ _ _ _ _ _) = _
      simp only [hs, h0, h1, h2, h3, h4, h5]
theorem fcmp (gr : Grp) (p : BitVec 3) (c : BitVec 3) (a : BitVec 6) (lka : BitVec 2) (b : BitVec 6) (lkb : BitVec 2) (bu : BitVec 1) : Statement (.fcmp gr p c a lka b lkb bu) := by
  obtain ⟨ho, hs, hk, h0, h1, h2, h3, h4, h5, h6⟩ := word2 0x26 p c a lka b lkb bu gr.sw (by decide) (encodeBase (.fcmp gr p c a lka b lkb bu)) rfl
  refine ⟨ho, hs, ?_, fun h => absurd h (by decide)⟩
  · refine (decodeBase_row (r := rows1[0]'(Nat.lt_of_lt_of_eq (by decide) rows1_length.symm)) gr (rows1_mem (List.getElem_mem _)) ?_ ?_).trans ?_
    · exact Bool.and_eq_true _ _ ▸ ⟨decide_eq_true ho, decide_eq_true hk⟩
    · rfl
    · show some (Instr.fcmp _ _ _ _ _ _ _ _) = _
      simp only [hs, h0, h1, h2, h3, h4, h5, h6]
theorem fclass (gr : Grp) (d : BitVec 6) (a : BitVec 6) (lka : BitVec 2) : Statement (.fclass gr d a lka) := by
  obtain ⟨ho, hs, hk, h0, h1, h2, h3⟩ := word1 0x27 d a lka gr.sw (by decide) (encodeBase (.fclass gr d a lka)) rfl
  refine ⟨ho, hs, ?_, fun h => absurd h (by decide)⟩
  · refine (decodeBase_row (r := rows1[1]'(Nat.lt_of_lt_of_eq (by decide) rows1_length.symm)) gr (rows1_mem (List.getElem_mem _)) ?_ ?_).trans ?_
    · exact Bool.and_eq_true _ _ ▸ ⟨decide_eq_true ho, decide_eq_true hk⟩
    · exact clean_cons (z := (0, 9)) (zs := []) h3 rfl
    · show some (Instr.fclass _ _ _ _) = _
      simp only [hs, h0, h1, h2]
theorem frnd (gr : Grp) (d : BitVec 6) (a : BitVec 6) (lka : BitVec 2) : Statement (.frnd gr d a lka) := by
  obtain ⟨ho, hs, hk, h0, h1, h2, h3⟩ := word1 0x28 d a lka gr.sw (by decide) (encodeBase (.frnd gr d a lka)) rfl
  refine ⟨ho, hs, ?_, fun h => absurd h (by decide)⟩
  · refine (decodeBase_row (r := rows1[2]'(Nat.lt_of_lt_of_eq (by decide) rows1_length.symm)) gr (rows1_mem (List.getElem_mem _)) ?_ ?_).trans ?_
    · exact Bool.and_eq_true _ _ ▸ ⟨decide_eq_true ho, decide_eq_true hk⟩
    · exact clean_cons (z := (0, 9)) (zs := []) h3 rfl
    · show some (Instr.frnd _ _ _ _) = _
      simp only [hs, h0, h1, h2]
theorem f2i (gr : Grp) (d : BitVec 6) (a : BitVec 6) (lka : BitVec 2) (u : BitVec 1) : Statement (.f2i gr d a lka u) := by
  obtain ⟨ho, hs, hk, h0, h1, h2, h3, h4⟩ := word9 0x29 d a lka u gr.sw (by decide) (encodeBase (.f2i gr d a lka u)) rfl
  refine ⟨ho, hs, ?_, fun h => absurd h (by decide)⟩
  · refine (decodeBase_row (r := rows1[3]'(Nat.lt_of_lt_of_eq (by decide) rows1_length.symm)) gr (rows1_mem (List.getElem_mem _)) ?_ ?_).trans ?_
    · exact Bool.and_eq_true _ _ ▸ ⟨decide_eq_true ho, decide_eq_true hk⟩
    · exact clean_cons (z := (1, 8)) (zs := []) h4 rfl
    · show some (Instr.f2i _ _ _ _ _) = _
      simp only [hs, h0, h1, h2, h3]
theorem i2f (gr : Grp) (d : BitVec 6) (a : BitVec 6) (lka : BitVec 2) (u : BitVec 1) : Statement (.i2f gr d a lka u) := by
  obtain ⟨ho, hs, hk, h0, h1, h2, h3, h4⟩ := word9 0x2A d a lka u gr.sw (by decide) (encodeBase (.i2f gr d a lka u)) rfl
  refine ⟨ho, hs, ?_, fun h => absurd h (by decide)⟩
  · refine (decodeBase_row (r := rows1[4]'(Nat.lt_of_lt_of_eq (by decide) rows1_length.symm)) gr (rows1_mem (List.getElem_mem _)) ?_ ?_).trans ?_
    · exact Bool.and_eq_true _ _ ▸ ⟨decide_eq_true ho, decide_eq_true hk⟩
    · exact clean_cons (z := (1, 8)) (zs := []) h4 rfl
    · show some (Instr.i2f _ _ _ _ _) = _
      simp only [hs, h0, h1, h2, h3]
theorem fcvt (gr : Grp) (d : BitVec 6) (a : BitVec 6) (lka : BitVec 2) (r : BitVec 3) (t : BitVec 3) (q : BitVec 3) : Statement (.fcvt gr d a lka r t q) := by
  obtain ⟨ho, hs, hk, h0, h1, h2, h3, h4, h5⟩ := word10 0x2B d a lka r t q gr.sw (by decide) (encodeBase (.fcvt gr d a lka r t q)) rfl
  refine ⟨ho, hs, ?_, fun h => absurd h (by decide)⟩
  · refine (decodeBase_row (r := rows1[5]'(Nat.lt_of_lt_of_eq (by decide) rows1_length.symm)) gr (rows1_mem (List.getElem_mem _)) ?_ ?_).trans ?_
    · exact Bool.and_eq_true _ _ ▸ ⟨decide_eq_true ho, decide_eq_true hk⟩
    · rfl
    · show some (Instr.fcvt _ _ _ _ _ _ _) = _
      simp only [hs, h0, h1, h2, h3, h4, h5]
theorem hadd2 (gr : Grp) (d : BitVec 6) (a : BitVec 6) (lka : BitVec 2) (b : BitVec 6) (lkb : BitVec 2) (bu : BitVec 1) : Statement (.hadd2 gr d a lka b lkb bu) := by
  obtain ⟨ho, hs, hk, h0, h1, h2, h3, h4, h5⟩ := word0 0x2C d a lka b lkb bu gr.sw (by decide) (encodeBase (.hadd2 gr d a lka b lkb bu)) rfl
  refine ⟨ho, hs, ?_, fun h => absurd h (by decide)⟩
  · refine (decodeBase_row (r := rows1[6]'(Nat.lt_of_lt_of_eq (by decide) rows1_length.symm)) gr (rows1_mem (List.getElem_mem _)) ?_ ?_).trans ?_
    · exact Bool.and_eq_true _ _ ▸ ⟨decide_eq_true ho, decide_eq_true hk⟩
    · rfl
    · show some (Instr.hadd2 _ _ _ _ _ _ _) = _
      simp only [hs, h0, h1, h2, h3, h4, h5]
theorem hmul2 (gr : Grp) (d : BitVec 6) (a : BitVec 6) (lka : BitVec 2) (b : BitVec 6) (lkb : BitVec 2) (bu : BitVec 1) : Statement (.hmul2 gr d a lka b lkb bu) := by
  obtain ⟨ho, hs, hk, h0, h1, h2, h3, h4, h5⟩ := word0 0x2D d a lka b lkb bu gr.sw (by decide) (encodeBase (.hmul2 gr d a lka b lkb bu)) rfl
  refine ⟨ho, hs, ?_, fun h => absurd h (by decide)⟩
  · refine (decodeBase_row (r := rows1[7]'(Nat.lt_of_lt_of_eq (by decide) rows1_length.symm)) gr (rows1_mem (List.getElem_mem _)) ?_ ?_).trans ?_
    · exact Bool.and_eq_true _ _ ▸ ⟨decide_eq_true ho, decide_eq_true hk⟩
    · rfl
    · show some (Instr.hmul2 _ _ _ _ _ _ _) = _
      simp only [hs, h0, h1, h2, h3, h4, h5]
theorem hfma2 (gr : Grp) (d : BitVec 6) (a : BitVec 6) (lka : BitVec 2) (b : BitVec 6) (lkb : BitVec 2) (bu : BitVec 1) : Statement (.hfma2 gr d a lka b lkb bu) := by
  obtain ⟨ho, hs, hk, h0, h1, h2, h3, h4, h5⟩ := word0 0x2E d a lka b lkb bu gr.sw (by decide) (encodeBase (.hfma2 gr d a lka b lkb bu)) rfl
  refine ⟨ho, hs, ?_, fun h => absurd h (by decide)⟩
  · refine (decodeBase_row (r := rows1[8]'(Nat.lt_of_lt_of_eq (by decide) rows1_length.symm)) gr (rows1_mem (List.getElem_mem _)) ?_ ?_).trans ?_
    · exact Bool.and_eq_true _ _ ▸ ⟨decide_eq_true ho, decide_eq_true hk⟩
    · rfl
    · show some (Instr.hfma2 _ _ _ _ _ _ _) = _
      simp only [hs, h0, h1, h2, h3, h4, h5]
theorem dot4 (gr : Grp) (d : BitVec 6) (a : BitVec 6) (lka : BitVec 2) (b : BitVec 6) (lkb : BitVec 2) (bu : BitVec 1) : Statement (.dot4 gr d a lka b lkb bu) := by
  obtain ⟨ho, hs, hk, h0, h1, h2, h3, h4, h5⟩ := word0 0x2F d a lka b lkb bu gr.sw (by decide) (encodeBase (.dot4 gr d a lka b lkb bu)) rfl
  refine ⟨ho, hs, ?_, fun h => absurd h (by decide)⟩
  · refine (decodeBase_row (r := rows1[9]'(Nat.lt_of_lt_of_eq (by decide) rows1_length.symm)) gr (rows1_mem (List.getElem_mem _)) ?_ ?_).trans ?_
    · exact Bool.and_eq_true _ _ ▸ ⟨decide_eq_true ho, decide_eq_true hk⟩
    · rfl
    · show some (Instr.dot4 _ _ _ _ _ _ _) = _
      simp only [hs, h0, h1, h2, h3, h4, h5]
theorem sfu (gr : Grp) (d : BitVec 6) (a : BitVec 6) (lka : BitVec 2) (u : BitVec 3) : Statement (.sfu gr d a lka u) := by
  obtain ⟨ho, hs, hk, h0, h1, h2, h3, h4⟩ := word11 0x30 d a lka u gr.sw (by decide) (encodeBase (.sfu gr d a lka u)) rfl
  refine ⟨ho, hs, ?_, fun h => absurd h (by decide)⟩
  · refine (decodeBase_row (r := rows1[10]'(Nat.lt_of_lt_of_eq (by decide) rows1_length.symm)) gr (rows1_mem (List.getElem_mem _)) ?_ ?_).trans ?_
    · exact Bool.and_eq_true _ _ ▸ ⟨decide_eq_true ho, decide_eq_true hk⟩
    · exact clean_cons (z := (3, 6)) (zs := []) h4 rfl
    · show some (Instr.sfu _ _ _ _ _) = _
      simp only [hs, h0, h1, h2, h3]
theorem fscale (gr : Grp) (d : BitVec 6) (a : BitVec 6) (lka : BitVec 2) (b : BitVec 6) (lkb : BitVec 2) (bu : BitVec 1) : Statement (.fscale gr d a lka b lkb bu) := by
  obtain ⟨ho, hs, hk, h0, h1, h2, h3, h4, h5⟩ := word0 0x31 d a lka b lkb bu gr.sw (by decide) (encodeBase (.fscale gr d a lka b lkb bu)) rfl
  refine ⟨ho, hs, ?_, fun h => absurd h (by decide)⟩
  · refine (decodeBase_row (r := rows1[11]'(Nat.lt_of_lt_of_eq (by decide) rows1_length.symm)) gr (rows1_mem (List.getElem_mem _)) ?_ ?_).trans ?_
    · exact Bool.and_eq_true _ _ ▸ ⟨decide_eq_true ho, decide_eq_true hk⟩
    · rfl
    · show some (Instr.fscale _ _ _ _ _ _ _) = _
      simp only [hs, h0, h1, h2, h3, h4, h5]
theorem shfl (gr : Grp) (d : BitVec 6) (a : BitVec 6) (lka : BitVec 2) (m : BitVec 2) (r : BitVec 1) (i : BitVec 5) : Statement (.shfl gr d a lka m r i) := by
  obtain ⟨ho, hs, hk, h0, h1, h2, h3, h4, h5, h6⟩ := word12 0x40 d a lka m r i gr.sw (by decide) (encodeBase (.shfl gr d a lka m r i)) rfl
  refine ⟨ho, hs, ?_, fun _ => ?_⟩
  · refine (decodeBase_row (r := rows1[12]'(Nat.lt_of_lt_of_eq (by decide) rows1_length.symm)) gr (rows1_mem (List.getElem_mem _)) ?_ ?_).trans ?_
    · exact Bool.and_eq_true _ _ ▸ ⟨decide_eq_true ho, decide_eq_true hk⟩
    · exact clean_cons (z := (6, 1)) (zs := []) h6 rfl
    · show some (Instr.shfl _ _ _ _ _ _ _) = _
      simp only [hs, h0, h1, h2, h3, h4, h5]
  · simp only [Instr.shflSrc, decide_eq_true_eq]
    exact ⟨fun h => by rw [← h4]; exact h, fun h => by rw [← h] ; exact h4⟩
theorem vote (gr : Grp) (d : BitVec 6) (a : BitVec 6) (lka : BitVec 2) (m : BitVec 2) (n : BitVec 1) (p : BitVec 3) : Statement (.vote gr d a lka m n p) := by
  obtain ⟨ho, hs, hk, h0, h1, h2, h3, h4, h5, h6⟩ := word13 0x41 d a lka m n p gr.sw (by decide) (encodeBase (.vote gr d a lka m n p)) rfl
  refine ⟨ho, hs, ?_, fun h => absurd h (by decide)⟩
  · refine (decodeBase_row (r := rows1[13]'(Nat.lt_of_lt_of_eq (by decide) rows1_length.symm)) gr (rows1_mem (List.getElem_mem _)) ?_ ?_).trans ?_
    · exact Bool.and_eq_true _ _ ▸ ⟨decide_eq_true ho, decide_eq_true hk⟩
    · exact clean_cons (z := (4, 3)) (zs := []) h6 rfl
    · show some (Instr.vote _ _ _ _ _ _ _) = _
      simp only [hs, h0, h1, h2, h3, h4, h5]
theorem matchV (gr : Grp) (d : BitVec 6) (a : BitVec 6) (lka : BitVec 2) (m : BitVec 2) : Statement (.matchV gr d a lka m) := by
  obtain ⟨ho, hs, hk, h0, h1, h2, h3, h4⟩ := word14 0x42 d a lka m gr.sw (by decide) (encodeBase (.matchV gr d a lka m)) rfl
  refine ⟨ho, hs, ?_, fun h => absurd h (by decide)⟩
  · refine (decodeBase_row (r := rows1[14]'(Nat.lt_of_lt_of_eq (by decide) rows1_length.symm)) gr (rows1_mem (List.getElem_mem _)) ?_ ?_).trans ?_
    · exact Bool.and_eq_true _ _ ▸ ⟨decide_eq_true ho, decide_eq_true hk⟩
    · exact clean_cons (z := (0, 7)) (zs := []) h4 rfl
    · show some (Instr.matchV _ _ _ _ _) = _
      simp only [hs, h0, h1, h2, h3]
theorem redux (gr : Grp) (d : BitVec 6) (a : BitVec 6) (lka : BitVec 2) (o : BitVec 3) : Statement (.redux gr d a lka o) := by
  obtain ⟨ho, hs, hk, h0, h1, h2, h3, h4⟩ := word15 0x43 d a lka o gr.sw (by decide) (encodeBase (.redux gr d a lka o)) rfl
  refine ⟨ho, hs, ?_, fun h => absurd h (by decide)⟩
  · refine (decodeBase_row (r := rows1[15]'(Nat.lt_of_lt_of_eq (by decide) rows1_length.symm)) gr (rows1_mem (List.getElem_mem _)) ?_ ?_).trans ?_
    · exact Bool.and_eq_true _ _ ▸ ⟨decide_eq_true ho, decide_eq_true hk⟩
    · exact clean_cons (z := (0, 6)) (zs := []) h4 rfl
    · show some (Instr.redux _ _ _ _ _) = _
      simp only [hs, h0, h1, h2, h3]
theorem pscan (gr : Grp) (d : BitVec 6) (a : BitVec 6) (lka : BitVec 2) (o : BitVec 3) (e : BitVec 1) : Statement (.pscan gr d a lka o e) := by
  obtain ⟨ho, hs, hk, h0, h1, h2, h3, h4, h5⟩ := word16 0x44 d a lka o e gr.sw (by decide) (encodeBase (.pscan gr d a lka o e)) rfl
  refine ⟨ho, hs, ?_, fun h => absurd h (by decide)⟩
  · refine (decodeBase_row (r := rows1[16]'(Nat.lt_of_lt_of_eq (by decide) rows1_length.symm)) gr (rows1_mem (List.getElem_mem _)) ?_ ?_).trans ?_
    · exact Bool.and_eq_true _ _ ▸ ⟨decide_eq_true ho, decide_eq_true hk⟩
    · exact clean_cons (z := (0, 5)) (zs := []) h5 rfl
    · show some (Instr.pscan _ _ _ _ _ _) = _
      simp only [hs, h0, h1, h2, h3, h4]
theorem part (gr : Grp) (w : BitVec 3) : Statement (.part gr w) := by
  obtain ⟨ho, hs, hk, h0, h1⟩ := word17 0x45 w gr.sw (by decide) (encodeBase (.part gr w)) rfl
  refine ⟨ho, hs, ?_, fun h => absurd h (by decide)⟩
  · refine (decodeBase_row (r := rows1[17]'(Nat.lt_of_lt_of_eq (by decide) rows1_length.symm)) gr (rows1_mem (List.getElem_mem _)) ?_ ?_).trans ?_
    · exact Bool.and_eq_true _ _ ▸ ⟨decide_eq_true ho, decide_eq_true hk⟩
    · exact clean_cons (z := (3, 20)) (zs := []) h1 rfl
    · show some (Instr.part _ _) = _
      simp only [hs, h0]
theorem sget (gr : Grp) (d : BitVec 6) (e : BitVec 5) : Statement (.sget gr d e) := by
  obtain ⟨ho, hs, hk, h0, h1, h2⟩ := word18 0x46 d e gr.sw (by decide) (encodeBase (.sget gr d e)) rfl
  refine ⟨ho, hs, ?_, fun h => absurd h (by decide)⟩
  · refine (decodeBase_row (r := rows1[18]'(Nat.lt_of_lt_of_eq (by decide) rows1_length.symm)) gr (rows1_mem (List.getElem_mem _)) ?_ ?_).trans ?_
    · exact Bool.and_eq_true _ _ ▸ ⟨decide_eq_true ho, decide_eq_true hk⟩
    · exact clean_cons (z := (5, 12)) (zs := []) h2 rfl
    · show some (Instr.sget _ _ _) = _
      simp only [hs, h0, h1]
theorem v2s (gr : Grp) (d : BitVec 6) (a : BitVec 6) (lka : BitVec 2) (sx : BitVec 1) (pair : BitVec 1) (first : BitVec 1) (lane : BitVec 5) : Statement (.v2s gr d a lka sx pair first lane) := by
  obtain ⟨ho, hs, hk, h0, h1, h2, h3, h4, h5, h6, h7⟩ := word19 0x47 d a lka sx pair first lane gr.sw (by decide) (encodeBase (.v2s gr d a lka sx pair first lane)) rfl
  refine ⟨ho, hs, ?_, fun h => absurd h (by decide)⟩
  · refine (decodeBase_row (r := rows1[19]'(Nat.lt_of_lt_of_eq (by decide) rows1_length.symm)) gr (rows1_mem (List.getElem_mem _)) ?_ ?_).trans ?_
    · exact Bool.and_eq_true _ _ ▸ ⟨decide_eq_true ho, decide_eq_true hk⟩
    · exact clean_cons (z := (8, 1)) (zs := []) h7 rfl
    · show some (Instr.v2s _ _ _ _ _ _ _ _) = _
      simp only [hs, h0, h1, h2, h3, h4, h5, h6]
theorem s2v (gr : Grp) (d : BitVec 6) (a : BitVec 6) (p : BitVec 1) : Statement (.s2v gr d a p) := by
  obtain ⟨ho, hs, hk, h0, h1, h2, h3, h4⟩ := word20 0x48 d a p gr.sw (by decide) (encodeBase (.s2v gr d a p)) rfl
  refine ⟨ho, hs, ?_, fun h => absurd h (by decide)⟩
  · refine (decodeBase_row (r := rows1[20]'(Nat.lt_of_lt_of_eq (by decide) rows1_length.symm)) gr (rows1_mem (List.getElem_mem _)) ?_ ?_).trans ?_
    · exact Bool.and_eq_true _ _ ▸ ⟨decide_eq_true ho, decide_eq_true hk⟩
    · exact clean_cons (z := (0, 6)) h3 (clean_cons (z := (7, 4)) (zs := []) h4 rfl)
    · show some (Instr.s2v _ _ _ _) = _
      simp only [hs, h0, h1, h2]
theorem pmovAnd (gr : Grp) (d : BitVec 3) (a : BitVec 3) (n : BitVec 1) (m : BitVec 1) (p : BitVec 3) : Statement (.pmovAnd gr d a n m p) := by
  obtain ⟨ho, hs, hk, h0, h1, h2, h3, h4, h5, h6, h7, h8⟩ := word21 0x49 d a n m p gr.sw (by decide) (encodeBase (.pmovAnd gr d a n m p)) rfl
  refine ⟨ho, hs, ?_, fun h => absurd h (by decide)⟩
  · refine (decodeBase_row (r := rows1[21]'(Nat.lt_of_lt_of_eq (by decide) rows1_length.symm)) gr (rows1_mem (List.getElem_mem _)) ?_ ?_).trans ?_
    · exact Bool.and_eq_true _ _ ▸ ⟨decide_eq_true ho, decide_eq_true hk⟩
    · exact clean_cons (z := (3, 1)) h5 (clean_cons (z := (9, 2)) h6 (clean_cons (z := (14, 3)) h7 (clean_cons (z := (20, 3)) (zs := []) h8 rfl)))
    · show some (Instr.pmovAnd _ _ _ _ _ _) = _
      simp only [hs, h0, h1, h2, h3, h4]
theorem pmovOr (gr : Grp) (d : BitVec 3) (a : BitVec 3) (n : BitVec 1) (m : BitVec 1) (p : BitVec 3) : Statement (.pmovOr gr d a n m p) := by
  obtain ⟨ho, hs, hk, h0, h1, h2, h3, h4, h5, h6, h7, h8⟩ := word22 0x49 1 d a n m p gr.sw (by decide) (by decide) (encodeBase (.pmovOr gr d a n m p)) rfl
  refine ⟨ho, hs, ?_, fun h => absurd h (by decide)⟩
  · refine (decodeBase_row (r := rows1[22]'(Nat.lt_of_lt_of_eq (by decide) rows1_length.symm)) gr (rows1_mem (List.getElem_mem _)) ?_ ?_).trans ?_
    · exact Bool.and_eq_true _ _ ▸ ⟨decide_eq_true ho, decide_eq_true hk⟩
    · exact clean_cons (z := (3, 1)) h5 (clean_cons (z := (9, 2)) h6 (clean_cons (z := (14, 3)) h7 (clean_cons (z := (20, 3)) (zs := []) h8 rfl)))
    · show some (Instr.pmovOr _ _ _ _ _ _) = _
      simp only [hs, h0, h1, h2, h3, h4]
theorem pmovXor (gr : Grp) (d : BitVec 3) (a : BitVec 3) (n : BitVec 1) (m : BitVec 1) (p : BitVec 3) : Statement (.pmovXor gr d a n m p) := by
  obtain ⟨ho, hs, hk, h0, h1, h2, h3, h4, h5, h6, h7, h8⟩ := word22 0x49 2 d a n m p gr.sw (by decide) (by decide) (encodeBase (.pmovXor gr d a n m p)) rfl
  refine ⟨ho, hs, ?_, fun h => absurd h (by decide)⟩
  · refine (decodeBase_row (r := rows1[23]'(Nat.lt_of_lt_of_eq (by decide) rows1_length.symm)) gr (rows1_mem (List.getElem_mem _)) ?_ ?_).trans ?_
    · exact Bool.and_eq_true _ _ ▸ ⟨decide_eq_true ho, decide_eq_true hk⟩
    · exact clean_cons (z := (3, 1)) h5 (clean_cons (z := (9, 2)) h6 (clean_cons (z := (14, 3)) h7 (clean_cons (z := (20, 3)) (zs := []) h8 rfl)))
    · show some (Instr.pmovXor _ _ _ _ _ _) = _
      simp only [hs, h0, h1, h2, h3, h4]
theorem pmovP2v (gr : Grp) (d : BitVec 6) (a : BitVec 3) : Statement (.pmovP2v gr d a) := by
  obtain ⟨ho, hs, hk, h0, h1, h2, h3, h4⟩ := word23 0x49 3 d a gr.sw (by decide) (by decide) (encodeBase (.pmovP2v gr d a)) rfl
  refine ⟨ho, hs, ?_, fun h => absurd h (by decide)⟩
  · refine (decodeBase_row (r := rows1[24]'(Nat.lt_of_lt_of_eq (by decide) rows1_length.symm)) gr (rows1_mem (List.getElem_mem _)) ?_ ?_).trans ?_
    · exact Bool.and_eq_true _ _ ▸ ⟨decide_eq_true ho, decide_eq_true hk⟩
    · exact clean_cons (z := (0, 6)) h2 (clean_cons (z := (9, 2)) h3 (clean_cons (z := (14, 3)) (zs := []) h4 rfl))
    · show some (Instr.pmovP2v _ _ _) = _
      simp only [hs, h0, h1]
theorem pmovV2p (gr : Grp) (d : BitVec 3) (a : BitVec 6) (lka : BitVec 2) : Statement (.pmovV2p gr d a lka) := by
  obtain ⟨ho, hs, hk, h0, h1, h2, h3, h4⟩ := word24 0x49 4 d a lka gr.sw (by decide) (by decide) (encodeBase (.pmovV2p gr d a lka)) rfl
  refine ⟨ho, hs, ?_, fun h => absurd h (by decide)⟩
  · refine (decodeBase_row (r := rows1[25]'(Nat.lt_of_lt_of_eq (by decide) rows1_length.symm)) gr (rows1_mem (List.getElem_mem _)) ?_ ?_).trans ?_
    · exact Bool.and_eq_true _ _ ▸ ⟨decide_eq_true ho, decide_eq_true hk⟩
    · exact clean_cons (z := (0, 6)) h3 (clean_cons (z := (20, 3)) (zs := []) h4 rfl)
    · show some (Instr.pmovV2p _ _ _ _) = _
      simp only [hs, h0, h1, h2]
theorem pmovP2s (gr : Grp) (d : BitVec 6) (a : BitVec 3) : Statement (.pmovP2s gr d a) := by
  obtain ⟨ho, hs, hk, h0, h1, h2, h3, h4⟩ := word23 0x49 5 d a gr.sw (by decide) (by decide) (encodeBase (.pmovP2s gr d a)) rfl
  refine ⟨ho, hs, ?_, fun h => absurd h (by decide)⟩
  · refine (decodeBase_row (r := rows1[26]'(Nat.lt_of_lt_of_eq (by decide) rows1_length.symm)) gr (rows1_mem (List.getElem_mem _)) ?_ ?_).trans ?_
    · exact Bool.and_eq_true _ _ ▸ ⟨decide_eq_true ho, decide_eq_true hk⟩
    · exact clean_cons (z := (0, 6)) h2 (clean_cons (z := (9, 2)) h3 (clean_cons (z := (14, 3)) (zs := []) h4 rfl))
    · show some (Instr.pmovP2s _ _ _) = _
      simp only [hs, h0, h1]
theorem pmovS2p (gr : Grp) (d : BitVec 3) (a : BitVec 6) : Statement (.pmovS2p gr d a) := by
  obtain ⟨ho, hs, hk, h0, h1, h2, h3, h4⟩ := word25 0x49 6 d a gr.sw (by decide) (by decide) (encodeBase (.pmovS2p gr d a)) rfl
  refine ⟨ho, hs, ?_, fun h => absurd h (by decide)⟩
  · refine (decodeBase_row (r := rows1[27]'(Nat.lt_of_lt_of_eq (by decide) rows1_length.symm)) gr (rows1_mem (List.getElem_mem _)) ?_ ?_).trans ?_
    · exact Bool.and_eq_true _ _ ▸ ⟨decide_eq_true ho, decide_eq_true hk⟩
    · exact clean_cons (z := (0, 6)) h2 (clean_cons (z := (9, 2)) h3 (clean_cons (z := (20, 3)) (zs := []) h4 rfl))
    · show some (Instr.pmovS2p _ _ _) = _
      simp only [hs, h0, h1]
theorem sadd (gr : Grp) (d : BitVec 6) (a : BitVec 6) (b : BitVec 6) : Statement (.sadd gr d a b) := by
  obtain ⟨ho, hs, hk, h0, h1, h2, h3⟩ := word26 0x50 d a b gr.sw (by decide) (encodeBase (.sadd gr d a b)) rfl
  refine ⟨ho, hs, ?_, fun h => absurd h (by decide)⟩
  · refine (decodeBase_row (r := rows1[28]'(Nat.lt_of_lt_of_eq (by decide) rows1_length.symm)) gr (rows1_mem (List.getElem_mem _)) ?_ ?_).trans ?_
    · exact Bool.and_eq_true _ _ ▸ ⟨decide_eq_true ho, decide_eq_true hk⟩
    · exact clean_cons (z := (0, 5)) (zs := []) h3 rfl
    · show some (Instr.sadd _ _ _ _) = _
      simp only [hs, h0, h1, h2]
theorem ssub (gr : Grp) (d : BitVec 6) (a : BitVec 6) (b : BitVec 6) : Statement (.ssub gr d a b) := by
  obtain ⟨ho, hs, hk, h0, h1, h2, h3⟩ := word26 0x51 d a b gr.sw (by decide) (encodeBase (.ssub gr d a b)) rfl
  refine ⟨ho, hs, ?_, fun h => absurd h (by decide)⟩
  · refine (decodeBase_row (r := rows1[29]'(Nat.lt_of_lt_of_eq (by decide) rows1_length.symm)) gr (rows1_mem (List.getElem_mem _)) ?_ ?_).trans ?_
    · exact Bool.and_eq_true _ _ ▸ ⟨decide_eq_true ho, decide_eq_true hk⟩
    · exact clean_cons (z := (0, 5)) (zs := []) h3 rfl
    · show some (Instr.ssub _ _ _ _) = _
      simp only [hs, h0, h1, h2]
theorem smul (gr : Grp) (d : BitVec 6) (a : BitVec 6) (b : BitVec 6) (f : BitVec 2) : Statement (.smul gr d a b f) := by
  obtain ⟨ho, hs, hk, h0, h1, h2, h3, h4⟩ := word27 0x52 d a b f gr.sw (by decide) (encodeBase (.smul gr d a b f)) rfl
  refine ⟨ho, hs, ?_, fun h => absurd h (by decide)⟩
  · refine (decodeBase_row (r := rows1[30]'(Nat.lt_of_lt_of_eq (by decide) rows1_length.symm)) gr (rows1_mem (List.getElem_mem _)) ?_ ?_).trans ?_
    · exact Bool.and_eq_true _ _ ▸ ⟨decide_eq_true ho, decide_eq_true hk⟩
    · exact clean_cons (z := (2, 3)) (zs := []) h4 rfl
    · show some (Instr.smul _ _ _ _ _) = _
      simp only [hs, h0, h1, h2, h3]
theorem sand (gr : Grp) (d : BitVec 6) (a : BitVec 6) (b : BitVec 6) : Statement (.sand gr d a b) := by
  obtain ⟨ho, hs, hk, h0, h1, h2, h3⟩ := word28 0x53 d a b gr.sw (by decide) (encodeBase (.sand gr d a b)) rfl
  refine ⟨ho, hs, ?_, fun h => absurd h (by decide)⟩
  · refine (decodeBase_row (r := rows1[31]'(Nat.lt_of_lt_of_eq (by decide) rows1_length.symm)) gr (rows1_mem (List.getElem_mem _)) ?_ ?_).trans ?_
    · exact Bool.and_eq_true _ _ ▸ ⟨decide_eq_true ho, decide_eq_true hk⟩
    · exact clean_cons (z := (2, 3)) (zs := []) h3 rfl
    · show some (Instr.sand _ _ _ _) = _
      simp only [hs, h0, h1, h2]
theorem sor (gr : Grp) (d : BitVec 6) (a : BitVec 6) (b : BitVec 6) : Statement (.sor gr d a b) := by
  obtain ⟨ho, hs, hk, h0, h1, h2, h3⟩ := word29 0x53 1 d a b gr.sw (by decide) (by decide) (encodeBase (.sor gr d a b)) rfl
  refine ⟨ho, hs, ?_, fun h => absurd h (by decide)⟩
  · refine (decodeBase_row (r := rows1[32]'(Nat.lt_of_lt_of_eq (by decide) rows1_length.symm)) gr (rows1_mem (List.getElem_mem _)) ?_ ?_).trans ?_
    · exact Bool.and_eq_true _ _ ▸ ⟨decide_eq_true ho, decide_eq_true hk⟩
    · exact clean_cons (z := (2, 3)) (zs := []) h3 rfl
    · show some (Instr.sor _ _ _ _) = _
      simp only [hs, h0, h1, h2]
theorem sxor (gr : Grp) (d : BitVec 6) (a : BitVec 6) (b : BitVec 6) : Statement (.sxor gr d a b) := by
  obtain ⟨ho, hs, hk, h0, h1, h2, h3⟩ := word29 0x53 2 d a b gr.sw (by decide) (by decide) (encodeBase (.sxor gr d a b)) rfl
  refine ⟨ho, hs, ?_, fun h => absurd h (by decide)⟩
  · refine (decodeBase_row (r := rows1[33]'(Nat.lt_of_lt_of_eq (by decide) rows1_length.symm)) gr (rows1_mem (List.getElem_mem _)) ?_ ?_).trans ?_
    · exact Bool.and_eq_true _ _ ▸ ⟨decide_eq_true ho, decide_eq_true hk⟩
    · exact clean_cons (z := (2, 3)) (zs := []) h3 rfl
    · show some (Instr.sxor _ _ _ _) = _
      simp only [hs, h0, h1, h2]
theorem sandn (gr : Grp) (d : BitVec 6) (a : BitVec 6) (b : BitVec 6) : Statement (.sandn gr d a b) := by
  obtain ⟨ho, hs, hk, h0, h1, h2, h3⟩ := word29 0x53 3 d a b gr.sw (by decide) (by decide) (encodeBase (.sandn gr d a b)) rfl
  refine ⟨ho, hs, ?_, fun h => absurd h (by decide)⟩
  · refine (decodeBase_row (r := rows1[34]'(Nat.lt_of_lt_of_eq (by decide) rows1_length.symm)) gr (rows1_mem (List.getElem_mem _)) ?_ ?_).trans ?_
    · exact Bool.and_eq_true _ _ ▸ ⟨decide_eq_true ho, decide_eq_true hk⟩
    · exact clean_cons (z := (2, 3)) (zs := []) h3 rfl
    · show some (Instr.sandn _ _ _ _) = _
      simp only [hs, h0, h1, h2]
theorem sshl (gr : Grp) (d : BitVec 6) (a : BitVec 6) (b : BitVec 6) : Statement (.sshl gr d a b) := by
  obtain ⟨ho, hs, hk, h0, h1, h2, h3⟩ := word28 0x54 d a b gr.sw (by decide) (encodeBase (.sshl gr d a b)) rfl
  refine ⟨ho, hs, ?_, fun h => absurd h (by decide)⟩
  · refine (decodeBase_row (r := rows1[35]'(Nat.lt_of_lt_of_eq (by decide) rows1_length.symm)) gr (rows1_mem (List.getElem_mem _)) ?_ ?_).trans ?_
    · exact Bool.and_eq_true _ _ ▸ ⟨decide_eq_true ho, decide_eq_true hk⟩
    · exact clean_cons (z := (2, 3)) (zs := []) h3 rfl
    · show some (Instr.sshl _ _ _ _) = _
      simp only [hs, h0, h1, h2]
theorem sshr (gr : Grp) (d : BitVec 6) (a : BitVec 6) (b : BitVec 6) : Statement (.sshr gr d a b) := by
  obtain ⟨ho, hs, hk, h0, h1, h2, h3⟩ := word29 0x54 1 d a b gr.sw (by decide) (by decide) (encodeBase (.sshr gr d a b)) rfl
  refine ⟨ho, hs, ?_, fun h => absurd h (by decide)⟩
  · refine (decodeBase_row (r := rows1[36]'(Nat.lt_of_lt_of_eq (by decide) rows1_length.symm)) gr (rows1_mem (List.getElem_mem _)) ?_ ?_).trans ?_
    · exact Bool.and_eq_true _ _ ▸ ⟨decide_eq_true ho, decide_eq_true hk⟩
    · exact clean_cons (z := (2, 3)) (zs := []) h3 rfl
    · show some (Instr.sshr _ _ _ _) = _
      simp only [hs, h0, h1, h2]
theorem ssar (gr : Grp) (d : BitVec 6) (a : BitVec 6) (b : BitVec 6) : Statement (.ssar gr d a b) := by
  obtain ⟨ho, hs, hk, h0, h1, h2, h3⟩ := word29 0x54 2 d a b gr.sw (by decide) (by decide) (encodeBase (.ssar gr d a b)) rfl
  refine ⟨ho, hs, ?_, fun h => absurd h (by decide)⟩
  · refine (decodeBase_row (r := rows1[37]'(Nat.lt_of_lt_of_eq (by decide) rows1_length.symm)) gr (rows1_mem (List.getElem_mem _)) ?_ ?_).trans ?_
    · exact Bool.and_eq_true _ _ ▸ ⟨decide_eq_true ho, decide_eq_true hk⟩
    · exact clean_cons (z := (2, 3)) (zs := []) h3 rfl
    · show some (Instr.ssar _ _ _ _) = _
      simp only [hs, h0, h1, h2]
theorem srot (gr : Grp) (d : BitVec 6) (a : BitVec 6) (b : BitVec 6) : Statement (.srot gr d a b) := by
  obtain ⟨ho, hs, hk, h0, h1, h2, h3⟩ := word29 0x54 3 d a b gr.sw (by decide) (by decide) (encodeBase (.srot gr d a b)) rfl
  refine ⟨ho, hs, ?_, fun h => absurd h (by decide)⟩
  · refine (decodeBase_row (r := rows1[38]'(Nat.lt_of_lt_of_eq (by decide) rows1_length.symm)) gr (rows1_mem (List.getElem_mem _)) ?_ ?_).trans ?_
    · exact Bool.and_eq_true _ _ ▸ ⟨decide_eq_true ho, decide_eq_true hk⟩
    · exact clean_cons (z := (2, 3)) (zs := []) h3 rfl
    · show some (Instr.srot _ _ _ _) = _
      simp only [hs, h0, h1, h2]
theorem scmp (gr : Grp) (d : BitVec 6) (a : BitVec 6) (b : BitVec 6) (w : BitVec 1) (c : BitVec 3) : Statement (.scmp gr d a b w c) := by
  obtain ⟨ho, hs, hk, h0, h1, h2, h3, h4, h5⟩ := word30 0x55 d a b w c gr.sw (by decide) (encodeBase (.scmp gr d a b w c)) rfl
  refine ⟨ho, hs, ?_, fun h => absurd h (by decide)⟩
  · refine (decodeBase_row (r := rows1[39]'(Nat.lt_of_lt_of_eq (by decide) rows1_length.symm)) gr (rows1_mem (List.getElem_mem _)) ?_ ?_).trans ?_
    · exact Bool.and_eq_true _ _ ▸ ⟨decide_eq_true ho, decide_eq_true hk⟩
    · exact clean_cons (z := (4, 1)) (zs := []) h5 rfl
    · show some (Instr.scmp _ _ _ _ _ _) = _
      simp only [hs, h0, h1, h2, h3, h4]
theorem smov (gr : Grp) (d : BitVec 6) (a : BitVec 6) : Statement (.smov gr d a) := by
  obtain ⟨ho, hs, hk, h0, h1, h2⟩ := word31 0x56 d a gr.sw (by decide) (encodeBase (.smov gr d a)) rfl
  refine ⟨ho, hs, ?_, fun h => absurd h (by decide)⟩
  · refine (decodeBase_row (r := rows2[0]'(Nat.lt_of_lt_of_eq (by decide) rows2_length.symm)) gr (rows2_mem (List.getElem_mem _)) ?_ ?_).trans ?_
    · exact Bool.and_eq_true _ _ ▸ ⟨decide_eq_true ho, decide_eq_true hk⟩
    · exact clean_cons (z := (3, 8)) (zs := []) h2 rfl
    · show some (Instr.smov _ _ _) = _
      simp only [hs, h0, h1]
theorem smovTlo (gr : Grp) (d : BitVec 3) (a : BitVec 6) : Statement (.smovTlo gr d a) := by
  obtain ⟨ho, hs, hk, h0, h1, h2, h3⟩ := word32 0x56 1 d a gr.sw (by decide) (by decide) (encodeBase (.smovTlo gr d a)) rfl
  refine ⟨ho, hs, ?_, fun h => absurd h (by decide)⟩
  · refine (decodeBase_row (r := rows2[1]'(Nat.lt_of_lt_of_eq (by decide) rows2_length.symm)) gr (rows2_mem (List.getElem_mem _)) ?_ ?_).trans ?_
    · exact Bool.and_eq_true _ _ ▸ ⟨decide_eq_true ho, decide_eq_true hk⟩
    · exact clean_cons (z := (3, 8)) h2 (clean_cons (z := (20, 3)) (zs := []) h3 rfl)
    · show some (Instr.smovTlo _ _ _) = _
      simp only [hs, h0, h1]
theorem smovThi (gr : Grp) (d : BitVec 3) (a : BitVec 6) : Statement (.smovThi gr d a) := by
  obtain ⟨ho, hs, hk, h0, h1, h2, h3⟩ := word32 0x56 2 d a gr.sw (by decide) (by decide) (encodeBase (.smovThi gr d a)) rfl
  refine ⟨ho, hs, ?_, fun h => absurd h (by decide)⟩
  · refine (decodeBase_row (r := rows2[2]'(Nat.lt_of_lt_of_eq (by decide) rows2_length.symm)) gr (rows2_mem (List.getElem_mem _)) ?_ ?_).trans ?_
    · exact Bool.and_eq_true _ _ ▸ ⟨decide_eq_true ho, decide_eq_true hk⟩
    · exact clean_cons (z := (3, 8)) h2 (clean_cons (z := (20, 3)) (zs := []) h3 rfl)
    · show some (Instr.smovThi _ _ _) = _
      simp only [hs, h0, h1]
theorem smovSlo (gr : Grp) (d : BitVec 6) (a : BitVec 3) : Statement (.smovSlo gr d a) := by
  obtain ⟨ho, hs, hk, h0, h1, h2, h3⟩ := word33 0x56 3 d a gr.sw (by decide) (by decide) (encodeBase (.smovSlo gr d a)) rfl
  refine ⟨ho, hs, ?_, fun h => absurd h (by decide)⟩
  · refine (decodeBase_row (r := rows2[3]'(Nat.lt_of_lt_of_eq (by decide) rows2_length.symm)) gr (rows2_mem (List.getElem_mem _)) ?_ ?_).trans ?_
    · exact Bool.and_eq_true _ _ ▸ ⟨decide_eq_true ho, decide_eq_true hk⟩
    · exact clean_cons (z := (3, 8)) h2 (clean_cons (z := (14, 3)) (zs := []) h3 rfl)
    · show some (Instr.smovSlo _ _ _) = _
      simp only [hs, h0, h1]
theorem smovShi (gr : Grp) (d : BitVec 6) (a : BitVec 3) : Statement (.smovShi gr d a) := by
  obtain ⟨ho, hs, hk, h0, h1, h2, h3⟩ := word33 0x56 4 d a gr.sw (by decide) (by decide) (encodeBase (.smovShi gr d a)) rfl
  refine ⟨ho, hs, ?_, fun h => absurd h (by decide)⟩
  · refine (decodeBase_row (r := rows2[4]'(Nat.lt_of_lt_of_eq (by decide) rows2_length.symm)) gr (rows2_mem (List.getElem_mem _)) ?_ ?_).trans ?_
    · exact Bool.and_eq_true _ _ ▸ ⟨decide_eq_true ho, decide_eq_true hk⟩
    · exact clean_cons (z := (3, 8)) h2 (clean_cons (z := (14, 3)) (zs := []) h3 rfl)
    · show some (Instr.smovShi _ _ _) = _
      simp only [hs, h0, h1]
theorem smovi (gr : Grp) (d : BitVec 6) (i : BitVec 11) : Statement (.smovi gr d i) := by
  obtain ⟨ho, hs, hk, h0, h1, h2⟩ := word34 0x57 d i gr.sw (by decide) (encodeBase (.smovi gr d i)) rfl
  refine ⟨ho, hs, ?_, fun h => absurd h (by decide)⟩
  · refine (decodeBase_row (r := rows2[5]'(Nat.lt_of_lt_of_eq (by decide) rows2_length.symm)) gr (rows2_mem (List.getElem_mem _)) ?_ ?_).trans ?_
    · exact Bool.and_eq_true _ _ ▸ ⟨decide_eq_true ho, decide_eq_true hk⟩
    · exact clean_cons (z := (11, 6)) (zs := []) h2 rfl
    · show some (Instr.smovi _ _ _) = _
      simp only [hs, h0, h1]
theorem saddi (gr : Grp) (d : BitVec 6) (a : BitVec 6) (i : BitVec 11) : Statement (.saddi gr d a i) := by
  obtain ⟨ho, hs, hk, h0, h1, h2⟩ := word35 0x58 d a i gr.sw (by decide) (encodeBase (.saddi gr d a i)) rfl
  refine ⟨ho, hs, ?_, fun h => absurd h (by decide)⟩
  · refine (decodeBase_row (r := rows2[6]'(Nat.lt_of_lt_of_eq (by decide) rows2_length.symm)) gr (rows2_mem (List.getElem_mem _)) ?_ ?_).trans ?_
    · exact Bool.and_eq_true _ _ ▸ ⟨decide_eq_true ho, decide_eq_true hk⟩
    · rfl
    · show some (Instr.saddi _ _ _ _) = _
      simp only [hs, h0, h1, h2]
theorem sbfe (gr : Grp) (d : BitVec 6) (a : BitVec 6) (b : BitVec 6) (u : BitVec 1) : Statement (.sbfe gr d a b u) := by
  obtain ⟨ho, hs, hk, h0, h1, h2, h3, h4⟩ := word36 0x59 d a b u gr.sw (by decide) (encodeBase (.sbfe gr d a b u)) rfl
  refine ⟨ho, hs, ?_, fun h => absurd h (by decide)⟩
  · refine (decodeBase_row (r := rows2[7]'(Nat.lt_of_lt_of_eq (by decide) rows2_length.symm)) gr (rows2_mem (List.getElem_mem _)) ?_ ?_).trans ?_
    · exact Bool.and_eq_true _ _ ▸ ⟨decide_eq_true ho, decide_eq_true hk⟩
    · exact clean_cons (z := (1, 4)) (zs := []) h4 rfl
    · show some (Instr.sbfe _ _ _ _ _) = _
      simp only [hs, h0, h1, h2, h3]
theorem smin (gr : Grp) (d : BitVec 6) (a : BitVec 6) (b : BitVec 6) (u : BitVec 1) : Statement (.smin gr d a b u) := by
  obtain ⟨ho, hs, hk, h0, h1, h2, h3, h4⟩ := word37 0x5A d a b u gr.sw (by decide) (encodeBase (.smin gr d a b u)) rfl
  refine ⟨ho, hs, ?_, fun h => absurd h (by decide)⟩
  · refine (decodeBase_row (r := rows2[8]'(Nat.lt_of_lt_of_eq (by decide) rows2_length.symm)) gr (rows2_mem (List.getElem_mem _)) ?_ ?_).trans ?_
    · exact Bool.and_eq_true _ _ ▸ ⟨decide_eq_true ho, decide_eq_true hk⟩
    · exact clean_cons (z := (2, 3)) (zs := []) h4 rfl
    · show some (Instr.smin _ _ _ _ _) = _
      simp only [hs, h0, h1, h2, h3]
theorem smax (gr : Grp) (d : BitVec 6) (a : BitVec 6) (b : BitVec 6) (u : BitVec 1) : Statement (.smax gr d a b u) := by
  obtain ⟨ho, hs, hk, h0, h1, h2, h3, h4⟩ := word38 0x5A 1 d a b u gr.sw (by decide) (by decide) (encodeBase (.smax gr d a b u)) rfl
  refine ⟨ho, hs, ?_, fun h => absurd h (by decide)⟩
  · refine (decodeBase_row (r := rows2[9]'(Nat.lt_of_lt_of_eq (by decide) rows2_length.symm)) gr (rows2_mem (List.getElem_mem _)) ?_ ?_).trans ?_
    · exact Bool.and_eq_true _ _ ▸ ⟨decide_eq_true ho, decide_eq_true hk⟩
    · exact clean_cons (z := (2, 3)) (zs := []) h4 rfl
    · show some (Instr.smax _ _ _ _ _) = _
      simp only [hs, h0, h1, h2, h3]
theorem spopc (gr : Grp) (d : BitVec 6) (a : BitVec 6) : Statement (.spopc gr d a) := by
  obtain ⟨ho, hs, hk, h0, h1, h2⟩ := word39 0x5B d a gr.sw (by decide) (encodeBase (.spopc gr d a)) rfl
  refine ⟨ho, hs, ?_, fun h => absurd h (by decide)⟩
  · refine (decodeBase_row (r := rows2[10]'(Nat.lt_of_lt_of_eq (by decide) rows2_length.symm)) gr (rows2_mem (List.getElem_mem _)) ?_ ?_).trans ?_
    · exact Bool.and_eq_true _ _ ▸ ⟨decide_eq_true ho, decide_eq_true hk⟩
    · exact clean_cons (z := (2, 9)) (zs := []) h2 rfl
    · show some (Instr.spopc _ _ _) = _
      simp only [hs, h0, h1]
theorem sclz (gr : Grp) (d : BitVec 6) (a : BitVec 6) : Statement (.sclz gr d a) := by
  obtain ⟨ho, hs, hk, h0, h1, h2⟩ := word40 0x5B 1 d a gr.sw (by decide) (by decide) (encodeBase (.sclz gr d a)) rfl
  refine ⟨ho, hs, ?_, fun h => absurd h (by decide)⟩
  · refine (decodeBase_row (r := rows2[11]'(Nat.lt_of_lt_of_eq (by decide) rows2_length.symm)) gr (rows2_mem (List.getElem_mem _)) ?_ ?_).trans ?_
    · exact Bool.and_eq_true _ _ ▸ ⟨decide_eq_true ho, decide_eq_true hk⟩
    · exact clean_cons (z := (2, 9)) (zs := []) h2 rfl
    · show some (Instr.sclz _ _ _) = _
      simp only [hs, h0, h1]
theorem sctz (gr : Grp) (d : BitVec 6) (a : BitVec 6) : Statement (.sctz gr d a) := by
  obtain ⟨ho, hs, hk, h0, h1, h2⟩ := word40 0x5B 2 d a gr.sw (by decide) (by decide) (encodeBase (.sctz gr d a)) rfl
  refine ⟨ho, hs, ?_, fun h => absurd h (by decide)⟩
  · refine (decodeBase_row (r := rows2[12]'(Nat.lt_of_lt_of_eq (by decide) rows2_length.symm)) gr (rows2_mem (List.getElem_mem _)) ?_ ?_).trans ?_
    · exact Bool.and_eq_true _ _ ▸ ⟨decide_eq_true ho, decide_eq_true hk⟩
    · exact clean_cons (z := (2, 9)) (zs := []) h2 rfl
    · show some (Instr.sctz _ _ _) = _
      simp only [hs, h0, h1]
theorem sbrev (gr : Grp) (d : BitVec 6) (a : BitVec 6) : Statement (.sbrev gr d a) := by
  obtain ⟨ho, hs, hk, h0, h1, h2⟩ := word40 0x5B 3 d a gr.sw (by decide) (by decide) (encodeBase (.sbrev gr d a)) rfl
  refine ⟨ho, hs, ?_, fun h => absurd h (by decide)⟩
  · refine (decodeBase_row (r := rows2[13]'(Nat.lt_of_lt_of_eq (by decide) rows2_length.symm)) gr (rows2_mem (List.getElem_mem _)) ?_ ?_).trans ?_
    · exact Bool.and_eq_true _ _ ▸ ⟨decide_eq_true ho, decide_eq_true hk⟩
    · exact clean_cons (z := (2, 9)) (zs := []) h2 rfl
    · show some (Instr.sbrev _ _ _) = _
      simp only [hs, h0, h1]
theorem bra (gr : Grp) (p : BitVec 3) (n : BitVec 1) (o : BitVec 19) : Statement (.bra gr p n o) := by
  obtain ⟨ho, hs, hk, h0, h1, h2⟩ := word41 0x60 p n o gr.sw (by decide) (encodeBase (.bra gr p n o)) rfl
  refine ⟨ho, hs, ?_, fun h => absurd h (by decide)⟩
  · refine (decodeBase_row (r := rows2[14]'(Nat.lt_of_lt_of_eq (by decide) rows2_length.symm)) gr (rows2_mem (List.getElem_mem _)) ?_ ?_).trans ?_
    · exact Bool.and_eq_true _ _ ▸ ⟨decide_eq_true ho, decide_eq_true hk⟩
    · rfl
    · show some (Instr.bra _ _ _ _) = _
      simp only [hs, h0, h1, h2]
theorem brp (gr : Grp) (p : BitVec 3) (n : BitVec 1) (o : BitVec 19) : Statement (.brp gr p n o) := by
  obtain ⟨ho, hs, hk, h0, h1, h2⟩ := word41 0x61 p n o gr.sw (by decide) (encodeBase (.brp gr p n o)) rfl
  refine ⟨ho, hs, ?_, fun h => absurd h (by decide)⟩
  · refine (decodeBase_row (r := rows2[15]'(Nat.lt_of_lt_of_eq (by decide) rows2_length.symm)) gr (rows2_mem (List.getElem_mem _)) ?_ ?_).trans ?_
    · exact Bool.and_eq_true _ _ ▸ ⟨decide_eq_true ho, decide_eq_true hk⟩
    · rfl
    · show some (Instr.brp _ _ _ _) = _
      simp only [hs, h0, h1, h2]
theorem brs (gr : Grp) (p : BitVec 3) (n : BitVec 1) (o : BitVec 19) : Statement (.brs gr p n o) := by
  obtain ⟨ho, hs, hk, h0, h1, h2⟩ := word41 0x62 p n o gr.sw (by decide) (encodeBase (.brs gr p n o)) rfl
  refine ⟨ho, hs, ?_, fun h => absurd h (by decide)⟩
  · refine (decodeBase_row (r := rows2[16]'(Nat.lt_of_lt_of_eq (by decide) rows2_length.symm)) gr (rows2_mem (List.getElem_mem _)) ?_ ?_).trans ?_
    · exact Bool.and_eq_true _ _ ▸ ⟨decide_eq_true ho, decide_eq_true hk⟩
    · rfl
    · show some (Instr.brs _ _ _ _) = _
      simp only [hs, h0, h1, h2]
theorem jmpi (gr : Grp) (a : BitVec 6) (lka : BitVec 2) : Statement (.jmpi gr a lka) := by
  obtain ⟨ho, hs, hk, h0, h1, h2, h3⟩ := word42 0x63 a lka gr.sw (by decide) (encodeBase (.jmpi gr a lka)) rfl
  refine ⟨ho, hs, ?_, fun h => absurd h (by decide)⟩
  · refine (decodeBase_row (r := rows2[17]'(Nat.lt_of_lt_of_eq (by decide) rows2_length.symm)) gr (rows2_mem (List.getElem_mem _)) ?_ ?_).trans ?_
    · exact Bool.and_eq_true _ _ ▸ ⟨decide_eq_true ho, decide_eq_true hk⟩
    · exact clean_cons (z := (0, 9)) h2 (clean_cons (z := (17, 6)) (zs := []) h3 rfl)
    · show some (Instr.jmpi _ _ _) = _
      simp only [hs, h0, h1]
theorem call (gr : Grp) (p : BitVec 3) (n : BitVec 1) (o : BitVec 19) : Statement (.call gr p n o) := by
  obtain ⟨ho, hs, hk, h0, h1, h2⟩ := word41 0x64 p n o gr.sw (by decide) (encodeBase (.call gr p n o)) rfl
  refine ⟨ho, hs, ?_, fun h => absurd h (by decide)⟩
  · refine (decodeBase_row (r := rows2[18]'(Nat.lt_of_lt_of_eq (by decide) rows2_length.symm)) gr (rows2_mem (List.getElem_mem _)) ?_ ?_).trans ?_
    · exact Bool.and_eq_true _ _ ▸ ⟨decide_eq_true ho, decide_eq_true hk⟩
    · rfl
    · show some (Instr.call _ _ _ _) = _
      simp only [hs, h0, h1, h2]
theorem calli (gr : Grp) (a : BitVec 6) (lka : BitVec 2) : Statement (.calli gr a lka) := by
  obtain ⟨ho, hs, hk, h0, h1, h2, h3⟩ := word42 0x65 a lka gr.sw (by decide) (encodeBase (.calli gr a lka)) rfl
  refine ⟨ho, hs, ?_, fun h => absurd h (by decide)⟩
  · refine (decodeBase_row (r := rows2[19]'(Nat.lt_of_lt_of_eq (by decide) rows2_length.symm)) gr (rows2_mem (List.getElem_mem _)) ?_ ?_).trans ?_
    · exact Bool.and_eq_true _ _ ▸ ⟨decide_eq_true ho, decide_eq_true hk⟩
    · exact clean_cons (z := (0, 9)) h2 (clean_cons (z := (17, 6)) (zs := []) h3 rfl)
    · show some (Instr.calli _ _ _) = _
      simp only [hs, h0, h1]
theorem ret (gr : Grp) (a : BitVec 6) (lka : BitVec 2) : Statement (.ret gr a lka) := by
  obtain ⟨ho, hs, hk, h0, h1, h2, h3⟩ := word42 0x66 a lka gr.sw (by decide) (encodeBase (.ret gr a lka)) rfl
  refine ⟨ho, hs, ?_, fun h => absurd h (by decide)⟩
  · refine (decodeBase_row (r := rows2[20]'(Nat.lt_of_lt_of_eq (by decide) rows2_length.symm)) gr (rows2_mem (List.getElem_mem _)) ?_ ?_).trans ?_
    · exact Bool.and_eq_true _ _ ▸ ⟨decide_eq_true ho, decide_eq_true hk⟩
    · exact clean_cons (z := (0, 9)) h2 (clean_cons (z := (17, 6)) (zs := []) h3 rfl)
    · show some (Instr.ret _ _ _) = _
      simp only [hs, h0, h1]
theorem exitL (gr : Grp) : Statement (.exitL gr) := by
  obtain ⟨ho, hs, hk, h0⟩ := word43 0x67  gr.sw (by decide) (encodeBase (.exitL gr)) rfl
  refine ⟨ho, hs, ?_, fun h => absurd h (by decide)⟩
  · refine (decodeBase_row (r := rows2[21]'(Nat.lt_of_lt_of_eq (by decide) rows2_length.symm)) gr (rows2_mem (List.getElem_mem _)) ?_ ?_).trans ?_
    · exact Bool.and_eq_true _ _ ▸ ⟨decide_eq_true ho, decide_eq_true hk⟩
    · exact clean_cons (z := (0, 23)) (zs := []) h0 rfl
    · show some (Instr.exitL _) = _
      simp only [hs]
theorem yield (gr : Grp) : Statement (.yield gr) := by
  obtain ⟨ho, hs, hk, h0⟩ := word43 0x68  gr.sw (by decide) (encodeBase (.yield gr)) rfl
  refine ⟨ho, hs, ?_, fun h => absurd h (by decide)⟩
  · refine (decodeBase_row (r := rows2[22]'(Nat.lt_of_lt_of_eq (by decide) rows2_length.symm)) gr (rows2_mem (List.getElem_mem _)) ?_ ?_).trans ?_
    · exact Bool.and_eq_true _ _ ▸ ⟨decide_eq_true ho, decide_eq_true hk⟩
    · exact clean_cons (z := (0, 23)) (zs := []) h0 rfl
    · show some (Instr.yield _) = _
      simp only [hs]
theorem nop (gr : Grp) : Statement (.nop gr) := by
  obtain ⟨ho, hs, hk, h0⟩ := word43 0x69  gr.sw (by decide) (encodeBase (.nop gr)) rfl
  refine ⟨ho, hs, ?_, fun h => absurd h (by decide)⟩
  · refine (decodeBase_row (r := rows2[23]'(Nat.lt_of_lt_of_eq (by decide) rows2_length.symm)) gr (rows2_mem (List.getElem_mem _)) ?_ ?_).trans ?_
    · exact Bool.and_eq_true _ _ ▸ ⟨decide_eq_true ho, decide_eq_true hk⟩
    · exact clean_cons (z := (0, 23)) (zs := []) h0 rfl
    · show some (Instr.nop _) = _
      simp only [hs]
theorem mcall (gr : Grp) (ptwo : BitVec 5) (pone : BitVec 6) (pzero : BitVec 6) (slot : BitVec 6) : Statement (.mcall gr ptwo pone pzero slot) := by
  obtain ⟨ho, hs, hk, h0, h1, h2, h3⟩ := word44 0x6A ptwo pone pzero slot gr.sw (by decide) (encodeBase (.mcall gr ptwo pone pzero slot)) rfl
  refine ⟨ho, hs, ?_, fun h => absurd h (by decide)⟩
  · refine (decodeBase_row (r := rows2[24]'(Nat.lt_of_lt_of_eq (by decide) rows2_length.symm)) gr (rows2_mem (List.getElem_mem _)) ?_ ?_).trans ?_
    · exact Bool.and_eq_true _ _ ▸ ⟨decide_eq_true ho, decide_eq_true hk⟩
    · rfl
    · show some (Instr.mcall _ _ _ _ _) = _
      simp only [hs, h0, h1, h2, h3]
theorem mret (gr : Grp) : Statement (.mret gr) := by
  obtain ⟨ho, hs, hk, h0⟩ := word43 0x6B  gr.sw (by decide) (encodeBase (.mret gr)) rfl
  refine ⟨ho, hs, ?_, fun h => absurd h (by decide)⟩
  · refine (decodeBase_row (r := rows2[25]'(Nat.lt_of_lt_of_eq (by decide) rows2_length.symm)) gr (rows2_mem (List.getElem_mem _)) ?_ ?_).trans ?_
    · exact Bool.and_eq_true _ _ ▸ ⟨decide_eq_true ho, decide_eq_true hk⟩
    · exact clean_cons (z := (0, 23)) (zs := []) h0 rfl
    · show some (Instr.mret _) = _
      simp only [hs]
theorem ld (gr : Grp) (v : BitVec 6) (b : BitVec 6) (i : BitVec 6) (t : BitVec 3) (f : BitVec 1) (o : BitVec 1) : Statement (.ld gr v b i t f o) := by
  obtain ⟨ho, hs, hk, h0, h1, h2, h3, h4, h5⟩ := word45 0x70 v b i t f o gr.sw (by decide) (encodeBase (.ld gr v b i t f o)) rfl
  refine ⟨ho, hs, ?_, fun h => absurd h (by decide)⟩
  · refine (decodeBase_row (r := rows2[26]'(Nat.lt_of_lt_of_eq (by decide) rows2_length.symm)) gr (rows2_mem (List.getElem_mem _)) ?_ ?_).trans ?_
    · exact Bool.and_eq_true _ _ ▸ ⟨decide_eq_true ho, decide_eq_true hk⟩
    · rfl
    · show some (Instr.ld _ _ _ _ _ _ _) = _
      simp only [hs, h0, h1, h2, h3, h4, h5]
theorem st (gr : Grp) (v : BitVec 6) (b : BitVec 6) (i : BitVec 6) (t : BitVec 3) (o : BitVec 1) : Statement (.st gr v b i t o) := by
  obtain ⟨ho, hs, hk, h0, h1, h2, h3, h4, h5⟩ := word46 0x71 v b i t o gr.sw (by decide) (encodeBase (.st gr v b i t o)) rfl
  refine ⟨ho, hs, ?_, fun h => absurd h (by decide)⟩
  · refine (decodeBase_row (r := rows2[27]'(Nat.lt_of_lt_of_eq (by decide) rows2_length.symm)) gr (rows2_mem (List.getElem_mem _)) ?_ ?_).trans ?_
    · exact Bool.and_eq_true _ _ ▸ ⟨decide_eq_true ho, decide_eq_true hk⟩
    · exact clean_cons (z := (1, 1)) (zs := []) h5 rfl
    · show some (Instr.st _ _ _ _ _ _) = _
      simp only [hs, h0, h1, h2, h3, h4]
theorem ldl (gr : Grp) (v : BitVec 6) (b : BitVec 6) (i : BitVec 6) (t : BitVec 3) (w : BitVec 1) (o : BitVec 1) : Statement (.ldl gr v b i t w o) := by
  obtain ⟨ho, hs, hk, h0, h1, h2, h3, h4, h5⟩ := word45 0x72 v b i t w o gr.sw (by decide) (encodeBase (.ldl gr v b i t w o)) rfl
  refine ⟨ho, hs, ?_, fun h => absurd h (by decide)⟩
  · refine (decodeBase_row (r := rows2[28]'(Nat.lt_of_lt_of_eq (by decide) rows2_length.symm)) gr (rows2_mem (List.getElem_mem _)) ?_ ?_).trans ?_
    · exact Bool.and_eq_true _ _ ▸ ⟨decide_eq_true ho, decide_eq_true hk⟩
    · rfl
    · show some (Instr.ldl _ _ _ _ _ _ _) = _
      simp only [hs, h0, h1, h2, h3, h4, h5]
theorem stl (gr : Grp) (v : BitVec 6) (b : BitVec 6) (i : BitVec 6) (t : BitVec 3) (w : BitVec 1) (o : BitVec 1) : Statement (.stl gr v b i t w o) := by
  obtain ⟨ho, hs, hk, h0, h1, h2, h3, h4, h5⟩ := word45 0x73 v b i t w o gr.sw (by decide) (encodeBase (.stl gr v b i t w o)) rfl
  refine ⟨ho, hs, ?_, fun h => absurd h (by decide)⟩
  · refine (decodeBase_row (r := rows2[29]'(Nat.lt_of_lt_of_eq (by decide) rows2_length.symm)) gr (rows2_mem (List.getElem_mem _)) ?_ ?_).trans ?_
    · exact Bool.and_eq_true _ _ ▸ ⟨decide_eq_true ho, decide_eq_true hk⟩
    · rfl
    · show some (Instr.stl _ _ _ _ _ _ _) = _
      simp only [hs, h0, h1, h2, h3, h4, h5]
theorem ldu (gr : Grp) (v : BitVec 6) (b : BitVec 6) (t : BitVec 3) (f : BitVec 1) (o : BitVec 1) : Statement (.ldu gr v b t f o) := by
  obtain ⟨ho, hs, hk, h0, h1, h2, h3, h4, h5⟩ := word47 0x74 v b t f o gr.sw (by decide) (encodeBase (.ldu gr v b t f o)) rfl
  refine ⟨ho, hs, ?_, fun h => absurd h (by decide)⟩
  · refine (decodeBase_row (r := rows2[30]'(Nat.lt_of_lt_of_eq (by decide) rows2_length.symm)) gr (rows2_mem (List.getElem_mem _)) ?_ ?_).trans ?_
    · exact Bool.and_eq_true _ _ ▸ ⟨decide_eq_true ho, decide_eq_true hk⟩
    · exact clean_cons (z := (5, 6)) (zs := []) h5 rfl
    · show some (Instr.ldu _ _ _ _ _ _) = _
      simp only [hs, h0, h1, h2, h3, h4]
theorem stu (gr : Grp) (v : BitVec 6) (b : BitVec 6) (t : BitVec 3) (o : BitVec 1) : Statement (.stu gr v b t o) := by
  obtain ⟨ho, hs, hk, h0, h1, h2, h3, h4, h5⟩ := word48 0x75 v b t o gr.sw (by decide) (encodeBase (.stu gr v b t o)) rfl
  refine ⟨ho, hs, ?_, fun h => absurd h (by decide)⟩
  · refine (decodeBase_row (r := rows2[31]'(Nat.lt_of_lt_of_eq (by decide) rows2_length.symm)) gr (rows2_mem (List.getElem_mem _)) ?_ ?_).trans ?_
    · exact Bool.and_eq_true _ _ ▸ ⟨decide_eq_true ho, decide_eq_true hk⟩
    · exact clean_cons (z := (1, 1)) h4 (clean_cons (z := (5, 6)) (zs := []) h5 rfl)
    · show some (Instr.stu _ _ _ _ _) = _
      simp only [hs, h0, h1, h2, h3]
theorem atom (gr : Grp) (v : BitVec 6) (b : BitVec 6) (i : BitVec 6) (c : BitVec 4) (o : BitVec 1) : Statement (.atom gr v b i c o) := by
  obtain ⟨ho, hs, hk, h0, h1, h2, h3, h4⟩ := word49 0x76 v b i c o gr.sw (by decide) (encodeBase (.atom gr v b i c o)) rfl
  refine ⟨ho, hs, ?_, fun h => absurd h (by decide)⟩
  · refine (decodeBase_row (r := rows2[32]'(Nat.lt_of_lt_of_eq (by decide) rows2_length.symm)) gr (rows2_mem (List.getElem_mem _)) ?_ ?_).trans ?_
    · exact Bool.and_eq_true _ _ ▸ ⟨decide_eq_true ho, decide_eq_true hk⟩
    · rfl
    · show some (Instr.atom _ _ _ _ _ _) = _
      simp only [hs, h0, h1, h2, h3, h4]
theorem cas (gr : Grp) (v : BitVec 6) (b : BitVec 6) (i : BitVec 6) (w : BitVec 1) (o : BitVec 1) : Statement (.cas gr v b i w o) := by
  obtain ⟨ho, hs, hk, h0, h1, h2, h3, h4, h5⟩ := word50 0x77 v b i w o gr.sw (by decide) (encodeBase (.cas gr v b i w o)) rfl
  refine ⟨ho, hs, ?_, fun h => absurd h (by decide)⟩
  · refine (decodeBase_row (r := rows2[33]'(Nat.lt_of_lt_of_eq (by decide) rows2_length.symm)) gr (rows2_mem (List.getElem_mem _)) ?_ ?_).trans ?_
    · exact Bool.and_eq_true _ _ ▸ ⟨decide_eq_true ho, decide_eq_true hk⟩
    · exact clean_cons (z := (2, 3)) (zs := []) h5 rfl
    · show some (Instr.cas _ _ _ _ _ _) = _
      simp only [hs, h0, h1, h2, h3, h4]
theorem red (gr : Grp) (v : BitVec 6) (b : BitVec 6) (i : BitVec 6) (c : BitVec 3) (o : BitVec 1) : Statement (.red gr v b i c o) := by
  obtain ⟨ho, hs, hk, h0, h1, h2, h3, h4⟩ := word51 0x78 v b i c o gr.sw (by decide) (encodeBase (.red gr v b i c o)) rfl
  refine ⟨ho, hs, ?_, fun h => absurd h (by decide)⟩
  · refine (decodeBase_row (r := rows2[34]'(Nat.lt_of_lt_of_eq (by decide) rows2_length.symm)) gr (rows2_mem (List.getElem_mem _)) ?_ ?_).trans ?_
    · exact Bool.and_eq_true _ _ ▸ ⟨decide_eq_true ho, decide_eq_true hk⟩
    · rfl
    · show some (Instr.red _ _ _ _ _ _) = _
      simp only [hs, h0, h1, h2, h3, h4]
theorem redHome (gr : Grp) (v : BitVec 6) (b : BitVec 6) (i : BitVec 6) (c : BitVec 3) (o : BitVec 1) : Statement (.redHome gr v b i c o) := by
  obtain ⟨ho, hs, hk, h0, h1, h2, h3, h4⟩ := word52 0x78 1 v b i c o gr.sw (by decide) (by decide) (encodeBase (.redHome gr v b i c o)) rfl
  refine ⟨ho, hs, ?_, fun h => absurd h (by decide)⟩
  · refine (decodeBase_row (r := rows2[35]'(Nat.lt_of_lt_of_eq (by decide) rows2_length.symm)) gr (rows2_mem (List.getElem_mem _)) ?_ ?_).trans ?_
    · exact Bool.and_eq_true _ _ ▸ ⟨decide_eq_true ho, decide_eq_true hk⟩
    · rfl
    · show some (Instr.redHome _ _ _ _ _ _) = _
      simp only [hs, h0, h1, h2, h3, h4]
theorem atoml (gr : Grp) (v : BitVec 6) (b : BitVec 6) (i : BitVec 6) (c : BitVec 4) : Statement (.atoml gr v b i c) := by
  obtain ⟨ho, hs, hk, h0, h1, h2, h3, h4⟩ := word53 0x79 v b i c gr.sw (by decide) (encodeBase (.atoml gr v b i c)) rfl
  refine ⟨ho, hs, ?_, fun h => absurd h (by decide)⟩
  · refine (decodeBase_row (r := rows2[36]'(Nat.lt_of_lt_of_eq (by decide) rows2_length.symm)) gr (rows2_mem (List.getElem_mem _)) ?_ ?_).trans ?_
    · exact Bool.and_eq_true _ _ ▸ ⟨decide_eq_true ho, decide_eq_true hk⟩
    · exact clean_cons (z := (0, 1)) (zs := []) h4 rfl
    · show some (Instr.atoml _ _ _ _ _) = _
      simp only [hs, h0, h1, h2, h3]
theorem redl (gr : Grp) (v : BitVec 6) (b : BitVec 6) (i : BitVec 6) (c : BitVec 3) : Statement (.redl gr v b i c) := by
  obtain ⟨ho, hs, hk, h0, h1, h2, h3, h4, h5⟩ := word54 0x7A v b i c gr.sw (by decide) (encodeBase (.redl gr v b i c)) rfl
  refine ⟨ho, hs, ?_, fun h => absurd h (by decide)⟩
  · refine (decodeBase_row (r := rows2[37]'(Nat.lt_of_lt_of_eq (by decide) rows2_length.symm)) gr (rows2_mem (List.getElem_mem _)) ?_ ?_).trans ?_
    · exact Bool.and_eq_true _ _ ▸ ⟨decide_eq_true ho, decide_eq_true hk⟩
    · exact clean_cons (z := (0, 1)) h4 (clean_cons (z := (4, 1)) (zs := []) h5 rfl)
    · show some (Instr.redl _ _ _ _ _) = _
      simp only [hs, h0, h1, h2, h3]
theorem fenceAcq (gr : Grp) : Statement (.fenceAcq gr) := by
  obtain ⟨ho, hs, hk, h0⟩ := word55 0x7B  gr.sw (by decide) (encodeBase (.fenceAcq gr)) rfl
  refine ⟨ho, hs, ?_, fun h => absurd h (by decide)⟩
  · refine (decodeBase_row (r := rows2[38]'(Nat.lt_of_lt_of_eq (by decide) rows2_length.symm)) gr (rows2_mem (List.getElem_mem _)) ?_ ?_).trans ?_
    · exact Bool.and_eq_true _ _ ▸ ⟨decide_eq_true ho, decide_eq_true hk⟩
    · exact clean_cons (z := (2, 21)) (zs := []) h0 rfl
    · show some (Instr.fenceAcq _) = _
      simp only [hs]
theorem fenceRel (gr : Grp) : Statement (.fenceRel gr) := by
  obtain ⟨ho, hs, hk, h0⟩ := word56 0x7B 1  gr.sw (by decide) (by decide) (encodeBase (.fenceRel gr)) rfl
  refine ⟨ho, hs, ?_, fun h => absurd h (by decide)⟩
  · refine (decodeBase_row (r := rows2[39]'(Nat.lt_of_lt_of_eq (by decide) rows2_length.symm)) gr (rows2_mem (List.getElem_mem _)) ?_ ?_).trans ?_
    · exact Bool.and_eq_true _ _ ▸ ⟨decide_eq_true ho, decide_eq_true hk⟩
    · exact clean_cons (z := (2, 21)) (zs := []) h0 rfl
    · show some (Instr.fenceRel _) = _
      simp only [hs]
theorem fenceSc (gr : Grp) : Statement (.fenceSc gr) := by
  obtain ⟨ho, hs, hk, h0⟩ := word56 0x7B 2  gr.sw (by decide) (by decide) (encodeBase (.fenceSc gr)) rfl
  refine ⟨ho, hs, ?_, fun h => absurd h (by decide)⟩
  · refine (decodeBase_row (r := rows3[0]'(Nat.lt_of_lt_of_eq (by decide) rows3_length.symm)) gr (rows3_mem (List.getElem_mem _)) ?_ ?_).trans ?_
    · exact Bool.and_eq_true _ _ ▸ ⟨decide_eq_true ho, decide_eq_true hk⟩
    · exact clean_cons (z := (2, 21)) (zs := []) h0 rfl
    · show some (Instr.fenceSc _) = _
      simp only [hs]
theorem cfence (gr : Grp) : Statement (.cfence gr) := by
  obtain ⟨ho, hs, hk, h0⟩ := word43 0x7C  gr.sw (by decide) (encodeBase (.cfence gr)) rfl
  refine ⟨ho, hs, ?_, fun h => absurd h (by decide)⟩
  · refine (decodeBase_row (r := rows3[1]'(Nat.lt_of_lt_of_eq (by decide) rows3_length.symm)) gr (rows3_mem (List.getElem_mem _)) ?_ ?_).trans ?_
    · exact Bool.and_eq_true _ _ ▸ ⟨decide_eq_true ho, decide_eq_true hk⟩
    · exact clean_cons (z := (0, 23)) (zs := []) h0 rfl
    · show some (Instr.cfence _) = _
      simp only [hs]
theorem publish (gr : Grp) : Statement (.publish gr) := by
  obtain ⟨ho, hs, hk, h0⟩ := word43 0x7D  gr.sw (by decide) (encodeBase (.publish gr)) rfl
  refine ⟨ho, hs, ?_, fun h => absurd h (by decide)⟩
  · refine (decodeBase_row (r := rows3[2]'(Nat.lt_of_lt_of_eq (by decide) rows3_length.symm)) gr (rows3_mem (List.getElem_mem _)) ?_ ?_).trans ?_
    · exact Bool.and_eq_true _ _ ▸ ⟨decide_eq_true ho, decide_eq_true hk⟩
    · exact clean_cons (z := (0, 23)) (zs := []) h0 rfl
    · show some (Instr.publish _) = _
      simp only [hs]
theorem prefetch (gr : Grp) (b : BitVec 6) (i : BitVec 6) (f : BitVec 1) : Statement (.prefetch gr b i f) := by
  obtain ⟨ho, hs, hk, h0, h1, h2, h3, h4, h5⟩ := word57 0x7E b i f gr.sw (by decide) (encodeBase (.prefetch gr b i f)) rfl
  refine ⟨ho, hs, ?_, fun h => absurd h (by decide)⟩
  · refine (decodeBase_row (r := rows3[3]'(Nat.lt_of_lt_of_eq (by decide) rows3_length.symm)) gr (rows3_mem (List.getElem_mem _)) ?_ ?_).trans ?_
    · exact Bool.and_eq_true _ _ ▸ ⟨decide_eq_true ho, decide_eq_true hk⟩
    · exact clean_cons (z := (0, 1)) h3 (clean_cons (z := (2, 3)) h4 (clean_cons (z := (17, 6)) (zs := []) h5 rfl))
    · show some (Instr.prefetch _ _ _ _) = _
      simp only [hs, h0, h1, h2]
theorem lock (gr : Grp) (v : BitVec 6) (b : BitVec 6) (i : BitVec 6) : Statement (.lock gr v b i) := by
  obtain ⟨ho, hs, hk, h0, h1, h2, h3, h4⟩ := word58 0x7F v b i gr.sw (by decide) (encodeBase (.lock gr v b i)) rfl
  refine ⟨ho, hs, ?_, fun h => absurd h (by decide)⟩
  · refine (decodeBase_row (r := rows3[4]'(Nat.lt_of_lt_of_eq (by decide) rows3_length.symm)) gr (rows3_mem (List.getElem_mem _)) ?_ ?_).trans ?_
    · exact Bool.and_eq_true _ _ ▸ ⟨decide_eq_true ho, decide_eq_true hk⟩
    · exact clean_cons (z := (0, 1)) h3 (clean_cons (z := (2, 3)) (zs := []) h4 rfl)
    · show some (Instr.lock _ _ _ _) = _
      simp only [hs, h0, h1, h2]
theorem unlock (gr : Grp) (v : BitVec 6) (b : BitVec 6) (i : BitVec 6) : Statement (.unlock gr v b i) := by
  obtain ⟨ho, hs, hk, h0, h1, h2, h3, h4⟩ := word59 0x7F 1 v b i gr.sw (by decide) (by decide) (encodeBase (.unlock gr v b i)) rfl
  refine ⟨ho, hs, ?_, fun h => absurd h (by decide)⟩
  · refine (decodeBase_row (r := rows3[5]'(Nat.lt_of_lt_of_eq (by decide) rows3_length.symm)) gr (rows3_mem (List.getElem_mem _)) ?_ ?_).trans ?_
    · exact Bool.and_eq_true _ _ ▸ ⟨decide_eq_true ho, decide_eq_true hk⟩
    · exact clean_cons (z := (0, 1)) h3 (clean_cons (z := (2, 3)) (zs := []) h4 rfl)
    · show some (Instr.unlock _ _ _ _) = _
      simp only [hs, h0, h1, h2]
theorem stashMap (gr : Grp) (d : BitVec 6) (a : BitVec 6) (b : BitVec 6) : Statement (.stashMap gr d a b) := by
  obtain ⟨ho, hs, hk, h0, h1, h2, h3⟩ := word60 0x80 d a b gr.sw (by decide) (encodeBase (.stashMap gr d a b)) rfl
  refine ⟨ho, hs, ?_, fun h => absurd h (by decide)⟩
  · refine (decodeBase_row (r := rows3[6]'(Nat.lt_of_lt_of_eq (by decide) rows3_length.symm)) gr (rows3_mem (List.getElem_mem _)) ?_ ?_).trans ?_
    · exact Bool.and_eq_true _ _ ▸ ⟨decide_eq_true ho, decide_eq_true hk⟩
    · exact clean_cons (z := (1, 4)) (zs := []) h3 rfl
    · show some (Instr.stashMap _ _ _ _) = _
      simp only [hs, h0, h1, h2]
theorem stashUnmap (gr : Grp) (a : BitVec 6) : Statement (.stashUnmap gr a) := by
  obtain ⟨ho, hs, hk, h0, h1, h2⟩ := word61 0x80 1 a gr.sw (by decide) (by decide) (encodeBase (.stashUnmap gr a)) rfl
  refine ⟨ho, hs, ?_, fun h => absurd h (by decide)⟩
  · refine (decodeBase_row (r := rows3[7]'(Nat.lt_of_lt_of_eq (by decide) rows3_length.symm)) gr (rows3_mem (List.getElem_mem _)) ?_ ?_).trans ?_
    · exact Bool.and_eq_true _ _ ▸ ⟨decide_eq_true ho, decide_eq_true hk⟩
    · exact clean_cons (z := (1, 10)) h1 (clean_cons (z := (17, 6)) (zs := []) h2 rfl)
    · show some (Instr.stashUnmap _ _) = _
      simp only [hs, h0]
theorem ldp (gr : Grp) (v : BitVec 6) (b : BitVec 6) (i : BitVec 6) (t : BitVec 3) (x : BitVec 1) : Statement (.ldp gr v b i t x) := by
  obtain ⟨ho, hs, hk, h0, h1, h2, h3, h4, h5⟩ := word62 0x81 v b i t x gr.sw (by decide) (encodeBase (.ldp gr v b i t x)) rfl
  refine ⟨ho, hs, ?_, fun h => absurd h (by decide)⟩
  · refine (decodeBase_row (r := rows3[8]'(Nat.lt_of_lt_of_eq (by decide) rows3_length.symm)) gr (rows3_mem (List.getElem_mem _)) ?_ ?_).trans ?_
    · exact Bool.and_eq_true _ _ ▸ ⟨decide_eq_true ho, decide_eq_true hk⟩
    · exact clean_cons (z := (0, 1)) (zs := []) h5 rfl
    · show some (Instr.ldp _ _ _ _ _ _) = _
      simp only [hs, h0, h1, h2, h3, h4]
theorem stp (gr : Grp) (v : BitVec 6) (b : BitVec 6) (i : BitVec 6) (t : BitVec 3) (x : BitVec 1) : Statement (.stp gr v b i t x) := by
  obtain ⟨ho, hs, hk, h0, h1, h2, h3, h4, h5⟩ := word62 0x82 v b i t x gr.sw (by decide) (encodeBase (.stp gr v b i t x)) rfl
  refine ⟨ho, hs, ?_, fun h => absurd h (by decide)⟩
  · refine (decodeBase_row (r := rows3[9]'(Nat.lt_of_lt_of_eq (by decide) rows3_length.symm)) gr (rows3_mem (List.getElem_mem _)) ?_ ?_).trans ?_
    · exact Bool.and_eq_true _ _ ▸ ⟨decide_eq_true ho, decide_eq_true hk⟩
    · exact clean_cons (z := (0, 1)) (zs := []) h5 rfl
    · show some (Instr.stp _ _ _ _ _ _) = _
      simp only [hs, h0, h1, h2, h3, h4]
theorem acopy (gr : Grp) (d : BitVec 6) (a : BitVec 6) (b : BitVec 6) : Statement (.acopy gr d a b) := by
  obtain ⟨ho, hs, hk, h0, h1, h2, h3⟩ := word26 0x90 d a b gr.sw (by decide) (encodeBase (.acopy gr d a b)) rfl
  refine ⟨ho, hs, ?_, fun h => absurd h (by decide)⟩
  · refine (decodeBase_row (r := rows3[10]'(Nat.lt_of_lt_of_eq (by decide) rows3_length.symm)) gr (rows3_mem (List.getElem_mem _)) ?_ ?_).trans ?_
    · exact Bool.and_eq_true _ _ ▸ ⟨decide_eq_true ho, decide_eq_true hk⟩
    · exact clean_cons (z := (0, 5)) (zs := []) h3 rfl
    · show some (Instr.acopy _ _ _ _) = _
      simp only [hs, h0, h1, h2]
theorem axform (gr : Grp) (d : BitVec 6) (a : BitVec 6) (b : BitVec 6) : Statement (.axform gr d a b) := by
  obtain ⟨ho, hs, hk, h0, h1, h2, h3⟩ := word26 0x91 d a b gr.sw (by decide) (encodeBase (.axform gr d a b)) rfl
  refine ⟨ho, hs, ?_, fun h => absurd h (by decide)⟩
  · refine (decodeBase_row (r := rows3[11]'(Nat.lt_of_lt_of_eq (by decide) rows3_length.symm)) gr (rows3_mem (List.getElem_mem _)) ?_ ?_).trans ?_
    · exact Bool.and_eq_true _ _ ▸ ⟨decide_eq_true ho, decide_eq_true hk⟩
    · exact clean_cons (z := (0, 5)) (zs := []) h3 rfl
    · show some (Instr.axform _ _ _ _) = _
      simp only [hs, h0, h1, h2]
theorem agather (gr : Grp) (d : BitVec 6) (a : BitVec 6) (b : BitVec 6) : Statement (.agather gr d a b) := by
  obtain ⟨ho, hs, hk, h0, h1, h2, h3⟩ := word26 0x92 d a b gr.sw (by decide) (encodeBase (.agather gr d a b)) rfl
  refine ⟨ho, hs, ?_, fun h => absurd h (by decide)⟩
  · refine (decodeBase_row (r := rows3[12]'(Nat.lt_of_lt_of_eq (by decide) rows3_length.symm)) gr (rows3_mem (List.getElem_mem _)) ?_ ?_).trans ?_
    · exact Bool.and_eq_true _ _ ▸ ⟨decide_eq_true ho, decide_eq_true hk⟩
    · exact clean_cons (z := (0, 5)) (zs := []) h3 rfl
    · show some (Instr.agather _ _ _ _) = _
      simp only [hs, h0, h1, h2]
theorem bclose (gr : Grp) : Statement (.bclose gr) := by
  obtain ⟨ho, hs, hk, h0⟩ := word43 0x93  gr.sw (by decide) (encodeBase (.bclose gr)) rfl
  refine ⟨ho, hs, ?_, fun h => absurd h (by decide)⟩
  · refine (decodeBase_row (r := rows3[13]'(Nat.lt_of_lt_of_eq (by decide) rows3_length.symm)) gr (rows3_mem (List.getElem_mem _)) ?_ ?_).trans ?_
    · exact Bool.and_eq_true _ _ ▸ ⟨decide_eq_true ho, decide_eq_true hk⟩
    · exact clean_cons (z := (0, 23)) (zs := []) h0 rfl
    · show some (Instr.bclose _) = _
      simp only [hs]
theorem waitb (gr : Grp) (n : BitVec 4) : Statement (.waitb gr n) := by
  obtain ⟨ho, hs, hk, h0, h1⟩ := word63 0x94 n gr.sw (by decide) (encodeBase (.waitb gr n)) rfl
  refine ⟨ho, hs, ?_, fun h => absurd h (by decide)⟩
  · refine (decodeBase_row (r := rows3[14]'(Nat.lt_of_lt_of_eq (by decide) rows3_length.symm)) gr (rows3_mem (List.getElem_mem _)) ?_ ?_).trans ?_
    · exact Bool.and_eq_true _ _ ▸ ⟨decide_eq_true ho, decide_eq_true hk⟩
    · exact clean_cons (z := (4, 19)) (zs := []) h1 rfl
    · show some (Instr.waitb _ _) = _
      simp only [hs, h0]
theorem hwaitFull (gr : Grp) (h : BitVec 5) : Statement (.hwaitFull gr h) := by
  obtain ⟨ho, hs, hk, h0, h1⟩ := word64 0x95 h gr.sw (by decide) (encodeBase (.hwaitFull gr h)) rfl
  refine ⟨ho, hs, ?_, fun h => absurd h (by decide)⟩
  · refine (decodeBase_row (r := rows3[15]'(Nat.lt_of_lt_of_eq (by decide) rows3_length.symm)) gr (rows3_mem (List.getElem_mem _)) ?_ ?_).trans ?_
    · exact Bool.and_eq_true _ _ ▸ ⟨decide_eq_true ho, decide_eq_true hk⟩
    · exact clean_cons (z := (6, 17)) (zs := []) h1 rfl
    · show some (Instr.hwaitFull _ _) = _
      simp only [hs, h0]
theorem hwaitFree (gr : Grp) (h : BitVec 5) : Statement (.hwaitFree gr h) := by
  obtain ⟨ho, hs, hk, h0, h1⟩ := word65 0x95 1 h gr.sw (by decide) (by decide) (encodeBase (.hwaitFree gr h)) rfl
  refine ⟨ho, hs, ?_, fun h => absurd h (by decide)⟩
  · refine (decodeBase_row (r := rows3[16]'(Nat.lt_of_lt_of_eq (by decide) rows3_length.symm)) gr (rows3_mem (List.getElem_mem _)) ?_ ?_).trans ?_
    · exact Bool.and_eq_true _ _ ▸ ⟨decide_eq_true ho, decide_eq_true hk⟩
    · exact clean_cons (z := (6, 17)) (zs := []) h1 rfl
    · show some (Instr.hwaitFree _ _) = _
      simp only [hs, h0]
theorem hsetDrain (gr : Grp) (h : BitVec 5) : Statement (.hsetDrain gr h) := by
  obtain ⟨ho, hs, hk, h0, h1⟩ := word64 0x96 h gr.sw (by decide) (encodeBase (.hsetDrain gr h)) rfl
  refine ⟨ho, hs, ?_, fun h => absurd h (by decide)⟩
  · refine (decodeBase_row (r := rows3[17]'(Nat.lt_of_lt_of_eq (by decide) rows3_length.symm)) gr (rows3_mem (List.getElem_mem _)) ?_ ?_).trans ?_
    · exact Bool.and_eq_true _ _ ▸ ⟨decide_eq_true ho, decide_eq_true hk⟩
    · exact clean_cons (z := (6, 17)) (zs := []) h1 rfl
    · show some (Instr.hsetDrain _ _) = _
      simp only [hs, h0]
theorem hsetFree (gr : Grp) (h : BitVec 5) : Statement (.hsetFree gr h) := by
  obtain ⟨ho, hs, hk, h0, h1⟩ := word65 0x96 1 h gr.sw (by decide) (by decide) (encodeBase (.hsetFree gr h)) rfl
  refine ⟨ho, hs, ?_, fun h => absurd h (by decide)⟩
  · refine (decodeBase_row (r := rows3[18]'(Nat.lt_of_lt_of_eq (by decide) rows3_length.symm)) gr (rows3_mem (List.getElem_mem _)) ?_ ?_).trans ?_
    · exact Bool.and_eq_true _ _ ▸ ⟨decide_eq_true ho, decide_eq_true hk⟩
    · exact clean_cons (z := (6, 17)) (zs := []) h1 rfl
    · show some (Instr.hsetFree _ _) = _
      simp only [hs, h0]
theorem wptr (gr : Grp) (d : BitVec 6) (h : BitVec 5) : Statement (.wptr gr d h) := by
  obtain ⟨ho, hs, hk, h0, h1, h2⟩ := word18 0x97 d h gr.sw (by decide) (encodeBase (.wptr gr d h)) rfl
  refine ⟨ho, hs, ?_, fun h => absurd h (by decide)⟩
  · refine (decodeBase_row (r := rows3[19]'(Nat.lt_of_lt_of_eq (by decide) rows3_length.symm)) gr (rows3_mem (List.getElem_mem _)) ?_ ?_).trans ?_
    · exact Bool.and_eq_true _ _ ▸ ⟨decide_eq_true ho, decide_eq_true hk⟩
    · exact clean_cons (z := (5, 12)) (zs := []) h2 rfl
    · show some (Instr.wptr _ _ _) = _
      simp only [hs, h0, h1]
theorem bar (gr : Grp) : Statement (.bar gr) := by
  obtain ⟨ho, hs, hk, h0⟩ := word43 0x98  gr.sw (by decide) (encodeBase (.bar gr)) rfl
  refine ⟨ho, hs, ?_, fun h => absurd h (by decide)⟩
  · refine (decodeBase_row (r := rows3[20]'(Nat.lt_of_lt_of_eq (by decide) rows3_length.symm)) gr (rows3_mem (List.getElem_mem _)) ?_ ?_).trans ?_
    · exact Bool.and_eq_true _ _ ▸ ⟨decide_eq_true ho, decide_eq_true hk⟩
    · exact clean_cons (z := (0, 23)) (zs := []) h0 rfl
    · show some (Instr.bar _) = _
      simp only [hs]
theorem cbar (gr : Grp) : Statement (.cbar gr) := by
  obtain ⟨ho, hs, hk, h0⟩ := word43 0x99  gr.sw (by decide) (encodeBase (.cbar gr)) rfl
  refine ⟨ho, hs, ?_, fun h => absurd h (by decide)⟩
  · refine (decodeBase_row (r := rows3[21]'(Nat.lt_of_lt_of_eq (by decide) rows3_length.symm)) gr (rows3_mem (List.getElem_mem _)) ?_ ?_).trans ?_
    · exact Bool.and_eq_true _ _ ▸ ⟨decide_eq_true ho, decide_eq_true hk⟩
    · exact clean_cons (z := (0, 23)) (zs := []) h0 rfl
    · show some (Instr.cbar _) = _
      simp only [hs]
theorem nbar (gr : Grp) (count : BitVec 10) (coreScope : BitVec 1) (id : BitVec 4) : Statement (.nbar gr count coreScope id) := by
  obtain ⟨ho, hs, hk, h0, h1, h2, h3⟩ := word66 0x9A count coreScope id gr.sw (by decide) (encodeBase (.nbar gr count coreScope id)) rfl
  refine ⟨ho, hs, ?_, fun h => absurd h (by decide)⟩
  · refine (decodeBase_row (r := rows3[22]'(Nat.lt_of_lt_of_eq (by decide) rows3_length.symm)) gr (rows3_mem (List.getElem_mem _)) ?_ ?_).trans ?_
    · exact Bool.and_eq_true _ _ ▸ ⟨decide_eq_true ho, decide_eq_true hk⟩
    · exact clean_cons (z := (15, 8)) (zs := []) h3 rfl
    · show some (Instr.nbar _ _ _ _) = _
      simp only [hs, h0, h1, h2]
theorem signal (gr : Grp) (a : BitVec 6) (b : BitVec 6) (o : BitVec 2) : Statement (.signal gr a b o) := by
  obtain ⟨ho, hs, hk, h0, h1, h2, h3, h4⟩ := word67 0x9B a b o gr.sw (by decide) (encodeBase (.signal gr a b o)) rfl
  refine ⟨ho, hs, ?_, fun h => absurd h (by decide)⟩
  · refine (decodeBase_row (r := rows3[23]'(Nat.lt_of_lt_of_eq (by decide) rows3_length.symm)) gr (rows3_mem (List.getElem_mem _)) ?_ ?_).trans ?_
    · exact Bool.and_eq_true _ _ ▸ ⟨decide_eq_true ho, decide_eq_true hk⟩
    · exact clean_cons (z := (2, 3)) h3 (clean_cons (z := (17, 6)) (zs := []) h4 rfl)
    · show some (Instr.signal _ _ _ _) = _
      simp only [hs, h0, h1, h2]
theorem softintQ (gr : Grp) (a : BitVec 6) (b : BitVec 6) : Statement (.softintQ gr a b) := by
  obtain ⟨ho, hs, hk, h0, h1, h2, h3⟩ := word68 0x9C a b gr.sw (by decide) (encodeBase (.softintQ gr a b)) rfl
  refine ⟨ho, hs, ?_, fun h => absurd h (by decide)⟩
  · refine (decodeBase_row (r := rows3[24]'(Nat.lt_of_lt_of_eq (by decide) rows3_length.symm)) gr (rows3_mem (List.getElem_mem _)) ?_ ?_).trans ?_
    · exact Bool.and_eq_true _ _ ▸ ⟨decide_eq_true ho, decide_eq_true hk⟩
    · exact clean_cons (z := (1, 4)) h2 (clean_cons (z := (17, 6)) (zs := []) h3 rfl)
    · show some (Instr.softintQ _ _ _) = _
      simp only [hs, h0, h1]
theorem softintM (gr : Grp) (b : BitVec 6) : Statement (.softintM gr b) := by
  obtain ⟨ho, hs, hk, h0, h1, h2⟩ := word69 0x9C 1 b gr.sw (by decide) (by decide) (encodeBase (.softintM gr b)) rfl
  refine ⟨ho, hs, ?_, fun h => absurd h (by decide)⟩
  · refine (decodeBase_row (r := rows3[25]'(Nat.lt_of_lt_of_eq (by decide) rows3_length.symm)) gr (rows3_mem (List.getElem_mem _)) ?_ ?_).trans ?_
    · exact Bool.and_eq_true _ _ ▸ ⟨decide_eq_true ho, decide_eq_true hk⟩
    · exact clean_cons (z := (1, 4)) h1 (clean_cons (z := (11, 12)) (zs := []) h2 rfl)
    · show some (Instr.softintM _ _) = _
      simp only [hs, h0]
theorem waits (gr : Grp) (d : BitVec 6) (a : BitVec 6) (b : BitVec 6) (c : BitVec 2) : Statement (.waits gr d a b c) := by
  obtain ⟨ho, hs, hk, h0, h1, h2, h3, h4⟩ := word27 0x9D d a b c gr.sw (by decide) (encodeBase (.waits gr d a b c)) rfl
  refine ⟨ho, hs, ?_, fun h => absurd h (by decide)⟩
  · refine (decodeBase_row (r := rows3[26]'(Nat.lt_of_lt_of_eq (by decide) rows3_length.symm)) gr (rows3_mem (List.getElem_mem _)) ?_ ?_).trans ?_
    · exact Bool.and_eq_true _ _ ▸ ⟨decide_eq_true ho, decide_eq_true hk⟩
    · exact clean_cons (z := (2, 3)) (zs := []) h4 rfl
    · show some (Instr.waits _ _ _ _ _) = _
      simp only [hs, h0, h1, h2, h3]
theorem mjob (gr : Grp) (a : BitVec 6) : Statement (.mjob gr a) := by
  obtain ⟨ho, hs, hk, h0, h1, h2⟩ := word70 0xA0 a gr.sw (by decide) (encodeBase (.mjob gr a)) rfl
  refine ⟨ho, hs, ?_, fun h => absurd h (by decide)⟩
  · refine (decodeBase_row (r := rows3[27]'(Nat.lt_of_lt_of_eq (by decide) rows3_length.symm)) gr (rows3_mem (List.getElem_mem _)) ?_ ?_).trans ?_
    · exact Bool.and_eq_true _ _ ▸ ⟨decide_eq_true ho, decide_eq_true hk⟩
    · exact clean_cons (z := (0, 11)) h1 (clean_cons (z := (17, 6)) (zs := []) h2 rfl)
    · show some (Instr.mjob _ _) = _
      simp only [hs, h0]
theorem mwait (gr : Grp) (m : BitVec 8) : Statement (.mwait gr m) := by
  obtain ⟨ho, hs, hk, h0, h1⟩ := word71 0xA1 m gr.sw (by decide) (encodeBase (.mwait gr m)) rfl
  refine ⟨ho, hs, ?_, fun h => absurd h (by decide)⟩
  · refine (decodeBase_row (r := rows3[28]'(Nat.lt_of_lt_of_eq (by decide) rows3_length.symm)) gr (rows3_mem (List.getElem_mem _)) ?_ ?_).trans ?_
    · exact Bool.and_eq_true _ _ ▸ ⟨decide_eq_true ho, decide_eq_true hk⟩
    · exact clean_cons (z := (9, 14)) (zs := []) h1 rfl
    · show some (Instr.mwait _ _) = _
      simp only [hs, h0]
theorem mwaitAll (gr : Grp) : Statement (.mwaitAll gr) := by
  obtain ⟨ho, hs, hk, h0, h1⟩ := word72 0xA1 1  gr.sw (by decide) (by decide) (encodeBase (.mwaitAll gr)) rfl
  refine ⟨ho, hs, ?_, fun h => absurd h (by decide)⟩
  · refine (decodeBase_row (r := rows3[29]'(Nat.lt_of_lt_of_eq (by decide) rows3_length.symm)) gr (rows3_mem (List.getElem_mem _)) ?_ ?_).trans ?_
    · exact Bool.and_eq_true _ _ ▸ ⟨decide_eq_true ho, decide_eq_true hk⟩
    · exact clean_cons (z := (0, 8)) h0 (clean_cons (z := (9, 14)) (zs := []) h1 rfl)
    · show some (Instr.mwaitAll _) = _
      simp only [hs]
theorem mzero (gr : Grp) (m : BitVec 8) : Statement (.mzero gr m) := by
  obtain ⟨ho, hs, hk, h0, h1⟩ := word73 0xA2 m gr.sw (by decide) (encodeBase (.mzero gr m)) rfl
  refine ⟨ho, hs, ?_, fun h => absurd h (by decide)⟩
  · refine (decodeBase_row (r := rows3[30]'(Nat.lt_of_lt_of_eq (by decide) rows3_length.symm)) gr (rows3_mem (List.getElem_mem _)) ?_ ?_).trans ?_
    · exact Bool.and_eq_true _ _ ▸ ⟨decide_eq_true ho, decide_eq_true hk⟩
    · exact clean_cons (z := (8, 15)) (zs := []) h1 rfl
    · show some (Instr.mzero _ _) = _
      simp only [hs, h0]
theorem mldaTile (gr : Grp) (d : BitVec 3) (a : BitVec 3) : Statement (.mldaTile gr d a) := by
  obtain ⟨ho, hs, hk, h0, h1, h2, h3, h4⟩ := word74 0xA3 d a gr.sw (by decide) (encodeBase (.mldaTile gr d a)) rfl
  refine ⟨ho, hs, ?_, fun h => absurd h (by decide)⟩
  · refine (decodeBase_row (r := rows3[31]'(Nat.lt_of_lt_of_eq (by decide) rows3_length.symm)) gr (rows3_mem (List.getElem_mem _)) ?_ ?_).trans ?_
    · exact Bool.and_eq_true _ _ ▸ ⟨decide_eq_true ho, decide_eq_true hk⟩
    · exact clean_cons (z := (1, 10)) h2 (clean_cons (z := (14, 3)) h3 (clean_cons (z := (20, 3)) (zs := []) h4 rfl))
    · show some (Instr.mldaTile _ _ _) = _
      simp only [hs, h0, h1]
theorem mldaGlobal (gr : Grp) (d : BitVec 3) (a : BitVec 6) (c : BitVec 2) : Statement (.mldaGlobal gr d a c) := by
  obtain ⟨ho, hs, hk, h0, h1, h2, h3, h4⟩ := word75 0xA3 1 d a c gr.sw (by decide) (by decide) (encodeBase (.mldaGlobal gr d a c)) rfl
  refine ⟨ho, hs, ?_, fun h => absurd h (by decide)⟩
  · refine (decodeBase_row (r := rows3[32]'(Nat.lt_of_lt_of_eq (by decide) rows3_length.symm)) gr (rows3_mem (List.getElem_mem _)) ?_ ?_).trans ?_
    · exact Bool.and_eq_true _ _ ▸ ⟨decide_eq_true ho, decide_eq_true hk⟩
    · exact clean_cons (z := (3, 8)) h3 (clean_cons (z := (20, 3)) (zs := []) h4 rfl)
    · show some (Instr.mldaGlobal _ _ _ _) = _
      simp only [hs, h0, h1, h2]
theorem mstaTile (gr : Grp) (d : BitVec 3) (a : BitVec 3) (b : BitVec 6) (n : BitVec 1) : Statement (.mstaTile gr d a b n) := by
  obtain ⟨ho, hs, hk, h0, h1, h2, h3, h4, h5, h6⟩ := word76 0xA4 d a b n gr.sw (by decide) (encodeBase (.mstaTile gr d a b n)) rfl
  refine ⟨ho, hs, ?_, fun h => absurd h (by decide)⟩
  · refine (decodeBase_row (r := rows3[33]'(Nat.lt_of_lt_of_eq (by decide) rows3_length.symm)) gr (rows3_mem (List.getElem_mem _)) ?_ ?_).trans ?_
    · exact Bool.and_eq_true _ _ ▸ ⟨decide_eq_true ho, decide_eq_true hk⟩
    · exact clean_cons (z := (1, 3)) h4 (clean_cons (z := (14, 3)) h5 (clean_cons (z := (20, 3)) (zs := []) h6 rfl))
    · show some (Instr.mstaTile _ _ _ _ _) = _
      simp only [hs, h0, h1, h2, h3]
theorem mstaGlobal (gr : Grp) (d : BitVec 6) (a : BitVec 3) (b : BitVec 6) (n : BitVec 1) (c : BitVec 3) : Statement (.mstaGlobal gr d a b n c) := by
  obtain ⟨ho, hs, hk, h0, h1, h2, h3, h4, h5⟩ := word77 0xA4 1 d a b n c gr.sw (by decide) (by decide) (encodeBase (.mstaGlobal gr d a b n c)) rfl
  refine ⟨ho, hs, ?_, fun h => absurd h (by decide)⟩
  · refine (decodeBase_row (r := rows3[34]'(Nat.lt_of_lt_of_eq (by decide) rows3_length.symm)) gr (rows3_mem (List.getElem_mem _)) ?_ ?_).trans ?_
    · exact Bool.and_eq_true _ _ ▸ ⟨decide_eq_true ho, decide_eq_true hk⟩
    · exact clean_cons (z := (14, 3)) (zs := []) h5 rfl
    · show some (Instr.mstaGlobal _ _ _ _ _ _) = _
      simp only [hs, h0, h1, h2, h3, h4]
theorem mstreamSub (gr : Grp) (a : BitVec 6) : Statement (.mstreamSub gr a) := by
  obtain ⟨ho, hs, hk, h0, h1, h2⟩ := word78 0xA5 a gr.sw (by decide) (encodeBase (.mstreamSub gr a)) rfl
  refine ⟨ho, hs, ?_, fun h => absurd h (by decide)⟩
  · refine (decodeBase_row (r := rows3[35]'(Nat.lt_of_lt_of_eq (by decide) rows3_length.symm)) gr (rows3_mem (List.getElem_mem _)) ?_ ?_).trans ?_
    · exact Bool.and_eq_true _ _ ▸ ⟨decide_eq_true ho, decide_eq_true hk⟩
    · exact clean_cons (z := (1, 10)) h1 (clean_cons (z := (17, 6)) (zs := []) h2 rfl)
    · show some (Instr.mstreamSub _ _) = _
      simp only [hs, h0]
theorem mstreamUnsub (gr : Grp) (a : BitVec 6) : Statement (.mstreamUnsub gr a) := by
  obtain ⟨ho, hs, hk, h0, h1, h2⟩ := word61 0xA5 1 a gr.sw (by decide) (by decide) (encodeBase (.mstreamUnsub gr a)) rfl
  refine ⟨ho, hs, ?_, fun h => absurd h (by decide)⟩
  · refine (decodeBase_row (r := rows3[36]'(Nat.lt_of_lt_of_eq (by decide) rows3_length.symm)) gr (rows3_mem (List.getElem_mem _)) ?_ ?_).trans ?_
    · exact Bool.and_eq_true _ _ ▸ ⟨decide_eq_true ho, decide_eq_true hk⟩
    · exact clean_cons (z := (1, 10)) h1 (clean_cons (z := (17, 6)) (zs := []) h2 rfl)
    · show some (Instr.mstreamUnsub _ _) = _
      simp only [hs, h0]
theorem visemit (gr : Grp) (d : BitVec 6) (a : BitVec 6) (lka : BitVec 2) (b : BitVec 6) : Statement (.visemit gr d a lka b) := by
  obtain ⟨ho, hs, hk, h0, h1, h2, h3, h4⟩ := word79 0xA8 1 d a lka b gr.sw (by decide) (by decide) (encodeBase (.visemit gr d a lka b)) rfl
  refine ⟨ho, hs, ?_, fun h => absurd h (by decide)⟩
  · refine (decodeBase_row (r := rows3[37]'(Nat.lt_of_lt_of_eq (by decide) rows3_length.symm)) gr (rows3_mem (List.getElem_mem _)) ?_ ?_).trans ?_
    · exact Bool.and_eq_true _ _ ▸ ⟨decide_eq_true ho, decide_eq_true hk⟩
    · exact clean_cons (z := (1, 2)) (zs := []) h4 rfl
    · show some (Instr.visemit _ _ _ _ _) = _
      simp only [hs, h0, h1, h2, h3]
theorem ldcl (gr : Grp) (v : BitVec 6) (b : BitVec 6) (i : BitVec 6) (t : BitVec 3) (f : BitVec 1) : Statement (.ldcl gr v b i t f) := by
  obtain ⟨ho, hs, hk, h0, h1, h2, h3, h4, h5⟩ := word62 0xA9 v b i t f gr.sw (by decide) (encodeBase (.ldcl gr v b i t f)) rfl
  refine ⟨ho, hs, ?_, fun h => absurd h (by decide)⟩
  · refine (decodeBase_row (r := rows3[38]'(Nat.lt_of_lt_of_eq (by decide) rows3_length.symm)) gr (rows3_mem (List.getElem_mem _)) ?_ ?_).trans ?_
    · exact Bool.and_eq_true _ _ ▸ ⟨decide_eq_true ho, decide_eq_true hk⟩
    · exact clean_cons (z := (0, 1)) (zs := []) h5 rfl
    · show some (Instr.ldcl _ _ _ _ _ _) = _
      simp only [hs, h0, h1, h2, h3, h4]
theorem tex (gr : Grp) (d : BitVec 6) (a : BitVec 6) (lka : BitVec 2) (b : BitVec 6) : Statement (.tex gr d a lka b) := by
  obtain ⟨ho, hs, hk, h0, h1, h2, h3, h4⟩ := word79 0xAA 1 d a lka b gr.sw (by decide) (by decide) (encodeBase (.tex gr d a lka b)) rfl
  refine ⟨ho, hs, ?_, fun h => absurd h (by decide)⟩
  · refine (decodeBase_row (r := rows3[39]'(Nat.lt_of_lt_of_eq (by decide) rows3_length.symm)) gr (rows3_mem (List.getElem_mem _)) ?_ ?_).trans ?_
    · exact Bool.and_eq_true _ _ ▸ ⟨decide_eq_true ho, decide_eq_true hk⟩
    · exact clean_cons (z := (1, 2)) (zs := []) h4 rfl
    · show some (Instr.tex _ _ _ _ _) = _
      simp only [hs, h0, h1, h2, h3]
theorem texfb (gr : Grp) (d : BitVec 6) (a : BitVec 6) (lka : BitVec 2) (b : BitVec 6) : Statement (.texfb gr d a lka b) := by
  obtain ⟨ho, hs, hk, h0, h1, h2, h3, h4⟩ := word79 0xAB 1 d a lka b gr.sw (by decide) (by decide) (encodeBase (.texfb gr d a lka b)) rfl
  refine ⟨ho, hs, ?_, fun h => absurd h (by decide)⟩
  · refine (decodeBase_row (r := rows4[0]'(Nat.lt_of_lt_of_eq (by decide) rows4_length.symm)) gr (rows4_mem (List.getElem_mem _)) ?_ ?_).trans ?_
    · exact Bool.and_eq_true _ _ ▸ ⟨decide_eq_true ho, decide_eq_true hk⟩
    · exact clean_cons (z := (1, 2)) (zs := []) h4 rfl
    · show some (Instr.texfb _ _ _ _ _) = _
      simp only [hs, h0, h1, h2, h3]
theorem rtrace (gr : Grp) (d : BitVec 6) (a : BitVec 6) (lka : BitVec 2) (b : BitVec 6) : Statement (.rtrace gr d a lka b) := by
  obtain ⟨ho, hs, hk, h0, h1, h2, h3, h4⟩ := word79 0xAC 1 d a lka b gr.sw (by decide) (by decide) (encodeBase (.rtrace gr d a lka b)) rfl
  refine ⟨ho, hs, ?_, fun h => absurd h (by decide)⟩
  · refine (decodeBase_row (r := rows4[1]'(Nat.lt_of_lt_of_eq (by decide) rows4_length.symm)) gr (rows4_mem (List.getElem_mem _)) ?_ ?_).trans ?_
    · exact Bool.and_eq_true _ _ ▸ ⟨decide_eq_true ho, decide_eq_true hk⟩
    · exact clean_cons (z := (1, 2)) (zs := []) h4 rfl
    · show some (Instr.rtrace _ _ _ _ _) = _
      simp only [hs, h0, h1, h2, h3]
theorem rquery (gr : Grp) (d : BitVec 6) (a : BitVec 6) (lka : BitVec 2) (b : BitVec 6) : Statement (.rquery gr d a lka b) := by
  obtain ⟨ho, hs, hk, h0, h1, h2, h3, h4⟩ := word79 0xAD 1 d a lka b gr.sw (by decide) (by decide) (encodeBase (.rquery gr d a lka b)) rfl
  refine ⟨ho, hs, ?_, fun h => absurd h (by decide)⟩
  · refine (decodeBase_row (r := rows4[2]'(Nat.lt_of_lt_of_eq (by decide) rows4_length.symm)) gr (rows4_mem (List.getElem_mem _)) ?_ ?_).trans ?_
    · exact Bool.and_eq_true _ _ ▸ ⟨decide_eq_true ho, decide_eq_true hk⟩
    · exact clean_cons (z := (1, 2)) (zs := []) h4 rfl
    · show some (Instr.rquery _ _ _ _ _) = _
      simp only [hs, h0, h1, h2, h3]
theorem rtcont (gr : Grp) (d : BitVec 6) (o : BitVec 2) : Statement (.rtcont gr d o) := by
  obtain ⟨ho, hs, hk, h0, h1, h2⟩ := word80 0xAE d o gr.sw (by decide) (encodeBase (.rtcont gr d o)) rfl
  refine ⟨ho, hs, ?_, fun h => absurd h (by decide)⟩
  · refine (decodeBase_row (r := rows4[3]'(Nat.lt_of_lt_of_eq (by decide) rows4_length.symm)) gr (rows4_mem (List.getElem_mem _)) ?_ ?_).trans ?_
    · exact Bool.and_eq_true _ _ ▸ ⟨decide_eq_true ho, decide_eq_true hk⟩
    · exact clean_cons (z := (2, 15)) (zs := []) h2 rfl
    · show some (Instr.rtcont _ _ _) = _
      simp only [hs, h0, h1]
theorem hsort (gr : Grp) (d : BitVec 6) (a : BitVec 6) (lka : BitVec 2) : Statement (.hsort gr d a lka) := by
  obtain ⟨ho, hs, hk, h0, h1, h2, h3⟩ := word1 0xAF d a lka gr.sw (by decide) (encodeBase (.hsort gr d a lka)) rfl
  refine ⟨ho, hs, ?_, fun h => absurd h (by decide)⟩
  · refine (decodeBase_row (r := rows4[4]'(Nat.lt_of_lt_of_eq (by decide) rows4_length.symm)) gr (rows4_mem (List.getElem_mem _)) ?_ ?_).trans ?_
    · exact Bool.and_eq_true _ _ ▸ ⟨decide_eq_true ho, decide_eq_true hk⟩
    · exact clean_cons (z := (0, 9)) (zs := []) h3 rfl
    · show some (Instr.hsort _ _ _ _) = _
      simp only [hs, h0, h1, h2]
theorem rpix (gr : Grp) (op : BitVec 3) (tgt : BitVec 2) (a : BitVec 6) (lka : BitVec 2) (b : BitVec 6) (lkb : BitVec 2) : Statement (.rpix gr op tgt a lka b lkb) := by
  obtain ⟨ho, hs, hk, h0, h1, h2, h3, h4, h5, h6, h7⟩ := word81 0xB0 op tgt a lka b lkb gr.sw (by decide) (encodeBase (.rpix gr op tgt a lka b lkb)) rfl
  refine ⟨ho, hs, ?_, fun h => absurd h (by decide)⟩
  · refine (decodeBase_row (r := rows4[5]'(Nat.lt_of_lt_of_eq (by decide) rows4_length.symm)) gr (rows4_mem (List.getElem_mem _)) ?_ ?_).trans ?_
    · exact Bool.and_eq_true _ _ ▸ ⟨decide_eq_true ho, decide_eq_true hk⟩
    · exact clean_cons (z := (0, 1)) h6 (clean_cons (z := (22, 1)) (zs := []) h7 rfl)
    · show some (Instr.rpix _ _ _ _ _ _ _) = _
      simp only [hs, h0, h1, h2, h3, h4, h5]
theorem visrd (gr : Grp) (d : BitVec 6) (smp : BitVec 2) : Statement (.visrd gr d smp) := by
  obtain ⟨ho, hs, hk, h0, h1, h2⟩ := word82 0xB1 d smp gr.sw (by decide) (encodeBase (.visrd gr d smp)) rfl
  refine ⟨ho, hs, ?_, fun h => absurd h (by decide)⟩
  · refine (decodeBase_row (r := rows4[6]'(Nat.lt_of_lt_of_eq (by decide) rows4_length.symm)) gr (rows4_mem (List.getElem_mem _)) ?_ ?_).trans ?_
    · exact Bool.and_eq_true _ _ ▸ ⟨decide_eq_true ho, decide_eq_true hk⟩
    · exact clean_cons (z := (3, 14)) (zs := []) h2 rfl
    · show some (Instr.visrd _ _ _) = _
      simp only [hs, h0, h1]
theorem visrdPix (gr : Grp) (d : BitVec 6) (a : BitVec 6) (lka : BitVec 2) (smp : BitVec 2) : Statement (.visrdPix gr d a lka smp) := by
  obtain ⟨ho, hs, hk, h0, h1, h2, h3, h4⟩ := word83 0xB1 1 d a lka smp gr.sw (by decide) (by decide) (encodeBase (.visrdPix gr d a lka smp)) rfl
  refine ⟨ho, hs, ?_, fun h => absurd h (by decide)⟩
  · refine (decodeBase_row (r := rows4[7]'(Nat.lt_of_lt_of_eq (by decide) rows4_length.symm)) gr (rows4_mem (List.getElem_mem _)) ?_ ?_).trans ?_
    · exact Bool.and_eq_true _ _ ▸ ⟨decide_eq_true ho, decide_eq_true hk⟩
    · exact clean_cons (z := (3, 6)) (zs := []) h4 rfl
    · show some (Instr.visrdPix _ _ _ _ _) = _
      simp only [hs, h0, h1, h2, h3]
theorem cpost (gr : Grp) (a : BitVec 6) (b : BitVec 6) : Statement (.cpost gr a b) := by
  obtain ⟨ho, hs, hk, h0, h1, h2, h3⟩ := word84 0xB8 a b gr.sw (by decide) (encodeBase (.cpost gr a b)) rfl
  refine ⟨ho, hs, ?_, fun h => absurd h (by decide)⟩
  · refine (decodeBase_row (r := rows4[8]'(Nat.lt_of_lt_of_eq (by decide) rows4_length.symm)) gr (rows4_mem (List.getElem_mem _)) ?_ ?_).trans ?_
    · exact Bool.and_eq_true _ _ ▸ ⟨decide_eq_true ho, decide_eq_true hk⟩
    · exact clean_cons (z := (0, 5)) h2 (clean_cons (z := (17, 6)) (zs := []) h3 rfl)
    · show some (Instr.cpost _ _ _) = _
      simp only [hs, h0, h1]
theorem cred (gr : Grp) (a : BitVec 6) (b : BitVec 6) : Statement (.cred gr a b) := by
  obtain ⟨ho, hs, hk, h0, h1, h2, h3⟩ := word84 0xB9 a b gr.sw (by decide) (encodeBase (.cred gr a b)) rfl
  refine ⟨ho, hs, ?_, fun h => absurd h (by decide)⟩
  · refine (decodeBase_row (r := rows4[9]'(Nat.lt_of_lt_of_eq (by decide) rows4_length.symm)) gr (rows4_mem (List.getElem_mem _)) ?_ ?_).trans ?_
    · exact Bool.and_eq_true _ _ ▸ ⟨decide_eq_true ho, decide_eq_true hk⟩
    · exact clean_cons (z := (0, 5)) h2 (clean_cons (z := (17, 6)) (zs := []) h3 rfl)
    · show some (Instr.cred _ _ _) = _
      simp only [hs, h0, h1]
theorem cwait (gr : Grp) (d : BitVec 6) (a : BitVec 6) (t : BitVec 1) : Statement (.cwait gr d a t) := by
  obtain ⟨ho, hs, hk, h0, h1, h2, h3⟩ := word85 0xBA d a t gr.sw (by decide) (encodeBase (.cwait gr d a t)) rfl
  refine ⟨ho, hs, ?_, fun h => absurd h (by decide)⟩
  · refine (decodeBase_row (r := rows4[10]'(Nat.lt_of_lt_of_eq (by decide) rows4_length.symm)) gr (rows4_mem (List.getElem_mem _)) ?_ ?_).trans ?_
    · exact Bool.and_eq_true _ _ ▸ ⟨decide_eq_true ho, decide_eq_true hk⟩
    · exact clean_cons (z := (1, 10)) (zs := []) h3 rfl
    · show some (Instr.cwait _ _ _ _) = _
      simp only [hs, h0, h1, h2]
theorem cjoin (gr : Grp) (d : BitVec 6) (a : BitVec 6) : Statement (.cjoin gr d a) := by
  obtain ⟨ho, hs, hk, h0, h1, h2⟩ := word86 0xBB d a gr.sw (by decide) (encodeBase (.cjoin gr d a)) rfl
  refine ⟨ho, hs, ?_, fun h => absurd h (by decide)⟩
  · refine (decodeBase_row (r := rows4[11]'(Nat.lt_of_lt_of_eq (by decide) rows4_length.symm)) gr (rows4_mem (List.getElem_mem _)) ?_ ?_).trans ?_
    · exact Bool.and_eq_true _ _ ▸ ⟨decide_eq_true ho, decide_eq_true hk⟩
    · exact clean_cons (z := (1, 10)) (zs := []) h2 rfl
    · show some (Instr.cjoin _ _ _) = _
      simp only [hs, h0, h1]
theorem cjoinLeave (gr : Grp) (a : BitVec 6) : Statement (.cjoinLeave gr a) := by
  obtain ⟨ho, hs, hk, h0, h1, h2⟩ := word61 0xBB 1 a gr.sw (by decide) (by decide) (encodeBase (.cjoinLeave gr a)) rfl
  refine ⟨ho, hs, ?_, fun h => absurd h (by decide)⟩
  · refine (decodeBase_row (r := rows4[12]'(Nat.lt_of_lt_of_eq (by decide) rows4_length.symm)) gr (rows4_mem (List.getElem_mem _)) ?_ ?_).trans ?_
    · exact Bool.and_eq_true _ _ ▸ ⟨decide_eq_true ho, decide_eq_true hk⟩
    · exact clean_cons (z := (1, 10)) h1 (clean_cons (z := (17, 6)) (zs := []) h2 rfl)
    · show some (Instr.cjoinLeave _ _) = _
      simp only [hs, h0]
theorem trapI (gr : Grp) (c : BitVec 8) : Statement (.trapI gr c) := by
  obtain ⟨ho, hs, hk, h0, h1⟩ := word73 0xC0 c gr.sw (by decide) (encodeBase (.trapI gr c)) rfl
  refine ⟨ho, hs, ?_, fun h => absurd h (by decide)⟩
  · refine (decodeBase_row (r := rows4[13]'(Nat.lt_of_lt_of_eq (by decide) rows4_length.symm)) gr (rows4_mem (List.getElem_mem _)) ?_ ?_).trans ?_
    · exact Bool.and_eq_true _ _ ▸ ⟨decide_eq_true ho, decide_eq_true hk⟩
    · exact clean_cons (z := (8, 15)) (zs := []) h1 rfl
    · show some (Instr.trapI _ _) = _
      simp only [hs, h0]
theorem rti (gr : Grp) : Statement (.rti gr) := by
  obtain ⟨ho, hs, hk, h0⟩ := word43 0xC1  gr.sw (by decide) (encodeBase (.rti gr)) rfl
  refine ⟨ho, hs, ?_, fun h => absurd h (by decide)⟩
  · refine (decodeBase_row (r := rows4[14]'(Nat.lt_of_lt_of_eq (by decide) rows4_length.symm)) gr (rows4_mem (List.getElem_mem _)) ?_ ?_).trans ?_
    · exact Bool.and_eq_true _ _ ▸ ⟨decide_eq_true ho, decide_eq_true hk⟩
    · exact clean_cons (z := (0, 23)) (zs := []) h0 rfl
    · show some (Instr.rti _) = _
      simp only [hs]
theorem bkpt (gr : Grp) (c : BitVec 8) : Statement (.bkpt gr c) := by
  obtain ⟨ho, hs, hk, h0, h1⟩ := word73 0xC2 c gr.sw (by decide) (encodeBase (.bkpt gr c)) rfl
  refine ⟨ho, hs, ?_, fun h => absurd h (by decide)⟩
  · refine (decodeBase_row (r := rows4[15]'(Nat.lt_of_lt_of_eq (by decide) rows4_length.symm)) gr (rows4_mem (List.getElem_mem _)) ?_ ?_).trans ?_
    · exact Bool.and_eq_true _ _ ▸ ⟨decide_eq_true ho, decide_eq_true hk⟩
    · exact clean_cons (z := (8, 15)) (zs := []) h1 rfl
    · show some (Instr.bkpt _ _) = _
      simp only [hs, h0]
theorem sysrd (gr : Grp) (d : BitVec 6) (i : BitVec 11) : Statement (.sysrd gr d i) := by
  obtain ⟨ho, hs, hk, h0, h1, h2⟩ := word34 0xC3 d i gr.sw (by decide) (encodeBase (.sysrd gr d i)) rfl
  refine ⟨ho, hs, ?_, fun h => absurd h (by decide)⟩
  · refine (decodeBase_row (r := rows4[16]'(Nat.lt_of_lt_of_eq (by decide) rows4_length.symm)) gr (rows4_mem (List.getElem_mem _)) ?_ ?_).trans ?_
    · exact Bool.and_eq_true _ _ ▸ ⟨decide_eq_true ho, decide_eq_true hk⟩
    · exact clean_cons (z := (11, 6)) (zs := []) h2 rfl
    · show some (Instr.sysrd _ _ _) = _
      simp only [hs, h0, h1]
theorem syswr (gr : Grp) (a : BitVec 6) (i : BitVec 11) : Statement (.syswr gr a i) := by
  obtain ⟨ho, hs, hk, h0, h1, h2⟩ := word87 0xC4 a i gr.sw (by decide) (encodeBase (.syswr gr a i)) rfl
  refine ⟨ho, hs, ?_, fun h => absurd h (by decide)⟩
  · refine (decodeBase_row (r := rows4[17]'(Nat.lt_of_lt_of_eq (by decide) rows4_length.symm)) gr (rows4_mem (List.getElem_mem _)) ?_ ?_).trans ?_
    · exact Bool.and_eq_true _ _ ▸ ⟨decide_eq_true ho, decide_eq_true hk⟩
    · exact clean_cons (z := (17, 6)) (zs := []) h2 rfl
    · show some (Instr.syswr _ _ _) = _
      simp only [hs, h0, h1]
theorem tmask (gr : Grp) (m : BitVec 1) : Statement (.tmask gr m) := by
  obtain ⟨ho, hs, hk, h0, h1⟩ := word88 0xC5 m gr.sw (by decide) (encodeBase (.tmask gr m)) rfl
  refine ⟨ho, hs, ?_, fun h => absurd h (by decide)⟩
  · refine (decodeBase_row (r := rows4[18]'(Nat.lt_of_lt_of_eq (by decide) rows4_length.symm)) gr (rows4_mem (List.getElem_mem _)) ?_ ?_).trans ?_
    · exact Bool.and_eq_true _ _ ▸ ⟨decide_eq_true ho, decide_eq_true hk⟩
    · exact clean_cons (z := (1, 22)) (zs := []) h1 rfl
    · show some (Instr.tmask _ _) = _
      simp only [hs, h0]
theorem tlbinvPage (gr : Grp) (d : BitVec 6) (a : BitVec 6) : Statement (.tlbinvPage gr d a) := by
  obtain ⟨ho, hs, hk, h0, h1, h2⟩ := word39 0xC6 d a gr.sw (by decide) (encodeBase (.tlbinvPage gr d a)) rfl
  refine ⟨ho, hs, ?_, fun h => absurd h (by decide)⟩
  · refine (decodeBase_row (r := rows4[19]'(Nat.lt_of_lt_of_eq (by decide) rows4_length.symm)) gr (rows4_mem (List.getElem_mem _)) ?_ ?_).trans ?_
    · exact Bool.and_eq_true _ _ ▸ ⟨decide_eq_true ho, decide_eq_true hk⟩
    · exact clean_cons (z := (2, 9)) (zs := []) h2 rfl
    · show some (Instr.tlbinvPage _ _ _) = _
      simp only [hs, h0, h1]
theorem tlbinvRange (gr : Grp) (d : BitVec 6) (a : BitVec 6) (b : BitVec 6) : Statement (.tlbinvRange gr d a b) := by
  obtain ⟨ho, hs, hk, h0, h1, h2, h3⟩ := word29 0xC6 1 d a b gr.sw (by decide) (by decide) (encodeBase (.tlbinvRange gr d a b)) rfl
  refine ⟨ho, hs, ?_, fun h => absurd h (by decide)⟩
  · refine (decodeBase_row (r := rows4[20]'(Nat.lt_of_lt_of_eq (by decide) rows4_length.symm)) gr (rows4_mem (List.getElem_mem _)) ?_ ?_).trans ?_
    · exact Bool.and_eq_true _ _ ▸ ⟨decide_eq_true ho, decide_eq_true hk⟩
    · exact clean_cons (z := (2, 3)) (zs := []) h3 rfl
    · show some (Instr.tlbinvRange _ _ _ _) = _
      simp only [hs, h0, h1, h2]
theorem tlbinvSpace (gr : Grp) (d : BitVec 6) (a : BitVec 6) : Statement (.tlbinvSpace gr d a) := by
  obtain ⟨ho, hs, hk, h0, h1, h2⟩ := word40 0xC6 2 d a gr.sw (by decide) (by decide) (encodeBase (.tlbinvSpace gr d a)) rfl
  refine ⟨ho, hs, ?_, fun h => absurd h (by decide)⟩
  · refine (decodeBase_row (r := rows4[21]'(Nat.lt_of_lt_of_eq (by decide) rows4_length.symm)) gr (rows4_mem (List.getElem_mem _)) ?_ ?_).trans ?_
    · exact Bool.and_eq_true _ _ ▸ ⟨decide_eq_true ho, decide_eq_true hk⟩
    · exact clean_cons (z := (2, 9)) (zs := []) h2 rfl
    · show some (Instr.tlbinvSpace _ _ _) = _
      simp only [hs, h0, h1]
theorem lichenEmulation (g : Grp) (word : Word) (cslot : BitVec 6) (psel : Bool) : Statement (.lichenEmulation g word cslot psel) := rfl
theorem resultReturn (core : Nat) (slot : Nat) : Statement (.resultReturn core slot) := rfl
theorem homeRequest (r : HomeReq) : Statement (.homeRequest r) := rfl
theorem performedAtHome (core : Nat) : Statement (.performedAtHome core) := rfl
theorem stashRecall (core : Nat) (entry : Nat) (line : Nat) (write : Bool) : Statement (.stashRecall core entry line write) := rfl
theorem updateLineRecall (core : Nat) (line : Nat) : Statement (.updateLineRecall core line) := rfl
theorem holderInvalidation (line : Nat) (holder : Agent) : Statement (.holderInvalidation line holder) := rfl
theorem taggedWriteReturned (core : Nat) (line : Nat) : Statement (.taggedWriteReturned core line) := rfl
theorem promotionRetire (core : Nat) (epoch : BitVec 16) : Statement (.promotionRetire core epoch) := rfl
theorem promotionQuery (core : Nat) (slot : Nat) (lane : Fin 32) : Statement (.promotionQuery core slot lane) := rfl
theorem promotionAnswer (core : Nat) (slot : Nat) (lane : Fin 32) (t : Token) : Statement (.promotionAnswer core slot lane t) := rfl
theorem l1LeaseExpiry (core : Nat) (line : LineId) : Statement (.l1LeaseExpiry core line) := rfl
theorem migrationStart (block : Nat) (away : BitVec 7) : Statement (.migrationStart block away) := rfl
theorem migrationSwitch (block : Nat) : Statement (.migrationSwitch block) := rfl
theorem migrationReturnStart (block : Nat) : Statement (.migrationReturnStart block) := rfl
theorem migrationReturnComplete (block : Nat) : Statement (.migrationReturnComplete block) := rfl
theorem ownershipPoint (core : Nat) (chan : Nat) : Statement (.ownershipPoint core chan) := rfl
theorem shootdownCoreComplete (core : Nat) : Statement (.shootdownCoreComplete core) := rfl
theorem copyAccepted (core : Nat) (slot : Nat) : Statement (.copyAccepted core slot) := rfl
theorem copyDeliver (core : Nat) (chan : Nat) : Statement (.copyDeliver core chan) := rfl
theorem activeSetEntry (core : Nat) (laneSet : Nat) : Statement (.activeSetEntry core laneSet) := rfl
theorem activeBound (core : Nat) (slot : Nat) : Statement (.activeBound core slot) := rfl
theorem warpExit (core : Nat) (slot : Nat) : Statement (.warpExit core slot) := rfl
theorem blockKill (launch : Nat) (block : Option Nat) : Statement (.blockKill launch block) := rfl
theorem qtail (q : Nat) (value : Dword) : Statement (.qtail q value) := rfl
theorem qwake (q : Nat) : Statement (.qwake q) := rfl
theorem preempt (q : Nat) : Statement (.preempt q) := rfl
theorem resume (q : Nat) : Statement (.resume q) := rfl
theorem kill (q : Nat) : Statement (.kill q) := rfl
theorem clear (q : Nat) : Statement (.clear q) := rfl
theorem passopen (q : Nat) (desc : Dword) : Statement (.passopen q desc) := rfl
theorem registerWrite (pa : Nat) (value : Dword) : Statement (.registerWrite pa value) := rfl
theorem launchStart (q : Nat) : Statement (.launchStart q) := rfl
theorem waitItemPoll (q : Nat) : Statement (.waitItemPoll q) := rfl
theorem waitsPoll (core : Nat) (slot : Nat) : Statement (.waitsPoll core slot) := rfl
theorem placementPass  : Statement (.placementPass) := rfl
theorem launchComplete (launch : Nat) : Statement (.launchComplete launch) := rfl
theorem jobStep (core : Nat) (entry : Nat) : Statement (.jobStep core entry) := rfl
theorem streamBlockFetch (core : Nat) (entry : Nat) : Statement (.streamBlockFetch core entry) := rfl
theorem rayTraversalStep (core : Nat) (slot : Nat) (lane : Fin 32) : Statement (.rayTraversalStep core slot lane) := rfl
theorem faultRespPoll (core : Nat) (unit : FaultUnit) : Statement (.faultRespPoll core unit) := rfl
theorem trapQueuePoll (q : Nat) : Statement (.trapQueuePoll q) := rfl
theorem endOfDrawToken (gdie : Nat) (draw : Word) : Statement (.endOfDrawToken gdie draw) := rfl
theorem tokenArrival (gdie : Nat) (sdie : Nat) (draw : Word) : Statement (.tokenArrival gdie sdie draw) := rfl
theorem frondPacketArrival (sdie : Nat) (p : Frond) : Statement (.frondPacketArrival sdie p) := rfl
theorem flushAreaMove  : Statement (.flushAreaMove) := rfl
theorem tileLaunch (q : Nat) (tx : Nat) (ty : Nat) : Statement (.tileLaunch q tx ty) := rfl
theorem passComplete (q : Nat) : Statement (.passComplete q) := rfl
theorem joinRequest (node : Nat) (slot : Nat) (desc : List Byte) (rosterNode : Nat) : Statement (.joinRequest node slot desc rosterNode) := rfl
theorem joinReply (slot : Nat) (ok : Bool) : Statement (.joinReply slot ok) := rfl
theorem openFlit (cid : Half) (frame : Word) (close : Option Nat) : Statement (.openFlit cid frame close) := rfl
theorem frameClose (cid : Half) : Statement (.frameClose cid) := rfl
theorem collectivePacket (p : CollPacket) : Statement (.collectivePacket p) := rfl
theorem closeFlit (cid : Half) (frame : Word) : Statement (.closeFlit cid frame) := rfl
theorem frameComplete (cid : Half) (frame : Word) (status : Word) : Statement (.frameComplete cid frame status) := rfl
theorem lateNotice (slot : Nat) (frame : Word) : Statement (.lateNotice slot frame) := rfl
theorem settledBlockDown (cid : Half) (frame : Word) (block : Nat) (data : List Byte) : Statement (.settledBlockDown cid frame block data) := rfl
theorem verticalBlank (head : Nat) : Statement (.verticalBlank head) := rfl
theorem rdmaRead (conn : Nat) (rkey : Word) (va : Dword) (len : Nat) : Statement (.rdmaRead conn rkey va len) := rfl
theorem rdmaWrite (conn : Nat) (rkey : Word) (va : Dword) (data : List Byte) : Statement (.rdmaWrite conn rkey va data) := rfl
theorem rdmaFetchAdd (conn : Nat) (rkey : Word) (va : Dword) (add : Dword) : Statement (.rdmaFetchAdd conn rkey va add) := rfl
theorem rdmaCmpSwap (conn : Nat) (rkey : Word) (va : Dword) (compare : Dword) (swap : Dword) : Statement (.rdmaCmpSwap conn rkey va compare swap) := rfl
theorem fabricLeaseRenewal (node : Nat) : Statement (.fabricLeaseRenewal node) := rfl
theorem fabricLeaseExpiry  : Statement (.fabricLeaseExpiry) := rfl
theorem fanoutTimeout (line : Nat) (node : Nat) : Statement (.fanoutTimeout line node) := rfl
theorem reroute (line : Nat) (node : Nat) : Statement (.reroute line node) := rfl
theorem nodeDeclaredFailed (node : Nat) : Statement (.nodeDeclaredFailed node) := rfl
theorem failureNotice  : Statement (.failureNotice) := rfl
theorem dieLinkFailure (socket : Nat) : Statement (.dieLinkFailure socket) := rfl
theorem patchActivation  : Statement (.patchActivation) := rfl
theorem relocation (launch : Nat) (block : Nat) (core : Nat) : Statement (.relocation launch block core) := rfl
theorem coreDump (launch : Nat) : Statement (.coreDump launch) := rfl
theorem reset  : Statement (.reset) := rfl
theorem recoveryRetry  : Statement (.recoveryRetry) := rfl
theorem recoveryReadComplete (fw : Firmware) : Statement (.recoveryReadComplete fw) := rfl
theorem keyload (id : Dword) : Statement (.keyload id) := rfl
theorem keyunload (id : Dword) : Statement (.keyunload id) := rfl
theorem patch (pa : Dword) : Statement (.patch pa) := rfl
theorem withdraw  : Statement (.withdraw) := rfl
theorem attest (nonce : Dword) (buf : Dword) : Statement (.attest nonce buf) := rfl
theorem scanout (head : Dword) (desc : Dword) : Statement (.scanout head desc) := rfl
theorem dumpwin (idx : Dword) : Statement (.dumpwin idx) := rfl
theorem stateread (addr : Dword) (buf : Dword) (len : Dword) : Statement (.stateread addr buf len) := rfl
theorem softError (e : SoftErr) : Statement (.softError e) := rfl
theorem droop (cluster : Nat) : Statement (.droop cluster) := rfl
theorem thermalStepDown (cluster : Nat) : Statement (.thermalStepDown cluster) := rfl
theorem overtempStop  : Statement (.overtempStop) := rfl
theorem tempoBoundary (powerLow : Bool) : Statement (.tempoBoundary powerLow) := rfl
theorem illegalInstruction (e : DecErr) (hints : Nat) : Statement (.illegalInstruction e hints) := rfl
theorem instructionFetchFault (first : Bool) (t : Trap) : Statement (.instructionFetchFault first t) := rfl
theorem invalidationAcknowledgement (line : Nat) (holder : Agent) (data : Option (BitVec 512)) : Statement (.invalidationAcknowledgement line holder data) := rfl
theorem rookPortLinkFailure (port : Nat) : Statement (.rookPortLinkFailure port) := rfl
theorem thermalRecovery (cluster : Nat) : Statement (.thermalRecovery cluster) := rfl
theorem droopRecovery (cluster : Nat) : Statement (.droopRecovery cluster) := rfl

end Sys2Proof.Laws.Encoding
end

