-- ==== Sys2Proof/Laws/Sweeps.lean ====
section
/-! SUPPORT. The relations in which memory groups are stated, computed: when the parts of a group's lanes all succeed, the group's
repetition leads to a state. -/

namespace Sys2Proof.Laws

open Sys2Proof.Machine Sys2Proof.Safety

/-- The result of a part that succeeds. -/
def doneOf {α : Type} : State × Done α → Option (State × α)
  | (s, .ok x) => some (s, x)
  | _ => none
theorem doneOf_eq {α : Type} {x : State × Done α} {t : State} {v : α} (h : doneOf x = some (t, v)) : x = (t, .ok v) := by
  obtain ⟨s, d⟩ := x
  cases d <;> simp_all [doneOf]

/-- The lanes' accesses after checks that succeed. -/
def checkedOf {β : Type} (x : State × Except Trap (List β)) : List β := match x.2 with | .ok l => l | .error _ => []
def checksPass {β : Type} (x : State × Except Trap (List β)) : Bool := match x.2 with | .ok _ => true | .error _ => false
theorem checks_eq {β : Type} {x : State × Except Trap (List β)} (h : checksPass x = true) : x = (x.1, .ok (checkedOf x)) := by
  obtain ⟨s, e⟩ := x
  cases e <;> simp_all [checksPass, checkedOf]

/-- The parts of the checked lanes, one after another. -/
def sweep {α : Type} (f : State → Fin 32 → Acc → Option (State × α)) : List (Fin 32 × Acc) → State → Option (State × List (Fin 32 × α))
  | [], s => some (s, [])
  | (l, a) :: r, s =>
    match f s l a with
    | none => none
    | some (u, v) => match sweep f r u with | none => none | some (t, ws) => some (t, (l, v) :: ws)
theorem sweeps_of {α : Type} {R : State → Fin 32 → Acc → State → α → Prop} {f : State → Fin 32 → Acc → Option (State × α)}
    (h : ∀ s l a t x, f s l a = some (t, x) → R s l a t x) :
    ∀ {as : List (Fin 32 × Acc)} {s t : State} {vs : List (Fin 32 × α)}, sweep f as s = some (t, vs) → Sweeps R as s t vs
  | [], s, t, vs, e => by simp only [sweep, Option.some.injEq, Prod.mk.injEq] at e; exact ⟨e.1.symm, e.2.symm⟩
  | (l, a) :: r, s, t, vs, e => by
    simp only [sweep] at e
    split at e
    · cases e
    · split at e
      · cases e
      · cases e; exact ⟨_, _, _, h _ _ _ _ _ ‹_›, sweeps_of h ‹_›, rfl⟩

/-- A group of one repetition, at its beginning. -/
theorem performs_one {gr : Grp} {R : Nat → State → State → Prop} {s : State} (h1 : reps gr = 1) (h2 : s.cur.resumed.rep = 0)
    (h : ∃ u, R 0 s u) : ∃ t, Performs gr R s t := by
  obtain ⟨u, h⟩ := h
  refine ⟨{ u with cur := u.cur.clearResume }, ?_⟩
  unfold Performs
  rw [h1, h2]
  exact ⟨u, h, rfl⟩
theorem performsOnce_one {gr : Grp} {R : Nat → State → State → Prop} {s : State} (h0 : s.cur.active gr ≠ 0) (h1 : reps gr = 1)
    (h2 : s.cur.resumed.rep = 0) (h : ∃ u, R 0 s u) : ∃ t, PerformsOnce gr R s t := by
  obtain ⟨t, h⟩ := performs_one h1 h2 h
  exact ⟨t, by unfold PerformsOnce; rw [if_neg h0]; exact h⟩

/-! ## A lane's part -/

def loadPart (fresh : Bool) (cpol : BitVec 3) (s : State) (l : Fin 32) (a : Acc) : Option (State × Loaded) :=
  match doneOf (loadAcc s (curIssuer s (laneBit l)) a (fresh || a.fresh) cpol) with
  | some (u, x) => if tokensWait u u.cur.threads[l] x.tokens then none else some (giveTokens u l x.tokens x.drained, x)
  | none => none
theorem loadPart_spec {fresh : Bool} {cpol : BitVec 3} (s : State) (l : Fin 32) (a : Acc) (t : State) (x : Loaded)
    (h : loadPart fresh cpol s l a = some (t, x)) : LoadsLane fresh cpol s l a t x := by
  unfold loadPart at h
  split at h
  · rename_i u y e
    split at h
    · cases h
    · cases h; exact ⟨u, doneOf_eq e, Bool.eq_false_iff.2 ‹¬_›, rfl⟩
  · cases h

def storePart (reg : Nat) (ty : BitVec 3) (tag : Warp → Fin 32 → Bool) (s : State) (l : Fin 32) (a : Acc) : Option (State × Unit) :=
  if doneLane s l then some (s, ())
  else doneOf (tagged s (tag s.cur l) fun s e => storeAcc s (curIssuer s (laneBit l)) a (regBytes s.cur reg ty l) e)
theorem storePart_spec {reg : Nat} {ty : BitVec 3} {tag : Warp → Fin 32 → Bool} (s : State) (l : Fin 32) (a : Acc) (t : State) (x : Unit)
    (h : storePart reg ty tag s l a = some (t, x)) : StoresLane reg ty tag s l a t x := by
  unfold storePart at h
  unfold StoresLane
  split at h
  · cases h; rw [if_pos ‹_›]
  · rw [if_neg ‹_›]; exact doneOf_eq h

def updatePart (op : State → Fin 32 → HomeOp) (tag : Warp → Fin 32 → Bool) (s : State) (l : Fin 32) (a : Acc) : Option (State × Dword) :=
  if doneLane s l then some (s, s.cur.resumed.kept[l])
  else if s.cur.resumed.late ≠ [] then none
  else if tokensWait s s.cur.threads[l] (accTokens s a).1 then none
  else match doneOf (tagged s (tag s.cur l) fun s e => rmwPart s (curIssuer s (laneBit l)) a (partOf a) (op s l) e false) with
    | some (u, x) => some (giveTokens u l (accTokens s a).1 (accTokens s a).2, x)
    | none => none
theorem updatePart_spec {op : State → Fin 32 → HomeOp} {tag : Warp → Fin 32 → Bool} (s : State) (l : Fin 32) (a : Acc) (t : State) (x : Dword)
    (h : updatePart op tag s l a = some (t, x)) : UpdatesLane op tag s l a t x := by
  unfold updatePart at h
  unfold UpdatesLane
  split at h
  · cases h; rw [if_pos ‹_›]; exact ⟨rfl, rfl⟩
  · rw [if_neg ‹_›]
    split at h
    · cases h
    · rename_i hl
      split at h
      · cases h
      · split at h
        · cases h; exact ⟨by simpa using hl, Bool.eq_false_iff.2 ‹¬_›, _, doneOf_eq ‹_›, rfl⟩
        · cases h

def reducePart (c : BitVec 3) (reg n : Nat) (tag : Warp → Fin 32 → Bool) (s : State) (l : Fin 32) (a : Acc) : Option (State × Dword) :=
  if doneLane s l then some (s, 0)
  else doneOf (tagged s (tag s.cur l) fun s e => redLane s l a c (BitVec.ofNat 64 (regNat s.cur reg (n / 4) l)) e)
theorem reducePart_spec {c : BitVec 3} {reg n : Nat} {tag : Warp → Fin 32 → Bool} (s : State) (l : Fin 32) (a : Acc) (t : State) (x : Dword)
    (h : reducePart c reg n tag s l a = some (t, x)) : ReducesLane c reg n tag s l a t x := by
  unfold reducePart at h
  unfold ReducesLane
  split at h
  · cases h; rw [if_pos ‹_›]; exact ⟨rfl, rfl⟩
  · rw [if_neg ‹_›]; exact doneOf_eq h

def lockPart (unlock : Bool) (tag : Warp → Fin 32 → Bool) (s : State) (l : Fin 32) (a : Acc) : Option (State × Dword) :=
  if doneLane s l then some (s, s.cur.resumed.kept[l])
  else if s.cur.resumed.late ≠ [] then none
  else if tokensWait s s.cur.threads[l] (accTokens s a).1 then none
  else match doneOf (tagged s (tag s.cur l) fun s e => lockLane s l a unlock e) with
    | some (u, x) => some (giveTokens u l (accTokens s a).1 (accTokens s a).2, x)
    | none => none
theorem lockPart_spec {unlock : Bool} {tag : Warp → Fin 32 → Bool} (s : State) (l : Fin 32) (a : Acc) (t : State) (x : Dword)
    (h : lockPart unlock tag s l a = some (t, x)) : LocksLane unlock tag s l a t x := by
  unfold lockPart at h
  unfold LocksLane
  split at h
  · cases h; rw [if_pos ‹_›]; exact ⟨rfl, rfl⟩
  · rw [if_neg ‹_›]
    split at h
    · cases h
    · rename_i hl
      split at h
      · cases h
      · split at h
        · cases h; exact ⟨by simpa using hl, Bool.eq_false_iff.2 ‹¬_›, _, doneOf_eq ‹_›, rfl⟩
        · cases h

def paintPart (op : BitVec 3) (fmt die a : Nat) (s : State) (l : Fin 32) (acc : Acc) : Option (State × Unit) :=
  if doneLane s l then some (s, ())
  else
    let n := if fmt = 2 then 1 else 4
    let src := (List.range n).map fun k => (s.cur.getV (a + k) l).toNat
    match doneOf (pixelRead s (curIssuer s (laneBit l)) die acc (texelBytes fmt)) with
    | none => none
    | some (u, b) => doneOf (pixelWrite u (curIssuer s (laneBit l)) die acc
        (packTexel fmt ((((unpackTexel fmt (leNat b)).take n).zip src).map fun x => pixelOp op x.1 x.2 (if fmt = 2 then f32.one else src.getD 3 0))))
theorem paintPart_spec {op : BitVec 3} {fmt die a : Nat} (s : State) (l : Fin 32) (acc : Acc) (t : State) (x : Unit)
    (h : paintPart op fmt die a s l acc = some (t, x)) : PaintsLane op fmt die a s l acc t x := by
  unfold paintPart at h
  unfold PaintsLane
  split at h
  · cases h; rw [if_pos ‹_›]
  · rw [if_neg ‹_›]
    dsimp only at h
    split at h
    · cases h
    · exact ⟨_, _, doneOf_eq ‹_›, doneOf_eq h⟩

/-! ## A repetition -/

theorem some_of {α : Type} {x : Option (State × α)} (h : x.isSome = true) : ∃ t v, x = some (t, v) := by
  obtain ⟨y, h⟩ := Option.isSome_iff_exists.1 h
  exact ⟨y.1, y.2, h⟩

theorem loadsOnce_of {gr : Grp} {reg : Nat} {ty : BitVec 3} {fresh : Bool} {o : BitVec 1} {chk : State → Fin 32 → State × Except Trap Acc} {s : State}
    (hc : checksPass (checkLanes s (lanesOf (s.cur.active gr)) chk) = true)
    (h : (sweep (loadPart fresh (cpolOf gr)) (checkedOf (checkLanes s (lanesOf (s.cur.active gr)) chk))
      (checkLanes s (lanesOf (s.cur.active gr)) chk).1).isSome = true) : ∃ t, LoadsOnce gr reg ty fresh o chk s t := by
  obtain ⟨t, vs, h⟩ := some_of h
  exact ⟨_, _, _, t, vs, checks_eq hc, sweeps_of loadPart_spec h, rfl⟩

theorem storesOnce_of {gr : Grp} {reg : Nat} {ty : BitVec 3} {o : BitVec 1} {chk : State → Fin 32 → State × Except Trap Acc} {s : State}
    {x : State × Except Trap (List (Fin 32 × Acc))} (hx : x = checkLanes s (lanesOf (s.cur.active gr)) chk)
    (hc : checksPass x = true) (ho : ordered s.cur o = true → s.cur.active gr ≠ 0 → releaseGate x.1 (s.cur.active gr) (orderDomain x.1.cur (checkedOf x)) = .go)
    (hm : ordered x.1.cur o = ordered s.cur o)
    (h : (sweep (storePart reg ty (tags x.1.cur (s.cur.active gr) o (checkedOf x))) (checkedOf x) x.1).isSome = true) :
    ∃ t, StoresOnce gr reg ty o chk s t := by
  subst hx
  obtain ⟨t, vs, h⟩ := some_of h
  exact ⟨_, _, _, t, vs, checks_eq hc, fun h => ho (hm ▸ h), sweeps_of storePart_spec h, rfl⟩

/-- A warp-level store's access, computed. -/
def uniformPart (d : List Byte) (tag : Warp → Fin 32 → Bool) (s : State) (l : Fin 32) (a : Acc) : Option (State × Unit) :=
  doneOf (tagged s (tag s.cur l) fun s e => storeAcc s (curIssuer s allLanes) a d e)
theorem uniformStore_of {ls : List (Fin 32)} {o : BitVec 1} {chk : State → Fin 32 → State × Except Trap Acc} {s : State} (d : State → List Byte)
    {x : State × Except Trap (List (Fin 32 × Acc))} (hx : x = checkLanes s ls chk)
    (hc : checksPass x = true) (ho : ordered x.1.cur o = false)
    (h : (sweep (uniformPart (d x.1) (tags x.1.cur allLanes o (checkedOf x))) (checkedOf x) x.1).isSome = true) :
    ∃ t s1 as s2 vs, checkLanes s ls chk = (s1, .ok as) ∧ orderedBefore allLanes o as s1
      ∧ Sweeps (fun s l a t (_ : Unit) => tagged s (tags s1.cur allLanes o as s.cur l)
          (fun s e => storeAcc s (curIssuer s allLanes) a (d s1) e) = (t, .ok ())) as s1 s2 vs ∧ t = touchAll s2 as := by
  subst hx
  obtain ⟨t, vs, h⟩ := some_of h
  exact ⟨_, _, _, t, vs, checks_eq hc, fun h => absurd h (by rw [ho]; decide),
    sweeps_of (f := uniformPart (d (checkLanes s ls chk).1) (tags (checkLanes s ls chk).1.cur allLanes o (checkedOf (checkLanes s ls chk))))
      (fun _ _ _ _ _ h => doneOf_eq h) h, rfl⟩

theorem updatesOnce_of {gr : Grp} {reg n : Nat} {o : BitVec 1} {op : State → Fin 32 → HomeOp} {fin : State → State}
    {chk : State → Fin 32 → State × Except Trap Acc} {s : State}
    {x : State × Except Trap (List (Fin 32 × Acc))} (hx : x = checkLanes s (lanesOf (s.cur.active gr)) chk)
    (hc : checksPass x = true) (ho : ordered x.1.cur o = false)
    (h : (sweep (updatePart op (tags x.1.cur (s.cur.active gr) o (checkedOf x))) (checkedOf x) x.1).isSome = true) :
    ∃ t, UpdatesOnce gr reg n o op fin chk s t := by
  subst hx
  obtain ⟨t, vs, h⟩ := some_of h
  exact ⟨_, _, _, t, vs, checks_eq hc, fun h => absurd h (by rw [ho]; decide), sweeps_of updatePart_spec h, rfl⟩

theorem reducesFrom_of {gr : Grp} {o : BitVec 1} {chk : State → Fin 32 → State × Except Trap Acc} {s : State}
    {x : State × Except Trap (List (Fin 32 × Acc))} (hx : x = checkLanes s (lanesOf (s.cur.active gr)) chk)
    (hc : checksPass x = true) (ho : ordered x.1.cur o = false)
    (he : (checkedOf x).all (fun y => !engineHolds x.1 (curIssuer x.1 (s.cur.active gr)) y.2.va.toNat 8) = true) :
    ReducesFrom gr o chk s x.1 (checkedOf x) := by
  subst hx
  exact ⟨checks_eq hc, fun h => absurd h (by rw [ho]; decide), fun y hy => by simpa using List.all_eq_true.1 he y hy⟩
theorem reducesOnce_of {gr : Grp} {c : BitVec 3} {reg n : Nat} {o : BitVec 1} {chk : State → Fin 32 → State × Except Trap Acc} {s : State}
    {x : State × Except Trap (List (Fin 32 × Acc))} (hx : x = checkLanes s (lanesOf (s.cur.active gr)) chk)
    (hc : checksPass x = true) (ho : ordered x.1.cur o = false)
    (he : (checkedOf x).all (fun y => !engineHolds x.1 (curIssuer x.1 (s.cur.active gr)) y.2.va.toNat 8) = true)
    (h : (sweep (reducePart c reg n (tags x.1.cur (s.cur.active gr) o (checkedOf x))) (checkedOf x) x.1).isSome = true) :
    ∃ t, ReducesOnce gr c reg n o chk s t := by
  obtain ⟨t, vs, h⟩ := some_of h
  exact ⟨_, _, _, t, vs, reducesFrom_of hx hc ho he, sweeps_of reducePart_spec h, rfl⟩

theorem locksOnce_of {gr : Grp} {reg : Nat} {unlock : Bool} {chk : State → Fin 32 → State × Except Trap Acc} {s : State}
    {x : State × Except Trap (List (Fin 32 × Acc))} (hx : x = checkLanes s (lanesOf (s.cur.active gr)) chk)
    (hc : checksPass x = true) (ho : releaseGate x.1 (s.cur.active gr) (widest ((checkedOf x).map fun x => x.2.dom)) = .go)
    (he : (checkedOf x).all (fun y => !engineHolds x.1 (curIssuer x.1 (s.cur.active gr)) y.2.va.toNat 4) = true)
    (h : (sweep (lockPart unlock fun w l => taggedLane w l ((unlock || !x.1.cur.memrev) && s.cur.active gr ≠ 0)
      (if x.1.cur.memrev then widest ((checkedOf x).map fun x => x.2.dom) else .core)) (checkedOf x) x.1).isSome = true) :
    ∃ t, LocksOnce gr reg unlock chk s t := by
  subst hx
  obtain ⟨t, vs, h⟩ := some_of h
  exact ⟨_, _, _, t, vs, checks_eq hc, fun _ => ho, fun y hy => by simpa using List.all_eq_true.1 he y hy, sweeps_of lockPart_spec h, rfl⟩

/-- Items that lanes access, checked. -/
def checkedItems {α : Type} (items : List (Fin 32 × α)) (chk : State → Fin 32 → α → State × Except Trap Acc) (s : State) :
    Option (State × List (Fin 32 × Acc)) :=
  let x := checkEach s items chk
  if failuresOf x.2 = [] then some (x.1, passedOf x.2) else none
theorem checkedItems_spec {α : Type} {items : List (Fin 32 × α)} {chk : State → Fin 32 → α → State × Except Trap Acc} {s t : State}
    {as : List (Fin 32 × Acc)} (h : checkedItems items chk s = some (t, as)) : ChecksItems items chk s t as := by
  unfold checkedItems at h
  dsimp only at h
  split at h
  · cases h; exact ⟨_, rfl, ‹_›, rfl⟩
  · cases h
/-- Checked items, loaded: the state after them and their values. -/
def loadAll (fresh : Bool) (cpol : BitVec 3) (as : List (Fin 32 × Acc)) (s : State) : Option (State × List Nat) :=
  match sweep (loadPart fresh cpol) as s with
  | some (t, ws) => some (touchAll t as, ws.map fun y => leNat y.2.bytes)
  | none => none
theorem loadAll_spec {fresh : Bool} {cpol : BitVec 3} {as : List (Fin 32 × Acc)} {s t : State} {vs : List Nat}
    (h : loadAll fresh cpol as s = some (t, vs)) : LoadsAll fresh cpol as s t vs := by
  unfold loadAll at h
  split at h
  · cases h; exact ⟨_, _, sweeps_of loadPart_spec ‹_›, rfl, rfl⟩
  · cases h
/-- Map words that lanes need, computed: the state after them and their values. -/
def readMaps {α : Type} (fresh : Bool) (cpol : BitVec 3) (items : List (Fin 32 × α)) (chk : State → Fin 32 → α → State × Except Trap Acc)
    (s : State) : Option (State × List Nat) :=
  match checkedItems items chk s with
  | some (s1, as) => loadAll fresh cpol as s1
  | none => none
theorem readMaps_spec {α : Type} {fresh : Bool} {cpol : BitVec 3} {items : List (Fin 32 × α)} {chk : State → Fin 32 → α → State × Except Trap Acc}
    {s t : State} {vs : List Nat} (h : readMaps fresh cpol items chk s = some (t, vs)) : ReadsMaps fresh cpol items chk s t vs := by
  unfold readMaps at h
  split at h
  · exact ⟨_, _, checkedItems_spec ‹_›, loadAll_spec h⟩
  · cases h
/-- Items that lanes access, computed: the state after them and their values. -/
def loadItems {α : Type} (fresh : Bool) (cpol : BitVec 3) (items : List (Fin 32 × α)) (chk : State → Fin 32 → α → State × Except Trap Acc)
    (s : State) : Option (State × List Nat) :=
  match checkedItems items chk s with
  | some (s1, as) =>
    match markLanes s1 as with
    | (s2, true) => loadAll fresh cpol as s2
    | (_, false) => none
  | none => none
theorem loadItems_spec {α : Type} {fresh : Bool} {cpol : BitVec 3} {items : List (Fin 32 × α)} {chk : State → Fin 32 → α → State × Except Trap Acc}
    {s t : State} {vs : List Nat} (h : loadItems fresh cpol items chk s = some (t, vs)) : LoadsItems fresh cpol items chk s t vs := by
  unfold loadItems at h
  split at h
  · split at h
    · exact ⟨_, _, _, checkedItems_spec ‹_›, ‹_›, loadAll_spec h⟩
    · cases h
  · cases h

/-- A group's descriptor, computed. -/
def loadDescriptor (m : Mask) (va : Dword) (fresh : Bool) (cpol : BitVec 3) (s : State) : Option (State × Nat) :=
  let x := checkLanes s [lowLane m] (fun s l => checkLane s l va 64 64 .data)
  if checksPass x then
    match sweep (loadPart fresh cpol) (checkedOf x) x.1 with
    | some (t, ws) => some (touchAll t (checkedOf x), (ws.map fun y => leNat y.2.bytes).headD 0)
    | none => none
  else none
theorem loadDescriptor_spec {m : Mask} {va : Dword} {fresh : Bool} {cpol : BitVec 3} {s t : State} {n : Nat}
    (h : loadDescriptor m va fresh cpol s = some (t, n)) : LoadsDescriptor m va fresh cpol s t n := by
  unfold loadDescriptor at h
  dsimp only at h
  split at h
  · split at h
    · cases h; exact ⟨_, _, _, _, checks_eq ‹_›, sweeps_of loadPart_spec ‹_›, rfl, rfl⟩
    · cases h
  · cases h

/-- One repetition of RPIX whose lanes are all painted. -/
theorem paints_of {s : State} {ls : List (Fin 32)} {chk : State → Fin 32 → State × Except Trap Acc} {op : BitVec 3} {fmt n a b tx ty : Nat} {lka lkb : BitVec 2}
    {x : State × Except Trap (List (Fin 32 × Acc))} (hx : x = checkLanes s ls chk) (hc : checksPass x = true)
    (h : (sweep (paintPart op fmt (tileOwner x.1.mgmt tx ty) a) (checkedOf x) x.1).isSome = true) :
    ∃ t s1 as s2 vs, checkLanes s ls chk = (s1, .ok as) ∧ Sweeps (PaintsLane op fmt (tileOwner s1.mgmt tx ty) a) as s1 s2 vs
      ∧ (let w := (s2.cur.lastUse s2.cur.executing lka ((List.range n).map fun j => a + j)).lastUse s2.cur.executing lkb [b]
         t = touchAll { s2 with cur := w } as) := by
  subst hx
  obtain ⟨t, vs, h⟩ := some_of h
  exact ⟨_, _, _, t, vs, checks_eq hc, sweeps_of paintPart_spec h, rfl⟩

theorem unit_eq {x : State × Except Trap Unit} (h : x.2.isOk = true) : x = (x.1, .ok ()) := by
  obtain ⟨s, e⟩ := x
  cases e <;> simp_all [Except.isOk, Except.toBool]
/-- The value of a check or of a part that succeeds. -/
def passed {α : Type} (x : Except Trap α) : Option α := match x with | .ok a => some a | .error _ => none
theorem passed_eq {α : Type} {x : Except Trap α} (h : (passed x).isSome = true) : x = .ok ((passed x).get h) := by
  cases x
  · cases h
  · rfl
def served {α : Type} (x : Done α) : Option α := match x with | .ok a => some a | _ => none
theorem served_eq {α : Type} {x : State × Done α} (h : (served x.2).isSome = true) : x = (x.1, .ok ((served x.2).get h)) := by
  obtain ⟨s, d⟩ := x
  cases d <;> first | rfl | cases h
def taken {α : Type} (x : Eng α) : Option α := match x with | .ok a => some a | _ => none
theorem taken_eq {α : Type} {x : State × Eng α} (h : (taken x.2).isSome = true) : x = (x.1, .ok ((taken x.2).get h)) := by
  obtain ⟨s, d⟩ := x
  cases d <;> first | rfl | cases h
theorem gone_eq {α β : Type} {x : State × β × Eng α} (h : (taken x.2.2).isSome = true) : x = (x.1, x.2.1, .ok ((taken x.2.2).get h)) := by
  obtain ⟨s, b, d⟩ := x
  cases d <;> first | rfl | cases h
theorem ended_eq {x : State × Eng Unit} (h : (taken x.2).isSome = true) : x = (x.1, .ok ()) := taken_eq h
theorem ended3_eq {β : Type} {x : State × β × Eng Unit} (h : (taken x.2.2).isSome = true) : x = (x.1, x.2.1, .ok ()) := gone_eq h
theorem wrote_eq {x : State × Eng Bool} (h : taken x.2 = some true) : x = (x.1, .ok true) := by
  obtain ⟨s, d⟩ := x
  cases d <;> simp_all [taken]
theorem two_eq {α β : Type} {x : Option (α × β)} (h : x.isSome = true) : x = some ((x.get h).1, (x.get h).2) := (Option.some_get h).symm
theorem holding_eq {α β : Type} {x : α × Option β} (h : x.2.isSome = true) : x = (x.1, some (x.2.get h)) := by
  obtain ⟨a, b⟩ := x
  cases b <;> first | rfl | cases h
def readable {ε α : Type} (x : Except ε α) : Option α := match x with | .ok a => some a | .error _ => none
theorem readable_eq {ε α β : Type} {x : β × Except ε α} (h : (readable x.2).isSome = true) : x = (x.1, .ok ((readable x.2).get h)) := by
  obtain ⟨a, b⟩ := x
  cases b <;> first | rfl | cases h
theorem pair_eq {α β : Type} {x : α × β} : x = (x.1, x.2) := rfl
theorem done_eq {α : Type} {x : State × Done α} {v : α} (h : served x.2 = some v) : x = (x.1, .ok v) := by
  obtain ⟨s, d⟩ := x
  cases d <;> simp_all [served]
def goesOn (o : Host.Outcome State Fault Refusal) : Bool := match o with | .next _ => true | _ => false
theorem next_of {o : Host.Outcome State Fault Refusal} (h : goesOn o = true) : ∃ t, o = .next t := by
  cases o
  · exact ⟨_, rfl⟩
  all_goals cases h
theorem quad_eq {α β γ δ : Type} {x : α × β × γ × δ} : x = (x.1, x.2.1, x.2.2.1, x.2.2.2) := rfl
theorem perf_done {x : State × Perf} (h : x.2 = .done) : x = (x.1, .done) := by rw [← h]

/-- One repetition of TEX, or of TEXFB where no page is missing, computed. -/
def textures (gr : Grp) (a : Nat) (sb : Nat) (fb : Bool) (s : State) : Bool :=
  let m := s.cur.active gr
  let arg := s.cur.getS sb
  decide (m ≠ 0 ∧ arg.toNat / 2 % 32 = 0) &&
  match loadDescriptor m (sext57 (arg - BitVec.ofNat 64 (arg.toNat % 64))) false (cpolOf gr) s with
  | none => false
  | some (s1, x) =>
    let tx := textureOf x
    let look := fun (l : Fin 32) =>
      (if arg.getLsbD 0 then texFetch else texSample) tx (s1.cur.getV a l) (s1.cur.getV (a + 1) l) (s1.cur.getV (a + 2) l)
    let need := (lanesOf m).flatMap fun l => (look l).offsets.map fun o => (l, o)
    !badTexture x &&
    match readMaps false (cpolOf gr) (if fb then need else []) (fun s l o => checkLane s l (mapWord tx.rmap (o / 65536)) 4 4 .data) s1 with
    | none => false
    | some (s2, ws) =>
      ((if fb then need else []).zip ws).all (fun y => mapBit y.2 (y.1.2 / 65536))
      && (loadItems false (cpolOf gr) need
        (fun s l o => checkLane s l (tx.base + BitVec.ofNat 64 o) (texelBytes tx.fmt) (texelBytes tx.fmt) .data) s2).isSome
theorem texturesOnce_of {gr : Grp} {d a : Nat} {lka : BitVec 2} {sb : Nat} {fb : Bool} {s : State} (h : textures gr a sb fb s = true) :
    ∃ t, TexturesOnce gr d a lka sb fb s t := by
  unfold textures at h
  simp only [Bool.and_eq_true, decide_eq_true_eq] at h
  obtain ⟨⟨hm, hz⟩, h⟩ := h
  unfold TexturesOnce
  simp only [if_neg hm]
  split at h
  · cases h
  · rename_i s1 x e1
    simp only [Bool.and_eq_true] at h
    obtain ⟨hb, h⟩ := h
    split at h
    · cases h
    · rename_i s2 ws e2
      simp only [Bool.and_eq_true] at h
      obtain ⟨s3, vs, e3⟩ := some_of h.2
      exact ⟨_, hz, s1, x, s2, ws, s3, vs, loadDescriptor_spec e1, by simpa using hb, readMaps_spec e2,
        fun y hy => List.all_eq_true.1 h.1 y hy, loadItems_spec e3, rfl⟩

/-- One repetition of LDCL where no page is missing, computed. -/
def clusters (gr : Grp) (vi sb : Nat) (ty : BitVec 3) (fresh : Bool) (s : State) : Bool :=
  let m := s.cur.active gr
  decide (m ≠ 0) &&
  match loadDescriptor m (s.cur.getS sb) fresh (cpolOf gr) s with
  | none => false
  | some (s1, x) =>
    let at_ := fun (k : Nat) => sext57 (BitVec.ofNat 64 (x / 2 ^ (64 * k) % 2 ^ 57))
    let off := fun (l : Fin 32) => ((s1.cur.getV vi l).toNat : Int) + (offOf gr).toInt
    let isIn := fun (l : Fin 32) => decide (0 ≤ off l ∧ off l + (tyBytes ty : Int) ≤ (x / 2 ^ 64 % 2 ^ 24 * 65536 : Nat))
    let page := fun (l : Fin 32) => (off l).toNat / 65536
    let ins := (lanesOf m).filter isIn
    !badCluster x &&
    match readMaps fresh (cpolOf gr) (ins.map fun l => (l, ())) (fun s l _ => checkLane s l (mapWord (at_ 2) (page l)) 4 4 .data) s1 with
    | none => false
    | some (s2, ws) =>
      (ins.zip ws).all (fun y => mapBit y.2 (page y.1))
      && (loadItems fresh (cpolOf gr) (ins.map fun l => (l, ()))
        (fun s l _ => checkLane s l (at_ 0 + BitVec.ofNat 64 (off l).toNat) (tyBytes ty) (tyBytes ty) .data) s2).isSome
theorem clustersOnce_of {gr : Grp} {v vi sb : Nat} {ty : BitVec 3} {fresh : Bool} {s : State} (h : clusters gr vi sb ty fresh s = true) :
    ∃ t, ClustersOnce gr v vi sb ty fresh s t := by
  unfold clusters at h
  simp only [Bool.and_eq_true, decide_eq_true_eq] at h
  obtain ⟨hm, h⟩ := h
  unfold ClustersOnce
  simp only [if_neg hm]
  split at h
  · cases h
  · rename_i s1 x e1
    simp only [Bool.and_eq_true] at h
    obtain ⟨hb, h⟩ := h
    split at h
    · cases h
    · rename_i s2 ws e2
      simp only [Bool.and_eq_true] at h
      obtain ⟨s3, vs, e3⟩ := some_of h.2
      exact ⟨_, s1, x, s2, ws, s3, vs, loadDescriptor_spec e1, by simpa using hb, readMaps_spec e2,
        fun y hy => List.all_eq_true.1 h.1 y hy, loadItems_spec e3, rfl⟩

/-! ## Accesses that are served -/

/-- The access of a lane's check, when it passes. -/
def accOf (x : State × Except Trap Acc) : Acc := match x.2 with | .ok a => a | .error _ => { va := 0, parts := [], dom := .core, key := 0 }
def accPasses (x : State × Except Trap Acc) : Bool := match x.2 with | .ok _ => true | .error _ => false
theorem acc_eq {x : State × Except Trap Acc} {s : State} (h1 : x.1 = s) (h2 : accPasses x = true) : x = (s, .ok (accOf x)) := by
  obtain ⟨t, e⟩ := x
  cases e <;> simp_all [accPasses, accOf]

/-- A core's TLBs hold the translation of an address (R22, R42): an access then leaves them, and the page tables, alone. -/
def inTlb (s : State) (core : Nat) (ptroot va : Dword) : Bool :=
  !s.sched.walk && (tlbFind (s.coreAt core) (bits ptroot 11 0) va.toNat).isSome
theorem leafOf_state {s : State} {c : Ctx} {va : Dword} (ht : c.tlb = true) (h : inTlb s c.core c.ptroot va = true) : (leafOf s c va).1 = s := by
  unfold inTlb at h
  simp only [Bool.and_eq_true, Bool.not_eq_true'] at h
  obtain ⟨x, hx⟩ := Option.isSome_iff_exists.1 h.2
  unfold leafOf
  rw [ht, h.1, hx]
  simp only [Bool.not_false, Bool.and_self, ite_true]
  split <;> rfl
theorem translate_state {s : State} {c : Ctx} {va : Dword} {size : Nat} {k : Kind} (ht : c.tlb = true) (h : inTlb s c.core c.ptroot va = true) :
    (Machine.translate s c va size k).1 = s := by
  have hl := leafOf_state ht h
  unfold Machine.translate
  split
  · rfl
  · split <;> (rename_i e; rw [e] at hl; exact hl)
theorem resolve_state {s : State} {c : Ctx} {lane : Nat} {va : Dword} {size align : Nat} {k : Kind} {wide : Bool} {more : Acc → Except Trap Unit}
    (ha : inAperture va = false) (hc : c.tlb = true) (h : inTlb s c.core c.ptroot va = true) : (resolve s c lane va size align k wide more).1 = s := by
  have ht := translate_state (s := s) (c := c) (va := va) (size := size) (k := k) hc h
  unfold resolve
  split
  · rfl
  · rw [ha]; dsimp only
    rw [if_neg (by decide)]
    split
    · rename_i e; rw [e] at ht; exact ht
    · rename_i e; rw [e] at ht
      split <;> exact ht
theorem stashAt_nil {k : Core} (h : k.stash = []) (b o : Nat) : stashAt k b o = none := by unfold stashAt; rw [h]; rfl
theorem localPlace_state {s : State} {c : Ctx} {win : Bool} {va : Dword} {o size align : Nat} {k : Kind}
    (h : ∀ n, (s.coreAt n).stash = []) : (localPlace s c win va o size align k).1 = s := by
  unfold localPlace
  dsimp only
  split
  · rfl
  · split
    · rfl
    · split
      · rfl
      · have hs : ∀ n b off w, stashCheck s n b off w = (s, .ok none) := fun n b off w => by unfold stashCheck; rw [stashAt_nil (h _)]
        rw [hs]
        split <;> split <;> rfl
theorem resolve_local {s : State} {c : Ctx} {lane : Nat} {va : Dword} {size align : Nat} {k : Kind} {wide : Bool} {more : Acc → Except Trap Unit} (ha : inAperture va = true)
    (hw : va.toNat - apertureBase < 0x104000000) (h : ∀ n, (s.coreAt n).stash = []) : (resolve s c lane va size align k wide more).1 = s := by
  unfold resolve
  cases hc : canonical va
  · rfl
  · rw [ha]
    simp only [Bool.not_true, Bool.false_eq_true, if_false, if_true]
    generalize va.toNat - apertureBase = o at hw ⊢
    by_cases a : o < 0x80000
    · rw [if_pos a]; exact localPlace_state h
    · rw [if_neg a]
      by_cases b : 0x100000000 ≤ o ∧ o < 0x104000000
      · rw [if_pos b]; exact localPlace_state h
      · rw [if_neg b]
        have e1 : ¬(0x200000000 ≤ o ∧ o < 0x200100000) := by omega
        have e2 : ¬(0x300000000 ≤ o ∧ o < 0x300020000) := by omega
        rw [if_neg e1, if_neg e2]
theorem checkLane_state {s : State} {l : Fin 32} {va : Dword} {size align : Nat} {k : Kind} {wide : Bool} {more : Acc → Except Trap Unit}
    (h : (resolve s (laneCtx s l) (s.cur.threads[l].tid % 32) va size align k wide more).1 = s) : (checkLane s l va size align k wide more).1 = s := by
  unfold checkLane
  split <;> (rename_i e; rw [e] at h; exact h)
/-- A lane's check of an address in memory leaves the machine alone when its translation stands in the core's TLBs. -/
theorem checkLane_mem {s : State} {l : Fin 32} {va : Dword} {size align : Nat} {k : Kind} {wide : Bool} {more : Acc → Except Trap Unit}
    (h : inAperture va = false ∧ inTlb s s.core.id s.curLaunch.ptroot va = true) : (checkLane s l va size align k wide more).1 = s :=
  checkLane_state (resolve_state h.1 rfl h.2)
/-- A lane's check of an address in a local store leaves the machine alone when no stash line is mapped. -/
theorem checkLane_local {s : State} {l : Fin 32} {va : Dword} {size align : Nat} {k : Kind} {wide : Bool} {more : Acc → Except Trap Unit}
    (ha : inAperture va = true ∧ va.toNat - apertureBase < 0x104000000) (h : ∀ n, (s.coreAt n).stash = []) :
    (checkLane s l va size align k wide more).1 = s := checkLane_state (resolve_local ha.1 ha.2 h)
/-- A private access of one word (R30) leaves the machine alone when its translation stands in the core's TLBs. -/
theorem privAcc_state {s : State} {c : Ctx} {lane p al : Nat} {va : Dword} {k : Kind} (ht : c.tlb = true)
    (h : inTlb s c.core c.ptroot (BitVec.ofNat 64 ((c.privBase + c.warpNo * 32 * c.privBytes + p / 4 * 128 + lane * 4 + p % 4) % 2 ^ 64)) = true) :
    (privAcc s c lane p va 4 al k false).1 = s := by
  have h4 := translate_state (s := s) (c := { c with regions := [privateRegion] }) (size := 4) (k := k) ht h
  have hp : (privateParts s { c with regions := [privateRegion] } k lane p 4 1 0).1 = s := by
    unfold privateParts
    dsimp only at h4 ⊢
    split
    · rename_i e; rw [show p + 0 = p from rfl] at e; rw [e] at h4; exact h4
    · rename_i e; rw [show p + 0 = p from rfl] at e; rw [e] at h4; exact h4
  unfold privAcc
  split
  · rfl
  · show (match privateParts s { c with regions := [privateRegion] } k lane p 4 1 0 with | (s, .error t) => _ | (s, .ok (ps, d)) => _ : State × Except Trap Acc).1 = s
    split
    · rename_i e; rw [e] at hp; exact hp
    · rename_i e; rw [e] at hp
      split
      · exact hp
      · exact hp
theorem checkPrivate_state {s : State} {l : Fin 32} {p : Nat} {k : Kind}
    (h : inTlb s s.core.id (laneCtx s l).ptroot (BitVec.ofNat 64 (((laneCtx s l).privBase + (laneCtx s l).warpNo * 32 * (laneCtx s l).privBytes
      + p / 4 * 128 + s.cur.threads[l].tid % 32 * 4 + p % 4) % 2 ^ 64)) = true) : (checkPrivate s l false p 4 k).1 = s := by
  unfold checkPrivate
  exact privAcc_state rfl h

/-- What a check reads of the machine is the same when a group's performance has begun. -/
theorem begun_inTlb (i : Instr) (s : State) (c : Nat) (r va : Dword) : inTlb (begun i s) c r va = inTlb s c r va := by unfold begun; split <;> rfl
theorem begun_core (i : Instr) (s : State) : (begun i s).core = s.core := by unfold begun; split <;> rfl
theorem begun_curLaunch (i : Instr) (s : State) : (begun i s).curLaunch = s.curLaunch := by unfold begun; split <;> rfl
theorem begun_coreAt (i : Instr) (s : State) (n : Nat) : (begun i s).coreAt n = s.coreAt n := by unfold begun; split <;> rfl
theorem begun_laneCtx (i : Instr) (s : State) (l : Fin 32) : laneCtx (begun i s) l = laneCtx s l := by unfold begun; split <;> rfl
theorem begun_threads (i : Instr) (s : State) : (begun i s).cur.threads = s.cur.threads := by unfold begun; split <;> rfl

/-- A part of an access lies in normal device memory, inside one line, under a key that ciphers nothing. -/
def partIn (s : State) (p : Part) : Bool :=
  match p.place with | .mem pa st => !st && decide (pa % 64 + p.n ≤ 64) && decide (s.mgmt.material p.key = none) | _ => false
theorem partIn_spec {s : State} {p : Part} (h : partIn s p = true) :
    s.mgmt.material p.key = none ∧ ∃ pa, p.place = .mem pa false ∧ pa % 64 + p.n ≤ 64 := by
  unfold partIn at h
  split at h
  · rename_i pa st e
    cases st <;> simp_all
  · cases h

/-- The pages of an access that writes have their D set in the translations it has (R22). -/
def marked (a : Acc) : Bool := !a.dirties || a.parts.all fun p => match p.leaf with | none => true | some l => l.e.getLsbD 6
theorem markParts_of {s : State} {core : Nat} : ∀ {ps : List Part},
    (ps.all fun p => match p.leaf with | none => true | some l => l.e.getLsbD 6) = true → markParts s core ps = (s, true)
  | [], _ => rfl
  | p :: r, h => by
    simp only [List.all_cons, Bool.and_eq_true] at h
    unfold markParts
    split
    · exact markParts_of h.2
    · rename_i l e
      rw [e] at h
      unfold markLeaf
      rw [if_pos h.1]
      exact markParts_of h.2
theorem markDirty_of {s : State} {core : Nat} {a : Acc} (h : marked a = true) : markDirty s core a = (s, true) := by
  unfold marked at h
  unfold markDirty
  split
  · exact markParts_of (by simp_all)
  · rfl

/-- A lane's access as it is served, computed. -/
def lanePasses (s : State) (l : Fin 32) (x : State × Except Trap Acc) : Bool :=
  accPasses x && marked (accOf x) && !(accOf x).pub && decide (s.mgmt.material (accOf x).key = none)
    && decide (s.cur.threads[l].pending.length ≤ 4) && (accOf x).parts.all (partIn s)
theorem servedLane_of {s : State} {l : Fin 32} {chk : State → Fin 32 → State × Except Trap Acc} {x : State × Except Trap Acc} (hx : x = chk s l)
    (h1 : x.1 = s) (h : lanePasses s l x = true) : ServedLane s l chk (accOf x) := by
  subst hx
  unfold lanePasses at h
  simp only [Bool.and_eq_true, decide_eq_true_eq, Bool.not_eq_true'] at h
  obtain ⟨⟨⟨⟨⟨h2, hm⟩, h3⟩, h4⟩, h5⟩, h6⟩ := h
  exact ⟨acc_eq h1 h2, markDirty_of hm, h3, h4, h5, fun p hp => partIn_spec (List.all_eq_true.1 h6 p hp)⟩
theorem served_of {s : State} {gr : Grp} {chk : State → Fin 32 → State × Except Trap Acc}
    (h1 : ∀ l : Fin 32, (s.cur.active gr).getLsbD l.val = true → (chk s l).1 = s)
    (h : ∀ l : Fin 32, (s.cur.active gr).getLsbD l.val = true → lanePasses s l (chk s l) = true) : Served s gr chk fun l => accOf (chk s l) :=
  fun l hl => servedLane_of rfl (h1 l hl) (h l hl)
/-- An access is to `n` bytes at one place of device memory, computed. -/
def wordAt (a : Acc) (n pa : Nat) : Bool :=
  match a.parts with
  | [p] => p.place = .mem pa false && p.off = 0 && p.n = n && p.key = a.key
  | _ => false
theorem wordAt_spec {a : Acc} {n pa : Nat} (h : wordAt a n pa = true) :
    ∃ p, a.parts = [p] ∧ p.place = .mem pa false ∧ p.off = 0 ∧ p.n = n ∧ p.key = a.key := by
  unfold wordAt at h
  split at h
  · simp only [Bool.and_eq_true, decide_eq_true_eq] at h
    exact ⟨_, ‹_›, h.1.1.1, h.1.1.2, h.1.2, h.2⟩
  · cases h
theorem servedWord_of {s : State} {gr : Grp} {chk : State → Fin 32 → State × Except Trap Acc} {n : Nat} {pa : Fin 32 → Nat}
    (h1 : ∀ l : Fin 32, (s.cur.active gr).getLsbD l.val = true → (chk s l).1 = s)
    (h : ∀ l : Fin 32, (s.cur.active gr).getLsbD l.val = true →
      lanePasses s l (chk s l) = true ∧ wordAt (accOf (chk s l)) n (pa l) = true ∧ (accOf (chk s l)).cfmt = 0) :
    ServedWord s gr chk n pa := ⟨_, served_of h1 fun l hl => (h l hl).1, fun l hl => ⟨wordAt_spec (h l hl).2.1, (h l hl).2.2⟩⟩
/-- An access is to `n` bytes at an offset of a local store, computed. -/
def localAt (a : Acc) (core bslot n off : Nat) : Bool :=
  match a.parts with
  | [p] => p.place = .loc core bslot off && p.off = 0 && p.n = n
  | _ => false
theorem localAt_spec {a : Acc} {core bslot n off : Nat} (h : localAt a core bslot n off = true) :
    ∃ p, a.parts = [p] ∧ p.place = .loc core bslot off ∧ p.off = 0 ∧ p.n = n := by
  unfold localAt at h
  split at h
  · simp only [Bool.and_eq_true, decide_eq_true_eq] at h
    exact ⟨_, ‹_›, h.1.1, h.1.2, h.2⟩
  · cases h
theorem servedLocal_of {s : State} {gr : Grp} {chk : State → Fin 32 → State × Except Trap Acc} {core bslot n : Nat} {off : Fin 32 → Nat}
    (h1 : ∀ l : Fin 32, (s.cur.active gr).getLsbD l.val = true → (chk s l).1 = s)
    (h : ∀ l : Fin 32, (s.cur.active gr).getLsbD l.val = true → s.cur.threads[l].pending.length ≤ 4 ∧ accPasses (chk s l) = true
      ∧ marked (accOf (chk s l)) = true ∧ localAt (accOf (chk s l)) core bslot n (off l) = true) :
    ServedLocal s gr chk core bslot n off := fun l hl => by
  obtain ⟨h2, h3, h4, h5⟩ := h l hl
  obtain ⟨p, h5⟩ := localAt_spec h5
  exact ⟨h2, _, p, acc_eq (h1 l hl) h3, markDirty_of h4, h5⟩

end Sys2Proof.Laws
end

