-- ==== Sys2Proof/Tests/Slice0.lean ====
section
/-! SUPPORT. Tests: ill-formed terms and words that are refused, every encoded instruction decoded from a word of the encoding the
spec gives it, the spec's worked examples one step each, and witnesses of the hypotheses of the statements. -/

namespace Sys2Proof.Tests

open Sys2Proof.Machine Sys2Proof.Safety Sys2Proof.Laws

set_option Elab.async false

/-! ## Ill-formed terms, one for each check -/

/-- R180: at most three hint words. -/
theorem test_ill_four_hints :
    Instr.wellFormed (.saddi { imms := [1, 2], src := some ⟨0, 0, 1, false, true⟩, mod := some ⟨0, false, 0, 0⟩ } 1 2 0) = false := rfl
/-- R178, R181: an immediate hint on an instruction without an immediate, a second one on MOVI. -/
theorem test_ill_immediate :
    Instr.wellFormed (.iadd { imms := [1] } 1 2 0 3 0 0) = false ∧ Instr.wellFormed (.movi { imms := [1, 2] } 1 0) = false := ⟨rfl, rfl⟩
/-- R181: a guard on a branch, a rounding on EXIT, a repetition on BAR, a third source on IADD. -/
theorem test_ill_hint :
    Instr.wellFormed (.bra { src := some ⟨0, 0, 1, false, true⟩ } 7 0 0) = false
    ∧ Instr.wellFormed (.exitL { mod := some ⟨1, false, 0, 0⟩ }) = false
    ∧ Instr.wellFormed (.bar { rep := some ⟨1, 0, 0, 0, 0⟩ }) = false
    ∧ Instr.wellFormed (.iadd { src := some ⟨5, 0, 0, false, false⟩ } 1 2 0 3 0 0) = false := ⟨rfl, rfl, rfl, rfl⟩
/-- R181: a required third source is absent: the group traps when it is performed. -/
theorem test_missing_third : Instr.missingThird (.ffma {} 1 2 0 3 0 0) = true ∧ Instr.missingThird (.fmul {} 1 2 0 3 0 0) = false := ⟨rfl, rfl⟩
/-- R179: a guard named but not enabled, a reserved rounding mode, a reserved cache policy, one repetition. -/
theorem test_ill_hint_field :
    Instr.wellFormed (.iadd { src := some ⟨0, 0, 1, false, false⟩ } 1 2 0 3 0 0) = false
    ∧ Instr.wellFormed (.iadd { mod := some ⟨5, false, 0, 0⟩ } 1 2 0 3 0 0) = false
    ∧ Instr.wellFormed (.iadd { mod := some ⟨0, false, 5, 0⟩ } 1 2 0 3 0 0) = false
    ∧ Instr.wellFormed (.iadd { rep := some ⟨0, 1, 1, 0, 0⟩ } 1 2 0 3 0 0) = false := ⟨rfl, rfl, rfl, rfl⟩
/-- R177, R186: LK = 11 on a source that is read; LKb with a uniform b. -/
theorem test_ill_last_use :
    Instr.wellFormed (.iadd {} 1 2 3 3 0 0) = false ∧ Instr.wellFormed (.iadd {} 1 2 0 3 1 1) = false := ⟨rfl, rfl⟩
/-- R247, R207, R212, R258, R283, R307, R311: reserved values of operand fields. -/
theorem test_ill_field :
    Instr.wellFormed (.fcvt {} 1 2 0 1 1 0) = false ∧ Instr.wellFormed (.fcvt {} 1 2 0 0 7 0) = false
    ∧ Instr.wellFormed (.vote {} 9 0 0 0 0 1) = false ∧ Instr.wellFormed (.sget {} 1 0x11) = false
    ∧ Instr.wellFormed (.v2s {} 1 2 0 0 0 1 3) = false ∧ Instr.wellFormed (.st {} 1 2 3 1 0) = false
    ∧ Instr.wellFormed (.hadd2 { mod := some ⟨0, false, 2, 0⟩ } 1 2 0 3 0 0) = false := ⟨rfl, rfl, rfl, rfl, rfl, rfl, rfl⟩

/-! ## Words that are no instruction (R183, R190) -/

theorem test_reject_base :
    decodeGroup [0x0E000000] = .error .unassigned ∧ decodeGroup [0x78000000] = .error .unclaimed
    ∧ decodeGroup [0x34800001] = .error .reservedField ∧ decodeGroup [0x00041E18] = .error .lastUse := ⟨rfl, rfl, rfl, rfl⟩
theorem test_reject_hint :
    decodeGroup [0x71500000, 0x00041018] = .error .hintReserved ∧ decodeGroup [0xF0800000] = .error .hintSwitch
    ∧ decodeGroup [0x70000000, 0x70000000, 0x70800000, 0x71000000] = .error .fourthHint
    ∧ decodeGroup [0x71000000, 0x0E000000] = .error .hintNoInstr
    ∧ decodeGroup [0x71000000, 0x71000000] = .error .hintRepeated
    ∧ decodeGroup [0x70000000, 0x00041018] = .error .hintNotAccepted
    ∧ decodeGroup [0x11880E10] = .error .missingSource ∧ decodeGroup [0x71000000] = .error .truncated :=
  ⟨rfl, rfl, rfl, rfl, rfl, rfl, rfl, rfl⟩

/-! ## Decoding: a word of every instruction, its fields placed by hand in the encoding that spec/opcode_table.json gives -/
theorem test_decode_integer :
    decodeGroup [0x80044D1C] = .ok (.iadd { sw := true } 2 9 2 35 2 0, 1)
    ∧ decodeGroup [0x80844D1C] = .ok (.isub { sw := true } 2 9 2 35 2 0, 1)
    ∧ decodeGroup [0x81044D1C] = .ok (.imul { sw := true } 2 9 2 35 2 0, 1)
    ∧ decodeGroup [0x81844D1C] = .ok (.imulhiS { sw := true } 2 9 2 35 2 0, 1)
    ∧ decodeGroup [0x82044D1C] = .ok (.imulhiU { sw := true } 2 9 2 35 2 0, 1)
    ∧ decodeGroup [0x70AA8000, 0x82844D1C] = .ok (.imad { sw := true, src := some ⟨21, 1, 0, false, false⟩ } 2 9 2 35 2 0, 2)
    ∧ decodeGroup [0x83044D1C] = .ok (.iminS { sw := true } 2 9 2 35 2 0, 1)
    ∧ decodeGroup [0x83844D1C] = .ok (.iminU { sw := true } 2 9 2 35 2 0, 1)
    ∧ decodeGroup [0x84044D1C] = .ok (.imaxS { sw := true } 2 9 2 35 2 0, 1)
    ∧ decodeGroup [0x84844D1C] = .ok (.imaxU { sw := true } 2 9 2 35 2 0, 1)
    ∧ decodeGroup [0x85044C00] = .ok (.iabs { sw := true } 2 9 2, 1)
    ∧ decodeGroup [0x85844D1C] = .ok (.andV { sw := true } 2 9 2 35 2 0, 1)
    ∧ decodeGroup [0x86044D1C] = .ok (.orV { sw := true } 2 9 2 35 2 0, 1)
    ∧ decodeGroup [0x86844D1C] = .ok (.xorV { sw := true } 2 9 2 35 2 0, 1)
    ∧ decodeGroup [0x87044D1C] = .ok (.shl { sw := true } 2 9 2 35 2 0, 1)
    ∧ decodeGroup [0x87844D1C] = .ok (.shr { sw := true } 2 9 2 35 2 0, 1)
    ∧ decodeGroup [0x88044D1C] = .ok (.sar { sw := true } 2 9 2 35 2 0, 1)
    ∧ decodeGroup [0x70AA8000, 0x88844D1C] = .ok (.bfe { sw := true, src := some ⟨21, 1, 0, false, false⟩ } 2 9 2 35 2 0, 2)
    ∧ decodeGroup [0x70AA8000, 0x89044D1C] = .ok (.bfi { sw := true, src := some ⟨21, 1, 0, false, false⟩ } 2 9 2 35 2 0, 2)
    ∧ decodeGroup [0x89844C00] = .ok (.popc { sw := true } 2 9 2, 1)
    ∧ decodeGroup [0x8A044C00] = .ok (.clz { sw := true } 2 9 2, 1)
    ∧ decodeGroup [0x8AB8A594] = .ok (.icmp { sw := true } 3 4 20 2 50 2 0, 1)
    ∧ decodeGroup [0x708A0000, 0x8B044D1C] = .ok (.sel { sw := true, src := some ⟨5, 0, 0, false, false⟩ } 2 9 2 35 2 0, 2)
    ∧ decodeGroup [0x8B844C00] = .ok (.mov { sw := true } 2 9 2, 1)
    ∧ decodeGroup [0x8C0400D2] = .ok (.movi { sw := true } 2 210, 1)
    ∧ decodeGroup [0x8C844CB4] = .ok (.iaddi { sw := true } 2 9 2 180, 1)
    ∧ decodeGroup [0x8D044C34] = .ok (.andi { sw := true } 2 9 2 52, 1)
    ∧ decodeGroup [0x8D044CB4] = .ok (.ori { sw := true } 2 9 2 52, 1)
    ∧ decodeGroup [0x8D044D34] = .ok (.xori { sw := true } 2 9 2 52, 1)
    ∧ decodeGroup [0x8D044DB4] = .ok (.andni { sw := true } 2 9 2 52, 1)
    ∧ decodeGroup [0x8D844C14] = .ok (.shli { sw := true } 2 9 2 20, 1)
    ∧ decodeGroup [0x8D844C94] = .ok (.shri { sw := true } 2 9 2 20, 1)
    ∧ decodeGroup [0x8D844D14] = .ok (.sari { sw := true } 2 9 2 20, 1)
    ∧ decodeGroup [0x8D844D94] = .ok (.roti { sw := true } 2 9 2 20, 1) :=
  ⟨rfl, rfl, rfl, rfl, rfl, rfl, rfl, rfl, rfl, rfl, rfl, rfl, rfl, rfl, rfl, rfl, rfl, rfl, rfl, rfl, rfl, rfl, rfl, rfl, rfl, rfl, rfl, rfl, rfl,
    rfl, rfl, rfl, rfl, rfl⟩

theorem test_decode_float :
    decodeGroup [0x90044D1C] = .ok (.fadd { sw := true } 2 9 2 35 2 0, 1)
    ∧ decodeGroup [0x90844D1C] = .ok (.fsub { sw := true } 2 9 2 35 2 0, 1)
    ∧ decodeGroup [0x91044D1C] = .ok (.fmul { sw := true } 2 9 2 35 2 0, 1)
    ∧ decodeGroup [0x70AA8000, 0x91844D1C] = .ok (.ffma { sw := true, src := some ⟨21, 1, 0, false, false⟩ } 2 9 2 35 2 0, 2)
    ∧ decodeGroup [0x92044D1C] = .ok (.fmin { sw := true } 2 9 2 35 2 0, 1)
    ∧ decodeGroup [0x92844D1C] = .ok (.fmax { sw := true } 2 9 2 35 2 0, 1)
    ∧ decodeGroup [0x9338A594] = .ok (.fcmp { sw := true } 3 4 20 2 50 2 0, 1)
    ∧ decodeGroup [0x93844C00] = .ok (.fclass { sw := true } 2 9 2, 1)
    ∧ decodeGroup [0x94044C00] = .ok (.frnd { sw := true } 2 9 2, 1)
    ∧ decodeGroup [0x94844C01] = .ok (.f2i { sw := true } 2 9 2 1, 1)
    ∧ decodeGroup [0x95044C01] = .ok (.i2f { sw := true } 2 9 2 1, 1)
    ∧ decodeGroup [0x95844DA9] = .ok (.fcvt { sw := true } 2 9 2 6 5 1, 1)
    ∧ decodeGroup [0x96044D1C] = .ok (.hadd2 { sw := true } 2 9 2 35 2 0, 1)
    ∧ decodeGroup [0x96844D1C] = .ok (.hmul2 { sw := true } 2 9 2 35 2 0, 1)
    ∧ decodeGroup [0x70AA8000, 0x97044D1C] = .ok (.hfma2 { sw := true, src := some ⟨21, 1, 0, false, false⟩ } 2 9 2 35 2 0, 2)
    ∧ decodeGroup [0x70AA8000, 0x97844D1C] = .ok (.dot4 { sw := true, src := some ⟨21, 1, 0, false, false⟩ } 2 9 2 35 2 0, 2)
    ∧ decodeGroup [0x98044C06] = .ok (.sfu { sw := true } 2 9 2 6, 1)
    ∧ decodeGroup [0x98844D1C] = .ok (.fscale { sw := true } 2 9 2 35 2 0, 1) :=
  ⟨rfl, rfl, rfl, rfl, rfl, rfl, rfl, rfl, rfl, rfl, rfl, rfl, rfl, rfl, rfl, rfl, rfl, rfl⟩

theorem test_decode_lanes :
    decodeGroup [0xA0044D0D] = .ok (.shfl { sw := true } 2 9 2 2 0 13, 1)
    ∧ decodeGroup [0xA0840189] = .ok (.vote { sw := true } 2 0 0 3 1 1, 1)
    ∧ decodeGroup [0xA1044D00] = .ok (.matchV { sw := true } 2 9 2 2, 1)
    ∧ decodeGroup [0xA1844D80] = .ok (.redux { sw := true } 2 9 2 6, 1)
    ∧ decodeGroup [0xA2044DA0] = .ok (.pscan { sw := true } 2 9 2 6 1, 1)
    ∧ decodeGroup [0xA2800003] = .ok (.part { sw := true } 3, 1)
    ∧ decodeGroup [0xA3040009] = .ok (.sget { sw := true } 2 9, 1)
    ∧ decodeGroup [0xA3844C60] = .ok (.v2s { sw := true } 2 9 2 0 1 1 0, 1)
    ∧ decodeGroup [0xA4044840] = .ok (.s2v { sw := true } 2 9 1, 1)
    ∧ decodeGroup [0xA4862035] = .ok (.pmovAnd { sw := true } 3 4 1 1 5, 1)
    ∧ decodeGroup [0xA4862075] = .ok (.pmovOr { sw := true } 3 4 1 1 5, 1)
    ∧ decodeGroup [0xA48620B5] = .ok (.pmovXor { sw := true } 3 4 1 1 5, 1)
    ∧ decodeGroup [0xA48420C0] = .ok (.pmovP2v { sw := true } 2 4, 1)
    ∧ decodeGroup [0xA4864D00] = .ok (.pmovV2p { sw := true } 3 9 2, 1)
    ∧ decodeGroup [0xA4842140] = .ok (.pmovP2s { sw := true } 2 4, 1)
    ∧ decodeGroup [0xA4864980] = .ok (.pmovS2p { sw := true } 3 9, 1) :=
  ⟨rfl, rfl, rfl, rfl, rfl, rfl, rfl, rfl, rfl, rfl, rfl, rfl, rfl, rfl, rfl, rfl⟩

theorem test_decode_uniform :
    decodeGroup [0xA8044A80] = .ok (.sadd { sw := true } 2 9 20, 1)
    ∧ decodeGroup [0xA8844A80] = .ok (.ssub { sw := true } 2 9 20, 1)
    ∧ decodeGroup [0xA9044A82] = .ok (.smul { sw := true } 2 9 20 2, 1)
    ∧ decodeGroup [0xA9844A80] = .ok (.sand { sw := true } 2 9 20, 1)
    ∧ decodeGroup [0xA9844A81] = .ok (.sor { sw := true } 2 9 20, 1)
    ∧ decodeGroup [0xA9844A82] = .ok (.sxor { sw := true } 2 9 20, 1)
    ∧ decodeGroup [0xA9844A83] = .ok (.sandn { sw := true } 2 9 20, 1)
    ∧ decodeGroup [0xAA044A80] = .ok (.sshl { sw := true } 2 9 20, 1)
    ∧ decodeGroup [0xAA044A81] = .ok (.sshr { sw := true } 2 9 20, 1)
    ∧ decodeGroup [0xAA044A82] = .ok (.ssar { sw := true } 2 9 20, 1)
    ∧ decodeGroup [0xAA044A83] = .ok (.srot { sw := true } 2 9 20, 1)
    ∧ decodeGroup [0xAA844A8D] = .ok (.scmp { sw := true } 2 9 20 1 5, 1)
    ∧ decodeGroup [0xAB044800] = .ok (.smov { sw := true } 2 9, 1)
    ∧ decodeGroup [0xAB064801] = .ok (.smovTlo { sw := true } 3 9, 1)
    ∧ decodeGroup [0xAB064802] = .ok (.smovThi { sw := true } 3 9, 1)
    ∧ decodeGroup [0xAB042003] = .ok (.smovSlo { sw := true } 2 4, 1)
    ∧ decodeGroup [0xAB042004] = .ok (.smovShi { sw := true } 2 4, 1)
    ∧ decodeGroup [0xAB8402D2] = .ok (.smovi { sw := true } 2 722, 1)
    ∧ decodeGroup [0xAC044969] = .ok (.saddi { sw := true } 2 9 361, 1)
    ∧ decodeGroup [0xAC844A81] = .ok (.sbfe { sw := true } 2 9 20 1, 1)
    ∧ decodeGroup [0xAD044A81] = .ok (.smin { sw := true } 2 9 20 1, 1)
    ∧ decodeGroup [0xAD044A83] = .ok (.smax { sw := true } 2 9 20 1, 1)
    ∧ decodeGroup [0xAD844800] = .ok (.spopc { sw := true } 2 9, 1)
    ∧ decodeGroup [0xAD844801] = .ok (.sclz { sw := true } 2 9, 1)
    ∧ decodeGroup [0xAD844802] = .ok (.sctz { sw := true } 2 9, 1)
    ∧ decodeGroup [0xAD844803] = .ok (.sbrev { sw := true } 2 9, 1) :=
  ⟨rfl, rfl, rfl, rfl, rfl, rfl, rfl, rfl, rfl, rfl, rfl, rfl, rfl, rfl, rfl, rfl, rfl, rfl, rfl, rfl, rfl, rfl, rfl, rfl, rfl, rfl⟩

theorem test_decode_control :
    decodeGroup [0xB0396969] = .ok (.bra { sw := true } 3 1 92521, 1)
    ∧ decodeGroup [0xB0B96969] = .ok (.brp { sw := true } 3 1 92521, 1)
    ∧ decodeGroup [0xB1396969] = .ok (.brs { sw := true } 3 1 92521, 1)
    ∧ decodeGroup [0xB1801400] = .ok (.jmpi { sw := true } 2 2, 1)
    ∧ decodeGroup [0xB2396969] = .ok (.call { sw := true } 3 1 92521, 1)
    ∧ decodeGroup [0xB2801400] = .ok (.calli { sw := true } 2 2, 1)
    ∧ decodeGroup [0xB3001400] = .ok (.ret { sw := true } 2 2, 1)
    ∧ decodeGroup [0xB3800000] = .ok (.exitL { sw := true }, 1)
    ∧ decodeGroup [0xB4000000] = .ok (.yield { sw := true }, 1)
    ∧ decodeGroup [0xB4800000] = .ok (.nop { sw := true }, 1)
    ∧ decodeGroup [0xB5149523] = .ok (.mcall { sw := true } 5 9 20 35, 1)
    ∧ decodeGroup [0xB5800000] = .ok (.mret { sw := true }, 1) :=
  ⟨rfl, rfl, rfl, rfl, rfl, rfl, rfl, rfl, rfl, rfl, rfl, rfl⟩

theorem test_decode_memory :
    decodeGroup [0xB8044A9B] = .ok (.ld { sw := true } 2 9 20 6 1 1, 1)
    ∧ decodeGroup [0xB8844A99] = .ok (.st { sw := true } 2 9 20 6 1, 1)
    ∧ decodeGroup [0xB9044A9B] = .ok (.ldl { sw := true } 2 9 20 6 1 1, 1)
    ∧ decodeGroup [0xB9844A9B] = .ok (.stl { sw := true } 2 9 20 6 1 1, 1)
    ∧ decodeGroup [0xBA044817] = .ok (.ldu { sw := true } 2 9 5 1 1, 1)
    ∧ decodeGroup [0xBA844815] = .ok (.stu { sw := true } 2 9 5 1, 1)
    ∧ decodeGroup [0xBB044A89] = .ok (.atom { sw := true } 2 9 20 4 1, 1)
    ∧ decodeGroup [0x70AA8000, 0xBB844A83] = .ok (.cas { sw := true, src := some ⟨21, 1, 0, false, false⟩ } 2 9 20 1 1, 2)
    ∧ decodeGroup [0xBC044A8D] = .ok (.red { sw := true } 2 9 20 6 1, 1)
    ∧ decodeGroup [0xBC044A9D] = .ok (.redHome { sw := true } 2 9 20 6 1, 1)
    ∧ decodeGroup [0xBC844A88] = .ok (.atoml { sw := true } 2 9 20 4, 1)
    ∧ decodeGroup [0xBD044A8C] = .ok (.redl { sw := true } 2 9 20 6, 1) :=
  ⟨rfl, rfl, rfl, rfl, rfl, rfl, rfl, rfl, rfl, rfl, rfl, rfl⟩

theorem test_decode_ordering :
    decodeGroup [0xBD800000] = .ok (.fenceAcq { sw := true }, 1)
    ∧ decodeGroup [0xBD800001] = .ok (.fenceRel { sw := true }, 1)
    ∧ decodeGroup [0xBD800002] = .ok (.fenceSc { sw := true }, 1)
    ∧ decodeGroup [0xBE000000] = .ok (.cfence { sw := true }, 1)
    ∧ decodeGroup [0xBE800000] = .ok (.publish { sw := true }, 1)
    ∧ decodeGroup [0xBF001122] = .ok (.prefetch { sw := true } 2 9 1, 1)
    ∧ decodeGroup [0xBF844A80] = .ok (.lock { sw := true } 2 9 20, 1)
    ∧ decodeGroup [0xBF844A82] = .ok (.unlock { sw := true } 2 9 20, 1)
    ∧ decodeGroup [0xC0044A80] = .ok (.stashMap { sw := true } 2 9 20, 1)
    ∧ decodeGroup [0xC0001001] = .ok (.stashUnmap { sw := true } 2, 1)
    ∧ decodeGroup [0xC0844A92] = .ok (.ldp { sw := true } 2 9 20 4 1, 1)
    ∧ decodeGroup [0xC1044A92] = .ok (.stp { sw := true } 2 9 20 4 1, 1) :=
  ⟨rfl, rfl, rfl, rfl, rfl, rfl, rfl, rfl, rfl, rfl, rfl, rfl⟩

theorem test_decode_copies :
    decodeGroup [0xC8044A80] = .ok (.acopy { sw := true } 2 9 20, 1)
    ∧ decodeGroup [0xC8844A80] = .ok (.axform { sw := true } 2 9 20, 1)
    ∧ decodeGroup [0xC9044A80] = .ok (.agather { sw := true } 2 9 20, 1)
    ∧ decodeGroup [0xC9800000] = .ok (.bclose { sw := true }, 1)
    ∧ decodeGroup [0xCA000005] = .ok (.waitb { sw := true } 5, 1)
    ∧ decodeGroup [0xCA800005] = .ok (.hwaitFull { sw := true } 5, 1)
    ∧ decodeGroup [0xCA800025] = .ok (.hwaitFree { sw := true } 5, 1)
    ∧ decodeGroup [0xCB000005] = .ok (.hsetDrain { sw := true } 5, 1)
    ∧ decodeGroup [0xCB000025] = .ok (.hsetFree { sw := true } 5, 1)
    ∧ decodeGroup [0xCB840012] = .ok (.wptr { sw := true } 2 18, 1) :=
  ⟨rfl, rfl, rfl, rfl, rfl, rfl, rfl, rfl, rfl, rfl⟩

theorem test_decode_barriers :
    decodeGroup [0xCC000000] = .ok (.bar { sw := true }, 1)
    ∧ decodeGroup [0xCC800000] = .ok (.cbar { sw := true }, 1)
    ∧ decodeGroup [0xCD0000B9] = .ok (.nbar { sw := true } 5 1 9, 1)
    ∧ decodeGroup [0xCD801122] = .ok (.signal { sw := true } 2 9 2, 1)
    ∧ decodeGroup [0xCE001120] = .ok (.softintQ { sw := true } 2 9, 1)
    ∧ decodeGroup [0xCE000041] = .ok (.softintM { sw := true } 2, 1)
    ∧ decodeGroup [0xCE844A82] = .ok (.waits { sw := true } 2 9 20 2, 1) :=
  ⟨rfl, rfl, rfl, rfl, rfl, rfl, rfl⟩

theorem test_decode_matrix :
    decodeGroup [0xD0001000] = .ok (.mjob { sw := true } 2, 1)
    ∧ decodeGroup [0xD08000A5] = .ok (.mwait { sw := true } 165, 1)
    ∧ decodeGroup [0xD0800100] = .ok (.mwaitAll { sw := true }, 1)
    ∧ decodeGroup [0xD10000A5] = .ok (.mzero { sw := true } 165, 1)
    ∧ decodeGroup [0xD1862000] = .ok (.mldaTile { sw := true } 3 4, 1)
    ∧ decodeGroup [0xD1864805] = .ok (.mldaGlobal { sw := true } 3 9 2, 1)
    ∧ decodeGroup [0xD2062280] = .ok (.mstaTile { sw := true } 3 4 20 0, 1)
    ∧ decodeGroup [0xD204228B] = .ok (.mstaGlobal { sw := true } 2 4 20 0 5, 1)
    ∧ decodeGroup [0xD2801000] = .ok (.mstreamSub { sw := true } 2, 1)
    ∧ decodeGroup [0xD2801001] = .ok (.mstreamUnsub { sw := true } 2, 1) :=
  ⟨rfl, rfl, rfl, rfl, rfl, rfl, rfl, rfl, rfl, rfl⟩

theorem test_decode_graphics :
    decodeGroup [0xD4044D19] = .ok (.visemit { sw := true } 2 9 2 35, 1)
    ∧ decodeGroup [0xD4844A9A] = .ok (.ldcl { sw := true } 2 9 20 6 1, 1)
    ∧ decodeGroup [0xD5044D19] = .ok (.tex { sw := true } 2 9 2 35, 1)
    ∧ decodeGroup [0xD5844D19] = .ok (.texfb { sw := true } 2 9 2 35, 1)
    ∧ decodeGroup [0xD6044D19] = .ok (.rtrace { sw := true } 2 9 2 35, 1)
    ∧ decodeGroup [0xD6844D19] = .ok (.rquery { sw := true } 2 9 2 35, 1)
    ∧ decodeGroup [0xD7040002] = .ok (.rtcont { sw := true } 2 2, 1)
    ∧ decodeGroup [0xD7844C00] = .ok (.hsort { sw := true } 2 9 2, 1)
    ∧ decodeGroup [0xD81CA594] = .ok (.rpix { sw := true } 3 2 20 2 50 2, 1)
    ∧ decodeGroup [0xD8840002] = .ok (.visrd { sw := true } 2 2, 1)
    ∧ decodeGroup [0xD8844C06] = .ok (.visrdPix { sw := true } 2 9 2 2, 1) :=
  ⟨rfl, rfl, rfl, rfl, rfl, rfl, rfl, rfl, rfl, rfl, rfl⟩

theorem test_decode_collectives :
    decodeGroup [0xDC001120] = .ok (.cpost { sw := true } 2 9, 1)
    ∧ decodeGroup [0xDC801120] = .ok (.cred { sw := true } 2 9, 1)
    ∧ decodeGroup [0xDD044801] = .ok (.cwait { sw := true } 2 9 1, 1)
    ∧ decodeGroup [0xDD844800] = .ok (.cjoin { sw := true } 2 9, 1)
    ∧ decodeGroup [0xDD801001] = .ok (.cjoinLeave { sw := true } 2, 1) :=
  ⟨rfl, rfl, rfl, rfl, rfl⟩

theorem test_decode_system :
    decodeGroup [0xE00000A5] = .ok (.trapI { sw := true } 165, 1)
    ∧ decodeGroup [0xE0800000] = .ok (.rti { sw := true }, 1)
    ∧ decodeGroup [0xE10000A5] = .ok (.bkpt { sw := true } 165, 1)
    ∧ decodeGroup [0xE18402D2] = .ok (.sysrd { sw := true } 2 722, 1)
    ∧ decodeGroup [0xE20012D2] = .ok (.syswr { sw := true } 2 722, 1)
    ∧ decodeGroup [0xE2800001] = .ok (.tmask { sw := true } 1, 1)
    ∧ decodeGroup [0xE3044800] = .ok (.tlbinvPage { sw := true } 2 9, 1)
    ∧ decodeGroup [0xE3044A81] = .ok (.tlbinvRange { sw := true } 2 9 20, 1)
    ∧ decodeGroup [0xE3044802] = .ok (.tlbinvSpace { sw := true } 2 9, 1) :=
  ⟨rfl, rfl, rfl, rfl, rfl, rfl, rfl, rfl, rfl⟩

/-! ## Small states -/

/-- A supervisor warp of 32 lanes at 0x10000 with given vector, predicate and uniform registers, in a block with 4096 bytes of local store; the
first GiB of virtual addresses is device memory at the same addresses, readable and writable by it (R16 to R18), with the bytes given. -/
def holding (v : Nat → Nat → Nat) (p s : Nat → Nat) (bytes : List (Nat × List Nat) := []) : State :=
  let t := State.reset.withFetchWord 32 0
  let tables := (Memory.put [] rootAt (leBytes 8 (tableAt + 3))).put tableAt (leBytes 8 0x75)
  { t with
    cur := { t.cur with
      v := Vector.ofFn fun n => Vector.ofFn fun l => BitVec.ofNat 32 (v n.val l.val)
      p := Vector.ofFn fun n => BitVec.ofNat 32 (p n.val)
      s := Vector.ofFn fun n => BitVec.ofNat 64 (s n.val) }
    home := { t.home with mem := bytes.foldl (fun m x => m.put x.1 (x.2.map (BitVec.ofNat 8))) tables } }
/-- Vector registers by a list of a register's lane values; other lanes hold 0. -/
def vecs (l : List (Nat × List Nat)) (n lane : Nat) : Nat := (((l.find? fun x => x.1 = n).map fun x => x.2).getD []).getD lane 0
/-- Uniform registers by number; others hold 0. -/
def unis (l : List (Nat × Nat)) (n : Nat) : Nat := ((l.find? fun x => x.1 = n).map fun x => x.2).getD 0
def zeros (_ : Nat) : Nat := 0
def zeros2 (_ _ : Nat) : Nat := 0
/-- The state with only these lanes live. -/
def only (m : Mask) (s : State) : State := { s with cur := { s.cur with live := m } }
/-- The state after an instruction. -/
def ran (i : Instr) (s : State) : State := match exec i s with | .next t => t | _ => s
/-- The first `n` lanes of a vector register. -/
def lanes (s : State) (r n : Nat) : List Nat := (List.range n).map fun l => (s.cur.getV r (Fin.ofNat 32 l)).toNat
/-- The first lanes of v[r] after an instruction that a word stands for, on vector registers alone. -/
def got (i : Instr) (v : List (Nat × List Nat)) (r n : Nat) : List Nat := lanes (ran i (holding (vecs v) zeros zeros)) r n
/-- The trap that a group ended in, as SYS_TCAUSE shows it, with a system handler set. -/
def cause (i : Instr) (s : State) : Nat := (ran i { s with mgmt := { s.mgmt with sysHandler := 0x40000 } }).cur.tcause.toNat

/-- A third source, without a guard; a guard on p1. -/
def third (c : BitVec 6) : Grp := { src := some ⟨c, 0, 0, false, false⟩ }
def guarded : Grp := { src := some ⟨0, 0, 1, false, true⟩ }
/-- A rounding mode; saturation. -/
def rounded (m : BitVec 3) : Grp := { mod := some ⟨m, false, 0, 0⟩ }
def saturated : Grp := { mod := some ⟨0, true, 0, 0⟩ }
/-! Words that the spec's own examples print, beside the assembly line they stand for. -/

/-- R166 to R187: `IADD v0, v0, v0`; a load under HINT.SRC and HINT.MOD; a group with its S bit set. -/
theorem test_printed_formats :
    decodeGroup [0] = .ok (.iadd {} 0 0 0 0 0 0, 1)
    ∧ decodeGroup [0x70802C00, 0x71000040, 0x380E2130] = .ok (.ld { src := some ⟨0, 0, 2, true, true⟩, mod := some ⟨0, false, 0, 0x40⟩ } 7 4 9 4 0 0, 3)
    ∧ decodeGroup [0x80103A40] = .ok (.iadd { sw := true } 8 7 1 8 0 0, 1) := ⟨rfl, rfl, rfl⟩
/-- `SHFL.XOR v3, v3, 1`; `ICMP.LT.S p1, v2, s5`; `VOTE.ANY p2, !p4`; PART; MOV; MOVI; CALL; JMPI; a guarded EXIT; YIELD; NOP;
`MCALL 3, v9, v4, 0`. -/
theorem test_printed_integer :
    decodeGroup [0x20061981] = .ok (.shfl {} 3 3 0 3 0 1, 1) ∧ decodeGroup [0x0A941029] = .ok (.icmp {} 1 2 2 0 5 0 1, 1)
    ∧ decodeGroup [0x2084008C] = .ok (.vote {} 2 0 0 1 1 4, 1) ∧ decodeGroup [0x22800003] = .ok (.part {} 3, 1)
    ∧ decodeGroup [0x0BA07000] = .ok (.mov {} 16 14 0, 1) ∧ decodeGroup [0x0C240007] = .ok (.movi {} 18 7, 1)
    ∧ decodeGroup [0x32701FC5] = .ok (.call {} 7 0 0x1FC5, 1) ∧ decodeGroup [0x31809000] = .ok (.jmpi {} 18 0, 1)
    ∧ decodeGroup [0x70802C00, 0x33800000] = .ok (.exitL { src := some ⟨0, 0, 2, true, true⟩ }, 2)
    ∧ decodeGroup [0x34000000] = .ok (.yield {}, 1) ∧ decodeGroup [0x34800000] = .ok (.nop {}, 1)
    ∧ decodeGroup [0x35004243] = .ok (.mcall {} 0 4 9 3, 1) := ⟨rfl, rfl, rfl, rfl, rfl, rfl, rfl, rfl, rfl, rfl, rfl, rfl⟩
/-- `FADD.RNA v1, v2, v3`; `FFMA v4, v1, v2, v3`; `FCMP.LT p1, v5, v6`; `FCVT.E4M3.F32 v5, v4, 2`; `HADD2.BF16 v2, v3, v4`; `SFU.EXP2 v9, v8`. -/
theorem test_printed_float :
    decodeGroup [0x71400000, 0x10021018] = .ok (.fadd (rounded 4) 1 2 0 3 0 0, 2) ∧ decodeGroup [0x70860000, 0x11880810] = .ok (.ffma (third 3) 4 1 0 2 0 0, 2)
    ∧ decodeGroup [0x13142830] = .ok (.fcmp {} 1 2 5 0 6 0 0, 1) ∧ decodeGroup [0x158A201A] = .ok (.fcvt {} 5 4 0 0 3 2, 1)
    ∧ decodeGroup [0x71010000, 0x16041820] = .ok (.hadd2 { mod := some ⟨0, false, 1, 0⟩ } 2 3 0 4 0 0, 2)
    ∧ decodeGroup [0x18124000] = .ok (.sfu {} 9 8 0 0, 1) := ⟨rfl, rfl, rfl, rfl, rfl, rfl⟩
/-- Loads, stores, atomics, fences, locks, barriers, copies, handles and signals. -/
theorem test_printed_memory :
    decodeGroup [0x380610B1] = .ok (.ld {} 3 2 5 4 0 1, 1) ∧ decodeGroup [0x388210D1] = .ok (.st {} 1 2 6 4 1, 1)
    ∧ decodeGroup [0x3B083020] = .ok (.atom {} 4 6 1 0 0, 1) ∧ decodeGroup [0x3C043030] = .ok (.redHome {} 2 6 1 0 0, 1)
    ∧ decodeGroup [0x3F821000] = .ok (.lock {} 1 2 0, 1) ∧ decodeGroup [0x3F821002] = .ok (.unlock {} 1 2 0, 1)
    ∧ decodeGroup [0x3D800000] = .ok (.fenceAcq {}, 1) ∧ decodeGroup [0x3D800001] = .ok (.fenceRel {}, 1) ∧ decodeGroup [0x3D800002] = .ok (.fenceSc {}, 1)
    ∧ decodeGroup [0x3E000000] = .ok (.cfence {}, 1) ∧ decodeGroup [0x3E800000] = .ok (.publish {}, 1)
    ∧ decodeGroup [0x4C000000] = .ok (.bar {}, 1) ∧ decodeGroup [0x4C800000] = .ok (.cbar {}, 1)
    ∧ decodeGroup [0x48104940] = .ok (.acopy {} 8 9 10, 1) ∧ decodeGroup [0x4A000001] = .ok (.waitb {} 1, 1)
    ∧ decodeGroup [0x4A800004] = .ok (.hwaitFull {} 4, 1) ∧ decodeGroup [0x4A800024] = .ok (.hwaitFree {} 4, 1)
    ∧ decodeGroup [0x4B000004] = .ok (.hsetDrain {} 4, 1) ∧ decodeGroup [0x4B000024] = .ok (.hsetFree {} 4, 1)
    ∧ decodeGroup [0x4B880003] = .ok (.wptr {} 4 3, 1) ∧ decodeGroup [0x4D805161] = .ok (.signal {} 10 11 1, 1) :=
  ⟨rfl, rfl, rfl, rfl, rfl, rfl, rfl, rfl, rfl, rfl, rfl, rfl, rfl, rfl, rfl, rfl, rfl, rfl, rfl, rfl, rfl⟩
/-- The matrix engine, graphics, system: `MSTA t3, a1, s9`, `MSTA.BF16 [s12], a0, s9`, `VISEMIT v0, v8, s3`, `LDCL.B64 v10, [s4 + v2]`,
`SYSWR SYS_WCTL.0, s4`, `TRAP 5`. -/
theorem test_printed_engines :
    decodeGroup [0x50003000] = .ok (.mjob {} 6, 1) ∧ decodeGroup [0x5100000F] = .ok (.mzero {} 15, 1) ∧ decodeGroup [0x51840800] = .ok (.mldaTile {} 2 1, 1)
    ∧ decodeGroup [0x52060920] = .ok (.mstaTile {} 3 1 9 0, 1) ∧ decodeGroup [0x52180125] = .ok (.mstaGlobal {} 12 0 9 0 2, 1)
    ∧ decodeGroup [0x54004019] = .ok (.visemit {} 0 8 0 3, 1) ∧ decodeGroup [0x54942054] = .ok (.ldcl {} 10 4 2 5 0, 1)
    ∧ decodeGroup [0x60000005] = .ok (.trapI {} 5, 1) ∧ decodeGroup [0x618A0010] = .ok (.sysrd {} 5 0x10, 1)
    ∧ decodeGroup [0x62002049] = .ok (.syswr {} 4 0x49, 1) ∧ decodeGroup [0x63062000] = .ok (.tlbinvPage {} 3 4, 1) :=
  ⟨rfl, rfl, rfl, rfl, rfl, rfl, rfl, rfl, rfl, rfl, rfl⟩
/-! ## The spec's worked examples, and corners of its tables, one group each -/

/-- R196, R197: 0x7FFFFFFF + 1 wraps; with SAT it stays. -/
theorem test_iadd : got (.iadd {} 1 2 0 3 0 0) [(2, [0x7FFFFFFF]), (3, [1])] 1 1 = [0x80000000] := by decide +kernel
theorem test_iadd_sat : got (.iadd saturated 1 2 0 3 0 0) [(2, [0x7FFFFFFF]), (3, [1])] 1 1 = [0x7FFFFFFF] := by decide +kernel
theorem test_isub : got (.isub {} 1 2 0 2 0 0) [(2, [5])] 1 1 = [0] := by decide +kernel
theorem test_imul : got (.imul {} 1 2 0 3 0 0) [(2, [0x10001]), (3, [0x10001])] 1 1 = [0x20001] := by decide +kernel
theorem test_imulhi : got (.imulhiS {} 1 2 0 3 0 0) [(2, [0xFFFFFFFF]), (3, [2])] 1 1 = [0xFFFFFFFF]
    ∧ got (.imulhiU {} 1 2 0 3 0 0) [(2, [0xFFFFFFFF]), (3, [2])] 1 1 = [1] := by decide +kernel
theorem test_imad : got (.imad (third 4) 1 2 0 3 0 0) [(2, [3]), (3, [5]), (4, [7])] 1 1 = [22] := by decide +kernel
theorem test_imin : got (.iminS {} 1 2 0 3 0 0) [(2, [0xFFFFFFFF]), (3, [2])] 1 1 = [0xFFFFFFFF]
    ∧ got (.iminU {} 1 2 0 3 0 0) [(2, [0xFFFFFFFF]), (3, [2])] 1 1 = [2] := by decide +kernel
theorem test_imax : got (.imaxS {} 1 2 0 3 0 0) [(2, [0xFFFFFFFF]), (3, [2])] 1 1 = [2]
    ∧ got (.imaxU {} 1 2 0 3 0 0) [(2, [0xFFFFFFFF]), (3, [2])] 1 1 = [0xFFFFFFFF] := by decide +kernel
/-- R199: IABS of the most negative number, with and without SAT. -/
theorem test_iabs : got (.iabs {} 1 2 0) [(2, [0x80000000])] 1 1 = [0x80000000]
    ∧ got (.iabs saturated 1 2 0) [(2, [0x80000000])] 1 1 = [0x7FFFFFFF] := by decide +kernel
/-- R197: a shift by 32 gives 0, or copies of the sign. -/
theorem test_shifts : got (.shl {} 1 2 0 3 0 0) [(2, [0x80000001, 1]), (3, [32, 31])] 1 2 = [0, 0x80000000]
    ∧ got (.shr {} 1 2 0 3 0 0) [(2, [0x80000000]), (3, [31])] 1 1 = [1]
    ∧ got (.sar {} 1 2 0 3 0 0) [(2, [0x80000000]), (3, [32])] 1 1 = [0xFFFFFFFF] := by decide +kernel
/-- The example of R198. -/
theorem test_bfe : got (.bfe (third 4) 1 2 0 3 0 0) [(2, [0x00F0A5C3, 0x00F0A5C3]), (3, [4, 28]), (4, [0x10C, 0x10C])] 1 2
    = [0xFFFFFA5C, 0] := by decide +kernel
theorem test_bfi : got (.bfi (third 4) 1 2 0 3 0 0) [(2, [0xFF]), (3, [0x12345678]), (4, [0x408])] 1 1 = [0x12345F78] := by decide +kernel
theorem test_counts : got (.popc {} 1 2 0) [(2, [0xF0F0, 0])] 1 2 = [8, 0] ∧ got (.clz {} 1 2 0) [(2, [1, 0])] 1 2 = [31, 32] := by
  decide +kernel
theorem test_rotate : got (.roti {} 1 2 0 4) [(2, [0x80000001])] 1 1 = [0x18] := by decide +kernel
/-- R201: signed and unsigned conditions differ on 0xFFFFFFFF and 1. -/
theorem test_icmp : (ran (.icmp {} 1 2 2 0 3 0 0) (holding (vecs [(2, [0xFFFFFFFF]), (3, [1])]) zeros zeros)).cur.getP 1 = 1
    ∧ (ran (.icmp {} 1 4 2 0 3 0 0) (holding (vecs [(2, [0xFFFFFFFF]), (3, [1])]) zeros zeros)).cur.getP 1 = 0 := by decide +kernel
/-- The example of R188: each repetition is complete before the next begins. -/
theorem test_repetition : ([5, 6, 7].flatMap fun n => got (.iadd { rep := some ⟨2, 1, 1, 0, 0⟩ } 5 4 0 10 0 0)
    [(4, [1]), (5, [2]), (6, [3]), (7, [4]), (10, [100])] n 1) = [101, 201, 301] := by decide +kernel
/-- The example of R186: the guard limits the write to v8, and last use poisons v7 in every executing lane. -/
theorem test_last_use : ([8, 7].map fun n => lanes (ran (.iadd guarded 8 7 1 8 0 0)
    (holding (vecs [(7, [1, 2, 3, 4]), (8, [10, 10, 10, 10])]) (unis [(1, 0xFFFFFFF7)]) zeros)) n 4)
    = [[11, 12, 13, 10], [0x7FD00BAD, 0x7FD00BAD, 0x7FD00BAD, 0x7FD00BAD]] := by decide +kernel
/-- The example of R178: two immediate hints and SMOVI load the base of the cluster window. -/
theorem test_smovi : (match decodeGroup [0x707FFFFC, 0x70200000, 0x2B840000] with
    | .ok (i, _) => ((ran i (holding (vecs []) zeros zeros)).cur.getS 2).toNat | .error _ => 0) = 0xFFFFFFF100000000 := by decide +kernel
/-- The example of R208, partition 0. -/
theorem test_match : (let s := { only 0x3F (holding (vecs [(5, [3, 5, 3, 3, 9, 5, 3, 3])]) zeros zeros) with }
      let s := { s with cur := { s.cur with partw := 3 } }
      (lanes (ran (.matchV {} 7 5 0 0) s) 7 8, lanes (ran (.matchV {} 7 5 0 1) s) 7 8, lanes (ran (.matchV {} 7 5 0 2) s) 7 8))
    = ([0x0D, 0x22, 0x0D, 0x0D, 0x10, 0x22, 0, 0], [3, 2, 3, 3, 1, 2, 0, 0], [0, 1, 0, 0, 4, 1, 0, 0]) := by decide +kernel
/-- R206: SHFL.XOR 1 exchanges neighbours; R209: an inclusive sum, an exclusive minimum of the first lane. -/
theorem test_shfl : (got (.shfl {} 3 3 0 3 0 1) [(3, [10, 11, 12, 13])] 3 4) = [11, 10, 13, 12] := by decide +kernel
theorem test_scan : (got (.pscan {} 3 2 0 0 0) [(2, [1, 2, 3, 4])] 3 4) = [1, 3, 6, 10]
    ∧ (got (.pscan {} 3 2 0 2 1) [(2, [4, 2, 3])] 3 3) = [0xFFFFFFFF, 4, 2] := by decide +kernel
theorem test_redux : (got (.redux {} 3 2 0 4) [(2, [1, 9, 3])] 3 3) = [9, 9, 9] := by decide +kernel
/-- R202 to R204. -/
theorem test_uniform : (let r := fun (i : Instr) (n : Nat) => ((ran i (holding (vecs []) zeros (unis [(2, 5), (3, 0xFFFFFFFFFFFFFFFE)]))).cur.getS n).toNat
    [r (.sadd {} 1 2 3) 1, r (.smul {} 1 3 3 1) 1, r (.smin {} 1 2 3 0) 1, r (.smin {} 1 2 3 1) 1, r (.sctz {} 1 3) 1, r (.sbrev {} 1 2) 1])
    = [3, 0, 0xFFFFFFFFFFFFFFFE, 5, 1, 0xA000000000000000] := by decide +kernel

/-- The table of R236 beneath FADD's example, in its order of modes. -/
theorem test_fadd : ((List.range 5).map fun m => got (.fadd (rounded (BitVec.ofNat 3 m)) 1 2 0 3 0 0)
      [(2, [0x3F800000, 0xBF800000]), (3, [0x33800000, 0xB3800000])] 1 2)
    = [[0x3F800000, 0xBF800000], [0x3F800000, 0xBF800000], [0x3F800001, 0xBF800000], [0x3F800000, 0xBF800001], [0x3F800001, 0xBF800001]] := by
  decide +kernel
/-- The example of R237 and R239: the first NaN source, quieted; 0 with SAT. -/
theorem test_ffma : (let v := [(1, [0x7F800001]), (2, [0x7FD00BAD]), (3, [0x3F800000])]
    got (.ffma (third 3) 4 1 0 2 0 0) v 4 1 ++ got (.ffma { third 3 with mod := some ⟨0, true, 0, 0⟩ } 4 1 0 2 0 0) v 4 1) = [0x7FC00001, 0] := by
  decide +kernel
/-- The examples of FCVT: 500.0 to E4M3 in byte 2; the poison value through the formats. -/
theorem test_fcvt : (match decodeGroup [0x158A201A] with
    | .ok (.fcvt _ d a k f t q, _) =>
      [({} : Grp), saturated, rounded 1].flatMap fun gr => got (.fcvt gr d a k f t q) [(4, [0x43FA0000]), (5, [0x11223344])] 5 1
    | _ => []) = [0x117F3344, 0x117E3344, 0x117E3344] := by decide +kernel
theorem test_fcvt_poison : [fcvt 0 1 0 false 0x7FD00BAD, fcvt 0 2 0 false 0x7FD00BAD, fcvt 0 4 0 false 0x7FD00BAD, fcvt 0 3 0 false 0x7FD00BAD,
    fcvt 1 0 0 false 0x7E80] = [0x7E80, 0x7FD0, 0x7E, 0x7F, 0x7FD00000] := by decide +kernel
/-- The example of R252: with its hint HADD2 adds BF16 elements, from the base word alone F16 elements. -/
theorem test_hadd2 : (let v := [(3, [0x3F804000]), (4, [0x3F803F80])]
    got (.hadd2 { mod := some ⟨0, false, 1, 0⟩ } 2 3 0 4 0 0) v 2 1 ++ got (.hadd2 {} 2 3 0 4 0 0) v 2 1) = [0x40004040, 0x438043C0] := by
  decide +kernel
/-- The example of R255 and R256: EXP2 of -126, -149, minus infinity. -/
theorem test_exp2 : (got (.sfu {} 9 8 0 0) [(8, [0xC2FC0000, 0xC3150000, 0xFF800000])] 9 3) = [0x00800000, 1, 0] := by decide +kernel
/-- R254: the reciprocal of 128, as the softmax example uses it; R238: 1 - 1 is +0, and -0 under RDN. -/
theorem test_rcp : (got (.sfu {} 9 8 0 2) [(8, [0x43000000])] 9 1) = [0x3C000000] := by decide +kernel
theorem test_zero_sign : (got (.fsub {} 1 2 0 2 0 0) [(2, [0x3F800000])] 1 1) = [0]
    ∧ (got (.fsub (rounded 3) 1 2 0 2 0 0) [(2, [0x3F800000])] 1 1) = [0x80000000] := by decide +kernel

/-! ### Control flow -/

/-- The first two groups of the example of R140: lanes with p1 take the branch, the others go on. -/
theorem test_bra : (let t := ran (.bra {} 1 0 3) (holding zeros2 (unis [(1, 0xFFF)]) zeros)
    (t.cur.lpc[0].toNat, t.cur.lpc[11].toNat, t.cur.lpc[12].toNat)) = (0x1000C, 0x1000C, 0x10004) := by decide +kernel
/-- R214: BRP is taken in every executing lane when any has the condition, BRS when all have it. -/
theorem test_brp_brs : ([ran (.brp {} 1 0 3) (holding zeros2 (unis [(1, 1)]) zeros), ran (.brs {} 1 0 3) (holding zeros2 (unis [(1, 1)]) zeros)].map
    fun t => (t.cur.lpc[0].toNat, t.cur.lpc[31].toNat)) = [(0x1000C, 0x1000C), (0x10004, 0x10004)] := by decide +kernel
/-- R215: CALL of the stub of R401's neighbour: a negative offset is words back; the link is the address after the group. -/
theorem test_call : (let t := ran (.call {} 7 0 0x7FFFF) (holding zeros2 zeros zeros)
    (t.cur.lpc[0].toNat, lanes t 14 1, lanes t 15 1)) = (0xFFFC, [0x10004], [0]) := by decide +kernel
/-- The example of R216: a target that is not a multiple of 4 in one lane traps, and no lane moves. -/
theorem test_calli : cause (.calli {} 20 0) (only 0xFF (holding (vecs [(20, [0x30000, 0x30000, 0x30000, 0x30002, 0x30000, 0x30000, 0x30000, 0x30000])])
    zeros zeros)) = 0x0118 := by decide +kernel
theorem test_jmpi_ret : ([ran (.jmpi {} 20 0) (holding (vecs [(20, [0x30000, 0x30010])]) zeros zeros), ran (.ret {} 20 0)
    (holding (vecs [(20, [0x30000, 0x30010])]) zeros zeros)].map fun t => (t.cur.lpc[0].toNat, t.cur.lpc[1].toNat))
    = [(0x30000, 0x30010), (0x30000, 0x30010)] := by decide +kernel
/-- R217: a guarded EXIT retires the lanes whose guard is true. -/
theorem test_exit : (ran (.exitL guarded) (holding zeros2 (unis [(1, 0xFF)]) zeros)).cur.live = 0xFFFFFF00 := by decide +kernel
theorem test_yield_nop : (ran (.yield {}) (holding zeros2 zeros zeros)).cur.wait = .yield
    ∧ (ran (.nop {}) (holding zeros2 zeros zeros)).cur.lpc[5].toNat = 0x10004 := by decide +kernel
/-- The example of R222: operation 0 of slot 3 under MCALL 3, v9, v4, 0 adds v4 and v5 into v9; MRET commits it. -/
def summing : State :=
  let s := holding (vecs [(4, [7]), (5, [5])]) zeros zeros
  { s with core := { s.core with microOwner := some 0, micro := [(3, (Vector.replicate 32 0 |>.set 0 0x8000008900000008 |>.set 1 0x8000000035800000))] } }
theorem test_mcall : (let s := ran (.mcall {} 0 4 9 3) summing
    (match nextGroup s with | (t, .run i) => (decide (i = .iadd {} 9 4 0 5 0 0), lanes (ran i t) 9 1) | _ => (false, []))) = (true, [12]) := by
  decide +kernel
theorem test_mret : (let s := ran (.mcall {} 0 4 9 3) summing
    (ran (.mret {}) { s with cur := s.cur }).cur.lpc[0].toNat) = 0x10004 := by decide +kernel

/-! ### Memory -/

/-- The example of R388, its accesses all served: four lanes add to four words, the old values return. -/
def words4 : State := only 0xF (holding (vecs [(4, [1, 1, 1, 1]), (1, [0, 64, 128, 192])]) zeros (unis [(6, 0x20000)])
  [(0x20000, [10]), (0x20040, [20]), (0x20080, [40]), (0x200C0, [30])])
theorem test_atom : (let t := ran (.atom {} 4 6 1 0 0) words4
    (lanes t 4 4, t.home.mem.nat 0x20000 4, t.home.mem.nat 0x20080 4, t.home.mem.nat 0x200C0 4)) = ([10, 20, 40, 30], 11, 41, 31) := by decide +kernel
/-- R100: lanes that touch the same bytes are performed in ascending order. -/
theorem test_atom_same : (let t := ran (.atom {} 4 6 1 0 0) (only 7 (holding (vecs [(4, [1, 2, 3])]) zeros (unis [(6, 0x20000)])))
    (lanes t 4 3, t.home.mem.nat 0x20000 4)) = ([0, 1, 3], 6) := by decide +kernel
/-- R268: only the lane that finds its expected value writes. -/
theorem test_cas : (let t := ran (.cas (third 5) 4 6 1 0 0) (only 3 (holding (vecs [(4, [10, 9]), (1, [0, 64]), (5, [77, 77])]) zeros (unis [(6, 0x20000)])
      [(0x20000, [10]), (0x20040, [20])]))
    (lanes t 4 2, t.home.mem.nat 0x20000 4, t.home.mem.nat 0x20040 4)) = ([10, 20], 77, 20) := by decide +kernel
/-- The example of R187: the addresses come from v5 as it was before the load that overwrites it. -/
theorem test_ld_wide : (let t := ran (.ld {} 4 2 5 6 0 0) (only 1 (holding (vecs [(5, [16])]) zeros (unis [(2, 0x20000)]) [(0x20010, List.range 16)]))
    (lanes t 4 1 ++ lanes t 5 1 ++ lanes t 6 1 ++ lanes t 7 1)) = [0x03020100, 0x07060504, 0x0B0A0908, 0x0F0E0D0C] := by decide +kernel
/-- R258: a signed byte is sign-extended; OFF16 is a signed offset. -/
theorem test_ld_byte : lanes (ran (.ld { mod := some ⟨0, false, 0, 0xFFFF⟩ } 4 2 5 1 0 0)
    (only 1 (holding (vecs [(5, [1])]) zeros (unis [(2, 0x20000)]) [(0x20000, [0x80])]))) 4 1 = [0xFFFFFF80] := by decide +kernel
theorem test_st : (let t := ran (.st {} 4 2 5 2 0) (only 3 (holding (vecs [(4, [0x12345678, 0xAABB]), (5, [0, 2])]) zeros (unis [(2, 0x20000)])))
    t.home.mem.nat 0x20000 8) = 0xAABB5678 := by decide +kernel
/-- R21: a misaligned access traps 0x18; R13: an address that is not canonical traps. -/
theorem test_ld_misaligned : cause (.ld {} 4 2 5 4 0 0) (only 1 (holding (vecs [(5, [2])]) zeros (unis [(2, 0x20000)]))) = 0x0018 := by decide +kernel
theorem test_ldu_stu : (let s := holding zeros2 zeros (unis [(2, 0x20000), (3, 0x1122334455667788)]) [(0x20008, [0xFE, 0xFF])]
    ((ran (.ldu { mod := some ⟨0, false, 0, 8⟩ } 5 2 3 0 0) s).cur.getS 5, (ran (.stu {} 3 2 5 0) s).home.mem.nat 0x20000 8))
    = (0xFFFFFFFFFFFFFFFE, 0x1122334455667788) := by decide +kernel
theorem test_local : (let t := ran (.stl {} 4 2 5 4 0 0) (only 3 (holding (vecs [(4, [7, 8]), (5, [0, 4])]) zeros (unis [(2, 0x100)])))
    lanes (ran (.ldl {} 6 2 5 5 0 0) (only 1 t)) 6 1 ++ lanes (ran (.ldl {} 6 2 5 5 0 0) (only 1 t)) 7 1) = [7, 8] := by decide +kernel
theorem test_local_atomics : (let s := only 3 (holding (vecs [(4, [5, 6])]) zeros (unis [(2, 0x100)]))
    let t := ran (.atoml {} 4 2 5 0) s
    let u := ran (.redl {} 4 2 5 0) s
    (lanes t 4 2, ((t.blockAt 512 0).map fun b => b.local_.nat 0x100 4), ((u.blockAt 512 0).map fun b => b.local_.nat 0x100 4)))
    = ([0, 5], some 11, some 11) := by decide +kernel
/-- R27: 4096 bytes of local store; an access past them traps 0x19. -/
theorem test_local_bounds : cause (.ldl {} 4 2 5 4 0 0) (only 1 (holding zeros2 zeros (unis [(2, 0x1000)]))) = 0x0019 := by decide +kernel
/-- The example of R30: lane 5 of warp 3 stores eight bytes at p = 0x48, P = 0x400. -/
theorem test_private : (let s := only 0x20 (holding (vecs [(4, [0, 0, 0, 0, 0, 0x11223344]), (5, [0, 0, 0, 0, 0, 0x55667788])]) zeros (unis [(2, 0x48)]))
    let s := { s with cur := { s.cur with idx := 3, threads := Vector.ofFn fun l => { tid := 96 + l.val } }, launches := s.launches.map fun l => { l with pkt := { l.pkt with privsz := 16, privb := 0x100000 } } }
    let t := ran (.stp {} 4 2 6 5 1) s
    (t.home.mem.nat 0x118914 4, t.home.mem.nat 0x118994 4)) = (0x11223344, 0x55667788) := by decide +kernel
/-- The same example: eight bytes at 0x3FC pass P, the service fault 0x10, subcode 0x03. -/
theorem test_private_bound : (let s := only 0x20 (holding zeros2 zeros (unis [(2, 0x3FC)]));
    match (ran (.stp {} 4 2 6 5 1) { s with launches := s.launches.map fun l => { l with pkt := { l.pkt with privsz := 16, privb := 0x100000 } } }).cur.wait with
    | .trapQueue t => (t.code, t.sub) | _ => (0, 0)) = (0x10, 0x03) := by decide +kernel
/-- R265: in a handler LDP with sb = 0 reads what STP wrote to the scratch area. -/
theorem test_scratch : (let s := only 1 (holding (vecs [(4, [0xCAFE])]) zeros zeros)
    let t := ran (.stp { mod := some ⟨0, false, 0, 60⟩ } 4 0 0 4 0) { s with cur := { s.cur with inhdl := true } }
    (lanes (ran (.ldp { mod := some ⟨0, false, 0, 60⟩ } 6 0 0 4 0) t) 6 1, t.home.mem = s.home.mem)) = ([0xCAFE], True) := by
  simp only [Prod.mk.injEq, eq_iff_iff, iff_true]; decide +kernel
/-- The example of R18: the walk of VA 0x00123456789ABCDE, and the leaf after the first store. -/
def walked : State :=
  let s := holding zeros2 zeros zeros
  let entries := [(0x2090, 0x200003), (0x268AC8, 0x300003), (0x300E20, 0x310003), (0x3100D0, 0x005000427A310035)]
  { s with home := { s.home with mem := entries.foldl (fun m x => m.put x.1 (leBytes 8 x.2)) [] }, mgmt := { s.mgmt with keys := [(5, 0)] } }
theorem test_walk : (match translate walked (curCtx walked) 0x00123456789ABCDE 2 .load with
    | (_, .ok a) => (a.parts.map fun p => (p.place, p.off, p.n), a.key) | (_, .error _) => ([], 0)) = ([(.mem 0x427A31BCDE false, 0, 2)], 5) := by decide +kernel
theorem test_walk_dirty : (match translate walked (curCtx walked) 0x00123456789ABCDE 2 .store with
    | (s, .ok a) => (markDirty s s.core.id a).1.home.mem.nat 0x3100D0 8 | _ => 0) = 0x005000427A310075 := by decide +kernel
/-- The example of R65: the home of a physical address of an AQM-2106. -/
theorem test_interleave : (let m := State.reset.mgmt; (dieOf m 0x1234577890, sliceOf m 0x1234577890, interfaceAddr m 0x1234577890)) = (1, 6, 0x308B9790) := by
  decide +kernel
/-- The example of R72. -/
theorem test_hops : hops 7 16 = 4 ∧ hops 0 17 = 7 := by decide
/-- The examples of R62 and R103: an exact sum within a core; partials of three cores combined one after another. -/
theorem test_partials : (let s := only 7 (holding (vecs [(4, [0x4B800000, 0x3F800000, 0x3F800000])]) zeros (unis [(6, 0x20000)]))
    let s := { s with launches := s.launches.map fun l => { l with regions := [⟨0, .core, 4, false, false, false, 0x20000, 0x10000⟩] } }
    let t := ran (.red {} 4 6 1 3 0) s
    lanes (ran (.ld {} 8 6 1 4 1 0) (only 1 t)) 8 1) = [0x4B800001] := by decide +kernel
theorem test_combine : combineStep 4 (combineStep 4 (combineStep 4 0x3F800000 0x3F800000) 0x4B800000) 0x3F800000 = 0x4B800002 := by decide +kernel
/-- R272: the first lane locks the line, the second finds it held by its own block; UNLOCK frees it. -/
theorem test_lock : (let s := only 3 (holding zeros2 zeros (unis [(2, 0x20000)]))
    let t := ran (.lock {} 1 2 0) s
    (lanes t 1 2, t.home.locks.map fun x => x.1, lanes (ran (.unlock {} 1 2 0) t) 1 2)) = ([1, 3], [0x800], [1, 0]) := by decide +kernel
/-- R52: a mapping takes entry 0; freeing it. -/
theorem test_stash : (let s := holding zeros2 zeros (unis [(2, 0x20000), (3, 0x10100), (7, 0x2B)])
    let s := { s with launches := s.launches.map fun l => { l with regions := [⟨0, .core, 0, false, false, false, 0x20000, 0x10000⟩] } }
    let t := ran (.stashMap {} 7 2 3) s
    (t.cur.getS 7, t.core.stash.map fun x => x.len, (ran (.stashUnmap {} 7) t).core.stash.length)) = (0, [1], 0) := by decide +kernel

/-! ### Barriers, signals, copies -/

/-- R282: the one warp of a block passes BAR; with the guard true in some lanes only, those are parked and the others stay live. -/
theorem test_bar : (let t := ran (.bar {}) (holding zeros2 zeros zeros); (t.cur.barpark, t.cur.lpc[3].toNat)) = (0, 0x10004) := by decide +kernel
theorem test_bar_guarded : (let t := ran (.bar guarded) (holding zeros2 (unis [(1, 0xF)]) zeros); (t.cur.barpark, t.cur.liveMask)) = (0xF, 0xFFFFFFF0) := by
  decide +kernel
/-- R283: the first arrival fixes the count; COUNT = 0 is reserved. -/
theorem test_nbar : (let t := ran (.nbar {} 2 0 5) (holding zeros2 zeros zeros); ((phaseOf t false 5).count, t.cur.barpark)) = (2, 0xFFFFFFFF) := by
  decide +kernel
theorem test_nbar_reserved : cause (.nbar {} 0 0 5) (holding zeros2 zeros zeros) = 0x0101 := by decide +kernel
theorem test_cbar : (ran (.cbar {}) (holding zeros2 zeros zeros)).cur.woken = true := by decide +kernel
/-- R285, R286. -/
theorem test_signal : (let s := holding zeros2 zeros (unis [(2, 0x20000), (3, 5)]) [(0x20000, [7])]
    [0, 1, 2].map fun o => (ran (.signal {} 2 3 o) s).home.mem.nat 0x20000 8) = [12, 5, 7] := by decide +kernel
theorem test_waits : (let s := holding zeros2 zeros (unis [(2, 0x20000), (3, 7)]) [(0x20000, [7])];
    ((ran (.waits {} 1 2 3 0) s).cur.getS 1, (ran (.waits {} 1 2 3 2) s).cur.wait)) = (7, .signal none 0x20000 0 2 7 0) := by decide +kernel
theorem test_softint : (let s := holding zeros2 zeros (unis [(2, 3), (3, 9)]);
    ((ran (.softintQ {} 2 3) s).inputs, (ran (.softintM {} 3) s).mgmt.wake)) = ([Instr.qwake 3], 9) := by decide +kernel
/-- R287: a SOFTINT to the management core in user mode traps. -/
theorem test_softint_user : (let s := holding zeros2 zeros zeros; cause (.softintM {} 3) { s with cur := { s.cur with supv := false } }) = 0x0303 := by
  decide +kernel

/-- The example of R120: three rows of two 16-bit elements, transposed with a pad column, into handle 3. -/
def transposing : State :=
  holding zeros2 zeros (unis [(8, apertureBase + 0x100), (9, 0x20000), (10, 0x0000118205001002), (11, 0x0000FFFF00000004)])
    [(0x20000, [0x11, 0x11, 0x22, 0x22, 0x33, 0x33, 0x44, 0x44, 0x55, 0x55, 0x66, 0x66])]
theorem test_axform : (let t := ran (.axform {} 8 9 10) transposing
    (t.core.copies.map fun x => (x.len, x.chan.toNat, x.handle), t.curBlock.map fun b => b.handles[3].state)) = ([(16, 0, some 3)], some 1) := by
  decide +kernel
theorem test_copy_deliver : (let t := ran (.copyDeliver 512 0) (ran (.ownershipPoint 512 0) (ran (.axform {} 8 9 10) transposing))
    (t.curBlock.map fun b => (b.local_.nat 0x100 8, b.local_.nat 0x108 8, b.handles[3].state.toNat, b.handles[3].deliv)))
    = some (0xFFFF555533331111, 0xFFFF666644442222, 2, 16) := by decide +kernel
/-- R119, R121, R292: a set reserved bit; a gather is accepted. -/
theorem test_acopy_reserved : cause (.acopy {} 8 9 10) (holding zeros2 zeros (unis [(8, 0x21000), (9, 0x20000), (10, 2 ^ 40 + 64)])) = 0x1001 := by decide +kernel
theorem test_agather : (ran (.agather {} 8 9 10) (holding zeros2 zeros (unis [(8, apertureBase), (9, 0x20000), (10, 1), (11, 0x400000100)]))).core.copies.map
    (fun x => x.len) = [8] := by decide +kernel
/-- R126, R127: BCLOSE of an empty batch closes nothing; a copy's batch stays outstanding, and WAITB 0 waits for it. -/
theorem test_batches : (let t := ran (.bclose {}) (ran (.axform {} 8 9 10) transposing)
    ((ran (.bclose {}) transposing).curBlock.map fun b => b.openNo, t.curBlock.map fun b => b.openNo, (ran (.waitb {} 0) t).cur.wait))
    = (some 0, some 1, .batch 0) := by decide +kernel
/-- R129, R130: a handle that is FILLING, and one that is FULL. -/
def handleIn (n : BitVec 2) : State :=
  let s := holding zeros2 zeros zeros
  { s with core := { s.core with blocks := s.core.blocks.map fun b => { b with handles := b.handles.set 4 { state := n, len := 64, deliv := 32 } } } }
theorem test_handle_filling : ((ran (.hwaitFull {} 4) (handleIn 1)).cur.wait, (ran (.hwaitFree {} 4) (handleIn 1)).cur.wait,
    (ran (.hsetDrain {} 4) (handleIn 1)).cur.wait, cause (.hsetFree {} 4) (handleIn 1), ((ran (.wptr {} 4 4) (handleIn 1)).cur.getS 4).toNat)
    = (.handleFull 4, .handleFree 4, .handleDrain 4, 0x0220, 32) := by decide +kernel
theorem test_handle_full : (let st := fun (t : State) => t.curBlock.map fun b => b.handles[4].state.toNat
    (st (ran (.hsetDrain {} 4) (handleIn 2)), st (ran (.hsetFree {} 4) (handleIn 2)), (ran (.hwaitFull {} 4) (handleIn 2)).cur.lpc[0].toNat,
      ((ran (.wptr {} 4 4) (handleIn 2)).cur.getS 4).toNat)) = (some 3, some 0, 0x10004, 64) := by decide +kernel
theorem test_handle_free : cause (.hsetDrain {} 4) (handleIn 0) = 0x0120 := by decide +kernel

/-! ### System instructions -/

/-- R288: TRAP 5 resumes after itself, in the handler with its cause. -/
theorem test_trap : (let s := holding zeros2 zeros zeros
    let t := ran (.trapI {} 5) { s with mgmt := { s.mgmt with sysHandler := 0x40000 } }
    (t.cur.tcause.toNat, t.cur.lpc[0].toNat, t.cur.slpc[0].toNat, t.cur.inhdl)) = (0x0508, 0x40000, 0x10004, true) := by decide +kernel
theorem test_bkpt : cause (.bkpt {} 9) (holding zeros2 zeros zeros) = 0x0909 := by decide +kernel
/-- R289: RTI goes back to the saved addresses; outside a handler it traps. -/
theorem test_rti : (let s := holding zeros2 zeros zeros
    let t := ran (.rti {}) { s with cur := { s.cur with inhdl := true, tmask := true, slpc := Vector.replicate 32 0x5000 } }
    (t.cur.lpc[7].toNat, t.cur.inhdl, t.cur.tmask, cause (.rti {}) s)) = (0x5000, false, false, 0x0503) := by decide +kernel
theorem test_tmask : (let s := holding zeros2 zeros zeros
    ((ran (.tmask {} 1) s).cur.tmask, cause (.tmask {} 1) { s with cur := { s.cur with supv := false } })) = (true, 0x0003) := by decide +kernel
/-- R290: SYS_WCTL.0 is number 0x049; an unassigned number traps. -/
theorem test_system_registers : (let s := holding zeros2 zeros (unis [(4, 0x5023), (6, 0x200)])
    let t := ran (.syswr {} 4 0x049) s
    ((ran (.sysrd {} 5 0x049) t).cur.getS 5, t.mgmt.wctl[0].toNat, cause (.syswr {} 6 0x049) s, cause (.sysrd {} 5 0x7F) s))
    = (0x5023, 0x5023, 0x0101, 0x0101) := by decide +kernel
/-- R291: TLBINV addresses every core of the part's 22 clusters and waits. -/
theorem test_tlbinv : (let s := holding zeros2 zeros zeros
    ((ran (.tlbinvPage {} 3 4) s).shootdowns.map fun x => x.count, (ran (.tlbinvRange {} 3 4 5) s).cur.wait, (ran (.tlbinvSpace {} 3 4) s).cur.wait))
    = ([2816], .tlbinv, .tlbinv) := by decide +kernel

/-! ### Matrix engine -/

/-- The example of R305: the walk of the card, K innermost, then N, then M, and the step after 256 of a0. -/
def card : Card := Vector.replicate 16 0 |>.set 0 0x0000001000006000 |>.set 4 0x0000020000000200 |>.set 7 0x00000001000100FF
  |>.set 8 0x0000002000070001 |>.set 9 0x00000040000A0001
theorem test_card_walk : card.next #v[254, 1, 0, 0, 0] = some #v[255, 1, 0, 0, 0] ∧ card.next #v[255, 0, 0, 0, 0] = some #v[0, 1, 0, 0, 0]
    ∧ card.next #v[255, 1, 0, 0, 0] = some #v[0, 0, 1, 0, 0] ∧ card.next #v[255, 1, 1, 0, 0] = none := by decide +kernel
theorem test_card_point : card.point #v[0, 0, 1, 0, 0] = (0, 64, 0, 2) ∧ card.topAcc = 3 ∧ card.accs = 0x0F := by decide +kernel
/-- The example of R297: a zero slice of A against an infinite element, with the special check on and off. -/
theorem test_native_step : (let z := operandsOf 0 [0, 0] 0;
    let inf := operandsOf 0 [0x80, 0x7F] 0;
    [stepElement 0x80000000 z inf, stepElement 0x80000000 z z, stepSkipped 0x80000000 z inf, stepSkipped 0x80000000 z z])
    = [0x7FC00000, 0, 0, 0] := by decide +kernel
theorem test_mzero : (let t := ran (.mzero {} 0x0F) (holding zeros2 zeros zeros)
    (t.core.jobs.map fun j => (j.entry, j.accs), (ran (.mwait {} 1) t).cur.wait, (ran (.mwaitAll {}) t).cur.wait, (ran (.mwait {} 0x10) t).cur.lpc[0].toNat))
    = ([(0, 0x0F)], .matrix 1 false, .matrix 0 true, 0x10008) := by decide +kernel
/-- R308: an accumulator that the warp does not hold. -/
theorem test_mzero_absent : (let s := holding zeros2 zeros zeros; cause (.mzero {} 0x80) { s with cur := { s.cur with nacc := 7 } }) = 0x0029 := by decide +kernel
theorem test_mjob : (let s := holding zeros2 zeros (unis [(6, 0x20000)]) [(0x20000, [0, 0, 3]), (0x20008, [0, 0, 4]), (0x20020, [2, 0, 0, 0, 2])];
    (ran (.mjob {} 6) s).core.jobs.map fun j => (j.entry, j.accs)) = [(0, 1)] := by decide +kernel
theorem test_mlda_msta : (let s := holding zeros2 zeros (unis [(4, 0x20000), (5, 0x80), (9, 0x3F800000)])
    (ran (.mldaGlobal {} 2 4 0) s).core.jobs.map (fun j => j.accs) ++ (ran (.mstaGlobal {} 4 2 9 0 0) s).core.jobs.map (fun j => j.accs)) = [4, 4] := by
  decide +kernel
/-- R309, R310: a null tile handle is refused. -/
theorem test_tiles : (let s := holding zeros2 zeros zeros; [cause (.mldaTile {} 2 0) s % 256, cause (.mstaTile {} 0 2 9 0) s % 256]) = [0x28, 0x28] := by decide +kernel
/-- R311: a window of 0; a stream that opens; UNSUB by a warp that is not subscribed. -/
theorem test_streams : (let s := holding zeros2 zeros (unis [(4, 0x10), (5, 0x813)])
    (cause (.mstreamSub {} 4) s, (ran (.mstreamSub {} 5) s).launches.map fun l => l.streams.map fun x => (x.id, x.count), cause (.mstreamUnsub {} 5) s))
    = (0x0B28, [[(3, 2)]], 0x0C28) := by decide +kernel

/-! ### Geometry, shading, rays, collectives, Lichen -/

/-- The example of R315: pixel (1000, 300) lies in tile (62, 18), owned by the shading die of logical index 7. -/
theorem test_tile_owner : tileOwner State.reset.mgmt 62 18 = State.reset.mgmt.shadeDies.getD 7 0 := by decide +kernel
/-- R324: outside a draw VISEMIT traps; R339: outside a tile launch VISRD and RPIX trap. -/
theorem test_outside : (let s := holding zeros2 zeros zeros
    [cause (.visemit {} 0 8 0 3) s, cause (.visrd {} 0 0) s, cause (.visrdPix {} 0 8 0 0) s, cause (.rpix {} 0 0 4 0 8 0) s])
    = [0x0603, 0x0703, 0x0703, 0x0703] := by decide +kernel
/-- R324: an emission whose box is empty has status 3, one without a surviving primitive 1. -/
theorem test_visemit : (let s := holding (vecs [(10, [0, 0x11]), (8, [0, 0])]) zeros (unis [(3, 0x3FFFF)])
    lanes (ran (.visemit {} 0 8 0 3) { s with launches := s.launches.map fun l => { l with draw := some 0 } }) 0 1) = [1] := by decide +kernel
/-- R346, R350: RTRACE puts a ray into each lane; RTCONT of a lane without one gives 4. -/
theorem test_rays : (let s := only 1 (holding (vecs [(12, [0x3F800000]), (15, [0x42C80000])]) zeros (unis [(2, 0x20000)]))
    ((ran (.rtrace {} 16 8 0 2) s).cur.threads[0].ray.map fun r => r.stack, lanes (ran (.rtcont {} 16 0) s) 16 1,
      (ran (.rquery {} 16 8 0 2) s).cur.threads[0].ray.map fun r => r.k)) = (some [{ node := 0x20000 }], [4], some 1) := by decide +kernel
/-- The example of R351: two warps sorted by key; warp 1 has arrived before. -/
def sorting : State :=
  let key := fun (n : Nat) => fun r l => if r = 5 then (if l < n then 0 else 1) else 0
  let a := holding (key 8) zeros zeros
  let b := (holding (key 24) zeros zeros).cur
  { a with core := { a.core with warps := [{ b with
      slot := 1, idx := 1, wait := .hsort, parked := some (.hsort {} 6 5 0), threads := Vector.ofFn fun l => { tid := 32 + l.val } }] } }
theorem test_hsort : (let t := ran (.hsort {} 6 5 0) sorting
    (lanes t 6 10, t.core.warps.map fun w => [(w.getV 6 0).toNat, (w.getV 6 23).toNat, (w.getV 6 24).toNat, (w.getV 6 31).toNat]))
    = ([0, 1, 2, 3, 4, 5, 6, 7, 32, 33], [[8, 31, 56, 63]]) := by decide +kernel
/-- The example of R358: five ranks in the canonical tree, and without rank 3. -/
def leaf (x : Nat) : NodeVal := ⟨1, none, false, some (.block [x])⟩
theorem test_canonical_tree : (let n := combineNode 3
    ((n (n (n (leaf 0x3F800000) (leaf 0x4B800000)) (leaf 0x3F800000)) (n (leaf 0x3F800000) (leaf 0xCB800000))),
      (n (n (n (leaf 0x3F800000) (leaf 0x4B800000)) (leaf 0x3F800000)) (n ⟨0, some 3, false, none⟩ (leaf 0xCB800000)))))
    = (⟨5, none, false, some (.block [0x3F800000])⟩, ⟨4, some 3, false, some (.block [0])⟩) := by decide +kernel
/-- R355, R369: instructions on a slot that the launch does not hold trap. -/
theorem test_unbound : (let s := holding zeros2 zeros zeros
    [cause (.cpost {} 4 5) s % 256, cause (.cred {} 4 5) s % 256, cause (.cwait {} 1 4 0) s % 256, cause (.cjoinLeave {} 4) s % 256]) = [0x31, 0x31, 0x31, 0x31] := by
  decide +kernel
/-- The example of R376: slot 0 claims opcode 0xF1, and operation 0 of slot 48 is performed as ISUB v3, v5, v4. -/
def claiming : State :=
  let s := State.reset.withFetchWord 32 0x78862028
  { s with mgmt := { s.mgmt with lichen := { cpres := 1, slots := (Vector.replicate 32 0).set 0 (0x0030038D <<< 64 ||| 0x7F800000 <<< 32 ||| 0x78800000)
                                             micro := (Vector.replicate 16 (Vector.replicate 32 0)).set 0
                                               (Vector.replicate 32 0 |>.set 0 0x8000008D00800000 |>.set 1 0x8000000035800000) } } }
theorem test_claimed : (match nextGroup claiming with
    | (t, .run i) => (decide (i = .lichenEmulation {} 0x78862028 48 false), match nextGroup (ran i t) with
      | (_, .run j) => decide (j = .isub {} 3 5 0 4 0 0) | _ => false)
    | _ => (false, false)) = (true, true) := by decide +kernel

/-! ## States and operands that meet the hypotheses of the statements, clause by clause -/

def plain : State := holding zeros2 zeros zeros
/-- Inside a microprogram of the block's control store, at operation 0, p1 true in four lanes. -/
def calling : State :=
  let s := holding zeros2 (unis [(1, 0xF)]) zeros
  { s with core := { s.core with microOwner := some s.cur.launch, micro := [(3, Vector.replicate 32 0)] } }
def inside : State := ran (.mcall {} 0 4 9 3) calling
/-- Results of the slow units go on their way instead of landing at once. -/
def lately (s : State) : State := { s with sched := { s.sched with late := true } }
/-- In user mode. -/
def user (s : State) : State := { s with cur := { s.cur with supv := false } }

/-- In a trap handler; lane 5 waits elsewhere for its turn. -/
def warped (f : Warp → Warp) : State := { plain with cur := f plain.cur }
def handlingPlain : State := warped fun w => { w with inhdl := true }
def split : State := warped fun w => { w with lpc := w.lpc.set 5 0x20000 }

theorem witness_IntegerInstructions :
    (∀ i ∈ [Instr.iadd {} 63 62 0 61 0 0, .isub {} 1 2 0 3 0 0, .imul {} 1 2 0 3 0 0, .imulhiS {} 1 2 0 3 0 0, .imulhiU {} 1 2 0 3 0 0,
      .imad (third 63) 0 1 0 63 0 1, .iminS {} 1 2 0 3 0 0, .iminU {} 1 2 0 3 0 0, .imaxS {} 1 2 0 3 0 0, .imaxU {} 1 2 0 3 0 0,
      .andV {} 1 2 0 3 0 0, .orV {} 1 2 0 3 0 0, .xorV {} 1 2 0 3 0 0, .shl {} 1 2 0 3 0 0, .shr {} 1 2 0 3 0 0, .sar {} 1 2 0 3 0 0,
      .bfe (third 63) 0 1 0 2 0 0, .bfi (third 63) 0 1 0 2 0 0, .iabs {} 63 0 0, .popc {} 63 0 0, .clz {} 63 0 0, .mov {} 63 0 0,
      .iaddi {} 63 0 0 256, .andi {} 63 0 0 256, .ori {} 63 0 0 256, .xori {} 63 0 0 256, .andni {} 63 0 0 256, .shli {} 63 0 0 31,
      .shri {} 63 0 0 31, .sari {} 63 0 0 31, .roti {} 63 0 0 31, .movi {} 63 256], Runs i plain)
    ∧ v3Has plain.cur {} 63 62 61 0 false ∧ v3Has plain.cur (third 63) 0 1 63 1 true ∧ v2Has plain.cur {} 63 0 := by
  unfold Runs v3Has v2Has HasV
  exact ⟨by decide +kernel, by decide +kernel, ⟨by decide, by decide +kernel⟩, by decide +kernel⟩
theorem witness_ComparesAndSelect :
    (∀ i ∈ [Instr.icmp {} 7 2 63 0 5 0 1, .fcmp {} 0 7 5 0 6 0 0, .sel (third 7) 1 2 0 3 0 0], Runs i plain)
    ∧ pHas plain.cur {} 7 63 5 1 ∧ pHas plain.cur {} 0 5 6 0 ∧ v3Has plain.cur (third 7) 1 2 3 0 false
    ∧ ∀ k < reps (third 7), repC (third 7) (third 7).cReg.toNat k ≤ 7 := by
  unfold Runs pHas v3Has HasV; decide +kernel
theorem witness_FloatInstructions :
    (∀ i ∈ [Instr.fadd (rounded 4) 1 2 0 3 0 0, .fsub {} 1 2 0 3 0 0, .fmul {} 1 2 0 3 0 0, .ffma (third 63) 0 1 0 2 0 0, .fmin {} 1 2 0 3 0 0,
      .fmax {} 1 2 0 3 0 0, .fscale {} 1 2 0 3 0 0, .hadd2 {} 1 2 0 3 0 0, .hmul2 {} 1 2 0 3 0 0, .hfma2 (third 63) 0 1 0 2 0 0,
      .dot4 (third 63) 0 1 0 2 0 0, .fclass {} 63 0 0, .frnd {} 63 0 0, .f2i {} 63 0 0 1, .i2f {} 63 0 0 1, .fcvt {} 5 4 0 0 3 2], Runs i plain)
    ∧ v3Has plain.cur (rounded 4) 1 2 3 0 false ∧ v3Has plain.cur (third 63) 0 1 2 0 true ∧ v2Has plain.cur {} 63 0
    ∧ (fcvtWidth 0 = 32 ∧ fcvtWidth 3 * ((3 : BitVec 2).toNat + 1) ≤ 32) := by
  unfold Runs v3Has v2Has HasV
  exact ⟨by decide +kernel, by decide +kernel, ⟨by decide, by decide +kernel⟩, by decide +kernel, by decide⟩
theorem witness_RoundingToF32 : (0 < (1 : Nat) ∧ 1 ≤ (2 ^ 24 - 1) * 2 ^ 104 * 3)
    ∧ (0 < (2 ^ 24 - 1) * 2 ^ 104 ∧ (2 ^ 24 - 1) * 2 ^ 104 ≤ (2 ^ 24 - 1) * 2 ^ 104 * 1) := by decide
theorem witness_LaneExchange :
    (∀ i ∈ [Instr.shfl {} 3 3 0 3 0 31, .shfl (third 63) 3 3 0 3 1 0, .matchV {} 3 3 0 0, .matchV {} 3 3 0 1, .matchV {} 3 3 0 2, .redux {} 3 3 0 7,
      .pscan {} 3 3 0 0 0, .pscan {} 3 3 0 7 1, .part {} 5], Runs i plain)
    ∧ v2Has plain.cur {} 3 3 ∧ v2Has plain.cur (third 63) 3 3 ∧ ∀ k < reps (third 63), HasV plain.cur (repC (third 63) (third 63).cReg.toNat k) := by
  unfold Runs v2Has HasV; decide +kernel
theorem witness_Votes :
    (∀ i ∈ [Instr.vote {} 7 0 0 0 0 7, .vote {} 7 0 0 1 0 7, .vote {} 7 63 0 2 0 0, .vote {} 63 0 0 3 1 0], Runs i plain)
    ∧ (∀ k < reps {}, repD {} 7 k ≤ 7 ∧ HasV plain.cur (repA {} 63 k) ∧ HasV plain.cur (repD {} 63 k)) ∧ plain.cur.width = 32 ∧ Together plain.cur {}
    ∧ (∀ s ∈ [inside, handlingPlain, only 1 plain, split, plain], s.cur.present = true ∧ s.cur.executing ≠ 0 ∧ s.cur.width = 32)
    ∧ inside.cur.micro.isSome = true ∧ (∀ s ∈ [handlingPlain, only 1 plain, split, plain], s.cur.micro = none) ∧ handlingPlain.cur.inhdl = true
    ∧ (only 1 plain).cur.liveMask ≠ 0xFFFFFFFF ∧ split.cur.liveMask = 0xFFFFFFFF ∧ split.cur.executing ≠ 0xFFFFFFFF
    ∧ plain.cur.executing = 0xFFFFFFFF ∧ plain.cur.guardMask guarded ≠ 0xFFFFFFFF
    ∧ (∀ s ∈ [only 1 plain, split, plain], s.cur.inhdl = false) ∧ ∀ k < reps guarded, repD guarded 7 k ≤ 7 := by
  unfold Runs HasV Together
  refine ⟨?_, ?_, ?_, ?_, ?_, ?_, ?_, ?_, ?_, ?_, ?_, ?_, ?_, ?_, ?_⟩ <;> decide +kernel
theorem witness_UniformInstructions :
    (∀ i ∈ [Instr.sadd {} 63 62 61, .ssub {} 1 2 3, .smul {} 1 2 3 0, .smul {} 1 2 3 1, .smul {} 1 2 3 2, .sand {} 1 2 3, .sor {} 1 2 3,
      .sxor {} 1 2 3, .sandn {} 1 2 3, .sshl {} 1 2 3, .sshr {} 1 2 3, .ssar {} 1 2 3, .srot {} 1 2 3, .scmp {} 1 2 3 0 7, .scmp {} 1 2 3 1 0,
      .sbfe {} 1 2 3 1, .smin {} 1 2 3 0, .smin {} 1 2 3 1, .smax {} 1 2 3 0, .smax {} 1 2 3 1, .spopc {} 63 62, .sclz {} 1 2, .sctz {} 1 2,
      .sbrev {} 1 2, .smov {} 1 2, .saddi {} 1 2 0, .smovi {} 63 0, .smovTlo {} 7 63, .smovThi {} 7 63, .smovSlo {} 63 7, .smovShi {} 63 7], Runs i plain)
    ∧ u3Has {} 63 62 61 ∧ u2Has {} 63 62 ∧ (∀ k < reps {}, repD {} 7 k < 8 ∧ repA {} 63 k < 64) ∧ ∀ k < reps {}, repD {} 63 k < 64 ∧ repA {} 7 k < 8 := by
  unfold Runs u3Has u2Has; decide +kernel
theorem witness_SpecialFunctions :
    (Runs (.sfu {} 63 0 0 7) plain ∧ v2Has plain.cur {} 63 0 ∧ plain.cur.resumed.rep = 0 ∧ plain.sched.late = false)
    ∧ Runs (.sfu {} 63 0 0 0) (lately plain) ∧ (lately plain).sched.late = true ∧ (lately plain).cur.inMicro = false := by
  unfold Runs v2Has HasV; decide +kernel
theorem witness_SpecialValuesAndMoves :
    (∀ i ∈ [Instr.sget {} 63 15, .sget {} 62 16, .v2s {} 63 63 0 1 0 1 31, .v2s {} 63 62 0 0 1 0 31, .s2v {} 63 63 0, .s2v {} 62 63 1,
      .pmovAnd {} 7 7 1 1 7, .pmovOr {} 7 7 1 1 7, .pmovXor {} 7 7 1 1 7, .pmovP2v {} 63 7, .pmovV2p {} 7 63 0, .pmovP2s {} 63 7, .pmovS2p {} 7 63],
      Runs i plain) ∧ plain.cur.resumed.rep = 0
    ∧ ∀ k < reps {}, HasV plain.cur (repD {} 63 k) ∧ HasV plain.cur (repD {} 62 k + 1) ∧ repD {} 63 k < 64 ∧ repA {} 7 k ≤ 7 := by
  unfold Runs HasV; decide +kernel
theorem witness_Branches :
    ((∀ i ∈ [Instr.bra {} 7 0 8, .brp {} 0 1 (-8), .brs {} 7 0 0, .call {} 7 0 0x1FC5], Runs i plain) ∧ plain.cur.micro = none ∧ 2 ≤ plain.cur.vgran
      ∧ traced plain plain.cur.launch = false)
    ∧ ∃ m, inside.cur.micro = some m ∧ m.op = 0 ∧ (∀ i ∈ [Instr.bra {} 7 0 31, .bra {} 1 0 0, .brp {} 7 0 31, .brp {} 7 0 32, .brs {} 7 0 0], Runs i inside)
      ∧ branches inside.cur 7 0 = inside.cur.executing ∧ branches inside.cur 0 0 = 0
      ∧ branches inside.cur 1 0 ≠ 0 ∧ branches inside.cur 1 0 ≠ inside.cur.executing
      ∧ (∀ i ∈ [Instr.bra {} 7 0 (-8), .brp {} 7 0 (-8), .brs {} 7 0 31], Runs i inside)
      ∧ (0 : Int) + hintWords {} + (-8 : BitVec 15).toInt < 0 ∧ 31 < (31 : Int) + hintWords {} + (31 : BitVec 15).toInt
      ∧ inside.cur.present = true ∧ inside.cur.executing ≠ 0
      ∧ Runs (.call {} 7 0 1) (warped fun w => { w with vgran := 1 }) := by
  refine ⟨by unfold Runs; decide +kernel, inside.cur.micro.get (by decide +kernel), (Option.some_get _).symm, ?_⟩
  unfold Runs; decide +kernel
theorem witness_IndirectTransfers :
    (∀ n ∈ [0x10040, 0x10042], let s := holding (vecs [(8, List.replicate 32 n)]) zeros zeros
      (∀ i ∈ [Instr.jmpi {} 8 0, .ret {} 8 0, .calli {} 8 0], Runs i s) ∧ 2 ≤ s.cur.vgran ∧ s.cur.resumed.rep = 0
      ∧ (∀ k < reps {}, HasV s.cur (repA {} 8 k) ∧ HasV s.cur (repA {} 8 k + 1))
      ∧ ∀ k < reps {}, ∀ l : Fin 32, (s.cur.active {}).getLsbD l.val = true →
        canonical (pairOf (regsOf s.cur) (repA {} 8 k) l) = true ∧ (pairOf (regsOf s.cur) (repA {} 8 k) l).toNat % 4 = n % 4)
    ∧ (let s := holding (vecs [(9, [0, 0, 0x1000000])]) zeros zeros
       (∀ i ∈ [Instr.jmpi {} 8 0, .ret {} 8 0, .calli {} 8 0], Runs i s) ∧ (s.cur.active {}).getLsbD 2 = true
       ∧ canonical (pairOf (regsOf s.cur) (repA {} 8 0) 2) = false
       ∧ ∀ j < (2 : Fin 32), (s.cur.active {}).getLsbD j.val = true → canonical (pairOf (regsOf s.cur) (repA {} 8 0) j) = true)
    ∧ (inside.cur.present = true ∧ inside.cur.executing ≠ 0 ∧ inside.cur.micro.isSome = true ∧ inside.cur.resumed.rep = 0) := by
  unfold Runs HasV
  refine ⟨?_, ?_, ?_⟩ <;> decide +kernel
theorem witness_ExitYieldNop : ∀ i ∈ [Instr.exitL {}, .yield {}, .nop {}], Runs i plain := by unfold Runs; decide +kernel
theorem witness_Microprograms :
    (Runs (.mcall {} 0 4 9 3) calling ∧ calling.cur.active {} ≠ 0 ∧ (microSlot calling 3).isSome = true)
    ∧ (Runs (.mcall guarded 0 4 9 3) plain ∧ plain.cur.active guarded = 0 ∧ Runs (.mret guarded) plain)
    ∧ (∃ m, Runs (.mret {}) inside ∧ inside.cur.micro = some m ∧ inside.cur.active {} ≠ 0 ∧ m.reps ≤ m.rep + 1)
    ∧ (let s := { inside with cur := { inside.cur with micro := inside.cur.micro.map fun m => { m with reps := 2 } } }
       ∃ m, Runs (.mret {}) s ∧ s.cur.micro = some m ∧ s.cur.active {} ≠ 0 ∧ m.rep + 1 < m.reps)
    ∧ (claiming.cur.present = true ∧ claiming.cur.executing ≠ 0 ∧ claiming.cur.active {} ≠ 0 ∧ claiming.cur.resume = none
      ∧ (microSlot claiming 48).isSome = true) := by
  refine ⟨by unfold Runs; decide +kernel, by unfold Runs; decide +kernel, ⟨inside.cur.micro.get (by decide +kernel), ?_, (Option.some_get _).symm, ?_⟩,
    ⟨({ inside with cur := { inside.cur with micro := inside.cur.micro.map fun m => { m with reps := 2 } } } : State).cur.micro.get (by decide +kernel), ?_,
      (Option.some_get _).symm, ?_⟩, by decide +kernel⟩
  all_goals first | (unfold Runs; decide +kernel) | decide +kernel

/-- Lanes 0 and 31 live, words of device memory at the addresses that s2, or s2 and v5, name, their translation in the core's TLBs; a warp
of another block waits for the word at 0x20000; 1 KiB of private memory for each thread. -/
def touching : State :=
  let s := holding (vecs [(5, (List.range 32).map (8 * ·))]) (unis [(1, 1)]) (unis [(2, 0x20000), (3, 0x40), (4, 0x21000), (6, 0x100), (7, 0x30000)])
    [(0x20000, [1, 2, 3, 4])]
  only 0x80000001 { s with
    core := { s.core with
      tlb := [{ space := 0, va := 0, bytes := 0x40000000, leaf := ⟨0x75, 1, tableAt⟩ }]
      warps := [{ slot := 1, bslot := 1, live := 1, wait := .signal none 0x20000 0 0 5 0 }] }
    launches := s.launches.map fun l => { l with pkt := { l.pkt with privsz := 16, privb := 0x40000 } } }
/-- The same, s2 an offset in the local store. -/
def nearby : State := { touching with cur := { touching.cur with s := touching.cur.s.set 2 0x40 } }
theorem nearby_stash (i : Instr) (n : Nat) : ((begun i nearby).coreAt n).stash = [] := by
  rw [begun_coreAt]
  have h : nearby.core.stash = [] ∧ nearby.cores = [] := ⟨rfl, rfl⟩
  unfold State.coreAt
  rw [h.2]
  split
  · exact h.1
  · rfl
/-- The checks of the accesses of `touching` and `nearby` leave the machine alone. -/
theorem touching_at (i : Instr) (l : Fin 32) {size align : Nat} {k : Kind} {wide : Bool} {more : Acc → Except Trap Unit} :
    (checkLane (begun i touching) l (memAddr touching.cur {} 2 5 l) size align k wide more).1 = begun i touching := by
  refine checkLane_mem ?_
  rw [begun_inTlb, begun_curLaunch, begun_core]
  exact (by decide +kernel : ∀ l : Fin 32, inAperture (memAddr touching.cur {} 2 5 l) = false
    ∧ inTlb touching touching.core.id touching.curLaunch.ptroot (memAddr touching.cur {} 2 5 l) = true) l
theorem touching_uniform (i : Instr) (l : Fin 32) {size align : Nat} {k : Kind} {wide : Bool} {more : Acc → Except Trap Unit} :
    (checkLane (begun i touching) l (uniformAddr touching.cur {} 2) size align k wide more).1 = begun i touching := by
  refine checkLane_mem ?_
  rw [begun_inTlb, begun_curLaunch, begun_core]
  decide +kernel
theorem touching_private (i : Instr) (l : Fin 32) {k : Kind} :
    (checkPrivate (begun i touching) l false (privAddr touching.cur {} 3 5 true l) 4 k).1 = begun i touching := by
  refine checkPrivate_state ?_
  rw [begun_inTlb, begun_laneCtx, begun_threads, begun_core]
  exact (by decide +kernel : ∀ l : Fin 32, inTlb touching touching.core.id (laneCtx touching l).ptroot (BitVec.ofNat 64 (((laneCtx touching l).privBase
    + (laneCtx touching l).warpNo * 32 * (laneCtx touching l).privBytes + privAddr touching.cur {} 3 5 true l / 4 * 128
    + touching.cur.threads[l].tid % 32 * 4 + privAddr touching.cur {} 3 5 true l % 4) % 2 ^ 64)) = true) l
theorem nearby_at (i : Instr) (l : Fin 32) {size align : Nat} {k : Kind} {wide : Bool} {more : Acc → Except Trap Unit} :
    (checkLane (begun i nearby) l (localAddr nearby.cur {} false 2 5 l) size align k wide more).1 = begun i nearby :=
  checkLane_local ((by decide +kernel : ∀ l : Fin 32, inAperture (localAddr nearby.cur {} false 2 5 l) = true
    ∧ (localAddr nearby.cur {} false 2 5 l).toNat - apertureBase < 0x104000000) l) (nearby_stash i)
theorem nearby_own (i : Instr) (l : Fin 32) {n : Nat} :
    (checkOwn (begun i nearby) l (localAddr nearby.cur {} false 2 5 l) n).1 = begun i nearby := by
  unfold checkOwn
  split
  · rfl
  · split
    · rfl
    · exact nearby_at i l

theorem witness_Loads :
    (Runs (.ld {} 8 2 5 5 0 0) touching ∧ (∀ k < reps {}, (∀ j < tyRegs 5, HasV touching.cur (repD {} 8 k + j)) ∧ HasV touching.cur (repA {} 5 k))
      ∧ ∃ t, Performs {} (fun k => LoadsOnce {} (repD {} 8 k) 5 (decide ((0 : BitVec 1) = 1)) 0 fun s l =>
        checkLane s l (memAddr touching.cur {} 2 (repA {} 5 k) l) (tyBytes 5) (tyBytes 5) .load) (begun (.ld {} 8 2 5 5 0 0) touching) t)
    ∧ (Runs (.ldl {} 8 2 5 4 0 0) nearby ∧ ∃ t, Performs {} (fun k => LoadsOnce {} (repD {} 8 k) 4 false 0 fun s l =>
        checkLane s l (localAddr nearby.cur {} false 2 (repA {} 5 k) l) (tyBytes 4) (tyBytes 4) .load) (begun (.ldl {} 8 2 5 4 0 0) nearby) t)
    ∧ (Runs (.ldp {} 8 3 5 4 1) touching ∧ toScratch touching.cur 3 true = false ∧ ∃ t, Performs {} (fun k s t => toScratch s.cur 3 true = false
        ∧ LoadsOnce {} (repD {} 8 k) 4 false 0 (fun s l => checkPrivate s l false (privAddr s.cur {} 3 (repA {} 5 k) true l) 4 .load) s t)
        (begun (.ldp {} 8 3 5 4 1) touching) t)
    ∧ (Runs (.ldu {} 63 2 5 0 0) touching ∧ (∀ k < reps {}, ∀ j < tySRegs 5, repD {} 63 k + j < 64)
      ∧ ∃ t, PerformsOnce {} (fun k s t => ∃ s1 as s2 vs,
        checkLanes s (theLane {} s) (fun s l => checkLane s l (uniformAddr s.cur {} 2) (tyBytes 5) (tyBytes 5) .load) = (s1, .ok as)
        ∧ Sweeps (LoadsLane false (cpolOf {})) as s1 s2 vs
        ∧ (let u := vs.foldl (fun s x => ((uniformWords 5 x.2.bytes).zip [0, 1]).foldl (fun s y => landS s (repD {} 63 k + y.2) y.1) s) (touchAll s2 as)
           t = if ordered u.cur 0 = true then acquire u allLanes (orderDomain u.cur as) else u)) (begun (.ldu {} 63 2 5 0 0) touching) t) := by
  refine ⟨⟨by unfold Runs; decide +kernel, by unfold HasV; decide +kernel,
      performs_one (by decide +kernel) (by decide +kernel) (loadsOnce_of (by decide +kernel) (by decide +kernel))⟩,
    ⟨by unfold Runs; decide +kernel, performs_one (by decide +kernel) (by decide +kernel) (loadsOnce_of (by decide +kernel) (by decide +kernel))⟩,
    ⟨by unfold Runs; decide +kernel, by decide +kernel, performs_one (by decide +kernel) (by decide +kernel)
      ((loadsOnce_of (by decide +kernel) (by decide +kernel)).imp fun t h => ⟨by decide +kernel, h⟩)⟩,
    by unfold Runs; decide +kernel, by decide +kernel, performsOnce_one (by decide +kernel) (by decide +kernel) (by decide +kernel) ?_⟩
  obtain ⟨t, vs, h⟩ := some_of (x := sweep (loadPart false (cpolOf {}))
    (checkedOf (checkLanes (begun (.ldu {} 63 2 5 0 0) touching) (theLane {} (begun (.ldu {} 63 2 5 0 0) touching)) fun s l =>
      checkLane s l (uniformAddr s.cur {} 2) (tyBytes 5) (tyBytes 5) .load))
    (checkLanes (begun (.ldu {} 63 2 5 0 0) touching) (theLane {} (begun (.ldu {} 63 2 5 0 0) touching)) fun s l =>
      checkLane s l (uniformAddr s.cur {} 2) (tyBytes 5) (tyBytes 5) .load).1) (by decide +kernel)
  exact ⟨_, _, _, t, vs, checks_eq (by decide +kernel), sweeps_of loadPart_spec h, rfl⟩
theorem witness_Stores :
    (Runs (.st {} 8 2 5 5 0) touching ∧ ∃ t, Performs {} (fun k => StoresOnce {} (repD {} 8 k) 5 0 fun s l =>
        checkLane s l (memAddr touching.cur {} 2 (repA {} 5 k) l) (tyBytes 5) (tyBytes 5) .store) (begun (.st {} 8 2 5 5 0) touching) t)
    ∧ (Runs (.stl {} 8 2 5 4 0 0) nearby ∧ ∃ t, Performs {} (fun k => StoresOnce {} (repD {} 8 k) 4 0 fun s l =>
        checkLane s l (localAddr nearby.cur {} false 2 (repA {} 5 k) l) (tyBytes 4) (tyBytes 4) .store) (begun (.stl {} 8 2 5 4 0 0) nearby) t)
    ∧ (Runs (.stp {} 8 3 5 4 1) touching ∧ ∃ t, Performs {} (fun k s t => toScratch s.cur 3 true = false
        ∧ StoresOnce {} (repD {} 8 k) 4 0 (fun s l => checkPrivate s l false (privAddr s.cur {} 3 (repA {} 5 k) true l) 4 .store) s t)
        (begun (.stp {} 8 3 5 4 1) touching) t)
    ∧ (Runs (.stu {} 62 2 6 0) touching ∧ (∀ k < reps {}, ∀ j < tySRegs 6, repD {} 62 k + j < 64)
      ∧ ∃ t, PerformsOnce {} (fun k s t => ∃ s1 as s2 vs,
        checkLanes s (theLane {} s) (fun s l => checkLane s l (uniformAddr s.cur {} 2) (tyBytes 6) (tyBytes 6) .store) = (s1, .ok as)
        ∧ orderedBefore allLanes 0 as s1
        ∧ (let x := (s1.cur.getS (repD {} 62 k)).toNat + (s1.cur.getS (repD {} 62 k + 1)).toNat * 2 ^ 64
           Sweeps (fun s l a t (_ : Unit) => tagged s (tags s1.cur allLanes 0 as s.cur l)
             (fun s e => storeAcc s (curIssuer s allLanes) a (leBytes (tyBytes 6) x) e) = (t, .ok ())) as s1 s2 vs)
        ∧ t = touchAll s2 as) (begun (.stu {} 62 2 6 0) touching) t) := by
  refine ⟨⟨by unfold Runs; decide +kernel, performs_one (by decide +kernel) (by decide +kernel)
      (storesOnce_of rfl (by decide +kernel) (by decide +kernel) (by decide +kernel) (by decide +kernel))⟩,
    ⟨by unfold Runs; decide +kernel, performs_one (by decide +kernel) (by decide +kernel)
      (storesOnce_of rfl (by decide +kernel) (by decide +kernel) (by decide +kernel) (by decide +kernel))⟩,
    ⟨by unfold Runs; decide +kernel, performs_one (by decide +kernel) (by decide +kernel)
      ((storesOnce_of rfl (by decide +kernel) (by decide +kernel) (by decide +kernel) (by decide +kernel)).imp
        fun t h => ⟨by decide +kernel, h⟩)⟩,
    by unfold Runs; decide +kernel, by decide +kernel, performsOnce_one (by decide +kernel) (by decide +kernel) (by decide +kernel) ?_⟩
  exact uniformStore_of (fun s1 => leBytes (tyBytes 6) ((s1.cur.getS (repD {} 62 0)).toNat + (s1.cur.getS (repD {} 62 0 + 1)).toNat * 2 ^ 64)) rfl
    (by decide +kernel) (by decide +kernel) (by decide +kernel)
theorem witness_ReadModifyWrites :
    (Runs (.atom {} 8 2 5 13 0) touching ∧ ∃ t, Performs {} (fun k => UpdatesOnce {} (repD {} 8 k) (rmwBytes 13 / 4) 0
      (fun s l => .rmw 13 (BitVec.ofNat 64 (regNat s.cur (repD {} 8 k) (rmwBytes 13 / 4) l))) id
      fun s l => checkLane s l (memAddr touching.cur {} 2 (repA {} 5 k) l) (rmwBytes 13) (rmwBytes 13) .atomic (rmwBytes 13 = 8))
      (begun (.atom {} 8 2 5 13 0) touching) t)
    ∧ (Runs (.cas (third 10) 8 2 5 1 0) touching ∧ (∀ j < 8 / 4, HasV touching.cur ((third 10).cReg.toNat + j))
      ∧ ∃ t, Performs (third 10) (fun k => UpdatesOnce (third 10) (repD (third 10) 8 k) (8 / 4) 0
      (fun s l => .cas true (BitVec.ofNat 64 (regNat s.cur (repD (third 10) 8 k) (8 / 4) l)) (BitVec.ofNat 64 (regNat s.cur (third 10).cReg.toNat (8 / 4) l)))
      (fun s => { s with cur := s.cur.lastUse s.cur.executing (third 10).lkc ((List.range (8 / 4)).map fun j => (third 10).cReg.toNat + j) })
      fun s l => checkLane s l (memAddr touching.cur (third 10) 2 (repA (third 10) 5 k) l) 8 8 .atomic true) (begun (.cas (third 10) 8 2 5 1 0) touching) t)
    ∧ (Runs (.atoml {} 8 2 5 0) nearby ∧ ∃ t, Performs {} (fun k => UpdatesOnce {} (repD {} 8 k) (rmwBytes 0 / 4) 0
      (fun s l => .rmw 0 (BitVec.ofNat 64 (regNat s.cur (repD {} 8 k) (rmwBytes 0 / 4) l))) id
      fun s l => checkOwn s l (localAddr nearby.cur {} false 2 (repA {} 5 k) l) (rmwBytes 0)) (begun (.atoml {} 8 2 5 0) nearby) t) := by
  refine ⟨⟨by unfold Runs; decide +kernel, performs_one (by decide +kernel) (by decide +kernel)
      (updatesOnce_of rfl (by decide +kernel) (by decide +kernel) (by decide +kernel))⟩,
    ⟨by unfold Runs; decide +kernel, by unfold HasV; decide +kernel, performs_one (by decide +kernel) (by decide +kernel)
      (updatesOnce_of rfl (by decide +kernel) (by decide +kernel) (by decide +kernel))⟩,
    by unfold Runs; decide +kernel, performs_one (by decide +kernel) (by decide +kernel)
      (updatesOnce_of rfl (by decide +kernel) (by decide +kernel) (by decide +kernel))⟩
theorem witness_Reductions :
    (Runs (.red {} 8 2 5 7 0) touching ∧ ∃ t, Performs {} (fun k => ReducesOnce {} 7 (repD {} 8 k) 4 0 fun s l =>
      checkLane s l (memAddr touching.cur {} 2 (repA {} 5 k) l) 4 4 .atomic false (redMatch 7)) (begun (.red {} 8 2 5 7 0) touching) t)
    ∧ (Runs (.redl {} 8 2 5 0) nearby ∧ ∃ t, Performs {} (fun k => ReducesOnce {} 0 (repD {} 8 k) 4 0 fun s l =>
      checkOwn s l (localAddr nearby.cur {} false 2 (repA {} 5 k) l) 4) (begun (.redl {} 8 2 5 0) nearby) t)
    ∧ (Runs (.redHome {} 8 2 5 1 0) touching ∧ ∃ t, Performs {} (fun k s t => ∃ s1 as,
      ReducesFrom {} 0 (fun s l => checkLane s l (memAddr touching.cur {} 2 (repA {} 5 k) l) 8 8 .atomic true (redMatch 1)) s s1 as
      ∧ redHomeLanes 1 (repD {} 8 k) 8 (s.cur.active {}) s1 as (ordered s1.cur 0 && s.cur.active {} ≠ 0) (orderDomain s1.cur as) = (t, .done))
      (begun (.redHome {} 8 2 5 1 0) touching) t) := by
  refine ⟨⟨by unfold Runs; decide +kernel, performs_one (by decide +kernel) (by decide +kernel)
      (reducesOnce_of rfl (by decide +kernel) (by decide +kernel) (by decide +kernel) (by decide +kernel))⟩,
    ⟨by unfold Runs; decide +kernel, performs_one (by decide +kernel) (by decide +kernel)
      (reducesOnce_of rfl (by decide +kernel) (by decide +kernel) (by decide +kernel) (by decide +kernel))⟩,
    by unfold Runs; decide +kernel, performs_one (by decide +kernel) (by decide +kernel) ⟨_, _, _,
      reducesFrom_of rfl (by decide +kernel) (by decide +kernel) (by decide +kernel), perf_done (by decide +kernel)⟩⟩
theorem witness_LineLocks :
    (Runs (.lock {} 8 2 5) touching ∧ ∃ t, Performs {} (fun k => LocksOnce {} (repD {} 8 k) false fun s l =>
      checkLane s l (memAddr touching.cur {} 2 (repA {} 5 k) l) 4 4 .lock false lockRegion) (begun (.lock {} 8 2 5) touching) t)
    ∧ (Runs (.unlock {} 8 2 5) touching ∧ ∃ t, Performs {} (fun k => LocksOnce {} (repD {} 8 k) true fun s l =>
      checkLane s l (memAddr touching.cur {} 2 (repA {} 5 k) l) 4 4 .lock false lockRegion) (begun (.unlock {} 8 2 5) touching) t) := by
  refine ⟨⟨by unfold Runs; decide +kernel, performs_one (by decide +kernel) (by decide +kernel)
      (locksOnce_of rfl (by decide +kernel) (by decide +kernel) (by decide +kernel) (by decide +kernel))⟩,
    by unfold Runs; decide +kernel, performs_one (by decide +kernel) (by decide +kernel)
      (locksOnce_of rfl (by decide +kernel) (by decide +kernel) (by decide +kernel) (by decide +kernel))⟩

/-- A stash mapping at 0x20000 over the first 4 KiB of the local store: s6 holds its parameter word. -/
def mapped : State := ran (.stashMap {} 1 2 6) touching
theorem witness_FencesPrefetchStash :
    (Runs (.prefetch {} 2 5 1) touching ∧ touching.cur.resumed.rep = 0 ∧ ∀ k < reps {}, HasV touching.cur (repA {} 5 k))
    ∧ (∀ i ∈ [Instr.fenceAcq {}, .fenceRel {}, .fenceSc {}, .cfence {}, .publish {}], Runs i touching)
    ∧ (∀ i ∈ [Instr.fenceRel {}, .fenceSc {}], ∀ l ∈ lanesOf (touching.cur.active {}),
        releaseGate (begun i touching) (laneBit l) (touchedDomain touching.cur (laneBit l)) = .go)
    ∧ (Runs (.publish guarded) plain ∧ plain.cur.active guarded = 0)
    ∧ (touching.cur.active {} ≠ 0 ∧ releaseGate (begun (.publish {}) touching) allLanes .system = .go)
    ∧ (Runs (.stashMap {} 1 2 6) touching ∧ u3Has {} 1 2 6 ∧ ∃ t, PerformsOnce {} (fun k s t => ∃ bl e s1,
      let gva := s.cur.getS (repA {} 2 k)
      let x := (s.cur.getS (repB {} 6 k)).toNat
      s.curBlock = some bl ∧ gva.toNat % 4096 = 0 ∧ x / 128 % 2 = 0 ∧ x / 2 ^ 17 = 0 ∧ 1 ≤ x / 256 % 256 ∧ x / 256 % 256 ≤ 128
      ∧ (x % 128 + x / 256 % 256) * 4096 ≤ bl.lsBytes
      ∧ (∀ st ∈ s.core.stash, st.bslot = bl.bslot → st.loff + st.len ≤ x % 128 ∨ x % 128 + x / 256 % 256 ≤ st.loff)
      ∧ (∀ i < x / 256 % 256, stashRegionOk s.curLaunch.regions (gva + BitVec.ofNat 64 (i * 4096)) = true)
      ∧ stashPages s (curCtx s) (x / 2 ^ 16 = 1) gva (x / 256 % 256) 0 = (s1, .ok ())
      ∧ e < 16 ∧ (∀ st ∈ s.core.stash, st.entry ≠ e) ∧ (∀ j < e, ∃ st ∈ s.core.stash, st.entry = j)
      ∧ t = { s1 with
          core := { s1.core with stash := s1.core.stash ++
            [{ entry := e, rw := x / 2 ^ 16 = 1, bslot := bl.bslot, loff := x % 128, len := x / 256 % 256, gva := gva }] }
          cur := s1.cur.setS (repD {} 1 k) (BitVec.ofNat 64 e) }) (begun (.stashMap {} 1 2 6) touching) t)
    ∧ (Runs (.stashUnmap {} 1) mapped ∧ ∃ t, PerformsOnce {} (fun k s t => ∃ st, (s.core.stash.find? fun x =>
        decide (x.entry = (s.cur.getS (repA {} 1 k)).toNat) && decide (x.bslot = s.cur.bslot)) = some st ∧ t = unmapStash s s.core.id st)
        (begun (.stashUnmap {} 1) mapped) t) := by
  refine ⟨by unfold Runs HasV; decide +kernel, by unfold Runs; decide +kernel, by decide +kernel, by unfold Runs; decide +kernel, by decide +kernel,
    ⟨by unfold Runs; decide +kernel, by unfold u3Has; decide +kernel, performsOnce_one (by decide +kernel) (by decide +kernel) (by decide +kernel)
      ⟨_, (begun (.stashMap {} 1 2 6) touching).curBlock.get (by decide +kernel), 0, _, (Option.some_get _).symm, by decide +kernel, by decide +kernel,
        by decide +kernel, by decide +kernel, by decide +kernel, by decide +kernel, by decide +kernel, by decide +kernel, unit_eq (by decide +kernel),
        by decide +kernel, by decide +kernel, by decide +kernel, rfl⟩⟩,
    by unfold Runs; decide +kernel, performsOnce_one (by decide +kernel) (by decide +kernel) (by decide +kernel) ?_⟩
  obtain ⟨st, h⟩ := Option.isSome_iff_exists.1 (by decide +kernel : ((begun (.stashUnmap {} 1) mapped).core.stash.find? fun x =>
    decide (x.entry = ((begun (.stashUnmap {} 1) mapped).cur.getS (repA {} 1 0)).toNat)
      && decide (x.bslot = (begun (.stashUnmap {} 1) mapped).cur.bslot)).isSome = true)
  exact ⟨_, st, h, rfl⟩

theorem touching_quiet : Quiet touching ∧ touching.home.locks = [] ∧ Single {} touching ∧ Untagged {} touching ∧ touching.cur.memrev = true
    ∧ touching.core.l1 = [] ∧ touching.cur.active {} ≠ 0 := by
  unfold Quiet Single Untagged; decide +kernel
theorem nearby_quiet : Quiet nearby ∧ Single {} nearby ∧ Untagged {} nearby ∧ nearby.cur.memrev = true ∧ (nearby.blockAt 512 0).isSome = true := by
  unfold Quiet Single Untagged; decide +kernel
/-- In a trap handler. -/
def handling : State := { touching with cur := { touching.cur with inhdl := true } }
theorem witness_LoadsOfQuietMemory :
    (Runs (.ld {} 62 2 5 5 0 0) touching ∧ (∀ j < tyRegs 5, HasV touching.cur (62 + j)) ∧ HasV touching.cur 5
      ∧ Served (begun (.ld {} 62 2 5 5 0 0) touching) {} (fun s l => checkLane s l (memAddr touching.cur {} 2 5 l) (tyBytes 5) (tyBytes 5) .load)
        fun l => accOf (checkLane (begun (.ld {} 62 2 5 5 0 0) touching) l (memAddr touching.cur {} 2 5 l) (tyBytes 5) (tyBytes 5) .load))
    ∧ (Runs (.ldu {} 62 2 6 0 0) touching ∧ ServedLane (begun (.ldu {} 62 2 6 0 0) touching) (lowLane (touching.cur.active {}))
      (fun s l => checkLane s l (uniformAddr touching.cur {} 2) (tyBytes 6) (tyBytes 6) .load) (accOf (checkLane (begun (.ldu {} 62 2 6 0 0) touching)
        (lowLane (touching.cur.active {})) (uniformAddr touching.cur {} 2) (tyBytes 6) (tyBytes 6) .load)))
    ∧ (Runs (.ldl {} 8 2 5 5 0 0) nearby ∧ ServedLocal (begun (.ldl {} 8 2 5 5 0 0) nearby) {}
        (fun s l => checkLane s l (localAddr nearby.cur {} false 2 5 l) (tyBytes 5) (tyBytes 5) .load) 512 0 (tyBytes 5) fun l => 0x40 + 8 * l.val)
    ∧ (Runs (.ldp {} 8 0 5 5 0) handling ∧ Single {} handling ∧ toScratch handling.cur 0 false = true
      ∧ (offOf {}).toNat + tyBytes 5 ≤ 64 ∧ (offOf {}).toNat % min (tyBytes 5) 4 = 0) := by
  refine ⟨⟨by unfold Runs; decide +kernel, by unfold HasV; decide +kernel, by unfold HasV; decide +kernel,
      served_of (fun l _ => touching_at _ l) (by decide +kernel)⟩,
    ⟨by unfold Runs; decide +kernel, servedLane_of rfl (touching_uniform _ _) (by decide +kernel)⟩,
    ⟨by unfold Runs; decide +kernel, servedLocal_of (fun l _ => nearby_at _ l) (by decide +kernel)⟩, by unfold Runs Single; decide +kernel⟩
theorem witness_StoresToQuietMemory :
    (Runs (.st {} 8 2 5 5 0) touching ∧ Served (begun (.st {} 8 2 5 5 0) touching) {}
      (fun s l => checkLane s l (memAddr touching.cur {} 2 5 l) (tyBytes 5) (tyBytes 5) .store)
      fun l => accOf (checkLane (begun (.st {} 8 2 5 5 0) touching) l (memAddr touching.cur {} 2 5 l) (tyBytes 5) (tyBytes 5) .store))
    ∧ (Runs (.stp {} 8 3 5 4 1) touching ∧ toScratch touching.cur 3 true = false ∧ Served (begun (.stp {} 8 3 5 4 1) touching) {}
      (fun s l => checkPrivate s l false (privAddr touching.cur {} 3 5 true l) 4 .store)
      fun l => accOf (checkPrivate (begun (.stp {} 8 3 5 4 1) touching) l false (privAddr touching.cur {} 3 5 true l) 4 .store))
    ∧ (Runs (.stu {} 62 2 6 0) touching ∧ ServedLane (begun (.stu {} 62 2 6 0) touching) (lowLane (touching.cur.active {}))
      (fun s l => checkLane s l (uniformAddr touching.cur {} 2) (tyBytes 6) (tyBytes 6) .store) (accOf (checkLane (begun (.stu {} 62 2 6 0) touching)
        (lowLane (touching.cur.active {})) (uniformAddr touching.cur {} 2) (tyBytes 6) (tyBytes 6) .store)))
    ∧ (Runs (.stl {} 8 2 5 5 0 0) nearby ∧ ServedLocal (begun (.stl {} 8 2 5 5 0 0) nearby) {}
        (fun s l => checkLane s l (localAddr nearby.cur {} false 2 5 l) (tyBytes 5) (tyBytes 5) .store) 512 0 (tyBytes 5) fun l => 0x40 + 8 * l.val) := by
  refine ⟨⟨by unfold Runs; decide +kernel, served_of (fun l _ => touching_at _ l) (by decide +kernel)⟩,
    ⟨by unfold Runs; decide +kernel, by decide +kernel, served_of (fun l _ => touching_private _ l) (by decide +kernel)⟩,
    ⟨by unfold Runs; decide +kernel, servedLane_of rfl (touching_uniform _ _) (by decide +kernel)⟩,
    by unfold Runs; decide +kernel, servedLocal_of (fun l _ => nearby_at _ l) (by decide +kernel)⟩
theorem witness_AtomicOperations : 2 ^ 32 - 1 < 2 ^ 32 ∧ 0 < 2 ^ 32 := by decide
theorem witness_AtomicsOnQuietMemory :
    (∀ i ∈ [Instr.atom {} 8 2 5 13 0, .red {} 8 2 5 0 0, .redHome {} 8 2 5 0 0], Runs i touching) ∧ (∀ i ∈ [Instr.atoml {} 8 2 5 0, .redl {} 8 2 5 0], Runs i nearby)
    ∧ ServedWord (begun (.atom {} 8 2 5 13 0) touching) {} (fun s l => checkLane s l (memAddr touching.cur {} 2 5 l) 8 8 .atomic true) 8
        (fun l => 0x20000 + 8 * l.val)
    ∧ (Runs (.cas (third 10) 8 2 5 0 0) touching ∧ Single (third 10) touching
      ∧ ServedWord (begun (.cas (third 10) 8 2 5 0 0) touching) (third 10) (fun s l => checkLane s l (memAddr touching.cur (third 10) 2 5 l) 4 4 .atomic) 4
        (fun l => 0x20000 + 8 * l.val))
    ∧ ServedWord (begun (.red {} 8 2 5 0 0) touching) {} (fun s l => checkLane s l (memAddr touching.cur {} 2 5 l) 4 4 .atomic false (redMatch 0)) 4
        (fun l => 0x20000 + 8 * l.val)
    ∧ ServedLocal (begun (.atoml {} 8 2 5 0) nearby) {} (fun s l => checkOwn s l (localAddr nearby.cur {} false 2 5 l) 4) 512 0 4
        (fun l => 0x40 + 8 * l.val) := by
  have h : memAddr touching.cur (third 10) 2 5 = memAddr touching.cur {} 2 5 := rfl
  refine ⟨by unfold Runs; decide +kernel, by unfold Runs; decide +kernel, servedWord_of (fun l _ => touching_at _ l) (by decide +kernel),
    ⟨by unfold Runs; decide +kernel, by unfold Single; decide +kernel, ?_⟩, servedWord_of (fun l _ => touching_at _ l) (by decide +kernel),
    servedLocal_of (fun l _ => nearby_own _ l) (by decide +kernel)⟩
  rw [h]
  exact servedWord_of (fun l _ => touching_at _ l) (by decide +kernel)
theorem witness_LocksOnQuietLines : touching.curBlock.isSome = true ∧ HasV touching.cur 8 ∧ HasV touching.cur 5
    ∧ (Runs (.lock {} 8 2 5) touching ∧ ServedWord (begun (.lock {} 8 2 5) touching) {}
      (fun s l => checkLane s l (memAddr touching.cur {} 2 5 l) 4 4 .lock false lockRegion) 4 fun l => 0x20000 + 8 * l.val)
    ∧ (Runs (.unlock {} 8 2 5) touching ∧ ServedWord (begun (.unlock {} 8 2 5) touching) {}
      (fun s l => checkLane s l (memAddr touching.cur {} 2 5 l) 4 4 .lock false lockRegion) 4 fun l => 0x20000 + 8 * l.val) := by
  refine ⟨by decide +kernel, by unfold HasV; decide +kernel, by unfold HasV; decide +kernel,
    ⟨by unfold Runs; decide +kernel, servedWord_of (fun l _ => touching_at _ l) (by decide +kernel)⟩,
    by unfold Runs; decide +kernel, servedWord_of (fun l _ => touching_at _ l) (by decide +kernel)⟩

/-- A second warp of the block, parked at BAR. -/
def waitingAt (b : BarId) : State :=
  let s := plain
  { s with core := { s.core with warps := [{ s.cur with slot := 1, idx := 1, barpark := 0xFFFFFFFF, parkAt := Vector.replicate 32 b }] } }
theorem witness_Barriers :
    (Runs (.bar guarded) plain ∧ plain.cur.active guarded = 0)
    ∧ (Runs (.bar {}) plain ∧ plain.cur.active {} ≠ 0 ∧ plain.cur.inhdl = false ∧ slowPending plain plain.core.id plain.cur.slot (plain.cur.active {}) = false)
    ∧ (Runs (.bar {}) handling ∧ handling.cur.active {} ≠ 0 ∧ handling.cur.inhdl = true)
    ∧ (Runs (.nbar {} 32 0 15) plain ∧ Runs (.nbar {} 16 1 15) plain ∧ Runs (.nbar {} 0 0 0) plain ∧ Runs (.nbar {} 17 1 0) plain
      ∧ (phaseOf plain false 15).isOpen = false ∧ (phaseOf plain true 15).isOpen = false)
    ∧ (let s := ran (.nbar {} 2 0 5) plain
       (phaseOf s false 5).isOpen = true ∧ (phaseOf s false 5).count = (2 : BitVec 6).toNat)
    ∧ (Runs (.cbar {}) plain ∧ Together plain.cur {} ∧ plain.curLaunch.broken.contains (cohortOf plain.curLaunch plain.cur.block) = false
      ∧ plain.cur.woken = false ∧ releaseGate (begun (.cbar {}) plain) allLanes .cluster = .go)
    ∧ (let s := { plain with cur := { plain.cur with woken := true } }
       Runs (.cbar {}) s ∧ Together s.cur {} ∧ s.cur.woken = true)
    ∧ (let s := ran (.bar {}) (waitingAt .bar)
       (∃ w ∈ (waitingAt .bar).blockWarps 512 0, w.live ≠ 0 ∧ w.allAt .bar = false) ∧ s.cur.barpark = 0)
    ∧ (let s := { plain with cur := { plain.cur with barpark := 0xFFFFFFFF, parkAt := Vector.replicate 32 .bar } }
       (∃ w ∈ s.blockWarps 512 0, w.live ≠ 0) ∧ (∀ w ∈ s.blockWarps 512 0, w.live ≠ 0 → w.allAt .bar = true)
       ∧ ∃ w ∈ s.blockWarps 512 0, w.barpark ≠ 0) := by
  unfold Runs Together
  refine ⟨?_, ?_, ?_, ?_, ?_, ?_, ?_, ?_, ?_⟩ <;> decide +kernel
theorem witness_SignalsAndInterrupts :
    (Runs (.signal {} 2 3 2) touching ∧ ServedLane (begun (.signal {} 2 3 2) touching) (lowLane (touching.cur.active {}))
      (fun s l => checkWord s l (touching.cur.getS 2) .atomic)
      (accOf (checkWord (begun (.signal {} 2 3 2) touching) (lowLane (touching.cur.active {})) (touching.cur.getS 2) .atomic))
      ∧ AtDword (accOf (checkWord (begun (.signal {} 2 3 2) touching) (lowLane (touching.cur.active {})) (touching.cur.getS 2) .atomic)) 0x20000
      ∧ touching.isCur 512 1 = false ∧ (touching.warpAt 512 1).map (fun w => w.wait) = some (.signal none 0x20000 0 0 5 0))
    ∧ (Runs (.waits {} 1 2 3 0) touching ∧ Runs (.waits {} 1 2 3 3) touching ∧ ServedLane (begun (.waits {} 1 2 3 0) touching) (lowLane (touching.cur.active {}))
      (fun s l => checkWord s l (touching.cur.getS 2) .data)
      (accOf (checkWord (begun (.waits {} 1 2 3 0) touching) (lowLane (touching.cur.active {})) (touching.cur.getS 2) .data))
      ∧ AtDword (accOf (checkWord (begun (.waits {} 1 2 3 0) touching) (lowLane (touching.cur.active {})) (touching.cur.getS 2) .data)) 0x20000
      ∧ (touching.cur.getS 3).toNat ≤ touching.home.mem.nat 0x20000 8 ∧ touching.home.mem.nat 0x20000 8 ≠ 2 ^ 64 - 1)
    ∧ (Runs (.softintQ {} 2 3) touching ∧ ∃ t, PerformsOnce {} (fun k s t => releaseGate s allLanes .system = .go
      ∧ t = { s with inputs := s.inputs ++ [.qwake ((s.cur.getS (repA {} 2 k)).toNat % 4096)] }) (begun (.softintQ {} 2 3) touching) t)
    ∧ (Runs (.softintM {} 3) touching ∧ touching.cur.supervisor = true ∧ ∃ t, PerformsOnce {} (fun k s t => releaseGate s allLanes .system = .go
      ∧ t = { s with mgmt := { s.mgmt with wake := s.cur.getS (repB {} 3 k) } }) (begun (.softintM {} 3) touching) t)
    ∧ (Runs (.softintM {} 3) (user touching) ∧ (user touching).cur.supervisor = false ∧ (user touching).cur.active {} ≠ 0) := by
  have hs : touching.cur.getS 2 = uniformAddr touching.cur {} 2 := by decide +kernel
  refine ⟨⟨by unfold Runs; decide +kernel, servedLane_of rfl (by rw [hs]; exact touching_uniform _ _) (by decide +kernel), wordAt_spec (by decide +kernel),
      by decide +kernel⟩,
    ⟨by unfold Runs; decide +kernel, by unfold Runs; decide +kernel, servedLane_of rfl (by rw [hs]; exact touching_uniform _ _) (by decide +kernel),
      wordAt_spec (by decide +kernel), by decide +kernel⟩,
    ⟨by unfold Runs; decide +kernel, performsOnce_one (by decide +kernel) (by decide +kernel) (by decide +kernel) ⟨_, by decide +kernel, rfl⟩⟩,
    ⟨by unfold Runs; decide +kernel, by decide +kernel, performsOnce_one (by decide +kernel) (by decide +kernel) (by decide +kernel)
      ⟨_, by decide +kernel, rfl⟩⟩, by unfold Runs; decide +kernel⟩
/-- Operands of the three copies: an ACOPY of 64 bytes, an AXFORM, an AGATHER of two words; s16 has a reserved bit set, s18 is misaligned. -/
def copying : State :=
  holding zeros2 zeros (unis [(8, 0x21000), (9, 0x20000), (10, 64), (12, 0x1000000001000), (13, 4), (14, 1), (15, 0x400000100), (16, 2 ^ 40), (18, 0x21002),
    (20, apertureBase)])
theorem witness_Copies :
    (∃ t, PerformsOnce {} (fun k => AcceptsCopy 0 (repD {} 8 k) (repA {} 9 k) (repB {} 10 k)) (begun (.acopy {} 8 9 10) copying) t)
    ∧ (∃ t, PerformsOnce {} (fun k => AcceptsCopy 1 (repD {} 20 k) (repA {} 9 k) (repB {} 14 k)) (begun (.axform {} 20 9 14) copying) t)
    ∧ (∃ t, PerformsOnce {} (fun k => AcceptsCopy 2 (repD {} 20 k) (repA {} 9 k) (repB {} 14 k)) (begun (.agather {} 20 9 14) copying) t)
    ∧ (∀ i ∈ [Instr.acopy {} 8 9 10, .axform {} 20 9 14, .agather {} 20 9 14, .acopy {} 8 9 16, .acopy {} 18 9 10], Runs i copying)
    ∧ Single {} copying ∧ copying.cur.active {} ≠ 0 ∧ u3Has {} 8 9 10
    ∧ 2 ^ 40 ≤ (copying.cur.getS 16).toNat
    ∧ ((copying.cur.getS 10).toNat < 2 ^ 40 ∧ inAperture (copying.cur.getS 18) = false ∧ inAperture (copying.cur.getS 9) = false
      ∧ (copying.cur.getS 18).toNat % 4 ≠ 0) := by
  refine ⟨performsOnce_one (by decide +kernel) (by decide +kernel) (by decide +kernel)
      ⟨_, (begun (.acopy {} 8 9 10) copying).curBlock.get (by decide +kernel), (Option.some_get _).symm, by decide +kernel, ?_, by decide +kernel, rfl⟩,
    performsOnce_one (by decide +kernel) (by decide +kernel) (by decide +kernel)
      ⟨_, (begun (.axform {} 20 9 14) copying).curBlock.get (by decide +kernel), (Option.some_get _).symm, by decide +kernel, ?_, by decide +kernel, rfl⟩,
    performsOnce_one (by decide +kernel) (by decide +kernel) (by decide +kernel)
      ⟨_, (begun (.agather {} 20 9 14) copying).curBlock.get (by decide +kernel), (Option.some_get _).symm, by decide +kernel, ?_, by decide +kernel, rfl⟩, ?_⟩
  · intro h e; exact absurd e (by rw [show (copyFields 0 _).2.1 = none by decide +kernel]; simp)
  · intro h e; exact absurd e (by rw [show (copyFields 1 _).2.1 = none by decide +kernel]; simp)
  · intro h e; exact absurd e (by rw [show (copyFields 2 _).2.1 = none by decide +kernel]; simp)
  · unfold Runs Single u3Has
    decide +kernel

/-- The block of `plain` with its batches or handle 31 in a given state. -/
def blocked (f : Block → Block) : State := { plain with core := { plain.core with blocks := plain.core.blocks.map f } }
def batched (used : Bool) (no : Nat) : State := blocked fun b => { b with openUsed := used, openNo := no }
theorem witness_Batches :
    (∀ x ∈ [(false, 0), (true, 15), (true, 16)], Runs (.bclose {}) (batched x.1 x.2) ∧ (batched x.1 x.2).cur.active {} ≠ 0
      ∧ (batched x.1 x.2).curBlock.map (fun b => (b.openUsed, b.openNo - b.retired)) = some x)
    ∧ (∀ i ∈ [Instr.waitb {} 0, .waitb {} 15], Runs i plain ∧ Runs i (batched false 16))
    ∧ (plain.cur.resume = none ∧ plain.curBlock.map (fun b => (b.openNo - b.retired, b.batchFails)) = some (0, []))
    ∧ ((begun (.waitb {} 15) (batched false 16)).curBlock.map fun b => b.openNo - b.retired) = some 16
    ∧ ((batched true 17).blockAt 512 0).map (fun b => decide (b.retired ≤ b.openNo ∧ b.openNo ≤ b.retired + 17)) = some true := by
  unfold Runs; decide +kernel
def handled (n : BitVec 2) (e : Option Trap) : State :=
  blocked fun b => { b with handles := b.handles.set 31 { state := n, len := 64, deliv := 32, err := e } }
theorem witness_Handles :
    (∀ n ∈ [0, 1, 2, 3], ∀ i ∈ [Instr.hwaitFull {} 31, .hwaitFree {} 31, .hsetDrain {} 31, .hsetFree {} 31, .wptr {} 4 31], Runs i (handled n none)
      ∧ (handled n none).curBlock.map (fun b => (b.handles.getD 31 {}).state) = some n ∧ (handled n none).cur.active {} ≠ 0
      ∧ (handled n none).cur.woken = false ∧ slowPending (handled n none) 512 0 allLanes = false ∧ Single {} (handled n none))
    ∧ (∀ i ∈ [Instr.hwaitFull {} 31, .wptr {} 4 31], Runs i (handled 2 (some (trap 0x20 0x05))))
    ∧ (handled 2 (some (trap 0x20 0x05))).curBlock.map (fun b => (b.handles.getD 31 {}).err) = some (some (trap 0x20 0x05)) := by
  unfold Runs Single
  refine ⟨?_, ?_, ?_⟩ <;> decide +kernel
/-- A system handler is set. -/
def armed : State := { plain with mgmt := { plain.mgmt with sysHandler := 0x40000 } }
theorem witness_TrapInstructions :
    (∀ i ∈ [Instr.trapI {} 255, .bkpt {} 0], Runs i armed ∧ ∀ code ∈ [0x08, 0x09],
      winner armed.mgmt.lichen true armed.cur.supervisor false (faultKey { code := code, sub := 255, lanes := armed.cur.executing } (some (encodeBase i))) = none)
    ∧ ((armed.launchOf armed.cur.launch).isSome = true ∧ armed.cur.active {} ≠ 0 ∧ armed.cur.micro = none ∧ armed.mgmt.trctl = 0
      ∧ armed.cur.inhdl = false ∧ armed.cur.tmask = false ∧ armed.mgmt.sysHandler ≠ 0)
    ∧ (Runs (.rti {}) handling ∧ handling.cur.active {} ≠ 0 ∧ handling.cur.inhdl = true) ∧ Runs (.rti {}) plain
    ∧ (Runs (.tmask {} 1) plain ∧ plain.cur.supervisor = true) ∧ (Runs (.tmask {} 0) (user plain) ∧ (user plain).cur.supervisor = false) := by
  unfold Runs; decide +kernel
theorem witness_SystemRegisters :
    (Runs (.sysrd {} 5 0x40) plain ∧ Single {} plain ∧ plain.cur.active {} ≠ 0 ∧ immediate {} (0x40 : BitVec 11) = 0x40
      ∧ (sysRead (begun (.sysrd {} 5 0x40) plain) 0x40).isSome = true)
    ∧ (Runs (.sysrd {} 5 0x60) plain ∧ immediate {} (0x60 : BitVec 11) = 0x60 ∧ Runs (.sysrd {} 5 0x7FF) plain ∧ immediate {} (0x7FF : BitVec 11) < 0)
    ∧ (∀ n ∈ [0x10, 0x11, 0x40, 0x41], Runs (.syswr {} 4 n) plain ∧ plain.cur.supervisor = true ∧ immediate {} n = n.toNat)
    ∧ (Runs (.syswr {} 4 0x5F) (user plain) ∧ Runs (.syswr {} 4 0x40) (user plain) ∧ (user plain).cur.supervisor = false
      ∧ (sysRead (begun (.syswr {} 4 0x40) (user plain)) 0x40).isSome = true) := by
  unfold Runs Single; decide +kernel
theorem witness_TranslationInvalidation :
    Single {} plain ∧ plain.cur.active {} ≠ 0 ∧ (∀ i ∈ [Instr.tlbinvPage {} 3 4, .tlbinvRange {} 3 4 5, .tlbinvSpace {} 3 4],
      (Runs i plain ∧ plain.cur.supervisor = true ∧ plain.cur.woken = false ∧ releaseGate (begun i plain) allLanes .system = .go)
      ∧ (Runs i (user plain) ∧ (user plain).cur.supervisor = false)
      ∧ (let t := ran i plain
         let s := { t with cur := { t.cur with woken := true, wait := .none } }
         Runs i s ∧ Single {} s ∧ s.cur.woken = true ∧ (s.shootdowns.find? fun x => x.core = s.core.id && x.slot = s.cur.slot).isSome = true)) := by
  unfold Runs Single; decide +kernel

/-- A job card at 0x20000, named by s6, and a matrix that s4 and s5 name; a tile handle of 64 rows by 32 columns of BF16 in t2; a job of the warp waits. -/
def computing : State :=
  let s := holding zeros2 zeros (unis [(4, 0x20000), (5, 0x80), (6, 0x20000)]) [(0x20000, [0, 0, 3]), (0x20008, [0, 0, 4]), (0x20020, [2, 0, 0, 0, 2])]
  { s with cur := { s.cur with t := s.cur.t.set 2 (64 <<< 64 ||| 2 <<< 56 ||| 31 <<< 44 ||| 63 <<< 32) } }
def zeroing : State := ran (.mzero {} 1) computing
def failing : State := { computing with cur := { computing.cur with jobFails := [(1, trap 0x28 0x06)] } }
theorem witness_MatrixInstructions :
    (Runs (.mjob {} 6) computing ∧ Together computing.cur {} ∧ ∃ t, PerformsOnce {} (fun k s t => ∃ s1 w,
        readCard s (s.cur.getS (repA {} 6 k)) = (s1, .ok w) ∧ w.check (subscribed s1) = none ∧ w.topAcc ≤ 7 ∧ HasAcc s1 w.topAcc
        ∧ TakesJob (.card w) w.accs w.start (Domain.max (sideDomain s1 w w.sideA 2 64) (sideDomain s1 w w.sideB 3 32)) s1 t)
        (begun (.mjob {} 6) computing) t)
    ∧ (Runs (.mzero {} 0xFF) computing ∧ (∀ i < 8, (0xFF : BitVec 8).getLsbD i = true → HasAcc computing i) ∧ ∃ t, PerformsOnce {} (fun _ s t =>
        if (0xFF : BitVec 8) = 0 then t = s else TakesJob (.zero 0xFF) 0xFF (Vector.replicate 5 0) .core s t) (begun (.mzero {} 0xFF) computing) t)
    ∧ (let s := { computing with cur := { computing.cur with nacc := 7 } }; Runs (.mzero {} 0x80) s ∧ s.cur.active {} ≠ 0 ∧ ¬HasAcc s 7)
    ∧ (Runs (.mwait {} 0xFF) computing ∧ Runs (.mwaitAll {}) computing ∧ computing.core.jobs = [] ∧ computing.cur.jobFails = [])
    ∧ (Runs (.mwait {} 1) zeroing ∧ Runs (.mwaitAll {}) zeroing ∧ (∀ i < 8, (1 : BitVec 8).getLsbD i = true → HasAcc zeroing i)
      ∧ ∃ j ∈ zeroing.core.jobs.filter fun j => j.slot = zeroing.cur.slot && j.snap.isNone, j.accs &&& (1 : BitVec 8) ≠ 0)
    ∧ (Runs (.mwait {} 1) failing ∧ failing.cur.jobFails = [(1, trap 0x28 0x06)] ∧ failing.core.jobs = [])
    ∧ (Runs (.mldaTile {} 2 2) computing ∧ ∃ t, PerformsOnce {} (fun k s t => HasAcc s (repD {} 2 k) ∧ ∃ base pitch fmt,
        tileOf s (s.cur.getT (repA {} 2 k)) true = .ok (base, pitch, fmt)
        ∧ TakesJob (.load (repD {} 2 k) base pitch fmt) (accBit (repD {} 2 k)) (Vector.replicate 5 0) (rowsDomain s base pitch fmt) s t)
        (begun (.mldaTile {} 2 2) computing) t)
    ∧ (Runs (.mldaGlobal {} 2 4 0) computing ∧ ∃ t, PerformsOnce {} (fun k s t => HasAcc s (repD {} 2 k) ∧ (let base := s.cur.getS (repA {} 4 k)
        let pitch := s.cur.getS (repA {} 4 k + 1)
        base.toNat % 64 = 0 ∧ pitch.toNat % 64 = 0
        ∧ TakesJob (.load (repD {} 2 k) base pitch 0) (accBit (repD {} 2 k)) (Vector.replicate 5 0) (rowsDomain s base pitch 0) s t))
        (begun (.mldaGlobal {} 2 4 0) computing) t)
    ∧ (Runs (.mstaTile {} 2 0 9 0) computing ∧ ∃ t, PerformsOnce {} (fun k s t => HasAcc s (repA {} 0 k) ∧ ∃ base pitch fmt,
        tileOf s (s.cur.getT (repD {} 2 k)) false = .ok (base, pitch, fmt) ∧ inAperture base = true
        ∧ (∀ i < 64, inAperture (matRowAddr base pitch i) = true
            ∧ inAperture (matRowAddr base pitch i + BitVec.ofNat 64 (32 * matBytes fmt - 1)) = true)
        ∧ TakesJob (.store (repA {} 0 k) base pitch fmt (some ((s.cur.getS (repB {} 9 k)).setWidth 32)) (rndOf {}) (satOf {}))
            (accBit (repA {} 0 k)) (Vector.replicate 5 0) (rowsDomain s base pitch fmt) s t) (begun (.mstaTile {} 2 0 9 0) computing) t)
    ∧ (Runs (.mstaGlobal {} 4 2 9 1 0) computing ∧ (∀ r ∈ computing.curLaunch.regions, r.own = false) ∧ ∃ t, PerformsOnce {} (fun k s t =>
        HasAcc s (repA {} 2 k) ∧ (let base := s.cur.getS (repD {} 4 k)
        let pitch := s.cur.getS (repD {} 4 k + 1)
        base.toNat % 64 = 0 ∧ pitch.toNat % 64 = 0
        ∧ TakesJob (.store (repA {} 2 k) base pitch 0 none (rndOf {}) (satOf {})) (accBit (repA {} 2 k)) (Vector.replicate 5 0)
            (rowsDomain s base pitch 0) s t)) (begun (.mstaGlobal {} 4 2 9 1 0) computing) t) := by
  refine ⟨⟨by unfold Runs; decide +kernel, by unfold Together; decide +kernel, performsOnce_one (by decide +kernel) (by decide +kernel) (by decide +kernel)
      ⟨_, _, _, served_eq (by decide +kernel), by decide +kernel, by decide +kernel, by unfold HasAcc; decide +kernel,
        by decide +kernel, by decide +kernel, 0, by decide, by decide +kernel, by decide +kernel, rfl⟩⟩,
    ⟨by unfold Runs; decide +kernel, by unfold HasAcc; decide +kernel, performsOnce_one (by decide +kernel) (by decide +kernel) (by decide +kernel)
      ⟨_, by rw [if_neg (by decide)]; exact ⟨by decide +kernel, by decide +kernel, 0, by decide, by decide +kernel, by decide +kernel, rfl⟩⟩⟩,
    by unfold Runs HasAcc; decide +kernel, by unfold Runs; decide +kernel, by unfold Runs HasAcc; decide +kernel, by unfold Runs; decide +kernel,
    ⟨by unfold Runs; decide +kernel, performsOnce_one (by decide +kernel) (by decide +kernel) (by decide +kernel)
      ⟨_, by unfold HasAcc; decide +kernel, _, _, _, passed_eq (by decide +kernel),
        by decide +kernel, by decide +kernel, 0, by decide, by decide +kernel, by decide +kernel, rfl⟩⟩,
    ⟨by unfold Runs; decide +kernel, performsOnce_one (by decide +kernel) (by decide +kernel) (by decide +kernel)
      ⟨_, by unfold HasAcc; decide +kernel, by decide +kernel, by decide +kernel,
        by decide +kernel, by decide +kernel, 0, by decide, by decide +kernel, by decide +kernel, rfl⟩⟩,
    ⟨by unfold Runs; decide +kernel, performsOnce_one (by decide +kernel) (by decide +kernel) (by decide +kernel)
      ⟨_, by unfold HasAcc; decide +kernel, _, _, _, passed_eq (by decide +kernel), by decide +kernel, by decide +kernel,
        by decide +kernel, by decide +kernel, 0, by decide, by decide +kernel, by decide +kernel, rfl⟩⟩,
    by unfold Runs; decide +kernel, by decide +kernel, performsOnce_one (by decide +kernel) (by decide +kernel) (by decide +kernel)
      ⟨_, by unfold HasAcc; decide +kernel, by decide +kernel, by decide +kernel,
        by decide +kernel, by decide +kernel, 0, by decide, by decide +kernel, by decide +kernel, rfl⟩⟩
/-- A stream that the warp has opened: window 1, identifier 3, one subscriber. -/
def streaming : State := ran (.mstreamSub {} 5) (holding zeros2 zeros (unis [(4, 0x20000), (5, 0x803), (6, 3), (7, 0)]))
theorem witness_OperandStreams :
    (let s := holding zeros2 zeros (unis [(4, 0x20000), (5, 0x803), (6, 3), (7, 0)])
     let x := (s.cur.getS 5).toNat
     Runs (.mstreamSub {} 5) s ∧ Single {} s ∧ s.cur.active {} ≠ 0 ∧ s.mgmt.hasMatrix s.core.id = true ∧ x < 2 ^ 17 ∧ x / 2 ^ 11 ≠ 0
      ∧ s.curLaunch.streams = [] ∧ clusterStreams s (s.core.id / 128) < 64
      ∧ Runs (.mstreamSub {} 4) s ∧ 2 ^ 17 ≤ (s.cur.getS 4).toNat ∧ Runs (.mstreamSub {} 7) s ∧ (s.cur.getS 7).toNat / 2 ^ 11 % 64 = 0
      ∧ Runs (.mstreamUnsub {} 6) s ∧ subscribed s ((s.cur.getS 6).toNat % 16) = false)
    ∧ (Runs (.mstreamUnsub {} 6) streaming ∧ Single {} streaming ∧ streaming.cur.active {} ≠ 0 ∧ streaming.mgmt.hasMatrix streaming.core.id = true
      ∧ subscribed streaming ((streaming.cur.getS 6).toNat % 16) = true
      ∧ Runs (.mstreamSub {} 5) streaming ∧ (streaming.cur.getS 5).toNat < 2 ^ 17)
    ∧ (∀ n ∈ [1, 2], let s := { streaming with launches := streaming.launches.map fun l => { l with
         streams := l.streams.map fun y => { y with count := n, subs := [] } } }
       Runs (.mstreamSub {} 5) s ∧ Single {} s ∧ subscribed s ((s.cur.getS 5).toNat % 16) = false
        ∧ (s.curLaunch.streams.find? (fun y => y.id = (s.cur.getS 5).toNat % 16 && y.cohort = cohortOf s.curLaunch s.cur.block)).map (fun y => y.count)
          = some n ∧ (s.cur.getS 5).toNat / 16 % 128 + 1 = 1)
    ∧ (let s := holding zeros2 zeros (unis [(5, 0x803)])
       let y : Stream := { cohort := 0, id := 0, cluster := s.core.id / 128, count := 1 }
       let s := { s with launches := s.launches ++ [{ id := 9, q := 0, pkt := {}, streams := List.replicate 64 y }] }
       Runs (.mstreamSub {} 5) s ∧ s.curLaunch.streams = [] ∧ 64 ≤ clusterStreams s (s.core.id / 128)) := by
  unfold Runs Single
  refine ⟨?_, ?_, ?_, ?_⟩ <;> decide +kernel

/-- A warp of draw 7's geometry launch; and one whose die's held packets leave no room for another of a later draw, which the crossbar holds. -/
def emitting : State := { plain with launches := plain.launches.map fun l => { l with draw := some 7 } }
def crowdedDie : ShadeDie := { socket := 2, held := List.replicate 1572864 (frondOf 7 fun _ => 0) }
def crowded : State := { emitting with geom := { emitting.geom with dies := [crowdedDie], packets := [(2, 2, frondOf 7 fun _ => 0)] } }
theorem crowded_full : heldRoom crowdedDie = false := by
  have h : crowdedDie.held.length = 1572864 := List.length_replicate
  unfold heldRoom; rw [h]; decide +kernel
theorem crowded_holds : frontHolds crowded (crowded.core.id / 256) 7 = true := by
  unfold frontHolds
  rw [show crowded.geom.dies = [crowdedDie] from rfl, List.any_cons, crowded_full]
  decide +kernel
theorem witness_VisibilityEmission :
    (Runs (.visemit {} 0 57 0 3) emitting ∧ Single {} emitting ∧ emitting.curLaunch.draw = some 7 ∧ HasV emitting.cur 0
      ∧ (∀ j < 7, HasV emitting.cur (57 + j)) ∧ frontHolds emitting (emitting.core.id / 256) 7 = false)
    ∧ (Runs (.visemit {} 0 57 0 3) crowded ∧ Single {} crowded ∧ crowded.curLaunch.draw = some 7
      ∧ frontHolds crowded (crowded.core.id / 256) 7 = true)
    ∧ (Runs (.visemit {} 0 57 0 3) plain ∧ plain.curLaunch.draw = none) := by
  refine ⟨by unfold Runs Single HasV; decide +kernel, ⟨by unfold Runs; decide +kernel, by unfold Single; decide +kernel, by decide +kernel, crowded_holds⟩,
    by unfold Runs; decide +kernel⟩
/-- A tile of a pass, lane 0 live, its first target at 0x20000 in format R32F; v8 names pixel (0, 0). -/
def painting : State :=
  let s := holding zeros2 zeros zeros
  let p := passOf 0 0 s.cur.launch
  only 1 { s with
    launches := s.launches.map fun l => { l with pass := some 0 }
    geom := { s.geom with passes := [{ p with targets := p.targets.set 0 (0x20000, 64, 2) }] } }
theorem witness_TilePixels :
    (Runs (.visrd {} 62 3) painting ∧ Runs (.visrdPix {} 62 8 0 3) painting ∧ Single {} painting
      ∧ (curTile painting).map (fun x => x.2) = some (0, 0) ∧ HasV painting.cur 62 ∧ HasV painting.cur 63 ∧ HasV painting.cur 8)
    ∧ (∃ p, (curTile painting).map (fun x => x.1) = some p ∧ Runs (.rpix {} 0 0 4 0 8 0) painting ∧ p.targets[0].2.2 = 2
      ∧ ∃ t, Performs {} (fun k s t => ∃ s1 as s2 vs,
        checkLanes s (lanesOf (painting.cur.active {})) (fun s l => checkPixel s p 0 0 0 (repB {} 8 k) l) = (s1, .ok as)
        ∧ Sweeps (PaintsLane 0 2 (tileOwner s1.mgmt 0 0) (repA {} 4 k)) as s1 s2 vs
        ∧ (let w := (s2.cur.lastUse s2.cur.executing 0 ((List.range 1).map fun j => repA {} 4 k + j)).lastUse s2.cur.executing 0 [repB {} 8 k]
           t = touchAll { s2 with cur := w } as)) (begun (.rpix {} 0 0 4 0 8 0) painting) t)
    ∧ ((Runs (.visrd {} 62 0) plain ∧ Runs (.visrdPix {} 62 8 0 0) plain ∧ Runs (.rpix {} 0 0 4 0 8 0) plain) ∧ curTile plain = none) ∧ 4 < 5
    ∧ (∃ p, (curTile painting).map (fun x => x.1) = some p ∧ (painting.cur.active {}).getLsbD 0 = true ∧ p.targets[1].1 = 0 ∧ p.targets[0].1 ≠ 0
      ∧ ∀ j : Fin 32, (painting.cur.active {}).getLsbD j.val = true → j = 0)
    ∧ (∀ j < 4, HasV painting.cur (4 + j))
    ∧ let s := only 1 { painting with cur := { painting.cur with v := painting.cur.v.set 8 (Vector.replicate 32 16) } }
      Runs (.rpix {} 0 0 4 0 8 0) s ∧ (s.cur.getV 8 0).toNat % 2 ^ 14 / 16 ≠ 0 := by
  refine ⟨by unfold Runs Single HasV; decide +kernel,
    ⟨((curTile painting).map fun x => x.1).get (by decide +kernel), (Option.some_get _).symm, by unfold Runs; decide +kernel, by decide +kernel,
      performs_one (by decide +kernel) (by decide +kernel) ?_⟩, by unfold Runs; decide +kernel, by decide,
    ⟨((curTile painting).map fun x => x.1).get (by decide +kernel), (Option.some_get _).symm, by decide +kernel⟩, by unfold HasV; decide +kernel,
    by unfold Runs; decide +kernel⟩
  exact paints_of rfl (by decide +kernel) (by decide +kernel)
/-- A set of one page at 0x30000 whose descriptor is at 0x20000, and a texture of one texel at 0x40000 whose descriptor is at 0x20100, fetched; the
map of both, at 0x28000, says that page 0 is there; lane 0 live. -/
def mapping : State :=
  only 1 (holding zeros2 zeros (unis [(4, 0x20000), (5, 0x20101)]) [(0x20002, [3]), (0x20008, [1]), (0x20011, [0x80, 2]), (0x20019, [0x80, 2]),
    (0x20102, [4]), (0x20111, [0x80, 2]), (0x20119, [0x80, 2]), (0x28000, [1])])
theorem witness_MapsAndTextures :
    (∃ t, Runs (.ldcl {} 10 4 2 4 0) mapping
      ∧ Performs {} (fun k => ClustersOnce {} (repD {} 10 k) (repA {} 2 k) 4 4 false) (begun (.ldcl {} 10 4 2 4 0) mapping) t)
    ∧ (∃ t, Runs (.tex {} 8 2 0 5) mapping
      ∧ Performs {} (fun k => TexturesOnce {} (repD {} 8 k) (repA {} 2 k) 0 (repB {} 5 k) false) (begun (.tex {} 8 2 0 5) mapping) t)
    ∧ ∃ t, Runs (.texfb {} 8 2 0 5) mapping
      ∧ Performs {} (fun k => TexturesOnce {} (repD {} 8 k) (repA {} 2 k) 0 (repB {} 5 k) true) (begun (.texfb {} 8 2 0 5) mapping) t := by
  refine ⟨(performs_one (by decide +kernel) (by decide +kernel) (clustersOnce_of (by decide +kernel))).imp fun t h => ⟨by unfold Runs; decide +kernel, h⟩,
    (performs_one (by decide +kernel) (by decide +kernel) (texturesOnce_of (by decide +kernel))).imp fun t h => ⟨by unfold Runs; decide +kernel, h⟩,
    (performs_one (by decide +kernel) (by decide +kernel) (texturesOnce_of (by decide +kernel))).imp fun t h => ⟨by unfold Runs; decide +kernel, h⟩⟩
/-- A ray of lane 0 from the origin along x, and rays of the lane that are suspended at a candidate, or still run. -/
def tracing : State := only 1 (holding (vecs [(12, [0x3F800000]), (15, [0x42C80000])]) zeros
  (unis [(2, 0x20003), (3, 0x2007E), (4, 0x20004), (5, 0x20003)]))
def withRay (r : Ray) : State :=
  { tracing with cur := { tracing.cur with threads := tracing.cur.threads.set 0 { tracing.cur.threads[0] with ray := some r } } }
def suspended (first : Bool) : State :=
  withRay { dst := 16, cand := true, first := first, regs := [], stack := [], current := some ⟨0, 0, 0, 0, 0⟩, status := .candidate }
def busy : State := withRay { dst := 16, regs := [], stack := [] }
theorem witness_Rays :
    (∀ s ∈ [tracing, busy], (∀ i ∈ [Instr.rtrace {} 58 8 0 2, .rtrace {} 58 8 0 4, .rquery {} 47 8 0 3, .rquery {} 47 8 0 5, .rtcont {} 58 0], Runs i s)
      ∧ Single {} s ∧ s.cur.active {} ≠ 0 ∧ (∀ j < 6, HasV s.cur (58 + j)) ∧ (∀ j < 8, HasV s.cur (8 + j)))
    ∧ (raysBusy tracing.cur (tracing.cur.active {}) = false ∧ raysBusy busy.cur (busy.cur.active {}) = true)
    ∧ ((tracing.cur.getS 2).toNat / 4 % 16 = 0 ∧ (tracing.cur.getS 4).toNat / 4 % 16 ≠ 0)
    ∧ (∀ l : Fin 32, (tracing.cur.active {}).getLsbD l.val = true → rayMisses ((List.range 8).map fun i => tracing.cur.getV (8 + i) l) = false)
    ∧ (let s := only 1 (holding zeros2 zeros (unis [(2, 0x20003)]))
       Runs (.rtrace {} 58 8 0 2) s ∧ (s.cur.active {}).getLsbD 0 = true ∧ rayMisses ((List.range 8).map fun i => s.cur.getV (8 + i) 0) = true
        ∧ raysBusy s.cur (s.cur.active {}) = false)
    ∧ ((tracing.cur.getS 3).toNat / 4 % 16 + 1 = 16 ∧ (∀ j < 16 + 1, HasV tracing.cur (47 + j)) ∧ (tracing.cur.getS 3).toNat % 4 ≠ 3
      ∧ (tracing.cur.getS 5).toNat % 4 = 3)
    ∧ (∀ o ∈ [0, 1, 2, 3], ∀ first ∈ [false, true], Runs (.rtcont {} 58 o) (suspended first)
      ∧ raysBusy (suspended first).cur ((suspended first).cur.active {}) = false
      ∧ ((suspended first).cur.threads[0].ray.map fun r => (r.query, r.first, r.current.isSome)) = some (none, first, true))
    ∧ tracing.cur.threads[0].ray = none := by
  unfold Runs Single HasV
  refine ⟨?_, ?_, ?_, ?_, ?_, ?_, ?_, ?_⟩ <;> decide +kernel
theorem witness_HitSort :
    (Runs (.hsort {} 63 5 0) plain ∧ Single {} plain ∧ Together plain.cur {} ∧ HasV plain.cur 63 ∧ HasV plain.cur 5 ∧ plain.cur.away = false
      ∧ plain.home.held = []
      ∧ ∀ w ∈ plain.core.warps, w.bslot = plain.cur.bslot → w.live = 0)
    ∧ (let s := waitingAt .bar
       Runs (.hsort {} 63 5 0) s ∧ Single {} s ∧ Together s.cur {} ∧ s.home.held = []
        ∧ ∃ w ∈ s.core.warps, w.bslot = s.cur.bslot ∧ w.live ≠ 0 ∧ w.wait ≠ .hsort) := by
  unfold Runs Single Together HasV; decide +kernel
/-- Two members of the issuing launch: slot 0 of a composite of one tile, slot 63 of a reduction of one block; the source is at 0x20000. -/
def joined : State :=
  let s := holding zeros2 zeros (unis [(4, 0x20000), (5, 0), (6, 63), (7, 5 * 2 ^ 32), (8, 2 ^ 32)])
  let m : Member := { slot := 0, launch := s.cur.launch, core := 512, desc := Vector.replicate 8 0, root := 0, frame := 1, done := [(1, 3)] }
  { s with coll := { s.coll with members := [m, { m with slot := 63, desc := (Vector.replicate 8 0).set 0 0x31001 }] } }
def asking (a : Option Bool) : State :=
  { joined with coll := { joined.coll with members := joined.coll.members.map fun m =>
      { m with waiter := some (joined.core.id, joined.cur.slot, joined.cur.genReg), answer := a } } }
theorem witness_CollectiveInstructions :
    (Runs (.cpost {} 4 8) joined ∧ ∃ t, PerformsOnce {} (fun k s t => ∃ m j w s1 d,
      let va := s.cur.getS (repA {} 4 k)
      let x := s.cur.getS (repB {} 8 k)
      let frame : Word := BitVec.ofNat 32 (x.toNat / 2 ^ 32)
      postCheck s false x va = .ok (m, j, w) ∧ frameBefore (m.frame + 1) frame = false
      ∧ unitRead s va (j.payload + 32) = (s1, .ok d) ∧ (frame, w) ∉ m.posted ∧ postLate s1 m frame = false
      ∧ t = packetArrives (setMember (touchRead s1 va (j.payload + 32)) { m with posted := m.posted ++ [(frame, w)] }) (leafPacket j frame w d)) (begun (.cpost {} 4 8) joined) t)
    ∧ (let s := { joined with cur := { joined.cur with s := joined.cur.s.set 8 (2 ^ 32 + 63) } }
       Runs (.cred {} 4 8) s ∧ ∃ t, PerformsOnce {} (fun k s t => ∃ m j w s1 d,
      let va := s.cur.getS (repA {} 4 k)
      let x := s.cur.getS (repB {} 8 k)
      let frame : Word := BitVec.ofNat 32 (x.toNat / 2 ^ 32)
      postCheck s true x va = .ok (m, j, w) ∧ frameBefore (m.frame + 1) frame = false
      ∧ unitRead s va j.payload = (s1, .ok d) ∧ (frame, w) ∉ m.posted ∧ postLate s1 m frame = false
      ∧ t = packetArrives (setMember (touchRead s1 va j.payload) { m with posted := m.posted ++ [(frame, w)] }) (leafPacket j frame w d)) (begun (.cred {} 4 8) s) t)
    ∧ (Runs (.cwait {} 1 8 0) joined ∧ Runs (.cwait {} 1 7 0) joined ∧ Runs (.cwait {} 1 5 1) joined ∧ Single {} joined ∧ joined.cur.active {} ≠ 0
      ∧ (boundMember joined 0).map (fun m => (m.failed, m.frame, m.done)) = some (false, 1, [(1, 3)]) ∧ frameBefore 5 1 = false ∧ frameBefore 0 1 = true)
    ∧ (∀ a ∈ [some true, some false, none], Runs (.cjoin {} 1 4) (asking a) ∧ Single {} (asking a) ∧ (asking a).cur.active {} ≠ 0
      ∧ (joining (asking a)).map (fun m => m.answer) = some a)
    ∧ (Runs (.cjoinLeave {} 6) joined ∧ (joined.cur.getS 6).toNat < 64 ∧ (boundMember joined (joined.cur.getS 6).toNat).isSome = true) := by
  refine ⟨?_, ?_, by unfold Runs Single; decide +kernel, by unfold Runs Single; decide +kernel, by unfold Runs; decide +kernel⟩
  · refine ⟨by unfold Runs; decide +kernel, performsOnce_one (by decide +kernel) (by decide +kernel) (by decide +kernel) ⟨_, _, _, _, _, _, passed_eq (by decide +kernel), by decide +kernel,
      taken_eq (by decide +kernel), by decide +kernel, by decide +kernel, rfl⟩⟩
  · refine ⟨by unfold Runs; decide +kernel, performsOnce_one (by decide +kernel) (by decide +kernel) (by decide +kernel) ⟨_, _, _, _, _, _, passed_eq (by decide +kernel), by decide +kernel,
      taken_eq (by decide +kernel), by decide +kernel, by decide +kernel, rfl⟩⟩

/-! The events of the machine, on states in which they happen. -/

/-- `plain` with its core, its warp, its homes changed. -/
def cored (f : Core → Core) : State := { plain with core := f plain.core }
def homed (f : Home → Home) : State := { plain with home := f plain.home }
def returning (d : RetDest) : State := cored fun k => { k with returns := [{ dest := d, value := 5 }] }
def stashing (n : BitVec 2) : State :=
  cored fun k => { k with stash := [{ entry := 3, rw := true, bslot := 0, loff := 0, len := 4096, gva := 0, lines := [{ n := 63, page := 0x10000, state := n, pa := 0x900, key := 0 }] }] }
def updating : State :=
  cored fun k => { k with upd := [{ line := 0x900, key := 0, cfmt := 2, launch := 0, elems := [{ idx := 0, acc := 1 }, { idx := 7, acc := 2 }] }] }
def entered (e : DirEntry) : State := homed fun h => { h with dir := [e] }
/-- Lane 31 of the warp waits with an acquire for a token whose writes are drained. -/
def promoting : State := warped fun w => { w with wait := .promote 0x80000001, threads := w.threads.set 31 { w.threads[31] with pending := [⟨512, 0xFFFF⟩] } }
theorem witness_HomeEvents :
    (∀ d ∈ [(⟨512, 0, 0, true, 0, 63, 5⟩ : RetDest), ⟨512, 0, 0, false, 31, 63, 4⟩, ⟨512, 0, 0, false, 0, 60, 7⟩, ⟨512, 0, 1, false, 0, 0, 4⟩],
      ((returning d).coreAt 512).returns.find? (fun r => r.dest.slot = 0) = some { dest := d, value := 5 } ∧ ((returning d).warpAt 512 0).isSome = true
      ∧ (d.uniform = false → d.lane < 32 ∧ (5 : Dword).toNat < 256 ^ tyBytes d.ty ∧ ∀ k < tyRegs d.ty, HasV (returning d).cur (d.reg + k)))
    ∧ ((returning ⟨512, 0, 0, true, 0, 63, 5⟩).warpAt 512 0).map (fun w => w.genReg) = some 0
    ∧ (let s := { returning ⟨512, 0, 0, false, 31, 63, 4⟩ with cur := { plain.cur with away := true } }
       (s.warpAt 512 0).map (fun w => (w.genReg, w.away)) = some (0, true))
    ∧ backed plain.mgmt (2 ^ 48) 1 = false
    ∧ (Quiet plain ∧ plain.home.locks = [] ∧ 5 ≠ plain.fabric.self ∧ (nodeOf plain 5).failed = false ∧ backed plain.mgmt 0x2003F 1 = true
      ∧ 0x2003F % 64 + 1 ≤ 64)
    ∧ (∀ n ∈ [1, 2, 3], ((stashing n).coreAt 512).stash.find? (fun x => x.entry = 3) = (stashing n).core.stash[0]?
      ∧ ((stashing n).core.stash.map fun st => (st.lineAt 63).map fun l => (l.state, l.pa)) = [some (n, 0x900)])
    ∧ (((stashing 3).coreAt 512).blocks.find? (fun b => b.bslot = 0)).isSome = true
    ∧ (((updating.coreAt 512).upd.find? (fun u => u.line = 0x900)) = updating.core.upd[0]? ∧ granFails updating (0x900 * 64) 0 = none
      ∧ updating.core.upd.map (fun u => (u.tag, u.elems.map fun e => (e.idx, decide ((e.idx + 1) * elemBytes u.cfmt ≤ 64)))) = [(none, [(0, true), (7, true)])])
    ∧ (∀ e ∈ [({ line := 0x900, state := 4, holders := [.remote 5], awaited := [.remote 5] } : DirEntry),
        { line := 0x900, state := 4, holders := [.remote 5], awaited := [.remote 5], keep := true },
        { line := 0x900, state := 4, holders := [], awaited := [.remote 5, .remote 6] }],
      (entered e).home.held = [] ∧ dirAt (entered e) 0x900 = some e ∧ e.state = 4 ∧ e.awaited.contains (.remote 5) = true)
    ∧ ((promoting.warpAt 512 0).map (fun w => (w.present, w.wait)) = some (true, .promote 0x80000001) ∧ tokenDrained promoting ⟨512, 0xFFFF⟩ = true
      ∧ (promoting.warpAt 512 0).map (fun w => w.threads[31].pending) = some [⟨512, 0xFFFF⟩])
    ∧ (plain.home.held = [] ∧ plain.home.moved = [] ∧ plain.records = [] ∧ plain.home.placed = [] ∧ neverMoves plain 9 = false
      ∧ ∃ away : BitVec 7, mayHost plain.mgmt 9 away = true)
    ∧ ∀ n ∈ [1, 2, 3], let s := homed fun h => { h with placed := [⟨9, n, 3, 0, []⟩], moved := [(9, 0)] }
      let s := { s with clock := 1048576 }
      s.home.held = [] ∧ s.records = [] ∧ assoc 9 s.home.moved = some 0 ∧ s.clock ≥ 0 + 1048576
        ∧ (s.home.placed.find? fun p => p.block = 9 && p.state = n) = some ⟨9, n, 3, 0, []⟩ := by
  unfold HasV Quiet
  refine ⟨?_, ?_, ?_, ?_, ?_, ?_, ?_, ?_, ?_, ?_, ?_, ?_⟩ <;> decide +kernel

theorem witness_FabricAndPowerEvents :
    5 ≠ plain.fabric.self
    ∧ (plain.fabric.leaseOn = true ∧ { plain with clock := 200000 }.clock ≥ plain.fabric.renewed + 200000 ∧ plain.clock < plain.fabric.renewed + 200000)
    ∧ (∀ r ∈ [[], [5]], let e : DirEntry := { line := 0x900, state := 4, holders := [.remote 5], awaited := [.remote 5], reported := r }
       let s := { entered e with clock := 80000 }
       dirAt s 0x900 = some e ∧ e.awaited.contains (.remote 5) = true ∧ e.reported.contains 5 = !r.isEmpty ∧ s.clock ≥ e.since + 80000)
    ∧ (∀ n ∈ [1, 2, 3], let e : DirEntry := { line := 0x900, state := n, holders := [.remote 5] }
       (entered e).home.held = [] ∧ (entered e).coll = {} ∧ (entered e).home.dir = [e] ∧ e.awaited = [])
    ∧ (Distinct plain ∧ (∀ n ∈ [2, 12], plain.mgmt.badSockets.contains n = false) ∧ plain.mgmt.memDies.contains 12 = true
      ∧ plain.mgmt.badPorts.contains 0 = false)
    ∧ (plain.mgmt.corrected = [] ∧ plain.mgmt.uncorrectable = []) := by
  unfold Distinct; decide +kernel

/-- A copy that has been accepted, one that owns its lines, one that waits for room. -/
def copied : State := ran (.acopy {} 8 9 10) copying
def owning : State := ran (.ownershipPoint 512 0) copied
def pausing (i : Instr) : State := { copying with cur := { copying.cur with wait := .copyRoom, parked := some i } }
theorem witness_CopyEvents :
    (∃ x s1 got, chanHead copied 512 0 = some x ∧ x.owned = false ∧ x.status = .running
      ∧ takeLines copied (copyCtx copied 512 x) (copyIssuer 512 x) x.lines
        (if inAperture x.dst then [] else lineAddrs (x.dst.toNat + x.deliv) (x.len - x.deliv)) = (s1, got, .ok ()))
    ∧ (∃ x s1 z d s2, chanHead owning 512 0 = some x ∧ x.owned = true ∧ x.status = .running ∧ x.deliv < x.len
      ∧ (let n := min (x.len - x.deliv) (64 - (x.dst.toNat + x.deliv) % 64)
         let va := x.dst + BitVec.ofNat 64 x.deliv
         readPieces owning 512 x (piecesOf x x.deliv n) = (s1, z, .ok d)
         ∧ engWrite s1 (copyCtx s1 512 x) (copyIssuer 512 x) x.lines va d = (s2, .ok true) ∧ s2.home.held = []))
    ∧ ∀ i ∈ [Instr.acopy {} 8 9 10, .axform {} 20 9 14, .agather {} 20 9 14], let f := (pausing i).focus 512 0
      f.isCur 512 0 = true ∧ acceptable f 512 f.cur = true ∧ f.cur.parked = some i := by
  refine ⟨⟨(chanHead copied 512 0).get (by decide +kernel), _, _, (Option.some_get _).symm, by decide +kernel, by decide +kernel, ended3_eq (by decide +kernel)⟩,
    ⟨(chanHead owning 512 0).get (by decide +kernel), _, _, _, _, (Option.some_get _).symm, by decide +kernel, by decide +kernel, by decide +kernel,
      gone_eq (by decide +kernel), wrote_eq (by decide +kernel), by decide +kernel⟩, by decide +kernel⟩

/-- Two warps of the block, the first with a lane set if one is given; a shootdown that one core or two are still to count for. -/
def paired (sets : Vector (Option (Nat × Nat)) 8) : State :=
  { cored fun k => { k with active := sets, warps := [{ plain.cur with slot := 1, idx := 1 }] } with clock := 1024 }
def counting (wait : List Nat) : State :=
  { warped (fun w => { w with wait := .tlbinv }) with
    shootdowns := [{ core := 512, slot := 0, space := 0, lo := 0x20000, bytes := 0x10000, wait := wait, count := 2816 }] }
theorem witness_WarpEvents :
    (let s := paired (Vector.replicate 8 none)
     Distinct s ∧ (∀ n ∈ [0, 7], (s.coreAt 512).active.toList.getD n none = none) ∧ readyPending s 512 ≠ [])
    ∧ (let s := paired ((Vector.replicate 8 none).set 7 (some (0, 0)))
       Distinct s ∧ some (0, 0) ∈ (s.coreAt 512).active.toList ∧ 0 + 1024 ≤ s.clock ∧ readyPending s 512 ≠ [])
    ∧ (∀ x ∈ (plain.coreAt 512).active.toList, x = none ∨ x = some (0, plain.clock))
    ∧ (∀ s ∈ [only 0 plain, only 0 (paired (Vector.replicate 8 none))], Distinct s
      ∧ ∃ w, s.warpAt 512 0 = some w ∧ w.live = 0 ∧ outstanding s 512 w = false ∧ jobsOf s 512 w = [])
    ∧ (∀ v ∈ (only 0 plain).warpsOf 512, v.slot = 0) ∧ (∃ v ∈ (only 0 (paired (Vector.replicate 8 none))).warpsOf 512, v.slot ≠ 0)
    ∧ ((warped fun w => { w with wait := .signal none 0x20000 0 0 1 0 }).warpAt 512 0).map (fun w => w.wait) = some (.signal none 0x20000 0 0 1 0)
    ∧ ∀ r ∈ [[512], [512, 513]], let s := counting r
      (∀ x ∈ s.shootdowns, 512 ∈ x.wait ∧ shootdownReady s 512 x = true) ∧ s.shootdowns.length = 1 ∧ s.home.held = [] ∧ (s.coreAt 512).stash = []
        ∧ (s.coreAt 512).upd = [] ∧ (s.coreAt 512).copies = [] ∧ (s.warpAt 512 0).map (fun w => w.wait) = some .tlbinv := by
  unfold Distinct
  refine ⟨by decide +kernel, by decide +kernel, by decide +kernel, ?_, by decide +kernel, by decide +kernel, by decide +kernel, by decide +kernel⟩
  intro s hs
  simp only [List.mem_cons, List.not_mem_nil, or_false] at hs
  rcases hs with rfl | rfl <;>
    exact ⟨by decide +kernel, Option.get _ (by decide +kernel), (Option.some_get _).symm, by decide +kernel, by decide +kernel, by decide +kernel⟩

/-- Jobs that wait: a load with one row left, a store to local store, a card with one row left to stage; a card whose A comes from a stream of the warp's. -/
def reworked (s : State) (f : Job → Job) : State := { s with core := { s.core with jobs := s.core.jobs.map f } }
def loading : State := reworked (ran (.mldaGlobal {} 2 4 0) computing) fun j => { j with row := 63 }
def storing : State := ran (.mstaTile {} 2 0 9 0) computing
def walking : State := reworked (ran (.mjob {} 6) computing) fun j => { j with staged := List.replicate 95 ([0, 0], 0) }
def subscribing : State :=
  ran (.mjob {} 6) (ran (.mstreamSub {} 5) (holding zeros2 zeros (unis [(5, 0x803), (6, 0x20000)])
    [(0x20000, [0, 0, 3]), (0x20008, [0, 0, 4]), (0x20020, [2, 0, 0, 0, 2]), (0x20031, [7])]))
/-- The card of a job. -/
def cardOf (j : Job) : Card := match j.kind with | .card w => w | _ => Vector.replicate 16 0
/-- The first job of core 512, its warp, and that it is due. -/
def job (s : State) (h : ((s.coreAt 512).jobs.head?).isSome = true) : Job := (s.coreAt 512).jobs.head?.get h
def due (s : State) : Bool := match (s.coreAt 512).jobs.head?, s.warpAt 512 0 with
  | some j, some w => decide ((s.coreAt 512).jobs.find? (fun x => x.entry = j.entry) = some j ∧ j.status = .running ∧ j.snap = none ∧ j.slot = 0
      ∧ w.preempted = false ∧ w.genAcc = j.genAcc)
  | _, _ => false
theorem witness_JobEvents_zero :
    ∃ j, (zeroing.coreAt 512).jobs.head? = some j ∧ due zeroing = true ∧ j.kind = .zero 1 ∧ matBlocked (zeroing.coreAt 512) j 1 false = false :=
  ⟨job zeroing (by decide +kernel), (Option.some_get _).symm, by decide +kernel, by decide +kernel, by decide +kernel⟩
theorem witness_JobEvents_load :
    ∃ j s1 j1 w1, (loading.coreAt 512).jobs.head? = some j ∧ due loading = true ∧ j.kind = .load 2 0x20000 0x80 0
      ∧ matBlocked (loading.coreAt 512) j (accBit 2) true = false ∧ loadRows loading 512 0x20000 0x80 0 (64 - j.row) j = (s1, j1, .ok ())
      ∧ s1.warpAt 512 j.slot = some w1 ∧ w1.genAcc = j.genAcc :=
  ⟨job loading (by decide +kernel), _, _, Option.get _ (by decide +kernel), (Option.some_get _).symm, by decide +kernel, by decide +kernel,
      by decide +kernel, ended3_eq (by decide +kernel), (Option.some_get _).symm, by decide +kernel⟩
theorem witness_JobEvents_store :
    ∃ j w x s1 j1, (storing.coreAt 512).jobs.head? = some j ∧ due storing = true ∧ j.kind = .store 0 apertureBase 0x40 2 (some 0) 0 false
      ∧ matBlocked (storing.coreAt 512) j (accBit 0) false = false ∧ storing.warpAt 512 0 = some w ∧ w.acc[0]? = some x
      ∧ storeRows storing 512 x apertureBase 0x40 2 (some 0) 0 false (64 - j.row) j = (s1, j1, .ok ()) ∧ s1.home.held = [] :=
  ⟨job storing (by decide +kernel), Option.get _ (by decide +kernel), Option.get _ (by decide +kernel), _, _, (Option.some_get _).symm,
      by decide +kernel, by decide +kernel, by decide +kernel, (Option.some_get _).symm, (Option.some_get _).symm,
      ended3_eq (by decide +kernel), by decide +kernel⟩
theorem witness_JobEvents_card :
    ∃ j words kk m0 n0 a w x s1 j1 s2 j2 w2, (walking.coreAt 512).jobs.head? = some j ∧ due walking = true ∧ j.kind = .card words
      ∧ Card.point words j.idx = (kk, m0, n0, a) ∧ (Card.sideA words).strm = false ∧ (Card.sideB words).strm = false
      ∧ matBlocked (walking.coreAt 512) j (accBit a) true = false ∧ walking.warpAt 512 0 = some w ∧ w.acc[a]? = some x
      ∧ stageSide walking 512 j (Card.sideA words) m0 kk 0 64 = (s1, j1, .ok ()) ∧ stageSide s1 512 j1 (Card.sideB words) n0 kk 64 32 = (s2, j2, .ok ())
      ∧ s2.warpAt 512 j.slot = some w2 ∧ w2.genAcc = j.genAcc :=
  ⟨job walking (by decide +kernel), cardOf (job walking (by decide +kernel)), _, _, _, _, Option.get _ (by decide +kernel), Option.get _ (by decide +kernel),
      _, _, _, _, Option.get _ (by decide +kernel), (Option.some_get _).symm, by decide +kernel, by decide +kernel, quad_eq, by decide +kernel,
      by decide +kernel, by decide +kernel, (Option.some_get _).symm, (Option.some_get _).symm, ended3_eq (by decide +kernel),
      ended3_eq (by decide +kernel), (Option.some_get _).symm, by decide +kernel⟩
theorem witness_JobEvents_stream :
    ∃ j words kk m0 n0 a st y s1 j1 st1 y1, (subscribing.coreAt 512).jobs.head? = some j ∧ due subscribing = true ∧ j.kind = .card words ∧ j.staged = []
      ∧ Card.point words j.idx = (kk, m0, n0, a) ∧ (Card.sideA words).strm = true ∧ matBlocked (subscribing.coreAt 512) j (accBit a) true = false
      ∧ streamOf subscribing 512 j (Card.sideA words).sid = some (st, y) ∧ st.subs.length = st.count ∧ (∀ z ∈ st.subs, y.used < z.used + z.window)
      ∧ (∀ b ∈ st.fetched, b.n ≠ y.used) ∧ stageRows subscribing 512 (Card.sideA words) kk j m0 64 = (s1, j1, .ok ())
      ∧ streamOf s1 512 j (Card.sideA words).sid = some (st1, y1) ∧ y1 = y ∧ st1.cohort = st.cohort :=
  ⟨job subscribing (by decide +kernel), cardOf (job subscribing (by decide +kernel)), _, _, _, _, _, _, _, _, _, _, (Option.some_get _).symm, by decide +kernel,
      by decide +kernel, by decide +kernel, quad_eq, by decide +kernel, by decide +kernel, two_eq (by decide +kernel), by decide +kernel,
      by decide +kernel, by decide +kernel, ended3_eq (by decide +kernel), two_eq (by decide +kernel), by decide +kernel, by decide +kernel⟩
/-- Lane 31's ray as it is about to go on, its results in v58 and above, or v47 and above for a query. -/
def ray : Ray := { dst := 58, regs := [], stack := [] }
def hit : Hit := { t := 0x3F800000 }
def traversing (r : Ray) : State :=
  { plain with cur := { plain.cur with threads := plain.cur.threads.set 31 { plain.cur.threads[31] with ray := some r } } }
theorem witness_RayEvents :
    (∀ r ∈ [ray, { ray with best := some hit }, { ray with query := some 0, k := 16, dst := 47, items := [(1, 2)], count := 1 },
      { ray with found := [(hit, true)], best := some hit }, { ray with found := [(hit, false)], cand := true },
      { ray with found := [(hit, true)], first := true }, { ray with found := [(hit, true)] }],
      ((traversing r).warpAt 512 0).map (fun w => (w.present, w.preempted, w.threads[31].ray)) = some (true, false, some r)
      ∧ r.status = .running ∧ r.todo = [] ∧ r.stack = [] ∧ r.spilled = 0)
    ∧ plain.sched.late = false ∧ hit.before hit = false ∧ (∀ i < 6, HasV plain.cur (58 + i)) ∧ ∀ i < 16 + 1, HasV plain.cur (47 + i) := by
  unfold HasV; decide +kernel

/-- A warp, a copy and a job that stand on a fault; RESP, at 0x20000, reads as the number given. -/
def answering (n : Nat) : State :=
  let s := holding zeros2 zeros zeros [(0x20000, [n])]
  let t := trap 0x10 0x01
  { s with
    cur := { s.cur with wait := .resp 0x20000 t 0 }
    core := { s.core with
      copies := [{ chan := 3, kind := 0, dst := 0, src := 0, w0 := 0, len := 64, batch := 0, bslot := some 0, genLS := 0, launch := 0, block := 0,
                   rank := 0, warp := 0, supv := true, status := .faulted 0x20000 t 0 }]
      jobs := [{ entry := 7, slot := 0, order := 0, kind := .zero 1, accs := 1, genAcc := 0, launch := 0, block := 0, warp := 0, status := .faulted 0x20000 t 0 }] } }
theorem witness_FaultResponses :
    (∀ n ∈ [0, 1, 2], let s := answering n
      physWaits s 0x20000 8 false = none ∧ (physNat s 0x20000 8).2 = n
      ∧ (s.warpAt 512 0).map (fun w => (w.wait, w.preempted)) = some (.resp 0x20000 (trap 0x10 0x01) 0, false)
      ∧ ((s.coreAt 512).copies.find? fun x => x.chan.toNat = 3 && x.status ≠ .running).map (fun x => x.status) = some (.faulted 0x20000 (trap 0x10 0x01) 0)
      ∧ ((s.coreAt 512).jobs.find? fun j => j.entry = 7).map (fun x => x.status) = some (.faulted 0x20000 (trap 0x10 0x01) 0))
    ∧ (let s := { answering 0 with home := { (answering 0).home with dir := [{ line := 0x800, state := 4, awaited := [.remote 5] }] } }
       (physWaits s 0x20000 8 false).isSome = true ∧ (s.warpAt 512 0).map (fun w => w.wait) = some (.resp 0x20000 (trap 0x10 0x01) 0)) := by
  refine ⟨?_, ?_⟩ <;> decide +kernel

/-- Nothing runs. Queue 9, enabled, with a ring of four at 0x30000 and its trap queue at 0x50000, has one item, of the bytes given. -/
def idle (s : State) : State := { s with cur := {}, core := { id := 512 }, launches := [] }
def queueing (item : List (Nat × List Nat)) : State :=
  let s := idle (holding zeros2 zeros zeros item)
  { s with queues := [{ q := 9, desc := #v[0x1101, 0x30000, BitVec.ofNat 64 rootAt, 0, 0x50000, 63, 0, 0], qtail := 1 }] }
/-- A wait item for the word at 0x20000 to reach a value; a launch item of one block of 32 threads, for general cores or for geometry cores. -/
def awaiting (v : Nat) : State := queueing [(0x30000, [2, 0, 0, 0, 0, 0, 0, 0, 0, 0, 2]), (0x30010, [v])]
def launching (cores : Nat) : State :=
  queueing [(0x30000, [1, 2 * cores, 31, 0, 0x80]), (0x30008, [0, 0, 1]), (0x30018, [1]), (0x3001C, [1]), (0x3001E, [1])]
/-- The word that the item waits for carries a token of core 512, whose writes are not home yet. -/
def tagging : State :=
  let s := awaiting 0
  { s with core := { s.core with relEpoch := 1 }, home := { s.home with prom := [⟨512, 1, 0x800⟩] } }
/-- The queue's wait item has met its condition, and waits for a token's writes, which are home or not. -/
def acquiring (e : Nat) : State :=
  { tagging with queues := tagging.queues.map fun q => { q with tokens := [⟨512, BitVec.ofNat 16 e⟩] } }
/-- The word of queue 9's wait item is read, and something holds of the read. -/
def polls (s : State) (c : State → Loaded → Bool) : Bool :=
  let x := headItem s (s.queueOf 9)
  match devCheck x.1 (queueCtx ((s.queueOf 9).word 2) (s.queueOf 9).sup) (BitVec.ofNat 64 (bitsOf x.2 127 64)) 8 .data with
  | (s2, .ok a) => (match loadAcc s2 (queueIssuer s2 0) a true 3 with | (s3, .ok y) => c s3 y | _ => false)
  | _ => false
theorem polls_spec {s : State} {c : State → Loaded → Bool} (h : polls s c = true) : ∃ s2 a s3 y,
    devCheck (headItem s (s.queueOf 9)).1 (queueCtx ((s.queueOf 9).word 2) (s.queueOf 9).sup)
      (BitVec.ofNat 64 (bitsOf (headItem s (s.queueOf 9)).2 127 64)) 8 .data = (s2, .ok a)
    ∧ loadAcc s2 (queueIssuer s2 0) a true 3 = (s3, .ok y) ∧ c s3 y = true := by
  unfold polls at h
  dsimp only at h
  split at h
  · split at h
    · exact ⟨_, _, _, _, ‹_›, ‹_›, h⟩
    · cases h
  · cases h
def launched : State := match step (launching 0) with | .next t => t | _ => launching 0
/-- The launch of `plain` is over. -/
def finished : State := { idle plain with launches := plain.launches.map fun l => { l with nextCohort := cohortsOf l } }
/-- A record of 64 bytes waits for the trap queue at 0x50000, of 2^n entries, whose tail and head are given. -/
def recording (n tail head : Nat) : State :=
  let s := queueing [(0x50000, (leBytes 8 tail).map BitVec.toNat), (0x50008, (leBytes 8 head).map BitVec.toNat), (0x50010, [n])]
  { s with records := [{ trapq := 0x50000, bytes := List.replicate 64 7 }] }
theorem witness_QueueEvents :
    ((plain.queueOf 9).enabled = false ∧ (let x := (queueing []).queueOf 9
      x.enabled = true ∧ x.qtail.toNat ≤ (1 : Dword).toNat ∧ (4 : Dword).toNat ≤ x.qhead.toNat + x.ring ∧ (0 : Dword).toNat < x.qtail.toNat
        ∧ x.qhead.toNat + x.ring < (5 : Dword).toNat))
    ∧ (4095 < 4096 ∧ plain.mgmt.boot = .running ∧ ∃ t1 t2 t3 t4, exec (.qtail 4095 5) plain = .next t1 ∧ exec (.clear 4095) plain = .next t2
      ∧ exec (.preempt 4095) plain = .next t3 ∧ exec (.resume 4095) plain = .next t4)
    ∧ (Distinct plain ∧ (∀ l ∈ plain.launches, l.q = 0 ∧ l.killed = false) ∧ queueBlocks plain 0 ≠ [] ∧ (∀ y ∈ queueBlocks plain 0, y.2.preempted = false)
      ∧ (plain.launchOf 0).isSome = true)
    ∧ (∀ s ∈ [awaiting 0, awaiting 1, tagging], headDue s (s.queueOf 9) = true ∧ (s.queueOf 9).tokens = []
      ∧ isWait (headItem s (s.queueOf 9)).2 = true ∧ bitsOf (headItem s (s.queueOf 9)).2 127 64 % 8 = 0)
    ∧ polls (awaiting 0) (fun s y => signalHolds 0 (BitVec.ofNat 64 (leNat y.bytes)) 0 && y.tokens.all (tokenDrained s)) = true
    ∧ polls (awaiting 1) (fun _ y => !signalHolds 0 (BitVec.ofNat 64 (leNat y.bytes)) 1) = true
    ∧ polls tagging (fun s y => signalHolds 0 (BitVec.ofNat 64 (leNat y.bytes)) 0 && y.tokens.any fun k => !tokenDrained s k) = true
    ∧ (∀ e ∈ [0, 1], headDue (acquiring e) ((acquiring e).queueOf 9) = true ∧ ((acquiring e).queueOf 9).tokens ≠ []
      ∧ ((acquiring e).queueOf 9).tokens.all (tokenDrained (acquiring e)) = decide (e = 0))
    ∧ headDue plain (plain.queueOf 9) = false
    ∧ (let s := queueing [(0x30000, [3])]
       headDue s (s.queueOf 9) = true ∧ isWait (headItem s (s.queueOf 9)).2 = false ∧ mayStart (headItem s (s.queueOf 9)).1 9 (headItem s (s.queueOf 9)).2 = true
        ∧ (headItem s (s.queueOf 9)).2 % 16 ≠ 1)
    ∧ (∀ n ∈ [0, 1], let s := launching n
       let x := headItem s (s.queueOf 9)
       headDue s (s.queueOf 9) = true ∧ isWait x.2 = false ∧ mayStart x.1 9 x.2 = true ∧ x.2 % 16 = 1 ∧ badPacket x.2 = false ∧ (packetOf x.2).ext = 0
        ∧ (packetOf x.2).cores = BitVec.ofNat 2 n ∧ (let y := readRegions x.1 ((s.queueOf 9).word 3)
          y.2.isSome = true ∧ launchStatus y.1.mgmt (packetOf x.2) .none true = 0 ∧ ∀ l ∈ y.1.launches, l.id ≠ x.1.nextLaunch))
    ∧ (launched.launches.length = 1 ∧ (∀ l ∈ launched.launches, waitsForPlace l = true ∧ l.nextCohort = 0 ∧ cohortsOf l = 1 ∧ l.micro = 0 ∧ l.pkt.lsg ≤ 128
        ∧ (findPlace { launched with placeDue := false } l 0).isSome = true) ∧ (∀ k ∈ launched.allCores, k.blocks = [] ∧ k.warps = [])
      ∧ launched.cur.present = false)
    ∧ ((plain.launchOf 0).map (launchDone plain) = some false ∧ (finished.launchOf 0).map (launchDone finished) = some true
      ∧ finished.signals = [] ∧ (∀ k ∈ finished.allCores, k.upd = []) ∧ (∀ l ∈ finished.launches, l.pubLines = [] ∧ l.pkt.donesig = 0) ∧ (∀ d ∈ finished.geom.dies, d.renderLines = [])
      ∧ finished.coll.members = [])
    ∧ ∀ x ∈ [(1, 1, 0), (16, 65535, 0), (4, 0, 2 ^ 64 - 15)], let s := recording x.1 x.2.1 x.2.2
      let word := fun k => s.home.mem.nat (0x50000 + 8 * k) 8
      Quiet s ∧ s.home.locks = [] ∧ s.records.length = 1 ∧ (∀ r ∈ s.records, r.unit = none ∧ r.done = none ∧ r.block = false ∧ r.bytes.length = 64 ∧ r.trapq % 64 = 0 ∧ r.trapq = (s.queueOf 9).trapq.toNat)
        ∧ 1 ≤ word 2 % 32 ∧ word 2 % 32 ≤ 16 ∧ (word 0 + 2 ^ 64 - word 1) % 2 ^ 64 < 2 ^ (word 2 % 32) ∧ word 3 / 2 ^ 12 % 4 = 0 := by
  unfold Distinct Quiet
  exact ⟨by decide +kernel, ⟨by decide, by decide +kernel, ⟨_, _, _, _, rfl, rfl, rfl, rfl⟩⟩, by decide +kernel, by decide +kernel, by decide +kernel,
    by decide +kernel, by decide +kernel, by decide +kernel, by decide +kernel, by decide +kernel, by decide +kernel, by decide +kernel, by decide +kernel,
    by decide +kernel⟩

/-- A draw of geometry die 0, all of whose blocks are placed; a token and a packet on their way to shading die 2, in service or not. -/
def drawing (f : Draw → Draw) (g : Geom → Geom) : State :=
  { plain with geom := g { plain.geom with draws := [f { index := 7, launch := 3, placedAll := true }] } }
def arriving (draw frontier : Word) (held : List Frond) : State :=
  { plain with geom := { plain.geom with
    packets := [(0, 2, ⟨draw, 0, 0, 0, 0, 0, 0, 0, 0⟩)]
    dies := plain.geom.dies.map fun d => { d with frontier := frontier, held := held }
    passes := [{ passOf 9 0 0 with first := 5, last := 9 }] } }
def without (s : State) : State := { s with mgmt := { s.mgmt with badSockets := [2] } }
/-- Queue 9 with a pass of one tile whose draws are over; byte 10 of its descriptor says whether the tile is cleared and all of it shaded. -/
def opening (b : Nat) : State :=
  queueing [(0x4000A, [b]), (0x40080, [1, 0, 0xFF, 0, 0x80]), (0x4008A, [1]), (0x40098, [1]), (0x4009C, [1]), (0x4009E, [1])]
def opened (b : Nat) : State :=
  let s := openPass (opening b) 9 0x40000
  { s with geom := { s.geom with dies := s.geom.dies.map fun d => { d with frontier := 1 } } }
def shaded : State := { opened 0x40 with geom := { (opened 0x40).geom with passes := (opened 0x40).geom.passes.map fun p => { p with done := [(0, 0)] } } }
/-- The tile (0, 0) of the pass of queue 9 is final and is resolved, and something holds of that. -/
def resolves (s : State) (c : State → Pass → List (Word × Word) → Bool) : Bool := match tilePass s 9 0 0 with
  | some p => (match resolveTile s p (tileOwner s.mgmt 0 0) 0 0 false with | (s1, .ok l) => c s1 p l | _ => false)
  | none => false
theorem resolves_spec {s : State} {c : State → Pass → List (Word × Word) → Bool} (h : resolves s c = true) :
    ∃ p s1 l, tilePass s 9 0 0 = some p ∧ resolveTile s p (tileOwner s.mgmt 0 0) 0 0 false = (s1, .ok l) ∧ c s1 p l = true := by
  unfold resolves at h
  split at h
  · split at h
    · exact ⟨_, _, _, ‹_›, ‹_›, h⟩
    · cases h
  · cases h
theorem witness_GraphicsEvents :
    (let s := drawing id id
     (s.geom.draws.find? fun d => d.index = 7).map (fun d => (d.placedAll, d.tokens, d.received)) = some (true, [], [])
      ∧ s.mgmt.geomDies.contains 0 = true ∧ s.mgmt.geomDies.contains 1 = true ∧ s.home.held = []
      ∧ ∀ k ∈ s.allCores, socketOf k.id ≠ 0)
    ∧ (dieAt (without plain) 2).isSome = true ∧ dieUp (without plain) 2 = false ∧ (dieAt plain 2).isSome = true ∧ dieUp plain 2 = true
    ∧ ([((7, 7), false), ((7, 8), true), ((8, 7), false)].all fun (x : (Word × Word) × Bool) => let s := arriving x.1.1 x.1.2 []
      decide ((dieAt s 2).isSome = true ∧ (s.geom.packets.find? fun y => y.2.1 = 2 && y.2.2 = ⟨x.1.1, 0, 0, 0, 0, 0, 0, 0, 0⟩).isSome = true
        ∧ dieUp s 2 = true ∧ drawBefore x.1.1 x.1.2 = x.2
        ∧ ((dieAt s 2).map fun d => (d.frontier, d.held, heldRoom d, binRoom d)) = some (x.1.2, [], true, true)
        ∧ ∃ y ∈ s.geom.passes, inPass y x.1.1 = true)) = true
    ∧ (let s := without (arriving 7 7 [])
       (dieAt s 2).isSome = true ∧ dieUp s 2 = false)
    ∧ (let s := { idle plain with mgmt := { plain.mgmt with flushMove := true } }
       s.mgmt.flushMove = true ∧ s.launches = []) ∧ plain.launches ≠ []
    ∧ (∃ p s1 l, tilePass (opened 0x40) 9 0 0 = some p
      ∧ resolveTile (opened 0x40) p (tileOwner (opened 0x40).mgmt 0 0) 0 0 false = (s1, .ok l)
      ∧ decide ((passLaunch s1 p).killed = false ∧ p.shadeAll = false ∧ (l.all fun x => x.1 = 0xFFFFFFFF) = true) = true)
    ∧ (∃ p s1 l, tilePass (opened 0xC0) 9 0 0 = some p
      ∧ resolveTile (opened 0xC0) p (tileOwner (opened 0xC0).mgmt 0 0) 0 0 false = (s1, .ok l)
      ∧ decide ((passLaunch s1 p).killed = false ∧ p.shadeAll = true
        ∧ (placeTile s1 (passLaunch s1 p) (tileOwner (opened 0xC0).mgmt 0 0) (tileBlock p 0 0)).isOk = true) = true)
    ∧ (shaded.geom.passes.find? fun p => p.q = 9 && passDone shaded p).isSome = true
    ∧ (plain.queueOf 9).enabled = false
    ∧ ∃ s1 b s2 rs, ((opening 0x40).queueOf 9).enabled = true ∧ (0x40000 : Dword).toNat % 64 = 0
      ∧ physRead (opening 0x40) (0x40000 : Dword).toNat 192 0 = (s1, .ok b)
      ∧ readRegions s1 (((opening 0x40).queueOf 9).word 3) = (s2, some rs) ∧ badPass (leNat b) s2.geom.drawCounter rs = false
      ∧ (packetOf (bitsOf (leNat b) 1535 1024)).ext = 0 ∧ launchStatus s2.mgmt (packetOf (bitsOf (leNat b) 1535 1024)) .none true = 0 := by
  exact ⟨by decide +kernel, by decide +kernel, by decide +kernel, by decide +kernel, by decide +kernel, by decide +kernel, by decide +kernel, by decide +kernel,
    by decide +kernel, resolves_spec (by decide +kernel), resolves_spec (c := fun s1 p _ => decide ((passLaunch s1 p).killed = false ∧ p.shadeAll = true
        ∧ (placeTile s1 (passLaunch s1 p) (tileOwner (opened 0xC0).mgmt 0 0) (tileBlock p 0 0)).isOk = true)) (by decide +kernel),
    by decide +kernel, by decide +kernel, ⟨_, _, _, _, by decide +kernel, by decide, readable_eq (by decide +kernel),
      holding_eq (by decide +kernel), by decide +kernel, by decide +kernel, by decide +kernel⟩⟩

/-- A reduction of one block whose result goes to 0x40000, its members' parts, its root here, a merge point of a tree of four ranks. -/
def reduction (deadline : Dword) : Vector Dword 8 := #v[0x431001, deadline, 0, 0x40000, 0, 0, 0, 0]
def part (frame : Word) (lo n : Nat) : CollPacket :=
  { cid := 0x1001, tensor := true, fmt := 0, frame := frame, loc := 0, spanlo := lo, spann := n, pcount := n, firstMiss := none, held := false, cover := 0
    payload := List.replicate 4096 0, crcOk := true }
def rooted (f : Root → Root) : State :=
  { plain with coll := { plain.coll with roots := [f { cid := 0x1001, desc := reduction 0, core := 512, lau := plain.curLaunch, frame := 4 }] } }
def pointed (f : Point → Point) : State :=
  { plain with coll := { plain.coll with points := [f { cid := 0x1001, op := 3, n := 4, owned := [(0, 2)], frame := 4 }] } }
def member (root : Nat) : Member := { slot := 63, launch := 0, core := 512, desc := reduction 0, root := root, late := [3] }
def enrolled (root : Nat) : State := { plain with coll := { plain.coll with members := [member root] } }
/-- The frame of `rooted`, closed. -/
def complete : State := rooted fun r => { r with closed := true }
theorem witness_CollectiveEvents :
    (let j := joinDesc (descOf (descBytes (reduction 0)))
     (collRoot plain j.cid).isNone = true ∧ (collRoot (rooted id) j.cid).isSome = true ∧ 5 ≠ plain.fabric.self
      ∧ ((collRoot (rooted id) j.cid).map fun r => (sameDesc (descOf (descBytes (reduction 0))) r.desc, r.members)) = some (true, []))
    ∧ ((memberAt (asking none) 63).map fun m => (m.waiter.isSome, m.answer)) = some (true, none)
    ∧ ((pointOf plain 0x1001).isNone = true ∧ ((pointOf (pointed id) 0x1001).map fun x => x.early) = some [])
    ∧ ((collRoot (rooted fun r => { r with desc := reduction 1 }) 0x1001).map fun r => r.close) = some (some 1)
    ∧ (pointOf (rooted fun r => { r with desc := reduction 1 }) 0x1001).isNone = true
    ∧ (let s := { pointed (fun x => { x with close := some 3, parts := [part 4 0 1] }) with clock := 1200 }
       (collRoot s 0x1001).isNone = true ∧ ((pointOf s 0x1001).map fun x => (x.close, x.closed)) = some (some 3, false) ∧ 3 ≤ s.fabricTick)
    ∧ ({ part 4 0 1 with crcOk := false }.crcOk = false ∧ (part 4 0 1).crcOk = true ∧ (collRoot plain 0x1001).isNone = true)
    ∧ (let s := rooted fun r => { r with parts := [part 4 2 1], early := [part 5 2 1], removed := [3], left := [1] }
       ∃ r, collRoot s 0x1001 = some r ∧ ¬((part 4 0 1).spann = 1 ∧ ((part 4 0 1).spanlo ∈ r.removed ∨ (part 4 0 1).spanlo ∈ r.left))
        ∧ r.frame = 4 ∧ r.closed = false ∧ (∀ q ∈ r.parts, overlaps (part 4 0 1) q = false) ∧ (∀ q ∈ r.early, overlaps (part 5 0 1) q = false)
        ∧ frameBefore (part 3 0 1).frame r.frame = true ∧ s.coll.members = [])
    ∧ (let s := pointed fun x => { x with parts := [part 4 0 1] }
       (collRoot s 0x1001).isNone = true ∧ ((pointOf s 0x1001).map fun x => (x.frame, x.closed, x.owned, x.n)) = some (4, false, [(0, 2)], 4)
        ∧ frameBefore 4 4 = false)
    ∧ (parentOf 13 (0, 4) (1, 1) = some ((0, 2), (0, 1)) ∧ parentOf 13 (0, 4) (3, 1) = some ((2, 2), (2, 1)) ∧ parentOf 13 (0, 4) (0, 2) = some ((0, 4), (2, 2))
      ∧ ((pointOf (pointed fun x => { x with parts := [part 4 0 1] }) 0x1001).bind fun x => (x.parts.find? fun q => q.loc = 0 && q.spanlo = 0 && q.spann = 1).map fun q => q.spanlo) = some 0)
    ∧ ((pointOf (pointed id) 0x1001).bind fun x => x.parts.find? fun q => q.loc = 0 && q.spanlo = 0 && q.spann = 1) = none
    ∧ bufferUsed (pointed id) + flitBytes (part 4 1 1) ≤ 0x2000000
    ∧ (∃ r s1 vs s2 ps s3 s4, collRoot complete 0x1001 = some r ∧ frameReady complete r = true ∧ r.early = []
      ∧ (List.range (joinDesc r.desc).count).foldl (fun (x : State × List NodeVal) i => ((settleAt x.1 r i).1, x.2 ++ [(settleAt x.1 r i).2])) (complete, [])
        = (s1, vs) ∧ presentMap s1 r = (s2, ps) ∧ putAll s2 r (frameWrites s2 r vs ps) = (s3, .ok ()) ∧ signalFrame s3 r = (s4, .ok ()))
    ∧ ((memberAt (enrolled 0) 63).map fun m => m.late.contains 3) = some true
    ∧ (∀ m ∈ (enrolled 0).coll.members, m.cid = 0x1001 ∧ m.root = (enrolled 0).fabric.self)
    ∧ ∃ l s1, (enrolled 5).coll.members = [member 5] ∧ (member 5).cid = 0x1001 ∧ (member 5).root ≠ (enrolled 5).fabric.self
      ∧ (enrolled 5).launchOf (member 5).launch = some l ∧ (member 5).status = .running
      ∧ (let data : List Byte := List.replicate 64 1
         let va := ((joinDesc (member 5).desc).daddr + BitVec.ofNat 64 (4096 * 0)).toNat
         (granules va data.length).foldl (fun (x : State × Eng Unit) (y : Nat × Nat) => match x.2 with
         | .ok _ => unitPut x.1 (unitCtx (member 5).core l) (unitIssuer (member 5).core l.id) (BitVec.ofNat 64 y.1) ((data.drop (y.1 - va)).take y.2)
         | _ => x) (enrolled 5, .ok ()) = (s1, .ok ())) := by
  exact ⟨by decide +kernel, by decide +kernel, by decide +kernel, by decide +kernel, by decide +kernel, by decide +kernel, by decide +kernel,
    ⟨Option.get _ (by decide +kernel), (Option.some_get _).symm, by decide +kernel⟩, by decide +kernel, by decide +kernel, by decide +kernel, by decide +kernel,
    ⟨Option.get _ (by decide +kernel), _, _, _, _, _, _, (Option.some_get _).symm, by decide +kernel, by decide +kernel, pair_eq, pair_eq,
      ended_eq (by decide +kernel), ended_eq (by decide +kernel)⟩, by decide +kernel, by decide +kernel,
    ⟨Option.get _ (by decide +kernel), _, rfl, by decide +kernel, by decide +kernel, (Option.some_get _).symm, by decide +kernel, ended_eq (by decide +kernel)⟩⟩

/-- One inbound window: connection 9, remote key 3, a page at 0x100000 for memory at 0x20000, with these bits in its first word. -/
def windowed (w : Dword) (base : Dword := 0x20000) : State :=
  { plain with fabric := { plain.fabric with inbound := [{ idx := 0, w := #v[w, 0x100000003, 0x100000, base] }] } }
def managed (f : Mgmt → Mgmt) : State := { plain with mgmt := f plain.mgmt }
/-- A patch image's magic and version stand at 0x20000, and nothing else. -/
def patching : State := holding zeros2 zeros zeros [(0x20000, [0x31, 0x4E, 0x43, 0x4C, 1])]
def image : List Byte := patching.home.mem.bytes 0x20000 5184
def blank : List Byte := plain.home.mem.bytes 0x20000 5184
/-- A head descriptor at 0x20000: one pixel at 60 Hz. -/
def heading : State := holding zeros2 zeros zeros [(0x20018, [60])]
def away : State := match execPreempt 0 plain with | .next t => t | _ => plain
/-- The launch of `plain` has been killed to be dumped, queue 9 shares its translation, window 4 is the dump's; the host's first word there is given. -/
def fallen (window : Option Nat) (first : Byte) : State :=
  { plain with
    queues := [{ q := 9, desc := #v[0x1101, 0x30000, BitVec.ofNat 64 rootAt, 0, 0x50000, 0, 0, 0] }]
    mgmt := { plain.mgmt with fatal := some (0, List.replicate 64 0), dbgctl := 2, dumpWin := window }
    fabric := { plain.fabric with hwin := [(4, 0x2003)], host := Memory.put [] (hostAddr 0x20 0) [first] } }
/-- Whether a signature verifies is not the model's to say: where it does, the one image is in order and the other has no magic. -/
theorem bytes_drop (m : Memory) : ∀ o n a, (m.bytes a n).drop o = m.bytes (a + o) (n - o)
  | 0, _, _ => rfl
  | _ + 1, 0, _ => by simp [Memory.bytes]
  | o + 1, n + 1, a => by rw [Memory.bytes, List.drop_succ_cons, bytes_drop m o n (a + 1)]; congr 1 <;> omega
theorem bytes_take (m : Memory) : ∀ k n a, (m.bytes a n).take k = m.bytes a (min k n)
  | 0, _, _ => by simp [Memory.bytes]
  | _ + 1, 0, _ => by simp [Memory.bytes]
  | k + 1, n + 1, a => by rw [Nat.succ_min_succ, Memory.bytes, List.take_succ_cons, bytes_take m k n (a + 1)]; rfl
theorem image_sound (h : Config.pssVerify (image.take 0x1240) (image.drop 0x1240) = true) : (readable (patchOf image 0 0)).isSome = true := by
  unfold patchOf; rewrite [h]
  simp only [image, bytes_drop, bytes_take]
  decide +kernel
def refusedWith (x : Except Byte PatchSet) : Byte := match x with | .error e => e | .ok _ => 0
theorem image_blank (h : Config.pssVerify (blank.take 0x1240) (blank.drop 0x1240) = true) : refusedWith (patchOf blank 0 0) = 6 := by
  unfold patchOf; rewrite [h]; decide +kernel
/-- A write under key 7 waits at its home. -/
def keyHeld (s : State) : State := { s with home := { s.home with held := [{ req := ⟨.loc 512 0 0, none, 0x20000, 7, .store [1], none, none⟩ }] } }
/-- How long a report is is not the model's to say: of whatever length up to 64 KiB, its bytes are backed. -/
theorem backed_low (n : Nat) (h : n ≤ 0x10000) : backed plain.mgmt 0x20000 n = true := by
  have hi : 0x30000 ≤ installedOf plain.mgmt := by decide +kernel
  have hb : plain.mgmt.badSockets = [] := by decide +kernel
  have hf : ∀ f ∈ plain.mgmt.flush, 0x30000 ≤ f.2.1 := by decide +kernel
  have ha : (plain.mgmt.flush.any fun f => decide (0x20000 < f.2.1 + f.2.2) && decide (f.2.1 < 0x20000 + n)) = false := by
    rw [List.any_eq_false]; intro f hm; have := hf f hm; simp; omega
  unfold backed
  rw [if_neg (by decide), hb, ha]
  simp; omega
theorem witness_DeviceEvents :
    (let s := windowed 0x9002F
     Quiet s ∧ s.home.locks = [] ∧ s.waiting = [] ∧ s.fabric.admitted = [] ∧ s.mgmt.boot = .running ∧ s.mgmt.material 0 = none
      ∧ admitRdma s 9 (inboundOf s.fabric 3) 0x100FFF (.read 1) = .memory 0x20FFF 0 ∧ admitRdma s 9 (inboundOf s.fabric 3) 0x100FFE (.write [1, 2]) = .memory 0x20FFE 0
      ∧ admitRdma s 9 (inboundOf s.fabric 3) 0x100FF8 (.add 1) = .memory 0x20FF8 0 ∧ admitRdma s 9 (inboundOf s.fabric 3) 0x100FF8 (.cas 0 1) = .memory 0x20FF8 0
      ∧ ∀ e ∈ s.fabric.inbound, e.rkey ≠ (4 : Word).toNat ∨ e.ok = false)
    ∧ (∀ s ∈ [windowed 0x9000F, windowed 0x90000000F, windowed 0x9001F 0xF000010000000], ∀ e ∈ s.fabric.inbound,
      e.ok = decide (e.w[0] = 0x9000F ∨ e.w[0] = 0x90000000F) ∧ e.rkey = (3 : Word).toNat ∧ e.hva ≤ (0x100000 : Dword).toNat)
    ∧ (let s := managed fun m => { m with keys := [(7, 1)] }
       (7 : Dword) ≠ 0 ∧ assoc 7 s.mgmt.keys ≠ none ∧ Distinct s ∧ s.home.held = [] ∧ (∀ l ∈ s.launches, l.pubLines = [])
        ∧ (∀ d ∈ s.geom.dies, d.renderLines = [])
        ∧ ∃ h ∈ (keyHeld s).home.held, h.node = none ∧ h.req.key = (7 : Dword).toNat)
    ∧ ((2 ^ 52 : Dword).toNat ≥ 0xF000000000000 ∧ Quiet patching ∧ patching.mgmt.material 0 = none ∧ (0x20000 : Dword).toNat < 0xF000000000000
      ∧ backed patching.mgmt (0x20000 : Dword).toNat 5184 = true)
    ∧ (Config.pssVerify (image.take 0x1240) (image.drop 0x1240) = true → (readable (patchOf image 0 0)).isSome = true)
    ∧ (Config.pssVerify (blank.take 0x1240) (blank.drop 0x1240) = true → refusedWith (patchOf blank 0 0) = 6)
    ∧ (let b := heading.home.mem.bytes 0x20000 64
       Quiet heading ∧ heading.mgmt.material 0 = none ∧ backed heading.mgmt 0x20000 64 = true ∧ backed heading.mgmt 0x30000 4096 = true
        ∧ headSound (leNat b) = true ∧ leNat b / 2 ^ 192 % 65536 ≠ 0)
    ∧ (Distinct away ∧ (∀ k ∈ away.allCores, k.id = 512) ∧ away.mgmt.clusterUp (clusterOf 513) = true
      ∧ ((away.launchOf 0).map fun l => canHold away l 513 && decide (l.micro = 0)) = some true ∧ (away.coreAt 512).blocks.length = 1 ∧ (plain.coreAt 512).blocks.map (mayRelocate plain 512) = [false]
      ∧ ((away.coreAt 512).blocks.map fun b => (b.launch, mayRelocate away 512 b, decide ((away.warpsOf 513).length + (away.blockWarps 512 b.bslot).length ≤ 64)))
        = [(0, true, true)])
    ∧ (plain.mgmt.fatal = none ∧ (managed fun m => { m with fatal := some (0, []) }).mgmt.dbgctl.getLsbD 1 = false)
    ∧ (∀ x ∈ [(none, 0), (some 4, 0), (some 4, 1)], let s := fallen x.1 x.2
      Distinct s ∧ s.mgmt.dbgctl.getLsbD 1 = true ∧ (s.launchOf 0).map (fun l => l.q) = some 0
        ∧ (s.queues.map fun q => (q.q, q.enabled, some (q.word 2))) = [(9, true, (s.launchOf 0).map fun l => l.ptroot)]
        ∧ windowOf s.fabric true 4 = some 0x2003)
    ∧ (let f := plain.mgmt.flash
       f.recordOk = true ∧ f.gddr = 1 ∧ f.reservedZero = true ∧ f.firmware.sigOk = true ∧ f.fwFloor.toNat ≤ f.firmware.version)
    ∧ (∀ n ∈ [0, 3], (managed fun m => { m with boot := .recovery n }).mgmt.boot = .recovery n)
    ∧ (∀ fw ∈ [(⟨true, 0, []⟩ : Firmware), ⟨false, 0, []⟩], (fw.sigOk = true ∧ plain.mgmt.flash.fwFloor.toNat ≤ fw.version) = (fw.sigOk = true))
    ∧ (Quiet plain ∧ plain.home.locks = [] ∧ plain.mgmt.material 0 = none ∧ backed plain.mgmt 0x20000 64 = true ∧ backed plain.mgmt 0x20000 8 = true)
    ∧ (∀ m, (Config.attestReport (plain.home.mem.bytes 0x20000 64) m).length ≤ 0x10000 →
      backed plain.mgmt 0x20000 (Config.attestReport (plain.home.mem.bytes 0x20000 64) m).length = true)
    ∧ plain.cur.present = true ∧ plain.cur.executing ≠ 0 ∧ plain.cur.micro = none := by
  unfold Distinct Quiet
  exact ⟨by decide +kernel, by decide +kernel, by decide +kernel, by decide +kernel, image_sound, image_blank, by decide +kernel,
    by decide +kernel, by decide +kernel, by decide +kernel, by decide +kernel,
    by decide +kernel, by decide +kernel, by decide +kernel, fun _ h => backed_low _ h, by decide +kernel⟩

/-- `armed` with a launch that names its own handler; `plain` with the current trap's lanes. -/
def guarding : State := { armed with launches := armed.launches.map fun l => { l with pkt := { l.pkt with handler := 0x50000 } } }
theorem unclaimed (f s : Bool) (k : Nat) : winner {} f s false k = none := by
  have h : ({} : PatchSet).slots.toList.map slotOf = List.replicate 32 (slotOf 0) := rfl
  unfold winner
  rw [h, List.filter_replicate]
  rfl
theorem witness_TakingATrap : 
    (∀ s ∈ [guarding, armed, plain, { armed with cur := { armed.cur with inhdl := true } }, { armed with cur := { armed.cur with tmask := true } }],
      (s.launchOf s.cur.launch).isSome = true ∧ s.cur.micro = none ∧ s.mgmt.trctl = 0 ∧ Distinct s ∧ s.mgmt.lichen = {} ∧ s.cur.base = none
      ∧ (s.curBlock.map fun b => (b.launch, b.index)) = some (s.cur.launch, s.cur.block))
    ∧ (∀ k, winner {} true true false k = none ∧ winner {} true false false k = none)
    ∧ (∀ s ∈ [guarding, armed, plain], s.cur.inhdl = false ∧ s.cur.tmask = false)
    ∧ ((guarding.launchOf guarding.cur.launch).map fun l => decide (l.pkt.handler ≠ 0)) = some true
    ∧ ((armed.launchOf armed.cur.launch).map fun l => l.pkt.handler) = some 0 ∧ armed.mgmt.sysHandler ≠ 0 ∧ plain.mgmt.sysHandler = 0
    ∧ 0x01 ∈ handlerCodes ∧ 0x03 ∈ systemCodes ∧ 0x10 ∈ serviceCodes := by
  unfold Distinct
  refine ⟨?_, ?_, ?_, ?_, ?_⟩
  · intro s hs
    simp only [List.mem_cons, List.not_mem_nil, or_false] at hs
    rcases hs with rfl | rfl | rfl | rfl | rfl <;> exact ⟨by decide +kernel, by decide +kernel, by decide +kernel, by decide +kernel, rfl, by decide +kernel, by decide +kernel⟩
  · exact fun k => ⟨unclaimed _ _ k, unclaimed _ _ k⟩
  all_goals decide +kernel

/-- A word of zeros where the next step fetches, its translation in the core's TLB, and the warp as that step finds it; a warp that issues a parked
group again. -/
def fetching : State :=
  let s := State.reset.withFetchWord 32 0
  { s with core := { s.core with tlb := [{ space := 0, va := 0, bytes := 0x40000000, leaf := ⟨0x79, 1, tableAt⟩ }] } }
def issuing : State := traceMask (fetching.focus 512 0)
def stuck : State := warped fun w => { w with wait := .retry, parked := some (.nop {}) }
theorem witness_StepRunsTheDecodedInstruction :
    (fetching.inputs = [] ∧ retryDue fetching = false ∧ nextEvent fetching = none ∧ issuer fetching = some (512, 0) ∧ issuing.cur.parked = none ∧ issuing.cur.micro = none
      ∧ (∃ t, Fetches issuing 0 [0] t) ∧ decodeGroup [0] = .ok (.iadd {} 0 0 0 0 0 0, 1) ∧ (Instr.iadd {} 0 0 0 0 0 0).wellFormed = true)
    ∧ (stuck.inputs = [] ∧ retryDue stuck = false ∧ nextEvent stuck = none ∧ issuer stuck = some (512, 0)
      ∧ (traceMask (stuck.focus 512 0)).cur.parked = some (.nop {}))
    ∧ (launched.inputs = [] ∧ retryDue launched = false ∧ nextEvent launched = some .placementPass)
    ∧ (idle plain).inputs = [] ∧ retryDue (idle plain) = false ∧ nextEvent { idle plain with launches := [] } = none ∧ issuer (idle plain) = none
    ∧ (Quiet fetching ∧ inAperture (BitVec.ofNat 64 codeAt) = false ∧ buffered fetching (BitVec.ofNat 64 codeAt) = none ∧ fetching.sched.walk = false
      ∧ ∃ a, Machine.translate fetching (curCtx fetching) (BitVec.ofNat 64 codeAt) 4 .fetch = (fetching, .ok a)
      ∧ a.parts.map (fun p => (p.place, p.n, fetching.mgmt.material p.key)) = [(.mem codeAt false, 4, none)] ∧ codeAt % 64 + 4 ≤ 64)
    ∧ buffered (keepWord fetching (BitVec.ofNat 64 codeAt) 0) (BitVec.ofNat 64 codeAt) = some 0
    ∧ (32 ≠ 0 ∧ 128 ≤ 128 ∧ decodeTableWord 32 0 = some (.iadd {} 0 0 0 0 0 0)) := by
  unfold Quiet
  exact ⟨⟨by decide +kernel, by decide +kernel, by decide +kernel, by decide +kernel, by decide +kernel, by decide +kernel,
      ⟨_, _, done_eq (by decide +kernel), by decide +kernel, by decide +kernel, rfl⟩, rfl, by decide +kernel⟩, by decide +kernel, by decide +kernel,
    by decide +kernel, by decide +kernel, by decide +kernel, by decide +kernel,
    ⟨by decide +kernel, by decide +kernel, by decide +kernel, by decide +kernel, _,
      acc_eq (translate_state rfl (by decide +kernel)) (by decide +kernel), by decide +kernel, by decide⟩, by decide +kernel,
    by decide, by decide, rfl⟩
theorem witness_EncodingRoundTrip : ∀ i ∈ [Instr.iadd {} 63 62 2 61 0 1, .imad { third 63 with rep := some ⟨3, 1, -1, 7, -8⟩ } 0 1 0 63 0 1,
      .ld { sw := true, src := some ⟨0, 0, 6, true, true⟩, mod := some ⟨0, false, 4, 0xFFFF⟩ } 5 2 13 6 0 0],
    i.opcode ≠ none ∧ i.wellFormed = true := by decide +kernel
theorem witness_DecodedInstructionsAreWellFormed : decodeGroup [0x70802C00, 0x71000040, 0x380E2130]
    = .ok (.ld { src := some ⟨0, 0, 2, true, true⟩, mod := some ⟨0, false, 0, 0x40⟩ } 7 4 9 4 0 0, 3) := rfl
theorem witness_MemoriesStayCanonical : memoriesWf plain ∧ ∃ t, step plain = .next t :=
  ⟨by unfold memoriesWf; decide +kernel, next_of (by decide +kernel)⟩
theorem witness_NumbersStayDistinct : Distinct (waitingAt .bar) ∧ ∃ t, step (waitingAt .bar) = .next t :=
  ⟨by unfold Distinct; decide +kernel, next_of (by decide +kernel)⟩

end Sys2Proof.Tests
end

section
namespace Sys2Proof.Canonical
open Sys2Proof.Machine Sys2Proof.Safety Sys2Proof.Laws

/-! Every step keeps the canonical form of every memory (O58). A function of the model that makes a state gets one lemma, named after it: from a state
whose memories are canonical it makes such a state. `Memory.put` and `Memory.set`, the only writers of a memory, keep the form (`put_wf`, `set_wf`);
every other function hands memories on, so its proof follows its branches and cites the lemmas of what it calls. -/


/-! ### The memories of a state, part by part -/

/-- The memories that a core holds are canonical: the local stores of its blocks, and what its copies keep of one. -/
def CoreWf (k : Core) : Prop := (∀ b ∈ k.blocks, b.local_.wf = true) ∧ ∀ c ∈ k.copies, c.snap.wf = true

/-- The known memories of remote devices are canonical. -/
def NodesWf (l : List Node) : Prop := ∀ n ∈ l, n.mem.wf = true

theorem memoriesWf_iff {s : State} : memoriesWf s ↔
    s.home.mem.wf = true ∧ s.fabric.host.wf = true ∧ NodesWf s.fabric.nodes ∧ CoreWf s.core ∧ ∀ k ∈ s.cores, CoreWf k := by
  simp [memoriesWf, CoreWf, NodesWf, State.allCores]

/-- A step that leaves the memories alone keeps their form, whatever else it writes. -/
theorem with_wf {s t : State} (h : memoriesWf s)
    (e : (t.home.mem, t.fabric.host, t.fabric.nodes, t.core, t.cores) = (s.home.mem, s.fabric.host, s.fabric.nodes, s.core, s.cores)) :
    memoriesWf t := by
  simp only [Prod.mk.injEq] at e
  obtain ⟨hm, hh, hn, hk, hks⟩ := e
  rw [memoriesWf_iff] at h ⊢
  rwa [hm, hh, hn, hk, hks]

theorem foldl_set_wf {m : Memory} (hm : m.wf = true) (l : List Host.Cell) : Memory.wf (l.foldl (fun m c => m.set c.1 c.2) m) = true := by
  induction l generalizing m with
  | nil => exact hm
  | cons c l ih => exact ih (set_wf hm c.1 c.2)

theorem forall_putBy {α : Type} {P : α → Prop} {p : α → Bool} {x : α} {l : List α} (hx : P x) (h : ∀ y ∈ l, P y) :
    ∀ y ∈ putBy p x l, P y := by
  unfold putBy
  split
  · simp only [List.mem_map]
    rintro y ⟨z, hz, rfl⟩
    split
    · exact hx
    · exact h z hz
  · simpa [or_imp, forall_and] using ⟨h, hx⟩

theorem forall_replaceBy {α : Type} {P : α → Prop} {p : α → Bool} {f : α → α} {l : List α} (hf : ∀ y, P y → P (f y)) (h : ∀ y ∈ l, P y) :
    ∀ y ∈ replaceBy p f l, P y := by
  simp only [replaceBy, List.mem_map]
  rintro y ⟨z, hz, rfl⟩
  split
  · exact hf z (h z hz)
  · exact h z hz

theorem forall_map {α : Type} {P : α → Prop} {f : α → α} {l : List α} (h : ∀ y ∈ l, P y) (hf : ∀ y, P y → P (f y)) : ∀ y ∈ l.map f, P y :=
  List.forall_mem_map.2 fun y hy => hf y (h y hy)

/-! ### Results that hold a state, and how they are put together -/

theorem ite_wf {c : Prop} [Decidable c] {a b : State} (ha : memoriesWf a) (hb : memoriesWf b) : memoriesWf (if c then a else b) := by
  split
  · exact ha
  · exact hb

theorem ite_fst_wf {β : Type} {c : Prop} [Decidable c] {a b : State × β} (ha : memoriesWf a.1) (hb : memoriesWf b.1) :
    memoriesWf (if c then a else b).1 := by
  split
  · exact ha
  · exact hb

/-- The state that a step reaches, if it reaches one. -/
def NextWf (x : Host.Outcome State Fault Refusal) : Prop := ∀ t, x = .next t → memoriesWf t

/-- The state that an attempt ends in, if it goes on. -/
def SomeWf (x : Option State) : Prop := ∀ t, x = some t → memoriesWf t

theorem next_wf {s : State} (h : memoriesWf s) : NextWf (.next s) := by
  rintro _ ⟨⟩
  exact h

theorem ite_next_wf {c : Prop} [Decidable c] {a b : Host.Outcome State Fault Refusal} (ha : NextWf a) (hb : NextWf b) :
    NextWf (if c then a else b) := by
  split
  · exact ha
  · exact hb

theorem none_wf : SomeWf none := by
  rintro _ ⟨⟩

theorem some_wf {s : State} (h : memoriesWf s) : SomeWf (some s) := by
  rintro _ ⟨⟩
  exact h

theorem ite_some_wf {c : Prop} [Decidable c] {a b : Option State} (ha : SomeWf a) (hb : SomeWf b) :
    SomeWf (if c then a else b) := by
  split
  · exact ha
  · exact hb

theorem of_fst {β : Type} {p : State × β} {t : State} {r : β} (h : memoriesWf p.1) (e : p = (t, r)) : memoriesWf t := by
  rw [e] at h
  exact h

theorem of_snd {β : Type} {p : β × State} {t : State} {r : β} (h : memoriesWf p.2) (e : p = (r, t)) : memoriesWf t := by
  rw [e] at h
  exact h

/-- The state that a placement leaves, made or not. -/
def eitherState : Except State State → State
  | .ok s => s
  | .error s => s

theorem of_ok {x : Except State State} {t : State} (h : memoriesWf (eitherState x)) (e : x = .ok t) : memoriesWf t := by
  rw [e] at h
  exact h

theorem of_error {x : Except State State} {t : State} (h : memoriesWf (eitherState x)) (e : x = .error t) : memoriesWf t := by
  rw [e] at h
  exact h

theorem getD_wf {s : State} {x : Option State} (h : memoriesWf s) (hx : SomeWf x) : memoriesWf (x.getD s) := by
  cases x with
  | none => exact h
  | some t => exact hx t rfl

theorem foldl_wf {α : Type} {f : State → α → State} (hf : ∀ s a, memoriesWf s → memoriesWf (f s a)) (l : List α) {s : State}
    (h : memoriesWf s) : memoriesWf (l.foldl f s) := by
  induction l generalizing s with
  | nil => exact h
  | cons a l ih => exact ih (hf s a h)

theorem foldl_fst_wf {α β : Type} {f : State × β → α → State × β} (hf : ∀ p a, memoriesWf p.1 → memoriesWf (f p a).1) (l : List α)
    {p : State × β} (h : memoriesWf p.1) : memoriesWf (l.foldl f p).1 := by
  induction l generalizing p with
  | nil => exact h
  | cons a l ih => exact ih (hf p a h)

variable {s : State}

/-! ### Where a state keeps its memories -/

theorem allCores_wf (h : memoriesWf s) : ∀ k ∈ s.allCores, CoreWf k := by
  obtain ⟨-, -, -, hk, hks⟩ := memoriesWf_iff.1 h
  exact List.forall_mem_cons.2 ⟨hk, hks⟩

theorem coreAt_wf (h : memoriesWf s) (c : Nat) : CoreWf (s.coreAt c) := by
  obtain ⟨-, -, -, hk, hks⟩ := memoriesWf_iff.1 h
  unfold State.coreAt
  split
  · exact hk
  · cases hf : s.cores.find? fun k => k.id = c with
    | none => simp [CoreWf]
    | some k => exact hks k (List.mem_of_find?_eq_some hf)

theorem setCore_wf (h : memoriesWf s) {k : Core} (hk : CoreWf k) : memoriesWf (s.setCore k) := by
  rw [memoriesWf_iff] at h
  obtain ⟨hm, hh, hn, hc, hcs⟩ := h
  unfold State.setCore
  split
  · exact memoriesWf_iff.2 ⟨hm, hh, hn, hk, hcs⟩
  · exact memoriesWf_iff.2 ⟨hm, hh, hn, hc, forall_putBy hk hcs⟩

theorem modCore_wf (h : memoriesWf s) (c : Nat) {f : Core → Core} (hf : ∀ k, CoreWf k → CoreWf (f k)) : memoriesWf (s.modCore c f) :=
  setCore_wf h (hf _ (coreAt_wf h c))

theorem blockAt_wf (h : memoriesWf s) {c b : Nat} {x : Block} (hb : s.blockAt c b = some x) : x.local_.wf = true :=
  (coreAt_wf h c).1 x (List.mem_of_find?_eq_some hb)

theorem setWarp_wf (h : memoriesWf s) (c : Nat) (w : Warp) : memoriesWf (s.setWarp c w) := by
  unfold State.setWarp
  split
  · exact h
  · exact modCore_wf h c fun _ hk => hk

theorem modWarp_wf (h : memoriesWf s) (c slot : Nat) (f : Warp → Warp) : memoriesWf (s.modWarp c slot f) := by
  unfold State.modWarp
  split
  · exact setWarp_wf h c _
  · exact h

theorem mapWarps_wf (h : memoriesWf s) (c : Nat) (f : Warp → Warp) : memoriesWf (s.mapWarps c f) := by
  have hk : memoriesWf (s.modCore c fun k => { k with warps := k.warps.map f }) := modCore_wf h c fun _ hk => hk
  unfold State.mapWarps
  dsimp only
  split <;> exact hk

theorem mapAllWarps_wf (h : memoriesWf s) (f : Nat → Warp → Warp) : memoriesWf (s.mapAllWarps f) := by
  rw [memoriesWf_iff] at h ⊢
  obtain ⟨hm, hh, hn, hc, hcs⟩ := h
  refine ⟨hm, hh, hn, hc, ?_⟩
  simp only [State.mapAllWarps, List.mem_map]
  rintro k ⟨k, hk, rfl⟩
  exact hcs k hk

theorem removeWarp_wf (h : memoriesWf s) (c slot : Nat) : memoriesWf (s.removeWarp c slot) := by
  unfold State.removeWarp
  split
  · exact h
  · exact modCore_wf h c fun _ hk => hk

theorem setBlock_wf (h : memoriesWf s) (c : Nat) {b : Block} (hb : b.local_.wf = true) : memoriesWf (s.setBlock c b) :=
  modCore_wf h c fun _ ⟨hbs, hcs⟩ => ⟨forall_putBy hb hbs, hcs⟩

theorem modBlock_wf (h : memoriesWf s) (c b : Nat) {f : Block → Block} (hf : ∀ x, x.local_.wf = true → (f x).local_.wf = true) :
    memoriesWf (s.modBlock c b f) :=
  modCore_wf h c fun _ ⟨hbs, hcs⟩ => ⟨forall_replaceBy hf hbs, hcs⟩

theorem nodeOf_wf (h : memoriesWf s) (n : Nat) : (nodeOf s n).mem.wf = true := by
  obtain ⟨-, -, hn, -⟩ := memoriesWf_iff.1 h
  unfold nodeOf
  cases hf : s.fabric.nodes.find? fun x => x.node = n with
  | none => rfl
  | some x => exact hn x (List.mem_of_find?_eq_some hf)

theorem setNode_wf (h : memoriesWf s) {x : Node} (hx : x.mem.wf = true) : memoriesWf (setNode s x) := by
  rw [memoriesWf_iff] at h ⊢
  obtain ⟨hm, hh, hn, hc⟩ := h
  exact ⟨hm, hh, forall_putBy hx hn, hc⟩

theorem homePut_wf (h : memoriesWf s) (pa : Nat) (d : List Byte) : memoriesWf (s.homePut pa d) := by
  rw [memoriesWf_iff] at h ⊢
  obtain ⟨hm, hr⟩ := h
  exact ⟨put_wf hm pa d, hr⟩

/-! ### Reading and writing physical memory at its homes -/

theorem modLaunch_wf (h : memoriesWf s) (id f) : memoriesWf (State.modLaunch s id f) := h

theorem setQueue_wf (h : memoriesWf s) (x) : memoriesWf (State.setQueue s x) := h

theorem fresh_wf (h : memoriesWf s) : memoriesWf s.fresh.2 := h

theorem queueRecord_wf (h : memoriesWf s) (trapq r unit done) : memoriesWf (queueRecord s trapq r unit done) := h

theorem launchRecord_wf (h : memoriesWf s) (r unit) : memoriesWf (launchRecord s r unit) := by
  unfold launchRecord
  split
  · exact queueRecord_wf h _ _ _ _
  · exact h

theorem poisonAt_wf (h : memoriesWf s) (pa) : memoriesWf (poisonAt s pa) := h

theorem readGran_wf (h : memoriesWf s) (pa n key) : memoriesWf (readGran s pa n key).1 := by
  unfold readGran
  split
  · exact poisonAt_wf h _
  · exact h

theorem mergeGran_wf (h : memoriesWf s) (pa d key) : memoriesWf (mergeGran s pa d key).1 := by
  unfold mergeGran
  dsimp only
  split
  · exact homePut_wf h pa d
  · split
    · exact homePut_wf h pa d
    · exact poisonAt_wf h pa

theorem mergeCells_wf (h : memoriesWf s) (line cells key) : memoriesWf (mergeCells s line cells key).1 := by
  unfold mergeCells
  refine ite_fst_wf (mergeGran_wf h _ _ _) ?_
  split
  · exact foldl_wf (fun _ _ h => homePut_wf h _ _) _ h
  · exact poisonAt_wf h _

theorem tagLine_wf (h : memoriesWf s) (line whole tag drained) : memoriesWf (tagLine s line whole tag drained) := by
  unfold tagLine
  dsimp only
  split <;> split <;> split <;> exact h

theorem enterTag_wf (h : memoriesWf s) (core line e) : memoriesWf (enterTag s core line e) :=
  ite_wf (tagLine_wf h _ _ _ _) (ite_wf h (tagLine_wf h _ _ _ _))

theorem stashWriteBack_wf (h : memoriesWf s) (k st l) : memoriesWf (stashWriteBack s k st l) := by
  unfold stashWriteBack
  split
  · exact mergeGran_wf h _ _ _
  · exact h

theorem recallStashAt_wf (h : memoriesWf s) (core line write) : memoriesWf (recallStashAt s core line write) :=
  ite_wf h (modCore_wf (foldl_wf (fun _ _ h => foldl_wf (fun _ _ h => ite_wf (stashWriteBack_wf h _ _ _) h) _ h) _ h) _ fun _ h => h)

theorem recallStash_wf (h : memoriesWf s) (line write) : memoriesWf (recallStash s line write) :=
  foldl_wf (fun _ _ h => recallStashAt_wf h _ _ _) _ h

theorem mergeUpd_wf (h : memoriesWf s) (core line) : memoriesWf (mergeUpd s core line) := by
  unfold mergeUpd
  grind only [CoreWf, !coreAt_wf, !enterTag_wf, !homePut_wf, !launchRecord_wf, !modCore_wf, !readGran_wf, !foldl_wf, !foldl_fst_wf]

theorem mergeAll_wf (h : memoriesWf s) (line) : memoriesWf (mergeAll s line) := foldl_wf (fun _ _ h => mergeUpd_wf h _ _) _ h

theorem recallLine_wf (h : memoriesWf s) (line write) : memoriesWf (recallLine s line write) := recallStash_wf (mergeAll_wf h _) _ _

theorem setDir_wf (h : memoriesWf s) (e) : memoriesWf (setDir s e) := h

theorem startRecall_wf (h : memoriesWf s) (line write) : memoriesWf (startRecall s line write) := by
  unfold startRecall
  split <;> exact h

theorem keepRecalls_wf (h : memoriesWf s) (t) : SomeWf (keepRecalls s t) := by
  unfold keepRecalls
  intro u e
  split at e
  · cases e
  · cases e; exact h

theorem keepRecalls_getD_wf (h : memoriesWf s) (t) : memoriesWf ((keepRecalls s t).getD s) := by
  cases e : keepRecalls s t with
  | none => exact h
  | some u => exact keepRecalls_wf h t u e

theorem useDir_wf (h : memoriesWf s) (line) : memoriesWf (useDir s line) := h

theorem dirRoom_wf (h : memoriesWf s) (line) : memoriesWf (dirRoom s line).1 := by
  unfold dirRoom
  refine ite_fst_wf (useDir_wf h _) (ite_fst_wf (useDir_wf h _) ?_)
  split
  · exact h
  · exact ite_fst_wf (startRecall_wf h _ _) (useDir_wf (recallLine_wf h _ _) _)

theorem physWaits_wf (h : memoriesWf s) (pa n write) : SomeWf (physWaits s pa n write) :=
  ite_some_wf (some_wf (foldl_wf (fun _ _ h => startRecall_wf h _ _) _ h)) none_wf

theorem dropProxy_wf (h : memoriesWf s) (id) : memoriesWf (dropProxy s id) := by
  rw [memoriesWf_iff] at h ⊢
  obtain ⟨hm, hh, hn, hc⟩ := h
  refine ⟨hm, hh, ?_, hc⟩
  simp only [dropProxy, NodesWf, List.mem_map]
  rintro n ⟨x, hx, rfl⟩
  split <;> exact hn x hx

theorem performReq_wf (h : memoriesWf s) (r) : memoriesWf (performReq s r).1 := by
  unfold performReq
  dsimp only
  split
  · split
    · exact h
    · split
      · exact dropProxy_wf (setNode_wf h (put_wf (nodeOf_wf h _) _ _)) _
      · exact h
  · have h1 := recallLine_wf h (r.req.pa / 64) (opWrites r.req.op)
    split
    · exact setDir_wf h1 _
    · exact setDir_wf h1 _
    · exact tagLine_wf h1 _ _ _ _
    · split
      · exact tagLine_wf (of_fst (mergeGran_wf h1 _ _ _) (by assumption)) _ _ _ _
      · exact of_fst (mergeGran_wf h1 _ _ _) (by assumption)
    · split
      · exact of_fst (readGran_wf h1 _ _ _) (by assumption)
      · have h2 := of_fst (readGran_wf h1 _ _ _) (by assumption)
        split
        · exact tagLine_wf (homePut_wf h2 _ _) _ _ _ _
        · exact h2

theorem attempt_wf (h : memoriesWf s) (x ahead) : memoriesWf (attempt s x ahead).1 := by
  unfold attempt
  refine ite_fst_wf (startRecall_wf h _ _) (ite_fst_wf h ?_)
  split
  · exact of_fst (ite_fst_wf (dirRoom_wf h _) h) (by assumption)
  · split <;> exact of_fst (performReq_wf (of_fst (ite_fst_wf (dirRoom_wf h _) h) (by assumption)) _) (by assumption)

theorem request_wf (h : memoriesWf s) (x) : memoriesWf (request s x).1 := attempt_wf h _ _

theorem claim_wf (h : memoriesWf s) (x) : memoriesWf (claim s x).1 := by
  unfold claim
  refine ite_fst_wf (ite_wf (startRecall_wf h _ _) (with_wf (startRecall_wf h _ _) rfl)) ?_
  split
  · exact ite_wf (of_fst (ite_fst_wf (dirRoom_wf h _) (b := (_, _)) h) (by assumption))
      (of_fst (ite_fst_wf (dirRoom_wf h _) (b := (_, _)) h) (by assumption) :)
  · exact (of_fst (ite_fst_wf (dirRoom_wf h _) (b := (_, _)) h) (by assumption) :)

theorem dropPlaces_wf (h : memoriesWf s) (p) : memoriesWf (dropPlaces s p) := h

theorem dropBlockPlaces_wf (h : memoriesWf s) (c b) : memoriesWf (dropBlockPlaces s c b) := dropPlaces_wf h _

theorem mergeFailed_wf (h : memoriesWf s) (x e) : memoriesWf (mergeFailed s x e) := by
  unfold mergeFailed
  dsimp only
  split
  · exact ite_wf (modWarp_wf h _ _ _) (launchRecord_wf h _ _)
  · split
    · exact launchRecord_wf h _ _
    · exact h

theorem pushReturn_wf (h : memoriesWf s) (d v) : memoriesWf (pushReturn s d v) := modCore_wf h _ fun _ h => h

theorem reply_wf (h : memoriesWf s) (x r) : memoriesWf (reply s x r) := by
  unfold reply
  split
  · exact ite_wf (modWarp_wf h _ _ _) (modCore_wf h _ fun _ h => h)
  · split
    · exact ite_wf h h
    · exact ite_wf h h
    · exact pushReturn_wf h _ _
    · exact mergeFailed_wf h _ _
    · exact h

theorem submit_wf (h : memoriesWf s) (x) : memoriesWf (submit s x) := by
  unfold submit
  split
  · exact (of_fst (request_wf h _) (by assumption) :)
  · exact reply_wf (of_fst (request_wf h _) (by assumption)) _ _
  · exact reply_wf (of_fst (request_wf h _) (by assumption)) _ _

theorem serveHeldFrom_wf (h : memoriesWf s) (kept l) : memoriesWf (serveHeldFrom s kept l) := by
  induction l generalizing s kept with
  | nil => exact h
  | cons x r ih =>
    unfold serveHeldFrom
    grind only [memoriesWf_iff, !attempt_wf, !reply_wf]

theorem serveHeld_wf (h : memoriesWf s) : memoriesWf (serveHeld s) := ite_wf h (serveHeldFrom_wf h _ _)

theorem physRead_wf (h : memoriesWf s) (pa n key) : memoriesWf (physRead s pa n key).1 := by
  unfold physRead
  dsimp only
  refine foldl_fst_wf (fun _ _ h => ?_) _ h
  split
  · exact h
  · split <;> exact of_fst (readGran_wf (recallLine_wf h _ _) _ _ _) (by assumption)

theorem physWrite_wf (h : memoriesWf s) (pa d key) : memoriesWf (physWrite s pa d key).1 := by
  unfold physWrite
  grind only [!mergeGran_wf, !recallLine_wf, !tagLine_wf, !foldl_wf, !foldl_fst_wf]

theorem physNat_wf (h : memoriesWf s) (pa n) : memoriesWf (physNat s pa n).1 := by
  unfold physNat
  split
  · exact of_fst (physRead_wf h _ _ _) (by assumption)
  · exact (of_fst (physRead_wf h _ _ _) (by assumption) :)

theorem parkUnit_wf (h : memoriesWf s) (core u resp) : memoriesWf (parkUnit s core u resp) := by
  unfold parkUnit
  cases u with
  | warp slot => exact modWarp_wf h _ _ _
  | chan c =>
    refine modCore_wf h _ fun _ hk => ⟨hk.1, forall_map hk.2 fun y hy => ?_⟩
    split
    · split <;> exact hy
    · exact hy
  | job e => exact modCore_wf h _ fun _ hk => hk
  | ray slot lane => exact modWarp_wf h _ _ _
  | tile q tx ty => exact h
  | coll cid => exact h
  | member slot => exact h

theorem physPost_wf (h : memoriesWf s) (pa d) : memoriesWf (physPost s pa d) := foldl_wf (fun _ _ h => submit_wf h _) _ h

theorem writeBlockRecord_wf (h : memoriesWf s) (q d) : memoriesWf (writeBlockRecord s q d) := by
  unfold writeBlockRecord
  grind only [!physNat_wf, !physWrite_wf]

theorem recordWaits_wf (h : memoriesWf s) (r) : SomeWf (recordWaits s r) := by
  unfold recordWaits
  intro t e
  split at e
  · next s' hw => cases e; exact physWaits_wf h _ _ _ _ hw
  · exact physWaits_wf h _ _ _ _ e

theorem writeRecord_wf (h : memoriesWf s) (r) : memoriesWf (writeRecord s r).1 := by
  unfold writeRecord
  grind only [memoriesWf_iff, !parkUnit_wf, !physNat_wf, !physWrite_wf, !writeBlockRecord_wf]

theorem pumpRecordsFrom_wf (h : memoriesWf s) (kept l) : memoriesWf (pumpRecordsFrom s kept l) := by
  induction l generalizing s kept with
  | nil => exact h
  | cons r rest ih =>
    unfold pumpRecordsFrom
    refine ite_wf (ih h _) ?_
    split
    · exact ih h _
    · split
      · exact ih (recordWaits_wf h _ _ (by assumption)) _
      · split <;> have h1 := of_fst (writeRecord_wf h _) (by assumption)
        · exact ih (by exact h1) _
        · exact ih h1 _

theorem pumpRecords_wf (h : memoriesWf s) : memoriesWf (pumpRecords s) := ite_wf h (pumpRecordsFrom_wf h _ _)

/-! ### Translation -/

theorem readEntry_wf (h : memoriesWf s) (va level at_) : memoriesWf (readEntry s va level at_).1 := by
  unfold readEntry
  refine ite_fst_wf h ?_
  split
  · exact physWaits_wf h _ _ _ _ (by assumption)
  · split <;> exact of_fst (physRead_wf h _ _ _) (by assumption)

theorem walkFrom_wf (h : memoriesWf s) (va fuel level at_) : memoriesWf (walkFrom s va fuel level at_).1 := by
  induction fuel generalizing s level at_ with
  | zero => exact h
  | succ fuel ih =>
    unfold walkFrom
    grind only [!readEntry_wf]

theorem walk_wf (h : memoriesWf s) (ptroot va) : memoriesWf (walk s ptroot va).1 := walkFrom_wf h _ _ _ _

theorem swapLeaf_wf (h : memoriesWf s) (l b) : memoriesWf (swapLeaf s l b).1 := by
  unfold swapLeaf
  dsimp only
  split
  · exact physWaits_wf h _ _ _ _ (by assumption)
  · split
    · exact of_fst (readGran_wf (recallLine_wf h _ _) _ _ _) (by assumption)
    · exact ite_fst_wf (homePut_wf (of_fst (readGran_wf (recallLine_wf h _ _) _ _ _) (by assumption)) _ _)
        (of_fst (readGran_wf (recallLine_wf h _ _) _ _ _) (by assumption))

theorem tlbMod_wf (h : memoriesWf s) (core f) : memoriesWf (tlbMod s core f) := ite_wf h (modCore_wf h _ fun _ h => h)

theorem tlbDrop_wf (h : memoriesWf s) (core at_) : memoriesWf (tlbDrop s core at_) := tlbMod_wf h _ _

theorem install_wf (h : memoriesWf s) (c va l) : memoriesWf (install s c va l).1 := by
  unfold install
  refine ite_fst_wf (ite_wf h (modCore_wf h _ fun _ h => h)) ?_
  split
  · exact ite_wf (of_fst (swapLeaf_wf h _ _) (by assumption)) (modCore_wf (of_fst (swapLeaf_wf h _ _) (by assumption)) _ fun _ h => h)
  · exact of_fst (swapLeaf_wf h _ _) (by assumption)

theorem leafOf_wf (h : memoriesWf s) (c va) : memoriesWf (leafOf s c va).1 := by
  unfold leafOf
  split
  · exact ite_fst_wf h h
  · split
    · exact of_fst (walk_wf h _ _) (by assumption)
    · exact install_wf (of_fst (walk_wf h _ _) (by assumption)) _ _ _

theorem markLeaf_wf (h : memoriesWf s) (core l) : memoriesWf (markLeaf s core l).1 := by
  unfold markLeaf
  refine ite_fst_wf h ?_
  split
  · exact tlbMod_wf (of_fst (swapLeaf_wf h _ _) (by assumption)) _ _
  · exact tlbDrop_wf (of_fst (swapLeaf_wf h _ _) (by assumption)) _ _
  · exact of_fst (swapLeaf_wf h _ _) (by assumption)

theorem markParts_wf (h : memoriesWf s) (core l) : memoriesWf (markParts s core l).1 := by
  induction l generalizing s with
  | nil => exact h
  | cons p r ih =>
    unfold markParts
    grind only [!markLeaf_wf]

theorem markDirty_wf (h : memoriesWf s) (core a) : memoriesWf (markDirty s core a).1 := ite_fst_wf (markParts_wf h _ _) h

theorem translate_wf (h : memoriesWf s) (c va size k) : memoriesWf (Machine.translate s c va size k).1 := by
  unfold Machine.translate
  refine ite_fst_wf h ?_
  split <;> exact of_fst (leafOf_wf h _ _) (by assumption)

theorem privateParts_wf (h : memoriesWf s) (c k lane p n words off) : memoriesWf (privateParts s c k lane p n words off).1 := by
  induction words generalizing s off with
  | zero => exact h
  | succ words ih =>
    unfold privateParts
    dsimp only
    split
    · exact of_fst (translate_wf h _ _ _ _) (by assumption)
    · have h1 := of_fst (translate_wf h _ _ _ _) (by assumption)
      split <;> exact of_fst (ih h1 _) (by assumption)

/-! ### Accesses of warps and engines -/

theorem issuerModCore_wf (h : memoriesWf s) (i : Issuer) {f} (hf : ∀ k, CoreWf k → CoreWf (f k)) : memoriesWf (i.modCore s f) := by
  unfold Issuer.modCore
  split
  · exact modCore_wf h _ hf
  · exact h

theorem setStashLine_wf (h : memoriesWf s) (core st l) : memoriesWf (setStashLine s core st l) := modCore_wf h _ fun _ h => h

theorem stashCheck_wf (h : memoriesWf s) (core b off write) : memoriesWf (stashCheck s core b off write).1 := by
  unfold stashCheck
  split
  · exact h
  · refine ite_fst_wf h (ite_fst_wf h ?_)
    split <;> exact of_fst (translate_wf h _ _ _ _) (by assumption)

theorem stashDirty_wf (h : memoriesWf s) (core l) : memoriesWf (stashDirty s core l).1 := by
  unfold stashDirty
  split
  · exact markLeaf_wf h _ _
  · exact h

theorem stashClean_wf (h : memoriesWf s) (core b st l) : memoriesWf (stashClean s core b st l).1 := by
  unfold stashClean
  split
  · exact setStashLine_wf (of_fst (stashDirty_wf h _ _) (by assumption)) _ _ _
  · split
    · exact of_fst (translate_wf (of_fst (stashDirty_wf h _ _) (by assumption)) _ _ _ _) (by assumption)
    · exact setStashLine_wf (of_fst (translate_wf (of_fst (stashDirty_wf h _ _) (by assumption)) _ _ _ _) (by assumption)) _ _ _

theorem stashTouch_wf (h : memoriesWf s) (core b off write) : memoriesWf (stashTouch s core b off write).1 := by
  have dirty (s : State) (h : memoriesWf s) (leaf) : memoriesWf (if write then stashDirty s core leaf else (s, true)).1 :=
    ite_fst_wf (stashDirty_wf h _ _) h
  unfold stashTouch
  split
  · exact h
  · refine ite_fst_wf h (ite_fst_wf ?_ ?_)
    · split
      · exact stashClean_wf h _ _ _ _
      · exact h
    · split
      · exact of_fst (stashCheck_wf h _ _ _ _) (by assumption)
      · exact of_fst (stashCheck_wf h _ _ _ _) (by assumption)
      · have h1 := of_fst (stashCheck_wf h _ _ _ _) (by assumption)
        split
        · dsimp only
          split
          · exact of_fst (claim_wf h1 _) (by assumption)
          · have h2 := of_fst (claim_wf h1 _) (by assumption)
            split
            · exact of_fst (dirty _ h2 _) (by assumption)
            · have h3 := of_fst (dirty _ h2 _) (by assumption)
              refine ite_fst_wf (setStashLine_wf (recallLine_wf h3 _ _) _ _ _) ?_
              split
              · exact of_fst (readGran_wf (recallLine_wf h3 _ _) _ _ _) (by assumption)
              · have h4 := of_fst (readGran_wf (recallLine_wf h3 _ _) _ _ _) (by assumption)
                exact setStashLine_wf (modBlock_wf h4 _ _ fun _ hb => put_wf hb _ _) _ _ _
        · exact h1

theorem localRead_wf (h : memoriesWf s) (core bslot off n) : memoriesWf (localRead s core bslot off n).1 := by
  unfold localRead
  split
  · exact h
  · split <;> exact of_fst (stashTouch_wf h _ _ _ _) (by assumption)

theorem localWrite_wf (h : memoriesWf s) (core bslot off d) : memoriesWf (localWrite s core bslot off d).1 := by
  unfold localWrite
  grind only [!stashTouch_wf, !modBlock_wf, put_wf]

theorem localPlace_wf (h : memoriesWf s) (c win va o size align k) : memoriesWf (localPlace s c win va o size align k).1 := by
  unfold localPlace
  refine ite_fst_wf h ?_
  split
  · exact h
  · split
    · exact h
    · refine ite_fst_wf h ?_
      split <;> exact of_fst (stashCheck_wf h _ _ _ _) (by assumption)

theorem privAcc_wf (h : memoriesWf s) (c lane p va size align k wide) : memoriesWf (privAcc s c lane p va size align k wide).1 := by
  unfold privAcc
  refine ite_fst_wf h ?_
  split
  · exact of_fst (privateParts_wf h _ _ _ _ _ _ _) (by assumption)
  · exact ite_fst_wf (of_fst (privateParts_wf h _ _ _ _ _ _ _) (by assumption))
      (ite_fst_wf (of_fst (privateParts_wf h _ _ _ _ _ _ _) (by assumption)) (of_fst (privateParts_wf h _ _ _ _ _ _ _) (by assumption)))

theorem resolve_wf (h : memoriesWf s) (c lane va size align k wide fmt) : memoriesWf (resolve s c lane va size align k wide fmt).1 := by
  unfold resolve
  split
  · exact h
  · split
    · generalize va.toNat - apertureBase = o
      grind only [!localPlace_wf, !privAcc_wf]
    · grind only [!translate_wf]

theorem l1Drop_wf {k} (h : CoreWf k) (id) : CoreWf (l1Drop k id) := h

theorem l1Fit_wf {k} (h : CoreWf k) (set fuel) : CoreWf (l1Fit k set fuel) := by
  induction fuel generalizing k with
  | zero => exact h
  | succ fuel ih =>
    unfold l1Fit
    grind only [!l1Drop_wf]

theorem l1Put_wf {k} (h : CoreWf k) (l) : CoreWf (l1Put k l) := by
  unfold l1Put
  grind only [CoreWf, !l1Drop_wf]

theorem l1Use_wf {k} (h : CoreWf k) (l) : CoreWf (l1Use k l) := h

theorem l1Store_wf {k} (h : CoreWf k) (id off d) : CoreWf (l1Store k id off d) := h

theorem l1Acquire_wf {k} (h : CoreWf k) (d) : CoreWf (l1Acquire k d) := h

theorem l1Filled_wf (h : memoriesWf s) (i line l1 cpol) : memoriesWf (l1Filled s i line l1 cpol) := by
  unfold l1Filled
  grind only [!coreAt_wf, !issuerModCore_wf, !l1Drop_wf, !l1Put_wf]

theorem loadHome_wf (h : memoriesWf s) (i a pa n l1 fresh cpol) : memoriesWf (loadHome s i a pa n l1 fresh cpol).1 := by
  unfold loadHome
  dsimp only
  refine ite_fst_wf (startRecall_wf h _ _) ?_
  split
  · exact issuerModCore_wf (of_fst (readGran_wf (recallLine_wf h _ _) _ _ _) (by assumption)) _ fun _ h => h
  · exact ite_fst_wf (of_fst (readGran_wf (recallLine_wf h _ _) _ _ _) (by assumption) :)
      (l1Filled_wf (of_fst (readGran_wf (recallLine_wf h _ _) _ _ _) (by assumption)) _ _ _ _)

theorem l1Hit_wf (h : memoriesWf s) (i l off n cpol) : memoriesWf (l1Hit s i l off n cpol).1 := by
  unfold l1Hit
  grind only [!l1Drop_wf, !l1Use_wf, !modCore_wf]

theorem proxyFill_wf (h : memoriesWf s) (nd x) : memoriesWf (proxyFill s nd x) := by
  unfold proxyFill
  grind only [memoriesWf_iff, !nodeOf_wf, !setNode_wf]

theorem loadRemote_wf (h : memoriesWf s) (i a nd addr n l1 fresh cpol) : memoriesWf (loadRemote s i a nd addr n l1 fresh cpol).1 := by
  unfold loadRemote
  dsimp only
  split
  · exact l1Filled_wf h _ _ _ _
  · exact ite_fst_wf h (l1Filled_wf (proxyFill_wf h _ _) _ _ _ _)

theorem loadPart_wf (h : memoriesWf s) (i a p fresh pol) : memoriesWf (Machine.loadPart s i a p fresh pol).1 := by
  have bytes {r : State × Done Loaded} (hr : memoriesWf r.1) (f : State → Loaded → Loaded) :
      memoriesWf (match r with | (s, .ok x) => (s, Done.ok (f s x)) | r => r).1 := by
    split <;> exact hr
  unfold Machine.loadPart
  split
  · dsimp only
    split
    · exact h
    · refine bytes ?_ _
      split
      · exact l1Hit_wf h _ _ _ _ _
      · exact loadHome_wf h _ _ _ _ _ _ _
  · split <;> exact h
  · dsimp only
    split
    · exact h
    · split
      · exact h
      · refine bytes ?_ _
        split
        · exact l1Hit_wf h _ _ _ _ _
        · exact loadRemote_wf h _ _ _ _ _ _ _ _
  · split
    · exact h
    · split <;> exact h
  · split <;> exact of_fst (localRead_wf h _ _ _ _) (by assumption)
  · exact h

theorem loadAcc_wf (h : memoriesWf s) (i a fresh cpol) : memoriesWf (loadAcc s i a fresh cpol).1 := by
  unfold loadAcc
  dsimp only
  refine ite_fst_wf h ?_
  refine foldl_fst_wf (fun _ _ h => ?_) _ h
  split
  · split <;> exact of_fst (loadPart_wf h _ _ _ _ _) (by assumption)
  · exact h

theorem pubGone_wf (h : memoriesWf s) (launch x) : memoriesWf (pubGone s launch x) := modLaunch_wf h _ _

theorem publishLine_wf (h : memoriesWf s) (l x) : memoriesWf (publishLine s l x).1 := by
  unfold publishLine
  grind only [!startRecall_wf, !pubGone_wf, !dropProxy_wf, !setNode_wf, !nodeOf_wf, !mergeCells_wf, !recallLine_wf, !tagLine_wf, !foldl_wf, !modCore_wf, !l1Drop_wf, !foldl_set_wf]

theorem pubFailed_wf (h : memoriesWf s) (launch x) : memoriesWf (pubFailed s launch x) := launchRecord_wf h _ _

theorem publishLines_wf (h : memoriesWf s) (launch mine l) : memoriesWf (publishLines s launch mine l).1 := by
  induction l generalizing s with
  | nil => exact h
  | cons x r ih =>
    unfold publishLines
    split
    · exact h
    · split
      · have h1 := of_fst (publishLine_wf h _ _) (by assumption)
        exact ih (ite_wf h1 (pubFailed_wf h1 _ _))
      · exact ih (of_fst (publishLine_wf h _ _) (by assumption))

theorem publishHome_wf (h : memoriesWf s) (launch mine ls) : memoriesWf (publishHome s launch mine ls).1 :=
  ite_fst_wf (foldl_wf (fun _ _ h => ite_wf (startRecall_wf h _ _) h) _ h) (publishLines_wf h _ _ _)

theorem publishAll_wf (h : memoriesWf s) (launch mine) : memoriesWf (publishAll s launch mine).1 := by
  unfold publishAll
  grind only [!publishHome_wf, !foldl_wf, !foldl_fst_wf]

theorem pubWrite_wf (h : memoriesWf s) (i va pa key d) : memoriesWf (pubWrite s i va pa key d).1 := by
  unfold pubWrite
  split
  · exact h
  · refine ite_fst_wf ?_ (modLaunch_wf h _ _)
    split
    · exact modLaunch_wf h _ _
    · split
      · exact of_fst (publishLine_wf h _ _) (by assumption)
      · exact modLaunch_wf (of_fst (publishLine_wf h _ _) (by assumption)) _ _
      · exact modLaunch_wf (pubFailed_wf (of_fst (publishLine_wf h _ _) (by assumption)) _ _) _ _

theorem storePart_wf (h : memoriesWf s) (i a p d tag) : memoriesWf (Machine.storePart s i a p d tag).1 := by
  have l1 (n : Option Nat) (line off : Nat) : memoriesWf (i.modCore s fun k => l1Store k ⟨n, line⟩ off d) :=
    issuerModCore_wf h i fun _ hk => l1Store_wf hk _ _ _
  unfold Machine.storePart
  split
  · split
    · exact pubWrite_wf h _ _ _ _ _
    · split
      · exact h
      · dsimp only
        split
        · exact submit_wf h _
        · exact submit_wf (l1 _ _ _) _
  · split <;> exact h
  · split
    · exact h
    · split
      · exact pubWrite_wf h _ _ _ _ _
      · exact submit_wf (l1 _ _ _) _
  · split
    · exact h
    · split
      · exact h
      · obtain ⟨hm, hh, hr⟩ := memoriesWf_iff.1 h
        exact memoriesWf_iff.2 ⟨hm, put_wf hh _ _, hr⟩
  · exact localWrite_wf h _ _ _ _
  · exact h

theorem storeAcc_wf (h : memoriesWf s) (i a d tag) : memoriesWf (storeAcc s i a d tag).1 := by
  unfold storeAcc
  dsimp only
  refine ite_fst_wf h ?_
  refine foldl_fst_wf (fun _ _ h => ?_) _ h
  split
  · exact storePart_wf h _ _ _ _ _
  · exact h

theorem rmwPub_wf (h : memoriesWf s) (i a p at_ op) : memoriesWf (rmwPub s i a p at_ op).1 := by
  unfold rmwPub
  dsimp only
  split
  · split
    · exact of_fst (loadPart_wf h _ _ _ _ _) (by assumption)
    · split <;> exact of_fst (pubWrite_wf (of_fst (loadPart_wf h _ _ _ _ _) (by assumption)) _ _ _ _ _) (by assumption)
  · exact of_fst (loadPart_wf h _ _ _ _ _) (by assumption)
  · exact of_fst (loadPart_wf h _ _ _ _ _) (by assumption)

theorem rmwHome_wf (h : memoriesWf s) (i x hold) : memoriesWf (rmwHome s i x hold).1 := by
  unfold rmwHome
  refine ite_fst_wf ?_ ?_
  · split
    · exact (of_fst (request_wf h _) (by assumption) :)
    · exact reply_wf (of_fst (request_wf h _) (by assumption)) _ _
    · exact ite_fst_wf (of_fst (request_wf h _) (by assumption)) (reply_wf (of_fst (request_wf h _) (by assumption)) _ _)
  · refine ite_fst_wf h ?_
    split
    · exact of_fst (request_wf h _) (by assumption)
    · exact ite_wf (of_fst (request_wf h _) (by assumption) :) (of_fst (request_wf h _) (by assumption))
    · exact of_fst (request_wf h _) (by assumption)

theorem rmwPart_wf (h : memoriesWf s) (i a p op tag hold) : memoriesWf (rmwPart s i a p op tag hold).1 := by
  unfold rmwPart
  grind only [!issuerModCore_wf, !l1Drop_wf, !localRead_wf, !localWrite_wf, !rmwHome_wf, !rmwPub_wf]

theorem updLimit_wf (h : memoriesWf s) (core line fuel) : memoriesWf (updLimit s core line fuel) := by
  induction fuel generalizing s with
  | zero => exact h
  | succ fuel ih =>
    unfold updLimit
    grind only [!mergeUpd_wf]

theorem updFit_wf {k} (h : CoreWf k) (u) : CoreWf (updFit k u) := by
  unfold updFit
  exact List.foldlRecOn _ _ h fun k hk _ _ => l1Fit_wf hk _ _

theorem redUpdate_wf (h : memoriesWf s) (i a pa x tag) : memoriesWf (redUpdate s i a pa x tag).1 := by
  unfold redUpdate
  grind only [CoreWf, !coreAt_wf, !dirRoom_wf, !l1Drop_wf, !mergeUpd_wf, !modCore_wf, !recallStash_wf, !startRecall_wf, !updFit_wf, !updLimit_wf]

/-! ### Trace packets -/

theorem traceBytes_wf (h : memoriesWf s) (core d) : memoriesWf (traceBytes s core d) := by
  unfold traceBytes
  exact modCore_wf (physPost_wf (physPost_wf h _ _) _ _) _ fun _ h => h

theorem emit_wf (h : memoriesWf s) (core w ty payload) : memoriesWf (emit s core w ty payload) :=
  ite_wf h (traceBytes_wf (ite_wf (traceBytes_wf h _ _) h) _ _)

theorem emitSync_wf (h : memoriesWf s) (core w) : memoriesWf (emitSync s core w) := ite_wf (traceBytes_wf h _ _) h

theorem emitCur_wf (h : memoriesWf s) (ty payload) : memoriesWf (emitCur s ty payload) := emit_wf h _ _ _ _

/-! ### Blocks and warps: waiting, waking and ending -/

theorem releaseBlock_wf (h : memoriesWf s) (c bs b) : memoriesWf (releaseBlock s c bs b) := mapWarps_wf h _ _

theorem checkBar_wf (h : memoriesWf s) (c bs) : memoriesWf (checkBar s c bs) := ite_wf (releaseBlock_wf h _ _ _) h

theorem checkNbar_wf (h : memoriesWf s) (c bs id) : memoriesWf (checkNbar s c bs id) := by
  unfold checkNbar
  grind only [!blockAt_wf, !modBlock_wf, !releaseBlock_wf]

theorem checkCoreBar_wf (h : memoriesWf s) (c launch id) : memoriesWf (checkCoreBar s c launch id) := by
  unfold checkCoreBar
  grind only [CoreWf, !coreAt_wf, !mapWarps_wf, !modCore_wf]

theorem checkBarriers_wf (h : memoriesWf s) (c bs launch) : memoriesWf (checkBarriers s c bs launch) :=
  foldl_wf (fun _ _ h => checkCoreBar_wf h _ _ _) _ (foldl_wf (fun _ _ h => checkNbar_wf h _ _ _) _ (checkBar_wf h _ _))

theorem checkCbar_wf (h : memoriesWf s) (l n) : memoriesWf (checkCbar s l n) :=
  ite_wf (foldl_wf (fun _ _ h => mapWarps_wf h _ _) _ h) (ite_wf (foldl_wf (fun _ _ h => mapWarps_wf h _ _) _ h) h)

theorem imageOut_wf (h : memoriesWf s) (c slot) : memoriesWf (imageOut s c slot) := by
  unfold imageOut
  split
  · exact h
  · exact physPost_wf (physPost_wf h _ _) _ _

theorem imageRead_wf (h : memoriesWf s) (w) : memoriesWf (imageRead s w).1 := by
  unfold imageRead
  dsimp only
  split
  · next t e =>
    cases e1 : physWaits s (w.ctxBase.toNat + 0x800) (1024 * w.vgran) false with
    | some u => rw [e1] at e; cases e; exact physWaits_wf h _ _ _ _ e1
    | none => rw [e1] at e; exact physWaits_wf h _ _ _ _ e
  · split <;> exact of_fst (physRead_wf h _ _ _) (by assumption)

theorem setHandle_wf (h : memoriesWf s) (c bs x f) : memoriesWf (setHandle s c bs x f) := modBlock_wf h _ _ fun _ h => h

theorem handleFull_wf (h : memoriesWf s) (c bs x) : memoriesWf (handleFull s c bs x) := mapWarps_wf (setHandle_wf h _ _ _ _) _ _

theorem handleFree_wf (h : memoriesWf s) (c bs x) : memoriesWf (handleFree s c bs x) := mapWarps_wf (setHandle_wf h _ _ _ _) _ _

theorem retireFrom_wf (h : memoriesWf s) (c bs fuel) : memoriesWf (retireFrom s c bs fuel) := by
  induction fuel generalizing s with
  | zero => exact h
  | succ fuel ih =>
    unfold retireFrom
    grind only [!modBlock_wf]

theorem retireBatches_wf (h : memoriesWf s) (c bs) : memoriesWf (retireBatches s c bs) := retireFrom_wf h _ _ _

theorem dropCopy_wf (h : memoriesWf s) (c x) : memoriesWf (dropCopy s c x) := by
  have hk : memoriesWf (s.modCore c fun k => { k with copies := k.copies.filter fun y => y.no ≠ x.no }) :=
    modCore_wf h c fun _ hk => ⟨hk.1, fun y hy => hk.2 y (List.mem_filter.1 hy).1⟩
  exact dropPlaces_wf hk _

theorem failCopy_wf (h : memoriesWf s) (c x t) : memoriesWf (failCopy s c x t) := by
  unfold failCopy
  split
  · exact serveHeld_wf (launchRecord_wf (dropCopy_wf h _ _) _ _)
  · refine retireBatches_wf ?_ _ _
    refine modBlock_wf ?_ _ _ fun _ h => h
    split
    · exact handleFull_wf (setHandle_wf (serveHeld_wf (launchRecord_wf (dropCopy_wf h _ _) _ _)) _ _ _ _) _ _ _
    · exact serveHeld_wf (launchRecord_wf (dropCopy_wf h _ _) _ _)

theorem sumStalls_wf (h : memoriesWf s) (c w) : memoriesWf (sumStalls s c w) := modBlock_wf h _ _ fun _ h => h

theorem blockRecord_wf (h : memoriesWf s) (c b killed) : memoriesWf (blockRecord s c b killed) := ite_wf h h

theorem saveGens_wf (h : memoriesWf s) (c w) : memoriesWf (saveGens s c w) := modCore_wf h _ fun _ h => h

theorem leaveActive_wf (h : memoriesWf s) (c slot) : memoriesWf (leaveActive s c slot) := modCore_wf h _ fun _ h => h

theorem freeWarp_wf (h : memoriesWf s) (c w) : memoriesWf (freeWarp s c w) :=
  leaveActive_wf (removeWarp_wf (saveGens_wf (sumStalls_wf h _ _) _ _) _ _) _ _

theorem unmapStash_wf (h : memoriesWf s) (c st) : memoriesWf (unmapStash s c st) :=
  modCore_wf (foldl_wf (fun _ _ h => ite_wf (stashWriteBack_wf h _ _ _) h) _ h) _ fun _ h => h

theorem unlockAll_wf (h : memoriesWf s) (c key) : memoriesWf (unlockAll s c key) := by
  obtain ⟨hm, hh, hn, hc⟩ := memoriesWf_iff.1 h
  have hn' : NodesWf (s.fabric.nodes.map fun (n : Node) => { n with locks := n.locks.filter fun x => x.2 ≠ key }) := forall_map hn fun _ h => h
  have h1 : memoriesWf { s with
      home := { s.home with locks := s.home.locks.filter fun x => x.2 ≠ key }
      fabric := { s.fabric with nodes := s.fabric.nodes.map fun (n : Node) => { n with locks := n.locks.filter fun x => x.2 ≠ key } } } :=
    memoriesWf_iff.2 ⟨hm, hh, hn', hc⟩
  exact serveHeld_wf (modCore_wf h1 c fun _ hk => hk)

theorem endCopies_wf (h : memoriesWf s) (c bs) : memoriesWf (endCopies s c bs) := by
  have hl (x : Memory × Nat) (hx : x = match s.blockAt c bs with | some b => (b.local_, b.lsBytes) | none => ([], 0)) : x.1.wf = true := by
    split at hx
    · exact hx ▸ blockAt_wf h (by assumption)
    · exact hx ▸ rfl
  unfold endCopies
  split
  next l n hx =>
  refine foldl_wf (fun s x h => ?_) _ h
  refine ite_wf ?_ (ite_wf ?_ h)
  · have h1 : memoriesWf (if x.2.deliv < x.2.len then s.modCore c fun y => { y with dropret := y.dropret + 1 } else s) :=
      ite_wf (modCore_wf h c fun _ hk => hk) h
    exact ite_wf (serveHeld_wf (dropCopy_wf h1 _ _)) (failCopy_wf h1 _ _ _)
  · refine modCore_wf h _ fun _ hk => ⟨hk.1, forall_map hk.2 fun y hy => ?_⟩
    split
    · exact hl (l, n) hx.symm
    · exact hy

theorem endJobs_wf (h : memoriesWf s) (c w) : memoriesWf (endJobs s c w) := modCore_wf h _ fun _ h => h

theorem endStreams_wf (h : memoriesWf s) (c bs launch) : memoriesWf (endStreams s c bs launch) := modLaunch_wf h _ _

theorem dropFromBarriers_wf (h : memoriesWf s) (c launch) : memoriesWf (dropFromBarriers s c launch) := modCore_wf h _ fun _ h => h

theorem endBlock_wf (h : memoriesWf s) (c b killed) : memoriesWf (endBlock s c b killed) := by
  have slot (s : State) (h : memoriesWf s) : memoriesWf (s.modCore c fun k => { k with
      blocks := k.blocks.filter fun x => x.bslot ≠ b.bslot, genLSs := assocSet b.bslot (b.genLS + 1) k.genLSs }) :=
    modCore_wf h c fun _ hk => ⟨fun x hx => hk.1 x (List.mem_filter.1 hx).1, hk.2⟩
  have due (s : State) (h : memoriesWf s) : memoriesWf { s with placeDue := true } := h
  unfold endBlock
  extract_lets s1 s2 s3 s4 s5 s6 s7 s8 s9 s10 s11 s12 s13
  have h1 : memoriesWf s1 := foldl_wf (fun _ _ h => unmapStash_wf h _ _) _ h
  have h2 : memoriesWf s2 := endCopies_wf h1 c b.bslot
  have h3 : memoriesWf s3 := ite_wf (foldl_wf (fun _ _ h => endJobs_wf h _ _) _ h2) h2
  have h4 : memoriesWf s4 := unlockAll_wf h3 _ _
  have h5 : memoriesWf s5 := dropFromBarriers_wf h4 _ _
  have h6 : memoriesWf s6 := endStreams_wf h5 _ _ _
  have h7 : memoriesWf s7 := foldl_wf (fun _ _ h => freeWarp_wf h _ _) _ h6
  have h8 : memoriesWf s8 := by
    unfold s8
    split
    · exact blockRecord_wf h7 _ _ _
    · exact h7
  have h9 : memoriesWf s9 := slot _ h8
  have h10 : memoriesWf s10 := modLaunch_wf h9 _ _
  have h11 : memoriesWf s11 := dropBlockPlaces_wf h10 _ _
  have h12 : memoriesWf s12 := foldl_wf (fun _ _ h => checkCoreBar_wf h _ _ _) _ h11
  have h13 : memoriesWf s13 := by
    unfold s13
    split
    · exact checkCbar_wf h12 _ _
    · exact h12
  exact due _ h13

theorem killBlock_wf (h : memoriesWf s) (c b r) : memoriesWf (killBlock s c b r) := launchRecord_wf (endBlock_wf h _ _ _) _ _

theorem killLaunch_wf (h : memoriesWf s) (id sub) : memoriesWf (killLaunch s id sub) :=
  foldl_wf (fun _ _ h => killBlock_wf h _ _ _) _ (modLaunch_wf h _ _)

theorem afterExit_wf (h : memoriesWf s) (c w) : memoriesWf (afterExit s c w) := by
  unfold afterExit
  grind only [!checkBarriers_wf, !checkCbar_wf, !modBlock_wf]

theorem warpEnd_wf (h : memoriesWf s) (c w) : memoriesWf (warpEnd s c w) := by
  unfold warpEnd
  dsimp only
  refine ite_wf h ?_
  split
  · exact ite_wf (endBlock_wf (by exact with_wf (freeWarp_wf h _ _) rfl) _ _ _) (with_wf (freeWarp_wf h _ _) rfl)
  · exact with_wf (freeWarp_wf h _ _) rfl

/-! ### Traps and how a group is performed -/

theorem killCur_wf (h : memoriesWf s) (t pc inpatch opidx) : memoriesWf (killCur s t pc inpatch opidx) := by
  unfold killCur
  split
  · exact killBlock_wf (ite_wf (by exact with_wf h rfl) h) _ _ _
  · exact h

theorem enterHandler_wf (h : memoriesWf s) (t pc exec entry sys inpatch opidx) : memoriesWf (enterHandler s t pc exec entry sys inpatch opidx) :=
  emitCur_wf (by exact h) _ _

theorem dispatchTrap_wf (h : memoriesWf s) (t pc exec handlerOnly inpatch opidx) : memoriesWf (dispatchTrap s t pc exec handlerOnly inpatch opidx) :=
  ite_wf (killCur_wf h _ _ _ _) (ite_wf (enterHandler_wf h _ _ _ _ _ _ _) (ite_wf (killCur_wf h _ _ _ _) (enterHandler_wf h _ _ _ _ _ _ _)))

theorem endGroup_wf (h : memoriesWf s) (g) : memoriesWf (endGroup g s) := by
  unfold endGroup
  dsimp only
  split <;> exact h

theorem takeTrapAt_wf (h : memoriesWf s) (t pc after) : memoriesWf (takeTrapAt s t pc after) := by
  have h1 : memoriesWf (if s.cur.parked.isSome then (match s.curBlock with | some b => dropBlockPlaces s s.core.id b | none => s) else s) := by
    grind only [!dropBlockPlaces_wf]
  unfold takeTrapAt
  generalize (if s.cur.parked.isSome then (match s.curBlock with | some b => dropBlockPlaces s s.core.id b | none => s) else s) = s1 at h1 ⊢
  grind only [memoriesWf_iff, !endGroup_wf, !launchRecord_wf, !emitCur_wf, !dispatchTrap_wf]

theorem takeTrap_wf (h : memoriesWf s) (t) : memoriesWf (takeTrap s t) := takeTrapAt_wf h _ _ _

theorem takeUnserviced_wf (h : memoriesWf s) (t) : memoriesWf (takeUnserviced s t) := dispatchTrap_wf h _ _ _ _ _ _

theorem runRepsFrom_wf {one} (hone : ∀ i s, memoriesWf s → memoriesWf (one i s).1) (h : memoriesWf s) (n i) :
    memoriesWf (runRepsFrom one n i s).1 := by
  induction n generalizing s i with
  | zero => exact h
  | succ n ih =>
    unfold runRepsFrom
    have := hone i s h
    grind only [memoriesWf_iff]

theorem runReps_wf (g) {one} (hone : ∀ i s, memoriesWf s → memoriesWf (one i s).1) (h : memoriesWf s) : memoriesWf (runReps g one s).1 :=
  runRepsFrom_wf hone h _ _

theorem ending_wf (g) {r} (h : memoriesWf r.1) : memoriesWf (ending g r).1 := by
  unfold ending
  split
  · exact endGroup_wf h _
  · exact h

theorem runWarp_wf (h : memoriesWf s) (g f) : memoriesWf (runWarp g f s).1 := by
  unfold runWarp
  split
  · exact h
  · split <;> exact h

theorem warpLevel_wf (g chk) {one} (hone : ∀ i s, memoriesWf s → memoriesWf (one i s).1) (h : memoriesWf s) :
    memoriesWf (warpLevel g chk one s).1 := by
  unfold warpLevel
  split
  · exact h
  · exact ending_wf _ (ite_fst_wf h (runReps_wf _ hone h))

theorem afterGroup_wf (h : memoriesWf s) (i) : memoriesWf (afterGroup i s) := ite_wf h h

theorem perform_wf (i) {body} (hbody : ∀ s, memoriesWf s → memoriesWf (body s).1) (h : memoriesWf s) :
    NextWf (perform i body s) := by
  unfold perform
  split
  · exact next_wf h
  · have hb (s : State) (h : memoriesWf s) (a b : Bool) (x y : Trap) :
        memoriesWf (if a then (s, Perf.trap x) else if b then (s, Perf.trap y) else body s).1 :=
      ite_fst_wf h (ite_fst_wf h (hbody s h))
    have h0 : memoriesWf (if s.cur.inMicro then { s with cur := { s.cur with wait := .none } }
        else { s with cur := { s.cur with wait := .none, base := some (encodeBase i), grp := i.grp } }) :=
      ite_wf h h
    intro t e
    dsimp only at e
    split at e <;> cases e <;> apply pumpRecords_wf
    all_goals have h1 := of_fst (hb _ h0 _ _ _ _) (by assumption)
    · exact afterGroup_wf h1 _
    · exact h1
    · exact h1
    · split
      · exact h1
      · exact takeTrap_wf h1 _
    · exact takeTrapAt_wf h1 _ _ _

theorem focus_wf (h : memoriesWf s) (c slot) : memoriesWf (s.focus c slot) := by
  obtain ⟨hm, hh, hn, hk, hks⟩ := memoriesWf_iff.1 h
  have hk' : CoreWf (if s.cur.present then { s.core with warps := putBy (fun x => x.slot = s.cur.slot) s.cur s.core.warps } else s.core) := by
    split <;> exact hk
  unfold State.focus
  refine ite_wf h ?_
  split
  · exact h
  · refine ite_wf (memoriesWf_iff.2 ⟨hm, hh, hn, hk', hks⟩) (memoriesWf_iff.2 ⟨hm, hh, hn, coreAt_wf h c, fun x hx => ?_⟩)
    rcases List.mem_append.1 hx with hx | hx
    · exact hks x (List.mem_filter.1 hx).1
    · exact List.mem_singleton.1 hx ▸ hk'

theorem landV_wf (h : memoriesWf s) (reg l x) : memoriesWf (landV s reg l x) := ite_wf (pushReturn_wf h _ _) h

theorem landVec_wf (h : memoriesWf s) (reg m x) : memoriesWf (landVec s reg m x) :=
  ite_wf (foldl_wf (fun _ _ h => landV_wf h _ _ _) _ h) h

theorem landS_wf (h : memoriesWf s) (reg x) : memoriesWf (landS s reg x) := ite_wf (pushReturn_wf h _ _) h

theorem newTag_wf (h : memoriesWf s) : memoriesWf (newTag s).1 := by
  unfold newTag
  grind only [CoreWf, memoriesWf_iff]

theorem settlePromotions_wf (h : memoriesWf s) (m) : memoriesWf (settlePromotions s m) := by
  unfold settlePromotions
  grind only [CoreWf, memoriesWf_iff]

theorem acquire_wf (h : memoriesWf s) (m d) : memoriesWf (acquire s m d) := by
  unfold acquire
  grind only [memoriesWf_iff, !l1Acquire_wf, !settlePromotions_wf]

theorem markLanes_wf (h : memoriesWf s) (l) : memoriesWf (markLanes s l).1 := by
  induction l generalizing s with
  | nil => exact h
  | cons x r ih =>
    unfold markLanes
    grind only [!markDirty_wf]

theorem checkEach_wf (h : memoriesWf s) {α : Type} (l : List (Fin 32 × α)) {chk}
    (hchk : ∀ s l x, memoriesWf s → memoriesWf (chk s l x).1) : memoriesWf (checkEach s l chk).1 := by
  unfold checkEach
  exact foldl_fst_wf (fun p x h => hchk p.1 x.1 x.2 h) l (p := (s, [])) h

theorem checkLanes_wf (h : memoriesWf s) (l) {chk} (hchk : ∀ s l, memoriesWf s → memoriesWf (chk s l).1) :
    memoriesWf (checkLanes s l chk).1 := by
  unfold checkLanes
  have := checkEach_wf h (l.map fun l => (l, ())) (chk := fun s l _ => chk s l) fun s l _ => hchk s l
  grind only [!markLanes_wf]

theorem checkLane_wf (h : memoriesWf s) (l va size align k wide more) : memoriesWf (checkLane s l va size align k wide more).1 := by
  unfold checkLane
  split <;> exact of_fst (resolve_wf h _ _ _ _ _ _ _ _) (by assumption)

/-! ### Copy engines -/

theorem acceptCopy_wf (h : memoriesWf s) (b kind dst src w0 w1 p) : memoriesWf (acceptCopy s b kind dst src w0 w1 p) := by
  obtain ⟨hm, hh, hn, hk, hks⟩ := memoriesWf_iff.1 h
  have h1 (c : Copy) (hc : c.snap = []) :
      memoriesWf { s with core := { s.core with copies := s.core.copies ++ [c], copyNo := s.core.copyNo + 1 } } := by
    refine memoriesWf_iff.2 ⟨hm, hh, hn, ⟨hk.1, fun x hx => ?_⟩, hks⟩
    rcases List.mem_append.1 hx with hx | hx
    · exact hk.2 x hx
    · rw [List.mem_singleton.1 hx, hc]; rfl
  have h2 (s : State) (h : memoriesWf s) (n : Nat) : memoriesWf (s.modBlock n b.bslot fun b => { b with openUsed := true }) :=
    modBlock_wf h _ _ fun _ hb => hb
  unfold acceptCopy
  dsimp only
  split
  · exact setHandle_wf (h2 _ (h1 _ rfl) _) _ _ _ _
  · exact h2 _ (h1 _ rfl) _

theorem issueCopy_wf (h : memoriesWf s) (kind dst src k) : memoriesWf (issueCopy kind dst src k s).1 := by
  unfold issueCopy
  grind only [memoriesWf_iff, !acceptCopy_wf, !setHandle_wf]

theorem copyBody_wf {x} (h : memoriesWf x) (gr kind d a b) : memoriesWf (copyBody gr kind d a b x).1 :=
  warpLevel_wf _ _ (fun _ _ h => issueCopy_wf h _ _ _ _) h

theorem execAcopy_wf (h : memoriesWf s) (gr d a b) : NextWf (execAcopy gr d a b s) :=
  perform_wf _ (fun _ h => copyBody_wf h _ _ _ _ _) h

theorem execAxform_wf (h : memoriesWf s) (gr d a b) : NextWf (execAxform gr d a b s) :=
  perform_wf _ (fun _ h => copyBody_wf h _ _ _ _ _) h

theorem execAgather_wf (h : memoriesWf s) (gr d a b) : NextWf (execAgather gr d a b s) :=
  perform_wf _ (fun _ h => copyBody_wf h _ _ _ _ _) h

theorem closeBatch_wf (h : memoriesWf s) (b) : memoriesWf (closeBatch s b) := by
  unfold closeBatch
  grind only [!modBlock_wf, !retireBatches_wf]

theorem execBclose_wf (h : memoriesWf s) (gr) : NextWf (execBclose gr s) := by
  unfold execBclose
  refine perform_wf _ (fun _ h => ?_) h
  split
  · exact endGroup_wf h _
  · exact ite_fst_wf h (endGroup_wf (closeBatch_wf h _) _)

theorem execWaitb_wf (h : memoriesWf s) (gr n) : NextWf (execWaitb gr n s) := by
  refine perform_wf _ (fun s h => ?_) h
  split
  · exact endGroup_wf h _
  · extract_lets closed t b v
    have ht : memoriesWf t := ite_wf h (closeBatch_wf h _)
    have hv : memoriesWf v := ht
    refine ite_fst_wf h (ite_fst_wf ht ?_)
    split
    · exact modBlock_wf hv _ _ fun _ hb => hb
    · exact endGroup_wf hv _

theorem execHwaitFull_wf (h : memoriesWf s) (gr x) : NextWf (execHwaitFull gr x s) := by
  unfold execHwaitFull
  refine perform_wf _ (fun _ h => ?_) h
  split
  · exact endGroup_wf h _
  · refine ite_fst_wf ?_ (setHandle_wf h _ _ _ _)
    split
    · exact h
    · exact endGroup_wf h _

theorem execHwaitFree_wf (h : memoriesWf s) (gr x) : NextWf (execHwaitFree gr x s) := by
  unfold execHwaitFree
  refine perform_wf _ (fun _ h => ?_) h
  split
  · exact endGroup_wf h _
  · exact ite_fst_wf (endGroup_wf h _) (setHandle_wf h _ _ _ _)

theorem execHsetDrain_wf (h : memoriesWf s) (gr x) : NextWf (execHsetDrain gr x s) := by
  unfold execHsetDrain
  refine perform_wf _ (fun _ h => ?_) h
  split
  · exact endGroup_wf h _
  · refine ite_fst_wf (endGroup_wf h _) ?_
    split
    · exact h
    · exact setHandle_wf h _ _ _ _
    · exact endGroup_wf (setHandle_wf h _ _ _ _) _

theorem execHsetFree_wf (h : memoriesWf s) (gr x) : NextWf (execHsetFree gr x s) := by
  unfold execHsetFree
  refine perform_wf _ (fun _ h => ?_) h
  split
  · exact endGroup_wf h _
  · refine ite_fst_wf h ?_
    split
    · exact endGroup_wf h _
    · exact h
    · exact handleFree_wf (endGroup_wf (setHandle_wf h _ _ _ _) _) _ _ _

theorem execWptr_wf (h : memoriesWf s) (gr d x) : NextWf (execWptr gr d x s) := by
  unfold execWptr
  dsimp only
  refine perform_wf _ (fun _ h => warpLevel_wf _ _ (fun _ _ h => ?_) h) h
  split
  · exact h
  · exact landS_wf h _ _

theorem engRead_wf (h : memoriesWf s) (x i va n snap) : memoriesWf (engRead s x i va n snap).1 := by
  unfold engRead
  grind only [!loadAcc_wf, !localRead_wf, !translate_wf]

theorem engWrite_wf (h : memoriesWf s) (x i lines va d) : memoriesWf (engWrite s x i lines va d).1 := by
  unfold engWrite
  refine ite_fst_wf ?_ ?_
  · split
    · exact localWrite_wf h _ _ _ _
    · exact h
    · exact h
    · exact h
  · split
    · exact of_fst (translate_wf h _ _ _ _) (by assumption)
    · have h1 := of_fst (translate_wf h _ _ _ _) (by assumption)
      split
      · exact storeAcc_wf h1 _ _ _ _
      · refine ite_fst_wf h1 (ite_fst_wf h1 ?_)
        split
        · split
          · exact tagLine_wf (of_fst (mergeGran_wf h1 _ _ _) (by assumption)) _ _ _ _
          · exact of_fst (mergeGran_wf h1 _ _ _) (by assumption)
        · split
          · exact h1
          · exact setNode_wf (dropProxy_wf h1 _) (put_wf (nodeOf_wf h1 _) _ _)
        · exact h1

theorem engOwn_wf (h : memoriesWf s) (x i va) : memoriesWf (engOwn s x i va).1 := by
  unfold engOwn
  split
  · exact of_fst (translate_wf h _ _ _ _) (by assumption)
  · have h1 := of_fst (translate_wf h _ _ _ _) (by assumption)
    split
    · exact of_fst (markDirty_wf h1 _ _) (by assumption)
    · have h2 := of_fst (markDirty_wf h1 _ _) (by assumption)
      split
      · exact h2
      · dsimp only
        split
        · exact h2
        · split
          · exact of_fst (claim_wf h2 _) (by assumption)
          · have h3 := of_fst (claim_wf h2 _) (by assumption)
            exact modCore_wf (ite_wf (recallLine_wf h3 _ _) (dropProxy_wf h3 _)) _ fun _ hk => l1Drop_wf hk _

theorem takeLines_wf (h : memoriesWf s) (x i got l) : memoriesWf (takeLines s x i got l).1 := by
  induction l generalizing s got with
  | nil => exact h
  | cons a r ih =>
    unfold takeLines
    refine ite_fst_wf (ih h _) ?_
    split <;> have h1 := of_fst (engOwn_wf h _ _ _) (by assumption)
    · exact ih h1 _
    · exact ih h1 _
    · exact h1
    · exact h1
    · exact h1

theorem setCopy_wf (h : memoriesWf s) (c old) {new} (hnew : new.snap.wf = true) : memoriesWf (setCopy s c old new) := by
  refine modCore_wf h c fun _ hk => ⟨hk.1, forall_map hk.2 fun y hy => ?_⟩
  split
  · exact hnew
  · exact hy

theorem suspendCopy_wf (h : memoriesWf s) (c) {x} (hx : x.snap.wf = true) (t) : memoriesWf (suspendCopy s c x t) := by
  have hs := setCopy_wf h c x (new := { x with status := .queueFull t }) hx
  exact pumpRecords_wf (launchRecord_wf hs _ _)

theorem chanHead_wf (h : memoriesWf s) (c chan) : ∀ x, chanHead s c chan = some x → x.snap.wf = true := by
  intro x e
  have hx := List.mem_of_mem_head? e
  unfold chanCopies at hx
  exact (coreAt_wf h c).2 x (List.mem_filter.1 hx).1

theorem ownStep_wf (h : memoriesWf s) (c chan) : SomeWf (ownStep s c chan) := by
  unfold ownStep
  intro u e
  split at e
  · cases e
  · next x hx =>
    have hs := chanHead_wf h _ _ _ hx
    split at e
    · cases e
    · dsimp only at e
      split at e <;> have h1 := of_fst (takeLines_wf h _ _ _ _) (by assumption)
      · cases e; exact setCopy_wf h1 _ _ (by exact hs)
      · split at e
        · exact keepRecalls_wf h _ _ e
        · cases e; exact setCopy_wf h1 _ _ (by exact hs)
      · next l t _ =>
        cases e
        have hy : ({ x with lines := l } : Copy).snap.wf = true := hs
        exact suspendCopy_wf (setCopy_wf h1 _ _ hy) _ hy _
      · cases e; exact failCopy_wf (setCopy_wf h1 _ _ (by exact hs)) _ _ _

theorem engWatch_wf (h : memoriesWf s) (launch done va n write r) : memoriesWf (engWatch s launch done va n write r).1 :=
  ite_fst_wf h (foldl_fst_wf (fun _ _ h => ite_fst_wf h (launchRecord_wf h _ _)) _ h)

theorem gatherIndexRead_wf (h : memoriesWf s) (c x n) : memoriesWf (gatherIndex.read c x n s).1 := by
  unfold gatherIndex.read
  split
  · exact localRead_wf h _ _ _ _
  · exact h

theorem gatherIndex_wf (h : memoriesWf s) (c x n) : memoriesWf (gatherIndex s c x n).1 := by
  unfold gatherIndex
  split
  · exact ite_fst_wf h (gatherIndexRead_wf h _ _ _)
  · exact gatherIndexRead_wf h _ _ _

theorem pieceSource_wf (h : memoriesWf s) (c) (x) (p) :
    memoriesWf (pieceSource s c x p).1 ∧ (pieceSource s c x p).2.1.snap = x.snap := by
  unfold pieceSource
  split
  · exact ⟨h, rfl⟩
  · exact ⟨h, rfl⟩
  · split <;> exact ⟨of_fst (gatherIndex_wf h _ _ _) (by assumption), rfl⟩

theorem readPieces_wf (h : memoriesWf s) (c x l) : memoriesWf (readPieces s c x l).1 := by
  induction l generalizing s x with
  | nil => exact h
  | cons p r ih =>
    have hp := (pieceSource_wf h c x p).1
    unfold readPieces
    split <;> have h1 := of_fst hp (by assumption)
    · split
      · exact of_fst (ih h1 _) (by assumption)
      · exact ih h1 _
    · split
      · have h2 := engWatch_wf (of_fst (engRead_wf h1 _ _ _ _ _) (by assumption))
        dsimp only
        split
        · exact of_fst (ih (h2 _ _ _ _ _ _) _) (by assumption)
        · exact ih (h2 _ _ _ _ _ _) _
      · exact of_fst (engRead_wf h1 _ _ _ _ _) (by assumption)
      · exact of_fst (engRead_wf h1 _ _ _ _ _) (by assumption)
      · exact of_fst (engRead_wf h1 _ _ _ _ _) (by assumption)
    · exact h1
    · exact h1
    · exact h1

theorem finishCopy_wf (h : memoriesWf s) (c x) : memoriesWf (finishCopy s c x) := by
  unfold finishCopy
  split
  · exact serveHeld_wf (dropCopy_wf h _ _)
  · refine retireBatches_wf ?_ _ _
    split
    · exact handleFull_wf (setHandle_wf (serveHeld_wf (dropCopy_wf h _ _)) _ _ _ _) _ _ _
    · exact serveHeld_wf (dropCopy_wf h _ _)

theorem deliverStep_wf (h : memoriesWf s) (c chan) : SomeWf (deliverStep s c chan) := by
  unfold deliverStep
  intro u e
  split at e
  · cases e
  · next x hx =>
    have hs := chanHead_wf h _ _ _ hx
    split at e
    · cases e
    · split at e
      · cases e; exact finishCopy_wf h _ _
      · dsimp only at e
        split at e <;> have h1 := of_fst (readPieces_wf h _ _ _) (by assumption)
        · exact keepRecalls_wf h _ _ e
        · next y t _ =>
          cases e
          have hy : ({ x with watched := y.watched } : Copy).snap.wf = true := hs
          exact suspendCopy_wf (setCopy_wf h1 _ _ hy) _ hy _
        · cases e; exact failCopy_wf h1 _ _ _
        · next z d _ =>
          split at e <;> have h2 := of_fst (engWrite_wf h1 _ _ _ _ _) (by assumption)
          · exact keepRecalls_wf h _ _ e
          · cases e; exact setCopy_wf h2 _ _ (by exact hs)
          · cases e
            have hy : ({ x with watched := z.watched } : Copy).snap.wf = true := hs
            exact suspendCopy_wf (setCopy_wf h2 _ _ hy) _ hy _
          · cases e; exact failCopy_wf h2 _ _ _
          · obtain rfl := Option.some.inj e
            refine ite_wf (finishCopy_wf (serveHeld_wf ?_) _ _) (serveHeld_wf ?_) <;> split
            · exact setHandle_wf (setCopy_wf (engWatch_wf h2 _ _ _ _ _ _) _ _ (by exact hs)) _ _ _ _
            · exact setCopy_wf (engWatch_wf h2 _ _ _ _ _ _) _ _ (by exact hs)
            · exact setHandle_wf (setCopy_wf (engWatch_wf h2 _ _ _ _ _ _) _ _ (by exact hs)) _ _ _ _
            · exact setCopy_wf (engWatch_wf h2 _ _ _ _ _ _) _ _ (by exact hs)

theorem execCopyAccepted_wf (h : memoriesWf s) (core slot) : NextWf (execCopyAccepted core slot s) := by
  have hf := focus_wf h core slot
  unfold execCopyAccepted
  intro u e
  dsimp only at e
  split at e
  · cases e; exact hf
  · split at e
    · exact execAcopy_wf (by exact hf) _ _ _ _ u e
    · exact execAxform_wf (by exact hf) _ _ _ _ u e
    · exact execAgather_wf (by exact hf) _ _ _ _ u e
    · cases e; exact hf

/-! ### Memory instructions -/

theorem sweepFrom_wf {α : Type} {one : State → Fin 32 → Machine.Acc → State × Done α}
    (hone : ∀ s l a, memoriesWf s → memoriesWf (one s l a).1) (h : memoriesWf s) (l r) : memoriesWf (sweepFrom one l s r).1 := by
  induction l generalizing s r with
  | nil => exact h
  | cons x rest ih =>
    unfold sweepFrom
    have := hone s x.1 x.2 h
    grind only []

theorem remember_wf (h : memoriesWf s) (ls) : memoriesWf (remember s ls) := h

theorem dropLate_wf (h : memoriesWf s) : memoriesWf (dropLate s) := h

theorem settle_wf {α : Type} {r : State × Swept α} (h : memoriesWf r.1) (val redo keep) {k}
    (hk : ∀ s vs, memoriesWf s → memoriesWf (k s vs).1) : memoriesWf (settle r val redo keep k).1 := by
  unfold settle
  refine ite_fst_wf (ite_wf h (remember_wf h _)) ?_
  split
  · exact hk _ _ h
  · exact ite_wf h (remember_wf (dropLate_wf h) _)

theorem onceLane_wf (h : memoriesWf s) (l) {go} (hgo : ∀ s, memoriesWf s → memoriesWf (go s).1) : memoriesWf (onceLane s l go).1 := by
  unfold onceLane
  refine ite_fst_wf h ?_
  split
  · exact h
  · exact hgo _ h

theorem touchAll_wf (h : memoriesWf s) (as) : memoriesWf (touchAll s as) := by
  unfold touchAll
  grind only [memoriesWf_iff, !foldl_wf, !foldl_fst_wf]

theorem giveTokens_wf (h : memoriesWf s) (l tok dr) : memoriesWf (giveTokens s l tok dr) := ite_wf h h

theorem tagged_wf (h : memoriesWf s) {α : Type} (on) {f : State → Option (BitVec 16) → State × Done α}
    (hf : ∀ s e, memoriesWf s → memoriesWf (f s e).1) : memoriesWf (tagged s on f).1 := by
  unfold tagged
  refine ite_fst_wf (hf s none h) (ite_fst_wf h ?_)
  dsimp only
  have h1 := hf _ (some (newTag s).2) (newTag_wf h)
  split
  · next x e =>
    have h2 := of_fst h1 e
    obtain ⟨hm, hh, hn, hk, hks⟩ := memoriesWf_iff.1 h2
    exact ite_wf h2 (memoriesWf_iff.2 ⟨hm, hh, hn, hk, hks⟩)
  · exact h1

theorem landWords_wf (h : memoriesWf s) (reg l ws) : memoriesWf (landWords s reg l ws) := foldl_wf (fun _ _ h => landV_wf h _ _ _) _ h

theorem landOld_wf (h : memoriesWf s) (reg n l x) : memoriesWf (landOld s reg n l x) := landWords_wf h _ _ _

theorem loadLanes_wf (h : memoriesWf s) (fresh cpol l) : memoriesWf (loadLanes fresh cpol l s).1 := by
  unfold loadLanes
  refine sweepFrom_wf (fun s l a h => ?_) h _ _
  grind only [!loadAcc_wf, !giveTokens_wf]

theorem loadRep_wf (h : memoriesWf s) (g reg t fresh o) {chk} (hchk : ∀ s l, memoriesWf s → memoriesWf (chk s l).1) :
    memoriesWf (loadRep g reg t fresh o chk s).1 := by
  unfold loadRep
  have := checkLanes_wf h (lanesOf (s.cur.active g)) hchk
  grind only [!settle_wf, !loadLanes_wf, !foldl_wf, !touchAll_wf, !landWords_wf, !acquire_wf]

theorem storeRep_wf (h : memoriesWf s) (g reg t o) {chk} (hchk : ∀ s l, memoriesWf s → memoriesWf (chk s l).1) :
    memoriesWf (storeRep g reg t o chk s).1 := by
  unfold storeRep
  dsimp only
  split
  · exact of_fst (checkLanes_wf h _ hchk) (by assumption)
  · have h1 := of_fst (checkLanes_wf h _ hchk) (by assumption)
    split
    · exact h1
    · exact h1
    · refine settle_wf (sweepFrom_wf (fun s l a h => ?_) h1 _ _) _ _ _ fun s vs h => touchAll_wf h _
      exact ite_fst_wf h (tagged_wf h _ fun s e h => storeAcc_wf h _ _ _ _)

theorem execLd_wf (h : memoriesWf s) (gr v b i t f o) : NextWf (execLd gr v b i t f o s) := by
  unfold execLd
  refine perform_wf _ (fun _ h => ?_) h
  split
  · exact h
  · exact ending_wf _ (runReps_wf _ (fun _ _ h => loadRep_wf h _ _ _ _ _ fun _ _ h => checkLane_wf h _ _ _ _ _ _ _) h)

theorem execSt_wf (h : memoriesWf s) (gr v b i t o) : NextWf (execSt gr v b i t o s) := by
  unfold execSt
  refine perform_wf _ (fun _ h => ?_) h
  split
  · exact h
  · exact ending_wf _ (runReps_wf _ (fun _ _ h => storeRep_wf h _ _ _ _ fun _ _ h => checkLane_wf h _ _ _ _ _ _ _) h)

theorem checkOwn_wf (h : memoriesWf s) (l va n) : memoriesWf (checkOwn s l va n).1 := by
  unfold checkOwn
  split
  · exact h
  · exact ite_fst_wf h (checkLane_wf h _ _ _ _ _ _ _)

theorem execLdl_wf (h : memoriesWf s) (gr v b i t w o) : NextWf (execLdl gr v b i t w o s) := by
  unfold execLdl
  refine perform_wf _ (fun _ h => ?_) h
  split
  · exact h
  · exact ending_wf _ (runReps_wf _ (fun _ _ h => loadRep_wf h _ _ _ _ _ fun _ _ h => checkLane_wf h _ _ _ _ _ _ _) h)

theorem execStl_wf (h : memoriesWf s) (gr v b i t w o) : NextWf (execStl gr v b i t w o s) := by
  unfold execStl
  refine perform_wf _ (fun _ h => ?_) h
  split
  · exact h
  · exact ending_wf _ (runReps_wf _ (fun _ _ h => storeRep_wf h _ _ _ _ fun _ _ h => checkLane_wf h _ _ _ _ _ _ _) h)

theorem checkPrivate_wf (h : memoriesWf s) (l scr p t k) : memoriesWf (checkPrivate s l scr p t k).1 :=
  ite_fst_wf (ite_fst_wf h (ite_fst_wf h h)) (privAcc_wf h _ _ _ _ _ _ _ _)

theorem execLdp_wf (h : memoriesWf s) (gr v b i t x) : NextWf (execLdp gr v b i t x s) := by
  unfold execLdp
  refine perform_wf _ (fun _ h => ?_) h
  split
  · exact h
  · refine ending_wf _ (runReps_wf _ (fun _ _ h => ?_) h)
    refine ite_fst_wf ?_ (loadRep_wf h _ _ _ _ _ fun _ _ h => checkPrivate_wf h _ _ _ _ _)
    split
    · exact of_fst (checkLanes_wf h _ fun _ _ h => checkPrivate_wf h _ _ _ _ _) (by assumption)
    · exact foldl_wf (fun _ _ h => landWords_wf h _ _ _) _ (of_fst (checkLanes_wf h _ fun _ _ h => checkPrivate_wf h _ _ _ _ _)
        (by assumption))

theorem execStp_wf (h : memoriesWf s) (gr v b i t x) : NextWf (execStp gr v b i t x s) := by
  unfold execStp
  refine perform_wf _ (fun _ h => ?_) h
  split
  · exact h
  · refine ending_wf _ (runReps_wf _ (fun _ _ h => ?_) h)
    refine ite_fst_wf ?_ (storeRep_wf h _ _ _ _ fun _ _ h => checkPrivate_wf h _ _ _ _ _)
    split
    · exact of_fst (checkLanes_wf h _ fun _ _ h => checkPrivate_wf h _ _ _ _ _) (by assumption)
    · exact foldl_wf (fun _ _ h => by exact h) _ (of_fst (checkLanes_wf h _ fun _ _ h => checkPrivate_wf h _ _ _ _ _) (by assumption))

theorem execLdu_wf (h : memoriesWf s) (gr v b t f o) : NextWf (execLdu gr v b t f o s) := by
  unfold execLdu
  dsimp only
  refine perform_wf _ (fun _ h => warpLevel_wf _ _ (fun _ _ h => ?_) h) h
  split
  · exact of_fst (checkLanes_wf h _ fun _ _ h => checkLane_wf h _ _ _ _ _ _ _) (by assumption)
  · exact settle_wf (loadLanes_wf (of_fst (checkLanes_wf h _ fun _ _ h => checkLane_wf h _ _ _ _ _ _ _) (by assumption)) _ _ _) _ _ _
      (fun _ _ h => ite_wf (acquire_wf (foldl_wf (fun _ _ h => foldl_wf (fun _ _ h => landS_wf h _ _) _ h) _ (touchAll_wf h _)) _ _)
        (foldl_wf (fun _ _ h => foldl_wf (fun _ _ h => landS_wf h _ _) _ h) _ (touchAll_wf h _)))

theorem execStu_wf (h : memoriesWf s) (gr v b t o) : NextWf (execStu gr v b t o s) := by
  refine perform_wf _ (fun s h => warpLevel_wf _ _ (fun k s h => ?_) h) h
  dsimp only
  split
  · exact of_fst (checkLanes_wf h _ fun _ _ h => checkLane_wf h _ _ _ _ _ _ _) (by assumption)
  · have h1 := of_fst (checkLanes_wf h _ fun _ _ h => checkLane_wf h _ _ _ _ _ _ _) (by assumption)
    split
    · exact h1
    · exact h1
    · exact settle_wf (sweepFrom_wf (fun _ _ _ h => tagged_wf h _ fun _ _ h => storeAcc_wf h _ _ _ _) h1 _ _) _ _ _ fun _ _ h => touchAll_wf h _

theorem rmwRep_wf (h : memoriesWf s) (g reg size o op) {fin chk} (hfin : ∀ s, memoriesWf s → memoriesWf (fin s))
    (hchk : ∀ s l, memoriesWf s → memoriesWf (chk s l).1) : memoriesWf (rmwRep g reg size o op fin chk s).1 := by
  unfold rmwRep
  dsimp only
  split
  · exact of_fst (checkLanes_wf h _ hchk) (by assumption)
  · have h1 := of_fst (checkLanes_wf h _ hchk) (by assumption)
    split
    · exact h1
    · exact h1
    · refine settle_wf (sweepFrom_wf (fun s l a h => onceLane_wf h l fun s h => ?_) h1 _ _) _ _ _ fun s vs h => ?_
      · refine ite_fst_wf h ?_
        split
        · exact giveTokens_wf (of_fst (tagged_wf h _ fun s e h => rmwPart_wf h _ _ _ _ _ _) (by assumption)) _ _ _
        · exact tagged_wf h _ fun s e h => rmwPart_wf h _ _ _ _ _ _
      · have h2 as := foldl_wf (fun s x h => landOld_wf h reg (size / 4) x.1 x.2) vs (hfin _ (touchAll_wf h as))
        exact ite_wf (acquire_wf (h2 _) _ _) (h2 _)

theorem execAtom_wf (h : memoriesWf s) (gr v b i c o) : NextWf (execAtom gr v b i c o s) := by
  refine perform_wf _ (fun s h => ?_) h
  dsimp only
  split
  · exact h
  · exact ending_wf _ (runReps_wf _ (fun k s h => rmwRep_wf h _ _ _ _ _ (fun _ h => h) fun _ _ h => checkLane_wf h _ _ _ _ _ _ _) h)

theorem execCas_wf (h : memoriesWf s) (gr v b i w o) : NextWf (execCas gr v b i w o s) := by
  unfold execCas
  dsimp only
  refine perform_wf _ (fun _ h => ?_) h
  split
  · exact ending_wf _ (runReps_wf _ (fun _ _ h => rmwRep_wf h _ _ _ _ _ (fun _ h => by exact h)
      (fun _ _ h => checkLane_wf h _ _ _ _ _ _ _)) h)
  · exact h
  · exact h
  · exact h

theorem redLane_wf (h : memoriesWf s) (l a c x e) : memoriesWf (redLane s l a c x e).1 := by
  unfold redLane
  split
  · exact ite_fst_wf (redUpdate_wf h _ _ _ _ _) (rmwPart_wf h _ _ _ _ _ _)
  · exact rmwPart_wf h _ _ _ _ _ _

theorem redRep_wf (h : memoriesWf s) (g o) {chk go} (hchk : ∀ s l, memoriesWf s → memoriesWf (chk s l).1)
    (hgo : ∀ s as ord d, memoriesWf s → memoriesWf (go s as ord d).1) : memoriesWf (redRep g o chk go s).1 := by
  unfold redRep
  dsimp only
  split
  · exact of_fst (checkLanes_wf h _ hchk) (by assumption)
  · have h1 := of_fst (checkLanes_wf h _ hchk) (by assumption)
    split
    · exact h1
    · exact h1
    · exact ite_fst_wf h1 (hgo _ _ _ _ h1)

theorem redEnd_wf (h : memoriesWf s) (m as) : memoriesWf (redEnd m as s).1 :=
  ite_wf (acquire_wf (touchAll_wf h _) _ _) (touchAll_wf h _)

theorem redLanes_wf (h : memoriesWf s) (c reg n m as ord d) : memoriesWf (redLanes c reg n m s as ord d).1 :=
  settle_wf (sweepFrom_wf (fun _ _ _ h => ite_fst_wf h (tagged_wf h _
    (fun _ _ h => redLane_wf h _ _ _ _ _))) h _ _) _ _ _ fun _ _ h => redEnd_wf h _ _

theorem execRed_wf (h : memoriesWf s) (gr v b i c o) : NextWf (execRed gr v b i c o s) := by
  unfold execRed
  dsimp only
  refine perform_wf _ (fun _ h => ?_) h
  split
  · exact h
  · exact ending_wf _ (runReps_wf _ (fun _ _ h => redRep_wf h _ _ (fun _ _ h => checkLane_wf h _ _ _ _ _ _ _)
      (fun _ _ _ _ h => redLanes_wf h _ _ _ _ _ _ _)) h)

theorem redHomeLanes_wf (h : memoriesWf s) (c reg n m as ord d) : memoriesWf (redHomeLanes c reg n m s as ord d).1 := by
  unfold redHomeLanes
  grind only [!newTag_wf, !redEnd_wf, !redLane_wf, !rmwPart_wf, !settle_wf, !sweepFrom_wf, !tagged_wf, !foldl_wf, !foldl_fst_wf]

theorem execRedHome_wf (h : memoriesWf s) (gr v b i c o) : NextWf (execRedHome gr v b i c o s) := by
  unfold execRedHome
  dsimp only
  refine perform_wf _ (fun _ h => ?_) h
  split
  · exact h
  · exact ending_wf _ (runReps_wf _ (fun _ _ h => redRep_wf h _ _ (fun _ _ h => checkLane_wf h _ _ _ _ _ _ _)
      (fun _ _ _ _ h => redHomeLanes_wf h _ _ _ _ _ _ _)) h)

theorem execAtoml_wf (h : memoriesWf s) (gr v b i c) : NextWf (execAtoml gr v b i c s) := by
  refine perform_wf _ (fun s h => ?_) h
  dsimp only
  split
  · exact h
  · exact ending_wf _ (runReps_wf _ (fun k s h => rmwRep_wf h _ _ _ _ _ (fun _ h => h) fun _ _ h => checkOwn_wf h _ _ _) h)

theorem execRedl_wf (h : memoriesWf s) (gr v b i c) : NextWf (execRedl gr v b i c s) := by
  unfold execRedl
  dsimp only
  refine perform_wf _ (fun _ h => ?_) h
  split
  · exact h
  · exact ending_wf _ (runReps_wf _ (fun _ _ h => redRep_wf h _ _ (fun _ _ h => checkOwn_wf h _ _ _)
      (fun _ _ _ _ h => redLanes_wf h _ _ _ _ _ _ _)) h)

theorem setLocks_wf (h : memoriesWf s) (node l) : memoriesWf (setLocks s node l) := by
  unfold setLocks
  grind only [memoriesWf_iff, !nodeOf_wf, !setNode_wf]

theorem lockLine_wf (h : memoriesWf s) (node line key unlock) : memoriesWf (lockLine s node line key unlock).1 := by
  unfold lockLine
  dsimp only
  split
  · exact ite_fst_wf (ite_fst_wf (serveHeld_wf (setLocks_wf h _ _)) h) h
  · exact ite_fst_wf h (ite_fst_wf h (setLocks_wf h _ _))

theorem lockLane_wf (h : memoriesWf s) (l a unlock tag) : memoriesWf (lockLane s l a unlock tag).1 := by
  unfold lockLane
  grind only [!enterTag_wf, !lockLine_wf, !startRecall_wf]

theorem lockRep_wf (h : memoriesWf s) (g reg unlock) {chk} (hchk : ∀ s l, memoriesWf s → memoriesWf (chk s l).1) :
    memoriesWf (lockRep g reg unlock chk s).1 := by
  unfold lockRep
  dsimp only
  split
  · exact of_fst (checkLanes_wf h _ hchk) (by assumption)
  · have h1 := of_fst (checkLanes_wf h _ hchk) (by assumption)
    split
    · exact h1
    · exact h1
    · refine ite_fst_wf h1 ?_
      refine settle_wf (sweepFrom_wf (fun s l a h => onceLane_wf h l fun s h => ?_) h1 _ _) _ _ _ fun s vs h => ?_
      · refine ite_fst_wf h ?_
        split
        · exact giveTokens_wf (of_fst (tagged_wf h _ fun s e h => lockLane_wf h _ _ _ _) (by assumption)) _ _ _
        · exact tagged_wf h _ fun s e h => lockLane_wf h _ _ _ _
      · have h2 as := foldl_wf (fun s x h => landV_wf h reg x.1 (lo32 x.2)) vs (touchAll_wf h as)
        exact ite_wf (acquire_wf (h2 _) _ _) (h2 _)

theorem execLock_wf (h : memoriesWf s) (gr v b i) : NextWf (execLock gr v b i s) := by
  unfold execLock
  refine perform_wf _ (fun _ h => ?_) h
  split
  · exact h
  · exact ending_wf _ (runReps_wf _ (fun _ _ h => lockRep_wf h _ _ _ fun _ _ h => checkLane_wf h _ _ _ _ _ _ _) h)

theorem execUnlock_wf (h : memoriesWf s) (gr v b i) : NextWf (execUnlock gr v b i s) := by
  unfold execUnlock
  refine perform_wf _ (fun _ h => ?_) h
  split
  · exact h
  · exact ending_wf _ (runReps_wf _ (fun _ _ h => lockRep_wf h _ _ _ fun _ _ h => checkLane_wf h _ _ _ _ _ _ _) h)

theorem prefetchProxy_wf (h : memoriesWf s) (i a nd addr cpol) : memoriesWf (prefetchProxy s i a nd addr cpol) :=
  ite_wf h (proxyFill_wf h _ _)

theorem prefetchLane_wf (h : memoriesWf s) (l va llc cpol) : memoriesWf (prefetchLane s l va llc cpol) := by
  unfold prefetchLane
  split
  · exact of_fst (resolve_wf h _ _ _ _ _ _ _ _) (by assumption)
  · split
    · exact ite_wf (of_fst (resolve_wf h _ _ _ _ _ _ _ _) (by assumption))
        (loadPart_wf (of_fst (resolve_wf h _ _ _ _ _ _ _ _) (by assumption)) _ _ _ _ _)
    · exact ite_wf (prefetchProxy_wf (of_fst (resolve_wf h _ _ _ _ _ _ _ _) (by assumption)) _ _ _ _ _)
        (loadPart_wf (of_fst (resolve_wf h _ _ _ _ _ _ _ _) (by assumption)) _ _ _ _ _)
    · exact of_fst (resolve_wf h _ _ _ _ _ _ _ _) (by assumption)

theorem execPrefetch_wf (h : memoriesWf s) (gr b i f) : NextWf (execPrefetch gr b i f s) := by
  unfold execPrefetch
  refine perform_wf _ (fun _ h => ?_) h
  split
  · exact h
  · exact ending_wf _ (runReps_wf _ (fun _ _ h => foldl_wf (fun _ _ h => prefetchLane_wf h _ _ _ _) _ h) h)

theorem fenceRelease_wf (h : memoriesWf s) (m) : memoriesWf (fenceRelease s m).2 := by
  unfold fenceRelease
  grind only [memoriesWf_iff]

theorem execFenceAcq_wf (h : memoriesWf s) (gr) : NextWf (execFenceAcq gr s) :=
  perform_wf _ (fun _ h => endGroup_wf (ite_wf h (acquire_wf h _ _)) _) h

theorem execFenceRel_wf (h : memoriesWf s) (gr) : NextWf (execFenceRel gr s) := by
  unfold execFenceRel
  dsimp only
  refine perform_wf _ (fun _ h => ?_) h
  split
  · exact of_snd (fenceRelease_wf h _) (by assumption)
  · exact of_snd (fenceRelease_wf h _) (by assumption)
  · exact endGroup_wf (of_snd (fenceRelease_wf h _) (by assumption)) _

theorem execFenceSc_wf (h : memoriesWf s) (gr) : NextWf (execFenceSc gr s) := by
  unfold execFenceSc
  dsimp only
  refine perform_wf _ (fun _ h => ?_) h
  split
  · exact of_snd (fenceRelease_wf h _) (by assumption)
  · exact of_snd (fenceRelease_wf h _) (by assumption)
  · exact endGroup_wf (ite_wf (of_snd (fenceRelease_wf h _) (by assumption))
      (acquire_wf (of_snd (fenceRelease_wf h _) (by assumption)) _ _)) _

theorem execCfence_wf (h : memoriesWf s) (gr) : NextWf (execCfence gr s) := perform_wf _ (fun _ h => endGroup_wf (by exact h) _) h

theorem execPublish_wf (h : memoriesWf s) (gr) : NextWf (execPublish gr s) := by
  unfold execPublish
  refine perform_wf _ (fun _ h => ?_) h
  refine ite_fst_wf (endGroup_wf h _) ?_
  split
  · exact h
  · exact h
  · split
    · exact of_fst (publishAll_wf h _ _) (by assumption)
    · exact ite_fst_wf (endGroup_wf (of_fst (publishAll_wf h _ _) (by assumption)) _) (of_fst (publishAll_wf h _ _) (by assumption))

theorem stashPages_wf (h : memoriesWf s) (c rw gva n i) : memoriesWf (stashPages s c rw gva n i).1 := by
  induction n generalizing s i with
  | zero => exact h
  | succ n ih =>
    unfold stashPages
    grind only [!translate_wf]

theorem stashMap_wf (h : memoriesWf s) (gva x) : memoriesWf (stashMap s gva x).1 := by
  unfold stashMap
  dsimp only
  split
  · exact h
  · refine ite_fst_wf h (ite_fst_wf h (ite_fst_wf h (ite_fst_wf h (ite_fst_wf h ?_))))
    split
    · exact of_fst (stashPages_wf h _ _ _ _ _) (by assumption)
    · have h1 := of_fst (stashPages_wf h _ _ _ _ _) (by assumption)
      split
      · exact h1
      · obtain ⟨hm, hh, hn, hk, hks⟩ := memoriesWf_iff.1 h1
        exact memoriesWf_iff.2 ⟨hm, hh, hn, hk, hks⟩

theorem execStashMap_wf (h : memoriesWf s) (gr d a b) : NextWf (execStashMap gr d a b s) := by
  unfold execStashMap
  refine perform_wf _ (fun _ h => warpLevel_wf _ _ (fun _ _ h => ?_) h) h
  split
  · exact of_fst (stashMap_wf h _ _) (by assumption)
  · exact (of_fst (stashMap_wf h _ _) (by assumption) :)

theorem execStashUnmap_wf (h : memoriesWf s) (gr a) : NextWf (execStashUnmap gr a s) := by
  unfold execStashUnmap
  dsimp only
  refine perform_wf _ (fun _ h => warpLevel_wf _ _ (fun _ _ h => ?_) h) h
  split
  · exact unmapStash_wf h _ _
  · exact h

/-! ### Barriers, signals and soft interrupts -/

theorem arrive_wf (h : memoriesWf s) (g m b) : memoriesWf (arrive g m b s) := with_wf (endGroup_wf h _) rfl

theorem execBar_wf (h : memoriesWf s) (gr) : NextWf (execBar gr s) := by
  unfold execBar
  grind only [NextWf, !arrive_wf, !checkBarriers_wf, !endGroup_wf, !perform_wf]

theorem setPhase_wf (h : memoriesWf s) (core id p) : memoriesWf (setPhase s core id p) := by
  unfold setPhase
  grind only [CoreWf, memoriesWf_iff, !modBlock_wf]

theorem execNbar_wf (h : memoriesWf s) (gr count coreScope id) : NextWf (execNbar gr count coreScope id s) := by
  unfold execNbar
  grind only [NextWf, !arrive_wf, !checkBarriers_wf, !endGroup_wf, !perform_wf, !setPhase_wf]

theorem execCbar_wf (h : memoriesWf s) (gr) : NextWf (execCbar gr s) := by
  unfold execCbar
  grind only [memoriesWf_iff, NextWf, !acquire_wf, !checkCbar_wf, !endGroup_wf, !perform_wf]

theorem wakeWord_wf (h : memoriesWf s) (key) : memoriesWf (wakeWord s key) := by
  obtain ⟨hm, hh, hn, hc, hcs⟩ := memoriesWf_iff.1 (mapAllWarps_wf (mapAllWarps_wf h _) _)
  refine memoriesWf_iff.2 ⟨hm, hh, hn, ⟨hc.1, forall_map hc.2 fun _ h => h⟩, ?_⟩
  exact forall_map hcs fun k hk => ⟨hk.1, forall_map hk.2 fun _ h => h⟩

theorem checkWord_wf (h : memoriesWf s) (l va k) : memoriesWf (checkWord s l va k).1 := checkLane_wf h _ _ _ _ _ _ _

theorem execSignal_wf (h : memoriesWf s) (gr a b o) : NextWf (execSignal gr a b o s) := by
  refine perform_wf _ (fun s h => warpLevel_wf _ _ (fun k s h => ?_) h) h
  dsimp only
  split
  · exact of_fst (checkLanes_wf h _ fun _ _ h => checkWord_wf h _ _ _) (by assumption)
  · have h1 := of_fst (checkLanes_wf h _ fun _ _ h => checkWord_wf h _ _ _) (by assumption)
    split
    · exact h1
    · exact h1
    · refine settle_wf (sweepFrom_wf (fun _ _ _ h => onceLane_wf h _ fun s h => ?_) h1 _ _) _ _ _ fun _ _ h =>
        foldl_wf (fun _ _ h => wakeWord_wf h _) _ (touchAll_wf h _)
      split
      · exact giveTokens_wf (of_fst (tagged_wf h _ fun _ _ h => rmwPart_wf h _ _ _ _ _ _) (by assumption)) _ _ _
      · exact tagged_wf h _ fun _ _ h => rmwPart_wf h _ _ _ _ _ _

theorem execWaits_wf (h : memoriesWf s) (gr d a b c) : NextWf (execWaits gr d a b c s) := by
  unfold execWaits
  grind only [memoriesWf_iff, NextWf, !acquire_wf, !checkLanes_wf, !checkWord_wf, !loadLanes_wf, !perform_wf, !settle_wf, !touchAll_wf, !warpLevel_wf]

theorem execSoftintQ_wf (h : memoriesWf s) (gr a b) : NextWf (execSoftintQ gr a b s) := by
  unfold execSoftintQ
  refine perform_wf _ (fun _ h => warpLevel_wf _ _ (fun _ _ h => ?_) h) h
  split <;> exact h

theorem execSoftintM_wf (h : memoriesWf s) (gr b) : NextWf (execSoftintM gr b s) := by
  unfold execSoftintM
  refine perform_wf _ (fun _ h => warpLevel_wf _ _ (fun _ _ h => ?_) h) h
  refine ite_fst_wf h ?_
  split <;> exact h

/-! ### Queues, launches and placement -/

theorem devCheck_wf (h : memoriesWf s) (c va n k) : memoriesWf (devCheck s c va n k).1 := by
  unfold devCheck
  refine ite_fst_wf h ?_
  split <;> exact of_fst (translate_wf h _ _ _ _) (by assumption)

theorem devLoad_wf (h : memoriesWf s) (c i va n) : memoriesWf (devLoad s c i va n).1 := by
  unfold devLoad
  grind only [!devCheck_wf, !loadAcc_wf]

theorem devBytes_wf (h : memoriesWf s) (c i va n) : memoriesWf (devBytes s c i va n).1 := by
  unfold devBytes
  grind only [!devLoad_wf, !foldl_wf, !foldl_fst_wf]

theorem headItem_wf (h : memoriesWf s) (q) : memoriesWf (headItem s q).1 := by
  unfold headItem
  split <;> exact of_fst (physRead_wf h _ _ _) (by assumption)

theorem advanceHead_wf (h : memoriesWf s) (q) : memoriesWf (advanceHead s q) := h

theorem launchAcquire_wf (h : memoriesWf s) : memoriesWf (launchAcquire s) := by
  obtain ⟨hm, hh, hn, hk, hks⟩ := memoriesWf_iff.1 h
  exact memoriesWf_iff.2 ⟨hm, hh, hn, hk, forall_map hks fun _ hk => hk⟩

theorem startWait_wf (h : memoriesWf s) (q tokens) : memoriesWf (startWait s q tokens) :=
  ite_wf (launchAcquire_wf (advanceHead_wf h _)) (setQueue_wf h _)

theorem refuseWait_wf (h : memoriesWf s) (q va) : memoriesWf (refuseWait s q va) := queueRecord_wf (setQueue_wf h _) _ _ _ _

theorem waitTest_wf (h : memoriesWf s) (q) : memoriesWf (waitTest s q) := by
  unfold waitTest
  refine ite_wf h (ite_wf (startWait_wf h _ _) ?_)
  split
  have h1 := of_fst (headItem_wf h (s.queueOf q)) (by assumption)
  refine ite_wf h1 ?_
  dsimp only
  split <;> have h2 := of_fst (ite_fst_wf (a := (_, _)) h1 (devCheck_wf h1 _ _ _ _)) (by assumption)
  · exact ite_wf (keepRecalls_getD_wf (setQueue_wf h1 _) _) (refuseWait_wf h2 _ _)
  · split
    · exact keepRecalls_getD_wf (setQueue_wf h1 _) _
    · exact refuseWait_wf (of_fst (loadAcc_wf h2 _ _ _ _) (by assumption)) _ _
    · have h3 := of_fst (loadAcc_wf h2 _ _ _ _) (by assumption)
      exact ite_wf (startWait_wf h3 _ _) (setQueue_wf h3 _)

theorem readRegions_wf (h : memoriesWf s) (regtab) : memoriesWf (readRegions s regtab).1 := by
  unfold readRegions
  split <;> exact of_fst (physRead_wf h _ _ _) (by assumption)

theorem readImage_wf (h : memoriesWf s) (c i va) : memoriesWf (readImage s c i va).1 := by
  unfold readImage
  dsimp only
  split
  · exact of_fst (devBytes_wf h _ _ _ _) (by assumption)
  · exact of_fst (devBytes_wf h _ _ _ _) (by assumption)
  · split <;> exact of_fst (devBytes_wf (of_fst (devBytes_wf h _ _ _ _) (by assumption)) _ _ _ _) (by assumption)

theorem makeRoom_wf (h : memoriesWf s) (c) : memoriesWf (makeRoom s c) :=
  foldl_wf (fun _ _ h => ite_wf h (imageOut_wf (modWarp_wf h _ _ _) _ _)) _ h

theorem addWarps_wf (h : memoriesWf s) (l c bslot block ws) : memoriesWf (addWarps s l c bslot block ws) := by
  induction ws generalizing s with
  | nil => exact h
  | cons idx r ih =>
    have add (w : Warp) : memoriesWf (s.modCore c fun k => { k with warps := k.warps ++ [w] }) := modCore_wf h c fun _ hk => hk
    exact ih (emitSync_wf (add _) _ _)

theorem loadMicro_wf (h : memoriesWf s) (l c) : memoriesWf (eitherState (loadMicro s l c)) := by
  have set (s : State) (h : memoriesWf s) (m o) : memoriesWf (s.modCore c fun k => { k with micro := m, microOwner := o }) :=
    modCore_wf h c fun _ hk => hk
  unfold loadMicro
  split
  · exact h
  · split
    · exact set _ (of_fst (readImage_wf h _ _ _) (by assumption)) _ _
    · exact keepRecalls_getD_wf h _
    · exact set _ (of_fst (readImage_wf h _ _ _) (by assumption)) _ _

theorem loadMicros_wf (h : memoriesWf s) (l cs) : memoriesWf (eitherState (loadMicros s l cs)) := by
  induction cs generalizing s with
  | nil => exact h
  | cons c r ih =>
    unfold loadMicros
    split
    · exact ih (of_ok (loadMicro_wf h _ _) (by assumption))
    · exact of_error (loadMicro_wf h _ _) (by assumption)

theorem placeBlock_wf (h : memoriesWf s) (l c index rank) : memoriesWf (placeBlock s l c index rank) := by
  have hb (b : Block) (hb : b.local_ = []) (n : Nat) : memoriesWf { s.setBlock c b with placedNo := n } :=
    setBlock_wf h c (by rw [hb]; rfl)
  exact addWarps_wf (hb _ rfl _) _ _ _ _ _

theorem placeCohort_wf (h : memoriesWf s) (l cores) : memoriesWf (eitherState (placeCohort s l cores)) := by
  unfold placeCohort
  split
  · have h1 := of_error (loadMicros_wf h _ _) (by assumption)
    exact h1
  · have h1 := of_ok (loadMicros_wf h _ _) (by assumption)
    exact modLaunch_wf (foldl_wf (fun _ _ h => makeRoom_wf (placeBlock_wf h _ _ _ _) _) _ h1) _ _

theorem setPreempted_wf (h : memoriesWf s) (bs on) : memoriesWf (setPreempted s bs on) := by
  refine foldl_wf (fun s x h => ?_) _ h
  have h1 : memoriesWf (s.modBlock x.1 x.2.bslot fun b => { b with preempted := on, resumable := false }) := modBlock_wf h _ _ fun _ hb => hb
  grind only [!dropBlockPlaces_wf, !foldl_wf, !leaveActive_wf, !modCore_wf, CoreWf, !mapWarps_wf, !emitSync_wf]

theorem preemptAll_wf (h : memoriesWf s) (vs) : memoriesWf (preemptAll s vs) := foldl_wf (fun _ _ h => setPreempted_wf h _ _) _ h

theorem preemptFor_wf (h : memoriesWf s) (l) : memoriesWf (preemptFor s l) := by
  unfold preemptFor
  refine ite_wf h ?_
  split
  · exact with_wf (preemptAll_wf h _) rfl
  · exact h

theorem resumeUpTo_wf (h : memoriesWf s) (p) : memoriesWf (resumeUpTo s p) :=
  foldl_wf (fun _ _ h => foldl_wf (fun _ _ h => ite_wf (foldl_wf (fun _ _ h => makeRoom_wf h _) _ (setPreempted_wf h _ _)) h) _ h) _ h

theorem placeHeads_wf (h : memoriesWf s) (id fuel) : memoriesWf (placeHeads s id fuel) := by
  induction fuel generalizing s with
  | zero => exact h
  | succ fuel ih =>
    unfold placeHeads
    split
    · exact h
    · next l _ =>
      have h1 : memoriesWf (if (findPlace s l l.nextCohort).isSome then s else preemptFor s l) := ite_wf h (preemptFor_wf h _)
      refine ite_wf h ?_
      dsimp only
      split
      · split
        · exact ih (of_ok (placeCohort_wf h1 _ _) (by assumption))
        · exact of_error (placeCohort_wf h1 _ _) (by assumption)
      · exact h1

theorem markPlaced_wf (h : memoriesWf s) : memoriesWf (markPlaced s) := h

theorem placementPass_wf (h : memoriesWf s) : memoriesWf (placementPass s) :=
  markPlaced_wf (resumeUpTo_wf (foldl_wf (fun _ _ h => placeHeads_wf (resumeUpTo_wf h _) _ _) _ (by exact h)) _)

theorem readExt_wf (h : memoriesWf s) (p c i) : memoriesWf (readExt s p c i).1 := by
  unfold readExt
  refine ite_fst_wf h ?_
  split
  · exact of_fst (devLoad_wf h _ _ _ _) (by assumption)
  · exact of_fst (devLoad_wf h _ _ _ _) (by assumption)
  · refine ite_fst_wf (of_fst (devLoad_wf h _ _ _ _) (by assumption)) ?_
    split <;> exact of_fst (readImage_wf (of_fst (devLoad_wf h _ _ _ _) (by assumption)) _ _ _) (by assumption)

theorem addDone_wf (h : memoriesWf s) (x) : memoriesWf (addDone s x).1 := by
  unfold addDone
  split
  · exact h
  · grind only [!devCheck_wf, !keepRecalls_getD_wf, !markDirty_wf, !rmwPart_wf, !wakeWord_wf]

theorem settleSignals_wf (h : memoriesWf s) : memoriesWf (settleSignals s) := by
  unfold settleSignals
  refine foldl_wf (fun _ _ h => ?_) _ h
  split
  · exact of_fst (addDone_wf h _) (by assumption)
  · exact (of_fst (addDone_wf h _) (by assumption) :)

theorem refuse_wf (h : memoriesWf s) (q status addr launch gen donesig) : memoriesWf (refuse s q status addr launch gen donesig) :=
  queueRecord_wf (setQueue_wf h _) _ _ _ _

theorem admitLaunch_wf (h : memoriesWf s) (l) : memoriesWf (admitLaunch s l) := by
  unfold admitLaunch
  grind only [memoriesWf_iff, !launchAcquire_wf, !modLaunch_wf]

theorem launchStart_wf {s0} (h : memoriesWf s0) (q) : SomeWf (launchStart s0 q) := by
  have next (s : State) (h : memoriesWf s) (n : Word) : memoriesWf { advanceHead s q with nextLaunch := n } := advanceHead_wf h q
  unfold launchStart
  intro u e
  dsimp only at e
  split at e
  · cases e
  split at e
  · cases e
  have h1 := headItem_wf h (s0.queueOf q)
  split at e
  · cases e; exact refuse_wf (advanceHead_wf h1 _) _ _ _ _ _ _
  split at e
  · cases e; exact refuse_wf (next _ h1 _) _ _ _ _ _ _
  have h2 := readRegions_wf h1 ((s0.queueOf q).word 3)
  split at e
  · exact keepRecalls_wf h _ _ e
  · cases e; exact refuse_wf (next _ (of_fst (readExt_wf h2 _ _ _) (by assumption)) _) _ _ _ _ _ _
  · have h3 := next _ (of_fst (readExt_wf h2 _ _ _) (by assumption)) ((headItem s0 (s0.queueOf q)).1.nextLaunch + 1)
    split at e
    · cases e; exact refuse_wf h3 _ _ _ _ _ _
    · cases e; exact admitLaunch_wf h3 _

theorem writeTail_wf (h : memoriesWf s) (q value) : memoriesWf (writeTail s q value) :=
  ite_wf h (ite_wf (setQueue_wf h _) (setQueue_wf h _))

theorem preemptQueue_wf (h : memoriesWf s) (q) : memoriesWf (preemptQueue s q) := with_wf (setPreempted_wf h _ _) rfl

theorem resumeQueue_wf (h : memoriesWf s) (q) : memoriesWf (resumeQueue s q) := by
  unfold resumeQueue
  grind only [memoriesWf_iff, !modBlock_wf, !foldl_wf, !foldl_fst_wf]

theorem killQueue_wf (h : memoriesWf s) (q) : memoriesWf (killQueue s q) := by
  unfold killQueue
  grind only [memoriesWf_iff, !killLaunch_wf, !setQueue_wf, !foldl_wf, !foldl_fst_wf]

theorem clearQueue_wf (h : memoriesWf s) (q) : memoriesWf (clearQueue s q) := setQueue_wf h _

theorem execBlockKill_wf (h : memoriesWf s) (launch block) : NextWf (execBlockKill launch block s) := by
  unfold execBlockKill
  grind only [memoriesWf_iff, NextWf, !killBlock_wf, !killLaunch_wf, !pumpRecords_wf, !setQueue_wf, !foldl_wf, !foldl_fst_wf]

/-! ### Geometry and the bin store -/

theorem modDie_wf (h : memoriesWf s) (d f) : memoriesWf (modDie s d f) := h

theorem emitFrond_wf (h : memoriesWf s) (gdie v p) : memoriesWf (emitFrond s gdie v p) := h

theorem visemitRep_wf (h : memoriesWf s) (gr draw d a b lka) : memoriesWf (visemitRep gr draw d a b lka s) :=
  with_wf (foldl_wf (fun _ _ h => emitFrond_wf h _ _ _) _ h) rfl

theorem execVisemit_wf (h : memoriesWf s) (gr d a lka b) : NextWf (execVisemit gr d a lka b s) := by
  unfold execVisemit
  refine perform_wf _ (fun _ h => ?_) h
  split
  · exact h
  · split
    · exact h
    · exact ending_wf _ (runReps_wf _ (fun _ _ h => ite_fst_wf h (visemitRep_wf h _ _ _ _ _ _)) h)

theorem modPass_wf (h : memoriesWf s) (p f) : memoriesWf (modPass s p f) := h

theorem resolveFrond_wf (h : memoriesWf s) (tx ty n p b l) : memoriesWf (resolveFrond s tx ty n p b l).1 := by
  unfold resolveFrond
  dsimp only
  refine foldl_fst_wf (fun _ _ h => ?_) _ h
  split <;> exact h

theorem tileStart_wf (h : memoriesWf s) (p die tx ty) : memoriesWf (tileStart s p die tx ty).1 := by
  unfold tileStart
  refine ite_fst_wf h ?_
  split
  · exact ite_fst_wf h h
  · exact h

theorem resolveRefs_wf (h : memoriesWf s) (p c i tx ty r l) : memoriesWf (resolveRefs p c i tx ty r s l).1 := by
  induction r generalizing s l with
  | nil => exact h
  | cons f r ih =>
    unfold resolveRefs
    grind only [!devBytes_wf, !resolveFrond_wf]

theorem passFault_wf (h : memoriesWf s) (p tx ty t) : memoriesWf (passFault s p tx ty t) :=
  pumpRecords_wf (launchRecord_wf (modPass_wf h _ _) _ _)

theorem resolveTile_wf (h : memoriesWf s) (p die tx ty flushed) : memoriesWf (resolveTile s p die tx ty flushed).1 := by
  unfold resolveTile
  grind only [!modDie_wf, !modPass_wf, !resolveRefs_wf, !tileStart_wf]

theorem unresolved_wf (h : memoriesWf s) (p tx ty x) : memoriesWf (unresolved s p tx ty x) := by
  unfold unresolved
  split
  · exact passFault_wf h _ _ _ _
  · exact keepRecalls_getD_wf h _

theorem flushPut_wf (h : memoriesWf s) (die tx ty l) : memoriesWf (flushPut s die tx ty l) := by
  unfold flushPut
  split
  · exact physPost_wf h _ _
  · exact h

theorem flushTiles_wf (h : memoriesWf s) (die l) : ∀ t, flushTiles die l s = .ok t → memoriesWf t := by
  induction l generalizing s with
  | nil => simpa [flushTiles] using h
  | cons x r ih =>
    unfold flushTiles
    grind only [!resolveTile_wf, !flushPut_wf]

theorem flushDie_wf (h : memoriesWf s) (die) : memoriesWf (flushDie s die).1 := by
  unfold flushDie
  grind only [!flushTiles_wf, !unresolved_wf, !modDie_wf]

theorem binFrond_wf (h : memoriesWf s) (die p) : memoriesWf (binFrond s die p).1 := by
  unfold binFrond
  grind only [memoriesWf_iff, !flushDie_wf, !modDie_wf]

theorem releaseHeld_wf (h : memoriesWf s) (die f l kept) : memoriesWf (releaseHeld die f l kept s) := by
  induction l generalizing s kept with
  | nil => exact modDie_wf h _ _
  | cons p r ih =>
    unfold releaseHeld
    grind only [!binFrond_wf, !modDie_wf]

theorem advanceDie_wf (h : memoriesWf s) (die fuel) : memoriesWf (advanceDie die fuel s) := by
  induction fuel generalizing s with
  | zero => exact h
  | succ fuel ih =>
    unfold advanceDie
    grind only [!releaseHeld_wf, !modDie_wf]

theorem settleDraws_wf (h : memoriesWf s) : memoriesWf (settleDraws s) :=
  with_wf (foldl_wf (fun _ _ h => ite_wf (advanceDie_wf h _ _) h) _ h) rfl

theorem sendToken_wf (h : memoriesWf s) (gdie d) : SomeWf (sendToken s gdie d) := by
  unfold sendToken
  intro u e
  extract_lets lines t at e
  have ht : memoriesWf t := publishAll_wf (foldl_wf (fun _ _ h => mergeUpd_wf h _ _) _ h) _ _
  split at e
  · split at e
    · exact keepRecalls_wf h _ _ e
    · obtain rfl := Option.some.inj e
      exact ht
  · obtain rfl := Option.some.inj e
    exact ht

theorem execEndOfDrawToken_wf (h : memoriesWf s) (gdie draw) : NextWf (execEndOfDrawToken gdie draw s) := by
  unfold execEndOfDrawToken
  split
  · exact next_wf h
  · exact next_wf (ite_wf (pumpRecords_wf (getD_wf h (sendToken_wf h _ _))) h)

theorem dropFrond_wf (h : memoriesWf s) (sdie p) : memoriesWf (dropFrond s sdie p) := by
  unfold dropFrond
  split <;> exact h

theorem execFrondPacketArrival_wf (h : memoriesWf s) (sdie p) : NextWf (execFrondPacketArrival sdie p s) := by
  unfold execFrondPacketArrival
  split
  · exact next_wf (dropFrond_wf h _ _)
  · refine ite_next_wf (next_wf (modDie_wf (dropFrond_wf h _ _) _ _))
      (ite_next_wf (ite_next_wf (next_wf (modDie_wf (dropFrond_wf h _ _) _ _)) (next_wf h)) ?_)
    refine ite_next_wf (next_wf (releaseHeld_wf h _ _ _ _)) ?_
    split
    · exact next_wf (dropFrond_wf (of_fst (binFrond_wf (releaseHeld_wf h _ _ _ _) _ _) (by assumption)) _ _)
    · exact next_wf (of_fst (binFrond_wf (releaseHeld_wf h _ _ _ _) _ _) (by assumption))

/-! ### Passes, tiles and textures -/

theorem openPass_wf (h : memoriesWf s) (q desc) : memoriesWf (openPass s q desc) := by
  have start (s : State) (h : memoriesWf s) (n : Word) (l : List Launch) (g : Geom) :
      memoriesWf { launchAcquire { s with nextLaunch := n, launches := l } with geom := g } := launchAcquire_wf (by exact h)
  unfold openPass
  refine ite_wf h ?_
  split
  · have h1 := physWaits_wf h _ _ _ _ (by assumption)
    exact h1
  · dsimp only
    split
    · exact refuse_wf (of_fst (ite_fst_wf h (physRead_wf h _ _ _)) (by assumption)) _ _ _ _ _ _
    · have h1 := of_fst (ite_fst_wf h (physRead_wf h _ _ _)) (by assumption)
      have h2 := readRegions_wf h1 ((s.queueOf q).word 3)
      refine ite_wf (refuse_wf h2 _ _ _ _ _ _) ?_
      split
      · have h3 := of_fst (readExt_wf h2 _ _ _) (by assumption)
        refine ite_wf (refuse_wf h3 _ _ _ _ _ _) ?_
        exact start _ h3 _ _ _
      · have h3 := of_fst (readExt_wf h2 _ _ _) (by assumption)
        exact h3
      · exact refuse_wf (of_fst (readExt_wf h2 _ _ _) (by assumption)) _ _ _ _ _ _

theorem placeTile_wf (h : memoriesWf s) (l die block) : memoriesWf (eitherState (placeTile s l die block)) := by
  have place (t : State) (ht : memoriesWf t) (l c) : memoriesWf (eitherState ((loadMicro t l c).map fun s => makeRoom (placeBlock s l c block 0) c)) := by
    have h1 := loadMicro_wf ht l c
    cases e : loadMicro t l c with
    | error u => exact of_error h1 e
    | ok u => exact makeRoom_wf (placeBlock_wf (of_ok h1 e) _ _ _ _) _
  unfold placeTile
  dsimp only
  split
  · exact place _ (ite_wf h (preemptFor_wf h _)) _ _
  · exact h

theorem tileLaunch_wf (h : memoriesWf s) (q tx ty) : memoriesWf (tileLaunch s q tx ty) := by
  unfold tileLaunch
  split
  · exact h
  · dsimp only
    split
    · have h1 := of_fst (resolveTile_wf h _ _ _ _ _) (by assumption)
      refine ite_wf (modDie_wf (modPass_wf h1 _ _) _ _) ?_
      split
      · exact modDie_wf (modPass_wf (of_ok (placeTile_wf h1 _ _ _) (by assumption)) _ _) _ _
      · exact keepRecalls_getD_wf h _
    · exact unresolved_wf h _ _ _ _

theorem visrdRep_wf (h : memoriesWf s) (gr p tx ty d smp pix use) : memoriesWf (visrdRep gr p tx ty d smp pix use s).1 :=
  foldl_wf (fun _ _ h => landWords_wf h _ _ _) _ h

theorem execVisrd_wf (h : memoriesWf s) (gr d smp) : NextWf (execVisrd gr d smp s) := by
  unfold execVisrd
  refine perform_wf _ (fun _ h => ?_) h
  split
  · exact h
  · split
    · exact h
    · exact ending_wf _ (runReps_wf _ (fun _ _ h => visrdRep_wf h _ _ _ _ _ _ _ _) h)

theorem execVisrdPix_wf (h : memoriesWf s) (gr d a lka smp) : NextWf (execVisrdPix gr d a lka smp s) := by
  unfold execVisrdPix
  refine perform_wf _ (fun _ h => ?_) h
  split
  · exact h
  · split
    · exact h
    · exact ending_wf _ (runReps_wf _ (fun _ _ h => visrdRep_wf h _ _ _ _ _ _ _ _) h)

theorem pixelRead_wf (h : memoriesWf s) (i die a n) : memoriesWf (pixelRead s i die a n).1 := by
  unfold pixelRead
  split
  · refine ite_fst_wf h (ite_fst_wf (startRecall_wf h _ _) ?_)
    split <;> exact of_fst (readGran_wf (recallLine_wf h _ _) _ _ _) (by assumption)
  · split <;> exact of_fst (loadAcc_wf h _ _ _ _) (by assumption)

theorem writeBackLine_wf (h : memoriesWf s) (launch o line key) : memoriesWf (writeBackLine s launch o line key).1 := by
  unfold writeBackLine
  dsimp only
  split
  · exact physWaits_wf h _ _ _ _ (by assumption)
  · split
    · exact tagLine_wf (of_fst (mergeCells_wf (recallLine_wf h _ _) _ _ _) (by assumption)) _ _ _ _
    · exact launchRecord_wf (of_fst (mergeCells_wf (recallLine_wf h _ _) _ _ _) (by assumption)) _ _

theorem writeBackLines_wf (h : memoriesWf s) (d ls) : memoriesWf (writeBackLines s d ls) := by
  unfold writeBackLines
  refine foldl_wf (fun _ _ h => ?_) _ h
  split
  · exact of_fst (writeBackLine_wf h _ _ _ _) (by assumption)
  · exact modDie_wf (of_fst (writeBackLine_wf h _ _ _ _) (by assumption)) _ _

theorem renderRoom_wf (h : memoriesWf s) (die line) : memoriesWf (renderRoom s die line).1 := by
  unfold renderRoom
  split
  · exact h
  · refine ite_fst_wf h ?_
    split
    · exact ite_fst_wf h (writeBackLines_wf h _ _)
    · exact h

theorem pixelWrite_wf (h : memoriesWf s) (i die a d) : memoriesWf (pixelWrite s i die a d).1 := by
  unfold pixelWrite
  split
  · split
    · exact of_fst (renderRoom_wf h _ _) (by assumption)
    · exact modDie_wf (of_fst (renderRoom_wf h _ _) (by assumption)) _ _
  · exact storeAcc_wf h _ _ _ _

theorem checkPixel_wf (h : memoriesWf s) (p tx ty tgt b l) : memoriesWf (checkPixel s p tx ty tgt b l).1 := by
  unfold checkPixel
  refine ite_fst_wf h (ite_fst_wf h ?_)
  split <;> exact of_fst (translate_wf h _ _ _ _) (by assumption)

theorem pixelLane_wf (h : memoriesWf s) (op fmt die a l acc) : memoriesWf (pixelLane op fmt die a s l acc).1 := by
  unfold pixelLane
  dsimp only
  refine ite_fst_wf h ?_
  split
  · exact of_fst (pixelRead_wf h _ _ _ _) (by assumption)
  · exact of_fst (pixelRead_wf h _ _ _ _) (by assumption)
  · exact pixelWrite_wf (of_fst (pixelRead_wf h _ _ _ _) (by assumption)) _ _ _ _

theorem execRpix_wf (h : memoriesWf s) (gr op tgt a lka b lkb) : NextWf (execRpix gr op tgt a lka b lkb s) := by
  refine perform_wf _ (fun s h => ?_) h
  dsimp only
  split
  · exact h
  · split
    · exact h
    · refine ending_wf _ (runReps_wf _ (fun k s h => ?_) h)
      split
      · exact of_fst (checkLanes_wf h _ fun _ _ h => checkPixel_wf h _ _ _ _ _ _) (by assumption)
      · have h1 := of_fst (checkLanes_wf h _ fun _ _ h => checkPixel_wf h _ _ _ _ _ _) (by assumption)
        refine settle_wf (sweepFrom_wf (fun _ _ _ h => pixelLane_wf h _ _ _ _ _ _) h1 _ _) _ _ _ fun s _ h => touchAll_wf ?_ _
        exact h

theorem loadItems_wf (h : memoriesWf s) (fresh cpol l) {k} (hk : ∀ s vs, memoriesWf s → memoriesWf (k s vs).1) :
    memoriesWf (Machine.loadItems s fresh cpol l k).1 :=
  settle_wf (loadLanes_wf h _ _ _) _ _ _ fun _ _ h => hk _ _ (touchAll_wf h _)

theorem withDesc_wf (h : memoriesWf s) (m va fresh cpol) {k} (hk : ∀ s n, memoriesWf s → memoriesWf (k s n).1) :
    memoriesWf (withDesc s m va fresh cpol k).1 := by
  unfold withDesc
  split
  · exact of_fst (checkLanes_wf h _ fun _ _ h => checkLane_wf h _ _ _ _ _ _ _) (by assumption)
  · exact loadItems_wf (of_fst (checkLanes_wf h _ fun _ _ h => checkLane_wf h _ _ _ _ _ _ _) (by assumption)) _ _ _ fun _ _ h => hk _ _ h

theorem throughMap_wf (h : memoriesWf s) {α β : Type} (fresh cpol) (maps : List (Fin 32 × α)) {chkMap}
    (named : List ((Fin 32 × α) × Nat) → List (Fin 32 × β)) {chk k} (hmap : ∀ s l x, memoriesWf s → memoriesWf (chkMap s l x).1)
    (hchk : ∀ s l x, memoriesWf s → memoriesWf (chk s l x).1) (hk : ∀ s x y, memoriesWf s → memoriesWf (k s x y).1) :
    memoriesWf (throughMap s fresh cpol maps chkMap named chk k).1 := by
  unfold throughMap
  have h1 := checkEach_wf h maps hmap
  refine loadItems_wf h1 _ _ _ (fun t ws ht => ?_)
  dsimp only
  split
  · exact h1
  · split
    · exact hk _ _ _ (of_fst (markLanes_wf (checkEach_wf ht _ hchk) _) (by assumption))
    · exact h1

theorem checkFeedback_wf (h : memoriesWf s) (l fmap page) : memoriesWf (checkFeedback s l fmap page).1 := checkLane_wf h _ _ _ _ _ _ _

theorem feedback_wf (h : memoriesWf s) (m l) {k} (hk : ∀ s, memoriesWf s → memoriesWf (k s).1) : memoriesWf (feedback s m l k).1 := by
  unfold feedback
  refine ite_fst_wf (hk s h) ?_
  split
  · exact h
  · exact h
  · refine ite_fst_wf h (settle_wf (touchAll_wf (foldl_fst_wf (fun p x h => ?_) _ h) _) _ _ _ fun s _ h => hk s h)
    have h1 := tagged_wf h (taggedLane p.1.cur x.1 (!p.1.cur.memrev) .core)
      (f := fun s e => redLane s x.1 x.2.1 7 (BitVec.ofNat 64 (2 ^ (x.2.2 % 32))) e) fun s e h => redLane_wf h _ _ _ _ _
    dsimp only
    split <;> exact of_fst h1 (by assumption)

theorem mapsEnd_wf (h : memoriesWf s) (m) : memoriesWf (mapsEnd m s).1 := ite_wf h (acquire_wf h _ _)

theorem ldclRep_wf (h : memoriesWf s) (gr v vi sb t fresh) : memoriesWf (ldclRep gr v vi sb t fresh s).1 := by
  unfold ldclRep
  refine ite_fst_wf h ?_
  refine withDesc_wf h _ _ _ _ fun _ _ h => ?_
  refine ite_fst_wf h ?_
  refine throughMap_wf h _ _ _ _ (fun _ _ _ h => checkLane_wf h _ _ _ _ _ _ _) (fun _ _ _ h => ?_)
    (fun _ _ _ h => loadItems_wf h _ _ _ (fun _ _ h => feedback_wf h _ _
      (fun _ h => mapsEnd_wf (foldl_wf (fun _ _ h => landWords_wf h _ _ _) _ h) _)))
  split
  · exact checkLane_wf h _ _ _ _ _ _ _
  · exact h
  · exact checkFeedback_wf h _ _ _

theorem execLdcl_wf (h : memoriesWf s) (gr v b i t f) : NextWf (execLdcl gr v b i t f s) := by
  unfold execLdcl
  refine perform_wf _ (fun _ h => ?_) h
  split
  · exact h
  · exact ending_wf _ (runReps_wf _ (fun _ _ h => ldclRep_wf h _ _ _ _ _ _) h)

theorem texRep_wf (h : memoriesWf s) (gr d a lka sb fb) : memoriesWf (texRep gr d a lka sb fb s).1 := by
  unfold texRep
  refine ite_fst_wf h (ite_fst_wf h (withDesc_wf h _ _ _ _ fun s _ h => ite_fst_wf h
    (throughMap_wf h _ _ _ _ (fun _ _ _ h => checkLane_wf h _ _ _ _ _ _ _) (fun s _ y h => ?_) fun _ _ _ h =>
      loadItems_wf h _ _ _ fun _ _ h => feedback_wf h _ _ fun s h => mapsEnd_wf (foldl_wf (fun _ _ h => landWords_wf h _ _ _) _ ?_) _)))
  · split
    · exact checkLane_wf h _ _ _ _ _ _ _
    · exact checkFeedback_wf h _ _ _
  · exact h

theorem execTex_wf (h : memoriesWf s) (gr d a lka b) : NextWf (execTex gr d a lka b s) := by
  unfold execTex
  refine perform_wf _ (fun _ h => ?_) h
  split
  · exact h
  · exact ending_wf _ (runReps_wf _ (fun _ _ h => texRep_wf h _ _ _ _ _ _) h)

theorem execTexfb_wf (h : memoriesWf s) (gr d a lka b) : NextWf (execTexfb gr d a lka b s) := by
  unfold execTexfb
  refine perform_wf _ (fun _ h => ?_) h
  split
  · exact h
  · exact ending_wf _ (runReps_wf _ (fun _ _ h => texRep_wf h _ _ _ _ _ _) h)

/-! ### Collectives -/

theorem setMember_wf (h : memoriesWf s) (m) : memoriesWf (setMember s m) := h

theorem modMembers_wf (h : memoriesWf s) (f) : memoriesWf (modMembers s f) := h

theorem setRoot_wf (h : memoriesWf s) (r) : memoriesWf (setRoot s r) := h

theorem modRoot_wf (h : memoriesWf s) (cid f) : memoriesWf (modRoot s cid f) := h

theorem setPoint_wf (h : memoriesWf s) (p) : memoriesWf (setPoint s p) := h

theorem sendOut_wf (h : memoriesWf s) (l) : memoriesWf (sendOut s l) := ite_wf h h

theorem wakeColl_wf (h : memoriesWf s) (p) : memoriesWf (wakeColl s p) := mapAllWarps_wf h _

theorem wakeSlots_wf (h : memoriesWf s) (slots) : memoriesWf (wakeSlots s slots) := wakeColl_wf h _

theorem openMembers_wf (h : memoriesWf s) (cid frame close) : memoriesWf (openMembers s cid frame close) :=
  wakeColl_wf (modMembers_wf h _) _

theorem unitRead_wf (h : memoriesWf s) (va n) : memoriesWf (unitRead s va n).1 := by
  unfold unitRead
  dsimp only
  refine foldl_fst_wf (fun _ _ h => ?_) _ h
  split
  · split <;> exact of_fst (engRead_wf h _ _ _ _ _) (by assumption)
  · exact h

theorem unitPut_wf (h : memoriesWf s) (c i va d) : memoriesWf (unitPut s c i va d).1 := by
  unfold unitPut
  dsimp only
  split
  · split <;> exact of_fst (engWrite_wf (of_fst (engOwn_wf h _ _ _) (by assumption)) _ _ _ _ _) (by assumption)
  · exact of_fst (engOwn_wf h _ _ _) (by assumption)
  · exact of_fst (engOwn_wf h _ _ _) (by assumption)
  · exact of_fst (engOwn_wf h _ _ _) (by assumption)

theorem surfacePut_wf (h : memoriesWf s) (core pa d) : memoriesWf (surfacePut s core pa d).1 := by
  unfold surfacePut
  grind only [!claim_wf, !l1Drop_wf, !mergeGran_wf, !modCore_wf, !recallLine_wf, !tagLine_wf]

theorem rosterEntry_wf (h : memoriesWf s) (c i j rank) : memoriesWf (rosterEntry s c i j rank).1 := by
  unfold rosterEntry
  refine ite_fst_wf h ?_
  split <;> exact of_fst (engRead_wf h _ _ _ _ _) (by assumption)

theorem answerJoin_wf (h : memoriesWf s) (node slot r ok) : memoriesWf (answerJoin s node slot r ok) :=
  ite_wf (wakeColl_wf (modMembers_wf h _) _) (sendOut_wf h _)

theorem serveJoin_wf (h : memoriesWf s) (node slot desc entry) : memoriesWf (serveJoin s node slot desc entry) := by
  unfold serveJoin
  dsimp only
  split
  · exact h
  · exact answerJoin_wf (ite_wf (setRoot_wf h _) h) _ _ _ _

theorem clearHold_wf (h : memoriesWf s) (c i j) : memoriesWf (clearHold s c i j).1 := by
  unfold clearHold
  dsimp only
  refine ite_fst_wf h ?_
  refine foldl_fst_wf (fun _ _ h => ?_) _ h
  split
  · exact unitPut_wf h _ _ _ _
  · exact h

theorem createRoot_wf (h : memoriesWf s) (slot w) : memoriesWf (createRoot s slot w) :=
  foldl_wf (fun _ _ h => serveJoin_wf h _ _ _ _) _ (by exact with_wf (answerJoin_wf (sendOut_wf (setRoot_wf h _) _) _ _ _ _) rfl)

theorem leaveSlot_wf (h : memoriesWf s) (slot) : memoriesWf (leaveSlot s slot) := by
  unfold leaveSlot
  split <;> exact h

theorem askRoot_wf (h : memoriesWf s) (slot w r0 me) : memoriesWf (askRoot s slot w r0 me).1 := by
  unfold askRoot
  refine ite_fst_wf (sendOut_wf (setMember_wf h _) _) (ite_fst_wf (serveJoin_wf (setMember_wf h _) _ _ _ _) ?_)
  split
  · exact createRoot_wf (setMember_wf (of_fst (clearHold_wf h _ _ _) (by assumption)) _) _ _
  · exact clearHold_wf h _ _ _

theorem endJoin_wf (h : memoriesWf s) (d) : memoriesWf (endJoin s d).1 := by
  unfold endJoin
  split
  · exact h
  · split <;> exact h

theorem descPlace_wf (h : memoriesWf s) (va) : memoriesWf (descPlace s va).1 := by
  unfold descPlace
  dsimp only
  split
  · exact h
  · refine ite_fst_wf h ?_
    split <;> exact of_fst (translate_wf h _ _ _ _) (by assumption)

theorem touchRead_wf (h : memoriesWf s) (va n) : memoriesWf (touchRead s va n) := by
  unfold touchRead
  exact with_wf h rfl

theorem engThen_wf {α : Type} {x : State × Eng α} (h : memoriesWf x.1) {k} (hk : ∀ s v, memoriesWf s → memoriesWf (k s v).1) :
    memoriesWf (engThen x k).1 := by
  unfold engThen
  split
  · exact hk _ _ h
  · exact h
  · exact h
  · exact h

theorem joinOnce_wf (h : memoriesWf s) (d va) : memoriesWf (joinOnce d va s).1 := by
  unfold joinOnce
  refine ite_fst_wf (endJoin_wf h _) ?_
  split
  · exact of_fst (descPlace_wf h _) (by assumption)
  · exact engThen_wf (unitRead_wf (of_fst (descPlace_wf h _) (by assumption)) _ _)
      (fun _ _ h => ite_fst_wf h (ite_fst_wf h (engThen_wf (rosterEntry_wf h _ _ _ _)
        (fun _ _ h => engThen_wf (rosterEntry_wf h _ _ _ _) (fun _ _ h => ite_fst_wf h
          (engThen_wf (askRoot_wf (touchRead_wf (touchRead_wf h _ _) _ _) _ _ _ _) (fun _ _ h => endJoin_wf h _)))))))

theorem noticeLate_wf (h : memoriesWf s) (cid rank frame) : memoriesWf (noticeLate s cid rank frame) :=
  ite_wf (modMembers_wf (by exact h) _) (sendOut_wf (by exact h) _)

theorem dropLatePacket_wf (h : memoriesWf s) (p) : memoriesWf (dropLatePacket s p) := ite_wf (noticeLate_wf h _ _ _) h

theorem rootPacket_wf (h : memoriesWf s) (r p) : memoriesWf (rootPacket s r p) :=
  ite_wf (dropLatePacket_wf h _) (ite_wf (ite_wf (dropLatePacket_wf h _) (ite_wf h (setRoot_wf h _)))
    (ite_wf (ite_wf h (setRoot_wf h _)) h))

theorem pointMerge_wf (h : memoriesWf s) (x p fuel) : memoriesWf (pointMerge s x p fuel) := by
  induction fuel generalizing x p with
  | zero => exact sendOut_wf (setPoint_wf h _) _
  | succ fuel ih =>
    unfold pointMerge
    grind only [!sendOut_wf, !setPoint_wf]

theorem pointPacket_wf (h : memoriesWf s) (x p) : memoriesWf (pointPacket s x p) :=
  ite_wf (ite_wf (dropLatePacket_wf h _) (sendOut_wf h _)) (ite_wf (pointMerge_wf h _ _ _) (ite_wf (sendOut_wf h _) (setPoint_wf h _)))

theorem packetArrives_wf (h : memoriesWf s) (p) : memoriesWf (packetArrives s p) := by
  unfold packetArrives
  refine ite_wf h ?_
  split
  · exact rootPacket_wf h _ _
  · exact pointPacket_wf h _ _
  · exact sendOut_wf h _

theorem openPoint_wf (h : memoriesWf s) (cid frame close) : memoriesWf (openPoint s cid frame close) := by
  unfold openPoint
  split
  · exact h
  · exact foldl_wf (fun _ _ h => packetArrives_wf h _) _ (setPoint_wf h _)

theorem closeFrame_wf (h : memoriesWf s) (cid) : memoriesWf (closeFrame s cid) := by
  unfold closeFrame
  dsimp only
  split
  · exact modRoot_wf h _ _
  · split
    · exact modRoot_wf h _ _
    · exact ite_wf (modRoot_wf h _ _) (sendOut_wf (setPoint_wf (modRoot_wf h _ _) _) _)

theorem execCloseFlit_wf (h : memoriesWf s) (cid frame) : NextWf (execCloseFlit cid frame s) := by
  unfold execCloseFlit
  split
  · exact next_wf (ite_wf (setRoot_wf h _) h)
  · exact next_wf (sendOut_wf h _)

theorem heldTiles_wf (h : memoriesWf s) (r i) : memoriesWf (heldTiles s r i).1 := by
  unfold heldTiles
  grind only [!engRead_wf, !foldl_wf, !foldl_fst_wf]

theorem settleAt_wf (h : memoriesWf s) (r i) : memoriesWf (settleAt s r i).1 := by
  unfold settleAt
  grind only [!heldTiles_wf]

theorem presentMap_wf (h : memoriesWf s) (r) : memoriesWf (presentMap s r).1 := by
  unfold presentMap
  grind only [!fresh_wf, !foldl_wf, !foldl_fst_wf]

theorem putAll_wf (h : memoriesWf s) (r l) : memoriesWf (putAll s r l).1 := by
  induction l generalizing s with
  | nil => exact h
  | cons w ws ih =>
    have fold (one : State → Nat → List Byte → State × Eng Unit) (hone : ∀ s a b, memoriesWf s → memoriesWf (one s a b).1)
        (l : List (Nat × Nat)) (at_ : Nat) (d : List Byte) :
        memoriesWf (l.foldl (fun (p : State × Eng Unit) x => match p.2 with
          | .ok _ =>
            if r.lost.contains (x.1 / 64) then (p.1, .ok ())
            else
              match one p.1 x.1 ((d.drop (x.1 - at_)).take x.2) with
              | (s, .fail t) => (launchRecord s (unitRecord r.core r.lau.id (copyTrap t) 2), .ok ())
              | x => x
          | e => (p.1, e)) (s, Eng.ok ())).1 := by
      refine foldl_fst_wf (fun p x h => ?_) _ h
      split
      · refine ite_fst_wf h ?_
        have h1 := hone p.1 x.1 ((d.drop (x.1 - at_)).take x.2) h
        split
        · exact launchRecord_wf (of_fst h1 (by assumption)) _ _
        · exact h1
      · exact h
    unfold putAll
    cases w with
    | virt c l va d =>
      have res := fold (fun s a b => unitPut s (unitCtx c l) (unitIssuer c l.id) (BitVec.ofNat 64 a) b)
        (fun _ _ _ h => unitPut_wf h _ _ _ _) (granules va.toNat d.length) va.toNat d
      dsimp only
      split
      · exact ih (of_fst res (by assumption))
      · exact res
    | phys pa d =>
      have res := fold (fun s a b => surfacePut s r.core a b) (fun _ _ _ h => surfacePut_wf h _ _ _) (granules pa d.length) pa d
      dsimp only
      split
      · exact ih (of_fst res (by assumption))
      · exact res

theorem signalFrame_wf (h : memoriesWf s) (r) : memoriesWf (signalFrame s r).1 := by
  unfold signalFrame
  refine ite_fst_wf h ?_
  split
  · exact of_fst (translate_wf h _ _ _ _) (by assumption)
  · refine ite_fst_wf (of_fst (translate_wf h _ _ _ _) (by assumption)) ?_
    split
    · exact wakeWord_wf (of_fst (rmwPart_wf (of_fst (translate_wf h _ _ _ _) (by assumption)) _ _ _ _ _ _) (by assumption)) _
    · exact of_fst (rmwPart_wf (of_fst (translate_wf h _ _ _ _) (by assumption)) _ _ _ _ _ _) (by assumption)
    · exact of_fst (rmwPart_wf (of_fst (translate_wf h _ _ _ _) (by assumption)) _ _ _ _ _ _) (by assumption)

theorem completeMembers_wf (h : memoriesWf s) (cid frame status) : memoriesWf (completeMembers s cid frame status) :=
  wakeSlots_wf (modMembers_wf h _) _

theorem modHead_wf (h : memoriesWf s) (n f) : memoriesWf (modHead s n f) := h

theorem completeFrame_wf {s0} (h : memoriesWf s0) (r) : SomeWf (completeFrame s0 r) := by
  unfold completeFrame
  intro u e
  extract_lets j at_ park at e
  split at e
  next s vs e1 =>
  have h1 : memoriesWf s := by
    refine of_fst (foldl_fst_wf (fun p i h => ?_) _ ?_) e1
    · exact settleAt_wf h r i
    · exact h
  split at e
  next t present e2 =>
  have h2 : memoriesWf t := of_fst (presentMap_wf h1 r) e2
  extract_lets dest writes status finish at e
  have hpark (x) : SomeWf (park x) := by
    rintro _ ⟨⟩
    exact pumpRecords_wf (launchRecord_wf (setRoot_wf h _) _ _)
  have hfinish (s) (h : memoriesWf s) : memoriesWf (finish s) := by
    refine foldl_wf (fun _ _ h => packetArrives_wf h _) _ (openMembers_wf (completeMembers_wf (sendOut_wf (ite_wf ?_ ?_) _) _ _ _) _ _ _)
    · exact modHead_wf (setRoot_wf h _) _ _
    · exact setRoot_wf h _
  split at e
  · exact keepRecalls_wf h _ _ e
  · exact hpark _ _ e
  · have h3 := of_fst (putAll_wf h2 r writes) (by assumption)
    split at e
    · exact keepRecalls_wf h _ _ e
    · split at e
      · cases e; exact hfinish _ h3
      · exact hpark _ _ e
    · cases e; exact hfinish _ (launchRecord_wf (of_fst (signalFrame_wf h3 r) (by assumption)) _ _)
    · cases e; exact hfinish _ (of_fst (signalFrame_wf h3 r) (by assumption))

theorem execFrameComplete_wf (h : memoriesWf s) (cid frame status) : NextWf (execFrameComplete cid frame status s) := by
  unfold execFrameComplete
  split
  · exact next_wf (ite_wf (pumpRecords_wf (getD_wf h (completeFrame_wf h _))) h)
  · exact next_wf (completeMembers_wf h _ _ _)

theorem settledDown_wf (h : memoriesWf s) (cid frame block data) : memoriesWf (settledDown s cid frame block data) := by
  refine foldl_wf (fun s m h => ?_) _ h
  split
  · exact h
  · next l _ =>
    refine ite_wf (setMember_wf h _) ?_
    have res (l' : List (Nat × Nat)) (va : Dword) : memoriesWf (l'.foldl (fun (p : State × Eng Unit) x =>
        match p.2 with
        | .ok _ => unitPut p.1 (unitCtx m.core l) (unitIssuer m.core l.id) (BitVec.ofNat 64 x.1) ((data.drop (x.1 - va.toNat)).take x.2)
        | e => (p.1, e)) (s, Eng.ok ())).1 := by
      refine foldl_fst_wf (fun p x h => ?_) _ h
      split
      · exact unitPut_wf h _ _ _ _
      · exact h
    dsimp only
    split <;> have h1 := of_fst (res _ _) (by assumption)
    · exact h1
    · exact ite_wf h1 h1
    · exact launchRecord_wf (setMember_wf h1 _) _ _
    · exact launchRecord_wf h1 _ _

theorem postOnce_wf (h : memoriesWf s) (tensor va x) : memoriesWf (postOnce tensor va x s).1 := by
  unfold postOnce
  split
  · exact h
  · exact ite_fst_wf h (engThen_wf (unitRead_wf h _ _) (fun _ _ h => ite_fst_wf h
      (ite_fst_wf (noticeLate_wf (touchRead_wf h _ _) _ _ _) (packetArrives_wf (setMember_wf (touchRead_wf h _ _) _) _))))

theorem postBody_wf {x} (h : memoriesWf x) (gr tensor a b) : memoriesWf (postBody gr tensor a b x).1 :=
  warpLevel_wf _ _ (fun _ _ h => postOnce_wf h _ _ _) h

theorem waitOnce_wf (h : memoriesWf s) (test d x) : memoriesWf (waitOnce test d x s).1 := by
  have acq (w : Warp) : memoriesWf (acquire { s with cur := w } allLanes .system) := acquire_wf (by exact h) _ _
  unfold waitOnce
  refine ite_fst_wf h ?_
  split
  · exact h
  · refine ite_fst_wf (ite_fst_wf ?_ h) ?_
    · dsimp only
      exact acq _
    split
    · dsimp only
      exact acq _
    · exact ite_fst_wf h (ite_fst_wf h h)

/-! ### The completion of launches and passes -/

theorem writeBackDie_wf (h : memoriesWf s) (launch d) : memoriesWf (writeBackDie s launch d) := writeBackLines_wf h _ _

theorem closeLaunch_wf (h : memoriesWf s) (id) : memoriesWf (closeLaunch s id) :=
  foldl_wf (fun _ _ h => writeBackDie_wf h _ _) _ (publishAll_wf (foldl_wf (fun _ _ h => mergeUpd_wf h _ _) _ h) _ _)

theorem finishLaunch_wf (h : memoriesWf s) (l) : memoriesWf (finishLaunch s l) :=
  settleSignals_wf (by exact with_wf (foldl_wf (fun _ _ h => leaveSlot_wf h _) _ h) rfl)

theorem endLaunch_wf (h : memoriesWf s) (l) : ∀ u, endLaunch s l = some u → memoriesWf u.1 := by
  unfold endLaunch
  grind only [!closeLaunch_wf, !finishLaunch_wf]

theorem execLaunchComplete_wf (h : memoriesWf s) (launch) : NextWf (execLaunchComplete launch s) := by
  unfold execLaunchComplete
  split
  · refine next_wf (ite_wf (pumpRecords_wf ?_) h)
    split
    · exact endLaunch_wf h _ _ (by assumption)
    · exact h
  · exact next_wf h

theorem endPass_wf (h : memoriesWf s) (p) : SomeWf (endPass s p) := by
  unfold endPass
  intro u e
  dsimp only at e
  split at e
  · cases e; exact h
  · split at e
    · cases e; exact (endLaunch_wf h _ _ (by assumption) :)
    · cases e; exact endLaunch_wf h _ _ (by assumption)
    · cases e

theorem execPassComplete_wf (h : memoriesWf s) (q) : NextWf (execPassComplete q s) := by
  unfold execPassComplete
  split
  · exact next_wf (pumpRecords_wf (getD_wf h (endPass_wf h _)))
  · exact next_wf h

/-! ### What reaches homes and holders -/

theorem execHomeRequest_wf (h : memoriesWf s) (r) : NextWf (execHomeRequest r s) := by
  unfold execHomeRequest
  split
  · exact ite_next_wf (next_wf h) (next_wf (pumpRecords_wf (submit_wf h _)))
  · exact next_wf (ite_wf (pumpRecords_wf (submit_wf h _)) h)

theorem execStashRecall_wf (h : memoriesWf s) (core entry line write) : NextWf (execStashRecall core entry line write s) := by
  unfold execStashRecall
  refine next_wf ?_
  split
  · exact recallStashAt_wf h _ _ _
  · exact h

theorem execHolderInvalidation_wf (h : memoriesWf s) (line holder) : NextWf (execHolderInvalidation line holder s) := by
  unfold execHolderInvalidation
  split
  · exact next_wf (with_wf (dropProxy_wf h _) rfl)
  · exact next_wf (recallStashAt_wf h _ _ _)

theorem holderGone_wf (h : memoriesWf s) (e holder stays) : memoriesWf (holderGone s e holder stays) :=
  ite_wf (setDir_wf h _) (setDir_wf h _)

theorem writeBack_wf (h : memoriesWf s) (line d) : memoriesWf (writeBack s line d) := by
  have h1 : memoriesWf { s with home := { s.home.setGran (line * 64) { s.home.granAt (line * 64) with poisoned := false, corrupt := false } with
      mem := s.home.mem.put (line * 64) (lineBytes d 0 64) } } := homePut_wf h _ _
  exact tagLine_wf h1 _ _ _ _

theorem execInvalidationAcknowledgement_wf (h : memoriesWf s) (line holder data) : NextWf (execInvalidationAcknowledgement line holder data s) := by
  unfold execInvalidationAcknowledgement
  split
  · exact next_wf h
  · refine ite_next_wf (next_wf h) ?_
    refine next_wf ?_
    refine pumpRecords_wf ?_
    refine serveHeld_wf ?_
    refine holderGone_wf ?_ _ _ _
    split
    · exact writeBack_wf h _ _
    · exact h

theorem execPromotionRetire_wf (h : memoriesWf s) (core epoch) : NextWf (execPromotionRetire core epoch s) := by
  rintro _ ⟨⟩
  refine foldl_wf (fun s e h => ?_) _ ?_
  · exact h
  · exact h

theorem promotionsDone_wf (h : memoriesWf s) (core slot) : memoriesWf (promotionsDone s core slot) := by
  unfold promotionsDone
  split
  · split
    · exact settlePromotions_wf (by exact with_wf (focus_wf h _ _) rfl) _
    · exact h
  · exact h

theorem setPlaced_wf (h : memoriesWf s) (block p) : memoriesWf (setPlaced s block p) := h

theorem execMigrationSwitch_wf (h : memoriesWf s) (block) : NextWf (execMigrationSwitch block s) := by
  unfold execMigrationSwitch
  split
  · exact next_wf (pumpRecords_wf (serveHeld_wf (setPlaced_wf h _ _)))
  · exact next_wf h

theorem execMigrationReturnStart_wf (h : memoriesWf s) (block) : NextWf (execMigrationReturnStart block s) := by
  unfold execMigrationReturnStart
  split
  · exact next_wf (setPlaced_wf h _ _)
  · exact next_wf h

theorem execMigrationReturnComplete_wf (h : memoriesWf s) (block) : NextWf (execMigrationReturnComplete block s) := by
  unfold execMigrationReturnComplete
  split
  · exact next_wf (pumpRecords_wf (serveHeld_wf (setPlaced_wf h _ _)))
  · exact next_wf h

theorem dropRemote_wf (h : memoriesWf s) : memoriesWf (dropRemote s) := by
  obtain ⟨hm, hh, hn, hk, hks⟩ := memoriesWf_iff.1 h
  exact memoriesWf_iff.2 ⟨hm, hh, hn, hk, forall_map hks fun _ hk => hk⟩

theorem execFabricLeaseRenewal_wf (h : memoriesWf s) (node) : NextWf (execFabricLeaseRenewal node s) := by
  unfold execFabricLeaseRenewal
  grind only [memoriesWf_iff, NextWf, !dropRemote_wf, !nodeOf_wf, !setNode_wf]

theorem execFanoutTimeout_wf (h : memoriesWf s) (line node) : NextWf (execFanoutTimeout line node s) := by
  unfold execFanoutTimeout
  split
  · exact next_wf h
  · exact ite_next_wf (next_wf h) (next_wf h)

theorem execReroute_wf (h : memoriesWf s) (line node) : NextWf (execReroute line node s) := by
  unfold execReroute
  split
  · exact next_wf h
  · exact ite_next_wf (next_wf h) (next_wf h)

theorem agentsLeave_wf (h : memoriesWf s) (gone e) : memoriesWf (agentsLeave s gone e) := by
  unfold agentsLeave
  refine ite_wf h ?_
  refine ite_wf ?_ (setDir_wf (ite_wf (by exact with_wf (ite_wf (poisonAt_wf h _) h) rfl) (ite_wf (poisonAt_wf h _) h)) _)
  refine foldl_wf (fun _ _ h => ?_) _ (ite_wf (by exact with_wf (ite_wf (poisonAt_wf h _) h) rfl) (ite_wf (poisonAt_wf h _) h))
  split
  · exact holderGone_wf h _ _ _
  · exact h

theorem nodeLeaves_wf (h : memoriesWf s) (node e) : memoriesWf (nodeLeaves s node e) := agentsLeave_wf h _ _

theorem dropRequests_wf (h : memoriesWf s) (node) : memoriesWf (dropRequests s node) := h

theorem collectivesLose_wf (h : memoriesWf s) (node) : memoriesWf (collectivesLose s node) :=
  wakeColl_wf (wakeSlots_wf (modMembers_wf (by exact h) _) _) _

theorem execNodeDeclaredFailed_wf (h : memoriesWf s) (node) : NextWf (execNodeDeclaredFailed node s) := by
  unfold execNodeDeclaredFailed
  grind only [NextWf, !collectivesLose_wf, !dropRequests_wf, !nodeLeaves_wf, !nodeOf_wf, !pumpRecords_wf, !serveHeld_wf, !setNode_wf, !foldl_wf, !foldl_fst_wf]

theorem replaceMe_wf (h : memoriesWf s) : memoriesWf (replaceMe s) := h

theorem killOn_wf (h : memoriesWf s) (p) : memoriesWf (killOn s p) := foldl_wf (fun _ _ h => killBlock_wf h _ _ _) _ h

theorem dropShootdowns_wf (h : memoriesWf s) (p) : memoriesWf (dropShootdowns s p) := h

theorem dropClaims_wf (h : memoriesWf s) (p) : memoriesWf (dropClaims s p) := by
  unfold dropClaims
  exact with_wf h rfl

theorem quarantineCluster_wf (h : memoriesWf s) (cl) : memoriesWf (quarantineCluster s cl) :=
  ite_wf h (pumpRecords_wf (dropShootdowns_wf (killOn_wf (dropClaims_wf (replaceMe_wf (by exact h)) _) _) _))

theorem loseCore_wf (h : memoriesWf s) (k) : memoriesWf (loseCore s k) :=
  modCore_wf (foldl_wf (fun _ _ h => poisonAt_wf h _) _ h) _ fun _ hk => ⟨hk.1, by simp⟩

theorem loseProxies_wf (h : memoriesWf s) (gone) : memoriesWf (loseProxies s gone) := foldl_wf (fun _ _ h => dropProxy_wf h _) _ h

theorem losePlaced_wf (h : memoriesWf s) (die gone) : memoriesWf (losePlaced s die gone) :=
  foldl_wf (fun _ _ h => setPlaced_wf h _ _) _ (foldl_wf (fun _ _ h => poisonAt_wf h _) _ h)

theorem quarantineDie_wf (h : memoriesWf s) (n) : memoriesWf (quarantineDie s n) := by
  unfold quarantineDie
  grind only [memoriesWf_iff, !agentsLeave_wf, !dropClaims_wf, !dropShootdowns_wf, !killOn_wf, !loseCore_wf, !losePlaced_wf, !loseProxies_wf, !pumpRecords_wf, !replaceMe_wf, !serveHeld_wf, !settleDraws_wf, !foldl_wf, !foldl_fst_wf]

theorem quarantineSlice_wf (h : memoriesWf s) (die slice) : memoriesWf (quarantineSlice s die slice) :=
  ite_wf h (ite_wf (quarantineDie_wf (loseProxies_wf (losePlaced_wf (replaceMe_wf (by exact h)) _ _) _) _)
    (pumpRecords_wf (serveHeld_wf (loseProxies_wf (losePlaced_wf (replaceMe_wf (by exact h)) _ _) _))))

theorem quarantinePort_wf (h : memoriesWf s) (port) : memoriesWf (quarantinePort s port) := ite_wf h (replaceMe_wf h)

/-! ### The matrix engine -/

theorem setJob_wf (h : memoriesWf s) (c old new) : memoriesWf (setJob s c old new) := modCore_wf h _ fun _ h => h

theorem wakeMatrix_wf (h : memoriesWf s) (c) : memoriesWf (wakeMatrix s c) := mapWarps_wf h _ _

theorem dropJob_wf (h : memoriesWf s) (c j) : memoriesWf (dropJob s c j) := by
  unfold dropJob
  grind only [CoreWf, !modCore_wf, !wakeMatrix_wf]

theorem failJob_wf (h : memoriesWf s) (c j t) : memoriesWf (failJob s c j t) :=
  dropJob_wf (ite_wf (launchRecord_wf h _ _) (modWarp_wf (launchRecord_wf h _ _) _ _ _)) _ _

theorem suspendJob_wf (h : memoriesWf s) (c old new t) : memoriesWf (suspendJob s c old new t) :=
  pumpRecords_wf (launchRecord_wf (setJob_wf h _ _ _) _ _)

theorem jobRead_wf (h : memoriesWf s) (c j va n) : memoriesWf (jobRead s c j va n).1 := by
  unfold jobRead
  grind only [!engRead_wf, !engWatch_wf]

theorem stageRows_wf (h : memoriesWf s) (c x kk j r n) : memoriesWf (stageRows s c x kk j r n).1 := by
  induction n generalizing s j r with
  | zero => exact h
  | succ n ih =>
    unfold stageRows
    split <;> have h1 := of_fst (jobRead_wf h _ _ _ _) (by assumption)
    · split
      · split <;> have h2 := of_fst (jobRead_wf h1 _ _ _ _) (by assumption)
        · exact ih h2 _ _
        · exact h2
        · exact h2
        · exact h2
      · exact ih h1 _ _
    · exact h1
    · exact h1
    · exact h1

theorem modStream_wf (h : memoriesWf s) (launch cohort sid f) : memoriesWf (modStream s launch cohort sid f) := modLaunch_wf h _ _

theorem consume_wf (h : memoriesWf s) (c j sid) : memoriesWf (consume s c j sid) := by
  unfold consume
  split
  · exact modStream_wf h _ _ _ _
  · exact h

theorem stageSide_wf (h : memoriesWf s) (c j x r kk from_ n) : memoriesWf (stageSide s c j x r kk from_ n).1 := by
  unfold stageSide
  refine ite_fst_wf h (ite_fst_wf (stageRows_wf h _ _ _ _ _ _) ?_)
  split
  · exact h
  · split
    · exact h
    · exact ite_fst_wf (consume_wf h _ _ _) h

theorem jobBytes_wf (h : memoriesWf s) (c j l) : memoriesWf (jobBytes s c j l).1 := by
  induction l generalizing s j with
  | nil => exact h
  | cons a r ih =>
    unfold jobBytes
    split
    · have h1 := of_fst (jobRead_wf h _ _ _ _) (by assumption)
      split
      · exact of_fst (ih h1 _) (by assumption)
      · exact ih h1 _
    · exact jobRead_wf h _ _ _ _

theorem loadRows_wf (h : memoriesWf s) (c base pitch fmt n j) : memoriesWf (loadRows s c base pitch fmt n j).1 := by
  induction n generalizing s j with
  | zero => exact h
  | succ n ih =>
    unfold loadRows
    split <;> have h1 := of_fst (jobBytes_wf h _ _ _) (by assumption)
    · exact ih h1 _
    · exact h1
    · exact h1
    · exact h1

theorem jobWrite_wf (h : memoriesWf s) (c j got va d l) : memoriesWf (jobWrite s c j got va d l).1 := by
  induction l generalizing s j with
  | nil => exact h
  | cons a r ih =>
    unfold jobWrite
    split <;> have h1 := of_fst (engWrite_wf h _ _ _ _ _) (by assumption)
    · exact ih (engWatch_wf h1 _ _ _ _ _ _) _
    · exact h1
    · exact h1
    · exact h1
    · exact h1

theorem storeRows_wf (h : memoriesWf s) (c acc base pitch fmt scale rnd sat n j) :
    memoriesWf (storeRows s c acc base pitch fmt scale rnd sat n j).1 := by
  induction n generalizing s j with
  | zero => exact h
  | succ n ih =>
    have take (va len) : memoriesWf (if inAperture base then (s, [], Eng.ok ())
        else takeLines s (jobCtx s c j) (jobIssuer s c j) [] (lineAddrs va len)).1 := ite_fst_wf h (takeLines_wf h _ _ _ _)
    unfold storeRows
    dsimp only
    split <;> have h1 := of_fst (take _ _) (by assumption)
    · split <;> have h2 := of_fst (jobWrite_wf h1 _ _ _ _ _ _) (by assumption)
      · exact ih h2 _
      · exact h2
    · exact h1

theorem jobEnd_wf (c old) {done} (hdone : ∀ s j, memoriesWf s → SomeWf (done s j)) {s}
    {r : State × Job × Eng Unit} (hr : memoriesWf r.1) : SomeWf (jobEnd s c old done r) := by
  unfold jobEnd
  intro u e
  split at e
  · exact hdone _ _ (setJob_wf hr _ _ _) _ e
  · split at e
    · cases e
    · cases e; exact setJob_wf hr _ _ _
  · cases e; exact suspendJob_wf hr _ _ _ _
  · cases e; exact failJob_wf (setJob_wf hr _ _ _) _ _ _

theorem putAcc_wf (h : memoriesWf s) (c j a x) : memoriesWf (putAcc s c j a x) := by
  unfold putAcc
  split
  · exact ite_wf (setWarp_wf h _ _) (modCore_wf h _ fun _ h => h)
  · exact modCore_wf h _ fun _ h => h

theorem cardStep_wf (h : memoriesWf s) (c j w acc) : SomeWf (cardStep s c j w acc) := by
  unfold cardStep
  grind only [SomeWf, !consume_wf, !coreAt_wf, !dropJob_wf, !jobEnd_wf, !putAcc_wf, !setJob_wf, !stageSide_wf]

theorem storeStep_wf (h : memoriesWf s) (c j acc base pitch fmt scale rnd sat) : SomeWf (storeStep s c j acc base pitch fmt scale rnd sat) := by
  unfold storeStep
  grind only [CoreWf, SomeWf, !dropJob_wf, !jobEnd_wf, !modCore_wf, !serveHeld_wf, !storeRows_wf]

theorem jobStep_wf (h : memoriesWf s) (c entry) : SomeWf (jobStep s c entry) := by
  unfold jobStep
  grind only [SomeWf, !cardStep_wf, !coreAt_wf, !dropJob_wf, !jobEnd_wf, !loadRows_wf, !putAcc_wf, !storeStep_wf, !foldl_wf, !foldl_fst_wf]

theorem streamFetch_wf (h : memoriesWf s) (c entry) : SomeWf (streamFetch s c entry) := by
  unfold streamFetch
  grind only [SomeWf, !coreAt_wf, !jobEnd_wf, !modStream_wf, !stageRows_wf]

theorem issueJob_wf (h : memoriesWf s) (kind accs idx d) : memoriesWf (issueJob s kind accs idx d).1 := by
  unfold issueJob
  grind only [CoreWf, memoriesWf_iff]

theorem readCard_wf (h : memoriesWf s) (va) : memoriesWf (readCard s va).1 := by
  unfold readCard
  split
  · exact h
  · split
    · exact of_fst (resolve_wf h _ _ _ _ _ _ _ _) (by assumption)
    · have h1 := of_fst (resolve_wf h _ _ _ _ _ _ _ _) (by assumption)
      refine ite_fst_wf h1 ?_
      split
      · exact h1
      · grind only [!loadAcc_wf]

theorem execMjob_wf (h : memoriesWf s) (gr a) : NextWf (execMjob gr a s) := by
  unfold execMjob
  refine perform_wf _ (fun _ h => ?_) h
  split
  · exact h
  · exact h
  · refine warpLevel_wf _ _ (fun _ _ h => ?_) h
    split
    · exact of_fst (readCard_wf h _) (by assumption)
    · exact of_fst (readCard_wf h _) (by assumption)
    · split
      · exact of_fst (readCard_wf h _) (by assumption)
      · exact ite_fst_wf (of_fst (readCard_wf h _) (by assumption)) (issueJob_wf (of_fst (readCard_wf h _) (by assumption)) _ _ _ _)

theorem matWait_wf (h : memoriesWf s) (gr m all) : memoriesWf (matWait gr m all s).1 := by
  unfold matWait
  refine ite_fst_wf (endGroup_wf h _) (ite_fst_wf h ?_)
  refine ite_fst_wf h ?_
  split
  · exact h
  · exact endGroup_wf h _

theorem issueLoad_wf (h : memoriesWf s) (a src) : memoriesWf (issueLoad s a src).1 := by
  unfold issueLoad
  refine ite_fst_wf h ?_
  split
  · exact h
  · exact issueJob_wf h _ _ _ _

theorem issueStore_wf (h : memoriesWf s) (a gr scale dst) : memoriesWf (issueStore s a gr scale dst).1 := by
  unfold issueStore
  dsimp only
  refine ite_fst_wf h ?_
  split
  · exact h
  · split
    · exact h
    · exact issueJob_wf h _ _ _ _

theorem execMstreamSub_wf (h : memoriesWf s) (gr a) : NextWf (execMstreamSub gr a s) := by
  unfold execMstreamSub
  refine perform_wf _ (fun _ h => warpLevel_wf _ _ (fun _ _ h => ?_) h) h
  refine ite_fst_wf h (ite_fst_wf h ?_)
  split
  · exact ite_fst_wf h (modStream_wf h _ _ _ _)
  · exact ite_fst_wf h (modLaunch_wf h _ _)

/-! ### Rays and tree queries -/

theorem setRay_wf (h : memoriesWf s) (l r) : memoriesWf (setRay s l r) := h

theorem landFree_wf (h : memoriesWf s) (reg n l) : memoriesWf (landFree s reg n l) := landWords_wf (by exact h) _ _ _

theorem rayResult_wf (h : memoriesWf s) (l dst status x) : memoriesWf (rayResult s l dst status x) := by
  unfold rayResult
  split
  · exact landWords_wf h _ _ _
  · exact landFree_wf (landWords_wf h _ _ _) _ _ _

theorem rayEnd_wf (h : memoriesWf s) (l r) : memoriesWf (rayEnd s l r) := by
  unfold rayEnd
  split
  · exact landWords_wf (setRay_wf h _ _) _ _ _
  · exact rayResult_wf (setRay_wf h _ _) _ _ _ _

theorem rayMalformed_wf (h : memoriesWf s) (l r) : memoriesWf (rayMalformed s l r) := by
  unfold rayMalformed
  split
  · exact landWords_wf (setRay_wf h _ _) _ _ _
  · exact rayResult_wf (setRay_wf h _ _) _ _ _ _

theorem rayFail_wf (h : memoriesWf s) (l r t) : memoriesWf (rayFail s l r t) := by
  unfold rayFail
  split
  · exact landFree_wf (pumpRecords_wf (launchRecord_wf (setRay_wf h _ _) _ _)) _ _ _
  · exact rayResult_wf (pumpRecords_wf (launchRecord_wf (setRay_wf h _ _) _ _)) _ _ _ _

theorem rayMeets_wf (h : memoriesWf s) (l r t) : memoriesWf (rayMeets s l r t) :=
  ite_wf (pumpRecords_wf (launchRecord_wf (setRay_wf h _ _) _ _)) (rayFail_wf h _ _ _)

theorem rayLoad_wf (l) {r : State × Except Trap Machine.Acc} (h : memoriesWf r.1) : memoriesWf (rayLoad l r).1 := by
  unfold rayLoad
  split
  · exact h
  · split
    · exact of_fst (loadAcc_wf h _ _ _ _) (by assumption)
    · exact of_fst (loadAcc_wf h _ _ _ _) (by assumption)
    · exact ite_fst_wf (of_fst (loadAcc_wf h _ _ _ _) (by assumption))
        (touchAll_wf (giveTokens_wf (of_fst (loadAcc_wf h _ _ _ _) (by assumption)) _ _ _) _)

theorem rayRead_wf (h : memoriesWf s) (l va) : memoriesWf (rayRead s l va).1 := rayLoad_wf _ (resolve_wf h _ _ _ _ _ _ _ _)

theorem entryAcc_wf (h : memoriesWf s) (l p k) : memoriesWf (entryAcc s l p k).1 := privAcc_wf h _ _ _ _ _ _ _ _

theorem spill_wf (h : memoriesWf s) (l vs e) : memoriesWf (spill l vs e s).1 := by
  induction vs generalizing s e with
  | nil => exact h
  | cons v r ih =>
    unfold spill
    split
    · exact h
    · split <;> have h1 := of_fst (entryAcc_wf h _ _ _) (by assumption)
      · exact h1
      · split <;> have h2 := of_fst (markDirty_wf h1 _ _) (by assumption)
        · exact h2
        · split <;> have h3 := of_fst (storeAcc_wf h2 _ _ _ _) (by assumption)
          · exact ih (touchAll_wf h3 _) _
          · exact h3
          · exact h3

theorem pushVisit_wf (h : memoriesWf s) (l r v) : memoriesWf (pushVisit s l r v).1 := by
  unfold pushVisit
  refine ite_fst_wf h ?_
  split <;> exact of_fst (spill_wf h _ _ _) (by assumption)

theorem pushVisits_wf (h : memoriesWf s) (l r vs) : memoriesWf (pushVisits s l r vs).1 := by
  unfold pushVisits
  dsimp only
  refine foldl_fst_wf (fun _ _ h => ?_) _ h
  split
  · exact pushVisit_wf h _ _ _
  · exact h

theorem refill_wf (h : memoriesWf s) (l n r) : memoriesWf (refill l n s r).1 := by
  induction n generalizing s r with
  | zero => exact h
  | succ n ih =>
    unfold refill
    split
    · exact h
    · split <;> have h1 := of_fst (rayLoad_wf l (entryAcc_wf h _ _ _)) (by assumption)
      · exact ite_fst_wf h1 (ih h1 _)
      · exact h1
      · exact h1
      · exact h1

theorem visitNode_wf (h : memoriesWf s) (l r v b) : memoriesWf (visitNode s l r v b).1 := ite_fst_wf h (pushVisits_wf h _ _ _)

theorem visitLeaf_wf (h : memoriesWf s) (r v b) : memoriesWf (visitLeaf s r v b).1 := by
  unfold visitLeaf
  dsimp only
  split
  · refine ite_fst_wf h ?_
    split <;> exact h
  · refine ite_fst_wf h ?_
    split <;> exact h

theorem rayTake_wf (h : memoriesWf s) (l r va) {k} (hk : ∀ s b, memoriesWf s → memoriesWf (k s b).1) : memoriesWf (rayTake s l r va k) := by
  unfold rayTake
  split <;> have h1 := of_fst (rayRead_wf h _ _) (by assumption)
  · exact h1
  · exact rayMeets_wf h1 _ _ _
  · exact rayMalformed_wf h1 _ _
  · split <;> have h2 := of_fst (hk _ _ h1) (by assumption)
    · exact setRay_wf h2 _ _
    · exact rayMalformed_wf h2 _ _
    · exact rayMeets_wf h2 _ _ _
    · exact h2

theorem rayInstance_wf (h : memoriesWf s) (l r inst) : memoriesWf (rayInstance s l r inst) :=
  rayTake_wf h _ _ _ fun _ _ h => ite_fst_wf h h

theorem rayHit_wf (h : memoriesWf s) (l r x opaq) : memoriesWf (rayHit s l r x opaq) :=
  ite_wf (setRay_wf h _ _) (ite_wf (rayResult_wf (setRay_wf h _ _) _ _ _ _) (ite_wf (rayEnd_wf h _ _) (setRay_wf h _ _)))

theorem rayStep_wf (h : memoriesWf s) (l r) : memoriesWf (rayStep s l r) := by
  unfold rayStep
  split
  · exact rayHit_wf h _ _ _ _
  · exact ite_wf (ite_wf (rayInstance_wf h _ _ _) (rayTake_wf h _ _ _ fun _ _ h => visitLeaf_wf h _ _ _))
      (ite_wf (rayMalformed_wf h _ _) (rayTake_wf h _ _ _ (fun _ _ h => ite_fst_wf h (pushVisit_wf h _ _ _))))
  · exact ite_wf (rayInstance_wf h _ _ _) (rayTake_wf h _ _ _ fun _ _ h => visitNode_wf h _ _ _ _)
  · refine ite_wf (rayEnd_wf h _ _) ?_
    split
    · exact setRay_wf (of_fst (refill_wf h _ _ _) (by assumption)) _ _
    · exact rayMalformed_wf (of_fst (refill_wf h _ _ _) (by assumption)) _ _
    · exact rayMeets_wf (of_fst (refill_wf h _ _ _) (by assumption)) _ _ _
    · exact of_fst (refill_wf h _ _ _) (by assumption)

theorem execRayTraversalStep_wf (h : memoriesWf s) (core slot lane) : NextWf (execRayTraversalStep core slot lane s) := by
  unfold execRayTraversalStep
  split
  · exact next_wf h
  · split
    · exact ite_next_wf (next_wf (rayStep_wf (focus_wf h _ _) _ _)) (next_wf h)
    · exact next_wf h

theorem execRtrace_wf (h : memoriesWf s) (gr d a lka b) : NextWf (execRtrace gr d a lka b s) := by
  unfold execRtrace
  refine perform_wf _ (fun _ h => ?_) h
  split
  · exact h
  · exact ending_wf _ (runReps_wf _ (fun _ _ h => ite_fst_wf h
      (ite_fst_wf h (foldl_wf (fun _ _ h => ite_wf (rayResult_wf (setRay_wf h _ _) _ _ _ _) (setRay_wf h _ _)) _ (by exact h)))) h)

theorem execRquery_wf (h : memoriesWf s) (gr d a lka b) : NextWf (execRquery gr d a lka b s) := by
  unfold execRquery
  dsimp only
  refine perform_wf _ (fun _ h => ?_) h
  split
  · exact h
  · exact ending_wf _ (runReps_wf _ (fun _ _ h => ite_fst_wf h (ite_fst_wf h (foldl_wf (fun _ _ h => setRay_wf h _ _) _ (by exact h)))) h)

theorem rayContinue_wf (h : memoriesWf s) (l r o) : memoriesWf (rayContinue s l r o) := by
  unfold rayContinue
  split
  · exact setRay_wf h _ _
  · exact ite_wf (rayEnd_wf h _ _) (setRay_wf h _ _)
  · exact rayEnd_wf h _ _
  · exact rayEnd_wf h _ _

theorem execRtcont_wf (h : memoriesWf s) (gr d o) : NextWf (execRtcont gr d o s) := by
  unfold execRtcont
  refine perform_wf _ (fun _ h => ?_) h
  split
  · exact h
  · refine ending_wf _ (runReps_wf _ (fun _ _ h => ?_) h)
    refine ite_fst_wf h ?_
    refine foldl_wf (fun _ _ h => ?_) _ h
    split
    · exact rayContinue_wf h _ _ _
    · exact rayResult_wf h _ _ _ _

theorem hsortFollow_wf (h : memoriesWf s) (ws order) : memoriesWf (hsortFollow s ws order) := by
  unfold hsortFollow
  grind only [CoreWf, memoriesWf_iff]

theorem hsortRun_wf (h : memoriesWf s) : memoriesWf (hsortRun s) :=
  foldl_wf (fun _ _ h => emit_wf (setWarp_wf (setWarp_wf h _ _) _ _) _ _ _ _) _ (hsortFollow_wf h _ _)

theorem execHsort_wf (h : memoriesWf s) (gr d a lka) : NextWf (execHsort gr d a lka s) := by
  unfold execHsort
  refine perform_wf _ (fun _ h => ?_) h
  split
  · exact h
  · exact h
  · exact ite_fst_wf h (ite_wf (hsortRun_wf h) h)

/-! ### Active warps and the results that land -/

theorem execActiveSetEntry_wf (h : memoriesWf s) (core laneSet) : NextWf (execActiveSetEntry core laneSet s) := by
  unfold execActiveSetEntry
  grind only [CoreWf, NextWf, !coreAt_wf, !modCore_wf, !modWarp_wf]

theorem goPending_wf (h : memoriesWf s) (core slot) : memoriesWf (goPending s core slot) := leaveActive_wf (modWarp_wf h _ _ _) _ _

theorem refillWarp_wf (h : memoriesWf s) (c slot) : memoriesWf (refillWarp s c slot) := by
  unfold refillWarp
  split
  · exact h
  · split
    · exact keepRecalls_getD_wf h _
    · have h1 := of_fst (imageRead_wf h _) (by assumption)
      split
      · exact setWarp_wf h1 _ _
      · exact takeTrap_wf (focus_wf (setWarp_wf h1 _ _) _ _) _

theorem execWarpExit_wf (h : memoriesWf s) (core slot) : NextWf (execWarpExit core slot s) := by
  unfold execWarpExit
  refine next_wf ?_
  split
  · exact pumpRecords_wf (warpEnd_wf h _ _)
  · exact h

theorem landReturn_wf (h : memoriesWf s) (c w r) : memoriesWf (landReturn s c w r) :=
  ite_wf (setWarp_wf h _ _) (ite_wf (foldl_wf (fun _ _ h => physPost_wf h _ _) _ h) (setWarp_wf h _ _))

theorem coreDropReturn_wf {k} (h : CoreWf k) (r) : CoreWf (Core.dropReturn k r) := h

theorem execResultReturn_wf (h : memoriesWf s) (core slot) : NextWf (execResultReturn core slot s) := by
  unfold execResultReturn
  grind only [CoreWf, NextWf, !coreAt_wf, !coreDropReturn_wf, !landReturn_wf, !modCore_wf]

theorem testResp_wf (h : memoriesWf s) (pa) : memoriesWf (testResp s pa).1 := by
  unfold testResp
  split
  · exact physWaits_wf h _ _ _ _ (by assumption)
  · split <;> exact of_fst (physNat_wf h _ _) (by assumption)

theorem pollStatus_wf (h : memoriesWf s) (st) : ∀ {t r}, pollStatus s st = some (t, r) → memoriesWf t := by
  unfold pollStatus
  intro t r e
  split at e
  · split at e <;> cases e <;> exact of_fst (testResp_wf h _) (by assumption)
  · cases e

theorem pollWarp_wf (h : memoriesWf s) (core slot) : memoriesWf (pollWarp s core slot) := by
  unfold pollWarp
  split
  · exact h
  · split
    · refine ite_wf h ?_
      split
      · exact modWarp_wf (of_fst (testResp_wf h _) (by assumption)) _ _ _
      · exact ite_wf (acquire_wf (by exact with_wf (focus_wf (of_fst (testResp_wf h _) (by assumption)) _ _) rfl) _ _)
          (takeUnserviced_wf (acquire_wf (by exact with_wf (focus_wf (of_fst (testResp_wf h _) (by assumption)) _ _) rfl) _ _) _)
    · exact h

theorem pollRay_wf (h : memoriesWf s) (core slot lane) : memoriesWf (pollRay s core slot lane) := by
  unfold pollRay
  dsimp only
  split
  · exact h
  · split
    · split
      · exact setRay_wf (of_fst (testResp_wf (focus_wf h _ _) _) (by assumption)) _ _
      · exact setRay_wf (of_fst (testResp_wf (focus_wf h _ _) _) (by assumption)) _ _
      · exact rayFail_wf (of_fst (testResp_wf (focus_wf h _ _) _) (by assumption)) _ _ _
    · exact h

theorem pollCopy_wf (h : memoriesWf s) (core c) : memoriesWf (pollCopy s core c) := by
  unfold pollCopy
  split
  · exact h
  · next x hx =>
    have hs : x.snap.wf = true := (coreAt_wf h core).2 x (List.mem_of_find?_eq_some hx)
    split
    · exact setCopy_wf (pollStatus_wf h _ (by assumption)) _ _ hs
    · exact failCopy_wf (pollStatus_wf h _ (by assumption)) _ _ _
    · exact h

theorem pollJob_wf (h : memoriesWf s) (core e) : memoriesWf (pollJob s core e) := by
  unfold pollJob
  split
  · exact h
  · split
    · exact setJob_wf (pollStatus_wf h _ (by assumption)) _ _ _
    · exact failJob_wf (pollStatus_wf h _ (by assumption)) _ _ _
    · exact h

theorem pollTile_wf (h : memoriesWf s) (q tx ty) : memoriesWf (pollTile s q tx ty) := by
  unfold pollTile
  split
  · exact h
  · split
    · exact modPass_wf (pollStatus_wf h _ (by assumption)) _ _
    · exact modPass_wf (pollStatus_wf h _ (by assumption)) _ _
    · exact modPass_wf (pollStatus_wf h _ (by assumption)) _ _
    · exact h

theorem pollRoot_wf (h : memoriesWf s) (cid) : memoriesWf (pollRoot s cid) := by
  unfold pollRoot
  split
  · exact h
  · split
    · exact setRoot_wf (pollStatus_wf h _ (by assumption)) _
    · exact launchRecord_wf (setRoot_wf (pollStatus_wf h _ (by assumption)) _) _ _
    · exact h

theorem pollMember_wf (h : memoriesWf s) (slot) : memoriesWf (pollMember s slot) := by
  have more (s : State) (h : memoriesWf s) (l : List Instr) : memoriesWf { s with inputs := l } := h
  unfold pollMember
  split
  · exact h
  · split
    · exact more _ (setMember_wf (pollStatus_wf h _ (by assumption)) _) _
    · exact setMember_wf (pollStatus_wf h _ (by assumption)) _
    · exact launchRecord_wf (setMember_wf (pollStatus_wf h _ (by assumption)) _) _ _
    · exact h

theorem execFaultRespPoll_wf (h : memoriesWf s) (core unit) : NextWf (execFaultRespPoll core unit s) := by
  unfold execFaultRespPoll
  refine next_wf ?_
  refine pumpRecords_wf ?_
  split
  · exact pollWarp_wf h _ _
  · exact pollCopy_wf h _ _
  · exact pollJob_wf h _ _
  · exact pollRay_wf h _ _ _
  · exact pollTile_wf h _ _ _
  · exact pollRoot_wf h _
  · exact pollMember_wf h _

/-! ### Patches and the boot -/

theorem execPatchActivation_wf (h : memoriesWf s) : NextWf (execPatchActivation s) := by
  unfold execPatchActivation
  split
  · exact next_wf h
  · exact ite_next_wf (next_wf h) (next_wf h)

theorem held_wf (h : memoriesWf s) (f b) : memoriesWf (held s f b) := by
  obtain ⟨-, hh, hn, -, -⟩ := memoriesWf_iff.1 h
  exact memoriesWf_iff.2 ⟨rfl, hh, hn, by simp [held, CoreWf], by simp [held]⟩

theorem runFirmware_wf (h : memoriesWf s) : memoriesWf (runFirmware s) := h

theorem execReset_wf (h : memoriesWf s) : NextWf (execReset s) := by
  unfold execReset
  grind only [memoriesWf_iff, NextWf, !held_wf, !runFirmware_wf]

theorem recoveryFails_wf (h : memoriesWf s) : memoriesWf (recoveryFails s) := by
  unfold recoveryFails
  split <;> exact h

theorem execRecoveryReadComplete_wf (h : memoriesWf s) (fw) : NextWf (execRecoveryReadComplete fw s) := by
  unfold execRecoveryReadComplete
  split
  · exact ite_next_wf (next_wf (runFirmware_wf h)) (next_wf (recoveryFails_wf h))
  · exact next_wf h

/-! ### Branches, calls and microprograms -/

theorem execSfu_wf (h : memoriesWf s) (gr d a lka x) : NextWf (execSfu gr d a lka x s) := by
  unfold execSfu
  grind only [memoriesWf_iff, !ending_wf, !landVec_wf, !perform_wf, !runReps_wf]

theorem execSget_wf (h : memoriesWf s) (gr d e) : NextWf (execSget gr d e s) := by
  unfold execSget
  dsimp only
  refine perform_wf _ (fun _ h => ?_) h
  split
  · exact h
  · exact ending_wf _ (runReps_wf _ (fun _ _ h => h) h)

theorem branchTo_wf (h : memoriesWf s) (g o taken) : memoriesWf (branchTo g o taken s).1 := with_wf (emitCur_wf h _ _) rfl

theorem branchMicro_wf (h : memoriesWf s) (g m o taken) : memoriesWf (branchMicro g m o taken s).1 :=
  ite_fst_wf h (ite_fst_wf h (endGroup_wf h _))

theorem execBra_wf (h : memoriesWf s) (gr p n o) : NextWf (execBra gr p n o s) := by
  unfold execBra
  refine perform_wf _ (fun _ h => ?_) h
  split
  · exact ite_fst_wf h (branchMicro_wf h _ _ _ _)
  · exact branchTo_wf h _ _ _

theorem execBrp_wf (h : memoriesWf s) (gr p n o) : NextWf (execBrp gr p n o s) := by
  unfold execBrp
  refine perform_wf _ (fun _ h => ?_) h
  split
  · exact branchMicro_wf h _ _ _ _
  · exact branchTo_wf h _ _ _

theorem execBrs_wf (h : memoriesWf s) (gr p n o) : NextWf (execBrs gr p n o s) := by
  unfold execBrs
  refine perform_wf _ (fun _ h => ?_) h
  split
  · exact branchMicro_wf h _ _ _ _
  · exact branchTo_wf h _ _ _

theorem execCall_wf (h : memoriesWf s) (gr p n o) : NextWf (execCall gr p n o s) :=
  perform_wf _ (fun _ h => ite_fst_wf h (with_wf (with_wf (emitCur_wf h _ _) rfl) rfl)) h

theorem jumpTo_wf (h : memoriesWf s) (g a lka kind link) : memoriesWf (jumpTo g a lka kind link s).1 := by
  unfold jumpTo
  dsimp only
  split
  · exact h
  · refine runReps_wf _ (fun _ _ h => ?_) h
    split
    · exact h
    · exact ite_fst_wf h (with_wf (emitCur_wf h _ _) rfl)

theorem execExitL_wf (h : memoriesWf s) (gr) : NextWf (execExitL gr s) := by
  unfold execExitL
  grind only [memoriesWf_iff, NextWf, !afterExit_wf, !emitCur_wf, !endGroup_wf, !perform_wf]

theorem execYield_wf (h : memoriesWf s) (gr) : NextWf (execYield gr s) :=
  perform_wf _ (fun _ h => ite_wf (by exact with_wf (endGroup_wf h _) rfl) (endGroup_wf h _)) h

theorem execNop_wf (h : memoriesWf s) (gr) : NextWf (execNop gr s) := perform_wf _ (fun _ h => endGroup_wf h _) h

theorem execMcall_wf (h : memoriesWf s) (gr ptwo pone pzero slot) : NextWf (execMcall gr ptwo pone pzero slot s) :=
  perform_wf _ (fun _ h => ite_fst_wf (endGroup_wf h _) (ite_fst_wf h (ite_fst_wf h h))) h

theorem commitMicro_wf (h : memoriesWf s) (m) : memoriesWf (commitMicro s m) := ite_wf h h

theorem execMret_wf (h : memoriesWf s) (gr) : NextWf (execMret gr s) := by
  unfold execMret
  refine perform_wf _ (fun _ h => ?_) h
  split
  · exact ite_fst_wf (endGroup_wf h _) h
  · exact ite_fst_wf (endGroup_wf h _) (commitMicro_wf h _)

theorem execLichenEmulation_wf (h : memoriesWf s) (g word cslot psel) : NextWf (execLichenEmulation g word cslot psel s) := by
  unfold execLichenEmulation
  dsimp only
  refine ite_next_wf (next_wf h) ?_
  split
  · exact next_wf (pumpRecords_wf (takeTrap_wf (by exact h) _))
  · exact ite_next_wf (next_wf (with_wf (endGroup_wf (by exact h) _) rfl)) (next_wf (with_wf (emitCur_wf (by exact h) _ _) rfl))

/-! ### System instructions -/

theorem execTrapI_wf (h : memoriesWf s) (gr c) : NextWf (execTrapI gr c s) := perform_wf _ (fun _ h => ite_fst_wf (endGroup_wf h _) h) h

theorem execBkpt_wf (h : memoriesWf s) (gr c) : NextWf (execBkpt gr c s) := perform_wf _ (fun _ h => ite_fst_wf (endGroup_wf h _) h) h

theorem execRti_wf (h : memoriesWf s) (gr) : NextWf (execRti gr s) :=
  perform_wf _ (fun _ h => ite_fst_wf (endGroup_wf h _) (ite_fst_wf h (with_wf (emitCur_wf h _ _) rfl))) h

theorem execTmask_wf (h : memoriesWf s) (gr m) : NextWf (execTmask gr m s) :=
  perform_wf _ (fun _ h => ite_fst_wf (endGroup_wf h _) (ite_fst_wf h (endGroup_wf (by exact h) _))) h

theorem execSysrd_wf (h : memoriesWf s) (gr d i) : NextWf (execSysrd gr d i s) := by
  unfold execSysrd
  refine perform_wf _ (fun _ h => warpLevel_wf _ _ (fun _ _ h => ?_) h) h
  split
  · exact h
  · exact landS_wf h _ _

theorem sysWrite_wf (h : memoriesWf s) (n x) : ∀ u, sysWrite s n x = .ok u → memoriesWf u := by
  unfold sysWrite
  grind only [CoreWf, memoriesWf_iff]

theorem execSyswr_wf (h : memoriesWf s) (gr a i) : NextWf (execSyswr gr a i s) := by
  unfold execSyswr
  grind only [NextWf, !perform_wf, !sysWrite_wf, !warpLevel_wf]

theorem shootdownCore_wf (h : memoriesWf s) (core x) : memoriesWf (shootdownCore s core x) := by
  unfold shootdownCore
  refine serveHeld_wf (modCore_wf (foldl_wf (fun _ _ h => mergeUpd_wf h _ _) _ ?_) _ fun k hk => ⟨hk.1, forall_map hk.2 fun c hc => ?_⟩)
  · refine modCore_wf (foldl_wf (fun s x h => ?_) _ h) _ fun _ hk => hk
    split
    exact ite_wf (stashWriteBack_wf h _ _ _) h
  · split <;> exact hc

theorem shootdownComplete_wf (h : memoriesWf s) (core) : memoriesWf (shootdownComplete s core) :=
  foldl_wf (fun _ _ h => ite_wf (modWarp_wf h _ _ _) h) _ (by exact with_wf (foldl_wf (fun _ _ h => shootdownCore_wf h _ _) _ h) rfl)

theorem tlbinv_wf (h : memoriesWf s) (gr d regs range) : memoriesWf (tlbinv gr d regs range s).1 :=
  warpLevel_wf _ _ (fun _ _ h => ite_fst_wf h (ite_fst_wf h (ite_fst_wf h h))) h

/-! ### What the management core reads -/

theorem stateWord_wf (h : memoriesWf s) (area unit off) : memoriesWf (stateWord s area unit off).1 := by
  unfold stateWord
  split <;> exact h

theorem stateWords_wf (h : memoriesWf s) (area unit off n) : memoriesWf (stateWords s area unit off n).1 := by
  induction n generalizing s off with
  | zero => exact h
  | succ n ih => exact ih (stateWord_wf h _ _ _) _

/-! ### Inbound windows, registers and the mailbox -/

theorem mailboxCommand_wf (h : memoriesWf s) (cmd) : memoriesWf (mailboxCommand s cmd) := by
  unfold mailboxCommand
  split <;> exact h

theorem commandEnds_wf (h : memoriesWf s) (status) : memoriesWf (commandEnds s status) := h

theorem writeMailbox_wf (h : memoriesWf s) (o x) : memoriesWf (writeMailbox s o x) :=
  ite_wf (ite_wf h (mailboxCommand_wf h _)) (ite_wf h (ite_wf (with_wf h rfl) h))

theorem writeControl_wf (h : memoriesWf s) (q x) : memoriesWf (writeControl s q x) :=
  ite_wf (clearQueue_wf (ite_wf (killQueue_wf (ite_wf (resumeQueue_wf (ite_wf (preemptQueue_wf h _) h) _)
    (ite_wf (preemptQueue_wf h _) h)) _) (ite_wf (resumeQueue_wf (ite_wf (preemptQueue_wf h _) h) _) (ite_wf (preemptQueue_wf h _) h))) _)
      (ite_wf (killQueue_wf (ite_wf (resumeQueue_wf (ite_wf (preemptQueue_wf h _) h) _) (ite_wf (preemptQueue_wf h _) h)) _)
        (ite_wf (resumeQueue_wf (ite_wf (preemptQueue_wf h _) h) _) (ite_wf (preemptQueue_wf h _) h)))

theorem regWrite_wf (h : memoriesWf s) (pa x) : memoriesWf (regWrite s pa x) := by
  unfold regWrite
  refine ite_wf h ?_
  refine ite_wf ?_ (ite_wf (ite_wf (openPass_wf h _ _) h) (ite_wf (writeMailbox_wf h _ _) h))
  split
  · exact writeTail_wf h _ _
  · exact writeControl_wf h _ _
  · exact waitTest_wf h _
  · exact h

theorem nak_wf (h : memoriesWf s) (a) : memoriesWf (nak s a) := h

theorem answerHost_wf (h : memoriesWf s) (a) : memoriesWf (answerHost s a) := h

theorem rdmaPerform_wf (h : memoriesWf s) (conn pa key r) : memoriesWf (rdmaPerform s conn pa key r).1 := by
  unfold rdmaPerform
  dsimp only
  split
  · split <;> exact of_fst (physRead_wf h _ _ _) (by assumption)
  · refine foldl_fst_wf (fun _ _ h => ?_) _ h
    split <;> exact of_fst (performReq_wf h _) (by assumption)
  · split
    · exact h
    · split <;> exact of_fst (performReq_wf h _) (by assumption)

theorem holdRdma_wf (h : memoriesWf s) (i e) : memoriesWf (holdRdma s i e) := h

theorem dropRdma_wf (h : memoriesWf s) (i) : memoriesWf (dropRdma s i) := h

theorem rdma_wf (h : memoriesWf s) (i conn rkey va r) : memoriesWf (rdma i conn rkey va r s) := by
  unfold rdma
  grind only [memoriesWf_iff, !answerHost_wf, !dropRdma_wf, !holdRdma_wf, !nak_wf, !rdmaPerform_wf, !regWrite_wf, !serveHeld_wf, !startRecall_wf, !foldl_wf, !foldl_fst_wf]

theorem dropKeyAt_wf (h : memoriesWf s) (key core) : memoriesWf (dropKeyAt s key core) :=
  modCore_wf (foldl_wf (fun _ _ h => mergeUpd_wf h _ _) _ (foldl_wf (fun _ _ h => stashWriteBack_wf h _ _ _) _ h)) _ fun _ h => h

theorem publishKey_wf (h : memoriesWf s) (key l) : memoriesWf (publishKey s key l) := publishLines_wf h _ _ _

theorem writeBackKey_wf (h : memoriesWf s) (key d) : memoriesWf (writeBackKey s key d) := writeBackLines_wf h _ _

theorem dropKey_wf (h : memoriesWf s) (key) : memoriesWf (dropKey s key) :=
  foldl_wf (fun _ _ h => writeBackKey_wf h _ _) _ (foldl_wf (fun _ _ h => publishKey_wf h _ _) _
    (foldl_wf (fun _ _ h => dropKeyAt_wf h _ _) _ h))

theorem dropKeyEntries_wf (h : memoriesWf s) (key) : memoriesWf (dropKeyEntries s key) := by
  obtain ⟨hm, hh, hn, hk, hks⟩ := memoriesWf_iff.1 h
  exact memoriesWf_iff.2 ⟨hm, hh, hn, hk, forall_map hks fun _ hk => hk⟩

theorem execKeyunload_wf (h : memoriesWf s) (id) : NextWf (execKeyunload id s) :=
  next_wf (pumpRecords_wf (ite_wf (commandEnds_wf h _) (ite_wf h
    (ite_wf (with_wf (dropKey_wf h _) rfl) (commandEnds_wf (by exact with_wf (dropKeyEntries_wf (dropKey_wf h _) _) rfl) _)))))

theorem whenServed_wf (h : memoriesWf s) (i pa n write) {go} (hgo : ∀ s, memoriesWf s → memoriesWf (go s)) :
    memoriesWf (whenServed s i pa n write go) := by
  unfold whenServed
  split
  · have h1 := physWaits_wf h _ _ _ _ (by assumption)
    exact h1
  · exact hgo s h

theorem execPatch_wf (h : memoriesWf s) (pa) : NextWf (execPatch pa s) := by
  unfold execPatch
  refine ite_next_wf (next_wf (commandEnds_wf h _)) ?_
  refine next_wf ?_
  refine whenServed_wf h _ _ _ _ fun _ h => ?_
  split
  · exact commandEnds_wf (of_fst (physRead_wf h _ _ _) (by assumption)) _
  · split
    · exact commandEnds_wf (of_fst (physRead_wf h _ _ _) (by assumption)) _
    · exact commandEnds_wf (by exact (of_fst (physRead_wf h _ _ _) (by assumption) :)) _

theorem execAttest_wf (h : memoriesWf s) (nonce buf) : NextWf (execAttest nonce buf s) := by
  unfold execAttest
  refine ite_next_wf (next_wf (commandEnds_wf h _)) ?_
  refine next_wf ?_
  refine whenServed_wf h _ _ _ _ fun _ h => ?_
  split
  · exact commandEnds_wf (of_fst (physRead_wf h _ _ _) (by assumption)) _
  · exact ite_wf (commandEnds_wf (of_fst (physRead_wf h _ _ _) (by assumption)) _)
      (whenServed_wf (of_fst (physRead_wf h _ _ _) (by assumption)) _ _ _ _ (fun _ h => commandEnds_wf (physWrite_wf h _ _ _) _))

theorem execScanout_wf (h : memoriesWf s) (head desc) : NextWf (execScanout head desc s) := by
  unfold execScanout
  refine ite_next_wf (next_wf (commandEnds_wf h _)) ?_
  refine next_wf ?_
  refine whenServed_wf h _ _ _ _ fun _ h => ?_
  split
  · exact commandEnds_wf (of_fst (physRead_wf h _ _ _) (by assumption)) _
  · exact ite_wf (commandEnds_wf (of_fst (physRead_wf h _ _ _) (by assumption)) _)
      (commandEnds_wf (by exact (of_fst (physRead_wf h _ _ _) (by assumption) :)) _)

theorem execStateread_wf (h : memoriesWf s) (addr buf len) : NextWf (execStateread addr buf len s) :=
  ite_next_wf (next_wf (commandEnds_wf h _)) (next_wf (whenServed_wf h _ _ _ _
    (fun _ h => commandEnds_wf (physWrite_wf (stateWords_wf h _ _ _ _) _ _ _) _)))

theorem moveWarps_wf (h : memoriesWf s) (c bslot ws) : memoriesWf (moveWarps s c bslot ws) := by
  induction ws generalizing s with
  | nil => exact h
  | cons w r ih => exact ih (modCore_wf h c fun _ hk => hk)

theorem execRelocation_wf (h : memoriesWf s) (launch block core) : NextWf (execRelocation launch block core s) := by
  unfold execRelocation
  intro u e
  extract_lets id at_ at e
  split at e
  · next c b l hb _ =>
    have hbl : b.local_.wf = true := by
      obtain ⟨k, hk, hfind⟩ := List.exists_of_findSome?_eq_some hb
      obtain ⟨b', hb', hbb⟩ := Option.map_eq_some_iff.1 hfind
      cases hbb
      exact (allCores_wf h k hk).1 _ (List.mem_of_find?_eq_some hb')
    split at e
    · cases e; exact h
    · split at e
      · cases e; exact of_error (loadMicro_wf h _ _) (by assumption)
      · next t _ =>
        have h1 : memoriesWf t := of_ok (loadMicro_wf h _ _) (by assumption)
        extract_lets ws s1 s2 s3 bslot s4 at e
        have h2 : memoriesWf s1 := foldl_wf (fun _ _ h => ite_wf h (imageOut_wf h _ _)) _ h1
        have h3 : memoriesWf s2 := foldl_wf (fun _ _ h => leaveActive_wf (removeWarp_wf (saveGens_wf h _ _) _ _) _ _) _ h2
        have h4 : memoriesWf s3 := modCore_wf h3 _ fun _ hk => ⟨fun b hb => hk.1 b (List.mem_filter.1 hb).1, hk.2⟩
        have h5 : memoriesWf s4 := setBlock_wf h4 _ hbl
        have h6 := moveWarps_wf h5 core bslot ws
        obtain rfl := Host.Outcome.next.inj e
        exact h6
  · cases e; exact h

theorem countError_wf (h : memoriesWf s) (unit uncorrectable) : memoriesWf (countError s unit uncorrectable) :=
  ite_wf (ite_wf (by exact with_wf h rfl) (by exact with_wf h rfl))
    (ite_wf (quarantineCluster_wf (ite_wf (by exact with_wf h rfl) (by exact with_wf h rfl)) _)
      (quarantineSlice_wf (ite_wf (by exact with_wf h rfl) (by exact with_wf h rfl)) _ _))

theorem softTrap_wf (h : memoriesWf s) (c slot sub) : memoriesWf (softTrap s c slot sub) := by
  unfold softTrap
  split
  · exact takeTrap_wf (focus_wf h _ _) _
  · exact h

theorem uncorrectable_wf (h : memoriesWf s) (x) : memoriesWf (uncorrectable s x) := by
  unfold uncorrectable
  split
  · exact softTrap_wf h _ _ _
  · exact softTrap_wf h _ _ _
  · split
    · exact failCopy_wf h _ _ _
    · exact h
  · split
    · exact failJob_wf h _ _ _
    · exact h
  · split
    · exact rayFail_wf (focus_wf h _ _) _ _ _
    · exact h
  · exact h
  · exact modCore_wf h _ fun _ h => h
  · exact softTrap_wf (poisonAt_wf h _) _ _ _
  · refine softTrap_wf ?_ _ _ _
    split
    · exact ite_wf (setDir_wf (sendOut_wf (setDir_wf (recallLine_wf (poisonAt_wf h _) _ _) _) _) _)
        (sendOut_wf (setDir_wf (recallLine_wf (poisonAt_wf h _) _ _) _) _)
    · exact sendOut_wf (setDir_wf (recallLine_wf (poisonAt_wf h _) _ _) _) _

theorem modTempo_wf (h : memoriesWf s) (cl f) : memoriesWf (modTempo s cl f) := h

theorem countReports_wf (h : memoriesWf s) : memoriesWf (countReports s) := foldl_wf (fun _ _ h => by exact h) _ h

/-! ### Core images -/

theorem freeNote_wf (h : memoriesWf s) (ty head) : memoriesWf (freeNote s ty head).1 := h

theorem blockNotes_wf (h : memoriesWf s) (c b) : memoriesWf (blockNotes s c b).1 := h

theorem coreImage_wf (h : memoriesWf s) (ls cause) : memoriesWf (coreImage s ls cause).1 := by
  unfold coreImage
  grind only [!blockNotes_wf, !foldl_wf, !foldl_fst_wf]

theorem writeDump_wf (h : memoriesWf s) (image) : memoriesWf (writeDump s image) := by
  obtain ⟨hm, hh, hr⟩ := memoriesWf_iff.1 h
  unfold writeDump
  split
  · exact h
  · exact ite_wf h (memoriesWf_iff.2 ⟨hm, put_wf (put_wf hh _ _) _ _, hr⟩)

theorem killProcess_wf (h : memoriesWf s) (l) : memoriesWf (killProcess s l) := setQueue_wf (killLaunch_wf h _ _) _

theorem execCoreDump_wf (h : memoriesWf s) (launch) : NextWf (execCoreDump launch s) := by
  unfold execCoreDump
  grind only [memoriesWf_iff, NextWf, !coreImage_wf, !killProcess_wf, !pumpRecords_wf, !setPreempted_wf, !writeDump_wf, !foldl_wf, !foldl_fst_wf]

/-! ### How a group is formed -/

theorem keepWord_wf (h : memoriesWf s) (va w) : memoriesWf (keepWord s va w) := ite_wf h h

theorem fetchWord_wf (h : memoriesWf s) (va) : memoriesWf (fetchWord s va).1 := by
  unfold fetchWord
  refine ite_fst_wf h ?_
  split
  · exact h
  · split
    · exact of_fst (translate_wf h _ _ _ _) (by assumption)
    · split
      · exact keepWord_wf (of_fst (loadAcc_wf (of_fst (translate_wf h _ _ _ _) (by assumption)) _ _ _ _) (by assumption)) _ _
      · exact of_fst (loadAcc_wf (of_fst (translate_wf h _ _ _ _) (by assumption)) _ _ _ _) (by assumption)
      · exact of_fst (loadAcc_wf (of_fst (translate_wf h _ _ _ _) (by assumption)) _ _ _ _) (by assumption)

theorem emitPatches_wf (h : memoriesWf s) (f) : memoriesWf (emitPatches s f) := foldl_wf (fun _ _ h => emitCur_wf h _ _) _ h

theorem fetchGroup_wf (h : memoriesWf s) (fuel f) : memoriesWf (fetchGroup fuel f s).1 := by
  induction fuel generalizing s f with
  | zero => exact h
  | succ fuel ih =>
    unfold fetchGroup
    dsimp only
    split <;> have h1 := of_fst (fetchWord_wf h _) (by assumption)
    · exact h1
    · exact h1
    · refine ite_fst_wf h1 ?_
      split
      · exact emitPatches_wf h1 _
      · exact emitPatches_wf h1 _
      · split
        · exact ih h1 _
        · exact emitPatches_wf h1 _

theorem traceMask_wf (h : memoriesWf s) : memoriesWf (traceMask s) := ite_wf h (with_wf (ite_wf h (emitCur_wf h _ _)) rfl)

theorem trapForming_wf (h : memoriesWf s) (t) : memoriesWf (trapForming s t) :=
  pumpRecords_wf (takeTrap_wf (ite_wf h (by exact with_wf h rfl)) _)

theorem nextGroup_wf (h : memoriesWf s) : memoriesWf (nextGroup s).1 := by
  unfold nextGroup
  split
  · exact h
  · split
    · exact h
    · exact fetchGroup_wf h _ _

/-! ### Events -/

theorem settleWaits_wf (h : memoriesWf s) : memoriesWf (settleWaits s) :=
  foldl_wf (fun _ _ h => refillWarp_wf h _ _) _ (ite_wf (pumpRecords_wf
    (settleDraws_wf (ite_wf (ite_wf (pumpRecords_wf h) h) (settleSignals_wf (ite_wf (pumpRecords_wf h) h)))))
      (ite_wf (ite_wf (pumpRecords_wf h) h) (settleSignals_wf (ite_wf (pumpRecords_wf h) h))))

theorem tick_wf (h : memoriesWf s) (who) : memoriesWf (tick who s) := by
  unfold tick
  grind only [memoriesWf_iff, !mapAllWarps_wf, !settleWaits_wf]

theorem retry_wf (h : memoriesWf s) : memoriesWf (retry s) := h

theorem countTurn_wf (h : memoriesWf s) (s0 c slot) : memoriesWf (countTurn s0 c slot s) := by
  have h1 (f : Warp → Warp) (n : Nat) : memoriesWf { s.mapWarps c f with rr := n } := mapWarps_wf h c f
  exact h1 _ _

theorem afterIssue_wf (h : memoriesWf s) (c slot) : memoriesWf (afterIssue c slot s) := by
  unfold afterIssue
  split
  · exact ite_wf (goPending_wf (setWarp_wf h _ _) _ _) h
  · exact h

/-! ### The step -/

theorem exec_wf (h : memoriesWf s) (i) : NextWf (exec i s) := by
  cases i
  case iadd | isub | imul | imulhiS | imulhiU | imad | iminS | iminU | imaxS | imaxU | iabs | andV | orV | xorV | shl | shr |
      sar | bfe | bfi | popc | clz | icmp | sel | mov | movi | iaddi | andi | ori | xori | andni | shli | shri | sari | roti |
      fadd | fsub | fmul | ffma | fmin | fmax | fcmp | fclass | frnd | f2i | i2f | fcvt | hadd2 | hmul2 | hfma2 | dot4 | fscale |
      shfl | vote | matchV | redux | pscan | part | v2s | s2v | pmovAnd | pmovOr | pmovXor | pmovP2v | pmovV2p | pmovP2s |
      pmovS2p | sadd | ssub | smul | sand | sor | sxor | sandn | sshl | sshr | ssar | srot | scmp | smov | smovTlo | smovThi |
      smovSlo | smovShi | smovi | saddi | sbfe | smin | smax | spopc | sclz | sctz | sbrev =>
    exact perform_wf _ (fun _ h => runWarp_wf h _ _) h
  case sfu => exact execSfu_wf h _ _ _ _ _
  case sget => exact execSget_wf h _ _ _
  case bra => exact execBra_wf h _ _ _ _
  case brp => exact execBrp_wf h _ _ _ _
  case brs => exact execBrs_wf h _ _ _ _
  case jmpi | calli | ret => exact perform_wf _ (fun _ h => jumpTo_wf h _ _ _ _ _) h
  case call => exact execCall_wf h _ _ _ _
  case exitL => exact execExitL_wf h _
  case yield => exact execYield_wf h _
  case nop => exact execNop_wf h _
  case mcall => exact execMcall_wf h _ _ _ _ _
  case mret => exact execMret_wf h _
  case ld => exact execLd_wf h _ _ _ _ _ _ _
  case st => exact execSt_wf h _ _ _ _ _ _
  case ldl => exact execLdl_wf h _ _ _ _ _ _ _
  case stl => exact execStl_wf h _ _ _ _ _ _ _
  case ldu => exact execLdu_wf h _ _ _ _ _ _
  case stu => exact execStu_wf h _ _ _ _ _
  case atom => exact execAtom_wf h _ _ _ _ _ _
  case cas => exact execCas_wf h _ _ _ _ _ _
  case red => exact execRed_wf h _ _ _ _ _ _
  case redHome => exact execRedHome_wf h _ _ _ _ _ _
  case atoml => exact execAtoml_wf h _ _ _ _ _
  case redl => exact execRedl_wf h _ _ _ _ _
  case fenceAcq => exact execFenceAcq_wf h _
  case fenceRel => exact execFenceRel_wf h _
  case fenceSc => exact execFenceSc_wf h _
  case cfence => exact execCfence_wf h _
  case publish => exact execPublish_wf h _
  case prefetch => exact execPrefetch_wf h _ _ _ _
  case lock => exact execLock_wf h _ _ _ _
  case unlock => exact execUnlock_wf h _ _ _ _
  case stashMap => exact execStashMap_wf h _ _ _ _
  case stashUnmap => exact execStashUnmap_wf h _ _
  case ldp => exact execLdp_wf h _ _ _ _ _ _
  case stp => exact execStp_wf h _ _ _ _ _ _
  case acopy => exact execAcopy_wf h _ _ _ _
  case axform => exact execAxform_wf h _ _ _ _
  case agather => exact execAgather_wf h _ _ _ _
  case bclose => exact execBclose_wf h _
  case waitb => exact execWaitb_wf h _ _
  case hwaitFull => exact execHwaitFull_wf h _ _
  case hwaitFree => exact execHwaitFree_wf h _ _
  case hsetDrain => exact execHsetDrain_wf h _ _
  case hsetFree => exact execHsetFree_wf h _ _
  case wptr => exact execWptr_wf h _ _ _
  case bar => exact execBar_wf h _
  case cbar => exact execCbar_wf h _
  case nbar => exact execNbar_wf h _ _ _ _
  case signal => exact execSignal_wf h _ _ _ _
  case softintQ => exact execSoftintQ_wf h _ _ _
  case softintM => exact execSoftintM_wf h _ _
  case waits => exact execWaits_wf h _ _ _ _ _
  case mjob => exact execMjob_wf h _ _
  case mwait | mwaitAll => exact perform_wf _ (fun _ h => matWait_wf h _ _ _) h
  case mzero => exact perform_wf _ (fun _ h => warpLevel_wf _ _ (fun _ _ h => ite_fst_wf h (ite_fst_wf h (issueJob_wf h _ _ _ _))) h) h
  case mldaTile | mldaGlobal => exact perform_wf _ (fun _ h => warpLevel_wf _ _ (fun _ _ h => issueLoad_wf h _ _) h) h
  case mstaTile | mstaGlobal => exact perform_wf _ (fun _ h => warpLevel_wf _ _ (fun _ _ h => issueStore_wf h _ _ _ _) h) h
  case mstreamSub => exact execMstreamSub_wf h _ _
  case mstreamUnsub =>
    exact perform_wf _ (fun _ h => warpLevel_wf _ _ (fun _ _ h => ite_fst_wf h (ite_fst_wf h (modLaunch_wf (modStream_wf h _ _ _ _) _ _))) h) h
  case visemit => exact execVisemit_wf h _ _ _ _ _
  case ldcl => exact execLdcl_wf h _ _ _ _ _ _
  case tex => exact execTex_wf h _ _ _ _ _
  case texfb => exact execTexfb_wf h _ _ _ _ _
  case rtrace => exact execRtrace_wf h _ _ _ _ _
  case rquery => exact execRquery_wf h _ _ _ _ _
  case rtcont => exact execRtcont_wf h _ _ _
  case hsort => exact execHsort_wf h _ _ _ _
  case rpix => exact execRpix_wf h _ _ _ _ _ _ _
  case visrd => exact execVisrd_wf h _ _ _
  case visrdPix => exact execVisrdPix_wf h _ _ _ _ _
  case cpost | cred => exact perform_wf _ (fun _ h => postBody_wf h _ _ _ _) h
  case cwait => exact perform_wf _ (fun _ h => warpLevel_wf _ _ (fun _ _ h => waitOnce_wf h _ _ _) h) h
  case cjoin => exact perform_wf _ (fun _ h => warpLevel_wf _ _ (fun _ _ h => joinOnce_wf h _ _) h) h
  case cjoinLeave => exact perform_wf _ (fun _ h => warpLevel_wf _ _ (fun _ _ h => ite_fst_wf h (ite_fst_wf h (leaveSlot_wf h _))) h) h
  case trapI => exact execTrapI_wf h _ _
  case rti => exact execRti_wf h _
  case bkpt => exact execBkpt_wf h _ _
  case sysrd => exact execSysrd_wf h _ _ _
  case syswr => exact execSyswr_wf h _ _ _
  case tmask => exact execTmask_wf h _ _
  case tlbinvPage | tlbinvRange | tlbinvSpace => exact perform_wf _ (fun _ h => tlbinv_wf h _ _ _ _) h
  case lichenEmulation => exact execLichenEmulation_wf h _ _ _ _
  case resultReturn => exact execResultReturn_wf h _ _
  case homeRequest => exact execHomeRequest_wf h _
  case performedAtHome | l1LeaseExpiry => exact next_wf (modCore_wf h _ fun _ h => h)
  case stashRecall => exact execStashRecall_wf h _ _ _ _
  case updateLineRecall => exact next_wf (pumpRecords_wf (mergeUpd_wf h _ _))
  case holderInvalidation => exact execHolderInvalidation_wf h _ _
  case taggedWriteReturned => exact next_wf (pumpRecords_wf (serveHeld_wf h))
  case promotionRetire => exact execPromotionRetire_wf h _ _
  case promotionQuery | promotionAnswer => exact next_wf (promotionsDone_wf (modWarp_wf h _ _ _) _ _)
  case migrationStart => exact next_wf (ite_wf h (setPlaced_wf h _ _))
  case migrationSwitch => exact execMigrationSwitch_wf h _
  case migrationReturnStart => exact execMigrationReturnStart_wf h _
  case migrationReturnComplete => exact execMigrationReturnComplete_wf h _
  case ownershipPoint => exact next_wf (pumpRecords_wf (serveHeld_wf (getD_wf h (ownStep_wf h _ _))))
  case shootdownCoreComplete => exact next_wf (pumpRecords_wf (shootdownComplete_wf h _))
  case copyAccepted => exact execCopyAccepted_wf h _ _
  case copyDeliver => exact next_wf (pumpRecords_wf (getD_wf h (deliverStep_wf h _ _)))
  case activeSetEntry => exact execActiveSetEntry_wf h _ _
  case activeBound => exact next_wf (ite_wf (goPending_wf h _ _) h)
  case warpExit => exact execWarpExit_wf h _ _
  case blockKill => exact execBlockKill_wf h _ _
  case qtail => exact next_wf (writeTail_wf h _ _)
  case qwake | waitItemPoll => exact next_wf (pumpRecords_wf (waitTest_wf h _))
  case preempt => exact next_wf (preemptQueue_wf h _)
  case resume => exact next_wf (resumeQueue_wf h _)
  case kill => exact next_wf (pumpRecords_wf (killQueue_wf h _))
  case clear => exact next_wf (clearQueue_wf h _)
  case passopen => exact next_wf (pumpRecords_wf (openPass_wf h _ _))
  case registerWrite => exact next_wf (pumpRecords_wf (regWrite_wf h _ _))
  case launchStart => exact next_wf (pumpRecords_wf (getD_wf h (launchStart_wf h _)))
  case waitsPoll => exact next_wf (modWarp_wf h _ _ _)
  case placementPass => exact next_wf (pumpRecords_wf (placementPass_wf h))
  case launchComplete => exact execLaunchComplete_wf h _
  case jobStep => exact next_wf (pumpRecords_wf (getD_wf h (jobStep_wf h _ _)))
  case streamBlockFetch => exact next_wf (pumpRecords_wf (getD_wf h (streamFetch_wf h _ _)))
  case rayTraversalStep => exact execRayTraversalStep_wf h _ _ _
  case faultRespPoll => exact execFaultRespPoll_wf h _ _
  case trapQueuePoll => exact next_wf (pumpRecords_wf h)
  case endOfDrawToken => exact execEndOfDrawToken_wf h _ _
  case tokenArrival => exact ite_next_wf (next_wf (modDie_wf (by exact h) _ _)) (next_wf (pumpRecords_wf (settleDraws_wf (by exact h))))
  case frondPacketArrival => exact execFrondPacketArrival_wf h _ _
  case flushAreaMove => exact ite_next_wf (next_wf h) (next_wf h)
  case tileLaunch => exact next_wf (pumpRecords_wf (tileLaunch_wf h _ _ _))
  case passComplete => exact execPassComplete_wf h _
  case joinRequest => exact next_wf (serveJoin_wf h _ _ _ _)
  case joinReply => exact next_wf (wakeColl_wf (modMembers_wf h _) _)
  case openFlit => exact next_wf (openPoint_wf (openMembers_wf h _ _ _) _ _ _)
  case frameClose => exact next_wf (closeFrame_wf h _)
  case collectivePacket => exact next_wf (packetArrives_wf h _)
  case closeFlit => exact execCloseFlit_wf h _ _
  case frameComplete => exact execFrameComplete_wf h _ _ _
  case lateNotice => exact next_wf (modMembers_wf h _)
  case settledBlockDown => exact next_wf (pumpRecords_wf (serveHeld_wf (settledDown_wf h _ _ _ _)))
  case verticalBlank => exact next_wf (modHead_wf h _ _)
  case rdmaRead | rdmaWrite | rdmaFetchAdd | rdmaCmpSwap => exact next_wf (pumpRecords_wf (rdma_wf h _ _ _ _ _))
  case fabricLeaseRenewal => exact execFabricLeaseRenewal_wf h _
  case fabricLeaseExpiry => exact ite_next_wf (next_wf h) (next_wf (with_wf (dropRemote_wf h) rfl))
  case fanoutTimeout => exact execFanoutTimeout_wf h _ _
  case reroute => exact execReroute_wf h _ _
  case nodeDeclaredFailed => exact execNodeDeclaredFailed_wf h _
  case failureNotice => exact next_wf h
  case dieLinkFailure => exact next_wf (quarantineDie_wf h _)
  case patchActivation => exact execPatchActivation_wf h
  case relocation => exact execRelocation_wf h _ _ _
  case coreDump => exact execCoreDump_wf h _
  case reset => exact execReset_wf h
  case recoveryRetry => exact next_wf (recoveryFails_wf h)
  case recoveryReadComplete => exact execRecoveryReadComplete_wf h _
  case keyload => exact next_wf (ite_wf (commandEnds_wf h _) (ite_wf (commandEnds_wf h _) (commandEnds_wf (by exact h) _)))
  case keyunload => exact execKeyunload_wf h _
  case patch => exact execPatch_wf h _
  case withdraw => exact next_wf (commandEnds_wf (by exact h) _)
  case attest => exact execAttest_wf h _ _
  case scanout => exact execScanout_wf h _ _
  case dumpwin => exact next_wf (ite_wf (commandEnds_wf h _) (commandEnds_wf (by exact h) _))
  case stateread => exact execStateread_wf h _ _ _
  case softError => exact next_wf (pumpRecords_wf (countError_wf (ite_wf (uncorrectable_wf h _) h) _ _))
  case droop | thermalStepDown | thermalRecovery | droopRecovery => exact next_wf (modTempo_wf h _ _)
  case overtempStop => exact next_wf (replaceMe_wf h)
  case tempoBoundary => exact next_wf (countReports_wf (by exact with_wf h rfl))
  case illegalInstruction => exact ite_next_wf (next_wf h) (next_wf (pumpRecords_wf (takeTrap_wf h _)))
  case instructionFetchFault => exact ite_next_wf (next_wf h) (next_wf (pumpRecords_wf (takeTrap_wf (ite_wf h (by exact with_wf h rfl)) _)))
  case invalidationAcknowledgement => exact execInvalidationAcknowledgement_wf h _ _ _
  case rookPortLinkFailure => exact next_wf (quarantinePort_wf h _)

theorem issue_wf (h : memoriesWf s) (c slot) : NextWf (issue c slot s) := by
  unfold issue
  split <;> have h1 := of_fst (nextGroup_wf (traceMask_wf (focus_wf h c slot))) (by assumption)
  · exact exec_wf h1 _
  · exact next_wf (trapForming_wf h1 _)
  · exact next_wf h1

theorem finish_wf {f : State → State} (hf : ∀ s, memoriesWf s → memoriesWf (f s)) {x : Host.Outcome State Fault Refusal}
    (hx : NextWf x) : NextWf (finish f x) := by
  cases x with
  | next t => exact next_wf (hf t (hx t rfl))
  | fault => rintro _ ⟨⟩
  | refused => rintro _ ⟨⟩

theorem issueStep_wf (h : memoriesWf s) (c slot) : NextWf (issueStep c slot s) :=
  finish_wf (fun _ h => tick_wf (afterIssue_wf (countTurn_wf h _ _ _) _ _) _) (issue_wf h c slot)

theorem inner_wf (h : memoriesWf s) : NextWf (Machine.inner s) := by
  unfold Machine.inner
  split
  · exact finish_wf (fun _ h => tick_wf h _) (exec_wf h _)
  · split
    · exact issueStep_wf h _ _
    · exact next_wf (tick_wf h _)

theorem advance_wf (h : memoriesWf s) : NextWf (advance s) := by
  unfold advance
  split
  · exact finish_wf (fun _ h => tick_wf h _) (exec_wf (by exact h) _)
  · exact ite_next_wf (next_wf (tick_wf (retry_wf h) _)) (inner_wf h)

/-- Settles O58: `step` is `advance`, and what `advance` calls keeps the canonical form of every memory, down to `Memory.put` and `Memory.set`. -/
theorem memoriesStayCanonical : Obligations.MemoriesStayCanonical :=
  fun _ t h e => advance_wf h t e

end Sys2Proof.Canonical
end

section
namespace Sys2Proof.SystemGroups
open Sys2Proof.Machine Sys2Proof.Safety Sys2Proof.Laws

/-! The system instructions of a group that is performed once (O31, O32): a warp-level group comes to what its one repetition comes to
(`warpLevel_done`, `warpLevel_stops`), so each instruction is an equation about that repetition. -/

/-! ### A warp-level group that is performed once -/

@[simp] theorem repD_zero (gr : Grp) (n : Nat) : repD gr n 0 = n := by
  unfold repD
  split <;> simp
@[simp] theorem repA_zero (gr : Grp) (n : Nat) : repA gr n 0 = n := by
  unfold repA
  split <;> simp
@[simp] theorem repB_zero (gr : Grp) (n : Nat) : repB gr n 0 = n := by
  unfold repB
  split <;> simp

variable {gr : Grp} {i : Instr} {s t : State} {chk : Nat → Except Trap Unit} {one : Nat → State → State × Perf}

theorem begun_single (hs : Single gr s) : Single gr (begun i s) := by
  obtain ⟨b, g, hc⟩ := begun_cur i s
  unfold Single Warp.inMicro at *
  rw [begun_eq, hc]
  exact hs

theorem clearResume_of_none {w : Warp} (h : w.resume = none) : w.clearResume = w := by
  unfold Warp.clearResume
  rw [h]

theorem runReps_single (hs : Single gr s) : runReps gr one s = runRepsFrom one 1 0 s := by
  obtain ⟨h1, h2, -⟩ := hs
  have hr : s.cur.resumed.rep = 0 := by
    unfold Warp.resumed
    rw [h2]
  unfold runReps
  rw [hr, h1]

theorem warpLevel_eq (hs : Single gr s) (ha : s.cur.active gr ≠ 0) (hk : chk 0 = .ok ()) :
    warpLevel gr chk one s = ending gr (runRepsFrom one 1 0 s) := by
  have hc : checkReps gr chk = .ok () := checkReps_ok fun k hk' => by
    obtain rfl : k = 0 := by
      have := hs.1
      omega
    exact hk
  unfold warpLevel
  rw [hc]
  simp only [ha, if_false, runReps_single hs]

/-- A repetition that is performed ends its group. -/
theorem warpLevel_done (hs : Single gr s) (ha : s.cur.active gr ≠ 0) (hk : chk 0 = .ok ()) (h : one 0 s = (t, .done)) :
    warpLevel gr chk one s = (past gr { t with cur := t.cur.clearResume }, .done) := by
  rw [warpLevel_eq hs ha hk]
  simp only [runRepsFrom, h, if_true, ending, endGroup_past]

/-- A repetition that is not performed stops its group where it stands. -/
theorem warpLevel_stops {r : Perf} (hs : Single gr s) (ha : s.cur.active gr ≠ 0) (hk : chk 0 = .ok ()) (h : one 0 s = (t, r))
    (hr : r ≠ .done) : warpLevel gr chk one s = (t, r) := by
  rw [warpLevel_eq hs ha hk]
  simp only [runRepsFrom, h]
  cases r <;> simp_all [ending]

section
variable (he : exec i s = perform i (warpLevel gr chk one) s) (hr : Runs i s) (hs : Single gr s) (ha : s.cur.active gr ≠ 0)
  (hk : chk 0 = .ok ())
include he hr hs ha hk

theorem single_ends (h : one 0 (begun i s) = (t, .done)) : Ends i s (past gr { t with cur := t.cur.clearResume }) :=
  ends_done he hr (warpLevel_done (begun_single hs) (by rwa [begun_active]) hk h)
theorem single_traps {x : Trap} (hx : x.held = false) (h : one 0 (begun i s) = (begun i s, .trap x)) : Traps i s x :=
  he.trans (perform_trap hr hx (warpLevel_stops (begun_single hs) (by rwa [begun_active]) hk h (by simp)))
theorem single_waits {w : Wait} (h : one 0 (begun i s) = (t, .wait w)) : WaitsIn i s t w :=
  he.trans (perform_wait hr (warpLevel_stops (begun_single hs) (by rwa [begun_active]) hk h (by simp)))
end

theorem sRange_field (a : BitVec 6) : sRange a.toNat 1 = .ok () := sRange_ok a.isLt

@[simp] theorem begun_getS (i : Instr) (s : State) (n : Nat) : (begun i s).cur.getS n = s.cur.getS n := by
  obtain ⟨b, g, h⟩ := begun_cur i s
  rw [h]
  rfl
@[simp] theorem begun_supervisor (i : Instr) (s : State) : (begun i s).cur.supervisor = s.cur.supervisor := by
  obtain ⟨b, g, h⟩ := begun_cur i s
  rw [h]
  rfl
@[simp] theorem begun_resume (i : Instr) (s : State) : (begun i s).cur.resume = s.cur.resume := by
  obtain ⟨b, g, h⟩ := begun_cur i s
  rw [h]
@[simp] theorem begun_woken (i : Instr) (s : State) : (begun i s).cur.woken = s.cur.woken := by
  obtain ⟨b, g, h⟩ := begun_cur i s
  rw [h]

/-- A group that leaves `x` in a uniform register as its one result. -/
theorem setS_result (hs : Single gr s) (d : BitVec 6) (x : Dword) :
    regsOf ((begun i s).cur.setS d.toNat x).clearResume = (regsOf s.cur).putS d.toNat x := by
  rw [clearResume_of_none (by simpa using hs.2.1), regsOf_setS _ d.isLt, begun_regs]

/-! ### The number that a system register's field names (R178) -/

theorem toInt_immOf {i : BitVec 11} (h : 11 + 23 * gr.imms.length < 64) : (immOf gr i).toInt = immediate gr i := by
  unfold immOf immediate
  rw [if_neg (by omega), BitVec.toInt_signExtend_of_le (by omega), BitVec.toInt_ofNat']

theorem immOf_of_eq {n : Nat} {i : BitVec 11} (h : immediate gr i = (n : Nat)) (hn : n < 0x60) : (immOf gr i).toNat = n := by
  by_cases hw : 11 + 23 * gr.imms.length < 64
  · have e := toInt_immOf (i := i) hw
    rw [h, BitVec.toInt_eq_toNat_cond] at e
    split at e <;> omega
  · unfold immOf
    rw [if_pos (by omega), BitVec.toNat_ofNat]
    unfold immediate at h
    generalize List.foldl _ 0 gr.imms * 2 ^ 11 + i.toNat = x at h ⊢
    have hd : 2 ^ 64 ∣ 2 ^ (11 + 23 * gr.imms.length) := Nat.pow_dvd_pow 2 (by omega)
    have hx : x % 2 ^ (11 + 23 * gr.imms.length) = n % 2 ^ (11 + 23 * gr.imms.length) := by
      have e := Int.bmod_emod (x := x) (m := 2 ^ (11 + 23 * gr.imms.length))
      rw [h] at e
      exact_mod_cast e.symm
    rw [← Nat.mod_mod_of_dvd x hd, hx, Nat.mod_mod_of_dvd n hd, Nat.mod_eq_of_lt (by omega)]

theorem immediate_of_immOf {i : BitVec 11} (h : (immOf gr i).toNat < 0x60) (hl : gr.imms.length ≤ 2) :
    immediate gr i = ((immOf gr i).toNat : Nat) := by
  rw [← toInt_immOf (by omega), BitVec.toInt_eq_toNat_cond, if_pos (by omega)]

/-! ### SYSRD and SYSWR (O31) -/

theorem landS_single (hs : Single gr s) (n : Nat) (x : Dword) : landS s n x = { s with cur := s.cur.setS n x } := by
  unfold landS
  rw [if_neg]
  obtain ⟨-, -, h | h⟩ := hs <;> simp [h]

variable {d a : BitVec 6} {f : BitVec 11}

theorem sysrd_ends {x : Dword} (hr : Runs (.sysrd gr d f) s) (hs : Single gr s) (ha : s.cur.active gr ≠ 0) (hn : (immOf gr f).toNat < 0x60)
    (h : sysRead (begun (.sysrd gr d f) s) (immOf gr f).toNat = some x) :
    ∃ t, Ends (.sysrd gr d f) s (past gr t) ∧ t = { begun (.sysrd gr d f) s with cur := t.cur }
      ∧ regsOf t.cur = (regsOf s.cur).putS d.toNat x := by
  refine ⟨_, single_ends (t := { begun (.sysrd gr d f) s with cur := (begun (.sysrd gr d f) s).cur.setS d.toNat x }) rfl hr hs ha
    (by simp [sRange_field]) ?_, rfl, setS_result hs d x⟩
  simp only [hn, if_true, h, repD_zero, landS_single (begun_single hs)]

theorem sysrd_traps (hr : Runs (.sysrd gr d f) s) (hs : Single gr s) (ha : s.cur.active gr ≠ 0)
    (h : (immOf gr f).toNat < 0x60 → sysRead (begun (.sysrd gr d f) s) (immOf gr f).toNat = none) :
    Traps (.sysrd gr d f) s (trap 0x01 0x01) := by
  refine single_traps rfl hr hs ha (by simp [sRange_field]) rfl ?_
  by_cases hn : (immOf gr f).toNat < 0x60
  · simp only [hn, if_true, h hn]
  · simp only [hn, if_false]

theorem sysRead_none {n : Nat} (h : 0x060 ≤ n ∨ (0x005 ≤ n ∧ n < 0x010) ∨ (0x024 ≤ n ∧ n < 0x030)) : sysRead s n = none := by
  have h1 : ¬(0x038 ≤ n ∧ n < 0x040) := by omega
  have h2 : ¬(0x048 ≤ n ∧ n < 0x050) := by omega
  have h3 : ¬(0x050 ≤ n ∧ n < 0x054) := by omega
  have h4 : ¬(0x058 ≤ n ∧ n < 0x060) := by omega
  unfold sysRead
  simp only [h1, h2, h3, h4, if_false]
  split
  case h_19 => rfl
  all_goals omega

theorem syswr_ends (hr : Runs (.syswr gr a f) s) (hs : Single gr s) (ha : s.cur.active gr ≠ 0) (hn : (immOf gr f).toNat < 0x60)
    (h : sysWrite (begun (.syswr gr a f) s) (immOf gr f).toNat (s.cur.getS a.toNat) = .ok t) :
    Ends (.syswr gr a f) s (past gr { t with cur := t.cur.clearResume }) := by
  refine single_ends rfl hr hs ha (by simp [sRange_field]) ?_
  simp only [Nat.not_le.2 hn, if_false, repA_zero, begun_getS, h]

theorem syswr_traps {x : Trap} (hr : Runs (.syswr gr a f) s) (hs : Single gr s) (ha : s.cur.active gr ≠ 0) (hn : (immOf gr f).toNat < 0x60)
    (hx : x.held = false) (h : sysWrite (begun (.syswr gr a f) s) (immOf gr f).toNat (s.cur.getS a.toNat) = .error x) :
    Traps (.syswr gr a f) s x := by
  refine single_traps rfl hr hs ha (by simp [sRange_field]) hx ?_
  simp only [Nat.not_le.2 hn, if_false, repA_zero, begun_getS, h]

/-- User mode may write no system register (R290). -/
theorem sysWrite_user {n : Nat} (x : Dword) (hu : s.cur.supervisor = false) (hn : (sysRead s n).isSome = true) :
    sysWrite s n x = .error (trap 0x03 0x01) := by
  unfold sysWrite
  have h : ¬(sysRead s n).isNone = true := by simpa using Option.isSome_iff_ne_none.1 hn
  simp only [h, hu, if_false, Bool.not_false, if_true, Bool.false_eq_true]
  split
  case h_8 => split_ifs <;> rfl
  all_goals rfl

theorem sysWrite_dropret (x : Dword) (h : s.cur.supervisor = true) :
    sysWrite s 0x010 x = .ok { s with core := { s.core with dropret := x.setWidth 32 } } := by
  simp [sysWrite, sysRead, h, lo32]
theorem sysWrite_abandlk (x : Dword) (h : s.cur.supervisor = true) :
    sysWrite s 0x011 x = .ok { s with core := { s.core with abandlk := x.setWidth 32 } } := by
  simp [sysWrite, sysRead, h, lo32]
theorem sysWrite_dbgctl (x : Dword) (h : s.cur.supervisor = true) :
    sysWrite s 0x040 x = .ok { s with mgmt := { s.mgmt with dbgctl := x &&& 3 } } := by
  simp [sysWrite, sysRead, h]
theorem sysWrite_recq (x : Dword) (h : s.cur.supervisor = true) :
    sysWrite s 0x041 x = .ok { s with mgmt := { s.mgmt with recq := BitVec.ofNat 64 (x.toNat / 64 * 64) } } := by
  simp [sysWrite, sysRead, h]

/-- Settles O31: each register is one equation of `sysRead` or `sysWrite`, and the group comes to what that equation says. -/
theorem systemRegisters : Obligations.SystemRegisters := by
  refine ⟨fun gr d i s hr hs ha => ⟨fun x h0 hn hx => ?_, fun h hl => ?_⟩, fun s => ?_, fun gr a i s n hr hs ha hn hsup => ?_,
    fun gr a i s n hr hs ha hi hn hread hu => ?_⟩
  · have e : (immOf gr i).toNat = (immediate gr i).toNat := immOf_of_eq (by omega) (by omega)
    exact sysrd_ends hr hs ha (by omega) (by rwa [e])
  · refine sysrd_traps hr hs ha fun hlt => ?_
    rw [immediate_of_immOf hlt hl, Int.toNat_natCast] at h
    exact (h.resolve_left (by omega)).resolve_left (by omega)
  · exact ⟨rfl, rfl, rfl, rfl, rfl, rfl, rfl, rfl, rfl, by simp [sysRead], by simp [sysRead], fun n h => sysRead_none h⟩
  · have hb : (begun (.syswr gr a i) s).cur.supervisor = true := by rwa [begun_supervisor]
    have key : ∀ t, n < 0x60 → sysWrite (begun (.syswr gr a i) s) n (s.cur.getS a.toNat) = .ok t →
        Ends (.syswr gr a i) s (past gr { t with cur := t.cur.clearResume }) := fun t h hw => by
      have e := immOf_of_eq hn h
      exact syswr_ends hr hs ha (by rwa [e]) (by rwa [e])
    refine ⟨?_, ?_, ?_, ?_⟩ <;> rintro rfl
    · exact key _ (by decide) (sysWrite_dropret _ hb)
    · exact key _ (by decide) (sysWrite_abandlk _ hb)
    · exact key _ (by decide) (sysWrite_dbgctl _ hb)
    · exact key _ (by decide) (sysWrite_recq _ hb)
  · have e := immOf_of_eq hi hn
    exact syswr_traps hr hs ha (by omega) rfl (sysWrite_user _ (by simpa using hu) (by rwa [e]))

/-! ### TLBINV (O32) -/

section
variable {regs : Nat → Except Trap Unit} {range : Nat → Warp → Nat × Nat × Option Nat} {d : BitVec 6}

theorem tlbinv_check (d : BitVec 6) (hk : regs 0 = .ok ()) : (do sRange (repD gr d.toNat 0) 1; regs 0) = .ok () := by
  rw [repD_zero, sRange_field, hk]
  rfl

theorem begun_busyCores (i : Instr) (s : State) : busyCores (begun i s) = busyCores s := by
  rw [begun_eq]
  rfl

variable (he : exec i s = perform i (tlbinv gr d regs range) s) (hr : Runs i s) (hs : Single gr s) (ha : s.cur.active gr ≠ 0)
  (hk : regs 0 = .ok ())
include he hr hs ha hk

theorem tlbinv_user (hu : s.cur.supervisor = false) : Traps i s (trap 0x03 0x00) := by
  refine single_traps he hr hs ha (tlbinv_check d hk) rfl ?_
  simp [hu]

theorem tlbinv_issues {lo n : Nat} {sp : Option Nat} {space : BitVec 12} (hrange : range 0 (begun i s).cur = (lo, n, sp))
    (hspace : BitVec.ofNat 12 (sp.getD (bits s.curLaunch.ptroot 11 0)) = space)
    (hsup : s.cur.supervisor = true) (hw : s.cur.woken = false) (hg : releaseGate (begun i s) allLanes .system = .go) :
    WaitsIn i s { begun i s with shootdowns := s.shootdowns ++ [{
      core := s.core.id, slot := s.cur.slot, space := space, lo := lo, bytes := n
      wait := busyCores s, count := 128 * s.mgmt.clusters.length }] } .tlbinv := by
  refine single_waits he hr hs ha (tlbinv_check d hk) ?_
  obtain ⟨b, g, hc⟩ := begun_cur i s
  simp only [begun_supervisor, begun_woken, hsup, hw, hg, hrange, hspace, begun_curLaunch, begun_busyCores]
  rw [begun_eq, hc]
  rfl

theorem tlbinv_returns {x : Shootdown} (hsup : s.cur.supervisor = true) (hw : s.cur.woken = true)
    (hx : s.shootdowns.find? (fun x => x.core = s.core.id && x.slot = s.cur.slot) = some x) :
    ∃ t, Ends i s (past gr t) ∧ t = { begun i s with shootdowns := t.shootdowns, cur := t.cur }
      ∧ t.shootdowns = s.shootdowns.filter (fun x => !(x.core = s.core.id && x.slot = s.cur.slot))
      ∧ regsOf t.cur = (regsOf s.cur).putS d.toNat (BitVec.ofNat 64 x.count) := by
  refine ⟨_, single_ends (t := { begun i s with
    shootdowns := s.shootdowns.filter (fun x => !(x.core = s.core.id && x.slot = s.cur.slot))
    cur := (begun i s).cur.setS d.toNat (BitVec.ofNat 64 x.count) }) he hr hs ha (tlbinv_check d hk) ?_, rfl, rfl, setS_result hs d _⟩
  obtain ⟨b, g, hc⟩ := begun_cur i s
  simp only [begun_supervisor, begun_woken, hsup, hw, repD_zero]
  rw [begun_eq, hc]
  simp only [hx]
  rfl
end

theorem low12_eq (x : Dword) : BitVec.ofNat 12 (bits x 11 0) = BitVec.ofNat 12 x.toNat :=
  BitVec.eq_of_toNat_eq (by simp [bits, bitsOf])

/-- Settles O32: the three forms of TLBINV are one operation, `tlbinv`, over the range that each names. -/
theorem translationInvalidation : Obligations.TranslationInvalidation := by
  intro gr d s hs ha
  refine ⟨fun a hr => ?_, fun a b hr => ?_, fun a hr => ?_⟩
  · have hk := sRange_field a
    rw [← repA_zero gr a.toNat] at hk
    exact ⟨tlbinv_user rfl hr hs ha hk, tlbinv_issues (sp := none) rfl hr hs ha hk (by simp) (low12_eq _),
      fun _ => tlbinv_returns rfl hr hs ha hk⟩
  · have hk : (do sRange (repA gr a.toNat 0) 1; sRange (repB gr b.toNat 0) 1) = .ok () := by
      rw [repA_zero, repB_zero, sRange_field, sRange_field]
      rfl
    exact ⟨tlbinv_user rfl hr hs ha hk, tlbinv_issues (sp := none) rfl hr hs ha hk (by simp) (low12_eq _),
      fun _ => tlbinv_returns rfl hr hs ha hk⟩
  · have hk := sRange_field a
    rw [← repA_zero gr a.toNat] at hk
    exact ⟨tlbinv_user rfl hr hs ha hk, tlbinv_issues (sp := some (bits (s.cur.getS a.toNat) 11 0)) rfl hr hs ha hk (by simp) (low12_eq _),
      fun _ => tlbinv_returns rfl hr hs ha hk⟩

end Sys2Proof.SystemGroups
end

section
namespace Sys2Proof.Frame
open Sys2Proof.Machine Sys2Proof.Safety Sys2Proof.Laws

/-! What the homes, the records, the wake-ups and the end of a block leave alone (for O44 and O51): none of them makes a warp, a block or a cached
line, nor touches the management core, the queues, the geometry or the host. `Within s t` says so; every function of the model in question gets one
lemma, named after it. -/

/-! ### Lists: what `putBy` and `sortBy` hold -/

theorem mem_putBy {α : Type} {p : α → Bool} {x y : α} {l : List α} (h : y ∈ putBy p x l) : y = x ∨ (y ∈ l ∧ p y = false) := by
  unfold putBy at h
  split at h
  · obtain ⟨z, hz, rfl⟩ := List.mem_map.1 h
    split
    · exact .inl rfl
    · rename_i hp
      exact .inr ⟨hz, by simpa using hp⟩
  · rename_i hp
    obtain h | h := List.mem_append.1 h
    · exact .inr ⟨h, by simpa using fun hy => hp (List.any_eq_true.2 ⟨y, h, hy⟩)⟩
    · exact .inl (by simpa using h)

theorem find?_putBy {α : Type} {p : α → Bool} {x : α} (hx : p x = true) (l : List α) : (putBy p x l).find? p = some x := by
  unfold putBy
  split
  · rename_i h
    induction l with
    | nil => simp at h
    | cons y l ih =>
      by_cases hy : p y = true
      · simp [hy, hx]
      · simp only [List.any_cons, hy, Bool.false_or] at h
        simp only [List.map_cons, hy, if_false, List.find?_cons, Bool.false_eq_true]
        exact ih h
  · rename_i h
    rw [List.find?_append, List.find?_eq_none.2 fun y hy hp => h (List.any_eq_true.2 ⟨y, hy, hp⟩)]
    simp [hx]

/-- What a test that rejects the new element finds is what it found before. -/
theorem find?_putBy_other {α : Type} {p q : α → Bool} {x : α} (hx : q x = false) (hpq : ∀ y, p y = true → q y = false) (l : List α) :
    (putBy p x l).find? q = l.find? q := by
  unfold putBy
  split
  · rename_i h
    clear h
    induction l with
    | nil => rfl
    | cons y l ih =>
      rw [List.map_cons, List.find?_cons, List.find?_cons, ih]
      by_cases hy : p y = true
      · simp [hy, hx, hpq y hy]
      · simp [hy]
  · rw [List.find?_append]
    simp [hx]

theorem find?_of_nodup {α β : Type} [DecidableEq β] {f : α → β} {l : List α} (h : (l.map f).Nodup) {x : α} (hx : x ∈ l) :
    l.find? (fun y => f y = f x) = some x := by
  induction l with
  | nil => simp at hx
  | cons y l ih =>
    obtain ⟨h1, h2⟩ := List.nodup_cons.1 h
    obtain rfl | hx := List.mem_cons.1 hx
    · simp
    · rw [List.find?_cons_of_neg, ih h2 hx]
      intro e
      exact h1 (List.mem_map.2 ⟨x, hx, (of_decide_eq_true e).symm⟩)

/-- Replacing or appending an element leaves the keys used once. -/
theorem nodup_putBy {α β : Type} [DecidableEq β] {f : α → β} {l : List α} (h : (l.map f).Nodup) (x : α) :
    ((putBy (fun y => f y = f x) x l).map f).Nodup := by
  unfold putBy
  split
  · rw [List.map_map]
    convert h using 1
    refine List.map_congr_left fun y _ => ?_
    by_cases hy : f y = f x <;> simp [hy]
  · rename_i hx
    rw [List.map_append]
    refine List.nodup_append.2 ⟨h, by simp, fun a ha b hb => ?_⟩
    obtain ⟨y, hy, rfl⟩ := List.mem_map.1 ha
    obtain rfl : b = f x := by simpa using hb
    exact fun e => hx (List.any_eq_true.2 ⟨y, hy, by simpa using e⟩)

theorem insertBy_perm {α : Type} (f : α → Nat) (x : α) (l : List α) : (insertBy f x l).Perm (x :: l) := by
  induction l with
  | nil => exact .refl _
  | cons y l ih =>
    unfold insertBy
    split
    · exact .refl _
    · exact (ih.cons y).trans (.swap x y l)

theorem sortBy_perm {α : Type} (f : α → Nat) (l : List α) : (sortBy f l).Perm l := by
  suffices h : ∀ a : List α, (l.foldl (fun a x => insertBy f x a) a).Perm (a ++ l) from h []
  induction l with
  | nil => simp
  | cons x l ih => exact fun a => (ih _).trans (((insertBy_perm f x a).append_right l).trans List.perm_middle.symm)

theorem mem_insertBy {α : Type} (f : α → Nat) (x y : α) (l : List α) : y ∈ insertBy f x l ↔ y = x ∨ y ∈ l :=
  (insertBy_perm f x l).mem_iff.trans List.mem_cons
theorem mem_sortBy {α : Type} (f : α → Nat) (y : α) (l : List α) : y ∈ sortBy f l ↔ y ∈ l := (sortBy_perm f l).mem_iff

/-! ### Cores by number -/

variable {s t u : State}

@[simp] theorem coreAt_id (s : State) (c : Nat) : (s.coreAt c).id = c := by
  unfold State.coreAt
  split
  · assumption
  · cases h : s.cores.find? fun k => k.id = c with
    | none => rfl
    | some k => simpa using List.find?_some h

@[simp] theorem setCore_core_id (s : State) (k : Core) : (s.setCore k).core.id = s.core.id := by
  unfold State.setCore
  split
  · rename_i h
    exact h.symm
  · rfl
@[simp] theorem modCore_core_id (s : State) (c : Nat) (f : Core → Core) : (s.modCore c f).core.id = s.core.id := setCore_core_id s _

theorem coreAt_setCore_same (s : State) (k : Core) : (s.setCore k).coreAt k.id = k := by
  unfold State.setCore
  split
  · simp [State.coreAt]
  · rename_i h
    unfold State.coreAt
    rw [if_neg h]
    simp [find?_putBy]

theorem coreAt_setCore_other (s : State) {k : Core} {c : Nat} (h : c ≠ k.id) : (s.setCore k).coreAt c = s.coreAt c := by
  unfold State.setCore
  split
  · rename_i hk
    unfold State.coreAt
    rw [if_neg (by simpa using Ne.symm h), if_neg (by simpa [hk] using Ne.symm h)]
  · unfold State.coreAt
    dsimp only
    rw [find?_putBy_other (by simpa using Ne.symm h) (by intro y hy; simp_all [Ne.symm h])]

/-- What stands at a core's number after one core has changed. -/
theorem coreAt_modCore (s : State) {c : Nat} {f : Core → Core} (hf : ∀ k, (f k).id = k.id) (d : Nat) :
    (s.modCore c f).coreAt d = if d = c then f (s.coreAt c) else s.coreAt d := by
  have hc : (f (s.coreAt c)).id = c := by rw [hf, coreAt_id]
  split
  · rename_i h
    have e := coreAt_setCore_same s (f (s.coreAt c))
    rw [hc] at e
    rw [h]
    exact e
  · rename_i h
    exact coreAt_setCore_other s (by rwa [hc])

/-- The core numbers of a state are each used once. -/
def IdsOnce (s : State) : Prop := (s.allCores.map fun k => k.id).Nodup

theorem coreAt_of_mem (h : IdsOnce s) {k : Core} (hk : k ∈ s.allCores) : s.coreAt k.id = k := by
  unfold IdsOnce State.allCores at h
  obtain ⟨h1, h2⟩ := List.nodup_cons.1 h
  unfold State.coreAt
  obtain rfl | hk := List.mem_cons.1 hk
  · simp
  · have hne : s.core.id ≠ k.id := fun e => h1 (List.mem_map.2 ⟨k, hk, e.symm⟩)
    rw [if_neg hne, find?_of_nodup h2 hk]
    rfl

/-- A core that no record stands for holds nothing. -/
theorem coreAt_mem (s : State) (c : Nat) : s.coreAt c ∈ s.allCores ∨ s.coreAt c = { id := c } := by
  unfold State.coreAt State.allCores
  split
  · exact .inl (List.mem_cons_self ..)
  · cases h : s.cores.find? fun k => k.id = c with
    | none => exact .inr rfl
    | some k => exact .inl (List.mem_cons_of_mem _ (List.mem_of_find?_eq_some h))

theorem idsOnce_setCore (h : IdsOnce s) (k : Core) : IdsOnce (s.setCore k) := by
  unfold State.setCore
  split
  · rename_i e
    simpa [IdsOnce, State.allCores, e] using h
  · rename_i hne
    unfold IdsOnce State.allCores at h ⊢
    obtain ⟨h1, h2⟩ := List.nodup_cons.1 h
    refine List.nodup_cons.2 ⟨fun hm => ?_, nodup_putBy h2 k⟩
    obtain ⟨y, hy, e⟩ := List.mem_map.1 hm
    obtain rfl | ⟨hy, -⟩ := mem_putBy hy
    · exact hne e.symm
    · exact h1 (List.mem_map.2 ⟨y, hy, e⟩)

theorem idsOnce_modCore (h : IdsOnce s) (c : Nat) (f : Core → Core) : IdsOnce (s.modCore c f) := idsOnce_setCore h _

/-! ### The warps of a core -/

theorem mem_warpsOf {c : Nat} {w : Warp} :
    w ∈ s.warpsOf c ↔ (s.cur.present = true ∧ s.core.id = c ∧ w = s.cur) ∨ w ∈ (s.coreAt c).warps := by
  unfold State.warpsOf
  rw [mem_sortBy]
  by_cases h : (s.cur.present && s.core.id = c) = true
  · have h' : s.cur.present = true ∧ s.core.id = c := by simpa using h
    simp [h']
  · have h' : ¬(s.cur.present = true ∧ s.core.id = c) := by simpa using h
    simp only [h, if_false, Bool.false_eq_true]
    tauto

theorem isCur_iff {c slot : Nat} : s.isCur c slot = true ↔ s.cur.present = true ∧ s.core.id = c ∧ s.cur.slot = slot := by
  simp [State.isCur, and_assoc]

theorem warpAt_some {c slot : Nat} {w : Warp} (h : s.warpAt c slot = some w) : w ∈ s.warpsOf c ∧ w.slot = slot := by
  rw [mem_warpsOf]
  unfold State.warpAt at h
  split at h
  · rename_i hc
    obtain ⟨h1, h2, h3⟩ := isCur_iff.1 hc
    obtain rfl := Option.some.inj h
    exact ⟨.inl ⟨h1, h2, rfl⟩, h3⟩
  · exact ⟨.inr (List.mem_of_find?_eq_some h), by simpa using List.find?_some h⟩

/-- The slots of the warps that stand at a core. -/
theorem warpsOf_congr {c : Nat} (h1 : t.cur = s.cur) (h2 : t.core.id = s.core.id) (h3 : (t.coreAt c).warps = (s.coreAt c).warps) :
    t.warpsOf c = s.warpsOf c := by
  unfold State.warpsOf
  rw [h1, h2, h3]

/-! ### The relation -/

/-- A core holds no block and no cached line or translation that another does not hold. -/
structure CoreWithin (k j : Core) : Prop where
  blocks : ∀ b ∈ j.blocks, ∃ a ∈ k.blocks, a.bslot = b.bslot ∧ a.launch = b.launch
  l1 : ∀ x ∈ j.l1, x ∈ k.l1
  tlb : ∀ x ∈ j.tlb, x ∈ k.tlb
  stash : ∀ st ∈ j.stash, ∀ l ∈ st.lines, ∃ st' ∈ k.stash, ∃ l' ∈ st'.lines, l'.key = l.key

theorem CoreWithin.refl (k : Core) : CoreWithin k k :=
  ⟨fun b hb => ⟨b, hb, rfl, rfl⟩, fun _ h => h, fun _ h => h, fun st hst l hl => ⟨st, hst, l, hl, rfl⟩⟩

theorem CoreWithin.trans {k j i : Core} (h : CoreWithin k j) (g : CoreWithin j i) : CoreWithin k i := by
  refine ⟨fun b hb => ?_, fun x hx => h.l1 x (g.l1 x hx), fun x hx => h.tlb x (g.tlb x hx), fun st hst l hl => ?_⟩
  · obtain ⟨a, ha, e1, e2⟩ := g.blocks b hb
    obtain ⟨a', ha', e1', e2'⟩ := h.blocks a ha
    exact ⟨a', ha', e1'.trans e1, e2'.trans e2⟩
  · obtain ⟨st', hst', l', hl', e⟩ := g.stash st hst l hl
    obtain ⟨st'', hst'', l'', hl'', e'⟩ := h.stash st' hst' l' hl'
    exact ⟨st'', hst'', l'', hl'', e'.trans e⟩

/-- A launch of a state goes back to one that stood there before, which was killed only if this one is. -/
def LaunchWithin (x y : Launch) : Prop :=
  x.id = y.id ∧ x.q = y.q ∧ x.ptroot = y.ptroot ∧ x.pubLines = y.pubLines ∧ (x.killed = true → y.killed = true)

/-- Nothing stands in the second state but what stood in the first: warps by slot, blocks, cached lines, launches; and the management core, the
queues, the geometry and what the device knows of the host are the same. -/
structure Within (s t : State) : Prop where
  mgmt : t.mgmt = s.mgmt
  queues : t.queues = s.queues
  geom : t.geom = s.geom
  host : t.fabric.host = s.fabric.host
  hwin : t.fabric.hwin = s.fabric.hwin
  launches : ∀ y ∈ t.launches, ∃ x ∈ s.launches, LaunchWithin x y
  ids : IdsOnce s → IdsOnce t
  core : ∀ c, CoreWithin (s.coreAt c) (t.coreAt c)
  slots : ∀ c, ∀ w ∈ t.warpsOf c, ∃ v ∈ s.warpsOf c, v.slot = w.slot

theorem Within.refl (s : State) : Within s s :=
  ⟨rfl, rfl, rfl, rfl, rfl, fun y hy => ⟨y, hy, rfl, rfl, rfl, rfl, id⟩, id, fun _ => .refl _, fun _ w hw => ⟨w, hw, rfl⟩⟩

theorem Within.trans (h : Within s t) (g : Within t u) : Within s u := by
  refine ⟨g.mgmt.trans h.mgmt, g.queues.trans h.queues, g.geom.trans h.geom, g.host.trans h.host, g.hwin.trans h.hwin, fun z hz => ?_,
    g.ids ∘ h.ids, fun c => (h.core c).trans (g.core c), fun c w hw => ?_⟩
  · obtain ⟨y, hy, i1, i2, i3, i4, i5⟩ := g.launches z hz
    obtain ⟨x, hx, j1, j2, j3, j4, j5⟩ := h.launches y hy
    exact ⟨x, hx, j1.trans i1, j2.trans i2, j3.trans i3, j4.trans i4, i5 ∘ j5⟩
  · obtain ⟨v, hv, e⟩ := g.slots c w hw
    obtain ⟨v', hv', e'⟩ := h.slots c v hv
    exact ⟨v', hv', e'.trans e⟩

/-- The last change first, so that its shape tells the state before it. -/
theorem Within.after (g : Within t u) (h : Within s t) : Within s u := h.trans g

/-- A change that leaves the cores, the launches and the units of the relation alone. -/
theorem within_of_eq (e : (t.mgmt, t.queues, t.geom, t.fabric.host, t.fabric.hwin, t.launches, t.cur, t.core, t.cores)
    = (s.mgmt, s.queues, s.geom, s.fabric.host, s.fabric.hwin, s.launches, s.cur, s.core, s.cores)) : Within s t := by
  simp only [Prod.mk.injEq] at e
  obtain ⟨e1, e2, e3, e4, e5, e6, e7, e8, e9⟩ := e
  have hc : ∀ c, t.coreAt c = s.coreAt c := fun c => by simp only [State.coreAt, e8, e9]
  refine ⟨e1, e2, e3, e4, e5, ?_, ?_, fun c => ?_, fun c => ?_⟩
  · rw [e6]
    exact (Within.refl s).launches
  · simp only [IdsOnce, State.allCores, e8, e9]
    exact id
  · rw [hc]
    exact .refl _
  · rw [warpsOf_congr e7 (by rw [e8]) (by rw [hc])]
    exact (Within.refl s).slots c

theorem foldl_rel {α : Type} {R : State → State → Prop} (hr : ∀ s, R s s) (ht : ∀ {a b c}, R a b → R b c → R a c) {f : State → α → State}
    (hf : ∀ s a, R s (f s a)) (l : List α) (s : State) : R s (l.foldl f s) := by
  induction l generalizing s with
  | nil => exact hr s
  | cons a l ih => exact ht (hf s a) (ih _)

theorem foldl_within {α : Type} {f : State → α → State} (hf : ∀ s a, Within s (f s a)) (l : List α) (s : State) : Within s (l.foldl f s) :=
  foldl_rel .refl .trans hf l s

theorem ite_rel {R : State → State → Prop} {c : Prop} [Decidable c] {a b : State} (ha : R s a) (hb : R s b) : R s (if c then a else b) := by
  split
  · exact ha
  · exact hb

theorem CoreWithin.of_eq {k j : Core} (e : (j.blocks, j.l1, j.tlb, j.stash) = (k.blocks, k.l1, k.tlb, k.stash)) : CoreWithin k j := by
  simp only [Prod.mk.injEq] at e
  obtain ⟨e1, e2, e3, e4⟩ := e
  have r := CoreWithin.refl k
  exact ⟨by rw [e1]; exact r.blocks, by rw [e2]; exact r.l1, by rw [e3]; exact r.tlb, by rw [e4]; exact r.stash⟩

/-! ### Changes of a core, of its warps, its blocks -/

theorem modCore_within (s : State) (c : Nat) {f : Core → Core} (hid : ∀ k, (f k).id = k.id) (hf : ∀ k, CoreWithin k (f k))
    (hw : ∀ w ∈ (f (s.coreAt c)).warps, ∃ v ∈ (s.coreAt c).warps, v.slot = w.slot) : Within s (s.modCore c f) := by
  refine ⟨by simp, by simp, by simp, by simp, by simp, by simpa using (Within.refl s).launches, fun h => idsOnce_modCore h c f, fun d => ?_,
    fun d w hd => ?_⟩
  · rw [coreAt_modCore s hid]
    split
    · rename_i e
      rw [e]
      exact hf _
    · exact .refl _
  · rw [mem_warpsOf, coreAt_modCore s hid] at hd
    simp only [mem_warpsOf]
    obtain ⟨h1, h2, rfl⟩ | hd := hd
    · exact ⟨s.cur, .inl ⟨by simpa using h1, by simpa using h2, rfl⟩, by simp⟩
    · split at hd
      · rename_i e
        obtain ⟨v, hv, hs⟩ := hw w hd
        exact ⟨v, .inr (by rwa [e]), hs⟩
      · exact ⟨w, .inr hd, rfl⟩

/-- A change of a core that leaves its warps, its blocks and its cached lines alone. -/
theorem modCore_aside (s : State) (c : Nat) {f : Core → Core} (e : ∀ k, ((f k).id, (f k).warps, (f k).blocks, (f k).l1, (f k).tlb, (f k).stash)
    = (k.id, k.warps, k.blocks, k.l1, k.tlb, k.stash)) : Within s (s.modCore c f) := by
  simp only [Prod.mk.injEq] at e
  refine modCore_within s c (fun k => (e k).1) (fun k => .of_eq ?_) fun w hw => ⟨w, ?_, rfl⟩
  · obtain ⟨-, -, e1, e2, e3, e4⟩ := e k
    rw [e1, e2, e3, e4]
  · obtain ⟨-, e1, -⟩ := e (s.coreAt c)
    rwa [e1] at hw

/-- The issuing warp changes, but not its slot. -/
theorem cur_within {w : Warp} (hp : s.cur.present = true) (hs : w.slot = s.cur.slot) : Within s { s with cur := w } := by
  refine ⟨rfl, rfl, rfl, rfl, rfl, (Within.refl s).launches, id, fun _ => .refl _, fun d x hd => ?_⟩
  simp only [mem_warpsOf] at hd ⊢
  obtain ⟨-, hd, rfl⟩ | hd := hd
  · exact ⟨s.cur, .inl ⟨hp, hd, rfl⟩, hs.symm⟩
  · exact ⟨x, .inr hd, rfl⟩

/-- A warp that a core holds is put back changed. -/
theorem setWarp_within {c : Nat} {w : Warp} (h : ∃ v ∈ s.warpsOf c, v.slot = w.slot) : Within s (s.setWarp c w) := by
  obtain ⟨v, hv, e⟩ := h
  unfold State.setWarp
  split
  · rename_i hc
    obtain ⟨h1, -, h3⟩ := isCur_iff.1 hc
    exact cur_within h1 h3.symm
  · rename_i hc
    refine modCore_within s c (fun _ => rfl) (fun _ => .of_eq rfl) fun x hx => ?_
    obtain rfl | ⟨hx, -⟩ := mem_putBy hx
    · obtain ⟨h1, h2, rfl⟩ | hv := mem_warpsOf.1 hv
      · exact absurd (isCur_iff.2 ⟨h1, h2, e⟩) hc
      · exact ⟨v, hv, e⟩
    · exact ⟨x, hx, rfl⟩

theorem modWarp_within (s : State) (c slot : Nat) {f : Warp → Warp} (hf : ∀ w, (f w).slot = w.slot) : Within s (s.modWarp c slot f) := by
  unfold State.modWarp
  split
  · rename_i w hw
    obtain ⟨h1, h2⟩ := warpAt_some hw
    exact setWarp_within ⟨w, h1, (hf w).symm⟩
  · exact .refl s

theorem mapWarps_within (s : State) (c : Nat) {f : Warp → Warp} (hf : ∀ w, (f w).slot = w.slot) : Within s (s.mapWarps c f) := by
  have h1 : Within s (s.modCore c fun k => { k with warps := k.warps.map f }) := by
    refine modCore_within s c (fun _ => rfl) (fun _ => .of_eq rfl) fun w hw => ?_
    obtain ⟨v, hv, rfl⟩ := List.mem_map.1 hw
    exact ⟨v, hv, (hf v).symm⟩
  unfold State.mapWarps
  dsimp only
  split
  · rename_i hp
    have hp' := (Bool.and_eq_true _ _ ▸ hp).1
    exact h1.trans (cur_within hp' (hf _))
  · exact h1

theorem modBlock_within (s : State) (c b : Nat) {f : Block → Block} (hf : ∀ x, ((f x).bslot, (f x).launch) = (x.bslot, x.launch)) :
    Within s (s.modBlock c b f) := by
  simp only [Prod.mk.injEq] at hf
  refine modCore_within s c (fun _ => rfl) (fun k => ⟨fun y hy => ?_, fun _ h => h, fun _ h => h, (CoreWithin.refl k).stash⟩)
    fun w hw => ⟨w, hw, rfl⟩
  obtain ⟨x, hx, rfl⟩ := List.mem_map.1 hy
  refine ⟨x, hx, ?_⟩
  split
  · exact ⟨(hf x).1.symm, (hf x).2.symm⟩
  · exact ⟨rfl, rfl⟩

theorem modLaunch_within (s : State) (id : Word) {f : Launch → Launch} (hf : ∀ l, LaunchWithin l (f l)) : Within s (s.modLaunch id f) := by
  refine ⟨rfl, rfl, rfl, rfl, rfl, fun y hy => ?_, fun h => h, fun _ => .refl _, fun _ w hw => ⟨w, hw, rfl⟩⟩
  obtain ⟨x, hx, rfl⟩ := List.mem_map.1 hy
  refine ⟨x, hx, ?_⟩
  split
  · exact hf x
  · exact ⟨rfl, rfl, rfl, rfl, fun h => h⟩


/-! ### Homes, memory and records

What is done at the homes leaves, besides, the returns on their way and the tags that waiting requests carry: a request that is added has none. -/

structure AtHome (s t : State) : Prop where
  within : Within s t
  returns : ∀ c, (t.coreAt c).returns = (s.coreAt c).returns
  held : ∀ h ∈ t.home.held, h ∈ s.home.held ∨ (h.req.ret = none ∧ h.lane = none)

theorem AtHome.refl (s : State) : AtHome s s := ⟨.refl s, fun _ => rfl, fun _ h => .inl h⟩

theorem AtHome.trans (h : AtHome s t) (g : AtHome t u) : AtHome s u :=
  ⟨h.within.trans g.within, fun c => (g.returns c).trans (h.returns c), fun x hx => (g.held x hx).elim (h.held x) .inr⟩

theorem atHome_of_eq (e : (t.mgmt, t.queues, t.geom, t.fabric.host, t.fabric.hwin, t.launches, t.cur, t.core, t.cores)
      = (s.mgmt, s.queues, s.geom, s.fabric.host, s.fabric.hwin, s.launches, s.cur, s.core, s.cores))
    (hh : ∀ h ∈ t.home.held, h ∈ s.home.held ∨ (h.req.ret = none ∧ h.lane = none) := by exact fun _ h => .inl h) : AtHome s t := by
  refine ⟨within_of_eq e, fun c => ?_, hh⟩
  simp only [Prod.mk.injEq] at e
  obtain ⟨-, -, -, -, -, -, -, e8, e9⟩ := e
  simp only [State.coreAt, e8, e9]

theorem modCore_atHome {c : Nat} {f : Core → Core} (h : Within s (s.modCore c f)) (hid : ∀ k, (f k).id = k.id)
    (hr : ∀ k, (f k).returns = k.returns) : AtHome s (s.modCore c f) := by
  refine ⟨h, fun d => ?_, fun x hx => .inl (by simpa using hx)⟩
  rw [coreAt_modCore s hid]
  split
  · rename_i e
    rw [hr, e]
  · rfl

theorem foldl_atHome {α : Type} {f : State → α → State} (hf : ∀ s a, AtHome s (f s a)) (l : List α) (s : State) : AtHome s (l.foldl f s) :=
  foldl_rel .refl .trans hf l s

theorem AtHome.to_fst {β : Type} {p : State × β} {r : β} (h : AtHome s p.1) (e : p = (t, r)) : AtHome s t := by
  rw [e] at h
  exact h

theorem launchRecord_atHome (s : State) (r : Rec) (unit : Option FaultUnit := none) : AtHome s (launchRecord s r unit) := by
  unfold launchRecord
  split
  · exact atHome_of_eq rfl
  · exact .refl s

theorem poisonAt_atHome (s : State) (pa : Nat) : AtHome s (poisonAt s pa) := atHome_of_eq rfl

theorem readGran_atHome (s : State) (pa n key : Nat) : AtHome s (readGran s pa n key).1 := by
  unfold readGran
  split
  · exact poisonAt_atHome s pa
  · exact .refl s

theorem homePut_atHome (s : State) (pa : Nat) (d : List Byte) : AtHome s (s.homePut pa d) := atHome_of_eq rfl

theorem mergeGran_atHome (s : State) (pa : Nat) (d : List Byte) (key : Nat) : AtHome s (mergeGran s pa d key).1 := by
  unfold mergeGran
  dsimp only
  split
  · exact atHome_of_eq rfl
  · split
    · exact homePut_atHome s pa d
    · exact poisonAt_atHome s pa

theorem tagLine_atHome (s : State) (line : Nat) (whole : Bool) (tag : Option (Nat × BitVec 16)) (drained : Bool) :
    AtHome s (tagLine s line whole tag drained) := by
  unfold tagLine
  cases whole <;> cases tag <;> cases drained <;> exact atHome_of_eq rfl

theorem enterTag_atHome (s : State) (core line : Nat) (e : BitVec 16) : AtHome s (enterTag s core line e) := by
  refine ite_rel (tagLine_atHome s line _ _ _) (ite_rel (atHome_of_eq rfl fun h hh => ?_) (tagLine_atHome s line _ _ _))
  obtain hh | hh := List.mem_append.1 hh
  · exact .inl hh
  · obtain rfl := List.mem_singleton.1 hh
    exact .inr ⟨rfl, rfl⟩

theorem stashWriteBack_atHome (s : State) (k : Core) (st : Stash) (l : StashLine) : AtHome s (stashWriteBack s k st l) := by
  unfold stashWriteBack
  split
  · exact mergeGran_atHome s _ _ _
  · exact .refl s

/-- Stash lines leave a core, or change their state. -/
theorem modStash_atHome (s : State) (c : Nat) {f : Core → List Stash}
    (hf : ∀ k, ∀ st ∈ f k, ∀ l ∈ st.lines, ∃ st' ∈ k.stash, ∃ l' ∈ st'.lines, l'.key = l.key) :
    AtHome s (s.modCore c fun k => { k with stash := f k }) :=
  modCore_atHome (modCore_within s c (fun _ => rfl) (fun k => ⟨fun b hb => ⟨b, hb, rfl, rfl⟩, fun _ h => h, fun _ h => h, hf k⟩)
    fun w hw => ⟨w, hw, rfl⟩) (fun _ => rfl) fun _ => rfl

theorem recallStashAt_atHome (s : State) (core line : Nat) (write : Bool) : AtHome s (recallStashAt s core line write) := by
  unfold recallStashAt
  refine ite_rel (.refl s) (AtHome.trans ?_ (modStash_atHome _ _ fun k st hst l hl => ?_))
  · exact foldl_atHome (fun s st => foldl_atHome (fun s l => ite_rel (stashWriteBack_atHome s _ _ _) (.refl s)) _ s) _ s
  · obtain ⟨st', hst', rfl⟩ := List.mem_map.1 hst
    obtain ⟨l', hl', rfl⟩ := List.mem_map.1 (List.mem_filter.1 hl).1
    refine ⟨st', hst', l', hl', ?_⟩
    unfold StashLine.recalled
    split_ifs <;> rfl

theorem recallStash_atHome (s : State) (line : Nat) (write : Bool) : AtHome s (recallStash s line write) :=
  foldl_atHome (fun s c => recallStashAt_atHome s c line write) _ s

theorem mergeUpd_atHome (s : State) (core line : Nat) : AtHome s (mergeUpd s core line) := by
  unfold mergeUpd
  split
  · exact .refl s
  · rename_i u _
    dsimp only
    have h0 : AtHome s (s.modCore core fun k => { k with upd := k.upd.filter fun x => x.line ≠ line }) :=
      modCore_atHome (modCore_aside s core fun _ => rfl) (fun _ => rfl) fun _ => rfl
    have h := h0.trans (readGran_atHome _ (line * 64) 64 u.key)
    split <;> rename_i e <;> rw [e] at h
    · exact h.trans (launchRecord_atHome _ _)
    · have h1 := h.trans (foldl_atHome (fun s e => homePut_atHome s (line * 64 + e.idx * elemBytes u.cfmt) (leBytes (elemBytes u.cfmt)
        (combineStep u.cfmt (s.home.mem.nat (line * 64 + e.idx * elemBytes u.cfmt) (elemBytes u.cfmt)) (e.partial_ u.cfmt)))) u.elems _)
      split
      · exact h1
      · exact h1.trans (enterTag_atHome _ _ _ _)

theorem recallLine_atHome (s : State) (line : Nat) (write : Bool) : AtHome s (recallLine s line write) :=
  (foldl_atHome (fun s c => mergeUpd_atHome s c line) _ s).trans (recallStash_atHome _ line write)

theorem setDir_atHome (s : State) (e : DirEntry) : AtHome s (setDir s e) := atHome_of_eq rfl
theorem useDir_atHome (s : State) (line : Nat) : AtHome s (useDir s line) := atHome_of_eq rfl

theorem startRecall_atHome (s : State) (line : Nat) (write : Bool) : AtHome s (startRecall s line write) := by
  unfold startRecall
  split
  · exact .refl s
  · exact atHome_of_eq rfl

theorem dirRoom_atHome (s : State) (line : Nat) : AtHome s (dirRoom s line).1 := by
  unfold dirRoom
  dsimp only
  split_ifs
  · exact useDir_atHome s line
  · exact useDir_atHome s line
  · split
    · exact .refl s
    · split_ifs
      · exact startRecall_atHome s _ _
      · exact (recallLine_atHome s _ _).trans (useDir_atHome _ _)

theorem performReq_atHome (s : State) (h : HeldReq) : AtHome s (performReq s h).1 := by
  unfold performReq
  dsimp only
  split
  · split
    · exact .refl s
    · dsimp only
      split
      · exact atHome_of_eq rfl
      · exact .refl s
  · have h0 := recallLine_atHome s (h.req.pa / 64) (opWrites h.req.op)
    split
    · exact h0.trans (setDir_atHome _ _)
    · exact h0.trans (setDir_atHome _ _)
    · dsimp only
      exact h0.trans (tagLine_atHome _ _ _ _ _)
    · rename_i d _ _
      have h1 := h0.trans (mergeGran_atHome _ h.req.pa d h.req.key)
      split <;> rename_i e <;> rw [e] at h1
      · exact h1.trans (tagLine_atHome _ _ _ _ _)
      · exact h1
    · have h1 := h0.trans (readGran_atHome _ h.req.pa (opBytes h.req.op) h.req.key)
      split <;> rename_i e <;> rw [e] at h1
      · exact h1
      · dsimp only
        split
        · exact h1.trans ((homePut_atHome _ _ _).trans (tagLine_atHome _ _ _ _ _))
        · exact h1

theorem attempt_atHome (s : State) (h : HeldReq) (ahead : List HeldReq) : AtHome s (attempt s h ahead).1 := by
  have hroom : AtHome s (if opTracks h.req.op && h.node.isNone then dirRoom s (h.req.pa / 64) else (s, true)).1 := by
    split
    · exact dirRoom_atHome s _
    · exact .refl s
  unfold attempt
  split
  · exact startRecall_atHome s _ _
  split
  · exact .refl s
  split <;> rename_i e <;> rw [e] at hroom
  · exact hroom
  · split <;> rename_i e1 <;> exact hroom.trans ((performReq_atHome _ _).to_fst e1)

theorem sent_atHome (s : State) (l : List Sent) : AtHome s { s with fabric := { s.fabric with sent := l } } := atHome_of_eq rfl

/-- A write of a unit of the base die waits at its home or is performed there; nothing waits for it. -/
theorem physPost_atHome (s : State) (pa : Nat) (d : List Byte) : AtHome s (physPost s pa d) := by
  refine foldl_atHome (fun s x => ?_) _ s
  unfold submit
  have h := attempt_atHome s (physReq s x.1 0 (.store ((d.drop (x.1 - pa)).take x.2))) s.home.held
  unfold request
  split <;> rename_i e <;> rw [e] at h
  · refine h.trans (atHome_of_eq rfl fun y hy => ?_)
    obtain hy | hy := List.mem_append.1 hy
    · exact .inl hy
    · obtain rfl := List.mem_singleton.1 hy
      exact .inr ⟨rfl, rfl⟩
  · exact h.trans (ite_rel (.refl _) (sent_atHome _ _))
  · exact h.trans (ite_rel (.refl _) (sent_atHome _ _))

theorem imageOut_atHome (s : State) (c slot : Nat) : AtHome s (imageOut s c slot) := by
  unfold imageOut
  split
  · exact .refl s
  · exact (physPost_atHome s _ _).trans (physPost_atHome _ _ _)

/-! ### Replies, and the requests that waited -/

theorem pushReturn_within (s : State) (d : RetDest) (v : Dword) : Within s (pushReturn s d v) := modCore_aside s d.core fun _ => rfl

theorem mergeFailed_within (s : State) (h : HeldReq) (e : Nat) : Within s (mergeFailed s h e) := by
  unfold mergeFailed
  dsimp only
  split
  · exact ite_rel (modWarp_within s _ _ fun _ => rfl) (launchRecord_atHome s _).within
  · split
    · exact (launchRecord_atHome s _).within
    · exact .refl s

theorem landLane_slot (w : Warp) (l : Nat) (r : Except Trap Dword) : (w.landLane l r).slot = w.slot := by
  cases r <;> rfl

theorem reply_within (s : State) (h : HeldReq) (r : Except Nat Dword) : Within s (reply s h r) := by
  unfold reply
  split
  · split
    · exact modWarp_within s _ _ fun w => landLane_slot w _ _
    · exact modCore_aside s _ fun _ => rfl
  · split
    · exact ite_rel (.refl s) (sent_atHome s _).within
    · exact ite_rel (.refl s) (sent_atHome s _).within
    · exact pushReturn_within s _ _
    · exact mergeFailed_within s h _
    · exact .refl s

theorem held_within (s : State) (l : List HeldReq) : Within s { s with home := { s.home with held := l } } := within_of_eq rfl

theorem serveHeldFrom_within (s : State) (kept l : List HeldReq) : Within s (serveHeldFrom s kept l) := by
  induction l generalizing s kept with
  | nil => exact held_within s kept
  | cons h r ih =>
    unfold serveHeldFrom
    split
    · exact ih s _
    · have h1 := (held_within s (kept ++ r)).trans (attempt_atHome _ h kept).within
      dsimp only
      split <;> rename_i e <;> rw [e] at h1
      · exact h1.trans (ih _ _)
      · exact h1.trans ((reply_within _ h _).trans (ih _ _))
      · exact h1.trans ((reply_within _ h _).trans (ih _ _))

theorem serveHeld_within (s : State) : Within s (serveHeld s) := ite_rel (.refl s) (serveHeldFrom_within s _ _)

theorem dropPlaces_within (s : State) (p : HomeReq → Bool) : Within s (dropPlaces s p) := held_within s _

/-! ### Handles, copies, batches -/

theorem setHandle_within (s : State) (c bs h : Nat) (f : Handle → Handle) : Within s (setHandle s c bs h f) := modBlock_within s c bs fun _ => rfl

/-- A change of some of a core's warps that keeps their slots. -/
theorem mapSome_within (s : State) (c : Nat) (p : Warp → Bool) {f : Warp → Warp} (hf : ∀ w, (f w).slot = w.slot) :
    Within s (s.mapWarps c fun w => if p w then f w else w) := by
  refine mapWarps_within s c fun w => ?_
  split
  · exact hf w
  · rfl

theorem handleFull_within (s : State) (c bs h : Nat) : Within s (handleFull s c bs h) :=
  (setHandle_within s c bs h _).trans (mapSome_within _ c _ fun _ => rfl)

theorem retireFrom_within (s : State) (c bs fuel : Nat) : Within s (retireFrom s c bs fuel) := by
  induction fuel generalizing s with
  | zero => exact .refl s
  | succ fuel ih =>
    unfold retireFrom
    split
    · exact .refl s
    · exact ite_rel (.after (ih _) (modBlock_within s c bs fun _ => rfl)) (.refl s)

theorem dropCopy_within (s : State) (c : Nat) (x : Copy) : Within s (dropCopy s c x) :=
  .after (dropPlaces_within _ _) (modCore_aside s c fun _ => rfl)

theorem failCopy_within (s : State) (c : Nat) (x : Copy) (t : Trap) : Within s (failCopy s c x t) := by
  have h := ((dropCopy_within s c x).trans (launchRecord_atHome _ (copyRecord c x t 2)).within).trans (serveHeld_within _)
  unfold failCopy
  split
  · exact h
  · dsimp only
    refine .after (retireFrom_within _ c _ _) (.after (modBlock_within _ c _ fun _ => rfl) (h.trans ?_))
    split
    · exact (setHandle_within _ _ _ _ _).trans (handleFull_within _ _ _ _)
    · exact .refl _

/-! ### The end of a warp and of a block -/

theorem sumStalls_within (s : State) (c : Nat) (w : Warp) : Within s (sumStalls s c w) := modBlock_within s c _ fun _ => rfl
theorem saveGens_within (s : State) (c : Nat) (w : Warp) : Within s (saveGens s c w) := modCore_aside s c fun _ => rfl
theorem leaveActive_within (s : State) (c slot : Nat) : Within s (leaveActive s c slot) := modCore_aside s c fun _ => rfl

theorem removeWarp_within (s : State) (c slot : Nat) : Within s (s.removeWarp c slot) := by
  unfold State.removeWarp
  split
  · refine ⟨rfl, rfl, rfl, rfl, rfl, (Within.refl s).launches, id, fun _ => .refl _, fun d w hw => ?_⟩
    simp only [mem_warpsOf, Bool.false_eq_true, false_and, false_or] at hw ⊢
    exact ⟨w, .inr hw, rfl⟩
  · exact modCore_within s c (fun _ => rfl) (fun _ => .of_eq rfl) fun w hw => ⟨w, List.mem_of_mem_filter hw, rfl⟩

theorem freeWarp_within (s : State) (c : Nat) (w : Warp) : Within s (freeWarp s c w) :=
  (sumStalls_within s c w).trans ((saveGens_within _ c w).trans ((removeWarp_within _ c _).trans (leaveActive_within _ c _)))

theorem unmapStash_within (s : State) (c : Nat) (st : Stash) : Within s (unmapStash s c st) := by
  refine .after (AtHome.within (modStash_atHome _ c fun k st' h l hl => ⟨st', List.mem_of_mem_filter h, l, hl, rfl⟩)) ?_
  exact foldl_within (fun s l => ite_rel (stashWriteBack_atHome s _ _ _).within (.refl s)) st.lines s

theorem unlockAll_within (s : State) (c : Nat) (key : LockKey) : Within s (unlockAll s c key) := by
  unfold unlockAll
  exact .after (serveHeld_within _) (.after (modCore_aside _ c fun _ => rfl) (within_of_eq rfl))

theorem endCopies_within (s : State) (c bs : Nat) : Within s (endCopies s c bs) := by
  unfold endCopies
  dsimp only
  refine foldl_within (fun s x => ?_) _ s
  split
  · have h : Within s (if x.2.deliv < x.2.len then s.modCore c fun y => { y with dropret := y.dropret + 1 } else s) :=
      ite_rel (modCore_aside s c fun _ => rfl) (.refl s)
    exact ite_rel (.after (serveHeld_within _) (.after (dropCopy_within _ _ _) h)) (.after (failCopy_within _ _ _ _) h)
  · exact ite_rel (modCore_aside s _ fun _ => rfl) (.refl s)

theorem endJobs_within (s : State) (c : Nat) (w : Warp) : Within s (endJobs s c w) := by
  unfold endJobs
  exact modCore_aside s c fun _ => rfl
theorem dropFromBarriers_within (s : State) (c : Nat) (launch : Word) : Within s (dropFromBarriers s c launch) :=
  modCore_aside s c fun _ => rfl
theorem endStreams_within (s : State) (c bs : Nat) (launch : Word) : Within s (endStreams s c bs launch) :=
  modLaunch_within s launch fun _ => ⟨rfl, rfl, rfl, rfl, fun h => h⟩

theorem blockRecord_within (s : State) (c : Nat) (b : Block) (killed : Bool) : Within s (blockRecord s c b killed) :=
  ite_rel (.refl s) (within_of_eq rfl)

theorem checkCoreBar_within (s : State) (c : Nat) (launch : Word) (id : BitVec 4) : Within s (checkCoreBar s c launch id) := by
  unfold checkCoreBar
  dsimp only
  split
  · exact .refl s
  · split
    · refine .after (mapWarps_within _ c fun w => ?_) (modCore_aside s c fun _ => rfl)
      split <;> rfl
    · exact .refl s

theorem checkCbar_within (s : State) (l : Launch) (n : Nat) : Within s (checkCbar s l n) := by
  refine ite_rel (foldl_within (fun s x => ?_) _ s) (ite_rel (foldl_within (fun s x => ?_) _ s) (.refl s))
  · exact mapSome_within s _ _ fun _ => rfl
  · exact mapSome_within s _ _ fun _ => rfl

/-- The blocks of a core's slot leave. -/
theorem dropBlock_within (s : State) (c bs : Nat) (g : Core → List (Nat × BitVec 8)) :
    Within s (s.modCore c fun k => { k with blocks := k.blocks.filter fun x => x.bslot ≠ bs, genLSs := g k }) :=
  modCore_within s c (fun _ => rfl) (fun k => ⟨fun b hb => ⟨b, List.mem_of_mem_filter hb, rfl, rfl⟩, fun _ h => h, fun _ h => h,
    (CoreWithin.refl k).stash⟩) fun w hw => ⟨w, hw, rfl⟩

theorem dropBlock_gone (s : State) (c bs : Nat) (g : Core → List (Nat × BitVec 8)) :
    ∀ x ∈ ((s.modCore c fun k => { k with blocks := k.blocks.filter fun x => x.bslot ≠ bs, genLSs := g k }).coreAt c).blocks, x.bslot ≠ bs := by
  rw [coreAt_modCore s (f := fun k => { k with blocks := k.blocks.filter fun x => x.bslot ≠ bs, genLSs := g k }) fun _ => rfl]
  simp

theorem placeDue_within (s : State) (d : Bool) : Within s { s with placeDue := d } := within_of_eq rfl

/-- The end of a block (R152), in the order of its table: before its slot is freed, and from there on. -/
theorem endBlock_cases (s : State) (c : Nat) (b : Block) (killed : Bool) :
    ∃ p, Within s p ∧ Within (p.modCore c fun k => { k with
        blocks := k.blocks.filter fun x => x.bslot ≠ b.bslot, genLSs := assocSet b.bslot (b.genLS + 1) k.genLSs }) (endBlock s c b killed) := by
  unfold endBlock
  extract_lets s1 s2 s3 s4 s5 s6 s7 s8 s9 s10 s11 s12 s13
  have h1 : Within s s1 := foldl_within (fun s st => unmapStash_within s c st) _ s
  have h2 : Within s1 s2 := endCopies_within s1 c _
  have h3 : Within s2 s3 := ite_rel (foldl_within (fun s w => endJobs_within s c w) _ _) (.refl _)
  have h4 : Within s3 s4 := unlockAll_within s3 c _
  have h5 : Within s4 s5 := dropFromBarriers_within s4 c _
  have h6 : Within s5 s6 := endStreams_within s5 c _ _
  have h7 : Within s6 s7 := foldl_within (fun s w => freeWarp_within s c w) _ s6
  have h8 : Within s7 s8 := by
    cases e : s7.blockAt c b.bslot with
    | some x => simpa only [s8, e] using blockRecord_within s7 c x killed
    | none => simpa only [s8, e] using Within.refl s7
  have h10 : Within s9 s10 := modLaunch_within s9 _ fun _ => ⟨rfl, rfl, rfl, rfl, fun h => h⟩
  have h11 : Within s10 s11 := dropPlaces_within s10 _
  have h12 : Within s11 s12 := foldl_within (fun s i => checkCoreBar_within s c b.launch (BitVec.ofNat 4 i)) _ s11
  have h13 : Within s12 s13 := by
    cases e : s12.launchOf b.launch with
    | some l => simpa only [s13, e] using checkCbar_within s12 l (cohortOf l b.index)
    | none => simpa only [s13, e] using Within.refl s12
  have h14 : Within s13 { s13 with placeDue := true } := placeDue_within s13 true
  have h9 : s9 = s8.modCore c fun k => { k with
      blocks := k.blocks.filter fun x => x.bslot ≠ b.bslot, genLSs := assocSet b.bslot (b.genLS + 1) k.genLSs } := rfl
  clear_value s1 s2 s3 s4 s5 s6 s7 s8 s9 s10 s11 s12 s13
  exact ⟨s8, ((((((h1.trans h2).trans h3).trans h4).trans h5).trans h6).trans h7).trans h8, h9 ▸ (((h10.trans h11).trans h12).trans h13).trans h14⟩

theorem endBlock_within (s : State) (c : Nat) (b : Block) (killed : Bool) : Within s (endBlock s c b killed) := by
  obtain ⟨p, hp, he⟩ := endBlock_cases s c b killed
  exact (hp.trans (dropBlock_within p c b.bslot _)).trans he

/-- A block that has ended stands in its slot no more. -/
theorem endBlock_gone (s : State) (c : Nat) (b : Block) (killed : Bool) : ∀ x ∈ ((endBlock s c b killed).coreAt c).blocks, x.bslot ≠ b.bslot := by
  intro x hx
  obtain ⟨p, -, he⟩ := endBlock_cases s c b killed
  obtain ⟨y, hy, e, -⟩ := (he.core c).blocks x hx
  exact e ▸ dropBlock_gone p c b.bslot _ y hy

theorem endBlock_placeDue (s : State) (c : Nat) (b : Block) (killed : Bool) : (endBlock s c b killed).placeDue = true := by
  unfold endBlock
  rfl

theorem killBlock_within (s : State) (c : Nat) (b : Block) (r : Rec) : Within s (killBlock s c b r) :=
  .after (AtHome.within (launchRecord_atHome _ _)) (endBlock_within s c b true)

theorem killBlock_gone (s : State) (c : Nat) (b : Block) (r : Rec) : ∀ x ∈ ((killBlock s c b r).coreAt c).blocks, x.bslot ≠ b.bslot := by
  intro x hx
  obtain ⟨y, hy, e, -⟩ := (launchRecord_atHome (endBlock s c b true) _).within.core c |>.blocks x hx
  exact e ▸ endBlock_gone s c b true y hy

end Sys2Proof.Frame
end

section
namespace Sys2Proof.WarpSteps
open Sys2Proof.Machine Sys2Proof.Safety Sys2Proof.Laws Sys2Proof.Frame

/-! # Lane sets, exits, polls and counted shootdowns (R43, R151, R168, R170, R286, R291) -/

variable {s t : State}

/-! ### The order of the ready warps -/

theorem insertBy_sorted {α : Type} (f : α → Nat) (x : α) {l : List α} (h : l.Pairwise fun a b => f a ≤ f b) :
    (insertBy f x l).Pairwise fun a b => f a ≤ f b := by
  induction l with
  | nil => simp [insertBy]
  | cons y l ih =>
    obtain ⟨hy, hl⟩ := List.pairwise_cons.1 h
    unfold insertBy
    split
    · rename_i hx
      refine List.pairwise_cons.2 ⟨fun z hz => ?_, h⟩
      obtain rfl | hz := List.mem_cons.1 hz
      · exact Nat.le_of_lt hx
      · exact Nat.le_trans (Nat.le_of_lt hx) (hy z hz)
    · rename_i hx
      refine List.pairwise_cons.2 ⟨fun z hz => ?_, ih hl⟩
      obtain rfl | hz := (mem_insertBy f x z l).1 hz
      · exact Nat.le_of_not_lt hx
      · exact hy z hz

theorem sortBy_sorted {α : Type} (f : α → Nat) (l : List α) : (sortBy f l).Pairwise fun a b => f a ≤ f b := by
  suffices h : ∀ a : List α, a.Pairwise (fun a b => f a ≤ f b) → (l.foldl (fun a x => insertBy f x a) a).Pairwise fun a b => f a ≤ f b
    from h [] .nil
  induction l with
  | nil => exact fun _ h => h
  | cons x l ih => exact fun a h => ih _ (insertBy_sorted f x h)

/-- The first of a sorted list has the least key. -/
theorem sortBy_head {α : Type} {f : α → Nat} {l r : List α} {x : α} (h : sortBy f l = x :: r) {y : α} (hy : y ∈ l) : f x ≤ f y := by
  have hs := h ▸ sortBy_sorted f l
  obtain rfl | hy := List.mem_cons.1 (h ▸ (mem_sortBy f y l).2 hy)
  · exact Nat.le_refl _
  · exact (List.pairwise_cons.1 hs).1 y hy

/-- The warp that takes a lane set (R168): a ready one without outstanding results, and none is ready longer. -/
theorem readyPending_head {c : Nat} {w : Warp} {r : List Warp} (h : readyPending s c = w :: r) :
    w ∈ s.warpsOf c ∧ warpReady s c w = true ∧ outstanding s c w = false
      ∧ ∀ v ∈ s.warpsOf c, warpReady s c v = true → outstanding s c v = false → s.isActive c v.slot = false → w.readyAt ≤ v.readyAt := by
  have hw : w ∈ readyPending s c := h ▸ List.mem_cons_self
  simp only [readyPending, mem_sortBy, List.mem_filter, warpWaits, Bool.and_eq_true, Bool.not_eq_true'] at hw
  obtain ⟨hm, ⟨hr, ho⟩, -⟩ := hw
  exact ⟨hm, hr, ho, fun v hv h1 h2 h3 => sortBy_head h (by simp [hv, warpWaits, h1, h2, h3])⟩

/-! ### One warp to a slot -/

/-- No two warps of a core stand at one slot. -/
def SlotsOnce (s : State) (c : Nat) : Prop := ((s.warpsOf c).map fun w => w.slot).Nodup

theorem slotsOnce_of_distinct (h : Distinct s) (c : Nat) : SlotsOnce s c := by
  by_cases hm : s.coreAt c ∈ s.allCores
  · have h' := h.2 _ hm
    rwa [coreAt_id] at h'
  · have hc : s.core.id ≠ c := fun e => hm (by simp [State.coreAt, e, State.allCores])
    have he : s.warpsOf c = [] := by
      refine List.eq_nil_iff_forall_not_mem.2 fun w hw => ?_
      obtain ⟨-, e, -⟩ | hw := mem_warpsOf.1 hw
      · exact hc e
      · rw [(coreAt_mem s c).resolve_left hm] at hw
        exact List.not_mem_nil hw
    rw [SlotsOnce, he]
    exact List.nodup_nil

theorem SlotsOnce.unique {c : Nat} (h : SlotsOnce s c) {v w : Warp} (hv : v ∈ s.warpsOf c) (hw : w ∈ s.warpsOf c) (e : v.slot = w.slot) : v = w :=
  List.inj_on_of_nodup_map h hv hw e

/-- Where the issuing warp stands, no other warp of its core has its slot. -/
theorem SlotsOnce.aside {c : Nat} (h : SlotsOnce s c) (hp : s.cur.present = true) (hc : s.core.id = c) {v : Warp} (hv : v ∈ (s.coreAt c).warps) :
    v.slot ≠ s.cur.slot := by
  have h' : ((s.cur :: (s.coreAt c).warps).map fun w => w.slot).Nodup := by
    refine ((sortBy_perm (fun (w : Warp) => w.slot) _).map fun (w : Warp) => w.slot).nodup_iff.1 ?_
    simpa [SlotsOnce, State.warpsOf, hp, hc] using h
  rw [List.map_cons, List.nodup_cons] at h'
  exact fun e => h'.1 (e ▸ List.mem_map_of_mem hv)

theorem SlotsOnce.warpAt {c : Nat} (h : SlotsOnce s c) {w : Warp} (hw : w ∈ s.warpsOf c) : s.warpAt c w.slot = some w := by
  obtain ⟨v, hv⟩ : ∃ v, s.warpAt c w.slot = some v := by
    unfold State.warpAt
    split
    · exact ⟨_, rfl⟩
    · rename_i hc
      obtain ⟨h1, h2, rfl⟩ | hw := mem_warpsOf.1 hw
      · exact absurd (isCur_iff.2 ⟨h1, h2, rfl⟩) hc
      · exact Option.isSome_iff_exists.1 (List.find?_isSome.2 ⟨w, hw, by simp⟩)
  obtain ⟨hm, e⟩ := warpAt_some hv
  rw [hv, h.unique hm hw e]

theorem coreAt_modWarps (s : State) (c : Nat) (l : Core → List Warp) :
    (s.modCore c fun k => { k with warps := l k }).coreAt c = { s.coreAt c with warps := l (s.coreAt c) } := by
  rw [coreAt_modCore s (f := fun k => { k with warps := l k }) fun _ => rfl, if_pos rfl]

/-- The warps of a core of which one is put back. -/
theorem mem_setWarp {c : Nat} (h : SlotsOnce s c) {v w : Warp} (hv : v ∈ (s.setWarp c w).warpsOf c) : v = w ∨ (v ∈ s.warpsOf c ∧ v.slot ≠ w.slot) := by
  unfold State.setWarp at hv
  split at hv
  · rename_i hc
    obtain ⟨hp, hi, e⟩ := isCur_iff.1 hc
    obtain ⟨-, -, rfl⟩ | hv := mem_warpsOf.1 hv
    · exact .inl rfl
    · exact .inr ⟨mem_warpsOf.2 (.inr hv), e ▸ h.aside hp hi hv⟩
  · rename_i hc
    rw [mem_warpsOf, coreAt_modWarps, modCore_core_id, State.modCore_cur] at hv
    obtain ⟨hp, hi, rfl⟩ | hv := hv
    · exact .inr ⟨mem_warpsOf.2 (.inl ⟨hp, hi, rfl⟩), fun e => hc (isCur_iff.2 ⟨hp, hi, e⟩)⟩
    · obtain rfl | ⟨hv, hs⟩ := mem_putBy hv
      · exact .inl rfl
      · exact .inr ⟨mem_warpsOf.2 (.inr hv), by simpa using hs⟩

/-- What a warp is after a change of the warps at its slot. -/
theorem mem_modWarp {c slot : Nat} (h : SlotsOnce s c) {f : Warp → Warp} {v : Warp} (hv : v ∈ (s.modWarp c slot f).warpsOf c) (e : v.slot = slot)
    (hf : ∀ w, (f w).slot = w.slot) : ∃ w, v = f w := by
  unfold State.modWarp at hv
  split at hv
  · rename_i w hw
    obtain rfl | ⟨-, hs⟩ := mem_setWarp h hv
    · exact ⟨w, rfl⟩
    · exact absurd (e.trans ((warpAt_some hw).2 ▸ (hf w).symm)) hs
  · rename_i hn
    have h' := e ▸ h.warpAt hv
    rw [hn] at h'
    cases h'

/-- A change of a core's other fields leaves its warps. -/
theorem warpsOf_modCore (s : State) (c d : Nat) {f : Core → Core} (hf : ∀ k, ((f k).id, (f k).warps) = (k.id, k.warps)) :
    (s.modCore c f).warpsOf d = s.warpsOf d := by
  simp only [Prod.mk.injEq] at hf
  refine warpsOf_congr (by simp) (by simp) ?_
  rw [coreAt_modCore s (fun k => (hf k).1)]
  split
  · rename_i e
    rw [e, (hf _).2]
  · rfl

theorem warpAt_modCore (s : State) (c d slot : Nat) {f : Core → Core} (hf : ∀ k, ((f k).id, (f k).warps) = (k.id, k.warps)) :
    (s.modCore c f).warpAt d slot = s.warpAt d slot := by
  simp only [Prod.mk.injEq] at hf
  unfold State.warpAt State.isCur
  rw [modCore_core_id, State.modCore_cur, coreAt_modCore s (fun k => (hf k).1)]
  split
  · rfl
  · split
    · rename_i e
      rw [e, (hf _).2]
    · rfl

theorem warpAt_setWarp (s : State) (c : Nat) {w : Warp} (hw : s.isCur c w.slot = true → w.present = true) :
    (s.setWarp c w).warpAt c w.slot = some w := by
  unfold State.setWarp
  split
  · rename_i hc
    obtain ⟨-, hi, -⟩ := isCur_iff.1 hc
    exact if_pos ((isCur_iff (s := { s with cur := w })).2 ⟨hw hc, hi, rfl⟩)
  · rename_i hc
    unfold State.warpAt State.isCur
    rw [modCore_core_id, State.modCore_cur, coreAt_modWarps, if_neg (by simpa [State.isCur] using hc)]
    exact find?_putBy (by simp) _

theorem warpAt_modWarp {c slot : Nat} {w : Warp} (h : s.warpAt c slot = some w) {f : Warp → Warp}
    (hf : ((f w).slot, (f w).present) = (w.slot, w.present)) : (s.modWarp c slot f).warpAt c slot = some (f w) := by
  obtain ⟨e1, e2⟩ := Prod.mk.inj hf
  obtain rfl := (warpAt_some h).2
  unfold State.modWarp
  rw [h]
  refine e1 ▸ warpAt_setWarp s c fun hc => ?_
  rw [e1] at hc
  rw [State.warpAt, if_pos hc] at h
  obtain rfl := Option.some.inj h
  exact e2.trans (isCur_iff.1 hc).1

/-- A change of a warp leaves its core's other fields. -/
theorem coreAt_modWarp (s : State) (c slot : Nat) (f : Warp → Warp) (d : Nat) :
    ∃ l, (s.modWarp c slot f).coreAt d = { s.coreAt d with warps := l } := by
  unfold State.modWarp State.setWarp
  split
  · rename_i w _
    split
    · exact ⟨_, rfl⟩
    · rw [coreAt_modCore s (f := fun k => { k with warps := putBy (fun x => x.slot = (f w).slot) (f w) k.warps }) fun _ => rfl]
      split
      · rename_i e
        exact e ▸ ⟨_, rfl⟩
      · exact ⟨_, rfl⟩
  · exact ⟨_, rfl⟩

@[simp] theorem coreAt_modCore_same (s : State) (c : Nat) (f : Core → Core) (hf : (f (s.coreAt c)).id = c) :
    (s.modCore c f).coreAt c = f (s.coreAt c) := by
  have h := coreAt_setCore_same s (f (s.coreAt c))
  rwa [hf] at h

/-- Another field of a core, after a change of it. -/
theorem SlotsOnce.modCore {c : Nat} (h : SlotsOnce s c) (d : Nat) {f : Core → Core} (hf : ∀ k, ((f k).id, (f k).warps) = (k.id, k.warps)) :
    SlotsOnce (s.modCore d f) c := by
  rwa [SlotsOnce, warpsOf_modCore s d c hf]

/-! ### Lane sets (R168, R170) -/

/-- A lane set goes to a warp (R168), which YIELD holds back no more. -/
def takeSet (s : State) (c n slot : Nat) : State :=
  (s.modCore c fun k => { k with active := k.active.setIfInBounds n (some (slot, s.coreClock c)) }).modWarp c slot
    fun w => if w.wait = .yield then { w with wait := .none } else w

theorem exec_activeSetEntry {c n : Nat} {w : Warp} {r : List Warp} (hn : n < 8) (hf : (s.coreAt c).active.toList.getD n none = none)
    (hw : readyPending s c = w :: r) : exec (.activeSetEntry c n) s = .next (takeSet s c n w.slot) := by
  show execActiveSetEntry c n s = _
  unfold execActiveSetEntry
  rw [if_neg (by rw [hf]; simpa using hn), hw]
  rfl

theorem takeSet_active (s : State) (c slot : Nat) {n : Nat} (hn : n < 8) :
    ((takeSet s c n slot).coreAt c).active.toList.getD n none = some (slot, s.coreClock c) := by
  unfold takeSet
  obtain ⟨l, e⟩ := coreAt_modWarp (s.modCore c fun k => { k with active := k.active.setIfInBounds n (some (slot, s.coreClock c)) }) c slot
    (fun w => if w.wait = .yield then { w with wait := .none } else w) c
  rw [e]
  simp [hn]

theorem takeSet_wait {c : Nat} (h : SlotsOnce s c) (n slot : Nat) {v : Warp} (hv : v ∈ (takeSet s c n slot).warpsOf c) (e : v.slot = slot) :
    v.wait ≠ .yield := by
  unfold takeSet at hv
  have h' := h.modCore c (f := fun k => { k with active := k.active.setIfInBounds n (some (slot, s.coreClock c)) }) fun _ => rfl
  generalize s.modCore c _ = t at h' hv
  obtain ⟨w, rfl⟩ := mem_modWarp h' hv e fun w => by split <;> rfl
  split
  · exact fun h => nomatch h
  · assumption

theorem warpsOf_leaveActive (s : State) (c slot d : Nat) : (leaveActive s c slot).warpsOf d = s.warpsOf d :=
  warpsOf_modCore s c d fun _ => rfl
theorem warpsOf_saveGens (s : State) (c : Nat) (w : Warp) (d : Nat) : (saveGens s c w).warpsOf d = s.warpsOf d :=
  warpsOf_modCore s c d fun _ => rfl
theorem warpsOf_sumStalls (s : State) (c : Nat) (w : Warp) (d : Nat) : (sumStalls s c w).warpsOf d = s.warpsOf d :=
  warpsOf_modCore s c d fun _ => rfl

/-- The bound of a lane set is due exactly when its warp took it 1,024 clocks ago and another is ready. -/
theorem boundDue_iff (s : State) (c slot : Nat) : boundDue s c slot = true ↔
    (∃ a, some (slot, a) ∈ (s.coreAt c).active.toList ∧ a + 40960 ≤ s.coreClock c) ∧ readyPending s c ≠ [] := by
  unfold boundDue
  rw [Bool.and_eq_true, ← Vector.any_toList, List.any_eq_true, decide_eq_true_iff]
  refine and_congr_left fun _ => ⟨?_, ?_⟩
  · rintro ⟨x, hx, e⟩
    split at e
    · rename_i n a
      obtain ⟨rfl, e⟩ : n = slot ∧ s.coreClock c - a ≥ 1024 * 40 := by simpa using e
      exact ⟨a, hx, by omega⟩
    · cases e
  · rintro ⟨a, ha, e⟩
    refine ⟨_, ha, ?_⟩
    simp only [decide_true, Bool.true_and, decide_eq_true_iff]
    omega

theorem leaveActive_inactive (s : State) (c slot a : Nat) : some (slot, a) ∉ ((leaveActive s c slot).coreAt c).active.toList := by
  unfold leaveActive
  simp only [coreAt_modCore_same, coreAt_id, Vector.toList_map, List.mem_map, not_exists, not_and]
  intro x _ e
  split at e
  · split at e <;> simp_all
  · cases e

theorem goPending_readyAt {c slot : Nat} (h : SlotsOnce s c) {v : Warp} (hv : v ∈ (goPending s c slot).warpsOf c) (e : v.slot = slot) :
    v.readyAt = s.clock := by
  rw [goPending, warpsOf_leaveActive] at hv
  obtain ⟨w, rfl⟩ := mem_modWarp h hv e fun _ => rfl
  rfl

theorem goPending_home (s : State) (c slot : Nat) : (goPending s c slot).home = s.home := by
  unfold goPending leaveActive
  simp

/-! ### Warps that exit (R151) -/

theorem mem_removeWarp {c slot : Nat} (h : SlotsOnce s c) {v : Warp} : v ∈ (s.removeWarp c slot).warpsOf c ↔ v ∈ s.warpsOf c ∧ v.slot ≠ slot := by
  unfold State.removeWarp
  split
  · rename_i hc
    obtain ⟨hp, hi, rfl⟩ := isCur_iff.1 hc
    rw [mem_warpsOf, mem_warpsOf]
    refine ⟨?_, ?_⟩
    · rintro (⟨hq, -, -⟩ | hv)
      · cases hq
      · exact ⟨.inr hv, h.aside hp hi hv⟩
    · rintro ⟨⟨-, -, rfl⟩ | hv, e⟩
      · exact absurd rfl e
      · exact .inr hv
  · rename_i hc
    simp only [mem_warpsOf, coreAt_modWarps, modCore_core_id, State.modCore_cur, List.mem_filter, decide_eq_true_iff]
    refine ⟨?_, ?_⟩
    · rintro (⟨hp, hi, rfl⟩ | ⟨hv, e⟩)
      · exact ⟨.inl ⟨hp, hi, rfl⟩, fun e => hc (isCur_iff.2 ⟨hp, hi, e⟩)⟩
      · exact ⟨.inr hv, e⟩
    · rintro ⟨hv | hv, e⟩
      · exact .inl hv
      · exact .inr ⟨hv, e⟩

theorem mem_freeWarp {c : Nat} {w : Warp} (h : SlotsOnce s c) {v : Warp} : v ∈ (freeWarp s c w).warpsOf c ↔ v ∈ s.warpsOf c ∧ v.slot ≠ w.slot := by
  have e : (saveGens (sumStalls s c w) c w).warpsOf c = s.warpsOf c := by rw [warpsOf_saveGens, warpsOf_sumStalls]
  rw [freeWarp, warpsOf_leaveActive, mem_removeWarp (show SlotsOnce _ c by rwa [SlotsOnce, e]), e]

/-- A block's slot is taken after a change of a block as before. -/
theorem blockAt_modBlock_isSome (s : State) (c bs b : Nat) {f : Block → Block} (hf : ∀ x, (f x).bslot = x.bslot) :
    ((s.modBlock c bs f).blockAt c b).isSome = (s.blockAt c b).isSome := by
  have e : (fun x : Block => decide ((if decide (x.bslot = bs) = true then f x else x).bslot = b)) = fun x => decide (x.bslot = b) := by
    funext x
    split
    · rw [hf]
    · rfl
  unfold State.modBlock State.blockAt
  rw [coreAt_modCore_same _ _ _ (by simp)]
  simp only [replaceBy, List.find?_map, Option.isSome_map, Function.comp_def, e]

/-- A block's slot is taken as long as the core's blocks are the same. -/
theorem blockAt_modCore (s : State) (c d b : Nat) {f : Core → Core} (hf : ∀ k, ((f k).id, (f k).blocks) = (k.id, k.blocks)) :
    (s.modCore c f).blockAt d b = s.blockAt d b := by
  simp only [Prod.mk.injEq] at hf
  unfold State.blockAt
  rw [coreAt_modCore s fun k => (hf k).1]
  split
  · rename_i e
    rw [e, (hf _).2]
  · rfl

theorem blockAt_removeWarp (s : State) (c slot b : Nat) : (s.removeWarp c slot).blockAt c b = s.blockAt c b := by
  unfold State.removeWarp
  split
  · rfl
  · exact blockAt_modCore s c c b fun _ => rfl

theorem blockAt_leaveActive (s : State) (c slot b : Nat) : (leaveActive s c slot).blockAt c b = s.blockAt c b :=
  blockAt_modCore s c c b fun _ => rfl
theorem blockAt_saveGens (s : State) (c : Nat) (w : Warp) (b : Nat) : (saveGens s c w).blockAt c b = s.blockAt c b :=
  blockAt_modCore s c c b fun _ => rfl

theorem blockAt_freeWarp (s : State) (c : Nat) (w : Warp) (b : Nat) : ((freeWarp s c w).blockAt c b).isSome = (s.blockAt c b).isSome := by
  rw [freeWarp, blockAt_leaveActive, blockAt_removeWarp, blockAt_saveGens, sumStalls]
  exact blockAt_modBlock_isSome s c _ b fun _ => rfl

/-- A warp that has exited, its results and jobs landed, ends (R151), and its block with the last of its warps. -/
theorem warpEnd_cases {c : Nat} {w : Warp} (h1 : w.live = 0) (h2 : outstanding s c w = false) (h3 : jobsOf s c w = []) :
    let f : State := { freeWarp s c w with placeDue := true }
    (warpEnd s c w = f ∧ (f.blockAt c w.bslot = none ∨ f.blockWarps c w.bslot ≠ []))
      ∨ ∃ b, b.bslot = w.bslot ∧ f.blockWarps c w.bslot = [] ∧ warpEnd s c w = endBlock f c b false := by
  unfold warpEnd
  rw [if_neg (by simp [h1, h2, h3])]
  dsimp only
  split
  · rename_i b hb
    split
    · rename_i he
      exact .inr ⟨b, by simpa using List.find?_some hb, he, rfl⟩
    · rename_i he
      exact .inl ⟨rfl, .inr he⟩
  · rename_i hn
    exact .inl ⟨rfl, .inl hn⟩

/-- No warp stands at the slot of one that has ended. -/
theorem warpEnd_slot {c : Nat} {w : Warp} (h : SlotsOnce s c) (h1 : w.live = 0) (h2 : outstanding s c w = false) (h3 : jobsOf s c w = []) :
    ∀ v ∈ (warpEnd s c w).warpsOf c, v.slot ≠ w.slot := by
  intro v hv
  obtain ⟨e, -⟩ | ⟨b, -, -, e⟩ := warpEnd_cases h1 h2 h3
  · rw [e] at hv
    exact ((mem_freeWarp h).1 hv).2
  · rw [e] at hv
    obtain ⟨x, hx, e⟩ := (endBlock_within _ c b false).slots c v hv
    exact e ▸ ((mem_freeWarp h).1 hx).2

theorem warpEnd_placeDue {c : Nat} {w : Warp} (h1 : w.live = 0) (h2 : outstanding s c w = false) (h3 : jobsOf s c w = []) :
    (warpEnd s c w).placeDue = true := by
  obtain ⟨e, -⟩ | ⟨b, -, -, e⟩ := warpEnd_cases h1 h2 h3
  · rw [e]
  · rw [e, endBlock_placeDue]

theorem blockAt_none {c b : Nat} (h : ∀ x ∈ (s.coreAt c).blocks, x.bslot ≠ b) : s.blockAt c b = none :=
  List.find?_eq_none.2 fun x hx => by simpa using h x hx

/-- The last warp of a block to exit ends it. -/
theorem warpEnd_last {c : Nat} {w : Warp} (h : SlotsOnce s c) (h1 : w.live = 0) (h2 : outstanding s c w = false) (h3 : jobsOf s c w = [])
    (hl : ∀ v ∈ s.warpsOf c, v.bslot = w.bslot → v.slot = w.slot) : (warpEnd s c w).blockAt c w.bslot = none := by
  have he : ({ freeWarp s c w with placeDue := true } : State).blockWarps c w.bslot = [] := by
    refine List.filter_eq_nil_iff.2 fun v hv e => ?_
    obtain ⟨hm, hs⟩ := (mem_freeWarp h).1 hv
    exact hs (hl v hm (by simpa using e))
  obtain ⟨e, hn | hb⟩ | ⟨b, eb, -, e⟩ := warpEnd_cases h1 h2 h3
  · exact e ▸ hn
  · exact absurd he hb
  · exact e ▸ eb ▸ blockAt_none (endBlock_gone _ c b false)

/-- A block of which a warp is left goes on. -/
theorem warpEnd_others {c : Nat} {w : Warp} (h : SlotsOnce s c) (h1 : w.live = 0) (h2 : outstanding s c w = false) (h3 : jobsOf s c w = [])
    (ho : ∃ v ∈ s.warpsOf c, v.bslot = w.bslot ∧ v.slot ≠ w.slot) :
    ((warpEnd s c w).blockAt c w.bslot).isSome = (s.blockAt c w.bslot).isSome := by
  obtain ⟨e, -⟩ | ⟨b, -, he, -⟩ := warpEnd_cases h1 h2 h3
  · rw [e]
    exact blockAt_freeWarp s c w _
  · obtain ⟨v, hv, e, hs⟩ := ho
    exact absurd (decide_eq_true e) (List.filter_eq_nil_iff.1 he v ((mem_freeWarp h).2 ⟨hv, hs⟩))

/-! ### The counting of a shootdown (R43, R291) -/

theorem serveHeld_empty (h : s.home.held = []) : serveHeld s = s := if_pos (by rw [h]; rfl)

/-- A core without stash mappings and update-only lines only drops its translations of the pages, and counts. -/
theorem shootdownCore_bare {c : Nat} {x : Shootdown} (h1 : s.home.held = []) (h2 : (s.coreAt c).stash = []) (h3 : (s.coreAt c).upd = []) :
    ∃ (f : List Stash → List Stash) (g : List Copy → List Copy), shootdownCore s c x =
      (s.modCore c fun k => { k with tlb := k.tlb.filter fun e => !x.hits e, stash := f k.stash }).modCore c
      fun k => { k with copies := g k.copies } := by
  unfold shootdownCore
  simp only [h2, h3, List.flatMap_nil, List.foldl_nil, List.filter_nil, List.map_nil, List.any_nil, Bool.not_false]
  exact ⟨fun l => l.map _, fun l => l.map _, serveHeld_empty (by simpa using h1)⟩

theorem shootdownCore_frame {c : Nat} {x : Shootdown} (h1 : s.home.held = []) (h2 : (s.coreAt c).stash = []) (h3 : (s.coreAt c).upd = []) :
    (shootdownCore s c x).home = s.home ∧ (shootdownCore s c x).shootdowns = s.shootdowns
      ∧ ((shootdownCore s c x).coreAt c).tlb = (s.coreAt c).tlb.filter (fun e => !x.hits e)
      ∧ ∀ d n, (shootdownCore s c x).warpAt d n = s.warpAt d n := by
  obtain ⟨f, g, e⟩ := shootdownCore_bare (x := x) h1 h2 h3
  refine ⟨by simp [e], by simp [e], by simp [e], fun d n => ?_⟩
  rw [e]
  refine Eq.trans (warpAt_modCore _ c d n ?_) (warpAt_modCore s c d n ?_) <;> exact fun _ => rfl

theorem shootdownComplete_single {c : Nat} {x : Shootdown} (hs : s.shootdowns = [x]) (hc : c ∈ x.wait) (hr : shootdownReady s c x = true)
    (he : (shootdownCore s c x).shootdowns = s.shootdowns) : shootdownComplete s c =
      let t : State := { shootdownCore s c x with shootdowns := [{ x with wait := x.wait.filter fun y => y ≠ c }] }
      if x.wait = [c] then t.modWarp x.core x.slot fun w => if w.wait = .tlbinv then w.wake else w else t := by
  unfold shootdownComplete
  simp [hs, hc, hr, he]

/-- Once the last core has counted a shootdown, its issuer wakes. -/
theorem shootdownComplete_frame {c : Nat} {x : Shootdown} {w : Warp} (hs : s.shootdowns = [x]) (hc : c ∈ x.wait) (hr : shootdownReady s c x = true)
    (h1 : s.home.held = []) (h2 : (s.coreAt c).stash = []) (h3 : (s.coreAt c).upd = []) (hw : s.warpAt x.core x.slot = some w) (hx : w.wait = .tlbinv) :
    let t := shootdownComplete s c
    t.shootdowns = [{ x with wait := x.wait.filter fun y => y ≠ c }] ∧ t.home = s.home
      ∧ (t.coreAt c).tlb = (s.coreAt c).tlb.filter (fun e => !x.hits e)
      ∧ (t.warpAt x.core x.slot).map (fun w => w.wait) = some (if x.wait = [c] then .retry else .tlbinv) := by
  obtain ⟨eh, es, et, ew⟩ := shootdownCore_frame (x := x) h1 h2 h3
  rw [shootdownComplete_single hs hc hr es]
  dsimp only
  generalize hq : ({ shootdownCore s c x with shootdowns := [{ x with wait := x.wait.filter fun y => y ≠ c }] } : State) = q
  have e1 : q.shootdowns = [{ x with wait := x.wait.filter fun y => y ≠ c }] := hq ▸ rfl
  have e2 : q.home = s.home := by rw [← hq, ← eh]
  have e3 : (q.coreAt c).tlb = (s.coreAt c).tlb.filter (fun e => !x.hits e) := by rw [← hq, ← et]; rfl
  have e4 : q.warpAt x.core x.slot = some w := by rw [← hw, ← ew, ← hq]; rfl
  by_cases hl : x.wait = [c]
  · rw [if_pos hl, if_pos hl]
    obtain ⟨l, el⟩ := coreAt_modWarp q x.core x.slot (fun w => if w.wait = .tlbinv then w.wake else w) c
    refine ⟨by simpa using e1, by simpa using e2, by simpa only [el] using e3, ?_⟩
    rw [warpAt_modWarp e4 (by rw [if_pos hx]; rfl), if_pos hx]
    rfl
  · rw [if_neg hl, if_neg hl]
    exact ⟨e1, e2, e3, by rw [e4, Option.map_some, hx]⟩

end Sys2Proof.WarpSteps

namespace Sys2Proof.WarpEventsProof
open Sys2Proof.Machine Sys2Proof.Safety Sys2Proof.Laws Sys2Proof.Frame Sys2Proof.WarpSteps

/-- Settles O44: each event of the core is taken by the rule about its one operation; that no two warps stand at a slot makes the warp that an event
names the only one it changes. -/
theorem warpEvents : Obligations.WarpEvents := by
  unfold Obligations.WarpEvents
  refine ⟨fun c n s w r hd hn hf hw => ?_, fun c slot s a hd ha hb hr => ?_, fun c slot s h => ?_, fun c slot s w hd hw h1 h2 h3 => ?_,
    fun c slot s w n pa key cond cmp p hw hx => ?_, fun c s x w hs hc hr h1 h2 h3 _ hw hx => ?_⟩
  · exact ⟨_, exec_activeSetEntry hn hf hw, takeSet_active s c _ hn, fun v hv e => takeSet_wait (slotsOnce_of_distinct hd c) n _ hv e, readyPending_head hw⟩
  · refine ⟨goPending s c slot, ?_, leaveActive_inactive _ c slot, fun v hv e => goPending_readyAt (slotsOnce_of_distinct hd c) hv e, goPending_home s c slot⟩
    exact congrArg Host.Outcome.next (if_pos ((boundDue_iff s c slot).2 ⟨⟨a, ha, hb⟩, hr⟩))
  · refine congrArg Host.Outcome.next (if_neg fun hd => ?_)
    obtain ⟨⟨a, ha, hb⟩, -⟩ := (boundDue_iff s c slot).1 hd
    exact absurd (h a ha) (Nat.not_lt.2 hb)
  · obtain ⟨hm, rfl⟩ := warpAt_some hw
    refine ⟨warpEnd s c w, ?_, warpEnd_placeDue h1 h2 h3, warpEnd_slot (slotsOnce_of_distinct hd c) h1 h2 h3, warpEnd_last (slotsOnce_of_distinct hd c) h1 h2 h3,
      warpEnd_others (slotsOnce_of_distinct hd c) h1 h2 h3⟩
    show execWarpExit c w.slot s = _
    rw [execWarpExit, hw]
  · refine ⟨_, rfl, ?_, by simp⟩
    rw [warpAt_modWarp hw (by rw [hx]; rfl), hx]
    rfl
  · exact ⟨shootdownComplete s c, rfl, shootdownComplete_frame hs hc hr h1 h2 h3 hw hx⟩

end Sys2Proof.WarpEventsProof
end

section
namespace Sys2Proof.QuietHomes
open Sys2Proof.Machine Sys2Proof.Safety Sys2Proof.Laws Sys2Proof.Frame Sys2Proof.WarpSteps

/-! # Device memory while nothing holds a line of it (R59, R69, R79, R80, R83)

Reads and writes of the base die are then those of the memory itself. -/

variable {s t : State}

/-- What `Quiet` says of the homes and of what the cores hold. -/
structure Calm (s : State) : Prop where
  held : s.home.held = []
  dir : s.home.dir = []
  placed : s.home.placed = []
  prom : s.home.prom = []
  gran : s.home.gran = []
  cores : ∀ k ∈ s.allCores, k.upd = [] ∧ k.stash = [] ∧ k.copies = []

theorem Quiet.calm (h : Quiet s) : Calm s := by
  obtain ⟨h1, h2, h3, h4, h5, -, -, h6, -, -⟩ := h
  exact ⟨h1, h2, h3, h4, h5, fun k hk => ⟨(h6 k hk).1, (h6 k hk).2.1, (h6 k hk).2.2.1⟩⟩

/-- The state with other bytes in device memory. -/
def withMem (s : State) (m : Memory) : State := { s with home := { s.home with mem := m } }

@[simp] theorem withMem_self (s : State) : withMem s s.home.mem = s := rfl

theorem Calm.withMem (h : Calm s) (m : Memory) : Calm (withMem s m) := ⟨h.held, h.dir, h.placed, h.prom, h.gran, h.cores⟩

/-! ### One line -/

theorem Calm.mergeAll (h : Calm s) (line : Nat) : mergeAll s line = s := by
  have e : (s.allCores.filter fun k => k.upd.any fun u => u.line = line) = [] :=
    List.filter_eq_nil_iff.2 fun k hk => by rw [(h.cores k hk).1]; simp
  unfold Machine.mergeAll
  rw [e]
  rfl

theorem Calm.stash (h : Calm s) (c : Nat) : (s.coreAt c).stash = [] := by
  obtain hm | e := coreAt_mem s c
  · exact (h.cores _ hm).2.1
  · rw [e]

theorem Calm.recallLine (h : Calm s) (line : Nat) (write : Bool) : recallLine s line write = s := by
  have e : ∀ c, recallStashAt s c line write = s := fun c => by
    unfold recallStashAt
    simp [h.stash c]
  unfold Machine.recallLine recallStash
  rw [h.mergeAll]
  generalize s.allCores.map (fun k => k.id) = l
  induction l with
  | nil => rfl
  | cons c l ih => rw [List.foldl_cons, e, ih]

theorem Calm.granAt (h : Calm s) (pa : Nat) : s.home.granAt pa = {} := by
  unfold Home.granAt
  rw [h.gran]
  rfl

theorem Calm.granFails (h : Calm s) {key : Nat} (hk : s.mgmt.material key = none) (pa : Nat) : granFails s pa key = none := by
  unfold Machine.granFails
  simp [h.granAt, hk]

theorem Calm.readGran (h : Calm s) {key : Nat} (hk : s.mgmt.material key = none) (pa n : Nat) :
    readGran s pa n key = (s, .ok (s.home.mem.bytes pa n)) := by
  unfold Machine.readGran
  rw [h.granFails hk]

theorem Calm.homePut (h : Calm s) (pa : Nat) (d : List Byte) : s.homePut pa d = QuietHomes.withMem s (s.home.mem.put pa d) := by
  unfold State.homePut QuietHomes.withMem
  simp [h.placed]

theorem Calm.setGran (h : Calm s) (pa : Nat) : s.home.setGran pa {} = s.home := by
  unfold Home.setGran
  rw [if_pos rfl, h.gran, List.filter_nil, ← h.gran]

theorem Calm.mergeGran (h : Calm s) {key : Nat} (hk : s.mgmt.material key = none) (pa : Nat) (d : List Byte) :
    mergeGran s pa d key = (QuietHomes.withMem s (s.home.mem.put pa d), true) := by
  unfold Machine.mergeGran
  rw [h.granFails hk, h.granAt, hk]
  dsimp only
  split
  · rw [h.setGran, h.homePut]
  · rw [h.homePut]

/-- An untagged write leaves no release tag where there was none. -/
theorem Calm.tagLine (h : Calm s) (line : Nat) (whole : Bool) : tagLine s line whole none false = s := by
  unfold Machine.tagLine
  rw [h.granAt]
  cases whole with
  | false => rfl
  | true => 
    show ({ s with home := { s.home.setGran (line * 64) {} with prom := s.home.prom.filter fun e => e.line ≠ line } } : State) = s
    rw [h.setGran, h.prom, List.filter_nil, ← h.prom]

theorem Calm.ownedBy (h : Calm s) (id : LineId) : ownedBy s id = none := by
  unfold Machine.ownedBy
  exact List.findSome?_eq_none_iff.2 fun k hk => by rw [(h.cores k hk).2.2]; rfl

theorem Calm.dirAt (h : Calm s) (line : Nat) : dirAt s line = none := by
  unfold Machine.dirAt
  rw [h.dir]
  rfl

/-- A request waits only for a line lock. -/
theorem Calm.mustWait (h : Calm s) {r : HeldReq} (hn : r.node = none) (hl : opWrites r.req.op = false ∨ s.home.locks = []) :
    mustWait s r s.home.held = false := by
  have hlock : (opWrites r.req.op && (assoc (r.req.pa / 64) (locksOf s r.node)).isSome) = false := by
    obtain e | e := hl
    · rw [e, Bool.false_and]
    · rw [hn, locksOf, e]
      simp [assoc]
  have hp : placement s r.req.pa = 0 := by
    unfold placement
    rw [h.placed]
    rfl
  unfold Machine.mustWait needsRecall
  dsimp only
  rw [h.held, h.ownedBy, h.dirAt, hp]
  simp only [hlock]
  simp

theorem Calm.physWaits (h : Calm s) (pa n : Nat) {write : Bool} (hl : write = false ∨ s.home.locks = []) : physWaits s pa n write = none := by
  unfold Machine.physWaits
  rw [if_neg]
  simp only [List.any_eq_true, not_exists, not_and, Bool.not_eq_true]
  refine fun a _ => h.mustWait rfl (hl.imp (fun e => ?_) id)
  rw [e]
  rfl

theorem Calm.whenServed (h : Calm s) (i : Instr) (pa n : Nat) {write : Bool} (go : State → State) (hl : write = false ∨ s.home.locks = []) :
    whenServed s i pa n write go = go s := by
  unfold Machine.whenServed
  rw [h.physWaits pa n hl]

/-! ### Ranges, a granule at a time -/

theorem granuleParts_induct {P : Nat → Nat → List (Nat × Nat) → Prop} (nil : ∀ a, P a 0 [])
    (cons : ∀ a n k l, k ≤ n → P (a + k) (n - k) l → P a n ((a, k) :: l)) :
    ∀ fuel a n, n = 0 ∨ a % 64 + n ≤ 64 * fuel → P a n (granuleParts fuel a n)
  | 0, a, n, h => by
    obtain rfl : n = 0 := by omega
    exact nil a
  | fuel + 1, a, n, h => by
    unfold granuleParts
    split
    · rename_i hn
      exact hn ▸ nil a
    · have hk : min n (64 - a % 64) ≤ n ∧ (n - min n (64 - a % 64) = 0 ∨ (a + min n (64 - a % 64)) % 64 + (n - min n (64 - a % 64)) ≤ 64 * fuel) := by
        obtain e | e := Nat.le_total n (64 - a % 64)
        · rw [Nat.min_eq_left e]
          omega
        · rw [Nat.min_eq_right e]
          omega
      exact cons a n _ _ hk.1 (granuleParts_induct nil cons fuel _ _ hk.2)

/-- The parts of a range follow one another and cover it. -/
theorem granules_induct {P : Nat → Nat → List (Nat × Nat) → Prop} (nil : ∀ a, P a 0 [])
    (cons : ∀ a n k l, k ≤ n → P (a + k) (n - k) l → P a n ((a, k) :: l)) (a n : Nat) : P a n (granules a n) :=
  granuleParts_induct nil cons _ a n (.inr (by omega))

theorem foldl_bytes {m : Memory} {f : State × Except Nat (List Byte) → Nat × Nat → State × Except Nat (List Byte)}
    (hf : ∀ b a k, f (s, .ok b) (a, k) = (s, .ok (b ++ m.bytes a k))) (pa n : Nat) :
    (granules pa n).foldl f (s, .ok []) = (s, .ok (m.bytes pa n)) := by
  have e := granules_induct (P := fun a n l => ∀ b, l.foldl f (s, .ok b) = (s, .ok (b ++ m.bytes a n))) (fun a b => by simp [Memory.bytes])
    (fun a n k l hkn ih b => by rw [List.foldl_cons, hf, ih, List.append_assoc, ← bytes_append, Nat.add_sub_cancel' hkn]) pa n []
  simpa using e

theorem Calm.physRead (h : Calm s) {key : Nat} (hk : s.mgmt.material key = none) (pa n : Nat) :
    physRead s pa n key = (s, .ok (s.home.mem.bytes pa n)) := by
  unfold Machine.physRead
  refine foldl_bytes (fun b a k => ?_) pa n
  dsimp only
  rw [h.recallLine, h.readGran hk]

/-- A part of the bytes that a range takes, and the rest. -/
theorem put_take {d : List Byte} {pa a n k : Nat} (m : Memory) (h1 : pa ≤ a) (h2 : a + n ≤ pa + d.length) (hk : k ≤ n) :
    (m.put a ((d.drop (a - pa)).take k)).put (a + k) ((d.drop (a + k - pa)).take (n - k)) = m.put a ((d.drop (a - pa)).take n) := by
  have e1 : ((d.drop (a - pa)).take k).length = k := by rw [List.length_take, List.length_drop]; omega
  have e2 : d.drop (a + k - pa) = (d.drop (a - pa)).drop k := by rw [List.drop_drop]; congr 1; omega
  have e3 : (d.drop (a - pa)).take n = (d.drop (a - pa)).take k ++ ((d.drop (a - pa)).drop k).take (n - k) := by
    rw [← List.take_add, Nat.add_sub_cancel' hk]
  rw [e3, put_append, e1, e2]

theorem foldl_put {β : Type} {f : State × β → Nat × Nat → State × β} {pa : Nat} {d : List Byte} {b : β}
    (hf : ∀ m a k, f (QuietHomes.withMem s m, b) (a, k) = (QuietHomes.withMem s (m.put a ((d.drop (a - pa)).take k)), b)) :
    (granules pa d.length).foldl f (s, b) = (QuietHomes.withMem s (s.home.mem.put pa d), b) := by
  have e := granules_induct (P := fun a n l => pa ≤ a → a + n ≤ pa + d.length → ∀ m,
    l.foldl f (QuietHomes.withMem s m, b) = (QuietHomes.withMem s (m.put a ((d.drop (a - pa)).take n)), b)) (fun a _ _ m => by simp)
    (fun a n k l hkn ih h1 h2 m => by rw [List.foldl_cons, hf, ih (by omega) (by omega), put_take m h1 h2 hkn])
    pa d.length (Nat.le_refl _) (Nat.le_refl _) s.home.mem
  simpa using e

theorem Calm.physWrite (h : Calm s) {key : Nat} (hk : s.mgmt.material key = none) (pa : Nat) (d : List Byte) :
    physWrite s pa d key = (QuietHomes.withMem s (s.home.mem.put pa d), true) := by
  unfold Machine.physWrite
  refine foldl_put fun m a k => ?_
  have hm := h.withMem m
  dsimp only
  rw [hm.recallLine, hm.mergeGran hk]
  dsimp only
  rw [if_pos rfl, (hm.withMem _).tagLine]
  rfl

/-! ### Requests to a home -/

theorem Calm.performReq_store (h : Calm s) {key : Nat} (hk : s.mgmt.material key = none) (pa : Nat) (d : List Byte) :
    performReq s (rdmaReq s pa key (.store d)) = (QuietHomes.withMem s (s.home.mem.put pa d), .ok 0) := by
  unfold performReq rdmaReq
  dsimp only
  rw [h.recallLine]
  cases d with
  | nil => exact congrArg (·, _) (h.tagLine _ _)
  | cons b d =>
    dsimp only
    rw [h.mergeGran hk]
    exact congrArg (·, _) ((h.withMem _).tagLine _ _)

/-- A read-modify-write of a doubleword: its old value, and the bytes it leaves. -/
theorem Calm.performReq_rmw (h : Calm s) {key : Nat} (hk : s.mgmt.material key = none) (pa : Nat) {op : HomeOp} {w : Option (List Byte)}
    (hop : op ≠ .trackShared ∧ op ≠ .trackExclusive ∧ ∀ d, op ≠ .store d)
    (hw : opResult op (s.home.mem.nat pa (opBytes op)) = (s.home.mem.nat pa (opBytes op), w)) :
    performReq s (rdmaReq s pa key op)
      = (QuietHomes.withMem s (w.elim s.home.mem (s.home.mem.put pa)), .ok (BitVec.ofNat 64 (s.home.mem.nat pa (opBytes op)))) := by
  unfold performReq rdmaReq
  dsimp only
  rw [h.recallLine]
  split
  · exact absurd rfl hop.1
  · exact absurd rfl hop.2.1
  · exact absurd rfl (hop.2.2 _)
  · exact absurd rfl (hop.2.2 _)
  · rw [h.readGran hk]
    dsimp only
    rw [show leNat (s.home.mem.bytes pa (opBytes op)) = s.home.mem.nat pa (opBytes op) from rfl, hw]
    cases w with
    | none => rfl
    | some d =>
      dsimp only
      rw [h.homePut]
      exact congrArg (·, _) ((h.withMem _).tagLine _ _)

end Sys2Proof.QuietHomes
end

section
namespace Sys2Proof.DeviceCommands
open Sys2Proof.Machine Sys2Proof.Safety Sys2Proof.Laws Sys2Proof.Frame Sys2Proof.WarpSteps Sys2Proof.QuietHomes

/-! # Inbound requests, the mailbox and the boot (R157, R382, R433 to R443) -/

variable {s t : State}

/-! ### Inbound requests (R157) -/

theorem dropRdma_nothing (h : s.fabric.admitted = []) (i : Instr) : dropRdma s i = s := by
  unfold dropRdma
  rw [h, List.filter_nil, ← h]

theorem entryOf_nothing (h : s.fabric.admitted = []) (i : Instr) (rkey : Word) : entryOf s i rkey = inboundOf s.fabric rkey := by
  unfold entryOf
  rw [h]
  rfl

/-- An inbound request that no entry admits is refused and counted. -/
theorem rdma_refused (hb : s.mgmt.boot = .running) (hw : s.waiting = []) (ha : s.fabric.admitted = []) (i : Instr) {conn : Nat} {rkey : Word} {va : Dword}
    {r : Rdma} (hr : admitRdma s conn (inboundOf s.fabric rkey) va r = .access) : rdma i conn rkey va r s = nak s (.nakAccess conn) := by
  unfold rdma
  rw [if_neg (by simp [hb]), if_neg (by simp [hw]), entryOf_nothing ha, dropRdma_nothing ha]
  dsimp only
  rw [hr]

/-- The parts of an inbound request are requests of this device to its own homes. -/
theorem rdmaParts_req (s : State) (pa key : Nat) (r : Rdma) : ∀ h ∈ rdmaParts s pa key r, ∃ a op, h = rdmaReq s a key op := by
  intro h hh
  cases r with
  | read n =>
    obtain ⟨x, -, rfl⟩ := List.mem_map.1 hh
    exact ⟨_, _, rfl⟩
  | write d =>
    obtain ⟨x, -, rfl⟩ := List.mem_map.1 hh
    exact ⟨_, _, rfl⟩
  | add x => exact ⟨_, _, List.mem_singleton.1 hh⟩
  | cas e n => exact ⟨_, _, List.mem_singleton.1 hh⟩

/-- A request that passes its checks, to quiet memory, is served at once. -/
theorem rdma_served (h : Calm s) (hl : s.home.locks = []) (hb : s.mgmt.boot = .running) (hw : s.waiting = []) (ha : s.fabric.admitted = []) (i : Instr)
    {conn pa key : Nat} {rkey : Word} {va : Dword} {r : Rdma} (hr : admitRdma s conn (inboundOf s.fabric rkey) va r = .memory pa key) {m : Memory} {a : Sent}
    (hp : rdmaPerform s conn pa key r = (withMem s m, a)) : rdma i conn rkey va r s = answerHost (withMem s m) a := by
  have hn : (rdmaParts s pa key r).filter (fun h => mustWait s h s.home.held) = [] := by
    refine List.filter_eq_nil_iff.2 fun x hx => ?_
    obtain ⟨b, op, rfl⟩ := rdmaParts_req s pa key r x hx
    rw [h.mustWait rfl (.inr hl)]
    exact Bool.false_ne_true
  unfold rdma
  rw [if_neg (by simp [hb]), if_neg (by simp [hw]), entryOf_nothing ha, dropRdma_nothing ha]
  dsimp only
  rw [hr]
  dsimp only
  rw [hn, if_neg (fun e => e rfl), hp]
  exact serveHeld_empty h.held

theorem rdmaPerform_read (h : Calm s) {key : Nat} (hk : s.mgmt.material key = none) (conn pa n : Nat) :
    rdmaPerform s conn pa key (.read n) = (withMem s s.home.mem, .data conn (s.home.mem.bytes pa n)) := by
  unfold rdmaPerform
  dsimp only
  rw [h.physRead hk]
  rfl

theorem rdmaPerform_write (h : Calm s) {key : Nat} (hk : s.mgmt.material key = none) (conn pa : Nat) (d : List Byte) :
    rdmaPerform s conn pa key (.write d) = (withMem s (s.home.mem.put pa d), .ack conn) := by
  unfold rdmaPerform rdmaParts
  dsimp only
  rw [List.foldl_map, foldl_put (s := s) (pa := pa) (d := d) (b := true)]
  · rfl
  · intro m a k
    dsimp only
    exact congrArg (fun x => match x with | (s, Except.ok _) => (s, true) | (s, Except.error _) => (s, false)) ((h.withMem m).performReq_store hk a _)

/-- A request that reads and writes a doubleword answers its old value. -/
theorem rdmaPerform_rmw (h : Calm s) {key : Nat} (hk : s.mgmt.material key = none) (conn pa : Nat) {r : Rdma} {op : HomeOp} {w : Option (List Byte)}
    (hr : (∃ x, r = .add x ∧ op = .rmw 1 x) ∨ ∃ e n, r = .cas e n ∧ op = .cas true e n)
    (hw : opResult op (s.home.mem.nat pa 8) = (s.home.mem.nat pa 8, w)) :
    rdmaPerform s conn pa key r = (withMem s (w.elim s.home.mem (s.home.mem.put pa)), .old conn (BitVec.ofNat 64 (s.home.mem.nat pa 8))) := by
  obtain ⟨x, rfl, rfl⟩ | ⟨e, n, rfl, rfl⟩ := hr
  · unfold rdmaPerform rdmaParts
    dsimp only [List.head?_cons]
    rw [h.performReq_rmw hk pa (by simp) hw]
    rfl
  · unfold rdmaPerform rdmaParts
    dsimp only [List.head?_cons]
    rw [h.performReq_rmw hk pa (by simp) hw]
    rfl

theorem opResult_add (x : Dword) (m : Nat) : opResult (.rmw 1 x) m = (m, some (leBytes 8 ((m + x.toNat) % 2 ^ 64))) := by
  simp only [opResult, rmwResult, rmwBytes]
  rfl

theorem opResult_cas (e n : Dword) (m : Nat) : opResult (.cas true e n) m = (m, if m = e.toNat then some (leBytes 8 n.toNat) else none) := by
  have he : e.toNat % 2 ^ (8 * 8) = e.toNat := Nat.mod_eq_of_lt e.isLt
  simp only [opResult, if_true, he]

theorem rdmaPerform_add (h : Calm s) {key : Nat} (hk : s.mgmt.material key = none) (conn pa : Nat) (x : Dword) :
    rdmaPerform s conn pa key (.add x)
      = (withMem s (s.home.mem.put pa (leBytes 8 ((s.home.mem.nat pa 8 + x.toNat) % 2 ^ 64))), .old conn (BitVec.ofNat 64 (s.home.mem.nat pa 8))) :=
  rdmaPerform_rmw h hk conn pa (.inl ⟨x, rfl, rfl⟩) (opResult_add x _)

theorem rdmaPerform_cas (h : Calm s) {key : Nat} (hk : s.mgmt.material key = none) (conn pa : Nat) (e n : Dword) :
    rdmaPerform s conn pa key (.cas e n) = (withMem s (if s.home.mem.nat pa 8 = e.toNat then s.home.mem.put pa (leBytes 8 n.toNat) else s.home.mem),
      .old conn (BitVec.ofNat 64 (s.home.mem.nat pa 8))) := by
  rw [rdmaPerform_rmw h hk conn pa (.inr ⟨e, n, rfl, rfl⟩) (opResult_cas e n _)]
  split <;> rfl

/-! ### The checks of an inbound request (R157) -/

theorem inboundOf_none {rkey : Word} (h : ∀ e ∈ s.fabric.inbound, e.rkey ≠ rkey.toNat ∨ e.ok = false) : inboundOf s.fabric rkey = none := by
  have e : s.fabric.inbound.filter (fun e => e.ok && e.rkey = rkey.toNat) = [] := by
    refine List.filter_eq_nil_iff.2 fun x hx hk => ?_
    obtain ⟨h1, h2⟩ : x.ok = true ∧ x.rkey = rkey.toNat := by simpa using hk
    obtain hn | hn := h x hx
    · exact hn h2
    · rw [h1] at hn
      cases hn
  unfold inboundOf
  rw [e]
  rfl

theorem inboundOf_single {e : Inbound} {rkey : Word} (h : s.fabric.inbound = [e]) (hok : e.ok = true) (hk : e.rkey = rkey.toNat) :
    inboundOf s.fabric rkey = some e := by
  unfold inboundOf
  rw [h, List.filter_cons_of_pos (by simp [hok, hk])]
  rfl

theorem keyLoaded_iff (m : Mgmt) (id : Dword) : keyLoaded m id.toNat = true ↔ id = 0 ∨ assoc id.toNat m.keys ≠ none := by
  unfold keyLoaded
  rw [Bool.or_eq_true, decide_eq_true_iff, Option.isSome_iff_ne_none, ← BitVec.toNat_inj]
  rfl

theorem not_keyLoaded_iff (m : Mgmt) (k : Nat) : (!keyLoaded m k) = true ↔ k ≠ 0 ∧ assoc k m.keys = none := by
  unfold keyLoaded
  simp

/-- The checks against an entry whose window begins at or below the address. -/
theorem admitRdma_some (s : State) (conn : Nat) {e : Inbound} {va : Dword} (r : Rdma) (h : e.hva ≤ va.toNat) :
    let w := e.w[0]
    let pa := e.base + (va.toNat - e.hva)
    admitRdma s conn (some e) va r =
      if w.getLsbD r.bit = false ∨ (w.getLsbD 5 = false ∧ w.toNat / 2 ^ 16 % 4096 ≠ conn) ∨ e.hva + e.len * 4096 < va.toNat + r.len then .access
      else if w.getLsbD 4 = true then (if r.len = 8 ∧ pa % 8 = 0 ∧ inboundRegister pa = true then .register pa else .access)
      else if 0xF000000000000 < pa + r.len ∨ backed s.mgmt pa r.len = false ∨ (r.atomic = true ∧ pa % 8 ≠ 0) then .access
      else if w.toNat / 2 ^ 32 % 2048 ≠ 0 ∧ assoc (w.toNat / 2 ^ 32 % 2048) s.mgmt.keys = none then .oper else .memory pa (w.toNat / 2 ^ 32 % 2048) := by
  have hw : e.at_ 0 = e.w[0] := by simp [Inbound.at_, Vector.getD]
  have hb : bits e.w[0] 27 16 = e.w[0].toNat / 2 ^ 16 % 4096 := rfl
  have hk : e.key = e.w[0].toNat / 2 ^ 32 % 2048 := by rw [Inbound.key, hw]; rfl
  dsimp only
  unfold admitRdma Inbound.reg
  dsimp only
  rw [hw, hb, hk]
  refine if_congr ?_ rfl (if_congr Iff.rfl (if_congr (by simp [and_assoc]) rfl rfl) (if_congr ?_ rfl (if_congr (not_keyLoaded_iff _ _) rfl rfl)))
  · simp only [Bool.or_eq_true, Bool.not_eq_true', Bool.or_eq_false_iff, decide_eq_true_iff, decide_eq_false_iff_not]
    rw [or_assoc, or_assoc]
    refine or_congr Iff.rfl (or_congr Iff.rfl ?_)
    omega
  · simp [or_assoc]

/-! ### The mailbox (R438) -/

theorem regWrite_command (h : s.mgmt.boot = .running) (v : Dword) :
    regWrite s mailboxPage v = if s.mgmt.status = 1 then s else mailboxCommand s (v.toNat % 256) := by
  unfold regWrite
  rw [if_neg (by simp [h]), if_neg (by decide), if_neg (by decide), if_pos (by decide)]
  unfold writeMailbox
  rw [if_pos (by decide)]
  simp [bits, bitsOf]

theorem keyload_eq (id : Dword) (s : State) : exec (.keyload id) s =
    .next (if 2048 ≤ id.toNat then commandEnds s 6
      else if id = 0 ∨ assoc id.toNat s.mgmt.keys ≠ none then commandEnds s 5
      else commandEnds { s with mgmt := { s.mgmt with keys := assocSet id.toNat s.mgmt.keybuf s.mgmt.keys } } 0) := by
  refine congrArg Host.Outcome.next (if_congr Iff.rfl rfl (if_congr ?_ rfl rfl))
  rw [keyLoaded_iff]

theorem patch_refused {pa : Dword} (h : pa.toNat ≥ 0xF000000000000 ∨ backed s.mgmt pa.toNat 5184 = false) : exec (.patch pa) s = .next (commandEnds s 6) :=
  if_pos (by simpa using h)

/-- How PATCH ends, by what the checks of the image come to (R381, R382). -/
def patchEnds (s : State) : Except Byte PatchSet → State
  | .error status => commandEnds s status
  | .ok p => commandEnds { s with mgmt := { s.mgmt with staged := some p } } 0

/-- A patch image in quiet memory ends with what its checks come to. -/
theorem patch_read (h : Calm s) (hk : s.mgmt.material 0 = none) {pa : Dword} (h1 : pa.toNat < 0xF000000000000) (h2 : backed s.mgmt pa.toNat 5184 = true) :
    exec (.patch pa) s = .next (patchEnds s (patchOf (s.home.mem.bytes pa.toNat 5184) s.mgmt.flash.patchFloor s.mgmt.lichen.version)) := by
  show execPatch pa s = _
  unfold execPatch
  rw [if_neg (by simpa [h2] using h1), h.whenServed _ _ _ _ (.inl rfl), h.physRead hk]
  dsimp only
  cases patchOf (s.home.mem.bytes pa.toNat 5184) s.mgmt.flash.patchFloor s.mgmt.lichen.version <;> rfl

theorem patchOf_unsigned {b : List Byte} (h : Config.pssVerify (b.take 0x1240) (b.drop 0x1240) = false) (floor active : Word) :
    patchOf b floor active = .error 3 := by
  unfold patchOf
  exact if_pos (by simp [h])

/-- An attestation report goes to its buffer. -/
theorem attest_writes (h : Calm s) (hl : s.home.locks = []) (hk : s.mgmt.material 0 = none) {nonce buf : Dword} (h1 : nonce.toNat < 0xF000000000000)
    (h2 : backed s.mgmt nonce.toNat 64 = true) (h3 : buf.toNat < 0xF000000000000)
    (h4 : backed s.mgmt buf.toNat (Config.attestReport (s.home.mem.bytes nonce.toNat 64) (measured s.mgmt)).length = true) :
    exec (.attest nonce buf) s
      = .next (commandEnds (withMem s (s.home.mem.put buf.toNat (Config.attestReport (s.home.mem.bytes nonce.toNat 64) (measured s.mgmt)))) 0) := by
  show execAttest nonce buf s = _
  unfold execAttest
  rw [if_neg (by simpa [h2] using h1), h.whenServed _ _ _ _ (.inl rfl), h.physRead hk]
  dsimp only
  rw [if_neg (by simpa [h4] using h3), h.whenServed _ _ _ _ (.inr hl), h.physWrite hk]

/-- A head descriptor that passes its checks configures its head. -/
theorem scanout_sets (h : Calm s) (hk : s.mgmt.material 0 = none) (head : Fin 2) {desc : Dword} (h1 : desc.toNat < 0xF000000000000)
    (h2 : backed s.mgmt desc.toNat 64 = true) (h3 : headSound (leNat (s.home.mem.bytes desc.toNat 64)) = true)
    (h4 : Config.headTrains (s.home.mem.bytes desc.toNat 64) = true) (h5 : leNat (s.home.mem.bytes desc.toNat 64) / 2 ^ 192 % 65536 ≠ 0) :
    let y := headOf (leNat (s.home.mem.bytes desc.toNat 64))
    exec (.scanout (BitVec.ofNat 64 head.val) desc) s = .next (commandEnds
      { s with mgmt := { s.mgmt with heads := s.mgmt.heads.set head { y with blanks := s.clock * y.hz / 400000000000 } } } 0) := by
  have e : (BitVec.ofNat 64 head.val).toNat = head.val := by
    rw [BitVec.toNat_ofNat]
    omega
  have e' : ∀ y : Head, s.mgmt.heads.setIfInBounds head.val y = s.mgmt.heads.set head y := fun y => by
    rw [← Vector.toArray_inj, Vector.toArray_setIfInBounds, Vector.toArray_set, Array.setIfInBounds, dif_pos (by simpa using head.is_le)]
  show execScanout _ desc s = _
  unfold execScanout
  rw [e, if_neg (by simp [h2]; omega), h.whenServed _ _ _ _ (.inl rfl), h.physRead hk]
  dsimp only
  rw [if_neg (by simpa [h3, h4, headOf, bitsOf] using h5), e']

theorem dumpwin_eq (idx : Dword) (s : State) : exec (.dumpwin idx) s = .next { s with mgmt := { s.mgmt with
      dumpWin := if idx.toNat < 4096 then some idx.toNat else s.mgmt.dumpWin, status := if idx.toNat < 4096 then 0 else 6, keybuf := 0 } } := by
  show execDumpwin idx s = _
  unfold execDumpwin
  by_cases h : idx.toNat < 4096
  · rw [if_neg (Nat.not_le.2 h), if_pos h, if_pos h]
    rfl
  · rw [if_pos (Nat.not_lt.1 h), if_neg h, if_neg h]
    rfl

/-- The words of a descriptor that STATEREAD finds in area 1. -/
theorem stateWords_desc (s : State) {q k : Nat} (hq : q < 4096) (hk : k < 8) :
    stateWords s 1 q (8 * k) 1 = (s, leBytes 8 (descWord (s.queueOf q) k).toNat) := by
  have e : mapped s 1 q (8 * k) = some (descWord (s.queueOf q) k) := by
    unfold mapped
    simp only
    rw [if_pos (by simp [hq]; omega), Nat.mul_div_cancel_left k (by decide)]
  unfold stateWords stateWord
  rw [e]
  simp [stateWords]

theorem stateread_desc (h : Calm s) (hl : s.home.locks = []) (hm : s.mgmt.material 0 = none) {q k : Nat} (hq : q < 4096) (hk : k < 8) {buf : Dword}
    (h1 : buf.toNat < 0xF000000000000) (h2 : backed s.mgmt buf.toNat 8 = true) :
    exec (.stateread (BitVec.ofNat 64 (2 ^ 40 + q * 2 ^ 24 + 8 * k)) buf 8) s
      = .next (commandEnds (withMem s (s.home.mem.put buf.toNat (leBytes 8 (descWord (s.queueOf q) k).toNat))) 0) := by
  have ht : (BitVec.ofNat 64 (2 ^ 40 + q * 2 ^ 24 + 8 * k)).toNat = 2 ^ 40 + q * 2 ^ 24 + 8 * k := by
    rw [BitVec.toNat_ofNat]
    omega
  have e1 : bits (BitVec.ofNat 64 (2 ^ 40 + q * 2 ^ 24 + 8 * k)) 63 48 = 0 := by
    rw [bits, ht, bitsOf]
    omega
  have e2 : bits (BitVec.ofNat 64 (2 ^ 40 + q * 2 ^ 24 + 8 * k)) 47 40 = 1 := by
    rw [bits, ht, bitsOf]
    omega
  have e3 : bits (BitVec.ofNat 64 (2 ^ 40 + q * 2 ^ 24 + 8 * k)) 39 24 = q := by
    rw [bits, ht, bitsOf]
    omega
  have e4 : bits (BitVec.ofNat 64 (2 ^ 40 + q * 2 ^ 24 + 8 * k)) 23 0 = 8 * k := by
    rw [bits, ht, bitsOf]
    omega
  have e8 : (8 : Dword).toNat = 8 := rfl
  show execStateread _ buf 8 s = _
  unfold execStateread
  rw [e1, e2, e3, e4, e8, if_neg (by simp [h2]; omega), h.whenServed _ _ _ _ (.inr hl), stateWords_desc s hq hk]
  dsimp only
  rw [h.physWrite hm]

/-! ### Reset and recovery (R433, R434) -/

theorem exec_recoveryRetry (s : State) : exec .recoveryRetry s = .next (match s.mgmt.boot with
      | .recovery n => { s with mgmt := { s.mgmt with boot := .recovery (if n < 3 then n + 1 else 0) } }
      | _ => s) := by
  show Host.Outcome.next (recoveryFails s) = _
  unfold recoveryFails
  cases s.mgmt.boot with
  | recovery n =>
    dsimp only
    rw [← ite_not]
    simp only [ge_iff_le, Nat.not_le]
  | _ => rfl

/-- What is gone of a machine after a reset (R433). -/
structure Cleared (t : State) : Prop where
  launches : t.launches = []
  queues : t.queues = []
  home : t.home = {}
  records : t.records = []
  blocks : ∀ k ∈ t.allCores, k.blocks = []
  cur : t.cur.present = false
  keys : t.mgmt.keys = []
  gen : t.mgmt.gen = 0
  lichen : t.mgmt.lichen = {}
  sysHandler : t.mgmt.sysHandler = 0
  dbgctl : t.mgmt.dbgctl = 0

theorem held_cleared (s : State) (f : Flash) (b : Boot) : Cleared (held s f b) :=
  ⟨rfl, rfl, rfl, rfl, fun k hk => by rw [List.mem_singleton.1 hk]; rfl, rfl, rfl, rfl, rfl, rfl, rfl⟩

theorem Cleared.runFirmware (h : Cleared s) : Cleared (runFirmware s) :=
  ⟨h.launches, h.queues, h.home, h.records, h.blocks, h.cur, h.keys, h.gen, h.lichen, h.sysHandler, h.dbgctl⟩

theorem Cleared.replace (h : Cleared s) (r : Bool) : Cleared { s with mgmt := { s.mgmt with replace := r } } :=
  ⟨h.launches, h.queues, h.home, h.records, h.blocks, h.cur, h.keys, h.gen, h.lichen, h.sysHandler, h.dbgctl⟩

theorem firmwareOk_iff (f : Flash) (x : Firmware) : firmwareOk f x = true ↔ x.sigOk = true ∧ f.fwFloor.toNat ≤ x.version := by
  simp [firmwareOk]

/-- The boot after a reset (R433, R434), by what the record and the firmware image come to. -/
theorem exec_reset (s : State) : ∃ t, exec .reset s = .next t ∧ Cleared t
    ∧ (¬(s.mgmt.flash.recordOk = true ∧ s.mgmt.flash.gddr = 1 ∧ s.mgmt.flash.reservedZero = true) → t.mgmt.boot = .halted ∧ t.mgmt.replace = true)
    ∧ (s.mgmt.flash.recordOk = true ∧ s.mgmt.flash.gddr = 1 ∧ s.mgmt.flash.reservedZero = true →
        t.mgmt.boot = if firmwareOk s.mgmt.flash s.mgmt.flash.firmware = true then .running else .recovery 0) := by
  show ∃ t, execReset s = .next t ∧ _
  have hc : (!(flashNow s.mgmt).recordOk || (flashNow s.mgmt).gddr ≠ 1 || !(flashNow s.mgmt).reservedZero) = true
      ↔ ¬(s.mgmt.flash.recordOk = true ∧ s.mgmt.flash.gddr = 1 ∧ s.mgmt.flash.reservedZero = true) := by
    simp only [Bool.or_eq_true, Bool.not_eq_true', decide_eq_true_iff, ← Bool.not_eq_true]
    simp only [flashNow]
    tauto
  unfold execReset
  dsimp only
  by_cases hr : s.mgmt.flash.recordOk = true ∧ s.mgmt.flash.gddr = 1 ∧ s.mgmt.flash.reservedZero = true
  · rw [if_neg fun e => hc.1 e hr]
    by_cases hf : firmwareOk s.mgmt.flash s.mgmt.flash.firmware = true
    · have hf' : firmwareOk (flashNow s.mgmt) (flashNow s.mgmt).firmware = true := hf
      rw [hf', hf]
      exact ⟨_, rfl, (held_cleared s _ _).runFirmware, fun e => absurd hr e, fun _ => rfl⟩
    · have hf' : firmwareOk (flashNow s.mgmt) (flashNow s.mgmt).firmware = false := Bool.eq_false_iff.2 hf
      rw [hf', if_neg hf]
      exact ⟨_, rfl, held_cleared s _ _, fun e => absurd hr e, fun _ => rfl⟩
  · rw [if_pos (hc.2 hr)]
    exact ⟨_, rfl, (held_cleared s _ _).replace true, fun _ => ⟨rfl, rfl⟩, fun e => absurd e hr⟩

/-- An image that a recovery read brought (R434): one that verifies is run, another is a failed read. -/
theorem exec_recoveryReadComplete {n : Nat} (h : s.mgmt.boot = .recovery n) (fw : Firmware) :
    exec (.recoveryReadComplete fw) s = .next (if firmwareOk s.mgmt.flash fw = true
      then runFirmware { s with mgmt := { s.mgmt with flash := { s.mgmt.flash with firmware := fw } } } else recoveryFails s) := by
  show execRecoveryReadComplete fw s = _
  unfold execRecoveryReadComplete
  rw [h]
  exact (apply_ite Host.Outcome.next _ _ _).symm

/-! ### Groups that are no instruction, fetches that fault (R183, R184) -/

theorem illegalInstruction_traps (e : DecErr) (n : Nat) (hp : s.cur.present = true) (hx : s.cur.executing ≠ 0) :
    exec (.illegalInstruction e n) s = .next (pumpRecords (takeTrap s (decTrap e))) := if_neg (by simpa [hp] using hx)

theorem instructionFetchFault_traps (first : Bool) (t : Trap) (hp : s.cur.present = true) (hx : s.cur.executing ≠ 0) (hm : s.cur.micro = none) :
    exec (.instructionFetchFault first t) s = .next (pumpRecords (takeTrap { s with cur := { s.cur with base := none, grp := {} } }
      (if first = true then { t with lanes := s.cur.executing } else { t with lanes := s.cur.executing, code := 0x13, sub := t.code, usub := t.sub }))) := by
  show execInstructionFetchFault first t s = _
  unfold execInstructionFetchFault
  rw [if_neg (by simpa [hp] using hx), if_neg (by simp [Warp.inMicro, hm])]
  rfl

end Sys2Proof.DeviceCommands
end

section
namespace Sys2Proof.KeyUnload
open Sys2Proof.Machine Sys2Proof.Safety Sys2Proof.Laws Sys2Proof.Frame Sys2Proof.DeviceCommands

/-! # Unloading a key (R23, R438) -/

variable {s t : State}

/-! ### What a core holds under a key -/

/-- No line that a core caches is under a key. -/
structure NoLine (k : Core) (key : Nat) : Prop where
  l1 : ∀ l ∈ k.l1, l.key ≠ key
  stash : ∀ st ∈ k.stash, ∀ l ∈ st.lines, l.key ≠ key

theorem NoLine.within {k j : Core} {key : Nat} (h : NoLine k key) (g : CoreWithin k j) : NoLine j key := by
  refine ⟨fun l hl => h.l1 l (g.l1 l hl), fun st hst l hl => ?_⟩
  obtain ⟨st', hst', l', hl', e⟩ := g.stash st hst l hl
  exact e ▸ h.stash st' hst' l' hl'

/-- The lines that are written back before a core drops a key. -/
theorem dropKeyAt_cases (s : State) (key c : Nat) : ∃ p, Within s p ∧ dropKeyAt s key c = p.modCore c fun k => { k with
    l1 := k.l1.filter fun l => l.key ≠ key
    stash := k.stash.map fun st => { st with lines := st.lines.filter fun l => l.key ≠ key } } :=
  ⟨_, .after (foldl_within (fun s (u : UpdLine) => (mergeUpd_atHome s c u.line).within) _ _)
    (foldl_within (fun s (x : Stash × StashLine) => (stashWriteBack_atHome s _ x.1 x.2).within) _ s), rfl⟩

theorem dropKeyAt_within (s : State) (key c : Nat) : Within s (dropKeyAt s key c) := by
  obtain ⟨p, hp, e⟩ := dropKeyAt_cases s key c
  rw [e]
  refine .after (modCore_within p c (fun _ => rfl) (fun k => ⟨fun b hb => ⟨b, hb, rfl, rfl⟩, fun l hl => (List.mem_filter.1 hl).1, fun _ h => h, ?_⟩)
    fun w hw => ⟨w, hw, rfl⟩) hp
  intro st hst l hl
  obtain ⟨st', hst', rfl⟩ := List.mem_map.1 hst
  exact ⟨st', hst', l, (List.mem_filter.1 hl).1, rfl⟩

theorem dropKeyAt_noLine (s : State) (key c : Nat) : NoLine ((dropKeyAt s key c).coreAt c) key := by
  obtain ⟨p, -, e⟩ := dropKeyAt_cases s key c
  rw [e, WarpSteps.coreAt_modCore_same _ _ _ (by simp)]
  refine ⟨fun l hl => by simpa using (List.mem_filter.1 hl).2, fun st hst l hl => ?_⟩
  obtain ⟨st', -, rfl⟩ := List.mem_map.1 hst
  simpa using (List.mem_filter.1 hl).2

/-- Of the cores that have dropped a key, none holds a line under it. -/
theorem foldl_dropKeyAt (key : Nat) (cs : List Nat) (s : State) :
    Within s (cs.foldl (fun s c => dropKeyAt s key c) s) ∧ ∀ c ∈ cs, NoLine ((cs.foldl (fun s c => dropKeyAt s key c) s).coreAt c) key := by
  induction cs generalizing s with
  | nil => exact ⟨.refl s, fun _ h => nomatch h⟩
  | cons d cs ih =>
    obtain ⟨hw, hn⟩ := ih (dropKeyAt s key d)
    refine ⟨(dropKeyAt_within s key d).trans hw, fun c hc => ?_⟩
    obtain rfl | hc := List.mem_cons.1 hc
    · exact (dropKeyAt_noLine s key c).within (hw.core c)
    · exact hn c hc

/-- With no line under the key in publication lines and in render-region caches, only the cores hold lines under it. -/
theorem dropKey_cores {key : Nat} (hp : ∀ l ∈ s.launches, ∀ x ∈ l.pubLines, x.key ≠ key)
    (hr : ∀ d ∈ s.geom.dies, ∀ x ∈ d.renderLines, x.2.1 ≠ key) :
    Within s (dropKey s key) ∧ keyCached (dropKey s key) key = false ∧ ∀ c, NoLine ((dropKey s key).coreAt c) key := by
  obtain ⟨hw, hn⟩ := foldl_dropKeyAt key (s.allCores.map fun k => k.id) s
  unfold dropKey
  dsimp only
  generalize (s.allCores.map fun k => k.id).foldl (fun s c => dropKeyAt s key c) s = p at hw hn
  have hpl : ∀ l ∈ p.launches, ∀ x ∈ l.pubLines, x.key ≠ key := fun l hl => by
    obtain ⟨l', hl', -, -, -, e, -⟩ := hw.launches l hl
    exact e ▸ hp l' hl'
  have hrd : ∀ d ∈ p.geom.dies, ∀ x ∈ d.renderLines, x.2.1 ≠ key := hw.geom.symm ▸ hr
  have e1 : p.launches.foldl (fun s l => publishKey s key l) p = p := by
    refine List.foldlRecOn p.launches _ (motive := fun q => q = p) rfl fun q hq l hl => ?_
    rw [hq, publishKey, List.filter_eq_nil_iff.2 fun x hx => by simpa using hpl l hl x hx, publishLines]
  have e2 : p.geom.dies.foldl (fun s d => writeBackKey s key d) p = p := by
    refine List.foldlRecOn p.geom.dies _ (motive := fun q => q = p) rfl fun q hq d hd => ?_
    rw [hq, writeBackKey, List.filter_eq_nil_iff.2 fun x hx => by simpa using hrd d hd x hx]
    rfl
  rw [e1, e2]
  refine ⟨hw, ?_, fun c => ?_⟩
  · unfold keyCached
    rw [Bool.or_eq_false_iff]
    constructor
    · exact List.any_eq_false.2 fun l hl => by simpa using hpl l hl
    · exact List.any_eq_false.2 fun d hd => by simpa [List.any_eq_true] using fun a b hx => hrd d hd (a, key, b) hx rfl
  · obtain hm | e := coreAt_mem s c
    · exact hn c (List.mem_map.2 ⟨_, hm, coreAt_id s c⟩)
    · exact NoLine.within (k := s.coreAt c) (by rw [e]; exact ⟨fun _ h => (nomatch h), fun _ h => (nomatch h)⟩) (hw.core c)

/-! ### The command -/

theorem assoc_filter {α : Type} (k n : Nat) (l : List (Nat × α)) : assoc n (l.filter fun x => x.1 ≠ k) = if n = k then none else assoc n l := by
  induction l with
  | nil => simp [assoc]
  | cons x l ih =>
    obtain ⟨a, v⟩ := x
    by_cases ha : a = k
    · rw [List.filter_cons_of_neg (by simpa using ha), ih]
      split
      · rfl
      · rename_i hn
        rw [assoc, if_neg fun e => hn (e.symm.trans ha)]
    · rw [List.filter_cons_of_pos (by simpa using ha), assoc, assoc, ih]
      split_ifs with h1 h2
      · exact absurd (h1.trans h2) ha
      · rfl
      · rfl
      · rfl

theorem keyunload_refused {id : Dword} (h : id = 0 ∨ assoc id.toNat s.mgmt.keys = none) : exec (.keyunload id) s = .next (pumpRecords (commandEnds s 5)) := by
  have e : (id = 0 || !keyLoaded s.mgmt id.toNat) = true := by
    rw [Bool.or_eq_true, decide_eq_true_iff, not_keyLoaded_iff]
    by_cases h0 : id = 0
    · exact .inl h0
    · exact .inr ⟨fun e => h0 (BitVec.eq_of_toNat_eq e), h.resolve_left h0⟩
  exact congrArg (fun t => Host.Outcome.next (pumpRecords t)) (if_pos e)

theorem keyunload_loaded {id : Dword} (h0 : id ≠ 0) (h1 : assoc id.toNat s.mgmt.keys ≠ none) : ¬(id = 0 || !keyLoaded s.mgmt id.toNat) = true := by
  rw [Bool.or_eq_true, decide_eq_true_iff, not_keyLoaded_iff]
  tauto

theorem keyunload_waits {id : Dword} (h0 : id ≠ 0) (h1 : assoc id.toNat s.mgmt.keys ≠ none) (h : ∃ h ∈ s.home.held, h.node = none ∧ h.req.key = id.toNat) :
    exec (.keyunload id) s = .next (pumpRecords { s with waiting := s.waiting ++ [.keyunload id] }) := by
  show execKeyunload id s = _
  unfold execKeyunload
  dsimp only
  rw [if_neg (keyunload_loaded h0 h1), if_pos (by simpa using h)]

/-- What stands once a key is unloaded. -/
def unloaded (s : State) (key : Nat) : State :=
  let p := dropKeyEntries (dropKey s key) key
  commandEnds { p with mgmt := { p.mgmt with keys := p.mgmt.keys.filter fun k => k.1 ≠ key } } 0

theorem keyunload_ends {id : Dword} (h0 : id ≠ 0) (h1 : assoc id.toNat s.mgmt.keys ≠ none)
    (hh : ∀ h ∈ s.home.held, h.node ≠ none ∨ h.req.key ≠ id.toNat)
    (hc : keyCached (dropKey s id.toNat) id.toNat = false) : exec (.keyunload id) s = .next (pumpRecords (unloaded s id.toNat)) := by
  have hn : ¬(s.home.held.any fun h => h.node.isNone && h.req.key = id.toNat) = true := by
    simp only [List.any_eq_true, Bool.and_eq_true, Option.isNone_iff_eq_none, decide_eq_true_iff]
    rintro ⟨h, hm, h2, h3⟩
    exact (hh h hm).elim (fun e => e h2) fun e => e h3
  show execKeyunload id s = _
  unfold execKeyunload
  dsimp only
  rw [if_neg (keyunload_loaded h0 h1), if_neg hn, hc]
  rfl

/-- No core holds a translation under the key. -/
theorem mem_dropKeyEntries {key : Nat} {k : Core} (h : k ∈ (dropKeyEntries s key).allCores) :
    ∃ j ∈ s.allCores, k = { j with tlb := j.tlb.filter fun x => x.leaf.key ≠ key } := by
  obtain rfl | h := List.mem_cons.1 h
  · exact ⟨s.core, List.mem_cons_self, rfl⟩
  · obtain ⟨j, hj, rfl⟩ := List.mem_map.1 h
    exact ⟨j, List.mem_cons_of_mem _ hj, rfl⟩

theorem unloaded_keys {key : Nat} (h : Within s (dropKey s key)) (n : Nat) :
    assoc n (unloaded s key).mgmt.keys = if n = key then none else assoc n s.mgmt.keys := by
  rw [← assoc_filter, ← h.mgmt]
  rfl

/-- Once a key is unloaded, no core holds a line or a translation under it. -/
theorem unloaded_cores {key : Nat} (hi : IdsOnce (dropKey s key)) (hn : ∀ c, NoLine ((dropKey s key).coreAt c) key) :
    ∀ k ∈ (unloaded s key).allCores, (∀ l ∈ k.l1, l.key ≠ key) ∧ (∀ x ∈ k.tlb, x.leaf.key ≠ key)
      ∧ ∀ st ∈ k.stash, ∀ l ∈ st.lines, l.key ≠ key := by
  intro k hk
  obtain ⟨j, hj, rfl⟩ := mem_dropKeyEntries (s := dropKey s key) hk
  have h := hn j.id
  rw [coreAt_of_mem hi hj] at h
  exact ⟨h.l1, fun x hx => by simpa using (List.mem_filter.1 hx).2, h.stash⟩

/-- A loaded key that nothing holds back is unloaded, with every cached line and translation under it. -/
theorem keyunload_unloads {id : Dword} (h0 : id ≠ 0) (h1 : assoc id.toNat s.mgmt.keys ≠ none) (hd : Distinct s)
    (hh : ∀ h ∈ s.home.held, h.node ≠ none ∨ h.req.key ≠ id.toNat) (hp : ∀ l ∈ s.launches, ∀ x ∈ l.pubLines, x.key ≠ id.toNat)
    (hr : ∀ d ∈ s.geom.dies, ∀ x ∈ d.renderLines, x.2.1 ≠ id.toNat) :
    ∃ t, exec (.keyunload id) s = .next (pumpRecords t) ∧ assoc id.toNat t.mgmt.keys = none ∧ t.mgmt.status = 0 ∧ t.mgmt.keybuf = 0
      ∧ (∀ n ≠ id.toNat, assoc n t.mgmt.keys = assoc n s.mgmt.keys)
      ∧ ∀ k ∈ t.allCores, (∀ l ∈ k.l1, l.key ≠ id.toNat) ∧ (∀ x ∈ k.tlb, x.leaf.key ≠ id.toNat)
        ∧ ∀ st ∈ k.stash, ∀ l ∈ st.lines, l.key ≠ id.toNat := by
  obtain ⟨hw, hc, hn⟩ := dropKey_cores hp hr
  refine ⟨unloaded s id.toNat, keyunload_ends h0 h1 hh hc, ?_, rfl, rfl, fun n hne => ?_, unloaded_cores (hw.ids hd.1) hn⟩
  · rw [unloaded_keys hw, if_pos rfl]
  · rw [unloaded_keys hw, if_neg hne]

end Sys2Proof.KeyUnload
end

section
namespace Sys2Proof.Relocate
open Sys2Proof.Machine Sys2Proof.Safety Sys2Proof.Laws Sys2Proof.Frame Sys2Proof.WarpSteps

/-! # A saved block moves to another core (R398) -/

variable {s t u : State}

/-! ### Which tags are out -/

/-- No return is on its way in the second state that is not on its way in the first (R147). -/
structure TagsWithin (s t : State) : Prop where
  returns : ∀ c, (t.coreAt c).returns = (s.coreAt c).returns
  held : ∀ h ∈ t.home.held, h ∈ s.home.held ∨ (h.req.ret = none ∧ h.lane = none)

theorem TagsWithin.refl (s : State) : TagsWithin s s := ⟨fun _ => rfl, fun _ h => .inl h⟩
theorem TagsWithin.trans (h : TagsWithin s t) (g : TagsWithin t u) : TagsWithin s u :=
  ⟨fun c => (g.returns c).trans (h.returns c), fun x hx => (g.held x hx).elim (h.held x) .inr⟩
theorem TagsWithin.after (g : TagsWithin t u) (h : TagsWithin s t) : TagsWithin s u := h.trans g
theorem AtHome.tags (h : AtHome s t) : TagsWithin s t := ⟨h.returns, h.held⟩

theorem modCore_tags (s : State) (c : Nat) {f : Core → Core} (hf : ∀ k, ((f k).id, (f k).returns) = (k.id, k.returns)) : TagsWithin s (s.modCore c f) := by
  simp only [Prod.mk.injEq] at hf
  refine ⟨fun d => ?_, fun x hx => .inl (by simpa using hx)⟩
  rw [coreAt_modCore s fun k => (hf k).1]
  split
  · rename_i e
    rw [(hf _).2, e]
  · rfl

theorem removeWarp_tags (s : State) (c slot : Nat) : TagsWithin s (s.removeWarp c slot) := by
  unfold State.removeWarp
  exact ite_rel ⟨fun _ => rfl, fun _ h => .inl h⟩ (modCore_tags s c fun _ => rfl)

theorem tagsOut_nil (h : TagsWithin s t) {c slot : Nat} (e : tagsOut s c slot = []) : tagsOut t c slot = [] := by
  unfold tagsOut at e ⊢
  obtain ⟨e1, e2⟩ := List.append_eq_nil_iff.1 e
  rw [h.returns, e1, List.nil_append]
  refine List.filterMap_eq_nil_iff.2 fun x hx => ?_
  obtain hx | ⟨h1, h2⟩ := h.held x hx
  · exact List.filterMap_eq_nil_iff.1 e2 x hx
  · rw [h1, h2]

theorem freeTag_nil (n : Nat) (g : BitVec 8) : freeTag [] n g = g := by
  cases n <;> rfl

/-! ### The warps on their new core -/

/-- A warp as relocation puts it at a slot of another core. -/
def moved (s : State) (c bslot : Nat) (w : Warp) : Warp :=
  let slot := lowestFree 64 ((s.warpsOf c).map fun x => x.slot)
  { w with slot := slot, bslot := bslot, away := true, genReg := freeTag (tagsOut s c slot) 256 (w.genReg + 1), genAcc := w.genAcc + 1, readyAt := s.clock }

/-- A warp joins a core. -/
def addWarp (s : State) (c : Nat) (w : Warp) : State := s.modCore c fun k => { k with warps := k.warps ++ [w] }

theorem addWarp_tags (s : State) (c : Nat) (w : Warp) : TagsWithin s (addWarp s c w) := modCore_tags s c fun _ => rfl

theorem moveWarps_cons (s : State) (c bslot : Nat) (w : Warp) (r : List Warp) :
    moveWarps s c bslot (w :: r) = moveWarps (addWarp s c (moved s c bslot w)) c bslot r := rfl

/-- What the warps that join a core leave as it is. -/
theorem moveWarps_frame (c bslot : Nat) (ws : List Warp) (s : State) :
    (∀ d, ((moveWarps s c bslot ws).coreAt d).blocks = (s.coreAt d).blocks) ∧ ∀ v ∈ (s.coreAt c).warps, v ∈ ((moveWarps s c bslot ws).coreAt c).warps := by
  induction ws generalizing s with
  | nil => exact ⟨fun _ => rfl, fun _ h => h⟩
  | cons w ws ih =>
    obtain ⟨h1, h2⟩ := ih (addWarp s c (moved s c bslot w))
    rw [moveWarps_cons]
    refine ⟨fun d => ?_, fun v hv => h2 v ?_⟩
    · rw [h1, addWarp, coreAt_modCore s (f := fun k => { k with warps := k.warps ++ [moved s c bslot w] }) fun _ => rfl]
      split
      · rename_i e
        rw [e]
      · rfl
    · rw [addWarp, coreAt_modWarps]
      exact List.mem_append_left _ hv

/-- Every warp of a relocated block stands at its new core. -/
theorem moveWarps_mem (c bslot : Nat) (ws : List Warp) (h : TagsWithin s t) : ∀ w ∈ ws, ∃ w' ∈ (moveWarps t c bslot ws).blockWarps c bslot, w' = { w with
    slot := w'.slot, bslot := bslot, away := true, genReg := w'.genReg, genAcc := w.genAcc + 1, readyAt := w'.readyAt }
    ∧ (tagsOut s c w'.slot = [] → w'.genReg = w.genReg + 1) := by
  induction ws generalizing t with
  | nil => exact fun _ h => nomatch h
  | cons v ws ih =>
    intro w hw
    rw [moveWarps_cons]
    obtain rfl | hw := List.mem_cons.1 hw
    · refine ⟨moved t c bslot w, ?_, rfl, fun e => (congrArg (freeTag · 256 (w.genReg + 1)) (tagsOut_nil h e)).trans (freeTag_nil _ _)⟩
      refine List.mem_filter.2 ⟨mem_warpsOf.2 (.inr ((moveWarps_frame c bslot ws _).2 _ ?_)), decide_eq_true rfl⟩
      rw [addWarp, coreAt_modWarps]
      exact List.mem_append_right _ (List.mem_singleton_self _)
    · exact ih (h.trans (addWarp_tags t c _)) w hw

/-! ### The block -/

/-- The block that a launch's number names, when there is one of it. -/
theorem findBlock {id : Word} {block c : Nat} {b : Block} (hb : b ∈ (s.coreAt c).blocks)
    (hu : ∀ k ∈ s.allCores, ∀ y ∈ k.blocks, (y.launch = id ∧ y.index.toNat = block) ↔ (k.id = c ∧ y = b)) :
    (s.allCores.findSome? fun k => (k.blocks.find? fun b => b.launch = id && b.index.toNat = block).map fun b => (k.id, b)) = some (c, b) := by
  have hm : s.coreAt c ∈ s.allCores := by
    obtain hm | e := coreAt_mem s c
    · exact hm
    · rw [e] at hb
      cases hb
  have hx := (hu _ hm b hb).2 ⟨coreAt_id s c, rfl⟩
  cases e : s.allCores.findSome? fun k => (k.blocks.find? fun b => b.launch = id && b.index.toNat = block).map fun b => (k.id, b) with
  | none =>
    have h := List.findSome?_eq_none_iff.1 e _ hm
    rw [Option.map_eq_none_iff, List.find?_eq_none] at h
    exact absurd (by simpa using hx) (h b hb)
  | some x =>
    obtain ⟨k, hk, h⟩ := List.exists_of_findSome?_eq_some e
    obtain ⟨y, hy, rfl⟩ := Option.map_eq_some_iff.1 h
    obtain ⟨rfl, rfl⟩ := (hu k hk y (List.mem_of_find?_eq_some hy)).1 (by simpa using List.find?_some hy)
    rfl

/-- What a relocated block leaves behind: its warps and its slot on the core that it leaves. -/
def leaveCore (s : State) (c : Nat) (b : Block) : State :=
  let ws := s.blockWarps c b.bslot
  let s := ws.foldl (fun s w => if w.away then s else imageOut s c w.slot) s
  let s := ws.foldl (fun s w => leaveActive ((saveGens s c w).removeWarp c w.slot) c w.slot) s
  s.modCore c fun k => { k with blocks := k.blocks.filter fun x => x.bslot ≠ b.bslot, genLSs := assocSet b.bslot (b.genLS + 1) k.genLSs }

theorem leaveCore_tags (s : State) (c : Nat) (b : Block) : TagsWithin s (leaveCore s c b) := by
  unfold leaveCore
  have hi : ∀ (s : State) (w : Warp), AtHome s (if w.away then s else imageOut s c w.slot) := fun s w => ite_rel (.refl s) (imageOut_atHome s c w.slot)
  refine .after (modCore_tags _ c fun _ => rfl) (.after ?_ (AtHome.tags (foldl_atHome hi (s.blockWarps c b.bslot) s)))
  refine foldl_rel .refl .trans (fun s w => ?_) _ _
  exact .after (modCore_tags _ c fun _ => rfl) (.after (removeWarp_tags _ c w.slot) (modCore_tags s c fun _ => rfl))

/-- The relocated block at its new core. -/
def landedAt (s : State) (core : Nat) (b : Block) : Block :=
  { b with bslot := lowestFree 16 ((s.coreAt core).blocks.map fun x => x.bslot), genLS := b.genLS + 1, resumable := true }

theorem exec_relocation {launch block core c : Nat} {b : Block} {l : Launch} (hb : b ∈ (s.coreAt c).blocks)
    (hl : s.launchOf (BitVec.ofNat 32 launch) = some l)
    (hu : ∀ k ∈ s.allCores, ∀ y ∈ k.blocks, (y.launch = BitVec.ofNat 32 launch ∧ y.index.toNat = block) ↔ (k.id = c ∧ y = b)) :
    ((mayRelocate s c b = false ∨ core = c) → exec (.relocation launch block core) s = .next s)
    ∧ (mayRelocate s c b = true → core ≠ c → s.mgmt.clusterUp (clusterOf core) = true → canHold s l core = true →
        (s.warpsOf core).length + (s.blockWarps c b.bslot).length ≤ 64 → (l.micro = 0 ∨ (s.coreAt core).microOwner = some l.id) →
        exec (.relocation launch block core) s = .next { moveWarps ((leaveCore s c b).setBlock core (landedAt (leaveCore s c b) core b)) core
          (landedAt (leaveCore s c b) core b).bslot (s.blockWarps c b.bslot) with placeDue := true }) := by
  show (_ → execRelocation launch block core s = _) ∧ (_ → _ → _ → _ → _ → _ → execRelocation launch block core s = _)
  unfold execRelocation
  dsimp only
  rw [findBlock hb hu, hl]
  dsimp only
  refine ⟨fun h => if_pos ?_, fun h1 h2 h3 h4 h5 h6 => ?_⟩
  · obtain h | rfl := h
    · simp [h]
    · simp
  · rw [if_neg (by simp [h1, h3, h4, Ne.symm h2]; omega), loadMicro, if_pos (by simpa using h6)]
    rfl

theorem leaveCore_blocks (s : State) (c : Nat) (b : Block) : ∀ x ∈ ((leaveCore s c b).coreAt c).blocks, x.bslot ≠ b.bslot := dropBlock_gone _ c b.bslot _

/-- A block put at a core stands there, and at no other core. -/
theorem coreAt_setBlock (s : State) (c : Nat) (b : Block) (d : Nat) :
    ((s.setBlock c b).coreAt d).blocks = if d = c then putBy (fun x => x.bslot = b.bslot) b (s.coreAt c).blocks else (s.coreAt d).blocks := by
  unfold State.setBlock
  rw [coreAt_modCore s (f := fun k => { k with blocks := putBy (fun x => x.bslot = b.bslot) b k.blocks }) fun _ => rfl]
  split <;> rfl

theorem mem_putBy_self {α : Type} {p : α → Bool} {x : α} (hx : p x = true) (l : List α) : x ∈ putBy p x l :=
  List.mem_of_find?_eq_some (find?_putBy hx l)

/-- A relocated block and its warps leave their core and stand at the new one. -/
theorem relocated {c core : Nat} {b : Block} (hc : core ≠ c) :
    let p := leaveCore s c b
    let t : State := { moveWarps (p.setBlock core (landedAt p core b)) core (landedAt p core b).bslot (s.blockWarps c b.bslot) with placeDue := true }
    b ∉ (t.coreAt c).blocks ∧ landedAt p core b ∈ (t.coreAt core).blocks
      ∧ ∀ w ∈ s.blockWarps c b.bslot, ∃ w' ∈ t.blockWarps core (landedAt p core b).bslot, w' = { w with
          slot := w'.slot, bslot := (landedAt p core b).bslot, away := true, genReg := w'.genReg, genAcc := w.genAcc + 1, readyAt := w'.readyAt }
          ∧ (tagsOut s core w'.slot = [] → w'.genReg = w.genReg + 1) := by
  intro p t
  have hb : ∀ d, (t.coreAt d).blocks = ((p.setBlock core (landedAt p core b)).coreAt d).blocks := (moveWarps_frame core _ _ _).1
  refine ⟨?_, ?_, ?_⟩
  · rw [hb, coreAt_setBlock, if_neg (Ne.symm hc)]
    exact fun h => leaveCore_blocks s c b b h rfl
  · rw [hb, coreAt_setBlock, if_pos rfl]
    exact mem_putBy_self (by simp) _
  · exact moveWarps_mem core _ _ ((leaveCore_tags s c b).trans (modCore_tags p core fun _ => rfl))

end Sys2Proof.Relocate
end

section
namespace Sys2Proof.CoreDumps
open Sys2Proof.Machine Sys2Proof.Safety Sys2Proof.Laws Sys2Proof.Frame

/-! # The core image of a killed process (R432, R440) -/

variable {s t u : State}

/-! ### What each step of a dump leaves -/

theorem setPreempted_within (s : State) (bs : List (Nat × Block)) : Within s (setPreempted s bs true) := by
  unfold setPreempted
  refine foldl_within (fun s x => ?_) bs s
  obtain ⟨c, b⟩ := x
  dsimp only
  rw [if_pos rfl, if_pos rfl, if_pos rfl]
  refine .after (mapWarps_within _ c fun w => by split <;> rfl) (.after (modCore_aside _ c fun _ => rfl)
    (.after (foldl_within (fun s n => leaveActive_within s c n) _ _) (.after (dropPlaces_within _ _) (modBlock_within s c _ fun _ => rfl))))

/-- The notes of blocks take free values and change nothing else. -/
theorem foldl_blockNotes (l : List (Nat × Block)) (s : State) (d : List Byte) :
    ∃ n, (l.foldl (fun (x : State × List Byte) y => ((blockNotes x.1 y.1 y.2).1, x.2 ++ (blockNotes x.1 y.1 y.2).2)) (s, d)).1 = { s with free := n } := by
  induction l generalizing s d with
  | nil => exact ⟨s.free, rfl⟩
  | cons y l ih => exact ih (blockNotes s y.1 y.2).1 _

theorem coreImage_free (s : State) (ls : List Launch) (cause : Word × List Byte) : ∃ n, (coreImage s ls cause).1 = { s with free := n } :=
  foldl_blockNotes (blocksOf s ls) s []

/-- A core image begins as an ELF64 file does. -/
theorem coreImage_elf (s : State) (ls : List Launch) (cause : Word × List Byte) :
    (coreImage s ls cause).2.take 8 = [0x7F, 0x45, 0x4C, 0x46, 2, 1, 1, 0] := rfl

/-! ### Where a dump goes (R440) -/

theorem writeDump_none (h : s.mgmt.dumpWin = none) (image : List Byte) : writeDump s image = s := by
  unfold writeDump
  rw [h]
  rfl

theorem writeDump_window {k : Nat} {e : BitVec 128} (h : s.mgmt.dumpWin = some k) (hw : windowOf s.fabric true k = some e) (image : List Byte) :
    let at_ := hostAddr (e.toNat / 2 ^ 8 % 4096) (e.toNat / 2 ^ 64)
    writeDump s image = if s.fabric.host.nat at_ 8 = 0
      then { s with fabric := { s.fabric with host := (s.fabric.host.put (at_ + 8) image).put at_ (leBytes 8 image.length) } }
      else { s with mgmt := { s.mgmt with dumpsSkipped := s.mgmt.dumpsSkipped + 1 } } := by
  have e1 : bits e 19 8 = e.toNat / 2 ^ 8 % 4096 := rfl
  have e2 : bits e 127 64 = e.toNat / 2 ^ 64 := by
    have := e.isLt
    rw [bits, bitsOf]
    omega
  unfold writeDump
  rw [h, Option.bind_some, hw, ← e1, ← e2]
  exact ite_not _ _ _

/-! ### The launches of the process are killed -/

/-- Blocks that are killed one after another are gone. -/
theorem foldl_killBlock (r : Rec) (l : List (Nat × Block)) (s : State) :
    Within s (l.foldl (fun s y => killBlock s y.1 y.2 r) s)
      ∧ ∀ y ∈ l, ∀ x ∈ ((l.foldl (fun s y => killBlock s y.1 y.2 r) s).coreAt y.1).blocks, x.bslot ≠ y.2.bslot := by
  induction l generalizing s with
  | nil => exact ⟨.refl s, fun _ h => nomatch h⟩
  | cons z l ih =>
    obtain ⟨hw, hg⟩ := ih (killBlock s z.1 z.2 r)
    rw [List.foldl_cons]
    refine ⟨(killBlock_within s z.1 z.2 r).trans hw, fun y hy x hx => ?_⟩
    obtain rfl | hy := List.mem_cons.1 hy
    · obtain ⟨a, ha, e, -⟩ := (hw.core y.1).blocks x hx
      exact e ▸ killBlock_gone s y.1 y.2 r a ha
    · exact hg y hy x hx

/-- A launch is killed and holds no block. -/
structure Killed (s : State) (id : Word) : Prop where
  killed : ∀ y ∈ s.launches, y.id = id → y.killed = true
  blocks : ∀ c, ∀ b ∈ (s.coreAt c).blocks, b.launch ≠ id

theorem Killed.within {id : Word} (h : Killed s id) (g : Within s t) : Killed t id := by
  refine ⟨fun y hy e => ?_, fun c b hb => ?_⟩
  · obtain ⟨x, hx, e1, -, -, -, hk⟩ := g.launches y hy
    exact hk (h.killed x hx (e1.trans e))
  · obtain ⟨a, ha, -, e⟩ := (g.core c).blocks b hb
    exact e ▸ h.blocks c a ha

theorem killLaunch_cases (s : State) (id : Word) (sub : Nat) : Within s (killLaunch s id sub) ∧ Killed (killLaunch s id sub) id := by
  have h0 : Within s (s.modLaunch id fun l => { l with killed := true }) := modLaunch_within s id fun _ => ⟨rfl, rfl, rfl, rfl, fun _ => rfl⟩
  unfold killLaunch
  dsimp only
  generalize hp : (s.modLaunch id fun l => { l with killed := true }) = p at h0
  obtain ⟨hw, hg⟩ := foldl_killBlock (plainKill sub) (p.allCores.flatMap fun k => (k.blocks.filter fun b => b.launch = id).map fun b => (k.id, b)) p
  refine ⟨h0.trans hw, fun y hy e => ?_, fun c b hb e => ?_⟩
  · obtain ⟨x, hx, e1, -, -, -, hk⟩ := hw.launches y hy
    subst hp
    obtain ⟨z, -, rfl⟩ := List.mem_map.1 hx
    refine hk ?_
    by_cases hz : z.id = id
    · rw [if_pos (decide_eq_true hz)]
    · rw [if_neg (by simpa using hz)] at e1
      exact absurd (e1.trans e) hz
  · obtain ⟨a, ha, e1, e2⟩ := (hw.core c).blocks b hb
    have hm : p.coreAt c ∈ p.allCores := by
      obtain hm | e := coreAt_mem p c
      · exact hm
      · rw [e] at ha
        cases ha
    refine hg (c, a) (List.mem_flatMap.2 ⟨_, hm, List.mem_map.2 ⟨a, List.mem_filter.2 ⟨ha, by simpa using e2.trans e⟩, ?_⟩⟩) b hb e1.symm
    rw [coreAt_id]

theorem queueOf_q (s : State) (q : Nat) : (s.queueOf q).q = q := by
  unfold State.queueOf
  cases h : s.queues.find? fun x => x.q = q with
  | none => rfl
  | some x => simpa using List.find?_some h

theorem queueOf_setQueue (s : State) (x : Queue) (q : Nat) : (s.setQueue x).queueOf q = if q = x.q then x else s.queueOf q := by
  unfold State.queueOf State.setQueue
  split
  · rename_i e
    rw [e, find?_putBy (by simp)]
    rfl
  · rename_i e
    rw [find?_putBy_other (by simpa using Ne.symm e) fun y hy => by simp_all [Ne.symm e]]

/-- What the kill of a process leaves as it is, and where its launches and cores come from: all of `Within` but the queues. -/
structure Killing (s t : State) : Prop where
  mgmt : t.mgmt = s.mgmt
  host : t.fabric.host = s.fabric.host
  launches : ∀ y ∈ t.launches, ∃ x ∈ s.launches, LaunchWithin x y
  ids : IdsOnce s → IdsOnce t

theorem Killing.refl (s : State) : Killing s s := ⟨rfl, rfl, (Within.refl s).launches, id⟩
theorem Killing.trans (h : Killing s t) (g : Killing t u) : Killing s u := by
  refine ⟨g.mgmt.trans h.mgmt, g.host.trans h.host, fun z hz => ?_, g.ids ∘ h.ids⟩
  obtain ⟨y, hy, i1, i2, i3, i4, i5⟩ := g.launches z hz
  obtain ⟨x, hx, j1, j2, j3, j4, j5⟩ := h.launches y hy
  exact ⟨x, hx, j1.trans i1, j2.trans i2, j3.trans i3, j4.trans i4, i5 ∘ j5⟩

/-- A launch of a killed process: killed, without a block, its queue's last error a fatal fault (R159). -/
def Dead (s : State) (x : Launch) : Prop := Killed s x.id ∧ (s.queueOf x.q).lasterr = 6

theorem killProcess_killing (s : State) (l : Launch) : Killing s (killProcess s l) := by
  obtain ⟨h, -⟩ := killLaunch_cases s l.id 4
  exact ⟨h.mgmt, h.host, h.launches, h.ids⟩

theorem killed_setQueue {id : Word} (h : Killed s id) (q : Queue) : Killed (s.setQueue q) id := ⟨h.killed, h.blocks⟩

theorem killProcess_dead (s : State) (l : Launch) : Dead (killProcess s l) l := by
  obtain ⟨-, h⟩ := killLaunch_cases s l.id 4
  refine ⟨killed_setQueue h _, ?_⟩
  unfold killProcess
  dsimp only
  rw [queueOf_setQueue, if_pos (queueOf_q _ _).symm]

theorem Dead.killProcess {x : Launch} (h : Dead s x) (l : Launch) : Dead (killProcess s l) x := by
  obtain ⟨hw, -⟩ := killLaunch_cases s l.id 4
  refine ⟨killed_setQueue (h.1.within hw) _, ?_⟩
  unfold Machine.killProcess
  dsimp only
  rw [queueOf_setQueue]
  split
  · rfl
  · rw [State.queueOf, hw.queues]
    exact h.2

theorem foldl_killProcess (ls : List Launch) (s : State) :
    Killing s (ls.foldl killProcess s) ∧ ∀ x, x ∈ ls ∨ Dead s x → Dead (ls.foldl killProcess s) x := by
  induction ls generalizing s with
  | nil => exact ⟨.refl s, fun x h => h.resolve_left (fun h => nomatch h)⟩
  | cons l ls ih =>
    obtain ⟨hk, hd⟩ := ih (killProcess s l)
    refine ⟨(killProcess_killing s l).trans hk, fun x h => hd x ?_⟩
    rw [List.mem_cons, or_assoc, or_left_comm] at h
    exact h.imp id fun h => h.elim (fun e => e ▸ killProcess_dead s l) fun h => h.killProcess l

/-! ### The dump -/

/-- The launches of the process of a launch, when another queue has its root. -/
theorem processOf_shared {l : Launch} {q : Queue} (hq : q ∈ s.queues) (h1 : q.q ≠ l.q) (h2 : q.enabled = true) (h3 : q.word 2 = l.ptroot) :
    processOf s l = s.launches.filter fun x => x.ptroot = l.ptroot :=
  if_pos (List.any_eq_true.2 ⟨q, hq, by simp [h1, h2, h3]⟩)

theorem coreDump_other {launch : Nat} (h : ∀ x, s.mgmt.fatal = some x → x.1.toNat ≠ launch) : exec (.coreDump launch) s = .next s := by
  show execCoreDump launch s = _
  unfold execCoreDump
  cases e : s.mgmt.fatal with
  | none => rfl
  | some x => exact if_pos (h x e)

theorem coreDump_off {launch : Nat} {x : Word × List Byte} (hf : s.mgmt.fatal = some x) (hx : x.1.toNat = launch)
    (h : s.launchOf x.1 = none ∨ s.mgmt.dbgctl.getLsbD 1 = false) : exec (.coreDump launch) s = .next { s with mgmt := { s.mgmt with fatal := none } } := by
  show execCoreDump launch s = _
  unfold execCoreDump
  rw [hf]
  dsimp only
  rw [if_neg (fun e => e hx)]
  refine if_pos ?_
  obtain h | h := h
  · rw [show ({ s with mgmt := { s.mgmt with fatal := none } } : State).launchOf x.1 = none from h]
    rfl
  · rw [show ({ s with mgmt := { s.mgmt with fatal := none } } : State).mgmt.dbgctl.getLsbD 1 = false from h]
    simp

/-- The state in which a core image is taken (R432): the blocks of the process are pre-empted. -/
def dumped (s : State) (ls : List Launch) : State :=
  let s : State := { s with mgmt := { s.mgmt with fatal := none } }
  setPreempted s ((blocksOf s ls).filter fun y => !y.2.preempted) true

/-- The state once the image has been written. -/
def imaged (s : State) (ls : List Launch) (x : Word × List Byte) : State :=
  writeDump (coreImage (dumped s ls) ls x).1 (coreImage (dumped s ls) ls x).2

/-- The process is killed once its image has been written. -/
def ended (s : State) (ls : List Launch) (x : Word × List Byte) : State := { ls.foldl killProcess (imaged s ls x) with placeDue := true }

theorem coreDump_dumps {launch : Nat} {x : Word × List Byte} {l : Launch} {q : Queue} (hf : s.mgmt.fatal = some x) (hx : x.1.toNat = launch)
    (hl : s.launchOf x.1 = some l) (hd : s.mgmt.dbgctl.getLsbD 1 = true) (hq : q ∈ s.queues) (h1 : q.q ≠ l.q) (h2 : q.enabled = true)
    (h3 : q.word 2 = l.ptroot) : exec (.coreDump launch) s = .next (pumpRecords (ended s (s.launches.filter fun x => x.ptroot = l.ptroot) x)) := by
  have hn : s.launches.filter (fun x => x.ptroot = l.ptroot) ≠ [] :=
    List.ne_nil_of_mem (List.mem_filter.2 ⟨List.mem_of_find?_eq_some hl, decide_eq_true rfl⟩)
  have hp := processOf_shared (s := { s with mgmt := { s.mgmt with fatal := none } }) hq h1 h2 h3
  show execCoreDump launch s = _
  unfold execCoreDump
  rw [hf]
  dsimp only
  rw [if_neg (fun e => e hx), show ({ s with mgmt := { s.mgmt with fatal := none } } : State).launchOf x.1 = some l from hl]
  dsimp only
  refine (if_neg ?_).trans ?_
  · rw [Bool.or_eq_true, decide_eq_true_iff, hp, hd]
    exact fun e => e.elim hn Bool.noConfusion
  · rw [hp]
    rfl

theorem dumped_within (s : State) (ls : List Launch) : Within { s with mgmt := { s.mgmt with fatal := none } } (dumped s ls) := setPreempted_within _ _

/-- A dump leaves the launches, the cores and the fatal fault as they are. -/
theorem writeDump_frame (s : State) (image : List Byte) : (writeDump s image).launches = s.launches ∧ (writeDump s image).allCores = s.allCores
    ∧ (writeDump s image).mgmt.fatal = s.mgmt.fatal := by
  unfold writeDump
  split
  · exact ⟨rfl, rfl, rfl⟩
  · dsimp only
    split <;> exact ⟨rfl, rfl, rfl⟩

theorem imaged_frame (s : State) (ls : List Launch) (x : Word × List Byte) : (imaged s ls x).mgmt.fatal = none
    ∧ (∀ y ∈ (imaged s ls x).launches, ∃ z ∈ s.launches, LaunchWithin z y) ∧ (IdsOnce s → IdsOnce (imaged s ls x)) := by
  have hw := dumped_within s ls
  obtain ⟨n, hc⟩ := coreImage_free (dumped s ls) ls x
  obtain ⟨e1, e2, e3⟩ := writeDump_frame (coreImage (dumped s ls) ls x).1 (coreImage (dumped s ls) ls x).2
  rw [hc] at e1 e2 e3
  refine ⟨?_, fun y hy => ?_, fun hi => ?_⟩
  · rw [imaged, hc, e3]
    exact congrArg Mgmt.fatal hw.mgmt
  · rw [imaged, hc, e1] at hy
    exact hw.launches y hy
  · rw [IdsOnce, imaged, hc, e2]
    exact hw.ids hi

/-- How the launches of a dumped process end. -/
theorem ended_launches (hi : IdsOnce s) (root : Dword) (x : Word × List Byte) :
    let t := ended s (s.launches.filter fun x => x.ptroot = root) x
    t.mgmt.fatal = none ∧ ∀ y ∈ t.launches, y.ptroot = root → y.killed = true ∧ (∀ k ∈ t.allCores, ∀ b ∈ k.blocks, b.launch ≠ y.id)
      ∧ (t.queueOf y.q).lasterr = 6 := by
  unfold ended
  dsimp only
  generalize hls : (s.launches.filter fun x => x.ptroot = root) = ls
  obtain ⟨hf, hl, hi'⟩ := imaged_frame s ls x
  obtain ⟨hk, hd⟩ := foldl_killProcess ls (imaged s ls x)
  refine ⟨hk.mgmt ▸ hf, fun y hy hroot => ?_⟩
  obtain ⟨z, hz, i1, i2, i3, -, -⟩ := hk.launches y hy
  obtain ⟨w, hw, j1, j2, j3, -, -⟩ := hl z hz
  have hm : w ∈ ls := hls ▸ List.mem_filter.2 ⟨hw, decide_eq_true (j3.trans (i3.trans hroot))⟩
  obtain ⟨hkill, hq⟩ := hd w (.inl hm)
  have eid : w.id = y.id := j1.trans i1
  refine ⟨hkill.killed y hy eid.symm, fun k hk' b hb => ?_, (j2.trans i2) ▸ hq⟩
  rw [← eid]
  refine hkill.blocks k.id b ?_
  rwa [coreAt_of_mem (hk.ids (hi' hi)) hk']

/-- What goes to the dump window. -/
theorem ended_host (s : State) (ls : List Launch) (x : Word × List Byte) :
    let t := ended s ls x
    (s.mgmt.dumpWin = none → t.fabric.host = s.fabric.host)
      ∧ ∀ k e, s.mgmt.dumpWin = some k → windowOf s.fabric true k = some e →
          let at_ := hostAddr (e.toNat / 2 ^ 8 % 4096) (e.toNat / 2 ^ 64)
          if s.fabric.host.nat at_ 8 = 0 then ∃ image : List Byte, image.take 8 = [0x7F, 0x45, 0x4C, 0x46, 2, 1, 1, 0]
            ∧ t.fabric.host = (s.fabric.host.put (at_ + 8) image).put at_ (leBytes 8 image.length)
          else t.fabric.host = s.fabric.host ∧ t.mgmt.dumpsSkipped = s.mgmt.dumpsSkipped + 1 := by
  have hw := dumped_within s ls
  obtain ⟨n, hc⟩ := coreImage_free (dumped s ls) ls x
  have hk := (foldl_killProcess ls (imaged s ls x)).1
  have ht : (ended s ls x).fabric.host = (writeDump (coreImage (dumped s ls) ls x).1 (coreImage (dumped s ls) ls x).2).fabric.host := hk.host
  have hm : (ended s ls x).mgmt = (writeDump (coreImage (dumped s ls) ls x).1 (coreImage (dumped s ls) ls x).2).mgmt := hk.mgmt
  have helf := coreImage_elf (dumped s ls) ls x
  have em : (coreImage (dumped s ls) ls x).1.mgmt = { s.mgmt with fatal := none } := by rw [hc]; exact hw.mgmt
  have eh : (coreImage (dumped s ls) ls x).1.fabric.host = s.fabric.host := by rw [hc]; exact hw.host
  have ew : (coreImage (dumped s ls) ls x).1.fabric.hwin = s.fabric.hwin := by rw [hc]; exact hw.hwin
  generalize coreImage (dumped s ls) ls x = p at ht hm helf em eh ew
  dsimp only
  rw [ht, hm]
  refine ⟨fun h => ?_, fun k e hd hwin => ?_⟩
  · rw [writeDump_none (by rw [em]; exact h), eh]
  · have hwin' : windowOf p.1.fabric true k = some e := by rw [← hwin, windowOf, windowOf, if_pos rfl, if_pos rfl, ew]
    rw [writeDump_window (by rw [em]; exact hd) hwin' p.2, eh]
    split
    · exact ⟨p.2, helf, rfl⟩
    · exact ⟨eh, by rw [em]⟩

end Sys2Proof.CoreDumps
end

section
namespace Sys2Proof.DeviceEventsProof
open Sys2Proof.Machine Sys2Proof.Safety Sys2Proof.Laws Sys2Proof.Frame Sys2Proof.QuietHomes Sys2Proof.DeviceCommands Sys2Proof.KeyUnload
open Sys2Proof.Relocate Sys2Proof.CoreDumps

theorem next_pumpRecords {s t : State} (h : s = t) : (Host.Outcome.next (pumpRecords s) : Host.Outcome State Fault Refusal) = .next (pumpRecords t) := by
  rw [h]

section Inbound
variable {s : State} {conn : Nat} {rkey : Word} {va : Dword}

/-- What a served request changes: bytes of memory, and one answer on its way. -/
theorem answered {i : Instr} {m : Memory} {a : Sent} (h : exec i s = .next (pumpRecords (answerHost (withMem s m) a))) :
    ∃ t, exec i s = .next (pumpRecords t) ∧ t.home.mem = m ∧ t.fabric.sent = s.fabric.sent ++ [a] ∧ t.fabric.naks = s.fabric.naks :=
  ⟨_, h, rfl, rfl, rfl⟩

/-- The four kinds of inbound requests, admitted to quiet memory (R157). -/
theorem inbound_served {pa key : Nat} (hc : Calm s) (hl : s.home.locks = []) (hw : s.waiting = []) (ha : s.fabric.admitted = [])
    (hb : s.mgmt.boot = .running) (hk : s.mgmt.material key = none) :
    let admits := fun (r : Rdma) => admitRdma s conn (inboundOf s.fabric rkey) va r = .memory pa key
    let gives := fun (i : Instr) (mem : Memory) (a : Sent) => ∃ t, exec i s = .next (pumpRecords t) ∧ t.home.mem = mem
      ∧ t.fabric.sent = s.fabric.sent ++ [a] ∧ t.fabric.naks = s.fabric.naks
    (∀ n, admits (.read n) → gives (.rdmaRead conn rkey va n) s.home.mem (.data conn (s.home.mem.bytes pa n)))
    ∧ (∀ d, admits (.write d) → gives (.rdmaWrite conn rkey va d) (s.home.mem.put pa d) (.ack conn))
    ∧ (∀ x, admits (.add x) →
        gives (.rdmaFetchAdd conn rkey va x) (s.home.mem.put pa (leBytes 8 ((s.home.mem.nat pa 8 + x.toNat) % 2 ^ 64)))
          (.old conn (BitVec.ofNat 64 (s.home.mem.nat pa 8))))
    ∧ ∀ e n, admits (.cas e n) →
        gives (.rdmaCmpSwap conn rkey va e n) (if s.home.mem.nat pa 8 = e.toNat then s.home.mem.put pa (leBytes 8 n.toNat) else s.home.mem)
          (.old conn (BitVec.ofNat 64 (s.home.mem.nat pa 8))) := by
  exact ⟨fun n hr => answered (next_pumpRecords (rdma_served hc hl hb hw ha _ hr (rdmaPerform_read hc hk conn pa n))),
    fun d hr => answered (next_pumpRecords (rdma_served hc hl hb hw ha _ hr (rdmaPerform_write hc hk conn pa d))),
    fun x hr => answered (next_pumpRecords (rdma_served hc hl hb hw ha _ hr (rdmaPerform_add hc hk conn pa x))),
    fun e n hr => answered (next_pumpRecords (rdma_served hc hl hb hw ha _ hr (rdmaPerform_cas hc hk conn pa e n)))⟩

/-- The four kinds of inbound requests that no entry admits. -/
theorem inbound_refused (hw : s.waiting = []) (ha : s.fabric.admitted = []) (hb : s.mgmt.boot = .running)
    (hn : ∀ e ∈ s.fabric.inbound, e.rkey ≠ rkey.toNat ∨ e.ok = false) :
    let no : Host.Outcome State Fault Refusal := .next (pumpRecords (nak s (.nakAccess conn)))
    (∀ n, exec (.rdmaRead conn rkey va n) s = no) ∧ (∀ d, exec (.rdmaWrite conn rkey va d) s = no)
      ∧ (∀ x, exec (.rdmaFetchAdd conn rkey va x) s = no) ∧ ∀ e n, exec (.rdmaCmpSwap conn rkey va e n) s = no := by
  have hr : ∀ r, admitRdma s conn (inboundOf s.fabric rkey) va r = .access := fun r => by rw [inboundOf_none hn]; rfl
  exact ⟨fun n => next_pumpRecords (rdma_refused hb hw ha _ (hr (.read n))), fun d => next_pumpRecords (rdma_refused hb hw ha _ (hr (.write d))),
    fun x => next_pumpRecords (rdma_refused hb hw ha _ (hr (.add x))), fun e n => next_pumpRecords (rdma_refused hb hw ha _ (hr (.cas e n)))⟩

end Inbound

/-- A command written to the mailbox (R438) runs as a step of its own; a number that names none is refused. -/
theorem registerWrite_command {s : State} (h : s.mgmt.boot = .running) (v : Dword) :
    let takes := fun (i : Instr) => Host.Outcome.next (pumpRecords { s with mgmt := { s.mgmt with status := 1 }, inputs := s.inputs ++ [i] })
    let a := s.mgmt.arg
    exec (.registerWrite mailboxPage v) s =
      if s.mgmt.status = 1 then .next (pumpRecords s)
      else match v.toNat % 256 with
        | 1 => takes (.keyload a[0]) | 2 => takes (.keyunload a[0]) | 3 => takes (.patch a[0]) | 4 => takes .withdraw
        | 5 => takes (.attest a[0] a[1]) | 6 => takes (.scanout a[0] a[1]) | 7 => takes (.dumpwin a[0]) | 8 => takes (.stateread a[0] a[1] a[2])
        | _ => .next (pumpRecords { s with mgmt := { s.mgmt with status := 2, keybuf := 0 } }) := by
  show Host.Outcome.next (pumpRecords (regWrite s mailboxPage v)) = _
  rw [regWrite_command h]
  split
  · rfl
  · generalize v.toNat % 256 = n
    match n with
    | 0 | 1 | 2 | 3 | 4 | 5 | 6 | 7 | 8 | n + 9 => rfl

/-- The surfaces and the pitch of the head that a descriptor configures (R439). -/
theorem headOf_surfaces (x : Nat) : ((headOf x).surf0.toNat, (headOf x).surf1.toNat, (headOf x).pitch)
    = (x % 2 ^ 52, x / 2 ^ 64 % 2 ^ 52, x / 2 ^ 128 % 2 ^ 32) := by
  simp only [headOf, bitsOf, BitVec.toNat_ofNat, Prod.mk.injEq]
  refine ⟨?_, ?_, trivial⟩ <;> omega

/-- Settles O51: each event is taken by the rule about its one operation; quiet homes serve every access of the base die at once, an unloaded key and a
dumped process are followed through the cores by what a step can only take away, and relocation adds to one core what it has taken from another. -/
theorem deviceEvents : Obligations.DeviceEvents := by
  unfold Obligations.DeviceEvents
  refine ⟨fun conn rkey va s pa key hq hl hw ha hb hk => ?_, fun conn rkey va s hw ha hb hn => ?_, fun conn rkey va s e r hi hok hkey hva => ?_,
    fun v s hb => ?_, fun id s => ?_, fun id s => ⟨fun h => keyunload_refused h, fun h0 h1 hd hh hp hr => keyunload_unloads h0 h1 hd hh hp hr⟩,
    fun id s h0 h1 h => keyunload_waits h0 h1 h, fun pa s => ⟨fun h => patch_refused h, fun hq hk h1 h2 => ?_⟩, fun s => rfl, fun s => ?_,
    fun nonce buf s hq hl hk h1 h2 h3 h4 => ⟨_, attest_writes (Quiet.calm hq) hl hk h1 h2 h3 h4, rfl, rfl⟩,
    fun head desc s hq hk h1 h2 h3 h4 h5 => ?_, fun idx s => dumpwin_eq idx s,
    fun q k buf s hq hl hm h1 h2 h3 h4 => ⟨_, stateread_desc (Quiet.calm hq) hl hm h1 h2 h3 h4, rfl, rfl⟩,
    fun launch block core s c b l hd hb hl hu _ _ => ?_, fun launch s h => coreDump_other h, fun launch s x hf hx h => coreDump_off hf hx h,
    fun launch s x l q hd hf hx hl hdb hq h1 h2 h3 => ?_, fun s => ?_, fun s => exec_recoveryRetry s, fun fw s n h => ?_,
    fun e n s code sub hp hx hm => ?_, fun first t s hp hx hm => instructionFetchFault_traps first t hp hx hm⟩
  · exact inbound_served (Quiet.calm hq) hl hw ha hb hk
  · exact inbound_refused hw ha hb hn
  · rw [inboundOf_single hi hok hkey]
    exact admitRdma_some s conn r hva
  · exact registerWrite_command hb v
  · dsimp only
    rw [keyload_eq]
    split_ifs <;> rfl
  · dsimp only
    rw [patch_read (Quiet.calm hq) hk h1 h2]
    exact ⟨fun hv => by rw [patchOf_unsigned hv]; rfl, fun status e => by rw [e]; rfl, fun p e => by rw [e]; rfl⟩
  · show execPatchActivation s = _
    unfold execPatchActivation
    cases s.mgmt.staged with
    | none => rfl
    | some p =>
      dsimp only
      rw [ite_not]
      exact (apply_ite Host.Outcome.next _ _ _).symm
  · refine ⟨_, _, scanout_sets (Quiet.calm hq) hk head h1 h2 h3 h4 h5, rfl, rfl, rfl, headOf_surfaces _, rfl⟩
  · obtain ⟨stays, goes⟩ := exec_relocation (core := core) hb hl hu
    refine ⟨stays, fun h1 h2 h3 h4 h5 h6 => ⟨_, landedAt (leaveCore s c b) core b, goes h1 h2 h3 h4 h5 h6, rfl, ?_⟩⟩
    obtain ⟨r1, r2, r3⟩ := relocated (s := s) (b := b) h2
    exact ⟨r1, r2, rfl, r3⟩
  · obtain ⟨e1, e2⟩ := ended_launches hd.1 l.ptroot x
    exact ⟨_, coreDump_dumps hf hx hl hdb hq h1 h2 h3, e1, e2, ended_host s _ x⟩
  · obtain ⟨t, e, hc, h1, h2⟩ := exec_reset s
    refine ⟨t, e, hc.launches, hc.queues, hc.home, hc.records, hc.blocks, hc.cur, hc.keys, hc.gen, hc.lichen, hc.sysHandler, hc.dbgctl, h1,
      fun hr hi => ?_, fun hr hi => ?_⟩
    · rw [h2 hr, if_neg fun e => hi ((firmwareOk_iff _ _).1 e)]
    · rw [h2 hr, if_pos ((firmwareOk_iff _ _).2 hi)]
  · rw [exec_recoveryReadComplete h, ← firmwareOk_iff]
    exact ⟨fun hf => ⟨_, by rw [if_pos hf], rfl, rfl⟩, fun hf => by rw [if_neg hf]; rfl⟩
  · rw [illegalInstruction_traps e n hp hx]
    simp only [List.mem_cons, Prod.mk.injEq, List.not_mem_nil, or_false] at hm
    rcases hm with ⟨rfl, rfl, rfl⟩ | ⟨rfl, rfl, rfl⟩ | ⟨rfl, rfl, rfl⟩ | ⟨rfl, rfl, rfl⟩ | ⟨rfl, rfl, rfl⟩ | ⟨rfl, rfl, rfl⟩ | ⟨rfl, rfl, rfl⟩
      | ⟨rfl, rfl, rfl⟩ | ⟨rfl, rfl, rfl⟩ | ⟨rfl, rfl, rfl⟩ | ⟨rfl, rfl, rfl⟩ | ⟨rfl, rfl, rfl⟩ <;> rfl

end Sys2Proof.DeviceEventsProof
end

section
namespace Sys2Proof.StashWriteBacks
open Sys2Proof.Machine

/-! # A write-back into a memory whose list of bytes is out of order

`HomeEvents` does not ask that the home's memory be listed in canonical form (`memoriesWf`). Where its bytes are listed out of order, `Memory.set`
of a zero byte stops before the byte that stands there, so a write-back of zeros leaves it. -/

/-- A dirty stash line over the device's line 0. -/
def dirtyLine : StashLine := { n := 0, state := 3, pa := 0, key := 0 }
/-- The mapping that holds it. -/
def mapping : Stash := { entry := 0, rw := true, bslot := 0, loff := 0, len := 1, gva := 0, lines := [dirtyLine] }
/-- The mapping's block, its local store all zero. -/
def zeroBlock : Block := { bslot := 0, launch := 0, index := 0 }
/-- A core with that mapping, and a home whose byte 3 is listed after its byte 100. -/
def outOfOrder : State := { core := { id := 0, blocks := [zeroBlock], stash := [mapping] }, home := { mem := [(100, 1), (3, 7)] } }

/-- Byte 3 stays 7 where the block's local store holds 0. -/
theorem writeBack_keeps_byte {t : State} (h : exec (.stashRecall 0 0 0 true) outOfOrder = .next t) :
    t.home.mem.bytes (dirtyLine.pa * 64) 64 ≠ zeroBlock.local_.bytes (mapping.loff * 4096 + dirtyLine.n * 64) 64 := by
  obtain rfl := Host.Outcome.next.inj h
  decide

end Sys2Proof.StashWriteBacks

namespace Sys2Proof.HomeEventsRefuted
open Sys2Proof.Machine Sys2Proof.StashWriteBacks

/-- Refutes O41: its clause on STASH_RECALL says of every memory that the line's home then holds the bytes of the block's local store, which the
model ensures in memories of canonical form only. -/
theorem not_homeEvents : ¬ Obligations.HomeEvents := by
  unfold Obligations.HomeEvents
  rintro ⟨-, -, -, -, hrecall, -⟩
  obtain ⟨t, ht, -, -, -, hbytes⟩ := hrecall 0 0 0 true outOfOrder mapping dirtyLine rfl rfl (by decide)
  refine writeBack_keeps_byte ht (hbytes zeroBlock rfl (fun x hx _ => ?_) rfl rfl)
  exact List.mem_singleton.1 hx

end Sys2Proof.HomeEventsRefuted
end

section
namespace Sys2Proof.Accesses
open Sys2Proof.Machine Sys2Proof.Safety Sys2Proof.Laws Sys2Proof.Frame

/-! # What an access leaves where it stands (R22, R24, R54, R60, R70)

Walks, recalls and loads change homes, the fabric and what cores cache; the issuing warp, the management core, the blocks of the cores and the
entries of their stash maps stay. -/

variable {r s t : State}

/-- A core has the same blocks in its slots and the same entries in its stash map, whatever bytes and lines those hold. -/
def SameSlots (k j : Core) : Prop :=
  j.blocks.map (fun b => b.bslot) = k.blocks.map (fun b => b.bslot) ∧ j.stash.map (fun st => st.entry) = k.stash.map fun st => st.entry

theorem SameSlots.of_eq {k j : Core} (e : (j.blocks, j.stash) = (k.blocks, k.stash)) : SameSlots k j := by
  simp only [Prod.mk.injEq] at e
  exact ⟨by rw [e.1], by rw [e.2]⟩

/-- The issuing warp, the management core, the cores' blocks and their stash entries are the same. -/
structure Unmoved (s t : State) : Prop where
  cur : t.cur = s.cur
  mgmt : t.mgmt = s.mgmt
  coreId : t.core.id = s.core.id
  ids : IdsOnce s → IdsOnce t
  slots : ∀ c, SameSlots (s.coreAt c) (t.coreAt c)

theorem Unmoved.refl (s : State) : Unmoved s s := ⟨rfl, rfl, rfl, id, fun _ => .of_eq rfl⟩
theorem Unmoved.trans {u : State} (h : Unmoved s t) (g : Unmoved t u) : Unmoved s u :=
  ⟨g.cur.trans h.cur, g.mgmt.trans h.mgmt, g.coreId.trans h.coreId, g.ids ∘ h.ids,
    fun c => ⟨(g.slots c).1.trans (h.slots c).1, (g.slots c).2.trans (h.slots c).2⟩⟩
/-- A change that leaves the cores, the issuing warp and the management core alone. -/
theorem unmoved_of_eq (e : (t.cur, t.mgmt, t.core, t.cores) = (s.cur, s.mgmt, s.core, s.cores)) : Unmoved s t := by
  simp only [Prod.mk.injEq] at e
  obtain ⟨e1, e2, e3, e4⟩ := e
  refine ⟨e1, e2, by rw [e3], ?_, fun c => .of_eq ?_⟩
  · simp only [IdsOnce, State.allCores, e3, e4]
    exact id
  · simp only [State.coreAt, e3, e4]
/-- The stash entries of the issuing core. -/
theorem Unmoved.entries (h : Unmoved s t) : t.core.stash.map (fun st => st.entry) = s.core.stash.map fun st => st.entry := by
  have e := (h.slots s.core.id).2
  rwa [State.coreAt, if_pos h.coreId, State.coreAt, if_pos rfl] at e
theorem Unmoved.of_fst {β : Type} {p : State × β} {x : β} (h : Unmoved s p.1) (e : p = (t, x)) : Unmoved s t := by
  rw [e] at h
  exact h

theorem ite_fst {β : Type} {c : Prop} [Decidable c] {a b : State × β} (ha : Unmoved r a.1) (hb : Unmoved r b.1) :
    Unmoved r (if c then a else b).1 := by
  split
  · exact ha
  · exact hb

theorem foldl_unmoved {α : Type} {f : State → α → State} (hf : ∀ s a, Unmoved s (f s a)) (l : List α) (s : State) : Unmoved s (l.foldl f s) :=
  foldl_rel .refl .trans hf l s

theorem modCore_unmoved (h : Unmoved r s) (c : Nat) {f : Core → Core} (hid : ∀ k, (f k).id = k.id) (hf : ∀ k, SameSlots k (f k)) :
    Unmoved r (s.modCore c f) := by
  refine h.trans ⟨by simp, by simp, by simp, fun hi => idsOnce_modCore hi c f, fun d => ?_⟩
  rw [coreAt_modCore s hid]
  split
  · rename_i e
    exact e ▸ hf _
  · exact .of_eq rfl
/-- A change of a core that leaves its blocks and its stash alone. -/
theorem modCore_cached (h : Unmoved r s) (c : Nat) {f : Core → Core} (hf : ∀ k, ((f k).id, (f k).blocks, (f k).stash) = (k.id, k.blocks, k.stash)) :
    Unmoved r (s.modCore c f) := by
  simp only [Prod.mk.injEq] at hf
  exact modCore_unmoved h c (fun k => (hf k).1) fun k => .of_eq (by rw [(hf k).2.1, (hf k).2.2])

/-! ### Homes -/

theorem homePut_unmoved (s : State) (pa : Nat) (d : List Byte) : Unmoved s (s.homePut pa d) := unmoved_of_eq rfl

theorem readGran_unmoved (h : Unmoved r s) (pa n key : Nat) : Unmoved r (readGran s pa n key).1 := by
  unfold readGran
  split <;> exact h.trans (unmoved_of_eq rfl)

theorem mergeGran_unmoved (s : State) (pa : Nat) (d : List Byte) (key : Nat) : Unmoved s (mergeGran s pa d key).1 := by
  unfold mergeGran
  dsimp only
  split
  · exact unmoved_of_eq rfl
  · split <;> exact unmoved_of_eq rfl

theorem tagLine_unmoved (s : State) (line : Nat) (whole : Bool) (tag : Option (Nat × BitVec 16)) (drained : Bool) :
    Unmoved s (tagLine s line whole tag drained) := by
  unfold tagLine
  cases whole <;> cases tag <;> cases drained <;> exact unmoved_of_eq rfl

theorem enterTag_unmoved (s : State) (core line : Nat) (e : BitVec 16) : Unmoved s (enterTag s core line e) :=
  ite_rel (tagLine_unmoved s line _ _ _) (ite_rel (unmoved_of_eq rfl) (tagLine_unmoved s line _ _ _))

theorem launchRecord_unmoved (s : State) (x : Rec) (unit : Option FaultUnit := none) : Unmoved s (launchRecord s x unit) := by
  unfold launchRecord
  split <;> exact unmoved_of_eq rfl

theorem stashWriteBack_unmoved (s : State) (k : Core) (st : Stash) (l : StashLine) : Unmoved s (stashWriteBack s k st l) := by
  unfold stashWriteBack
  split
  · exact mergeGran_unmoved s _ _ _
  · exact .refl s

theorem recallStashAt_unmoved (s : State) (core line : Nat) (write : Bool) : Unmoved s (recallStashAt s core line write) := by
  unfold recallStashAt
  refine ite_rel (.refl s) (modCore_unmoved ?_ core (fun _ => rfl) fun k => ⟨rfl, by simp [Function.comp_def]⟩)
  exact foldl_unmoved (fun s st => foldl_unmoved (fun s l => ite_rel (stashWriteBack_unmoved s _ _ _) (.refl s)) _ s) _ s

theorem mergeUpd_unmoved (s : State) (core line : Nat) : Unmoved s (mergeUpd s core line) := by
  unfold mergeUpd
  split
  · exact .refl s
  · rename_i u _
    dsimp only
    have h := readGran_unmoved (modCore_cached (.refl s) core (f := fun k => { k with upd := k.upd.filter fun x => x.line ≠ line }) fun _ => rfl)
      (line * 64) 64 u.key
    split <;> rename_i e <;> replace h := h.of_fst e
    · exact h.trans (launchRecord_unmoved _ _)
    · have hp := h.trans (foldl_unmoved (fun s e => homePut_unmoved s (line * 64 + e.idx * elemBytes u.cfmt) (leBytes (elemBytes u.cfmt)
        (combineStep u.cfmt (s.home.mem.nat (line * 64 + e.idx * elemBytes u.cfmt) (elemBytes u.cfmt)) (e.partial_ u.cfmt)))) u.elems _)
      split
      · exact hp
      · exact hp.trans (enterTag_unmoved _ _ _ _)

theorem recallLine_unmoved (h : Unmoved r s) (line : Nat) (write : Bool) : Unmoved r (recallLine s line write) :=
  h.trans ((foldl_unmoved (fun s c => mergeUpd_unmoved s c line) _ s).trans (foldl_unmoved (fun s c => recallStashAt_unmoved s c line write) _ _))

theorem startRecall_unmoved (s : State) (line : Nat) (write : Bool) : Unmoved s (startRecall s line write) := by
  unfold startRecall
  split <;> exact unmoved_of_eq rfl

theorem physWaits_unmoved (h : Unmoved r s) {pa n : Nat} {write : Bool} (e : physWaits s pa n write = some t) : Unmoved r t := by
  unfold physWaits at e
  obtain ⟨-, e⟩ := Option.ite_none_right_eq_some.1 e
  obtain rfl := Option.some.inj e
  exact h.trans (foldl_unmoved (fun s a => startRecall_unmoved s (a / 64) write) _ s)

theorem physRead_unmoved (h : Unmoved r s) (pa n key : Nat) : Unmoved r (physRead s pa n key).1 := by
  unfold physRead
  suffices hl : ∀ (l : List (Nat × Nat)) (p : State × Except Nat (List Byte)), Unmoved r p.1 → Unmoved r (l.foldl _ p).1 from hl _ (s, .ok []) h
  intro l
  induction l with
  | nil => exact fun _ h => h
  | cons x l ih =>
    refine fun p h => ih _ ?_
    obtain ⟨u, _ | b⟩ := p
    · exact h
    · have hg := readGran_unmoved (recallLine_unmoved h (x.1 / 64) false) x.1 x.2 key
      dsimp only
      split <;> exact hg.of_fst (by assumption)

/-! ### Translation -/

theorem readEntry_unmoved (h : Unmoved r s) (va : Dword) (level at_ : Nat) : Unmoved r (readEntry s va level at_).1 := by
  unfold readEntry
  refine ite_fst h ?_
  split
  · exact physWaits_unmoved h (by assumption)
  · split <;> exact (physRead_unmoved h _ _ _).of_fst (by assumption)

theorem walkFrom_unmoved (h : Unmoved r s) (va : Dword) (fuel level at_ : Nat) : Unmoved r (walkFrom s va fuel level at_).1 := by
  induction fuel generalizing s level at_ with
  | zero => exact h
  | succ fuel ih =>
    have hr := readEntry_unmoved h va level at_
    unfold walkFrom
    split <;> replace hr := hr.of_fst (by assumption)
    · exact hr
    · exact ite_fst hr (ite_fst (ite_fst hr (ih hr _ _)) (ite_fst hr (ite_fst hr hr)))

theorem swapLeaf_unmoved (h : Unmoved r s) (l : Leaf) (b : Nat) : Unmoved r (swapLeaf s l b).1 := by
  unfold swapLeaf
  dsimp only
  split
  · exact physWaits_unmoved h (by assumption)
  · have hg := readGran_unmoved (recallLine_unmoved h (l.at_ / 64) true) l.at_ 8 0
    split <;> replace hg := hg.of_fst (by assumption)
    · exact hg
    · exact ite_fst (hg.trans (homePut_unmoved _ _ _)) hg

theorem install_unmoved (h : Unmoved r s) (c : Ctx) (va : Dword) (l : Leaf) : Unmoved r (install s c va l).1 := by
  have keep : ∀ {s} {f : Core → List TlbEntry}, Unmoved r s →
      Unmoved r (if !c.tlb || s.sched.walk then s else s.modCore c.core fun k => { k with tlb := f k }) :=
    fun h => ite_rel h (modCore_cached h _ fun _ => rfl)
  unfold install
  refine ite_fst (keep h) ?_
  split <;> have hs := (swapLeaf_unmoved h l 5).of_fst (by assumption)
  · exact keep hs
  · exact hs

theorem leafOf_unmoved (h : Unmoved r s) (c : Ctx) (va : Dword) : Unmoved r (leafOf s c va).1 := by
  unfold leafOf
  split
  · exact ite_fst h h
  · split <;> have hw := (walkFrom_unmoved h _ _ _ _).of_fst (by assumption)
    · exact hw
    · exact install_unmoved hw _ _ _

theorem translate_unmoved (h : Unmoved r s) (c : Ctx) (va : Dword) (size : Nat) (k : Kind) : Unmoved r (Machine.translate s c va size k).1 := by
  unfold Machine.translate
  refine ite_fst h ?_
  split <;> exact (leafOf_unmoved h _ _).of_fst (by assumption)

theorem stashPages_unmoved (h : Unmoved r s) (c : Ctx) (rw : Bool) (gva : Dword) (n i : Nat) : Unmoved r (stashPages s c rw gva n i).1 := by
  induction n generalizing s i with
  | zero => exact h
  | succ n ih =>
    unfold stashPages
    split <;> have ht := (translate_unmoved h _ _ _ _).of_fst (by assumption)
    · exact ht
    · exact ih ht _

/-! ### The checks of an address -/

theorem stashCheck_unmoved (h : Unmoved r s) (core : Nat) (b : Block) (off : Nat) (write : Bool) : Unmoved r (stashCheck s core b off write).1 := by
  unfold stashCheck
  split
  · exact h
  · refine ite_fst h (ite_fst h ?_)
    split <;> exact (translate_unmoved h _ _ _ _).of_fst (by assumption)

theorem localPlace_unmoved (h : Unmoved r s) (c : Ctx) (win : Bool) (va : Dword) (o size align : Nat) (k : Kind) :
    Unmoved r (localPlace s c win va o size align k).1 := by
  unfold localPlace
  refine ite_fst h ?_
  split
  · exact h
  · split
    · exact h
    · refine ite_fst h ?_
      split <;> exact (stashCheck_unmoved h _ _ _ _).of_fst (by assumption)

theorem privateParts_unmoved (h : Unmoved r s) (c : Ctx) (k : Kind) (lane p n words off : Nat) :
    Unmoved r (privateParts s c k lane p n words off).1 := by
  induction words generalizing s off with
  | zero => exact h
  | succ words ih =>
    unfold privateParts
    dsimp only
    split <;> have ht := (translate_unmoved h _ _ _ _).of_fst (by assumption)
    · exact ht
    · split <;> exact (ih ht _).of_fst (by assumption)

theorem privAcc_unmoved (h : Unmoved r s) (c : Ctx) (lane p : Nat) (va : Dword) (size align : Nat) (k : Kind) (wide : Bool) :
    Unmoved r (privAcc s c lane p va size align k wide).1 := by
  unfold privAcc
  refine ite_fst h ?_
  split <;> have hp := (privateParts_unmoved h _ _ _ _ _ _ _).of_fst (by assumption)
  · exact hp
  · exact ite_fst hp (ite_fst hp hp)

theorem resolve_unmoved (h : Unmoved r s) (c : Ctx) (lane : Nat) (va : Dword) (size align : Nat) (k : Kind) (wide : Bool)
    (fmt : Acc → Except Trap Unit) : Unmoved r (resolve s c lane va size align k wide fmt).1 := by
  unfold resolve
  dsimp only
  generalize va.toNat - apertureBase = o
  refine ite_fst h (ite_fst ?_ ?_)
  · refine ite_fst (localPlace_unmoved h _ _ _ _ _ _ _) (ite_fst (localPlace_unmoved h _ _ _ _ _ _ _) (ite_fst
      (ite_fst h (privAcc_unmoved h _ _ _ _ _ _ _ _)) (ite_fst (ite_fst h (ite_fst h ?_)) h)))
    split
    · exact h
    · exact ite_fst h h
  · split <;> have ht := (translate_unmoved h _ _ _ _).of_fst (by assumption)
    · exact ht
    · split <;> exact ht

/-! ### Loads of memory and of remote lines -/

theorem issuerModCore_unmoved (h : Unmoved r s) (i : Issuer) {f : Core → Core}
    (hf : ∀ k, ((f k).id, (f k).blocks, (f k).stash) = (k.id, k.blocks, k.stash)) : Unmoved r (i.modCore s f) := by
  unfold Issuer.modCore
  split
  · exact modCore_cached h _ hf
  · exact h

theorem l1Put_slots (k : Core) (l : L1Line) : ((l1Put k l).id, (l1Put k l).blocks, (l1Put k l).stash) = (k.id, k.blocks, k.stash) := by
  unfold l1Put
  dsimp only
  split
  · rfl
  · split
    · rfl
    · split <;> rfl

theorem l1Filled_unmoved (h : Unmoved r s) (i : Issuer) (line : L1Line) (l1 : Bool) (cpol : BitVec 3) : Unmoved r (l1Filled s i line l1 cpol) := by
  unfold l1Filled
  refine ite_rel h (issuerModCore_unmoved h i fun k => ?_)
  split
  · exact l1Put_slots k line
  · rfl

theorem loadHome_unmoved (h : Unmoved r s) (i : Issuer) (a : Acc) (pa n : Nat) (l1 fresh : Bool) (cpol : BitVec 3) :
    Unmoved r (loadHome s i a pa n l1 fresh cpol).1 := by
  unfold loadHome
  refine ite_fst (h.trans (startRecall_unmoved s _ _)) ?_
  dsimp only
  split <;> have hg := (readGran_unmoved (recallLine_unmoved h _ _) _ _ _).of_fst (by assumption)
  · exact issuerModCore_unmoved hg i fun _ => rfl
  · exact ite_fst (hg.trans (unmoved_of_eq rfl)) (l1Filled_unmoved hg _ _ _ _)

theorem proxyFill_unmoved (s : State) (nd : Nat) (x : Proxy) : Unmoved s (proxyFill s nd x) := unmoved_of_eq rfl

theorem loadRemote_unmoved (h : Unmoved r s) (i : Issuer) (a : Acc) (nd addr n : Nat) (l1 fresh : Bool) (cpol : BitVec 3) :
    Unmoved r (loadRemote s i a nd addr n l1 fresh cpol).1 := by
  unfold loadRemote
  dsimp only
  split
  · exact l1Filled_unmoved h _ _ _ _
  · exact ite_fst h (l1Filled_unmoved (h.trans (proxyFill_unmoved s _ _)) _ _ _ _)

theorem l1Hit_unmoved (h : Unmoved r s) (i : Issuer) (l : L1Line) (off n : Nat) (cpol : BitVec 3) : Unmoved r (l1Hit s i l off n cpol).1 :=
  modCore_cached h _ (f := fun k => if cpol = 4 then l1Drop k l.id else l1Use k l) fun k => by split <;> rfl

/-! ### A block's local store and its stash lines -/

theorem setStashLine_unmoved (h : Unmoved r s) (core : Nat) (st : Stash) (l : StashLine) : Unmoved r (setStashLine s core st l) := by
  refine modCore_unmoved h _ (fun _ => rfl) fun k => ⟨rfl, ?_⟩
  rw [List.map_map]
  refine List.map_congr_left fun x _ => ?_
  dsimp only [Function.comp_apply]
  split <;> rfl

theorem modBlock_unmoved (h : Unmoved r s) (c b : Nat) {f : Block → Block} (hf : ∀ x, (f x).bslot = x.bslot) : Unmoved r (s.modBlock c b f) := by
  refine modCore_unmoved h _ (fun _ => rfl) fun k => ⟨?_, rfl⟩
  unfold replaceBy
  rw [List.map_map]
  refine List.map_congr_left fun x _ => ?_
  dsimp only [Function.comp_apply]
  split
  · exact hf x
  · rfl

theorem tlbMod_unmoved (h : Unmoved r s) (core : Nat) (f : List TlbEntry → List TlbEntry) : Unmoved r (tlbMod s core f) :=
  ite_rel h (modCore_cached h _ fun _ => rfl)

theorem markLeaf_unmoved (h : Unmoved r s) (core : Nat) (l : Leaf) : Unmoved r (markLeaf s core l).1 := by
  unfold markLeaf
  refine ite_fst h ?_
  split <;> have hs := (swapLeaf_unmoved h l 6).of_fst (by assumption)
  · exact tlbMod_unmoved hs _ _
  · exact tlbMod_unmoved hs _ _
  · exact hs

theorem stashDirty_unmoved (h : Unmoved r s) (core : Nat) (l : Option Leaf) : Unmoved r (stashDirty s core l).1 := by
  unfold stashDirty
  split
  · exact markLeaf_unmoved h _ _
  · exact h

theorem stashClean_unmoved (h : Unmoved r s) (core : Nat) (b : Block) (st : Stash) (l : StashLine) : Unmoved r (stashClean s core b st l).1 := by
  unfold stashClean
  split <;> have hd := (stashDirty_unmoved h core l.leaf).of_fst (by assumption)
  · exact setStashLine_unmoved hd _ _ _
  · split <;> have ht := (translate_unmoved hd _ _ _ _).of_fst (by assumption)
    · exact ht
    · exact setStashLine_unmoved ht _ _ _

theorem dirRoom_unmoved (h : Unmoved r s) (line : Nat) : Unmoved r (dirRoom s line).1 := by
  unfold dirRoom
  refine ite_fst (h.trans (unmoved_of_eq rfl)) (ite_fst (h.trans (unmoved_of_eq rfl)) ?_)
  split
  · exact h
  · exact ite_fst (h.trans (startRecall_unmoved s _ _)) ((recallLine_unmoved h _ _).trans (unmoved_of_eq rfl))

theorem claim_unmoved (h : Unmoved r s) (x : HeldReq) : Unmoved r (claim s x).1 := by
  have waits : ∀ {s : State} {c : Bool}, Unmoved r s → Unmoved r (if c then s else { s with home := { s.home with held := s.home.held ++ [x] } }) :=
    fun h => ite_rel h (h.trans (unmoved_of_eq rfl))
  unfold claim
  refine ite_fst (waits (h.trans (startRecall_unmoved s _ _))) ?_
  have hr : Unmoved r (if x.node.isNone then dirRoom s (x.req.pa / 64) else (s, true)).1 := ite_fst (dirRoom_unmoved h _) h
  split <;> replace hr := hr.of_fst (by assumption)
  · exact waits hr
  · exact hr.trans (unmoved_of_eq rfl)

theorem stashTouch_unmoved (h : Unmoved r s) (core : Nat) (b : Block) (off : Nat) (write : Bool) : Unmoved r (stashTouch s core b off write).1 := by
  unfold stashTouch
  split
  · exact h
  · refine ite_fst h (ite_fst ?_ ?_)
    · split
      · exact stashClean_unmoved h _ _ _ _
      · exact h
    · split <;> have hc := (stashCheck_unmoved h core b off write).of_fst (by assumption)
      · exact hc
      · exact hc
      · split
        · dsimp only
          split <;> have hk := (claim_unmoved hc _).of_fst (by assumption)
          · exact hk
          · have hd : ∀ l, Unmoved r (if write then stashDirty _ core l else (_, true)).1 := fun l => ite_fst (stashDirty_unmoved hk core l) hk
            split <;> replace hd := (hd _).of_fst (by assumption)
            · exact hd
            · have hl := fun n w => recallLine_unmoved hd n w
              refine ite_fst (setStashLine_unmoved (hl _ _) _ _ _) ?_
              split <;> have hg := (readGran_unmoved (hl _ _) _ _ _).of_fst (by assumption)
              · exact hg
              · refine setStashLine_unmoved (modBlock_unmoved hg _ _ ?_) _ _ _
                exact fun _ => rfl
        · exact hc

theorem localRead_unmoved (h : Unmoved r s) (core bslot off n : Nat) : Unmoved r (localRead s core bslot off n).1 := by
  unfold localRead
  split
  · exact h
  · split <;> exact (stashTouch_unmoved h _ _ _ _).of_fst (by assumption)

/-! ### A load, whatever its place -/

theorem loadPart_unmoved (h : Unmoved r s) (i : Issuer) (a : Acc) (p : Part) (fresh : Bool) (cpol : BitVec 3) :
    Unmoved r (Machine.loadPart s i a p fresh cpol).1 := by
  unfold Machine.loadPart
  split
  case h_1 =>
    refine ite_fst h ?_
    dsimp only
    split
    · rename_i e
      split at e
      · exact (l1Hit_unmoved h _ _ _ _ _).of_fst e
      · exact (loadHome_unmoved h _ _ _ _ _ _ _).of_fst e
    · split
      · exact l1Hit_unmoved h _ _ _ _ _
      · exact loadHome_unmoved h _ _ _ _ _ _ _
  case h_3 =>
    refine ite_fst h ?_
    split
    · exact h
    · dsimp only
      split
      · rename_i e
        split at e
        · exact (l1Hit_unmoved h _ _ _ _ _).of_fst e
        · exact (loadRemote_unmoved h _ _ _ _ _ _ _ _).of_fst e
      · split
        · exact l1Hit_unmoved h _ _ _ _ _
        · exact loadRemote_unmoved h _ _ _ _ _ _ _ _
  case h_5 => split <;> exact (localRead_unmoved h _ _ _ _).of_fst (by assumption)
  case h_6 => exact h
  case h_2 => exact ite_fst h h
  case h_4 =>
    refine ite_fst h ?_
    split <;> exact h

end Sys2Proof.Accesses
end

section
namespace Sys2Proof.Prefetches
open Sys2Proof.Machine Sys2Proof.Safety Sys2Proof.Laws Sys2Proof.Frame Sys2Proof.Accesses

/-! # PREFETCH (R274): the address checks and the fills leave the warp as it stands -/

variable {gr : Grp} {one : Nat → State → State × Perf}

theorem prefetchProxy_unmoved {r s : State} (h : Unmoved r s) (i : Issuer) (a : Acc) (nd addr : Nat) (cpol : BitVec 3) :
    Unmoved r (prefetchProxy s i a nd addr cpol) :=
  ite_rel h (h.trans (proxyFill_unmoved s _ _))

theorem prefetchLane_unmoved (s : State) (l : Fin 32) (va : Dword) (llc : Bool) (cpol : BitVec 3) :
    Unmoved s (prefetchLane s l va llc cpol) := by
  unfold prefetchLane
  split <;> have h := (resolve_unmoved (.refl s) _ _ _ _ _ _ _ _).of_fst (by assumption)
  · exact h
  · dsimp only
    split
    · exact ite_rel h (loadPart_unmoved h _ _ _ _ _)
    · exact ite_rel (prefetchProxy_unmoved h _ _ _ _ _) (loadPart_unmoved h _ _ _ _ _)
    · exact h

theorem clearResume_regs (w : Warp) : regsOf w.clearResume = regsOf w := regsOf_congr (by simp) (by simp) (by simp) (by simp)

/-- Repetitions that are each done at once, and move neither the registers nor what the warp waits for, run to their end. -/
theorem runRepsFrom_idle (h : ∀ k s, ∃ t, one k s = (t, .done) ∧ t.cur = s.cur) (n k : Nat) {s : State} (hw : s.cur.wait = .none) :
    ∃ t, runRepsFrom one n k s = (t, .done) ∧ regsOf t.cur = regsOf s.cur := by
  induction n generalizing k s with
  | zero => exact ⟨s, rfl, rfl⟩
  | succ n ih =>
    obtain ⟨u, hu, hc⟩ := h k s
    unfold runRepsFrom
    rw [hu]
    dsimp only
    split
    · exact ⟨_, rfl, by rw [clearResume_regs, hc]⟩
    · have hw' : u.cur.wait = .none := by rw [hc, hw]
      obtain ⟨t, ht, hr⟩ := ih (k + 1) (s := { u with cur := { u.cur.setRep (k + 1) with woken := false } }) hw'
      refine ⟨t, ?_, hr.trans (hc ▸ rfl)⟩
      rw [if_neg (by simpa [Warp.setRep] using hw'), ht]

theorem runReps_idle (h : ∀ k s, ∃ t, one k s = (t, .done) ∧ t.cur = s.cur) {s : State} (hw : s.cur.wait = .none) :
    ∃ t, ending gr (runReps gr one s) = (past gr t, .done) ∧ regsOf t.cur = regsOf s.cur := by
  obtain ⟨t, ht, hr⟩ := runRepsFrom_idle h (reps gr - s.cur.resumed.rep) s.cur.resumed.rep hw
  refine ⟨t, ?_, hr⟩
  unfold runReps
  rw [ht]
  simp only [ending, endGroup_past]

theorem hasV_begun {i : Instr} {s : State} {n : Nat} (h : HasV s.cur n) : HasV (begun i s).cur n := by
  unfold HasV
  rwa [begun_vgran]

theorem begun_wait (i : Instr) (s : State) : (begun i s).cur.wait = .none := by
  obtain ⟨b, g, h⟩ := begun_cur i s
  rw [h]

theorem prefetch_ends {b i : BitVec 6} {f : BitVec 1} {s : State} (hr : Runs (.prefetch gr b i f) s)
    (hv : ∀ k < reps gr, HasV s.cur (repA gr i.toNat k)) :
    ∃ t, Ends (.prefetch gr b i f) s (past gr t) ∧ regsOf t.cur = regsOf s.cur := by
  have hone : ∀ (k : Nat) (s : State), ∃ t, ((lanesOf (s.cur.active gr)).foldl (fun s l =>
      prefetchLane s l (memAddr s.cur gr b.toNat (repA gr i.toNat k) l) (f = 1) (cpolOf gr)) s, Perf.done) = (t, .done) ∧ t.cur = s.cur :=
    fun k s => ⟨_, rfl, (foldl_unmoved (fun s l => prefetchLane_unmoved s l _ _ _) _ s).cur⟩
  obtain ⟨t, ht, hg⟩ := runReps_idle (gr := gr) hone (begun_wait (.prefetch gr b i f) s)
  refine ⟨t, ?_, hg.trans (begun_regs _ s)⟩
  show execPrefetch gr b i f s = _
  refine perform_done hr ?_
  rw [checkReps_ok fun k hk => vRange_ok (hasV_begun (hv k hk))]
  exact ht

end Sys2Proof.Prefetches

namespace Sys2Proof.Fences
open Sys2Proof.Machine Sys2Proof.Safety Sys2Proof.Laws

/-! # The fences, CFENCE and PUBLISH (R98, R107, R108) -/

variable {gr : Grp} {s : State} {i : Instr}

/-- The release part of a fence whose lanes' releases have nothing to wait for. -/
theorem fenceRelease_go {m : Mask} (h : ∀ l ∈ lanesOf m, releaseGate s (laneBit l) (touchedDomain s.cur (laneBit l)) = .go) :
    fenceRelease s m = (.go, spanned m s) := by
  have hg : (lanesOf m).map (fun l => releaseGate s (laneBit l) (touchedDomain s.cur (laneBit l))) = (lanesOf m).map fun _ => Gate.go :=
    List.map_congr_left h
  unfold fenceRelease
  rw [hg]
  dsimp only
  split
  · rename_i g e
    have hm := List.find?_some e
    obtain ⟨l, -, rfl⟩ := List.mem_map.1 (List.mem_of_find?_eq_some e)
    simp at hm
  · rw [if_neg (by simp)]
    rfl

theorem begun_touchedDomain (i : Instr) (s : State) (m : Mask) : touchedDomain (begun i s).cur m = touchedDomain s.cur m := by
  obtain ⟨b, g, h⟩ := begun_cur i s
  rw [h]
  rfl

theorem begun_fenceRelease (h : ∀ l ∈ lanesOf (s.cur.active gr), releaseGate (begun i s) (laneBit l) (touchedDomain s.cur (laneBit l)) = .go) :
    fenceRelease (begun i s) (s.cur.active gr) = (.go, spanned (s.cur.active gr) (begun i s)) :=
  fenceRelease_go fun l hl => by
    rw [begun_touchedDomain]
    exact h l hl

theorem fenceAcq_ends (hr : Runs (.fenceAcq gr) s) :
    Ends (.fenceAcq gr) s (past gr (if s.cur.active gr = 0 then begun (.fenceAcq gr) s
      else acquire (begun (.fenceAcq gr) s) (s.cur.active gr) (touchedDomain s.cur (s.cur.active gr)))) := by
  show execFenceAcq gr s = _
  exact perform_done hr (by simp only [begun_active, begun_touchedDomain, endGroup_past])

theorem fenceRel_ends (hr : Runs (.fenceRel gr) s) (h : ∀ l ∈ lanesOf (s.cur.active gr),
      releaseGate (begun (.fenceRel gr) s) (laneBit l) (touchedDomain s.cur (laneBit l)) = .go) :
    Ends (.fenceRel gr) s (past gr (spanned (s.cur.active gr) (begun (.fenceRel gr) s))) := by
  show execFenceRel gr s = _
  exact perform_done hr (by simp only [begun_active, begun_fenceRelease h, endGroup_past])

theorem fenceSc_ends (hr : Runs (.fenceSc gr) s) (h : ∀ l ∈ lanesOf (s.cur.active gr),
      releaseGate (begun (.fenceSc gr) s) (laneBit l) (touchedDomain s.cur (laneBit l)) = .go) :
    let u := spanned (s.cur.active gr) (begun (.fenceSc gr) s)
    Ends (.fenceSc gr) s (past gr (if s.cur.active gr = 0 then u else acquire u (s.cur.active gr) (touchedDomain s.cur (s.cur.active gr)))) := by
  show execFenceSc gr s = _
  exact perform_done hr (by simp only [begun_fenceRelease h, begun_touchedDomain, begun_active, endGroup_past])

theorem cfence_ends (hr : Runs (.cfence gr) s) :
    Ends (.cfence gr) s (past gr { begun (.cfence gr) s with cur := { (begun (.cfence gr) s).cur with ibuf := [] } }) := by
  show execCfence gr s = _
  exact perform_done hr (by simp only [endGroup_past])

theorem publish_inactive (hr : Runs (.publish gr) s) (ha : s.cur.active gr = 0) : Ends (.publish gr) s (past gr (begun (.publish gr) s)) := by
  show execPublish gr s = _
  exact perform_done hr (by simp only [begun_active, ha, if_true, endGroup_past])

theorem begun_publishAll (i : Instr) (s : State) :
    publishAll (begun i s) (begun i s).cur.launch (some ((begun i s).cur.block, (begun i s).cur.idx))
      = publishAll (begun i s) s.cur.launch (some (s.cur.block, s.cur.idx)) := by
  obtain ⟨b, g, hc⟩ := begun_cur i s
  rw [hc]

section
variable (hr : Runs (.publish gr) s) (ha : s.cur.active gr ≠ 0) (hg : releaseGate (begun (.publish gr) s) allLanes .system = .go)
include hr ha hg

/-- The publication of a line fails. -/
theorem publish_traps {u : State} {x : Trap} (hp : publishAll (begun (.publish gr) s) s.cur.launch (some (s.cur.block, s.cur.idx)) = (u, some x))
    (hx : x.held = false) : exec (.publish gr) s = .next (pumpRecords (takeTrap u { x with lanes := u.cur.executing })) := by
  show execPublish gr s = _
  exact perform_trap hr (by exact hx) (by simp only [begun_active, ha, if_false, hg, begun_publishAll, hp])

/-- The group ends when no line of the launch is left, else it is performed again. -/
theorem publish_ends {u : State} (hp : publishAll (begun (.publish gr) s) s.cur.launch (some (s.cur.block, s.cur.idx)) = (u, none)) :
    if u.curLaunch.pubLines = [] then Ends (.publish gr) s (past gr u) else WaitsIn (.publish gr) s u .retry := by
  split
  · rename_i e
    show execPublish gr s = _
    exact perform_done hr (by simp only [begun_active, ha, if_false, hg, begun_publishAll, hp, e, List.isEmpty_nil, if_true, endGroup_past])
  · rename_i e
    show execPublish gr s = _
    exact perform_wait hr (by simp only [begun_active, ha, if_false, hg, begun_publishAll, hp, List.isEmpty_iff, e])
end

end Sys2Proof.Fences

namespace Sys2Proof.StashMappings
open Sys2Proof.Machine Sys2Proof.Safety Sys2Proof.Laws Sys2Proof.Frame Sys2Proof.Accesses

/-! # STASH.MAP and STASH.UNMAP (R52, R53, R278, R279) -/

variable {gr : Grp} {i : Instr} {s t u : State} {chk : Nat → Except Trap Unit} {one : Nat → State → State × Perf}
  {R : Nat → State → State → Prop}

/-- A warp-level group ends once its repetitions are performed. -/
theorem warpLevel_once (hk : ∀ k < reps gr, chk k = .ok ()) (h : ∀ k s t, R k s t → one k s = (t, .done)) (hp : PerformsOnce gr R s t) :
    warpLevel gr chk one s = (past gr t, .done) := by
  unfold warpLevel
  rw [checkReps_ok hk]
  unfold PerformsOnce at hp
  dsimp only
  split at hp
  · rename_i ha
    rw [if_pos ha, hp, ending, endGroup_past]
  · rename_i ha
    rw [if_neg ha, runReps_of h hp, ending, endGroup_past]

/-! ### A parameter word -/

theorem param_lsOffset (x : Dword) : bits x 6 0 = x.toNat % 128 := by simp [bits, bitsOf]
theorem param_length (x : Dword) : bits x 15 8 = x.toNat / 256 % 256 := by simp [bits, bitsOf]
theorem param_writable {x : Dword} (h : x.toNat / 2 ^ 17 = 0) : x.getLsbD 16 = decide (x.toNat / 2 ^ 16 = 1) := by
  rw [BitVec.getLsbD, Nat.testBit_eq_decide_div_mod_eq, decide_eq_decide]
  omega

theorem stashParamOk_of {x : Dword} (h7 : x.toNat / 128 % 2 = 0) (hhigh : x.toNat / 2 ^ 17 = 0) (hlo : 1 ≤ x.toNat / 256 % 256)
    (hhi : x.toNat / 256 % 256 ≤ 128) : stashParamOk x = true := by
  have hbit : x.getLsbD 7 = false := by
    rw [BitVec.getLsbD, Nat.testBit_eq_decide_div_mod_eq, decide_eq_false_iff_not]
    omega
  have hzero : bits x 63 17 = 0 := by
    unfold bits bitsOf
    omega
  unfold stashParamOk
  rw [hbit, hzero, param_length, decide_eq_true hlo, decide_eq_true hhi]
  rfl

/-! ### The new entry -/

/-- A number is an entry's in both stash maps or in neither. -/
theorem any_entry_congr {k j : Core} (h : j.stash.map (fun st => st.entry) = k.stash.map fun st => st.entry) (e : Nat) :
    (j.stash.any fun st => decide (st.entry = e)) = k.stash.any fun st => decide (st.entry = e) := by
  have hm := fun k : Core => List.any_map (l := k.stash) (f := fun st => st.entry) (p := fun x => decide (x = e))
  exact (hm j).symm.trans (h ▸ hm k)

theorem lowestFree_eq {k : Core} {e : Nat} (he : e < 16) (hfree : ∀ st ∈ k.stash, st.entry ≠ e) (hlow : ∀ j < e, ∃ st ∈ k.stash, st.entry = j) :
    ((List.range 16).find? fun e => !k.stash.any fun st => decide (st.entry = e)) = some e := by
  refine List.find?_range_eq_some.2 ⟨?_, List.mem_range.2 he, fun j hj => ?_⟩
  · simpa using hfree
  · simpa using hlow j hj

/-- One repetition of STASH.MAP, as O19 says it. -/
def Maps (gr : Grp) (d a b : BitVec 6) (k : Nat) (s t : State) : Prop := ∃ bl e s1,
  let gva := s.cur.getS (repA gr a.toNat k)
  let x := (s.cur.getS (repB gr b.toNat k)).toNat
  let loff := x % 128
  let len := x / 256 % 256
  s.curBlock = some bl ∧ gva.toNat % 4096 = 0 ∧ x / 128 % 2 = 0 ∧ x / 2 ^ 17 = 0 ∧ 1 ≤ len ∧ len ≤ 128
  ∧ (loff + len) * 4096 ≤ bl.lsBytes
  ∧ (∀ st ∈ s.core.stash, st.bslot = bl.bslot → st.loff + st.len ≤ loff ∨ loff + len ≤ st.loff)
  ∧ (∀ i < len, stashRegionOk s.curLaunch.regions (gva + BitVec.ofNat 64 (i * 4096)) = true)
  ∧ stashPages s (curCtx s) (x / 2 ^ 16 = 1) gva len 0 = (s1, .ok ())
  ∧ e < 16 ∧ (∀ st ∈ s.core.stash, st.entry ≠ e) ∧ (∀ j < e, ∃ st ∈ s.core.stash, st.entry = j)
  ∧ t = { s1 with
      core := { s1.core with stash := s1.core.stash ++ [{ entry := e, rw := x / 2 ^ 16 = 1, bslot := bl.bslot, loff := loff, len := len, gva := gva }] }
      cur := s1.cur.setS (repD gr d.toNat k) (BitVec.ofNat 64 e) }

theorem stashMap_maps {d a b : BitVec 6} {k : Nat} (h : Maps gr d a b k s t) :
    ∃ u e, stashMap s (s.cur.getS (repA gr a.toNat k)) (s.cur.getS (repB gr b.toNat k)) = (u, .ok e)
      ∧ t = { u with cur := u.cur.setS (repD gr d.toNat k) (BitVec.ofNat 64 e) } := by
  obtain ⟨bl, e, s1, hb, ha, h7, hhigh, hlo, hhi, hfit, happart, hreg, hpages, he, hfree, hlow, rfl⟩ := h
  generalize s.cur.getS (repA gr a.toNat k) = gva at *
  generalize s.cur.getS (repB gr b.toNat k) = x at *
  have hs1 : Unmoved s s1 := (stashPages_unmoved (.refl s) _ _ _ _ _).of_fst hpages
  have hany : (s.core.stash.any fun st => decide (st.bslot = bl.bslot) && decide (st.loff < x.toNat % 128 + x.toNat / 256 % 256)
      && decide (x.toNat % 128 < st.loff + st.len)) = false := by
    refine List.any_eq_false.2 fun st hst => ?_
    simp only [Bool.and_eq_true, decide_eq_true_eq, not_and, and_imp]
    intro hsl
    have := happart st hst hsl
    omega
  have hall : ((List.range (x.toNat / 256 % 256)).all fun i => stashRegionOk s.curLaunch.regions (gva + BitVec.ofNat 64 (i * 4096))) = true :=
    List.all_eq_true.2 fun i hi => hreg i (List.mem_range.1 hi)
  have hfind : ((List.range 16).find? fun e => !s1.core.stash.any fun st => decide (st.entry = e)) = some e := by
    simp only [any_entry_congr hs1.entries]
    exact lowestFree_eq he hfree hlow
  refine ⟨{ s1 with core := { s1.core with stash := s1.core.stash ++
    [{ entry := e, rw := x.toNat / 2 ^ 16 = 1, bslot := bl.bslot, loff := x.toNat % 128, len := x.toNat / 256 % 256, gva := gva }] } }, e, ?_, rfl⟩
  unfold stashMap
  simp only [hb, param_lsOffset, param_length, param_writable hhigh, stashParamOk_of h7 hhigh hlo hhi]
  rw [if_neg (by omega), if_neg (by simp), if_neg (by omega), hany, hall, hpages]
  simp only [Bool.not_true, Bool.false_eq_true, if_false, hfind]

theorem stashMap_ends {d a b : BitVec 6} (hr : Runs (.stashMap gr d a b) s) (hu : u3Has gr d a b)
    (hp : PerformsOnce gr (Maps gr d a b) (begun (.stashMap gr d a b) s) t) : Ends (.stashMap gr d a b) s (past gr t) := by
  have hk : ∀ k < reps gr, (do
      sRange (repD gr d.toNat k) 1
      sRange (repA gr a.toNat k) 1
      sRange (repB gr b.toNat k) 1 : Except Trap Unit) = .ok () := by
    intro k hk
    obtain ⟨hd, ha, hb⟩ := hu k hk
    rw [sRange_ok hd, sRange_ok ha, sRange_ok hb]
    rfl
  show execStashMap gr d a b s = _
  refine perform_done hr (warpLevel_once hk (fun k s t h => ?_) hp)
  obtain ⟨u, e, hmap, rfl⟩ := stashMap_maps h
  rw [hmap]

/-- One repetition of STASH.UNMAP, as O19 says it. -/
def Unmaps (gr : Grp) (a : BitVec 6) (k : Nat) (s t : State) : Prop := ∃ st, (s.core.stash.find? fun x =>
    decide (x.entry = (s.cur.getS (repA gr a.toNat k)).toNat) && decide (x.bslot = s.cur.bslot)) = some st
  ∧ t = unmapStash s s.core.id st

theorem stashUnmap_ends {a : BitVec 6} (hr : Runs (.stashUnmap gr a) s) (ha : ∀ k < reps gr, repA gr a.toNat k < 64)
    (hp : PerformsOnce gr (Unmaps gr a) (begun (.stashUnmap gr a) s) t) : Ends (.stashUnmap gr a) s (past gr t) := by
  show execStashUnmap gr a s = _
  refine perform_done hr (warpLevel_once (fun k hk => sRange_ok (ha k hk)) ?_ hp)
  rintro k s t ⟨st, hst, rfl⟩
  simp only [hst]

end Sys2Proof.StashMappings

namespace Sys2Proof.FencesPrefetchStashProof
open Sys2Proof.Machine Sys2Proof.Prefetches Sys2Proof.Fences Sys2Proof.StashMappings

/-- Settles O19: each instruction's body is followed to its end; an access that PREFETCH tries moves nothing of its warp, and the walks of
STASH.MAP keep the entries of the stash map (`Unmoved`). -/
theorem fencesPrefetchStash : Obligations.FencesPrefetchStash := by
  unfold Obligations.FencesPrefetchStash
  refine ⟨⟨?_, ?_, ?_, ?_, ?_, ?_⟩, ?_, ?_⟩
  · exact fun gr b i f s hr _ hv => prefetch_ends hr hv
  · exact fun gr s hr => fenceAcq_ends hr
  · exact fun gr s hr h => fenceRel_ends hr h
  · exact fun gr s hr h => fenceSc_ends hr h
  · exact fun gr s hr => cfence_ends hr
  · refine fun gr s hr => ⟨publish_inactive hr, fun ha hg u r hp => ?_⟩
    cases r with
    | none => exact publish_ends hr ha hg hp
    | some x => exact publish_traps hr ha hg hp
  · exact fun gr d a b s t hr hu hp => stashMap_ends hr hu hp
  · exact fun gr a s t hr ha hp => stashUnmap_ends hr ha hp

end Sys2Proof.FencesPrefetchStashProof
end

section
namespace Sys2Proof.PixelReads
open Sys2Proof.Machine Sys2Proof.Safety Sys2Proof.Laws Sys2Proof.SystemGroups Sys2Proof.Prefetches

/-! # VISRD (R338): the pairs of words that its lanes read land in two registers -/

variable {gr : Grp} {i : Instr} {s t : State} {one : Nat → State → State × Perf}

/-- Results land at once (R147): none goes on its way. -/
def AtOnce (s : State) : Prop := s.sched.late = false ∨ s.cur.inMicro = true

theorem landV_atOnce (h : AtOnce s) (reg : Nat) (l : Fin 32) (x : Word) : landV s reg l x = { s with cur := s.cur.setV reg l x } := by
  have hf : (s.sched.late && !s.cur.inMicro) = false := by rcases h with h | h <;> simp [h]
  unfold landV
  rw [hf]
  rfl

theorem landWords_pair (h : AtOnce s) (d : Nat) (l : Fin 32) (x y : Word) :
    landWords s d l [x, y] = { s with cur := (s.cur.setV d l x).setV (d + 1) l y } := by
  have h' : AtOnce { s with cur := s.cur.setV d l x } := h.imp id fun e => by rwa [Warp.inMicro, Warp.setV_micro]
  show landV (landV s d l x) (d + 1) l y = _
  rw [landV_atOnce h, landV_atOnce h']

theorem getV_setV (w : Warp) {n : Nat} (hn : n < 64) (l : Fin 32) (x : Word) (k : Nat) (j : Fin 32) :
    (w.setV n l x).getV k j = if k = n ∧ j = l then x else w.getV k j := by
  unfold Warp.setV Warp.getV Warp.vec
  rw [dif_pos hn]
  dsimp only
  rw [getD_set]
  by_cases hk : k = n
  · subst hk
    have e : w.v.getD k (Vector.replicate 32 0) = w.v[k] := by simp [Vector.getD, hn]
    rw [e]
    by_cases hj : j = l
    · simp [hj]
    · have : l.val ≠ j.val := fun h => hj (Fin.ext h.symm)
      simp [hj, this]
  · simp [hk]

/-- The pairs of words that `f` gives the lanes of a list stand in registers `d` and `d + 1`, and the rest is as it was. -/
def HoldsPairs (d : Nat) (ls : List (Fin 32)) (f : Fin 32 → Word × Word) (w x : Warp) : Prop :=
  (x.micro, x.p, x.s, x.t) = (w.micro, w.p, w.s, w.t)
    ∧ ∀ k l, x.getV k l = if l ∈ ls ∧ k = d then (f l).1 else if l ∈ ls ∧ k = d + 1 then (f l).2 else w.getV k l

theorem foldl_landWords {f : State → Fin 32 → Word × Word} (hf : ∀ s w, f { s with cur := w } = f s) {d : Nat} (hd : d + 1 < 64)
    (ls : List (Fin 32)) (h : AtOnce s) :
    ∃ w, ls.foldl (fun s l => landWords s d l [(f s l).1, (f s l).2]) s = { s with cur := w } ∧ HoldsPairs d ls (f s) s.cur w := by
  induction ls generalizing s with
  | nil => exact ⟨s.cur, rfl, rfl, by simp⟩
  | cons l ls ih =>
    have h' : AtOnce { s with cur := (s.cur.setV d l (f s l).1).setV (d + 1) l (f s l).2 } :=
      h.imp id fun e => by rwa [Warp.inMicro, Warp.setV_micro, Warp.setV_micro]
    obtain ⟨w, hw, hrest, hv⟩ := ih h'
    refine ⟨w, ?_, hrest.trans (by simp), fun k j => ?_⟩
    · rw [List.foldl_cons, landWords_pair h, hw]
    · rw [hv, hf, getV_setV _ hd, getV_setV _ (by omega)]
      by_cases hj : j = l
      · subst hj
        by_cases hk : k = d
        · simp [hk]
        · by_cases hk' : k = d + 1 <;> simp [hk, hk']
      · simp [hj]

theorem HoldsPairs.regs {d : Nat} {m : Mask} {f : Fin 32 → Word × Word} {w x : Warp} (h : HoldsPairs d (lanesOf m) f w x) :
    regsOf x = ((regsOf w).putV d m fun l => (f l).1).putV (d + 1) m fun l => (f l).2 := by
  obtain ⟨hrest, hv⟩ := h
  simp only [Prod.mk.injEq] at hrest
  obtain ⟨-, hp, hs, ht⟩ := hrest
  simp only [regsOf, Regs.putV, Regs.mk.injEq]
  refine ⟨?_, ?_, ?_, ?_⟩
  · funext k l
    rw [hv]
    by_cases hk : k = d
    · simp [lanesOf, lanes, hk]
    · simp [lanesOf, lanes, hk, and_comm]
  · funext k; rw [Warp.getP, Warp.getP, hp]
  · funext k; rw [Warp.getS, Warp.getS, hs]
  · funext k; rw [Warp.getT, Warp.getT, ht]

/-! ### The repetitions of a group that is performed once -/

theorem ending_done (hs : Single gr s) (h : one 0 s = (t, .done)) :
    ending gr (runReps gr one s) = (past gr { t with cur := t.cur.clearResume }, .done) := by
  rw [runReps_single hs]
  simp only [runRepsFrom, h, if_true, ending, endGroup_past]

theorem ending_trap {x : Trap} (hs : Single gr s) (h : one 0 s = (t, .trap x)) : ending gr (runReps gr one s) = (t, .trap x) := by
  rw [runReps_single hs]
  simp only [runRepsFrom, h, ending]

theorem checkReps_single (hs : reps gr = 1) {chk : Nat → Except Trap Unit} (h : chk 0 = .ok ()) : checkReps gr chk = .ok () :=
  checkReps_ok fun k hk => by
    obtain rfl : k = 0 := by omega
    exact h

/-- Registers `n` and the `c` after it are the warp's. -/
theorem vRange_many {w : Warp} {n c : Nat} (h : HasV w (n + c)) : vRange w n (c + 1) = .ok () := by
  obtain ⟨h1, h2⟩ := h
  unfold vRange
  rw [if_neg (by omega), if_neg (by omega)]

theorem begun_curTile (i : Instr) (s : State) : curTile (begun i s) = curTile s := by
  obtain ⟨b, g, hc⟩ := begun_cur i s
  rw [begun_eq, hc]
  rfl

theorem begun_sampleAt (i : Instr) (s : State) : sampleAt (begun i s) = sampleAt s := by rw [begun_eq]; rfl

/-! ### One repetition of VISRD -/

theorem visrdRep_done {p : Pass} {tx ty d : Nat} (hd : d + 1 < 64) (smp : BitVec 2) (pix : Warp → Fin 32 → Nat) {use : Warp → Warp}
    (hu : (use s.cur).micro = s.cur.micro) (h : AtOnce s) :
    ∃ w, visrdRep gr p tx ty d smp pix use s = ({ s with cur := w }, .done)
      ∧ regsOf w = ((regsOf (use s.cur)).putV d (s.cur.active gr) fun l => (sampleAt s p tx ty (pix s.cur l) smp.toNat).1).putV (d + 1)
          (s.cur.active gr) fun l => (sampleAt s p tx ty (pix s.cur l) smp.toNat).2 := by
  have h' : AtOnce { s with cur := use s.cur } := h.imp id fun e => by rwa [Warp.inMicro, hu]
  obtain ⟨w, hw, hp⟩ := foldl_landWords (f := fun s' l => sampleAt s' p tx ty (pix s.cur l) smp.toNat) (fun _ _ => rfl) hd
    (lanesOf (s.cur.active gr)) h'
  exact ⟨w, congrArg (·, Perf.done) hw, hp.regs⟩

theorem visrd_ends {d : BitVec 6} {smp : BitVec 2} {p : Pass} {tx ty : Nat} (hr : Runs (.visrd gr d smp) s) (hs : Single gr s)
    (hc : curTile s = some (p, tx, ty)) (hd : HasV s.cur (d.toNat + 1)) :
    ∃ t, Ends (.visrd gr d smp) s (past gr t) ∧ t = { begun (.visrd gr d smp) s with cur := t.cur }
      ∧ regsOf t.cur = ((regsOf s.cur).putV d.toNat (s.cur.active gr) fun l => (sampleAt s p tx ty s.cur.threads[l].tid smp.toNat).1).putV
          (d.toNat + 1) (s.cur.active gr) fun l => (sampleAt s p tx ty s.cur.threads[l].tid smp.toNat).2 := by
  have hs' := begun_single (i := .visrd gr d smp) hs
  obtain ⟨w, hw, hg⟩ := visrdRep_done (gr := gr) (p := p) (tx := tx) (ty := ty) hd.1 smp (fun w l => w.threads[l].tid) (use := id) rfl hs'.2.2
  rw [← repD_zero gr d.toNat] at hw
  refine ⟨{ begun (.visrd gr d smp) s with cur := w.clearResume }, ?_, rfl, (clearResume_regs w).trans ?_⟩
  · show execVisrd gr d smp s = _
    refine perform_done hr ?_
    have hk : vRange (begun (.visrd gr d smp) s).cur (repD gr d.toNat 0) 2 = .ok () := by
      rw [repD_zero]
      exact vRange_many (hasV_begun hd)
    rw [checkReps_single hs.1 hk, begun_curTile, hc]
    exact ending_done (t := { begun (.visrd gr d smp) s with cur := w }) hs' hw
  · rw [hg, id, begun_regs, begun_active, begun_sampleAt, begun_threads]

theorem visrdPix_ends {d a : BitVec 6} {lka smp : BitVec 2} {p : Pass} {tx ty : Nat} (hr : Runs (.visrdPix gr d a lka smp) s) (hs : Single gr s)
    (hc : curTile s = some (p, tx, ty)) (hd : HasV s.cur (d.toNat + 1)) (ha : HasV s.cur a.toNat) :
    let pix := fun (l : Fin 32) => (s.cur.getV a.toNat l).toNat % 256
    ∃ t, Ends (.visrdPix gr d a lka smp) s (past gr t) ∧ t = { begun (.visrdPix gr d a lka smp) s with cur := t.cur }
      ∧ regsOf t.cur = (((regsOf s.cur).lastUse s.cur.executing lka [a.toNat]).putV d.toNat (s.cur.active gr) fun l =>
            (sampleAt s p tx ty (pix l) smp.toNat).1).putV (d.toNat + 1) (s.cur.active gr) fun l => (sampleAt s p tx ty (pix l) smp.toNat).2 := by
  intro pix
  have hs' := begun_single (i := .visrdPix gr d a lka smp) hs
  obtain ⟨w, hw, hg⟩ := visrdRep_done (gr := gr) (p := p) (tx := tx) (ty := ty) hd.1 smp (fun w l => bits (w.getV (repA gr a.toNat 0) l) 7 0)
    (use := fun w => w.lastUse w.executing lka [repA gr a.toNat 0]) (Warp.lastUse_micro ..) hs'.2.2
  rw [← repD_zero gr d.toNat] at hw
  refine ⟨{ begun (.visrdPix gr d a lka smp) s with cur := w.clearResume }, ?_, rfl, (clearResume_regs w).trans ?_⟩
  · show execVisrdPix gr d a lka smp s = _
    refine perform_done hr ?_
    have hk : (do vRange (begun (.visrdPix gr d a lka smp) s).cur (repD gr d.toNat 0) 2
                  vRange (begun (.visrdPix gr d a lka smp) s).cur (repA gr a.toNat 0) 1 : Except Trap Unit) = .ok () := by
      rw [repD_zero, repA_zero, vRange_many (hasV_begun hd), vRange_ok (hasV_begun ha)]
      rfl
    rw [checkReps_single hs.1 hk, begun_curTile, hc]
    exact ending_done (t := { begun (.visrdPix gr d a lka smp) s with cur := w }) hs' hw
  · have hv : ∀ l, bits ((begun (.visrdPix gr d a lka smp) s).cur.getV a.toNat l) 7 0 = pix l := fun l => by
      rw [show (begun (.visrdPix gr d a lka smp) s).cur.getV = s.cur.getV from congrArg Regs.v (begun_regs _ s)]
      simp [bits, bitsOf, pix]
    rw [hg, repA_zero, regsOf_lastUse _ _ _ _ (by simpa using ha.1), begun_regs, begun_active, begun_executing, begun_sampleAt]
    simp only [hv]

/-! ### Outside a tile launch -/

theorem visrd_outside {d : BitVec 6} {smp : BitVec 2} (hr : Runs (.visrd gr d smp) s) (hc : curTile s = none)
    (hd : ∀ k < reps gr, HasV s.cur (repD gr d.toNat k + 1)) : Traps (.visrd gr d smp) s (trap 0x03 0x07) := by
  show execVisrd gr d smp s = _
  refine perform_trap hr rfl ?_
  rw [checkReps_ok fun k hk => vRange_many (hasV_begun (hd k hk)), begun_curTile, hc]

theorem visrdPix_outside {d a : BitVec 6} {lka smp : BitVec 2} (hr : Runs (.visrdPix gr d a lka smp) s) (hc : curTile s = none)
    (hd : ∀ k < reps gr, HasV s.cur (repD gr d.toNat k + 1) ∧ HasV s.cur (repA gr a.toNat k)) :
    Traps (.visrdPix gr d a lka smp) s (trap 0x03 0x07) := by
  show execVisrdPix gr d a lka smp s = _
  refine perform_trap hr rfl ?_
  rw [checkReps_ok fun k hk => by
    rw [vRange_many (hasV_begun (hd k hk).1), vRange_ok (hasV_begun (hd k hk).2)]
    rfl, begun_curTile, hc]

end Sys2Proof.PixelReads
end

section
namespace Sys2Proof.PixelWrites
open Sys2Proof.Machine Sys2Proof.Safety Sys2Proof.Laws Sys2Proof.SystemGroups Sys2Proof.Prefetches Sys2Proof.PixelReads

/-! # RPIX (R339): the sweep over its lanes, and the traps of its pixels' addresses -/

variable {gr : Grp} {s t : State}

/-! ### A sweep that no lane stops (R86, R100) -/

theorem sweepFrom_of {α : Type} {one : State → Fin 32 → Machine.Acc → State × Done α} {R : State → Fin 32 → Machine.Acc → State → α → Prop}
    (h : ∀ s l a t v, R s l a t v → one s l a = (t, .ok v)) {as : List (Fin 32 × Machine.Acc)} {vs : List (Fin 32 × α)}
    (hsw : Sweeps R as s t vs) (r : Swept α) : sweepFrom one as s r = (t, { r with vals := r.vals ++ vs }) := by
  induction as generalizing s vs r with
  | nil =>
    obtain ⟨rfl, rfl⟩ := hsw
    simp [sweepFrom]
  | cons x as ih =>
    obtain ⟨u, v, ws, h1, h2, rfl⟩ := hsw
    simp only [sweepFrom, h _ _ _ _ _ h1, ih h2, List.append_assoc, List.singleton_append]

theorem pixelLane_of {op : BitVec 3} {fmt die a : Nat} {l : Fin 32} {acc : Machine.Acc} {v : Unit} (h : PaintsLane op fmt die a s l acc t v) :
    pixelLane op fmt die a s l acc = (t, .ok v) := by
  unfold PaintsLane at h
  unfold pixelLane
  split at h
  · rename_i hd
    rw [if_pos hd, h]
  · rename_i hd
    obtain ⟨u, b, hread, hwrite⟩ := h
    rw [if_neg hd]
    dsimp only
    rw [hread]
    exact hwrite

/-- Lanes that are each painted at once settle in the state the last one leaves. -/
theorem settle_painted {op : BitVec 3} {fmt die a : Nat} {as : List (Fin 32 × Machine.Acc)} {vs : List (Fin 32 × Unit)}
    (h : Sweeps (PaintsLane op fmt die a) as s t vs) (val : Unit → Dword) (redo : Bool) (keep : Fin 32 → Bool)
    (k : State → List (Fin 32 × Unit) → State × Perf) : settle (sweepFrom (pixelLane op fmt die a) as s {}) val redo keep k = k t vs := by
  rw [sweepFrom_of (fun _ _ _ _ _ h => pixelLane_of h) h {}]
  rfl

/-! ### Checks that every lane fails in the same way (R259) -/

theorem checkEach_failing {ls : List (Fin 32)} {chk : State → Fin 32 → State × Except Trap Machine.Acc} {x : Fin 32 → Trap}
    (h : ∀ l ∈ ls, chk s l = (s, .error (x l))) :
    checkEach s (ls.map fun l => (l, ())) (fun s l _ => chk s l) = (s, ls.map fun l => (l, .error (x l))) := by
  unfold checkEach
  suffices hf : ∀ rs, (ls.map fun l => (l, ())).foldl (fun (p : State × List (Fin 32 × Except Trap Machine.Acc)) (y : Fin 32 × Unit) =>
      ((chk p.1 y.1).1, p.2 ++ [(y.1, (chk p.1 y.1).2)])) (s, rs) = (s, rs ++ ls.map fun l => (l, .error (x l))) from hf []
  induction ls with
  | nil => simp
  | cons l ls ih =>
    intro rs
    have hl := h l (List.mem_cons_self ..)
    simp only [List.map_cons, List.foldl_cons, hl]
    rw [ih fun k hk => h k (List.mem_cons_of_mem _ hk)]
    simp

theorem failuresOf_map (ls : List (Fin 32)) (x : Fin 32 → Trap) : failuresOf (ls.map fun l => (l, .error (x l))) = ls.map fun l => (l, x l) := by
  unfold failuresOf
  rw [List.filterMap_map]
  exact List.filterMap_eq_map ▸ rfl

/-- The fold that picks the lowest address. -/
theorem foldl_lowest (ls : List (Fin 32 × Trap)) (b : Fin 32 × Trap) :
    let low := ls.foldl (fun (b : Fin 32 × Trap) x => if x.2.addr.toNat < b.2.addr.toNat then x else b) b
    low ∈ b :: ls ∧ ∀ x ∈ b :: ls, low.2.addr.toNat ≤ x.2.addr.toNat := by
  induction ls generalizing b with
  | nil => simp
  | cons y ls ih =>
    rw [List.foldl_cons]
    split
    · rename_i hlt
      obtain ⟨h1, h2⟩ := ih y
      refine ⟨List.mem_cons_of_mem _ h1, fun x hx => ?_⟩
      rcases List.mem_cons.1 hx with rfl | hx
      · have := h2 y (List.mem_cons_self ..)
        omega
      · exact h2 x hx
    · rename_i hge
      obtain ⟨h1, h2⟩ := ih b
      refine ⟨?_, fun x hx => ?_⟩
      · rcases List.mem_cons.1 h1 with h1 | h1
        · exact List.mem_cons.2 (.inl h1)
        · exact List.mem_cons_of_mem _ (List.mem_cons_of_mem _ h1)
      · rcases List.mem_cons.1 hx with rfl | hx
        · exact h2 x (List.mem_cons_self ..)
        · rcases List.mem_cons.1 hx with rfl | hx
          · have := h2 b (List.mem_cons_self ..)
            omega
          · exact h2 x (List.mem_cons_of_mem _ hx)

/-- No failure precedes the first where all have one place in R21's order. -/
theorem foldl_ranked {rank : Nat} (ls : List (Fin 32 × Trap)) (b : Fin 32 × Trap) (hb : b.2.rank = rank) (h : ∀ x ∈ ls, x.2.rank = rank) :
    ls.foldl (fun (b : Fin 32 × Trap) x => if x.2.rank < b.2.rank then x else b) b = b := by
  induction ls with
  | nil => rfl
  | cons y ls ih =>
    have hy := h y (List.mem_cons_self ..)
    rw [List.foldl_cons, if_neg (by omega)]
    exact ih fun x hx => h x (List.mem_cons_of_mem _ hx)

theorem mem_lanesOf {m : Mask} {l : Fin 32} : l ∈ lanesOf m ↔ m.getLsbD l.val = true := by simp [lanesOf, lanes]

/-- The trap of lanes that all fail at one check: it names them all and the lowest of their addresses. -/
theorem earliest_same {m : Mask} {rank code sub : Nat} {va : Fin 32 → Dword} {l : Fin 32} (hl : m.getLsbD l.val = true)
    (hlow : ∀ j : Fin 32, m.getLsbD j.val = true → (va l).toNat ≤ (va j).toNat) :
    earliest ((lanesOf m).map fun l => (l, trapAt rank code sub (va l))) = some { trapAt rank code sub (va l) with lanes := m } := by
  have hfail : ∀ x ∈ (lanesOf m).map (fun l => (l, trapAt rank code sub (va l))), ∃ j : Fin 32, m.getLsbD j.val = true
      ∧ x = (j, trapAt rank code sub (va j)) := fun x hx => by
    obtain ⟨j, hj, rfl⟩ := List.mem_map.1 hx
    exact ⟨j, mem_lanesOf.1 hj, rfl⟩
  have hown : (l, trapAt rank code sub (va l)) ∈ (lanesOf m).map fun l => (l, trapAt rank code sub (va l)) :=
    List.mem_map.2 ⟨l, mem_lanesOf.2 hl, rfl⟩
  have hmask : maskOf (fun l => ((lanesOf m).map fun l => (l, trapAt rank code sub (va l))).any fun x => decide (x.1 = l)) = m :=
    (eq_maskOf fun l => by rw [Bool.eq_iff_iff]; simp [mem_lanesOf]).symm
  generalize (lanesOf m).map (fun l => (l, trapAt rank code sub (va l))) = fs at *
  cases fs with
  | nil => cases hown
  | cons b fs =>
    obtain ⟨k, -, hb⟩ := hfail b (List.mem_cons_self ..)
    have hbest : fs.foldl (fun (b : Fin 32 × Trap) x => if x.2.rank < b.2.rank then x else b) b = b :=
      foldl_ranked (rank := rank) fs b (by rw [hb]; rfl) fun x hx => by
        obtain ⟨j, -, rfl⟩ := hfail x (List.mem_cons_of_mem _ hx)
        rfl
    have hsame : (b :: fs).filter (fun x => decide (x.2.rank = b.2.rank ∧ x.2.code = b.2.code ∧ x.2.sub = b.2.sub)) = b :: fs :=
      List.filter_eq_self.2 fun x hx => by
        obtain ⟨j, -, rfl⟩ := hfail x hx
        rw [hb]
        simp [trapAt]
    obtain ⟨hin, hmin⟩ := foldl_lowest (b :: fs) b
    unfold earliest
    simp only [hbest, hsame, hmask]
    generalize (b :: fs).foldl (fun (b : Fin 32 × Trap) x => if x.2.addr.toNat < b.2.addr.toNat then x else b) b = low at *
    obtain ⟨j, hj, rfl⟩ := hfail low (by simpa using hin)
    have h1 := hmin _ (List.mem_cons_of_mem _ hown)
    have h2 := hlow j hj
    have hva : va j = va l := BitVec.eq_of_toNat_eq (by simp only [trapAt] at h1; omega)
    rw [hva]

theorem checkLanes_failing {m : Mask} {rank code sub : Nat} {va : Fin 32 → Dword} {l : Fin 32}
    {chk : State → Fin 32 → State × Except Trap Machine.Acc}
    (h : ∀ j : Fin 32, m.getLsbD j.val = true → chk s j = (s, .error (trapAt rank code sub (va j)))) (hl : m.getLsbD l.val = true)
    (hlow : ∀ j : Fin 32, m.getLsbD j.val = true → (va l).toNat ≤ (va j).toNat) :
    checkLanes s (lanesOf m) chk = (s, .error { trapAt rank code sub (va l) with lanes := m }) := by
  unfold checkLanes
  rw [checkEach_failing fun j hj => h j (mem_lanesOf.1 hj)]
  simp only [failuresOf_map, earliest_same hl hlow]

/-! ### RPIX -/

section
variable {op : BitVec 3} {tgt : BitVec 2} {a : BitVec 6} {lka : BitVec 2} {b : BitVec 6} {lkb : BitVec 2} {p : Pass} {tx ty : Nat}

theorem rpix_ends (hr : Runs (.rpix gr op tgt a lka b lkb) s) (hc : curTile s = some (p, tx, ty)) :
    let fmt := p.targets[tgt.toFin].2.2
    let n := if fmt = 2 then 1 else 4
    (∀ k < reps gr, (∀ j < n, HasV s.cur (repA gr a.toNat k + j)) ∧ HasV s.cur (repB gr b.toNat k)) →
    Performs gr (fun k s t => ∃ s1 as s2 vs,
      checkLanes s (lanesOf (s.cur.active gr)) (fun s l => checkPixel s p tx ty tgt (repB gr b.toNat k) l) = (s1, .ok as)
      ∧ Sweeps (PaintsLane op fmt (tileOwner s1.mgmt tx ty) (repA gr a.toNat k)) as s1 s2 vs
      ∧ (let w := (s2.cur.lastUse s2.cur.executing lka ((List.range n).map fun j => repA gr a.toNat k + j)).lastUse s2.cur.executing lkb
           [repB gr b.toNat k]
         t = touchAll { s2 with cur := w } as)) (begun (.rpix gr op tgt a lka b lkb) s) t →
    Ends (.rpix gr op tgt a lka b lkb) s (past gr t) := by
  intro fmt n hv hp
  have hn : n = n - 1 + 1 := by
    simp only [n]
    split <;> rfl
  have hfrom : ∀ r, fromTo r (r + n - 1) = (List.range n).map fun j => r + j := fun r => by
    unfold fromTo
    congr 2
    omega
  show execRpix gr op tgt a lka b lkb s = _
  refine perform_done hr ?_
  rw [begun_curTile, hc]
  dsimp only
  rw [checkReps_ok fun k hk => by
    have hb := (hv k hk).2
    have ha := (hv k hk).1 (n - 1) (by omega)
    rw [show (if p.targets[tgt.toFin].2.2 = 2 then 1 else 4) = n - 1 + 1 from hn, vRange_many (hasV_begun ha), vRange_ok (hasV_begun hb)]
    rfl]
  dsimp only
  rw [runReps_of ?_ hp, ending, endGroup_past]
  rintro k s t ⟨s1, as, s2, vs, hchk, hsw, rfl⟩
  rw [hchk]
  exact (settle_painted hsw _ _ _ _).trans (by rw [← hfrom])

theorem rpix_outside (hr : Runs (.rpix gr op tgt a lka b lkb) s) (hc : curTile s = none)
    (hv : ∀ k < reps gr, HasV s.cur (repA gr a.toNat k) ∧ HasV s.cur (repB gr b.toNat k)) :
    Traps (.rpix gr op tgt a lka b lkb) s (trap 0x03 0x07) := by
  show execRpix gr op tgt a lka b lkb s = _
  refine perform_trap hr rfl ?_
  rw [begun_curTile, hc]
  dsimp only
  rw [checkReps_ok fun k hk => by
    rw [vRange_ok (hasV_begun (hv k hk).1), vRange_ok (hasV_begun (hv k hk).2)]
    rfl]

/-- The column, the row and the address of the pixel that a lane's word names (R339). -/
def column (w : Warp) (b : Nat) (l : Fin 32) : Nat := (w.getV b l).toNat % 2 ^ 14
def row (w : Warp) (b : Nat) (l : Fin 32) : Nat := (w.getV b l).toNat / 2 ^ 16 % 2 ^ 14
def pixelAddress (w : Warp) (p : Pass) (tgt : BitVec 2) (b : Nat) (l : Fin 32) : Dword :=
  p.targets[tgt.toFin].1 + BitVec.ofNat 64 (row w b l * p.targets[tgt.toFin].2.1 + column w b l * texelBytes p.targets[tgt.toFin].2.2)

theorem bits_column (x : Word) : bits x 13 0 = x.toNat % 2 ^ 14 := by simp [bits, bitsOf]
theorem bits_row (x : Word) : bits x 29 16 = x.toNat / 2 ^ 16 % 2 ^ 14 := rfl

theorem checkPixel_absent (h : p.targets[tgt.toFin].1 = 0) (b : Nat) (l : Fin 32) :
    checkPixel s p tx ty tgt b l = (s, .error (trapAt 40 0x11 6 (pixelAddress s.cur p tgt b l))) := by
  unfold checkPixel
  simp only [h, if_true, bits_column, bits_row]
  rw [pixelAddress, h]
  rfl

theorem checkPixel_outside (h : p.targets[tgt.toFin].1 ≠ 0) {b : Nat} {l : Fin 32}
    (hout : column s.cur b l / 16 ≠ tx ∨ row s.cur b l / 16 ≠ ty) :
    checkPixel s p tx ty tgt b l = (s, .error (trapAt 40 0x11 5 (pixelAddress s.cur p tgt b l))) := by
  have hout' : (decide (column s.cur b l / 16 ≠ tx) || decide (row s.cur b l / 16 ≠ ty)) = true := by simpa using hout
  unfold checkPixel
  simp only [h, if_false, bits_column, bits_row]
  exact if_pos hout'

theorem begun_getV (i : Instr) (s : State) : (begun i s).cur.getV = s.cur.getV := congrArg Regs.v (begun_regs i s)

theorem rpix_raises {sub : Nat} {l : Fin 32} (hr : Runs (.rpix gr op tgt a lka b lkb) s) (hs : Single gr s) (hc : curTile s = some (p, tx, ty))
    (ha : HasV s.cur (a.toNat + 3)) (hb : HasV s.cur b.toNat)
    (hl : (s.cur.active gr).getLsbD l.val = true)
    (hlow : ∀ j : Fin 32, (s.cur.active gr).getLsbD j.val = true →
      (pixelAddress s.cur p tgt b.toNat l).toNat ≤ (pixelAddress s.cur p tgt b.toNat j).toNat)
    (hfail : ∀ j : Fin 32, (s.cur.active gr).getLsbD j.val = true → checkPixel (begun (.rpix gr op tgt a lka b lkb) s) p tx ty tgt b.toNat j
      = (begun (.rpix gr op tgt a lka b lkb) s, .error (trapAt 40 0x11 sub (pixelAddress s.cur p tgt b.toNat j)))) :
    Traps (.rpix gr op tgt a lka b lkb) s { trapAt 40 0x11 sub (pixelAddress s.cur p tgt b.toNat l) with lanes := s.cur.active gr } := by
  have hk : ∀ n, n = 1 ∨ n = 4 → (do
      vRange (begun (.rpix gr op tgt a lka b lkb) s).cur (repA gr a.toNat 0) n
      vRange (begun (.rpix gr op tgt a lka b lkb) s).cur (repB gr b.toNat 0) 1 : Except Trap Unit) = .ok () := by
    have ha' : ∀ c, c ≤ 3 → HasV (begun (.rpix gr op tgt a lka b lkb) s).cur (a.toNat + c) := fun c hc' =>
      hasV_begun ⟨by have := ha.1; omega, by have := ha.2; omega⟩
    intro n hn
    rw [repA_zero, repB_zero, show n = n - 1 + 1 by omega, vRange_many (ha' (n - 1) (by omega)), vRange_ok (hasV_begun hb)]
    rfl
  show execRpix gr op tgt a lka b lkb s = _
  refine perform_trap hr rfl ?_
  rw [begun_curTile, hc]
  dsimp only
  rw [checkReps_single hs.1 (hk (if p.targets[tgt.toFin].2.2 = 2 then 1 else 4) (by split <;> simp))]
  dsimp only
  refine ending_trap (begun_single hs) ?_
  rw [repB_zero, begun_active, checkLanes_failing hfail hl hlow]

end

theorem pixelOp_table (op dst src alpha : Nat) (h : op < 5) : pixelOp (BitVec.ofNat 3 op) dst src alpha =
    [src, f32.fma 0 dst (f32.sub 0 f32.one alpha) src, f32.add 0 dst src, f32.minmax false dst src, f32.minmax true dst src].getD op 0 := by
  match op, h with
  | 0, _ => rfl
  | 1, _ => rfl
  | 2, _ => rfl
  | 3, _ => rfl
  | 4, _ => rfl

end Sys2Proof.PixelWrites

namespace Sys2Proof.TilePixelsProof
open Sys2Proof.Machine Sys2Proof.Safety Sys2Proof.PixelReads Sys2Proof.PixelWrites

/-- Settles O36: VISRD lands its pairs lane by lane; the lanes of RPIX are painted one after another, and those that fail a check of their
pixel's address all fail the same one. -/
theorem tilePixels : Obligations.TilePixels := by
  unfold Obligations.TilePixels
  refine ⟨?_, ?_, ?_, ?_, ?_, pixelOp_table⟩
  · exact fun gr d smp s p tx ty hr hs hc _ hd => visrd_ends hr hs hc hd
  · exact fun gr d a lka smp s p tx ty hr hs hc _ hd ha => visrdPix_ends hr hs hc hd ha
  · exact fun gr op tgt a lka b lkb s t p tx ty hr hc hv hp => rpix_ends hr hc hv hp
  · refine fun gr s hc => ⟨fun d smp hr hd => visrd_outside hr hc fun k hk => (hd k hk).2, fun d a lka smp hr hd => ?_,
      fun op tgt a lka b lkb hr hv => rpix_outside hr hc hv⟩
    exact visrdPix_outside hr hc fun k hk => (hd k hk).2
  · intro gr op tgt a lka b lkb s p tx ty l hr hs hc t ha hb m x y va hl hlow raises
    refine ⟨fun h0 => ?_, fun h0 hout => ?_⟩
    · refine rpix_raises hr hs hc (ha 3 (by omega)) hb hl hlow fun j hj => ?_
      rw [checkPixel_absent h0, pixelAddress, row, column, begun_getV]
      rfl
    · refine rpix_raises hr hs hc (ha 3 (by omega)) hb hl hlow fun j hj => ?_
      rw [checkPixel_outside h0 (by rw [column, row, begun_getV]; exact hout j hj), pixelAddress, row, column, begun_getV]
      rfl

end Sys2Proof.TilePixelsProof
end

section
namespace Sys2Proof.FabricSteps
open Sys2Proof.Machine Sys2Proof.Safety Sys2Proof.Laws Sys2Proof.Frame Sys2Proof.WarpSteps

/-! # The lease, failed nodes and holders that do not answer (R111 to R113) -/

variable {s t : State}

/-! ### The records of nodes and lines -/

theorem nodeOf_setNode_same (s : State) (x : Node) : nodeOf (setNode s x) x.node = x := by
  unfold nodeOf setNode
  rw [find?_putBy (by simp)]
  rfl
theorem nodeOf_setNode_other (s : State) {x : Node} {m : Nat} (h : m ≠ x.node) : nodeOf (setNode s x) m = nodeOf s m := by
  unfold nodeOf setNode
  rw [find?_putBy_other (by simpa using h.symm) fun y hy => ?_]
  simp only [decide_eq_true_eq] at hy
  simpa [hy] using h.symm
theorem nodeOf_node (s : State) (n : Nat) : (nodeOf s n).node = n := by
  unfold nodeOf
  cases h : s.fabric.nodes.find? fun x => x.node = n with
  | none => rfl
  | some x => simpa using List.find?_some h

theorem dirAt_line {line : Nat} {e : DirEntry} (h : dirAt s line = some e) : e.line = line := by simpa using List.find?_some h
theorem dirAt_setDir (s : State) {e : DirEntry} {line : Nat} (hl : e.line = line) (h : e.state ≠ 0) : dirAt (setDir s e) line = some e := by
  subst hl
  unfold dirAt setDir
  rw [if_neg h]
  exact find?_putBy (by simp) _

theorem assoc_assocSet {α : Type} (k : Nat) (v : α) (l : List (Nat × α)) : assoc k (assocSet k v l) = some v := by
  induction l with
  | nil => simp [assocSet, assoc]
  | cons x l ih =>
    unfold assocSet
    split
    · simp [assoc]
    · split
      · simp [assoc]
      · rename_i h
        rw [assoc, if_neg h, ih]

theorem granAt_setGran (h : Home) (pa : Nat) {g : Granule} (hg : g ≠ {}) : (h.setGran pa g).granAt pa = g := by
  unfold Home.setGran Home.granAt
  rw [if_neg hg, assoc_assocSet]
  rfl
theorem granAt_poisonAt (s : State) (pa : Nat) : ((poisonAt s pa).home.granAt pa).poisoned = true := by
  unfold poisonAt
  rw [granAt_setGran _ _ fun h => by simpa using congrArg Granule.poisoned h]

/-! ### The lease (R111, R112) -/

theorem dropRemote_l1 (s : State) : ∀ k ∈ (dropRemote s).allCores, ∀ l ∈ k.l1, l.id.node = none := by
  have hl : ∀ (k : Core), ∀ l ∈ k.l1.filter (fun l => l.id.node.isNone), l.id.node = none := fun k l hl => by
    simpa using (List.mem_filter.1 hl).2
  intro k hk
  rcases List.mem_cons.1 hk with rfl | hk
  · exact hl s.core
  · obtain ⟨j, -, rfl⟩ := List.mem_map.1 hk
    exact hl j

theorem leaseRenewal_self (s : State) : exec (.fabricLeaseRenewal s.fabric.self) s = .next
    (let dropped := fun (k : Core) => { k with l1 := k.l1.filter fun l => l.id.node.isNone }
     let t := if s.fabric.noticed = true ∨ s.fabric.leaseOn = false then
         { s with home := { s.home with proxies := [] }, core := dropped s.core, cores := s.cores.map dropped } else s
     { t with fabric := { t.fabric with leaseOn := true, renewed := s.clock, noticed := false } }) := by
  show execFabricLeaseRenewal s.fabric.self s = _
  unfold execFabricLeaseRenewal
  rw [if_pos rfl]
  by_cases h : s.fabric.noticed = true ∨ s.fabric.leaseOn = false
  · have h' : (s.fabric.noticed || !s.fabric.leaseOn) = true := by simpa using h
    simp only [h, h', if_true]
    rfl
  · have h' : (s.fabric.noticed || !s.fabric.leaseOn) = false := by simpa using h
    simp only [h, h', if_false, Bool.false_eq_true]

theorem leaseRenewal_other {n : Nat} (hn : n ≠ s.fabric.self) : ∃ t, exec (.fabricLeaseRenewal n) s = .next t
    ∧ nodeOf t n = { nodeOf s n with failed := false } ∧ ∀ m, m ≠ n → nodeOf t m = nodeOf s m := by
  refine ⟨setNode s { nodeOf s n with failed := false }, if_neg hn, ?_, fun m hm => ?_⟩
  · have h := nodeOf_setNode_same s { nodeOf s n with failed := false }
    rwa [show ({ nodeOf s n with failed := false } : Node).node = n from nodeOf_node s n] at h
  · exact nodeOf_setNode_other s (by rwa [show ({ nodeOf s n with failed := false } : Node).node = n from nodeOf_node s n])

theorem leaseExpiry_due (hl : s.fabric.leaseOn = true) (hc : s.clock ≥ s.fabric.renewed + 200000) : ∃ t, exec .fabricLeaseExpiry s = .next t
    ∧ t.fabric = { s.fabric with leaseOn := false } ∧ t.home = { s.home with proxies := [] } ∧ t.cur = s.cur
    ∧ ∀ k ∈ t.allCores, ∀ l ∈ k.l1, l.id.node = none := by
  have hc' : ¬((!s.fabric.leaseOn || decide (s.clock - s.fabric.renewed < 200000)) = true) := by
    simp only [hl, Bool.not_true, Bool.false_or, decide_eq_true_eq]
    omega
  exact ⟨{ dropRemote s with fabric := { s.fabric with leaseOn := false } }, if_neg hc', rfl, rfl, rfl, dropRemote_l1 s⟩

theorem leaseExpiry_early (hc : s.clock < s.fabric.renewed + 200000) : exec .fabricLeaseExpiry s = .next s := by
  have hc' : (!s.fabric.leaseOn || decide (s.clock - s.fabric.renewed < 200000)) = true := by
    rw [decide_eq_true (by omega), Bool.or_true]
  exact if_pos hc'

/-! ### Holders that do not answer (R112) -/

theorem fanoutTimeout_idle {line n : Nat} {e : DirEntry} (he : dirAt s line = some e)
    (h : e.reported.contains n = true ∨ s.clock < e.since + 80000) : exec (.fanoutTimeout line n) s = .next s := by
  have hskip : (e.reported.contains n || decide (s.clock - e.since < 80000)) = true := by
    rcases h with h | h
    · rw [h, Bool.true_or]
    · rw [decide_eq_true (by omega), Bool.or_true]
  show execFanoutTimeout line n s = _
  unfold execFanoutTimeout
  rw [he]
  dsimp only
  rw [if_pos]
  rw [Bool.or_assoc, hskip, Bool.or_true]

section
variable {line n : Nat} {e : DirEntry} (he : dirAt s line = some e) (h4 : e.state = 4) (ha : e.awaited.contains (.remote n) = true)
include he h4 ha

theorem fanoutTimeout_due (hr : e.reported.contains n = false) (hc : s.clock ≥ e.since + 80000) : ∃ t, exec (.fanoutTimeout line n) s = .next t
    ∧ dirAt t line = some { e with reported := e.reported ++ [n] } ∧ t.fabric = { s.fabric with sent := s.fabric.sent ++ [.unacked line n] } := by
  refine ⟨let u := setDir s { e with reported := e.reported ++ [n] }; { u with fabric := { u.fabric with sent := u.fabric.sent ++ [.unacked line n] } },
    ?_, ?_, rfl⟩
  · show execFanoutTimeout line n s = _
    have hc' : ¬ s.clock - e.since < 80000 := by omega
    unfold execFanoutTimeout
    simp only [he, h4, ha, hr, hc', ne_eq, not_true_eq_false, decide_false, Bool.not_true, Bool.or_false, Bool.false_eq_true, if_false]
  · exact dirAt_setDir s (e := { e with reported := e.reported ++ [n] }) (dirAt_line (e := e) he) (by rw [h4]; decide)

theorem reroute_sends : ∃ t, exec (.reroute line n) s = .next t
    ∧ dirAt t line = some { e with reported := e.reported.filter fun x => x ≠ n, since := s.clock }
    ∧ t.fabric = { s.fabric with sent := s.fabric.sent ++ [.invalidate line n] } := by
  refine ⟨let u := setDir s { e with reported := e.reported.filter fun x => x ≠ n, since := s.clock }
    { u with fabric := { u.fabric with sent := u.fabric.sent ++ [.invalidate line n] } }, ?_, ?_, rfl⟩
  · show execReroute line n s = _
    unfold execReroute
    simp only [he, h4, ha, ne_eq, not_true_eq_false, decide_false, Bool.not_true, Bool.or_false, Bool.false_eq_true, if_false]
  · exact dirAt_setDir s (e := { e with reported := e.reported.filter fun x => x ≠ n, since := s.clock }) (dirAt_line (e := e) he)
      (by rw [h4]; decide)
end

/-! ### A failed node (R113) -/

/-- What the last remote holder of a line leaves at its home: an exclusive line is poisoned, the partials of one are lost. -/
theorem agentsLeave_only {gone : Agent → Bool} {a : Agent} {e : DirEntry} (ha : gone a = true) (hdir : s.home.dir = [e]) (hh : e.holders = [a])
    (hs : e.state = 1 ∨ e.state = 2 ∨ e.state = 3) :
    ∃ h, agentsLeave s gone e = { s with home := h } ∧ h.held = s.home.held ∧ h.dir = [] ∧ h.mem = s.home.mem
      ∧ (if e.state = 2 then (h.granAt (e.line * 64)).poisoned = true else h.gran = s.home.gran)
      ∧ h.lost = if e.state = 3 then s.home.lost ++ [e.line] else s.home.lost := by
  have hany : ((e.holders ++ e.awaited).any gone) = true := by rw [hh]; simp [ha]
  have hrest : (e.holders.filter fun x => !gone x) = [] := by rw [hh]; simp [ha]
  have hdrop : (s.home.dir.filter fun x => decide (x.line ≠ e.line)) = [] := by rw [hdir]; simp
  unfold agentsLeave
  simp only [hany, hrest, Bool.not_true, Bool.false_eq_true, if_false, if_true]
  rcases hs with h | h | h
  · rw [h]
    exact ⟨_, rfl, rfl, hdrop, rfl, rfl, rfl⟩
  · rw [h]
    exact ⟨_, rfl, rfl, hdrop, rfl, granAt_poisonAt s _, rfl⟩
  · rw [h]
    exact ⟨_, rfl, rfl, hdrop, rfl, rfl, rfl⟩

end Sys2Proof.FabricSteps
end

section
namespace Sys2Proof.FailedNodes
open Sys2Proof.Machine Sys2Proof.Safety Sys2Proof.Laws Sys2Proof.Frame Sys2Proof.WarpSteps Sys2Proof.FabricSteps

/-! # A node that is declared failed (R112, R113) -/

variable {s t : State}

theorem dropRequests_none {n : Nat} (h : s.home.held = []) : dropRequests s n = s := by
  have hh : s.home = { s.home with held := [], lost := s.home.lost ++ [] } := by rw [List.append_nil, ← h]
  unfold dropRequests
  simp only [h, List.filter_nil, List.map_nil]
  rw [← hh]

theorem nodeDeclaredFailed_only {n : Nat} {e : DirEntry} (hn : n ≠ s.fabric.self) (hheld : s.home.held = []) (hdir : s.home.dir = [e])
    (hh : e.holders = [.remote n]) (hs : e.state = 1 ∨ e.state = 2 ∨ e.state = 3) :
    ∃ t, exec (.nodeDeclaredFailed n) s = .next (pumpRecords t) ∧ (nodeOf t n).failed = true ∧ t.home.dir = [] ∧ t.home.mem = s.home.mem
      ∧ (if e.state = 2 then (t.home.granAt (e.line * 64)).poisoned = true else t.home.gran = s.home.gran)
      ∧ t.home.lost = if e.state = 3 then s.home.lost ++ [e.line] else s.home.lost := by
  let u := setNode s { nodeOf s n with failed := true }
  obtain ⟨h, hleft, hheld', hdir', hmem, hgran, hlost⟩ := agentsLeave_only (s := u) (gone := fun a => decide (a = .remote n)) (a := .remote n)
    (by simp) hdir hh hs
  have hexec : exec (.nodeDeclaredFailed n) s = .next (pumpRecords (serveHeld (collectivesLose { u with home := h } n))) := by
    show execNodeDeclaredFailed n s = _
    unfold execNodeDeclaredFailed
    rw [if_neg hn]
    show Host.Outcome.next (pumpRecords (serveHeld (collectivesLose (u.home.dir.foldl (fun s e => nodeLeaves s n e) (dropRequests u n)) n))) = _
    rw [dropRequests_none (s := u) hheld, show u.home.dir = [e] from hdir]
    exact congrArg (fun x => Host.Outcome.next (pumpRecords (serveHeld (collectivesLose x n)))) hleft
  rw [serveHeld_empty (hheld'.trans hheld)] at hexec
  refine ⟨_, hexec, ?_, hdir', hmem, hgran, hlost⟩
  have hf := nodeOf_setNode_same s { nodeOf s n with failed := true }
  rw [show ({ nodeOf s n with failed := true } : Node).node = n from nodeOf_node s n] at hf
  exact congrArg Node.failed hf

end Sys2Proof.FailedNodes

namespace Sys2Proof.SoftErrors
open Sys2Proof.Machine Sys2Proof.Safety Sys2Proof.Laws Sys2Proof.Frame Sys2Proof.WarpSteps

/-! # Soft errors (R81, R441): the first of a unit is counted, and quarantines nothing -/

variable {s : State}

/-- The errors that are still counted at a tick, and the new one. -/
theorem recentErrors {l : List (Nat × Nat)} {unit now : Nat} (h : ∀ x ∈ l, x.1 ≠ unit) :
    ((l.filter (fun x => decide (now - x.2 < 2 ^ 30)) ++ [(unit, now)]).filter fun x => decide (x.1 = unit)).length = 1 := by
  have hnone : ((l.filter fun x => decide (now - x.2 < 2 ^ 30)).filter fun x => decide (x.1 = unit)) = [] :=
    List.filter_eq_nil_iff.2 fun x hx => by simpa using h x (List.mem_filter.1 hx).1
  rw [List.filter_append, hnone]
  simp

theorem countError_corrected {unit : Nat} (h : ∀ x ∈ s.mgmt.corrected, x.1 ≠ unit) : countError s unit false = { s with mgmt := { s.mgmt with
    corrected := (s.mgmt.corrected.filter fun x => s.ticks < x.2 + 2 ^ 30) ++ [(unit, s.ticks)] } } := by
  have hwindow : ∀ x : Nat × Nat, decide (s.ticks - x.2 < 2 ^ 30) = decide (s.ticks < x.2 + 2 ^ 30) := fun x => by
    rw [decide_eq_decide]
    omega
  unfold countError
  dsimp only
  simp only [Bool.false_eq_true, if_false]
  rw [recentErrors h, if_pos (by omega)]
  simp only [hwindow]

theorem countError_uncorrectable {unit : Nat} (h : ∀ x ∈ s.mgmt.uncorrectable, x.1 ≠ unit) :
    ∃ m, countError s unit true = { s with mgmt := m } := by
  unfold countError
  dsimp only
  simp only [if_true]
  rw [recentErrors h, if_pos (by omega)]
  exact ⟨_, rfl⟩

theorem softError_corrected {arr : SoftArray} (h : ∀ x ∈ s.mgmt.corrected, x.1 ≠ errorUnit s.mgmt arr) :
    exec (.softError ⟨arr, false⟩) s = .next (pumpRecords { s with mgmt := { s.mgmt with
      corrected := (s.mgmt.corrected.filter fun x => s.ticks < x.2 + 2 ^ 30) ++ [(errorUnit s.mgmt arr, s.ticks)] } }) :=
  congrArg (fun t => Host.Outcome.next (pumpRecords t)) (countError_corrected h)

/-- An uncorrectable error in an L1 drops the line. -/
theorem softError_l1 {c : Nat} {line : LineId} (h : ∀ x ∈ s.mgmt.uncorrectable, x.1 ≠ clusterOf c) :
    ∃ t, exec (.softError ⟨.l1 c line, true⟩) s = .next (pumpRecords t)
      ∧ (∀ l ∈ (t.coreAt c).l1, l.id ≠ line) ∧ t.cur = s.cur ∧ t.home = s.home := by
  obtain ⟨m, hm⟩ := countError_uncorrectable (s := s.modCore c fun k => l1Drop k line) (unit := clusterOf c) (by simpa using h)
  refine ⟨_, congrArg (fun t => Host.Outcome.next (pumpRecords t)) hm, ?_, by simp, by simp⟩
  have hc : ({ s.modCore c (fun k => l1Drop k line) with mgmt := m } : State).coreAt c = l1Drop (s.coreAt c) line :=
    coreAt_modCore_same s c (fun k => l1Drop k line) (coreAt_id s c)
  rw [hc]
  intro l hl
  simpa using (List.mem_filter.1 hl).2

end Sys2Proof.SoftErrors

namespace Sys2Proof.Clocks
open Sys2Proof.Machine Sys2Proof.Safety Sys2Proof.Laws Sys2Proof.Frame

/-! # Clocks and power (R444 to R446) -/

variable {s : State}

theorem setIfInBounds_eq {α : Type} {n : Nat} (v : Vector α n) {i : Nat} (h : i < n) (x : α) : v.setIfInBounds i x = v.set i x := by
  ext j hj
  simp [Vector.getElem_set, Vector.getElem_setIfInBounds]

/-- An event of the clock control of cluster `n` makes `y` of it, at a rate that its new control names. -/
def Retimes (n : Fin 36) (s : State) (i : Instr) (y : Tempo) : Prop := ∃ t slow, exec i s = .next t ∧ 32 ≤ slow ∧ slow < 40 ∧ t = { s with
  free := t.free
  mgmt := { s.mgmt with tempo := s.mgmt.tempo.set n { y with
    cycles := s.mgmt.tempo[n].cycles + s.mgmt.tempo[n].rate * (s.clock - s.mgmt.tempo[n].since), since := s.clock
    rate := if y.droop = true ∨ y.thermal = 2 then slow else if y.thermal = 1 then 40 else 40 + 2 * y.step } } }

theorem retimes_of {n : Fin 36} {f : Tempo → Tempo} {i : Instr} {y : Tempo} (he : exec i s = .next (modTempo s n.val f))
    (hy : f s.mgmt.tempo[n] = y) (hf : (y.cycles, y.rate, y.since) = (s.mgmt.tempo[n].cycles, s.mgmt.tempo[n].rate, s.mgmt.tempo[n].since)) :
    Retimes n s i y := by
  have hx : s.mgmt.tempo.getD n.val {} = s.mgmt.tempo[n] := by simp [Vector.getD]
  simp only [Prod.mk.injEq] at hf
  obtain ⟨h1, h2, h3⟩ := hf
  refine ⟨_, 32 + s.fresh.1.toNat % 8, he, by omega, by omega, ?_⟩
  unfold modTempo
  dsimp only [State.fresh]
  rw [hx, hy, setIfInBounds_eq _ n.isLt]
  simp [Tempo.retime, h1, h2, h3]

theorem clockControl_retimes (n : Fin 36) (s : State) :
    let x := s.mgmt.tempo[n]
    Retimes n s (.droop n.val) { x with droop := true } ∧ Retimes n s (.droopRecovery n.val) { x with droop := false }
      ∧ Retimes n s (.thermalStepDown n.val) { x with thermal := if x.thermal = 0 then 1 else 2 }
      ∧ Retimes n s (.thermalRecovery n.val) { x with thermal := 0 } := by
  refine ⟨retimes_of rfl rfl rfl, retimes_of rfl rfl rfl, retimes_of (f := fun x => { x with thermal := Nat.min 2 (x.thermal + 1) }) rfl ?_ rfl,
    retimes_of rfl rfl rfl⟩
  have hmin : ∀ k : Nat, Nat.min 2 (k + 1) = if k = 0 then 1 else 2 := fun k => by
    split
    · subst k; rfl
    · exact Nat.min_eq_left (by omega)
  simp only [hmin]

/-! ### The boundary (R446) -/

/-- The clock of a cluster by its number. -/
def clockAt (v : Vector Tempo 36) (n : Nat) : Tempo := v.getD n {}

theorem clockAt_fin (v : Vector Tempo 36) (n : Fin 36) : clockAt v n.val = v[n] := by simp [clockAt, Vector.getD]
theorem clockAt_map (v : Vector Tempo 36) (f : Tempo → Tempo) {n : Nat} (hn : n < 36) : clockAt (v.map f) n = f (clockAt v n) := by
  simp [clockAt, Vector.getD, hn]

/-- What the clusters of a list make of permits and clocks: the other clusters keep theirs, every permit taken is the grant of a claim, and no
permit is left while a claim stands. -/
structure Granted (ns : List Nat) (p q : Nat × Vector Tempo 36) : Prop where
  others : ∀ n, n ∉ ns → clockAt q.2 n = clockAt p.2 n
  claimed : ∀ n ∈ ns, (clockAt q.2 n).grant = true → (clockAt p.2 n).claim ≠ 0
  steps : ∀ n ∈ ns, (clockAt q.2 n).step = if (clockAt q.2 n).grant then (clockAt p.2 n).claim.toNat else (clockAt p.2 n).step - 1
  count : q.1 + ns.countP (fun n => (clockAt q.2 n).grant) = p.1
  all : 0 < q.1 → ∀ n ∈ ns, (clockAt p.2 n).claim ≠ 0 → (clockAt q.2 n).grant = true

theorem tempoCluster_eq (p : Nat × Vector Tempo 36) (n : Nat) : tempoCluster p n =
    if (clockAt p.2 n).claim ≠ 0 && p.1 > 0 then
      (p.1 - 1, p.2.setIfInBounds n { clockAt p.2 n with grant := true, step := (clockAt p.2 n).claim.toNat })
    else (p.1, p.2.setIfInBounds n { clockAt p.2 n with grant := false, step := (clockAt p.2 n).step - 1 }) := rfl

theorem tempoCluster_granted (p : Nat × Vector Tempo 36) {n : Nat} (hn : n < 36) : Granted [n] p (tempoCluster p n) := by
  have hset : ∀ (x : Tempo) (m : Nat), clockAt (p.2.setIfInBounds n x) m = if m = n then x else clockAt p.2 m := fun x m => by
    rw [setIfInBounds_eq _ hn]
    exact getD_set ..
  rw [tempoCluster_eq]
  split
  · rename_i h
    simp only [ne_eq, Bool.and_eq_true, decide_eq_true_eq] at h
    obtain ⟨hc, hp⟩ := h
    constructor
    case others => intro m hm; rw [hset, if_neg (by simpa using hm)]
    case claimed => simpa [hset] using hc
    case steps => simp [hset]
    case count =>
      simp only [List.countP_singleton, hset, if_true]
      omega
    case all => simp [hset]
  · rename_i h
    simp only [ne_eq, Bool.and_eq_true, decide_eq_true_eq, not_and] at h
    constructor
    case others => intro m hm; rw [hset, if_neg (by simpa using hm)]
    case claimed => simp [hset]
    case steps => simp [hset]
    case count => simp [hset]
    case all =>
      intro hp m hm hc
      obtain rfl := List.mem_singleton.1 hm
      exact absurd hp (h hc)

theorem Granted.cons {n : Nat} {ns : List Nat} {p q r : Nat × Vector Tempo 36} (h : Granted [n] p q) (g : Granted ns q r) (hn : n ∉ ns) :
    Granted (n :: ns) p r := by
  have hfirst : clockAt r.2 n = clockAt q.2 n := g.others n hn
  have hrest : ∀ m ∈ ns, clockAt q.2 m = clockAt p.2 m := fun m hm => h.others m (by
    rintro h
    exact hn (List.mem_singleton.1 h ▸ hm))
  have hn' := List.mem_singleton_self n
  constructor
  case others =>
    intro m hm
    rw [List.mem_cons, not_or] at hm
    rw [g.others m hm.2, h.others m (by simpa using hm.1)]
  case claimed =>
    intro m hm hg
    rcases List.mem_cons.1 hm with rfl | hm
    · exact h.claimed m hn' (hfirst ▸ hg)
    · exact hrest m hm ▸ g.claimed m hm hg
  case steps =>
    intro m hm
    rcases List.mem_cons.1 hm with rfl | hm
    · rw [hfirst]
      exact h.steps m hn'
    · rw [← hrest m hm]
      exact g.steps m hm
  case count =>
    have h1 := h.count
    have h2 := g.count
    rw [List.countP_singleton] at h1
    rw [List.countP_cons, hfirst]
    omega
  case all =>
    intro hr m hm hc
    have hq : 0 < q.1 := by
      have := g.count
      omega
    rcases List.mem_cons.1 hm with rfl | hm
    · rw [hfirst]
      exact h.all hq m hn' hc
    · exact g.all hr m hm (hrest m hm ▸ hc)

theorem foldl_tempoCluster (ns : List Nat) (hns : ns.Nodup) (hlt : ∀ n ∈ ns, n < 36) (p : Nat × Vector Tempo 36) :
    Granted ns p (ns.foldl tempoCluster p) := by
  induction ns generalizing p with
  | nil => constructor <;> simp
  | cons n ns ih =>
    obtain ⟨hn, hns⟩ := List.nodup_cons.1 hns
    exact (tempoCluster_granted p (hlt n (List.mem_cons_self ..))).cons (ih hns (fun m hm => hlt m (List.mem_cons_of_mem _ hm)) _) hn

theorem countReports_rest (s : State) : ∃ r f, countReports s = { s with mgmt := { s.mgmt with eccReports := r }, free := f } := by
  unfold countReports
  induction List.range s.mgmt.memDies.length using List.reverseRecOn with
  | nil => exact ⟨s.mgmt.eccReports, s.free, rfl⟩
  | append_singleton l n ih =>
    obtain ⟨r, f, h⟩ := ih
    rw [List.foldl_append, h]
    exact ⟨_, _, rfl⟩

/-- The permits that are free at a boundary, the claims with their ages, and the order of the clusters (R446). -/
def refilled (m : Mgmt) (low : Bool) : Nat := if low then min 64 (m.permits + 1) else m.permits
def aged (b : Nat) (x : Tempo) : Tempo := if x.claim ≠ 0 && x.age.isNone then { x with age := some b } else x
def boundaryOrder (m : Mgmt) (b : Nat) : List Nat := sortBy (fun n => ((clockAt (m.tempo.map (aged b)) n).age.getD b) * 64 + n) (List.range 36)
def boundaryGrants (m : Mgmt) (b : Nat) (low : Bool) : Nat × Vector Tempo 36 :=
  (boundaryOrder m b).foldl tempoCluster (refilled m low, m.tempo.map (aged b))

theorem tempoBoundary_eq (m : Mgmt) (now b : Nat) (low : Bool) : tempoBoundary m now b low =
    { m with permits := (boundaryGrants m b low).1, tempo := (boundaryGrants m b low).2.map fun x => x.retime now x.rate, boundary := b } := by
  have haged : aged b = fun x => if x.claim ≠ 0 && x.age.isNone then { x with age := some b } else x := rfl
  unfold boundaryGrants boundaryOrder refilled clockAt
  rw [haged]
  unfold tempoBoundary
  generalize List.range 36 = l
  rfl

theorem aged_keeps (b : Nat) (x : Tempo) : (aged b x).claim = x.claim ∧ (aged b x).step = x.step := by
  unfold aged
  split <;> exact ⟨rfl, rfl⟩

theorem boundaryOrder_perm (m : Mgmt) (b : Nat) : (boundaryOrder m b).Perm (List.range 36) := sortBy_perm _ _

theorem boundaryGrants_granted (m : Mgmt) (b : Nat) (low : Bool) :
    Granted (List.range 36) (refilled m low, m.tempo.map (aged b)) (boundaryGrants m b low) := by
  have hp := boundaryOrder_perm m b
  have hg := foldl_tempoCluster (boundaryOrder m b) (hp.nodup_iff.2 List.nodup_range) (fun n hn => List.mem_range.1 (hp.mem_iff.1 hn))
    (refilled m low, m.tempo.map (aged b))
  constructor
  case others => exact fun n hn => hg.others n (by rwa [hp.mem_iff])
  case claimed => exact fun n hn => hg.claimed n (hp.mem_iff.2 hn)
  case steps => exact fun n hn => hg.steps n (hp.mem_iff.2 hn)
  case count => exact hp.countP_eq _ ▸ hg.count
  case all => exact fun h n hn => hg.all h n (hp.mem_iff.2 hn)

theorem tempoBoundary_granted (m : Mgmt) (now b : Nat) (low : Bool) :
    let u := tempoBoundary m now b low
    let granted := (List.finRange 36).filter fun n => u.tempo[n].grant
    (∀ n : Fin 36, (u.tempo[n].grant = true → m.tempo[n].claim ≠ 0)
      ∧ u.tempo[n].step = if u.tempo[n].grant then m.tempo[n].claim.toNat else m.tempo[n].step - 1)
    ∧ u.permits + granted.length = refilled m low
    ∧ (0 < u.permits → ∀ n : Fin 36, m.tempo[n].claim ≠ 0 → u.tempo[n].grant = true) := by
  have hg := boundaryGrants_granted m b low
  rw [tempoBoundary_eq]
  generalize boundaryGrants m b low = q at hg
  have hin : ∀ n : Fin 36, n.val ∈ List.range 36 := fun n => List.mem_range.2 n.isLt
  have hnew : ∀ n : Fin 36, (q.2.map fun x => x.retime now x.rate)[n] = (clockAt q.2 n).retime now (clockAt q.2 n).rate := fun n => by
    rw [← clockAt_fin, clockAt_map _ _ n.isLt]
  have hold : ∀ n : Fin 36, (clockAt (m.tempo.map (aged b)) n).claim = m.tempo[n].claim
      ∧ (clockAt (m.tempo.map (aged b)) n).step = m.tempo[n].step := fun n => by
    rw [clockAt_map _ _ n.isLt, clockAt_fin]
    exact aged_keeps b _
  intro u granted
  simp only [u, granted, hnew]
  refine ⟨fun n => ⟨fun h => ?_, ?_⟩, ?_, fun hpos n hc => ?_⟩
  · rw [← (hold n).1]
    exact hg.claimed n (hin n) h
  · rw [← (hold n).1, ← (hold n).2]
    exact hg.steps n (hin n)
  · have hc := hg.count
    rw [← List.map_coe_finRange_eq_range, List.countP_map, List.countP_eq_length_filter] at hc
    exact hc
  · exact hg.all hpos n (hin n) (by rwa [(hold n).1])

theorem tempoBoundary_ends (low : Bool) (s : State) : ∃ t, exec (.tempoBoundary low) s = .next t
    ∧ t = { s with mgmt := t.mgmt, free := t.free } ∧ t.mgmt.boundary = s.ticks / 5000
    ∧ (let free := if low then min 64 (s.mgmt.permits + 1) else s.mgmt.permits
       let granted := (List.finRange 36).filter fun n => t.mgmt.tempo[n].grant
       (∀ n : Fin 36, (t.mgmt.tempo[n].grant = true → s.mgmt.tempo[n].claim ≠ 0)
         ∧ t.mgmt.tempo[n].step = if t.mgmt.tempo[n].grant then s.mgmt.tempo[n].claim.toNat else s.mgmt.tempo[n].step - 1)
       ∧ t.mgmt.permits + granted.length = free
       ∧ (0 < t.mgmt.permits → ∀ n : Fin 36, s.mgmt.tempo[n].claim ≠ 0 → t.mgmt.tempo[n].grant = true)) := by
  have hb : (tempoBoundary s.mgmt s.clock (s.ticks / 5000) low).boundary = s.ticks / 5000 := by rw [tempoBoundary_eq]
  have hg := tempoBoundary_granted s.mgmt s.clock (s.ticks / 5000) low
  have he : exec (.tempoBoundary low) s = .next (countReports { s with mgmt := tempoBoundary s.mgmt s.clock (s.ticks / 5000) low }) := rfl
  generalize tempoBoundary s.mgmt s.clock (s.ticks / 5000) low = m at hb hg he
  obtain ⟨r, f, h⟩ := countReports_rest { s with mgmt := m }
  exact ⟨_, he.trans (congrArg Host.Outcome.next h), rfl, hb, hg⟩

end Sys2Proof.Clocks
end

section
namespace Sys2Proof.Quarantines
open Sys2Proof.Machine Sys2Proof.Safety Sys2Proof.Laws Sys2Proof.Frame Sys2Proof.CoreDumps Sys2Proof.Accesses

/-! # A core without blocks gets none (R114)

What a quarantine does after it has killed the blocks of a die serves waiting requests, settles draws and writes records. None of it places a
block, quarantines a die, or forgets that the flush areas have to move. -/

variable {r s t u : State}

/-- What the management core keeps of a quarantine. -/
def quarantine (m : Mgmt) : List Nat × Bool × Bool × List Nat := (m.badSockets, m.replace, m.flushMove, m.memDies)

/-- No core that holds no block gets one, and the management core keeps what it knows of quarantines. -/
structure NoNewBlocks (s t : State) : Prop where
  kept : quarantine t.mgmt = quarantine s.mgmt
  ids : IdsOnce s → IdsOnce t
  bare : ∀ c, (s.coreAt c).blocks = [] → (t.coreAt c).blocks = []

theorem NoNewBlocks.refl (s : State) : NoNewBlocks s s := ⟨rfl, id, fun _ => id⟩
theorem NoNewBlocks.trans (h : NoNewBlocks s t) (g : NoNewBlocks t u) : NoNewBlocks s u :=
  ⟨g.kept.trans h.kept, g.ids ∘ h.ids, fun c => g.bare c ∘ h.bare c⟩
theorem noNewBlocks_of_eq (e : (quarantine t.mgmt, t.core, t.cores) = (quarantine s.mgmt, s.core, s.cores)) : NoNewBlocks s t := by
  simp only [Prod.mk.injEq] at e
  obtain ⟨e1, e2, e3⟩ := e
  refine ⟨e1, ?_, fun c => ?_⟩
  · simp only [IdsOnce, State.allCores, e2, e3]
    exact id
  · simp only [State.coreAt, e2, e3]
    exact id
theorem noNewBlocks_of_within (h : Within s t) : NoNewBlocks s t := by
  refine ⟨by rw [h.mgmt], h.ids, fun c e => List.eq_nil_iff_forall_not_mem.2 fun b hb => ?_⟩
  obtain ⟨a, ha, -⟩ := (h.core c).blocks b hb
  rw [e] at ha
  cases ha
theorem noNewBlocks_of_unmoved (h : Unmoved s t) : NoNewBlocks s t := by
  refine ⟨by rw [h.mgmt], h.ids, fun c e => ?_⟩
  have hb := (h.slots c).1
  rw [e] at hb
  exact List.map_eq_nil_iff.1 hb
theorem NoNewBlocks.unmoved (h : NoNewBlocks r s) (g : Unmoved s t) : NoNewBlocks r t := h.trans (noNewBlocks_of_unmoved g)

theorem foldl_noNewBlocks {α : Type} {f : State → α → State} (hf : ∀ s a, NoNewBlocks s (f s a)) (l : List α) (s : State) :
    NoNewBlocks s (l.foldl f s) := foldl_rel .refl .trans hf l s

theorem NoNewBlocks.of_fst {β : Type} {p : State × β} {x : β} (h : NoNewBlocks s p.1) (e : p = (t, x)) : NoNewBlocks s t := by
  rw [e] at h
  exact h

/-- A change of a core that leaves its blocks alone. -/
theorem modCore_noNewBlocks (s : State) (c : Nat) {f : Core → Core} (hf : ∀ k, ((f k).id, (f k).blocks) = (k.id, k.blocks)) :
    NoNewBlocks s (s.modCore c f) := by
  simp only [Prod.mk.injEq] at hf
  refine ⟨by simp, fun h => idsOnce_modCore h c f, fun d e => ?_⟩
  rw [coreAt_modCore s fun k => (hf k).1]
  split
  · rename_i hd
    rw [(hf _).2, ← hd, e]
  · exact e

/-! ### Records are written (R389, R428) -/

theorem physNat_noNewBlocks (h : NoNewBlocks r s) (pa n : Nat) : NoNewBlocks r (physNat s pa n).1 := by
  unfold physNat
  have hp := fun {t x} (e : physRead s pa n 0 = (t, x)) => h.unmoved ((physRead_unmoved (.refl s) pa n 0).of_fst e)
  split <;> replace hp := hp (by assumption)
  · exact hp
  · exact hp.trans (noNewBlocks_of_eq rfl)

theorem physWrite_unmoved (s : State) (pa : Nat) (d : List Byte) (key : Nat) : Unmoved s (physWrite s pa d key).1 := by
  unfold physWrite
  suffices hl : ∀ (l : List (Nat × Nat)) (p : State × Bool), Unmoved s p.1 → Unmoved s (l.foldl _ p).1 from hl _ (s, true) (.refl s)
  intro l
  induction l with
  | nil => exact fun _ h => h
  | cons x l ih =>
    refine fun p h => ih _ ?_
    obtain ⟨u, ok⟩ := p
    have hg := (recallLine_unmoved h (x.1 / 64) true).trans (mergeGran_unmoved _ x.1 ((d.drop (x.1 - pa)).take x.2) key)
    dsimp only
    exact ite_rel (hg.trans (tagLine_unmoved _ _ _ _ _)) hg

theorem parkUnit_noNewBlocks (s : State) (core : Nat) (u : FaultUnit) (resp : Nat) : NoNewBlocks s (parkUnit s core u resp) := by
  unfold parkUnit
  split
  · exact noNewBlocks_of_within (modWarp_within s _ _ fun w => by split <;> rfl)
  · exact modCore_noNewBlocks s _ fun _ => rfl
  · exact modCore_noNewBlocks s _ fun _ => rfl
  · exact noNewBlocks_of_within (modWarp_within s _ _ fun _ => rfl)
  · exact noNewBlocks_of_eq rfl
  · exact noNewBlocks_of_eq rfl
  · exact noNewBlocks_of_eq rfl

theorem writeBlockRecord_noNewBlocks (s : State) (q : Nat) (d : List Byte) : NoNewBlocks s (writeBlockRecord s q d) := by
  have h3 := physNat_noNewBlocks (physNat_noNewBlocks (physNat_noNewBlocks (.refl s) q 8) (q + 8) 8) (q + 16) 8
  unfold writeBlockRecord
  dsimp only
  split
  · exact (physNat_noNewBlocks h3 _ _).unmoved (physWrite_unmoved _ _ _ _)
  · exact (h3.unmoved (physWrite_unmoved _ _ _ _)).unmoved (physWrite_unmoved _ _ _ _)

theorem recordWaits_unmoved {p : PendingRecord} (e : recordWaits s p = some t) : Unmoved s t := by
  unfold recordWaits at e
  split at e
  · rename_i h
    exact Option.some.inj e ▸ physWaits_unmoved (.refl s) h
  · exact physWaits_unmoved (.refl s) e

/-- What a ring's header wakes. -/
theorem wakes_noNewBlocks (h : NoNewBlocks r s) (p q : Prop) [Decidable p] [Decidable q] (i : List Instr) (w : Dword) : NoNewBlocks r
    (if q then { (if p then { s with inputs := i } else s) with mgmt := { (if p then { s with inputs := i } else s).mgmt with wake := w } }
      else if p then { s with inputs := i } else s) := by
  have hp : NoNewBlocks r (if p then { s with inputs := i } else s) := ite_rel (h.trans (noNewBlocks_of_eq rfl)) h
  exact ite_rel (hp.trans (noNewBlocks_of_eq rfl)) hp

theorem writeRecord_noNewBlocks (s : State) (p : PendingRecord) : NoNewBlocks s (writeRecord s p).1 := by
  have h3 := physNat_noNewBlocks (physNat_noNewBlocks (physNat_noNewBlocks (.refl s) p.trapq 8) (p.trapq + 8) 8) (p.trapq + 16) 8
  unfold writeRecord
  split
  · exact writeBlockRecord_noNewBlocks s _ _
  · dsimp only
    split
    · exact h3
    · have hwrote := fun a d k a' d' k' =>
        physNat_noNewBlocks ((h3.unmoved (physWrite_unmoved _ a d k)).unmoved (physWrite_unmoved _ a' d' k')) (p.trapq + 24) 8
      split
      · exact (wakes_noNewBlocks (hwrote _ _ _ _ _ _) _ _ _ _).trans (parkUnit_noNewBlocks _ _ _ _)
      · exact wakes_noNewBlocks (hwrote _ _ _ _ _ _) _ _ _ _

theorem pumpRecordsFrom_noNewBlocks (h : NoNewBlocks r s) (kept l : List PendingRecord) : NoNewBlocks r (pumpRecordsFrom s kept l) := by
  induction l generalizing s kept with
  | nil => exact h.trans (noNewBlocks_of_eq rfl)
  | cons p l ih =>
    unfold pumpRecordsFrom
    refine ite_rel (ih h _) ?_
    split
    · exact ih h _
    · split
      · exact ih (h.unmoved (recordWaits_unmoved (by assumption))) _
      · split <;> have hw := (h.trans (writeRecord_noNewBlocks s p)).of_fst (by assumption)
        · refine ih (hw.trans ?_) _
          exact noNewBlocks_of_eq rfl
        · exact ih hw _

theorem pumpRecords_noNewBlocks (s : State) : NoNewBlocks s (pumpRecords s) := ite_rel (.refl s) (pumpRecordsFrom_noNewBlocks (.refl s) _ _)

/-! ### A tile is resolved (R323, R332, R336) -/

theorem loadAcc_unmoved (h : Unmoved r s) (i : Issuer) (a : Acc) (fresh : Bool) (cpol : BitVec 3) :
    Unmoved r (Machine.loadAcc s i a fresh cpol).1 := by
  unfold Machine.loadAcc
  refine ite_fst h ?_
  suffices hl : ∀ (l : List Part) (p : State × Done Loaded), Unmoved r p.1 → Unmoved r (l.foldl _ p).1 from
    hl a.parts (s, .ok { bytes := [] }) h
  intro l
  induction l with
  | nil => exact fun _ h => h
  | cons x l ih =>
    refine fun p h => ih _ ?_
    obtain ⟨u, d⟩ := p
    cases d with
    | ok v =>
      dsimp only
      split <;> exact (loadPart_unmoved h _ _ _ _ _).of_fst (by assumption)
    | wait => exact h
    | late x => exact h

theorem devCheck_unmoved (h : Unmoved r s) (c : Ctx) (va : Dword) (n : Nat) (k : Kind) : Unmoved r (devCheck s c va n k).1 := by
  unfold devCheck
  refine ite_fst h ?_
  split <;> exact (translate_unmoved h _ _ _ _).of_fst (by assumption)

theorem devLoad_unmoved (h : Unmoved r s) (c : Ctx) (i : Issuer) (va : Dword) (n : Nat) : Unmoved r (devLoad s c i va n).1 := by
  unfold devLoad
  split <;> have hc := (devCheck_unmoved h _ _ _ _).of_fst (by assumption)
  · exact hc
  · exact loadAcc_unmoved hc _ _ _ _

theorem devBytes_unmoved (h : Unmoved r s) (c : Ctx) (i : Issuer) (va : Dword) (n : Nat) : Unmoved r (devBytes s c i va n).1 := by
  unfold devBytes
  suffices hl : ∀ (l : List (Nat × Nat)) (p : State × Done (List Byte)), Unmoved r p.1 → Unmoved r (l.foldl _ p).1 from
    hl _ (s, .ok []) h
  intro l
  induction l with
  | nil => exact fun _ h => h
  | cons x l ih =>
    refine fun p h => ih _ ?_
    obtain ⟨u, d⟩ := p
    cases d with
    | ok v => exact devLoad_unmoved h _ _ _ _
    | wait => exact h
    | late x => exact h

theorem resolveFrond_unmoved (h : Unmoved r s) (tx ty n : Nat) (p : Frond) (b : List Byte) (l : List (Word × Word)) :
    Unmoved r (resolveFrond s tx ty n p b l).1 := by
  unfold resolveFrond
  suffices hl : ∀ (k : List Nat) (q : State × List (Word × Word)), Unmoved r q.1 → Unmoved r (k.foldl _ q).1 from hl _ (s, l) h
  intro k
  induction k with
  | nil => exact fun _ h => h
  | cons x k ih =>
    refine fun q h => ih _ ?_
    dsimp only
    split <;> exact h.trans (unmoved_of_eq rfl)

theorem tileStart_unmoved (s : State) (p : Pass) (die tx ty : Nat) : Unmoved s (tileStart s p die tx ty).1 := by
  unfold tileStart
  refine ite_fst (.refl s) ?_
  split
  · exact ite_fst (.refl s) (unmoved_of_eq rfl)
  · exact unmoved_of_eq rfl

theorem resolveRefs_unmoved (h : Unmoved r s) (p : Pass) (c : Ctx) (i : Issuer) (tx ty : Nat) (fs : List Frond) (l : List (Word × Word)) :
    Unmoved r (resolveRefs p c i tx ty fs s l).1 := by
  induction fs generalizing s l with
  | nil => exact h
  | cons f fs ih =>
    unfold resolveRefs
    refine ite_fst (ih h _) ?_
    split <;> have hd := (devBytes_unmoved h _ _ _ _).of_fst (by assumption)
    · exact ih (resolveFrond_unmoved hd _ _ _ _ _ _) _
    · exact hd
    · exact hd

theorem resolveTile_unmoved (s : State) (p : Pass) (die tx ty : Nat) (flushed : Bool) : Unmoved s (resolveTile s p die tx ty flushed).1 := by
  unfold resolveTile
  split
  · exact .refl s
  · refine ite_fst (.refl s) ?_
    dsimp only
    split <;> have hr := (resolveRefs_unmoved (tileStart_unmoved s p die tx ty) _ _ _ _ _ _ _).of_fst (by assumption)
    · exact hr.trans (unmoved_of_eq rfl)
    · exact hr
    · exact hr

theorem passFault_noNewBlocks (s : State) (p : Pass) (tx ty : Nat) (x : Trap) : NoNewBlocks s (passFault s p tx ty x) :=
  ((noNewBlocks_of_eq rfl : NoNewBlocks s (modPass s p fun p => p.setFault tx ty (some (.queueFull x)))).unmoved (launchRecord_unmoved _ _ _)).trans
    (pumpRecords_noNewBlocks _)

theorem unresolved_noNewBlocks (s : State) (p : Pass) (tx ty : Nat) (x : State × Done (List (Word × Word))) :
    NoNewBlocks s (unresolved s p tx ty x) := by
  unfold unresolved
  split
  · exact passFault_noNewBlocks s p tx ty _
  · unfold keepRecalls
    split
    · exact .refl s
    · exact noNewBlocks_of_eq rfl

/-! ### The frontiers of the dies move (R320, R323) -/

theorem flushPut_noNewBlocks (s : State) (die tx ty : Nat) (l : List (Word × Word)) : NoNewBlocks s (flushPut s die tx ty l) := by
  unfold flushPut
  split
  · exact noNewBlocks_of_within (physPost_atHome s _ _).within
  · exact .refl s

theorem flushTiles_noNewBlocks (h : NoNewBlocks r s) (die : Nat) (l : List (Pass × Nat × Nat)) (e : flushTiles die l s = .ok t) :
    NoNewBlocks r t := by
  induction l generalizing s with
  | nil => exact Except.ok.inj e ▸ h
  | cons x l ih =>
    unfold flushTiles at e
    split at e
    · exact ih h e
    · split at e
      · rename_i hx
        exact ih ((h.unmoved ((resolveTile_unmoved s _ die x.2.1 x.2.2 true).of_fst hx)).trans (flushPut_noNewBlocks _ die _ _ _)) e
      · cases e

theorem flushDie_noNewBlocks (s : State) (die : Nat) : NoNewBlocks s (flushDie s die).1 := by
  unfold flushDie
  split
  · exact .refl s
  · dsimp only
    split
    · exact unresolved_noNewBlocks s _ _ _ _
    · rename_i ht
      exact (flushTiles_noNewBlocks (.refl s) _ _ ht).trans (noNewBlocks_of_eq rfl)

theorem binFrond_noNewBlocks (s : State) (die : Nat) (p : Frond) : NoNewBlocks s (binFrond s die p).1 := by
  have hroom : ∀ b : Bool, NoNewBlocks s (if b then (s, true) else flushDie s die).1 := fun b => by
    split
    · exact .refl s
    · exact flushDie_noNewBlocks s die
  have hbin : ∀ q : State × Bool, NoNewBlocks s q.1 →
      NoNewBlocks s (if q.2 then (modDie q.1 die fun d => { d with binned := d.binned ++ [p] }, true) else (q.1, false)).1 := fun q hq => by
    split
    · exact hq.trans (noNewBlocks_of_eq rfl)
    · exact hq
  unfold binFrond
  split
  · exact noNewBlocks_of_eq rfl
  · split
    · exact .refl s
    · exact hbin _ (hroom _)

theorem releaseHeld_noNewBlocks (h : NoNewBlocks r s) (die : Nat) (f : Word) (l kept : List Frond) : NoNewBlocks r (releaseHeld die f l kept s) := by
  induction l generalizing s kept with
  | nil => exact h.trans (noNewBlocks_of_eq rfl)
  | cons p l ih =>
    unfold releaseHeld
    refine ite_rel (ih h _) ?_
    have hm : NoNewBlocks r (modDie s die fun d => { d with held := kept ++ l }) := h.trans (noNewBlocks_of_eq rfl)
    dsimp only
    split <;> have hb := (hm.trans (binFrond_noNewBlocks _ die p)).of_fst (by assumption)
    · exact ih hb _
    · exact hb.trans (noNewBlocks_of_eq rfl)

theorem advanceDie_noNewBlocks (h : NoNewBlocks r s) (die fuel : Nat) : NoNewBlocks r (advanceDie die fuel s) := by
  induction fuel generalizing s with
  | zero => exact h
  | succ fuel ih =>
    unfold advanceDie
    split
    · exact h
    · have hr := releaseHeld_noNewBlocks h die
      dsimp only
      refine ite_rel (ih ((hr _ _ _).trans (noNewBlocks_of_eq rfl))) (hr _ _ _)

theorem settleDraws_noNewBlocks (s : State) : NoNewBlocks s (settleDraws s) := by
  have hadvance : ∀ n, NoNewBlocks s (s.geom.dies.foldl (fun s d => if dieUp s d.socket then advanceDie d.socket n s else s) s) := fun n =>
    foldl_noNewBlocks (fun s d => ite_rel (advanceDie_noNewBlocks (.refl s) _ _) (.refl s)) _ s
  exact (hadvance _).trans (noNewBlocks_of_eq rfl)

/-! ### What a lost die held (R74, R114) -/

theorem poisonAt_noNewBlocks (s : State) (pa : Nat) : NoNewBlocks s (poisonAt s pa) := noNewBlocks_of_eq rfl

theorem setPlaced_noNewBlocks (s : State) (block : Nat) (p : Option Placed) : NoNewBlocks s (setPlaced s block p) := noNewBlocks_of_eq rfl
theorem dropProxy_noNewBlocks (s : State) (id : LineId) : NoNewBlocks s (dropProxy s id) := noNewBlocks_of_eq rfl

theorem loseCore_noNewBlocks (s : State) (k : Core) : NoNewBlocks s (loseCore s k) := by
  unfold loseCore
  refine .trans ?_ (modCore_noNewBlocks _ _ fun _ => rfl)
  exact foldl_noNewBlocks (fun s _ => poisonAt_noNewBlocks s _) _ s

theorem losePlaced_noNewBlocks (s : State) (die : Nat) (gone : Nat → Bool) : NoNewBlocks s (losePlaced s die gone) :=
  (foldl_noNewBlocks (fun s _ => poisonAt_noNewBlocks s _) _ s).trans (foldl_noNewBlocks (fun s _ => setPlaced_noNewBlocks s _ _) _ _)

theorem loseProxies_noNewBlocks (s : State) (gone : Nat × Nat → Bool) : NoNewBlocks s (loseProxies s gone) :=
  foldl_noNewBlocks (fun s _ => dropProxy_noNewBlocks s _) _ s

theorem holderGone_noNewBlocks (s : State) (e : DirEntry) (a : Agent) (stays : Bool) : NoNewBlocks s (holderGone s e a stays) :=
  ite_rel (noNewBlocks_of_eq rfl) (noNewBlocks_of_eq rfl)

theorem agentsLeave_noNewBlocks (s : State) (gone : Agent → Bool) (e : DirEntry) : NoNewBlocks s (agentsLeave s gone e) := by
  have hpoison : ∀ c : Bool, NoNewBlocks s (if c then poisonAt s (e.line * 64) else s) := fun c =>
    ite_rel (poisonAt_noNewBlocks s _) (.refl s)
  have hlost : ∀ {u}, NoNewBlocks s u → NoNewBlocks s (if e.state = 3 then { u with home := { u.home with lost := u.home.lost ++ [e.line] } } else u) :=
    fun h => ite_rel (h.trans (noNewBlocks_of_eq rfl)) h
  have hgone : ∀ (l : List Agent) u, NoNewBlocks u (l.foldl (fun s a => match dirAt s e.line with | some e => holderGone s e a false | none => s) u) :=
    fun l u => foldl_noNewBlocks (fun s a => by
      split
      · exact holderGone_noNewBlocks s _ a false
      · exact .refl s) l u
  unfold agentsLeave
  refine ite_rel (.refl s) (ite_rel ((hlost (hpoison _)).trans (hgone _ _)) ((hlost (hpoison _)).trans (noNewBlocks_of_eq rfl)))

/-! ### The blocks on a lost die are killed -/

theorem killOn_within (s : State) (p : Nat → Bool) : Within s (killOn s p) := (foldl_killBlock (plainKill 3) _ s).1

theorem killOn_bare (s : State) {p : Nat → Bool} {c : Nat} (hc : p c = true) : ((killOn s p).coreAt c).blocks = [] := by
  refine List.eq_nil_iff_forall_not_mem.2 fun b hb => ?_
  obtain ⟨a, ha, hab, -⟩ := ((killOn_within s p).core c).blocks b hb
  have hcore : s.coreAt c ∈ s.allCores := by
    rcases coreAt_mem s c with h | h
    · exact h
    · rw [h] at ha
      cases ha
  have hkilled : (c, a) ∈ s.allCores.flatMap fun k => if p k.id then k.blocks.map fun b => (k.id, b) else [] := by
    refine List.mem_flatMap.2 ⟨_, hcore, ?_⟩
    rw [coreAt_id, if_pos hc]
    exact List.mem_map.2 ⟨a, ha, rfl⟩
  exact (foldl_killBlock (plainKill 3) _ s).2 _ hkilled b hb hab.symm

/-! ### A die is quarantined (R114, R441) -/

/-- The die is on the list, and what its cores held is lost. -/
def dieLost (s : State) (n : Nat) : State :=
  let s := dropClaims (replaceMe { s with mgmt := { s.mgmt with badSockets := s.mgmt.badSockets ++ [n] } }) fun k => k / 2 = n
  (s.allCores.filter fun k => socketOf k.id = n).foldl loseCore s
/-- Its blocks are killed, and nothing waits for it. -/
def dieEmptied (s : State) (n : Nat) : State :=
  let s := dropShootdowns (killOn s fun c => socketOf c = n) fun c => socketOf c = n
  let s := { s with geom := { s.geom with
    packets := s.geom.packets.filter fun x => x.1 ≠ n
    tokens := s.geom.tokens.filter fun x => x.1 ≠ n
    passed := s.geom.passed.filter fun x => x.1.1 ≠ n } }
  let die := (s.mgmt.memDies.findIdx? fun x => x = n).getD 99
  loseProxies (losePlaced s die fun _ => true) fun x => x.1 = die
/-- The flush areas of a memory die have to move, and what waited is served. -/
def dieServed (s : State) (n : Nat) : State :=
  let s := if s.mgmt.memDies.contains n then { s with mgmt := { s.mgmt with flushMove := true } } else s
  let s := s.home.dir.foldl (fun s e => agentsLeave s (fun a => (agentCore a).any fun c => socketOf c = n) e) s
  pumpRecords (serveHeld (settleDraws s))

theorem quarantineDie_eq {n : Nat} (h : s.mgmt.badSockets.contains n = false) : quarantineDie s n = dieServed (dieEmptied (dieLost s n) n) n := by
  unfold quarantineDie
  rw [if_neg (by rw [h]; decide)]
  unfold dieServed dieEmptied dieLost
  dsimp only

theorem dieLost_mgmt (s : State) (n : Nat) :
    quarantine (dieLost s n).mgmt = (s.mgmt.badSockets ++ [n], true, s.mgmt.flushMove, s.mgmt.memDies) :=
  (foldl_noNewBlocks loseCore_noNewBlocks _ _).kept
theorem dieLost_ids {n : Nat} (h : IdsOnce s) : IdsOnce (dieLost s n) := (foldl_noNewBlocks loseCore_noNewBlocks _ _).ids h

/-- What follows the killing of a die's blocks gives none of its cores another. -/
theorem dieEmptied_killed (s : State) (n : Nat) : NoNewBlocks (killOn s fun c => socketOf c = n) (dieEmptied s n) := by
  unfold dieEmptied
  refine .trans (.trans ?_ (losePlaced_noNewBlocks _ _ _)) (loseProxies_noNewBlocks _ _)
  exact noNewBlocks_of_eq rfl

theorem dieServed_moves (s : State) (n : Nat) :
    NoNewBlocks (if s.mgmt.memDies.contains n then { s with mgmt := { s.mgmt with flushMove := true } } else s) (dieServed s n) := by
  refine .trans ?_ (pumpRecords_noNewBlocks _)
  refine .trans ?_ (noNewBlocks_of_within (serveHeld_within _))
  refine .trans ?_ (settleDraws_noNewBlocks _)
  exact foldl_noNewBlocks (fun s e => agentsLeave_noNewBlocks s _ e) _ _

/-- The quarantine of a die: its cores hold no block, and the flush areas move off a memory die. -/
theorem quarantineDie_lost {n : Nat} (hd : IdsOnce s) (h : s.mgmt.badSockets.contains n = false) :
    let t := quarantineDie s n
    t.mgmt.badSockets = s.mgmt.badSockets ++ [n] ∧ t.mgmt.replace = true ∧ (∀ k ∈ t.allCores, socketOf k.id = n → k.blocks = [])
      ∧ (s.mgmt.memDies.contains n = true → t.mgmt.flushMove = true) := by
  intro t
  have ht : t = dieServed (dieEmptied (dieLost s n) n) n := quarantineDie_eq h
  have hk := killOn_within (dieLost s n) fun c => socketOf c = n
  have he := dieEmptied_killed (dieLost s n) n
  have hs := dieServed_moves (dieEmptied (dieLost s n) n) n
  have hmgmt : quarantine (dieEmptied (dieLost s n) n).mgmt = (s.mgmt.badSockets ++ [n], true, s.mgmt.flushMove, s.mgmt.memDies) := by
    rw [he.kept, hk.mgmt, dieLost_mgmt]
  rw [← ht] at hs
  generalize dieEmptied (dieLost s n) n = u at he hs hmgmt
  have hids : IdsOnce u := he.ids (hk.ids (dieLost_ids hd))
  have hbare : ∀ c, socketOf c = n → (u.coreAt c).blocks = [] := fun c hc => he.bare c (killOn_bare _ (decide_eq_true hc))
  simp only [quarantine, Prod.mk.injEq] at hmgmt
  obtain ⟨hbad, hrep, hflush, hdies⟩ := hmgmt
  have hkept := hs.kept
  simp only [quarantine, Prod.mk.injEq] at hkept
  obtain ⟨kbad, krep, kflush, -⟩ := hkept
  refine ⟨?_, ?_, fun k hk hn => ?_, fun hm => ?_⟩
  · rw [kbad, ← hbad]
    split <;> rfl
  · rw [krep, ← hrep]
    split <;> rfl
  · have hc : (u.coreAt k.id).blocks = [] := hbare k.id hn
    rw [← coreAt_of_mem (hs.ids (by split <;> exact hids)) hk]
    exact hs.bare k.id (by split <;> exact hc)
  · rw [kflush, if_pos (by rw [hdies]; exact hm)]

theorem portLinkFailure_quarantines {n : Nat} {s : State} (h : s.mgmt.badPorts.contains n = false) : exec (.rookPortLinkFailure n) s
    = .next { s with mgmt := { s.mgmt with badPorts := s.mgmt.badPorts ++ [n], replace := true } } := by
  show Host.Outcome.next (quarantinePort s n) = _
  unfold quarantinePort
  rw [h]
  rfl

end Sys2Proof.Quarantines

namespace Sys2Proof.FabricAndPowerEventsProof
open Sys2Proof.Machine Sys2Proof.Safety Sys2Proof.FabricSteps Sys2Proof.FailedNodes Sys2Proof.SoftErrors Sys2Proof.Clocks Sys2Proof.Quarantines

/-- Settles O42: the lease and failure events by the records they change, the boundary by induction over the clusters (`Granted`), the lost die
by what follows the killing of its blocks, which places none (`NoNewBlocks`). -/
theorem fabricAndPowerEvents : Obligations.FabricAndPowerEvents := by
  unfold Obligations.FabricAndPowerEvents
  refine ⟨leaseRenewal_self, fun n s hn => leaseRenewal_other hn, fun s => leaseExpiry_due, fun s => leaseExpiry_early, ?_, ?_, fun s => rfl, ?_,
    fun n s => portLinkFailure_quarantines, ?_, fun c line s => softError_l1, fun s => ⟨_, rfl, rfl⟩, ?_, tempoBoundary_ends⟩
  · exact fun line n s e he h4 ha => ⟨fanoutTimeout_due he h4 ha, fanoutTimeout_idle he, reroute_sends he h4 ha⟩
  · exact fun n s e hn hheld _ hdir hh _ hs => nodeDeclaredFailed_only hn hheld hdir hh hs
  · exact fun n s hd h => ⟨_, rfl, quarantineDie_lost hd.1 h⟩
  · exact fun arr s h => ⟨_, softError_corrected h, rfl⟩
  · exact fun n s => clockControl_retimes n s

end Sys2Proof.FabricAndPowerEventsProof
end

section
namespace Sys2Proof.Copying
open Sys2Proof.Machine Sys2Proof.Safety Sys2Proof.Laws Sys2Proof.Frame Sys2Proof.WarpSteps

/-! # Copies: their lines, their chunks, their ends (R104, R123, R126, R129) -/

variable {s t u : State} {c b : Nat} {x y : Copy} {B : Block}

/-! ### What serving the requests that wait leaves to the copy engines (R69, R104) -/

/-- Every core has the same copies and the same blocks, and every warp is of the block and in the wait of a warp that stood at its core. -/
structure CopiesKept (s t : State) : Prop where
  copies : ∀ c, (t.coreAt c).copies = (s.coreAt c).copies
  blocks : ∀ c, (t.coreAt c).blocks = (s.coreAt c).blocks
  waits : ∀ c, ∀ w ∈ t.warpsOf c, ∃ v ∈ s.warpsOf c, v.bslot = w.bslot ∧ v.wait = w.wait

theorem CopiesKept.refl (s : State) : CopiesKept s s := ⟨fun _ => rfl, fun _ => rfl, fun _ w hw => ⟨w, hw, rfl, rfl⟩⟩

theorem CopiesKept.trans (h : CopiesKept s t) (g : CopiesKept t u) : CopiesKept s u := by
  refine ⟨fun c => (g.copies c).trans (h.copies c), fun c => (g.blocks c).trans (h.blocks c), fun c w hw => ?_⟩
  obtain ⟨v, hv, e1, e2⟩ := g.waits c w hw
  obtain ⟨v', hv', e1', e2'⟩ := h.waits c v hv
  exact ⟨v', hv', e1'.trans e1, e2'.trans e2⟩

theorem CopiesKept.of_fst {β : Type} {p : State × β} {v : β} (h : CopiesKept s p.1) (e : p = (t, v)) : CopiesKept s t := by
  rw [e] at h
  exact h

theorem CopiesKept.blockAt (h : CopiesKept s t) (c b : Nat) : t.blockAt c b = s.blockAt c b := by
  unfold State.blockAt
  rw [h.blocks]

/-- No warp of the block waits with an HSET.DRAIN for the handle (R129). -/
def NoDrain (s : State) (c b h : Nat) : Prop := ∀ w ∈ s.blockWarps c b, w.wait ≠ .handleDrain h

theorem noDrain_congr {h : Nat} (e : t.warpsOf c = s.warpsOf c) : NoDrain t c b h ↔ NoDrain s c b h := by
  unfold NoDrain State.blockWarps
  rw [e]

theorem CopiesKept.noDrain {h : Nat} (k : CopiesKept s t) (hd : NoDrain s c b h) : NoDrain t c b h := by
  intro w hw
  obtain ⟨hw, hb⟩ := List.mem_filter.1 hw
  obtain ⟨v, hv, e1, e2⟩ := k.waits c w hw
  rw [← e2]
  exact hd v (List.mem_filter.2 ⟨hv, by rw [e1]; exact hb⟩)

/-- A change that leaves the cores and the issuing warp alone. -/
theorem kept_of_cores (e : (t.cur, t.core, t.cores) = (s.cur, s.core, s.cores)) : CopiesKept s t := by
  simp only [Prod.mk.injEq] at e
  obtain ⟨e1, e2, e3⟩ := e
  have hc : ∀ c, t.coreAt c = s.coreAt c := fun c => by simp only [State.coreAt, e2, e3]
  refine ⟨fun c => by rw [hc], fun c => by rw [hc], fun c => ?_⟩
  rw [warpsOf_congr e1 (by rw [e2]) (by rw [hc])]
  exact (CopiesKept.refl s).waits c

/-- Every core keeps its copies and blocks when one core changes in other fields. -/
theorem modCore_units (s : State) (c : Nat) {f : Core → Core}
    (hf : ∀ k, ((f k).id, (f k).copies, (f k).blocks) = (k.id, k.copies, k.blocks)) (d : Nat) :
    ((s.modCore c f).coreAt d).copies = (s.coreAt d).copies ∧ ((s.modCore c f).coreAt d).blocks = (s.coreAt d).blocks := by
  simp only [Prod.mk.injEq] at hf
  rw [coreAt_modCore s fun k => (hf k).1]
  split
  · rename_i e
    rw [e]
    exact (hf _).2
  · exact ⟨rfl, rfl⟩

/-- A change of a core that leaves its copies, blocks and warps alone. -/
theorem modCore_kept (s : State) (c : Nat) {f : Core → Core}
    (hf : ∀ k, ((f k).id, (f k).copies, (f k).blocks, (f k).warps) = (k.id, k.copies, k.blocks, k.warps)) : CopiesKept s (s.modCore c f) := by
  simp only [Prod.mk.injEq] at hf
  have hu := modCore_units s c (f := f) fun k => by
    obtain ⟨hid, hcopies, hblocks, -⟩ := hf k
    rw [hid, hcopies, hblocks]
  refine ⟨fun d => (hu d).1, fun d => (hu d).2, fun d => ?_⟩
  rw [warpsOf_modCore s c d fun k => by
    obtain ⟨hid, -, -, hwarps⟩ := hf k
    rw [hid, hwarps]]
  exact (CopiesKept.refl s).waits d

/-- A warp that comes from one of the core is put there. -/
theorem setWarp_kept {w : Warp} (hw : ∃ v ∈ s.warpsOf c, v.bslot = w.bslot ∧ v.wait = w.wait) : CopiesKept s (s.setWarp c w) := by
  unfold State.setWarp
  split
  · rename_i hc
    obtain ⟨-, hid, -⟩ := isCur_iff.1 hc
    refine ⟨fun _ => rfl, fun _ => rfl, fun d v hv => ?_⟩
    obtain ⟨-, hd, rfl⟩ | hv := mem_warpsOf.1 hv
    · exact hid.symm.trans hd ▸ hw
    · exact ⟨v, mem_warpsOf.2 (.inr hv), rfl, rfl⟩
  · have hu := modCore_units s c (f := fun k => { k with warps := putBy (fun x => x.slot = w.slot) w k.warps }) fun _ => rfl
    refine ⟨fun d => (hu d).1, fun d => (hu d).2, fun d v hv => ?_⟩
    rw [mem_warpsOf, coreAt_modCore s fun k => by exact rfl] at hv
    obtain ⟨h1, h2, rfl⟩ | hv := hv
    · exact ⟨s.cur, mem_warpsOf.2 (.inl ⟨by simpa using h1, by simpa using h2, rfl⟩), by simp, by simp⟩
    · split at hv
      · rename_i e
        obtain rfl | ⟨hv, -⟩ := mem_putBy hv
        · exact e ▸ hw
        · exact ⟨v, mem_warpsOf.2 (.inr (e ▸ hv)), rfl, rfl⟩
      · exact ⟨v, mem_warpsOf.2 (.inr hv), rfl, rfl⟩

theorem modWarp_kept (s : State) (c slot : Nat) {f : Warp → Warp} (hf : ∀ w, ((f w).bslot, (f w).wait) = (w.bslot, w.wait)) :
    CopiesKept s (s.modWarp c slot f) := by
  simp only [Prod.mk.injEq] at hf
  unfold State.modWarp
  split
  · rename_i w hw
    exact setWarp_kept ⟨w, (warpAt_some hw).1, (hf w).1.symm, (hf w).2.symm⟩
  · exact .refl s

theorem foldl_kept {α : Type} {f : State → α → State} (hf : ∀ s a, CopiesKept s (f s a)) (l : List α) (s : State) : CopiesKept s (l.foldl f s) :=
  foldl_rel .refl .trans hf l s

theorem readGran_kept (s : State) (pa n key : Nat) : CopiesKept s (readGran s pa n key).1 := by
  unfold readGran
  split <;> exact kept_of_cores rfl

theorem mergeGran_kept (s : State) (pa : Nat) (d : List Byte) (key : Nat) : CopiesKept s (mergeGran s pa d key).1 := by
  unfold mergeGran
  dsimp only
  split
  · exact kept_of_cores rfl
  · split <;> exact kept_of_cores rfl

theorem tagLine_kept (s : State) (line : Nat) (whole : Bool) (tag : Option (Nat × BitVec 16)) (drained : Bool) :
    CopiesKept s (tagLine s line whole tag drained) := by
  unfold tagLine
  cases whole <;> cases tag <;> cases drained <;> exact kept_of_cores rfl

theorem enterTag_kept (s : State) (core line : Nat) (e : BitVec 16) : CopiesKept s (enterTag s core line e) :=
  ite_rel (tagLine_kept s line _ _ _) (ite_rel (kept_of_cores rfl) (tagLine_kept s line _ _ _))

/-- A record of a launch joins those that wait to be written, and nothing else changes. -/
theorem launchRecord_records (s : State) (r : Rec) (unit : Option FaultUnit := none) : ∃ l, launchRecord s r unit = { s with records := l } := by
  unfold launchRecord
  split
  · exact ⟨_, rfl⟩
  · exact ⟨_, rfl⟩

theorem launchRecord_kept (s : State) (r : Rec) (unit : Option FaultUnit := none) : CopiesKept s (launchRecord s r unit) := by
  obtain ⟨l, e⟩ := launchRecord_records s r unit
  rw [e]
  exact kept_of_cores rfl

theorem recallStashAt_kept (s : State) (core line : Nat) (write : Bool) : CopiesKept s (recallStashAt s core line write) := by
  have back : ∀ s k st l, CopiesKept s (stashWriteBack s k st l) := fun s k st l => by
    unfold stashWriteBack
    split
    · exact mergeGran_kept s _ _ _
    · exact .refl s
  unfold recallStashAt
  refine ite_rel (.refl s) (.trans ?_ (modCore_kept _ core fun _ => rfl))
  exact foldl_kept (fun s st => foldl_kept (fun s l => ite_rel (back s _ _ _) (.refl s)) _ s) _ s

theorem mergeUpd_kept (s : State) (core line : Nat) : CopiesKept s (mergeUpd s core line) := by
  unfold mergeUpd
  split
  · exact .refl s
  · rename_i u _
    dsimp only
    have h := (modCore_kept s core (f := fun k => { k with upd := k.upd.filter fun x => x.line ≠ line }) fun _ => rfl).trans
      (readGran_kept _ (line * 64) 64 u.key)
    split <;> rename_i e <;> replace h := h.of_fst e
    · exact h.trans (launchRecord_kept _ _)
    · have hput : ∀ s pa d, CopiesKept s (State.homePut s pa d) := fun _ _ _ => kept_of_cores rfl
      split
      · exact h.trans (foldl_kept (fun _ _ => hput _ _ _) _ _)
      · exact .trans (h.trans (foldl_kept (fun _ _ => hput _ _ _) _ _)) (enterTag_kept _ _ _ _)

theorem recallLine_kept (s : State) (line : Nat) (write : Bool) : CopiesKept s (recallLine s line write) :=
  (foldl_kept (fun s c => mergeUpd_kept s c line) _ s).trans (foldl_kept (fun s c => recallStashAt_kept s c line write) _ _)

theorem startRecall_kept (s : State) (line : Nat) (write : Bool) : CopiesKept s (startRecall s line write) := by
  unfold startRecall
  split <;> exact kept_of_cores rfl

theorem dirRoom_kept (s : State) (line : Nat) : CopiesKept s (dirRoom s line).1 := by
  unfold dirRoom
  dsimp only
  split_ifs
  · exact kept_of_cores rfl
  · exact kept_of_cores rfl
  · split
    · exact .refl s
    · split_ifs
      · exact startRecall_kept s _ _
      · exact (recallLine_kept s _ _).trans (kept_of_cores rfl)

theorem performReq_kept (s : State) (h : HeldReq) : CopiesKept s (performReq s h).1 := by
  unfold performReq
  dsimp only
  split
  · split
    · exact .refl s
    · dsimp only
      split <;> exact kept_of_cores rfl
  · have h0 := recallLine_kept s (h.req.pa / 64) (opWrites h.req.op)
    split
    · exact h0.trans (kept_of_cores rfl)
    · exact h0.trans (kept_of_cores rfl)
    · dsimp only
      exact h0.trans (tagLine_kept _ _ _ _ _)
    · rename_i d _ _
      have h1 := h0.trans (mergeGran_kept _ h.req.pa d h.req.key)
      split <;> replace h1 := h1.of_fst (by assumption)
      · exact h1.trans (tagLine_kept _ _ _ _ _)
      · exact h1
    · have h1 := h0.trans (readGran_kept _ h.req.pa (opBytes h.req.op) h.req.key)
      split <;> replace h1 := h1.of_fst (by assumption)
      · exact h1
      · dsimp only
        split
        · exact h1.trans (.trans (t := State.homePut _ _ _) (kept_of_cores rfl) (tagLine_kept _ _ _ _ _))
        · exact h1

theorem attempt_kept (s : State) (h : HeldReq) (ahead : List HeldReq) : CopiesKept s (attempt s h ahead).1 := by
  have hroom : CopiesKept s (if opTracks h.req.op && h.node.isNone then dirRoom s (h.req.pa / 64) else (s, true)).1 := by
    split
    · exact dirRoom_kept s _
    · exact .refl s
  unfold attempt
  split
  · exact startRecall_kept s _ _
  split
  · exact .refl s
  split <;> replace hroom := hroom.of_fst (by assumption)
  · exact hroom
  · split <;> exact hroom.trans ((performReq_kept _ _).of_fst (by assumption))

theorem landLane_waits (w : Warp) (l : Nat) (r : Except Trap Dword) : ((w.landLane l r).bslot, (w.landLane l r).wait) = (w.bslot, w.wait) := by
  cases r <;> rfl

theorem mergeFailed_kept (s : State) (h : HeldReq) (e : Nat) : CopiesKept s (mergeFailed s h e) := by
  unfold mergeFailed
  dsimp only
  split
  · exact ite_rel (modWarp_kept s _ _ fun _ => rfl) (launchRecord_kept s _)
  · split
    · exact launchRecord_kept s _
    · exact .refl s

theorem reply_kept (s : State) (h : HeldReq) (r : Except Nat Dword) : CopiesKept s (reply s h r) := by
  unfold reply
  split
  · split
    · exact modWarp_kept s _ _ fun w => landLane_waits w _ _
    · exact modCore_kept s _ fun _ => rfl
  · split
    · exact ite_rel (.refl s) (kept_of_cores rfl)
    · exact ite_rel (.refl s) (kept_of_cores rfl)
    · exact modCore_kept s _ fun _ => rfl
    · exact mergeFailed_kept s h _
    · exact .refl s

theorem serveHeldFrom_kept (s : State) (kept l : List HeldReq) : CopiesKept s (serveHeldFrom s kept l) := by
  induction l generalizing s kept with
  | nil => exact kept_of_cores rfl
  | cons h r ih =>
    unfold serveHeldFrom
    split
    · exact ih s _
    · have h1 : CopiesKept s { s with home := { s.home with held := kept ++ r } } := kept_of_cores rfl
      replace h1 := h1.trans (attempt_kept _ h kept)
      dsimp only
      split <;> replace h1 := h1.of_fst (by assumption)
      · exact h1.trans (ih _ _)
      · exact h1.trans ((reply_kept _ h _).trans (ih _ _))
      · exact h1.trans ((reply_kept _ h _).trans (ih _ _))

/-- The requests that waited are served without a change of a copy, a block, or what a warp waits for. -/
theorem serveHeld_kept (s : State) : CopiesKept s (serveHeld s) := ite_rel (.refl s) (serveHeldFrom_kept s _ _)

/-! ### Handles and batches (R126, R129) -/

/-- The homes and the copies of every core are the same: only blocks and warps change. -/
structure BlocksOnly (s t : State) : Prop where
  home : t.home = s.home
  copies : ∀ c, (t.coreAt c).copies = (s.coreAt c).copies

theorem BlocksOnly.refl (s : State) : BlocksOnly s s := ⟨rfl, fun _ => rfl⟩
theorem BlocksOnly.trans (h : BlocksOnly s t) (g : BlocksOnly t u) : BlocksOnly s u :=
  ⟨g.home.trans h.home, fun c => (g.copies c).trans (h.copies c)⟩

theorem modBlock_blocksOnly (s : State) (c b : Nat) (f : Block → Block) : BlocksOnly s (s.modBlock c b f) := by
  refine ⟨by simp, fun d => ?_⟩
  unfold State.modBlock
  rw [coreAt_modCore s fun k => by exact rfl]
  split
  · rename_i e
    rw [e]
  · rfl

theorem coreAt_mapWarps (s : State) (c d : Nat) (f : Warp → Warp) :
    (s.mapWarps c f).coreAt d = (s.modCore c fun k => { k with warps := k.warps.map f }).coreAt d := by
  unfold State.mapWarps
  dsimp only
  split <;> rfl

theorem mapWarps_blocksOnly (s : State) (c : Nat) (f : Warp → Warp) : BlocksOnly s (s.mapWarps c f) := by
  refine ⟨by simp, fun d => ?_⟩
  rw [coreAt_mapWarps]
  exact (modCore_units s c (fun k => by exact rfl) d).1

theorem handleFull_blocksOnly (s : State) (c b h : Nat) : BlocksOnly s (handleFull s c b h) :=
  (modBlock_blocksOnly s c b _).trans (mapWarps_blocksOnly _ c _)

theorem retireFrom_blocksOnly (s : State) (c b fuel : Nat) : BlocksOnly s (retireFrom s c b fuel) := by
  induction fuel generalizing s with
  | zero => exact .refl s
  | succ fuel ih =>
    unfold retireFrom
    split
    · exact .refl s
    · exact ite_rel ((modBlock_blocksOnly s c b _).trans (ih _)) (.refl s)

theorem blockAt_modBlock {f : Block → Block} (hf : ∀ x, (f x).bslot = x.bslot) (hB : s.blockAt c b = some B) :
    (s.modBlock c b f).blockAt c b = some (f B) := by
  have hslot : ((fun y : Block => decide (y.bslot = b)) ∘ fun y => if decide (y.bslot = b) = true then f y else y)
      = fun y => decide (y.bslot = b) := by
    funext y
    by_cases hy : y.bslot = b <;> simp [hy, hf]
  have hb : B.bslot = b := by simpa using List.find?_some hB
  unfold State.blockAt State.modBlock at *
  rw [coreAt_modCore_same _ _ _ (by simp)]
  simp only [replaceBy, List.find?_map, hslot, hB]
  simp [hb]

theorem blockAt_mapWarps (s : State) (c b : Nat) (f : Warp → Warp) : (s.mapWarps c f).blockAt c b = s.blockAt c b := by
  unfold State.blockAt
  rw [coreAt_mapWarps, (modCore_units s c (fun k => by exact rfl) c).2]

/-- What a change of a handle makes of its block. -/
def withHandle (B : Block) (h : Nat) (f : Handle → Handle) : Block := { B with handles := B.handles.setIfInBounds h (f (B.handles.getD h {})) }

theorem getD_withHandle (B : Block) (h : BitVec 5) (f : Handle → Handle) :
    (withHandle B h.toNat f).handles.getD h.toNat {} = f (B.handles.getD h.toNat {}) := by
  have hlt : h.toNat < 32 := h.isLt
  simp [withHandle, Vector.getD, hlt]

theorem blockAt_setHandle {h : Nat} {f : Handle → Handle} (hB : s.blockAt c b = some B) :
    (setHandle s c b h f).blockAt c b = some (withHandle B h f) := blockAt_modBlock (fun _ => rfl) hB

theorem warpsOf_setHandle (s : State) (c b h d : Nat) (f : Handle → Handle) : (setHandle s c b h f).warpsOf d = s.warpsOf d :=
  warpsOf_modCore s c d fun _ => rfl

/-- A handle that enters FULL stays there when no HSET.DRAIN waits for it (R129). -/
theorem blockAt_handleFull {h : Nat} (hd : NoDrain s c b h) (hB : s.blockAt c b = some B) :
    (handleFull s c b h).blockAt c b = some (withHandle B h fun x => { x with waitF := 0 }) := by
  have hnone : ((s.blockWarps c b).any fun w => decide (w.wait = .handleDrain h)) = false := by simpa [NoDrain] using hd
  unfold handleFull
  rw [blockAt_mapWarps, hnone]
  exact blockAt_setHandle hB

/-- A block whose batches retire keeps everything but their count (R126). -/
theorem blockAt_retireFrom (fuel : Nat) (hB : s.blockAt c b = some B) :
    ∃ n, (retireFrom s c b fuel).blockAt c b = some { B with retired := n } := by
  induction fuel generalizing s B with
  | zero => exact ⟨_, hB⟩
  | succ fuel ih =>
    unfold retireFrom
    rw [hB]
    dsimp only
    split
    · obtain ⟨n, hn⟩ := ih (blockAt_modBlock (f := fun b => { b with retired := b.retired + 1 }) (fun _ => rfl) hB)
      exact ⟨n, hn⟩
    · exact ⟨_, hB⟩

/-! ### A copy completes (R116, R129) -/

theorem dropCopy_copies (s : State) (c : Nat) (x : Copy) :
    ((dropCopy s c x).coreAt c).copies = (s.coreAt c).copies.filter fun y => y.no ≠ x.no := by
  show ((s.modCore c _).coreAt c).copies = _
  rw [coreAt_modCore_same _ _ _ (by simp)]

theorem dropCopy_home (hh : s.home.held = []) : (dropCopy s c x).home = s.home := by
  unfold dropCopy dropPlaces
  simp only [State.modCore_home, hh, List.filter_nil]
  rw [← hh]

theorem blockAt_dropCopy (s : State) (c b : Nat) (x : Copy) : (dropCopy s c x).blockAt c b = s.blockAt c b :=
  blockAt_modCore s c c b fun _ => rfl

theorem warpsOf_dropCopy (s : State) (c : Nat) (x : Copy) : (dropCopy s c x).warpsOf c = s.warpsOf c :=
  warpsOf_modCore s c c fun _ => rfl

/-- Beyond what the release of its lines lets go on, a completed copy changes blocks and warps only. -/
theorem finishCopy_blocksOnly (s : State) (c : Nat) (x : Copy) : BlocksOnly (serveHeld (dropCopy s c x)) (finishCopy s c x) := by
  unfold finishCopy
  split
  · exact .refl _
  · refine .trans ?_ (retireFrom_blocksOnly _ c _ _)
    split
    · exact (modBlock_blocksOnly _ c _ _).trans (handleFull_blocksOnly _ c _ _)
    · exact .refl _

theorem finishCopy_copies (s : State) (c : Nat) (x : Copy) :
    ((finishCopy s c x).coreAt c).copies = (s.coreAt c).copies.filter fun y => y.no ≠ x.no := by
  rw [(finishCopy_blocksOnly s c x).copies, (serveHeld_kept _).copies, dropCopy_copies]

theorem finishCopy_home (hh : s.home.held = []) : (finishCopy s c x).home = s.home := by
  have hdrop : (dropCopy s c x).home = s.home := dropCopy_home hh
  rw [(finishCopy_blocksOnly s c x).home, serveHeld_empty (by rw [hdrop, hh]), hdrop]

/-- The handle of a completed copy is FULL, at the copy's length, when no HSET.DRAIN waits for it (R129). -/
theorem finishCopy_block {h : BitVec 5} (hb : x.bslot = some b) (hh : x.handle = some h) (hB : s.blockAt c b = some B)
    (hd : NoDrain s c b h.toNat) :
    ∃ B', (finishCopy s c x).blockAt c b = some B' ∧ B'.local_ = B.local_ ∧ (B'.handles.getD h.toNat {}).deliv = x.len
      ∧ (B'.handles.getD h.toNat {}).state = 2 := by
  have hk := serveHeld_kept (dropCopy s c x)
  have hB1 : (serveHeld (dropCopy s c x)).blockAt c b = some B := by rw [hk.blockAt, blockAt_dropCopy, hB]
  have hd1 : NoDrain (serveHeld (dropCopy s c x)) c b h.toNat := hk.noDrain ((noDrain_congr (warpsOf_dropCopy s c x)).2 hd)
  unfold finishCopy
  rw [hb, hh]
  dsimp only
  have hfull := blockAt_handleFull ((noDrain_congr (warpsOf_setHandle _ c b h.toNat c _)).2 hd1)
    (blockAt_setHandle (f := fun y => { y with state := 2, deliv := x.len }) hB1)
  obtain ⟨n, hret⟩ := blockAt_retireFrom 17 hfull
  exact ⟨_, hret, rfl, by simp only [getD_withHandle], by simp only [getD_withHandle]⟩

/-! ### A chunk is delivered (R123) -/

/-- The watches of an access only add records (R430). -/
theorem engWatch_records (s : State) (launch : Word) (done : List Nat) (va : Dword) (n : Nat) (write : Bool) (r : Rec) :
    ∃ l, (engWatch s launch done va n write r).1 = { s with records := l } := by
  unfold engWatch
  dsimp only
  split
  · exact ⟨_, rfl⟩
  · suffices hf : ∀ (hits : List (Nat × Nat)) (p : State × List Nat), (∃ l, p.1 = { s with records := l }) →
        ∃ l, (hits.foldl _ p).1 = { s with records := l } from hf _ (s, done) ⟨_, rfl⟩
    intro hits
    induction hits with
    | nil => exact fun _ h => h
    | cons hit hits ih =>
      refine fun p hp => ih _ ?_
      obtain ⟨v, seen⟩ := p
      obtain ⟨l, rfl⟩ := hp
      dsimp only
      split
      · exact ⟨l, rfl⟩
      · obtain ⟨l', e⟩ := launchRecord_records { s with records := l }
          { r with code := 0x3F, sub := if write then 3 else 2, kind := 3, addr := BitVec.ofNat 64 hit.2 }
        exact ⟨l', e⟩

/-- A copy's write-pointer at its handle (R123). -/
def showPointer (s : State) (c : Nat) (y : Copy) : State :=
  match y.bslot, y.handle with
  | some b, some h => setHandle s c b h.toNat fun z => { z with deliv := y.deliv }
  | _, _ => s

/-- What follows the write of a chunk: the copy's new record `y` takes the place of `x`, its write-pointer moves, what waited at the line is
served, and the copy completes when all is delivered. -/
def chunkDone (s : State) (c : Nat) (x y : Copy) : State :=
  let s := serveHeld (showPointer (setCopy s c x y) c y)
  if y.deliv ≥ y.len then finishCopy s c y else s

/-- A copy that reads its pieces and writes them goes on behind its chunk. -/
theorem deliverStep_written {ch : BitVec 2} {s1 s2 : State} {z : Copy} {d : List Byte} (hx : chanHead s c ch = some x) (ho : x.owned = true)
    (hr : x.status = .running) (hl : x.deliv < x.len)
    (hread : readPieces s c x (piecesOf x x.deliv (nextPointer x - x.deliv)) = (s1, z, .ok d))
    (hwrite : engWrite s1 (copyCtx s1 c x) (copyIssuer c x) x.lines (x.dst + BitVec.ofNat 64 x.deliv) d = (s2, .ok true)) :
    ∃ l seen, deliverStep s c ch = some (chunkDone { s2 with records := l } c x
      { x with deliv := x.deliv + (nextPointer x - x.deliv), watched := seen, elem := z.elem
               lines := x.lines.filter fun o => o.va ≠ (x.dst + BitVec.ofNat 64 x.deliv).toNat / 64 * 64 }) := by
  obtain ⟨l, hw⟩ := engWatch_records s2 x.launch z.watched (x.dst + BitVec.ofNat 64 x.deliv) (nextPointer x - x.deliv) true
    (copyRecord c x (trap 0x3F 3) 3)
  refine ⟨l, (engWatch s2 x.launch z.watched (x.dst + BitVec.ofNat 64 x.deliv) (nextPointer x - x.deliv) true
    (copyRecord c x (trap 0x3F 3) 3)).2, ?_⟩
  rw [← hw]
  unfold deliverStep
  rw [hx]
  dsimp only
  rw [if_neg (by simp [ho, hr]), if_neg (by omega), hread]
  dsimp only
  rw [hwrite]
  rfl

theorem setCopy_copies (s : State) (c : Nat) (x y : Copy) :
    ((setCopy s c x y).coreAt c).copies = (s.coreAt c).copies.map fun z => if z.no = x.no then y else z := by
  unfold setCopy
  rw [coreAt_modCore_same _ _ _ (by simp)]

theorem blockAt_setCopy : (setCopy s c x y).blockAt c b = s.blockAt c b := blockAt_modCore s c c b fun _ => rfl
theorem warpsOf_setCopy : (setCopy s c x y).warpsOf c = s.warpsOf c := warpsOf_modCore s c c fun _ => rfl

theorem showPointer_blocksOnly (s : State) (c : Nat) (y : Copy) : BlocksOnly s (showPointer s c y) := by
  unfold showPointer
  split
  · exact modBlock_blocksOnly s c _ _
  · exact .refl s

/-- The new record stands in its channel, and is gone from it when the copy has completed. -/
theorem chunkDone_copies (s : State) (c : Nat) (hno : y.no = x.no) :
    ((chunkDone s c x y).coreAt c).copies = if y.deliv < y.len then (s.coreAt c).copies.map fun z => if z.no = x.no then y else z
      else ((s.coreAt c).copies.map fun z => if z.no = x.no then y else z).filter fun z => z.no ≠ x.no := by
  have hmoved : ((serveHeld (showPointer (setCopy s c x y) c y)).coreAt c).copies
      = (s.coreAt c).copies.map fun z => if z.no = x.no then y else z := by
    rw [(serveHeld_kept _).copies, (showPointer_blocksOnly _ c y).copies, setCopy_copies]
  unfold chunkDone
  dsimp only
  by_cases hl : y.deliv < y.len
  · rw [if_pos hl, if_neg (by omega), hmoved]
  · rw [if_neg hl, if_pos (by omega), finishCopy_copies, hmoved, hno]

theorem chunkDone_home (hh : s.home.held = []) : (chunkDone s c x y).home = s.home := by
  have hshown : (showPointer (setCopy s c x y) c y).home = s.home := by
    rw [(showPointer_blocksOnly _ c y).home]
    exact State.modCore_home s c _
  have hserved : (serveHeld (showPointer (setCopy s c x y) c y)).home = s.home := by
    rw [serveHeld_empty (by rw [hshown, hh]), hshown]
  unfold chunkDone
  dsimp only
  split
  · rw [finishCopy_home (by rw [hserved, hh]), hserved]
  · exact hserved

/-- The handle shows the copy's new write-pointer, and is FULL when the copy has completed (R123, R129). -/
theorem chunkDone_block {h : BitVec 5} (hb : y.bslot = some b) (hh : y.handle = some h) (hle : y.deliv ≤ y.len)
    (hB : s.blockAt c b = some B) (hd : NoDrain s c b h.toNat) :
    ∃ B', (chunkDone s c x y).blockAt c b = some B' ∧ B'.local_ = B.local_ ∧ (B'.handles.getD h.toNat {}).deliv = y.deliv
      ∧ (y.deliv = y.len → (B'.handles.getD h.toNat {}).state = 2) := by
  have hk := serveHeld_kept (showPointer (setCopy s c x y) c y)
  have hshow : showPointer (setCopy s c x y) c y = setHandle (setCopy s c x y) c b h.toNat fun z => { z with deliv := y.deliv } := by
    unfold showPointer
    rw [hb, hh]
  have hB1 : (serveHeld (showPointer (setCopy s c x y) c y)).blockAt c b = some (withHandle B h.toNat fun z => { z with deliv := y.deliv }) := by
    rw [hk.blockAt, hshow]
    exact blockAt_setHandle (blockAt_setCopy.trans hB)
  have hd1 : NoDrain (serveHeld (showPointer (setCopy s c x y) c y)) c b h.toNat := by
    refine hk.noDrain ((noDrain_congr ?_).2 hd)
    rw [hshow, warpsOf_setHandle, warpsOf_setCopy]
  unfold chunkDone
  dsimp only
  by_cases hl : y.deliv < y.len
  · rw [if_neg (by omega)]
    exact ⟨_, hB1, rfl, by rw [getD_withHandle], fun e => by omega⟩
  · rw [if_pos (by omega)]
    obtain ⟨B', h1, h2, h3, h4⟩ := finishCopy_block hb hh hB1 hd1
    exact ⟨B', h1, h2, by omega, fun _ => h4⟩

end Sys2Proof.Copying

namespace Sys2Proof.CopyEventsProof
open Sys2Proof.Machine Sys2Proof.Laws Sys2Proof.Copying

variable {s : State} {c : Nat} {x : Copy}

/-- A channel's number, read again as a channel. -/
theorem ofNat_chan (ch : BitVec 2) : BitVec.ofNat 2 ch.toNat = ch := by simp

/-- The head copy that has taken all its lines owns them (R104). -/
theorem ownershipPoint_takes {ch : BitVec 2} {s1 : State} {got : List Owned} (hx : chanHead s c ch = some x) (ho : x.owned = false)
    (hr : x.status = .running)
    (htake : takeLines s (copyCtx s c x) (copyIssuer c x) x.lines
      (if inAperture x.dst then [] else lineAddrs (x.dst.toNat + x.deliv) (x.len - x.deliv)) = (s1, got, .ok ())) :
    exec (.ownershipPoint c ch.toNat) s = .next (pumpRecords (serveHeld (s1.modCore c fun k => { k with
      copies := k.copies.map fun y => if y.no = x.no then { x with owned := true, lines := got } else y }))) := by
  have hstep : ownStep s c ch = some (setCopy s1 c x { x with owned := true, lines := got }) := by
    unfold ownStep
    rw [hx]
    dsimp only
    rw [if_neg (by simp [ho, hr]), htake]
  show execOwnershipPoint c ch.toNat s = _
  unfold execOwnershipPoint
  rw [ofNat_chan, hstep]
  rfl

theorem exec_copyDeliver (c : Nat) (ch : BitVec 2) (s : State) :
    exec (.copyDeliver c ch.toNat) s = .next (pumpRecords ((deliverStep s c ch).getD s)) := by
  show execCopyDeliver c ch.toNat s = _
  unfold execCopyDeliver
  rw [ofNat_chan]

/-- The bytes up to the next multiple of 64 or the copy's end (R123). -/
theorem nextPointer_sub (hl : x.deliv < x.len) : nextPointer x - x.deliv = min (x.len - x.deliv) (64 - (x.dst.toNat + x.deliv) % 64) := by
  show min x.len (x.deliv + (64 - (x.dst.toNat + x.deliv) % 64)) - x.deliv = _
  omega

/-- A waiting copy that can be accepted issues again (R129). -/
theorem copyAccepted_issues {slot : Nat} {i : Instr} (hi : ∃ gr d a b, i = .acopy gr d a b ∨ i = .axform gr d a b ∨ i = .agather gr d a b)
    (hcur : (s.focus c slot).isCur c slot = true) (hacc : acceptable (s.focus c slot) c (s.focus c slot).cur = true)
    (hpark : (s.focus c slot).cur.parked = some i) :
    exec (.copyAccepted c slot) s = exec i { s.focus c slot with cur := { (s.focus c slot).cur with woken := true } } := by
  show execCopyAccepted c slot s = _
  unfold execCopyAccepted
  dsimp only
  rw [hcur, hacc, hpark]
  obtain ⟨gr, d, a, b, rfl | rfl | rfl⟩ := hi <;> rfl

/-- A copy instruction always leads to a next state. -/
theorem copy_next {i : Instr} (hi : ∃ gr d a b, i = .acopy gr d a b ∨ i = .axform gr d a b ∨ i = .agather gr d a b) (s : State) :
    ∃ t, exec i s = .next t := by
  obtain ⟨gr, d, a, b, rfl | rfl | rfl⟩ := hi <;> exact perform_next _ _ s

/-- Settles O43: the ownership point by its step, a chunk by what its write is followed by (`chunkDone`), whose service of waiting requests leaves
copies, blocks and waits alone (`CopiesKept`), and a waiting copy by its instruction. -/
theorem copyEvents : Obligations.CopyEvents := by
  unfold Obligations.CopyEvents
  refine ⟨fun c ch s x s1 got => ownershipPoint_takes, fun c ch s x s1 z d s2 hx ho hr hl => ?_, fun c slot s i hi hcur hacc hpark => ?_⟩
  · rw [← nextPointer_sub hl]
    intro n va hread hwrite
    obtain ⟨l, seen, hstep⟩ := deliverStep_written hx ho hr hl hread hwrite
    have hexec := exec_copyDeliver c ch s
    rw [hstep] at hexec
    have hn : x.deliv + n ≤ x.len := by
      have := nextPointer_sub hl
      omega
    exact ⟨_, seen, hexec, chunkDone_copies _ c rfl, fun hh => chunkDone_home hh, fun b h B hb hh hB hd => chunkDone_block hb hh hn hB hd⟩
  · obtain ⟨t, ht⟩ := copy_next hi { s.focus c slot with cur := { (s.focus c slot).cur with woken := true } }
    exact ⟨t, (copyAccepted_issues hi hcur hacc hpark).trans ht, ht⟩

end Sys2Proof.CopyEventsProof
end

section
namespace Sys2Proof.Batching
open Sys2Proof.Machine Sys2Proof.Safety Sys2Proof.Laws Sys2Proof.SystemGroups

/-! # Batches (R126, R127, R132) -/

variable {gr : Grp} {s : State} {b : Block} {c bs : Nat} {n : BitVec 4}

/-! ### The block of the issuing warp -/

theorem begun_curBlock (i : Instr) (s : State) : (begun i s).curBlock = s.curBlock := by
  unfold begun
  split <;> rfl

theorem curBlock_bslot (hb : s.curBlock = some b) : b.bslot = s.cur.bslot := by simpa using List.find?_some hb

theorem blockAt_cur (s : State) : s.blockAt s.core.id s.cur.bslot = s.curBlock := by
  unfold State.blockAt State.coreAt
  rw [if_pos rfl]
  rfl

/-- A change of a block of the issuing core is a change of the core's list of blocks. -/
theorem modBlock_withBlock (s : State) (b : Block) (f : Block → Block) : s.modBlock s.core.id b.bslot f = withBlock s b f := by
  unfold State.modBlock State.modCore State.setCore State.coreAt withBlock replaceBy
  simp only [if_true, decide_eq_true_eq]

/-! ### Batches retire (R126) -/

theorem retireFrom_cur (s : State) (c bs fuel : Nat) : (retireFrom s c bs fuel).cur = s.cur := by
  induction fuel generalizing s with
  | zero => rfl
  | succ fuel ih =>
    unfold retireFrom
    split
    · rfl
    · split
      · rw [ih, State.modBlock_cur]
      · rfl

/-- No copy of the block's batches `m` up to `r` stands in a channel. -/
def Emptied (copies : List Copy) (bs m r : Nat) : Prop := ∀ k, m ≤ k → k < r → ∀ x ∈ copies, ¬(x.bslot = some bs ∧ x.batch = k)

theorem Emptied.succ {copies : List Copy} {m r : Nat} (h : ∀ x ∈ copies, ¬(x.bslot = some bs ∧ x.batch = m)) (h' : Emptied copies bs (m + 1) r) :
    Emptied copies bs m r := by
  intro k hk hkr
  obtain rfl | hlt := Nat.eq_or_lt_of_le hk
  · exact h
  · exact h' k hlt hkr

/-- The batches of a block retire up to the first with a copy in a channel, or to the open one, when the steps suffice for that. -/
theorem retireFrom_until (fuel : Nat) (hb : s.blockAt c bs = some b) (hle : b.retired ≤ b.openNo) (hfuel : b.openNo ≤ b.retired + fuel) :
    ∃ r, b.retired ≤ r ∧ r ≤ b.openNo ∧ Emptied (s.coreAt c).copies bs b.retired r
      ∧ (r = b.openNo ∨ ∃ x ∈ (s.coreAt c).copies, x.bslot = some bs ∧ x.batch = r)
      ∧ (retireFrom s c bs fuel).blockAt c bs = some { b with retired := r } := by
  induction fuel generalizing s b with
  | zero => exact ⟨b.retired, Nat.le_refl _, hle, fun k h1 h2 => absurd h1 (by omega), .inl (by omega), hb⟩
  | succ fuel ih =>
    by_cases hx : ∃ x ∈ (s.coreAt c).copies, x.bslot = some bs ∧ x.batch = b.retired
    · refine ⟨b.retired, Nat.le_refl _, hle, fun k h1 h2 => absurd h1 (by omega), .inr hx, ?_⟩
      have hany : ((s.coreAt c).copies.any fun x => x.bslot = some bs && x.batch = b.retired) = true := by simpa using hx
      simp only [retireFrom, hb, hany, Bool.not_true, Bool.and_false, Bool.false_eq_true, if_false]
    · have hany : ((s.coreAt c).copies.any fun x => x.bslot = some bs && x.batch = b.retired) = false := by
        rw [Bool.eq_false_iff]
        simpa using hx
      obtain hlt | heq := Nat.lt_or_eq_of_le hle
      · have hstep : retireFrom s c bs (fuel + 1) = retireFrom (s.modBlock c bs fun b => { b with retired := b.retired + 1 }) c bs fuel := by
          simp only [retireFrom, hb, hany, hlt, decide_true, Bool.not_false, Bool.and_true, if_true]
        obtain ⟨r, h1, h2, h3, h4, h5⟩ := ih (b := { b with retired := b.retired + 1 })
          (Copying.blockAt_modBlock (f := fun b => { b with retired := b.retired + 1 }) (fun _ => rfl) hb) hlt (by dsimp only; omega)
        rw [(Copying.modBlock_blocksOnly s c bs _).copies] at h3 h4
        exact ⟨r, by dsimp only at h1; omega, h2, .succ (by simpa using hx) h3, h4, by rw [hstep, h5]⟩
      · refine ⟨b.retired, Nat.le_refl _, hle, fun k h1 h2 => absurd h1 (by omega), .inl heq, ?_⟩
        simp only [retireFrom, hb]
        rw [if_neg (by simp [heq])]
        exact hb

/-! ### BCLOSE and the close of WAITB (R126) -/

theorem closeBatch_unused (h : b.openUsed = false) : closeBatch s b = s := by
  unfold closeBatch
  rw [h]
  rfl

/-- The open batch closes, and those that can retire do. -/
theorem closeBatch_used (h : b.openUsed = true) : closeBatch s b
    = retireBatches (withBlock s b fun x => { x with openNo := x.openNo + 1, openUsed := false }) s.core.id b.bslot := by
  unfold closeBatch
  rw [h, modBlock_withBlock]
  rfl

/-- A close leaves the issuing warp as it is. -/
theorem closeBatch_cur (s : State) (b : Block) : (closeBatch s b).cur = s.cur := by
  cases h : b.openUsed
  · rw [closeBatch_unused h]
  · rw [closeBatch_used h, retireBatches, retireFrom_cur]
    rfl

/-- A close that has room does not stop. -/
theorem closeStops_false (hroom : b.openUsed = true → b.openNo - b.retired < 16) : (b.openUsed && decide (b.outstandingBatches ≥ 16)) = false := by
  simp only [Bool.and_eq_false_imp, decide_eq_false_iff_not, Nat.not_le]
  exact hroom

section
variable (hr : Runs (.bclose gr) s) (ha : s.cur.active gr ≠ 0) (hb : s.curBlock = some b)
include hr ha hb

theorem bclose_ends (hroom : b.openUsed = true → b.openNo - b.retired < 16) :
    Ends (.bclose gr) s (past gr (closeBatch (begun (.bclose gr) s) b)) := by
  show execBclose gr s = _
  refine perform_done hr ?_
  simp only [begun_active, ha, if_false, begun_curBlock, hb, closeStops_false hroom, Bool.false_eq_true, endGroup_past]

theorem bclose_waits (hu : b.openUsed = true) (hfull : 16 ≤ b.openNo - b.retired) : WaitsIn (.bclose gr) s (begun (.bclose gr) s) (.batch 15) := by
  show execBclose gr s = _
  refine perform_wait hr ?_
  have hstop : (b.openUsed && decide (b.outstandingBatches ≥ 16)) = true := by simpa [hu, Block.outstandingBatches] using hfull
  simp only [begun_active, ha, if_false, begun_curBlock, hb, hstop, if_true]
end

/-! ### WAITB (R127) -/

theorem resumed_done {w : Warp} (h : w.resume = none) : w.resumed.done = 0 := by
  unfold Warp.resumed
  rw [h]

/-- The block of the issuing warp after the close, as its slot on the core gives it. -/
theorem blockAt_closeBatch (hb : s.curBlock = some b) :
    (closeBatch s b).blockAt (closeBatch s b).core.id b.bslot = (closeBatch s b).curBlock := by
  rw [curBlock_bslot hb, ← closeBatch_cur s b]
  exact blockAt_cur _

/-- WAITB that is first performed closes its batch; then it goes on or waits, by the block as it stands after the close. -/
theorem waitb_goes (hr : Runs (.waitb gr n) s) (ha : s.cur.active gr ≠ 0) (hb : s.curBlock = some b) (hn : s.cur.resume = none)
    (hroom : b.openUsed = true → b.openNo - b.retired < 16) {u : State} (hu : closeBatch (begun (.waitb gr n) s) b = u) {b' : Block}
    (hb' : u.curBlock = some b') :
    (b'.openNo - b'.retired ≤ n.toNat → (∀ x ∈ b'.batchFails, b'.retired ≤ x.1) → Ends (.waitb gr n) s (past gr u))
    ∧ (n.toNat < b'.openNo - b'.retired →
        WaitsIn (.waitb gr n) s { u with cur := u.cur.setDone 1 (Vector.replicate 32 0) } (.batch n.toNat)) := by
  have hstart : (begun (.waitb gr n) s).curBlock = some b := by rw [begun_curBlock, hb]
  have hfirst : (begun (.waitb gr n) s).cur.resumed.done ≠ 1 := by
    rw [resumed_done (by rw [begun_resume, hn])]
    decide
  have hblock : u.blockAt u.core.id b.bslot = some b' := by rw [← hu, blockAt_closeBatch hstart, hu, hb']
  have hclear : ({ u with cur := u.cur.clearResume } : State) = u := by
    rw [clearResume_of_none (by rw [← hu, closeBatch_cur, begun_resume, hn])]
  refine ⟨fun hk hok => ?_, fun hk => ?_⟩
  · have hfew : ¬ b'.outstandingBatches > n.toNat := Nat.not_lt.2 hk
    have hnone : (b'.batchFails.find? fun x => x.1 < b'.retired) = none := by simpa using hok
    show execWaitb gr n s = _
    refine perform_done hr ?_
    simp only [begun_active, ha, if_false, hstart, hfirst, decide_false, Bool.not_false, Bool.true_and, closeStops_false hroom,
      Bool.false_eq_true, hu, hblock, Option.getD_some, hclear, hfew, hnone, ite_self, endGroup_past]
  · have hmany : b'.outstandingBatches > n.toNat := hk
    show execWaitb gr n s = _
    refine perform_wait hr ?_
    simp only [begun_active, ha, if_false, hstart, hfirst, decide_false, Bool.not_false, Bool.true_and, closeStops_false hroom,
      Bool.false_eq_true, hu, hblock, Option.getD_some, hmany, if_true]

/-- Settles O28: BCLOSE and WAITB by what closing the open batch makes of the block (`closeBatch_used`), the retirement of batches by induction on
its steps (`retireFrom_until`). -/
theorem batches : Obligations.Batches := by
  unfold Obligations.Batches
  refine ⟨fun gr s b hr ha hb => ⟨fun hu => ?_, fun hu hroom => ?_, bclose_waits hr ha hb⟩, fun gr n s b hr ha hb hn hroom => ?_,
    fun s c bs b hb hle hfuel => retireFrom_until 17 hb hle hfuel⟩
  · have hends := bclose_ends hr ha hb fun h => absurd (hu.symm.trans h) (by decide)
    rwa [closeBatch_unused hu] at hends
  · have hends := bclose_ends hr ha hb fun _ => hroom
    rwa [closeBatch_used hu, begun_core] at hends
  · refine fun b' hb' => waitb_goes hr ha hb hn hroom ?_ hb'
    split
    · rename_i hu
      rw [closeBatch_used hu, begun_core]
    · rename_i hu
      exact closeBatch_unused (by simpa using hu)

end Sys2Proof.Batching
end

section
namespace Sys2Proof.CopyIssue
open Sys2Proof.Machine Sys2Proof.Safety Sys2Proof.Laws Sys2Proof.SystemGroups Sys2Proof.StashMappings Sys2Proof.Batching

/-! # ACOPY, AXFORM and AGATHER (R116, R119 to R122, R126, R129) -/

variable {gr : Grp} {s t : State} {b : Block} {kind : BitVec 2} {dst src w0 w1 : Dword} {d a r : BitVec 6}

/-! ### The parameters (R119 to R121) -/

/-- The length, the handle and the channel of a copy, as its parameter words give them. -/
theorem copyParams_fields (hk : kind = 0 ∨ kind = 1 ∨ kind = 2) (w0 w1 : Dword) :
    (copyParams kind w0 w1).len = (copyFields kind w0).1
    ∧ (copyParams kind w0 w1).handle = (copyFields kind w0).2.1.map (BitVec.ofNat 5)
    ∧ (copyParams kind w0 w1).chan = BitVec.ofNat 2 (copyFields kind w0).2.2 := by
  obtain rfl | rfl | rfl := hk
  · refine ⟨?_, ?_, ?_⟩ <;> simp [copyParams, copyFields, bits, bitsOf, apply_ite]
  · refine ⟨?_, ?_, ?_⟩ <;> simp [copyParams, copyFields, bits, bitsOf, apply_ite, shapeOf]
  · refine ⟨?_, ?_, ?_⟩ <;> simp [copyParams, copyFields, bits, bitsOf, apply_ite]

theorem copyFields_handle_lt (hk : kind = 0 ∨ kind = 1 ∨ kind = 2) {h : Nat} (hh : (copyFields kind w0).2.1 = some h) : h < 32 := by
  have field : ∀ {c : Bool} {x : Nat}, (if c then some (x % 32) else none) = some h → h < 32 := by
    intro c x e
    split at e
    · obtain rfl := Option.some.inj e
      omega
    · cases e
  obtain rfl | rfl | rfl := hk <;> exact field hh

/-! ### Acceptance (R116, R126, R129) -/

theorem setHandle_withBlock (s : State) (b : Block) (h : Nat) (f : Handle → Handle) : setHandle s s.core.id b.bslot h f
    = withBlock s b fun x => { x with handles := x.handles.setIfInBounds h (f (x.handles.getD h {})) } := modBlock_withBlock s b _

theorem withBlock_withBlock (s : State) (b : Block) {f : Block → Block} (g : Block → Block) (hf : ∀ x, (f x).bslot = x.bslot) :
    withBlock (withBlock s b f) b g = withBlock s b fun x => g (f x) := by
  have hmap : (fun x : Block => if x.bslot = b.bslot then g x else x) ∘ (fun x => if x.bslot = b.bslot then f x else x)
      = fun x => if x.bslot = b.bslot then g (f x) else x := by
    funext x
    by_cases hx : x.bslot = b.bslot <;> simp [hx, hf]
  unfold withBlock
  simp only [List.map_map, hmap]

/-- A copy whose handle is free and unclaimed, and whose channel has room, waits for nothing (R116, R129). -/
theorem copyWait_none {p : CopyParams} (hfree : ∀ h, p.handle = some h → (b.handles.getD h.toNat {}).state = 0 ∧ handleClaimed s b h.toNat = false)
    (hroom : (chanCopies s.core p.chan).length < 16) : copyWait s b p = none := by
  unfold copyWait
  have hroom : ¬ (chanCopies s.core p.chan).length ≥ 16 := by omega
  split
  · rename_i h hh
    obtain ⟨h0, h1⟩ := hfree h hh
    simp only [h0, h1, ne_eq, not_true_eq_false, Bool.false_eq_true, or_self, if_false, hroom]
  · simp only [hroom, if_false]

/-- The record of a copy that a warp issues for its block. -/
def issued (s : State) (b : Block) (kind : BitVec 2) (dst src w0 w1 : Dword) (p : CopyParams) : Copy :=
  { no := s.core.copyNo, chan := p.chan, kind := kind, dst := dst, src := src, w0 := w0, w1 := w1, len := p.len, handle := p.handle,
    batch := b.openNo, bslot := some b.bslot, genLS := b.genLS, launch := s.cur.launch, block := s.cur.block, rank := b.rank, warp := s.cur.idx
    supv := s.cur.supervisor }
/-- The issuing core's channels with one more copy. -/
def joined (s : State) (c : Copy) : State := { s with core := { s.core with copies := s.core.copies ++ [c], copyNo := s.core.copyNo + 1 } }
/-- A handle as its accepted copy finds it (R129). -/
def filling (s : State) (kind : BitVec 2) (p : CopyParams) (x : Handle) : Handle :=
  { x with state := 1, err := none, chan := p.chan, kind := kind, len := p.len, deliv := 0, waitE := x.waitE &&& ~~~BitVec.ofNat 32 (2 ^ s.cur.idx) }
/-- The block of an accepted copy: its open batch is used, its handle, if it has one, filling. -/
def opened (s : State) (kind : BitVec 2) (p : CopyParams) (o : Option Nat) (x : Block) : Block :=
  { x with
    openUsed := true
    handles := match o with
      | some h => x.handles.setIfInBounds h (filling s kind p (x.handles.getD h {}))
      | none => x.handles }

/-- A copy that waits for nothing is accepted, and done. -/
theorem issueCopy_accepts {k : Nat} (hw0 : s.cur.getS k = w0) (hw1 : (if kind = 0 then 0 else s.cur.getS (k + 1)) = w1)
    (hc : copyCheck s kind dst src k w0 w1 = .ok ()) (hb : s.curBlock = some b) (hwait : copyWait s b (copyParams kind w0 w1) = none) :
    issueCopy kind dst src k s = (let u := acceptCopy s b kind dst src w0 w1 (copyParams kind w0 w1)
      ({ u with cur := touch u.cur u.cur.executing (copyDomain u dst src (copyParams kind w0 w1).len (sourceSpan kind w0 w1)) }, .done)) := by
  unfold issueCopy
  simp only [hw0, hw1, hc, hb, hwait]

/-- An accepted copy stands last in its channel, and its block is opened for it. -/
theorem acceptCopy_eq (s : State) (b : Block) (kind : BitVec 2) (dst src w0 w1 : Dword) (p : CopyParams) : acceptCopy s b kind dst src w0 w1 p
    = withBlock (joined s (issued s b kind dst src w0 w1 p)) b (opened s kind p (p.handle.map BitVec.toNat)) := by
  obtain ⟨len, handle, chan, ok⟩ := p
  have hopen := fun c => modBlock_withBlock (joined s c) b fun x => { x with openUsed := true }
  cases handle with
  | none => exact hopen _
  | some h =>
    unfold acceptCopy
    dsimp only
    refine (congrArg (fun u : State => setHandle u u.core.id b.bslot h.toNat (filling u kind ⟨len, some h, chan, ok⟩)) (hopen _)).trans ?_
    exact (setHandle_withBlock _ b h.toNat _).trans (withBlock_withBlock _ _ _ fun _ => rfl)

/-- One repetition that `AcceptsCopy` describes is what the model's instruction does. -/
theorem issueCopy_of {rd ra rk : Nat} (hk : kind = 0 ∨ kind = 1 ∨ kind = 2) (h : AcceptsCopy kind rd ra rk s t) :
    issueCopy kind (s.cur.getS rd) (s.cur.getS ra) rk s = (t, .done) := by
  obtain ⟨b, hb, hc, hfree, hroom, rfl⟩ := h
  generalize hw0 : s.cur.getS rk = w0 at *
  generalize hw1 : (if kind = 0 then 0 else s.cur.getS (rk + 1)) = w1 at *
  have hp : copyParams kind w0 w1 = ⟨(copyFields kind w0).1, (copyFields kind w0).2.1.map (BitVec.ofNat 5), BitVec.ofNat 2 (copyFields kind w0).2.2,
      (copyParams kind w0 w1).ok⟩ := by
    obtain ⟨hlen, hhandle, hchan⟩ := copyParams_fields hk w0 w1
    rw [← hlen, ← hhandle, ← hchan]
  have hnum : ((copyFields kind w0).2.1.map (BitVec.ofNat 5)).map BitVec.toNat = (copyFields kind w0).2.1 := by
    cases ho : (copyFields kind w0).2.1 with
    | none => rfl
    | some n => simp [Nat.mod_eq_of_lt (copyFields_handle_lt hk ho)]
  have hwait : copyWait s b (copyParams kind w0 w1) = none := by
    rw [hp]
    refine copyWait_none (fun h hh => ?_) hroom
    exact hfree _ (hnum.symm.trans (congrArg (Option.map BitVec.toNat) hh))
  rw [issueCopy_accepts hw0 hw1 hc hb hwait, acceptCopy_eq, hp]
  dsimp only
  rw [hnum]
  rfl

theorem sRange_two {n : Nat} (h : n < 63) : sRange n 2 = .ok () := by
  unfold sRange
  rw [if_neg (by omega)]

/-- A copy instruction whose repetitions are accepted runs to its end. -/
theorem copy_ends {i : Instr} (he : exec i s = perform i (copyBody gr kind d a r) s) (hk : kind = 0 ∨ kind = 1 ∨ kind = 2) (hr : Runs i s)
    (hu : u3Has gr d a r) (hpair : kind ≠ 0 → ∀ k < reps gr, repB gr r.toNat k < 63)
    (hp : PerformsOnce gr (fun k => AcceptsCopy kind (repD gr d.toNat k) (repA gr a.toNat k) (repB gr r.toNat k)) (begun i s) t) :
    Ends i s (past gr t) := by
  refine he.trans (perform_done hr (warpLevel_once (fun k hlt => ?_) (fun k s t h => issueCopy_of hk h) hp))
  obtain ⟨hd, ha, hb⟩ := hu k hlt
  have hparam : sRange (repB gr r.toNat k) (if kind = 0 then 1 else 2) = .ok () := by
    split
    · exact sRange_ok hb
    · rename_i h0
      exact sRange_two (hpair h0 k hlt)
  rw [sRange_ok hd, sRange_ok ha, hparam]
  rfl

/-! ### Copies that trap at issue (R122) -/

/-- An ACOPY that fails its checks traps, whatever block it is of. -/
theorem acopy_traps {x : Trap} (hr : Runs (.acopy gr d a r) s) (hs : Single gr s) (ha : s.cur.active gr ≠ 0) (hx : x.held = false)
    (hc : copyCheck (begun (.acopy gr d a r) s) 0 (s.cur.getS d.toNat) (s.cur.getS a.toNat) r.toNat (s.cur.getS r.toNat) 0 = .error x) :
    Traps (.acopy gr d a r) s { x with lanes := s.cur.executing } := by
  refine single_traps rfl hr hs ha ?_ (by exact hx) ?_
  · simp only [repD_zero, repA_zero, repB_zero, sRange_field, if_true]
    rfl
  · simp only [repD_zero, repA_zero, repB_zero, begun_getS]
    unfold issueCopy
    simp only [begun_getS, if_true, hc, begun_executing]

/-- The reserved bits of ACOPY's parameter word are clear exactly when it is below bit 40. -/
theorem acopyParams_ok (w0 : Dword) : (copyParams 0 w0 0).ok = decide (w0.toNat < 2 ^ 40) := by
  have := w0.isLt
  show decide (w0.toNat / 2 ^ 40 % 2 ^ (63 + 1 - 40) = 0) = _
  rw [decide_eq_decide]
  omega

theorem copyCheck_reserved (s : State) (dst src : Dword) (k : Nat) {w0 : Dword} (h : 2 ^ 40 ≤ w0.toNat) :
    copyCheck s 0 dst src k w0 0 = .error (trap 0x01 0x10) := by
  have hok : (copyParams 0 w0 0).ok = false := by rw [acopyParams_ok, decide_eq_false (by omega)]
  unfold copyCheck
  simp only [hok]
  rfl

theorem copyPlace_global {va : Dword} (h : inAperture va = false) : copyPlace va = .global := by
  unfold copyPlace
  rw [h]
  rfl

/-- Between global addresses the alignments are all that the first checks leave (R122). -/
theorem copyCheck_misaligned (s : State) {dst src : Dword} (k : Nat) {w0 : Dword} (h : w0.toNat < 2 ^ 40) (hd : inAperture dst = false)
    (hs : inAperture src = false) (hm : dst.toNat % 4 ≠ 0 ∨ src.toNat % 4 ≠ 0 ∨ w0.toNat % 4 ≠ 0) :
    copyCheck s 0 dst src k w0 0 = .error (trapAt 100 0x18 0x00 dst) := by
  have hok : (copyParams 0 w0 0).ok = true := by rw [acopyParams_ok, decide_eq_true h]
  have haligned : copyAligned 0 dst src w0 0 = false := by
    show (decide (dst.toNat % 4 = 0) && decide (src.toNat % 4 = 0) && decide (w0.toNat / 2 ^ 0 % 2 ^ (31 + 1 - 0) % 4 = 0)) = false
    simp only [Bool.and_eq_false_iff, decide_eq_false_iff_not]
    omega
  have hspan : ∀ {va n}, inAperture va = false → localSpanOk s va n = .ok () := by
    intro va n hva
    unfold localSpanOk
    rw [copyPlace_global hva]
  unfold copyCheck
  simp only [hok, haligned, copyPlace_global hd, copyPlace_global hs, hspan hd, hspan hs]
  rfl

/-- Settles O27: an accepted copy by the model's acceptance as one change of the core (`acceptCopy_eq`), the traps by the order of the checks. -/
theorem copies : Obligations.Copies := by
  unfold Obligations.Copies
  refine ⟨?_, ?_, ?_, ?_, ?_⟩
  · exact fun gr d a b s t hr hu hp => copy_ends rfl (.inl rfl) hr hu (fun h => absurd rfl h) hp
  · exact fun gr d a b s t hr hu hpair hp => copy_ends rfl (.inr (.inl rfl)) hr hu (fun _ => hpair) hp
  · exact fun gr d a b s t hr hu hpair hp => copy_ends rfl (.inr (.inr rfl)) hr hu (fun _ => hpair) hp
  · exact fun gr d a b s hr hs ha h => acopy_traps hr hs ha rfl (copyCheck_reserved _ _ _ _ h)
  · exact fun gr d a b s hr hs ha h hd hsrc hm => acopy_traps hr hs ha rfl (copyCheck_misaligned _ _ h hd hsrc hm)

end Sys2Proof.CopyIssue
end

section
namespace Sys2Proof.HeldFailures
open Sys2Proof.Machine Sys2Proof.Safety

/-! # A handle whose failure is no trap

`Handles` does not ask that the failure kept at a handle be a trap. Where it is the mark of an access that waits at a home (`Trap.held`, R69),
the model issues the group again instead of raising it (`perform`). No engine leaves that mark at a handle: it waits with its copy (`engTrap`). -/

/-- A block whose handle 0 is FULL and keeps the mark as its failure. -/
def markedBlock : Block :=
  { bslot := 0, launch := 0, index := 0, handles := Vector.replicate 32 { state := 2, err := some waitAtHome } }
/-- A warp of that block with one live lane, where the system handler stands at 0x1000. -/
def markedState : State :=
  { cur := { present := true, live := 1 }, core := { id := 0, blocks := [markedBlock] }, mgmt := { sysHandler := 0x1000 } }

/-- Whether a step leaves the issuing warp in a handler. -/
def entersHandler : Host.Outcome State Fault Refusal → Bool
  | .next t => t.cur.inhdl
  | _ => false

/-- HWAIT.FULL comes again, where raising the failure would enter the handler. -/
theorem hwaitFull_comes_again : entersHandler (exec (.hwaitFull {} 0) markedState) = false := by decide
theorem raised_enters_handler : entersHandler (.next (pumpRecords
    (takeTrap (begun (.hwaitFull {} 0) markedState) { waitAtHome with lanes := markedState.cur.executing }))) = true := by decide

end Sys2Proof.HeldFailures

namespace Sys2Proof.HandlesRefuted
open Sys2Proof.Machine Sys2Proof.Safety Sys2Proof.HeldFailures

/-- Refutes O29: its clause on HWAIT.FULL of a handle that keeps a failure raises whatever is kept there; the model raises traps only, and issues the
group again for the mark of an access that waits at a home. -/
theorem not_handles : ¬ Obligations.Handles := by
  unfold Obligations.Handles
  intro h
  obtain ⟨hfull, -⟩ := h {} 0 markedState markedBlock rfl (by decide) rfl
  obtain ⟨-, hraise, -⟩ := hfull ⟨rfl, by decide, rfl, by decide⟩
  have htrap : exec (.hwaitFull {} 0) markedState = _ := hraise waitAtHome (by decide) (by decide)
  have hsame := hwaitFull_comes_again
  rw [htrap, raised_enters_handler] at hsame
  cases hsame

end Sys2Proof.HandlesRefuted
end

section
namespace Sys2Proof.RespPolls
open Sys2Proof.Machine Sys2Proof.Safety

/-! # The polls of RESP (R131, R304, R391) -/

variable {s s1 : State} {c pa v p : Nat} {tr : Trap}

/-- What a value of RESP says (R391): 0 to wait on, 1 to replay, any other to fail. -/
def respOf (v : Nat) : Resp := if v = 0 then .pending else if v = 1 then .replay else .fail

@[simp] theorem respOf_zero : respOf 0 = .pending := rfl
@[simp] theorem respOf_one : respOf 1 = .replay := rfl
theorem respOf_above (h : 1 < v) : respOf v = .fail := by
  unfold respOf
  rw [if_neg (by omega), if_neg (by omega)]

/-- The test reads `v` at RESP, or the word's home makes it wait (R69), which counts as 0; `s1` is what the test leaves of the machine. -/
def ReadsResp (s : State) (pa : Nat) (s1 : State) (v : Nat) : Prop :=
  (physWaits s pa 8 false = none ∧ physNat s pa 8 = (s1, v)) ∨ (physWaits s pa 8 false = some s1 ∧ v = 0)

theorem testResp_of (h : ReadsResp s pa s1 v) : testResp s pa = (s1, respOf v) := by
  unfold testResp
  obtain ⟨hw, hn⟩ | ⟨hw, rfl⟩ := h
  · rw [hw, hn]
    match v with
    | 0 => rfl
    | 1 => rfl
    | _ + 2 => exact congrArg (s1, ·) (respOf_above (by omega)).symm
  · rw [hw]
    rfl

/-- What a parked engine's status becomes, or its failure, by the value that its test reads. -/
theorem pollStatus_of (h : ReadsResp s pa s1 v) : pollStatus s (.faulted pa tr p) = some (s1, match respOf v with
    | .pending => .inl (.faulted pa tr s1.clock)
    | .replay => .inl .running
    | .fail => .inr tr) := by
  unfold pollStatus
  dsimp only
  rw [testResp_of h]
  cases respOf v <;> rfl

/-! ### A parked warp -/

/-- The warp of a test that sees a value, as the acquire at system domain leaves it (R391). -/
def resumedAt (s : State) (c slot : Nat) : State :=
  acquire { s.focus c slot with cur := { (s.focus c slot).cur with wait := .none } } allLanes .system

theorem pollWarp_of {slot : Nat} {w : Warp} (h : ReadsResp s pa s1 v) (hw : s.warpAt c slot = some w) (hwait : w.wait = .resp pa tr p)
    (hp : w.preempted = false) : pollWarp s c slot = match respOf v with
      | .pending => s1.modWarp c slot fun w => { w with wait := .resp pa tr s1.clock }
      | .replay => resumedAt s1 c slot
      | .fail => takeUnserviced (resumedAt s1 c slot) tr := by
  unfold pollWarp
  rw [hw]
  dsimp only
  rw [hwait]
  dsimp only
  rw [hp, if_neg Bool.false_ne_true, testResp_of h]
  cases respOf v <;> simp only [if_true, if_false, reduceCtorEq, resumedAt]

/-! ### A parked copy, a parked job -/

theorem pollCopy_of {n : Nat} {x : Copy} (h : ReadsResp s pa s1 v)
    (hx : (s.coreAt c).copies.find? (fun x => x.chan.toNat = n && x.status ≠ .running) = some x) (hst : x.status = .faulted pa tr p) :
    pollCopy s c n = match respOf v with
      | .pending => setCopy s1 c x { x with status := .faulted pa tr s1.clock }
      | .replay => setCopy s1 c x { x with status := .running }
      | .fail => failCopy s1 c x (trapAt 100 0x20 0x05 tr.addr) := by
  unfold pollCopy
  rw [hx]
  dsimp only
  rw [hst, pollStatus_of h]
  cases respOf v <;> rfl

theorem pollJob_of {e : Nat} {j : Job} (h : ReadsResp s pa s1 v) (hj : (s.coreAt c).jobs.find? (fun j => j.entry = e) = some j)
    (hst : j.status = .faulted pa tr p) :
    pollJob s c e = match respOf v with
      | .pending => setJob s1 c j { j with status := .faulted pa tr s1.clock }
      | .replay => setJob s1 c j { j with status := .running }
      | .fail => failJob s1 c j (trapAt 100 0x28 0x07 tr.addr) := by
  unfold pollJob
  rw [hj]
  dsimp only
  rw [hst, pollStatus_of h]
  cases respOf v <;> rfl

theorem exec_pollWarp (c slot : Nat) (s : State) : exec (.faultRespPoll c (.warp slot)) s = .next (pumpRecords (pollWarp s c slot)) := rfl
theorem exec_pollCopy (c n : Nat) (s : State) : exec (.faultRespPoll c (.chan n)) s = .next (pumpRecords (pollCopy s c n)) := rfl
theorem exec_pollJob (c e : Nat) (s : State) : exec (.faultRespPoll c (.job e)) s = .next (pumpRecords (pollJob s c e)) := rfl

/-- Settles O47: the test of RESP says to wait on, to replay or to fail by the value it reads (`testResp_of`), and the poll of each kind of
unit follows what it says. -/
theorem faultResponses : Obligations.FaultResponses := by
  unfold Obligations.FaultResponses
  intro c s pa tr p s1 v h
  refine ⟨fun slot w hw hwait hp => ?_, fun n x hx hst => ?_, fun e j hj hst => ?_⟩
  · simp only [exec_pollWarp, pollWarp_of h hw hwait hp]
    exact ⟨fun hv => by rw [hv]; rfl, fun hv => by rw [hv]; rfl, fun hv => by rw [respOf_above hv]; rfl⟩
  · simp only [exec_pollCopy, pollCopy_of h hx hst]
    exact ⟨fun hv => by rw [hv]; rfl, fun hv => by rw [hv]; rfl, fun hv => by rw [respOf_above hv]⟩
  · simp only [exec_pollJob, pollJob_of h hj hst]
    exact ⟨fun hv => by rw [hv]; rfl, fun hv => by rw [hv]; rfl, fun hv => by rw [respOf_above hv]⟩

end Sys2Proof.RespPolls
end

section
namespace Sys2Proof.Numbers
open Sys2Proof.Machine Sys2Proof.Safety Sys2Proof.Laws Sys2Proof.Frame
open Sys2Proof.Accesses (Unmoved unmoved_of_eq recallLine_unmoved mergeGran_unmoved tagLine_unmoved readGran_unmoved homePut_unmoved startRecall_unmoved
  dirRoom_unmoved foldl_unmoved)

/-! Every step keeps the numbers of cores, and the slots of each core's warps, distinct (O59). The invariant also bounds the slots (`Numbered`): what
runs between the search for a place and the taking of its slots gives no core a warp, so that the search is still right when the slots are taken. A
function of the model that makes a state gets one lemma, named after it. Only `addWarps` and `moveWarps` take new slots (`lowestFree_free`); every other
function hands the warps of a core on, or drops some, so its proof follows its branches and cites the lemmas of what it calls. -/

/-! ### The numbers of a state -/

/-- A warp's place on its core: its slot, and its block's. -/
def place (w : Warp) : Nat × Nat := (w.slot, w.bslot)

/-- The places of the warps in a core's record. -/
def placesOf (k : Core) : List (Nat × Nat) := k.warps.map place

/-- The place of the issuing warp, when there is one. -/
def placeOfCur (w : Warp) : List (Nat × Nat) := if w.present then [place w] else []

/-- The slots of these places of a core differ, and each place is allowed there. -/
def Fits (F : Nat → Nat × Nat → Prop) (c : Nat) (l : List (Nat × Nat)) : Prop := (l.map Prod.fst).Nodup ∧ ∀ p ∈ l, F c p

/-- Core numbers differ, and so do the slots of each core's warps, whose places are allowed on their core. -/
def Numbered (F : Nat → Nat × Nat → Prop) (s : State) : Prop :=
  IdsOnce s ∧ Fits F s.core.id (placeOfCur s.cur ++ placesOf s.core) ∧ ∀ k ∈ s.cores, Fits F k.id (placesOf k)

/-- Every place is allowed everywhere. -/
def Anywhere : Nat → Nat × Nat → Prop := fun _ _ => True

variable {F : Nat → Nat × Nat → Prop} {c : Nat} {l : List (Nat × Nat)} {s : State}

theorem Fits.sublist {l' : List (Nat × Nat)} (h : Fits F c l) (hs : l'.Sublist l) : Fits F c l' :=
  ⟨h.1.sublist (hs.map _), fun p hp => h.2 p (hs.subset hp)⟩

theorem fits_nil : Fits F c [] := ⟨List.nodup_nil, by simp⟩

theorem fits_perm {l' : List (Nat × Nat)} (hp : l.Perm l') : Fits F c l ↔ Fits F c l' := by
  unfold Fits
  rw [(hp.map _).nodup_iff]
  simp only [hp.mem_iff]

theorem fits_append {a : List (Nat × Nat)} : Fits F c (a ++ l) ↔ Fits F c a ∧ Fits F c l ∧ (a.map Prod.fst).Disjoint (l.map Prod.fst) := by
  simp only [Fits, List.map_append, List.nodup_append', List.mem_append, or_imp, forall_and]
  tauto

theorem slots_places (ws : List Warp) : (ws.map place).map Prod.fst = ws.map fun w => w.slot := List.map_map

theorem fits_places {ws : List Warp} : Fits F c (ws.map place) ↔ (ws.map fun w => w.slot).Nodup ∧ ∀ w ∈ ws, F c (place w) := by
  rw [Fits, slots_places, List.forall_mem_map]

theorem fits_single {p : Nat × Nat} (h : F c p) : Fits F c [p] := ⟨List.nodup_singleton _, by simpa using h⟩

/-- A step that leaves the numbers alone keeps them distinct, whatever else it writes. -/
theorem with_numbered {s t : State} (h : Numbered F s)
    (e : (t.core.id, t.core.warps, t.cores, t.cur.present, place t.cur) = (s.core.id, s.core.warps, s.cores, s.cur.present, place s.cur)) :
    Numbered F t := by
  simp only [Prod.mk.injEq] at e
  obtain ⟨hid, hk, hks, hp, hn⟩ := e
  unfold Numbered IdsOnce State.allCores placeOfCur placesOf at *
  simpa only [List.map_cons, hid, hk, hks, hp, hn] using h

/-- The issuing core's record changes, but not its number and warps. -/
theorem core_numbered (h : Numbered F s) {k : Core} (e : (k.id, k.warps) = (s.core.id, s.core.warps)) : Numbered F { s with core := k } := by
  obtain ⟨hid, hk⟩ := Prod.mk.inj e
  exact with_numbered h (by rw [hid, hk])

/-- Replacing the records of the other cores by some of the same numbers and slots keeps them distinct. -/
theorem mapCores_numbered {f : Core → Core} (h : Numbered F s) (hf : ∀ k, ((f k).id, placesOf (f k)) = (k.id, placesOf k)) :
    Numbered F { s with cores := s.cores.map f } := by
  simp only [Prod.mk.injEq] at hf
  obtain ⟨hids, hcur, hks⟩ := h
  refine ⟨?_, hcur, ?_⟩
  · simpa [IdsOnce, State.allCores, Function.comp_def, hf] using hids
  · intro k' hk'
    obtain ⟨k, hk, rfl⟩ := List.mem_map.1 hk'
    rw [(hf k).1, (hf k).2]
    exact hks k hk

/-! ### The warps of a core -/

/-- The places taken on a core, the issuing warp's first. -/
def placesAt (s : State) (c : Nat) : List (Nat × Nat) := (if s.core.id = c then placeOfCur s.cur else []) ++ placesOf (s.coreAt c)

theorem placesAt_fits (h : Numbered F s) (c : Nat) : Fits F c (placesAt s c) := by
  obtain ⟨-, hcur, hks⟩ := h
  unfold placesAt State.coreAt
  split
  · next e => exact e ▸ hcur
  · cases hf : s.cores.find? fun k => k.id = c with
    | none => exact fits_nil
    | some k =>
      have hid : k.id = c := by simpa using List.find?_some hf
      exact hid ▸ hks k (List.mem_of_find?_eq_some hf)

theorem placesOf_coreAt_fits (h : Numbered F s) (c : Nat) : Fits F c (placesOf (s.coreAt c)) := (placesAt_fits h c).sublist (List.sublist_append_right ..)

theorem places_warpsOf (s : State) (c : Nat) : ((s.warpsOf c).map place).Perm (placesAt s c) := by
  refine ((sortBy_perm _ _).map _).trans ?_
  unfold placesAt placeOfCur placesOf
  by_cases hc : s.core.id = c <;> cases hp : s.cur.present <;> simp [hc]

theorem Numbered.mono {G : Nat → Nat × Nat → Prop} (h : Numbered F s) (hFG : ∀ c n, F c n → G c n) : Numbered G s := by
  obtain ⟨hids, hcur, hks⟩ := h
  exact ⟨hids, ⟨hcur.1, fun n hn => hFG _ _ (hcur.2 n hn)⟩, fun k hk => ⟨(hks k hk).1, fun n hn => hFG _ _ ((hks k hk).2 n hn)⟩⟩

theorem warpsOf_fits (h : Numbered F s) (c : Nat) : Fits F c ((s.warpsOf c).map place) :=
  (fits_perm (places_warpsOf s c)).2 (placesAt_fits h c)

theorem distinct_iff : Distinct s ↔ Numbered Anywhere s := by
  refine ⟨fun ⟨hids, hw⟩ => ?_, fun h => ⟨h.1, fun k _ => (fits_places.1 (warpsOf_fits h k.id)).1⟩⟩
  have hat : ∀ k ∈ s.allCores, Fits Anywhere k.id (placesAt s k.id) := fun k hk =>
    (fits_perm (places_warpsOf s k.id)).1 (fits_places.2 ⟨hw k hk, fun _ _ => trivial⟩)
  refine ⟨hids, ?_, fun k hk => ?_⟩
  · simpa [placesAt, State.coreAt] using hat _ List.mem_cons_self
  · have h := hat k (List.mem_cons_of_mem _ hk)
    unfold placesAt at h
    rw [coreAt_of_mem hids (List.mem_cons_of_mem _ hk)] at h
    exact (fits_append.1 h).2.1

/-- The places taken in a state bound those of what comes from it. -/
theorem numbered_placesAt (h : Numbered F s) : Numbered (fun c n => n ∈ placesAt s c) s := by
  obtain ⟨hids, hcur, hks⟩ := h
  refine ⟨hids, ⟨hcur.1, ?_⟩, fun k hk => ⟨(hks k hk).1, ?_⟩⟩
  · simp [placesAt, State.coreAt]
  · intro n hn
    refine List.mem_append_right _ ?_
    rwa [coreAt_of_mem hids (List.mem_cons_of_mem _ hk)]

theorem setCore_numbered (h : Numbered F s) {k : Core} (hk : Fits F k.id ((if s.core.id = k.id then placeOfCur s.cur else []) ++ placesOf k)) :
    Numbered F (s.setCore k) := by
  have hids := idsOnce_setCore h.1 k
  obtain ⟨-, hcur, hks⟩ := h
  unfold State.setCore at hids ⊢
  split at hids
  · next e => exact ⟨by rwa [if_pos e], by rw [if_pos e] at hk ⊢; exact hk, by rwa [if_pos e]⟩
  · next e =>
    rw [if_neg e] at hk ⊢
    refine ⟨hids, hcur, fun j hj => ?_⟩
    obtain rfl | ⟨hj, -⟩ := mem_putBy hj
    · exact hk
    · exact hks j hj

/-- A core's record may change, and lose warps. -/
theorem modCore_sublist (h : Numbered F s) (c : Nat) {f : Core → Core} (hid : ∀ k, (f k).id = k.id)
    (hf : (placesOf (f (s.coreAt c))).Sublist (placesOf (s.coreAt c))) : Numbered F (s.modCore c f) := by
  refine setCore_numbered h ?_
  rw [hid, coreAt_id]
  exact (placesAt_fits h c).sublist (hf.append_left _)

theorem modCore_numbered (h : Numbered F s) (c : Nat) {f : Core → Core} (hf : ∀ k, ((f k).id, (f k).warps) = (k.id, k.warps)) :
    Numbered F (s.modCore c f) := by
  simp only [Prod.mk.injEq] at hf
  refine modCore_sublist h c (fun k => (hf k).1) ?_
  unfold placesOf
  rw [(hf _).2]

theorem cur_numbered (h : Numbered F s) {w : Warp} (hw : (placeOfCur w).Sublist (placeOfCur s.cur)) : Numbered F { s with cur := w } :=
  ⟨h.1, h.2.1.sublist (hw.append_right _), h.2.2⟩

/-- The second warp stands where the first does. -/
def StandsAt (w x : Warp) : Prop := (x.present, place x) = (w.present, place w)

theorem ite_stands {p : Prop} [Decidable p] {w x y : Warp} (hx : StandsAt w x) (hy : StandsAt w y) : StandsAt w (if p then x else y) := by
  split
  · exact hx
  · exact hy

theorem goto_stands (w : Warp) (m : Mask) (pc : Dword) : StandsAt w (w.goto m pc) := by
  unfold StandsAt
  rw [place, Warp.goto_present, Warp.goto_slot, Warp.goto_bslot, place]

theorem clearResume_stands (w : Warp) : StandsAt w w.clearResume := by
  unfold StandsAt
  rw [place, Warp.clearResume_present, Warp.clearResume_slot, Warp.clearResume_bslot, place]

theorem discard_stands (w : Warp) : StandsAt w w.discard := by
  unfold StandsAt
  rw [place, Warp.discard_present, Warp.discard_slot, Warp.discard_bslot, place]

theorem lastUse_stands (w : Warp) (m : Mask) (lk : BitVec 2) (ns : List Nat) : StandsAt w (w.lastUse m lk ns) := by
  unfold StandsAt
  rw [place, Warp.lastUse_present, Warp.lastUse_slot, Warp.lastUse_bslot, place]

theorem setVec_stands (w : Warp) (n : Nat) (m : Mask) (x : LaneVec) : StandsAt w (w.setVec n m x) := by
  unfold StandsAt
  rw [place, Warp.setVec_present, Warp.setVec_slot, Warp.setVec_bslot, place]

theorem setV_stands (w : Warp) (n : Nat) (l : Fin 32) (x : Word) : StandsAt w (w.setV n l x) := by
  unfold StandsAt
  rw [place, Warp.setV_present, Warp.setV_slot, Warp.setV_bslot, place]

theorem setP_stands (w : Warp) (n : Nat) (m x : Mask) : StandsAt w (w.setP n m x) := by
  unfold StandsAt
  rw [place, Warp.setP_present, Warp.setP_slot, Warp.setP_bslot, place]

theorem setS_stands (w : Warp) (n : Nat) (x : Dword) : StandsAt w (w.setS n x) := by
  unfold StandsAt
  rw [place, Warp.setS_present, Warp.setS_slot, Warp.setS_bslot, place]

theorem setT_stands (w : Warp) (n : Nat) (x : BitVec 128) : StandsAt w (w.setT n x) := by
  unfold StandsAt
  rw [place, Warp.setT_present, Warp.setT_slot, Warp.setT_bslot, place]

theorem StandsAt.trans {w x y : Warp} (h : StandsAt w x) (g : StandsAt x y) : StandsAt w y := Eq.trans g h

/-- The issuing warp changes, but not where it stands. -/
theorem cur_stands (h : Numbered F s) {w : Warp} (hw : StandsAt s.cur w) : Numbered F { s with cur := w } := by
  obtain ⟨hp, hs⟩ := Prod.mk.inj hw
  refine cur_numbered h ?_
  unfold placeOfCur
  rw [hp, hs]

theorem setS_numbered (h : Numbered F s) (n x) : Numbered F { s with cur := s.cur.setS n x } := cur_stands h (setS_stands _ _ _)

theorem lastUse_numbered (h : Numbered F s) (m lk ns) : Numbered F { s with cur := s.cur.lastUse m lk ns } := cur_stands h (lastUse_stands _ _ _ _)

theorem placeOfCur_sublist {v w : Warp} (hp : w.present = true → v.present = true) (hs : place w = place v) :
    (placeOfCur w).Sublist (placeOfCur v) := by
  unfold placeOfCur
  by_cases h : w.present = true
  · simp [h, hp h, hs]
  · simp [h]

theorem placeOfCur_fits {w : Warp} (h : F c (place w)) : Fits F c (placeOfCur w) := by
  unfold placeOfCur
  split
  · exact fits_single h
  · exact fits_nil

theorem isCur_false {slot : Nat} (h : ¬s.isCur c slot = true) : slot ∉ (if s.core.id = c then placeOfCur s.cur else []).map Prod.fst := by
  unfold placeOfCur place
  rw [isCur_iff] at h
  split_ifs <;> simp
  tauto

/-- A warp is put among others: it takes its slot, and what stood there gives way. -/
theorem putBy_fits {ws : List Warp} (h : Fits F c (ws.map place)) {w : Warp} (hw : F c (place w)) :
    Fits F c ((putBy (fun x => x.slot = w.slot) w ws).map place) := by
  obtain ⟨hnd, hF⟩ := fits_places.1 h
  refine fits_places.2 ⟨nodup_putBy hnd w, fun v hv => ?_⟩
  obtain rfl | ⟨hv, -⟩ := mem_putBy hv
  · exact hw
  · exact hF v hv

/-- Any warp may be put at an allowed place. -/
theorem setWarp_numbered (h : Numbered F s) (c : Nat) {w : Warp} (hw : F c (place w)) : Numbered F (s.setWarp c w) := by
  unfold State.setWarp
  split
  · next hc =>
    obtain ⟨hp, rfl, hs⟩ := isCur_iff.1 hc
    obtain ⟨hids, hcur, hks⟩ := h
    obtain ⟨-, hk, hdis⟩ := fits_append.1 hcur
    refine ⟨hids, fits_append.2 ⟨placeOfCur_fits hw, hk, List.disjoint_of_subset_left ?_ hdis⟩, hks⟩
    simp only [placeOfCur, hp, if_true, place, hs]
    split <;> simp
  · next hc =>
    obtain ⟨hcur, hk, hdis⟩ := fits_append.1 (placesAt_fits h c)
    refine setCore_numbered h ?_
    rw [coreAt_id]
    refine fits_append.2 ⟨hcur, putBy_fits hk hw, fun n hn hn' => ?_⟩
    rw [placesOf, slots_places] at hn' hdis
    obtain ⟨v, hv, rfl⟩ := List.mem_map.1 hn'
    obtain rfl | ⟨hv, -⟩ := mem_putBy hv
    · exact isCur_false hc hn
    · exact hdis hn (List.mem_map_of_mem hv)

theorem warpAt_allowed (h : Numbered F s) {slot : Nat} {w : Warp} (hw : s.warpAt c slot = some w) : F c (place w) :=
  (warpsOf_fits h c).2 _ (List.mem_map_of_mem (warpAt_some hw).1)

theorem modWarp_numbered (h : Numbered F s) (c slot : Nat) {f : Warp → Warp} (hf : ∀ w, place (f w) = place w) : Numbered F (s.modWarp c slot f) := by
  unfold State.modWarp
  split
  · next w hw => exact setWarp_numbered h c ((hf w).symm ▸ warpAt_allowed h hw)
  · exact h

theorem placesOf_map (k : Core) {f : Warp → Warp} (hf : ∀ w, place (f w) = place w) : placesOf { k with warps := k.warps.map f } = placesOf k := by
  simp [placesOf, Function.comp_def, hf]

theorem mapWarps_numbered (h : Numbered F s) (c : Nat) {f : Warp → Warp} (hf : ∀ w, place (f w) = place w) : Numbered F (s.mapWarps c f) := by
  have hk : Numbered F (s.modCore c fun k => { k with warps := k.warps.map f }) :=
    modCore_sublist h c (fun _ => rfl) (by rw [placesOf_map _ hf])
  unfold State.mapWarps
  dsimp only
  split
  · next hp =>
    rw [Bool.and_eq_true] at hp
    exact cur_numbered hk (placeOfCur_sublist (fun _ => hp.1) (hf _))
  · exact hk

theorem mapAllWarps_numbered (h : Numbered F s) {f : Nat → Warp → Warp} (hf : ∀ c w, place (f c w) = place w) : Numbered F (s.mapAllWarps f) := by
  have h1 : Numbered F { s with cur := if s.cur.present then f s.core.id s.cur else s.cur } := by
    refine cur_numbered h ?_
    split
    · next hp => exact placeOfCur_sublist (fun _ => hp) (hf _ _)
    · exact .refl _
  have h2 := mapCores_numbered (f := fun k => { k with warps := k.warps.map (f k.id) }) h1 fun k =>
    congrArg (Prod.mk k.id) (placesOf_map k (hf _))
  obtain ⟨hids, hcur, hks⟩ := h2
  exact ⟨hids, (placesOf_map s.core (hf _)).symm ▸ hcur, hks⟩

theorem removeWarp_numbered (h : Numbered F s) (c slot : Nat) : Numbered F (s.removeWarp c slot) := by
  unfold State.removeWarp
  split
  · exact cur_numbered h (List.nil_sublist _)
  · exact modCore_sublist h c (fun _ => rfl) (List.filter_sublist.map _)

/-! ### The issuing warp changes -/

/-- The issuing core's record with its warp in it. -/
def withCur (s : State) : Core := if s.cur.present then { s.core with warps := putBy (fun x => x.slot = s.cur.slot) s.cur s.core.warps } else s.core

/-- A core's record without the warps at a slot. -/
def without (slot : Nat) (k : Core) : Core := { k with warps := k.warps.filter fun x => x.slot ≠ slot }

theorem withCur_id (s : State) : (withCur s).id = s.core.id := by
  unfold withCur
  split <;> rfl

theorem withCur_fits (h : Numbered F s) : Fits F s.core.id (placesOf (withCur s)) := by
  have hk : Fits F s.core.id (placesOf s.core) := h.2.1.sublist (List.sublist_append_right ..)
  unfold withCur
  split
  · next hp => exact putBy_fits hk (h.2.1.2 (place s.cur) (by simp [placeOfCur, hp]))
  · exact hk

/-- A warp that leaves a core's record to issue there. -/
theorem without_fits {k : Core} (h : Fits F c (placesOf k)) {w : Warp} (hw : F c (place w)) :
    Fits F c (placeOfCur w ++ placesOf (without w.slot k)) := by
  refine fits_append.2 ⟨placeOfCur_fits hw, h.sublist (List.filter_sublist.map _), ?_⟩
  unfold placeOfCur without placesOf
  rw [slots_places]
  split <;> simp [place]

theorem ids_swap {k : Core} {ks : List Core} (h : (k.id :: ks.map fun k => k.id).Nodup) (hc : k.id ≠ c) :
    (c :: ((ks.filter fun x => x.id ≠ c) ++ [k]).map fun k => k.id).Nodup := by
  obtain ⟨hk, hks⟩ := List.nodup_cons.1 h
  have hsub : ((ks.filter fun x => x.id ≠ c).map fun k => k.id).Sublist (ks.map fun k => k.id) := List.filter_sublist.map _
  rw [List.nodup_cons, List.map_append, List.nodup_append']
  refine ⟨?_, hks.sublist hsub, List.nodup_singleton _, List.disjoint_singleton.2 fun hm => hk (hsub.subset hm)⟩
  simp [hc.symm]

theorem focus_eq {slot : Nat} {w : Warp} (hc : ¬s.isCur c slot = true) (hw : s.warpAt c slot = some w) : s.focus c slot =
    if (withCur s).id = c then { s with core := without slot (withCur s), cur := w }
    else { s with core := without slot (s.coreAt c), cores := (s.cores.filter fun x => x.id ≠ c) ++ [withCur s], cur := w } := by
  unfold State.focus
  rw [if_neg hc, hw]
  rfl

theorem focus_numbered (h : Numbered F s) (c slot) : Numbered F (s.focus c slot) := by
  by_cases hc : s.isCur c slot = true
  · unfold State.focus
    rwa [if_pos hc]
  cases hw : s.warpAt c slot with
  | none =>
    unfold State.focus
    rwa [if_neg hc, hw]
  | some w =>
    have hF := warpAt_allowed h hw
    obtain rfl := (warpAt_some hw).2
    have hk := withCur_fits h
    have hat := placesOf_coreAt_fits h c
    obtain ⟨hids, -, hks⟩ := h
    rw [focus_eq hc hw, withCur_id]
    split
    · next e =>
      refine ⟨?_, ?_, hks⟩
      · rw [IdsOnce, State.allCores, List.map_cons, without, withCur_id]
        exact hids
      · rw [without, withCur_id, e]
        exact without_fits (e ▸ hk) hF
    · next e =>
      refine ⟨?_, ?_, fun k hk' => ?_⟩
      · rw [IdsOnce, State.allCores, List.map_cons, without, coreAt_id]
        exact ids_swap (by rwa [withCur_id]) (by rwa [withCur_id])
      · rw [without, coreAt_id]
        exact without_fits hat hF
      · obtain hk' | hk' := List.mem_append.1 hk'
        · exact hks k (List.mem_filter.1 hk').1
        · rw [List.mem_singleton.1 hk', withCur_id]
          exact hk

/-- What `Numbered` says, of the parts of a state that it speaks of. -/
def NumberedParts (F : Nat → Nat × Nat → Prop) (id : Nat) (ws : List Warp) (ks : List Core) (present : Bool) (p : Nat × Nat) : Prop :=
  (id :: ks.map fun k => k.id).Nodup ∧ Fits F id ((if present then [p] else []) ++ ws.map place) ∧ ∀ k ∈ ks, Fits F k.id (placesOf k)

theorem numbered_iff : Numbered F s ↔ NumberedParts F s.core.id s.core.warps s.cores s.cur.present (place s.cur) := Iff.rfl

/-! ### Results that hold a state, and how they are put together -/

theorem ite_numbered {c : Prop} [Decidable c] {a b : State} (ha : Numbered F a) (hb : Numbered F b) : Numbered F (if c then a else b) := by
  split
  · exact ha
  · exact hb

theorem ite_fst_numbered {β : Type} {c : Prop} [Decidable c] {a b : State × β} (ha : Numbered F a.1) (hb : Numbered F b.1) :
    Numbered F (if c then a else b).1 := by
  split
  · exact ha
  · exact hb

/-- The state that a step reaches, if it reaches one. -/
def NextNumbered (F : Nat → Nat × Nat → Prop) (x : Host.Outcome State Fault Refusal) : Prop := ∀ t, x = .next t → Numbered F t

/-- The state that an attempt ends in, if it goes on. -/
def SomeNumbered (F : Nat → Nat × Nat → Prop) (x : Option State) : Prop := ∀ t, x = some t → Numbered F t

theorem next_numbered {s : State} (h : Numbered F s) : NextNumbered F (.next s) := by
  rintro _ ⟨⟩
  exact h

theorem ite_next_numbered {c : Prop} [Decidable c] {a b : Host.Outcome State Fault Refusal} (ha : NextNumbered F a) (hb : NextNumbered F b) :
    NextNumbered F (if c then a else b) := by
  split
  · exact ha
  · exact hb

theorem none_numbered : SomeNumbered F none := by
  rintro _ ⟨⟩

theorem some_numbered {s : State} (h : Numbered F s) : SomeNumbered F (some s) := by
  rintro _ ⟨⟩
  exact h

theorem ite_some_numbered {c : Prop} [Decidable c] {a b : Option State} (ha : SomeNumbered F a) (hb : SomeNumbered F b) :
    SomeNumbered F (if c then a else b) := by
  split
  · exact ha
  · exact hb

theorem of_fst {β : Type} {p : State × β} {t : State} {r : β} (h : Numbered F p.1) (e : p = (t, r)) : Numbered F t := by
  rw [e] at h
  exact h

theorem of_snd {β : Type} {p : β × State} {t : State} {r : β} (h : Numbered F p.2) (e : p = (r, t)) : Numbered F t := by
  rw [e] at h
  exact h

/-- The state that a placement leaves, made or not. -/
def eitherState : Except State State → State
  | .ok s => s
  | .error s => s

theorem of_ok {x : Except State State} {t : State} (h : Numbered F (eitherState x)) (e : x = .ok t) : Numbered F t := by
  rw [e] at h
  exact h

theorem of_error {x : Except State State} {t : State} (h : Numbered F (eitherState x)) (e : x = .error t) : Numbered F t := by
  rw [e] at h
  exact h

theorem getD_numbered {s : State} {x : Option State} (h : Numbered F s) (hx : SomeNumbered F x) : Numbered F (x.getD s) := by
  cases x with
  | none => exact h
  | some t => exact hx t rfl

theorem foldl_numbered {α : Type} {f : State → α → State} (hf : ∀ s a, Numbered F s → Numbered F (f s a)) (l : List α) {s : State}
    (h : Numbered F s) : Numbered F (l.foldl f s) := by
  induction l generalizing s with
  | nil => exact h
  | cons a l ih => exact ih (hf s a h)

theorem foldl_fst_numbered {α β : Type} {f : State × β → α → State × β} (hf : ∀ p a, Numbered F p.1 → Numbered F (f p a).1) (l : List α)
    {p : State × β} (h : Numbered F p.1) : Numbered F (l.foldl f p).1 := by
  induction l generalizing p with
  | nil => exact h
  | cons a l ih => exact ih (hf p a h)

theorem setBlock_numbered (h : Numbered F s) (c : Nat) (b : Block) : Numbered F (s.setBlock c b) := modCore_numbered h c fun _ => rfl

theorem modBlock_numbered (h : Numbered F s) (c b : Nat) (f : Block → Block) : Numbered F (s.modBlock c b f) :=
  modCore_numbered h c fun _ => rfl

theorem setNode_numbered (h : Numbered F s) (x : Node) : Numbered F (setNode s x) := h

theorem homePut_numbered (h : Numbered F s) (pa : Nat) (d : List Byte) : Numbered F (s.homePut pa d) := h

/-! ### Reading and writing physical memory at its homes -/

theorem modLaunch_numbered (h : Numbered F s) (id f) : Numbered F (State.modLaunch s id f) := h

theorem setQueue_numbered (h : Numbered F s) (x) : Numbered F (State.setQueue s x) := h

theorem fresh_numbered (h : Numbered F s) : Numbered F s.fresh.2 := h

theorem queueRecord_numbered (h : Numbered F s) (trapq r unit done) : Numbered F (queueRecord s trapq r unit done) := h

theorem launchRecord_numbered (h : Numbered F s) (r unit) : Numbered F (launchRecord s r unit) := by
  unfold launchRecord
  split
  · exact queueRecord_numbered h _ _ _ _
  · exact h

theorem poisonAt_numbered (h : Numbered F s) (pa) : Numbered F (poisonAt s pa) := h

theorem readGran_numbered (h : Numbered F s) (pa n key) : Numbered F (readGran s pa n key).1 := by
  unfold readGran
  split
  · exact poisonAt_numbered h _
  · exact h

theorem mergeGran_numbered (h : Numbered F s) (pa d key) : Numbered F (mergeGran s pa d key).1 := by
  unfold mergeGran
  dsimp only
  split
  · exact homePut_numbered h pa d
  · split
    · exact homePut_numbered h pa d
    · exact poisonAt_numbered h pa

theorem mergeCells_numbered (h : Numbered F s) (line cells key) : Numbered F (mergeCells s line cells key).1 := by
  unfold mergeCells
  refine ite_fst_numbered (mergeGran_numbered h _ _ _) ?_
  split
  · exact foldl_numbered (fun _ _ h => homePut_numbered h _ _) _ h
  · exact poisonAt_numbered h _

theorem tagLine_numbered (h : Numbered F s) (line whole tag drained) : Numbered F (tagLine s line whole tag drained) := by
  unfold tagLine
  dsimp only
  split <;> split <;> split <;> exact h

theorem enterTag_numbered (h : Numbered F s) (core line e) : Numbered F (enterTag s core line e) :=
  ite_numbered (tagLine_numbered h _ _ _ _) (ite_numbered h (tagLine_numbered h _ _ _ _))

theorem stashWriteBack_numbered (h : Numbered F s) (k st l) : Numbered F (stashWriteBack s k st l) := by
  unfold stashWriteBack
  split
  · exact mergeGran_numbered h _ _ _
  · exact h

theorem recallStashAt_numbered (h : Numbered F s) (core line write) : Numbered F (recallStashAt s core line write) :=
  ite_numbered h (modCore_numbered (foldl_numbered (fun _ _ h => foldl_numbered (fun _ _ h => ite_numbered (stashWriteBack_numbered h _ _ _) h) _ h) _ h) _ fun _ => rfl)

theorem recallStash_numbered (h : Numbered F s) (line write) : Numbered F (recallStash s line write) :=
  foldl_numbered (fun _ _ h => recallStashAt_numbered h _ _ _) _ h

theorem mergeUpd_numbered (h : Numbered F s) (core line) : Numbered F (mergeUpd s core line) := by
  unfold mergeUpd
  split
  · exact h
  · have h1 := modCore_numbered h core (f := fun k => { k with upd := k.upd.filter fun x => x.line ≠ line }) fun _ => rfl
    dsimp only
    split <;> have h2 := of_fst (readGran_numbered h1 _ _ _) (by assumption)
    · exact launchRecord_numbered h2 _ _
    · split
      · exact foldl_numbered (fun _ _ h => homePut_numbered h _ _) _ h2
      · exact enterTag_numbered (foldl_numbered (fun _ _ h => homePut_numbered h _ _) _ h2) _ _ _

theorem mergeAll_numbered (h : Numbered F s) (line) : Numbered F (mergeAll s line) := foldl_numbered (fun _ _ h => mergeUpd_numbered h _ _) _ h

theorem recallLine_numbered (h : Numbered F s) (line write) : Numbered F (recallLine s line write) := recallStash_numbered (mergeAll_numbered h _) _ _

theorem setDir_numbered (h : Numbered F s) (e) : Numbered F (setDir s e) := h

theorem startRecall_numbered (h : Numbered F s) (line write) : Numbered F (startRecall s line write) := by
  unfold startRecall
  split <;> exact h

theorem keepRecalls_numbered (h : Numbered F s) (t) : SomeNumbered F (keepRecalls s t) := by
  unfold keepRecalls
  intro u e
  split at e
  · cases e
  · cases e; exact h

theorem keepRecalls_getD_numbered (h : Numbered F s) (t) : Numbered F ((keepRecalls s t).getD s) := by
  cases e : keepRecalls s t with
  | none => exact h
  | some u => exact keepRecalls_numbered h t u e

theorem useDir_numbered (h : Numbered F s) (line) : Numbered F (useDir s line) := h

theorem dirRoom_numbered (h : Numbered F s) (line) : Numbered F (dirRoom s line).1 := by
  unfold dirRoom
  refine ite_fst_numbered (useDir_numbered h _) (ite_fst_numbered (useDir_numbered h _) ?_)
  split
  · exact h
  · exact ite_fst_numbered (startRecall_numbered h _ _) (useDir_numbered (recallLine_numbered h _ _) _)

theorem physWaits_numbered (h : Numbered F s) (pa n write) : SomeNumbered F (physWaits s pa n write) :=
  ite_some_numbered (some_numbered (foldl_numbered (fun _ _ h => startRecall_numbered h _ _) _ h)) none_numbered

theorem dropProxy_numbered (h : Numbered F s) (id) : Numbered F (dropProxy s id) := h

theorem performReq_numbered (h : Numbered F s) (r) : Numbered F (performReq s r).1 := by
  unfold performReq
  dsimp only
  split
  · split
    · exact h
    · split
      · exact dropProxy_numbered (setNode_numbered h _) _
      · exact h
  · have h1 := recallLine_numbered h (r.req.pa / 64) (opWrites r.req.op)
    split
    · exact setDir_numbered h1 _
    · exact setDir_numbered h1 _
    · exact tagLine_numbered h1 _ _ _ _
    · split
      · exact tagLine_numbered (of_fst (mergeGran_numbered h1 _ _ _) (by assumption)) _ _ _ _
      · exact of_fst (mergeGran_numbered h1 _ _ _) (by assumption)
    · split
      · exact of_fst (readGran_numbered h1 _ _ _) (by assumption)
      · have h2 := of_fst (readGran_numbered h1 _ _ _) (by assumption)
        split
        · exact tagLine_numbered (homePut_numbered h2 _ _) _ _ _ _
        · exact h2

theorem attempt_numbered (h : Numbered F s) (x ahead) : Numbered F (attempt s x ahead).1 := by
  unfold attempt
  refine ite_fst_numbered (startRecall_numbered h _ _) (ite_fst_numbered h ?_)
  split
  · exact of_fst (ite_fst_numbered (dirRoom_numbered h _) h) (by assumption)
  · split <;> exact of_fst (performReq_numbered (of_fst (ite_fst_numbered (dirRoom_numbered h _) h) (by assumption)) _) (by assumption)

theorem request_numbered (h : Numbered F s) (x) : Numbered F (request s x).1 := attempt_numbered h _ _

theorem claim_numbered (h : Numbered F s) (x) : Numbered F (claim s x).1 := by
  unfold claim
  refine ite_fst_numbered (ite_numbered (startRecall_numbered h _ _) (with_numbered (startRecall_numbered h _ _) rfl)) ?_
  split
  · exact ite_numbered (of_fst (ite_fst_numbered (dirRoom_numbered h _) (b := (_, _)) h) (by assumption))
      (of_fst (ite_fst_numbered (dirRoom_numbered h _) (b := (_, _)) h) (by assumption) :)
  · exact (of_fst (ite_fst_numbered (dirRoom_numbered h _) (b := (_, _)) h) (by assumption) :)

theorem dropPlaces_numbered (h : Numbered F s) (p) : Numbered F (dropPlaces s p) := h

theorem dropBlockPlaces_numbered (h : Numbered F s) (c b) : Numbered F (dropBlockPlaces s c b) := dropPlaces_numbered h _

theorem mergeFailed_numbered (h : Numbered F s) (x e) : Numbered F (mergeFailed s x e) := by
  unfold mergeFailed
  dsimp only
  split
  · exact ite_numbered (modWarp_numbered h _ _ (fun _ => rfl)) (launchRecord_numbered h _ _)
  · split
    · exact launchRecord_numbered h _ _
    · exact h

theorem pushReturn_numbered (h : Numbered F s) (d v) : Numbered F (pushReturn s d v) := modCore_numbered h _ fun _ => rfl

theorem landLane_place (w : Warp) (l : Nat) (r : Except Trap Dword) : place (w.landLane l r) = place w := by
  unfold Warp.landLane
  split <;> rfl

theorem reply_numbered (h : Numbered F s) (x r) : Numbered F (reply s x r) := by
  unfold reply
  split
  · exact ite_numbered (modWarp_numbered h _ _ fun w => landLane_place w _ _) (modCore_numbered h _ fun _ => rfl)
  · split
    · exact ite_numbered h h
    · exact ite_numbered h h
    · exact pushReturn_numbered h _ _
    · exact mergeFailed_numbered h _ _
    · exact h

theorem submit_numbered (h : Numbered F s) (x) : Numbered F (submit s x) := by
  unfold submit
  split
  · exact (of_fst (request_numbered h _) (by assumption) :)
  · exact reply_numbered (of_fst (request_numbered h _) (by assumption)) _ _
  · exact reply_numbered (of_fst (request_numbered h _) (by assumption)) _ _

theorem serveHeldFrom_numbered (h : Numbered F s) (kept l) : Numbered F (serveHeldFrom s kept l) := by
  induction l generalizing s kept with
  | nil => exact h
  | cons x r ih =>
    unfold serveHeldFrom
    grind only [numbered_iff, place, !attempt_numbered, !reply_numbered]

theorem serveHeld_numbered (h : Numbered F s) : Numbered F (serveHeld s) := ite_numbered h (serveHeldFrom_numbered h _ _)

theorem physRead_numbered (h : Numbered F s) (pa n key) : Numbered F (physRead s pa n key).1 := by
  unfold physRead
  dsimp only
  refine foldl_fst_numbered (fun _ _ h => ?_) _ h
  split
  · exact h
  · split <;> exact of_fst (readGran_numbered (recallLine_numbered h _ _) _ _ _) (by assumption)

theorem physWrite_numbered (h : Numbered F s) (pa d key) : Numbered F (physWrite s pa d key).1 := by
  unfold physWrite
  grind only [!mergeGran_numbered, !recallLine_numbered, !tagLine_numbered, !foldl_numbered, !foldl_fst_numbered]

theorem physNat_numbered (h : Numbered F s) (pa n) : Numbered F (physNat s pa n).1 := by
  unfold physNat
  split
  · exact of_fst (physRead_numbered h _ _ _) (by assumption)
  · exact (of_fst (physRead_numbered h _ _ _) (by assumption) :)

theorem parkUnit_numbered (h : Numbered F s) (core u resp) : Numbered F (parkUnit s core u resp) := by
  unfold parkUnit
  cases u with
  | warp slot => exact modWarp_numbered h _ _ fun _ => by split <;> rfl
  | chan c => exact modCore_numbered h _ fun _ => rfl
  | job e => exact modCore_numbered h _ fun _ => rfl
  | ray slot lane => exact modWarp_numbered h _ _ fun _ => rfl
  | tile q tx ty => exact h
  | coll cid => exact h
  | member slot => exact h

theorem physPost_numbered (h : Numbered F s) (pa d) : Numbered F (physPost s pa d) := foldl_numbered (fun _ _ h => submit_numbered h _) _ h

theorem writeBlockRecord_numbered (h : Numbered F s) (q d) : Numbered F (writeBlockRecord s q d) := by
  unfold writeBlockRecord
  grind only [!physNat_numbered, !physWrite_numbered]

theorem recordWaits_numbered (h : Numbered F s) (r) : SomeNumbered F (recordWaits s r) := by
  unfold recordWaits
  intro t e
  split at e
  · next s' hw => cases e; exact physWaits_numbered h _ _ _ _ hw
  · exact physWaits_numbered h _ _ _ _ e

theorem writeRecord_numbered (h : Numbered F s) (r) : Numbered F (writeRecord s r).1 := by
  have park (s : State) (h : Numbered F s) (n) : Numbered F (match r.unit with | some u => parkUnit s r.core u n | none => s) := by
    split
    · exact parkUnit_numbered h _ _ _
    · exact h
  have ring (s : State) (h : Numbered F s) (l) : Numbered F { s with inputs := l } := h
  have wake (s : State) (h : Numbered F s) (m) : Numbered F { s with mgmt := m } := h
  unfold writeRecord
  refine ite_fst_numbered (writeBlockRecord_numbered h _ _) ?_
  split
  have h1 := of_fst (physNat_numbered h _ _) (by assumption)
  split
  have h2 := of_fst (physNat_numbered h1 _ _) (by assumption)
  split
  have h3 := of_fst (physNat_numbered h2 _ _) (by assumption)
  refine ite_fst_numbered h3 ?_
  extract_lets slot
  split
  have h4 := of_fst (physWrite_numbered h3 _ _ _) (by assumption)
  split
  have h5 := of_fst (physWrite_numbered h4 _ _ _) (by assumption)
  split
  have h6 := of_fst (physNat_numbered h5 _ _) (by assumption)
  exact park _ (ite_numbered (wake _ (ite_numbered (ring _ h6 _) h6) _) (ite_numbered (ring _ h6 _) h6)) _

theorem pumpRecordsFrom_numbered (h : Numbered F s) (kept l) : Numbered F (pumpRecordsFrom s kept l) := by
  induction l generalizing s kept with
  | nil => exact h
  | cons r rest ih =>
    unfold pumpRecordsFrom
    refine ite_numbered (ih h _) ?_
    split
    · exact ih h _
    · split
      · exact ih (recordWaits_numbered h _ _ (by assumption)) _
      · split <;> have h1 := of_fst (writeRecord_numbered h _) (by assumption)
        · exact ih (by exact h1) _
        · exact ih h1 _

theorem pumpRecords_numbered (h : Numbered F s) : Numbered F (pumpRecords s) := ite_numbered h (pumpRecordsFrom_numbered h _ _)

/-! ### Translation -/

theorem readEntry_numbered (h : Numbered F s) (va level at_) : Numbered F (readEntry s va level at_).1 := by
  unfold readEntry
  refine ite_fst_numbered h ?_
  split
  · exact physWaits_numbered h _ _ _ _ (by assumption)
  · split <;> exact of_fst (physRead_numbered h _ _ _) (by assumption)

theorem walkFrom_numbered (h : Numbered F s) (va fuel level at_) : Numbered F (walkFrom s va fuel level at_).1 := by
  induction fuel generalizing s level at_ with
  | zero => exact h
  | succ fuel ih =>
    unfold walkFrom
    grind only [!readEntry_numbered]

theorem walk_numbered (h : Numbered F s) (ptroot va) : Numbered F (walk s ptroot va).1 := walkFrom_numbered h _ _ _ _

theorem swapLeaf_numbered (h : Numbered F s) (l b) : Numbered F (swapLeaf s l b).1 := by
  unfold swapLeaf
  dsimp only
  split
  · exact physWaits_numbered h _ _ _ _ (by assumption)
  · split
    · exact of_fst (readGran_numbered (recallLine_numbered h _ _) _ _ _) (by assumption)
    · exact ite_fst_numbered (homePut_numbered (of_fst (readGran_numbered (recallLine_numbered h _ _) _ _ _) (by assumption)) _ _)
        (of_fst (readGran_numbered (recallLine_numbered h _ _) _ _ _) (by assumption))

theorem tlbMod_numbered (h : Numbered F s) (core f) : Numbered F (tlbMod s core f) := ite_numbered h (modCore_numbered h _ fun _ => rfl)

theorem tlbDrop_numbered (h : Numbered F s) (core at_) : Numbered F (tlbDrop s core at_) := tlbMod_numbered h _ _

theorem install_numbered (h : Numbered F s) (c va l) : Numbered F (install s c va l).1 := by
  unfold install
  refine ite_fst_numbered (ite_numbered h (modCore_numbered h _ fun _ => rfl)) ?_
  split
  · exact ite_numbered (of_fst (swapLeaf_numbered h _ _) (by assumption)) (modCore_numbered (of_fst (swapLeaf_numbered h _ _) (by assumption)) _ fun _ => rfl)
  · exact of_fst (swapLeaf_numbered h _ _) (by assumption)

theorem leafOf_numbered (h : Numbered F s) (c va) : Numbered F (leafOf s c va).1 := by
  unfold leafOf
  split
  · exact ite_fst_numbered h h
  · split
    · exact of_fst (walk_numbered h _ _) (by assumption)
    · exact install_numbered (of_fst (walk_numbered h _ _) (by assumption)) _ _ _

theorem markLeaf_numbered (h : Numbered F s) (core l) : Numbered F (markLeaf s core l).1 := by
  unfold markLeaf
  refine ite_fst_numbered h ?_
  split
  · exact tlbMod_numbered (of_fst (swapLeaf_numbered h _ _) (by assumption)) _ _
  · exact tlbDrop_numbered (of_fst (swapLeaf_numbered h _ _) (by assumption)) _ _
  · exact of_fst (swapLeaf_numbered h _ _) (by assumption)

theorem markParts_numbered (h : Numbered F s) (core l) : Numbered F (markParts s core l).1 := by
  induction l generalizing s with
  | nil => exact h
  | cons p r ih =>
    unfold markParts
    grind only [!markLeaf_numbered]

theorem markDirty_numbered (h : Numbered F s) (core a) : Numbered F (markDirty s core a).1 := ite_fst_numbered (markParts_numbered h _ _) h

theorem translate_numbered (h : Numbered F s) (c va size k) : Numbered F (Machine.translate s c va size k).1 := by
  unfold Machine.translate
  refine ite_fst_numbered h ?_
  split <;> exact of_fst (leafOf_numbered h _ _) (by assumption)

theorem privateParts_numbered (h : Numbered F s) (c k lane p n words off) : Numbered F (privateParts s c k lane p n words off).1 := by
  induction words generalizing s off with
  | zero => exact h
  | succ words ih =>
    unfold privateParts
    dsimp only
    split
    · exact of_fst (translate_numbered h _ _ _ _) (by assumption)
    · have h1 := of_fst (translate_numbered h _ _ _ _) (by assumption)
      split <;> exact of_fst (ih h1 _) (by assumption)

/-! ### Accesses of warps and engines -/

theorem issuerModCore_numbered (h : Numbered F s) (i : Issuer) {f} (hf : ∀ k, ((f k).id, (f k).warps) = (k.id, k.warps)) : Numbered F (i.modCore s f) := by
  unfold Issuer.modCore
  split
  · exact modCore_numbered h _ hf
  · exact h

theorem setStashLine_numbered (h : Numbered F s) (core st l) : Numbered F (setStashLine s core st l) := modCore_numbered h _ fun _ => rfl

theorem stashCheck_numbered (h : Numbered F s) (core b off write) : Numbered F (stashCheck s core b off write).1 := by
  unfold stashCheck
  split
  · exact h
  · refine ite_fst_numbered h (ite_fst_numbered h ?_)
    split <;> exact of_fst (translate_numbered h _ _ _ _) (by assumption)

theorem stashDirty_numbered (h : Numbered F s) (core l) : Numbered F (stashDirty s core l).1 := by
  unfold stashDirty
  split
  · exact markLeaf_numbered h _ _
  · exact h

theorem stashClean_numbered (h : Numbered F s) (core b st l) : Numbered F (stashClean s core b st l).1 := by
  unfold stashClean
  split
  · exact setStashLine_numbered (of_fst (stashDirty_numbered h _ _) (by assumption)) _ _ _
  · split
    · exact of_fst (translate_numbered (of_fst (stashDirty_numbered h _ _) (by assumption)) _ _ _ _) (by assumption)
    · exact setStashLine_numbered (of_fst (translate_numbered (of_fst (stashDirty_numbered h _ _) (by assumption)) _ _ _ _) (by assumption)) _ _ _

theorem stashTouch_numbered (h : Numbered F s) (core b off write) : Numbered F (stashTouch s core b off write).1 := by
  have dirty (s : State) (h : Numbered F s) (leaf) : Numbered F (if write then stashDirty s core leaf else (s, true)).1 :=
    ite_fst_numbered (stashDirty_numbered h _ _) h
  unfold stashTouch
  split
  · exact h
  · refine ite_fst_numbered h (ite_fst_numbered ?_ ?_)
    · split
      · exact stashClean_numbered h _ _ _ _
      · exact h
    · split
      · exact of_fst (stashCheck_numbered h _ _ _ _) (by assumption)
      · exact of_fst (stashCheck_numbered h _ _ _ _) (by assumption)
      · have h1 := of_fst (stashCheck_numbered h _ _ _ _) (by assumption)
        split
        · dsimp only
          split
          · exact of_fst (claim_numbered h1 _) (by assumption)
          · have h2 := of_fst (claim_numbered h1 _) (by assumption)
            split
            · exact of_fst (dirty _ h2 _) (by assumption)
            · have h3 := of_fst (dirty _ h2 _) (by assumption)
              refine ite_fst_numbered (setStashLine_numbered (recallLine_numbered h3 _ _) _ _ _) ?_
              split
              · exact of_fst (readGran_numbered (recallLine_numbered h3 _ _) _ _ _) (by assumption)
              · have h4 := of_fst (readGran_numbered (recallLine_numbered h3 _ _) _ _ _) (by assumption)
                exact setStashLine_numbered (modBlock_numbered h4 _ _ _) _ _ _
        · exact h1

theorem localRead_numbered (h : Numbered F s) (core bslot off n) : Numbered F (localRead s core bslot off n).1 := by
  unfold localRead
  split
  · exact h
  · split <;> exact of_fst (stashTouch_numbered h _ _ _ _) (by assumption)

theorem localWrite_numbered (h : Numbered F s) (core bslot off d) : Numbered F (localWrite s core bslot off d).1 := by
  unfold localWrite
  grind only [!stashTouch_numbered, !modBlock_numbered]

theorem localPlace_numbered (h : Numbered F s) (c win va o size align k) : Numbered F (localPlace s c win va o size align k).1 := by
  unfold localPlace
  refine ite_fst_numbered h ?_
  split
  · exact h
  · split
    · exact h
    · refine ite_fst_numbered h ?_
      split <;> exact of_fst (stashCheck_numbered h _ _ _ _) (by assumption)

theorem privAcc_numbered (h : Numbered F s) (c lane p va size align k wide) : Numbered F (privAcc s c lane p va size align k wide).1 := by
  unfold privAcc
  refine ite_fst_numbered h ?_
  split
  · exact of_fst (privateParts_numbered h _ _ _ _ _ _ _) (by assumption)
  · exact ite_fst_numbered (of_fst (privateParts_numbered h _ _ _ _ _ _ _) (by assumption))
      (ite_fst_numbered (of_fst (privateParts_numbered h _ _ _ _ _ _ _) (by assumption)) (of_fst (privateParts_numbered h _ _ _ _ _ _ _) (by assumption)))

theorem resolve_numbered (h : Numbered F s) (c lane va size align k wide fmt) : Numbered F (resolve s c lane va size align k wide fmt).1 := by
  unfold resolve
  split
  · exact h
  · split
    · generalize va.toNat - apertureBase = o
      grind only [!localPlace_numbered, !privAcc_numbered]
    · grind only [!translate_numbered]

theorem l1Fit_keeps (k set fuel) : ((l1Fit k set fuel).id, (l1Fit k set fuel).warps) = (k.id, k.warps) := by
  induction fuel generalizing k with
  | zero => rfl
  | succ fuel ih =>
    unfold l1Fit
    dsimp only
    split
    · rfl
    · split
      · exact ih _
      · rfl

theorem l1Put_keeps (k l) : ((l1Put k l).id, (l1Put k l).warps) = (k.id, k.warps) := by
  unfold l1Put
  dsimp only
  split
  · rfl
  · split
    · rfl
    · split <;> rfl

theorem l1Filled_numbered (h : Numbered F s) (i line l1 cpol) : Numbered F (l1Filled s i line l1 cpol) := by
  unfold l1Filled
  refine ite_numbered h (issuerModCore_numbered h _ fun k => ?_)
  split
  · exact l1Put_keeps _ _
  · rfl

theorem loadHome_numbered (h : Numbered F s) (i a pa n l1 fresh cpol) : Numbered F (loadHome s i a pa n l1 fresh cpol).1 := by
  unfold loadHome
  dsimp only
  refine ite_fst_numbered (startRecall_numbered h _ _) ?_
  split
  · exact issuerModCore_numbered (of_fst (readGran_numbered (recallLine_numbered h _ _) _ _ _) (by assumption)) _ fun _ => rfl
  · exact ite_fst_numbered (of_fst (readGran_numbered (recallLine_numbered h _ _) _ _ _) (by assumption) :)
      (l1Filled_numbered (of_fst (readGran_numbered (recallLine_numbered h _ _) _ _ _) (by assumption)) _ _ _ _)

theorem l1Hit_numbered (h : Numbered F s) (i l off n cpol) : Numbered F (l1Hit s i l off n cpol).1 :=
  modCore_numbered h _ fun k => by split <;> rfl

theorem proxyFill_numbered (h : Numbered F s) (nd x) : Numbered F (proxyFill s nd x) := h

theorem loadRemote_numbered (h : Numbered F s) (i a nd addr n l1 fresh cpol) : Numbered F (loadRemote s i a nd addr n l1 fresh cpol).1 := by
  unfold loadRemote
  dsimp only
  split
  · exact l1Filled_numbered h _ _ _ _
  · exact ite_fst_numbered h (l1Filled_numbered (proxyFill_numbered h _ _) _ _ _ _)

theorem loadPart_numbered (h : Numbered F s) (i a p fresh pol) : Numbered F (Machine.loadPart s i a p fresh pol).1 := by
  have bytes {r : State × Done Loaded} (hr : Numbered F r.1) (f : State → Loaded → Loaded) :
      Numbered F (match r with | (s, .ok x) => (s, Done.ok (f s x)) | r => r).1 := by
    split <;> exact hr
  unfold Machine.loadPart
  split
  · dsimp only
    split
    · exact h
    · refine bytes ?_ _
      split
      · exact l1Hit_numbered h _ _ _ _ _
      · exact loadHome_numbered h _ _ _ _ _ _ _
  · split <;> exact h
  · dsimp only
    split
    · exact h
    · split
      · exact h
      · refine bytes ?_ _
        split
        · exact l1Hit_numbered h _ _ _ _ _
        · exact loadRemote_numbered h _ _ _ _ _ _ _ _
  · split
    · exact h
    · split <;> exact h
  · split <;> exact of_fst (localRead_numbered h _ _ _ _) (by assumption)
  · exact h

theorem loadAcc_numbered (h : Numbered F s) (i a fresh cpol) : Numbered F (loadAcc s i a fresh cpol).1 := by
  unfold loadAcc
  dsimp only
  refine ite_fst_numbered h ?_
  refine foldl_fst_numbered (fun _ _ h => ?_) _ h
  split
  · split <;> exact of_fst (loadPart_numbered h _ _ _ _ _) (by assumption)
  · exact h

theorem pubGone_numbered (h : Numbered F s) (launch x) : Numbered F (pubGone s launch x) := modLaunch_numbered h _ _

theorem publishLine_numbered (h : Numbered F s) (l x) : Numbered F (publishLine s l x).1 := by
  unfold publishLine
  grind only [!startRecall_numbered, !pubGone_numbered, !dropProxy_numbered, !setNode_numbered, !mergeCells_numbered, !recallLine_numbered, !tagLine_numbered, !foldl_numbered, !modCore_numbered, l1Drop]

theorem pubFailed_numbered (h : Numbered F s) (launch x) : Numbered F (pubFailed s launch x) := launchRecord_numbered h _ _

theorem publishLines_numbered (h : Numbered F s) (launch mine l) : Numbered F (publishLines s launch mine l).1 := by
  induction l generalizing s with
  | nil => exact h
  | cons x r ih =>
    unfold publishLines
    split
    · exact h
    · split
      · have h1 := of_fst (publishLine_numbered h _ _) (by assumption)
        exact ih (ite_numbered h1 (pubFailed_numbered h1 _ _))
      · exact ih (of_fst (publishLine_numbered h _ _) (by assumption))

theorem publishHome_numbered (h : Numbered F s) (launch mine ls) : Numbered F (publishHome s launch mine ls).1 :=
  ite_fst_numbered (foldl_numbered (fun _ _ h => ite_numbered (startRecall_numbered h _ _) h) _ h) (publishLines_numbered h _ _ _)

theorem publishAll_numbered (h : Numbered F s) (launch mine) : Numbered F (publishAll s launch mine).1 := by
  unfold publishAll
  grind only [!publishHome_numbered, !foldl_numbered, !foldl_fst_numbered]

theorem pubWrite_numbered (h : Numbered F s) (i va pa key d) : Numbered F (pubWrite s i va pa key d).1 := by
  unfold pubWrite
  split
  · exact h
  · refine ite_fst_numbered ?_ (modLaunch_numbered h _ _)
    split
    · exact modLaunch_numbered h _ _
    · split
      · exact of_fst (publishLine_numbered h _ _) (by assumption)
      · exact modLaunch_numbered (of_fst (publishLine_numbered h _ _) (by assumption)) _ _
      · exact modLaunch_numbered (pubFailed_numbered (of_fst (publishLine_numbered h _ _) (by assumption)) _ _) _ _

theorem setAcc_stands (w : Warp) (o : Option (Vector Word 2048)) (e r : Nat) (x : Word) : StandsAt w
    (match o with | some a => if h : e < 2048 then { w with acc := w.acc.set r (a.set e x) } else w | none => w) := by
  cases o with
  | none => rfl
  | some a => dsimp only; split <;> rfl

theorem setScratch_stands (w : Warp) (k : Nat) (l : Fin 32) (x : Word) : StandsAt w (w.setScratch k l x) := by
  unfold Warp.setScratch
  split <;> rfl

theorem ctxPutWord_stands (w : Warp) (k : Nat) (x : Word) : StandsAt w (ctxPutWord w k x) := by
  exact ite_stands rfl (ite_stands (ite_stands rfl rfl) (ite_stands (setP_stands _ _ _ _) (ite_stands rfl (ite_stands (setT_stands _ _ _)
    (ite_stands rfl (ite_stands (setS_stands _ _ _) (ite_stands rfl (ite_stands (setV_stands _ _ _ _) (ite_stands (setScratch_stands _ _ _ _)
      (ite_stands rfl (ite_stands (setAcc_stands _ _ _ _ _) rfl)))))))))))

theorem ctxPut_stands (core : Nat) (w : Warp) (off : Nat) (d : List Byte) : StandsAt w (ctxPut core w off d) := by
  induction d generalizing w off with
  | nil => rfl
  | cons b r ih => exact (ctxPutWord_stands _ _ _).trans (ih _ _)

theorem storePart_numbered (h : Numbered F s) (i a p d tag) : Numbered F (Machine.storePart s i a p d tag).1 := by
  have l1 (n : Option Nat) (line off : Nat) : Numbered F (i.modCore s fun k => l1Store k ⟨n, line⟩ off d) :=
    issuerModCore_numbered h i fun _ => rfl
  unfold Machine.storePart
  split
  · split
    · exact pubWrite_numbered h _ _ _ _ _
    · split
      · exact h
      · dsimp only
        split
        · exact submit_numbered h _
        · exact submit_numbered (l1 _ _ _) _
  · split <;> exact h
  · split
    · exact h
    · split
      · exact pubWrite_numbered h _ _ _ _ _
      · exact submit_numbered (l1 _ _ _) _
  · split
    · exact h
    · split
      · exact h
      · exact h
  · exact localWrite_numbered h _ _ _ _
  · exact cur_stands h (ctxPut_stands _ _ _ _)

theorem storeAcc_numbered (h : Numbered F s) (i a d tag) : Numbered F (storeAcc s i a d tag).1 := by
  unfold storeAcc
  dsimp only
  refine ite_fst_numbered h ?_
  refine foldl_fst_numbered (fun _ _ h => ?_) _ h
  split
  · exact storePart_numbered h _ _ _ _ _
  · exact h

theorem rmwPub_numbered (h : Numbered F s) (i a p at_ op) : Numbered F (rmwPub s i a p at_ op).1 := by
  unfold rmwPub
  dsimp only
  split
  · split
    · exact of_fst (loadPart_numbered h _ _ _ _ _) (by assumption)
    · split <;> exact of_fst (pubWrite_numbered (of_fst (loadPart_numbered h _ _ _ _ _) (by assumption)) _ _ _ _ _) (by assumption)
  · exact of_fst (loadPart_numbered h _ _ _ _ _) (by assumption)
  · exact of_fst (loadPart_numbered h _ _ _ _ _) (by assumption)

theorem rmwHome_numbered (h : Numbered F s) (i x hold) : Numbered F (rmwHome s i x hold).1 := by
  unfold rmwHome
  refine ite_fst_numbered ?_ ?_
  · split
    · exact (of_fst (request_numbered h _) (by assumption) :)
    · exact reply_numbered (of_fst (request_numbered h _) (by assumption)) _ _
    · exact ite_fst_numbered (of_fst (request_numbered h _) (by assumption)) (reply_numbered (of_fst (request_numbered h _) (by assumption)) _ _)
  · refine ite_fst_numbered h ?_
    split
    · exact of_fst (request_numbered h _) (by assumption)
    · exact ite_numbered (of_fst (request_numbered h _) (by assumption) :) (of_fst (request_numbered h _) (by assumption))
    · exact of_fst (request_numbered h _) (by assumption)

theorem rmwPart_numbered (h : Numbered F s) (i a p op tag hold) : Numbered F (rmwPart s i a p op tag hold).1 := by
  unfold rmwPart
  grind only [!issuerModCore_numbered, l1Drop, !localRead_numbered, !localWrite_numbered, !rmwHome_numbered, !rmwPub_numbered]

theorem updLimit_numbered (h : Numbered F s) (core line fuel) : Numbered F (updLimit s core line fuel) := by
  induction fuel generalizing s with
  | zero => exact h
  | succ fuel ih =>
    unfold updLimit
    grind only [!mergeUpd_numbered]

theorem updFit_keeps (k u) : ((updFit k u).id, (updFit k u).warps) = (k.id, k.warps) := by
  unfold updFit
  exact List.foldlRecOn (motive := fun j => (j.id, j.warps) = (k.id, k.warps)) _ _ rfl fun j hj _ _ => (l1Fit_keeps j _ _).trans hj

theorem redUpdate_numbered (h : Numbered F s) (i a pa x tag) : Numbered F (redUpdate s i a pa x tag).1 := by
  unfold redUpdate
  grind only [!dirRoom_numbered, l1Drop, !mergeUpd_numbered, !modCore_numbered, !recallStash_numbered, !startRecall_numbered, updFit_keeps, !updLimit_numbered]

/-! ### Trace packets -/

theorem traceBytes_numbered (h : Numbered F s) (core d) : Numbered F (traceBytes s core d) := by
  unfold traceBytes
  exact modCore_numbered (physPost_numbered (physPost_numbered h _ _) _ _) _ fun _ => rfl

theorem emit_numbered (h : Numbered F s) (core w ty payload) : Numbered F (emit s core w ty payload) :=
  ite_numbered h (traceBytes_numbered (ite_numbered (traceBytes_numbered h _ _) h) _ _)

theorem emitSync_numbered (h : Numbered F s) (core w) : Numbered F (emitSync s core w) := ite_numbered (traceBytes_numbered h _ _) h

theorem emitCur_numbered (h : Numbered F s) (ty payload) : Numbered F (emitCur s ty payload) := emit_numbered h _ _ _ _

/-! ### Blocks and warps: waiting, waking and ending -/

/-- Some warps of a core change, but not their slots. -/
theorem mapSome_numbered (h : Numbered F s) (c : Nat) {p : Warp → Prop} [DecidablePred p] {f : Warp → Warp} (hf : ∀ w, place (f w) = place w) :
    Numbered F (s.mapWarps c fun w => if p w then f w else w) := by
  refine mapWarps_numbered h c fun w => ?_
  split
  · exact hf w
  · rfl

theorem releaseBlock_numbered (h : Numbered F s) (c bs b) : Numbered F (releaseBlock s c bs b) := mapSome_numbered h c fun _ => rfl

theorem checkBar_numbered (h : Numbered F s) (c bs) : Numbered F (checkBar s c bs) := ite_numbered (releaseBlock_numbered h _ _ _) h

theorem checkNbar_numbered (h : Numbered F s) (c bs id) : Numbered F (checkNbar s c bs id) := by
  unfold checkNbar
  grind only [!modBlock_numbered, !releaseBlock_numbered]

theorem checkCoreBar_numbered (h : Numbered F s) (c launch id) : Numbered F (checkCoreBar s c launch id) := by
  unfold checkCoreBar
  dsimp only
  split
  · exact h
  · refine ite_numbered ?_ h
    have h1 := modCore_numbered h c (f := fun k => { k with nbar := k.nbar.filter fun x => !(x.1 = launch && x.2.1 = id) }) fun _ => rfl
    exact mapSome_numbered h1 c (f := fun w => w.release (.core id)) fun _ => rfl

theorem checkBarriers_numbered (h : Numbered F s) (c bs launch) : Numbered F (checkBarriers s c bs launch) :=
  foldl_numbered (fun _ _ h => checkCoreBar_numbered h _ _ _) _ (foldl_numbered (fun _ _ h => checkNbar_numbered h _ _ _) _ (checkBar_numbered h _ _))

theorem checkCbar_numbered (h : Numbered F s) (l n) : Numbered F (checkCbar s l n) := by
  unfold checkCbar
  refine ite_numbered ?_ (ite_numbered ?_ h)
  · exact foldl_numbered (fun _ x h => mapSome_numbered h x.1 (f := fun w => { w with wait := .retry }) fun _ => rfl) _ h
  · exact foldl_numbered (fun _ x h => mapSome_numbered h x.1 (f := Warp.wake) fun _ => rfl) _ h

theorem imageOut_numbered (h : Numbered F s) (c slot) : Numbered F (imageOut s c slot) := by
  unfold imageOut
  split
  · exact h
  · exact physPost_numbered (physPost_numbered h _ _) _ _

theorem imageRead_numbered (h : Numbered F s) (w) : Numbered F (imageRead s w).1 := by
  unfold imageRead
  dsimp only
  split
  · next t e =>
    cases e1 : physWaits s (w.ctxBase.toNat + 0x800) (1024 * w.vgran) false with
    | some u => rw [e1] at e; cases e; exact physWaits_numbered h _ _ _ _ e1
    | none => rw [e1] at e; exact physWaits_numbered h _ _ _ _ e
  · split <;> exact of_fst (physRead_numbered h _ _ _) (by assumption)

theorem setHandle_numbered (h : Numbered F s) (c bs x f) : Numbered F (setHandle s c bs x f) := modBlock_numbered h _ _ _

theorem handleFull_numbered (h : Numbered F s) (c bs x) : Numbered F (handleFull s c bs x) := mapSome_numbered (setHandle_numbered h _ _ _ _) c fun _ => rfl

theorem handleFree_numbered (h : Numbered F s) (c bs x) : Numbered F (handleFree s c bs x) := mapSome_numbered (setHandle_numbered h _ _ _ _) c fun _ => rfl

theorem retireFrom_numbered (h : Numbered F s) (c bs fuel) : Numbered F (retireFrom s c bs fuel) := by
  induction fuel generalizing s with
  | zero => exact h
  | succ fuel ih =>
    unfold retireFrom
    grind only [!modBlock_numbered]

theorem retireBatches_numbered (h : Numbered F s) (c bs) : Numbered F (retireBatches s c bs) := retireFrom_numbered h _ _ _

theorem dropCopy_numbered (h : Numbered F s) (c x) : Numbered F (dropCopy s c x) := by
  have hk : Numbered F (s.modCore c fun k => { k with copies := k.copies.filter fun y => y.no ≠ x.no }) :=
    modCore_numbered h c fun _ => rfl
  exact dropPlaces_numbered hk _

theorem failCopy_numbered (h : Numbered F s) (c x t) : Numbered F (failCopy s c x t) := by
  unfold failCopy
  split
  · exact serveHeld_numbered (launchRecord_numbered (dropCopy_numbered h _ _) _ _)
  · refine retireBatches_numbered ?_ _ _
    refine modBlock_numbered ?_ _ _ _
    split
    · exact handleFull_numbered (setHandle_numbered (serveHeld_numbered (launchRecord_numbered (dropCopy_numbered h _ _) _ _)) _ _ _ _) _ _ _
    · exact serveHeld_numbered (launchRecord_numbered (dropCopy_numbered h _ _) _ _)

theorem sumStalls_numbered (h : Numbered F s) (c w) : Numbered F (sumStalls s c w) := modBlock_numbered h _ _ _

theorem blockRecord_numbered (h : Numbered F s) (c b killed) : Numbered F (blockRecord s c b killed) := ite_numbered h h

theorem saveGens_numbered (h : Numbered F s) (c w) : Numbered F (saveGens s c w) := modCore_numbered h _ fun _ => rfl

theorem leaveActive_numbered (h : Numbered F s) (c slot) : Numbered F (leaveActive s c slot) := modCore_numbered h _ fun _ => rfl

theorem freeWarp_numbered (h : Numbered F s) (c w) : Numbered F (freeWarp s c w) :=
  leaveActive_numbered (removeWarp_numbered (saveGens_numbered (sumStalls_numbered h _ _) _ _) _ _) _ _

theorem unmapStash_numbered (h : Numbered F s) (c st) : Numbered F (unmapStash s c st) :=
  modCore_numbered (foldl_numbered (fun _ _ h => ite_numbered (stashWriteBack_numbered h _ _ _) h) _ h) _ fun _ => rfl

theorem unlockAll_numbered (h : Numbered F s) (c key) : Numbered F (unlockAll s c key) := by
  unfold unlockAll
  exact serveHeld_numbered (modCore_numbered (by exact h) c fun _ => rfl)

theorem endCopies_numbered (h : Numbered F s) (c bs) : Numbered F (endCopies s c bs) := by
  unfold endCopies
  split
  refine foldl_numbered (fun s x h => ?_) _ h
  have h1 : Numbered F (if x.2.deliv < x.2.len then s.modCore c fun y => { y with dropret := y.dropret + 1 } else s) :=
    ite_numbered (modCore_numbered h c fun _ => rfl) h
  refine ite_numbered ?_ (ite_numbered (modCore_numbered h _ fun _ => rfl) h)
  exact ite_numbered (serveHeld_numbered (dropCopy_numbered h1 _ _)) (failCopy_numbered h1 _ _ _)

theorem endJobs_numbered (h : Numbered F s) (c w) : Numbered F (endJobs s c w) := modCore_numbered h _ fun _ => rfl

theorem endStreams_numbered (h : Numbered F s) (c bs launch) : Numbered F (endStreams s c bs launch) := modLaunch_numbered h _ _

theorem dropFromBarriers_numbered (h : Numbered F s) (c launch) : Numbered F (dropFromBarriers s c launch) := modCore_numbered h _ fun _ => rfl

theorem endBlock_numbered (h : Numbered F s) (c b killed) : Numbered F (endBlock s c b killed) := by
  have slot (s : State) (h : Numbered F s) : Numbered F (s.modCore c fun k => { k with
      blocks := k.blocks.filter fun x => x.bslot ≠ b.bslot, genLSs := assocSet b.bslot (b.genLS + 1) k.genLSs }) :=
    modCore_numbered h c fun _ => rfl
  have due (s : State) (h : Numbered F s) : Numbered F { s with placeDue := true } := h
  unfold endBlock
  extract_lets s1 s2 s3 s4 s5 s6 s7 s8 s9 s10 s11 s12 s13
  have h1 : Numbered F s1 := foldl_numbered (fun _ _ h => unmapStash_numbered h _ _) _ h
  have h2 : Numbered F s2 := endCopies_numbered h1 c b.bslot
  have h3 : Numbered F s3 := ite_numbered (foldl_numbered (fun _ _ h => endJobs_numbered h _ _) _ h2) h2
  have h4 : Numbered F s4 := unlockAll_numbered h3 _ _
  have h5 : Numbered F s5 := dropFromBarriers_numbered h4 _ _
  have h6 : Numbered F s6 := endStreams_numbered h5 _ _ _
  have h7 : Numbered F s7 := foldl_numbered (fun _ _ h => freeWarp_numbered h _ _) _ h6
  have h8 : Numbered F s8 := by
    unfold s8
    split
    · exact blockRecord_numbered h7 _ _ _
    · exact h7
  have h9 : Numbered F s9 := slot _ h8
  have h10 : Numbered F s10 := modLaunch_numbered h9 _ _
  have h11 : Numbered F s11 := dropBlockPlaces_numbered h10 _ _
  have h12 : Numbered F s12 := foldl_numbered (fun _ _ h => checkCoreBar_numbered h _ _ _) _ h11
  have h13 : Numbered F s13 := by
    unfold s13
    split
    · exact checkCbar_numbered h12 _ _
    · exact h12
  exact due _ h13

theorem killBlock_numbered (h : Numbered F s) (c b r) : Numbered F (killBlock s c b r) := launchRecord_numbered (endBlock_numbered h _ _ _) _ _

theorem killLaunch_numbered (h : Numbered F s) (id sub) : Numbered F (killLaunch s id sub) :=
  foldl_numbered (fun _ _ h => killBlock_numbered h _ _ _) _ (modLaunch_numbered h _ _)

theorem afterExit_numbered (h : Numbered F s) (c w) : Numbered F (afterExit s c w) := by
  unfold afterExit
  grind only [!checkBarriers_numbered, !checkCbar_numbered, !modBlock_numbered]

theorem warpEnd_numbered (h : Numbered F s) (c w) : Numbered F (warpEnd s c w) := by
  unfold warpEnd
  dsimp only
  refine ite_numbered h ?_
  split
  · exact ite_numbered (endBlock_numbered (by exact with_numbered (freeWarp_numbered h _ _) rfl) _ _ _) (with_numbered (freeWarp_numbered h _ _) rfl)
  · exact with_numbered (freeWarp_numbered h _ _) rfl

/-! ### Traps and how a group is performed -/

theorem killCur_numbered (h : Numbered F s) (t pc inpatch opidx) : Numbered F (killCur s t pc inpatch opidx) := by
  unfold killCur
  split
  · exact killBlock_numbered (ite_numbered (by exact with_numbered h rfl) h) _ _ _
  · exact h

theorem enterHandler_numbered (h : Numbered F s) (t pc exec entry sys inpatch opidx) : Numbered F (enterHandler s t pc exec entry sys inpatch opidx) :=
  emitCur_numbered (by exact h) _ _

theorem dispatchTrap_numbered (h : Numbered F s) (t pc exec handlerOnly inpatch opidx) : Numbered F (dispatchTrap s t pc exec handlerOnly inpatch opidx) :=
  ite_numbered (killCur_numbered h _ _ _ _) (ite_numbered (enterHandler_numbered h _ _ _ _ _ _ _) (ite_numbered (killCur_numbered h _ _ _ _) (enterHandler_numbered h _ _ _ _ _ _ _)))

theorem endGroup_numbered (h : Numbered F s) (g) : Numbered F (endGroup g s) := by
  unfold endGroup
  dsimp only
  split
  · exact cur_stands h rfl
  · exact cur_stands h (goto_stands _ _ _)

theorem takeTrapAt_numbered (h : Numbered F s) (t pc after) : Numbered F (takeTrapAt s t pc after) := by
  have held (s : State) (h : Numbered F s) (x y) : Numbered F { s with cur := { s.cur with wait := x, held := y } } := cur_stands h rfl
  unfold takeTrapAt
  extract_lets inpatch opidx base sup s1 w exec u w2 s2 s3 w3
  have h1 : Numbered F s1 := by
    unfold s1
    refine ite_numbered ?_ h
    split
    · exact dropBlockPlaces_numbered h _ _
    · exact h
  have hw : StandsAt s1.cur w2 := discard_stands s1.cur
  have h2 : Numbered F s2 := cur_stands h1 hw
  have h3 : Numbered F s3 := by
    unfold s3
    split
    · exact endGroup_numbered h2 _
    · exact h2
  split
  · exact cur_stands h2 rfl
  · clear_value s3
    exact ite_numbered (launchRecord_numbered (emitCur_numbered (held s3 h3 _ _) _ _) _ _) (dispatchTrap_numbered h3 _ _ _ _ _ _)

theorem takeTrap_numbered (h : Numbered F s) (t) : Numbered F (takeTrap s t) := takeTrapAt_numbered h _ _ _

theorem takeUnserviced_numbered (h : Numbered F s) (t) : Numbered F (takeUnserviced s t) := dispatchTrap_numbered h _ _ _ _ _ _

theorem runRepsFrom_numbered {one} (hone : ∀ i s, Numbered F s → Numbered F (one i s).1) (h : Numbered F s) (n i) :
    Numbered F (runRepsFrom one n i s).1 := by
  induction n generalizing s i with
  | zero => exact h
  | succ n ih =>
    unfold runRepsFrom
    split
    · have h1 := of_fst (hone i s h) (by assumption)
      have h2 := cur_stands (w := { (State.cur _).setRep (i + 1) with woken := false }) h1 rfl
      exact ite_fst_numbered (cur_stands h1 (clearResume_stands _)) (ite_fst_numbered h2 (ih h2 _))
    · exact hone i s h

theorem runReps_numbered (g) {one} (hone : ∀ i s, Numbered F s → Numbered F (one i s).1) (h : Numbered F s) : Numbered F (runReps g one s).1 :=
  runRepsFrom_numbered hone h _ _

theorem ending_numbered (g) {r} (h : Numbered F r.1) : Numbered F (ending g r).1 := by
  unfold ending
  split
  · exact endGroup_numbered h _
  · exact h

/-- A change of a warp, where it is made, leaves it where it stands. -/
def Stands (f : Warp → Except Trap Warp) : Prop := ∀ w x, f w = .ok x → StandsAt w x

theorem runWarp_numbered (h : Numbered F s) (g) {f} (hf : Stands f) : Numbered F (runWarp g f s).1 := by
  unfold runWarp
  split
  · exact h
  · next w hw =>
    have hs := hf _ _ hw
    split
    · exact cur_stands h hs
    · exact cur_stands h hs

theorem warpLevel_numbered (g chk) {one} (hone : ∀ i s, Numbered F s → Numbered F (one i s).1) (h : Numbered F s) :
    Numbered F (warpLevel g chk one s).1 := by
  unfold warpLevel
  split
  · exact h
  · exact ending_numbered _ (ite_fst_numbered h (runReps_numbered _ hone h))

theorem afterGroup_numbered (h : Numbered F s) (i) : Numbered F (afterGroup i s) := by
  exact ite_numbered h (cur_stands h (ite_stands rfl rfl))

theorem perform_numbered (i) {body} (hbody : ∀ s, Numbered F s → Numbered F (body s).1) (h : Numbered F s) :
    NextNumbered F (perform i body s) := by
  unfold perform
  split
  · exact next_numbered h
  · have hb (s : State) (h : Numbered F s) (a b : Bool) (x y : Trap) :
        Numbered F (if a then (s, Perf.trap x) else if b then (s, Perf.trap y) else body s).1 :=
      ite_fst_numbered h (ite_fst_numbered h (hbody s h))
    have h0 : Numbered F (if s.cur.inMicro then { s with cur := { s.cur with wait := .none } }
        else { s with cur := { s.cur with wait := .none, base := some (encodeBase i), grp := i.grp } }) :=
      ite_numbered h h
    intro t e
    dsimp only at e
    split at e <;> cases e <;> apply pumpRecords_numbered
    all_goals have h1 := of_fst (hb _ h0 _ _ _ _) (by assumption)
    · exact cur_stands (afterGroup_numbered h1 _) rfl
    · exact h1
    · exact h1
    · split
      · exact h1
      · exact takeTrap_numbered h1 _
    · exact takeTrapAt_numbered h1 _ _ _

theorem landV_numbered (h : Numbered F s) (reg l x) : Numbered F (landV s reg l x) :=
  ite_numbered (pushReturn_numbered h _ _) (cur_stands h (setV_stands _ _ _ _))

theorem landVec_numbered (h : Numbered F s) (reg m x) : Numbered F (landVec s reg m x) :=
  ite_numbered (foldl_numbered (fun _ _ h => landV_numbered h _ _ _) _ h) (cur_stands h (setVec_stands _ _ _ _))

theorem landS_numbered (h : Numbered F s) (reg x) : Numbered F (landS s reg x) :=
  ite_numbered (pushReturn_numbered h _ _) (setS_numbered h _ _)

theorem newTag_numbered (h : Numbered F s) : Numbered F (newTag s).1 := by
  unfold newTag
  grind only [numbered_iff, place]

theorem settlePromotions_numbered (h : Numbered F s) (m) : Numbered F (settlePromotions s m) := by
  unfold settlePromotions
  grind only [numbered_iff, place]

theorem acquire_numbered (h : Numbered F s) (m d) : Numbered F (acquire s m d) := by
  unfold acquire
  grind only [numbered_iff, place, l1Acquire, !settlePromotions_numbered]

theorem markLanes_numbered (h : Numbered F s) (l) : Numbered F (markLanes s l).1 := by
  induction l generalizing s with
  | nil => exact h
  | cons x r ih =>
    unfold markLanes
    grind only [!markDirty_numbered]

theorem checkEach_numbered (h : Numbered F s) {α : Type} (l : List (Fin 32 × α)) {chk}
    (hchk : ∀ s l x, Numbered F s → Numbered F (chk s l x).1) : Numbered F (checkEach s l chk).1 := by
  unfold checkEach
  exact foldl_fst_numbered (fun p x h => hchk p.1 x.1 x.2 h) l (p := (s, [])) h

theorem checkLanes_numbered (h : Numbered F s) (l) {chk} (hchk : ∀ s l, Numbered F s → Numbered F (chk s l).1) :
    Numbered F (checkLanes s l chk).1 := by
  unfold checkLanes
  have := checkEach_numbered h (l.map fun l => (l, ())) (chk := fun s l _ => chk s l) fun s l _ => hchk s l
  grind only [!markLanes_numbered]

theorem checkLane_numbered (h : Numbered F s) (l va size align k wide more) : Numbered F (checkLane s l va size align k wide more).1 := by
  unfold checkLane
  split <;> exact of_fst (resolve_numbered h _ _ _ _ _ _ _ _) (by assumption)

/-! ### Copy engines -/

theorem acceptCopy_numbered (h : Numbered F s) (b kind dst src w0 w1 p) : Numbered F (acceptCopy s b kind dst src w0 w1 p) := by
  unfold acceptCopy
  extract_lets c k s1 s2
  have h1 : Numbered F s1 := core_numbered h rfl
  have h2 : Numbered F s2 := modBlock_numbered h1 _ _ _
  split
  · exact setHandle_numbered h2 _ _ _ _
  · exact h2

theorem touch_stands (w : Warp) (m : Mask) (d : Domain) : StandsAt w (touch w m d) := by
  unfold StandsAt place touch
  rfl

theorem touched_numbered (h : Numbered F s) (m d) : Numbered F { s with cur := touch s.cur m d } := cur_stands h (touch_stands _ _ _)

theorem issueCopy_numbered (h : Numbered F s) (kind dst src k) : Numbered F (issueCopy kind dst src k s).1 := by
  unfold issueCopy
  dsimp only
  split
  · exact h
  · exact h
  · split
    · dsimp only
      split
      · exact setHandle_numbered h _ _ _ _
      · exact h
    · exact touched_numbered (acceptCopy_numbered h _ _ _ _ _ _ _) _ _

theorem copyBody_numbered {x} (h : Numbered F x) (gr kind d a b) : Numbered F (copyBody gr kind d a b x).1 :=
  warpLevel_numbered _ _ (fun _ _ h => issueCopy_numbered h _ _ _ _) h

theorem execAcopy_numbered (h : Numbered F s) (gr d a b) : NextNumbered F (execAcopy gr d a b s) :=
  perform_numbered _ (fun _ h => copyBody_numbered h _ _ _ _ _) h

theorem execAxform_numbered (h : Numbered F s) (gr d a b) : NextNumbered F (execAxform gr d a b s) :=
  perform_numbered _ (fun _ h => copyBody_numbered h _ _ _ _ _) h

theorem execAgather_numbered (h : Numbered F s) (gr d a b) : NextNumbered F (execAgather gr d a b s) :=
  perform_numbered _ (fun _ h => copyBody_numbered h _ _ _ _ _) h

theorem closeBatch_numbered (h : Numbered F s) (b) : Numbered F (closeBatch s b) := by
  unfold closeBatch
  grind only [!modBlock_numbered, !retireBatches_numbered]

theorem execBclose_numbered (h : Numbered F s) (gr) : NextNumbered F (execBclose gr s) := by
  unfold execBclose
  refine perform_numbered _ (fun _ h => ?_) h
  split
  · exact endGroup_numbered h _
  · exact ite_fst_numbered h (endGroup_numbered (closeBatch_numbered h _) _)

theorem execWaitb_numbered (h : Numbered F s) (gr n) : NextNumbered F (execWaitb gr n s) := by
  refine perform_numbered _ (fun s h => ?_) h
  split
  · exact endGroup_numbered h _
  · extract_lets closed t b v
    have ht : Numbered F t := ite_numbered h (closeBatch_numbered h _)
    have hv : Numbered F v := cur_stands ht (clearResume_stands _)
    refine ite_fst_numbered h (ite_fst_numbered ht ?_)
    split
    · exact modBlock_numbered hv _ _ _
    · exact endGroup_numbered hv _

theorem execHwaitFull_numbered (h : Numbered F s) (gr x) : NextNumbered F (execHwaitFull gr x s) := by
  unfold execHwaitFull
  refine perform_numbered _ (fun _ h => ?_) h
  split
  · exact endGroup_numbered h _
  · refine ite_fst_numbered ?_ (setHandle_numbered h _ _ _ _)
    split
    · exact h
    · exact endGroup_numbered h _

theorem execHwaitFree_numbered (h : Numbered F s) (gr x) : NextNumbered F (execHwaitFree gr x s) := by
  unfold execHwaitFree
  refine perform_numbered _ (fun _ h => ?_) h
  split
  · exact endGroup_numbered h _
  · exact ite_fst_numbered (endGroup_numbered h _) (setHandle_numbered h _ _ _ _)

theorem execHsetDrain_numbered (h : Numbered F s) (gr x) : NextNumbered F (execHsetDrain gr x s) := by
  unfold execHsetDrain
  refine perform_numbered _ (fun _ h => ?_) h
  split
  · exact endGroup_numbered h _
  · refine ite_fst_numbered (endGroup_numbered h _) ?_
    split
    · exact h
    · exact setHandle_numbered h _ _ _ _
    · exact endGroup_numbered (setHandle_numbered h _ _ _ _) _

theorem execHsetFree_numbered (h : Numbered F s) (gr x) : NextNumbered F (execHsetFree gr x s) := by
  unfold execHsetFree
  refine perform_numbered _ (fun _ h => ?_) h
  split
  · exact endGroup_numbered h _
  · refine ite_fst_numbered h ?_
    split
    · exact endGroup_numbered h _
    · exact h
    · exact handleFree_numbered (endGroup_numbered (setHandle_numbered h _ _ _ _) _) _ _ _

theorem execWptr_numbered (h : Numbered F s) (gr d x) : NextNumbered F (execWptr gr d x s) := by
  unfold execWptr
  dsimp only
  refine perform_numbered _ (fun _ h => warpLevel_numbered _ _ (fun _ _ h => ?_) h) h
  split
  · exact h
  · exact landS_numbered h _ _

theorem engRead_numbered (h : Numbered F s) (x i va n snap) : Numbered F (engRead s x i va n snap).1 := by
  unfold engRead
  grind only [!loadAcc_numbered, !localRead_numbered, !translate_numbered]

theorem engWrite_numbered (h : Numbered F s) (x i lines va d) : Numbered F (engWrite s x i lines va d).1 := by
  unfold engWrite
  refine ite_fst_numbered ?_ ?_
  · split
    · exact localWrite_numbered h _ _ _ _
    · exact h
    · exact h
    · exact h
  · split
    · exact of_fst (translate_numbered h _ _ _ _) (by assumption)
    · have h1 := of_fst (translate_numbered h _ _ _ _) (by assumption)
      split
      · exact storeAcc_numbered h1 _ _ _ _
      · refine ite_fst_numbered h1 (ite_fst_numbered h1 ?_)
        split
        · split
          · exact tagLine_numbered (of_fst (mergeGran_numbered h1 _ _ _) (by assumption)) _ _ _ _
          · exact of_fst (mergeGran_numbered h1 _ _ _) (by assumption)
        · split
          · exact h1
          · exact setNode_numbered (dropProxy_numbered h1 _) _
        · exact h1

theorem engOwn_numbered (h : Numbered F s) (x i va) : Numbered F (engOwn s x i va).1 := by
  unfold engOwn
  split
  · exact of_fst (translate_numbered h _ _ _ _) (by assumption)
  · have h1 := of_fst (translate_numbered h _ _ _ _) (by assumption)
    split
    · exact of_fst (markDirty_numbered h1 _ _) (by assumption)
    · have h2 := of_fst (markDirty_numbered h1 _ _) (by assumption)
      split
      · exact h2
      · dsimp only
        split
        · exact h2
        · split
          · exact of_fst (claim_numbered h2 _) (by assumption)
          · have h3 := of_fst (claim_numbered h2 _) (by assumption)
            exact modCore_numbered (ite_numbered (recallLine_numbered h3 _ _) (dropProxy_numbered h3 _)) _ fun _ => rfl

theorem takeLines_numbered (h : Numbered F s) (x i got l) : Numbered F (takeLines s x i got l).1 := by
  induction l generalizing s got with
  | nil => exact h
  | cons a r ih =>
    unfold takeLines
    refine ite_fst_numbered (ih h _) ?_
    split <;> have h1 := of_fst (engOwn_numbered h _ _ _) (by assumption)
    · exact ih h1 _
    · exact ih h1 _
    · exact h1
    · exact h1
    · exact h1

theorem setCopy_numbered (h : Numbered F s) (c old new) : Numbered F (setCopy s c old new) := modCore_numbered h c fun _ => rfl

theorem suspendCopy_numbered (h : Numbered F s) (c x t) : Numbered F (suspendCopy s c x t) :=
  pumpRecords_numbered (launchRecord_numbered (setCopy_numbered h c _ _) _ _)

theorem ownStep_numbered (h : Numbered F s) (c chan) : SomeNumbered F (ownStep s c chan) := by
  unfold ownStep
  intro u e
  split at e
  · cases e
  · split at e
    · cases e
    · dsimp only at e
      split at e <;> have h1 := of_fst (takeLines_numbered h _ _ _ _) (by assumption)
      · cases e; exact setCopy_numbered h1 _ _ _
      · split at e
        · exact keepRecalls_numbered h _ _ e
        · cases e; exact setCopy_numbered h1 _ _ _
      · cases e; exact suspendCopy_numbered (setCopy_numbered h1 _ _ _) _ _ _
      · cases e; exact failCopy_numbered (setCopy_numbered h1 _ _ _) _ _ _

theorem engWatch_numbered (h : Numbered F s) (launch done va n write r) : Numbered F (engWatch s launch done va n write r).1 :=
  ite_fst_numbered h (foldl_fst_numbered (fun _ _ h => ite_fst_numbered h (launchRecord_numbered h _ _)) _ h)

theorem gatherIndexRead_numbered (h : Numbered F s) (c x n) : Numbered F (gatherIndex.read c x n s).1 := by
  unfold gatherIndex.read
  split
  · exact localRead_numbered h _ _ _ _
  · exact h

theorem gatherIndex_numbered (h : Numbered F s) (c x n) : Numbered F (gatherIndex s c x n).1 := by
  unfold gatherIndex
  split
  · exact ite_fst_numbered h (gatherIndexRead_numbered h _ _ _)
  · exact gatherIndexRead_numbered h _ _ _

theorem pieceSource_numbered (h : Numbered F s) (c x p) : Numbered F (pieceSource s c x p).1 := by
  unfold pieceSource
  split
  · exact h
  · exact h
  · split <;> exact of_fst (gatherIndex_numbered h _ _ _) (by assumption)

theorem readPieces_numbered (h : Numbered F s) (c x l) : Numbered F (readPieces s c x l).1 := by
  induction l generalizing s x with
  | nil => exact h
  | cons p r ih =>
    have hp := pieceSource_numbered h c x p
    unfold readPieces
    split <;> have h1 := of_fst hp (by assumption)
    · split
      · exact of_fst (ih h1 _) (by assumption)
      · exact ih h1 _
    · split
      · have h2 := engWatch_numbered (of_fst (engRead_numbered h1 _ _ _ _ _) (by assumption))
        dsimp only
        split
        · exact of_fst (ih (h2 _ _ _ _ _ _) _) (by assumption)
        · exact ih (h2 _ _ _ _ _ _) _
      · exact of_fst (engRead_numbered h1 _ _ _ _ _) (by assumption)
      · exact of_fst (engRead_numbered h1 _ _ _ _ _) (by assumption)
      · exact of_fst (engRead_numbered h1 _ _ _ _ _) (by assumption)
    · exact h1
    · exact h1
    · exact h1

theorem finishCopy_numbered (h : Numbered F s) (c x) : Numbered F (finishCopy s c x) := by
  unfold finishCopy
  split
  · exact serveHeld_numbered (dropCopy_numbered h _ _)
  · refine retireBatches_numbered ?_ _ _
    split
    · exact handleFull_numbered (setHandle_numbered (serveHeld_numbered (dropCopy_numbered h _ _)) _ _ _ _) _ _ _
    · exact serveHeld_numbered (dropCopy_numbered h _ _)

theorem deliverStep_numbered (h : Numbered F s) (c chan) : SomeNumbered F (deliverStep s c chan) := by
  unfold deliverStep
  intro u e
  split at e
  · cases e
  · split at e
    · cases e
    · split at e
      · cases e; exact finishCopy_numbered h _ _
      · dsimp only at e
        split at e <;> have h1 := of_fst (readPieces_numbered h _ _ _) (by assumption)
        · exact keepRecalls_numbered h _ _ e
        · cases e; exact suspendCopy_numbered (setCopy_numbered h1 _ _ _) _ _ _
        · cases e; exact failCopy_numbered h1 _ _ _
        · split at e <;> have h2 := of_fst (engWrite_numbered h1 _ _ _ _ _) (by assumption)
          · exact keepRecalls_numbered h _ _ e
          · cases e; exact setCopy_numbered h2 _ _ _
          · cases e; exact suspendCopy_numbered (setCopy_numbered h2 _ _ _) _ _ _
          · cases e; exact failCopy_numbered h2 _ _ _
          · have h3 (l n a i b r x y) : Numbered F (setCopy (engWatch _ l n a i b r).1 c x y) := setCopy_numbered (engWatch_numbered h2 l n a i b r) c x y
            obtain rfl := Option.some.inj e
            refine ite_numbered (finishCopy_numbered (serveHeld_numbered ?_) _ _) (serveHeld_numbered ?_) <;> split
            · exact setHandle_numbered (h3 _ _ _ _ _ _ _ _) _ _ _ _
            · exact h3 _ _ _ _ _ _ _ _
            · exact setHandle_numbered (h3 _ _ _ _ _ _ _ _) _ _ _ _
            · exact h3 _ _ _ _ _ _ _ _

theorem execCopyAccepted_numbered (h : Numbered F s) (core slot) : NextNumbered F (execCopyAccepted core slot s) := by
  have hf := focus_numbered h core slot
  unfold execCopyAccepted
  intro u e
  dsimp only at e
  split at e
  · cases e; exact hf
  · split at e
    · exact execAcopy_numbered (by exact hf) _ _ _ _ u e
    · exact execAxform_numbered (by exact hf) _ _ _ _ u e
    · exact execAgather_numbered (by exact hf) _ _ _ _ u e
    · cases e; exact hf

/-! ### Memory instructions -/

theorem sweepFrom_numbered {α : Type} {one : State → Fin 32 → Machine.Acc → State × Done α}
    (hone : ∀ s l a, Numbered F s → Numbered F (one s l a).1) (h : Numbered F s) (l r) : Numbered F (sweepFrom one l s r).1 := by
  induction l generalizing s r with
  | nil => exact h
  | cons x rest ih =>
    unfold sweepFrom
    have := hone s x.1 x.2 h
    grind only []

theorem remember_numbered (h : Numbered F s) (ls) : Numbered F (remember s ls) := h

theorem dropLate_numbered (h : Numbered F s) : Numbered F (dropLate s) := h

theorem settle_numbered {α : Type} {r : State × Swept α} (h : Numbered F r.1) (val redo keep) {k}
    (hk : ∀ s vs, Numbered F s → Numbered F (k s vs).1) : Numbered F (settle r val redo keep k).1 := by
  unfold settle
  refine ite_fst_numbered (ite_numbered h (remember_numbered h _)) ?_
  split
  · exact hk _ _ h
  · exact ite_numbered h (remember_numbered (dropLate_numbered h) _)

theorem onceLane_numbered (h : Numbered F s) (l) {go} (hgo : ∀ s, Numbered F s → Numbered F (go s).1) : Numbered F (onceLane s l go).1 := by
  unfold onceLane
  refine ite_fst_numbered h ?_
  split
  · exact h
  · exact hgo _ h

theorem touchAll_numbered (h : Numbered F s) (as) : Numbered F (touchAll s as) := foldl_numbered (fun _ _ h => touched_numbered h _ _) _ h

theorem giveTokens_numbered (h : Numbered F s) (l tok dr) : Numbered F (giveTokens s l tok dr) := ite_numbered h h

theorem tagged_numbered (h : Numbered F s) {α : Type} (on) {f : State → Option (BitVec 16) → State × Done α}
    (hf : ∀ s e, Numbered F s → Numbered F (f s e).1) : Numbered F (tagged s on f).1 := by
  unfold tagged
  refine ite_fst_numbered (hf s none h) (ite_fst_numbered h ?_)
  dsimp only
  have h1 := hf _ (some (newTag s).2) (newTag_numbered h)
  split
  · next x e =>
    have h2 := of_fst h1 e
    exact ite_numbered h2 h2
  · exact h1

theorem landWords_numbered (h : Numbered F s) (reg l ws) : Numbered F (landWords s reg l ws) := foldl_numbered (fun _ _ h => landV_numbered h _ _ _) _ h

theorem landOld_numbered (h : Numbered F s) (reg n l x) : Numbered F (landOld s reg n l x) := landWords_numbered h _ _ _

theorem loadLanes_numbered (h : Numbered F s) (fresh cpol l) : Numbered F (loadLanes fresh cpol l s).1 := by
  unfold loadLanes
  refine sweepFrom_numbered (fun s l a h => ?_) h _ _
  grind only [!loadAcc_numbered, !giveTokens_numbered]

theorem loadRep_numbered (h : Numbered F s) (g reg t fresh o) {chk} (hchk : ∀ s l, Numbered F s → Numbered F (chk s l).1) :
    Numbered F (loadRep g reg t fresh o chk s).1 := by
  unfold loadRep
  have := checkLanes_numbered h (lanesOf (s.cur.active g)) hchk
  grind only [!settle_numbered, !loadLanes_numbered, !foldl_numbered, !touchAll_numbered, !landWords_numbered, !acquire_numbered]

theorem storeRep_numbered (h : Numbered F s) (g reg t o) {chk} (hchk : ∀ s l, Numbered F s → Numbered F (chk s l).1) :
    Numbered F (storeRep g reg t o chk s).1 := by
  unfold storeRep
  dsimp only
  split
  · exact of_fst (checkLanes_numbered h _ hchk) (by assumption)
  · have h1 := of_fst (checkLanes_numbered h _ hchk) (by assumption)
    split
    · exact h1
    · exact h1
    · refine settle_numbered (sweepFrom_numbered (fun s l a h => ?_) h1 _ _) _ _ _ fun s vs h => touchAll_numbered h _
      exact ite_fst_numbered h (tagged_numbered h _ fun s e h => storeAcc_numbered h _ _ _ _)

theorem execLd_numbered (h : Numbered F s) (gr v b i t f o) : NextNumbered F (execLd gr v b i t f o s) := by
  unfold execLd
  refine perform_numbered _ (fun _ h => ?_) h
  split
  · exact h
  · exact ending_numbered _ (runReps_numbered _ (fun _ _ h => loadRep_numbered h _ _ _ _ _ fun _ _ h => checkLane_numbered h _ _ _ _ _ _ _) h)

theorem execSt_numbered (h : Numbered F s) (gr v b i t o) : NextNumbered F (execSt gr v b i t o s) := by
  unfold execSt
  refine perform_numbered _ (fun _ h => ?_) h
  split
  · exact h
  · exact ending_numbered _ (runReps_numbered _ (fun _ _ h => storeRep_numbered h _ _ _ _ fun _ _ h => checkLane_numbered h _ _ _ _ _ _ _) h)

theorem checkOwn_numbered (h : Numbered F s) (l va n) : Numbered F (checkOwn s l va n).1 := by
  unfold checkOwn
  split
  · exact h
  · exact ite_fst_numbered h (checkLane_numbered h _ _ _ _ _ _ _)

theorem execLdl_numbered (h : Numbered F s) (gr v b i t w o) : NextNumbered F (execLdl gr v b i t w o s) := by
  unfold execLdl
  refine perform_numbered _ (fun _ h => ?_) h
  split
  · exact h
  · exact ending_numbered _ (runReps_numbered _ (fun _ _ h => loadRep_numbered h _ _ _ _ _ fun _ _ h => checkLane_numbered h _ _ _ _ _ _ _) h)

theorem execStl_numbered (h : Numbered F s) (gr v b i t w o) : NextNumbered F (execStl gr v b i t w o s) := by
  unfold execStl
  refine perform_numbered _ (fun _ h => ?_) h
  split
  · exact h
  · exact ending_numbered _ (runReps_numbered _ (fun _ _ h => storeRep_numbered h _ _ _ _ fun _ _ h => checkLane_numbered h _ _ _ _ _ _ _) h)

theorem checkPrivate_numbered (h : Numbered F s) (l scr p t k) : Numbered F (checkPrivate s l scr p t k).1 :=
  ite_fst_numbered (ite_fst_numbered h (ite_fst_numbered h h)) (privAcc_numbered h _ _ _ _ _ _ _ _)

theorem scratchPut_stands (w : Warp) (l : Fin 32) (p : Nat) (d : List Byte) : StandsAt w (scratchPut w l p d) := by
  induction d generalizing w p with
  | nil => rfl
  | cons b r ih => exact (setScratch_stands _ _ _ _).trans (ih _ _)

theorem execLdp_numbered (h : Numbered F s) (gr v b i t x) : NextNumbered F (execLdp gr v b i t x s) := by
  unfold execLdp
  refine perform_numbered _ (fun _ h => ?_) h
  split
  · exact h
  · refine ending_numbered _ (runReps_numbered _ (fun _ _ h => ?_) h)
    refine ite_fst_numbered ?_ (loadRep_numbered h _ _ _ _ _ fun _ _ h => checkPrivate_numbered h _ _ _ _ _)
    split
    · exact of_fst (checkLanes_numbered h _ fun _ _ h => checkPrivate_numbered h _ _ _ _ _) (by assumption)
    · exact foldl_numbered (fun _ _ h => landWords_numbered h _ _ _) _ (of_fst (checkLanes_numbered h _ fun _ _ h => checkPrivate_numbered h _ _ _ _ _)
        (by assumption))

theorem execStp_numbered (h : Numbered F s) (gr v b i t x) : NextNumbered F (execStp gr v b i t x s) := by
  unfold execStp
  refine perform_numbered _ (fun _ h => ?_) h
  split
  · exact h
  · refine ending_numbered _ (runReps_numbered _ (fun _ _ h => ?_) h)
    refine ite_fst_numbered ?_ (storeRep_numbered h _ _ _ _ fun _ _ h => checkPrivate_numbered h _ _ _ _ _)
    split
    · exact of_fst (checkLanes_numbered h _ fun _ _ h => checkPrivate_numbered h _ _ _ _ _) (by assumption)
    · exact foldl_numbered (fun _ _ h => cur_stands h (scratchPut_stands _ _ _ _)) _ (of_fst (checkLanes_numbered h _ fun _ _ h => checkPrivate_numbered h _ _ _ _ _) (by assumption))

theorem execLdu_numbered (h : Numbered F s) (gr v b t f o) : NextNumbered F (execLdu gr v b t f o s) := by
  unfold execLdu
  dsimp only
  refine perform_numbered _ (fun _ h => warpLevel_numbered _ _ (fun _ _ h => ?_) h) h
  split
  · exact of_fst (checkLanes_numbered h _ fun _ _ h => checkLane_numbered h _ _ _ _ _ _ _) (by assumption)
  · exact settle_numbered (loadLanes_numbered (of_fst (checkLanes_numbered h _ fun _ _ h => checkLane_numbered h _ _ _ _ _ _ _) (by assumption)) _ _ _) _ _ _
      (fun _ _ h => ite_numbered (acquire_numbered (foldl_numbered (fun _ _ h => foldl_numbered (fun _ _ h => landS_numbered h _ _) _ h) _ (touchAll_numbered h _)) _ _)
        (foldl_numbered (fun _ _ h => foldl_numbered (fun _ _ h => landS_numbered h _ _) _ h) _ (touchAll_numbered h _)))

theorem execStu_numbered (h : Numbered F s) (gr v b t o) : NextNumbered F (execStu gr v b t o s) := by
  refine perform_numbered _ (fun s h => warpLevel_numbered _ _ (fun k s h => ?_) h) h
  dsimp only
  split
  · exact of_fst (checkLanes_numbered h _ fun _ _ h => checkLane_numbered h _ _ _ _ _ _ _) (by assumption)
  · have h1 := of_fst (checkLanes_numbered h _ fun _ _ h => checkLane_numbered h _ _ _ _ _ _ _) (by assumption)
    split
    · exact h1
    · exact h1
    · exact settle_numbered (sweepFrom_numbered (fun _ _ _ h => tagged_numbered h _ fun _ _ h => storeAcc_numbered h _ _ _ _) h1 _ _) _ _ _ fun _ _ h => touchAll_numbered h _

theorem rmwRep_numbered (h : Numbered F s) (g reg size o op) {fin chk} (hfin : ∀ s, Numbered F s → Numbered F (fin s))
    (hchk : ∀ s l, Numbered F s → Numbered F (chk s l).1) : Numbered F (rmwRep g reg size o op fin chk s).1 := by
  unfold rmwRep
  dsimp only
  split
  · exact of_fst (checkLanes_numbered h _ hchk) (by assumption)
  · have h1 := of_fst (checkLanes_numbered h _ hchk) (by assumption)
    split
    · exact h1
    · exact h1
    · refine settle_numbered (sweepFrom_numbered (fun s l a h => onceLane_numbered h l fun s h => ?_) h1 _ _) _ _ _ fun s vs h => ?_
      · refine ite_fst_numbered h ?_
        split
        · exact giveTokens_numbered (of_fst (tagged_numbered h _ fun s e h => rmwPart_numbered h _ _ _ _ _ _) (by assumption)) _ _ _
        · exact tagged_numbered h _ fun s e h => rmwPart_numbered h _ _ _ _ _ _
      · have h2 as := foldl_numbered (fun s x h => landOld_numbered h reg (size / 4) x.1 x.2) vs (hfin _ (touchAll_numbered h as))
        exact ite_numbered (acquire_numbered (h2 _) _ _) (h2 _)

theorem execAtom_numbered (h : Numbered F s) (gr v b i c o) : NextNumbered F (execAtom gr v b i c o s) := by
  refine perform_numbered _ (fun s h => ?_) h
  dsimp only
  split
  · exact h
  · exact ending_numbered _ (runReps_numbered _ (fun k s h => rmwRep_numbered h _ _ _ _ _ (fun _ h => h) fun _ _ h => checkLane_numbered h _ _ _ _ _ _ _) h)

theorem execCas_numbered (h : Numbered F s) (gr v b i w o) : NextNumbered F (execCas gr v b i w o s) := by
  unfold execCas
  dsimp only
  refine perform_numbered _ (fun _ h => ?_) h
  split
  · exact ending_numbered _ (runReps_numbered _ (fun _ _ h => rmwRep_numbered h _ _ _ _ _ (fun _ h => cur_stands h (lastUse_stands _ _ _ _))
      (fun _ _ h => checkLane_numbered h _ _ _ _ _ _ _)) h)
  · exact h
  · exact h
  · exact h

theorem redLane_numbered (h : Numbered F s) (l a c x e) : Numbered F (redLane s l a c x e).1 := by
  unfold redLane
  split
  · exact ite_fst_numbered (redUpdate_numbered h _ _ _ _ _) (rmwPart_numbered h _ _ _ _ _ _)
  · exact rmwPart_numbered h _ _ _ _ _ _

theorem redRep_numbered (h : Numbered F s) (g o) {chk go} (hchk : ∀ s l, Numbered F s → Numbered F (chk s l).1)
    (hgo : ∀ s as ord d, Numbered F s → Numbered F (go s as ord d).1) : Numbered F (redRep g o chk go s).1 := by
  unfold redRep
  dsimp only
  split
  · exact of_fst (checkLanes_numbered h _ hchk) (by assumption)
  · have h1 := of_fst (checkLanes_numbered h _ hchk) (by assumption)
    split
    · exact h1
    · exact h1
    · exact ite_fst_numbered h1 (hgo _ _ _ _ h1)

theorem redEnd_numbered (h : Numbered F s) (m as) : Numbered F (redEnd m as s).1 :=
  ite_numbered (acquire_numbered (touchAll_numbered h _) _ _) (touchAll_numbered h _)

theorem redLanes_numbered (h : Numbered F s) (c reg n m as ord d) : Numbered F (redLanes c reg n m s as ord d).1 :=
  settle_numbered (sweepFrom_numbered (fun _ _ _ h => ite_fst_numbered h (tagged_numbered h _
    (fun _ _ h => redLane_numbered h _ _ _ _ _))) h _ _) _ _ _ fun _ _ h => redEnd_numbered h _ _

theorem execRed_numbered (h : Numbered F s) (gr v b i c o) : NextNumbered F (execRed gr v b i c o s) := by
  unfold execRed
  dsimp only
  refine perform_numbered _ (fun _ h => ?_) h
  split
  · exact h
  · exact ending_numbered _ (runReps_numbered _ (fun _ _ h => redRep_numbered h _ _ (fun _ _ h => checkLane_numbered h _ _ _ _ _ _ _)
      (fun _ _ _ _ h => redLanes_numbered h _ _ _ _ _ _ _)) h)

theorem redHomeLanes_numbered (h : Numbered F s) (c reg n m as ord d) : Numbered F (redHomeLanes c reg n m s as ord d).1 := by
  unfold redHomeLanes
  grind only [!newTag_numbered, !redEnd_numbered, !redLane_numbered, !rmwPart_numbered, !settle_numbered, !sweepFrom_numbered, !tagged_numbered, !foldl_numbered, !foldl_fst_numbered]

theorem execRedHome_numbered (h : Numbered F s) (gr v b i c o) : NextNumbered F (execRedHome gr v b i c o s) := by
  unfold execRedHome
  dsimp only
  refine perform_numbered _ (fun _ h => ?_) h
  split
  · exact h
  · exact ending_numbered _ (runReps_numbered _ (fun _ _ h => redRep_numbered h _ _ (fun _ _ h => checkLane_numbered h _ _ _ _ _ _ _)
      (fun _ _ _ _ h => redHomeLanes_numbered h _ _ _ _ _ _ _)) h)

theorem execAtoml_numbered (h : Numbered F s) (gr v b i c) : NextNumbered F (execAtoml gr v b i c s) := by
  refine perform_numbered _ (fun s h => ?_) h
  dsimp only
  split
  · exact h
  · exact ending_numbered _ (runReps_numbered _ (fun k s h => rmwRep_numbered h _ _ _ _ _ (fun _ h => h) fun _ _ h => checkOwn_numbered h _ _ _) h)

theorem execRedl_numbered (h : Numbered F s) (gr v b i c) : NextNumbered F (execRedl gr v b i c s) := by
  unfold execRedl
  dsimp only
  refine perform_numbered _ (fun _ h => ?_) h
  split
  · exact h
  · exact ending_numbered _ (runReps_numbered _ (fun _ _ h => redRep_numbered h _ _ (fun _ _ h => checkOwn_numbered h _ _ _)
      (fun _ _ _ _ h => redLanes_numbered h _ _ _ _ _ _ _)) h)

theorem setLocks_numbered (h : Numbered F s) (node l) : Numbered F (setLocks s node l) := by
  unfold setLocks
  grind only [numbered_iff, place, !setNode_numbered]

theorem lockLine_numbered (h : Numbered F s) (node line key unlock) : Numbered F (lockLine s node line key unlock).1 := by
  unfold lockLine
  dsimp only
  split
  · exact ite_fst_numbered (ite_fst_numbered (serveHeld_numbered (setLocks_numbered h _ _)) h) h
  · exact ite_fst_numbered h (ite_fst_numbered h (setLocks_numbered h _ _))

theorem lockLane_numbered (h : Numbered F s) (l a unlock tag) : Numbered F (lockLane s l a unlock tag).1 := by
  unfold lockLane
  grind only [!enterTag_numbered, !lockLine_numbered, !startRecall_numbered]

theorem lockRep_numbered (h : Numbered F s) (g reg unlock) {chk} (hchk : ∀ s l, Numbered F s → Numbered F (chk s l).1) :
    Numbered F (lockRep g reg unlock chk s).1 := by
  unfold lockRep
  dsimp only
  split
  · exact of_fst (checkLanes_numbered h _ hchk) (by assumption)
  · have h1 := of_fst (checkLanes_numbered h _ hchk) (by assumption)
    split
    · exact h1
    · exact h1
    · refine ite_fst_numbered h1 ?_
      refine settle_numbered (sweepFrom_numbered (fun s l a h => onceLane_numbered h l fun s h => ?_) h1 _ _) _ _ _ fun s vs h => ?_
      · refine ite_fst_numbered h ?_
        split
        · exact giveTokens_numbered (of_fst (tagged_numbered h _ fun s e h => lockLane_numbered h _ _ _ _) (by assumption)) _ _ _
        · exact tagged_numbered h _ fun s e h => lockLane_numbered h _ _ _ _
      · have h2 as := foldl_numbered (fun s x h => landV_numbered h reg x.1 (lo32 x.2)) vs (touchAll_numbered h as)
        exact ite_numbered (acquire_numbered (h2 _) _ _) (h2 _)

theorem execLock_numbered (h : Numbered F s) (gr v b i) : NextNumbered F (execLock gr v b i s) := by
  unfold execLock
  refine perform_numbered _ (fun _ h => ?_) h
  split
  · exact h
  · exact ending_numbered _ (runReps_numbered _ (fun _ _ h => lockRep_numbered h _ _ _ fun _ _ h => checkLane_numbered h _ _ _ _ _ _ _) h)

theorem execUnlock_numbered (h : Numbered F s) (gr v b i) : NextNumbered F (execUnlock gr v b i s) := by
  unfold execUnlock
  refine perform_numbered _ (fun _ h => ?_) h
  split
  · exact h
  · exact ending_numbered _ (runReps_numbered _ (fun _ _ h => lockRep_numbered h _ _ _ fun _ _ h => checkLane_numbered h _ _ _ _ _ _ _) h)

theorem prefetchProxy_numbered (h : Numbered F s) (i a nd addr cpol) : Numbered F (prefetchProxy s i a nd addr cpol) :=
  ite_numbered h (proxyFill_numbered h _ _)

theorem prefetchLane_numbered (h : Numbered F s) (l va llc cpol) : Numbered F (prefetchLane s l va llc cpol) := by
  unfold prefetchLane
  split
  · exact of_fst (resolve_numbered h _ _ _ _ _ _ _ _) (by assumption)
  · split
    · exact ite_numbered (of_fst (resolve_numbered h _ _ _ _ _ _ _ _) (by assumption))
        (loadPart_numbered (of_fst (resolve_numbered h _ _ _ _ _ _ _ _) (by assumption)) _ _ _ _ _)
    · exact ite_numbered (prefetchProxy_numbered (of_fst (resolve_numbered h _ _ _ _ _ _ _ _) (by assumption)) _ _ _ _ _)
        (loadPart_numbered (of_fst (resolve_numbered h _ _ _ _ _ _ _ _) (by assumption)) _ _ _ _ _)
    · exact of_fst (resolve_numbered h _ _ _ _ _ _ _ _) (by assumption)

theorem execPrefetch_numbered (h : Numbered F s) (gr b i f) : NextNumbered F (execPrefetch gr b i f s) := by
  unfold execPrefetch
  refine perform_numbered _ (fun _ h => ?_) h
  split
  · exact h
  · exact ending_numbered _ (runReps_numbered _ (fun _ _ h => foldl_numbered (fun _ _ h => prefetchLane_numbered h _ _ _ _) _ h) h)

theorem fenceRelease_numbered (h : Numbered F s) (m) : Numbered F (fenceRelease s m).2 := by
  unfold fenceRelease
  grind only [numbered_iff, place]

theorem execFenceAcq_numbered (h : Numbered F s) (gr) : NextNumbered F (execFenceAcq gr s) :=
  perform_numbered _ (fun _ h => endGroup_numbered (ite_numbered h (acquire_numbered h _ _)) _) h

theorem execFenceRel_numbered (h : Numbered F s) (gr) : NextNumbered F (execFenceRel gr s) := by
  unfold execFenceRel
  dsimp only
  refine perform_numbered _ (fun _ h => ?_) h
  split
  · exact of_snd (fenceRelease_numbered h _) (by assumption)
  · exact of_snd (fenceRelease_numbered h _) (by assumption)
  · exact endGroup_numbered (of_snd (fenceRelease_numbered h _) (by assumption)) _

theorem execFenceSc_numbered (h : Numbered F s) (gr) : NextNumbered F (execFenceSc gr s) := by
  unfold execFenceSc
  dsimp only
  refine perform_numbered _ (fun _ h => ?_) h
  split
  · exact of_snd (fenceRelease_numbered h _) (by assumption)
  · exact of_snd (fenceRelease_numbered h _) (by assumption)
  · exact endGroup_numbered (ite_numbered (of_snd (fenceRelease_numbered h _) (by assumption))
      (acquire_numbered (of_snd (fenceRelease_numbered h _) (by assumption)) _ _)) _

theorem execCfence_numbered (h : Numbered F s) (gr) : NextNumbered F (execCfence gr s) := perform_numbered _ (fun _ h => endGroup_numbered (by exact h) _) h

theorem execPublish_numbered (h : Numbered F s) (gr) : NextNumbered F (execPublish gr s) := by
  unfold execPublish
  refine perform_numbered _ (fun _ h => ?_) h
  refine ite_fst_numbered (endGroup_numbered h _) ?_
  split
  · exact h
  · exact h
  · split
    · exact of_fst (publishAll_numbered h _ _) (by assumption)
    · exact ite_fst_numbered (endGroup_numbered (of_fst (publishAll_numbered h _ _) (by assumption)) _) (of_fst (publishAll_numbered h _ _) (by assumption))

theorem stashPages_numbered (h : Numbered F s) (c rw gva n i) : Numbered F (stashPages s c rw gva n i).1 := by
  induction n generalizing s i with
  | zero => exact h
  | succ n ih =>
    unfold stashPages
    grind only [!translate_numbered]

theorem stashMap_numbered (h : Numbered F s) (gva x) : Numbered F (stashMap s gva x).1 := by
  unfold stashMap
  dsimp only
  split
  · exact h
  · refine ite_fst_numbered h (ite_fst_numbered h (ite_fst_numbered h (ite_fst_numbered h (ite_fst_numbered h ?_))))
    split <;> have h1 := of_fst (stashPages_numbered h _ _ _ _ _) (by assumption)
    · exact h1
    · split
      · exact h1
      · exact core_numbered h1 rfl

theorem execStashMap_numbered (h : Numbered F s) (gr d a b) : NextNumbered F (execStashMap gr d a b s) := by
  unfold execStashMap
  refine perform_numbered _ (fun _ h => warpLevel_numbered _ _ (fun _ _ h => ?_) h) h
  split
  · exact of_fst (stashMap_numbered h _ _) (by assumption)
  · exact cur_stands (of_fst (stashMap_numbered h _ _) (by assumption)) (setS_stands _ _ _)

theorem execStashUnmap_numbered (h : Numbered F s) (gr a) : NextNumbered F (execStashUnmap gr a s) := by
  unfold execStashUnmap
  dsimp only
  refine perform_numbered _ (fun _ h => warpLevel_numbered _ _ (fun _ _ h => ?_) h) h
  split
  · exact unmapStash_numbered h _ _
  · exact h

/-! ### Barriers, signals and soft interrupts -/

theorem arrive_numbered (h : Numbered F s) (g m b) : Numbered F (arrive g m b s) := with_numbered (endGroup_numbered h _) rfl

theorem execBar_numbered (h : Numbered F s) (gr) : NextNumbered F (execBar gr s) := by
  unfold execBar
  grind only [NextNumbered, !arrive_numbered, !checkBarriers_numbered, !endGroup_numbered, !perform_numbered]

theorem setPhase_numbered (h : Numbered F s) (core id p) : Numbered F (setPhase s core id p) :=
  ite_numbered (core_numbered h rfl) (modBlock_numbered h _ _ _)

theorem execNbar_numbered (h : Numbered F s) (gr count coreScope id) : NextNumbered F (execNbar gr count coreScope id s) := by
  unfold execNbar
  grind only [NextNumbered, !arrive_numbered, !checkBarriers_numbered, !endGroup_numbered, !perform_numbered, !setPhase_numbered]

theorem execCbar_numbered (h : Numbered F s) (gr) : NextNumbered F (execCbar gr s) := by
  unfold execCbar
  refine perform_numbered _ (fun s h => ?_) h
  split
  · exact h
  · dsimp only
    split_ifs
    · dsimp only
      exact endGroup_numbered (acquire_numbered h _ _) _
    · exact h
    split
    · exact h
    · exact h
    · dsimp only
      exact checkCbar_numbered (cur_stands h (by rfl)) _ _

theorem wakeWord_numbered (h : Numbered F s) (key) : Numbered F (wakeWord s key) := by
  unfold wakeWord
  extract_lets due s1 poll ray s2 core
  have h1 : Numbered F s1 := mapAllWarps_numbered h fun _ w => by split <;> (try split) <;> rfl
  have h2 : Numbered F s2 := mapAllWarps_numbered h1 fun _ w => by split <;> rfl
  exact core_numbered (mapCores_numbered (f := core) h2 fun _ => rfl) rfl

theorem checkWord_numbered (h : Numbered F s) (l va k) : Numbered F (checkWord s l va k).1 := checkLane_numbered h _ _ _ _ _ _ _

theorem execSignal_numbered (h : Numbered F s) (gr a b o) : NextNumbered F (execSignal gr a b o s) := by
  refine perform_numbered _ (fun s h => warpLevel_numbered _ _ (fun k s h => ?_) h) h
  dsimp only
  split
  · exact of_fst (checkLanes_numbered h _ fun _ _ h => checkWord_numbered h _ _ _) (by assumption)
  · have h1 := of_fst (checkLanes_numbered h _ fun _ _ h => checkWord_numbered h _ _ _) (by assumption)
    split
    · exact h1
    · exact h1
    · refine settle_numbered (sweepFrom_numbered (fun _ _ _ h => onceLane_numbered h _ fun s h => ?_) h1 _ _) _ _ _ fun _ _ h =>
        foldl_numbered (fun _ _ h => wakeWord_numbered h _) _ (touchAll_numbered h _)
      split
      · exact giveTokens_numbered (of_fst (tagged_numbered h _ fun _ _ h => rmwPart_numbered h _ _ _ _ _ _) (by assumption)) _ _ _
      · exact tagged_numbered h _ fun _ _ h => rmwPart_numbered h _ _ _ _ _ _

theorem execWaits_numbered (h : Numbered F s) (gr d a b c) : NextNumbered F (execWaits gr d a b c s) := by
  unfold execWaits
  refine perform_numbered _ (fun s h => warpLevel_numbered _ _ (fun k s h => ?_) h) h
  dsimp only
  split <;> have h1 := of_fst (checkLanes_numbered h _ fun _ _ h => checkWord_numbered h _ _ _) (by assumption)
  · exact h1
  · refine settle_numbered (loadLanes_numbered h1 _ _ _) _ _ _ fun s vs h => ite_fst_numbered ?_ h
    dsimp only
    exact acquire_numbered (touchAll_numbered (setS_numbered h _ _) _) _ _

theorem execSoftintQ_numbered (h : Numbered F s) (gr a b) : NextNumbered F (execSoftintQ gr a b s) := by
  unfold execSoftintQ
  refine perform_numbered _ (fun _ h => warpLevel_numbered _ _ (fun _ _ h => ?_) h) h
  split <;> exact h

theorem execSoftintM_numbered (h : Numbered F s) (gr b) : NextNumbered F (execSoftintM gr b s) := by
  unfold execSoftintM
  refine perform_numbered _ (fun _ h => warpLevel_numbered _ _ (fun _ _ h => ?_) h) h
  refine ite_fst_numbered h ?_
  split <;> exact h

/-! ### Queues, launches and placement -/

theorem devCheck_numbered (h : Numbered F s) (c va n k) : Numbered F (devCheck s c va n k).1 := by
  unfold devCheck
  refine ite_fst_numbered h ?_
  split <;> exact of_fst (translate_numbered h _ _ _ _) (by assumption)

theorem devLoad_numbered (h : Numbered F s) (c i va n) : Numbered F (devLoad s c i va n).1 := by
  unfold devLoad
  grind only [!devCheck_numbered, !loadAcc_numbered]

theorem devBytes_numbered (h : Numbered F s) (c i va n) : Numbered F (devBytes s c i va n).1 := by
  unfold devBytes
  grind only [!devLoad_numbered, !foldl_numbered, !foldl_fst_numbered]

theorem headItem_numbered (h : Numbered F s) (q) : Numbered F (headItem s q).1 := by
  unfold headItem
  split <;> exact of_fst (physRead_numbered h _ _ _) (by assumption)

theorem advanceHead_numbered (h : Numbered F s) (q) : Numbered F (advanceHead s q) := h

theorem launchAcquire_numbered (h : Numbered F s) : Numbered F (launchAcquire s) := core_numbered (mapCores_numbered h fun _ => by rfl) (by rfl)

theorem startWait_numbered (h : Numbered F s) (q tokens) : Numbered F (startWait s q tokens) :=
  ite_numbered (launchAcquire_numbered (advanceHead_numbered h _)) (setQueue_numbered h _)

theorem refuseWait_numbered (h : Numbered F s) (q va) : Numbered F (refuseWait s q va) := queueRecord_numbered (setQueue_numbered h _) _ _ _ _

theorem waitTest_numbered (h : Numbered F s) (q) : Numbered F (waitTest s q) := by
  unfold waitTest
  refine ite_numbered h (ite_numbered (startWait_numbered h _ _) ?_)
  split
  have h1 := of_fst (headItem_numbered h (s.queueOf q)) (by assumption)
  refine ite_numbered h1 ?_
  dsimp only
  split <;> have h2 := of_fst (ite_fst_numbered (a := (_, _)) h1 (devCheck_numbered h1 _ _ _ _)) (by assumption)
  · exact ite_numbered (keepRecalls_getD_numbered (setQueue_numbered h1 _) _) (refuseWait_numbered h2 _ _)
  · split
    · exact keepRecalls_getD_numbered (setQueue_numbered h1 _) _
    · exact refuseWait_numbered (of_fst (loadAcc_numbered h2 _ _ _ _) (by assumption)) _ _
    · have h3 := of_fst (loadAcc_numbered h2 _ _ _ _) (by assumption)
      exact ite_numbered (startWait_numbered h3 _ _) (setQueue_numbered h3 _)

theorem readRegions_numbered (h : Numbered F s) (regtab) : Numbered F (readRegions s regtab).1 := by
  unfold readRegions
  split <;> exact of_fst (physRead_numbered h _ _ _) (by assumption)

theorem readImage_numbered (h : Numbered F s) (c i va) : Numbered F (readImage s c i va).1 := by
  unfold readImage
  dsimp only
  split
  · exact of_fst (devBytes_numbered h _ _ _ _) (by assumption)
  · exact of_fst (devBytes_numbered h _ _ _ _) (by assumption)
  · split <;> exact of_fst (devBytes_numbered (of_fst (devBytes_numbered h _ _ _ _) (by assumption)) _ _ _ _) (by assumption)

theorem makeRoom_numbered (h : Numbered F s) (c) : Numbered F (makeRoom s c) := by
  unfold makeRoom
  refine foldl_numbered (fun s w h => ?_) _ h
  exact ite_numbered h (imageOut_numbered (modWarp_numbered h c w.slot fun _ => by rfl) _ _)

/-! A core that can hold a block has slots for its warps. -/

/-- The core has slots for `k` more warps. -/
def HasRoom (s : State) (c k : Nat) : Prop := (s.warpsOf c).length + k ≤ 64

/-- The places at core `c` are of these; other cores' are any. -/
def Among (c : Nat) (l : List (Nat × Nat)) : Nat → Nat × Nat → Prop := fun d p => d = c → p ∈ l

theorem numbered_among (h : Numbered F s) (c : Nat) : Numbered (Among c ((s.warpsOf c).map place)) s :=
  (numbered_placesAt h).mono fun d p hp e => by subst e; exact (places_warpsOf s d).mem_iff.2 hp

/-- Of the warps at core `c` that hold the places `l`, those of some blocks are no more than the places there of these blocks. -/
theorem filter_length_le {c : Nat} {l : List (Nat × Nat)} (h : Numbered (Among c l) s) (q : Nat → Bool) :
    ((s.warpsOf c).filter fun w => q w.bslot).length ≤ (l.filter fun p => q p.2).length := by
  obtain ⟨hnd, hin⟩ := warpsOf_fits h c
  have hsub : ((s.warpsOf c).filter fun w => q w.bslot).map place ⊆ l.filter fun p => q p.2 := by
    intro p hp
    obtain ⟨w, hw, rfl⟩ := List.mem_map.1 hp
    obtain ⟨hw, hq⟩ := List.mem_filter.1 hw
    exact List.mem_filter.2 ⟨hin _ (List.mem_map_of_mem hw) rfl, hq⟩
  have hnd' := hnd.of_map.sublist ((List.filter_sublist (p := fun w : Warp => q w.bslot)).map place)
  simpa using (List.subperm_of_subset hnd' hsub).length_le

theorem warpsOf_length_le {c : Nat} {l : List (Nat × Nat)} (h : Numbered (Among c l) s) : (s.warpsOf c).length ≤ l.length := by
  simpa using filter_length_le h fun _ => true

/-- What leaves a core its places leaves it its room. -/
theorem hasRoom_of_numbered {t : State} {c k : Nat} (h : HasRoom s c k) (ht : Numbered (Among c ((s.warpsOf c).map place)) t) : HasRoom t c k := by
  have hlen := warpsOf_length_le ht
  rw [List.length_map] at hlen
  exact (Nat.add_le_add_right hlen k).trans h

/-- While numbers are free, the lowest of them is not taken. -/
theorem lowestFree_free {n : Nat} {taken : List Nat} (h : taken.length < n) : lowestFree n taken ∉ taken := by
  unfold lowestFree
  cases hf : (List.range n).find? fun k => !taken.contains k with
  | some k => simpa using List.find?_some hf
  | none =>
    have hsub : List.range n ⊆ taken := fun k hk => by simpa using List.find?_eq_none.1 hf k hk
    have hlen := (List.subperm_of_subset List.nodup_range hsub).length_le
    rw [List.length_range] at hlen
    omega

/-- A warp joins a core, at a slot that no other has. -/
theorem addWarp_numbered (h : Numbered F s) {c : Nat} {w : Warp} (hw : F c (place w)) (hfree : w.slot ∉ (s.warpsOf c).map fun w => w.slot) :
    Numbered F (s.modCore c fun k => { k with warps := k.warps ++ [w] }) := by
  refine setCore_numbered h ?_
  have e : placesOf { s.coreAt c with warps := (s.coreAt c).warps ++ [w] } = placesOf (s.coreAt c) ++ [place w] := by simp [placesOf]
  rw [← slots_places, ((places_warpsOf s c).map _).mem_iff] at hfree
  rw [coreAt_id, e, ← List.append_assoc]
  exact fits_append.2 ⟨placesAt_fits h c, fits_single hw, List.disjoint_singleton.2 hfree⟩

/-- A warp that joins a core takes one of its free slots. -/
theorem hasRoom_addWarp (h : Numbered F s) {t : State} {c k : Nat} {w : Warp} (hroom : (s.warpsOf c).length + (k + 1) ≤ 64)
    (ht : ∀ {G : Nat → Nat × Nat → Prop}, Numbered G s → G c (place w) → Numbered G t) : HasRoom t c k := by
  have hmono := (numbered_among h c).mono (G := Among c (place w :: (s.warpsOf c).map place)) fun d n hn e => List.mem_cons_of_mem _ (hn e)
  have hlen := warpsOf_length_le (ht hmono fun _ => List.mem_cons_self)
  rw [List.length_cons, List.length_map] at hlen
  unfold HasRoom
  omega

theorem addWarps_numbered (h : Numbered F s) {c : Nat} (hF : ∀ p, F c p) (l bslot block) {ws : List Nat} (hroom : HasRoom s c ws.length) :
    Numbered F (addWarps s l c bslot block ws) := by
  induction ws generalizing s with
  | nil => exact h
  | cons idx r ih =>
    rw [HasRoom, List.length_cons] at hroom
    have hfree : lowestFree 64 ((s.warpsOf c).map fun w => w.slot) ∉ (s.warpsOf c).map fun w => w.slot :=
      lowestFree_free (by rw [List.length_map]; omega)
    unfold addWarps
    extract_lets slot image w
    refine ih (emitSync_numbered (addWarp_numbered h (hF _) hfree) _ _) (hasRoom_addWarp (w := w) h hroom fun h hw => ?_)
    exact emitSync_numbered (addWarp_numbered h hw hfree) c w

theorem loadMicro_numbered (h : Numbered F s) (l c) : Numbered F (eitherState (loadMicro s l c)) := by
  have set (s : State) (h : Numbered F s) (m o) : Numbered F (s.modCore c fun k => { k with micro := m, microOwner := o }) :=
    modCore_numbered h c fun _ => rfl
  unfold loadMicro
  split
  · exact h
  · split
    · exact set _ (of_fst (readImage_numbered h _ _ _) (by assumption)) _ _
    · exact keepRecalls_getD_numbered h _
    · exact set _ (of_fst (readImage_numbered h _ _ _) (by assumption)) _ _

theorem loadMicros_numbered (h : Numbered F s) (l cs) : Numbered F (eitherState (loadMicros s l cs)) := by
  induction cs generalizing s with
  | nil => exact h
  | cons c r ih =>
    unfold loadMicros
    split
    · exact ih (of_ok (loadMicro_numbered h _ _) (by assumption))
    · exact of_error (loadMicro_numbered h _ _) (by assumption)

theorem placeBlock_numbered (h : Numbered F s) {c : Nat} (hF : ∀ p, F c p) {l : Launch} (hroom : HasRoom s c l.pkt.warps) (index rank) :
    Numbered F (placeBlock s l c index rank) := by
  have block {F : Nat → Nat × Nat → Prop} (h : Numbered F s) (b n) : Numbered F { s.setBlock c b with placedNo := n } := setBlock_numbered h c b
  unfold placeBlock
  refine addWarps_numbered (block h _ _) hF _ _ _ ?_
  rw [List.length_range]
  exact hasRoom_of_numbered hroom (block (numbered_among h c) _ _)

/-- Blocks become resident on different cores that have room for them. -/
theorem placeBlocks_numbered (h : Numbered Anywhere s) (l : Launch) (n : Nat) {ps : List (Nat × Nat)} (hps : (ps.map fun p => p.1).Nodup)
    (hroom : ∀ p ∈ ps, HasRoom s p.1 l.pkt.warps) :
    Numbered Anywhere (ps.foldl (fun s (c, r) => makeRoom (placeBlock s l c (n + r) r) c) s) := by
  induction ps generalizing s with
  | nil => exact h
  | cons p r ih =>
    obtain ⟨c, i⟩ := p
    rw [List.map_cons, List.nodup_cons] at hps
    have hc : HasRoom s c l.pkt.warps := hroom _ List.mem_cons_self
    refine ih (makeRoom_numbered (placeBlock_numbered h (fun _ => trivial) hc _ _) _) hps.2 fun p hp => ?_
    have hne : c ≠ p.1 := fun e => hps.1 (List.mem_map.2 ⟨p, hp, e.symm⟩)
    refine hasRoom_of_numbered (hroom p (List.mem_cons_of_mem _ hp)) ?_
    exact makeRoom_numbered (placeBlock_numbered (numbered_among h p.1) (fun _ e => absurd e hne) hc _ _) _

theorem hasRoom_of_canHold {l : Launch} {c : Nat} (h : canHold s l c = true) : HasRoom s c l.pkt.warps := by
  unfold canHold at h
  simp only [Bool.and_eq_true, decide_eq_true_eq] at h
  obtain ⟨⟨⟨⟨⟨-, hw⟩, -⟩, -⟩, -⟩, -⟩ := h
  exact hw

theorem permitted_nodup {m : Mgmt} {p : Packet} {aclu : Nat} {mask : BitVec 128} {y : Nat × List Nat} (hy : y ∈ permitted m p aclu mask) : y.2.Nodup := by
  unfold permitted at hy
  obtain ⟨cl, -, rfl⟩ := List.mem_map.1 (List.mem_of_mem_filter hy)
  exact List.nodup_range.filter _

theorem rotate_nodup {ys : List (Nat × List Nat)} (h : ∀ y ∈ ys, y.2.Nodup) (k : Nat) : ∀ y ∈ clusterOrder.rotate ys k, y.2.Nodup := by
  induction ys generalizing k with
  | nil => exact h
  | cons y r ih =>
    obtain ⟨cl, cs⟩ := y
    have hcs : cs.Nodup := h _ List.mem_cons_self
    have hr : ∀ y ∈ r, y.2.Nodup := fun y hy => h y (List.mem_cons_of_mem _ hy)
    unfold clusterOrder.rotate
    intro y hy
    split at hy
    · obtain rfl | hy := List.mem_cons.1 hy
      · exact List.perm_append_comm.nodup_iff.1 (by rwa [List.take_append_drop])
      · exact hr y hy
    · obtain hy | hy := List.mem_append.1 hy
      · exact ih hr _ y hy
      · rw [List.mem_singleton.1 hy]
        exact hcs

theorem clusterOrder_nodup {m : Mgmt} {l : Launch} {b : Nat} {y : Nat × List Nat} (hy : y ∈ clusterOrder m l b) : y.2.Nodup := by
  have hperm : ∀ y ∈ (permitted m l.pkt l.aclu l.mask).filter fun y => match l.die with | some d => y.1 / 2 = d | none => true, y.2.Nodup :=
    fun y hy => permitted_nodup (List.mem_of_mem_filter hy)
  unfold clusterOrder at hy
  dsimp only at hy
  split at hy
  · obtain ⟨z, hz, rfl⟩ := List.mem_map.1 hy
    have hz := hperm z ((sortBy_perm _ _).mem_iff.1 hz)
    exact (List.filter_append_perm _ z.2).nodup_iff.2 hz
  · exact rotate_nodup hperm _ y hy

theorem findPlace_spec {l : Launch} {k : Nat} {cores : List Nat} (h : findPlace s l k = some cores) :
    cores.Nodup ∧ ∀ c ∈ cores, HasRoom s c l.pkt.warps := by
  unfold findPlace at h
  dsimp only at h
  split at h
  · cases h
  obtain ⟨⟨cl, cs⟩, hy, e⟩ := List.exists_of_findSome?_eq_some h
  have hcs := clusterOrder_nodup hy
  dsimp only at e hcs
  split at e
  · obtain rfl := Option.some.inj e
    have hinj : Function.Injective (coreNo cl) := fun i j e => Nat.add_left_cancel e
    refine ⟨((hcs.map hinj).filter _).sublist (List.take_sublist _ _), fun c hc => hasRoom_of_canHold ?_⟩
    exact (List.mem_filter.1 (List.mem_of_mem_take hc)).2
  · cases e

theorem placeCohort_numbered (h : Numbered Anywhere s) (l) {cores : List Nat} (hcores : cores.Nodup) (hroom : ∀ c ∈ cores, HasRoom s c l.pkt.warps) :
    Numbered Anywhere (eitherState (placeCohort s l cores)) := by
  unfold placeCohort
  split
  · next t e =>
    have h1 := of_error (loadMicros_numbered h _ _) e
    exact h1
  · next t e =>
    have h1 := of_ok (loadMicros_numbered h _ _) e
    refine modLaunch_numbered (placeBlocks_numbered h1 l _ ?_ fun p hp => ?_) _ _
    · rwa [List.zipIdx_map_fst]
    · have hp1 := List.fst_mem_of_mem_zipIdx hp
      exact hasRoom_of_numbered (hroom p.1 hp1) (of_ok (loadMicros_numbered (numbered_among h p.1) _ _) e)

theorem setPreempted_numbered (h : Numbered F s) (bs on) : Numbered F (setPreempted s bs on) := by
  refine foldl_numbered (fun s x h => ?_) _ h
  split
  next c b =>
  extract_lets s1 slots s2 s3 s4 s5
  have h1 : Numbered F s1 := modBlock_numbered h _ _ _
  have h2 : Numbered F s2 := ite_numbered (dropBlockPlaces_numbered h1 _ _) h1
  have h3 : Numbered F s3 := ite_numbered (foldl_numbered (fun _ _ h => leaveActive_numbered h _ _) _ h2) h2
  have h4 : Numbered F s4 := modCore_numbered h3 _ fun _ => rfl
  have h5 : Numbered F s5 := mapSome_numbered h4 _ fun _ => rfl
  exact ite_numbered h5 (foldl_numbered (fun _ _ h => emitSync_numbered h _ _) _ h5)

theorem preemptAll_numbered (h : Numbered F s) (vs) : Numbered F (preemptAll s vs) := foldl_numbered (fun _ _ h => setPreempted_numbered h _ _) _ h

theorem preemptFor_numbered (h : Numbered F s) (l) : Numbered F (preemptFor s l) := by
  unfold preemptFor
  refine ite_numbered h ?_
  split
  · exact with_numbered (preemptAll_numbered h _) rfl
  · exact h

theorem resumeUpTo_numbered (h : Numbered F s) (p) : Numbered F (resumeUpTo s p) :=
  foldl_numbered (fun _ _ h => foldl_numbered (fun _ _ h => ite_numbered (foldl_numbered (fun _ _ h => makeRoom_numbered h _) _ (setPreempted_numbered h _ _)) h) _ h) _ h

theorem placeHeads_numbered (h : Numbered Anywhere s) (id fuel) : Numbered Anywhere (placeHeads s id fuel) := by
  induction fuel generalizing s with
  | zero => exact h
  | succ fuel ih =>
    unfold placeHeads
    split
    · exact h
    · next l _ =>
      have h1 : Numbered Anywhere (if (findPlace s l l.nextCohort).isSome then s else preemptFor s l) := ite_numbered h (preemptFor_numbered h _)
      refine ite_numbered h ?_
      dsimp only
      split
      · next cores e =>
        obtain ⟨hcores, hroom⟩ := findPlace_spec e
        have h2 := placeCohort_numbered h1 l hcores hroom
        split
        · exact ih (of_ok h2 (by assumption))
        · exact of_error h2 (by assumption)
      · exact h1

theorem markPlaced_numbered (h : Numbered F s) : Numbered F (markPlaced s) := h

theorem placementPass_numbered (h : Numbered Anywhere s) : Numbered Anywhere (placementPass s) :=
  markPlaced_numbered (resumeUpTo_numbered (foldl_numbered (fun _ _ h => placeHeads_numbered (resumeUpTo_numbered h _) _ _) _ (by exact h)) _)

theorem readExt_numbered (h : Numbered F s) (p c i) : Numbered F (readExt s p c i).1 := by
  unfold readExt
  refine ite_fst_numbered h ?_
  split
  · exact of_fst (devLoad_numbered h _ _ _ _) (by assumption)
  · exact of_fst (devLoad_numbered h _ _ _ _) (by assumption)
  · refine ite_fst_numbered (of_fst (devLoad_numbered h _ _ _ _) (by assumption)) ?_
    split <;> exact of_fst (readImage_numbered (of_fst (devLoad_numbered h _ _ _ _) (by assumption)) _ _ _) (by assumption)

theorem addDone_numbered (h : Numbered F s) (x) : Numbered F (addDone s x).1 := by
  unfold addDone
  refine ite_fst_numbered h ?_
  split <;> have h1 := of_fst (devCheck_numbered h _ _ _ _) (by assumption)
  · exact ite_fst_numbered (keepRecalls_getD_numbered h _) h1
  · split
    · exact keepRecalls_getD_numbered h1 _
    · have h2 := of_fst (markDirty_numbered h1 _ _) (by assumption)
      split <;> have h3 := of_fst (rmwPart_numbered h2 _ _ _ _ _ _) (by assumption)
      · exact wakeWord_numbered h3 _
      · exact keepRecalls_getD_numbered h2 _
      · exact h3

theorem settleSignals_numbered (h : Numbered F s) : Numbered F (settleSignals s) := by
  unfold settleSignals
  refine foldl_numbered (fun _ _ h => ?_) _ h
  split
  · exact of_fst (addDone_numbered h _) (by assumption)
  · exact (of_fst (addDone_numbered h _) (by assumption) :)

theorem refuse_numbered (h : Numbered F s) (q status addr launch gen donesig) : Numbered F (refuse s q status addr launch gen donesig) :=
  queueRecord_numbered (setQueue_numbered h _) _ _ _ _

theorem admitLaunch_numbered (h : Numbered F s) (l) : Numbered F (admitLaunch s l) := by
  unfold admitLaunch
  have h1 : Numbered F (launchAcquire { s with launches := s.launches ++ [l], placeDue := true }) := launchAcquire_numbered (by exact h)
  have geom (s : State) (h : Numbered F s) (g) : Numbered F { s with geom := g } := h
  exact ite_numbered h1 (geom _ (modLaunch_numbered h1 _ _) _)

theorem launchStart_numbered {s0} (h : Numbered F s0) (q) : SomeNumbered F (launchStart s0 q) := by
  have next (s : State) (h : Numbered F s) (n : Word) : Numbered F { advanceHead s q with nextLaunch := n } := advanceHead_numbered h q
  unfold launchStart
  intro u e
  dsimp only at e
  split at e
  · cases e
  split at e
  · cases e
  have h1 := headItem_numbered h (s0.queueOf q)
  split at e
  · cases e; exact refuse_numbered (advanceHead_numbered h1 _) _ _ _ _ _ _
  split at e
  · cases e; exact refuse_numbered (next _ h1 _) _ _ _ _ _ _
  have h2 := readRegions_numbered h1 ((s0.queueOf q).word 3)
  split at e
  · exact keepRecalls_numbered h _ _ e
  · cases e; exact refuse_numbered (next _ (of_fst (readExt_numbered h2 _ _ _) (by assumption)) _) _ _ _ _ _ _
  · have h3 := next _ (of_fst (readExt_numbered h2 _ _ _) (by assumption)) ((headItem s0 (s0.queueOf q)).1.nextLaunch + 1)
    split at e
    · cases e; exact refuse_numbered h3 _ _ _ _ _ _
    · cases e; exact admitLaunch_numbered h3 _

theorem writeTail_numbered (h : Numbered F s) (q value) : Numbered F (writeTail s q value) :=
  ite_numbered h (ite_numbered (setQueue_numbered h _) (setQueue_numbered h _))

theorem preemptQueue_numbered (h : Numbered F s) (q) : Numbered F (preemptQueue s q) := with_numbered (setPreempted_numbered h _ _) rfl

theorem resumeQueue_numbered (h : Numbered F s) (q) : Numbered F (resumeQueue s q) :=
  with_numbered (foldl_numbered (fun _ x h => modBlock_numbered h x.1 _ _) _ h) rfl

theorem killQueue_numbered (h : Numbered F s) (q) : Numbered F (killQueue s q) := by
  unfold killQueue
  extract_lets mine t x
  have ht : Numbered F t := foldl_numbered (fun _ _ h => killLaunch_numbered h _ _) _ h
  exact ht

theorem clearQueue_numbered (h : Numbered F s) (q) : Numbered F (clearQueue s q) := setQueue_numbered h _

theorem execBlockKill_numbered (h : Numbered F s) (launch block) : NextNumbered F (execBlockKill launch block s) := by
  unfold execBlockKill
  dsimp only
  split
  · refine next_numbered (pumpRecords_numbered ?_)
    split
    · exact killLaunch_numbered h _ _
    · exact killLaunch_numbered h _ _
  · exact next_numbered (pumpRecords_numbered (foldl_numbered (fun _ _ h => killBlock_numbered h _ _ _) _ h))

/-! ### Geometry and the bin store -/

theorem modDie_numbered (h : Numbered F s) (d f) : Numbered F (modDie s d f) := h

theorem emitFrond_numbered (h : Numbered F s) (gdie v p) : Numbered F (emitFrond s gdie v p) := h

theorem visemitRep_numbered (h : Numbered F s) (gr draw d a b lka) : Numbered F (visemitRep gr draw d a b lka s) := by
  unfold visemitRep
  extract_lets m v old lane status sent t
  have ht : Numbered F t := foldl_numbered (fun _ _ h => emitFrond_numbered h _ _ _) _ h
  exact cur_stands ht ((lastUse_stands _ _ _ _).trans (setVec_stands _ _ _ _))

theorem execVisemit_numbered (h : Numbered F s) (gr d a lka b) : NextNumbered F (execVisemit gr d a lka b s) := by
  unfold execVisemit
  refine perform_numbered _ (fun _ h => ?_) h
  split
  · exact h
  · split
    · exact h
    · exact ending_numbered _ (runReps_numbered _ (fun _ _ h => ite_fst_numbered h (visemitRep_numbered h _ _ _ _ _ _)) h)

theorem modPass_numbered (h : Numbered F s) (p f) : Numbered F (modPass s p f) := h

theorem resolveFrond_numbered (h : Numbered F s) (tx ty n p b l) : Numbered F (resolveFrond s tx ty n p b l).1 := by
  unfold resolveFrond
  dsimp only
  refine foldl_fst_numbered (fun _ _ h => ?_) _ h
  split <;> exact h

theorem tileStart_numbered (h : Numbered F s) (p die tx ty) : Numbered F (tileStart s p die tx ty).1 := by
  unfold tileStart
  refine ite_fst_numbered h ?_
  split
  · exact ite_fst_numbered h h
  · exact h

theorem resolveRefs_numbered (h : Numbered F s) (p c i tx ty r l) : Numbered F (resolveRefs p c i tx ty r s l).1 := by
  induction r generalizing s l with
  | nil => exact h
  | cons f r ih =>
    unfold resolveRefs
    grind only [!devBytes_numbered, !resolveFrond_numbered]

theorem passFault_numbered (h : Numbered F s) (p tx ty t) : Numbered F (passFault s p tx ty t) :=
  pumpRecords_numbered (launchRecord_numbered (modPass_numbered h _ _) _ _)

theorem resolveTile_numbered (h : Numbered F s) (p die tx ty flushed) : Numbered F (resolveTile s p die tx ty flushed).1 := by
  unfold resolveTile
  grind only [!modDie_numbered, !modPass_numbered, !resolveRefs_numbered, !tileStart_numbered]

theorem unresolved_numbered (h : Numbered F s) (p tx ty x) : Numbered F (unresolved s p tx ty x) := by
  unfold unresolved
  split
  · exact passFault_numbered h _ _ _ _
  · exact keepRecalls_getD_numbered h _

theorem flushPut_numbered (h : Numbered F s) (die tx ty l) : Numbered F (flushPut s die tx ty l) := by
  unfold flushPut
  split
  · exact physPost_numbered h _ _
  · exact h

theorem flushTiles_numbered (h : Numbered F s) (die l) : ∀ t, flushTiles die l s = .ok t → Numbered F t := by
  induction l generalizing s with
  | nil => simpa [flushTiles] using h
  | cons x r ih =>
    unfold flushTiles
    grind only [!resolveTile_numbered, !flushPut_numbered]

theorem flushDie_numbered (h : Numbered F s) (die) : Numbered F (flushDie s die).1 := by
  unfold flushDie
  grind only [!flushTiles_numbered, !unresolved_numbered, !modDie_numbered]

theorem binFrond_numbered (h : Numbered F s) (die p) : Numbered F (binFrond s die p).1 := by
  unfold binFrond
  grind only [numbered_iff, place, !flushDie_numbered, !modDie_numbered]

theorem releaseHeld_numbered (h : Numbered F s) (die f l kept) : Numbered F (releaseHeld die f l kept s) := by
  induction l generalizing s kept with
  | nil => exact modDie_numbered h _ _
  | cons p r ih =>
    unfold releaseHeld
    grind only [!binFrond_numbered, !modDie_numbered]

theorem advanceDie_numbered (h : Numbered F s) (die fuel) : Numbered F (advanceDie die fuel s) := by
  induction fuel generalizing s with
  | zero => exact h
  | succ fuel ih =>
    unfold advanceDie
    grind only [!releaseHeld_numbered, !modDie_numbered]

theorem settleDraws_numbered (h : Numbered F s) : Numbered F (settleDraws s) :=
  with_numbered (foldl_numbered (fun _ _ h => ite_numbered (advanceDie_numbered h _ _) h) _ h) rfl

theorem sendToken_numbered (h : Numbered F s) (gdie d) : SomeNumbered F (sendToken s gdie d) := by
  unfold sendToken
  intro u e
  extract_lets lines t at e
  have ht : Numbered F t := publishAll_numbered (foldl_numbered (fun _ _ h => mergeUpd_numbered h _ _) _ h) _ _
  split at e
  · split at e
    · exact keepRecalls_numbered h _ _ e
    · obtain rfl := Option.some.inj e
      exact ht
  · obtain rfl := Option.some.inj e
    exact ht

theorem execEndOfDrawToken_numbered (h : Numbered F s) (gdie draw) : NextNumbered F (execEndOfDrawToken gdie draw s) := by
  unfold execEndOfDrawToken
  split
  · exact next_numbered h
  · exact next_numbered (ite_numbered (pumpRecords_numbered (getD_numbered h (sendToken_numbered h _ _))) h)

theorem dropFrond_numbered (h : Numbered F s) (sdie p) : Numbered F (dropFrond s sdie p) := by
  unfold dropFrond
  split <;> exact h

theorem execFrondPacketArrival_numbered (h : Numbered F s) (sdie p) : NextNumbered F (execFrondPacketArrival sdie p s) := by
  unfold execFrondPacketArrival
  split
  · exact next_numbered (dropFrond_numbered h _ _)
  · refine ite_next_numbered (next_numbered (modDie_numbered (dropFrond_numbered h _ _) _ _))
      (ite_next_numbered (ite_next_numbered (next_numbered (modDie_numbered (dropFrond_numbered h _ _) _ _)) (next_numbered h)) ?_)
    refine ite_next_numbered (next_numbered (releaseHeld_numbered h _ _ _ _)) ?_
    split
    · exact next_numbered (dropFrond_numbered (of_fst (binFrond_numbered (releaseHeld_numbered h _ _ _ _) _ _) (by assumption)) _ _)
    · exact next_numbered (of_fst (binFrond_numbered (releaseHeld_numbered h _ _ _ _) _ _) (by assumption))

/-! ### Passes, tiles and textures -/

theorem openPass_numbered (h : Numbered F s) (q desc) : Numbered F (openPass s q desc) := by
  have start (s : State) (h : Numbered F s) (n : Word) (l : List Launch) (g : Geom) :
      Numbered F { launchAcquire { s with nextLaunch := n, launches := l } with geom := g } := launchAcquire_numbered (by exact h)
  unfold openPass
  refine ite_numbered h ?_
  split
  · have h1 := physWaits_numbered h _ _ _ _ (by assumption)
    exact h1
  · dsimp only
    split
    · exact refuse_numbered (of_fst (ite_fst_numbered h (physRead_numbered h _ _ _)) (by assumption)) _ _ _ _ _ _
    · have h1 := of_fst (ite_fst_numbered h (physRead_numbered h _ _ _)) (by assumption)
      have h2 := readRegions_numbered h1 ((s.queueOf q).word 3)
      refine ite_numbered (refuse_numbered h2 _ _ _ _ _ _) ?_
      split
      · have h3 := of_fst (readExt_numbered h2 _ _ _) (by assumption)
        refine ite_numbered (refuse_numbered h3 _ _ _ _ _ _) ?_
        exact start _ h3 _ _ _
      · have h3 := of_fst (readExt_numbered h2 _ _ _) (by assumption)
        exact h3
      · exact refuse_numbered (of_fst (readExt_numbered h2 _ _ _) (by assumption)) _ _ _ _ _ _

theorem placeTile_numbered (h : Numbered Anywhere s) (l die block) : Numbered Anywhere (eitherState (placeTile s l die block)) := by
  have place (t : State) (ht : Numbered Anywhere t) (l c) (hroom : HasRoom t c l.pkt.warps) :
      Numbered Anywhere (eitherState ((loadMicro t l c).map fun s => makeRoom (placeBlock s l c block 0) c)) := by
    have h1 := loadMicro_numbered ht l c
    cases e : loadMicro t l c with
    | error u => exact of_error h1 e
    | ok u =>
      have hu := hasRoom_of_numbered hroom (of_ok (loadMicro_numbered (numbered_among ht c) l c) e)
      exact makeRoom_numbered (placeBlock_numbered (of_ok h1 e) (fun _ => trivial) hu _ _) _
  unfold placeTile
  dsimp only
  split
  · next e => exact place _ (ite_numbered h (preemptFor_numbered h _)) _ _ ((findPlace_spec e).2 _ List.mem_cons_self)
  · exact h

theorem tileLaunch_numbered (h : Numbered Anywhere s) (q tx ty) : Numbered Anywhere (tileLaunch s q tx ty) := by
  unfold tileLaunch
  split
  · exact h
  · dsimp only
    split
    · have h1 := of_fst (resolveTile_numbered h _ _ _ _ _) (by assumption)
      refine ite_numbered (modDie_numbered (modPass_numbered h1 _ _) _ _) ?_
      split
      · exact modDie_numbered (modPass_numbered (of_ok (placeTile_numbered h1 _ _ _) (by assumption)) _ _) _ _
      · exact keepRecalls_getD_numbered h _
    · exact unresolved_numbered h _ _ _ _

theorem visrdRep_numbered (h : Numbered F s) (gr p tx ty d smp pix) {use} (huse : ∀ w, StandsAt w (use w)) : Numbered F (visrdRep gr p tx ty d smp pix use s).1 := by
  unfold visrdRep
  exact foldl_numbered (fun _ _ h => landWords_numbered h _ _ _) _ (cur_stands h (by exact huse _))

theorem execVisrd_numbered (h : Numbered F s) (gr d smp) : NextNumbered F (execVisrd gr d smp s) := by
  unfold execVisrd
  refine perform_numbered _ (fun _ h => ?_) h
  split
  · exact h
  · split
    · exact h
    · exact ending_numbered _ (runReps_numbered _ (fun _ _ h => visrdRep_numbered h _ _ _ _ _ _ _ fun _ => by rfl) h)

theorem execVisrdPix_numbered (h : Numbered F s) (gr d a lka smp) : NextNumbered F (execVisrdPix gr d a lka smp s) := by
  unfold execVisrdPix
  refine perform_numbered _ (fun _ h => ?_) h
  split
  · exact h
  · split
    · exact h
    · exact ending_numbered _ (runReps_numbered _ (fun _ _ h => visrdRep_numbered h _ _ _ _ _ _ _ fun _ => lastUse_stands _ _ _ _) h)

theorem pixelRead_numbered (h : Numbered F s) (i die a n) : Numbered F (pixelRead s i die a n).1 := by
  unfold pixelRead
  split
  · refine ite_fst_numbered h (ite_fst_numbered (startRecall_numbered h _ _) ?_)
    split <;> exact of_fst (readGran_numbered (recallLine_numbered h _ _) _ _ _) (by assumption)
  · split <;> exact of_fst (loadAcc_numbered h _ _ _ _) (by assumption)

theorem writeBackLine_numbered (h : Numbered F s) (launch o line key) : Numbered F (writeBackLine s launch o line key).1 := by
  unfold writeBackLine
  dsimp only
  split
  · exact physWaits_numbered h _ _ _ _ (by assumption)
  · split
    · exact tagLine_numbered (of_fst (mergeCells_numbered (recallLine_numbered h _ _) _ _ _) (by assumption)) _ _ _ _
    · exact launchRecord_numbered (of_fst (mergeCells_numbered (recallLine_numbered h _ _) _ _ _) (by assumption)) _ _

theorem writeBackLines_numbered (h : Numbered F s) (d ls) : Numbered F (writeBackLines s d ls) := by
  unfold writeBackLines
  refine foldl_numbered (fun _ _ h => ?_) _ h
  split
  · exact of_fst (writeBackLine_numbered h _ _ _ _) (by assumption)
  · exact modDie_numbered (of_fst (writeBackLine_numbered h _ _ _ _) (by assumption)) _ _

theorem renderRoom_numbered (h : Numbered F s) (die line) : Numbered F (renderRoom s die line).1 := by
  unfold renderRoom
  split
  · exact h
  · refine ite_fst_numbered h ?_
    split
    · exact ite_fst_numbered h (writeBackLines_numbered h _ _)
    · exact h

theorem pixelWrite_numbered (h : Numbered F s) (i die a d) : Numbered F (pixelWrite s i die a d).1 := by
  unfold pixelWrite
  split
  · split
    · exact of_fst (renderRoom_numbered h _ _) (by assumption)
    · exact modDie_numbered (of_fst (renderRoom_numbered h _ _) (by assumption)) _ _
  · exact storeAcc_numbered h _ _ _ _

theorem checkPixel_numbered (h : Numbered F s) (p tx ty tgt b l) : Numbered F (checkPixel s p tx ty tgt b l).1 := by
  unfold checkPixel
  refine ite_fst_numbered h (ite_fst_numbered h ?_)
  split <;> exact of_fst (translate_numbered h _ _ _ _) (by assumption)

theorem pixelLane_numbered (h : Numbered F s) (op fmt die a l acc) : Numbered F (pixelLane op fmt die a s l acc).1 := by
  unfold pixelLane
  dsimp only
  refine ite_fst_numbered h ?_
  split
  · exact of_fst (pixelRead_numbered h _ _ _ _) (by assumption)
  · exact of_fst (pixelRead_numbered h _ _ _ _) (by assumption)
  · exact pixelWrite_numbered (of_fst (pixelRead_numbered h _ _ _ _) (by assumption)) _ _ _ _

theorem execRpix_numbered (h : Numbered F s) (gr op tgt a lka b lkb) : NextNumbered F (execRpix gr op tgt a lka b lkb s) := by
  refine perform_numbered _ (fun s h => ?_) h
  dsimp only
  split
  · exact h
  · split
    · exact h
    · refine ending_numbered _ (runReps_numbered _ (fun k s h => ?_) h)
      split
      · exact of_fst (checkLanes_numbered h _ fun _ _ h => checkPixel_numbered h _ _ _ _ _ _) (by assumption)
      · have h1 := of_fst (checkLanes_numbered h _ fun _ _ h => checkPixel_numbered h _ _ _ _ _ _) (by assumption)
        refine settle_numbered (sweepFrom_numbered (fun _ _ _ h => pixelLane_numbered h _ _ _ _ _ _) h1 _ _) _ _ _ fun s _ h => touchAll_numbered ?_ _
        exact cur_stands h ((lastUse_stands _ _ _ _).trans (lastUse_stands _ _ _ _))

theorem loadItems_numbered (h : Numbered F s) (fresh cpol l) {k} (hk : ∀ s vs, Numbered F s → Numbered F (k s vs).1) :
    Numbered F (Machine.loadItems s fresh cpol l k).1 :=
  settle_numbered (loadLanes_numbered h _ _ _) _ _ _ fun _ _ h => hk _ _ (touchAll_numbered h _)

theorem withDesc_numbered (h : Numbered F s) (m va fresh cpol) {k} (hk : ∀ s n, Numbered F s → Numbered F (k s n).1) :
    Numbered F (withDesc s m va fresh cpol k).1 := by
  unfold withDesc
  split
  · exact of_fst (checkLanes_numbered h _ fun _ _ h => checkLane_numbered h _ _ _ _ _ _ _) (by assumption)
  · exact loadItems_numbered (of_fst (checkLanes_numbered h _ fun _ _ h => checkLane_numbered h _ _ _ _ _ _ _) (by assumption)) _ _ _ fun _ _ h => hk _ _ h

theorem throughMap_numbered (h : Numbered F s) {α β : Type} (fresh cpol) (maps : List (Fin 32 × α)) {chkMap}
    (named : List ((Fin 32 × α) × Nat) → List (Fin 32 × β)) {chk k} (hmap : ∀ s l x, Numbered F s → Numbered F (chkMap s l x).1)
    (hchk : ∀ s l x, Numbered F s → Numbered F (chk s l x).1) (hk : ∀ s x y, Numbered F s → Numbered F (k s x y).1) :
    Numbered F (throughMap s fresh cpol maps chkMap named chk k).1 := by
  unfold throughMap
  have h1 := checkEach_numbered h maps hmap
  refine loadItems_numbered h1 _ _ _ (fun t ws ht => ?_)
  dsimp only
  split
  · exact h1
  · split
    · exact hk _ _ _ (of_fst (markLanes_numbered (checkEach_numbered ht _ hchk) _) (by assumption))
    · exact h1

theorem checkFeedback_numbered (h : Numbered F s) (l fmap page) : Numbered F (checkFeedback s l fmap page).1 := checkLane_numbered h _ _ _ _ _ _ _

theorem feedback_numbered (h : Numbered F s) (m l) {k} (hk : ∀ s, Numbered F s → Numbered F (k s).1) : Numbered F (feedback s m l k).1 := by
  unfold feedback
  refine ite_fst_numbered (hk s h) ?_
  split
  · exact h
  · exact h
  · refine ite_fst_numbered h (settle_numbered (touchAll_numbered (foldl_fst_numbered (fun p x h => ?_) _ h) _) _ _ _ fun s _ h => hk s h)
    have h1 := tagged_numbered h (taggedLane p.1.cur x.1 (!p.1.cur.memrev) .core)
      (f := fun s e => redLane s x.1 x.2.1 7 (BitVec.ofNat 64 (2 ^ (x.2.2 % 32))) e) fun s e h => redLane_numbered h _ _ _ _ _
    dsimp only
    split <;> exact of_fst h1 (by assumption)

theorem mapsEnd_numbered (h : Numbered F s) (m) : Numbered F (mapsEnd m s).1 := ite_numbered h (acquire_numbered h _ _)

theorem ldclRep_numbered (h : Numbered F s) (gr v vi sb t fresh) : Numbered F (ldclRep gr v vi sb t fresh s).1 := by
  unfold ldclRep
  refine ite_fst_numbered h ?_
  refine withDesc_numbered h _ _ _ _ fun _ _ h => ?_
  refine ite_fst_numbered h ?_
  refine throughMap_numbered h _ _ _ _ (fun _ _ _ h => checkLane_numbered h _ _ _ _ _ _ _) (fun _ _ _ h => ?_)
    (fun _ _ _ h => loadItems_numbered h _ _ _ (fun _ _ h => feedback_numbered h _ _
      (fun _ h => mapsEnd_numbered (foldl_numbered (fun _ _ h => landWords_numbered h _ _ _) _ h) _)))
  split
  · exact checkLane_numbered h _ _ _ _ _ _ _
  · exact h
  · exact checkFeedback_numbered h _ _ _

theorem execLdcl_numbered (h : Numbered F s) (gr v b i t f) : NextNumbered F (execLdcl gr v b i t f s) := by
  unfold execLdcl
  refine perform_numbered _ (fun _ h => ?_) h
  split
  · exact h
  · exact ending_numbered _ (runReps_numbered _ (fun _ _ h => ldclRep_numbered h _ _ _ _ _ _) h)

theorem texRep_numbered (h : Numbered F s) (gr d a lka sb fb) : Numbered F (texRep gr d a lka sb fb s).1 := by
  unfold texRep
  refine ite_fst_numbered (lastUse_numbered h _ _ _) (ite_fst_numbered h (withDesc_numbered h _ _ _ _ fun s _ h => ite_fst_numbered h
    (throughMap_numbered h _ _ _ _ (fun _ _ _ h => checkLane_numbered h _ _ _ _ _ _ _) (fun s _ y h => ?_) fun _ _ _ h =>
      loadItems_numbered h _ _ _ fun _ _ h => feedback_numbered h _ _ fun s h => mapsEnd_numbered (foldl_numbered (fun _ _ h => landWords_numbered h _ _ _) _ ?_) _)))
  · split
    · exact checkLane_numbered h _ _ _ _ _ _ _
    · exact checkFeedback_numbered h _ _ _
  · exact lastUse_numbered h _ _ _

theorem execTex_numbered (h : Numbered F s) (gr d a lka b) : NextNumbered F (execTex gr d a lka b s) := by
  unfold execTex
  refine perform_numbered _ (fun _ h => ?_) h
  split
  · exact h
  · exact ending_numbered _ (runReps_numbered _ (fun _ _ h => texRep_numbered h _ _ _ _ _ _) h)

theorem execTexfb_numbered (h : Numbered F s) (gr d a lka b) : NextNumbered F (execTexfb gr d a lka b s) := by
  unfold execTexfb
  refine perform_numbered _ (fun _ h => ?_) h
  split
  · exact h
  · exact ending_numbered _ (runReps_numbered _ (fun _ _ h => texRep_numbered h _ _ _ _ _ _) h)

/-! ### Collectives -/

theorem setMember_numbered (h : Numbered F s) (m) : Numbered F (setMember s m) := h

theorem modMembers_numbered (h : Numbered F s) (f) : Numbered F (modMembers s f) := h

theorem setRoot_numbered (h : Numbered F s) (r) : Numbered F (setRoot s r) := h

theorem modRoot_numbered (h : Numbered F s) (cid f) : Numbered F (modRoot s cid f) := h

theorem setPoint_numbered (h : Numbered F s) (p) : Numbered F (setPoint s p) := h

theorem sendOut_numbered (h : Numbered F s) (l) : Numbered F (sendOut s l) := ite_numbered h h

theorem wakeColl_numbered (h : Numbered F s) (p) : Numbered F (wakeColl s p) := mapAllWarps_numbered h fun _ w => by split <;> rfl

theorem wakeSlots_numbered (h : Numbered F s) (slots) : Numbered F (wakeSlots s slots) := wakeColl_numbered h _

theorem openMembers_numbered (h : Numbered F s) (cid frame close) : Numbered F (openMembers s cid frame close) :=
  wakeColl_numbered (modMembers_numbered h _) _

theorem unitRead_numbered (h : Numbered F s) (va n) : Numbered F (unitRead s va n).1 := by
  unfold unitRead
  dsimp only
  refine foldl_fst_numbered (fun _ _ h => ?_) _ h
  split
  · split <;> exact of_fst (engRead_numbered h _ _ _ _ _) (by assumption)
  · exact h

theorem unitPut_numbered (h : Numbered F s) (c i va d) : Numbered F (unitPut s c i va d).1 := by
  unfold unitPut
  dsimp only
  split
  · split <;> exact of_fst (engWrite_numbered (of_fst (engOwn_numbered h _ _ _) (by assumption)) _ _ _ _ _) (by assumption)
  · exact of_fst (engOwn_numbered h _ _ _) (by assumption)
  · exact of_fst (engOwn_numbered h _ _ _) (by assumption)
  · exact of_fst (engOwn_numbered h _ _ _) (by assumption)

theorem surfacePut_numbered (h : Numbered F s) (core pa d) : Numbered F (surfacePut s core pa d).1 := by
  unfold surfacePut
  dsimp only
  split <;> have h1 := of_fst (claim_numbered h _) (by assumption)
  · exact h1
  · have h2 := modCore_numbered (recallLine_numbered h1 (pa / 64) true) core (f := fun k => l1Drop k ⟨none, pa / 64⟩) fun _ => rfl
    split <;> have h3 := of_fst (mergeGran_numbered h2 _ _ _) (by assumption)
    · exact tagLine_numbered h3 _ _ _ _
    · exact h3

theorem rosterEntry_numbered (h : Numbered F s) (c i j rank) : Numbered F (rosterEntry s c i j rank).1 := by
  unfold rosterEntry
  refine ite_fst_numbered h ?_
  split <;> exact of_fst (engRead_numbered h _ _ _ _ _) (by assumption)

theorem answerJoin_numbered (h : Numbered F s) (node slot r ok) : Numbered F (answerJoin s node slot r ok) :=
  ite_numbered (wakeColl_numbered (modMembers_numbered h _) _) (sendOut_numbered h _)

theorem serveJoin_numbered (h : Numbered F s) (node slot desc entry) : Numbered F (serveJoin s node slot desc entry) := by
  unfold serveJoin
  dsimp only
  split
  · exact h
  · exact answerJoin_numbered (ite_numbered (setRoot_numbered h _) h) _ _ _ _

theorem clearHold_numbered (h : Numbered F s) (c i j) : Numbered F (clearHold s c i j).1 := by
  unfold clearHold
  dsimp only
  refine ite_fst_numbered h ?_
  refine foldl_fst_numbered (fun _ _ h => ?_) _ h
  split
  · exact unitPut_numbered h _ _ _ _
  · exact h

theorem createRoot_numbered (h : Numbered F s) (slot w) : Numbered F (createRoot s slot w) :=
  foldl_numbered (fun _ _ h => serveJoin_numbered h _ _ _ _) _ (by exact with_numbered (answerJoin_numbered (sendOut_numbered (setRoot_numbered h _) _) _ _ _ _) rfl)

theorem leaveSlot_numbered (h : Numbered F s) (slot) : Numbered F (leaveSlot s slot) := by
  unfold leaveSlot
  split <;> exact h

theorem askRoot_numbered (h : Numbered F s) (slot w r0 me) : Numbered F (askRoot s slot w r0 me).1 := by
  unfold askRoot
  refine ite_fst_numbered (sendOut_numbered (setMember_numbered h _) _) (ite_fst_numbered (serveJoin_numbered (setMember_numbered h _) _ _ _ _) ?_)
  split
  · exact createRoot_numbered (setMember_numbered (of_fst (clearHold_numbered h _ _ _) (by assumption)) _) _ _
  · exact clearHold_numbered h _ _ _

theorem endJoin_numbered (h : Numbered F s) (d) : Numbered F (endJoin s d).1 := by
  unfold endJoin
  split
  · exact h
  · split
    · exact h
    · exact setS_numbered (setMember_numbered h _) _ _
    · exact h

theorem descPlace_numbered (h : Numbered F s) (va) : Numbered F (descPlace s va).1 := by
  unfold descPlace
  dsimp only
  split
  · exact h
  · refine ite_fst_numbered h ?_
    split <;> exact of_fst (translate_numbered h _ _ _ _) (by assumption)

theorem touchRead_numbered (h : Numbered F s) (va n) : Numbered F (touchRead s va n) := touched_numbered h _ _

theorem engThen_numbered {α : Type} {x : State × Eng α} (h : Numbered F x.1) {k} (hk : ∀ s v, Numbered F s → Numbered F (k s v).1) :
    Numbered F (engThen x k).1 := by
  unfold engThen
  split
  · exact hk _ _ h
  · exact h
  · exact h
  · exact h

theorem joinOnce_numbered (h : Numbered F s) (d va) : Numbered F (joinOnce d va s).1 := by
  unfold joinOnce
  refine ite_fst_numbered (endJoin_numbered h _) ?_
  split
  · exact of_fst (descPlace_numbered h _) (by assumption)
  · exact engThen_numbered (unitRead_numbered (of_fst (descPlace_numbered h _) (by assumption)) _ _)
      (fun _ _ h => ite_fst_numbered h (ite_fst_numbered h (engThen_numbered (rosterEntry_numbered h _ _ _ _)
        (fun _ _ h => engThen_numbered (rosterEntry_numbered h _ _ _ _) (fun _ _ h => ite_fst_numbered h
          (engThen_numbered (askRoot_numbered (touchRead_numbered (touchRead_numbered h _ _) _ _) _ _ _ _) (fun _ _ h => endJoin_numbered h _)))))))

theorem noticeLate_numbered (h : Numbered F s) (cid rank frame) : Numbered F (noticeLate s cid rank frame) :=
  ite_numbered (modMembers_numbered (by exact h) _) (sendOut_numbered (by exact h) _)

theorem dropLatePacket_numbered (h : Numbered F s) (p) : Numbered F (dropLatePacket s p) := ite_numbered (noticeLate_numbered h _ _ _) h

theorem rootPacket_numbered (h : Numbered F s) (r p) : Numbered F (rootPacket s r p) :=
  ite_numbered (dropLatePacket_numbered h _) (ite_numbered (ite_numbered (dropLatePacket_numbered h _) (ite_numbered h (setRoot_numbered h _)))
    (ite_numbered (ite_numbered h (setRoot_numbered h _)) h))

theorem pointMerge_numbered (h : Numbered F s) (x p fuel) : Numbered F (pointMerge s x p fuel) := by
  induction fuel generalizing x p with
  | zero => exact sendOut_numbered (setPoint_numbered h _) _
  | succ fuel ih =>
    unfold pointMerge
    grind only [!sendOut_numbered, !setPoint_numbered]

theorem pointPacket_numbered (h : Numbered F s) (x p) : Numbered F (pointPacket s x p) :=
  ite_numbered (ite_numbered (dropLatePacket_numbered h _) (sendOut_numbered h _)) (ite_numbered (pointMerge_numbered h _ _ _) (ite_numbered (sendOut_numbered h _) (setPoint_numbered h _)))

theorem packetArrives_numbered (h : Numbered F s) (p) : Numbered F (packetArrives s p) := by
  unfold packetArrives
  refine ite_numbered h ?_
  split
  · exact rootPacket_numbered h _ _
  · exact pointPacket_numbered h _ _
  · exact sendOut_numbered h _

theorem openPoint_numbered (h : Numbered F s) (cid frame close) : Numbered F (openPoint s cid frame close) := by
  unfold openPoint
  split
  · exact h
  · exact foldl_numbered (fun _ _ h => packetArrives_numbered h _) _ (setPoint_numbered h _)

theorem closeFrame_numbered (h : Numbered F s) (cid) : Numbered F (closeFrame s cid) := by
  unfold closeFrame
  dsimp only
  split
  · exact modRoot_numbered h _ _
  · split
    · exact modRoot_numbered h _ _
    · exact ite_numbered (modRoot_numbered h _ _) (sendOut_numbered (setPoint_numbered (modRoot_numbered h _ _) _) _)

theorem execCloseFlit_numbered (h : Numbered F s) (cid frame) : NextNumbered F (execCloseFlit cid frame s) := by
  unfold execCloseFlit
  split
  · exact next_numbered (ite_numbered (setRoot_numbered h _) h)
  · exact next_numbered (sendOut_numbered h _)

theorem heldTiles_numbered (h : Numbered F s) (r i) : Numbered F (heldTiles s r i).1 := by
  unfold heldTiles
  grind only [!engRead_numbered, !foldl_numbered, !foldl_fst_numbered]

theorem settleAt_numbered (h : Numbered F s) (r i) : Numbered F (settleAt s r i).1 := by
  unfold settleAt
  grind only [!heldTiles_numbered]

theorem presentMap_numbered (h : Numbered F s) (r) : Numbered F (presentMap s r).1 := by
  unfold presentMap
  grind only [!fresh_numbered, !foldl_numbered, !foldl_fst_numbered]

theorem putAll_numbered (h : Numbered F s) (r l) : Numbered F (putAll s r l).1 := by
  induction l generalizing s with
  | nil => exact h
  | cons w ws ih =>
    have fold (one : State → Nat → List Byte → State × Eng Unit) (hone : ∀ s a b, Numbered F s → Numbered F (one s a b).1)
        (l : List (Nat × Nat)) (at_ : Nat) (d : List Byte) :
        Numbered F (l.foldl (fun (p : State × Eng Unit) x => match p.2 with
          | .ok _ =>
            if r.lost.contains (x.1 / 64) then (p.1, .ok ())
            else
              match one p.1 x.1 ((d.drop (x.1 - at_)).take x.2) with
              | (s, .fail t) => (launchRecord s (unitRecord r.core r.lau.id (copyTrap t) 2), .ok ())
              | x => x
          | e => (p.1, e)) (s, Eng.ok ())).1 := by
      refine foldl_fst_numbered (fun p x h => ?_) _ h
      split
      · refine ite_fst_numbered h ?_
        have h1 := hone p.1 x.1 ((d.drop (x.1 - at_)).take x.2) h
        split
        · exact launchRecord_numbered (of_fst h1 (by assumption)) _ _
        · exact h1
      · exact h
    unfold putAll
    cases w with
    | virt c l va d =>
      have res := fold (fun s a b => unitPut s (unitCtx c l) (unitIssuer c l.id) (BitVec.ofNat 64 a) b)
        (fun _ _ _ h => unitPut_numbered h _ _ _ _) (granules va.toNat d.length) va.toNat d
      dsimp only
      split
      · exact ih (of_fst res (by assumption))
      · exact res
    | phys pa d =>
      have res := fold (fun s a b => surfacePut s r.core a b) (fun _ _ _ h => surfacePut_numbered h _ _ _) (granules pa d.length) pa d
      dsimp only
      split
      · exact ih (of_fst res (by assumption))
      · exact res

theorem signalFrame_numbered (h : Numbered F s) (r) : Numbered F (signalFrame s r).1 := by
  unfold signalFrame
  refine ite_fst_numbered h ?_
  split
  · exact of_fst (translate_numbered h _ _ _ _) (by assumption)
  · refine ite_fst_numbered (of_fst (translate_numbered h _ _ _ _) (by assumption)) ?_
    split
    · exact wakeWord_numbered (of_fst (rmwPart_numbered (of_fst (translate_numbered h _ _ _ _) (by assumption)) _ _ _ _ _ _) (by assumption)) _
    · exact of_fst (rmwPart_numbered (of_fst (translate_numbered h _ _ _ _) (by assumption)) _ _ _ _ _ _) (by assumption)
    · exact of_fst (rmwPart_numbered (of_fst (translate_numbered h _ _ _ _) (by assumption)) _ _ _ _ _ _) (by assumption)

theorem completeMembers_numbered (h : Numbered F s) (cid frame status) : Numbered F (completeMembers s cid frame status) :=
  wakeSlots_numbered (modMembers_numbered h _) _

theorem modHead_numbered (h : Numbered F s) (n f) : Numbered F (modHead s n f) := h

theorem completeFrame_numbered {s0} (h : Numbered F s0) (r) : SomeNumbered F (completeFrame s0 r) := by
  unfold completeFrame
  intro u e
  extract_lets j at_ park at e
  split at e
  next s vs e1 =>
  have h1 : Numbered F s := by
    refine of_fst (foldl_fst_numbered (fun p i h => ?_) _ ?_) e1
    · exact settleAt_numbered h r i
    · exact h
  split at e
  next t present e2 =>
  have h2 : Numbered F t := of_fst (presentMap_numbered h1 r) e2
  extract_lets dest writes status finish at e
  have hpark (x) : SomeNumbered F (park x) := by
    rintro _ ⟨⟩
    exact pumpRecords_numbered (launchRecord_numbered (setRoot_numbered h _) _ _)
  have hfinish (s) (h : Numbered F s) : Numbered F (finish s) := by
    refine foldl_numbered (fun _ _ h => packetArrives_numbered h _) _ (openMembers_numbered (completeMembers_numbered (sendOut_numbered (ite_numbered ?_ ?_) _) _ _ _) _ _ _)
    · exact modHead_numbered (setRoot_numbered h _) _ _
    · exact setRoot_numbered h _
  split at e
  · exact keepRecalls_numbered h _ _ e
  · exact hpark _ _ e
  · have h3 := of_fst (putAll_numbered h2 r writes) (by assumption)
    split at e
    · exact keepRecalls_numbered h _ _ e
    · split at e
      · cases e; exact hfinish _ h3
      · exact hpark _ _ e
    · cases e; exact hfinish _ (launchRecord_numbered (of_fst (signalFrame_numbered h3 r) (by assumption)) _ _)
    · cases e; exact hfinish _ (of_fst (signalFrame_numbered h3 r) (by assumption))

theorem execFrameComplete_numbered (h : Numbered F s) (cid frame status) : NextNumbered F (execFrameComplete cid frame status s) := by
  unfold execFrameComplete
  split
  · exact next_numbered (ite_numbered (pumpRecords_numbered (getD_numbered h (completeFrame_numbered h _))) h)
  · exact next_numbered (completeMembers_numbered h _ _ _)

theorem settledDown_numbered (h : Numbered F s) (cid frame block data) : Numbered F (settledDown s cid frame block data) := by
  refine foldl_numbered (fun s m h => ?_) _ h
  split
  · exact h
  · next l _ =>
    refine ite_numbered (setMember_numbered h _) ?_
    have res (l' : List (Nat × Nat)) (va : Dword) : Numbered F (l'.foldl (fun (p : State × Eng Unit) x =>
        match p.2 with
        | .ok _ => unitPut p.1 (unitCtx m.core l) (unitIssuer m.core l.id) (BitVec.ofNat 64 x.1) ((data.drop (x.1 - va.toNat)).take x.2)
        | e => (p.1, e)) (s, Eng.ok ())).1 := by
      refine foldl_fst_numbered (fun p x h => ?_) _ h
      split
      · exact unitPut_numbered h _ _ _ _
      · exact h
    dsimp only
    split <;> have h1 := of_fst (res _ _) (by assumption)
    · exact h1
    · exact ite_numbered h1 h1
    · exact launchRecord_numbered (setMember_numbered h1 _) _ _
    · exact launchRecord_numbered h1 _ _

theorem postOnce_numbered (h : Numbered F s) (tensor va x) : Numbered F (postOnce tensor va x s).1 := by
  unfold postOnce
  split
  · exact h
  · exact ite_fst_numbered h (engThen_numbered (unitRead_numbered h _ _) (fun _ _ h => ite_fst_numbered h
      (ite_fst_numbered (noticeLate_numbered (touchRead_numbered h _ _) _ _ _) (packetArrives_numbered (setMember_numbered (touchRead_numbered h _ _) _) _))))

theorem postBody_numbered {x} (h : Numbered F x) (gr tensor a b) : Numbered F (postBody gr tensor a b x).1 :=
  warpLevel_numbered _ _ (fun _ _ h => postOnce_numbered h _ _ _) h

theorem waitOnce_numbered (h : Numbered F s) (test d x) : Numbered F (waitOnce test d x s).1 := by
  have set (s : State) (h : Numbered F s) (v) : Numbered F { s with cur := s.cur.setS d v } := setS_numbered h _ _
  unfold waitOnce
  refine ite_fst_numbered h ?_
  split
  · exact h
  · dsimp only
    refine ite_fst_numbered (ite_fst_numbered ?_ h) ?_
    · dsimp only
      exact acquire_numbered (set _ h _) _ _
    split
    · dsimp only
      exact acquire_numbered (set _ h _) _ _
    · exact ite_fst_numbered h (ite_fst_numbered (set _ h _) h)

/-! ### The completion of launches and passes -/

theorem writeBackDie_numbered (h : Numbered F s) (launch d) : Numbered F (writeBackDie s launch d) := writeBackLines_numbered h _ _

theorem closeLaunch_numbered (h : Numbered F s) (id) : Numbered F (closeLaunch s id) :=
  foldl_numbered (fun _ _ h => writeBackDie_numbered h _ _) _ (publishAll_numbered (foldl_numbered (fun _ _ h => mergeUpd_numbered h _ _) _ h) _ _)

theorem finishLaunch_numbered (h : Numbered F s) (l) : Numbered F (finishLaunch s l) :=
  settleSignals_numbered (by exact with_numbered (foldl_numbered (fun _ _ h => leaveSlot_numbered h _) _ h) rfl)

theorem endLaunch_numbered (h : Numbered F s) (l) : ∀ u, endLaunch s l = some u → Numbered F u.1 := by
  unfold endLaunch
  grind only [!closeLaunch_numbered, !finishLaunch_numbered]

theorem execLaunchComplete_numbered (h : Numbered F s) (launch) : NextNumbered F (execLaunchComplete launch s) := by
  unfold execLaunchComplete
  split
  · refine next_numbered (ite_numbered (pumpRecords_numbered ?_) h)
    split
    · exact endLaunch_numbered h _ _ (by assumption)
    · exact h
  · exact next_numbered h

theorem endPass_numbered (h : Numbered F s) (p) : SomeNumbered F (endPass s p) := by
  unfold endPass
  intro u e
  dsimp only at e
  split at e
  · cases e; exact h
  · split at e
    · cases e; exact (endLaunch_numbered h _ _ (by assumption) :)
    · cases e; exact endLaunch_numbered h _ _ (by assumption)
    · cases e

theorem execPassComplete_numbered (h : Numbered F s) (q) : NextNumbered F (execPassComplete q s) := by
  unfold execPassComplete
  split
  · exact next_numbered (pumpRecords_numbered (getD_numbered h (endPass_numbered h _)))
  · exact next_numbered h

/-! ### What reaches homes and holders -/

theorem execHomeRequest_numbered (h : Numbered F s) (r) : NextNumbered F (execHomeRequest r s) := by
  unfold execHomeRequest
  split
  · exact ite_next_numbered (next_numbered h) (next_numbered (pumpRecords_numbered (submit_numbered h _)))
  · exact next_numbered (ite_numbered (pumpRecords_numbered (submit_numbered h _)) h)

theorem execStashRecall_numbered (h : Numbered F s) (core entry line write) : NextNumbered F (execStashRecall core entry line write s) := by
  unfold execStashRecall
  refine next_numbered ?_
  split
  · exact recallStashAt_numbered h _ _ _
  · exact h

theorem execHolderInvalidation_numbered (h : Numbered F s) (line holder) : NextNumbered F (execHolderInvalidation line holder s) := by
  unfold execHolderInvalidation
  split
  · exact next_numbered (by exact h)
  · exact next_numbered (recallStashAt_numbered h _ _ _)

theorem holderGone_numbered (h : Numbered F s) (e holder stays) : Numbered F (holderGone s e holder stays) :=
  ite_numbered (setDir_numbered h _) (setDir_numbered h _)

theorem writeBack_numbered (h : Numbered F s) (line d) : Numbered F (writeBack s line d) := by
  have home (m) : Numbered F { s with home := m } := h
  unfold writeBack
  exact tagLine_numbered (home _) _ _ _ _

theorem execInvalidationAcknowledgement_numbered (h : Numbered F s) (line holder data) : NextNumbered F (execInvalidationAcknowledgement line holder data s) := by
  unfold execInvalidationAcknowledgement
  split
  · exact next_numbered h
  · refine ite_next_numbered (next_numbered h) ?_
    refine next_numbered ?_
    refine pumpRecords_numbered ?_
    refine serveHeld_numbered ?_
    refine holderGone_numbered ?_ _ _ _
    split
    · exact writeBack_numbered h _ _
    · exact h

theorem execPromotionRetire_numbered (h : Numbered F s) (core epoch) : NextNumbered F (execPromotionRetire core epoch s) := by
  rintro _ ⟨⟩
  refine foldl_numbered (fun s e h => ?_) _ ?_
  · exact h
  · exact h

theorem promotionsDone_numbered (h : Numbered F s) (core slot) : Numbered F (promotionsDone s core slot) := by
  unfold promotionsDone
  split
  · split
    · exact settlePromotions_numbered (by exact with_numbered (focus_numbered h _ _) rfl) _
    · exact h
  · exact h

theorem setPlaced_numbered (h : Numbered F s) (block p) : Numbered F (setPlaced s block p) := h

theorem execMigrationSwitch_numbered (h : Numbered F s) (block) : NextNumbered F (execMigrationSwitch block s) := by
  unfold execMigrationSwitch
  split
  · exact next_numbered (pumpRecords_numbered (serveHeld_numbered (setPlaced_numbered h _ _)))
  · exact next_numbered h

theorem execMigrationReturnStart_numbered (h : Numbered F s) (block) : NextNumbered F (execMigrationReturnStart block s) := by
  unfold execMigrationReturnStart
  split
  · exact next_numbered (setPlaced_numbered h _ _)
  · exact next_numbered h

theorem execMigrationReturnComplete_numbered (h : Numbered F s) (block) : NextNumbered F (execMigrationReturnComplete block s) := by
  unfold execMigrationReturnComplete
  split
  · exact next_numbered (pumpRecords_numbered (serveHeld_numbered (setPlaced_numbered h _ _)))
  · exact next_numbered h

theorem dropRemote_numbered (h : Numbered F s) : Numbered F (dropRemote s) := by
  unfold dropRemote
  extract_lets core
  exact with_numbered (mapCores_numbered (f := core) h fun _ => rfl) rfl

theorem execFabricLeaseRenewal_numbered (h : Numbered F s) (node) : NextNumbered F (execFabricLeaseRenewal node s) := by
  have renew (s : State) (h : Numbered F s) (f) : Numbered F { s with fabric := f } := h
  exact ite_next_numbered (next_numbered (renew _ (ite_numbered (dropRemote_numbered h) h) _)) (next_numbered (setNode_numbered h _))

theorem execFanoutTimeout_numbered (h : Numbered F s) (line node) : NextNumbered F (execFanoutTimeout line node s) := by
  unfold execFanoutTimeout
  split
  · exact next_numbered h
  · exact ite_next_numbered (next_numbered h) (next_numbered h)

theorem execReroute_numbered (h : Numbered F s) (line node) : NextNumbered F (execReroute line node s) := by
  unfold execReroute
  split
  · exact next_numbered h
  · exact ite_next_numbered (next_numbered h) (next_numbered h)

theorem agentsLeave_numbered (h : Numbered F s) (gone e) : Numbered F (agentsLeave s gone e) := by
  unfold agentsLeave
  refine ite_numbered h ?_
  refine ite_numbered ?_ (setDir_numbered (ite_numbered (by exact with_numbered (ite_numbered (poisonAt_numbered h _) h) rfl) (ite_numbered (poisonAt_numbered h _) h)) _)
  refine foldl_numbered (fun _ _ h => ?_) _ (ite_numbered (by exact with_numbered (ite_numbered (poisonAt_numbered h _) h) rfl) (ite_numbered (poisonAt_numbered h _) h))
  split
  · exact holderGone_numbered h _ _ _
  · exact h

theorem nodeLeaves_numbered (h : Numbered F s) (node e) : Numbered F (nodeLeaves s node e) := agentsLeave_numbered h _ _

theorem dropRequests_numbered (h : Numbered F s) (node) : Numbered F (dropRequests s node) := h

theorem collectivesLose_numbered (h : Numbered F s) (node) : Numbered F (collectivesLose s node) :=
  wakeColl_numbered (wakeSlots_numbered (modMembers_numbered (by exact h) _) _) _

theorem execNodeDeclaredFailed_numbered (h : Numbered F s) (node) : NextNumbered F (execNodeDeclaredFailed node s) := by
  unfold execNodeDeclaredFailed
  grind only [NextNumbered, !collectivesLose_numbered, !dropRequests_numbered, !nodeLeaves_numbered, !pumpRecords_numbered, !serveHeld_numbered, !setNode_numbered, !foldl_numbered, !foldl_fst_numbered]

theorem replaceMe_numbered (h : Numbered F s) : Numbered F (replaceMe s) := h

theorem killOn_numbered (h : Numbered F s) (p) : Numbered F (killOn s p) := foldl_numbered (fun _ _ h => killBlock_numbered h _ _ _) _ h

theorem dropShootdowns_numbered (h : Numbered F s) (p) : Numbered F (dropShootdowns s p) := h

theorem dropClaims_numbered (h : Numbered F s) (p) : Numbered F (dropClaims s p) := by
  unfold dropClaims
  exact with_numbered h rfl

theorem quarantineCluster_numbered (h : Numbered F s) (cl) : Numbered F (quarantineCluster s cl) :=
  ite_numbered h (pumpRecords_numbered (dropShootdowns_numbered (killOn_numbered (dropClaims_numbered (replaceMe_numbered (by exact h)) _) _) _))

theorem loseCore_numbered (h : Numbered F s) (k) : Numbered F (loseCore s k) :=
  modCore_numbered (foldl_numbered (fun _ _ h => poisonAt_numbered h _) _ h) _ fun _ => by rfl

theorem loseProxies_numbered (h : Numbered F s) (gone) : Numbered F (loseProxies s gone) := foldl_numbered (fun _ _ h => dropProxy_numbered h _) _ h

theorem losePlaced_numbered (h : Numbered F s) (die gone) : Numbered F (losePlaced s die gone) :=
  foldl_numbered (fun _ _ h => setPlaced_numbered h _ _) _ (foldl_numbered (fun _ _ h => poisonAt_numbered h _) _ h)

theorem quarantineDie_numbered (h : Numbered F s) (n) : Numbered F (quarantineDie s n) := by
  refine ite_numbered h ?_
  extract_lets m s1 s2 mine s3 s4 g s5 die s6 m2 s7
  have h3 : Numbered F s3 := foldl_numbered (fun _ _ h => loseCore_numbered h _) _ (dropClaims_numbered (replaceMe_numbered (by exact h)) _)
  have h4 : Numbered F s4 := dropShootdowns_numbered (killOn_numbered h3 _) _
  have h5 : Numbered F s5 := h4
  have h6 : Numbered F s6 := loseProxies_numbered (losePlaced_numbered h5 _ _) _
  have h7 : Numbered F s7 := ite_numbered h6 h6
  exact pumpRecords_numbered (serveHeld_numbered (settleDraws_numbered (foldl_numbered (fun _ e h => agentsLeave_numbered h _ e) _ h7)))

theorem quarantineSlice_numbered (h : Numbered F s) (die slice) : Numbered F (quarantineSlice s die slice) :=
  ite_numbered h (ite_numbered (quarantineDie_numbered (loseProxies_numbered (losePlaced_numbered (replaceMe_numbered (by exact h)) _ _) _) _)
    (pumpRecords_numbered (serveHeld_numbered (loseProxies_numbered (losePlaced_numbered (replaceMe_numbered (by exact h)) _ _) _))))

theorem quarantinePort_numbered (h : Numbered F s) (port) : Numbered F (quarantinePort s port) := ite_numbered h (replaceMe_numbered h)

/-! ### The matrix engine -/

theorem setJob_numbered (h : Numbered F s) (c old new) : Numbered F (setJob s c old new) := modCore_numbered h _ fun _ => rfl

theorem wakeMatrix_numbered (h : Numbered F s) (c) : Numbered F (wakeMatrix s c) := mapWarps_numbered h _ fun w => by split <;> rfl

theorem dropJob_numbered (h : Numbered F s) (c j) : Numbered F (dropJob s c j) := wakeMatrix_numbered (modCore_numbered h c fun _ => by rfl) _

theorem failJob_numbered (h : Numbered F s) (c j t) : Numbered F (failJob s c j t) := by
  unfold failJob
  exact dropJob_numbered (ite_numbered (launchRecord_numbered h _ _) (modWarp_numbered (launchRecord_numbered h _ _) _ _ fun _ => by rfl)) _ _

theorem suspendJob_numbered (h : Numbered F s) (c old new t) : Numbered F (suspendJob s c old new t) :=
  pumpRecords_numbered (launchRecord_numbered (setJob_numbered h _ _ _) _ _)

theorem jobRead_numbered (h : Numbered F s) (c j va n) : Numbered F (jobRead s c j va n).1 := by
  unfold jobRead
  grind only [!engRead_numbered, !engWatch_numbered]

theorem stageRows_numbered (h : Numbered F s) (c x kk j r n) : Numbered F (stageRows s c x kk j r n).1 := by
  induction n generalizing s j r with
  | zero => exact h
  | succ n ih =>
    unfold stageRows
    split <;> have h1 := of_fst (jobRead_numbered h _ _ _ _) (by assumption)
    · split
      · split <;> have h2 := of_fst (jobRead_numbered h1 _ _ _ _) (by assumption)
        · exact ih h2 _ _
        · exact h2
        · exact h2
        · exact h2
      · exact ih h1 _ _
    · exact h1
    · exact h1
    · exact h1

theorem modStream_numbered (h : Numbered F s) (launch cohort sid f) : Numbered F (modStream s launch cohort sid f) := modLaunch_numbered h _ _

theorem consume_numbered (h : Numbered F s) (c j sid) : Numbered F (consume s c j sid) := by
  unfold consume
  split
  · exact modStream_numbered h _ _ _ _
  · exact h

theorem stageSide_numbered (h : Numbered F s) (c j x r kk from_ n) : Numbered F (stageSide s c j x r kk from_ n).1 := by
  unfold stageSide
  refine ite_fst_numbered h (ite_fst_numbered (stageRows_numbered h _ _ _ _ _ _) ?_)
  split
  · exact h
  · split
    · exact h
    · exact ite_fst_numbered (consume_numbered h _ _ _) h

theorem jobBytes_numbered (h : Numbered F s) (c j l) : Numbered F (jobBytes s c j l).1 := by
  induction l generalizing s j with
  | nil => exact h
  | cons a r ih =>
    unfold jobBytes
    split
    · have h1 := of_fst (jobRead_numbered h _ _ _ _) (by assumption)
      split
      · exact of_fst (ih h1 _) (by assumption)
      · exact ih h1 _
    · exact jobRead_numbered h _ _ _ _

theorem loadRows_numbered (h : Numbered F s) (c base pitch fmt n j) : Numbered F (loadRows s c base pitch fmt n j).1 := by
  induction n generalizing s j with
  | zero => exact h
  | succ n ih =>
    unfold loadRows
    split <;> have h1 := of_fst (jobBytes_numbered h _ _ _) (by assumption)
    · exact ih h1 _
    · exact h1
    · exact h1
    · exact h1

theorem jobWrite_numbered (h : Numbered F s) (c j got va d l) : Numbered F (jobWrite s c j got va d l).1 := by
  induction l generalizing s j with
  | nil => exact h
  | cons a r ih =>
    unfold jobWrite
    split <;> have h1 := of_fst (engWrite_numbered h _ _ _ _ _) (by assumption)
    · exact ih (engWatch_numbered h1 _ _ _ _ _ _) _
    · exact h1
    · exact h1
    · exact h1
    · exact h1

theorem storeRows_numbered (h : Numbered F s) (c acc base pitch fmt scale rnd sat n j) :
    Numbered F (storeRows s c acc base pitch fmt scale rnd sat n j).1 := by
  induction n generalizing s j with
  | zero => exact h
  | succ n ih =>
    have take (va len) : Numbered F (if inAperture base then (s, [], Eng.ok ())
        else takeLines s (jobCtx s c j) (jobIssuer s c j) [] (lineAddrs va len)).1 := ite_fst_numbered h (takeLines_numbered h _ _ _ _)
    unfold storeRows
    dsimp only
    split <;> have h1 := of_fst (take _ _) (by assumption)
    · split <;> have h2 := of_fst (jobWrite_numbered h1 _ _ _ _ _ _) (by assumption)
      · exact ih h2 _
      · exact h2
    · exact h1

theorem jobEnd_numbered (c old) {done} (hdone : ∀ s j, Numbered F s → SomeNumbered F (done s j)) {s}
    {r : State × Job × Eng Unit} (hr : Numbered F r.1) : SomeNumbered F (jobEnd s c old done r) := by
  unfold jobEnd
  intro u e
  split at e
  · exact hdone _ _ (setJob_numbered hr _ _ _) _ e
  · split at e
    · cases e
    · cases e; exact setJob_numbered hr _ _ _
  · cases e; exact suspendJob_numbered hr _ _ _ _
  · cases e; exact failJob_numbered (setJob_numbered hr _ _ _) _ _ _

theorem putAcc_numbered (h : Numbered F s) (c j a x) : Numbered F (putAcc s c j a x) := by
  have drop : Numbered F (s.modCore c fun k => { k with dropret := k.dropret + 1 }) := modCore_numbered h c fun _ => rfl
  unfold putAcc
  split
  · next w hw => exact ite_numbered (setWarp_numbered h _ (show F c (place w) from warpAt_allowed h hw)) drop
  · exact drop

theorem cardStep_numbered (h : Numbered F s) (c j w acc) : SomeNumbered F (cardStep s c j w acc) := by
  unfold cardStep
  grind only [SomeNumbered, !consume_numbered, !dropJob_numbered, !jobEnd_numbered, !putAcc_numbered, !setJob_numbered, !stageSide_numbered]

theorem storeStep_numbered (h : Numbered F s) (c j acc base pitch fmt scale rnd sat) : SomeNumbered F (storeStep s c j acc base pitch fmt scale rnd sat) := by
  unfold storeStep
  grind only [SomeNumbered, !dropJob_numbered, !jobEnd_numbered, !modCore_numbered, !serveHeld_numbered, !storeRows_numbered]

theorem jobStep_numbered (h : Numbered F s) (c entry) : SomeNumbered F (jobStep s c entry) := by
  unfold jobStep
  split
  · exact none_numbered
  refine ite_some_numbered none_numbered ?_
  dsimp only
  split
  · exact cardStep_numbered h _ _ _ _
  · exact ite_some_numbered none_numbered (some_numbered (dropJob_numbered (foldl_numbered (fun _ _ h => putAcc_numbered h _ _ _ _) _ h) _ _))
  · exact ite_some_numbered none_numbered (jobEnd_numbered _ _ (fun s j h => some_numbered (dropJob_numbered (putAcc_numbered h _ _ _ _) _ _))
      (loadRows_numbered h _ _ _ _ _ _))
  · refine ite_some_numbered none_numbered ?_
    split
    · exact storeStep_numbered h _ _ _ _ _ _ _ _ _
    · exact storeStep_numbered h _ _ _ _ _ _ _ _ _
    · exact some_numbered (dropJob_numbered h _ _)

theorem streamFetch_numbered (h : Numbered F s) (c entry) : SomeNumbered F (streamFetch s c entry) := by
  unfold streamFetch
  split
  · exact none_numbered
  split
  · refine ite_some_numbered none_numbered ?_
    split
    · exact none_numbered
    · exact ite_some_numbered none_numbered
        (jobEnd_numbered _ _ (fun s j h => some_numbered (modStream_numbered h _ _ _ _)) (stageRows_numbered h _ _ _ _ _ _))
  · exact none_numbered

theorem issueJob_numbered (h : Numbered F s) (kind accs idx d) : Numbered F (issueJob s kind accs idx d).1 :=
  ite_fst_numbered h (touched_numbered (core_numbered h (by rfl)) _ _)

theorem readCard_numbered (h : Numbered F s) (va) : Numbered F (readCard s va).1 := by
  unfold readCard
  split
  · exact h
  · split
    · exact of_fst (resolve_numbered h _ _ _ _ _ _ _ _) (by assumption)
    · have h1 := of_fst (resolve_numbered h _ _ _ _ _ _ _ _) (by assumption)
      refine ite_fst_numbered h1 ?_
      split
      · exact h1
      · grind only [!loadAcc_numbered]

theorem execMjob_numbered (h : Numbered F s) (gr a) : NextNumbered F (execMjob gr a s) := by
  unfold execMjob
  refine perform_numbered _ (fun _ h => ?_) h
  split
  · exact h
  · exact h
  · refine warpLevel_numbered _ _ (fun _ _ h => ?_) h
    split
    · exact of_fst (readCard_numbered h _) (by assumption)
    · exact of_fst (readCard_numbered h _) (by assumption)
    · split
      · exact of_fst (readCard_numbered h _) (by assumption)
      · exact ite_fst_numbered (of_fst (readCard_numbered h _) (by assumption)) (issueJob_numbered (of_fst (readCard_numbered h _) (by assumption)) _ _ _ _)

theorem matWait_numbered (h : Numbered F s) (gr m all) : Numbered F (matWait gr m all s).1 := by
  unfold matWait
  refine ite_fst_numbered (endGroup_numbered h _) (ite_fst_numbered h ?_)
  refine ite_fst_numbered h ?_
  split
  · exact h
  · exact endGroup_numbered h _

theorem issueLoad_numbered (h : Numbered F s) (a src) : Numbered F (issueLoad s a src).1 := by
  unfold issueLoad
  refine ite_fst_numbered h ?_
  split
  · exact h
  · exact issueJob_numbered h _ _ _ _

theorem issueStore_numbered (h : Numbered F s) (a gr scale dst) : Numbered F (issueStore s a gr scale dst).1 := by
  unfold issueStore
  dsimp only
  refine ite_fst_numbered h ?_
  split
  · exact h
  · split
    · exact h
    · exact issueJob_numbered h _ _ _ _

theorem execMstreamSub_numbered (h : Numbered F s) (gr a) : NextNumbered F (execMstreamSub gr a s) := by
  unfold execMstreamSub
  refine perform_numbered _ (fun _ h => warpLevel_numbered _ _ (fun _ _ h => ?_) h) h
  refine ite_fst_numbered h (ite_fst_numbered h ?_)
  split
  · exact ite_fst_numbered h (modStream_numbered h _ _ _ _)
  · exact ite_fst_numbered h (modLaunch_numbered h _ _)

/-! ### Rays and tree queries -/

theorem setRay_numbered (h : Numbered F s) (l r) : Numbered F (setRay s l r) := h

theorem landFree_numbered (h : Numbered F s) (reg n l) : Numbered F (landFree s reg n l) := landWords_numbered (by exact h) _ _ _

theorem rayResult_numbered (h : Numbered F s) (l dst status x) : Numbered F (rayResult s l dst status x) := by
  unfold rayResult
  split
  · exact landWords_numbered h _ _ _
  · exact landFree_numbered (landWords_numbered h _ _ _) _ _ _

theorem rayEnd_numbered (h : Numbered F s) (l r) : Numbered F (rayEnd s l r) := by
  unfold rayEnd
  split
  · exact landWords_numbered (setRay_numbered h _ _) _ _ _
  · exact rayResult_numbered (setRay_numbered h _ _) _ _ _ _

theorem rayMalformed_numbered (h : Numbered F s) (l r) : Numbered F (rayMalformed s l r) := by
  unfold rayMalformed
  split
  · exact landWords_numbered (setRay_numbered h _ _) _ _ _
  · exact rayResult_numbered (setRay_numbered h _ _) _ _ _ _

theorem rayFail_numbered (h : Numbered F s) (l r t) : Numbered F (rayFail s l r t) := by
  unfold rayFail
  split
  · exact landFree_numbered (pumpRecords_numbered (launchRecord_numbered (setRay_numbered h _ _) _ _)) _ _ _
  · exact rayResult_numbered (pumpRecords_numbered (launchRecord_numbered (setRay_numbered h _ _) _ _)) _ _ _ _

theorem rayMeets_numbered (h : Numbered F s) (l r t) : Numbered F (rayMeets s l r t) :=
  ite_numbered (pumpRecords_numbered (launchRecord_numbered (setRay_numbered h _ _) _ _)) (rayFail_numbered h _ _ _)

theorem rayLoad_numbered (l) {r : State × Except Trap Machine.Acc} (h : Numbered F r.1) : Numbered F (rayLoad l r).1 := by
  unfold rayLoad
  split
  · exact h
  · split
    · exact of_fst (loadAcc_numbered h _ _ _ _) (by assumption)
    · exact of_fst (loadAcc_numbered h _ _ _ _) (by assumption)
    · exact ite_fst_numbered (of_fst (loadAcc_numbered h _ _ _ _) (by assumption))
        (touchAll_numbered (giveTokens_numbered (of_fst (loadAcc_numbered h _ _ _ _) (by assumption)) _ _ _) _)

theorem rayRead_numbered (h : Numbered F s) (l va) : Numbered F (rayRead s l va).1 := rayLoad_numbered _ (resolve_numbered h _ _ _ _ _ _ _ _)

theorem entryAcc_numbered (h : Numbered F s) (l p k) : Numbered F (entryAcc s l p k).1 := privAcc_numbered h _ _ _ _ _ _ _ _

theorem spill_numbered (h : Numbered F s) (l vs e) : Numbered F (spill l vs e s).1 := by
  induction vs generalizing s e with
  | nil => exact h
  | cons v r ih =>
    unfold spill
    split
    · exact h
    · split <;> have h1 := of_fst (entryAcc_numbered h _ _ _) (by assumption)
      · exact h1
      · split <;> have h2 := of_fst (markDirty_numbered h1 _ _) (by assumption)
        · exact h2
        · split <;> have h3 := of_fst (storeAcc_numbered h2 _ _ _ _) (by assumption)
          · exact ih (touchAll_numbered h3 _) _
          · exact h3
          · exact h3

theorem pushVisit_numbered (h : Numbered F s) (l r v) : Numbered F (pushVisit s l r v).1 := by
  unfold pushVisit
  refine ite_fst_numbered h ?_
  split <;> exact of_fst (spill_numbered h _ _ _) (by assumption)

theorem pushVisits_numbered (h : Numbered F s) (l r vs) : Numbered F (pushVisits s l r vs).1 := by
  unfold pushVisits
  dsimp only
  refine foldl_fst_numbered (fun _ _ h => ?_) _ h
  split
  · exact pushVisit_numbered h _ _ _
  · exact h

theorem refill_numbered (h : Numbered F s) (l n r) : Numbered F (refill l n s r).1 := by
  induction n generalizing s r with
  | zero => exact h
  | succ n ih =>
    unfold refill
    split
    · exact h
    · split <;> have h1 := of_fst (rayLoad_numbered l (entryAcc_numbered h _ _ _)) (by assumption)
      · exact ite_fst_numbered h1 (ih h1 _)
      · exact h1
      · exact h1
      · exact h1

theorem visitNode_numbered (h : Numbered F s) (l r v b) : Numbered F (visitNode s l r v b).1 := ite_fst_numbered h (pushVisits_numbered h _ _ _)

theorem visitLeaf_numbered (h : Numbered F s) (r v b) : Numbered F (visitLeaf s r v b).1 := by
  unfold visitLeaf
  dsimp only
  split
  · refine ite_fst_numbered h ?_
    split <;> exact h
  · refine ite_fst_numbered h ?_
    split <;> exact h

theorem rayTake_numbered (h : Numbered F s) (l r va) {k} (hk : ∀ s b, Numbered F s → Numbered F (k s b).1) : Numbered F (rayTake s l r va k) := by
  unfold rayTake
  split <;> have h1 := of_fst (rayRead_numbered h _ _) (by assumption)
  · exact h1
  · exact rayMeets_numbered h1 _ _ _
  · exact rayMalformed_numbered h1 _ _
  · split <;> have h2 := of_fst (hk _ _ h1) (by assumption)
    · exact setRay_numbered h2 _ _
    · exact rayMalformed_numbered h2 _ _
    · exact rayMeets_numbered h2 _ _ _
    · exact h2

theorem rayInstance_numbered (h : Numbered F s) (l r inst) : Numbered F (rayInstance s l r inst) :=
  rayTake_numbered h _ _ _ fun _ _ h => ite_fst_numbered h h

theorem rayHit_numbered (h : Numbered F s) (l r x opaq) : Numbered F (rayHit s l r x opaq) :=
  ite_numbered (setRay_numbered h _ _) (ite_numbered (rayResult_numbered (setRay_numbered h _ _) _ _ _ _) (ite_numbered (rayEnd_numbered h _ _) (setRay_numbered h _ _)))

theorem rayStep_numbered (h : Numbered F s) (l r) : Numbered F (rayStep s l r) := by
  unfold rayStep
  split
  · exact rayHit_numbered h _ _ _ _
  · exact ite_numbered (ite_numbered (rayInstance_numbered h _ _ _) (rayTake_numbered h _ _ _ fun _ _ h => visitLeaf_numbered h _ _ _))
      (ite_numbered (rayMalformed_numbered h _ _) (rayTake_numbered h _ _ _ (fun _ _ h => ite_fst_numbered h (pushVisit_numbered h _ _ _))))
  · exact ite_numbered (rayInstance_numbered h _ _ _) (rayTake_numbered h _ _ _ fun _ _ h => visitNode_numbered h _ _ _ _)
  · refine ite_numbered (rayEnd_numbered h _ _) ?_
    split
    · exact setRay_numbered (of_fst (refill_numbered h _ _ _) (by assumption)) _ _
    · exact rayMalformed_numbered (of_fst (refill_numbered h _ _ _) (by assumption)) _ _
    · exact rayMeets_numbered (of_fst (refill_numbered h _ _ _) (by assumption)) _ _ _
    · exact of_fst (refill_numbered h _ _ _) (by assumption)

theorem execRayTraversalStep_numbered (h : Numbered F s) (core slot lane) : NextNumbered F (execRayTraversalStep core slot lane s) := by
  unfold execRayTraversalStep
  split
  · exact next_numbered h
  · split
    · exact ite_next_numbered (next_numbered (rayStep_numbered (focus_numbered h _ _) _ _)) (next_numbered h)
    · exact next_numbered h

theorem execRtrace_numbered (h : Numbered F s) (gr d a lka b) : NextNumbered F (execRtrace gr d a lka b s) := by
  unfold execRtrace
  refine perform_numbered _ (fun _ h => ?_) h
  split
  · exact h
  · exact ending_numbered _ (runReps_numbered _ (fun _ _ h => ite_fst_numbered h
      (ite_fst_numbered h (foldl_numbered (fun _ _ h => ite_numbered (rayResult_numbered (setRay_numbered h _ _) _ _ _ _) (setRay_numbered h _ _)) _ (lastUse_numbered h _ _ _)))) h)

theorem execRquery_numbered (h : Numbered F s) (gr d a lka b) : NextNumbered F (execRquery gr d a lka b s) := by
  unfold execRquery
  dsimp only
  refine perform_numbered _ (fun _ h => ?_) h
  split
  · exact h
  · exact ending_numbered _ (runReps_numbered _ (fun _ _ h => ite_fst_numbered h (ite_fst_numbered h (foldl_numbered (fun _ _ h => setRay_numbered h _ _) _ (lastUse_numbered h _ _ _)))) h)

theorem rayContinue_numbered (h : Numbered F s) (l r o) : Numbered F (rayContinue s l r o) := by
  unfold rayContinue
  split
  · exact setRay_numbered h _ _
  · exact ite_numbered (rayEnd_numbered h _ _) (setRay_numbered h _ _)
  · exact rayEnd_numbered h _ _
  · exact rayEnd_numbered h _ _

theorem execRtcont_numbered (h : Numbered F s) (gr d o) : NextNumbered F (execRtcont gr d o s) := by
  unfold execRtcont
  refine perform_numbered _ (fun _ h => ?_) h
  split
  · exact h
  · refine ending_numbered _ (runReps_numbered _ (fun _ _ h => ?_) h)
    refine ite_fst_numbered h ?_
    refine foldl_numbered (fun _ _ h => ?_) _ h
    split
    · exact rayContinue_numbered h _ _ _
    · exact rayResult_numbered h _ _ _ _

theorem hsortFollow_numbered (h : Numbered F s) (ws order) : Numbered F (hsortFollow s ws order) := by
  unfold hsortFollow
  grind only [numbered_iff, place]

theorem hsortRun_numbered (h : Numbered Anywhere s) : Numbered Anywhere (hsortRun s) := by
  have set (s : State) (h : Numbered Anywhere s) (c w) : Numbered Anywhere (s.setWarp c w) := setWarp_numbered h c trivial
  exact foldl_numbered (fun _ _ h => emit_numbered (set _ (set _ h _ _) _ _) _ _ _ _) _ (hsortFollow_numbered h _ _)

theorem execHsort_numbered (h : Numbered Anywhere s) (gr d a lka) : NextNumbered Anywhere (execHsort gr d a lka s) := by
  unfold execHsort
  refine perform_numbered _ (fun _ h => ?_) h
  split
  · exact h
  · exact h
  · exact ite_fst_numbered h (ite_numbered (hsortRun_numbered h) h)

/-! ### Active warps and the results that land -/

theorem execActiveSetEntry_numbered (h : Numbered F s) (core laneSet) : NextNumbered F (execActiveSetEntry core laneSet s) := by
  unfold execActiveSetEntry
  refine ite_next_numbered (next_numbered h) ?_
  split
  · exact next_numbered h
  · exact next_numbered (modWarp_numbered (modCore_numbered h _ fun _ => by rfl) _ _ fun w => by split <;> rfl)

theorem goPending_numbered (h : Numbered F s) (core slot) : Numbered F (goPending s core slot) :=
  leaveActive_numbered (modWarp_numbered h _ _ fun _ => by rfl) _ _

theorem setWarp_anywhere (h : Numbered Anywhere s) (c w) : Numbered Anywhere (s.setWarp c w) := setWarp_numbered h c trivial

theorem refillWarp_numbered (h : Numbered Anywhere s) (c slot) : Numbered Anywhere (refillWarp s c slot) := by
  unfold refillWarp
  split
  · exact h
  · split
    · exact keepRecalls_getD_numbered h _
    · have h1 := of_fst (imageRead_numbered h _) (by assumption)
      split
      · exact setWarp_anywhere h1 _ _
      · exact takeTrap_numbered (focus_numbered (setWarp_anywhere h1 _ _) _ _) _

theorem execWarpExit_numbered (h : Numbered F s) (core slot) : NextNumbered F (execWarpExit core slot s) := by
  unfold execWarpExit
  refine next_numbered ?_
  split
  · exact pumpRecords_numbered (warpEnd_numbered h _ _)
  · exact h

theorem landReturn_numbered (h : Numbered Anywhere s) (c w r) : Numbered Anywhere (landReturn s c w r) :=
  ite_numbered (setWarp_anywhere h _ _) (ite_numbered (foldl_numbered (fun _ _ h => physPost_numbered h _ _) _ h) (setWarp_anywhere h _ _))

theorem execResultReturn_numbered (h : Numbered Anywhere s) (core slot) : NextNumbered Anywhere (execResultReturn core slot s) := by
  unfold execResultReturn
  split
  · exact next_numbered h
  · split
    · exact ite_next_numbered (next_numbered (landReturn_numbered (modCore_numbered h _ fun _ => by rfl) _ _ _)) (next_numbered (modCore_numbered h _ fun _ => by rfl))
    · exact next_numbered (modCore_numbered h _ fun _ => by rfl)

theorem testResp_numbered (h : Numbered F s) (pa) : Numbered F (testResp s pa).1 := by
  unfold testResp
  split
  · exact physWaits_numbered h _ _ _ _ (by assumption)
  · split <;> exact of_fst (physNat_numbered h _ _) (by assumption)

theorem pollStatus_numbered (h : Numbered F s) (st) : ∀ {t r}, pollStatus s st = some (t, r) → Numbered F t := by
  unfold pollStatus
  intro t r e
  split at e
  · split at e <;> cases e <;> exact of_fst (testResp_numbered h _) (by assumption)
  · cases e

theorem pollWarp_numbered (h : Numbered F s) (core slot) : Numbered F (pollWarp s core slot) := by
  unfold pollWarp
  split
  · exact h
  · split
    · refine ite_numbered h ?_
      split
      · exact modWarp_numbered (of_fst (testResp_numbered h _) (by assumption)) _ _ (fun _ => rfl)
      · exact ite_numbered (acquire_numbered (by exact with_numbered (focus_numbered (of_fst (testResp_numbered h _) (by assumption)) _ _) rfl) _ _)
          (takeUnserviced_numbered (acquire_numbered (by exact with_numbered (focus_numbered (of_fst (testResp_numbered h _) (by assumption)) _ _) rfl) _ _) _)
    · exact h

theorem pollRay_numbered (h : Numbered F s) (core slot lane) : Numbered F (pollRay s core slot lane) := by
  unfold pollRay
  dsimp only
  split
  · exact h
  · split
    · split
      · exact setRay_numbered (of_fst (testResp_numbered (focus_numbered h _ _) _) (by assumption)) _ _
      · exact setRay_numbered (of_fst (testResp_numbered (focus_numbered h _ _) _) (by assumption)) _ _
      · exact rayFail_numbered (of_fst (testResp_numbered (focus_numbered h _ _) _) (by assumption)) _ _ _
    · exact h

theorem pollCopy_numbered (h : Numbered F s) (core c) : Numbered F (pollCopy s core c) := by
  unfold pollCopy
  split
  · exact h
  · split
    · exact setCopy_numbered (pollStatus_numbered h _ (by assumption)) _ _ _
    · exact failCopy_numbered (pollStatus_numbered h _ (by assumption)) _ _ _
    · exact h

theorem pollJob_numbered (h : Numbered F s) (core e) : Numbered F (pollJob s core e) := by
  unfold pollJob
  split
  · exact h
  · split
    · exact setJob_numbered (pollStatus_numbered h _ (by assumption)) _ _ _
    · exact failJob_numbered (pollStatus_numbered h _ (by assumption)) _ _ _
    · exact h

theorem pollTile_numbered (h : Numbered F s) (q tx ty) : Numbered F (pollTile s q tx ty) := by
  unfold pollTile
  split
  · exact h
  · split
    · exact modPass_numbered (pollStatus_numbered h _ (by assumption)) _ _
    · exact modPass_numbered (pollStatus_numbered h _ (by assumption)) _ _
    · exact modPass_numbered (pollStatus_numbered h _ (by assumption)) _ _
    · exact h

theorem pollRoot_numbered (h : Numbered F s) (cid) : Numbered F (pollRoot s cid) := by
  unfold pollRoot
  split
  · exact h
  · split
    · exact setRoot_numbered (pollStatus_numbered h _ (by assumption)) _
    · exact launchRecord_numbered (setRoot_numbered (pollStatus_numbered h _ (by assumption)) _) _ _
    · exact h

theorem pollMember_numbered (h : Numbered F s) (slot) : Numbered F (pollMember s slot) := by
  have more (s : State) (h : Numbered F s) (l : List Instr) : Numbered F { s with inputs := l } := h
  unfold pollMember
  split
  · exact h
  · split
    · exact more _ (setMember_numbered (pollStatus_numbered h _ (by assumption)) _) _
    · exact setMember_numbered (pollStatus_numbered h _ (by assumption)) _
    · exact launchRecord_numbered (setMember_numbered (pollStatus_numbered h _ (by assumption)) _) _ _
    · exact h

theorem execFaultRespPoll_numbered (h : Numbered F s) (core unit) : NextNumbered F (execFaultRespPoll core unit s) := by
  unfold execFaultRespPoll
  refine next_numbered ?_
  refine pumpRecords_numbered ?_
  split
  · exact pollWarp_numbered h _ _
  · exact pollCopy_numbered h _ _
  · exact pollJob_numbered h _ _
  · exact pollRay_numbered h _ _ _
  · exact pollTile_numbered h _ _ _
  · exact pollRoot_numbered h _
  · exact pollMember_numbered h _

/-! ### Patches and the boot -/

theorem execPatchActivation_numbered (h : Numbered F s) : NextNumbered F (execPatchActivation s) := by
  unfold execPatchActivation
  split
  · exact next_numbered h
  · exact ite_next_numbered (next_numbered h) (next_numbered h)

/-- In a state that a reset leaves, no core stands but the issuing one, without warps. -/
theorem empty_numbered (hc : s.cur.present = false) (hk : s.core.warps = []) (hks : s.cores = []) : Numbered F s := by
  refine numbered_iff.2 ?_
  rw [hc, hk, hks]
  exact ⟨List.nodup_singleton _, fits_nil, by simp⟩

theorem held_numbered (s : State) (f b) : Numbered F (held s f b) := empty_numbered rfl rfl rfl

theorem runFirmware_numbered (h : Numbered F s) : Numbered F (runFirmware s) := h

theorem execReset_numbered (s : State) : NextNumbered F (execReset s) := by
  have replace (s : State) (h : Numbered F s) (m) : Numbered F { s with mgmt := m } := h
  unfold execReset
  dsimp only
  exact ite_next_numbered (next_numbered (replace _ (held_numbered s _ _) _))
    (ite_next_numbered (next_numbered (held_numbered s _ _)) (next_numbered (runFirmware_numbered (held_numbered s _ _))))

theorem recoveryFails_numbered (h : Numbered F s) : Numbered F (recoveryFails s) := by
  unfold recoveryFails
  split <;> exact h

theorem execRecoveryReadComplete_numbered (h : Numbered F s) (fw) : NextNumbered F (execRecoveryReadComplete fw s) := by
  unfold execRecoveryReadComplete
  split
  · exact ite_next_numbered (next_numbered (runFirmware_numbered h)) (next_numbered (recoveryFails_numbered h))
  · exact next_numbered h

/-! ### What the trace writes leaves the issuing warp alone -/

theorem performReq_unmoved (s : State) (x : HeldReq) : Unmoved s (performReq s x).1 := by
  unfold performReq
  dsimp only
  split
  · split
    · exact .refl s
    · split
      · exact unmoved_of_eq rfl
      · exact .refl s
  · have h1 := recallLine_unmoved (.refl s) (x.req.pa / 64) (opWrites x.req.op)
    split
    · exact h1.trans (unmoved_of_eq rfl)
    · exact h1.trans (unmoved_of_eq rfl)
    · dsimp only
      exact h1.trans (tagLine_unmoved _ _ _ _ _)
    · split <;> have h2 := (h1.trans (mergeGran_unmoved _ _ _ _)).of_fst (by assumption)
      · exact h2.trans (tagLine_unmoved _ _ _ _ _)
      · exact h2
    · split <;> have h2 := (readGran_unmoved h1 _ _ _).of_fst (by assumption)
      · exact h2
      · split
        · exact (h2.trans (homePut_unmoved _ _ _)).trans (tagLine_unmoved _ _ _ _ _)
        · exact h2

theorem attempt_unmoved (s : State) (x : HeldReq) (ahead) : Unmoved s (attempt s x ahead).1 := by
  have room : Unmoved s (if opTracks x.req.op && x.node.isNone then dirRoom s (x.req.pa / 64) else (s, true)).1 :=
    Accesses.ite_fst (dirRoom_unmoved (.refl s) _) (.refl s)
  unfold attempt
  refine Accesses.ite_fst (startRecall_unmoved s _ _) (Accesses.ite_fst (.refl s) ?_)
  split <;> have h1 := room.of_fst (by assumption)
  · exact h1
  · split <;> exact (h1.trans (performReq_unmoved _ _)).of_fst (by assumption)

theorem submit_physReq_unmoved (s : State) (pa key : Nat) (op) : Unmoved s (submit s (physReq s pa key op)) := by
  have h := attempt_unmoved s (physReq s pa key op) s.home.held
  unfold submit request
  split <;> have h1 := h.of_fst (by assumption)
  · exact h1.trans (unmoved_of_eq rfl)
  · exact h1.trans (ite_rel (.refl _) (unmoved_of_eq rfl))
  · exact h1.trans (ite_rel (.refl _) (unmoved_of_eq rfl))

theorem physPost_unmoved (s : State) (pa : Nat) (d : List Byte) : Unmoved s (physPost s pa d) :=
  foldl_unmoved (fun s _ => submit_physReq_unmoved s _ _ _) _ s

theorem traceBytes_cur (s : State) (core : Nat) (d : List Byte) : (traceBytes s core d).cur = s.cur := by
  unfold traceBytes
  exact (State.modCore_cur _ _ _).trans ((physPost_unmoved s _ _).trans (physPost_unmoved _ _ _)).cur

theorem emitCur_cur (s : State) (ty : Nat) (payload : List Byte) : (emitCur s ty payload).cur = s.cur := by
  unfold emitCur emit
  split
  · rfl
  · dsimp only
    rw [traceBytes_cur, apply_ite State.cur, traceBytes_cur, ite_self]

/-- The trace is written, and the issuing warp changes where it stands. -/
theorem emitCur_stands (h : Numbered F s) {w : Warp} (hw : StandsAt s.cur w) (ty payload) : Numbered F { emitCur s ty payload with cur := w } :=
  cur_stands (emitCur_numbered h ty payload) (by rwa [emitCur_cur])

/-! ### Operations of the issuing warp -/

/-- What is performed leaves the warp where it stands. -/
def Ends (w : Warp) (r : Except Trap Warp) : Prop := ∀ x, r = .ok x → StandsAt w x

theorem ends_ok {w x : Warp} (h : StandsAt w x) : Ends w (.ok x) := by
  rintro _ ⟨⟩
  exact h

theorem ends_bind {w : Warp} {m : Except Trap Unit} {k : Unit → Except Trap Warp} (h : Ends w (k ())) : Ends w (m >>= k) := by
  cases m with
  | error t => rintro _ ⟨⟩
  | ok _ => exact h

theorem ends_ite {w : Warp} {p : Prop} [Decidable p] {a b : Except Trap Warp} (ha : Ends w a) (hb : Ends w b) : Ends w (if p then a else b) := by
  split
  · exact ha
  · exact hb

theorem performReps_stands {g : Grp} {one : Nat → Warp → Warp} (h : ∀ i x, StandsAt x (one i x)) (w : Warp) : StandsAt w (performReps g one w) :=
  List.foldlRecOn (motive := StandsAt w) _ _ rfl fun x hx i _ => hx.trans (h i x)

theorem ends_retire {w x : Warp} (g : Grp) (h : StandsAt w x) : Ends w (.ok (retire g w x)) := ends_ok (h.trans (goto_stands _ _ _))

theorem ends_reps {w : Warp} {g : Grp} {one : Nat → Warp → Warp} (h : ∀ i x, StandsAt x (one i x)) : Ends w (.ok (retire g w (performReps g one w))) :=
  ends_retire g (performReps_stands h w)

theorem runV3_stands (g d a lka b lkb bu third f) : Stands (runV3 g d a lka b lkb bu third f) := fun _ => by
  refine ends_ite (ends_bind ?_) ?_
  all_goals exact ends_bind (ends_reps fun _ _ => (((lastUse_stands _ _ _ _).trans (ite_stands rfl (lastUse_stands _ _ _ _))).trans
    (ite_stands (lastUse_stands _ _ _ _) rfl)).trans (setVec_stands _ _ _ _))

theorem runV2_stands (g d a lka f) : Stands (runV2 g d a lka f) := fun _ =>
  ends_bind (ends_reps fun _ _ => (lastUse_stands _ _ _ _).trans (setVec_stands _ _ _ _))

theorem runV1_stands (g d f) : Stands (runV1 g d f) := fun _ => ends_bind (ends_reps fun _ _ => setVec_stands _ _ _ _)

theorem runP_stands (g p a lka b lkb bu f) : Stands (runP g p a lka b lkb bu f) := fun _ =>
  ends_bind (ends_reps fun _ _ => ((lastUse_stands _ _ _ _).trans (ite_stands rfl (lastUse_stands _ _ _ _))).trans (setP_stands _ _ _ _))

theorem runU_stands (g chk) {one} (h : ∀ i x, StandsAt x (one i x)) : Stands (runU g chk one) := fun w =>
  ends_bind (ends_retire g (ite_stands rfl (performReps_stands h w)))

theorem runU3_stands (g d a b f) : Stands (runU3 g d a b f) := runU_stands _ _ fun _ _ => setS_stands _ _ _

theorem runU2_stands (g d a f) : Stands (runU2 g d a f) := runU_stands _ _ fun _ _ => setS_stands _ _ _

theorem runPmov_stands (g d a n m p f) : Stands (runPmov g d a n m p f) := fun _ => ends_bind (ends_reps fun _ _ => setP_stands _ _ _ _)

theorem opSel_stands (g d a lka b lkb bu) : Stands (opSel g d a lka b lkb bu) := fun _ =>
  ends_bind (ends_bind (ends_reps fun _ _ => ((lastUse_stands _ _ _ _).trans (ite_stands rfl (lastUse_stands _ _ _ _))).trans (setVec_stands _ _ _ _)))

theorem opShfl_stands (g d a lka m r i) : Stands (opShfl g d a lka m r i) := fun _ => by
  refine ends_ite (ends_bind ?_) ?_
  all_goals exact ends_bind (ends_reps fun _ _ => ((lastUse_stands _ _ _ _).trans (ite_stands (lastUse_stands _ _ _ _) rfl)).trans (setVec_stands _ _ _ _))

theorem opVote_stands (g d a lka m n p) : Stands (opVote g d a lka m n p) := fun _ => by
  refine ends_bind (ends_ite (ends_bind ?_) ?_)
  all_goals
    refine ends_reps fun _ _ => ?_
    dsimp only
    split
    · exact setP_stands _ _ _ _
    · exact setP_stands _ _ _ _
    · exact (lastUse_stands _ _ _ _).trans (setP_stands _ _ _ _)
    · exact setVec_stands _ _ _ _

theorem opMatchV_stands (g d a lka m) : Stands (opMatchV g d a lka m) := fun _ =>
  ends_bind (ends_reps fun _ _ => (lastUse_stands _ _ _ _).trans (setVec_stands _ _ _ _))

theorem opRedux_stands (g d a lka o) : Stands (opRedux g d a lka o) := fun _ =>
  ends_bind (ends_reps fun _ _ => (lastUse_stands _ _ _ _).trans (setVec_stands _ _ _ _))

theorem opPscan_stands (g d a lka o e) : Stands (opPscan g d a lka o e) := fun _ =>
  ends_bind (ends_reps fun _ _ => (lastUse_stands _ _ _ _).trans (setVec_stands _ _ _ _))

theorem opPart_stands (g c) : Stands (opPart g c) := fun _ => ends_retire g (ite_stands rfl rfl)

theorem opV2s_stands (g d a lka sx p first lane) : Stands (opV2s g d a lka sx p first lane) := fun _ =>
  ends_bind (ends_retire g (ite_stands rfl (performReps_stands (fun _ _ => (lastUse_stands _ _ _ _).trans (setS_stands _ _ _)) _)))

theorem opS2v_stands (g d a p) : Stands (opS2v g d a p) := fun _ =>
  ends_bind (ends_reps fun _ _ => (setVec_stands _ _ _ _).trans (ite_stands (setVec_stands _ _ _ _) rfl))

theorem opPmovP2v_stands (g d a) : Stands (opPmovP2v g d a) := fun _ => ends_bind (ends_reps fun _ _ => setVec_stands _ _ _ _)

theorem opPmovV2p_stands (g d a lka) : Stands (opPmovV2p g d a lka) := fun _ =>
  ends_bind (ends_reps fun _ _ => (lastUse_stands _ _ _ _).trans (setP_stands _ _ _ _))

theorem opPmovP2s_stands (g d a) : Stands (opPmovP2s g d a) := fun _ =>
  ends_bind (ends_retire g (ite_stands rfl (performReps_stands (fun _ _ => setS_stands _ _ _) _)))

theorem opPmovS2p_stands (g d a) : Stands (opPmovS2p g d a) := fun _ => ends_bind (ends_reps fun _ _ => setP_stands _ _ _ _)

theorem execSfu_numbered (h : Numbered F s) (gr d a lka x) : NextNumbered F (execSfu gr d a lka x s) := by
  unfold execSfu
  refine perform_numbered _ (fun s h => ?_) h
  split
  · exact h
  · exact ending_numbered _ (runReps_numbered _ (fun _ _ h => landVec_numbered (lastUse_numbered h _ _ _) _ _ _) h)

theorem execSget_numbered (h : Numbered F s) (gr d e) : NextNumbered F (execSget gr d e s) := by
  unfold execSget
  dsimp only
  refine perform_numbered _ (fun _ h => ?_) h
  split
  · exact h
  · exact ending_numbered _ (runReps_numbered _ (fun _ _ h => cur_stands h (ite_stands ((setVec_stands _ _ _ _).trans (setVec_stands _ _ _ _)) (setVec_stands _ _ _ _))) h)

theorem branchTo_numbered (h : Numbered F s) (g o taken) : Numbered F (branchTo g o taken s).1 :=
  emitCur_stands h ((goto_stands _ _ _).trans (goto_stands _ _ _)) _ _

theorem branchMicro_numbered (h : Numbered F s) (g m o taken) : Numbered F (branchMicro g m o taken s).1 :=
  ite_fst_numbered h (ite_fst_numbered (cur_stands h (by rfl)) (endGroup_numbered h _))

theorem execBra_numbered (h : Numbered F s) (gr p n o) : NextNumbered F (execBra gr p n o s) := by
  unfold execBra
  refine perform_numbered _ (fun _ h => ?_) h
  split
  · exact ite_fst_numbered h (branchMicro_numbered h _ _ _ _)
  · exact branchTo_numbered h _ _ _

theorem execBrp_numbered (h : Numbered F s) (gr p n o) : NextNumbered F (execBrp gr p n o s) := by
  unfold execBrp
  refine perform_numbered _ (fun _ h => ?_) h
  split
  · exact branchMicro_numbered h _ _ _ _
  · exact branchTo_numbered h _ _ _

theorem execBrs_numbered (h : Numbered F s) (gr p n o) : NextNumbered F (execBrs gr p n o s) := by
  unfold execBrs
  refine perform_numbered _ (fun _ h => ?_) h
  split
  · exact branchMicro_numbered h _ _ _ _
  · exact branchTo_numbered h _ _ _

theorem writeLink_stands (w : Warp) (m : Mask) (link : Dword) : StandsAt w (writeLink w m link) := (setVec_stands _ _ _ _).trans (setVec_stands _ _ _ _)

theorem execCall_numbered (h : Numbered F s) (gr p n o) : NextNumbered F (execCall gr p n o s) := by
  unfold execCall
  exact perform_numbered _ (fun _ h => ite_fst_numbered h (cur_stands (branchTo_numbered h _ _ _) (writeLink_stands _ _ _))) h

theorem withLpc_stands {w x : Warp} (h : StandsAt w x) (v) : StandsAt w { x with lpc := v } := h.trans (by unfold StandsAt place; rfl)

theorem jumpTo_numbered (h : Numbered F s) (g a lka kind link) : Numbered F (jumpTo g a lka kind link s).1 := by
  unfold jumpTo
  dsimp only
  split
  · exact h
  · refine runReps_numbered _ (fun k s h => ?_) h
    split
    · exact h
    · have hw : StandsAt s.cur (if link = true then writeLink (s.cur.lastUse s.cur.executing lka [repA g a.toNat k, repA g a.toNat k + 1]) (s.cur.active g) (nextPc s.cur g)
          else s.cur.lastUse s.cur.executing lka [repA g a.toNat k, repA g a.toNat k + 1]) :=
        ite_stands ((lastUse_stands _ _ _ _).trans (writeLink_stands _ _ _)) (lastUse_stands _ _ _ _)
      exact ite_fst_numbered (cur_stands h hw) (emitCur_stands h (withLpc_stands hw _) _ _)

theorem execExitL_numbered (h : Numbered F s) (gr) : NextNumbered F (execExitL gr s) := by
  unfold execExitL
  refine perform_numbered _ (fun s h => ?_) h
  have leave (s : State) (h : Numbered F s) (m v) : Numbered F { s with cur := { s.cur with live := m, threads := v } } :=
    cur_stands h (by unfold StandsAt place; rfl)
  dsimp only
  exact afterExit_numbered (leave _ (endGroup_numbered (emitCur_numbered h _ _) _) _ _) _ _

theorem execYield_numbered (h : Numbered F s) (gr) : NextNumbered F (execYield gr s) := by
  unfold execYield
  exact perform_numbered _ (fun _ h => ite_numbered (cur_stands (endGroup_numbered h _) (by rfl)) (endGroup_numbered h _)) h

theorem execNop_numbered (h : Numbered F s) (gr) : NextNumbered F (execNop gr s) := perform_numbered _ (fun _ h => endGroup_numbered h _) h

theorem execMcall_numbered (h : Numbered F s) (gr ptwo pone pzero slot) : NextNumbered F (execMcall gr ptwo pone pzero slot s) :=
  perform_numbered _ (fun _ h => ite_fst_numbered (endGroup_numbered h _) (ite_fst_numbered h (ite_fst_numbered h (cur_stands h (by rfl))))) h

theorem commitMicro_numbered (h : Numbered F s) (m) : Numbered F (commitMicro s m) := by
  unfold commitMicro
  refine ite_numbered (cur_stands h (by rfl)) (cur_stands h ?_)
  exact (goto_stands { s.cur with micro := none, resume := none } _ _).trans (ite_stands rfl rfl)

theorem execMret_numbered (h : Numbered F s) (gr) : NextNumbered F (execMret gr s) := by
  unfold execMret
  refine perform_numbered _ (fun _ h => ?_) h
  split
  · exact ite_fst_numbered (endGroup_numbered h _) h
  · exact ite_fst_numbered (endGroup_numbered h _) (commitMicro_numbered h _)

theorem execLichenEmulation_numbered (h : Numbered F s) (g word cslot psel) : NextNumbered F (execLichenEmulation g word cslot psel s) := by
  unfold execLichenEmulation
  refine ite_next_numbered (next_numbered h) ?_
  extract_lets w s1
  have h1 : Numbered F s1 := cur_stands h rfl
  split
  · exact next_numbered (pumpRecords_numbered (takeTrap_numbered h1 _))
  · exact ite_next_numbered (next_numbered (cur_stands (endGroup_numbered h1 _) (by rfl))) (next_numbered (emitCur_stands h1 (by rfl) _ _))

/-! ### System instructions -/

theorem execTrapI_numbered (h : Numbered F s) (gr c) : NextNumbered F (execTrapI gr c s) := perform_numbered _ (fun _ h => ite_fst_numbered (endGroup_numbered h _) h) h

theorem execBkpt_numbered (h : Numbered F s) (gr c) : NextNumbered F (execBkpt gr c s) := perform_numbered _ (fun _ h => ite_fst_numbered (endGroup_numbered h _) h) h

theorem execRti_numbered (h : Numbered F s) (gr) : NextNumbered F (execRti gr s) := by
  unfold execRti
  exact perform_numbered _ (fun _ h => ite_fst_numbered (endGroup_numbered h _) (ite_fst_numbered h (cur_stands (emitCur_numbered h _ _) (by rfl)))) h

theorem execTmask_numbered (h : Numbered F s) (gr m) : NextNumbered F (execTmask gr m s) := by
  unfold execTmask
  refine perform_numbered _ (fun _ h => ite_fst_numbered (endGroup_numbered h _) (ite_fst_numbered h ?_)) h
  dsimp only
  exact endGroup_numbered (cur_stands h (by rfl)) _

theorem execSysrd_numbered (h : Numbered F s) (gr d i) : NextNumbered F (execSysrd gr d i s) := by
  unfold execSysrd
  refine perform_numbered _ (fun _ h => warpLevel_numbered _ _ (fun _ _ h => ?_) h) h
  split
  · exact h
  · exact landS_numbered h _ _

theorem sysWrite_numbered (h : Numbered F s) (n x) : ∀ u, sysWrite s n x = .ok u → Numbered F u := by
  unfold sysWrite
  grind only [numbered_iff, place]

theorem execSyswr_numbered (h : Numbered F s) (gr a i) : NextNumbered F (execSyswr gr a i s) := by
  unfold execSyswr
  grind only [NextNumbered, !perform_numbered, !sysWrite_numbered, !warpLevel_numbered]

theorem shootdownCore_numbered (h : Numbered F s) (core x) : Numbered F (shootdownCore s core x) := by
  unfold shootdownCore
  extract_lets k lines s1 s2 upd s3 release
  have h1 : Numbered F s1 := by
    refine foldl_numbered (fun s x h => ?_) _ h
    split
    exact ite_numbered (stashWriteBack_numbered h _ _ _) h
  have h2 : Numbered F s2 := modCore_numbered h1 _ fun _ => rfl
  have h3 : Numbered F s3 := foldl_numbered (fun _ _ h => mergeUpd_numbered h _ _) _ h2
  exact serveHeld_numbered (modCore_numbered h3 _ fun _ => by rfl)

theorem shootdownComplete_numbered (h : Numbered F s) (core) : Numbered F (shootdownComplete s core) := by
  unfold shootdownComplete
  extract_lets due s1 s2
  have h1 : Numbered F s1 := foldl_numbered (fun _ _ h => shootdownCore_numbered h _ _) _ h
  have h2 : Numbered F s2 := h1
  exact foldl_numbered (fun _ _ h => ite_numbered (modWarp_numbered h _ _ fun w => by split <;> rfl) h) _ h2

theorem tlbinv_numbered (h : Numbered F s) (gr d regs range) : Numbered F (tlbinv gr d regs range s).1 := by
  have answer (s : State) (h : Numbered F s) (n x l) : Numbered F { s with shootdowns := l, cur := s.cur.setS n x } := setS_numbered h n x
  unfold tlbinv
  exact warpLevel_numbered _ _ (fun _ _ h => ite_fst_numbered h (ite_fst_numbered (answer _ h _ _ _) (ite_fst_numbered h h))) h

/-! ### What the management core reads -/

theorem stateWord_numbered (h : Numbered F s) (area unit off) : Numbered F (stateWord s area unit off).1 := by
  unfold stateWord
  split <;> exact h

theorem stateWords_numbered (h : Numbered F s) (area unit off n) : Numbered F (stateWords s area unit off n).1 := by
  induction n generalizing s off with
  | zero => exact h
  | succ n ih => exact ih (stateWord_numbered h _ _ _) _

/-! ### Inbound windows, registers and the mailbox -/

theorem mailboxCommand_numbered (h : Numbered F s) (cmd) : Numbered F (mailboxCommand s cmd) := by
  unfold mailboxCommand
  split <;> exact h

theorem commandEnds_numbered (h : Numbered F s) (status) : Numbered F (commandEnds s status) := h

theorem writeMailbox_numbered (h : Numbered F s) (o x) : Numbered F (writeMailbox s o x) :=
  ite_numbered (ite_numbered h (mailboxCommand_numbered h _)) (ite_numbered h (ite_numbered (with_numbered h rfl) h))

theorem writeControl_numbered (h : Numbered F s) (q x) : Numbered F (writeControl s q x) :=
  ite_numbered (clearQueue_numbered (ite_numbered (killQueue_numbered (ite_numbered (resumeQueue_numbered (ite_numbered (preemptQueue_numbered h _) h) _)
    (ite_numbered (preemptQueue_numbered h _) h)) _) (ite_numbered (resumeQueue_numbered (ite_numbered (preemptQueue_numbered h _) h) _) (ite_numbered (preemptQueue_numbered h _) h))) _)
      (ite_numbered (killQueue_numbered (ite_numbered (resumeQueue_numbered (ite_numbered (preemptQueue_numbered h _) h) _) (ite_numbered (preemptQueue_numbered h _) h)) _)
        (ite_numbered (resumeQueue_numbered (ite_numbered (preemptQueue_numbered h _) h) _) (ite_numbered (preemptQueue_numbered h _) h)))

theorem regWrite_numbered (h : Numbered F s) (pa x) : Numbered F (regWrite s pa x) := by
  unfold regWrite
  refine ite_numbered h ?_
  refine ite_numbered ?_ (ite_numbered (ite_numbered (openPass_numbered h _ _) h) (ite_numbered (writeMailbox_numbered h _ _) h))
  split
  · exact writeTail_numbered h _ _
  · exact writeControl_numbered h _ _
  · exact waitTest_numbered h _
  · exact h

theorem nak_numbered (h : Numbered F s) (a) : Numbered F (nak s a) := h

theorem answerHost_numbered (h : Numbered F s) (a) : Numbered F (answerHost s a) := h

theorem rdmaPerform_numbered (h : Numbered F s) (conn pa key r) : Numbered F (rdmaPerform s conn pa key r).1 := by
  unfold rdmaPerform
  dsimp only
  split
  · split <;> exact of_fst (physRead_numbered h _ _ _) (by assumption)
  · refine foldl_fst_numbered (fun _ _ h => ?_) _ h
    split <;> exact of_fst (performReq_numbered h _) (by assumption)
  · split
    · exact h
    · split <;> exact of_fst (performReq_numbered h _) (by assumption)

theorem holdRdma_numbered (h : Numbered F s) (i e) : Numbered F (holdRdma s i e) := h

theorem dropRdma_numbered (h : Numbered F s) (i) : Numbered F (dropRdma s i) := h

theorem rdma_numbered (h : Numbered F s) (i conn rkey va r) : Numbered F (rdma i conn rkey va r s) := by
  unfold rdma
  grind only [numbered_iff, place, !answerHost_numbered, !dropRdma_numbered, !holdRdma_numbered, !nak_numbered, !rdmaPerform_numbered, !regWrite_numbered, !serveHeld_numbered, !startRecall_numbered, !foldl_numbered, !foldl_fst_numbered]

theorem dropKeyAt_numbered (h : Numbered F s) (key core) : Numbered F (dropKeyAt s key core) :=
  modCore_numbered (foldl_numbered (fun _ _ h => mergeUpd_numbered h _ _) _ (foldl_numbered (fun _ _ h => stashWriteBack_numbered h _ _ _) _ h)) _ fun _ => rfl

theorem publishKey_numbered (h : Numbered F s) (key l) : Numbered F (publishKey s key l) := publishLines_numbered h _ _ _

theorem writeBackKey_numbered (h : Numbered F s) (key d) : Numbered F (writeBackKey s key d) := writeBackLines_numbered h _ _

theorem dropKey_numbered (h : Numbered F s) (key) : Numbered F (dropKey s key) :=
  foldl_numbered (fun _ _ h => writeBackKey_numbered h _ _) _ (foldl_numbered (fun _ _ h => publishKey_numbered h _ _) _
    (foldl_numbered (fun _ _ h => dropKeyAt_numbered h _ _) _ h))

theorem dropKeyEntries_numbered (h : Numbered F s) (key) : Numbered F (dropKeyEntries s key) := by
  unfold dropKeyEntries
  extract_lets drop
  exact with_numbered (mapCores_numbered (f := drop) h fun _ => rfl) rfl

theorem execKeyunload_numbered (h : Numbered F s) (id) : NextNumbered F (execKeyunload id s) :=
  next_numbered (pumpRecords_numbered (ite_numbered (commandEnds_numbered h _) (ite_numbered h
    (ite_numbered (with_numbered (dropKey_numbered h _) rfl) (commandEnds_numbered (by exact with_numbered (dropKeyEntries_numbered (dropKey_numbered h _) _) rfl) _)))))

theorem whenServed_numbered (h : Numbered F s) (i pa n write) {go} (hgo : ∀ s, Numbered F s → Numbered F (go s)) :
    Numbered F (whenServed s i pa n write go) := by
  unfold whenServed
  split
  · have h1 := physWaits_numbered h _ _ _ _ (by assumption)
    exact h1
  · exact hgo s h

theorem execPatch_numbered (h : Numbered F s) (pa) : NextNumbered F (execPatch pa s) := by
  unfold execPatch
  refine ite_next_numbered (next_numbered (commandEnds_numbered h _)) ?_
  refine next_numbered ?_
  refine whenServed_numbered h _ _ _ _ fun _ h => ?_
  split
  · exact commandEnds_numbered (of_fst (physRead_numbered h _ _ _) (by assumption)) _
  · split
    · exact commandEnds_numbered (of_fst (physRead_numbered h _ _ _) (by assumption)) _
    · exact commandEnds_numbered (by exact (of_fst (physRead_numbered h _ _ _) (by assumption) :)) _

theorem execAttest_numbered (h : Numbered F s) (nonce buf) : NextNumbered F (execAttest nonce buf s) := by
  unfold execAttest
  refine ite_next_numbered (next_numbered (commandEnds_numbered h _)) ?_
  refine next_numbered ?_
  refine whenServed_numbered h _ _ _ _ fun _ h => ?_
  split
  · exact commandEnds_numbered (of_fst (physRead_numbered h _ _ _) (by assumption)) _
  · exact ite_numbered (commandEnds_numbered (of_fst (physRead_numbered h _ _ _) (by assumption)) _)
      (whenServed_numbered (of_fst (physRead_numbered h _ _ _) (by assumption)) _ _ _ _ (fun _ h => commandEnds_numbered (physWrite_numbered h _ _ _) _))

theorem execScanout_numbered (h : Numbered F s) (head desc) : NextNumbered F (execScanout head desc s) := by
  unfold execScanout
  refine ite_next_numbered (next_numbered (commandEnds_numbered h _)) ?_
  refine next_numbered ?_
  refine whenServed_numbered h _ _ _ _ fun _ h => ?_
  split
  · exact commandEnds_numbered (of_fst (physRead_numbered h _ _ _) (by assumption)) _
  · exact ite_numbered (commandEnds_numbered (of_fst (physRead_numbered h _ _ _) (by assumption)) _)
      (commandEnds_numbered (by exact (of_fst (physRead_numbered h _ _ _) (by assumption) :)) _)

theorem execStateread_numbered (h : Numbered F s) (addr buf len) : NextNumbered F (execStateread addr buf len s) :=
  ite_next_numbered (next_numbered (commandEnds_numbered h _)) (next_numbered (whenServed_numbered h _ _ _ _
    (fun _ h => commandEnds_numbered (physWrite_numbered (stateWords_numbered h _ _ _ _) _ _ _) _)))

theorem moveWarps_numbered (h : Numbered F s) {c : Nat} (hF : ∀ p, F c p) (bslot) {ws : List Warp} (hroom : HasRoom s c ws.length) :
    Numbered F (moveWarps s c bslot ws) := by
  induction ws generalizing s with
  | nil => exact h
  | cons w r ih =>
    rw [HasRoom, List.length_cons] at hroom
    have hfree : lowestFree 64 ((s.warpsOf c).map fun w => w.slot) ∉ (s.warpsOf c).map fun w => w.slot :=
      lowestFree_free (by rw [List.length_map]; omega)
    unfold moveWarps
    extract_lets slot x
    exact ih (addWarp_numbered h (hF _) hfree) (hasRoom_addWarp (w := x) h hroom fun h hx => addWarp_numbered h hx hfree)

/-- What leaves a core its places leaves its blocks no more warps. -/
theorem blockWarps_length_le {t : State} {c : Nat} (ht : Numbered (Among c ((s.warpsOf c).map place)) t) (b : Nat) :
    (t.blockWarps c b).length ≤ (s.blockWarps c b).length := by
  have h := filter_length_le ht fun n => decide (n = b)
  rwa [List.filter_map, List.length_map] at h

theorem execRelocation_numbered (h : Numbered Anywhere s) (launch block core) : NextNumbered Anywhere (execRelocation launch block core s) := by
  unfold execRelocation
  extract_lets id at_
  split
  · next c b l _ _ =>
    split
    · exact next_numbered h
    · next hguard =>
      simp only [Bool.or_eq_true, decide_eq_true_eq, not_or, not_lt] at hguard
      obtain ⟨-, hroom⟩ := hguard
      split
      · next t e => exact next_numbered (of_error (loadMicro_numbered h _ _) e)
      · next t e =>
        have ht {F} (h : Numbered F s) : Numbered F t := of_ok (loadMicro_numbered h _ _) e
        extract_lets ws s1 s2 s3 bslot s4
        have h4 {F} (h : Numbered F s) : Numbered F s4 := by
          have h1 : Numbered F s1 := foldl_numbered (fun _ _ h => ite_numbered h (imageOut_numbered h _ _)) _ (ht h)
          have h2 : Numbered F s2 := foldl_numbered (fun _ _ h => leaveActive_numbered (removeWarp_numbered (saveGens_numbered h _ _) _ _) _ _) _ h1
          exact setBlock_numbered (modCore_numbered h2 _ fun _ => by rfl) _ _
        have hws : ws.length ≤ (s.blockWarps c b.bslot).length := blockWarps_length_le (ht (numbered_among h c)) _
        have h5 : HasRoom s core ws.length := (Nat.add_le_add_left hws _).trans hroom
        exact next_numbered (moveWarps_numbered (h4 h) (fun _ => trivial) _ (hasRoom_of_numbered h5 (h4 (numbered_among h core))))
  · exact next_numbered h

theorem countError_numbered (h : Numbered F s) (unit uncorrectable) : Numbered F (countError s unit uncorrectable) :=
  ite_numbered (ite_numbered (by exact with_numbered h rfl) (by exact with_numbered h rfl))
    (ite_numbered (quarantineCluster_numbered (ite_numbered (by exact with_numbered h rfl) (by exact with_numbered h rfl)) _)
      (quarantineSlice_numbered (ite_numbered (by exact with_numbered h rfl) (by exact with_numbered h rfl)) _ _))

theorem softTrap_numbered (h : Numbered F s) (c slot sub) : Numbered F (softTrap s c slot sub) := by
  unfold softTrap
  split
  · exact takeTrap_numbered (focus_numbered h _ _) _
  · exact h

theorem uncorrectable_numbered (h : Numbered F s) (x) : Numbered F (uncorrectable s x) := by
  unfold uncorrectable
  split
  · exact softTrap_numbered h _ _ _
  · exact softTrap_numbered h _ _ _
  · split
    · exact failCopy_numbered h _ _ _
    · exact h
  · split
    · exact failJob_numbered h _ _ _
    · exact h
  · split
    · exact rayFail_numbered (focus_numbered h _ _) _ _ _
    · exact h
  · exact h
  · exact modCore_numbered h _ fun _ => rfl
  · exact softTrap_numbered (poisonAt_numbered h _) _ _ _
  · refine softTrap_numbered ?_ _ _ _
    split
    · exact ite_numbered (setDir_numbered (sendOut_numbered (setDir_numbered (recallLine_numbered (poisonAt_numbered h _) _ _) _) _) _)
        (sendOut_numbered (setDir_numbered (recallLine_numbered (poisonAt_numbered h _) _ _) _) _)
    · exact sendOut_numbered (setDir_numbered (recallLine_numbered (poisonAt_numbered h _) _ _) _) _

theorem modTempo_numbered (h : Numbered F s) (cl f) : Numbered F (modTempo s cl f) := h

theorem countReports_numbered (h : Numbered F s) : Numbered F (countReports s) := foldl_numbered (fun _ _ h => by exact h) _ h

/-! ### Core images -/

theorem blockNotes_numbered (h : Numbered F s) (c b) : Numbered F (blockNotes s c b).1 := h

theorem coreImage_numbered (h : Numbered F s) (ls cause) : Numbered F (coreImage s ls cause).1 := by
  unfold coreImage
  grind only [!blockNotes_numbered, !foldl_numbered, !foldl_fst_numbered]

theorem writeDump_numbered (h : Numbered F s) (image) : Numbered F (writeDump s image) := by
  unfold writeDump
  split
  · exact h
  · exact ite_numbered h h

theorem killProcess_numbered (h : Numbered F s) (l) : Numbered F (killProcess s l) := setQueue_numbered (killLaunch_numbered h _ _) _

theorem execCoreDump_numbered (h : Numbered F s) (launch) : NextNumbered F (execCoreDump launch s) := by
  unfold execCoreDump
  split
  · exact next_numbered h
  · refine ite_next_numbered (next_numbered h) ?_
    extract_lets m s1 ls s2
    have h1 : Numbered F s1 := h
    have h2 : Numbered F s2 := setPreempted_numbered h1 _ _
    refine ite_next_numbered (next_numbered h1) ?_
    split
    have h3 := of_fst (coreImage_numbered h2 _ _) (by assumption)
    exact next_numbered (pumpRecords_numbered (with_numbered (foldl_numbered (fun _ _ h => killProcess_numbered h _) ls (writeDump_numbered h3 _)) rfl))

/-! ### How a group is formed -/

theorem keepWord_numbered (h : Numbered F s) (va w) : Numbered F (keepWord s va w) := ite_numbered h h

theorem fetchWord_numbered (h : Numbered F s) (va) : Numbered F (fetchWord s va).1 := by
  unfold fetchWord
  refine ite_fst_numbered h ?_
  split
  · exact h
  · split
    · exact of_fst (translate_numbered h _ _ _ _) (by assumption)
    · split
      · exact keepWord_numbered (of_fst (loadAcc_numbered (of_fst (translate_numbered h _ _ _ _) (by assumption)) _ _ _ _) (by assumption)) _ _
      · exact of_fst (loadAcc_numbered (of_fst (translate_numbered h _ _ _ _) (by assumption)) _ _ _ _) (by assumption)
      · exact of_fst (loadAcc_numbered (of_fst (translate_numbered h _ _ _ _) (by assumption)) _ _ _ _) (by assumption)

theorem emitPatches_numbered (h : Numbered F s) (f) : Numbered F (emitPatches s f) := foldl_numbered (fun _ _ h => emitCur_numbered h _ _) _ h

theorem fetchGroup_numbered (h : Numbered F s) (fuel f) : Numbered F (fetchGroup fuel f s).1 := by
  induction fuel generalizing s f with
  | zero => exact h
  | succ fuel ih =>
    unfold fetchGroup
    dsimp only
    split <;> have h1 := of_fst (fetchWord_numbered h _) (by assumption)
    · exact h1
    · exact h1
    · refine ite_fst_numbered h1 ?_
      split
      · exact emitPatches_numbered h1 _
      · exact emitPatches_numbered h1 _
      · split
        · exact ih h1 _
        · exact emitPatches_numbered h1 _

theorem traceMask_numbered (h : Numbered F s) : Numbered F (traceMask s) := ite_numbered h (with_numbered (ite_numbered h (emitCur_numbered h _ _)) rfl)

theorem trapForming_numbered (h : Numbered F s) (t) : Numbered F (trapForming s t) :=
  pumpRecords_numbered (takeTrap_numbered (ite_numbered h (by exact with_numbered h rfl)) _)

theorem nextGroup_numbered (h : Numbered F s) : Numbered F (nextGroup s).1 := by
  unfold nextGroup
  split
  · exact h
  · split
    · exact h
    · exact fetchGroup_numbered h _ _

/-! ### Events -/

theorem settleWaits_numbered (h : Numbered Anywhere s) : Numbered Anywhere (settleWaits s) :=
  foldl_numbered (fun _ _ h => refillWarp_numbered h _ _) _ (ite_numbered (pumpRecords_numbered
    (settleDraws_numbered (ite_numbered (ite_numbered (pumpRecords_numbered h) h) (settleSignals_numbered (ite_numbered (pumpRecords_numbered h) h)))))
      (ite_numbered (ite_numbered (pumpRecords_numbered h) h) (settleSignals_numbered (ite_numbered (pumpRecords_numbered h) h))))

theorem idle_place (w : Warp) (ready now) : place (w.idle ready now) = place w := by
  unfold Warp.idle
  split <;> rfl

theorem tick_numbered (h : Numbered Anywhere s) (who) : Numbered Anywhere (tick who s) := by
  have time (s : State) (h : Numbered Anywhere s) (n) : Numbered Anywhere { s with clock := n } := h
  have h1 := settleWaits_numbered h
  unfold tick
  dsimp only
  split
  · exact time _ h1 _
  · refine time _ (mapAllWarps_numbered h1 fun c w => ?_) _
    split
    · rfl
    · exact idle_place _ _ _

theorem retry_numbered (h : Numbered F s) : Numbered F (retry s) := h

theorem countTurn_numbered (h : Numbered F s) (s0 c slot) : Numbered F (countTurn s0 c slot s) := by
  unfold countTurn
  extract_lets lost
  exact with_numbered (mapWarps_numbered h c (f := fun w => { w with starved := if lost.contains (c, w.slot) then w.starved + 1 else 0 }) fun _ => rfl) rfl

theorem afterIssue_numbered (h : Numbered Anywhere s) (c slot) : Numbered Anywhere (afterIssue c slot s) := by
  unfold afterIssue
  split
  · exact ite_numbered (goPending_numbered (setWarp_anywhere h _ _) _ _) h
  · exact h

/-! ### The step -/

theorem exec_numbered (h : Numbered Anywhere s) (i) : NextNumbered Anywhere (exec i s) := by
  cases i
  case iadd | isub | imul | imulhiS | imulhiU | imad | iminS | iminU | imaxS | imaxU | andV | orV | xorV | shl | shr | sar | bfe | bfi | fadd | fsub |
      fmul | ffma | fmin | fmax | hadd2 | hmul2 | hfma2 | dot4 | fscale =>
    exact perform_numbered _ (fun _ h => runWarp_numbered h _ (runV3_stands _ _ _ _ _ _ _ _ _)) h
  case iabs | popc | clz | mov | iaddi | andi | ori | xori | andni | shli | shri | sari | roti | fclass | frnd | f2i | i2f | fcvt =>
    exact perform_numbered _ (fun _ h => runWarp_numbered h _ (runV2_stands _ _ _ _ _)) h
  case movi => exact perform_numbered _ (fun _ h => runWarp_numbered h _ (runV1_stands _ _ _)) h
  case icmp | fcmp => exact perform_numbered _ (fun _ h => runWarp_numbered h _ (runP_stands _ _ _ _ _ _ _ _)) h
  case sel => exact perform_numbered _ (fun _ h => runWarp_numbered h _ (opSel_stands _ _ _ _ _ _ _)) h
  case shfl => exact perform_numbered _ (fun _ h => runWarp_numbered h _ (opShfl_stands _ _ _ _ _ _ _)) h
  case vote => exact perform_numbered _ (fun _ h => runWarp_numbered h _ (opVote_stands _ _ _ _ _ _ _)) h
  case matchV => exact perform_numbered _ (fun _ h => runWarp_numbered h _ (opMatchV_stands _ _ _ _ _)) h
  case redux => exact perform_numbered _ (fun _ h => runWarp_numbered h _ (opRedux_stands _ _ _ _ _)) h
  case pscan => exact perform_numbered _ (fun _ h => runWarp_numbered h _ (opPscan_stands _ _ _ _ _ _)) h
  case part => exact perform_numbered _ (fun _ h => runWarp_numbered h _ (opPart_stands _ _)) h
  case v2s => exact perform_numbered _ (fun _ h => runWarp_numbered h _ (opV2s_stands _ _ _ _ _ _ _ _)) h
  case s2v => exact perform_numbered _ (fun _ h => runWarp_numbered h _ (opS2v_stands _ _ _ _)) h
  case pmovAnd | pmovOr | pmovXor => exact perform_numbered _ (fun _ h => runWarp_numbered h _ (runPmov_stands _ _ _ _ _ _ _)) h
  case pmovP2v => exact perform_numbered _ (fun _ h => runWarp_numbered h _ (opPmovP2v_stands _ _ _)) h
  case pmovV2p => exact perform_numbered _ (fun _ h => runWarp_numbered h _ (opPmovV2p_stands _ _ _ _)) h
  case pmovP2s => exact perform_numbered _ (fun _ h => runWarp_numbered h _ (opPmovP2s_stands _ _ _)) h
  case pmovS2p => exact perform_numbered _ (fun _ h => runWarp_numbered h _ (opPmovS2p_stands _ _ _)) h
  case sadd | ssub | smul | sand | sor | sxor | sandn | sshl | sshr | ssar | srot | scmp | sbfe | smin | smax =>
    exact perform_numbered _ (fun _ h => runWarp_numbered h _ (runU3_stands _ _ _ _ _)) h
  case smov | saddi | spopc | sclz | sctz | sbrev => exact perform_numbered _ (fun _ h => runWarp_numbered h _ (runU2_stands _ _ _ _)) h
  case smovTlo | smovThi => exact perform_numbered _ (fun _ h => runWarp_numbered h _ (runU_stands _ _ fun _ _ => setT_stands _ _ _)) h
  case smovSlo | smovShi | smovi => exact perform_numbered _ (fun _ h => runWarp_numbered h _ (runU_stands _ _ fun _ _ => setS_stands _ _ _)) h
  case sfu => exact execSfu_numbered h _ _ _ _ _
  case sget => exact execSget_numbered h _ _ _
  case bra => exact execBra_numbered h _ _ _ _
  case brp => exact execBrp_numbered h _ _ _ _
  case brs => exact execBrs_numbered h _ _ _ _
  case jmpi | calli | ret => exact perform_numbered _ (fun _ h => jumpTo_numbered h _ _ _ _ _) h
  case call => exact execCall_numbered h _ _ _ _
  case exitL => exact execExitL_numbered h _
  case yield => exact execYield_numbered h _
  case nop => exact execNop_numbered h _
  case mcall => exact execMcall_numbered h _ _ _ _ _
  case mret => exact execMret_numbered h _
  case ld => exact execLd_numbered h _ _ _ _ _ _ _
  case st => exact execSt_numbered h _ _ _ _ _ _
  case ldl => exact execLdl_numbered h _ _ _ _ _ _ _
  case stl => exact execStl_numbered h _ _ _ _ _ _ _
  case ldu => exact execLdu_numbered h _ _ _ _ _ _
  case stu => exact execStu_numbered h _ _ _ _ _
  case atom => exact execAtom_numbered h _ _ _ _ _ _
  case cas => exact execCas_numbered h _ _ _ _ _ _
  case red => exact execRed_numbered h _ _ _ _ _ _
  case redHome => exact execRedHome_numbered h _ _ _ _ _ _
  case atoml => exact execAtoml_numbered h _ _ _ _ _
  case redl => exact execRedl_numbered h _ _ _ _ _
  case fenceAcq => exact execFenceAcq_numbered h _
  case fenceRel => exact execFenceRel_numbered h _
  case fenceSc => exact execFenceSc_numbered h _
  case cfence => exact execCfence_numbered h _
  case publish => exact execPublish_numbered h _
  case prefetch => exact execPrefetch_numbered h _ _ _ _
  case lock => exact execLock_numbered h _ _ _ _
  case unlock => exact execUnlock_numbered h _ _ _ _
  case stashMap => exact execStashMap_numbered h _ _ _ _
  case stashUnmap => exact execStashUnmap_numbered h _ _
  case ldp => exact execLdp_numbered h _ _ _ _ _ _
  case stp => exact execStp_numbered h _ _ _ _ _ _
  case acopy => exact execAcopy_numbered h _ _ _ _
  case axform => exact execAxform_numbered h _ _ _ _
  case agather => exact execAgather_numbered h _ _ _ _
  case bclose => exact execBclose_numbered h _
  case waitb => exact execWaitb_numbered h _ _
  case hwaitFull => exact execHwaitFull_numbered h _ _
  case hwaitFree => exact execHwaitFree_numbered h _ _
  case hsetDrain => exact execHsetDrain_numbered h _ _
  case hsetFree => exact execHsetFree_numbered h _ _
  case wptr => exact execWptr_numbered h _ _ _
  case bar => exact execBar_numbered h _
  case cbar => exact execCbar_numbered h _
  case nbar => exact execNbar_numbered h _ _ _ _
  case signal => exact execSignal_numbered h _ _ _ _
  case softintQ => exact execSoftintQ_numbered h _ _ _
  case softintM => exact execSoftintM_numbered h _ _
  case waits => exact execWaits_numbered h _ _ _ _ _
  case mjob => exact execMjob_numbered h _ _
  case mwait | mwaitAll => exact perform_numbered _ (fun _ h => matWait_numbered h _ _ _) h
  case mzero => exact perform_numbered _ (fun _ h => warpLevel_numbered _ _ (fun _ _ h => ite_fst_numbered h (ite_fst_numbered h (issueJob_numbered h _ _ _ _))) h) h
  case mldaTile | mldaGlobal => exact perform_numbered _ (fun _ h => warpLevel_numbered _ _ (fun _ _ h => issueLoad_numbered h _ _) h) h
  case mstaTile | mstaGlobal => exact perform_numbered _ (fun _ h => warpLevel_numbered _ _ (fun _ _ h => issueStore_numbered h _ _ _ _) h) h
  case mstreamSub => exact execMstreamSub_numbered h _ _
  case mstreamUnsub =>
    exact perform_numbered _ (fun _ h => warpLevel_numbered _ _ (fun _ _ h => ite_fst_numbered h (ite_fst_numbered h (modLaunch_numbered (modStream_numbered h _ _ _ _) _ _))) h) h
  case visemit => exact execVisemit_numbered h _ _ _ _ _
  case ldcl => exact execLdcl_numbered h _ _ _ _ _ _
  case tex => exact execTex_numbered h _ _ _ _ _
  case texfb => exact execTexfb_numbered h _ _ _ _ _
  case rtrace => exact execRtrace_numbered h _ _ _ _ _
  case rquery => exact execRquery_numbered h _ _ _ _ _
  case rtcont => exact execRtcont_numbered h _ _ _
  case hsort => exact execHsort_numbered h _ _ _ _
  case rpix => exact execRpix_numbered h _ _ _ _ _ _ _
  case visrd => exact execVisrd_numbered h _ _ _
  case visrdPix => exact execVisrdPix_numbered h _ _ _ _ _
  case cpost | cred => exact perform_numbered _ (fun _ h => postBody_numbered h _ _ _ _) h
  case cwait => exact perform_numbered _ (fun _ h => warpLevel_numbered _ _ (fun _ _ h => waitOnce_numbered h _ _ _) h) h
  case cjoin => exact perform_numbered _ (fun _ h => warpLevel_numbered _ _ (fun _ _ h => joinOnce_numbered h _ _) h) h
  case cjoinLeave => exact perform_numbered _ (fun _ h => warpLevel_numbered _ _ (fun _ _ h => ite_fst_numbered h (ite_fst_numbered h (leaveSlot_numbered h _))) h) h
  case trapI => exact execTrapI_numbered h _ _
  case rti => exact execRti_numbered h _
  case bkpt => exact execBkpt_numbered h _ _
  case sysrd => exact execSysrd_numbered h _ _ _
  case syswr => exact execSyswr_numbered h _ _ _
  case tmask => exact execTmask_numbered h _ _
  case tlbinvPage | tlbinvRange | tlbinvSpace => exact perform_numbered _ (fun _ h => tlbinv_numbered h _ _ _ _) h
  case lichenEmulation => exact execLichenEmulation_numbered h _ _ _ _
  case resultReturn => exact execResultReturn_numbered h _ _
  case homeRequest => exact execHomeRequest_numbered h _
  case performedAtHome | l1LeaseExpiry => exact next_numbered (modCore_numbered h _ fun _ => rfl)
  case stashRecall => exact execStashRecall_numbered h _ _ _ _
  case updateLineRecall => exact next_numbered (pumpRecords_numbered (mergeUpd_numbered h _ _))
  case holderInvalidation => exact execHolderInvalidation_numbered h _ _
  case taggedWriteReturned => exact next_numbered (pumpRecords_numbered (serveHeld_numbered h))
  case promotionRetire => exact execPromotionRetire_numbered h _ _
  case promotionQuery | promotionAnswer =>
    exact next_numbered (promotionsDone_numbered (modWarp_numbered h _ _ fun _ => by unfold place; rfl) _ _)
  case migrationStart => exact next_numbered (ite_numbered h (setPlaced_numbered h _ _))
  case migrationSwitch => exact execMigrationSwitch_numbered h _
  case migrationReturnStart => exact execMigrationReturnStart_numbered h _
  case migrationReturnComplete => exact execMigrationReturnComplete_numbered h _
  case ownershipPoint => exact next_numbered (pumpRecords_numbered (serveHeld_numbered (getD_numbered h (ownStep_numbered h _ _))))
  case shootdownCoreComplete => exact next_numbered (pumpRecords_numbered (shootdownComplete_numbered h _))
  case copyAccepted => exact execCopyAccepted_numbered h _ _
  case copyDeliver => exact next_numbered (pumpRecords_numbered (getD_numbered h (deliverStep_numbered h _ _)))
  case activeSetEntry => exact execActiveSetEntry_numbered h _ _
  case activeBound => exact next_numbered (ite_numbered (goPending_numbered h _ _) h)
  case warpExit => exact execWarpExit_numbered h _ _
  case blockKill => exact execBlockKill_numbered h _ _
  case qtail => exact next_numbered (writeTail_numbered h _ _)
  case qwake | waitItemPoll => exact next_numbered (pumpRecords_numbered (waitTest_numbered h _))
  case preempt => exact next_numbered (preemptQueue_numbered h _)
  case resume => exact next_numbered (resumeQueue_numbered h _)
  case kill => exact next_numbered (pumpRecords_numbered (killQueue_numbered h _))
  case clear => exact next_numbered (clearQueue_numbered h _)
  case passopen => exact next_numbered (pumpRecords_numbered (openPass_numbered h _ _))
  case registerWrite => exact next_numbered (pumpRecords_numbered (regWrite_numbered h _ _))
  case launchStart => exact next_numbered (pumpRecords_numbered (getD_numbered h (launchStart_numbered h _)))
  case waitsPoll => exact next_numbered (modWarp_numbered h _ _ fun w => by split <;> rfl)
  case placementPass => exact next_numbered (pumpRecords_numbered (placementPass_numbered h))
  case launchComplete => exact execLaunchComplete_numbered h _
  case jobStep => exact next_numbered (pumpRecords_numbered (getD_numbered h (jobStep_numbered h _ _)))
  case streamBlockFetch => exact next_numbered (pumpRecords_numbered (getD_numbered h (streamFetch_numbered h _ _)))
  case rayTraversalStep => exact execRayTraversalStep_numbered h _ _ _
  case faultRespPoll => exact execFaultRespPoll_numbered h _ _
  case trapQueuePoll => exact next_numbered (pumpRecords_numbered h)
  case endOfDrawToken => exact execEndOfDrawToken_numbered h _ _
  case tokenArrival => exact ite_next_numbered (next_numbered (modDie_numbered (by exact h) _ _)) (next_numbered (pumpRecords_numbered (settleDraws_numbered (by exact h))))
  case frondPacketArrival => exact execFrondPacketArrival_numbered h _ _
  case flushAreaMove => exact ite_next_numbered (next_numbered h) (next_numbered h)
  case tileLaunch => exact next_numbered (pumpRecords_numbered (tileLaunch_numbered h _ _ _))
  case passComplete => exact execPassComplete_numbered h _
  case joinRequest => exact next_numbered (serveJoin_numbered h _ _ _ _)
  case joinReply => exact next_numbered (wakeColl_numbered (modMembers_numbered h _) _)
  case openFlit => exact next_numbered (openPoint_numbered (openMembers_numbered h _ _ _) _ _ _)
  case frameClose => exact next_numbered (closeFrame_numbered h _)
  case collectivePacket => exact next_numbered (packetArrives_numbered h _)
  case closeFlit => exact execCloseFlit_numbered h _ _
  case frameComplete => exact execFrameComplete_numbered h _ _ _
  case lateNotice => exact next_numbered (modMembers_numbered h _)
  case settledBlockDown => exact next_numbered (pumpRecords_numbered (serveHeld_numbered (settledDown_numbered h _ _ _ _)))
  case verticalBlank => exact next_numbered (modHead_numbered h _ _)
  case rdmaRead | rdmaWrite | rdmaFetchAdd | rdmaCmpSwap => exact next_numbered (pumpRecords_numbered (rdma_numbered h _ _ _ _ _))
  case fabricLeaseRenewal => exact execFabricLeaseRenewal_numbered h _
  case fabricLeaseExpiry => exact ite_next_numbered (next_numbered h) (next_numbered (with_numbered (dropRemote_numbered h) rfl))
  case fanoutTimeout => exact execFanoutTimeout_numbered h _ _
  case reroute => exact execReroute_numbered h _ _
  case nodeDeclaredFailed => exact execNodeDeclaredFailed_numbered h _
  case failureNotice => exact next_numbered h
  case dieLinkFailure => exact next_numbered (quarantineDie_numbered h _)
  case patchActivation => exact execPatchActivation_numbered h
  case relocation => exact execRelocation_numbered h _ _ _
  case coreDump => exact execCoreDump_numbered h _
  case reset => exact execReset_numbered s
  case recoveryRetry => exact next_numbered (recoveryFails_numbered h)
  case recoveryReadComplete => exact execRecoveryReadComplete_numbered h _
  case keyload => exact next_numbered (ite_numbered (commandEnds_numbered h _) (ite_numbered (commandEnds_numbered h _) (commandEnds_numbered (by exact h) _)))
  case keyunload => exact execKeyunload_numbered h _
  case patch => exact execPatch_numbered h _
  case withdraw => exact next_numbered (commandEnds_numbered (by exact h) _)
  case attest => exact execAttest_numbered h _ _
  case scanout => exact execScanout_numbered h _ _
  case dumpwin => exact next_numbered (ite_numbered (commandEnds_numbered h _) (commandEnds_numbered (by exact h) _))
  case stateread => exact execStateread_numbered h _ _ _
  case softError => exact next_numbered (pumpRecords_numbered (countError_numbered (ite_numbered (uncorrectable_numbered h _) h) _ _))
  case droop | thermalStepDown | thermalRecovery | droopRecovery => exact next_numbered (modTempo_numbered h _ _)
  case overtempStop => exact next_numbered (replaceMe_numbered h)
  case tempoBoundary => exact next_numbered (countReports_numbered (by exact with_numbered h rfl))
  case illegalInstruction => exact ite_next_numbered (next_numbered h) (next_numbered (pumpRecords_numbered (takeTrap_numbered h _)))
  case instructionFetchFault => exact ite_next_numbered (next_numbered h) (next_numbered (pumpRecords_numbered (takeTrap_numbered (ite_numbered h (by exact with_numbered h rfl)) _)))
  case invalidationAcknowledgement => exact execInvalidationAcknowledgement_numbered h _ _ _
  case rookPortLinkFailure => exact next_numbered (quarantinePort_numbered h _)

theorem issue_numbered (h : Numbered Anywhere s) (c slot) : NextNumbered Anywhere (issue c slot s) := by
  unfold issue
  split <;> have h1 := of_fst (nextGroup_numbered (traceMask_numbered (focus_numbered h c slot))) (by assumption)
  · exact exec_numbered h1 _
  · exact next_numbered (trapForming_numbered h1 _)
  · exact next_numbered h1

theorem finish_numbered {f : State → State} (hf : ∀ s, Numbered Anywhere s → Numbered Anywhere (f s)) {x : Host.Outcome State Fault Refusal}
    (hx : NextNumbered Anywhere x) : NextNumbered Anywhere (finish f x) := by
  cases x with
  | next t => exact next_numbered (hf t (hx t rfl))
  | fault => rintro _ ⟨⟩
  | refused => rintro _ ⟨⟩

theorem issueStep_numbered (h : Numbered Anywhere s) (c slot) : NextNumbered Anywhere (issueStep c slot s) :=
  finish_numbered (fun _ h => tick_numbered (afterIssue_numbered (countTurn_numbered h _ _ _) _ _) _) (issue_numbered h c slot)

theorem inner_numbered (h : Numbered Anywhere s) : NextNumbered Anywhere (Machine.inner s) := by
  unfold Machine.inner
  split
  · exact finish_numbered (fun _ h => tick_numbered h _) (exec_numbered h _)
  · split
    · exact issueStep_numbered h _ _
    · exact next_numbered (tick_numbered h _)

theorem advance_numbered (h : Numbered Anywhere s) : NextNumbered Anywhere (advance s) := by
  unfold advance
  split
  · exact finish_numbered (fun _ h => tick_numbered h _) (exec_numbered (by exact h) _)
  · exact ite_next_numbered (next_numbered (tick_numbered (retry_numbered h) _)) (inner_numbered h)

/-- Settles O59: `step` is `advance`, and what `advance` calls keeps the numbers of cores and the slots of their warps distinct; a block is placed or moved
only where free slots are left for its warps. -/
theorem numbersStayDistinct : Obligations.NumbersStayDistinct :=
  fun _ t h e => distinct_iff.2 (advance_numbered (distinct_iff.1 h) t e)

end Sys2Proof.Numbers
end

section
/-! PROOFS. Groups that end a lane, a turn or nothing: EXIT, YIELD and NOP (R151, R169, R217). -/

namespace Sys2Proof.Endings

open Sys2Proof.Machine Sys2Proof.Safety Sys2Proof.Laws

theorem past_live (gr : Grp) (s : State) : (past gr s).cur.live = s.cur.live := by
  unfold past
  split <;> rfl

theorem past_emitCur_live (gr : Grp) (s : State) (ty : Nat) (payload : List Byte) :
    (past gr (emitCur s ty payload)).cur.live = s.cur.live := by
  rw [past_live, Numbers.emitCur_cur]

theorem begun_live (i : Instr) (s : State) : (begun i s).cur.live = s.cur.live := by
  obtain ⟨b, g, h⟩ := begun_cur i s
  rw [h]

/-- The lanes that stay live when the lanes of a mask retire. -/
theorem and_not_eq_maskOf (x m : Mask) : x &&& ~~~m = maskOf fun l => x.getLsbD l.val && !m.getLsbD l.val :=
  eq_maskOf fun l => by simp [l.isLt]

theorem exec_exitL (gr : Grp) (s : State) : exec (.exitL gr) s = execExitL gr s := rfl
theorem exec_yield (gr : Grp) (s : State) : exec (.yield gr) s = execYield gr s := rfl
theorem exec_nop (gr : Grp) (s : State) : exec (.nop gr) s = execNop gr s := rfl

/-- EXIT (R151, R217): the active lanes leave the live ones and their rays end; barriers that counted them may complete. -/
theorem exitL_ends (gr : Grp) (s : State) (h : Runs (.exitL gr) s) :
    let m := s.cur.active gr
    let u := past gr (emitCur (begun (.exitL gr) s) 9 (leBytes 4 m.toNat))
    let u := { u with cur := { u.cur with
      live := maskOf fun l => s.cur.live.getLsbD l.val && !m.getLsbD l.val
      threads := Vector.ofFn fun l => if m.getLsbD l.val then { u.cur.threads[l] with ray := none } else u.cur.threads[l] } }
    Ends (.exitL gr) s (afterExit u u.core.id u.cur) := by
  refine ends_done (exec_exitL gr s) h ?_
  dsimp only
  rw [endGroup_past, begun_active, ← begun_live (.exitL gr) s,
    ← past_emitCur_live gr (begun (.exitL gr) s) 9 (leBytes 4 (s.cur.active gr).toNat), and_not_eq_maskOf]

/-- YIELD (R169, R217): with an active lane the warp leaves its lane set; without one it only goes on. -/
theorem yield_ends (gr : Grp) (s : State) (h : Runs (.yield gr) s) :
    let u := past gr (begun (.yield gr) s)
    Ends (.yield gr) s (if s.cur.active gr = 0 then u else { u with cur := { u.cur with wait := .yield } }) := by
  refine ends_done (exec_yield gr s) h ?_
  dsimp only
  rw [endGroup_past, begun_active]
  by_cases ha : s.cur.active gr = 0
  · rw [if_pos ha, if_neg (not_not_intro ha)]
  · rw [if_neg ha, if_pos ha]

theorem nop_ends (gr : Grp) (s : State) (h : Runs (.nop gr) s) : Ends (.nop gr) s (past gr (begun (.nop gr) s)) :=
  ends_done (exec_nop gr s) h (by rw [endGroup_past])

/-- Settles O12: EXIT, YIELD and NOP each end their group as their rule says. -/
theorem exitYieldNop : Obligations.ExitYieldNop := ⟨exitL_ends, yield_ends, nop_ends⟩

end Sys2Proof.Endings
end

section
/-! PROOFS. VOTE in its four modes (R143, R205, R207): what each gives the lanes, and where VOTE.ALL of a whole warp traps. -/

namespace Sys2Proof.Voting

open Sys2Proof.Machine Sys2Proof.Safety Sys2Proof.Laws

/-! ### The participants of a partition -/

theorem sameRest_width {w x : Warp} (h : SameRest w x) : x.width = w.width := by rw [h]; rfl

theorem mem_participants {w x : Warp} (h : x.width = w.width) (gr : Grp) (l j : Fin 32) :
    j ∈ participants x (w.active gr) l ↔ joins w gr l j = true := by
  unfold participants partLanes joins Machine.lanes
  rw [h]
  simp only [List.mem_filter, List.mem_finRange, true_and, decide_eq_true_eq, Bool.and_eq_true]
  exact and_comm

theorem all_participants {w x : Warp} (h : x.width = w.width) (gr : Grp) (l : Fin 32) (q : Fin 32 → Bool) :
    (participants x (w.active gr) l).all q = decide (∀ j, joins w gr l j = true → q j = true) := by
  rw [Bool.eq_iff_iff, List.all_eq_true, decide_eq_true_eq]
  simp only [mem_participants h]

theorem any_participants {w x : Warp} (h : x.width = w.width) (gr : Grp) (l : Fin 32) (q : Fin 32 → Bool) :
    (participants x (w.active gr) l).any q = decide (∃ j, joins w gr l j = true ∧ q j = true) := by
  rw [Bool.eq_iff_iff, List.any_eq_true, decide_eq_true_eq]
  simp only [mem_participants h]

/-- The predicate's bit xor N, as a test of the bit. -/
theorem bit_xor_n (b : Bool) (n : BitVec 1) : (b != decide (n = 1)) = decide (b = decide (n = 0)) := by
  revert b n; decide

theorem begun_width (i : Instr) (s : State) : (begun i s).cur.width = s.cur.width := by
  obtain ⟨b, g, h⟩ := begun_cur i s; rw [h]; rfl


/-! ### The ballot -/

/-- A sum of powers of two with rising exponents has exactly the exponents' bits. -/
theorem testBit_foldl_pow (l : List (Fin 32)) (hl : l.Pairwise fun a b => a.val < b.val) (k : Nat) :
    (l.foldl (fun t (i : Fin 32) => t + 2 ^ i.val) 0).testBit k = l.any fun x => decide (x.val = k) := by
  have h := foldl_bits (fun _ => true) l hl 0 0 (by decide) (fun _ _ => Nat.zero_le _) k
  simpa using h

/-- A lane's place in its partition, as a number of a bit. -/
def placeBit (w : Warp) (i : Fin 32) : Fin 32 := ⟨position w i, Nat.lt_of_le_of_lt (Nat.mod_le ..) i.isLt⟩

theorem placeBit_lt {w : Warp} {l a b : Fin 32} (ha : a.val / w.width = l.val / w.width) (hb : b.val / w.width = l.val / w.width)
    (hab : a.val < b.val) : (placeBit w a).val < (placeBit w b).val := by
  show a.val % w.width < b.val % w.width
  have ea := Nat.div_add_mod a.val w.width
  have eb := Nat.div_add_mod b.val w.width
  rw [ha] at ea
  rw [hb] at eb
  omega

theorem pairwise_placeBits (w : Warp) (m : Mask) (l : Fin 32) (q : Fin 32 → Bool) :
    (((participants w m l).filter q).map (placeBit w)).Pairwise fun a b => a.val < b.val := by
  have hr : (List.finRange 32).Pairwise fun a b => a.val < b.val := List.pairwise_lt_finRange 32
  have hf : ((participants w m l).filter q).Pairwise fun a b => a.val < b.val :=
    ((hr.sublist List.filter_sublist).sublist List.filter_sublist).sublist List.filter_sublist
  refine List.pairwise_map.2 (hf.imp_of_mem fun {a b} ha hb hab => ?_)
  have part : ∀ {c}, c ∈ (participants w m l).filter q → c.val / w.width = l.val / w.width := by
    intro c hc
    have h1 := (List.mem_filter.1 (List.mem_filter.1 hc).1).1
    exact of_decide_eq_true (List.mem_filter.1 h1).2
  exact placeBit_lt (part ha) (part hb) hab

theorem width_dvd (w : Warp) : w.width ∣ 32 ∨ 32 ≤ w.width := by
  show 2 ^ w.partw.toNat ∣ 2 ^ 5 ∨ 2 ^ 5 ≤ 2 ^ w.partw.toNat
  rcases Nat.le_total w.partw.toNat 5 with h | h
  · exact .inl (pow_dvd_pow 2 h)
  · exact .inr (Nat.pow_le_pow_right (by decide) h)

/-- The lane at a position of a partition is the only one there. -/
theorem eq_laneAt_iff (w : Warp) (l j : Fin 32) (k : Nat) (hk : k < 32) :
    j.val / w.width = l.val / w.width ∧ position w j = k ↔ k < w.width ∧ (laneAt w l k).val / w.width = l.val / w.width ∧ j = laneAt w l k := by
  have hpos : 0 < w.width := Nat.two_pow_pos _
  have hbound : k < w.width → l.val / w.width * w.width + k < 32 := by
    intro hw
    rcases width_dvd w with ⟨c, hc⟩ | hge
    · have hl : l.val / w.width < c := Nat.div_lt_of_lt_mul (hc ▸ l.isLt)
      have : (l.val / w.width + 1) * w.width ≤ c * w.width := Nat.mul_le_mul_right _ hl
      rw [Nat.succ_mul, Nat.mul_comm c, ← hc] at this
      omega
    · rw [Nat.div_eq_of_lt (Nat.lt_of_lt_of_le l.isLt hge)]
      omega
  have hval : k < w.width → (laneAt w l k).val = l.val / w.width * w.width + k := fun hw => Nat.mod_eq_of_lt (hbound hw)
  have hdiv : k < w.width → (l.val / w.width * w.width + k) / w.width = l.val / w.width := fun hw => by
    rw [Nat.mul_comm, Nat.mul_add_div hpos, Nat.div_eq_of_lt hw, Nat.add_zero]
  constructor
  · rintro ⟨hj, hp⟩
    have hw : k < w.width := hp ▸ Nat.mod_lt _ hpos
    refine ⟨hw, by rw [hval hw, hdiv hw], Fin.ext ?_⟩
    rw [hval hw, ← hj, ← hp]
    exact (Nat.div_add_mod' j.val w.width).symm
  · rintro ⟨hw, hd, rfl⟩
    refine ⟨hd, ?_⟩
    show (laneAt w l k).val % w.width = k
    rw [hval hw, Nat.mul_comm, Nat.mul_add_mod, Nat.mod_eq_of_lt hw]

/-- VOTE.BALLOT's word (R207): each participant that votes sets the bit of its position. -/
theorem ballot_eq {w x : Warp} (h : x.width = w.width) (gr : Grp) (l : Fin 32) (q : Fin 32 → Bool) :
    BitVec.ofNat 32 (((participants x (w.active gr) l).filter q).foldl (fun t i => t + 2 ^ position x i) 0) = ballotOf w gr l q := by
  refine eq_maskOf fun b => ?_
  have hfold : ((participants x (w.active gr) l).filter q).foldl (fun t i => t + 2 ^ position x i) 0
      = (((participants x (w.active gr) l).filter q).map (placeBit x)).foldl (fun t (i : Fin 32) => t + 2 ^ i.val) 0 := by
    rw [List.foldl_map]; rfl
  rw [BitVec.getLsbD_ofNat, decide_eq_true b.isLt, Bool.true_and, hfold, testBit_foldl_pow _ (pairwise_placeBits ..), Bool.eq_iff_iff,
    List.any_map, List.any_eq_true]
  have hplace : ∀ j, position x j = position w j := fun j => by unfold position; rw [h]
  simp only [List.mem_filter, mem_participants h, Function.comp_apply, placeBit, hplace, decide_eq_true_eq, Bool.and_eq_true]
  constructor
  · rintro ⟨j, ⟨hj, hq⟩, hp⟩
    have hpart := of_decide_eq_true (Bool.and_eq_true_iff.1 hj).2
    obtain ⟨hw, -, rfl⟩ := (eq_laneAt_iff w l j b.val b.isLt).1 ⟨hpart, hp⟩
    exact ⟨⟨hw, hj⟩, hq⟩
  · rintro ⟨⟨hw, hj⟩, hq⟩
    have hpart := of_decide_eq_true (Bool.and_eq_true_iff.1 hj).2
    exact ⟨_, ⟨hj, hq⟩, ((eq_laneAt_iff w l _ b.val b.isLt).2 ⟨hw, hpart, rfl⟩).2⟩

/-! ### VOTE as an operation on a warp -/

/-- One repetition of VOTE in its mode (R207), in the lanes of `act`. -/
def voteRep (gr : Grp) (d a : BitVec 6) (lka m : BitVec 2) (n : BitVec 1) (p : BitVec 3) (act executing : Mask) (k : Nat) (x : Warp) : Warp :=
  let q (l : Fin 32) : Bool := (x.getP p.toNat).getLsbD l.val != decide (n = 1)
  match m.toNat with
  | 0 => x.setP (repD gr d.toNat k) act (maskOf fun l => (participants x act l).all q)
  | 1 => x.setP (repD gr d.toNat k) act (maskOf fun l => (participants x act l).any q)
  | 2 => (x.lastUse executing lka [repA gr a.toNat k]).setP (repD gr d.toNat k) act (maskOf fun l => (participants x act l).all fun j =>
      (participants x act l).all fun i => (x.vec (repA gr a.toNat k))[i] = (x.vec (repA gr a.toNat k))[j])
  | _ => x.setVec (repD gr d.toNat k) act (Vector.ofFn fun l =>
      BitVec.ofNat 32 (((participants x act l).filter q).foldl (fun t i => t + 2 ^ position x i) 0))

theorem voteRep_keeps {w x : Warp} (h : SameRest w x) (gr : Grp) (d a : BitVec 6) (lka m : BitVec 2) (n : BitVec 1) (p : BitVec 3)
    (act executing : Mask) (k : Nat) : SameRest w (voteRep gr d a lka m n p act executing k x) := by
  unfold voteRep
  dsimp only
  split
  · exact h.setP ..
  · exact h.setP ..
  · exact (h.lastUse ..).setP ..
  · exact h.setVec ..

theorem collective_ok {gr : Grp} {w : Warp} (h : Together w gr) : collective gr w = .ok () := by
  obtain ⟨h1, h2, h3, h4⟩ := h
  unfold collective
  rw [if_neg (by simp [h1]), if_neg (not_not_intro h2), if_neg (not_not_intro h3), if_neg (not_not_intro h4)]

/-- The registers that a VOTE names in each repetition are ones the warp holds (R172, R187). -/
def VoteHas (gr : Grp) (d a : BitVec 6) (m : BitVec 2) (w : Warp) : Prop := ∀ k < reps gr,
  (m = 3 → HasV w (repD gr d.toNat k)) ∧ (m ≠ 3 → repD gr d.toNat k ≤ 7) ∧ (m = 2 → HasV w (repA gr a.toNat k))

theorem voteHas_begun {i : Instr} {s : State} {gr : Grp} {d a : BitVec 6} {m : BitVec 2} (h : VoteHas gr d a m s.cur) :
    VoteHas gr d a m (begun i s).cur := by
  unfold VoteHas at *
  rw [hasV_begun]
  exact h

/-- VOTE whose registers the warp holds: a whole warp's VOTE.ALL asks for a collective group, then its repetitions act. -/
theorem opVote_eq {gr : Grp} {d a : BitVec 6} {lka m : BitVec 2} {n : BitVec 1} {p : BitVec 3} {w : Warp} (h : VoteHas gr d a m w) :
    opVote gr d a lka m n p w = (do
      if m = 0 ∧ w.width = 32 then collective gr w
      .ok (retire gr w (performReps gr (voteRep gr d a lka m n p (w.active gr) w.executing) w))) := by
  have hc : (checkReps gr fun k =>
      if m = 3 then vRange w (repD gr d.toNat k) 1
      else do
        pRange (repD gr d.toNat k)
        if m = 2 then vRange w (repA gr a.toNat k) 1) = .ok () := by
    refine checkReps_ok fun k hk => ?_
    obtain ⟨h3, hp, h2⟩ := h k hk
    by_cases hm : m = 3
    · rw [if_pos hm, vRange_ok (h3 hm)]
    · rw [if_neg hm, pRange_ok (hp hm)]
      by_cases hm2 : m = 2
      · simp only [if_pos hm2]
        exact vRange_ok (h2 hm2)
      · simp only [if_neg hm2]
        rfl
  unfold opVote
  rw [hc]
  rfl

theorem opVote_error {gr : Grp} {d a : BitVec 6} {lka : BitVec 2} {n : BitVec 1} {p : BitVec 3} {w : Warp} {x : Trap}
    (h : VoteHas gr d a 0 w) (hw : w.width = 32) (hc : collective gr w = .error x) : opVote gr d a lka 0 n p w = .error x := by
  rw [opVote_eq h, if_pos ⟨rfl, hw⟩, hc]
  rfl

theorem opVote_ok {gr : Grp} {d a : BitVec 6} {lka m : BitVec 2} {n : BitVec 1} {p : BitVec 3} {w : Warp} (h : VoteHas gr d a m w)
    (ht : m = 0 → w.width = 32 → Together w gr) :
    opVote gr d a lka m n p w = .ok (retire gr w (performReps gr (voteRep gr d a lka m n p (w.active gr) w.executing) w)) := by
  rw [opVote_eq h]
  by_cases hm : m = 0 ∧ w.width = 32
  · rw [if_pos hm, collective_ok (ht hm.1 hm.2)]
    rfl
  · rw [if_neg hm]

theorem exec_vote (gr : Grp) (d a : BitVec 6) (lka m : BitVec 2) (n : BitVec 1) (p : BitVec 3) (s : State) :
    exec (.vote gr d a lka m n p) s = execVote gr d a lka m n p s := rfl

/-- VOTE writes what its repetitions make of the registers. -/
theorem vote_writes {gr : Grp} {d a : BitVec 6} {lka m : BitVec 2} {n : BitVec 1} {p : BitVec 3} {s : State} {F : Nat → Regs → Regs}
    (hr : Runs (.vote gr d a lka m n p) s) (h : VoteHas gr d a m s.cur) (ht : m = 0 → s.cur.width = 32 → Together s.cur gr)
    (hF : ∀ k < reps gr, ∀ x, x.width = s.cur.width →
      regsOf (voteRep gr d a lka m n p (s.cur.active gr) s.cur.executing k x) = F k (regsOf x)) :
    Writes (.vote gr d a lka m n p) gr s F := by
  have ht' : m = 0 → (begun (.vote gr d a lka m n p) s).cur.width = 32 → Together (begun (.vote gr d a lka m n p) s).cur gr := by
    obtain ⟨b, g, hc⟩ := begun_cur (.vote gr d a lka m n p) s
    rw [hc]
    exact ht
  obtain ⟨h1, h2⟩ := performReps_spec (w := (begun (.vote gr d a lka m n p) s).cur) (F := F) fun k hk x hx =>
    ⟨voteRep_keeps hx .., hF k hk x ((sameRest_width hx).trans (begun_width ..))⟩
  have ho := opVote_ok (lka := lka) (n := n) (p := p) (voteHas_begun (i := .vote gr d a lka m n p) h) ht'
  rw [begun_active, begun_executing] at ho
  exact writes_of (exec_vote gr d a lka m n p s) hr ho h1 h2

/-! ### The four modes -/

theorem vote_all (gr : Grp) (d : BitVec 6) (n : BitVec 1) (p : BitVec 3) (s : State) (hr : Runs (.vote gr d 0 0 0 n p) s)
    (hd : ∀ k < reps gr, repD gr d.toNat k ≤ 7) (ht : s.cur.width = 32 → Together s.cur gr) :
    Writes (.vote gr d 0 0 0 n p) gr s fun k r => r.putP (repD gr d.toNat k) (s.cur.active gr)
      (maskOf fun l => decide (∀ j, joins s.cur gr l j = true → (r.p p.toNat).getLsbD j.val = decide (n = 0))) := by
  refine vote_writes hr (fun k hk => ⟨nofun, fun _ => hd k hk, nofun⟩) (fun _ => ht) fun k _ x hx => (regsOf_setP ..).trans ?_
  simp only [all_participants hx, bit_xor_n, decide_eq_true_eq]
  rfl

theorem vote_any (gr : Grp) (d : BitVec 6) (n : BitVec 1) (p : BitVec 3) (s : State) (hr : Runs (.vote gr d 0 0 1 n p) s)
    (hd : ∀ k < reps gr, repD gr d.toNat k ≤ 7) :
    Writes (.vote gr d 0 0 1 n p) gr s fun k r => r.putP (repD gr d.toNat k) (s.cur.active gr)
      (maskOf fun l => decide (∃ j, joins s.cur gr l j = true ∧ (r.p p.toNat).getLsbD j.val = decide (n = 0))) := by
  refine vote_writes hr (fun k hk => ⟨nofun, fun _ => hd k hk, nofun⟩) nofun fun k _ x hx => (regsOf_setP ..).trans ?_
  simp only [any_participants hx, bit_xor_n, decide_eq_true_eq]
  rfl

theorem vote_eq (gr : Grp) (d a : BitVec 6) (lka : BitVec 2) (s : State) (hr : Runs (.vote gr d a lka 2 0 0) s)
    (hd : ∀ k < reps gr, repD gr d.toNat k ≤ 7 ∧ HasV s.cur (repA gr a.toNat k)) :
    Writes (.vote gr d a lka 2 0 0) gr s fun k r =>
      (r.lastUse s.cur.executing lka [repA gr a.toNat k]).putP (repD gr d.toNat k) (s.cur.active gr)
        (maskOf fun l => decide (∀ i j, joins s.cur gr l i = true → joins s.cur gr l j = true →
          r.v (repA gr a.toNat k) i = r.v (repA gr a.toNat k) j)) := by
  refine vote_writes hr (fun k hk => ⟨nofun, fun _ => (hd k hk).1, fun _ => (hd k hk).2⟩) nofun fun k hk x hx => (regsOf_setP ..).trans ?_
  rw [regsOf_lastUse _ _ _ _ fun m => single_lt (hd k hk).2.1]
  simp only [all_participants hx, decide_eq_true_eq]
  exact congrArg (Regs.putP _ _ _) (congrArg maskOf (funext fun l =>
    decide_eq_decide.2 ⟨fun h i j hi hj => h j hj i hi, fun h j hj i hi => h i j hi hj⟩))

theorem vote_ballot (gr : Grp) (d : BitVec 6) (n : BitVec 1) (p : BitVec 3) (s : State) (hr : Runs (.vote gr d 0 0 3 n p) s)
    (hd : ∀ k < reps gr, HasV s.cur (repD gr d.toNat k)) :
    Writes (.vote gr d 0 0 3 n p) gr s fun k r => r.putV (repD gr d.toNat k) (s.cur.active gr) fun l =>
      ballotOf s.cur gr l fun j => (r.p p.toNat).getLsbD j.val = decide (n = 0) := by
  refine vote_writes hr (fun k hk => ⟨fun _ => hd k hk, fun h => absurd rfl h, nofun⟩) nofun fun k hk x hx => (regsOf_setVec _ (hd k hk).1 ..).trans ?_
  simp only [ballot_eq hx, bit_xor_n, Fin.getElem_fin, Vector.getElem_ofFn]
  rfl

/-! ### Where VOTE.ALL of a whole warp traps -/

/-- A microprogram's operation that it may not hold traps before anything else (R222). -/
theorem perform_forbidden {i : Instr} {body : State → State × Perf} {s : State} (hp : s.cur.present = true) (hx : s.cur.executing ≠ 0)
    (hm : s.cur.micro.isSome = true) (hf : microForbids s.cur i = true) :
    perform i body s = .next (pumpRecords (takeTrap (begun i s) (trap 0x02 0x04))) := by
  have hin : s.cur.inMicro = true := hm
  have hin' : ({ s with cur := { s.cur with wait := Wait.none } } : State).cur.inMicro = true := hm
  have hf' : microForbids { s.cur with wait := .none } i = true := hf
  have hb : begun i s = { s with cur := { s.cur with wait := .none } } := by unfold begun; rw [if_pos hin]
  unfold perform
  rw [if_neg (by simpa [hp] using hx), hb]
  simp only [hin', if_true, hf', Bool.and_self]
  rfl

theorem vote_missingThird (gr : Grp) (d a : BitVec 6) (lka m : BitVec 2) (n : BitVec 1) (p : BitVec 3) :
    (Instr.vote gr d a lka m n p).missingThird = false := rfl

theorem collective_begun (i : Instr) (s : State) (gr : Grp) : collective gr (begun i s).cur = collective gr s.cur := by
  obtain ⟨b, g, h⟩ := begun_cur i s; rw [h]; rfl

/-- A VOTE.ALL of a whole warp that a microprogram holds traps (R222). -/
theorem vote_all_micro_traps {gr : Grp} {d : BitVec 6} {n : BitVec 1} {p : BitVec 3} {s : State} (hp : s.cur.present = true)
    (hx : s.cur.executing ≠ 0) (hw : s.cur.width = 32) (hm : s.cur.micro.isSome = true) :
    Traps (.vote gr d 0 0 0 n p) s (trap 0x02 4) := by
  refine perform_forbidden hp hx hm ?_
  show (decide ((0 : BitVec 2) = 0) && decide (s.cur.width = 32)) = true
  rw [decide_eq_true hw]
  rfl

/-- Outside a microprogram it traps as the condition of a collective group fails (R143). -/
theorem vote_all_traps {gr : Grp} {d : BitVec 6} {n : BitVec 1} {p : BitVec 3} {s : State} {x : Trap} (hp : s.cur.present = true)
    (hx : s.cur.executing ≠ 0) (hw : s.cur.width = 32) (hd : ∀ k < reps gr, repD gr d.toNat k ≤ 7) (hm : s.cur.micro = none)
    (hh : x.held = false) (hc : collective gr s.cur = .error x) : Traps (.vote gr d 0 0 0 n p) s x := by
  have hmicro : s.cur.inMicro = false := by
    show s.cur.micro.isSome = false
    rw [hm]; rfl
  have hr : Runs (.vote gr d 0 0 0 n p) s := ⟨hp, hx, vote_missingThird .., fun h => absurd h (by rw [hmicro]; exact nofun)⟩
  refine (exec_vote gr d 0 0 0 n p s).trans (perform_trap hr hh ?_)
  have ho := opVote_error (d := d) (a := 0) (lka := 0) (n := n) (p := p) (w := (begun (.vote gr d 0 0 0 n p) s).cur)
    (voteHas_begun fun k hk => ⟨nofun, fun _ => hd k hk, nofun⟩) ((begun_width ..).trans hw) ((collective_begun ..).trans hc)
  unfold runWarp
  rw [ho]

theorem vote_all_refused (gr : Grp) (d : BitVec 6) (n : BitVec 1) (p : BitVec 3) (s : State) (hp : s.cur.present = true)
    (hx : s.cur.executing ≠ 0) (hw : s.cur.width = 32) (hd : ∀ k < reps gr, repD gr d.toNat k ≤ 7) :
    let raises := fun (sub : Nat) => Traps (.vote gr d 0 0 0 n p) s (trap 0x02 sub)
    let w := s.cur
    (w.micro.isSome = true → raises 4)
    ∧ (w.micro = none → w.inhdl = true → raises 6)
    ∧ (w.micro = none → w.inhdl = false → w.liveMask ≠ 0xFFFFFFFF → raises 0)
    ∧ (w.micro = none → w.inhdl = false → w.liveMask = 0xFFFFFFFF → w.executing ≠ 0xFFFFFFFF → raises 1)
    ∧ (w.micro = none → w.inhdl = false → w.liveMask = 0xFFFFFFFF → w.executing = 0xFFFFFFFF → w.guardMask gr ≠ 0xFFFFFFFF → raises 2) := by
  refine ⟨vote_all_micro_traps hp hx hw, fun hm hi => ?_, fun hm hi hl => ?_, fun hm hi hl he => ?_, fun hm hi hl he hg => ?_⟩
  all_goals refine vote_all_traps hp hx hw hd hm rfl ?_
  all_goals unfold collective
  · rw [if_pos hi]
  · rw [if_neg (by simp [hi]), if_pos hl]
  · rw [if_neg (by simp [hi]), if_neg (not_not_intro hl), if_pos he]
  · rw [if_neg (by simp [hi]), if_neg (not_not_intro hl), if_neg (not_not_intro he), if_pos hg]

/-- Settles O6: the four modes of VOTE by the participants of each lane's partition, and the traps of VOTE.ALL of a whole warp. -/
theorem votes : Obligations.Votes := ⟨vote_all, vote_any, vote_eq, vote_ballot, vote_all_refused⟩

end Sys2Proof.Voting
end

section
/-! PROOFS. SFU (R147, R169, R254): one result for each active lane, at once or on its way. -/

namespace Sys2Proof.LaneResults

open Sys2Proof.Machine Sys2Proof.Safety Sys2Proof.Laws Sys2Proof.PixelReads

variable {i : Instr} {gr : Grp} {s u : State}

/-! ### Groups whose repetitions touch registers and the issuing core -/

/-- Of the machine only the issuing core, the issuing warp's registers and what the warp slot keeps of the group differ. -/
def OnCore (s u : State) : Prop :=
  u = { s with core := u.core, cur := { s.cur with
    v := u.cur.v, p := u.cur.p, s := u.cur.s, t := u.cur.t, wait := u.cur.wait, base := u.cur.base, grp := u.cur.grp
    resume := u.cur.resume, woken := u.cur.woken } }

theorem onCore_begun (i : Instr) (s : State) : OnCore s (begun i s) := by
  obtain ⟨b, g, h⟩ := begun_cur i s
  unfold OnCore
  rw [begun_eq, h]

theorem OnCore.micro (h : OnCore s u) : u.cur.micro = s.cur.micro := by rw [h]
theorem OnCore.lpc (h : OnCore s u) : u.cur.lpc = s.cur.lpc := by rw [h]
theorem OnCore.active (h : OnCore s u) (hp : u.cur.p = s.cur.p) (gr : Grp) : u.cur.active gr = s.cur.active gr := by rw [h, hp]; rfl
theorem OnCore.executing (h : OnCore s u) : u.cur.executing = s.cur.executing := by rw [h]; rfl
theorem OnCore.sched (h : OnCore s u) : u.sched = s.sched := by rw [h]
theorem OnCore.nextPc (h : OnCore s u) (gr : Grp) : nextPc u.cur gr = nextPc s.cur gr := by rw [h]; rfl

/-- The warp's registers are written. -/
theorem OnCore.registers (h : OnCore s u) {w : Warp} (hw : SameRest u.cur w) : OnCore s { u with cur := w } := by
  unfold OnCore
  rw [hw, h]

theorem OnCore.core (h : OnCore s u) (k : Core) : OnCore s { u with core := k } := by
  unfold OnCore
  rw [h]

theorem OnCore.resume (h : OnCore s u) (r : Option Resume) (b : Bool) : OnCore s { u with cur := { u.cur with resume := r, woken := b } } := by
  unfold OnCore
  rw [h]

theorem OnCore.advanced (h : OnCore s u) (gr : Grp) : Advanced gr s (past gr u) := by
  unfold Advanced
  cases hm : s.cur.micro with
  | none =>
    rw [past_none (h.micro.trans hm)]
    refine ⟨h.micro.trans hm, fun l => ?_⟩
    simp only [Fin.getElem_fin, Vector.getElem_ofFn, h.executing, h.nextPc, h.lpc]
  | some m =>
    rw [past_some (h.micro.trans hm)]
    exact ⟨rfl, h.lpc⟩

theorem OnCore.onlyRegisters (h : OnCore s u) (gr : Grp) : OnlyRegisters { s with core := u.core } (past gr u) := by
  unfold OnlyRegisters
  cases hm : s.cur.micro with
  | none =>
    rw [past_none (h.micro.trans hm), h]
  | some m =>
    rw [past_some (h.micro.trans hm), h]

theorem past_core (gr : Grp) (s : State) : (past gr s).core = s.core := by unfold past; split <;> rfl
theorem regsOf_past (gr : Grp) (s : State) : regsOf (past gr s).cur = regsOf s.cur := by
  unfold past
  split <;> exact regsOf_congr rfl rfl rfl rfl

/-- A group that ends with the issuing core as it was has written registers only. -/
theorem writes_of_ends {F : Nat → Regs → Regs} (he : Ends i s (past gr u)) (h : OnCore s u) (hc : u.core = s.core)
    (hr : regsOf u.cur = repeated F (reps gr) (regsOf s.cur)) : Writes i gr s F := by
  obtain ⟨a, b, c, d, e, f, g, k, hk⟩ := ended_cur i s (past gr u)
  have ho := h.onlyRegisters gr
  rw [hc] at ho
  refine ⟨_, he.trans (congrArg _ hk), h.advanced gr, ?_, ?_, fun hrec => ⟨pumpRecords_nil ?_, fun _ => ?_⟩⟩
  · unfold OnlyRegisters at ho ⊢
    rw [ho]
  · exact (regsOf_past gr u).trans hr
  · show (past gr u).records = []
    rw [ho]; exact hrec
  · show (past gr u).home.mem.get _ = _
    rw [ho]

/-! ### Repetitions -/

theorem clearResume_eq (w : Warp) : ∃ r, w.clearResume = { w with resume := r } := by
  unfold Warp.clearResume
  split
  · split
    · exact ⟨_, rfl⟩
    · exact ⟨w.resume, rfl⟩
  · exact ⟨w.resume, rfl⟩

/-- What holds after each number of repetitions, whatever is kept of the replay, holds after the last (R188). -/
theorem runRepsFrom_induct {one : Nat → State → State × Perf} {P : Nat → State → Prop} {last : Nat}
    (hwait : ∀ k u, P k u → u.cur.wait = .none)
    (hkept : ∀ k u r b, P k u → P k { u with cur := { u.cur with resume := r, woken := b } })
    (hone : ∀ k < last, ∀ u, P k u → ∃ v, one k u = (v, .done) ∧ P (k + 1) v) (n : Nat) :
    ∀ k u, k + (n + 1) = last → P k u → ∃ v, runRepsFrom one (n + 1) k u = (v, .done) ∧ P last v := by
  induction n with
  | zero =>
    intro k u hk hu
    obtain ⟨v, hv, hP⟩ := hone k (by omega) u hu
    obtain ⟨r, hr⟩ := clearResume_eq v.cur
    refine ⟨{ v with cur := v.cur.clearResume }, ?_, ?_⟩
    · simp only [runRepsFrom, hv, if_true]
    · rw [hr, ← hk]
      exact hkept _ v r v.cur.woken hP
  | succ n ih =>
    intro k u hk hu
    obtain ⟨v, hv, hP⟩ := hone k (by omega) u hu
    have hP' : P (k + 1) { v with cur := { v.cur.setRep (k + 1) with woken := false } } := hkept _ v _ false hP
    have hw : ({ v.cur.setRep (k + 1) with woken := false } : Warp).wait = .none :=
      hwait (k + 1) { v with cur := { v.cur.setRep (k + 1) with woken := false } } hP'
    rw [runRepsFrom, hv]
    dsimp only
    rw [if_neg (by omega), if_neg (by simpa using hw)]
    exact ih (k + 1) _ (by omega) hP'

/-- In the course of a group that writes no predicate register: the registers are `r`, the issuing core is `c`, nothing else has
changed. -/
structure Holding (s : State) (r : Regs) (c : Core) (u : State) : Prop where
  onCore : OnCore s u
  wait : u.cur.wait = .none
  preds : u.cur.p = s.cur.p
  core : u.core = c
  regs : regsOf u.cur = r

theorem Holding.active {r : Regs} {c : Core} (h : Holding s r c u) (gr : Grp) : u.cur.active gr = s.cur.active gr := h.onCore.active h.preds gr

theorem Holding.lastUse {r : Regs} {c : Core} (h : Holding s r c u) {n : Nat} (hn : n < 64) (lk : BitVec 2) :
    Holding s (r.lastUse s.cur.executing lk [n]) c { u with cur := u.cur.lastUse u.cur.executing lk [n] } := by
  refine ⟨h.onCore.registers ((SameRest.refl _).lastUse ..), (Warp.lastUse_wait ..).trans h.wait, (Warp.lastUse_p ..).trans h.preds, h.core, ?_⟩
  rw [regsOf_lastUse _ _ _ _ fun _ => single_lt hn, h.regs, h.onCore.executing]

theorem Holding.setVec {r : Regs} {c : Core} (h : Holding s r c u) {n : Nat} (hn : n < 64) (m : Mask) (x : LaneVec) :
    Holding s (r.putV n m fun l => x[l]) c { u with cur := u.cur.setVec n m x } := by
  refine ⟨h.onCore.registers ((SameRest.refl _).setVec ..), (Warp.setVec_wait ..).trans h.wait, (Warp.setVec_p ..).trans h.preds, h.core, ?_⟩
  rw [regsOf_setVec _ hn, h.regs]

theorem begun_wait (i : Instr) (s : State) : (begun i s).cur.wait = .none := by
  obtain ⟨b, g, h⟩ := begun_cur i s; rw [h]
theorem begun_preds (i : Instr) (s : State) : (begun i s).cur.p = s.cur.p := by
  obtain ⟨b, g, h⟩ := begun_cur i s; rw [h]
theorem begun_resumed (i : Instr) (s : State) : (begun i s).cur.resumed = s.cur.resumed := by
  obtain ⟨b, g, h⟩ := begun_cur i s; rw [h]; rfl

/-- A group all of whose repetitions are performed ends past itself (R140, R188). -/
theorem repeated_ends {body : State → State × Perf} {one : Nat → State → State × Perf} {F : Nat → Regs → Regs} {cores : Nat → Core}
    (he : exec i s = perform i body s) (hr : Runs i s) (hbody : body (begun i s) = ending gr (runReps gr one (begun i s)))
    (hres : s.cur.resumed.rep = 0) (h0 : cores 0 = s.core)
    (hone : ∀ k < reps gr, ∀ u, Holding s (repeated F k (regsOf s.cur)) (cores k) u →
      ∃ v, one k u = (v, .done) ∧ Holding s (repeated F (k + 1) (regsOf s.cur)) (cores (k + 1)) v) :
    ∃ u, Ends i s (past gr u) ∧ Holding s (repeated F (reps gr) (regsOf s.cur)) (cores (reps gr)) u := by
  have hstart : Holding s (repeated F 0 (regsOf s.cur)) (cores 0) (begun i s) :=
    ⟨onCore_begun i s, begun_wait i s, begun_preds i s, by rw [begun_eq]; exact h0.symm, begun_regs i s⟩
  have hpos : reps gr = reps gr - 1 + 1 := by
    unfold reps
    split <;> omega
  obtain ⟨u, hu, hP⟩ := runRepsFrom_induct (last := reps gr) (P := fun k => Holding s (repeated F k (regsOf s.cur)) (cores k)) (fun _ _ h => h.wait)
    (fun _ v r b h => ⟨h.onCore.resume r b, h.wait, h.preds, h.core, h.regs⟩) hone (reps gr - 1) 0 _ (by omega) hstart
  refine ⟨u, ends_done he hr ?_, hP⟩
  unfold runReps at hbody
  rw [begun_resumed, hres, Nat.sub_zero, hpos, hu] at hbody
  rw [hbody, ← endGroup_past]
  rfl

/-! ### SFU -/

theorem exec_sfu (gr : Grp) (d a : BitVec 6) (lka : BitVec 2) (f : BitVec 3) (s : State) : exec (.sfu gr d a lka f) s = execSfu gr d a lka f s := rfl

theorem landVec_atOnce (h : AtOnce s) (reg : Nat) (m : Mask) (x : LaneVec) : landVec s reg m x = { s with cur := s.cur.setVec reg m x } := by
  have hf : (s.sched.late && !s.cur.inMicro) = false := by rcases h with h | h <;> simp [h]
  unfold landVec
  rw [hf]
  rfl

/-- The issuing core has results on their way. -/
def sent (s : State) (rs : List Return) : State := { s with core := { s.core with returns := s.core.returns ++ rs } }
/-- The result of a lane of the issuing warp for a vector register, on its way (R147). -/
def laneReturn (s : State) (reg : Nat) (l : Fin 32) (x : Dword) : Return :=
  ⟨{ core := s.core.id, slot := s.cur.slot, gen := s.cur.genReg, uniform := false, lane := l.val, reg := reg, ty := 4 }, x, s.clock⟩

theorem sent_nil (s : State) : sent s [] = s := by unfold sent; rw [List.append_nil]
theorem sent_sent (s : State) (a b : List Return) : sent (sent s a) b = sent s (a ++ b) := by
  unfold sent
  dsimp only
  rw [List.append_assoc]

theorem landV_late (hl : s.sched.late = true) (hm : s.cur.inMicro = false) (reg : Nat) (l : Fin 32) (x : Word) :
    landV s reg l x = sent s [laneReturn s reg l (x.setWidth 64)] := by
  unfold landV pushReturn State.modCore State.setCore State.coreAt
  rw [hl, hm]
  simp only [Bool.not_false, Bool.and_self, if_true]
  rfl

theorem foldl_landV_late (hl : s.sched.late = true) (hm : s.cur.inMicro = false) (reg : Nat) (x : LaneVec) (ls : List (Fin 32)) :
    ls.foldl (fun s l => landV s reg l x[l]) s = sent s (ls.map fun l => laneReturn s reg l (x[l].setWidth 64)) := by
  induction ls generalizing s with
  | nil => exact (sent_nil s).symm
  | cons l ls ih =>
    rw [List.foldl_cons, landV_late hl hm, ih (s := sent s _) hl hm, sent_sent]
    rfl

/-- Results on their way (R147): each lane's is among the core's returns, and nothing else changes. -/
theorem landVec_late (hl : s.sched.late = true) (hm : s.cur.inMicro = false) (reg : Nat) (m : Mask) (x : LaneVec) :
    landVec s reg m x = sent s ((lanesOf m).map fun l => laneReturn s reg l (x[l].setWidth 64)) := by
  unfold landVec
  rw [hl, hm]
  exact foldl_landV_late hl hm reg x (lanesOf m)

theorem sent_holding {r : Regs} {c : Core} (h : Holding s r c u) (rs : List Return) :
    Holding s r { c with returns := c.returns ++ rs } (sent u rs) :=
  ⟨h.onCore.core _, h.wait, h.preds, by rw [← h.core]; rfl, h.regs⟩

theorem Holding.laneReturn {r : Regs} {c : Core} (h : Holding s r c u) (hc : c.id = s.core.id) (reg : Nat) (l : Fin 32) (x : Dword) :
    laneReturn u reg l x = laneReturn s reg l x := by
  have hid : u.core.id = s.core.id := by rw [h.core, hc]
  have ho := h.onCore
  unfold OnCore at ho
  unfold LaneResults.laneReturn
  rw [hid, ho]

/-- The issuing core when the results `f` of the first `k` repetitions for the registers `reg` are on their way. -/
def sendingCore (s : State) (gr : Grp) (reg : Nat → Nat) (f : Nat → Fin 32 → Dword) (k : Nat) : Core :=
  { s.core with returns := s.core.returns ++
      ((List.range k).flatMap fun k => (lanesOf (s.cur.active gr)).map fun l => laneReturn s (reg k) l (f k l)) }

theorem sendingCore_zero (s : State) (gr : Grp) (reg : Nat → Nat) (f : Nat → Fin 32 → Dword) : sendingCore s gr reg f 0 = s.core := by
  unfold sendingCore
  rw [List.range_zero, List.flatMap_nil, List.append_nil]

theorem sendingCore_succ (s : State) (gr : Grp) (reg : Nat → Nat) (f : Nat → Fin 32 → Dword) (k : Nat) :
    sendingCore s gr reg f (k + 1) = { sendingCore s gr reg f k with
      returns := (sendingCore s gr reg f k).returns ++ (lanesOf (s.cur.active gr)).map fun l => laneReturn s (reg k) l (f k l) } := by
  unfold sendingCore
  rw [List.range_succ, List.flatMap_append, List.flatMap_singleton, ← List.append_assoc]

/-- SFU's results of a repetition, from the registers as it finds them (R254). -/
def sfuLanes (gr : Grp) (f : BitVec 3) (a : BitVec 6) (k : Nat) (r : Regs) : LaneVec :=
  Vector.ofFn fun l => sfu f (rndOf gr) (satOf gr) (r.v (repA gr a.toNat k) l)

/-- One repetition of SFU. -/
def sfuRep (gr : Grp) (d a : BitVec 6) (lka : BitVec 2) (f : BitVec 3) (k : Nat) (u : State) : State :=
  let x := { u with cur := u.cur.lastUse u.cur.executing lka [repA gr a.toNat k] }
  landVec x (repD gr d.toNat k) (x.cur.active gr) (sfuLanes gr f a k (regsOf u.cur))

/-- SFU of registers that the warp holds ends past itself, when each repetition lands its results as `F` and `cores` say. -/
theorem sfu_repeats {f : BitVec 3} {d a : BitVec 6} {lka : BitVec 2} (hr : Runs (.sfu gr d a lka f) s)
    (hv : v2Has s.cur gr d a) (hres : s.cur.resumed.rep = 0) {F : Nat → Regs → Regs} {cores : Nat → Core} (h0 : cores 0 = s.core)
    (hone : ∀ k < reps gr, ∀ x,
      Holding s ((repeated F k (regsOf s.cur)).lastUse s.cur.executing lka [repA gr a.toNat k]) (cores k) x →
      Holding s (repeated F (k + 1) (regsOf s.cur)) (cores (k + 1))
        (landVec x (repD gr d.toNat k) (s.cur.active gr) (sfuLanes gr f a k (repeated F k (regsOf s.cur))))) :
    ∃ u, Ends (.sfu gr d a lka f) s (past gr u) ∧ Holding s (repeated F (reps gr) (regsOf s.cur)) (cores (reps gr)) u := by
  refine repeated_ends (one := fun k u => (sfuRep gr d a lka f k u, .done)) (exec_sfu gr d a lka f s) hr ?_ hres h0
    fun k hk u hu => ⟨_, rfl, ?_⟩
  · have hc : (checkReps gr fun k => do
        vRange (begun (.sfu gr d a lka f) s).cur (repD gr d.toNat k) 1
        vRange (begun (.sfu gr d a lka f) s).cur (repA gr a.toNat k) 1) = .ok () := by
      refine checkReps_ok fun k hk => ?_
      obtain ⟨h1, h2⟩ := hv k hk
      rw [← hasV_begun (.sfu gr d a lka f) s] at h1 h2
      rw [vRange_ok h1, vRange_ok h2]
      rfl
    dsimp only
    rw [hc]
    rfl
  · have hx := hu.lastUse (hv k hk).2.1 lka
    unfold sfuRep
    dsimp only
    rw [hx.active, hu.regs]
    exact hone k hk _ hx

/-- SFU's results at once (R254). -/
theorem sfu_writes (f : BitVec 3) (gr : Grp) (d a : BitVec 6) (lka : BitVec 2) (s : State) (hr : Runs (.sfu gr d a lka f) s)
    (hv : v2Has s.cur gr d a) (hres : s.cur.resumed.rep = 0) (hl : s.sched.late = false ∨ s.cur.inMicro = true) :
    Writes (.sfu gr d a lka f) gr s (v2Rep s.cur gr d a lka fun x _ => sfu f (rndOf gr) (satOf gr) x) := by
  obtain ⟨u, he, hu⟩ := sfu_repeats (F := v2Rep s.cur gr d a lka fun x _ => sfu f (rndOf gr) (satOf gr) x) (cores := fun _ => s.core)
    hr hv hres rfl fun k hk x hx => by
      have hat : AtOnce x := hl.imp (fun h => (congrArg Sched.late hx.onCore.sched).trans h)
        fun h => (congrArg Option.isSome hx.onCore.micro).trans h
      have h := hx.setVec (hv k hk).1.1 (s.cur.active gr)
        (sfuLanes gr f a k (repeated (v2Rep s.cur gr d a lka fun x _ => sfu f (rndOf gr) (satOf gr) x) k (regsOf s.cur)))
      rw [landVec_atOnce hat]
      simp only [sfuLanes, Fin.getElem_fin, Vector.getElem_ofFn] at h ⊢
      exact h
  exact writes_of_ends he hu.onCore hu.core hu.regs

/-- SFU's results on their way (R147, R169). -/
theorem sfu_sends (f : BitVec 3) (gr : Grp) (d a : BitVec 6) (lka : BitVec 2) (s : State) (hr : Runs (.sfu gr d a lka f) s)
    (hv : v2Has s.cur gr d a) (hres : s.cur.resumed.rep = 0) (hl : s.sched.late = true) (hm : s.cur.inMicro = false) :
    let used := fun k (r : Regs) => r.lastUse s.cur.executing lka [repA gr a.toNat k]
    ∃ t, Ends (.sfu gr d a lka f) s t ∧ Advanced gr s t ∧ regsOf t.cur = repeated used (reps gr) (regsOf s.cur)
      ∧ t.core = { s.core with returns := s.core.returns ++ lateReturns s gr (fun k => repD gr d.toNat k) fun k l =>
          (sfu f (rndOf gr) (satOf gr) ((repeated used k (regsOf s.cur)).v (repA gr a.toNat k) l)).setWidth 64 }
      ∧ OnlyRegisters { s with core := t.core } t := by
  intro used
  let result := fun k (l : Fin 32) => (sfu f (rndOf gr) (satOf gr) ((repeated used k (regsOf s.cur)).v (repA gr a.toNat k) l)).setWidth 64
  obtain ⟨u, he, hu⟩ := sfu_repeats (F := used) (cores := sendingCore s gr (fun k => repD gr d.toNat k) result) hr hv hres
    (sendingCore_zero ..) fun k hk x hx => by
      have hlate : x.sched.late = true := (congrArg Sched.late hx.onCore.sched).trans hl
      have hmicro : x.cur.inMicro = false := (congrArg Option.isSome hx.onCore.micro).trans hm
      have h := sent_holding hx ((lanesOf (s.cur.active gr)).map fun l => laneReturn s (repD gr d.toNat k) l (result k l))
      rw [landVec_late hlate hmicro, sendingCore_succ]
      simp only [hx.laneReturn rfl, sfuLanes, Fin.getElem_fin, Vector.getElem_ofFn] at h ⊢
      exact h
  exact ⟨past gr u, he, hu.onCore.advanced gr, (regsOf_past gr u).trans hu.regs, (past_core gr u).trans hu.core,
    (past_core gr u).symm ▸ hu.onCore.onlyRegisters gr⟩

/-- Settles O8: SFU by its repetitions, whose results land at once or are sent. -/
theorem specialFunctions : Obligations.SpecialFunctions := ⟨sfu_writes, sfu_sends⟩

end Sys2Proof.LaneResults
end

section
/-! PROOFS. What a step performs (R140, R180, R184): the group at the program counter, a parked group, a due event, an input; and what a fetch
of quiet memory gives (R44, R107). -/

namespace Sys2Proof.Stepping

open Sys2Proof.Machine Sys2Proof.Safety Sys2Proof.Laws Sys2Proof.QuietHomes Sys2Proof.Frame

variable {s t : State}

/-! ### The clock of a step -/

theorem step_input {i : Instr} {r : List Instr} (h : s.inputs = i :: r) : step s = finish (tick none) (exec i { s with inputs := r }) := by
  unfold step advance
  rw [h]

theorem step_inner (hi : s.inputs = []) (hr : retryDue s = false) : step s = inner s := by
  unfold step advance
  rw [hi, hr]
  rfl

theorem step_event {i : Instr} (hi : s.inputs = []) (hr : retryDue s = false) (he : nextEvent s = some i) :
    step s = finish (tick none) (exec i s) := by
  rw [step_inner hi hr]
  unfold Machine.inner
  rw [he]

theorem step_nothing (hi : s.inputs = []) (hr : retryDue s = false) (he : nextEvent s = none) (hu : issuer s = none) :
    step s = .next (tick none s) := by
  rw [step_inner hi hr]
  unfold Machine.inner
  rw [he, hu]

/-- The step of a warp whose next group is formed performs it. -/
theorem step_runs {c slot : Nat} {i : Instr} (hi : s.inputs = []) (hr : retryDue s = false) (he : nextEvent s = none)
    (hu : issuer s = some (c, slot)) (hg : nextGroup (traceMask (s.focus c slot)) = (t, .run i)) :
    step s = finish (fun x => tick (some (c, slot)) (afterIssue c slot (countTurn s c slot x))) (exec i t) := by
  rw [step_inner hi hr]
  unfold Machine.inner
  rw [he, hu]
  show finish _ (issue c slot s) = _
  unfold issue
  rw [hg]

theorem nextGroup_parked {i : Instr} (h : s.cur.parked = some i) : nextGroup s = (s, .run i) := by
  unfold nextGroup
  rw [h]

theorem nextGroup_fetches (hp : s.cur.parked = none) (hm : s.cur.micro = none) : nextGroup s = fetchGroup 5 {} s := by
  unfold nextGroup
  rw [hp, hm]

/-! ### The group at the program counter -/

theorem hint_counts {c d : Scan} {w : Word} (h : c.hint w = .ok d) : c.n ≠ 3 ∧ d.n = c.n + 1 := by
  unfold Scan.hint at h
  split at h
  · cases h
  split at h
  · cases h
  rename_i hn
  refine ⟨hn, ?_⟩
  dsimp only at h
  split at h <;> split at h <;> cases h <;> rfl

/-- Words that are fetched one after another, and that decode to an instruction which takes them all, are formed into it (R180, R184). -/
theorem fetchGroup_decodes {i : Instr} (ws : List Word) (fuel : Nat) (f : Forming) (s : State) (hw : Fetches s f.n ws t)
    (hd : decodeFrom f.scan ws = .ok (i, f.n + ws.length)) (hn : f.scan.n = f.n) (hp : f.packets = []) (hl : f.n ≤ 3)
    (hf : fuel + f.n = 5) : fetchGroup fuel f s = (t, .run i) := by
  induction ws generalizing fuel f s with
  | nil => cases hd
  | cons w r ih =>
    obtain ⟨fuel, rfl⟩ : ∃ k, fuel = k + 1 := ⟨fuel - 1, by omega⟩
    obtain ⟨u, hu, hb, hv, hr⟩ := hw
    have hbreak : (breakAt u.mgmt (wordAddr s.cur f.n) && !u.cur.skipWatch) = false := by
      cases e : breakAt u.mgmt (wordAddr s.cur f.n) with
      | false => rfl
      | true => rw [hb e]; rfl
    unfold fetchGroup
    dsimp only
    rw [hu]
    dsimp only
    rw [hbreak, hv]
    simp only [Bool.false_eq_true, if_false]
    unfold decodeFrom at hd
    unfold Forming.take
    by_cases hh : isHint w = true
    · rw [if_pos hh] at hd ⊢
      cases hc : f.scan.hint w with
      | error e => rw [hc] at hd; cases hd
      | ok c =>
        rw [hc] at hd
        obtain ⟨h3, hcn⟩ := hint_counts hc
        refine ih fuel { f with scan := c, n := f.n + 1 } u hr ?_ (by rw [hcn, hn]) hp (by dsimp only; omega) (by dsimp only; omega)
        dsimp only
        rw [show f.n + 1 + r.length = f.n + (w :: r).length by rw [List.length_cons]; omega]
        exact hd
    · rw [if_neg hh] at hd ⊢
      cases hc : f.scan.finish w with
      | error e => rw [hc] at hd; cases hd
      | ok j =>
        rw [hc] at hd
        obtain ⟨rfl, hlen⟩ : j = i ∧ f.scan.n + 1 = f.n + (w :: r).length := by simpa using hd
        obtain rfl : r = [] := List.eq_nil_of_length_eq_zero (by rw [List.length_cons] at hlen; omega)
        obtain rfl : t = u := hr
        dsimp only
        unfold emitPatches
        rw [hp]
        rfl

/-! ### A fetch of quiet memory -/

theorem coreAt_own (s : State) : s.coreAt s.core.id = s.core := by
  unfold State.coreAt
  rw [if_pos rfl]

/-- A change of the issuing core's L1 leaves the rest of the machine. -/
theorem modCore_own (s : State) (f : Core → Core) (hf : ∀ k, (f k).id = k.id) :
    s.modCore s.core.id f = { s with core := f s.core } := by
  unfold State.modCore State.setCore
  rw [coreAt_own, if_pos (hf s.core).symm]

theorem l1Drop_eq (k : Core) (id : LineId) : ∃ l, l1Drop k id = { k with l1 := l } := ⟨_, rfl⟩

theorem l1Put_eq (k : Core) (x : L1Line) : ∃ l, l1Put k x = { k with l1 := l } := by
  unfold l1Put
  dsimp only
  split
  · exact l1Drop_eq k x.id
  split
  · exact ⟨_, rfl⟩
  split <;> exact ⟨_, rfl⟩

theorem l1Filled_eq (s : State) (m : Mask) (line : L1Line) (l1 : Bool) (cpol : BitVec 3) :
    ∃ l, l1Filled s (curIssuer s m) line l1 cpol = { s with core := { s.core with l1 := l } } := by
  have hwarp : ¬ (!(curIssuer s m).isWarp) = true := Bool.false_ne_true
  have hmod : ∀ f, (curIssuer s m).modCore s f = s.modCore s.core.id f := fun _ => rfl
  unfold l1Filled
  dsimp only
  rw [if_neg hwarp, hmod, modCore_own s _ fun k => ?_]
  · split
    · obtain ⟨l, hl⟩ := l1Put_eq s.core line
      exact ⟨l, by rw [hl]⟩
    · exact ⟨_, rfl⟩
  · split
    · obtain ⟨l, hl⟩ := l1Put_eq k line
      rw [hl]
    · rfl

/-- A load of a line that nothing holds reads the memory's bytes at its home, and may change the issuing core's L1 (R59). -/
theorem loadHome_quiet (h : Quiet s) {a : Acc} (hk : s.mgmt.material a.key = none) (m : Mask) (pa n : Nat) (l1 : Bool) (cpol : BitVec 3) :
    ∃ l tok dr, loadHome s (curIssuer s m) a pa n l1 true cpol = ({ s with core := { s.core with l1 := l } },
      .ok ⟨((s.home.mem.bytes (pa / 64 * 64) 64).drop (pa % 64)).take n, tok, dr⟩) := by
  have hc := Quiet.calm h
  obtain ⟨-, -, -, -, -, hlost, -⟩ := h
  unfold loadHome
  dsimp only
  rw [hc.mustWait rfl (.inl rfl)]
  simp only [Bool.false_eq_true, if_false]
  rw [hc.recallLine, hc.readGran hk]
  dsimp only
  rw [hlost]
  simp only [List.contains_nil, Bool.false_eq_true, if_false, if_true]
  obtain ⟨l, hl⟩ := l1Filled_eq s m _ l1 cpol
  rw [hl]
  exact ⟨l, _, _, rfl⟩

theorem bytes_slice (m : Memory) (a k n l : Nat) (h : k + n ≤ l) : ((m.bytes a l).drop k).take n = m.bytes (a + k) n := by
  obtain ⟨r, rfl⟩ := Nat.exists_eq_add_of_le h
  rw [Nat.add_assoc, bytes_append, List.drop_left' (bytes_length ..), bytes_append, List.take_left' (bytes_length ..)]

theorem overPub_none (h : ∀ l ∈ s.launches, l.pub = []) (launch : Word) (pa : Nat) (b : List Byte) : overPub s launch pa b = b := by
  unfold overPub
  split
  · rename_i l hl
    rw [h l (List.mem_of_find?_eq_some hl)]
    rfl
  · rfl

theorem ownHeld_quiet (h : Quiet s) (c : Nat) (id : LineId) (fresh : Bool) : ownHeld s c id fresh = false := by
  obtain ⟨hheld, -⟩ := h
  unfold ownHeld
  rw [hheld]
  rfl

theorem engineHolds_quiet (h : Quiet s) (i : Issuer) (va n : Nat) : engineHolds s i va n = false := by
  obtain ⟨-, -, -, -, -, -, -, hcores, -⟩ := h
  have hk : (s.coreAt i.core).copies = [] ∧ (s.coreAt i.core).jobs = [] := by
    obtain hm | e := coreAt_mem s i.core
    · exact (hcores _ hm).2.2
    · rw [e]; exact ⟨rfl, rfl⟩
  unfold engineHolds
  dsimp only
  rw [hk.1, hk.2]
  simp

/-- A fresh load within a line of quiet memory reads the memory's bytes. -/
theorem loadPart_quiet (h : Quiet s) {a : Acc} (hk : s.mgmt.material a.key = none) (m : Mask) {p : Part} {pa : Nat}
    (hp : p.place = .mem pa false) (hl : pa % 64 + p.n ≤ 64) (cpol : BitVec 3) :
    ∃ l tok dr, Machine.loadPart s (curIssuer s m) a p true cpol = ({ s with core := { s.core with l1 := l } },
      .ok ⟨s.home.mem.bytes pa p.n, tok, dr⟩) := by
  obtain ⟨l, tok, dr, hload⟩ := loadHome_quiet h hk m pa p.n true cpol
  rw [bytes_slice _ _ _ _ _ hl, Nat.div_add_mod' pa 64] at hload
  refine ⟨l, tok, dr, ?_⟩
  unfold Machine.loadPart
  rw [hp]
  dsimp only [Bool.true_or]
  rw [ownHeld_quiet h]
  simp only [Bool.false_and, Bool.or_self, Bool.false_eq_true, if_false, Bool.true_or, if_true]
  rw [show ((curIssuer s m).isWarp && !false) = true from rfl, hload]
  obtain ⟨-, -, -, -, -, -, hpub, -⟩ := h
  exact congrArg (fun b => (_, Done.ok (Loaded.mk b tok dr))) (overPub_none hpub _ _ _)

theorem loadAcc_quiet (h : Quiet s) {a : Acc} (m : Mask) {p : Part} {pa : Nat} (hps : a.parts = [p]) (hk : s.mgmt.material p.key = none)
    (hp : p.place = .mem pa false) (hl : pa % 64 + p.n ≤ 64) (cpol : BitVec 3) :
    ∃ l x, loadAcc s (curIssuer s m) a true cpol = ({ s with core := { s.core with l1 := l } }, .ok x) ∧ x.bytes = s.home.mem.bytes pa p.n := by
  obtain ⟨l, tok, dr, hload⟩ := loadPart_quiet (a := { a with key := p.key }) h hk m hp hl cpol
  unfold loadAcc
  rw [hps] at hload
  rw [engineHolds_quiet h, hps]
  simp only [Bool.false_eq_true, if_false, List.foldl_cons, List.foldl_nil]
  rw [hload]
  exact ⟨l, _, rfl, rfl⟩

/-- A word that nothing holds is fetched as its four bytes read, and stays in the instruction buffer (R44, R107). -/
theorem fetchWord_quiet (s : State) (va : Dword) (pa : Nat) (a : Acc) (p : Machine.Part) (h : Quiet s) (hk : s.mgmt.material p.key = none)
    (hva : inAperture va = false) (hb : buffered s va = none) (ht : translate s (curCtx s) va 4 .fetch = (s, .ok a)) (hps : a.parts = [p])
    (hp : p.place = .mem pa false) (hn : p.n = 4) (hl : pa % 64 + 4 ≤ 64) :
    ∃ t, fetchWord s va = (t, .ok (BitVec.ofNat 32 (s.home.mem.nat pa 4)))
      ∧ t = { s with core := { s.core with l1 := t.core.l1 }, cur := { s.cur with ibuf := t.cur.ibuf } }
      ∧ (s.sched.walk = false → (va, BitVec.ofNat 32 (s.home.mem.nat pa 4)) ∈ t.cur.ibuf) := by
  obtain ⟨l, x, hload, hx⟩ := loadAcc_quiet h allLanes hps hk hp (by rw [hn]; exact hl) 3
  have hword : leNat x.bytes = s.home.mem.nat pa 4 := by rw [hx, hn]; rfl
  have hfetch : fetchWord s va = (keepWord { s with core := { s.core with l1 := l } } va (BitVec.ofNat 32 (s.home.mem.nat pa 4)),
      .ok (BitVec.ofNat 32 (s.home.mem.nat pa 4))) := by
    unfold fetchWord
    rw [hva, hb, ht]
    simp only [Bool.false_eq_true, if_false]
    rw [hload]
    dsimp only
    rw [hword]
  refine ⟨_, hfetch, ?_, fun hwalk => ?_⟩
  · unfold keepWord
    split <;> rfl
  · unfold keepWord
    rw [if_neg (by rw [hwalk]; exact Bool.false_ne_true)]
    exact List.mem_append_right _ (List.mem_singleton.2 rfl)

/-- A word in the warp's instruction buffer is fetched from there. -/
theorem fetchWord_buffered (s : State) (va : Dword) (w : Word) (hva : inAperture va = false) (hb : buffered s va = some w) :
    fetchWord s va = (s, .ok w) := by
  unfold fetchWord
  rw [hva, hb]
  rfl

/-! ### A program placed by hand -/

theorem wordsOf_take (x : Nat) : ∀ {n m : Nat}, n ≤ m → (wordsOf m x).take n = wordsOf n x := by
  intro n m h
  induction n generalizing m x with
  | zero => rfl
  | succ n ih =>
    obtain ⟨m, rfl⟩ : ∃ k, m = k + 1 := ⟨m - 1, by omega⟩
    exact congrArg (_ :: ·) (ih (x / 2 ^ 32) (by omega))

theorem wordsOf_length (n x : Nat) : (wordsOf n x).length = n := by
  induction n generalizing x with
  | zero => rfl
  | succ n ih => exact congrArg (· + 1) (ih _)

/-- Memory that holds the bytes of words reads as the words. -/
theorem words_read (m : Memory) (a : Nat) (ws : List Word) (h : m.bytes a (4 * ws.length) = ws.flatMap fun x => leBytes 4 x.toNat) :
    ((List.range ws.length).map fun k => BitVec.ofNat 32 (m.nat (a + 4 * k) 4)) = ws := by
  induction ws generalizing a with
  | nil => rfl
  | cons w ws ih =>
    rw [List.length_cons, Nat.mul_succ, Nat.add_comm, bytes_append, List.flatMap_cons] at h
    obtain ⟨h1, h2⟩ := List.append_inj h (by simp)
    have hw : BitVec.ofNat 32 (m.nat a 4) = w := by
      unfold Memory.nat
      rw [h1, leNat_leBytes]
      exact BitVec.eq_of_toNat_eq (by rw [BitVec.toNat_ofNat]; omega)
    rw [List.length_cons, List.range_succ_eq_map, List.map_cons, List.map_map]
    refine congrArg₂ List.cons hw (Eq.trans (List.map_congr_left fun k _ => ?_) (ih (a + 4) h2))
    show BitVec.ofNat 32 (m.nat (a + 4 * (k + 1)) 4) = _
    rw [Nat.mul_succ, Nat.add_comm (4 * k), ← Nat.add_assoc]

theorem placedMemory_reads (code : List Byte) : (placedMemory code).bytes codeAt code.length = code :=
  bytes_put_same (put_wf (put_wf (by rfl) _ _) _ _) _ _

theorem withFetchWord_mem (s : State) (nbits w : Nat) : (s.withFetchWord nbits w).home.mem = placedMemory (codeBytes nbits w) := by
  unfold State.withFetchWord placed
  dsimp only

/-- What the program memory of a placed instruction holds: its words (R176). -/
theorem withFetchWord_words (s : State) (nbits w : Nat) {n : Nat} (hn : n ≤ 4) :
    ((List.range n).map fun k => BitVec.ofNat 32 ((s.withFetchWord nbits w).home.mem.nat (codeAt + 4 * k) 4)) = wordsOf n (w % 2 ^ nbits) := by
  have hlen : (codeBytes nbits w).length = 4 * (wordsOf 4 (w % 2 ^ nbits)).length := by
    simp [codeBytes, wordsOf]
  have h := words_read (placedMemory (codeBytes nbits w)) codeAt (wordsOf 4 (w % 2 ^ nbits)) (by rw [← hlen, placedMemory_reads]; rfl)
  rw [wordsOf_length] at h
  have ht := congrArg (List.take n) h
  rw [wordsOf_take _ hn, ← List.map_take, List.take_range, Nat.min_eq_left hn] at ht
  rw [withFetchWord_mem]
  exact ht

theorem decodeTableWord_placed (nbits w : Nat) (i : Instr) (h0 : nbits ≠ 0) (h128 : nbits ≤ 128) (hi : decodeTableWord nbits w = some i) :
    ∃ n, decodeGroup ((List.range ((nbits + 31) / 32)).map fun k =>
      BitVec.ofNat 32 ((State.reset.withFetchWord nbits w).home.mem.nat (codeAt + 4 * k) 4)) = .ok (i, n) := by
  rw [withFetchWord_words _ _ _ (by omega)]
  unfold decodeTableWord at hi
  rw [if_neg h0] at hi
  split at hi
  · rename_i j n hd
    cases hi
    exact ⟨n, hd⟩
  · cases hi

/-! ### The whole -/

/-- Settles O53: a step takes an input, else a due event, else the parked group or the words at the program counter of the warp whose turn it
is. That order, the instruction buffer and how a program is placed by hand are the model's choice (log 1, 101 and 3). -/
theorem stepRunsTheDecodedInstruction : Obligations.StepRunsTheDecodedInstruction := by
  refine ⟨fun s c slot ws i t hi hr he hu hp hm hf hd _ => ?_, fun s c slot i hi hr he hu hp => ?_, fun s i => step_event,
    fun s i r => step_input, fun s => step_nothing, fetchWord_quiet, fetchWord_buffered, decodeTableWord_placed⟩
  · refine step_runs hi hr he hu ((nextGroup_fetches hp hm).trans (fetchGroup_decodes ws 5 {} _ hf ?_ rfl rfl (by decide) (by decide)))
    rw [Nat.zero_add]
    exact hd
  · exact step_runs hi hr he hu (nextGroup_parked hp)

end Sys2Proof.Stepping
end
